-- ==== Sys2Proof/Word.lean ====
section
/-! DEFINITION. The word types: a register word (R6), a byte of a memory, and a key of a sparse map. -/
namespace Sys2Proof

/-- A 32-bit register word (R6). -/
abbrev Word := BitVec 32

/-- One byte of a memory (R5). -/
abbrev Byte := BitVec 8

end Sys2Proof
end

