-- ==== Sys2Proof/Syntax.lean ====
section
/-! DEFINITION. The commands the block takes, one constructor per row of the opcode table, and the types of their
operands. A command is what the world outside does to the module: a bus access, a received message, an edge on a pin,
or an instant of one of the module's clocks that a rule of the spec names. -/
namespace Sys2Proof.Machine

/-- A network port: A or B (R106). -/
inductive Port where
  | a | b
deriving DecidableEq, Repr

/-- The ordering codes of R1 and R2. -/
inductive Variant where
  | v16E | v16N | v8E
deriving DecidableEq, Repr

/-- Who makes an access to a register or a memory: a hart in machine or user mode, an LCP request or a host SPI
transaction with its rights (R358), or a block of the module itself. -/
inductive Master where
  | hart (h : Nat) (mmode : Bool)
  | lcp (rights : Nat)
  | hspi (rights : Nat)
  | block
deriving DecidableEq, Repr

/-- What an error-correcting code finds in the word an access reads (R137, R335). -/
inductive Ecc where
  | clean | corrected | uncorrectable
deriving DecidableEq, Repr

/-- What a PTP event or general message carries that the module reads (R75, R77). Times are in ns of the sender's or
the receiver's clock; `corr` is the correctionField in ns. -/
structure PtpSync where
  port : Port
  source : Nat
  domain : Nat
  seq : Nat
  twoStep : Bool
  t1 : Nat
  corr : Int
  t2 : Nat
deriving DecidableEq, Repr

/-- An Announce message: the dataset the default BMCA compares. -/
structure PtpAnnounce where
  port : Port
  source : Nat
  domain : Nat
  gmId : Nat
  prio1 : Nat
  clockClass : Nat
  accuracy : Nat
  variance : Nat
  prio2 : Nat
  steps : Nat
deriving DecidableEq, Repr

/-- The kinds of PTP message the module refuses or discards (R75). -/
inductive PtpRefused where
  | peerDelay | management | signalling
deriving DecidableEq, Repr

/-- How a received frame's payload presents itself to the classes of R110. -/
inductive NetKind where
  | udp (dst dport src sport : Nat)
  | igmp
  | other
deriving DecidableEq, Repr

/-- The destination MAC address, as class 6 of R110 reads it; `multicast` carries the IPv4 group. -/
inductive MacDest where
  | own | broadcast | multicast (group : Nat) | foreign
deriving DecidableEq, Repr

/-- A received Ethernet frame: what the checks and classes of R106, R110, R111 and R132 read, and its bytes from the
destination MAC address, without FCS. `time` is the frame time of its arrival, `vid` the VLAN ID of its 802.1Q tag, 0
when priority-tagged, and `ts` the RTP timestamp of a UDP payload read as RTP. -/
structure NetFrame where
  port : Port
  time : Nat
  ts : Nat
  fcsOk : Bool
  size : Nat
  vid : Option Nat
  macControl : Bool
  dest : MacDest
  kind : NetKind
  bytes : List Byte
deriving DecidableEq, Repr

/-- A media packet (R110 class 4) arriving at frame time `time`: IPv4, UDP and RTP header fields, and the UDP payload
after the 12-byte RTP header. `ecc` is what ingest's (72,64) code finds in its merge records and mapping state while it
takes the packet (R135). -/
structure MediaPacket where
  port : Port
  ecc : Ecc
  time : Nat
  dst : Nat
  dport : Nat
  src : Nat
  ihl : Nat
  ipSumOk : Bool
  moreFragments : Bool
  fragOffset : Nat
  udpSumOk : Bool
  version : Nat
  padding : Bool
  extension : Bool
  csrc : Nat
  marker : Bool
  pt : Nat
  seq : Nat
  ts : Nat
  ssrc : Nat
  payload : List Byte
deriving DecidableEq, Repr

/-- A picture header as XSDEC checks it (R122): a profile of R113, width, height, components, 4:4:4 sampling, depth. -/
structure JxsHeader where
  profileOk : Bool
  width : Nat
  height : Nat
  components : Nat
  full : Bool
  depth : Nat
deriving DecidableEq, Repr

/-- What XSDEC makes of the data of a slice: the codes (r, g, b) of its pixels in row order, or a syntax or entropy
error of R122. -/
inductive SliceResult where
  | decoded (pixels : List (Nat × Nat × Nat))
  | marker
  | entropy
deriving DecidableEq, Repr

/-- A slice as XSDEC decodes it: the picture header, none where its syntax is broken (R122), what the code over XSDEC's
working memory finds (R135), and what becomes of the slice's data. -/
structure SliceDecode where
  header : Option JxsHeader
  ecc : Ecc
  result : SliceResult
deriving DecidableEq, Repr

/-- H(n), and what the check code of the module's copy of the member table shows when PARTY reads it there (R90, R326). -/
structure HaveDue where
  n : Nat
  table : Ecc
deriving DecidableEq, Repr

/-- The STATUS_WORD reads that follow an alert, none for a refused one (R255), and what the check code of RAIL's write
buffer shows at the items they make (R268). -/
structure AlertReads where
  words : List (Nat × Option Nat)
  buf : Ecc
deriving DecidableEq, Repr

/-- An IGMP query as the port's agent reads it (R112): the version it was sent in, group 0 for a General Query. -/
structure IgmpQuery where
  version : Nat
  group : Nat
deriving DecidableEq, Repr

/-- What a core does at a memory address (R330, R333): AMO operations are those of the A extension. -/
inductive AmoOp where
  | swap | add | and | or | xor | max | min | maxu | minu
deriving DecidableEq, Repr

/-- A core's access. Sizes are in bytes; a store's length is the length of its data. -/
inductive CoreOp where
  | fetch (size : Nat)
  | load (size : Nat)
  | store (data : List Byte)
  | loadReserved
  | storeConditional (data : List Byte)
  | amo (op : AmoOp) (value : Word)
  /-- FENCE.I: it reaches no memory (R331). -/
  | fenceI
deriving DecidableEq, Repr

/-- Why the store becomes unusable (R159). -/
inductive StoreCause where
  | training | sparesOut | remapState
deriving DecidableEq, Repr

/-- A report as a strand port receives it in a return window (R233): its fields, or why it does not decode (R234). -/
structure StrandReport where
  pos : Nat
  kind : Nat
  reg : Nat
  /-- The 4 bytes of a READ report's DATA, or the 11 of a POLL report's. -/
  data : List Byte
  /-- A cell error or a gap inside the report. -/
  broken : Bool
  /-- RCRC as received. -/
  rcrc : Nat
deriving DecidableEq, Repr

/-- The faults of a metering channel (R291). -/
inductive MeterFault where
  /-- MOD_FAULT of a channel. -/
  | modulator (ch : Nat)
  /-- REF_FAULT of the page. -/
  | reference
  /-- ECC_UNCORR in the filter state of a channel, or, on METER_ACC, in an accumulator. -/
  | ecc (ch : Nat)
deriving DecidableEq, Repr

/-- A belay packet that passed the checks of R314: header FLAGS and SEQ, the payload, and what the link's buffers did to it
(R326). -/
structure BelayPkt where
  flags : Nat
  seq : Nat
  payload : List Byte
  ecc : Ecc := .clean
deriving DecidableEq, Repr

/-- A REQUEST of an LCP session, its tag verified and its body decrypted (R363, R366): SESSION, SEQ and REQ_ID. -/
structure LcpReq where
  session : Nat
  seq : Nat
  reqId : Nat
  /-- The OP of a body that breaks R366 (an unknown OP, a reserved field not 0, or a length that is not the OP's). -/
  malformed : Option Nat := none
deriving DecidableEq, Repr

/-- A radio frame as the MAC receives it, past its FCS, PHR and MIC (R375, R379): header, type fields, and the decrypted
payload. `acked` is ACKED_FC of an ACK, or ACK_FC of LINK and TERMINATE. `start` is the side-link time, µs, of its
first preamble bit. -/
structure SideFrame where
  net : Nat
  dst : Nat
  src : Nat
  key : Nat
  fc : Nat
  event : Nat
  acked : Nat
  reason : Nat
  payload : List Byte
  rssi : Nat
  start : Nat
deriving DecidableEq, Repr

/-- How a mailbox command fares apart from its request: it runs, its key-store write or read-back fails (STATUS STORE of
R414), or it meets an uncorrectable word of the private SRAM (R423). -/
inductive AnchorFate where
  | runs | storeFails | eccFails
deriving DecidableEq, Repr

end Sys2Proof.Machine

namespace Sys2Proof

open Machine

/-- The commands of the LYS-SC48: one constructor per row of the opcode table. -/
inductive Instr where
  /-- REGISTER_WRITE: master `m` writes `value` to the register at offset `off` of page `page` (R8). -/
  | registerWrite (m : Master) (page off : Nat) (value : Word)
  /-- PG_LOCK_WRITE: a write of PG_LOCK of a page (R14). -/
  | pgLockWrite (m : Master) (page : Nat) (value : Word)
  /-- COUNTER_CLEAR: a write of the CNT_CLR register at offset `off` of a page (R15). -/
  | counterClear (m : Master) (page off : Nat) (value : Word)
  /-- IRQ_STAT_CLEAR: a write of PG_IRQ_STAT; `events` are the bits events set in the same cycle (R11). -/
  | irqStatClear (m : Master) (page mask events : Nat)
  /-- FENCE_CLEAR: a write of 1 to PG_FENCE.ACTIVE; `present` lists the units whose cause has not gone (R12). -/
  | fenceClear (m : Master) (page : Nat) (present : List Nat)
  /-- IDLE_REQUEST: a write of 1 to PG_CTRL.IDLE_REQ (R10). -/
  | idleRequest (m : Master) (page : Nat)
  /-- PTP_SYNC_RECEIVE (R77). -/
  | ptpSyncReceive (sync : PtpSync)
  /-- PTP_FOLLOW_UP_RECEIVE: the Follow_Up of a two-step Sync (R77). -/
  | ptpFollowUpReceive (port : Port) (source seq t1 : Nat) (corr : Int)
  /-- PTP_DELAY_REQ_TIMER: the randomised interval ends; the Delay_Req leaves at `t3` (R531). -/
  | ptpDelayReqTimer (t3 : Nat)
  /-- PTP_DELAY_RESP_RECEIVE: a Delay_Resp with its receive time `t4`, correction and logMessageInterval (R531). -/
  | ptpDelayRespReceive (port : Port) (source seq t4 : Nat) (corr : Int) (logInterval : Int)
  /-- PTP_ANNOUNCE_RECEIVE (R80). -/
  | ptpAnnounceReceive (ann : PtpAnnounce)
  /-- PTP_MESSAGE_REFUSED (R75). -/
  | ptpMessageRefused (kind : PtpRefused)
  /-- ANNOUNCE_RECEIPT_TIMEOUT on a port (R76). -/
  | announceReceiptTimeout (port : Port)
  /-- GM_SYNC_SEND: an interval of the grandmaster ends; `announce` tells Announce from Sync (R80). -/
  | gmSyncSend (announce : Bool)
  /-- GM_DELAY_REQ_RECEIVE: a Delay_Req received at `t4` (R80). -/
  | gmDelayReqReceive (port : Port) (source seq t4 : Nat)
  /-- PTP_SAMPLE_LOSS: no valid sample for 8 sync intervals (R78). -/
  | ptpSampleLoss
  /-- HOLDOVER_60S (R78). -/
  | holdover60s
  /-- PPS_PULSE: frame time reaches a whole second (R524). -/
  | ppsPulse
  /-- PPS_FALL: 100 ms after the rise (R524). -/
  | ppsFall
  /-- FRAME_BOUNDARY: frame time reaches P(n) (R28). -/
  | frameBoundary (n : Nat)
  /-- COMMIT_DUE: frame time reaches D(n) (R41). -/
  | commitDue (n : Nat)
  /-- HAVE_SEND_DEADLINE: frame time reaches H(n) (R90). -/
  | haveSendDeadline (due : HaveDue)
  /-- HAVE_RECEIVE: a HAVE datagram on a port (R92). -/
  | haveReceive (port : Port) (msg : List Byte)
  /-- QUORUM_CLOSE_AT_C: frame time reaches C(n) (R91). -/
  | quorumCloseAtC (n : Nat)
  /-- COMMIT_RECEIVE: a COMMIT datagram on a port (R94). -/
  | commitReceive (port : Port) (msg : List Byte)
  /-- LISTEN_END (R299). -/
  | listenEnd
  /-- GEN_ANNOUNCE_RECEIVE (R532). -/
  | genAnnounceReceive (port : Port) (msg : List Byte)
  /-- GEN_ANNOUNCE_SEND: COMMIT_ANN_CTRL.SEND (R101). -/
  | genAnnounceSend (m : Master)
  /-- GEN_STAGE_GO: a write of COMMIT_STAGE_CTRL with GO (R99). -/
  | genStageGo (m : Master) (slot : Nat)
  /-- GEN_STAGE_DONE (R100). -/
  | genStageDone
  /-- ACTIVATE_RECEIVE: an ACTIVATE datagram on a port (R439). -/
  | activateReceive (port : Port) (msg : List Byte)
  /-- SFP_INSERT: SFPx_ABS goes low (R107). -/
  | sfpInsert (port : Port)
  /-- SFP_REMOVE: SFPx_ABS goes high (R107). -/
  | sfpRemove (port : Port)
  /-- LINK_TXDIS_TIMER: 300 ms after the origin (R107). -/
  | linkTxdisTimer (port : Port)
  /-- LINK_SPEED_ALTERNATE (R107). -/
  | linkSpeedAlternate (port : Port)
  /-- LINK_UP: block lock has held for 10 ms; `fecAligned` says whether FEC alignment has too (R107). -/
  | linkUp (port : Port) (fecAligned : Bool)
  /-- LINK_DOWN; `los` when SFPx_LOS went high (R107). -/
  | linkDown (port : Port) (los : Bool)
  /-- TX_FAULT: SFPx_TXFLT goes high (R108). -/
  | txFault (port : Port)
  /-- TX_FAULT_RETRY: the 10 ms release ends; `level` is SFPx_TXFLT then (R108). -/
  | txFaultRetry (port : Port) (level : Bool)
  /-- NET_FRAME_RECEIVE (R110). -/
  | netFrameReceive (frame : NetFrame)
  /-- IGMP_QUERY_RECEIVE (R112). -/
  | igmpQueryReceive (port : Port) (query : IgmpQuery)
  /-- IGMP_REPORT_TIMER (R112). -/
  | igmpReportTimer (port : Port)
  /-- MEDIA_PACKET_RECEIVE (R116). -/
  | mediaPacketReceive (pkt : MediaPacket)
  /-- XSDEC_SLICE_DECODE: slice `slice` of stream `k` and frame `f`, rows `row` to `row + rows − 1`, whose last byte
  lies in packet `last`; `us` is the time since the first needed slice's start (R122, R123). -/
  | xsdecSliceDecode (k f slice row rows last us : Nat) (decode : SliceDecode)
  /-- STORE_INIT_DONE: training and initialisation complete; `bad` are the words that read back uncorrectable (R139). -/
  | storeInitDone (bad : List Nat)
  /-- STORE_WINDOW_ACCESS: hart `h` accesses core address `addr` of a store window (R149, R150). -/
  | storeWindowAccess (h addr : Nat) (op : CoreOp) (ecc : Ecc)
  /-- STORE_REPAIR_DONE of a 64 KiB granule (R156). -/
  | storeRepairDone (granule : Nat)
  /-- PATROL_READ of the next line: what its words show beyond the poison memory holds, at worst, and the store's 64-bit word
  of which that is so (R157). -/
  | patrolRead (ecc : Ecc) (word : Nat)
  /-- WAKE_SCRUB_DONE (R158). -/
  | wakeScrubDone
  /-- STORE_UNUSABLE (R159). -/
  | storeUnusable (cause : StoreCause)
  /-- BURST_END: the burst of frame n ends (R163). -/
  | burstEnd
  /-- LANE_RESIDUE_MISMATCH in lane g (R186). -/
  | laneResidueMismatch (g : Nat)
  /-- GOV_FIGURES_FINAL of source frame f (R195). -/
  | govFiguresFinal (f : Nat)
  /-- SCREE_EVAL_DONE for frame n (R197). -/
  | screeEvalDone (n : Nat)
  /-- GOV_SURVEY_DONE (R198). -/
  | govSurveyDone
  /-- GOV_SNAP_REQUEST: a write of 1 to GOV_SNAP_CTRL.REQ (R206). -/
  | govSnapRequest (m : Master)
  /-- STRAND_SLOT_DRIVE of strand s: step 2 of the slot of frame n (R221). -/
  | strandSlotDrive (s n : Nat)
  /-- STRAND_FRAME_SEND of strand s (R218). -/
  | strandFrameSend (s : Nat)
  /-- STRAND_COMMAND_SEND of strand s (R223). -/
  | strandCommandSend (s : Nat)
  /-- RETURN_REPORT_RECEIVE on strand s; `buf` is what the telemetry source's write buffer shows (R234, R268). -/
  | returnReportReceive (s : Nat) (report : StrandReport) (buf : Ecc)
  /-- RETURN_WINDOW_CLOSE of strand s (R221 step 6). -/
  | returnWindowClose (s : Nat)
  /-- IDLE_INSERT on strand s (R226). -/
  | idleInsert (s : Nat)
  /-- PRESENT_SEND of strand s (R220). -/
  | presentSend (s : Nat)
  /-- STRAND_SLOT_RELEASE of strand s (R221 step 9). -/
  | strandSlotRelease (s : Nat)
  /-- STRAND_ABORT of strand s: the word at store address `a` that it fetches is poisoned (R240). -/
  | strandAbort (s a : Nat)
  /-- STRAND_CONTENTION on strand s (R241). -/
  | strandContention (s : Nat)
  /-- VIO_FAULT of group g: VIO_STRg reads `mv` millivolts (R241). -/
  | vioFault (g mv : Nat)
  /-- RAIL_RAMP_TICK: a whole millisecond of frame time (R246). -/
  | railRampTick
  /-- PMBUS_VOUT_WRITE of rail r; `ok` when the transaction is acknowledged and complete (R246, R256). -/
  | pmbusVoutWrite (r : Nat) (ok : Bool)
  /-- RAIL_START_ENABLE of rail r: 1 ms into a start. For a PMBus rail, `voutMode` is what the VOUT_MODE read of step 1
  gave, none when refused, and `ok` tells whether the write of LOW_CODE was (R247, R258). -/
  | railStartEnable (r : Nat) (voutMode : Option Nat) (ok : Bool)
  /-- RAIL_START_TARGET of rail r: 2 ms into a start (R247). -/
  | railStartTarget (r : Nat)
  /-- RAIL_LOOP_PERIOD: a period of rail r ends (R251). -/
  | railLoopPeriod (r : Nat) (buf : Ecc)
  /-- PMBUS_STATUS_POLL of rail r: STATUS_WORD and READ_VOUT, none for a refused read (R255). -/
  | pmbusStatusPoll (r : Nat) (status vout : Option Nat) (buf : Ecc)
  /-- PMB_ALERT: PMB_ALERT_N falls; the STATUS_WORD read that follows on each PMBus rail (R255). -/
  | pmbAlert (reads : AlertReads)
  /-- PMBUS_FW_BUS: a write of RAIL_CFG.FW_BUS (R255). -/
  | pmbusFwBus (m : Master) (v : Bool)
  /-- TRIM_FAULT of rail r (R259). -/
  | trimFault (r : Nat)
  /-- RAIL_HOLD_EXPIRY of rail r (R260). -/
  | railHoldExpiry (r : Nat)
  /-- HANDOVER_ENABLE_DROP (R254). -/
  | handoverEnableDrop
  /-- RAIL_STOP_HOLD_END of rail r; `restart` tells the instant 2 ms after P(N) from the one 1 ms after (R247). -/
  | railStopHoldEnd (r : Nat) (restart : Bool)
  /-- TELEM_BANK_SWAP (R262). -/
  | telemBankSwap
  /-- TELEM_POP: a read of TELEM_POP; `ecc` is what the prefetch of the next item shows (R265, R268). -/
  | telemPop (m : Master) (ecc : Ecc)
  /-- TELEM_RELEASE: a write of TELEM_RELEASE (R265). -/
  | telemRelease (m : Master)
  /-- TELEM_FLUSH_REQUEST: a write of 1 to TELEM_CTRL.FLUSH (R267). -/
  | telemFlushRequest (m : Master)
  /-- TELEM_FLUSH_DONE (R267). -/
  | telemFlushDone
  /-- METER_AC_SAMPLE: the codes of the three voltage and four current channels (R272). -/
  | meterAcSample (codes : List Int)
  /-- METER_DC_SAMPLE: the codes of the 12 shunts and the 12 rail voltages (R274). -/
  | meterDcSample (shunts : List Int) (rails : List Nat)
  /-- METER_WINDOW_CLOSE (R275). -/
  | meterWindowClose
  /-- METER_SAVE_DONE: the record is written; `ok` when its read-back matches (R281). -/
  | meterSaveDone (ok : Bool)
  /-- METER_PF_REPEAT_END (R284). -/
  | meterPfRepeatEnd
  /-- METER_STMT_REQUEST: a write of 1 to METER_ACC_STMT_CTRL.REQ (R289). -/
  | meterStmtRequest (m : Master)
  /-- METER_STMT_READY (R289). -/
  | meterStmtReady
  /-- METER_DISP_CLEAR: a write of METER_ACC_DISP_CLR (R280). -/
  | meterDispClear (m : Master) (value : Word)
  /-- METER_CHANNEL_FAULT on a page of the meter (R291). -/
  | meterChannelFault (page : Nat) (fault : MeterFault)
  /-- LEAD_CLAIM: LEAD_N has been high over the window of slot n (R305). -/
  | leadClaim (n : Nat)
  /-- YIELD_RECEIVE (R309). -/
  | yieldReceive (pkt : BelayPkt)
  /-- ACCEPT_RECEIVE (R309). -/
  | acceptReceive (pkt : BelayPkt)
  /-- DECLINE_RECEIVE (R309). -/
  | declineReceive (pkt : BelayPkt)
  /-- HANDOVER_ACCEPT_DEADLINE: P(n) − 10 µs for a YIELD that named frame n (R309). -/
  | handoverAcceptDeadline (n : Nat)
  /-- HANDOVER_LEAD_RELEASE: step 1 of a handover at frame n (R310). -/
  | handoverLeadRelease (n : Nat)
  /-- HANDOVER_NEW_LEAD_SAMPLE: step 4 at frame n; `high` is the level of LEAD_N (R310). -/
  | handoverNewLeadSample (n : Nat) (high : Bool)
  /-- FRAME_CRC_RECEIVE (R312). -/
  | frameCrcReceive (pkt : BelayPkt)
  /-- HEART_SEND (R316). -/
  | heartSend
  /-- HEART_RECEIVE at frame time `rx` (R316). -/
  | heartReceive (pkt : BelayPkt) (rx : Nat)
  /-- BELAY_PACKET_ERROR (R314). -/
  | belayPacketError
  /-- BELAY_LINK_UP (R313). -/
  | belayLinkUp
  /-- BELAY_LINK_DOWN (R313). -/
  | belayLinkDown
  /-- PARTNER_LOST (R313). -/
  | partnerLost
  /-- RESYNC_START (R317). -/
  | resyncStart
  /-- RESYNC_REQ_RECEIVE (R317). -/
  | resyncReqReceive (pkt : BelayPkt)
  /-- RESYNC_DATA_RECEIVE (R317). -/
  | resyncDataReceive (pkt : BelayPkt)
  /-- RESYNC_NAK_RECEIVE (R317). -/
  | resyncNakReceive (pkt : BelayPkt)
  /-- RESYNC_INSTALL_RECEIVE (R319). -/
  | resyncInstallReceive (pkt : BelayPkt)
  /-- RESYNC_DATA_SEND: the lead's next packet (R317, R320). -/
  | resyncDataSend
  /-- IRQ_CLAIM: a read of IRQ_CLAIM (R339). -/
  | irqClaim (m : Master)
  /-- IRQ_COMPLETE: a write of IRQ_COMPLETE (R339). -/
  | irqComplete (m : Master) (value : Word)
  /-- IRQ_POST of a line; `ecc` is what its preset descriptor shows (R341). -/
  | irqPost (line : Nat) (ecc : Ecc)
  /-- IRQ_POST_RETRY of a deferred line (R341). -/
  | irqPostRetry (line : Nat) (ecc : Ecc)
  /-- MTIMER_EXPIRY of hart h (R340). -/
  | mtimerExpiry (h : Nat)
  /-- SCHED_PUSH: a write of SCHED_PUSH_W7 (R344). -/
  | schedPush (m : Master) (value : Word)
  /-- SCHED_DISPATCH to hart h; `ecc` is what the chosen item shows (R346). -/
  | schedDispatch (h : Nat) (ecc : Ecc)
  /-- SCHED_TAKE: a read of SCHED_TAKE (R347). -/
  | schedTake (m : Master)
  /-- SCHED_URGENT: the queued item of acceptance sequence `seq` becomes urgent (R343). -/
  | schedUrgent (seq : Nat)
  /-- SCHED_QFLUSH: a write of SCHED_QFLUSH (R349). -/
  | schedQflush (m : Master) (value : Word)
  /-- SCHED_CKPT_SAVE: a write of 1 to SCHED_CKPT.SAVE (R354). -/
  | schedCkptSave (m : Master)
  /-- SCHED_CKPT_RESTORE: a write of 1 to SCHED_CKPT.RESTORE (R354). -/
  | schedCkptRestore (m : Master)
  /-- SCHED_TRACE_READ: a read of SCHED_TRACE_LO (R351). -/
  | schedTraceRead (m : Master)
  /-- SCHED_TRACE_CLEAR: a write of 1 to SCHED_TRACE_CTRL.CLR (R351). -/
  | schedTraceClear (m : Master)
  /-- SCHED_QSTATE_FAULT (R353). -/
  | schedQstateFault
  /-- WDT_SYS_KICK: a write of WDT_SYS_KICK (R355). -/
  | wdtSysKick (m : Master) (value : Word)
  /-- WDT_SYS_HALF (R355). -/
  | wdtSysHalf
  /-- WDT_SYS_EXPIRY (R355). -/
  | wdtSysExpiry
  /-- WDT_CORE_KICK: a write of WDT_CORE_KICK (R356). -/
  | wdtCoreKick (m : Master) (value : Word)
  /-- WDT_CORE_EXPIRY of hart h (R356). -/
  | wdtCoreExpiry (h : Nat)
  /-- LCP_HELLO: a datagram of KIND HELLO on a port, its bytes (R362). -/
  | lcpHello (port : Port) (msg : List Byte)
  /-- LCP_CLOSE of a session, its tag verified (R363). -/
  | lcpClose (session seq : Nat)
  /-- LCP_SESSION_TIMEOUT (R363). -/
  | lcpSessionTimeout (session : Nat)
  /-- LCP_DATAGRAM_DROP by a code of R364 that the datagram itself shows: 0x0101, 0x0102 or 0x0104. -/
  | lcpDatagramDrop (code : Nat)
  /-- LCP_READ (R366). -/
  | lcpRead (q : LcpReq) (addr count : Nat)
  /-- LCP_WRITE (R366). -/
  | lcpWrite (q : LcpReq) (addr : Nat) (words : List Word)
  /-- LCP_STORE_READ (R369). -/
  | lcpStoreRead (q : LcpReq) (addr length : Nat)
  /-- LCP_STORE_WRITE (R369). -/
  | lcpStoreWrite (q : LcpReq) (addr length : Nat) (data : List Byte)
  /-- LCP_GEN_STAGE; `addr` is the store address ÷ 64 (R367). -/
  | lcpGenStage (q : LcpReq) (slot addr : Nat)
  /-- LCP_CAL_INSTALL; `src` and `dst` are store addresses ÷ 64 (R177). -/
  | lcpCalInstall (q : LcpReq) (src dst len : Nat)
  /-- LCP_RESET (R366). -/
  | lcpReset (q : LcpReq) (scope : Nat)
  /-- LCP_OWN_CLAIM (R323, R366). -/
  | lcpOwnClaim (q : LcpReq) (segment module : Nat)
  /-- LCP_IMG_BEGIN (R437). -/
  | lcpImgBegin (q : LcpReq) (header : List Byte)
  /-- LCP_IMG_DATA (R437). -/
  | lcpImgData (q : LcpReq) (offset : Nat) (data : List Byte)
  /-- LCP_IMG_COMMIT; `recOk` when the boot record read back (R437). -/
  | lcpImgCommit (q : LcpReq) (recOk : Bool)
  /-- LCP_IMG_ACTIVATE; `version` is 6 bytes as a number (R437). -/
  | lcpImgActivate (q : LcpReq) (scope version frame : Nat)
  /-- IMG_TRANSFER_TIMEOUT (R437). -/
  | imgTransferTimeout
  /-- LCP_XA_REG_READ: a write of LCP_XA_CTRL with GO and OP 0 (R359). -/
  | lcpXaRegRead (m : Master) (value : Word)
  /-- LCP_XA_REG_WRITE: OP 1 (R359). -/
  | lcpXaRegWrite (m : Master) (value : Word)
  /-- LCP_XA_STORE_READ: OP 2 (R369). -/
  | lcpXaStoreRead (m : Master) (value : Word)
  /-- LCP_XA_STORE_WRITE: OP 3 (R369). -/
  | lcpXaStoreWrite (m : Master) (value : Word)
  /-- LCP_TX_GO: a write of LCP_TX_CTRL (R361). -/
  | lcpTxGo (m : Master) (value : Word)
  /-- HSPI_READ of `count` words; `crcOk` when the host's CRC holds (R370). -/
  | hspiRead (addr count : Nat) (crcOk : Bool)
  /-- HSPI_WRITE (R370). -/
  | hspiWrite (addr : Nat) (words : List Word) (crcOk : Bool)
  /-- HSPI_STORE_READ (R370). -/
  | hspiStoreRead (addr length : Nat) (crcOk : Bool)
  /-- HSPI_STORE_WRITE (R370). -/
  | hspiStoreWrite (addr length : Nat) (data : List Byte) (crcOk : Bool)
  /-- HSPI_STATUS (R370). -/
  | hspiStatus
  /-- SYSRESET (R371). -/
  | sysreset (crcOk : Bool)
  /-- HOSTSPI_BELL_SET: a write of HOSTSPI_BELL_SET (R370). -/
  | hostspiBellSet (m : Master) (value : Word)
  /-- HOSTSPI_BELL_CLEAR: a write of HOSTSPI_BELL (R370). -/
  | hostspiBellClear (m : Master) (value : Word)
  /-- I2C_COMMAND: a write of I2Cn_CMD (R518). -/
  | i2cCommand (m : Master) (n : Nat) (value : Word)
  /-- I2C_COMMAND_DONE: RESULT 0 to 3 and the bytes read (R518). -/
  | i2cCommandDone (n result : Nat) (data : List Byte)
  /-- UART_RX_BYTE (R517). -/
  | uartRxByte (byte : Nat)
  /-- UART_DATA_READ: a read of UART_DATA (R517). -/
  | uartDataRead (m : Master)
  /-- UART_TX_BYTE: a write of UART_DATA (R517). -/
  | uartTxByte (m : Master) (value : Word)
  /-- GPIO_EDGE: pin `k` changes to `level` (R517). -/
  | gpioEdge (k : Nat) (level : Bool)
  /-- FAN_BELOW_MIN: fan k is measured at `rpm` (R69). -/
  | fanBelowMin (k rpm : Nat)
  /-- TEMP_MEASURE: the die's and the external sensors' temperatures in 1/16 °C, none for one not sensed (R520). -/
  | tempMeasure (die : Int) (ext : List (Option Int))
  /-- HSPI_TRANSACTION_REFUSED: a transaction of CMD `cmd` ends early, or its CMD is unknown (R370). -/
  | hspiTransactionRefused (cmd : Nat)
  /-- LATCHING_REGISTER_READ: a read of a register whose read latches others (R279). -/
  | latchingRegisterRead (m : Master) (page off : Nat)
  /-- CORE_MEMORY_ACCESS: hart `h` accesses core address `addr`; `ecc` is what the word shows (R333–R336). -/
  | coreMemoryAccess (h addr : Nat) (op : CoreOp) (ecc : Ecc)
  /-- RADIO_REGION_SET: a write of SYS_RADIO (R372). -/
  | radioRegionSet (m : Master) (value : Word)
  /-- SIDE_SEND_DATA: a write of SIDE_TX_GO for a DATA slot t (R375). -/
  | sideSendData (m : Master) (t : Nat)
  /-- SIDE_SEND_CONNECT: a write of SIDE_TX_GO for a CONNECT slot t (R384). -/
  | sideSendConnect (m : Master) (t : Nat)
  /-- SIDE_SEND_LINK: a write of SIDE_TX_GO for a LINK slot t (R386). -/
  | sideSendLink (m : Master) (t : Nat)
  /-- SIDE_SEND_TERMINATE: a write of SIDE_TX_GO for a TERMINATE slot t (R386). -/
  | sideSendTerminate (m : Master) (t : Nat)
  /-- SIDE_SEND_BEACON: a write of SIDE_TX_GO for a BEACON slot t (R376). -/
  | sideSendBeacon (m : Master) (t : Nat)
  /-- SIDE_SEND_WAKE: a write of SIDE_TX_GO for a WAKE slot t (R375). -/
  | sideSendWake (m : Master) (t : Nat)
  /-- SIDE_TX_START: the timing of R383 lets the next stateless frame start; `ecc` is what its slot shows (R389, R394). -/
  | sideTxStart (ecc : Ecc)
  /-- SIDE_ACK_SEND: 1,000 µs after a frame with ACK_REQ (R381). -/
  | sideAckSend
  /-- SIDE_ACK_TIMEOUT: no ACK came in the wait (R381). -/
  | sideAckTimeout
  /-- SIDE_RETRY_BACKOFF: the backoff ends (R381). -/
  | sideRetryBackoff
  /-- SIDE_DEADLINE_EXPIRY of slot t (R381). -/
  | sideDeadlineExpiry (t : Nat)
  /-- SIDE_BEACON_TIMER: the instant drawn in a beacon period (R383). -/
  | sideBeaconTimer
  /-- DISCOVERY_SECOND: a second boundary of R382. -/
  | discoverySecond
  /-- SIDE_BEACON_RECEIVE (R380, R382). -/
  | sideBeaconReceive (frame : SideFrame)
  /-- SIDE_DATA_RECEIVE; `ackReq` is its ACK_REQ (R380). -/
  | sideDataReceive (frame : SideFrame) (ackReq : Bool)
  /-- SIDE_ACK_RECEIVE (R381). -/
  | sideAckReceive (frame : SideFrame)
  /-- SIDE_CONNECT_RECEIVE (R384). -/
  | sideConnectReceive (frame : SideFrame)
  /-- SIDE_LINK_RECEIVE (R386). -/
  | sideLinkReceive (frame : SideFrame)
  /-- SIDE_TERMINATE_RECEIVE (R387). -/
  | sideTerminateReceive (frame : SideFrame)
  /-- SIDE_WAKE_RECEIVE (R471). -/
  | sideWakeReceive (frame : SideFrame)
  /-- SIDE_FRAME_REFUSED: a PPDU that fails FCS, format or MIC: SRC as received and the code 1, 2 or 5, or another code
  of R379 (R379). -/
  | sideFrameRefused (src code : Nat)
  /-- SIDE_LINK_ANCHOR of link l (R386). -/
  | sideLinkAnchor (l : Nat)
  /-- SIDE_LINK_REPLY of link l (R386). -/
  | sideLinkReply (l : Nat)
  /-- SIDE_LINK_SUPERVISION_TIMEOUT of link l (R387). -/
  | sideLinkSupervisionTimeout (l : Nat)
  /-- SIDE_EVT_POP: a read of SIDE_EVT (R388). -/
  | sideEvtPop (m : Master)
  /-- SIDE_RX_RETURN: a write of 1 to FULL of receive entry e (R379). -/
  | sideRxReturn (m : Master) (e : Nat)
  /-- SIDEPHY_PLL_UNLOCK (R394). -/
  | sidephyPllUnlock
  /-- SIDE_COUNTER_STORE_FAIL (R394). -/
  | sideCounterStoreFail
  /-- ANCHOR_READY: the steps of a start end: the entropy test, the self-tests, the key store's header, and the slots
  whose records failed their tag (R398). -/
  | anchorReady (entropy selftest header : Bool) (damaged : List Nat)
  /-- ANCHOR_COMMAND_DONE: the command that runs ends (R412). -/
  | anchorCommandDone
  /-- GET_INFO: master `m` writes this mailbox request and GO (R411, R415). -/
  | getInfo (m : Master) (tag : Nat) (params : List Byte) (fate : AnchorFate)
  /-- RANDOM: master `m` writes this mailbox request and GO (R411, R415). -/
  | random (m : Master) (tag : Nat) (params : List Byte) (fate : AnchorFate)
  /-- KEY_GEN: master `m` writes this mailbox request and GO (R411, R415). -/
  | keyGen (m : Master) (tag : Nat) (params : List Byte) (fate : AnchorFate)
  /-- KEY_IMPORT: master `m` writes this mailbox request and GO (R411, R415). -/
  | keyImport (m : Master) (tag : Nat) (params : List Byte) (fate : AnchorFate)
  /-- KEY_DESTROY: master `m` writes this mailbox request and GO (R411, R415). -/
  | keyDestroy (m : Master) (tag : Nat) (params : List Byte) (fate : AnchorFate)
  /-- KEY_PUSH: master `m` writes this mailbox request and GO (R411, R415). -/
  | keyPush (m : Master) (tag : Nat) (params : List Byte) (fate : AnchorFate)
  /-- PARTY_PROMOTE: master `m` writes this mailbox request and GO (R411, R415). -/
  | partyPromote (m : Master) (tag : Nat) (params : List Byte) (fate : AnchorFate)
  /-- DERIVE: master `m` writes this mailbox request and GO (R411, R415). -/
  | derive (m : Master) (tag : Nat) (params : List Byte) (fate : AnchorFate)
  /-- CIPHER: master `m` writes this mailbox request and GO (R411, R415). -/
  | cipher (m : Master) (tag : Nat) (params : List Byte) (fate : AnchorFate)
  /-- HASH: master `m` writes this mailbox request and GO (R411, R415). -/
  | hash (m : Master) (tag : Nat) (params : List Byte) (fate : AnchorFate)
  /-- HMAC: master `m` writes this mailbox request and GO (R411, R415). -/
  | hmac (m : Master) (tag : Nat) (params : List Byte) (fate : AnchorFate)
  /-- SIGN: master `m` writes this mailbox request and GO (R411, R415). -/
  | sign (m : Master) (tag : Nat) (params : List Byte) (fate : AnchorFate)
  /-- VERIFY: master `m` writes this mailbox request and GO (R411, R415). -/
  | verify (m : Master) (tag : Nat) (params : List Byte) (fate : AnchorFate)
  /-- LCP_AGREE: master `m` writes this mailbox request and GO (R411, R415). -/
  | lcpAgree (m : Master) (tag : Nat) (params : List Byte) (fate : AnchorFate)
  /-- LCP_SIGN: master `m` writes this mailbox request and GO (R411, R415). -/
  | lcpSign (m : Master) (tag : Nat) (params : List Byte) (fate : AnchorFate)
  /-- METER_SIGN: master `m` writes this mailbox request and GO (R411, R415). -/
  | meterSign (m : Master) (tag : Nat) (params : List Byte) (fate : AnchorFate)
  /-- ATTEST: master `m` writes this mailbox request and GO (R411, R415). -/
  | attest (m : Master) (tag : Nat) (params : List Byte) (fate : AnchorFate)
  /-- GET_CERT: master `m` writes this mailbox request and GO (R411, R415). -/
  | getCert (m : Master) (tag : Nat) (params : List Byte) (fate : AnchorFate)
  /-- LIFECYCLE: master `m` writes this mailbox request and GO (R411, R415). -/
  | lifecycle (m : Master) (tag : Nat) (params : List Byte) (fate : AnchorFate)
  /-- FUSE: master `m` writes this mailbox request and GO (R411, R415). -/
  | fuse (m : Master) (tag : Nat) (params : List Byte) (fate : AnchorFate)
  /-- TAMPER: master `m` writes this mailbox request and GO; `active` tells whether a tamper source is active (R422) (R411, R415). -/
  | tamper (m : Master) (tag : Nat) (params : List Byte) (fate : AnchorFate) (active : Bool)
  /-- TABLE_SEAL: master `m` writes this mailbox request and GO (R411, R415). -/
  | tableSeal (m : Master) (tag : Nat) (params : List Byte) (fate : AnchorFate)
  /-- TABLE_CHECK: master `m` writes this mailbox request and GO (R411, R415). -/
  | tableCheck (m : Master) (tag : Nat) (params : List Byte) (fate : AnchorFate)
  /-- ENTROPY_HEALTH_FAIL (R400). -/
  | entropyHealthFail
  /-- TAMPER_EVENT of source 0 loop, 1 supply, 2 clock, 3 temperature; sensed with the die unpowered or not (R421). -/
  | tamperEvent (source : Nat) (unpowered : Bool)
  /-- BOOT_IMAGE_CHECKED: hart 0's boot flow ends its check of the chosen image; `recOk` when each boot record it wrote
  read back (R428, R431). -/
  | bootImageChecked (recOk : Bool)
  /-- UPD_CHECK_HDR: a write of UPD_CTRL.CHECK_HDR (R434). -/
  | updCheckHdr (m : Master)
  /-- UPD_CHECK_BODY: a write of UPD_CTRL.CHECK_BODY (R434). -/
  | updCheckBody (m : Master)
  /-- UPD_PROGRAM: a write of UPD_CTRL.PROGRAM; `recOk` when the boot record read back (R431, R434). -/
  | updProgram (m : Master) (recOk : Bool)
  /-- UPD_ABORT: a write of UPD_CTRL.ABORT (R434). -/
  | updAbort (m : Master)
  /-- UPD_OPERATION_DONE: `dev` when NOR reads back what was programmed, `recOk` as before (R434). -/
  | updOperationDone (dev recOk : Bool)
  /-- UPD_CONFIRM: a write of UPD_CONFIRM (R433). -/
  | updConfirm (m : Master) (value : Word) (recOk : Bool)
  /-- UPD_HEALTH_HALF (R433). -/
  | updHealthHalf
  /-- UPD_HEALTH_EXPIRY (R433). -/
  | updHealthExpiry
  /-- UPD_BOOTREQ: a write of UPD_BOOTREQ (R429). -/
  | updBootreq (m : Master) (value : Word)
  /-- UPD_ACT_ARM: a write of UPD_ACT_CTRL.ARM (R438). -/
  | updActArm (m : Master)
  /-- UPD_ACT_DISARM: a write of UPD_ACT_CTRL.DISARM (R438). -/
  | updActDisarm (m : Master)
  /-- ACTIVATION_DUE: frame time reaches P(ACT_FRAME) (R438). -/
  | activationDue (recOk : Bool)
  /-- UPD_PACT_SEND: a write of UPD_PACT_CTRL.SEND (R439). -/
  | updPactSend (m : Master)
  /-- FLASH_ERASE: a write of FLASH_CTRL with GO and OP ERASE (R424). -/
  | flashErase (m : Master) (value : Word)
  /-- FLASH_PROGRAM: a write of FLASH_CTRL with GO and OP PROGRAM (R424). -/
  | flashProgram (m : Master) (value : Word)
  /-- FLASH_VERIFY: a write of FLASH_CTRL with GO and OP VERIFY (R424). -/
  | flashVerify (m : Master) (value : Word)
  /-- FLASH_DONE; `dev` when the device reports no error (R424). -/
  | flashDone (dev : Bool)
  /-- BLOCK_RESET_REQUEST: a write of 1 to PG_CTRL.BRST_REQ of a page (R452). -/
  | blockResetRequest (m : Master) (page : Nat)
  /-- BLOCK_IDLE_REACHED: the block of a page reports idle `us` microseconds after the request (R534). -/
  | blockIdleReached (page us : Nat)
  /-- BLOCK_RESET_TIMEOUT of a page (R453). -/
  | blockResetTimeout (page : Nat)
  /-- BLOCK_RESET_RELEASE of a page (R452). -/
  | blockResetRelease (page : Nat)
  /-- POWER_ON: VIN rises through the start threshold; the 16 samples of CFG_STRAP (R58, R70). -/
  | powerOn (samples : List Nat)
  /-- PF_WARN_RAISED (R59). -/
  | pfWarnRaised
  /-- PF_WARN_RELEASED (R60). -/
  | pfWarnReleased
  /-- BROWNOUT (R442). -/
  | brownout
  /-- RESET_PIN_LOW: eight consecutive low samples of RESET_N (R446). -/
  | resetPinLow
  /-- RESET_DRIVE_END (R446). -/
  | resetDriveEnd
  /-- RESET_RELEASE: `late` lists the pages whose clock is not ready; `recOk` when a boot record that the boot flow
  writes reads back (R449, R450). -/
  | resetRelease (late : List Nat) (recOk : Bool)
  /-- WARM_RESET_RELEASE; `recOk` as before (R451). -/
  | warmResetRelease (recOk : Bool)
  /-- RESET_REQUEST: a write of RST_REQ with GO (R443). -/
  | resetRequest (m : Master) (value : Word)
  /-- RESET_REQUEST_CANCEL: a write of RST_REQ with CANCEL (R443). -/
  | resetRequestCancel (m : Master) (value : Word)
  /-- RESET_REQUEST_DELAY_EXPIRY (R443). -/
  | resetRequestDelayExpiry
  /-- RST_OUT_WRITE: a write of RST_OUT (R447). -/
  | rstOutWrite (m : Master) (value : Word)
  /-- RST_OUT_MIN_EXPIRY (R447). -/
  | rstOutMinExpiry
  /-- CLOCK_READY: clock sources become ready, and the blocks of pages have had their 16 stable cycles (R449). -/
  | clockReady (sources pages : List Nat)
  /-- CLOCK_TIMEOUT: a source is not ready 10 ms after its start, or none; the pages left without clock-ready (R449). -/
  | clockTimeout (source : Option Nat) (pages : List Nat)
  /-- CLOCK_LOSS: a running source stops; the pages it feeds (R462). -/
  | clockLoss (source : Nat) (pages : List Nat)
  /-- POWER_STATE_REQUEST: a write of PWR_REQ (R463). -/
  | powerStateRequest (m : Master) (value : Word)
  /-- POWER_HANDSHAKE_ACCEPTED: the last page accepts (R465). -/
  | powerHandshakeAccepted
  /-- POWER_HANDSHAKE_REFUSED (R464). -/
  | powerHandshakeRefused
  /-- POWER_HANDSHAKE_TIMEOUT (R464). -/
  | powerHandshakeTimeout
  /-- POWER_ENTRY_STEP: the next step of R465 falls due. -/
  | powerEntryStep
  /-- REST_ENTER: every hart is in WFI (R461). -/
  | restEnter
  /-- REST_EXIT (R461). -/
  | restExit
  /-- WAKE_EVENT of a source of R472; `decayed` lists the banks of retained SRAM that no longer hold what they held. -/
  | wakeEvent (source : Nat) (decayed : List Nat)
  /-- RETURN_STAGE_DONE: the stage that runs is ready, after `time` in the unit of its register; `decayed` as before,
  `recOk` when a boot record that the boot flow writes reads back (R473). -/
  | returnStageDone (time : Nat) (decayed : List Nat) (recOk : Bool)
  /-- RETURN_REGULATOR_TIMEOUT (R473). -/
  | returnRegulatorTimeout
  /-- DORMANT_LISTEN_WINDOW (R471). -/
  | dormantListenWindow
  /-- REGULATOR_STAGE_RETRY (R473). -/
  | regulatorStageRetry
  /-- BACKUP_SWITCHOVER: the backup domain goes to VBAT, or back to the always-on supply (R479). -/
  | backupSwitchover (toVbat : Bool)
  /-- BACKUP_SUPPLY_LOST: the backup supply is below 1.5 V for 1 µs (R480). -/
  | backupSupplyLost
  /-- RTC_OSC_FAIL: no crystal edge for 1 ms (R482). -/
  | rtcOscFail
  /-- VBAT_MEASURE: VBAT reads `mv` millivolts (R483). -/
  | vbatMeasure (mv : Nat)
  /-- RTC_TRIM_WINDOW: a window ends; PTP time in ns of its first and last raw crystal edge, and whether PTP was LOCKED
  for the whole of it (R487). -/
  | rtcTrimWindow (tStart tEnd : Nat) (locked : Bool)
  /-- RTC_SET: a write of RTC_SET_CTRL (R488). -/
  | rtcSet (m : Master) (value : Word)
  /-- RTC_SET_AT_PTP_APPLY: a PTP second boundary with a set pending (R488). -/
  | rtcSetAtPtpApply
  /-- RTC_DST_ADD: a write of RTC_DST with CMD 1; `clear` is the bit written to OUT_OF_RANGE (R488). -/
  | rtcDstAdd (m : Master) (clear : Bool)
  /-- RTC_DST_SUB: a write of RTC_DST with CMD 2 (R488). -/
  | rtcDstSub (m : Master) (clear : Bool)
  /-- RTC_DST_APPLY: the second boundary with a summer-time command pending (R488). -/
  | rtcDstApply
  /-- RTC_ALARM_FIRE: S reaches alarm k's target by counting (R490). -/
  | rtcAlarmFire (k : Nat)
  /-- RTC_END_OF_RANGE: S reaches 2199-12-31 23:59:59 by counting (R484). -/
  | rtcEndOfRange
  /-- CAIRN_METRIC_SAMPLE of metric k (R500). -/
  | cairnMetricSample (k : Nat)
  /-- CAIRN_INTERVAL_END: S, or the count of R501, reaches a multiple of INTERVAL_S. -/
  | cairnIntervalEnd
  /-- CAIRN_OCCURRENCE: the oldest occurrence of the queue is taken (R502). -/
  | cairnOccurrence
  /-- CAIRN_RAISE: a write of CAIRN_RAISE_CTRL (R502). -/
  | cairnRaise (m : Master) (value : Word)
  /-- CAIRN_RECORD_WRITE: the writer moves the next closed record; `ok` when its read-back matches (R503, R511). -/
  | cairnRecordWrite (ok : Bool)
  /-- CAIRN_FLUSH_REQUEST: a write of CAIRN_CTRL with FLUSH (R504). -/
  | cairnFlushRequest (m : Master) (value : Word)
  /-- CAIRN_FLUSH_DONE: staging holds no closed record (R504). -/
  | cairnFlushDone
  /-- CAIRN_CURSOR_LOAD: a write of CAIRN_CURSOR (R507). -/
  | cairnCursorLoad (m : Master) (value : Word)
  /-- CAIRN_WIN_ADVANCE: a read of CAIRN_WIN15 (R507). -/
  | cairnWinAdvance (m : Master)
  /-- CAIRN_FREEZE: a write of CAIRN_CTRL that leaves FLUSH at 0 (R508). -/
  | cairnFreeze (m : Master) (value : Word)
  /-- CAIRN_THAW: 10 s after FREEZE was last written with 1 (R508). -/
  | cairnThaw
  /-- CAIRN_RELEASE_SCAN (R510). -/
  | cairnReleaseScan
deriving DecidableEq, Repr

end Sys2Proof
end

