-- ==== Sys2Proof/Config.lean ====
section
/-! DEFINITION. What one module of the family fixes and the spec does not: the free values (constants without a body,
so that no proof can see them) and the per-unit constants of manufacture. -/
namespace Sys2Proof.Config

/-- The free values: a value the spec leaves open is this constant applied to the state's counter `free` (assumption
log, entry 3). -/
opaque freeNat : Nat → Nat

/-- PG_ID of each page, "per block" (R10; assumption log, entry 4). -/
opaque pageId : Nat → BitVec 32

/-- The MAC address of network port 0 (A) or 1 (B), set at manufacture (NETx_MAC). -/
opaque macAddress : Nat → Nat

/-- The 128-bit UNIT_ID of manufacture (ANCHOR_UNIT_ID). -/
opaque unitId : Nat

/-- The clockIdentity of the module's own clock, which the spec does not derive (R80). -/
opaque ownClockId : Nat

/-- offsetScaledLogVariance of the module's own clock, which the spec does not give (R80). -/
opaque ownVariance : Nat

/-- The contents of the boot ROM, by byte address (R333, R428). -/
opaque bootRom : Nat → BitVec 8

/-- The NOR of manufacture, by offset: base camp, the image of slot A and whatever else the spec does not give (R424,
R431; assumption log, entry 14). -/
opaque norByte : Nat → BitVec 8

/-- The `n` low bytes of a value, most significant first. -/
def bytes (n v : Nat) : List (BitVec 8) := (List.range n).map fun i => BitVec.ofNat 8 (v / 256 ^ (n - 1 - i))

/-- The value of `cmac`. -/
opaque cmacValue : List (BitVec 8) → List (BitVec 8) → Nat

/-- AES-CMAC of a message under a 128-bit or 256-bit key, 16 bytes (the algorithms are named by the spec, not defined
in it; assumption log, entry 5). -/
def cmac (key msg : List (BitVec 8)) : List (BitVec 8) :=
  bytes 16 (cmacValue key msg)

/-- The value of `sha256`. -/
opaque sha256Value : List (BitVec 8) → Nat

/-- SHA-256 of a byte string, 32 bytes. -/
def sha256 (msg : List (BitVec 8)) : List (BitVec 8) :=
  bytes 32 (sha256Value msg)

/-- The value of `sha384`. -/
opaque sha384Value : List (BitVec 8) → Nat

/-- SHA-384 of a byte string, 48 bytes. -/
def sha384 (msg : List (BitVec 8)) : List (BitVec 8) :=
  bytes 48 (sha384Value msg)

/-- The value of `hmac256`. -/
opaque hmac256Value : List (BitVec 8) → List (BitVec 8) → Nat

/-- HMAC-SHA-256 of a message under a key, 32 bytes. -/
def hmac256 (key msg : List (BitVec 8)) : List (BitVec 8) :=
  bytes 32 (hmac256Value key msg)

/-- The value of `ccmSeal`. -/
opaque ccmSealValue : List (BitVec 8) → List (BitVec 8) → List (BitVec 8) → List (BitVec 8) → Nat

/-- CCM* at security level 6: key, 13-byte nonce, authenticated data and payload give the ciphertext and its 8-byte MIC. -/
def ccmSeal (key nonce aad data : List (BitVec 8)) : List (BitVec 8) :=
  bytes (data.length + 8) (ccmSealValue key nonce aad data)

/-- The value of `cipherData`. -/
opaque cipherDataValue : Nat → List (BitVec 8) → List (BitVec 8) → List (BitVec 8) → List (BitVec 8) → Nat

/-- The CIPHER modes of ANCHOR: mode, key, IV, additional data and data give the output data. -/
def cipherData (mode : Nat) (key iv aad data : List (BitVec 8)) : List (BitVec 8) :=
  bytes data.length (cipherDataValue mode key iv aad data)

/-- The value of `cipherTag`. -/
opaque cipherTagValue : Nat → List (BitVec 8) → List (BitVec 8) → List (BitVec 8) → List (BitVec 8) → Nat

/-- The 16-byte tag that goes with it: mode, key, IV, additional data and data. -/
def cipherTag (mode : Nat) (key iv aad data : List (BitVec 8)) : List (BitVec 8) :=
  bytes 16 (cipherTagValue mode key iv aad data)

/-- The value of `ecPublic`. -/
opaque ecPublicValue : Nat → List (BitVec 8) → Nat

/-- The public point X ‖ Y of a private scalar; the type is that of R420 (4 P-256, 5 P-384). -/
def ecPublic (type : Nat) (key : List (BitVec 8)) : List (BitVec 8) :=
  bytes (if type = 5 then 96 else 64) (ecPublicValue type key)

/-- Whether X ‖ Y is a point of the curve. -/
opaque ecValid : Nat → List (BitVec 8) → Bool

/-- The value of `ecdh`. -/
opaque ecdhValue : List (BitVec 8) → List (BitVec 8) → Nat

/-- The ECDH shared secret of a private scalar and a public point, P-256. -/
def ecdh (key point : List (BitVec 8)) : List (BitVec 8) :=
  bytes 32 (ecdhValue key point)

/-- The value of `ecSign`. -/
opaque ecSignValue : Nat → List (BitVec 8) → List (BitVec 8) → List (BitVec 8) → Nat

/-- An ECDSA signature r ‖ s: type, private key, digest, and the ephemeral scalar drawn. -/
def ecSign (type : Nat) (key digest scalar : List (BitVec 8)) : List (BitVec 8) :=
  bytes (if type = 5 then 96 else 64) (ecSignValue type key digest scalar)

/-- Whether a signature verifies: type, public key, digest, r ‖ s. -/
opaque ecVerify : Nat → List (BitVec 8) → List (BitVec 8) → List (BitVec 8) → Bool

/-- The value of `huk`. -/
opaque hukValue : Nat

/-- The hardware unique key in OTP (R401). -/
def huk : List (BitVec 8) :=
  bytes 32 hukValue

/-- The TYPE that GET_INFO shows for HUK: R420 codes no 256-bit secret. -/
opaque hukType : Nat

/-- The value of `identKey`. -/
opaque identKeyValue : Nat

/-- The private key of IDENT, and the DER bytes of its certificate (R401, R420). -/
def identKey : List (BitVec 8) :=
  bytes 32 identKeyValue

opaque identCert : List (BitVec 8)

/-- The vendor's image key, public X ‖ Y, fused in IMG0 (R401). -/
opaque img0Key : List (BitVec 8)

end Sys2Proof.Config
end

