-- ==== Sys2Proof/Machine/Fields.lean ====
section
/-! DEFINITION. Every register field of the spec's register tables, by name: the page, the offset and the bit
range the chapter's register heading and table give it (rules R4, R7). An array register takes its index as an
argument; a name without a field is the whole 32-bit word. -/
namespace Sys2Proof.Machine

/-- A bit field of a register: its page, its offset in the page, its most and least significant bit. -/
structure Fld where
  page : Nat
  off : Nat
  hi : Nat
  lo : Nat
deriving DecidableEq, Repr

namespace R

-- The common page header (R10, R12, R14); `p` is the page number.
def PG_ID (p : Nat) : Fld := ⟨p, 0x000, 31, 0⟩
def PG_CTRL_IDLE_REQ (p : Nat) : Fld := ⟨p, 0x004, 2, 2⟩
def PG_CTRL_BRST_REQ (p : Nat) : Fld := ⟨p, 0x004, 1, 1⟩
def PG_CTRL_EN (p : Nat) : Fld := ⟨p, 0x004, 0, 0⟩
def PG_STATUS_CLK_OK (p : Nat) : Fld := ⟨p, 0x008, 3, 3⟩
def PG_STATUS_READY (p : Nat) : Fld := ⟨p, 0x008, 1, 1⟩
def PG_STATUS_IDLE (p : Nat) : Fld := ⟨p, 0x008, 0, 0⟩
def PG_IRQ_RAW (p : Nat) : Fld := ⟨p, 0x00C, 3, 0⟩
def PG_IRQ_RAW_BIT (p k : Nat) : Fld := ⟨p, 0x00C, k, k⟩
def PG_IRQ_EN (p : Nat) : Fld := ⟨p, 0x010, 3, 0⟩
def PG_FENCE_ACTIVE (p : Nat) : Fld := ⟨p, 0x018, 31, 31⟩
def PG_FENCE_CAUSE (p : Nat) : Fld := ⟨p, 0x018, 15, 0⟩
def PG_LOCK_ARMED (p : Nat) : Fld := ⟨p, 0x01C, 1, 1⟩
def PG_LOCK_LOCKED (p : Nat) : Fld := ⟨p, 0x01C, 0, 0⟩

def SYS_STRAP_ADC : Fld := ⟨0x00, 0x048, 19, 12⟩
def SYS_STRAP_WINDOW : Fld := ⟨0x00, 0x048, 7, 4⟩
def SYS_STRAP_REGION : Fld := ⟨0x00, 0x048, 3, 2⟩
def SYS_STRAP_POSITION : Fld := ⟨0x00, 0x048, 1, 1⟩
def SYS_STRAP_RECOVERY : Fld := ⟨0x00, 0x048, 0, 0⟩
/-- SYS_STRAP, the whole word. -/
def SYS_STRAP : Fld := ⟨0x00, 0x048, 31, 0⟩
def PTP_CFG_GM_PRIO1 : Fld := ⟨0x12, 0x040, 31, 24⟩
def PTP_CFG_PORT_MODE : Fld := ⟨0x12, 0x040, 23, 22⟩
def PTP_CFG_DELAY_UNICAST : Fld := ⟨0x12, 0x040, 21, 21⟩
def PTP_CFG_GM_EN : Fld := ⟨0x12, 0x040, 20, 20⟩
def PTP_CFG_ANN_TO : Fld := ⟨0x12, 0x040, 19, 16⟩
def PTP_CFG_LOG_ANN : Fld := ⟨0x12, 0x040, 15, 12⟩
def PTP_CFG_LOG_SYNC : Fld := ⟨0x12, 0x040, 11, 8⟩
def PTP_CFG_DOMAIN : Fld := ⟨0x12, 0x040, 7, 0⟩
/-- PTP_CFG, the whole word. -/
def PTP_CFG : Fld := ⟨0x12, 0x040, 31, 0⟩
def PTP_SERVO_CTRL_DLY_SHIFT : Fld := ⟨0x12, 0x044, 27, 24⟩
def PTP_SERVO_CTRL_KI_SHIFT : Fld := ⟨0x12, 0x044, 20, 16⟩
def PTP_SERVO_CTRL_KP_SHIFT : Fld := ⟨0x12, 0x044, 12, 8⟩
def PTP_SERVO_CTRL_EN : Fld := ⟨0x12, 0x044, 0, 0⟩
/-- PTP_SERVO_CTRL, the whole word. -/
def PTP_SERVO_CTRL : Fld := ⟨0x12, 0x044, 31, 0⟩
def PTP_STEP_THRESH_NS : Fld := ⟨0x12, 0x048, 31, 0⟩
/-- PTP_STEP_THRESH, the whole word. -/
def PTP_STEP_THRESH : Fld := ⟨0x12, 0x048, 31, 0⟩
def PTP_STATE_LOCK_CNT : Fld := ⟨0x12, 0x04C, 15, 8⟩
def PTP_STATE_PORT : Fld := ⟨0x12, 0x04C, 4, 4⟩
def PTP_STATE_STATE : Fld := ⟨0x12, 0x04C, 2, 0⟩
/-- PTP_STATE, the whole word. -/
def PTP_STATE : Fld := ⟨0x12, 0x04C, 31, 0⟩
def PTP_OFFSET_O : Fld := ⟨0x12, 0x050, 31, 0⟩
/-- PTP_OFFSET, the whole word. -/
def PTP_OFFSET : Fld := ⟨0x12, 0x050, 31, 0⟩
def PTP_DELAY_D : Fld := ⟨0x12, 0x054, 31, 0⟩
/-- PTP_DELAY, the whole word. -/
def PTP_DELAY : Fld := ⟨0x12, 0x054, 31, 0⟩
def PTP_HOLD_SEC_SEC : Fld := ⟨0x12, 0x060, 31, 0⟩
/-- PTP_HOLD_SEC, the whole word. -/
def PTP_HOLD_SEC : Fld := ⟨0x12, 0x060, 31, 0⟩
def PTP_LAST_STEP_NS : Fld := ⟨0x12, 0x088, 31, 0⟩
/-- PTP_LAST_STEP, the whole word. -/
def PTP_LAST_STEP : Fld := ⟨0x12, 0x088, 31, 0⟩
def PTP_RATE_LO_RATE_LO : Fld := ⟨0x12, 0x058, 31, 0⟩
/-- PTP_RATE_LO, the whole word. -/
def PTP_RATE_LO : Fld := ⟨0x12, 0x058, 31, 0⟩
def PTP_RATE_HI_RATE_HI : Fld := ⟨0x12, 0x05C, 7, 0⟩
/-- PTP_RATE_HI, the whole word. -/
def PTP_RATE_HI : Fld := ⟨0x12, 0x05C, 31, 0⟩
def PTP_ALARM_GM_CHANGE : Fld := ⟨0x12, 0x064, 5, 5⟩
def PTP_ALARM_RATE_LIMIT : Fld := ⟨0x12, 0x064, 4, 4⟩
def PTP_ALARM_STEP : Fld := ⟨0x12, 0x064, 3, 3⟩
def PTP_ALARM_HOLD60 : Fld := ⟨0x12, 0x064, 2, 2⟩
def PTP_ALARM_HOLDOVER : Fld := ⟨0x12, 0x064, 1, 1⟩
def PTP_ALARM_UNLOCK : Fld := ⟨0x12, 0x064, 0, 0⟩
/-- PTP_ALARM, the whole word. -/
def PTP_ALARM : Fld := ⟨0x12, 0x064, 31, 0⟩
def PTP_TIME_SEC_LO_SEC_LO : Fld := ⟨0x12, 0x068, 31, 0⟩
/-- PTP_TIME_SEC_LO, the whole word. -/
def PTP_TIME_SEC_LO : Fld := ⟨0x12, 0x068, 31, 0⟩
def PTP_TIME_SEC_HI_SEC_HI : Fld := ⟨0x12, 0x06C, 15, 0⟩
/-- PTP_TIME_SEC_HI, the whole word. -/
def PTP_TIME_SEC_HI : Fld := ⟨0x12, 0x06C, 31, 0⟩
def PTP_TIME_NS_NS : Fld := ⟨0x12, 0x070, 29, 0⟩
/-- PTP_TIME_NS, the whole word. -/
def PTP_TIME_NS : Fld := ⟨0x12, 0x070, 31, 0⟩
def PTP_GM_ID_LO_ID_LO : Fld := ⟨0x12, 0x074, 31, 0⟩
/-- PTP_GM_ID_LO, the whole word. -/
def PTP_GM_ID_LO : Fld := ⟨0x12, 0x074, 31, 0⟩
def PTP_GM_ID_HI_ID_HI : Fld := ⟨0x12, 0x078, 31, 0⟩
/-- PTP_GM_ID_HI, the whole word. -/
def PTP_GM_ID_HI : Fld := ⟨0x12, 0x078, 31, 0⟩
def PTP_CNT_SYNC_N : Fld := ⟨0x12, 0x07C, 31, 0⟩
/-- PTP_CNT_SYNC, the whole word. -/
def PTP_CNT_SYNC : Fld := ⟨0x12, 0x07C, 31, 0⟩
def PTP_CNT_BAD_N : Fld := ⟨0x12, 0x084, 31, 0⟩
/-- PTP_CNT_BAD, the whole word. -/
def PTP_CNT_BAD : Fld := ⟨0x12, 0x084, 31, 0⟩
def PTP_CNT_CLR_CLR : Fld := ⟨0x12, 0x080, 0, 0⟩
/-- PTP_CNT_CLR, the whole word. -/
def PTP_CNT_CLR : Fld := ⟨0x12, 0x080, 31, 0⟩
def COMMIT_GEN_CUR_VALID : Fld := ⟨0x13, 0x040, 16, 16⟩
def COMMIT_GEN_CUR_GEN : Fld := ⟨0x13, 0x040, 15, 0⟩
/-- COMMIT_GEN_CUR, the whole word. -/
def COMMIT_GEN_CUR : Fld := ⟨0x13, 0x040, 31, 0⟩
def COMMIT_FRAME_LO_N_LO : Fld := ⟨0x13, 0x044, 31, 0⟩
/-- COMMIT_FRAME_LO, the whole word. -/
def COMMIT_FRAME_LO : Fld := ⟨0x13, 0x044, 31, 0⟩
def COMMIT_FRAME_HI_N_HI : Fld := ⟨0x13, 0x048, 15, 0⟩
/-- COMMIT_FRAME_HI, the whole word. -/
def COMMIT_FRAME_HI : Fld := ⟨0x13, 0x048, 31, 0⟩
def COMMIT_LAST_GAIN : Fld := ⟨0x13, 0x04C, 31, 16⟩
def COMMIT_LAST_LOSS_RUN : Fld := ⟨0x13, 0x04C, 15, 8⟩
def COMMIT_LAST_CASE : Fld := ⟨0x13, 0x04C, 4, 2⟩
def COMMIT_LAST_STATUS : Fld := ⟨0x13, 0x04C, 1, 0⟩
/-- COMMIT_LAST, the whole word. -/
def COMMIT_LAST : Fld := ⟨0x13, 0x04C, 31, 0⟩
def COMMIT_STAGE_ADDR_ADDR : Fld := ⟨0x13, 0x050, 31, 0⟩
/-- COMMIT_STAGE_ADDR, the whole word. -/
def COMMIT_STAGE_ADDR : Fld := ⟨0x13, 0x050, 31, 0⟩
def COMMIT_STAGE_CTRL_GO : Fld := ⟨0x13, 0x054, 31, 31⟩
def COMMIT_STAGE_CTRL_SLOT : Fld := ⟨0x13, 0x054, 1, 0⟩
/-- COMMIT_STAGE_CTRL, the whole word. -/
def COMMIT_STAGE_CTRL : Fld := ⟨0x13, 0x054, 31, 0⟩
def COMMIT_SLOT_STATE (k : Nat) : Fld := ⟨0x13, 0x058 + 0x4 * k, 18, 16⟩
def COMMIT_SLOT_GEN (k : Nat) : Fld := ⟨0x13, 0x058 + 0x4 * k, 15, 0⟩
/-- COMMIT_SLOT, the whole word. -/
def COMMIT_SLOT (k : Nat) : Fld := ⟨0x13, 0x058 + 0x4 * k, 31, 0⟩
def COMMIT_ANN_GEN_WITHDRAW : Fld := ⟨0x13, 0x068, 16, 16⟩
def COMMIT_ANN_GEN_GEN : Fld := ⟨0x13, 0x068, 15, 0⟩
/-- COMMIT_ANN_GEN, the whole word. -/
def COMMIT_ANN_GEN : Fld := ⟨0x13, 0x068, 31, 0⟩
def COMMIT_ANN_NB_LO_NB_LO : Fld := ⟨0x13, 0x06C, 31, 0⟩
/-- COMMIT_ANN_NB_LO, the whole word. -/
def COMMIT_ANN_NB_LO : Fld := ⟨0x13, 0x06C, 31, 0⟩
def COMMIT_ANN_NB_HI_NB_HI : Fld := ⟨0x13, 0x070, 15, 0⟩
/-- COMMIT_ANN_NB_HI, the whole word. -/
def COMMIT_ANN_NB_HI : Fld := ⟨0x13, 0x070, 31, 0⟩
def COMMIT_ANN_CTRL_RESULT : Fld := ⟨0x13, 0x074, 7, 4⟩
def COMMIT_ANN_CTRL_BUSY : Fld := ⟨0x13, 0x074, 1, 1⟩
def COMMIT_ANN_CTRL_SEND : Fld := ⟨0x13, 0x074, 0, 0⟩
/-- COMMIT_ANN_CTRL, the whole word. -/
def COMMIT_ANN_CTRL : Fld := ⟨0x13, 0x074, 31, 0⟩
def COMMIT_CNT_LATE_N : Fld := ⟨0x13, 0x078, 31, 0⟩
/-- COMMIT_CNT_LATE, the whole word. -/
def COMMIT_CNT_LATE : Fld := ⟨0x13, 0x078, 31, 0⟩
def COMMIT_CNT_MISSED_N : Fld := ⟨0x13, 0x07C, 31, 0⟩
/-- COMMIT_CNT_MISSED, the whole word. -/
def COMMIT_CNT_MISSED : Fld := ⟨0x13, 0x07C, 31, 0⟩
def COMMIT_CNT_TORN_N : Fld := ⟨0x13, 0x080, 31, 0⟩
/-- COMMIT_CNT_TORN, the whole word. -/
def COMMIT_CNT_TORN : Fld := ⟨0x13, 0x080, 31, 0⟩
def COMMIT_CNT_REFUSED_N : Fld := ⟨0x13, 0x084, 31, 0⟩
/-- COMMIT_CNT_REFUSED, the whole word. -/
def COMMIT_CNT_REFUSED : Fld := ⟨0x13, 0x084, 31, 0⟩
def COMMIT_CNT_CLR_CLR : Fld := ⟨0x13, 0x088, 0, 0⟩
/-- COMMIT_CNT_CLR, the whole word. -/
def COMMIT_CNT_CLR : Fld := ⟨0x13, 0x088, 31, 0⟩
def PARTY_RATE_NUM_NUM : Fld := ⟨0x39, 0x040, 31, 0⟩
/-- PARTY_RATE_NUM, the whole word. -/
def PARTY_RATE_NUM : Fld := ⟨0x39, 0x040, 31, 0⟩
def PARTY_RATE_DEN_DEN : Fld := ⟨0x39, 0x044, 31, 0⟩
/-- PARTY_RATE_DEN, the whole word. -/
def PARTY_RATE_DEN : Fld := ⟨0x39, 0x044, 31, 0⟩
def PARTY_LSCREE_L : Fld := ⟨0x39, 0x058, 31, 0⟩
/-- PARTY_LSCREE, the whole word. -/
def PARTY_LSCREE : Fld := ⟨0x39, 0x058, 31, 0⟩
def PARTY_TIMING_L_COMMIT_US : Fld := ⟨0x39, 0x048, 31, 16⟩
def PARTY_TIMING_COMMIT_LOSS_LIMIT : Fld := ⟨0x39, 0x048, 15, 8⟩
def PARTY_TIMING_LAG_K : Fld := ⟨0x39, 0x048, 7, 4⟩
def PARTY_TIMING_L_PRESENT : Fld := ⟨0x39, 0x048, 3, 0⟩
/-- PARTY_TIMING, the whole word. -/
def PARTY_TIMING : Fld := ⟨0x39, 0x048, 31, 0⟩
def PARTY_LEADS_CLOSE_LEAD_US : Fld := ⟨0x39, 0x04C, 31, 16⟩
def PARTY_LEADS_HAVE_LEAD_US : Fld := ⟨0x39, 0x04C, 15, 0⟩
/-- PARTY_LEADS, the whole word. -/
def PARTY_LEADS : Fld := ⟨0x39, 0x04C, 31, 0⟩
def PARTY_LIMITS_REPEAT_TO_SCREE : Fld := ⟨0x39, 0x050, 31, 16⟩
def PARTY_LIMITS_TORN_LIMIT : Fld := ⟨0x39, 0x050, 15, 0⟩
/-- PARTY_LIMITS, the whole word. -/
def PARTY_LIMITS : Fld := ⟨0x39, 0x050, 31, 0⟩
def PARTY_ISO_ISOLATED_GAIN : Fld := ⟨0x39, 0x054, 15, 0⟩
/-- PARTY_ISO, the whole word. -/
def PARTY_ISO : Fld := ⟨0x39, 0x054, 31, 0⟩
def PARTY_Q_LAST_LAGGING : Fld := ⟨0x39, 0x05C, 26, 16⟩
def PARTY_Q_LAST_COUNTED : Fld := ⟨0x39, 0x05C, 10, 0⟩
/-- PARTY_Q_LAST, the whole word. -/
def PARTY_Q_LAST : Fld := ⟨0x39, 0x05C, 31, 0⟩
def PARTY_Q_INFO_MARGIN_US : Fld := ⟨0x39, 0x060, 31, 16⟩
def PARTY_Q_INFO_EARLY : Fld := ⟨0x39, 0x060, 15, 15⟩
def PARTY_Q_INFO_INCOMPLETE : Fld := ⟨0x39, 0x060, 10, 0⟩
/-- PARTY_Q_INFO, the whole word. -/
def PARTY_Q_INFO : Fld := ⟨0x39, 0x060, 31, 0⟩
def PARTY_CNT_HAVE_LATE_N : Fld := ⟨0x39, 0x064, 31, 0⟩
/-- PARTY_CNT_HAVE_LATE, the whole word. -/
def PARTY_CNT_HAVE_LATE : Fld := ⟨0x39, 0x064, 31, 0⟩
def PARTY_CNT_BAD_N : Fld := ⟨0x39, 0x068, 31, 0⟩
/-- PARTY_CNT_BAD, the whole word. -/
def PARTY_CNT_BAD : Fld := ⟨0x39, 0x068, 31, 0⟩
def PARTY_BAD_LAST_SENDER : Fld := ⟨0x39, 0x06C, 25, 16⟩
def PARTY_BAD_LAST_TYPE : Fld := ⟨0x39, 0x06C, 15, 8⟩
def PARTY_BAD_LAST_CODE : Fld := ⟨0x39, 0x06C, 7, 0⟩
/-- PARTY_BAD_LAST, the whole word. -/
def PARTY_BAD_LAST : Fld := ⟨0x39, 0x06C, 31, 0⟩
def PARTY_LAG_SEL_WORD : Fld := ⟨0x39, 0x070, 4, 0⟩
/-- PARTY_LAG_SEL, the whole word. -/
def PARTY_LAG_SEL : Fld := ⟨0x39, 0x070, 31, 0⟩
def PARTY_LAG_MAP_LAG : Fld := ⟨0x39, 0x074, 31, 0⟩
/-- PARTY_LAG_MAP, the whole word. -/
def PARTY_LAG_MAP : Fld := ⟨0x39, 0x074, 31, 0⟩
def PARTY_CNT_CLR_CLR : Fld := ⟨0x39, 0x078, 0, 0⟩
/-- PARTY_CNT_CLR, the whole word. -/
def PARTY_CNT_CLR : Fld := ⟨0x39, 0x078, 31, 0⟩
def NET_CFG_PCP (x : Nat) : Fld := ⟨0x10 + x % 2, 0x040, 30, 28⟩
def NET_CFG_VID (x : Nat) : Fld := ⟨0x10 + x % 2, 0x040, 27, 16⟩
def NET_CFG_FEC (x : Nat) : Fld := ⟨0x10 + x % 2, 0x040, 5, 4⟩
def NET_CFG_SPEED (x : Nat) : Fld := ⟨0x10 + x % 2, 0x040, 2, 1⟩
def NET_CFG_PORT_EN (x : Nat) : Fld := ⟨0x10 + x % 2, 0x040, 0, 0⟩
/-- NETx_CFG, the whole word. -/
def NET_CFG (x : Nat) : Fld := ⟨0x10 + x % 2, 0x040, 31, 0⟩
def NET_IP_ADDR (x : Nat) : Fld := ⟨0x10 + x % 2, 0x044, 31, 0⟩
/-- NETx_IP, the whole word. -/
def NET_IP (x : Nat) : Fld := ⟨0x10 + x % 2, 0x044, 31, 0⟩
def NET_MAC_LO_MAC_LO (x : Nat) : Fld := ⟨0x10 + x % 2, 0x048, 31, 0⟩
/-- NETx_MAC_LO, the whole word. -/
def NET_MAC_LO (x : Nat) : Fld := ⟨0x10 + x % 2, 0x048, 31, 0⟩
def NET_MAC_HI_MAC_HI (x : Nat) : Fld := ⟨0x10 + x % 2, 0x04C, 15, 0⟩
/-- NETx_MAC_HI, the whole word. -/
def NET_MAC_HI (x : Nat) : Fld := ⟨0x10 + x % 2, 0x04C, 31, 0⟩
def NET_LINK_GROUPS (x : Nat) : Fld := ⟨0x10 + x % 2, 0x050, 19, 16⟩
def NET_LINK_FAULTS (x : Nat) : Fld := ⟨0x10 + x % 2, 0x050, 15, 12⟩
def NET_LINK_TX_OFF (x : Nat) : Fld := ⟨0x10 + x % 2, 0x050, 11, 11⟩
def NET_LINK_TXFLT (x : Nat) : Fld := ⟨0x10 + x % 2, 0x050, 10, 10⟩
def NET_LINK_LOS (x : Nat) : Fld := ⟨0x10 + x % 2, 0x050, 9, 9⟩
def NET_LINK_ABS (x : Nat) : Fld := ⟨0x10 + x % 2, 0x050, 8, 8⟩
def NET_LINK_FEC_ACT (x : Nat) : Fld := ⟨0x10 + x % 2, 0x050, 5, 4⟩
def NET_LINK_SPEED_ACT (x : Nat) : Fld := ⟨0x10 + x % 2, 0x050, 2, 1⟩
def NET_LINK_UP (x : Nat) : Fld := ⟨0x10 + x % 2, 0x050, 0, 0⟩
/-- NETx_LINK, the whole word. -/
def NET_LINK (x : Nat) : Fld := ⟨0x10 + x % 2, 0x050, 31, 0⟩
def NET_CNT_RX_OK_N (x : Nat) : Fld := ⟨0x10 + x % 2, 0x060, 31, 0⟩
/-- NETx_CNT_RX_OK, the whole word. -/
def NET_CNT_RX_OK (x : Nat) : Fld := ⟨0x10 + x % 2, 0x060, 31, 0⟩
def NET_CNT_RX_ERR_N (x : Nat) : Fld := ⟨0x10 + x % 2, 0x064, 31, 0⟩
/-- NETx_CNT_RX_ERR, the whole word. -/
def NET_CNT_RX_ERR (x : Nat) : Fld := ⟨0x10 + x % 2, 0x064, 31, 0⟩
def NET_CNT_FILTER_N (x : Nat) : Fld := ⟨0x10 + x % 2, 0x068, 31, 0⟩
/-- NETx_CNT_FILTER, the whole word. -/
def NET_CNT_FILTER (x : Nat) : Fld := ⟨0x10 + x % 2, 0x068, 31, 0⟩
def NET_CNT_FW_DROP_N (x : Nat) : Fld := ⟨0x10 + x % 2, 0x06C, 31, 0⟩
/-- NETx_CNT_FW_DROP, the whole word. -/
def NET_CNT_FW_DROP (x : Nat) : Fld := ⟨0x10 + x % 2, 0x06C, 31, 0⟩
def NET_CNT_LINK_DOWN_N (x : Nat) : Fld := ⟨0x10 + x % 2, 0x070, 31, 0⟩
/-- NETx_CNT_LINK_DOWN, the whole word. -/
def NET_CNT_LINK_DOWN (x : Nat) : Fld := ⟨0x10 + x % 2, 0x070, 31, 0⟩
def NET_CNT_FEC_CORR_N (x : Nat) : Fld := ⟨0x10 + x % 2, 0x074, 31, 0⟩
/-- NETx_CNT_FEC_CORR, the whole word. -/
def NET_CNT_FEC_CORR (x : Nat) : Fld := ⟨0x10 + x % 2, 0x074, 31, 0⟩
def NET_CNT_FEC_UNCORR_N (x : Nat) : Fld := ⟨0x10 + x % 2, 0x078, 31, 0⟩
/-- NETx_CNT_FEC_UNCORR, the whole word. -/
def NET_CNT_FEC_UNCORR (x : Nat) : Fld := ⟨0x10 + x % 2, 0x078, 31, 0⟩
def NET_CNT_IGMP_TX_N (x : Nat) : Fld := ⟨0x10 + x % 2, 0x07C, 31, 0⟩
/-- NETx_CNT_IGMP_TX, the whole word. -/
def NET_CNT_IGMP_TX (x : Nat) : Fld := ⟨0x10 + x % 2, 0x07C, 31, 0⟩
def NET_CNT_CLR_CLR (x : Nat) : Fld := ⟨0x10 + x % 2, 0x080, 0, 0⟩
/-- NETx_CNT_CLR, the whole word. -/
def NET_CNT_CLR (x : Nat) : Fld := ⟨0x10 + x % 2, 0x080, 31, 0⟩
def INGEST_CFG_RTP_TOL : Fld := ⟨0x14, 0x040, 6, 0⟩
/-- INGEST_CFG, the whole word. -/
def INGEST_CFG : Fld := ⟨0x14, 0x040, 31, 0⟩
def INGEST_SEG_W : Fld := ⟨0x14, 0x044, 28, 16⟩
def INGEST_SEG_H : Fld := ⟨0x14, 0x044, 12, 0⟩
/-- INGEST_SEG, the whole word. -/
def INGEST_SEG : Fld := ⟨0x14, 0x044, 31, 0⟩
def INGEST_ST_CFG_EN (k : Nat) : Fld := ⟨0x14, 0x080 + 0x20 * k, 31, 31⟩
def INGEST_ST_CFG_FORMAT (k : Nat) : Fld := ⟨0x14, 0x080 + 0x20 * k, 30, 30⟩
def INGEST_ST_CFG_PATHS (k : Nat) : Fld := ⟨0x14, 0x080 + 0x20 * k, 29, 28⟩
def INGEST_ST_CFG_DEPTH (k : Nat) : Fld := ⟨0x14, 0x080 + 0x20 * k, 27, 27⟩
def INGEST_ST_CFG_PACKING (k : Nat) : Fld := ⟨0x14, 0x080 + 0x20 * k, 26, 26⟩
def INGEST_ST_CFG_COLORIMETRY (k : Nat) : Fld := ⟨0x14, 0x080 + 0x20 * k, 25, 25⟩
def INGEST_ST_CFG_TCS (k : Nat) : Fld := ⟨0x14, 0x080 + 0x20 * k, 24, 23⟩
def INGEST_ST_CFG_PT (k : Nat) : Fld := ⟨0x14, 0x080 + 0x20 * k, 6, 0⟩
/-- INGEST_STk_CFG, the whole word. -/
def INGEST_ST_CFG (k : Nat) : Fld := ⟨0x14, 0x080 + 0x20 * k, 31, 0⟩
def INGEST_ST_RASTER_W (k : Nat) : Fld := ⟨0x14, 0x084 + 0x20 * k, 30, 16⟩
def INGEST_ST_RASTER_H (k : Nat) : Fld := ⟨0x14, 0x084 + 0x20 * k, 13, 0⟩
/-- INGEST_STk_RASTER, the whole word. -/
def INGEST_ST_RASTER (k : Nat) : Fld := ⟨0x14, 0x084 + 0x20 * k, 31, 0⟩
def INGEST_ST_GRP_A_ADDR (k : Nat) : Fld := ⟨0x14, 0x088 + 0x20 * k, 31, 0⟩
/-- INGEST_STk_GRP_A, the whole word. -/
def INGEST_ST_GRP_A (k : Nat) : Fld := ⟨0x14, 0x088 + 0x20 * k, 31, 0⟩
def INGEST_ST_GRP_B_ADDR (k : Nat) : Fld := ⟨0x14, 0x08C + 0x20 * k, 31, 0⟩
/-- INGEST_STk_GRP_B, the whole word. -/
def INGEST_ST_GRP_B (k : Nat) : Fld := ⟨0x14, 0x08C + 0x20 * k, 31, 0⟩
def INGEST_ST_SRC_A_ADDR (k : Nat) : Fld := ⟨0x14, 0x090 + 0x20 * k, 31, 0⟩
/-- INGEST_STk_SRC_A, the whole word. -/
def INGEST_ST_SRC_A (k : Nat) : Fld := ⟨0x14, 0x090 + 0x20 * k, 31, 0⟩
def INGEST_ST_SRC_B_ADDR (k : Nat) : Fld := ⟨0x14, 0x094 + 0x20 * k, 31, 0⟩
/-- INGEST_STk_SRC_B, the whole word. -/
def INGEST_ST_SRC_B (k : Nat) : Fld := ⟨0x14, 0x094 + 0x20 * k, 31, 0⟩
def INGEST_ST_UDP_PORT_A (k : Nat) : Fld := ⟨0x14, 0x098 + 0x20 * k, 31, 16⟩
def INGEST_ST_UDP_PORT_B (k : Nat) : Fld := ⟨0x14, 0x098 + 0x20 * k, 15, 0⟩
/-- INGEST_STk_UDP, the whole word. -/
def INGEST_ST_UDP (k : Nat) : Fld := ⟨0x14, 0x098 + 0x20 * k, 31, 0⟩
def INGEST_RECT_CFG_EN (j : Nat) : Fld := ⟨0x14, 0x100 + 0x10 * j, 31, 31⟩
def INGEST_RECT_CFG_STREAM (j : Nat) : Fld := ⟨0x14, 0x100 + 0x10 * j, 29, 28⟩
def INGEST_RECT_CFG_MIRROR (j : Nat) : Fld := ⟨0x14, 0x100 + 0x10 * j, 2, 2⟩
def INGEST_RECT_CFG_ROT (j : Nat) : Fld := ⟨0x14, 0x100 + 0x10 * j, 1, 0⟩
/-- INGEST_RECTj_CFG, the whole word. -/
def INGEST_RECT_CFG (j : Nat) : Fld := ⟨0x14, 0x100 + 0x10 * j, 31, 0⟩
def INGEST_RECT_SRC_X (j : Nat) : Fld := ⟨0x14, 0x104 + 0x10 * j, 29, 16⟩
def INGEST_RECT_SRC_Y (j : Nat) : Fld := ⟨0x14, 0x104 + 0x10 * j, 12, 0⟩
/-- INGEST_RECTj_SRC, the whole word. -/
def INGEST_RECT_SRC (j : Nat) : Fld := ⟨0x14, 0x104 + 0x10 * j, 31, 0⟩
def INGEST_RECT_SIZE_W (j : Nat) : Fld := ⟨0x14, 0x108 + 0x10 * j, 28, 16⟩
def INGEST_RECT_SIZE_H (j : Nat) : Fld := ⟨0x14, 0x108 + 0x10 * j, 12, 0⟩
/-- INGEST_RECTj_SIZE, the whole word. -/
def INGEST_RECT_SIZE (j : Nat) : Fld := ⟨0x14, 0x108 + 0x10 * j, 31, 0⟩
def INGEST_RECT_DST_DX (j : Nat) : Fld := ⟨0x14, 0x10C + 0x10 * j, 28, 16⟩
def INGEST_RECT_DST_DY (j : Nat) : Fld := ⟨0x14, 0x10C + 0x10 * j, 12, 0⟩
/-- INGEST_RECTj_DST, the whole word. -/
def INGEST_RECT_DST (j : Nat) : Fld := ⟨0x14, 0x10C + 0x10 * j, 31, 0⟩
def INGEST_ST_PKTS_N (k : Nat) : Fld := ⟨0x14, 0x200 + 0x20 * k, 31, 0⟩
/-- INGEST_STk_PKTS, the whole word. -/
def INGEST_ST_PKTS (k : Nat) : Fld := ⟨0x14, 0x200 + 0x20 * k, 31, 0⟩
def INGEST_ST_DUP_N (k : Nat) : Fld := ⟨0x14, 0x204 + 0x20 * k, 31, 0⟩
/-- INGEST_STk_DUP, the whole word. -/
def INGEST_ST_DUP (k : Nat) : Fld := ⟨0x14, 0x204 + 0x20 * k, 31, 0⟩
def INGEST_ST_REFUSED_N (k : Nat) : Fld := ⟨0x14, 0x208 + 0x20 * k, 31, 0⟩
/-- INGEST_STk_REFUSED, the whole word. -/
def INGEST_ST_REFUSED (k : Nat) : Fld := ⟨0x14, 0x208 + 0x20 * k, 31, 0⟩
def INGEST_ST_LATE_N (k : Nat) : Fld := ⟨0x14, 0x20C + 0x20 * k, 31, 0⟩
/-- INGEST_STk_LATE, the whole word. -/
def INGEST_ST_LATE (k : Nat) : Fld := ⟨0x14, 0x20C + 0x20 * k, 31, 0⟩
def INGEST_ST_FRAMES_OK_N (k : Nat) : Fld := ⟨0x14, 0x210 + 0x20 * k, 31, 0⟩
/-- INGEST_STk_FRAMES_OK, the whole word. -/
def INGEST_ST_FRAMES_OK (k : Nat) : Fld := ⟨0x14, 0x210 + 0x20 * k, 31, 0⟩
def INGEST_ST_FRAMES_INC_N (k : Nat) : Fld := ⟨0x14, 0x214 + 0x20 * k, 31, 0⟩
/-- INGEST_STk_FRAMES_INC, the whole word. -/
def INGEST_ST_FRAMES_INC (k : Nat) : Fld := ⟨0x14, 0x214 + 0x20 * k, 31, 0⟩
def INGEST_ST_MISMATCH_N (k : Nat) : Fld := ⟨0x14, 0x218 + 0x20 * k, 31, 0⟩
/-- INGEST_STk_MISMATCH, the whole word. -/
def INGEST_ST_MISMATCH (k : Nat) : Fld := ⟨0x14, 0x218 + 0x20 * k, 31, 0⟩
def INGEST_ST_SKEW_OVER (k : Nat) : Fld := ⟨0x14, 0x21C + 0x20 * k, 31, 16⟩
def INGEST_ST_SKEW_MAX_US (k : Nat) : Fld := ⟨0x14, 0x21C + 0x20 * k, 15, 0⟩
/-- INGEST_STk_SKEW, the whole word. -/
def INGEST_ST_SKEW (k : Nat) : Fld := ⟨0x14, 0x21C + 0x20 * k, 31, 0⟩
def INGEST_BAD_LAST_CODE : Fld := ⟨0x14, 0x280, 23, 16⟩
def INGEST_BAD_LAST_STREAM : Fld := ⟨0x14, 0x280, 9, 8⟩
def INGEST_BAD_LAST_PORT : Fld := ⟨0x14, 0x280, 4, 4⟩
/-- INGEST_BAD_LAST, the whole word. -/
def INGEST_BAD_LAST : Fld := ⟨0x14, 0x280, 31, 0⟩
def INGEST_FRAME_STAT_VALID : Fld := ⟨0x14, 0x284, 31, 31⟩
def INGEST_FRAME_STAT_INC : Fld := ⟨0x14, 0x284, 7, 4⟩
def INGEST_FRAME_STAT_COMPLETE : Fld := ⟨0x14, 0x284, 0, 0⟩
/-- INGEST_FRAME_STAT, the whole word. -/
def INGEST_FRAME_STAT : Fld := ⟨0x14, 0x284, 31, 0⟩
def INGEST_MISS_N : Fld := ⟨0x14, 0x288, 31, 0⟩
/-- INGEST_MISS, the whole word. -/
def INGEST_MISS : Fld := ⟨0x14, 0x288, 31, 0⟩
def INGEST_CNT_CLR_CLR : Fld := ⟨0x14, 0x28C, 0, 0⟩
/-- INGEST_CNT_CLR, the whole word. -/
def INGEST_CNT_CLR : Fld := ⟨0x14, 0x28C, 31, 0⟩
def XSDEC_CNT_FRAMES_N : Fld := ⟨0x15, 0x040, 31, 0⟩
/-- XSDEC_CNT_FRAMES, the whole word. -/
def XSDEC_CNT_FRAMES : Fld := ⟨0x15, 0x040, 31, 0⟩
def XSDEC_CNT_ERR_N : Fld := ⟨0x15, 0x044, 31, 0⟩
/-- XSDEC_CNT_ERR, the whole word. -/
def XSDEC_CNT_ERR : Fld := ⟨0x15, 0x044, 31, 0⟩
def XSDEC_ERR_LAST_SLICE : Fld := ⟨0x15, 0x048, 31, 16⟩
def XSDEC_ERR_LAST_STREAM : Fld := ⟨0x15, 0x048, 9, 8⟩
def XSDEC_ERR_LAST_CODE : Fld := ⟨0x15, 0x048, 7, 0⟩
/-- XSDEC_ERR_LAST, the whole word. -/
def XSDEC_ERR_LAST : Fld := ⟨0x15, 0x048, 31, 0⟩
def XSDEC_PEAK_US_US : Fld := ⟨0x15, 0x04C, 15, 0⟩
/-- XSDEC_PEAK_US, the whole word. -/
def XSDEC_PEAK_US : Fld := ⟨0x15, 0x04C, 31, 0⟩
def XSDEC_CNT_CLR_CLR : Fld := ⟨0x15, 0x050, 0, 0⟩
/-- XSDEC_CNT_CLR, the whole word. -/
def XSDEC_CNT_CLR : Fld := ⟨0x15, 0x050, 31, 0⟩
def SYS_WIN_EN (k : Nat) : Fld := ⟨0x00, 0x080 + 0x4 * k, 31, 31⟩
def SYS_WIN_BASE_MB (k : Nat) : Fld := ⟨0x00, 0x080 + 0x4 * k, 13, 0⟩
/-- SYS_WIN, the whole word. -/
def SYS_WIN (k : Nat) : Fld := ⟨0x00, 0x080 + 0x4 * k, 31, 0⟩
def STORE_CAP_SCREE_MB : Fld := ⟨0x18, 0x040, 31, 16⟩
def STORE_CAP_USABLE_MB : Fld := ⟨0x18, 0x040, 15, 0⟩
/-- STORE_CAP, the whole word. -/
def STORE_CAP : Fld := ⟨0x18, 0x040, 31, 0⟩
def STORE_STATUS_SPARES_LEFT : Fld := ⟨0x18, 0x044, 31, 16⟩
def STORE_STATUS_WAKE_SCRUB : Fld := ⟨0x18, 0x044, 2, 2⟩
def STORE_STATUS_INIT_DONE : Fld := ⟨0x18, 0x044, 1, 1⟩
def STORE_STATUS_PATROL : Fld := ⟨0x18, 0x044, 0, 0⟩
/-- STORE_STATUS, the whole word. -/
def STORE_STATUS : Fld := ⟨0x18, 0x044, 31, 0⟩
def STORE_SCRUB_CFG_PERIOD_H : Fld := ⟨0x18, 0x048, 7, 0⟩
/-- STORE_SCRUB_CFG, the whole word. -/
def STORE_SCRUB_CFG : Fld := ⟨0x18, 0x048, 31, 0⟩
def STORE_SCRUB_POS_GRANULE : Fld := ⟨0x18, 0x04C, 31, 0⟩
/-- STORE_SCRUB_POS, the whole word. -/
def STORE_SCRUB_POS : Fld := ⟨0x18, 0x04C, 31, 0⟩
def STORE_SCRUB_PASSES_N : Fld := ⟨0x18, 0x050, 31, 0⟩
/-- STORE_SCRUB_PASSES, the whole word. -/
def STORE_SCRUB_PASSES : Fld := ⟨0x18, 0x050, 31, 0⟩
def STORE_CNT_CE_N : Fld := ⟨0x18, 0x054, 31, 0⟩
/-- STORE_CNT_CE, the whole word. -/
def STORE_CNT_CE : Fld := ⟨0x18, 0x054, 31, 0⟩
def STORE_CNT_UE_N : Fld := ⟨0x18, 0x058, 31, 0⟩
/-- STORE_CNT_UE, the whole word. -/
def STORE_CNT_UE : Fld := ⟨0x18, 0x058, 31, 0⟩
def STORE_CNT_REMAP_N : Fld := ⟨0x18, 0x05C, 31, 0⟩
/-- STORE_CNT_REMAP, the whole word. -/
def STORE_CNT_REMAP : Fld := ⟨0x18, 0x05C, 31, 0⟩
def STORE_UE_ADDR_LO_A_LO : Fld := ⟨0x18, 0x060, 31, 0⟩
/-- STORE_UE_ADDR_LO, the whole word. -/
def STORE_UE_ADDR_LO : Fld := ⟨0x18, 0x060, 31, 0⟩
def STORE_UE_ADDR_HI_A_HI : Fld := ⟨0x18, 0x064, 7, 0⟩
/-- STORE_UE_ADDR_HI, the whole word. -/
def STORE_UE_ADDR_HI : Fld := ⟨0x18, 0x064, 31, 0⟩
def STORE_UE_INFO_VALID : Fld := ⟨0x18, 0x068, 31, 31⟩
def STORE_UE_INFO_REGION : Fld := ⟨0x18, 0x068, 18, 16⟩
def STORE_UE_INFO_CLASS : Fld := ⟨0x18, 0x068, 10, 8⟩
def STORE_UE_INFO_MASTER : Fld := ⟨0x18, 0x068, 7, 0⟩
/-- STORE_UE_INFO, the whole word. -/
def STORE_UE_INFO : Fld := ⟨0x18, 0x068, 31, 0⟩
def STORE_CE_ADDR_LO_A_LO : Fld := ⟨0x18, 0x06C, 31, 0⟩
/-- STORE_CE_ADDR_LO, the whole word. -/
def STORE_CE_ADDR_LO : Fld := ⟨0x18, 0x06C, 31, 0⟩
def STORE_CE_ADDR_HI_A_HI : Fld := ⟨0x18, 0x070, 7, 0⟩
/-- STORE_CE_ADDR_HI, the whole word. -/
def STORE_CE_ADDR_HI : Fld := ⟨0x18, 0x070, 31, 0⟩
def STORE_BUF_REP_VALID : Fld := ⟨0x18, 0x074, 20, 20⟩
def STORE_BUF_REPEAT : Fld := ⟨0x18, 0x074, 19, 16⟩
def STORE_BUF_BUSY : Fld := ⟨0x18, 0x074, 15, 0⟩
/-- STORE_BUF, the whole word. -/
def STORE_BUF : Fld := ⟨0x18, 0x074, 31, 0⟩
def STORE_CNT_CLR_CLR : Fld := ⟨0x18, 0x078, 0, 0⟩
/-- STORE_CNT_CLR, the whole word. -/
def STORE_CNT_CLR : Fld := ⟨0x18, 0x078, 31, 0⟩
def ARB_CFG_CP_MIN : Fld := ⟨0x19, 0x040, 4, 0⟩
/-- ARB_CFG, the whole word. -/
def ARB_CFG : Fld := ⟨0x19, 0x040, 31, 0⟩
def ARB_GRANTS_N (k : Nat) : Fld := ⟨0x19, 0x080 + 0x4 * k, 31, 0⟩
/-- ARB_GRANTSk, the whole word. -/
def ARB_GRANTS (k : Nat) : Fld := ⟨0x19, 0x080 + 0x4 * k, 31, 0⟩
def ARB_LAT_MAX_NS (k : Nat) : Fld := ⟨0x19, 0x0A0 + 0x4 * k, 15, 0⟩
/-- ARB_LATk, the whole word. -/
def ARB_LAT (k : Nat) : Fld := ⟨0x19, 0x0A0 + 0x4 * k, 31, 0⟩
def ARB_CNT_CLR_CLR : Fld := ⟨0x19, 0x0C0, 0, 0⟩
/-- ARB_CNT_CLR, the whole word. -/
def ARB_CNT_CLR : Fld := ⟨0x19, 0x0C0, 31, 0⟩
def SCREE_BASE_ADDR : Fld := ⟨0x24, 0x040, 31, 0⟩
/-- SCREE_BASE, the whole word. -/
def SCREE_BASE : Fld := ⟨0x24, 0x040, 31, 0⟩
def SCREE_STRIDE_BYTES : Fld := ⟨0x24, 0x044, 31, 0⟩
/-- SCREE_STRIDE, the whole word. -/
def SCREE_STRIDE : Fld := ⟨0x24, 0x044, 31, 0⟩
def SCREE_CAP_FRAMES : Fld := ⟨0x24, 0x048, 31, 0⟩
/-- SCREE_CAP, the whole word. -/
def SCREE_CAP : Fld := ⟨0x24, 0x048, 31, 0⟩
def SCREE_LAST_INDEX : Fld := ⟨0x24, 0x04C, 31, 0⟩
/-- SCREE_LAST, the whole word. -/
def SCREE_LAST : Fld := ⟨0x24, 0x04C, 31, 0⟩
def SCREE_CNT_PLAYED_N : Fld := ⟨0x24, 0x050, 31, 0⟩
/-- SCREE_CNT_PLAYED, the whole word. -/
def SCREE_CNT_PLAYED : Fld := ⟨0x24, 0x050, 31, 0⟩
def SCREE_CNT_UE_N : Fld := ⟨0x24, 0x054, 31, 0⟩
/-- SCREE_CNT_UE, the whole word. -/
def SCREE_CNT_UE : Fld := ⟨0x24, 0x054, 31, 0⟩
def SCREE_CNT_CLR_CLR : Fld := ⟨0x24, 0x058, 0, 0⟩
/-- SCREE_CNT_CLR, the whole word. -/
def SCREE_CNT_CLR : Fld := ⟨0x24, 0x058, 31, 0⟩
def PIPE_CFG_MODE : Fld := ⟨0x20, 0x040, 1, 0⟩
/-- PIPE_CFG, the whole word. -/
def PIPE_CFG : Fld := ⟨0x20, 0x040, 31, 0⟩
def PIPE_GAIN_GLOBAL : Fld := ⟨0x20, 0x044, 15, 0⟩
/-- PIPE_GAIN, the whole word. -/
def PIPE_GAIN : Fld := ⟨0x20, 0x044, 31, 0⟩
def PIPE_LUT_ADDR_ADDR : Fld := ⟨0x20, 0x048, 31, 0⟩
/-- PIPE_LUT_ADDR, the whole word. -/
def PIPE_LUT_ADDR : Fld := ⟨0x20, 0x048, 31, 0⟩
def PIPE_REORDER_ADDR_ADDR : Fld := ⟨0x20, 0x04C, 31, 0⟩
/-- PIPE_REORDER_ADDR, the whole word. -/
def PIPE_REORDER_ADDR : Fld := ⟨0x20, 0x04C, 31, 0⟩
def PIPE_STATUS_BURST : Fld := ⟨0x20, 0x050, 31, 31⟩
def PIPE_STATUS_LANE_FENCED : Fld := ⟨0x20, 0x050, 27, 24⟩
def PIPE_STATUS_SOURCE : Fld := ⟨0x20, 0x050, 17, 16⟩
def PIPE_STATUS_GEN : Fld := ⟨0x20, 0x050, 15, 0⟩
/-- PIPE_STATUS, the whole word. -/
def PIPE_STATUS : Fld := ⟨0x20, 0x050, 31, 0⟩
def PIPE_LAST_GAIN_G : Fld := ⟨0x20, 0x054, 31, 16⟩
def PIPE_LAST_GAIN_GOV : Fld := ⟨0x20, 0x054, 15, 0⟩
/-- PIPE_LAST_GAIN, the whole word. -/
def PIPE_LAST_GAIN : Fld := ⟨0x20, 0x054, 31, 0⟩
def PIPE_BURST_NS_NS : Fld := ⟨0x20, 0x058, 31, 0⟩
/-- PIPE_BURST_NS, the whole word. -/
def PIPE_BURST_NS : Fld := ⟨0x20, 0x058, 31, 0⟩
def PIPE_BURST_MAX_NS_NS : Fld := ⟨0x20, 0x05C, 31, 0⟩
/-- PIPE_BURST_MAX_NS, the whole word. -/
def PIPE_BURST_MAX_NS : Fld := ⟨0x20, 0x05C, 31, 0⟩
def PIPE_LANE_ENTRIES_E (g : Nat) : Fld := ⟨0x20, 0x060 + 0x4 * g, 19, 0⟩
/-- PIPE_LANE_ENTRIES, the whole word. -/
def PIPE_LANE_ENTRIES (g : Nat) : Fld := ⟨0x20, 0x060 + 0x4 * g, 31, 0⟩
def PIPE_CNT_FRAMES_N : Fld := ⟨0x20, 0x070, 31, 0⟩
/-- PIPE_CNT_FRAMES, the whole word. -/
def PIPE_CNT_FRAMES : Fld := ⟨0x20, 0x070, 31, 0⟩
def PIPE_CNT_RESIDUE_N : Fld := ⟨0x20, 0x074, 31, 0⟩
/-- PIPE_CNT_RESIDUE, the whole word. -/
def PIPE_CNT_RESIDUE : Fld := ⟨0x20, 0x074, 31, 0⟩
def PIPE_CNT_LUT_UE_N : Fld := ⟨0x20, 0x078, 31, 0⟩
/-- PIPE_CNT_LUT_UE, the whole word. -/
def PIPE_CNT_LUT_UE : Fld := ⟨0x20, 0x078, 31, 0⟩
def PIPE_CNT_ENTRY_UE_N : Fld := ⟨0x20, 0x07C, 31, 0⟩
/-- PIPE_CNT_ENTRY_UE, the whole word. -/
def PIPE_CNT_ENTRY_UE : Fld := ⟨0x20, 0x07C, 31, 0⟩
def PIPE_CNT_CLR_CLR : Fld := ⟨0x20, 0x080, 0, 0⟩
/-- PIPE_CNT_CLR, the whole word. -/
def PIPE_CNT_CLR : Fld := ⟨0x20, 0x080, 31, 0⟩
def CAL_ADDR_ADDR : Fld := ⟨0x21, 0x040, 31, 0⟩
/-- CAL_ADDR, the whole word. -/
def CAL_ADDR : Fld := ⟨0x21, 0x040, 31, 0⟩
def CAL_CFG_BYPASS : Fld := ⟨0x21, 0x044, 0, 0⟩
/-- CAL_CFG, the whole word. -/
def CAL_CFG : Fld := ⟨0x21, 0x044, 31, 0⟩
def CAL_CNT_UE_N : Fld := ⟨0x21, 0x048, 31, 0⟩
/-- CAL_CNT_UE, the whole word. -/
def CAL_CNT_UE : Fld := ⟨0x21, 0x048, 31, 0⟩
def CAL_UE_LAST_VALID : Fld := ⟨0x21, 0x04C, 31, 31⟩
def CAL_UE_LAST_INDEX : Fld := ⟨0x21, 0x04C, 21, 0⟩
/-- CAL_UE_LAST, the whole word. -/
def CAL_UE_LAST : Fld := ⟨0x21, 0x04C, 31, 0⟩
def CAL_FALLBACK_N : Fld := ⟨0x21, 0x050, 21, 0⟩
/-- CAL_FALLBACK, the whole word. -/
def CAL_FALLBACK : Fld := ⟨0x21, 0x050, 31, 0⟩
def CAL_CNT_CLR_CLR : Fld := ⟨0x21, 0x054, 0, 0⟩
/-- CAL_CNT_CLR, the whole word. -/
def CAL_CNT_CLR : Fld := ⟨0x21, 0x054, 31, 0⟩
def DITH_CFG_MIRROR : Fld := ⟨0x22, 0x040, 4, 4⟩
def DITH_CFG_ROT : Fld := ⟨0x22, 0x040, 3, 2⟩
def DITH_CFG_TEMPORAL : Fld := ⟨0x22, 0x040, 1, 1⟩
def DITH_CFG_EN : Fld := ⟨0x22, 0x040, 0, 0⟩
/-- DITH_CFG, the whole word. -/
def DITH_CFG : Fld := ⟨0x22, 0x040, 31, 0⟩
def DITH_SEED_SEED : Fld := ⟨0x22, 0x044, 31, 0⟩
/-- DITH_SEED, the whole word. -/
def DITH_SEED : Fld := ⟨0x22, 0x044, 31, 0⟩
def DITH_ORG_X_X : Fld := ⟨0x22, 0x048, 19, 0⟩
/-- DITH_ORG_X, the whole word. -/
def DITH_ORG_X : Fld := ⟨0x22, 0x048, 31, 0⟩
def DITH_ORG_Y_Y : Fld := ⟨0x22, 0x04C, 19, 0⟩
/-- DITH_ORG_Y, the whole word. -/
def DITH_ORG_Y : Fld := ⟨0x22, 0x04C, 31, 0⟩
def GOV_CFG_EN : Fld := ⟨0x23, 0x040, 0, 0⟩
/-- GOV_CFG, the whole word. -/
def GOV_CFG : Fld := ⟨0x23, 0x040, 31, 0⟩
def GOV_RAILMAP_ADDR_ADDR : Fld := ⟨0x23, 0x044, 31, 0⟩
/-- GOV_RAILMAP_ADDR, the whole word. -/
def GOV_RAILMAP_ADDR : Fld := ⟨0x23, 0x044, 31, 0⟩
def GOV_LUMW_RG_G : Fld := ⟨0x23, 0x048, 31, 16⟩
def GOV_LUMW_RG_R : Fld := ⟨0x23, 0x048, 15, 0⟩
/-- GOV_LUMW_RG, the whole word. -/
def GOV_LUMW_RG : Fld := ⟨0x23, 0x048, 31, 0⟩
def GOV_LUMW_B_B : Fld := ⟨0x23, 0x04C, 15, 0⟩
/-- GOV_LUMW_B, the whole word. -/
def GOV_LUMW_B : Fld := ⟨0x23, 0x04C, 31, 0⟩
def GOV_CEIL_P_MW : Fld := ⟨0x23, 0x050, 31, 0⟩
/-- GOV_CEIL_P, the whole word. -/
def GOV_CEIL_P : Fld := ⟨0x23, 0x050, 31, 0⟩
def GOV_CEIL_LG_G_LOCAL : Fld := ⟨0x23, 0x054, 31, 16⟩
def GOV_CEIL_LG_LUM : Fld := ⟨0x23, 0x054, 15, 0⟩
/-- GOV_CEIL_LG, the whole word. -/
def GOV_CEIL_LG : Fld := ⟨0x23, 0x054, 31, 0⟩
def GOV_RAIL_IU_I_UNIT_UA (r : Nat) : Fld := ⟨0x23, 0x080 + 0x10 * r, 19, 0⟩
/-- GOV_RAILr_IU, the whole word. -/
def GOV_RAIL_IU (r : Nat) : Fld := ⟨0x23, 0x080 + 0x10 * r, 31, 0⟩
def GOV_RAIL_VS_STATIC_MW (r : Nat) : Fld := ⟨0x23, 0x084 + 0x10 * r, 31, 16⟩
def GOV_RAIL_VS_V_MODEL_MV (r : Nat) : Fld := ⟨0x23, 0x084 + 0x10 * r, 15, 0⟩
/-- GOV_RAILr_VS, the whole word. -/
def GOV_RAIL_VS (r : Nat) : Fld := ⟨0x23, 0x084 + 0x10 * r, 31, 0⟩
def GOV_RAIL_LIMIT_MW (r : Nat) : Fld := ⟨0x23, 0x088 + 0x10 * r, 31, 0⟩
/-- GOV_RAILr_LIMIT, the whole word. -/
def GOV_RAIL_LIMIT (r : Nat) : Fld := ⟨0x23, 0x088 + 0x10 * r, 31, 0⟩
def GOV_P_CAP_MW : Fld := ⟨0x23, 0x140, 31, 0⟩
/-- GOV_P_CAP, the whole word. -/
def GOV_P_CAP : Fld := ⟨0x23, 0x140, 31, 0⟩
def GOV_P_STATIC_MW : Fld := ⟨0x23, 0x144, 31, 0⟩
/-- GOV_P_STATIC, the whole word. -/
def GOV_P_STATIC : Fld := ⟨0x23, 0x144, 31, 0⟩
def GOV_P_CEIL_MW : Fld := ⟨0x23, 0x148, 31, 0⟩
/-- GOV_P_CEIL, the whole word. -/
def GOV_P_CEIL : Fld := ⟨0x23, 0x148, 31, 0⟩
def GOV_P_LUM_CEIL : Fld := ⟨0x23, 0x14C, 31, 16⟩
def GOV_P_LUM_CAP : Fld := ⟨0x23, 0x14C, 15, 0⟩
/-- GOV_P_LUM, the whole word. -/
def GOV_P_LUM : Fld := ⟨0x23, 0x14C, 31, 0⟩
def GOV_P_GAIN_SCREE : Fld := ⟨0x23, 0x150, 31, 16⟩
def GOV_P_GAIN_MAX : Fld := ⟨0x23, 0x150, 15, 0⟩
/-- GOV_P_GAIN, the whole word. -/
def GOV_P_GAIN : Fld := ⟨0x23, 0x150, 31, 0⟩
def GOV_P_SLEW_UP : Fld := ⟨0x23, 0x154, 15, 0⟩
/-- GOV_P_SLEW, the whole word. -/
def GOV_P_SLEW : Fld := ⟨0x23, 0x154, 31, 0⟩
def GOV_HAVE_P_MW : Fld := ⟨0x23, 0x160, 31, 0⟩
/-- GOV_HAVE_P, the whole word. -/
def GOV_HAVE_P : Fld := ⟨0x23, 0x160, 31, 0⟩
def GOV_HAVE_R_MW : Fld := ⟨0x23, 0x164, 31, 0⟩
/-- GOV_HAVE_R, the whole word. -/
def GOV_HAVE_R : Fld := ⟨0x23, 0x164, 31, 0⟩
def GOV_HAVE_LG_G_LOCAL : Fld := ⟨0x23, 0x168, 31, 16⟩
def GOV_HAVE_LG_LUM : Fld := ⟨0x23, 0x168, 15, 0⟩
/-- GOV_HAVE_LG, the whole word. -/
def GOV_HAVE_LG : Fld := ⟨0x23, 0x168, 31, 0⟩
def GOV_STATUS_CEIL : Fld := ⟨0x23, 0x16C, 31, 31⟩
def GOV_STATUS_SCREE_BUSY : Fld := ⟨0x23, 0x16C, 1, 1⟩
def GOV_STATUS_TWO_BANKS : Fld := ⟨0x23, 0x16C, 0, 0⟩
/-- GOV_STATUS, the whole word. -/
def GOV_STATUS : Fld := ⟨0x23, 0x16C, 31, 0⟩
def GOV_RAIL_PRED_UW (r : Nat) : Fld := ⟨0x23, 0x180 + 0x4 * r, 31, 0⟩
/-- GOV_RAILr_PRED, the whole word. -/
def GOV_RAIL_PRED (r : Nat) : Fld := ⟨0x23, 0x180 + 0x4 * r, 31, 0⟩
def GOV_Q_DYN_LO_DYN_LO : Fld := ⟨0x23, 0x1C0, 31, 0⟩
/-- GOV_Q_DYN_LO, the whole word. -/
def GOV_Q_DYN_LO : Fld := ⟨0x23, 0x1C0, 31, 0⟩
def GOV_Q_DYN_HI_DYN_HI : Fld := ⟨0x23, 0x1C4, 31, 0⟩
/-- GOV_Q_DYN_HI, the whole word. -/
def GOV_Q_DYN_HI : Fld := ⟨0x23, 0x1C4, 31, 0⟩
def GOV_Q_G1_GLUM : Fld := ⟨0x23, 0x1C8, 31, 16⟩
def GOV_Q_G1_GPOW : Fld := ⟨0x23, 0x1C8, 15, 0⟩
/-- GOV_Q_G1, the whole word. -/
def GOV_Q_G1 : Fld := ⟨0x23, 0x1C8, 31, 0⟩
def GOV_Q_G2_TARGET : Fld := ⟨0x23, 0x1CC, 31, 16⟩
def GOV_Q_G2_GLOC : Fld := ⟨0x23, 0x1CC, 15, 0⟩
/-- GOV_Q_G2, the whole word. -/
def GOV_Q_G2 : Fld := ⟨0x23, 0x1CC, 31, 0⟩
def GOV_SURV_P_MW : Fld := ⟨0x23, 0x1E0, 31, 0⟩
/-- GOV_SURV_P, the whole word. -/
def GOV_SURV_P : Fld := ⟨0x23, 0x1E0, 31, 0⟩
def GOV_SURV_L_DONE : Fld := ⟨0x23, 0x1E4, 31, 31⟩
def GOV_SURV_L_LUM : Fld := ⟨0x23, 0x1E4, 15, 0⟩
/-- GOV_SURV_L, the whole word. -/
def GOV_SURV_L : Fld := ⟨0x23, 0x1E4, 31, 0⟩
def GOV_SURV_IDX_INDEX : Fld := ⟨0x23, 0x1E8, 31, 0⟩
/-- GOV_SURV_IDX, the whole word. -/
def GOV_SURV_IDX : Fld := ⟨0x23, 0x1E8, 31, 0⟩
def GOV_SURV_GEN_GEN : Fld := ⟨0x23, 0x1EC, 15, 0⟩
/-- GOV_SURV_GEN, the whole word. -/
def GOV_SURV_GEN : Fld := ⟨0x23, 0x1EC, 31, 0⟩
def GOV_EPRED_LO_E_LO (r : Nat) : Fld := ⟨0x23, 0x200 + 0x8 * r, 31, 0⟩
/-- GOV_EPREDr_LO, the whole word. -/
def GOV_EPRED_LO (r : Nat) : Fld := ⟨0x23, 0x200 + 0x8 * r, 31, 0⟩
def GOV_EPRED_HI_E_HI (r : Nat) : Fld := ⟨0x23, 0x204 + 0x8 * r, 31, 0⟩
/-- GOV_EPREDr_HI, the whole word. -/
def GOV_EPRED_HI (r : Nat) : Fld := ⟨0x23, 0x204 + 0x8 * r, 31, 0⟩
def GOV_SNAP_CTRL_DONE : Fld := ⟨0x23, 0x260, 1, 1⟩
def GOV_SNAP_CTRL_REQ : Fld := ⟨0x23, 0x260, 0, 0⟩
/-- GOV_SNAP_CTRL, the whole word. -/
def GOV_SNAP_CTRL : Fld := ⟨0x23, 0x260, 31, 0⟩
def GOV_SNAP_FRAME_LO_N_LO : Fld := ⟨0x23, 0x264, 31, 0⟩
/-- GOV_SNAP_FRAME_LO, the whole word. -/
def GOV_SNAP_FRAME_LO : Fld := ⟨0x23, 0x264, 31, 0⟩
def GOV_SNAP_FRAME_HI_N_HI : Fld := ⟨0x23, 0x268, 15, 0⟩
/-- GOV_SNAP_FRAME_HI, the whole word. -/
def GOV_SNAP_FRAME_HI : Fld := ⟨0x23, 0x268, 31, 0⟩
def GOV_CNT_CEIL_N : Fld := ⟨0x23, 0x270, 31, 0⟩
/-- GOV_CNT_CEIL, the whole word. -/
def GOV_CNT_CEIL : Fld := ⟨0x23, 0x270, 31, 0⟩
def GOV_CNT_UE_N : Fld := ⟨0x23, 0x274, 31, 0⟩
/-- GOV_CNT_UE, the whole word. -/
def GOV_CNT_UE : Fld := ⟨0x23, 0x274, 31, 0⟩
def GOV_CNT_CLR_CLR : Fld := ⟨0x23, 0x278, 0, 0⟩
/-- GOV_CNT_CLR, the whole word. -/
def GOV_CNT_CLR : Fld := ⟨0x23, 0x278, 31, 0⟩
def STR_CFG_EN (g : Nat) : Fld := ⟨0x28 + g % 4, 0x040, 27, 16⟩
def STR_CFG_RATE (g : Nat) : Fld := ⟨0x28 + g % 4, 0x040, 1, 0⟩
/-- STRg_CFG, the whole word. -/
def STR_CFG (g : Nat) : Fld := ⟨0x28 + g % 4, 0x040, 31, 0⟩
def STR_FRAMEHDR_PRE_TIME (g : Nat) : Fld := ⟨0x28 + g % 4, 0x044, 23, 16⟩
def STR_FRAMEHDR_PRE_LEVEL (g : Nat) : Fld := ⟨0x28 + g % 4, 0x044, 15, 8⟩
def STR_FRAMEHDR_SCAN (g : Nat) : Fld := ⟨0x28 + g % 4, 0x044, 7, 0⟩
/-- STRg_FRAMEHDR, the whole word. -/
def STR_FRAMEHDR (g : Nat) : Fld := ⟨0x28 + g % 4, 0x044, 31, 0⟩
def STR_RING_EVERY (g : Nat) : Fld := ⟨0x28 + g % 4, 0x048, 15, 8⟩
def STR_RING_LEN (g : Nat) : Fld := ⟨0x28 + g % 4, 0x048, 6, 0⟩
/-- STRg_RING, the whole word. -/
def STR_RING (g : Nat) : Fld := ⟨0x28 + g % 4, 0x048, 31, 0⟩
def STR_RING_ADDR_ADDR (g : Nat) : Fld := ⟨0x28 + g % 4, 0x04C, 31, 0⟩
/-- STRg_RING_ADDR, the whole word. -/
def STR_RING_ADDR (g : Nat) : Fld := ⟨0x28 + g % 4, 0x04C, 31, 0⟩
def STR_SHARE_ADDR_ADDR (g : Nat) : Fld := ⟨0x28 + g % 4, 0x050, 31, 0⟩
/-- STRg_SHARE_ADDR, the whole word. -/
def STR_SHARE_ADDR (g : Nat) : Fld := ⟨0x28 + g % 4, 0x050, 31, 0⟩
def STR_AREA_OFF (g : Nat) (k : Nat) : Fld := ⟨0x28 + g % 4, 0x080 + 0x4 * k, 18, 0⟩
/-- STRg_AREAk, the whole word. -/
def STR_AREA (g : Nat) (k : Nat) : Fld := ⟨0x28 + g % 4, 0x080 + 0x4 * k, 31, 0⟩
def STR_CHAIN_BLOCKS (g : Nat) (k : Nat) : Fld := ⟨0x28 + g % 4, 0x0C0 + 0x4 * k, 24, 16⟩
def STR_CHAIN_DRIVERS (g : Nat) (k : Nat) : Fld := ⟨0x28 + g % 4, 0x0C0 + 0x4 * k, 8, 0⟩
/-- STRg_CHAINk, the whole word. -/
def STR_CHAIN (g : Nat) (k : Nat) : Fld := ⟨0x28 + g % 4, 0x0C0 + 0x4 * k, 31, 0⟩
def STR_SEL_STRAND (g : Nat) : Fld := ⟨0x28 + g % 4, 0x100, 3, 0⟩
/-- STRg_SEL, the whole word. -/
def STR_SEL (g : Nat) : Fld := ⟨0x28 + g % 4, 0x100, 31, 0⟩
def STR_STATUS_VIO (g : Nat) : Fld := ⟨0x28 + g % 4, 0x104, 31, 30⟩
def STR_STATUS_DRIVING (g : Nat) : Fld := ⟨0x28 + g % 4, 0x104, 27, 16⟩
def STR_STATUS_FENCED (g : Nat) : Fld := ⟨0x28 + g % 4, 0x104, 11, 0⟩
/-- STRg_STATUS, the whole word. -/
def STR_STATUS (g : Nat) : Fld := ⟨0x28 + g % 4, 0x104, 31, 0⟩
def STR_CNT_FRAMES_N (g : Nat) : Fld := ⟨0x28 + g % 4, 0x110, 31, 0⟩
/-- STRg_CNT_FRAMES, the whole word. -/
def STR_CNT_FRAMES (g : Nat) : Fld := ⟨0x28 + g % 4, 0x110, 31, 0⟩
def STR_CNT_ABORT_N (g : Nat) : Fld := ⟨0x28 + g % 4, 0x114, 31, 0⟩
/-- STRg_CNT_ABORT, the whole word. -/
def STR_CNT_ABORT (g : Nat) : Fld := ⟨0x28 + g % 4, 0x114, 31, 0⟩
def STR_CNT_RET_OK_N (g : Nat) : Fld := ⟨0x28 + g % 4, 0x118, 31, 0⟩
/-- STRg_CNT_RET_OK, the whole word. -/
def STR_CNT_RET_OK (g : Nat) : Fld := ⟨0x28 + g % 4, 0x118, 31, 0⟩
def STR_CNT_RET_NONE_N (g : Nat) : Fld := ⟨0x28 + g % 4, 0x11C, 31, 0⟩
/-- STRg_CNT_RET_NONE, the whole word. -/
def STR_CNT_RET_NONE (g : Nat) : Fld := ⟨0x28 + g % 4, 0x11C, 31, 0⟩
def STR_CNT_RET_BAD_N (g : Nat) : Fld := ⟨0x28 + g % 4, 0x120, 31, 0⟩
/-- STRg_CNT_RET_BAD, the whole word. -/
def STR_CNT_RET_BAD (g : Nat) : Fld := ⟨0x28 + g % 4, 0x120, 31, 0⟩
def STR_CNT_LONG_N (g : Nat) : Fld := ⟨0x28 + g % 4, 0x124, 31, 0⟩
/-- STRg_CNT_LONG, the whole word. -/
def STR_CNT_LONG (g : Nat) : Fld := ⟨0x28 + g % 4, 0x124, 31, 0⟩
def STR_CNT_DRV_ERR_N (g : Nat) : Fld := ⟨0x28 + g % 4, 0x128, 31, 0⟩
/-- STRg_CNT_DRV_ERR, the whole word. -/
def STR_CNT_DRV_ERR (g : Nat) : Fld := ⟨0x28 + g % 4, 0x128, 31, 0⟩
def STR_RET_LAST_CODE (g : Nat) : Fld := ⟨0x28 + g % 4, 0x12C, 31, 24⟩
def STR_RET_LAST_POS (g : Nat) : Fld := ⟨0x28 + g % 4, 0x12C, 15, 8⟩
def STR_RET_LAST_STATUS (g : Nat) : Fld := ⟨0x28 + g % 4, 0x12C, 7, 0⟩
/-- STRg_RET_LAST, the whole word. -/
def STR_RET_LAST (g : Nat) : Fld := ⟨0x28 + g % 4, 0x12C, 31, 0⟩
def STR_PAYLOAD_CRC_CRC (g : Nat) : Fld := ⟨0x28 + g % 4, 0x140, 31, 0⟩
/-- STRg_PAYLOAD_CRC, the whole word. -/
def STR_PAYLOAD_CRC (g : Nat) : Fld := ⟨0x28 + g % 4, 0x140, 31, 0⟩
def STR_CNT_CLR_CLR (g : Nat) : Fld := ⟨0x28 + g % 4, 0x144, 0, 0⟩
/-- STRg_CNT_CLR, the whole word. -/
def STR_CNT_CLR (g : Nat) : Fld := ⟨0x28 + g % 4, 0x144, 31, 0⟩
def PRESENT_LAST_LO_N_LO : Fld := ⟨0x2C, 0x040, 31, 0⟩
/-- PRESENT_LAST_LO, the whole word. -/
def PRESENT_LAST_LO : Fld := ⟨0x2C, 0x040, 31, 0⟩
def PRESENT_LAST_HI_N_HI : Fld := ⟨0x2C, 0x044, 15, 0⟩
/-- PRESENT_LAST_HI, the whole word. -/
def PRESENT_LAST_HI : Fld := ⟨0x2C, 0x044, 31, 0⟩
def PRESENT_SLOT_DRIVING : Fld := ⟨0x2C, 0x048, 31, 31⟩
def PRESENT_SLOT_CASE : Fld := ⟨0x2C, 0x048, 1, 0⟩
/-- PRESENT_SLOT, the whole word. -/
def PRESENT_SLOT : Fld := ⟨0x2C, 0x048, 31, 0⟩
def PRESENT_CNT_PRESENTED_N : Fld := ⟨0x2C, 0x050, 31, 0⟩
/-- PRESENT_CNT_PRESENTED, the whole word. -/
def PRESENT_CNT_PRESENTED : Fld := ⟨0x2C, 0x050, 31, 0⟩
def PRESENT_CNT_IDLE_N : Fld := ⟨0x2C, 0x054, 31, 0⟩
/-- PRESENT_CNT_IDLE, the whole word. -/
def PRESENT_CNT_IDLE : Fld := ⟨0x2C, 0x054, 31, 0⟩
def PRESENT_CNT_CLR_CLR : Fld := ⟨0x2C, 0x058, 0, 0⟩
/-- PRESENT_CNT_CLR, the whole word. -/
def PRESENT_CNT_CLR : Fld := ⟨0x2C, 0x058, 31, 0⟩
def PRESENT_SKEW_LEAD (s : Nat) : Fld := ⟨0x2C, 0x080 + 0x4 * s, 26, 16⟩
def PRESENT_SKEW_SKEW_NS (s : Nat) : Fld := ⟨0x2C, 0x080 + 0x4 * s, 10, 0⟩
/-- PRESENT_SKEWs, the whole word. -/
def PRESENT_SKEW (s : Nat) : Fld := ⟨0x2C, 0x080 + 0x4 * s, 31, 0⟩
def RAIL_CFG_FW_BUS : Fld := ⟨0x30, 0x040, 2, 2⟩
def RAIL_CFG_PMB_PEC : Fld := ⟨0x30, 0x040, 1, 1⟩
def RAIL_CFG_PMB_SPEED : Fld := ⟨0x30, 0x040, 0, 0⟩
/-- RAIL_CFG, the whole word. -/
def RAIL_CFG : Fld := ⟨0x30, 0x040, 31, 0⟩
def RAIL_CTRL_STALE (r : Nat) : Fld := ⟨0x30, 0x080 + 0x20 * r, 23, 16⟩
def RAIL_CTRL_PMB_ADDR (r : Nat) : Fld := ⟨0x30, 0x080 + 0x20 * r, 14, 8⟩
def RAIL_CTRL_USE_OPEN (r : Nat) : Fld := ⟨0x30, 0x080 + 0x20 * r, 3, 3⟩
def RAIL_CTRL_IF (r : Nat) : Fld := ⟨0x30, 0x080 + 0x20 * r, 2, 2⟩
def RAIL_CTRL_MODE (r : Nat) : Fld := ⟨0x30, 0x080 + 0x20 * r, 1, 0⟩
/-- RAILr_CTRL, the whole word. -/
def RAIL_CTRL (r : Nat) : Fld := ⟨0x30, 0x080 + 0x20 * r, 31, 0⟩
def RAIL_WIN_HIGH_CODE (r : Nat) : Fld := ⟨0x30, 0x084 + 0x20 * r, 31, 16⟩
def RAIL_WIN_LOW_CODE (r : Nat) : Fld := ⟨0x30, 0x084 + 0x20 * r, 15, 0⟩
/-- RAILr_WIN, the whole word. -/
def RAIL_WIN (r : Nat) : Fld := ⟨0x30, 0x084 + 0x20 * r, 31, 0⟩
def RAIL_CODES_SAFE_CODE (r : Nat) : Fld := ⟨0x30, 0x088 + 0x20 * r, 31, 16⟩
def RAIL_CODES_NODATA_CODE (r : Nat) : Fld := ⟨0x30, 0x088 + 0x20 * r, 15, 0⟩
/-- RAILr_CODES, the whole word. -/
def RAIL_CODES (r : Nat) : Fld := ⟨0x30, 0x088 + 0x20 * r, 31, 0⟩
def RAIL_START_START_CODE (r : Nat) : Fld := ⟨0x30, 0x08C + 0x20 * r, 15, 0⟩
/-- RAILr_START, the whole word. -/
def RAIL_START (r : Nat) : Fld := ⟨0x30, 0x08C + 0x20 * r, 31, 0⟩
def RAIL_HEAD_FLOOR_MV (r : Nat) : Fld := ⟨0x30, 0x090 + 0x20 * r, 31, 16⟩
def RAIL_HEAD_TARGET_MV (r : Nat) : Fld := ⟨0x30, 0x090 + 0x20 * r, 15, 0⟩
/-- RAILr_HEAD, the whole word. -/
def RAIL_HEAD (r : Nat) : Fld := ⟨0x30, 0x090 + 0x20 * r, 31, 0⟩
def RAIL_LOOP_DEADBAND_MV (r : Nat) : Fld := ⟨0x30, 0x094 + 0x20 * r, 23, 16⟩
def RAIL_LOOP_PERIOD_MS (r : Nat) : Fld := ⟨0x30, 0x094 + 0x20 * r, 15, 0⟩
/-- RAILr_LOOP, the whole word. -/
def RAIL_LOOP (r : Nat) : Fld := ⟨0x30, 0x094 + 0x20 * r, 31, 0⟩
def RAIL_STEP_FAST_STEP (r : Nat) : Fld := ⟨0x30, 0x098 + 0x20 * r, 27, 16⟩
def RAIL_STEP_STEP_MAX (r : Nat) : Fld := ⟨0x30, 0x098 + 0x20 * r, 11, 0⟩
/-- RAILr_STEP, the whole word. -/
def RAIL_STEP (r : Nat) : Fld := ⟨0x30, 0x098 + 0x20 * r, 31, 0⟩
def RAIL_RAMP_HOLD_MS (r : Nat) : Fld := ⟨0x30, 0x09C + 0x20 * r, 31, 16⟩
def RAIL_RAMP_RAMP (r : Nat) : Fld := ⟨0x30, 0x09C + 0x20 * r, 11, 0⟩
/-- RAILr_RAMP, the whole word. -/
def RAIL_RAMP (r : Nat) : Fld := ⟨0x30, 0x09C + 0x20 * r, 31, 0⟩
def RAIL_GAIN_OV_MV (r : Nat) : Fld := ⟨0x30, 0x044 + 0x4 * r, 31, 16⟩
def RAIL_GAIN_UV_PER_CODE (r : Nat) : Fld := ⟨0x30, 0x044 + 0x4 * r, 15, 0⟩
/-- RAILr_GAIN, the whole word. -/
def RAIL_GAIN (r : Nat) : Fld := ⟨0x30, 0x044 + 0x4 * r, 31, 0⟩
def RAIL_SMAP_ODD (j : Nat) : Fld := ⟨0x30, 0x200 + 0x4 * j, 31, 16⟩
def RAIL_SMAP_EVEN (j : Nat) : Fld := ⟨0x30, 0x200 + 0x4 * j, 15, 0⟩
/-- RAIL_SMAPj, the whole word. -/
def RAIL_SMAP (j : Nat) : Fld := ⟨0x30, 0x200 + 0x4 * j, 31, 0⟩
def RAIL_STATUS_NODATA : Fld := ⟨0x30, 0x300, 27, 16⟩
def RAIL_STATUS_FENCED : Fld := ⟨0x30, 0x300, 11, 0⟩
/-- RAIL_STATUS, the whole word. -/
def RAIL_STATUS : Fld := ⟨0x30, 0x300, 31, 0⟩
def RAIL_CNT_FLOOR_N : Fld := ⟨0x30, 0x304, 31, 0⟩
/-- RAIL_CNT_FLOOR, the whole word. -/
def RAIL_CNT_FLOOR : Fld := ⟨0x30, 0x304, 31, 0⟩
def RAIL_CNT_EXCL_N : Fld := ⟨0x30, 0x308, 31, 0⟩
/-- RAIL_CNT_EXCL, the whole word. -/
def RAIL_CNT_EXCL : Fld := ⟨0x30, 0x308, 31, 0⟩
def RAIL_CNT_PMB_ERR_N : Fld := ⟨0x30, 0x30C, 31, 0⟩
/-- RAIL_CNT_PMB_ERR, the whole word. -/
def RAIL_CNT_PMB_ERR : Fld := ⟨0x30, 0x30C, 31, 0⟩
def RAIL_CNT_CLR_CLR : Fld := ⟨0x30, 0x310, 0, 0⟩
/-- RAIL_CNT_CLR, the whole word. -/
def RAIL_CNT_CLR : Fld := ⟨0x30, 0x310, 31, 0⟩
def RAIL_OUT_TARGET (r : Nat) : Fld := ⟨0x30, 0x340 + 0x4 * r, 31, 16⟩
def RAIL_OUT_OUTPUT (r : Nat) : Fld := ⟨0x30, 0x340 + 0x4 * r, 15, 0⟩
/-- RAIL_OUTr, the whole word. -/
def RAIL_OUT (r : Nat) : Fld := ⟨0x30, 0x340 + 0x4 * r, 31, 0⟩
def RAIL_HMIN_REPORTS (r : Nat) : Fld := ⟨0x30, 0x380 + 0x4 * r, 31, 16⟩
def RAIL_HMIN_HMIN (r : Nat) : Fld := ⟨0x30, 0x380 + 0x4 * r, 15, 0⟩
/-- RAIL_HMINr, the whole word. -/
def RAIL_HMIN (r : Nat) : Fld := ⟨0x30, 0x380 + 0x4 * r, 31, 0⟩
def RAIL_VOUT_STATUS_WORD (r : Nat) : Fld := ⟨0x30, 0x3C0 + 0x4 * r, 31, 16⟩
def RAIL_VOUT_READ_VOUT (r : Nat) : Fld := ⟨0x30, 0x3C0 + 0x4 * r, 15, 0⟩
/-- RAIL_VOUTr, the whole word. -/
def RAIL_VOUT (r : Nat) : Fld := ⟨0x30, 0x3C0 + 0x4 * r, 31, 0⟩
def RAIL_STATE_CAUSE (r : Nat) : Fld := ⟨0x30, 0x400 + 0x4 * r, 31, 16⟩
def RAIL_STATE_STATE (r : Nat) : Fld := ⟨0x30, 0x400 + 0x4 * r, 2, 0⟩
/-- RAIL_STATEr, the whole word. -/
def RAIL_STATE (r : Nat) : Fld := ⟨0x30, 0x400 + 0x4 * r, 31, 0⟩
def TELEM_CFG_SRC_EN : Fld := ⟨0x31, 0x040, 19, 16⟩
def TELEM_CFG_TAIL_US : Fld := ⟨0x31, 0x040, 15, 0⟩
/-- TELEM_CFG, the whole word. -/
def TELEM_CFG : Fld := ⟨0x31, 0x040, 31, 0⟩
def TELEM_CTRL_FLUSH : Fld := ⟨0x31, 0x044, 0, 0⟩
/-- TELEM_CTRL, the whole word. -/
def TELEM_CTRL : Fld := ⟨0x31, 0x044, 31, 0⟩
def TELEM_POP_WORD : Fld := ⟨0x31, 0x048, 31, 0⟩
/-- TELEM_POP, the whole word. -/
def TELEM_POP : Fld := ⟨0x31, 0x048, 31, 0⟩
def TELEM_RELEASE_ANY : Fld := ⟨0x31, 0x04C, 31, 0⟩
/-- TELEM_RELEASE, the whole word. -/
def TELEM_RELEASE : Fld := ⟨0x31, 0x04C, 31, 0⟩
def TELEM_STATUS_FLUSHING : Fld := ⟨0x31, 0x050, 31, 31⟩
def TELEM_STATUS_STALLED : Fld := ⟨0x31, 0x050, 30, 30⟩
def TELEM_STATUS_OVF : Fld := ⟨0x31, 0x050, 29, 29⟩
def TELEM_STATUS_FILL_WORDS : Fld := ⟨0x31, 0x050, 28, 16⟩
def TELEM_STATUS_DRAIN_WORDS : Fld := ⟨0x31, 0x050, 12, 0⟩
/-- TELEM_STATUS, the whole word. -/
def TELEM_STATUS : Fld := ⟨0x31, 0x050, 31, 0⟩
def TELEM_SRC_FENCED_SRC : Fld := ⟨0x31, 0x054, 3, 0⟩
/-- TELEM_SRC_FENCED, the whole word. -/
def TELEM_SRC_FENCED : Fld := ⟨0x31, 0x054, 31, 0⟩
def TELEM_CNT_ITEMS_N : Fld := ⟨0x31, 0x060, 31, 0⟩
/-- TELEM_CNT_ITEMS, the whole word. -/
def TELEM_CNT_ITEMS : Fld := ⟨0x31, 0x060, 31, 0⟩
def TELEM_CNT_DROP_N : Fld := ⟨0x31, 0x064, 31, 0⟩
/-- TELEM_CNT_DROP, the whole word. -/
def TELEM_CNT_DROP : Fld := ⟨0x31, 0x064, 31, 0⟩
def TELEM_FLUSHDROP_N : Fld := ⟨0x31, 0x068, 31, 0⟩
/-- TELEM_FLUSHDROP, the whole word. -/
def TELEM_FLUSHDROP : Fld := ⟨0x31, 0x068, 31, 0⟩
def TELEM_CNT_UE_N : Fld := ⟨0x31, 0x06C, 31, 0⟩
/-- TELEM_CNT_UE, the whole word. -/
def TELEM_CNT_UE : Fld := ⟨0x31, 0x06C, 31, 0⟩
def TELEM_CNT_SWAP_N : Fld := ⟨0x31, 0x070, 31, 0⟩
/-- TELEM_CNT_SWAP, the whole word. -/
def TELEM_CNT_SWAP : Fld := ⟨0x31, 0x070, 31, 0⟩
def TELEM_CNT_CLR_CLR : Fld := ⟨0x31, 0x074, 0, 0⟩
/-- TELEM_CNT_CLR, the whole word. -/
def TELEM_CNT_CLR : Fld := ⟨0x31, 0x074, 31, 0⟩
def METER_AC_CFG_IEN : Fld := ⟨0x34, 0x040, 27, 24⟩
def METER_AC_CFG_VEN : Fld := ⟨0x34, 0x040, 22, 20⟩
def METER_AC_CFG_ROGO : Fld := ⟨0x34, 0x040, 19, 16⟩
def METER_AC_CFG_INT_LEAK : Fld := ⟨0x34, 0x040, 11, 8⟩
def METER_AC_CFG_HPF_SHIFT : Fld := ⟨0x34, 0x040, 7, 4⟩
/-- METER_AC_CFG, the whole word. -/
def METER_AC_CFG : Fld := ⟨0x34, 0x040, 31, 0⟩
def METER_AC_VFS_VFS_MV (v : Nat) : Fld := ⟨0x34, 0x044 + 0x4 * v, 31, 0⟩
/-- METER_AC_VFSv, the whole word. -/
def METER_AC_VFS (v : Nat) : Fld := ⟨0x34, 0x044 + 0x4 * v, 31, 0⟩
def METER_AC_VGAIN_VGAIN (v : Nat) : Fld := ⟨0x34, 0x050 + 0x4 * v, 23, 0⟩
/-- METER_AC_VGAINv, the whole word. -/
def METER_AC_VGAIN (v : Nat) : Fld := ⟨0x34, 0x050 + 0x4 * v, 31, 0⟩
def METER_AC_IFS_IFS_MA (c : Nat) : Fld := ⟨0x34, 0x060 + 0x4 * c, 31, 0⟩
/-- METER_AC_IFSc, the whole word. -/
def METER_AC_IFS (c : Nat) : Fld := ⟨0x34, 0x060 + 0x4 * c, 31, 0⟩
def METER_AC_BP_BP_ODD (c : Nat) (j : Nat) : Fld := ⟨0x34, 0x080 + 0x30 * c + 0x4 * j, 31, 16⟩
def METER_AC_BP_BP_EVEN (c : Nat) (j : Nat) : Fld := ⟨0x34, 0x080 + 0x30 * c + 0x4 * j, 15, 0⟩
/-- METER_AC_BPc_j, the whole word. -/
def METER_AC_BP (c : Nat) (j : Nat) : Fld := ⟨0x34, 0x080 + 0x30 * c + 0x4 * j, 31, 0⟩
def METER_AC_GC_GC_ODD (c : Nat) (j : Nat) : Fld := ⟨0x34, 0x090 + 0x30 * c + 0x4 * j, 31, 16⟩
def METER_AC_GC_GC_EVEN (c : Nat) (j : Nat) : Fld := ⟨0x34, 0x090 + 0x30 * c + 0x4 * j, 15, 0⟩
/-- METER_AC_GCc_j, the whole word. -/
def METER_AC_GC (c : Nat) (j : Nat) : Fld := ⟨0x34, 0x090 + 0x30 * c + 0x4 * j, 31, 0⟩
def METER_AC_PH_PH_ODD (c : Nat) (j : Nat) : Fld := ⟨0x34, 0x0A0 + 0x30 * c + 0x4 * j, 31, 16⟩
def METER_AC_PH_PH_EVEN (c : Nat) (j : Nat) : Fld := ⟨0x34, 0x0A0 + 0x30 * c + 0x4 * j, 15, 0⟩
/-- METER_AC_PHc_j, the whole word. -/
def METER_AC_PH (c : Nat) (j : Nat) : Fld := ⟨0x34, 0x0A0 + 0x30 * c + 0x4 * j, 31, 0⟩
def METER_AC_STATUS_CLIPPED : Fld := ⟨0x34, 0x180, 30, 24⟩
def METER_AC_STATUS_FENCED : Fld := ⟨0x34, 0x180, 22, 16⟩
def METER_AC_STATUS_SETTLING : Fld := ⟨0x34, 0x180, 14, 8⟩
def METER_AC_STATUS_VALID : Fld := ⟨0x34, 0x180, 6, 0⟩
/-- METER_AC_STATUS, the whole word. -/
def METER_AC_STATUS : Fld := ⟨0x34, 0x180, 31, 0⟩
def METER_AC_FREQ_MHZ : Fld := ⟨0x34, 0x184, 31, 0⟩
/-- METER_AC_FREQ, the whole word. -/
def METER_AC_FREQ : Fld := ⟨0x34, 0x184, 31, 0⟩
def METER_AC_VRMS_MV (v : Nat) : Fld := ⟨0x34, 0x188 + 0x4 * v, 31, 0⟩
/-- METER_AC_VRMSv, the whole word. -/
def METER_AC_VRMS (v : Nat) : Fld := ⟨0x34, 0x188 + 0x4 * v, 31, 0⟩
def METER_AC_IRMS_MA (c : Nat) : Fld := ⟨0x34, 0x194 + 0x4 * c, 31, 0⟩
/-- METER_AC_IRMSc, the whole word. -/
def METER_AC_IRMS (c : Nat) : Fld := ⟨0x34, 0x194 + 0x4 * c, 31, 0⟩
def METER_AC_P_MW (p : Nat) : Fld := ⟨0x34, 0x1A4 + 0x4 * p, 31, 0⟩
/-- METER_AC_Pp, the whole word. -/
def METER_AC_P (p : Nat) : Fld := ⟨0x34, 0x1A4 + 0x4 * p, 31, 0⟩
def METER_AC_S_MW (p : Nat) : Fld := ⟨0x34, 0x1B0 + 0x4 * p, 31, 0⟩
/-- METER_AC_Sp, the whole word. -/
def METER_AC_S (p : Nat) : Fld := ⟨0x34, 0x1B0 + 0x4 * p, 31, 0⟩
def METER_AC_PF_PF (p : Nat) : Fld := ⟨0x34, 0x1BC + 0x4 * p, 15, 0⟩
/-- METER_AC_PFp, the whole word. -/
def METER_AC_PF (p : Nat) : Fld := ⟨0x34, 0x1BC + 0x4 * p, 31, 0⟩
def METER_AC_CNT_CLIP_N : Fld := ⟨0x34, 0x1C8, 31, 0⟩
/-- METER_AC_CNT_CLIP, the whole word. -/
def METER_AC_CNT_CLIP : Fld := ⟨0x34, 0x1C8, 31, 0⟩
def METER_AC_CNT_WIN_N : Fld := ⟨0x34, 0x1CC, 31, 0⟩
/-- METER_AC_CNT_WIN, the whole word. -/
def METER_AC_CNT_WIN : Fld := ⟨0x34, 0x1CC, 31, 0⟩
def METER_AC_CNT_CLR_CLR : Fld := ⟨0x34, 0x1D0, 0, 0⟩
/-- METER_AC_CNT_CLR, the whole word. -/
def METER_AC_CNT_CLR : Fld := ⟨0x34, 0x1D0, 31, 0⟩
def METER_DC_CFG_EN : Fld := ⟨0x35, 0x040, 11, 0⟩
/-- METER_DC_CFG, the whole word. -/
def METER_DC_CFG : Fld := ⟨0x35, 0x040, 31, 0⟩
def METER_DC_IFS_IFS_MA (k : Nat) : Fld := ⟨0x35, 0x080 + 0x30 * k, 31, 0⟩
/-- METER_DC_IFSk, the whole word. -/
def METER_DC_IFS (k : Nat) : Fld := ⟨0x35, 0x080 + 0x30 * k, 31, 0⟩
def METER_DC_VGAIN_VGAIN (k : Nat) : Fld := ⟨0x35, 0x084 + 0x30 * k, 23, 0⟩
/-- METER_DC_VGAINk, the whole word. -/
def METER_DC_VGAIN (k : Nat) : Fld := ⟨0x35, 0x084 + 0x30 * k, 31, 0⟩
def METER_DC_OFF_OFFSET (k : Nat) : Fld := ⟨0x35, 0x088 + 0x30 * k, 17, 0⟩
/-- METER_DC_OFFk, the whole word. -/
def METER_DC_OFF (k : Nat) : Fld := ⟨0x35, 0x088 + 0x30 * k, 31, 0⟩
def METER_DC_BP_BP_ODD (k : Nat) (j : Nat) : Fld := ⟨0x35, 0x090 + 0x30 * k + 0x4 * j, 31, 16⟩
def METER_DC_BP_BP_EVEN (k : Nat) (j : Nat) : Fld := ⟨0x35, 0x090 + 0x30 * k + 0x4 * j, 15, 0⟩
/-- METER_DC_BPk_j, the whole word. -/
def METER_DC_BP (k : Nat) (j : Nat) : Fld := ⟨0x35, 0x090 + 0x30 * k + 0x4 * j, 31, 0⟩
def METER_DC_GC_GC_ODD (k : Nat) (j : Nat) : Fld := ⟨0x35, 0x0A0 + 0x30 * k + 0x4 * j, 31, 16⟩
def METER_DC_GC_GC_EVEN (k : Nat) (j : Nat) : Fld := ⟨0x35, 0x0A0 + 0x30 * k + 0x4 * j, 15, 0⟩
/-- METER_DC_GCk_j, the whole word. -/
def METER_DC_GC (k : Nat) (j : Nat) : Fld := ⟨0x35, 0x0A0 + 0x30 * k + 0x4 * j, 31, 0⟩
def METER_DC_STATUS_VALID : Fld := ⟨0x35, 0x300, 27, 16⟩
def METER_DC_STATUS_FENCED : Fld := ⟨0x35, 0x300, 11, 0⟩
/-- METER_DC_STATUS, the whole word. -/
def METER_DC_STATUS : Fld := ⟨0x35, 0x300, 31, 0⟩
def METER_DC_SETTLE_CLIPPED : Fld := ⟨0x35, 0x304, 27, 16⟩
def METER_DC_SETTLE_SETTLING : Fld := ⟨0x35, 0x304, 11, 0⟩
/-- METER_DC_SETTLE, the whole word. -/
def METER_DC_SETTLE : Fld := ⟨0x35, 0x304, 31, 0⟩
def METER_DC_I_MA (k : Nat) : Fld := ⟨0x35, 0x340 + 0x4 * k, 31, 0⟩
/-- METER_DC_Ik, the whole word. -/
def METER_DC_I (k : Nat) : Fld := ⟨0x35, 0x340 + 0x4 * k, 31, 0⟩
def METER_DC_V_MV (k : Nat) : Fld := ⟨0x35, 0x370 + 0x4 * k, 15, 0⟩
/-- METER_DC_Vk, the whole word. -/
def METER_DC_V (k : Nat) : Fld := ⟨0x35, 0x370 + 0x4 * k, 31, 0⟩
def METER_DC_P_MW (k : Nat) : Fld := ⟨0x35, 0x3A0 + 0x4 * k, 31, 0⟩
/-- METER_DC_Pk, the whole word. -/
def METER_DC_P (k : Nat) : Fld := ⟨0x35, 0x3A0 + 0x4 * k, 31, 0⟩
def METER_DC_SNAP_LO_E_LO (k : Nat) : Fld := ⟨0x35, 0x400 + 0x8 * k, 31, 0⟩
/-- METER_DC_SNAPk_LO, the whole word. -/
def METER_DC_SNAP_LO (k : Nat) : Fld := ⟨0x35, 0x400 + 0x8 * k, 31, 0⟩
def METER_DC_SNAP_HI_E_HI (k : Nat) : Fld := ⟨0x35, 0x404 + 0x8 * k, 31, 0⟩
/-- METER_DC_SNAPk_HI, the whole word. -/
def METER_DC_SNAP_HI (k : Nat) : Fld := ⟨0x35, 0x404 + 0x8 * k, 31, 0⟩
def METER_DC_SNAP_STAT_UNSAVED : Fld := ⟨0x35, 0x460, 27, 16⟩
def METER_DC_SNAP_STAT_INVALID : Fld := ⟨0x35, 0x460, 11, 0⟩
/-- METER_DC_SNAP_STAT, the whole word. -/
def METER_DC_SNAP_STAT : Fld := ⟨0x35, 0x460, 31, 0⟩
def METER_DC_CNT_CLIP_N : Fld := ⟨0x35, 0x464, 31, 0⟩
/-- METER_DC_CNT_CLIP, the whole word. -/
def METER_DC_CNT_CLIP : Fld := ⟨0x35, 0x464, 31, 0⟩
def METER_DC_CNT_WIN_N : Fld := ⟨0x35, 0x468, 31, 0⟩
/-- METER_DC_CNT_WIN, the whole word. -/
def METER_DC_CNT_WIN : Fld := ⟨0x35, 0x468, 31, 0⟩
def METER_DC_CNT_CLR_CLR : Fld := ⟨0x35, 0x46C, 0, 0⟩
/-- METER_DC_CNT_CLR, the whole word. -/
def METER_DC_CNT_CLR : Fld := ⟨0x35, 0x46C, 31, 0⟩
def METER_ACC_CFG_SAVE_PERIOD : Fld := ⟨0x36, 0x040, 5, 0⟩
/-- METER_ACC_CFG, the whole word. -/
def METER_ACC_CFG : Fld := ⟨0x36, 0x040, 31, 0⟩
def METER_ACC_STATUS_UNSAVED : Fld := ⟨0x36, 0x080, 31, 31⟩
def METER_ACC_STATUS_INVALID : Fld := ⟨0x36, 0x080, 30, 30⟩
def METER_ACC_STATUS_SAVE_FAIL : Fld := ⟨0x36, 0x080, 29, 29⟩
def METER_ACC_STATUS_NO_HISTORY : Fld := ⟨0x36, 0x080, 28, 28⟩
def METER_ACC_STATUS_TAIL : Fld := ⟨0x36, 0x080, 27, 27⟩
def METER_ACC_STATUS_CFG_SRC : Fld := ⟨0x36, 0x080, 25, 24⟩
def METER_ACC_STATUS_RESTART_REASON : Fld := ⟨0x36, 0x080, 23, 16⟩
def METER_ACC_STATUS_SAVING : Fld := ⟨0x36, 0x080, 0, 0⟩
/-- METER_ACC_STATUS, the whole word. -/
def METER_ACC_STATUS : Fld := ⟨0x36, 0x080, 31, 0⟩
def METER_ACC_SAVE_SEQ_SEQ : Fld := ⟨0x36, 0x084, 31, 0⟩
/-- METER_ACC_SAVE_SEQ, the whole word. -/
def METER_ACC_SAVE_SEQ : Fld := ⟨0x36, 0x084, 31, 0⟩
def METER_ACC_CNT_SAVE_N : Fld := ⟨0x36, 0x088, 31, 0⟩
/-- METER_ACC_CNT_SAVE, the whole word. -/
def METER_ACC_CNT_SAVE : Fld := ⟨0x36, 0x088, 31, 0⟩
def METER_ACC_CNT_SAVE_FAIL_N : Fld := ⟨0x36, 0x08C, 31, 0⟩
/-- METER_ACC_CNT_SAVE_FAIL, the whole word. -/
def METER_ACC_CNT_SAVE_FAIL : Fld := ⟨0x36, 0x08C, 31, 0⟩
def METER_ACC_CNT_CLR_CLR : Fld := ⟨0x36, 0x090, 0, 0⟩
/-- METER_ACC_CNT_CLR, the whole word. -/
def METER_ACC_CNT_CLR : Fld := ⟨0x36, 0x090, 31, 0⟩
def METER_ACC_DISP_CLR_CLR : Fld := ⟨0x36, 0x094, 0, 0⟩
/-- METER_ACC_DISP_CLR, the whole word. -/
def METER_ACC_DISP_CLR : Fld := ⟨0x36, 0x094, 31, 0⟩
def METER_ACC_STMT_CTRL_DONE : Fld := ⟨0x36, 0x098, 1, 1⟩
def METER_ACC_STMT_CTRL_REQ : Fld := ⟨0x36, 0x098, 0, 0⟩
/-- METER_ACC_STMT_CTRL, the whole word. -/
def METER_ACC_STMT_CTRL : Fld := ⟨0x36, 0x098, 31, 0⟩
def METER_ACC_STMT_SEQ_SEQ : Fld := ⟨0x36, 0x09C, 31, 0⟩
/-- METER_ACC_STMT_SEQ, the whole word. -/
def METER_ACC_STMT_SEQ : Fld := ⟨0x36, 0x09C, 31, 0⟩
def METER_ACC_A_LO_E_LO (a : Nat) : Fld := ⟨0x36, 0x100 + 0x10 * a, 31, 0⟩
/-- METER_ACC_a_LO, the whole word. -/
def METER_ACC_A_LO (a : Nat) : Fld := ⟨0x36, 0x100 + 0x10 * a, 31, 0⟩
def METER_ACC_A_HI_E_HI (a : Nat) : Fld := ⟨0x36, 0x104 + 0x10 * a, 31, 0⟩
/-- METER_ACC_a_HI, the whole word. -/
def METER_ACC_A_HI (a : Nat) : Fld := ⟨0x36, 0x104 + 0x10 * a, 31, 0⟩
def METER_ACC_A_VIEW_MWH (a : Nat) : Fld := ⟨0x36, 0x108 + 0x10 * a, 31, 0⟩
/-- METER_ACC_a_VIEW, the whole word. -/
def METER_ACC_A_VIEW (a : Nat) : Fld := ⟨0x36, 0x108 + 0x10 * a, 31, 0⟩
def METER_ACC_A_WRAP_WRAP (a : Nat) : Fld := ⟨0x36, 0x10C + 0x10 * a, 15, 0⟩
/-- METER_ACC_a_WRAP, the whole word. -/
def METER_ACC_A_WRAP (a : Nat) : Fld := ⟨0x36, 0x10C + 0x10 * a, 31, 0⟩
def METER_ACC_A_DISP_MWH (a : Nat) : Fld := ⟨0x36, 0x340 + 0x4 * a, 31, 0⟩
/-- METER_ACC_a_DISP, the whole word. -/
def METER_ACC_A_DISP (a : Nat) : Fld := ⟨0x36, 0x340 + 0x4 * a, 31, 0⟩
def METER_ACC_STMT_BYTES (w : Nat) : Fld := ⟨0x36, 0x400 + 0x4 * w, 31, 0⟩
/-- METER_ACC_STMTw, the whole word. -/
def METER_ACC_STMT (w : Nat) : Fld := ⟨0x36, 0x400 + 0x4 * w, 31, 0⟩
def BELAY_CFG_YIELD_EN : Fld := ⟨0x38, 0x040, 23, 16⟩
def BELAY_CFG_CRC_CMP : Fld := ⟨0x38, 0x040, 0, 0⟩
/-- BELAY_CFG, the whole word. -/
def BELAY_CFG : Fld := ⟨0x38, 0x040, 31, 0⟩
def BELAY_STATUS_PARTNER_TRIG : Fld := ⟨0x38, 0x044, 31, 24⟩
def BELAY_STATUS_TRIGGERS : Fld := ⟨0x38, 0x044, 23, 16⟩
def BELAY_STATUS_OFFSET_ALARM : Fld := ⟨0x38, 0x044, 9, 9⟩
def BELAY_STATUS_RESYNC_BUSY : Fld := ⟨0x38, 0x044, 8, 8⟩
def BELAY_STATUS_SCREE_SYNCED : Fld := ⟨0x38, 0x044, 7, 7⟩
def BELAY_STATUS_SYNCED : Fld := ⟨0x38, 0x044, 6, 6⟩
def BELAY_STATUS_PARTNER_ELIGIBLE : Fld := ⟨0x38, 0x044, 5, 5⟩
def BELAY_STATUS_ELIGIBLE : Fld := ⟨0x38, 0x044, 4, 4⟩
def BELAY_STATUS_PARTNER_SEEN : Fld := ⟨0x38, 0x044, 3, 3⟩
def BELAY_STATUS_LEAD_N : Fld := ⟨0x38, 0x044, 2, 2⟩
def BELAY_STATUS_LEAD : Fld := ⟨0x38, 0x044, 1, 1⟩
def BELAY_STATUS_LINK_UP : Fld := ⟨0x38, 0x044, 0, 0⟩
/-- BELAY_STATUS, the whole word. -/
def BELAY_STATUS : Fld := ⟨0x38, 0x044, 31, 0⟩
def BELAY_OFFSET_NS : Fld := ⟨0x38, 0x048, 31, 0⟩
/-- BELAY_OFFSET, the whole word. -/
def BELAY_OFFSET : Fld := ⟨0x38, 0x048, 31, 0⟩
def BELAY_PARTNER_VALID : Fld := ⟨0x38, 0x04C, 31, 31⟩
def BELAY_PARTNER_ID : Fld := ⟨0x38, 0x04C, 9, 0⟩
/-- BELAY_PARTNER, the whole word. -/
def BELAY_PARTNER : Fld := ⟨0x38, 0x04C, 31, 0⟩
def BELAY_CHANGE_LO_N_LO : Fld := ⟨0x38, 0x050, 31, 0⟩
/-- BELAY_CHANGE_LO, the whole word. -/
def BELAY_CHANGE_LO : Fld := ⟨0x38, 0x050, 31, 0⟩
def BELAY_CHANGE_HI_N_HI : Fld := ⟨0x38, 0x054, 15, 0⟩
/-- BELAY_CHANGE_HI, the whole word. -/
def BELAY_CHANGE_HI : Fld := ⟨0x38, 0x054, 31, 0⟩
def BELAY_CHANGE_INFO_TO_LEAD : Fld := ⟨0x38, 0x058, 8, 8⟩
def BELAY_CHANGE_INFO_CAUSE : Fld := ⟨0x38, 0x058, 7, 0⟩
/-- BELAY_CHANGE_INFO, the whole word. -/
def BELAY_CHANGE_INFO : Fld := ⟨0x38, 0x058, 31, 0⟩
def BELAY_RESYNC_KIB_KIB : Fld := ⟨0x38, 0x05C, 31, 0⟩
/-- BELAY_RESYNC_KIB, the whole word. -/
def BELAY_RESYNC_KIB : Fld := ⟨0x38, 0x05C, 31, 0⟩
def BELAY_RESYNC_MS_MS : Fld := ⟨0x38, 0x060, 31, 0⟩
/-- BELAY_RESYNC_MS, the whole word. -/
def BELAY_RESYNC_MS : Fld := ⟨0x38, 0x060, 31, 0⟩
def BELAY_CNT_HANDOVER_N : Fld := ⟨0x38, 0x064, 31, 0⟩
/-- BELAY_CNT_HANDOVER, the whole word. -/
def BELAY_CNT_HANDOVER : Fld := ⟨0x38, 0x064, 31, 0⟩
def BELAY_CNT_HO_ABORT_N : Fld := ⟨0x38, 0x068, 31, 0⟩
/-- BELAY_CNT_HO_ABORT, the whole word. -/
def BELAY_CNT_HO_ABORT : Fld := ⟨0x38, 0x068, 31, 0⟩
def BELAY_CNT_CRC_OK_N : Fld := ⟨0x38, 0x06C, 31, 0⟩
/-- BELAY_CNT_CRC_OK, the whole word. -/
def BELAY_CNT_CRC_OK : Fld := ⟨0x38, 0x06C, 31, 0⟩
def BELAY_CNT_CRC_MISMATCH_N : Fld := ⟨0x38, 0x070, 31, 0⟩
/-- BELAY_CNT_CRC_MISMATCH, the whole word. -/
def BELAY_CNT_CRC_MISMATCH : Fld := ⟨0x38, 0x070, 31, 0⟩
def BELAY_CNT_CRC_SKIP_N : Fld := ⟨0x38, 0x074, 31, 0⟩
/-- BELAY_CNT_CRC_SKIP, the whole word. -/
def BELAY_CNT_CRC_SKIP : Fld := ⟨0x38, 0x074, 31, 0⟩
def BELAY_CNT_LINK_ERR_N : Fld := ⟨0x38, 0x078, 31, 0⟩
/-- BELAY_CNT_LINK_ERR, the whole word. -/
def BELAY_CNT_LINK_ERR : Fld := ⟨0x38, 0x078, 31, 0⟩
def BELAY_CNT_LINK_DOWN_N : Fld := ⟨0x38, 0x07C, 31, 0⟩
/-- BELAY_CNT_LINK_DOWN, the whole word. -/
def BELAY_CNT_LINK_DOWN : Fld := ⟨0x38, 0x07C, 31, 0⟩
def BELAY_CNT_RESYNC_N : Fld := ⟨0x38, 0x080, 31, 0⟩
/-- BELAY_CNT_RESYNC, the whole word. -/
def BELAY_CNT_RESYNC : Fld := ⟨0x38, 0x080, 31, 0⟩
def BELAY_CNT_CLR_CLR : Fld := ⟨0x38, 0x084, 0, 0⟩
/-- BELAY_CNT_CLR, the whole word. -/
def BELAY_CNT_CLR : Fld := ⟨0x38, 0x084, 31, 0⟩
def BELAY_CRC_LAST_LO_N_LO : Fld := ⟨0x38, 0x088, 31, 0⟩
/-- BELAY_CRC_LAST_LO, the whole word. -/
def BELAY_CRC_LAST_LO : Fld := ⟨0x38, 0x088, 31, 0⟩
def BELAY_CRC_LAST_HI_GROUPS : Fld := ⟨0x38, 0x08C, 19, 16⟩
def BELAY_CRC_LAST_HI_N_HI : Fld := ⟨0x38, 0x08C, 15, 0⟩
/-- BELAY_CRC_LAST_HI, the whole word. -/
def BELAY_CRC_LAST_HI : Fld := ⟨0x38, 0x08C, 31, 0⟩
def PARTY_PID_PID : Fld := ⟨0x39, 0x080, 15, 0⟩
/-- PARTY_PID, the whole word. -/
def PARTY_PID : Fld := ⟨0x39, 0x080, 31, 0⟩
def PARTY_CAND_STANDBY_ID : Fld := ⟨0x39, 0x084, 31, 16⟩
def PARTY_CAND_SUMMIT_ID : Fld := ⟨0x39, 0x084, 15, 0⟩
/-- PARTY_CAND, the whole word. -/
def PARTY_CAND : Fld := ⟨0x39, 0x084, 31, 0⟩
def PARTY_NET_UDP : Fld := ⟨0x39, 0x088, 31, 16⟩
def PARTY_NET_LEASE_S : Fld := ⟨0x39, 0x088, 15, 8⟩
def PARTY_NET_TTL : Fld := ⟨0x39, 0x088, 7, 0⟩
/-- PARTY_NET, the whole word. -/
def PARTY_NET : Fld := ⟨0x39, 0x088, 31, 0⟩
def PARTY_GRP_A_ADDR : Fld := ⟨0x39, 0x08C, 31, 0⟩
/-- PARTY_GRP_A, the whole word. -/
def PARTY_GRP_A : Fld := ⟨0x39, 0x08C, 31, 0⟩
def PARTY_GRP_B_ADDR : Fld := ⟨0x39, 0x090, 31, 0⟩
/-- PARTY_GRP_B, the whole word. -/
def PARTY_GRP_B : Fld := ⟨0x39, 0x090, 31, 0⟩
def PARTY_HGRP_A_ADDR : Fld := ⟨0x39, 0x094, 31, 0⟩
/-- PARTY_HGRP_A, the whole word. -/
def PARTY_HGRP_A : Fld := ⟨0x39, 0x094, 31, 0⟩
def PARTY_HGRP_B_ADDR : Fld := ⟨0x39, 0x098, 31, 0⟩
/-- PARTY_HGRP_B, the whole word. -/
def PARTY_HGRP_B : Fld := ⟨0x39, 0x098, 31, 0⟩
def PARTY_SELF_VALID : Fld := ⟨0x39, 0x09C, 31, 31⟩
def PARTY_SELF_SEGMENT : Fld := ⟨0x39, 0x09C, 24, 16⟩
def PARTY_SELF_POSITION : Fld := ⟨0x39, 0x09C, 10, 10⟩
def PARTY_SELF_MODULE_ID : Fld := ⟨0x39, 0x09C, 9, 0⟩
/-- PARTY_SELF, the whole word. -/
def PARTY_SELF : Fld := ⟨0x39, 0x09C, 31, 0⟩
def PARTY_MEMBERS_COUNT : Fld := ⟨0x39, 0x0A0, 10, 0⟩
/-- PARTY_MEMBERS, the whole word. -/
def PARTY_MEMBERS : Fld := ⟨0x39, 0x0A0, 31, 0⟩
def PARTY_ROLE_CURRENT : Fld := ⟨0x39, 0x0A4, 26, 16⟩
def PARTY_ROLE_LISTEN : Fld := ⟨0x39, 0x0A4, 15, 8⟩
def PARTY_ROLE_ROLE : Fld := ⟨0x39, 0x0A4, 1, 0⟩
/-- PARTY_ROLE, the whole word. -/
def PARTY_ROLE : Fld := ⟨0x39, 0x0A4, 31, 0⟩
def PARTY_CNT_TAKEOVER_N : Fld := ⟨0x39, 0x0B0, 31, 0⟩
/-- PARTY_CNT_TAKEOVER, the whole word. -/
def PARTY_CNT_TAKEOVER : Fld := ⟨0x39, 0x0B0, 31, 0⟩
def PARTY_CNT_CONFLICT_N : Fld := ⟨0x39, 0x0B4, 31, 0⟩
/-- PARTY_CNT_CONFLICT, the whole word. -/
def PARTY_CNT_CONFLICT : Fld := ⟨0x39, 0x0B4, 31, 0⟩
def PARTY_CNT_STANDDOWN_N : Fld := ⟨0x39, 0x0B8, 31, 0⟩
/-- PARTY_CNT_STANDDOWN, the whole word. -/
def PARTY_CNT_STANDDOWN : Fld := ⟨0x39, 0x0B8, 31, 0⟩
def PARTY_ROLE_CNT_CLR_CLR : Fld := ⟨0x39, 0x0BC, 0, 0⟩
/-- PARTY_ROLE_CNT_CLR, the whole word. -/
def PARTY_ROLE_CNT_CLR : Fld := ⟨0x39, 0x0BC, 31, 0⟩
def SYS_MEM_CE_N : Fld := ⟨0x00, 0x0C0, 31, 0⟩
/-- SYS_MEM_CE, the whole word. -/
def SYS_MEM_CE : Fld := ⟨0x00, 0x0C0, 31, 0⟩
def SYS_MEM_UE_N : Fld := ⟨0x00, 0x0C4, 31, 0⟩
/-- SYS_MEM_UE, the whole word. -/
def SYS_MEM_UE : Fld := ⟨0x00, 0x0C4, 31, 0⟩
def SYS_MEM_UE_ADDR_ADDR : Fld := ⟨0x00, 0x0C8, 31, 0⟩
/-- SYS_MEM_UE_ADDR, the whole word. -/
def SYS_MEM_UE_ADDR : Fld := ⟨0x00, 0x0C8, 31, 0⟩
def SYS_MEM_UE_INFO_VALID : Fld := ⟨0x00, 0x0CC, 31, 31⟩
def SYS_MEM_UE_INFO_HART : Fld := ⟨0x00, 0x0CC, 18, 16⟩
def SYS_MEM_UE_INFO_SOURCE : Fld := ⟨0x00, 0x0CC, 11, 8⟩
def SYS_MEM_UE_INFO_FETCH : Fld := ⟨0x00, 0x0CC, 0, 0⟩
/-- SYS_MEM_UE_INFO, the whole word. -/
def SYS_MEM_UE_INFO : Fld := ⟨0x00, 0x0CC, 31, 0⟩
def SYS_MEM_CNT_CLR_CLR : Fld := ⟨0x00, 0x0D0, 0, 0⟩
/-- SYS_MEM_CNT_CLR, the whole word. -/
def SYS_MEM_CNT_CLR : Fld := ⟨0x00, 0x0D0, 31, 0⟩
def SCHED_STATUS_FREE : Fld := ⟨0x08, 0x040, 28, 16⟩
def SCHED_STATUS_ITEMS : Fld := ⟨0x08, 0x040, 12, 0⟩
/-- SCHED_STATUS, the whole word. -/
def SCHED_STATUS : Fld := ⟨0x08, 0x040, 31, 0⟩
def SCHED_URGENT_FLAG : Fld := ⟨0x08, 0x044, 31, 31⟩
def SCHED_URGENT_QUEUE : Fld := ⟨0x08, 0x044, 5, 0⟩
/-- SCHED_URGENT, the whole word. -/
def SCHED_URGENT : Fld := ⟨0x08, 0x044, 31, 0⟩
def SCHED_CNT_URGENT_N : Fld := ⟨0x08, 0x048, 31, 0⟩
/-- SCHED_CNT_URGENT, the whole word. -/
def SCHED_CNT_URGENT : Fld := ⟨0x08, 0x048, 31, 0⟩
def SCHED_CNT_REFUSED_N : Fld := ⟨0x08, 0x04C, 31, 0⟩
/-- SCHED_CNT_REFUSED, the whole word. -/
def SCHED_CNT_REFUSED : Fld := ⟨0x08, 0x04C, 31, 0⟩
def SCHED_CNT_UE_N : Fld := ⟨0x08, 0x050, 31, 0⟩
/-- SCHED_CNT_UE, the whole word. -/
def SCHED_CNT_UE : Fld := ⟨0x08, 0x050, 31, 0⟩
def SCHED_CNT_FLUSHED_N : Fld := ⟨0x08, 0x054, 31, 0⟩
/-- SCHED_CNT_FLUSHED, the whole word. -/
def SCHED_CNT_FLUSHED : Fld := ⟨0x08, 0x054, 31, 0⟩
def SCHED_CNT_CLR_CLR : Fld := ⟨0x08, 0x058, 0, 0⟩
/-- SCHED_CNT_CLR, the whole word. -/
def SCHED_CNT_CLR : Fld := ⟨0x08, 0x058, 31, 0⟩
def SCHED_QFLUSH_GO : Fld := ⟨0x08, 0x05C, 31, 31⟩
def SCHED_QFLUSH_QUEUE : Fld := ⟨0x08, 0x05C, 5, 0⟩
/-- SCHED_QFLUSH, the whole word. -/
def SCHED_QFLUSH : Fld := ⟨0x08, 0x05C, 31, 0⟩
def SCHED_CKPT_SAVE : Fld := ⟨0x08, 0x060, 31, 31⟩
def SCHED_CKPT_RESTORE : Fld := ⟨0x08, 0x060, 30, 30⟩
def SCHED_CKPT_RESULT : Fld := ⟨0x08, 0x060, 1, 0⟩
/-- SCHED_CKPT, the whole word. -/
def SCHED_CKPT : Fld := ⟨0x08, 0x060, 31, 0⟩
def SCHED_PUSH_W_WORD (n : Nat) : Fld := ⟨0x08, 0x100 + 0x4 * n, 31, 0⟩
/-- SCHED_PUSH_Wn, the whole word. -/
def SCHED_PUSH_W (n : Nat) : Fld := ⟨0x08, 0x100 + 0x4 * n, 31, 0⟩
def SCHED_PUSH_STAT_VALID : Fld := ⟨0x08, 0x120, 31, 31⟩
def SCHED_PUSH_STAT_RESULT : Fld := ⟨0x08, 0x120, 1, 0⟩
/-- SCHED_PUSH_STAT, the whole word. -/
def SCHED_PUSH_STAT : Fld := ⟨0x08, 0x120, 31, 0⟩
def SCHED_TAKE_HANDLER : Fld := ⟨0x08, 0x140, 31, 0⟩
/-- SCHED_TAKE, the whole word. -/
def SCHED_TAKE : Fld := ⟨0x08, 0x140, 31, 0⟩
def SCHED_CUR_W_WORD (n : Nat) : Fld := ⟨0x08, 0x140 + 0x4 * n, 31, 0⟩
/-- SCHED_CUR_Wn, the whole word. -/
def SCHED_CUR_W (n : Nat) : Fld := ⟨0x08, 0x140 + 0x4 * n, 31, 0⟩
def SCHED_CORE_CFG_SLOTS (h : Nat) : Fld := ⟨0x08, 0x180 + 0x10 * h, 1, 0⟩
/-- SCHED_COREh_CFG, the whole word. -/
def SCHED_CORE_CFG (h : Nat) : Fld := ⟨0x08, 0x180 + 0x10 * h, 31, 0⟩
def SCHED_CORE_QM_LO_QM (h : Nat) : Fld := ⟨0x08, 0x184 + 0x10 * h, 31, 0⟩
/-- SCHED_COREh_QM_LO, the whole word. -/
def SCHED_CORE_QM_LO (h : Nat) : Fld := ⟨0x08, 0x184 + 0x10 * h, 31, 0⟩
def SCHED_CORE_QM_HI_QM (h : Nat) : Fld := ⟨0x08, 0x188 + 0x10 * h, 31, 0⟩
/-- SCHED_COREh_QM_HI, the whole word. -/
def SCHED_CORE_QM_HI (h : Nat) : Fld := ⟨0x08, 0x188 + 0x10 * h, 31, 0⟩
def SCHED_Q_CFG_EN (q : Nat) : Fld := ⟨0x08, 0x200 + 0x8 * q, 31, 31⟩
def SCHED_Q_CFG_CAP (q : Nat) : Fld := ⟨0x08, 0x200 + 0x8 * q, 12, 0⟩
/-- SCHED_Qq_CFG, the whole word. -/
def SCHED_Q_CFG (q : Nat) : Fld := ⟨0x08, 0x200 + 0x8 * q, 31, 0⟩
def SCHED_Q_TIME_URGENT_US (q : Nat) : Fld := ⟨0x08, 0x204 + 0x8 * q, 31, 16⟩
def SCHED_Q_TIME_AGE_STEP_US (q : Nat) : Fld := ⟨0x08, 0x204 + 0x8 * q, 15, 0⟩
/-- SCHED_Qq_TIME, the whole word. -/
def SCHED_Q_TIME (q : Nat) : Fld := ⟨0x08, 0x204 + 0x8 * q, 31, 0⟩
def SCHED_Q_DEPTH_MAX (q : Nat) : Fld := ⟨0x08, 0x400 + 0x4 * q, 28, 16⟩
def SCHED_Q_DEPTH_DEPTH (q : Nat) : Fld := ⟨0x08, 0x400 + 0x4 * q, 12, 0⟩
/-- SCHED_Qq_DEPTH, the whole word. -/
def SCHED_Q_DEPTH (q : Nat) : Fld := ⟨0x08, 0x400 + 0x4 * q, 31, 0⟩
def SCHED_CORE_BUSY_N (h : Nat) : Fld := ⟨0x08, 0x500 + 0x10 * h, 31, 0⟩
/-- SCHED_COREh_BUSY, the whole word. -/
def SCHED_CORE_BUSY (h : Nat) : Fld := ⟨0x08, 0x500 + 0x10 * h, 31, 0⟩
def SCHED_CORE_IDLE_N (h : Nat) : Fld := ⟨0x08, 0x504 + 0x10 * h, 31, 0⟩
/-- SCHED_COREh_IDLE, the whole word. -/
def SCHED_CORE_IDLE (h : Nat) : Fld := ⟨0x08, 0x504 + 0x10 * h, 31, 0⟩
def SCHED_CORE_ITEMS_N (h : Nat) : Fld := ⟨0x08, 0x508 + 0x10 * h, 31, 0⟩
/-- SCHED_COREh_ITEMS, the whole word. -/
def SCHED_CORE_ITEMS (h : Nat) : Fld := ⟨0x08, 0x508 + 0x10 * h, 31, 0⟩
def SCHED_CORE_SLOT_USED (h : Nat) : Fld := ⟨0x08, 0x50C + 0x10 * h, 1, 0⟩
/-- SCHED_COREh_SLOT, the whole word. -/
def SCHED_CORE_SLOT (h : Nat) : Fld := ⟨0x08, 0x50C + 0x10 * h, 31, 0⟩
def SCHED_HIST_SEL_QUEUE : Fld := ⟨0x08, 0x580, 5, 0⟩
/-- SCHED_HIST_SEL, the whole word. -/
def SCHED_HIST_SEL : Fld := ⟨0x08, 0x580, 31, 0⟩
def SCHED_HIST__N (b : Nat) : Fld := ⟨0x08, 0x5C0 + 0x4 * b, 31, 0⟩
/-- SCHED_HIST_b, the whole word. -/
def SCHED_HIST_ (b : Nat) : Fld := ⟨0x08, 0x5C0 + 0x4 * b, 31, 0⟩
def SCHED_TRACE_CTRL_RUN : Fld := ⟨0x08, 0x600, 31, 31⟩
def SCHED_TRACE_CTRL_WRAP : Fld := ⟨0x08, 0x600, 30, 30⟩
def SCHED_TRACE_CTRL_CLR : Fld := ⟨0x08, 0x600, 0, 0⟩
/-- SCHED_TRACE_CTRL, the whole word. -/
def SCHED_TRACE_CTRL : Fld := ⟨0x08, 0x600, 31, 0⟩
def SCHED_TRACE_WATCH_EN (w : Nat) : Fld := ⟨0x08, 0x604, 7 + 8 * w, 7 + 8 * w⟩
def SCHED_TRACE_WATCH_QUEUE (w : Nat) : Fld := ⟨0x08, 0x604, 5 + 8 * w, 0 + 8 * w⟩
/-- SCHED_TRACE_WATCH, the whole word. -/
def SCHED_TRACE_WATCH : Fld := ⟨0x08, 0x604, 31, 0⟩
def SCHED_TRACE_STAT_ENTRIES : Fld := ⟨0x08, 0x608, 26, 16⟩
def SCHED_TRACE_STAT_LOST : Fld := ⟨0x08, 0x608, 15, 0⟩
/-- SCHED_TRACE_STAT, the whole word. -/
def SCHED_TRACE_STAT : Fld := ⟨0x08, 0x608, 31, 0⟩
def SCHED_TRACE_LO_E_LO : Fld := ⟨0x08, 0x60C, 31, 0⟩
/-- SCHED_TRACE_LO, the whole word. -/
def SCHED_TRACE_LO : Fld := ⟨0x08, 0x60C, 31, 0⟩
def SCHED_TRACE_HI_E_HI : Fld := ⟨0x08, 0x610, 31, 0⟩
/-- SCHED_TRACE_HI, the whole word. -/
def SCHED_TRACE_HI : Fld := ⟨0x08, 0x610, 31, 0⟩
def IRQ_POST_BASE_ADDR : Fld := ⟨0x09, 0x040, 31, 0⟩
/-- IRQ_POST_BASE, the whole word. -/
def IRQ_POST_BASE : Fld := ⟨0x09, 0x040, 31, 0⟩
def IRQ_CNT_POST_N : Fld := ⟨0x09, 0x044, 31, 0⟩
/-- IRQ_CNT_POST, the whole word. -/
def IRQ_CNT_POST : Fld := ⟨0x09, 0x044, 31, 0⟩
def IRQ_CNT_POST_DEFER_N : Fld := ⟨0x09, 0x048, 31, 0⟩
/-- IRQ_CNT_POST_DEFER, the whole word. -/
def IRQ_CNT_POST_DEFER : Fld := ⟨0x09, 0x048, 31, 0⟩
def IRQ_CNT_POST_UE_N : Fld := ⟨0x09, 0x04C, 31, 0⟩
/-- IRQ_CNT_POST_UE, the whole word. -/
def IRQ_CNT_POST_UE : Fld := ⟨0x09, 0x04C, 31, 0⟩
def IRQ_CNT_CLR_CLR : Fld := ⟨0x09, 0x050, 0, 0⟩
/-- IRQ_CNT_CLR, the whole word. -/
def IRQ_CNT_CLR : Fld := ⟨0x09, 0x050, 31, 0⟩
def IRQ_MTIME_LO_T_LO : Fld := ⟨0x09, 0x060, 31, 0⟩
/-- IRQ_MTIME_LO, the whole word. -/
def IRQ_MTIME_LO : Fld := ⟨0x09, 0x060, 31, 0⟩
def IRQ_MTIME_HI_T_HI : Fld := ⟨0x09, 0x064, 31, 0⟩
/-- IRQ_MTIME_HI, the whole word. -/
def IRQ_MTIME_HI : Fld := ⟨0x09, 0x064, 31, 0⟩
def IRQ_MTIMECMP_LO_C_LO (h : Nat) : Fld := ⟨0x09, 0x080 + 0x8 * h, 31, 0⟩
/-- IRQ_MTIMECMPh_LO, the whole word. -/
def IRQ_MTIMECMP_LO (h : Nat) : Fld := ⟨0x09, 0x080 + 0x8 * h, 31, 0⟩
def IRQ_MTIMECMP_HI_C_HI (h : Nat) : Fld := ⟨0x09, 0x084 + 0x8 * h, 31, 0⟩
/-- IRQ_MTIMECMPh_HI, the whole word. -/
def IRQ_MTIMECMP_HI (h : Nat) : Fld := ⟨0x09, 0x084 + 0x8 * h, 31, 0⟩
def IRQ_MSIP_MSIP : Fld := ⟨0x09, 0x0C0, 7, 0⟩
/-- IRQ_MSIP, the whole word. -/
def IRQ_MSIP : Fld := ⟨0x09, 0x0C0, 31, 0⟩
def IRQ_CLAIM_LINE : Fld := ⟨0x09, 0x100, 31, 0⟩
/-- IRQ_CLAIM, the whole word. -/
def IRQ_CLAIM : Fld := ⟨0x09, 0x100, 31, 0⟩
def IRQ_COMPLETE_LINE : Fld := ⟨0x09, 0x104, 8, 0⟩
/-- IRQ_COMPLETE, the whole word. -/
def IRQ_COMPLETE : Fld := ⟨0x09, 0x104, 31, 0⟩
def IRQ_THRESH_TH : Fld := ⟨0x09, 0x108, 3, 0⟩
/-- IRQ_THRESH, the whole word. -/
def IRQ_THRESH : Fld := ⟨0x09, 0x108, 31, 0⟩
def IRQ_PEND_HIGH (w : Nat) : Fld := ⟨0x09, 0x200 + 0x4 * w, 31, 0⟩
/-- IRQ_PENDw, the whole word. -/
def IRQ_PEND (w : Nat) : Fld := ⟨0x09, 0x200 + 0x4 * w, 31, 0⟩
def IRQ_ROUTE_POST (L : Nat) : Fld := ⟨0x09, 0x400 + 0x4 * L, 31, 31⟩
def IRQ_ROUTE_HARTS (L : Nat) : Fld := ⟨0x09, 0x400 + 0x4 * L, 23, 16⟩
def IRQ_ROUTE_PRIO (L : Nat) : Fld := ⟨0x09, 0x400 + 0x4 * L, 10, 8⟩
/-- IRQ_ROUTEL, the whole word. -/
def IRQ_ROUTE (L : Nat) : Fld := ⟨0x09, 0x400 + 0x4 * L, 31, 0⟩
def WDT_SYS_CFG_EN : Fld := ⟨0x0A, 0x040, 31, 31⟩
def WDT_SYS_CFG_TIMEOUT_MS : Fld := ⟨0x0A, 0x040, 15, 0⟩
/-- WDT_SYS_CFG, the whole word. -/
def WDT_SYS_CFG : Fld := ⟨0x0A, 0x040, 31, 0⟩
def WDT_SYS_KICK_KEY : Fld := ⟨0x0A, 0x044, 31, 0⟩
/-- WDT_SYS_KICK, the whole word. -/
def WDT_SYS_KICK : Fld := ⟨0x0A, 0x044, 31, 0⟩
def WDT_SYS_STAT_WARNED : Fld := ⟨0x0A, 0x048, 16, 16⟩
def WDT_SYS_STAT_REMAIN_MS : Fld := ⟨0x0A, 0x048, 15, 0⟩
/-- WDT_SYS_STAT, the whole word. -/
def WDT_SYS_STAT : Fld := ⟨0x0A, 0x048, 31, 0⟩
def WDT_CORE_CFG_EN : Fld := ⟨0x0A, 0x050, 23, 16⟩
def WDT_CORE_CFG_ACTION : Fld := ⟨0x0A, 0x050, 8, 8⟩
/-- WDT_CORE_CFG, the whole word. -/
def WDT_CORE_CFG : Fld := ⟨0x0A, 0x050, 31, 0⟩
def WDT_CORE_TIMEOUT_MS : Fld := ⟨0x0A, 0x054, 15, 0⟩
/-- WDT_CORE_TIMEOUT, the whole word. -/
def WDT_CORE_TIMEOUT : Fld := ⟨0x0A, 0x054, 31, 0⟩
def WDT_CORE_KICK_KEY : Fld := ⟨0x0A, 0x058, 31, 0⟩
/-- WDT_CORE_KICK, the whole word. -/
def WDT_CORE_KICK : Fld := ⟨0x0A, 0x058, 31, 0⟩
def WDT_CORE_STAT_EXPIRED : Fld := ⟨0x0A, 0x05C, 7, 0⟩
/-- WDT_CORE_STAT, the whole word. -/
def WDT_CORE_STAT : Fld := ⟨0x0A, 0x05C, 31, 0⟩
def LCP_CFG_EN : Fld := ⟨0x49, 0x040, 31, 31⟩
def LCP_CFG_UDP_PORT : Fld := ⟨0x49, 0x040, 15, 0⟩
/-- LCP_CFG, the whole word. -/
def LCP_CFG : Fld := ⟨0x49, 0x040, 31, 0⟩
def LCP_MCAST_ADDR (m : Nat) : Fld := ⟨0x49, 0x044 + 0x4 * m, 31, 0⟩
/-- LCP_MCASTm, the whole word. -/
def LCP_MCAST (m : Nat) : Fld := ⟨0x49, 0x044 + 0x4 * m, 31, 0⟩
def LCP_RX_BASE_ADDR : Fld := ⟨0x49, 0x060, 31, 0⟩
/-- LCP_RX_BASE, the whole word. -/
def LCP_RX_BASE : Fld := ⟨0x49, 0x060, 31, 0⟩
def LCP_RX_CTRL_COUNT : Fld := ⟨0x49, 0x064, 22, 16⟩
def LCP_RX_CTRL_NEXT : Fld := ⟨0x49, 0x064, 5, 0⟩
/-- LCP_RX_CTRL, the whole word. -/
def LCP_RX_CTRL : Fld := ⟨0x49, 0x064, 31, 0⟩
def LCP_TX_ADDR_ADDR : Fld := ⟨0x49, 0x068, 31, 0⟩
/-- LCP_TX_ADDR, the whole word. -/
def LCP_TX_ADDR : Fld := ⟨0x49, 0x068, 31, 0⟩
def LCP_TX_CTRL_GO : Fld := ⟨0x49, 0x06C, 31, 31⟩
def LCP_TX_CTRL_PORT : Fld := ⟨0x49, 0x06C, 16, 16⟩
def LCP_TX_CTRL_LEN : Fld := ⟨0x49, 0x06C, 13, 0⟩
/-- LCP_TX_CTRL, the whole word. -/
def LCP_TX_CTRL : Fld := ⟨0x49, 0x06C, 31, 0⟩
def LCP_XA_ADDR_LO_A_LO : Fld := ⟨0x49, 0x080, 31, 0⟩
/-- LCP_XA_ADDR_LO, the whole word. -/
def LCP_XA_ADDR_LO : Fld := ⟨0x49, 0x080, 31, 0⟩
def LCP_XA_ADDR_HI_A_HI : Fld := ⟨0x49, 0x084, 7, 0⟩
/-- LCP_XA_ADDR_HI, the whole word. -/
def LCP_XA_ADDR_HI : Fld := ⟨0x49, 0x084, 31, 0⟩
def LCP_XA_BUF_ADDR : Fld := ⟨0x49, 0x088, 31, 0⟩
/-- LCP_XA_BUF, the whole word. -/
def LCP_XA_BUF : Fld := ⟨0x49, 0x088, 31, 0⟩
def LCP_XA_CTRL_GO : Fld := ⟨0x49, 0x08C, 31, 31⟩
def LCP_XA_CTRL_OP : Fld := ⟨0x49, 0x08C, 30, 29⟩
def LCP_XA_CTRL_RIGHTS : Fld := ⟨0x49, 0x08C, 28, 23⟩
def LCP_XA_CTRL_LEN : Fld := ⟨0x49, 0x08C, 12, 0⟩
/-- LCP_XA_CTRL, the whole word. -/
def LCP_XA_CTRL : Fld := ⟨0x49, 0x08C, 31, 0⟩
def LCP_XA_STAT_INDEX : Fld := ⟨0x49, 0x090, 31, 16⟩
def LCP_XA_STAT_CODE : Fld := ⟨0x49, 0x090, 15, 0⟩
/-- LCP_XA_STAT, the whole word. -/
def LCP_XA_STAT : Fld := ⟨0x49, 0x090, 31, 0⟩
def HOSTSPI_CFG_RIGHTS : Fld := ⟨0x48, 0x040, 5, 0⟩
/-- HOSTSPI_CFG, the whole word. -/
def HOSTSPI_CFG : Fld := ⟨0x48, 0x040, 31, 0⟩
def HOSTSPI_BELL_SET_BELL : Fld := ⟨0x48, 0x044, 31, 0⟩
/-- HOSTSPI_BELL_SET, the whole word. -/
def HOSTSPI_BELL_SET : Fld := ⟨0x48, 0x044, 31, 0⟩
def HOSTSPI_BELL_BELL : Fld := ⟨0x48, 0x048, 31, 0⟩
/-- HOSTSPI_BELL, the whole word. -/
def HOSTSPI_BELL : Fld := ⟨0x48, 0x048, 31, 0⟩
def HOSTSPI_LAST_CODE : Fld := ⟨0x48, 0x04C, 31, 16⟩
def HOSTSPI_LAST_CMD : Fld := ⟨0x48, 0x04C, 7, 0⟩
/-- HOSTSPI_LAST, the whole word. -/
def HOSTSPI_LAST : Fld := ⟨0x48, 0x04C, 31, 0⟩
def HOSTSPI_CNT_REFUSED_N : Fld := ⟨0x48, 0x050, 31, 0⟩
/-- HOSTSPI_CNT_REFUSED, the whole word. -/
def HOSTSPI_CNT_REFUSED : Fld := ⟨0x48, 0x050, 31, 0⟩
def HOSTSPI_CNT_CLR_CLR : Fld := ⟨0x48, 0x054, 0, 0⟩
/-- HOSTSPI_CNT_CLR, the whole word. -/
def HOSTSPI_CNT_CLR : Fld := ⟨0x48, 0x054, 31, 0⟩
def I2C_CFG_SPEED (n : Nat) : Fld := ⟨0x4A + n % 2, 0x040, 0, 0⟩
/-- I2Cn_CFG, the whole word. -/
def I2C_CFG (n : Nat) : Fld := ⟨0x4A + n % 2, 0x040, 31, 0⟩
def I2C_CMD_GO (n : Nat) : Fld := ⟨0x4A + n % 2, 0x044, 31, 31⟩
def I2C_CMD_ADDR (n : Nat) : Fld := ⟨0x4A + n % 2, 0x044, 22, 16⟩
def I2C_CMD_WR_LEN (n : Nat) : Fld := ⟨0x4A + n % 2, 0x044, 12, 8⟩
def I2C_CMD_RD_LEN (n : Nat) : Fld := ⟨0x4A + n % 2, 0x044, 4, 0⟩
/-- I2Cn_CMD, the whole word. -/
def I2C_CMD (n : Nat) : Fld := ⟨0x4A + n % 2, 0x044, 31, 0⟩
def I2C_BUF_DATA (n : Nat) (j : Nat) : Fld := ⟨0x4A + n % 2, 0x048 + 0x4 * j, 31, 0⟩
/-- I2Cn_BUFj, the whole word. -/
def I2C_BUF (n : Nat) (j : Nat) : Fld := ⟨0x4A + n % 2, 0x048 + 0x4 * j, 31, 0⟩
def I2C_STAT_RESULT (n : Nat) : Fld := ⟨0x4A + n % 2, 0x058, 1, 0⟩
/-- I2Cn_STAT, the whole word. -/
def I2C_STAT (n : Nat) : Fld := ⟨0x4A + n % 2, 0x058, 31, 0⟩
def UART_CFG_EN : Fld := ⟨0x4C, 0x040, 31, 31⟩
def UART_CFG_DIV : Fld := ⟨0x4C, 0x040, 15, 0⟩
/-- UART_CFG, the whole word. -/
def UART_CFG : Fld := ⟨0x4C, 0x040, 31, 0⟩
def UART_DATA_VALID : Fld := ⟨0x4C, 0x044, 8, 8⟩
def UART_DATA_BYTE : Fld := ⟨0x4C, 0x044, 7, 0⟩
/-- UART_DATA, the whole word. -/
def UART_DATA : Fld := ⟨0x4C, 0x044, 31, 0⟩
def UART_STAT_OVERRUN : Fld := ⟨0x4C, 0x048, 31, 31⟩
def UART_STAT_TX_FREE : Fld := ⟨0x4C, 0x048, 20, 16⟩
def UART_STAT_RX_COUNT : Fld := ⟨0x4C, 0x048, 4, 0⟩
/-- UART_STAT, the whole word. -/
def UART_STAT : Fld := ⟨0x4C, 0x048, 31, 0⟩
def GPIO_OUT_OUT : Fld := ⟨0x4D, 0x040, 15, 0⟩
/-- GPIO_OUT, the whole word. -/
def GPIO_OUT : Fld := ⟨0x4D, 0x040, 31, 0⟩
def GPIO_OE_OE : Fld := ⟨0x4D, 0x044, 15, 0⟩
/-- GPIO_OE, the whole word. -/
def GPIO_OE : Fld := ⟨0x4D, 0x044, 31, 0⟩
def GPIO_IN_IN : Fld := ⟨0x4D, 0x048, 15, 0⟩
/-- GPIO_IN, the whole word. -/
def GPIO_IN : Fld := ⟨0x4D, 0x048, 31, 0⟩
def GPIO_RISE_EN : Fld := ⟨0x4D, 0x04C, 15, 0⟩
/-- GPIO_RISE, the whole word. -/
def GPIO_RISE : Fld := ⟨0x4D, 0x04C, 31, 0⟩
def GPIO_FALL_EN : Fld := ⟨0x4D, 0x050, 15, 0⟩
/-- GPIO_FALL, the whole word. -/
def GPIO_FALL : Fld := ⟨0x4D, 0x050, 31, 0⟩
def GPIO_EDGE_EDGE : Fld := ⟨0x4D, 0x054, 15, 0⟩
/-- GPIO_EDGE, the whole word. -/
def GPIO_EDGE : Fld := ⟨0x4D, 0x054, 31, 0⟩
def FAN_CFG_EN : Fld := ⟨0x4E, 0x040, 3, 0⟩
/-- FAN_CFG, the whole word. -/
def FAN_CFG : Fld := ⟨0x4E, 0x040, 31, 0⟩
def FAN_DUTY_DUTY (k : Nat) : Fld := ⟨0x4E, 0x044 + 0x4 * k, 7, 0⟩
/-- FAN_DUTYk, the whole word. -/
def FAN_DUTY (k : Nat) : Fld := ⟨0x4E, 0x044 + 0x4 * k, 31, 0⟩
def FAN_MIN_RPM : Fld := ⟨0x4E, 0x054, 15, 0⟩
/-- FAN_MIN, the whole word. -/
def FAN_MIN : Fld := ⟨0x4E, 0x054, 31, 0⟩
def FAN_RPM_RPM (k : Nat) : Fld := ⟨0x4E, 0x060 + 0x4 * k, 15, 0⟩
/-- FAN_RPMk, the whole word. -/
def FAN_RPM (k : Nat) : Fld := ⟨0x4E, 0x060 + 0x4 * k, 31, 0⟩
def TEMP_DIE_T : Fld := ⟨0x4F, 0x040, 15, 0⟩
/-- TEMP_DIE, the whole word. -/
def TEMP_DIE : Fld := ⟨0x4F, 0x040, 31, 0⟩
def TEMP_EXT_VALID (k : Nat) : Fld := ⟨0x4F, 0x044 + 0x4 * k, 31, 31⟩
def TEMP_EXT_T (k : Nat) : Fld := ⟨0x4F, 0x044 + 0x4 * k, 15, 0⟩
/-- TEMP_EXTk, the whole word. -/
def TEMP_EXT (k : Nat) : Fld := ⟨0x4F, 0x044 + 0x4 * k, 31, 0⟩
def TEMP_ALARM_T : Fld := ⟨0x4F, 0x060, 15, 0⟩
/-- TEMP_ALARM, the whole word. -/
def TEMP_ALARM : Fld := ⟨0x4F, 0x060, 31, 0⟩
def SYS_RADIO_ACTIVE : Fld := ⟨0x00, 0x0E0, 17, 16⟩
def SYS_RADIO_SET : Fld := ⟨0x00, 0x0E0, 1, 0⟩
/-- SYS_RADIO, the whole word. -/
def SYS_RADIO : Fld := ⟨0x00, 0x0E0, 31, 0⟩
def SIDEPHY_CFG_EN : Fld := ⟨0x3D, 0x040, 31, 31⟩
def SIDEPHY_CFG_MODE : Fld := ⟨0x3D, 0x040, 8, 8⟩
def SIDEPHY_CFG_PRE_LEN : Fld := ⟨0x3D, 0x040, 7, 0⟩
/-- SIDEPHY_CFG, the whole word. -/
def SIDEPHY_CFG : Fld := ⟨0x3D, 0x040, 31, 0⟩
def SIDEPHY_POWER_ANT_DBI : Fld := ⟨0x3D, 0x044, 15, 8⟩
def SIDEPHY_POWER_MAX_DBM : Fld := ⟨0x3D, 0x044, 7, 0⟩
/-- SIDEPHY_POWER, the whole word. -/
def SIDEPHY_POWER : Fld := ⟨0x3D, 0x044, 31, 0⟩
def SIDEPHY_SCA_PPM : Fld := ⟨0x3D, 0x048, 7, 0⟩
/-- SIDEPHY_SCA, the whole word. -/
def SIDEPHY_SCA : Fld := ⟨0x3D, 0x048, 31, 0⟩
def SIDEPHY_DISC_HOP : Fld := ⟨0x3D, 0x04C, 15, 8⟩
def SIDEPHY_DISC_BASE : Fld := ⟨0x3D, 0x04C, 7, 0⟩
/-- SIDEPHY_DISC, the whole word. -/
def SIDEPHY_DISC : Fld := ⟨0x3D, 0x04C, 31, 0⟩
def SIDEPHY_DMAP_CH (w : Nat) : Fld := ⟨0x3D, 0x050 + 0x4 * w, 31, 0⟩
/-- SIDEPHY_DMAPw, the whole word. -/
def SIDEPHY_DMAP (w : Nat) : Fld := ⟨0x3D, 0x050 + 0x4 * w, 31, 0⟩
def SIDEPHY_SB_RANGE_HI_KHZ (k : Nat) : Fld := ⟨0x3D, 0x080 + 0x10 * k, 31, 16⟩
def SIDEPHY_SB_RANGE_LO_KHZ (k : Nat) : Fld := ⟨0x3D, 0x080 + 0x10 * k, 15, 0⟩
/-- SIDEPHY_SBk_RANGE, the whole word. -/
def SIDEPHY_SB_RANGE (k : Nat) : Fld := ⟨0x3D, 0x080 + 0x10 * k, 31, 0⟩
def SIDEPHY_SB_LIMIT_ERP_DBM (k : Nat) : Fld := ⟨0x3D, 0x084 + 0x10 * k, 31, 24⟩
def SIDEPHY_SB_LIMIT_RESERVE (k : Nat) : Fld := ⟨0x3D, 0x084 + 0x10 * k, 23, 16⟩
def SIDEPHY_SB_LIMIT_DUTY (k : Nat) : Fld := ⟨0x3D, 0x084 + 0x10 * k, 15, 0⟩
/-- SIDEPHY_SBk_LIMIT, the whole word. -/
def SIDEPHY_SB_LIMIT (k : Nat) : Fld := ⟨0x3D, 0x084 + 0x10 * k, 31, 0⟩
def SIDEPHY_SB_USED_US (k : Nat) : Fld := ⟨0x3D, 0x088 + 0x10 * k, 31, 0⟩
/-- SIDEPHY_SBk_USED, the whole word. -/
def SIDEPHY_SB_USED (k : Nat) : Fld := ⟨0x3D, 0x088 + 0x10 * k, 31, 0⟩
def SIDEPHY_DWELL_SEL_CH : Fld := ⟨0x3D, 0x0F0, 7, 0⟩
/-- SIDEPHY_DWELL_SEL, the whole word. -/
def SIDEPHY_DWELL_SEL : Fld := ⟨0x3D, 0x0F0, 31, 0⟩
def SIDEPHY_DWELL_USED_US : Fld := ⟨0x3D, 0x0F4, 31, 0⟩
/-- SIDEPHY_DWELL_USED, the whole word. -/
def SIDEPHY_DWELL_USED : Fld := ⟨0x3D, 0x0F4, 31, 0⟩
def SIDEPHY_STAT_TX : Fld := ⟨0x3D, 0x0F8, 31, 31⟩
def SIDEPHY_STAT_RX : Fld := ⟨0x3D, 0x0F8, 30, 30⟩
def SIDEPHY_STAT_CHANNEL : Fld := ⟨0x3D, 0x0F8, 23, 16⟩
def SIDEPHY_STAT_RSSI : Fld := ⟨0x3D, 0x0F8, 7, 0⟩
/-- SIDEPHY_STAT, the whole word. -/
def SIDEPHY_STAT : Fld := ⟨0x3D, 0x0F8, 31, 0⟩
def SIDEPHY_CNT_TX_N : Fld := ⟨0x3D, 0x100, 31, 0⟩
/-- SIDEPHY_CNT_TX, the whole word. -/
def SIDEPHY_CNT_TX : Fld := ⟨0x3D, 0x100, 31, 0⟩
def SIDEPHY_CNT_BUDGET_N : Fld := ⟨0x3D, 0x104, 31, 0⟩
/-- SIDEPHY_CNT_BUDGET, the whole word. -/
def SIDEPHY_CNT_BUDGET : Fld := ⟨0x3D, 0x104, 31, 0⟩
def SIDEPHY_CNT_DWELL_N : Fld := ⟨0x3D, 0x108, 31, 0⟩
/-- SIDEPHY_CNT_DWELL, the whole word. -/
def SIDEPHY_CNT_DWELL : Fld := ⟨0x3D, 0x108, 31, 0⟩
def SIDEPHY_CNT_NOACK_N : Fld := ⟨0x3D, 0x10C, 31, 0⟩
/-- SIDEPHY_CNT_NOACK, the whole word. -/
def SIDEPHY_CNT_NOACK : Fld := ⟨0x3D, 0x10C, 31, 0⟩
def SIDEPHY_CNT_CLR_CLR : Fld := ⟨0x3D, 0x110, 0, 0⟩
/-- SIDEPHY_CNT_CLR, the whole word. -/
def SIDEPHY_CNT_CLR : Fld := ⟨0x3D, 0x110, 31, 0⟩
def SIDE_CFG_EN : Fld := ⟨0x3C, 0x040, 31, 31⟩
def SIDE_CFG_ADDR : Fld := ⟨0x3C, 0x040, 26, 16⟩
def SIDE_CFG_NET_ID : Fld := ⟨0x3C, 0x040, 15, 0⟩
/-- SIDE_CFG, the whole word. -/
def SIDE_CFG : Fld := ⟨0x3C, 0x040, 31, 0⟩
def SIDE_RETRY_RETRIES : Fld := ⟨0x3C, 0x044, 18, 16⟩
def SIDE_RETRY_BACKOFF_MS : Fld := ⟨0x3C, 0x044, 7, 0⟩
/-- SIDE_RETRY, the whole word. -/
def SIDE_RETRY : Fld := ⟨0x3C, 0x044, 31, 0⟩
def SIDE_BEACON_CONNECTABLE : Fld := ⟨0x3C, 0x048, 16, 16⟩
def SIDE_BEACON_PERIOD_S : Fld := ⟨0x3C, 0x048, 15, 0⟩
/-- SIDE_BEACON, the whole word. -/
def SIDE_BEACON : Fld := ⟨0x3C, 0x048, 31, 0⟩
def SIDE_BSEG_SEGMENT : Fld := ⟨0x3C, 0x04C, 15, 0⟩
/-- SIDE_BSEG, the whole word. -/
def SIDE_BSEG : Fld := ⟨0x3C, 0x04C, 31, 0⟩
def SIDE_KEYCFG_RIGHTS (k : Nat) : Fld := ⟨0x3C, 0x050, 5 + 6 * k, 0 + 6 * k⟩
/-- SIDE_KEYCFG, the whole word. -/
def SIDE_KEYCFG : Fld := ⟨0x3C, 0x050, 31, 0⟩
def SIDE_KEYSTAT_EXHAUSTED : Fld := ⟨0x3C, 0x054, 7, 4⟩
def SIDE_KEYSTAT_LOADED : Fld := ⟨0x3C, 0x054, 3, 0⟩
/-- SIDE_KEYSTAT, the whole word. -/
def SIDE_KEYSTAT : Fld := ⟨0x3C, 0x054, 31, 0⟩
def SIDE_STATUS_TIME_VALID : Fld := ⟨0x3C, 0x058, 31, 31⟩
def SIDE_STATUS_TIME_SRC : Fld := ⟨0x3C, 0x058, 30, 29⟩
def SIDE_STATUS_LINKS : Fld := ⟨0x3C, 0x058, 7, 0⟩
/-- SIDE_STATUS, the whole word. -/
def SIDE_STATUS : Fld := ⟨0x3C, 0x058, 31, 0⟩
def SIDE_TIME_LO_T_LO : Fld := ⟨0x3C, 0x060, 31, 0⟩
/-- SIDE_TIME_LO, the whole word. -/
def SIDE_TIME_LO : Fld := ⟨0x3C, 0x060, 31, 0⟩
def SIDE_TIME_HI_T_HI : Fld := ⟨0x3C, 0x064, 31, 0⟩
/-- SIDE_TIME_HI, the whole word. -/
def SIDE_TIME_HI : Fld := ⟨0x3C, 0x064, 31, 0⟩
def SIDE_EVT_VALID : Fld := ⟨0x3C, 0x068, 31, 31⟩
def SIDE_EVT_KIND : Fld := ⟨0x3C, 0x068, 27, 24⟩
def SIDE_EVT_INDEX : Fld := ⟨0x3C, 0x068, 18, 16⟩
def SIDE_EVT_INDEX_HI : Fld := ⟨0x3C, 0x068, 19, 19⟩
/-- SIDE_EVT, the whole word. -/
def SIDE_EVT : Fld := ⟨0x3C, 0x068, 31, 0⟩
def SIDE_IRQ_AGE_CYCLES : Fld := ⟨0x3C, 0x06C, 23, 0⟩
/-- SIDE_IRQ_AGE, the whole word. -/
def SIDE_IRQ_AGE : Fld := ⟨0x3C, 0x06C, 31, 0⟩
def SIDE_TIME_LAT_T : Fld := ⟨0x3C, 0x070, 31, 0⟩
/-- SIDE_TIME_LAT, the whole word. -/
def SIDE_TIME_LAT : Fld := ⟨0x3C, 0x070, 31, 0⟩
def SIDE_TX_GO_GO : Fld := ⟨0x3C, 0x074, 31, 31⟩
def SIDE_TX_GO_SLOT : Fld := ⟨0x3C, 0x074, 3, 0⟩
/-- SIDE_TX_GO, the whole word. -/
def SIDE_TX_GO : Fld := ⟨0x3C, 0x074, 31, 0⟩
def SIDE_RX_NEXT_ENTRY : Fld := ⟨0x3C, 0x078, 2, 0⟩
/-- SIDE_RX_NEXT, the whole word. -/
def SIDE_RX_NEXT : Fld := ⟨0x3C, 0x078, 31, 0⟩
def SIDE_LAST_SRC : Fld := ⟨0x3C, 0x07C, 15, 0⟩
def SIDE_LAST_CODE : Fld := ⟨0x3C, 0x07C, 23, 16⟩
/-- SIDE_LAST, the whole word. -/
def SIDE_LAST : Fld := ⟨0x3C, 0x07C, 31, 0⟩
def SIDE_LINK_STAT_UP (l : Nat) : Fld := ⟨0x3C, 0x080 + 0x8 * l, 31, 31⟩
def SIDE_LINK_STAT_CENTRAL (l : Nat) : Fld := ⟨0x3C, 0x080 + 0x8 * l, 30, 30⟩
def SIDE_LINK_STAT_PEER (l : Nat) : Fld := ⟨0x3C, 0x080 + 0x8 * l, 26, 16⟩
def SIDE_LINK_STAT_EVENT (l : Nat) : Fld := ⟨0x3C, 0x080 + 0x8 * l, 15, 0⟩
/-- SIDE_LINKl_STAT, the whole word. -/
def SIDE_LINK_STAT (l : Nat) : Fld := ⟨0x3C, 0x080 + 0x8 * l, 31, 0⟩
def SIDE_LINK_TIME_MISSED (l : Nat) : Fld := ⟨0x3C, 0x084 + 0x8 * l, 31, 16⟩
def SIDE_LINK_TIME_WIDEN_US (l : Nat) : Fld := ⟨0x3C, 0x084 + 0x8 * l, 15, 0⟩
/-- SIDE_LINKl_TIME, the whole word. -/
def SIDE_LINK_TIME (l : Nat) : Fld := ⟨0x3C, 0x084 + 0x8 * l, 31, 0⟩
def SIDE_CNT_RX_OK_N : Fld := ⟨0x3C, 0x0C0, 31, 0⟩
/-- SIDE_CNT_RX_OK, the whole word. -/
def SIDE_CNT_RX_OK : Fld := ⟨0x3C, 0x0C0, 31, 0⟩
def SIDE_CNT_FCS_N : Fld := ⟨0x3C, 0x0C4, 31, 0⟩
/-- SIDE_CNT_FCS, the whole word. -/
def SIDE_CNT_FCS : Fld := ⟨0x3C, 0x0C4, 31, 0⟩
def SIDE_CNT_FORMAT_N : Fld := ⟨0x3C, 0x0C8, 31, 0⟩
/-- SIDE_CNT_FORMAT, the whole word. -/
def SIDE_CNT_FORMAT : Fld := ⟨0x3C, 0x0C8, 31, 0⟩
def SIDE_CNT_FILTER_N : Fld := ⟨0x3C, 0x0CC, 31, 0⟩
/-- SIDE_CNT_FILTER, the whole word. -/
def SIDE_CNT_FILTER : Fld := ⟨0x3C, 0x0CC, 31, 0⟩
def SIDE_CNT_KEY_N : Fld := ⟨0x3C, 0x0D0, 31, 0⟩
/-- SIDE_CNT_KEY, the whole word. -/
def SIDE_CNT_KEY : Fld := ⟨0x3C, 0x0D0, 31, 0⟩
def SIDE_CNT_MIC_N : Fld := ⟨0x3C, 0x0D4, 31, 0⟩
/-- SIDE_CNT_MIC, the whole word. -/
def SIDE_CNT_MIC : Fld := ⟨0x3C, 0x0D4, 31, 0⟩
def SIDE_CNT_REPLAY_N : Fld := ⟨0x3C, 0x0D8, 31, 0⟩
/-- SIDE_CNT_REPLAY, the whole word. -/
def SIDE_CNT_REPLAY : Fld := ⟨0x3C, 0x0D8, 31, 0⟩
def SIDE_CNT_DUP_N : Fld := ⟨0x3C, 0x0DC, 31, 0⟩
/-- SIDE_CNT_DUP, the whole word. -/
def SIDE_CNT_DUP : Fld := ⟨0x3C, 0x0DC, 31, 0⟩
def SIDE_CNT_LINKERR_N : Fld := ⟨0x3C, 0x0E0, 31, 0⟩
/-- SIDE_CNT_LINKERR, the whole word. -/
def SIDE_CNT_LINKERR : Fld := ⟨0x3C, 0x0E0, 31, 0⟩
def SIDE_CNT_RX_FULL_N : Fld := ⟨0x3C, 0x0E4, 31, 0⟩
/-- SIDE_CNT_RX_FULL, the whole word. -/
def SIDE_CNT_RX_FULL : Fld := ⟨0x3C, 0x0E4, 31, 0⟩
def SIDE_CNT_NOACK_N : Fld := ⟨0x3C, 0x0E8, 31, 0⟩
/-- SIDE_CNT_NOACK, the whole word. -/
def SIDE_CNT_NOACK : Fld := ⟨0x3C, 0x0E8, 31, 0⟩
def SIDE_CNT_EXPIRED_N : Fld := ⟨0x3C, 0x0EC, 31, 0⟩
/-- SIDE_CNT_EXPIRED, the whole word. -/
def SIDE_CNT_EXPIRED : Fld := ⟨0x3C, 0x0EC, 31, 0⟩
def SIDE_CNT_LINK_LOST_N : Fld := ⟨0x3C, 0x0F0, 31, 0⟩
/-- SIDE_CNT_LINK_LOST, the whole word. -/
def SIDE_CNT_LINK_LOST : Fld := ⟨0x3C, 0x0F0, 31, 0⟩
def SIDE_CNT_EVT_LOST_N : Fld := ⟨0x3C, 0x0F4, 31, 0⟩
/-- SIDE_CNT_EVT_LOST, the whole word. -/
def SIDE_CNT_EVT_LOST : Fld := ⟨0x3C, 0x0F4, 31, 0⟩
def SIDE_CNT_CLR_CLR : Fld := ⟨0x3C, 0x0F8, 0, 0⟩
/-- SIDE_CNT_CLR, the whole word. -/
def SIDE_CNT_CLR : Fld := ⟨0x3C, 0x0F8, 31, 0⟩
def ANCHOR_STATUS_READY : Fld := ⟨0x40, 0x040, 31, 31⟩
def ANCHOR_STATUS_BUSY : Fld := ⟨0x40, 0x040, 30, 30⟩
def ANCHOR_STATUS_LIFECYCLE : Fld := ⟨0x40, 0x040, 26, 24⟩
def ANCHOR_STATUS_TAMPER_LEVEL : Fld := ⟨0x40, 0x040, 19, 16⟩
def ANCHOR_STATUS_ENT_OK : Fld := ⟨0x40, 0x040, 1, 1⟩
def ANCHOR_STATUS_SELFTEST_OK : Fld := ⟨0x40, 0x040, 0, 0⟩
/-- ANCHOR_STATUS, the whole word. -/
def ANCHOR_STATUS : Fld := ⟨0x40, 0x040, 31, 0⟩
def ANCHOR_UNIT_ID_ID (n : Nat) : Fld := ⟨0x40, 0x044 + 0x4 * n, 31, 0⟩
/-- ANCHOR_UNIT_ID, the whole word. -/
def ANCHOR_UNIT_ID (n : Nat) : Fld := ⟨0x40, 0x044 + 0x4 * n, 31, 0⟩
def ANCHOR_SLOT_SEL_SLOT : Fld := ⟨0x40, 0x054, 4, 0⟩
/-- ANCHOR_SLOT_SEL, the whole word. -/
def ANCHOR_SLOT_SEL : Fld := ⟨0x40, 0x054, 31, 0⟩
def ANCHOR_SLOT_INFO_TYPE : Fld := ⟨0x40, 0x058, 31, 28⟩
def ANCHOR_SLOT_INFO_ORIGIN : Fld := ⟨0x40, 0x058, 27, 26⟩
def ANCHOR_SLOT_INFO_DAMAGED : Fld := ⟨0x40, 0x058, 25, 25⟩
def ANCHOR_SLOT_INFO_ATTR : Fld := ⟨0x40, 0x058, 21, 16⟩
def ANCHOR_SLOT_INFO_KVER : Fld := ⟨0x40, 0x058, 15, 0⟩
/-- ANCHOR_SLOT_INFO, the whole word. -/
def ANCHOR_SLOT_INFO : Fld := ⟨0x40, 0x058, 31, 0⟩
def ANCHOR_TAMPER_STAT_LATCHED : Fld := ⟨0x40, 0x05C, 31, 31⟩
def ANCHOR_TAMPER_STAT_UNPOWERED : Fld := ⟨0x40, 0x05C, 30, 30⟩
def ANCHOR_TAMPER_STAT_SOURCE : Fld := ⟨0x40, 0x05C, 27, 24⟩
def ANCHOR_TAMPER_STAT_COUNT : Fld := ⟨0x40, 0x05C, 7, 0⟩
/-- ANCHOR_TAMPER_STAT, the whole word. -/
def ANCHOR_TAMPER_STAT : Fld := ⟨0x40, 0x05C, 31, 0⟩
def ANCHOR_TAMPER_TIME_SEC : Fld := ⟨0x40, 0x060, 31, 0⟩
/-- ANCHOR_TAMPER_TIME, the whole word. -/
def ANCHOR_TAMPER_TIME : Fld := ⟨0x40, 0x060, 31, 0⟩
def ANCHOR_MBOX_CTRL_GO : Fld := ⟨0x40, 0x080, 31, 31⟩
def ANCHOR_MBOX_CTRL_BUSY : Fld := ⟨0x40, 0x080, 30, 30⟩
def ANCHOR_MBOX_CTRL_DONE : Fld := ⟨0x40, 0x080, 29, 29⟩
def ANCHOR_MBOX_CTRL_STATUS : Fld := ⟨0x40, 0x080, 15, 0⟩
/-- ANCHOR_MBOX_CTRL, the whole word. -/
def ANCHOR_MBOX_CTRL : Fld := ⟨0x40, 0x080, 31, 0⟩
def ANCHOR_PORTS_PARTY_OTHER : Fld := ⟨0x40, 0x084, 9, 9⟩
def ANCHOR_PORTS_PARTY_CURRENT : Fld := ⟨0x40, 0x084, 8, 8⟩
def ANCHOR_PORTS_SIDE : Fld := ⟨0x40, 0x084, 3, 0⟩
/-- ANCHOR_PORTS, the whole word. -/
def ANCHOR_PORTS : Fld := ⟨0x40, 0x084, 31, 0⟩
def ANCHOR_CNT_CMD_N : Fld := ⟨0x40, 0x088, 31, 0⟩
/-- ANCHOR_CNT_CMD, the whole word. -/
def ANCHOR_CNT_CMD : Fld := ⟨0x40, 0x088, 31, 0⟩
def ANCHOR_CNT_REFUSED_N : Fld := ⟨0x40, 0x08C, 31, 0⟩
/-- ANCHOR_CNT_REFUSED, the whole word. -/
def ANCHOR_CNT_REFUSED : Fld := ⟨0x40, 0x08C, 31, 0⟩
def ANCHOR_CNT_CLR_CLR : Fld := ⟨0x40, 0x090, 0, 0⟩
/-- ANCHOR_CNT_CLR, the whole word. -/
def ANCHOR_CNT_CLR : Fld := ⟨0x40, 0x090, 31, 0⟩
def ANCHOR_MBOX_REQ_BYTES (w : Nat) : Fld := ⟨0x40, 0x100 + 0x4 * w, 31, 0⟩
/-- ANCHOR_MBOX_REQw, the whole word. -/
def ANCHOR_MBOX_REQ (w : Nat) : Fld := ⟨0x40, 0x100 + 0x4 * w, 31, 0⟩
def ANCHOR_MBOX_RSP_BYTES (w : Nat) : Fld := ⟨0x40, 0x200 + 0x4 * w, 31, 0⟩
/-- ANCHOR_MBOX_RSPw, the whole word. -/
def ANCHOR_MBOX_RSP (w : Nat) : Fld := ⟨0x40, 0x200 + 0x4 * w, 31, 0⟩
def UPD_STATE_XFER : Fld := ⟨0x44, 0x040, 31, 31⟩
def UPD_STATE_REC_FAIL : Fld := ⟨0x44, 0x040, 30, 30⟩
def UPD_STATE_TARGET : Fld := ⟨0x44, 0x040, 29, 28⟩
def UPD_STATE_REASON : Fld := ⟨0x44, 0x040, 27, 24⟩
def UPD_STATE_ATTEMPTS : Fld := ⟨0x44, 0x040, 19, 16⟩
def UPD_STATE_STATE_B : Fld := ⟨0x44, 0x040, 10, 8⟩
def UPD_STATE_STATE_A : Fld := ⟨0x44, 0x040, 6, 4⟩
def UPD_STATE_BOOTED : Fld := ⟨0x44, 0x040, 3, 2⟩
def UPD_STATE_ACTIVE : Fld := ⟨0x44, 0x040, 0, 0⟩
/-- UPD_STATE, the whole word. -/
def UPD_STATE : Fld := ⟨0x44, 0x040, 31, 0⟩
def UPD_VER_LO_MINOR (x : Nat) : Fld := ⟨0x44, 0x044 + 0x8 * x, 31, 16⟩
def UPD_VER_LO_PATCH (x : Nat) : Fld := ⟨0x44, 0x044 + 0x8 * x, 15, 0⟩
/-- UPD_VER_x_LO, the whole word. -/
def UPD_VER_LO (x : Nat) : Fld := ⟨0x44, 0x044 + 0x8 * x, 31, 0⟩
def UPD_VER_HI_SCHEMA (x : Nat) : Fld := ⟨0x44, 0x048 + 0x8 * x, 31, 16⟩
def UPD_VER_HI_MAJOR (x : Nat) : Fld := ⟨0x44, 0x048 + 0x8 * x, 15, 0⟩
/-- UPD_VER_x_HI, the whole word. -/
def UPD_VER_HI (x : Nat) : Fld := ⟨0x44, 0x048 + 0x8 * x, 31, 0⟩
def UPD_CFG_HEALTH_S : Fld := ⟨0x44, 0x054, 27, 16⟩
def UPD_CFG_MAX_ATTEMPTS : Fld := ⟨0x44, 0x054, 3, 0⟩
/-- UPD_CFG, the whole word. -/
def UPD_CFG : Fld := ⟨0x44, 0x054, 31, 0⟩
def UPD_CTRL_BUSY : Fld := ⟨0x44, 0x058, 31, 31⟩
def UPD_CTRL_ABORT : Fld := ⟨0x44, 0x058, 3, 3⟩
def UPD_CTRL_PROGRAM : Fld := ⟨0x44, 0x058, 2, 2⟩
def UPD_CTRL_CHECK_BODY : Fld := ⟨0x44, 0x058, 1, 1⟩
def UPD_CTRL_CHECK_HDR : Fld := ⟨0x44, 0x058, 0, 0⟩
/-- UPD_CTRL, the whole word. -/
def UPD_CTRL : Fld := ⟨0x44, 0x058, 31, 0⟩
def UPD_LAST_CODE : Fld := ⟨0x44, 0x05C, 15, 8⟩
def UPD_LAST_STEP : Fld := ⟨0x44, 0x05C, 2, 0⟩
/-- UPD_LAST, the whole word. -/
def UPD_LAST : Fld := ⟨0x44, 0x05C, 31, 0⟩
def UPD_PROGRESS_BYTES : Fld := ⟨0x44, 0x060, 31, 0⟩
/-- UPD_PROGRESS, the whole word. -/
def UPD_PROGRESS : Fld := ⟨0x44, 0x060, 31, 0⟩
def UPD_HEALTH_RUN : Fld := ⟨0x44, 0x064, 31, 31⟩
def UPD_HEALTH_REMAIN_S : Fld := ⟨0x44, 0x064, 11, 0⟩
/-- UPD_HEALTH, the whole word. -/
def UPD_HEALTH : Fld := ⟨0x44, 0x064, 31, 0⟩
def UPD_CONFIRM_CONFIRM : Fld := ⟨0x44, 0x068, 0, 0⟩
/-- UPD_CONFIRM, the whole word. -/
def UPD_CONFIRM : Fld := ⟨0x44, 0x068, 31, 0⟩
def UPD_BOOTREQ_BASECAMP : Fld := ⟨0x44, 0x06C, 0, 0⟩
/-- UPD_BOOTREQ, the whole word. -/
def UPD_BOOTREQ : Fld := ⟨0x44, 0x06C, 31, 0⟩
def UPD_ACT_LO_N_LO : Fld := ⟨0x44, 0x070, 31, 0⟩
/-- UPD_ACT_LO, the whole word. -/
def UPD_ACT_LO : Fld := ⟨0x44, 0x070, 31, 0⟩
def UPD_ACT_HI_N_HI : Fld := ⟨0x44, 0x074, 15, 0⟩
/-- UPD_ACT_HI, the whole word. -/
def UPD_ACT_HI : Fld := ⟨0x44, 0x074, 31, 0⟩
def UPD_ACT_VER_LO_MINOR_PATCH : Fld := ⟨0x44, 0x078, 31, 0⟩
/-- UPD_ACT_VER_LO, the whole word. -/
def UPD_ACT_VER_LO : Fld := ⟨0x44, 0x078, 31, 0⟩
def UPD_ACT_VER_HI_MAJOR : Fld := ⟨0x44, 0x07C, 15, 0⟩
/-- UPD_ACT_VER_HI, the whole word. -/
def UPD_ACT_VER_HI : Fld := ⟨0x44, 0x07C, 31, 0⟩
def UPD_ACT_CTRL_ARMED : Fld := ⟨0x44, 0x080, 31, 31⟩
def UPD_ACT_CTRL_DISARM : Fld := ⟨0x44, 0x080, 1, 1⟩
def UPD_ACT_CTRL_ARM : Fld := ⟨0x44, 0x080, 0, 0⟩
/-- UPD_ACT_CTRL, the whole word. -/
def UPD_ACT_CTRL : Fld := ⟨0x44, 0x080, 31, 0⟩
def PARTY_ACT_LO_N_LO : Fld := ⟨0x39, 0x0C0, 31, 0⟩
/-- PARTY_ACT_LO, the whole word. -/
def PARTY_ACT_LO : Fld := ⟨0x39, 0x0C0, 31, 0⟩
def PARTY_ACT_HI_N_HI : Fld := ⟨0x39, 0x0C4, 15, 0⟩
/-- PARTY_ACT_HI, the whole word. -/
def PARTY_ACT_HI : Fld := ⟨0x39, 0x0C4, 31, 0⟩
def PARTY_ACT_VER_LO_MINOR_PATCH : Fld := ⟨0x39, 0x0C8, 31, 0⟩
/-- PARTY_ACT_VER_LO, the whole word. -/
def PARTY_ACT_VER_LO : Fld := ⟨0x39, 0x0C8, 31, 0⟩
def PARTY_ACT_VER_HI_MAJOR : Fld := ⟨0x39, 0x0CC, 15, 0⟩
/-- PARTY_ACT_VER_HI, the whole word. -/
def PARTY_ACT_VER_HI : Fld := ⟨0x39, 0x0CC, 31, 0⟩
def PARTY_ACT_STAT_ARMED : Fld := ⟨0x39, 0x0D0, 31, 31⟩
def PARTY_ACT_STAT_SOURCE : Fld := ⟨0x39, 0x0D0, 1, 0⟩
/-- PARTY_ACT_STAT, the whole word. -/
def PARTY_ACT_STAT : Fld := ⟨0x39, 0x0D0, 31, 0⟩
def UPD_PACT_LO_N_LO : Fld := ⟨0x44, 0x084, 31, 0⟩
/-- UPD_PACT_LO, the whole word. -/
def UPD_PACT_LO : Fld := ⟨0x44, 0x084, 31, 0⟩
def UPD_PACT_HI_N_HI : Fld := ⟨0x44, 0x088, 15, 0⟩
/-- UPD_PACT_HI, the whole word. -/
def UPD_PACT_HI : Fld := ⟨0x44, 0x088, 31, 0⟩
def UPD_PACT_VER_LO_MINOR_PATCH : Fld := ⟨0x44, 0x08C, 31, 0⟩
/-- UPD_PACT_VER_LO, the whole word. -/
def UPD_PACT_VER_LO : Fld := ⟨0x44, 0x08C, 31, 0⟩
def UPD_PACT_VER_HI_MAJOR : Fld := ⟨0x44, 0x090, 15, 0⟩
/-- UPD_PACT_VER_HI, the whole word. -/
def UPD_PACT_VER_HI : Fld := ⟨0x44, 0x090, 31, 0⟩
def UPD_PACT_CTRL_RESULT : Fld := ⟨0x44, 0x094, 5, 4⟩
def UPD_PACT_CTRL_SEND : Fld := ⟨0x44, 0x094, 0, 0⟩
/-- UPD_PACT_CTRL, the whole word. -/
def UPD_PACT_CTRL : Fld := ⟨0x44, 0x094, 31, 0⟩
def UPD_CNT_ACT_MISSED_N : Fld := ⟨0x44, 0x098, 31, 0⟩
/-- UPD_CNT_ACT_MISSED, the whole word. -/
def UPD_CNT_ACT_MISSED : Fld := ⟨0x44, 0x098, 31, 0⟩
def UPD_CNT_REFUSED_N : Fld := ⟨0x44, 0x09C, 31, 0⟩
/-- UPD_CNT_REFUSED, the whole word. -/
def UPD_CNT_REFUSED : Fld := ⟨0x44, 0x09C, 31, 0⟩
def UPD_CNT_CLR_CLR : Fld := ⟨0x44, 0x0A0, 0, 0⟩
/-- UPD_CNT_CLR, the whole word. -/
def UPD_CNT_CLR : Fld := ⟨0x44, 0x0A0, 31, 0⟩
def FLASH_ADDR_ADDR : Fld := ⟨0x45, 0x040, 27, 0⟩
/-- FLASH_ADDR, the whole word. -/
def FLASH_ADDR : Fld := ⟨0x45, 0x040, 31, 0⟩
def FLASH_SRC_ADDR : Fld := ⟨0x45, 0x044, 31, 0⟩
/-- FLASH_SRC, the whole word. -/
def FLASH_SRC : Fld := ⟨0x45, 0x044, 31, 0⟩
def FLASH_LEN_BYTES : Fld := ⟨0x45, 0x048, 27, 0⟩
/-- FLASH_LEN, the whole word. -/
def FLASH_LEN : Fld := ⟨0x45, 0x048, 31, 0⟩
def FLASH_CTRL_GO : Fld := ⟨0x45, 0x04C, 31, 31⟩
def FLASH_CTRL_SRC_STORE : Fld := ⟨0x45, 0x04C, 30, 30⟩
def FLASH_CTRL_RESULT : Fld := ⟨0x45, 0x04C, 19, 16⟩
def FLASH_CTRL_OP : Fld := ⟨0x45, 0x04C, 1, 0⟩
/-- FLASH_CTRL, the whole word. -/
def FLASH_CTRL : Fld := ⟨0x45, 0x04C, 31, 0⟩
def FLASH_CNT_ERASE_N : Fld := ⟨0x45, 0x050, 31, 0⟩
/-- FLASH_CNT_ERASE, the whole word. -/
def FLASH_CNT_ERASE : Fld := ⟨0x45, 0x050, 31, 0⟩
def FLASH_CNT_ERR_N : Fld := ⟨0x45, 0x054, 31, 0⟩
/-- FLASH_CNT_ERR, the whole word. -/
def FLASH_CNT_ERR : Fld := ⟨0x45, 0x054, 31, 0⟩
def FLASH_CNT_CLR_CLR : Fld := ⟨0x45, 0x058, 0, 0⟩
/-- FLASH_CNT_CLR, the whole word. -/
def FLASH_CNT_CLR : Fld := ⟨0x45, 0x058, 31, 0⟩
def MRAM_STATUS_FAULTED : Fld := ⟨0x46, 0x040, 1, 1⟩
def MRAM_STATUS_BUSY : Fld := ⟨0x46, 0x040, 0, 0⟩
/-- MRAM_STATUS, the whole word. -/
def MRAM_STATUS : Fld := ⟨0x46, 0x040, 31, 0⟩
def MRAM_CNT_CE_N : Fld := ⟨0x46, 0x044, 31, 0⟩
/-- MRAM_CNT_CE, the whole word. -/
def MRAM_CNT_CE : Fld := ⟨0x46, 0x044, 31, 0⟩
def MRAM_CNT_UE_N : Fld := ⟨0x46, 0x048, 31, 0⟩
/-- MRAM_CNT_UE, the whole word. -/
def MRAM_CNT_UE : Fld := ⟨0x46, 0x048, 31, 0⟩
def MRAM_UE_ADDR_VALID : Fld := ⟨0x46, 0x04C, 31, 31⟩
def MRAM_UE_ADDR_ADDR : Fld := ⟨0x46, 0x04C, 19, 0⟩
/-- MRAM_UE_ADDR, the whole word. -/
def MRAM_UE_ADDR : Fld := ⟨0x46, 0x04C, 31, 0⟩
def MRAM_CNT_CLR_CLR : Fld := ⟨0x46, 0x050, 0, 0⟩
/-- MRAM_CNT_CLR, the whole word. -/
def MRAM_CNT_CLR : Fld := ⟨0x46, 0x050, 31, 0⟩
def RST_LAST_DETAIL : Fld := ⟨0x01, 0x040, 31, 16⟩
def RST_LAST_CAUSE : Fld := ⟨0x01, 0x040, 15, 8⟩
def RST_LAST_SCOPE : Fld := ⟨0x01, 0x040, 1, 0⟩
/-- RST_LAST, the whole word. -/
def RST_LAST : Fld := ⟨0x01, 0x040, 31, 0⟩
def RST_SEQ_SEQ : Fld := ⟨0x01, 0x044, 31, 0⟩
/-- RST_SEQ, the whole word. -/
def RST_SEQ : Fld := ⟨0x01, 0x044, 31, 0⟩
def RST_REQ_GO : Fld := ⟨0x01, 0x048, 31, 31⟩
def RST_REQ_CANCEL : Fld := ⟨0x01, 0x048, 30, 30⟩
def RST_REQ_SCOPE : Fld := ⟨0x01, 0x048, 29, 28⟩
def RST_REQ_SOURCE : Fld := ⟨0x01, 0x048, 23, 16⟩
def RST_REQ_DELAY_MS : Fld := ⟨0x01, 0x048, 15, 8⟩
def RST_REQ_DETAIL : Fld := ⟨0x01, 0x048, 7, 0⟩
/-- RST_REQ, the whole word. -/
def RST_REQ : Fld := ⟨0x01, 0x048, 31, 0⟩
def RST_REQ_STAT_PENDING : Fld := ⟨0x01, 0x04C, 31, 31⟩
def RST_REQ_STAT_SCOPE : Fld := ⟨0x01, 0x04C, 29, 28⟩
def RST_REQ_STAT_REMAIN_MS : Fld := ⟨0x01, 0x04C, 7, 0⟩
/-- RST_REQ_STAT, the whole word. -/
def RST_REQ_STAT : Fld := ⟨0x01, 0x04C, 31, 0⟩
def RST_BLK_CFG_TIMEOUT_MS : Fld := ⟨0x01, 0x050, 7, 0⟩
/-- RST_BLK_CFG, the whole word. -/
def RST_BLK_CFG : Fld := ⟨0x01, 0x050, 31, 0⟩
def RST_BLK_LAST_VALID : Fld := ⟨0x01, 0x054, 31, 31⟩
def RST_BLK_LAST_FORCED : Fld := ⟨0x01, 0x054, 30, 30⟩
def RST_BLK_LAST_IGNORED : Fld := ⟨0x01, 0x054, 29, 29⟩
def RST_BLK_LAST_PAGE : Fld := ⟨0x01, 0x054, 22, 16⟩
def RST_BLK_LAST_IDLE_US : Fld := ⟨0x01, 0x054, 15, 0⟩
/-- RST_BLK_LAST, the whole word. -/
def RST_BLK_LAST : Fld := ⟨0x01, 0x054, 31, 0⟩
def RST_OUT_PENDING : Fld := ⟨0x01, 0x058, 1, 1⟩
def RST_OUT_RELEASE : Fld := ⟨0x01, 0x058, 0, 0⟩
/-- RST_OUT, the whole word. -/
def RST_OUT : Fld := ⟨0x01, 0x058, 31, 0⟩
def RST_HELD_HELD (w : Nat) : Fld := ⟨0x01, 0x060 + 0x4 * w, 31, 0⟩
/-- RST_HELD, the whole word. -/
def RST_HELD (w : Nat) : Fld := ⟨0x01, 0x060 + 0x4 * w, 31, 0⟩
def RST_CNT_SYSTEM_N : Fld := ⟨0x01, 0x070, 31, 0⟩
/-- RST_CNT_SYSTEM, the whole word. -/
def RST_CNT_SYSTEM : Fld := ⟨0x01, 0x070, 31, 0⟩
def RST_CNT_WARM_N : Fld := ⟨0x01, 0x074, 31, 0⟩
/-- RST_CNT_WARM, the whole word. -/
def RST_CNT_WARM : Fld := ⟨0x01, 0x074, 31, 0⟩
def RST_CNT_BLOCK_N : Fld := ⟨0x01, 0x078, 31, 0⟩
/-- RST_CNT_BLOCK, the whole word. -/
def RST_CNT_BLOCK : Fld := ⟨0x01, 0x078, 31, 0⟩
def RST_CNT_FORCED_N : Fld := ⟨0x01, 0x07C, 31, 0⟩
/-- RST_CNT_FORCED, the whole word. -/
def RST_CNT_FORCED : Fld := ⟨0x01, 0x07C, 31, 0⟩
def RST_CNT_ABSORBED_N : Fld := ⟨0x01, 0x080, 31, 0⟩
/-- RST_CNT_ABSORBED, the whole word. -/
def RST_CNT_ABSORBED : Fld := ⟨0x01, 0x080, 31, 0⟩
def RST_CNT_CLR_CLR : Fld := ⟨0x01, 0x084, 0, 0⟩
/-- RST_CNT_CLR, the whole word. -/
def RST_CNT_CLR : Fld := ⟨0x01, 0x084, 31, 0⟩
def PWR_STATE_CP_AWAKE : Fld := ⟨0x02, 0x040, 8, 8⟩
def PWR_STATE_LAST : Fld := ⟨0x02, 0x040, 6, 4⟩
def PWR_STATE_STATE : Fld := ⟨0x02, 0x040, 2, 0⟩
/-- PWR_STATE, the whole word. -/
def PWR_STATE : Fld := ⟨0x02, 0x040, 31, 0⟩
def PWR_REQ_GO : Fld := ⟨0x02, 0x044, 31, 31⟩
def PWR_REQ_FORCE : Fld := ⟨0x02, 0x044, 30, 30⟩
def PWR_REQ_TARGET : Fld := ⟨0x02, 0x044, 2, 0⟩
/-- PWR_REQ, the whole word. -/
def PWR_REQ : Fld := ⟨0x02, 0x044, 31, 0⟩
def PWR_RESULT_BUSY : Fld := ⟨0x02, 0x048, 31, 31⟩
def PWR_RESULT_RESULT : Fld := ⟨0x02, 0x048, 27, 24⟩
def PWR_RESULT_PAGE : Fld := ⟨0x02, 0x048, 22, 16⟩
def PWR_RESULT_AP : Fld := ⟨0x02, 0x048, 10, 8⟩
def PWR_RESULT_REASON : Fld := ⟨0x02, 0x048, 7, 0⟩
/-- PWR_RESULT, the whole word. -/
def PWR_RESULT : Fld := ⟨0x02, 0x048, 31, 0⟩
def PWR_CFG_REST_EN : Fld := ⟨0x02, 0x04C, 31, 31⟩
def PWR_CFG_CKPT : Fld := ⟨0x02, 0x04C, 30, 30⟩
def PWR_CFG_BIV_PORT : Fld := ⟨0x02, 0x04C, 24, 24⟩
def PWR_CFG_HS_MS : Fld := ⟨0x02, 0x04C, 15, 0⟩
/-- PWR_CFG, the whole word. -/
def PWR_CFG : Fld := ⟨0x02, 0x04C, 31, 0⟩
def PWR_WAKE_EN_EN : Fld := ⟨0x02, 0x050, 5, 0⟩
/-- PWR_WAKE_EN, the whole word. -/
def PWR_WAKE_EN : Fld := ⟨0x02, 0x050, 31, 0⟩
def PWR_WAKE_STAT_SEEN : Fld := ⟨0x02, 0x054, 6, 0⟩
def PWR_WAKE_STAT_FIRST : Fld := ⟨0x02, 0x054, 10, 8⟩
/-- PWR_WAKE_STAT, the whole word. -/
def PWR_WAKE_STAT : Fld := ⟨0x02, 0x054, 31, 0⟩
def PWR_DORM_RADIO_PERIOD_MS : Fld := ⟨0x02, 0x058, 31, 16⟩
def PWR_DORM_RADIO_LISTEN_MS : Fld := ⟨0x02, 0x058, 15, 0⟩
/-- PWR_DORM_RADIO, the whole word. -/
def PWR_DORM_RADIO : Fld := ⟨0x02, 0x058, 31, 0⟩
def PWR_RETSIG_CRC (b : Nat) : Fld := ⟨0x02, 0x060 + 0x4 * b, 31, 0⟩
/-- PWR_RETSIG, the whole word. -/
def PWR_RETSIG (b : Nat) : Fld := ⟨0x02, 0x060 + 0x4 * b, 31, 0⟩
def PWR_STAGE_A_REG_US : Fld := ⟨0x02, 0x070, 31, 16⟩
def PWR_STAGE_A_OSC_US : Fld := ⟨0x02, 0x070, 15, 0⟩
/-- PWR_STAGE_A, the whole word. -/
def PWR_STAGE_A : Fld := ⟨0x02, 0x070, 31, 0⟩
def PWR_STAGE_B_MEM_MS : Fld := ⟨0x02, 0x074, 31, 16⟩
def PWR_STAGE_B_LOGIC_US : Fld := ⟨0x02, 0x074, 15, 0⟩
/-- PWR_STAGE_B, the whole word. -/
def PWR_STAGE_B : Fld := ⟨0x02, 0x074, 31, 0⟩
def PWR_CNT_ENTRY_N : Fld := ⟨0x02, 0x080, 31, 0⟩
/-- PWR_CNT_ENTRY, the whole word. -/
def PWR_CNT_ENTRY : Fld := ⟨0x02, 0x080, 31, 0⟩
def PWR_CNT_ABANDON_N : Fld := ⟨0x02, 0x084, 31, 0⟩
/-- PWR_CNT_ABANDON, the whole word. -/
def PWR_CNT_ABANDON : Fld := ⟨0x02, 0x084, 31, 0⟩
def PWR_CNT_REFUSED_N : Fld := ⟨0x02, 0x088, 31, 0⟩
/-- PWR_CNT_REFUSED, the whole word. -/
def PWR_CNT_REFUSED : Fld := ⟨0x02, 0x088, 31, 0⟩
def PWR_CNT_CLR_CLR : Fld := ⟨0x02, 0x08C, 0, 0⟩
/-- PWR_CNT_CLR, the whole word. -/
def PWR_CNT_CLR : Fld := ⟨0x02, 0x08C, 31, 0⟩
def CLK_STAT_RUN : Fld := ⟨0x03, 0x040, 24, 16⟩
def CLK_STAT_READY : Fld := ⟨0x03, 0x040, 8, 0⟩
/-- CLK_STAT, the whole word. -/
def CLK_STAT : Fld := ⟨0x03, 0x040, 31, 0⟩
def CLK_FAIL_TIMEOUT : Fld := ⟨0x03, 0x044, 8, 0⟩
def CLK_FAIL_LOSS : Fld := ⟨0x03, 0x044, 24, 16⟩
/-- CLK_FAIL, the whole word. -/
def CLK_FAIL : Fld := ⟨0x03, 0x044, 31, 0⟩
def CLK_GATE_GATED_PM : Fld := ⟨0x03, 0x048, 9, 0⟩
/-- CLK_GATE, the whole word. -/
def CLK_GATE : Fld := ⟨0x03, 0x048, 31, 0⟩
def CLK_CNT_LOSS_N : Fld := ⟨0x03, 0x04C, 31, 0⟩
/-- CLK_CNT_LOSS, the whole word. -/
def CLK_CNT_LOSS : Fld := ⟨0x03, 0x04C, 31, 0⟩
def CLK_CNT_CLR_CLR : Fld := ⟨0x03, 0x050, 0, 0⟩
/-- CLK_CNT_CLR, the whole word. -/
def CLK_CNT_CLR : Fld := ⟨0x03, 0x050, 31, 0⟩
def AON_BKSTAT_LOST : Fld := ⟨0x04, 0x040, 31, 31⟩
def AON_BKSTAT_OSC_FAIL : Fld := ⟨0x04, 0x040, 30, 30⟩
def AON_BKSTAT_VBAT_LOW : Fld := ⟨0x04, 0x040, 29, 29⟩
def AON_BKSTAT_ON_VBAT : Fld := ⟨0x04, 0x040, 28, 28⟩
def AON_BKSTAT_BO_VALID : Fld := ⟨0x04, 0x040, 27, 27⟩
/-- AON_BKSTAT, the whole word. -/
def AON_BKSTAT : Fld := ⟨0x04, 0x040, 31, 0⟩
def AON_VBAT_MV : Fld := ⟨0x04, 0x044, 15, 0⟩
/-- AON_VBAT, the whole word. -/
def AON_VBAT : Fld := ⟨0x04, 0x044, 31, 0⟩
def AON_BO_SEC_SEC : Fld := ⟨0x04, 0x048, 31, 0⟩
/-- AON_BO_SEC, the whole word. -/
def AON_BO_SEC : Fld := ⟨0x04, 0x048, 31, 0⟩
def AON_RETSTAT_LOST_BANK : Fld := ⟨0x04, 0x04C, 3, 0⟩
/-- AON_RETSTAT, the whole word. -/
def AON_RETSTAT : Fld := ⟨0x04, 0x04C, 31, 0⟩
def AON_BKMEM_DATA (w : Nat) : Fld := ⟨0x04, 0x080 + 0x4 * w, 31, 0⟩
/-- AON_BKMEMw, the whole word. -/
def AON_BKMEM (w : Nat) : Fld := ⟨0x04, 0x080 + 0x4 * w, 31, 0⟩
def RTC_SEC_LO_S_LO : Fld := ⟨0x05, 0x040, 31, 0⟩
/-- RTC_SEC_LO, the whole word. -/
def RTC_SEC_LO : Fld := ⟨0x05, 0x040, 31, 0⟩
def RTC_SEC_HI_VALID : Fld := ⟨0x05, 0x044, 31, 31⟩
def RTC_SEC_HI_END : Fld := ⟨0x05, 0x044, 30, 30⟩
def RTC_SEC_HI_S_HI : Fld := ⟨0x05, 0x044, 0, 0⟩
/-- RTC_SEC_HI, the whole word. -/
def RTC_SEC_HI : Fld := ⟨0x05, 0x044, 31, 0⟩
def RTC_SUBSEC_COUNT : Fld := ⟨0x05, 0x048, 14, 0⟩
/-- RTC_SUBSEC, the whole word. -/
def RTC_SUBSEC : Fld := ⟨0x05, 0x048, 31, 0⟩
def RTC_CAL_DATE_YEAR : Fld := ⟨0x05, 0x04C, 27, 16⟩
def RTC_CAL_DATE_WDAY : Fld := ⟨0x05, 0x04C, 14, 12⟩
def RTC_CAL_DATE_MONTH : Fld := ⟨0x05, 0x04C, 11, 8⟩
def RTC_CAL_DATE_DAY : Fld := ⟨0x05, 0x04C, 4, 0⟩
/-- RTC_CAL_DATE, the whole word. -/
def RTC_CAL_DATE : Fld := ⟨0x05, 0x04C, 31, 0⟩
def RTC_CAL_TIME_HOUR : Fld := ⟨0x05, 0x050, 20, 16⟩
def RTC_CAL_TIME_MIN : Fld := ⟨0x05, 0x050, 13, 8⟩
def RTC_CAL_TIME_SEC : Fld := ⟨0x05, 0x050, 5, 0⟩
/-- RTC_CAL_TIME, the whole word. -/
def RTC_CAL_TIME : Fld := ⟨0x05, 0x050, 31, 0⟩
def RTC_SET_LO_S_LO : Fld := ⟨0x05, 0x060, 31, 0⟩
/-- RTC_SET_LO, the whole word. -/
def RTC_SET_LO : Fld := ⟨0x05, 0x060, 31, 0⟩
def RTC_SET_HI_S_HI : Fld := ⟨0x05, 0x064, 0, 0⟩
/-- RTC_SET_HI, the whole word. -/
def RTC_SET_HI : Fld := ⟨0x05, 0x064, 31, 0⟩
def RTC_SET_CTRL_GO : Fld := ⟨0x05, 0x068, 31, 31⟩
def RTC_SET_CTRL_PENDING : Fld := ⟨0x05, 0x068, 30, 30⟩
def RTC_SET_CTRL_AT_PTP : Fld := ⟨0x05, 0x068, 0, 0⟩
/-- RTC_SET_CTRL, the whole word. -/
def RTC_SET_CTRL : Fld := ⟨0x05, 0x068, 31, 0⟩
def RTC_DST_DST : Fld := ⟨0x05, 0x06C, 31, 31⟩
def RTC_DST_PENDING : Fld := ⟨0x05, 0x06C, 30, 30⟩
def RTC_DST_OUT_OF_RANGE : Fld := ⟨0x05, 0x06C, 29, 29⟩
def RTC_DST_CMD : Fld := ⟨0x05, 0x06C, 1, 0⟩
/-- RTC_DST, the whole word. -/
def RTC_DST : Fld := ⟨0x05, 0x06C, 31, 0⟩
def RTC_TRIM_T : Fld := ⟨0x05, 0x070, 9, 0⟩
/-- RTC_TRIM, the whole word. -/
def RTC_TRIM : Fld := ⟨0x05, 0x070, 31, 0⟩
def RTC_DISC_EN : Fld := ⟨0x05, 0x074, 31, 31⟩
def RTC_DISC_SHIFT : Fld := ⟨0x05, 0x074, 2, 0⟩
/-- RTC_DISC, the whole word. -/
def RTC_DISC : Fld := ⟨0x05, 0x074, 31, 0⟩
def RTC_DISC_STAT_PHASE_US : Fld := ⟨0x05, 0x078, 31, 16⟩
def RTC_DISC_STAT_REJECTED : Fld := ⟨0x05, 0x078, 15, 12⟩
def RTC_DISC_STAT_TM : Fld := ⟨0x05, 0x078, 9, 0⟩
/-- RTC_DISC_STAT, the whole word. -/
def RTC_DISC_STAT : Fld := ⟨0x05, 0x078, 31, 0⟩
def RTC_ALM_LO_T_LO (k : Nat) : Fld := ⟨0x05, 0x080 + 0x10 * k, 31, 0⟩
/-- RTC_ALMk_LO, the whole word. -/
def RTC_ALM_LO (k : Nat) : Fld := ⟨0x05, 0x080 + 0x10 * k, 31, 0⟩
def RTC_ALM_HI_T_HI (k : Nat) : Fld := ⟨0x05, 0x084 + 0x10 * k, 0, 0⟩
/-- RTC_ALMk_HI, the whole word. -/
def RTC_ALM_HI (k : Nat) : Fld := ⟨0x05, 0x084 + 0x10 * k, 31, 0⟩
def RTC_ALM_CTRL_EN (k : Nat) : Fld := ⟨0x05, 0x088 + 0x10 * k, 31, 31⟩
def RTC_ALM_CTRL_REARM_BACK (k : Nat) : Fld := ⟨0x05, 0x088 + 0x10 * k, 30, 30⟩
def RTC_ALM_CTRL_DONE (k : Nat) : Fld := ⟨0x05, 0x088 + 0x10 * k, 29, 29⟩
def RTC_ALM_CTRL_PERIOD_S (k : Nat) : Fld := ⟨0x05, 0x088 + 0x10 * k, 16, 0⟩
/-- RTC_ALMk_CTRL, the whole word. -/
def RTC_ALM_CTRL (k : Nat) : Fld := ⟨0x05, 0x088 + 0x10 * k, 31, 0⟩
def RTC_ALM_STAT_SKIPPED : Fld := ⟨0x05, 0x0C0, 11, 8⟩
def RTC_ALM_STAT_FIRED : Fld := ⟨0x05, 0x0C0, 3, 0⟩
/-- RTC_ALM_STAT, the whole word. -/
def RTC_ALM_STAT : Fld := ⟨0x05, 0x0C0, 31, 0⟩
def CAIRN_CFG_INTERVAL_S : Fld := ⟨0x06, 0x040, 15, 0⟩
/-- CAIRN_CFG, the whole word. -/
def CAIRN_CFG : Fld := ⟨0x06, 0x040, 31, 0⟩
def CAIRN_CTRL_AUTOINC : Fld := ⟨0x06, 0x044, 2, 2⟩
def CAIRN_CTRL_FLUSH : Fld := ⟨0x06, 0x044, 1, 1⟩
def CAIRN_CTRL_FREEZE : Fld := ⟨0x06, 0x044, 0, 0⟩
/-- CAIRN_CTRL, the whole word. -/
def CAIRN_CTRL : Fld := ⟨0x06, 0x044, 31, 0⟩
def CAIRN_STATUS_SCANNING : Fld := ⟨0x06, 0x048, 31, 31⟩
def CAIRN_STATUS_THAWED : Fld := ⟨0x06, 0x048, 30, 30⟩
def CAIRN_STATUS_STAGE_LOST : Fld := ⟨0x06, 0x048, 29, 29⟩
def CAIRN_STATUS_OPEN : Fld := ⟨0x06, 0x048, 13, 8⟩
def CAIRN_STATUS_STAGED : Fld := ⟨0x06, 0x048, 5, 0⟩
/-- CAIRN_STATUS, the whole word. -/
def CAIRN_STATUS : Fld := ⟨0x06, 0x048, 31, 0⟩
def CAIRN_HEAD_INDEX : Fld := ⟨0x06, 0x04C, 12, 0⟩
/-- CAIRN_HEAD, the whole word. -/
def CAIRN_HEAD : Fld := ⟨0x06, 0x04C, 31, 0⟩
def CAIRN_NEXT_SEQ_SEQ : Fld := ⟨0x06, 0x050, 31, 0⟩
/-- CAIRN_NEXT_SEQ, the whole word. -/
def CAIRN_NEXT_SEQ : Fld := ⟨0x06, 0x050, 31, 0⟩
def CAIRN_OLDEST_INDEX : Fld := ⟨0x06, 0x054, 12, 0⟩
/-- CAIRN_OLDEST, the whole word. -/
def CAIRN_OLDEST : Fld := ⟨0x06, 0x054, 31, 0⟩
def CAIRN_CURSOR_INDEX : Fld := ⟨0x06, 0x058, 12, 0⟩
/-- CAIRN_CURSOR, the whole word. -/
def CAIRN_CURSOR : Fld := ⟨0x06, 0x058, 31, 0⟩
def CAIRN_RAISE_CODE_CODE : Fld := ⟨0x06, 0x060, 15, 0⟩
/-- CAIRN_RAISE_CODE, the whole word. -/
def CAIRN_RAISE_CODE : Fld := ⟨0x06, 0x060, 31, 0⟩
def CAIRN_RAISE_DETAIL_DETAIL : Fld := ⟨0x06, 0x064, 31, 0⟩
/-- CAIRN_RAISE_DETAIL, the whole word. -/
def CAIRN_RAISE_DETAIL : Fld := ⟨0x06, 0x064, 31, 0⟩
def CAIRN_RAISE_CTRL_GO : Fld := ⟨0x06, 0x068, 31, 31⟩
def CAIRN_RAISE_CTRL_UNIT : Fld := ⟨0x06, 0x068, 7, 0⟩
/-- CAIRN_RAISE_CTRL, the whole word. -/
def CAIRN_RAISE_CTRL : Fld := ⟨0x06, 0x068, 31, 0⟩
def CAIRN_CNT_WRITTEN_N : Fld := ⟨0x06, 0x070, 31, 0⟩
/-- CAIRN_CNT_WRITTEN, the whole word. -/
def CAIRN_CNT_WRITTEN : Fld := ⟨0x06, 0x070, 31, 0⟩
def CAIRN_CNT_REPEAT_N : Fld := ⟨0x06, 0x074, 31, 0⟩
/-- CAIRN_CNT_REPEAT, the whole word. -/
def CAIRN_CNT_REPEAT : Fld := ⟨0x06, 0x074, 31, 0⟩
def CAIRN_CNT_LOST_N : Fld := ⟨0x06, 0x078, 31, 0⟩
/-- CAIRN_CNT_LOST, the whole word. -/
def CAIRN_CNT_LOST : Fld := ⟨0x06, 0x078, 31, 0⟩
def CAIRN_CNT_CLR_CLR : Fld := ⟨0x06, 0x07C, 0, 0⟩
/-- CAIRN_CNT_CLR, the whole word. -/
def CAIRN_CNT_CLR : Fld := ⟨0x06, 0x07C, 31, 0⟩
def CAIRN_WIN_BYTES (w : Nat) : Fld := ⟨0x06, 0x080 + 0x4 * w, 31, 0⟩
/-- CAIRN_WINw, the whole word. -/
def CAIRN_WIN (w : Nat) : Fld := ⟨0x06, 0x080 + 0x4 * w, 31, 0⟩
def CAIRN_MET_SRC_ADDR (m : Nat) : Fld := ⟨0x06, 0x100 + 0x10 * m, 31, 0⟩
/-- CAIRN_METm_SRC, the whole word. -/
def CAIRN_MET_SRC (m : Nat) : Fld := ⟨0x06, 0x100 + 0x10 * m, 31, 0⟩
def CAIRN_MET_CFG_EN (m : Nat) : Fld := ⟨0x06, 0x104 + 0x10 * m, 31, 31⟩
def CAIRN_MET_CFG_DELTA (m : Nat) : Fld := ⟨0x06, 0x104 + 0x10 * m, 30, 30⟩
def CAIRN_MET_CFG_SIGNED (m : Nat) : Fld := ⟨0x06, 0x104 + 0x10 * m, 29, 29⟩
def CAIRN_MET_CFG_SHIFT (m : Nat) : Fld := ⟨0x06, 0x104 + 0x10 * m, 28, 24⟩
def CAIRN_MET_CFG_WIDTH (m : Nat) : Fld := ⟨0x06, 0x104 + 0x10 * m, 20, 16⟩
def CAIRN_MET_CFG_SAMPLE_MS (m : Nat) : Fld := ⟨0x06, 0x104 + 0x10 * m, 15, 0⟩
/-- CAIRN_METm_CFG, the whole word. -/
def CAIRN_MET_CFG (m : Nat) : Fld := ⟨0x06, 0x104 + 0x10 * m, 31, 0⟩
def CAIRN_MET_LO_LO (m : Nat) : Fld := ⟨0x06, 0x108 + 0x10 * m, 31, 0⟩
/-- CAIRN_METm_LO, the whole word. -/
def CAIRN_MET_LO (m : Nat) : Fld := ⟨0x06, 0x108 + 0x10 * m, 31, 0⟩
def CAIRN_MET_STEP_STEP (m : Nat) : Fld := ⟨0x06, 0x10C + 0x10 * m, 31, 0⟩
/-- CAIRN_METm_STEP, the whole word. -/
def CAIRN_MET_STEP (m : Nat) : Fld := ⟨0x06, 0x10C + 0x10 * m, 31, 0⟩

-- The transmit slots and receive entries of SIDE: 0x80 bytes each (R375, R379).
def SIDE_TX_RESULT (t : Nat) : Fld := ⟨0x3C, 0x400 + 0x80 * t, 31, 28⟩
def SIDE_TX_CLASS (t : Nat) : Fld := ⟨0x3C, 0x400 + 0x80 * t, 27, 27⟩
def SIDE_TX_KIND (t : Nat) : Fld := ⟨0x3C, 0x400 + 0x80 * t, 26, 24⟩
def SIDE_TX_KEY (t : Nat) : Fld := ⟨0x3C, 0x400 + 0x80 * t, 23, 22⟩
def SIDE_TX_ACK_REQ (t : Nat) : Fld := ⟨0x3C, 0x400 + 0x80 * t, 21, 21⟩
def SIDE_TX_LINK (t : Nat) : Fld := ⟨0x3C, 0x400 + 0x80 * t, 20, 18⟩
def SIDE_TX_BUSY (t : Nat) : Fld := ⟨0x3C, 0x400 + 0x80 * t, 17, 17⟩
def SIDE_TX_LEN (t : Nat) : Fld := ⟨0x3C, 0x400 + 0x80 * t, 6, 0⟩
def SIDE_TX_DST (t : Nat) : Fld := ⟨0x3C, 0x404 + 0x80 * t, 31, 16⟩
def SIDE_TX_DEADLINE_MS (t : Nat) : Fld := ⟨0x3C, 0x404 + 0x80 * t, 15, 0⟩
def SIDE_TX_PAYLOAD (t w : Nat) : Fld := ⟨0x3C, 0x408 + 0x80 * t + 4 * w, 31, 0⟩
def SIDE_RX_FULL (e : Nat) : Fld := ⟨0x3C, 0xC00 + 0x80 * e, 31, 31⟩
def SIDE_RX_TYPE (e : Nat) : Fld := ⟨0x3C, 0xC00 + 0x80 * e, 30, 28⟩
def SIDE_RX_KEY (e : Nat) : Fld := ⟨0x3C, 0xC00 + 0x80 * e, 27, 26⟩
def SIDE_RX_VIA_LINK (e : Nat) : Fld := ⟨0x3C, 0xC00 + 0x80 * e, 25, 25⟩
def SIDE_RX_LINK (e : Nat) : Fld := ⟨0x3C, 0xC00 + 0x80 * e, 24, 22⟩
def SIDE_RX_LEN (e : Nat) : Fld := ⟨0x3C, 0xC00 + 0x80 * e, 14, 8⟩
def SIDE_RX_RSSI (e : Nat) : Fld := ⟨0x3C, 0xC00 + 0x80 * e, 7, 0⟩
def SIDE_RX_SRC (e : Nat) : Fld := ⟨0x3C, 0xC04 + 0x80 * e, 31, 16⟩
def SIDE_RX_DST (e : Nat) : Fld := ⟨0x3C, 0xC04 + 0x80 * e, 15, 0⟩
def SIDE_RX_FC (e : Nat) : Fld := ⟨0x3C, 0xC08 + 0x80 * e, 31, 0⟩
def SIDE_RX_NET_ID (e : Nat) : Fld := ⟨0x3C, 0xC0C + 0x80 * e, 15, 0⟩
def SIDE_RX_PAYLOAD (e w : Nat) : Fld := ⟨0x3C, 0xC10 + 0x80 * e + 4 * w, 31, 0⟩

end R

end Sys2Proof.Machine
end

