-- ==== Sys2Proof/Machine/RegMap.lean ====
section
/-! DEFINITION. The register map: for every page, the offsets of its registers, their reset values and the access
type of their bits (R7, R8), as the chapters' register tables give them. Banked registers stand once; what they hold
per hart is in the state's own fields. A reset value the spec marks "per …" or leaves undefined is 0 here; the state
sets it where a rule gives it (see the assumption log, entry 1). -/
namespace Sys2Proof.Machine

/-- A register (or an array of `count` registers `stride` bytes apart): for each access type of R8, the mask of
the bits that have it. Bits in no mask are reserved. -/
structure RegSpec where
  off : Nat
  stride : Nat
  count : Nat
  rw : Nat
  rwl : Nat
  w1c : Nat
  w1s : Nat
  wok : Nat
  wo : Nat
  ro : Nat
deriving DecidableEq, Repr

/-- The common page header (R10): PG_ID, PG_CTRL, PG_STATUS, PG_IRQ_RAW, PG_IRQ_EN, PG_IRQ_STAT, PG_FENCE, PG_LOCK. -/
def headerRegs : List RegSpec :=
  [⟨0x000, 0, 1, 0, 0, 0, 0, 0, 0, 0xFFFFFFFF⟩,
   ⟨0x004, 0, 1, 0x5, 0, 0, 0x2, 0, 0, 0⟩,
   ⟨0x008, 0, 1, 0, 0, 0, 0, 0, 0, 0xF⟩,
   ⟨0x00C, 0, 1, 0, 0, 0, 0, 0, 0, 0xF⟩,
   ⟨0x010, 0, 1, 0xF, 0, 0, 0, 0, 0, 0⟩,
   ⟨0x014, 0, 1, 0, 0, 0xF, 0, 0, 0, 0⟩,
   ⟨0x018, 0, 1, 0, 0, 0x80000000, 0, 0, 0, 0xFFFF⟩,
   ⟨0x01C, 0, 1, 0x1, 0, 0, 0, 0, 0xFFFF0000, 0x2⟩]

/-- The registers of page SYS, in offset order. -/
def regsSys : List RegSpec :=
  [⟨0x048, 0, 1, 0, 0, 0, 0, 0, 0, 0xFF0FF⟩,
   ⟨0x080, 0x4, 4, 0x80003FFF, 0, 0, 0, 0, 0, 0⟩,
   ⟨0x0C0, 0, 1, 0, 0, 0, 0, 0, 0, 0xFFFFFFFF⟩,
   ⟨0x0C4, 0, 1, 0, 0, 0, 0, 0, 0, 0xFFFFFFFF⟩,
   ⟨0x0C8, 0, 1, 0, 0, 0, 0, 0, 0, 0xFFFFFFFF⟩,
   ⟨0x0CC, 0, 1, 0, 0, 0, 0, 0, 0, 0x80070F01⟩,
   ⟨0x0D0, 0, 1, 0, 0, 0, 0, 0x1, 0, 0⟩,
   ⟨0x0E0, 0, 1, 0, 0, 0, 0, 0, 0x3, 0x30000⟩]

/-- The registers of page PTP, in offset order. -/
def regsPtp : List RegSpec :=
  [⟨0x040, 0, 1, 0, 0, 0, 0, 0, 0, 0xFFFFFFFF⟩,
   ⟨0x044, 0, 1, 0, 0, 0, 0, 0, 0, 0xF1F1F01⟩,
   ⟨0x048, 0, 1, 0, 0, 0, 0, 0, 0, 0xFFFFFFFF⟩,
   ⟨0x04C, 0, 1, 0, 0, 0, 0, 0, 0, 0xFF17⟩,
   ⟨0x050, 0, 1, 0, 0, 0, 0, 0, 0, 0xFFFFFFFF⟩,
   ⟨0x054, 0, 1, 0, 0, 0, 0, 0, 0, 0xFFFFFFFF⟩,
   ⟨0x058, 0, 1, 0, 0, 0, 0, 0, 0, 0xFFFFFFFF⟩,
   ⟨0x05C, 0, 1, 0, 0, 0, 0, 0, 0, 0xFF⟩,
   ⟨0x060, 0, 1, 0, 0, 0, 0, 0, 0, 0xFFFFFFFF⟩,
   ⟨0x064, 0, 1, 0, 0, 0x3F, 0, 0, 0, 0⟩,
   ⟨0x068, 0, 1, 0, 0, 0, 0, 0, 0, 0xFFFFFFFF⟩,
   ⟨0x06C, 0, 1, 0, 0, 0, 0, 0, 0, 0xFFFF⟩,
   ⟨0x070, 0, 1, 0, 0, 0, 0, 0, 0, 0x3FFFFFFF⟩,
   ⟨0x074, 0, 1, 0, 0, 0, 0, 0, 0, 0xFFFFFFFF⟩,
   ⟨0x078, 0, 1, 0, 0, 0, 0, 0, 0, 0xFFFFFFFF⟩,
   ⟨0x07C, 0, 1, 0, 0, 0, 0, 0, 0, 0xFFFFFFFF⟩,
   ⟨0x080, 0, 1, 0, 0, 0, 0, 0x1, 0, 0⟩,
   ⟨0x084, 0, 1, 0, 0, 0, 0, 0, 0, 0xFFFFFFFF⟩,
   ⟨0x088, 0, 1, 0, 0, 0, 0, 0, 0, 0xFFFFFFFF⟩]

/-- The registers of page COMMIT, in offset order. -/
def regsCommit : List RegSpec :=
  [⟨0x040, 0, 1, 0, 0, 0, 0, 0, 0, 0x1FFFF⟩,
   ⟨0x044, 0, 1, 0, 0, 0, 0, 0, 0, 0xFFFFFFFF⟩,
   ⟨0x048, 0, 1, 0, 0, 0, 0, 0, 0, 0xFFFF⟩,
   ⟨0x04C, 0, 1, 0, 0, 0, 0, 0, 0, 0xFFFFFF1F⟩,
   ⟨0x050, 0, 1, 0xFFFFFFFF, 0, 0, 0, 0, 0, 0⟩,
   ⟨0x054, 0, 1, 0x3, 0, 0, 0x80000000, 0, 0, 0⟩,
   ⟨0x058, 0x4, 4, 0, 0, 0, 0, 0, 0, 0x7FFFF⟩,
   ⟨0x068, 0, 1, 0x1FFFF, 0, 0, 0, 0, 0, 0⟩,
   ⟨0x06C, 0, 1, 0xFFFFFFFF, 0, 0, 0, 0, 0, 0⟩,
   ⟨0x070, 0, 1, 0xFFFF, 0, 0, 0, 0, 0, 0⟩,
   ⟨0x074, 0, 1, 0, 0, 0, 0x1, 0, 0, 0xF2⟩,
   ⟨0x078, 0, 1, 0, 0, 0, 0, 0, 0, 0xFFFFFFFF⟩,
   ⟨0x07C, 0, 1, 0, 0, 0, 0, 0, 0, 0xFFFFFFFF⟩,
   ⟨0x080, 0, 1, 0, 0, 0, 0, 0, 0, 0xFFFFFFFF⟩,
   ⟨0x084, 0, 1, 0, 0, 0, 0, 0, 0, 0xFFFFFFFF⟩,
   ⟨0x088, 0, 1, 0, 0, 0, 0, 0x1, 0, 0⟩]

/-- The registers of page PARTY, in offset order. -/
def regsParty : List RegSpec :=
  [⟨0x040, 0, 1, 0, 0, 0, 0, 0, 0, 0xFFFFFFFF⟩,
   ⟨0x044, 0, 1, 0, 0, 0, 0, 0, 0, 0xFFFFFFFF⟩,
   ⟨0x048, 0, 1, 0, 0, 0, 0, 0, 0, 0xFFFFFFFF⟩,
   ⟨0x04C, 0, 1, 0, 0, 0, 0, 0, 0, 0xFFFFFFFF⟩,
   ⟨0x050, 0, 1, 0, 0, 0, 0, 0, 0, 0xFFFFFFFF⟩,
   ⟨0x054, 0, 1, 0, 0, 0, 0, 0, 0, 0xFFFF⟩,
   ⟨0x058, 0, 1, 0, 0, 0, 0, 0, 0, 0xFFFFFFFF⟩,
   ⟨0x05C, 0, 1, 0, 0, 0, 0, 0, 0, 0x7FF07FF⟩,
   ⟨0x060, 0, 1, 0, 0, 0, 0, 0, 0, 0xFFFF87FF⟩,
   ⟨0x064, 0, 1, 0, 0, 0, 0, 0, 0, 0xFFFFFFFF⟩,
   ⟨0x068, 0, 1, 0, 0, 0, 0, 0, 0, 0xFFFFFFFF⟩,
   ⟨0x06C, 0, 1, 0, 0, 0, 0, 0, 0, 0x3FFFFFF⟩,
   ⟨0x070, 0, 1, 0x1F, 0, 0, 0, 0, 0, 0⟩,
   ⟨0x074, 0, 1, 0, 0, 0, 0, 0, 0, 0xFFFFFFFF⟩,
   ⟨0x078, 0, 1, 0, 0, 0, 0, 0x1, 0, 0⟩,
   ⟨0x080, 0, 1, 0, 0, 0, 0, 0, 0, 0xFFFF⟩,
   ⟨0x084, 0, 1, 0, 0, 0, 0, 0, 0, 0xFFFFFFFF⟩,
   ⟨0x088, 0, 1, 0, 0, 0, 0, 0, 0, 0xFFFFFFFF⟩,
   ⟨0x08C, 0, 1, 0, 0, 0, 0, 0, 0, 0xFFFFFFFF⟩,
   ⟨0x090, 0, 1, 0, 0, 0, 0, 0, 0, 0xFFFFFFFF⟩,
   ⟨0x094, 0, 1, 0, 0, 0, 0, 0, 0, 0xFFFFFFFF⟩,
   ⟨0x098, 0, 1, 0, 0, 0, 0, 0, 0, 0xFFFFFFFF⟩,
   ⟨0x09C, 0, 1, 0, 0, 0, 0, 0, 0, 0x81FF07FF⟩,
   ⟨0x0A0, 0, 1, 0, 0, 0, 0, 0, 0, 0x7FF⟩,
   ⟨0x0A4, 0, 1, 0, 0, 0, 0, 0, 0, 0x7FFFF03⟩,
   ⟨0x0B0, 0, 1, 0, 0, 0, 0, 0, 0, 0xFFFFFFFF⟩,
   ⟨0x0B4, 0, 1, 0, 0, 0, 0, 0, 0, 0xFFFFFFFF⟩,
   ⟨0x0B8, 0, 1, 0, 0, 0, 0, 0, 0, 0xFFFFFFFF⟩,
   ⟨0x0BC, 0, 1, 0, 0, 0, 0, 0x1, 0, 0⟩,
   ⟨0x0C0, 0, 1, 0, 0, 0, 0, 0, 0, 0xFFFFFFFF⟩] ++
  [⟨0x0C4, 0, 1, 0, 0, 0, 0, 0, 0, 0xFFFF⟩,
   ⟨0x0C8, 0, 1, 0, 0, 0, 0, 0, 0, 0xFFFFFFFF⟩,
   ⟨0x0CC, 0, 1, 0, 0, 0, 0, 0, 0, 0xFFFF⟩,
   ⟨0x0D0, 0, 1, 0, 0, 0, 0, 0, 0, 0x80000003⟩]

/-- The registers of page NETA and NETB, in offset order. -/
def regsNet : List RegSpec :=
  [⟨0x040, 0, 1, 0, 0, 0, 0, 0, 0, 0x7FFF0037⟩,
   ⟨0x044, 0, 1, 0, 0, 0, 0, 0, 0, 0xFFFFFFFF⟩,
   ⟨0x048, 0, 1, 0, 0, 0, 0, 0, 0, 0xFFFFFFFF⟩,
   ⟨0x04C, 0, 1, 0, 0, 0, 0, 0, 0, 0xFFFF⟩,
   ⟨0x050, 0, 1, 0, 0, 0, 0, 0, 0, 0xFFF37⟩,
   ⟨0x060, 0, 1, 0, 0, 0, 0, 0, 0, 0xFFFFFFFF⟩,
   ⟨0x064, 0, 1, 0, 0, 0, 0, 0, 0, 0xFFFFFFFF⟩,
   ⟨0x068, 0, 1, 0, 0, 0, 0, 0, 0, 0xFFFFFFFF⟩,
   ⟨0x06C, 0, 1, 0, 0, 0, 0, 0, 0, 0xFFFFFFFF⟩,
   ⟨0x070, 0, 1, 0, 0, 0, 0, 0, 0, 0xFFFFFFFF⟩,
   ⟨0x074, 0, 1, 0, 0, 0, 0, 0, 0, 0xFFFFFFFF⟩,
   ⟨0x078, 0, 1, 0, 0, 0, 0, 0, 0, 0xFFFFFFFF⟩,
   ⟨0x07C, 0, 1, 0, 0, 0, 0, 0, 0, 0xFFFFFFFF⟩,
   ⟨0x080, 0, 1, 0, 0, 0, 0, 0x1, 0, 0⟩]

/-- The registers of page INGEST, in offset order. -/
def regsIngest : List RegSpec :=
  [⟨0x040, 0, 1, 0, 0, 0, 0, 0, 0, 0x7F⟩,
   ⟨0x044, 0, 1, 0, 0, 0, 0, 0, 0, 0x1FFF1FFF⟩,
   ⟨0x080, 0x20, 4, 0, 0, 0, 0, 0, 0, 0xFF80007F⟩,
   ⟨0x084, 0x20, 4, 0, 0, 0, 0, 0, 0, 0x7FFF3FFF⟩,
   ⟨0x088, 0x20, 4, 0, 0, 0, 0, 0, 0, 0xFFFFFFFF⟩,
   ⟨0x08C, 0x20, 4, 0, 0, 0, 0, 0, 0, 0xFFFFFFFF⟩,
   ⟨0x090, 0x20, 4, 0, 0, 0, 0, 0, 0, 0xFFFFFFFF⟩,
   ⟨0x094, 0x20, 4, 0, 0, 0, 0, 0, 0, 0xFFFFFFFF⟩,
   ⟨0x098, 0x20, 4, 0, 0, 0, 0, 0, 0, 0xFFFFFFFF⟩,
   ⟨0x100, 0x10, 4, 0, 0, 0, 0, 0, 0, 0xB0000007⟩,
   ⟨0x104, 0x10, 4, 0, 0, 0, 0, 0, 0, 0x3FFF1FFF⟩,
   ⟨0x108, 0x10, 4, 0, 0, 0, 0, 0, 0, 0x1FFF1FFF⟩,
   ⟨0x10C, 0x10, 4, 0, 0, 0, 0, 0, 0, 0x1FFF1FFF⟩,
   ⟨0x200, 0x20, 4, 0, 0, 0, 0, 0, 0, 0xFFFFFFFF⟩,
   ⟨0x204, 0x20, 4, 0, 0, 0, 0, 0, 0, 0xFFFFFFFF⟩,
   ⟨0x208, 0x20, 4, 0, 0, 0, 0, 0, 0, 0xFFFFFFFF⟩,
   ⟨0x20C, 0x20, 4, 0, 0, 0, 0, 0, 0, 0xFFFFFFFF⟩,
   ⟨0x210, 0x20, 4, 0, 0, 0, 0, 0, 0, 0xFFFFFFFF⟩,
   ⟨0x214, 0x20, 4, 0, 0, 0, 0, 0, 0, 0xFFFFFFFF⟩,
   ⟨0x218, 0x20, 4, 0, 0, 0, 0, 0, 0, 0xFFFFFFFF⟩,
   ⟨0x21C, 0x20, 4, 0, 0, 0, 0, 0, 0, 0xFFFFFFFF⟩,
   ⟨0x280, 0, 1, 0, 0, 0, 0, 0, 0, 0xFF0310⟩,
   ⟨0x284, 0, 1, 0, 0, 0, 0, 0, 0, 0x800000F1⟩,
   ⟨0x288, 0, 1, 0, 0, 0, 0, 0, 0, 0xFFFFFFFF⟩,
   ⟨0x28C, 0, 1, 0, 0, 0, 0, 0x1, 0, 0⟩]

/-- The registers of page XSDEC, in offset order. -/
def regsXsdec : List RegSpec :=
  [⟨0x040, 0, 1, 0, 0, 0, 0, 0, 0, 0xFFFFFFFF⟩,
   ⟨0x044, 0, 1, 0, 0, 0, 0, 0, 0, 0xFFFFFFFF⟩,
   ⟨0x048, 0, 1, 0, 0, 0, 0, 0, 0, 0xFFFF03FF⟩,
   ⟨0x04C, 0, 1, 0, 0, 0, 0, 0, 0, 0xFFFF⟩,
   ⟨0x050, 0, 1, 0, 0, 0, 0, 0x1, 0, 0⟩]

/-- The registers of page STORE, in offset order. -/
def regsStore : List RegSpec :=
  [⟨0x040, 0, 1, 0, 0, 0, 0, 0, 0, 0xFFFFFFFF⟩,
   ⟨0x044, 0, 1, 0, 0, 0, 0, 0, 0, 0xFFFF0007⟩,
   ⟨0x048, 0, 1, 0, 0, 0, 0, 0, 0, 0xFF⟩,
   ⟨0x04C, 0, 1, 0, 0, 0, 0, 0, 0, 0xFFFFFFFF⟩,
   ⟨0x050, 0, 1, 0, 0, 0, 0, 0, 0, 0xFFFFFFFF⟩,
   ⟨0x054, 0, 1, 0, 0, 0, 0, 0, 0, 0xFFFFFFFF⟩,
   ⟨0x058, 0, 1, 0, 0, 0, 0, 0, 0, 0xFFFFFFFF⟩,
   ⟨0x05C, 0, 1, 0, 0, 0, 0, 0, 0, 0xFFFFFFFF⟩,
   ⟨0x060, 0, 1, 0, 0, 0, 0, 0, 0, 0xFFFFFFFF⟩,
   ⟨0x064, 0, 1, 0, 0, 0, 0, 0, 0, 0xFF⟩,
   ⟨0x068, 0, 1, 0, 0, 0, 0, 0, 0, 0x800707FF⟩,
   ⟨0x06C, 0, 1, 0, 0, 0, 0, 0, 0, 0xFFFFFFFF⟩,
   ⟨0x070, 0, 1, 0, 0, 0, 0, 0, 0, 0xFF⟩,
   ⟨0x074, 0, 1, 0, 0, 0, 0, 0, 0, 0x1FFFFF⟩,
   ⟨0x078, 0, 1, 0, 0, 0, 0, 0x1, 0, 0⟩]

/-- The registers of page ARB, in offset order. -/
def regsArb : List RegSpec :=
  [⟨0x040, 0, 1, 0, 0, 0, 0, 0, 0, 0x1F⟩,
   ⟨0x080, 0x4, 5, 0, 0, 0, 0, 0, 0, 0xFFFFFFFF⟩,
   ⟨0x0A0, 0x4, 5, 0, 0, 0, 0, 0, 0, 0xFFFF⟩,
   ⟨0x0C0, 0, 1, 0, 0, 0, 0, 0x1, 0, 0⟩]

/-- The registers of page SCREE, in offset order. -/
def regsScree : List RegSpec :=
  [⟨0x040, 0, 1, 0, 0, 0, 0, 0, 0, 0xFFFFFFFF⟩,
   ⟨0x044, 0, 1, 0, 0, 0, 0, 0, 0, 0xFFFFFFFF⟩,
   ⟨0x048, 0, 1, 0, 0, 0, 0, 0, 0, 0xFFFFFFFF⟩,
   ⟨0x04C, 0, 1, 0, 0, 0, 0, 0, 0, 0xFFFFFFFF⟩,
   ⟨0x050, 0, 1, 0, 0, 0, 0, 0, 0, 0xFFFFFFFF⟩,
   ⟨0x054, 0, 1, 0, 0, 0, 0, 0, 0, 0xFFFFFFFF⟩,
   ⟨0x058, 0, 1, 0, 0, 0, 0, 0x1, 0, 0⟩]

/-- The registers of page PIPE, in offset order. -/
def regsPipe : List RegSpec :=
  [⟨0x040, 0, 1, 0, 0, 0, 0, 0, 0, 0x3⟩,
   ⟨0x044, 0, 1, 0, 0, 0, 0, 0, 0, 0xFFFF⟩,
   ⟨0x048, 0, 1, 0, 0, 0, 0, 0, 0, 0xFFFFFFFF⟩,
   ⟨0x04C, 0, 1, 0, 0, 0, 0, 0, 0, 0xFFFFFFFF⟩,
   ⟨0x050, 0, 1, 0, 0, 0, 0, 0, 0, 0x8F03FFFF⟩,
   ⟨0x054, 0, 1, 0, 0, 0, 0, 0, 0, 0xFFFFFFFF⟩,
   ⟨0x058, 0, 1, 0, 0, 0, 0, 0, 0, 0xFFFFFFFF⟩,
   ⟨0x05C, 0, 1, 0, 0, 0, 0, 0, 0, 0xFFFFFFFF⟩,
   ⟨0x060, 0x4, 4, 0, 0, 0, 0, 0, 0, 0xFFFFF⟩,
   ⟨0x070, 0, 1, 0, 0, 0, 0, 0, 0, 0xFFFFFFFF⟩,
   ⟨0x074, 0, 1, 0, 0, 0, 0, 0, 0, 0xFFFFFFFF⟩,
   ⟨0x078, 0, 1, 0, 0, 0, 0, 0, 0, 0xFFFFFFFF⟩,
   ⟨0x07C, 0, 1, 0, 0, 0, 0, 0, 0, 0xFFFFFFFF⟩,
   ⟨0x080, 0, 1, 0, 0, 0, 0, 0x1, 0, 0⟩]

/-- The registers of page CAL, in offset order. -/
def regsCal : List RegSpec :=
  [⟨0x040, 0, 1, 0, 0, 0, 0, 0, 0, 0xFFFFFFFF⟩,
   ⟨0x044, 0, 1, 0, 0, 0, 0, 0, 0, 0x1⟩,
   ⟨0x048, 0, 1, 0, 0, 0, 0, 0, 0, 0xFFFFFFFF⟩,
   ⟨0x04C, 0, 1, 0, 0, 0, 0, 0, 0, 0x803FFFFF⟩,
   ⟨0x050, 0, 1, 0, 0, 0, 0, 0, 0, 0x3FFFFF⟩,
   ⟨0x054, 0, 1, 0, 0, 0, 0, 0x1, 0, 0⟩]

/-- The registers of page DITH, in offset order. -/
def regsDith : List RegSpec :=
  [⟨0x040, 0, 1, 0, 0, 0, 0, 0, 0, 0x1F⟩,
   ⟨0x044, 0, 1, 0, 0, 0, 0, 0, 0, 0xFFFFFFFF⟩,
   ⟨0x048, 0, 1, 0, 0, 0, 0, 0, 0, 0xFFFFF⟩,
   ⟨0x04C, 0, 1, 0, 0, 0, 0, 0, 0, 0xFFFFF⟩]

/-- The registers of page GOV, in offset order. -/
def regsGov : List RegSpec :=
  [⟨0x040, 0, 1, 0, 0, 0, 0, 0, 0, 0x1⟩,
   ⟨0x044, 0, 1, 0, 0, 0, 0, 0, 0, 0xFFFFFFFF⟩,
   ⟨0x048, 0, 1, 0, 0, 0, 0, 0, 0, 0xFFFFFFFF⟩,
   ⟨0x04C, 0, 1, 0, 0, 0, 0, 0, 0, 0xFFFF⟩,
   ⟨0x050, 0, 1, 0, 0, 0, 0, 0, 0, 0xFFFFFFFF⟩,
   ⟨0x054, 0, 1, 0, 0, 0, 0, 0, 0, 0xFFFFFFFF⟩,
   ⟨0x080, 0x10, 12, 0, 0, 0, 0, 0, 0, 0xFFFFF⟩,
   ⟨0x084, 0x10, 12, 0, 0, 0, 0, 0, 0, 0xFFFFFFFF⟩,
   ⟨0x088, 0x10, 12, 0, 0, 0, 0, 0, 0, 0xFFFFFFFF⟩,
   ⟨0x140, 0, 1, 0, 0, 0, 0, 0, 0, 0xFFFFFFFF⟩,
   ⟨0x144, 0, 1, 0, 0, 0, 0, 0, 0, 0xFFFFFFFF⟩,
   ⟨0x148, 0, 1, 0, 0, 0, 0, 0, 0, 0xFFFFFFFF⟩,
   ⟨0x14C, 0, 1, 0, 0, 0, 0, 0, 0, 0xFFFFFFFF⟩,
   ⟨0x150, 0, 1, 0, 0, 0, 0, 0, 0, 0xFFFFFFFF⟩,
   ⟨0x154, 0, 1, 0, 0, 0, 0, 0, 0, 0xFFFF⟩,
   ⟨0x160, 0, 1, 0, 0, 0, 0, 0, 0, 0xFFFFFFFF⟩,
   ⟨0x164, 0, 1, 0, 0, 0, 0, 0, 0, 0xFFFFFFFF⟩,
   ⟨0x168, 0, 1, 0, 0, 0, 0, 0, 0, 0xFFFFFFFF⟩,
   ⟨0x16C, 0, 1, 0, 0, 0, 0, 0, 0, 0x80000003⟩,
   ⟨0x180, 0x4, 12, 0, 0, 0, 0, 0, 0, 0xFFFFFFFF⟩,
   ⟨0x1C0, 0, 1, 0, 0, 0, 0, 0, 0, 0xFFFFFFFF⟩,
   ⟨0x1C4, 0, 1, 0, 0, 0, 0, 0, 0, 0xFFFFFFFF⟩,
   ⟨0x1C8, 0, 1, 0, 0, 0, 0, 0, 0, 0xFFFFFFFF⟩,
   ⟨0x1CC, 0, 1, 0, 0, 0, 0, 0, 0, 0xFFFFFFFF⟩,
   ⟨0x1E0, 0, 1, 0, 0, 0, 0, 0, 0, 0xFFFFFFFF⟩,
   ⟨0x1E4, 0, 1, 0, 0, 0, 0, 0, 0, 0x8000FFFF⟩,
   ⟨0x1E8, 0, 1, 0, 0, 0, 0, 0, 0, 0xFFFFFFFF⟩,
   ⟨0x1EC, 0, 1, 0, 0, 0, 0, 0, 0, 0xFFFF⟩,
   ⟨0x200, 0x8, 12, 0, 0, 0, 0, 0, 0, 0xFFFFFFFF⟩,
   ⟨0x204, 0x8, 12, 0, 0, 0, 0, 0, 0, 0xFFFFFFFF⟩] ++
  [⟨0x260, 0, 1, 0, 0, 0, 0x1, 0, 0, 0x2⟩,
   ⟨0x264, 0, 1, 0, 0, 0, 0, 0, 0, 0xFFFFFFFF⟩,
   ⟨0x268, 0, 1, 0, 0, 0, 0, 0, 0, 0xFFFF⟩,
   ⟨0x270, 0, 1, 0, 0, 0, 0, 0, 0, 0xFFFFFFFF⟩,
   ⟨0x274, 0, 1, 0, 0, 0, 0, 0, 0, 0xFFFFFFFF⟩,
   ⟨0x278, 0, 1, 0, 0, 0, 0, 0x1, 0, 0⟩]

/-- The registers of page STR0 to STR3, in offset order. -/
def regsStr : List RegSpec :=
  [⟨0x040, 0, 1, 0, 0, 0, 0, 0, 0, 0xFFF0003⟩,
   ⟨0x044, 0, 1, 0, 0, 0, 0, 0, 0, 0xFFFFFF⟩,
   ⟨0x048, 0, 1, 0, 0, 0, 0, 0, 0, 0xFF7F⟩,
   ⟨0x04C, 0, 1, 0, 0, 0, 0, 0, 0, 0xFFFFFFFF⟩,
   ⟨0x050, 0, 1, 0, 0, 0, 0, 0, 0, 0xFFFFFFFF⟩,
   ⟨0x080, 0x4, 12, 0, 0, 0, 0, 0, 0, 0x7FFFF⟩,
   ⟨0x0C0, 0x4, 12, 0, 0, 0, 0, 0, 0, 0x1FF01FF⟩,
   ⟨0x100, 0, 1, 0xF, 0, 0, 0, 0, 0, 0⟩,
   ⟨0x104, 0, 1, 0, 0, 0, 0, 0, 0, 0xCFFF0FFF⟩,
   ⟨0x110, 0, 1, 0, 0, 0, 0, 0, 0, 0xFFFFFFFF⟩,
   ⟨0x114, 0, 1, 0, 0, 0, 0, 0, 0, 0xFFFFFFFF⟩,
   ⟨0x118, 0, 1, 0, 0, 0, 0, 0, 0, 0xFFFFFFFF⟩,
   ⟨0x11C, 0, 1, 0, 0, 0, 0, 0, 0, 0xFFFFFFFF⟩,
   ⟨0x120, 0, 1, 0, 0, 0, 0, 0, 0, 0xFFFFFFFF⟩,
   ⟨0x124, 0, 1, 0, 0, 0, 0, 0, 0, 0xFFFFFFFF⟩,
   ⟨0x128, 0, 1, 0, 0, 0, 0, 0, 0, 0xFFFFFFFF⟩,
   ⟨0x12C, 0, 1, 0, 0, 0, 0, 0, 0, 0xFF00FFFF⟩,
   ⟨0x140, 0, 1, 0, 0, 0, 0, 0, 0, 0xFFFFFFFF⟩,
   ⟨0x144, 0, 1, 0, 0, 0, 0, 0x1, 0, 0⟩]

/-- The registers of page PRESENT, in offset order. -/
def regsPresent : List RegSpec :=
  [⟨0x040, 0, 1, 0, 0, 0, 0, 0, 0, 0xFFFFFFFF⟩,
   ⟨0x044, 0, 1, 0, 0, 0, 0, 0, 0, 0xFFFF⟩,
   ⟨0x048, 0, 1, 0, 0, 0, 0, 0, 0, 0x80000003⟩,
   ⟨0x050, 0, 1, 0, 0, 0, 0, 0, 0, 0xFFFFFFFF⟩,
   ⟨0x054, 0, 1, 0, 0, 0, 0, 0, 0, 0xFFFFFFFF⟩,
   ⟨0x058, 0, 1, 0, 0, 0, 0, 0x1, 0, 0⟩,
   ⟨0x080, 0x4, 48, 0, 0, 0, 0, 0, 0, 0x7FF07FF⟩]

/-- The registers of page RAIL, in offset order. -/
def regsRail : List RegSpec :=
  [⟨0x040, 0, 1, 0x4, 0, 0, 0, 0, 0, 0x3⟩,
   ⟨0x044, 0x4, 12, 0, 0, 0, 0, 0, 0, 0xFFFFFFFF⟩,
   ⟨0x080, 0x20, 12, 0, 0, 0, 0, 0, 0, 0xFF7F0F⟩,
   ⟨0x084, 0x20, 12, 0, 0, 0, 0, 0, 0, 0xFFFFFFFF⟩,
   ⟨0x088, 0x20, 12, 0, 0, 0, 0, 0, 0, 0xFFFFFFFF⟩,
   ⟨0x08C, 0x20, 12, 0, 0, 0, 0, 0, 0, 0xFFFF⟩,
   ⟨0x090, 0x20, 12, 0, 0, 0, 0, 0, 0, 0xFFFFFFFF⟩,
   ⟨0x094, 0x20, 12, 0, 0, 0, 0, 0, 0, 0xFFFFFF⟩,
   ⟨0x098, 0x20, 12, 0, 0, 0, 0, 0, 0, 0xFFF0FFF⟩,
   ⟨0x09C, 0x20, 12, 0, 0, 0, 0, 0, 0, 0xFFFF0FFF⟩,
   ⟨0x200, 0x4, 24, 0, 0, 0, 0, 0, 0, 0xFFFFFFFF⟩,
   ⟨0x300, 0, 1, 0, 0, 0, 0, 0, 0, 0xFFF0FFF⟩,
   ⟨0x304, 0, 1, 0, 0, 0, 0, 0, 0, 0xFFFFFFFF⟩,
   ⟨0x308, 0, 1, 0, 0, 0, 0, 0, 0, 0xFFFFFFFF⟩,
   ⟨0x30C, 0, 1, 0, 0, 0, 0, 0, 0, 0xFFFFFFFF⟩,
   ⟨0x310, 0, 1, 0, 0, 0, 0, 0x1, 0, 0⟩,
   ⟨0x340, 0x4, 12, 0, 0, 0, 0, 0, 0, 0xFFFFFFFF⟩,
   ⟨0x380, 0x4, 12, 0, 0, 0, 0, 0, 0, 0xFFFFFFFF⟩,
   ⟨0x3C0, 0x4, 12, 0, 0, 0, 0, 0, 0, 0xFFFFFFFF⟩,
   ⟨0x400, 0x4, 12, 0, 0, 0, 0, 0, 0, 0xFFFF0007⟩]

/-- The registers of page TELEM, in offset order. -/
def regsTelem : List RegSpec :=
  [⟨0x040, 0, 1, 0xFFFFF, 0, 0, 0, 0, 0, 0⟩,
   ⟨0x044, 0, 1, 0, 0, 0, 0x1, 0, 0, 0⟩,
   ⟨0x048, 0, 1, 0, 0, 0, 0, 0, 0, 0xFFFFFFFF⟩,
   ⟨0x04C, 0, 1, 0, 0, 0, 0, 0, 0xFFFFFFFF, 0⟩,
   ⟨0x050, 0, 1, 0, 0, 0x20000000, 0, 0, 0, 0xDFFF1FFF⟩,
   ⟨0x054, 0, 1, 0, 0, 0, 0, 0, 0, 0xF⟩,
   ⟨0x060, 0, 1, 0, 0, 0, 0, 0, 0, 0xFFFFFFFF⟩,
   ⟨0x064, 0, 1, 0, 0, 0, 0, 0, 0, 0xFFFFFFFF⟩,
   ⟨0x068, 0, 1, 0, 0, 0, 0, 0, 0, 0xFFFFFFFF⟩,
   ⟨0x06C, 0, 1, 0, 0, 0, 0, 0, 0, 0xFFFFFFFF⟩,
   ⟨0x070, 0, 1, 0, 0, 0, 0, 0, 0, 0xFFFFFFFF⟩,
   ⟨0x074, 0, 1, 0, 0, 0, 0, 0x1, 0, 0⟩]

/-- The registers of page METER_AC, in offset order. -/
def regsMeterAc : List RegSpec :=
  [⟨0x040, 0, 1, 0, 0, 0, 0, 0, 0, 0xF7F0FF0⟩,
   ⟨0x044, 0x4, 3, 0, 0, 0, 0, 0, 0, 0xFFFFFFFF⟩,
   ⟨0x050, 0x4, 3, 0, 0, 0, 0, 0, 0, 0xFFFFFF⟩,
   ⟨0x060, 0x4, 4, 0, 0, 0, 0, 0, 0, 0xFFFFFFFF⟩,
   ⟨0x080, 0x4, 4, 0, 0, 0, 0, 0, 0, 0xFFFFFFFF⟩,
   ⟨0x090, 0x4, 4, 0, 0, 0, 0, 0, 0, 0xFFFFFFFF⟩,
   ⟨0x0A0, 0x4, 4, 0, 0, 0, 0, 0, 0, 0xFFFFFFFF⟩,
   ⟨0x0B0, 0x4, 4, 0, 0, 0, 0, 0, 0, 0xFFFFFFFF⟩,
   ⟨0x0C0, 0x4, 4, 0, 0, 0, 0, 0, 0, 0xFFFFFFFF⟩,
   ⟨0x0D0, 0x4, 4, 0, 0, 0, 0, 0, 0, 0xFFFFFFFF⟩,
   ⟨0x0E0, 0x4, 4, 0, 0, 0, 0, 0, 0, 0xFFFFFFFF⟩,
   ⟨0x0F0, 0x4, 4, 0, 0, 0, 0, 0, 0, 0xFFFFFFFF⟩,
   ⟨0x100, 0x4, 4, 0, 0, 0, 0, 0, 0, 0xFFFFFFFF⟩,
   ⟨0x110, 0x4, 4, 0, 0, 0, 0, 0, 0, 0xFFFFFFFF⟩,
   ⟨0x120, 0x4, 4, 0, 0, 0, 0, 0, 0, 0xFFFFFFFF⟩,
   ⟨0x130, 0x4, 4, 0, 0, 0, 0, 0, 0, 0xFFFFFFFF⟩,
   ⟨0x180, 0, 1, 0, 0, 0, 0, 0, 0, 0x7F7F7F7F⟩,
   ⟨0x184, 0, 1, 0, 0, 0, 0, 0, 0, 0xFFFFFFFF⟩,
   ⟨0x188, 0x4, 3, 0, 0, 0, 0, 0, 0, 0xFFFFFFFF⟩,
   ⟨0x194, 0x4, 4, 0, 0, 0, 0, 0, 0, 0xFFFFFFFF⟩,
   ⟨0x1A4, 0x4, 3, 0, 0, 0, 0, 0, 0, 0xFFFFFFFF⟩,
   ⟨0x1B0, 0x4, 3, 0, 0, 0, 0, 0, 0, 0xFFFFFFFF⟩,
   ⟨0x1BC, 0x4, 3, 0, 0, 0, 0, 0, 0, 0xFFFF⟩,
   ⟨0x1C8, 0, 1, 0, 0, 0, 0, 0, 0, 0xFFFFFFFF⟩,
   ⟨0x1CC, 0, 1, 0, 0, 0, 0, 0, 0, 0xFFFFFFFF⟩,
   ⟨0x1D0, 0, 1, 0, 0, 0, 0, 0x1, 0, 0⟩]

/-- The registers of page METER_DC, in offset order. -/
def regsMeterDc : List RegSpec :=
  [⟨0x040, 0, 1, 0, 0, 0, 0, 0, 0, 0xFFF⟩,
   ⟨0x080, 0x30, 12, 0, 0, 0, 0, 0, 0, 0xFFFFFFFF⟩,
   ⟨0x084, 0x30, 12, 0, 0, 0, 0, 0, 0, 0xFFFFFF⟩,
   ⟨0x088, 0x30, 12, 0, 0, 0, 0, 0, 0, 0x3FFFF⟩,
   ⟨0x090, 0x4, 4, 0, 0, 0, 0, 0, 0, 0xFFFFFFFF⟩,
   ⟨0x0A0, 0x4, 4, 0, 0, 0, 0, 0, 0, 0xFFFFFFFF⟩,
   ⟨0x0C0, 0x4, 4, 0, 0, 0, 0, 0, 0, 0xFFFFFFFF⟩,
   ⟨0x0D0, 0x4, 4, 0, 0, 0, 0, 0, 0, 0xFFFFFFFF⟩,
   ⟨0x0F0, 0x4, 4, 0, 0, 0, 0, 0, 0, 0xFFFFFFFF⟩,
   ⟨0x100, 0x4, 4, 0, 0, 0, 0, 0, 0, 0xFFFFFFFF⟩,
   ⟨0x120, 0x4, 4, 0, 0, 0, 0, 0, 0, 0xFFFFFFFF⟩,
   ⟨0x130, 0x4, 4, 0, 0, 0, 0, 0, 0, 0xFFFFFFFF⟩,
   ⟨0x150, 0x4, 4, 0, 0, 0, 0, 0, 0, 0xFFFFFFFF⟩,
   ⟨0x160, 0x4, 4, 0, 0, 0, 0, 0, 0, 0xFFFFFFFF⟩,
   ⟨0x180, 0x4, 4, 0, 0, 0, 0, 0, 0, 0xFFFFFFFF⟩,
   ⟨0x190, 0x4, 4, 0, 0, 0, 0, 0, 0, 0xFFFFFFFF⟩,
   ⟨0x1B0, 0x4, 4, 0, 0, 0, 0, 0, 0, 0xFFFFFFFF⟩,
   ⟨0x1C0, 0x4, 4, 0, 0, 0, 0, 0, 0, 0xFFFFFFFF⟩,
   ⟨0x1E0, 0x4, 4, 0, 0, 0, 0, 0, 0, 0xFFFFFFFF⟩,
   ⟨0x1F0, 0x4, 4, 0, 0, 0, 0, 0, 0, 0xFFFFFFFF⟩,
   ⟨0x210, 0x4, 4, 0, 0, 0, 0, 0, 0, 0xFFFFFFFF⟩,
   ⟨0x220, 0x4, 4, 0, 0, 0, 0, 0, 0, 0xFFFFFFFF⟩,
   ⟨0x240, 0x4, 4, 0, 0, 0, 0, 0, 0, 0xFFFFFFFF⟩,
   ⟨0x250, 0x4, 4, 0, 0, 0, 0, 0, 0, 0xFFFFFFFF⟩,
   ⟨0x270, 0x4, 4, 0, 0, 0, 0, 0, 0, 0xFFFFFFFF⟩,
   ⟨0x280, 0x4, 4, 0, 0, 0, 0, 0, 0, 0xFFFFFFFF⟩,
   ⟨0x2A0, 0x4, 4, 0, 0, 0, 0, 0, 0, 0xFFFFFFFF⟩,
   ⟨0x2B0, 0x4, 4, 0, 0, 0, 0, 0, 0, 0xFFFFFFFF⟩,
   ⟨0x300, 0, 1, 0, 0, 0, 0, 0, 0, 0xFFF0FFF⟩,
   ⟨0x304, 0, 1, 0, 0, 0, 0, 0, 0, 0xFFF0FFF⟩] ++
  [⟨0x340, 0x4, 12, 0, 0, 0, 0, 0, 0, 0xFFFFFFFF⟩,
   ⟨0x370, 0x4, 12, 0, 0, 0, 0, 0, 0, 0xFFFF⟩,
   ⟨0x3A0, 0x4, 12, 0, 0, 0, 0, 0, 0, 0xFFFFFFFF⟩,
   ⟨0x400, 0x8, 12, 0, 0, 0, 0, 0, 0, 0xFFFFFFFF⟩,
   ⟨0x404, 0x8, 12, 0, 0, 0, 0, 0, 0, 0xFFFFFFFF⟩,
   ⟨0x460, 0, 1, 0, 0, 0, 0, 0, 0, 0xFFF0FFF⟩,
   ⟨0x464, 0, 1, 0, 0, 0, 0, 0, 0, 0xFFFFFFFF⟩,
   ⟨0x468, 0, 1, 0, 0, 0, 0, 0, 0, 0xFFFFFFFF⟩,
   ⟨0x46C, 0, 1, 0, 0, 0, 0, 0x1, 0, 0⟩]

/-- The registers of page METER_ACC, in offset order. -/
def regsMeterAcc : List RegSpec :=
  [⟨0x040, 0, 1, 0, 0, 0, 0, 0, 0, 0x3F⟩,
   ⟨0x080, 0, 1, 0, 0, 0x20000000, 0, 0, 0, 0xDBFF0001⟩,
   ⟨0x084, 0, 1, 0, 0, 0, 0, 0, 0, 0xFFFFFFFF⟩,
   ⟨0x088, 0, 1, 0, 0, 0, 0, 0, 0, 0xFFFFFFFF⟩,
   ⟨0x08C, 0, 1, 0, 0, 0, 0, 0, 0, 0xFFFFFFFF⟩,
   ⟨0x090, 0, 1, 0, 0, 0, 0, 0x1, 0, 0⟩,
   ⟨0x094, 0, 1, 0, 0, 0, 0, 0x1, 0, 0⟩,
   ⟨0x098, 0, 1, 0, 0, 0, 0x1, 0, 0, 0x2⟩,
   ⟨0x09C, 0, 1, 0, 0, 0, 0, 0, 0, 0xFFFFFFFF⟩,
   ⟨0x100, 0x10, 35, 0, 0, 0, 0, 0, 0, 0xFFFFFFFF⟩,
   ⟨0x104, 0x10, 35, 0, 0, 0, 0, 0, 0, 0xFFFFFFFF⟩,
   ⟨0x108, 0x10, 35, 0, 0, 0, 0, 0, 0, 0xFFFFFFFF⟩,
   ⟨0x10C, 0x10, 35, 0, 0, 0, 0, 0, 0, 0xFFFF⟩,
   ⟨0x340, 0x4, 35, 0, 0, 0, 0, 0, 0, 0xFFFFFFFF⟩,
   ⟨0x400, 0x4, 128, 0, 0, 0, 0, 0, 0, 0xFFFFFFFF⟩]

/-- The registers of page BELAY, in offset order. -/
def regsBelay : List RegSpec :=
  [⟨0x040, 0, 1, 0, 0, 0, 0, 0, 0, 0xFF0001⟩,
   ⟨0x044, 0, 1, 0, 0, 0, 0, 0, 0, 0xFFFF03FF⟩,
   ⟨0x048, 0, 1, 0, 0, 0, 0, 0, 0, 0xFFFFFFFF⟩,
   ⟨0x04C, 0, 1, 0, 0, 0, 0, 0, 0, 0x800003FF⟩,
   ⟨0x050, 0, 1, 0, 0, 0, 0, 0, 0, 0xFFFFFFFF⟩,
   ⟨0x054, 0, 1, 0, 0, 0, 0, 0, 0, 0xFFFF⟩,
   ⟨0x058, 0, 1, 0, 0, 0, 0, 0, 0, 0x1FF⟩,
   ⟨0x05C, 0, 1, 0, 0, 0, 0, 0, 0, 0xFFFFFFFF⟩,
   ⟨0x060, 0, 1, 0, 0, 0, 0, 0, 0, 0xFFFFFFFF⟩,
   ⟨0x064, 0, 1, 0, 0, 0, 0, 0, 0, 0xFFFFFFFF⟩,
   ⟨0x068, 0, 1, 0, 0, 0, 0, 0, 0, 0xFFFFFFFF⟩,
   ⟨0x06C, 0, 1, 0, 0, 0, 0, 0, 0, 0xFFFFFFFF⟩,
   ⟨0x070, 0, 1, 0, 0, 0, 0, 0, 0, 0xFFFFFFFF⟩,
   ⟨0x074, 0, 1, 0, 0, 0, 0, 0, 0, 0xFFFFFFFF⟩,
   ⟨0x078, 0, 1, 0, 0, 0, 0, 0, 0, 0xFFFFFFFF⟩,
   ⟨0x07C, 0, 1, 0, 0, 0, 0, 0, 0, 0xFFFFFFFF⟩,
   ⟨0x080, 0, 1, 0, 0, 0, 0, 0, 0, 0xFFFFFFFF⟩,
   ⟨0x084, 0, 1, 0, 0, 0, 0, 0x1, 0, 0⟩,
   ⟨0x088, 0, 1, 0, 0, 0, 0, 0, 0, 0xFFFFFFFF⟩,
   ⟨0x08C, 0, 1, 0, 0, 0, 0, 0, 0, 0xFFFFF⟩]

/-- The registers of page SCHED, in offset order. -/
def regsSched : List RegSpec :=
  [⟨0x040, 0, 1, 0, 0, 0, 0, 0, 0, 0x1FFF1FFF⟩,
   ⟨0x044, 0, 1, 0, 0, 0x80000000, 0, 0, 0, 0x3F⟩,
   ⟨0x048, 0, 1, 0, 0, 0, 0, 0, 0, 0xFFFFFFFF⟩,
   ⟨0x04C, 0, 1, 0, 0, 0, 0, 0, 0, 0xFFFFFFFF⟩,
   ⟨0x050, 0, 1, 0, 0, 0, 0, 0, 0, 0xFFFFFFFF⟩,
   ⟨0x054, 0, 1, 0, 0, 0, 0, 0, 0, 0xFFFFFFFF⟩,
   ⟨0x058, 0, 1, 0, 0, 0, 0, 0x1, 0, 0⟩,
   ⟨0x05C, 0, 1, 0x3F, 0, 0, 0x80000000, 0, 0, 0⟩,
   ⟨0x060, 0, 1, 0, 0, 0, 0xC0000000, 0, 0, 0x3⟩,
   ⟨0x100, 0x4, 8, 0, 0, 0, 0, 0, 0xFFFFFFFF, 0⟩,
   ⟨0x120, 0, 1, 0, 0, 0, 0, 0, 0, 0x80000003⟩,
   ⟨0x140, 0, 1, 0, 0, 0, 0, 0, 0, 0xFFFFFFFF⟩,
   ⟨0x140, 0x4, 8, 0, 0, 0, 0, 0, 0, 0xFFFFFFFF⟩,
   ⟨0x180, 0x10, 8, 0x3, 0, 0, 0, 0, 0, 0⟩,
   ⟨0x184, 0x10, 8, 0xFFFFFFFF, 0, 0, 0, 0, 0, 0⟩,
   ⟨0x188, 0x10, 8, 0xFFFFFFFF, 0, 0, 0, 0, 0, 0⟩,
   ⟨0x200, 0x8, 64, 0x80001FFF, 0, 0, 0, 0, 0, 0⟩,
   ⟨0x204, 0x8, 64, 0xFFFFFFFF, 0, 0, 0, 0, 0, 0⟩,
   ⟨0x400, 0x4, 64, 0, 0, 0, 0, 0, 0, 0x1FFF1FFF⟩,
   ⟨0x500, 0x10, 8, 0, 0, 0, 0, 0, 0, 0xFFFFFFFF⟩,
   ⟨0x504, 0x10, 8, 0, 0, 0, 0, 0, 0, 0xFFFFFFFF⟩,
   ⟨0x508, 0x10, 8, 0, 0, 0, 0, 0, 0, 0xFFFFFFFF⟩,
   ⟨0x50C, 0x10, 8, 0, 0, 0, 0, 0, 0, 0x3⟩,
   ⟨0x580, 0, 1, 0x3F, 0, 0, 0, 0, 0, 0⟩,
   ⟨0x5C0, 0x4, 16, 0, 0, 0, 0, 0, 0, 0xFFFFFFFF⟩,
   ⟨0x600, 0, 1, 0xC0000000, 0, 0, 0x1, 0, 0, 0⟩,
   ⟨0x604, 0, 1, 0xBFBFBFBF, 0, 0, 0, 0, 0, 0⟩,
   ⟨0x608, 0, 1, 0, 0, 0, 0, 0, 0, 0x7FFFFFF⟩,
   ⟨0x60C, 0, 1, 0, 0, 0, 0, 0, 0, 0xFFFFFFFF⟩,
   ⟨0x610, 0, 1, 0, 0, 0, 0, 0, 0, 0xFFFFFFFF⟩]

/-- The registers of page IRQ, in offset order. -/
def regsIrq : List RegSpec :=
  [⟨0x040, 0, 1, 0xFFFFFFFF, 0, 0, 0, 0, 0, 0⟩,
   ⟨0x044, 0, 1, 0, 0, 0, 0, 0, 0, 0xFFFFFFFF⟩,
   ⟨0x048, 0, 1, 0, 0, 0, 0, 0, 0, 0xFFFFFFFF⟩,
   ⟨0x04C, 0, 1, 0, 0, 0, 0, 0, 0, 0xFFFFFFFF⟩,
   ⟨0x050, 0, 1, 0, 0, 0, 0, 0x1, 0, 0⟩,
   ⟨0x060, 0, 1, 0, 0, 0, 0, 0, 0, 0xFFFFFFFF⟩,
   ⟨0x064, 0, 1, 0, 0, 0, 0, 0, 0, 0xFFFFFFFF⟩,
   ⟨0x080, 0x8, 8, 0xFFFFFFFF, 0, 0, 0, 0, 0, 0⟩,
   ⟨0x084, 0x8, 8, 0xFFFFFFFF, 0, 0, 0, 0, 0, 0⟩,
   ⟨0x0C0, 0, 1, 0xFF, 0, 0, 0, 0, 0, 0⟩,
   ⟨0x100, 0, 1, 0, 0, 0, 0, 0, 0, 0xFFFFFFFF⟩,
   ⟨0x104, 0, 1, 0, 0, 0, 0, 0, 0x1FF, 0⟩,
   ⟨0x108, 0, 1, 0xF, 0, 0, 0, 0, 0, 0⟩,
   ⟨0x200, 0x4, 10, 0, 0, 0, 0, 0, 0, 0xFFFFFFFF⟩,
   ⟨0x400, 0x4, 320, 0x80FF0700, 0, 0, 0, 0, 0, 0⟩]

/-- The registers of page WDT, in offset order. -/
def regsWdt : List RegSpec :=
  [⟨0x040, 0, 1, 0, 0x8000FFFF, 0, 0, 0, 0, 0⟩,
   ⟨0x044, 0, 1, 0, 0, 0, 0, 0, 0xFFFFFFFF, 0⟩,
   ⟨0x048, 0, 1, 0, 0, 0, 0, 0, 0, 0x1FFFF⟩,
   ⟨0x050, 0, 1, 0, 0xFF0100, 0, 0, 0, 0, 0⟩,
   ⟨0x054, 0, 1, 0, 0xFFFF, 0, 0, 0, 0, 0⟩,
   ⟨0x058, 0, 1, 0, 0, 0, 0, 0, 0xFFFFFFFF, 0⟩,
   ⟨0x05C, 0, 1, 0, 0, 0xFF, 0, 0, 0, 0⟩]

/-- The registers of page LCP, in offset order. -/
def regsLcp : List RegSpec :=
  [⟨0x040, 0, 1, 0x8000FFFF, 0, 0, 0, 0, 0, 0⟩,
   ⟨0x044, 0x4, 4, 0xFFFFFFFF, 0, 0, 0, 0, 0, 0⟩,
   ⟨0x060, 0, 1, 0xFFFFFFFF, 0, 0, 0, 0, 0, 0⟩,
   ⟨0x064, 0, 1, 0x7F0000, 0, 0, 0, 0, 0, 0x3F⟩,
   ⟨0x068, 0, 1, 0xFFFFFFFF, 0, 0, 0, 0, 0, 0⟩,
   ⟨0x06C, 0, 1, 0x13FFF, 0, 0, 0x80000000, 0, 0, 0⟩,
   ⟨0x080, 0, 1, 0xFFFFFFFF, 0, 0, 0, 0, 0, 0⟩,
   ⟨0x084, 0, 1, 0xFF, 0, 0, 0, 0, 0, 0⟩,
   ⟨0x088, 0, 1, 0xFFFFFFFF, 0, 0, 0, 0, 0, 0⟩,
   ⟨0x08C, 0, 1, 0x7F801FFF, 0, 0, 0x80000000, 0, 0, 0⟩,
   ⟨0x090, 0, 1, 0, 0, 0, 0, 0, 0, 0xFFFFFFFF⟩]

/-- The registers of page HOSTSPI, in offset order. -/
def regsHostspi : List RegSpec :=
  [⟨0x040, 0, 1, 0, 0x3F, 0, 0, 0, 0, 0⟩,
   ⟨0x044, 0, 1, 0, 0, 0, 0xFFFFFFFF, 0, 0, 0⟩,
   ⟨0x048, 0, 1, 0, 0, 0xFFFFFFFF, 0, 0, 0, 0⟩,
   ⟨0x04C, 0, 1, 0, 0, 0, 0, 0, 0, 0xFFFF00FF⟩,
   ⟨0x050, 0, 1, 0, 0, 0, 0, 0, 0, 0xFFFFFFFF⟩,
   ⟨0x054, 0, 1, 0, 0, 0, 0, 0x1, 0, 0⟩]

/-- The registers of page I2C0 and I2C1, in offset order. -/
def regsI2c : List RegSpec :=
  [⟨0x040, 0, 1, 0x1, 0, 0, 0, 0, 0, 0⟩,
   ⟨0x044, 0, 1, 0x7F1F1F, 0, 0, 0x80000000, 0, 0, 0⟩,
   ⟨0x048, 0x4, 4, 0xFFFFFFFF, 0, 0, 0, 0, 0, 0⟩,
   ⟨0x058, 0, 1, 0, 0, 0, 0, 0, 0, 0x3⟩]

/-- The registers of page UART, in offset order. -/
def regsUart : List RegSpec :=
  [⟨0x040, 0, 1, 0x8000FFFF, 0, 0, 0, 0, 0, 0⟩,
   ⟨0x044, 0, 1, 0xFF, 0, 0, 0, 0, 0, 0x100⟩,
   ⟨0x048, 0, 1, 0, 0, 0x80000000, 0, 0, 0, 0x1F001F⟩]

/-- The registers of page GPIO, in offset order. -/
def regsGpio : List RegSpec :=
  [⟨0x040, 0, 1, 0xFFFF, 0, 0, 0, 0, 0, 0⟩,
   ⟨0x044, 0, 1, 0xFFFF, 0, 0, 0, 0, 0, 0⟩,
   ⟨0x048, 0, 1, 0, 0, 0, 0, 0, 0, 0xFFFF⟩,
   ⟨0x04C, 0, 1, 0xFFFF, 0, 0, 0, 0, 0, 0⟩,
   ⟨0x050, 0, 1, 0xFFFF, 0, 0, 0, 0, 0, 0⟩,
   ⟨0x054, 0, 1, 0, 0, 0xFFFF, 0, 0, 0, 0⟩]

/-- The registers of page FAN, in offset order. -/
def regsFan : List RegSpec :=
  [⟨0x040, 0, 1, 0xF, 0, 0, 0, 0, 0, 0⟩,
   ⟨0x044, 0x4, 4, 0xFF, 0, 0, 0, 0, 0, 0⟩,
   ⟨0x054, 0, 1, 0xFFFF, 0, 0, 0, 0, 0, 0⟩,
   ⟨0x060, 0x4, 4, 0, 0, 0, 0, 0, 0, 0xFFFF⟩]

/-- The registers of page TEMP, in offset order. -/
def regsTemp : List RegSpec :=
  [⟨0x040, 0, 1, 0, 0, 0, 0, 0, 0, 0xFFFF⟩,
   ⟨0x044, 0x4, 4, 0, 0, 0, 0, 0, 0, 0x8000FFFF⟩,
   ⟨0x060, 0, 1, 0xFFFF, 0, 0, 0, 0, 0, 0⟩]

/-- The registers of page SIDEPHY, in offset order. -/
def regsSidephy : List RegSpec :=
  [⟨0x040, 0, 1, 0x800001FF, 0, 0, 0, 0, 0, 0⟩,
   ⟨0x044, 0, 1, 0xFFFF, 0, 0, 0, 0, 0, 0⟩,
   ⟨0x048, 0, 1, 0xFF, 0, 0, 0, 0, 0, 0⟩,
   ⟨0x04C, 0, 1, 0xFFFF, 0, 0, 0, 0, 0, 0⟩,
   ⟨0x050, 0x4, 5, 0xFFFFFFFF, 0, 0, 0, 0, 0, 0⟩,
   ⟨0x080, 0, 1, 0, 0xFFFFFFFF, 0, 0, 0, 0, 0⟩,
   ⟨0x084, 0, 1, 0, 0xFFFFFFFF, 0, 0, 0, 0, 0⟩,
   ⟨0x088, 0x10, 6, 0, 0, 0, 0, 0, 0, 0xFFFFFFFF⟩,
   ⟨0x090, 0, 1, 0, 0xFFFFFFFF, 0, 0, 0, 0, 0⟩,
   ⟨0x094, 0, 1, 0, 0xFFFFFFFF, 0, 0, 0, 0, 0⟩,
   ⟨0x0A0, 0, 1, 0, 0xFFFFFFFF, 0, 0, 0, 0, 0⟩,
   ⟨0x0A4, 0, 1, 0, 0xFFFFFFFF, 0, 0, 0, 0, 0⟩,
   ⟨0x0B0, 0, 1, 0, 0xFFFFFFFF, 0, 0, 0, 0, 0⟩,
   ⟨0x0B4, 0, 1, 0, 0xFFFFFFFF, 0, 0, 0, 0, 0⟩,
   ⟨0x0C0, 0, 1, 0, 0xFFFFFFFF, 0, 0, 0, 0, 0⟩,
   ⟨0x0C4, 0, 1, 0, 0xFFFFFFFF, 0, 0, 0, 0, 0⟩,
   ⟨0x0D0, 0, 1, 0, 0xFFFFFFFF, 0, 0, 0, 0, 0⟩,
   ⟨0x0D4, 0, 1, 0, 0xFFFFFFFF, 0, 0, 0, 0, 0⟩,
   ⟨0x0F0, 0, 1, 0xFF, 0, 0, 0, 0, 0, 0⟩,
   ⟨0x0F4, 0, 1, 0, 0, 0, 0, 0, 0, 0xFFFFFFFF⟩,
   ⟨0x0F8, 0, 1, 0, 0, 0, 0, 0, 0, 0xC0FF00FF⟩,
   ⟨0x100, 0, 1, 0, 0, 0, 0, 0, 0, 0xFFFFFFFF⟩,
   ⟨0x104, 0, 1, 0, 0, 0, 0, 0, 0, 0xFFFFFFFF⟩,
   ⟨0x108, 0, 1, 0, 0, 0, 0, 0, 0, 0xFFFFFFFF⟩,
   ⟨0x10C, 0, 1, 0, 0, 0, 0, 0, 0, 0xFFFFFFFF⟩,
   ⟨0x110, 0, 1, 0, 0, 0, 0, 0x1, 0, 0⟩]

/-- The registers of page SIDE, in offset order. -/
def regsSide : List RegSpec :=
  [⟨0x040, 0, 1, 0x87FFFFFF, 0, 0, 0, 0, 0, 0⟩,
   ⟨0x044, 0, 1, 0x700FF, 0, 0, 0, 0, 0, 0⟩,
   ⟨0x048, 0, 1, 0x1FFFF, 0, 0, 0, 0, 0, 0⟩,
   ⟨0x04C, 0, 1, 0xFFFF, 0, 0, 0, 0, 0, 0⟩,
   ⟨0x050, 0, 1, 0, 0xFFFFFF, 0, 0, 0, 0, 0⟩,
   ⟨0x054, 0, 1, 0, 0, 0, 0, 0, 0, 0xFF⟩,
   ⟨0x058, 0, 1, 0, 0, 0, 0, 0, 0, 0xE00000FF⟩,
   ⟨0x060, 0, 1, 0, 0, 0, 0, 0, 0, 0xFFFFFFFF⟩,
   ⟨0x064, 0, 1, 0, 0, 0, 0, 0, 0, 0xFFFFFFFF⟩,
   ⟨0x068, 0, 1, 0, 0, 0, 0, 0, 0, 0x8F0F0000⟩,
   ⟨0x06C, 0, 1, 0, 0, 0, 0, 0, 0, 0xFFFFFF⟩,
   ⟨0x070, 0, 1, 0, 0, 0, 0, 0, 0, 0xFFFFFFFF⟩,
   ⟨0x074, 0, 1, 0xF, 0, 0, 0x80000000, 0, 0, 0⟩,
   ⟨0x078, 0, 1, 0, 0, 0, 0, 0, 0, 0x7⟩,
   ⟨0x07C, 0, 1, 0, 0, 0, 0, 0, 0, 0xFFFFFF⟩,
   ⟨0x080, 0x8, 8, 0, 0, 0, 0, 0, 0, 0xC7FFFFFF⟩,
   ⟨0x084, 0x8, 8, 0, 0, 0, 0, 0, 0, 0xFFFFFFFF⟩,
   ⟨0x0C0, 0, 1, 0, 0, 0, 0, 0, 0, 0xFFFFFFFF⟩,
   ⟨0x0C4, 0, 1, 0, 0, 0, 0, 0, 0, 0xFFFFFFFF⟩,
   ⟨0x0C8, 0, 1, 0, 0, 0, 0, 0, 0, 0xFFFFFFFF⟩,
   ⟨0x0CC, 0, 1, 0, 0, 0, 0, 0, 0, 0xFFFFFFFF⟩,
   ⟨0x0D0, 0, 1, 0, 0, 0, 0, 0, 0, 0xFFFFFFFF⟩,
   ⟨0x0D4, 0, 1, 0, 0, 0, 0, 0, 0, 0xFFFFFFFF⟩,
   ⟨0x0D8, 0, 1, 0, 0, 0, 0, 0, 0, 0xFFFFFFFF⟩,
   ⟨0x0DC, 0, 1, 0, 0, 0, 0, 0, 0, 0xFFFFFFFF⟩,
   ⟨0x0E0, 0, 1, 0, 0, 0, 0, 0, 0, 0xFFFFFFFF⟩,
   ⟨0x0E4, 0, 1, 0, 0, 0, 0, 0, 0, 0xFFFFFFFF⟩,
   ⟨0x0E8, 0, 1, 0, 0, 0, 0, 0, 0, 0xFFFFFFFF⟩,
   ⟨0x0EC, 0, 1, 0, 0, 0, 0, 0, 0, 0xFFFFFFFF⟩,
   ⟨0x0F0, 0, 1, 0, 0, 0, 0, 0, 0, 0xFFFFFFFF⟩] ++
  [⟨0x0F4, 0, 1, 0, 0, 0, 0, 0, 0, 0xFFFFFFFF⟩,
   ⟨0x0F8, 0, 1, 0, 0, 0, 0, 0x1, 0, 0⟩,
   ⟨0x400, 0x80, 16, 0xFFC007F, 0, 0, 0, 0, 0, 0xF0020000⟩,
   ⟨0x404, 0x80, 16, 0xFFFFFFFF, 0, 0, 0, 0, 0, 0⟩,
   ⟨0x408, 0x80, 16, 0xFFFFFFFF, 0, 0, 0, 0, 0, 0⟩,
   ⟨0x40C, 0x80, 16, 0xFFFFFFFF, 0, 0, 0, 0, 0, 0⟩,
   ⟨0x410, 0x80, 16, 0xFFFFFFFF, 0, 0, 0, 0, 0, 0⟩,
   ⟨0x414, 0x80, 16, 0xFFFFFFFF, 0, 0, 0, 0, 0, 0⟩,
   ⟨0x418, 0x80, 16, 0xFFFFFFFF, 0, 0, 0, 0, 0, 0⟩,
   ⟨0x41C, 0x80, 16, 0xFFFFFFFF, 0, 0, 0, 0, 0, 0⟩,
   ⟨0x420, 0x80, 16, 0xFFFFFFFF, 0, 0, 0, 0, 0, 0⟩,
   ⟨0x424, 0x80, 16, 0xFFFFFFFF, 0, 0, 0, 0, 0, 0⟩,
   ⟨0x428, 0x80, 16, 0xFFFFFFFF, 0, 0, 0, 0, 0, 0⟩,
   ⟨0x42C, 0x80, 16, 0xFFFFFFFF, 0, 0, 0, 0, 0, 0⟩,
   ⟨0x430, 0x80, 16, 0xFFFFFFFF, 0, 0, 0, 0, 0, 0⟩,
   ⟨0x434, 0x80, 16, 0xFFFFFFFF, 0, 0, 0, 0, 0, 0⟩,
   ⟨0x438, 0x80, 16, 0xFFFFFFFF, 0, 0, 0, 0, 0, 0⟩,
   ⟨0x43C, 0x80, 16, 0xFFFFFFFF, 0, 0, 0, 0, 0, 0⟩,
   ⟨0x440, 0x80, 16, 0xFFFFFFFF, 0, 0, 0, 0, 0, 0⟩,
   ⟨0x444, 0x80, 16, 0xFFFFFFFF, 0, 0, 0, 0, 0, 0⟩,
   ⟨0x448, 0x80, 16, 0xFFFFFFFF, 0, 0, 0, 0, 0, 0⟩,
   ⟨0x44C, 0x80, 16, 0xFFFFFFFF, 0, 0, 0, 0, 0, 0⟩,
   ⟨0x450, 0x80, 16, 0xFFFFFFFF, 0, 0, 0, 0, 0, 0⟩,
   ⟨0x454, 0x80, 16, 0xFFFFFFFF, 0, 0, 0, 0, 0, 0⟩,
   ⟨0x458, 0x80, 16, 0xFFFFFFFF, 0, 0, 0, 0, 0, 0⟩,
   ⟨0x45C, 0x80, 16, 0xFFFFFFFF, 0, 0, 0, 0, 0, 0⟩,
   ⟨0x460, 0x80, 16, 0xFFFFFFFF, 0, 0, 0, 0, 0, 0⟩,
   ⟨0x464, 0x80, 16, 0xFFFFFFFF, 0, 0, 0, 0, 0, 0⟩,
   ⟨0x468, 0x80, 16, 0xFFFFFFFF, 0, 0, 0, 0, 0, 0⟩,
   ⟨0x46C, 0x80, 16, 0xFFFFFFFF, 0, 0, 0, 0, 0, 0⟩] ++
  [⟨0xC00, 0x80, 8, 0, 0, 0x80000000, 0, 0, 0, 0x7FC07FFF⟩,
   ⟨0xC04, 0x80, 8, 0, 0, 0, 0, 0, 0, 0xFFFFFFFF⟩,
   ⟨0xC08, 0x80, 8, 0, 0, 0, 0, 0, 0, 0xFFFFFFFF⟩,
   ⟨0xC0C, 0x80, 8, 0, 0, 0, 0, 0, 0, 0xFFFF⟩,
   ⟨0xC10, 0x80, 8, 0, 0, 0, 0, 0, 0, 0xFFFFFFFF⟩,
   ⟨0xC14, 0x80, 8, 0, 0, 0, 0, 0, 0, 0xFFFFFFFF⟩,
   ⟨0xC18, 0x80, 8, 0, 0, 0, 0, 0, 0, 0xFFFFFFFF⟩,
   ⟨0xC1C, 0x80, 8, 0, 0, 0, 0, 0, 0, 0xFFFFFFFF⟩,
   ⟨0xC20, 0x80, 8, 0, 0, 0, 0, 0, 0, 0xFFFFFFFF⟩,
   ⟨0xC24, 0x80, 8, 0, 0, 0, 0, 0, 0, 0xFFFFFFFF⟩,
   ⟨0xC28, 0x80, 8, 0, 0, 0, 0, 0, 0, 0xFFFFFFFF⟩,
   ⟨0xC2C, 0x80, 8, 0, 0, 0, 0, 0, 0, 0xFFFFFFFF⟩,
   ⟨0xC30, 0x80, 8, 0, 0, 0, 0, 0, 0, 0xFFFFFFFF⟩,
   ⟨0xC34, 0x80, 8, 0, 0, 0, 0, 0, 0, 0xFFFFFFFF⟩,
   ⟨0xC38, 0x80, 8, 0, 0, 0, 0, 0, 0, 0xFFFFFFFF⟩,
   ⟨0xC3C, 0x80, 8, 0, 0, 0, 0, 0, 0, 0xFFFFFFFF⟩,
   ⟨0xC40, 0x80, 8, 0, 0, 0, 0, 0, 0, 0xFFFFFFFF⟩,
   ⟨0xC44, 0x80, 8, 0, 0, 0, 0, 0, 0, 0xFFFFFFFF⟩,
   ⟨0xC48, 0x80, 8, 0, 0, 0, 0, 0, 0, 0xFFFFFFFF⟩,
   ⟨0xC4C, 0x80, 8, 0, 0, 0, 0, 0, 0, 0xFFFFFFFF⟩,
   ⟨0xC50, 0x80, 8, 0, 0, 0, 0, 0, 0, 0xFFFFFFFF⟩,
   ⟨0xC54, 0x80, 8, 0, 0, 0, 0, 0, 0, 0xFFFFFFFF⟩,
   ⟨0xC58, 0x80, 8, 0, 0, 0, 0, 0, 0, 0xFFFFFFFF⟩,
   ⟨0xC5C, 0x80, 8, 0, 0, 0, 0, 0, 0, 0xFFFFFFFF⟩,
   ⟨0xC60, 0x80, 8, 0, 0, 0, 0, 0, 0, 0xFFFFFFFF⟩,
   ⟨0xC64, 0x80, 8, 0, 0, 0, 0, 0, 0, 0xFFFFFFFF⟩,
   ⟨0xC68, 0x80, 8, 0, 0, 0, 0, 0, 0, 0xFFFFFFFF⟩,
   ⟨0xC6C, 0x80, 8, 0, 0, 0, 0, 0, 0, 0xFFFFFFFF⟩,
   ⟨0xC70, 0x80, 8, 0, 0, 0, 0, 0, 0, 0xFFFFFFFF⟩,
   ⟨0xC74, 0x80, 8, 0, 0, 0, 0, 0, 0, 0xFFFFFFFF⟩]

/-- The registers of page ANCHOR, in offset order. -/
def regsAnchor : List RegSpec :=
  [⟨0x040, 0, 1, 0, 0, 0, 0, 0, 0, 0xC70F0003⟩,
   ⟨0x044, 0x4, 4, 0, 0, 0, 0, 0, 0, 0xFFFFFFFF⟩,
   ⟨0x054, 0, 1, 0x1F, 0, 0, 0, 0, 0, 0⟩,
   ⟨0x058, 0, 1, 0, 0, 0, 0, 0, 0, 0xFE3FFFFF⟩,
   ⟨0x05C, 0, 1, 0, 0, 0, 0, 0, 0, 0xCF0000FF⟩,
   ⟨0x060, 0, 1, 0, 0, 0, 0, 0, 0, 0xFFFFFFFF⟩,
   ⟨0x080, 0, 1, 0, 0, 0x20000000, 0x80000000, 0, 0, 0x4000FFFF⟩,
   ⟨0x084, 0, 1, 0, 0, 0, 0, 0, 0, 0x30F⟩,
   ⟨0x088, 0, 1, 0, 0, 0, 0, 0, 0, 0xFFFFFFFF⟩,
   ⟨0x08C, 0, 1, 0, 0, 0, 0, 0, 0, 0xFFFFFFFF⟩,
   ⟨0x090, 0, 1, 0, 0, 0, 0, 0x1, 0, 0⟩,
   ⟨0x100, 0x4, 64, 0xFFFFFFFF, 0, 0, 0, 0, 0, 0⟩,
   ⟨0x200, 0x4, 64, 0, 0, 0, 0, 0, 0, 0xFFFFFFFF⟩]

/-- The registers of page UPD, in offset order. -/
def regsUpd : List RegSpec :=
  [⟨0x040, 0, 1, 0, 0, 0x40000000, 0, 0, 0, 0xBF0F077D⟩,
   ⟨0x044, 0x8, 2, 0, 0, 0, 0, 0, 0, 0xFFFFFFFF⟩,
   ⟨0x048, 0x8, 2, 0, 0, 0, 0, 0, 0, 0xFFFFFFFF⟩,
   ⟨0x054, 0, 1, 0, 0xFFF000F, 0, 0, 0, 0, 0⟩,
   ⟨0x058, 0, 1, 0, 0, 0, 0xF, 0, 0, 0x80000000⟩,
   ⟨0x05C, 0, 1, 0, 0, 0, 0, 0, 0, 0xFF07⟩,
   ⟨0x060, 0, 1, 0, 0, 0, 0, 0, 0, 0xFFFFFFFF⟩,
   ⟨0x064, 0, 1, 0, 0, 0, 0, 0, 0, 0x80000FFF⟩,
   ⟨0x068, 0, 1, 0, 0, 0, 0, 0x1, 0, 0⟩,
   ⟨0x06C, 0, 1, 0, 0, 0, 0, 0x1, 0, 0⟩,
   ⟨0x070, 0, 1, 0xFFFFFFFF, 0, 0, 0, 0, 0, 0⟩,
   ⟨0x074, 0, 1, 0xFFFF, 0, 0, 0, 0, 0, 0⟩,
   ⟨0x078, 0, 1, 0xFFFFFFFF, 0, 0, 0, 0, 0, 0⟩,
   ⟨0x07C, 0, 1, 0xFFFF, 0, 0, 0, 0, 0, 0⟩,
   ⟨0x080, 0, 1, 0, 0, 0, 0x3, 0, 0, 0x80000000⟩,
   ⟨0x084, 0, 1, 0xFFFFFFFF, 0, 0, 0, 0, 0, 0⟩,
   ⟨0x088, 0, 1, 0xFFFF, 0, 0, 0, 0, 0, 0⟩,
   ⟨0x08C, 0, 1, 0xFFFFFFFF, 0, 0, 0, 0, 0, 0⟩,
   ⟨0x090, 0, 1, 0xFFFF, 0, 0, 0, 0, 0, 0⟩,
   ⟨0x094, 0, 1, 0, 0, 0, 0x1, 0, 0, 0x30⟩,
   ⟨0x098, 0, 1, 0, 0, 0, 0, 0, 0, 0xFFFFFFFF⟩,
   ⟨0x09C, 0, 1, 0, 0, 0, 0, 0, 0, 0xFFFFFFFF⟩,
   ⟨0x0A0, 0, 1, 0, 0, 0, 0, 0x1, 0, 0⟩]

/-- The registers of page FLASH, in offset order. -/
def regsFlash : List RegSpec :=
  [⟨0x040, 0, 1, 0xFFFFFFF, 0, 0, 0, 0, 0, 0⟩,
   ⟨0x044, 0, 1, 0xFFFFFFFF, 0, 0, 0, 0, 0, 0⟩,
   ⟨0x048, 0, 1, 0xFFFFFFF, 0, 0, 0, 0, 0, 0⟩,
   ⟨0x04C, 0, 1, 0x40000003, 0, 0, 0x80000000, 0, 0, 0xF0000⟩,
   ⟨0x050, 0, 1, 0, 0, 0, 0, 0, 0, 0xFFFFFFFF⟩,
   ⟨0x054, 0, 1, 0, 0, 0, 0, 0, 0, 0xFFFFFFFF⟩,
   ⟨0x058, 0, 1, 0, 0, 0, 0, 0x1, 0, 0⟩]

/-- The registers of page MRAM, in offset order. -/
def regsMram : List RegSpec :=
  [⟨0x040, 0, 1, 0, 0, 0, 0, 0, 0, 0x3⟩,
   ⟨0x044, 0, 1, 0, 0, 0, 0, 0, 0, 0xFFFFFFFF⟩,
   ⟨0x048, 0, 1, 0, 0, 0, 0, 0, 0, 0xFFFFFFFF⟩,
   ⟨0x04C, 0, 1, 0, 0, 0, 0, 0, 0, 0x800FFFFF⟩,
   ⟨0x050, 0, 1, 0, 0, 0, 0, 0x1, 0, 0⟩]

/-- The registers of page RST, in offset order. -/
def regsRst : List RegSpec :=
  [⟨0x040, 0, 1, 0, 0, 0, 0, 0, 0, 0xFFFFFF03⟩,
   ⟨0x044, 0, 1, 0, 0, 0, 0, 0, 0, 0xFFFFFFFF⟩,
   ⟨0x048, 0, 1, 0, 0, 0, 0, 0xF0FFFFFF, 0, 0⟩,
   ⟨0x04C, 0, 1, 0, 0, 0, 0, 0, 0, 0xB00000FF⟩,
   ⟨0x050, 0, 1, 0xFF, 0, 0, 0, 0, 0, 0⟩,
   ⟨0x054, 0, 1, 0, 0, 0, 0, 0, 0, 0xE07FFFFF⟩,
   ⟨0x058, 0, 1, 0x1, 0, 0, 0, 0, 0, 0x2⟩,
   ⟨0x060, 0x4, 3, 0, 0, 0, 0, 0, 0, 0xFFFFFFFF⟩,
   ⟨0x070, 0, 1, 0, 0, 0, 0, 0, 0, 0xFFFFFFFF⟩,
   ⟨0x074, 0, 1, 0, 0, 0, 0, 0, 0, 0xFFFFFFFF⟩,
   ⟨0x078, 0, 1, 0, 0, 0, 0, 0, 0, 0xFFFFFFFF⟩,
   ⟨0x07C, 0, 1, 0, 0, 0, 0, 0, 0, 0xFFFFFFFF⟩,
   ⟨0x080, 0, 1, 0, 0, 0, 0, 0, 0, 0xFFFFFFFF⟩,
   ⟨0x084, 0, 1, 0, 0, 0, 0, 0x1, 0, 0⟩]

/-- The registers of page PWR, in offset order. -/
def regsPwr : List RegSpec :=
  [⟨0x040, 0, 1, 0, 0, 0, 0, 0, 0, 0x177⟩,
   ⟨0x044, 0, 1, 0, 0, 0, 0, 0xC0000007, 0, 0⟩,
   ⟨0x048, 0, 1, 0, 0, 0, 0, 0, 0, 0x8F7F07FF⟩,
   ⟨0x04C, 0, 1, 0xC100FFFF, 0, 0, 0, 0, 0, 0⟩,
   ⟨0x050, 0, 1, 0x3F, 0, 0, 0, 0, 0, 0⟩,
   ⟨0x054, 0, 1, 0, 0, 0x7F, 0, 0, 0, 0x700⟩,
   ⟨0x058, 0, 1, 0xFFFFFFFF, 0, 0, 0, 0, 0, 0⟩,
   ⟨0x060, 0x4, 4, 0, 0, 0, 0, 0, 0, 0xFFFFFFFF⟩,
   ⟨0x070, 0, 1, 0, 0, 0, 0, 0, 0, 0xFFFFFFFF⟩,
   ⟨0x074, 0, 1, 0, 0, 0, 0, 0, 0, 0xFFFFFFFF⟩,
   ⟨0x080, 0, 1, 0, 0, 0, 0, 0, 0, 0xFFFFFFFF⟩,
   ⟨0x084, 0, 1, 0, 0, 0, 0, 0, 0, 0xFFFFFFFF⟩,
   ⟨0x088, 0, 1, 0, 0, 0, 0, 0, 0, 0xFFFFFFFF⟩,
   ⟨0x08C, 0, 1, 0, 0, 0, 0, 0x1, 0, 0⟩]

/-- The registers of page CLK, in offset order. -/
def regsClk : List RegSpec :=
  [⟨0x040, 0, 1, 0, 0, 0, 0, 0, 0, 0x1FF01FF⟩,
   ⟨0x044, 0, 1, 0, 0, 0x1FF01FF, 0, 0, 0, 0⟩,
   ⟨0x048, 0, 1, 0, 0, 0, 0, 0, 0, 0x3FF⟩,
   ⟨0x04C, 0, 1, 0, 0, 0, 0, 0, 0, 0xFFFFFFFF⟩,
   ⟨0x050, 0, 1, 0, 0, 0, 0, 0x1, 0, 0⟩]

/-- The registers of page AON, in offset order. -/
def regsAon : List RegSpec :=
  [⟨0x040, 0, 1, 0, 0, 0xB0000000, 0, 0, 0, 0x48000000⟩,
   ⟨0x044, 0, 1, 0, 0, 0, 0, 0, 0, 0xFFFF⟩,
   ⟨0x048, 0, 1, 0, 0, 0, 0, 0, 0, 0xFFFFFFFF⟩,
   ⟨0x04C, 0, 1, 0, 0, 0xF, 0, 0, 0, 0⟩,
   ⟨0x080, 0x4, 16, 0xFFFFFFFF, 0, 0, 0, 0, 0, 0⟩]

/-- The registers of page RTC, in offset order. -/
def regsRtc : List RegSpec :=
  [⟨0x040, 0, 1, 0, 0, 0, 0, 0, 0, 0xFFFFFFFF⟩,
   ⟨0x044, 0, 1, 0, 0, 0, 0, 0, 0, 0xC0000001⟩,
   ⟨0x048, 0, 1, 0, 0, 0, 0, 0, 0, 0x7FFF⟩,
   ⟨0x04C, 0, 1, 0, 0, 0, 0, 0, 0, 0xFFF7F1F⟩,
   ⟨0x050, 0, 1, 0, 0, 0, 0, 0, 0, 0x1F3F3F⟩,
   ⟨0x060, 0, 1, 0xFFFFFFFF, 0, 0, 0, 0, 0, 0⟩,
   ⟨0x064, 0, 1, 0x1, 0, 0, 0, 0, 0, 0⟩,
   ⟨0x068, 0, 1, 0x1, 0, 0, 0x80000000, 0, 0, 0x40000000⟩,
   ⟨0x06C, 0, 1, 0, 0, 0x20000000, 0, 0, 0x3, 0xC0000000⟩,
   ⟨0x070, 0, 1, 0x3FF, 0, 0, 0, 0, 0, 0⟩,
   ⟨0x074, 0, 1, 0x80000007, 0, 0, 0, 0, 0, 0⟩,
   ⟨0x078, 0, 1, 0, 0, 0, 0, 0, 0, 0xFFFFF3FF⟩,
   ⟨0x080, 0x10, 4, 0xFFFFFFFF, 0, 0, 0, 0, 0, 0⟩,
   ⟨0x084, 0x10, 4, 0x1, 0, 0, 0, 0, 0, 0⟩,
   ⟨0x088, 0x10, 4, 0xC001FFFF, 0, 0, 0, 0, 0, 0x20000000⟩,
   ⟨0x0C0, 0, 1, 0, 0, 0xF0F, 0, 0, 0, 0⟩]

/-- The registers of page CAIRN, in offset order. -/
def regsCairn : List RegSpec :=
  [⟨0x040, 0, 1, 0xFFFF, 0, 0, 0, 0, 0, 0⟩,
   ⟨0x044, 0, 1, 0x5, 0, 0, 0x2, 0, 0, 0⟩,
   ⟨0x048, 0, 1, 0, 0, 0x60000000, 0, 0, 0, 0x80003F3F⟩,
   ⟨0x04C, 0, 1, 0, 0, 0, 0, 0, 0, 0x1FFF⟩,
   ⟨0x050, 0, 1, 0, 0, 0, 0, 0, 0, 0xFFFFFFFF⟩,
   ⟨0x054, 0, 1, 0, 0, 0, 0, 0, 0, 0x1FFF⟩,
   ⟨0x058, 0, 1, 0x1FFF, 0, 0, 0, 0, 0, 0⟩,
   ⟨0x060, 0, 1, 0xFFFF, 0, 0, 0, 0, 0, 0⟩,
   ⟨0x064, 0, 1, 0xFFFFFFFF, 0, 0, 0, 0, 0, 0⟩,
   ⟨0x068, 0, 1, 0xFF, 0, 0, 0x80000000, 0, 0, 0⟩,
   ⟨0x070, 0, 1, 0, 0, 0, 0, 0, 0, 0xFFFFFFFF⟩,
   ⟨0x074, 0, 1, 0, 0, 0, 0, 0, 0, 0xFFFFFFFF⟩,
   ⟨0x078, 0, 1, 0, 0, 0, 0, 0, 0, 0xFFFFFFFF⟩,
   ⟨0x07C, 0, 1, 0, 0, 0, 0, 0x1, 0, 0⟩,
   ⟨0x080, 0x4, 16, 0, 0, 0, 0, 0, 0, 0xFFFFFFFF⟩,
   ⟨0x100, 0x10, 32, 0xFFFFFFFF, 0, 0, 0, 0, 0, 0⟩,
   ⟨0x104, 0x10, 32, 0xFF1FFFFF, 0, 0, 0, 0, 0, 0⟩,
   ⟨0x108, 0x10, 32, 0xFFFFFFFF, 0, 0, 0, 0, 0, 0⟩,
   ⟨0x10C, 0x10, 32, 0xFFFFFFFF, 0, 0, 0, 0, 0, 0⟩]

/-- The assigned pages (the page table of the host-access chapter) and their registers. -/
def pageTable : List (Nat × List RegSpec) :=
  [(0x00, regsSys),
   (0x01, regsRst),
   (0x02, regsPwr),
   (0x03, regsClk),
   (0x04, regsAon),
   (0x05, regsRtc),
   (0x06, regsCairn),
   (0x08, regsSched),
   (0x09, regsIrq),
   (0x0A, regsWdt),
   (0x10, regsNet),
   (0x11, regsNet),
   (0x12, regsPtp),
   (0x13, regsCommit),
   (0x14, regsIngest),
   (0x15, regsXsdec),
   (0x18, regsStore),
   (0x19, regsArb),
   (0x20, regsPipe),
   (0x21, regsCal),
   (0x22, regsDith),
   (0x23, regsGov),
   (0x24, regsScree),
   (0x28, regsStr)] ++
  [(0x29, regsStr),
   (0x2A, regsStr),
   (0x2B, regsStr),
   (0x2C, regsPresent),
   (0x30, regsRail),
   (0x31, regsTelem),
   (0x34, regsMeterAc),
   (0x35, regsMeterDc),
   (0x36, regsMeterAcc),
   (0x38, regsBelay),
   (0x39, regsParty),
   (0x3C, regsSide),
   (0x3D, regsSidephy),
   (0x40, regsAnchor),
   (0x44, regsUpd),
   (0x45, regsFlash),
   (0x46, regsMram),
   (0x48, regsHostspi),
   (0x49, regsLcp),
   (0x4A, regsI2c),
   (0x4B, regsI2c),
   (0x4C, regsUart),
   (0x4D, regsGpio),
   (0x4E, regsFan),
   (0x4F, regsTemp)]

/-- The registers of a page beyond the header; none for an unassigned page. -/
def regsOfPage (page : Nat) : List RegSpec := (pageTable.lookup page).getD []

/-- Whether a page number is assigned to a block. -/
def pageAssigned (page : Nat) : Bool := (pageTable.lookup page).isSome

/-- Whether `off` is one of the registers a RegSpec stands for. -/
def RegSpec.covers (r : RegSpec) (off : Nat) : Bool :=
  if r.stride = 0 then off = r.off
  else r.off ≤ off && (off - r.off) % r.stride = 0 && (off - r.off) / r.stride < r.count

/-- The register at an offset of a page, header registers included; none at a reserved offset (R9). -/
def findReg (page off : Nat) : Option RegSpec :=
  if pageAssigned page then
    (headerRegs.find? (·.covers off)).orElse (fun _ => (regsOfPage page).find? (·.covers off))
  else none

/-- The registers whose reset value is not 0, by page: offset, stride (0 for a single register), count and value, as the
register tables give them; PG_CTRL and PG_STATUS stand below. -/
def resetTable : List (Nat × List (Nat × Nat × Nat × Nat)) :=
  [(0x01, [(0x050, 0, 1, 0x32)]),
   (0x02, [(0x04C, 0, 1, 0xC0000064), (0x050, 0, 1, 1), (0x058, 0, 1, 0x27100000)]),
   (0x03, [(0x040, 0, 1, 0x30003)]),
   (0x04, [(0x040, 0, 1, 0x80000000)]),
   (0x05, [(0x074, 0, 1, 2)]),
   (0x06, [(0x040, 0, 1, 0x384), (0x068, 0, 1, 0xFF), (0x104, 0x10, 32, 0x3E8), (0x10C, 0x10, 32, 1)]),
   (0x08, [(0x040, 0, 1, 0x10000000)]),
   (0x09, [(0x040, 0, 1, 0x10000000), (0x080, 8, 8, 0xFFFFFFFF), (0x084, 8, 8, 0xFFFFFFFF),
           (0x100, 0, 1, 0xFFFFFFFF), (0x108, 0, 1, 8)]),
   (0x0A, [(0x040, 0, 1, 0x80000FA0), (0x048, 0, 1, 0xFA0), (0x054, 0, 1, 0x3E8)]),
   (0x10, [(0x040, 0, 1, 1), (0x050, 0, 1, 0x800)]),
   (0x11, [(0x040, 0, 1, 1), (0x050, 0, 1, 0x800)]),
   (0x12, [(0x040, 0, 1, 0x8013ED7F), (0x044, 0, 1, 0x4060201), (0x048, 0, 1, 0x186A0)]),
   (0x13, [(0x04C, 0, 1, 0x18)]),
   (0x18, [(0x048, 0, 1, 0x18)]),
   (0x19, [(0x040, 0, 1, 8)]),
   (0x20, [(0x050, 0, 1, 0x30000)]),
   (0x30, [(0x200, 4, 24, 0xFFFFFFFF), (0x380, 4, 12, 0xFFFF)]),
   (0x31, [(0x040, 0, 1, 0xF07D0)]),
   (0x34, [(0x040, 0, 1, 0x840), (0x050, 4, 3, 0x400000)]),
   (0x35, [(0x084, 0x30, 12, 0x400000)]),
   (0x36, [(0x040, 0, 1, 0xA)]),
   (0x38, [(0x040, 0, 1, 0x7F0001)]),
   (0x39, [(0x084, 0, 1, 0xFFFFFFFF), (0x0A4, 0, 1, 0x7FF0000)]),
   (0x3C, [(0x040, 0, 1, 0xFFFF), (0x044, 0, 1, 0x3000A), (0x04C, 0, 1, 0xFFFF)]),
   (0x3D, [(0x040, 0, 1, 8), (0x044, 0, 1, 0xE), (0x048, 0, 1, 0x32), (0x04C, 0, 1, 0x100),
           (0x080, 0, 1, 0x7D00000), (0x084, 0, 1, 0xE64000A), (0x090, 0, 1, 0x138807D0),
           (0x094, 0, 1, 0xE640064), (0x0A0, 0, 1, 0x15E01388), (0x0A4, 0, 1, 0xE640064),
           (0x0B0, 0, 1, 0x18381644), (0x0B4, 0, 1, 0xE64000A), (0x0C0, 0, 1, 0x19FA1900),
           (0x0C4, 0, 1, 0x1B6403E8), (0x0D0, 0, 1, 0x1B581A2C), (0x0D4, 0, 1, 0xE640064)]),
   (0x48, [(0x040, 0, 1, 9)]),
   (0x49, [(0x040, 0, 1, 0x80001522)]),
   (0x4C, [(0x040, 0, 1, 0xD9), (0x048, 0, 1, 0x100000)]),
   (0x4E, [(0x044, 4, 4, 0xFF)]),
   (0x4F, [(0x060, 0, 1, 0x690)])]

/-- The value a register of key page × 0x1000 + offset holds after its reset: PG_CTRL.EN and PG_STATUS.IDLE are 1 on every
page. -/
def regReset (key : Nat) : BitVec 32 :=
  let off := key % 0x1000
  if off = 0x004 || off = 0x008 then (if pageAssigned (key / 0x1000) then 1 else 0)
  else
    match ((resetTable.lookup (key / 0x1000)).getD []).find? fun r =>
      if r.2.1 = 0 then off = r.1 else r.1 ≤ off && (off - r.1) % r.2.1 = 0 && (off - r.1) / r.2.1 < r.2.2.1 with
    | some r => BitVec.ofNat 32 r.2.2.2
    | none => 0

end Sys2Proof.Machine
end

