-- ==== Sys2Proof/Machine/Mem.lean ====
section
/-! DEFINITION. Sparse maps in one canonical form (keys strictly rising, no entry equal to the default), the byte
memories built on them, byte orders (R5), and the CRC-32 of R176. -/
namespace Sys2Proof.Machine

/-- The value at key `k` of a sparse map; `d` where the map lists none. -/
def mapGet {α : Type} (d : α) : List (Nat × α) → Nat → α
  | [], _ => d
  | (a, v) :: t, k => if k = a then v else if k < a then d else mapGet d t k

/-- Put `v` at key `k`, keeping the keys in rising order. -/
def mapIns {α : Type} (k : Nat) (v : α) : List (Nat × α) → List (Nat × α)
  | [] => [(k, v)]
  | (a, w) :: t => if k = a then (k, v) :: t else if k < a then (k, v) :: (a, w) :: t else (a, w) :: mapIns k v t

/-- Take key `k` out of the map. -/
def mapDel {α : Type} (k : Nat) : List (Nat × α) → List (Nat × α)
  | [] => []
  | (a, w) :: t => if k = a then t else if k < a then (a, w) :: t else (a, w) :: mapDel k t

/-- Write `v` at key `k`: the entry disappears where `v` is the default `d`. -/
def mapPut {α : Type} [DecidableEq α] (d : α) (m : List (Nat × α)) (k : Nat) (v : α) : List (Nat × α) :=
  if v = d then mapDel k m else mapIns k v m

/-- Every key of the map is above `k`. -/
def mapAbove {α : Type} (k : Nat) : List (Nat × α) → Bool
  | [] => true
  | (a, _) :: t => decide (k < a) && mapAbove k t

/-- The canonical form: keys strictly rising and no entry equal to its key's default. -/
def mapWf {α : Type} [DecidableEq α] (d : Nat → α) : List (Nat × α) → Bool
  | [] => true
  | (a, v) :: t => decide (v ≠ d a) && mapAbove a t && mapWf d t

/-- A byte memory: (address, byte) pairs; an unlisted address reads as 0 (assumption log, entry 2). -/
abbrev Bytes := List (Nat × Byte)

/-- What an unlisted address of a byte memory reads as. -/
def memDefault : Byte := 0

/-- One byte of a memory. -/
def memGet (m : Bytes) (a : Nat) : Byte := mapGet memDefault m a

/-- Write one byte of a memory, keeping the canonical form. -/
def memPut (m : Bytes) (a : Nat) (b : Byte) : Bytes := mapPut memDefault m a b

/-- The memory is in canonical form. -/
def memWf (m : Bytes) : Bool := mapWf (fun _ => memDefault) m

/-- `n` bytes from address `a`, lowest address first. -/
def memRead (m : Bytes) (a : Nat) : Nat → List Byte
  | 0 => []
  | n + 1 => memGet m a :: memRead m (a + 1) n

/-- Write a list of bytes from address `a` upward. -/
def memWrite (m : Bytes) (a : Nat) : List Byte → Bytes
  | [] => m
  | b :: bs => memWrite (memPut m a b) (a + 1) bs

/-- Return the `n` bytes from `a` to the default. -/
def memClear (m : Bytes) (a n : Nat) : Bytes := m.filter fun c => c.1 < a || a + n ≤ c.1

/-- The little-endian value of a list of bytes (R5). -/
def leNat : List Byte → Nat
  | [] => 0
  | b :: bs => b.toNat + 256 * leNat bs

/-- The big-endian value of a list of bytes (R5). -/
def beNat (bs : List Byte) : Nat := leNat bs.reverse

/-- `n` as `len` little-endian bytes. -/
def leBytes : Nat → Nat → List Byte
  | 0, _ => []
  | len + 1, n => BitVec.ofNat 8 n :: leBytes len (n / 256)

/-- `n` as `len` big-endian bytes. -/
def beBytes (len n : Nat) : List Byte := (leBytes len n).reverse

/-- The little-endian value of `n` bytes at address `a`. -/
def memLE (m : Bytes) (a n : Nat) : Nat := leNat (memRead m a n)

/-- Bits hi..lo of a number. -/
def bits (w hi lo : Nat) : Nat := w / 2 ^ lo % 2 ^ (hi + 1 - lo)

/-- One bit of a number as a Boolean. -/
def bitSet (w k : Nat) : Bool := w / 2 ^ k % 2 = 1

/-- 1 for true, 0 for false. -/
def b2n (b : Bool) : Nat := if b then 1 else 0

/-- Put an element into a list that rises by `key`, after its equals. -/
def sortIns {α : Type} (key : α → Nat) (a : α) : List α → List α
  | [] => [a]
  | b :: t => if key a < key b then a :: b :: t else b :: sortIns key a t

/-- The list in rising order of `key`; equals keep their order. -/
def sortUp {α : Type} (key : α → Nat) (l : List α) : List α := l.foldl (fun acc a => sortIns key a acc) []

/-- The number as a two's-complement value of `w` bits. -/
def toSigned (w n : Nat) : Int :=
  let m := n % 2 ^ w
  if m < 2 ^ (w - 1) then (m : Int) else (m : Int) - (2 ^ w : Nat)

/-- An integer as a two's-complement field of `w` bits. -/
def ofSigned (w : Nat) (i : Int) : Nat := (i % ((2 ^ w : Nat) : Int)).toNat

/-- `clamp(x, lo, hi)` of R5's pseudocode. -/
def clampI (x lo hi : Int) : Int := if x < lo then lo else if hi < x then hi else x

/-- `sat()` to a signed field of `w` bits. -/
def satS (w : Nat) (i : Int) : Int := clampI i (-((2 ^ (w - 1) : Nat) : Int)) (((2 ^ (w - 1) : Nat) : Int) - 1)

/-- `sat()` to an unsigned field of `w` bits. -/
def satU (w n : Nat) : Nat := min n (2 ^ w - 1)

/-- Division of integers that truncates toward zero, as C's. -/
def tdiv (a b : Int) : Int := Int.tdiv a b

/-- One bit of the reflected CRC-32 (polynomial 0x04C1_1DB7, reflected 0xEDB8_8320). -/
def crc32Bit (c : BitVec 32) : BitVec 32 :=
  if c.getLsbD 0 then (c >>> 1) ^^^ 0xEDB88320#32 else c >>> 1

/-- One byte of the CRC-32. -/
def crc32Byte (c : BitVec 32) (b : Byte) : BitVec 32 :=
  let x := c ^^^ b.setWidth 32
  crc32Bit (crc32Bit (crc32Bit (crc32Bit (crc32Bit (crc32Bit (crc32Bit (crc32Bit x)))))))

/-- CRC-32 of R176 over a list of bytes. -/
def crc32 (bs : List Byte) : Nat :=
  (bs.foldl crc32Byte 0xFFFFFFFF#32 ^^^ 0xFFFFFFFF#32).toNat

end Sys2Proof.Machine
end

