-- ==== Sys2Proof/Machine/State.lean ====
section
/-! DEFINITION. The state of the module: every register, memory, buffer, counter, mode and pin the spec gives it, and
the queue of commands that wait. Register fields stand in `regs`, by their page and offset (see Machine/Fields.lean);
what the spec describes without a register stands in the structures below. Every structure's default value is its
state after a reset that clears it. -/
namespace Sys2Proof.Machine

/-- A fence in force (R45): the page, the unit of it (0xFF for the whole block) and its cause. In the list of fences the
one whose cause PG_FENCE.CAUSE holds stands before the others of its page (R12). -/
structure Fence where
  page : Nat
  unit : Nat
  cause : Nat
deriving DecidableEq, Repr

/-- An occurrence on its way to the cairn (R497). -/
structure Occurrence where
  page : Nat
  code : Nat
  unit : Nat
  detail : Nat
deriving DecidableEq, Repr

/-- What the module's memories hold (R137, R333, R425, R493): byte contents, and the addresses of words that are
poisoned (uncorrectable). Addresses are those of the memory itself, from 0; the TCM of hart h starts at h × 0x2_0000. -/
structure Mems where
  store : Bytes := []
  storeBad : List Nat := []
  /-- Words of the store that hold a correctable error, until a read corrects it (R154). -/
  storeWeak : List Nat := []
  sram : Bytes := []
  sramBad : List Nat := []
  tcm : Bytes := []
  tcmBad : List Nat := []
  ret : Bytes := []
  mram : Bytes := []
  mramBad : List Nat := []
  nor : Bytes := []
  bk : Bytes := []
deriving DecidableEq, Repr

/-- The pins of the module that no register holds: what the module drives, and the levels the carrier gives it. -/
structure Pins where
  /-- RESET_N driven low by the module (R446). -/
  resetDriven : Bool := true
  /-- RESET_N low from outside (R446). -/
  resetLow : Bool := false
  /-- RST_OUT_N driven high: the cabinet released (R447). -/
  rstOutHigh : Bool := false
  /-- PPS_OUT high; `ppsHeld` while a state of R455 or R468 holds it low. -/
  pps : Bool := false
  ppsHeld : Bool := true
  /-- LEAD_N pulled low by the module, and by its partner (R304). -/
  leadLow : Bool := false
  partnerLeadLow : Bool := false
  /-- V3P3_OUT and V1P8_OUT in regulation (R55, R58). -/
  v3p3 : Bool := false
  v1p8 : Bool := false
  /-- Levels of SFPx_ABS, SFPx_LOS and SFPx_TXFLT, ports A and B; high after a pull-up (R65). -/
  absA : Bool := true
  absB : Bool := true
  losA : Bool := true
  losB : Bool := true
  txfltA : Bool := false
  txfltB : Bool := false
  /-- The voltage at VIO_STRg in mV (R56, STRg_STATUS.VIO). -/
  vioMv : List Nat := [0, 0, 0, 0]
  /-- When VIO_STRg came back into its range, TCXO ns (R241). -/
  vioBack : List (Option Nat) := [none, none, none, none]
  /-- The output VIO_STRg is tied to: V3P3_OUT where true, else V1P8_OUT (R56; assumption log, entry 47). -/
  vioTie : List Bool := [true, true, true, true]
  /-- The 48 strand lines the module drives now, by s = 12 g + k. -/
  driving : List Nat := []
  /-- RAIL_ENr high, and RAIL_TRIMr driven (R52). -/
  railEn : List Nat := []
  railTrim : List Nat := []
  /-- PMB_ALERT_N low. -/
  pmbAlert : Bool := false
  /-- HSPI_IRQ_N low. -/
  hspiIrqLow : Bool := false
  /-- Levels of GPIO0–GPIO15 at the pins. -/
  gpio : Nat := 0
  /-- The radio may be on (ANT), and the belay transmitter drives BL_TX (R455). -/
  blTx : Bool := false
deriving DecidableEq, Repr

/-- How far the module is in a reset (R441, R449–R451): no reset, a reset asserted, or released with steps to come. -/
inductive ResetPhase where
  | none
  | cold
  | system
  | warm
deriving DecidableEq, Repr

/-- A Delay_Req awaiting its Delay_Resp (R531): the latest valid Sync received before it (t1, t2, corr1), and whether a
two-step Sync received before it still awaited its Follow_Up. -/
structure DelayReq where
  seq : Nat
  t3 : Nat
  pair : Option (Nat × Nat × Int)
  opened : Bool
deriving DecidableEq, Repr

/-- The PTP instance (R75–R81): frame time, the servo, and what BMCA has heard. -/
structure PtpS where
  /-- Frame time, whole ns since the PTP epoch. -/
  ns : Nat := 0
  /-- Its 48-bit fraction (R77). -/
  frac : Nat := 0
  /-- The integral term `i` and `rate` of R77, in 2^−48 ns/ns. -/
  i : Int := 0
  rate : Int := 0
  /-- The mean path delay `d`, ns. -/
  d : Int := 0
  /-- The first Delay_Req exchange has completed (R531). -/
  exchanged : Bool := false
  /-- t1, t2 and corr1 of the latest valid Sync. -/
  lastSync : Option (Nat × Nat × Int) := none
  /-- A two-step Sync awaiting its Follow_Up, and the path delay in force at it; none before the first exchange. -/
  awaiting : Option PtpSync := none
  awaitD : Option Int := none
  delayReq : Option DelayReq := none
  reqSeq : Nat := 0
  /-- logMessageInterval of the latest Delay_Resp. -/
  reqLog : Option Int := none
  /-- The active port, once a Sync of the selected master has arrived (R76). -/
  active : Option Port := none
  /-- The selected foreign master. -/
  master : Option PtpAnnounce := none
  /-- BMCA selects the module's own clock (R80). -/
  own : Bool := false
  /-- The latest Announce of each foreign master and port. -/
  foreign : List PtpAnnounce := []
  /-- The arrivals of Announce messages by source and port, in module time, latest first: what qualifies a master. -/
  heard : List (Nat × Port × Nat) := []
  /-- announceReceiptTimeout has passed on the port without a better master (R80). -/
  quietA : Bool := false
  quietB : Bool := false
  /-- A step waiting for the next frame boundary (R79). -/
  step : Option Int := none
  /-- Frame time spent in the current or last holdover, ns. -/
  holdNs : Nat := 0
  /-- The frames before this one are skipped by a forward step, or not yet reached after a backward one (R79). -/
  skipTo : Option Nat := none
  /-- Sequence number of the next Sync or Announce sent as grandmaster. -/
  gmSeq : Nat := 0
deriving DecidableEq, Repr

/-- A generation slot beside its COMMIT_SLOTk register (R97–R99): the descriptor's store address, and what staging read
of it. -/
structure GenSlot where
  addr : Nat := 0
  digest : List Byte := []
  /-- The party section matched its CRC and held no poisoned word (R100, R155). -/
  sound : Bool := false
  /-- The party section. -/
  party : List Byte := []
  /-- PARTY_SELF.SEGMENT of its PAGE 0x39 section, where that is whole (R295). -/
  segment : Option Nat := none
  /-- Its INGEST section, where that is whole (R131). -/
  ingest : Option (List Byte) := none
  /-- Which staging this was; a later one has a higher number (R296). -/
  order : Nat := 0
deriving DecidableEq, Repr

/-- A GEN_ANNOUNCE (R88). -/
structure Announce where
  gen : Nat
  withdraw : Bool
  notBefore : Nat
  digest : List Byte
deriving DecidableEq, Repr

/-- A COMMIT held (R87). -/
structure Commit where
  sender : Nat
  frame : Nat
  status : Nat
  gen : Nat
  gain : Nat
deriving DecidableEq, Repr

/-- What the pipeline and the governor load of a slot when it becomes READY (R181, R194). `bad` lists the pages whose
section was poisoned or failed its CRC, with the cause; `screeBase` is SCREE_BASE.ADDR of a SCREE section that is whole. -/
structure Bank where
  slot : Nat
  gen : Nat
  pipe : List Byte
  cal : List Byte
  dith : List Byte
  gov : List Byte
  party : List Byte
  segW : Nat
  segH : Nat
  screeBase : Option Nat
  /-- The tables have been lost to a BLOCK reset of PIPE and are not loaded again yet. -/
  lost : Bool := false
  lut : List Nat
  dir : List (Nat × Nat)
  /-- STRg_AREAk.OFF of each group, as its section of the slot gives them; none where that section is not whole. -/
  areas : List (List Nat)
  bad : List (Nat × Nat)
deriving DecidableEq, Repr

/-- What D(N) settles for frame N (R41): the case of COMMIT_LAST.CASE, the slot of the generation that renders it, its
governor gain, and what it renders: 0 source frame, 1 repeat source, 2 scree frame, 3 none. -/
structure FrameCase where
  frame : Nat
  kase : Nat
  slot : Option Nat
  gain : Nat
  source : Nat
  held : Option Commit
  /-- The frame is torn: the missing-data extent of its record (R41, R134). -/
  torn : Option Nat := none
  /-- The frame whose figures apply: n itself, or the repeat source (R205). -/
  shows : Nat := 0
  /-- The generation that renders the frame. -/
  gen : Nat := 0
deriving DecidableEq, Repr

/-- A burst: its frame, what it renders, the entries E_g of each lane, the lanes stopped, and the LEDs rendered under
R175. -/
structure Burst where
  frame : Nat
  gen : Nat
  source : Nat
  g : Nat
  gov : Nat
  entries : List Nat
  stopped : List Nat
  fallback : Nat
  /-- The lanes a residue mismatch stopped in this burst (R187). -/
  residue : List Nat := []
deriving DecidableEq, Repr

/-- COMMIT and PIPE (R84–R105, R162–R188). -/
structure CommitS where
  slots : List GenSlot := [{}, {}, {}, {}]
  /-- The slot of the generation in force, and the previous one until P(N+1) (R98, R102). -/
  cur : Option Nat := none
  old : Option Nat := none
  /-- The frame of the last generation switch, and the slots staged so far. -/
  switchAt : Option Nat := none
  staged : Nat := 0
  /-- The slot and descriptor a running staging took (R99). -/
  staging : Option (Nat × Nat) := none
  /-- The latest GEN_ANNOUNCE accepted (R101). -/
  announce : Option Announce := none
  /-- COMMITs held, for frames whose D has not passed. -/
  held : List Commit := []
  /-- The last frame whose D has passed, and the last whose P has. -/
  dueDone : Option Nat := none
  passed : Option Nat := none
  /-- The frames below this one, from the last switch on, are torn by it (R103, R134). -/
  tornTo : Nat := 0
  /-- What D settled for the frames not yet past their boundary, and the frame now in its output slot. -/
  cases : List FrameCase := []
  /-- The frame whose slot runs, and whether it is presented. -/
  slotFrame : Option Nat := none
  /-- The banks in force and READY. -/
  bank : Option Bank := none
  readyBank : Option Bank := none
  burst : Option Burst := none
  /-- The last burst of each staging buffer: frame, and the groups whose payload is invalid. -/
  payload : List (Nat × List Nat) := []
  /-- CRC-32 of each group's payload by frame (R312, STRg_PAYLOAD_CRC). -/
  crcs : List (Nat × List Nat) := []
deriving DecidableEq, Repr

/-- A HAVE (R86). -/
structure Have where
  sender : Nat
  frame : Nat
  complete : Bool
  hasRepeat : Bool
  genReady : Nat
  genCur : Nat
  pPred : Nat
  pRep : Nat
  gLocal : Nat
  lum : Nat
deriving DecidableEq, Repr

/-- A close of the quorum or shadow quorum (R91, R300). -/
structure QuorumClose where
  frame : Nat
  counted : List Have
  lagging : Nat
  /-- A COMMIT was sent from it. -/
  sent : Bool
deriving DecidableEq, Repr

/-- PARTY (R84–R96, R293–R303). -/
structure PartyS where
  /-- Messages seen: TYPE, SENDER, FRAME of the first valid copies (R84). -/
  seen : List (Nat × Nat × Nat) := []
  haves : List Have := []
  closes : List QuorumClose := []
  /-- Every frame whose quorum has closed here (R96). -/
  closed : List Nat := []
  /-- Lagging members, each with the frame from which it is expected again; 0 while none (R92). -/
  lagging : List (Nat × Nat) := []
  /-- Consecutive frames each member went uncounted. -/
  misses : List (Nat × Nat) := []
  repeatRun : Nat := 0
  /-- Listening (R299): the other candidate's COMMIT was held at a D of the listening frames. -/
  heard : Bool := false
  /-- The frame time, ns, at which the module last became acting summit (R324). -/
  summitAt : Nat := 0
  /-- Consecutive frames without a COMMIT from a recognised summit (R301). -/
  silent : Nat := 0
  /-- Consecutive frames without a COMMIT from the current summit (R302). -/
  noSummit : Nat := 0
  /-- GAIN of the last COMMIT this module sent, in `prev` of R201; none before a takeover sets it. -/
  prev : Nat := 0
  /-- GAIN of the last COMMIT held. -/
  lastGain : Option Nat := none
  /-- The generation of the last COMMIT this module sent (R101). -/
  named : Option Nat := none
  /-- The CURRENT and OTHER party key ports (R410). -/
  keyCur : Option (List Byte) := none
  keyOther : Option (List Byte) := none
deriving DecidableEq, Repr

/-- The figures of one frame under one bank (R192). -/
structure Figures where
  gen : Nat
  rails : List Nat
  p : Nat
  gl : Nat
  lum : Nat
deriving DecidableEq, Repr

/-- The accumulators s and l of R191 for one frame under the bank of a generation. -/
structure GovSums where
  gen : Nat
  s : List Nat
  l : List Nat
deriving DecidableEq, Repr

/-- A frame the governor evaluates: the generations whose banks were loaded before its first pixel, its figures, and
whether they are final: every pixel written so far has been evaluated (R194, R195). -/
structure FrameFigures where
  frame : Nat
  loaded : List Nat
  figures : List Figures
  final : Bool
  /-- Its ingress buffer, the segment pixels written and not yet evaluated, those evaluated, and their sums. -/
  buf : Nat := 0
  todo : List Nat := []
  seen : List Nat := []
  sums : List GovSums := []
deriving DecidableEq, Repr

/-- GOV (R189–R209). -/
structure GovS where
  frames : List FrameFigures := []
  scree : List FrameFigures := []
  /-- Predicted energy of each rail, nWh, and the remainder of each division (R205). -/
  energy : List Nat := [0, 0, 0, 0, 0, 0, 0, 0, 0, 0, 0, 0]
  rest : List Nat := [0, 0, 0, 0, 0, 0, 0, 0, 0, 0, 0, 0]
  /-- The slot whose scree loop is surveyed (R198), and its bank as it was loaded. -/
  survey : Option Nat := none
  surveyBank : Option Bank := none
  /-- The frame whose scree frame is being evaluated, and the generations of the banks loaded at its start (R197). -/
  evaluating : Option (Nat × List Nat) := none
  /-- The frame rendered in the slot that runs, and its generation. -/
  shown : Option (FrameCase × Nat) := none
deriving DecidableEq, Repr

/-- A record of an IGMP report. `kind` is the record type of RFC 3376 (1 is-in, 2 is-ex, 3 to-in, 4 to-ex, 5 allow,
6 block) or the message type of the older versions (0x12 and 0x16 reports, 0x17 leave). -/
structure IgmpRecord where
  kind : Nat
  group : Nat
  sources : List Nat
deriving DecidableEq, Repr

/-- One network port (R106–R112). -/
structure PortS where
  /-- 300 ms have passed since the origin of R107: acquisition runs. -/
  acquiring : Bool := false
  /-- The speed acquisition tries: 1 25 Gb/s, 2 10 Gb/s. -/
  trying : Nat := 0
  /-- A transmit-fault release of 10 ms runs (R108). -/
  faultRelease : Bool := false
  /-- The times of the last transmit faults, in IRQ-independent module time (ns). -/
  faultTimes : List Nat := []
  /-- IGMP: the version its pending reports were drawn under (3, or 2 and 1), the groups whose report is due, the
  records to be sent a second time (robustness 2), and the module times until which a querier of version 1 or 2 counts
  as present (ns). -/
  igmpMode : Nat := 3
  reportDue : List Nat := []
  repeats : List IgmpRecord := []
  v1Until : Nat := 0
  v2Until : Nat := 0
  /-- The port has left its media groups (BIVOUAC, R465 step 5). -/
  mediaLeft : Bool := false
deriving DecidableEq, Repr

/-- A media packet accepted in a merge window (R119): its extended number, its frame, the marker bit, the port and time
of the copy accepted, the CRC-32 of its UDP payload, and whether its other copy has come. -/
structure Accepted where
  num : Nat
  frame : Nat
  marker : Bool
  port : Port
  time : Nat
  crc : Nat
  paired : Bool
deriving DecidableEq, Repr

/-- The merge window of one stream (R119, R533), and what XSDEC has decoded of it. -/
structure StreamWin where
  /-- The descriptor bytes the window was started under, and how often that descriptor had changed by then. -/
  desc : List Byte := []
  epoch : Nat := 0
  highest : Option Nat := none
  accepted : List Accepted := []
  /-- Slices decoded: (frame, first row, rows); frames stopped by an error of R122; frames a copy mismatch spoils. -/
  slices : List (Nat × Nat × Nat) := []
  /-- Frames whose decode has been counted as finished. -/
  finished : List Nat := []
  stopped : List Nat := []
  spoiled : List Nat := []
deriving DecidableEq, Repr

/-- The close of a frame at its HAVE (R128–R130): its completeness and its count of missing packets. -/
structure FrameClose where
  frame : Nat
  complete : Bool
  miss : Nat
deriving DecidableEq, Repr

/-- INGEST and XSDEC (R113–R135). -/
structure IngestS where
  /-- The INGEST section in force, 256 bytes (R131). -/
  cur : Option (List Byte) := none
  /-- The section of the generation that a held COMMIT puts in force at the frame given (R132). -/
  next : Option (Nat × List Byte) := none
  /-- The section kept from before the switch at frame N, until the HAVE of N + L_PRESENT − 1; `switchAt` is N. -/
  kept : Option (List Byte) := none
  switchAt : Option Nat := none
  wins : List StreamWin := [{}, {}, {}, {}]
  /-- How often each descriptor of the section in force has changed (R533). -/
  epochs : List Nat := [1, 1, 1, 1]
  /-- The frames whose HAVE has been sent. -/
  closed : List FrameClose := []
deriving DecidableEq, Repr

/-- A core access waiting for the store (R139). -/
structure StalledAccess where
  h : Nat
  addr : Nat
  op : CoreOp
deriving DecidableEq, Repr

/-- The store controller (R136–R160). -/
structure StoreCtl where
  /-- A cause of R159 is in force. -/
  unusable : Bool := false
  /-- In self-refresh (BIVOUAC). -/
  selfRefresh : Bool := false
  /-- Granules redirected to a spare, and those whose copy runs (R156). -/
  remapped : List Nat := []
  repairing : List Nat := []
  /-- Words that hold the poison code word of R156. -/
  poisonCode : List Nat := []
  /-- Core accesses that wait for INIT_DONE, oldest first. -/
  stalled : List StalledAccess := []
  /-- Writes of the belay copy that wait for INIT_DONE, oldest first: address and bytes. -/
  waiting : List (Nat × List Byte) := []
  /-- The next line of the patrol. -/
  patrolLine : Nat := 0
  /-- Ingress buffers in use: (buffer, frame number). -/
  bufs : List (Nat × Nat) := []
  /-- The frame number of the repeat source. -/
  repeatFrame : Option Nat := none
deriving DecidableEq, Repr

/-- A hart's LR reservation: the memory's aligned 64-byte granule, and the IRQ_MTIME of the LR (R330). -/
structure Reservation where
  granule : Nat
  since : Nat
deriving DecidableEq, Repr

/-- A command of R223 on a strand, with its return window. -/
structure StrandCmd where
  op : Nat
  reg : Nat
  addr : Nat
  data : Nat
  /-- The tail probe of the poll sweep. -/
  tail : Bool
deriving DecidableEq, Repr

/-- One strand port (R210–R242): its slot, and its counters, which STRg_SEL selects. The port drives while its number
stands in `driving` of the pins. -/
structure StrandS where
  /-- The frame whose slot schedule runs, driven or with the output released (R211, R254). -/
  slot : Option Nat := none
  /-- The port drives this slot as lead. -/
  mine : Bool := false
  /-- Nothing is presented in this slot (R228). -/
  idleOnly : Bool := false
  /-- The slot has been aborted (R240). -/
  aborted : Bool := false
  /-- The FRAME of the slot has been sent. -/
  framed : Bool := false
  /-- The COMMAND of the slot has been sent, and its PRESENT (R221). -/
  commanded : Bool := false
  presented : Bool := false
  /-- The command sent in the slot, and whether its return window is open. -/
  cmd : Option StrandCmd := none
  window : Bool := false
  frames : Nat := 0
  aborts : Nat := 0
  retOk : Nat := 0
  retNone : Nat := 0
  retBad : Nat := 0
  long : Nat := 0
  drvErr : Nat := 0
  lastCode : Nat := 0
  lastPos : Nat := 0
  lastStatus : Nat := 0
deriving DecidableEq, Repr

/-- One rail controller (R243–R260). TARGET, OUTPUT, HMIN, REPORTS and the status words stand in its registers. -/
structure RailS where
  /-- 0 off, 1 started, 2 enable driven, 3 ramping to START_CODE, 4 running. -/
  stage : Nat := 0
  /-- VOUT_COMMAND last written, and consecutive refusals on the bus (R246, R256). -/
  written : Option Nat := none
  refused : Nat := 0
  /-- A STATUS_WORD read has succeeded since the rail's fence (R259 PMB_NOACK). -/
  statusOk : Bool := false
  /-- The running figures of a loop period (R251). -/
  hmin : Nat := 0xFFFF
  reports : Nat := 0
  stale : Nat := 0
  sinceFast : Nat := 10
  raised : Bool := false
  /-- A fence's HOLD_MS runs, has ended at the safe value, or has ended with the enable low (R260). -/
  holding : Bool := false
  safe : Bool := false
  enableLow : Bool := false
  /-- Its fence was cleared: it resumes at the next frame boundary. -/
  resume : Bool := false
  /-- It stopped at P(N); with `some true` it starts again 2 ms later (R247). -/
  stopping : Option Bool := none
  /-- The last valid STATUS_WORD, and the polls since its last item (R264). -/
  status : Option Nat := none
  polls : Nat := 0
  /-- The lead's state was adopted at this frame time (R254). -/
  adopted : Option Nat := none
deriving DecidableEq, Repr

/-- A telemetry item: its words, header first (R264). -/
abbrev TelemItem := List Word

/-- The telemetry collector (R262–R269). -/
structure TelemS where
  fill : List TelemItem := []
  drain : List TelemItem := []
  /-- Words popped of the first item of the drain bank. -/
  popped : Nat := 0
  /-- The hart whose read of TELEM_POP is stalled. -/
  stalled : Option Nat := none
deriving DecidableEq, Repr

/-- A metering save in progress: its slot, REASON, SEQ and record (R281). -/
structure SaveRun where
  slot : Nat
  reason : Nat
  seq : Nat
  record : List Byte
deriving DecidableEq, Repr

/-- A front-end channel's filter: the high-pass, the integrator, and the last two filtered samples (R272). -/
structure MeterChan where
  dc : Int := 0
  y : Int := 0
  xhPrev : Int := 0
  x1 : Int := 0
  x2 : Int := 0
deriving DecidableEq, Repr

/-- Sums of an AC window for a phase or the neutral, and what the zero crossings gave (R272, R277). -/
structure AcSums where
  svv : Nat := 0
  sii : Nat := 0
  sp : Int := 0
  sip : Nat := 0
  prev : Int := 0
  armed : Bool := false
  crossings : Nat := 0
  first : Nat := 0
  last : Nat := 0
deriving DecidableEq, Repr

/-- Sums of a DC window for a group (R274, R277). -/
structure DcSums where
  siv : Int := 0
  si : Int := 0
  sv : Nat := 0
  sio : Int := 0
deriving DecidableEq, Repr

/-- The meter (R270–R292). -/
structure MeterS where
  /-- The meter runs: not in a reset, DORMANT or OFF, nor stopped with the store. -/
  running : Bool := false
  /-- The seven AC channels, and the windows each still settles. -/
  ac : List MeterChan := List.replicate 7 {}
  acSettle : List Nat := List.replicate 7 0
  dcSettle : List Nat := List.replicate 12 0
  /-- The window in progress: samples, sums, clips, and the channels not valid for the whole of it. -/
  acN : Nat := 0
  dcN : Nat := 0
  acSums : List AcSums := List.replicate 4 {}
  dcSums : List DcSums := List.replicate 12 {}
  acClip : List Nat := []
  dcClip : List Nat := []
  acBad : List Nat := []
  dcBad : List Nat := []
  /-- The magnitudes x of R273 of the previous window. -/
  acX : List Nat := [0, 0, 0, 0]
  dcX : List Nat := List.replicate 12 0
  /-- Consecutive samples above OV_MV (R259). -/
  overRun : List Nat := List.replicate 12 0
  /-- RAIL_VSr was below OV_MV, or the check off, at the last sample of a valid channel (R259). -/
  ovBelow : List Bool := List.replicate 12 false
  /-- Accumulators, remainders (numerators) and disputes, in µWh (R278, R280). -/
  acc : List Nat := List.replicate 35 0
  rem : List Nat := List.replicate 35 0
  disp : List Nat := List.replicate 35 0
  /-- Valid and pending peaks, (V, I) by entry of the peak area (R282). -/
  peaks : List (Nat × Nat) := List.replicate 16 (0, 0)
  pendingPeaks : List (Nat × Nat) := List.replicate 16 (0, 0)
  save : Option SaveRun := none
  /-- REASONs of saves that wait for the one in progress. -/
  waiting : List Nat := []
  /-- SEQ of the last save started, and the slot of the newest valid record. -/
  seq : Nat := 0
  newest : Option Nat := none
  /-- AC samples since the last capture (R283). -/
  since : Nat := 0
  /-- PF_WARN saves repeat (R284). -/
  pfRepeat : Bool := false
  /-- A captured statement. -/
  stmt : Option (List Byte) := none
  /-- Bits of METER_DC_SNAP_STAT since the previous snapshot. -/
  snapInvalid : List Nat := []
  snapUnsaved : List Nat := []
deriving DecidableEq, Repr

/-- What the partner's latest HEART shows (R316). -/
structure Heart where
  lead : Bool := false
  eligible : Bool := false
  screeSynced : Bool := false
  cpDown : Bool := false
  genValid : Bool := false
  ptpOk : Bool := false
  slotGen : List Nat := [0, 0, 0, 0]
  slotState : List Nat := [0, 0, 0, 0]
  tSend : Nat := 0
  tRx : Nat := 0
deriving DecidableEq, Repr

/-- A FRAME_CRC message, own or the partner's (R312). -/
structure FrameCrc where
  frame : Nat
  gen : Nat
  kase : Nat
  lanes : Nat
  crcs : List Nat
deriving DecidableEq, Repr

/-- A byte range a resynchronisation copies, and whether it is scree-loop data (R317, R320). -/
structure CopyRange where
  addr : Nat
  len : Nat
  scree : Bool
deriving DecidableEq, Repr

/-- A RESYNC_INSTALL held by the second (R319): M, GEN and STATE of each slot, and the GEN_ANNOUNCE. -/
structure Install where
  frame : Nat
  slots : List (Nat × Nat)
  announce : Option Announce
deriving DecidableEq, Repr

/-- BELAY (R304–R327). -/
structure BelayS where
  /-- SEQ of the last packet sent, and of the last received. -/
  seq : Nat := 0
  rxSeq : Option Nat := none
  heart : Option Heart := none
  /-- A YIELD sent: its frame and TRIGGERS; the ACCEPT that armed the release (R309). -/
  yielded : Option (Nat × Nat) := none
  release : Option (Nat × Nat) := none
  /-- The second is armed to take over at this frame; the trigger of the YIELD (R309, R310). -/
  takeover : Option (Nat × Nat) := none
  /-- The frame of the last change of lead, and the frame at which SYNCED was last set. -/
  lastChange : Option Nat := none
  syncedAt : Option Nat := none
  /-- Trigger 5 as D(N) evaluated it. -/
  commitTrigger : Bool := false
  /-- The frames for which D found a COMMIT held (R307, trigger 5), newest first. -/
  held : List Nat := []
  own : List FrameCrc := []
  partner : List FrameCrc := []
  /-- Frames already compared or skipped. -/
  compared : List Nat := []
  /-- Consecutive frame boundaries at which the generation differed from the lead's, and at which it and the slots
  equalled them (R317, R321). -/
  differs : Nat := 0
  equals : Nat := 0
  /-- The copy as second: its request's time, the next address expected, bytes copied, scree bytes copied, and the start
  addresses of ranges received. -/
  copying : Bool := false
  since : Nat := 0
  expect : Option Nat := none
  bytes : Nat := 0
  screeBytes : Nat := 0
  starts : List Nat := []
  install : Option Install := none
  /-- The copy as lead: its ranges, the range and offset reached, and M of the install. -/
  ranges : List CopyRange := []
  pos : Nat × Nat := (0, 0)
  installAt : Option Nat := none
  installed : Bool := false
deriving DecidableEq, Repr

/-- A work item of the scheduler (R342, R343): its eight words, when it was accepted (IRQ_MTIME), its acceptance
sequence, and whether it has become urgent. -/
structure SchedItem where
  words : List Nat
  acc : Nat
  seq : Nat
  urgent : Bool
deriving DecidableEq, Repr

/-- What the scheduler and the router keep for a hart, and the hart's own state that the spec gives at reset (R329,
R332). `pmpCfg` and `pmpAddr` (pmpcfg bytes and pmpaddr of the 16 regions) are written by the hart's own instructions
only, which no command of this block runs; a memory access reads them. -/
structure HartS where
  /-- SCHED_PUSH_W0 to W7, banked (R344). -/
  push : List Nat := [0, 0, 0, 0, 0, 0, 0, 0]
  /-- SCHED_PUSH_STAT: RESULT of the last commit, none before one. -/
  pushStat : Option Nat := none
  /-- SCHED_CUR_W1 to W7 (R347). -/
  cur : List Nat := [0, 0, 0, 0, 0, 0, 0]
  /-- The items in slots, head first (R346). -/
  slots : List SchedItem := []
  /-- IRQ_THRESH (R339). -/
  thresh : Nat := 8
  /-- The core watchdog has expired once without a kick since (R356). -/
  wdtExpired : Bool := false
  /-- Held in reset, or running from `pc` (R329); waiting in WFI (R461); in M-mode. -/
  held : Bool := true
  pc : Nat := 0
  wfi : Bool := false
  mmode : Bool := true
  pmpCfg : List Nat := List.replicate 16 0
  pmpAddr : List Nat := List.replicate 16 0
deriving DecidableEq, Repr

/-- The scheduler (R342–R354). -/
structure SchedS where
  /-- Queued items, not in slots, in acceptance order. -/
  items : List SchedItem := []
  seq : Nat := 0
  /-- Histogram bins that are not 0: queue × 16 + bin (R350). -/
  hist : List (Nat × Nat) := []
  /-- Trace entries, oldest first (R351). -/
  trace : List Nat := []
deriving DecidableEq, Repr

/-- The interrupt router (R338–R341). -/
structure IrqS where
  /-- IRQ_MTIME. -/
  mtime : Nat := 0
  /-- Claimed lines with the claiming hart. -/
  claims : List (Nat × Nat) := []
  /-- Posts refused so far, waiting for their retry (R341). -/
  deferred : List Nat := []
deriving DecidableEq, Repr

/-- The watchdogs (R355, R356). -/
structure WdtS where
  /-- The first write of the kick sequence has been made, and nothing written to the page since. -/
  armed : Bool := false
deriving DecidableEq, Repr

/-- An LCP session (R362–R365). -/
structure LcpSession where
  id : Nat
  /-- The entry of the principal table, and its rights. -/
  entry : Nat
  rights : Nat
  /-- The client-to-module and module-to-client keys. -/
  keys : List Byte
  /-- SEQs accepted within the window, and the SEQ of the last message sent. -/
  seen : List Nat := []
  tx : Nat := 0
  /-- The last four requests executed: SEQ, and the SEQ and body of the RESPONSE. -/
  done : List (Nat × Nat × List Byte) := []
deriving DecidableEq, Repr

/-- LCP as firmware and the access engine run it (R361–R369). -/
structure LcpS where
  sessions : List LcpSession := []
  /-- Datagrams dropped by code 0x0101 to 0x0105 (R364). -/
  drops : List Nat := [0, 0, 0, 0, 0]
  /-- Leases this summit has granted: segment, holder, epoch and expiry in ns of frame time (R323). -/
  leases : List (Nat × Nat × Nat × Nat) := []
deriving DecidableEq, Repr

/-- The host SPI port (R370): CMD and STATUS of the last WRITE or STORE_WRITE. -/
structure HspiS where
  status : Nat := 0
deriving DecidableEq, Repr

/-- The UART (peripheral pages): receive and transmit FIFOs, oldest first, and cycles of 25 MHz left of the byte being
sent. -/
structure UartS where
  rx : List Nat := []
  tx : List Nat := []
  left : Nat := 0
deriving DecidableEq, Repr

/-- A radio frame to send or in progress: its transmit slot (none for a timed BEACON), TYPE of R375, its header and the
frame counter once it has one, its payload, and its state: sent so far, and what it waits for. -/
structure SideTx where
  slot : Option Nat
  type : Nat
  ackReq : Bool
  dst : Nat
  key : Nat
  cls : Nat
  payload : List Byte
  fc : Option Nat := none
  /-- PPDUs of it sent. -/
  sent : Nat := 0
  /-- It waits for its ACK; or its backoff runs. -/
  awaiting : Bool := false
  backoff : Bool := false
  /-- It has been counted as waiting on a budget. -/
  waited : Bool := false
deriving DecidableEq, Repr

/-- The fields of a CONNECT (R376). -/
structure ConnectInfo where
  ci : Nat
  sup : Nat
  offset : Nat
  hop : Nat
  base : Nat
  sca : Nat
  map : Nat
deriving DecidableEq, Repr

/-- An open link beside SIDE_LINKl_STAT (R384–R387). -/
structure SideLink where
  central : Bool
  peer : Nat
  key : Nat
  net : Nat
  info : ConnectInfo
  /-- Anchors so far: the event in progress is that of anchor k − 1. -/
  k : Nat
  /-- A valid peer frame came in the event in progress; consecutive events before it without one. -/
  heard : Bool
  missed : Nat
  /-- FC of the last frame accepted from the peer. -/
  ackFc : Nat
  /-- The outstanding frame: its slot, FC and payload. -/
  out : Option (Nat × Nat × List Byte)
  /-- LINK slots queued, and a TERMINATE slot. -/
  queue : List Nat
  term : Option Nat
deriving DecidableEq, Repr

/-- SIDE and SIDEPHY beside their registers (R372–R395). Transmit and receive counters stand in MRAM (R392). -/
structure SideS where
  /-- The four key ports (R377). -/
  keys : List (Option (List Byte)) := [none, none, none, none]
  /-- The module time, ns, at which SIDE_TIME was 0. -/
  t0 : Nat := 0
  /-- The time adopted from a BEACON: discovery second, µs, and the side-link time of its preamble (R382). -/
  adopted : Option (Nat × Nat × Nat) := none
  /-- Stateless frames queued, in GO order, and the one in progress. -/
  queue : List SideTx := []
  cur : Option SideTx := none
  /-- An ACK to send: NET_ID, destination, key slot and the FC acknowledged. -/
  ackDue : Option (Nat × Nat × Nat × Nat) := none
  /-- A CONNECT accepted whose ACK opens a link: source, key, NET_ID and fields. -/
  connect : Option (Nat × Nat × Nat × ConnectInfo) := none
  links : List (Option SideLink) := [none, none, none, none, none, none, none, none]
  /-- The event FIFO: kind, index and the instant in ns of module time (R388). -/
  events : List (Nat × Nat × Nat) := []
deriving DecidableEq, Repr

/-- A key slot of Anchor (R401): TYPE 0 for an empty one (R420). -/
structure AnchorSlot where
  type : Nat := 0
  origin : Nat := 0
  attr : Nat := 0
  kver : Nat := 0
  damaged : Bool := false
  /-- The secret or private key; for IMG1 the public key. -/
  key : List Byte := []
  /-- PTP seconds and ns at generation or import (R420). -/
  created : Nat × Nat := (0, 0)
deriving DecidableEq, Repr

/-- An entry of the derived-key cache (R406). -/
structure DerivedKey where
  parent : Nat
  label : List Byte
  context : List Byte
  use : Nat
  depth : Nat
  key : List Byte
deriving DecidableEq, Repr

/-- Anchor (R396–R423): its key store and OTP, and what it holds while powered. -/
structure AnchorS where
  /-- Slots 0x00 to 0x12. HUK, IDENT and IMG0 come from OTP and manufacture. -/
  slots : List AnchorSlot := [{ type := 0, origin := 1, attr := 1 }, { type := 4, origin := 1, attr := 1 }, {}, {}, {}, {},
    {}, {}, {}, { type := 4, origin := 3, attr := 1 }, {}, {}, {}, {}, {}, {}, {}, {}, {}]
  /-- The lifecycle (R403), IMG0 revoked (R415), the tamper level (R421), the last sealed serial and table (R418). -/
  lifecycle : Nat := 1
  img0Revoked : Bool := false
  level : Nat := 1
  serial : Nat := 0
  table : List Byte := []
  /-- A tamper response waits for the next start: the die was unpowered (R421). -/
  owed : Bool := false
  /-- The start in progress follows a WARM reset: the PARTY ports are not pushed (R409). -/
  warmStart : Bool := false
  /-- The derived-key cache by index, the generation of each index, and the indexes from the least recently used. -/
  cache : List (Option DerivedKey) := [none, none, none, none, none, none, none, none]
  gens : List Nat := [0, 0, 0, 0, 0, 0, 0, 0]
  lru : List Nat := [0, 1, 2, 3, 4, 5, 6, 7]
  /-- Session handles: the handle, its SESSION and key (R415). -/
  sessions : List (Nat × Nat × List Byte) := []
  /-- Session handles given out since the start. -/
  handed : Nat := 0
  /-- The response of the command that runs, and whether it ends with an ECC fence. -/
  resp : Option (List Byte × Bool) := none
deriving DecidableEq, Repr

/-- UPD, FLASH and the boot (R424–R440). The boot record stands in MRAM. -/
structure UpdS where
  /-- What UPD_CTRL runs: 1 header check, 2 body check, 3 programming; 0 none. -/
  op : Nat := 0
  /-- BODY_LEN of the header that opened the transfer, and a body check that succeeded since. -/
  bodyLen : Nat := 0
  bodyOk : Bool := false
  /-- The LCP session that holds the transfer, and the next IMG_DATA offset (R437). -/
  session : Option Nat := none
  next : Nat := 0
  /-- A base camp boot is requested (R429). -/
  baseReq : Bool := false
  /-- VERSION of the image that runs, 6 bytes (R420); none before a boot. -/
  version : List Byte := [0, 0, 0, 0, 0, 0]
  /-- An activation fell due in a WARM reset (R438). -/
  actDue : Bool := false
  /-- Hart 0 runs the boot flow of R428. -/
  bootFlow : Bool := false
  /-- The region whose image the boot flow has chosen and not yet found good: 0 A, 1 B, 2 base camp (R428). -/
  booting : Option Nat := none
  /-- Nanoseconds that the health timer has counted since UPD_HEALTH.REMAIN_S was last set (R433). -/
  healthNs : Nat := 0
  /-- A FLASH command runs: OP, NOR offset, length, source in the store, and its address. -/
  flash : Option (Nat × Nat × Nat × Bool × Nat) := none
deriving DecidableEq, Repr

/-- The reset controller (R441–R456). -/
structure RstS where
  /-- The COLD or SYSTEM reset that is asserted and not yet released, or the WARM reset that runs. -/
  phase : ResetPhase := .cold
  /-- The drive of RESET_N has ended, and the release of R446 is awaited. -/
  driveEnded : Bool := false
  /-- The 20 ms minimum of RST_OUT_N has passed since its last assertion (R447). -/
  outMinDone : Bool := false
  /-- Cause and DETAIL of the COLD reset that runs: its record is written at its release (R456). -/
  cause : Nat × Nat := (0x01, 0)
  /-- A pending request of RST_REQ: SOURCE and DETAIL (its scope stands in RST_REQ_STAT). -/
  reqSource : Nat := 0
  reqDetail : Nat := 0
  /-- A SYSTEM reset waits for a meter save (R444): cause and DETAIL. -/
  waiting : Option (Nat × Nat) := none
  /-- Pages in a BLOCK reset: 0 waiting for idle, 1 asserted and waiting for release; and whether it is forced. -/
  block : List (Nat × Nat × Bool) := []
  /-- Pages whose clock source stopped and has not come back (R10, R462). -/
  lost : List Nat := []
  /-- Pages asked to idle for a BLOCK reset, in reset, or held in it by a clock that is not ready (R449). -/
  down : List Nat := [0x46, 0x06, 0x08, 0x09, 0x3C, 0x3D, 0x40, 0x44, 0x45, 0x48, 0x49, 0x4A, 0x4B, 0x4C, 0x4D, 0x4E,
    0x4F, 0x10, 0x11, 0x12, 0x13, 0x14, 0x15, 0x18, 0x19, 0x20, 0x21, 0x22, 0x23, 0x24, 0x28, 0x29, 0x2A, 0x2B, 0x2C,
    0x30, 0x31, 0x34, 0x35, 0x36, 0x38, 0x39]
  /-- Pages of `down` whose release request ended without clock-ready and has not been repeated (R449). -/
  expired : List Nat := []
  /-- A WARM reset has taken the control plane down, and no image has been started since (R327, R440). -/
  cpDown : Bool := false
  /-- Nanoseconds counted since WDT_SYS_STAT.REMAIN_MS and RST_REQ_STAT.REMAIN_MS were last set (R355, R443). -/
  wdtNs : Nat := 0
  reqNs : Nat := 0
  /-- PF_WARN is active; its flush runs (R59, R60). -/
  pfWarn : Bool := false
  pfFlush : Bool := false
  /-- The newest meter save was made under R285 or R284 and passed its read-back (R456 FLAGS[3]). -/
  saved : Bool := false
deriving DecidableEq, Repr

/-- The module's free-running clocks, counted on the TCXO and the 32.768 kHz crystal (R74, R462, R484). -/
structure ClkS where
  /-- TCXO cycles since power-on. -/
  tcxo : Nat := 0
  /-- Units of 40 ns × 32,768 carried toward the next 32.768 kHz edge. -/
  rtcFrac : Nat := 0
deriving DecidableEq, Repr

/-- The power-state controller beside its registers (R459–R478). -/
structure PwrS where
  /-- The target of the request that runs, and FORCE (R463). -/
  target : Option Nat := none
  force : Bool := false
  /-- The last step of R465 taken: 0 none, 1 while the handshake runs, 2 at AP1, and so on. -/
  step : Nat := 0
  /-- The module was lead when step 3 released LEAD_N (R466). -/
  wasLead : Bool := false
  /-- The stage of R473 that runs: 0 none, 1 regulator to 4 logic; and a regulator stage waiting for its retry. -/
  stage : Nat := 0
  retry : Bool := false
  /-- The logic stage from BIVOUAC is done: RUN is entered at the next frame boundary (R474). -/
  resume : Bool := false
  /-- The DORMANT listener's window has opened (R471). -/
  listening : Bool := false
  /-- A frame for firmware held while the control plane sleeps (R470). -/
  frame : Option (Port × List Byte) := none
deriving DecidableEq, Repr

/-- The RTC beside its registers (R484–R488). S, VALID, END and the sub-second count stand in RTC_SEC_LO, RTC_SEC_HI
and RTC_SUBSEC. -/
structure RtcS where
  /-- The raw crystal cycle reached in the trim window of 2^20 cycles, and the trim in effect for it. -/
  cycle : Nat := 0
  trim : Int := 0
  /-- The value a set at the next PTP second will give S (R488). -/
  setTo : Option Nat := none
  /-- A pending summer-time command: true ADD, false SUB (R488). -/
  dst : Option Bool := none
  /-- The backup domain runs from VBAT (R479). -/
  onVbat : Bool := false
deriving DecidableEq, Repr

/-- What a metric has gathered in the interval in progress (R495, R500), and the field it read last. -/
structure MetricS where
  count : Nat := 0
  min : Int := 0
  max : Int := 0
  sum : Int := 0
  hist : List Nat := [0, 0, 0, 0, 0, 0, 0, 0, 0, 0, 0, 0]
  prev : Option Nat := none
deriving DecidableEq, Repr

/-- The key of R506: KIND and ID of a record, and for a CONDITION its PAGE and UNIT. -/
structure CairnKey where
  kind : Nat
  id : Nat
  page : Nat
  unit : Nat
deriving DecidableEq, Repr

/-- The cairn beside its registers, its staging (retained bank 3) and its ring (MRAM) (R500–R511). -/
structure CairnS where
  /-- Released and scanned: the writer runs. -/
  up : Bool := false
  metrics : List MetricS := List.replicate 32 {}
  /-- The formation count of the last record staged (R503). -/
  formed : Nat := 0
  /-- The ring index of the last record written of each key, the most recently written first (R506). -/
  keys : List (CairnKey × Nat) := []
  /-- Records were lost since the last one written. -/
  lostBefore : Bool := false
  /-- A flush writes the closed records of staging (R504). -/
  flushing : Bool := false
  /-- Failed read-backs of the record being written (R511). -/
  tries : Nat := 0
  /-- Bank 3 was found lost at the last wake (R476). -/
  bankLost : Bool := false
deriving DecidableEq, Repr

/-- What a hardware-originated packet carries below its protocol: the source address and the 802.1Q tag (VID, PCP), if
any (R109, R111). -/
structure NetHead where
  src : Nat
  tag : Option (Nat × Nat)
deriving DecidableEq, Repr

/-- Where a party message goes: IPv4 destination, UDP port (source and destination), time-to-live and DSCP (R297). -/
structure UdpHead where
  dst : Nat
  port : Nat
  ttl : Nat
  dscp : Nat
deriving DecidableEq, Repr

/-- What a command sends, drives or answers. The list is emptied when the next command starts. -/
inductive Output where
  /-- The word a register read returns. -/
  | readData (w : Word)
  /-- The access raises a fault at the hart: RISC-V exception cause and mtval (R6, R330, R336). -/
  | coreFault (cause tval : Nat)
  /-- The bytes a memory read returns. -/
  | memData (bs : List Byte)
  /-- A PTP message sent on a port: its packet's head, messageType, sequence number, and its time fields in ns. -/
  | ptpMsg (port : Port) (head : NetHead) (kind seq : Nat) (time : Nat) (fields : List Nat)
  /-- A party message sent on a port (R84), with its packet's head. -/
  | partyMsg (port : Port) (head : NetHead) (udp : UdpHead) (bs : List Byte)
  /-- A party message copied to the firmware ring (R298). -/
  | toFirmware (port : Port) (bs : List Byte)
  /-- The class of R110 a received frame goes to (0: dropped by the FCS or size check). -/
  | netClass (port : Port) (cls : Nat)
  /-- An IGMP message of a port: its packet's head, version and records. -/
  | igmpReport (port : Port) (head : NetHead) (version : Nat) (records : List IgmpRecord)
  /-- A frame firmware sends on a port (LCP_TX_CTRL). -/
  | netFrame (port : Port) (bytes : List Byte)
  /-- A Seken packet on a strand: its bytes in sending order, most significant bit first, preamble included (R215). -/
  | strandPacket (s : Nat) (bytes : List Byte)
  /-- A PMBus write of VOUT_COMMAND by rail r. -/
  | pmbusVout (r code : Nat)
  /-- An access refused with a code of R362 (R359). -/
  | refused (code : Nat)
  /-- A core's read stalls. -/
  | stalled (h : Nat)
  /-- A belay packet sent: header, payload and CRC-32 (R314). -/
  | belayPacket (bytes : List Byte)
  /-- An LCP message sent: session and SEQ, its body before encryption, and the datagram that carries it (R361, R363). -/
  | lcpMessage (session seq : Nat) (body datagram : List Byte)
  /-- What a host SPI transaction returns after its filler bytes (nothing where only filler is returned), and its STATUS. -/
  | hspiReply (bytes : List Byte) (status : Nat)
  /-- An I2C transaction on bus n: address, bytes written, and how many are read. -/
  | i2c (n addr : Nat) (written : List Byte) (reads : Nat)
  /-- A byte sent on UART_TX. -/
  | uartTx (byte : Nat)
  /-- A radio PPDU sent: channel, airtime in µs, conducted power limit in 0.01 dBm, and the PSDU before whitening. -/
  | sideFrame (channel airtime : Nat) (limit : Int) (psdu : List Byte)
deriving DecidableEq, Repr

/-- Why the machine stops. -/
inductive Fault where
  /-- A register or memory write that breaks a documented rule: "unpredictable results" under R17. Raised by the
  commands of firmware and host, with the number of the rule broken. Safe: the spec gives no effect. -/
  | unpredictable (rule : Nat)
deriving DecidableEq, Repr

/-- Why a command has no meaning here. -/
inductive Refusal where
  /-- The command of that mnemonic is not modelled. Raised by the dispatch only. Safe. -/
  | notModelled (mnemonic : String)
deriving DecidableEq, Repr

/-- Bytes of memory that a hart or another master has written, from a code address on, and the harts whose instruction
caches may hold what stood there before: those that have not executed FENCE.I since (R331). -/
structure CodeWrite where
  start : Nat
  len : Nat
  harts : List Nat
deriving DecidableEq, Repr

/-- The state of the module. -/
structure State where
  /-- The ordering code (R1). -/
  variant : Variant := .v16E
  /-- Every register that is not at its reset value: key page × 0x1000 + offset. -/
  regs : List (Nat × Word) := []
  /-- The values the companions of latching registers were latched with (R279 and others), by register key. -/
  latches : List (Nat × Word) := []
  /-- The fences in force (R45). -/
  fences : List Fence := []
  /-- Units (page, unit) released from their fence that return to service at the next frame boundary (R13). -/
  returning : List (Nat × Nat) := []
  /-- The model's own counter, from which each free value is drawn. -/
  free : Nat := 0
  /-- What the last command answered or sent, oldest first. -/
  out : List Output := []
  /-- The memories. -/
  mem : Mems := {}
  /-- The pins. -/
  pins : Pins := {}
  /-- Frame time and PTP. -/
  ptp : PtpS := {}
  /-- Generations, COMMITs and the pipeline. -/
  commit : CommitS := {}
  /-- The party. -/
  party : PartyS := {}
  /-- The governor. -/
  gov : GovS := {}
  /-- The two network ports. -/
  netA : PortS := {}
  netB : PortS := {}
  /-- INGEST and XSDEC. -/
  ingest : IngestS := {}
  /-- The store controller. -/
  storeCtl : StoreCtl := {}
  /-- LR reservations of harts: (hart, reservation). -/
  reservations : List (Nat × Reservation) := []
  /-- Memory written since, by the harts that have not executed FENCE.I after it (R331). -/
  codeWrites : List CodeWrite := []
  /-- The 48 strand ports, by s = 12 g + k. -/
  strands : List StrandS := List.replicate 48 {}
  /-- An abort happened on some strand since the last D (R307, trigger 3). -/
  abortSeen : Bool := false
  /-- The slot last counted as presented (PRESENT_CNT_PRESENTED). -/
  presentedSlot : Option Nat := none
  /-- The 12 rail controllers. -/
  rails : List RailS := List.replicate 12 {}
  /-- The telemetry collector. -/
  telem : TelemS := {}
  /-- The rails whose enables an old lead still holds, until 5 µs after the handover (R254). -/
  railOverlap : Bool := false
  /-- The meter. -/
  meter : MeterS := {}
  /-- The belay pair. -/
  belay : BelayS := {}
  /-- The posting lines with a rising edge not yet pushed (R341). -/
  posts : List Nat := []
  /-- The eight harts. -/
  harts : List HartS := List.replicate 8 {}
  /-- The scheduler. -/
  sched : SchedS := {}
  /-- The interrupt router. -/
  router : IrqS := {}
  /-- The watchdogs. -/
  wdt : WdtS := {}
  /-- LCP. -/
  lcp : LcpS := {}
  /-- Host SPI. -/
  hspi : HspiS := {}
  /-- The UART. -/
  uart : UartS := {}
  /-- The side-link radio. -/
  side : SideS := {}
  /-- Its airtime account: sub-band k or 16 + channel, the second of module time, and µs sent (R390–R392). -/
  airtime : List (Nat × Nat × Nat) := []
  /-- Anchor. -/
  anchor : AnchorS := {}
  /-- UPD, FLASH and the boot. -/
  upd : UpdS := {}
  /-- The reset controller. -/
  rst : RstS := {}
  /-- Free-running clocks. -/
  clk : ClkS := {}
  /-- The power-state controller. -/
  pwr : PwrS := {}
  /-- The calendar clock. -/
  rtc : RtcS := {}
  /-- The cairn's condition queue, outside every reset scope but COLD and SYSTEM (R502). -/
  occQueue : List Occurrence := []
  /-- The occurrences a full queue dropped (R505). -/
  occDropped : Nat := 0
  /-- The cairn. -/
  cairn : CairnS := {}
  /-- The commands that wait, first in, first out. -/
  pending : List Instr := []
deriving DecidableEq, Repr

/-- The outcome of a command. -/
abbrev Res := Host.Outcome State Fault Refusal

/-- The module right after reset: COLD reset held (R52, R58 step 1), every register at its reset value, memories with
nothing listed but the boot record of manufacture (R431), no command waiting. The registers listed are those whose reset
value the variant or the key store gives. -/
def State.reset : State := 
  { regs := [(0x18044, 0x0E000000#32), (0x40040, 0x01010000#32)]
    mem := { mram :=
    [(0x10000, 0x31#8), (0x10001, 0x52#8), (0x10002, 0x54#8), (0x10003, 0x42#8), (0x10004, 0x01#8), (0x10009, 0x03#8),
     (0x1000C, 0x03#8), (0x1000E, 0x2C#8), (0x1000F, 0x01#8), (0x1007C, 0x28#8), (0x1007D, 0x5F#8), (0x1007E, 0x4E#8),
     (0x1007F, 0x38#8)] } }


end Sys2Proof.Machine
end

