-- ==== Sys2Proof/Machine/Ops.lean ====
section
/-! DEFINITION. The named operations every command is written over: registers and their fields, interrupt events,
fences and cairn occurrences, the command's answers, free values, and the frame arithmetic of R82. -/
namespace Sys2Proof.Machine

/-! ## Registers -/

/-- The key of a register in the register file; an offset counts within its page. -/
def regKey (page off : Nat) : Nat := page * 0x1000 + off % 0x1000

/-- The stored word of a register. -/
def State.reg (s : State) (page off : Nat) : Word :=
  mapGet (regReset (regKey page off)) s.regs (regKey page off)

/-- Store a word in a register. -/
def State.setReg (s : State) (page off : Nat) (w : Word) : State :=
  { s with regs := mapPut (regReset (regKey page off)) s.regs (regKey page off) w }

/-- Bits hi..lo of a word replaced by `v`. -/
def insertBits (w hi lo v : Nat) : Nat :=
  w % 2 ^ lo + v % 2 ^ (hi + 1 - lo) * 2 ^ lo + w / 2 ^ (hi + 1) * 2 ^ (hi + 1)

/-- A register field as a number. -/
def State.fld (s : State) (f : Fld) : Nat := bits (s.reg f.page f.off).toNat f.hi f.lo

/-- Set a register field. -/
def State.setFld (s : State) (f : Fld) (v : Nat) : State :=
  s.setReg f.page f.off (BitVec.ofNat 32 (insertBits (s.reg f.page f.off).toNat f.hi f.lo v))

/-- A one-bit field as a Boolean. -/
def State.flag (s : State) (f : Fld) : Bool := s.fld f ≠ 0

/-- Set a one-bit field from a Boolean. -/
def State.setFlag (s : State) (f : Fld) (b : Bool) : State := s.setFld f (b2n b)

/-- Set bit `k` of a field that holds one bit a unit. -/
def State.setBit (s : State) (f : Fld) (k : Nat) (b : Bool) : State :=
  let v := s.fld f
  s.setFld f (insertBits v k k (b2n b))

/-- Bit `k` of a field. -/
def State.bit (s : State) (f : Fld) (k : Nat) : Bool := bitSet (s.fld f) k

/-- Add to a counter, wrapping at its width. -/
def State.add (s : State) (f : Fld) (n : Nat) : State := s.setFld f (s.fld f + n)

/-- Increment a counter, wrapping at its width. -/
def State.inc (s : State) (f : Fld) : State := s.add f 1

/-- Increment a counter that saturates at its width. -/
def State.satInc (s : State) (f : Fld) : State := s.setFld f (min (s.fld f + 1) (2 ^ (f.hi + 1 - f.lo) - 1))

/-- Raise a field that keeps a maximum. -/
def State.maxFld (s : State) (f : Fld) (v : Nat) : State :=
  s.setFld f (min (max (s.fld f) v) (2 ^ (f.hi + 1 - f.lo) - 1))

/-- Set a list of fields. -/
def State.setFlds (s : State) : List (Fld × Nat) → State
  | [] => s
  | (f, v) :: t => (s.setFld f v).setFlds t

/-- Set every counter of a list to 0. -/
def State.clearFlds (s : State) (fs : List Fld) : State := fs.foldl (fun s f => s.setFld f 0) s

/-- Store a 48-bit frame number in its low and high fields. -/
def State.setFrame (s : State) (lo hi : Fld) (n : Nat) : State := (s.setFld lo n).setFld hi (n / 2 ^ 32)

/-- A two-word value of two fields. -/
def State.wide (s : State) (lo hi : Fld) : Nat := s.fld lo + 2 ^ 32 * s.fld hi

/-- Return every register of a page to its reset value, with what its latching reads hold. -/
def State.clearPage (s : State) (page : Nat) : State :=
  { s with regs := s.regs.filter (fun e => e.1 / 0x1000 != page)
           latches := s.latches.filter (fun e => e.1 / 0x1000 != page) }

/-! ## Answers and free values -/

/-- What the command sends or answers, after what it has sent already. -/
def State.emit (s : State) (o : Output) : State := { s with out := s.out ++ [o] }

/-- A command starts: the answers of the last one are gone. -/
def State.begin (s : State) : State := { s with out := [] }

/-- A free value of `w` bits: nothing is known of it (assumption log, entry 3). -/
def State.freeBits (s : State) (w : Nat) : Nat := Config.freeNat s.free % 2 ^ w

/-- The next free value is another one. -/
def State.drawn (s : State) : State := { s with free := s.free + 1 }

/-! ## Pages -/

def pSYS : Nat := 0x00
def pRST : Nat := 0x01
def pPWR : Nat := 0x02
def pCLK : Nat := 0x03
def pAON : Nat := 0x04
def pRTC : Nat := 0x05
def pCAIRN : Nat := 0x06
def pSCHED : Nat := 0x08
def pIRQ : Nat := 0x09
def pWDT : Nat := 0x0A
def pPTP : Nat := 0x12
def pCOMMIT : Nat := 0x13
def pINGEST : Nat := 0x14
def pXSDEC : Nat := 0x15
def pSTORE : Nat := 0x18
def pARB : Nat := 0x19
def pPIPE : Nat := 0x20
def pCAL : Nat := 0x21
def pDITH : Nat := 0x22
def pGOV : Nat := 0x23
def pSCREE : Nat := 0x24
def pPRESENT : Nat := 0x2C
def pRAIL : Nat := 0x30
def pTELEM : Nat := 0x31
def pMETERAC : Nat := 0x34
def pMETERDC : Nat := 0x35
def pMETERACC : Nat := 0x36
def pBELAY : Nat := 0x38
def pPARTY : Nat := 0x39
def pSIDE : Nat := 0x3C
def pSIDEPHY : Nat := 0x3D
def pANCHOR : Nat := 0x40
def pUPD : Nat := 0x44
def pFLASH : Nat := 0x45
def pMRAM : Nat := 0x46
def pHOSTSPI : Nat := 0x48
def pLCP : Nat := 0x49
def pUART : Nat := 0x4C
def pGPIO : Nat := 0x4D
def pFAN : Nat := 0x4E
def pTEMP : Nat := 0x4F
/-- NETA or NETB. -/
def pNET (p : Port) : Nat := match p with | .a => 0x10 | .b => 0x11
/-- The index of a port in the NETx fields: 0 A, 1 B. -/
def Port.ix (p : Port) : Nat := match p with | .a => 0 | .b => 1
/-- The port of an index. -/
def portOf (n : Nat) : Port := if n = 0 then .a else .b
/-- STR0 to STR3. -/
def pSTR (g : Nat) : Nat := 0x28 + g % 4

/-- The pages of the display-plane group of R23. -/
def displayPages : List Nat :=
  [0x10, 0x11, 0x12, 0x13, 0x14, 0x15, 0x18, 0x19, 0x20, 0x21, 0x22, 0x23, 0x24, 0x28, 0x29, 0x2A, 0x2B, 0x2C,
   0x30, 0x31, 0x34, 0x35, 0x36, 0x38, 0x39]

/-- The pages of the control-plane group of R23. -/
def controlPages : List Nat :=
  [0x06, 0x08, 0x09, 0x3C, 0x3D, 0x40, 0x44, 0x45, 0x48, 0x49, 0x4A, 0x4B, 0x4C, 0x4D, 0x4E, 0x4F]

/-- The pages of the infrastructure group of R23. -/
def infraPages : List Nat := [0x00, 0x01, 0x02, 0x03, 0x04, 0x05, 0x0A, 0x46]

/-- The pages the variant has no block for: SIDE and SIDEPHY of LYS-SC48-16N (R1). -/
def State.pageAbsent (s : State) (page : Nat) : Bool :=
  s.variant = .v16N && (page = pSIDE || page = pSIDEPHY)

/-! ## Power states (R459) and resets -/

def pwrRun : Nat := 0
def pwrRest : Nat := 1
def pwrBivouac : Nat := 2
def pwrDormant : Nat := 3
def pwrOff : Nat := 4

/-- PWR_STATE.STATE. -/
def State.power (s : State) : Nat := s.fld R.PWR_STATE_STATE

/-- The module is in BIVOUAC. -/
def State.inBivouac (s : State) : Bool := s.power = pwrBivouac

/-- The control plane is down (HAVE.FLAGS and HEART CP_DOWN; R327, R440). -/
def State.cpDown (s : State) : Bool := s.rst.cpDown

/-- The module is in RUN or REST, no COLD or SYSTEM reset runs, and no entry has passed step 4 of R465 (R211). -/
def State.inRun (s : State) : Bool :=
  (s.power = pwrRun || s.power = pwrRest) && (s.rst.phase = .none || s.rst.phase = .warm) && s.pwr.step < 4

/-- The frame grid, quorum and network run: RUN, REST or BIVOUAC, outside a COLD or SYSTEM reset, and before step 5 of
an entry to DORMANT or OFF (R459, R465, R469). -/
def State.gridRuns (s : State) : Bool :=
  s.power ≤ pwrBivouac && (s.rst.phase = .none || s.rst.phase = .warm) &&
    !(5 ≤ s.pwr.step && (s.pwr.target = some pwrDormant || s.pwr.target = some pwrOff))

/-- BIVOUAC with its display plane still down: not yet past the logic stage of a return (R469, R474). -/
def State.isDark (s : State) : Bool := s.inBivouac && !s.pwr.resume

/-- No master may write retained SRAM: from step 8 of an entry until the check of the return (R475). -/
def State.retLocked (s : State) : Bool :=
  8 ≤ s.pwr.step || (s.inBivouac && !s.flag R.PWR_STATE_CP_AWAKE) || pwrBivouac < s.power

/-! ## Interrupt events (R11, R338, R341) -/

/-- Interrupt line page × 4 + k is high: RAW and EN of bit k are 1 (R11, R338). -/
def State.lineHigh (s : State) (line : Nat) : Bool :=
  s.bit (R.PG_IRQ_RAW (line / 4)) (line % 4) && s.bit (R.PG_IRQ_EN (line / 4)) (line % 4)

/-- The line posts on its rising edges (R341). -/
def State.linePosts (s : State) (line : Nat) : Bool := s.flag (R.IRQ_ROUTE_POST line)

/-- Note a rising edge of a posting line; it waits for the router (R341). -/
def State.noteEdge (s : State) (line : Nat) (was : Bool) : State :=
  if !was && s.lineHigh line && s.linePosts line then
    { s with posts := s.posts ++ [line] }
  else s

/-- Event `k` of a page: RAW[k] is set (R11). -/
def State.irq (s : State) (page k : Nat) : State :=
  if s.pageAbsent page then s
  else (s.setFld (R.PG_IRQ_RAW_BIT page k) 1).noteEdge (page * 4 + k) (s.lineHigh (page * 4 + k))

/-! ## Cairn occurrences and fences (R12, R45, R497, R502) -/

/-- The cairn loses a record: it is counted at once while the cairn runs (R505). -/
def State.cairnLoss (s : State) : State :=
  ({ s with cairn := { s.cairn with lostBefore := true } }.inc R.CAIRN_CNT_LOST_N).irq pCAIRN 1

/-- An occurrence enters the condition queue of 16 entries. A full queue drops it: a loss where the cairn runs, and
counted by the queue until its release where it does not (R502, R505). -/
def State.occur (s : State) (o : Occurrence) : State :=
  if s.occQueue.length < 16 then { s with occQueue := s.occQueue ++ [o] }
  else if s.cairn.up then s.cairnLoss
  else { s with occDropped := s.occDropped + 1 }

/-- Event `k` of a page with its cairn condition record: CODE is 0x8000 + k (R497). -/
def State.record (s : State) (page k unit detail : Nat) : State :=
  s.occur ⟨page, 0x8000 + k, unit, detail % 2 ^ 32⟩

/-- Event `k` of a page that both sets RAW[k] and raises a cairn condition record. -/
def State.event (s : State) (page k unit detail : Nat) : State := (s.irq page k).record page k unit detail

/-- A cairn condition record of an event that sets no bit of PG_IRQ_RAW: the spec gives it no CODE, a free value. -/
def State.recordOpen (s : State) (page : Nat) : State := (s.occur ⟨page, s.freeBits 16, 0xFF, 0⟩).drawn

/-- UNIT of an occurrence that concerns no unit (R496). -/
def noUnit : Nat := 0xFF

/-- A fence of the unit of a page is in force. -/
def State.hasFence (s : State) (page unit : Nat) : Bool := s.fences.any fun f => f.page = page && f.unit = unit

/-- The unit of a page is fenced, or released and not yet back in service (R13), or the whole page is out of service: in
a reset, or asked to idle, which a display-plane block treats as its own fence (R10, R452). -/
def State.isFenced (s : State) (page unit : Nat) : Bool :=
  s.hasFence page unit || s.returning.contains (page, unit) ||
    (unit = noUnit && (s.rst.down.contains page || (displayPages.contains page && s.flag (R.PG_CTRL_IDLE_REQ page))))

/-- Some unit of the page, or the whole block, is fenced. -/
def State.pageFenced (s : State) (page : Nat) : Bool := s.fences.any fun f => f.page = page

/-- A function fences itself: PG_FENCE keeps the first cause, and a cairn condition record is raised (R12, R45). -/
def State.fence (s : State) (page unit cause detail : Nat) : State :=
  if s.hasFence page unit then s.occur ⟨page, cause, unit, detail % 2 ^ 32⟩
  else
    let s1 := { s with fences := s.fences ++ [Fence.mk page unit cause] }
    let s2 := if s1.flag (R.PG_FENCE_ACTIVE page) then s1
              else (s1.setFld (R.PG_FENCE_ACTIVE page) 1).setFld (R.PG_FENCE_CAUSE page) cause
    s2.occur ⟨page, cause, unit, detail % 2 ^ 32⟩

/-- Fence the whole block of a page. -/
def State.fenceBlock (s : State) (page cause : Nat) : State := s.fence page noUnit cause 0

def causeClkTimeout : Nat := 0x0001
def causeIdleTimeout : Nat := 0x0002
def causeEcc : Nat := 0x0003
def causeResidue : Nat := 0x0004
def causeParent : Nat := 0x0005
def causeSectionCrc : Nat := 0x0006

/-- The fence of lowest unit number still in force on a page, the whole block counting as unit 0xFF. -/
def lowestFence (page : Nat) (fs : List Fence) : Option Fence :=
  fs.foldl (fun acc f =>
    if f.page ≠ page then acc
    else match acc with
      | none => some f
      | some g => if f.unit < g.unit then some f else some g) none

/-- The fence whose cause PG_FENCE.CAUSE holds stands first among those of its page; `low` takes its place. -/
def fenceFirst (low : Fence) (fs : List Fence) : List Fence := low :: fs.filter fun f => f ≠ low

/-- Release the fences of a page for which `gone` holds, as a write of 1 to PG_FENCE.ACTIVE does (R12): ACTIVE clears
when none remains; else CAUSE follows the lowest unit left when the unit whose cause it held has been released. -/
def State.releaseFences (s : State) (page : Nat) (gone : Fence → Bool) : State :=
  let left := s.fences.filter fun f => !(f.page = page && gone f)
  match lowestFence page left with
  | none => ({ s with fences := left }.setFld (R.PG_FENCE_ACTIVE page) 0).setFld (R.PG_FENCE_CAUSE page) 0
  | some low =>
    if (s.fences.find? fun f => f.page = page).any gone then
      { s with fences := fenceFirst low left }.setFld (R.PG_FENCE_CAUSE page) low.cause
    else { s with fences := left }

/-! ## The instruction caches (R331) -/

/-- The code address of a byte of the central store: past the cores' own addresses, since windows alias it. -/
def storeCode (a : Nat) : Nat := 2 ^ 32 + a

/-- `n` bytes from code address `a` are written: no instruction cache follows (R331). -/
def State.wroteCode (s : State) (a n : Nat) : State :=
  if n = 0 then s
  else { s with codeWrites := ⟨a, n, List.range 8⟩ :: s.codeWrites.filter fun w => !(w.start = a && w.len = n) }

/-- Hart h executes FENCE.I, which invalidates its own cache alone (R331). -/
def State.fenceI (s : State) (h : Nat) : State :=
  { s with codeWrites := (s.codeWrites.map fun (w : CodeWrite) => { w with harts := w.harts.filter (· ≠ h) }).filter fun w =>
    w.harts ≠ [] }

/-- Hart h has not executed FENCE.I since some of the `n` bytes from code address `a` were written. -/
def State.codeStale (s : State) (h a n : Nat) : Bool :=
  s.codeWrites.any fun w => w.harts.contains h && w.start < a + n && a < w.start + w.len

/-! ## Shared SRAM (R330, R335) -/

/-- Drop the reservations whose granule a write of `n` bytes at core address `a` touches, but those of hart `h`
(R330). -/
def State.breakReservations (s : State) (h : Option Nat) (a n : Nat) : State :=
  let kept := s.reservations.filter fun (r : Nat × Reservation) =>
    some r.1 = h || n = 0 || decide (r.2.granule < a / 64) || decide ((a + n - 1) / 64 < r.2.granule)
  { s with reservations := kept }

/-- Write bytes to shared SRAM at offset `a`: an uncorrectable 64-bit word is made whole by a write of all of it, and
is left unchanged by a narrower one (R335, R336). Hart `h` keeps its own reservation. -/
def State.sramWrite (s : State) (h : Option Nat) (a : Nat) (bs : List Byte) : State :=
  let bad := s.mem.sramBad.filter fun w => !(a ≤ w * 8 && w * 8 + 8 ≤ a + bs.length)
  let data := ((List.range bs.length).zip bs).foldl (fun (m : Bytes) (e : Nat × Byte) =>
    if bad.contains ((a + e.1) / 8) then m else memPut m (a + e.1) e.2) s.mem.sram
  let s1 := { s with mem := { s.mem with sram := data, sramBad := bad } }
  (s1.breakReservations h (0x10000000 + a) bs.length).wroteCode (0x10000000 + a) bs.length

/-! ## Frame arithmetic (R82) -/

/-- The parameters of R82 that time frames. -/
structure Timing where
  num : Nat
  den : Nat
  lPresent : Nat
  lCommitUs : Nat
  haveLeadUs : Nat
  closeLeadUs : Nat
deriving DecidableEq, Repr

/-- T_F × RATE_NUM, in ns. -/
def Timing.tf (t : Timing) : Nat := t.den * 1000000000

/-- M(n), ns since the epoch. -/
def Timing.m (t : Timing) (n : Nat) : Nat := n * t.tf / t.num

/-- P(n), the frame boundary at which slot n begins. -/
def Timing.p (t : Timing) (n : Nat) : Nat := t.m (n + t.lPresent)

/-- D(n), when the commit for n is due. -/
def Timing.dDue (t : Timing) (n : Nat) : Nat := t.p n - t.lCommitUs * 1000

/-- H(n), the latest instant of the HAVE for n. -/
def Timing.h (t : Timing) (n : Nat) : Nat := t.dDue n - t.haveLeadUs * 1000

/-- C(n), the latest close of the quorum for n. -/
def Timing.c (t : Timing) (n : Nat) : Nat := t.dDue n - t.closeLeadUs * 1000

/-- The current frame c(t) at time `ns`: the n with P(n) ≤ ns < P(n + 1). -/
def Timing.cur (t : Timing) (ns : Nat) : Nat := ((ns + 1) * t.num - 1) / t.tf - t.lPresent

/-- Frame time reaches an instant: the commands that name an instant of frame time bring it there (assumption log,
entry 6). Time spent in HOLDOVER counts (R78). -/
def State.atTime (s : State) (ns : Nat) : State :=
  if s.ptp.ns < ns then
    { s with ptp := { s.ptp with ns := ns, frac := 0
                                 holdNs := s.ptp.holdNs + if s.fld R.PTP_STATE_STATE = 3 then ns - s.ptp.ns else 0 } }
  else s

/-- Module time for the spacing of events, counted on the TCXO alone, ns. -/
def State.now (s : State) : Nat := s.clk.tcxo * 40

/-- The transmit faults of a port within the last 60 s (R108). -/
def State.recentFaults (s : State) (p : Port) : List Nat :=
  (match p with
   | .a => s.netA.faultTimes
   | .b => s.netB.faultTimes).filter fun t => s.now < t + 60000000000

/-- The source address and tag of what the module itself sends on a port (R109, R111). -/
def State.netHead (s : State) (p : Port) : NetHead :=
  ⟨s.fld (R.NET_IP_ADDR p.ix),
   if s.fld (R.NET_CFG_VID p.ix) = 0 then none else some (s.fld (R.NET_CFG_VID p.ix), s.fld (R.NET_CFG_PCP p.ix))⟩

end Sys2Proof.Machine
end

