-- ==== Sys2Proof/Machine/Access.lean ====
section
/-! DEFINITION. Who may write what (R358, R359), and how a write consumes an armed PG_LOCK (R15). Every command that
stands for a register write goes through `asWrite` or `asArmed`. -/
namespace Sys2Proof.Machine

/-- Bits of a rights mask (R358). -/
def rightRead : Nat := 0
def rightLive : Nat := 1
def rightConfig : Nat := 2
def rightReset : Nat := 3
def rightTrace : Nat := 4
def rightSecure : Nat := 5

/-- A master holds a right. A core in M-mode holds every one; a command of a core in U-mode stands for an access that
PMP grants, and PMP grants no TRACE (R332, R358; assumption log, entry 10). -/
def Master.holds : Master → Nat → Bool
  | .hart _ mmode, right => mmode || right ≠ rightTrace
  | .lcp r, right => bitSet r right
  | .hspi r, right => bitSet r right
  | .block, _ => true

/-- The master is a core in M-mode, or a block of the module. -/
def Master.isMachine : Master → Bool
  | .hart _ mmode => mmode
  | .block => true
  | _ => false

/-- Codes of R362 for refused accesses. -/
def codeRights : Nat := 0x0002
def codeAlign : Nat := 0x0003
def codeNoPage : Nat := 0x0004

/-- The right that writes of a page need, but for the fields that need another (R359). -/
def pageRight (page : Nat) : Nat :=
  if [pSYS, pAON, pSCHED, pIRQ, pWDT, pANCHOR, pUPD, pFLASH, pMRAM, pHOSTSPI, pLCP].contains page then rightSecure
  else if [pRST, pPWR, pCLK].contains page then rightReset
  else if page = pSIDE || page = pSIDEPHY then rightConfig
  else rightLive

/-- Any write to a register of a page consumes an armed PG_LOCK (R15), and on WDT breaks a kick sequence (R355). -/
def State.disarm (s : State) (page : Nat) : State :=
  { s.setFld (R.PG_LOCK_ARMED page) 0 with wdt := if page = pWDT then { s.wdt with armed := false } else s.wdt }

/-- PG_LOCK of the page is armed. -/
def State.isArmed (s : State) (page : Nat) : Bool := s.flag (R.PG_LOCK_ARMED page)

/-- A write by `m` to a register of `page` that needs `right`: refused with RIGHTS, or `k` (R359). -/
def State.asWrite (s : State) (m : Master) (page right : Nat) (k : State → Res) : Res :=
  if m.holds right then k (s.disarm page) else .next (s.emit (.refused codeRights))

/-- A write by `m` to a WOK register of `page`: as `asWrite`, and without effect when PG_LOCK is not armed (R8, R15). -/
def State.asArmed (s : State) (m : Master) (page right : Nat) (k : State → Res) : Res :=
  s.asWrite m page right fun t => if s.isArmed page then k t else .next t

/-! ## The lead role -/

/-- The module stops being lead: LEAD_N is released (R304). -/
def State.dropLead (s : State) (cause : Nat) : State :=
  if s.flag R.BELAY_STATUS_LEAD then
    ({ s with pins := { s.pins with leadLow := false } }.setFlds
      [(R.BELAY_STATUS_LEAD, 0), (R.BELAY_CHANGE_LO_N_LO, s.fld R.COMMIT_FRAME_LO_N_LO),
       (R.BELAY_CHANGE_HI_N_HI, s.fld R.COMMIT_FRAME_HI_N_HI), (R.BELAY_CHANGE_INFO_TO_LEAD, 0),
       (R.BELAY_CHANGE_INFO_CAUSE, cause)]).irq pBELAY 0
  else { s with pins := { s.pins with leadLow := false } }

end Sys2Proof.Machine
end

