-- ==== Sys2Proof/Machine/Store.lean ====
section
/-! DEFINITION. The central store: its words and their errors, the ingress buffers, repair, the patrol, and the core
windows (R136–R161). -/
namespace Sys2Proof.Machine

/-! ## Capacity and regions (R136, R140) -/

def mib : Nat := 0x100000

/-- Usable bytes of the store. -/
def State.storeSize (s : State) : Nat := match s.variant with
  | .v8E => 7168 * mib
  | _ => 14336 * mib

/-- Repair spares of the variant. -/
def Variant.spares (v : Variant) : Nat := match v with
  | .v8E => 1792
  | _ => 3584

/-- STORE_CAP of the variant: scree MiB and usable MiB. -/
def Variant.storeCap (v : Variant) : Nat := match v with
  | .v8E => 0x13801C00
  | _ => 0x2F803800

def genBase : Nat := 0x00000000
def calBase : Nat := 0x04000000
def ingressBase : Nat := 0x1C000000
def stagingBase : Nat := 0x34000000
def transferBase : Nat := 0x38000000
def spillBase : Nat := 0x48000000
def screeRegion : Nat := 0x88000000

/-- The region of a store address: 0 generation, 1 calibration, 2 ingress, 3 staging, 4 transfer, 5 spill, 6 scree. -/
def storeRegion (a : Nat) : Nat :=
  if a < calBase then 0 else if a < ingressBase then 1 else if a < stagingBase then 2
  else if a < transferBase then 3 else if a < spillBase then 4 else if a < screeRegion then 5 else 6

/-! ## Core accesses -/

/-- RISC-V exception causes (R330; the numbers are the privileged architecture's, assumption log, entry 8). -/
def excFetchAccess : Nat := 1
def excLoadMisaligned : Nat := 4
def excLoadAccess : Nat := 5
def excStoreMisaligned : Nat := 6
def excStoreAccess : Nat := 7

/-- Bytes an access touches. -/
def CoreOp.size : CoreOp → Nat
  | .fetch n => n
  | .load n => n
  | .store d => d.length
  | .loadReserved => 4
  | .storeConditional d => d.length
  | .amo _ _ => 4
  | .fenceI => 0

/-- The access-fault cause of an access. -/
def CoreOp.accessCause : CoreOp → Nat
  | .fetch _ => excFetchAccess
  | .load _ => excLoadAccess
  | _ => excStoreAccess

/-- The misaligned cause of an access. -/
def CoreOp.misalignedCause : CoreOp → Nat
  | .fetch _ => excFetchAccess
  | .load _ => excLoadMisaligned
  | .loadReserved => excLoadMisaligned
  | _ => excStoreMisaligned

/-- The access is one of the A extension. -/
def CoreOp.isAtomic : CoreOp → Bool
  | .loadReserved => true
  | .storeConditional _ => true
  | .amo _ _ => true
  | _ => false

/-- Data and AMO accesses must be aligned to their size (R330); fetches are in 2-byte units. -/
def CoreOp.aligned (op : CoreOp) (addr : Nat) : Bool := match op with
  | .fetch _ => addr % 2 = 0
  | _ => op.size = 0 || addr % op.size = 0

/-! ## Words, errors and repair (R137, R150, R154–R156) -/

/-- The 64-bit word at an address is poisoned. -/
def State.storeWordBad (s : State) (a : Nat) : Bool := s.mem.storeBad.contains (a / 8)

/-- Some word of `n` bytes from `a` is poisoned. -/
def State.storeRangeBad (s : State) (a n : Nat) : Bool :=
  n ≠ 0 && s.mem.storeBad.any fun w => a / 8 ≤ w && w ≤ (a + n - 1) / 8

/-- The hart takes the access's exception, which ends its reservation (R330). -/
def State.coreTrap (s : State) (h cause tval : Nat) : State :=
  ({ s with reservations := s.reservations.filter fun r => r.1 ≠ h }).emit (.coreFault cause tval)

/-- The core accesses that wait for the store end with their access fault (R139). -/
def State.endStalled (s : State) : State :=
  { s.storeCtl.stalled.foldl (fun t q => t.coreTrap q.h q.op.accessCause q.addr) s with
    storeCtl := { s.storeCtl with stalled := [], waiting := [] } }

/-- The store is unusable: STORE is fenced, every strand port and LEAD_N are released, and the lead role ends (R47,
R159, R304). A module with a partner releases its rails with the lead role, as R252 asks; a single one keeps driving
them to their safe values. The rails' ramp and the meter follow through `unusable`. -/
def State.makeUnusable (s : State) (cause : Nat) : State :=
  let s1 := ((s.fenceBlock pSTORE cause).dropLead 0x11).endStalled
  { s1 with storeCtl := { s1.storeCtl with unusable := true }
            pins := { s1.pins with
              driving := []
              railEn := if s1.flag R.BELAY_PARTNER_VALID then [] else s1.pins.railEn
              railTrim := if s1.flag R.BELAY_PARTNER_VALID then [] else s1.pins.railTrim } }

/-- A repair of a granule starts, unless one runs; without a spare left the store becomes unusable (R156, R159). -/
def State.startRepair (s : State) (granule : Nat) : State :=
  if s.storeCtl.repairing.contains granule then s
  else if s.fld R.STORE_STATUS_SPARES_LEFT ≤ s.storeCtl.repairing.length then s.makeUnusable 0x0101
  else { s with storeCtl := { s.storeCtl with repairing := s.storeCtl.repairing ++ [granule] } }

/-- The class of R151 of a master, by the page number, 0xFE or 0xFF that STORE_UE_INFO.MASTER shows. Blocks that R151 does
not list (NETA, NETB, PTP, STORE, ARB, PRESENT, RAIL, the meters and PARTY) issue in class 2, the class of a display-plane
block without a guaranteed latency: DESIGN CHOICE (assumption log, entry 43). -/
def storeClass (master : Nat) : Nat :=
  if [pPIPE, pCAL, pDITH, pSCREE, pSTR 0, pSTR 1, pSTR 2, pSTR 3].contains master then 0
  else if master = pINGEST || master = pXSDEC then 1
  else if [pLCP, pUPD, pFLASH, pHOSTSPI, 0xFF].contains master then 3
  else if master = 0xFE then 4
  else 2

/-- The record of an uncorrectable word of region `region`: counted, its place shown, raised (R155). -/
def State.recordUe (s : State) (a region master : Nat) : State :=
  ((s.inc R.STORE_CNT_UE_N).setFlds
    [(R.STORE_UE_ADDR_LO_A_LO, a / 8 * 8), (R.STORE_UE_ADDR_HI_A_HI, a / 8 * 8 / 2 ^ 32), (R.STORE_UE_INFO_VALID, 1),
     (R.STORE_UE_INFO_REGION, region), (R.STORE_UE_INFO_CLASS, storeClass master),
     (R.STORE_UE_INFO_MASTER, master)]).event pSTORE 1 noUnit (a / 8)

/-- An uncorrectable word is read: recorded, and its granule repaired unless it is the poison code (R155). -/
def State.logStoreUe (s : State) (a master : Nat) : State :=
  let s2 := s.recordUe a (storeRegion a) master
  if s2.storeCtl.poisonCode.contains (a / 8) then s2 else s2.startRepair (a / 65536)

/-- A correctable error is corrected and counted (R154). -/
def State.logStoreCe (s : State) (a : Nat) : State :=
  ((s.inc R.STORE_CNT_CE_N).setFlds
    [(R.STORE_CE_ADDR_LO_A_LO, a / 8 * 8), (R.STORE_CE_ADDR_HI_A_HI, a / 8 * 8 / 2 ^ 32)]).irq pSTORE 0

/-- A word turns uncorrectable. -/
def State.poisonStore (s : State) (a : Nat) : State :=
  if s.storeWordBad a then s
  else { s with mem := { s.mem with storeBad := s.mem.storeBad ++ [a / 8]
                                    storeWeak := s.mem.storeWeak.filter fun w => w ≠ a / 8 } }

/-- A word takes a correctable error. -/
def State.weakenStore (s : State) (a : Nat) : State :=
  if s.storeWordBad a || s.mem.storeWeak.contains (a / 8) then s
  else { s with mem := { s.mem with storeWeak := s.mem.storeWeak ++ [a / 8] } }

/-- An error that arises in the word of an address: none, a correctable or an uncorrectable one. The next read of the word
finds it. -/
def State.storeEcc (s : State) (a : Nat) (e : Ecc) : State := match e with
  | .clean => s
  | .corrected => s.weakenStore a
  | .uncorrectable => s.poisonStore a

/-- The first poisoned word that `n` bytes from `a` touch. -/
def State.firstBad (s : State) (a n : Nat) : Option Nat :=
  if n = 0 then none else s.mem.storeBad.foldl (fun acc w =>
    if a / 8 ≤ w && w ≤ (a + n - 1) / 8 then match acc with
      | none => some w
      | some v => some (min v w)
    else acc) none

/-- The words of a list that `n` bytes from `a` touch, in rising order. -/
def wordsIn (l : List Nat) (a n : Nat) : List Nat :=
  if n = 0 then [] else sortUp (fun w => w) (l.filter fun w => a / 8 ≤ w && w ≤ (a + n - 1) / 8)

/-- `n` bytes are read: every correctable error is corrected, rewritten and counted, and every poisoned word is logged
(R154, R155). -/
def State.readWords (s : State) (a n master : Nat) : State :=
  let weak := wordsIn s.mem.storeWeak a n
  let s1 := { s with mem := { s.mem with storeWeak := s.mem.storeWeak.filter fun w => !weak.contains w } }
  let s2 := weak.foldl (fun (t : State) w => t.logStoreCe (w * 8)) s1
  (wordsIn s.mem.storeBad a n).foldl (fun (t : State) w => t.logStoreUe (w * 8) master) s2

/-- `n` bytes of the store. -/
def State.storeRead (s : State) (a n : Nat) : List Byte := memRead s.mem.store a n

/-- Write bytes to the store as one master's whole words where they cover them: a word with an error is made whole by a
write of all of it; a poisoned one keeps its poison and loses the bytes of a partial write (R150). -/
def State.storeWrite (s : State) (a : Nat) (bs : List Byte) : State :=
  let whole := fun w => a ≤ w * 8 && w * 8 + 8 ≤ a + bs.length
  let bad := s.mem.storeBad.filter fun w => !whole w
  let data := (List.range bs.length).zip bs |>.foldl (fun m (i, b) =>
    if bad.contains ((a + i) / 8) then m else memPut m (a + i) b) s.mem.store
  { s with mem := { s.mem with store := data, storeBad := bad, storeWeak := s.mem.storeWeak.filter fun w => !whole w }
           storeCtl := { s.storeCtl with poisonCode := s.storeCtl.poisonCode.filter fun w => !whole w } }

/-- The longest grant latency of a class, ns: R153 says that the latencies of R151 are met. -/
def latencyBound (cls : Nat) : Nat := if cls = 0 then 1500 else if cls = 1 then 4000 else 65535

/-- Traffic of a master at the arbiter: how many lines its class is granted, and its longest latency within the bound of
R151, the spec leaves to the device; free values (R151–R153; assumption log, entry 7). -/
def State.arbTraffic (s : State) (master : Nat) : State :=
  let cls := storeClass master
  let s1 := (s.add (R.ARB_GRANTS_N cls) (s.freeBits 32)).drawn
  (s1.maxFld (R.ARB_LAT_MAX_NS cls) (s1.freeBits 16 % (latencyBound cls + 1))).drawn

/-- A block reads `n` bytes of the store. -/
def State.blockReads (s : State) (a n master : Nat) : State :=
  if n = 0 then s else (s.readWords a n master).arbTraffic master

/-- A block writes bytes to the store. A word it covers in part is read and rewritten (R138): an error found there is
corrected or logged, and the bytes for a poisoned word are lost (R150). -/
def State.blockWrite (s : State) (a : Nat) (bs : List Byte) (master : Nat) : State :=
  if bs = [] then s
  else
    let e := a + bs.length
    let s1 := if a % 8 = 0 && 8 ≤ bs.length then s else s.readWords (a / 8 * 8) 8 master
    let s2 := if e % 8 = 0 || e / 8 = a / 8 then s1 else s1.readWords (e / 8 * 8) 8 master
    (s2.storeWrite a bs).arbTraffic master

/-! ## Ingress buffers (R142–R144) -/

/-- The start of ingress buffer b. -/
def ingressBuf (b : Nat) : Nat := ingressBase + b * 0x01800000

/-- The buffer that holds frame f. -/
def State.bufOf (s : State) (f : Nat) : Option Nat := (s.storeCtl.bufs.find? fun p => p.2 = f).map (·.1)

/-- Show the buffers in STORE_BUF. A repeat source without a buffer (a frame with no enabled rectangle, which takes none)
shows REP_VALID 1, since a repeat source is held, and REPEAT 0: the spec does not say what REPEAT reads then, DESIGN CHOICE
(assumption log, entry 43). -/
def State.showBufs (s : State) : State :=
  let busy := s.storeCtl.bufs.foldl (fun acc p => insertBits acc p.1 p.1 1) 0
  let rep := s.storeCtl.repeatFrame.bind s.bufOf
  s.setFlds [(R.STORE_BUF_BUSY, busy), (R.STORE_BUF_REP_VALID, b2n s.storeCtl.repeatFrame.isSome),
             (R.STORE_BUF_REPEAT, rep.getD 0)]

/-- Segment pixel index i of a section's raster lies in the footprint of an enabled rectangle (R125). -/
def inFootprints (w h : Nat) (feet : List (Nat × Nat × Nat × Nat)) (i : Nat) : Bool :=
  decide (i < w * h) && feet.any fun f =>
    decide (f.1 ≤ i % w) && decide (i % w < f.1 + f.2.2.1) && decide (f.2.1 ≤ i / w) && decide (i / w < f.2.1 + f.2.2.2)

/-- Write 0 to every word of an ingress buffer for which `keep` does not hold (R143). -/
def Mems.zeroBuf (m : Mems) (b : Nat) (keep : Nat → Bool) : Mems :=
  let kept := fun (w : Nat) => decide (w < ingressBuf b / 8) || decide ((ingressBuf b + 0x01800000) / 8 ≤ w) ||
    keep (w - ingressBuf b / 8)
  { m with store := m.store.filter fun c => kept (c.1 / 8)
           storeBad := m.storeBad.filter kept
           storeWeak := m.storeWeak.filter kept }

/-- Allocate the lowest-numbered free buffer to frame f, every word outside the footprints written 0 (R143). -/
def State.allocBuf (s : State) (f : Nat) (keep : Nat → Bool) : State :=
  match s.bufOf f, (List.range 16).find? (fun b => !(s.storeCtl.bufs.any fun p => p.1 = b)) with
  | none, some b =>
    let mem := s.mem.zeroBuf b keep
    (({ s with storeCtl := { s.storeCtl with
                 bufs := s.storeCtl.bufs ++ [(b, f)]
                 poisonCode := s.storeCtl.poisonCode.filter fun w => mem.storeBad.contains w }
               mem := mem }).arbTraffic pINGEST).showBufs
  | _, _ => s

/-- Free the buffer of frame f, unless f is the repeat source. -/
def State.freeBuf (s : State) (f : Nat) : State :=
  if s.storeCtl.repeatFrame = some f then s
  else ({ s with storeCtl := { s.storeCtl with bufs := s.storeCtl.bufs.filter fun p => p.2 ≠ f } }).showBufs

/-- No repeat source is held any more (R319, R530). -/
def State.dropRepeat (s : State) : State := match s.storeCtl.repeatFrame with
  | none => s
  | some f => ({ s with storeCtl := { s.storeCtl with repeatFrame := none } }).freeBuf f

/-- Frame f becomes the repeat source, and the buffer of the previous one is freed (R143). -/
def State.makeRepeat (s : State) (f : Nat) : State :=
  let old := s.storeCtl.repeatFrame
  let s1 := { s with storeCtl := { s.storeCtl with
    repeatFrame := some f
    bufs := match old with
      | some g => if g = f then s.storeCtl.bufs else s.storeCtl.bufs.filter fun p => p.2 ≠ g
      | none => s.storeCtl.bufs } }
  s1.showBufs

/-! ## Core windows (R149, R150) -/

/-- The store address of a core address in the windows; none through a disabled window or past the usable size
(R149). -/
def State.windowAddr (s : State) (addr : Nat) : Option Nat :=
  let k := (addr - 0x80000000) / 0x10000000
  let a := s.fld (R.SYS_WIN_BASE_MB k) * mib + (addr - 0x80000000) % 0x10000000
  if 0x80000000 ≤ addr && k < 4 && s.flag (R.SYS_WIN_EN k) && a < s.storeSize then some a else none

/-- Serve a core access to store address `a`: a poisoned word faults and is logged; a faulting write leaves the word
unchanged (R150). -/
def State.serveStore (s : State) (h addr a : Nat) (op : CoreOp) : State :=
  let t := s.blockReads a op.size 0xFF
  if (s.firstBad a op.size).isSome then t.coreTrap h op.accessCause addr
  else match op with
    | .store d => (t.storeWrite a d).wroteCode (storeCode a) d.length
    | _ => t.emit (.memData (t.storeRead a op.size))

/-- A core's window access (R139, R149, R150, R330): atomics are not executed on the store, a misaligned access
traps, and before INIT_DONE the core is stalled. -/
def State.windowAccess (s : State) (h addr : Nat) (op : CoreOp) (e : Ecc) : State :=
  if op.isAtomic then s.coreTrap h excStoreAccess addr
  else if !op.aligned addr then s.coreTrap h op.misalignedCause addr
  else match s.windowAddr addr with
    | none => s.coreTrap h op.accessCause addr
    | some a =>
      if s.storeCtl.unusable then s.coreTrap h op.accessCause addr
      else if !s.flag R.STORE_STATUS_INIT_DONE then
        { s with storeCtl := { s.storeCtl with stalled := s.storeCtl.stalled ++ [StalledAccess.mk h addr op] } }
      else (s.storeEcc a e).serveStore h addr a op

/-- STORE_INIT_DONE: every usable word is zero with valid check bits. `bad` are the words that read back uncorrectable:
each is recorded under region 7, and its granule is remapped before any master is admitted, or without a spare left the
store is unusable; then the accesses that wait are served in order (R139). -/
def execStoreInitDone (bad : List Nat) (s : State) : Res :=
  let s := s.begin
  if s.storeCtl.unusable || s.flag R.STORE_STATUS_INIT_DONE || s.rst.down.contains pSTORE then .next s
  else
    let spares := s.fld R.STORE_STATUS_SPARES_LEFT
    let granules := (bad.map (· / 8192)).eraseDups
    let s0 := bad.foldl (fun (t : State) w => t.recordUe (w * 8) 7 pSTORE) s
    if spares < granules.length then .next (s0.makeUnusable 0x0101)
    else
      let s1 := { s0 with mem := { s0.mem with store := [], storeBad := [], storeWeak := [] }
                          storeCtl := { s.storeCtl with remapped := s.storeCtl.remapped ++ granules, stalled := []
                                                        waiting := [] } }
      let s2 := ((s1.setFlds [(R.STORE_STATUS_INIT_DONE, 1), (R.STORE_STATUS_SPARES_LEFT, spares - granules.length)]).add
        R.STORE_CNT_REMAP_N granules.length).irq pSTORE 3
      let s3 := s2.setFlag R.STORE_STATUS_PATROL (s2.fld R.STORE_SCRUB_CFG_PERIOD_H ≠ 0)
      let s4 := s.storeCtl.waiting.foldl (fun (t : State) (x : Nat × List Byte) => t.blockWrite x.1 x.2 pBELAY) s3
      .next (s.storeCtl.stalled.foldl (fun t q => t.windowAccess q.h q.addr q.op .clean) s4)

/-- STORE_REPAIR_DONE: the granule's correctable words are copied corrected, its uncorrectable ones hold the poison code,
and accesses go to the spare (R156). -/
def execStoreRepairDone (granule : Nat) (s : State) : Res :=
  let s := s.begin
  if s.storeCtl.repairing.contains granule then
    let inside := fun (w : Nat) => decide (w / 8192 = granule)
    let bad := s.mem.storeBad.filter inside
    let s0 := (sortUp (fun w => w) (s.mem.storeWeak.filter inside)).foldl (fun (t : State) w => t.logStoreCe (w * 8))
      { s with mem := { s.mem with storeWeak := s.mem.storeWeak.filter fun w => !inside w } }
    let s1 := { s0 with storeCtl := { s.storeCtl with
      repairing := s.storeCtl.repairing.filter fun g => g ≠ granule
      remapped := s.storeCtl.remapped ++ [granule]
      poisonCode := s.storeCtl.poisonCode ++ bad.filter fun w => !s.storeCtl.poisonCode.contains w } }
    .next (((s1.setFld R.STORE_STATUS_SPARES_LEFT (s1.fld R.STORE_STATUS_SPARES_LEFT - 1)).inc
      R.STORE_CNT_REMAP_N).irq pSTORE 2)
  else .next s

/-- PATROL_READ: an error that has arisen at the word `word` of the store since the last command, then the patrol's next
line with the errors it shows, and the position (R137, R157; assumption log, entry 22). -/
def execPatrolRead (e : Ecc) (word : Nat) (s : State) : Res :=
  let s := s.begin
  let s := if s.storeSize ≤ word * 8 || s.storeCtl.unusable then s else s.storeEcc (word * 8) e
  if s.fld R.STORE_SCRUB_CFG_PERIOD_H = 0 || !s.flag R.STORE_STATUS_INIT_DONE || s.storeCtl.unusable then .next s
  else
    let s2 := s.blockReads (s.storeCtl.patrolLine * 64) 64 0xFE
    let nxt := s.storeCtl.patrolLine + 1
    let pos := if nxt * 64 < s.storeSize then nxt else 0
    let s3 := { s2 with storeCtl := { s2.storeCtl with patrolLine := pos } }.setFld R.STORE_SCRUB_POS_GRANULE (pos / 1024)
    .next (if pos = 0 then s3.inc R.STORE_SCRUB_PASSES_N else s3)

/-- STORE_UNUSABLE (R159). -/
def execStoreUnusable (c : StoreCause) (s : State) : Res :=
  .next (s.begin.makeUnusable (match c with
    | .training => 0x0100
    | .sparesOut => 0x0101
    | .remapState => 0x0102))

/-! ## Generation sections of STORE, ARB and SCREE (R161), and the scree loop (R146, R147) -/

/-- Register values taken from a section: (offset in the section, register). -/
def State.loadWords (s : State) (sec : List Byte) : List (Nat × Fld) → State
  | [] => s
  | (o, f) :: t => (s.setFld f (leNat ((sec.drop o).take 4))).loadWords sec t

/-- The frame stride of R146 for a raster of W × H. -/
def screeStride (w h : Nat) : Nat := ((w * h + 15) / 16 * 72 + 63) / 64 * 64

/-- End of the scree region of the variant. -/
def State.screeEnd (s : State) : Nat := s.storeSize

/-- SCREE_STRIDE and SCREE_CAP follow INGEST_SEG and SCREE_BASE (R147). -/
def State.deriveScree (s : State) : State :=
  let st := screeStride (s.fld R.INGEST_SEG_W) (s.fld R.INGEST_SEG_H)
  let base := s.fld R.SCREE_BASE_ADDR * 64
  s.setFlds [(R.SCREE_STRIDE_BYTES, st), (R.SCREE_CAP_FRAMES, if st = 0 then 0 else (s.screeEnd - base) / st)]

end Sys2Proof.Machine
end

