-- ==== Sys2Proof/Machine/Gen.lean ====
section
/-! DEFINITION. Generations: slots, descriptors and their sections (R97–R100), the party section's timing, membership
and governor parts (R97, R199, R293–R296), and what a block takes from its section at a switch. -/
namespace Sys2Proof.Machine

/-! ## Slots (R98) -/

def slotEmpty : Nat := 0
def slotStaged : Nat := 1
def slotReady : Nat := 2
def slotInForce : Nat := 3
def slotRetired : Nat := 4

/-- Slot k. -/
def State.slot (s : State) (k : Nat) : GenSlot := s.commit.slots.getD k {}

/-- Replace slot k. -/
def State.setSlot (s : State) (k : Nat) (g : GenSlot) : State :=
  { s with commit := { s.commit with slots := s.commit.slots.set k g } }

/-- The state of slot k. -/
def State.slotState (s : State) (k : Nat) : Nat := s.fld (R.COMMIT_SLOT_STATE k)

/-- GEN_ID held in slot k. -/
def State.slotGen (s : State) (k : Nat) : Nat := s.fld (R.COMMIT_SLOT_GEN k)

/-- Set the state of slot k. -/
def State.setSlotState (s : State) (k st : Nat) : State := s.setFld (R.COMMIT_SLOT_STATE k) st

/-- The READY slot; R532 keeps it unique. -/
def State.readySlot (s : State) : Option Nat := (List.range 4).find? fun k => s.slotState k = slotReady

/-- GEN_ID of the READY slot, 0 for none. -/
def State.readyGen (s : State) : Nat := match s.readySlot with
  | some k => s.slotGen k
  | none => 0

/-- The generation in force: its slot. -/
def State.curSlot (s : State) : Option Nat := s.commit.cur

/-- GEN of the generation in force, 0 for none. -/
def State.curGen (s : State) : Nat := match s.commit.cur with
  | some k => s.slotGen k
  | none => 0

/-- The slot of latest staging among those staged and not in another state (R296). -/
def State.lastStaged (s : State) : Option Nat :=
  (List.range 4).foldl (fun acc k =>
    if s.slotState k ≠ slotStaged then acc
    else match acc with
      | none => some k
      | some j => if (s.slot j).order < (s.slot k).order then some k else some j) none

/-- The slot that times frames: in force, else READY (R104). -/
def State.timingSlot (s : State) : Option Nat := match s.commit.cur with
  | some k => some k
  | none => s.readySlot

/-- The slot that supplies the membership part and member table (R296). -/
def State.partySlot (s : State) : Option Nat := match s.timingSlot with
  | some k => some k
  | none => s.lastStaged

/-! ## Sections (R97, R100, R155) -/

/-- What reading a section finds. -/
inductive SecRead where
  | absent
  | whole (bytes : List Byte)
  | poisoned (word : Nat)
  | badCrc
deriving DecidableEq, Repr

/-- Bytes a to a + n of a list, as a little-endian number. -/
def leAt (bs : List Byte) (a n : Nat) : Nat := leNat ((bs.drop a).take n)

/-- Bytes a to a + n of a list, as a big-endian number. -/
def beAt (bs : List Byte) (a n : Nat) : Nat := beNat ((bs.drop a).take n)

/-- SECTION_COUNT of the descriptor at store address `a`. -/
def State.secCount (s : State) (a : Nat) : Nat := memLE s.mem.store (a + 12) 2

/-- The section table of the descriptor at store address `a`, one 16-byte entry each. -/
def State.secTable (s : State) (a : Nat) : List (List Byte) :=
  (List.range (s.secCount a)).map fun i => s.storeRead (a + 64 + 16 * i) 16

/-- OFFSET, LENGTH and CRC of the entry for a page and kind. -/
def State.secFind (s : State) (a page kind : Nat) : Option (Nat × Nat × Nat) :=
  ((s.secTable a).find? fun e => leAt e 0 1 = page && leAt e 1 1 = kind).map fun e => (leAt e 4 4, leAt e 8 4, leAt e 12 4)

/-- Read a section of a descriptor (R100). -/
def State.secRead (s : State) (a page kind : Nat) : SecRead :=
  match s.firstBad a (64 + 16 * s.secCount a) with
  | some w => .poisoned w
  | none => match s.secFind a page kind with
    | none => .absent
    | some (off, len, crc) => match s.firstBad (a + off) len with
      | some w => .poisoned w
      | none => if crc32 (s.storeRead (a + off) len) = crc then .whole (s.storeRead (a + off) len) else .badCrc

/-- Block `page` reads section `kind` of a page from the descriptor at store address `a`: the header and table, and the
section's bytes, whose errors are corrected or logged (R100, R154, R155). -/
def State.readsSec (s : State) (master a page kind : Nat) : State :=
  let s1 := s.blockReads a (64 + 16 * s.secCount a) master
  if (s.firstBad a (64 + 16 * s.secCount a)).isSome then s1
  else match s.secFind a page kind with
    | none => s1
    | some (off, len, _) => s1.blockReads (a + off) len master

/-- The bytes of a section read whole. -/
def SecRead.bytes? : SecRead → Option (List Byte)
  | .whole b => some b
  | _ => none

/-- The fence cause of a section that is not whole (R100, R155). -/
def SecRead.cause : SecRead → Option Nat
  | .poisoned _ => some causeEcc
  | .badCrc => some causeSectionCrc
  | _ => none

/-- The registers of a page from offset `off`, loaded from consecutive words of a section. -/
def State.loadRange (s : State) (page off : Nat) : List Byte → State
  | b0 :: b1 :: b2 :: b3 :: t => (s.setReg page off (BitVec.ofNat 32 (leNat [b0, b1, b2, b3]))).loadRange page (off + 4) t
  | _ => s

/-- A block takes its section at a switch: it loads the registers it holds, or is fenced whole (R100, R155). -/
def State.takeSection (s : State) (a page : Nat) (load : State → List Byte → State) : State :=
  let r := s.secRead a page 1
  let s1 := s.readsSec page a page 1
  match r with
  | .whole b => load s1 b
  | .absent => s1
  | .poisoned _ => s1.fenceBlock page causeEcc
  | .badCrc => s1.fenceBlock page causeSectionCrc

/-! ## The party section -/

/-- The timing parameters of a party section (R97). -/
def Timing.ofParty (p : List Byte) : Timing :=
  { num := leAt p 0 4, den := leAt p 4 4, lPresent := leAt p 8 1, lCommitUs := leAt p 12 2,
    haveLeadUs := leAt p 14 2, closeLeadUs := leAt p 16 2 }

/-- A party section with a usable frame rate. -/
def State.timingOf (s : State) (k : Option Nat) : Option Timing := match k with
  | some j => if leAt (s.slot j).party 0 4 = 0 || leAt (s.slot j).party 4 4 = 0 then none
              else some (Timing.ofParty (s.slot j).party)
  | none => none

/-- The timing of frames; none before a slot supplies it (R104). -/
def State.timing (s : State) : Option Timing := s.timingOf s.timingSlot

/-- The frame arithmetic of the WINDOW and ACT_MISMATCH checks (R296). -/
def State.checkTiming (s : State) : Option Timing := s.timingOf s.partySlot

/-- The party section that supplies membership. -/
def State.partyBytes (s : State) : List Byte := match s.partySlot with
  | some k => (s.slot k).party
  | none => []

/-- A member of the table (R294). -/
structure Member where
  id : Nat
  segment : Nat
  position : Nat
deriving DecidableEq, Repr

/-- The member table of a party section. -/
def membersOf (p : List Byte) : List Member :=
  (List.range (leAt p 28 2)).map fun i =>
    ⟨leAt p (128 + 16 * i) 2, leAt p (130 + 16 * i) 2, bits (leAt p (132 + 16 * i) 1) 3 3⟩

/-- The member table in use. -/
def State.members (s : State) : List Member := membersOf s.partyBytes

/-- The member of a module ID. -/
def State.isMember (s : State) (id : Nat) : Bool := s.members.any fun m => m.id = id

/-- SYS_STRAP.POSITION (R70). -/
def State.position (s : State) : Nat := s.fld R.SYS_STRAP_POSITION

/-- The segment of the PAGE 0x39 section in use. -/
def State.ownSegment (s : State) : Option Nat := match s.partySlot with
  | some k => (s.slot k).segment
  | none => none

/-- The module's own module ID (R295). -/
def State.ownId (s : State) : Option Nat := match s.ownSegment with
  | none => none
  | some g => (s.members.find? fun m => m.segment = g && m.position = s.position).map (·.id)

/-- The partner's module ID (R295). -/
def State.partnerId (s : State) : Option Nat := match s.ownSegment, s.ownId with
  | some g, some i => (s.members.find? fun m => m.segment = g && m.id ≠ i).map (·.id)
  | _, _ => none

/-- SUMMIT_ID and STANDBY_ID of a party section (R293). -/
def State.summitId (s : State) : Nat := leAt s.partyBytes 98 2
def State.standbyId (s : State) : Nat := leAt s.partyBytes 100 2

/-- A module ID is one of the candidates (R299). -/
def State.isCandidate (s : State) (id : Nat) : Bool :=
  s.partySlot.isSome && (id = s.summitId || id = s.standbyId)

/-- Fields of the party section of the generation in force, 0 with none in force (R95, R97). -/
def State.partyParam (s : State) (off len : Nat) : Nat := match s.commit.cur with
  | some k => leAt (s.slot k).party off len
  | none => 0

/-- The same, taken from the READY slot while no generation is in force (R104). -/
def State.timedParam (s : State) (off len : Nat) : Nat := match s.timingSlot with
  | some k => leAt (s.slot k).party off len
  | none => 0

/-- The PARTY registers follow the slots: timing of the generation in force, membership under R296. -/
def State.showParty (s : State) : State :=
  let p := s.partyBytes
  let s1 := s.setFlds
    [(R.PARTY_RATE_NUM_NUM, s.partyParam 0 4), (R.PARTY_RATE_DEN_DEN, s.partyParam 4 4),
     (R.PARTY_TIMING_L_PRESENT, s.partyParam 8 1), (R.PARTY_TIMING_LAG_K, s.partyParam 9 1),
     (R.PARTY_TIMING_COMMIT_LOSS_LIMIT, s.partyParam 10 1), (R.PARTY_TIMING_L_COMMIT_US, s.partyParam 12 2),
     (R.PARTY_LEADS_HAVE_LEAD_US, s.partyParam 14 2), (R.PARTY_LEADS_CLOSE_LEAD_US, s.partyParam 16 2),
     (R.PARTY_ISO_ISOLATED_GAIN, s.partyParam 18 2), (R.PARTY_LIMITS_TORN_LIMIT, s.partyParam 20 2),
     (R.PARTY_LIMITS_REPEAT_TO_SCREE, s.partyParam 22 2), (R.PARTY_LSCREE_L, s.partyParam 24 4)]
  let cand := if s.partySlot.isSome then (leAt p 98 2, leAt p 100 2) else (0xFFFF, 0xFFFF)
  let s2 := s1.setFlds
    [(R.PARTY_PID_PID, leAt p 96 2), (R.PARTY_CAND_SUMMIT_ID, cand.1), (R.PARTY_CAND_STANDBY_ID, cand.2),
     (R.PARTY_NET_UDP, leAt p 102 2), (R.PARTY_NET_LEASE_S, leAt p 121 1), (R.PARTY_NET_TTL, leAt p 120 1),
     (R.PARTY_GRP_A_ADDR, leAt p 104 4), (R.PARTY_GRP_B_ADDR, leAt p 108 4), (R.PARTY_HGRP_A_ADDR, leAt p 112 4),
     (R.PARTY_HGRP_B_ADDR, leAt p 116 4), (R.PARTY_MEMBERS_COUNT, leAt p 28 2)]
  s2.setFlds
    [(R.PARTY_SELF_VALID, b2n s.ownId.isSome), (R.PARTY_SELF_SEGMENT, s.ownSegment.getD 0),
     (R.PARTY_SELF_POSITION, s.position), (R.PARTY_SELF_MODULE_ID, s.ownId.getD 0),
     (R.BELAY_PARTNER_VALID, b2n s.partnerId.isSome), (R.BELAY_PARTNER_ID, s.partnerId.getD 0)]

/-- The PTP settings of a party section, as a generation puts them in force (R81, R97). -/
def State.takePtp (s : State) (p : List Byte) : State :=
  s.setFlds
    [(R.PTP_CFG_DOMAIN, leAt p 32 1), (R.PTP_CFG_LOG_SYNC, bits (leAt p 33 1) 3 0),
     (R.PTP_CFG_LOG_ANN, bits (leAt p 33 1) 7 4), (R.PTP_CFG_ANN_TO, leAt p 34 1),
     (R.PTP_CFG_GM_EN, bits (leAt p 35 1) 0 0), (R.PTP_CFG_DELAY_UNICAST, bits (leAt p 35 1) 1 1),
     (R.PTP_CFG_PORT_MODE, bits (leAt p 35 1) 3 2), (R.PTP_SERVO_CTRL_EN, bits (leAt p 35 1) 4 4),
     (R.PTP_SERVO_CTRL_KP_SHIFT, leAt p 36 1), (R.PTP_SERVO_CTRL_KI_SHIFT, leAt p 37 1),
     (R.PTP_SERVO_CTRL_DLY_SHIFT, leAt p 38 1), (R.PTP_CFG_GM_PRIO1, leAt p 39 1), (R.PTP_STEP_THRESH_NS, leAt p 40 4)]

/-- The INGEST section of the READY slot. -/
def State.readyIngest (s : State) : Option (List Byte) := match s.readySlot with
  | some k => (s.slot k).ingest
  | none => none

/-- The READY slot's ingest section differs from that of the generation in force; with none in force it counts as
differing (R103, R134). -/
def State.readyDiffers (s : State) : Bool := match s.readySlot, s.commit.cur with
  | some k, some c => (s.slot k).ingest ≠ (s.slot c).ingest
  | some _, none => true
  | none, _ => false

end Sys2Proof.Machine
end

