-- ==== Sys2Proof/Machine/Ptp.lean ====
section
/-! DEFINITION. Frame time: the PTP servo (R75–R81, R529, R531) and PPS_OUT (R524). -/
namespace Sys2Proof.Machine

/-- RATE_LIMIT of R77: 200 ppm in 2^−48 ns/ns. -/
def rateLimit : Int := 56294995342

/-- The servo states of R78. -/
def ptpFreerun : Nat := 0
def ptpAcquiring : Nat := 1
def ptpLocked : Nat := 2
def ptpHoldover : Nat := 3
def ptpGrandmaster : Nat := 4

/-- PTP_STATE.STATE. -/
def State.ptpState (s : State) : Nat := s.fld R.PTP_STATE_STATE

/-- "PTP locked" of R529: LOCKED or GRANDMASTER. -/
def State.ptpIsLocked (s : State) : Bool := s.ptpState = ptpLocked || s.ptpState = ptpGrandmaster

/-- The TIME_VALID flags: PTP locked, or in holdover under 60 s (R456, R494, R529). -/
def State.timeValid (s : State) : Bool :=
  s.ptpIsLocked || (s.ptpState = ptpHoldover && s.ptp.holdNs < 60000000000)

/-- An s4 log interval field as an integer. -/
def logField (n : Nat) : Int := toSigned 4 n

/-- 2^k seconds in ns, exact for k down to −9. -/
def intervalNs (k : Int) : Nat :=
  if k < 0 then 1000000000 / 2 ^ (-k).toNat else 1000000000 * 2 ^ k.toNat

/-- The sync interval S of R77, ns. -/
def State.syncNs (s : State) : Nat := intervalNs (logField (s.fld R.PTP_CFG_LOG_SYNC))

/-- Write `rate` and its register. -/
def State.setRate (s : State) (r : Int) : State :=
  let f := ofSigned 40 r
  ({ s with ptp := { s.ptp with rate := r } }.setFld R.PTP_RATE_LO_RATE_LO f).setFld R.PTP_RATE_HI_RATE_HI (f / 2 ^ 32)

/-- Move the servo to a state of R78, with its alarms and event. -/
def State.setPtpState (s : State) (st : Nat) : State :=
  if s.ptpState = st then s
  else
    let s1 := if s.ptpState = ptpLocked then s.setFld R.PTP_ALARM_UNLOCK 1 else s
    let s2 := if st = ptpHoldover then
        { s1 with ptp := { s1.ptp with holdNs := 0 } }.setFld R.PTP_ALARM_HOLDOVER 1
      else s1
    let s3 := if s.flag R.PTP_SERVO_CTRL_EN && (st = ptpHoldover || st = ptpGrandmaster || st = ptpFreerun) then
        s2.setRate s2.ptp.i else s2
    (s3.setFld R.PTP_STATE_STATE st).irq pPTP 0

/-- Apply a step of the frame time: the alarm, PTP_LAST_STEP and the cairn record of R79. -/
def State.applyStep (s : State) (step : Int) : State :=
  let ns := ((s.ptp.ns : Int) + step).toNat
  (({ s with ptp := { s.ptp with ns := ns, frac := 0, step := none } }.setFld R.PTP_LAST_STEP_NS
    (ofSigned 32 (satS 32 step))).setFld R.PTP_ALARM_STEP 1).event pPTP 2 noUnit (ofSigned 32 (satS 32 step))

/-- Frame time goes back with no generation in force: the frames it comes to again are new ones (assumption log,
entry 46). -/
def State.forgetFrames (s : State) : State :=
  { s with commit := { s.commit with passed := none, dueDone := none }
           ingest := { s.ingest with closed := [] }
           party := { s.party with closed := [], closes := [] } }

/-- A step is requested: at once with no generation in force, else at the next frame boundary, replacing an earlier
request (R79). -/
def State.requestStep (s : State) (step : Int) : State :=
  if s.flag R.COMMIT_GEN_CUR_VALID then { s with ptp := { s.ptp with step := some step } }
  else if step < 0 then (s.applyStep step).forgetFrames
  else s.applyStep step

/-- LOCK_CNT and the state changes of R78 that an offset sample `o` makes. -/
def State.sampleState (s : State) (o : Int) : State :=
  let inWindow := decide (o.natAbs ≤ 1000)
  let s1 := s.setFld R.PTP_STATE_LOCK_CNT (if inWindow then min 255 (s.fld R.PTP_STATE_LOCK_CNT + 1) else 0)
  let st := s1.ptpState
  if st = ptpFreerun then s1.setPtpState ptpAcquiring
  else if st = ptpAcquiring then
    if inWindow && 16 ≤ s1.fld R.PTP_STATE_LOCK_CNT then s1.setPtpState ptpLocked else s1
  else if st = ptpHoldover then s1.setPtpState (if inWindow then ptpLocked else ptpAcquiring)
  else if st = ptpLocked then if inWindow then s1 else s1.setPtpState ptpAcquiring
  else s1

/-- The servo's update of `i` and `rate` from an offset sample (R77), held while PTP_SERVO_CTRL.EN is 0. -/
def State.servo (s : State) (o : Int) : State :=
  if s.flag R.PTP_SERVO_CTRL_EN then
    let f := tdiv (o * 2 ^ 48) s.syncNs
    let i := clampI (s.ptp.i - f / 2 ^ s.fld R.PTP_SERVO_CTRL_KI_SHIFT) (-rateLimit) rateLimit
    let r := i - f / 2 ^ s.fld R.PTP_SERVO_CTRL_KP_SHIFT
    let s1 := { s with ptp := { s.ptp with i := i } }.setRate (clampI r (-rateLimit) rateLimit)
    if clampI r (-rateLimit) rateLimit = r then s1 else s1.setFld R.PTP_ALARM_RATE_LIMIT 1
  else s

/-- A Sync is complete: later Delay_Reqs pair with it. -/
def State.syncDone (s : State) (t1 t2 : Nat) (corr : Int) : State :=
  { s with ptp := { s.ptp with lastSync := some (t1, t2, corr), awaiting := none, awaitD := none } }

/-- The path delay in force now; none before the first Delay_Req exchange has completed (R531). -/
def State.delayNow (s : State) : Option Int := if s.ptp.exchanged then some s.ptp.d else none

/-- One offset sample from a complete Sync (R77), with the path delay `d` in force at it: valid once the first Delay_Req
exchange had completed (R531). -/
def State.offsetSample (s : State) (t1 t2 : Nat) (corr : Int) (d : Option Int) : State :=
  let s0 := s.syncDone t1 t2 corr
  match d with
  | none => s0
  | some d =>
    let o : Int := ((t2 : Int) - t1 - corr) - d
    let s1 := ((s0.setFld R.PTP_OFFSET_O (ofSigned 32 (satS 32 o))).inc R.PTP_CNT_SYNC_N).sampleState o
    if (s1.fld R.PTP_STEP_THRESH_NS : Int) < o.natAbs then s1.requestStep (-o) else s1.servo o

/-- The port is one PTP_CFG.PORT_MODE lets PTP listen on (R76). -/
def State.ptpListens (s : State) (p : Port) : Bool :=
  match s.fld R.PTP_CFG_PORT_MODE, p with
  | 0, _ => true
  | 1, .a => true
  | 2, .b => true
  | _, _ => false

/-- A message of the selected foreign master, received on the active port (R76). -/
def State.fromMaster (s : State) (p : Port) (source domain : Nat) : Bool :=
  s.ptpListens p && domain = s.fld R.PTP_CFG_DOMAIN &&
    (match s.ptp.master with
     | some m => m.source = source
     | none => false) &&
    (match s.ptp.active with
     | some q => q = p
     | none => true)

/-- The port on which the selected master's Sync arrives first becomes the active port (R76). -/
def State.noteActive (s : State) (p : Port) : State :=
  match s.ptp.active with
  | some _ => s
  | none => { s with ptp := { s.ptp with active := some p } }.setFld R.PTP_STATE_PORT p.ix

/-- PTP_SYNC_RECEIVE (R76, R77). -/
def execPtpSyncReceive (m : PtpSync) (s : State) : Res :=
  let s := s.begin
  if s.fromMaster m.port m.source m.domain then
    let s1 := s.noteActive m.port
    .next (if m.twoStep then { s1 with ptp := { s1.ptp with awaiting := some m, awaitD := s1.delayNow } }
      else s1.offsetSample m.t1 m.t2 m.corr s1.delayNow)
  else .next s

/-- A Delay_Req sent between a two-step Sync and its Follow_Up pairs with that Sync (R531). -/
def State.pairDelayReq (s : State) (t1 t2 : Nat) (corr : Int) : State :=
  { s with ptp := { s.ptp with delayReq := s.ptp.delayReq.map fun q =>
    if q.opened then { q with pair := some (t1, t2, corr), opened := false } else q } }

/-- PTP_FOLLOW_UP_RECEIVE: the origin time of the Follow_Up, and both corrections, complete the Sync (R77). -/
def execPtpFollowUpReceive (port : Port) (source seq t1 : Nat) (corr : Int) (s : State) : Res :=
  let s := s.begin
  match s.ptp.awaiting with
  | some m =>
    .next (if m.port = port && m.source = source && m.seq = seq then
      (s.pairDelayReq t1 m.t2 (m.corr + corr)).offsetSample t1 m.t2 (m.corr + corr) s.ptp.awaitD else s)
  | none => .next s

/-- The active port. Before a Sync of the selected master has made one active, the port on which its Announce was heard:
DESIGN CHOICE (assumption log, entry 46). -/
def State.activePort (s : State) : Port := s.ptp.active.getD ((s.ptp.master.map (·.port)).getD .a)

/-- PTP_DELAY_REQ_TIMER: Delay_Req to the selected master, paired with the latest Sync received before it (R531). -/
def execPtpDelayReqTimer (t3 : Nat) (s : State) : Res :=
  let s := s.begin
  match s.ptp.master with
  | some m =>
    .next ({ s with ptp := { s.ptp with
        delayReq := some ⟨s.ptp.reqSeq, t3, s.ptp.lastSync, s.ptp.awaiting.isSome⟩
        reqSeq := (s.ptp.reqSeq + 1) % 65536 } }.emit
      (.ptpMsg s.activePort (s.netHead s.activePort) 0x1 s.ptp.reqSeq t3 [b2n (s.flag R.PTP_CFG_DELAY_UNICAST), m.source]))
  | none => .next s

/-- PTP_DELAY_RESP_RECEIVE: the exchange completes and the delay filter of R77 takes d_raw, where a valid Sync was
received before the Delay_Req (R531). -/
def execPtpDelayRespReceive (port : Port) (source seq t4 : Nat) (corr logInterval : Int) (s : State) : Res :=
  let s := s.begin
  match s.ptp.delayReq with
  | none => .next s
  | some q =>
    if !(s.fromMaster port source (s.fld R.PTP_CFG_DOMAIN) && q.seq = seq) then .next s
    else
      let s1 := { s with ptp := { s.ptp with delayReq := none, reqLog := some logInterval } }
      match q.pair with
      | none => .next s1
      | some (t1, t2, corr1) =>
        let draw := tdiv (((t2 : Int) - t1 - corr1) + ((t4 : Int) - q.t3 - corr)) 2
        let d := s.ptp.d + (draw - s.ptp.d) / 2 ^ s.fld R.PTP_SERVO_CTRL_DLY_SHIFT
        .next ({ s1 with ptp := { s1.ptp with d := d, exchanged := true } }.setFld R.PTP_DELAY_D (ofSigned 32 (satS 32 d)))

/-! ## Best master selection (R75, R76, R80) -/

/-- The dataset of a foreign master, in the order the default comparison reads it. -/
def PtpAnnounce.rank (a : PtpAnnounce) : List Nat := [a.prio1, a.clockClass, a.accuracy, a.variance, a.prio2, a.gmId]

/-- The order among Announces of one grandmaster: steps removed, sender, receiving port. -/
def PtpAnnounce.path (a : PtpAnnounce) : List Nat := [a.steps, a.source, a.port.ix]

/-- The first list is smaller in dictionary order. -/
def rankLess : List Nat → List Nat → Bool
  | a :: as, b :: bs => if a < b then true else if b < a then false else rankLess as bs
  | [], _ :: _ => true
  | _, _ => false

/-- The module is summit or standby summit for R80: its acting role is one of listening, summit and standby (R299). -/
def State.gmRole (s : State) : Bool := s.fld R.PARTY_ROLE_ROLE ≠ 0

/-- priority2 the module announces: 128 as summit, 129 as standby summit (R80). -/
def State.ownPrio2 (s : State) : Nat := if s.fld R.PARTY_ROLE_ROLE = 2 then 128 else 129

/-- The dataset of the module's own clock as grandmaster (R80). -/
def State.ownRank (s : State) : List Nat :=
  [s.fld R.PTP_CFG_GM_PRIO1, 248, 0xFE, Config.ownVariance, s.ownPrio2, Config.ownClockId]

/-- GRANDMASTER may be entered: GM_EN is 1 and the module is summit or standby summit (R80). -/
def State.gmPermitted (s : State) : Bool := s.flag R.PTP_CFG_GM_EN && s.gmRole

/-- The better of two Announces by the default dataset comparison: the path decides between two of one grandmaster. -/
def PtpAnnounce.beats (a b : PtpAnnounce) : Bool :=
  if a.gmId = b.gmId then rankLess a.path b.path else rankLess a.rank b.rank

/-- The best of the foreign masters heard. -/
def bestForeign (as : List PtpAnnounce) : Option PtpAnnounce :=
  as.foldl (fun acc a => match acc with
    | none => some a
    | some b => if a.beats b then some a else some b) none

/-- FOREIGN_MASTER_TIME_WINDOW of IEEE 1588-2019, four Announce intervals, ns. -/
def State.announceWindow (s : State) : Nat := 4 * intervalNs (logField (s.fld R.PTP_CFG_LOG_ANN))

/-- A foreign master is qualified: FOREIGN_MASTER_THRESHOLD, two Announces, heard within the window, and fewer than 255
steps removed (IEEE 1588-2019 9.3.2.5). -/
def State.qualified (s : State) (a : PtpAnnounce) : Bool :=
  a.steps < 255 && 2 ≤ (s.ptp.heard.filter fun h =>
    h.1 = a.source && h.2.1 = a.port && s.now ≤ h.2.2 + s.announceWindow).length

/-- The selected master changes to a clock identity: PTP_GM_ID, the alarm and the event. -/
def State.newMasterId (s : State) (clock : Nat) : State :=
  if s.wide R.PTP_GM_ID_LO_ID_LO R.PTP_GM_ID_HI_ID_HI = clock % 2 ^ 64 then s
  else (((s.setFld R.PTP_GM_ID_LO_ID_LO clock).setFld R.PTP_GM_ID_HI_ID_HI (clock / 2 ^ 32)).setFld
    R.PTP_ALARM_GM_CHANGE 1).irq pPTP 3

/-- BMCA selects a foreign master: leaving GRANDMASTER, the servo is ACQUIRING (R80). A new source has no Sync, no
active port and no exchange yet. -/
def State.selectForeign (s : State) (m : PtpAnnounce) : State :=
  let same : Bool := match s.ptp.master with
    | some q => q.source = m.source
    | none => false
  let s1 := if same then { s with ptp := { s.ptp with master := some m, own := false } }
    else { s with ptp := { s.ptp with master := some m, own := false, active := none, awaiting := none,
                                       lastSync := none, delayReq := none } }
  let s2 := s1.newMasterId m.gmId
  if s2.ptpState = ptpGrandmaster then s2.setPtpState ptpAcquiring else s2

/-- BMCA selects the module's own clock; the module becomes grandmaster where it is permitted to (R80). -/
def State.selectOwn (s : State) : State :=
  let s1 := { s with ptp := { s.ptp with master := none, own := true, awaiting := none, delayReq := none } }
  if s1.gmPermitted then (s1.newMasterId Config.ownClockId).setPtpState ptpGrandmaster else s1

/-- Every port in use has been quiet for announceReceiptTimeout (R80). -/
def State.allQuiet (s : State) : Bool :=
  (!s.ptpListens .a || s.ptp.quietA) && (!s.ptpListens .b || s.ptp.quietB)

/-- One evaluation of BMCA over what has been heard (R75, R80). -/
def State.bmca (s : State) : State :=
  match bestForeign (s.ptp.foreign.filter s.qualified) with
  | some m =>
    if s.gmPermitted && !rankLess m.rank s.ownRank then if s.allQuiet then s.selectOwn else s else s.selectForeign m
  | none => if s.allQuiet && s.gmPermitted then s.selectOwn else s

/-- PTP_ANNOUNCE_RECEIVE (R76, R80). A qualified Announce of a better master ends the quiet of its port. -/
def execPtpAnnounceReceive (a : PtpAnnounce) (s : State) : Res :=
  let s := s.begin
  if s.ptpListens a.port && a.domain = s.fld R.PTP_CFG_DOMAIN then
    let s1 := { s with ptp := { s.ptp with
      foreign := a :: s.ptp.foreign.filter fun b => !(b.source = a.source && b.port = a.port)
      heard := (a.source, a.port, s.now) :: s.ptp.heard.filter fun h => s.now ≤ h.2.2 + s.announceWindow } }
    let better := s1.qualified a && (!s.gmPermitted || rankLess a.rank s.ownRank)
    .next ({ s1 with ptp := { s1.ptp with
      quietA := s.ptp.quietA && !(better && a.port = Port.a)
      quietB := s.ptp.quietB && !(better && a.port = Port.b) } }.bmca)
  else .next s

/-- PTP_MESSAGE_REFUSED: peer-delay messages are counted, management and signalling messages are not (R75). -/
def execPtpMessageRefused (k : PtpRefused) (s : State) : Res :=
  let s := s.begin
  match k with
  | .peerDelay => .next (s.inc R.PTP_CNT_BAD_N)
  | .management => .next s
  | .signalling => .next s

/-- ANNOUNCE_RECEIPT_TIMEOUT on a port: its masters are no longer heard there; the active port changes when the same
or another master is heard on the other port, else BMCA may select the own clock (R76, R80). -/
def execAnnounceReceiptTimeout (p : Port) (s : State) : Res :=
  let s := s.begin
  let left := s.ptp.foreign.filter fun b => b.port ≠ p
  let s1 := { s with ptp := { s.ptp with
    foreign := left
    heard := s.ptp.heard.filter fun h => h.2.1 ≠ p
    quietA := s.ptp.quietA || p = Port.a
    quietB := s.ptp.quietB || p = Port.b
    active := if s.ptp.active = some p then none else s.ptp.active } }
  match bestForeign (left.filter s1.qualified) with
  | some _ => .next s1.bmca
  | none => .next ({ s1 with ptp := { s1.ptp with master := none } }.bmca)

/-- GM_SYNC_SEND: as grandmaster, two-step Sync with its Follow_Up, or Announce, on every port in use (R80). -/
def execGmSyncSend (announce : Bool) (s : State) : Res :=
  let s := s.begin
  if s.ptpState = ptpGrandmaster then
    let q := s.ptp.gmSeq
    let send := fun (s : State) (p : Port) =>
      if !s.ptpListens p then s
      else if announce then
        s.emit (.ptpMsg p (s.netHead p) 0xB q s.ptp.ns [s.fld R.PTP_CFG_GM_PRIO1, 248, 0xFE, s.ownPrio2, s.fld R.PTP_CFG_DOMAIN])
      else (s.emit (.ptpMsg p (s.netHead p) 0x0 q s.ptp.ns [s.fld R.PTP_CFG_DOMAIN])).emit
        (.ptpMsg p (s.netHead p) 0x8 q s.ptp.ns [s.fld R.PTP_CFG_DOMAIN])
    let s1 := send (send s .a) .b
    .next { s1 with ptp := { s1.ptp with gmSeq := (q + 1) % 65536 } }
  else .next s

/-- GM_DELAY_REQ_RECEIVE: as grandmaster, the Delay_Resp with the receive time (R80). -/
def execGmDelayReqReceive (p : Port) (source seq t4 : Nat) (s : State) : Res :=
  let s := s.begin
  if s.ptpState = ptpGrandmaster && s.ptpListens p then .next (s.emit (.ptpMsg p (s.netHead p) 0x9 seq t4 [source]))
  else .next s

/-- PTP_SAMPLE_LOSS: 8 sync intervals without a valid sample (R77, R78). LOCK_CNT starts again from 0: DESIGN CHOICE
(assumption log, entry 46); the spec does not say whether a loss breaks a run of consecutive samples. -/
def execPtpSampleLoss (s : State) : Res :=
  let s := s.begin
  let s1 := s.setFld R.PTP_STATE_LOCK_CNT 0
  if s.ptpState = ptpLocked then .next (s1.setPtpState ptpHoldover)
  else if s.ptpState = ptpAcquiring then .next (s1.setPtpState ptpFreerun)
  else .next s

/-- HOLDOVER_60S: the holdover alarm (R78). -/
def execHoldover60s (s : State) : Res :=
  let s := s.begin
  if s.ptpState = ptpHoldover then
    .next (({ s with ptp := { s.ptp with holdNs := max s.ptp.holdNs 60000000000 } }.setFld R.PTP_ALARM_HOLD60 1).irq pPTP 1)
  else .next s

/-- The states in which PPS_OUT pulses (R524). -/
def State.ppsRuns (s : State) : Bool :=
  s.ptpState = ptpLocked || s.ptpState = ptpHoldover || s.ptpState = ptpGrandmaster

/-- PPS_PULSE: at a whole second of frame time PPS_OUT rises (R524). -/
def execPpsPulse (s : State) : Res :=
  let s := s.begin
  .next (if s.ppsRuns && !s.pins.ppsHeld then { s with pins := { s.pins with pps := true } } else s)

/-- PPS_FALL: 100 ms later it falls, whatever the state has become (R524). -/
def execPpsFall (s : State) : Res :=
  let s := s.begin
  .next { s with pins := { s.pins with pps := false } }

end Sys2Proof.Machine
end

