-- ==== Sys2Proof/Machine/Net.lean ====
section
/-! DEFINITION. The network ports: cage and link (R106–R109), frame classification (R110, R111), IGMP (R112), and the
firmware receive ring of the LCP page (R110 class 6). -/
namespace Sys2Proof.Machine

/-- The state of a port. -/
def State.net (s : State) : Port → PortS
  | .a => s.netA
  | .b => s.netB

/-- Change the state of a port. -/
def State.setNet (s : State) (p : Port) (n : PortS) : State := match p with
  | .a => { s with netA := n }
  | .b => { s with netB := n }

/-- PORT_EN of a port. -/
def State.portEn (s : State) (p : Port) : Bool := s.flag (R.NET_CFG_PORT_EN p.ix)

/-- SFPx_ABS of a port is high: no module in the cage. -/
def State.cageEmpty (s : State) : Port → Bool
  | .a => s.pins.absA
  | .b => s.pins.absB

/-- Set the level of SFPx_ABS. -/
def State.setAbs (s : State) (p : Port) (v : Bool) : State := match p with
  | .a => { s with pins := { s.pins with absA := v } }
  | .b => { s with pins := { s.pins with absB := v } }

/-- Set the level of SFPx_LOS. -/
def State.setLos (s : State) (p : Port) (v : Bool) : State := match p with
  | .a => { s with pins := { s.pins with losA := v } }
  | .b => { s with pins := { s.pins with losB := v } }

/-- Set the level of SFPx_TXFLT. -/
def State.setTxflt (s : State) (p : Port) (v : Bool) : State := match p with
  | .a => { s with pins := { s.pins with txfltA := v } }
  | .b => { s with pins := { s.pins with txfltB := v } }

/-- The port receives and sends: its link is up and it is not fenced. -/
def State.portReceives (s : State) (p : Port) : Bool :=
  s.flag (R.NET_LINK_UP p.ix) && !s.isFenced (pNET p) noUnit

/-- The link goes down: counted, the event raised, and no report waits on it any more. -/
def State.dropLink (s : State) (p : Port) : State :=
  if s.flag (R.NET_LINK_UP p.ix) then
    (((s.setNet p { s.net p with reportDue := [], repeats := [] }).setFlds [(R.NET_LINK_UP p.ix, 0), (R.NET_LINK_SPEED_ACT p.ix, 0), (R.NET_LINK_FEC_ACT p.ix, 0)]).inc
      (R.NET_CNT_LINK_DOWN_N p.ix)).irq (pNET p) 0
  else s

/-- Step 2 of R107: SFPx_TXDIS driven low, acquisition at 25 Gb/s or at the fixed speed. -/
def State.startAcquire (s : State) (p : Port) : State :=
  if s.portEn p && !s.cageEmpty p && !s.isFenced (pNET p) noUnit then
    (s.setNet p { s.net p with acquiring := true, trying := if s.fld (R.NET_CFG_SPEED p.ix) = 2 then 2 else 1,
                               faultRelease := false }).setFld (R.NET_LINK_TX_OFF p.ix) 0
  else s

/-- SFPx_TXDIS is released and the port neither transmits nor acquires. -/
def State.stopPort (s : State) (p : Port) : State :=
  ((s.dropLink p).setNet p { s.net p with acquiring := false, trying := 0, faultRelease := false }).setFld
    (R.NET_LINK_TX_OFF p.ix) 1

/-- SFP_INSERT: the origin of R107 while PORT_EN is 1; SFPx_TXDIS stays released for 300 ms. -/
def execSfpInsert (p : Port) (s : State) : Res :=
  let s := s.begin
  if s.cageEmpty p then .next (((s.setAbs p false).stopPort p).irq (pNET p) 1) else .next s

/-- SFP_REMOVE: SFPx_TXDIS is released at once and the link goes down (R107). -/
def execSfpRemove (p : Port) (s : State) : Res :=
  let s := s.begin
  if s.cageEmpty p then .next s else .next (((s.setAbs p true).stopPort p).irq (pNET p) 1)

/-- LINK_TXDIS_TIMER: step 2 of R107. -/
def execLinkTxdisTimer (p : Port) (s : State) : Res :=
  let s := s.begin
  .next (if (s.net p).acquiring then s else s.startAcquire p)

/-- LINK_SPEED_ALTERNATE: step 3 of R107, while there is no link. -/
def execLinkSpeedAlternate (p : Port) (s : State) : Res :=
  let s := s.begin
  if (s.net p).acquiring && s.fld (R.NET_CFG_SPEED p.ix) = 0 && !s.flag (R.NET_LINK_UP p.ix) then
    .next (s.setNet p { s.net p with trying := if (s.net p).trying = 1 then 2 else 1 })
  else .next s

/-- The FEC in use at a speed, as NETx_LINK.FEC_ACT shows it: 0 none, 2 BASE-R, 3 RS (R106, NETx_CFG.FEC). -/
def fecAct (cfg speed : Nat) : Nat :=
  if cfg = 1 then 0 else if cfg = 2 then 2 else if speed = 1 then 3 else 0

/-- LINK_DOWN: acquisition restarts (R107). -/
def execLinkDown (p : Port) (los : Bool) (s : State) : Res :=
  let s := s.begin
  let s1 := (if los then s.setLos p true else s).dropLink p
  let first := if s.fld (R.NET_CFG_SPEED p.ix) = 2 then 2 else 1
  .next (if (s1.net p).acquiring then s1.setNet p { s1.net p with trying := first } else s1)

/-- TX_FAULT: while SFPx_TXDIS is driven low, release it for 10 ms; the fourth fault within 60 s fences the port
(R108). -/
def execTxFault (p : Port) (s : State) : Res :=
  let s := (s.begin).setTxflt p true
  if s.flag (R.NET_LINK_TX_OFF p.ix) then .next s
  else
    let recent := s.now :: s.recentFaults p
    let s1 := (s.setNet p { s.net p with faultTimes := recent }).irq (pNET p) 2
    if 4 ≤ recent.length then .next ((s1.stopPort p).fence (pNET p) noUnit 0x0100 0)
    else .next ((s1.setNet p { s1.net p with faultRelease := true }).setFld (R.NET_LINK_TX_OFF p.ix) 1)

/-- TX_FAULT_RETRY: the 10 ms end and SFPx_TXDIS is driven low again (R108). -/
def execTxFaultRetry (p : Port) (level : Bool) (s : State) : Res :=
  let s := (s.begin).setTxflt p level
  if (s.net p).faultRelease then
    .next ((s.setNet p { s.net p with faultRelease := false }).setFld (R.NET_LINK_TX_OFF p.ix) 0)
  else .next s

/-! ## The firmware ring (R110 class 6) -/

/-- A frame for firmware is dropped and counted (R110). -/
def State.dropFrame (s : State) (p : Port) : State := (s.inc (R.NET_CNT_FW_DROP_N p.ix)).irq (pNET p) 3

/-- Write a frame to the next free entry of the LCP receive ring in shared SRAM. Without a free entry, in a WARM reset,
or with more than 2,044 bytes it is dropped and counted. While the control plane sleeps in BIVOUAC the port holds one
frame (R470). -/
def State.ringWrite (s : State) (p : Port) (bytes : List Byte) : State :=
  let count := s.fld R.LCP_RX_CTRL_COUNT
  let next := s.fld R.LCP_RX_CTRL_NEXT
  let base := s.fld R.LCP_RX_BASE_ADDR - 0x10000000 + 2048 * next
  let full := 128 ≤ (memGet s.mem.sram (base + 3)).toNat
  if s.inBivouac && !s.flag R.PWR_STATE_CP_AWAKE && s.pwr.frame.isNone && bytes.length ≤ 2048 then
    { s with pwr := { s.pwr with frame := some (p, bytes) } }
  else if s.inBivouac && !s.flag R.PWR_STATE_CP_AWAKE then s.dropFrame p
  else if s.rst.phase = .warm then s.dropFrame p
  else if count = 0 || full || 2044 < bytes.length then (s.dropFrame p).irq pLCP 3
  else
    let status := 2 ^ 31 + p.ix * 2 ^ 16 + bytes.length
    ((s.sramWrite none base (leBytes 4 status ++ bytes)).setFld R.LCP_RX_CTRL_NEXT
      (if next + 1 < count then next + 1 else 0)).irq pLCP 0

/-! ## Classification (R110, R111) -/

/-- The VLAN rule of R111. -/
def vlanAccepts (vid : Nat) (tag : Option Nat) : Bool :=
  if vid = 0 then tag = none || tag = some 0 else tag = some vid

/-- The party groups and port that PARTY shows (R296, R297). -/
def State.partyMatches (s : State) (p : Port) (dst dport : Nat) : Bool :=
  s.fld R.PARTY_NET_UDP ≠ 0 && dport = s.fld R.PARTY_NET_UDP &&
    match p with
    | .a => dst = s.fld R.PARTY_GRP_A_ADDR || dst = s.fld R.PARTY_HGRP_A_ADDR
    | .b => dst = s.fld R.PARTY_GRP_B_ADDR || dst = s.fld R.PARTY_HGRP_B_ADDR

/-- A word of an INGEST section by the register it loads (R131). -/
def secFld (sec : List Byte) (f : Fld) : Nat := bits (leNat ((sec.drop (f.off - 0x40)).take 4)) f.hi f.lo

/-- Descriptor k of a section matches a destination on a port (R110 class 4). -/
def descMatches (sec : List Byte) (p : Port) (dst dport k : Nat) : Bool :=
  secFld sec (R.INGEST_ST_CFG_EN k) = 1 && match p with
    | .a => bitSet (secFld sec (R.INGEST_ST_CFG_PATHS k)) 0 && dst = secFld sec (R.INGEST_ST_GRP_A_ADDR k) &&
        dport = secFld sec (R.INGEST_ST_UDP_PORT_A k)
    | .b => bitSet (secFld sec (R.INGEST_ST_CFG_PATHS k)) 1 && dst = secFld sec (R.INGEST_ST_GRP_B_ADDR k) &&
        dport = secFld sec (R.INGEST_ST_UDP_PORT_B k)

/-- The descriptor of a section that a destination matches. -/
def descOf (sec : List Byte) (p : Port) (dst dport : Nat) : Option Nat :=
  (List.range 4).find? (descMatches sec p dst dport)

/-- The section that governs source frame f, and which it is: 0 the one kept, 1 the one in force, 2 the one to come
(R103, R132). -/
def State.secFor (s : State) (lp f : Nat) : Option (List Byte) × Nat :=
  let older : Option (List Byte) × Nat := match s.ingest.switchAt with
    | some n => if n + lp ≤ f then (s.ingest.cur, 1) else (s.ingest.kept, 0)
    | none => (s.ingest.cur, 1)
  match s.ingest.next with
  | some (n, sec) => if n + lp ≤ f then (some sec, 2) else older
  | none => older

/-- rtp(f) of R115. -/
def Timing.rtp (t : Timing) (f : Nat) : Nat := t.m f * 9 / 100000 % 2 ^ 32

/-- The frame of a packet with timestamp `ts` at time `ns` (R115). -/
def State.placeFrame (s : State) (t : Timing) (ns ts : Nat) : Option Nat :=
  let c := t.cur ns
  ((List.range (t.lPresent + 2)).map (c + ·)).find? fun f =>
    let tol := match (s.secFor t.lPresent f).1 with
      | some sec => secFld sec R.INGEST_CFG_RTP_TOL
      | none => s.fld R.INGEST_CFG_RTP_TOL
    decide ((toSigned 32 (ts + 2 ^ 32 - t.rtp f)).natAbs ≤ tol)

/-- The sections that classify a packet: that of its frame, or every one in use for a packet of no frame (R132). -/
def State.sectionsFor (s : State) (ns ts : Nat) : List (List Byte) := match s.timing with
  | none => []
  | some t => match s.placeFrame t ns ts with
    | some f => (s.secFor t.lPresent f).1.toList
    | none => [s.ingest.cur, s.ingest.kept, s.ingest.next.map (·.2)].filterMap id

/-- The destination matches a descriptor of the section that governs the packet (R110 class 4, R132). -/
def State.mediaMatches (s : State) (f : NetFrame) (dst dport : Nat) : Bool :=
  (s.sectionsFor f.time f.ts).any fun sec => (descOf sec f.port dst dport).isSome

/-- 224.0.1.129, the PTP group (R75). -/
def ptpGroup : Nat := 0xE0000181

/-- Classes 6 and 7: the port's address, broadcast, or a multicast group of LCP_MCASTm. -/
def State.class6 (s : State) (f : NetFrame) : Nat := match f.dest with
  | .own => 6
  | .broadcast => 6
  | .multicast g => if g ≠ 0 && (List.range 4).any (fun m => s.fld (R.LCP_MCAST_ADDR m) = g) then 6 else 7
  | .foreign => 7

/-- The class of R110 a frame goes to. -/
def State.netClassOf (s : State) (f : NetFrame) : Nat :=
  if !vlanAccepts (s.fld (R.NET_CFG_VID f.port.ix)) f.vid then 1
  else match f.kind with
    | .udp dst dport _ _ =>
      if (dport = 319 || dport = 320) && (dst = ptpGroup || dst = s.fld (R.NET_IP_ADDR f.port.ix)) then 2
      else if s.partyMatches f.port dst dport then 3
      else if s.mediaMatches f dst dport then 4
      else s.class6 f
    | .igmp => 5
    | .other => s.class6 f

/-- NET_FRAME_RECEIVE: the checks of R106, then the classes of R110. What a frame of classes 2 to 5 does is the effect
of the command of its own row. A class 6 frame while LCP_CFG.EN is 0 is dropped and counted nowhere: DESIGN CHOICE
(assumption log, entry 45); the spec says only that EN sends them to the ring. -/
def execNetFrameReceive (f : NetFrame) (s : State) : Res :=
  let s := s.begin
  if !s.portReceives f.port then .next s
  else if !f.fcsOk || f.size < 64 || 9216 < f.size then
    .next ((s.inc (R.NET_CNT_RX_ERR_N f.port.ix)).emit (.netClass f.port 0))
  else
    let s1 := s.inc (R.NET_CNT_RX_OK_N f.port.ix)
    if f.macControl then .next s1
    else
      let c := s1.netClassOf f
      let s2 := s1.emit (.netClass f.port c)
      if c = 1 || c = 7 then .next (s2.inc (R.NET_CNT_FILTER_N f.port.ix))
      else if c = 5 || (c = 6 && s2.flag R.LCP_CFG_EN) then .next (s2.ringWrite f.port f.bytes)
      else .next s2

/-! ## IGMP (R112, R133) -/

/-- The media memberships a section asks of a port: (group, source filter) of its enabled descriptors. -/
def mediaGroups (sec : List Byte) (p : Port) : List (Nat × Nat) :=
  (List.range 4).filterMap fun k =>
    if secFld sec (R.INGEST_ST_CFG_EN k) = 0 then none
    else match p with
      | .a => if bitSet (secFld sec (R.INGEST_ST_CFG_PATHS k)) 0 then
          some (secFld sec (R.INGEST_ST_GRP_A_ADDR k), secFld sec (R.INGEST_ST_SRC_A_ADDR k)) else none
      | .b => if bitSet (secFld sec (R.INGEST_ST_CFG_PATHS k)) 1 then
          some (secFld sec (R.INGEST_ST_GRP_B_ADDR k), secFld sec (R.INGEST_ST_SRC_B_ADDR k)) else none

/-- The media memberships of a port: those of the section in force, of the one kept, and of the READY slot. -/
def State.memberships (s : State) (p : Port) : List (Nat × Nat) :=
  if (s.net p).mediaLeft then []
  else ([s.ingest.cur, s.ingest.kept, s.readyIngest].flatMap fun o => match o with
    | some sec => mediaGroups sec p
    | none => []).eraseDups

/-- The PTP and party groups the port joins beside them (R75, R297). -/
def State.ownGroups (s : State) (p : Port) : List (Nat × Nat) :=
  let party := if s.fld R.PARTY_NET_UDP = 0 then []
    else match p with
      | .a => [(s.fld R.PARTY_GRP_A_ADDR, 0)] ++
          if s.fld R.PARTY_ROLE_ROLE ≠ 0 then [(s.fld R.PARTY_HGRP_A_ADDR, 0)] else []
      | .b => [(s.fld R.PARTY_GRP_B_ADDR, 0)] ++
          if s.fld R.PARTY_ROLE_ROLE ≠ 0 then [(s.fld R.PARTY_HGRP_B_ADDR, 0)] else []
  (ptpGroup, 0) :: party

/-- Every membership of a port. -/
def State.allGroups (s : State) (p : Port) : List (Nat × Nat) := s.memberships p ++ s.ownGroups p

/-- What the agent asks of a group: nothing, EXCLUDE with an empty list (some []), or INCLUDE of sources (R112). -/
def groupState (ms : List (Nat × Nat)) (g : Nat) : Option (List Nat) :=
  let srcs := (ms.filter fun m => m.1 = g).map (·.2)
  if srcs = [] then none else if srcs.contains 0 then some [] else some srcs.eraseDups

/-- The records of a change in IGMPv3 (RFC 3376 section 5.1). -/
def changeV3 (g : Nat) : Option (List Nat) → Option (List Nat) → List IgmpRecord
  | none, none => []
  | none, some [] => [⟨4, g, []⟩]
  | none, some l => [⟨5, g, l⟩]
  | some [], none => [⟨3, g, []⟩]
  | some l, none => [⟨6, g, l⟩]
  | some [], some [] => []
  | some [], some l => [⟨3, g, l⟩]
  | some _, some [] => [⟨4, g, []⟩]
  | some a, some b =>
    let new := b.filter fun x => !a.contains x
    let gone := a.filter fun x => !b.contains x
    (if new = [] then [] else [⟨5, g, new⟩]) ++ (if gone = [] then [] else [⟨6, g, gone⟩])

/-- The messages of a change in the compatibility modes: a report to join, and in version 2 a leave. -/
def changeOld (mode g : Nat) : Option (List Nat) → Option (List Nat) → List IgmpRecord
  | none, some _ => [⟨if mode = 1 then 0x12 else 0x16, g, []⟩]
  | some _, none => if mode = 2 then [⟨0x17, g, []⟩] else []
  | _, _ => []

/-- The compatibility mode of the agent (RFC 3376 section 7.2.1). -/
def State.agentMode (s : State) (p : Port) : Nat :=
  if s.now < (s.net p).v1Until then 1 else if s.now < (s.net p).v2Until then 2 else 3

/-- The records of the change of a port's memberships from `old` to `new`. -/
def igmpChange (mode : Nat) (old new : List (Nat × Nat)) : List IgmpRecord :=
  (((old ++ new).map (·.1)).eraseDups).flatMap fun g =>
    if mode = 3 then changeV3 g (groupState old g) (groupState new g) else changeOld mode g (groupState old g) (groupState new g)

/-- Send the records: one report in version 3, a message each in the older ones. Reports are counted. -/
def State.sendIgmp (s : State) (p : Port) (rs : List IgmpRecord) : State :=
  let mode := s.agentMode p
  if rs = [] then s
  else if mode = 3 then (s.emit (.igmpReport p (s.netHead p) 3 rs)).inc (R.NET_CNT_IGMP_TX_N p.ix)
  else rs.foldl (fun (t : State) r =>
    let u := t.emit (.igmpReport p (t.netHead p) mode [r])
    if r.kind = 0x17 then u else u.inc (R.NET_CNT_IGMP_TX_N p.ix)) s

/-- Report a change at once and, with robustness variable 2, once more when the report timer ends (R112). Records
waiting for the groups that changed give way to the new ones. -/
def State.reportChange (s : State) (p : Port) (rs : List IgmpRecord) : State :=
  if rs = [] || !s.portReceives p then s
  else
    let held := (s.net p).repeats.filter fun r => !(rs.any fun q => q.group = r.group)
    (s.setNet p { s.net p with igmpMode := s.agentMode p
                               repeats := held ++ rs.filter fun r => r.kind ≠ 0x17 }).sendIgmp p rs

/-- On a new link every membership is reported. -/
def State.reportAll (s : State) (p : Port) : State :=
  s.reportChange p (igmpChange (s.agentMode p) [] (s.allGroups p))

/-- Show the media memberships held, and report the groups joined and left (R112, R133). -/
def State.rejoin (s : State) (before : State) (p : Port) : State :=
  (s.setFld (R.NET_LINK_GROUPS p.ix) (s.memberships p).length).reportChange p
    (igmpChange (s.agentMode p) (before.allGroups p) (s.allGroups p))

/-- Both ports rejoin. -/
def State.rejoinBoth (s : State) (before : State) : State := (s.rejoin before .a).rejoin before .b

/-- How long an older querier counts as present: robustness 2 times the default query interval of 125 s, and the default
query response interval of 10 s: PRESUMED from RFC 3376 section 8 (assumption log, entry 45). -/
def olderQuerierNs : Nat := 260000000000

/-- Reports that wait were drawn under another mode: they are cancelled (RFC 3376 section 7.2.1). -/
def State.igmpModeNow (s : State) (p : Port) : State :=
  if (s.net p).igmpMode = s.agentMode p then s
  else s.setNet p { s.net p with igmpMode := s.agentMode p, reportDue := [], repeats := [] }

/-- IGMP_QUERY_RECEIVE: an older querier sets the compatibility mode; a report is due for the groups asked for. -/
def execIgmpQueryReceive (p : Port) (q : IgmpQuery) (s : State) : Res :=
  let s := s.begin
  if !s.portReceives p then .next s
  else
    let n := s.net p
    let s1 := if q.version = 1 then s.setNet p { n with v1Until := s.now + olderQuerierNs }
      else if q.version = 2 && q.group = 0 then s.setNet p { n with v2Until := s.now + olderQuerierNs }
      else s
    let s2 := s1.igmpModeNow p
    let held := ((s.allGroups p).map (·.1)).eraseDups
    let asked := if q.group = 0 then held else held.filter fun g => g = q.group
    .next (s2.setNet p { s2.net p with reportDue := ((s2.net p).reportDue ++ asked).eraseDups })

/-- The current-state record of a group still held. -/
def State.stateRecord (s : State) (p : Port) (g : Nat) : Option IgmpRecord :=
  match groupState (s.allGroups p) g, s.agentMode p with
  | none, _ => none
  | some [], 3 => some ⟨2, g, []⟩
  | some l, 3 => some ⟨1, g, l⟩
  | some _, 2 => some ⟨0x16, g, []⟩
  | some _, _ => some ⟨0x12, g, []⟩

/-- IGMP_REPORT_TIMER: the reports due are sent: changes a second time, and answers to queries (R112). -/
def execIgmpReportTimer (p : Port) (s : State) : Res :=
  let s := s.begin
  if !s.portReceives p then .next s
  else
    let t := s.igmpModeNow p
    let n := t.net p
    .next (((t.setNet p { n with reportDue := [], repeats := [] }).sendIgmp p n.repeats).sendIgmp p
      (n.reportDue.filterMap (t.stateRecord p)))

/-- LINK_UP: step 4 of R107, which asks for FEC alignment where FEC is used. The port reports its memberships on the new link (R112). -/
def execLinkUp (p : Port) (fecAligned : Bool) (s : State) : Res :=
  let s := s.begin
  let fec := fecAct (s.fld (R.NET_CFG_FEC p.ix)) (s.net p).trying
  if (s.net p).acquiring && !s.flag (R.NET_LINK_UP p.ix) && !s.cageEmpty p && (fec = 0 || fecAligned) then
    .next ((((s.setLos p false).setFlds [(R.NET_LINK_UP p.ix, 1), (R.NET_LINK_SPEED_ACT p.ix, (s.net p).trying),
      (R.NET_LINK_FEC_ACT p.ix, fec)]).irq (pNET p) 0).reportAll p)
  else .next s

end Sys2Proof.Machine
end

