-- ==== Sys2Proof/Machine/Pixel.lean ====
section
/-! DEFINITION. Pixel arithmetic: the rectangle mapping of R125, words of R124, calibration records (R172–R174), the
EOTF LUT, matrix, gains and dither (R167–R170), and scree pixels (R146, R148). -/
namespace Sys2Proof.Machine

/-- The mapping of R125: mirror first, then clockwise rotation, of offset (sx, sy) in a W × H rectangle. -/
def turn (mirror : Bool) (rot w h sx sy : Nat) : Nat × Nat :=
  let u := if mirror then w - 1 - sx else sx
  match rot with
  | 0 => (u, sy)
  | 1 => (h - 1 - sy, u)
  | 2 => (w - 1 - u, h - 1 - sy)
  | _ => (sy, w - 1 - u)

/-- The source word of three 12-bit codes (R124). -/
def pixelWord (r g b : Nat) : Nat := r % 4096 + g % 4096 * 2 ^ 16 + b % 4096 * 2 ^ 32

/-- The three codes of a source word. -/
def codesOf (w : Nat) : List Nat := [bits w 11 0, bits w 27 16, bits w 43 32]

/-- A calibration record (R172); `bad` when one of its words is poisoned. -/
structure CalRec where
  m : List Int
  i : List Nat
  flags : Nat
  bad : Bool
deriving DecidableEq, Repr

/-- The record of segment pixel `i` in the table at store address `a` (R172, R174). -/
def State.calRec (s : State) (a i : Nat) : CalRec :=
  let w0 := memLE s.mem.store (a + 24 * i) 8
  let w1 := memLE s.mem.store (a + 24 * i + 8) 8
  let w2 := memLE s.mem.store (a + 24 * i + 16) 8
  { m := [bits w0 15 0, bits w0 31 16, bits w0 47 32, bits w0 63 48, bits w1 15 0, bits w1 31 16, bits w1 47 32,
          bits w1 63 48, bits w2 15 0].map (toSigned 16)
    i := [bits w2 27 16, bits w2 39 28, bits w2 51 40]
    flags := bits w2 59 52
    bad := s.storeRangeBad (a + 24 * i) 24 }

/-- DARK and FALLBACK of a record's FLAGS (R173). -/
def CalRec.dark (c : CalRec) : Bool := bitSet c.flags 0
def CalRec.fallback (c : CalRec) : Bool := bitSet c.flags 1

/-- The identity matrix in s2.13. -/
def identityM : List Int := [0x2000, 0, 0, 0, 0x2000, 0, 0, 0, 0x2000]

/-- Fields of a bank's sections. -/
def Bank.lutAddr (b : Bank) : Nat := leAt b.pipe 8 4 * 64
def Bank.reorderAddr (b : Bank) : Nat := leAt b.pipe 12 4 * 64
def Bank.ggen (b : Bank) : Nat := leAt b.pipe 4 2
def Bank.calAddr (b : Bank) : Nat := leAt b.cal 0 4 * 64
def Bank.bypass (b : Bank) : Bool := bitSet (leAt b.cal 4 4) 0
def Bank.dithCfg (b : Bank) : Nat := leAt b.dith 0 4
def Bank.dithSeed (b : Bank) : Nat := leAt b.dith 4 4
def Bank.orgX (b : Bank) : Nat := bits (leAt b.dith 8 4) 19 0
def Bank.orgY (b : Bank) : Nat := bits (leAt b.dith 12 4) 19 0
def Bank.lScree (b : Bank) : Nat := leAt b.party 24 4

/-- LUT entry of colour c and code v (R167, R178). -/
def Bank.lin (b : Bank) (c v : Nat) : Nat := b.lut.getD (4096 * c + v) 0 % 2 ^ 20

/-- The record is darkened: DARK, without bypass and without poison. -/
def Bank.isDark (b : Bank) (r : CalRec) : Bool := !b.bypass && !r.bad && r.dark

/-- The matrix stage for output colour i (R167): sum, round half up, clamp to u0.20. -/
def matrixRow (m : List Int) (lin : List Nat) (i : Nat) : Nat :=
  let acc := m.getD (3 * i) 0 * lin.getD 0 0 + m.getD (3 * i + 1) 0 * lin.getD 1 0 + m.getD (3 * i + 2) 0 * lin.getD 2 0
  (clampI ((acc + 0x1000) / 0x2000) 0 0xFFFFF).toNat

/-- The three linear values y of a word under a bank and a record. -/
def Bank.linear (b : Bank) (r : CalRec) (w : Nat) : List Nat :=
  let codes := codesOf w
  let lin := [b.lin 0 (codes.getD 0 0), b.lin 1 (codes.getD 1 0), b.lin 2 (codes.getD 2 0)]
  let m := if b.bypass || r.bad || r.fallback then identityM else r.m
  [matrixRow m lin 0, matrixRow m lin 1, matrixRow m lin 2]

/-- A product in u1.15 arithmetic, rounded half up: the gain combination and the gain stage of R167. -/
def gain15 (x g : Nat) : Nat := (x * g + 0x4000) / 0x8000

/-- The dither threshold of R170. -/
def dithT (cfg seed x y n c : Nat) : Nat :=
  if !bitSet cfg 0 then 0
  else
    let n := if bitSet cfg 1 then n else 0
    let h := (seed + x * 0x2C9A5E31 + y * 0x71D34B8F + n % 2 ^ 32 * 0xA4E71C25 + n / 2 ^ 32 * 0x3B5F92C7 +
      c * 0x5F356A1B) % 2 ^ 32
    let h := h ^^^ (h / 2 ^ 15)
    h * 0x8F1BC3D5 % 2 ^ 32 / 2 ^ 28

/-- Screen coordinates of segment pixel i (R169). -/
def Bank.screenXY (b : Bank) (i : Nat) : Nat × Nat :=
  let d := turn (bitSet b.dithCfg 4) (bits b.dithCfg 3 2) b.segW b.segH (i % b.segW) (i / b.segW)
  ((b.orgX + d.1) % 2 ^ 20, (b.orgY + d.2) % 2 ^ 20)

/-- The payload pixel of segment pixel i from its source word (R167): drive values R, G, B. `g` is the combined gain. -/
def Bank.payload (b : Bank) (r : CalRec) (w i n g : Nat) : List Nat :=
  if b.isDark r then [0, 0, 0]
  else
    let y := b.linear r w
    let xy := b.screenXY i
    [0, 1, 2].map fun c => min ((gain15 (y.getD c 0) g + dithT b.dithCfg b.dithSeed xy.1 xy.2 n c) / 16) 0xFFFF

/-- The source word of scree pixel i of the frame at store address `a` (R146, R148); 0 when a word it spans is
poisoned (R155). -/
def State.screeWord (s : State) (a i : Nat) : Nat :=
  let start := 36 * (i % 16)
  let v := memLE s.mem.store (a + 72 * (i / 16) + start / 64 * 8) 16 / 2 ^ (start % 64)
  pixelWord (bits v 11 0) (bits v 23 12) (bits v 35 24)

/-- A scree pixel reads a poisoned word. -/
def State.screeBad (s : State) (a i : Nat) : Bool :=
  let start := 36 * (i % 16)
  let lo := a / 8 + 9 * (i / 16) + start / 64
  let hi := a / 8 + 9 * (i / 16) + (start + 35) / 64
  s.mem.storeBad.contains lo || s.mem.storeBad.contains hi

/-- Where a pixel's word comes from: the ingress buffer at an address, a scree frame, or nothing. -/
inductive PixelSource where
  | ingress (a : Nat)
  | scree (a : Nat)
  | black
deriving DecidableEq, Repr

/-- The scree frame for n under a bank (R147, R148). A bank whose SCREE section is not whole gives no loop, and its scree
frames are read as source value 0: DESIGN CHOICE (assumption log, entry 44). -/
def Bank.screeFrame (b : Bank) (n : Nat) : PixelSource := match b.screeBase with
  | none => .black
  | some base => .scree (base * 64 + (if b.lScree = 0 then 0 else n % b.lScree) * screeStride b.segW b.segH)

/-- The word of segment pixel i of a source, 0 where poisoned, and whether it was (R155). -/
def State.sourceWord (s : State) (src : PixelSource) (i : Nat) : Nat × Bool := match src with
  | .ingress a => if s.storeWordBad (a + 8 * i) then (0, true) else (memLE s.mem.store (a + 8 * i) 8, false)
  | .scree a => if s.screeBad a i then (0, true) else (s.screeWord a i, false)
  | .black => (0, false)

/-- The poisoned words among the `n` bytes from `a`, lowest first. -/
def State.badIn (s : State) (a n : Nat) : List Nat := wordsIn s.mem.storeBad a n

/-- The bytes of the store that a source pixel stands in. -/
def PixelSource.range (src : PixelSource) (i : Nat) : Nat × Nat := match src with
  | .ingress a => (a + 8 * i, 8)
  | .scree a =>
    let start := 36 * (i % 16)
    (a + 72 * (i / 16) + start / 64 * 8, if start % 64 ≤ 28 then 8 else 16)
  | .black => (0, 0)

/-- Some word of `n` bytes from `a` holds an error, so that a read of them is to be noted. -/
def State.flawed (s : State) (a n : Nat) : Bool := wordsIn s.mem.storeBad a n ≠ [] || wordsIn s.mem.storeWeak a n ≠ []

end Sys2Proof.Machine
end

