-- ==== Sys2Proof/Machine/Ingest.lean ====
section
/-! DEFINITION. INGEST and XSDEC (R113–R135, R533): placing packets in frame time, the checks of R116, the merge
window, mapping into the segment, slice decoding, and the close of a frame. -/
namespace Sys2Proof.Machine

/-- The bytes of descriptor k in an INGEST section. -/
def descBytes (sec : List Byte) (k : Nat) : List Byte := (sec.drop (0x40 + 0x20 * k)).take 0x20

/-- The enabled rectangles of a section. -/
def rectsOf (sec : List Byte) : List Nat := (List.range 4).filter fun j => secFld sec (R.INGEST_RECT_CFG_EN j) = 1

/-- The rectangles of stream k. -/
def rectsOn (sec : List Byte) (k : Nat) : List Nat :=
  (rectsOf sec).filter fun j => secFld sec (R.INGEST_RECT_CFG_STREAM j) = k

/-- The used streams of a section (R128). -/
def usedStreams (sec : List Byte) : List Nat := (List.range 4).filter fun k => rectsOn sec k ≠ []

/-- How often descriptor k of a section has changed, where `which` names the section as secFor does (R533). -/
def State.epochOf (s : State) (which k : Nat) (sec : List Byte) : Nat :=
  let e := s.ingest.epochs.getD k 1
  if s.ingest.cur.map (descBytes · k) = some (descBytes sec k) then e
  else if which = 0 then e - 1 else if which = 2 then e + 1 else e

/-- The HAVE for f has been sent: f is closed (R130). -/
def State.isClosed (s : State) (f : Nat) : Bool := s.ingest.closed.any fun c => c.frame = f

/-! ## The merge window (R118, R119, R533) -/

/-- Window k. -/
def State.win (s : State) (k : Nat) : StreamWin := s.ingest.wins.getD k {}

/-- Replace window k. -/
def State.setWin (s : State) (k : Nat) (w : StreamWin) : State :=
  { s with ingest := { s.ingest with wins := s.ingest.wins.set k w } }

/-- The window of a packet under a descriptor: a changed descriptor starts it empty (R533). -/
def StreamWin.under (w : StreamWin) (desc : List Byte) (epoch : Nat) : StreamWin :=
  if w.epoch = epoch && w.desc = desc then w else { desc := desc, epoch := epoch }

/-- A 32-bit number beside the highest accepted, without its wrap: the nearest number of that value. The first number
of a window stands 2^32 up, so that lower ones have room. -/
def StreamWin.unwrap (w : StreamWin) (v : Nat) : Nat := match w.highest with
  | none => v % 2 ^ 32 + 2 ^ 32
  | some h => ((h : Int) + toSigned 32 (v % 2 ^ 32 + 2 ^ 32 - h % 2 ^ 32)).toNat

/-- The extended number of R118: nearest to the highest, the lower of two equally near; the sequence number itself for
the first packet of a window. -/
def StreamWin.extend16 (w : StreamWin) (seq : Nat) : Nat := match w.highest with
  | none => seq % 65536 + 2 ^ 32
  | some h =>
    let d := (seq + 65536 - h % 65536) % 65536
    if d < 32768 then h + d else h + d - 65536

/-- The accepted copy of a number. -/
def StreamWin.find (w : StreamWin) (num : Nat) : Option Accepted := w.accepted.find? fun a => a.num = num

/-- The number is below the window of 32,768 numbers. -/
def StreamWin.below (w : StreamWin) (num : Nat) : Bool := match w.highest with
  | none => false
  | some h => num + 32767 < h

/-- Accept a number: the window advances. Numbers below it stay known until their frame is closed (R128). -/
def StreamWin.accept (w : StreamWin) (a : Accepted) : StreamWin :=
  { w with highest := some (match w.highest with
             | none => a.num
             | some h => max h a.num)
           accepted := a :: w.accepted }

/-- At the close of frame f: what lies below the window is forgotten, but for frame f, which the next one follows, and
later ones. -/
def StreamWin.forget (w : StreamWin) (f : Nat) : StreamWin :=
  { w with accepted := w.accepted.filter fun a => !w.below a.num || f ≤ a.frame
           slices := w.slices.filter fun q => f ≤ q.1
           finished := w.finished.filter (f ≤ ·)
           stopped := w.stopped.filter (f ≤ ·)
           spoiled := w.spoiled.filter (f ≤ ·) }

/-- last(F) of R128: the number of the one accepted packet of F with the marker bit. -/
def StreamWin.last (w : StreamWin) (f : Nat) : Option Nat :=
  match w.accepted.filter (fun a => a.frame = f && a.marker) with
  | [a] => some a.num
  | _ => none

/-- The numbers accepted as packets of F. -/
def StreamWin.numsOf (w : StreamWin) (f : Nat) : List Nat := (w.accepted.filter fun a => a.frame = f).map (·.num)

/-- The lowest and highest number of a list. -/
def lowest (l : List Nat) : Option Nat := l.foldl (fun acc n => some (match acc with | none => n | some m => min m n)) none
def greatest (l : List Nat) : Option Nat := l.foldl (fun acc n => some (match acc with | none => n | some m => max m n)) none

/-- first(F) of R128. -/
def StreamWin.first (w : StreamWin) (f : Nat) : Option Nat :=
  match (if f = 0 then none else w.last (f - 1)) with
  | some l => some (l + 1)
  | none => match lowest (w.numsOf f) with
    | none => none
    | some e => if f ≠ 0 && (w.numsOf (f - 1)).contains (e - 1) then some e else none

/-- Every number from `a` to `b` is accepted as a packet of F. -/
def StreamWin.covers (w : StreamWin) (f a b : Nat) : Bool :=
  (List.range (b + 1 - a)).all fun i => (w.numsOf f).contains (a + i)

/-- The numbers from `a` to `b` not accepted. -/
def StreamWin.missing (w : StreamWin) (a b : Nat) : Nat :=
  ((List.range (b + 1 - a)).filter fun i => (w.find (a + i)).isNone).length

/-- Missing packets of F on a stream (R129). -/
def StreamWin.missOf (w : StreamWin) (f : Nat) : Nat := match w.first f, w.last f with
  | some a, some b => w.missing a b
  | _, _ => match lowest (w.numsOf f), greatest (w.numsOf f) with
    | some a, some b => w.missing a b
    | _, _ => 0

/-! ## Pixels into the segment (R124–R126) -/

/-- The rectangle of a section holds stream pixel (x, y): its offset. -/
def rectOffset (sec : List Byte) (j x y : Nat) : Option (Nat × Nat) :=
  let x0 := secFld sec (R.INGEST_RECT_SRC_X j)
  let y0 := secFld sec (R.INGEST_RECT_SRC_Y j)
  if x0 ≤ x && x < x0 + secFld sec (R.INGEST_RECT_SIZE_W j) && y0 ≤ y && y < y0 + secFld sec (R.INGEST_RECT_SIZE_H j) then
    some (x - x0, y - y0)
  else none

/-- The segment pixel a rectangle maps an offset to (R125). -/
def rectTarget (sec : List Byte) (j : Nat) (o : Nat × Nat) : Nat × Nat :=
  let d := turn (secFld sec (R.INGEST_RECT_CFG_MIRROR j) = 1) (secFld sec (R.INGEST_RECT_CFG_ROT j))
    (secFld sec (R.INGEST_RECT_SIZE_W j)) (secFld sec (R.INGEST_RECT_SIZE_H j)) o.1 o.2
  (secFld sec (R.INGEST_RECT_DST_DX j) + d.1, secFld sec (R.INGEST_RECT_DST_DY j) + d.2)

/-- Write stream pixel (x, y) of stream k with its three codes wherever an enabled rectangle takes it. -/
def State.writePixel (s : State) (sec : List Byte) (buf k x y : Nat) (codes : Nat × Nat × Nat) : State :=
  let sh := if secFld sec (R.INGEST_ST_CFG_DEPTH k) = 1 then 1 else 4
  let w := pixelWord (codes.1 * sh) (codes.2.1 * sh) (codes.2.2 * sh)
  (rectsOn sec k).foldl (fun s j => match rectOffset sec j x y with
    | none => s
    | some o =>
      let d := rectTarget sec j o
      s.storeWrite (ingressBuf buf + 8 * (d.2 * secFld sec R.INGEST_SEG_W + d.1)) (leBytes 8 w)) s

/-- Write a run of pixels of one row from column x. -/
def State.writeRun (s : State) (sec : List Byte) (buf k x y : Nat) : List (Nat × Nat × Nat) → State
  | [] => s
  | p :: ps => (s.writePixel sec buf k x y p).writeRun sec buf k (x + 1) y ps

/-- The segment pixels that a run of `n` stream pixels of row y from column x is written to. -/
def runPixels (sec : List Byte) (k x y n : Nat) : List Nat :=
  (List.range n).flatMap fun i => (rectsOn sec k).filterMap fun j =>
    (rectOffset sec j (x + i) y).map fun o =>
      let d := rectTarget sec j o
      d.2 * secFld sec R.INGEST_SEG_W + d.1

/-- The generations of the banks GOV has loaded (R194). -/
def State.loadedGens (s : State) : List Nat :=
  ((s.commit.bank.toList ++ s.commit.readyBank.toList).filter fun b => !b.lost).map (·.gen)

/-- Pixels of frame f have been written to buffer `buf`: GOV is to evaluate them. The banks under which the frame gets
figures are those loaded at its first pixel (R194, R195). -/
def State.notePixels (s : State) (f buf : Nat) (px : List Nat) : State :=
  if px = [] then s
  else
    let old := (s.gov.frames.find? fun x => x.frame = f).filter fun x => x.seen ≠ [] || x.todo ≠ []
    let x := old.getD { frame := f, loaded := s.loadedGens, figures := [], final := false, buf := buf }
    { s with gov := { s.gov with
      frames := (s.gov.frames.filter fun y => y.frame ≠ f) ++ [{ x with todo := x.todo ++ px, final := false }] } }

/-! ## ST 2110-20 payloads (R117) -/

/-- A sample row data header. -/
structure Srd where
  len : Nat
  field : Nat
  row : Nat
  more : Bool
  off : Nat
deriving DecidableEq, Repr

/-- The header at position n alone. -/
def srdAt (p : List Byte) (n : Nat) : Srd :=
  ⟨beAt p (2 + 6 * n) 2, bits (beAt p (4 + 6 * n) 2) 15 15, bits (beAt p (4 + 6 * n) 2) 14 0,
   bitSet (beAt p (6 + 6 * n) 2) 15, bits (beAt p (6 + 6 * n) 2) 14 0⟩

/-- The headers of a payload (R117): C = 1 on every header but the last, at most 3. -/
def srdsOf (p : List Byte) : Option (List Srd) :=
  if !(srdAt p 0).more then some [srdAt p 0]
  else if !(srdAt p 1).more then some [srdAt p 0, srdAt p 1]
  else if !(srdAt p 2).more then some [srdAt p 0, srdAt p 1, srdAt p 2]
  else none

/-- Bytes and pixels of a pgroup of a stream. -/
def pgroup (deep : Bool) : Nat × Nat := if deep then (9, 2) else (15, 4)

/-- The checks of R117. -/
def rawOk (sec : List Byte) (k : Nat) (p : List Byte) : Bool :=
  let pg := pgroup (secFld sec (R.INGEST_ST_CFG_DEPTH k) = 1)
  match srdsOf p with
  | none => false
  | some hs =>
    2 + 6 * hs.length ≤ p.length &&
    hs.all (fun h => h.field = 0 && h.len ≠ 0 && h.len % pg.1 = 0 &&
      (secFld sec (R.INGEST_ST_CFG_PACKING k) = 0 || h.len % 180 = 0) &&
      h.row < secFld sec (R.INGEST_ST_RASTER_H k) && h.off % pg.2 = 0 &&
      h.off + h.len / pg.1 * pg.2 ≤ secFld sec (R.INGEST_ST_RASTER_W k)) &&
    (hs.map (·.len)).sum = p.length - 2 - 6 * hs.length

/-- Sample n of packed data, `w` bits (10 or 12, so two bytes hold it), most significant bit first. -/
def sampleAt (data : List Byte) (w n : Nat) : Nat :=
  let bit := n * w
  beAt data (bit / 8) 2 / 2 ^ (16 - bit % 8 - w) % 2 ^ w

/-- The pixels of packed data. -/
def rawPixels (data : List Byte) (w count : Nat) : List (Nat × Nat × Nat) :=
  (List.range count).map fun i => (sampleAt data w (3 * i), sampleAt data w (3 * i + 1), sampleAt data w (3 * i + 2))

/-- Write the data of a list of headers, packed at 12 bits (`deep`) or 10, to the buffer of frame f. -/
def State.writeSrds (s : State) (sec : List Byte) (f buf k : Nat) (data : List Byte) : List Srd → State
  | [] => s
  | h :: hs =>
    let deep : Bool := secFld sec (R.INGEST_ST_CFG_DEPTH k) = 1
    let pg := pgroup deep
    let n := h.len / pg.1 * pg.2
    (((s.writeRun sec buf k h.off h.row (rawPixels (data.take h.len) (if deep then 12 else 10) n)).notePixels f buf
      (runPixels sec k h.off h.row n))).writeSrds sec f buf k (data.drop h.len) hs

/-! ## ST 2110-22 payloads (R118) -/

/-- The payload header of RFC 9134: T, K, L, I, … in its first byte; L is bit 5, the interlace field bits 4–3. -/
def jxsOk (p : List Byte) (marker : Bool) : Bool :=
  4 ≤ p.length && bits (beAt p 0 1) 4 3 = 0 && (bitSet (beAt p 0 1) 5 == marker)

/-! ## Media packets (R115–R121) -/

/-- The bytes of a packet's UDP payload, with its RTP header. -/
def MediaPacket.udpPayload (p : MediaPacket) : List Byte :=
  [BitVec.ofNat 8 (p.version * 64 + b2n p.padding * 32 + b2n p.extension * 16 + p.csrc),
   BitVec.ofNat 8 (b2n p.marker * 128 + p.pt)] ++ beBytes 2 p.seq ++ beBytes 4 p.ts ++ beBytes 4 p.ssrc ++ p.payload

/-- A packet is refused with a code of R116. -/
def State.refusePacket (s : State) (k : Nat) (p : Port) (code : Nat) : State :=
  ((s.inc (R.INGEST_ST_REFUSED_N k)).setFlds [(R.INGEST_BAD_LAST_CODE, code), (R.INGEST_BAD_LAST_STREAM, k),
    (R.INGEST_BAD_LAST_PORT, p.ix)]).irq pINGEST 1

/-- The codes 0x01 to 0x04 of R116, 0 where none applies. -/
def headerCode (sec : List Byte) (k : Nat) (p : MediaPacket) : Nat :=
  let src := match p.port with
    | .a => secFld sec (R.INGEST_ST_SRC_A_ADDR k)
    | .b => secFld sec (R.INGEST_ST_SRC_B_ADDR k)
  if p.ihl ≠ 5 || !p.ipSumOk || p.moreFragments || p.fragOffset ≠ 0 then 1
  else if !p.udpSumOk then 2
  else if src ≠ 0 && src ≠ p.src then 3
  else if p.version ≠ 2 || p.padding || p.extension || p.csrc ≠ 0 || p.pt ≠ secFld sec (R.INGEST_ST_CFG_PT k) then 4
  else 0

/-- The pairing of an accepted number with its copy from the other port: the arrival difference (R120). Whole µs are
rounded down in MAX_US: DESIGN CHOICE (assumption log, entry 45). -/
def State.pairCopy (s : State) (k : Nat) (a : Accepted) (p : MediaPacket) : State :=
  if a.port = p.port || a.paired then s
  else
    let w := s.win k
    let ns := p.time - a.time
    let t := (s.setWin k { w with accepted := w.accepted.map fun b => if b.num = a.num then { b with paired := true } else b }).maxFld
      (R.INGEST_ST_SKEW_MAX_US k) (ns / 1000)
    if 10000000 < ns then (t.satInc (R.INGEST_ST_SKEW_OVER k)).irq pINGEST 2 else t

/-- A copy whose payload differs from the one accepted (R121). -/
def State.mismatch (s : State) (k f : Nat) : State :=
  let w := s.win k
  let t := (s.inc (R.INGEST_ST_MISMATCH_N k)).event pINGEST 3 noUnit 0
  if t.isClosed f then t else t.setWin k { w with spoiled := f :: w.spoiled }

/-- A duplicate: counted, its arrival difference measured (R120), its payload compared (R121). -/
def State.duplicate (s : State) (k : Nat) (a : Accepted) (p : MediaPacket) : State :=
  let s1 := (s.inc (R.INGEST_ST_DUP_N k)).pairCopy k a p
  if crc32 p.udpPayload = a.crc then s1 else s1.mismatch k a.frame

/-- The footprint of rectangle j in the segment: left, top, width, height (R125, R127). -/
def footprintOf (sec : List Byte) (j : Nat) : Nat × Nat × Nat × Nat :=
  let w := secFld sec (R.INGEST_RECT_SIZE_W j)
  let h := secFld sec (R.INGEST_RECT_SIZE_H j)
  let odd := secFld sec (R.INGEST_RECT_CFG_ROT j) % 2 = 1
  (secFld sec (R.INGEST_RECT_DST_DX j), secFld sec (R.INGEST_RECT_DST_DY j), if odd then h else w, if odd then w else h)

/-- The first pixel of a frame is about to be written: a buffer is allocated, zero outside the footprints (R143). -/
def State.openFrame (s : State) (sec : List Byte) (f : Nat) : State :=
  if rectsOf sec = [] || (s.bufOf f).isSome then s
  else s.allocBuf f (inFootprints (secFld sec R.INGEST_SEG_W) (secFld sec R.INGEST_SEG_H) ((rectsOf sec).map (footprintOf sec)))

/-- The data of a packet accepted for frame f are written (R119); those of ST 2110-22 wait for XSDEC. -/
def State.writePacket (s : State) (sec : List Byte) (k f : Nat) (p : MediaPacket) : State :=
  if secFld sec (R.INGEST_ST_CFG_FORMAT k) = 1 then s
  else match s.bufOf f, srdsOf p.payload with
    | some buf, some hs => (s.writeSrds sec f buf k (p.payload.drop (2 + 6 * hs.length)) hs).arbTraffic pINGEST
    | _, _ => s

/-- Accept a packet as number `num` of frame f (R119). -/
def State.acceptPacket (s : State) (sec : List Byte) (k f num epoch : Nat) (p : MediaPacket) : State :=
  let a : Accepted := ⟨num, f, p.marker, p.port, p.time, crc32 p.udpPayload, false⟩
  (((s.openFrame sec f).setWin k (((s.win k).under (descBytes sec k) epoch).accept a)).inc
    (R.INGEST_ST_PKTS_N k)).writePacket sec k f p

/-- A copy from port A of the clock cycle in which the copy from port B was accepted: it is the one accepted, and the
other the duplicate (R119). -/
def State.preferA (s : State) (sec : List Byte) (k f : Nat) (b : Accepted) (p : MediaPacket) : State :=
  let a : Accepted := ⟨b.num, f, p.marker, p.port, p.time, crc32 p.udpPayload, true⟩
  let w := s.win k
  let s1 := ((s.inc (R.INGEST_ST_DUP_N k)).setWin k { w with accepted := w.accepted.map fun x =>
    if x.num = b.num then a else x }).maxFld (R.INGEST_ST_SKEW_MAX_US k) 0
  let s2 := (s1.openFrame sec f).writePacket sec k f p
  if a.crc = b.crc then s2 else s2.mismatch k f

/-- The checks from 0x05 on, and what becomes of the packet (R115–R121). -/
def State.mergePacket (s : State) (t : Timing) (sec : List Byte) (k f epoch : Nat) (p : MediaPacket) : State :=
  if p.time + 100000 < t.p (f - t.lPresent) then s.refusePacket k p.port 5
  else if s.isClosed f then s.inc (R.INGEST_ST_LATE_N k)
  else
    let w := (s.win k).under (descBytes sec k) epoch
    let jxs : Bool := secFld sec (R.INGEST_ST_CFG_FORMAT k) = 1
    if (if jxs then !jxsOk p.payload p.marker else !rawOk sec k p.payload) then s.refusePacket k p.port 6
    else
      let num := if jxs then w.extend16 p.seq else w.unwrap (beAt p.payload 0 2 * 65536 + p.seq)
      if w.below num then s.refusePacket k p.port 7
      else match w.find num with
        | some a =>
          if a.port = .b && p.port = .a && a.time = p.time && !a.paired then s.preferA sec k f a p else s.duplicate k a p
        | none => s.acceptPacket sec k f num epoch p

/-- An uncorrectable error in ingest's merge records or mapping state fences INGEST; the packet is not taken (R135). -/
def State.ingestEcc (s : State) (e : Ecc) : State :=
  if e = .uncorrectable then s.fenceBlock pINGEST causeEcc else s

/-- A media packet as its row receives it; the frame it was accepted for, if any, follows from its timestamp. A packet
whose own section has no descriptor for it is none of class 4, and NET_FRAME_RECEIVE gives it its class (R132). Packets
classified under a section whose window has given way to a later one are discarded without counting (R533). -/
def State.mediaPacket (s : State) (p : MediaPacket) : State × Option Nat :=
  if !s.portReceives p.port || s.isFenced pINGEST noUnit then (s, none)
  else match s.timing with
    | none => (s, none)
    | some t =>
      match s.placeFrame t p.time p.ts with
      | some f =>
        match s.secFor t.lPresent f with
        | (none, _) => (s, none)
        | (some sec, which) => match descOf sec p.port p.dst p.dport with
          | none => (s, none)
          | some k =>
            if s.epochOf which k sec < (s.win k).epoch then (s, none)
            else if p.ecc = .uncorrectable then (s.ingestEcc p.ecc, none)
            else if headerCode sec k p ≠ 0 then (s.refusePacket k p.port (headerCode sec k p), none)
            else (s.mergePacket t sec k f (s.epochOf which k sec) p, some f)
      | none =>
        match (s.sectionsFor p.time p.ts).findSome? fun sec => (descOf sec p.port p.dst p.dport).map fun k => (sec, k) with
        | none => (s, none)
        | some (sec, k) =>
          if p.ecc = .uncorrectable then (s.ingestEcc p.ecc, none)
          else (s.refusePacket k p.port (if headerCode sec k p ≠ 0 then headerCode sec k p else 5), none)

/-! ## XSDEC (R122, R123) -/

/-- Rows y to y + n − 1 of stream k intersect an enabled rectangle. -/
def rowsNeeded (sec : List Byte) (k y n : Nat) : Bool :=
  (rectsOn sec k).any fun j =>
    y < secFld sec (R.INGEST_RECT_SRC_Y j) + secFld sec (R.INGEST_RECT_SIZE_H j) && secFld sec (R.INGEST_RECT_SRC_Y j) < y + n

/-- Every needed row of stream k in frame f has been decoded. -/
def StreamWin.decodedAll (w : StreamWin) (sec : List Byte) (k f : Nat) : Bool :=
  (rectsOn sec k).all fun j => (List.range (secFld sec (R.INGEST_RECT_SIZE_H j))).all fun i =>
    w.slices.any fun q => q.1 = f && q.2.1 ≤ secFld sec (R.INGEST_RECT_SRC_Y j) + i &&
      secFld sec (R.INGEST_RECT_SRC_Y j) + i < q.2.1 + q.2.2

/-- Write the rows of a decoded slice to the buffer of frame f. -/
def State.writeRows (s : State) (sec : List Byte) (f buf k w y : Nat) : Nat → List (Nat × Nat × Nat) → State
  | 0, _ => s
  | n + 1, ps => ((s.writeRun sec buf k 0 y (ps.take w)).notePixels f buf (runPixels sec k 0 y w)).writeRows sec f buf k w
      (y + 1) n (ps.drop w)

/-- The picture header agrees with descriptor k (R122). -/
def JxsHeader.agrees (h : JxsHeader) (sec : List Byte) (k : Nat) : Bool :=
  h.width = secFld sec (R.INGEST_ST_RASTER_W k) && h.height = secFld sec (R.INGEST_ST_RASTER_H k) && h.components = 3 &&
    h.full && h.depth = (if secFld sec (R.INGEST_ST_CFG_DEPTH k) = 1 then 12 else 10)

/-- The code of R122 that stops a decode at this slice, 0 where nothing does: the header is met before the slice. -/
def sliceCode (sec : List Byte) (k : Nat) (h : Option JxsHeader) (r : SliceResult) : Nat := match h with
  | none => 1
  | some x =>
    if !x.profileOk then 2 else if !x.agrees sec k then 3
    else match r with
      | .decoded _ => 0
      | .marker => 1
      | .entropy => 4

/-- A decode stops with an error of R122. -/
def State.decodeError (s : State) (k f slice code : Nat) : State :=
  let w := s.win k
  ((s.setWin k { w with stopped := f :: w.stopped }).inc R.XSDEC_CNT_ERR_N).setFlds
    [(R.XSDEC_ERR_LAST_SLICE, slice), (R.XSDEC_ERR_LAST_STREAM, k), (R.XSDEC_ERR_LAST_CODE, code)]

/-- The slice's rows are written and noted; with the last needed one the frame's decode is finished (R123). -/
def State.sliceDecoded (s : State) (sec : List Byte) (k f row rows us : Nat) (ps : List (Nat × Nat × Nat)) : State :=
  let w := s.win k
  let s1 := match s.bufOf f with
    | some buf => (s.writeRows sec f buf k (secFld sec (R.INGEST_ST_RASTER_W k)) row rows ps).arbTraffic pXSDEC
    | none => s
  let w1 := { w with slices := (f, row, rows) :: w.slices }
  if w1.decodedAll sec k f && !w1.finished.contains f then
    ((s1.setWin k { w1 with finished := f :: w1.finished }).inc R.XSDEC_CNT_FRAMES_N).maxFld R.XSDEC_PEAK_US_US us
  else s1.setWin k w1

/-- XSDEC reaches a slice: it decodes it once its packets are accepted (R123). An uncorrectable error in its working
memory fences XSDEC (R135). -/
def State.xsdecSlice (s : State) (k f slice row rows last us : Nat) (h : Option JxsHeader) (ecc : Ecc) (r : SliceResult) :
    State :=
  match s.timing with
  | none => s
  | some t => match (s.secFor t.lPresent f).1 with
    | none => s
    | some sec =>
      let w := s.win k
      let ready : Bool := match w.first f with
        | some a => w.covers f a (w.unwrap last)
        | none => false
      if s.isFenced pXSDEC noUnit || s.isClosed f || w.stopped.contains f || w.desc ≠ descBytes sec k ||
          secFld sec (R.INGEST_ST_CFG_FORMAT k) ≠ 1 || !ready then s
      else if ecc = .uncorrectable then s.fenceBlock pXSDEC causeEcc
      else if sliceCode sec k h r ≠ 0 then (s.decodeError k f slice (sliceCode sec k h r)).irq pXSDEC 0
      else match r with
        | .decoded ps => if rowsNeeded sec k row rows then s.sliceDecoded sec k f row rows us ps else s
        | _ => s

/-! ## Completeness and the close of a frame (R128–R130) -/

/-- Every packet of the used stream k has come for f. -/
def StreamWin.allPackets (w : StreamWin) (f : Nat) : Bool := match w.first f, w.last f with
  | some a, some b => w.covers f a b
  | _, _ => false

/-- complete_s(F) of R128 for stream k. -/
def State.streamComplete (s : State) (sec : List Byte) (k f : Nat) : Bool :=
  let w := s.win k
  w.desc = descBytes sec k && w.allPackets f && !w.spoiled.contains f &&
    (secFld sec (R.INGEST_ST_CFG_FORMAT k) ≠ 1 ||
      (!s.isFenced pXSDEC noUnit && !w.stopped.contains f && w.decodedAll sec k f))

/-- Source frame f is complete now (R129, R132, R135). -/
def State.frameComplete (s : State) (t : Timing) (f : Nat) : Bool := match (s.secFor t.lPresent f).1 with
  | none => false
  | some sec => !s.isFenced pINGEST noUnit && (usedStreams sec).all fun k => s.streamComplete sec k f

/-- The needed slices of a stream are not decoded at the HAVE instant, though first(F) is defined: OVERRUN (R122, R123).
Where packets of F are missing, the model does not know which slices they belong to: whether a slice whose packets all
came is unfinished is a free value then. The slice recorded is one the decoder had not finished: a free value too
(assumption log, entry 45). -/
def State.overrun (s : State) (sec : List Byte) (f k : Nat) : State :=
  let w := s.win k
  if secFld sec (R.INGEST_ST_CFG_FORMAT k) = 1 && w.desc = descBytes sec k && (w.first f).isSome && !w.stopped.contains f &&
      !s.isFenced pXSDEC noUnit && !w.decodedAll sec k f && (w.allPackets f || s.freeBits 1 = 1) then
    ((s.drawn.decodeError k f (s.drawn.freeBits 16) 5).drawn).irq pXSDEC 1
  else s.drawn

/-- The section kept from before a switch is dropped with the HAVE of its last frame (R132). -/
def State.dropKept (s : State) (lp f : Nat) : State := match s.ingest.switchAt with
  | some n => if n + lp ≤ f + 1 then { s with ingest := { s.ingest with kept := none } } else s
  | none => s

/-- The close of frame f at the instant of its HAVE: completeness, counters and INGEST_MISS; an incomplete frame's
buffer is freed. -/
def State.closeFrame (s : State) (t : Timing) (f : Nat) : State :=
  let sec? := (s.secFor t.lPresent f).1
  let sec := sec?.getD []
  let used := if sec?.isSome then usedStreams sec else []
  let s1 := used.foldl (fun (s : State) k => s.overrun sec f k) s
  let ok := s1.frameComplete t f
  let good : Nat → Bool := fun k => s1.streamComplete sec k f
  let s2 := used.foldl (fun (s : State) k => if good k then s.inc (R.INGEST_ST_FRAMES_OK_N k) else s.inc (R.INGEST_ST_FRAMES_INC_N k)) s1
  let incBits := used.foldl (fun acc k => if good k then acc else insertBits acc k k 1) 0
  let miss := (used.map fun k => (s1.win k).missOf f).sum
  let s3 := s2.setFlds [(R.INGEST_FRAME_STAT_VALID, 1), (R.INGEST_FRAME_STAT_INC, incBits), (R.INGEST_FRAME_STAT_COMPLETE, b2n ok)]
  let s4 := if ok then s3 else ((s3.setFld R.INGEST_MISS_N (satU 32 miss)).irq pINGEST 0).freeBuf f
  let s5 := { s4 with ingest := { s4.ingest with
    closed := ⟨f, ok, miss⟩ :: (s4.ingest.closed.filter fun c => f ≤ c.frame + 32)
    wins := s4.ingest.wins.map fun (w : StreamWin) => w.forget f } }
  (s5.dropKept t.lPresent f).rejoinBoth s4

end Sys2Proof.Machine
end

