-- ==== Sys2Proof/Machine/Gov.lean ====
section
/-! DEFINITION. The banks loaded when a slot becomes READY (R181–R183, R194), and the governor: the prediction model
(R190–R193), when figures are ready (R194–R198), the HAVE figures (R196), the summit's choice (R200–R202) and predicted
energy (R205, R206). -/
namespace Sys2Proof.Machine

/-! ## Loading a bank (R181–R183, R194) -/

/-- One LUT word at a load: a poisoned one is replaced by the linear value (R182). -/
def State.lutWord (s : State) (a n : Nat) : Nat :=
  if s.storeWordBad (a + 4 * n) then let v := n % 4096; v * 256 + v / 16 else memLE s.mem.store (a + 4 * n) 4

/-- The LUTs are read: each poisoned word replaces its entries, and each entry replaced is counted and raised (R182). -/
def State.noteLut (s : State) (a : Nat) : State :=
  let n := ((List.range 12288).filter fun i => s.storeWordBad (a + 4 * i)).length
  (List.range n).foldl (fun (t : State) _ => (t.inc R.PIPE_CNT_LUT_UE_N).event pPIPE 2 noUnit 0)
    (s.blockReads a 49152 pPIPE)

/-- The errors that loading the bank of the slot at store address `a` meets (R155, R181–R183, R194). -/
def State.readsBank (s : State) (a : Nat) : State :=
  let s1 := ((s.readsSec pPIPE a pPIPE 1).readsSec pCAL a pCAL 1).readsSec pDITH a pDITH 1
  let s2 := match (s.secRead a pPIPE 1).bytes? with
    | none => s1
    | some pipe => (s1.noteLut (leAt pipe 8 4 * 64)).blockReads (leAt pipe 12 4 * 64) 384 pPIPE
  s2.readsSec pGOV a pGOV 1

/-- The bank of slot k. Where its PIPE section is not whole no LUT and no directory are read, since nothing gives their
addresses: every entry of the LUTs is 0 and no strand has a payload, DESIGN CHOICE (assumption log, entry 44). The areas
of the strands are taken with the directory. -/
def State.bankFrom (s : State) (k : Nat) : Bank :=
  let a := (s.slot k).addr
  let rp := s.secRead a pPIPE 1
  let rc := s.secRead a pCAL 1
  let rd := s.secRead a pDITH 1
  let rg := s.secRead a pGOV 1
  let pipe := rp.bytes?.getD []
  let lutA := leAt pipe 8 4 * 64
  let dirA := leAt pipe 12 4 * 64
  let whole := rp.bytes?.isSome
  let seg := ((s.slot k).ingest.map fun sec => (secFld sec R.INGEST_SEG_W, secFld sec R.INGEST_SEG_H)).getD (0, 0)
  let cause := fun (p : Nat) (r : SecRead) => (r.cause.map fun c => (p, c)).toList
  { slot := k, gen := s.slotGen k, pipe := pipe, cal := rc.bytes?.getD [], dith := rd.bytes?.getD []
    gov := rg.bytes?.getD [], party := (s.slot k).party, segW := seg.1, segH := seg.2
    screeBase := (s.secRead a pSCREE 1).bytes?.map leNat
    lut := if whole then (List.range 12288).map (s.lutWord lutA) else []
    dir := if whole then (List.range 48).map fun i =>
        (memLE s.mem.store (dirA + 8 * i) 4, memLE s.mem.store (dirA + 8 * i + 4) 4)
      else []
    areas := (List.range 4).map fun g => match (s.secRead a (pSTR g) 1).bytes? with
      | some b => (List.range 12).map fun j => bits (leAt b (0x40 + 4 * j) 4) 18 0
      | none => []
    bad := cause pPIPE rp ++ (if whole && (s.firstBad dirA 384).isSome then [(pPIPE, causeEcc)] else []) ++
      cause pCAL rc ++ cause pDITH rd ++ cause pGOV rg }

/-- Load the bank of slot k: when it becomes READY, or again where it has been lost. A poisoned GOV section fences GOV at
once (R194). -/
def State.loadBank (s : State) (k : Nat) : State :=
  let s1 := s.readsBank (s.slot k).addr
  let s2 := { s1 with commit := { s1.commit with readyBank := some (s.bankFrom k) } }
  match s.secRead (s.slot k).addr pGOV 1 with
  | .poisoned _ => s2.fenceBlock pGOV causeEcc
  | _ => s2

/-- The scree loop of a slot that becomes READY is surveyed, once its bank is loaded; an earlier survey is abandoned
(R198). -/
def State.startSurvey (s : State) (k : Nat) : State :=
  { s with gov := { s.gov with survey := some k, surveyBank := s.commit.readyBank } }.setFlds
    [(R.GOV_SURV_L_DONE, 0), (R.GOV_STATUS_SCREE_BUSY, 1)]

/-! ## The prediction (R190–R193) -/

/-- A word of a bank's GOV section, by the register it loads. -/
def Bank.govFld (b : Bank) (f : Fld) : Nat := secFld b.gov f

/-- The accumulators of one frame: s per rail and l per colour, with the poisoned records and map words read. -/
structure GovAcc where
  s : List Nat := [0, 0, 0, 0, 0, 0, 0, 0, 0, 0, 0, 0]
  l : List Nat := [0, 0, 0]
  records : Nat := 0
  maps : Nat := 0
  /-- The ranges read that hold an error, latest first: address and length. -/
  reads : List (Nat × Nat) := []
deriving DecidableEq, Repr

/-- Add to one entry of a list. -/
def addAt (l : List Nat) (i v : Nat) : List Nat := l.set i (l.getD i 0 + v)

/-- A read of the governor is noted where it meets an error. -/
def State.noteRead (s : State) (acc : GovAcc) (r : Nat × Nat) : GovAcc :=
  if s.flawed r.1 r.2 then { acc with reads := r :: acc.reads } else acc

/-- One pixel under one bank (R191). -/
def State.govPixel (s : State) (b : Bank) (src : PixelSource) (acc : GovAcc) (i : Nat) : GovAcc :=
  let r := s.calRec b.calAddr i
  let acc0 := s.noteRead acc (b.calAddr + 24 * i, 24)
  let acc1 := if r.bad then { acc0 with records := acc0.records + 1 } else acc0
  if b.isDark r then acc1
  else
    let w := s.sourceWord src i
    let y := b.linear r w.1
    let k := if r.bad then [0xFFFF, 0xFFFF, 0xFFFF] else r.i.map (· * 16)
    let mapA := b.govFld R.GOV_RAILMAP_ADDR_ADDR * 64 + 2 * i
    let map := memLE s.mem.store mapA 2
    let acc1 := s.noteRead (s.noteRead acc1 (src.range i)) (mapA, 2)
    let acc2 := if s.storeWordBad mapA then { acc1 with maps := acc1.maps + 1 } else acc1
    [0, 1, 2].foldl (fun a c =>
      let rail := map / 2 ^ (4 * c) % 16
      let a1 := { a with l := addAt a.l c (y.getD c 0) }
      if rail = 15 then a1 else { a1 with s := addAt a1.s rail (y.getD c 0 * k.getD c 0) }) acc2

/-- The figures of R192 from the sums. -/
def Bank.figures (b : Bank) (acc : GovSums) : Figures :=
  let p := (List.range 12).map fun r =>
    let bb := acc.s.getD r 0 / 2 ^ 20 * b.ggen / 2 ^ 15
    let ua := bb * b.govFld (R.GOV_RAIL_IU_I_UNIT_UA r) / 2 ^ 16
    satU 32 (ua * b.govFld (R.GOV_RAIL_VS_V_MODEL_MV r) / 1000)
  let gl := (List.range 12).foldl (fun g r =>
    let lim := b.govFld (R.GOV_RAIL_LIMIT_MW r)
    if lim ≠ 0 && p.getD r 0 ≠ 0 then min g (lim * 32768000 / p.getD r 0) else g) 0x8000
  let npix := b.segW * b.segH
  let w := [b.govFld R.GOV_LUMW_RG_R, b.govFld R.GOV_LUMW_RG_G, b.govFld R.GOV_LUMW_B_B]
  let lum := ([0, 1, 2].map fun c => acc.l.getD c 0 / npix * w.getD c 0 / 2 ^ 20).sum
  { gen := b.gen, rails := p, p := satU 32 (p.sum / 1000), gl := gl, lum := min 0xFFFF (lum * b.ggen / 2 ^ 15) }

/-- Evaluate pixels of a source under a bank, from sums already formed: the sums, and what the evaluation read poisoned. -/
def State.evalUnder (s : State) (b : Bank) (src : PixelSource) (pixels : List Nat) (from' : GovSums) : State × GovSums :=
  let acc := pixels.foldl (s.govPixel b src) { s := from'.s, l := from'.l }
  let s0 := (acc.reads.foldr (fun r (s : State) => s.readWords r.1 r.2 pGOV) s).arbTraffic pGOV
  let s1 := s0.add R.GOV_CNT_UE_N (acc.records + acc.maps)
  let s2 := if acc.records + acc.maps ≠ 0 then s1.irq pGOV 3 else s1
  (if acc.maps ≠ 0 then s2.fenceBlock pGOV causeEcc else s2, ⟨b.gen, acc.s, acc.l⟩)

/-- The sums of no pixel. -/
def GovSums.zero (gen : Nat) : GovSums := ⟨gen, List.replicate 12 0, [0, 0, 0]⟩

/-- Evaluate under a list of banks, from the sums each has so far. -/
def State.evalAll (s : State) (src : Bank → PixelSource) (pixels : Bank → List Nat) (sums : List GovSums) :
    List Bank → State × List GovSums
  | [] => (s, [])
  | b :: bs =>
    let r := s.evalUnder b (src b) (pixels b) ((sums.find? fun x => x.gen = b.gen).getD (.zero b.gen))
    let t := r.1.evalAll src pixels sums bs
    (t.1, r.2 :: t.2)

/-- The figures of each bank from its sums. -/
def figuresFrom (bs : List Bank) (sums : List GovSums) : List Figures :=
  bs.filterMap fun b => (sums.find? fun x => x.gen = b.gen).map b.figures

/-- The banks loaded now: in force, and READY. -/
def State.banks (s : State) : List Bank := s.commit.bank.toList ++ s.commit.readyBank.toList

/-- The banks that apply at a HAVE instant, with EN of GOV_CFG set (R194, R196). -/
def State.enabledBanks (s : State) : List Bank := s.banks.filter fun b => b.govFld R.GOV_CFG_EN = 1

/-- The banks under which a frame opened under the generations `loaded` is evaluated. -/
def State.evalBanks (s : State) (loaded : List Nat) : List Bank :=
  s.enabledBanks.filter fun b => loaded.contains b.gen && !b.lost

/-- The frame engine evaluates the pixels written for a frame and not evaluated yet, each once; its figures are final
(R195). -/
def State.evalFrame (s : State) (x : FrameFigures) : State :=
  let px := x.todo.eraseDups.filter fun i => !x.seen.contains i
  let bs := s.evalBanks x.loaded
  let r := s.evalAll (fun _ => .ingress (ingressBuf x.buf)) (fun _ => px) x.sums bs
  let y := { x with figures := figuresFrom bs r.2, final := true, todo := [], seen := x.seen ++ px, sums := r.2 }
  let s1 := { r.1 with gov := { r.1.gov with frames := (r.1.gov.frames.filter fun z => z.frame ≠ x.frame) ++ [y] } }
  (List.range 12).foldl (fun (s : State) rail => s.setFld (R.GOV_RAIL_PRED_UW rail)
    ((y.figures.map fun g => g.rails.getD rail 0).foldl max 0)) s1

/-- GOV_FIGURES_FINAL for source frame f: the engine has come to the end of what ingest has written of it (R195). -/
def State.finishFigures (s : State) (f : Nat) : State :=
  if s.isFenced pGOV noUnit then s
  else match s.gov.frames.find? fun x => x.frame = f with
    | some x => if x.final then s else s.evalFrame x
    | none =>
      if s.timing.any fun t => (s.secFor t.lPresent f).1.isSome then
        s.evalFrame { frame := f, loaded := s.loadedGens, figures := [], final := false }
      else s

/-- The scree engine starts on the scree frame for n at P(n − L_PRESENT), where the module holds no repeat source; a
survey pauses (R197). -/
def State.startScree (s : State) (n : Nat) : State :=
  if s.storeCtl.repeatFrame.isSome || s.storeCtl.unusable || s.isFenced pGOV noUnit || s.enabledBanks = [] then s
  else { s with gov := { s.gov with evaluating := some (n, s.loadedGens) } }.setFld R.GOV_STATUS_SCREE_BUSY 1

/-- GOV_STATUS.SCREE_BUSY once the evaluation of a frame, or a survey, has ended. -/
def State.screeIdle (s : State) : State :=
  s.setFlag R.GOV_STATUS_SCREE_BUSY (s.gov.survey.isSome || s.gov.evaluating.isSome)

/-- SCREE_EVAL_DONE for n: the scree frame for n under each bank loaded at its start (R197). -/
def State.screeEvalDone (s : State) (n : Nat) : State := match s.gov.evaluating with
  | none => s
  | some (m, gens) =>
    if m ≠ n || s.isFenced pGOV noUnit || s.storeCtl.unusable then s
    else
      let bs := s.evalBanks gens
      let r := s.evalAll (fun b => b.screeFrame n) (fun b => List.range (b.segW * b.segH)) [] bs
      { r.1 with gov := { r.1.gov with
          evaluating := none
          scree := (r.1.gov.scree.filter fun (x : FrameFigures) => x.frame ≠ n && n < x.frame + 32) ++
            [({ frame := n, loaded := gens, figures := figuresFrom bs r.2, final := true } : FrameFigures)] } }.screeIdle

/-- GOV_SURVEY_DONE: the largest P, its index and the largest L over the loop of the slot surveyed (R198). The survey is
paused while the engine evaluates a frame. -/
def State.surveyDone (s : State) : State := match s.gov.surveyBank with
  | none => s
  | some b =>
    if s.isFenced pGOV noUnit || s.gov.evaluating.isSome || s.storeCtl.unusable then s
    else
      let step := fun (acc : State × Nat × Nat × Nat) (n : Nat) =>
        let r := acc.1.evalUnder b (b.screeFrame n) (List.range (b.segW * b.segH)) (.zero b.gen)
        let g := b.figures r.2
        (r.1, if acc.2.1 < g.p then (g.p, n, max acc.2.2.2 g.lum) else (acc.2.1, acc.2.2.1, max acc.2.2.2 g.lum))
      let r := (List.range b.lScree).foldl step (s, 0, 0, 0)
      (({ r.1 with gov := { r.1.gov with survey := none, surveyBank := none } }.setFlds
        [(R.GOV_SURV_P_MW, r.2.1), (R.GOV_SURV_IDX_INDEX, r.2.2.1), (R.GOV_SURV_L_LUM, r.2.2.2), (R.GOV_SURV_L_DONE, 1),
         (R.GOV_SURV_GEN_GEN, b.gen)]).screeIdle).irq pGOV 1

/-! ## The figures of a HAVE (R194–R196) -/

/-- The ceiling figures of a bank (R194). -/
def Bank.ceiling (b : Bank) : Figures :=
  { gen := b.gen, rails := [], p := b.govFld R.GOV_CEIL_P_MW, gl := b.govFld R.GOV_CEIL_LG_G_LOCAL
    lum := b.govFld R.GOV_CEIL_LG_LUM }

/-- P, GL and L of a frame over the enabled banks that apply: the largest, smallest and largest (R192, R194). -/
def State.worst (s : State) (x : Option FrameFigures) : Nat × Nat × Nat :=
  s.enabledBanks.foldl (fun acc b =>
    let g := match x with
      | some y => if y.final then (y.figures.find? fun (z : Figures) => z.gen = b.gen).getD b.ceiling else b.ceiling
      | none => b.ceiling
    (max acc.1 g.p, min acc.2.1 g.gl, max acc.2.2 g.lum)) (0, 0x8000, 0)

/-- The figures of source frame f, of the repeat source, and of the scree frame for n. -/
def State.figuresOf (s : State) (f : Nat) : Option FrameFigures := s.gov.frames.find? fun x => x.frame = f
def State.screeFigures (s : State) (n : Nat) : Option FrameFigures := s.gov.scree.find? fun x => x.frame = n

/-- Figures of the frame that stands in when n is not rendered: the repeat source, else the scree frame for n. -/
def State.standIn (s : State) (n : Nat) : Nat × Nat × Nat := match s.storeCtl.repeatFrame with
  | some r => s.worst (s.figuresOf r)
  | none => s.worst (s.screeFigures n)

/-- P_PRED, P_REP, G_LOCAL_MAX and LUM_PRED of the HAVE for n (R196). -/
def State.haveFigures (s : State) (n : Nat) (complete : Bool) : Nat × Nat × Nat × Nat :=
  if s.isFenced pGOV noUnit then
    (s.fld R.GOV_CEIL_P_MW, s.fld R.GOV_CEIL_P_MW, s.fld R.GOV_CEIL_LG_G_LOCAL, s.fld R.GOV_CEIL_LG_LUM)
  else if s.enabledBanks = [] || s.inBivouac then (0, 0, 0x8000, 0)
  else
    let o := s.standIn n
    if complete then
      let x := s.worst (s.figuresOf n)
      (if s.readyDiffers then max x.1 o.1 else x.1, o.1, min x.2.1 o.2.1, max x.2.2 o.2.2)
    else (o.1, o.1, o.2.1, o.2.2)

/-- The prediction for n is final: its figures, or with no repeat source those of the scree frame, are known; a bank
that is not enabled, and a fenced GOV, need none (R90, R195–R197). -/
def State.predictionFinal (s : State) (n : Nat) : Bool :=
  s.isFenced pGOV noUnit || s.enabledBanks = [] || s.inBivouac ||
    ((match s.figuresOf n with
      | some x => x.final
      | none => false) &&
     (s.storeCtl.repeatFrame.isSome || (s.screeFigures n).isSome))

/-! ## The summit's choice (R200–R202) -/

/-- The governor part of a party section, the values of the GOV_P registers (R199). -/
def State.takeGovPart (s : State) (p : List Byte) : State :=
  s.setFlds
    [(R.GOV_P_CAP_MW, leAt p 64 4), (R.GOV_P_STATIC_MW, leAt p 68 4), (R.GOV_P_CEIL_MW, leAt p 72 4),
     (R.GOV_P_LUM_CAP, leAt p 76 2), (R.GOV_P_LUM_CEIL, leAt p 78 2), (R.GOV_P_GAIN_MAX, leAt p 80 2),
     (R.GOV_P_GAIN_SCREE, leAt p 82 2), (R.GOV_P_SLEW_UP, leAt p 84 2)]

/-- The figures of a segment over its counted HAVE reports (R200). -/
def segmentFigures (p : List Byte) (status : Nat) (haves : List Have) : Nat × Nat × Nat :=
  match haves with
  | [] => (leAt p 72 4, 0x8000, leAt p 78 2)
  | _ => (haves.foldl (fun m h => max m (if status = 1 then h.pRep else h.pPred)) 0,
          haves.foldl (fun m h => min m h.gLocal) 0xFFFF, haves.foldl (fun m h => max m h.lum) 0)

/-- The choice of R201 for a status, under the governor part of a party section. -/
structure GainChoice where
  dyn : Nat
  gpow : Nat
  glum : Nat
  gloc : Nat
  target : Nat
  gain : Nat
deriving DecidableEq, Repr

/-- R200 and R201. -/
def chooseGain (p : List Byte) (status prev : Nat) (counted : List Have) : GainChoice :=
  let ms := membersOf p
  let segs := (ms.map (·.segment)).eraseDups
  let figs := segs.map fun g => segmentFigures p status (counted.filter fun h =>
    ms.any fun m => m.id = h.sender && m.segment = g)
  let dyn := (figs.map (·.1)).sum
  let gloc := figs.foldl (fun m f => min m f.2.1) 0x8000
  let lmax := figs.foldl (fun m f => max m f.2.2) 0
  let cap := leAt p 64 4
  let gpow := if cap = 0 || dyn = 0 then 0x8000 else min 0x8000 ((cap - leAt p 68 4) * 32768 / dyn)
  let lcap := leAt p 76 2
  let glum := if lcap = 0 || lmax = 0 then 0x8000 else min 0x8000 (lcap * 32768 / lmax)
  let gmax := leAt p 80 2
  let target := if status = 2 then min gmax (leAt p 82 2) else min gmax (min gloc (min gpow glum))
  let slew := leAt p 84 2
  let gain := if slew ≠ 0 && prev + slew < target then prev + slew else target
  { dyn := dyn, gpow := gpow, glum := glum, gloc := gloc, target := target, gain := gain }

/-- Show a choice in the GOV_Q registers (R201). -/
def State.showChoice (s : State) (c : GainChoice) : State :=
  s.setFlds [(R.GOV_Q_DYN_LO_DYN_LO, c.dyn), (R.GOV_Q_DYN_HI_DYN_HI, c.dyn / 2 ^ 32), (R.GOV_Q_G1_GPOW, c.gpow),
    (R.GOV_Q_G1_GLUM, c.glum), (R.GOV_Q_G2_GLOC, c.gloc), (R.GOV_Q_G2_TARGET, c.target)]

/-! ## Predicted energy (R205, R206) -/

/-- Add the energy of power `uw` over one T_F = tf_num / RATE_NUM ns to rail r, with the remainder carried (R205). -/
def State.addEnergy (s : State) (r uw : Nat) (t : Timing) : State :=
  let total := uw * t.tf + s.gov.rest.getD r 0
  let unit := 3600000000 * t.num
  { s with gov := { s.gov with energy := s.gov.energy.set r ((s.gov.energy.getD r 0 + total / unit) % 2 ^ 64)
                               rest := s.gov.rest.set r (total % unit) } }

/-- The rail figures of the frame shown, under the bank of the generation that renders it or else the other (R205). -/
def FrameFigures.railsFor (x : FrameFigures) (gen : Nat) : List Nat :=
  match x.figures.find? fun g => g.gen = gen with
  | some g => g.rails
  | none => match x.figures with
    | g :: _ => g.rails
    | [] => []

/-- The figures of the frame a case shows (R205). -/
def State.caseFigures (s : State) (c : FrameCase) : Option FrameFigures :=
  if c.source = 0 || c.source = 1 then s.figuresOf c.shows else s.screeFigures c.shows

/-- The rails whose strands all send nothing take the static term alone; `silent` lists them (R205). -/
def State.energyAdd (s : State) (t : Timing) (silent : List Nat) : State :=
  (List.range 12).foldl (fun (s : State) r =>
    let static := s.fld (R.GOV_RAIL_VS_STATIC_MW r) * 1000
    let dynamic := match s.gov.shown with
      | some (c, gen) => match s.caseFigures c with
        | some x => if s.isFenced pGOV noUnit || silent.contains r || !x.final then 0
          else (x.railsFor gen).getD r 0 * c.gain / 2 ^ 15
        | none => 0
      | none => 0
    s.addEnergy r (static + dynamic) t) s

/-- Take an armed snapshot at the boundary P(n) (R206); METER_DC latches its own in the same cycle. -/
def State.govSnapshot (s : State) (n : Nat) : State :=
  if s.flag R.GOV_SNAP_CTRL_REQ then
    let s1 := (List.range 12).foldl (fun (s : State) r =>
      s.setFrame (R.GOV_EPRED_LO_E_LO r) (R.GOV_EPRED_HI_E_HI r) (s.gov.energy.getD r 0)) s
    ((s1.setFrame R.GOV_SNAP_FRAME_LO_N_LO R.GOV_SNAP_FRAME_HI_N_HI n).setFlds
      [(R.GOV_SNAP_CTRL_REQ, 0), (R.GOV_SNAP_CTRL_DONE, 1)]).irq pGOV 2
  else s

/-- GOV_SNAP_REQUEST: a second request before DONE is absorbed (R206). -/
def State.armSnapshot (s : State) : State :=
  if s.flag R.GOV_SNAP_CTRL_REQ then s else s.setFlds [(R.GOV_SNAP_CTRL_REQ, 1), (R.GOV_SNAP_CTRL_DONE, 0)]

end Sys2Proof.Machine
end

