-- ==== Sys2Proof/Machine/Party.lean ====
section
/-! DEFINITION. Party messages (R84–R89, R297, R298), HAVE (R90, R196), the quorum and the summit's choice (R91–R93,
R300), COMMIT at a member (R94, R302, R303), GEN_ANNOUNCE and the slots' states (R98–R101, R532). -/
namespace Sys2Proof.Machine

/-! ## Messages -/

def typeHave : Nat := 1
def typeCommit : Nat := 2
def typeAnnounce : Nat := 3
def typeActivate : Nat := 4

/-- The length of a message of a type, TAG included (R86–R89); 0 for an undefined type. -/
def partyLen (ty : Nat) : Nat :=
  if ty = typeHave then 48 else if ty = typeCommit then 40 else if ty = typeAnnounce then 72
  else if ty = typeActivate then 64 else 0

/-- PARTY is fenced as a block: it sends nothing and holds no COMMIT (R326). -/
def State.partyFenced (s : State) : Bool := s.isFenced pPARTY noUnit

/-- The first 64 bits of the AES-128-CMAC of R84. -/
def partyTag (key body : List Byte) : List Byte := (Config.cmac key body).take 8

/-- A party message of a type for a frame, with its TAG; none without a key, a module ID or a party (R84, R410). -/
def State.buildParty (s : State) (ty frame : Nat) (body : List Byte) : Option (List Byte) :=
  match s.party.keyCur, s.ownId with
  | some key, some me =>
    if s.partyFenced then none
    else
      let m := beBytes 2 0x4C50 ++ [1, BitVec.ofNat 8 ty] ++ beBytes 2 (leAt s.partyBytes 96 2) ++ beBytes 2 me ++
        beBytes 6 frame ++ beBytes 2 (partyLen ty) ++ body
      some (m ++ partyTag key m)
  | _, _ => none

/-- The groups a member joins on a port: GRP and HAVE_GRP of the membership part (R293). -/
def partyGroup (p : Port) (have_ : Bool) (b : List Byte) : Nat := leAt b ((if have_ then 112 else 104) + 4 * p.ix) 4

/-- Where a party message of type `ty` goes on port p: HAVE to HAVE_GRP, every other to GRP (R297). -/
def State.partyUdp (s : State) (p : Port) (ty : Nat) : UdpHead :=
  { dst := partyGroup p (ty = typeHave) s.partyBytes, port := leAt s.partyBytes 102 2, ttl := leAt s.partyBytes 120 1
    dscp := 46 }

/-- Send a party message once on each port in use (R84, R297). -/
def State.sendParty (s : State) (m : List Byte) : State :=
  [Port.a, Port.b].foldl (fun (s : State) p =>
    if s.portReceives p then s.emit (.partyMsg p (s.netHead p) (s.partyUdp p (beAt m 3 1)) m) else s) s

/-- A message is refused with a code of R85. -/
def State.refuseParty (s : State) (code ty sender : Nat) : State :=
  ((s.inc R.PARTY_CNT_BAD_N).setFlds [(R.PARTY_BAD_LAST_SENDER, sender), (R.PARTY_BAD_LAST_TYPE, ty),
    (R.PARTY_BAD_LAST_CODE, code)]).irq pPARTY 3

/-- The acting role of R299: 0 none, 1 listening, 2 acting summit, 3 acting standby. -/
def State.role (s : State) : Nat := s.fld R.PARTY_ROLE_ROLE
def roleNone : Nat := 0
def roleListening : Nat := 1
def roleSummit : Nat := 2
def roleStandby : Nat := 3

/-- The current summit of R302. -/
def State.currentSummit (s : State) : Option Nat :=
  if s.fld R.PARTY_ROLE_CURRENT = 0x7FF then none else some (s.fld R.PARTY_ROLE_CURRENT)

/-- The senders from which a COMMIT is recognised (R302). -/
def State.commitSender (s : State) (id : Nat) : Bool := match s.currentSummit with
  | none => s.isCandidate id
  | some c => id = c || (s.isCandidate id && (id < c || 2 ≤ s.party.noSummit))

/-- The senders from which GEN_ANNOUNCE and ACTIVATE are recognised (R302). -/
def State.summitSender (s : State) (id : Nat) : Bool := match s.currentSummit with
  | none => s.isCandidate id
  | some c => id = c

/-- The current frame of the receiver, under R296. -/
def State.nowFrame (s : State) : Nat := match s.checkTiming with
  | some t => t.cur s.ptp.ns
  | none => 0

/-- A message's fields as R84 lays them out. -/
def msgType (m : List Byte) : Nat := beAt m 3 1
def msgSender (m : List Byte) : Nat := beAt m 6 2
def msgFrame (m : List Byte) : Nat := beAt m 8 6

/-- TAG verifies under CURRENT or OTHER (R410). -/
def State.tagOk (s : State) (m : List Byte) : Bool :=
  let body := m.take (m.length - 8)
  let tag := m.drop (m.length - 8)
  match s.party.keyCur with
  | none => false
  | some k => partyTag k body = tag || match s.party.keyOther with
    | some j => partyTag j body = tag
    | none => false

/-- Seconds and nanoseconds of an ACTIVATE equal P(ACT_FRAME) (R85 code 0x0B). -/
def State.actMatches (s : State) (m : List Byte) : Bool := match s.checkTiming with
  | some t => beAt m 32 6 * 1000000000 + beAt m 38 4 = t.p (beAt m 24 6) && beAt m 38 4 < 1000000000
  | none => false

/-- The checks 0x01 to 0x05 of R85, 0 where none fails. -/
def State.frontCode (s : State) (m : List Byte) : Nat :=
  if m.length ≠ beAt m 14 2 || m.length < 16 || (partyLen (msgType m) ≠ 0 && m.length ≠ partyLen (msgType m)) then 1
  else if beAt m 0 2 ≠ 0x4C50 || beAt m 2 1 ≠ 1 || partyLen (msgType m) = 0 then 2
  else if beAt m 4 2 ≠ leAt s.partyBytes 96 2 then 3
  else if !s.tagOk m then 4
  else if !s.isMember (msgSender m) then 5
  else 0

/-- The checks 0x06 to 0x08 of R85, 0 where none fails. -/
def State.bodyCode (s : State) (m : List Byte) : Nat :=
  let ty := msgType m
  let lp := match s.checkTiming with
    | some t => t.lPresent
    | none => 0
  let ahead := decide (s.nowFrame + lp + 1 < msgFrame m)
  if ty = typeHave then
    if s.role = roleNone then 6 else if ahead then 7 else 0
  else if ty = typeCommit then
    if !s.commitSender (msgSender m) then 6 else if ahead then 7
    else if 2 < beAt m 16 1 || 0x8000 < beAt m 20 2 || beAt m 18 2 = 0 then 8 else 0
  else if ty = typeAnnounce then
    if !s.summitSender (msgSender m) then 6 else if beAt m 16 2 = 0 then 8 else 0
  else
    if !s.summitSender (msgSender m) then 6 else if beAt m 24 6 ≤ s.nowFrame then 7 else 0

/-- The first valid copy of (TYPE, SENDER, FRAME) is kept, later ones are dropped (R84). -/
def State.isSeen (s : State) (m : List Byte) : Bool := s.party.seen.contains (msgType m, msgSender m, msgFrame m)

/-- Remember a valid copy; those far behind are forgotten. -/
def State.markSeen (s : State) (m : List Byte) : State :=
  { s with party := { s.party with seen := (msgType m, msgSender m, msgFrame m) ::
    (s.party.seen.filter fun q => s.nowFrame ≤ q.2.2 + 32) } }

/-! ## Slots becoming READY (R98–R101, R532) -/

/-- P(f) has not come yet. -/
def State.isAhead (s : State) (f : Nat) : Bool := match s.commit.passed with
  | some n => n < f
  | none => true

/-- A COMMIT held, or settled at its D, names the READY slot for a frame not yet reached (R101, R532). -/
def State.readyNamed (s : State) : Bool := match s.readySlot with
  | none => false
  | some k =>
    s.commit.held.any (fun c => c.gen = s.slotGen k && c.status = 0 && s.isAhead c.frame) ||
      s.commit.cases.any fun c => c.slot = some k && c.gen = s.slotGen k && s.isAhead c.frame

/-- Memberships and the PARTY registers follow the slots (R133, R296). -/
def State.slotsChanged (s : State) (before : State) : State := (s.showParty).rejoinBoth before

/-- Slot k becomes READY, unless another READY slot is named for a frame not yet reached; any other READY slot returns
to STAGED (R532). -/
def State.makeReady (s : State) (k : Nat) : State :=
  if s.readySlot = some k then s
  else if s.readyNamed then s
  else
    let s1 := match s.readySlot with
      | some j => s.setSlotState j slotStaged
      | none => s
    (((s1.setSlotState k slotReady).loadBank k).startSurvey k).slotsChanged s

/-- The STAGED slot that the latest GEN_ANNOUNCE names with its digest becomes READY (R99, R532). -/
def State.matchAnnounce (s : State) : State := match s.commit.announce with
  | some a =>
    if a.withdraw then s
    else match (List.range 4).find? fun k => s.slotState k = slotStaged && s.slotGen k = a.gen && (s.slot k).sound &&
        (s.slot k).digest = a.digest with
      | some k => s.makeReady k
      | none => s
  | none => s

/-- A READY slot of generation `gen` is withdrawn: RETIRED, unless a COMMIT held names it (R101). -/
def State.withdraw (s : State) (gen : Nat) : State := match s.readySlot with
  | some k =>
    if s.slotGen k = gen && !s.readyNamed then
      ({ s.setSlotState k slotRetired with commit := { s.commit with readyBank := none } }).slotsChanged s
    else s
  | none => s

/-- A member keeps the latest GEN_ANNOUNCE accepted, a withdrawal included: one that R101 ignores, or that names another
generation, still replaces the announce kept before, and the summit names no READY slot by that one any more. DESIGN
CHOICE (assumption log, entry 46): the spec does not say whether an ignored withdrawal is kept. -/
def State.takeAnnounce (s : State) (a : Announce) : State :=
  let s1 := { s with commit := { s.commit with announce := some a } }
  if a.withdraw then s1.withdraw a.gen else s1.matchAnnounce

/-! ## The quorum (R91–R93, R300) -/

/-- A member is lagging for frame n (R92). -/
def State.isLagging (s : State) (id n : Nat) : Bool := s.party.lagging.any fun l => l.1 = id && (l.2 = 0 || n < l.2)

/-- The members expected for frame n. -/
def State.expected (s : State) (n : Nat) : List Nat := (s.members.map (·.id)).filter fun id => !s.isLagging id n

/-- The HAVE reports held for frame n from members of the table. -/
def State.heldHaves (s : State) (n : Nat) : List Have :=
  s.party.haves.filter fun h => h.frame = n && s.isMember h.sender

/-- The quorum or shadow quorum for n has closed. -/
def State.isQuorumClosed (s : State) (n : Nat) : Bool := s.party.closed.contains n

/-- The generation in force at frame n − 1 as the summit knows it: that of a COMMIT held or settled for an earlier frame
not yet reached that names the READY slot, else the one in force. -/
def State.genBefore (s : State) (n : Nat) : Nat :=
  if s.readyGen ≠ 0 &&
      (s.commit.held.any (fun c => c.frame < n && c.gen = s.readyGen && c.status = 0 && s.isAhead c.frame) ||
       s.commit.cases.any fun c => c.frame < n && c.slot = s.readySlot && c.gen = s.readyGen && s.isAhead c.frame) then
    s.readyGen
  else s.curGen

/-- The slot of a generation that a COMMIT may name: in force or READY. -/
def State.slotOfGen (s : State) (gen : Nat) : Option Nat :=
  if s.commit.cur.isSome && s.curGen = gen then s.commit.cur
  else match s.readySlot with
    | some k => if s.slotGen k = gen then some k else none
    | none => none

/-- Member miss counts at the close of n: LAG_K uncounted frames in a row make a member lagging (R92). -/
def State.markLagging (s : State) (n : Nat) (counted : List Have) : State :=
  let k := s.timedParam 9 1
  let has := fun id => counted.any fun h => h.sender = id
  let missOf := fun id => ((s.party.misses.find? fun m => m.1 = id).map (·.2)).getD 0
  let exp := s.expected n
  let misses := (s.members.map (·.id)).filterMap fun id =>
    if has id then none else if exp.contains id then some (id, missOf id + 1) else none
  let late := misses.filter fun m => k ≤ m.2
  let kept := s.party.lagging.filter fun l => !(l.2 ≠ 0 && l.2 ≤ n)
  let s1 := { s with party := { s.party with
    misses := misses.filter fun m => m.2 < k
    lagging := kept ++ (late.filter fun m => !(kept.any fun l => l.1 = m.1)).map fun m => (m.1, 0) } }
  if late = [] then s1 else s1.irq pPARTY 1

/-- A COMMIT the acting summit forms for n from a close (R93, R201): status, generation, gain, and the new repeat_run;
none where it has no generation to name. -/
def State.chooseCommit (s : State) (q : QuorumClose) : Option (Commit × GainChoice) × Nat :=
  let incomplete := (q.counted.filter fun h => !h.complete).length
  let torn := s.timedParam 20 2 < incomplete
  let run := if torn then min 65535 (s.party.repeatRun + 1) else 0
  let r2s := s.timedParam 22 2
  let status := if !torn then 0 else if r2s ≠ 0 && r2s < run then 2 else 1
  let inForce := s.genBefore q.frame
  let nb := match s.commit.announce with
    | some a => if a.withdraw then none else some a.notBefore
    | none => none
  let pending := match nb with
    | some n => if n ≤ q.frame then s.readyGen else 0
    | none => 0
  let gen := if status = 0 && pending ≠ 0 && q.counted.all (fun h => h.genReady = pending) then pending else inForce
  match s.slotOfGen gen, s.ownId with
  | some k, some me =>
    if gen = 0 then (none, run)
    else
      let c := chooseGain (s.slot k).party status s.party.prev q.counted
      (some ({ sender := me, frame := q.frame, status := status, gen := gen, gain := c.gain }, c), run)
  | _, _ => (none, run)

/-- Hold a COMMIT: the first of a sender for its frame. -/
def State.holdCommit (s : State) (c : Commit) : State :=
  if s.commit.held.any fun d => d.frame = c.frame && d.sender = c.sender then s
  else { s with commit := { s.commit with held := s.commit.held ++ [c] } }

/-- The summit transmits the COMMIT of a close and holds it; `before` is the generation of the frame before. -/
def State.transmitCommit (s2 : State) (q : QuorumClose) (c : Commit) (before : Nat) : State :=
    let body := [BitVec.ofNat 8 c.status, BitVec.ofNat 8 (b2n (decide (c.gen ≠ before)))] ++ beBytes 2 c.gen ++
      beBytes 2 c.gain ++ beBytes 2 q.counted.length ++ beBytes 2 q.lagging ++
      beBytes 2 (q.counted.filter fun h => !h.complete).length ++ beBytes 4 0
    match s2.buildParty typeCommit q.frame body with
    | none => s2
    | some m =>
      let s3 := (s2.sendParty m).holdCommit c
      { s3 with party := { s3.party with
        prev := c.gain
        named := some c.gen
        closes := s3.party.closes.map fun p => if p.frame = q.frame then { p with sent := true } else p } }

/-- The acting summit chooses and transmits the COMMIT of a close, and holds it itself (R91, R93, R297). -/
def State.sendCommit (s : State) (q : QuorumClose) : State :=
  let r := s.chooseCommit q
  let s1 := { s with party := { s.party with repeatRun := r.2 } }
  match r.1 with
  | none => s1
  | some (c, g) => (s1.showChoice g).transmitCommit q c (s1.genBefore q.frame)

/-- The quorum for n alone closes, or the shadow quorum of a standby or listening candidate (R91, R92, R300). -/
def State.closeOne (s : State) (n : Nat) : State := match s.timing with
  | none => s
  | some t =>
    if s.isQuorumClosed n || s.role = roleNone || s.partyFenced then s
    else
      let counted := s.heldHaves n
      let s1 := s.markLagging n counted
      let lagging := (s1.members.filter fun m => s1.isLagging m.id n).length
      let q : QuorumClose := ⟨n, counted, lagging, false⟩
      let s2 := { s1 with party := { s1.party with
        closes := q :: (s1.party.closes.filter fun p => n ≤ p.frame + 32)
        closed := n :: s1.party.closed
        haves := s1.party.haves.filter fun h => n ≤ h.frame + 32 } }
      let s3 := s2.setFlds [(R.PARTY_Q_LAST_LAGGING, lagging), (R.PARTY_Q_LAST_COUNTED, counted.length),
        (R.PARTY_Q_INFO_MARGIN_US, satU 16 ((t.dDue n - s2.ptp.ns) / 1000)),
        (R.PARTY_Q_INFO_EARLY, b2n (decide (s2.ptp.ns < t.c n))),
        (R.PARTY_Q_INFO_INCOMPLETE, (counted.filter fun h => !h.complete).length)]
      if s3.role = roleSummit then s3.sendCommit q else s3

/-- Every expected member's HAVE for n is held, and one at least. -/
def State.allHeld (s : State) (n : Nat) : Bool :=
  let held := s.heldHaves n
  held ≠ [] && (s.expected n).all fun id => held.any fun h => h.sender = id

/-- The quorum for n closes; the members it makes lagging are expected no longer, so that the quorum of a later frame may
close with it (R91, R92). HAVE reports are held for at most L_PRESENT + 1 frames ahead (R85). -/
def State.closeQuorum (s : State) (n : Nat) : State :=
  (List.range 16).foldl (fun (t : State) i => if t.allHeld (n + 1 + i) then t.closeOne (n + 1 + i) else t) (s.closeOne n)

/-- The quorum closes early once every expected member's HAVE is held (R91). -/
def State.closeEarly (s : State) (n : Nat) : State := if s.allHeld n then s.closeQuorum n else s

/-- A candidate holds a HAVE, its own included: late after the close, readmitting a lagging member before C(n)
(R91, R92, R96). -/
def State.holdHave (s : State) (h : Have) : State :=
  let c := match s.timing with
    | some t => t.c h.frame
    | none => 0
  let back := s.isLagging h.sender h.frame && decide (s.ptp.ns < c)
  let s1 := if back then
      ({ s with party := { s.party with lagging := s.party.lagging.map fun (l : Nat × Nat) =>
        if l.1 = h.sender && l.2 = 0 then (l.1, h.frame + 1) else l } }).irq pPARTY 1
    else s
  if s1.isQuorumClosed h.frame then s1.inc R.PARTY_CNT_HAVE_LATE_N
  else ({ s1 with party := { s1.party with haves := s1.party.haves ++ [h] } }).closeEarly h.frame

/-! ## HAVE (R86, R90, R196, R469) -/

/-- Any display-plane page is fenced (R86 FLAGS[5]). -/
def State.displayFenced (s : State) : Bool := s.fences.any fun f => displayPages.contains f.page

/-- GEN_READY of the HAVE for n: 0 until L_PRESENT frames after the last generation switch (R133). -/
def State.haveReady (s : State) (t : Timing) (n : Nat) : Nat := match s.commit.switchAt with
  | some w => if n < w + t.lPresent then 0 else s.readyGen
  | none => s.readyGen

/-- The HAVE for n is sent: completeness and figures are final at this instant (R90, R130). -/
def State.sendHave (s : State) (n : Nat) : State := match s.timing with
  | none => s
  | some t =>
    if s.isClosed n || !s.gridRuns then s
    else
      let complete := s.inBivouac || s.frameComplete t n
      let figs := s.haveFigures n complete
      let ceil := !s.inBivouac && complete && !s.isFenced pGOV noUnit && s.enabledBanks ≠ [] && match s.figuresOf n with
        | some x => !x.final
        | none => true
      let rep := s.storeCtl.repeatFrame.isSome
      let s1 := if s.inBivouac then
          ({ s with ingest := { s.ingest with closed := ⟨n, true, 0⟩ :: s.ingest.closed } }.dropKept t.lPresent n).rejoinBoth s
        else s.closeFrame t n
      let s2 := s1.setFlds [(R.GOV_HAVE_P_MW, figs.1), (R.GOV_HAVE_R_MW, figs.2.1), (R.GOV_HAVE_LG_G_LOCAL, figs.2.2.1),
        (R.GOV_HAVE_LG_LUM, figs.2.2.2), (R.GOV_STATUS_CEIL, b2n ceil),
        (R.GOV_STATUS_TWO_BANKS, b2n (decide (1 < s1.banks.length)))]
      let s3 := if ceil then (s2.inc R.GOV_CNT_CEIL_N).irq pGOV 0 else s2
      let ready := s.haveReady t n
      let flags := b2n complete + 2 * b2n rep + 4 * b2n (s.flag R.BELAY_STATUS_LEAD) + 8 * b2n s.ptpIsLocked +
        16 * b2n (s.ptpState = ptpHoldover) + 32 * b2n s.displayFenced + 64 * b2n s.cpDown
      let body := beBytes 2 flags ++ beBytes 2 s.curGen ++ beBytes 2 ready ++ beBytes 2 0 ++ beBytes 4 figs.1 ++
        beBytes 4 figs.2.1 ++ beBytes 2 figs.2.2.1 ++ beBytes 2 figs.2.2.2 ++ beBytes 4 0
      match s3.buildParty typeHave n body, s3.ownId with
      | some m, some me =>
        let s4 := s3.sendParty m
        if s4.role = roleNone then s4
        else s4.holdHave { sender := me, frame := n, complete := complete, hasRepeat := rep, genReady := ready,
                           genCur := s.curGen, pPred := figs.1, pRep := figs.2.1, gLocal := figs.2.2.1, lum := figs.2.2.2 }
      | _, _ => s3

/-- The HAVE for f leaves early once f is complete and its prediction final (R90). -/
def State.haveEarly (s : State) (f : Nat) : State := match s.timing with
  | none => s
  | some t =>
    if !s.isClosed f && !s.inBivouac && s.gridRuns && s.frameComplete t f && s.predictionFinal f then s.sendHave f else s

/-! ## Receiving (R85, R92, R94, R101, R439) -/

/-- A HAVE that passed R85. -/
def State.acceptHave (s : State) (m : List Byte) : State :=
  let fl := beAt m 16 2
  s.holdHave { sender := msgSender m, frame := msgFrame m, complete := bitSet fl 0, hasRepeat := bitSet fl 1,
               genCur := beAt m 18 2, genReady := beAt m 20 2, pPred := beAt m 24 4, pRep := beAt m 28 4,
               gLocal := beAt m 32 2, lum := beAt m 34 2 }

/-- An acting summit that holds a COMMIT from a candidate of lower module ID stands down (R303). -/
def State.standDown (s : State) (c : Commit) : State := match s.ownId with
  | some me =>
    if s.role = roleSummit && c.sender < me then
      (({ s with party := { s.party with silent := 0 } }.setFld R.PARTY_ROLE_ROLE roleStandby).inc
        R.PARTY_CNT_STANDDOWN_N).irq pPARTY 0
    else s
  | none => s

/-- A COMMIT that passed the checks to 0x08: late after D, refused with GEN_UNKNOWN, or held (R94, R96). -/
def State.acceptCommit (s : State) (m : List Byte) : State :=
  let c : Commit := { sender := msgSender m, frame := msgFrame m, status := beAt m 16 1, gen := beAt m 18 2,
                      gain := beAt m 20 2 }
  let late := match s.timing with
    | some t => decide (t.dDue c.frame < s.ptp.ns) || match s.commit.dueDone with
      | some d => decide (c.frame ≤ d)
      | none => false
    | none => false
  if late then ((s.markSeen m).inc R.COMMIT_CNT_LATE_N).irq pCOMMIT 1
  else if (s.commit.cur.isSome && c.gen = s.curGen) || (c.status = 0 && c.gen = s.readyGen && s.readyGen ≠ 0) then
    ((s.markSeen m).holdCommit c).standDown c
  else (s.refuseParty 9 typeCommit c.sender).inc R.COMMIT_CNT_REFUSED_N

/-- The announce of a message (R88). -/
def announceOf (m : List Byte) : Announce :=
  { gen := beAt m 16 2, withdraw := bitSet (beAt m 18 1) 0, notBefore := beAt m 20 6, digest := (m.drop 32).take 32 }

/-- GEN_ANNOUNCE after check 0x08 (R85 code 0x0A, R101, R298). -/
def State.acceptAnnounce (s : State) (port : Port) (m : List Byte) : State :=
  let a := announceOf m
  let differs := (List.range 4).any fun k =>
    (s.slotState k = slotStaged || s.slotState k = slotReady || s.slotState k = slotInForce) && s.slotGen k = a.gen &&
      (s.slot k).digest ≠ a.digest
  if differs then s.refuseParty 10 typeAnnounce (msgSender m)
  else (((s.markSeen m).takeAnnounce a).emit (.toFirmware port m)).ringWrite port m

/-- Arm the activation latch, or disarm it with a version of all zero (R438, R439). `source` is PARTY_ACT_STAT.SOURCE. -/
def State.armActivation (s : State) (frame version source : Nat) : State :=
  let s1 := if version = 0 then s.setFld R.PARTY_ACT_STAT_ARMED 0
    else (s.setFrame R.PARTY_ACT_LO_N_LO R.PARTY_ACT_HI_N_HI frame).setFlds
      [(R.PARTY_ACT_VER_HI_MAJOR, version / 2 ^ 32), (R.PARTY_ACT_VER_LO_MINOR_PATCH, version),
       (R.PARTY_ACT_STAT_ARMED, 1), (R.PARTY_ACT_STAT_SOURCE, source)]
  s1.irq pUPD 1

/-- ACTIVATE after check 0x07 (R85 code 0x0B, R298, R439). -/
def State.acceptActivate (s : State) (port : Port) (m : List Byte) : State :=
  if !s.actMatches m then s.refuseParty 11 typeActivate (msgSender m)
  else (((s.markSeen m).armActivation (beAt m 24 6) (beAt m 16 6) 1).emit (.toFirmware port m)).ringWrite port m

/-- A party datagram arrives on a port. Before any slot supplies a party it is not a party message (R296); a refused
message has no other effect (R85); copies of a message held are dropped (R84). -/
def State.partyReceive (s : State) (port : Port) (m : List Byte) : State :=
  if s.partySlot.isNone || !s.portReceives port || s.partyFenced then s
  else if s.frontCode m ≠ 0 then s.refuseParty (s.frontCode m) (msgType m) (msgSender m)
  else if s.isSeen m then s
  else if s.bodyCode m ≠ 0 then s.refuseParty (s.bodyCode m) (msgType m) (msgSender m)
  else if msgType m = typeHave then (s.markSeen m).acceptHave m
  else if msgType m = typeCommit then s.acceptCommit m
  else if msgType m = typeAnnounce then s.acceptAnnounce port m
  else s.acceptActivate port m

/-- HAVE_RECEIVE. -/
def execHaveReceive (port : Port) (m : List Byte) (s : State) : Res := .next ((s.begin).partyReceive port m)

/-- COMMIT_RECEIVE. -/
def execCommitReceive (port : Port) (m : List Byte) (s : State) : Res := .next ((s.begin).partyReceive port m)

/-- GEN_ANNOUNCE_RECEIVE. -/
def execGenAnnounceReceive (port : Port) (m : List Byte) (s : State) : Res := .next ((s.begin).partyReceive port m)

/-- ACTIVATE_RECEIVE. -/
def execActivateReceive (port : Port) (m : List Byte) (s : State) : Res := .next ((s.begin).partyReceive port m)

/-- MEDIA_PACKET_RECEIVE: the packet, and the HAVE it may complete (R90, R116). -/
def execMediaPacketReceive (p : MediaPacket) (s : State) : Res :=
  let s := (s.begin).atTime p.time
  if s.inRun then
    let r := s.mediaPacket p
    .next (match r.2 with
      | some f => r.1.haveEarly f
      | none => r.1)
  else .next s

/-- XSDEC_SLICE_DECODE: the slice, and the HAVE it may complete. -/
def execXsdecSliceDecode (k f slice row rows last us : Nat) (d : SliceDecode) (s : State) : Res :=
  let s := s.begin
  .next (if s.inRun then (s.xsdecSlice k f slice row rows last us d.header d.ecc d.result).haveEarly f else s)

/-- GOV_FIGURES_FINAL (R195), and the HAVE that waited for it (R90). -/
def execGovFiguresFinal (f : Nat) (s : State) : Res :=
  let s := s.begin
  .next (if s.inRun then (s.finishFigures f).haveEarly f else s)

/-- SCREE_EVAL_DONE (R197). -/
def execScreeEvalDone (n : Nat) (s : State) : Res :=
  let s := s.begin
  .next (if s.inRun then (s.screeEvalDone n).haveEarly n else s)

/-- GOV_SURVEY_DONE (R198). -/
def execGovSurveyDone (s : State) : Res :=
  let s := s.begin
  .next (if s.inRun then s.surveyDone else s)

/-- GOV_SNAP_REQUEST: the request is armed (R206). -/
def execGovSnapRequest (m : Master) (s : State) : Res :=
  (s.begin).asWrite m pGOV rightLive fun t => .next t.armSnapshot

/-- HAVE_SEND_DEADLINE: H(n) (R90). Each frame the module reads its copy of the member table here; an uncorrectable error in
it fences PARTY, which then sends nothing (R326). -/
def execHaveSendDeadline (due : HaveDue) (s : State) : Res :=
  let s := s.begin
  match s.timing with
  | none => .next s
  | some t =>
    let u := s.atTime (t.h due.n)
    .next ((if due.table = .uncorrectable then u.fenceBlock pPARTY causeEcc else u).sendHave due.n)

/-- QUORUM_CLOSE_AT_C: C(n) (R91, R300). -/
def execQuorumCloseAtC (n : Nat) (s : State) : Res :=
  let s := s.begin
  match s.timing with
  | none => .next s
  | some t => .next (if s.gridRuns then (s.atTime (t.c n)).closeQuorum n else s)

/-! ## GEN_ANNOUNCE at the summit, and staging -/

/-- COMMIT_ANN_CTRL.SEND ends with a RESULT and PG_IRQ_RAW[3] (R101). -/
def State.annResult (s : State) (r : Nat) : State :=
  (s.setFlds [(R.COMMIT_ANN_CTRL_RESULT, r), (R.COMMIT_ANN_CTRL_SEND, 0), (R.COMMIT_ANN_CTRL_BUSY, 0)]).irq pCOMMIT 3

/-- Send and keep an announce (R88, R101). Where no message can be built (no party key, or PARTY fenced) nothing is sent,
and the announce is kept with RESULT 0 all the same: DESIGN CHOICE (assumption log, entry 46). -/
def State.sendAnnounce (s : State) (a : Announce) : State :=
  let body := beBytes 2 a.gen ++ [BitVec.ofNat 8 (b2n a.withdraw), 0] ++ beBytes 6 a.notBefore ++ beBytes 6 0 ++ a.digest
  match s.buildParty typeAnnounce s.nowFrame body with
  | some m => ((s.sendParty m).takeAnnounce a).annResult 0
  | none => (s.takeAnnounce a).annResult 0

/-- COMMIT_ANN_CTRL.SEND (R101, R300). -/
def State.announceSend (s : State) : State :=
  let gen := s.fld R.COMMIT_ANN_GEN_GEN
  let nb := s.wide R.COMMIT_ANN_NB_LO_NB_LO R.COMMIT_ANN_NB_HI_NB_HI
  let slot := (List.range 4).find? fun k =>
    s.slotGen k = gen && (s.slot k).sound && (s.slotState k = slotStaged || s.slotState k = slotReady)
  if s.role ≠ roleSummit then s.annResult 1
  else if s.flag R.COMMIT_ANN_GEN_WITHDRAW && (s.party.named = some gen || s.curGen = gen) then s.annResult 4
  else match slot with
    | none => s.annResult 2
    | some k =>
      if s.flag R.COMMIT_ANN_GEN_WITHDRAW then s.sendAnnounce ⟨gen, true, nb, (s.slot k).digest⟩
      else if s.readySlot.isSome && s.readySlot ≠ some k then s.annResult 3
      else s.sendAnnounce ⟨gen, false, nb, (s.slot k).digest⟩

/-- GEN_ANNOUNCE_SEND. -/
def execGenAnnounceSend (m : Master) (s : State) : Res :=
  (s.begin).asWrite m pCOMMIT rightConfig fun t => .next t.announceSend

/-- What staging takes of the descriptor at store address `a` into a slot (R97–R100, R155): the party section, its digest
and CRC, and the PARTY and INGEST sections. -/
def State.readSlot (s : State) (a order : Nat) : GenSlot :=
  let r := s.secRead a 0xFF 1
  let p := r.bytes?.getD (s.storeRead (a + memLE s.mem.store (a + 16) 4) (memLE s.mem.store (a + 20) 4))
  { addr := a, digest := Config.sha256 p, sound := r.bytes?.isSome, party := p
    segment := (s.secRead a pPARTY 1).bytes?.map fun b => bits (leNat b) 8 0
    ingest := (s.secRead a pINGEST 1).bytes?, order := order }

/-- GEN_STAGE_DONE: the slot becomes STAGED, or READY where the latest GEN_ANNOUNCE matches (R99, R100, R155). -/
def State.stageDone (s : State) : State := match s.commit.staging with
  | none => s
  | some (k, a) =>
    let s0 := s.readsSec pCOMMIT a 0xFF 1
    let s1 := ({ s0 with commit := { s0.commit with staging := none, staged := s.commit.staged + 1 } }.setSlot k
      (s.readSlot a (s.commit.staged + 1))).setFlds
      [(R.COMMIT_SLOT_STATE k, slotStaged), (R.COMMIT_SLOT_GEN k, memLE s.mem.store (a + 4) 2),
       (R.COMMIT_STAGE_CTRL_GO, 0)]
    ((s1.slotsChanged s).matchAnnounce).irq pCOMMIT 3

/-- GEN_STAGE_DONE: staging waits while the store is in self-refresh, and for INIT_DONE (R139, R469). -/
def execGenStageDone (s : State) : Res :=
  let s := s.begin
  .next (if s.storeCtl.selfRefresh || s.storeCtl.unusable || !s.flag R.STORE_STATUS_INIT_DONE then s
    else s.stageDone)

end Sys2Proof.Machine
end

