-- ==== Sys2Proof/Machine/Telem.lean ====
section
/-! DEFINITION. The telemetry collector (R262–R269). -/
namespace Sys2Proof.Machine

/-- The marker of R265. -/
def telemMarker : Word := 0xDEAD0000#32

/-- Words of a bank. -/
def bankWords (b : List TelemItem) : Nat := (b.map List.length).sum

/-- The header word of R264. -/
def telemHeader (ty len src : Nat) : Word := BitVec.ofNat 32 (ty * 2 ^ 24 + len * 2 ^ 16 + src)

/-- The registers follow the banks. -/
def State.showTelem (s : State) : State :=
  s.setFlds [(R.TELEM_STATUS_FILL_WORDS, bankWords s.telem.fill),
    (R.TELEM_STATUS_DRAIN_WORDS, bankWords s.telem.drain - s.telem.popped),
    (R.TELEM_STATUS_STALLED, b2n s.telem.stalled.isSome)]

/-- The next word of the drain bank is popped; the bank holds one. -/
def State.popWord (s : State) : State := match s.telem.drain with
  | [] => s
  | item :: rest =>
    let w := item.getD s.telem.popped 0
    let t := if s.telem.popped + 1 < item.length then { s.telem with popped := s.telem.popped + 1 }
      else { s.telem with drain := rest, popped := 0 }
    (({ s with telem := t }).showTelem).emit (.readData w)

/-- A stalled read completes with the marker (R265, R266, R269). -/
def State.releasePop (s : State) : State :=
  if s.telem.stalled.isSome then
    (({ s with telem := { s.telem with stalled := none } }).showTelem).emit (.readData telemMarker)
  else s

/-- The banks swap; a stalled read takes its word (R262, R265). -/
def State.swapBanks (s : State) : State :=
  let s1 := ((({ s with telem := { s.telem with drain := s.telem.fill, fill := [], popped := 0 } }).inc
    R.TELEM_CNT_SWAP_N).irq pTELEM 0).showTelem
  if s1.telem.stalled.isSome then (({ s1 with telem := { s1.telem with stalled := none } }).popWord).showTelem else s1

/-- A source of class `cls` (TYPE − 1) forms an item; `e` is what its write buffer shows (R262–R264, R268). -/
def State.telemItem (s : State) (cls src : Nat) (words : List Nat) (e : Ecc) : State :=
  if !s.bit R.TELEM_CFG_SRC_EN cls then s
  else
    let s0 := match e with
      | .uncorrectable => (s.fence pTELEM cls causeEcc 0).setBit R.TELEM_SRC_FENCED_SRC cls true
      | _ => s
    if s0.bit R.TELEM_SRC_FENCED_SRC cls then s0.inc R.TELEM_CNT_DROP_N
    else
      let item := telemHeader (cls + 1) words.length src :: words.map (BitVec.ofNat 32)
      let full := decide (4096 < bankWords s0.telem.fill + item.length)
      if full && s0.telem.drain ≠ [] then
        ((s0.inc R.TELEM_CNT_DROP_N).setFld R.TELEM_STATUS_OVF 1).irq pTELEM 1
      else
        let s1 := if full then s0.swapBanks else s0
        (({ s1 with telem := { s1.telem with fill := s1.telem.fill ++ [item] } }).inc R.TELEM_CNT_ITEMS_N).showTelem

/-- An item whose prefetch finds an uncorrectable word is discarded before its header is popped (R268). -/
def State.prefetch (s : State) (e : Ecc) : State := match e with
  | .uncorrectable =>
    if s.telem.popped = 0 && s.telem.drain ≠ [] then
      ((({ s with telem := { s.telem with drain := s.telem.drain.drop 1 } }).inc R.TELEM_CNT_UE_N).irq pTELEM 3).showTelem
    else s
  | _ => s

/-- TELEM_BANK_SWAP (R262). -/
def execTelemBankSwap (s : State) : Res :=
  let s := s.begin
  .next (if s.telem.drain = [] && s.telem.fill ≠ [] then s.swapBanks else s)

/-- TELEM_POP: the next word, the marker for a master that is not a core, or a stall (R265). A second master's pop
breaks R266. -/
def execTelemPop (m : Master) (e : Ecc) (s : State) : Res :=
  let s := (s.begin).prefetch e
  if !m.holds rightRead then .next (s.emit (.refused codeRights))
  else if s.telem.stalled.isSome then .fault (.unpredictable 266)
  else if s.telem.drain ≠ [] then .next s.popWord
  else match m with
    | .hart h _ => .next ((({ s with telem := { s.telem with stalled := some h } }).showTelem).emit (.stalled h))
    | .lcp _ => .next (s.emit (.readData telemMarker))
    | .hspi _ => .next (s.emit (.readData telemMarker))
    | .block => .next (s.emit (.readData telemMarker))

/-- TELEM_RELEASE (R265). -/
def execTelemRelease (m : Master) (s : State) : Res := (s.begin).asWrite m pTELEM rightLive fun t => .next t.releasePop

/-- TELEM_FLUSH_REQUEST (R267). -/
def execTelemFlushRequest (m : Master) (s : State) : Res :=
  (s.begin).asWrite m pTELEM rightLive fun t =>
    .next (t.setFlds [(R.TELEM_CTRL_FLUSH, 1), (R.TELEM_STATUS_FLUSHING, 1)])

/-- TELEM_FLUSH_DONE: with no item partly popped, every item of both banks is discarded (R267). -/
def execTelemFlushDone (s : State) : Res :=
  let s := s.begin
  if s.flag R.TELEM_CTRL_FLUSH && s.telem.popped = 0 then
    let n := s.telem.fill.length + s.telem.drain.length
    .next (((({ s with telem := { s.telem with fill := [], drain := [] } }).add R.TELEM_FLUSHDROP_N n).setFlds
      [(R.TELEM_CTRL_FLUSH, 0), (R.TELEM_STATUS_FLUSHING, 0)]).irq pTELEM 2).showTelem
  else .next s

/-- TELEM at a WARM reset: a stalled read completes with the marker, and the rest of a partly popped item is discarded
(R266). -/
def State.telemWarm (s : State) : State :=
  let s1 := s.releasePop
  if s1.telem.popped = 0 then s1
  else (({ s1 with telem := { s1.telem with drain := s1.telem.drain.drop 1, popped := 0 } }).inc R.TELEM_FLUSHDROP_N).showTelem

end Sys2Proof.Machine
end

