-- ==== Sys2Proof/Machine/Rail.lean ====
section
/-! DEFINITION. Rail controllers (R243–R261): start and stop, the ramp, the headroom loop, PMBus, fences and belay
handover. -/
namespace Sys2Proof.Machine

def causePmbNoack : Nat := 0x0100
def causePmbFault : Nat := 0x0101
def causeTrimFault : Nat := 0x0102
def causeOvervolt : Nat := 0x0103
def causePmbMode : Nat := 0x0104

/-- `toward(a, b, n)` of R243. -/
def toward (a b n : Nat) : Nat := if a < b then min b (a + n) else max b (a - n)

/-- Rail r. -/
def State.rail (s : State) (r : Nat) : RailS := s.rails.getD r {}

/-- Replace rail r. -/
def State.setRail (s : State) (r : Nat) (x : RailS) : State := { s with rails := s.rails.set r x }

/-- RAILr_CTRL.MODE. -/
def State.railMode (s : State) (r : Nat) : Nat := s.fld (R.RAIL_CTRL_MODE r)

/-- The rail is set over PMBus. -/
def State.railBus (s : State) (r : Nat) : Bool := s.flag (R.RAIL_CTRL_IF r)

/-- The module is lead: it drives trims and enables and transacts on PMBus (R252). -/
def State.isLead (s : State) : Bool := s.flag R.BELAY_STATUS_LEAD

/-- The module drives rail r and transacts for it: as lead (R252), or as a single module whose store has become unusable,
which drives its rails on to their safe values (R47). -/
def State.ownsRail (s : State) (r : Nat) : Bool :=
  s.isLead || (s.storeCtl.unusable && !s.flag R.BELAY_PARTNER_VALID && s.pins.railEn.contains r)

/-- Rails are held off: in BIVOUAC, DORMANT and OFF, and while the RAIL page is in its reset (R248). -/
def State.railsHeld (s : State) : Bool :=
  pwrBivouac ≤ s.power || s.rst.block.any fun b => b.1 = pRAIL && b.2.1 = 1

/-- The rail is fenced. -/
def State.railFenced (s : State) (r : Nat) : Bool := s.hasFence pRAIL r

/-- Cause of the rail's fence, 0 when not fenced. -/
def State.railCause (s : State) (r : Nat) : Nat :=
  ((s.fences.find? fun f => f.page = pRAIL && f.unit = r).map (·.cause)).getD 0

/-- RAILr_STATE.STATE. -/
def State.railState (s : State) (r : Nat) : Nat :=
  let x := s.rail r
  if s.railFenced r then if x.enableLow then 6 else if x.safe then 5 else 4
  else if x.stage = 0 then 0
  else if !s.ownsRail r then 7
  else if x.stage < 4 then 1
  else if s.bit R.RAIL_STATUS_NODATA r then 3
  else 2

/-- RAILr_STATE and FENCED follow the controller. -/
def State.showRail (s : State) (r : Nat) : State :=
  (s.setFlds [(R.RAIL_STATE_CAUSE r, s.railCause r), (R.RAIL_STATE_STATE r, s.railState r)]).setBit
    R.RAIL_STATUS_FENCED r (s.railFenced r)

/-- Every rail's registers follow. -/
def State.showRails (s : State) : State := (List.range 12).foldl State.showRail s

/-- RAIL_ENr is driven high or low. -/
def State.driveEn (s : State) (r : Nat) (high : Bool) : State :=
  { s with pins := { s.pins with
    railEn := if high then (if s.pins.railEn.contains r then s.pins.railEn else s.pins.railEn ++ [r])
              else s.pins.railEn.filter fun x => x ≠ r } }

/-- RAIL_TRIMr is driven, or released to high impedance. -/
def State.driveTrim (s : State) (r : Nat) (on : Bool) : State :=
  { s with pins := { s.pins with
    railTrim := if on then (if s.pins.railTrim.contains r then s.pins.railTrim else s.pins.railTrim ++ [r])
                else s.pins.railTrim.filter fun x => x ≠ r } }

/-- Every trim and enable is released (R248, R252). -/
def State.releaseRails (s : State) : State :=
  { s with pins := { s.pins with railEn := [], railTrim := [] }, railOverlap := false }

/-- A rail fences itself (R259, R260): its loop stops and its output is held. -/
def State.fenceRail (s : State) (r cause : Nat) : State :=
  if s.railFenced r then s.fence pRAIL r cause 0
  else
    let s1 := (s.fence pRAIL r cause 0).irq pRAIL 1
    (s1.setRail r { s1.rail r with holding := true, safe := false, enableLow := false, resume := false
                                   statusOk := false }).showRail r

/-- The rail's fence keeps its enable low: it cannot be ramped (R260). -/
def State.railStuck (s : State) (r : Nat) : Bool :=
  s.railFenced r && (s.railCause r = causePmbNoack || s.railCause r = causePmbMode)

/-- Step 1 of a start (R247). A rail that another fence holds starts too, to its safe value (R254, R260). -/
def State.startRail (s : State) (r : Nat) : State :=
  if s.railMode r = 0 || s.railsHeld || s.railStuck r then s
  else
    let x := s.rail r
    let low := s.fld (R.RAIL_WIN_LOW_CODE r)
    let s1 := (s.setRail r { x with stage := 1, written := none, hmin := 0xFFFF, reports := 0, stale := 0, sinceFast := 10,
                                    raised := false, holding := false, safe := s.railFenced r, enableLow := false
                                    resume := false, stopping := none }).setFlds
      [(R.RAIL_OUT_TARGET r, low), (R.RAIL_OUT_OUTPUT r, low)]
    let s2 := (s1.setBit R.RAIL_STATUS_NODATA r false).driveEn r false
    (if s2.isLead && !s2.railBus r then s2.driveTrim r true else s2).showRail r

/-- A refused PMBus transaction: three in a row on one rail fence it (R256). -/
def State.pmbRefused (s : State) (r : Nat) : State :=
  let x := s.rail r
  let s1 := (s.inc R.RAIL_CNT_PMB_ERR_N).setRail r { x with refused := x.refused + 1 }
  if x.refused + 1 < 3 then s1
  else (s1.setRail r { s1.rail r with refused := 0 }).fenceRail r causePmbNoack

/-- A valid PMBus transaction ends a run of refusals. -/
def State.pmbOk (s : State) (r : Nat) : State := s.setRail r { s.rail r with refused := 0 }

/-- The module transacts on PMBus for rail r (R252, R255). -/
def State.pmbRuns (s : State) (r : Nat) : Bool :=
  s.ownsRail r && s.railBus r && s.railMode r ≠ 0 && !s.flag R.RAIL_CFG_FW_BUS && s.gridRuns && !s.inBivouac

/-- Step 2 of a start with the outcome of the VOUT_MODE read and of the write of LOW_CODE (R247, R258). A lead's PMBus
rail is not enabled before its VOUT_MODE has been read and checked: where FW_BUS suspends the read, or it is refused, the
start waits (assumption log, entry 25). -/
def State.startEnable (s : State) (r : Nat) (voutMode : Option Nat) (ok : Bool) : State :=
  if (s.rail r).stage ≠ 1 || s.railsHeld || s.railStuck r then s
  else
    let enable := fun (t : State) =>
      let t1 := if t.isLead then t.driveEn r true else t
      (t1.setRail r { t1.rail r with stage := 2 }).showRail r
    if !s.ownsRail r || !s.railBus r then enable s
    else if !s.pmbRuns r then s
    else match voutMode with
      | none => s.pmbRefused r
      | some v =>
        let t := s.pmbOk r
        if bits v 7 5 ≠ 0 then t.fenceRail r causePmbMode
        else if ok then
          let low := t.fld (R.RAIL_OUT_OUTPUT r)
          enable ((t.setRail r { t.rail r with written := some low }).emit (.pmbusVout r low))
        else enable (t.pmbRefused r)

/-- RAIL_START_ENABLE (R247). -/
def execRailStartEnable (r : Nat) (voutMode : Option Nat) (ok : Bool) (s : State) : Res :=
  .next ((s.begin).startEnable r voutMode ok)

/-- The first loop period begins (R247 step 4). -/
def State.railRuns (s : State) (r : Nat) : State :=
  (s.setRail r { s.rail r with stage := 4, hmin := 0xFFFF, reports := 0, stale := 0, raised := false }).showRail r

/-- RAIL_START_TARGET (R247); a fenced rail's target is its safe value (R260). -/
def execRailStartTarget (r : Nat) (s : State) : Res :=
  let s := s.begin
  if (s.rail r).stage ≠ 2 || s.railStuck r then .next s
  else
    let code := if s.railFenced r then s.fld (R.RAIL_CODES_SAFE_CODE r) else s.fld (R.RAIL_START_START_CODE r)
    let s1 := (s.setRail r { s.rail r with stage := 3 }).setFld (R.RAIL_OUT_TARGET r) code
    .next (if s1.fld (R.RAIL_OUT_OUTPUT r) = code && !s1.railFenced r then s1.railRuns r else s1.showRail r)

/-- One rail at a whole millisecond (R246). An unusable store sends a started rail to SAFE_CODE (R47). A start ends when
the output reaches the target it set, START_CODE, which a switch may have moved (R247). -/
def State.rampRail (s : State) (r : Nat) : State :=
  let x := s.rail r
  let s0 := s.setRail r { x with sinceFast := x.sinceFast + 1 }
  if x.stage = 0 || x.holding || x.enableLow || x.stopping.isSome then s0
  else
    let s1 := if s0.storeCtl.unusable then s0.setFld (R.RAIL_OUT_TARGET r) (s0.fld (R.RAIL_CODES_SAFE_CODE r)) else s0
    let out := toward (s1.fld (R.RAIL_OUT_OUTPUT r)) (s1.fld (R.RAIL_OUT_TARGET r)) (s1.fld (R.RAIL_RAMP_RAMP r))
    let s2 := s1.setFld (R.RAIL_OUT_OUTPUT r) out
    if x.stage = 3 && !s2.railFenced r && !s2.storeCtl.unusable && out = s2.fld (R.RAIL_OUT_TARGET r) then s2.railRuns r else s2

/-- RAIL_RAMP_TICK (R246). -/
def execRailRampTick (s : State) : Res :=
  let s := s.begin
  .next (if s.gridRuns && !s.inBivouac then (List.range 12).foldl State.rampRail s else s)

/-- PMBUS_VOUT_WRITE: a write moves the rail by at most 10 × RAMP codes from the value last written (R246, R256). A module
that has written none, since it took the rail over or its first write was refused, writes the output as it stands. -/
def execPmbusVoutWrite (r : Nat) (ok : Bool) (s : State) : Res :=
  let s := s.begin
  let x := s.rail r
  let out := s.fld (R.RAIL_OUT_OUTPUT r)
  let code := toward (x.written.getD out) out (10 * s.fld (R.RAIL_RAMP_RAMP r))
  if !s.pmbRuns r || x.stage < 2 || x.stopping.isSome || s.railStuck r || x.written = some out then .next s
  else if ok then
    .next (((s.pmbOk r).setRail r { (s.pmbOk r).rail r with written := some code }).emit (.pmbusVout r code))
  else .next (s.pmbRefused r)

/-! ## The headroom loop (R249–R251) -/

/-- The rail of colour c (0 red, 1 green, 2 blue) of strand s (R249); 15 for none. -/
def State.railOf (s : State) (strand c : Nat) : Nat :=
  let half := if strand % 2 = 0 then s.fld (R.RAIL_SMAP_EVEN (strand / 2)) else s.fld (R.RAIL_SMAP_ODD (strand / 2))
  half / 2 ^ (4 * c) % 16

/-- A counted figure of rail r (R251). -/
def State.countFigure (s : State) (r h : Nat) : State :=
  let x := s.rail r
  if s.railMode r ≠ 2 || x.stage ≠ 4 || s.railFenced r || s.storeCtl.unusable then s
  else
    let s1 := s.setRail r { x with hmin := min x.hmin h, reports := satU 16 (x.reports + 1) }
    if h < s.fld (R.RAIL_HEAD_FLOOR_MV r) && 10 ≤ x.sinceFast then
      ((((s1.setRail r { s1.rail r with sinceFast := 0, raised := true }).setFld (R.RAIL_OUT_TARGET r)
        (toward (s.fld (R.RAIL_OUT_TARGET r)) (s.fld (R.RAIL_WIN_HIGH_CODE r)) (s.fld (R.RAIL_STEP_FAST_STEP r)))).inc
        R.RAIL_CNT_FLOOR_N).irq pRAIL 2)
    else s1

/-- The figures of an accepted POLL report of a strand (R250): `heads` are HEAD_R, HEAD_G and HEAD_B. -/
def State.countReport (s : State) (strand status : Nat) (heads : List Nat) : State :=
  if !s.bit (R.STR_CFG_EN (strand / 12)) (strand % 12) then s
  else
    let named := [0, 1, 2].filter fun c => s.railOf strand c < 12 && heads.getD c 0xFFFF ≠ 0xFFFF
    let out := named.filter fun c => bitSet status 2 && !s.flag (R.RAIL_CTRL_USE_OPEN (s.railOf strand c))
    let s1 := if out = [] then s else s.inc R.RAIL_CNT_EXCL_N
    (named.filter fun c => !out.contains c).foldl (fun (t : State) c => t.countFigure (t.railOf strand c) (heads.getD c 0)) s1

/-- The target at the end of a period (R251): the new target, and whether the step was clamped at STEP_MAX. -/
def State.loopTarget (s : State) (r hmin : Nat) : Nat × Bool :=
  let err : Int := (hmin : Int) - s.fld (R.RAIL_HEAD_TARGET_MV r)
  let t := s.fld (R.RAIL_OUT_TARGET r)
  if s.fld (R.RAIL_LOOP_DEADBAND_MV r) < err.natAbs then
    let want := err.natAbs * 1000 / s.fld (R.RAIL_GAIN_UV_PER_CODE r)
    let n := min want (s.fld (R.RAIL_STEP_STEP_MAX r))
    (toward t (if 0 < err then s.fld (R.RAIL_WIN_LOW_CODE r) else s.fld (R.RAIL_WIN_HIGH_CODE r)) n,
     decide (s.fld (R.RAIL_STEP_STEP_MAX r) < want))
  else (t, false)

/-- A period ends (R251, R264). -/
def State.loopPeriod (s : State) (r : Nat) (e : Ecc) : State :=
  let x := s.rail r
  if s.railMode r ≠ 2 || x.stage ≠ 4 || s.railFenced r || s.storeCtl.unusable then s
  else
    let was := s.bit R.RAIL_STATUS_NODATA r
    let limit := s.fld (R.RAIL_CTRL_STALE r)
    let stale := if x.reports ≠ 0 then 0 else if limit = 0 then x.stale else min 255 (x.stale + 1)
    let lost := x.reports = 0 && limit ≠ 0 && limit ≤ stale
    let tgt := if x.reports = 0 then
        (if lost then s.fld (R.RAIL_CODES_NODATA_CODE r) else s.fld (R.RAIL_OUT_TARGET r), false)
      else s.loopTarget r x.hmin
    let nodata := lost || (was && x.reports = 0)
    let s1 := ((s.setFlds [(R.RAIL_OUT_TARGET r, tgt.1), (R.RAIL_HMIN_REPORTS r, x.reports), (R.RAIL_HMIN_HMIN r, x.hmin)]).setBit
      R.RAIL_STATUS_NODATA r nodata)
    let s2 := if nodata && !was then s1.irq pRAIL 0 else s1
    let n := s2.nowFrame
    let s3 := s2.telemItem 2 r
      [n % 2 ^ 32, x.hmin * 65536 + n / 2 ^ 32 % 65536, tgt.1 * 65536 + s.fld (R.RAIL_OUT_OUTPUT r),
       x.reports * 65536 + b2n x.raised * 4 + b2n nodata * 2 + b2n tgt.2] e
    (s3.setRail r { s3.rail r with hmin := 0xFFFF, reports := 0, stale := stale, raised := false }).showRail r

/-- RAIL_LOOP_PERIOD. -/
def execRailLoopPeriod (r : Nat) (e : Ecc) (s : State) : Res :=
  let s := s.begin
  .next (if s.gridRuns && !s.inBivouac then s.loopPeriod r e else s)

/-! ## PMBus status (R255–R257, R264) -/

/-- STATUS_WORD shows VOUT_OV_FAULT, IOUT_OC_FAULT or TEMPERATURE (R257). -/
def statusFault (w : Nat) : Bool := bitSet w 5 || bitSet w 4 || bitSet w 2

/-- A STATUS_WORD read of rail r (R256, R257). On a rail that is fenced already a fault that begins is a later cause
(R12). -/
def State.readStatus (s : State) (r : Nat) : Option Nat → State
  | none => s.pmbRefused r
  | some w =>
    let begins := statusFault w && (!s.railFenced r || !statusFault (s.fld (R.RAIL_VOUT_STATUS_WORD r)))
    let t := s.pmbOk r
    let s1 := (t.setRail r { t.rail r with statusOk := true }).setFld (R.RAIL_VOUT_STATUS_WORD r) w
    if s1.pins.railEn.contains r && begins then s1.fenceRail r causePmbFault else s1

/-- The TYPE 0x04 item of rail r (R264). -/
def State.statusItem (s : State) (r : Nat) (e : Ecc) : State :=
  let n := s.nowFrame
  s.telemItem 3 r
    [n % 2 ^ 32, s.fld (R.RAIL_VOUT_STATUS_WORD r) * 65536 + n / 2 ^ 32 % 65536,
     s.fld (R.RAIL_VOUT_READ_VOUT r) * 65536 + (s.rail r).written.getD 0] e

/-- A valid STATUS_WORD that differs from the one before it, or `due`, makes an item (R264). -/
def State.noteStatus (s : State) (r : Nat) (status : Option Nat) (due : Bool) (e : Ecc) : State :=
  let x := s.rail r
  let now := due || (status.isSome && status ≠ x.status)
  let t := s.setRail r { x with
    status := match status with
      | some w => some w
      | none => x.status
    polls := if now then 0 else x.polls }
  if now then t.statusItem r e else t

/-- A STATUS_WORD and READ_VOUT poll, and its item, at the latest once a second (R255, R264). -/
def State.statusPoll (s : State) (r : Nat) (status vout : Option Nat) (e : Ecc) : State :=
  let s1 := s.readStatus r status
  let s2 := match vout with
    | none => s1.pmbRefused r
    | some v => (s1.pmbOk r).setFld (R.RAIL_VOUT_READ_VOUT r) v
  let polls := (s2.rail r).polls + 1
  (s2.setRail r { s2.rail r with polls := polls }).noteStatus r status (10 ≤ polls) e

/-- PMBUS_STATUS_POLL. -/
def execPmbusStatusPoll (r : Nat) (status vout : Option Nat) (e : Ecc) (s : State) : Res :=
  let s := s.begin
  .next (if s.pmbRuns r then s.statusPoll r status vout e else s)

/-- PMB_ALERT: a STATUS_WORD that has changed makes an item (R255, R264). -/
def execPmbAlert (reads : AlertReads) (s : State) : Res :=
  let s := s.begin
  let s1 := ({ s with pins := { s.pins with pmbAlert := true } }).irq pRAIL 3
  .next (reads.words.foldl (fun (t : State) (x : Nat × Option Nat) =>
    if t.pmbRuns x.1 then (t.readStatus x.1 x.2).noteStatus x.1 x.2 false reads.buf else t) s1)

/-- PMBUS_FW_BUS (R255, R359). -/
def execPmbusFwBus (m : Master) (v : Bool) (s : State) : Res :=
  (s.begin).asWrite m pRAIL rightConfig fun t => .next (t.setFlag R.RAIL_CFG_FW_BUS v)

/-! ## Fences (R259, R260) -/

/-- TRIM_FAULT: the readback of a driven analog trim differs (R259). -/
def execTrimFault (r : Nat) (s : State) : Res :=
  let s := s.begin
  .next (if s.pins.railTrim.contains r && !s.railBus r then s.fenceRail r causeTrimFault else s)

/-- RAIL_HOLD_EXPIRY (R260). -/
def execRailHoldExpiry (r : Nat) (s : State) : Res :=
  let s := s.begin
  let x := s.rail r
  if !s.railFenced r || !x.holding then .next s
  else if s.railStuck r then
    .next (((s.setRail r { x with holding := false, enableLow := true }).driveEn r false).showRail r)
  else
    .next (((s.setRail r { x with holding := false, safe := true }).setFld (R.RAIL_OUT_TARGET r)
      (s.fld (R.RAIL_CODES_SAFE_CODE r))).showRail r)

/-- The fences of rails that a clear of PG_FENCE has released: they resume at the next frame boundary (R260). -/
def State.railsReleased (s : State) : State :=
  ((List.range 12).foldl (fun (t : State) r =>
    let x := t.rail r
    if !t.railFenced r && (x.holding || x.safe || x.enableLow) then t.setRail r { x with resume := true } else t) s).showRails

/-- Rails whose fence has been cleared resume at a frame boundary (R13, R260). -/
def State.resumeRails (s : State) : State :=
  (List.range 12).foldl (fun (t : State) r =>
    let x := t.rail r
    if !x.resume || t.railFenced r then t
    else if t.pins.railEn.contains r || (!t.isLead && 2 ≤ x.stage && !x.enableLow) then
      let tgt := if t.railMode r = 1 then t.fld (R.RAIL_START_START_CODE r) else t.fld (R.RAIL_OUT_OUTPUT r)
      ((t.setRail r { x with resume := false, holding := false, safe := false, stage := 4 }).setFld
        (R.RAIL_OUT_TARGET r) tgt).railRuns r
    else t.startRail r) s

/-- A return to RUN from a state in which the rails are off: they start at the next frame boundary (R247). -/
def State.railsReturn (s : State) : State :=
  { s with rails := s.rails.map fun (x : RailS) => { x with resume := true } }

/-! ## Generation switches, stops and handovers (R247, R254) -/

/-- A value moved to the nearer end of a window. -/
def intoWindow (a b v : Nat) : Nat := max (min a b) (min (max a b) v)

/-- Rail r at a generation switch; `before` is the state in which the old generation's settings stand, and `had` tells
whether one was in force (R247). While the rails are held off nothing starts, and the start of their return is one under a
new generation (R248, R259). -/
def State.switchRail (s before : State) (had : Bool) (r : Nat) : State :=
  let m0 := if had then before.railMode r else 0
  let m1 := s.railMode r
  let stop := fun (t : State) (again : Bool) =>
    ((t.driveEn r false).setRail r { t.rail r with stopping := some again }).showRail r
  let anew := fun (t : State) => t.releaseFences pRAIL fun f => f.unit = r && f.cause = causePmbMode
  if s.railsHeld then (if m1 = 0 then s else anew s)
  else if m1 = 0 then if m0 = 0 then s else stop s false
  else if m0 = 0 then (anew s).startRail r
  else if before.railBus r ≠ s.railBus r ||
      before.fld (R.RAIL_CTRL_PMB_ADDR r) ≠ s.fld (R.RAIL_CTRL_PMB_ADDR r) then stop s true
  else
    let x := s.rail r
    let t0 := intoWindow (s.fld (R.RAIL_WIN_LOW_CODE r)) (s.fld (R.RAIL_WIN_HIGH_CODE r)) (s.fld (R.RAIL_OUT_TARGET r))
    let tgt := if m1 = 1 && 3 ≤ x.stage && !s.railFenced r then s.fld (R.RAIL_START_START_CODE r) else t0
    s.setFld (R.RAIL_OUT_TARGET r) tgt

/-- RAIL_STOP_HOLD_END (R247). -/
def execRailStopHoldEnd (r : Nat) (restart : Bool) (s : State) : Res :=
  let s := s.begin
  let x := s.rail r
  match x.stopping with
  | none => .next s
  | some again =>
    if restart then
      .next (if again then (s.releaseFences pRAIL fun f => f.unit = r && f.cause = causePmbMode).startRail r else s)
    else
      let s1 := s.driveTrim r false
      .next ((s1.setRail r { x with stage := 0, stopping := if again then some true else none }).showRail r)

/-- The module becomes lead by a planned handover: rails with state adopted in the last 10 ms are driven with it, the
others start (R254). -/
def State.takeRails (s : State) : State :=
  (List.range 12).foldl (fun (t : State) r =>
    let x := t.rail r
    let fresh : Bool := match x.adopted with
      | some a => t.ptp.ns ≤ a + 10000000
      | none => false
    if t.railMode r = 0 then t
    else if fresh && 2 ≤ x.stage then
      let t1 := if t.railBus r then t else t.driveTrim r true
      (t1.driveEn r (!x.enableLow)).showRail r
    else t.startRail r) s

/-- The module becomes lead by a claim: every rail whose MODE is not 0 starts (R254). -/
def State.claimRails (s : State) : State := (List.range 12).foldl State.startRail s

/-- The old lead of a planned handover releases its trims and keeps its enables until the drop (R254). -/
def State.giveRails (s : State) : State :=
  ({ s with pins := { s.pins with railTrim := [] }, railOverlap := true }).showRails

/-- HANDOVER_ENABLE_DROP (R254). -/
def execHandoverEnableDrop (s : State) : Res :=
  let s := s.begin
  .next (if s.railOverlap then
    if s.isLead then { s with railOverlap := false } else s.releaseRails
  else s)

end Sys2Proof.Machine
end

