-- ==== Sys2Proof/Machine/Meter.lean ====
section
/-! DEFINITION. Energy metering (R270–R292): the signal chains, windows and quantities, accumulators and disputes,
saves, restart, the governor's snapshot and signed readings. -/
namespace Sys2Proof.Machine

/-! ## Arithmetic -/

/-- One step of the bitwise square root: bit i of the root. -/
def isqrtGo (n : Nat) : Nat → Nat → Nat
  | 0, acc => acc
  | i + 1, acc => isqrtGo n i (if (acc + 2 ^ i) * (acc + 2 ^ i) ≤ n then acc + 2 ^ i else acc)

/-- Floor square root of a number below 2^256. -/
def isqrt (n : Nat) : Nat := isqrtGo n 128 0

/-- Division rounded up. -/
def ceilDiv (a b : Nat) : Nat := (a + b - 1) / b

/-- The two's-complement value of a 16-bit field. -/
def State.s16 (s : State) (f : Fld) : Int := toSigned 16 (s.fld f)

/-! ## Configuration -/

/-- Index of current channel c among the AC channels of status fields. -/
def acCur (c : Nat) : Nat := 3 + c

/-- AC channel ch is enabled. -/
def State.acEnabled (s : State) (ch : Nat) : Bool :=
  if ch < 3 then s.bit R.METER_AC_CFG_VEN ch else s.bit R.METER_AC_CFG_IEN (ch - 3)

/-- DC group k is enabled. -/
def State.dcEnabled (s : State) (k : Nat) : Bool := s.bit R.METER_DC_CFG_EN k

/-- A channel is fenced, until the frame boundary after its fence is cleared (R13, R291). -/
def State.acFenced (s : State) (ch : Nat) : Bool := s.bit R.METER_AC_STATUS_FENCED ch || s.isFenced pMETERAC noUnit
def State.dcFenced (s : State) (k : Nat) : Bool := s.bit R.METER_DC_STATUS_FENCED k || s.isFenced pMETERDC noUnit

/-- A channel has been enabled, unfenced and settled for the window so far (R276). -/
def State.acOk (s : State) (ch : Nat) : Bool :=
  s.acEnabled ch && !s.acFenced ch && s.meter.acSettle.getD ch 0 = 0 && !s.meter.acBad.contains ch
def State.dcOk (s : State) (k : Nat) : Bool :=
  s.dcEnabled k && !s.dcFenced k && s.meter.dcSettle.getD k 0 = 0 && !s.meter.dcBad.contains k

/-- Phase p and DC group k accumulate (R276). -/
def State.phaseEnabled (s : State) (p : Nat) : Bool := s.acEnabled p && s.acEnabled (acCur p)
def State.phaseValid (s : State) (p : Nat) : Bool := s.acOk p && s.acOk (acCur p)

/-- Entry j of the eight values held in pairs (R273). -/
def State.seg8 (s : State) (even odd : Nat → Fld) (j : Nat) : Nat :=
  if j % 2 = 0 then s.fld (even (j / 2)) else s.fld (odd (j / 2))

/-- Interpolation over the 8 correction segments (R273). -/
def segValue (bp : Nat → Nat) (v : Nat → Int) (x : Nat) : Int :=
  if x ≤ bp 0 then v 0
  else if bp 7 ≤ x then v 7
  else match (List.range 7).find? fun j => bp j ≤ x && x < bp (j + 1) with
    | some j => v j + tdiv ((v (j + 1) - v j) * ((x : Int) - bp j)) ((bp (j + 1) : Int) - bp j)
    | none => v 7

/-- ph and G of AC current channel c (R273); the neutral has no phase. -/
def State.acPh (s : State) (c : Nat) : Int :=
  if c = 3 then 0
  else segValue (s.seg8 (R.METER_AC_BP_BP_EVEN c) (R.METER_AC_BP_BP_ODD c))
    (fun j => toSigned 16 (s.seg8 (R.METER_AC_PH_PH_EVEN c) (R.METER_AC_PH_PH_ODD c) j)) (s.meter.acX.getD c 0)
def State.acG (s : State) (c : Nat) : Int :=
  0x400000 + 16 * segValue (s.seg8 (R.METER_AC_BP_BP_EVEN c) (R.METER_AC_BP_BP_ODD c))
    (fun j => toSigned 16 (s.seg8 (R.METER_AC_GC_GC_EVEN c) (R.METER_AC_GC_GC_ODD c) j)) (s.meter.acX.getD c 0)
/-- G of DC channel k. -/
def State.dcG (s : State) (k : Nat) : Int :=
  0x400000 + 16 * segValue (s.seg8 (R.METER_DC_BP_BP_EVEN k) (R.METER_DC_BP_BP_ODD k))
    (fun j => toSigned 16 (s.seg8 (R.METER_DC_GC_GC_EVEN k) (R.METER_DC_GC_GC_ODD k) j)) (s.meter.dcX.getD k 0)

/-- Gmax of R280: the largest G of the segments. -/
def gMax (gc : Nat → Nat) : Nat :=
  ((List.range 8).foldl (fun (m : Int) j => max m (0x400000 + 16 * toSigned 16 (gc j))) 0).toNat

/-! ## Accumulators (R278–R280) -/

def denAc : Nat := 2 ^ 46 * 57600000
def denDc : Nat := 2 ^ 17 * 144000000
/-- The denominator of accumulator a. -/
def denOf (a : Nat) : Nat := if a < 11 then denAc else denDc

/-- The registers of accumulator a: value, view, wrap counter and dispute (R279, R280). -/
def State.showAcc (s : State) (a : Nat) : State :=
  let v := s.meter.acc.getD a 0
  s.setFlds [(R.METER_ACC_A_LO_E_LO a, v), (R.METER_ACC_A_HI_E_HI a, v / 2 ^ 32), (R.METER_ACC_A_VIEW_MWH a, v / 1000),
    (R.METER_ACC_A_WRAP_WRAP a, v / 1000 / 2 ^ 32), (R.METER_ACC_A_DISP_MWH a, satU 32 (ceilDiv (s.meter.disp.getD a 0) 1000))]

/-- `add(x, w)` of R278. -/
def State.addAcc (s : State) (a w : Nat) : State :=
  let num := s.meter.rem.getD a 0 + w
  ({ s with meter := { s.meter with
    acc := s.meter.acc.set a ((s.meter.acc.getD a 0 + num / denOf a) % 2 ^ 64)
    rem := s.meter.rem.set a (num % denOf a) } }).showAcc a

/-- A signed numerator goes to import or export. -/
def State.addSigned (s : State) (imp exp : Nat) (w : Int) : State :=
  if 0 ≤ w then s.addAcc imp w.toNat else s.addAcc exp (-w).toNat

/-- Add to a dispute. -/
def State.addDisp (s : State) (a w : Nat) : State :=
  ({ s with meter := { s.meter with disp := s.meter.disp.set a (s.meter.disp.getD a 0 + w) } }).showAcc a

/-- Add to the disputes of a list of accumulators. -/
def State.addDisps (s : State) (w : Nat) (as : List Nat) : State := as.foldl (fun (t : State) a => t.addDisp a w) s

/-- The accumulators that a phase's and a DC group's bounds go to. -/
def phaseAccs (p : Nat) : List Nat := [p, 3 + p, 6 + p, 9, 10]
def dcAccs (k : Nat) : List Nat := [11 + k, 23 + k]

/-- Full-scale power of R280, µW. -/
def State.phaseFs (s : State) (p : Nat) : Nat :=
  ceilDiv (s.fld (R.METER_AC_VFS_VFS_MV p) * s.fld (R.METER_AC_VGAIN_VGAIN p) * s.fld (R.METER_AC_IFS_IFS_MA p) *
    gMax (s.seg8 (R.METER_AC_GC_GC_EVEN p) (R.METER_AC_GC_GC_ODD p))) (2 ^ 44)
def State.dcFs (s : State) (k : Nat) : Nat :=
  ceilDiv (s.fld (R.METER_DC_IFS_IFS_MA k) * gMax (s.seg8 (R.METER_DC_GC_GC_EVEN k) (R.METER_DC_GC_GC_ODD k)) * 65535 *
    s.fld (R.METER_DC_VGAIN_VGAIN k)) (10 * 2 ^ 44)

/-! ## Saves (R281–R285) -/

/-- Write bytes of MRAM; a 64-bit word written whole loses its poison. -/
def State.mramWrite (s : State) (a : Nat) (bs : List Byte) : State :=
  { s with mem := { s.mem with
    mram := memWrite s.mem.mram a bs
    mramBad := s.mem.mramBad.filter fun w => !(a ≤ w * 8 && w * 8 + 8 ≤ a + bs.length) } }

/-- The bytes of `words` registers of a page from an offset, little-endian. -/
def State.pageBytes (s : State) (page off words : Nat) : List Byte :=
  (List.range words).flatMap fun i => leBytes 4 (s.reg page (off + 4 * i)).toNat

/-- The sections in force (R290): METER_AC, METER_DC and METER_ACC. -/
def State.meterSections (s : State) : List Byte × List Byte × List Byte :=
  (s.pageBytes pMETERAC 0x40 64, s.pageBytes pMETERDC 0x40 160, s.pageBytes pMETERACC 0x40 1)

/-- The flags UNSAVED, INVALID and TAIL of a save or a statement. -/
def State.meterFlags (s : State) : Nat :=
  b2n (s.flag R.METER_ACC_STATUS_UNSAVED) + 2 * b2n (s.flag R.METER_ACC_STATUS_INVALID)

/-- The save record of R281. -/
def State.saveRecord (s : State) (seq reason : Nat) : List Byte :=
  let sec := s.meterSections
  let body := leBytes 4 0x4D535631 ++ leBytes 4 seq ++
    [BitVec.ofNat 8 reason, BitVec.ofNat 8 (s.meterFlags + 4 * b2n (s.flag R.METER_ACC_STATUS_TAIL)), 0, 0] ++
    leBytes 4 (s.fld R.METER_ACC_STMT_SEQ_SEQ) ++ s.meter.acc.flatMap (leBytes 8) ++ s.meter.disp.flatMap (leBytes 8) ++
    sec.1 ++ sec.2.1 ++ sec.2.2
  body ++ leBytes 4 (crc32 body)

def reasonPeriodic : Nat := 1
def reasonConfig : Nat := 2
def reasonPfWarn : Nat := 3
def reasonPfRepeat : Nat := 4
def reasonReset : Nat := 5
def reasonStop : Nat := 6
def reasonRestart : Nat := 7

/-- Capture a save at a window close: the record of the accumulators as they stand goes to the slot that does not hold
the newest valid one, which is invalid from here on (R281, R282). -/
def State.capture (s : State) (reason : Nat) : State :=
  let seq := (s.meter.seq + 1) % 2 ^ 32
  let slot := if s.meter.newest = some 0 then 1 else 0
  let run : SaveRun := ⟨slot, reason, seq, s.saveRecord seq reason⟩
  (({ s with meter := { s.meter with save := some run, seq := seq, since := 0
                                     pendingPeaks := List.replicate 16 (0, 0) } }.mramWrite (0x800 * slot)
    [0, 0, 0, 0])).setFld R.METER_ACC_STATUS_SAVING 1

/-- The peak area's entry e (R282). -/
def State.writePeak (s : State) (e : Nat) : State :=
  let p := s.meter.peaks.getD e (0, 0)
  let body := leBytes 4 (s.fld R.METER_ACC_SAVE_SEQ_SEQ) ++ leBytes 4 p.1 ++ leBytes 4 p.2
  s.mramWrite (0x1000 + 16 * e) (body ++ leBytes 4 (crc32 body))

/-- Raise the peaks of entry e by a sample (R282). -/
def State.notePeak (s : State) (e v i vMax iMax : Nat) : State :=
  let up := fun (lim old x : Nat) => if old < x then min lim (ceilDiv (x * 17) 16) else old
  let p := s.meter.peaks.getD e (0, 0)
  let q := s.meter.pendingPeaks.getD e (0, 0)
  let p1 := (up vMax p.1 v, up iMax p.2 i)
  let s1 := { s with meter := { s.meter with
    peaks := s.meter.peaks.set e p1
    pendingPeaks := if s.meter.save.isSome then s.meter.pendingPeaks.set e (up vMax q.1 v, up iMax q.2 i)
                    else s.meter.pendingPeaks } }
  if p1 = p || s1.meter.newest.isNone then s1 else s1.writePeak e

/-! ## Windows (R275–R280) -/

/-- AC quantities, energy and disputes at a close (R277, R278, R280). -/
def State.closeAc (s : State) : State :=
  let n := s.meter.acN
  if n = 0 then s
  else
    let sums := fun p => s.meter.acSums.getD p {}
    let validPh := [0, 1, 2].filter s.phaseValid
    let wp := fun p => (sums p).sp * (s.fld (R.METER_AC_VFS_VFS_MV p) : Int) * (s.fld (R.METER_AC_IFS_IFS_MA p) : Int)
    let irms := fun c => isqrt ((sums c).sii / n) * s.fld (R.METER_AC_IFS_IFS_MA c) / 2 ^ 23
    let quant := fun (t : State) p =>
      let v : Nat := isqrt ((sums p).svv / n) * t.fld (R.METER_AC_VFS_VFS_MV p) / 2 ^ 23
      let pw := tdiv (tdiv (wp p) ((n * 2 ^ 46 : Nat) : Int)) 1000
      let sw : Nat := v * irms p / 1000
      let pf : Int := if sw = 0 then 0 else clampI (tdiv (pw * 16384) (sw : Int)) (-16384) 16384
      t.setFlds [(R.METER_AC_VRMS_MV p, v), (R.METER_AC_P_MW p, ofSigned 32 (satS 32 pw)), (R.METER_AC_S_MW p, satU 32 sw),
        (R.METER_AC_PF_PF p, ofSigned 16 pf), (R.METER_AC_IRMS_MA p, irms p)]
    let s1 := validPh.foldl quant s
    let s2 := if s.acOk (acCur 3) then s1.setFld (R.METER_AC_IRMS_MA 3) (irms 3) else s1
    let freq := match [0, 1, 2].find? s.acOk with
      | some v => if 2 ≤ (sums v).crossings then
          ((sums v).crossings - 1) * 4096000000 / ((sums v).last - (sums v).first) else 0
      | none => 0
    let energy := fun (t : State) p =>
      (t.addSigned p (3 + p) (wp p)).addAcc (6 + p)
        (isqrt ((sums p).svv * (sums p).sii) * t.fld (R.METER_AC_VFS_VFS_MV p) * t.fld (R.METER_AC_IFS_IFS_MA p))
    let s3 := validPh.foldl energy (s2.setFld R.METER_AC_FREQ_MHZ freq)
    let s4 := if validPh = [] then s3 else s3.addSigned 9 10 ((validPh.map wp).foldl (· + ·) 0)
    let lost := [0, 1, 2].filter fun p => s.phaseEnabled p && !s.phaseValid p
    let s5 := lost.foldl (fun (t : State) p => t.addDisps (ceilDiv (n * t.phaseFs p) 57600000) (phaseAccs p)) s4
    let s6 := if lost = [] then s5 else s5.setFld R.METER_ACC_STATUS_INVALID 1
    let valid := (List.range 7).foldl (fun acc ch => acc + b2n (s.acOk ch) * 2 ^ ch) 0
    let clip := (List.range 7).foldl (fun acc ch => acc + b2n (s.meter.acClip.contains ch) * 2 ^ ch) 0
    let settle := s.meter.acSettle.map (· - 1)
    let ended := (List.range 7).any fun ch => s.meter.acSettle.getD ch 0 = 1
    let s7 := { s6 with meter := { s6.meter with
      acN := 0, acClip := [], acBad := [], acSettle := settle
      acX := (List.range 4).map fun c => min 0xFFFF (isqrt ((sums c).sip / n) / 2 ^ 7)
      acSums := s6.meter.acSums.map fun (a : AcSums) => { prev := a.prev, armed := a.armed } } }
    let s8 := (s7.setFlds [(R.METER_AC_STATUS_VALID, valid), (R.METER_AC_STATUS_CLIPPED, clip),
      (R.METER_AC_STATUS_SETTLING, (List.range 7).foldl (fun acc ch => acc + b2n (settle.getD ch 0 ≠ 0) * 2 ^ ch) 0)]).inc
      R.METER_AC_CNT_WIN_N
    let s9 := s8.irq pMETERAC 0
    if ended then s9.irq pMETERAC 3 else s9

/-- DC quantities, energy and disputes at a close. -/
def State.closeDc (s : State) : State :=
  let n := s.meter.dcN
  if n = 0 then s
  else
    let sums := fun k => s.meter.dcSums.getD k {}
    let all := List.range 12
    let valid := all.filter s.dcOk
    let ifs := fun k => (s.fld (R.METER_DC_IFS_IFS_MA k) : Int)
    let group := fun (t : State) k =>
      (t.setFlds [(R.METER_DC_I_MA k, ofSigned 32 (tdiv ((sums k).si * ifs k) ((n * 2 ^ 17 : Nat) : Int))),
        (R.METER_DC_V_MV k, (sums k).sv / n / 10),
        (R.METER_DC_P_MW k, ofSigned 32 (tdiv (tdiv ((sums k).siv * ifs k) ((n * 2 ^ 17 : Nat) : Int)) 10000))]).addSigned
        (11 + k) (23 + k) ((sums k).siv * ifs k)
    let s1 := valid.foldl group s
    let lost := all.filter fun k => s.dcEnabled k && !s.dcOk k
    let s2 := lost.foldl (fun (t : State) k => t.addDisps (ceilDiv (n * t.dcFs k) 14400000) (dcAccs k)) s1
    let s3 := if lost = [] then s2 else s2.setFld R.METER_ACC_STATUS_INVALID 1
    let settle := s.meter.dcSettle.map (· - 1)
    let ended := all.any fun k => s.meter.dcSettle.getD k 0 = 1
    let mask := fun (p : Nat → Bool) => all.foldl (fun acc k => acc + b2n (p k) * 2 ^ k) 0
    let s4 := { s3 with meter := { s3.meter with
      dcN := 0, dcClip := [], dcBad := [], dcSettle := settle
      dcX := all.map fun k => min 0xFFFF ((sums k).sio.natAbs / n / 2)
      dcSums := List.replicate 12 {}
      snapInvalid := (s3.meter.snapInvalid ++ all.filter fun k => !s.dcOk k).eraseDups } }
    let s5 := ((s4.setFlds [(R.METER_DC_STATUS_VALID, mask s.dcOk), (R.METER_DC_SETTLE_CLIPPED, mask s.meter.dcClip.contains),
      (R.METER_DC_SETTLE_SETTLING, mask fun k => settle.getD k 0 ≠ 0)]).inc R.METER_DC_CNT_WIN_N).irq pMETERDC 0
    if ended then s5.irq pMETERDC 3 else s5

/-- Both windows close (R275). -/
def State.closeWindows (s : State) : State := s.closeAc.closeDc

/-- A save falls due: captured at an early close, or after the save in progress, or the PF_WARN save that the cairn's
flush holds up (R283, R284). -/
def State.saveDue (s : State) (reason : Nat) : State :=
  if s.meter.save.isSome || s.rst.pfFlush then
    if s.meter.waiting.contains reason then s
    else { s with meter := { s.meter with waiting := s.meter.waiting ++ [reason] } }
  else s.closeWindows.capture reason

/-- A store that has become unusable stops the meter after a save (R47). -/
def State.meterStops (s : State) : State :=
  if s.storeCtl.unusable && s.meter.running then
    let t := s.saveDue reasonStop
    { t with meter := { t.meter with running := false } }
  else s

/-- A close at which no other save is captured: the periodic save is taken where SAVE_PERIOD seconds of samples have
passed since the previous capture; not between PF_WARN and the end of its repeats (R283, R284). -/
def State.closeWithSave (s : State) : State :=
  let due := s.fld R.METER_ACC_CFG_SAVE_PERIOD * 16000 ≤ s.meter.since
  let t := s.closeWindows
  if due && !t.meter.pfRepeat && !t.rst.pfFlush then t.saveDue reasonPeriodic else t

/-- The window has its 3,200 AC samples (R275). -/
def State.windowFull (s : State) : Bool := 3200 ≤ s.meter.acN

/-- A BLOCK reset holds the page (R452). -/
def State.inBlockReset (s : State) (page : Nat) : Bool := s.rst.block.any fun b => b.1 = page && b.2.1 = 1

/-- METER_WINDOW_CLOSE: the regular close, of a full window (R275, R283). -/
def execMeterWindowClose (s : State) : Res :=
  let s := (s.begin).meterStops
  .next (if s.meter.running && s.windowFull then s.closeWithSave else s)

/-- A save's record is in its slot and has been read back (R281, R282). -/
def State.saveDone (s : State) (ok : Bool) : State := match s.meter.save with
  | none => s
  | some run =>
    let s1 := { s with meter := { s.meter with save := none } }.setFld R.METER_ACC_STATUS_SAVING 0
    let s2 := if ok then
        let t := (((s1.mramWrite (0x800 * run.slot) run.record).setFld R.METER_ACC_SAVE_SEQ_SEQ run.seq).inc
          R.METER_ACC_CNT_SAVE_N).irq pMETERACC 0
        let t1 := { t with meter := { t.meter with newest := some run.slot, peaks := t.meter.pendingPeaks } }
        (List.range 16).foldl State.writePeak t1
      else ((s1.setFld R.METER_ACC_STATUS_SAVE_FAIL 1).inc R.METER_ACC_CNT_SAVE_FAIL_N).event pMETERACC 1 noUnit 0
    if s2.rst.pfFlush then s2
    else if s2.meter.pfRepeat && !s2.meter.waiting.contains reasonPfWarn then s2.closeWindows.capture reasonPfRepeat
    else match s2.meter.waiting with
      | [] => s2
      | r :: rs => ({ s2 with meter := { s2.meter with waiting := rs } }).closeWindows.capture r

/-- PF_WARN abandons a save that is not a PF save (R284); saves that wait keep waiting. -/
def State.abandonSave (s : State) : State :=
  { s with meter := { s.meter with save := none } }.setFld R.METER_ACC_STATUS_SAVING 0

/-- The cairn's flush has ended: the PF_WARN save is captured, after a save that runs, and repeats follow while PF_WARN is
active (R284). -/
def State.pfSave (s : State) : State :=
  if s.meter.running then
    let t := { s with meter := { s.meter with pfRepeat := s.rst.pfWarn } }
    if t.meter.save.isSome then { t with meter := { t.meter with waiting := reasonPfWarn :: t.meter.waiting } }
    else t.closeWindows.capture reasonPfWarn
  else s

/-- METER_PF_REPEAT_END (R284). -/
def execMeterPfRepeatEnd (s : State) : Res :=
  let s := s.begin
  .next { s with meter := { s.meter with pfRepeat := false } }

/-! ## Samples (R272, R274) -/

/-- The filtered sample of an AC channel (R272): the channel's new state with xh[n] in `x1` and xh[n−1] in `x2`, and
xh[n−2]. -/
def State.acFilter (s : State) (ch : Nat) (x : Int) : MeterChan × Int :=
  let c := s.meter.ac.getD ch {}
  let xh := x - c.dc / 65536
  let dc := c.dc + xh * 65536 / ((2 ^ (8 + s.fld R.METER_AC_CFG_HPF_SHIFT) : Nat) : Int)
  if 3 ≤ ch && s.bit R.METER_AC_CFG_ROGO (ch - 3) then
    let y := c.y - c.y / ((2 ^ (8 + s.fld R.METER_AC_CFG_INT_LEAK) : Nat) : Int) + (xh + c.xhPrev) / 2
    ({ dc := dc, y := y, xhPrev := xh, x1 := satS 28 y, x2 := c.x1 }, c.x2)
  else ({ c with dc := dc, x1 := xh, x2 := c.x1 }, c.x2)

/-- The phase-corrected current (R272). -/
def phaseIp (ph x0 x1 x2 : Int) : Int :=
  if 0 ≤ ph then x1 + ph * (x0 - x1) / 32768 else x1 + (-ph) * (x2 - x1) / 32768

/-- Zero crossings of a corrected voltage sample at index n of the window (R277). -/
def AcSums.cross (a : AcSums) (n : Nat) (v : Int) : AcSums :=
  if v < -0x40000 then { a with armed := true, prev := v }
  else if a.armed && 0 ≤ v then
    let t := 256 * n + (256 * (-a.prev) / (v - a.prev)).toNat
    { a with armed := false, prev := v, crossings := a.crossings + 1
             first := if a.crossings = 0 then t else a.first, last := t }
  else { a with prev := v }

/-- METER_AC_SAMPLE. -/
def State.acSample (s : State) (codes : List Int) : State :=
  let n := s.meter.acN
  let f := (List.range 7).map fun ch => s.acFilter ch (codes.getD ch 0)
  let ch := fun i => (f.getD i ({}, 0)).1
  let old := fun i => (f.getD i ({}, 0)).2
  let v := fun p => satS 26 ((ch p).x2 * (s.fld (R.METER_AC_VGAIN_VGAIN p) : Int) / 0x400000)
  let ip := fun c => phaseIp (s.acPh c) (ch (acCur c)).x1 (ch (acCur c)).x2 (old (acCur c))
  let i := fun c => satS 26 (ip c * s.acG c / 0x400000)
  let sums := (List.range 4).map fun c =>
    let a := s.meter.acSums.getD c {}
    let a1 : AcSums := { a with sii := a.sii + (i c).natAbs ^ 2, sip := a.sip + (ip c).natAbs ^ 2 }
    if c < 3 then { a1.cross n (v c) with svv := a.svv + (v c).natAbs ^ 2, sp := a.sp + v c * i c } else a1
  let clips := (List.range 7).filter fun k => codes.getD k 0 = -8388608 || codes.getD k 0 = 8388607
  let s1 := { s with meter := { s.meter with
    ac := f.map (·.1), acN := n + 1, acSums := sums, since := s.meter.since + 1
    acClip := (s.meter.acClip ++ clips).eraseDups } }
  let s2 := [0, 1, 2].foldl (fun (t : State) p =>
    t.notePeak p (v p).natAbs (i p).natAbs (2 ^ 25) (2 ^ 25)) s1
  if clips = [] then s2 else (s2.add R.METER_AC_CNT_CLIP_N clips.length).irq pMETERAC 2

/-- A sample after a full window opens the next one: the full one closes (R275). -/
def State.rollWindow (s : State) (full : Bool) : State := if s.windowFull && full then s.closeWithSave else s

/-- METER_AC_SAMPLE. A page held in its reset takes no samples. -/
def execMeterAcSample (codes : List Int) (s : State) : Res :=
  let s := (s.begin).meterStops
  .next (if s.meter.running && !s.inBlockReset pMETERAC then (s.rollWindow true).acSample codes else s)

/-- The overvoltage check of rail k (R259): four consecutive samples above OV_MV. On a rail that is fenced already the
fourth is a later cause (R12). With the check off nothing holds its cause. -/
def State.overCheck (s : State) (k mv : Nat) : State :=
  let ov := s.fld (R.RAIL_GAIN_OV_MV k)
  let n := if ov ≠ 0 && s.dcOk k && ov < mv then s.meter.overRun.getD k 0 + 1 else 0
  let below := ov = 0 || (if s.dcOk k then decide (mv < ov) else s.meter.ovBelow.getD k false)
  let s1 := { s with meter := { s.meter with overRun := s.meter.overRun.set k n, ovBelow := s.meter.ovBelow.set k below } }
  if 4 ≤ n && (!s1.railFenced k || n = 4) then s1.fenceRail k causeOvervolt else s1

/-- METER_DC_SAMPLE. -/
def State.dcSample (s : State) (shunts : List Int) (rails : List Nat) : State :=
  let io := fun k => shunts.getD k 0 - toSigned 18 (s.fld (R.METER_DC_OFF_OFFSET k))
  let i := fun k => satS 20 (io k * s.dcG k / 0x400000)
  let v := fun k => min 0x3FFFF (rails.getD k 0 * s.fld (R.METER_DC_VGAIN_VGAIN k) / 0x400000)
  let sums := (List.range 12).map fun k =>
    let a := s.meter.dcSums.getD k {}
    ({ siv := a.siv + i k * (v k : Int), si := a.si + i k, sv := a.sv + v k, sio := a.sio + io k } : DcSums)
  let clips := (List.range 12).filter fun k => shunts.getD k 0 = -131072 || shunts.getD k 0 = 131071
  let s1 := { s with meter := { s.meter with
    dcN := s.meter.dcN + 1, dcSums := sums, dcClip := (s.meter.dcClip ++ clips).eraseDups } }
  let s2 := (List.range 12).foldl (fun (t : State) k =>
    (t.notePeak (4 + k) (v k) (i k).natAbs 0x3FFFF (2 ^ 19)).overCheck k (v k / 10)) s1
  if clips = [] then s2 else (s2.add R.METER_DC_CNT_CLIP_N clips.length).irq pMETERDC 2

/-- METER_DC_SAMPLE. -/
def execMeterDcSample (shunts : List Int) (rails : List Nat) (s : State) : Res :=
  let s := (s.begin).meterStops
  .next (if s.meter.running && !s.inBlockReset pMETERDC then (s.rollWindow (800 ≤ s.meter.dcN)).dcSample shunts rails
    else s)

/-! ## Restart (R286, R287) -/

/-- The newest valid save slot: its number and its record. -/
def State.newestSave (s : State) : Option (Nat × List Byte) :=
  let read := fun k => memRead s.mem.mram (0x800 * k) 1480
  let ok := fun k =>
    leAt (read k) 0 4 = 0x4D535631 && crc32 ((read k).take 1476) = leAt (read k) 1476 4 &&
      !(s.mem.mramBad.any fun w => 0x800 * k / 8 ≤ w && w < 0x800 * k / 8 + 185)
  match ok 0, ok 1 with
  | false, false => none
  | true, false => some (0, read 0)
  | false, true => some (1, read 1)
  | true, true => if leAt (read 1) 4 4 < leAt (read 0) 4 4 then some (0, read 0) else some (1, read 1)

/-- PEAK_V and PEAK_I of a group for the record's SEQ, or the corrected-sample limits (R286 step 7). -/
def State.savedPeak (s : State) (e seq : Nat) : Nat × Nat :=
  let b := memRead s.mem.mram (0x1000 + 16 * e) 16
  let bad := s.mem.mramBad.any fun w => 0x200 + 2 * e ≤ w && w < 0x202 + 2 * e
  if !bad && leAt b 0 4 = seq && crc32 (b.take 12) = leAt b 12 4 then (leAt b 4 4, leAt b 8 4)
  else if e < 3 then (2 ^ 25, 2 ^ 25) else (0x3FFFF, 2 ^ 19)

/-- B_g of R286 for the time tn / td seconds. -/
def State.phaseBound (s : State) (p seq tn td : Nat) : Nat :=
  let k := s.savedPeak p seq
  ceilDiv (tn * k.1 * s.fld (R.METER_AC_VFS_VFS_MV p) * k.2 * s.fld (R.METER_AC_IFS_IFS_MA p)) (2 ^ 46 * 3600 * td)
def State.dcBound (s : State) (g seq tn td : Nat) : Nat :=
  let k := s.savedPeak (4 + g) seq
  ceilDiv (tn * k.2 * s.fld (R.METER_DC_IFS_IFS_MA g) * k.1) (2 ^ 17 * 36000 * td)

/-- The bounds of R286 for every enabled group. -/
def State.addBounds (s : State) (seq tn td : Nat) : State :=
  let s1 := ([0, 1, 2].filter s.phaseEnabled).foldl (fun (t : State) p =>
    t.addDisps (t.phaseBound p seq tn td) (phaseAccs p)) s
  ((List.range 12).filter s.dcEnabled).foldl (fun (t : State) k =>
    let u := t.addDisps (t.dcBound k seq tn td) (dcAccs k)
    { u with meter := { u.meter with snapUnsaved := (u.meter.snapUnsaved ++ [k]).eraseDups } }) s1

/-- AC channels settle, with their filters and their magnitude x at their start (R273, R276). -/
def State.settleAc (s : State) (chs : List Nat) : State :=
  let set := (List.range 7).map fun ch => if chs.contains ch then 5 else s.meter.acSettle.getD ch 0
  { s with meter := { s.meter with
    ac := (List.range 7).map fun ch => if chs.contains ch then {} else s.meter.ac.getD ch {}
    acSettle := set
    acX := (List.range 4).map fun c => if chs.contains (acCur c) then 0 else s.meter.acX.getD c 0 } }.setFld R.METER_AC_STATUS_SETTLING
    ((List.range 7).foldl (fun acc ch => acc + b2n (set.getD ch 0 ≠ 0) * 2 ^ ch) 0)
def State.settleDc (s : State) (ks : List Nat) : State :=
  let set := (List.range 12).map fun k => if ks.contains k then 1 else s.meter.dcSettle.getD k 0
  { s with meter := { s.meter with
    dcSettle := set
    dcX := (List.range 12).map fun k => if ks.contains k then 0 else s.meter.dcX.getD k 0 } }.setFld R.METER_DC_SETTLE_SETTLING
    ((List.range 12).foldl (fun acc k => acc + b2n (set.getD k 0 ≠ 0) * 2 ^ k) 0)
/-- Keys of the three metering sections' registers (R290). -/
def isMeterSection (key : Nat) : Bool :=
  (0x34040 ≤ key && key < 0x34140) || (0x35040 ≤ key && key < 0x352C0) || key = 0x36040

/-- The meter starts from nothing but MRAM; a BLOCK reset of METER_ACC leaves the front ends' filters, settling and window
as they are (R276, R286, R292). -/
def MeterS.restarted (m : MeterS) (whole : Bool) : MeterS :=
  if whole then { running := true }
  else { m with
    running := true, stmt := none, save := none, waiting := [], pfRepeat := false, newest := none, seq := 0, since := 0
    acc := List.replicate 35 0, rem := List.replicate 35 0, disp := List.replicate 35 0
    peaks := List.replicate 16 (0, 0), pendingPeaks := List.replicate 16 (0, 0) }

/-- With no valid slot: everything at 0, the sections at their reset values (R286 step 2). -/
def State.restartEmpty (s : State) : State :=
  let s1 := { s with regs := s.regs.filter fun (e : Nat × Word) => !isMeterSection e.1 }
  (((List.range 35).foldl State.showAcc s1).setFlds
    [(R.METER_ACC_STATUS_NO_HISTORY, 1), (R.METER_ACC_STATUS_RESTART_REASON, 0),
      (R.METER_ACC_STATUS_CFG_SRC, 0)]).recordOpen pMETERACC

/-- What record r of slot k holds is loaded, with the peaks of its SEQ (R282, R286 step 3). -/
def State.loadSave (s : State) (k : Nat) (r : List Byte) : State :=
  let seq := leAt r 4 4
  let flags := leAt r 9 1
  let s1 := { s with meter := { s.meter with
    acc := (List.range 35).map fun a => leAt r (16 + 8 * a) 8
    disp := (List.range 35).map fun a => leAt r (296 + 8 * a) 8
    peaks := (List.range 16).map fun e => s.savedPeak e seq
    seq := seq, newest := some k } }
  let s2 := ((s1.loadRange pMETERAC 0x40 ((r.drop 576).take 256)).loadRange pMETERDC 0x40 ((r.drop 832).take 640)).loadRange
    pMETERACC 0x40 ((r.drop 1472).take 4)
  ((List.range 35).foldl State.showAcc s2).setFlds
    [(R.METER_ACC_STATUS_UNSAVED, bits flags 0 0), (R.METER_ACC_STATUS_INVALID, bits flags 1 1),
     (R.METER_ACC_STATUS_TAIL, bits flags 2 2), (R.METER_ACC_STATUS_NO_HISTORY, 0), (R.METER_ACC_STATUS_CFG_SRC, 1),
     (R.METER_ACC_STATUS_RESTART_REASON, leAt r 8 1), (R.METER_ACC_STMT_SEQ_SEQ, leAt r 12 4),
     (R.METER_ACC_SAVE_SEQ_SEQ, seq)]

/-- The bounds that the restored record's REASON asks for, and the cairn record (R286 steps 4 to 6 and 8). -/
def State.boundRestart (s : State) (r : List Byte) : State :=
  let seq := leAt r 4 4
  let reason := leAt r 8 1
  let s1 := if reason = reasonStop then s
    else if reason = reasonPfWarn || reason = reasonPfRepeat then
      (s.addBounds seq 14 10000).setFld R.METER_ACC_STATUS_TAIL 1
    else if reason = reasonReset then (s.addBounds seq 7 10000).setFld R.METER_ACC_STATUS_TAIL 1
    else (s.addBounds seq (bits (leAt r 1472 4) 5 0 + 1) 1).setFld R.METER_ACC_STATUS_UNSAVED 1
  let lost := reason = reasonPeriodic || reason = reasonConfig || reason = reasonRestart
  if lost then s1.event pMETERACC 3 noUnit 0 else s1.recordOpen pMETERACC

/-- Channels settle: every enabled one where the front ends restart too, else those that `before` had not enabled. -/
def State.settleFor (s before : State) (whole : Bool) : State :=
  (s.settleAc ((List.range 7).filter fun ch => s.acEnabled ch && (whole || !before.acEnabled ch))).settleDc
    ((List.range 12).filter fun k => s.dcEnabled k && (whole || !before.dcEnabled k))

/-- The meter restores itself from MRAM, whole or after a BLOCK reset of METER_ACC alone (R286). -/
def State.meterRestart (s : State) (whole : Bool) : State :=
  let s0 := { s with meter := s.meter.restarted whole }
  let s1 := match s.newestSave with
    | none => s0.restartEmpty
    | some (k, r) => (s0.loadSave k r).boundRestart r
  (s1.settleFor s whole).capture reasonRestart

/-! ## Statements (R289) -/

/-- The statement of R289, 468 bytes and zeros to 512. -/
def State.statement (s : State) : List Byte :=
  let sec := s.meterSections
  let flags := s.meterFlags + 4 * b2n s.timeValid + 8 * s.fld R.METER_ACC_STATUS_CFG_SRC + 32 * s.fld R.METER_ACC_STATUS_TAIL
  beBytes 4 0x4C4D5244 ++ [1, BitVec.ofNat 8 flags, 35, 0] ++ beBytes 16 Config.unitId ++
    beBytes 4 (s.fld R.METER_ACC_STMT_SEQ_SEQ + 1) ++ beBytes 4 (crc32 (sec.1 ++ sec.2.1 ++ sec.2.2)) ++
    beBytes 6 (s.ptp.ns / 1000000000) ++ beBytes 4 (s.ptp.ns % 1000000000) ++ [0, 0] ++
    beBytes 4 (s.fld R.METER_ACC_SAVE_SEQ_SEQ) ++
    ((List.range 35).flatMap fun a => beBytes 8 (s.meter.acc.getD a 0) ++
      beBytes 4 (satU 32 (ceilDiv (s.meter.disp.getD a 0) 1000))) ++ List.replicate 44 0

/-- METER_STMT_REQUEST: absorbed while a capture is in progress (R289). -/
def State.stmtRequest (s : State) : State :=
  if s.flag R.METER_ACC_STMT_CTRL_REQ then s
  else
    let s1 := s.closeWithSave.setFlds [(R.METER_ACC_STMT_CTRL_REQ, 1), (R.METER_ACC_STMT_CTRL_DONE, 0)]
    { s1 with meter := { s1.meter with stmt := some s1.statement } }

/-- METER_STMT_REQUEST. -/
def execMeterStmtRequest (m : Master) (s : State) : Res :=
  (s.begin).asWrite m pMETERACC rightLive fun t => .next t.stmtRequest

/-- METER_STMT_READY. -/
def execMeterStmtReady (s : State) : Res :=
  let s := s.begin
  match s.meter.stmt with
  | none => .next s
  | some b =>
    let s1 := { s with meter := { s.meter with stmt := none } }.loadRange pMETERACC 0x400 b
    .next (((s1.inc R.METER_ACC_STMT_SEQ_SEQ).setFlds [(R.METER_ACC_STMT_CTRL_REQ, 0), (R.METER_ACC_STMT_CTRL_DONE, 1)]).irq
      pMETERACC 2)

/-- METER_DISP_CLEAR (R280). -/
def execMeterDispClear (m : Master) (v : Word) (s : State) : Res :=
  (s.begin).asArmed m pMETERACC rightSecure fun t =>
    if v.toNat % 2 = 0 then .next t
    else
      let t1 := { t with meter := { t.meter with disp := List.replicate 35 0 } }
      let t2 := ((List.range 35).foldl State.showAcc t1).setFlds
        [(R.METER_ACC_STATUS_UNSAVED, 0), (R.METER_ACC_STATUS_INVALID, 0), (R.METER_ACC_STATUS_TAIL, 0)]
      .next (t2.recordOpen pMETERACC)

/-! ## Fences (R291) -/

/-- An AC channel or DC group is fenced. -/
def State.fenceMeter (s : State) (page cause ch : Nat) : State :=
  let s1 := ((s.fence page ch cause 0).irq page 1)
  if page = pMETERAC then
    ({ s1 with meter := { s1.meter with acBad := (s1.meter.acBad ++ [ch]).eraseDups } }).setBit R.METER_AC_STATUS_FENCED ch true
  else
    ({ s1 with meter := { s1.meter with dcBad := (s1.meter.dcBad ++ [ch]).eraseDups } }).setBit R.METER_DC_STATUS_FENCED ch true

/-- The group of an accumulator is restored from the newest valid save with the bound of R286 step 5 (R291); a disabled
group adds nothing to its dispute (R276). -/
def State.restoreGroup (s : State) (a : Nat) : State :=
  let group := if a < 9 then [a % 3, 3 + a % 3, 6 + a % 3] else if a < 11 then [9, 10]
    else if a < 23 then [a, a + 12] else [a - 12, a]
  match s.newestSave with
  | none => s
  | some (_, r) =>
    let seq := leAt r 4 4
    let tn := bits (leAt r 1472 4) 5 0 + 1
    let put := fun (l : List Nat) off => group.foldl (fun (l : List Nat) x => l.set x (leAt r (off + 8 * x) 8)) l
    let s1 := { s with meter := { s.meter with
      acc := put s.meter.acc 16, disp := put s.meter.disp 296
      rem := group.foldl (fun (l : List Nat) x => l.set x 0) s.meter.rem } }
    let b := if a < 9 then (if s.phaseEnabled (a % 3) then s1.phaseBound (a % 3) seq tn 1 else 0)
      else if a < 11 then (([0, 1, 2].filter s.phaseEnabled).map fun p => s1.phaseBound p seq tn 1).sum
      else if s.dcEnabled ((a - 11) % 12) then s1.dcBound ((a - 11) % 12) seq tn 1 else 0
    (s1.addDisps b group).setFld R.METER_ACC_STATUS_UNSAVED 1

/-- METER_CHANNEL_FAULT (R291). -/
def execMeterChannelFault (page : Nat) (f : MeterFault) (s : State) : Res :=
  let s := s.begin
  if page = pMETERACC then match f with
    | .ecc a => .next ((s.fenceBlock pMETERACC causeEcc).restoreGroup a)
    | .modulator _ => .next s
    | .reference => .next s
  else if page = pMETERAC || page = pMETERDC then
    let n := if page = pMETERAC then 7 else 12
    match f with
    | .modulator ch => .next (if ch < n then s.fenceMeter page 0x0100 ch else s)
    | .reference => .next ((List.range n).foldl (fun (t : State) ch => t.fenceMeter page 0x0101 ch) s)
    | .ecc ch =>
      if ch < n then
        let s1 := if page = pMETERAC then
            { s with meter := { s.meter with
              ac := s.meter.ac.set ch {}, acX := if 3 ≤ ch then s.meter.acX.set (ch - 3) 0 else s.meter.acX } }
          else { s with meter := { s.meter with dcX := s.meter.dcX.set ch 0 } }
        .next (s1.fenceMeter page causeEcc ch)
      else .next s
  else .next s

/-- At a frame boundary the channels whose fence has been cleared lose FENCED and settle (R13, R291). -/
def State.meterBoundary (s : State) : State :=
  let ac := (List.range 7).filter fun ch => s.bit R.METER_AC_STATUS_FENCED ch && !s.hasFence pMETERAC ch
  let dc := (List.range 12).filter fun k => s.bit R.METER_DC_STATUS_FENCED k && !s.hasFence pMETERDC k
  let s1 := ac.foldl (fun (t : State) ch => t.setBit R.METER_AC_STATUS_FENCED ch false) s
  let s2 := dc.foldl (fun (t : State) k => t.setBit R.METER_DC_STATUS_FENCED k false) s1
  if ac = [] && dc = [] then s2 else (s2.settleAc ac).settleDc dc

/-- A generation's metering sections have replaced those of `before`: newly enabled channels settle, and a CONFIG save
is taken (R276, R283, R287). The windows have been closed. -/
def State.meterSwitch (s before : State) : State :=
  if s.meterSections = before.meterSections then s else (s.settleFor before false).saveDue reasonConfig

/-- After a BLOCK reset of METER_AC or METER_DC its filters restart and its enabled channels settle; the window was closed
at its assertion (R275, R276, R292). -/
def State.meterFrontReset (s : State) (page : Nat) : State :=
  if page = pMETERAC then
    ({ s with meter := { s.meter with
      acN := 0, acSums := List.replicate 4 {}, acX := [0, 0, 0, 0], ac := List.replicate 7 {} } }).settleAc
      ((List.range 7).filter s.acEnabled)
  else
    ({ s with meter := { s.meter with dcN := 0, dcSums := List.replicate 12 {}, dcX := List.replicate 12 0 } }).settleDc
      ((List.range 12).filter s.dcEnabled)

/-! ## The governor's snapshot (R288) -/

/-- METER_DC latches the energies at GOV's snapshot, as if the window in progress closed there. -/
def State.meterSnapshot (s : State) : State :=
  let energy := fun k =>
    let w : Int := if s.dcOk k then
        (s.meter.dcSums.getD k {}).siv * (s.fld (R.METER_DC_IFS_IFS_MA k) : Int) else 0
    let num := fun a => ((s.meter.acc.getD a 0 * denDc + s.meter.rem.getD a 0 : Nat) : Int)
    ofSigned 64 (tdiv (num (11 + k) - num (23 + k) + w) (denDc : Int))
  let mask := fun (p : Nat → Bool) => (List.range 12).foldl (fun acc k => acc + b2n (p k) * 2 ^ k) 0
  let s1 := (List.range 12).foldl (fun (t : State) k =>
    t.setFlds [(R.METER_DC_SNAP_LO_E_LO k, energy k), (R.METER_DC_SNAP_HI_E_HI k, energy k / 2 ^ 32)]) s
  let s2 := s1.setFlds [(R.METER_DC_SNAP_STAT_INVALID, mask fun k => s.meter.snapInvalid.contains k || !s.dcOk k),
    (R.METER_DC_SNAP_STAT_UNSAVED, mask s.meter.snapUnsaved.contains)]
  { s2 with meter := { s2.meter with snapInvalid := [], snapUnsaved := [] } }

end Sys2Proof.Machine
end

