-- ==== Sys2Proof/Machine/Pipe.lean ====
section
/-! DEFINITION. The pipeline's burst (R162–R166, R175, R183–R187): what it renders, the payload it stages, its payload
CRCs and its end. -/
namespace Sys2Proof.Machine

/-- The store address of a payload area of offset `off` for frame n (R237). -/
def stagingArea (off n : Nat) : Nat := stagingBase + n % 2 * 0x02000000 + off * 64

/-- What rendering one reorder entry gives: its payload pixel; whether it takes a lane cycle; the reads that met an error
(address, length and page); a poisoned record's pixel index; a poisoned entry; and poisoned scree words. -/
structure Rendered where
  pixel : List Nat := [0, 0, 0]
  live : Bool := true
  reads : List (Nat × Nat × Nat) := []
  record : Option Nat := none
  badEntry : Bool := false
  badScree : Nat := 0
deriving DecidableEq, Repr

/-- Render one reorder entry (R164, R167, R175, R184): its u32 stands at store address `a`. -/
def State.renderEntry (s : State) (b : Bank) (src : PixelSource) (n g a : Nat) : Rendered :=
  let noted := fun (l : List (Nat × Nat × Nat)) => l.filter fun r => s.flawed r.1 r.2.1
  if s.storeWordBad a then { reads := noted [(a, 4, pPIPE)], badEntry := true }
  else
    let e := memLE s.mem.store a 4
    if bitSet e 31 then { live := false, reads := noted [(a, 4, pPIPE)] }
    else
      let i := bits e 21 0
      let r := s.calRec b.calAddr i
      let from_ := src.range i
      let isScree := match src with
        | .scree _ => true
        | _ => false
      { pixel := b.payload r (s.sourceWord src i).1 i n g
        reads := noted [(a, 4, pPIPE), (b.calAddr + 24 * i, 24, pCAL), (from_.1, from_.2, if isScree then pSCREE else pPIPE)]
        record := if r.bad then some i else none
        badScree := if isScree then (s.badIn from_.1 from_.2).length else 0 }

/-- Render strand k of lane g: its entries in sending order. -/
def State.renderStrand (s : State) (b : Bank) (src : PixelSource) (n g lane k : Nat) : List Rendered :=
  let d := b.dir.getD (12 * lane + k) (0, 0)
  (List.range d.2).map fun j => s.renderEntry b src n g (b.reorderAddr + 384 + 4 * (d.1 + j))

/-- The elements of lists in rounds: the first of each list, then the second of each, and so on. -/
def rounds {α : Type} : Nat → List (List α) → List α
  | 0, _ => []
  | n + 1, ls => ls.filterMap List.head? ++ rounds n (ls.map List.tail)

/-- The greatest length of a list of lists. -/
def longest {α : Type} (ls : List (List α)) : Nat := (ls.map List.length).foldl max 0

/-- The entries of a lane by the cycle they take; null entries, which take none, go with the next one (R164). -/
def cyclesOf : List Rendered → List (List Rendered)
  | [] => []
  | e :: t => if e.live then [e] :: cyclesOf t
    else match cyclesOf t with
      | [] => [[e]]
      | c :: cs => (e :: c) :: cs

/-- The bytes of payload pixels as staged: 48-bit little-endian values (R237). -/
def stagedBytes (ps : List (List Nat)) : List Byte :=
  ps.flatMap fun p => leBytes 2 (p.getD 0 0) ++ leBytes 2 (p.getD 1 0) ++ leBytes 2 (p.getD 2 0)

/-- The payload words in sending order, each high byte first (STRg_PAYLOAD_CRC). -/
def sentBytes (ps : List (List Nat)) : List Byte :=
  ps.flatMap fun p => beBytes 2 (p.getD 0 0) ++ beBytes 2 (p.getD 1 0) ++ beBytes 2 (p.getD 2 0)

/-- A poisoned record of the burst (R175). -/
def State.noteRecord (s : State) (i : Nat) : State :=
  (((s.inc R.CAL_CNT_UE_N).setFlds [(R.CAL_UE_LAST_VALID, 1), (R.CAL_UE_LAST_INDEX, i)]).irq pCAL 0).fenceBlock pCAL causeEcc

/-- What an entry's reads and faults do (R155, R175, R184). -/
def State.noteEntry (s : State) (e : Rendered) : State :=
  let s1 := e.reads.foldl (fun (t : State) (r : Nat × Nat × Nat) => t.readWords r.1 r.2.1 r.2.2) s
  let s2 := match e.record with
    | some i => s1.noteRecord i
    | none => s1
  let s3 := if e.badScree = 0 then s2 else s2.add R.SCREE_CNT_UE_N e.badScree
  if e.badEntry then (s3.inc R.PIPE_CNT_ENTRY_UE_N).irq pPIPE 3 else s3

/-- Stage the payload of a lane; where its strand section is not whole, no area is known and nothing is written. -/
def State.stageLane (s : State) (areas : List Nat) (n : Nat) (strands : List (List Rendered)) : State :=
  (areas.zip strands).foldl (fun (t : State) (x : Nat × List Rendered) =>
    t.blockWrite (stagingArea x.1 n) (stagedBytes (x.2.map (·.pixel))) pPIPE) s

/-- The CRC of a lane's payload is shown and kept with its frame (STRg_PAYLOAD_CRC). -/
def State.crcLane (s : State) (n lane : Nat) (strands : List (List Rendered)) : State :=
  let crc := crc32 (strands.flatMap fun r => sentBytes (r.map (·.pixel)))
  { s with commit := { s.commit with
    crcs := (n, (((s.commit.crcs.find? fun (c : Nat × List Nat) => c.1 = n).map fun (c : Nat × List Nat) => c.2).getD [0, 0, 0, 0]).set lane crc) ::
      (s.commit.crcs.filter fun c => c.1 ≠ n && n < c.1 + 8) } }.setFld (R.STR_PAYLOAD_CRC_CRC lane) crc

/-- The bank of a slot. -/
def State.bankOf (s : State) (k : Nat) : Option Bank := s.banks.find? fun b => b.slot = k

/-- The lanes whose bits of PIPE_STATUS.LANE_FENCED are set. -/
def State.lanesFenced (s : State) : List Nat := (List.range 4).filter fun g => s.bit R.PIPE_STATUS_LANE_FENCED g

/-- PIPE is fenced as a whole, or asked to idle: every lane writes nothing (R10, R183). -/
def State.pipeStopped (s : State) : Bool := s.isFenced pPIPE noUnit

/-- A bank with a bad PIPE, CAL or DITH section or directory fences their pages at the first burst rendered under it,
and PIPE with PARENT where it is not the owner (R183). -/
def State.fenceBank (s : State) (b : Bank) : State :=
  let bad := b.bad.filter fun x => x.1 ≠ pGOV
  let s1 := bad.foldl (fun (t : State) (x : Nat × Nat) => if t.hasFence x.1 noUnit then t else t.fenceBlock x.1 x.2) s
  if bad ≠ [] && !(bad.any fun x => x.1 = pPIPE) && !s1.hasFence pPIPE noUnit then s1.fenceBlock pPIPE causeParent else s1

/-- Where the pixels of a settled frame come from: its ingress buffer, the repeat source's, or a scree frame. -/
def State.sourceOf (s : State) (b : Bank) (c : FrameCase) : PixelSource :=
  if c.source = 0 then match s.bufOf c.frame with
    | some buf => .ingress (ingressBuf buf)
    | none => .black
  else if c.source = 1 then match s.storeCtl.repeatFrame.bind s.bufOf with
    | some buf => .ingress (ingressBuf buf)
    | none => .black
  else b.screeFrame c.frame

/-- The strands of each lane as a burst renders them; a stopped lane renders nothing. -/
def State.renderLanes (s : State) (b : Bank) (c : FrameCase) (g : Nat) (stopped : List Nat) : List (List (List Rendered)) :=
  (List.range 4).map fun lane => if stopped.contains lane then []
    else (List.range 12).map fun k => s.renderStrand b (s.sourceOf b c) c.frame g lane k

/-- The burst of frame n starts at D(N) (R163, R166): every running lane's payload is rendered and staged. Errors are
noted in the order of the lane cycles; of two that lanes read in the same cycle, the lane of lower number comes first:
DESIGN CHOICE (assumption log, entry 44). -/
def State.startBurst (s : State) (c : FrameCase) : State := match c.slot.bind s.bankOf with
  | none => s
  | some b =>
    if c.source = 3 || s.storeCtl.unusable then s
    else
      let s1 := s.fenceBank b
      let stopped := if s1.pipeStopped then [0, 1, 2, 3] else s1.lanesFenced
      let g := gain15 b.ggen c.gain
      let lanes := s1.renderLanes b c g stopped
      let cycles := lanes.map fun ss => cyclesOf (rounds (longest ss) ss)
      let s2 := ((List.range 4).zip lanes).foldl (fun (t : State) (x : Nat × List (List Rendered)) =>
        if stopped.contains x.1 then t else (t.stageLane (b.areas.getD x.1 []) c.frame x.2).crcLane c.frame x.1 x.2) s1
      let s3 := (rounds (longest cycles) cycles).flatten.foldl State.noteEntry s2
      let burst : Burst := { frame := c.frame, gen := b.gen, source := c.source, g := g, gov := c.gain
                             entries := lanes.map fun ss => (ss.flatten.filter (·.live)).length
                             stopped := stopped
                             fallback := (lanes.flatten.flatten.filter fun e => e.record.isSome).length }
      let s4 := { s3 with commit := { s3.commit with
        burst := some burst
        payload := (c.frame, stopped) :: (s3.commit.payload.filter fun p => c.frame < p.1 + 4 && p.1 ≠ c.frame) } }
      let s5 := if b.gen = s.fld R.PIPE_STATUS_GEN then s4
        else s4.clearFlds ((List.range 4).map R.PIPE_LANE_ENTRIES_E)
      let s6 := (s5.setFld R.PIPE_STATUS_BURST 1).arbTraffic pPIPE
      if c.source = 2 then (s6.inc R.SCREE_CNT_PLAYED_N).setFld R.SCREE_LAST_INDEX
        (if b.lScree = 0 then 0 else c.frame % b.lScree)
      else s6

/-- The length of a burst, ns: 8 for each entry of the longest lane that ran to its end, and the latency (R163). A burst
in which no lane ran from its start on has no stop to end at: the spec gives its length no value, a free one. -/
def State.burstNs (s : State) (b : Burst) : Nat :=
  let running := (List.range 4).filter fun g => !b.stopped.contains g
  if running = [] then s.freeBits 32 else 8 * (running.map fun g => b.entries.getD g 0).foldl max 0 + 400

/-- The burst's end after `ns`, without the frame-CRC message: statistics, and the buffers of R143. The entries of each
lane are counted by the first burst of a generation alone. -/
def State.endBurst (s : State) (b : Burst) (ns : Nat) : State :=
  let s1 := ({ s with commit := { s.commit with burst := none } }.setFlds
    [(R.PIPE_STATUS_BURST, 0), (R.PIPE_STATUS_SOURCE, b.source), (R.PIPE_STATUS_GEN, b.gen), (R.PIPE_LAST_GAIN_G, b.g),
     (R.PIPE_LAST_GAIN_GOV, b.gov), (R.PIPE_BURST_NS_NS, ns), (R.CAL_FALLBACK_N, b.fallback)]).drawn
  let s2 := ((s1.maxFld R.PIPE_BURST_MAX_NS_NS ns).inc R.PIPE_CNT_FRAMES_N).irq pPIPE 0
  let s3 := if s.fld R.PIPE_STATUS_GEN = b.gen then s2
    else (List.range 4).foldl (fun (t : State) g =>
      if b.stopped.contains g then t else t.setFld (R.PIPE_LANE_ENTRIES_E g) (b.entries.getD g 0)) s2
  if b.source = 0 then s3.makeRepeat b.frame else s3

end Sys2Proof.Machine
end

