-- ==== Sys2Proof/Machine/Strand.lean ====
section
/-! DEFINITION. Strand ports: the output slot (R211, R221, R228), Seken packets (R215–R220), the command choice (R223),
return windows (R231–R234), aborts and fences (R240, R241). -/
namespace Sys2Proof.Machine

/-! ## Packets (R215–R220) -/

/-- The bits of a number, most significant first. -/
def bitsMsb (w n : Nat) : List Bool := (List.range w).map fun i => bitSet n (w - 1 - i)

/-- One bit of the CRC-16 of R216. -/
def crc16Bit (c : Nat) (b : Bool) : Nat :=
  let x := c * 2 % 65536
  if (bitSet c 15) != b then Nat.xor x 0x1021 else x

/-- The CRC-16 of R216 over bits in sending order. -/
def crc16 (bs : List Bool) : Nat := bs.foldl crc16Bit 0xFFFF

/-- The bits of bytes, in sending order. -/
def bytesBits (bs : List Byte) : List Bool := bs.flatMap fun b => bitsMsb 8 b.toNat

/-- A number with its `w` bits in reverse order: a field sent least-significant bit first. -/
def reversed (w n : Nat) : Nat := (List.range w).foldl (fun acc i => acc + b2n (bitSet n i) * 2 ^ (w - 1 - i)) 0

/-- A packet: preamble, SYNC, TYPE, POS 0, the type fields and what follows them; `covered` are the type fields under
HCRC (R215). -/
def seken (ty : Nat) (covered extra : List Byte) : List Byte :=
  [0, 0] ++ beBytes 2 0xB6C3 ++ [BitVec.ofNat 8 ty, 0] ++ covered ++ extra ++
    beBytes 2 (crc16 (bytesBits (BitVec.ofNat 8 ty :: covered)))

/-- IDLE (R217). -/
def idlePacket : List Byte := seken 0 [] []

/-- A block of WORDS payload words (R219). -/
def blockBytes (words : List Byte) : List Byte :=
  let n := words.length / 2
  beBytes 2 (n * 2) ++ words ++ beBytes 2 (crc16 (bitsMsb 15 n ++ bytesBits words))

/-- The blocks of a payload by its shares in words. -/
def blocksOf : List Nat → List Byte → List Byte
  | [], _ => []
  | n :: ns, data => blockBytes (data.take (2 * n)) ++ blocksOf ns (data.drop (2 * n))

/-- The header of a FRAME, its payload blocks aside (R218). -/
def frameHead (fn scan level time : Nat) : List Byte :=
  seken 1 (beBytes 2 fn ++ [BitVec.ofNat 8 scan, BitVec.ofNat 8 level, BitVec.ofNat 8 time, 0]) []

/-- The blocks up to byte `o` of the payload, where a port stops sending. -/
def blocksCut : List Nat → List Byte → Nat → List Byte
  | [], _, _ => []
  | n :: ns, data, o =>
    let b := blockBytes (data.take (2 * n))
    if o < 2 * n then b.take (2 + o) else b ++ blocksCut ns (data.drop (2 * n)) (o - 2 * n)

/-- FRAME (R218). -/
def framePacket (fn scan level time : Nat) (shares : List Nat) (payload : List Byte) : List Byte :=
  frameHead fn scan level time ++ blocksOf shares payload ++ [0, 0]

/-- PRESENT (R220). -/
def presentPacket (fn count : Nat) : List Byte := seken 2 (beBytes 2 fn) (beBytes 2 (reversed 16 count))

/-- Return cells of a command's window (R223). -/
def StrandCmd.rwin (c : StrandCmd) : Nat := if c.op = 3 then 3 * c.addr + 152 else if c.op = 2 then 3 * c.addr + 96 else 0

/-- COMMAND (R220). -/
def commandPacket (c : StrandCmd) : List Byte :=
  seken 3 (beBytes 2 c.addr ++ [BitVec.ofNat 8 c.op, BitVec.ofNat 8 c.reg] ++ beBytes 4 c.data ++ beBytes 2 c.rwin) []

/-! ## Ports -/

/-- Strand s. -/
def State.strand (s : State) (k : Nat) : StrandS := s.strands.getD k {}

/-- Replace strand s. -/
def State.setStrand (s : State) (k : Nat) (x : StrandS) : State := { s with strands := s.strands.set k x }

/-- The port drives now. -/
def State.portDrives (s : State) (k : Nat) : Bool := s.pins.driving.contains k

/-- The port drives, or goes to high impedance. -/
def State.drivePort (s : State) (k : Nat) (on : Bool) : State :=
  let s1 := { s with pins := { s.pins with
    driving := if on then (if s.pins.driving.contains k then s.pins.driving else s.pins.driving ++ [k])
               else s.pins.driving.filter fun x => x ≠ k } }
  s1.setFld R.PRESENT_SLOT_DRIVING (b2n (s1.pins.driving ≠ []))

/-- The port is fenced, alone or with its page or PRESENT. -/
def State.strandFenced (s : State) (k : Nat) : Bool :=
  s.isFenced (pSTR (k / 12)) (k % 12) || s.isFenced (pSTR (k / 12)) noUnit || s.isFenced pPRESENT noUnit

/-- The port is not fenced, and the module in RUN or REST with its store (R47, R211). -/
def State.portReady (s : State) (k : Nat) : Bool := !s.strandFenced k && s.inRun && !s.storeCtl.unusable

/-- R211 but for the lead role, under the generation in force: the port's slot schedule runs. -/
def State.slotRuns (s : State) (k : Nat) : Bool :=
  s.commit.cur.isSome && s.bit (R.STR_CFG_EN (k / 12)) (k % 12) && s.portReady k

/-- The slot of the generation that the COMMIT for frame n names, as D(n) settled it. -/
def State.caseSlot (s : State) (n : Nat) : Option Nat := match s.commit.cases.find? fun c => c.frame = n with
  | some c => if c.slot.map s.slotGen = some c.gen then c.slot else none
  | none => none

/-- STRg_CFG.EN[k] is 1 in the generation of slot n: the one in force, or where step 2 comes before P(n), as it does for a
SKEW_NS above 1,000, the one named by the COMMIT for n (R211, R221). -/
def State.slotEn (s : State) (k n : Nat) : Bool :=
  let inForce := s.commit.cur.isSome && s.bit (R.STR_CFG_EN (k / 12)) (k % 12)
  match (if s.isAhead n then s.caseSlot n else none) with
  | none => inForce
  | some j => if some j = s.commit.cur then inForce
    else match (s.secRead (s.slot j).addr (pSTR (k / 12)) 1).bytes? with
      | some b => bitSet (secFld b (R.STR_CFG_EN (k / 12))) (k % 12)
      | none => false

/-- The slot of n presents its frame, as P(n) has settled it, or before P(n) as D(n) has (R228). -/
def State.slotShows (s : State) (n : Nat) : Bool :=
  if s.isAhead n then s.commit.cases.any fun c => c.frame = n && c.source ≠ 3 else s.commit.slotFrame = some n

/-- The voltage range of VIO_STRg (STRg_STATUS.VIO). -/
def vioRange (mv : Nat) : Nat :=
  if 1620 ≤ mv && mv ≤ 2000 then 1 else if 2970 ≤ mv && mv ≤ 3630 then 2 else 0

/-- Step 2 of the slot of frame n: a lead's port drives low; a second runs the schedule with its output released
(R211, R221). A slot in which no frame is presented carries IDLE only (R228). -/
def State.slotDrive (s : State) (k n : Nat) : State :=
  if !s.slotEn k n || !s.portReady k || (s.strand k).slot = some n then s
  else
    let mine := s.isLead
    let idle : Bool := !s.slotShows n
    let s1 := s.setStrand k { s.strand k with slot := some n, mine := mine, idleOnly := idle, aborted := false, framed := false
                                              commanded := false, presented := false, cmd := none, window := false }
    if !mine then s1
    else
      let first : Bool := s1.fld R.PRESENT_SLOT_CASE = 0
      let s2 := (s1.drivePort k true).setFld R.PRESENT_SLOT_CASE (if idle then 2 else 1)
      if idle && first then (s2.inc R.PRESENT_CNT_IDLE_N).irq pPRESENT 0 else s2

/-- STRAND_SLOT_DRIVE. -/
def execStrandSlotDrive (k n : Nat) (s : State) : Res :=
  let s := s.begin
  match s.timing with
  | none => .next s
  | some t => .next ((s.atTime (t.p n + 1000 - s.fld (R.PRESENT_SKEW_SKEW_NS k))).slotDrive k n)

/-- The port aborts its slot (R240). -/
def State.abortSlot (s : State) (k : Nat) : State :=
  let x := s.strand k
  ({ s.setStrand k { x with aborted := true, aborts := (x.aborts + 1) % 2 ^ 32,
                            frames := if x.framed then (x.frames + 2 ^ 32 - 1) % 2 ^ 32 else x.frames }
     with abortSeen := true }).irq pPRESENT 1

/-- The slot schedule of a driven port runs and may send (R228, R240). -/
def State.maySend (s : State) (k : Nat) : Bool := s.portDrives k && !(s.strand k).aborted && (s.strand k).mine

/-- The share table of strand s: where, and its words (R237). -/
def State.shareAddr (s : State) (k : Nat) : Nat := s.fld (R.STR_SHARE_ADDR_ADDR (k / 12)) * 64 + 512 * (k % 12)
def State.shares (s : State) (k : Nat) : List Nat :=
  (List.range (s.fld (R.STR_CHAIN_BLOCKS (k / 12) (k % 12)))).map fun j => memLE s.mem.store (s.shareAddr k + 2 * j) 2

/-- The payload of strand s for frame n in staging (R237). -/
def State.payloadAddr (s : State) (k n : Nat) : Nat :=
  stagingBase + n % 2 * 0x02000000 + s.fld (R.STR_AREA_OFF (k / 12) (k % 12)) * 64

/-- Swap each pair of bytes: little-endian words as they are sent. -/
def swapPairs : List Byte → List Byte
  | a :: b :: t => b :: a :: swapPairs t
  | l => l

/-- The payload of the strand's group for frame n is marked invalid (R186, R240). -/
def State.payloadInvalid (s : State) (k n : Nat) : Bool :=
  s.commit.payload.any fun p => p.1 = n && p.2.contains (k / 12)

/-- The FRAME of frame n begins, with what it sends; a second's and an aborted slot's never does (R218, R221). -/
def State.beginFrame (s : State) (k : Nat) (packet : List Byte) : State :=
  let x := s.strand k
  (s.setStrand k { x with framed := true, frames := (x.frames + 1) % 2 ^ 32 }).emit (.strandPacket k packet)

/-- Payload pixels that port k has read when its FRAME begins, at P(n) + 4,000 ns less SKEW_NS: it may read pixel j from
P(n) + 480 ns · j on, and reads it then (R227; assumption log, entry 24). -/
def State.readBeforeFrame (s : State) (k : Nat) : Nat := (4000 - s.fld (R.PRESENT_SKEW_SKEW_NS k)) / 480

/-- FRAME for the slot's frame, or an abort (R218, R240). A poisoned word that the port has read before the FRAME begins
keeps it from beginning; one it reads later ends it at the pixel that the word holds (R227). -/
def State.frameSend (s : State) (k : Nat) : State := match (s.strand k).slot with
  | none => s
  | some n =>
    let x := s.strand k
    let g := k / 12
    if !s.maySend k || x.idleOnly || x.framed then s
    else if s.payloadInvalid k n then s.abortSlot k
    else
      let shares := s.shares k
      let len := 2 * shares.sum
      let a := s.payloadAddr k n
      let scan := s.fld (R.STR_FRAMEHDR_SCAN g)
      let level := s.fld (R.STR_FRAMEHDR_PRE_LEVEL g)
      let time := s.fld (R.STR_FRAMEHDR_PRE_TIME g)
      let data := swapPairs (s.storeRead a len)
      let s1 := s.blockReads (s.shareAddr k) (2 * shares.length) (pSTR g)
      if s.storeRangeBad (s.shareAddr k) (2 * shares.length) then s1.abortSlot k
      else match s.firstBad a len with
        | none => (s1.blockReads a len (pSTR g)).beginFrame k (framePacket n scan level time shares data)
        | some w =>
          let pixel := (8 * w - a) / 6
          let s2 := s1.blockReads a (8 * w + 8 - a) (pSTR g)
          if pixel ≤ s.readBeforeFrame k then s2.abortSlot k
          else (s2.beginFrame k (frameHead n scan level time ++ blocksCut shares data (6 * pixel))).abortSlot k

/-- STRAND_FRAME_SEND. -/
def execStrandFrameSend (k : Nat) (s : State) : Res := .next ((s.begin).frameSend k)

/-- The command of slot n (R223); a ring entry of OP 0, or one that reads poisoned (R238), gives none. -/
def State.slotCommand (s : State) (k n : Nat) : Option StrandCmd :=
  let g := k / 12
  let e := s.fld (R.STR_RING_EVERY g)
  let l := s.fld (R.STR_RING_LEN g)
  let d := s.fld (R.STR_CHAIN_DRIVERS g (k % 12))
  if l ≠ 0 && n % e = 0 then
    let a := s.fld (R.STR_RING_ADDR_ADDR g) * 64 + 8 * (n / e % l)
    let w := memLE s.mem.store a 8
    if s.storeWordBad a || bits w 7 0 = 0 then none
    else some ⟨bits w 7 0, if bits w 7 0 = 3 then 0 else bits w 15 8, bits w 31 16,
               if bits w 7 0 = 1 then bits w 63 32 else 0, false⟩
  else
    let q := if l ≠ 0 then n - n / e - 1 else n
    let pos := q % (if d < 256 then d + 1 else 256)
    some ⟨3, 0, pos, 0, d < 256 && pos = d⟩

/-- The ring entry read for slot n, where it is poisoned, is logged (R155, R238). -/
def State.logRing (s : State) (k n : Nat) : State :=
  let g := k / 12
  let e := s.fld (R.STR_RING_EVERY g)
  let l := s.fld (R.STR_RING_LEN g)
  if l ≠ 0 && n % e = 0 then s.blockReads (s.fld (R.STR_RING_ADDR_ADDR g) * 64 + 8 * (n / e % l)) 8 (pSTR g) else s

/-- COMMAND after the FRAME; READ and POLL open a return window, in which the port is released. A second takes the
same command without sending it (R223, R224, R234). A slot has one COMMAND, before its PRESENT (R221). -/
def State.commandSend (s : State) (k : Nat) : State := match (s.strand k).slot with
  | none => s
  | some n =>
    let x := s.strand k
    if x.idleOnly || x.aborted || x.commanded || x.presented || (x.mine && !(s.portDrives k && x.framed)) then s
    else match s.slotCommand k n with
      | none => s.logRing k n
      | some c =>
        let opens : Bool := c.op = 2 || c.op = 3
        let s1 := s.setStrand k { x with cmd := some c, window := opens, commanded := true }
        if !x.mine then s1
        else
          let s2 := s1.emit (.strandPacket k (commandPacket c))
          if opens then s2.drivePort k false else s2

/-- STRAND_COMMAND_SEND. -/
def execStrandCommandSend (k : Nat) (s : State) : Res := .next ((s.begin).commandSend k)

/-! ## Returns (R231–R234) -/

/-- A return is refused (R234). -/
def State.refuseReturn (s : State) (k code pos : Nat) : State :=
  let x := s.strand k
  let y := { x with lastCode := code, lastPos := pos % 256
                    retNone := (x.retNone + b2n (code = 1)) % 2 ^ 32
                    long := (x.long + b2n (code = 6)) % 2 ^ 32
                    retBad := (x.retBad + b2n (code ≠ 1 && code ≠ 6)) % 2 ^ 32 }
  (s.setStrand k y).irq (pSTR (k / 12)) (if code = 6 then 2 else 0)

/-- The code of R234 for a report to a command, 0 where it is accepted. -/
def StrandReport.code (r : StrandReport) (c : StrandCmd) : Nat :=
  if r.broken || r.data.length ≠ (if c.op = 3 then 11 else 4) then 2
  else if crc16 (bytesBits ([BitVec.ofNat 8 r.pos, BitVec.ofNat 8 r.kind, BitVec.ofNat 8 r.reg] ++ r.data)) ≠ r.rcrc then 3
  else if r.pos ≠ c.addr then 4
  else if r.kind ≠ c.op || r.reg ≠ c.reg then 5
  else if c.tail then 6
  else 0

/-- An accepted report goes to its counters, the rail loop and the collector (R234, R250, R264). -/
def State.acceptReturn (s : State) (k : Nat) (r : StrandReport) (e : Ecc) : State :=
  let x := s.strand k
  let n := s.nowFrame
  let nHi := n / 2 ^ 32 % 65536
  if r.kind = 3 then
    let status := beAt r.data 0 1
    let bad := decide (status % 64 ≠ 0)
    let heads := [beAt r.data 1 2, beAt r.data 3 2, beAt r.data 5 2]
    let s1 := s.setStrand k { x with retOk := (x.retOk + 1) % 2 ^ 32, lastStatus := status,
                                     drvErr := (x.drvErr + b2n bad) % 2 ^ 32 }
    let s2 := if bad then s1.irq (pSTR (k / 12)) 3 else s1
    (s2.countReport k status heads).telemItem 0 k
      [n % 2 ^ 32, status * 2 ^ 24 + r.pos * 65536 + nHi, heads.getD 1 0 * 65536 + heads.getD 0 0,
       beAt r.data 9 2 * 65536 + heads.getD 2 0, beAt r.data 8 1 * 2 ^ 24 + beAt r.data 7 1 * 65536] e
  else
    (s.setStrand k { x with retOk := (x.retOk + 1) % 2 ^ 32 }).telemItem 1 k
      [n % 2 ^ 32, r.reg * 2 ^ 24 + r.pos * 65536 + nHi, beAt r.data 0 4] e

/-- RETURN_REPORT_RECEIVE: the first report of an open window (R234). -/
def execReturnReportReceive (k : Nat) (r : StrandReport) (e : Ecc) (s : State) : Res :=
  let s := s.begin
  match (s.strand k).cmd with
  | none => .next s
  | some c =>
    if !(s.strand k).window then .next s
    else
      let s1 := s.setStrand k { s.strand k with cmd := none }
      .next (if r.code c ≠ 0 then s1.refuseReturn k (r.code c) c.addr else s1.acceptReturn k r e)

/-- RETURN_WINDOW_CLOSE: the port drives low again, in an aborted slot too (R240); a missing report is refused with NONE (R221 step 6, R234). -/
def execReturnWindowClose (k : Nat) (s : State) : Res :=
  let s := s.begin
  let x := s.strand k
  if !x.window then .next s
  else
    let s1 := match x.cmd with
      | some c => (s.setStrand k { x with cmd := none, window := false }).refuseReturn k 1 c.addr
      | none => s.setStrand k { x with window := false }
    .next (if x.mine && s1.portReady k then s1.drivePort k true else s1)

/-- IDLE_INSERT (R217, R226, R228). -/
def execIdleInsert (k : Nat) (s : State) : Res :=
  let s := s.begin
  .next (if s.maySend k then s.emit (.strandPacket k idlePacket) else s)

/-- PRESENT for the slot's frame, once (R220, R221 step 7). -/
def State.presentSend (s : State) (k : Nat) : State := match (s.strand k).slot with
  | none => s
  | some n =>
    if !s.maySend k || (s.strand k).idleOnly || !(s.strand k).framed || (s.strand k).presented then s
    else
      let s1 := ((s.setStrand k { s.strand k with presented := true }).setFrame R.PRESENT_LAST_LO_N_LO R.PRESENT_LAST_HI_N_HI n).emit
        (.strandPacket k (presentPacket n (s.fld (R.PRESENT_SKEW_LEAD k))))
      if s1.presentedSlot = some n then s1
      else { s1 with presentedSlot := some n }.inc R.PRESENT_CNT_PRESENTED_N

/-- PRESENT_SEND. -/
def execPresentSend (k : Nat) (s : State) : Res := .next ((s.begin).presentSend k)

/-- STRAND_SLOT_RELEASE: step 9 (R221). -/
def execStrandSlotRelease (k : Nat) (s : State) : Res :=
  let s := s.begin
  .next ((s.setStrand k { s.strand k with slot := none, mine := false, cmd := none, window := false }).drivePort k false)

/-! ## Faults (R240, R241) -/

/-- STRAND_ABORT: a word that the port fetches for its slot reads poisoned (R155, R240). -/
def execStrandAbort (k a : Nat) (s : State) : Res :=
  let s := s.begin
  if s.maySend k && (s.strand k).slot.isSome && !(s.strand k).idleOnly then
    .next (((s.poisonStore a).logStoreUe (a / 8 * 8) (pSTR (k / 12))).abortSlot k)
  else .next s

/-- A strand is fenced: its port goes to high impedance (R241). -/
def State.fenceStrand (s : State) (k cause : Nat) : State :=
  let g := k / 12
  let s1 := ((s.drivePort k false).setStrand k { s.strand k with slot := none, mine := false, cmd := none, window := false })
  ((s1.fence (pSTR g) (k % 12) cause 0).setBit (R.STR_STATUS_FENCED g) (k % 12) true).irq (pSTR g) 1

/-- STRAND_CONTENTION: only a driving port samples its line (R241). -/
def execStrandContention (k : Nat) (s : State) : Res :=
  let s := s.begin
  .next (if s.portDrives k then s.fenceStrand k 0x0100 else s)

/-- VIO_FAULT: VIO_STRg moves to a voltage, out of its range or back into it (R241). -/
def execVioFault (g mv : Nat) (s : State) : Res :=
  let s := s.begin
  let back := if vioRange mv = 0 then none
    else if vioRange (s.pins.vioMv.getD g 0) = 0 then some s.now
    else s.pins.vioBack.getD g none
  let s1 := { s with pins := { s.pins with vioMv := s.pins.vioMv.set g mv, vioBack := s.pins.vioBack.set g back } }
  .next (if vioRange mv = 0 && g < 4 then (List.range 12).foldl (fun (t : State) k => t.fenceStrand (12 * g + k) 0x0101) s1
    else s1)

/-- Ports of a group are released for the rest of the slot (R242). -/
def State.releaseGroup (s : State) (g : Nat) : State :=
  (List.range 12).foldl (fun (t : State) k =>
    (t.setStrand (12 * g + k) { t.strand (12 * g + k) with slot := none, mine := false, cmd := none, window := false }).drivePort
      (12 * g + k) false) s

/-- Every port is released. -/
def State.releasePorts (s : State) : State := [0, 1, 2, 3].foldl State.releaseGroup s

/-- STRg_STATUS.FENCED follows the fences (R241). -/
def State.strandsReleased (s : State) (g : Nat) : State :=
  s.setFld (R.STR_STATUS_FENCED g) ((List.range 12).foldl (fun acc k =>
    acc + b2n (s.hasFence (pSTR g) k) * 2 ^ k) 0)

end Sys2Proof.Machine
end

