-- ==== Sys2Proof/Machine/Belay.lean ====
section
/-! DEFINITION. The belay pair (R304–R327): claims, planned handover, frame-CRC comparison, the link, HEART and
resynchronisation. -/
namespace Sys2Proof.Machine

/-! ## Packets (R314, R315) -/

/-- The belay link is up and not fenced (R313, R326). -/
def State.linkUp (s : State) : Bool := s.flag R.BELAY_STATUS_LINK_UP && !s.isFenced pBELAY noUnit

/-- Send a packet over the link (R314). -/
def State.sendBelay (s : State) (ty flags : Nat) (payload : List Byte) : State :=
  if !s.linkUp then s
  else
    let seq := (s.belay.seq + 1) % 2 ^ 32
    let m := [BitVec.ofNat 8 ty, BitVec.ofNat 8 flags] ++ beBytes 2 payload.length ++ beBytes 4 seq ++ payload
    { s with belay := { s.belay with seq := seq } }.emit (.belayPacket (m ++ beBytes 4 (crc32 m)))

/-- Send RESYNC_NAK for the next address expected, 0 before any (R317). -/
def State.sendNak (s : State) : State := s.sendBelay 0x13 0 (beBytes 5 (s.belay.expect.getD 0) ++ [0, 0, 0])

/-- A packet is dropped and counted; a second that copies asks for it again (R314, R317). -/
def State.dropBelay (s : State) : State :=
  let t := s.inc R.BELAY_CNT_LINK_ERR_N
  if t.belay.copying then t.sendNak else t

/-- SEQ of a packet is not one more than that of the packet before (R314). -/
def State.seqSkips (s : State) (seq : Nat) : Bool := match s.belay.rxSeq with
  | some q => seq ≠ (q + 1) % 2 ^ 32
  | none => false

/-- A resynchronisation is abandoned (R320). -/
def State.abandonCopy (s : State) : State :=
  { s.setFld R.BELAY_STATUS_RESYNC_BUSY 0 with belay := { s.belay with
    copying := false, install := none, expect := none, ranges := [], pos := (0, 0), installAt := none, installed := false
    starts := [], differs := 0 } }

/-- An uncorrectable error in the link's buffers fences BELAY; the link is then treated as down, and a resynchronisation
is abandoned (R320, R326). -/
def State.belayEcc (s : State) : State := (s.fenceBlock pBELAY causeEcc).abandonCopy

/-- A packet arrives; while the link is down none passes, and one that the link's buffers lose fences BELAY (R326). A LEN
other than its TYPE's is dropped (R314). A second that copies answers a skip of SEQ with RESYNC_NAK (R317). -/
def State.recvBelay (s : State) (p : BelayPkt) (lenOk : Bool) (k : State → State) : State :=
  if !s.linkUp then s
  else if p.ecc = .uncorrectable then s.belayEcc
  else if !lenOk then s.dropBelay
  else
    let t := { s with belay := { s.belay with rxSeq := some p.seq } }
    k (if s.belay.copying && s.seqSkips p.seq then t.sendNak else t)

/-! ## Triggers and eligibility (R307, R308) -/

/-- PTP_OK of trigger 6 (R307). -/
def State.ptpOk (s : State) : Bool := s.ptpIsLocked && !s.flag R.PTP_ALARM_HOLD60

/-- The active triggers (R307). -/
def State.triggers (s : State) : Nat :=
  let heartOk : Bool := match s.belay.heart with
    | some h => h.ptpOk
    | none => false
  b2n ((List.range 4).any fun g => s.pageFenced (pSTR g)) +
  2 * b2n (s.pageFenced pPIPE || s.fld R.PIPE_STATUS_LANE_FENCED ≠ 0) +
  4 * b2n (s.pageFenced pCAL) +
  8 * b2n s.abortSeen +
  16 * b2n (s.pageFenced pINGEST || s.pageFenced pXSDEC || (!s.flag (R.NET_LINK_UP 0) && !s.flag (R.NET_LINK_UP 1))) +
  32 * b2n s.belay.commitTrigger +
  64 * b2n (!s.ptpOk && heartOk)

/-- The triggers whose bit of YIELD_EN is 1. -/
def State.yieldTriggers (s : State) : Nat := Nat.land s.triggers (s.fld R.BELAY_CFG_YIELD_EN)

/-- The partner's generation in force, as its HEART shows it. -/
def Heart.gen (h : Heart) : Option Nat :=
  ((List.range 4).find? fun k => h.slotState.getD k 0 = slotInForce).map fun k => h.slotGen.getD k 0

/-- The generation in force is the partner's. -/
def State.genMatches (s : State) : Bool := match s.belay.heart with
  | some h => s.commit.cur.isSome && h.gen = some s.curGen
  | none => false

/-- The module is eligible (R308). -/
def State.isEligible (s : State) : Bool :=
  let waited : Bool := match s.timing, s.belay.syncedAt with
    | some t, some n => n + t.lPresent + 2 ≤ s.nowFrame
    | _, _ => false
  s.linkUp && s.flag R.BELAY_STATUS_SYNCED && s.flag R.BELAY_STATUS_SCREE_SYNCED && waited && s.genMatches && s.inRun &&
    s.yieldTriggers = 0

/-- BELAY_STATUS follows. -/
def State.showBelay (s : State) : State :=
  s.setFlds [(R.BELAY_STATUS_TRIGGERS, s.triggers), (R.BELAY_STATUS_ELIGIBLE, b2n s.isEligible)]

/-- Set SYNCED and SCREE_SYNCED. -/
def State.setSynced (s : State) (scree : Bool) : State :=
  { s.setFlds [(R.BELAY_STATUS_SYNCED, 1), (R.BELAY_STATUS_SCREE_SYNCED, b2n scree)]
    with belay := { s.belay with syncedAt := some s.nowFrame } }

/-! ## Lead role (R304, R305, R309, R310) -/

/-- Record a change of role at frame n (BELAY_CHANGE). -/
def State.changeLead (s : State) (n : Nat) (lead : Bool) (cause : Nat) : State :=
  let s1 := s.setFrame R.BELAY_CHANGE_LO_N_LO R.BELAY_CHANGE_HI_N_HI n
  let s2 := s1.setFlds [(R.BELAY_STATUS_LEAD, b2n lead), (R.BELAY_CHANGE_INFO_TO_LEAD, b2n lead), (R.BELAY_CHANGE_INFO_CAUSE, cause)]
  let s3 := { s2.inc R.BELAY_CNT_HANDOVER_N with
    pins := { s2.pins with leadLow := lead, partnerLeadLow := if lead then false else s2.pins.partnerLeadLow }
    belay := { s2.belay with lastChange := some n } }
  (if lead then s3.abandonCopy.setSynced true else s3.abandonCopy).irq pBELAY 0

/-- The module-wide conditions of R211 for slot n: a generation in force, or named by the COMMIT for n, in RUN or REST
(R305). -/
def State.mayClaim (s : State) (n : Nat) : Bool := (s.commit.cur.isSome || (s.caseSlot n).isSome) && s.inRun && !s.storeCtl.unusable

/-- LEAD_CLAIM (R305). -/
def execLeadClaim (n : Nat) (s : State) : Res :=
  let s := s.begin
  .next (if !s.isLead && s.mayClaim n then ((s.changeLead n true 0x10).claimRails).showRails else s)

/-- The lowest trigger bit of a TRIGGERS field, plus 1. -/
def lowTrigger (t : Nat) : Nat := ((List.range 8).find? fun b => bitSet t b).getD 0 + 1

/-- A lead with an active trigger yields at D(n) for frame n + 1 (R309, R311). -/
def State.maybeYield (s : State) (n : Nat) : State :=
  let far : Bool := match s.belay.lastChange with
    | some c => c + 16 ≤ n
    | none => true
  if s.isLead && s.yieldTriggers ≠ 0 && s.flag R.BELAY_STATUS_PARTNER_ELIGIBLE && s.linkUp && far && s.belay.yielded.isNone &&
      s.belay.release.isNone then
    { s.sendBelay 0x03 0 (beBytes 6 (n + 1) ++ [BitVec.ofNat 8 s.yieldTriggers, 0])
      with belay := { (s.sendBelay 0x03 0 (beBytes 6 (n + 1) ++ [BitVec.ofNat 8 s.yieldTriggers, 0])).belay with
        yielded := some (n + 1, s.yieldTriggers) } }
  else s

/-- YIELD_RECEIVE (R309). -/
def execYieldReceive (p : BelayPkt) (s : State) : Res :=
  .next ((s.begin).recvBelay p (p.payload.length = 8) fun t =>
    let fn := beAt p.payload 0 6
    let decline := fun (r : Nat) => t.sendBelay 0x05 0 (beBytes 6 fn ++ [BitVec.ofNat 8 r, 0])
    if t.isLead then decline 3
    else if fn ≤ t.nowFrame then decline 2
    else if !t.isEligible then decline 1
    else
      let u := t.sendBelay 0x04 0 (beBytes 6 fn ++ [0, 0])
      { u with belay := { u.belay with takeover := some (fn, lowTrigger (beAt p.payload 6 1)) } })

/-- ACCEPT_RECEIVE: the release is armed (R309). -/
def execAcceptReceive (p : BelayPkt) (s : State) : Res :=
  .next ((s.begin).recvBelay p (p.payload.length = 8) fun t => match t.belay.yielded with
    | some (fn, tr) =>
      if beAt p.payload 0 6 = fn && t.isLead then
        { t with belay := { t.belay with yielded := none, release := some (fn, lowTrigger tr) } }
      else t
    | none => t)

/-- DECLINE_RECEIVE: the lead stays lead (R309); the deadline counts the handover as aborted. -/
def execDeclineReceive (p : BelayPkt) (s : State) : Res :=
  .next ((s.begin).recvBelay p (p.payload.length = 8) fun t => t)

/-- HANDOVER_ACCEPT_DEADLINE (R309). -/
def execHandoverAcceptDeadline (n : Nat) (s : State) : Res :=
  let s := s.begin
  match s.belay.yielded with
  | some (fn, _) =>
    if fn = n then .next ({ s with belay := { s.belay with yielded := none } }.inc R.BELAY_CNT_HO_ABORT_N) else .next s
  | none => .next s

/-- HANDOVER_LEAD_RELEASE (R310). -/
def execHandoverLeadRelease (n : Nat) (s : State) : Res :=
  let s := s.begin
  match s.belay.release with
  | some (fn, cause) =>
    if fn = n && s.isLead then
      let s1 := ({ s with belay := { s.belay with release := none } }.changeLead n false cause).record pBELAY 0 noUnit 0
      .next (s1.giveRails)
    else .next s
  | none => .next s

/-- HANDOVER_NEW_LEAD_SAMPLE (R310). -/
def execHandoverNewLeadSample (n : Nat) (high : Bool) (s : State) : Res :=
  let s := s.begin
  match s.belay.takeover with
  | some (fn, cause) =>
    if fn ≠ n then .next s
    else
      let s1 := { s with belay := { s.belay with takeover := none } }
      if high && !s1.isLead then
        .next ((((s1.changeLead n true cause).record pBELAY 0 noUnit 0).takeRails).showRails)
      else .next (s1.inc R.BELAY_CNT_HO_ABORT_N)
  | none => .next s

/-! ## Frame CRCs (R312) -/

/-- A frame is counted as skipped. -/
def State.skipCrc (s : State) (n : Nat) : State :=
  { s.inc R.BELAY_CNT_CRC_SKIP_N with belay := { s.belay with compared := n :: s.belay.compared.take 32 } }

/-- Compare both messages of frame n once both are held (R312). -/
def State.compareCrc (s : State) (n : Nat) : State :=
  if s.belay.compared.contains n then s
  else match s.belay.own.find? fun f => f.frame = n, s.belay.partner.find? fun f => f.frame = n with
    | some a, some b =>
      let screeBoth : Bool := s.flag R.BELAY_STATUS_SCREE_SYNCED && match s.belay.heart with
        | some h => h.screeSynced
        | none => false
      let comparable := s.flag R.BELAY_CFG_CRC_CMP && a.gen = b.gen && a.kase = b.kase &&
        (!(a.kase = 2 || a.kase = 5 || a.kase = 7) || screeBoth)
      if !comparable then s.skipCrc n
      else
        let groups := (List.range 4).filter fun g => !bitSet a.lanes g && !bitSet b.lanes g
        let diff := groups.filter fun g => a.crcs.getD g 0 ≠ b.crcs.getD g 0
        let s1 := { s with belay := { s.belay with compared := n :: s.belay.compared.take 32 } }
        if diff = [] then s1.inc R.BELAY_CNT_CRC_OK_N
        else
          ((((s1.inc R.BELAY_CNT_CRC_MISMATCH_N).setFrame R.BELAY_CRC_LAST_LO_N_LO R.BELAY_CRC_LAST_HI_N_HI n).setFld
            R.BELAY_CRC_LAST_HI_GROUPS (diff.foldl (fun acc g => acc + 2 ^ g) 0))).event pBELAY 1 noUnit 0
    | _, _ => s

/-- Send the FRAME_CRC of frame n (R312). -/
def State.sendFrameCrc (s : State) (n : Nat) : State :=
  if s.partnerId.isNone || s.belay.own.any (fun f => f.frame = n) then s
  else
    let kase := ((s.commit.cases.find? fun c => c.frame = n).map (·.kase)).getD (s.fld R.COMMIT_LAST_CASE)
    let crcs := ((s.commit.crcs.find? fun (c : Nat × List Nat) => c.1 = n).map fun (c : Nat × List Nat) => c.2).getD
      ((List.range 4).map fun g => s.fld (R.STR_PAYLOAD_CRC_CRC g))
    let f : FrameCrc := ⟨n, s.fld R.COMMIT_GEN_CUR_GEN, kase, s.fld R.PIPE_STATUS_LANE_FENCED, crcs⟩
    let s1 := s.sendBelay 0x02 0 (beBytes 6 n ++ beBytes 2 f.gen ++ [BitVec.ofNat 8 kase, BitVec.ofNat 8 f.lanes, 0, 0] ++
      crcs.flatMap (beBytes 4) ++ [0, 0, 0, 0])
    ({ s1 with belay := { s1.belay with own := f :: s1.belay.own.take 7 } }).compareCrc n

/-- FRAME_CRC_RECEIVE (R312). -/
def execFrameCrcReceive (p : BelayPkt) (s : State) : Res :=
  .next ((s.begin).recvBelay p (p.payload.length = 32) fun t =>
    let b := p.payload
    let f : FrameCrc := ⟨beAt b 0 6, beAt b 6 2, beAt b 8 1, bits (beAt b 9 1) 3 0,
      (List.range 4).map fun g => beAt b (12 + 4 * g) 4⟩
    ({ t with belay := { t.belay with partner := f :: t.belay.partner.take 7 } }).compareCrc f.frame)

/-! ## HEART (R316) -/

/-- Seconds and nanoseconds of frame time. -/
def timeBytes (ns : Nat) : List Byte := beBytes 6 (ns / 1000000000) ++ beBytes 4 (ns % 1000000000)
/-- Frame time of seconds and nanoseconds at a byte. -/
def timeAt (b : List Byte) (a : Nat) : Nat := beAt b a 6 * 1000000000 + beAt b (a + 6) 4

/-- The RAIL block of rail r. -/
def State.heartRail (s : State) (r : Nat) : List Byte :=
  let x := s.rail r
  beBytes 2 (s.fld (R.RAIL_OUT_TARGET r)) ++ beBytes 2 (s.fld (R.RAIL_OUT_OUTPUT r)) ++ beBytes 2 x.hmin ++
    beBytes 2 x.reports ++ [BitVec.ofNat 8 x.stale, BitVec.ofNat 8 (b2n (s.bit R.RAIL_STATUS_NODATA r) + 2 * b2n (x.stage = 4))]

/-- The payload of a HEART. -/
def State.heartBytes (s : State) : List Byte :=
  let st := b2n s.isLead + 2 * b2n s.isEligible + 4 * b2n (s.flag R.BELAY_STATUS_SYNCED) +
    8 * b2n (s.flag R.BELAY_STATUS_SCREE_SYNCED) + 16 * b2n s.cpDown + 32 * b2n s.commit.cur.isSome + 64 * b2n s.ptpOk
  let echo := match s.belay.heart with
    | some h => timeBytes h.tSend ++ timeBytes h.tRx
    | none => List.replicate 20 0
  [BitVec.ofNat 8 st, BitVec.ofNat 8 s.triggers] ++ beBytes 2 (s.ownId.getD 0xFFFF) ++
    ((List.range 4).flatMap fun k => beBytes 2 (s.slotGen k)) ++
    ((List.range 4).map fun k => BitVec.ofNat 8 (s.slotState k)) ++ timeBytes s.ptp.ns ++ echo ++ [0, 0] ++
    ((List.range 12).flatMap s.heartRail) ++ List.replicate 24 0

/-- HEART_SEND. -/
def execHeartSend (s : State) : Res :=
  let s := s.begin
  .next (if s.gridRuns then (s.showBelay).sendBelay 0x01 0 s.heartBytes else s)

/-- A second adopts the lead's rail state (R254); a rail that enters NODATA by it raises its event (R251). -/
def State.adoptRail (s : State) (b : List Byte) (r : Nat) : State :=
  let o := 48 + 10 * r
  if s.railMode r = 0 then s
  else
    let fl := beAt b (o + 9) 1
    let x := s.rail r
    let s1 := s.setRail r { x with
      hmin := beAt b (o + 4) 2, reports := beAt b (o + 6) 2, stale := beAt b (o + 8) 1, adopted := some s.ptp.ns
      stage := if bitSet fl 1 then 4 else x.stage }
    let s2 := (s1.setFlds [(R.RAIL_OUT_TARGET r, beAt b o 2), (R.RAIL_OUT_OUTPUT r, beAt b (o + 2) 2)]).setBit
      R.RAIL_STATUS_NODATA r (bitSet fl 0)
    (if bitSet fl 0 && !s.bit R.RAIL_STATUS_NODATA r then s2.irq pRAIL 0 else s2).showRail r

/-- HEART_RECEIVE. -/
def execHeartReceive (p : BelayPkt) (rx : Nat) (s : State) : Res :=
  .next ((s.begin).recvBelay p (p.payload.length = 192) fun t =>
    let b := p.payload
    let st := beAt b 0 1
    let h : Heart :=
      { lead := bitSet st 0, eligible := bitSet st 1, screeSynced := bitSet st 3, cpDown := bitSet st 4
        genValid := bitSet st 5, ptpOk := bitSet st 6
        slotGen := (List.range 4).map fun k => beAt b (4 + 2 * k) 2
        slotState := (List.range 4).map fun k => beAt b (12 + k) 1
        tSend := timeAt b 16, tRx := rx }
    let seen := t.flag R.BELAY_STATUS_PARTNER_SEEN
    let t1 := { t with belay := { t.belay with heart := some h }
                       pins := { t.pins with partnerLeadLow := h.lead } }
    let off : Int := tdiv (((timeAt b 36 : Int) - timeAt b 26) + ((timeAt b 16 : Int) - rx)) 2
    let t2 := if timeAt b 26 = 0 then t1
      else (t1.setFld R.BELAY_OFFSET_NS (ofSigned 32 (satS 32 off))).setFld R.BELAY_STATUS_OFFSET_ALARM
        (b2n (decide (2000 < off.natAbs)))
    let t3 := t2.setFlds [(R.BELAY_STATUS_PARTNER_SEEN, 1), (R.BELAY_STATUS_PARTNER_ELIGIBLE, b2n h.eligible),
      (R.BELAY_STATUS_PARTNER_TRIG, beAt b 1 1)]
    let t4 := if seen then t3 else t3.irq pBELAY 2
    let t5 := if t4.isLead || !h.lead then t4 else (List.range 12).foldl (fun (u : State) r => u.adoptRail b r) t4
    let t6 := if t5.belay.copying && !(h.lead && h.genValid) then t5.abandonCopy else t5
    t6.showBelay)

/-! ## The link (R313, R314) -/

/-- BELAY_PACKET_ERROR: dropped and counted; a copy asks for it again (R314, R317). While the link is down or BELAY fenced
no packet passes (R326). -/
def execBelayPacketError (s : State) : Res :=
  let s := s.begin
  .next (if s.linkUp then s.dropBelay else s)

/-- BELAY_LINK_UP. -/
def execBelayLinkUp (s : State) : Res :=
  let s := s.begin
  .next (if s.flag R.BELAY_STATUS_LINK_UP then s
    else ({ s.setFld R.BELAY_STATUS_LINK_UP 1 with belay := { s.belay with rxSeq := none } }).irq pBELAY 2)

/-- BELAY_LINK_DOWN: a resynchronisation is abandoned (R313, R320). -/
def execBelayLinkDown (s : State) : Res :=
  let s := s.begin
  .next (if s.flag R.BELAY_STATUS_LINK_UP then
    ((((s.setFld R.BELAY_STATUS_LINK_UP 0).inc R.BELAY_CNT_LINK_DOWN_N).abandonCopy).irq pBELAY 2).showBelay
  else s)

/-- PARTNER_LOST (R313). -/
def execPartnerLost (s : State) : Res :=
  let s := s.begin
  .next (if s.flag R.BELAY_STATUS_PARTNER_SEEN then (s.setFld R.BELAY_STATUS_PARTNER_SEEN 0).irq pBELAY 2 else s)

/-! ## Resynchronisation (R317–R321) -/

/-- A second clears SYNCED and SCREE_SYNCED (R321). -/
def State.clearSynced (s : State) : State :=
  { s.setFlds [(R.BELAY_STATUS_SYNCED, 0), (R.BELAY_STATUS_SCREE_SYNCED, 0)]
    with belay := { s.belay with syncedAt := none } }

/-- RESYNC_START (R317). -/
def execResyncStart (s : State) : Res :=
  let s := s.begin
  match s.belay.heart with
  | some h =>
    if !s.isLead && s.linkUp && h.lead && h.genValid && 2 ≤ s.belay.differs && !s.belay.copying then
      let s1 := (s.clearSynced.setFlds [(R.BELAY_STATUS_RESYNC_BUSY, 1), (R.BELAY_RESYNC_KIB_KIB, 0)])
      .next ({ s1 with belay := { s1.belay with
        copying := true, since := s1.ptp.ns, expect := none, bytes := 0, screeBytes := 0, starts := [], install := none } }.sendBelay
        0x10 0 (List.replicate 8 0))
    else .next s
  | none => .next s

/-- The byte ranges that a slot references (R317): descriptor, calibration table, LUTs, reorder table, rail map, share
tables and rings. -/
def State.slotRanges (s : State) (g : GenSlot) : List CopyRange :=
  let a := g.addr
  let sec := fun (page : Nat) => ((s.secRead a page 1).bytes?).getD []
  let ing := g.ingest.getD []
  let npix := secFld ing R.INGEST_SEG_W * secFld ing R.INGEST_SEG_H
  let pipe := sec pPIPE
  let dirA := leAt pipe 12 4 * 64
  let last := (List.range 48).foldl (fun m i =>
    max m (memLE s.mem.store (dirA + 8 * i) 4 + memLE s.mem.store (dirA + 8 * i + 4) 4)) 0
  let str := (List.range 4).flatMap fun g =>
    let b := sec (pSTR g)
    [CopyRange.mk (leAt b 0x10 4 * 64) 6144 false, CopyRange.mk (leAt b 0x0C 4 * 64) (8 * bits (leAt b 8 4) 6 0) false]
  [CopyRange.mk a (memLE s.mem.store (a + 8) 4) false, CopyRange.mk (leAt (sec pCAL) 0 4 * 64) (24 * npix) false,
   CopyRange.mk (leAt pipe 8 4 * 64) 49152 false, CopyRange.mk dirA (384 + 4 * last) false,
   CopyRange.mk (secFld (sec pGOV) R.GOV_RAILMAP_ADDR_ADDR * 64) (2 * npix) false] ++ str

/-- The scree loop of the generation in force (R320). -/
def State.screeRange (s : State) : List CopyRange := match s.commit.bank with
  | some b => [CopyRange.mk (b.screeBase.getD 0 * 64) (b.lScree * screeStride b.segW b.segH) true]
  | none => []

/-- Every range of the slots that are STAGED, READY or IN_FORCE, each once (R317). -/
def State.copyRanges (s : State) : List CopyRange :=
  let slots := (List.range 4).filter fun k =>
    s.slotState k = slotStaged || s.slotState k = slotReady || s.slotState k = slotInForce
  ((slots.flatMap fun k => s.slotRanges (s.slot k)).filter fun (r : CopyRange) => r.len ≠ 0).eraseDups

/-- RESYNC_REQ_RECEIVE: the lead queues every range once (R317). -/
def execResyncReqReceive (p : BelayPkt) (s : State) : Res :=
  .next ((s.begin).recvBelay p (p.payload.length = 8) fun t =>
    if !t.isLead then t
    else
      { t.setFld R.BELAY_STATUS_RESYNC_BUSY 1 with belay := { t.belay with
        ranges := t.copyRanges, pos := (0, 0), installAt := none, installed := false } })

/-- RESYNC_DATA_SEND: the next packet; slots staged meanwhile follow (R318); after the last core range, M is chosen; after the install, the scree loop
(R317, R319, R320). -/
def State.dataSend (s : State) : State :=
  match s.belay.ranges.drop s.belay.pos.1 with
  | r :: _ =>
    let n := min 256 (r.len - s.belay.pos.2)
    let n8 := (n + 7) / 8 * 8
    let a := r.addr + s.belay.pos.2
    let s1 := (s.blockReads a n pBELAY).sendBelay 0x11 (b2n r.scree) (beBytes 5 a ++ [0, 0, 0] ++ s.storeRead a n8)
    let off := s.belay.pos.2 + n
    let pos := if off < r.len then (s.belay.pos.1, off) else (s.belay.pos.1 + 1, 0)
    let s2 := { s1 with belay := { s1.belay with pos := pos } }
    if pos.1 < s.belay.ranges.length then s2
    else if r.scree then s2.setFld R.BELAY_STATUS_RESYNC_BUSY 0
    else
      let fresh := s2.copyRanges.filter fun (x : CopyRange) => !s2.belay.ranges.contains x
      if fresh = [] then { s2 with belay := { s2.belay with installAt := some (s2.nowFrame + 2) } }
      else { s2 with belay := { s2.belay with ranges := s2.belay.ranges ++ fresh } }
  | [] => s

/-- RESYNC_DATA_SEND. -/
def execResyncDataSend (s : State) : Res :=
  let s := s.begin
  .next (if s.isLead && s.linkUp && s.flag R.BELAY_STATUS_RESYNC_BUSY then s.dataSend else s)

/-- At D(M), with its COMMIT for M held, the lead sends RESYNC_INSTALL, and the scree loop follows; without one it
chooses a later M (R319, R320). -/
def State.sendInstall (s : State) (n : Nat) (held : Option Commit) : State :=
  if s.belay.installAt ≠ some n || !s.isLead then s
  else match held with
    | none => { s with belay := { s.belay with installAt := some (n + 2) } }
    | some c =>
      let switches : Bool := c.status = 0 && c.gen = s.readyGen && s.readyGen ≠ 0
      let slot := fun k =>
        let st := s.slotState k
        let at_m := if switches && st = slotReady then slotInForce
          else if switches && st = slotInForce then slotRetired else st
        beBytes 2 (s.slotGen k) ++ [BitVec.ofNat 8 at_m, 0]
      let ann := match s.commit.announce with
        | some a => beBytes 2 a.gen ++ beBytes 2 (b2n a.withdraw * 256) ++ beBytes 6 a.notBefore ++ [0, 0] ++ a.digest
        | none => List.replicate 44 0
      let s1 := s.sendBelay 0x12 0 (beBytes 6 n ++ [0, 0] ++ (List.range 4).flatMap slot ++ ann ++ [0, 0, 0, 0])
      { s1 with belay := { s1.belay with installAt := none, installed := true, ranges := s1.screeRange, pos := (0, 0) } }

/-- The place of a store address among the ranges being copied. -/
def State.placeOf (s : State) (a : Nat) : Option (Nat × Nat) :=
  ((List.range s.belay.ranges.length).find? fun i =>
    let r := s.belay.ranges.getD i ⟨0, 0, false⟩
    r.addr ≤ a && a < r.addr + r.len).map fun i => (i, a - (s.belay.ranges.getD i ⟨0, 0, false⟩).addr)

/-- The lead sends again from an address, and from the first range where it is in none: a second that has received
nothing yet has no address to name (R317; assumption log, entry 29). -/
def State.resend (s : State) (a : Nat) : State :=
  if s.belay.ranges = [] then s
  else { s.setFld R.BELAY_STATUS_RESYNC_BUSY 1 with belay := { s.belay with
    pos := (s.placeOf a).getD (0, 0), installAt := none } }

/-- RESYNC_NAK_RECEIVE: the lead resends from the address (R317). -/
def execResyncNakReceive (p : BelayPkt) (s : State) : Res :=
  .next ((s.begin).recvBelay p (p.payload.length = 8) fun t => if t.isLead then t.resend (beAt p.payload 0 5) else t)

/-- Bytes of the scree loop that the second expects, once its generation is installed. -/
def State.screeBytesDue (s : State) : Nat := (s.screeRange.map (·.len)).sum

/-- The second writes a packet of the copy to its store address; the last of the scree loop completes it (R317, R320). -/
def State.takeData (t : State) (a : Nat) (data : List Byte) (scree : Bool) : State :=
  let t1 := if t.flag R.STORE_STATUS_INIT_DONE then t.blockWrite a data pBELAY
    else { t with storeCtl := { t.storeCtl with waiting := t.storeCtl.waiting ++ [(a, data)] } }
  let bytes := t.belay.bytes + data.length
  let t2 := { t1 with belay := { t1.belay with
    expect := some (a + data.length), bytes := bytes
    screeBytes := t.belay.screeBytes + (if scree then data.length else 0)
    starts := if t.belay.expect = some a then t.belay.starts else t.belay.starts ++ [a] } }
  let t3 := t2.setFld R.BELAY_RESYNC_KIB_KIB (bytes / 1024)
  if scree && t3.flag R.BELAY_STATUS_SYNCED && t3.screeBytesDue ≤ t3.belay.screeBytes then
    ({ t3.setFlds [(R.BELAY_STATUS_SCREE_SYNCED, 1), (R.BELAY_STATUS_RESYNC_BUSY, 0)] with
      belay := { t3.belay with copying := false } }).irq pBELAY 3
  else t3

/-- RESYNC_DATA_RECEIVE: the data goes to the same store address, unless SEQ skipped and RESYNC_NAK asks for it again
(R317, R320). -/
def execResyncDataReceive (p : BelayPkt) (s : State) : Res :=
  let s := s.begin
  let n := p.payload.length
  .next (s.recvBelay p (8 < n && n ≤ 264 && n % 8 = 0) fun t =>
    if !t.belay.copying || t.storeCtl.unusable || s.seqSkips p.seq then t
    else t.takeData (beAt p.payload 0 5) (p.payload.drop 8) (bitSet p.flags 0))

/-- RESYNC_INSTALL_RECEIVE (R319). -/
def execResyncInstallReceive (p : BelayPkt) (s : State) : Res :=
  .next ((s.begin).recvBelay p (p.payload.length = 72) fun t =>
    if !t.belay.copying then t
    else
      let b := p.payload
      let slots := (List.range 4).map fun k => (beAt b (8 + 4 * k) 2, beAt b (10 + 4 * k) 1)
      let ann : Option Announce := if beAt b 24 2 = 0 then none
        else some ⟨beAt b 24 2, bitSet (beAt b 26 1) 0, beAt b 28 6, (b.drop 36).take 32⟩
      { t with belay := { t.belay with install := some ⟨beAt b 0 6, slots, ann⟩ } })

/-- The descriptor of a generation among the ranges received: the address of the one that begins with its header
(assumption log, entry 11). -/
def State.descriptorAt (s : State) (gen : Nat) : Option Nat :=
  s.belay.starts.find? fun a => memLE s.mem.store a 4 = 0x47454E31 && memLE s.mem.store (a + 4) 2 = gen

/-- The slot states and the GEN_ANNOUNCE of an install become the second's own (R319). The generation in force is taken
by the switch of the frame boundary. -/
def State.installSlots (s : State) (x : Install) : State :=
  let put := fun (t : State) (k : Nat) =>
    let g := x.slots.getD k (0, 0)
    let st := if g.2 = slotReady then slotStaged else g.2
    let t1 := match t.descriptorAt g.1 with
      | some a => t.setSlot k (t.readSlot a (t.commit.staged + 1 + k))
      | none => t
    t1.setFlds [(R.COMMIT_SLOT_STATE k, st), (R.COMMIT_SLOT_GEN k, g.1)]
  let s1 := (List.range 4).foldl put s
  let s2 := { s1 with commit := { s1.commit with announce := x.announce, staged := s1.commit.staged + 4, readyBank := none } }
  let s3 := s2.setSynced false
  (({ s3 with belay := { s3.belay with install := none } }.setFld R.BELAY_RESYNC_MS_MS
    ((s3.ptp.ns - s3.belay.since) / 1000000)).inc R.BELAY_CNT_RESYNC_N).irq pBELAY 3

/-- What a frame boundary settles of SYNCED (R317, R321). -/
def State.belayBoundary (s : State) : State := match s.belay.heart with
  | none => s
  | some h =>
    if s.isLead || !h.lead then { s with belay := { s.belay with differs := 0, equals := 0 } }
    else
      let gen := if s.commit.cur.isSome then some s.curGen else none
      let differs : Bool := gen ≠ h.gen || gen.isNone
      let same : Bool := !differs && (List.range 4).all fun k =>
        s.slotGen k = h.slotGen.getD k 0 && s.slotState k = h.slotState.getD k 0
      let s1 := { s with belay := { s.belay with
        differs := if differs then s.belay.differs + 1 else 0
        equals := if same then s.belay.equals + 1 else 0 } }
      let s2 := if 2 ≤ s1.belay.differs then s1.clearSynced else s1
      if 2 ≤ s2.belay.equals && !s2.flag R.BELAY_STATUS_SYNCED && !s2.belay.copying then s2.setSynced true else s2

/-- Trigger 5 at D(n): no COMMIT held here at D(n − 1) or D(n − 2), while the partner held one at both (R307, R312). -/
def State.commitTrigger (s : State) (n : Nat) : Bool :=
  let partnerHeld := fun (f : Nat) => s.belay.partner.any fun c => c.frame = f && (c.kase ≤ 3 || c.kase = 7)
  2 ≤ n && !s.belay.held.contains (n - 1) && !s.belay.held.contains (n - 2) && partnerHeld (n - 1) && partnerHeld (n - 2)

/-- D(n) notes its trigger and whether it had a COMMIT. -/
def State.noteDue (s : State) (n : Nat) (held : Option Commit) : State :=
  { s with belay := { s.belay with
    commitTrigger := s.commitTrigger n
    held := if held.isSome then n :: s.belay.held.take 7 else s.belay.held } }

/-- The window of trigger 3 ends (R307). -/
def State.abortsSeen (s : State) : State := { s with abortSeen := false }

/-- What D(n) does on the belay side, `held` being the COMMIT used (R307, R309, R319). -/
def State.belayDue (s : State) (n : Nat) (held : Option Commit) : State :=
  ((((s.noteDue n held).showBelay).maybeYield n).sendInstall n held).abortsSeen

end Sys2Proof.Machine
end

