-- ==== Sys2Proof/Machine/Frame.lean ====
section
/-! DEFINITION. The frame grid: what D(N) settles (R41, R42, R530), what P(N) brings into effect (R28, R79, R102, R205),
the acting roles that follow COMMITs (R299–R303), and the end of a burst (R163). -/
namespace Sys2Proof.Machine

/-! ## The COMMIT used (R94, R303) -/

/-- The COMMIT used for frame n: of those held, the one from the lowest module ID; a fenced PARTY holds none (R303,
R326). -/
def State.usedCommit (s : State) (n : Nat) : Option Commit :=
  if s.partyFenced then none
  else (s.commit.held.filter fun c => c.frame = n).foldl (fun (acc : Option Commit) c => match acc with
    | none => some c
    | some d => if c.sender < d.sender then some c else some d) none

/-- COMMITs for frame n from both candidates are counted (R303). -/
def State.noteConflict (s : State) (n : Nat) : State :=
  if !s.partyFenced && 1 < (s.commit.held.filter fun c => c.frame = n).length then
    (s.inc R.PARTY_CNT_CONFLICT_N).irq pPARTY 2
  else s

/-- The current summit follows the COMMIT used (R302). -/
def State.followSummit (s : State) (used : Option Commit) : State := match used with
  | none => { s with party := { s.party with noSummit := s.party.noSummit + 1 } }
  | some c =>
    let s1 := { s with party := { s.party with noSummit := 0, silent := 0, lastGain := some c.gain } }
    if s1.currentSummit = some c.sender then s1 else (s1.setFld R.PARTY_ROLE_CURRENT c.sender).irq pPARTY 0

/-- A listening candidate that holds the other candidate's COMMIT at a D; a fenced PARTY holds none (R299, R326). -/
def State.hearOther (s : State) (n : Nat) : State :=
  if s.role = roleListening && !s.partyFenced && s.commit.held.any fun c => c.frame = n && some c.sender ≠ s.ownId then
    { s with party := { s.party with heard := true } }
  else s

/-- An acting summit sends the COMMITs of the frames past `n` whose quorum it has closed already, in frame order (R299,
R301). -/
def State.sendClosed (s : State) (n : Nat) : State :=
  (s.party.closes.filter fun q => n < q.frame && !q.sent).reverse.foldl State.sendCommit s

/-- GAIN of the last COMMIT the module held: of those waiting for their D that for the latest frame, else the one used
last (R202). -/
def State.newestGain (s : State) : Nat :=
  match s.commit.held.foldl (fun (acc : Option Commit) c => match acc with
    | none => some c
    | some d => if d.frame ≤ c.frame then some c else some d) none with
  | some c => c.gain
  | none => s.party.lastGain.getD 0

/-- The candidate becomes acting summit after frame n: `prev` starts from the last COMMIT held (R202, R301), and it knows
no leases (R324). -/
def State.becomeSummit (s : State) (n : Nat) : State :=
  let p := { s.party with silent := 0, repeatRun := 0, prev := s.newestGain, summitAt := s.ptp.ns }
  let t := { s with party := p, lcp := { s.lcp with leases := [] } }
  ((t.setFld R.PARTY_ROLE_ROLE roleSummit).irq pPARTY 0).sendClosed n

/-- A standby counts the frames without a COMMIT, and takes over at the third (R301). -/
def State.standbyWatch (s : State) (n : Nat) (used : Option Commit) : State :=
  if s.role ≠ roleStandby || used.isSome then s
  else if s.party.silent + 1 < 3 then { s with party := { s.party with silent := s.party.silent + 1 } }
  else ((s.inc R.PARTY_CNT_TAKEOVER_N).record pPARTY 0 noUnit 0).becomeSummit n

/-! ## D(N) (R41, R42, R103, R134, R143, R530) -/

/-- The slot whose generation renders frame n: the one the COMMIT names, else the last in force (R41, R163). -/
def State.frameSlot (s : State) (used : Option Commit) : Option Nat := match used with
  | some c => match s.slotOfGen c.gen with
    | some k => some k
    | none => s.commit.cur
  | none => s.commit.cur

/-- The COMMIT makes the READY slot the generation in force at P(n) (R94). -/
def State.switches (s : State) (used : Option Commit) : Bool := match used with
  | some c => c.status = 0 && s.frameSlot used ≠ s.commit.cur && (s.frameSlot used).isSome
  | none => false

/-- Slot k's ingest section differs from that of the generation in force, or none is in force (R103, R134). -/
def State.ingestDiffers (s : State) (k : Nat) : Bool := match s.commit.cur with
  | some c => (s.slot k).ingest ≠ (s.slot c).ingest
  | none => true

/-- The COMMIT's switch is noted: the frames it tears and the ingest section to come (R132, R134). -/
def State.noteSwitch (s : State) (t : Timing) (n : Nat) (used : Option Commit) : State :=
  if !s.switches used then s
  else match s.frameSlot used with
    | none => s
    | some k =>
      { s with commit := { s.commit with tornTo := if s.ingestDiffers k then n + t.lPresent else s.commit.tornTo }
               ingest := { s.ingest with next := (s.slot k).ingest.map fun sec => (n, sec) } }

/-- The HAVE for f reported it complete. -/
def State.closedComplete (s : State) (f : Nat) : Bool := s.ingest.closed.any fun c => c.frame = f && c.complete

/-- Missing packets of f as its HAVE found them. -/
def State.closedMiss (s : State) (f : Nat) : Nat := ((s.ingest.closed.find? fun c => c.frame = f).map (·.miss)).getD 0

/-- The case and what it renders when it names the repeat source (R41, R530). -/
def State.repeatCase (s : State) (held absent : Nat) : Nat × Nat :=
  if s.storeCtl.repeatFrame.isSome then (held, 1) else (absent, 2)

/-- COMMIT_LAST.CASE, the source and the gain of frame n (R41, R530). The last committed gain of a module that has never
held a COMMIT is the reset value of COMMIT_LAST.GAIN, 0, where the spec gives none: DESIGN CHOICE (assumption log,
entry 44). -/
def State.caseOf (s : State) (n : Nat) (used : Option Commit) : Nat × Nat × Nat :=
  let last := s.party.lastGain.getD 0
  if s.isDark || (s.frameSlot used).isNone then (6, 3, match used with
    | some c => c.gain
    | none => last)
  else match used with
    | some c =>
      if c.status = 1 then let r := s.repeatCase 1 7; (r.1, r.2, c.gain)
      else if c.status = 2 then (2, 2, c.gain)
      else if s.closedComplete n && s.commit.tornTo ≤ n then (0, 0, c.gain)
      else let r := s.repeatCase 3 7; (r.1, r.2, c.gain)
    | none =>
      if s.fld R.COMMIT_LAST_LOSS_RUN < s.partyParam 10 1 then let r := s.repeatCase 4 5; (r.1, r.2, last)
      else (5, 2, s.partyParam 18 2)

/-- The frame is torn: a NORMAL COMMIT, and frame n not complete or made incomplete by a switch (R41, R134). -/
def State.isTorn (s : State) (n : Nat) (used : Option Commit) : Bool := match used with
  | some c => c.status = 0 && !s.inBivouac && !(s.closedComplete n && s.commit.tornTo ≤ n)
  | none => false

/-- The missing-data extent of a torn frame's record: 0 for one a switch made incomplete (R134). -/
def State.tornExtent (s : State) (n : Nat) (used : Option Commit) : Option Nat :=
  if s.isTorn n used then some (if n < s.commit.tornTo then 0 else s.closedMiss n) else none

/-- A torn frame is presented: counted, raised, and recorded with its extent at P(N), when the current frame is N (R41,
R95, R134). -/
def State.noteTorn (s : State) (torn : Option Nat) : State := match torn with
  | none => s
  | some x => (s.inc R.COMMIT_CNT_TORN_N).event pCOMMIT 2 noUnit x

/-- A COMMIT held ends a loss; without one the frame counts as missed (R41, R42, R96). -/
def State.noteLoss (s : State) (used : Option Commit) : State := match used with
  | some c => s.setFlds [(R.COMMIT_LAST_LOSS_RUN, 0), (R.COMMIT_LAST_STATUS, c.status)]
  | none => ((s.satInc R.COMMIT_LAST_LOSS_RUN).inc R.COMMIT_CNT_MISSED_N).event pCOMMIT 1 noUnit 0

/-- A scree frame rendered after a frame that was not raises SCREE's event. -/
def State.noteScree (s : State) (source : Nat) : State :=
  let was : Bool := match s.commit.cases with
    | c :: _ => c.source = 2
    | [] => false
  if source = 2 && !was then s.irq pSCREE 0 else s

/-- Poisoned scree words of a burst raise SCREE's event. -/
def State.noteScreeUe (s before : State) : State :=
  if s.fld R.SCREE_CNT_UE_N = before.fld R.SCREE_CNT_UE_N then s else s.irq pSCREE 1

/-- D(n) under the timing of the party. -/
def State.settle (s : State) (t : Timing) (n : Nat) : State :=
  let used := s.usedCommit n
  let s1 := ((s.noteConflict n).noteLoss used).hearOther n
  let s2 := (s1.followSummit used).noteSwitch t n used
  let k := s2.caseOf n used
  let c : FrameCase :=
    { frame := n, kase := k.1, slot := s2.frameSlot used, gain := k.2.2, source := k.2.1, held := used,
      torn := s2.tornExtent n used, shows := if k.2.1 = 1 then s2.storeCtl.repeatFrame.getD n else n,
      gen := ((s2.frameSlot used).map s2.slotGen).getD 0 }
  let s3 := s2.noteScree k.2.1
  let s4 := { s3 with commit := { s3.commit with
    cases := c :: (s3.commit.cases.filter fun d => n < d.frame + 16 && d.frame ≠ n)
    held := s3.commit.held.filter fun d => n < d.frame
    dueDone := some n } }
  let s5 := if k.2.1 = 0 then s4 else s4.freeBuf n
  let s6 := (s5.startBurst c).noteScreeUe s5
  (s6.belayDue n used).standbyWatch n used

/-- COMMIT_DUE: frame time reaches D(n). A D that has passed once settles nothing again, and one that a forward step has
jumped over settles nothing (R79). -/
def execCommitDue (n : Nat) (s : State) : Res :=
  let s := s.begin
  match s.timing with
  | none => .next s
  | some t =>
    let past : Bool := match s.commit.dueDone with
      | some d => n ≤ d
      | none => false
    let jumped : Bool := match s.ptp.skipTo with
      | some f => n < f
      | none => false
    .next (if !s.gridRuns || past || jumped then s else (s.atTime (t.dDue n)).settle t n)

/-! ## Sections at a switch (R100, R131, R155) -/

/-- The NETx section of port p: a change of speed, FEC or enable starts acquisition again. -/
def State.takeNet (s : State) (a : Nat) (p : Port) : State :=
  let old := (s.portEn p, s.fld (R.NET_CFG_SPEED p.ix), s.fld (R.NET_CFG_FEC p.ix))
  let s1 := s.takeSection a (pNET p) fun t b => t.loadRange (pNET p) 0x40 b
  if old = (s1.portEn p, s1.fld (R.NET_CFG_SPEED p.ix), s1.fld (R.NET_CFG_FEC p.ix)) then s1
  else if s1.portEn p then (s1.dropLink p).startAcquire p else s1.stopPort p

/-- The sections of STR0 to STR3; a group whose section is not whole is fenced with its ports released (R155). -/
def State.takeStrands (s : State) (a : Nat) : State :=
  [0, 1, 2, 3].foldl (fun (t : State) g =>
    let u := t.takeSection a (pSTR g) fun x b => x.loadRange (pSTR g) 0x40 b
    if u.isFenced (pSTR g) noUnit then u.releaseGroup g else u) s

/-- The RAIL section; the live bit FW_BUS keeps its value (R255, R261). -/
def State.takeRailSection (s : State) (a : Nat) : State :=
  let fw := s.fld R.RAIL_CFG_FW_BUS
  (s.takeSection a pRAIL fun t b => t.loadRange pRAIL 0x40 b).setFld R.RAIL_CFG_FW_BUS fw

/-- The three metering sections (R290). -/
def State.loadMeter (s : State) (a : Nat) : State :=
  ((s.takeSection a pMETERAC fun t b => t.loadRange pMETERAC 0x40 b).takeSection a pMETERDC fun t b =>
    t.loadRange pMETERDC 0x40 b).takeSection a pMETERACC fun t b => t.loadRange pMETERACC 0x40 b

/-- CFG_SRC shows the generation once it has given a metering section: a bad one loads nothing (R100, R287). -/
def State.meterSource (s : State) (a : Nat) : State :=
  if [pMETERAC, pMETERDC, pMETERACC].any fun p => (s.secRead a p 1).bytes?.isSome then s.setFld R.METER_ACC_STATUS_CFG_SRC 2
  else s

/-- The metering sections at a switch: a change closes both windows before it applies (R287). -/
def State.takeMeter (s : State) (a : Nat) : State :=
  let t := s.loadMeter a
  if t.meterSections = s.meterSections then t.meterSource a
  else
    let s1 := if s.meter.running then s.closeWindows else s
    let t1 := s1.loadMeter a
    (if t1.meter.running then t1.meterSwitch s1 else t1).meterSource a

/-- What PIPE, CAL, DITH and GOV loaded of a slot comes into force; a GOV section that failed its CRC fences GOV now
(R100, R181, R194). -/
def State.takeBank (s : State) (b : Bank) : State :=
  let s1 := (((s.loadRange pPIPE 0x40 b.pipe).loadRange pCAL 0x40 b.cal).loadRange pDITH 0x40 b.dith).loadRange pGOV 0x40 b.gov
  match b.bad.find? fun x => x.1 = pGOV with
  | some x => if s1.isFenced pGOV noUnit then s1 else s1.fenceBlock pGOV x.2
  | none => s1

/-- Every section the blocks read at the switch. PARTY shows what staging read of its own (R295): a section that is bad
now fences PARTY (R100). -/
def State.takeSections (s : State) (a : Nat) : State :=
  let s1 := (s.takeNet a .a).takeNet a .b
  let s2 := s1.takeSection a pINGEST fun t b => t.loadRange pINGEST 0x40 b
  let s3 := s2.takeSection a pSTORE fun t b => t.loadWords b [(0, R.STORE_SCRUB_CFG)]
  let s4 := s3.setFlag R.STORE_STATUS_PATROL
    (s3.fld R.STORE_SCRUB_CFG_PERIOD_H ≠ 0 && s3.flag R.STORE_STATUS_INIT_DONE)
  let s5 := s4.takeSection a pARB fun t b => t.loadWords b [(0, R.ARB_CFG)]
  let s6 := (s5.takeSection a pSCREE fun t b => t.loadWords b [(0, R.SCREE_BASE)]).deriveScree
  let s7 := (s6.takeStrands a).takeSection a pPRESENT fun t b => t.loadRange pPRESENT 0x80 b
  let s8 := (s7.takeRailSection a).takeMeter a
  let s9 := s8.takeSection a pBELAY fun t b => t.loadWords b [(0, R.BELAY_CFG)]
  s9.takeSection a pPARTY fun t _ => t

/-! ## The switch (R28, R94, R98, R102, R132) -/

/-- The scree loop has changed: a copy of it restarts (R320). -/
def State.screeChanged (s before : State) : State :=
  if s.screeRange = before.screeRange then s
  else
    let s1 := if s.isLead && s.belay.installed && s.flag R.BELAY_STATUS_RESYNC_BUSY then
        { s with belay := { s.belay with ranges := s.screeRange, pos := (0, 0) } } else s
    if !s1.isLead && s1.belay.copying then
      { s1.setFld R.BELAY_STATUS_SCREE_SYNCED 0 with belay := { s1.belay with screeBytes := 0 } }
    else s1

/-- The slot's register banks are those in force from frame n on, whether they were loaded before or are loaded now. -/
def State.takeSlot (s : State) (t : Timing) (k n : Nat) : State :=
  let loaded : Bool := match s.commit.readyBank with
    | some b => b.slot = k
    | none => false
  let s0 := if loaded then s else s.loadBank k
  let s1 := { s0 with
    commit := { s0.commit with
      cur := some k, old := s.commit.cur, switchAt := some n, bank := s0.commit.readyBank, readyBank := none
      tornTo := if s.ingestDiffers k then n + t.lPresent else s0.commit.tornTo }
    ingest := { s0.ingest with
      cur := (s.slot k).ingest, kept := s.ingest.cur, switchAt := some n, next := none
      epochs := (List.range 4).map fun j =>
        (s.ingest.epochs.getD j 1) + b2n (s.ingest.cur.map (descBytes · j) ≠ (s.slot k).ingest.map (descBytes · j)) } }
  (s1.setSlotState k slotInForce).setFlds [(R.COMMIT_GEN_CUR_VALID, 1), (R.COMMIT_GEN_CUR_GEN, s1.slotGen k)]

/-- The pipeline's and the governor's banks that were loaded at READY. -/
def State.takeBanks (s : State) : State := match s.commit.bank with
  | some b => s.takeBank b
  | none => s

/-- What slot k of `old` gives the other units: its sections, banks, clock and governor parts. -/
def State.takeUnits (s old : State) (k : Nat) : State :=
  ((((s.takeSections (old.slot k).addr).takeBanks).takePtp (old.slot k).party).takeGovPart (old.slot k).party)

/-- The generation of slot k takes effect at P(n). -/
def State.takeEffect (s : State) (t : Timing) (k n : Nat) : State :=
  let s5 := (s.takeSlot t k n).takeUnits s k
  let s6 := (List.range 12).foldl (fun (u : State) r => u.switchRail s s.commit.cur.isSome r) s5
  (((s6.screeChanged s).slotsChanged s).matchAnnounce).irq pCOMMIT 0

/-- The previous generation is RETIRED at P(N + 1) (R102); its slot no longer stands in the way of the latest
GEN_ANNOUNCE (R532). -/
def State.retireOld (s : State) : State := match s.commit.old with
  | some k =>
    ({ (if some k = s.commit.cur then s else s.setSlotState k slotRetired) with
      commit := { s.commit with old := none } }).slotsChanged s
  | none => s

/-- The slot that the COMMIT for frame n names and that is not yet in force: as D(n) settled it, or as it is held where a
step has jumped over D(n). -/
def State.switchSlot (s : State) (n : Nat) : Option Nat :=
  let named := match s.commit.cases.find? fun c => c.frame = n with
    | some _ => s.caseSlot n
    | none => if s.switches (s.usedCommit n) then s.frameSlot (s.usedCommit n) else none
  if named = s.commit.cur then none else named

/-- There are no previous ingest settings: frames before `f` are torn (R319). -/
def State.tornUntil (s : State) (f : Nat) : State := { s with commit := { s.commit with old := none, tornTo := f } }

/-- At P(M) the second takes the installed slots (R319): the slot in force switches, with no previous ingest settings and
no repeat source; a slot READY at the lead is READY here. -/
def State.applyInstall (s : State) (t : Timing) (n : Nat) : State := match s.belay.install with
  | none => s
  | some x =>
    if x.frame ≠ n || s.isLead then s
    else
      let s1 := s.installSlots x
      let s2 := match (List.range 4).find? fun k => s1.slotState k = slotInForce with
        | some k => ((s1.takeEffect t k n).tornUntil (n + t.lPresent)).dropRepeat
        | none => s1.slotsChanged s
      match (List.range 4).find? fun k => (x.slots.getD k (0, 0)).2 = slotReady with
      | some k => s2.makeReady k
      | none => s2

/-! ## Energy and presentation (R205, R206) -/

/-- The strands mapped to rail r all send nothing under R47 in the slot of frame n. -/
def State.railSilent (s : State) (n r : Nat) : Bool :=
  let fed := (List.range 48).filter fun k => [0, 1, 2].any fun c => s.railOf k c = r
  fed ≠ [] && fed.all fun k => s.strandFenced k || s.payloadInvalid k n

/-- Λ(n − 1): the energy of the frame shown, and an armed snapshot (R205, R206). -/
def State.latchEnergy (s : State) (t : Timing) (n : Nat) : State :=
  let armed := s.flag R.GOV_SNAP_CTRL_REQ
  let s1 := s.energyAdd t ((List.range 12).filter (s.railSilent (n - 1)))
  let s2 := s1.govSnapshot n
  if armed then s2.meterSnapshot else s2

/-- Frame n is presented in the slot that begins. -/
def State.presents (s : State) (n : Nat) : Bool :=
  let late : Bool := match s.ptp.skipTo with
    | some f => n < f
    | none => false
  s.commit.cur.isSome && s.inRun && !s.storeCtl.unusable && !late &&
    s.commit.cases.any fun c => c.frame = n && c.source ≠ 3

/-- The output slot of n begins (R41, R228). -/
def State.beginSlot (s : State) (n : Nat) : State :=
  let s0 := s.setFld R.PRESENT_SLOT_CASE 0
  match (if s.presents n then s.commit.cases.find? fun c => c.frame = n else none) with
  | none => { s0.setFld R.COMMIT_LAST_CASE 6 with
      commit := { s0.commit with slotFrame := none }, gov := { s0.gov with shown := none } }
  | some c =>
    let s1 := (s0.setFrame R.COMMIT_FRAME_LO_N_LO R.COMMIT_FRAME_HI_N_HI n).setFlds
      [(R.COMMIT_LAST_GAIN, c.gain), (R.COMMIT_LAST_CASE, c.kase)]
    { s1.noteTorn c.torn with
              commit := { (s1.noteTorn c.torn).commit with slotFrame := some n }
              gov := { s1.gov with shown := some (c, s1.curGen) }
              ptp := { s1.ptp with skipTo := none } }

/-! ## Steps (R79) -/

/-- The first frame whose P is not before `ns`. -/
def Timing.firstFrom (t : Timing) (ns : Nat) : Nat := if ns = 0 then 0 else t.cur (ns - 1) + 1

/-- A step forward at P(n): the frames it jumps over are missed and not presented; a generation that a COMMIT for one of
them names is in force from it on (R79, R94). -/
def State.stepOver (s : State) (t : Timing) (n : Nat) : State :=
  let first := t.firstFrom s.ptp.ns
  let gone := (List.range (first - n)).map (n + ·)
  let s1 := s.add R.COMMIT_CNT_MISSED_N gone.length
  let s2 := gone.foldl (fun (u : State) f => if s.commit.dueDone.any (fun d => f ≤ d) then u else u.freeBuf f) s1
  let s3 := gone.foldl (fun (u : State) f => match u.switchSlot f with
    | some k => u.takeEffect t k f
    | none => u) s2
  { s3 with ptp := { s3.ptp with skipTo := some first }
            commit := { s3.commit with passed := some (max n (first - 1)) } }

/-- The last frame presented. -/
def State.lastShown (s : State) : Nat := s.wide R.COMMIT_FRAME_LO_N_LO R.COMMIT_FRAME_HI_N_HI

/-- A step back at P(n) of the unstepped clock: the drivers have latched n − 1 as usual, and no output slot starts until
the first P(N) with N after the last frame presented (R79). -/
def State.stepBack (s : State) : State :=
  let s0 := s.setFld R.PRESENT_SLOT_CASE 0
  { s0 with ptp := { s0.ptp with skipTo := some (s0.lastShown + 1) }
            commit := { s0.commit with slotFrame := none }
            gov := { s0.gov with shown := none } }

/-! ## P(N) -/

/-- The acting roles at a frame boundary: a candidate enters listening, and its listening frames count (R299). The
quiet of the ports before BMCA selects the own clock is counted from the start of the role (R80). -/
def State.roleBoundary (s : State) : State := match s.ownId with
  | none => s
  | some me =>
    if !s.isCandidate me then
      if s.role = roleNone then s else (s.setFlds [(R.PARTY_ROLE_ROLE, roleNone), (R.PARTY_ROLE_LISTEN, 0)]).irq pPARTY 0
    else if s.role = roleNone then
      ({ s with party := { s.party with heard := false }, ptp := { s.ptp with quietA := false, quietB := false } }.setFlds
        [(R.PARTY_ROLE_ROLE, roleListening), (R.PARTY_ROLE_LISTEN, if me = s.summitId then 16 else 32)]).irq pPARTY 0
    else if s.role = roleListening then s.setFld R.PARTY_ROLE_LISTEN (s.fld R.PARTY_ROLE_LISTEN - 1)
    else s

/-- Figures no longer needed are dropped. -/
def State.pruneFigures (s : State) (n : Nat) : State :=
  { s with gov := { s.gov with frames := s.gov.frames.filter fun x =>
    n ≤ x.frame + 32 || s.storeCtl.repeatFrame = some x.frame || s.commit.cases.any fun c => c.shows = x.frame } }

/-! ## The return from BIVOUAC (R474) -/

/-- The port that PWR_CFG.BIV_PORT does not name. -/
def State.idlePort (s : State) : Port := portOf (1 - s.fld R.PWR_CFG_BIV_PORT)

/-- Both ports have left their media groups, or hold them again (R133, R465). -/
def State.mediaGone (s : State) (gone : Bool) : State :=
  let t := [Port.a, Port.b].foldl (fun (u : State) p => u.setNet p { u.net p with mediaLeft := gone }) s
  t.rejoinBoth s

/-- The system watchdog has `ms` left (R355). -/
def State.wdtLeft (s : State) (ms : Nat) : State :=
  { s with rst := { s.rst with wdtNs := 0 } }.setFld R.WDT_SYS_STAT_REMAIN_MS ms

/-- A return from BIVOUAC ends at P(n): RUN, with the rails, media groups and idle port starting again, and the merge
windows empty (R533), and the frames up to n + L_PRESENT − 1 torn. -/
def State.resumeRun (s : State) (lp n : Nat) : State :=
  let t := (({ s with pwr := { s.pwr with resume := false, target := none, stage := 0 }
                      commit := { s.commit with tornTo := n + lp }
                      ingest := { s.ingest with wins := [{}, {}, {}, {}] } }.setFlds
    [(R.PWR_STATE_STATE, pwrRun), (R.PWR_STATE_LAST, pwrBivouac), (R.PWR_STATE_CP_AWAKE, 0), (R.PWR_RESULT_BUSY, 0),
     (R.PWR_RESULT_RESULT, 0)]).wdtLeft (s.fld R.WDT_SYS_CFG_TIMEOUT_MS)).irq pPWR 0
  ((t.railsReturn).mediaGone false).startAcquire s.idlePort

/-- Units released from a fence return to service (R13), telemetry sources among them (R268). -/
def State.unitsReturn (s : State) : State :=
  let src := (List.range 4).foldl (fun (acc c : Nat) => acc + b2n (s.hasFence pTELEM c) * 2 ^ c) 0
  { s with returning := [] }.setFld R.TELEM_SRC_FENCED_SRC src

/-- The output slot of n begins at P(n): the generation that the COMMIT for n names takes effect, and the frame is shown
with its FRAME_CRC. -/
def State.slotBegins (s : State) (t : Timing) (n : Nat) : State :=
  let s2 := s.retireOld
  let s3 := match s2.switchSlot n with
    | some k => s2.takeEffect t k n
    | none => s2.matchAnnounce
  let s4 := { s3 with commit := { s3.commit with passed := some n } }.applyInstall t n
  let s5 := if s4.ptp.step.any (0 < ·) then (s4.applyStep (s4.ptp.step.getD 0)).stepOver t n else s4
  let s6 := s5.beginSlot n
  let ran : Bool := s6.commit.payload.any fun p => p.1 = n
  let s7 := if ran then s6 else s6.sendFrameCrc n
  if n = 0 || s7.belay.compared.contains (n - 1) || s7.partnerId.isNone || s7.commit.cur.isNone then s7
  else s7.skipCrc (n - 1)

/-- What every boundary does besides: units return to service, the meter, belay and the acting roles. -/
def State.boundaryTail (s : State) (t : Timing) (n : Nat) : State :=
  let s8 := (if s.inBivouac then s else s.resumeRails).unitsReturn
  ((((s8.meterBoundary).belayBoundary).roleBoundary).pruneFigures n).startScree (n + t.lPresent)

/-- What a frame boundary does: Λ(n − 1), then the slot of n. A step back is applied first and leaves P(n) to be reached
again; a boundary that a step back made the module reach a second time begins no slot (R79). -/
def State.boundary (s : State) (t : Timing) (n : Nat) : State :=
  let s1 := if s.pwr.resume then s.resumeRun t.lPresent n else if s.inBivouac then s else s.latchEnergy t n
  if s1.ptp.step.any (· < 0) then (s1.applyStep (s1.ptp.step.getD 0)).stepBack
  else if !s1.isAhead n then s1.boundaryTail t n
  else (s1.slotBegins t n).boundaryTail t n

/-- FRAME_BOUNDARY: frame time reaches P(n). -/
def execFrameBoundary (n : Nat) (s : State) : Res :=
  let s := s.begin
  match s.timing with
  | none => .next s
  | some t => .next (if s.gridRuns then (s.atTime (t.p n)).boundary t n else s)

/-- LISTEN_END, when LISTEN has counted down: acting standby where the other candidate's COMMIT was held, acting summit
otherwise (R299). -/
def execListenEnd (s : State) : Res :=
  let s := s.begin
  if s.role ≠ roleListening || s.fld R.PARTY_ROLE_LISTEN ≠ 0 then .next s
  else if s.party.heard then
    .next (({ s with party := { s.party with silent := 0 } }.setFld R.PARTY_ROLE_ROLE roleStandby).irq pPARTY 0)
  else .next (s.becomeSummit (s.commit.dueDone.getD 0))

/-- BURST_END: the burst's statistics, its buffers, and FRAME_CRC to the partner (R143, R163, R312). -/
def execBurstEnd (s : State) : Res :=
  let s := s.begin
  match s.commit.burst with
  | none => .next s
  | some b => .next ((s.endBurst b (s.burstNs b)).sendFrameCrc b.frame)

/-- A mismatch that comes after the FRAME of its frame was sent aborts the slots of the group's strands (R186, R240). -/
def State.abortGroup (s : State) (g n : Nat) : State :=
  (List.range 12).foldl (fun (t : State) j =>
    let x := t.strand (12 * g + j)
    if x.slot = some n && x.mine && x.framed && !x.aborted then t.abortSlot (12 * g + j) else t) s

/-- A residue mismatch stops lane g of a burst (R186). -/
def State.stopLane (s : State) (b : Burst) (g : Nat) : State :=
  let s1 := { s with commit := { s.commit with
    burst := some { b with stopped := b.stopped ++ [g], residue := b.residue ++ [g] }
    payload := s.commit.payload.map fun (p : Nat × List Nat) => if p.1 = b.frame then (p.1, p.2 ++ [g]) else p } }
  let s2 := ((s1.setBit R.PIPE_STATUS_LANE_FENCED g true).inc R.PIPE_CNT_RESIDUE_N).irq pPIPE 1
  (s2.fence pPIPE g causeResidue 0).abortGroup g b.frame

/-- The time since D(n), ns. -/
def State.sinceDue (s : State) (n : Nat) : Nat := match s.timing with
  | some t => s.ptp.ns - t.dDue n
  | none => 0

/-- LANE_RESIDUE_MISMATCH (R186): only while a burst runs. The burst ends with the last lane that runs (R163). -/
def execLaneResidueMismatch (g : Nat) (s : State) : Res :=
  let s := s.begin
  match s.commit.burst with
  | none => .next s
  | some b =>
    if b.stopped.contains g || 4 ≤ g then .next s
    else if 3 ≤ (b.stopped.eraseDups).length then
      .next (((s.stopLane b g).endBurst { b with stopped := b.stopped ++ [g] } (s.sinceDue b.frame)).sendFrameCrc b.frame)
    else .next (s.stopLane b g)

end Sys2Proof.Machine
end

