-- ==== Sys2Proof/Machine/Cairn.lean ====
section
/-! DEFINITION. The cairn event recorder (R494–R511): intervals, occurrences, staging in retained bank 3, the writer and
its ring in MRAM, the reading window, freezing and the release scan. CAIRN_METRIC_SAMPLE stands in Machine/Bus.lean,
since it reads a register. -/
namespace Sys2Proof.Machine

/-! ## Time -/

/-- RTC_SEC_HI.VALID. -/
def State.rtcValid (s : State) : Bool := s.flag R.RTC_SEC_HI_VALID

/-- S, the 33-bit count of seconds (R484). -/
def State.rtcS (s : State) : Nat := s.wide R.RTC_SEC_LO_S_LO R.RTC_SEC_HI_S_HI

/-- RTC seconds: S mod 2^32, 0 while the RTC is not valid (R484, R485). -/
def State.rtcSecs (s : State) : Nat := if s.rtcValid then s.fld R.RTC_SEC_LO_S_LO else 0

/-- c(t), 0 with no generation in force (R496). -/
def State.cairnFrame (s : State) : Nat := match s.timing with
  | some t => t.cur s.ptp.ns
  | none => 0

/-! ## Records (R494) -/

def recInterval : Nat := 1
def recCondition : Nat := 2
def recTimeStep : Nat := 3
def recReset : Nat := 4

/-- A little-endian field of a record. -/
def recField (r : List Byte) (off len : Nat) : Nat := leNat ((r.drop off).take len)

/-- A record with bytes from `off` replaced. -/
def recPut (r : List Byte) (off : Nat) (bs : List Byte) : List Byte := r.take off ++ bs ++ r.drop (off + bs.length)

/-- KIND, FLAGS and SEQ of a record. -/
def recKind (r : List Byte) : Nat := recField r 0 1
def recFlags (r : List Byte) : Nat := recField r 1 1
def recSeq (r : List Byte) : Nat := recField r 4 4

/-- Bits of FLAGS. -/
def flagPartial : Nat := 2
def flagLost : Nat := 3
def flagForced : Nat := 4
def flagOpen : Nat := 5

/-- A record with a bit of FLAGS set or cleared. -/
def recFlag (r : List Byte) (k : Nat) (b : Bool) : List Byte :=
  recPut r 1 [BitVec.ofNat 8 (insertBits (recFlags r) k k (b2n b))]

/-- A record with its CRC over bytes 0–51. -/
def recSeal (r : List Byte) : List Byte := recPut r 52 (leBytes 4 (crc32 (r.take 52)))

/-- KIND is defined and CRC checks (R494). -/
def recValid (r : List Byte) : Bool :=
  1 ≤ recKind r && recKind r ≤ 4 && recField r 52 4 = crc32 (r.take 52)

/-- The key of a record (R506). -/
def recKey (r : List Byte) : CairnKey :=
  if recKind r = recCondition then ⟨recCondition, recField r 2 2, recField r 12 1, recField r 13 1⟩
  else ⟨recKind r, recField r 2 2, 0, 0⟩

/-- FLAGS[1:0] now: RTC_VALID and TIME_VALID. -/
def State.recFlagsNow (s : State) : Nat := b2n s.rtcValid + 2 * b2n s.timeValid

/-! ## Staging (R493, R494, R503) -/

/-- Staging slot j. -/
def State.stageRec (s : State) (j : Nat) : List Byte := memRead s.mem.ret (0x1800 + 64 * j) 64

/-- Write staging slot j; its CRC is kept true, so that a release scan can check it. -/
def State.putStage (s : State) (j : Nat) (r : List Byte) : State :=
  { s with mem := { s.mem with ret := memWrite s.mem.ret (0x1800 + 64 * j) (recSeal r) } }

/-- Free staging slot j. -/
def State.freeStage (s : State) (j : Nat) : State :=
  { s with mem := { s.mem with ret := memClear s.mem.ret (0x1800 + 64 * j) 64 } }

/-- The slots held. -/
def State.heldSlots (s : State) : List Nat := (List.range 32).filter fun j => recKind (s.stageRec j) ≠ 0

/-- The slots of open conditions. -/
def State.openSlots (s : State) : List Nat := s.heldSlots.filter fun j => bitSet (recFlags (s.stageRec j)) flagOpen

/-- The first slot whose KIND is 0. -/
def State.freeSlot (s : State) : Option Nat := (List.range 32).find? fun j => recKind (s.stageRec j) = 0

/-- The held slot of lowest formation count for which `p` holds. -/
def State.firstFormed (s : State) (p : List Byte → Bool) : Option Nat :=
  s.heldSlots.foldl (fun (acc : Option Nat) j =>
    if !p (s.stageRec j) then acc
    else match acc with
      | none => some j
      | some i => if recSeq (s.stageRec j) < recSeq (s.stageRec i) then some j else some i) none

/-- The next record the writer moves: the first closed one in formation order (R503). -/
def State.nextClosed (s : State) : Option Nat := s.firstFormed fun r => !bitSet (recFlags r) flagOpen

/-- Close the open condition in slot j at time `time` (R494, R502). -/
def State.closeCondition (s : State) (time : Nat) (forced : Bool) (j : Nat) : State :=
  let r := s.stageRec j
  let fl := s.recFlagsNow + 2 ^ flagForced * b2n forced
  s.putStage j (recPut (recPut r 1 [BitVec.ofNat 8 fl]) 8 (leBytes 4 time))

/-- Close every open condition. -/
def State.closeConditions (s : State) (time : Nat) (forced : Bool) : State :=
  s.openSlots.foldl (fun (t : State) j => t.closeCondition time forced j) s

/-- Start a flush (R504). -/
def State.flush (s : State) : State := { s with cairn := { s.cairn with flushing := true } }

/-- Start an urgent flush: every open condition is closed and forced first (R504). -/
def State.urgentFlush (s : State) : State := (s.closeConditions s.rtcSecs true).flush

/-- The writer may write: running, not frozen, not fenced (R505, R508, R511). -/
def State.writerRuns (s : State) : Bool :=
  s.cairn.up && !s.flag R.CAIRN_CTRL_FREEZE && !s.pageFenced pCAIRN

/-! ## The ring (R494, R503, R506) -/

/-- Ring record i. -/
def State.ringRec (s : State) (i : Nat) : List Byte := memRead s.mem.mram (0x80000 + 64 * i) 64

/-- Ring record i is valid, with no uncorrectable word in it (R494, R511). -/
def State.ringValid (s : State) (i : Nat) : Bool :=
  recValid (s.ringRec i) && !s.mem.mramBad.any (fun w => w * 8 / 64 = 0x2000 + i)

/-- The first valid record from index i on, searched over `fuel` records. -/
def State.nextValid (s : State) : Nat → Nat → Nat
  | 0, i => i
  | fuel + 1, i => if s.ringValid i then i else s.nextValid fuel ((i + 1) % 8192)

/-- The record at ring index i repeats nothing new against candidate `c`: R506. -/
def State.repeats (s : State) (c : List Byte) (i : Nat) : Bool :=
  let l := s.ringRec i
  s.ringValid i && recKey l = recKey c && recFlags l = recFlags c &&
  (if recKind c = recInterval then (l.drop 12).take 40 = (c.drop 12).take 40
   else recField l 32 12 = recField c 32 12)

/-- What the writer keeps of R506: every metric's entry, and those of the 128 keys written last. -/
def capKeys (l : List (CairnKey × Nat)) : List (CairnKey × Nat) :=
  l.filter (fun (e : CairnKey × Nat) => e.1.kind = recInterval) ++
    (l.filter fun (e : CairnKey × Nat) => e.1.kind = recCondition).take 128

/-- Note that index i holds the last record written of a key or metric (R506). -/
def State.noteKey (s : State) (k : CairnKey) (i : Nat) : State :=
  let rest := s.cairn.keys.filter fun (e : CairnKey × Nat) => e.1 ≠ k
  { s with cairn := { s.cairn with keys := capKeys ((k, i) :: rest) } }

/-- The candidate in slot j as the writer takes it: OPEN cleared, LOST_BEFORE after a loss (R503, R505). -/
def State.candidate (s : State) (j : Nat) : List Byte :=
  recFlag (recFlag (s.stageRec j) flagOpen false) flagLost s.cairn.lostBefore

/-- The ring index whose record candidate `c` repeats, if any (R506). -/
def State.repeatOf (s : State) (c : List Byte) : Option Nat :=
  if recKind c = recInterval || recKind c = recCondition then
    match s.cairn.keys.find? (fun (e : CairnKey × Nat) => e.1 = recKey c) with
    | some e => if s.repeats c e.2 then some e.2 else none
    | none => none
  else none

/-- Absorb candidate `c` of slot j as a repeat of ring record i, which does not count as written (R506). -/
def State.absorbRepeat (s : State) (j i : Nat) (c : List Byte) : State :=
  let l := s.ringRec i
  let n := min (recField l 56 4 + 1) (2 ^ 32 - 1)
  ((s.mramWrite (0x80000 + 64 * i + 56) (leBytes 4 n ++ (c.drop 8).take 4)).freeStage j).inc R.CAIRN_CNT_REPEAT_N

/-- Write candidate `c` of slot j at CAIRN_HEAD (R503). -/
def State.writeRing (s : State) (j : Nat) (c : List Byte) : State :=
  let i := s.fld R.CAIRN_HEAD_INDEX
  let seq := s.fld R.CAIRN_NEXT_SEQ_SEQ
  let old := s.ringValid i && s.fld R.CAIRN_OLDEST_INDEX = i
  let r := recPut (recSeal (recPut c 4 (leBytes 4 seq))) 56 (leBytes 8 0)
  let s1 := ((s.mramWrite (0x80000 + 64 * i) r).freeStage j).setFlds
    [(R.CAIRN_HEAD_INDEX, i + 1), (R.CAIRN_NEXT_SEQ_SEQ, seq + 1)]
  let s2 := (s1.inc R.CAIRN_CNT_WRITTEN_N).noteKey (recKey c) i
  let s3 := { s2 with cairn := { s2.cairn with lostBefore := false } }
  if old then s3.setFld R.CAIRN_OLDEST_INDEX (s3.nextValid 8192 ((i + 1) % 8192)) else s3

/-- The writer moves the record of slot j, and its read-back matches. -/
def State.writeSlot (s : State) (j : Nat) : State :=
  let c := s.candidate j
  let s1 := match s.repeatOf c with
    | some i => s.absorbRepeat j i c
    | none => s.writeRing j c
  { s1 with cairn := { s1.cairn with tries := 0 } }

/-- The read-back of the record of slot j differs: what MRAM then holds there is a free value, and the third failure
fences CAIRN (R511). -/
def State.writeFails (s : State) (j : Nat) : State :=
  let c := s.candidate j
  let s1 := match s.repeatOf c with
    | some i => (s.mramWrite (0x80000 + 64 * i + 56) (leBytes 8 (s.freeBits 64))).drawn
    | none => (s.mramWrite (0x80000 + 64 * s.fld R.CAIRN_HEAD_INDEX) (leBytes 64 (s.freeBits 512))).drawn
  if s1.cairn.tries + 1 < 3 then { s1 with cairn := { s1.cairn with tries := s1.cairn.tries + 1 } }
  else { s1 with cairn := { s1.cairn with tries := 0 } }.fenceBlock pCAIRN 0x0100

/-! ## Forming records (R503, R505) -/

/-- Stage a record in slot j, with its formation count. -/
def State.stageAt (s : State) (j : Nat) (r : List Byte) : State :=
  let n := s.cairn.formed + 1
  { s with cairn := { s.cairn with formed := n } }.putStage j (recPut r 4 (leBytes 4 n))

/-- Form a record. With every slot held, an urgent flush frees one first; the record is lost where the writer may not
write (R503, R505). -/
def State.form (s : State) (kind flags id time : Nat) (body : List Byte) : State :=
  let r := leBytes 1 kind ++ leBytes 1 flags ++ leBytes 2 id ++ leBytes 4 0 ++ leBytes 4 time ++
    (body ++ List.replicate (40 - body.length) 0) ++ leBytes 12 0
  match s.freeSlot with
  | some j => s.stageAt j r
  | none =>
    if s.writerRuns then
      let t := s.urgentFlush
      match t.nextClosed with
      | some j =>
        let u := t.writeSlot j
        u.stageAt j r
      | none => t.cairnLoss
    else s.cairnLoss

/-! ## Intervals (R495, R501) -/

/-- The body of metric m's INTERVAL record (R495). -/
def MetricS.body (m : MetricS) : List Byte :=
  leBytes 4 m.count ++ leBytes 4 (ofSigned 32 m.min) ++ leBytes 4 (ofSigned 32 m.max) ++
  leBytes 4 (ofSigned 32 (if m.count = 0 then 0 else tdiv m.sum m.count)) ++ m.hist.flatMap (leBytes 2)

/-- An interval ends at time `time`: one record per enabled metric, then every open condition closes, and a flush
runs (R501, R504). -/
def State.intervalEnd (s : State) (time : Nat) (part : Bool) : State :=
  if !s.cairn.up then s
  else
    let s1 := (List.range 32).foldl (fun (t : State) m =>
      if t.flag (R.CAIRN_MET_CFG_EN m) then
        t.form recInterval (t.recFlagsNow + 2 ^ flagPartial * b2n part) m time (t.cairn.metrics.getD m {}).body
      else t) s
    let fresh : List MetricS := s1.cairn.metrics.map fun (m : MetricS) => { prev := m.prev }
    (({ s1 with cairn := { s1.cairn with metrics := fresh } }.closeConditions time false).flush).irq pCAIRN 0

/-- CAIRN_INTERVAL_END (R501). While retained SRAM may not be written (R475) no record can be formed, and the interval
goes on. -/
def execCairnIntervalEnd (s : State) : Res :=
  let s := s.begin
  .next (if s.retLocked then s else s.intervalEnd s.rtcSecs false)

/-- Before S changes otherwise than by counting: the interval ends at OLD, PARTIAL unless OLD is a multiple of
INTERVAL_S, and an adjustment over 1 s flushes urgently (R489, R501, R504). -/
def State.cairnOld (s : State) (old : Nat) (step : Bool) : State :=
  let a := s.intervalEnd (if s.rtcValid then old % 2 ^ 32 else 0) (old % s.fld R.CAIRN_CFG_INTERVAL_S ≠ 0)
  if s.cairn.up && step then a.urgentFlush else a

/-- After such a change: the TIME_STEP record of R498. -/
def State.cairnStep (s : State) (old new cause : Nat) : State :=
  if s.cairn.up then
    s.form recTimeStep s.recFlagsNow 0 (new % 2 ^ 32) (leBytes 8 old ++ leBytes 8 new ++ leBytes 1 cause)
  else s

/-! ## Occurrences (R496, R497, R502) -/

/-- The key an occurrence has. -/
def Occurrence.key (o : Occurrence) : CairnKey := ⟨recCondition, o.code, o.page % 256, o.unit % 256⟩

/-- An open record absorbs an occurrence (R502). -/
def State.absorb (s : State) (j : Nat) (o : Occurrence) : State :=
  let r := s.stageRec j
  s.putStage j (recPut (recPut r 20 (leBytes 4 s.rtcSecs)) 32
    (leBytes 4 (recField r 32 4 + 1) ++ leBytes 4 (max (recField r 36 4) o.detail) ++ leBytes 4 o.detail))

/-- The body of a new CONDITION record (R496). -/
def State.conditionBody (s : State) (o : Occurrence) : List Byte :=
  leBytes 1 o.page ++ leBytes 1 o.unit ++ leBytes 2 0 ++ leBytes 4 s.rtcSecs ++ leBytes 4 s.rtcSecs ++
  leBytes 6 s.cairnFrame ++ leBytes 2 0 ++ leBytes 4 1 ++ leBytes 4 o.detail ++ leBytes 4 o.detail

/-- The cairn takes the oldest occurrence of the queue (R502). -/
def State.takeOccurrence (s : State) : State := match s.occQueue with
  | [] => s
  | o :: rest =>
    let s1 := { s with occQueue := rest }
    let s2 := match s1.openSlots.find? (fun (j : Nat) => recKey (s1.stageRec j) = o.key) with
      | some j => s1.absorb j o
      | none => s1.form recCondition (s1.recFlagsNow + 2 ^ flagOpen) o.code 0 (s1.conditionBody o)
    if o.code < 0x8000 then s2.urgentFlush else s2

/-- CAIRN_OCCURRENCE (R502): the queue holds what comes while retained SRAM may not be written (R475). -/
def execCairnOccurrence (s : State) : Res :=
  let s := s.begin
  .next (if s.cairn.up && !s.retLocked then s.takeOccurrence else s)

/-- CAIRN_RAISE: GO queues the occurrence of the registers, with PAGE 0xFF (R497, R502). -/
def execCairnRaise (m : Master) (value : Word) (s : State) : Res :=
  s.begin.asWrite m pCAIRN rightLive fun t =>
    let u := t.setFld R.CAIRN_RAISE_CTRL_UNIT value.toNat
    .next (if value.getLsbD 31 then
      u.occur ⟨0xFF, u.fld R.CAIRN_RAISE_CODE_CODE, u.fld R.CAIRN_RAISE_CTRL_UNIT, u.fld R.CAIRN_RAISE_DETAIL_DETAIL⟩
    else u)

/-! ## The writer (R503, R504, R511) -/

/-- CAIRN_RECORD_WRITE: during a flush, the writer takes the next closed record (R503, R511). -/
def execCairnRecordWrite (ok : Bool) (s : State) : Res :=
  let s := s.begin
  if s.writerRuns && s.cairn.flushing then
    match s.nextClosed with
    | some j => .next (if ok then s.writeSlot j else s.writeFails j)
    | none => .next s
  else .next s

/-- CAIRN_FLUSH_DONE: the flush ends once staging holds no closed record; a PF_WARN meter save that waited for it
begins (R284, R504). -/
def execCairnFlushDone (s : State) : Res :=
  let s := s.begin
  if s.cairn.flushing && s.nextClosed.isNone then
    let t := ({ s with cairn := { s.cairn with flushing := false } }.setFld R.CAIRN_CTRL_FLUSH 0).irq pCAIRN 3
    .next (if t.rst.pfFlush then { t with rst := { t.rst with pfFlush := false } }.pfSave else t)
  else .next s

/-- The freeze ends and the writer resumes and flushes (R508). -/
def State.unfreeze (s : State) : State :=
  if s.flag R.CAIRN_CTRL_FREEZE then (s.setFld R.CAIRN_CTRL_FREEZE 0).flush else s

/-- A write of CAIRN_CTRL: AUTOINC, FREEZE and FLUSH (R504, R507, R508). -/
def State.cairnCtrl (s : State) (value : Word) : State :=
  let s1 := s.setFlag R.CAIRN_CTRL_AUTOINC (value.getLsbD 2)
  let s2 := if value.getLsbD 0 then s1.setFld R.CAIRN_CTRL_FREEZE 1 else s1.unfreeze
  if value.getLsbD 1 then (s2.setFld R.CAIRN_CTRL_FLUSH 1).urgentFlush else s2

/-- CAIRN_FLUSH_REQUEST (R504). -/
def execCairnFlushRequest (m : Master) (value : Word) (s : State) : Res :=
  s.begin.asWrite m pCAIRN rightLive fun t => .next (t.cairnCtrl (value ||| 2))

/-- CAIRN_FREEZE (R508). -/
def execCairnFreeze (m : Master) (value : Word) (s : State) : Res :=
  s.begin.asWrite m pCAIRN rightLive fun t => .next (t.cairnCtrl (value &&& ~~~2))

/-- CAIRN_THAW (R508). -/
def execCairnThaw (s : State) : Res :=
  let s := s.begin
  .next (if s.flag R.CAIRN_CTRL_FREEZE then (s.unfreeze.setFld R.CAIRN_STATUS_THAWED 1).irq pCAIRN 2 else s)

/-! ## Reading (R507) -/

/-- Load ring record `i` into CAIRN_WIN0 to CAIRN_WIN15. -/
def State.loadWindow (s : State) (i : Nat) : State :=
  let r := s.ringRec (i % 8192)
  (List.range 16).foldl (fun (t : State) w => t.setFld (R.CAIRN_WIN_BYTES w) (recField r (4 * w) 4))
    (s.setFld R.CAIRN_CURSOR_INDEX i)

/-- CAIRN_CURSOR_LOAD (R507). -/
def execCairnCursorLoad (m : Master) (value : Word) (s : State) : Res :=
  s.begin.asWrite m pCAIRN rightLive fun t => .next (t.loadWindow (value.toNat % 8192))

/-- CAIRN_WIN_ADVANCE: the read answers word 15; with AUTOINC the next record is loaded (R507). -/
def execCairnWinAdvance (m : Master) (s : State) : Res :=
  let s := s.begin
  if m.holds rightRead then
    let t := s.emit (.readData (BitVec.ofNat 32 (s.fld (R.CAIRN_WIN_BYTES 15))))
    .next (if t.flag R.CAIRN_CTRL_AUTOINC then t.loadWindow ((t.fld R.CAIRN_CURSOR_INDEX + 1) % 8192) else t)
  else .next (s.emit (.refused codeRights))

/-! ## Release (R505, R510) -/

/-- The ring indexes in which MRAM holds any byte that is not 0; every other record has KIND 0. -/
def State.ringIndexes (s : State) : List Nat :=
  (s.mem.mram.filterMap fun (c : Nat × Byte) =>
    if 0x80000 ≤ c.1 && c.1 < 0x100000 then some ((c.1 - 0x80000) / 64) else none).eraseDups

/-- The valid records of the ring, by SEQ from the newest. -/
def State.validNewest (s : State) : List Nat :=
  sortUp (fun i => 2 ^ 32 - recSeq (s.ringRec i)) (s.ringIndexes.filter s.ringValid)

/-- Step 1 and 2 of R510: head, next SEQ, oldest and the key table. -/
def State.scanRing (s : State) : State :=
  let v := s.validNewest
  let keys : List (CairnKey × Nat) := v.foldl (fun (acc : List (CairnKey × Nat)) i =>
    let r := s.ringRec i
    if acc.any (fun (e : CairnKey × Nat) => e.1 = recKey r) then acc else acc ++ [(recKey r, i)]) []
  let s1 := { s with cairn := { s.cairn with keys := capKeys keys } }
  match v with
  | [] => s1.setFlds [(R.CAIRN_HEAD_INDEX, 0), (R.CAIRN_NEXT_SEQ_SEQ, 1), (R.CAIRN_OLDEST_INDEX, 0)]
  | i :: _ => s1.setFlds [(R.CAIRN_HEAD_INDEX, i + 1), (R.CAIRN_NEXT_SEQ_SEQ, recSeq (s.ringRec i) + 1),
      (R.CAIRN_OLDEST_INDEX, v.getLast?.getD 0)]

/-- Step 3 of R510: the staged records in formation order, the open ones as they stand with FORCED; one whose CRC fails
is a loss. -/
def State.writeStaged (s : State) : Nat → State
  | 0 => s
  | fuel + 1 => match s.firstFormed (fun _ => true) with
    | none => s
    | some j =>
      let r := s.stageRec j
      let t := if recField r 52 4 ≠ crc32 (r.take 52) then (s.freeStage j).cairnLoss
        else (if bitSet (recFlags r) flagOpen then s.putStage j (recFlag r flagForced true) else s).writeSlot j
      t.writeStaged fuel

/-- Reset record n of retained bank 0, and its validity (R456). -/
def State.resetRec (s : State) (n : Nat) : List Byte := memRead s.mem.ret (32 * n) 32
def resetRecValid (r : List Byte) : Bool := recField r 0 4 = 0x52535431 && recField r 28 4 = crc32 (r.take 28)

/-- The bodies of the last 8 RESET records of the ring. -/
def State.lastResets (s : State) : List (List Byte) :=
  ((s.validNewest.filter fun i => recKind (s.ringRec i) = recReset).take 8).map fun i => ((s.ringRec i).drop 12).take 32

/-- Step 4 of R510: the reset records of bank 0 that the ring does not show yet, in SEQ order. -/
def State.writeResets (s : State) : State :=
  let known := s.lastResets
  let fresh := ((List.range 8).map s.resetRec).filter fun r => resetRecValid r && !known.contains r
  (sortUp (fun (r : List Byte) => recField r 4 4) fresh).foldl (fun (t : State) r =>
    let u := t.form recReset t.recFlagsNow 0 (recField r 12 4) r
    match u.nextClosed with
    | some j => u.writeSlot j
    | none => u) s

/-- Step 5 of R510: the queued occurrences. -/
def State.takeQueue (s : State) : Nat → State
  | 0 => s
  | n + 1 => s.takeOccurrence.takeQueue n

/-- CAIRN's registers and its own memory at a release, before its scan (R510); the queue's count of dropped
occurrences goes to CAIRN_CNT_LOST (R505). -/
def State.cairnStart (s : State) : State :=
  { s with cairn := { bankLost := s.cairn.bankLost } }.setFld R.CAIRN_STATUS_SCANNING 1

/-- CAIRN_RELEASE_SCAN (R505, R510). -/
def execCairnReleaseScan (s : State) : Res :=
  let s := s.begin
  if s.flag R.CAIRN_STATUS_SCANNING then
    let s1 := { s with cairn := { s.cairn with up := true } }.scanRing
    let s2 := if s1.occDropped = 0 then s1
      else { s1 with occDropped := 0, cairn := { s1.cairn with lostBefore := true } }.add
        R.CAIRN_CNT_LOST_N s1.occDropped |>.irq pCAIRN 1
    let s3 := if s2.cairn.bankLost then
        ({ s2 with cairn := { s2.cairn with bankLost := false } }.setFld R.CAIRN_STATUS_STAGE_LOST 1).cairnLoss
      else s2
    let s4 := (s3.writeStaged 32).writeResets
    .next ((s4.takeQueue s4.occQueue.length).setFld R.CAIRN_STATUS_SCANNING 0)
  else .next s

end Sys2Proof.Machine
end

