-- ==== Sys2Proof/Machine/Side.lean ====
section
/-! DEFINITION. The Ulues side-link radio (R372–R395): region and PHY, frames and counters, stateless operation with
acknowledgement and retry, discovery, links, the event FIFO, and the transmit budget. SIDE_WAKE_RECEIVE stands in
Machine/Wake.lean, with what it wakes. -/
namespace Sys2Proof.Machine

/-- A byte string cut or filled with zeros to `n` bytes: the length an algorithm's output has. -/
def fixLen (n : Nat) (bs : List Byte) : List Byte := bs.take n ++ List.replicate (n - bs.length) 0

/-- SIDE_TIME, µs (R388). -/
def State.sideTime (s : State) : Nat := (s.now - s.side.t0) / 1000

/-- Change the hidden state of SIDE. -/
def State.setSide (s : State) (x : SideS) : State := { s with side := x }

/-! ## Region and PHY (R372–R374) -/

/-- SYS_RADIO.ACTIVE: 0 off, 1 EU, 2 US. -/
def State.region (s : State) : Nat := s.fld R.SYS_RADIO_ACTIVE

/-- RADIO_REGION_SET: with the strap at 0b11 the first write of 1 or 2 fixes the region (R372). -/
def execRadioRegionSet (m : Master) (value : Word) (s : State) : Res :=
  s.begin.asWrite m pSYS rightSecure fun t =>
    let v := value.toNat % 4
    .next (if t.variant ≠ .v16N && t.fld R.SYS_STRAP_REGION = 3 && t.region = 0 && (v = 1 || v = 2) then
      (t.setFld R.SYS_RADIO_ACTIVE v).irq pSIDEPHY 2 else t)

/-- SIDEPHY_CFG.MODE. -/
def State.phyMode (s : State) : Nat := s.fld R.SIDEPHY_CFG_MODE

/-- NCH of R373. -/
def State.nch (s : State) : Nat :=
  if s.region = 2 then (if s.phyMode = 0 then 129 else 64) else (if s.phyMode = 0 then 34 else 17)

/-- The radio is on: a region is in force, both pages enable it and are unfenced, and the module is in RUN, REST or
BIVOUAC outside a reset (R372, R394, R395). -/
def State.radioOn (s : State) : Bool :=
  s.variant ≠ .v16N && s.region ≠ 0 && s.flag R.SIDEPHY_CFG_EN && s.flag R.SIDE_CFG_EN &&
  !s.pageFenced pSIDE && !s.pageFenced pSIDEPHY && s.power ≤ pwrBivouac && s.rst.phase = .none

/-- The DORMANT listener of R471 has its window. -/
def State.listenerOn (s : State) : Bool :=
  s.variant ≠ .v16N && s.region ≠ 0 && s.flag R.SIDEPHY_CFG_EN && s.flag R.SIDE_CFG_EN &&
  !s.pageFenced pSIDE && !s.pageFenced pSIDEPHY && s.power = pwrDormant && s.pwr.listening

/-- The airtime, µs, of `octets` octets (R374). -/
def State.octetTime (s : State) (octets : Nat) : Nat :=
  if s.phyMode = 0 then octets * 8 * 20 else (octets * 8 * 20 + 2) / 3

/-- The airtime of a PPDU with a PSDU of `len` octets. -/
def State.ppduTime (s : State) (len : Nat) : Nat := s.octetTime (s.fld R.SIDEPHY_CFG_PRE_LEN + 4 + len)

/-! ## The transmit budget (R389–R392) -/

/-- The sub-band whose range holds the whole of channel `c`, EU (R373, R390). -/
def State.subBand (s : State) (c : Nat) : Option Nat :=
  let mid : Nat := if s.phyMode = 0 then 125 + 200 * c else 225 + 400 * c
  let half : Nat := if s.phyMode = 0 then 100 else 200
  (List.range 6).find? fun k =>
    s.fld (R.SIDEPHY_SB_RANGE_LO_KHZ k) + half ≤ mid && mid + half ≤ s.fld (R.SIDEPHY_SB_RANGE_HI_KHZ k)

/-- Module time in whole seconds, by which the accounts age. -/
def State.airSec (s : State) : Nat := s.now / 1000000000

/-- The airtime of sub-band k in the 361 buckets of 10 s (R390). -/
def State.bandUsed (s : State) (k : Nat) : Nat :=
  s.airtime.foldl (fun (n : Nat) (e : Nat × Nat × Nat) =>
    if e.1 = k && s.airSec / 10 ≤ e.2.1 / 10 + 360 then n + e.2.2 else n) 0

/-- The airtime of channel c in the 21 buckets of 1 s (R391). -/
def State.dwellUsed (s : State) (c : Nat) : Nat :=
  s.airtime.foldl (fun (n : Nat) (e : Nat × Nat × Nat) =>
    if e.1 = 16 + c && s.airSec ≤ e.2.1 + 20 then n + e.2.2 else n) 0

/-- A transmission of class `cls` and `air` µs may start on channel c (R390, R391). -/
def State.mayRadiate (s : State) (c cls air : Nat) : Bool :=
  if s.region = 2 then s.dwellUsed c + air ≤ 400000
  else match s.subBand c with
    | none => false
    | some k =>
      let budget := s.fld (R.SIDEPHY_SB_LIMIT_DUTY k) * 360000
      let room := if cls = 0 then budget else budget - budget * s.fld (R.SIDEPHY_SB_LIMIT_RESERVE k) / 1000
      s.bandUsed k + air ≤ room

/-- The conducted power limit on channel c, 0.01 dBm (R390, R391); `used` is how many channels are in use. -/
def State.powerLimit (s : State) (c used : Nat) : Int :=
  let own := 100 * toSigned 8 (s.fld R.SIDEPHY_POWER_MAX_DBM)
  let ant := 100 * toSigned 8 (s.fld R.SIDEPHY_POWER_ANT_DBI)
  if s.region = 2 then min own (min 2700 ((if used < 50 then 2400 else 3000) - max 0 (ant - 600)))
  else match s.subBand c with
    | some k => min own (100 * toSigned 8 (s.fld (R.SIDEPHY_SB_LIMIT_ERP_DBM k)) - ant + 215)
    | none => own

/-- A frame that must wait, or an event missed, on a budget (R389): counted under R390 or R391. -/
def State.noteWait (s : State) : State :=
  if s.region = 2 then (s.inc R.SIDEPHY_CNT_DWELL_N).irq pSIDEPHY 1 else (s.inc R.SIDEPHY_CNT_BUDGET_N).irq pSIDEPHY 0

/-- A PPDU leaves on channel c: it is counted and its airtime accounted (R390–R392). -/
def State.radiate (s : State) (c used : Nat) (psdu : List Byte) : State :=
  let air := s.ppduTime psdu.length
  let key : Nat := if s.region = 2 then 16 + c else (s.subBand c).getD 0
  let keep := s.airtime.filter fun (e : Nat × Nat × Nat) => s.airSec ≤ e.2.1 + 3610
  let t := { s with airtime := (key, s.airSec, air) :: keep }
  ((t.inc R.SIDEPHY_CNT_TX_N).setFld R.SIDEPHY_STAT_CHANNEL c).emit (.sideFrame c air (s.powerLimit c used) psdu)

/-! ## Discovery (R382) -/

/-- The discovery second, the µs into it, and its source: 0 none, 1 PTP, 2 beacon. -/
def State.discTime (s : State) : Nat × Nat × Nat :=
  if s.ptpState = ptpLocked || s.ptpState = ptpHoldover || s.ptpState = ptpGrandmaster then
    (s.ptp.ns / 1000000000, s.ptp.ns % 1000000000 / 1000, 1)
  else match s.side.adopted with
    | some (sec, us, at0) =>
      let n := us + (s.sideTime - at0)
      (sec + n / 1000000, n % 1000000, 2)
    | none => (0, 0, 0)

/-- The channels enabled in SIDEPHY_DMAP, ascending. -/
def State.discList (s : State) : List Nat :=
  (List.range 160).filter fun j => bitSet (s.fld (R.SIDEPHY_DMAP_CH (j / 32))) (j % 32)

/-- The discovery channel. -/
def State.discChannel (s : State) : Option Nat :=
  let l := s.discList
  if l.length = 0 then none
  else l[(s.fld R.SIDEPHY_DISC_BASE + s.discTime.1 * s.fld R.SIDEPHY_DISC_HOP) % l.length]?

/-- A list of channels meets the rule of R382 for the region. -/
def State.channelsOk (s : State) (l : List Nat) : Bool :=
  l.all (fun c => c < s.nch) &&
  (if s.region = 2 then (if s.phyMode = 0 then 50 else 25) ≤ l.length else l.all fun c => (s.subBand c).isSome)

/-- DISCOVERY_SECOND: listening and stateless traffic move to the new channel (R382, R383). -/
def execDiscoverySecond (s : State) : Res :=
  let s := s.begin
  if !s.radioOn then .next s
  else
    .next (match s.discChannel with
      | some c => s.setFld R.SIDEPHY_STAT_CHANNEL c
      | none => s)

/-! ## Frames, counters and slots (R375–R380, R388) -/

/-- The FC last sent under a key slot (R378, R392). -/
def State.txCounter (s : State) (k : Nat) : Nat := memLE s.mem.mram (0xA000 + 4 * k) 4

/-- The last FC accepted from a source under a key slot, 0 for none (R380, R392; assumption log, entry 12). -/
def rxCounterAt (src k : Nat) : Nat := 0x2000 + 16 * (src % 0x800) + 4 * k
def State.rxCounter (s : State) (src k : Nat) : Nat := memLE s.mem.mram (rxCounterAt src k) 4

/-- Key slot k is loaded. -/
def State.keyLoaded (s : State) (k : Nat) : Bool := (s.side.keys.getD k none).isSome

/-- The next FC of a key slot, written to MRAM before the first bit leaves; none where the counter is exhausted
(R378). -/
def State.takeFc (s : State) (k : Nat) : State × Option Nat :=
  let c := s.txCounter k + 1
  if 0xFFFFFFFF ≤ c then ((s.setBit R.SIDE_KEYSTAT_EXHAUSTED k true).irq pSIDE 3, none)
  else (s.mramWrite (0xA000 + 4 * k) (leBytes 4 c), some c)

/-- The PSDU of a frame: MAC header, type fields, payload and MIC under CCM*, FCS (R375, R377). -/
def State.psdu (s : State) (type : Nat) (ack : Bool) (net dst key fc : Nat) (fields payload : List Byte) : List Byte :=
  let src := s.fld R.SIDE_CFG_ADDR
  let k := (s.side.keys.getD key none).getD []
  let nonce := beBytes 1 key ++ beBytes 2 net ++ beBytes 2 src ++ beBytes 2 dst ++ [0] ++ beBytes 4 fc ++ [6]
  let aad := beBytes 1 (type * 16 + 8 * b2n ack) ++ beBytes 2 net ++ beBytes 2 dst ++ beBytes 2 src ++
    beBytes 1 key ++ beBytes 4 fc ++ fields
  let body := aad ++ fixLen (payload.length + 8) (Config.ccmSeal k nonce aad payload)
  body ++ beBytes 4 (crc32 body)

/-- The length of a PSDU with `n` bytes of type fields and payload. -/
def psduLen (n : Nat) : Nat := 12 + n + 12

/-- An event of the instant `at0`, ns of module time, enters the FIFO of 16 (R388). -/
def State.sideEventAt (s : State) (kind index at0 : Nat) : State :=
  if s.side.events.length < 16 then
    (s.setSide { s.side with events := s.side.events ++ [(kind, index, at0)] }).irq pSIDE 0
  else s.inc R.SIDE_CNT_EVT_LOST_N

/-- An event of this instant. -/
def State.sideEvent (s : State) (kind index : Nat) : State := s.sideEventAt kind index s.now

def resDone : Nat := 1
def resNoAck : Nat := 2
def resExpired : Nat := 3
def resLinkLost : Nat := 4
def resRefused : Nat := 5
def resTooLong : Nat := 6

/-- Transmit slot t ends with a result; a timed BEACON has no slot. -/
def State.endSlot (s : State) (slot : Option Nat) (res : Nat) : State := match slot with
  | none => s
  | some t =>
    let s1 := s.setFlds [(R.SIDE_TX_BUSY t, 0), (R.SIDE_TX_RESULT t, res)]
    let s2 := if res = resNoAck then s1.inc R.SIDE_CNT_NOACK_N
      else if res = resExpired then s1.inc R.SIDE_CNT_EXPIRED_N else s1
    s2.sideEvent 5 t

/-- `n` payload bytes of transmit slot t. -/
def State.slotPayload (s : State) (t n : Nat) : List Byte :=
  ((List.range 26).flatMap fun w => leBytes 4 (s.fld (R.SIDE_TX_PAYLOAD t w))).take n

/-- The payload of a BEACON, from the registers (R376). -/
def State.beaconPayload (s : State) : List Byte :=
  let d := s.discTime
  beBytes 1 (b2n (d.2.2 ≠ 0) + 2 * b2n (s.role = roleSummit) + 4 * b2n (s.flag R.SIDE_BEACON_CONNECTABLE)) ++
  beBytes 2 (s.fld R.SIDE_BSEG_SEGMENT) ++ beBytes 6 d.1 ++ beBytes 4 d.2.1

/-- The fields of a CONNECT payload (R376). -/
def connectInfo (p : List Byte) : ConnectInfo :=
  ⟨beAt p 0 2, beAt p 2 2, beAt p 4 2, beAt p 6 1, beAt p 7 1, beAt p 8 1, leNat ((p.drop 10).take 20)⟩

/-- A link by index. -/
def State.link (s : State) (l : Nat) : Option SideLink := s.side.links.getD l none

/-- Replace a link. -/
def State.setLink (s : State) (l : Nat) (x : Option SideLink) : State :=
  s.setSide { s.side with links := s.side.links.set l x }

/-- The TYPE of R375 of each slot KIND, and the longest payload of the kind. -/
def kindType (k : Nat) : Nat := match k with | 0 => 2 | 1 => 4 | 2 => 5 | 3 => 6 | 4 => 1 | _ => 7
def kindMax (k : Nat) : Nat := match k with | 0 => 103 | 1 => 30 | 2 => 97 | 3 => 0 | 4 => 13 | _ => 0

/-- The stateless frame of a slot. -/
def State.slotFrame (s : State) (t kind : Nat) : SideTx :=
  let len := s.fld (R.SIDE_TX_LEN t)
  let dst := s.fld (R.SIDE_TX_DST t)
  { slot := some t, type := kindType kind
    ackReq := if kind = 0 then s.flag (R.SIDE_TX_ACK_REQ t) && dst ≠ 0xFFFF else kind ≠ 4
    dst := if kind = 4 then 0xFFFF else dst
    key := s.fld (R.SIDE_TX_KEY t), cls := s.fld (R.SIDE_TX_CLASS t)
    payload := if kind = 4 then s.beaconPayload else if kind = 1 then s.slotPayload t 30 else s.slotPayload t len }

/-- A write of SIDE_TX_GO queues slot t as its KIND says; it ends at once where it may not be sent (R375, R378, R386).
KINDs 6 and 7 are no kinds. A module without a radio ignores the write (R1). -/
def State.sideGo (s : State) (m : Master) (t : Nat) : Res :=
  if s.pageAbsent pSIDE then .next s
  else s.asWrite m pSIDE rightConfig fun u0 =>
    let t := t % 16
    let u := u0.setFld R.SIDE_TX_GO_SLOT t
    let kind := u.fld (R.SIDE_TX_KIND t)
    let key := u.fld (R.SIDE_TX_KEY t)
    let l := u.fld (R.SIDE_TX_LINK t)
    if u.flag (R.SIDE_TX_BUSY t) then .next u
    else if 5 < kind then .fault (.unpredictable 375)
    else
      let v := u.setFlds [(R.SIDE_TX_RESULT t, 0), (R.SIDE_TX_BUSY t, 1)]
      if kindMax kind < v.fld (R.SIDE_TX_LEN t) then .next (v.endSlot (some t) resTooLong)
      else if kind = 2 || kind = 3 then
        match v.link l with
        | none => .next (v.endSlot (some t) resLinkLost)
        | some x =>
          if !v.radioOn || v.bit R.SIDE_KEYSTAT_EXHAUSTED x.key || !v.keyLoaded x.key then
            .next (v.endSlot (some t) resRefused)
          else if kind = 2 then .next (v.setLink l (some { x with queue := x.queue ++ [t] }))
          else .next (v.setLink l (some { x with term := some t }))
      else if !v.radioOn || !v.keyLoaded key || v.bit R.SIDE_KEYSTAT_EXHAUSTED key then
        .next (v.endSlot (some t) resRefused)
      else .next (v.setSide { v.side with queue := v.side.queue ++ [v.slotFrame t kind] })

/-- SIDE_SEND_DATA. -/
def execSideSendData (m : Master) (t : Nat) (s : State) : Res := s.begin.sideGo m t
/-- SIDE_SEND_CONNECT. -/
def execSideSendConnect (m : Master) (t : Nat) (s : State) : Res := s.begin.sideGo m t
/-- SIDE_SEND_LINK. -/
def execSideSendLink (m : Master) (t : Nat) (s : State) : Res := s.begin.sideGo m t
/-- SIDE_SEND_TERMINATE. -/
def execSideSendTerminate (m : Master) (t : Nat) (s : State) : Res := s.begin.sideGo m t
/-- SIDE_SEND_BEACON. -/
def execSideSendBeacon (m : Master) (t : Nat) (s : State) : Res := s.begin.sideGo m t
/-- SIDE_SEND_WAKE. -/
def execSideSendWake (m : Master) (t : Nat) (s : State) : Res := s.begin.sideGo m t

/-! ## Stateless transmission (R381, R383) -/

/-- The frame and its ACK wait end at least 2 ms before the discovery second does; without a source there is none to
end (R383). -/
def State.fitsSecond (s : State) (x : SideTx) : Bool :=
  let d := s.discTime
  let wait := if x.ackReq then 1200 + s.octetTime (s.fld R.SIDEPHY_CFG_PRE_LEN + 2) else 0
  d.2.2 = 0 || d.2.1 + s.ppduTime (psduLen x.payload.length) + wait + 2000 ≤ 1000000

/-- The frame in progress as it leaves: a BEACON takes its payload as its preamble starts (R376). -/
def State.formed (s : State) (x : SideTx) : SideTx := if x.type = 1 then { x with payload := s.beaconPayload } else x

/-- The frame in progress is sent, for the first time or again, or waits for its second or its budget (R378, R381, R383,
R389). -/
def State.sendCur (s : State) (y : SideTx) : State :=
  let x := s.formed y
  match s.discChannel with
  | none => s.setSide { s.side with cur := some x }
  | some c =>
    let air := s.ppduTime (psduLen x.payload.length)
    if !s.fitsSecond x then s.setSide { s.side with cur := some { x with awaiting := false, backoff := false } }
    else if !s.mayRadiate c x.cls air then
      let t := if x.waited then s else s.noteWait
      t.setSide { t.side with cur := some { x with waited := true, awaiting := false, backoff := false } }
    else
      let fr : State × Option Nat := match x.fc with
        | some fc => (s, some fc)
        | none => s.takeFc x.key
      match fr.2 with
      | none => (fr.1.setSide { fr.1.side with cur := none }).endSlot x.slot resRefused
      | some fc =>
        let p := fr.1.psdu x.type x.ackReq (s.fld R.SIDE_CFG_NET_ID) x.dst x.key fc [] x.payload
        let u := (fr.1.radiate c s.discList.length p).sideEvent 2 (x.slot.getD 0)
        if x.ackReq then
          u.setSide { u.side with
            cur := some { x with fc := some fc, sent := x.sent + 1, awaiting := true, backoff := false, waited := false } }
        else (u.setSide { u.side with cur := none }).endSlot x.slot resDone

/-- SIDE_TX_START: the frame in progress that waits, or the next queued one, starts (R383, R389). An uncorrectable word
in its slot fences SIDE (R394). -/
def execSideTxStart (ecc : Ecc) (s : State) : Res :=
  let s := s.begin
  if !s.radioOn then .next s
  else if ecc = Ecc.uncorrectable then .next (s.fenceBlock pSIDE causeEcc)
  else if !s.channelsOk s.discList then .fault (.unpredictable 382)
  else match s.side.cur with
    | some x => .next (if x.awaiting || x.backoff then s else s.sendCur x)
    | none => match s.side.queue with
      | [] => .next s
      | x :: rest => .next ((s.setSide { s.side with queue := rest }).sendCur x)

/-- SIDE_ACK_TIMEOUT: a backoff starts, or the slot ends with NO_ACK after RETRIES repeats (R381). -/
def execSideAckTimeout (s : State) : Res :=
  let s := s.begin
  match s.side.cur with
  | none => .next s
  | some x =>
    if !x.awaiting then .next s
    else if x.sent ≤ s.fld R.SIDE_RETRY_RETRIES then
      .next (s.setSide { s.side with cur := some { x with awaiting := false, backoff := true } })
    else .next ((s.setSide { s.side with cur := none }).endSlot x.slot resNoAck)

/-- SIDE_RETRY_BACKOFF: the same bytes are sent again (R378, R381). -/
def execSideRetryBackoff (s : State) : Res :=
  let s := s.begin
  match s.side.cur with
  | none => .next s
  | some x => .next (if x.backoff && s.radioOn then s.sendCur { x with backoff := false } else s)

/-- SIDE_DEADLINE_EXPIRY: a slot not done ends with EXPIRED; a DEADLINE_MS of 0 is none (R381). -/
def execSideDeadlineExpiry (t : Nat) (s : State) : Res :=
  let s := s.begin
  if !s.flag (R.SIDE_TX_BUSY t) || s.fld (R.SIDE_TX_DEADLINE_MS t) = 0 then .next s
  else
    let links := s.side.links.map fun (o : Option SideLink) => o.map fun x =>
      { x with queue := x.queue.filter (· ≠ t), term := if x.term = some t then none else x.term
               out := match x.out with
                 | some (t0, fc, p) => if t0 = t then none else some (t0, fc, p)
                 | none => none }
    let queue := s.side.queue.filter fun (x : SideTx) => x.slot ≠ some t
    let cur := match s.side.cur with
      | some x => if x.slot = some t then none else some x
      | none => none
    .next ((s.setSide { s.side with links := links, queue := queue, cur := cur }).endSlot (some t) resExpired)

/-- SIDE_BEACON_TIMER: one BEACON in each period (R383; its key slot: assumption log, entry 12). -/
def execSideBeaconTimer (s : State) : Res :=
  let s := s.begin
  let key : Nat := if s.fld R.SIDE_CFG_NET_ID = 0xFFFF then 0 else 1
  if s.radioOn && s.fld R.SIDE_BEACON_PERIOD_S ≠ 0 && s.keyLoaded key then
    let x : SideTx := { slot := none, type := 1, ackReq := false, dst := 0xFFFF, key := key, cls := 1,
                        payload := s.beaconPayload }
    .next (s.setSide { s.side with queue := s.side.queue ++ [x] })
  else .next s

/-! ## Links (R384–R387) -/

/-- Bit c of the map. -/
def ConnectInfo.used (i : ConnectInfo) : List Nat := (List.range 160).filter fun c => bitSet i.map c

/-- Every field of a CONNECT meets R376 and R382 (R384). -/
def State.connectOk (s : State) (p : List Byte) : Bool :=
  let i := connectInfo p
  20 ≤ i.ci && i.ci ≤ 10000 && 3 * i.ci ≤ i.sup && i.sup ≤ 60000 && 2 ≤ i.offset && i.offset ≤ 1000 &&
  1 ≤ i.hop && i.hop < s.nch && Nat.gcd i.hop s.nch = 1 && i.base < s.nch && 1 ≤ i.sca && i.sca ≤ 250 &&
  beAt p 9 1 = 0 && i.used.length ≠ 0 && s.channelsOk i.used

/-- The channel of event e (R385): the sum is taken modulo NCH before the u8 takes it, as C evaluates it. -/
def ConnectInfo.channel (i : ConnectInfo) (nch e : Nat) : Nat :=
  let u := (i.base + e * i.hop) % nch
  if bitSet i.map u then u else i.used.getD (u % i.used.length) 0

/-- The receive window's half width W, µs, `n` connection intervals after the central was last heard (R387). -/
def State.widen (s : State) (i : ConnectInfo) (n : Nat) : Nat :=
  min (((s.fld R.SIDEPHY_SCA_PPM + i.sca) * (n * i.ci * 1000) + 999999) / 1000000 + 32) (i.ci * 500)

/-- A link opens in the first free index (R384). -/
def State.openLink (s : State) (central : Bool) (peer key net fc : Nat) (i : ConnectInfo) : State :=
  match (List.range 8).find? (fun l => (s.link l).isNone) with
  | none => s
  | some l =>
    ((s.setLink l (some ⟨central, peer, key, net, i, 0, false, 0, fc, none, [], none⟩)).setFlds
      [(R.SIDE_LINK_STAT_UP l, 1), (R.SIDE_LINK_STAT_CENTRAL l, b2n central), (R.SIDE_LINK_STAT_PEER l, peer),
       (R.SIDE_LINK_STAT_EVENT l, 0), (R.SIDE_LINK_TIME_MISSED l, 0), (R.SIDE_LINK_TIME_WIDEN_US l, 0)]).setBit
      R.SIDE_STATUS_LINKS l true

/-- A link is lost or terminated: its pending slots end with LINK_LOST (R387). -/
def State.closeLink (s : State) (l : Nat) : State := match s.link l with
  | none => s
  | some x =>
    let slots : List Nat := (match x.out with | some o => [o.1] | none => []) ++ x.queue ++ x.term.toList
    let t := slots.foldl (fun (u : State) k => u.endSlot (some k) resLinkLost) s
    ((((t.setLink l none).setFld (R.SIDE_LINK_STAT_UP l) 0).setBit R.SIDE_STATUS_LINKS l false).inc
      R.SIDE_CNT_LINK_LOST_N).irq pSIDE 2 |>.sideEvent 4 l

/-- The module sends its frame of the event in progress on link l: a TERMINATE, the outstanding frame again, the next
queued LINK slot, or an empty frame. A slot without payload is an empty frame, which is never repeated, and is done once
sent (R386). -/
def State.sendLink (s : State) (l : Nat) (x : SideLink) : State :=
  let c := x.info.channel s.nch (x.k - 1)
  let ef := beBytes 2 (x.k - 1) ++ beBytes 4 x.ackFc
  let next : Option (Nat × Option Nat × List Byte) := match x.out with
    | some (t, fc, p) => some (t, some fc, p)
    | none => match x.queue with
      | t :: _ => some (t, none, s.slotPayload t (s.fld (R.SIDE_TX_LEN t)))
      | [] => none
  let size : Nat := match x.term, next with
    | some _, _ => 7
    | none, some n => 6 + n.2.2.length
    | none, none => 6
  if !s.mayRadiate c 0 (s.ppduTime (psduLen size)) then s.noteWait
  else
    let fr : State × Option Nat := match x.term, next with
      | none, some (_, some fc, _) => (s, some fc)
      | _, _ => s.takeFc x.key
    match fr.2 with
    | none => fr.1
    | some fc =>
      let t := fr.1
      let n := x.info.used.length
      match x.term, next with
      | some slot, _ =>
        let p := t.psdu 6 false x.net x.peer x.key fc (ef ++ beBytes 1 (s.fld (R.SIDE_TX_DST slot))) []
        let u := ((t.radiate c n p).sideEvent 2 slot).endSlot (some slot) resDone
        (u.setLink l (some { x with term := none })).closeLink l
      | none, some (slot, _, data) =>
        let u := (t.radiate c n (t.psdu 5 false x.net x.peer x.key fc ef data)).sideEvent 2 slot
        let y := { x with queue := x.queue.filter (· ≠ slot) }
        if data = [] then (u.setLink l (some y)).endSlot (some slot) resDone
        else u.setLink l (some { y with out := some (slot, fc, data) })
      | none, none => (t.radiate c n (t.psdu 5 false x.net x.peer x.key fc ef [])).sideEvent 2 l

/-- Every link is closed, with a TERMINATE where the budget allows one (R395). -/
def State.closeAll (s : State) : State :=
  (List.range 8).foldl (fun (t : State) l => match t.link l with
    | none => t
    | some x =>
      if t.radioOn && t.mayRadiate (x.info.channel t.nch (x.k - 1)) 0 (t.ppduTime (psduLen 7)) then
        let fr := t.takeFc x.key
        match fr.2 with
        | none => fr.1.closeLink l
        | some fc =>
          let ef := beBytes 2 (x.k - 1) ++ beBytes 4 x.ackFc
          let p := fr.1.psdu 6 false x.net x.peer x.key fc (ef ++ [0]) []
          (fr.1.radiate (x.info.channel t.nch (x.k - 1)) x.info.used.length p).closeLink l
      else t.closeLink l) s

/-- SIDE_LINK_ANCHOR: the next event of link l begins; the central sends, the peripheral opens its window. Anchor 0 is
the instant of the link-up event (R385–R388). -/
def execSideLinkAnchor (l : Nat) (s : State) : Res :=
  let s := s.begin
  match s.link l with
  | none => .next s
  | some x =>
    if !s.radioOn then .next s
    else
      let missed : Nat := if x.k = 0 || x.heard then 0 else x.missed + 1
      let y := { x with k := x.k + 1, heard := false, missed := missed }
      let t := (s.setLink l (some y)).setFlds [(R.SIDE_LINK_STAT_EVENT l, x.k), (R.SIDE_LINK_TIME_MISSED l, missed),
        (R.SIDE_LINK_TIME_WIDEN_US l, if x.central then 0 else min 0xFFFF (s.widen x.info (missed + 1))),
        (R.SIDEPHY_STAT_CHANNEL, x.info.channel s.nch x.k)]
      let u := if x.k = 0 then t.sideEvent 3 l else t
      .next (if x.central then u.sendLink l y else u)

/-- SIDE_LINK_REPLY: the peripheral answers in an event in which it heard the central (R386). -/
def execSideLinkReply (l : Nat) (s : State) : Res :=
  let s := s.begin
  match s.link l with
  | none => .next s
  | some x => .next (if s.radioOn && !x.central && x.heard then s.sendLink l x else s)

/-- SIDE_LINK_SUPERVISION_TIMEOUT (R387). -/
def execSideLinkSupervisionTimeout (l : Nat) (s : State) : Res := .next (s.begin.closeLink l)

/-! ## Reception (R379, R380) -/

/-- The counter of each code of R379. -/
def sideCounter (code : Nat) : Fld := match code with
  | 1 => R.SIDE_CNT_FCS_N | 2 => R.SIDE_CNT_FORMAT_N | 3 => R.SIDE_CNT_FILTER_N | 4 => R.SIDE_CNT_KEY_N
  | 5 => R.SIDE_CNT_MIC_N | 6 => R.SIDE_CNT_REPLAY_N | 7 => R.SIDE_CNT_LINKERR_N | _ => R.SIDE_CNT_RX_FULL_N

/-- A PPDU is refused: counted, and shown in SIDE_LAST except for FILTER and REPLAY (R379). -/
def State.sideRefuse (s : State) (src code : Nat) : State :=
  let t := s.inc (sideCounter code)
  if code = 3 || code = 6 then t else t.setFlds [(R.SIDE_LAST_SRC, src), (R.SIDE_LAST_CODE, code)]

/-- SIDE_FRAME_REFUSED (R379). -/
def execSideFrameRefused (src code : Nat) (s : State) : Res :=
  let s := s.begin
  .next (if s.radioOn && 1 ≤ code && code ≤ 8 then s.sideRefuse src code else s)

/-- FILTER and KEY of R379, the first that applies. -/
def State.sideFilter (s : State) (f : SideFrame) : Option Nat :=
  let netOk := if f.net = 0xFFFF then f.key = 0 else f.net = s.fld R.SIDE_CFG_NET_ID
  let dstOk := f.dst = s.fld R.SIDE_CFG_ADDR || f.dst = 0xFFFF
  if !netOk || !dstOk then some 3 else if !s.keyLoaded f.key then some 4 else none

/-- The first receive entry free from RX_NEXT on. -/
def State.freeEntry (s : State) : Option Nat :=
  ((List.range 8).map fun i => (s.fld R.SIDE_RX_NEXT_ENTRY + i) % 8).find? fun e => !s.flag (R.SIDE_RX_FULL e)

/-- A frame is accepted: L takes its FC (R380). -/
def State.sideAccept (s : State) (f : SideFrame) : State :=
  ((s.mramWrite (rxCounterAt f.src f.key) (leBytes 4 f.fc)).inc R.SIDE_CNT_RX_OK_N).setFld R.SIDEPHY_STAT_RSSI f.rssi

/-- Deliver an accepted frame into entry e; its event has the instant of the end of its SFD (R380, R388). -/
def State.sideDeliver (s : State) (e type : Nat) (link : Option Nat) (f : SideFrame) : State :=
  let t := s.setFlds [(R.SIDE_RX_FULL e, 1), (R.SIDE_RX_TYPE e, type), (R.SIDE_RX_KEY e, f.key),
    (R.SIDE_RX_VIA_LINK e, b2n link.isSome), (R.SIDE_RX_LINK e, link.getD 0), (R.SIDE_RX_LEN e, f.payload.length),
    (R.SIDE_RX_RSSI e, f.rssi), (R.SIDE_RX_SRC e, f.src), (R.SIDE_RX_DST e, f.dst), (R.SIDE_RX_FC e, f.fc),
    (R.SIDE_RX_NET_ID e, f.net), (R.SIDE_RX_NEXT_ENTRY, e + 1)]
  let u := (List.range ((f.payload.length + 3) / 4)).foldl (fun (v : State) w =>
    v.setFld (R.SIDE_RX_PAYLOAD e w) (leNat ((f.payload.drop (4 * w)).take 4))) t
  (u.irq pSIDE 1).sideEventAt 1 e (s.side.t0 + 1000 * (f.start + s.octetTime (s.fld R.SIDEPHY_CFG_PRE_LEN + 2)))

/-- An ACK to a frame is due (R381). -/
def State.owesAck (s : State) (f : SideFrame) : State :=
  s.setSide { s.side with ackDue := some (f.net, f.src, f.key, f.fc) }

/-- The checks of R379 and R380 on a received frame: `fresh` handles FC above L, `again` FC equal to L. -/
def State.sideReceive (s : State) (f : SideFrame) (sizeOk : Bool) (fresh again : State → State) : Res :=
  if !s.radioOn then .next s
  else if !sizeOk then .next (s.sideRefuse f.src 2)
  else match s.sideFilter f with
    | some code => .next (s.sideRefuse f.src code)
    | none =>
      let l := s.rxCounter f.src f.key
      if l < f.fc then .next (fresh s)
      else if f.fc = l then .next (again (s.inc R.SIDE_CNT_DUP_N))
      else .next (s.sideRefuse f.src 6)

/-- SIDE_DATA_RECEIVE (R380, R381). -/
def execSideDataReceive (f : SideFrame) (ackReq : Bool) (s : State) : Res :=
  s.begin.sideReceive f (1 ≤ f.payload.length && f.payload.length ≤ 103 && !(ackReq && f.dst = 0xFFFF))
    (fun t => match t.freeEntry with
      | none => t.sideRefuse f.src 8
      | some e =>
        let u := (t.sideAccept f).sideDeliver e 2 none f
        if ackReq then u.owesAck f else u)
    (fun t => if ackReq then t.owesAck f else t)

/-- SIDE_BEACON_RECEIVE: delivered, and adopted as a time source where TIME_VALID is set (R380, R382). -/
def execSideBeaconReceive (f : SideFrame) (s : State) : Res :=
  s.begin.sideReceive f (f.payload.length = 13 && f.dst = 0xFFFF && beAt f.payload 0 1 < 8)
    (fun t => match t.freeEntry with
      | none => t.sideRefuse f.src 8
      | some e =>
        let u := (t.sideAccept f).sideDeliver e 1 none f
        if bitSet (beAt f.payload 0 1) 0 then
          u.setSide { u.side with adopted := some (beAt f.payload 3 6, beAt f.payload 9 4, f.start) }
        else u)
    (fun t => t)

/-- The ACK of a frame completes it; a CONNECT's opens the link at the central (R381, R384). -/
def State.sideAcked (s : State) (f : SideFrame) : State := match s.side.cur with
  | none => s
  | some x =>
    if x.awaiting && f.src = x.dst && x.fc = some f.acked then
      let t := (s.setSide { s.side with cur := none }).endSlot x.slot resDone
      if x.type = 4 then t.openLink true f.src x.key f.net f.fc (connectInfo x.payload) else t
    else s

/-- SIDE_ACK_RECEIVE (R379–R381). -/
def execSideAckReceive (f : SideFrame) (s : State) : Res :=
  s.begin.sideReceive f (f.payload.length = 0) (fun t => (t.sideAccept f).sideAcked f) (fun t => t)

/-- SIDE_CONNECT_RECEIVE: acknowledged where a link is free and every field holds, else refused with LINK (R384). -/
def execSideConnectReceive (f : SideFrame) (s : State) : Res :=
  s.begin.sideReceive f (f.payload.length = 30)
    (fun t =>
      if (List.range 8).any (fun l => (t.link l).isNone) && t.connectOk f.payload then
        let u := (t.sideAccept f).owesAck f
        u.setSide { u.side with connect := some (f.src, f.key, f.net, connectInfo f.payload) }
      else t.sideRefuse f.src 7)
    (fun t => t.owesAck f)

/-- SIDE_ACK_SEND: the ACK leaves as class 0 on the same channel, or not at all; a CONNECT's opens the link (R381,
R384). -/
def execSideAckSend (s : State) : Res :=
  let s := s.begin
  match s.side.ackDue, s.discChannel with
  | some (net, dst, key, fc), some c =>
    let t := s.setSide { s.side with ackDue := none }
    if !t.radioOn && !t.listenerOn then .next t
    else if !t.mayRadiate c 0 (t.ppduTime (psduLen 4)) then .next (t.inc R.SIDEPHY_CNT_NOACK_N)
    else
      let fr := t.takeFc key
      match fr.2 with
      | none => .next fr.1
      | some own =>
        let p := fr.1.psdu 3 false net dst key own (beBytes 4 fc) []
        let u := (fr.1.radiate c s.discList.length p).sideEvent 2 0
        match u.side.connect with
        | some (src, k, n, info) =>
          if src = dst then
            .next ((u.setSide { u.side with connect := none }).openLink false src k n fc info)
          else .next u
        | none => .next u
  | _, _ => .next (s.setSide { s.side with ackDue := none })

/-- The open link whose peer is `src`. -/
def State.linkOf (s : State) (src : Nat) : Option Nat :=
  (List.range 8).find? fun l => match s.link l with
    | some x => x.peer = src
    | none => false

/-- A valid peer frame in the event in progress: the link is re-anchored, and an acknowledged outstanding frame is
done (R386, R387). -/
def State.heardOn (s : State) (l : Nat) (x : SideLink) (f : SideFrame) : State :=
  let t := s.setFlds ((R.SIDE_LINK_TIME_MISSED l, 0) ::
    (if x.central then [] else [(R.SIDE_LINK_TIME_WIDEN_US l, min 0xFFFF (s.widen x.info 1))]))
  let y := { x with heard := true, missed := 0, ackFc := f.fc }
  match x.out with
  | some (slot, fc, p) =>
    if fc ≤ f.acked then (t.setLink l (some { y with out := none })).endSlot (some slot) resDone
    else t.setLink l (some { y with out := some (slot, fc, p) })
  | none => t.setLink l (some y)

/-- The link a LINK or TERMINATE frame belongs to: open, with its SRC as peer, and its EVENT in progress (R379). -/
def State.linkFor (s : State) (f : SideFrame) : Option (Nat × SideLink) := match s.linkOf f.src with
  | none => none
  | some l => match s.link l with
    | some x => if x.k ≠ 0 && f.event = (x.k - 1) % 65536 then some (l, x) else none
    | none => none

/-- SIDE_LINK_RECEIVE (R379, R380, R386, R387). -/
def execSideLinkReceive (f : SideFrame) (s : State) : Res :=
  let s := s.begin
  s.sideReceive f (f.payload.length ≤ 97)
    (fun t => match t.linkFor f with
      | none => t.sideRefuse f.src 7
      | some (l, x) =>
        if f.payload.length = 0 then (t.sideAccept f).heardOn l x f
        else match t.freeEntry with
          | none => t.sideRefuse f.src 8
          | some e => ((t.sideAccept f).heardOn l x f).sideDeliver e 5 (some l) f)
    (fun t => match t.linkFor f with
      | none => t
      | some (l, x) => t.heardOn l x f)

/-- SIDE_TERMINATE_RECEIVE (R387). -/
def execSideTerminateReceive (f : SideFrame) (s : State) : Res :=
  s.begin.sideReceive f (f.payload.length = 0)
    (fun t => match t.linkFor f with
      | none => t.sideRefuse f.src 7
      | some (l, x) => ((t.sideAccept f).heardOn l x f).closeLink l)
    (fun t => t)

/-- The acknowledgement and counting of a WAKE, which the MAC then discards outside DORMANT (R375, R381). -/
def State.wakeFrame (s : State) (f : SideFrame) : Res :=
  s.sideReceive f (f.payload.length = 0) (fun t => (t.sideAccept f).owesAck f) (fun t => t.owesAck f)

/-! ## Firmware's side (R379, R388) and faults (R394, R395) -/

/-- SIDE_EVT_POP: the oldest event leaves, with its age and the side-link time (R388). -/
def execSideEvtPop (m : Master) (s : State) : Res :=
  let s := s.begin
  if !m.holds rightRead then .next (s.emit (.refused codeRights))
  else match s.side.events with
    | [] => .next ((s.setFld R.SIDE_EVT 0).emit (.readData 0))
    | (kind, index, at0) :: rest =>
      let t := (s.setSide { s.side with events := rest }).setFlds
        [(R.SIDE_EVT_VALID, 1), (R.SIDE_EVT_KIND, kind), (R.SIDE_EVT_INDEX, index), (R.SIDE_EVT_INDEX_HI, index / 8),
         (R.SIDE_IRQ_AGE_CYCLES, min ((s.now - at0) * 32 / 1000) (2 ^ 24 - 1)), (R.SIDE_TIME_LAT_T, s.sideTime)]
      .next (t.emit (.readData (BitVec.ofNat 32 (t.fld R.SIDE_EVT))))

/-- SIDE_RX_RETURN (R379); ignored without a radio (R1). -/
def execSideRxReturn (m : Master) (e : Nat) (s : State) : Res :=
  if s.pageAbsent pSIDE then .next s.begin
  else s.begin.asWrite m pSIDE rightConfig fun t => .next (t.setFld (R.SIDE_RX_FULL e) 0)

/-- SIDEPHY_PLL_UNLOCK (R394). -/
def execSidephyPllUnlock (s : State) : Res := .next (s.begin.fenceBlock pSIDEPHY 0x0100)

/-- SIDE_COUNTER_STORE_FAIL (R394). -/
def execSideCounterStoreFail (s : State) : Res := .next (s.begin.fenceBlock pSIDE 0x0100)

/-- A release of the ECC fence of SIDE empties every slot and entry and closes every link (R394). -/
def State.sideEmpty (s : State) : State :=
  let t := (List.range 8).foldl (fun (u : State) l => u.closeLink l) s
  let u := (List.range 16).foldl (fun (v : State) k => v.setFlds [(R.SIDE_TX_BUSY k, 0), (R.SIDE_TX_RESULT k, 0)]) t
  let v := (List.range 8).foldl (fun (w : State) e => w.setFld (R.SIDE_RX_FULL e) 0) u
  v.setSide { v.side with queue := [], cur := none, ackDue := none, connect := none }

/-- A key replacement clears the counters of its slot and loads or empties the port (R378, R380, R408). -/
def State.sideKeyReplaced (s : State) (k : Nat) : State :=
  let t := s.mramWrite (0xA000 + 4 * k) [0, 0, 0, 0]
  let m := t.mem.mram.filter fun (c : Nat × Byte) => !(0x2000 ≤ c.1 && c.1 < 0xA000 && c.1 / 4 % 4 = k)
  { t with mem := { t.mem with mram := m } }.setBit R.SIDE_KEYSTAT_EXHAUSTED k false

/-- A push fills or empties key port k (R409). -/
def State.sidePush (s : State) (k : Nat) (key : Option (List Byte)) : State :=
  (s.setSide { s.side with keys := s.side.keys.set k key }).setBit R.SIDE_KEYSTAT_LOADED k key.isSome

end Sys2Proof.Machine
end

