-- ==== Sys2Proof/Machine/Anchor.lean ====
section
/-! DEFINITION. Anchor (R396–R423): key slots and pushes, the derived-key cache, the mailbox and its commands, starts and
fences. TAMPER_EVENT and ANCHOR_READY stand in Machine/Reset.lean, since a tamper response resets the module. -/
namespace Sys2Proof.Machine

/-- Change Anchor. -/
def State.setAnchor (s : State) (x : AnchorS) : State := { s with anchor := x }

/-! ## Status codes (R414) -/

def stOk : Nat := 0
def stFormat : Nat := 1
def stSlot : Nat := 2
def stPolicy : Nat := 3
def stEmpty : Nat := 4
def stStale : Nat := 5
def stDepth : Nat := 6
def stLabel : Nat := 7
def stAddress : Nat := 8
def stAuthFail : Nat := 9
def stBadSig : Nat := 0xA
def stSeq : Nat := 0xB
def stEntropy : Nat := 0xC
def stFenced : Nat := 0xD
def stStore : Nat := 0xE
def stBadKey : Nat := 0xF
def stRollback : Nat := 0x10

/-- Fence causes of R423. -/
def causeSelftest : Nat := 0x0100
def causeEntropy : Nat := 0x0101
def causeKeystore : Nat := 0x0102

/-- ANCHOR is fenced with a cause. -/
def State.anchorFenced (s : State) (cause : Nat) : Bool :=
  s.fences.any fun f => f.page = pANCHOR && f.cause = cause

/-! ## Slots (R401, R407–R410) -/

def slotHuk : Nat := 0
def slotIdent : Nat := 1
def slotMeter : Nat := 2
def slotParty : Nat := 3
def slotPartyNext : Nat := 4
def slotSide : Nat := 5
def slotImg0 : Nat := 9
def slotImg1 : Nat := 10
def slotUser : Nat := 11

/-- A USER slot. -/
def isUser (n : Nat) : Bool := 11 ≤ n && n ≤ 18

/-- A slot of Anchor. -/
def State.keySlot (s : State) (n : Nat) : AnchorSlot := s.anchor.slots.getD n {}

/-- Replace a slot. -/
def State.setKeySlot (s : State) (n : Nat) (x : AnchorSlot) : State :=
  s.setAnchor { s.anchor with slots := s.anchor.slots.set n x }

/-- Bytes of a secret key, and of a public key, by TYPE (R407, R420). -/
def keyLen (type : Nat) : Nat := if type = 1 then 16 else if type = 5 then 48 else 32
def pubLen (type : Nat) : Nat := if type = 5 then 96 else 64

/-- The key a slot holds, those of manufacture included. -/
def State.slotKey (s : State) (n : Nat) : List Byte :=
  if n = slotHuk then Config.huk else if n = slotIdent then Config.identKey
  else if n = slotImg0 then Config.img0Key else (s.keySlot n).key

/-- The public key X ‖ Y of an asymmetric slot. -/
def State.slotPub (s : State) (n : Nat) : List Byte :=
  if n = slotImg0 || n = slotImg1 then fixLen 64 (s.slotKey n)
  else fixLen (pubLen (s.keySlot n).type) (Config.ecPublic (s.keySlot n).type (s.slotKey n))

/-- A slot holds a key. -/
def State.slotFull (s : State) (n : Nat) : Bool := n = slotHuk || (s.keySlot n).type ≠ 0

/-- PTP seconds and ns, 0 unless PTP is locked or in holdover (R420). -/
def State.created (s : State) : Nat × Nat :=
  if s.ptpIsLocked || s.ptpState = ptpHoldover then (s.ptp.ns / 1000000000, s.ptp.ns % 1000000000) else (0, 0)

/-- A push copies a slot's key into its port, and an EMPTY slot's empties it (R409). -/
def State.pushSlot (s : State) (n : Nat) : State :=
  let key : Option (List Byte) := if s.slotFull n then some (s.slotKey n) else none
  if n = slotParty then
    { s with party := { s.party with keyCur := key } }.setFlag R.ANCHOR_PORTS_PARTY_CURRENT key.isSome
  else if n = slotPartyNext then
    { s with party := { s.party with keyOther := key } }.setFlag R.ANCHOR_PORTS_PARTY_OTHER key.isSome
  else if slotSide ≤ n && n < slotSide + 4 then
    let t := s.sidePush (n - slotSide) key
    t.setFld R.ANCHOR_PORTS_SIDE (t.fld R.SIDE_KEYSTAT_LOADED)
  else s

/-- A slot's key has been replaced or destroyed: a side-link slot's counters clear and its port follows (R408). -/
def State.slotChanged (s : State) (n : Nat) : State :=
  if slotSide ≤ n && n < slotSide + 4 then (s.sideKeyReplaced (n - slotSide)).pushSlot n else s

/-- A key replaces that of slot n, and KVER rises by 1 (R401, R407). -/
def State.replaceKey (s : State) (n type origin attr : Nat) (key : List Byte) : State :=
  (s.setKeySlot n ⟨type, origin, attr % 64 / 2 * 2 + 1, ((s.keySlot n).kver + 1) % 2 ^ 32, false, key, s.created⟩).slotChanged n

/-- Slot n becomes EMPTY; KVER is kept, so that the next key's is higher. -/
def State.destroyKey (s : State) (n : Nat) : State :=
  (s.setKeySlot n { kver := (s.keySlot n).kver }).slotChanged n

/-! ## Keys by handle (R406, R415) -/

/-- ATTR and USE bits of R401. -/
def useSign : Nat := 2
def useCipher : Nat := 3
def useMac : Nat := 4
def useDerive : Nat := 5

/-- Index of a session handle in its low byte: those of the derived-key cache are 0 to 7 (assumption log, entry 13). -/
def sessionIndex : Nat := 0x80

/-- The derived key of a handle (R406). -/
def State.derived (s : State) (h : Nat) : Option DerivedKey :=
  if h / 256 ≠ 0 && h % 256 < 8 && s.anchor.gens.getD (h % 256) 0 = h / 256 then s.anchor.cache.getD (h % 256) none
  else none

/-- What a handle names: TYPE, use bits, key, and whether it is a session's; or the STATUS that refuses it. -/
def State.keyOf (s : State) (h : Nat) : Except Nat (Nat × Nat × List Byte × Bool) :=
  if h < 256 then
    if !isUser h then .error stSlot
    else if !s.slotFull h then .error stEmpty
    else .ok ((s.keySlot h).type, (s.keySlot h).attr, s.slotKey h, false)
  else if sessionIndex ≤ h % 256 then
    match s.anchor.sessions.find? (fun (e : Nat × Nat × List Byte) => e.1 = h) with
    | some e => .ok (1, 2 ^ useCipher, e.2.2, true)
    | none => .error stStale
  else match s.derived h with
    | some d => .ok (2, d.use, d.key, false)
    | none => .error stStale

/-- The KDF of R405, for outputs of at most 256 bits. -/
def kdf (key label context : List Byte) (bytes : Nat) : List Byte :=
  fixLen bytes (fixLen 32 (Config.hmac256 key (beBytes 4 1 ++ label ++ [0] ++ context ++ beBytes 4 (8 * bytes))))

/-- ASCII text as bytes. -/
def ascii (t : String) : List Byte := t.toList.map fun c => BitVec.ofNat 8 c.toNat

/-- UNIT_ID, little-endian (R404, R415). -/
def unitIdBytes : List Byte := leBytes 16 Config.unitId

/-- A fresh secret from the DRBG: a free value (R399). -/
def State.secret (s : State) (n : Nat) : List Byte := leBytes n (s.freeBits (8 * n))

/-! ## Data in shared SRAM (R413) -/

/-- A range lies in shared SRAM; an empty one has no address to refuse (R19). -/
def inSram (a n : Nat) : Bool := n = 0 || 0x10000000 ≤ a && a + n ≤ 0x10400000

/-- Bytes of shared SRAM at a core address. -/
def State.sramRead (s : State) (a n : Nat) : List Byte := memRead s.mem.sram (a - 0x10000000) n

/-! ## The commands (R415). Each answers the state it leaves, STATUS and the result bytes. -/

abbrev MboxOut := State × Nat × List Byte

/-- A refusal: nothing changes (R397). -/
def State.deny (s : State) (st : Nat) : MboxOut := (s, st, [])

/-- A field of the parameters, little-endian. -/
def par (p : List Byte) (off len : Nat) : Nat := leAt p off len

/-- GET_INFO. -/
def State.mbGetInfo (s : State) (p : List Byte) : MboxOut :=
  if p.length ≠ 0 then s.deny stFormat
  else
    let slots := (List.range 19).flatMap fun n =>
      let x := s.keySlot n
      leBytes 1 (if n = slotHuk then Config.hukType else x.type) ++ leBytes 1 x.origin ++ leBytes 2 x.attr ++ leBytes 4 x.kver
    (s, stOk, leBytes 1 s.anchor.lifecycle ++ leBytes 1 s.anchor.level ++ leBytes 2 0 ++ unitIdBytes ++ slots)

/-- RANDOM. -/
def State.mbRandom (s : State) (p : List Byte) : MboxOut :=
  if p.length ≠ 2 || 244 < par p 0 2 then s.deny stFormat else (s.drawn, stOk, s.secret (par p 0 2))

/-- KEY_GEN (R407). A P-256 or P-384 key answers its public key too. -/
def State.mbKeyGen (s : State) (p : List Byte) : MboxOut :=
  let n := par p 0 1
  let type := par p 1 1
  let attr := par p 2 2
  if p.length ≠ 4 || type = 0 || 5 < type || 64 ≤ attr then s.deny stFormat
  else if 18 < n then s.deny stSlot
  else if n ≠ slotMeter && !isUser n then s.deny stPolicy
  else if n = slotMeter && type ≠ 4 then s.deny stSlot
  else
    let t := s.drawn.replaceKey n type 1 attr (s.secret (keyLen type))
    (t, stOk, leBytes 4 (t.keySlot n).kver ++ (if 4 ≤ type then t.slotPub n else []))

/-- The order of a curve, which a private scalar is below (R407; the curves' standards). -/
def curveOrder (type : Nat) : Nat :=
  if type = 4 then 0xFFFFFFFF00000000FFFFFFFFFFFFFFFFBCE6FAADA7179E84F3B9CAC2FC632551
  else 0xFFFFFFFFFFFFFFFFFFFFFFFFFFFFFFFFFFFFFFFFFFFFFFFFC7634D81F4372DDF581A0DB248B0A77AECEC196ACCC52973

/-- KEY_IMPORT (R403, R407). -/
def State.mbKeyImport (s : State) (p : List Byte) : MboxOut :=
  let n := par p 0 1
  let type := par p 1 1
  let attr := par p 2 2
  let key := p.drop 4
  let imported := slotParty ≤ n && n < slotImg0
  if p.length < 4 || type = 0 || 5 < type || 64 ≤ attr then s.deny stFormat
  else if 18 < n then s.deny stSlot
  else if !imported && !(isUser n && s.anchor.lifecycle = 1) then s.deny stPolicy
  else if imported && type ≠ 1 then s.deny stSlot
  else if key.length ≠ keyLen type then s.deny stFormat
  else if 4 ≤ type && (beNat key = 0 || curveOrder type ≤ beNat key) then s.deny stBadKey
  else
    let t := s.replaceKey n type 2 attr key
    (t, stOk, leBytes 4 (t.keySlot n).kver)

/-- KEY_DESTROY (R407). -/
def State.mbKeyDestroy (s : State) (p : List Byte) : MboxOut :=
  let n := par p 0 1
  if p.length ≠ 1 then s.deny stFormat
  else if 18 < n then s.deny stSlot
  else if n = slotHuk || n = slotIdent || n = slotImg0 || n = slotImg1 then s.deny stPolicy
  else (s.destroyKey n, stOk, [])

/-- KEY_PUSH (R409). -/
def State.mbKeyPush (s : State) (p : List Byte) : MboxOut :=
  let n := par p 0 1
  if p.length ≠ 1 then s.deny stFormat
  else if n < slotParty || slotImg0 ≤ n then s.deny stSlot
  else (s.pushSlot n, stOk, [])

/-- PARTY_PROMOTE (R410). -/
def State.mbPartyPromote (s : State) (p : List Byte) : MboxOut :=
  if p.length ≠ 0 then s.deny stFormat
  else if !s.slotFull slotPartyNext then s.deny stEmpty
  else
    let x := s.keySlot slotPartyNext
    let k := ((s.keySlot slotParty).kver + 1) % 2 ^ 32
    let t := ((s.setKeySlot slotParty { x with kver := k }).setKeySlot slotPartyNext { kver := x.kver })
    ((t.pushSlot slotParty).pushSlot slotPartyNext, stOk, leBytes 4 k)

/-- Move index i to the most recently used end. -/
def State.touch (s : State) (i : Nat) : State :=
  s.setAnchor { s.anchor with lru := s.anchor.lru.filter (· ≠ i) ++ [i] }

/-- Enter a derived key in the cache: a free entry, or the least recently used one; its generation rises (R406). -/
def State.cacheKey (s : State) (d : DerivedKey) : State × Nat :=
  let i : Nat := match (List.range 8).find? (fun j => (s.anchor.cache.getD j none).isNone) with
    | some j => j
    | none => s.anchor.lru.headD 0
  let g := s.anchor.gens.getD i 0 % 255 + 1
  ((s.setAnchor { s.anchor with cache := s.anchor.cache.set i (some d), gens := s.anchor.gens.set i g }).touch i, g * 256 + i)

/-- The parent of a derivation: its key, its use bits and its depth, or the STATUS that refuses it (R406). -/
def State.deriveParent (s : State) (h : Nat) : Except Nat (List Byte × Nat × Nat) :=
  if h = slotHuk then .ok (Config.huk, 0x3C, 0)
  else if h < 256 then
    if 18 < h then .error stSlot
    else if !isUser h then .error stPolicy
    else if !s.slotFull h then .error stEmpty
    else if !bitSet (s.keySlot h).attr useDerive then .error stPolicy
    else .ok (s.slotKey h, (s.keySlot h).attr, 0)
  else match s.derived h with
    | none => .error stStale
    | some d => if bitSet d.use useDerive then .ok (d.key, d.use, d.depth) else .error stPolicy

/-- DERIVE (R405, R406). -/
def State.mbDerive (s : State) (p : List Byte) : MboxOut :=
  let h := par p 0 2
  let ll := par p 3 1
  let cl := par p 4 1
  let label := (p.drop 8).take ll
  let context := (p.drop (8 + ll)).take cl
  if p.length ≠ 8 + ll + cl || par p 5 3 ≠ 0 || ll = 0 || 64 < ll || cl = 0 || 64 < cl then s.deny stFormat
  else match s.deriveParent h with
    | .error e => s.deny e
    | .ok (key, use, depth) =>
      let u := par p 2 1 &&& use &&& 0x3C
      if 5 ≤ depth + 1 then s.deny stDepth
      else if h = slotHuk && label.take 3 ≠ ascii "FW:" then s.deny stLabel
      else
        let old := (List.range 8).find? fun i => match s.anchor.cache.getD i none with
          | some d => d.parent = h && d.label = label && d.context = context && d.use = u
          | none => false
        match old with
        | some i => (s.touch i, stOk, leBytes 2 (s.anchor.gens.getD i 0 * 256 + i))
        | none =>
          let r := s.cacheKey ⟨h, label, context, u, depth + 1, kdf key label context 32⟩
          (r.1, stOk, leBytes 2 r.2)

/-- CIPHER: additional data, then data, then for a decryption the tag, lie in that order from SRC (R413, R415;
assumption log, entry 13). A length of 0 processes no data (R19). -/
def State.mbCipher (s : State) (p : List Byte) : MboxOut :=
  let mode := par p 2 1
  let tagLen := par p 3 1
  let src := par p 4 4
  let dst := par p 8 4
  let aadLen := par p 12 4
  let len := par p 16 4
  let dec : Bool := mode = 2 || mode = 4
  let ivLen : Nat := if mode ≤ 2 then 12 else if mode ≤ 4 then 13 else 0
  let need : Nat := if mode = 5 then useMac else useCipher
  if p.length ≠ 20 + ivLen || mode = 0 || 5 < mode || tagLen = 0 || 16 < tagLen then s.deny stFormat
  else match s.keyOf (par p 0 2) with
    | .error e => s.deny e
    | .ok (type, use, key, session) =>
      if type ≠ 1 && type ≠ 2 then s.deny stSlot
      else if !bitSet use need || (session && 2 < mode) then s.deny stPolicy
      else if !inSram src (aadLen + len + (if dec then tagLen else 0)) || (mode ≠ 5 && !inSram dst len) then s.deny stAddress
      else
        let iv := p.drop 20
        let aad := s.sramRead src aadLen
        let data := s.sramRead (src + aadLen) len
        let out := fixLen len (Config.cipherData mode key iv aad data)
        let tag := fixLen tagLen (Config.cipherTag mode key iv aad data)
        if dec && s.sramRead (src + aadLen + len) tagLen ≠ tag then s.deny stAuthFail
        else if mode = 5 then (s, stOk, tag)
        else (s.sramWrite none (dst - 0x10000000) out, stOk, if dec then [] else tag)

/-- HASH. -/
def State.mbHash (s : State) (p : List Byte) : MboxOut :=
  let alg := par p 0 1
  let a := par p 4 4
  let n := par p 8 4
  if p.length ≠ 12 || par p 1 3 ≠ 0 || alg = 0 || 2 < alg then s.deny stFormat
  else if !inSram a n then s.deny stAddress
  else (s, stOk, if alg = 1 then fixLen 32 (Config.sha256 (s.sramRead a n)) else fixLen 48 (Config.sha384 (s.sramRead a n)))

/-- HMAC. -/
def State.mbHmac (s : State) (p : List Byte) : MboxOut :=
  let a := par p 4 4
  let n := par p 8 4
  if p.length ≠ 12 || par p 2 2 ≠ 0 then s.deny stFormat
  else match s.keyOf (par p 0 2) with
    | .error e => s.deny e
    | .ok (type, use, key, _) =>
      if type ≠ 2 && type ≠ 3 then s.deny stSlot
      else if !bitSet use useMac then s.deny stPolicy
      else if !inSram a n then s.deny stAddress
      else (s, stOk, fixLen 32 (Config.hmac256 key (s.sramRead a n)))

/-- An ECDSA signature under a private key; the ephemeral scalar is a free value. -/
def State.signWith (s : State) (type : Nat) (key digest : List Byte) : List Byte :=
  fixLen (pubLen type) (Config.ecSign type key digest (s.secret (keyLen type)))

/-- SIGN. -/
def State.mbSign (s : State) (p : List Byte) : MboxOut :=
  let h := par p 0 2
  let digest := p.drop 2
  if p.length ≠ 34 && p.length ≠ 50 then s.deny stFormat
  else if !isUser h then s.deny stSlot
  else if !s.slotFull h then s.deny stEmpty
  else
    let x := s.keySlot h
    if x.type < 4 then s.deny stSlot
    else if !bitSet x.attr useSign then s.deny stPolicy
    else if digest.length ≠ keyLen x.type then s.deny stFormat
    else (s.drawn, stOk, s.signWith x.type x.key digest)

/-- VERIFY. -/
def State.mbVerify (s : State) (p : List Byte) : MboxOut :=
  let src := par p 0 1
  let type := par p 1 1
  let inline := src = 0xFF
  let k : Nat := if inline then pubLen type else 0
  if (type ≠ 4 && type ≠ 5) || p.length ≠ 2 + k + keyLen type + pubLen type then s.deny stFormat
  else if !inline && src ≠ slotImg0 && src ≠ slotImg1 && !isUser src then s.deny stSlot
  else if !inline && !s.slotFull src then s.deny stEmpty
  else if !inline && (s.keySlot src).type ≠ type then s.deny stSlot
  else
    let pub := if inline then (p.drop 2).take k else s.slotPub src
    let digest := (p.drop (2 + k)).take (keyLen type)
    if inline && !Config.ecValid type pub then s.deny stBadKey
    else if Config.ecVerify type pub digest (p.drop (2 + k + keyLen type)) then (s, stOk, []) else s.deny stBadSig

/-- LCP_AGREE: the session keys of R362 and R417, under two handles that replace the SESSION's earlier ones. -/
def State.mbLcpAgree (s : State) (p : List Byte) : MboxOut :=
  let session := par p 0 4
  let nonceC := (p.drop 4).take 16
  let ephC := (p.drop 20).take 64
  if p.length ≠ 84 then s.deny stFormat
  else if !Config.ecValid 4 ephC then s.deny stBadKey
  else
    let d := s.secret 32
    let nonceM := s.drawn.secret 16
    let keys := kdf (fixLen 32 (Config.ecdh d ephC)) (ascii "LCP1 keys") (nonceC ++ nonceM ++ beBytes 4 session) 32
    let others := s.anchor.sessions.filter fun (e : Nat × Nat × List Byte) => e.2.1 ≠ session
    let kept := if 14 < others.length then others.drop (others.length - 14) else others
    let h := fun (j : Nat) => ((s.anchor.handed + j) / 16 % 255 + 1) * 256 + sessionIndex + (s.anchor.handed + j) % 16
    let t := s.drawn.drawn.setAnchor { s.anchor with
      sessions := kept ++ [(h 0, session, keys.take 16), (h 1, session, keys.drop 16)], handed := s.anchor.handed + 2 }
    (t, stOk, nonceM ++ fixLen 64 (Config.ecPublic 4 d) ++ leBytes 2 (h 0) ++ leBytes 2 (h 1))

/-- LCP_SIGN (R417). -/
def State.mbLcpSign (s : State) (p : List Byte) : MboxOut :=
  if p.length < 8 || 232 < p.length then s.deny stFormat
  else if p.take 4 ≠ [0x4C, 0x43, 0x01, 0x02] then s.deny stPolicy
  else (s.drawn, stOk, s.signWith 4 Config.identKey (fixLen 32 (Config.sha256 p)))

/-- METER_SIGN (R289, R419). -/
def State.mbMeterSign (s : State) (p : List Byte) : MboxOut :=
  if p.length ≠ 4 then s.deny stFormat
  else if !s.slotFull slotMeter then s.deny stEmpty
  else if !s.flag R.METER_ACC_STMT_CTRL_DONE || s.fld R.METER_ACC_STMT_SEQ_SEQ ≠ par p 0 4 then s.deny stSeq
  else
    let bytes := (s.pageBytes pMETERACC 0x400 117).take 468
    (s.drawn, stOk, s.signWith 4 (s.slotKey slotMeter) (fixLen 32 (Config.sha256 bytes)))

/-- The attestation statement of R420, bytes 0 to 179. -/
def State.attestation (s : State) (n : Nat) (nonce : List Byte) : List Byte :=
  let x := s.keySlot n
  let key := if !s.slotFull n then []
    else if 4 ≤ x.type then s.slotPub n
    else fixLen 32 (Config.hmac256 (s.slotKey n) (ascii "ANCHOR KCV" ++ nonce))
  leBytes 4 0x41545331 ++ [1, BitVec.ofNat 8 n, BitVec.ofNat 8 x.type, BitVec.ofNat 8 x.origin] ++ leBytes 2 x.attr ++
  leBytes 1 s.anchor.lifecycle ++
  leBytes 1 (128 * b2n (s.flag R.ANCHOR_TAMPER_STAT_LATCHED) + s.anchor.level) ++ leBytes 4 x.kver ++ unitIdBytes ++
  leBytes 6 x.created.1 ++ leBytes 4 x.created.2 ++ fixLen 6 s.upd.version ++ fixLen 32 nonce ++ fixLen 96 key ++ leBytes 4 0

/-- ATTEST (R420). HUK may only derive (R401). -/
def State.mbAttest (s : State) (p : List Byte) : MboxOut :=
  let n := par p 0 1
  if p.length ≠ 36 || par p 1 3 ≠ 0 then s.deny stFormat
  else if 18 < n then s.deny stSlot
  else if n = slotHuk then s.deny stPolicy
  else
    let st := s.attestation n (p.drop 4)
    (s.drawn, stOk, st ++ s.signWith 4 Config.identKey (fixLen 32 (Config.sha256 st)))

/-- GET_CERT (R420). -/
def State.mbGetCert (s : State) (p : List Byte) : MboxOut :=
  if p.length ≠ 2 then s.deny stFormat
  else (s, stOk, leBytes 2 Config.identCert.length ++ (Config.identCert.drop (par p 0 2)).take 240)

/-- LIFECYCLE: forward only; DECOMMISSIONED destroys every slot but HUK, IDENT, IMG0 and IMG1 (R403). -/
def State.mbLifecycle (s : State) (p : List Byte) : MboxOut :=
  let target := par p 0 1
  if p.length ≠ 4 || par p 1 1 ≠ 0 || par p 2 2 ≠ 0x5EA1 then s.deny stFormat
  else if target ≤ s.anchor.lifecycle || 3 < target then s.deny stPolicy
  else
    let t := (s.setAnchor { s.anchor with lifecycle := target }).setFld R.ANCHOR_STATUS_LIFECYCLE target
    let gone : List Nat := if target = 3 then [2, 3, 4, 5, 6, 7, 8, 11, 12, 13, 14, 15, 16, 17, 18] else []
    (gone.foldl (fun (u : State) n => u.destroyKey n) t, stOk, [])

/-- FUSE: each operation succeeds once, and IMG0 is revoked only after IMG1 is fused (R415). -/
def State.mbFuse (s : State) (p : List Byte) : MboxOut :=
  let what := par p 0 1
  let pub := p.drop 4
  if par p 1 3 ≠ 0 || !((what = 1 && p.length = 68) || (what = 2 && p.length = 4)) then s.deny stFormat
  else if what = 1 then
    if s.slotFull slotImg1 then s.deny stPolicy
    else if !Config.ecValid 4 pub then s.deny stBadKey
    else (s.setKeySlot slotImg1 ⟨4, 3, 1, 1, false, pub, s.created⟩, stOk, [])
  else if !s.slotFull slotImg1 || s.anchor.img0Revoked then s.deny stPolicy
  else (s.setAnchor { s.anchor with img0Revoked := true }, stOk, [])

/-- TAMPER: set the level, which SEALED can only raise, or clear the latch while no source is active (R421, R422). -/
def State.mbTamper (s : State) (p : List Byte) (active : Bool) : MboxOut :=
  let op := par p 0 1
  let level := par p 1 1
  if p.length ≠ 2 || op = 0 || 2 < op || (op = 1 && 3 < level) then s.deny stFormat
  else if op = 1 then
    if s.anchor.lifecycle ≠ 1 && level < s.anchor.level then s.deny stPolicy
    else ((s.setAnchor { s.anchor with level := level }).setFld R.ANCHOR_STATUS_TAMPER_LEVEL level, stOk, [])
  else if active then s.deny stPolicy
  else (s.setFlds [(R.ANCHOR_TAMPER_STAT_LATCHED, 0), (R.ANCHOR_TAMPER_STAT_UNPOWERED, 0),
    (R.ANCHOR_TAMPER_STAT_SOURCE, 0), (R.ANCHOR_TAMPER_TIME_SEC, 0)], stOk, [])

/-- The bytes of a principal table that MAC covers, and whether its MAGIC, COUNT and length hold (R418). -/
def tableBody (t : List Byte) : List Byte := t.take (t.length - 32)
def tableOk (t : List Byte) : Bool :=
  let n := leAt t 6 2
  leAt t 0 4 = 0x4C505431 && leAt t 4 2 = 1 && 1 ≤ n && n ≤ 64 && t.length = 16 + 80 * n + 32

/-- MAC of a principal table (R418). -/
def tableMac (t : List Byte) : List Byte :=
  fixLen 32 (Config.hmac256 (kdf Config.huk (ascii "ANCHOR PRINCIPALS") unitIdBytes 32) (tableBody t))

/-- The entry of a KEY_ID in a principal table: its rights and public key. -/
def tableEntry (t keyId : List Byte) : Option (Nat × List Byte) :=
  ((List.range (leAt t 6 2)).find? fun i => (t.drop (16 + 80 * i)).take 8 = keyId).map fun i =>
    (leAt t (24 + 80 * i) 1, (t.drop (32 + 80 * i)).take 64)

/-- In SEALED, a new table needs the signature of an entry of the last one that holds SECURE (R418). -/
def State.sealAllowed (s : State) (p body : List Byte) : Nat :=
  if s.anchor.lifecycle = 1 then stOk
  else match tableEntry s.anchor.table ((p.drop 8).take 8) with
    | none => stPolicy
    | some (rights, pub) =>
      let mac := s.anchor.table.drop (s.anchor.table.length - 32)
      if !bitSet rights rightSecure then stPolicy
      else if Config.ecVerify 4 pub (fixLen 32 (Config.sha256 (body ++ mac))) (p.drop 16) then stOk else stBadSig

/-- TABLE_SEAL (R418). -/
def State.mbTableSeal (s : State) (p : List Byte) : MboxOut :=
  let a := par p 0 4
  let n := par p 4 4
  if p.length ≠ (if s.anchor.lifecycle = 1 then 8 else 80) then s.deny stFormat
  else if !inSram a n then s.deny stAddress
  else
    let t := s.sramRead a n
    if !tableOk t then s.deny stFormat
    else if leAt t 8 4 ≤ s.anchor.serial then s.deny stRollback
    else
      let st := s.sealAllowed p (tableBody t)
      if st ≠ stOk then s.deny st
      else
        let mac := tableMac t
        let u := s.sramWrite none (a - 0x10000000 + n - 32) mac
        (u.setAnchor { u.anchor with serial := leAt t 8 4, table := tableBody t ++ mac }, stOk, [])

/-- TABLE_CHECK (R418). -/
def State.mbTableCheck (s : State) (p : List Byte) : MboxOut :=
  let a := par p 0 4
  let n := par p 4 4
  if p.length ≠ 8 then s.deny stFormat
  else if !inSram a n then s.deny stAddress
  else
    let t := s.sramRead a n
    if !tableOk t then s.deny stFormat
    else if t.drop (n - 32) ≠ tableMac t then s.deny stAuthFail
    else if leAt t 8 4 < s.anchor.serial then s.deny stRollback
    else (s, stOk, leBytes 2 (leAt t 6 2) ++ leBytes 4 (leAt t 8 4))

/-! ## The mailbox (R411, R412) -/

/-- Commands an M-mode hart alone may give; commands that use stored slots; commands that write the key store; commands
left in DECOMMISSIONED (R403, R415, R423). -/
def mOnly (cmd : Nat) : Bool := [0x03, 0x04, 0x05, 0x07, 0x13, 0x14, 0x15, 0x16].contains cmd
def usesStore (cmd : Nat) : Bool :=
  [0x03, 0x04, 0x05, 0x06, 0x07, 0x0C, 0x0F, 0x10, 0x11, 0x15, 0x16, 0x17].contains cmd
def writesStore (cmd : Nat) : Bool := [0x03, 0x04, 0x05, 0x07, 0x13, 0x15, 0x16].contains cmd
def leftServed (cmd : Nat) : Bool := [0x01, 0x02, 0x0A, 0x0D, 0x11, 0x12].contains cmd

/-- What refuses a command before its own checks: its fence, its master, the lifecycle (R400, R403, R415, R423). -/
def State.mboxGate (s : State) (m : Master) (cmd : Nat) : Option Nat :=
  if s.anchorFenced causeSelftest && cmd ≠ 0x01 then some stFenced
  else if s.anchorFenced causeKeystore && usesStore cmd then some stFenced
  else if s.anchorFenced causeEntropy && (cmd = 0x02 || cmd = 0x03 || cmd = 0x0E) then some stEntropy
  else if mOnly cmd && !m.isMachine then some stPolicy
  else if s.anchor.lifecycle = 3 && !leftServed cmd then some stPolicy
  else none

/-- Run a command by its number (R415). -/
def State.mboxCommand (s : State) (cmd : Nat) (p : List Byte) (active : Bool) : MboxOut :=
  match cmd with
  | 0x01 => s.mbGetInfo p
  | 0x02 => s.mbRandom p
  | 0x03 => s.mbKeyGen p
  | 0x04 => s.mbKeyImport p
  | 0x05 => s.mbKeyDestroy p
  | 0x06 => s.mbKeyPush p
  | 0x07 => s.mbPartyPromote p
  | 0x08 => s.mbDerive p
  | 0x09 => s.mbCipher p
  | 0x0A => s.mbHash p
  | 0x0B => s.mbHmac p
  | 0x0C => s.mbSign p
  | 0x0D => s.mbVerify p
  | 0x0E => s.mbLcpAgree p
  | 0x0F => s.mbLcpSign p
  | 0x10 => s.mbMeterSign p
  | 0x11 => s.mbAttest p
  | 0x12 => s.mbGetCert p
  | 0x13 => s.mbLifecycle p
  | 0x14 => s.mbFuse p
  | 0x15 => s.mbTamper p active
  | 0x16 => s.mbTableSeal p
  | 0x17 => s.mbTableCheck p
  | _ => s.deny stFormat

/-- GO: the request is copied and runs; a GO while BUSY, or before READY, is ignored and counted (R412). What the
command does to the module's keys and memory it does here; its response waits for ANCHOR_COMMAND_DONE. -/
def State.mboxGo (s : State) (m : Master) (req : List Byte) (fate : AnchorFate) (active : Bool) : State :=
  if s.flag R.ANCHOR_STATUS_BUSY || !s.flag R.ANCHOR_STATUS_READY then s.inc R.ANCHOR_CNT_REFUSED_N
  else
    let cmd := leAt req 0 1
    let len := leAt req 2 2
    let p := (req.drop 8).take len
    let t := s.setFlds [(R.ANCHOR_STATUS_BUSY, 1), (R.ANCHOR_MBOX_CTRL_BUSY, 1)]
    let out : MboxOut :=
      if fate = .eccFails then t.deny stFenced
      else if leAt req 1 1 ≠ 0 || 248 < len then t.deny stFormat
      else match t.mboxGate m cmd with
        | some st => t.deny st
        | none =>
          let r := t.mboxCommand cmd p active
          if r.2.1 = stOk && fate = .storeFails && writesStore cmd then t.deny stStore else r
    let resp := leBytes 1 cmd ++ [0] ++ leBytes 2 out.2.1 ++ (req.drop 4).take 4 ++ leBytes 2 out.2.2.length ++ leBytes 2 0 ++
      out.2.2
    out.1.setAnchor { out.1.anchor with resp := some (resp, fate = .eccFails) }

/-- Bytes of the request words (R411). -/
def State.mboxRequest (s : State) : List Byte := s.pageBytes pANCHOR 0x100 64

/-- Write bytes into consecutive register words from an offset of a page. -/
def State.putWords (s : State) (page off words : Nat) (bs : List Byte) : State :=
  (List.range words).foldl (fun (t : State) w =>
    t.setReg page (off + 4 * w) (BitVec.ofNat 32 (leNat ((bs.drop (4 * w)).take 4)))) s

/-- A master writes a request and GO: the meaning of every mailbox row. -/
def State.mailbox (s : State) (m : Master) (cmd tag : Nat) (p : List Byte) (fate : AnchorFate) (active : Bool) : Res :=
  s.begin.asWrite m pANCHOR rightSecure fun t =>
    let req := leBytes 1 cmd ++ [0] ++ leBytes 2 p.length ++ leBytes 4 tag ++ p.take 248
    let u := t.putWords pANCHOR 0x100 ((req.length + 3) / 4) req
    .next (u.mboxGo m u.mboxRequest fate active)

/-- GET_INFO. -/
def execGetInfo (m : Master) (tag : Nat) (p : List Byte) (f : AnchorFate) (s : State) : Res := s.mailbox m 0x01 tag p f false
/-- RANDOM. -/
def execRandom (m : Master) (tag : Nat) (p : List Byte) (f : AnchorFate) (s : State) : Res := s.mailbox m 0x02 tag p f false
/-- KEY_GEN. -/
def execKeyGen (m : Master) (tag : Nat) (p : List Byte) (f : AnchorFate) (s : State) : Res := s.mailbox m 0x03 tag p f false
/-- KEY_IMPORT. -/
def execKeyImport (m : Master) (tag : Nat) (p : List Byte) (f : AnchorFate) (s : State) : Res := s.mailbox m 0x04 tag p f false
/-- KEY_DESTROY. -/
def execKeyDestroy (m : Master) (tag : Nat) (p : List Byte) (f : AnchorFate) (s : State) : Res := s.mailbox m 0x05 tag p f false
/-- KEY_PUSH. -/
def execKeyPush (m : Master) (tag : Nat) (p : List Byte) (f : AnchorFate) (s : State) : Res := s.mailbox m 0x06 tag p f false
/-- PARTY_PROMOTE. -/
def execPartyPromote (m : Master) (tag : Nat) (p : List Byte) (f : AnchorFate) (s : State) : Res :=
  s.mailbox m 0x07 tag p f false
/-- DERIVE. -/
def execDerive (m : Master) (tag : Nat) (p : List Byte) (f : AnchorFate) (s : State) : Res := s.mailbox m 0x08 tag p f false
/-- CIPHER. -/
def execCipher (m : Master) (tag : Nat) (p : List Byte) (f : AnchorFate) (s : State) : Res := s.mailbox m 0x09 tag p f false
/-- HASH. -/
def execHash (m : Master) (tag : Nat) (p : List Byte) (f : AnchorFate) (s : State) : Res := s.mailbox m 0x0A tag p f false
/-- HMAC. -/
def execHmac (m : Master) (tag : Nat) (p : List Byte) (f : AnchorFate) (s : State) : Res := s.mailbox m 0x0B tag p f false
/-- SIGN. -/
def execSign (m : Master) (tag : Nat) (p : List Byte) (f : AnchorFate) (s : State) : Res := s.mailbox m 0x0C tag p f false
/-- VERIFY. -/
def execVerify (m : Master) (tag : Nat) (p : List Byte) (f : AnchorFate) (s : State) : Res := s.mailbox m 0x0D tag p f false
/-- LCP_AGREE. -/
def execLcpAgree (m : Master) (tag : Nat) (p : List Byte) (f : AnchorFate) (s : State) : Res := s.mailbox m 0x0E tag p f false
/-- LCP_SIGN. -/
def execLcpSign (m : Master) (tag : Nat) (p : List Byte) (f : AnchorFate) (s : State) : Res := s.mailbox m 0x0F tag p f false
/-- METER_SIGN. -/
def execMeterSign (m : Master) (tag : Nat) (p : List Byte) (f : AnchorFate) (s : State) : Res := s.mailbox m 0x10 tag p f false
/-- ATTEST. -/
def execAttest (m : Master) (tag : Nat) (p : List Byte) (f : AnchorFate) (s : State) : Res := s.mailbox m 0x11 tag p f false
/-- GET_CERT. -/
def execGetCert (m : Master) (tag : Nat) (p : List Byte) (f : AnchorFate) (s : State) : Res := s.mailbox m 0x12 tag p f false
/-- LIFECYCLE. -/
def execLifecycle (m : Master) (tag : Nat) (p : List Byte) (f : AnchorFate) (s : State) : Res := s.mailbox m 0x13 tag p f false
/-- FUSE. -/
def execFuse (m : Master) (tag : Nat) (p : List Byte) (f : AnchorFate) (s : State) : Res := s.mailbox m 0x14 tag p f false
/-- TAMPER. -/
def execTamper (m : Master) (tag : Nat) (p : List Byte) (f : AnchorFate) (active : Bool) (s : State) : Res :=
  s.mailbox m 0x15 tag p f active
/-- TABLE_SEAL. -/
def execTableSeal (m : Master) (tag : Nat) (p : List Byte) (f : AnchorFate) (s : State) : Res := s.mailbox m 0x16 tag p f false
/-- TABLE_CHECK. -/
def execTableCheck (m : Master) (tag : Nat) (p : List Byte) (f : AnchorFate) (s : State) : Res := s.mailbox m 0x17 tag p f false

/-- ANCHOR_COMMAND_DONE: the response area is written whole, BUSY clears and DONE is set (R412). -/
def execAnchorCommandDone (s : State) : Res :=
  let s := s.begin
  match s.anchor.resp with
  | none => .next s
  | some (resp, ecc) =>
    let st := leAt resp 2 2
    let t := ((s.setAnchor { s.anchor with resp := none }).putWords pANCHOR 0x200 64 (fixLen 256 resp)).setFlds
      [(R.ANCHOR_STATUS_BUSY, 0), (R.ANCHOR_MBOX_CTRL_BUSY, 0), (R.ANCHOR_MBOX_CTRL_DONE, 1), (R.ANCHOR_MBOX_CTRL_STATUS, st)]
    let u := (t.inc R.ANCHOR_CNT_CMD_N).irq pANCHOR 0
    let v := if st = stOk then u else u.inc R.ANCHOR_CNT_REFUSED_N
    .next (if ecc then v.fenceBlock pANCHOR causeEcc else v)

/-- ENTROPY_HEALTH_FAIL (R400). -/
def execEntropyHealthFail (s : State) : Res :=
  .next (((s.begin.setFld R.ANCHOR_STATUS_ENT_OK 0).fenceBlock pANCHOR causeEntropy).irq pANCHOR 2)

/-! ## Starts (R398, R402, R409) and tamper (R421) -/

/-- Step 1 of a start: private SRAM is zeroed; the cache, the session keys and a running command are gone, and the
response area is zero (R398, R406). OTP and key store stay. -/
def State.anchorStart (s : State) (warm : Bool) : State :=
  let a := s.anchor
  (s.setAnchor { slots := a.slots, lifecycle := a.lifecycle, img0Revoked := a.img0Revoked, level := a.level,
                 serial := a.serial, table := a.table, owed := a.owed, warmStart := warm }).setFlds
    [(R.ANCHOR_STATUS_LIFECYCLE, a.lifecycle), (R.ANCHOR_STATUS_TAMPER_LEVEL, a.level),
     (R.ANCHOR_PORTS_PARTY_CURRENT, b2n s.party.keyCur.isSome), (R.ANCHOR_PORTS_PARTY_OTHER, b2n s.party.keyOther.isSome),
     (R.ANCHOR_PORTS_SIDE, s.fld R.SIDE_KEYSTAT_LOADED)]

/-- The tests and the opening of the key store (R398 steps 2 to 4, R400, R402): fences and damaged slots. -/
def State.anchorTests (s : State) (entropy selftest header : Bool) (damaged : List Nat) : State :=
  let s1 := s.setFlds [(R.ANCHOR_STATUS_ENT_OK, b2n entropy), (R.ANCHOR_STATUS_SELFTEST_OK, b2n selftest)]
  let s2 := if entropy then s1 else (s1.fenceBlock pANCHOR causeEntropy).irq pANCHOR 2
  let s3 := if selftest then s2 else s2.fenceBlock pANCHOR causeSelftest
  if !header then s3.fenceBlock pANCHOR causeKeystore
  else damaged.foldl (fun (t : State) n =>
    if slotMeter ≤ n && n ≤ 18 && n ≠ slotImg0 && n ≠ slotImg1 && t.slotFull n then
      (t.setKeySlot n { damaged := true, kver := (t.keySlot n).kver }).recordOpen pANCHOR
    else t) s3

/-- The automatic pushes of a start (R409). -/
def State.autoPush (s : State) : State :=
  let slots : List Nat := if s.anchor.warmStart then [5, 6, 7, 8] else [3, 4, 5, 6, 7, 8]
  slots.foldl (fun (t : State) n => if s.slotFull n && bitSet (s.keySlot n).attr 1 then t.pushSlot n else t) s

/-- What a tamper response destroys at the level in force, before any reset (R421). -/
def State.tamperDestroys (s : State) : State :=
  let lv := s.anchor.level
  let s1 := if 1 ≤ lv then
      s.setAnchor { s.anchor with cache := List.replicate 8 none, sessions := [] } else s
  let users := fun (origin : Nat) => (List.range 19).filter fun n => isUser n && (s.keySlot n).origin = origin
  let s2 := if 2 ≤ lv then
      let t := ([3, 4, 5, 6, 7, 8] ++ users 2).foldl (fun (t : State) n => t.destroyKey n) s1
      [3, 4, 5, 6, 7, 8].foldl (fun (t : State) n => t.pushSlot n) t
    else s1
  if 3 ≤ lv then (slotMeter :: users 1).foldl (fun (t : State) n => t.destroyKey n) s2 else s2

end Sys2Proof.Machine
end

