-- ==== Sys2Proof/Machine/Sched.lean ====
section
/-! DEFINITION. The interrupt router (R338–R341) and the hardware scheduler (R342–R354). -/
namespace Sys2Proof.Machine

/-! ## Harts -/

/-- Hart h. -/
def State.hart (s : State) (h : Nat) : HartS := s.harts.getD h {}

/-- Replace hart h. -/
def State.setHart (s : State) (h : Nat) (x : HartS) : State := { s with harts := s.harts.set h x }

/-! ## Lines (R338, R339) -/

/-- The interrupt lines, 0 to 319. -/
def irqLines : List Nat := List.range 320

/-- A line is pending for hart h (R339); a posting line ignores HARTS. -/
def State.linePending (s : State) (h line : Nat) : Bool :=
  s.lineHigh line && !s.linePosts line && s.bit (R.IRQ_ROUTE_HARTS line) h && !(s.router.claims.any fun c => c.1 = line)

/-- The pending line of lowest PRIO, and among equals the lowest number. -/
def State.bestLine (s : State) (h : Nat) : Option Nat :=
  (irqLines.filter (s.linePending h)).foldl (fun (acc : Option Nat) l => match acc with
    | none => some l
    | some b => if s.fld (R.IRQ_ROUTE_PRIO l) < s.fld (R.IRQ_ROUTE_PRIO b) then some l else some b) none

/-- mip.MEIP of hart h (R339). -/
def State.meip (s : State) (h : Nat) : Bool := match s.bestLine h with
  | some l => s.fld (R.IRQ_ROUTE_PRIO l) < (s.hart h).thresh
  | none => false

/-- IRQ_MTIMECMP of hart h. -/
def State.mtimeCmp (s : State) (h : Nat) : Nat := s.wide (R.IRQ_MTIMECMP_LO_C_LO h) (R.IRQ_MTIMECMP_HI_C_HI h)

/-- mip.MTIP, MSIP and WORK of hart h (R340). -/
def State.mtip (s : State) (h : Nat) : Bool := s.mtimeCmp h ≤ s.router.mtime
def State.msip (s : State) (h : Nat) : Bool := s.bit R.IRQ_MSIP_MSIP h
def State.workIp (s : State) (h : Nat) : Bool := (s.hart h).slots ≠ []

/-- An interrupt that ends a hart's WFI is pending (R461). -/
def State.hartWakes (s : State) (h : Nat) : Bool := s.meip h || s.mtip h || s.msip h || s.workIp h

/-- IRQ_CLAIM (R339). A register banked per hart gives a master that is no hart an open value, and claims nothing. -/
def execIrqClaim (m : Master) (s : State) : Res :=
  let s := s.begin
  match m with
  | .hart h _ =>
    match s.bestLine h with
    | some l => .next ({ s with router := { s.router with claims := s.router.claims ++ [(l, h)] } }.emit
        (.readData (BitVec.ofNat 32 l)))
    | none => .next (s.emit (.readData 0xFFFFFFFF#32))
  | .lcp r => .next (if bitSet r rightRead then (s.emit (.readData (BitVec.ofNat 32 (s.freeBits 32)))).drawn
      else s.emit (.refused codeRights))
  | .hspi r => .next (if bitSet r rightRead then (s.emit (.readData (BitVec.ofNat 32 (s.freeBits 32)))).drawn
      else s.emit (.refused codeRights))
  | .block => .next s

/-- IRQ_COMPLETE: a line the hart has not claimed is ignored (R339). -/
def execIrqComplete (m : Master) (v : Word) (s : State) : Res :=
  (s.begin).asWrite m pIRQ rightSecure fun t => match m with
    | .hart h _ =>
      .next { t with router := { t.router with claims := t.router.claims.filter fun c => !(c = (v.toNat % 512, h)) } }
    | .lcp _ => .next t
    | .hspi _ => .next t
    | .block => .next t

/-- MTIMER_EXPIRY: IRQ_MTIME reaches the compare value of hart h, and MTIP is set (R340). -/
def execMtimerExpiry (h : Nat) (s : State) : Res :=
  let s := s.begin
  .next { s with router := { s.router with mtime := max s.router.mtime (s.mtimeCmp h) } }

/-! ## Items (R342, R343) -/

/-- Fields of an item's CTRL word. -/
def SchedItem.ctrl (i : SchedItem) : Nat := i.words.getD 1 0
def SchedItem.queue (i : SchedItem) : Nat := bits i.ctrl 5 0
def SchedItem.prio (i : SchedItem) : Nat := bits i.ctrl 10 8
def SchedItem.tag (i : SchedItem) : Nat := bits i.ctrl 23 16

/-- The wait of an item, whole µs of IRQ_MTIME (R343). -/
def State.waitUs (s : State) (i : SchedItem) : Nat := (s.router.mtime - i.acc) / 25

/-- Its effective priority. -/
def State.effPrio (s : State) (i : SchedItem) : Nat :=
  let step := s.fld (R.SCHED_Q_TIME_AGE_STEP_US i.queue)
  if step = 0 then i.prio else i.prio - s.waitUs i / step

/-- The item is urgent now. -/
def State.isUrgent (s : State) (i : SchedItem) : Bool :=
  let u := s.fld (R.SCHED_Q_TIME_URGENT_US i.queue)
  s.effPrio i = 0 && u ≠ 0 && u ≤ s.waitUs i

/-! ## Trace (R351) -/

/-- Entries held follow the ring. -/
def State.showTrace (s : State) : State := s.setFld R.SCHED_TRACE_STAT_ENTRIES s.sched.trace.length

/-- Write one trace entry for an event of a watched queue. -/
def State.traceItem (s : State) (event hart queue eff tag seq : Nat) : State :=
  let watched := (List.range 4).any fun w =>
    s.flag (R.SCHED_TRACE_WATCH_EN w) && s.fld (R.SCHED_TRACE_WATCH_QUEUE w) = queue
  if !s.flag R.SCHED_TRACE_CTRL_RUN || !watched then s
  else
    let e := s.router.mtime / 25 % 2 ^ 20 * 2 ^ 44 + event * 2 ^ 41 + hart * 2 ^ 38 + queue * 2 ^ 32 + eff * 2 ^ 29 +
      tag * 2 ^ 16 + seq % 2 ^ 16
    if s.sched.trace.length < 1024 then ({ s with sched := { s.sched with trace := s.sched.trace ++ [e] } }).showTrace
    else if s.flag R.SCHED_TRACE_CTRL_WRAP then { s with sched := { s.sched with trace := s.sched.trace.drop 1 ++ [e] } }
    else (s.satInc R.SCHED_TRACE_STAT_LOST).irq pSCHED 3

/-- An event of an item. -/
def State.traceOf (s : State) (event hart : Nat) (i : SchedItem) : State :=
  s.traceItem event hart i.queue (s.effPrio i) i.tag i.seq

/-! ## Pushing (R344, R345) -/

/-- SCHED is fenced. -/
def State.schedFenced (s : State) : Bool := s.isFenced pSCHED noUnit

/-- Items of queue q that are not in slots. -/
def State.queueDepth (s : State) (q : Nat) : Nat := (s.sched.items.filter fun i => i.queue = q).length

/-- The depth registers follow the queues (R350). -/
def State.showQueue (s : State) (q : Nat) : State :=
  ((s.setFlds [(R.SCHED_STATUS_ITEMS, s.sched.items.length), (R.SCHED_STATUS_FREE, 4096 - s.sched.items.length -
    ((s.harts.map fun (h : HartS) => h.slots.length).sum)), (R.SCHED_Q_DEPTH_DEPTH q, s.queueDepth q)]).maxFld
      (R.SCHED_Q_DEPTH_MAX q) (s.queueDepth q))

/-- RESULT of a push to queue q (R343, R344). -/
def State.pushResult (s : State) (q : Nat) : Nat :=
  let stored := s.sched.items.length + (s.harts.map fun (h : HartS) => h.slots.length).sum
  if s.schedFenced then 3
  else if s.fld (R.SCHED_Q_CFG_CAP q) = 0 then 1
  else if !s.flag (R.SCHED_Q_CFG_EN q) then 2
  else if s.fld (R.SCHED_Q_CFG_CAP q) ≤ s.queueDepth q || 4096 ≤ stored then 1
  else 0

/-- A descriptor that R342 allows: HANDLER non-zero and 2-byte aligned, reserved bits of CTRL 0. -/
def descriptorOk (ws : List Nat) : Bool :=
  let c := ws.getD 1 0
  ws.getD 0 0 ≠ 0 && ws.getD 0 0 % 2 = 0 && bits c 31 24 = 0 && bits c 15 11 = 0 && bits c 7 6 = 0

/-- Push a descriptor for hart `h` (0 for the router), and its result. -/
def State.pushItem (s : State) (h : Nat) (ws : List Nat) : State × Nat :=
  let i : SchedItem := { words := ws, acc := s.router.mtime, seq := s.sched.seq + 1, urgent := false }
  let r := s.pushResult i.queue
  if r = 0 then
    let s1 := { s with sched := { s.sched with items := s.sched.items ++ [i], seq := i.seq } }
    ((s1.showQueue i.queue).traceOf 0 h i, 0)
  else (((((s.inc R.SCHED_CNT_REFUSED_N).irq pSCHED 0).traceItem 1 h i.queue i.prio i.tag (s.freeBits 16))).drawn, r)

/-- SCHED_PUSH: a write of W7 by a hart commits; writes of other masters are ignored (R344). -/
def execSchedPush (m : Master) (v : Word) (s : State) : Res :=
  (s.begin).asWrite m pSCHED rightSecure fun t => match m with
    | .hart h _ =>
      let x := t.hart h
      let ws := x.push.set 7 v.toNat
      if !descriptorOk ws then .fault (.unpredictable 342)
      else
        let r : State × Nat := t.pushItem h ws
        .next (r.1.setHart h { r.1.hart h with push := ws, pushStat := some r.2 })
    | .lcp _ => .next t
    | .hspi _ => .next t
    | .block => .next t

/-! ## Posting (R341) -/

/-- The preset descriptor of a line: its address in shared SRAM. -/
def State.postAddr (s : State) (line : Nat) : Nat := s.fld R.IRQ_POST_BASE_ADDR - 0x10000000 + 32 * line

/-- The router pushes the preset descriptor of a line; `first` tells the first try from a retry. Each rising edge is a post
of its own. -/
def State.postLine (s : State) (line : Nat) (first : Bool) (e : Ecc) : Res :=
  let a := s.postAddr line
  let bad : Bool := e = Ecc.uncorrectable || s.mem.sramBad.any fun w => a / 8 ≤ w && w < a / 8 + 4
  let s0 := { s with
    posts := if first then s.posts.erase line else s.posts
    mem := if e = Ecc.uncorrectable then { s.mem with sramBad := (s.mem.sramBad ++ [a / 8]).eraseDups } else s.mem
    router := if first then s.router else { s.router with deferred := s.router.deferred.erase line } }
  if bad then .next ((s0.inc R.IRQ_CNT_POST_UE_N).irq pIRQ 1)
  else
    let s1 := match e with
      | .corrected => s0.inc R.SYS_MEM_CE_N
      | _ => s0
    let ws := (List.range 8).map fun i => memLE s1.mem.sram (a + 4 * i) 4
    if !descriptorOk ws then .fault (.unpredictable 342)
    else
      let r : State × Nat := s1.pushItem 0 ws
      if r.2 = (0 : Nat) then .next (r.1.inc R.IRQ_CNT_POST_N)
      else
        let s2 := { r.1 with router := { r.1.router with deferred := r.1.router.deferred ++ [line] } }
        .next (if first then (s2.inc R.IRQ_CNT_POST_DEFER_N).irq pIRQ 0 else s2)

/-- IRQ_POST. -/
def execIrqPost (line : Nat) (e : Ecc) (s : State) : Res :=
  let s := s.begin
  if s.posts.contains line then s.postLine line true e else .next s

/-- IRQ_POST_RETRY. -/
def execIrqPostRetry (line : Nat) (e : Ecc) (s : State) : Res :=
  let s := s.begin
  if s.router.deferred.contains line then s.postLine line false e else .next s

/-! ## Dispatch and TAKE (R346, R347, R350) -/

/-- Queue q serves hart h. -/
def State.serves (s : State) (h q : Nat) : Bool :=
  s.flag (R.SCHED_Q_CFG_EN q) &&
    (if q < 32 then s.bit (R.SCHED_CORE_QM_LO_QM h) q else s.bit (R.SCHED_CORE_QM_HI_QM h) (q - 32))

/-- The item of lowest key, the earlier of equals. -/
def pickItem (key : SchedItem → Nat) (is : List SchedItem) : Option SchedItem :=
  is.foldl (fun (acc : Option SchedItem) i => match acc with
    | none => some i
    | some j => if key i < key j then some i else some j) none

/-- The item the scheduler chooses for hart h (R346). -/
def State.choose (s : State) (h : Nat) : Option SchedItem :=
  let cand := s.sched.items.filter fun i => s.serves h i.queue
  let urgent := cand.filter fun i => i.urgent || s.isUrgent i
  if urgent ≠ [] then pickItem (·.seq) urgent else pickItem s.effPrio cand

/-- Take an item out of its queue. -/
def State.unqueue (s : State) (i : SchedItem) : State :=
  { s with sched := { s.sched with items := s.sched.items.filter fun j => j.seq ≠ i.seq } }

/-- Slots in use follow. -/
def State.showSlots (s : State) (h : Nat) : State := s.setFld (R.SCHED_CORE_SLOT_USED h) (s.hart h).slots.length

/-- Fill the next free slot of hart h. -/
def State.fillSlot (s : State) (h : Nat) : State :=
  if s.schedFenced || s.fld (R.SCHED_CORE_CFG_SLOTS h) ≤ (s.hart h).slots.length then s
  else match s.choose h with
    | none => s
    | some i =>
      let s1 := (s.unqueue i).setHart h { s.hart h with slots := (s.hart h).slots ++ [i] }
      ((s1.showQueue i.queue).showSlots h).traceOf 2 h i

/-- An item that reads uncorrectable at dispatch is discarded (R346). -/
def State.discardItem (s : State) (h : Nat) : State :=
  if s.schedFenced || s.fld (R.SCHED_CORE_CFG_SLOTS h) ≤ (s.hart h).slots.length then s
  else match s.choose h with
    | none => s
    | some i => ((((s.unqueue i).showQueue i.queue).inc R.SCHED_CNT_UE_N).event pSCHED 2 noUnit 0).traceOf 6 h i

/-- SCHED_DISPATCH: a discarded item is followed by the next choice. -/
def execSchedDispatch (h : Nat) (e : Ecc) (s : State) : Res :=
  let s := s.begin
  match e with
  | .uncorrectable => .next ((s.discardItem h).fillSlot h)
  | .corrected => .next (s.fillSlot h)
  | .clean => .next (s.fillSlot h)

/-- The histogram bin of a wait (R350). -/
def histBin (w : Nat) : Nat := if w = 0 then 0 else min 15 (Nat.log2 w + 1)

/-- Count a wait in queue q's histogram. -/
def State.countWait (s : State) (q w : Nat) : State :=
  let k := q * 16 + histBin w
  { s with sched := { s.sched with hist := mapPut 0 s.sched.hist k (min (mapGet 0 s.sched.hist k + 1) (2 ^ 32 - 1)) } }

/-- SCHED_TAKE: the head item of the hart; others read 0 (R347). -/
def execSchedTake (m : Master) (s : State) : Res :=
  let s := s.begin
  if !m.holds rightRead then .next (s.emit (.refused codeRights))
  else match m with
    | .hart h _ =>
      match (s.hart h).slots with
      | [] => .next (s.emit (.readData 0))
      | i :: rest =>
        let s1 := s.setHart h { s.hart h with slots := rest, cur := i.words.drop 1 }
        let s2 := ((s1.countWait i.queue (s.waitUs i)).inc (R.SCHED_CORE_ITEMS_N h)).showSlots h
        .next (((s2.showQueue i.queue).traceOf 3 h i).emit (.readData (BitVec.ofNat 32 (i.words.getD 0 0))))
    | .lcp _ => .next (s.emit (.readData 0))
    | .hspi _ => .next (s.emit (.readData 0))
    | .block => .next (s.emit (.readData 0))

/-- The µs of wait at which an item becomes urgent; none where it never does (R343). -/
def State.urgentAt (s : State) (i : SchedItem) : Option Nat :=
  let step := s.fld (R.SCHED_Q_TIME_AGE_STEP_US i.queue)
  let u := s.fld (R.SCHED_Q_TIME_URGENT_US i.queue)
  if u = 0 || (step = 0 && i.prio ≠ 0) then none else some (max u (i.prio * step))

/-- The items the scheduler holds, those in slots included: an item waits until the TAKE that returns it (R343). -/
def State.heldItems (s : State) : List SchedItem := s.sched.items ++ s.harts.flatMap fun (h : HartS) => h.slots

/-- The item of a sequence number is urgent from now on. -/
def State.markUrgent (s : State) (seq : Nat) : State :=
  let mark := fun (is : List SchedItem) => is.map fun (j : SchedItem) => if j.seq = seq then { j with urgent := true } else j
  { s with sched := { s.sched with items := mark s.sched.items }
           harts := s.harts.map fun (h : HartS) => { h with slots := mark h.slots } }

/-- SCHED_URGENT: the instant has come for an item, queued or in a slot (R343). -/
def execSchedUrgent (seq : Nat) (s : State) : Res :=
  let s := s.begin
  match s.heldItems.find? fun i => i.seq = seq && !i.urgent with
  | none => .next s
  | some i => match s.urgentAt i with
    | none => .next s
    | some us =>
      let s1 := { s with router := { s.router with mtime := max s.router.mtime (i.acc + 25 * us) } }.markUrgent seq
      .next ((((s1.setFlds [(R.SCHED_URGENT_FLAG, 1), (R.SCHED_URGENT_QUEUE, i.queue)]).inc R.SCHED_CNT_URGENT_N).irq
        pSCHED 1).traceOf 4 0 i)

/-- SCHED_QFLUSH (R349). -/
def execSchedQflush (m : Master) (v : Word) (s : State) : Res :=
  (s.begin).asWrite m pSCHED rightSecure fun t =>
    let q := bits v.toNat 5 0
    let t1 := t.setFld R.SCHED_QFLUSH_QUEUE q
    if !bitSet v.toNat 31 then .next t1
    else
      let gone := t1.sched.items.filter fun i => i.queue = q
      let t2 := { t1 with sched := { t1.sched with items := t1.sched.items.filter fun i => i.queue ≠ q } }
      .next (gone.foldl (fun (u : State) i => u.traceOf 5 0 i) ((t2.add R.SCHED_CNT_FLUSHED_N gone.length).showQueue q))

/-! ## Checkpoint (R354) -/

/-- The address of the checkpoint in retained SRAM. -/
def ckptAddr : Nat := 0x1000

/-- The words of the configuration in checkpoint order: (page offset) of each. -/
def ckptOffsets : List Nat :=
  ((List.range 128).map fun i => 0x200 + 4 * i) ++
    (List.range 8).flatMap fun h => [0x180 + 0x10 * h, 0x184 + 0x10 * h, 0x188 + 0x10 * h]

/-- The checkpoint's bytes. -/
def State.ckptBytes (s : State) : List Byte :=
  let body := leBytes 4 0x53434B31 ++ ckptOffsets.flatMap fun o => leBytes 4 (s.reg pSCHED o).toNat
  body ++ leBytes 4 (crc32 body)

/-- SCHED_CKPT_SAVE. -/
def execSchedCkptSave (m : Master) (s : State) : Res :=
  (s.begin).asWrite m pSCHED rightSecure fun t =>
    .next ({ t with mem := { t.mem with ret := memWrite t.mem.ret ckptAddr t.ckptBytes } }.setFld R.SCHED_CKPT_RESULT 1)

/-- Load the configuration from a checkpoint; one that does not check changes nothing. -/
def State.ckptRestore (s : State) : State :=
  let b := memRead s.mem.ret ckptAddr 616
  if leNat (b.take 4) = 0x53434B31 && crc32 (b.take 612) = leNat (b.drop 612) then
    ((ckptOffsets.zip (List.range ckptOffsets.length)).foldl (fun (t : State) (x : Nat × Nat) =>
      t.setReg pSCHED x.1 (BitVec.ofNat 32 (leNat ((b.drop (4 + 4 * x.2)).take 4)))) s).setFld R.SCHED_CKPT_RESULT 2
  else s.setFld R.SCHED_CKPT_RESULT 3

/-- SCHED_CKPT_RESTORE. -/
def execSchedCkptRestore (m : Master) (s : State) : Res :=
  (s.begin).asWrite m pSCHED rightSecure fun t => .next t.ckptRestore

/-! ## Trace access and faults (R351–R353) -/

/-- The oldest entry is returned and removed; its high word is latched. -/
def State.popTrace (s : State) : State :=
  let e := s.sched.trace.headD 0
  ((({ s with sched := { s.sched with trace := s.sched.trace.drop 1 } }).setFld R.SCHED_TRACE_HI_E_HI (e / 2 ^ 32)).showTrace).emit
    (.readData (BitVec.ofNat 32 e))

/-- SCHED_TRACE_READ: without trace privilege it reads 0 and removes nothing (R352). -/
def execSchedTraceRead (m : Master) (s : State) : Res :=
  let s := s.begin
  .next (if m.holds rightTrace then s.popTrace
    else s.emit (.readData 0))

/-- SCHED_TRACE_CLEAR: without trace privilege the write is ignored (R352). -/
def execSchedTraceClear (m : Master) (s : State) : Res :=
  let s := (s.begin).disarm pSCHED
  .next (if m.holds rightTrace then
    (({ s with sched := { s.sched with trace := [] } }).setFld R.SCHED_TRACE_STAT_LOST 0).showTrace
  else s)

/-- SCHED_QSTATE_FAULT (R353). -/
def execSchedQstateFault (s : State) : Res := .next ((s.begin).fenceBlock pSCHED 0x0100)

end Sys2Proof.Machine
end

