-- ==== Sys2Proof/Machine/Upd.lean ====
section
/-! DEFINITION. The NOR, the boot record, the boot flow, the transfer of an image, trial and health, activation, and the
FLASH commands (R424–R440). -/
namespace Sys2Proof.Machine

/-! ## NOR (R424) -/

/-- One byte of the NOR: base camp is that of manufacture, the rest too until something writes it. -/
def State.norGet (s : State) (a : Nat) : Byte :=
  if a < 0x1000000 then Config.norByte a else mapGet (Config.norByte a) s.mem.nor a

/-- `n` bytes of the NOR. -/
def State.norRead (s : State) (a n : Nat) : List Byte := (List.range n).map fun i => s.norGet (a + i)

/-- Bytes laid into the NOR map from offset `a`. -/
def norPuts (m : Bytes) (a : Nat) : List Byte → Bytes
  | [] => m
  | b :: bs => norPuts (mapPut (Config.norByte a) m a b) (a + 1) bs

/-- Write bytes to the NOR as they stand. -/
def State.norWrite (s : State) (a : Nat) (bs : List Byte) : State :=
  { s with mem := { s.mem with nor := norPuts s.mem.nor a bs } }.wroteCode (0x50000000 + a) bs.length

/-- Erased bytes. -/
def State.norErase (s : State) (a n : Nat) : State := s.norWrite a (List.replicate n 0xFF#8)

/-- What an interrupted or failed erase or program leaves is not given: free bytes. -/
def State.norSpoil (s : State) (a n : Nat) : State := (s.norWrite a (leBytes n (s.freeBits (8 * n)))).drawn

/-- The region of an image: 0 slot A, 1 slot B, 2 base camp. -/
def regionBase (r : Nat) : Nat := if r = 0 then 0x1000000 else if r = 1 then 0x3000000 else 0

/-- Bytes of a slot, and of an erase block. -/
def slotBytes : Nat := 0x2000000
def eraseBlock : Nat := 0x40000

/-! ## Boot record (R431) -/

def recEmpty : Nat := 0
def recValidSlot : Nat := 1
def recTrial : Nat := 2
def recConfirmed : Nat := 3
def recFailed : Nat := 4

/-- Copy k of the boot record in MRAM. -/
def State.bootCopy (s : State) (k : Nat) : List Byte := memRead s.mem.mram (0x10000 + 0x80 * k) 128

/-- A copy is valid. -/
def bootCopyOk (r : List Byte) : Bool := leAt r 0 4 = 0x42545231 && leAt r 124 4 = crc32 (r.take 124)

/-- The copy in force: the valid one with the higher SEQ. -/
def State.bootCopyInForce (s : State) : Option Nat :=
  match bootCopyOk (s.bootCopy 0), bootCopyOk (s.bootCopy 1) with
  | true, true => some (if leAt (s.bootCopy 0) 4 4 < leAt (s.bootCopy 1) 4 4 then 1 else 0)
  | true, false => some 0
  | false, true => some 1
  | false, false => none

/-- The record that a first update starts from: MAX_ATTEMPTS 3, HEALTH_S 300, both slots EMPTY. -/
def freshRecord : List Byte :=
  leBytes 4 0x42545231 ++ leBytes 4 0 ++ [0, 0, 0, 0, 3, 0] ++ leBytes 2 300 ++ List.replicate 112 0#8

/-- The record in force; where no copy is valid, a fresh one. -/
def State.bootRec (s : State) : List Byte := match s.bootCopyInForce with
  | some k => s.bootCopy k
  | none => freshRecord

/-- Fields of the record. -/
def State.recActive (s : State) : Nat := leAt s.bootRec 8 1
def State.recState (s : State) (x : Nat) : Nat := leAt s.bootRec (9 + x) 1
def State.recAttempts (s : State) : Nat := leAt s.bootRec 11 1
def State.recMax (s : State) : Nat := leAt s.bootRec 12 1
def State.recHealth (s : State) : Nat := leAt s.bootRec 14 2
def State.recVersion (s : State) (x : Nat) : List Byte := (s.bootRec.drop (16 + 6 * x)).take 6
def State.recSchema (s : State) (x : Nat) : Nat := leAt s.bootRec (28 + 2 * x) 2

/-- A record with its CRC. -/
def sealRecord (r : List Byte) : List Byte := r.take 124 ++ leBytes 4 (crc32 (r.take 124))

/-- An update of the record: the other copy is written with SEQ + 1 and read back. A failed read-back leaves a copy
that is not valid, the older one in force, and REC_FAIL (R431). -/
def State.writeBoot (s : State) (recOk : Bool) (f : List Byte → List Byte) : State :=
  let other : Nat := match s.bootCopyInForce with
    | some 0 => 1
    | _ => 0
  let r := sealRecord (recPut (f s.bootRec) 4 (leBytes 4 (leAt s.bootRec 4 4 + 1)))
  let bs := if recOk then r else [0, 0, 0, 0] ++ r.drop 4
  let t := s.mramWrite (0x10000 + 0x80 * other) bs
  if recOk then t else t.setFld R.UPD_STATE_REC_FAIL 1

/-- Slot x of a record in a state. -/
def putState (x st : Nat) (r : List Byte) : List Byte := recPut r (9 + x) (leBytes 1 st)

/-- The record of manufacture: slot A CONFIRMED and ACTIVE, slot B EMPTY. -/
def factoryRecord : List Byte := sealRecord (recPut (putState 0 recConfirmed freshRecord) 4 (leBytes 4 1))

/-! ## Image header (R416, R426, R427) -/

/-- FLAGS.BASECAMP of a header. -/
def hdrBasecamp (h : List Byte) : Bool := leAt h 8 4 % 2 = 1

/-- The bit of HW_TYPE for the variant. -/
def Variant.hwBit : Variant → Nat
  | .v8E => 2
  | .v16N => 1
  | .v16E => 0

/-- SIG verifies under a slot's key; nothing does while Anchor cannot verify. -/
def State.sigUnder (s : State) (n : Nat) (h : List Byte) : Bool :=
  (s.mboxGate .block 0x0D).isNone && s.slotFull n &&
    Config.ecVerify 4 (s.slotPub n) (Config.sha256 (h.take 448)) ((h.drop 448).take 64)

/-- SIG verifies under R416; a base camp image under IMG0 alone. -/
def State.imgVerifies (s : State) (basecamp : Bool) (h : List Byte) : Bool :=
  if basecamp then s.sigUnder slotImg0 h
  else s.sigUnder slotImg1 h || (s.slotFull slotImg1 && !s.anchor.img0Revoked && s.sigUnder slotImg0 h)

/-- Every byte from `a` to `a + n` is 0. -/
def zeroAt (h : List Byte) (a n : Nat) : Bool := ((h.drop a).take n).all fun b => b = 0

/-- Codes 0x01 to 0x06 of R427, 0 where the header passes. -/
def State.imgCode (s : State) (basecamp : Bool) (h : List Byte) : Nat :=
  let hw := leAt h 6 2
  let body := leAt h 40 4
  let entry := leAt h 44 4
  if leAt h 0 4 ≠ 0x4C59494D || leAt h 4 2 ≠ 1 || bits hw 7 3 ≠ 0 || 1 < leAt h 8 4 || !zeroAt h 12 4 || !zeroAt h 48 16 ||
      !zeroAt h 96 352 then 1
  else if body = 0 then 2
  else if 33553920 < body || entry % 4 ≠ 0 || body ≤ entry then 3
  else if hw / 256 ≠ 0x48 || !bitSet hw s.variant.hwBit then 4
  else if !zeroAt h 16 16 && (h.drop 16).take 16 ≠ unitIdBytes then 5
  else if !s.imgVerifies (basecamp || hdrBasecamp h) h then 6
  else 0

/-! ## Boot (R428, R429, R432) -/

/-- The reason codes of UPD_STATE.REASON. -/
def whyNormal : Nat := 0
def whyTrial : Nat := 1
def whyFallback : Nat := 2
def whyStrap : Nat := 3
def whyRequest : Nat := 4
def whyNoSlot : Nat := 5

/-- The boot flow goes for a region, for a reason. -/
def State.bootGo (s : State) (r why : Nat) : State :=
  ({ s with upd := { s.upd with booting := some r } }).setFld R.UPD_STATE_REASON why

/-- Step 4 of R429 for slot x: it is FAILED, and the other slot is tried where CONFIRMED; else base camp. `why` is the
LAST_FALLBACK of a slot that still has another behind it. -/
def State.bootFallback (s : State) (x why : Nat) (recOk : Bool) : State :=
  let y := 1 - x
  if s.recState y = recConfirmed then
    (s.writeBoot recOk fun r => recPut (recPut (putState x recFailed r) 8 (leBytes 1 y)) 32 (leBytes 1 why)).bootGo y whyFallback
  else (s.writeBoot recOk fun r => recPut (putState x recFailed r) 32 (leBytes 1 3)).bootGo 2 whyNoSlot

/-- The choice of R429, with the attempt of R432. -/
def State.bootChoose (s : State) (recOk : Bool) : State :=
  if s.flag R.SYS_STRAP_RECOVERY then s.bootGo 2 whyStrap
  else if s.upd.baseReq then ({ s with upd := { s.upd with baseReq := false } }).bootGo 2 whyRequest
  else if s.bootCopyInForce.isNone then s.bootGo 2 whyNoSlot
  else
    let x := s.recActive % 2
    if s.recState x = recConfirmed then s.bootGo x whyNormal
    else if s.recState x = recTrial then
      if s.recAttempts < s.recMax then
        (s.writeBoot recOk fun r => recPut r 11 (leBytes 1 (s.recAttempts + 1))).bootGo x whyTrial
      else s.bootFallback x 1 recOk
    else s.bootFallback x 2 recOk

/-- Header and body of a region's image check out (steps 4 and 5 of R428). -/
def State.bootCheck (s : State) (r : Nat) : Bool :=
  let h := s.norRead (regionBase r) 512
  s.imgCode (r = 2) h = 0 && Config.sha256 (s.norRead (regionBase r + 512) (leAt h 40 4)) = (h.drop 64).take 32

/-- Every hart jumps to the entry: harts 1 to 7 are woken by their bit of IRQ_MSIP, which each clears (R428). -/
def State.jumpAll (s : State) (entry : Nat) : State :=
  { s with harts := s.harts.map fun x => { x with pc := entry, wfi := false, mmode := true } }

/-- Step 6 of R428 for region r. The bytes of the boot information are not given: free values. -/
def State.bootJump (s : State) (r : Nat) : State :=
  let h := s.norRead (regionBase r) 512
  let trial := r < 2 && s.recState r = recTrial
  let s1 := (s.jumpAll (0x50000000 + regionBase r + 512 + leAt h 44 4)).setFlds
    [(R.UPD_STATE_BOOTED, r), (R.UPD_HEALTH_RUN, b2n trial), (R.UPD_HEALTH_REMAIN_S, if trial then s.recHealth else 0)]
  { s1.drawn with
    upd := { s1.upd with bootFlow := false, booting := none, healthNs := 0, version := (h.drop 32).take 6 }
    mem := { s1.mem with ret := memWrite s1.mem.ret 0x400 (leBytes 1024 (s1.freeBits 8192)) }
    rst := { s1.rst with cpDown := false } }

/-- No region boots: hart 0 stays in WFI (R429). -/
def State.bootNone (s : State) : State :=
  let s1 := s.setFld R.UPD_STATE_BOOTED 3
  { s1 with upd := { s1.upd with bootFlow := false, booting := none }
            harts := s1.harts.map fun x => { x with wfi := true } }

/-- BOOT_IMAGE_CHECKED: the image the boot flow has chosen is checked, once Anchor is READY. A slot that fails leads to
the next choice, which waits for its own check. -/
def execBootImageChecked (recOk : Bool) (s : State) : Res :=
  let s := s.begin
  if !s.upd.bootFlow || !s.flag R.ANCHOR_STATUS_READY then .next s
  else
    let t := if s.upd.booting.isNone then s.bootChoose recOk else s
    match t.upd.booting with
    | none => .next t
    | some r =>
      if t.bootCheck r then .next (t.bootJump r)
      else if r = 2 then .next t.bootNone
      else .next (t.bootFallback r 2 recOk)

/-! ## Transfer (R430, R434) -/

def imgHdrAddr : Nat := 0x38000000
def imgBodyAddr : Nat := 0x38000200

def codeState : Nat := 0x07
def codeOrder : Nat := 0x08
def codeBodyHash : Nat := 0x09
def codeFlash : Nat := 0x0A
def codeBusy : Nat := 0x0B

/-- The target slot (R430). -/
def State.targetSlot (s : State) : Option Nat :=
  let x := s.fld R.UPD_STATE_BOOTED
  if x < 2 then (if s.recState x = recConfirmed then some (1 - x) else none)
  else if x = 2 then
    if s.recState 0 ≠ recConfirmed then some 0
    else if s.recState 1 ≠ recConfirmed then some 1
    else some (1 - s.recActive % 2)
  else none

/-- The header in staging, checked for a transfer of an LCP session or of firmware (R427). A poisoned word makes the
header no image. -/
def State.stagedCode (s : State) (session : Option Nat) : Nat :=
  let h := s.storeRead imgHdrAddr 512
  if s.storeRangeBad imgHdrAddr 512 then 1
  else if s.imgCode false h ≠ 0 then s.imgCode false h
  else if hdrBasecamp h || s.targetSlot.isNone || (s.flag R.UPD_STATE_XFER && s.upd.session ≠ session) then codeState
  else 0

/-- The body in staging matches its header. -/
def State.stagedBodyOk (s : State) : Bool :=
  !s.storeRangeBad imgBodyAddr s.upd.bodyLen &&
    Config.sha256 (s.storeRead imgBodyAddr s.upd.bodyLen) = s.storeRead (imgHdrAddr + 64) 32

/-- A check or programming ends with a code at a step of UPD_LAST. -/
def State.updEnd (s : State) (code step : Nat) : State :=
  let s1 := ({ s with upd := { s.upd with op := 0 } }).setFlds
    [(R.UPD_CTRL_BUSY, 0), (R.UPD_LAST_CODE, code), (R.UPD_LAST_STEP, step)]
  (if code = 0 then s1 else s1.inc R.UPD_CNT_REFUSED_N).irq pUPD 0

/-- A transfer closes. -/
def State.closeTransfer (s : State) : State :=
  ({ s with upd := { s.upd with bodyLen := 0, bodyOk := false, session := none, next := 0 } }).setFld R.UPD_STATE_XFER 0

/-- The header passed: the target slot is recorded and the transfer opens. -/
def State.openTransfer (s : State) (session : Option Nat) : State :=
  ({ s with upd := { s.upd with bodyLen := leNat (s.storeRead (imgHdrAddr + 40) 4), bodyOk := false
                                session := session, next := 0 } }).setFlds
    [(R.UPD_STATE_XFER, 1), (R.UPD_STATE_TARGET, s.targetSlot.getD 3)]

/-- An operation starts, or is refused with BUSY while one runs. -/
def State.updStart (s : State) (k : State → State) : State :=
  if s.upd.op ≠ 0 then (s.setFld R.UPD_LAST_CODE codeBusy).inc R.UPD_CNT_REFUSED_N else k s

/-- An operation runs. -/
def State.updRuns (s : State) (op step : Nat) : State :=
  ({ s with upd := { s.upd with op := op } }).setFlds
    [(R.UPD_CTRL_BUSY, 1), (R.UPD_LAST_STEP, step), (R.UPD_PROGRESS_BYTES, 0)]

/-- CHECK_HDR (R434 step 1). -/
def State.checkHdr (s : State) : State := s.updStart fun t => t.updRuns 1 1

/-- CHECK_BODY (R434 step 2). -/
def State.checkBody (s : State) : State :=
  s.updStart fun t => if t.flag R.UPD_STATE_XFER then t.updRuns 2 2 else t.updEnd codeOrder 2

/-- PROGRAM (R434 step 3): the target slot is EMPTY from here on. -/
def State.program (s : State) (recOk : Bool) : State :=
  s.updStart fun t =>
    if t.flag R.UPD_STATE_XFER && t.upd.bodyOk then
      (t.writeBoot recOk (putState (t.fld R.UPD_STATE_TARGET) recEmpty)).updRuns 3 3
    else t.updEnd codeOrder 3

/-- A header check ends. -/
def State.hdrDone (s : State) : State :=
  let code := s.stagedCode none
  let t := (s.blockReads imgHdrAddr 512 pUPD).updEnd code 1
  if code = 0 then t.openTransfer none else t

/-- A body check ends. -/
def State.bodyDone (s : State) : State :=
  let t := s.blockReads imgBodyAddr s.upd.bodyLen pUPD
  if s.stagedBodyOk then
    ({ t with upd := { t.upd with bodyOk := true } }.setFld R.UPD_PROGRESS_BYTES s.upd.bodyLen).updEnd 0 2
  else (t.updEnd codeBodyHash 2).closeTransfer

/-- Programming ends: NOR reads back what was programmed, or differs (R434 step 3). -/
def State.programDone (s : State) (dev recOk : Bool) : State :=
  let x := s.fld R.UPD_STATE_TARGET
  let n := 512 + s.upd.bodyLen
  let lcp := s.upd.session.isSome
  let h := s.storeRead imgHdrAddr 512
  let s1 := (s.blockReads imgHdrAddr n pUPD).add R.FLASH_CNT_ERASE_N (slotBytes / eraseBlock)
  if dev && !s.storeRangeBad imgHdrAddr n then
    let s2 := (s1.norErase (regionBase x) slotBytes).norWrite (regionBase x) (s.storeRead imgHdrAddr n)
    let s3 := s2.writeBoot recOk fun r =>
      recPut (recPut (putState x recValidSlot r) (16 + 6 * x) ((h.drop 32).take 6)) (28 + 2 * x) ((h.drop 38).take 2)
    ((s3.setFld R.UPD_PROGRESS_BYTES n).updEnd 0 6).closeTransfer
  else
    let s2 := (s1.norSpoil (regionBase x) slotBytes).updEnd codeFlash 5
    if lcp then s2.closeTransfer else s2

/-- What runs is broken off: a slot half programmed stays EMPTY, its bytes not given (R434 step 4). -/
def State.updBreak (s : State) : State :=
  let t := if s.upd.op = 3 then s.norSpoil (regionBase (s.fld R.UPD_STATE_TARGET)) slotBytes else s
  ({ t with upd := { t.upd with op := 0 } }).setFld R.UPD_CTRL_BUSY 0

/-- UPD_CHECK_HDR. -/
def execUpdCheckHdr (m : Master) (s : State) : Res := s.begin.asWrite m pUPD rightSecure fun t => .next t.checkHdr

/-- UPD_CHECK_BODY. -/
def execUpdCheckBody (m : Master) (s : State) : Res := s.begin.asWrite m pUPD rightSecure fun t => .next t.checkBody

/-- UPD_PROGRAM. -/
def execUpdProgram (m : Master) (recOk : Bool) (s : State) : Res :=
  s.begin.asWrite m pUPD rightSecure fun t => .next (t.program recOk)

/-- ABORT stops programming only. -/
def State.updAbort (s : State) : State := if s.upd.op = 3 then s.updBreak.irq pUPD 0 else s

/-- UPD_ABORT. -/
def execUpdAbort (m : Master) (s : State) : Res := s.begin.asWrite m pUPD rightSecure fun t => .next t.updAbort

/-- UPD_OPERATION_DONE. -/
def execUpdOperationDone (dev recOk : Bool) (s : State) : Res :=
  let s := s.begin
  match s.upd.op with
  | 1 => .next s.hdrDone
  | 2 => .next s.bodyDone
  | 3 => .next (s.programDone dev recOk)
  | _ => .next s

/-! ## Trial and base camp request (R429, R433) -/

/-- CONFIRM ends the trial: the health timer runs in a trial boot alone. -/
def State.confirm (s : State) (recOk : Bool) : State :=
  if s.flag R.UPD_HEALTH_RUN then
    (s.writeBoot recOk fun r => recPut (putState (s.fld R.UPD_STATE_BOOTED % 2) recConfirmed r) 11 [0]).setFld R.UPD_HEALTH_RUN 0
  else s

/-- UPD_CONFIRM. -/
def execUpdConfirm (m : Master) (v : Word) (recOk : Bool) (s : State) : Res :=
  s.begin.asArmed m pUPD rightSecure fun t => .next (if v.getLsbD 0 then t.confirm recOk else t)

/-- UPD_HEALTH_HALF; the timer is frozen in BIVOUAC. -/
def execUpdHealthHalf (s : State) : Res :=
  let s := s.begin
  if s.flag R.UPD_HEALTH_RUN && !s.inBivouac then
    .next (({ s with upd := { s.upd with healthNs := 0 } }.setFld R.UPD_HEALTH_REMAIN_S (s.recHealth / 2)).irq pUPD 2)
  else .next s

/-- UPD_BOOTREQ. -/
def execUpdBootreq (m : Master) (v : Word) (s : State) : Res :=
  s.begin.asArmed m pUPD rightSecure fun t =>
    .next (if v.getLsbD 0 then { t with upd := { t.upd with baseReq := true } } else t)

/-! ## Activation (R438, R439) -/

/-- The frame and version that UPD_ACT_* hold. -/
def State.armLocal (s : State) : State :=
  s.armActivation (s.wide R.UPD_ACT_LO_N_LO R.UPD_ACT_HI_N_HI)
    (s.wide R.UPD_ACT_VER_LO_MINOR_PATCH R.UPD_ACT_VER_HI_MAJOR) 2

/-- The activation latch is disarmed. -/
def State.disarmActivation (s : State) : State := (s.setFld R.PARTY_ACT_STAT_ARMED 0).irq pUPD 1

/-- UPD_ACT_ARM. -/
def execUpdActArm (m : Master) (s : State) : Res := s.begin.asWrite m pUPD rightSecure fun t => .next t.armLocal

/-- UPD_ACT_DISARM. -/
def execUpdActDisarm (m : Master) (s : State) : Res :=
  s.begin.asWrite m pUPD rightSecure fun t => .next t.disarmActivation

/-- Send an ACTIVATE for a frame and version as the acting summit: RESULT 0 OK, 1 NOT_SUMMIT, 2 TOO_SOON (R439). -/
def State.sendActivate (s : State) (frame version : Nat) : State × Nat :=
  match s.checkTiming with
  | none => (s, 1)
  | some t =>
    if s.role ≠ roleSummit then (s, 1)
    else if frame * t.den < s.nowFrame * t.den + 2 * t.num then (s, 2)
    else
      let ns := t.p frame
      let body := beBytes 6 version ++ [0, 0] ++ beBytes 6 frame ++ [0, 0] ++ beBytes 6 (ns / 1000000000) ++
        beBytes 4 (ns % 1000000000) ++ List.replicate 14 0#8
      let s1 := match s.buildParty typeActivate s.nowFrame body with
        | some msg => s.sendParty msg
        | none => s
      (s1.armActivation frame version 1, 0)

/-- SEND of UPD_PACT_CTRL. -/
def State.pactSend (s : State) : State :=
  let r := s.sendActivate (s.wide R.UPD_PACT_LO_N_LO R.UPD_PACT_HI_N_HI)
    (s.wide R.UPD_PACT_VER_LO_MINOR_PATCH R.UPD_PACT_VER_HI_MAJOR)
  r.1.setFld R.UPD_PACT_CTRL_RESULT r.2

/-- UPD_PACT_SEND. -/
def execUpdPactSend (m : Master) (s : State) : Res := s.begin.asWrite m pUPD rightSecure fun t => .next t.pactSend

/-! ## FLASH (R424, R436) -/

/-- RESULT of a FLASH command as far as its registers show it: 0, or 1 PROTECTED, 2 ALIGN, 3 RANGE. -/
def flashCheck (op addr len src : Nat) (srcStore : Bool) (size : Nat) : Nat :=
  let stop := if op = 1 then (addr + len + eraseBlock - 1) / eraseBlock * eraseBlock else addr + len
  if len = 0 then 0
  else if addr % (if op = 1 then eraseBlock else 8) ≠ 0 then 2
  else if 0x10000000 < stop || (op ≠ 1 && (if srcStore then size < src * 64 + len else !inSram src len)) then 3
  else if addr < 0x5000000 || 0xE400000 < stop then 1
  else 0

/-- The command erases or writes a configuration copy whose SCHEMA is not that of the image in its trial (R436). -/
def State.flashBreach (s : State) (op addr len : Nat) : Bool :=
  s.flag R.UPD_HEALTH_RUN && op ≠ 3 && len ≠ 0 && [0x5000000, 0x5200000].any fun c =>
    decide (addr < c + 0x200000) && decide (c < addr + len) && leNat (s.norRead c 4) = 0x43464731 &&
      leNat (s.norRead (c + 4) 2) ≠ s.recSchema (s.fld R.UPD_STATE_BOOTED % 2)

/-- A FLASH command ends with a RESULT. -/
def State.flashEnd (s : State) (res : Nat) : State :=
  let s1 := ({ s with upd := { s.upd with flash := none } }).setFlds [(R.FLASH_CTRL_GO, 0), (R.FLASH_CTRL_RESULT, res)]
  if res = 0 then s1.irq pFLASH 0 else (s1.inc R.FLASH_CNT_ERR_N).irq pFLASH 0

/-- GO of FLASH_CTRL with an operation; it is ignored while one runs. -/
def State.flashGo (s : State) (op : Nat) (v : Word) : Res :=
  if s.flag R.FLASH_CTRL_GO then .next s
  else
    let store := v.getLsbD 30
    let s1 := s.setFlds [(R.FLASH_CTRL_OP, op), (R.FLASH_CTRL_SRC_STORE, b2n store)]
    let addr := s.fld R.FLASH_ADDR_ADDR
    let len := s.fld R.FLASH_LEN_BYTES
    let src := s.fld R.FLASH_SRC_ADDR
    let r := flashCheck op addr len src store s.storeSize
    if r ≠ 0 then
      .next (((s1.setFld R.FLASH_CTRL_RESULT r).inc R.FLASH_CNT_ERR_N).irq pFLASH 1)
    else if s.flashBreach op addr len then .fault (.unpredictable 436)
    else .next ({ s1 with upd := { s1.upd with flash := some (op, addr, len, store, src) } }.setFld R.FLASH_CTRL_GO 1)

/-- FLASH_ERASE. -/
def execFlashErase (m : Master) (v : Word) (s : State) : Res := s.begin.asWrite m pFLASH rightSecure fun t => t.flashGo 1 v

/-- FLASH_PROGRAM. -/
def execFlashProgram (m : Master) (v : Word) (s : State) : Res := s.begin.asWrite m pFLASH rightSecure fun t => t.flashGo 2 v

/-- FLASH_VERIFY. -/
def execFlashVerify (m : Master) (v : Word) (s : State) : Res := s.begin.asWrite m pFLASH rightSecure fun t => t.flashGo 3 v

/-- The source of a FLASH command; none where a word of it cannot be read. -/
def State.flashSource (s : State) (len : Nat) (store : Bool) (src : Nat) : Option (List Byte) :=
  if store then
    if s.storeCtl.unusable || s.storeRangeBad (src * 64) len then none else some (s.storeRead (src * 64) len)
  else
    let o := src - 0x10000000
    if s.mem.sramBad.any fun w => decide (o ≤ 8 * w + 7) && decide (8 * w < o + len) then none else some (s.sramRead src len)

/-- Programming clears bits only. -/
def programBytes (old new : List Byte) : List Byte := (old.zip new).map fun (p : Byte × Byte) => p.1 &&& p.2

/-- FLASH_DONE: the operation takes effect whole; a device error leaves its bytes not given. -/
def execFlashDone (dev : Bool) (s : State) : Res :=
  let s := s.begin
  match s.upd.flash with
  | none => .next s
  | some (op, addr, len, store, src) =>
    if len = 0 then .next (s.flashEnd 0)
    else
      let blocks := (len + eraseBlock - 1) / eraseBlock
      let t := if op ≠ 1 && store then s.blockReads (src * 64) len pFLASH else s
      if op = 1 then
        let u := t.add R.FLASH_CNT_ERASE_N blocks
        .next (if dev then (u.norErase addr (blocks * eraseBlock)).flashEnd 0
               else (u.norSpoil addr (blocks * eraseBlock)).flashEnd 5)
      else match s.flashSource len store src with
        | none => .next (t.flashEnd 5)
        | some bs =>
          if op = 2 then
            .next (if dev then (t.norWrite addr (programBytes (s.norRead addr len) bs)).flashEnd 0
                   else (t.norSpoil addr len).flashEnd 5)
          else if !dev then .next (t.flashEnd 5)
          else .next (t.flashEnd (if s.norRead addr len = bs then 0 else 4))

/-- A FLASH command that a reset breaks off. -/
def State.flashBreak (s : State) : State :=
  let t := match s.upd.flash with
    | some (1, addr, len, _, _) => s.norSpoil addr ((len + eraseBlock - 1) / eraseBlock * eraseBlock)
    | some (2, addr, len, _, _) => s.norSpoil addr len
    | _ => s
  ({ t with upd := { t.upd with flash := none } }).setFld R.FLASH_CTRL_GO 0

end Sys2Proof.Machine
end

