-- ==== Sys2Proof/Machine/Pwr.lean ====
section
/-! DEFINITION. REST, the handshake of a power-state request, the steps of an entry before its power switches open, and
its abandonment (R459–R469, R475). -/
namespace Sys2Proof.Machine

/-- Change the hidden state of PWR. -/
def State.setPwr (s : State) (x : PwrS) : State := { s with pwr := x }

/-- VIO_STRg follow the outputs they are tied to, at their nominal voltages (R55, R56, R58; assumption log, entry 47). -/
def State.followVio (s : State) : State :=
  let level := fun (tie : Bool) => if tie then 3300 * b2n s.pins.v3p3 else 1800 * b2n s.pins.v1p8
  { s with pins := { s.pins with vioMv := s.pins.vioTie.map level } }

/-- V3P3_OUT and V1P8_OUT switch on or off, and VIO_STRg with them (R55, R56). -/
def State.setSupplies (s : State) (v3p3 v1p8 : Bool) : State :=
  { s with pins := { s.pins with v3p3 := v3p3, v1p8 := v1p8 } }.followVio

/-! ## REST (R461) -/

/-- Some hart has an interrupt pending that wakes it. -/
def State.anyWakes (s : State) : Bool := (List.range 8).any s.hartWakes

/-- REST_ENTER: every hart waits in WFI, none with an interrupt pending, and PWR_CFG.REST_EN is 1. -/
def execRestEnter (s : State) : Res :=
  let s := s.begin
  if s.power = pwrRun && s.rst.phase = .none && s.flag R.PWR_CFG_REST_EN && !s.anyWakes && !(s.hart 0).held then
    let hs := s.harts.map fun (x : HartS) => { x with wfi := true }
    .next (({ s with harts := hs }.setFlds
      [(R.PWR_STATE_STATE, pwrRest), (R.PWR_STATE_LAST, pwrRun)]).irq pPWR 0)
  else .next s

/-- REST_EXIT: a hart has an interrupt pending. -/
def execRestExit (s : State) : Res :=
  let s := s.begin
  if s.power = pwrRest && s.anyWakes then
    let hs := ((List.range 8).zip s.harts).map fun (p : Nat × HartS) => { p.2 with wfi := p.2.wfi && !s.hartWakes p.1 }
    .next (({ s with harts := hs }.setFlds [(R.PWR_STATE_STATE, pwrRun), (R.PWR_STATE_LAST, pwrRest)]).irq pPWR 0)
  else .next s

/-! ## The handshake (R463, R464) -/

/-- The transitions that may be requested. -/
def State.targetOk (s : State) (t : Nat) : Bool :=
  if s.power ≤ pwrRest then t = pwrBivouac || t = pwrDormant || t = pwrOff
  else s.power = pwrBivouac && s.flag R.PWR_STATE_CP_AWAKE && (t = pwrRun || t = pwrBivouac || t = pwrDormant || t = pwrOff)

/-- Only the control-plane pages are asked: BIVOUAC from BIVOUAC. -/
def State.controlOnly (s : State) (t : Nat) : Bool := s.power = pwrBivouac && t = pwrBivouac

/-- Some page delays its answer (R464); the cairn also while it is frozen (R508). -/
def State.pwrDelays (s : State) (t : Nat) : Bool :=
  let control := s.heldSlots ≠ [] || s.flag R.CAIRN_CTRL_FREEZE || s.flag R.ANCHOR_STATUS_BUSY
  if s.controlOnly t then control
  else control || s.meter.save.isSome || s.meter.waiting ≠ [] || s.commit.staging.isSome || s.flag R.COMMIT_STAGE_CTRL_GO ||
    s.flag R.COMMIT_ANN_CTRL_BUSY || !s.flag R.STORE_STATUS_INIT_DONE || s.flag R.STORE_STATUS_WAKE_SCRUB

/-- The page that refuses, and its row of R464; none where every page may accept. -/
def State.pwrRefuses (s : State) (t : Nat) (force : Bool) : Option (Nat × Nat) :=
  let deep := t = pwrDormant || t = pwrOff
  let display := !s.controlOnly t && !force
  if s.upd.op ≠ 0 then some (pUPD, 9)
  else if s.flag R.FLASH_CTRL_GO then some (pFLASH, 10)
  else if display && deep && s.role ≠ roleNone then some (pPARTY, 11)
  else if display && (s.flag R.BELAY_STATUS_RESYNC_BUSY || (deep && s.isLead && !s.flag R.BELAY_STATUS_PARTNER_SEEN)) then
    some (pBELAY, 12)
  else none

/-- A request ends with a RESULT and no entry. -/
def State.pwrEnds (s : State) (result : Nat) : State :=
  (s.setPwr { s.pwr with target := none, step := 0 }).setFlds [(R.PWR_RESULT_BUSY, 0), (R.PWR_RESULT_RESULT, result)]

/-- What the pages start when asked: the STOP save (R285), the cairn's flush, the scheduler's checkpoint. -/
def State.pwrAsk (s : State) (t : Nat) : State :=
  let deep := t = pwrDormant || t = pwrOff
  let s1 := if deep && s.meter.running then s.saveDue reasonStop else s
  let s2 := if s1.cairn.up then s1.urgentFlush else s1
  if t = pwrDormant && s2.flag R.PWR_CFG_CKPT then
    { s2 with mem := { s2.mem with ret := memWrite s2.mem.ret ckptAddr s2.ckptBytes } } else s2

/-- A return from BIVOUAC to RUN begins with its regulator stage (R470, R473). -/
def State.startReturn (s : State) : State := s.setPwr { s.pwr with stage := 1, retry := false, resume := false }

/-- POWER_STATE_REQUEST: an armed write of PWR_REQ. -/
def execPowerStateRequest (m : Master) (v : Word) (s : State) : Res :=
  s.begin.asArmed m pPWR rightReset fun u =>
    let t := bits v.toNat 2 0
    if !v.getLsbD 31 then .next u
    else if u.flag R.PWR_RESULT_BUSY then .next (u.inc R.PWR_CNT_REFUSED_N)
    else if !u.targetOk t then .next ((u.setFld R.PWR_RESULT_RESULT 4).inc R.PWR_CNT_REFUSED_N)
    else
      let w := (u.setPwr { u.pwr with target := some t, force := v.getLsbD 30, step := 1, wasLead := false }).setFlds
        [(R.PWR_RESULT_BUSY, 1), (R.PWR_RESULT_RESULT, 0), (R.PWR_RESULT_AP, 0), (R.PWR_RESULT_REASON, 0)]
      .next (if t = pwrRun then (w.setPwr { w.pwr with step := 0 }).startReturn else w.pwrAsk t)

/-- POWER_HANDSHAKE_ACCEPTED: every page has answered, which none that delays or refuses does. The page that answered
last is not given. A pending RST_REQ is discarded on the way to DORMANT or OFF (R478). -/
def execPowerHandshakeAccepted (s : State) : Res :=
  let s := s.begin
  match s.pwr.target with
  | none => .next s
  | some t =>
    if s.pwr.step ≠ 1 || s.pwrDelays t || (s.pwrRefuses t s.pwr.force).isSome then .next s
    else
      let u := (s.setPwr { s.pwr with step := 2 }).setFlds [(R.PWR_RESULT_AP, 1), (R.PWR_RESULT_PAGE, s.freeBits 7)]
      .next ((if t = pwrDormant || t = pwrOff then u.setFld R.RST_REQ_STAT_PENDING 0 else u).drawn)

/-- POWER_HANDSHAKE_REFUSED. -/
def execPowerHandshakeRefused (s : State) : Res :=
  let s := s.begin
  match s.pwr.target with
  | none => .next s
  | some t =>
    if s.pwr.step ≠ 1 then .next s
    else match s.pwrRefuses t s.pwr.force with
      | none => .next s
      | some (page, row) =>
        .next ((((s.pwrEnds 1).setFlds [(R.PWR_RESULT_PAGE, page), (R.PWR_RESULT_REASON, row)]).inc
          R.PWR_CNT_REFUSED_N).irq pPWR 1)

/-- POWER_HANDSHAKE_TIMEOUT. -/
def execPowerHandshakeTimeout (s : State) : Res :=
  let s := s.begin
  if s.pwr.target.isSome && s.pwr.step = 1 then .next (((s.pwrEnds 2).inc R.PWR_CNT_REFUSED_N).irq pPWR 1) else .next s

/-! ## The steps before AP4 (R465, R468, R475) -/

/-- Clock sources of R462, by their bit of CLK_STAT, that a state leaves running. -/
def clocksIn (state : Nat) (awake : Bool) (port : Nat) : Nat :=
  if state = pwrBivouac then 0x027 + 8 * b2n awake + 2 ^ (6 + port % 2)
  else if state = pwrDormant then 0x003
  else 0x002

/-- CLK_STAT shows sources that run and are ready. -/
def State.setClocks (s : State) (mask : Nat) : State :=
  s.setFlds [(R.CLK_STAT_RUN, mask), (R.CLK_STAT_READY, mask)]

/-- Every source a running module uses but the radio's crystal. -/
def clocksRun : Nat := 0x0FF

/-- Every rail is off (R248). -/
def State.railsOff (s : State) : State :=
  ({ s.releaseRails with rails := List.replicate 12 {} }).showRails

/-- The CRC of bank b of retained SRAM (R475). -/
def State.bankCrc (s : State) (b : Nat) : Nat := crc32 (memRead s.mem.ret (2048 * b) 2048)

/-- Step `k` of an entry from RUN or REST to state t, k from 3 to 9. From BIVOUAC only steps 7 to 9 are run. -/
def State.entryStep (s : State) (t k : Nat) : State :=
  let deep := t = pwrDormant || t = pwrOff
  match k with
  | 3 => if deep && s.isLead then (s.setPwr { s.pwr with wasLead := true }).dropLead 0x11 else s
  | 4 => (if deep && s.pwr.wasLead then s.releaseRails else s).releasePorts
  | 5 =>
    let u := s.mediaGone true
    if deep then { u with meter := { u.meter with running := false } } else u
  | 6 => s.railsOff
  | 7 => (s.setClocks (clocksIn t false (s.fld R.PWR_CFG_BIV_PORT))).setFld R.PWR_RESULT_AP 2
  | 8 =>
    let u := s.setFld R.PWR_RESULT_AP 3
    if t = pwrBivouac then u.stopPort u.idlePort else (u.stopPort .a).stopPort .b
  | 9 =>
    let u := if t = pwrBivouac then { s with storeCtl := { s.storeCtl with selfRefresh := true } } else s
    if t = pwrOff then u else (List.range 4).foldl (fun (v : State) b => v.setFld (R.PWR_RETSIG_CRC b) (v.bankCrc b)) u
  | _ => s

/-- The step after the last one taken. -/
def State.nextStep (s : State) : Nat := if s.power = pwrBivouac && s.pwr.step < 6 then 7 else s.pwr.step + 1

/-- An entry that reached step 8 gives the ports their link search again: both, or the listening one. -/
def State.undoPorts (s : State) (k : Nat) (whole : Bool) : State :=
  if k < 8 then s
  else if whole then (s.startAcquire .a).startAcquire .b
  else s.startAcquire (portOf (s.fld R.PWR_CFG_BIV_PORT))

/-- Step 9 undone: the store leaves self-refresh, unless BIVOUAC was the state left. -/
def State.undoSelfRefresh (s : State) (k : Nat) : State :=
  if k < 9 then s
  else { s with storeCtl := { s.storeCtl with selfRefresh := s.power = pwrBivouac && s.storeCtl.selfRefresh } }

/-- Step 7 undone: the clocks of the state left. -/
def State.undoClocks (s : State) (k : Nat) (whole : Bool) : State :=
  if k < 7 then s
  else s.setClocks (if whole then clocksRun else clocksIn pwrBivouac true (s.fld R.PWR_CFG_BIV_PORT))

/-- Steps 6 and 4 undone: the rails start again. -/
def State.undoRails (s : State) (k : Nat) (whole : Bool) : State :=
  if whole && (6 ≤ k || (4 ≤ k && s.pwr.wasLead)) then s.railsReturn else s

/-- Step 5 undone: the meter runs on. -/
def State.undoMeter (s : State) : State :=
  { s with meter := { s.meter with running := s.meter.running || s.pwr.target ≠ some pwrBivouac } }

/-- Step 5 undone: media reception and the meter. -/
def State.undoMedia (s : State) (k : Nat) (whole : Bool) : State :=
  if whole && 5 ≤ k then (s.mediaGone false).undoMeter else s

/-- Step 3 undone: a lead that released LEAD_N takes it back if its partner has not. -/
def State.undoLead (s : State) : State :=
  if s.pwr.wasLead && !s.pins.partnerLeadLow then
    { s.setFld R.BELAY_STATUS_LEAD 1 with pins := { s.pins with leadLow := true } } else s

/-- An entry is abandoned before AP4 (R466): what its steps did is undone, last step first, and the state left goes
on. -/
def State.abandonEntry (s : State) : State :=
  if s.pwr.target.isNone || s.pwr.stage ≠ 0 then s
  else
    let k := s.pwr.step
    let whole : Bool := s.power ≤ pwrRest
    let t := (((((s.undoPorts k whole).undoSelfRefresh k).undoClocks k whole).undoRails k whole).undoMedia k whole).undoLead
    ((t.pwrEnds 3).inc R.PWR_CNT_ABANDON_N).irq pPWR 1

end Sys2Proof.Machine
end

