-- ==== Sys2Proof/Machine/Rtc.lean ====
section
/-! DEFINITION. The calendar clock and the backup domain (R479–R492): counting, trim and its discipline, sets and
summer-time commands, alarms, and the loss of supply or crystal. -/
namespace Sys2Proof.Machine

/-- S at 2199-12-31 23:59:59 (R484). -/
def rtcMax : Nat := 6311433599

/-- S takes a value; END shows the end of range (R484). -/
def State.setS (s : State) (v : Nat) : State :=
  s.setFlds [(R.RTC_SEC_LO_S_LO, v), (R.RTC_SEC_HI_S_HI, v / 2 ^ 32), (R.RTC_SEC_HI_END, b2n (v = rtcMax))]

/-! ## Alarms (R490, R491) -/

/-- The target of alarm k. -/
def State.almT (s : State) (k : Nat) : Nat := s.wide (R.RTC_ALM_LO_T_LO k) (R.RTC_ALM_HI_T_HI k)

/-- Set the target of alarm k. -/
def State.setAlmT (s : State) (k v : Nat) : State :=
  s.setFlds [(R.RTC_ALM_LO_T_LO k, v), (R.RTC_ALM_HI_T_HI k, v / 2 ^ 32)]

/-- Alarm k is enabled and not done. -/
def State.almArmed (s : State) (k : Nat) : Bool :=
  s.flag (R.RTC_ALM_CTRL_EN k) && !s.flag (R.RTC_ALM_CTRL_DONE k)

/-- Alarm k fires; a one-shot is done, a periodic one advances `steps` periods (R490). -/
def State.almFire (s : State) (k steps : Nat) (skipped : Bool) : State :=
  let p := s.fld (R.RTC_ALM_CTRL_PERIOD_S k)
  let s1 := (s.setBit R.RTC_ALM_STAT_FIRED k true).irq pRTC 0
  let s2 := if skipped then s1.setBit R.RTC_ALM_STAT_SKIPPED k true else s1
  if p = 0 then s2.setFld (R.RTC_ALM_CTRL_DONE k) 1 else s2.setAlmT k (s2.almT k + p * steps)

/-- Alarm k at an adjustment from `a` to `b` (R491). -/
def State.almAdjust (s : State) (a b k : Nat) : State :=
  let t := s.almT k
  let p := s.fld (R.RTC_ALM_CTRL_PERIOD_S k)
  let rearm := s.flag (R.RTC_ALM_CTRL_REARM_BACK k)
  if a < b then
    if s.almArmed k && a < t && t < b then s.almFire k ((b - t) / p + 1) true
    else if s.almArmed k && t = b then s.almFire k 1 false
    else s
  else if b < a && rearm then
    if p = 0 then
      if s.flag (R.RTC_ALM_CTRL_DONE k) && b ≤ t && t ≤ a then
        let u := s.setFld (R.RTC_ALM_CTRL_DONE k) 0
        if t = b && u.flag (R.RTC_ALM_CTRL_EN k) then u.almFire k 1 false else u
      else s
    else if b ≤ t then s.setAlmT k (b + (t - b) % p) else s
  else s

/-- S becomes `v` by counting: the alarms whose target it is fire (R484, R490), and PHASE_US shows the offset of the
edge from the nearest PTP second (R487). -/
def State.countTo (s : State) (v : Nat) : State :=
  let o : Nat := s.ptp.ns % 1000000000
  let off : Int := if o < 500000000 then (o : Int) else (o : Int) - 1000000000
  let s1 := (s.setS v).setFld R.RTC_DISC_STAT_PHASE_US (ofSigned 16 (satS 16 (tdiv off 1000)))
  (List.range 4).foldl (fun (t : State) k => if t.almArmed k && t.almT k = v then t.almFire k 1 false else t) s1

/-! ## Adjustments (R488, R489, R491) -/

/-- S goes from `a` to `b` by an adjustment; OLD of its marker is `old` (R489, R491, R498). -/
def State.adjust (s : State) (a old b cause : Nat) (step : Bool) : State :=
  let s1 := ((s.cairnOld old step).setS b).setFlds [(R.RTC_SUBSEC_COUNT, 0), (R.RTC_SEC_HI_VALID, 1)]
  let s2 := (List.range 4).foldl (fun (t : State) k => t.almAdjust a b k) s1
  if step then (s2.irq pRTC 1).cairnStep old b cause else s2

/-- A set takes effect (R488): VALID becomes 1 and OSC_FAIL clears. -/
def State.applySet (s : State) (v cause : Nat) : State :=
  let a := if s.rtcValid then s.rtcS else 0
  let step := !s.rtcValid || a + 1 < v || v + 1 < a
  (s.adjust a a v cause step).setFld R.AON_BKSTAT_OSC_FAIL 0

/-- RTC_SET: a write of RTC_SET_CTRL; GO cancels what is pending, and sets S at once or at the next PTP second (R488).
A value past the end of range breaks R488. -/
def execRtcSet (m : Master) (value : Word) (s : State) : Res :=
  s.begin.asWrite m pRTC rightLive fun t =>
    let u := t.setFlag R.RTC_SET_CTRL_AT_PTP (value.getLsbD 0)
    let v := u.wide R.RTC_SET_LO_S_LO R.RTC_SET_HI_S_HI
    if !value.getLsbD 31 then .next u
    else if rtcMax < v then .fault (.unpredictable 488)
    else
      let w := { u with rtc := { u.rtc with dst := none, setTo := none } }.setFlds
        [(R.RTC_DST_PENDING, 0), (R.RTC_SET_CTRL_PENDING, 0)]
      .next (if value.getLsbD 0 then { w with rtc := { w.rtc with setTo := some v } }.setFld R.RTC_SET_CTRL_PENDING 1
        else w.applySet v 1)

/-- RTC_SET_AT_PTP_APPLY (R488). -/
def execRtcSetAtPtpApply (s : State) : Res :=
  let s := s.begin
  match s.rtc.setTo with
  | none => .next s
  | some v =>
    .next (({ s with rtc := { s.rtc with setTo := none } }.setFld R.RTC_SET_CTRL_PENDING 0).applySet v 2)

/-- A summer-time command is written: it waits for the next second, and is discarded while VALID is 0 (R488). -/
def State.dstCommand (s : State) (add clear : Bool) : State :=
  let t := if clear then s.setFld R.RTC_DST_OUT_OF_RANGE 0 else s
  if t.rtcValid then { t with rtc := { t.rtc with dst := some add } }.setFld R.RTC_DST_PENDING 1 else t

/-- RTC_DST_ADD (R488). -/
def execRtcDstAdd (m : Master) (clear : Bool) (s : State) : Res :=
  s.begin.asWrite m pRTC rightLive fun t => .next (t.dstCommand true clear)

/-- RTC_DST_SUB (R488). -/
def execRtcDstSub (m : Master) (clear : Bool) (s : State) : Res :=
  s.begin.asWrite m pRTC rightLive fun t => .next (t.dstCommand false clear)

/-- The second boundary: a pending summer-time command adjusts S, and S counts otherwise (R488). -/
def State.rtcSecond (s : State) : State := match s.rtc.dst with
  | none => s.countTo (s.rtcS + 1)
  | some add =>
    let a := s.rtcS
    let t := { s with rtc := { s.rtc with dst := none } }.setFld R.RTC_DST_PENDING 0
    if (!add && a + 1 < 3600) || (add && rtcMax < a + 3601) then
      (t.setFld R.RTC_DST_OUT_OF_RANGE 1).countTo (a + 1)
    else
      let b := if add then a + 3601 else a + 1 - 3600
      ((t.setFlag R.RTC_DST_DST add).adjust a (a + 1) b (if add then 3 else 4) true).irq pRTC 3

/-- The RTC counts: VALID is 1, END is 0 and the crystal runs (R482, R484, R485). -/
def State.rtcRuns (s : State) : Bool :=
  s.rtcValid && !s.flag R.RTC_SEC_HI_END && !s.flag R.AON_BKSTAT_OSC_FAIL

/-- RTC_DST_APPLY: the second boundary comes with a command pending (R488). -/
def execRtcDstApply (s : State) : Res :=
  let s := s.begin
  .next (if s.rtcRuns && s.rtc.dst.isSome then (s.setFld R.RTC_SUBSEC_COUNT 0).rtcSecond else s)

/-- RTC_ALARM_FIRE: counting brings S to the target of alarm k, which is enabled and not done (R490). -/
def execRtcAlarmFire (k : Nat) (s : State) : Res :=
  let s := s.begin
  .next (if s.rtcRuns && s.almArmed k && s.rtcS < s.almT k && s.almT k ≤ rtcMax then
    (s.setFld R.RTC_SUBSEC_COUNT 0).countTo (s.almT k) else s)

/-- RTC_END_OF_RANGE: counting brings S to 2199-12-31 23:59:59, and the RTC stops with END set (R484). -/
def execRtcEndOfRange (s : State) : Res :=
  let s := s.begin
  .next (if s.rtcRuns then (s.setFld R.RTC_SUBSEC_COUNT 0).countTo rtcMax else s)

/-! ## Counting and trim (R484, R486, R487) -/

/-- RTC_TRIM.T. -/
def State.trimT (s : State) : Int := toSigned 10 (s.fld R.RTC_TRIM_T)

/-- What crystal cycle `c` of a window adds to the sub-second count under trim `t` (R486). -/
def trimCount (t : Int) (c : Nat) : Nat :=
  let n := t.natAbs
  let k := (c * n + 2 ^ 20 - 1) / 2 ^ 20
  if n ≠ 0 && k < n && k * 2 ^ 20 / n = c then (if 0 < t then 2 else 0) else 1

/-- One edge of the 32.768 kHz crystal. -/
def State.rtcEdge (s : State) : State :=
  if s.flag R.AON_BKSTAT_OSC_FAIL then s
  else
    let c := s.rtc.cycle
    let add := trimCount s.rtc.trim c
    let s1 := if c + 1 = 2 ^ 20 then { s with rtc := { s.rtc with cycle := 0, trim := s.trimT } }
      else { s with rtc := { s.rtc with cycle := c + 1 } }
    if !s1.rtcRuns then s1
    else
      let n := s1.fld R.RTC_SUBSEC_COUNT + add
      if n < 32768 then s1.setFld R.RTC_SUBSEC_COUNT n
      else (s1.setFld R.RTC_SUBSEC_COUNT (n - 32768)).rtcSecond

/-- tm of R487. -/
def trimMeasure (tStart tEnd : Nat) : Int :=
  (((tEnd : Int) - tStart - 32000000000) * 1048576 + 16000000000) / 32000000000

/-- RTC_TRIM_WINDOW: with EN, the discipline moves T or rejects the window; the next window takes T (R486, R487). -/
def execRtcTrimWindow (tStart tEnd : Nat) (locked : Bool) (s : State) : Res :=
  let s := s.begin
  let tm := trimMeasure tStart tEnd
  let s1 := if s.flag R.RTC_DISC_EN then
      let u := s.setFld R.RTC_DISC_STAT_TM (ofSigned 10 (satS 10 tm))
      if locked && tm.natAbs ≤ 511 then
        let t := u.trimT
        u.setFld R.RTC_TRIM_T (ofSigned 10 (clampI (t + (tm - t) / (2 ^ u.fld R.RTC_DISC_SHIFT : Nat)) (-511) 511))
      else (u.satInc R.RTC_DISC_STAT_REJECTED).irq pRTC 2
    else s
  .next { s1 with rtc := { s1.rtc with cycle := 0, trim := s1.trimT } }

/-! ## The backup domain (R479–R483) -/

/-- BACKUP_SWITCHOVER (R479). -/
def execBackupSwitchover (toVbat : Bool) (s : State) : Res :=
  let s := s.begin
  let t := { s with rtc := { s.rtc with onVbat := toVbat } }
  .next (if toVbat then t.setFld R.AON_BKSTAT_ON_VBAT 1 else t)

/-- VALID clears and the counters read 0; a change of VALID ends the cairn's interval (R480, R482, R501). -/
def State.rtcInvalid (s : State) : State :=
  let t := if s.rtcValid then s.intervalEnd s.rtcSecs false else s
  t.setFlds [(R.RTC_SEC_HI, 0), (R.RTC_SEC_LO, 0), (R.RTC_SUBSEC, 0)]

/-- BACKUP_SUPPLY_LOST: what R480 clears in the cycle in which the latch sets; the other backup registers take their reset
values (chapter 19, Registers). -/
def execBackupSupplyLost (s : State) : Res :=
  let t := s.begin.rtcInvalid
  let alarms : List Fld := (List.range 4).flatMap fun k => [R.RTC_ALM_LO k, R.RTC_ALM_HI k, R.RTC_ALM_CTRL k]
  let u := { t with mem := { t.mem with bk := [] }, rtc := { t.rtc with dst := none, setTo := none, trim := 0 } }
  .next ((u.clearFlds alarms).setFlds
    [(R.RTC_TRIM, 0), (R.RTC_DISC, 2), (R.RTC_DST, 0), (R.RTC_ALM_STAT, 0), (R.RTC_SET_CTRL_PENDING, 0),
     (R.ANCHOR_TAMPER_STAT_LATCHED, 0), (R.ANCHOR_TAMPER_STAT_UNPOWERED, 0), (R.ANCHOR_TAMPER_STAT_SOURCE, 0),
     (R.ANCHOR_TAMPER_TIME_SEC, 0), (R.AON_BKSTAT_OSC_FAIL, 0), (R.AON_BKSTAT_ON_VBAT, 0),
     (R.AON_BO_SEC_SEC, 0), (R.AON_BKSTAT_BO_VALID, 0), (R.AON_BKSTAT_LOST, 1)])

/-- RTC_OSC_FAIL (R482). -/
def execRtcOscFail (s : State) : Res :=
  .next ((s.begin.rtcInvalid.setFld R.AON_BKSTAT_OSC_FAIL 1).irq pAON 2)

/-- VBAT_MEASURE (R483). -/
def execVbatMeasure (mv : Nat) (s : State) : Res :=
  let t := s.begin.setFld R.AON_VBAT_MV mv
  .next (if mv < 2400 then (t.setFld R.AON_BKSTAT_VBAT_LOW 1).irq pAON 1 else t)

/-- A VIN brownout while VALID is 1 latches the RTC seconds (R483). -/
def State.latchBrownout (s : State) : State :=
  if s.rtcValid then s.setFlds [(R.AON_BO_SEC_SEC, s.rtcSecs), (R.AON_BKSTAT_BO_VALID, 1)] else s

/-! ## The calendar fields (R484) -/

/-- The Gregorian leap rule. -/
def leapYear (y : Nat) : Bool := y % 4 = 0 && (y % 100 ≠ 0 || y % 400 = 0)

/-- Year and day of the year of a day counted from 2000-01-01, over `fuel` years. -/
def yearOf : Nat → Nat → Nat → Nat × Nat
  | 0, y, d => (y, d)
  | fuel + 1, y, d =>
    let len : Nat := if leapYear y then 366 else 365
    if d < len then (y, d) else yearOf fuel (y + 1) (d - len)

/-- Month and day of the month, from 1, of a day of the year. -/
def monthOf : List Nat → Nat → Nat → Nat × Nat
  | [], m, d => (m, d + 1)
  | len :: t, m, d => if d < len then (m, d + 1) else monthOf t (m + 1) (d - len)

/-- The lengths of the months. -/
def monthLengths (y : Nat) : List Nat := [31, if leapYear y then 29 else 28, 31, 30, 31, 30, 31, 31, 30, 31, 30, 31]

/-- RTC_CAL_DATE, 0 while VALID is 0 (R484, R485). -/
def State.calDate (s : State) : Nat :=
  if s.rtcValid then
    let day := s.rtcS / 86400
    let y := yearOf 200 2000 day
    let m := monthOf (monthLengths y.1) 1 y.2
    y.1 * 2 ^ 16 + (day + 5) % 7 * 2 ^ 12 + m.1 * 2 ^ 8 + m.2
  else 0

/-- RTC_CAL_TIME, 0 while VALID is 0. -/
def State.calTime (s : State) : Nat :=
  if s.rtcValid then
    let r := s.rtcS % 86400
    r / 3600 * 2 ^ 16 + r / 60 % 60 * 2 ^ 8 + r % 60
  else 0

end Sys2Proof.Machine
end

