-- ==== Sys2Proof/Machine/Reset.lean ====
section
/-! DEFINITION. The reset controller: sources and scopes, the release sequences, BLOCK resets, the reset record, clock
supervision, the supply, tamper and the starts of Anchor, and the watchdogs (R355, R356, R398, R421, R441–R458). -/
namespace Sys2Proof.Machine

/-- Change the hidden state of RST. -/
def State.setRst (s : State) (x : RstS) : State := { s with rst := x }

/-! ## The reset record (R456) -/

/-- A reset record without its CRC. -/
def resetBody (seq scope cause detail rtc ns flags : Nat) : List Byte :=
  leBytes 4 0x52535431 ++ leBytes 4 seq ++ leBytes 1 scope ++ leBytes 1 cause ++ leBytes 2 detail ++ leBytes 4 rtc ++
    leBytes 6 (ns / 1000000000) ++ leBytes 4 (ns % 1000000000) ++ leBytes 2 flags

/-- One more than the highest valid SEQ of the ring. -/
def State.nextResetSeq (s : State) : Nat :=
  (List.range 8).foldl (fun acc n => if resetRecValid (s.resetRec n) then max acc (recField (s.resetRec n) 4 4) else acc) 0 + 1

/-- FLAGS of a record now. -/
def State.resetFlags (s : State) : Nat :=
  b2n s.timeValid + 2 * b2n s.rtcValid + 4 * b2n s.rst.pfWarn + 8 * b2n s.rst.saved + 16 * b2n s.isLead

/-- Write a record into the ring and show it in RST_LAST and RST_SEQ. -/
def State.putRecord (s : State) (scope cause detail rtc ns flags : Nat) : State :=
  let seq := s.nextResetSeq
  let b := resetBody seq scope cause detail rtc ns flags
  ({ s with mem := { s.mem with ret := memWrite s.mem.ret (32 * (seq % 8)) (b ++ leBytes 4 (crc32 b)) } }).setFlds
    [(R.RST_LAST_DETAIL, detail), (R.RST_LAST_CAUSE, cause), (R.RST_LAST_SCOPE, scope), (R.RST_SEQ_SEQ, seq)]

/-- The record of a SYSTEM or WARM reset, at its assertion. -/
def State.noteReset (s : State) (scope cause detail : Nat) : State :=
  s.putRecord scope cause detail s.rtcSecs s.ptp.ns s.resetFlags

/-! ## What a reset leaves (R457, R458, R477, R478) -/

/-- What Anchor keeps of its key store and OTP. -/
def AnchorS.kept (a : AnchorS) : AnchorS :=
  { slots := a.slots, lifecycle := a.lifecycle, img0Revoked := a.img0Revoked, level := a.level, serial := a.serial,
    table := a.table, owed := a.owed }

/-- The backup-domain registers, by key: AON_BKSTAT, AON_BO_SEC, the RTC, and the tamper latch. -/
def isBackup (key : Nat) : Bool :=
  [0x4040, 0x4048, 0x5040, 0x5044, 0x5048, 0x504C, 0x5050, 0x506C, 0x5070, 0x5074, 0x50C0, 0x4005C, 0x40060].contains key ||
    (0x5080 ≤ key && key < 0x50C0)

/-- The module from its reset values, with the registers that `keep` tells, retained SRAM `ret`, the reset controller
`rst`, and what no scope touches: clocks, supplies and levels at the pins, MRAM, NOR and OTP, the backup domain. -/
def State.fresh (s : State) (keep : Nat → Bool) (ret : Bytes) (rst : RstS) : State :=
  let pins : Pins :=
    { v3p3 := s.pins.v3p3, v1p8 := s.pins.v1p8, absA := s.pins.absA, absB := s.pins.absB, losA := s.pins.losA,
      losB := s.pins.losB, txfltA := s.pins.txfltA, txfltB := s.pins.txfltB, vioMv := s.pins.vioMv
      vioTie := s.pins.vioTie, vioBack := s.pins.vioBack, partnerLeadLow := s.pins.partnerLeadLow, pmbAlert := s.pins.pmbAlert, gpio := s.pins.gpio,
      resetLow := s.pins.resetLow }
  let mem : Mems := { ret := ret, mram := s.mem.mram, mramBad := s.mem.mramBad, nor := s.mem.nor, bk := s.mem.bk }
  let t : State :=
    { variant := s.variant, free := s.free, out := s.out, pending := s.pending, clk := s.clk, rtc := s.rtc,
      airtime := s.airtime, anchor := s.anchor.kept, upd := { baseReq := s.upd.baseReq }, mem := mem, pins := pins,
      rst := rst, regs := s.regs.filter fun (e : Nat × Word) => keep e.1 }
  t.setFlds [(R.STORE_STATUS_SPARES_LEFT, t.variant.spares), (R.ANCHOR_STATUS_LIFECYCLE, t.anchor.lifecycle),
    (R.ANCHOR_STATUS_TAMPER_LEVEL, t.anchor.level)]

/-- The region that the strap sets applies from the release (R372). -/
def State.strapRegion (s : State) : State :=
  let g := s.fld R.SYS_STRAP_REGION
  s.setFld R.SYS_RADIO_ACTIVE (if s.variant ≠ .v16N && (g = 1 || g = 2) then g else 0)

/-- COLD is asserted: the backup domain alone keeps what it holds; its record waits for the release. -/
def State.assertCold (s : State) (cause : Nat) : State :=
  let t := s.fresh isBackup [] { phase := .cold, cause := (cause, 0) }
  ({ t with rtc := { t.rtc with setTo := none, dst := none } }).setFlds
    [(R.AON_BKSTAT_VBAT_LOW, 0), (R.RTC_DST_PENDING, 0), (R.RTC_DST_OUT_OF_RANGE, 0)]

/-- What a SYSTEM reset keeps: the AON and RTC pages, SYS_STRAP, the tamper latch, the record just shown and
RST_CNT_SYSTEM. -/
def keptBySystem (key : Nat) : Bool :=
  key / 0x1000 = pAON || key / 0x1000 = pRTC || key = 0x0048 || isBackup key || key = 0x1040 || key = 0x1044 || key = 0x1070

/-- SYSTEM is asserted: the module returns to RUN, with the supplies that DORMANT switched off (R55, R462). -/
def State.assertSystem (s : State) (cause detail : Nat) : State :=
  let t := (s.noteReset 2 cause detail).setSupplies true true
  ((t.fresh keptBySystem t.mem.ret { phase := .system }).inc R.RST_CNT_SYSTEM_N).strapRegion

/-- Registers of a page return to their reset values, and its fences go. -/
def State.wipePage (s : State) (p : Nat) : State :=
  let t := s.clearPage p
  { t with fences := t.fences.filter fun f => f.page ≠ p
           returning := t.returning.filter fun f => f.1 ≠ p }

/-- A control-plane page is reset: its registers and the function behind it (R457, R458). -/
def State.resetControl (s : State) (p : Nat) : State :=
  let w := s.wipePage p
  if p = pCAIRN then { w with cairn := { bankLost := s.cairn.bankLost } }
  else if p = pSCHED then
    { w with sched := {}, harts := w.harts.map fun (x : HartS) =>
        { x with push := List.replicate 8 0, pushStat := none, cur := List.replicate 7 0, slots := [] } }
  else if p = pIRQ then
    { w with router := {}, posts := [], harts := w.harts.map fun (x : HartS) => { x with thresh := 8 } }
  else if p = pSIDE then w.setSide { t0 := s.now }
  else if p = pANCHOR then
    let t := { w with anchor := s.anchor.kept, side := { w.side with keys := [none, none, none, none] } }
    (t.setReg pANCHOR 0x05C (s.reg pANCHOR 0x05C)).setReg pANCHOR 0x060 (s.reg pANCHOR 0x060) |>.setFlds
      [(R.SIDE_KEYSTAT_LOADED, 0), (R.ANCHOR_STATUS_LIFECYCLE, s.anchor.lifecycle), (R.ANCHOR_STATUS_TAMPER_LEVEL, s.anchor.level)]
  else if p = pUPD then
    ((s.updBreak.closeTransfer).wipePage p).setFlds
      [(R.UPD_STATE_BOOTED, s.fld R.UPD_STATE_BOOTED), (R.UPD_STATE_REASON, s.fld R.UPD_STATE_REASON)]
  else if p = pFLASH then s.flashBreak.wipePage p
  else if p = pHOSTSPI then { w with hspi := {}, pins := { w.pins with hspiIrqLow := false } }
  else if p = pUART then { w with uart := {} }
  else w

/-- A bank whose tables a BLOCK reset of PIPE takes; what GOV holds of it stays (R196, R458). -/
def Bank.lose (b : Bank) : Bank := { b with lost := true, lut := [], dir := [], areas := [] }

/-- A display-plane page is reset, without its generation-borne fields (R452, R455, R457). METER_AC and METER_DC close the
window first, and keep the section in force, which may be one that MRAM gave (R275, R287, R292). BELAY keeps the lead role
(R458). -/
def State.resetDisplay (s : State) (p : Nat) : State :=
  if p = pNET .a then { s.wipePage p with netA := {} }
  else if p = pNET .b then { s.wipePage p with netB := {} }
  else if p = pPTP then { s.wipePage p with ptp := {}, pins := { s.pins with pps := false, ppsHeld := true } }
  else if p = pINGEST then { s.wipePage p with ingest := { closed := s.ingest.closed } }
  else if p = pPIPE then
    let t := s.wipePage p
    { t with commit := { t.commit with burst := none, bank := t.commit.bank.map (·.lose)
                                       readyBank := t.commit.readyBank.map (·.lose) } }
  else if p = pGOV then { s.wipePage p with gov := {} }
  else if pSTR 0 ≤ p && p ≤ pSTR 3 then
    let g := p - pSTR 0
    let t := s.releaseGroup g
    let fresh := ((List.range 48).zip t.strands).map fun (e : Nat × StrandS) => if e.1 / 12 = g then {} else e.2
    { t with strands := fresh }.wipePage p
  else if p = pRAIL then s.railsOff.wipePage p
  else if p = pMETERAC || p = pMETERDC then
    let t := if s.meter.running then s.closeWithSave else s
    (t.wipePage p).loadRange p 0x40 (t.pageBytes p 0x40 (if p = pMETERAC then 64 else 160))
  else if p = pTELEM then { s.releasePop.wipePage p with telem := {} }
  else if p = pBELAY then
    { (s.wipePage p).setFld R.BELAY_STATUS_LEAD (s.fld R.BELAY_STATUS_LEAD) with
      belay := {}, pins := { s.pins with blTx := false } }
  else s.wipePage p

/-- Pages that a BLOCK request does not reset (R454). -/
def blockIgnored : List Nat := [pSYS, pRST, pPWR, pCLK, pAON, pRTC, pWDT, pSTORE, pCOMMIT, pPARTY]

/-! ## WARM (R451) -/

/-- WARM is asserted: harts, control-plane pages and Anchor are held, and an entry to a power state is abandoned. The
cairn's flush of a PF_WARN goes with it; the meter save that waits for it is made now. -/
def State.assertWarm (s : State) (cause detail : Nat) : State :=
  let a := (s.abandonEntry.noteReset 3 cause detail).inc R.RST_CNT_WARM_N
  let b := controlPages.foldl State.resetControl a.telemWarm
  let c := if b.rst.pfFlush then { b with rst := { b.rst with pfFlush := false } }.pfSave else b
  { c with
    harts := List.replicate 8 {}
    reservations := []
    lcp := { leases := c.lcp.leases }
    upd := { c.upd with bootFlow := false, booting := none, actDue := false }
    rst := { c.rst with phase := .warm, cpDown := true
                        down := controlPages ++ c.rst.down.filter fun p => !controlPages.contains p
                        expired := c.rst.expired.filter fun p => !controlPages.contains p
                        block := c.rst.block.filter fun b => !controlPages.contains b.1 } }

/-! ## Sources and ranks (R442–R445) -/

/-- The rank of the reset that runs: 3 COLD, 2 SYSTEM or one that waits for its save, 1 WARM, 0 none. -/
def State.resetRank (s : State) : Nat := match s.rst.phase with
  | .cold => 3
  | .system => 2
  | .warm => if s.rst.waiting.isSome then 2 else 1
  | .none => if s.rst.waiting.isSome then 2 else 0

/-- A reset of equal or lower rank is absorbed (R445). -/
def State.absorbReset (s : State) : State := (s.inc R.RST_CNT_ABSORBED_N).irq pRST 3

/-- A SYSTEM reset that asserts at once: pin, watchdog, tamper. One that waits for its save gives way to it. -/
def State.systemNow (s : State) (cause detail : Nat) : State :=
  if s.rst.phase = .cold || s.rst.phase = .system then s.absorbReset else s.assertSystem cause detail

/-- A PF save runs, or the flush it waits for. -/
def State.pfRuns (s : State) : Bool := s.rst.pfFlush || (match s.meter.save with
  | some run => run.reason = reasonPfWarn || run.reason = reasonPfRepeat
  | none => false)

/-- A SYSTEM reset from RST_REQ or SYSRESET: the meter save comes first (R285, R444). While PF_WARN is active it waits for
the PF_WARN save instead, which has been made where its repeats have ended. -/
def State.systemSaved (s : State) (cause detail : Nat) : State :=
  if 2 ≤ s.resetRank then s.absorbReset
  else if !s.meter.running then s.assertSystem cause detail
  else if s.rst.pfWarn then
    if s.pfRuns then s.setRst { s.rst with waiting := some (cause, detail) } else s.assertSystem cause detail
  else
    let t := s.saveDue reasonReset
    t.setRst { t.rst with waiting := some (cause, detail) }

/-- A WARM reset. -/
def State.warmNow (s : State) (cause detail : Nat) : State :=
  if 1 ≤ s.resetRank then s.absorbReset else s.assertWarm cause detail

/-- The save that a waiting SYSTEM reset waits for is still to end. -/
def State.resetSaveDue (s : State) : Bool :=
  s.pfRuns || s.meter.waiting.contains reasonReset || (match s.meter.save with
    | some run => run.reason = reasonReset
    | none => false)

/-- METER_SAVE_DONE: the save completes; a SYSTEM reset that waits for a RESET or PF_WARN save is asserted (R281, R444). -/
def execMeterSaveDone (ok : Bool) (s : State) : Res :=
  let s := s.begin
  match s.meter.save with
  | none => .next s
  | some run =>
    let evidence := run.reason = reasonReset || run.reason = reasonPfWarn || run.reason = reasonPfRepeat
    let t := s.saveDone ok
    let u := t.setRst { t.rst with saved := ok && evidence }
    match u.rst.waiting with
    | some (cause, detail) => .next (if evidence || !u.resetSaveDue then u.assertSystem cause detail else u)
    | none => .next u

/-- An armed write of RST_REQ (R443). -/
def State.resetReq (s : State) (v : Word) : Res :=
  let w := v.toNat
  let scope := bits w 29 28
  let source := bits w 23 16
  let t := if v.getLsbD 30 then s.setFlds [(R.RST_REQ_STAT_PENDING, 0)] else s
  if !v.getLsbD 31 || scope = 0 || scope = 3 then .next t
  else if (scope = 1 && !([0x12, 0x13, 0x16].contains source)) || (scope = 2 && !([0x20, 0x21].contains source)) then
    .fault (.unpredictable 443)
  else
    .next ((t.setRst { t.rst with reqSource := source, reqDetail := bits w 7 0, reqNs := 0 }).setFlds
      [(R.RST_REQ_STAT_PENDING, 1), (R.RST_REQ_STAT_SCOPE, scope), (R.RST_REQ_STAT_REMAIN_MS, bits w 15 8)])

/-- RESET_REQUEST. -/
def execResetRequest (m : Master) (v : Word) (s : State) : Res := s.begin.asArmed m pRST rightReset fun t => t.resetReq v

/-- RESET_REQUEST_CANCEL. -/
def execResetRequestCancel (m : Master) (v : Word) (s : State) : Res :=
  s.begin.asArmed m pRST rightReset fun t => t.resetReq v

/-- RESET_REQUEST_DELAY_EXPIRY (R443). -/
def execResetRequestDelayExpiry (s : State) : Res :=
  let s := s.begin
  if !s.flag R.RST_REQ_STAT_PENDING then .next s
  else
    let t := s.setFlds [(R.RST_REQ_STAT_PENDING, 0), (R.RST_REQ_STAT_REMAIN_MS, 0)]
    .next (if t.fld R.RST_REQ_STAT_SCOPE = 1 then t.systemSaved t.rst.reqSource t.rst.reqDetail
           else t.warmNow t.rst.reqSource t.rst.reqDetail)

/-! ## RESET_N and RST_OUT_N (R446, R447) -/

/-- RESET_PIN_LOW: sampled while the module does not drive the pin, in every state but OFF. Held low after the drive of a
reset, it holds that reset and starts no other. -/
def execResetPinLow (s : State) : Res :=
  let s := s.begin
  if s.pins.resetDriven || s.power = pwrOff then .next s
  else
    let t := { s with pins := { s.pins with resetLow := true } }
    .next (if s.rst.phase = .cold || s.rst.phase = .system then t else t.assertSystem 0x10 0)

/-- RESET_DRIVE_END: after 2 ms, and for COLD once the supplies are good. -/
def execResetDriveEnd (s : State) : Res :=
  let s := s.begin
  let due := s.rst.phase = .system || (s.rst.phase = .cold && s.pins.v3p3 && s.pins.v1p8)
  if due && s.pins.resetDriven then
    .next ({ s with pins := { s.pins with resetDriven := false } }.setRst { s.rst with driveEnded := true })
  else .next s

/-- The pin rises: the cabinet's drivers are released. -/
def State.raiseOut (s : State) : State :=
  { s with pins := { s.pins with rstOutHigh := true } }.setFld R.RST_OUT_PENDING 0

/-- RST_OUT_WRITE. -/
def execRstOutWrite (m : Master) (v : Word) (s : State) : Res :=
  s.begin.asWrite m pRST rightReset fun t =>
    let u := t.setFlag R.RST_OUT_RELEASE (v.getLsbD 0)
    if !v.getLsbD 0 then
      .next (({ u with pins := { u.pins with rstOutHigh := false } }.setRst { u.rst with outMinDone := false }).setFld
        R.RST_OUT_PENDING 0)
    else if u.pins.rstOutHigh then .next u
    else if u.rst.outMinDone then .next u.raiseOut
    else .next (u.setFld R.RST_OUT_PENDING 1)

/-- RST_OUT_MIN_EXPIRY. -/
def execRstOutMinExpiry (s : State) : Res :=
  let s := s.begin
  let t := s.setRst { s.rst with outMinDone := true }
  .next (if t.flag R.RST_OUT_PENDING then t.raiseOut else t)

/-! ## Release (R449–R451) -/

/-- What the release of a page starts beside its registers: Anchor, the cairn, the meter (R286, R398, R510). -/
def State.startPage (s : State) (p : Nat) : State :=
  if p = pANCHOR then s.anchorStart false
  else if p = pCAIRN then s.cairnStart
  else if p = pMETERACC then s.meterRestart !s.meter.running
  else if p = pPTP then { s with pins := { s.pins with ppsHeld := false } }
  else if p = pBELAY then { s with pins := { s.pins with blTx := true } }
  else s

/-- A page leaves its reset. -/
def State.releasePage (s : State) (p : Nat) : State :=
  let t := s.setRst { s.rst with
    down := s.rst.down.filter fun q => q ≠ p, lost := s.rst.lost.filter fun q => q ≠ p
    expired := s.rst.expired.filter fun q => q ≠ p }
  (t.setBit (R.RST_HELD_HELD (p / 32)) (p % 32) false).startPage p

/-- Harts leave reset with their memories cleared and their caches empty, hart 0 in the boot flow, the others in WFI (R329, R337,
R428). -/
def State.releaseHarts (s : State) (recOk : Bool) : State :=
  let hs := (List.range 8).map fun h => ({ held := false, wfi := h ≠ 0 } : HartS)
  { s with harts := hs
           codeWrites := []
           mem := { s.mem with sram := [], sramBad := [], tcm := [], tcmBad := [] }
           upd := { s.upd with bootFlow := true, booting := none } }.bootChoose recOk

/-- Every page but those of `late` leaves its reset, and the harts do (steps 2 to 4 of R450). -/
def State.releaseAll (s : State) (late : List Nat) (recOk : Bool) : State :=
  let go := s.rst.down.filter fun p => !late.contains p
  ((go.foldl State.releasePage (s.setClocks clocksRun)).releaseHarts recOk)

/-- A LOST found set at a COLD release (R481): the time that passed is unknown, so the airtime accounts keep all they
hold for one full window more (R392). -/
def State.foundLost (s : State) : State :=
  if s.flag R.AON_BKSTAT_LOST then
    { s with airtime := s.airtime.map fun (e : Nat × Nat × Nat) => (e.1, s.airSec, e.2.2) }.event pAON 0 noUnit 0
  else s

/-- RESET_RELEASE: RESET_N has read high for 100 µs after the end of the drive. COLD zeroes retained SRAM and writes its
record here, with the brownout's seconds where that was its cause (R450, R456). -/
def execResetRelease (late : List Nat) (recOk : Bool) (s : State) : Res :=
  let s := s.begin
  let good := s.rst.phase = .system || (s.rst.phase = .cold && s.pins.v3p3 && s.pins.v1p8)
  if good && s.rst.driveEnded then
    let cold := s.rst.phase = .cold
    let cause := s.rst.cause
    let t := ({ s with pins := { s.pins with resetLow := false } }).setRst { s.rst with phase := .none, driveEnded := false }
    let u := if cold then
        let secs := if cause.1 = 0x02 && t.rtcValid then t.fld R.AON_BO_SEC_SEC else t.rtcSecs
        (({ t with mem := { t.mem with ret := [] } }.putRecord 1 cause.1 cause.2 secs 0 (2 * b2n t.rtcValid)).strapRegion).foundLost
      else t
    .next (u.releaseAll late recOk)
  else .next s

/-- WARM_RESET_RELEASE; an activation that fell due in the reset is entered in the record before any hart runs (R438,
R451). -/
def execWarmResetRelease (recOk : Bool) (s : State) : Res :=
  let s := s.begin
  if s.rst.phase ≠ .warm then .next s
  else
    let t := s.setRst { s.rst with phase := .none }
    let t1 := { t with upd := { t.upd with actDue := false } }
    let u := if t.upd.actDue then
        t1.writeBoot recOk fun r =>
          let x := 1 - t.fld R.UPD_STATE_BOOTED % 2
          recPut (recPut (putState x recTrial r) 8 (leBytes 1 x)) 11 [0]
      else t1
    let go := controlPages.filter u.rst.down.contains
    let v := go.foldl State.releasePage u
    .next (({ v with anchor := { v.anchor with warmStart := true } }).releaseHarts recOk)

/-! ## BLOCK resets (R452–R454, R534) -/

/-- An operation of the page's block that its chapter names is in progress (R534). A PMBus transaction begins and ends
inside one command, so RAIL is never seen in one. -/
def State.pageBusy (s : State) (p : Nat) : Bool :=
  if p = pMETERACC then s.meter.save.isSome || s.meter.waiting ≠ []
  else if p = pUPD then s.upd.op ≠ 0
  else if p = pFLASH then s.flag R.FLASH_CTRL_GO
  else if p = pANCHOR then s.flag R.ANCHOR_STATUS_BUSY
  else if p = 0x4A || p = 0x4B then s.flag (R.I2C_CMD_GO (p - 0x4A))
  else if p = pSIDE || p = pSIDEPHY then
    s.side.ackDue.isSome || (match s.side.cur with
      | some x => x.awaiting
      | none => false)
  else false

/-- What a block does when asked to idle for its reset: it takes the safe state of its fence (R47, R452). -/
def State.idleBlock (s : State) (p : Nat) : State :=
  if pSTR 0 ≤ p && p ≤ pSTR 3 then s.releaseGroup (p - pSTR 0)
  else if p = pMETERACC && s.meter.running then s.saveDue reasonReset
  else s

/-- BLOCK_RESET_REQUEST. -/
def execBlockResetRequest (m : Master) (page : Nat) (s : State) : Res :=
  s.begin.asWrite m page (pageRight page) fun t =>
    if !pageAssigned page || t.pageAbsent page then .next t
    else
      let u := t.setFlds [(R.RST_BLK_LAST_VALID, 1), (R.RST_BLK_LAST_FORCED, 0), (R.RST_BLK_LAST_IGNORED, 0),
        (R.RST_BLK_LAST_PAGE, page), (R.RST_BLK_LAST_IDLE_US, 0)]
      if blockIgnored.contains page then .next (u.setFld R.RST_BLK_LAST_IGNORED 1)
      else if t.rst.down.contains page then .next t.absorbReset
      else
        let v := (u.setFld (R.PG_CTRL_BRST_REQ page) 1).idleBlock page
        .next (v.setRst { v.rst with block := v.rst.block ++ [(page, 0, false)], down := v.rst.down ++ [page] })

/-- A BLOCK reset of SCHED keeps its configuration: SCHED_COREh_CFG and QM, SCHED_Qq_CFG and TIME (R353). -/
def State.keepSched (s before : State) : State :=
  let cfg := before.regs.filter fun (e : Nat × Word) => 0x8180 ≤ e.1 && e.1 < 0x8400
  cfg.foldl (fun (t : State) (e : Nat × Word) => t.setReg pSCHED (e.1 % 0x1000) e.2) s

/-- The reset of a page is asserted: registers at their reset values, BRST_REQ reading 1. -/
def State.assertBlock (s : State) (page : Nat) (forced : Bool) : State :=
  let t := if displayPages.contains page then s.resetDisplay page
    else if page = pSCHED then (s.resetControl page).keepSched s
    else s.resetControl page
  let rest := t.rst.block.filter fun b => b.1 ≠ page
  (t.setRst { t.rst with block := rest ++ [(page, 1, forced)]
                         expired := t.rst.expired.filter fun p => p ≠ page }).setFld (R.PG_CTRL_BRST_REQ page) 1

/-- BLOCK_IDLE_REACHED. -/
def execBlockIdleReached (page us : Nat) (s : State) : Res :=
  let s := s.begin
  if s.rst.block.contains (page, 0, false) && !s.pageBusy page then
    .next ((s.setFld R.RST_BLK_LAST_IDLE_US (min us 65535)).assertBlock page false)
  else .next s

/-- BLOCK_RESET_TIMEOUT. -/
def execBlockResetTimeout (page : Nat) (s : State) : Res :=
  let s := s.begin
  if s.rst.block.contains (page, 0, false) then
    let t := ((s.setFlds [(R.RST_BLK_LAST_FORCED, 1),
      (R.RST_BLK_LAST_IDLE_US, min (1000 * s.fld R.RST_BLK_CFG_TIMEOUT_MS) 65535)]).inc R.RST_CNT_FORCED_N).irq pRST 1
    .next (t.assertBlock page true)
  else .next s

/-- Both banks of the pipeline loaded again, and the fields of a pipeline page or of GOV taken from the one in force. -/
def State.reloadBanks (s : State) (k p : Nat) : State :=
  let t := s.loadBank k
  let u := { t with commit := { t.commit with bank := t.commit.readyBank, readyBank := s.commit.readyBank } }
  let v := match s.readySlot with
    | some r => if p = pPIPE then u.loadBank r else u
    | none => u
  let w := match v.commit.bank with
    | some b => v.takeBank b
    | none => v
  if p = pGOV then w.takeGovPart (s.slot k).party else w

/-- The fields of a page of the strands, rails, metering or belay, or of SCREE, loaded again from section `a`. -/
def State.reloadSection (s : State) (a p : Nat) : State :=
  if p = pSCREE then (s.takeSection a pSCREE fun u b => u.loadWords b [(0, R.SCREE_BASE)]).deriveScree
  else if pSTR 0 ≤ p && p ≤ pSTR 3 then s.takeSection a p fun u b => u.loadRange p 0x40 b
  else if p = pPRESENT then s.takeSection a pPRESENT fun u b => u.loadRange pPRESENT 0x80 b
  else if p = pRAIL then (s.takeRailSection a).railsReturn
  else if p = pMETERAC || p = pMETERDC then s.takeSection a p fun u b => u.loadRange p 0x40 b
  else if p = pBELAY then s.takeSection a pBELAY fun u b => u.loadWords b [(0, R.BELAY_CFG)]
  else s

/-- The generation-borne fields of a display-plane page are loaded again from the generation in force (R452). -/
def State.reloadPage (s : State) (p : Nat) : State := match s.commit.cur with
  | none => s
  | some k =>
    let a := (s.slot k).addr
    if p = pNET .a then s.takeNet a .a
    else if p = pNET .b then s.takeNet a .b
    else if p = pPTP then s.takePtp (s.slot k).party
    else if p = pINGEST then
      let t := s.takeSection a pINGEST fun u b => u.loadRange pINGEST 0x40 b
      { t with ingest := { t.ingest with cur := (s.slot k).ingest } }
    else if p = pARB then s.takeSection a pARB fun u b => u.loadWords b [(0, R.ARB_CFG)]
    else if p = pPIPE || p = pCAL || p = pDITH || p = pGOV then s.reloadBanks k p
    else s.reloadSection a p

/-- What a BLOCK release does beyond a release: a port starts at step 2 of R107, and SIDE's keys are pushed (R409,
R454, R458). -/
def State.blockStart (s : State) (p : Nat) : State :=
  if p = pNET .a then s.startAcquire .a
  else if p = pNET .b then s.startAcquire .b
  else if p = pMETERAC || p = pMETERDC then s.meterFrontReset p
  else if p = pSIDE then
    [5, 6, 7, 8].foldl (fun (t : State) n =>
      if t.slotFull n && bitSet (t.keySlot n).attr 1 then t.pushSlot n else t) s
  else s

/-- The release of a BLOCK reset (steps 4 and 5 of R452). -/
def State.blockRelease (s : State) (page : Nat) : State :=
  match s.rst.block.find? fun b => b.1 = page && b.2.1 = 1 with
  | none => s
  | some (_, _, forced) =>
    let t := s.setRst { s.rst with block := s.rst.block.filter fun b => b.1 ≠ page }
    let u := ((t.setFld (R.PG_CTRL_BRST_REQ page) 0).releasePage page).reloadPage page |>.blockStart page
    let v := (u.inc R.RST_CNT_BLOCK_N).irq pRST 0
    if forced then v.fenceBlock page causeIdleTimeout else v

/-- BLOCK_RESET_RELEASE; a request that ended without the page's clock waits to be repeated (R449). -/
def execBlockResetRelease (page : Nat) (s : State) : Res :=
  let s := s.begin
  .next (if s.rst.expired.contains page then s else s.blockRelease page)

/-! ## Clocks (R449, R462) -/

/-- CLOCK_READY: sources are shown ready; pages that wait for a clock leave their reset, and pages whose clock stopped
have it again. A page whose request has ended without its clock waits until the request is repeated (R449). -/
def execClockReady (sources pages : List Nat) (s : State) : Res :=
  let s := s.begin
  let s := s.setRst { s.rst with lost := s.rst.lost.filter fun p => !pages.contains p }
  let t := (sources.filter fun k => decide (k < 9)).foldl (fun (u : State) k =>
    (u.setBit R.CLK_STAT_RUN k true).setBit R.CLK_STAT_READY k true) s
  if t.rst.phase ≠ .none then .next t
  else .next (pages.foldl (fun (u : State) p =>
    if !u.rst.down.contains p || u.rst.expired.contains p then u
    else if u.rst.block.any fun b => b.1 = p then u.blockRelease p
    else u.releasePage p) t)

/-- CLOCK_TIMEOUT: a late source is shown; the pages it leaves in reset are held and fenced. -/
def execClockTimeout (source : Option Nat) (pages : List Nat) (s : State) : Res :=
  let s := s.begin
  let t := match source with
    | some k => if k < 9 then (s.setBit R.CLK_FAIL_TIMEOUT k true).irq pCLK 0 else s
    | none => s
  let held := pages.filter t.rst.down.contains
  let t := t.setRst { t.rst with expired := held ++ t.rst.expired.filter fun p => !held.contains p }
  let u := held.foldl (fun (v : State) p =>
    (v.setBit (R.RST_HELD_HELD (p / 32)) (p % 32) true).fenceBlock p causeClkTimeout) t
  .next (if held = [] then u else u.irq pRST 2)

/-- CLOCK_LOSS. -/
def execClockLoss (source : Nat) (pages : List Nat) (s : State) : Res :=
  let s := s.begin
  if !s.bit R.CLK_STAT_READY source || 8 < source then .next s
  else
    let t := (((s.setBit R.CLK_FAIL_LOSS source true).setBit R.CLK_STAT_READY source false).inc R.CLK_CNT_LOSS_N).irq pCLK 1
    let u := t.setRst { t.rst with lost := t.rst.lost ++ pages.filter fun p => pageAssigned p && !t.rst.lost.contains p }
    .next ((pages.filter pageAssigned).foldl (fun (u : State) p => u.fenceBlock p causeClkTimeout) u)

/-! ## The supply (R58–R60, R442) -/

/-- The strap's ADC result: the mean of the two middle samples, rounded down (R70). -/
def strapAdc (samples : List Nat) : Nat :=
  let sorted := sortUp id (samples.map fun v => min 255 v)
  (sorted.getD 7 0 + sorted.getD 8 0) / 2

/-- POWER_ON: the supplies come up under the COLD reset, and the strap is decoded. A rise of VIN in OFF is a POR. -/
def execPowerOn (samples : List Nat) (s : State) : Res :=
  let s := s.begin
  let t := if s.power = pwrOff && s.rst.phase = .none then s.assertCold 0x01 else s
  if t.rst.phase ≠ .cold || t.pins.v3p3 then .next s
  else
    let adc := strapAdc samples
    let code := 15 - adc / 16
    .next ((t.setSupplies true true).setFlds
      [(R.SYS_STRAP_ADC, adc), (R.SYS_STRAP_WINDOW, adc / 16), (R.SYS_STRAP_REGION, code / 4),
       (R.SYS_STRAP_POSITION, code / 2), (R.SYS_STRAP_RECOVERY, code)])

/-- PF_WARN_RAISED: in RUN, REST and BIVOUAC (R467). A freeze of the cairn ends (R508) and its interval does (R501). A
flush or a PF save that runs already is not started again (R60); repeats follow it while PF_WARN is active. -/
def execPfWarnRaised (s : State) : Res :=
  let s := s.begin
  if pwrBivouac < s.power || s.rst.phase = .cold || s.rst.phase = .system then .next s
  else
    let t := s.abandonEntry
    let runs := t.pfRuns
    let u := if runs then t else t.abandonSave
    let v := (u.setRst { u.rst with pfWarn := true }).unfreeze
    let w := v.intervalEnd v.rtcSecs true
    if runs then .next { w with meter := { w.meter with pfRepeat := w.meter.save.isSome } }
    else if w.cairn.up then .next ((w.setRst { w.rst with pfFlush := true }).urgentFlush)
    else .next w.pfSave

/-- PF_WARN_RELEASED: PF_REPEAT saves stop; what has started completes. -/
def execPfWarnReleased (s : State) : Res :=
  let s := s.begin
  .next { s with rst := { s.rst with pfWarn := false }, meter := { s.meter with pfRepeat := false } }

/-- BROWNOUT: the supplies go and a COLD reset is asserted; the backup domain latches its seconds. In OFF VIN is lost
without a brownout (R467). In a COLD reset the outputs return to their states of R52, RESET_N driven low (R59). -/
def execBrownout (s : State) : Res :=
  let s := s.begin
  if s.power = pwrOff && s.rst.phase = .none then .next s
  else
    let t := s.latchBrownout.setSupplies false false
    if s.rst.phase = .cold then
      let u := { t with pins := { t.pins with resetDriven := true }, rst := { t.rst with driveEnded := false } }
      .next u.absorbReset
    else .next (t.assertCold 0x02)

/-! ## Starts of Anchor and tamper (R398, R421) -/

/-- A tamper response at the level in force: keys and sessions go, and from level 1 the module resets. -/
def State.tamperResponse (s : State) : State :=
  let t := s.tamperDestroys
  if 1 ≤ s.anchor.level then t.systemNow 0x15 (t.fld R.ANCHOR_TAMPER_STAT_SOURCE) else t

/-- ANCHOR_READY: the tests of a start end, the key store opens, a response that is owed is carried out, READY is set and
the pushes run. -/
def execAnchorReady (entropy selftest header : Bool) (damaged : List Nat) (s : State) : Res :=
  let s := s.begin
  if s.flag R.ANCHOR_STATUS_READY || s.rst.down.contains pANCHOR then .next s
  else
    let t := s.anchorTests entropy selftest header damaged
    if t.anchor.owed then
      let u := (t.setAnchor { t.anchor with owed := false }).irq pANCHOR 1
      let v := u.record pANCHOR 1 noUnit (u.fld R.ANCHOR_TAMPER_STAT_SOURCE)
      if 1 ≤ v.anchor.level then .next v.tamperResponse
      else .next ((v.setFld R.ANCHOR_STATUS_READY 1).autoPush)
    else .next ((t.setFld R.ANCHOR_STATUS_READY 1).autoPush)

/-- TAMPER_EVENT: the backup domain latches it, with the seconds of the first; the response follows at once, or at the
next start where the die was unpowered. -/
def execTamperEvent (source : Nat) (unpowered : Bool) (s : State) : Res :=
  let s := s.begin
  let latched := s.flag R.ANCHOR_TAMPER_STAT_LATCHED
  let t := if latched then s else s.setFld R.ANCHOR_TAMPER_TIME_SEC s.rtcSecs
  let u := (t.setBit R.ANCHOR_TAMPER_STAT_SOURCE (source % 4) true).setFlds
    [(R.ANCHOR_TAMPER_STAT_LATCHED, 1), (R.ANCHOR_TAMPER_STAT_UNPOWERED, b2n (unpowered || s.flag R.ANCHOR_TAMPER_STAT_UNPOWERED))]
  let v := u.satInc R.ANCHOR_TAMPER_STAT_COUNT
  if unpowered then .next (v.setAnchor { v.anchor with owed := true })
  else .next ((v.event pANCHOR 1 noUnit (v.fld R.ANCHOR_TAMPER_STAT_SOURCE)).tamperResponse)

/-! ## Health and activation (R433, R438) -/

/-- UPD_HEALTH_EXPIRY. -/
def execUpdHealthExpiry (s : State) : Res :=
  let s := s.begin
  if s.flag R.UPD_HEALTH_RUN && !s.inBivouac then
    .next ((s.setFlds [(R.UPD_HEALTH_RUN, 0), (R.UPD_HEALTH_REMAIN_S, 0)]).warmNow 0x23 0)
  else .next s

/-- The conditions of R438 at P(ACT_FRAME): the target slot is VALID, holds the armed version, and the module runs. -/
def State.mayActivate (s : State) : Bool := match s.targetSlot with
  | none => false
  | some x =>
    s.power ≤ pwrRest && s.recState x = recValidSlot &&
      (let v := s.recVersion x
       beNat [v.getD 1 0, v.getD 0 0, v.getD 3 0, v.getD 2 0, v.getD 5 0, v.getD 4 0] =
         s.wide R.PARTY_ACT_VER_LO_MINOR_PATCH R.PARTY_ACT_VER_HI_MAJOR)

/-- Frame time reaches P of a frame (assumption log, entry 6). -/
def State.reachFrame (s : State) (frame : Nat) : State := match s.timing with
  | some t => s.atTime (t.p frame)
  | none => s

/-- An activation that falls due in a WARM reset waits for its release. -/
def State.oweActivation (s : State) : State := { s with upd := { s.upd with actDue := true } }

/-- ACTIVATION_DUE: frame time reaches P(ACT_FRAME), or a step passes it. The latch is disarmed in every case. -/
def execActivationDue (recOk : Bool) (s : State) : Res :=
  let s0 := s.begin
  if !s0.flag R.PARTY_ACT_STAT_ARMED || !s0.gridRuns then .next s0
  else
    let frame := s0.wide R.PARTY_ACT_LO_N_LO R.PARTY_ACT_HI_N_HI
    let t := (s0.reachFrame frame).disarmActivation
    if !t.mayActivate then .next ((t.inc R.UPD_CNT_ACT_MISSED_N).irq pUPD 3)
    else if t.rst.phase = .warm then .next t.oweActivation
    else
      let x := t.targetSlot.getD 0
      let u := t.writeBoot recOk fun r => recPut (recPut (putState x recTrial r) 8 (leBytes 1 x)) 11 [0]
      .next (u.warmNow 0x22 0)

/-! ## Watchdogs (R355, R356) -/

/-- WDT_SYS_KICK: the second write of the sequence reloads the watchdog. -/
def execWdtSysKick (m : Master) (v : Word) (s : State) : Res :=
  let first := s.wdt.armed
  s.begin.asWrite m pWDT rightSecure fun t =>
    if v = 0xA5F0#32 then .next { t with wdt := { t.wdt with armed := true } }
    else if v = 0x5A0F#32 && first then
      .next ((t.setFld R.WDT_SYS_STAT_WARNED 0).wdtLeft (t.fld R.WDT_SYS_CFG_TIMEOUT_MS))
    else .next t

/-- The system watchdog counts: enabled, outside BIVOUAC, DORMANT, OFF and a COLD or SYSTEM reset. -/
def State.wdtRuns (s : State) : Bool :=
  s.flag R.WDT_SYS_CFG_EN && s.power ≤ pwrRest && s.rst.phase ≠ .cold && s.rst.phase ≠ .system

/-- WDT_SYS_HALF. -/
def execWdtSysHalf (s : State) : Res :=
  let s := s.begin
  if s.wdtRuns then
    .next (((s.setFld R.WDT_SYS_STAT_WARNED 1).wdtLeft (s.fld R.WDT_SYS_CFG_TIMEOUT_MS / 2)).irq pWDT 0)
  else .next s

/-- WDT_SYS_EXPIRY. -/
def execWdtSysExpiry (s : State) : Res :=
  let s := s.begin
  if s.wdtRuns then .next ((s.wdtLeft 0).systemNow 0x11 0) else .next s

/-- WDT_CORE_KICK: the key of the hart that writes; other masters and values are ignored. -/
def execWdtCoreKick (m : Master) (v : Word) (s : State) : Res :=
  s.begin.asWrite m pWDT rightSecure fun t => match m with
    | .hart h _ =>
      if v.toNat = 0x4B00 + h && h < 8 then
        .next (t.setHart h { t.hart h with wdtExpired := false })
      else .next t
    | .lcp _ => .next t
    | .hspi _ => .next t
    | .block => .next t

/-- WDT_CORE_EXPIRY of hart h. -/
def execWdtCoreExpiry (h : Nat) (s : State) : Res :=
  let s := s.begin
  let asleep := s.inBivouac && !s.flag R.PWR_STATE_CP_AWAKE
  if 8 ≤ h || !s.bit R.WDT_CORE_CFG_EN h || asleep || pwrBivouac < s.power || s.rst.phase ≠ .none then .next s
  else if (s.hart h).wdtExpired && s.flag R.WDT_CORE_CFG_ACTION then .next (s.warmNow 0x24 h)
  else
    .next (((s.setBit R.WDT_CORE_STAT_EXPIRED h true).setHart h
      { s.hart h with wdtExpired := true }).irq pWDT 1)

end Sys2Proof.Machine
end

