-- ==== Sys2Proof/Machine/Wake.lean ====
section
/-! DEFINITION. The steps of an entry to BIVOUAC, DORMANT or OFF as commands, wake events, retention, and the four stages
of a return (R465, R466, R470–R478). -/
namespace Sys2Proof.Machine

/-! ## AP4 (R465, R468, R471, R478) -/

/-- What AP4 of an entry to DORMANT or OFF takes with it: side-link connections (R395), roles, the PTP servo, harts, and the supplies it switches off.
The listener keeps the discovery second (R471). Registers of the domains switched off return to their reset values at
the return (R477). -/
def State.goDeep (s : State) (t : Nat) : State :=
  let s := if t = pwrDormant then s.closeAll else s
  let disc := s.discTime
  let at0 := s.sideTime
  let s1 := (s.dropLead 0x11).setSide { s.side with adopted := if disc.2.2 = 0 then none else some (disc.1, disc.2.1, at0) }
  let hs := s1.harts.map fun (x : HartS) => { x with held := true, wfi := false, slots := [] }
  let pins := { s1.pins with pps := false, ppsHeld := true, blTx := false, hspiIrqLow := false }
  { s1 with harts := hs, pins := pins, reservations := [], ptp := {}
            meter := { s1.meter with running := false }
            cairn := { s1.cairn with up := false, flushing := false }
            lcp := {} }.setSupplies (t ≠ pwrOff) false |>.setFlds
    [(R.PTP_STATE_STATE, ptpFreerun), (R.PARTY_ACT_STAT_ARMED, 0), (R.UPD_HEALTH_RUN, 0), (R.PARTY_ROLE_ROLE, 0)]

/-- Step 10: AP4. -/
def State.ap4 (s : State) (t : Nat) : State :=
  let old := s.power
  let s1 := if t = pwrBivouac then s else s.goDeep t
  let s2 := (s1.pwrEnds 0).setFlds [(R.PWR_RESULT_AP, 4), (R.PWR_STATE_STATE, t), (R.PWR_STATE_CP_AWAKE, 0)]
  let s3 := (s2.setPwr { s2.pwr with listening := false }).inc R.PWR_CNT_ENTRY_N
  (if t = old then s3 else s3.setFld R.PWR_STATE_LAST old).irq pPWR 0

/-- POWER_ENTRY_STEP: the next step of R465 after AP1. -/
def execPowerEntryStep (s : State) : Res :=
  let s := s.begin
  match s.pwr.target with
  | none => .next s
  | some t =>
    if s.pwr.step < 2 || s.pwr.stage ≠ 0 then .next s
    else
      let k := s.nextStep
      .next (if k ≤ 9 then (s.setPwr { s.pwr with step := k }).entryStep t k else s.ap4 t)

/-! ## Retention (R475, R476) -/

/-- Bank b is lost: zeroed and shown; with bank 3 the staged records go. -/
def State.loseBank (s : State) (b : Nat) : State :=
  let t := (({ s with mem := { s.mem with ret := memClear s.mem.ret (2048 * b) 2048 } }.setBit
    R.AON_RETSTAT_LOST_BANK b true).irq pPWR 2).record pPWR 2 noUnit 0
  if b ≠ 3 then t
  else if t.cairn.up then (t.setFld R.CAIRN_STATUS_STAGE_LOST 1).cairnLoss
  else { t with cairn := { t.cairn with bankLost := true } }

/-- The check of every bank against PWR_RETSIG; `decayed` lists the banks that no longer hold what they held. -/
def State.retCheck (s : State) (decayed : List Nat) : State :=
  (List.range 4).foldl (fun (t : State) b =>
    if decayed.contains b || t.bankCrc b ≠ t.fld (R.PWR_RETSIG_CRC b) then t.loseBank b else t) s

/-! ## Wakes (R470, R472) -/

/-- A source wakes the module from a state (R472). -/
def wakesFrom (source state : Nat) : Bool :=
  if source = 0 || source = 6 then pwrBivouac ≤ state && state ≤ pwrOff
  else if source = 1 then state = pwrDormant
  else if source = 2 || source = 3 then state = pwrBivouac || state = pwrDormant
  else (source = 4 || source = 5) && state = pwrBivouac

/-- The state that a wake leaves, or that the entry in progress leads to. -/
def State.wakeState (s : State) : Nat := match s.pwr.target with
  | some t => if s.pwr.stage = 0 then t else s.power
  | none => s.power

/-- The control plane wakes in BIVOUAC: the retention check, the harts, and the frame the port holds (R470). -/
def State.wakeControl (s : State) (decayed : List Nat) : State :=
  let t := ((s.retCheck decayed).setFld R.PWR_STATE_CP_AWAKE 1).setClocks
    (clocksIn pwrBivouac true (s.fld R.PWR_CFG_BIV_PORT))
  match t.pwr.frame with
  | some (p, bytes) => (t.setPwr { t.pwr with frame := none }).ringWrite p bytes
  | none => t

/-- A source of R472 arises; tamper alone cannot be masked. -/
def State.wake (s : State) (source : Nat) (decayed : List Nat) : State :=
  if !wakesFrom source s.wakeState then s
  else
    let t := s.setBit R.PWR_WAKE_STAT_SEEN source true
    if source ≠ 6 && !t.bit R.PWR_WAKE_EN_EN source then t
    else if t.pwr.target.isSome && t.pwr.stage = 0 then t.abandonEntry
    else if t.pwr.stage ≠ 0 || t.pwr.resume then t
    else if t.inBivouac then
      if t.flag R.PWR_STATE_CP_AWAKE then t else (t.setFld R.PWR_WAKE_STAT_FIRST source).wakeControl decayed
    else (t.setFld R.PWR_WAKE_STAT_FIRST source).startReturn

/-- WAKE_EVENT. -/
def execWakeEvent (source : Nat) (decayed : List Nat) (s : State) : Res := .next (s.begin.wake source decayed)

/-! ## The DORMANT listener (R471) -/

/-- DORMANT_LISTEN_WINDOW. -/
def execDormantListenWindow (s : State) : Res :=
  let s := s.begin
  .next (if s.power = pwrDormant && s.fld R.PWR_DORM_RADIO_LISTEN_MS ≠ 0 then
    s.setPwr { s.pwr with listening := true } else s)

/-- A WAKE that reaches the listener: addressed to the module itself, under key slot 0 or 1, and past R379 and R380. -/
def State.wakeDormant (s : State) (f : SideFrame) : State :=
  if !s.listenerOn then s
  else if f.payload.length ≠ 0 || f.dst = 0xFFFF then s.sideRefuse f.src 2
  else match s.sideFilter f with
    | some code => s.sideRefuse f.src code
    | none =>
      let l := s.rxCounter f.src f.key
      if 2 ≤ f.key then s.sideRefuse f.src 4
      else if l < f.fc then ((s.sideAccept f).owesAck f).wake 1 []
      else if f.fc = l then (s.inc R.SIDE_CNT_DUP_N).owesAck f
      else s.sideRefuse f.src 6

/-- SIDE_WAKE_RECEIVE (R375, R471). -/
def execSideWakeReceive (f : SideFrame) (s : State) : Res :=
  let s := s.begin
  if s.power = pwrDormant then .next (s.wakeDormant f) else s.wakeFrame f

/-! ## The stages of a return (R473, R474) -/

/-- RETURN_REGULATOR_TIMEOUT. -/
def execReturnRegulatorTimeout (s : State) : Res :=
  let s := s.begin
  if s.pwr.stage = 1 && !s.pwr.retry then
    .next (((s.setPwr { s.pwr with retry := true }).fenceBlock pPWR 0x0100).irq pPWR 3)
  else .next s

/-- REGULATOR_STAGE_RETRY: 100 ms later. -/
def execRegulatorStageRetry (s : State) : Res :=
  let s := s.begin
  .next (if s.pwr.stage = 1 then s.setPwr { s.pwr with retry := false } else s)

/-- Pages whose registers DORMANT keeps (R477). -/
def keptInDormant (key : Nat) : Bool :=
  [pSYS, pRST, pPWR, pWDT, pAON, pRTC].contains (key / 0x1000) || isBackup key

/-- Registers that OFF keeps (R477), and those that tell of the wake and the return itself. -/
def keptInOff (key : Nat) : Bool :=
  isBackup key || [0x0048, 0x00E0, 0x2040, 0x2054, 0x2070, 0x2074].contains key

/-- The memory stage of a return from DORMANT or OFF: what these states do not keep is gone, and retained SRAM is
checked, or zeroed after OFF (R337, R476–R478). -/
def State.returnMemory (s : State) (decayed : List Nat) : State :=
  let dormant := s.power = pwrDormant
  let rst : RstS := { phase := .none, outMinDone := dormant && s.rst.outMinDone }
  let t := s.fresh (if dormant then keptInDormant else keptInOff) (if dormant then s.mem.ret else []) rst
  let u := { t with
    pins := { t.pins with resetDriven := false, rstOutHigh := dormant && s.pins.rstOutHigh }
    pwr := { stage := 3 }
    fences := if dormant then s.fences.filter fun f => keptInDormant (f.page * 0x1000) else []
    harts := if dormant then s.harts.map fun (x : HartS) => { wdtExpired := x.wdtExpired } else t.harts
    occQueue := if dormant then s.occQueue else []
    occDropped := if dormant then s.occDropped else 0 }
  if dormant then u.retCheck decayed else u

/-- The end of a return from DORMANT or OFF: every page and hart is released as in step 3 onward of R450, without a
reset record; after DORMANT the checkpoint is loaded and the watchdogs go on where they stood (R474, R478). -/
def State.wakeDone (s : State) (recOk : Bool) : State :=
  let old := s.power
  let t := (s.setPwr {}).setFlds [(R.PWR_STATE_STATE, pwrRun), (R.PWR_STATE_LAST, old)]
  let v := t.releaseAll [] recOk
  let hs := (v.harts.zip t.harts).map fun (p : HartS × HartS) => { p.1 with wdtExpired := p.2.wdtExpired }
  let u := ({ v with harts := hs }.wdtLeft (v.fld R.WDT_SYS_CFG_TIMEOUT_MS)).irq pPWR 0
  if old = pwrDormant && u.flag R.PWR_CFG_CKPT then u.ckptRestore else u

/-- The end of the logic stage of a return from BIVOUAC: PIPE's bank is loaded again, and RUN is entered at the next
frame boundary, or at once where no generation times one (R181, R474). -/
def State.displayBack (s : State) : State :=
  let t := (s.setPwr { s.pwr with stage := 0, resume := true }).reloadPage pPIPE
  match t.timing with
  | some x => { t with commit := { t.commit with tornTo := x.cur t.ptp.ns + 1 + x.lPresent } }
  | none => t.resumeRun 0 0

/-- RETURN_STAGE_DONE. -/
def execReturnStageDone (time : Nat) (decayed : List Nat) (recOk : Bool) (s : State) : Res :=
  let s := s.begin
  let n := min time 65535
  let deep := pwrBivouac < s.power
  if s.pwr.stage = 1 && !s.pwr.retry then
    let t := if deep then s.setSupplies true true else s
    .next ((t.setPwr { t.pwr with stage := 2 }).setFld R.PWR_STAGE_A_REG_US n)
  else if s.pwr.stage = 2 then
    let t := ((s.setPwr { s.pwr with stage := 3 }).setFld R.PWR_STAGE_A_OSC_US n).setClocks clocksRun
    .next (if deep then t
      else { t with storeCtl := { t.storeCtl with selfRefresh := false } }.setFld R.STORE_STATUS_WAKE_SCRUB 1)
  else if s.pwr.stage = 3 then
    if deep then .next (((s.returnMemory decayed).setFld R.PWR_STAGE_B_MEM_MS n).setPwr { stage := 4 })
    else if s.flag R.STORE_STATUS_WAKE_SCRUB && !s.storeCtl.unusable then .next s
    else .next ((s.setPwr { s.pwr with stage := 4 }).setFld R.PWR_STAGE_B_MEM_MS n)
  else if s.pwr.stage = 4 then
    let t := s.setFld R.PWR_STAGE_B_LOGIC_US n
    .next (if deep then t.wakeDone recOk else t.displayBack)
  else .next s

end Sys2Proof.Machine
end

