-- ==== Sys2Proof/Machine/View.lean ====
section
/-! DEFINITION. What a register reads as. Most registers read as they are stored; this file holds those that show
another part of the state (a clock, a FIFO, a selected entry, pins), the values that no rule fixes at an instant, the
latches of multi-word readings, and the read of one register word with its reserved bits (R8, R9). -/
namespace Sys2Proof.Machine

/-! ## Registers computed from the state -/

/-- The common header (R10–R12): PG_STATUS and PG_IRQ_STAT. READY of a released block is among the open bits. -/
def State.viewHeader (s : State) (page off stored : Nat) : Nat :=
  if off = 0x000 then (if s.pageAbsent page then 0 else (Config.pageId page).toNat)
  else if off = 0x008 then
    b2n (!s.rst.down.contains page && !s.rst.lost.contains page) * 8 + b2n (s.flag (R.PG_FENCE_ACTIVE page)) * 4 + b2n (!s.pageBusy page)
  else if off = 0x014 then Nat.land (s.fld (R.PG_IRQ_RAW page)) (s.fld (R.PG_IRQ_EN page))
  else stored

/-- PTP: whole seconds of holdover (R78), and frame time as seconds and nanoseconds (R74). -/
def State.viewPtp (s : State) (off stored : Nat) : Nat :=
  if off = 0x060 then satU 32 (s.ptp.holdNs / 1000000000)
  else if off = 0x068 then s.ptp.ns / 1000000000 % 2 ^ 32
  else if off = 0x06C then s.ptp.ns / 1000000000 / 2 ^ 32
  else if off = 0x070 then s.ptp.ns % 1000000000
  else stored

/-- PARTY: the lagging members of the word that PARTY_LAG_SEL selects. -/
def State.viewParty (s : State) (off stored : Nat) : Nat :=
  if off = 0x074 then
    let w := s.fld R.PARTY_LAG_SEL_WORD
    (List.range 32).foldl (fun (acc j : Nat) => acc + b2n (s.party.lagging.any fun l => l.1 = 32 * w + j) * 2 ^ j) 0
  else stored

/-- NETA and NETB: the MAC address of manufacture, and the levels at the cage's pins. -/
def State.viewNet (s : State) (p : Port) (off stored : Nat) : Nat :=
  if off = 0x048 then Config.macAddress p.ix % 2 ^ 32
  else if off = 0x04C then Config.macAddress p.ix / 2 ^ 32 % 2 ^ 16
  else if off = 0x050 then
    let levels := match p with
      | .a => b2n s.pins.txfltA * 4 + b2n s.pins.losA * 2 + b2n s.pins.absA
      | .b => b2n s.pins.txfltB * 4 + b2n s.pins.losB * 2 + b2n s.pins.absB
    insertBits (insertBits stored 10 8 levels) 15 12 (min (s.recentFaults p).length 15)
  else stored

/-- STORE_CAP of the variant. -/
def State.viewStore (s : State) (off stored : Nat) : Nat := if off = 0x040 then s.variant.storeCap else stored

/-- The figures of STRg that STRg_SEL selects, and STRg_STATUS with the supply's range and the ports that drive. -/
def State.viewStr (s : State) (g off stored : Nat) : Nat :=
  let x := s.strand (12 * g + s.fld (R.STR_SEL_STRAND g))
  if off = 0x104 then
    let driving := (List.range 12).foldl (fun (acc k : Nat) => acc + b2n (s.portDrives (12 * g + k)) * 2 ^ k) 0
    insertBits (insertBits stored 27 16 driving) 31 30 (vioRange (s.pins.vioMv.getD g 0))
  else if off = 0x110 then x.frames
  else if off = 0x114 then x.aborts
  else if off = 0x118 then x.retOk
  else if off = 0x11C then x.retNone
  else if off = 0x120 then x.retBad
  else if off = 0x124 then x.long
  else if off = 0x128 then x.drvErr
  else if off = 0x12C then x.lastCode * 2 ^ 24 + x.lastPos * 2 ^ 8 + x.lastStatus
  else stored

/-- BELAY_STATUS.LEAD_N shows the level of the land, which either module of the pair pulls low (R304). -/
def State.viewBelay (s : State) (off stored : Nat) : Nat :=
  if off = 0x044 then insertBits stored 2 2 (b2n (!s.pins.leadLow && !s.pins.partnerLeadLow)) else stored

/-- SCHED: the banked registers of the reading hart, 0 for a master that is no hart (R344, R347), and the histogram of
the selected queue (R350). -/
def State.viewSched (s : State) (m : Master) (off stored : Nat) : Nat :=
  if off = 0x120 then match m with
    | .hart h _ => match (s.hart h).pushStat with
      | some r => 2 ^ 31 + r
      | none => 0
    | _ => 0
  else if 0x144 ≤ off && off ≤ 0x15C then match m with
    | .hart h _ => (s.hart h).cur.getD ((off - 0x144) / 4) 0
    | _ => 0
  else if 0x5C0 ≤ off && off < 0x600 then mapGet 0 s.sched.hist (16 * s.fld R.SCHED_HIST_SEL_QUEUE + (off - 0x5C0) / 4)
  else if [0x600, 0x604, 0x610].contains off && !m.holds rightTrace then 0
  else stored

/-- IRQ: IRQ_MTIME, the reading hart's threshold, and the lines that are high (R338–R340). -/
def State.viewIrq (s : State) (m : Master) (off stored : Nat) : Nat :=
  if off = 0x060 then s.router.mtime % 2 ^ 32
  else if off = 0x064 then s.router.mtime / 2 ^ 32 % 2 ^ 32
  else if off = 0x108 then match m with
    | .hart h _ => (s.hart h).thresh
    | _ => 0
  else if 0x200 ≤ off && off < 0x228 then
    (List.range 32).foldl (fun (acc j : Nat) => acc + b2n (s.lineHigh (8 * (off - 0x200) + j)) * 2 ^ j) 0
  else stored

/-- UART_STAT: the levels of the FIFOs. -/
def State.viewUart (s : State) (off stored : Nat) : Nat :=
  if off = 0x048 then insertBits (insertBits stored 20 16 (16 - s.uart.tx.length)) 4 0 s.uart.rx.length else stored

/-- GPIO_IN: a pin the module drives shows what it drives. -/
def State.viewGpio (s : State) (off stored : Nat) : Nat :=
  if off = 0x048 then
    (List.range 16).foldl (fun (acc k : Nat) =>
      acc + b2n (if s.bit R.GPIO_OE_OE k then s.bit R.GPIO_OUT_OUT k else bitSet s.pins.gpio k) * 2 ^ k) 0
  else stored

/-- HOSTSPI_BELL_SET sets the bits that HOSTSPI_BELL shows. -/
def State.viewHostspi (s : State) (off stored : Nat) : Nat := if off = 0x044 then s.fld R.HOSTSPI_BELL_BELL else stored

/-- SIDEPHY: the airtime accounts (R390, R391), and a frame on the air. -/
def State.viewSidephy (s : State) (off stored : Nat) : Nat :=
  if 0x088 ≤ off && off ≤ 0x0D8 && off % 16 = 8 then s.bandUsed ((off - 0x088) / 16)
  else if off = 0x0F4 then s.dwellUsed (s.fld R.SIDEPHY_DWELL_SEL_CH)
  else stored

/-- SIDE_TIME (R388), and the source of the discovery second in SIDE_STATUS (R382). -/
def State.viewSide (s : State) (off stored : Nat) : Nat :=
  if off = 0x058 then
    let src := s.discTime.2.2
    stored % 2 ^ 29 + 2 ^ 29 * src + 2 ^ 31 * b2n (src ≠ 0)
  else if off = 0x060 then s.sideTime % 2 ^ 32
  else if off = 0x064 then s.sideTime / 2 ^ 32 % 2 ^ 32
  else stored

/-- ANCHOR: the UNIT_ID, and the slot that ANCHOR_SLOT_SEL selects. -/
def State.viewAnchor (s : State) (off stored : Nat) : Nat :=
  if 0x044 ≤ off && off ≤ 0x050 then Config.unitId / 2 ^ (8 * (off - 0x044)) % 2 ^ 32
  else if off = 0x058 then
    let n := s.fld R.ANCHOR_SLOT_SEL_SLOT
    let x := s.keySlot n
    (if n = slotHuk then Config.hukType % 16 else x.type) * 2 ^ 28 + x.origin * 2 ^ 26 + b2n x.damaged * 2 ^ 25 +
      x.attr * 2 ^ 16 + x.kver % 2 ^ 16
  else stored

/-- UPD: what the boot record in force holds (R431), the seconds left of the health timer (R433), and the copy of the
activation latch. -/
def State.viewUpd (s : State) (off stored : Nat) : Nat :=
  if off = 0x040 then
    let target := if bitSet stored 31 then bits stored 29 28 else s.targetSlot.getD 3
    insertBits (insertBits (insertBits (insertBits (insertBits stored 0 0 s.recActive) 6 4 (s.recState 0)) 10 8 (s.recState 1))
      19 16 s.recAttempts) 29 28 target
  else if off = 0x044 || off = 0x04C then
    let v := s.recVersion ((off - 0x044) / 8)
    leAt v 2 2 * 2 ^ 16 + leAt v 4 2
  else if off = 0x048 || off = 0x050 then
    let x := (off - 0x048) / 8
    s.recSchema x * 2 ^ 16 + leAt (s.recVersion x) 0 2
  else if off = 0x054 then s.recHealth * 2 ^ 16 + s.recMax
  else if off = 0x064 then
    if bitSet stored 31 then insertBits stored 11 0 (bits stored 11 0 - s.upd.healthNs / 1000000000) else stored
  else if off = 0x080 then insertBits stored 31 31 (b2n (s.flag R.PARTY_ACT_STAT_ARMED))
  else stored

/-- RST and WDT: the time left of a pending request, and of the system watchdog (R355, R443). -/
def State.viewLeft (s : State) (page off stored : Nat) : Nat :=
  if page = pRST && off = 0x04C then insertBits stored 7 0 (bits stored 7 0 - s.rst.reqNs / 1000000)
  else if page = pWDT && off = 0x048 then insertBits stored 15 0 (bits stored 15 0 - s.rst.wdtNs / 1000000)
  else stored

/-- AON: backup memory word w is the word at 0x1C00_0000 + 4 w (R492). -/
def State.viewAon (s : State) (off stored : Nat) : Nat :=
  if 0x080 ≤ off && off < 0x0C0 then memLE s.mem.bk (off - 0x080) 4 else stored

/-- RTC: the calendar fields (R484). -/
def State.viewRtc (s : State) (off stored : Nat) : Nat :=
  if off = 0x04C then s.calDate else if off = 0x050 then s.calTime else stored

/-- CAIRN_STATUS: the open conditions and the slots of staging held. -/
def State.viewCairn (s : State) (off stored : Nat) : Nat :=
  if off = 0x048 then
    let cond := s.openSlots.filter fun (j : Nat) => recKind (s.stageRec j) = recCondition
    insertBits (insertBits stored 13 8 cond.length) 5 0 s.heldSlots.length
  else stored

/-- The word a register shows now, before reserved bits: `stored` where no rule computes it. -/
def State.viewOf (s : State) (m : Master) (page off stored : Nat) : Nat :=
  if off < 0x020 then s.viewHeader page off stored
  else if page = pRST || page = pWDT then s.viewLeft page off stored
  else if page = pPTP then s.viewPtp off stored
  else if page = pPARTY then s.viewParty off stored
  else if page = pNET .a then s.viewNet .a off stored
  else if page = pNET .b then s.viewNet .b off stored
  else if page = pSTORE then s.viewStore off stored
  else if pSTR 0 ≤ page && page ≤ pSTR 3 then s.viewStr (page - pSTR 0) off stored
  else if page = pBELAY then s.viewBelay off stored
  else if page = pSCHED then s.viewSched m off stored
  else if page = pIRQ then s.viewIrq m off stored
  else if page = pUART then s.viewUart off stored
  else if page = pGPIO then s.viewGpio off stored
  else if page = pHOSTSPI then s.viewHostspi off stored
  else if page = pSIDEPHY then s.viewSidephy off stored
  else if page = pSIDE then s.viewSide off stored
  else if page = pANCHOR then s.viewAnchor off stored
  else if page = pUPD then s.viewUpd off stored
  else if page = pAON then s.viewAon off stored
  else if page = pRTC then s.viewRtc off stored
  else if page = pCAIRN then s.viewCairn off stored
  else stored

/-! ## Open bits -/

/-- The bits of a register whose value at an instant no rule and no command fixes: READY of a released block, counters
of line errors and of core cycles, the state of a slot while it is staged (R98 names none for it), the progress of an
update operation, the radio's activity, the clock gate's figure, and a banked register that a master without a bank reads
(assumption log, entries 3 and 15). -/
def State.openBits (s : State) (m : Master) (page off : Nat) : Nat :=
  if off = 0x008 then (if s.rst.down.contains page || s.pageAbsent page then 0 else 2)
  else if page = pCOMMIT && 0x058 ≤ off && off < 0x068 && s.commit.staging.any fun g => off = 0x058 + 4 * g.1 then 0x00070000
  else if (page = pNET .a || page = pNET .b) && (off = 0x074 || off = 0x078) then 0xFFFFFFFF
  else if page = pSCHED && 0x500 ≤ off && off < 0x580 && off % 16 < 8 then 0xFFFFFFFF
  else if page = pIRQ && off = 0x108 then match m with
    | .hart _ _ => 0
    | _ => 0xF
  else if page = pUPD && off = 0x060 && s.upd.op ≠ 0 then 0xFFFFFFFF
  else if page = pSIDEPHY && off = 0x0F8 && s.radioOn then 0xC0FF0000
  else if page = pCLK && off = 0x048 then 0x3FF
  else 0

/-! ## Latching readings -/

/-- The companions that a read of a register latches, by offset in its page (R74, R83, R89, R155, R206, R279, R323,
R340, R382, R484 and the register tables of their chapters). -/
def latchTable (page off : Nat) : List Nat :=
  if page = pPTP then (if off = 0x058 then [0x05C] else if off = 0x068 then [0x06C, 0x070] else [])
  else if page = pCOMMIT then (if off = 0x044 then [0x048] else [])
  else if page = pSTORE then (if off = 0x060 then [0x064, 0x068] else if off = 0x06C then [0x070] else [])
  else if page = pGOV then
    (if off = 0x1C0 then [0x1C4, 0x1C8, 0x1CC] else if off = 0x264 then [0x268]
     else if 0x200 ≤ off && off < 0x260 && off % 8 = 0 then [off + 4] else [])
  else if page = pPRESENT then (if off = 0x040 then [0x044] else [])
  else if page = pMETERDC then (if 0x400 ≤ off && off < 0x460 && off % 8 = 0 then [off + 4] else [])
  else if page = pMETERACC then
    (if 0x100 ≤ off && off < 0x330 then
      (if off % 16 = 0 then [off + 4, off + 8, off + 12] else if off % 16 = 8 then [off + 4] else []) else [])
  else if page = pBELAY then (if off = 0x050 then [0x054, 0x058] else if off = 0x088 then [0x08C] else [])
  else if page = pPARTY then (if off = 0x0C0 then [0x0C4, 0x0C8, 0x0CC, 0x0D0] else [])
  else if page = pIRQ then (if off = 0x060 then [0x064] else [])
  else if page = pSIDE then (if off = 0x060 then [0x064] else [])
  else if page = pRTC then (if off = 0x040 then [0x044, 0x048, 0x04C, 0x050] else [])
  else []

/-- The register whose read uses up what it was latched with: METER_ACC_a_VIEW, whose own read latches in its turn. -/
def latchOnce (page off : Nat) : Bool := page = pMETERACC && 0x100 ≤ off && off < 0x330 && off % 16 = 8

/-- The value a register was latched with, if any. -/
def State.latched (s : State) (page off : Nat) : Option Word := s.latches.lookup (regKey page off)

/-- Latch the companions of a register at their present values. -/
def State.latch (s : State) (m : Master) (page off : Nat) : State :=
  (latchTable page off).foldl (fun (t : State) (c : Nat) =>
    let w : Word := BitVec.ofNat 32 (s.viewOf m page c (s.reg page c).toNat)
    { t with latches := mapIns (regKey page c) w t.latches }) s

/-! ## The read of a register word -/

/-- The bits of a register that a read returns (R8): all that are not WO, WOK or reserved. -/
def RegSpec.reads (r : RegSpec) : Nat := Nat.lor (Nat.lor (Nat.lor r.rw r.rwl) (Nat.lor r.w1c r.w1s)) r.ro

/-- The bits that are not reserved. -/
def RegSpec.known (r : RegSpec) : Nat := Nat.lor r.reads (Nat.lor r.wok r.wo)

/-- The bits of a 32-bit mask that are 0. -/
def notBits (w : Nat) : Nat := Nat.xor w 0xFFFFFFFF

/-- A word as a read returns it: reserved bits are free (R9). -/
def State.openWord (s : State) (page off w : Nat) : Word :=
  match findReg page off with
  | none => BitVec.ofNat 32 (s.freeBits 32)
  | some r => BitVec.ofNat 32 (Nat.lor (Nat.land w r.reads) (Nat.land (s.freeBits 32) (notBits r.known)))

/-- A read of a register as its bits give it: reserved bits and open bits are free, a reserved offset is free
altogether (R9); a latched companion gives what it was latched with. -/
def State.regWord (s : State) (m : Master) (page off : Nat) : Word :=
  let free := s.freeBits 32
  match findReg page off with
  | none => BitVec.ofNat 32 free
  | some r =>
    let now := s.viewOf m page off (s.reg page off).toNat
    let w := match s.latched page off with
      | some v => v.toNat
      | none => now
    let open' := Nat.land r.reads (s.openBits m page off)
    BitVec.ofNat 32 (Nat.lor (Nat.land w (Nat.land r.reads (notBits open')))
      (Nat.land free (Nat.lor (notBits r.known) open')))

end Sys2Proof.Machine
end

