-- ==== Sys2Proof/Machine/GenCheck.lean ====
section
/-! DEFINITION. The rules that chapters place on a generation (R83, R95, R97, R100, R103, R114, R127, R131, R147, R161,
R188, R199, R208, R225, R239, R244, R245, R261, R290, R293–R296, R325), as GEN_STAGE checks them over LCP (R367) and as
firmware must keep them under R17; and the calibration file's check of R177. -/
namespace Sys2Proof.Machine

/-- A rule a generation breaks: PAGE of the section (0xFF for the header or party section), the reason of R368 (1 out of
range, 2 empty size, 3 layout, 4 membership), and the rule's number. -/
structure GenBreach where
  page : Nat
  reason : Nat
  rule : Nat
deriving DecidableEq, Repr

/-- A check: whether it holds, and what breaking it means. -/
abbrev GenRule := Bool × GenBreach

/-- The first rule of a list that is broken. -/
def firstBreach (l : List GenRule) : Option GenBreach := (l.find? fun (r : GenRule) => !r.1).map fun (r : GenRule) => r.2

/-- A range rule, an empty size, a layout rule and a membership rule of a section. -/
def inRange (page rule : Nat) (ok : Bool) : GenRule := (ok, ⟨page, 1, rule⟩)
def notEmpty (page rule : Nat) (ok : Bool) : GenRule := (ok, ⟨page, 2, rule⟩)
def laidOut (page rule : Nat) (ok : Bool) : GenRule := (ok, ⟨page, 3, rule⟩)
def membership (page rule : Nat) (ok : Bool) : GenRule := (ok, ⟨page, 4, rule⟩)

/-- The bytes of a list are all zero from `a` on, `n` of them. -/
def zeroBytes (bs : List Byte) (a n : Nat) : Bool := leAt bs a n = 0

/-- A register field as a section that starts at page offset `base` holds it. -/
def secBits (sec : List Byte) (base : Nat) (f : Fld) : Nat := bits (leAt sec (f.off - base) 4) f.hi f.lo

/-! ## Header and section table (R97, R100) -/

/-- OFFSET and LENGTH of an entry. -/
def entOff (e : List Byte) : Nat := leAt e 4 4
def entLen (e : List Byte) : Nat := leAt e 8 4

/-- The entries of the party section. -/
def State.partyEntries (s : State) (a : Nat) : List (List Byte) :=
  (s.secTable a).filter fun e => leAt e 0 1 = 0xFF && leAt e 1 1 = 1

/-- The header rules of R97 at store address `a`. -/
def State.headerRules (s : State) (a : Nat) : List GenRule :=
  let h := s.storeRead a 64
  let total := leAt h 8 4
  let n := s.secCount a
  let p := s.partyEntries a
  [laidOut 0xFF 97 (leAt h 0 4 = 0x47454E31 && leAt h 6 1 = 1),
   inRange 0xFF 97 (leAt h 4 2 ≠ 0),
   laidOut 0xFF 97 (64 + 16 * n ≤ total && (s.secTable a).all fun e => entOff e + entLen e ≤ total),
   laidOut 0xFF 141 (a % 64 = 0 && a + total ≤ calBase),
   laidOut 0xFF 97 (p.length = 1),
   laidOut 0xFF 97 (p.all fun e => entOff e = leAt h 16 4 && entLen e = leAt h 20 4),
   laidOut 0xFF 199 (96 ≤ leAt h 20 4)]

/-- The section CRCs that GEN_STAGE over LCP checks (R100). -/
def State.crcRules (s : State) (a : Nat) : List GenRule :=
  (s.secTable a).map fun e =>
    let page := leAt e 0 1
    laidOut page 100 (!s.storeRangeBad (a + entOff e) (entLen e) &&
      crc32 (s.storeRead (a + entOff e) (entLen e)) = leAt e 12 4)

/-! ## The party section (R83, R95, R97, R103, R199, R293–R296) -/

/-- R83: RATE_DEN 1 with RATE_NUM 24 to 240, or 1001 with a multiple of 1000 from 24,000 to 240,000. -/
def rateOk (num den : Nat) : Bool :=
  (den = 1 && 24 ≤ num && num ≤ 240) || (den = 1001 && num % 1000 = 0 && 24000 ≤ num && num ≤ 240000)

/-- The timing rules of R83, R95 and R97. T_F is den × 10⁹ / num ns. -/
def timingRules (p : List Byte) : List GenRule :=
  let num := leAt p 0 4
  let den := leAt p 4 4
  let lp := leAt p 8 1
  let commit := leAt p 12 2
  let have' := leAt p 14 2
  let close := leAt p 16 2
  [inRange 0xFF 83 (rateOk num den),
   inRange 0xFF 97 (2 ≤ lp && lp ≤ 8),
   inRange 0xFF 97 (1 ≤ leAt p 9 1 && leAt p 9 1 ≤ 15 && leAt p 10 1 ≠ 0),
   inRange 0xFF 95 (500 ≤ commit && commit * 1000 * num ≤ den * 1000000000),
   inRange 0xFF 95 (100 ≤ close && close + 100 ≤ have'),
   inRange 0xFF 95 (((commit + have') * 1000 + 500000) * num ≤ (lp - 1) * (den * 1000000000)),
   inRange 0xFF 97 (leAt p 18 2 ≤ 0x8000 && leAt p 20 2 ≤ 1024),
   notEmpty 0xFF 97 (leAt p 24 4 ≠ 0),
   notEmpty 0xFF 97 (leAt p 28 2 ≠ 0),
   inRange 0xFF 97 (leAt p 28 2 ≤ 1024)]

/-- The PTP settings of R75 and R97. -/
def ptpRules (p : List Byte) : List GenRule :=
  let sync := toSigned 4 (bits (leAt p 33 1) 3 0)
  let ann := toSigned 4 (bits (leAt p 33 1) 7 4)
  [inRange 0xFF 97 (leAt p 32 1 ≤ 127 && 2 ≤ leAt p 34 1 && leAt p 34 1 ≤ 10),
   inRange 0xFF 75 (-7 ≤ sync && sync ≤ 0 && -3 ≤ ann && ann ≤ 1),
   inRange 0xFF 97 (bits (leAt p 35 1) 3 2 ≠ 3),
   inRange 0xFF 97 (leAt p 36 1 ≤ 31 && leAt p 37 1 ≤ 31 && leAt p 38 1 ≤ 15),
   inRange 0xFF 97 (1000 ≤ leAt p 40 4)]

/-- The governor part (R199). -/
def govPartRules (p : List Byte) : List GenRule :=
  let cap := leAt p 64 4
  [inRange 0xFF 199 (cap = 0 || leAt p 68 4 ≤ cap),
   inRange 0xFF 199 (leAt p 80 2 ≤ 0x8000 && leAt p 82 2 ≤ 0x8000),
   laidOut 0xFF 199 (zeroBytes p 86 10)]

/-- An IPv4 address is multicast. -/
def isMulticast (a : Nat) : Bool := a / 2 ^ 28 = 0xE

/-- The map entry of a member table entry: FLAGS [2:0], ORG_X and ORG_Y (R294). -/
def mapEntry (p : List Byte) (i : Nat) : Nat × Nat × Nat :=
  (bits (leAt p (132 + 16 * i) 1) 2 0, leAt p (136 + 16 * i) 4, leAt p (140 + 16 * i) 4)

/-- The membership part (R293). -/
def memberPartRules (p : List Byte) : List GenRule :=
  let summit := leAt p 98 2
  let standby := leAt p 100 2
  [inRange 0xFF 293 (summit ≤ 1023 && (standby ≤ 1023 || standby = 0xFFFF) && summit ≠ standby),
   inRange 0xFF 293 (leAt p 102 2 ≠ 0 && leAt p 120 1 ≠ 0),
   inRange 0xFF 293 ([104, 108, 112, 116].all fun o => isMulticast (leAt p o 4)),
   inRange 0xFF 293 (2 ≤ leAt p 121 1 && leAt p 121 1 ≤ 60),
   laidOut 0xFF 293 (zeroBytes p 122 6)]

/-- The entries of a table rise strictly in MODULE_ID. -/
def idsRise : List Member → Bool
  | [] => true
  | m :: t => (match t with
    | [] => true
    | n :: _ => decide (m.id < n.id)) && idsRise t

/-- The member table (R294). -/
def tableRules (p : List Byte) : List GenRule :=
  let ms := membersOf p
  let ix := (List.range ms.length).zip ms
  let alike : (Nat × Member) → Bool := fun x => (ix.filter fun (y : Nat × Member) => y.2.segment = x.2.segment && x.1 ≠ y.1).all
    fun (y : Nat × Member) => y.2.position ≠ x.2.position && mapEntry p x.1 = mapEntry p y.1
  [laidOut 0xFF 294 (p.length = 128 + 16 * ms.length),
   inRange 0xFF 294 (ms.all fun m => m.id ≤ 1023 && m.segment ≤ 511),
   laidOut 0xFF 294 (ix.all fun (x : Nat × Member) => leAt p (132 + 16 * x.1) 1 < 16 && zeroBytes p (133 + 16 * x.1) 3 &&
     leAt p (136 + 16 * x.1) 4 < 2 ^ 20 && leAt p (140 + 16 * x.1) 4 < 2 ^ 20),
   membership 0xFF 294 (idsRise ms),
   membership 0xFF 294 (ix.all alike),
   membership 0xFF 294 (ms.any fun m => m.id = leAt p 98 2),
   membership 0xFF 294 (leAt p 100 2 = 0xFFFF || ms.any fun m => m.id = leAt p 100 2)]

/-- What must equal the generation in force (R103, R296). -/
def State.sameRules (s : State) (p : List Byte) : List GenRule := match s.commit.cur with
  | none => []
  | some k =>
    let q := (s.slot k).party
    [inRange 0xFF 103 (p.take 9 = q.take 9),
     inRange 0xFF 103 (leAt p 96 2 = leAt q 96 2),
     membership 0xFF 296 ((p.drop 96).take 32 = (q.drop 96).take 32)]

/-! ## The sections -/

/-- The layout of the sections: page, length, page offset of the first word, and the rule. -/
def sectionLayout : List (Nat × Nat × Nat × Nat) :=
  [(0x10, 8, 0x040, 131), (0x11, 8, 0x040, 131), (0x14, 256, 0x040, 131), (0x18, 4, 0x048, 161), (0x19, 4, 0x040, 161),
   (0x20, 16, 0x040, 188), (0x21, 8, 0x040, 188), (0x22, 16, 0x040, 188), (0x23, 256, 0x040, 208), (0x24, 4, 0x040, 161),
   (0x28, 192, 0x040, 239), (0x29, 192, 0x040, 239), (0x2A, 192, 0x040, 239), (0x2B, 192, 0x040, 239),
   (0x2C, 192, 0x080, 239), (0x30, 544, 0x040, 261), (0x34, 256, 0x040, 290), (0x35, 640, 0x040, 290),
   (0x36, 4, 0x040, 290), (0x38, 4, 0x040, 325), (0x39, 4, 0x000, 295)]

/-- The bits a word of a section may set: those of the register it is for, reserved words and bits 0. -/
def sectionMask (page off : Nat) : Nat :=
  if page = pPARTY then 0x1FF
  else match findReg page off with
    | none => 0
    | some r => r.known

/-- The words of a section set no reserved bit. -/
def wordsOk (page base : Nat) (sec : List Byte) : Bool :=
  (List.range (sec.length / 4)).all fun i =>
    Nat.land (leAt sec (4 * i) 4) (notBits (sectionMask page (base + 4 * i))) = 0

/-- NETx_CFG.SPEED is not 3. -/
def netRules (page : Nat) (sec : List Byte) : List GenRule := [inRange page 131 (bits (leAt sec 0 4) 2 1 ≠ 3)]

/-- Two streams share a group and UDP port on a port both use (R114). -/
def streamsClash (sec : List Byte) (j k : Nat) : Bool :=
  let on := fun (b : Nat) => bitSet (secBits sec 0x40 (R.INGEST_ST_CFG_PATHS j)) b &&
    bitSet (secBits sec 0x40 (R.INGEST_ST_CFG_PATHS k)) b
  (on 0 && secBits sec 0x40 (R.INGEST_ST_GRP_A_ADDR j) = secBits sec 0x40 (R.INGEST_ST_GRP_A_ADDR k) &&
    secBits sec 0x40 (R.INGEST_ST_UDP_PORT_A j) = secBits sec 0x40 (R.INGEST_ST_UDP_PORT_A k)) ||
  (on 1 && secBits sec 0x40 (R.INGEST_ST_GRP_B_ADDR j) = secBits sec 0x40 (R.INGEST_ST_GRP_B_ADDR k) &&
    secBits sec 0x40 (R.INGEST_ST_UDP_PORT_B j) = secBits sec 0x40 (R.INGEST_ST_UDP_PORT_B k))

/-- A rectangle's footprint: left, top, width and height (R125). -/
def footprint (sec : List Byte) (j : Nat) : Nat × Nat × Nat × Nat :=
  let w := secBits sec 0x40 (R.INGEST_RECT_SIZE_W j)
  let h := secBits sec 0x40 (R.INGEST_RECT_SIZE_H j)
  let odd := secBits sec 0x40 (R.INGEST_RECT_CFG_ROT j) % 2 = 1
  (secBits sec 0x40 (R.INGEST_RECT_DST_DX j), secBits sec 0x40 (R.INGEST_RECT_DST_DY j), if odd then h else w, if odd then w else h)

/-- Two footprints overlap. -/
def overlap (a b : Nat × Nat × Nat × Nat) : Bool :=
  a.1 < b.1 + b.2.2.1 && b.1 < a.1 + a.2.2.1 && a.2.1 < b.2.1 + b.2.2.2 && b.2.1 < a.2.1 + a.2.2.2

/-- The rules of one enabled rectangle (R127). -/
def rectRules (sec : List Byte) (on rects : List Nat) (j : Nat) : List GenRule :=
  let w := secBits sec 0x40 (R.INGEST_RECT_SIZE_W j)
  let h := secBits sec 0x40 (R.INGEST_RECT_SIZE_H j)
  let k := secBits sec 0x40 (R.INGEST_RECT_CFG_STREAM j)
  let f := footprint sec j
  [notEmpty 0x14 127 (w ≠ 0 && h ≠ 0),
   inRange 0x14 127 (on.contains k),
   inRange 0x14 127 (secBits sec 0x40 (R.INGEST_RECT_SRC_X j) + w ≤ secBits sec 0x40 (R.INGEST_ST_RASTER_W k) &&
     secBits sec 0x40 (R.INGEST_RECT_SRC_Y j) + h ≤ secBits sec 0x40 (R.INGEST_ST_RASTER_H k)),
   inRange 0x14 127 (f.1 + f.2.2.1 ≤ secBits sec 0x40 R.INGEST_SEG_W && f.2.1 + f.2.2.2 ≤ secBits sec 0x40 R.INGEST_SEG_H),
   inRange 0x14 127 (rects.all fun i => i = j || !overlap f (footprint sec i))]

/-- The INGEST section (R113, R114, R127). -/
def ingestRules (sec : List Byte) : List GenRule :=
  let on := (List.range 4).filter fun k => secBits sec 0x40 (R.INGEST_ST_CFG_EN k) = 1
  let rects := (List.range 4).filter fun j => secBits sec 0x40 (R.INGEST_RECT_CFG_EN j) = 1
  let k0 := on.headD 0
  on.flatMap (fun (k : Nat) =>
    [notEmpty 0x14 113 (secBits sec 0x40 (R.INGEST_ST_RASTER_W k) ≠ 0 && secBits sec 0x40 (R.INGEST_ST_RASTER_H k) ≠ 0),
     inRange 0x14 113 (secBits sec 0x40 (R.INGEST_ST_RASTER_W k) ≤ 16384 && secBits sec 0x40 (R.INGEST_ST_RASTER_H k) ≤ 8192),
     inRange 0x14 113 (secBits sec 0x40 (R.INGEST_ST_CFG_TCS k) ≠ 3),
     inRange 0x14 114 (secBits sec 0x40 (R.INGEST_ST_CFG_COLORIMETRY k) = secBits sec 0x40 (R.INGEST_ST_CFG_COLORIMETRY k0) &&
       secBits sec 0x40 (R.INGEST_ST_CFG_TCS k) = secBits sec 0x40 (R.INGEST_ST_CFG_TCS k0)),
     inRange 0x14 114 (on.all fun j => j = k || !streamsClash sec j k)]) ++
  rects.flatMap (rectRules sec on rects)

/-- Largest pixel count and frame rate of a mode (R35). -/
def modeLimit (mode : Nat) : Nat × Nat := match mode with
  | 0 => (393216, 240)
  | 1 => (786432, 120)
  | 2 => (1572864, 60)
  | _ => (3145728, 30)

/-- Store address `a` lies in a region that R141 permits for bulk tables. -/
def bulkOk (a : Nat) : Bool := storeRegion a = 0 || storeRegion a = 1 || storeRegion a = 6

/-- The `n` bytes of a bulk table at store address `a` lie whole in one region that R141 permits. -/
def State.bulkIn (s : State) (a n : Nat) : Bool :=
  n = 0 || (bulkOk a && storeRegion (a + n - 1) = storeRegion a && a + n ≤ s.storeSize)

/-- A little-endian value of `n` bytes at store address `a`; none where its word is poisoned, which R155 handles when the
word is read. -/
def State.wordAt (s : State) (a n : Nat) : Option Nat :=
  if s.storeWordBad a then none else some (memLE s.mem.store a n)

/-- Every value of `n` bytes in a table of `count` at `a` that can be read meets `ok`. -/
def State.tableAll (s : State) (a n count : Nat) (ok : Nat → Bool) : Bool :=
  (List.range count).all fun i => match s.wordAt (a + n * i) n with
    | none => true
    | some v => ok v

/-- ENTRY_OFF and COUNT of strand i in the reorder table of a PIPE section (R179); none where its word is poisoned. -/
def State.reorderDir (s : State) (pipe : List Byte) (i : Nat) : Nat × Nat :=
  let a := leAt pipe 12 4 * 64 + 8 * i
  if s.storeWordBad a then (0, 0) else (memLE s.mem.store a 4, memLE s.mem.store (a + 4) 4)

/-- The entries of strand i that can be read. -/
def State.reorderEntries (s : State) (pipe : List Byte) (i : Nat) : List Nat :=
  let d := s.reorderDir pipe i
  (List.range d.2).filterMap fun j => s.wordAt (leAt pipe 12 4 * 64 + 384 + 4 * (d.1 + j)) 4

/-- Bytes of the reorder table: the directory and the entries it refers to. -/
def State.reorderLen (s : State) (pipe : List Byte) : Nat :=
  384 + 4 * ((List.range 48).foldl (fun m i => max m ((s.reorderDir pipe i).1 + (s.reorderDir pipe i).2)) 0)

/-- A reorder entry as R179 and R180 ask, for a raster of `npix` pixels. -/
def entryOk (npix e : Nat) : Bool :=
  bits e 30 22 = 0 && (if bitSet e 31 then bits e 21 0 = 0 else bits e 21 0 < npix)

/-- A word of a calibration record whose spare bits and FLAGS[7:3] are 0 (R172, R173). -/
def recordWordOk (w : Nat) : Bool := bits w 63 55 = 0

/-- A rail map entry as R190 asks: no value 12 to 14, and spare bits 0. -/
def railEntryOk (v : Nat) : Bool :=
  v < 0x1000 && [bits v 3 0, bits v 7 4, bits v 11 8].all fun x => x < 12 || x = 15

/-- A command ring entry as R238 asks. -/
def ringEntryOk (w : Nat) : Bool :=
  bits w 7 0 ≤ 3 && (bits w 31 16 ≤ 255 || (bits w 31 16 = 0xFFFF && bits w 7 0 = 1))

/-- The PIPE section (R35, R188) and its tables (R165, R178–R180). -/
def State.pipeRules (s : State) (sec : Nat → List Byte) : List GenRule :=
  let b := sec pPIPE
  let p := sec 0xFF
  let mode := secBits b 0x40 R.PIPE_CFG_MODE
  let lim := modeLimit mode
  let npix := secBits (sec pINGEST) 0x40 R.INGEST_SEG_W * secBits (sec pINGEST) 0x40 R.INGEST_SEG_H
  let live := fun (g : Nat) => ((List.range 12).map fun k =>
    ((s.reorderEntries b (12 * g + k)).filter fun e => !bitSet e 31).length).sum
  [inRange 0x20 188 (secBits b 0x40 R.PIPE_GAIN_GLOBAL ≤ 0x8000),
   inRange 0x20 35 (npix ≤ lim.1),
   inRange 0x20 35 (leAt p 0 4 ≤ lim.2 * leAt p 4 4),
   inRange 0x20 178 (s.bulkIn (leAt b 8 4 * 64) 49152),
   inRange 0x20 180 (s.bulkIn (leAt b 12 4 * 64) (s.reorderLen b)),
   inRange 0x20 178 (s.tableAll (leAt b 8 4 * 64) 4 12288 fun e => e < 2 ^ 20),
   inRange 0x20 165 ((List.range 48).all fun i => (s.reorderDir b i).2 ≤ 262144),
   inRange 0x20 165 ((List.range 4).all fun g => live g ≤ lim.1 / 4),
   inRange 0x20 180 ((List.range 48).all fun i => (s.reorderEntries b i).all (entryOk npix))]

/-- The CAL section's table (R172–R174). -/
def State.calRules (s : State) (sec : Nat → List Byte) : List GenRule :=
  let a := leAt (sec pCAL) 0 4 * 64
  let npix := secBits (sec pINGEST) 0x40 R.INGEST_SEG_W * secBits (sec pINGEST) 0x40 R.INGEST_SEG_H
  [inRange 0x21 174 (s.bulkIn a (24 * npix)),
   inRange 0x21 173 ((List.range npix).all fun i => s.tableAll (a + 24 * i + 16) 8 1 recordWordOk)]

/-- The GOV section and its rail map (R190, R208). -/
def State.govRules (s : State) (sec : Nat → List Byte) : List GenRule :=
  let a := leAt (sec pGOV) 4 4 * 64
  let npix := secBits (sec pINGEST) 0x40 R.INGEST_SEG_W * secBits (sec pINGEST) 0x40 R.INGEST_SEG_H
  [inRange 0x23 208 (secBits (sec pGOV) 0x40 R.GOV_CEIL_LG_G_LOCAL ≤ 0x8000),
   inRange 0x23 190 (s.bulkIn a (2 * npix)),
   inRange 0x23 190 (s.tableAll a 2 npix railEntryOk)]

/-- The SCREE section: the loop lies in the scree region and fits it (R147). -/
def State.screeRules (s : State) (sec : Nat → List Byte) : List GenRule :=
  let base := leAt (sec pSCREE) 0 4 * 64
  let st := screeStride (secBits (sec pINGEST) 0x40 R.INGEST_SEG_W) (secBits (sec pINGEST) 0x40 R.INGEST_SEG_H)
  [inRange 0x24 147 (screeRegion ≤ base && base < s.screeEnd),
   inRange 0x24 147 (leAt (sec 0xFF) 24 4 * st ≤ s.screeEnd - base)]

/-- Cell time of a strand rate, ns (R213). -/
def cellNs (rate : Nat) : Nat := if rate = 0 then 40 else if rate = 1 then 20 else 10

/-- The share table of strand k of a group's section, and its W of R225: the total of the shares that can be read. -/
def shareTable (sec : List Byte) (g k : Nat) : Nat := secBits sec 0x40 (R.STR_SHARE_ADDR_ADDR g) * 64 + 512 * k
def State.shareSum (s : State) (a blocks : Nat) : Nat :=
  ((List.range blocks).filterMap fun j => s.wordAt (a + 2 * j) 2).sum

/-- The payload area of strand i: its start in a staging buffer, and its bytes (R237). -/
def State.areaOf (s : State) (sec : Nat → List Byte) (i : Nat) : Nat × Nat :=
  (bits (leAt (sec (pSTR (i / 12))) (0x40 + 4 * (i % 12)) 4) 18 0 * 64, 6 * (s.reorderDir (sec pPIPE) i).2)

/-- Two areas share a byte. -/
def areasClash (a b : Nat × Nat) : Bool := a.2 ≠ 0 && b.2 ≠ 0 && a.1 < b.1 + b.2 && b.1 < a.1 + a.2

/-- What R237 asks of strand k of group g: its shares, their sum, BLOCKS, and its area beside every other. -/
def State.shareRules (s : State) (sec : Nat → List Byte) (g k : Nat) : List GenRule :=
  let b := sec (pSTR g)
  let i := 12 * g + k
  let blocks := secBits b 0x40 (R.STR_CHAIN_BLOCKS g k)
  let a := shareTable b g k
  let area := s.areaOf sec i
  [inRange (pSTR g) 237 (blocks ≤ secBits b 0x40 (R.STR_CHAIN_DRIVERS g k)),
   inRange (pSTR g) 237 (s.tableAll a 2 blocks fun v => 1 ≤ v && v ≤ 32767),
   inRange (pSTR g) 237 ((s.firstBad a (2 * blocks)).isSome || s.shareSum a blocks = 3 * (s.reorderDir (sec pPIPE) i).2),
   inRange (pSTR g) 237 (area.1 + area.2 ≤ 0x02000000),
   inRange (pSTR g) 237 ((List.range 48).all fun j => j = i || !areasClash area (s.areaOf sec j))]

/-- The rules of an enabled strand k of group g (R225, R237): `sec` is its STRg section, `skew` its word of PRESENT. -/
def State.strandRules (s : State) (sec p : List Byte) (g k skew : Nat) : List GenRule :=
  let tb := cellNs (secBits sec 0x40 (R.STR_CFG_RATE g))
  let drivers := secBits sec 0x40 (R.STR_CHAIN_DRIVERS g k)
  let blocks := secBits sec 0x40 (R.STR_CHAIN_BLOCKS g k)
  let w := s.shareSum (shareTable sec g k) blocks
  let lead := bits skew 26 16
  let skewNs := bits skew 10 0
  let f := 128 + 32 * blocks + 16 * w
  let c := 144 + 64 + 4 * (3 * min drivers 255 + 152) + (2 * skewNs + tb - 1) / tb
  let need := (4000 + tb - 1) / tb + f + 16 + c + 16 + 96 + lead
  [inRange (pSTR g) 225 (need * tb ≤ leAt p 4 4 * 1000000000 / leAt p 0 4),
   inRange 0x2C 225 (2 * (drivers - 1) + 16 ≤ lead && (1000 + tb - 1) / tb + 16 ≤ lead && lead ≤ 1024),
   inRange 0x2C 225 (skewNs ≤ 2000),
   inRange (pSTR g) 237 (drivers ≤ 256)]

/-- The section of group g (R237–R239) with its ring, its shares and its enabled strands. -/
def State.groupRules (s : State) (all : Nat → List Byte) (g : Nat) : List GenRule :=
  let sec := all (pSTR g)
  let on := (List.range 12).filter fun k => bitSet (secBits sec 0x40 (R.STR_CFG_EN g)) k
  let scan := secBits sec 0x40 (R.STR_FRAMEHDR_SCAN g)
  let ring := secBits sec 0x40 (R.STR_RING_LEN g)
  let ringA := secBits sec 0x40 (R.STR_RING_ADDR_ADDR g) * 64
  let shares := (List.range 12).map fun k => 512 * k + 2 * secBits sec 0x40 (R.STR_CHAIN_BLOCKS g k)
  [inRange (pSTR g) 239 (secBits sec 0x40 (R.STR_CFG_RATE g) ≠ 3),
   notEmpty (pSTR g) 239 (on.isEmpty || scan ≠ 0),
   inRange (pSTR g) 239 (scan ≤ 64 && ring ≤ 64 && (ring = 0 || secBits sec 0x40 (R.STR_RING_EVERY g) ≠ 0)),
   inRange (pSTR g) 237 (s.bulkIn ringA (8 * ring) && s.bulkIn (shareTable sec g 0) (shares.foldl max 0)),
   inRange (pSTR g) 238 (s.tableAll ringA 8 ring ringEntryOk)] ++
  (List.range 12).flatMap (s.shareRules all g) ++
  on.flatMap fun (k : Nat) => s.strandRules sec (all 0xFF) g k (leAt (all pPRESENT) (4 * (12 * g + k)) 4)

/-- A code lies in the closed window between two others. -/
def inWindow (a b c : Nat) : Bool := min a b ≤ c && c ≤ max a b

/-- Rail r of the RAIL section (R244, R245). -/
def railRules (sec : List Byte) (r : Nat) : List GenRule :=
  let mode := secBits sec 0x40 (R.RAIL_CTRL_MODE r)
  let lo := secBits sec 0x40 (R.RAIL_WIN_LOW_CODE r)
  let hi := secBits sec 0x40 (R.RAIL_WIN_HIGH_CODE r)
  let codes := [secBits sec 0x40 (R.RAIL_START_START_CODE r), secBits sec 0x40 (R.RAIL_CODES_SAFE_CODE r),
    secBits sec 0x40 (R.RAIL_CODES_NODATA_CODE r)]
  let analog := secBits sec 0x40 (R.RAIL_CTRL_IF r) = 0
  [inRange 0x30 245 (mode ≠ 3),
   inRange 0x30 244 (codes.all fun c => inWindow lo hi c),
   inRange 0x30 244 (!analog || (lo ≤ 0xFFF && hi ≤ 0xFFF && codes.all fun c => c ≤ 0xFFF)),
   inRange 0x30 244 (mode ≠ 2 || secBits sec 0x40 (R.RAIL_GAIN_UV_PER_CODE r) ≠ 0),
   inRange 0x30 244 (mode = 0 || (secBits sec 0x40 (R.RAIL_RAMP_RAMP r) ≠ 0 && secBits sec 0x40 (R.RAIL_LOOP_PERIOD_MS r) ≠ 0))]

/-- The halves of the strand-to-rail map hold no value 12 to 14 (R249). -/
def smapOk (sec : List Byte) : Bool := (List.range 48).all fun i => railEntryOk (leAt sec (0x1C0 + 2 * i) 2)

/-- The strand-to-rail map agrees with the rail map for every pixel that the reorder table places on a strand (R190,
R249). -/
def State.smapAgrees (s : State) (sec : Nat → List Byte) : Bool :=
  let a := leAt (sec pGOV) 4 4 * 64
  (List.range 48).all fun i => ((s.reorderEntries (sec pPIPE) i).filter fun e => !bitSet e 31).all fun e =>
    match s.wordAt (a + 2 * bits e 21 0) 2 with
    | none => true
    | some v => v % 0x1000 = leAt (sec pRAIL) (0x1C0 + 2 * i) 2 % 0x1000

/-- The eight breakpoints of a channel rise strictly (R273); they stand in four words from `a`. -/
def breakpointsRise (sec : List Byte) (a : Nat) : Bool :=
  (List.range 7).all fun j => leAt sec (a + 2 * j) 2 < leAt sec (a + 2 * j + 2) 2

/-- The METER_AC section (R273, R290). -/
def meterAcRules (sec : List Byte) : List GenRule :=
  let ven := bits (leAt sec 0 4) 22 20
  let ien := bits (leAt sec 0 4) 27 24
  [inRange 0x34 290 ((List.range 3).all fun v => !bitSet ven v || leAt sec (4 + 4 * v) 4 ≠ 0),
   inRange 0x34 290 ((List.range 4).all fun c => !bitSet ien c || leAt sec (0x20 + 4 * c) 4 ≠ 0),
   inRange 0x34 273 ((List.range 4).all fun c => !bitSet ien c || breakpointsRise sec (0x40 + 48 * c))]

/-- The METER_DC section (R273, R290). -/
def meterDcRules (sec : List Byte) : List GenRule :=
  let en := bits (leAt sec 0 4) 11 0
  [inRange 0x35 290 ((List.range 12).all fun k => !bitSet en k || leAt sec (0x40 + 48 * k) 4 ≠ 0),
   inRange 0x35 273 ((List.range 12).all fun k => !bitSet en k || breakpointsRise sec (0x50 + 48 * k))]

/-- The module's own entry of the member table (R295), and that it equals the DITH section (R294). -/
def State.selfRules (s : State) (sec p dith : List Byte) : List GenRule :=
  let ms := membersOf p
  let own := (List.range ms.length).zip ms |>.find? fun (x : Nat × Member) =>
    x.2.segment = bits (leNat sec) 8 0 && x.2.position = s.position
  let cfg := leAt dith 0 4
  let same := match s.commit.cur with
    | none => true
    | some k => decide ((s.slot k).segment = some (bits (leNat sec) 8 0))
  [membership 0x39 295 own.isSome,
   membership 0xFF 294 (match own with
     | none => true
     | some x => mapEntry p x.1 = (bits cfg 3 2 + 4 * bits cfg 4 4, leAt dith 8 4, leAt dith 12 4)),
   membership 0x39 296 same]

/-- The rules of the section of a page; `all` gives the bytes of every section, 0xFF the party section. -/
def State.sectionRules (s : State) (page : Nat) (all : Nat → List Byte) : List GenRule :=
  let sec := all page
  if page = 0x10 || page = 0x11 then netRules page sec
  else if page = pINGEST then ingestRules sec
  else if page = pARB then [inRange pARB 161 (leAt sec 0 4 ≤ 16)]
  else if page = pPIPE then s.pipeRules all
  else if page = pCAL then s.calRules all
  else if page = pGOV then s.govRules all
  else if page = pSCREE then s.screeRules all
  else if pSTR 0 ≤ page && page ≤ pSTR 3 then s.groupRules all (page - pSTR 0)
  else if page = pRAIL then (List.range 12).flatMap (railRules sec) ++
    [inRange pRAIL 249 (smapOk sec), inRange pRAIL 249 (s.smapAgrees all)]
  else if page = pMETERAC then meterAcRules sec
  else if page = pMETERDC then meterDcRules sec
  else if page = pMETERACC then [inRange pMETERACC 290 (1 ≤ leAt sec 0 4 && leAt sec 0 4 ≤ 60)]
  else if page = pPARTY then s.selfRules sec (all 0xFF) (all pDITH)
  else []

/-- A section as the check reads it: its bytes as they lie, whole or not; empty where the table has none. -/
def State.rawSection (s : State) (a page : Nat) : List Byte := match s.secFind a page 1 with
  | none => []
  | some x => s.storeRead (a + x.1) x.2.1

/-- The section-table entries of a page, KIND 0x01. -/
def State.pageEntries (s : State) (a page : Nat) : Nat :=
  ((s.secTable a).filter fun e => leAt e 0 1 = page && leAt e 1 1 = 1).length

/-- A section of the layout of R131, R161, R188, R208, R239, R261, R290, R295 or R325: there, alone, of its length,
without reserved bits. One that is poisoned or fails its CRC is left to the handling of R100 and R155. -/
def State.pageRules (s : State) (a : Nat) (x : Nat × Nat × Nat × Nat) : List GenRule :=
  let sec := s.rawSection a x.1
  laidOut x.1 x.2.2.2 (s.pageEntries a x.1 = 1) ::
  match s.secRead a x.1 1 with
  | .whole _ => laidOut x.1 x.2.2.2 (sec.length = x.2.1) :: laidOut x.1 x.2.2.2 (wordsOk x.1 x.2.2.1 sec) ::
      s.sectionRules x.1 (s.rawSection a)
  | _ => []

/-- The rules of the party section. -/
def State.partyRules (s : State) (p : List Byte) : List GenRule :=
  timingRules p ++ ptpRules p ++ govPartRules p ++ memberPartRules p ++ tableRules p ++ s.sameRules p

/-- The first rule the descriptor at store address `a` breaks, apart from section CRCs: header, party section, that XSDEC
has no section, then the sections in rising page order with the bulk tables they name. -/
def State.genBreach (s : State) (a : Nat) : Option GenBreach :=
  match firstBreach (s.headerRules a) with
  | some b => some b
  | none => match firstBreach (s.partyRules (s.rawSection a 0xFF)) with
    | some b => some b
    | none => firstBreach (laidOut pXSDEC 131 (s.pageEntries a pXSDEC = 0) :: sectionLayout.flatMap (s.pageRules a))

/-- The check of GEN_STAGE (R367): the header and table readable, then R97's header, every section CRC (R100), and the
chapters' rules. -/
def State.lcpBreach (s : State) (a : Nat) : Option GenBreach :=
  if s.storeRangeBad a (64 + 16 * s.secCount a) then some ⟨0xFF, 3, 100⟩
  else match firstBreach (s.headerRules a) with
    | some b => some b
    | none => match firstBreach (s.crcRules a) with
      | some b => some b
      | none => s.genBreach a

/-- What firmware breaks by staging the descriptor at `a` (R17, R97, R99): a party section that is poisoned or fails its
CRC is left to R100 and R155. -/
def State.fwBreach (s : State) (a : Nat) : Option GenBreach :=
  if s.storeRangeBad a (64 + 16 * s.secCount a) then none
  else match firstBreach (s.headerRules a) with
    | some b => some b
    | none => match s.secRead a 0xFF 1 with
      | .whole _ => s.genBreach a
      | _ => none

/-! ## Staging (R98, R99) -/

/-- A slot that may be staged into: EMPTY or RETIRED. Staging leaves both states at GO (R98), so the slot it runs for is
no longer free. -/
def State.slotFree (s : State) (k : Nat) : Bool :=
  (s.slotState k = slotEmpty || s.slotState k = slotRetired) && !(s.commit.staging.any fun x => x.1 = k)

/-- The slot not EMPTY or RETIRED that holds GEN_ID `g`. -/
def State.slotHolding (s : State) (g : Nat) : Option Nat :=
  (List.range 4).find? fun k => !s.slotFree k && s.slotGen k = g

/-- GEN_ID of the descriptor at store address `a`. -/
def State.genIdAt (s : State) (a : Nat) : Nat := memLE s.mem.store (a + 4) 2

/-- Staging starts: SLOT and ADDR are taken (R99). -/
def State.startStage (s : State) (slot a : Nat) : State :=
  ({ s with commit := { s.commit with staging := some (slot, a) } }.setFld R.COMMIT_STAGE_CTRL_SLOT slot).setFld
    R.COMMIT_STAGE_CTRL_GO 1

/-- A write of COMMIT_STAGE_CTRL with GO (R99): ignored while GO still reads 1; a second that is resynchronising must
not stage (R318). -/
def State.stageGo (s : State) (slot : Nat) : Res :=
  let a := s.fld R.COMMIT_STAGE_ADDR_ADDR * 64
  if s.commit.staging.isSome then .next s
  else if s.flag R.BELAY_STATUS_RESYNC_BUSY && !s.flag R.BELAY_STATUS_LEAD then .fault (.unpredictable 318)
  else if !s.slotFree slot || (s.slotHolding (s.genIdAt a)).isSome then .fault (.unpredictable 99)
  else match s.fwBreach a with
    | some b => .fault (.unpredictable b.rule)
    | none => .next (s.startStage slot a)

/-- GEN_STAGE_GO. -/
def execGenStageGo (m : Master) (slot : Nat) (s : State) : Res :=
  s.begin.asWrite m pCOMMIT rightConfig fun t => t.stageGo (slot % 4)

/-! ## The calibration file (R176, R177) -/

/-- A record of a file has FLAGS[7:3] or spare bits non-zero. -/
def recordSpare (bs : List Byte) (i : Nat) : Bool := bits (leAt bs (128 + 24 * i + 16) 8) 63 55 ≠ 0

/-- The code of R177 for an upload of `len` bytes whose bytes are `bs`; 0 where it is accepted. -/
def calCode (len : Nat) (bs : List Byte) : Nat :=
  let w := leAt bs 8 2
  let h := leAt bs 10 2
  let n := leAt bs 12 4
  let body := leAt bs 20 4
  if len = 0 then 0x01
  else if len < 128 then 0x02
  else if leAt bs 0 4 ≠ 0x4C41434C || leAt bs 4 2 ≠ 1 || leAt bs 6 2 ≠ 128 || leAt bs 16 2 ≠ 24 then 0x03
  else if crc32 (bs.take 124) ≠ leAt bs 124 4 then 0x04
  else if w = 0 || h = 0 || 8191 < w || 8191 < h || n ≠ w * h || 3145728 < n || body ≠ n * 24 then 0x05
  else if len ≠ 128 + body then 0x06
  else if crc32 ((bs.drop 128).take body) ≠ leAt bs 24 4 then 0x07
  else if !zeroBytes bs 18 2 || !zeroBytes bs 28 4 || !zeroBytes bs 88 36 || (List.range n).any (recordSpare bs) then 0x08
  else 0x00

end Sys2Proof.Machine
end

