-- ==== Sys2Proof/Machine/Periph.lean ====
section
/-! DEFINITION. The peripheral pages of chapter 13: I2C0 and I2C1, UART, GPIO, FAN and TEMP (R69, R517, R518, R520), the
doorbell of HOSTSPI, and frames that firmware sends (LCP_TX_CTRL). -/
namespace Sys2Proof.Machine

/-! ## I2C (R518) -/

/-- The page of I2C bus n. -/
def pI2C (n : Nat) : Nat := 0x4A + n % 2

/-- The 16 bytes of a bus's buffer. -/
def State.i2cBuf (s : State) (n : Nat) : List Byte := (List.range 4).flatMap fun j => leBytes 4 (s.fld (R.I2C_BUF_DATA n j))

/-- A write of I2Cn_CMD: GO starts a transaction; more than 16 bytes either way breaks its range. A GO while one runs
starts nothing. -/
def State.i2cWrite (s : State) (m : Master) (n : Nat) (v : Word) : Res :=
  s.asWrite m (pI2C n) rightLive fun t =>
    let w := v.toNat
    let wr := bits w 12 8
    let rd := bits w 4 0
    if 16 < wr || 16 < rd then .fault (.unpredictable 17)
    else
      let u := t.setFlds [(R.I2C_CMD_ADDR n, bits w 22 16), (R.I2C_CMD_WR_LEN n, wr), (R.I2C_CMD_RD_LEN n, rd)]
      .next (if bitSet w 31 && !t.flag (R.I2C_CMD_GO n) then
        (u.setFld (R.I2C_CMD_GO n) 1).emit (.i2c n (bits w 22 16) ((t.i2cBuf n).take wr) rd)
      else u)

/-- I2C_COMMAND_DONE: RESULT, and after an OK the bytes read stand in the buffer. -/
def execI2cCommandDone (n result : Nat) (data : List Byte) (s : State) : Res :=
  let s := s.begin
  let n := n % 2
  if !s.flag (R.I2C_CMD_GO n) then .next s
  else
    let got := data.take (s.fld (R.I2C_CMD_RD_LEN n))
    let buf := got ++ (s.i2cBuf n).drop got.length
    let t := s.setFlds [(R.I2C_CMD_GO n, 0), (R.I2C_STAT_RESULT n, result)]
    let u := if result % 4 = 0 then (List.range 4).foldl (fun (u : State) j => u.setFld (R.I2C_BUF_DATA n j) (leAt buf (4 * j) 4)) t
      else t
    .next (u.irq (pI2C n) 0)

/-! ## UART -/

/-- UART_RX_BYTE: a full FIFO loses the byte. -/
def execUartRxByte (byte : Nat) (s : State) : Res :=
  let s := s.begin
  if !s.flag R.UART_CFG_EN then .next s
  else if s.uart.rx.length < 16 then
    .next ({ s with uart := { s.uart with rx := s.uart.rx ++ [byte % 256] } }.irq pUART 0)
  else .next (s.setFld R.UART_STAT_OVERRUN 1)

/-- UART_DATA_READ: the oldest byte is popped; VALID is 0 where there is none. -/
def execUartDataRead (m : Master) (s : State) : Res :=
  let s := s.begin
  if !m.holds rightRead then .next (s.emit (.refused codeRights))
  else match s.uart.rx with
    | [] => .next ((s.emit (.readData (s.openWord pUART 0x044 0))).drawn)
    | b :: rest =>
      .next ((({ s with uart := { s.uart with rx := rest } }).emit (.readData (s.openWord pUART 0x044 (0x100 + b)))).drawn)

/-- A write of UART_DATA queues a byte; a full FIFO takes none. -/
def State.uartWrite (s : State) (m : Master) (v : Word) : Res :=
  s.asWrite m pUART rightLive fun t =>
    .next (if t.uart.tx.length < 16 then { t with uart := { t.uart with tx := t.uart.tx ++ [v.toNat % 256] } } else t)

/-- One cycle of 25 MHz on the transmitter: a byte takes 10 bits of DIV cycles, and event 1 comes as the FIFO empties. -/
def State.uartTick (s : State) : State :=
  if !s.flag R.UART_CFG_EN then s
  else match s.uart.tx with
    | [] => s
    | b :: rest =>
      let need := if s.uart.left = 0 then 10 * s.fld R.UART_CFG_DIV else s.uart.left
      if need ≤ 1 then
        let t := ({ s with uart := { s.uart with tx := rest, left := 0 } }).emit (.uartTx b)
        if rest = [] then t.irq pUART 1 else t
      else { s with uart := { s.uart with left := need - 1 } }

/-! ## GPIO -/

/-- The levels at GPIO0 to GPIO15: what the module drives, or what the carrier gives. -/
def State.gpioLevels (s : State) : Nat :=
  (List.range 16).foldl (fun (acc k : Nat) =>
    acc + b2n (if s.bit R.GPIO_OE_OE k then s.bit R.GPIO_OUT_OUT k else bitSet s.pins.gpio k) * 2 ^ k) 0

/-- The pins have changed from the levels `was`: enabled edges are noted. -/
def State.gpioEdges (s : State) (was : Nat) : State :=
  (List.range 16).foldl (fun (t : State) (k : Nat) =>
    let a := bitSet was k
    let b := bitSet s.gpioLevels k
    if (!a && b && s.bit R.GPIO_RISE_EN k) || (a && !b && s.bit R.GPIO_FALL_EN k) then
      (t.setBit R.GPIO_EDGE_EDGE k true).irq pGPIO 0
    else t) s

/-- GPIO_EDGE: the carrier drives pin k to a level. -/
def execGpioEdge (k : Nat) (level : Bool) (s : State) : Res :=
  let s := s.begin
  let k := k % 16
  .next (({ s with pins := { s.pins with gpio := insertBits s.pins.gpio k k (b2n level) } }).gpioEdges s.gpioLevels)

/-! ## FAN and TEMP -/

/-- FAN_BELOW_MIN: a measured speed; below 120 rpm it reads 0. A threshold of 0 is off. -/
def execFanBelowMin (k rpm : Nat) (s : State) : Res :=
  let s := s.begin
  let shown := if rpm < 120 then 0 else min rpm 65535
  let t := s.setFld (R.FAN_RPM_RPM (k % 4)) shown
  .next (if s.fld R.FAN_MIN_RPM ≠ 0 && shown < s.fld R.FAN_MIN_RPM then t.irq pFAN 0 else t)

/-- TEMP_MEASURE: every sensor is read, and one above the threshold raises the alarm. -/
def execTempMeasure (die : Int) (ext : List (Option Int)) (s : State) : Res :=
  let s := s.begin
  let t := (List.range 4).foldl (fun (u : State) (k : Nat) => match ext.getD k none with
    | some x => u.setFlds [(R.TEMP_EXT_VALID k, 1), (R.TEMP_EXT_T k, ofSigned 16 x)]
    | none => u.setFlds [(R.TEMP_EXT_VALID k, 0), (R.TEMP_EXT_T k, 0)]) (s.setFld R.TEMP_DIE_T (ofSigned 16 die))
  let limit := toSigned 16 (s.fld R.TEMP_ALARM_T)
  let hot := decide (limit < die) || (ext.take 4).any fun (x : Option Int) => match x with
    | some v => decide (limit < v)
    | none => false
  .next (if hot then t.irq pTEMP 0 else t)

/-! ## The doorbell (R371) -/

/-- HSPI_IRQ_N is low while HOSTSPI_BELL is not 0; a clear by the host raises event 2. -/
def State.bellChanged (s : State) (m : Master) (cleared : Bool) : State :=
  let t := { s with pins := { s.pins with hspiIrqLow := s.fld R.HOSTSPI_BELL_BELL ≠ 0 } }
  match m with
  | .hspi _ => if cleared then t.irq pHOSTSPI 2 else t
  | _ => t

/-- A write of HOSTSPI_BELL_SET. -/
def State.bellSet (s : State) (m : Master) (v : Word) : Res :=
  s.asWrite m pHOSTSPI rightSecure fun t =>
    .next ((t.setFld R.HOSTSPI_BELL_BELL (Nat.lor (t.fld R.HOSTSPI_BELL_BELL) v.toNat)).bellChanged m false)

/-- A write of HOSTSPI_BELL clears the bits written 1. -/
def State.bellClear (s : State) (m : Master) (v : Word) : Res :=
  s.asWrite m pHOSTSPI rightSecure fun t =>
    let old := t.fld R.HOSTSPI_BELL_BELL
    .next ((t.setFld R.HOSTSPI_BELL_BELL (Nat.land old (notBits v.toNat))).bellChanged m (Nat.land old v.toNat ≠ 0))

/-! ## Frames sent by firmware (LCP_TX_CTRL) -/

/-- A write of LCP_TX_CTRL: GO sends the frame that lies in shared SRAM; it is sent at once (assumption log, entry 16). -/
def State.txWrite (s : State) (m : Master) (v : Word) : Res :=
  s.asWrite m pLCP rightSecure fun t =>
    let w := v.toNat
    let u := t.setFlds [(R.LCP_TX_CTRL_PORT, bits w 16 16), (R.LCP_TX_CTRL_LEN, bits w 13 0)]
    let a := t.fld R.LCP_TX_ADDR_ADDR
    let n := bits w 13 0
    if !bitSet w 31 then .next u
    else if !inSram a n then .fault (.unpredictable 17)
    else .next ((u.emit (.netFrame (portOf (bits w 16 16)) (t.sramRead a n))).irq pLCP 1)

end Sys2Proof.Machine
end

