-- ==== Sys2Proof/Machine/Bus.lean ====
section
/-! DEFINITION. The register bus (R6–R15, R358–R360): what a read or a write of one register word does, whoever makes
it. A register whose read or write is a command of its own is handed to that command; every other write follows the
access types of its bits. -/
namespace Sys2Proof.Machine

/-- The outcome of an access that is part of a larger command: what it answers stands after what `s` has answered. -/
def State.after (s : State) (r : Res) : Res := match r with
  | .next t => .next { t with out := s.out ++ t.out }
  | .fault e => .fault e
  | .refused e => .refused e

/-- One effect after another; a stop of the first is a stop. -/
def thenDo (r : Res) (k : State → Res) : Res := match r with
  | .next t => k t
  | .fault e => .fault e
  | .refused e => .refused e

/-- The master is a core. -/
def Master.isCore : Master → Bool
  | .hart _ _ => true
  | _ => false

/-- The master is a remote principal: an LCP request or a host SPI transaction. -/
def Master.isRemote : Master → Bool
  | .lcp _ => true
  | .hspi _ => true
  | _ => false

/-! ## Counters (R15, CNT_CLR registers) -/

/-- Offsets from `a` on, `n` of them, a word apart. -/
def offsets (a n : Nat) : List Nat := (List.range n).map fun j => a + 4 * j

/-- The CNT_CLR registers: page, offset, and the counters each returns to 0. -/
def clearTable (page off : Nat) : Option (List Nat) :=
  if page = pPTP && off = 0x080 then some [0x07C, 0x084]
  else if page = pCOMMIT && off = 0x088 then some (offsets 0x078 4)
  else if page = pPARTY && off = 0x078 then some [0x064, 0x068]
  else if page = pPARTY && off = 0x0BC then some (offsets 0x0B0 3)
  else if (page = pNET .a || page = pNET .b) && off = 0x080 then some (offsets 0x060 8)
  else if page = pINGEST && off = 0x28C then some (offsets 0x200 32)
  else if page = pXSDEC && off = 0x050 then some [0x040, 0x044, 0x04C]
  else if page = pSTORE && off = 0x078 then some [0x050, 0x054, 0x058]
  else if page = pARB && off = 0x0C0 then some (offsets 0x080 5 ++ offsets 0x0A0 5)
  else if page = pSCREE && off = 0x058 then some [0x050, 0x054]
  else if page = pPIPE && off = 0x080 then some (0x05C :: offsets 0x070 4)
  else if page = pCAL && off = 0x054 then some [0x048]
  else if page = pGOV && off = 0x278 then some [0x270, 0x274]
  else if pSTR 0 ≤ page && page ≤ pSTR 3 && off = 0x144 then some []
  else if page = pPRESENT && off = 0x058 then some [0x050, 0x054]
  else if page = pRAIL && off = 0x310 then some (offsets 0x304 3)
  else if page = pTELEM && off = 0x074 then some (offsets 0x060 5)
  else if page = pMETERAC && off = 0x1D0 then some [0x1C8]
  else if page = pMETERDC && off = 0x46C then some [0x464]
  else if page = pMETERACC && off = 0x090 then some [0x088, 0x08C]
  else if page = pBELAY && off = 0x084 then some (offsets 0x064 8)
  else if page = pSYS && off = 0x0D0 then some [0x0C0, 0x0C4]
  else if page = pSCHED && off = 0x058 then some (offsets 0x048 4)
  else if page = pIRQ && off = 0x050 then some (offsets 0x044 3)
  else if page = pHOSTSPI && off = 0x054 then some [0x050]
  else if page = pSIDEPHY && off = 0x110 then some (offsets 0x100 4)
  else if page = pSIDE && off = 0x0F8 then some (offsets 0x0C0 14)
  else if page = pANCHOR && off = 0x090 then some [0x088, 0x08C]
  else if page = pUPD && off = 0x0A0 then some [0x098, 0x09C]
  else if page = pFLASH && off = 0x058 then some [0x050, 0x054]
  else if page = pMRAM && off = 0x050 then some [0x044, 0x048]
  else if page = pRST && off = 0x084 then some (offsets 0x070 5)
  else if page = pPWR && off = 0x08C then some (offsets 0x080 3)
  else if page = pCLK && off = 0x050 then some [0x04C]
  else if page = pCAIRN && off = 0x07C then some (offsets 0x070 3)
  else none

/-- The counters of a strand. -/
def StrandS.cleared (x : StrandS) : StrandS :=
  { x with frames := 0, aborts := 0, retOk := 0, retNone := 0, retBad := 0, long := 0, drvErr := 0 }

/-- The counters that a write of 1 to a CNT_CLR clears: those of the table, of STRg for every strand of its group, and
of SCHED with its maxima and histograms (R350). -/
def State.clearCounters (s : State) (page : Nat) (offs : List Nat) : State :=
  let t := offs.foldl (fun (u : State) (o : Nat) => u.setReg page o 0) s
  if pSTR 0 ≤ page && page ≤ pSTR 3 then
    (List.range 12).foldl (fun (u : State) (k : Nat) =>
      let x := 12 * (page - pSTR 0) + k
      u.setStrand x (u.strand x).cleared) t
  else if page = pSCHED then
    (List.range 64).foldl (fun (u : State) (q : Nat) => u.setFld (R.SCHED_Q_DEPTH_MAX q) 0)
      { t with sched := { t.sched with hist := [] } }
  else t

/-- A write of a CNT_CLR register: bit 0 clears its counters when the page's PG_LOCK is armed (R15). -/
def State.cntClr (s : State) (m : Master) (page off : Nat) (v : Word) : Res :=
  s.asArmed m page (pageRight page) fun t => match clearTable page off with
    | some offs => .next (if v.getLsbD 0 then t.clearCounters page offs else t)
    | none => .next t

/-! ## The common header (R10–R15) -/

/-- A write of PG_LOCK: the key is 0x5A00 or the page number; bit 0 locks, or else the page is armed (R14). -/
def State.lockWrite (s : State) (m : Master) (page : Nat) (v : Word) : Res :=
  s.asWrite m page (pageRight page) fun t =>
    if bits v.toNat 31 16 ≠ 0x5A00 + page then .next t
    else if v.getLsbD 0 then .next (t.setFld (R.PG_LOCK_LOCKED page) 1)
    else .next (t.setFld (R.PG_LOCK_ARMED page) 1)

/-- Events `events` of a page in one cycle, with the RAW bits of `mask` cleared in it: an event wins over its clear, and a
line that stays high has no edge (R11). -/
def State.rawCycle (s : State) (page mask events : Nat) : State :=
  let raw := Nat.lor (Nat.land (s.fld (R.PG_IRQ_RAW page)) (notBits (mask % 16))) (events % 16)
  (List.range 4).foldl (fun (u : State) (k : Nat) => u.noteEdge (page * 4 + k) (s.lineHigh (page * 4 + k)))
    (s.setFld (R.PG_IRQ_RAW page) raw)

/-- A write of PG_IRQ_STAT, with the events of the same cycle: an event wins over its clear, and is not lost with a write
that is refused (R11). -/
def State.statWrite (s : State) (m : Master) (page mask events : Nat) : Res :=
  if m.holds (pageRight page) then .next ((s.disarm page).rawCycle page mask events)
  else .next ((s.rawCycle page 0 events).emit (.refused codeRights))

/-- A write of PG_IRQ_EN: a line that rises by it is an edge (R341). -/
def State.enWrite (s : State) (m : Master) (page : Nat) (v : Word) : Res :=
  s.asWrite m page (pageRight page) fun t =>
    let u := t.setFld (R.PG_IRQ_EN page) v.toNat
    .next ((List.range 4).foldl (fun (w : State) (k : Nat) => w.noteEdge (page * 4 + k) (t.lineHigh (page * 4 + k))) u)

/-- IDLE_REQ is set: the block goes to the safe state of its fence (R10, R452). -/
def State.idleReq (s : State) (page : Nat) : State :=
  if s.flag (R.PG_CTRL_IDLE_REQ page) then s else (s.setFld (R.PG_CTRL_IDLE_REQ page) 1).idleBlock page

/-- A write of PG_CTRL: EN, IDLE_REQ, and BRST_REQ as BLOCK_RESET_REQUEST. R10 calls EN the block enable and says no more:
that EN changes nothing but its own bit is a DESIGN CHOICE (assumption log, entry 43). -/
def State.ctrlWrite (s : State) (m : Master) (page : Nat) (v : Word) : Res :=
  s.asWrite m page (pageRight page) fun t =>
    let u := t.setFlag (R.PG_CTRL_EN page) (v.getLsbD 0)
    let w := if v.getLsbD 2 then u.idleReq page else u.setFld (R.PG_CTRL_IDLE_REQ page) 0
    if v.getLsbD 1 then w.after (execBlockResetRequest m page w) else .next w

/-! ## PG_FENCE (R12, R13, R50) -/

/-- A section that a slot in force or READY refers to is poisoned or fails its CRC (R155, R100). -/
def State.badSection (s : State) (page : Nat) : Bool :=
  if [pPIPE, pCAL, pDITH, pGOV].contains page then s.banks.any fun b => b.bad.any fun x => x.1 = page
  else (s.commit.cur.toList ++ s.readySlot.toList).any fun k => ((s.secRead (s.slot k).addr page 1).cause).isSome

/-- A word of a table that a generation in force or READY refers to is poisoned: CAL's records (R175), GOV's rail map
(R209). -/
def State.badTable (s : State) (page : Nat) : Bool := s.banks.any fun b =>
  if page = pCAL then s.storeRangeBad b.calAddr (24 * b.segW * b.segH)
  else page = pGOV && s.storeRangeBad (b.govFld R.GOV_RAILMAP_ADDR_ADDR * 64) (2 * b.segW * b.segH)

/-- VIO_STRg has not been in range for 10 ms: it is out of range, or has come back less than 10 ms ago (R241). -/
def State.vioUnsettled (s : State) (g : Nat) : Bool :=
  vioRange (s.pins.vioMv.getD g 0) = 0 || (match s.pins.vioBack.getD g none with
    | some t => s.now < t + 10000000
    | none => false)

/-- The cause of a fence has not gone, as far as the module's own state shows it (the "Gone when" columns of the
chapters); FENCE_CLEAR's operand adds the causes that only the outside shows. -/
def State.causeHolds (s : State) (f : Fence) : Bool :=
  if f.cause = causeClkTimeout then s.rst.down.contains f.page || s.rst.lost.contains f.page
  else if f.page = pPIPE && f.unit ≠ noUnit then match s.commit.burst with
    | some b => b.residue.contains f.unit
    | none => false
  else if f.cause = causeParent && f.page = pPIPE then s.banks.any fun b => b.bad.any fun x => x.1 ≠ pGOV
  else if f.unit = noUnit && (f.cause = causeSectionCrc || (f.cause = causeEcc && displayPages.contains f.page)) then
    s.badSection f.page || (f.cause = causeEcc && s.badTable f.page)
  else if pSTR 0 ≤ f.page && f.page ≤ pSTR 3 then s.vioUnsettled (f.page - pSTR 0)
  else if f.page = pMETERAC && f.cause ≠ causeEcc then s.meter.acBad.contains f.unit
  else if f.page = pMETERDC && f.cause ≠ causeEcc then s.meter.dcBad.contains f.unit
  else if f.page = pNET .a then s.pins.txfltA
  else if f.page = pNET .b then s.pins.txfltB
  else if f.page = pSTORE then s.storeCtl.unusable
  else if f.page = pSCHED then f.cause = 0x0100
  else if f.page = pRAIL then
    f.cause = causePmbMode || (f.cause = causePmbNoack && !(s.rail f.unit).statusOk) ||
    (f.cause = causePmbFault && statusFault (s.fld (R.RAIL_VOUT_STATUS_WORD f.unit))) ||
    (f.cause = causeOvervolt && !s.meter.ovBelow.getD f.unit false)
  else if f.page = pANCHOR then f.cause = 0x0100 || f.cause = 0x0102
  else if f.page = pPWR then s.pwr.retry
  else false

/-- What a page does when fences of it are released at a write: bits that show fenced units follow, and the units
come back as their chapters say. -/
def State.pageReleased (s : State) (page : Nat) (freed : List Fence) : State :=
  if freed = [] then s
  else if pSTR 0 ≤ page && page ≤ pSTR 3 then s.strandsReleased (page - pSTR 0)
  else if page = pRAIL then s.railsReleased
  else if page = pPIPE then
    (List.range 4).foldl (fun (t : State) (g : Nat) => if t.hasFence pPIPE g then t else t.setBit R.PIPE_STATUS_LANE_FENCED g false) s
  else if page = pNET .a then s.startAcquire .a
  else if page = pNET .b then s.startAcquire .b
  else if page = pSIDE then (if freed.any fun f => f.cause = causeEcc then s.sideEmpty else s)
  else if page = pCAIRN then { s with cairn := { s.cairn with tries := 0 } }
  else if page = pANCHOR then (if freed.any fun f => f.cause = 0x0101 then s.setFld R.ANCHOR_STATUS_ENT_OK 1 else s)
  else s

/-- Units of a display-plane page wait for the next frame boundary (R13), but for a port, which restarts at once (R108),
a lane (R187) and a rail, which keeps its own account (R260). -/
def returnsAtBoundary (page : Nat) : Bool :=
  displayPages.contains page && !([pNET .a, pNET .b, pRAIL].contains page)

/-- The release of a page that a clock holds in reset is requested again (R449). -/
def State.askRelease (s : State) (page : Nat) : State :=
  { s with rst := { s.rst with expired := s.rst.expired.filter fun p => p ≠ page } }

/-- A write of 1 to PG_FENCE.ACTIVE: every fence whose cause has gone is released, and only those; the release of a held
page is requested again. While no frames are timed there is no boundary to wait for. -/
def State.fenceGone (s : State) (page : Nat) (present : List Nat) : State :=
  let s := s.askRelease page
  let gone := fun (f : Fence) => !present.contains f.unit && !s.causeHolds f
  let freed := s.fences.filter fun f => f.page = page && gone f
  let t := s.releaseFences page gone
  let wait := freed.filter fun f => !(f.page = pPIPE && f.unit ≠ noUnit)
  let u := if returnsAtBoundary page then
      { t with returning := t.returning ++ wait.map fun f => (f.page, f.unit) }
    else t
  let w := u.pageReleased page freed
  if w.timing.isNone && w.returning ≠ [] then w.unitsReturn else w

/-- A write of PG_FENCE. -/
def State.fenceWrite (s : State) (m : Master) (page : Nat) (v : Word) (present : List Nat) : Res :=
  s.asWrite m page (pageRight page) fun t => .next (if v.getLsbD 31 then t.fenceGone page present else t)

/-- A write of a header register; none where its bits are plain (no such register is left). -/
def State.headerWrite (s : State) (m : Master) (page off : Nat) (v : Word) : Option Res :=
  if off = 0x004 then some (s.ctrlWrite m page v)
  else if off = 0x010 then some (s.enWrite m page v)
  else if off = 0x014 then some (s.statWrite m page v.toNat 0)
  else if off = 0x018 then some (s.fenceWrite m page v [])
  else if off = 0x01C then some (s.lockWrite m page v)
  else none

/-! ## Registers whose write is a command -/

/-- SYS, RST, PWR, RTC, CAIRN and WDT. -/
def State.infraWrite (s : State) (m : Master) (page off : Nat) (v : Word) : Option Res :=
  if page = pSYS then (if off = 0x0E0 then some (execRadioRegionSet m v s) else none)
  else if page = pRST then
    (if off = 0x048 then some (execResetRequest m v s) else if off = 0x058 then some (execRstOutWrite m v s) else none)
  else if page = pPWR then (if off = 0x044 then some (execPowerStateRequest m v s) else none)
  else if page = pRTC then
    (if off = 0x068 then some (execRtcSet m v s)
     else if off = 0x06C && v.toNat % 4 = 1 then some (execRtcDstAdd m (v.getLsbD 29) s)
     else if off = 0x06C && v.toNat % 4 = 2 then some (execRtcDstSub m (v.getLsbD 29) s)
     else none)
  else if page = pCAIRN then
    (if off = 0x044 && v.getLsbD 1 then some (execCairnFlushRequest m v s)
     else if off = 0x044 then some (execCairnFreeze m v s)
     else if off = 0x058 then some (execCairnCursorLoad m v s)
     else if off = 0x068 then some (execCairnRaise m v s)
     else none)
  else if page = pWDT then
    (if off = 0x044 then some (execWdtSysKick m v s) else if off = 0x058 then some (execWdtCoreKick m v s) else none)
  else none

/-- SCHED_CKPT: SAVE, then RESTORE. -/
def State.ckptWrite (s : State) (m : Master) (v : Word) : Res :=
  s.asWrite m pSCHED rightSecure fun t =>
    thenDo (if v.getLsbD 31 then execSchedCkptSave m t else .next t) fun (u : State) =>
      if v.getLsbD 30 then execSchedCkptRestore m u else .next u

/-- SCHED_TRACE_CTRL: RUN and WRAP, then CLR (R351, R352). -/
def State.traceCtrl (s : State) (m : Master) (v : Word) : Res :=
  let t := (s.disarm pSCHED).setFlds
    [(R.SCHED_TRACE_CTRL_RUN, bits v.toNat 31 31), (R.SCHED_TRACE_CTRL_WRAP, bits v.toNat 30 30)]
  if v.getLsbD 0 then execSchedTraceClear m t else .next t

/-- SCHED and IRQ. The PUSH registers and IRQ_THRESH are banked per hart; another master's write of them is ignored
(R344, R359), and so is a write of the trace registers without trace privilege (R352). -/
def State.workWrite (s : State) (m : Master) (page off : Nat) (v : Word) : Option Res :=
  if page = pSCHED then
    (if [0x600, 0x604, 0x610].contains off && !m.holds rightTrace then some (.next (s.disarm pSCHED))
     else if off = 0x05C then some (execSchedQflush m v s)
     else if off = 0x060 then some (s.ckptWrite m v)
     else if 0x100 ≤ off && off < 0x120 then match m with
       | .hart h _ =>
         if off = 0x11C then some (execSchedPush m v s)
         else some (.next ((s.disarm pSCHED).setHart h
           { s.hart h with push := (s.hart h).push.set ((off - 0x100) / 4) v.toNat }))
       | _ => some (.next (s.disarm pSCHED))
     else if off = 0x600 then some (s.traceCtrl m v)
     else none)
  else if page = pIRQ then
    (if off = 0x104 then some (execIrqComplete m v s)
     else if off = 0x108 then match m with
       | .hart h _ => some (.next ((s.disarm pIRQ).setHart h { s.hart h with thresh := v.toNat % 16 }))
       | _ => some (.next (s.disarm pIRQ))
     else none)
  else none

/-- COMMIT, GOV, RAIL, TELEM and METER_ACC. -/
def State.displayWrite (s : State) (m : Master) (page off : Nat) (v : Word) : Option Res :=
  if page = pCOMMIT then
    (if off = 0x054 && v.getLsbD 31 then some (execGenStageGo m (v.toNat % 4) s)
     else if off = 0x074 && v.getLsbD 0 then some (execGenAnnounceSend m s)
     else none)
  else if page = pGOV then (if off = 0x260 && v.getLsbD 0 then some (execGovSnapRequest m s) else none)
  else if page = pRAIL then (if off = 0x040 then some (execPmbusFwBus m (v.getLsbD 2) s) else none)
  else if page = pTELEM then
    (if off = 0x044 && v.getLsbD 0 then some (execTelemFlushRequest m s)
     else if off = 0x04C then some (execTelemRelease m s)
     else none)
  else if page = pMETERACC then
    (if off = 0x094 then some (execMeterDispClear m v s)
     else if off = 0x098 && v.getLsbD 0 then some (execMeterStmtRequest m s)
     else none)
  else none

/-- A write of ANCHOR_MBOX_CTRL: DONE is cleared by a 1, and GO runs the request that stands in the mailbox (R412). -/
def State.mboxWrite (s : State) (m : Master) (v : Word) : Res :=
  s.asWrite m pANCHOR rightSecure fun t =>
    let u := if v.getLsbD 29 then t.setFld R.ANCHOR_MBOX_CTRL_DONE 0 else t
    .next (if v.getLsbD 31 then u.mboxGo m u.mboxRequest .runs false else u)

/-- A write of UPD_CFG: the boot record keeps it, unless the page is locked (R431). -/
def State.updCfg (s : State) (m : Master) (v : Word) : Res :=
  s.asWrite m pUPD rightSecure fun t =>
    let health := bits v.toNat 27 16
    let attempts := bits v.toNat 3 0
    if t.flag (R.PG_LOCK_LOCKED pUPD) then .next t
    else if health < 10 || 3600 < health || attempts = 0 then .fault (.unpredictable 431)
    else .next (t.writeBoot true fun r => recPut (recPut r 12 (leBytes 1 attempts)) 14 (leBytes 2 health))

/-- A write of UPD_CTRL: the bits act from the lowest up (R434). -/
def State.updCtrl (s : State) (m : Master) (v : Word) : Res :=
  s.asWrite m pUPD rightSecure fun t =>
    let a := if v.getLsbD 0 then t.checkHdr else t
    let b := if v.getLsbD 1 then a.checkBody else a
    let c := if v.getLsbD 2 then b.program true else b
    .next (if v.getLsbD 3 then c.updAbort else c)

/-- A write of UPD_ACT_CTRL: ARM, then DISARM (R438). -/
def State.actCtrl (s : State) (m : Master) (v : Word) : Res :=
  s.asWrite m pUPD rightSecure fun t =>
    let a := if v.getLsbD 0 then t.armLocal else t
    .next (if v.getLsbD 1 then a.disarmActivation else a)

/-- ANCHOR, UPD and FLASH. -/
def State.secureWrite (s : State) (m : Master) (page off : Nat) (v : Word) : Option Res :=
  if page = pANCHOR then (if off = 0x080 then some (s.mboxWrite m v) else none)
  else if page = pUPD then
    (if off = 0x054 then some (s.updCfg m v)
     else if off = 0x058 then some (s.updCtrl m v)
     else if off = 0x068 then some (execUpdConfirm m v true s)
     else if off = 0x06C then some (execUpdBootreq m v s)
     else if off = 0x080 then some (s.actCtrl m v)
     else if off = 0x094 && v.getLsbD 0 then some (execUpdPactSend m s)
     else none)
  else if page = pFLASH then
    (if off = 0x04C && v.getLsbD 31 then
      some (s.asWrite m pFLASH rightSecure fun t =>
        if v.toNat % 4 = 0 then .fault (.unpredictable 17) else t.flashGo (v.toNat % 4) v)
     else none)
  else none

/-- The fields of LCP_XA_CTRL. A length above 4,096 breaks its range. -/
def State.xaSet (s : State) (v : Word) : State :=
  s.setFlds [(R.LCP_XA_CTRL_OP, bits v.toNat 30 29), (R.LCP_XA_CTRL_RIGHTS, bits v.toNat 28 23),
    (R.LCP_XA_CTRL_LEN, bits v.toNat 12 0)]

/-- A write of LCP_XA_CTRL as the access engine itself makes it: GO starts nothing, for the engine is running. -/
def State.xaFields (s : State) (m : Master) (v : Word) : Res :=
  s.asWrite m pLCP rightSecure fun t =>
    if 4096 < bits v.toNat 12 0 then .fault (.unpredictable 17) else .next (t.xaSet v)

/-- SIDE, LCP, HOSTSPI, I2C and UART. -/
def State.portWrite (s : State) (m : Master) (page off : Nat) (v : Word) : Option Res :=
  if page = pSIDE then (if off = 0x074 && v.getLsbD 31 then some (s.sideGo m (v.toNat % 16)) else none)
  else if page = pLCP then
    (if off = 0x06C then some (s.txWrite m v) else if off = 0x08C then some (s.xaFields m v) else none)
  else if page = pHOSTSPI then
    (if off = 0x044 then some (s.bellSet m v) else if off = 0x048 then some (s.bellClear m v) else none)
  else if page = pI2C 0 then (if off = 0x044 then some (s.i2cWrite m 0 v) else none)
  else if page = pI2C 1 then (if off = 0x044 then some (s.i2cWrite m 1 v) else none)
  else if page = pUART then (if off = 0x044 then some (s.uartWrite m v) else none)
  else none

/-- The meaning of a write that is a command; none where the bits' access types say it all. -/
def State.specialWrite (s : State) (m : Master) (page off : Nat) (v : Word) : Option Res :=
  if off < 0x020 then s.headerWrite m page off v
  else if (clearTable page off).isSome then some (s.cntClr m page off v)
  else ((((s.infraWrite m page off v).orElse fun _ => s.workWrite m page off v).orElse
    fun _ => s.displayWrite m page off v).orElse fun _ => s.secureWrite m page off v).orElse
    fun _ => s.portWrite m page off v

/-! ## Plain writes (R8) -/

/-- The right a write of a register needs (R359). HOSTSPI_CFG is written from M-mode only: the rule names no right for
it, and `writeRights` refuses every other master. -/
def regRight (page off : Nat) : Nat :=
  if page = pCOMMIT && ([0x050, 0x054].contains off || (0x068 ≤ off && off ≤ 0x074)) then rightConfig
  else if page = pRAIL && off = 0x040 then rightConfig
  else if page = pMETERACC && off = 0x094 then rightSecure
  else if page = pSCHED && [0x600, 0x604, 0x610].contains off then rightTrace
  else pageRight page

/-- The master may write the register. -/
def Master.mayWrite (m : Master) (page off : Nat) : Bool :=
  if page = pHOSTSPI && off = 0x040 then m.isMachine else m.holds (regRight page off)

/-- The bits a write can change. -/
def RegSpec.writes (r : RegSpec) : Nat := Nat.lor (Nat.lor (Nat.lor r.rw r.rwl) (Nat.lor r.w1c r.w1s)) (Nat.lor r.wok r.wo)

/-- The word a register holds after a plain write of `v` over `old` (R8). -/
def RegSpec.next (r : RegSpec) (locked : Bool) (old v : Nat) : Nat :=
  let m := if locked then r.rw else Nat.lor r.rw r.rwl
  let a := Nat.lor (Nat.land old (notBits m)) (Nat.land v m)
  let b := Nat.land a (notBits (Nat.land v r.w1c))
  Nat.lor b (Nat.land v r.w1s)

/-- The number of the rule that a value of a register breaks, if any: a range, or "must not be 0" (R17, R21). -/
def writeBreach (page off w : Nat) : Option Nat :=
  let no := fun (bad : Bool) (rule : Nat) => if bad then some rule else none
  if page = pCAIRN then
    (if off = 0x040 then no (bits w 15 0 = 0) 501
     else if 0x100 ≤ off && off < 0x300 && off % 16 = 4 then no (bitSet w 31 && bits w 15 0 = 0) 500
     else none)
  else if page = pUART then no (off = 0x040 && bits w 15 0 = 0) 21
  else if page = pRST then no (off = 0x050 && bits w 7 0 = 0) 21
  else if page = pPWR then
    (if off = 0x04C then no (bits w 15 0 = 0) 21
     else if off = 0x058 then
       no (bits w 31 16 < 1000 || 60000 < bits w 31 16 || bits w 31 16 < bits w 15 0) 17
     else none)
  else if page = pSIDEPHY then
    (if off = 0x040 then no (bits w 7 0 < 4 || 32 < bits w 7 0) 374
     else if off = 0x048 then no (bits w 7 0 = 0 || 250 < bits w 7 0) 17
     else none)
  else if pSTR 0 ≤ page && page ≤ pSTR 3 then no (off = 0x100 && 11 < bits w 3 0) 17
  else if page = pSCHED then
    (if 0x180 ≤ off && off < 0x200 && off % 16 = 0 then no (bits w 1 0 = 3) 17
     else if 0x200 ≤ off && off < 0x400 && off % 8 = 0 then no (4096 < bits w 12 0) 17
     else none)
  else if page = pANCHOR then no (off = 0x054 && 0x12 < bits w 4 0) 17
  else if page = pIRQ then no (off = 0x040 && w % 32 ≠ 0) 341
  else if page = pLCP then
    (if off = 0x060 then no (w % 2048 ≠ 0) 17
     else if off = 0x064 then no (64 < bits w 22 16) 17
     else if off = 0x088 then no (w % 8 ≠ 0) 17
     else none)
  else if page = pRTC then
    (if off = 0x070 then no (bits w 9 0 = 0x200) 17
     else if 0x080 ≤ off && off < 0x0C0 && off % 16 = 8 then no (86400 < bits w 16 0) 17
     else none)
  else none

/-- The rule a plain write breaks by the state around it: the watchdogs' timeouts (R355, R356), and a transmit slot
written while it is BUSY. -/
def State.stateBreach (s : State) (page off w : Nat) : Option Nat :=
  if page = pWDT then
    let sys := if off = 0x040 then w else s.fld R.WDT_SYS_CFG
    let en := if off = 0x050 then bits w 23 16 else s.fld R.WDT_CORE_CFG_EN
    let ms := if off = 0x054 then bits w 15 0 else s.fld R.WDT_CORE_TIMEOUT_MS
    if off = 0x040 && bitSet sys 31 && bits sys 15 0 = 0 then some 355
    else if (off = 0x050 || off = 0x054) && en ≠ 0 && ms = 0 then some 356
    else none
  else if page = pCAIRN && 0x100 ≤ off && off < 0x300 then
    let m := (off - 0x100) / 16
    let cfg := if off % 16 = 4 then w else (s.reg pCAIRN (0x104 + 16 * m)).toNat
    let step := if off % 16 = 12 then w else (s.reg pCAIRN (0x10C + 16 * m)).toNat
    if bitSet cfg 31 && step = 0 then some 17 else none
  else if page = pSIDE && 0x400 ≤ off && off < 0xC00 && s.flag (R.SIDE_TX_BUSY ((off - 0x400) / 0x80)) then some 17
  else none

/-- What follows a plain write that the register's own bits do not say: an alarm written or enabled is not done (R490),
EN of RTC_DISC clears REJECTED, outputs of GPIO move pins, a backup memory word is memory (R492). `was` holds the levels
at the GPIO pins before. -/
def State.written (s : State) (page off : Nat) (v : Word) (was : Nat) : State :=
  if page = pRTC && 0x080 ≤ off && off < 0x0C0 then
    let k := (off - 0x080) / 16
    if off % 16 ≠ 8 || v.getLsbD 31 then s.setFld (R.RTC_ALM_CTRL_DONE k) 0 else s
  else if page = pRTC && off = 0x074 && v.getLsbD 31 then s.setFld R.RTC_DISC_STAT_REJECTED 0
  else if page = pGPIO && off < 0x048 then s.gpioEdges was
  else s

/-- A plain write: each bit as its access type says. -/
def State.plainWrite (s : State) (m : Master) (page off : Nat) (v : Word) (r : RegSpec) : Res :=
  if r.writes = 0 then .next (s.disarm page)
  else if !m.mayWrite page off then .next (s.emit (.refused codeRights))
  else
    let t := s.disarm page
    let w := r.next (t.flag (R.PG_LOCK_LOCKED page)) (t.reg page off).toNat v.toNat
    if page = pAON && 0x080 ≤ off then
      .next { t with mem := { t.mem with bk := memWrite t.mem.bk (off - 0x080) (leBytes 4 v.toNat) } }
    else match writeBreach page off w, t.stateBreach page off w with
      | some rule, _ => .fault (.unpredictable rule)
      | none, some rule => .fault (.unpredictable rule)
      | none, none => .next ((t.setReg page off (BitVec.ofNat 32 w)).written page off v t.gpioLevels)

/-- A write of one register word of an existing page and aligned offset by a master: unassigned pages ignore it or
refuse it (R359), an absent block ignores it (R1), a reserved offset or bit must not be written (R9). -/
def State.regWrite (s : State) (m : Master) (page off : Nat) (v : Word) : Res :=
  if !pageAssigned page then .next (if m.isRemote then s.emit (.refused codeNoPage) else s)
  else if s.pageAbsent page then .next s
  else match findReg page off with
    | none => .fault (.unpredictable 9)
    | some r =>
      if Nat.land v.toNat (notBits r.known) ≠ 0 then .fault (.unpredictable 9)
      else match s.specialWrite m page off v with
        | some res => s.after res
        | none => s.plainWrite m page off v r

/-- A write at byte `off` of page `page` (R6, R333): a page beyond 0x4F or a misaligned offset is an access fault for a
core, and refused otherwise. -/
def State.busWrite (s : State) (m : Master) (page off : Nat) (v : Word) : Res :=
  let a := page * 0x1000 + off
  match m with
  | .hart h _ =>
    if a % 4 ≠ 0 || 0x50000 ≤ a then .next (s.coreTrap h excStoreAccess (0x40000000 + a))
    else s.regWrite m (a / 0x1000) (a % 0x1000) v
  | .lcp _ =>
    if a % 4 ≠ 0 then .next (s.emit (.refused codeAlign)) else s.regWrite m (a / 0x1000) (a % 0x1000) v
  | .hspi _ =>
    if a % 4 ≠ 0 then .next (s.emit (.refused codeAlign)) else s.regWrite m (a / 0x1000) (a % 0x1000) v
  | .block => if a % 4 ≠ 0 then .next s else s.regWrite m (a / 0x1000) (a % 0x1000) v

/-! ## Reads -/

/-- The registers whose read is a command (R265, R339, R347, R351, R388, R507, R517). -/
def State.specialRead (s : State) (m : Master) (page off : Nat) : Option Res :=
  if page = pIRQ && off = 0x100 then some (execIrqClaim m s)
  else if page = pSCHED && off = 0x140 then some (execSchedTake m s)
  else if page = pSCHED && off = 0x60C then some (execSchedTraceRead m s)
  else if page = pTELEM && off = 0x048 then some (execTelemPop m .clean s)
  else if page = pSIDE && off = 0x068 then some (execSideEvtPop m s)
  else if page = pCAIRN && off = 0x0BC then some (execCairnWinAdvance m s)
  else if page = pUART && off = 0x044 then some (execUartDataRead m s)
  else none

/-- The master may read the register: READ, and SECURE for ANCHOR beyond its header but for ANCHOR_STATUS and
ANCHOR_UNIT_ID (R358). -/
def Master.mayRead (m : Master) (page off : Nat) : Bool :=
  m.holds rightRead && (page ≠ pANCHOR || off ≤ 0x050 || m.holds rightSecure)

/-- A plain read: the word shown now; a latching register latches its companions, and one that uses up its latch does
so. -/
def State.plainRead (s : State) (m : Master) (page off : Nat) : State :=
  let w := s.regWord m page off
  let t := if latchOnce page off && (s.latched page off).isSome then
      { s with latches := mapDel (regKey page off) s.latches }
    else s.latch m page off
  (t.drawn).emit (.readData w)

/-- A read of one register word of an existing page and aligned offset. -/
def State.regRead (s : State) (m : Master) (page off : Nat) : Res :=
  if !pageAssigned page then .next (s.emit (if m.isRemote then .refused codeNoPage else .readData 0))
  else if !m.mayRead page off then .next (s.emit (.refused codeRights))
  else match s.specialRead m page off with
    | some r => s.after r
    | none => .next (s.plainRead m page off)

/-- A read at byte `off` of page `page` (R6, R333). -/
def State.busRead (s : State) (m : Master) (page off : Nat) : Res :=
  let a := page * 0x1000 + off
  match m with
  | .hart h _ =>
    if a % 4 ≠ 0 || 0x50000 ≤ a then .next (s.coreTrap h excLoadAccess (0x40000000 + a))
    else s.regRead m (a / 0x1000) (a % 0x1000)
  | .lcp _ => if a % 4 ≠ 0 then .next (s.emit (.refused codeAlign)) else s.regRead m (a / 0x1000) (a % 0x1000)
  | .hspi _ => if a % 4 ≠ 0 then .next (s.emit (.refused codeAlign)) else s.regRead m (a / 0x1000) (a % 0x1000)
  | .block => if a % 4 ≠ 0 then .next s else s.regRead m (a / 0x1000) (a % 0x1000)

/-! ## The rows that are register accesses -/

/-- PG_LOCK_WRITE. -/
def execPgLockWrite (m : Master) (page : Nat) (v : Word) (s : State) : Res := s.begin.busWrite m page 0x01C v

/-- COUNTER_CLEAR: a write of a CNT_CLR register. -/
def execCounterClear (m : Master) (page off : Nat) (v : Word) (s : State) : Res := s.begin.busWrite m page off v

/-- IRQ_STAT_CLEAR: the events of the same cycle win (R11). -/
def execIrqStatClear (m : Master) (page mask events : Nat) (s : State) : Res :=
  let s := s.begin
  if !pageAssigned page || s.pageAbsent page then s.busWrite m page 0x014 0 else s.statWrite m page mask events

/-- FENCE_CLEAR: a write of 1 to PG_FENCE.ACTIVE (R12). -/
def execFenceClear (m : Master) (page : Nat) (present : List Nat) (s : State) : Res :=
  let s := s.begin
  if !pageAssigned page || s.pageAbsent page then s.busWrite m page 0x018 0
  else s.fenceWrite m page 0x80000000#32 present

/-- IDLE_REQUEST: a write of 1 to PG_CTRL.IDLE_REQ, its other bits as they stand (R10). -/
def execIdleRequest (m : Master) (page : Nat) (s : State) : Res :=
  let s := s.begin
  s.busWrite m page 0x004 (BitVec.ofNat 32 (4 + s.fld (R.PG_CTRL_EN page)))

/-- HOSTSPI_BELL_SET. -/
def execHostspiBellSet (m : Master) (v : Word) (s : State) : Res := s.begin.busWrite m pHOSTSPI 0x044 v

/-- HOSTSPI_BELL_CLEAR. -/
def execHostspiBellClear (m : Master) (v : Word) (s : State) : Res := s.begin.busWrite m pHOSTSPI 0x048 v

/-- I2C_COMMAND. -/
def execI2cCommand (m : Master) (n : Nat) (v : Word) (s : State) : Res := s.begin.busWrite m (pI2C (n % 2)) 0x044 v

/-- UART_TX_BYTE. -/
def execUartTxByte (m : Master) (v : Word) (s : State) : Res := s.begin.busWrite m pUART 0x044 v

/-- LCP_TX_GO. -/
def execLcpTxGo (m : Master) (v : Word) (s : State) : Res := s.begin.busWrite m pLCP 0x06C v

/-- LATCHING_REGISTER_READ. -/
def execLatchingRegisterRead (m : Master) (page off : Nat) (s : State) : Res := s.begin.busRead m page off

/-- The wake scrub reads the generation, calibration and scree regions whole: what it finds is corrected, logged and
repaired as the patrol's reads are (R154, R155, R158). -/
def State.wakeScrub (s : State) : State :=
  (s.readWords 0 ingressBase 0xFE).readWords screeRegion (s.storeSize - screeRegion) 0xFE

/-- WAKE_SCRUB_DONE (R158). -/
def execWakeScrubDone (s : State) : Res :=
  let s := s.begin
  .next (if s.flag R.STORE_STATUS_WAKE_SCRUB then
    ((s.wakeScrub).setFld R.STORE_STATUS_WAKE_SCRUB 0).irq pSTORE 3 else s)

/-! ## CAIRN_METRIC_SAMPLE (R495, R500) -/

/-- The register at a metric's address: assigned, and none whose read latches, removes, pops or takes. -/
def metricSource (page off : Nat) : Bool :=
  pageAssigned page && page < 0x50 && (findReg page off).isSome && latchTable page off = [] &&
    !([(pIRQ, 0x100), (pSCHED, 0x140), (pSCHED, 0x60C), (pTELEM, 0x048), (pSIDE, 0x068), (pCAIRN, 0x0BC),
      (pUART, 0x044)].contains (page, off))

/-- A metric takes the sample `x` into its interval (R495). -/
def MetricS.take (x : Int) (lo step : Int) (m : MetricS) : MetricS :=
  let bin := if x < lo then 0 else if lo + 10 * step ≤ x then 11 else 1 + ((x - lo) / step).toNat
  { m with
    count := m.count + 1
    min := if m.count = 0 || x < m.min then x else m.min
    max := if m.count = 0 || m.max < x then x else m.max
    sum := m.sum + x
    hist := m.hist.set bin (Nat.min (m.hist.getD bin 0 + 1) 65535) }

/-- CAIRN_METRIC_SAMPLE. -/
def execCairnMetricSample (k : Nat) (s : State) : Res :=
  let s := s.begin
  if 32 ≤ k || !s.cairn.up || !s.flag (R.CAIRN_MET_CFG_EN k) || s.retLocked then .next s
  else
    let a := s.fld (R.CAIRN_MET_SRC_ADDR k)
    let page := (a - 0x40000000) / 0x1000
    let off := a % 0x1000
    if a < 0x40000000 || a % 4 ≠ 0 || !metricSource page off then .fault (.unpredictable 500)
    else
      let w := (s.regWord .block page off).toNat
      let t := s.drawn
      let shift := s.fld (R.CAIRN_MET_CFG_SHIFT k)
      let width := if s.fld (R.CAIRN_MET_CFG_WIDTH k) = 0 then 32 else s.fld (R.CAIRN_MET_CFG_WIDTH k)
      let raw := w / 2 ^ shift % 2 ^ width
      let signed := s.flag (R.CAIRN_MET_CFG_SIGNED k)
      let lo := s.fld (R.CAIRN_MET_LO_LO k)
      let loI : Int := if signed then toSigned 32 lo else lo
      let m := t.cairn.metrics.getD k {}
      let put := fun (x : MetricS) => Host.Outcome.next { t with cairn := { t.cairn with metrics := t.cairn.metrics.set k x } }
      if s.flag (R.CAIRN_MET_CFG_DELTA k) then match m.prev with
        | none => put { m with prev := some raw }
        | some p =>
          let x : Int := ((raw + 2 ^ width - p) % 2 ^ width : Nat)
          put ((({ m with prev := some raw }) : MetricS).take x loI (s.fld (R.CAIRN_MET_STEP_STEP k)))
      else
        let x : Int := if signed then toSigned width raw else raw
        put (m.take x loI (s.fld (R.CAIRN_MET_STEP_STEP k)))

end Sys2Proof.Machine
end

