-- ==== Sys2Proof/Machine/Lcp.lean ====
section
/-! DEFINITION. Runs of register words and store access for remote principals (R366, R368–R370), the access engine of
the LCP page, and LCP as the module answers it: sessions, requests and their responses (R361–R369, R437). -/
namespace Sys2Proof.Machine

/-- STATUS of R368. -/
def lcpOk : Nat := 0x0000
def lcpFormat : Nat := 0x0001
def lcpRights : Nat := 0x0002
def lcpAlign : Nat := 0x0003
def lcpNoPage : Nat := 0x0004
def lcpRange : Nat := 0x0005
def lcpInUse : Nat := 0x0006
def lcpBusy : Nat := 0x0007
def lcpNotOwner : Nat := 0x0008
def lcpGenRange : Nat := 0x0009
def lcpCal : Nat := 0x000A
def lcpImage : Nat := 0x000B
def lcpNotSummit : Nat := 0x000C
def lcpState : Nat := 0x000D

/-! ## Runs of register words (R366) -/

/-- What a run of word accesses gives: the state, the words read, and index and code of a refusal. -/
abbrev RunOut := State × List Word × Option (Nat × Nat)

/-- The word a read answered, or the code that refused an access. -/
def answerOf : List Output → Except Nat Word
  | [] => .ok 0
  | .readData w :: _ => .ok w
  | .refused c :: _ => .error c
  | _ :: t => answerOf t

/-- An output that is the answer of an access. -/
def isAnswer : Output → Bool
  | .readData _ => true
  | .refused _ => true
  | _ => false

/-- The state after an access of a run: what it answered goes into the run's own answer, the rest is sent. -/
def State.absorbOut (s t : State) : State := { t with out := s.out ++ t.out.filter fun o => !isAnswer o }

/-- A read at a register address (core addressing, R333). -/
def State.readAt (s : State) (m : Master) (a : Nat) : Res :=
  if a < 0x40000000 then .next (s.emit (.refused (if a % 4 = 0 then codeNoPage else codeAlign)))
  else s.busRead m ((a - 0x40000000) / 0x1000) (a % 0x1000)

/-- A write at a register address. -/
def State.writeAt (s : State) (m : Master) (a : Nat) (v : Word) : Res :=
  if a < 0x40000000 then .next (s.emit (.refused (if a % 4 = 0 then codeNoPage else codeAlign)))
  else s.busWrite m ((a - 0x40000000) / 0x1000) (a % 0x1000) v

/-- `n` words read from address `a` on, word `i` first: the run stops at the first refused word. -/
def State.readRun (m : Master) (a i : Nat) : Nat → State → (RunOut → Res) → Res
  | 0, s, k => k (s, [], none)
  | n + 1, s, k => match s.begin.readAt m (a + 4 * i) with
    | .next t => match answerOf t.out with
      | .error c => k (s.absorbOut t, [], some (i, c))
      | .ok w => State.readRun m a (i + 1) n (s.absorbOut t) fun (r : RunOut) => k (r.1, w :: r.2.1, r.2.2)
    | .fault e => .fault e
    | .refused e => .refused e

/-- Words written by `put` from address `a` on, in rising order, up to the first refused one (R366). -/
def State.storeWords (put : State → Nat → Word → Res) (a i : Nat) : List Word → State → (RunOut → Res) → Res
  | [], s, k => k (s, [], none)
  | v :: vs, s, k => match put s.begin (a + 4 * i) v with
    | .next t => match answerOf t.out with
      | .error c => k (s.absorbOut t, [], some (i, c))
      | .ok _ => State.storeWords put a (i + 1) vs (s.absorbOut t) k
    | .fault e => .fault e
    | .refused e => .refused e

/-! ## Store access (R139, R150, R369) -/

/-- A master that is no core finds the store not ready (R139). -/
def State.storeBusy (s : State) : Bool := s.storeCtl.unusable || !s.flag R.STORE_STATUS_INIT_DONE

/-- The second is being resynchronised: its generation data is not to be changed (R318). -/
def State.resyncing (s : State) : Bool := s.flag R.BELAY_STATUS_RESYNC_BUSY && !s.flag R.BELAY_STATUS_LEAD

/-- `n` bytes of the store for a principal: the bytes read, and STATUS and byte index where the read is refused or ends
at a poisoned word (R369). At most `most` bytes. -/
def State.storeGet (s : State) (rights a n most page : Nat) : State × List Byte × Option (Nat × Nat) :=
  if n % 8 ≠ 0 || most < n then (s, [], some (lcpRange, 0))
  else if n = 0 then (s, [], none)
  else if !bitSet rights rightRead then (s, [], some (lcpRights, 0))
  else if s.storeSize < a + n then (s, [], some (lcpNoPage, 0))
  else if s.storeBusy then (s, [], some (lcpBusy, 0))
  else match s.firstBad a n with
    | none => (s.blockReads a n page, s.storeRead a n, none)
    | some w => (s.blockReads a (w * 8 + 8 - a) page, s.storeRead a (w * 8 - a), some (lcpRange, w * 8 - a))

/-- Slot k as the store holds it now: what a staging in progress is reading stands for its slot (R99). -/
def State.slotNow (s : State) (k : Nat) : GenSlot := match s.commit.staging with
  | some (j, a) => if j = k then s.readSlot a 0 else s.slot k
  | none => s.slot k

/-- The bytes of the store that slot k refers to, its scree loop among them (R99, R141). -/
def State.slotRefs (s : State) (k : Nat) : List CopyRange :=
  let g := s.slotNow k
  let ing := g.ingest.getD []
  let base := leAt (((s.secRead g.addr pSCREE 1).bytes?).getD []) 0 4 * 64
  let stride := screeStride (secFld ing R.INGEST_SEG_W) (secFld ing R.INGEST_SEG_H)
  CopyRange.mk base (leAt g.party 24 4 * stride) true :: s.slotRanges g

/-- A slot not EMPTY or RETIRED that refers to one of `n` bytes from `a` (R368 IN_USE). -/
def State.usedBy (s : State) (a n : Nat) : Option Nat :=
  (List.range 4).find? fun k => !s.slotFree k && (s.slotRefs k).any fun (r : CopyRange) =>
    r.len ≠ 0 && decide (a < r.addr + r.len) && decide (r.addr < a + n)

/-- The region of an address belongs to generation data: generation, calibration or scree. -/
def genData (a : Nat) : Bool := storeRegion a = 0 || storeRegion a = 1 || storeRegion a = 6

/-- STATUS and DETAIL that refuse a store write of `n` bytes at `a`, before anything is written (R369). `owner` tells
whether the module may change generation data: none, or the DETAIL of NOT_OWNER. -/
def State.putRefusal (s : State) (rights a n most : Nat) (owner : Option Nat) : Option (Nat × Nat) :=
  let last := a + n - 1
  if n % 8 ≠ 0 || most < n then some (lcpRange, 0)
  else if n = 0 then none
  else if s.storeSize < a + n then some (lcpNoPage, 0)
  else if [storeRegion a, storeRegion last].any fun r => r = 2 || r = 3 then some (lcpRange, 0)
  else if [storeRegion a, storeRegion last].any fun r => !bitSet rights (if r = 5 then rightSecure else rightConfig) then
    some (lcpRights, 0)
  else if s.storeBusy || ((genData a || genData last) && s.resyncing) then some (lcpBusy, 0)
  else if genData a || genData last then match owner with
    | some d => some (lcpNotOwner, d)
    | none => (s.usedBy a n).map fun k => (lcpInUse, k)
  else none

/-- Write bytes to the store for a master that is no core: the write ends at a poisoned word it covers in part (R150);
the index of that word's first byte is answered. -/
def State.storePut (s : State) (a : Nat) (bs : List Byte) (page : Nat) : State × Option Nat :=
  let edges := (if a % 8 = 0 then [] else [a / 8]) ++ (if (a + bs.length) % 8 = 0 then [] else [(a + bs.length) / 8])
  match edges.find? fun w => s.mem.storeBad.contains w && bs ≠ [] with
  | none => ((s.blockWrite a bs page).wroteCode (storeCode a) bs.length, none)
  | some w =>
    let i := w * 8 - a
    (((s.blockWrite a (bs.take i) page).wroteCode (storeCode a) i).readWords (w * 8) 8 page, some i)

/-! ## The access engine (LCP_XA registers) -/

/-- The engine's access ends: INDEX and CODE, GO reads 0, and PG_IRQ_RAW[2] on LCP. -/
def State.xaEnd (s : State) (code index : Nat) : State :=
  (s.setFlds [(R.LCP_XA_STAT_INDEX, index), (R.LCP_XA_STAT_CODE, code), (R.LCP_XA_CTRL_GO, 0)]).irq pLCP 2

/-- How a run of words ended, for a length of `len` bytes: a rest narrower than a word is refused with ALIGN (R6). -/
def xaCode (len : Nat) : Option (Nat × Nat) → Nat × Nat
  | some (i, c) => (c, i)
  | none => if len % 4 = 0 then (lcpOk, 0) else (lcpAlign, len / 4)

/-- GO of LCP_XA_CTRL: the access runs with the RIGHTS of the register, between the data buffer in shared SRAM and the
pages or the store; it ends at once (assumption log, entry 16). -/
def State.xaGo (s : State) (m : Master) (v : Word) : Res :=
  s.asWrite m pLCP rightSecure fun t =>
    let op := bits v.toNat 30 29
    let rights := bits v.toNat 28 23
    let len := bits v.toNat 12 0
    let buf := t.fld R.LCP_XA_BUF_ADDR
    let lo := t.fld R.LCP_XA_ADDR_LO_A_LO
    let a := lo + 2 ^ 32 * t.fld R.LCP_XA_ADDR_HI_A_HI
    let u := t.xaSet v
    if 4096 < len || !inSram buf len then .fault (.unpredictable 17)
    else if op = 0 then
      State.readRun (.lcp rights) lo 0 (len / 4) u fun (r : RunOut) =>
        let w := r.1.sramWrite none (buf - 0x10000000) (r.2.1.flatMap fun (x : Word) => leBytes 4 x.toNat)
        let e := xaCode len r.2.2
        .next (w.xaEnd e.1 e.2)
    else if op = 1 then
      let ws : List Word := (List.range (len / 4)).map fun i => BitVec.ofNat 32 (leNat (u.sramRead (buf + 4 * i) 4))
      State.storeWords (fun (x : State) (b : Nat) (d : Word) => x.writeAt (.lcp rights) b d) lo 0 ws u fun (r : RunOut) =>
        let e := xaCode len r.2.2
        .next (r.1.xaEnd e.1 e.2)
    else if op = 2 then
      let r := u.storeGet rights a len 4096 pLCP
      let w := r.1.sramWrite none (buf - 0x10000000) r.2.1
      let e := r.2.2.getD (lcpOk, 0)
      .next (w.xaEnd e.1 e.2)
    else match u.putRefusal rights a len 4096 none with
      | some (c, _) => .next (u.xaEnd c 0)
      | none =>
        let r := u.storePut a (u.sramRead buf len) pLCP
        .next (match r.2 with
          | some i => r.1.xaEnd lcpRange i
          | none => r.1.xaEnd lcpOk 0)

/-- A register write by a master other than the engine: as on the bus, and GO of LCP_XA_CTRL starts the engine. -/
def State.masterWrite (s : State) (m : Master) (page off : Nat) (v : Word) : Res :=
  if page = pLCP && off = 0x08C && v.getLsbD 31 && Nat.land v.toNat 0x7FE000 = 0 then s.after (s.begin.xaGo m v)
  else s.busWrite m page off v

/-- A word of a remote principal's WRITE, at its register address. -/
def State.remoteWrite (m : Master) (s : State) (a : Nat) (v : Word) : Res :=
  if a < 0x40000000 then s.writeAt m a v else s.masterWrite m ((a - 0x40000000) / 0x1000) (a % 0x1000) v

/-- REGISTER_WRITE (R8). -/
def execRegisterWrite (m : Master) (page off : Nat) (v : Word) (s : State) : Res := s.begin.masterWrite m page off v

/-- A write of LCP_XA_CTRL with GO and an OP. -/
def State.xaCommand (s : State) (m : Master) (op : Nat) (v : Word) : Res :=
  s.begin.masterWrite m pLCP 0x08C (BitVec.ofNat 32 (insertBits (insertBits v.toNat 30 29 op) 31 31 1))

/-- LCP_XA_REG_READ. -/
def execLcpXaRegRead (m : Master) (v : Word) (s : State) : Res := s.xaCommand m 0 v
/-- LCP_XA_REG_WRITE. -/
def execLcpXaRegWrite (m : Master) (v : Word) (s : State) : Res := s.xaCommand m 1 v
/-- LCP_XA_STORE_READ. -/
def execLcpXaStoreRead (m : Master) (v : Word) (s : State) : Res := s.xaCommand m 2 v
/-- LCP_XA_STORE_WRITE. -/
def execLcpXaStoreWrite (m : Master) (v : Word) (s : State) : Res := s.xaCommand m 3 v

/-! ## Sessions (R361–R365) -/

/-- The control plane runs and LCP answers (R327, R361). -/
def State.lcpServes (s : State) : Bool :=
  !s.rst.down.contains pLCP && !s.cpDown && s.rst.phase = .none && s.power ≤ pwrBivouac &&
    (!s.inBivouac || s.flag R.PWR_STATE_CP_AWAKE)

/-- A datagram is dropped without an answer and counted by code 0x0101 + k (R364). -/
def State.lcpDrop (s : State) (k : Nat) : State :=
  { s with lcp := { s.lcp with drops := s.lcp.drops.set k (s.lcp.drops.getD k 0 + 1) } }

/-- An open session. -/
def State.session (s : State) (id : Nat) : Option LcpSession := s.lcp.sessions.find? fun (x : LcpSession) => x.id = id

/-- Replace the session of the same identifier. -/
def State.setSession (s : State) (x : LcpSession) : State :=
  { s with lcp := { s.lcp with sessions := s.lcp.sessions.map fun (y : LcpSession) => if y.id = x.id then x else y } }

/-- A session's image transfer closes with it, unless programming runs, which nothing of R434 then interrupts. -/
def State.dropTransfer (s : State) (id : Nat) : State :=
  if s.flag R.UPD_STATE_XFER && s.upd.session = some id && s.upd.op = 0 then s.closeTransfer else s

/-- A session closes (R363). -/
def State.closeSession (s : State) (id : Nat) : State :=
  let t := { s with lcp := { s.lcp with sessions := s.lcp.sessions.filter fun (x : LcpSession) => x.id ≠ id } }
  t.dropTransfer id

/-- A SEQ seen already, or more than 63 below the highest accepted (R364 code 0x0105). -/
def LcpSession.replayed (x : LcpSession) (seq : Nat) : Bool :=
  x.seen.contains seq || x.seen.any fun y => decide (seq + 63 < y)

/-- A SEQ is accepted; the window keeps the 64 below the highest. -/
def LcpSession.accept (x : LcpSession) (seq : Nat) : LcpSession :=
  let all := seq :: x.seen
  let top := all.foldl max 0
  { x with seen := all.filter fun y => top ≤ y + 63 }

/-- Bytes of a HELLO: header, KEY_ID, NONCE_C, EPH_C, SIG_C (R361, R362). -/
def helloOk (b : List Byte) : Bool :=
  b.length = 168 && beAt b 0 2 = 0x4C43 && beAt b 2 1 = 1 && beAt b 3 1 = 1 && beAt b 4 4 = 0 && beAt b 12 2 = 168 &&
    beAt b 14 2 = 0

/-- The entry of the principal table in force whose key signed a HELLO: its index and rights (R362, R418). -/
def State.helloEntry (s : State) (b : List Byte) : Option (Nat × Nat) :=
  let t := s.anchor.table
  let keyId := (b.drop 16).take 8
  match (List.range (leAt t 6 2)).find? fun i => (t.drop (16 + 80 * i)).take 8 = keyId with
  | none => none
  | some i => match tableEntry t keyId with
    | none => none
    | some (rights, pub) =>
      if Config.ecVerify 4 pub (fixLen 32 (Config.sha256 (b.take 104))) (b.drop 104) then some (i, rights) else none

/-- A session identifier not open and not 0: a free value, or the next that is free. -/
def State.newSession (s : State) : Nat :=
  let n := s.freeBits 32
  (((List.range 16).map fun j => (n + j) % 2 ^ 32).find? fun i => i ≠ 0 && (s.session i).isNone).getD 1

/-- A HELLO_REPLY as sent: it carries no TAG and is not encrypted (R361). -/
def helloMessage (session : Nat) (msg : List Byte) : Output := .lcpMessage session 0 msg msg

/-- A HELLO_REPLY: header, STATUS, RIGHTS, SESSION, NONCE_M, EPH_M, and its signature by the module identity key (R362).
Its SEQ is free. -/
def State.helloReply (s : State) (status rights session : Nat) (nonce eph : List Byte) : State :=
  let msg := beBytes 2 0x4C43 ++ [1, 2] ++ beBytes 4 session ++ beBytes 4 (s.freeBits 32) ++ beBytes 2 168 ++ beBytes 2 0 ++
    beBytes 2 status ++ beBytes 1 rights ++ [0] ++ beBytes 4 session ++ fixLen 16 nonce ++ fixLen 64 eph
  let t := s.drawn
  (t.drawn).emit (helloMessage session (msg ++ t.signWith 4 Config.identKey (fixLen 32 (Config.sha256 msg))))

/-- LCP_HELLO (R362–R364): the keys are agreed by Anchor (R417); an ephemeral key that is no point is dropped like a bad
signature. -/
def execLcpHello (_port : Port) (b : List Byte) (s : State) : Res :=
  let s := s.begin
  if !s.lcpServes then .next s
  else if !helloOk b then .next (s.lcpDrop 0)
  else match s.helloEntry b with
    | none => .next (s.lcpDrop 1)
    | some (entry, rights) =>
      if 8 ≤ s.lcp.sessions.length then
        let junk := s.drawn.secret 80
        .next (s.drawn.drawn.helloReply lcpBusy (s.freeBits 8) (s.freeBits 40 / 256) (junk.take 16) (junk.drop 16))
      else
        let id := s.newSession
        let r := s.drawn.mbLcpAgree (leBytes 4 id ++ (b.drop 24).take 80)
        if r.2.1 ≠ stOk then .next (s.lcpDrop 1)
        else
          let keys := (r.1.anchor.sessions.filter fun (e : Nat × Nat × List Byte) => e.2.1 = id).flatMap fun e => e.2.2
          let x : LcpSession := { id := id, entry := entry, rights := rights, keys := keys }
          let t := { r.1 with lcp := { r.1.lcp with sessions := r.1.lcp.sessions ++ [x] } }
          .next (t.helloReply lcpOk rights id (r.2.2.take 16) ((r.2.2.drop 16).take 64))

/-- LCP_CLOSE (R363). -/
def execLcpClose (session seq : Nat) (s : State) : Res :=
  let s := s.begin
  if !s.lcpServes then .next s
  else match s.session session with
    | none => .next (s.lcpDrop 2)
    | some x => .next (if x.replayed seq then s.lcpDrop 4 else s.closeSession session)

/-- LCP_SESSION_TIMEOUT: 60 s without a valid REQUEST (R363). -/
def execLcpSessionTimeout (session : Nat) (s : State) : Res := .next (s.begin.closeSession session)

/-- LCP_DATAGRAM_DROP (R364). -/
def execLcpDatagramDrop (code : Nat) (s : State) : Res :=
  let s := s.begin
  .next (if s.lcpServes && [0x0101, 0x0102, 0x0104].contains code then s.lcpDrop (code - 0x0101) else s)

/-! ## Requests (R365, R366) -/

/-- The header of a message of `n` bytes of body, with its TAG to follow (R361). -/
def lcpHeader (kind session seq n : Nat) : List Byte :=
  beBytes 2 0x4C43 ++ [1, BitVec.ofNat 8 kind] ++ beBytes 4 session ++ beBytes 4 seq ++ beBytes 2 (32 + n) ++ [0, 0]

/-- A RESPONSE as sent: its header as additional data, its body encrypted with AES-128-GCM under the module-to-client key
and the nonce of DIR 1, SESSION and SEQ, and its TAG (R362, R363). -/
def LcpSession.seal (x : LcpSession) (seq : Nat) (body : List Byte) : List Byte :=
  let head := lcpHeader 4 x.id seq body.length
  let key := (x.keys.drop 16).take 16
  let nonce := [1, 0, 0, 0] ++ beBytes 4 x.id ++ beBytes 4 seq
  head ++ Config.cipherData 1 key nonce head body ++ Config.cipherTag 1 key nonce head body

/-- A RESPONSE: its body, and the datagram that carries it. -/
def LcpSession.message (x : LcpSession) (seq : Nat) (body : List Byte) : Output :=
  .lcpMessage x.id seq body (x.seal seq body)

/-- The RESPONSE of a request: its STATUS, DETAIL and data; it is kept for a repeat, and a session whose next SEQ would
pass 0xFFFF_FFFF closes (R363, R365). -/
def State.respond (s : State) (q : LcpReq) (op status detail : Nat) (data : List Byte) : State :=
  match s.session q.session with
  | none => s
  | some x =>
    let n := x.tx + 1
    let body := beBytes 1 op ++ [0] ++ beBytes 2 q.reqId ++ beBytes 2 status ++ beBytes 2 detail ++ data
    let t := (s.setSession { x with tx := n, done := ((q.seq, n, body) :: x.done).take 4 }).emit (x.message n body)
    if n = 0xFFFFFFFF then t.closeSession x.id else t

/-- How an operation answers: state, STATUS, DETAIL and data. -/
abbrev LcpAnswer := State → Nat → Nat → List Byte → Res

/-- A REQUEST whose tag has verified: a repeat of one of the last four is answered from the cache, a SEQ seen or too
old is dropped, and any other is executed, or answered FORMAT where its body is malformed (R364, R365, R368). -/
def State.lcpRequest (s : State) (q : LcpReq) (op : Nat) (run : LcpSession → State → LcpAnswer → Res) : Res :=
  let s := s.begin
  if !s.lcpServes then .next s
  else match s.session q.session with
    | none => .next (s.lcpDrop 2)
    | some x => match x.done.find? fun (d : Nat × Nat × List Byte) => d.1 = q.seq with
      | some d => .next (s.emit (x.message d.2.1 d.2.2))
      | none =>
        if x.replayed q.seq then .next (s.lcpDrop 4)
        else match q.malformed with
          | some o => .next ((s.setSession (x.accept q.seq)).respond q o lcpFormat 0 [])
          | none => run x (s.setSession (x.accept q.seq)) fun t status detail data => .next (t.respond q op status detail data)

/-- The segment's owner as far as this module knows: an acting summit by its leases, any other module by what its
firmware keeps, which no register and no command shows: a free value (R322, R323). The DETAIL of NOT_OWNER where it is
not the owner. -/
def State.ownerCode (s : State) : State × Option Nat :=
  if s.role = roleSummit then match s.ownSegment with
    | none => (s, some 0xFFFF)
    | some g => match s.lcp.leases.find? fun (l : Nat × Nat × Nat × Nat) => l.1 = g && decide (s.ptp.ns < l.2.2.2) with
      | none => (s, some 0xFFFF)
      | some l => (s, if s.ownId = some l.2.1 && s.ptp.ns + 1000000000 < l.2.2.2 then none else some l.2.1)
  else (s.drawn, if s.freeBits 1 = 1 then none else some (s.freeBits 17 / 2))

/-- LCP_READ. -/
def execLcpRead (q : LcpReq) (addr count : Nat) (s : State) : Res :=
  s.lcpRequest q 0x01 fun x t k =>
    if 256 < count then k t lcpFormat 0 []
    else State.readRun (.lcp x.rights) addr 0 count t fun (r : RunOut) => match r.2.2 with
      | none => k r.1 lcpOk 0 (r.2.1.flatMap fun (w : Word) => beBytes 4 w.toNat)
      | some (i, c) => k r.1 c i []

/-- LCP_WRITE. -/
def execLcpWrite (q : LcpReq) (addr : Nat) (words : List Word) (s : State) : Res :=
  s.lcpRequest q 0x02 fun x t k => State.storeWords (State.remoteWrite (.lcp x.rights)) addr 0 words t fun (r : RunOut) => match r.2.2 with
    | none => k r.1 lcpOk 0 []
    | some (i, c) => k r.1 c i []

/-- LCP_STORE_READ. A read that ends at a poisoned word answers the bytes before it with DETAIL 0xFFFF (R369). -/
def execLcpStoreRead (q : LcpReq) (addr length : Nat) (s : State) : Res :=
  s.lcpRequest q 0x03 fun x t k =>
    let bad := (t.firstBad addr length).isSome
    let r := t.storeGet x.rights addr length 1024 pLCP
    match r.2.2 with
    | none => k r.1 lcpOk 0 r.2.1
    | some (c, _) =>
      if c = lcpRange && bad && length % 8 = 0 && length ≤ 1024 then k r.1 c 0xFFFF r.2.1 else k r.1 c 0 []

/-- LCP_STORE_WRITE. -/
def execLcpStoreWrite (q : LcpReq) (addr length : Nat) (data : List Byte) (s : State) : Res :=
  s.lcpRequest q 0x04 fun x t0 k =>
    let o := t0.ownerCode
    let t := o.1
    if data.length ≠ length then k t lcpFormat 0 []
    else match t.putRefusal x.rights addr length 1024 o.2 with
      | some (c, d) => k t c d []
      | none =>
        let r := t.storePut addr data pLCP
        match r.2 with
        | some _ => k r.1 lcpRange 0xFFFF []
        | none => k r.1 lcpOk 0 []

/-- LCP_GEN_STAGE (R367): the descriptor is checked whole, and staged under R99. -/
def execLcpGenStage (q : LcpReq) (slot addr : Nat) (s : State) : Res :=
  s.lcpRequest q 0x05 fun x t0 k =>
    let o := t0.ownerCode
    let t := o.1
    let a := addr * 64
    if 3 < slot then k t lcpFormat 0 []
    else if !bitSet x.rights rightConfig then k t lcpRights 0 []
    else if t.storeBusy || t.resyncing || t.commit.staging.isSome then k t lcpBusy 0 []
    else match o.2 with
      | some d => k t lcpNotOwner d []
      | none => match t.lcpBreach a with
        | some b => k t lcpGenRange (b.page * 256 + b.reason) []
        | none =>
          if !t.slotFree slot then k t lcpState slot []
          else match t.slotHolding (t.genIdAt a) with
            | some h => k t lcpState h []
            | none => k (((t.disarm pCOMMIT).setFld R.COMMIT_STAGE_ADDR_ADDR addr).startStage slot a) lcpOk 0 []

/-- LCP_CAL_INSTALL (R177, R367): the file at SRC is checked, then its body copied to DST. -/
def execLcpCalInstall (q : LcpReq) (src dst len : Nat) (s : State) : Res :=
  s.lcpRequest q 0x06 fun x t0 k =>
    let o := t0.ownerCode
    let t := o.1
    let a := src * 64
    let b := dst * 64
    let n := len - 128
    if !bitSet x.rights rightConfig then k t lcpRights 0 []
    else if t.storeBusy || t.resyncing then k t lcpBusy 0 []
    else match o.2 with
      | some d => k t lcpNotOwner d []
      | none =>
        if t.storeSize < a + len then k t lcpNoPage 0 []
        else if (t.firstBad a len).isSome then k (t.blockReads a len pLCP) lcpRange 0xFFFF []
        else
          let u := t.blockReads a len pLCP
          let c := calCode len (t.storeRead a len)
          if c ≠ 0 then k u lcpCal c []
          else if t.storeSize < b + n then k u lcpNoPage 0 []
          else if storeRegion b ≠ 1 || storeRegion (b + n - 1) ≠ 1 then k u lcpRange 0 []
          else match t.usedBy b n with
            | some j => k u lcpInUse j []
            | none => k (u.blockWrite b (t.storeRead (a + 128) n) pLCP) lcpOk 0 []

/-- LCP_RESET: the RESPONSE is sent, and the reset starts 10 ms later through RST_REQ, with the session's entry of the
principal table as DETAIL (R366, R442, R443). -/
def execLcpReset (q : LcpReq) (scope : Nat) (s : State) : Res :=
  s.lcpRequest q 0x07 fun x t k =>
    if scope ≠ 1 && scope ≠ 2 then k t lcpFormat 0 []
    else if !bitSet x.rights rightReset then k t lcpRights 0 []
    else
      let u := (t.disarm pRST).setRst
        { t.rst with reqSource := if scope = 1 then 0x12 else 0x21, reqDetail := x.entry, reqNs := 0 }
      k (u.setFlds [(R.RST_REQ_STAT_PENDING, 1), (R.RST_REQ_STAT_SCOPE, scope), (R.RST_REQ_STAT_REMAIN_MS, 10)]) lcpOk 0 []

/-! ## Ownership (R323, R324) -/

/-- The last grant of a segment. -/
def State.leaseOf (s : State) (segment : Nat) : Option (Nat × Nat × Nat × Nat) :=
  s.lcp.leases.find? fun (l : Nat × Nat × Nat × Nat) => l.1 = segment

/-- The summit's decision on a claim (R323): the holder's renewal is granted; an unexpired lease refuses others unless
its holder is gone for 2 s, which is a free value here, for no register keeps how long; and for LEASE_S after taking
the role a summit grants only renewals, whose epoch it cannot check: a free value (R324). -/
def State.claimGranted (s : State) (segment holder : Nat) : State × Bool :=
  let lease := s.fld R.PARTY_NET_LEASE_S * 1000000000
  match s.leaseOf segment with
  | some l =>
    if l.2.1 = holder then (s, true)
    else if s.ptp.ns < l.2.2.2 then (s.drawn, s.freeBits 1 = 1)
    else (s, true)
  | none => if s.ptp.ns < s.party.summitAt + lease then (s.drawn, s.freeBits 1 = 1) else (s, true)

/-- The grant that a claim is answered with: SEGMENT, HOLDER, EPOCH, EXPIRY and RESULT (R366). -/
def grantBytes (segment holder epoch expiry result : Nat) : List Byte :=
  beBytes 2 segment ++ beBytes 2 holder ++ beBytes 4 epoch ++ beBytes 6 (expiry / 1000000000) ++
    beBytes 4 (expiry % 1000000000) ++ beBytes 1 result ++ [0]

/-- LCP_OWN_CLAIM. A grant's epoch is one more than the segment's previous one; where this summit knows none, it is
free. -/
def execLcpOwnClaim (q : LcpReq) (segment module : Nat) (s : State) : Res :=
  s.lcpRequest q 0x08 fun x t k =>
    if !bitSet x.rights rightLive then k t lcpRights 0 []
    else if t.role ≠ roleSummit then k t lcpNotSummit 0 []
    else
      let d := t.claimGranted segment module
      let u := d.1
      let old := u.leaseOf segment
      let epoch := match old with
        | some l => (l.2.2.1 + 1) % 2 ^ 32
        | none => u.freeBits 32
      let expiry := u.ptp.ns + u.fld R.PARTY_NET_LEASE_S * 1000000000
      if d.2 then
        let kept := u.lcp.leases.filter fun (l : Nat × Nat × Nat × Nat) => l.1 ≠ segment
        let w := { u.drawn with lcp := { u.lcp with leases := kept ++ [(segment, module, epoch, expiry)] } }
        k w lcpOk 0 (grantBytes segment module epoch expiry 0)
      else match old with
        | some l => k u lcpOk 0 (grantBytes segment l.2.1 l.2.2.1 l.2.2.2 1)
        | none => k u lcpOk 0 (grantBytes segment 0xFFFF 0 0 1)

/-! ## Image operations (R437) -/

/-- The session holds the transfer that is open. -/
def State.holdsTransfer (s : State) (id : Nat) : Bool := s.flag R.UPD_STATE_XFER && s.upd.session = some id

/-- LCP_IMG_BEGIN: the header is checked under R427; one that is refused leaves the transfer and the staging area as they
were (R16). -/
def execLcpImgBegin (q : LcpReq) (header : List Byte) (s : State) : Res :=
  s.lcpRequest q 0x10 fun x t k =>
    if header.length ≠ 512 then k t lcpFormat 0 []
    else if !bitSet x.rights rightSecure then k t lcpRights 0 []
    else if t.storeBusy || t.upd.op ≠ 0 then k t lcpBusy 0 []
    else
      let u := t.blockWrite imgHdrAddr header pLCP
      let c := u.stagedCode (some x.id)
      if c ≠ 0 then k (t.updEnd c 1) lcpImage c []
      else
        let w := (u.updEnd 0 1).openTransfer (some x.id)
        k w lcpOk 0 (beBytes 1 (w.fld R.UPD_STATE_TARGET) ++ [0, 0, 0])

/-- LCP_IMG_DATA: data at NEXT is written, data below it again succeeds, any other is out of order. -/
def execLcpImgData (q : LcpReq) (offset : Nat) (data : List Byte) (s : State) : Res :=
  s.lcpRequest q 0x11 fun x t k =>
    let n := data.length
    if !bitSet x.rights rightSecure then k t lcpRights 0 []
    else if !t.holdsTransfer x.id then k t lcpImage codeOrder []
    else if t.storeBusy || t.upd.op ≠ 0 then k t lcpBusy 0 []
    else if 1024 < n || offset % 8 ≠ 0 || t.upd.bodyLen < offset + n || (n % 8 ≠ 0 && offset + n ≠ t.upd.bodyLen) then
      k t lcpRange 0 []
    else if offset = t.upd.next then
      let r := t.storePut (imgBodyAddr + offset) data pLCP
      match r.2 with
      | some _ => k r.1 lcpRange 0xFFFF []
      | none =>
        let u := { r.1 with upd := { r.1.upd with next := offset + n } }
        k u lcpOk 0 (beBytes 4 (offset + n))
    else if offset + n ≤ t.upd.next then k t lcpOk 0 (beBytes 4 t.upd.next)
    else k t lcpImage codeOrder []

/-- LCP_IMG_COMMIT: the body check, then programming starts. -/
def execLcpImgCommit (q : LcpReq) (recOk : Bool) (s : State) : Res :=
  s.lcpRequest q 0x12 fun x t k =>
    if !bitSet x.rights rightSecure then k t lcpRights 0 []
    else if !t.holdsTransfer x.id then k t lcpImage codeOrder []
    else if t.storeBusy || t.upd.op ≠ 0 then k t lcpBusy 0 []
    else if t.upd.next < t.upd.bodyLen then k t lcpImage codeOrder []
    else if !t.stagedBodyOk then
      k (((t.blockReads imgBodyAddr t.upd.bodyLen pUPD).updEnd codeBodyHash 2).closeTransfer) lcpImage codeBodyHash []
    else
      let u := ({ t with upd := { t.upd with bodyOk := true } }.setFld R.UPD_PROGRESS_BYTES t.upd.bodyLen).updEnd 0 2
      k (u.program recOk) lcpOk 0 []

/-- LCP_IMG_ACTIVATE: SCOPE 0 arms this module, SCOPE 1 sends ACTIVATE as the acting summit (R438, R439). A frame too
soon has no STATUS of its own and is answered RANGE. -/
def execLcpImgActivate (q : LcpReq) (scope version frame : Nat) (s : State) : Res :=
  s.lcpRequest q 0x13 fun x t k =>
    if 1 < scope then k t lcpFormat 0 []
    else if !bitSet x.rights rightSecure then k t lcpRights 0 []
    else if scope = 0 then k (t.armActivation frame version 2) lcpOk 0 []
    else
      let r := t.sendActivate frame version
      if r.2 = 1 then k r.1 lcpNotSummit 0 []
      else if r.2 = 2 then k r.1 lcpRange 0 []
      else k r.1 lcpOk 0 []

/-- IMG_TRANSFER_TIMEOUT: 60 s without IMG_DATA (R437). -/
def execImgTransferTimeout (s : State) : Res :=
  let s := s.begin
  .next (match s.upd.session with
    | some id => s.dropTransfer id
    | none => s)

end Sys2Proof.Machine
end

