-- ==== Sys2Proof/Machine/Hspi.lean ====
section
/-! DEFINITION. The host SPI: what each of its transactions does and returns (R370, R371, R442). A transaction is one
command; the filler bytes before a reply are timing. -/
namespace Sys2Proof.Machine

/-- Host SPI transactions are served: in RUN, REST and BIVOUAC, and through a WARM reset, but not in COLD or SYSTEM
reset, in DORMANT or OFF, while the page itself is in reset, nor when the fall of HSPI_CS_N wakes the module (R371,
R472). -/
def State.hspiServes (s : State) : Bool :=
  s.power ≤ pwrBivouac && s.rst.phase ≠ .cold && s.rst.phase ≠ .system &&
    (s.rst.phase = .warm || !s.rst.down.contains pHOSTSPI) &&
    !(s.inBivouac && !s.flag R.PWR_STATE_CP_AWAKE && s.bit R.PWR_WAKE_EN_EN 3)

/-- The rights of the host (R370). -/
def State.hspiRights (s : State) : Nat := s.fld R.HOSTSPI_CFG_RIGHTS

/-- HOSTSPI_LAST keeps STATUS and CMD of a transaction; one refused is counted and raises event 1. -/
def State.hspiEnd (s : State) (cmd code : Nat) : State :=
  let t := s.setFlds [(R.HOSTSPI_LAST_CODE, code), (R.HOSTSPI_LAST_CMD, cmd % 256)]
  if code = lcpOk then t else (t.inc R.HOSTSPI_CNT_REFUSED_N).irq pHOSTSPI 1

/-- A bad CRC (R364's code, by R370). -/
def hspiBadCrc : Nat := 0x0104

/-- Bytes with the CRC-16 of R216 behind them. -/
def withCrc (bs : List Byte) : List Byte := bs ++ beBytes 2 (crc16 (bytesBits bs))

/-- A reply with data: 0xA5, the data, STATUS and CRC (R370). -/
def hspiFrame (data : List Byte) (status : Nat) : List Byte := withCrc (0xA5 :: (data ++ beBytes 2 status))

/-- The data of a reply of fixed length: bytes the access did not give are free values. -/
def State.hspiFill (s : State) (n : Nat) (data : List Byte) : List Byte :=
  data ++ leBytes (n - data.length) (s.freeBits (8 * (n - data.length)))

/-- The end of a READ or STORE_READ of `n` bytes. -/
def State.hspiRead (s : State) (cmd n status : Nat) (data : List Byte) : State :=
  let t := s.hspiEnd cmd status
  t.drawn.emit (.hspiReply (hspiFrame (t.hspiFill n data) status) status)

/-- The end of a WRITE or STORE_WRITE: its STATUS is kept for CMD 0x05, and one applied whole raises event 0. -/
def State.hspiWritten (s : State) (cmd status : Nat) : State :=
  let t := { s with hspi := { status := status } }
  let u := t.hspiEnd cmd status
  if status = lcpOk then u.irq pHOSTSPI 0 else u

/-- HSPI_READ. -/
def execHspiRead (addr count : Nat) (crcOk : Bool) (s : State) : Res :=
  let s := s.begin
  if !s.hspiServes then .next s
  else if !crcOk then .next ((s.hspiEnd 0x0B hspiBadCrc).emit (.hspiReply [] hspiBadCrc))
  else State.readRun (.hspi s.hspiRights) addr 0 count s fun (r : RunOut) =>
    let data := r.2.1.flatMap fun (w : Word) => leBytes 4 w.toNat
    let status := match r.2.2 with
      | none => lcpOk
      | some (_, c) => c
    .next (r.1.hspiRead 0x0B (4 * count) status data)

/-- HSPI_WRITE: the words are applied in rising order up to the first that is refused. -/
def execHspiWrite (addr : Nat) (words : List Word) (crcOk : Bool) (s : State) : Res :=
  let s := s.begin
  if !s.hspiServes then .next s
  else if !crcOk then .next (s.hspiEnd 0x02 hspiBadCrc)
  else State.storeWords (State.remoteWrite (.hspi s.hspiRights)) addr 0 words s fun (r : RunOut) =>
    let status := match r.2.2 with
      | none => lcpOk
      | some (_, c) => c
    .next (r.1.hspiWritten 0x02 status)

/-- HSPI_STORE_READ (R369). -/
def execHspiStoreRead (addr length : Nat) (crcOk : Bool) (s : State) : Res :=
  let s := s.begin
  if !s.hspiServes then .next s
  else if !crcOk then .next ((s.hspiEnd 0x1B hspiBadCrc).emit (.hspiReply [] hspiBadCrc))
  else
    let r := s.storeGet s.hspiRights addr length 4096 pHOSTSPI
    .next (r.1.hspiRead 0x1B length (r.2.2.getD (lcpOk, 0)).1 r.2.1)

/-- HSPI_STORE_WRITE (R369): data of another length than LENGTH is a transaction that ends early. -/
def execHspiStoreWrite (addr length : Nat) (data : List Byte) (crcOk : Bool) (s : State) : Res :=
  let s := s.begin
  if !s.hspiServes then .next s
  else if data.length ≠ length then .next (s.hspiEnd 0x12 lcpFormat)
  else if !crcOk then .next (s.hspiEnd 0x12 hspiBadCrc)
  else match s.putRefusal s.hspiRights addr length 4096 none with
    | some (c, _) => .next (s.hspiWritten 0x12 c)
    | none =>
      let r := s.storePut addr data pHOSTSPI
      .next (r.1.hspiWritten 0x12 (if r.2.isSome then lcpRange else lcpOk))

/-- HSPI_STATUS: a write is applied within its command, so none is busy. -/
def execHspiStatus (s : State) : Res :=
  let s := s.begin
  if !s.hspiServes then .next s
  else .next ((s.hspiEnd 0x05 lcpOk).emit (.hspiReply (withCrc (0 :: beBytes 2 s.hspi.status)) lcpOk))

/-- SYSRESET (R371, R442): a SYSTEM reset after the meter save, if the host holds RESET. -/
def execSysreset (crcOk : Bool) (s : State) : Res :=
  let s := s.begin
  if !s.hspiServes then .next s
  else if !crcOk then .next (s.hspiEnd 0x9E hspiBadCrc)
  else if !bitSet s.hspiRights rightReset then .next (s.hspiEnd 0x9E lcpRights)
  else .next ((s.hspiEnd 0x9E lcpOk).systemSaved 0x14 0)

/-- HSPI_TRANSACTION_REFUSED: it ended early, or its CMD is unknown. -/
def execHspiTransactionRefused (cmd : Nat) (s : State) : Res :=
  let s := s.begin
  .next (if s.hspiServes then s.hspiEnd cmd lcpFormat else s)

end Sys2Proof.Machine
end

