-- ==== Sys2Proof/Machine/CoreMem.lean ====
section
/-! DEFINITION. A core's memory accesses (R330, R333–R336, R424, R425, R492, R493): the memory map, error correction,
atomics and reservations, and the faults of what may not be reached. -/
namespace Sys2Proof.Machine

/-- The exception of an access: its cause, with mtval the address. -/
def State.coreFaultAt (s : State) (h addr : Nat) (op : CoreOp) : Res := .next (s.coreTrap h op.accessCause addr)

/-- The access writes. -/
def CoreOp.writes : CoreOp → Bool
  | .store _ => true
  | .storeConditional _ => true
  | .amo _ _ => true
  | _ => false

/-! ## Physical memory protection (R328, R332) -/

/-- Trailing ones of a NAPOT address. -/
def trailingOnes (fuel a : Nat) : Nat := match fuel with
  | 0 => 0
  | k + 1 => if a % 2 = 1 then trailingOnes k (a / 2) + 1 else 0

/-- The bytes of a region: first and past the last; `below` is the address register before (the privileged
architecture's OFF, TOR, NA4 and NAPOT; assumption log, entry 10). -/
def pmpRange (cfg addr below : Nat) : Nat × Nat :=
  let mode := bits cfg 4 3
  if mode = 0 then (0, 0)
  else if mode = 1 then (below * 4, addr * 4)
  else if mode = 2 then (addr * 4, addr * 4 + 4)
  else
    let z := 2 ^ trailingOnes 32 addr
    (addr / z * z * 4, addr / z * z * 4 + 8 * z)

/-- The permission bit of pmpcfg that an access needs: R, W or X. -/
def CoreOp.pmpBit : CoreOp → Nat
  | .fetch _ => 2
  | .load _ => 0
  | .loadReserved => 0
  | _ => 1

/-- PMP lets hart h make the access (R332): the lowest-numbered region that matches a byte decides, and must hold all of
them; without one, M-mode may and U-mode may not. -/
def State.pmpGrants (s : State) (h addr : Nat) (op : CoreOp) : Bool :=
  let x := s.hart h
  let n := op.size
  let hit := (List.range 16).find? fun i =>
    let r := pmpRange (x.pmpCfg.getD i 0) (x.pmpAddr.getD i 0) (if i = 0 then 0 else x.pmpAddr.getD (i - 1) 0)
    decide (r.1 < addr + n) && decide (addr < r.2)
  match hit with
  | none => x.mmode
  | some i =>
    let cfg := x.pmpCfg.getD i 0
    let r := pmpRange cfg (x.pmpAddr.getD i 0) (if i = 0 then 0 else x.pmpAddr.getD (i - 1) 0)
    decide (r.1 ≤ addr) && decide (addr + n ≤ r.2) && ((x.mmode && !bitSet cfg 7) || bitSet cfg op.pmpBit)

/-- The access is an instruction fetch. -/
def CoreOp.isFetch : CoreOp → Bool
  | .fetch _ => true
  | _ => false

/-- What an AMO of the A extension stores: old value of memory, register operand. -/
def amoResult (op : AmoOp) (old v : Word) : Word := match op with
  | .swap => v
  | .add => old + v
  | .and => old &&& v
  | .or => old ||| v
  | .xor => old ^^^ v
  | .max => if old.toInt < v.toInt then v else old
  | .min => if v.toInt < old.toInt then v else old
  | .maxu => if old.toNat < v.toNat then v else old
  | .minu => if v.toNat < old.toNat then v else old

/-! ## Shared SRAM and the TCMs -/

/-- A place in shared SRAM, or in the eight TCMs laid end to end. -/
structure RamPlace where
  tcm : Bool
  off : Nat
deriving DecidableEq, Repr

/-- Where hart h finds `n` bytes at a core address, if in shared SRAM or a TCM (R333, R334). -/
def ramPlace (h addr n : Nat) : Option RamPlace :=
  if 0x10000000 ≤ addr && addr + n ≤ 0x10400000 then some ⟨false, addr - 0x10000000⟩
  else if 0x20000000 ≤ addr && addr + n ≤ 0x20020000 then some ⟨true, h * 0x20000 + (addr - 0x20000000)⟩
  else if 0x21000000 ≤ addr && addr + n ≤ 0x21100000 then some ⟨true, addr - 0x21000000⟩
  else none

/-- Bytes of a code word: 8 in shared SRAM, 4 in a TCM (R335). -/
def RamPlace.word (r : RamPlace) : Nat := if r.tcm then 4 else 8

/-- The place as the one core address that every hart may use. -/
def RamPlace.canon (r : RamPlace) : Nat := if r.tcm then 0x21000000 + r.off else 0x10000000 + r.off

/-- The hart whose TCM it is. -/
def RamPlace.owner (r : RamPlace) : Option Nat := if r.tcm then some (r.off / 0x20000) else none

/-- SOURCE of SYS_MEM_UE_INFO. -/
def RamPlace.source (r : RamPlace) : Nat := if r.tcm then 8 + r.off / 0x20000 else 0

/-- The uncorrectable words of the memory. -/
def State.ramBad (s : State) (r : RamPlace) : List Nat := if r.tcm then s.mem.tcmBad else s.mem.sramBad

/-- Set the uncorrectable words of the memory. -/
def State.setRamBad (s : State) (r : RamPlace) (l : List Nat) : State :=
  if r.tcm then { s with mem := { s.mem with tcmBad := l } } else { s with mem := { s.mem with sramBad := l } }

/-- `n` bytes of the memory. -/
def State.ramRead (s : State) (r : RamPlace) (n : Nat) : List Byte :=
  memRead (if r.tcm then s.mem.tcm else s.mem.sram) r.off n

/-- Hart h writes bytes: words covered whole get valid check bits (R336), other harts' reservations there end (R330). -/
def State.ramWrite (s : State) (h : Nat) (r : RamPlace) (bs : List Byte) : State :=
  let whole := fun (w : Nat) => decide (r.off ≤ w * r.word) && decide ((w + 1) * r.word ≤ r.off + bs.length)
  let t := s.setRamBad r ((s.ramBad r).filter fun w => !whole w)
  let u := if r.tcm then { t with mem := { t.mem with tcm := memWrite t.mem.tcm r.off bs } }
    else { t with mem := { t.mem with sram := memWrite t.mem.sram r.off bs } }
  (u.breakReservations (some h) r.canon bs.length).wroteCode r.canon bs.length

/-- The first uncorrectable word among `n` bytes. -/
def State.ramBadWord (s : State) (r : RamPlace) (n : Nat) : Option Nat :=
  (s.ramBad r).find? fun w => decide (w * r.word < r.off + n) && decide (r.off < (w + 1) * r.word)

/-- An uncorrectable word is read by hart h (R336): the SYS registers, and a cairn record of SYS whose CODE the spec
leaves open. -/
def State.memUe (s : State) (h addr : Nat) (r : RamPlace) (fetch : Bool) : State :=
  let t := (s.inc R.SYS_MEM_UE_N).setFlds [(R.SYS_MEM_UE_ADDR_ADDR, addr / r.word * r.word), (R.SYS_MEM_UE_INFO_VALID, 1),
    (R.SYS_MEM_UE_INFO_HART, h), (R.SYS_MEM_UE_INFO_SOURCE, r.source), (R.SYS_MEM_UE_INFO_FETCH, b2n fetch)]
  (t.occur ⟨pSYS, t.freeBits 16, noUnit, addr / r.word * r.word⟩).drawn

/-- What the code finds: a corrected word is rewritten and counted, an uncorrectable one is remembered. -/
def State.ramEcc (s : State) (r : RamPlace) (e : Ecc) : State := match e with
  | .clean => s
  | .corrected => s.inc R.SYS_MEM_CE_N
  | .uncorrectable =>
    if (s.ramBad r).contains (r.off / r.word) then s else s.setRamBad r (s.ramBad r ++ [r.off / r.word])

/-- Cycles of MTIME that a reservation lasts: 1,024 cycles of 800 MHz (R330). -/
def reservationTicks : Nat := 32

/-- The hart holds a reservation on the granule. -/
def State.reserved (s : State) (h : Nat) (r : RamPlace) : Bool :=
  s.reservations.any fun (p : Nat × Reservation) =>
    p.1 = h && p.2.granule = r.canon / 64 && s.router.mtime < p.2.since + reservationTicks

/-- Drop the hart's reservation. -/
def State.unreserve (s : State) (h : Nat) : State :=
  { s with reservations := s.reservations.filter fun (p : Nat × Reservation) => p.1 ≠ h }

/-- An access to shared SRAM or a TCM, aligned and allowed. -/
def State.serveRam (s : State) (h addr : Nat) (op : CoreOp) (r : RamPlace) : State :=
  let covered := match op with
    | .store d => r.off % r.word = 0 && d.length = r.word
    | .storeConditional d => r.off % r.word = 0 && d.length = r.word
    | _ => false
  match op with
  | .storeConditional d =>
    let t := s.unreserve h
    if !s.reserved h r then t.drawn.emit (.memData (leBytes 4 (t.freeBits 31 + 1)))
    else if (t.ramBadWord r d.length).isSome && !covered then (t.memUe h addr r false).coreTrap h op.accessCause addr
    else (t.ramWrite h r d).emit (.memData (leBytes 4 0))
  | _ =>
    if (s.ramBadWord r op.size).isSome && !covered then (s.memUe h addr r op.isFetch).coreTrap h op.accessCause addr
    else match op with
      | .store d => s.ramWrite h r d
      | .loadReserved =>
        let t := s.unreserve h
        ({ t with reservations := (h, Reservation.mk (r.canon / 64) s.router.mtime) :: t.reservations }).emit
          (.memData (s.ramRead r 4))
      | .amo f v =>
        let old := s.ramRead r 4
        (s.ramWrite h r (leBytes 4 (amoResult f (BitVec.ofNat 32 (leNat old)) v).toNat)).emit (.memData old)
      | _ => s.emit (.memData (s.ramRead r op.size))

/-- An access to shared SRAM or a TCM (R330, R334–R336). -/
def State.accessRam (s : State) (h addr : Nat) (op : CoreOp) (e : Ecc) (r : RamPlace) : Res :=
  let foreign := match r.owner with
    | some o => decide (o ≠ h)
    | none => false
  if op.isAtomic && foreign then .next (s.coreTrap h excStoreAccess addr)
  else if op.isFetch && foreign then .fault (.unpredictable 334)
  else if !op.aligned addr then .next (s.coreTrap h op.misalignedCause addr)
  else .next ((s.ramEcc r e).serveRam h addr op r)

/-! ## The other memories -/

/-- An access to a memory without atomics: its data, or what a store does. -/
def State.accessPlain (s : State) (h addr : Nat) (op : CoreOp) (get : Nat → List Byte) (put : List Byte → Res) : Res :=
  if op.isAtomic then .next (s.coreTrap h excStoreAccess addr)
  else if !op.aligned addr then .next (s.coreTrap h op.misalignedCause addr)
  else match op with
    | .store d => put d
    | _ => .next (s.emit (.memData (get op.size)))

/-- A memory that is read and executed only. -/
def State.accessRom (s : State) (h addr : Nat) (op : CoreOp) (get : Nat → List Byte) : Res :=
  s.accessPlain h addr op get fun _ => .next (s.coreTrap h excStoreAccess addr)

/-- Retained SRAM (R475, R493). -/
def State.accessRetained (s : State) (h addr : Nat) (op : CoreOp) : Res :=
  let a := addr - 0x18000000
  s.accessPlain h addr op (fun n => memRead s.mem.ret a n) fun d =>
    if a < 0x800 || (0x1000 ≤ a && a ≤ 0x1267) || 0x1800 ≤ a then .fault (.unpredictable 493)
    else if s.retLocked then .next s
    else .next ({ s with mem := { s.mem with ret := memWrite s.mem.ret a d } }.wroteCode addr d.length)

/-- The backup memory window (R492). -/
def State.accessBackup (s : State) (h addr : Nat) (op : CoreOp) : Res :=
  let a := addr - 0x1C000000
  s.accessPlain h addr op (fun n => memRead s.mem.bk a n) fun d =>
    .next ({ s with mem := { s.mem with bk := memWrite s.mem.bk a d } }.wroteCode addr d.length)

/-- An MRAM byte belongs to a block (R425). -/
def mramOwned (a : Nat) : Bool := a < 0x10100 || 0x80000 ≤ a

/-- The key store's area, which no core reads (R396). -/
def mramSealed (a : Nat) : Bool := 0xD000 ≤ a && a < 0x10000

/-- An uncorrectable MRAM word is met: counted, shown, and an event of MRAM with its record. -/
def State.mramUe (s : State) (a : Nat) : State :=
  (((s.inc R.MRAM_CNT_UE_N).setFlds [(R.MRAM_UE_ADDR_VALID, 1), (R.MRAM_UE_ADDR_ADDR, a / 8 * 8)]).event pMRAM 0 noUnit
    (a / 8 * 8))

/-- MRAM (R425). -/
def State.accessMram (s : State) (h addr : Nat) (op : CoreOp) (e : Ecc) : Res :=
  let a := addr - 0x60000000
  if op.isAtomic then .next (s.coreTrap h excStoreAccess addr)
  else if !op.aligned addr then .next (s.coreTrap h op.misalignedCause addr)
  else if op.writes && mramOwned a then .next ((s.setFld R.MRAM_STATUS_FAULTED 1).coreTrap h excStoreAccess addr)
  else if mramSealed a || mramSealed (a + op.size - 1) then s.coreFaultAt h addr op
  else
    let t := match e with
      | .clean => s
      | .corrected => s.inc R.MRAM_CNT_CE_N
      | .uncorrectable =>
        if s.mem.mramBad.contains (a / 8) then s
        else { s with mem := { s.mem with mramBad := s.mem.mramBad ++ [a / 8] } }
    if t.mem.mramBad.any fun w => decide (w * 8 < a + op.size) && decide (a < (w + 1) * 8) then
      .next ((t.mramUe a).coreTrap h op.accessCause addr)
    else match op with
      | .store d => .next ({ t with mem := { t.mem with mram := memWrite t.mem.mram a d } }.wroteCode addr d.length)
      | _ => .next (t.emit (.memData (memRead t.mem.mram a op.size)))

/-- A register page: aligned words only, no atomics and no instructions (R6, R330). -/
def State.accessPage (s : State) (h addr : Nat) (op : CoreOp) : Res :=
  let m := Master.hart h (s.hart h).mmode
  let page := (addr - 0x40000000) / 0x1000
  let off := addr % 0x1000
  if op.isAtomic then .next (s.coreTrap h excStoreAccess addr)
  else if op.size ≠ 4 then s.coreFaultAt h addr op
  else match op with
    | .load _ => s.after (s.begin.busRead m page off)
    | .store d => s.after (s.begin.masterWrite m page off (BitVec.ofNat 32 (leNat d)))
    | _ => s.coreFaultAt h addr op

/-- The rule that firmware breaks by a store through a window: R141 for the ingress and staging regions; R318 for the
generation, calibration and scree regions of a second that is being resynchronised; and R99, which extends R27, for a byte
of a generation that a slot not EMPTY or RETIRED, or one being staged, refers to. -/
def State.windowRule (s : State) (addr : Nat) (op : CoreOp) : Option Nat := match op with
  | .store d => match s.windowAddr addr with
    | some a =>
      if !op.aligned addr || s.storeCtl.unusable then none
      else if storeRegion a = 2 || storeRegion a = 3 then some 141
      else if genData a && s.resyncing then some 318
      else if (s.usedBy a d.length).isSome then some 99
      else none
    | none => none
  | _ => none

/-- Firmware's access breaks a rule of windows. -/
def State.windowBreach (s : State) (addr : Nat) (op : CoreOp) : Bool := (s.windowRule addr op).isSome

/-- The code address of what hart h finds at a core address (R331, R333). -/
def State.codeAddr (s : State) (h addr n : Nat) : Nat := match ramPlace h addr n with
  | some r => r.canon
  | none => match s.windowAddr addr with
    | some a => storeCode a
    | none => addr

/-- Hart h fetches what was written since its last FENCE.I: the result is unpredictable (R17, R331). -/
def State.fetchStale (s : State) (h addr : Nat) (op : CoreOp) : Bool :=
  op.isFetch && s.codeStale h (s.codeAddr h addr op.size) op.size

/-- A core's access through a window; a store that R141 or R99 forbids, and a fetch of stale code, have unpredictable
results (R17, R331). FENCE.I reaches no window. -/
def State.windowStep (s : State) (h addr : Nat) (op : CoreOp) (e : Ecc) : Res :=
  if op = .fenceI then .next (s.fenceI h)
  else if s.fetchStale h addr op then .fault (.unpredictable 331)
  else match s.windowRule addr op with
    | some r => .fault (.unpredictable r)
    | none => .next (s.windowAccess h addr op e)

/-- STORE_WINDOW_ACCESS; an access that PMP does not grant raises its access fault (R332). -/
def execStoreWindowAccess (h addr : Nat) (op : CoreOp) (e : Ecc) (s : State) : Res :=
  let s := s.begin
  if op = .fenceI || s.pmpGrants h addr op then s.windowStep h addr op e else s.coreFaultAt h addr op

/-! ## The row -/

/-- CORE_MEMORY_ACCESS: the memory map of R333, under PMP (R332); FENCE.I is a core's operation too, and acts on its cache alone (R331). -/
def execCoreMemoryAccess (h addr : Nat) (op : CoreOp) (e : Ecc) (s : State) : Res :=
  let s := s.begin
  let n := op.size
  let within := fun (base size : Nat) => decide (base ≤ addr) && decide (addr + n ≤ base + size)
  if 8 ≤ h then .next s
  else if op = .fenceI then .next (s.fenceI h)
  else if !s.pmpGrants h addr op then s.coreFaultAt h addr op
  else if s.fetchStale h addr op then .fault (.unpredictable 331)
  else match ramPlace h addr n with
    | some r => s.accessRam h addr op e r
    | none =>
      if addr + n ≤ 0x10000 then
        s.accessRom h addr op fun k => (List.range k).map fun (i : Nat) => Config.bootRom (addr + i)
      else if within 0x18000000 0x2000 then s.accessRetained h addr op
      else if within 0x1C000000 0x40 then s.accessBackup h addr op
      else if within 0x40000000 0x50000 then s.accessPage h addr op
      else if within 0x50000000 0x10000000 then s.accessRom h addr op fun k => s.norRead (addr - 0x50000000) k
      else if within 0x60000000 0x100000 then s.accessMram h addr op e
      else if within 0x80000000 0x40000000 then
        s.windowStep h addr op e
      else if op.isAtomic then .next (s.coreTrap h excStoreAccess addr)
      else s.coreFaultAt h addr op

end Sys2Proof.Machine
end

