-- ==== Sys2Proof/Machine/Tick.lean ====
section
/-! DEFINITION. What one TCXO cycle of 40 ns does by itself: it is what the module does while no command waits
(assumption log, entry 6). -/
namespace Sys2Proof.Machine

/-- One part of 32,768 Hz that a cycle of 40 ns carries toward the next edge, in 10^-9 of an edge. -/
def rtcShare : Nat := 40 * 32768

/-- The 32.768 kHz crystal: it runs in every state (R485). -/
def State.rtcTick (s : State) : State :=
  let n := s.clk.rtcFrac + rtcShare
  if n < 1000000000 then { s with clk := { s.clk with rtcFrac := n } }
  else ({ s with clk := { s.clk with rtcFrac := n - 1000000000 } }).rtcEdge

/-- Frame time advances by 40 · (1 + rate · 2^-48) ns (R77). -/
def PtpS.advance (p : PtpS) : PtpS :=
  let t : Int := (p.ns * 2 ^ 48 + p.frac : Nat) + 40 * 2 ^ 48 + 40 * p.rate
  { p with ns := t.toNat / 2 ^ 48, frac := t.toNat % 2 ^ 48 }

/-- A cycle of the TCXO is counted. -/
def State.countTcxo (s : State) : State := { s with clk := { s.clk with tcxo := s.clk.tcxo + 1 } }

/-- Time in HOLDOVER counts (R78). -/
def State.countHold (s : State) : State :=
  if s.ptpState = ptpHoldover then { s with ptp := { s.ptp with holdNs := s.ptp.holdNs + 40 } } else s

/-- Frame time moves on where the frame grid runs. -/
def State.countFrame (s : State) : State :=
  if s.gridRuns then { s with ptp := s.ptp.advance }.countHold else s

/-- What the system watchdog, a pending RST_REQ and the health timer have counted (R355, R433, R443). -/
def State.countLeft (s : State) : State :=
  let step := fun (runs : Bool) (n : Nat) => if runs then n + 40 else n
  { s with rst := { s.rst with wdtNs := step s.wdtRuns s.rst.wdtNs
                               reqNs := step (s.flag R.RST_REQ_STAT_PENDING) s.rst.reqNs }
           upd := { s.upd with healthNs := step (s.flag R.UPD_HEALTH_RUN && !s.inBivouac) s.upd.healthNs } }

/-- IRQ_MTIME counts while its page is out of reset (R340). -/
def State.countMtime (s : State) : State :=
  if s.rst.down.contains pIRQ then s else { s with router := { s.router with mtime := s.router.mtime + 1 } }

/-- The UART transmitter moves on. -/
def State.countUart (s : State) : State := if s.rst.down.contains pUART then s else s.uartTick

/-- One cycle of the TCXO, which DORMANT and OFF stop (R468): frame time, the time left of watchdog and requests,
IRQ_MTIME, and the UART transmitter; the calendar's crystal runs in every state. -/
def State.tick (s : State) : State :=
  let t := s.begin.rtcTick
  if pwrBivouac < t.power then t else t.countTcxo.countFrame.countLeft.countMtime.countUart

end Sys2Proof.Machine
end

