-- ==== Sys2Proof/Machine/Dispatch.lean ====
section
/-! DEFINITION. Which meaning belongs to which command: one arm per constructor. -/
namespace Sys2Proof.Machine

/-- The effect of a command on everything but the queue. -/
def exec (i : Instr) (s : State) : Host.Outcome State Fault Refusal :=
  match i with
  | .registerWrite m page off value => Sys2Proof.Machine.execRegisterWrite m page off value s
  | .pgLockWrite m page value => Sys2Proof.Machine.execPgLockWrite m page value s
  | .counterClear m page off value => Sys2Proof.Machine.execCounterClear m page off value s
  | .irqStatClear m page mask events => Sys2Proof.Machine.execIrqStatClear m page mask events s
  | .fenceClear m page present => Sys2Proof.Machine.execFenceClear m page present s
  | .idleRequest m page => Sys2Proof.Machine.execIdleRequest m page s
  | .ptpSyncReceive sync => Sys2Proof.Machine.execPtpSyncReceive sync s
  | .ptpFollowUpReceive port source seq t1 corr => Sys2Proof.Machine.execPtpFollowUpReceive port source seq t1 corr s
  | .ptpDelayReqTimer t3 => Sys2Proof.Machine.execPtpDelayReqTimer t3 s
  | .ptpDelayRespReceive port source seq t4 corr logInterval => Sys2Proof.Machine.execPtpDelayRespReceive port source seq t4 corr logInterval s
  | .ptpAnnounceReceive ann => Sys2Proof.Machine.execPtpAnnounceReceive ann s
  | .ptpMessageRefused kind => Sys2Proof.Machine.execPtpMessageRefused kind s
  | .announceReceiptTimeout port => Sys2Proof.Machine.execAnnounceReceiptTimeout port s
  | .gmSyncSend announce => Sys2Proof.Machine.execGmSyncSend announce s
  | .gmDelayReqReceive port source seq t4 => Sys2Proof.Machine.execGmDelayReqReceive port source seq t4 s
  | .ptpSampleLoss => Sys2Proof.Machine.execPtpSampleLoss s
  | .holdover60s => Sys2Proof.Machine.execHoldover60s s
  | .ppsPulse => Sys2Proof.Machine.execPpsPulse s
  | .ppsFall => Sys2Proof.Machine.execPpsFall s
  | .frameBoundary n => Sys2Proof.Machine.execFrameBoundary n s
  | .commitDue n => Sys2Proof.Machine.execCommitDue n s
  | .haveSendDeadline due => Sys2Proof.Machine.execHaveSendDeadline due s
  | .haveReceive port msg => Sys2Proof.Machine.execHaveReceive port msg s
  | .quorumCloseAtC n => Sys2Proof.Machine.execQuorumCloseAtC n s
  | .commitReceive port msg => Sys2Proof.Machine.execCommitReceive port msg s
  | .listenEnd => Sys2Proof.Machine.execListenEnd s
  | .genAnnounceReceive port msg => Sys2Proof.Machine.execGenAnnounceReceive port msg s
  | .genAnnounceSend m => Sys2Proof.Machine.execGenAnnounceSend m s
  | .genStageGo m slot => Sys2Proof.Machine.execGenStageGo m slot s
  | .genStageDone => Sys2Proof.Machine.execGenStageDone s
  | .activateReceive port msg => Sys2Proof.Machine.execActivateReceive port msg s
  | .sfpInsert port => Sys2Proof.Machine.execSfpInsert port s
  | .sfpRemove port => Sys2Proof.Machine.execSfpRemove port s
  | .linkTxdisTimer port => Sys2Proof.Machine.execLinkTxdisTimer port s
  | .linkSpeedAlternate port => Sys2Proof.Machine.execLinkSpeedAlternate port s
  | .linkUp port fecAligned => Sys2Proof.Machine.execLinkUp port fecAligned s
  | .linkDown port los => Sys2Proof.Machine.execLinkDown port los s
  | .txFault port => Sys2Proof.Machine.execTxFault port s
  | .txFaultRetry port level => Sys2Proof.Machine.execTxFaultRetry port level s
  | .netFrameReceive frame => Sys2Proof.Machine.execNetFrameReceive frame s
  | .igmpQueryReceive port query => Sys2Proof.Machine.execIgmpQueryReceive port query s
  | .igmpReportTimer port => Sys2Proof.Machine.execIgmpReportTimer port s
  | .mediaPacketReceive pkt => Sys2Proof.Machine.execMediaPacketReceive pkt s
  | .xsdecSliceDecode k f slice row rows last us decode => Sys2Proof.Machine.execXsdecSliceDecode k f slice row rows last us decode s
  | .storeInitDone bad => Sys2Proof.Machine.execStoreInitDone bad s
  | .storeWindowAccess h addr op ecc => Sys2Proof.Machine.execStoreWindowAccess h addr op ecc s
  | .storeRepairDone granule => Sys2Proof.Machine.execStoreRepairDone granule s
  | .patrolRead ecc word => Sys2Proof.Machine.execPatrolRead ecc word s
  | .wakeScrubDone => Sys2Proof.Machine.execWakeScrubDone s
  | .storeUnusable cause => Sys2Proof.Machine.execStoreUnusable cause s
  | .burstEnd => Sys2Proof.Machine.execBurstEnd s
  | .laneResidueMismatch g => Sys2Proof.Machine.execLaneResidueMismatch g s
  | .govFiguresFinal f => Sys2Proof.Machine.execGovFiguresFinal f s
  | .screeEvalDone n => Sys2Proof.Machine.execScreeEvalDone n s
  | .govSurveyDone => Sys2Proof.Machine.execGovSurveyDone s
  | .govSnapRequest m => Sys2Proof.Machine.execGovSnapRequest m s
  | .strandSlotDrive strand n => Sys2Proof.Machine.execStrandSlotDrive strand n s
  | .strandFrameSend strand => Sys2Proof.Machine.execStrandFrameSend strand s
  | .strandCommandSend strand => Sys2Proof.Machine.execStrandCommandSend strand s
  | .returnReportReceive strand report buf => Sys2Proof.Machine.execReturnReportReceive strand report buf s
  | .returnWindowClose strand => Sys2Proof.Machine.execReturnWindowClose strand s
  | .idleInsert strand => Sys2Proof.Machine.execIdleInsert strand s
  | .presentSend strand => Sys2Proof.Machine.execPresentSend strand s
  | .strandSlotRelease strand => Sys2Proof.Machine.execStrandSlotRelease strand s
  | .strandAbort strand a => Sys2Proof.Machine.execStrandAbort strand a s
  | .strandContention strand => Sys2Proof.Machine.execStrandContention strand s
  | .vioFault g mv => Sys2Proof.Machine.execVioFault g mv s
  | .railRampTick => Sys2Proof.Machine.execRailRampTick s
  | .pmbusVoutWrite r ok => Sys2Proof.Machine.execPmbusVoutWrite r ok s
  | .railStartEnable r voutMode ok => Sys2Proof.Machine.execRailStartEnable r voutMode ok s
  | .railStartTarget r => Sys2Proof.Machine.execRailStartTarget r s
  | .railLoopPeriod r buf => Sys2Proof.Machine.execRailLoopPeriod r buf s
  | .pmbusStatusPoll r status vout buf => Sys2Proof.Machine.execPmbusStatusPoll r status vout buf s
  | .pmbAlert reads => Sys2Proof.Machine.execPmbAlert reads s
  | .pmbusFwBus m v => Sys2Proof.Machine.execPmbusFwBus m v s
  | .trimFault r => Sys2Proof.Machine.execTrimFault r s
  | .railHoldExpiry r => Sys2Proof.Machine.execRailHoldExpiry r s
  | .handoverEnableDrop => Sys2Proof.Machine.execHandoverEnableDrop s
  | .railStopHoldEnd r restart => Sys2Proof.Machine.execRailStopHoldEnd r restart s
  | .telemBankSwap => Sys2Proof.Machine.execTelemBankSwap s
  | .telemPop m ecc => Sys2Proof.Machine.execTelemPop m ecc s
  | .telemRelease m => Sys2Proof.Machine.execTelemRelease m s
  | .telemFlushRequest m => Sys2Proof.Machine.execTelemFlushRequest m s
  | .telemFlushDone => Sys2Proof.Machine.execTelemFlushDone s
  | .meterAcSample codes => Sys2Proof.Machine.execMeterAcSample codes s
  | .meterDcSample shunts rails => Sys2Proof.Machine.execMeterDcSample shunts rails s
  | .meterWindowClose => Sys2Proof.Machine.execMeterWindowClose s
  | .meterSaveDone ok => Sys2Proof.Machine.execMeterSaveDone ok s
  | .meterPfRepeatEnd => Sys2Proof.Machine.execMeterPfRepeatEnd s
  | .meterStmtRequest m => Sys2Proof.Machine.execMeterStmtRequest m s
  | .meterStmtReady => Sys2Proof.Machine.execMeterStmtReady s
  | .meterDispClear m value => Sys2Proof.Machine.execMeterDispClear m value s
  | .meterChannelFault page fault => Sys2Proof.Machine.execMeterChannelFault page fault s
  | .leadClaim n => Sys2Proof.Machine.execLeadClaim n s
  | .yieldReceive pkt => Sys2Proof.Machine.execYieldReceive pkt s
  | .acceptReceive pkt => Sys2Proof.Machine.execAcceptReceive pkt s
  | .declineReceive pkt => Sys2Proof.Machine.execDeclineReceive pkt s
  | .handoverAcceptDeadline n => Sys2Proof.Machine.execHandoverAcceptDeadline n s
  | .handoverLeadRelease n => Sys2Proof.Machine.execHandoverLeadRelease n s
  | .handoverNewLeadSample n high => Sys2Proof.Machine.execHandoverNewLeadSample n high s
  | .frameCrcReceive pkt => Sys2Proof.Machine.execFrameCrcReceive pkt s
  | .heartSend => Sys2Proof.Machine.execHeartSend s
  | .heartReceive pkt rx => Sys2Proof.Machine.execHeartReceive pkt rx s
  | .belayPacketError => Sys2Proof.Machine.execBelayPacketError s
  | .belayLinkUp => Sys2Proof.Machine.execBelayLinkUp s
  | .belayLinkDown => Sys2Proof.Machine.execBelayLinkDown s
  | .partnerLost => Sys2Proof.Machine.execPartnerLost s
  | .resyncStart => Sys2Proof.Machine.execResyncStart s
  | .resyncReqReceive pkt => Sys2Proof.Machine.execResyncReqReceive pkt s
  | .resyncDataReceive pkt => Sys2Proof.Machine.execResyncDataReceive pkt s
  | .resyncNakReceive pkt => Sys2Proof.Machine.execResyncNakReceive pkt s
  | .resyncInstallReceive pkt => Sys2Proof.Machine.execResyncInstallReceive pkt s
  | .resyncDataSend => Sys2Proof.Machine.execResyncDataSend s
  | .irqClaim m => Sys2Proof.Machine.execIrqClaim m s
  | .irqComplete m value => Sys2Proof.Machine.execIrqComplete m value s
  | .irqPost line ecc => Sys2Proof.Machine.execIrqPost line ecc s
  | .irqPostRetry line ecc => Sys2Proof.Machine.execIrqPostRetry line ecc s
  | .mtimerExpiry h => Sys2Proof.Machine.execMtimerExpiry h s
  | .schedPush m value => Sys2Proof.Machine.execSchedPush m value s
  | .schedDispatch h ecc => Sys2Proof.Machine.execSchedDispatch h ecc s
  | .schedTake m => Sys2Proof.Machine.execSchedTake m s
  | .schedUrgent seq => Sys2Proof.Machine.execSchedUrgent seq s
  | .schedQflush m value => Sys2Proof.Machine.execSchedQflush m value s
  | .schedCkptSave m => Sys2Proof.Machine.execSchedCkptSave m s
  | .schedCkptRestore m => Sys2Proof.Machine.execSchedCkptRestore m s
  | .schedTraceRead m => Sys2Proof.Machine.execSchedTraceRead m s
  | .schedTraceClear m => Sys2Proof.Machine.execSchedTraceClear m s
  | .schedQstateFault => Sys2Proof.Machine.execSchedQstateFault s
  | .wdtSysKick m value => Sys2Proof.Machine.execWdtSysKick m value s
  | .wdtSysHalf => Sys2Proof.Machine.execWdtSysHalf s
  | .wdtSysExpiry => Sys2Proof.Machine.execWdtSysExpiry s
  | .wdtCoreKick m value => Sys2Proof.Machine.execWdtCoreKick m value s
  | .wdtCoreExpiry h => Sys2Proof.Machine.execWdtCoreExpiry h s
  | .lcpHello port msg => Sys2Proof.Machine.execLcpHello port msg s
  | .lcpClose session seq => Sys2Proof.Machine.execLcpClose session seq s
  | .lcpSessionTimeout session => Sys2Proof.Machine.execLcpSessionTimeout session s
  | .lcpDatagramDrop code => Sys2Proof.Machine.execLcpDatagramDrop code s
  | .lcpRead q addr count => Sys2Proof.Machine.execLcpRead q addr count s
  | .lcpWrite q addr words => Sys2Proof.Machine.execLcpWrite q addr words s
  | .lcpStoreRead q addr length => Sys2Proof.Machine.execLcpStoreRead q addr length s
  | .lcpStoreWrite q addr length data => Sys2Proof.Machine.execLcpStoreWrite q addr length data s
  | .lcpGenStage q slot addr => Sys2Proof.Machine.execLcpGenStage q slot addr s
  | .lcpCalInstall q src dst len => Sys2Proof.Machine.execLcpCalInstall q src dst len s
  | .lcpReset q scope => Sys2Proof.Machine.execLcpReset q scope s
  | .lcpOwnClaim q segment module => Sys2Proof.Machine.execLcpOwnClaim q segment module s
  | .lcpImgBegin q header => Sys2Proof.Machine.execLcpImgBegin q header s
  | .lcpImgData q offset data => Sys2Proof.Machine.execLcpImgData q offset data s
  | .lcpImgCommit q recOk => Sys2Proof.Machine.execLcpImgCommit q recOk s
  | .lcpImgActivate q scope version frame => Sys2Proof.Machine.execLcpImgActivate q scope version frame s
  | .imgTransferTimeout => Sys2Proof.Machine.execImgTransferTimeout s
  | .lcpXaRegRead m value => Sys2Proof.Machine.execLcpXaRegRead m value s
  | .lcpXaRegWrite m value => Sys2Proof.Machine.execLcpXaRegWrite m value s
  | .lcpXaStoreRead m value => Sys2Proof.Machine.execLcpXaStoreRead m value s
  | .lcpXaStoreWrite m value => Sys2Proof.Machine.execLcpXaStoreWrite m value s
  | .lcpTxGo m value => Sys2Proof.Machine.execLcpTxGo m value s
  | .hspiRead addr count crcOk => Sys2Proof.Machine.execHspiRead addr count crcOk s
  | .hspiWrite addr words crcOk => Sys2Proof.Machine.execHspiWrite addr words crcOk s
  | .hspiStoreRead addr length crcOk => Sys2Proof.Machine.execHspiStoreRead addr length crcOk s
  | .hspiStoreWrite addr length data crcOk => Sys2Proof.Machine.execHspiStoreWrite addr length data crcOk s
  | .hspiStatus => Sys2Proof.Machine.execHspiStatus s
  | .sysreset crcOk => Sys2Proof.Machine.execSysreset crcOk s
  | .hostspiBellSet m value => Sys2Proof.Machine.execHostspiBellSet m value s
  | .hostspiBellClear m value => Sys2Proof.Machine.execHostspiBellClear m value s
  | .i2cCommand m n value => Sys2Proof.Machine.execI2cCommand m n value s
  | .i2cCommandDone n result data => Sys2Proof.Machine.execI2cCommandDone n result data s
  | .uartRxByte byte => Sys2Proof.Machine.execUartRxByte byte s
  | .uartDataRead m => Sys2Proof.Machine.execUartDataRead m s
  | .uartTxByte m value => Sys2Proof.Machine.execUartTxByte m value s
  | .gpioEdge k level => Sys2Proof.Machine.execGpioEdge k level s
  | .fanBelowMin k rpm => Sys2Proof.Machine.execFanBelowMin k rpm s
  | .tempMeasure die ext => Sys2Proof.Machine.execTempMeasure die ext s
  | .hspiTransactionRefused cmd => Sys2Proof.Machine.execHspiTransactionRefused cmd s
  | .latchingRegisterRead m page off => Sys2Proof.Machine.execLatchingRegisterRead m page off s
  | .coreMemoryAccess h addr op ecc => Sys2Proof.Machine.execCoreMemoryAccess h addr op ecc s
  | .radioRegionSet m value => Sys2Proof.Machine.execRadioRegionSet m value s
  | .sideSendData m t => Sys2Proof.Machine.execSideSendData m t s
  | .sideSendConnect m t => Sys2Proof.Machine.execSideSendConnect m t s
  | .sideSendLink m t => Sys2Proof.Machine.execSideSendLink m t s
  | .sideSendTerminate m t => Sys2Proof.Machine.execSideSendTerminate m t s
  | .sideSendBeacon m t => Sys2Proof.Machine.execSideSendBeacon m t s
  | .sideSendWake m t => Sys2Proof.Machine.execSideSendWake m t s
  | .sideTxStart ecc => Sys2Proof.Machine.execSideTxStart ecc s
  | .sideAckSend => Sys2Proof.Machine.execSideAckSend s
  | .sideAckTimeout => Sys2Proof.Machine.execSideAckTimeout s
  | .sideRetryBackoff => Sys2Proof.Machine.execSideRetryBackoff s
  | .sideDeadlineExpiry t => Sys2Proof.Machine.execSideDeadlineExpiry t s
  | .sideBeaconTimer => Sys2Proof.Machine.execSideBeaconTimer s
  | .discoverySecond => Sys2Proof.Machine.execDiscoverySecond s
  | .sideBeaconReceive frame => Sys2Proof.Machine.execSideBeaconReceive frame s
  | .sideDataReceive frame ackReq => Sys2Proof.Machine.execSideDataReceive frame ackReq s
  | .sideAckReceive frame => Sys2Proof.Machine.execSideAckReceive frame s
  | .sideConnectReceive frame => Sys2Proof.Machine.execSideConnectReceive frame s
  | .sideLinkReceive frame => Sys2Proof.Machine.execSideLinkReceive frame s
  | .sideTerminateReceive frame => Sys2Proof.Machine.execSideTerminateReceive frame s
  | .sideWakeReceive frame => Sys2Proof.Machine.execSideWakeReceive frame s
  | .sideFrameRefused src code => Sys2Proof.Machine.execSideFrameRefused src code s
  | .sideLinkAnchor l => Sys2Proof.Machine.execSideLinkAnchor l s
  | .sideLinkReply l => Sys2Proof.Machine.execSideLinkReply l s
  | .sideLinkSupervisionTimeout l => Sys2Proof.Machine.execSideLinkSupervisionTimeout l s
  | .sideEvtPop m => Sys2Proof.Machine.execSideEvtPop m s
  | .sideRxReturn m e => Sys2Proof.Machine.execSideRxReturn m e s
  | .sidephyPllUnlock => Sys2Proof.Machine.execSidephyPllUnlock s
  | .sideCounterStoreFail => Sys2Proof.Machine.execSideCounterStoreFail s
  | .anchorReady entropy selftest header damaged => Sys2Proof.Machine.execAnchorReady entropy selftest header damaged s
  | .anchorCommandDone => Sys2Proof.Machine.execAnchorCommandDone s
  | .getInfo m tag params fate => Sys2Proof.Machine.execGetInfo m tag params fate s
  | .random m tag params fate => Sys2Proof.Machine.execRandom m tag params fate s
  | .keyGen m tag params fate => Sys2Proof.Machine.execKeyGen m tag params fate s
  | .keyImport m tag params fate => Sys2Proof.Machine.execKeyImport m tag params fate s
  | .keyDestroy m tag params fate => Sys2Proof.Machine.execKeyDestroy m tag params fate s
  | .keyPush m tag params fate => Sys2Proof.Machine.execKeyPush m tag params fate s
  | .partyPromote m tag params fate => Sys2Proof.Machine.execPartyPromote m tag params fate s
  | .derive m tag params fate => Sys2Proof.Machine.execDerive m tag params fate s
  | .cipher m tag params fate => Sys2Proof.Machine.execCipher m tag params fate s
  | .hash m tag params fate => Sys2Proof.Machine.execHash m tag params fate s
  | .hmac m tag params fate => Sys2Proof.Machine.execHmac m tag params fate s
  | .sign m tag params fate => Sys2Proof.Machine.execSign m tag params fate s
  | .verify m tag params fate => Sys2Proof.Machine.execVerify m tag params fate s
  | .lcpAgree m tag params fate => Sys2Proof.Machine.execLcpAgree m tag params fate s
  | .lcpSign m tag params fate => Sys2Proof.Machine.execLcpSign m tag params fate s
  | .meterSign m tag params fate => Sys2Proof.Machine.execMeterSign m tag params fate s
  | .attest m tag params fate => Sys2Proof.Machine.execAttest m tag params fate s
  | .getCert m tag params fate => Sys2Proof.Machine.execGetCert m tag params fate s
  | .lifecycle m tag params fate => Sys2Proof.Machine.execLifecycle m tag params fate s
  | .fuse m tag params fate => Sys2Proof.Machine.execFuse m tag params fate s
  | .tamper m tag params fate active => Sys2Proof.Machine.execTamper m tag params fate active s
  | .tableSeal m tag params fate => Sys2Proof.Machine.execTableSeal m tag params fate s
  | .tableCheck m tag params fate => Sys2Proof.Machine.execTableCheck m tag params fate s
  | .entropyHealthFail => Sys2Proof.Machine.execEntropyHealthFail s
  | .tamperEvent source unpowered => Sys2Proof.Machine.execTamperEvent source unpowered s
  | .bootImageChecked recOk => Sys2Proof.Machine.execBootImageChecked recOk s
  | .updCheckHdr m => Sys2Proof.Machine.execUpdCheckHdr m s
  | .updCheckBody m => Sys2Proof.Machine.execUpdCheckBody m s
  | .updProgram m recOk => Sys2Proof.Machine.execUpdProgram m recOk s
  | .updAbort m => Sys2Proof.Machine.execUpdAbort m s
  | .updOperationDone dev recOk => Sys2Proof.Machine.execUpdOperationDone dev recOk s
  | .updConfirm m value recOk => Sys2Proof.Machine.execUpdConfirm m value recOk s
  | .updHealthHalf => Sys2Proof.Machine.execUpdHealthHalf s
  | .updHealthExpiry => Sys2Proof.Machine.execUpdHealthExpiry s
  | .updBootreq m value => Sys2Proof.Machine.execUpdBootreq m value s
  | .updActArm m => Sys2Proof.Machine.execUpdActArm m s
  | .updActDisarm m => Sys2Proof.Machine.execUpdActDisarm m s
  | .activationDue recOk => Sys2Proof.Machine.execActivationDue recOk s
  | .updPactSend m => Sys2Proof.Machine.execUpdPactSend m s
  | .flashErase m value => Sys2Proof.Machine.execFlashErase m value s
  | .flashProgram m value => Sys2Proof.Machine.execFlashProgram m value s
  | .flashVerify m value => Sys2Proof.Machine.execFlashVerify m value s
  | .flashDone dev => Sys2Proof.Machine.execFlashDone dev s
  | .blockResetRequest m page => Sys2Proof.Machine.execBlockResetRequest m page s
  | .blockIdleReached page us => Sys2Proof.Machine.execBlockIdleReached page us s
  | .blockResetTimeout page => Sys2Proof.Machine.execBlockResetTimeout page s
  | .blockResetRelease page => Sys2Proof.Machine.execBlockResetRelease page s
  | .powerOn samples => Sys2Proof.Machine.execPowerOn samples s
  | .pfWarnRaised => Sys2Proof.Machine.execPfWarnRaised s
  | .pfWarnReleased => Sys2Proof.Machine.execPfWarnReleased s
  | .brownout => Sys2Proof.Machine.execBrownout s
  | .resetPinLow => Sys2Proof.Machine.execResetPinLow s
  | .resetDriveEnd => Sys2Proof.Machine.execResetDriveEnd s
  | .resetRelease late recOk => Sys2Proof.Machine.execResetRelease late recOk s
  | .warmResetRelease recOk => Sys2Proof.Machine.execWarmResetRelease recOk s
  | .resetRequest m value => Sys2Proof.Machine.execResetRequest m value s
  | .resetRequestCancel m value => Sys2Proof.Machine.execResetRequestCancel m value s
  | .resetRequestDelayExpiry => Sys2Proof.Machine.execResetRequestDelayExpiry s
  | .rstOutWrite m value => Sys2Proof.Machine.execRstOutWrite m value s
  | .rstOutMinExpiry => Sys2Proof.Machine.execRstOutMinExpiry s
  | .clockReady sources pages => Sys2Proof.Machine.execClockReady sources pages s
  | .clockTimeout source pages => Sys2Proof.Machine.execClockTimeout source pages s
  | .clockLoss source pages => Sys2Proof.Machine.execClockLoss source pages s
  | .powerStateRequest m value => Sys2Proof.Machine.execPowerStateRequest m value s
  | .powerHandshakeAccepted => Sys2Proof.Machine.execPowerHandshakeAccepted s
  | .powerHandshakeRefused => Sys2Proof.Machine.execPowerHandshakeRefused s
  | .powerHandshakeTimeout => Sys2Proof.Machine.execPowerHandshakeTimeout s
  | .powerEntryStep => Sys2Proof.Machine.execPowerEntryStep s
  | .restEnter => Sys2Proof.Machine.execRestEnter s
  | .restExit => Sys2Proof.Machine.execRestExit s
  | .wakeEvent source decayed => Sys2Proof.Machine.execWakeEvent source decayed s
  | .returnStageDone time decayed recOk => Sys2Proof.Machine.execReturnStageDone time decayed recOk s
  | .returnRegulatorTimeout => Sys2Proof.Machine.execReturnRegulatorTimeout s
  | .dormantListenWindow => Sys2Proof.Machine.execDormantListenWindow s
  | .regulatorStageRetry => Sys2Proof.Machine.execRegulatorStageRetry s
  | .backupSwitchover toVbat => Sys2Proof.Machine.execBackupSwitchover toVbat s
  | .backupSupplyLost => Sys2Proof.Machine.execBackupSupplyLost s
  | .rtcOscFail => Sys2Proof.Machine.execRtcOscFail s
  | .vbatMeasure mv => Sys2Proof.Machine.execVbatMeasure mv s
  | .rtcTrimWindow tStart tEnd locked => Sys2Proof.Machine.execRtcTrimWindow tStart tEnd locked s
  | .rtcSet m value => Sys2Proof.Machine.execRtcSet m value s
  | .rtcSetAtPtpApply => Sys2Proof.Machine.execRtcSetAtPtpApply s
  | .rtcDstAdd m clear => Sys2Proof.Machine.execRtcDstAdd m clear s
  | .rtcDstSub m clear => Sys2Proof.Machine.execRtcDstSub m clear s
  | .rtcDstApply => Sys2Proof.Machine.execRtcDstApply s
  | .rtcAlarmFire k => Sys2Proof.Machine.execRtcAlarmFire k s
  | .rtcEndOfRange => Sys2Proof.Machine.execRtcEndOfRange s
  | .cairnMetricSample k => Sys2Proof.Machine.execCairnMetricSample k s
  | .cairnIntervalEnd => Sys2Proof.Machine.execCairnIntervalEnd s
  | .cairnOccurrence => Sys2Proof.Machine.execCairnOccurrence s
  | .cairnRaise m value => Sys2Proof.Machine.execCairnRaise m value s
  | .cairnRecordWrite ok => Sys2Proof.Machine.execCairnRecordWrite ok s
  | .cairnFlushRequest m value => Sys2Proof.Machine.execCairnFlushRequest m value s
  | .cairnFlushDone => Sys2Proof.Machine.execCairnFlushDone s
  | .cairnCursorLoad m value => Sys2Proof.Machine.execCairnCursorLoad m value s
  | .cairnWinAdvance m => Sys2Proof.Machine.execCairnWinAdvance m s
  | .cairnFreeze m value => Sys2Proof.Machine.execCairnFreeze m value s
  | .cairnThaw => Sys2Proof.Machine.execCairnThaw s
  | .cairnReleaseScan => Sys2Proof.Machine.execCairnReleaseScan s

end Sys2Proof.Machine
end

