-- ==== Sys2Proof/Safety.lean ====
section
/-! DEFINITION. The terms that claims about the module use: the canonical form of its memories and of its register
file, what a command may touch, and when a command completes. -/
namespace Sys2Proof.Machine

/-- Every byte memory is in canonical form; the NOR lists what differs from the device as made. -/
def Mems.wf (m : Mems) : Bool :=
  memWf m.store && memWf m.sram && memWf m.tcm && memWf m.ret && memWf m.mram && memWf m.bk && mapWf Config.norByte m.nor

/-- The register file is in canonical form: it lists each register that is not at its reset value once, in rising
order. -/
def State.regsWf (s : State) : Bool := mapWf regReset s.regs

/-- What every step keeps: memories and register file in canonical form. -/
def State.Ok (s : State) : Prop := s.regsWf = true ∧ s.mem.wf = true

/-- The command completes: it answers a next state, of which `P` holds. -/
def Completes (c : Instr) (s : State) (P : State → Prop) : Prop := ∃ t, exec c s = .next t ∧ P t

/-- The bits a field names lie in a word. -/
def Fld.ok (f : Fld) : Bool := decide (f.lo ≤ f.hi) && decide (f.hi < 32)

/-- Two fields share no bit: other registers, or other bits of one. -/
def Fld.apart (f g : Fld) : Bool :=
  decide (regKey f.page f.off ≠ regKey g.page g.off) || decide (g.hi < f.lo) || decide (f.hi < g.lo)

/-- Bit `k` of a field that holds one bit for each unit. -/
def Fld.nth (f : Fld) (k : Nat) : Fld := { f with hi := f.lo + k, lo := f.lo + k }

/-- Every bit of every register is as it was, but those of the listed fields. -/
def Untouched (fs : List Fld) (s t : State) : Prop :=
  ∀ g : Fld, g.ok = true → (∀ f ∈ fs, f.apart g = true) → t.fld g = s.fld g

/-- The field shows `v`, as far as its width goes. -/
def State.shows (t : State) (f : Fld) (v : Nat) : Prop := t.fld f = v % 2 ^ (f.hi + 1 - f.lo)

/-- From `s` to `t` the counter field has counted `n` more; it wraps. -/
def Counted (s t : State) (f : Fld) (n : Nat) : Prop := t.fld f = (s.fld f + n) % 2 ^ (f.hi + 1 - f.lo)

/-- The command changed nothing: only the answer of the last command is gone. -/
def Unchanged (s t : State) : Prop := t = { s with out := [] }

/-- Every byte of a memory but `n` from `a` reads as before. -/
def SameOutside (m m' : Bytes) (a n : Nat) : Prop := ∀ b : Nat, (b < a ∨ a + n ≤ b) → memGet m' b = memGet m b

/-- The fields that a loss of the cairn changes (R505). -/
def lossFlds : List Fld := [R.CAIRN_CNT_LOST_N, R.PG_IRQ_RAW_BIT pCAIRN 1]

/-- Interrupt bit `k` of a page is set in PG_IRQ_RAW (R11). -/
def State.irqSet (t : State) (p k : Nat) : Prop := t.fld (R.PG_IRQ_RAW_BIT p k) = 1

/-- Nothing but registers, answers and the lines that wait to post differs: no memory, no pin, no queue, no hidden
state. -/
def RegsOnly (s t : State) : Prop := t = { s with regs := t.regs, out := t.out, posts := t.posts }

/-- Nothing but registers, answers, the lines that wait to post, the fences in force and what the cairn has been told
differs. -/
def FenceOnly (s t : State) : Prop :=
  t = { s with regs := t.regs, out := t.out, posts := t.posts, fences := t.fences, cairn := t.cairn
               occQueue := t.occQueue, occDropped := t.occDropped }

/-- The byte memories of the module. -/
inductive Part where
  | store | sram | tcm | ret | mram | nor | bk
deriving DecidableEq, Repr

/-- A memory's bytes, and the words of it that are uncorrectable. -/
def Mems.part (m : Mems) : Part → Bytes × List Nat
  | .store => (m.store, m.storeBad)
  | .sram => (m.sram, m.sramBad)
  | .tcm => (m.tcm, m.tcmBad)
  | .ret => (m.ret, [])
  | .mram => (m.mram, m.mramBad)
  | .nor => (m.nor, [])
  | .bk => (m.bk, [])

/-- Anchor takes a command: it has started, none runs, and it is not fenced (R400, R412, R423). -/
def AnchorIdle (s : State) : Prop :=
  s.fld R.ANCHOR_STATUS_READY = 1 ∧ s.fld R.ANCHOR_STATUS_BUSY = 0 ∧ ∀ f ∈ s.fences, f.page ≠ pANCHOR

/-- A command of Anchor runs to the end that is given: the response that ANCHOR_COMMAND_DONE writes stands ready (R411),
with STATUS and the result bytes. -/
def AnchorAnswers (t : State) (cmd tag status : Nat) (result : List Byte) : Prop :=
  t.anchor.resp = some (leBytes 1 cmd ++ [0] ++ leBytes 2 status ++ leBytes 4 tag ++ leBytes 2 result.length ++
    leBytes 2 0 ++ result, false) ∧
  t.fld R.ANCHOR_STATUS_BUSY = 1 ∧ t.fld R.ANCHOR_MBOX_CTRL_BUSY = 1 ∧ t.out = []

/-- The fields that every request written with GO changes (R411, R412). -/
def mboxFlds : List Fld :=
  [R.PG_LOCK_ARMED pANCHOR, R.ANCHOR_STATUS_BUSY, R.ANCHOR_MBOX_CTRL_BUSY] ++ (List.range 64).map R.ANCHOR_MBOX_REQ

/-- The copy of the boot record that an update writes: the one not in force (R431). -/
def bootTarget (s : State) : Nat := if s.bootCopyInForce = some 0 then 1 else 0

/-- The update of the boot record is whole: the other copy is valid, newer, and in force; every other byte of MRAM is as
it was (R431). -/
def BootUpdated (s t : State) : Prop :=
  bootCopyOk (t.bootCopy (bootTarget s)) = true ∧ leAt (t.bootCopy (bootTarget s)) 4 4 = (leAt s.bootRec 4 4 + 1) % 2 ^ 32 ∧
  SameOutside s.mem.mram t.mem.mram (0x10000 + 0x80 * bootTarget s) 128

/-- A reset record stands at its place in retained bank 0, under the next SEQ of the ring and with its CRC, and RST_LAST
and RST_SEQ show it (R456). -/
def ResetNoted (s t : State) (scope cause detail rtc ns flags : Nat) : Prop :=
  let seq := s.nextResetSeq
  let body := leBytes 4 0x52535431 ++ leBytes 4 seq ++ leBytes 1 scope ++ leBytes 1 cause ++ leBytes 2 detail ++
    leBytes 4 rtc ++ leBytes 6 (ns / 1000000000) ++ leBytes 4 (ns % 1000000000) ++ leBytes 2 flags
  t.resetRec (seq % 8) = body ++ leBytes 4 (crc32 body) ∧ t.shows R.RST_SEQ_SEQ seq ∧ t.shows R.RST_LAST_SCOPE scope ∧
  t.shows R.RST_LAST_CAUSE cause ∧ t.shows R.RST_LAST_DETAIL detail

/-- FLAGS of a reset record (R456): TIME_VALID, RTC_VALID, PF_WARN, meter saved, lead. -/
def flagsNow (s : State) : Nat :=
  (if s.timeValid then 1 else 0) + (if s.rtcValid then 2 else 0) + (if s.rst.pfWarn then 4 else 0) +
    (if s.rst.saved then 8 else 0) + (if s.isLead then 16 else 0)

/-- Every bit of every register of which `kept` does not tell reads its reset value, but those of the listed fields. -/
def AtReset (kept : Fld → Bool) (fs : List Fld) (t : State) : Prop :=
  ∀ g : Fld, g.ok = true → kept g = false → (∀ f ∈ fs, f.apart g = true) →
    t.fld g = State.fld { State.reset with regs := [] } g

/-- Every bit of every register of which `kept` tells reads as before, but those of the listed fields. -/
def Kept (kept : Fld → Bool) (fs : List Fld) (s t : State) : Prop :=
  ∀ g : Fld, g.ok = true → kept g = true → (∀ f ∈ fs, f.apart g = true) → t.fld g = s.fld g

/-- Both supplies are on, and each VIO_STRg follows the output it is tied to (R55, R56). -/
def Supplied (s t : State) : Prop :=
  t.pins.v3p3 = true ∧ t.pins.v1p8 = true ∧ t.pins.vioMv = s.pins.vioTie.map fun tie => if tie then 3300 else 1800

/-- The module without its registers and its retained SRAM is as it comes up: MRAM, NOR, the backup domain, the clocks, the
levels from outside and what Anchor's key store holds stay, all else is at its reset value and every output in the
state of R52 (R455, R458). -/
def CameUp (s t : State) : Prop :=
  t = { State.reset with
    variant := s.variant, free := s.free, pending := s.pending, clk := s.clk, airtime := s.airtime
    anchor := s.anchor.kept, upd := { baseReq := s.upd.baseReq }
    mem := { ret := t.mem.ret, mram := s.mem.mram, mramBad := s.mem.mramBad, nor := s.mem.nor, bk := s.mem.bk }
    pins := {
      v3p3 := t.pins.v3p3, v1p8 := t.pins.v1p8, absA := s.pins.absA, absB := s.pins.absB, losA := s.pins.losA,
      losB := s.pins.losB, txfltA := s.pins.txfltA, txfltB := s.pins.txfltB, vioMv := t.pins.vioMv,
      vioTie := s.pins.vioTie, vioBack := s.pins.vioBack, partnerLeadLow := s.pins.partnerLeadLow, pmbAlert := s.pins.pmbAlert, gpio := s.pins.gpio,
      resetLow := t.pins.resetLow }
    out := t.out, regs := t.regs, rst := t.rst, rtc := t.rtc }

/-- The registers of the backup domain: AON, the RTC, and ANCHOR_TAMPER_STAT and TIME. -/
def Fld.backedUp (f : Fld) : Bool :=
  f.page = pAON || f.page = pRTC || (f.page = pANCHOR && (f.off = 0x05C || f.off = 0x060))

/-- The registers of the METER_AC and METER_DC sections, which a BLOCK reset of their page leaves (R290, R292). -/
def Fld.ofMeter (f : Fld) : Bool :=
  (f.page = pMETERAC && 0x40 ≤ f.off && f.off < 0x140) || (f.page = pMETERDC && 0x40 ≤ f.off && f.off < 0x2C0)

/-- The fields a release gives from the variant, the strap or the key store, beside RST_LAST and RST_SEQ. -/
def upFlds : List Fld :=
  [R.STORE_STATUS_SPARES_LEFT, R.ANCHOR_STATUS_LIFECYCLE, R.ANCHOR_STATUS_TAMPER_LEVEL, R.SYS_RADIO_ACTIVE,
   R.RST_LAST, R.RST_SEQ_SEQ, R.RST_CNT_SYSTEM_N]

/-- A packet of the belay link passes whole and in order: the link is up, its buffers give it back, and a module that copies
sees no gap in SEQ (R314, R317, R326). -/
def State.arrives (s : State) (p : BelayPkt) : Bool :=
  s.linkUp && p.ecc ≠ .uncorrectable && (!s.belay.copying || !s.seqSkips p.seq)

/-- A packet is dropped and nothing but registers changes, but that a module that copies asks for the data again with
RESYNC_NAK, for the address it expects (R314, R317). -/
def AskedAgain (s t : State) : Prop :=
  let body := [0x13, 0, 0, 8] ++ beBytes 4 (s.belay.seq + 1) ++ beBytes 5 (s.belay.expect.getD 0) ++ [0, 0, 0]
  RegsOnly { s with belay := t.belay } t ∧
  (if s.belay.copying = true then
    t.out = [.belayPacket (body ++ beBytes 4 (crc32 body))] ∧ t.belay = { s.belay with seq := (s.belay.seq + 1) % 2 ^ 32 }
   else t.out = [] ∧ t.belay = s.belay)

/-- A SYSTEM reset is asserted (R441, R446, R455–R458). -/
def SystemReset (s t : State) (cause detail : Nat) : Prop :=
  t.rst = { phase := .system } ∧ CameUp s t ∧ t.rtc = s.rtc ∧ Supplied s t ∧
  ResetNoted s t 2 cause detail s.rtcSecs s.ptp.ns (flagsNow s) ∧
  SameOutside s.mem.ret t.mem.ret (32 * (s.nextResetSeq % 8)) 32 ∧ Counted s t R.RST_CNT_SYSTEM_N 1 ∧
  Kept (fun g => g.backedUp || (g.page = pSYS && g.off = 0x048)) [] s t ∧
  AtReset (fun g => g.backedUp || (g.page = pSYS && g.off = 0x048)) upFlds t

/-- A COLD reset is asserted: only the backup domain keeps what it holds (R441, R457, R458). -/
def ColdReset (s t : State) (cause : Nat) : Prop :=
  t.rst = { phase := .cold, cause := (cause, 0) } ∧ CameUp s t ∧ t.mem.ret = [] ∧ t.rtcSecs = s.rtcSecs ∧
  t.rtc = { s.rtc with setTo := none, dst := none } ∧ AtReset Fld.backedUp upFlds t

/-- A reset of equal or lower rank is absorbed (R445). -/
def Absorbed (s t : State) : Prop :=
  Counted s t R.RST_CNT_ABSORBED_N 1 ∧ t.irqSet pRST 3 ∧ RegsOnly s t ∧
  Untouched [R.RST_CNT_ABSORBED_N, R.PG_IRQ_RAW_BIT pRST 3] s t

/-- A WARM reset is asserted: harts, control-plane pages and Anchor are held, and no display-plane state changes (R451,
R457, R458). -/
def WarmReset (s t : State) (cause detail : Nat) : Prop :=
  t.rst.phase = .warm ∧ (∀ p ∈ controlPages, p ∈ t.rst.down) ∧ t.rst.cpDown = true ∧ t.harts = List.replicate 8 {} ∧
  ResetNoted s t 3 cause detail s.rtcSecs s.ptp.ns (flagsNow s) ∧ Counted s t R.RST_CNT_WARM_N 1 ∧
  t.ptp = s.ptp ∧ t.commit = s.commit ∧ t.party = s.party ∧ t.gov = s.gov ∧ t.netA = s.netA ∧ t.netB = s.netB ∧
  t.ingest = s.ingest ∧ t.storeCtl = s.storeCtl ∧ t.strands = s.strands ∧ t.rails = s.rails ∧
  t.belay = s.belay ∧ t.rtc = s.rtc ∧ t.mem.store = s.mem.store ∧ t.mem.bk = s.mem.bk ∧ t.pins.rstOutHigh = s.pins.rstOutHigh ∧
  t.pins.leadLow = s.pins.leadLow ∧ t.pins.driving = s.pins.driving ∧ t.pins.railEn = s.pins.railEn ∧ t.anchor = s.anchor.kept

/-- A REQUEST of session `x` is accepted: LCP serves, its SEQ is none of the last four executed, and it is neither seen
already nor too old (R363–R365). -/
def ReqAccepted (s : State) (q : LcpReq) (x : LcpSession) : Prop :=
  s.lcpServes = true ∧ s.session q.session = some x ∧ (∀ d ∈ x.done, d.1 ≠ q.seq) ∧ q.seq ∉ x.seen ∧
  (∀ y ∈ x.seen, y ≤ q.seq + 63)

/-- It is accepted and its body has the form of its OP, so that it is executed (R366, R368). -/
def Executes (s : State) (q : LcpReq) (x : LcpSession) : Prop := ReqAccepted s q x ∧ q.malformed = none

/-- The body of a RESPONSE (R366): OP, FLAGS 0, REQ_ID, STATUS, DETAIL, then data. -/
def responseBody (q : LcpReq) (op status detail : Nat) (data : List Byte) : List Byte :=
  beBytes 1 op ++ [0] ++ beBytes 2 q.reqId ++ beBytes 2 status ++ beBytes 2 detail ++ data

/-- The RESPONSE is the last message sent, under the session's next SEQ, and is kept for a repeat (R363, R365). -/
def Responds (t : State) (q : LcpReq) (x : LcpSession) (op status detail : Nat) (data : List Byte) : Prop :=
  t.out.getLast? = some (x.message (x.tx + 1) (responseBody q op status detail data)) ∧
  (x.tx + 1 < 0xFFFFFFFF → ∀ y ∈ (t.session x.id).toList, y.tx = x.tx + 1 ∧ q.seq ∈ y.seen ∧
    y.done = ((q.seq, x.tx + 1, responseBody q op status detail data) :: x.done).take 4)

/-- A REQUEST is turned away: nothing but the session's record and the RESPONSE changes. -/
def TurnedAway (s t : State) (q : LcpReq) (x : LcpSession) (op status detail : Nat) : Prop :=
  Responds t q x op status detail [] ∧ t = { s with out := t.out, lcp := t.lcp, upd := t.upd, regs := t.regs, free := t.free } ∧
  t.lcp.leases = s.lcp.leases ∧ t.lcp.drops = s.lcp.drops ∧ (x.tx + 1 < 0xFFFFFFFF → t.upd = s.upd ∧ t.regs = s.regs)

/-- A datagram is dropped without an answer, and counted under code 0x0101 + k (R364). -/
def Dropped (s t : State) (k : Nat) : Prop :=
  t = { s with out := [], lcp := { s.lcp with drops := s.lcp.drops.set k (s.lcp.drops.getD k 0 + 1) } }

/-- A command by which firmware or the host may break a rule that it must keep; it then has no defined effect (R17). -/
def mayBreak (c : Instr) : Bool := match c with
  | .storeWindowAccess .. | .telemPop .. | .sideSendData .. | .sideSendConnect .. | .sideSendLink ..
  | .sideSendTerminate .. | .sideSendBeacon .. | .sideSendWake .. | .sideTxStart .. | .schedPush .. | .irqPost ..
  | .irqPostRetry .. | .flashErase .. | .flashProgram .. | .flashVerify .. | .rtcSet .. | .resetRequest ..
  | .resetRequestCancel .. | .genStageGo .. | .pgLockWrite .. | .counterClear .. | .irqStatClear ..
  | .fenceClear .. | .idleRequest .. | .hostspiBellSet .. | .hostspiBellClear .. | .i2cCommand .. | .uartTxByte ..
  | .lcpTxGo .. | .latchingRegisterRead .. | .cairnMetricSample .. | .registerWrite .. | .lcpXaRegRead ..
  | .lcpXaRegWrite .. | .lcpXaStoreRead .. | .lcpXaStoreWrite .. | .lcpRead .. | .lcpWrite .. | .hspiRead ..
  | .hspiWrite .. | .coreMemoryAccess .. => true
  | _ => false

/-- A command after which the central store may hold other bytes. -/
def changesStore (c : Instr) : Bool := match c with
  | .registerWrite .. | .commitDue .. | .mediaPacketReceive .. | .xsdecSliceDecode .. | .storeInitDone ..
  | .storeWindowAccess .. | .patrolRead .. | .strandAbort .. | .meterSaveDone .. | .resyncDataReceive ..
  | .wdtSysExpiry | .lcpWrite .. | .lcpStoreWrite .. | .lcpCalInstall .. | .lcpImgBegin .. | .lcpImgData ..
  | .lcpXaRegRead .. | .lcpXaRegWrite .. | .lcpXaStoreRead .. | .lcpXaStoreWrite .. | .hspiWrite ..
  | .hspiStoreWrite .. | .sysreset .. | .coreMemoryAccess .. | .anchorReady .. | .tamperEvent ..
  | .blockIdleReached .. | .blockResetTimeout .. | .powerOn .. | .brownout | .resetPinLow
  | .resetRequestDelayExpiry | .returnStageDone .. => true
  | _ => false

/-- A command after which a TCM may hold other bytes. -/
def changesTcm (c : Instr) : Bool := match c with
  | .meterSaveDone .. | .wdtSysExpiry | .sysreset .. | .coreMemoryAccess .. | .anchorReady .. | .tamperEvent ..
  | .blockIdleReached .. | .blockResetTimeout .. | .powerOn .. | .brownout | .resetPinLow | .resetRelease ..
  | .warmResetRelease .. | .resetRequestDelayExpiry | .returnStageDone .. => true
  | _ => false

/-- A command after which the NOR may hold other bytes. -/
def changesNor (c : Instr) : Bool := match c with
  | .registerWrite .. | .pgLockWrite .. | .counterClear .. | .irqStatClear .. | .fenceClear .. | .idleRequest ..
  | .meterSaveDone .. | .wdtSysExpiry | .wdtCoreExpiry .. | .lcpWrite .. | .lcpXaRegRead .. | .lcpXaRegWrite ..
  | .lcpXaStoreRead .. | .lcpXaStoreWrite .. | .lcpTxGo .. | .hspiWrite .. | .sysreset .. | .hostspiBellSet ..
  | .hostspiBellClear .. | .i2cCommand .. | .uartTxByte .. | .coreMemoryAccess .. | .anchorReady ..
  | .tamperEvent .. | .updAbort .. | .updOperationDone .. | .updHealthExpiry | .activationDue .. | .flashDone ..
  | .blockIdleReached .. | .blockResetTimeout .. | .powerOn .. | .brownout | .resetPinLow
  | .resetRequestDelayExpiry | .returnStageDone .. => true
  | _ => false

/-- A command after which the backup memory may hold other bytes. -/
def changesBackup (c : Instr) : Bool := match c with
  | .registerWrite .. | .pgLockWrite .. | .counterClear .. | .irqStatClear .. | .fenceClear .. | .idleRequest ..
  | .meterSaveDone .. | .wdtSysExpiry | .lcpWrite .. | .lcpXaRegRead .. | .lcpXaRegWrite .. | .lcpXaStoreRead ..
  | .lcpXaStoreWrite .. | .lcpTxGo .. | .hspiWrite .. | .sysreset .. | .hostspiBellSet .. | .hostspiBellClear ..
  | .i2cCommand .. | .uartTxByte .. | .coreMemoryAccess .. | .anchorReady .. | .tamperEvent ..
  | .blockIdleReached .. | .blockResetTimeout .. | .powerOn .. | .brownout | .resetPinLow
  | .resetRequestDelayExpiry | .returnStageDone .. | .backupSupplyLost => true
  | _ => false

end Sys2Proof.Machine
end

