-- ==== Sys2Proof/Certificates/Slice0/Obligations.lean ====
section
/-! DEFINITION. What is stated of the module for the provers, in the order of the spec's chapters. A clause names a command, the
states it is about, and what the command then does: it completes, and its next state is as the clause says. -/
open Sys2Proof Sys2Proof.Machine

/-! ## The machine as a whole -/

/-- The command at the front of the queue is run with the rest of the queue. Model's choices it rests on: assumption
log, entry 18. -/
def Obligations.StepRunsFrontCommand : Prop :=
  ∀ (c : Instr) (rest : List Instr) (s : State), s.pending = c :: rest → step s = exec c { s with pending := rest }

/-- On an empty queue one TCXO cycle of 40 ns passes, the model's choice (assumption log, entry 6): frame time
advances by 40 · (1 + rate · 2^-48) ns where the frame grid runs (R77) and IRQ_MTIME by 1 while its page is out of
reset (R340); in DORMANT and OFF, where the TCXO stands (R468), neither does. The queue stays empty and the store
and the NOR keep every byte. Model's choices it rests on: assumption log, entry 6. -/
def Obligations.IdleStepIsOneCycle : Prop :=
  ∀ s : State, s.pending = [] → ∃ t : State, step s = .next t ∧ t.pending = [] ∧ t.mem.store = s.mem.store ∧
    t.mem.nor = s.mem.nor ∧ (pwrBivouac < s.power → t.ptp = s.ptp ∧ t.router.mtime = s.router.mtime) ∧
    (s.power ≤ pwrBivouac →
      (pIRQ ∉ s.rst.down → t.router.mtime = s.router.mtime + 1) ∧ (pIRQ ∈ s.rst.down →
        t.router.mtime = s.router.mtime) ∧
      (s.gridRuns = false → t.ptp = s.ptp) ∧
      (s.gridRuns = true → -2 ^ 48 ≤ s.ptp.rate → t.ptp.rate = s.ptp.rate ∧ t.ptp.frac < 2 ^ 48 ∧
        (t.ptp.ns * 2 ^ 48 + t.ptp.frac : Int) = s.ptp.ns * 2 ^ 48 + s.ptp.frac + 40 * 2 ^ 48 + 40 * s.ptp.rate))

/-- Right after reset the memories and the register file are in canonical form, no command waits, a COLD reset is
asserted (R441), and every byte memory lists nothing but MRAM, which holds the boot record of manufacture (R431).
Model's choices it rests on: assumption log, entries 2, 14 and 17. -/
def Obligations.ResetIsCanonical : Prop :=
  State.reset.Ok ∧ State.reset.pending = [] ∧ State.reset.out = [] ∧ State.reset.rst.phase = .cold ∧
    State.reset.mem.store = [] ∧ State.reset.mem.sram = [] ∧ State.reset.mem.tcm = [] ∧ State.reset.mem.ret = [] ∧
    bootCopyOk (State.reset.bootCopy 0) = true ∧ State.reset.mem.nor = [] ∧ State.reset.mem.bk = []

/-- The reset values other than 0 that the register tables give (R7, R441). -/
def Obligations.ResetValues : Prop :=
  (∀ p ∈ [
    (R.PTP_CFG_GM_PRIO1, 0x80), (R.PTP_CFG_GM_EN, 1), (R.PTP_CFG_ANN_TO, 3), (R.PTP_CFG_LOG_ANN, 0xE),
    (R.PTP_CFG_LOG_SYNC, 0xD), (R.PTP_CFG_DOMAIN, 0x7F), (R.PTP_SERVO_CTRL_DLY_SHIFT, 4),
    (R.PTP_SERVO_CTRL_KI_SHIFT, 6), (R.PTP_SERVO_CTRL_KP_SHIFT, 2), (R.PTP_SERVO_CTRL_EN, 1),
    (R.PTP_STEP_THRESH_NS, 0x186A0), (R.COMMIT_LAST_CASE, 6), (R.STORE_SCRUB_CFG_PERIOD_H, 0x18),
    (R.ARB_CFG_CP_MIN, 8), (R.PIPE_STATUS_SOURCE, 3), (R.TELEM_CFG_SRC_EN, 0xF), (R.TELEM_CFG_TAIL_US, 0x7D0),
    (R.METER_AC_CFG_INT_LEAK, 8), (R.METER_AC_CFG_HPF_SHIFT, 4), (R.METER_ACC_CFG_SAVE_PERIOD, 0xA),
    (R.BELAY_CFG_YIELD_EN, 0x7F), (R.BELAY_CFG_CRC_CMP, 1), (R.PARTY_CAND_STANDBY_ID, 0xFFFF),
    (R.PARTY_CAND_SUMMIT_ID, 0xFFFF), (R.PARTY_ROLE_CURRENT, 0x7FF), (R.SCHED_STATUS_FREE, 0x1000),
    (R.IRQ_POST_BASE_ADDR, 0x10000000), (R.WDT_SYS_CFG_EN, 1), (R.WDT_SYS_CFG_TIMEOUT_MS, 0xFA0),
    (R.WDT_SYS_STAT_REMAIN_MS, 0xFA0), (R.WDT_CORE_TIMEOUT_MS, 0x3E8), (R.LCP_CFG_EN, 1),
    (R.LCP_CFG_UDP_PORT, 0x1522), (R.HOSTSPI_CFG_RIGHTS, 9), (R.UART_CFG_DIV, 0xD9), (R.UART_STAT_TX_FREE, 0x10),
    (R.TEMP_ALARM_T, 0x690), (R.SIDEPHY_CFG_PRE_LEN, 8), (R.SIDEPHY_POWER_MAX_DBM, 0xE), (R.SIDEPHY_SCA_PPM, 0x32),
    (R.SIDEPHY_DISC_HOP, 1), (R.SIDE_CFG_NET_ID, 0xFFFF), (R.SIDE_RETRY_RETRIES, 3),
    (R.SIDE_RETRY_BACKOFF_MS, 0xA), (R.SIDE_BSEG_SEGMENT, 0xFFFF), (R.RST_BLK_CFG_TIMEOUT_MS, 0x32),
    (R.PWR_CFG_REST_EN, 1), (R.PWR_CFG_CKPT, 1), (R.PWR_CFG_HS_MS, 0x64), (R.PWR_WAKE_EN_EN, 1),
    (R.PWR_DORM_RADIO_PERIOD_MS, 0x2710), (R.CLK_STAT_RUN, 3), (R.CLK_STAT_READY, 3), (R.AON_BKSTAT_LOST, 1),
    (R.RTC_DISC_SHIFT, 2), (R.CAIRN_CFG_INTERVAL_S, 0x384), (R.CAIRN_RAISE_CTRL_UNIT, 0xFF)],
    State.reset.fld p.1 = p.2) ∧
  (∀ k < 2, State.reset.fld (R.NET_CFG_PORT_EN k) = 1) ∧
  (∀ k < 24, State.reset.fld (R.RAIL_SMAP_ODD k) = 0xFFFF) ∧
  (∀ k < 24, State.reset.fld (R.RAIL_SMAP_EVEN k) = 0xFFFF) ∧
  (∀ k < 12, State.reset.fld (R.RAIL_HMIN_HMIN k) = 0xFFFF) ∧
  (∀ k < 3, State.reset.fld (R.METER_AC_VGAIN_VGAIN k) = 0x400000) ∧
  (∀ k < 12, State.reset.fld (R.METER_DC_VGAIN_VGAIN k) = 0x400000) ∧
  (∀ k < 8, State.reset.fld (R.IRQ_MTIMECMP_LO_C_LO k) = 0xFFFFFFFF) ∧
  (∀ k < 8, State.reset.fld (R.IRQ_MTIMECMP_HI_C_HI k) = 0xFFFFFFFF) ∧
  (∀ k < 4, State.reset.fld (R.FAN_DUTY_DUTY k) = 0xFF) ∧
  (∀ k < 6, State.reset.fld (R.SIDEPHY_SB_LIMIT_RESERVE k) = 0x64) ∧
  (∀ k < 32, State.reset.fld (R.CAIRN_MET_CFG_SAMPLE_MS k) = 0x3E8) ∧
  (∀ k < 32, State.reset.fld (R.CAIRN_MET_STEP_STEP k) = 1)

/-- From every state in canonical form every step leads to one: no memory lists an address twice, out of order or
with the byte an unlisted address reads, and the register file lists no register at its reset value. -/
def Obligations.StepKeepsForm : Prop :=
 ∀ s t : State, s.Ok → step s = .next t → t.Ok

/-- Every command but those by which firmware or the host may break a rule of its own completes, in every state and
for every operand; and a command that does not complete is one that breaks such a rule (R16, R17). Model's choices
it rests on: assumption log, entry 19. -/
def Obligations.EveryCommandCompletes : Prop :=
  (∀ (c : Instr) (s : State), mayBreak c = false → Completes c s fun _ => True) ∧
  (∀ (c : Instr) (s : State), Completes c s (fun _ => True) ∨ ∃ rule : Nat, exec c s = .fault (.unpredictable rule))

/-- Which commands may change the central store, the TCMs, the NOR and the backup memory: all others leave every
byte of them, and every word's check bits, as they were. -/
def Obligations.MemoryFootprints : Prop :=
  (∀ (c : Instr) (s t : State), changesStore c = false → exec c s = .next t →
    t.mem.store = s.mem.store ∧ t.mem.storeBad = s.mem.storeBad) ∧
  (∀ (c : Instr) (s t : State), changesTcm c = false → exec c s = .next t →
    t.mem.tcm = s.mem.tcm ∧ t.mem.tcmBad = s.mem.tcmBad) ∧
  (∀ (c : Instr) (s t : State), changesNor c = false → exec c s = .next t → t.mem.nor = s.mem.nor) ∧
  (∀ (c : Instr) (s t : State), changesBackup c = false → exec c s = .next t → t.mem.bk = s.mem.bk)

/-! ## Register pages and peripherals (13) -/

/-- R14: a write of PG_LOCK has effect only with the page key; bit 0 then sets LOCKED, which no write clears, or the
arm. A write with a wrong key sets no arm and consumes one that was set; a WOK write without an arm is ignored. -/
def Obligations.LockKeyed : Prop :=
  (∀ (m : Master) (page : Nat) (v : Word) (s : State), s.Ok → pageAssigned page = true → s.pageAbsent page = false →
    m.holds (pageRight page) = true → v &&& 0xFFFC#32 = 0 → Completes (.pgLockWrite m page v) s fun t =>
    let good := v.toNat / 2 ^ 16 = 0x5A00 + page
    t.fld (R.PG_LOCK_ARMED page) = (if good ∧ v.getLsbD 0 = false then 1 else 0) ∧
    t.fld (R.PG_LOCK_LOCKED page) = (if good ∧ v.getLsbD 0 = true then 1 else s.fld (R.PG_LOCK_LOCKED page)) ∧
      RegsOnly s t ∧
    Untouched [R.PG_LOCK_ARMED page, R.PG_LOCK_LOCKED page] s t) ∧
  (∀ (m : Master) (page off : Nat) (v : Word) (s : State), s.Ok → (clearTable page off).isSome = true →
    s.pageAbsent page = false →
    m.holds (pageRight page) = true → (s.isArmed page = false ∧ v = 1) ∨ v = 0 →
    Completes (.counterClear m page off v) s fun t =>
    RegsOnly s t ∧ Untouched [R.PG_LOCK_ARMED page] s t)

/-- R11: bit k of a page drives interrupt line page × 4 + k, and an event in the same cycle as a write of 1 to
STAT[k] wins: the bit remains set. -/
def Obligations.EventWins : Prop :=
  (∀ (page k : Nat) (s : State), k < 4 →
    (s.lineHigh (page * 4 + k) = true ↔ s.fld (R.PG_IRQ_RAW_BIT page k) = 1 ∧
      (s.fld (R.PG_IRQ_EN page)).testBit k = true)) ∧
  (∀ (rights page : Nat) (v : Word) (s : State), s.Ok → pageAssigned page = false →
    Completes (.pgLockWrite (.lcp rights) page v) s fun t =>
    t = { s with out := [.refused codeNoPage] })

/-- R9, R12, R13, R15, R358, R359: a write of PG_LOCK that a master has no right to, that sets reserved bits, or
that goes to no page; the counters' clear by an armed write; the release of fences whose cause has gone; the idle
request; and the reads that latch. Model's choices it rests on: assumption log, entries 19 and 31. -/
def Obligations.PageHeader : Prop :=
  (∀ (rights page : Nat) (v : Word) (s : State), s.Ok → pageAssigned page = true → s.pageAbsent page = false →
    (Master.lcp rights).holds (pageRight page) = false → v &&& 0xFFFC#32 = 0 →
      Completes (.pgLockWrite (.lcp rights) page v) s fun t =>
    t = { s with out := [.refused codeRights] }) ∧
  (∀ (m : Master) (page : Nat) (v : Word) (s : State), s.Ok → pageAssigned page = true → s.pageAbsent page = false →
    v &&& 0xFFFC#32 ≠ 0 → exec (.pgLockWrite m page v) s = .fault (.unpredictable 9)) ∧
  (∀ (m : Master) (page off : Nat) (v : Word) (s : State), s.Ok → (clearTable page off).isSome = true →
    s.pageAbsent page = false →
    m.holds (pageRight page) = true → s.isArmed page = true → v = 1 →
      Completes (.counterClear m page off v) s fun t =>
    (∀ o ∈ (clearTable page off).getD [], t.reg page o = 0) ∧ t.fld (R.PG_LOCK_ARMED page) = 0 ∧ t.mem = s.mem ∧
      t.pins = s.pins ∧
    (page = pSCHED → t.sched.hist = []) ∧
    (∀ g ∈ List.range 4, page = pSTR g → ∀ k ∈ List.range 12,
      (t.strand (12 * g + k)).frames = 0 ∧ (t.strand (12 * g + k)).aborts = 0 ∧ (t.strand (12 * g + k)).retOk = 0 ∧
      (t.strand (12 * g + k)).drvErr = 0)) ∧
  (∀ (m : Master) (page mask events : Nat) (s : State), s.Ok → pageAssigned page = true → s.pageAbsent page = false →
    m.holds (pageRight page) = true → Completes (.irqStatClear m page mask events) s fun t =>
    (∀ k ∈ List.range 4, t.fld (R.PG_IRQ_RAW_BIT page k) =
      (if events.testBit k then 1 else if mask.testBit k then 0 else s.fld (R.PG_IRQ_RAW_BIT page k))) ∧
    t.posts = s.posts ++ ((List.range 4).filter fun k => !s.lineHigh (page * 4 + k) && t.lineHigh (page * 4 + k) &&
      s.linePosts (page * 4 + k)).map (page * 4 + ·) ∧ t.mem = s.mem ∧ t.pins = s.pins ∧
    Untouched ([R.PG_LOCK_ARMED page] ++ (List.range 4).map (R.PG_IRQ_RAW_BIT page)) s t) ∧
  (∀ (rights page mask events : Nat) (s : State), s.Ok → pageAssigned page = true → s.pageAbsent page = false →
    (Master.lcp rights).holds (pageRight page) = false →
      Completes (.irqStatClear (.lcp rights) page mask events) s fun t =>
    t.out = [.refused codeRights] ∧ RegsOnly s t ∧ (∀ k ∈ List.range 4, t.fld (R.PG_IRQ_RAW_BIT page k) =
      (if events.testBit k then 1 else s.fld (R.PG_IRQ_RAW_BIT page k))) ∧
    Untouched ((List.range 4).map (R.PG_IRQ_RAW_BIT page)) s t) ∧
  (∀ (m : Master) (page : Nat) (present : List Nat) (s : State), s.Ok → pageAssigned page = true →
    s.pageAbsent page = false →
    m.holds (pageRight page) = true → Completes (.fenceClear m page present) s fun t =>
    (let kept : Fence → Prop := fun f => f.page ≠ page ∨ f.unit ∈ present ∨ s.causeHolds f = true
     (∀ f ∈ t.fences, f ∈ s.fences ∧ kept f) ∧ (∀ f ∈ s.fences, kept f → f ∈ t.fences) ∧
     (∀ f ∈ (s.fences.find? fun f => f.page = page).toList,
       if kept f then t.fld (R.PG_FENCE_CAUSE page) = s.fld (R.PG_FENCE_CAUSE page)
       else t.shows (R.PG_FENCE_CAUSE page) (((lowestFence page t.fences).map (·.cause)).getD 0))) ∧
    t.fld (R.PG_FENCE_ACTIVE page) = (if t.fences.any fun f =>
      f.page == page then s.fld (R.PG_FENCE_ACTIVE page) else 0) ∧
    t.fld (R.PG_LOCK_ARMED page) = 0 ∧ t.mem.store = s.mem.store ∧ t.mem.ret = s.mem.ret) ∧
  (∀ (m : Master) (page : Nat) (s : State), s.Ok → pageAssigned page = true → s.pageAbsent page = false →
    m.holds (pageRight page) = true →
    page ≠ pMETERACC → Completes (.idleRequest m page) s fun t =>
    t.fld (R.PG_CTRL_IDLE_REQ page) = 1 ∧ t.fld (R.PG_LOCK_ARMED page) = 0 ∧ t.mem = s.mem ∧ t.rst = s.rst ∧
    (s.fld (R.PG_CTRL_IDLE_REQ page) = 0 → ∀ g ∈ List.range 4, page = pSTR g →
      ∀ k ∈ List.range 12, 12 * g + k ∉ t.pins.driving)) ∧
  (∀ (m : Master) (s : State), s.Ok → m.holds rightRead = true → s.latches = [] →
    Completes (.latchingRegisterRead m pPTP 0x068) s fun t =>
    t.out = [.readData (BitVec.ofNat 32 (s.ptp.ns / 10 ^ 9))] ∧
    t.latches.lookup (regKey pPTP 0x06C) = some (BitVec.ofNat 32 (s.ptp.ns / 10 ^ 9 / 2 ^ 32)) ∧
    t.latches.lookup (regKey pPTP 0x070) = some (BitVec.ofNat 32 (s.ptp.ns % 10 ^ 9)) ∧
    t = { s with out := t.out, latches := t.latches, free := t.free }) ∧
  (∀ (rights page off : Nat) (s : State), s.Ok → pageAssigned page = true → off < 4096 → off % 4 = 0 →
    (Master.hspi rights).holds rightRead = false →
    Completes (.latchingRegisterRead (.hspi rights) page off) s fun t =>
      t = { s with out := [.refused codeRights] }) ∧
  (∀ s : State, s.Ok → Completes .wakeScrubDone s fun t =>
    let scrubbed : Nat → Bool := fun w => 8 * w < 0x1C000000 || (0x88000000 ≤ 8 * w && 8 * w < s.storeSize)
    if s.fld R.STORE_STATUS_WAKE_SCRUB = 0 then Unchanged s t
    else t.fld R.STORE_STATUS_WAKE_SCRUB = 0 ∧ t.irqSet pSTORE 3 ∧
      t.mem = { s.mem with storeWeak := s.mem.storeWeak.filter fun w => !scrubbed w } ∧
      Counted s t R.STORE_CNT_CE_N (s.mem.storeWeak.filter scrubbed).length ∧
      Counted s t R.STORE_CNT_UE_N (s.mem.storeBad.filter scrubbed).length)

/-- R6, R8, R9, R359, R366: a write of one register word as the access types of its bits say, and where it is
refused or faults; and the access engine, which moves register words and store bytes between shared SRAM and the
pages or the store. Model's choices it rests on: assumption log, entries 16, 19 and 31. -/
def Obligations.RegisterWrites : Prop :=
  (∀ (m : Master) (page off : Nat) (v : Word) (r : RegSpec) (s : State), s.Ok → pageAssigned page = true →
    s.pageAbsent page = false →
    off < 4096 → off % 4 = 0 → findReg page off = some r → v.toNat &&& notBits r.known = 0 →
      (s.specialWrite m page off v).isSome = false →
    page = pGPIO ∨ page = pTEMP ∨ page = pFAN ∨ page = pPARTY ∨ page = pBELAY → m.mayWrite page off = true →
    Completes (.registerWrite m page off v) s fun t =>
    (∀ b ∈ List.range 32, (t.reg page off).getLsbD b =
      (if r.w1s.testBit b && v.getLsbD b then true
       else if r.w1c.testBit b && v.getLsbD b then false
       else if r.rw.testBit b || (r.rwl.testBit b && s.fld (R.PG_LOCK_LOCKED page) == 0) then v.getLsbD b
       else (s.reg page off).getLsbD b)) ∧ t.mem = s.mem ∧
    (page ≠ pGPIO → Untouched [R.PG_LOCK_ARMED page, ⟨page, off, 31, 0⟩] s t)) ∧
  (∀ (m : Master) (page off : Nat) (v : Word) (s : State), s.Ok → pageAssigned page = true →
    s.pageAbsent page = false → off < 4096 →
    off % 4 = 0 → (findReg page off).isSome = false →
      exec (.registerWrite m page off v) s = .fault (.unpredictable 9)) ∧
  (∀ (h : Nat) (mmode : Bool) (page off : Nat) (v : Word) (s : State), s.Ok → page < 80 → off < 4096 → off % 4 ≠ 0 →
    h < 8 →
    Completes (.registerWrite (.hart h mmode) page off v) s fun t =>
    t = { s with out := [.coreFault 7 (0x40000000 + 4096 * page + off)], reservations := t.reservations }) ∧
  (∀ (rights page off : Nat) (v : Word) (s : State), s.Ok → page < 80 → off < 4096 → off % 4 ≠ 0 →
    Completes (.registerWrite (.lcp rights) page off v) s fun t => t = { s with out := [.refused 3] }) ∧
  (∀ (rights page off : Nat) (v : Word) (s : State), s.Ok → pageAssigned page = false → off < 4096 → off % 4 = 0 →
    Completes (.registerWrite (.hspi rights) page off v) s fun t => t = { s with out := [.refused 4] }) ∧
  (∀ (h : Nat) (page off : Nat) (v : Word) (s : State), s.Ok → pageAssigned page = false → page < 80 → off < 4096 →
    off % 4 = 0 → h < 8 →
    Completes (.registerWrite (.hart h true) page off v) s fun t => Unchanged s t) ∧
  (∀ (rights : Nat) (v : Word) (s : State), s.Ok → (Master.lcp rights).holds rightLive = false → v.toNat < 65536 →
    Completes (.registerWrite (.lcp rights) pGPIO 0x044 v) s fun t => t = { s with out := [.refused 2] }) ∧
  (∀ (m : Master) (v : Word) (s : State), s.Ok → m.holds rightSecure = true → v.toNat < 4096 → v.toNat % 4 = 0 →
    v &&& 0x7FE000#32 = 0 →
    0x10000000 ≤ s.fld R.LCP_XA_BUF_ADDR → s.fld R.LCP_XA_BUF_ADDR + v.toNat ≤ 0x10400000 →
    s.fld R.LCP_XA_ADDR_LO_A_LO % 4 ≠ 0 → Completes (.lcpXaRegRead m v) s fun t =>
    t.fld R.LCP_XA_CTRL_GO = 0 ∧ t.fld R.LCP_XA_STAT_INDEX = 0 ∧ t.irqSet pLCP 2 ∧ t.mem.store = s.mem.store ∧
    t.fld R.LCP_XA_STAT_CODE = (if v = 0 then 0 else 3)) ∧
  (∀ (m : Master) (s : State), s.Ok → m.holds rightSecure = true → 0x10000000 ≤ s.fld R.LCP_XA_BUF_ADDR →
    s.fld R.LCP_XA_BUF_ADDR + 4 ≤ 0x10400000 → s.fld R.LCP_XA_ADDR_LO_A_LO = 0x40012068 → s.latches = [] →
    Completes (.lcpXaRegRead m 0x00800004#32) s fun t =>
    t.fld R.LCP_XA_CTRL_GO = 0 ∧ t.fld R.LCP_XA_STAT_CODE = 0 ∧ t.irqSet pLCP 2 ∧
    memRead t.mem.sram (s.fld R.LCP_XA_BUF_ADDR - 0x10000000) 4 = leBytes 4 (s.ptp.ns / 10 ^ 9) ∧
    SameOutside s.mem.sram t.mem.sram (s.fld R.LCP_XA_BUF_ADDR - 0x10000000) 4) ∧
  (∀ (m : Master) (v : Nat) (s : State), s.Ok → m.holds rightSecure = true → 0x10000000 ≤ s.fld R.LCP_XA_BUF_ADDR →
    s.fld R.LCP_XA_BUF_ADDR + 4 ≤ 0x10400000 → s.fld R.LCP_XA_ADDR_LO_A_LO = 0x4004D044 → v < 65536 →
    memRead s.mem.sram (s.fld R.LCP_XA_BUF_ADDR - 0x10000000) 4 = leBytes 4 v →
      Completes (.lcpXaRegWrite m 0x01000004#32) s fun t =>
    t.fld R.LCP_XA_CTRL_GO = 0 ∧ t.fld R.LCP_XA_STAT_CODE = 0 ∧ t.irqSet pLCP 2 ∧ t.fld R.GPIO_OE_OE = v ∧
      t.mem = s.mem) ∧
  (∀ (m : Master) (n : Nat) (s : State), s.Ok → m.holds rightSecure = true → n ≤ 4096 → n % 8 = 0 →
    0x10000000 ≤ s.fld R.LCP_XA_BUF_ADDR →
    s.fld R.LCP_XA_BUF_ADDR + n ≤ 0x10400000 → s.fld R.LCP_XA_ADDR_HI_A_HI = 0 → s.storeCtl.unusable = false →
    s.fld R.STORE_STATUS_INIT_DONE = 1 → s.mem.storeBad = [] → s.fld R.LCP_XA_ADDR_LO_A_LO + n ≤ s.storeSize →
    Completes (.lcpXaStoreRead m (BitVec.ofNat 32 (0x00800000 + n))) s fun t =>
    t.fld R.LCP_XA_CTRL_GO = 0 ∧ t.fld R.LCP_XA_STAT_CODE = 0 ∧ t.irqSet pLCP 2 ∧ t.mem.store = s.mem.store ∧
    memRead t.mem.sram (s.fld R.LCP_XA_BUF_ADDR - 0x10000000) n = memRead s.mem.store (s.fld R.LCP_XA_ADDR_LO_A_LO) n ∧
    SameOutside s.mem.sram t.mem.sram (s.fld R.LCP_XA_BUF_ADDR - 0x10000000) n) ∧
  (∀ (m : Master) (n : Nat) (s : State), s.Ok → m.holds rightSecure = true → n ≤ 4096 → n % 8 = 0 → 0 < n →
    0x10000000 ≤ s.fld R.LCP_XA_BUF_ADDR →
    s.fld R.LCP_XA_BUF_ADDR + n ≤ 0x10400000 → s.fld R.LCP_XA_ADDR_HI_A_HI = 0 → s.storeCtl.unusable = false →
    s.fld R.STORE_STATUS_INIT_DONE = 1 → s.mem.storeBad = [] → 0x38000000 ≤ s.fld R.LCP_XA_ADDR_LO_A_LO →
    s.fld R.LCP_XA_ADDR_LO_A_LO + n ≤ 0x48000000 → s.fld R.LCP_XA_ADDR_LO_A_LO + n ≤ s.storeSize →
    Completes (.lcpXaStoreWrite m (BitVec.ofNat 32 (0x02000000 + n))) s fun t =>
    t.fld R.LCP_XA_CTRL_GO = 0 ∧ t.fld R.LCP_XA_STAT_CODE = 0 ∧ t.irqSet pLCP 2 ∧ t.mem.sram = s.mem.sram ∧
    memRead t.mem.store (s.fld R.LCP_XA_ADDR_LO_A_LO) n = memRead s.mem.sram (s.fld R.LCP_XA_BUF_ADDR - 0x10000000) n ∧
    SameOutside s.mem.store t.mem.store (s.fld R.LCP_XA_ADDR_LO_A_LO) n) ∧
  (∀ (m : Master) (v : Word) (s : State), s.Ok → m.holds rightSecure = true → v &&& 0x7FE000#32 = 0 →
    4096 < v.toNat % 2 ^ 13 →
    exec (.lcpXaStoreWrite m v) s = .fault (.unpredictable 17))

/-- R69, R361, R371, R517, R518, R520: the I2C buses, the UART, GPIO, FAN and TEMP, the doorbell of the host SPI,
and frames that firmware sends. Model's choices it rests on: assumption log, entries 3, 16 and 33. -/
def Obligations.Peripherals : Prop :=
  (∀ (m : Master) (n : Nat) (v : Word) (s : State), s.Ok → n < 2 → m.holds rightLive = true →
    v &&& 0x7F80E0E0#32 = 0 → v.toNat / 2 ^ 8 % 32 ≤ 16 → v.toNat % 32 ≤ 16 → Completes (.i2cCommand m n v) s fun t =>
    t.fld (R.I2C_CMD_ADDR n) = v.toNat / 2 ^ 16 % 128 ∧ t.fld (R.I2C_CMD_WR_LEN n) = v.toNat / 2 ^ 8 % 32 ∧
    t.fld (R.I2C_CMD_RD_LEN n) = v.toNat % 32 ∧ t = { s with regs := t.regs, out := t.out } ∧
    (if v.getLsbD 31 = true ∧ s.fld (R.I2C_CMD_GO n) = 0 then
      t.fld (R.I2C_CMD_GO n) = 1 ∧
      t.out = [.i2c n (v.toNat / 2 ^ 16 % 128) ((s.i2cBuf n).take (v.toNat / 2 ^ 8 % 32)) (v.toNat % 32)]
     else t.fld (R.I2C_CMD_GO n) = s.fld (R.I2C_CMD_GO n) ∧ t.out = []) ∧
    Untouched [R.PG_LOCK_ARMED (pI2C n), R.I2C_CMD_ADDR n, R.I2C_CMD_WR_LEN n, R.I2C_CMD_RD_LEN n,
      R.I2C_CMD_GO n] s t) ∧
  (∀ (m : Master) (n : Nat) (v : Word) (s : State), s.Ok → n < 2 → m.holds rightLive = true →
    v &&& 0x7F80E0E0#32 = 0 → 16 < v.toNat / 2 ^ 8 % 32 ∨ 16 < v.toNat % 32 →
      exec (.i2cCommand m n v) s = .fault (.unpredictable 17)) ∧
  (∀ (n result : Nat) (data : List Byte) (s : State), s.Ok → n < 2 → result < 4 →
    Completes (.i2cCommandDone n result data) s fun t =>
    if s.fld (R.I2C_CMD_GO n) = 0 then Unchanged s t
    else t.fld (R.I2C_CMD_GO n) = 0 ∧ t.fld (R.I2C_STAT_RESULT n) = result ∧ t.irqSet (pI2C n) 0 ∧ RegsOnly s t ∧
      (s.fld (R.I2C_CMD_RD_LEN n) ≤ 16 → t.i2cBuf n =
        if result = 0 then data.take (s.fld (R.I2C_CMD_RD_LEN n)) ++
          (s.i2cBuf n).drop (min data.length (s.fld (R.I2C_CMD_RD_LEN n)))
        else s.i2cBuf n) ∧
      Untouched ([R.I2C_CMD_GO n, R.I2C_STAT_RESULT n, R.PG_IRQ_RAW_BIT (pI2C n) 0] ++
        (List.range 4).map (R.I2C_BUF_DATA n)) s t) ∧
  (∀ (byte : Nat) (s : State), s.Ok → byte < 256 → Completes (.uartRxByte byte) s fun t =>
    if s.fld R.UART_CFG_EN = 0 then Unchanged s t
    else if s.uart.rx.length < 16 then
      t.uart = { s.uart with rx := s.uart.rx ++ [byte] } ∧ t.irqSet pUART 0 ∧
        Untouched [R.PG_IRQ_RAW_BIT pUART 0] s t ∧ t.mem = s.mem
    else t.uart = s.uart ∧ t.fld R.UART_STAT_OVERRUN = 1 ∧ RegsOnly s t ∧ Untouched [R.UART_STAT_OVERRUN] s t) ∧
  (∀ (m : Master) (s : State), s.Ok → m.holds rightRead = true → Completes (.uartDataRead m) s fun t =>
    t = { s with out := t.out, uart := { s.uart with rx := s.uart.rx.drop 1 }, free := s.free + 1 } ∧
    (t.out.map fun o => match o with
      | .readData w => some (w.toNat % 512)
      | _ => none) = [some (match s.uart.rx with
      | [] => 0
      | b :: _ => (0x100 + b) % 512)]) ∧
  (∀ (m : Master) (v : Word) (s : State), s.Ok → m.holds rightLive = true → v.toNat < 512 →
    Completes (.uartTxByte m v) s fun t =>
    t.uart = (if s.uart.tx.length < 16 then { s.uart with tx := s.uart.tx ++ [v.toNat % 256] } else s.uart) ∧
    t = { s with out := [], uart := t.uart, regs := t.regs } ∧ Untouched [R.PG_LOCK_ARMED pUART] s t) ∧
  (∀ (k : Nat) (level : Bool) (s : State), s.Ok → k < 16 → s.bit R.GPIO_OE_OE k = false →
    Completes (.gpioEdge k level) s fun t =>
    let was := s.pins.gpio.testBit k
    t.pins.gpio.testBit k = level ∧ (∀ j ∈ List.range 16, j ≠ k → t.pins.gpio.testBit j = s.pins.gpio.testBit j) ∧
      t.mem = s.mem ∧
    (if (was = false ∧ level = true ∧ s.bit R.GPIO_RISE_EN k = true) ∨ (was = true ∧ level = false ∧
      s.bit R.GPIO_FALL_EN k = true) then
      t.fld (R.GPIO_EDGE_EDGE.nth k) = 1 ∧ t.irqSet pGPIO 0
    else t.fld (R.GPIO_EDGE_EDGE.nth k) = s.fld (R.GPIO_EDGE_EDGE.nth k)) ∧
    Untouched [R.GPIO_EDGE_EDGE.nth k, R.PG_IRQ_RAW_BIT pGPIO 0] s t) ∧
  (∀ (k rpm : Nat) (s : State), s.Ok → k < 4 → Completes (.fanBelowMin k rpm) s fun t =>
    let shown := if rpm < 120 then 0 else min rpm 65535
    t.fld (R.FAN_RPM_RPM k) = shown ∧ RegsOnly s t ∧
    (s.fld R.FAN_MIN_RPM ≠ 0 → shown < s.fld R.FAN_MIN_RPM → t.irqSet pFAN 0) ∧
    (s.fld R.FAN_MIN_RPM = 0 ∨ s.fld R.FAN_MIN_RPM ≤ shown → Untouched [R.FAN_RPM_RPM k] s t) ∧
    Untouched [R.FAN_RPM_RPM k, R.PG_IRQ_RAW_BIT pFAN 0] s t) ∧
  (∀ (die a c : Int) (s : State), s.Ok → Completes (.tempMeasure die [some a, none, some c, none]) s fun t =>
    t.fld R.TEMP_DIE_T = (die % 2 ^ 16).toNat ∧ t.fld (R.TEMP_EXT_T 0) = (a % 2 ^ 16).toNat ∧
      t.fld (R.TEMP_EXT_VALID 0) = 1 ∧
    t.fld (R.TEMP_EXT_VALID 1) = 0 ∧ t.fld (R.TEMP_EXT_T 2) = (c % 2 ^ 16).toNat ∧ t.fld (R.TEMP_EXT_VALID 2) = 1 ∧
    t.fld (R.TEMP_EXT_VALID 3) = 0 ∧ RegsOnly s t ∧
    (if toSigned 16 (s.fld R.TEMP_ALARM_T) < die ∨ toSigned 16 (s.fld R.TEMP_ALARM_T) < a ∨
      toSigned 16 (s.fld R.TEMP_ALARM_T) < c then
      t.irqSet pTEMP 0
     else t.fld (R.PG_IRQ_RAW_BIT pTEMP 0) = s.fld (R.PG_IRQ_RAW_BIT pTEMP 0))) ∧
  (∀ (m : Master) (v : Word) (s : State), s.Ok → m.holds rightSecure = true →
    Completes (.hostspiBellSet m v) s fun t =>
    t.fld R.HOSTSPI_BELL_BELL = (s.fld R.HOSTSPI_BELL_BELL ||| v.toNat) ∧
    t.pins = { s.pins with hspiIrqLow := t.fld R.HOSTSPI_BELL_BELL != 0 } ∧ t.mem = s.mem ∧
    Untouched [R.PG_LOCK_ARMED pHOSTSPI, R.HOSTSPI_BELL_BELL] s t) ∧
  (∀ (rights : Nat) (v : Word) (s : State), s.Ok → (Master.hspi rights).holds rightSecure = true →
    Completes (.hostspiBellClear (.hspi rights) v) s fun t =>
    t.fld R.HOSTSPI_BELL_BELL = (s.fld R.HOSTSPI_BELL_BELL &&& (0xFFFFFFFF ^^^ v.toNat)) ∧
    t.pins = { s.pins with hspiIrqLow := t.fld R.HOSTSPI_BELL_BELL != 0 } ∧ t.mem = s.mem ∧
    ((s.fld R.HOSTSPI_BELL_BELL &&& v.toNat) ≠ 0 → t.irqSet pHOSTSPI 2) ∧
    Untouched [R.PG_LOCK_ARMED pHOSTSPI, R.HOSTSPI_BELL_BELL, R.PG_IRQ_RAW_BIT pHOSTSPI 2] s t) ∧
  (∀ (m : Master) (v : Word) (s : State), s.Ok → m.holds rightSecure = true → v &&& 0x7FFEC000#32 = 0 →
    v.getLsbD 31 = false ∨ (0x10000000 ≤ s.fld R.LCP_TX_ADDR_ADDR ∧
      s.fld R.LCP_TX_ADDR_ADDR + v.toNat % 2 ^ 14 ≤ 0x10400000) →
    Completes (.lcpTxGo m v) s fun t =>
      let a := s.fld R.LCP_TX_ADDR_ADDR
      let n := v.toNat % 2 ^ 14
      t.mem = s.mem ∧ (v.getLsbD 31 = false → t.out = []) ∧
      (v.getLsbD 31 = true → t.irqSet pLCP 1 ∧
        t.out = [.netFrame (if v.getLsbD 16 then .b else .a) (memRead s.mem.sram (a - 0x10000000) n)]) ∧
      t = { s with regs := t.regs, out := t.out, posts := t.posts }) ∧
  (∀ (m : Master) (v : Word) (s : State), s.Ok → m.holds rightSecure = true → v &&& 0x7FFEC000#32 = 0 →
    v.getLsbD 31 = true →
    v.toNat % 2 ^ 14 ≠ 0 → s.fld R.LCP_TX_ADDR_ADDR < 0x10000000 → exec (.lcpTxGo m v) s = .fault (.unpredictable 17))

/-- R362–R365: sessions opened, closed and timed out; datagrams dropped without an answer and counted; a request
that repeats one of the last four is answered from the cache; nothing is served while the control plane is down.
Model's choices it rests on: assumption log, entry 32. -/
def Obligations.LcpSessions : Prop :=
  (∀ (q : LcpReq) (p : Port) (a b d : Nat) (bs : List Byte) (ws : List Word) (r : Bool) (s : State), s.Ok →
    s.lcpServes = false →
    ∀ c ∈ [Instr.lcpRead q a b, .lcpWrite q a ws, .lcpStoreRead q a b, .lcpStoreWrite q a b bs, .lcpGenStage q a b,
      .lcpCalInstall q a b d,
      .lcpReset q a, .lcpOwnClaim q a b, .lcpImgBegin q bs, .lcpImgData q a bs, .lcpImgCommit q r,
        .lcpImgActivate q a b d,
      .lcpHello p bs, .lcpClose a b, .lcpDatagramDrop a], Completes c s fun t => Unchanged s t) ∧
  (∀ (q : LcpReq) (a b d : Nat) (bs : List Byte) (ws : List Word) (r : Bool) (s : State), s.Ok → s.lcpServes = true →
    s.session q.session = none →
    ∀ c ∈ [Instr.lcpRead q a b, .lcpWrite q a ws, .lcpStoreRead q a b, .lcpStoreWrite q a b bs, .lcpGenStage q a b,
      .lcpCalInstall q a b d,
      .lcpReset q a, .lcpOwnClaim q a b, .lcpImgBegin q bs, .lcpImgData q a bs, .lcpImgCommit q r,
        .lcpImgActivate q a b d],
    Completes c s fun t => Dropped s t 2) ∧
  (∀ (q : LcpReq) (a b d n : Nat) (body bs : List Byte) (x : LcpSession) (ws : List Word) (r : Bool) (s : State),
    s.Ok → s.lcpServes = true →
    s.session q.session = some x → (x.done.find? fun e => e.1 == q.seq) = some (q.seq, n, body) →
    ∀ c ∈ [Instr.lcpRead q a b, .lcpWrite q a ws, .lcpStoreRead q a b, .lcpStoreWrite q a b bs, .lcpGenStage q a b,
      .lcpCalInstall q a b d,
      .lcpReset q a, .lcpOwnClaim q a b, .lcpImgBegin q bs, .lcpImgData q a bs, .lcpImgCommit q r,
        .lcpImgActivate q a b d],
    Completes c s fun t => t = { s with out := [x.message n body] }) ∧
  (∀ (q : LcpReq) (a b d : Nat) (bs : List Byte) (x : LcpSession) (ws : List Word) (r : Bool) (s : State), s.Ok →
    s.lcpServes = true →
    s.session q.session = some x → (∀ e ∈ x.done, e.1 ≠ q.seq) → q.seq ∈ x.seen ∨ (∃ y ∈ x.seen, q.seq + 63 < y) →
    ∀ c ∈ [Instr.lcpRead q a b, .lcpWrite q a ws, .lcpStoreRead q a b, .lcpStoreWrite q a b bs, .lcpGenStage q a b,
      .lcpCalInstall q a b d,
      .lcpReset q a, .lcpOwnClaim q a b, .lcpImgBegin q bs, .lcpImgData q a bs, .lcpImgCommit q r,
        .lcpImgActivate q a b d],
    Completes c s fun t => Dropped s t 4) ∧
  (∀ (q : LcpReq) (a b d op : Nat) (bs : List Byte) (x : LcpSession) (ws : List Word) (r : Bool) (s : State), s.Ok →
    ReqAccepted s q x → q.malformed = some op →
    ∀ c ∈ [Instr.lcpRead q a b, .lcpWrite q a ws, .lcpStoreRead q a b, .lcpStoreWrite q a b bs, .lcpGenStage q a b,
      .lcpCalInstall q a b d,
      .lcpReset q a, .lcpOwnClaim q a b, .lcpImgBegin q bs, .lcpImgData q a bs, .lcpImgCommit q r,
        .lcpImgActivate q a b d],
    Completes c s fun t => TurnedAway s t q x op 1 0) ∧
  (∀ (p : Port) (b : List Byte) (s : State), s.Ok → s.lcpServes = true → helloOk b = false →
    Completes (.lcpHello p b) s fun t => Dropped s t 0) ∧
  (∀ (p : Port) (b : List Byte) (s : State), s.Ok → s.lcpServes = true → helloOk b = true →
    s.lcp.sessions.length < 8 →
    Completes (.lcpHello p b) s fun t =>
    t.mem = s.mem ∧ t.regs = s.regs ∧ (s.helloEntry b = none ∨ Config.ecValid 4 ((b.drop 40).take 64) = false →
      Dropped s t 1) ∧
    ∀ e ∈ (s.helloEntry b).toList, Config.ecValid 4 ((b.drop 40).take 64) = true → s.anchor.sessions.length ≤ 14 →
      (∀ k ∈ s.anchor.sessions, k.2.1 ≠ s.newSession) → t.lcp.sessions.length = s.lcp.sessions.length + 1 ∧
      (∀ y ∈ t.lcp.sessions.getLast?.toList, y.id = s.newSession ∧ y.entry = e.1 ∧ y.rights = e.2 ∧ y.tx = 0 ∧
        y.done = [] ∧ y.seen = []) ∧
      t.out.length = 1) ∧
  (∀ (p : Port) (b : List Byte) (s : State), s.Ok → s.lcpServes = true → helloOk b = true →
    8 ≤ s.lcp.sessions.length →
    Completes (.lcpHello p b) s fun t => t.lcp.sessions = s.lcp.sessions ∧ t.mem = s.mem ∧ t.regs = s.regs) ∧
  (∀ (session seq : Nat) (s : State), s.Ok → s.lcpServes = true → Completes (.lcpClose session seq) s fun t =>
    (s.session session = none → Dropped s t 2) ∧
    ∀ x ∈ (s.session session).toList,
      if seq ∈ x.seen ∨ (x.seen.any fun y => seq + 63 < y) = true then Dropped s t 4
      else t.session session = none ∧ (∀ y ∈ s.lcp.sessions, y.id ≠ session → y ∈ t.lcp.sessions) ∧ t.mem = s.mem) ∧
  (∀ (session : Nat) (s : State), s.Ok → Completes (.lcpSessionTimeout session) s fun t =>
    t.session session = none ∧ t.lcp.sessions = s.lcp.sessions.filter (fun y => y.id != session) ∧ t.mem = s.mem ∧
    (if s.fld R.UPD_STATE_XFER = 1 ∧ s.upd.session = some session ∧ s.upd.op = 0 then t.fld R.UPD_STATE_XFER = 0 ∧
      t.upd.session = none
     else t.upd = s.upd ∧ t.regs = s.regs)) ∧
  (∀ (code : Nat) (s : State), s.Ok → s.lcpServes = true → code ∈ [0x0101, 0x0102, 0x0104] →
    Completes (.lcpDatagramDrop code) s fun t =>
    Dropped s t (code - 0x0101)) ∧
  (∀ s : State, s.Ok → Completes .imgTransferTimeout s fun t =>
    if s.fld R.UPD_STATE_XFER = 1 ∧ s.upd.session.isSome = true ∧ s.upd.op = 0 then
      t.fld R.UPD_STATE_XFER = 0 ∧ t.upd = { s.upd with bodyLen := 0, bodyOk := false, session := none, next := 0 } ∧
        t.mem = s.mem ∧
      Untouched [R.UPD_STATE_XFER] s t
    else Unchanged s t)

/-- R323, R366–R369, R443: what an accepted REQUEST does and answers: READ, WRITE, STORE_READ, STORE_WRITE,
GEN_STAGE, CAL_INSTALL, RESET and OWN_CLAIM. Model's choices it rests on: assumption log, entry 32. -/
def Obligations.LcpRequests : Prop :=
  (∀ (q : LcpReq) (x : LcpSession) (addr count : Nat) (s : State), s.Ok → Executes s q x → 256 < count →
    Completes (.lcpRead q addr count) s fun t => TurnedAway s t q x 1 1 0) ∧
  (∀ (q : LcpReq) (x : LcpSession) (addr : Nat) (s : State), s.Ok → Executes s q x →
    Completes (.lcpRead q addr 0) s fun t =>
    Responds t q x 1 0 0 [] ∧ t.regs = s.regs ∧ t.mem = s.mem) ∧
  (∀ (q : LcpReq) (x : LcpSession) (s : State), s.Ok → Executes s q x → x.rights.testBit 0 = true → s.latches = [] →
    Completes (.lcpRead q 0x40012068 1) s fun t => Responds t q x 1 0 0 (beBytes 4 (s.ptp.ns / 10 ^ 9)) ∧
      t.mem = s.mem) ∧
  (∀ (q : LcpReq) (x : LcpSession) (addr count : Nat) (s : State), s.Ok → Executes s q x → 0 < count → count ≤ 256 →
    addr % 4 ≠ 0 →
    Completes (.lcpRead q addr count) s fun t => TurnedAway s t q x 1 3 0) ∧
  (∀ (q : LcpReq) (x : LcpSession) (addr count : Nat) (s : State), s.Ok → Executes s q x → 0 < count → count ≤ 256 →
    addr % 4 = 0 →
    addr < 0x40000000 ∨ 0x40050000 ≤ addr → Completes (.lcpRead q addr count) s fun t => TurnedAway s t q x 1 4 0) ∧
  (∀ (q : LcpReq) (x : LcpSession) (addr count : Nat) (s : State), s.Ok → Executes s q x → 0 < count → count ≤ 256 →
    addr % 4 = 0 →
    0x40000000 ≤ addr → pageAssigned ((addr - 0x40000000) / 0x1000) = true → x.rights.testBit 0 = false →
    Completes (.lcpRead q addr count) s fun t => TurnedAway s t q x 1 2 0) ∧
  (∀ (q : LcpReq) (x : LcpSession) (addr : Nat) (s : State), s.Ok → Executes s q x →
    Completes (.lcpWrite q addr []) s fun t =>
    TurnedAway s t q x 2 0 0) ∧
  (∀ (q : LcpReq) (x : LcpSession) (v : Word) (s : State), s.Ok → Executes s q x → v.toNat < 65536 →
    x.rights.testBit 1 = true →
    Completes (.lcpWrite q 0x4004D044 [v]) s fun t =>
    Responds t q x 2 0 0 [] ∧ t.fld R.GPIO_OE_OE = v.toNat ∧ t.mem = s.mem) ∧
  (∀ (q : LcpReq) (x : LcpSession) (s : State), s.Ok → Executes s q x → x.rights.testBit 1 = true →
    x.rights.testBit 5 = false →
    Completes (.lcpWrite q 0x40036090 [0, 0]) s fun t =>
      TurnedAway s { t with regs := s.regs, upd := s.upd } q x 2 2 1 ∧
      Untouched [R.PG_LOCK_ARMED pMETERACC, R.UPD_STATE_XFER] s t) ∧
  (∀ (q : LcpReq) (x : LcpSession) (v : Word) (ws : List Word) (s : State), s.Ok → Executes s q x →
    x.rights.testBit 1 = false →
    v.toNat < 65536 → Completes (.lcpWrite q 0x4004D044 (v :: ws)) s fun t => TurnedAway s t q x 2 2 0) ∧
  (∀ (q : LcpReq) (x : LcpSession) (addr n : Nat) (s : State), s.Ok → Executes s q x →
    Completes (.lcpStoreRead q addr n) s fun t =>
    if n % 8 ≠ 0 ∨ 1024 < n then TurnedAway s t q x 3 5 0
    else if n = 0 then TurnedAway s t q x 3 0 0
    else if x.rights.testBit 0 = false then TurnedAway s t q x 3 2 0
    else if s.storeSize < addr + n then TurnedAway s t q x 3 4 0
    else if s.storeCtl.unusable = true ∨ s.fld R.STORE_STATUS_INIT_DONE = 0 then TurnedAway s t q x 3 7 0
    else if s.storeRangeBad addr n = false then Responds t q x 3 0 0 (memRead s.mem.store addr n) ∧
      t.mem = { s.mem with storeWeak := t.mem.storeWeak }
    else t.mem.store = s.mem.store ∧ ∀ w ∈ (s.firstBad addr n).toList,
      Responds t q x 3 5 0xFFFF (memRead s.mem.store addr (8 * w - addr))) ∧
  (∀ (q : LcpReq) (x : LcpSession) (addr n : Nat) (data : List Byte) (s : State), s.Ok → Executes s q x →
    data.length ≠ n →
    Completes (.lcpStoreWrite q addr n data) s fun t => TurnedAway s t q x 4 1 0) ∧
  (∀ (q : LcpReq) (x : LcpSession) (addr n : Nat) (data : List Byte) (s : State), s.Ok → Executes s q x →
    data.length = n →
    n % 8 ≠ 0 ∨ 1024 < n → Completes (.lcpStoreWrite q addr n data) s fun t => TurnedAway s t q x 4 5 0) ∧
  (∀ (q : LcpReq) (x : LcpSession) (addr n : Nat) (data : List Byte) (s : State), s.Ok → Executes s q x →
    data.length = n → n % 8 = 0 →
    0 < n → n ≤ 1024 → addr % 8 = 0 → 0x1C000000 ≤ addr → addr + n ≤ 0x48000000 → addr + n ≤ s.storeSize →
    Completes (.lcpStoreWrite q addr n data) s fun t =>
    if addr < 0x38000000 then TurnedAway s t q x 4 5 0
    else if x.rights.testBit 2 = false then TurnedAway s t q x 4 2 0
    else if s.storeCtl.unusable = true ∨ s.fld R.STORE_STATUS_INIT_DONE = 0 then TurnedAway s t q x 4 7 0
    else Responds t q x 4 0 0 [] ∧ memRead t.mem.store addr n = data ∧ SameOutside s.mem.store t.mem.store addr n) ∧
  (∀ (q : LcpReq) (x : LcpSession) (addr n : Nat) (data : List Byte) (s : State), s.Ok → Executes s q x →
    data.length = n → n % 8 = 0 →
    0 < n → n ≤ 1024 → addr + n ≤ 0x1C000000 → addr + n ≤ s.storeSize → x.rights.testBit 2 = true →
      s.storeCtl.unusable = false →
    s.fld R.STORE_STATUS_INIT_DONE = 1 → s.resyncing = false → Completes (.lcpStoreWrite q addr n data) s fun t =>
    (∀ o ∈ s.ownerCode.2.toList, TurnedAway s t q x 4 8 o) ∧
    (s.ownerCode.2 = none → ∀ k ∈ (s.usedBy addr n).toList, TurnedAway s t q x 4 6 k) ∧
    (s.ownerCode.2 = none → s.usedBy addr n = none → addr % 8 = 0 →
      Responds t q x 4 0 0 [] ∧ memRead t.mem.store addr n = data ∧ SameOutside s.mem.store t.mem.store addr n)) ∧
  (∀ (q : LcpReq) (x : LcpSession) (slot addr : Nat) (s : State), s.Ok → Executes s q x →
    Completes (.lcpGenStage q slot addr) s fun t =>
    if 3 < slot then TurnedAway s t q x 5 1 0
    else if x.rights.testBit 2 = false then TurnedAway s t q x 5 2 0
    else if s.storeCtl.unusable = true ∨ s.fld R.STORE_STATUS_INIT_DONE = 0 ∨ s.resyncing = true ∨
      s.commit.staging.isSome = true then
      TurnedAway s t q x 5 7 0
    else (∀ o ∈ s.ownerCode.2.toList, TurnedAway s t q x 5 8 o) ∧
      (s.ownerCode.2 = none → ∀ b ∈ (s.lcpBreach (64 * addr)).toList,
        TurnedAway s t q x 5 9 (b.page * 256 + b.reason)) ∧
      (s.ownerCode.2 = none → (s.lcpBreach (64 * addr)).isSome = false → s.slotState slot ≠ 0 ∧ s.slotState slot ≠ 4 →
        TurnedAway s t q x 5 0xD slot) ∧
      (s.ownerCode.2 = none → (s.lcpBreach (64 * addr)).isSome = false → s.slotState slot = 0 ∨ s.slotState slot = 4 →
        s.slotHolding (s.genIdAt (64 * addr)) = none →
        Responds t q x 5 0 0 [] ∧ t.commit = { s.commit with staging := some (slot, 64 * addr) } ∧
          t.fld R.COMMIT_STAGE_CTRL_GO = 1 ∧
        t.fld R.COMMIT_STAGE_CTRL_SLOT = slot ∧ t.mem = s.mem)) ∧
  (∀ (q : LcpReq) (x : LcpSession) (src dst len : Nat) (s : State), s.Ok → Executes s q x →
    Completes (.lcpCalInstall q src dst len) s fun t =>
    let code := calCode len (s.storeRead (64 * src) len)
    if x.rights.testBit 2 = false then TurnedAway s t q x 6 2 0
    else if s.storeCtl.unusable = true ∨ s.fld R.STORE_STATUS_INIT_DONE = 0 ∨
      s.resyncing = true then TurnedAway s t q x 6 7 0
    else (∀ o ∈ s.ownerCode.2.toList, TurnedAway s t q x 6 8 o) ∧
      (s.ownerCode.2 = none → 64 * src + len ≤ s.storeSize → (s.firstBad (64 * src) len).isSome = false → code ≠ 0 →
        Responds t q x 6 0xA code [] ∧ t.mem = { s.mem with storeWeak := t.mem.storeWeak } ∧ t.commit = s.commit) ∧
      (s.ownerCode.2 = none → s.storeSize < 64 * src + len → TurnedAway s t q x 6 4 0) ∧
      (s.ownerCode.2 = none → 64 * src + len ≤ s.storeSize → (s.firstBad (64 * src) len).isSome = true →
        Responds t q x 6 5 0xFFFF [] ∧ t.mem.store = s.mem.store) ∧
      (s.ownerCode.2 = none → 64 * src + len ≤ s.storeSize → (s.firstBad (64 * src) len).isSome = false → code = 0 →
        0x04000000 ≤ 64 * dst → 64 * dst + (len - 128) ≤ 0x1C000000 → 64 * dst + (len - 128) ≤ s.storeSize →
        s.usedBy (64 * dst) (len - 128) = none → s.storeRangeBad (64 * dst) (len - 128) = false →
        Responds t q x 6 0 0 [] ∧ memRead t.mem.store (64 * dst) (len - 128) = memRead s.mem.store (64 * src +
          128) (len - 128) ∧
        SameOutside s.mem.store t.mem.store (64 * dst) (len - 128))) ∧
  (∀ (q : LcpReq) (x : LcpSession) (scope : Nat) (s : State), s.Ok → Executes s q x →
    Completes (.lcpReset q scope) s fun t =>
    if scope ≠ 1 ∧ scope ≠ 2 then TurnedAway s t q x 7 1 0
    else if x.rights.testBit 3 = false then TurnedAway s t q x 7 2 0
    else Responds t q x 7 0 0 [] ∧ t.fld R.RST_REQ_STAT_PENDING = 1 ∧ t.fld R.RST_REQ_STAT_SCOPE = scope ∧
      t.fld R.RST_REQ_STAT_REMAIN_MS = 10 ∧ t.mem = s.mem ∧ t.pins = s.pins ∧
      t.rst = { s.rst with reqSource := if scope = 1 then 0x12 else 0x21, reqDetail := x.entry, reqNs := 0 }) ∧
  (∀ (q : LcpReq) (x : LcpSession) (segment module : Nat) (s : State), s.Ok → Executes s q x →
    Completes (.lcpOwnClaim q segment module) s fun t =>
    let lease := s.lcp.leases.find? fun l => l.1 == segment
    let expiry := s.ptp.ns + s.fld R.PARTY_NET_LEASE_S * 1000000000
    if x.rights.testBit 1 = false then TurnedAway s t q x 8 2 0
    else if s.role ≠ 2 then TurnedAway s t q x 8 0xC 0
    else t.mem = s.mem ∧ (∀ l ∈ lease.toList, (l.2.1 = module ∨ l.2.2.2 ≤ s.ptp.ns) →
      Responds t q x 8 0 0 (beBytes 2 segment ++ beBytes 2 module ++ beBytes 4 ((l.2.2.1 + 1) % 2 ^ 32) ++
        beBytes 6 (expiry / 1000000000) ++ beBytes 4 (expiry % 1000000000) ++ [0, 0]) ∧
      (segment, module, (l.2.2.1 + 1) % 2 ^ 32, expiry) ∈ t.lcp.leases) ∧
      (lease = none → s.party.summitAt + s.fld R.PARTY_NET_LEASE_S * 1000000000 ≤ s.ptp.ns →
        (t.lcp.leases.any fun l => l.1 == segment && l.2.1 == module && l.2.2.2 == expiry) = true))

/-- R427, R434, R437–R439: the image operations of a session with SECURE: the header, the body's data in order, the
commit and the activation, armed here or sent to the party. Model's choices it rests on: assumption log, entries 32
and 36. -/
def Obligations.LcpImages : Prop :=
  (∀ (q : LcpReq) (x : LcpSession) (header : List Byte) (s : State), s.Ok → Executes s q x → x.tx + 1 < 0xFFFFFFFF →
    Completes (.lcpImgBegin q header) s fun t =>
    let code := (s.storeWrite imgHdrAddr header).stagedCode (some x.id)
    if header.length ≠ 512 then TurnedAway s t q x 0x10 1 0
    else if x.rights.testBit 5 = false then TurnedAway s t q x 0x10 2 0
    else if s.storeCtl.unusable = true ∨ s.fld R.STORE_STATUS_INIT_DONE = 0 ∨
      s.upd.op ≠ 0 then TurnedAway s t q x 0x10 7 0
    else if code ≠ 0 then Responds t q x 0x10 0xB code [] ∧ t.mem = s.mem ∧ t.fld R.UPD_LAST_CODE = code ∧
      t.upd = s.upd ∧
      Counted s t R.UPD_CNT_REFUSED_N 1
    else Responds t q x 0x10 0 0 (beBytes 1 (t.fld R.UPD_STATE_TARGET) ++ [0, 0, 0]) ∧ t.fld R.UPD_STATE_XFER = 1 ∧
      memRead t.mem.store imgHdrAddr 512 = header ∧ SameOutside s.mem.store t.mem.store imgHdrAddr 512 ∧
      t.upd.session = some x.id ∧ t.upd.next = 0 ∧ t.upd.bodyOk = false ∧
      t.upd.bodyLen = leNat ((header.drop 40).take 4)) ∧
  (∀ (q : LcpReq) (x : LcpSession) (offset : Nat) (data : List Byte) (s : State), s.Ok → Executes s q x →
    x.tx + 1 < 0xFFFFFFFF →
    Completes (.lcpImgData q offset data) s fun t =>
    let n := data.length
    if x.rights.testBit 5 = false then TurnedAway s t q x 0x11 2 0
    else if s.fld R.UPD_STATE_XFER = 0 ∨ s.upd.session ≠ some x.id then TurnedAway s t q x 0x11 0xB 8
    else if s.storeCtl.unusable = true ∨ s.fld R.STORE_STATUS_INIT_DONE = 0 ∨
      s.upd.op ≠ 0 then TurnedAway s t q x 0x11 7 0
    else if 1024 < n ∨ offset % 8 ≠ 0 ∨ s.upd.bodyLen < offset + n ∨ (n % 8 ≠ 0 ∧ offset + n ≠ s.upd.bodyLen) then
      TurnedAway s t q x 0x11 5 0
    else if offset = s.upd.next then
      s.mem.storeBad = [] → Responds t q x 0x11 0 0 (beBytes 4 (offset + n)) ∧
        t.upd = { s.upd with next := offset + n } ∧
        memRead t.mem.store (imgBodyAddr + offset) n = data ∧
          SameOutside s.mem.store t.mem.store (imgBodyAddr + offset) n
    else if offset + n ≤ s.upd.next then Responds t q x 0x11 0 0 (beBytes 4 s.upd.next) ∧ t.mem = s.mem ∧
      t.upd = s.upd
    else TurnedAway s t q x 0x11 0xB 8) ∧
  (∀ (q : LcpReq) (x : LcpSession) (s : State), s.Ok → Executes s q x → x.tx + 1 < 0xFFFFFFFF →
    Completes (.lcpImgCommit q true) s fun t =>
    if x.rights.testBit 5 = false then TurnedAway s t q x 0x12 2 0
    else if s.fld R.UPD_STATE_XFER = 0 ∨ s.upd.session ≠ some x.id then TurnedAway s t q x 0x12 0xB 8
    else if s.storeCtl.unusable = true ∨ s.fld R.STORE_STATUS_INIT_DONE = 0 ∨
      s.upd.op ≠ 0 then TurnedAway s t q x 0x12 7 0
    else if s.upd.next < s.upd.bodyLen then TurnedAway s t q x 0x12 0xB 8
    else if s.stagedBodyOk = true then Responds t q x 0x12 0 0 [] ∧ t.upd.op = 3 ∧ t.upd.bodyOk = true ∧
      BootUpdated s t ∧
      t.mem.store = s.mem.store
    else Responds t q x 0x12 0xB 9 [] ∧ t.fld R.UPD_STATE_XFER = 0 ∧ t.upd.session = none ∧
      t.mem.store = s.mem.store ∧
      t.mem.mram = s.mem.mram) ∧
  (∀ (q : LcpReq) (x : LcpSession) (scope version frame : Nat) (s : State), s.Ok → Executes s q x →
    x.tx + 1 < 0xFFFFFFFF →
    version < 2 ^ 48 → frame < 2 ^ 48 → Completes (.lcpImgActivate q scope version frame) s fun t =>
    if 1 < scope then TurnedAway s t q x 0x13 1 0
    else if x.rights.testBit 5 = false then TurnedAway s t q x 0x13 2 0
    else t.mem = s.mem ∧ (scope = 1 → s.role ≠ 2 → TurnedAway s t q x 0x13 0xC 0) ∧
      (scope = 0 → version = 0 → Responds t q x 0x13 0 0 [] ∧ t.fld R.PARTY_ACT_STAT_ARMED = 0) ∧
      (scope = 0 → version ≠ 0 → Responds t q x 0x13 0 0 [] ∧ t.fld R.PARTY_ACT_STAT_ARMED = 1 ∧
        t.wide R.PARTY_ACT_LO_N_LO R.PARTY_ACT_HI_N_HI = frame))

/-- R370, R371, R442: the transactions of the host SPI: each keeps STATUS and CMD, one refused is counted and raises
event 1, a write applied whole raises event 0, and SYSRESET asks for a SYSTEM reset. Model's choices it rests on:
assumption log, entry 33. -/
def Obligations.HostSpi : Prop :=
  (∀ (addr n cmd : Nat) (ok : Bool) (ws : List Word) (data : List Byte) (s : State), s.Ok → s.hspiServes = false →
    ∀ c ∈ [Instr.hspiRead addr n ok, .hspiWrite addr ws ok, .hspiStoreRead addr n ok, .hspiStoreWrite addr n data ok,
      .hspiStatus,
      .sysreset ok, .hspiTransactionRefused cmd], Completes c s fun t => Unchanged s t) ∧
  (∀ (addr n : Nat) (ws : List Word) (data : List Byte) (s : State), s.Ok → s.hspiServes = true → data.length = n →
    ∀ c ∈ [(0x0B, Instr.hspiRead addr n false), (0x02, .hspiWrite addr ws false), (0x1B, .hspiStoreRead addr n false),
      (0x12, .hspiStoreWrite addr n data false), (0x9E, .sysreset false)], Completes c.2 s fun t =>
      t.fld R.HOSTSPI_LAST_CODE = 0x0104 ∧ t.fld R.HOSTSPI_LAST_CMD = c.1 ∧ Counted s t R.HOSTSPI_CNT_REFUSED_N 1 ∧
      t.irqSet pHOSTSPI 1 ∧ RegsOnly s t ∧
      Untouched [R.HOSTSPI_LAST_CODE, R.HOSTSPI_LAST_CMD, R.HOSTSPI_CNT_REFUSED_N, R.PG_IRQ_RAW_BIT pHOSTSPI 1] s t) ∧
  (∀ s : State, s.Ok → s.hspiServes = true → s.hspiRights.testBit 0 = true → s.latches = [] →
    Completes (.hspiRead 0x40012068 1 true) s fun t =>
    let reply := 0xA5 :: (leBytes 4 (s.ptp.ns / 10 ^ 9) ++ [0, 0])
    t.out = [.hspiReply (reply ++ beBytes 2 (crc16 (bytesBits reply))) 0] ∧ t.fld R.HOSTSPI_LAST_CODE = 0 ∧
    t.fld R.HOSTSPI_LAST_CMD = 0x0B ∧ t.mem = s.mem ∧ Untouched [R.HOSTSPI_LAST_CODE, R.HOSTSPI_LAST_CMD] s t) ∧
  (∀ (addr n : Nat) (s : State), s.Ok → s.hspiServes = true → 0 < n → addr % 4 = 0 → addr < 0x40000000 ∨
    0x40050000 ≤ addr →
    Completes (.hspiRead addr n true) s fun t =>
    t.fld R.HOSTSPI_LAST_CODE = 4 ∧ Counted s t R.HOSTSPI_CNT_REFUSED_N 1 ∧ t.irqSet pHOSTSPI 1 ∧ t.mem = s.mem) ∧
  (∀ (v : Word) (s : State), s.Ok → s.hspiServes = true → v.toNat < 65536 →
    Completes (.hspiWrite 0x4004D044 [v] true) s fun t =>
    t.fld R.HOSTSPI_LAST_CMD = 2 ∧ t.mem = s.mem ∧
    (if s.hspiRights.testBit 1 = true then
      t.fld R.GPIO_OE_OE = v.toNat ∧ t.fld R.HOSTSPI_LAST_CODE = 0 ∧ t.hspi = { status := 0 } ∧ t.irqSet pHOSTSPI 0
    else t.fld R.GPIO_OE_OE = s.fld R.GPIO_OE_OE ∧ t.fld R.HOSTSPI_LAST_CODE = 2 ∧ t.hspi = { status := 2 } ∧
      Counted s t R.HOSTSPI_CNT_REFUSED_N 1)) ∧
  (∀ (addr n : Nat) (s : State), s.Ok → s.hspiServes = true → n % 8 = 0 → 0 < n → n ≤ 4096 →
    s.hspiRights.testBit 0 = true →
    addr + n ≤ s.storeSize → s.storeCtl.unusable = false → s.fld R.STORE_STATUS_INIT_DONE = 1 → s.mem.storeBad = [] →
    Completes (.hspiStoreRead addr n true) s fun t =>
    let reply := 0xA5 :: (memRead s.mem.store addr n ++ [0, 0])
    t.out = [.hspiReply (reply ++ beBytes 2 (crc16 (bytesBits reply))) 0] ∧ t.fld R.HOSTSPI_LAST_CODE = 0 ∧
    t.fld R.HOSTSPI_LAST_CMD = 0x1B ∧ t.mem = { s.mem with storeWeak := t.mem.storeWeak }) ∧
  (∀ (addr n : Nat) (ok : Bool) (data : List Byte) (s : State), s.Ok → s.hspiServes = true → data.length ≠ n →
    Completes (.hspiStoreWrite addr n data ok) s fun t =>
    t.fld R.HOSTSPI_LAST_CODE = 1 ∧ t.fld R.HOSTSPI_LAST_CMD = 0x12 ∧ Counted s t R.HOSTSPI_CNT_REFUSED_N 1 ∧
      t.mem = s.mem) ∧
  (∀ (addr n : Nat) (data : List Byte) (s : State), s.Ok → s.hspiServes = true → data.length = n → n % 8 = 0 → 0 < n →
    n ≤ 4096 →
    addr % 8 = 0 → 0x38000000 ≤ addr → addr + n ≤ 0x48000000 → addr + n ≤ s.storeSize → s.storeCtl.unusable = false →
    s.fld R.STORE_STATUS_INIT_DONE = 1 → Completes (.hspiStoreWrite addr n data true) s fun t =>
    if s.hspiRights.testBit 2 = true then
      memRead t.mem.store addr n = data ∧ SameOutside s.mem.store t.mem.store addr n ∧ t.hspi = { status := 0 } ∧
      t.fld R.HOSTSPI_LAST_CODE = 0 ∧ t.irqSet pHOSTSPI 0
    else t.mem = s.mem ∧ t.hspi = { status := 2 } ∧ t.fld R.HOSTSPI_LAST_CODE = 2 ∧
      Counted s t R.HOSTSPI_CNT_REFUSED_N 1) ∧
  (∀ s : State, s.Ok → s.hspiServes = true → Completes .hspiStatus s fun t =>
    let reply := 0 :: beBytes 2 s.hspi.status
    t.out = [.hspiReply (reply ++ beBytes 2 (crc16 (bytesBits reply))) 0] ∧ t.fld R.HOSTSPI_LAST_CODE = 0 ∧
    t.fld R.HOSTSPI_LAST_CMD = 5 ∧ t.mem = s.mem ∧ Untouched [R.HOSTSPI_LAST_CODE, R.HOSTSPI_LAST_CMD] s t) ∧
  (∀ s : State, s.Ok → s.hspiServes = true → s.rst.waiting = none → s.rst.phase = .none ∨ s.rst.phase = .warm →
    Completes (.sysreset true) s fun t =>
    if s.hspiRights.testBit 3 = false then
      t.fld R.HOSTSPI_LAST_CODE = 2 ∧ Counted s t R.HOSTSPI_CNT_REFUSED_N 1 ∧ t.rst = s.rst ∧ t.mem = s.mem
    else (s.meter.running = false → SystemReset s t 0x14 0) ∧
      (s.meter.running = true → s.rst.pfWarn = false ∨ s.pfRuns = true →
        t.rst = { s.rst with waiting := some (0x14, 0) }) ∧
      (s.meter.running = true → s.rst.pfWarn = true → s.pfRuns = false → SystemReset s t 0x14 0)) ∧
  (∀ (cmd : Nat) (s : State), s.Ok → s.hspiServes = true → cmd < 256 →
    Completes (.hspiTransactionRefused cmd) s fun t =>
    t.fld R.HOSTSPI_LAST_CODE = 1 ∧ t.fld R.HOSTSPI_LAST_CMD = cmd ∧ Counted s t R.HOSTSPI_CNT_REFUSED_N 1 ∧
      t.irqSet pHOSTSPI 1 ∧
    RegsOnly s t)

/-- R330–R336, R396, R425, R492, R493: what a hart's access to shared SRAM, a TCM, retained SRAM, the backup window,
the boot ROM, NOR, MRAM and the gaps between them reads, writes and faults with; PMP's fault, and FENCE.I, without
which a fetch of what has been written since is unpredictable. Model's choices it rests on: assumption log, entries
8, 10 and 34. -/
def Obligations.CoreMemory : Prop :=
  (∀ (h addr n : Nat) (s : State), s.Ok → h < 8 → n ∈ [1, 2, 4] → addr % n = 0 → 0x10000000 ≤ addr →
    addr + n ≤ 0x10400000 → s.mem.sramBad = [] →
    s.pmpGrants h addr (.load n) = true →
    Completes (.coreMemoryAccess h addr (.load n) .clean) s fun t =>
    t = { s with out := [.memData (memRead s.mem.sram (addr - 0x10000000) n)] }) ∧
  (∀ (h addr : Nat) (d : List Byte) (s : State), s.Ok → h < 8 → d.length ∈ [1, 2, 4] → addr % d.length = 0 →
    0x10000000 ≤ addr →
    addr + d.length ≤ 0x10400000 → s.mem.sramBad = [] → s.pmpGrants h addr (.store d) = true →
    Completes (.coreMemoryAccess h addr (.store d) .clean) s fun t =>
    memRead t.mem.sram (addr - 0x10000000) d.length = d ∧
      SameOutside s.mem.sram t.mem.sram (addr - 0x10000000) d.length ∧
    t = { s with out := [], mem := { s.mem with sram := t.mem.sram }, reservations := t.reservations, codeWrites := t.codeWrites } ∧
    (∀ r ∈ t.reservations, r ∈ s.reservations ∧ (r.1 = h ∨ r.2.granule ≠ addr / 64))) ∧
  (∀ (h addr : Nat) (s : State), s.Ok → h < 8 → addr % 4 = 0 → 0x20000000 ≤ addr → addr + 4 ≤ 0x20020000 →
    s.mem.tcmBad = [] →
    s.pmpGrants h (addr + 0x01000000 + 0x20000 * h) (.load 4) = true → s.pmpGrants h addr (.load 4) = true →
    Completes (.coreMemoryAccess h (addr + 0x01000000 + 0x20000 * h) (.load 4) .clean) s fun t =>
    t = { s with out := [.memData (memRead s.mem.tcm (0x20000 * h + (addr - 0x20000000)) 4)] } ∧
    Completes (.coreMemoryAccess h addr (.load 4) .clean) s fun u => u = t) ∧
  (∀ (h addr : Nat) (d : List Byte) (s : State), s.Ok → h < 8 → d.length = 4 → addr % 4 = 0 → 0x20000000 ≤ addr →
    addr + 4 ≤ 0x20020000 →
    s.pmpGrants h addr (.store d) = true →
    Completes (.coreMemoryAccess h addr (.store d) .clean) s fun t =>
    memRead t.mem.tcm (0x20000 * h + (addr - 0x20000000)) 4 = d ∧
    SameOutside s.mem.tcm t.mem.tcm (0x20000 * h + (addr - 0x20000000)) 4 ∧ t.mem.sram = s.mem.sram ∧
      t.regs = s.regs ∧
    (0x20000 * h + (addr - 0x20000000)) / 4 ∉ t.mem.tcmBad) ∧
  (∀ (h addr : Nat) (s : State), s.Ok → h < 8 → addr % 4 = 0 → 0x10000000 ≤ addr → addr + 4 ≤ 0x10400000 →
    s.mem.sramBad = [] →
    s.pmpGrants h addr .loadReserved = true →
    Completes (.coreMemoryAccess h addr .loadReserved .clean) s fun t =>
    t.out = [.memData (memRead s.mem.sram (addr - 0x10000000) 4)] ∧ t.mem = s.mem ∧ t.regs = s.regs ∧
    t.reservations.head? = some (h, ⟨addr / 64, s.router.mtime⟩)) ∧
  (∀ (h addr since : Nat) (d : List Byte) (s : State), s.Ok → h < 8 → d.length = 4 → addr % 4 = 0 →
    0x10000000 ≤ addr →
    addr + 4 ≤ 0x10400000 → s.mem.sramBad = [] → s.reservations = [(h, ⟨addr / 64, since⟩)] →
    s.pmpGrants h addr (.storeConditional d) = true →
    Completes (.coreMemoryAccess h addr (.storeConditional d) .clean) s fun t =>
    t.reservations = [] ∧ t.regs = s.regs ∧
    (s.router.mtime < since + 32 → t.out = [.memData [0, 0, 0, 0]] ∧ memRead t.mem.sram (addr - 0x10000000) 4 = d ∧
      SameOutside s.mem.sram t.mem.sram (addr - 0x10000000) 4) ∧
    (since + 32 ≤ s.router.mtime → t.mem = s.mem ∧ t.out ≠ [.memData [0, 0, 0, 0]] ∧ t.out.length = 1)) ∧
  (∀ (h addr : Nat) (d : List Byte) (s : State), s.Ok → h < 8 → d.length = 4 → addr % 4 = 0 → 0x10000000 ≤ addr →
    addr + 4 ≤ 0x10400000 → (∀ r ∈ s.reservations, r.1 ≠ h) → s.pmpGrants h addr (.storeConditional d) = true →
    Completes (.coreMemoryAccess h addr (.storeConditional d) .clean) s fun t =>
    t.mem = s.mem ∧ t.out ≠ [.memData [0, 0, 0, 0]] ∧ t.out.length = 1) ∧
  (∀ (h addr : Nat) (v : Word) (s : State), s.Ok → h < 8 → addr % 4 = 0 → 0x10000000 ≤ addr → addr + 4 ≤ 0x10400000 →
    s.mem.sramBad = [] →
    let old := memLE s.mem.sram (addr - 0x10000000) 4
    ∀ p ∈ [(AmoOp.swap, v.toNat), (.add, (old + v.toNat) % 2 ^ 32), (.and, old &&& v.toNat), (.or, old ||| v.toNat),
      (.xor, old ^^^ v.toNat),
      (.maxu, max old v.toNat), (.minu, min old v.toNat),
      (.max, if toSigned 32 old < toSigned 32 v.toNat then v.toNat else old),
      (.min, if toSigned 32 v.toNat < toSigned 32 old then v.toNat else old)],
      s.pmpGrants h addr (.amo p.1 v) = true → Completes (.coreMemoryAccess h addr (.amo p.1 v) .clean) s fun t =>
      t.out = [.memData (leBytes 4 old)] ∧ memRead t.mem.sram (addr - 0x10000000) 4 = leBytes 4 p.2 ∧
      SameOutside s.mem.sram t.mem.sram (addr - 0x10000000) 4) ∧
  (∀ (h addr : Nat) (s : State), s.Ok → h < 8 → addr % 4 ≠ 0 → 0x10000000 ≤ addr → addr + 4 ≤ 0x10400000 →
    s.pmpGrants h addr (.load 4) = true →
    Completes (.coreMemoryAccess h addr (.load 4) .clean) s fun t =>
    t = { s with out := [.coreFault 4 addr], reservations := s.reservations.filter fun r => r.1 != h }) ∧
  (∀ (h addr : Nat) (d : List Byte) (s : State), s.Ok → h < 8 → d.length = 4 → addr % 4 ≠ 0 → 0x10000000 ≤ addr →
    addr + 4 ≤ 0x10400000 →
    s.pmpGrants h addr (.store d) = true →
    Completes (.coreMemoryAccess h addr (.store d) .clean) s fun t =>
    t = { s with out := [.coreFault 6 addr], reservations := s.reservations.filter fun r => r.1 != h }) ∧
  (∀ (h addr : Nat) (s : State), s.Ok → h < 8 → addr % 8 = 0 → 0x10000000 ≤ addr → addr + 8 ≤ 0x10400000 →
    s.pmpGrants h addr (.load 4) = true →
    Completes (.coreMemoryAccess h addr (.load 4) .uncorrectable) s fun t =>
    t.out.getLast? = some (.coreFault 5 addr) ∧ Counted s t R.SYS_MEM_UE_N 1 ∧ t.fld R.SYS_MEM_UE_ADDR_ADDR = addr ∧
    t.fld R.SYS_MEM_UE_INFO_VALID = 1 ∧ t.fld R.SYS_MEM_UE_INFO_HART = h ∧ t.fld R.SYS_MEM_UE_INFO_SOURCE = 0 ∧
    t.fld R.SYS_MEM_UE_INFO_FETCH = 0 ∧ t.mem.sram = s.mem.sram ∧ (addr - 0x10000000) / 8 ∈ t.mem.sramBad) ∧
  (∀ (h addr : Nat) (s : State), s.Ok → h < 8 → addr % 4 = 0 → 0x10000000 ≤ addr → addr + 4 ≤ 0x10400000 →
    s.mem.sramBad = [] →
    s.pmpGrants h addr (.load 4) = true →
    Completes (.coreMemoryAccess h addr (.load 4) .corrected) s fun t =>
    t.out = [.memData (memRead s.mem.sram (addr - 0x10000000) 4)] ∧ Counted s t R.SYS_MEM_CE_N 1 ∧ t.mem = s.mem ∧
      Untouched [R.SYS_MEM_CE_N] s t) ∧
  (∀ (h o addr : Nat) (s : State), s.Ok → h < 8 → o < 8 → o ≠ h → addr % 4 = 0 → 0x21000000 + 0x20000 * o ≤ addr →
    addr + 4 ≤ 0x21000000 + 0x20000 * (o + 1) → s.pmpGrants h addr .loadReserved = true →
    Completes (.coreMemoryAccess h addr .loadReserved .clean) s fun t =>
    t.out = [.coreFault 7 addr] ∧ t.mem = s.mem) ∧
  (∀ (h o addr : Nat) (s : State), s.Ok → h < 8 → o < 8 → o ≠ h → addr % 4 = 0 → 0x21000000 + 0x20000 * o ≤ addr →
    addr + 4 ≤ 0x21000000 + 0x20000 * (o + 1) → s.fetchStale h addr (.fetch 4) = false →
      s.pmpGrants h addr (.fetch 4) = true →
    exec (.coreMemoryAccess h addr (.fetch 4) .clean) s = .fault (.unpredictable 334)) ∧
  (∀ (h addr : Nat) (s : State), s.Ok → h < 8 → addr % 4 = 0 → 0x18000000 ≤ addr → addr + 4 ≤ 0x18002000 →
    s.pmpGrants h addr (.load 4) = true →
    Completes (.coreMemoryAccess h addr (.load 4) .clean) s fun t =>
    t = { s with out := [.memData (memRead s.mem.ret (addr - 0x18000000) 4)] }) ∧
  (∀ (h addr : Nat) (d : List Byte) (s : State), s.Ok → h < 8 → d.length = 4 → addr % 4 = 0 → 0x18000800 ≤ addr →
    addr + 4 ≤ 0x18001000 →
    s.retLocked = false → s.pmpGrants h addr (.store d) = true →
    Completes (.coreMemoryAccess h addr (.store d) .clean) s fun t =>
    memRead t.mem.ret (addr - 0x18000000) 4 = d ∧ SameOutside s.mem.ret t.mem.ret (addr - 0x18000000) 4 ∧
    t = { s with out := [], mem := { s.mem with ret := t.mem.ret }, codeWrites := t.codeWrites }) ∧
  (∀ (h addr : Nat) (d : List Byte) (s : State), s.Ok → h < 8 → d.length = 4 → addr % 4 = 0 → 0x18000000 ≤ addr →
    addr < 0x18000800 →
    s.pmpGrants h addr (.store d) = true →
    exec (.coreMemoryAccess h addr (.store d) .clean) s = .fault (.unpredictable 493)) ∧
  (∀ (h addr : Nat) (d : List Byte) (s : State), s.Ok → h < 8 → d.length = 4 → addr % 4 = 0 → 0x1C000000 ≤ addr →
    addr + 4 ≤ 0x1C000040 →
    s.pmpGrants h addr (.store d) = true →
    Completes (.coreMemoryAccess h addr (.store d) .clean) s fun t =>
    memRead t.mem.bk (addr - 0x1C000000) 4 = d ∧ SameOutside s.mem.bk t.mem.bk (addr - 0x1C000000) 4 ∧
    t = { s with out := [], mem := { s.mem with bk := t.mem.bk }, codeWrites := t.codeWrites }) ∧
  (∀ (h addr : Nat) (d : List Byte) (s : State), s.Ok → h < 8 → d.length = 4 → addr % 4 = 0 → addr + 4 ≤ 0x10000 →
    Completes (.coreMemoryAccess h addr (.store d) .clean) s fun t => t.out = [.coreFault 7 addr] ∧ t.mem = s.mem ∧
      t.regs = s.regs) ∧
  (∀ (h addr : Nat) (s : State), s.Ok → h < 8 → addr % 4 = 0 → 0x50000000 ≤ addr → addr + 4 ≤ 0x60000000 →
    s.fetchStale h addr (.fetch 4) = false → s.pmpGrants h addr (.fetch 4) = true →
    Completes (.coreMemoryAccess h addr (.fetch 4) .clean) s fun t =>
    t = { s with out := [.memData ((List.range 4).map fun i => s.norGet (addr - 0x50000000 + i))] }) ∧
  (∀ (h addr : Nat) (s : State), s.Ok → h < 8 → addr % 4 = 0 → 0x60000000 ≤ addr → addr + 4 ≤ 0x60100000 →
    s.mem.mramBad = [] →
    s.pmpGrants h addr (.load 4) = true →
    Completes (.coreMemoryAccess h addr (.load 4) .clean) s fun t =>
    if 0x6000D000 ≤ addr ∧ addr < 0x60010000 then t.out = [.coreFault 5 addr] ∧ t.mem = s.mem ∧ t.regs = s.regs
    else t = { s with out := [.memData (memRead s.mem.mram (addr - 0x60000000) 4)] }) ∧
  (∀ (h addr : Nat) (d : List Byte) (s : State), s.Ok → h < 8 → d.length = 4 → addr % 4 = 0 → 0x60000000 ≤ addr →
    addr + 4 ≤ 0x60100000 →
    s.mem.mramBad = [] → s.pmpGrants h addr (.store d) = true →
    Completes (.coreMemoryAccess h addr (.store d) .clean) s fun t =>
    if addr < 0x60010100 ∨ 0x60080000 ≤ addr then
      t.out = [.coreFault 7 addr] ∧ t.fld R.MRAM_STATUS_FAULTED = 1 ∧ t.mem = s.mem ∧
        Untouched [R.MRAM_STATUS_FAULTED] s t
    else memRead t.mem.mram (addr - 0x60000000) 4 = d ∧ SameOutside s.mem.mram t.mem.mram (addr - 0x60000000) 4 ∧
      t = { s with out := [], mem := { s.mem with mram := t.mem.mram }, codeWrites := t.codeWrites }) ∧
  (∀ (h addr : Nat) (s : State), s.Ok → h < 8 → (0x10000 ≤ addr ∧ addr + 4 ≤ 0x10000000) ∨ (0x10400000 ≤ addr ∧
    addr + 4 ≤ 0x18000000) ∨
    (0x40050000 ≤ addr ∧ addr + 4 ≤ 0x50000000) ∨ (0x60100000 ≤ addr ∧ addr + 4 ≤ 0x80000000) ∨ 0xC0000000 ≤ addr →
    Completes (.coreMemoryAccess h addr (.load 4) .clean) s fun t => t.out = [.coreFault 5 addr] ∧ t.mem = s.mem ∧
      t.regs = s.regs) ∧
  (∀ (h : Nat) (s : State), s.Ok → h < 8 → (s.hart h).mmode = true → s.latches = [] →
    s.pmpGrants h 0x40012068 (.load 4) = true →
    Completes (.coreMemoryAccess h 0x40012068 (.load 4) .clean) s fun t =>
    t.out = [.readData (BitVec.ofNat 32 (s.ptp.ns / 10 ^ 9))] ∧ t.mem = s.mem ∧ t.regs = s.regs) ∧
  (∀ (h n : Nat) (s : State), s.Ok → h < 8 → n ∈ [1,
    2] → Completes (.coreMemoryAccess h 0x40012068 (.load n) .clean) s fun t =>
    t.out = [.coreFault 5 0x40012068] ∧ t.mem = s.mem ∧ t.regs = s.regs) ∧
  (∀ (h addr : Nat) (op : CoreOp) (e : Ecc) (s : State), s.Ok → h < 8 → op ≠ .fenceI → s.pmpGrants h addr op = false →
    Completes (.coreMemoryAccess h addr op e) s fun t =>
    t = { s with out := [.coreFault op.accessCause addr], reservations := s.reservations.filter fun r => r.1 != h }) ∧
  (∀ (h addr : Nat) (op : CoreOp) (e : Ecc) (s : State), s.Ok → h < 8 → s.pmpGrants h addr op = true →
    s.fetchStale h addr op = true →
    exec (.coreMemoryAccess h addr op e) s = .fault (.unpredictable 331)) ∧
  (∀ (h addr : Nat) (e : Ecc) (s : State), s.Ok → h < 8 → Completes (.coreMemoryAccess h addr .fenceI e) s fun t =>
    t = { s with out := [], codeWrites := t.codeWrites } ∧ (∀ w ∈ t.codeWrites, h ∉ w.harts) ∧
    (∀ w ∈ s.codeWrites, ∀ k ∈ w.harts, k ≠ h → ∃ v ∈ t.codeWrites, v.start = w.start ∧ v.len = w.len ∧ k ∈ v.harts))

/-! ## Frame time and commit (03) -/

/-- R77, R76, R79, R531: a Sync of the selected master. A two-step Sync waits for its Follow_Up with the path delay
in force at it; a one-step Sync, and the Follow_Up that matches the waiting Sync, complete one Sync; before the
first Delay_Req exchange that gives no sample, and after it the offset is shown and counted, and one past the
threshold asks for a step. Every other Sync or Follow_Up changes nothing. R77: what a sample within the step
threshold does to the servo while it is enabled: `i` and `rate`, each clamped to RATE_LIMIT, and the rate shown in
PTP_RATE. While it is disabled both are held. Model's choices it rests on: assumption log, entry 20. -/
def Obligations.PtpServo : Prop :=
  (∀ (m : PtpSync) (s : State), s.Ok → s.fromMaster m.port m.source m.domain = true → m.twoStep = true →
    Completes (.ptpSyncReceive m) s fun t =>
      t = { s with regs := t.regs, out := [], ptp := { s.ptp with
        active := some (s.ptp.active.getD m.port), awaiting := some m, awaitD := if s.ptp.exchanged = true then some s.ptp.d else none } } ∧
      (s.ptp.active = none → t.fld R.PTP_STATE_PORT = m.port.ix) ∧ Untouched [R.PTP_STATE_PORT] s t) ∧
  (∀ (m : PtpSync) (s : State), s.Ok → s.fromMaster m.port m.source m.domain = true → m.twoStep = false →
    s.ptp.exchanged = false →
    Completes (.ptpSyncReceive m) s fun t =>
      t.ptp.lastSync = some (m.t1, m.t2, m.corr) ∧ t.ptp.awaiting = none ∧ t.mem = s.mem ∧
        Untouched [R.PTP_STATE_PORT] s t) ∧
  (∀ (m : PtpSync) (s : State), s.Ok → s.fromMaster m.port m.source m.domain = true → m.twoStep = false →
    s.ptp.exchanged = true →
    Completes (.ptpSyncReceive m) s fun t =>
      t.fld R.PTP_OFFSET_O = ofSigned 32 (satS 32 ((m.t2 : Int) - m.t1 - m.corr - s.ptp.d)) ∧
      t.fld R.PTP_CNT_SYNC_N = (s.fld R.PTP_CNT_SYNC_N + 1) % 2 ^ 32 ∧ t.mem = s.mem ∧
      (s.fld R.PTP_STEP_THRESH_NS < ((m.t2 : Int) - m.t1 - m.corr - s.ptp.d).natAbs →
        s.flag R.COMMIT_GEN_CUR_VALID = true →
        t.ptp.step = some (-((m.t2 : Int) - m.t1 - m.corr - s.ptp.d)) ∧ t.ptp.ns = s.ptp.ns ∧
          t.ptp.rate = s.ptp.rate ∧
        t.ptp.i = s.ptp.i)) ∧
  (∀ (m : PtpSync) (s : State), s.fromMaster m.port m.source m.domain = false →
    Completes (.ptpSyncReceive m) s fun t => t = { s with out := [] }) ∧
  (∀ (m : PtpSync) (p : Port) (source seq t1 : Nat) (corr d : Int) (s : State), s.Ok → s.ptp.awaiting = some m →
    m.port = p → m.source = source → m.seq = seq → s.ptp.awaitD = some d →
    Completes (.ptpFollowUpReceive p source seq t1 corr) s fun t =>
      t.fld R.PTP_OFFSET_O = ofSigned 32 (satS 32 ((m.t2 : Int) - t1 - (m.corr + corr) - d)) ∧
      t.fld R.PTP_CNT_SYNC_N = (s.fld R.PTP_CNT_SYNC_N + 1) % 2 ^ 32 ∧
      t.ptp.lastSync = some (t1, m.t2, m.corr + corr) ∧ t.ptp.awaiting = none ∧ t.mem = s.mem ∧
      (∀ q ∈ s.ptp.delayReq, q.opened = true → ∀ r ∈ t.ptp.delayReq, r.pair = some (t1, m.t2, m.corr + corr))) ∧
  (∀ (m : PtpSync) (p : Port) (source seq t1 : Nat) (corr : Int) (s : State), s.ptp.awaiting = some m →
    m.port = p → m.source = source → m.seq = seq → s.ptp.awaitD = none →
    Completes (.ptpFollowUpReceive p source seq t1 corr) s fun t =>
      t.ptp.lastSync = some (t1, m.t2, m.corr + corr) ∧ t.ptp.awaiting = none ∧ t.regs = s.regs ∧ t.out = [] ∧
        t.mem = s.mem) ∧
  (∀ (m : PtpSync) (p : Port) (source seq t1 : Nat) (corr : Int) (s : State), s.ptp.awaiting = some m →
    (m.port ≠ p ∨ m.source ≠ source ∨ m.seq ≠ seq) →
    Completes (.ptpFollowUpReceive p source seq t1 corr) s fun t => t = { s with out := [] }) ∧
  ∀ (m : PtpSync) (s : State), s.Ok → s.fromMaster m.port m.source m.domain = true → m.twoStep = false →
    s.ptp.exchanged = true →
    ((m.t2 : Int) - m.t1 - m.corr - s.ptp.d).natAbs ≤ s.fld R.PTP_STEP_THRESH_NS →
    Completes (.ptpSyncReceive m) s fun t =>
      let o : Int := (m.t2 : Int) - m.t1 - m.corr - s.ptp.d
      let f : Int := tdiv (o * 2 ^ 48) s.syncNs
      let i := clampI (s.ptp.i - f / 2 ^ s.fld R.PTP_SERVO_CTRL_KI_SHIFT) (-rateLimit) rateLimit
      let rate := clampI (i - f / 2 ^ s.fld R.PTP_SERVO_CTRL_KP_SHIFT) (-rateLimit) rateLimit
      (s.flag R.PTP_SERVO_CTRL_EN = true → t.ptp.i = i ∧ t.ptp.rate = rate ∧
        t.fld R.PTP_RATE_LO_RATE_LO = ofSigned 40 rate % 2 ^ 32 ∧
          t.fld R.PTP_RATE_HI_RATE_HI = ofSigned 40 rate / 2 ^ 32 % 2 ^ 8) ∧
      (s.flag R.PTP_SERVO_CTRL_EN = false → t.ptp.i = s.ptp.i ∧ t.ptp.rate = s.ptp.rate)

/-- R531, R80: the delay exchange as slave and as grandmaster, and the grandmaster's Sync, Follow_Up and Announce.
R75, R76, R80: Announce messages update the list BMCA reads, a receipt timeout empties it of the port's masters and,
with no master left and every port quiet, lets a permitted module become grandmaster, and refused messages are
counted or not as the table of R75 says. Model's choices it rests on: assumption log, entries 20 and 46. -/
def Obligations.PtpDelayAndBestMaster : Prop :=
  (∀ (t3 : Nat) (m : PtpAnnounce) (s : State), s.ptp.master = some m →
    Completes (.ptpDelayReqTimer t3) s fun t =>
      t = { s with
        ptp := { s.ptp with delayReq := some ⟨s.ptp.reqSeq, t3, s.ptp.lastSync, s.ptp.awaiting.isSome⟩,
                                reqSeq := (s.ptp.reqSeq + 1) % 65536 }
        out := [.ptpMsg s.activePort (s.netHead s.activePort) 0x1 s.ptp.reqSeq t3 [b2n (s.flag R.PTP_CFG_DELAY_UNICAST), m.source]] }) ∧
  (∀ (t3 : Nat) (s : State), s.ptp.master = none → Completes (.ptpDelayReqTimer t3) s fun t =>
    t = { s with out := [] }) ∧
  (∀ (p : Port) (source seq t4 : Nat) (corr log : Int) (q : DelayReq) (t1 t2 : Nat) (c1 : Int) (s : State), s.Ok →
    s.ptp.delayReq = some q → s.fromMaster p source (s.fld R.PTP_CFG_DOMAIN) = true → q.seq = seq →
      q.pair = some (t1, t2, c1) →
    Completes (.ptpDelayRespReceive p source seq t4 corr log) s fun t =>
      let d := s.ptp.d + (tdiv (((t2 : Int) - t1 - c1) +
        ((t4 : Int) - q.t3 - corr)) 2 - s.ptp.d) / 2 ^ s.fld R.PTP_SERVO_CTRL_DLY_SHIFT
      t = { s with regs := t.regs, out := [], ptp := { s.ptp with d := d, exchanged := true, delayReq := none, reqLog := some log } } ∧
      t.fld R.PTP_DELAY_D = ofSigned 32 (satS 32 d) ∧ Untouched [R.PTP_DELAY_D] s t) ∧
  (∀ (p : Port) (source seq t4 : Nat) (corr log : Int) (q : DelayReq) (s : State), s.ptp.delayReq = some q →
    s.fromMaster p source (s.fld R.PTP_CFG_DOMAIN) = true → q.seq = seq → q.pair = none →
    Completes (.ptpDelayRespReceive p source seq t4 corr log) s fun t =>
      t = { s with out := [], ptp := { s.ptp with delayReq := none, reqLog := some log } }) ∧
  (∀ (p : Port) (source seq t4 : Nat) (corr log : Int) (s : State), (∀ q ∈ s.ptp.delayReq,
      s.fromMaster p source (s.fld R.PTP_CFG_DOMAIN) = false ∨ q.seq ≠ seq) →
    Completes (.ptpDelayRespReceive p source seq t4 corr log) s fun t => Unchanged s t) ∧
  (∀ (p : Port) (source seq t4 : Nat) (s : State), s.ptpState = ptpGrandmaster → s.ptpListens p = true →
    Completes (.gmDelayReqReceive p source seq t4) s fun t =>
      t = { s with out := [.ptpMsg p (s.netHead p) 0x9 seq t4 [source]] }) ∧
  (∀ (p : Port) (source seq t4 : Nat) (s : State), s.ptpState ≠ ptpGrandmaster →
    Completes (.gmDelayReqReceive p source seq t4) s fun t => t = { s with out := [] }) ∧
  (∀ (announce : Bool) (s : State), s.ptpState = ptpGrandmaster →
    Completes (.gmSyncSend announce) s fun t =>
      let msgs := fun (p : Port) => if s.ptpListens p = false then [] else if announce then
          [Output.ptpMsg p (s.netHead p) 0xB s.ptp.gmSeq s.ptp.ns [s.fld R.PTP_CFG_GM_PRIO1, 248, 0xFE, s.ownPrio2,
            s.fld R.PTP_CFG_DOMAIN]]
        else [Output.ptpMsg p (s.netHead p) 0x0 s.ptp.gmSeq s.ptp.ns [s.fld R.PTP_CFG_DOMAIN],
              Output.ptpMsg p (s.netHead p) 0x8 s.ptp.gmSeq s.ptp.ns [s.fld R.PTP_CFG_DOMAIN]]
      t = { s with out := msgs .a ++ msgs .b, ptp := { s.ptp with gmSeq := (s.ptp.gmSeq + 1) % 65536 } }) ∧
  (∀ (announce : Bool) (s : State), s.ptpState ≠ ptpGrandmaster →
    Completes (.gmSyncSend announce) s fun t => t = { s with out := [] }) ∧
  (∀ (a : PtpAnnounce) (s : State), s.Ok → s.ptpListens a.port = true → a.domain = s.fld R.PTP_CFG_DOMAIN →
    Completes (.ptpAnnounceReceive a) s fun t =>
      t.ptp.foreign = a :: (s.ptp.foreign.filter fun b => !(b.source = a.source && b.port = a.port)) ∧
        t.mem = s.mem) ∧
  (∀ (a : PtpAnnounce) (s : State), s.ptpListens a.port = false →
    Completes (.ptpAnnounceReceive a) s fun t => t = { s with out := [] }) ∧
  (∀ (p : Port) (s : State), Completes (.announceReceiptTimeout p) s fun t =>
      t.ptp.foreign = (s.ptp.foreign.filter fun b => b.port ≠ p) ∧ t.mem = s.mem) ∧
  (∀ (p : Port) (s : State), s.Ok → (∀ b ∈ s.ptp.foreign, b.port = p) → s.gmPermitted = true →
    (p = .a ∨ s.ptpListens .a = false ∨ s.ptp.quietA = true) → (p = .b ∨ s.ptpListens .b = false ∨
      s.ptp.quietB = true) →
    Completes (.announceReceiptTimeout p) s fun t =>
      t.ptpState = ptpGrandmaster ∧ t.ptp.own = true ∧ t.ptp.master = none) ∧
  (∀ (k : PtpRefused) (s : State), s.Ok → Completes (.ptpMessageRefused k) s fun t =>
      t.fld R.PTP_CNT_BAD_N = (s.fld R.PTP_CNT_BAD_N + (if k = .peerDelay then 1 else 0)) % 2 ^ 32 ∧
      t = { s with regs := t.regs, out := [] } ∧ Untouched [R.PTP_CNT_BAD_N] s t)

/-- R78, R44, R524: the loss of samples, the holdover alarm, and PPS_OUT. Model's choices it rests on: assumption
log, entry 20. -/
def Obligations.PtpHoldoverAndPps : Prop :=
  (∀ s : State, s.Ok → s.ptpState = ptpLocked → Completes .ptpSampleLoss s fun t =>
      t.ptpState = ptpHoldover ∧ t.fld R.PTP_STATE_LOCK_CNT = 0 ∧ t.fld R.PTP_ALARM_UNLOCK = 1 ∧
        t.fld R.PTP_ALARM_HOLDOVER = 1 ∧
      t.ptp.holdNs = 0 ∧ t.irqSet pPTP 0 ∧ t.mem = s.mem ∧
      (s.flag R.PTP_SERVO_CTRL_EN = true → t.ptp.rate = s.ptp.i)) ∧
  (∀ s : State, s.Ok → s.ptpState = ptpAcquiring → Completes .ptpSampleLoss s fun t =>
      t.ptpState = ptpFreerun ∧ t.fld R.PTP_STATE_LOCK_CNT = 0 ∧ t.irqSet pPTP 0 ∧ t.mem = s.mem ∧
      (s.flag R.PTP_SERVO_CTRL_EN = true → t.ptp.rate = s.ptp.i)) ∧
  (∀ s : State, s.ptpState ≠ ptpLocked → s.ptpState ≠ ptpAcquiring →
    Completes .ptpSampleLoss s fun t => t = { s with out := [] }) ∧
  (∀ s : State, s.Ok → s.ptpState = ptpHoldover → Completes .holdover60s s fun t =>
      t.fld R.PTP_ALARM_HOLD60 = 1 ∧ t.irqSet pPTP 1 ∧
      t = { s with regs := t.regs, out := [], posts := t.posts, ptp := { s.ptp with holdNs := max s.ptp.holdNs 60000000000 } } ∧
      Untouched [R.PTP_ALARM_HOLD60, R.PG_IRQ_RAW_BIT pPTP 1] s t) ∧
  (∀ s : State, s.ptpState ≠ ptpHoldover → Completes .holdover60s s fun t => t = { s with out := [] }) ∧
  (∀ s : State, Completes .ppsPulse s fun t =>
      t = { s with out := [], pins := { s.pins with pps := s.pins.pps || (s.ppsRuns && !s.pins.ppsHeld) } }) ∧
  (∀ s : State, Completes .ppsFall s fun t => t = { s with out := [], pins := { s.pins with pps := false } })

/-- R41, R42, R94, R302, R303, R530: D(N) — the COMMIT used, the loss run, the case it gives frame N and its gain. A
D that has passed settles nothing again, and one that a forward step jumped over settles nothing (R79). Model's
choices it rests on: assumption log, entries 6, 20 and 27. -/
def Obligations.FrameCommitDue : Prop :=
  (∀ (n : Nat) (s : State), s.timing = none ∨ s.gridRuns = false ∨ (s.commit.dueDone.any fun d => n ≤ d) = true ∨
      (s.ptp.skipTo.any fun f => n < f) = true → Completes (.commitDue n) s fun t => Unchanged s t) ∧
  (∀ (n : Nat) (t0 : Timing) (s : State), s.Ok → s.timing = some t0 → s.gridRuns = true →
    (s.commit.dueDone.any fun d => n ≤ d) = false → (s.ptp.skipTo.any fun f => n < f) = false →
      s.usedCommit n = none → Completes (.commitDue n) s fun t =>
    let run := min (s.fld R.COMMIT_LAST_LOSS_RUN + 1) 255
    let limit := s.partyParam 10 1
    let stored : Bool := s.storeCtl.repeatFrame ≠ none
    t.commit.dueDone = some n ∧ t.fld R.COMMIT_LAST_LOSS_RUN = run ∧ Counted s t R.COMMIT_CNT_MISSED_N 1 ∧
      t.irqSet pCOMMIT 1 ∧
    t.fld R.PARTY_ROLE_CURRENT = s.fld R.PARTY_ROLE_CURRENT ∧ t.commit.cur = s.commit.cur ∧ t0.dDue n ≤ t.ptp.ns ∧
    (s.commit.cur = none ∨ s.isDark = true → t.commit.cases.head?.map (·.kase) = some 6) ∧
    (s.commit.cur ≠ none → s.isDark = false → t.commit.cases.head?.map (fun c => (c.frame, c.kase, c.gain, c.slot,
      c.torn)) =
      some (n, if run < limit ∧ stored = true then 4 else 5,
        if run < limit then s.party.lastGain.getD 0 else s.partyParam 18 2, s.commit.cur, none))) ∧
  (∀ (n : Nat) (t0 : Timing) (c : Commit) (s : State), s.Ok → s.timing = some t0 → s.gridRuns = true →
    (s.commit.dueDone.any fun d => n ≤ d) = false → (s.ptp.skipTo.any fun f => n < f) = false →
      s.usedCommit n = some c → c.status ≤ 2 → Completes (.commitDue n) s fun t =>
    let stored : Bool := s.storeCtl.repeatFrame ≠ none
    t.commit.dueDone = some n ∧ t.fld R.COMMIT_LAST_LOSS_RUN = 0 ∧ t.fld R.COMMIT_LAST_STATUS = c.status ∧
    t.fld R.COMMIT_CNT_MISSED_N = s.fld R.COMMIT_CNT_MISSED_N ∧ t.party.lastGain = some c.gain ∧
      t.commit.cur = s.commit.cur ∧
    t.shows R.PARTY_ROLE_CURRENT c.sender ∧
    (s.commit.cur ≠ none → s.isDark = false → t.commit.cases.head?.map (fun x => (x.frame, x.gain)) = some (n,
      c.gain)) ∧
    (s.commit.cur ≠ none → s.isDark = false → c.status = 1 → t.commit.cases.head?.map (fun x => (x.kase, x.source)) =
      some (if stored = true then (1, 1) else (7, 2))) ∧
    (s.commit.cur ≠ none → s.isDark = false → c.status = 2 →
      t.commit.cases.head?.map (fun x => (x.kase, x.source)) = some (2, 2)) ∧
    (s.commit.cur ≠ none → s.isDark = false → c.status = 0 → s.switches (some c) = false →
      t.commit.cases.head?.map (fun x => (x.kase, x.source, x.torn.isSome)) =
        some (if s.closedComplete n = true ∧ s.commit.tornTo ≤ n then (0, 0, false)
          else if stored = true then (3, 1, !s.inBivouac) else (7, 2, !s.inBivouac)))) ∧
  (∀ (n : Nat) (c : Commit) (s : State), s.usedCommit n = some c → s.timing = none →
    Completes (.commitDue n) s fun _ =>
    c ∈ s.commit.held ∧ c.frame = n ∧ s.partyFenced = false ∧ ∀ d ∈ s.commit.held, d.frame = n → c.sender ≤ d.sender)

/-- R28, R41, R79, R98, R102, R134, R228: P(N) — the switch to the generation that the COMMIT named, the slot of the
frame that is presented or of none, the count of a torn frame, and the old generation RETIRED one boundary after its
last. A P(N) reached a second time begins no slot, and a step back begins none before the last frame presented has
passed. R143, R163, R299, R301: the role a candidate takes when its listening frames end, and the end of a burst,
whose figures the pipeline shows and whose buffer becomes the repeat source where it rendered the source frame.
Model's choices it rests on: assumption log, entries 6, 20 and 23. -/
def Obligations.FrameBoundaries : Prop :=
  (∀ (n : Nat) (s : State), s.timing = none ∨ s.gridRuns = false →
    Completes (.frameBoundary n) s fun t => Unchanged s t) ∧
  (∀ (n k : Nat) (t0 : Timing) (c : FrameCase) (s : State), s.Ok → s.timing = some t0 → s.gridRuns = true →
    s.pwr.resume = false →
    s.inBivouac = false → s.belay.install = none → s.ptp.step = none → s.ptp.skipTo = none → s.isAhead n = true →
    s.storeCtl.unusable = false → s.inRun = true → s.commit.cases = [c] → c.frame = n → c.source ≠ 3 →
      c.slot = some k → k < 4 →
    s.commit.cur ≠ none → c.gain < 65536 → c.kase < 8 → s.commit.old = none → Completes (.frameBoundary n) s fun t =>
    t.commit.slotFrame = some n ∧ t.commit.passed = some n ∧ t.shows R.COMMIT_FRAME_LO_N_LO n ∧
    t.shows R.COMMIT_FRAME_HI_N_HI (n / 2 ^ 32) ∧ t.fld R.COMMIT_LAST_CASE = c.kase ∧
      t.fld R.COMMIT_LAST_GAIN = c.gain ∧
    t0.p n ≤ t.ptp.ns ∧ Counted s t R.COMMIT_CNT_TORN_N (if c.torn = none then 0 else 1) ∧
    (c.torn ≠ none → t.irqSet pCOMMIT 2) ∧
    (s.commit.cur = some k ∨ c.gen ≠ s.slotGen k → t.commit.cur = s.commit.cur ∧ t.commit.old = none ∧
      t.commit.switchAt = s.commit.switchAt) ∧
    (s.commit.cur ≠ some k → c.gen = s.slotGen k → t.commit.cur = some k ∧ t.commit.old = s.commit.cur ∧
      t.commit.switchAt = some n ∧ t.fld (R.COMMIT_SLOT_STATE k) = 3 ∧ t.fld R.COMMIT_GEN_CUR_GEN = s.slotGen k ∧
      t.fld R.COMMIT_GEN_CUR_VALID = 1 ∧ t.irqSet pCOMMIT 0)) ∧
  (∀ (n : Nat) (t0 : Timing) (s : State), s.Ok → s.timing = some t0 → s.gridRuns = true → s.pwr.resume = false →
    s.inBivouac = false → s.belay.install = none → s.ptp.step = none → s.isAhead n = true → s.commit.cases = [] →
    s.usedCommit n = none → Completes (.frameBoundary n) s fun t =>
    t.commit.slotFrame = none ∧ t.fld R.COMMIT_LAST_CASE = 6 ∧ t.gov.shown = none ∧ t.commit.cur = s.commit.cur ∧
    t.fld R.PRESENT_SLOT_CASE = 0 ∧ t.fld R.COMMIT_FRAME_LO_N_LO = s.fld R.COMMIT_FRAME_LO_N_LO ∧ t.returning = [] ∧
    (∀ k ∈ s.commit.old, k < 4 → some k ≠ s.commit.cur → t.fld (R.COMMIT_SLOT_STATE k) = slotRetired ∧
      t.commit.old = none)) ∧
  (∀ (n : Nat) (t0 : Timing) (s : State), s.Ok → s.timing = some t0 → s.gridRuns = true → s.pwr.resume = false →
    s.ptp.step = none → s.isAhead n = false → Completes (.frameBoundary n) s fun t =>
    t.commit.slotFrame = s.commit.slotFrame ∧ t.commit.cur = s.commit.cur ∧ t.commit.old = s.commit.old ∧
    t.fld R.COMMIT_LAST_CASE = s.fld R.COMMIT_LAST_CASE ∧
      t.fld R.COMMIT_FRAME_LO_N_LO = s.fld R.COMMIT_FRAME_LO_N_LO ∧
    t.returning = []) ∧
  (∀ (n : Nat) (t0 : Timing) (d : Int) (s : State), s.Ok → s.timing = some t0 → s.gridRuns = true →
    s.pwr.resume = false →
    s.ptp.step = some d → d < 0 → Completes (.frameBoundary n) s fun t =>
    t.ptp.step = none ∧ t.ptp.skipTo = some (s.lastShown + 1) ∧ t.commit.slotFrame = none ∧ t.gov.shown = none ∧
    t.fld R.PRESENT_SLOT_CASE = 0 ∧ t.commit.cur = s.commit.cur ∧ t.fld R.PTP_ALARM_STEP = 1 ∧ t.irqSet pPTP 2 ∧
    t.ptp.ns = (((s.atTime (t0.p n)).ptp.ns : Int) + d).toNat) ∧
  (∀ s : State, s.role ≠ roleListening ∨ s.fld R.PARTY_ROLE_LISTEN ≠ 0 →
    Completes .listenEnd s fun t => Unchanged s t) ∧
  (∀ s : State, s.Ok → s.role = roleListening → s.fld R.PARTY_ROLE_LISTEN = 0 → Completes .listenEnd s fun t =>
    t.fld R.PARTY_ROLE_LISTEN = 0 ∧ t.irqSet pPARTY 0 ∧ t.mem = s.mem ∧ t.pins = s.pins ∧
    (if s.party.heard = true then t.role = roleStandby ∧ t.out = [] ∧
      Untouched [R.PARTY_ROLE_ROLE, R.PG_IRQ_RAW_BIT pPARTY 0] s t
     else t.role = roleSummit ∧ t.lcp.leases = [] ∧ t.party.repeatRun = 0 ∧
      ((∀ q ∈ s.party.closes, q.frame ≤ s.commit.dueDone.getD 0 ∨ q.sent = true) →
        t.out = [] ∧ t.party.prev = s.newestGain))) ∧
  (∀ s : State, s.commit.burst = none → Completes .burstEnd s fun t => Unchanged s t) ∧
  (∀ (b : Burst) (s : State), s.Ok → s.commit.burst = some b → Completes .burstEnd s fun t =>
    t.commit.burst = none ∧ t.fld R.PIPE_STATUS_BURST = 0 ∧ t.shows R.PIPE_STATUS_SOURCE b.source ∧
      t.shows R.PIPE_STATUS_GEN b.gen ∧
    t.shows R.PIPE_LAST_GAIN_G b.g ∧ t.shows R.PIPE_LAST_GAIN_GOV b.gov ∧ t.shows R.CAL_FALLBACK_N b.fallback ∧
    Counted s t R.PIPE_CNT_FRAMES_N 1 ∧ t.irqSet pPIPE 0 ∧
    (s.fld R.PIPE_STATUS_GEN ≠ b.gen → ∀ g ∈ List.range 4, g ∉ b.stopped →
      t.shows (R.PIPE_LANE_ENTRIES_E g) (b.entries.getD g 0)) ∧
    (s.fld R.PIPE_STATUS_GEN = b.gen → ∀ g ∈ List.range 4,
      t.fld (R.PIPE_LANE_ENTRIES_E g) = s.fld (R.PIPE_LANE_ENTRIES_E g)) ∧
    ((∃ g ∈ List.range 4, g ∉ b.stopped) → t.shows R.PIPE_BURST_NS_NS
      (8 * ((List.range 4).map fun g => if g ∈ b.stopped then 0 else b.entries.getD g 0).foldl max 0 + 400)) ∧
    (b.source = 0 → t.storeCtl.repeatFrame = some b.frame))

/-- R90, R91: the HAVE of a frame leaves at H(n) and closes the frame; the quorum of a candidate closes at C(n).
R99, R101: the summit's announcement ends with the result code of R101, and staging of a descriptor ends with its
slot STAGED (or READY, where the latest GEN_ANNOUNCE names it), its digest and CRC checked. R16, R98, R99, R318: a
write of COMMIT_STAGE_CTRL with GO starts a staging of the named slot from COMMIT_STAGE_ADDR; staging over a slot in
use, or a GEN_ID that another slot holds, or on a module that resynchronises, is no defined use. Model's choices it
rests on: assumption log, entries 7, 27 and 28. -/
def Obligations.AnnounceAndQuorum : Prop :=
  (∀ (n : Nat) (e : Ecc) (u : Timing) (s : State), s.Ok → s.timing = some u → s.isClosed n = false →
    s.gridRuns = true →
    Completes (.haveSendDeadline ⟨n, e⟩) s fun t =>
    t.isClosed n = true ∧ u.h n ≤ t.ptp.ns ∧ s.ptp.ns ≤ t.ptp.ns ∧ (e = .uncorrectable →
      t.hasFence pPARTY noUnit = true)) ∧
  (∀ (n : Nat) (e : Ecc) (u : Timing) (s : State), s.timing = some u → s.isClosed n = true → e ≠ .uncorrectable →
    Completes (.haveSendDeadline ⟨n, e⟩) s fun t => t = ({ s with out := [] } : State).atTime (u.h n)) ∧
  (∀ (n : Nat) (e : Ecc) (s : State), s.timing = none → Completes (.haveSendDeadline ⟨n, e⟩) s fun t =>
    Unchanged s t) ∧
  (∀ (n : Nat) (u : Timing) (s : State), s.Ok → s.timing = some u → s.gridRuns = true → s.isQuorumClosed n = false →
    s.role ≠ roleNone → s.partyFenced = false → (∀ h ∈ s.party.haves, h.frame ≤ n) →
      Completes (.quorumCloseAtC n) s fun t =>
    t.isQuorumClosed n = true ∧ t.shows R.PARTY_Q_LAST_COUNTED (s.heldHaves n).length ∧
    t.shows R.PARTY_Q_INFO_INCOMPLETE ((s.heldHaves n).filter fun h => !h.complete).length ∧
    t.fld R.PARTY_Q_INFO_EARLY = 0 ∧ u.c n ≤ t.ptp.ns ∧ t.mem = s.mem) ∧
  (∀ (n : Nat) (u : Timing) (s : State), s.timing = some u → s.gridRuns = true →
    (s.role = roleNone ∨ (s.isQuorumClosed n = true ∧ ∀ h ∈ s.party.haves, h.frame ≤ n)) →
    Completes (.quorumCloseAtC n) s fun t => t = ({ s with out := [] } : State).atTime (u.c n)) ∧
  (∀ (m : Master) (s : State), s.Ok → m.holds rightConfig = true → s.role ≠ roleSummit →
    Completes (.genAnnounceSend m) s fun t =>
    t.fld R.COMMIT_ANN_CTRL_RESULT = 1 ∧ t.fld R.COMMIT_ANN_CTRL_BUSY = 0 ∧ t.fld R.COMMIT_ANN_CTRL_SEND = 0 ∧
    t.irqSet pCOMMIT 3 ∧ RegsOnly s t ∧
    Untouched [R.COMMIT_ANN_CTRL_RESULT, R.COMMIT_ANN_CTRL_BUSY, R.COMMIT_ANN_CTRL_SEND, R.PG_IRQ_RAW_BIT pCOMMIT 3,
      R.PG_LOCK_ARMED pCOMMIT] s t) ∧
  (∀ (m : Master) (k : Nat) (s : State), s.Ok → m.holds rightConfig = true → s.role = roleSummit →
    (List.range 4).find? (fun j => s.slotGen j = s.fld R.COMMIT_ANN_GEN_GEN && (s.slot j).sound &&
      (s.slotState j = slotStaged || s.slotState j = slotReady)) = some k →
    s.fld R.COMMIT_ANN_GEN_WITHDRAW = 0 → (s.readySlot = none ∨ s.readySlot = some k) →
    Completes (.genAnnounceSend m) s fun t =>
    t.fld R.COMMIT_ANN_CTRL_RESULT = 0 ∧ t.fld R.COMMIT_ANN_CTRL_BUSY = 0 ∧ t.irqSet pCOMMIT 3 ∧
    t.commit.announce = some ⟨s.fld R.COMMIT_ANN_GEN_GEN, false,
      s.wide R.COMMIT_ANN_NB_LO_NB_LO R.COMMIT_ANN_NB_HI_NB_HI,
      (s.slot k).digest⟩) ∧
  (∀ (k a : Nat) (s : State), s.Ok → s.storeCtl.selfRefresh = false → s.storeCtl.unusable = false →
    s.fld R.STORE_STATUS_INIT_DONE = 1 → s.commit.staging = some (k, a) → k < 4 →
      s.firstBad a (memLE s.mem.store (a + 8) 4) = none →
    s.commit.announce = none → Completes .genStageDone s fun t =>
    t.slotState k = slotStaged ∧ t.slotGen k = memLE s.mem.store (a + 4) 2 % 2 ^ 16 ∧ t.commit.staging = none ∧
    t.fld R.COMMIT_STAGE_CTRL_GO = 0 ∧ t.irqSet pCOMMIT 3 ∧ t.slot k = s.readSlot a (s.commit.staged + 1) ∧
    t.mem = { s.mem with storeWeak := t.mem.storeWeak }) ∧
  (∀ s : State, s.commit.staging = none ∨ s.storeCtl.selfRefresh = true ∨ s.storeCtl.unusable = true ∨
    s.fld R.STORE_STATUS_INIT_DONE = 0 → Completes .genStageDone s fun t => Unchanged s t) ∧
  (∀ (m : Master) (slot : Nat) (s : State), s.Ok → m.holds rightConfig = true → slot < 4 → s.commit.staging ≠ none →
    Completes (.genStageGo m slot) s fun t => t.commit = s.commit ∧ t.mem = s.mem ∧
      Untouched [R.PG_LOCK_ARMED pCOMMIT] s t) ∧
  (∀ (m : Master) (slot : Nat) (s : State), s.Ok → m.holds rightConfig = true → slot < 4 → s.commit.staging = none →
    s.fld R.BELAY_STATUS_RESYNC_BUSY = 1 → s.fld R.BELAY_STATUS_LEAD = 0 →
    exec (.genStageGo m slot) s = .fault (.unpredictable 318)) ∧
  (∀ (m : Master) (slot : Nat) (s : State), s.Ok → m.holds rightConfig = true → slot < 4 → s.commit.staging = none →
    s.fld R.BELAY_STATUS_RESYNC_BUSY = 0 → s.slotState slot ≠ 0 ∧ s.slotState slot ≠ 4 →
    exec (.genStageGo m slot) s = .fault (.unpredictable 99)) ∧
  (∀ (m : Master) (slot : Nat) (s : State), s.Ok → m.holds rightConfig = true → slot < 4 → s.commit.staging = none →
    s.fld R.BELAY_STATUS_RESYNC_BUSY = 0 → s.slotState slot = 0 ∨ s.slotState slot = 4 →
    (s.slotHolding (s.genIdAt (64 * s.fld R.COMMIT_STAGE_ADDR_ADDR))).isSome = false →
    (s.fwBreach (64 * s.fld R.COMMIT_STAGE_ADDR_ADDR)).isSome = false → Completes (.genStageGo m slot) s fun t =>
    t.commit = { s.commit with staging := some (slot, 64 * s.fld R.COMMIT_STAGE_ADDR_ADDR) } ∧
      t.fld R.COMMIT_STAGE_CTRL_GO = 1 ∧
    t.fld R.COMMIT_STAGE_CTRL_SLOT = slot ∧ t.mem = s.mem ∧ RegsOnly { s with commit := t.commit } t ∧
    Untouched [R.PG_LOCK_ARMED pCOMMIT, R.COMMIT_STAGE_CTRL_GO, R.COMMIT_STAGE_CTRL_SLOT] s t)

/-- R98, R99: where its use is defined, a write of COMMIT_STAGE_CTRL with GO starts a staging of the named slot from
COMMIT_STAGE_ADDR, and GEN_STAGE_DONE then leaves that slot STAGED under the descriptor's GEN_ID, every other slot
as it was. Its use is defined while no staging runs, on a module that does not resynchronise, for a slot EMPTY or
RETIRED and a GEN_ID that no other slot holds, with a descriptor that breaks no rule of the chapters. Model's
choices it rests on: assumption log, entry 28. -/
def Obligations.StagingRuns : Prop :=
  ∀ (m : Master) (slot : Nat) (s : State), s.Ok → m.holds rightConfig = true → slot < 4 → s.commit.staging = none →
    (s.fld R.BELAY_STATUS_RESYNC_BUSY = 0 ∨ s.fld R.BELAY_STATUS_LEAD = 1) →
    (s.slotState slot = slotEmpty ∨ s.slotState slot = slotRetired) →
    s.slotHolding (s.genIdAt (64 * s.fld R.COMMIT_STAGE_ADDR_ADDR)) = none →
    s.fwBreach (64 * s.fld R.COMMIT_STAGE_ADDR_ADDR) = none → Completes (.genStageGo m slot) s fun t =>
    t = { s with out := [], regs := t.regs
                 commit := { s.commit with staging := some (slot, 64 * s.fld R.COMMIT_STAGE_ADDR_ADDR) } } ∧
    t.fld R.COMMIT_STAGE_CTRL_GO = 1 ∧ t.fld R.COMMIT_STAGE_CTRL_SLOT = slot ∧
    Untouched [R.PG_LOCK_ARMED pCOMMIT, R.COMMIT_STAGE_CTRL_GO, R.COMMIT_STAGE_CTRL_SLOT] s t ∧
    (s.storeCtl.selfRefresh = false → s.storeCtl.unusable = false → s.fld R.STORE_STATUS_INIT_DONE = 1 →
      s.commit.announce = none → Completes .genStageDone t fun u =>
      u.slotState slot = slotStaged ∧ u.slotGen slot = s.genIdAt (64 * s.fld R.COMMIT_STAGE_ADDR_ADDR) ∧
      u.slot slot = s.readSlot (64 * s.fld R.COMMIT_STAGE_ADDR_ADDR) (s.commit.staged + 1) ∧ u.commit.staging = none ∧
      u.fld R.COMMIT_STAGE_CTRL_GO = 0 ∧ u.irqSet pCOMMIT 3 ∧
      ∀ j ∈ List.range 4, j ≠ slot → u.slotState j = s.slotState j)

/-! ## Ingest, store, pipeline and governor (04 to 07) -/

/-- R107: inserting a module releases SFPx_TXDIS; removing it takes the link down at once; the 300 ms timer starts
acquisition; LINK_UP and LINK_DOWN end and restart it. R108: a transmit fault while SFPx_TXDIS is driven low
releases it, and the fourth within 60 s fences the port; the 10 ms end drives it low again. A fault while it is
released only sets the level of SFPx_TXFLT. Model's choices it rests on: assumption log, entry 21. -/
def Obligations.NetPortLifecycle : Prop :=
  (∀ (p : Port) (s : State), s.Ok → Completes (.sfpInsert p) s fun t =>
    if s.cageEmpty p = false then Unchanged s t
    else t.cageEmpty p = false ∧ t.fld (R.NET_LINK_TX_OFF p.ix) = 1 ∧ t.fld (R.NET_LINK_UP p.ix) = 0 ∧
      (t.net p).acquiring = false ∧ t.irqSet (pNET p) 1 ∧ t.mem = s.mem ∧
      Untouched [R.NET_LINK_TX_OFF p.ix, R.NET_LINK_UP p.ix, R.NET_LINK_SPEED_ACT p.ix, R.NET_LINK_FEC_ACT p.ix,
        R.NET_CNT_LINK_DOWN_N p.ix, R.PG_IRQ_RAW_BIT (pNET p) 0, R.PG_IRQ_RAW_BIT (pNET p) 1] s t) ∧
  (∀ (p : Port) (s : State), s.Ok → Completes (.sfpRemove p) s fun t =>
    if s.cageEmpty p = true then Unchanged s t
    else t.cageEmpty p = true ∧ t.fld (R.NET_LINK_TX_OFF p.ix) = 1 ∧ t.fld (R.NET_LINK_UP p.ix) = 0 ∧
      Counted s t (R.NET_CNT_LINK_DOWN_N p.ix) (s.fld (R.NET_LINK_UP p.ix)) ∧ (t.net p).acquiring = false ∧
      t.irqSet (pNET p) 1 ∧ t.mem = s.mem ∧
      Untouched [R.NET_LINK_TX_OFF p.ix, R.NET_LINK_UP p.ix, R.NET_LINK_SPEED_ACT p.ix, R.NET_LINK_FEC_ACT p.ix,
        R.NET_CNT_LINK_DOWN_N p.ix, R.PG_IRQ_RAW_BIT (pNET p) 0, R.PG_IRQ_RAW_BIT (pNET p) 1] s t) ∧
  (∀ (p : Port) (s : State), s.Ok → Completes (.linkTxdisTimer p) s fun t =>
    if (s.net p).acquiring = false ∧ s.portEn p = true ∧ s.cageEmpty p = false ∧
      s.isFenced (pNET p) noUnit = false then
      t.fld (R.NET_LINK_TX_OFF p.ix) = 0 ∧ (t.net p).acquiring = true ∧
      (t.net p).trying = (if s.fld (R.NET_CFG_SPEED p.ix) = 2 then 2 else 1) ∧ t.mem = s.mem ∧
      Untouched [R.NET_LINK_TX_OFF p.ix] s t
    else Unchanged s t) ∧
  (∀ (p : Port) (s : State), Completes (.linkSpeedAlternate p) s fun t =>
    if (s.net p).acquiring = true ∧ s.fld (R.NET_CFG_SPEED p.ix) = 0 ∧ s.fld (R.NET_LINK_UP p.ix) = 0 then
      t = ({ s with out := [] } : State).setNet p { s.net p with trying := if (s.net p).trying = 1 then 2 else 1 }
    else Unchanged s t) ∧
  (∀ (p : Port) (aligned : Bool) (s : State), s.Ok → Completes (.linkUp p aligned) s fun t =>
    if (s.net p).acquiring = true ∧ s.fld (R.NET_LINK_UP p.ix) = 0 ∧ s.cageEmpty p = false ∧
        (fecAct (s.fld (R.NET_CFG_FEC p.ix)) (s.net p).trying = 0 ∨ aligned = true) then
      t.fld (R.NET_LINK_UP p.ix) = 1 ∧ t.shows (R.NET_LINK_SPEED_ACT p.ix) (s.net p).trying ∧
      t.shows (R.NET_LINK_FEC_ACT p.ix) (fecAct (s.fld (R.NET_CFG_FEC p.ix)) (s.net p).trying) ∧ t.irqSet (pNET p) 0 ∧
      (t.net p).acquiring = true ∧ (t.net p).trying = (s.net p).trying ∧ t.mem = s.mem ∧
      (s.isFenced (pNET p) noUnit = false → (s.net p).v1Until ≤ s.now → (s.net p).v2Until ≤ s.now →
        t.out = [.igmpReport p (s.netHead p) 3 (igmpChange 3 [] (s.allGroups p))] ∧
        ∀ r ∈ igmpChange 3 [] (s.allGroups p), r ∈ (t.net p).repeats) ∧
      Untouched [R.NET_LINK_UP p.ix, R.NET_LINK_SPEED_ACT p.ix, R.NET_LINK_FEC_ACT p.ix, R.PG_IRQ_RAW_BIT (pNET p) 0,
        R.NET_CNT_IGMP_TX_N p.ix] s t
    else Unchanged s t) ∧
  (∀ (p : Port) (los : Bool) (s : State), s.Ok → Completes (.linkDown p los) s fun t =>
    t.fld (R.NET_LINK_UP p.ix) = 0 ∧ Counted s t (R.NET_CNT_LINK_DOWN_N p.ix) (s.fld (R.NET_LINK_UP p.ix)) ∧
    (s.fld (R.NET_LINK_UP p.ix) = 1 → t.irqSet (pNET p) 0) ∧ (t.net p).acquiring = (s.net p).acquiring ∧
    ((s.net p).acquiring = true → (t.net p).trying = if s.fld (R.NET_CFG_SPEED p.ix) = 2 then 2 else 1) ∧
      t.mem = s.mem ∧
    Untouched [R.NET_LINK_UP p.ix, R.NET_LINK_SPEED_ACT p.ix, R.NET_LINK_FEC_ACT p.ix, R.NET_CNT_LINK_DOWN_N p.ix,
      R.PG_IRQ_RAW_BIT (pNET p) 0] s t) ∧
  (∀ (p : Port) (s : State), s.Ok → Completes (.txFault p) s fun t =>
    let recent := s.now :: (s.net p).faultTimes.filter fun x => s.now < x + 60000000000
    if s.fld (R.NET_LINK_TX_OFF p.ix) = 1 then t = ({ s with out := [] } : State).setTxflt p true
    else t.fld (R.NET_LINK_TX_OFF p.ix) = 1 ∧ t.recentFaults p = recent ∧
      t.irqSet (pNET p) 2 ∧ (t.net p).faultTimes = recent ∧ t.mem = s.mem ∧
      (if recent.length < 4 then (t.net p).faultRelease = true ∧ t.fences = s.fences
       else t.isFenced (pNET p) noUnit = true ∧ (t.net p).acquiring = false ∧ t.fld (R.NET_LINK_UP p.ix) = 0)) ∧
  (∀ (p : Port) (level : Bool) (s : State), s.Ok → Completes (.txFaultRetry p level) s fun t =>
    if (s.net p).faultRelease = true then
      t.fld (R.NET_LINK_TX_OFF p.ix) = 0 ∧ (t.net p).faultRelease = false ∧ t.mem = s.mem ∧ t.out = [] ∧
      Untouched [R.NET_LINK_TX_OFF p.ix] s t
    else t = ({ s with out := [] } : State).setTxflt p level)

/-- R106, R110, R111: a frame on a port that does not receive has no effect; one that fails the checks is counted
NET_CNT_RX_ERR; any other NET_CNT_RX_OK, and goes to one class, the first of R110 that takes it. R112: a query of an
older version sets the compatibility mode, and reports become due; on the report timer the changes are reported a
second time and the queries answered, in IGMPv3 with the sources asked for. Model's choices it rests on: assumption
log, entry 21. -/
def Obligations.NetFrames : Prop :=
  (∀ (f : NetFrame) (s : State), s.Ok → s.portReceives f.port = false →
    Completes (.netFrameReceive f) s fun t => Unchanged s t) ∧
  (∀ (f : NetFrame) (s : State), s.Ok → s.portReceives f.port = true →
    (f.fcsOk = false ∨ f.size < 64 ∨ 9216 < f.size) → Completes (.netFrameReceive f) s fun t =>
    Counted s t (R.NET_CNT_RX_ERR_N f.port.ix) 1 ∧ t.out = [.netClass f.port 0] ∧ RegsOnly s t ∧
    Untouched [R.NET_CNT_RX_ERR_N f.port.ix] s t) ∧
  (∀ (f : NetFrame) (s : State), s.Ok → s.portReceives f.port = true → f.fcsOk = true → 64 ≤ f.size → f.size ≤ 9216 →
    f.macControl = true → Completes (.netFrameReceive f) s fun t =>
    Counted s t (R.NET_CNT_RX_OK_N f.port.ix) 1 ∧ t.out = [] ∧ RegsOnly s t ∧
    Untouched [R.NET_CNT_RX_OK_N f.port.ix] s t) ∧
  (∀ (f : NetFrame) (s : State), s.Ok → s.portReceives f.port = true → f.fcsOk = true → 64 ≤ f.size → f.size ≤ 9216 →
    f.macControl = false → Completes (.netFrameReceive f) s fun t =>
    Counted s t (R.NET_CNT_RX_OK_N f.port.ix) 1 ∧ t.out = [.netClass f.port (s.netClassOf f)] ∧
    Counted s t (R.NET_CNT_FILTER_N f.port.ix) (if s.netClassOf f = 1 ∨ s.netClassOf f = 7 then 1 else 0) ∧
    (s.netClassOf f = 2 ∨ s.netClassOf f = 3 ∨ s.netClassOf f = 4 ∨ (s.netClassOf f = 6 ∧ s.fld R.LCP_CFG_EN = 0) →
      RegsOnly s t ∧ Untouched [R.NET_CNT_RX_OK_N f.port.ix] s t)) ∧
  (∀ (p : Port) (q : IgmpQuery) (s : State), s.Ok → Completes (.igmpQueryReceive p q) s fun t =>
    if s.portReceives p = false then Unchanged s t
    else (t.net p).v1Until = (if q.version = 1 then s.now + olderQuerierNs else (s.net p).v1Until) ∧
      (t.net p).v2Until = (if q.version = 2 ∧ q.group = 0 then s.now + olderQuerierNs else (s.net p).v2Until) ∧
      (t.net p).igmpMode = t.agentMode p ∧
      (∀ g ∈ s.allGroups p, (q.group = 0 ∨ q.group = g.1) → g.1 ∈ (t.net p).reportDue) ∧
      t = ({ s with out := [] } : State).setNet p (t.net p)) ∧
  (∀ (p : Port) (s : State), s.Ok → Completes (.igmpReportTimer p) s fun t =>
    if s.portReceives p = false then Unchanged s t
    else (t.net p).reportDue = [] ∧ (t.net p).repeats = [] ∧ t.mem = s.mem ∧
      Untouched [R.NET_CNT_IGMP_TX_N p.ix] s t ∧
      (s.agentMode p = 3 → (s.net p).igmpMode = 3 →
        let answers := (s.net p).reportDue.filterMap (s.stateRecord p)
        t.out = (if (s.net p).repeats = [] then [] else [.igmpReport p (s.netHead p) 3 (s.net p).repeats]) ++
          (if answers = [] then [] else [.igmpReport p (s.netHead p) 3 answers]) ∧
        Counted s t (R.NET_CNT_IGMP_TX_N p.ix) t.out.length))

/-- R115–R117, R119, R129, R135: a media packet whose headers fail is refused with the first code that applies and
counted on its stream; a packet for a closed frame is counted late; a new one of ST 2110-20 is accepted and counted;
an uncorrectable error in the merge records fences INGEST; outside RUN and REST nothing is received. R122, R195,
R197, R198, R206: a slice that XSDEC fails on is counted and stops its stream for the frame; the figures of a frame
are final; the scree's figures and the survey; the request of a snapshot. In a state that is neither RUN nor REST
none of the blocks works. Model's choices it rests on: assumption log, entries 9, 21 and 23. -/
def Obligations.MediaAndDecoding : Prop :=
  (∀ (p : MediaPacket) (s : State), s.inRun = false → Completes (.mediaPacketReceive p) s fun t =>
    t = ({ s with out := [] } : State).atTime p.time) ∧
  (∀ (p : MediaPacket) (u : Timing) (f k which : Nat) (sec : List Byte) (s : State), s.Ok → s.inRun = true →
    s.portReceives p.port = true → s.isFenced pINGEST noUnit = false → s.timing = some u →
    s.placeFrame u p.time p.ts = some f → s.secFor u.lPresent f = (some sec, which) →
    descOf sec p.port p.dst p.dport = some k → p.ecc ≠ .uncorrectable → (s.win k).epoch ≤ s.epochOf which k sec →
    headerCode sec k p ≠ 0 → Completes (.mediaPacketReceive p) s fun t =>
    Counted s t (R.INGEST_ST_REFUSED_N k) 1 ∧ t.shows R.INGEST_BAD_LAST_CODE (headerCode sec k p) ∧
    t.shows R.INGEST_BAD_LAST_STREAM k ∧ t.fld R.INGEST_BAD_LAST_PORT = p.port.ix ∧ t.irqSet pINGEST 1 ∧
    t.mem = s.mem ∧ t.ingest = s.ingest ∧
    Untouched [R.INGEST_ST_REFUSED_N k, R.INGEST_BAD_LAST_CODE, R.INGEST_BAD_LAST_STREAM, R.INGEST_BAD_LAST_PORT,
      R.PG_IRQ_RAW_BIT pINGEST 1] s t) ∧
  (∀ (p : MediaPacket) (u : Timing) (f k which : Nat) (sec : List Byte) (s : State), s.Ok → s.inRun = true →
    s.portReceives p.port = true → s.isFenced pINGEST noUnit = false → s.timing = some u →
    s.placeFrame u p.time p.ts = some f → s.secFor u.lPresent f = (some sec, which) →
    descOf sec p.port p.dst p.dport = some k → p.ecc ≠ .uncorrectable → (s.win k).epoch ≤ s.epochOf which k sec →
    headerCode sec k p = 0 → u.p (f - u.lPresent) ≤ p.time + 100000 →
    s.isClosed f = true → Completes (.mediaPacketReceive p) s fun t =>
    Counted s t (R.INGEST_ST_LATE_N k) 1 ∧ t.mem = s.mem ∧ t.ingest = s.ingest ∧ t.out = [] ∧
    Untouched [R.INGEST_ST_LATE_N k] s t) ∧
  (∀ (p : MediaPacket) (u : Timing) (f k which num : Nat) (w : StreamWin) (sec : List Byte) (s : State), s.Ok →
    s.inRun = true → s.portReceives p.port = true → s.isFenced pINGEST noUnit = false → s.timing = some u →
    s.placeFrame u p.time p.ts = some f → s.secFor u.lPresent f = (some sec, which) →
    descOf sec p.port p.dst p.dport = some k → p.ecc ≠ .uncorrectable → (s.win k).epoch ≤ s.epochOf which k sec →
    headerCode sec k p = 0 → u.p (f - u.lPresent) ≤ p.time + 100000 → s.isClosed f = false →
    secFld sec (R.INGEST_ST_CFG_FORMAT k) = 0 → rawOk sec k p.payload = true →
    w = (s.win k).under (descBytes sec k) (s.epochOf which k sec) →
    num = w.unwrap (beAt p.payload 0 2 * 65536 + p.seq) → w.below num = false → w.find num = none →
      Completes (.mediaPacketReceive p) s fun t =>
    Counted s t (R.INGEST_ST_PKTS_N k) 1 ∧ (k < s.ingest.wins.length → ((t.win k).find num).isSome = true)) ∧
  (∀ (p : MediaPacket) (u : Timing) (f k which : Nat) (sec : List Byte) (s : State), s.Ok → s.inRun = true →
    s.portReceives p.port = true → s.isFenced pINGEST noUnit = false → s.timing = some u →
    s.placeFrame u p.time p.ts = some f → s.secFor u.lPresent f = (some sec, which) →
    descOf sec p.port p.dst p.dport = some k → p.ecc = .uncorrectable → (s.win k).epoch ≤ s.epochOf which k sec →
    Completes (.mediaPacketReceive p) s fun t => t.hasFence pINGEST noUnit = true ∧ t.mem = s.mem ∧
      t.ingest = s.ingest) ∧
  (∀ (k f slice row rows last us : Nat) (h : Option JxsHeader) (e : Ecc) (r : SliceResult) (s : State),
    s.inRun = false →
    Completes (.xsdecSliceDecode k f slice row rows last us ⟨h, e, r⟩) s fun t => Unchanged s t) ∧
  (∀ (k f slice row rows last us : Nat) (h : Option JxsHeader) (e : Ecc) (r : SliceResult) (u : Timing) (sec : List Byte)
    (a : Nat) (s : State), s.Ok → s.inRun = true →
    s.timing = some u → (s.secFor u.lPresent f).1 = some sec → s.isFenced pXSDEC noUnit = false →
      s.isClosed f = false →
    f ∉ (s.win k).stopped → (s.win k).desc = descBytes sec k → secFld sec (R.INGEST_ST_CFG_FORMAT k) = 1 →
    (s.win k).first f = some a → (s.win k).covers f a ((s.win k).unwrap last) = true → k ∈ usedStreams sec →
    k < s.ingest.wins.length → e ≠ .uncorrectable → sliceCode sec k h r ≠ 0 →
    Completes (.xsdecSliceDecode k f slice row rows last us ⟨h, e, r⟩) s fun t =>
    Counted s t R.XSDEC_CNT_ERR_N 1 ∧ t.shows R.XSDEC_ERR_LAST_CODE (sliceCode sec k h r) ∧
      t.shows R.XSDEC_ERR_LAST_SLICE slice ∧
    t.shows R.XSDEC_ERR_LAST_STREAM k ∧ t.irqSet pXSDEC 0 ∧ f ∈ (t.win k).stopped ∧ t.mem.store = s.mem.store) ∧
  (∀ (f : Nat) (s : State), s.inRun = false → Completes (.govFiguresFinal f) s fun t => Unchanged s t) ∧
  (∀ (f : Nat) (x : FrameFigures) (s : State), s.Ok → s.inRun = true → s.isFenced pGOV noUnit = false →
    s.gov.frames = [x] → x.frame = f → x.final = false → s.isClosed f = true →
    Completes (.govFiguresFinal f) s fun t =>
    (∀ y ∈ t.gov.frames, y.frame = f → y.final = true ∧ y.todo = [] ∧ ∀ i ∈ x.todo, i ∈ y.seen) ∧
    t.mem.store = s.mem.store) ∧
  (∀ (n : Nat) (gens : List Nat) (s : State), s.Ok → s.inRun = true → s.isFenced pGOV noUnit = false →
    s.storeCtl.unusable = false → s.gov.evaluating = some (n, gens) → s.isClosed n = true →
    Completes (.screeEvalDone n) s fun t =>
    (∃ x ∈ t.gov.scree, x.frame = n ∧ x.final = true) ∧ t.gov.evaluating = none ∧ t.mem.store = s.mem.store ∧
    t.fld R.GOV_STATUS_SCREE_BUSY = (if s.gov.survey = none then 0 else 1)) ∧
  (∀ (n : Nat) (s : State), s.isClosed n = true → s.gov.evaluating = none → Completes (.screeEvalDone n) s fun t =>
    Unchanged s t) ∧
  (∀ (n : Nat) (s : State), s.inRun = false → Completes (.screeEvalDone n) s fun t => Unchanged s t) ∧
  (∀ (b : Bank) (s : State), s.Ok → s.inRun = true → s.isFenced pGOV noUnit = false → s.gov.surveyBank = some b →
    s.gov.evaluating = none → s.storeCtl.unusable = false → Completes .govSurveyDone s fun t =>
    t.fld R.GOV_SURV_L_DONE = 1 ∧ t.fld R.GOV_STATUS_SCREE_BUSY = 0 ∧ t.shows R.GOV_SURV_GEN_GEN b.gen ∧
    t.irqSet pGOV 1 ∧ t.gov.survey = none ∧ t.gov.surveyBank = none ∧ t.mem.store = s.mem.store) ∧
  (∀ s : State, s.gov.surveyBank = none → Completes .govSurveyDone s fun t => Unchanged s t) ∧
  (∀ (m : Master) (s : State), s.Ok → m.holds rightLive = true → s.fld R.GOV_SNAP_CTRL_REQ = 0 →
    Completes (.govSnapRequest m) s fun t =>
    t.fld R.GOV_SNAP_CTRL_REQ = 1 ∧ t.fld R.GOV_SNAP_CTRL_DONE = 0 ∧ RegsOnly s t ∧
    Untouched [R.GOV_SNAP_CTRL_REQ, R.GOV_SNAP_CTRL_DONE, R.PG_LOCK_ARMED pGOV] s t)

/-- R139, R141, R149, R150, R154, R155, R330–R332: a core's access to the store through its windows: what it returns
or stores, the errors it meets, when it traps, and that it waits before INIT_DONE. R139, R154–R157, R159: the end of
initialization, of a repair, the patrol's next line, and a store that is unusable. Model's choices it rests on:
assumption log, entries 7, 8 and 22. -/
def Obligations.StoreAccess : Prop :=
  (∀ (h addr a : Nat) (d : List Byte) (e : Ecc) (s : State), s.pmpGrants h addr (.store d) = true →
    s.windowAddr addr = some a →
    CoreOp.aligned (.store d) addr = true → s.storeCtl.unusable = false → (storeRegion a = 2 ∨ storeRegion a = 3) →
    exec (.storeWindowAccess h addr (.store d) e) s = .fault (.unpredictable 141)) ∧
  (∀ (h addr a n : Nat) (e : Ecc) (s : State), s.Ok → s.pmpGrants h addr (.load n) = true →
    s.windowAddr addr = some a →
    CoreOp.aligned (.load n) addr = true → 0 < n → s.storeCtl.unusable = false → s.fld R.STORE_STATUS_INIT_DONE = 1 →
    s.firstBad a n = none → e ≠ .uncorrectable → Completes (.storeWindowAccess h addr (.load n) e) s fun t =>
    let weak := wordsIn (if e = .corrected ∧ a / 8 ∉ s.mem.storeWeak then s.mem.storeWeak ++
      [a / 8] else s.mem.storeWeak) a n
    t.out = [.memData (memRead s.mem.store a n)] ∧ t.mem = { s.mem with storeWeak := t.mem.storeWeak } ∧
    (∀ w ∈ t.mem.storeWeak, w ∈ s.mem.storeWeak ∧ w ∉ weak) ∧ t.reservations = s.reservations ∧
    Counted s t R.STORE_CNT_CE_N weak.length ∧ (e = .corrected → t.irqSet pSTORE 0)) ∧
  (∀ (h addr a : Nat) (d : List Byte) (s : State), s.Ok → s.pmpGrants h addr (.store d) = true →
    s.windowAddr addr = some a →
    s.windowBreach addr (.store d) = false → CoreOp.aligned (.store d) addr = true → s.storeCtl.unusable = false →
    s.fld R.STORE_STATUS_INIT_DONE = 1 → s.firstBad a d.length = none → wordsIn s.mem.storeWeak a d.length = [] →
    Completes (.storeWindowAccess h addr (.store d) .clean) s fun t =>
    memRead t.mem.store a d.length = d ∧ SameOutside s.mem.store t.mem.store a d.length ∧ t.out = [] ∧
    t.mem = { s.mem with store := t.mem.store, storeBad := t.mem.storeBad, storeWeak := t.mem.storeWeak } ∧
    (d ≠ [] → ∀ k ∈ List.range 8, t.codeStale k (storeCode a) d.length = true) ∧
    Untouched [R.ARB_GRANTS_N 2, R.ARB_GRANTS_N 3, R.ARB_LAT_MAX_NS 3] s t) ∧
  (∀ (h addr a n w : Nat) (s : State), s.Ok → s.pmpGrants h addr (.load n) = true → s.windowAddr addr = some a →
    CoreOp.aligned (.load n) addr = true → s.storeCtl.unusable = false → s.fld R.STORE_STATUS_INIT_DONE = 1 →
    s.firstBad a n = some w → wordsIn s.mem.storeBad a n = [w] → wordsIn s.mem.storeWeak a n = [] →
    s.storeCtl.stalled = [] → Completes (.storeWindowAccess h addr (.load n) .clean) s fun t =>
    t.out = [.coreFault excLoadAccess addr] ∧ t.mem = s.mem ∧ Counted s t R.STORE_CNT_UE_N 1 ∧
    t.fld R.STORE_UE_ADDR_LO_A_LO = w * 8 % 2 ^ 32 ∧ t.fld R.STORE_UE_INFO_MASTER = 0xFF ∧ t.irqSet pSTORE 1 ∧
    (∀ r ∈ t.reservations, r.1 ≠ h)) ∧
  (∀ (h addr : Nat) (op : CoreOp) (e : Ecc) (s : State), s.pmpGrants h addr op = true → op.isAtomic = true →
    Completes (.storeWindowAccess h addr op e) s fun t =>
    t = { s with out := [.coreFault excStoreAccess addr], reservations := s.reservations.filter fun r => r.1 ≠ h }) ∧
  (∀ (h addr : Nat) (op : CoreOp) (e : Ecc) (s : State), s.pmpGrants h addr op = true → op.isAtomic = false →
    op.aligned addr = false → s.windowBreach addr op = false → s.fetchStale h addr op = false →
    Completes (.storeWindowAccess h addr op e) s fun t =>
    t = { s with out := [.coreFault op.misalignedCause addr], reservations := s.reservations.filter fun r =>
      r.1 ≠ h }) ∧
  (∀ (h addr : Nat) (op : CoreOp) (e : Ecc) (s : State), s.pmpGrants h addr op = true → op.isAtomic = false →
    op ≠ .fenceI →
    op.aligned addr = true → s.fetchStale h addr op = false → s.windowAddr addr = none →
    Completes (.storeWindowAccess h addr op e) s fun t =>
    t = { s with out := [.coreFault op.accessCause addr], reservations := s.reservations.filter fun r => r.1 ≠ h }) ∧
  (∀ (h addr a : Nat) (op : CoreOp) (e : Ecc) (s : State), s.pmpGrants h addr op = true → op.isAtomic = false →
    op ≠ .fenceI → op.aligned addr = true → s.fetchStale h addr op = false → s.windowAddr addr = some a →
    s.windowBreach addr op = false → s.storeCtl.unusable = false → s.fld R.STORE_STATUS_INIT_DONE = 0 →
    Completes (.storeWindowAccess h addr op e) s fun t =>
    t = { s with out := [], storeCtl := { s.storeCtl with stalled := s.storeCtl.stalled ++
      [StalledAccess.mk h addr op] } }) ∧
  (∀ (h addr : Nat) (op : CoreOp) (e : Ecc) (s : State), s.pmpGrants h addr op = false → op ≠ .fenceI →
    Completes (.storeWindowAccess h addr op e) s fun t =>
    t = { s with out := [.coreFault op.accessCause addr], reservations := s.reservations.filter fun r => r.1 ≠ h }) ∧
  (∀ (bad : List Nat) (s : State), s.Ok → s.storeCtl.stalled = [] → s.storeCtl.waiting = [] →
    Completes (.storeInitDone bad) s fun t =>
    let n := (bad.map (· / 8192)).eraseDups.length
    if s.storeCtl.unusable = true ∨ s.fld R.STORE_STATUS_INIT_DONE = 1 ∨ pSTORE ∈ s.rst.down then Unchanged s t
    else if s.fld R.STORE_STATUS_SPARES_LEFT < n then
      t.storeCtl.unusable = true ∧ t.hasFence pSTORE noUnit = true ∧ t.fld R.STORE_STATUS_INIT_DONE = 0 ∧
      Counted s t R.STORE_CNT_UE_N bad.length
    else
      t.fld R.STORE_STATUS_INIT_DONE = 1 ∧ t.fld R.STORE_STATUS_SPARES_LEFT = s.fld R.STORE_STATUS_SPARES_LEFT - n ∧
      Counted s t R.STORE_CNT_REMAP_N n ∧ Counted s t R.STORE_CNT_UE_N bad.length ∧ t.irqSet pSTORE 3 ∧
      (bad ≠ [] → t.fld R.STORE_UE_INFO_REGION = 7) ∧
      t.mem = { s.mem with store := [], storeBad := [], storeWeak := [] } ∧
      t.storeCtl.remapped = s.storeCtl.remapped ++ (bad.map (· / 8192)).eraseDups ∧
      (bad = [] → Untouched [R.STORE_STATUS_INIT_DONE, R.STORE_STATUS_SPARES_LEFT, R.STORE_CNT_REMAP_N,
        R.STORE_STATUS_PATROL,
        R.PG_IRQ_RAW_BIT pSTORE 3] s t)) ∧
  (∀ (granule : Nat) (s : State), s.Ok → Completes (.storeRepairDone granule) s fun t =>
    if granule ∈ s.storeCtl.repairing then
      t.fld R.STORE_STATUS_SPARES_LEFT = s.fld R.STORE_STATUS_SPARES_LEFT - 1 ∧ Counted s t R.STORE_CNT_REMAP_N 1 ∧
      t.irqSet pSTORE 2 ∧ granule ∉ t.storeCtl.repairing ∧ t.storeCtl.remapped = s.storeCtl.remapped ++ [granule] ∧
      (∀ w ∈ s.mem.storeBad, w / 8192 = granule → w ∈ t.storeCtl.poisonCode) ∧
      t.mem = { s.mem with storeWeak := s.mem.storeWeak.filter fun w => w / 8192 ≠ granule } ∧
      Counted s t R.STORE_CNT_CE_N (s.mem.storeWeak.filter fun w => w / 8192 = granule).length ∧
      Untouched [R.STORE_STATUS_SPARES_LEFT, R.STORE_CNT_REMAP_N, R.PG_IRQ_RAW_BIT pSTORE 2, R.STORE_CNT_CE_N,
        R.STORE_CE_ADDR_LO_A_LO, R.STORE_CE_ADDR_HI_A_HI, R.PG_IRQ_RAW_BIT pSTORE 0] s t
    else Unchanged s t) ∧
  (∀ (e : Ecc) (word : Nat) (s : State), s.Ok → Completes (.patrolRead e word) s fun t =>
    let next := if (s.storeCtl.patrolLine + 1) * 64 < s.storeSize then s.storeCtl.patrolLine + 1 else 0
    let u := if s.storeSize ≤ word * 8 ∨ s.storeCtl.unusable = true then s else s.storeEcc (word * 8) e
    let weak := wordsIn u.mem.storeWeak (s.storeCtl.patrolLine * 64) 64
    if s.fld R.STORE_SCRUB_CFG_PERIOD_H = 0 ∨ s.fld R.STORE_STATUS_INIT_DONE = 0 ∨ s.storeCtl.unusable = true then
      t = { u with out := [] }
    else t.storeCtl.patrolLine = next ∧ t.shows R.STORE_SCRUB_POS_GRANULE (next / 1024) ∧
      Counted s t R.STORE_SCRUB_PASSES_N (if next = 0 then 1 else 0) ∧ Counted s t R.STORE_CNT_CE_N weak.length ∧
      Counted s t R.STORE_CNT_UE_N (wordsIn u.mem.storeBad (s.storeCtl.patrolLine * 64) 64).length ∧
      t.mem = { u.mem with storeWeak := u.mem.storeWeak.filter fun w => !weak.contains w } ∧
        t.mem.store = s.mem.store) ∧
  (∀ (c : StoreCause) (s : State), s.Ok → Completes (.storeUnusable c) s fun t =>
    t.storeCtl.unusable = true ∧ t.hasFence pSTORE noUnit = true ∧ t.pins.driving = [] ∧ t.pins.leadLow = false ∧
    t.fld R.BELAY_STATUS_LEAD = 0 ∧ t.storeCtl.stalled = [] ∧ t.storeCtl.waiting = [] ∧ t.mem = s.mem ∧
    t.pins.railEn = (if s.fld R.BELAY_PARTNER_VALID = 1 then [] else s.pins.railEn) ∧
    t.out = s.storeCtl.stalled.map fun q => .coreFault q.op.accessCause q.addr)

/-! ## Strands (08) -/

/-- R211, R221, R228: step 2 of a slot, in which a lead's port drives low and a second's runs its schedule released,
where the generation in force, or before P(n) the one that the COMMIT for n names, enables it; and step 9, which
releases it. R215–R220, R226: the packets a driving port sends: FRAME with its header and blocks, or cut short by a
poisoned word, COMMAND, once in a slot and on a second without sending it, IDLE, and PRESENT, once. Model's choices
it rests on: assumption log, entry 24. -/
def Obligations.StrandSlotsAndPackets : Prop :=
  (∀ (k n : Nat) (t0 : Timing) (s : State), s.Ok → k < 48 → s.timing = some t0 → s.slotEn k n = true →
    s.portReady k = true → (s.strand k).slot ≠ some n → Completes (.strandSlotDrive k n) s fun t =>
    (s.isLead = true → k ∈ t.pins.driving ∧ t.fld R.PRESENT_SLOT_DRIVING = 1 ∧
      t.fld R.PRESENT_SLOT_CASE = (if s.slotShows n = true then 1 else 2)) ∧
    (s.isLead = false → t.pins = s.pins ∧ Untouched [] s t) ∧
    t.strands = s.strands.set k
      { s.strand k with slot := some n, mine := s.isLead, idleOnly := !s.slotShows n, aborted := false, framed := false,
                        commanded := false, presented := false, cmd := none, window := false } ∧
    t.out = [] ∧ t.mem = s.mem ∧ t0.p n + 1000 ≤ t.ptp.ns + s.fld (R.PRESENT_SKEW_SKEW_NS k) ∧
    Untouched [R.PRESENT_SLOT_DRIVING, R.PRESENT_SLOT_CASE, R.PRESENT_CNT_IDLE_N, R.PG_IRQ_RAW_BIT pPRESENT 0] s t) ∧
  (∀ (k n : Nat) (t0 : Timing) (s : State), s.timing = some t0 → s.slotEn k n = false ∨ s.portReady k = false ∨
      (s.strand k).slot = some n → Completes (.strandSlotDrive k n) s fun t =>
    t.strands = s.strands ∧ t.pins = s.pins ∧ t.regs = s.regs) ∧
  (∀ (k n j : Nat) (b : List Byte) (s : State), k < 48 → s.isAhead n = true → s.caseSlot n = some j →
    some j ≠ s.commit.cur →
    (s.secRead (s.slot j).addr (pSTR (k / 12)) 1).bytes? = some b → Completes (.strandSlotDrive k n) s fun _ =>
    s.slotEn k n = bitSet (secFld b (R.STR_CFG_EN (k / 12))) (k % 12)) ∧
  (∀ (k n : Nat) (s : State), s.isAhead n = false → Completes (.strandSlotDrive k n) s fun _ =>
    s.slotEn k n = (s.commit.cur.isSome && s.bit (R.STR_CFG_EN (k / 12)) (k % 12))) ∧
  (∀ (k n : Nat) (s : State), s.timing = none → Completes (.strandSlotDrive k n) s fun t => Unchanged s t) ∧
  (∀ (k : Nat) (s : State), s.Ok → Completes (.strandSlotRelease k) s fun t =>
    k ∉ t.pins.driving ∧
      t.strands = s.strands.set k { s.strand k with slot := none, mine := false, cmd := none, window := false } ∧
    (∀ j ∈ s.pins.driving, j ≠ k → j ∈ t.pins.driving) ∧ t.mem = s.mem ∧ t.out = [] ∧
    Untouched [R.PRESENT_SLOT_DRIVING] s t) ∧
  (∀ (k n : Nat) (s : State), s.Ok → k < 48 → (s.strand k).slot = some n → s.maySend k = true →
    (s.strand k).idleOnly = false →
    (s.strand k).framed = false → s.payloadInvalid k n = false →
      s.storeRangeBad (s.shareAddr k) (2 * (s.shares k).length) = false →
    s.firstBad (s.payloadAddr k n) (2 * (s.shares k).sum) = none → Completes (.strandFrameSend k) s fun t =>
    let g := k / 12
    let hdr := [1] ++ beBytes 2 n ++ [BitVec.ofNat 8 (s.fld (R.STR_FRAMEHDR_SCAN g)),
      BitVec.ofNat 8 (s.fld (R.STR_FRAMEHDR_PRE_LEVEL g)), BitVec.ofNat 8 (s.fld (R.STR_FRAMEHDR_PRE_TIME g)), 0]
    t.out = [.strandPacket k ([0, 0, 0xB6, 0xC3, 1, 0] ++ hdr.drop 1 ++ beBytes 2 (crc16 (bytesBits hdr)) ++
      blocksOf (s.shares k) (swapPairs (s.storeRead (s.payloadAddr k n) (2 * (s.shares k).sum))) ++ [0, 0])] ∧
    t.strands = s.strands.set k { s.strand k with framed := true, frames := ((s.strand k).frames + 1) % 2 ^ 32 } ∧
    t.mem = { s.mem with storeWeak := t.mem.storeWeak } ∧ t.pins = s.pins) ∧
  (∀ (k n : Nat) (s : State), s.Ok → k < 48 → (s.strand k).slot = some n → s.maySend k = true →
    (s.strand k).idleOnly = false →
    (s.strand k).framed = false → s.payloadInvalid k n = false →
    (s.storeRangeBad (s.shareAddr k) (2 * (s.shares k).length) = true ∨
      (s.firstBad (s.payloadAddr k n) (2 * (s.shares k).sum)).isSome = true) →
        Completes (.strandFrameSend k) s fun t =>
    (t.strand k).aborted = true ∧ (t.strand k).aborts = ((s.strand k).aborts + 1) % 2 ^ 32 ∧ t.irqSet pPRESENT 1 ∧
    t.pins = s.pins ∧ t.mem.store = s.mem.store ∧
    (s.storeRangeBad (s.shareAddr k) (2 * (s.shares k).length) = true ∨
      (s.firstBad (s.payloadAddr k n) (2 * (s.shares k).sum)).any
        (fun w => (8 * w - s.payloadAddr k n) / 6 ≤ s.readBeforeFrame k) = true → t.out = [])) ∧
  (∀ (k n : Nat) (s : State), s.Ok → (s.strand k).slot = some n → s.maySend k = true → (s.strand k).idleOnly = false →
    (s.strand k).framed = false → s.payloadInvalid k n = true → Completes (.strandFrameSend k) s fun t =>
    t.out = [] ∧ t.strands = s.strands.set k { s.strand k with aborted := true, aborts := ((s.strand k).aborts +
      1) % 2 ^ 32 } ∧
    t.irqSet pPRESENT 1 ∧ t.pins = s.pins ∧ t.fences = s.fences ∧ Untouched [R.PG_IRQ_RAW_BIT pPRESENT 1] s t) ∧
  (∀ (k n : Nat) (c : StrandCmd) (s : State), s.Ok → (s.strand k).slot = some n → s.maySend k = true →
    (s.strand k).idleOnly = false →
    (s.strand k).framed = true → (s.strand k).commanded = false → (s.strand k).presented = false →
    s.slotCommand k n = some c → Completes (.strandCommandSend k) s fun t =>
    let opens : Bool := c.op = 2 || c.op = 3
    let body := [3] ++ beBytes 2 c.addr ++ [BitVec.ofNat 8 c.op, BitVec.ofNat 8 c.reg] ++ beBytes 4 c.data ++
      beBytes 2 (if c.op = 3 then 3 * c.addr + 152 else if c.op = 2 then 3 * c.addr + 96 else 0)
    t.out = [.strandPacket k ([0, 0, 0xB6, 0xC3, 3, 0] ++ body.drop 1 ++ beBytes 2 (crc16 (bytesBits body)))] ∧
    t.strands = s.strands.set k { s.strand k with cmd := some c, window := opens, commanded := true } ∧
    (opens = true → k ∉ t.pins.driving) ∧ (opens = false → t.pins = s.pins) ∧ t.mem = s.mem ∧
    Untouched [R.PRESENT_SLOT_DRIVING] s t) ∧
  (∀ (k n : Nat) (c : StrandCmd) (s : State), (s.strand k).slot = some n → (s.strand k).mine = false →
    (s.strand k).idleOnly = false → (s.strand k).aborted = false → (s.strand k).commanded = false →
    (s.strand k).presented = false → s.slotCommand k n = some c → Completes (.strandCommandSend k) s fun t =>
    t = { s with out := [], strands := s.strands.set k { s.strand k with
      cmd := some c, window := (c.op = 2 || c.op = 3), commanded := true } }) ∧
  (∀ (k : Nat) (s : State), (s.strand k).commanded = true ∨ (s.strand k).presented = true →
    Completes (.strandCommandSend k) s fun t => Unchanged s t) ∧
  (∀ (k n : Nat) (s : State), (s.strand k).slot = some n → s.maySend k = true → (s.strand k).idleOnly = false →
    (s.strand k).framed = true → s.fld (R.STR_RING_LEN (k / 12)) = 0 →
      s.fld (R.STR_CHAIN_DRIVERS (k / 12) (k % 12)) < 256 →
    Completes (.strandCommandSend k) s fun _ =>
    let d := s.fld (R.STR_CHAIN_DRIVERS (k / 12) (k % 12))
    s.slotCommand k n = some ⟨3, 0, n % (d + 1), 0, n % (d + 1) = d⟩) ∧
  (∀ (k : Nat) (s : State), Completes (.idleInsert k) s fun t =>
    if s.maySend k = true then
      t = { s with out := [.strandPacket k ([0, 0, 0xB6, 0xC3, 0, 0] ++ beBytes 2 (crc16 (bitsMsb 8 0)))] }
    else Unchanged s t) ∧
  (∀ (k n : Nat) (s : State), s.Ok → k < 48 → (s.strand k).slot = some n → s.maySend k = true →
    (s.strand k).idleOnly = false →
    (s.strand k).framed = true → (s.strand k).presented = false → Completes (.presentSend k) s fun t =>
    t.out = [.strandPacket k ([0, 0, 0xB6, 0xC3, 2, 0] ++ beBytes 2 n ++
      beBytes 2 (reversed 16 (s.fld (R.PRESENT_SKEW_LEAD k))) ++
      beBytes 2 (crc16 (bitsMsb 8 2 ++ bitsMsb 16 (n % 65536))))] ∧
    t.shows R.PRESENT_LAST_LO_N_LO n ∧ t.shows R.PRESENT_LAST_HI_N_HI (n / 2 ^ 32) ∧
    (s.presentedSlot = some n → t.fld R.PRESENT_CNT_PRESENTED_N = s.fld R.PRESENT_CNT_PRESENTED_N) ∧
    (s.presentedSlot ≠ some n → t.presentedSlot = some n ∧ Counted s t R.PRESENT_CNT_PRESENTED_N 1) ∧
    t.mem = s.mem ∧ t.pins = s.pins ∧ t.strands = s.strands.set k { s.strand k with presented := true }) ∧
  (∀ (k : Nat) (s : State), s.maySend k = false ∨ (s.strand k).presented = true →
    Completes (.presentSend k) s fun t => Unchanged s t)

/-- R231–R234: the first report of an open window, refused at its first failure or delivered; and the end of the
window, at which a missing report is refused with NONE and the port drives again. R186, R240, R241: the abort of a
slot whose data reads poisoned, the fence of a strand in contention and of a group whose supply leaves its range,
and the lane stopped by a residue mismatch, with the slots that it aborts. Model's choices it rests on: assumption
log, entry 24. -/
def Obligations.StrandReturnsAndFaults : Prop :=
  (∀ (k : Nat) (r : StrandReport) (e : Ecc) (s : State), (s.strand k).window = false ∨ (s.strand k).cmd = none →
    Completes (.returnReportReceive k r e) s fun t => Unchanged s t) ∧
  (∀ (k : Nat) (c : StrandCmd) (r : StrandReport) (e : Ecc) (s : State), s.Ok → k < 48 → (s.strand k).window = true →
    (s.strand k).cmd = some c → r.code c ≠ 0 → Completes (.returnReportReceive k r e) s fun t =>
    let code := r.code c
    t.strands = s.strands.set k { s.strand k with cmd := none, lastCode := code, lastPos := c.addr % 256,
                                                  retNone := (s.strand k).retNone % 2 ^ 32,
                                                  long := ((s.strand k).long + if code = 6 then 1 else 0) % 2 ^ 32,
                                                  retBad := ((s.strand k).retBad + if code = 6 then 0 else
                                                    1) % 2 ^ 32 } ∧
    t.irqSet (pSTR (k / 12)) (if code = 6 then 2 else 0) ∧ t.telem = s.telem ∧ t.rails = s.rails ∧ t.mem = s.mem ∧
    Untouched [R.PG_IRQ_RAW_BIT (pSTR (k / 12)) (if code = 6 then 2 else 0)] s t) ∧
  (∀ (k : Nat) (c : StrandCmd) (r : StrandReport) (e : Ecc) (s : State), (s.strand k).window = true →
    (s.strand k).cmd = some c →
    Completes (.returnReportReceive k r e) s fun _ =>
    let body := bytesBits ([BitVec.ofNat 8 r.pos, BitVec.ofNat 8 r.kind, BitVec.ofNat 8 r.reg] ++ r.data)
    (r.broken = true → r.code c = 2) ∧
    (r.broken = false → r.data.length = (if c.op = 3 then 11 else 4) →
      r.code c = if crc16 body ≠ r.rcrc then 3 else if r.pos ≠ c.addr then 4 else if r.kind ≠ c.op ∨
        r.reg ≠ c.reg then 5
        else if c.tail = true then 6 else 0)) ∧
  (∀ (k : Nat) (c : StrandCmd) (r : StrandReport) (e : Ecc) (s : State), s.Ok → k < 48 → (s.strand k).window = true →
    (s.strand k).cmd = some c → r.code c = 0 → r.kind = 3 → Completes (.returnReportReceive k r e) s fun t =>
    let status := (r.data.getD 0 0).toNat
    let x := s.strand k
    t.strands = s.strands.set k { x with cmd := none, retOk := (x.retOk + 1) % 2 ^ 32, lastStatus := status,
                                         drvErr := (x.drvErr + if status % 64 = 0 then 0 else 1) % 2 ^ 32 } ∧
    (status % 64 ≠ 0 → t.irqSet (pSTR (k / 12)) 3) ∧ t.mem = s.mem) ∧
  (∀ (k : Nat) (s : State), s.Ok → k < 48 → Completes (.returnWindowClose k) s fun t =>
    if (s.strand k).window = false then Unchanged s t
    else t.mem = s.mem ∧ t.telem = s.telem ∧
      (if (s.strand k).cmd = none then t.strands = s.strands.set k { s.strand k with window := false }
       else t.irqSet (pSTR (k / 12)) 0 ∧ ∀ c : StrandCmd, (s.strand k).cmd = some c → t.strands = s.strands.set k
         { s.strand k with cmd := none, window := false, lastCode := 1, lastPos := c.addr % 256,
                           retNone := ((s.strand k).retNone + 1) % 2 ^ 32, long := (s.strand k).long % 2 ^ 32,
                           retBad := (s.strand k).retBad % 2 ^ 32 }) ∧
      ((s.strand k).mine = true → s.portReady k = true → k ∈ t.pins.driving) ∧
      ((s.strand k).mine = false ∨ s.portReady k = false → t.pins = s.pins)) ∧
  (∀ (k a n : Nat) (s : State), s.Ok → k < 48 → (s.strand k).slot = some n → s.maySend k = true →
    (s.strand k).idleOnly = false →
    Completes (.strandAbort k a) s fun t =>
    let x := s.strand k
    t.strands = s.strands.set k { x with aborted := true, aborts := (x.aborts + 1) % 2 ^ 32,
                                         frames := if x.framed = true then (x.frames + (2 ^ 32 - 1)) % 2 ^ 32 else
                                           x.frames } ∧
    t.irqSet pPRESENT 1 ∧ t.pins = s.pins ∧ t.out = [] ∧ t.storeWordBad a = true ∧ t.mem.store = s.mem.store) ∧
  (∀ (k a : Nat) (s : State), s.maySend k = false → Completes (.strandAbort k a) s fun t => Unchanged s t) ∧
  (∀ (k : Nat) (s : State), s.Ok → k < 48 → Completes (.strandContention k) s fun t =>
    if k ∈ s.pins.driving then
      k ∉ t.pins.driving ∧ t.hasFence (pSTR (k / 12)) (k % 12) = true ∧
        t.bit (R.STR_STATUS_FENCED (k / 12)) (k % 12) = true ∧
      t.irqSet (pSTR (k / 12)) 1 ∧ t.fld (R.PG_FENCE_ACTIVE (pSTR (k / 12))) = 1 ∧ t.mem = s.mem ∧
      (s.fld (R.PG_FENCE_ACTIVE (pSTR (k / 12))) = 0 → s.fences = [] →
        t.fld (R.PG_FENCE_CAUSE (pSTR (k / 12))) = 0x0100 ∧
        t.fences = [⟨pSTR (k / 12), k % 12, 0x0100⟩]) ∧ (∀ j ∈ List.range 48, j ≠ k → t.strand j = s.strand j)
    else Unchanged s t) ∧
  (∀ (g k mv : Nat) (s : State), s.Ok → g < 4 → k < 12 → Completes (.vioFault g mv) s fun t =>
    t.pins.vioMv = s.pins.vioMv.set g mv ∧ t.mem = s.mem ∧
    (if mv < 1620 ∨ (2000 < mv ∧ mv < 2970) ∨ 3630 < mv then
      t.hasFence (pSTR g) k = true ∧ 12 * g + k ∉ t.pins.driving ∧ t.bit (R.STR_STATUS_FENCED g) k = true ∧
        t.irqSet (pSTR g) 1
     else t.fences = s.fences ∧ t.pins.driving = s.pins.driving ∧ t.regs = s.regs)) ∧
  (∀ (g : Nat) (b : Burst) (s : State), s.Ok → g < 4 → s.commit.burst = some b → g ∉ b.stopped →
    Completes (.laneResidueMismatch g) s fun t =>
    (if b.stopped.eraseDups.length < 3 then
       t.commit.burst = some { b with stopped := b.stopped ++ [g], residue := b.residue ++ [g] }
     else t.commit.burst = none ∧ t.fld R.PIPE_STATUS_BURST = 0 ∧ Counted s t R.PIPE_CNT_FRAMES_N 1) ∧
    t.bit R.PIPE_STATUS_LANE_FENCED g = true ∧
    Counted s t R.PIPE_CNT_RESIDUE_N 1 ∧ t.irqSet pPIPE 1 ∧ t.hasFence pPIPE g = true ∧ t.mem = s.mem ∧
    (∀ p ∈ t.commit.payload, p.1 = b.frame → g ∈ p.2) ∧
    (∀ j ∈ List.range 12, (s.strand (12 * g + j)).slot = some b.frame → (s.strand (12 * g + j)).mine = true →
      (s.strand (12 * g + j)).framed = true → 12 * g + j < s.strands.length →
        (t.strand (12 * g + j)).aborted = true)) ∧
  (∀ (g : Nat) (s : State), s.commit.burst = none ∨ 4 ≤ g ∨ (s.commit.burst.any fun b =>
    b.stopped.contains g) = true →
    Completes (.laneResidueMismatch g) s fun t => Unchanged s t)

/-! ## Rails and telemetry (09) -/

/-- R262, R265–R268: the swap of the banks, the reads of TELEM_POP with the stall of a core and the marker of any
other master, an uncorrectable item, the release and the flush. Model's choices it rests on: assumption log, entry
25. -/
def Obligations.TelemetryQueue : Prop :=
  (∀ s : State, s.Ok → Completes .telemBankSwap s fun t =>
    if s.telem.drain = [] ∧ s.telem.fill ≠ [] then
      Counted s t R.TELEM_CNT_SWAP_N 1 ∧ t.irqSet pTELEM 0 ∧ t.telem.fill = [] ∧ t.telem.stalled = none ∧
        t.mem = s.mem ∧
      (s.telem.stalled = none → t.telem.drain = s.telem.fill ∧ t.out = []) ∧
      (s.telem.stalled ≠ none → t.out = [.readData ((s.telem.fill.getD 0 []).getD 0 0)]) ∧
      Untouched [R.TELEM_CNT_SWAP_N, R.TELEM_STATUS_FILL_WORDS, R.TELEM_STATUS_DRAIN_WORDS, R.TELEM_STATUS_STALLED,
        R.PG_IRQ_RAW_BIT pTELEM 0] s t
    else Unchanged s t) ∧
  (∀ (m : Master) (h : Nat) (e : Ecc) (s : State), m.holds rightRead = true → s.telem.stalled = some h →
    exec (.telemPop m e) s = .fault (.unpredictable 266)) ∧
  (∀ (m : Master) (item : List Word) (rest : List (List Word)) (e : Ecc) (s : State), s.Ok →
    m.holds rightRead = true →
    s.telem.stalled = none → s.telem.drain = item :: rest → e ≠ .uncorrectable → Completes (.telemPop m e) s fun t =>
    t.out = [.readData (item.getD s.telem.popped 0)] ∧ t.telem.fill = s.telem.fill ∧ t.mem = s.mem ∧
    (if s.telem.popped + 1 < item.length then t.telem.drain = item :: rest ∧ t.telem.popped = s.telem.popped + 1
     else t.telem.drain = rest ∧ t.telem.popped = 0) ∧
    Untouched [R.TELEM_STATUS_FILL_WORDS, R.TELEM_STATUS_DRAIN_WORDS, R.TELEM_STATUS_STALLED] s t) ∧
  (∀ (m : Master) (item : List Word) (rest : List (List Word)) (s : State), s.Ok → m.holds rightRead = true →
    s.telem.stalled = none → s.telem.drain = item :: rest → s.telem.popped = 0 → rest ≠ [] →
    Completes (.telemPop m .uncorrectable) s fun t =>
    t.out = [.readData ((rest.getD 0 []).getD 0 0)] ∧ Counted s t R.TELEM_CNT_UE_N 1 ∧ t.irqSet pTELEM 3) ∧
  (∀ (h : Nat) (mmode : Bool) (e : Ecc) (s : State), s.Ok → s.telem.stalled = none → s.telem.drain = [] →
    Completes (.telemPop (.hart h mmode) e) s fun t =>
    t.telem.stalled = some h ∧ t.fld R.TELEM_STATUS_STALLED = 1 ∧ t.out = [.stalled h] ∧ t.mem = s.mem) ∧
  (∀ (m : Master) (n : Nat) (e : Ecc) (s : State), m ∈ [Master.lcp n, .hspi n, .block] → m.holds rightRead = true →
    s.telem.stalled = none → s.telem.drain = [] → Completes (.telemPop m e) s fun t =>
    t = { s with out := [.readData telemMarker] }) ∧
  (∀ (m : Master) (s : State), s.Ok → m.holds rightLive = true → Completes (.telemRelease m) s fun t =>
    if s.telem.stalled = none then t.out = [] ∧ t.telem = s.telem ∧ Untouched [R.PG_LOCK_ARMED pTELEM] s t
    else t.out = [.readData telemMarker] ∧ t.telem = { s.telem with stalled := none } ∧
      t.fld R.TELEM_STATUS_STALLED = 0) ∧
  (∀ (m : Master) (s : State), s.Ok → m.holds rightLive = true → Completes (.telemFlushRequest m) s fun t =>
    t.fld R.TELEM_CTRL_FLUSH = 1 ∧ t.fld R.TELEM_STATUS_FLUSHING = 1 ∧ RegsOnly s t ∧
    Untouched [R.TELEM_CTRL_FLUSH, R.TELEM_STATUS_FLUSHING, R.PG_LOCK_ARMED pTELEM] s t) ∧
  (∀ s : State, s.Ok → Completes .telemFlushDone s fun t =>
    if s.fld R.TELEM_CTRL_FLUSH = 1 ∧ s.telem.popped = 0 then
      t.telem.fill = [] ∧ t.telem.drain = [] ∧ t.telem.stalled = s.telem.stalled ∧ t.fld R.TELEM_CTRL_FLUSH = 0 ∧
      t.fld R.TELEM_STATUS_FLUSHING = 0 ∧ t.fld R.TELEM_STATUS_FILL_WORDS = 0 ∧ t.fld R.TELEM_STATUS_DRAIN_WORDS = 0 ∧
      Counted s t R.TELEM_FLUSHDROP_N (s.telem.fill.length + s.telem.drain.length) ∧ t.irqSet pTELEM 2 ∧ t.mem = s.mem
    else Unchanged s t)

/-- R246, R247, R258: a rail's start — enable after the VOUT_MODE read, then the start code as target, each step
only in its turn, and a fenced rail to its safe code —, the ramp of every millisecond, and the end of a stop's hold.
R246, R255–R257, R264: the PMBus writes and polls, the alert, and the bus given to firmware. A transaction that is
refused is counted, and the third in a row fences the rail. Model's choices it rests on: assumption log, entry 25. -/
def Obligations.RailStartAndPmbus : Prop :=
  (∀ (r : Nat) (v : Option Nat) (ok : Bool) (s : State), (s.rail r).stage ≠ 1 ∨ s.railsHeld = true ∨
    s.railStuck r = true ∨
      (s.ownsRail r = true ∧ s.railBus r = true ∧ s.pmbRuns r = false) →
        Completes (.railStartEnable r v ok) s fun t => Unchanged s t) ∧
  (∀ (r : Nat) (v : Option Nat) (ok : Bool) (s : State), s.Ok → r < 12 → (s.rail r).stage = 1 → s.railsHeld = false →
    s.railStuck r = false → s.ownsRail r = false ∨ s.railBus r = false →
      Completes (.railStartEnable r v ok) s fun t =>
    (t.rail r).stage = 2 ∧ (s.isLead = true → r ∈ t.pins.railEn) ∧ (s.isLead = false → t.pins = s.pins) ∧
      t.mem = s.mem ∧
    Untouched [R.RAIL_STATE_CAUSE r, R.RAIL_STATE_STATE r, R.RAIL_STATUS_FENCED] s t) ∧
  (∀ (r v : Nat) (ok : Bool) (s : State), s.Ok → r < 12 → (s.rail r).stage = 1 → s.railsHeld = false →
    s.railStuck r = false → s.pmbRuns r = true → Completes (.railStartEnable r (some v) ok) s fun t =>
    (bits v 7 5 ≠ 0 → t.hasFence pRAIL r = true ∧ (s.railFenced r = false → t.irqSet pRAIL 1) ∧ (t.rail r).stage = 1 ∧
      t.pins = s.pins) ∧
    (bits v 7 5 = 0 → ok = true → (t.rail r).stage = 2 ∧ r ∈ t.pins.railEn ∧
      t.out = [.pmbusVout r (s.fld (R.RAIL_OUT_OUTPUT r))] ∧ (t.rail r).written = some (s.fld (R.RAIL_OUT_OUTPUT r)) ∧
      t.fences = s.fences) ∧
    (bits v 7 5 = 0 → ok = false → Counted s t R.RAIL_CNT_PMB_ERR_N 1 ∧ t.out = [] ∧
      (t.rail r).refused = 1 ∧ (t.rail r).stage = 2 ∧ r ∈ t.pins.railEn ∧ t.fences = s.fences)) ∧
  (∀ (r : Nat) (ok : Bool) (s : State), s.Ok → r < 12 → (s.rail r).stage = 1 → s.railsHeld = false →
    s.railStuck r = false → s.pmbRuns r = true → Completes (.railStartEnable r none ok) s fun t =>
    Counted s t R.RAIL_CNT_PMB_ERR_N 1 ∧ t.out = [] ∧ (t.rail r).stage = 1 ∧ t.pins = s.pins ∧
    ((s.rail r).refused < 2 → (t.rail r).refused = (s.rail r).refused + 1 ∧ t.fences = s.fences) ∧
    (2 ≤ (s.rail r).refused → t.hasFence pRAIL r = true)) ∧
  (∀ (r : Nat) (s : State), s.Ok → r < 12 → Completes (.railStartTarget r) s fun t =>
    let code := if s.railFenced r then s.fld (R.RAIL_CODES_SAFE_CODE r) else s.fld (R.RAIL_START_START_CODE r)
    if (s.rail r).stage ≠ 2 ∨ s.railStuck r = true then Unchanged s t
    else t.shows (R.RAIL_OUT_TARGET r) code ∧ t.mem = s.mem ∧
      (t.rail r).stage = (if s.fld (R.RAIL_OUT_OUTPUT r) = code ∧ s.railFenced r = false then 4 else 3) ∧
      Untouched [R.RAIL_OUT_TARGET r, R.RAIL_STATE_CAUSE r, R.RAIL_STATE_STATE r, R.RAIL_STATUS_FENCED] s t) ∧
  (∀ (r : Nat) (s : State), s.Ok → r < 12 → Completes .railRampTick s fun t =>
    if s.gridRuns = true ∧ s.inBivouac = false then
      (if (s.rail r).stage ≠ 0 ∧ (s.rail r).holding = false ∧ (s.rail r).enableLow = false ∧
        (s.rail r).stopping = none then
        let target := if s.storeCtl.unusable then s.fld (R.RAIL_CODES_SAFE_CODE r) else s.fld (R.RAIL_OUT_TARGET r)
        t.shows (R.RAIL_OUT_OUTPUT r) (toward (s.fld (R.RAIL_OUT_OUTPUT r)) target (s.fld (R.RAIL_RAMP_RAMP r))) ∧
        t.shows (R.RAIL_OUT_TARGET r) target
      else t.fld (R.RAIL_OUT_OUTPUT r) = s.fld (R.RAIL_OUT_OUTPUT r) ∧
        t.fld (R.RAIL_OUT_TARGET r) = s.fld (R.RAIL_OUT_TARGET r)) ∧
      t.mem = s.mem ∧ t.pins = s.pins
    else Unchanged s t) ∧
  (∀ (r : Nat) (again restart : Bool) (s : State), s.Ok → r < 12 → (s.rail r).stopping = some again →
    Completes (.railStopHoldEnd r restart) s fun t =>
    (restart = false → r ∉ t.pins.railTrim ∧ (t.rail r).stage = 0 ∧
      (t.rail r).stopping = if again then some true else none) ∧
    (restart = true → again = false → Unchanged s t) ∧
    (restart = true → again = true → s.railMode r ≠ 0 → s.railsHeld = false →
      (∀ f ∈ s.fences, f.page = pRAIL → f.unit = r → f.cause = causePmbMode) → (t.rail r).stage = 1 ∧
      t.hasFence pRAIL r = false ∧ t.shows (R.RAIL_OUT_TARGET r) (s.fld (R.RAIL_WIN_LOW_CODE r)) ∧
        r ∉ t.pins.railEn)) ∧
  (∀ (r : Nat) (restart : Bool) (s : State), (s.rail r).stopping = none →
    Completes (.railStopHoldEnd r restart) s fun t =>
    Unchanged s t) ∧
  (∀ (r : Nat) (ok : Bool) (s : State), s.Ok → r < 12 → Completes (.pmbusVoutWrite r ok) s fun t =>
    let out := s.fld (R.RAIL_OUT_OUTPUT r)
    let code := toward ((s.rail r).written.getD out) out (10 * s.fld (R.RAIL_RAMP_RAMP r))
    if s.pmbRuns r = false ∨ (s.rail r).stage < 2 ∨ (s.rail r).stopping ≠ none ∨
        (s.railFenced r = true ∧ (s.railCause r = causePmbNoack ∨ s.railCause r = causePmbMode)) ∨
        (s.rail r).written = some out then Unchanged s t
    else if ok then
      t.out = [.pmbusVout r code] ∧ (t.rail r).written = some code ∧ (t.rail r).refused = 0 ∧ t.mem = s.mem ∧
        Untouched [] s t
    else Counted s t R.RAIL_CNT_PMB_ERR_N 1 ∧ t.out = [] ∧ t.mem = s.mem ∧
      ((s.rail r).refused < 2 → (t.rail r).refused = (s.rail r).refused + 1 ∧ Untouched [R.RAIL_CNT_PMB_ERR_N] s t) ∧
      (2 ≤ (s.rail r).refused → t.hasFence pRAIL r = true)) ∧
  (∀ (r w v : Nat) (s : State), s.Ok → r < 12 → s.pmbRuns r = true →
    Completes (.pmbusStatusPoll r (some w) (some v) .clean) s fun t =>
    t.shows (R.RAIL_VOUT_STATUS_WORD r) w ∧ t.shows (R.RAIL_VOUT_READ_VOUT r) v ∧ t.mem = s.mem ∧
    (r ∈ s.pins.railEn → (bitSet w 5 = true ∨ bitSet w 4 = true ∨ bitSet w 2 = true) → t.hasFence pRAIL r = true)) ∧
  (∀ (r : Nat) (status vout : Option Nat) (e : Ecc) (s : State), s.pmbRuns r = false →
    Completes (.pmbusStatusPoll r status vout e) s fun t => Unchanged s t) ∧
  (∀ (r w : Nat) (e : Ecc) (s : State), s.Ok → r < 12 → Completes (.pmbAlert ⟨[(r, some w)], e⟩) s fun t =>
    t.pins.pmbAlert = true ∧ t.irqSet pRAIL 3 ∧ t.mem = s.mem ∧
    (if s.pmbRuns r = true then t.shows (R.RAIL_VOUT_STATUS_WORD r) w ∧
      (r ∈ s.pins.railEn → (bitSet w 5 = true ∨ bitSet w 4 = true ∨ bitSet w 2 = true) → t.hasFence pRAIL r = true)
     else Untouched [R.PG_IRQ_RAW_BIT pRAIL 3] s t)) ∧
  (∀ (m : Master) (v : Bool) (s : State), s.Ok → m.holds rightConfig = true → Completes (.pmbusFwBus m v) s fun t =>
    t.fld R.RAIL_CFG_FW_BUS = b2n v ∧ RegsOnly s t ∧ Untouched [R.RAIL_CFG_FW_BUS, R.PG_LOCK_ARMED pRAIL] s t)

/-- R249–R251, R254, R259, R260: the end of a loop period, a trim whose readback differs, the end of a fenced rail's
hold, and the old lead's enables after a handover. Model's choices it rests on: assumption log, entry 25. -/
def Obligations.RailLoopAndFaults : Prop :=
  (∀ (r : Nat) (e : Ecc) (s : State), s.Ok → r < 12 → Completes (.railLoopPeriod r e) s fun t =>
    if s.gridRuns = true ∧ s.inBivouac = false ∧ s.railMode r = 2 ∧ (s.rail r).stage = 4 ∧ s.railFenced r = false ∧
        s.storeCtl.unusable = false then
      t.shows (R.RAIL_HMIN_REPORTS r) (s.rail r).reports ∧ t.shows (R.RAIL_HMIN_HMIN r) (s.rail r).hmin ∧
      (t.rail r).hmin = 0xFFFF ∧ (t.rail r).reports = 0 ∧ t.mem = s.mem ∧
      ((s.rail r).reports ≠ 0 → t.shows (R.RAIL_OUT_TARGET r) (s.loopTarget r (s.rail r).hmin).1 ∧
        (t.rail r).stale = 0) ∧
      ((s.rail r).reports = 0 → s.fld (R.RAIL_CTRL_STALE r) ≠ 0 →
        s.fld (R.RAIL_CTRL_STALE r) ≤ min 255 ((s.rail r).stale + 1) →
        t.shows (R.RAIL_OUT_TARGET r) (s.fld (R.RAIL_CODES_NODATA_CODE r)) ∧ t.bit R.RAIL_STATUS_NODATA r = true)
    else Unchanged s t) ∧
  (∀ (r : Nat) (s : State), s.Ok → r < 12 → Completes (.trimFault r) s fun t =>
    if r ∈ s.pins.railTrim ∧ s.railBus r = false then t.hasFence pRAIL r = true ∧ t.pins = s.pins ∧ t.mem = s.mem ∧
      (s.railFenced r = false → t.irqSet pRAIL 1 ∧ t.railCause r = causeTrimFault)
    else Unchanged s t) ∧
  (∀ (r : Nat) (s : State), s.Ok → r < 12 → Completes (.railHoldExpiry r) s fun t =>
    if s.railFenced r = false ∨ (s.rail r).holding = false then Unchanged s t
    else (t.rail r).holding = false ∧ t.fences = s.fences ∧ t.mem = s.mem ∧
      (if s.railCause r = causePmbNoack ∨ s.railCause r = causePmbMode then
        r ∉ t.pins.railEn ∧ t.fld (R.RAIL_STATE_STATE r) = 6 ∧
          t.fld (R.RAIL_OUT_TARGET r) = s.fld (R.RAIL_OUT_TARGET r)
       else t.pins = s.pins ∧ t.shows (R.RAIL_OUT_TARGET r) (s.fld (R.RAIL_CODES_SAFE_CODE r)) ∧
        (t.rail r).safe = true)) ∧
  (∀ s : State, Completes .handoverEnableDrop s fun t =>
    if s.railOverlap = false then Unchanged s t
    else if s.isLead = true then t = { s with out := [], railOverlap := false }
    else t = { s with out := [], railOverlap := false, pins := { s.pins with railEn := [], railTrim := [] } })

/-- R257: while RAIL_ENr is high, a STATUS_WORD with bit 5, 4 or 2 set fences the rail with cause PMB_FAULT. -/
def Obligations.PmbusFaultFence : Prop :=
  (∀ (r w : Nat) (vout : Option Nat) (e : Ecc) (s : State), s.Ok → r < 12 → s.pmbRuns r = true → r ∈ s.pins.railEn →
    bitSet w 5 = true ∨ bitSet w 4 = true ∨ bitSet w 2 = true →
      Completes (.pmbusStatusPoll r (some w) vout e) s fun t =>
    t.hasFence pRAIL r = true ∧ (s.railFenced r = false → t.railCause r = 0x0101)) ∧
  (∀ (r w : Nat) (e : Ecc) (s : State), s.Ok → r < 12 → s.pmbRuns r = true → r ∈ s.pins.railEn →
    bitSet w 5 = true ∨ bitSet w 4 = true ∨ bitSet w 2 = true → Completes (.pmbAlert ⟨[(r, some w)], e⟩) s fun t =>
    t.hasFence pRAIL r = true ∧ (s.railFenced r = false → t.railCause r = 0x0101))

/-! ## Metering (10) -/

/-- R272, R274, R275, R277: a window closes with its quantities — VRMS of a valid phase is the root of the mean
square of its corrected samples times full scale — and the samples of either converter are counted into it, clipped
codes apart; the sample after a full window closes it. A meter that does not run takes nothing. R280–R283, R285,
R289, R291: a save's record is in its slot or the save failed; a statement is captured and then shown; an armed
write clears the disputes; a channel fault fences its channel, and nothing else of the meter stops. Model's choices
it rests on: assumption log, entry 26. -/
def Obligations.MeterWindowsAndSaves : Prop :=
  (∀ (p : Nat) (s : State), s.Ok → p < 3 → s.meter.running = true → s.storeCtl.unusable = false → 3200 ≤ s.meter.acN →
    s.meter.since < s.fld R.METER_ACC_CFG_SAVE_PERIOD * 16000 → Completes .meterWindowClose s fun t =>
    t.meter.acN = 0 ∧ t.meter.dcN = 0 ∧ t.meter.acClip = [] ∧ Counted s t R.METER_AC_CNT_WIN_N 1 ∧
      t.irqSet pMETERAC 0 ∧
    t.mem = s.mem ∧ t.meter.save = s.meter.save ∧
    (s.phaseValid p = true → t.shows (R.METER_AC_VRMS_MV p)
      (isqrt ((s.meter.acSums.getD p {}).svv / s.meter.acN) * s.fld (R.METER_AC_VFS_VFS_MV p) / 2 ^ 23))) ∧
  (∀ s : State, s.meter.running = false ∨ s.storeCtl.unusable = false ∧ s.meter.acN < 3200 →
    Completes .meterWindowClose s fun t => Unchanged s t) ∧
  (∀ s : State, Completes .meterPfRepeatEnd s fun t =>
    t = { s with out := [], meter := { s.meter with pfRepeat := false } }) ∧
  (∀ (codes : List Int) (s : State), s.Ok → Completes (.meterAcSample codes) s fun t =>
    let clips := (List.range 7).filter fun k => (codes.getD k 0 = -8388608 || codes.getD k 0 = 8388607)
    if s.meter.running = false then Unchanged s t
    else if s.storeCtl.unusable = true then t.meter.running = false
    else if s.inBlockReset pMETERAC = true then Unchanged s t
    else
      (∀ k ∈ clips, k ∈ t.meter.acClip) ∧ Counted s t R.METER_AC_CNT_CLIP_N clips.length ∧
      (clips ≠ [] → t.irqSet pMETERAC 2) ∧ t.mem = { s.mem with mram := t.mem.mram, mramBad := t.mem.mramBad } ∧
      (s.windowFull = true → t.meter.acN = 1 ∧ Counted s t R.METER_AC_CNT_WIN_N 1) ∧
      (s.windowFull = false → t.meter.acN = s.meter.acN + 1 ∧ t.meter.since = s.meter.since + 1 ∧
        t.meter.acc = s.meter.acc ∧ Untouched [R.METER_AC_CNT_CLIP_N, R.PG_IRQ_RAW_BIT pMETERAC 2] s t)) ∧
  (∀ (shunts : List Int) (rails : List Nat) (s : State), s.Ok → Completes (.meterDcSample shunts rails) s fun t =>
    let clips := (List.range 12).filter fun k => (shunts.getD k 0 = -131072 || shunts.getD k 0 = 131071)
    if s.meter.running = false then Unchanged s t
    else if s.storeCtl.unusable = true then t.meter.running = false
    else if s.inBlockReset pMETERDC = true then Unchanged s t
    else
      (∀ k ∈ clips, k ∈ t.meter.dcClip) ∧ Counted s t R.METER_DC_CNT_CLIP_N clips.length ∧
      (clips ≠ [] → t.irqSet pMETERDC 2) ∧ t.mem = { s.mem with mram := t.mem.mram, mramBad := t.mem.mramBad } ∧
      (s.windowFull = true → 800 ≤ s.meter.dcN → t.meter.dcN = 1 ∧ Counted s t R.METER_DC_CNT_WIN_N 1) ∧
      (s.windowFull = false ∨ s.meter.dcN < 800 → t.meter.dcN = s.meter.dcN + 1 ∧ t.meter.acc = s.meter.acc)) ∧
  (∀ (run : SaveRun) (s : State), s.Ok → s.meter.save = some run → s.meter.pfRepeat = false → s.meter.waiting = [] →
    s.rst.waiting = none → Completes (.meterSaveDone true) s fun t =>
    t.meter.save = none ∧ t.meter.newest = some run.slot ∧ t.shows R.METER_ACC_SAVE_SEQ_SEQ run.seq ∧
    t.fld R.METER_ACC_STATUS_SAVING = 0 ∧ Counted s t R.METER_ACC_CNT_SAVE_N 1 ∧ t.irqSet pMETERACC 0 ∧
    t.mem = { s.mem with mram := t.mem.mram, mramBad := t.mem.mramBad }) ∧
  (∀ (run : SaveRun) (s : State), s.Ok → s.meter.save = some run → s.meter.pfRepeat = false → s.meter.waiting = [] →
    s.rst.waiting = none → Completes (.meterSaveDone false) s fun t =>
    t.meter.save = none ∧ t.meter.newest = s.meter.newest ∧ t.fld R.METER_ACC_STATUS_SAVE_FAIL = 1 ∧
    Counted s t R.METER_ACC_CNT_SAVE_FAIL_N 1 ∧ t.irqSet pMETERACC 1 ∧ t.mem = s.mem) ∧
  (∀ (ok : Bool) (s : State), s.meter.save = none → Completes (.meterSaveDone ok) s fun t => Unchanged s t) ∧
  (∀ (m : Master) (s : State), s.Ok → m.holds rightLive = true → s.fld R.METER_ACC_STMT_CTRL_REQ = 0 →
    Completes (.meterStmtRequest m) s fun t =>
    t.fld R.METER_ACC_STMT_CTRL_REQ = 1 ∧ t.fld R.METER_ACC_STMT_CTRL_DONE = 0 ∧ t.meter.acN = 0 ∧ t.meter.dcN = 0 ∧
    t.meter.stmt ≠ none ∧ t.mem = { s.mem with mram := t.mem.mram, mramBad := t.mem.mramBad }) ∧
  (∀ (m : Master) (s : State), s.Ok → m.holds rightLive = true → s.fld R.METER_ACC_STMT_CTRL_REQ = 1 →
    Completes (.meterStmtRequest m) s fun t =>
    t.meter = s.meter ∧ RegsOnly s t ∧ Untouched [R.PG_LOCK_ARMED pMETERACC] s t) ∧
  (∀ (b : List Byte) (s : State), s.Ok → s.meter.stmt = some b → b.length = 512 → Completes .meterStmtReady s fun t =>
    t.fld R.METER_ACC_STMT_CTRL_REQ = 0 ∧ t.fld R.METER_ACC_STMT_CTRL_DONE = 1 ∧ t.irqSet pMETERACC 2 ∧
    Counted s t R.METER_ACC_STMT_SEQ_SEQ 1 ∧ t.meter = { s.meter with stmt := none } ∧ t.mem = s.mem ∧
    t.pageBytes pMETERACC 0x400 128 = b) ∧
  (∀ s : State, s.meter.stmt = none → Completes .meterStmtReady s fun t => Unchanged s t) ∧
  (∀ (m : Master) (v : Word) (s : State), s.Ok → m.holds rightSecure = true → s.isArmed pMETERACC = true →
    v.toNat % 2 = 1 → Completes (.meterDispClear m v) s fun t =>
    t.meter.disp = List.replicate 35 0 ∧ t.meter.acc = s.meter.acc ∧ t.fld R.METER_ACC_STATUS_UNSAVED = 0 ∧
    t.fld R.METER_ACC_STATUS_INVALID = 0 ∧ t.fld R.METER_ACC_STATUS_TAIL = 0 ∧ t.isArmed pMETERACC = false ∧
    t.mem = s.mem) ∧
  (∀ (m : Master) (v : Word) (s : State), s.Ok → m.holds rightSecure = true → s.isArmed pMETERACC = false ∨
    v.toNat % 2 = 0 →
    Completes (.meterDispClear m v) s fun t =>
    RegsOnly s t ∧ Untouched [R.PG_LOCK_ARMED pMETERACC] s t) ∧
  (∀ (ch : Nat) (s : State), s.Ok → ch < 7 → Completes (.meterChannelFault pMETERAC (.modulator ch)) s fun t =>
    t.hasFence pMETERAC ch = true ∧ t.irqSet pMETERAC 1 ∧ t.bit R.METER_AC_STATUS_FENCED ch = true ∧
    ch ∈ t.meter.acBad ∧ t.meter.acc = s.meter.acc ∧ t.mem = s.mem) ∧
  (∀ (k : Nat) (s : State), s.Ok → k < 12 → Completes (.meterChannelFault pMETERDC (.ecc k)) s fun t =>
    t.hasFence pMETERDC k = true ∧ t.irqSet pMETERDC 1 ∧ t.bit R.METER_DC_STATUS_FENCED k = true ∧
    k ∈ t.meter.dcBad ∧ t.meter.acc = s.meter.acc ∧ t.mem = s.mem) ∧
  (∀ (k : Nat) (s : State), s.Ok → k < 12 → Completes (.meterChannelFault pMETERDC .reference) s fun t =>
    t.hasFence pMETERDC k = true ∧ t.bit R.METER_DC_STATUS_FENCED k = true ∧ t.mem = s.mem)

/-! ## Party and belay (11) -/

/-- R84, R85, R296: what a party datagram does before its own effect: not a party message while no slot supplies a
party; refused with the first code of R85 that applies; dropped as a copy. The four rows of the table share it. R92,
R94, R96, R101, R439: what each party message that passes the checks of R85 does: a HAVE late after its quorum's
close is counted and not held; a COMMIT is late, held, or refused with GEN_UNKNOWN; a GEN_ANNOUNCE is refused with
its digest or kept and passed to firmware; an ACTIVATE arms or disarms the activation latch. Model's choices it
rests on: assumption log, entry 27. -/
def Obligations.PartyMessages : Prop :=
  ∀ (c : Instr) (port : Port) (m : List Byte) (s : State), s.Ok →
    c ∈ [Instr.haveReceive port m, .commitReceive port m, .genAnnounceReceive port m, .activateReceive port m] →
    Completes c s fun t =>
      let code := if s.frontCode m ≠ 0 then s.frontCode m else s.bodyCode m
      if s.partySlot = none ∨ s.portReceives port = false ∨ s.partyFenced = true then Unchanged s t
      else if s.frontCode m = 0 ∧ s.isSeen m = true then Unchanged s t
      else if code ≠ 0 then
        Counted s t R.PARTY_CNT_BAD_N 1 ∧ t.shows R.PARTY_BAD_LAST_CODE code ∧
        t.shows R.PARTY_BAD_LAST_TYPE (msgType m) ∧ t.shows R.PARTY_BAD_LAST_SENDER (msgSender m) ∧
          t.irqSet pPARTY 3 ∧
        t.out = [] ∧ RegsOnly s t ∧
        Untouched [R.PARTY_CNT_BAD_N, R.PARTY_BAD_LAST_CODE, R.PARTY_BAD_LAST_TYPE, R.PARTY_BAD_LAST_SENDER,
          R.PG_IRQ_RAW_BIT pPARTY 3] s t
      else True ∧
  (∀ (port : Port) (m : List Byte) (s : State), s.Ok → Completes (.haveReceive port m) s fun t =>
    if s.partySlot ≠ none ∧ s.portReceives port = true ∧ s.partyFenced = false ∧ s.frontCode m = 0 ∧
      s.isSeen m = false ∧
      s.bodyCode m = 0 ∧ msgType m = typeHave ∧ s.isLagging (msgSender m) (msgFrame m) = false ∧
      s.isQuorumClosed (msgFrame m) = true then
      Counted s t R.PARTY_CNT_HAVE_LATE_N 1 ∧ t.party.haves = s.party.haves ∧ t.mem = s.mem ∧ t.out = [] ∧
      Untouched [R.PARTY_CNT_HAVE_LATE_N] s t
    else True) ∧
  (∀ (port : Port) (m : List Byte) (s : State), s.Ok → Completes (.commitReceive port m) s fun t =>
    let late : Bool := match s.timing with
      | some u => decide (u.dDue (msgFrame m) < s.ptp.ns) || s.commit.dueDone.any fun d => decide (msgFrame m ≤ d)
      | none => false
    if s.partySlot ≠ none ∧ s.portReceives port = true ∧ s.partyFenced = false ∧ s.frontCode m = 0 ∧
      s.isSeen m = false ∧
      s.bodyCode m = 0 ∧ msgType m = typeCommit then
      (late = true → Counted s t R.COMMIT_CNT_LATE_N 1 ∧ t.irqSet pCOMMIT 1 ∧ t.commit.held = s.commit.held) ∧
      (late = false → (s.commit.cur ≠ none ∧ beAt m 18 2 = s.curGen) ∨
          (beAt m 16 1 = 0 ∧ beAt m 18 2 = s.readyGen ∧ s.readyGen ≠ 0) →
        (t.commit.held.any fun c => c.frame = msgFrame m && c.sender = msgSender m) = true) ∧
      (late = false → ¬((s.commit.cur ≠ none ∧ beAt m 18 2 = s.curGen) ∨
          (beAt m 16 1 = 0 ∧ beAt m 18 2 = s.readyGen ∧ s.readyGen ≠ 0)) →
        Counted s t R.COMMIT_CNT_REFUSED_N 1 ∧ t.fld R.PARTY_BAD_LAST_CODE = 9 ∧ t.commit.held = s.commit.held)
    else True) ∧
  (∀ (port : Port) (m : List Byte) (s : State), s.Ok → Completes (.genAnnounceReceive port m) s fun t =>
    if s.partySlot ≠ none ∧ s.portReceives port = true ∧ s.partyFenced = false ∧ s.frontCode m = 0 ∧
      s.isSeen m = false ∧
      s.bodyCode m = 0 ∧ msgType m = typeAnnounce then
      if ∃ k ∈ List.range 4, (s.slotState k = slotStaged ∨ s.slotState k = slotReady ∨ s.slotState k = slotInForce) ∧
        s.slotGen k = beAt m 16 2 ∧ (s.slot k).digest ≠ (m.drop 32).take 32 then
        t.fld R.PARTY_BAD_LAST_CODE = 10 ∧ t.commit = s.commit
      else t.commit.announce = some (announceOf m) ∧ .toFirmware port m ∈ t.out
    else True) ∧
  (∀ (port : Port) (m : List Byte) (s : State), s.Ok → Completes (.activateReceive port m) s fun t =>
    if s.partySlot ≠ none ∧ s.portReceives port = true ∧ s.partyFenced = false ∧ s.frontCode m = 0 ∧
      s.isSeen m = false ∧
      s.bodyCode m = 0 ∧ msgType m = typeActivate then
      if s.actMatches m = false then t.fld R.PARTY_BAD_LAST_CODE = 11 ∧ t.upd = s.upd
      else t.irqSet pUPD 1 ∧ t.fld R.PARTY_ACT_STAT_ARMED = (if beAt m 16 6 = 0 then 0 else 1) ∧
        (beAt m 16 6 ≠ 0 → t.fld R.PARTY_ACT_STAT_SOURCE = 1 ∧
          t.wide R.PARTY_ACT_LO_N_LO R.PARTY_ACT_HI_N_HI = beAt m 24 6)
    else True)

/-- R304, R305, R309–R311: the claim of the lead role; a YIELD answered with ACCEPT, or with DECLINE and its reason;
the lead's armed release and the deadline of the ACCEPT; and the two ends of the handover. Model's choices it rests
on: assumption log, entry 29. -/
def Obligations.BelayHandover : Prop :=
  (∀ (n : Nat) (s : State), s.Ok → Completes (.leadClaim n) s fun t =>
    if s.isLead = false ∧ (s.commit.cur ≠ none ∨ s.caseSlot n ≠ none) ∧ s.inRun = true ∧
      s.storeCtl.unusable = false then
      t.fld R.BELAY_STATUS_LEAD = 1 ∧ t.pins.leadLow = true ∧ Counted s t R.BELAY_CNT_HANDOVER_N 1 ∧
        t.irqSet pBELAY 0 ∧
      t.fld R.BELAY_CHANGE_INFO_CAUSE = 0x10 ∧ t.fld R.BELAY_CHANGE_INFO_TO_LEAD = 1 ∧
        t.shows R.BELAY_CHANGE_LO_N_LO n ∧
      t.fld R.BELAY_STATUS_SYNCED = 1 ∧ t.fld R.BELAY_STATUS_SCREE_SYNCED = 1 ∧ t.mem = s.mem
    else Unchanged s t) ∧
  (∀ (p : BelayPkt) (fn : Nat) (s : State), s.Ok → s.arrives p = true → p.payload.length = 8 →
    fn = beAt p.payload 0 6 →
    Completes (.yieldReceive p) s fun t =>
    let reason := if s.isLead = true then 3 else if fn ≤ s.nowFrame then 2 else if s.isEligible = false then 1 else 0
    let body := (if reason = 0 then [4, 0, 0, 8] else [5, 0, 0, 8]) ++ beBytes 4 (s.belay.seq + 1) ++ beBytes 6 fn ++
      [BitVec.ofNat 8 reason, 0]
    t.out = [.belayPacket (body ++ beBytes 4 (crc32 body))] ∧ t.regs = s.regs ∧ t.mem = s.mem ∧ t.pins = s.pins ∧
    t.belay = { s.belay with seq := (s.belay.seq + 1) % 2 ^ 32, rxSeq := some p.seq,
                             takeover := if reason = 0 then some (fn, lowTrigger (p.payload.getD 6 0).toNat) else
                               s.belay.takeover }) ∧
  (∀ (p : BelayPkt) (fn tr : Nat) (s : State), s.arrives p = true → p.payload.length = 8 →
    s.belay.yielded = some (fn, tr) →
    Completes (.acceptReceive p) s fun t =>
    if beAt p.payload 0 6 = fn ∧ s.isLead = true then
      t = { s with out := [], belay := { s.belay with rxSeq := some p.seq, yielded := none, release := some (fn, lowTrigger tr) } }
    else t = { s with out := [], belay := { s.belay with rxSeq := some p.seq } }) ∧
  (∀ (p : BelayPkt) (s : State), s.arrives p = true → p.payload.length = 8 → Completes (.declineReceive p) s fun t =>
    t = { s with out := [], belay := { s.belay with rxSeq := some p.seq } }) ∧
  (∀ (n fn tr : Nat) (s : State), s.Ok → s.belay.yielded = some (fn, tr) →
    Completes (.handoverAcceptDeadline n) s fun t =>
    if fn = n then t.belay = { s.belay with yielded := none } ∧ Counted s t R.BELAY_CNT_HO_ABORT_N 1 ∧
      t.pins = s.pins ∧
      t.fld R.BELAY_STATUS_LEAD = s.fld R.BELAY_STATUS_LEAD ∧ Untouched [R.BELAY_CNT_HO_ABORT_N] s t
    else Unchanged s t) ∧
  (∀ (n fn cause : Nat) (s : State), s.Ok → s.isLead = true → s.belay.release = some (fn, cause) → cause < 256 →
    Completes (.handoverLeadRelease n) s fun t =>
    if fn = n then
      t.fld R.BELAY_STATUS_LEAD = 0 ∧ t.pins.leadLow = false ∧ t.belay.release = none ∧
        Counted s t R.BELAY_CNT_HANDOVER_N 1 ∧
      t.fld R.BELAY_CHANGE_INFO_CAUSE = cause ∧ t.fld R.BELAY_CHANGE_INFO_TO_LEAD = 0 ∧ t.irqSet pBELAY 0 ∧
        t.mem = s.mem ∧
      (s.occQueue.length < 16 → t.occQueue = s.occQueue ++ [⟨pBELAY, 0x8000, 0xFF, 0⟩])
    else Unchanged s t) ∧
  (∀ (n fn cause : Nat) (high : Bool) (s : State), s.Ok → s.isLead = false → s.belay.takeover = some (fn, cause) →
    cause < 256 →
    Completes (.handoverNewLeadSample n high) s fun t =>
    if fn ≠ n then Unchanged s t
    else if high = true then
      t.fld R.BELAY_STATUS_LEAD = 1 ∧ t.pins.leadLow = true ∧ t.belay.takeover = none ∧
        Counted s t R.BELAY_CNT_HANDOVER_N 1 ∧
      t.fld R.BELAY_CHANGE_INFO_CAUSE = cause ∧ t.irqSet pBELAY 0 ∧
      (s.occQueue.length < 16 → t.occQueue = s.occQueue ++ [⟨pBELAY, 0x8000, 0xFF, 0⟩])
    else t.belay = { s.belay with takeover := none } ∧ Counted s t R.BELAY_CNT_HO_ABORT_N 1 ∧ t.pins = s.pins ∧
      Untouched [R.BELAY_CNT_HO_ABORT_N] s t)

/-- R312–R316, R326: a packet is dropped while the link is down, and counted where its LEN is not its TYPE's; the
frame CRCs are compared once both are held; the HEART sent and the HEART taken; the link up, down and its partner
lost. Model's choices it rests on: assumption log, entry 29. -/
def Obligations.BelayLink : Prop :=
  (∀ (p : BelayPkt) (rx : Nat) (s : State), s.linkUp = false →
    ∀ c ∈ [Instr.yieldReceive p, .acceptReceive p, .declineReceive p, .frameCrcReceive p, .heartReceive p rx,
      .resyncReqReceive p,
      .resyncNakReceive p, .resyncDataReceive p, .resyncInstallReceive p], Completes c s fun t => Unchanged s t) ∧
  (∀ (p : BelayPkt) (rx : Nat) (s : State), s.Ok → s.linkUp = true → p.ecc ≠ .uncorrectable → p.payload.length = 9 →
    ∀ c ∈ [Instr.yieldReceive p, .acceptReceive p, .declineReceive p, .frameCrcReceive p, .heartReceive p rx,
      .resyncReqReceive p,
      .resyncNakReceive p, .resyncDataReceive p, .resyncInstallReceive p], Completes c s fun t =>
        AskedAgain s t ∧ Counted s t R.BELAY_CNT_LINK_ERR_N 1 ∧ Untouched [R.BELAY_CNT_LINK_ERR_N] s t) ∧
  (∀ (p : BelayPkt) (rx : Nat) (s : State), s.Ok → s.linkUp = true → p.ecc = .uncorrectable →
    ∀ c ∈ [Instr.yieldReceive p, .acceptReceive p, .declineReceive p, .frameCrcReceive p, .heartReceive p rx,
      .resyncReqReceive p,
      .resyncNakReceive p, .resyncDataReceive p, .resyncInstallReceive p], Completes c s fun t =>
        t.isFenced pBELAY noUnit = true ∧ t.linkUp = false ∧ t.belay.copying = false ∧ t.belay.install = none ∧
        t.fld R.BELAY_STATUS_RESYNC_BUSY = 0 ∧ t.out = [] ∧ t.mem = s.mem ∧ t.pins = s.pins ∧ t.commit = s.commit ∧
        t.rails = s.rails) ∧
  (∀ (p : BelayPkt) (f : FrameCrc) (s : State), s.Ok → s.arrives p = true → p.payload.length = 32 →
    f.frame = beAt p.payload 0 6 →
    s.belay.compared = [] → s.belay.own = [f] → Completes (.frameCrcReceive p) s fun t =>
    let b := p.payload
    let crc := fun g => beAt b (12 + 4 * g) 4
    let differ := (List.range 4).filter fun g =>
      !bitSet f.lanes g && !bitSet (beAt b 9 1 % 16) g && f.crcs.getD g 0 ≠ crc g
    let comparable := s.fld R.BELAY_CFG_CRC_CMP = 1 ∧ f.gen = beAt b 6 2 ∧ f.kase = beAt b 8 1
    (¬ comparable → Counted s t R.BELAY_CNT_CRC_SKIP_N 1 ∧ Untouched [R.BELAY_CNT_CRC_SKIP_N] s t) ∧
    (comparable → f.kase ∉ [2, 5, 7] → differ = [] → Counted s t R.BELAY_CNT_CRC_OK_N 1 ∧
      Untouched [R.BELAY_CNT_CRC_OK_N] s t) ∧
    (comparable → f.kase ∉ [2, 5, 7] → differ ≠ [] → Counted s t R.BELAY_CNT_CRC_MISMATCH_N 1 ∧ t.irqSet pBELAY 1 ∧
      t.shows R.BELAY_CRC_LAST_LO_N_LO f.frame ∧ t.shows R.BELAY_CRC_LAST_HI_N_HI (f.frame / 2 ^ 32) ∧
      (∀ g ∈ List.range 4, t.bit R.BELAY_CRC_LAST_HI_GROUPS g = differ.contains g) ∧
      (s.occQueue.length < 16 → t.occQueue = s.occQueue ++ [⟨pBELAY, 0x8001, 0xFF, 0⟩])) ∧
    t.fld R.BELAY_STATUS_LEAD = s.fld R.BELAY_STATUS_LEAD ∧ t.mem = s.mem ∧ t.pins = s.pins) ∧
  (∀ s : State, s.Ok → s.linkUp = true → s.gridRuns = true → Completes .heartSend s fun t =>
    let body := [1, 0, 0, 192] ++ beBytes 4 (s.belay.seq + 1) ++ s.heartBytes
    t.out = [.belayPacket (body ++ beBytes 4 (crc32 body))] ∧ s.heartBytes.length = 192 ∧
    (s.heartBytes.drop 16).take 10 = timeBytes s.ptp.ns ∧ bitSet (s.heartBytes.getD 0 0).toNat 0 = s.isLead ∧
    (s.heartBytes.getD 1 0).toNat = s.triggers ∧ t.fld R.BELAY_STATUS_TRIGGERS = s.triggers ∧
      t.fld R.BELAY_STATUS_ELIGIBLE = b2n s.isEligible ∧
    t.belay = { s.belay with seq := (s.belay.seq + 1) % 2 ^ 32 } ∧ t.mem = s.mem ∧ t.pins = s.pins ∧
    Untouched [R.BELAY_STATUS_TRIGGERS, R.BELAY_STATUS_ELIGIBLE] s t) ∧
  (∀ (p : BelayPkt) (rx : Nat) (s : State), s.Ok → s.arrives p = true → p.payload.length = 192 → s.isLead = true →
    s.belay.copying = false →
    Completes (.heartReceive p rx) s fun t =>
    let b := p.payload
    let off : Int := (((timeAt b 36 : Int) - timeAt b 26) + ((timeAt b 16 : Int) - rx)).tdiv 2
    t.fld R.BELAY_STATUS_PARTNER_SEEN = 1 ∧ t.fld R.BELAY_STATUS_PARTNER_ELIGIBLE = b2n (bitSet (beAt b 0 1) 1) ∧
    t.fld R.BELAY_STATUS_PARTNER_TRIG = beAt b 1 1 ∧ t.mem = s.mem ∧ t.out = [] ∧
    (timeAt b 26 = 0 → t.fld R.BELAY_OFFSET_NS = s.fld R.BELAY_OFFSET_NS) ∧
    (timeAt b 26 ≠ 0 → t.fld R.BELAY_STATUS_OFFSET_ALARM = (if off < -2000 ∨ 2000 < off then 1 else 0)) ∧
    (s.fld R.BELAY_STATUS_PARTNER_SEEN = 0 → t.irqSet pBELAY 2) ∧ t.fld R.BELAY_STATUS_LEAD = 1 ∧ t.rails = s.rails) ∧
  (∀ (p : BelayPkt) (rx r : Nat) (s : State), s.Ok → r < 12 → s.arrives p = true → p.payload.length = 192 →
    s.isLead = false →
    bitSet (beAt p.payload 0 1) 0 = true → s.railMode r ≠ 0 → Completes (.heartReceive p rx) s fun t =>
    t.fld (R.RAIL_OUT_TARGET r) = beAt p.payload (48 + 10 * r) 2 ∧
    t.fld (R.RAIL_OUT_OUTPUT r) = beAt p.payload (50 + 10 * r) 2 ∧ t.pins.railEn = s.pins.railEn ∧
    (t.rail r).hmin = beAt p.payload (52 + 10 * r) 2 ∧ (t.rail r).reports = beAt p.payload (54 + 10 * r) 2 ∧
    (t.rail r).stale = beAt p.payload (56 + 10 * r) 1 ∧ (t.rail r).adopted = some s.ptp.ns ∧
    t.bit R.RAIL_STATUS_NODATA r = bitSet (beAt p.payload (57 + 10 * r) 1) 0 ∧
    (bitSet (beAt p.payload (57 + 10 * r) 1) 0 = true → s.bit R.RAIL_STATUS_NODATA r = false → t.irqSet pRAIL 0)) ∧
  (∀ s : State, s.Ok → Completes .belayPacketError s fun t =>
    if s.linkUp = false then Unchanged s t
    else AskedAgain s t ∧ Counted s t R.BELAY_CNT_LINK_ERR_N 1 ∧ Untouched [R.BELAY_CNT_LINK_ERR_N] s t) ∧
  (∀ s : State, s.Ok → Completes .belayLinkUp s fun t =>
    if s.fld R.BELAY_STATUS_LINK_UP = 1 then Unchanged s t
    else t.fld R.BELAY_STATUS_LINK_UP = 1 ∧ t.irqSet pBELAY 2 ∧ t.mem = s.mem ∧ t.pins = s.pins ∧
      Untouched [R.BELAY_STATUS_LINK_UP, R.PG_IRQ_RAW_BIT pBELAY 2] s t) ∧
  (∀ s : State, s.Ok → Completes .belayLinkDown s fun t =>
    if s.fld R.BELAY_STATUS_LINK_UP = 0 then Unchanged s t
    else t.fld R.BELAY_STATUS_LINK_UP = 0 ∧ Counted s t R.BELAY_CNT_LINK_DOWN_N 1 ∧ t.belay.copying = false ∧
      t.belay.install = none ∧ t.fld R.BELAY_STATUS_RESYNC_BUSY = 0 ∧ t.isEligible = false ∧ t.mem = s.mem ∧
        t.pins = s.pins) ∧
  (∀ s : State, s.Ok → Completes .partnerLost s fun t =>
    if s.fld R.BELAY_STATUS_PARTNER_SEEN = 0 then Unchanged s t
    else t.fld R.BELAY_STATUS_PARTNER_SEEN = 0 ∧ t.irqSet pBELAY 2 ∧ t.belay = s.belay ∧ t.mem = s.mem ∧
      Untouched [R.BELAY_STATUS_PARTNER_SEEN, R.PG_IRQ_RAW_BIT pBELAY 2] s t)

/-- R317–R321: the start of a resynchronisation, its request, its data in both directions, the resend, and the
install that waits for P(M). Model's choices it rests on: assumption log, entries 11 and 29. -/
def Obligations.BelayResync : Prop :=
  (∀ (h : Heart) (s : State), s.Ok → s.belay.heart = some h → Completes .resyncStart s fun t =>
    if s.isLead = false ∧ s.linkUp = true ∧ h.lead = true ∧ h.genValid = true ∧ 2 ≤ s.belay.differs ∧
      s.belay.copying = false then
      let body := [0x10, 0, 0, 8] ++ beBytes 4 (s.belay.seq + 1) ++ List.replicate 8 0
      t.out = [.belayPacket (body ++ beBytes 4 (crc32 body))] ∧ t.belay.copying = true ∧
        t.fld R.BELAY_STATUS_SYNCED = 0 ∧
      t.fld R.BELAY_STATUS_SCREE_SYNCED = 0 ∧ t.fld R.BELAY_STATUS_RESYNC_BUSY = 1 ∧
        t.fld R.BELAY_RESYNC_KIB_KIB = 0 ∧
      t.mem = s.mem ∧ Untouched [R.BELAY_STATUS_SYNCED, R.BELAY_STATUS_SCREE_SYNCED, R.BELAY_STATUS_RESYNC_BUSY,
        R.BELAY_RESYNC_KIB_KIB] s t
    else Unchanged s t) ∧
  (∀ (p : BelayPkt) (s : State), s.Ok → s.arrives p = true → p.payload.length = 8 →
    Completes (.resyncReqReceive p) s fun t =>
    if s.isLead = false then t = { s with out := [], belay := { s.belay with rxSeq := some p.seq } }
    else t.fld R.BELAY_STATUS_RESYNC_BUSY = 1 ∧ t.belay.pos = (0, 0) ∧ t.belay.ranges = s.copyRanges ∧
      t.belay.installAt = none ∧ t.mem = s.mem ∧ t.out = [] ∧
      Untouched [R.BELAY_STATUS_RESYNC_BUSY] s t) ∧
  (∀ (s : State), s.isLead = false ∨ s.linkUp = false ∨ s.fld R.BELAY_STATUS_RESYNC_BUSY = 0 →
    Completes .resyncDataSend s fun t => Unchanged s t) ∧
  (∀ (r : CopyRange) (rest : List CopyRange) (s : State), s.Ok → s.isLead = true → s.linkUp = true →
    s.fld R.BELAY_STATUS_RESYNC_BUSY = 1 →
    s.belay.ranges = r :: rest → s.belay.pos = (0, 0) → 256 < r.len → s.storeRangeBad r.addr 256 = false →
      Completes .resyncDataSend s fun t =>
    let body := [0x11, if r.scree then 1 else 0, 1, 8] ++ beBytes 4 (s.belay.seq + 1) ++ beBytes 5 r.addr ++
      [0, 0, 0] ++
      s.storeRead r.addr 256
    t.out = [.belayPacket (body ++ beBytes 4 (crc32 body))] ∧ t.belay.pos = (0, 256) ∧
      t.belay.ranges = s.belay.ranges ∧
    t.mem.store = s.mem.store) ∧
  (∀ (a n : Nat) (s : State), s.Ok → s.isLead = true → s.linkUp = true → s.fld R.BELAY_STATUS_RESYNC_BUSY = 1 →
    s.belay.ranges = [⟨a, n, true⟩] → s.belay.pos = (0, 0) → 0 < n → n ≤ 256 → s.storeRangeBad a n = false →
    Completes .resyncDataSend s fun t =>
    t.fld R.BELAY_STATUS_RESYNC_BUSY = 0 ∧ t.belay.pos = (1, 0) ∧ t.out.length = 1 ∧ t.mem.store = s.mem.store) ∧
  (∀ (pre : List CopyRange) (a n : Nat) (s : State), s.Ok → s.isLead = true → s.linkUp = true →
    s.fld R.BELAY_STATUS_RESYNC_BUSY = 1 →
    s.belay.ranges = pre ++ [⟨a, n, false⟩] → s.belay.pos = (pre.length, 0) → 0 < n → n ≤ 256 →
      s.storeRangeBad a n = false →
    (∀ x ∈ s.copyRanges, x ∈ s.belay.ranges) → Completes .resyncDataSend s fun t =>
    t.fld R.BELAY_STATUS_RESYNC_BUSY = 1 ∧ t.belay.installAt = some (s.nowFrame + 2) ∧ t.out.length = 1 ∧
      t.mem.store = s.mem.store) ∧
  (∀ (p : BelayPkt) (r : CopyRange) (s : State), s.Ok → s.arrives p = true → p.payload.length = 8 →
    s.belay.ranges = [r] →
    r.addr ≤ beAt p.payload 0 5 → beAt p.payload 0 5 < r.addr + r.len → Completes (.resyncNakReceive p) s fun t =>
    if s.isLead = false then t = { s with out := [], belay := { s.belay with rxSeq := some p.seq } }
    else t.fld R.BELAY_STATUS_RESYNC_BUSY = 1 ∧ RegsOnly { s with belay := t.belay } t ∧ t.out = [] ∧
      t.belay = { s.belay with rxSeq := some p.seq, pos := (0, beAt p.payload 0 5 - r.addr), installAt := none } ∧
      Untouched [R.BELAY_STATUS_RESYNC_BUSY] s t) ∧
  (∀ (p : BelayPkt) (a : Nat) (data : List Byte) (s : State), s.Ok → s.arrives p = true → s.belay.copying = true →
    s.storeCtl.unusable = false → p.payload = beBytes 5 a ++ [0, 0, 0] ++ data → a < 2 ^ 34 → a % 8 = 0 →
      8 ≤ data.length →
    data.length ≤ 256 → data.length % 8 = 0 → a + data.length ≤ 0x4_0000_0000 →
    Completes (.resyncDataReceive p) s fun t =>
    (if s.fld R.STORE_STATUS_INIT_DONE = 1 then
      memRead t.mem.store a data.length = data ∧ SameOutside s.mem.store t.mem.store a data.length ∧
      t.storeRangeBad a data.length = false
     else t.mem = s.mem ∧ t.storeCtl.waiting = s.storeCtl.waiting ++ [(a, data)]) ∧ t.out = [] ∧
    (let whole : Prop := bitSet p.flags 0 = true ∧ s.fld R.BELAY_STATUS_SYNCED = 1 ∧
      (s.screeRange.map (·.len)).sum ≤ s.belay.screeBytes + data.length
     t.belay.copying = (if whole then false else true) ∧
     (whole → t.fld R.BELAY_STATUS_SCREE_SYNCED = 1 ∧ t.fld R.BELAY_STATUS_RESYNC_BUSY = 0 ∧ t.irqSet pBELAY 3)) ∧
    t.belay.expect = some (a + data.length) ∧ t.belay.bytes = s.belay.bytes + data.length ∧
    t.shows R.BELAY_RESYNC_KIB_KIB ((s.belay.bytes + data.length) / 1024)) ∧
  (∀ (p : BelayPkt) (q : Nat) (s : State), s.Ok → s.linkUp = true → p.ecc ≠ .uncorrectable → s.belay.copying = true →
    s.storeCtl.unusable = false → p.payload.length = 16 → s.belay.rxSeq = some q → p.seq ≠ (q + 1) % 2 ^ 32 →
      Completes (.resyncDataReceive p) s fun t =>
    let body := [0x13, 0, 0, 8] ++ beBytes 4 (s.belay.seq + 1) ++ beBytes 5 (s.belay.expect.getD 0) ++ [0, 0, 0]
    t.out = [.belayPacket (body ++ beBytes 4 (crc32 body))] ∧ t.mem = s.mem ∧ t.regs = s.regs) ∧
  (∀ (p : BelayPkt) (s : State), s.arrives p = true → p.payload.length = 72 →
    Completes (.resyncInstallReceive p) s fun t =>
    t.regs = s.regs ∧ t.mem = s.mem ∧ t.out = [] ∧
    (if s.belay.copying = true then t.belay.install.map (·.frame) = some (beAt p.payload 0 6) ∧
      t.belay.install.map (·.slots) = some ((List.range 4).map fun k => (beAt p.payload (8 + 4 * k) 2,
        beAt p.payload (10 + 4 * k) 1))
     else t.belay = { s.belay with rxSeq := some p.seq }))

/-! ## Work distribution (12) -/

/-- R338–R340: the claim of a line answers the pending line of lowest PRIO, which is then pending for no hart until
its claimer completes it; any other number is ignored. MTIMER_EXPIRY brings IRQ_MTIME to the compare value. R341,
R346, R353: a posting line's push and its retry, the drop of one whose descriptor is uncorrectable, the fill of a
hart's slot with the scheduler's choice, and the fence of corrupt link state. Model's choices it rests on:
assumption log, entry 30. -/
def Obligations.InterruptsAndDispatch : Prop :=
  (∀ (h h' l : Nat) (mmode : Bool) (s : State), s.bestLine h = some l →
    Completes (.irqClaim (.hart h mmode)) s fun t =>
    t = { s with out := [.readData (BitVec.ofNat 32 l)], router := { s.router with claims := s.router.claims ++
      [(l, h)] } } ∧
    t.linePending h' l = false) ∧
  (∀ (h : Nat) (mmode : Bool) (s : State), s.bestLine h = none → Completes (.irqClaim (.hart h mmode)) s fun t =>
    t = { s with out := [.readData 0xFFFFFFFF#32] }) ∧
  (∀ (h l : Nat) (s : State), s.bestLine h = some l → Completes (.irqClaim (.hart h true)) s fun _ =>
    s.lineHigh l = true ∧ s.linePosts l = false ∧ s.bit (R.IRQ_ROUTE_HARTS l) h = true ∧
      (∀ c ∈ s.router.claims, c.1 ≠ l) ∧
    (∀ l' ∈ List.range 320, s.linePending h l' = true → s.fld (R.IRQ_ROUTE_PRIO l) < s.fld (R.IRQ_ROUTE_PRIO l') ∨
      (s.fld (R.IRQ_ROUTE_PRIO l) = s.fld (R.IRQ_ROUTE_PRIO l') ∧ l ≤ l'))) ∧
  (∀ (m : Master) (v : Word) (s : State), m.holds rightSecure = true → s.Ok → Completes (.irqComplete m v) s fun t =>
    t.out = [] ∧ t.mem = s.mem ∧ Untouched [R.PG_LOCK_ARMED pIRQ] s t ∧
    (∀ c ∈ s.router.claims, c ∈ t.router.claims ∨ (m = .hart c.2 true ∨ m = .hart c.2 false) ∧ c.1 = v.toNat % 512) ∧
    (∀ c ∈ t.router.claims, c ∈ s.router.claims ∧ ¬ ((m = .hart c.2 true ∨ m = .hart c.2 false) ∧
      c.1 = v.toNat % 512))) ∧
  (∀ (h : Nat) (s : State), Completes (.mtimerExpiry h) s fun t =>
    t.mtip h = true ∧ s.router.mtime ≤ t.router.mtime ∧ (s.mtip h = true → t.router = s.router) ∧
    t = { s with out := [], router := { s.router with mtime := t.router.mtime } }) ∧
  (∀ (line : Nat) (e : Ecc) (s : State), s.posts.contains line = false → Completes (.irqPost line e) s fun t =>
    Unchanged s t) ∧
  (∀ (line : Nat) (e : Ecc) (s : State), s.router.deferred.contains line = false →
    Completes (.irqPostRetry line e) s fun t =>
    Unchanged s t) ∧
  (∀ (line : Nat) (s : State), s.Ok → s.posts.contains line = true →
    Completes (.irqPost line .uncorrectable) s fun t =>
    s.posts.erase line <+: t.posts ∧ t.sched = s.sched ∧ t.router = s.router ∧ s.postAddr line / 8 ∈ t.mem.sramBad ∧
    t.mem.sram = s.mem.sram ∧ t.harts = s.harts ∧ t.out = [] ∧ Counted s t R.IRQ_CNT_POST_UE_N 1 ∧ t.irqSet pIRQ 1 ∧
    Untouched [R.IRQ_CNT_POST_UE_N, R.PG_IRQ_RAW_BIT pIRQ 1] s t) ∧
  (∀ (line : Nat) (e : Ecc) (s : State), s.Ok → s.posts.contains line = true → e ≠ .uncorrectable →
    s.mem.sramBad = [] →
    s.fld R.SCHED_TRACE_CTRL_RUN = 0 → descriptorOk ((List.range 8).map fun i =>
      memLE s.mem.sram (s.postAddr line + 4 * i) 4) = true →
    Completes (.irqPost line e) s fun t =>
    let ws := (List.range 8).map fun i => memLE s.mem.sram (s.postAddr line + 4 * i) 4
    let i : SchedItem := ⟨ws, s.router.mtime, s.sched.seq + 1, false⟩
    t.mem = s.mem ∧ t.harts = s.harts ∧ s.posts.erase line <+: t.posts ∧
    (if s.pushResult i.queue = 0 then t.sched.items = s.sched.items ++ [i] ∧ t.sched.seq = i.seq ∧
      Counted s t R.IRQ_CNT_POST_N 1
     else t.sched = s.sched ∧ t.router.deferred = s.router.deferred ++ [line] ∧ Counted s t R.IRQ_CNT_POST_DEFER_N 1 ∧
       t.irqSet pIRQ 0)) ∧
  (∀ (line : Nat) (e : Ecc) (s : State), s.Ok → s.router.deferred.contains line = true → e ≠ .uncorrectable →
    s.mem.sramBad = [] →
    s.fld R.SCHED_TRACE_CTRL_RUN = 0 → descriptorOk ((List.range 8).map fun i =>
      memLE s.mem.sram (s.postAddr line + 4 * i) 4) = true →
    Completes (.irqPostRetry line e) s fun t =>
    let ws := (List.range 8).map fun i => memLE s.mem.sram (s.postAddr line + 4 * i) 4
    let i : SchedItem := ⟨ws, s.router.mtime, s.sched.seq + 1, false⟩
    t.fld R.IRQ_CNT_POST_DEFER_N = s.fld R.IRQ_CNT_POST_DEFER_N ∧
    (if s.pushResult i.queue = 0 then t.sched.items = s.sched.items ++ [i] ∧
      t.router.deferred = s.router.deferred.erase line ∧
      Counted s t R.IRQ_CNT_POST_N 1
     else t.sched = s.sched ∧ t.router.deferred = s.router.deferred.erase line ++ [line])) ∧
  (∀ (h : Nat) (e : Ecc) (s : State), s.schedFenced = true ∨
    s.fld (R.SCHED_CORE_CFG_SLOTS h) ≤ (s.hart h).slots.length ∨
      s.choose h = none → Completes (.schedDispatch h e) s fun t => Unchanged s t) ∧
  (∀ (h : Nat) (i : SchedItem) (e : Ecc) (s : State), s.Ok → s.schedFenced = false → e ≠ .uncorrectable →
    (s.hart h).slots.length < s.fld (R.SCHED_CORE_CFG_SLOTS h) → s.choose h = some i →
      Completes (.schedDispatch h e) s fun t =>
    t.harts = s.harts.set h { s.hart h with slots := (s.hart h).slots ++ [i] } ∧ t.out = [] ∧ t.mem = s.mem ∧
    t.sched.items = s.sched.items.filter (fun j => j.seq ≠ i.seq) ∧ t.sched.hist = s.sched.hist) ∧
  (∀ (h : Nat) (i : SchedItem) (s : State), s.choose h = some i → Completes (.schedDispatch h .clean) s fun _ =>
    i ∈ s.sched.items ∧ s.serves h i.queue = true ∧
    (∀ j ∈ s.sched.items, s.serves h j.queue = true → (j.urgent || s.isUrgent j) = true →
      (i.urgent || s.isUrgent i) = true ∧ i.seq ≤ j.seq) ∧
    ((i.urgent || s.isUrgent i) = false → ∀ j ∈ s.sched.items, s.serves h j.queue = true →
      s.effPrio i ≤ s.effPrio j)) ∧
  (∀ (h : Nat) (i : SchedItem) (s : State), s.Ok → s.schedFenced = false → s.sched.items = [i] →
    (s.hart h).slots.length < s.fld (R.SCHED_CORE_CFG_SLOTS h) → s.choose h = some i →
      Completes (.schedDispatch h .uncorrectable) s fun t =>
    t.harts = s.harts ∧ t.sched.items = [] ∧ Counted s t R.SCHED_CNT_UE_N 1 ∧ t.irqSet pSCHED 2 ∧
    (s.occQueue.length < 16 → t.occQueue = s.occQueue ++ [⟨pSCHED, 0x8002, 0xFF, 0⟩])) ∧
  (∀ s : State, s.Ok → Completes .schedQstateFault s fun t =>
    t.schedFenced = true ∧ t.sched = s.sched ∧ t.harts = s.harts ∧ FenceOnly s t ∧
    (s.fences = [] → s.fld (R.PG_FENCE_ACTIVE pSCHED) = 0 → t.fences = [⟨pSCHED, 0xFF, 0x0100⟩] ∧
      t.fld (R.PG_FENCE_ACTIVE pSCHED) = 1 ∧ t.fld (R.PG_FENCE_CAUSE pSCHED) = 0x0100))

/-- R343, R344: the commit of a push with its four results in PUSH_STAT, the refusals of a descriptor that R342
forbids, and the urgent instant of an item. R351, R352, R354: the checkpoint of the configuration and its restore,
which leaves the configuration alone where MAGIC or CRC does not check; the oldest trace entry, and the refusal of
both without trace privilege. Model's choices it rests on: assumption log, entry 30. -/
def Obligations.SchedItemsAndTrace : Prop :=
  (∀ (h : Nat) (mmode : Bool) (v : Word) (s : State), descriptorOk ((s.hart h).push.set 7 v.toNat) = false →
    exec (.schedPush (.hart h mmode) v) s = .fault (.unpredictable 342)) ∧
  (∀ (h : Nat) (mmode : Bool) (v : Word) (s : State), s.Ok → s.fld R.SCHED_TRACE_CTRL_RUN = 0 →
    descriptorOk ((s.hart h).push.set 7 v.toNat) = true → Completes (.schedPush (.hart h mmode) v) s fun t =>
    let ws := (s.hart h).push.set 7 v.toNat
    let q := bits (ws.getD 1 0) 5 0
    let stored := s.sched.items.length + (s.harts.map fun x => x.slots.length).sum
    let result := if s.schedFenced = true then 3 else if s.fld (R.SCHED_Q_CFG_CAP q) = 0 then 1
      else if s.fld (R.SCHED_Q_CFG_EN q) = 0 then 2
      else if s.fld (R.SCHED_Q_CFG_CAP q) ≤ s.queueDepth q ∨ 4096 ≤ stored then 1 else 0
    t.harts = s.harts.set h { s.hart h with push := ws, pushStat := some result } ∧ t.out = [] ∧ t.mem = s.mem ∧
    (result = 0 → t.sched = { s.sched with seq := s.sched.seq + 1, items := s.sched.items ++
      [⟨ws, s.router.mtime, s.sched.seq + 1, false⟩] } ∧
      Untouched [R.PG_LOCK_ARMED pSCHED, R.SCHED_STATUS_ITEMS, R.SCHED_STATUS_FREE, R.SCHED_Q_DEPTH_DEPTH q,
        R.SCHED_Q_DEPTH_MAX q] s t) ∧
    (result ≠ 0 → t.sched = s.sched ∧ Counted s t R.SCHED_CNT_REFUSED_N 1 ∧ t.irqSet pSCHED 0 ∧
      Untouched [R.PG_LOCK_ARMED pSCHED, R.SCHED_CNT_REFUSED_N, R.PG_IRQ_RAW_BIT pSCHED 0] s t)) ∧
  (∀ (i : SchedItem) (us : Nat) (s : State), s.Ok → (s.heldItems.find? fun j => j.seq = i.seq && !j.urgent) = some i →
    s.urgentAt i = some us → Completes (.schedUrgent i.seq) s fun t =>
    (let mark : SchedItem → SchedItem := fun j => if j.seq = i.seq then { j with urgent := true } else j
     t.sched.items = s.sched.items.map mark ∧ t.harts = s.harts.map fun x => { x with slots := x.slots.map mark }) ∧
       t.fld R.SCHED_URGENT_FLAG = 1 ∧ t.fld R.SCHED_URGENT_QUEUE = i.queue ∧
    Counted s t R.SCHED_CNT_URGENT_N 1 ∧ t.irqSet pSCHED 1 ∧ us ≤ t.waitUs i ∧ t.mem = s.mem) ∧
  (∀ (seq : Nat) (s : State), (∀ i ∈ s.heldItems, i.seq = seq → i.urgent = true) →
    Completes (.schedUrgent seq) s fun t =>
    Unchanged s t) ∧
  (∀ (m : Master) (s : State), s.Ok → m.holds rightSecure = true → Completes (.schedCkptSave m) s fun t =>
    memRead t.mem.ret 0x1000 616 = s.ckptBytes ∧ SameOutside s.mem.ret t.mem.ret 0x1000 616 ∧
    t.mem = { s.mem with ret := t.mem.ret } ∧ t.fld R.SCHED_CKPT_RESULT = 1 ∧ t.sched = s.sched ∧ t.out = [] ∧
    Untouched [R.SCHED_CKPT_RESULT, R.PG_LOCK_ARMED pSCHED] s t) ∧
  (∀ (m : Master) (s : State), s.Ok → m.holds rightSecure = true →
    leNat (memRead s.mem.ret 0x1000 4) ≠ 0x53434B31 ∨
      crc32 (memRead s.mem.ret 0x1000 612) ≠ leNat (memRead s.mem.ret 0x1264 4) →
        Completes (.schedCkptRestore m) s fun t =>
    t.fld R.SCHED_CKPT_RESULT = 3 ∧ RegsOnly s t ∧ t.out = [] ∧
    Untouched [R.SCHED_CKPT_RESULT, R.PG_LOCK_ARMED pSCHED] s t) ∧
  (∀ (m : Master) (s : State), s.Ok → m.holds rightSecure = true → s.mem.ret = memWrite [] 0x1000 s.ckptBytes →
    Completes (.schedCkptRestore m) s fun t =>
    t.fld R.SCHED_CKPT_RESULT = 2 ∧ t.sched = s.sched ∧ t.mem = s.mem ∧
    Untouched [R.SCHED_CKPT_RESULT, R.PG_LOCK_ARMED pSCHED] s t) ∧
  (∀ (m : Master) (s : State), m.holds rightTrace = false → Completes (.schedTraceRead m) s fun t =>
    t = { s with out := [.readData 0] }) ∧
  (∀ (m : Master) (s : State), s.Ok → m.holds rightTrace = true → s.sched.trace.length ≤ 1024 →
    Completes (.schedTraceRead m) s fun t =>
    let e := s.sched.trace.headD 0
    t.out = [.readData (BitVec.ofNat 32 e)] ∧ t.shows R.SCHED_TRACE_HI_E_HI (e / 2 ^ 32) ∧
    t.sched = { s.sched with trace := s.sched.trace.tail } ∧
      t.fld R.SCHED_TRACE_STAT_ENTRIES = s.sched.trace.length - 1 ∧
    t.mem = s.mem ∧ Untouched [R.SCHED_TRACE_HI_E_HI, R.SCHED_TRACE_STAT_ENTRIES] s t) ∧
  (∀ (m : Master) (s : State), s.Ok → Completes (.schedTraceClear m) s fun t =>
    t.out = [] ∧ t.mem = s.mem ∧
    (if m.holds rightTrace = true then t.sched = { s.sched with trace := [] } ∧ t.fld R.SCHED_TRACE_STAT_ENTRIES = 0 ∧
      t.fld R.SCHED_TRACE_STAT_LOST = 0 ∧ Untouched [R.SCHED_TRACE_STAT_ENTRIES, R.SCHED_TRACE_STAT_LOST,
        R.PG_LOCK_ARMED pSCHED] s t
     else t.sched = s.sched ∧ Untouched [R.PG_LOCK_ARMED pSCHED] s t))

/-- R347: a read of SCHED_TAKE by a hart removes the item in slot 0 and returns its HANDLER; with slot 0 empty it
returns 0 and leaves SCHED_CUR unchanged; a read by another master returns 0 and removes nothing. -/
def Obligations.TakeSlotZero : Prop :=
  (∀ (h : Nat) (mmode : Bool) (s : State), (s.hart h).slots = [] → Completes (.schedTake (.hart h mmode)) s fun t =>
    t = { s with out := [.readData 0] }) ∧
  (∀ (m : Master) (n : Nat) (s : State), m ∈ [Master.lcp n, .hspi n] → m.holds rightRead = true →
    Completes (.schedTake m) s fun t =>
    t = { s with out := [.readData 0] }) ∧
  (∀ (h : Nat) (mmode : Bool) (i : SchedItem) (rest : List SchedItem) (s : State), s.Ok → h < 8 →
    (s.hart h).slots = i :: rest →
    Completes (.schedTake (.hart h mmode)) s fun t =>
    t.out = [.readData (BitVec.ofNat 32 (i.words.getD 0 0))] ∧ t.mem = s.mem ∧
    t.harts = s.harts.set h { s.hart h with slots := rest, cur := i.words.drop 1 } ∧ t.sched.items = s.sched.items ∧
    Counted s t (R.SCHED_CORE_ITEMS_N h) 1 ∧
    mapGet 0 t.sched.hist (i.queue * 16 + histBin (s.waitUs i)) =
      min (mapGet 0 s.sched.hist (i.queue * 16 + histBin (s.waitUs i)) + 1) (2 ^ 32 - 1))

/-- R349: a write of 1 to SCHED_QFLUSH.GO discards and counts every item of the queue that is not in a slot; an item
pushed in the same cycle comes after it (R345) and is kept. -/
def Obligations.QueueFlush : Prop :=
  (∀ (m : Master) (v : Word) (s : State), s.Ok → m.holds rightSecure = true → Completes (.schedQflush m v) s fun t =>
    let q := bits v.toNat 5 0
    t.fld R.SCHED_QFLUSH_QUEUE = q ∧ t.out = [] ∧ t.mem = s.mem ∧ t.harts = s.harts ∧
    (bitSet v.toNat 31 = false → t.sched = s.sched ∧ Untouched [R.SCHED_QFLUSH_QUEUE, R.PG_LOCK_ARMED pSCHED] s t) ∧
    (bitSet v.toNat 31 = true → t.sched.items = s.sched.items.filter (fun i => i.queue ≠ q) ∧
      t.fld (R.SCHED_Q_DEPTH_DEPTH q) = 0 ∧
      Counted s t R.SCHED_CNT_FLUSHED_N (s.sched.items.filter fun i => i.queue = q).length)) ∧
  (∀ (m : Master) (v u : Word) (h : Nat) (mmode : Bool) (s t : State), exec (.schedQflush m v) s = .next t →
    ∀ x : State, exec (.schedPush (.hart h mmode) u) t = .next x →
    x.sched.items = t.sched.items ∨ ∃ i : SchedItem, x.sched.items = t.sched.items ++ [i] ∧
      i.words = (t.hart h).push.set 7 u.toNat)

/-- R352: without trace privilege — an M-mode hart, or a principal with the trace right — writes of the trace
registers are ignored, reads return 0, and no entry is removed; SCHED_TRACE_STAT reads for any principal that may
read the page. -/
def Obligations.TraceNeedsPrivilege : Prop :=
  (∀ (m : Master) (s : State), m.holds rightTrace = false → Completes (.schedTraceRead m) s fun t =>
    t = { s with out := [.readData 0] }) ∧
  (∀ (m : Master) (s : State), s.Ok → m.holds rightTrace = false → Completes (.schedTraceClear m) s fun t =>
    t.out = [] ∧ RegsOnly s t ∧ Untouched [R.PG_LOCK_ARMED pSCHED] s t) ∧
  (∀ (m : Master) (off : Nat) (v : Word) (s : State), s.Ok → m.holds rightTrace = false → m.holds rightSecure = true →
    off ∈ [0x600, 0x604, 0x610] → (off = 0x600 → v &&& 0x3FFFFFFE#32 = 0) → (off = 0x604 → v &&& 0x40404040#32 = 0) →
    Completes (.registerWrite m pSCHED off v) s fun t => t.out = [] ∧ RegsOnly s t ∧
      Untouched [R.PG_LOCK_ARMED pSCHED] s t) ∧
  (∀ (m : Master) (off : Nat) (s : State), s.Ok → m.holds rightTrace = false → m.mayRead pSCHED off = true →
    off ∈ [0x600, 0x604, 0x610] → Completes (.latchingRegisterRead m pSCHED off) s fun t =>
    t.out = [.readData 0] ∧ t.sched = s.sched ∧ t.regs = s.regs) ∧
  (∀ (m : Master) (s : State), s.Ok → m.mayRead pSCHED 0x608 = true →
    Completes (.latchingRegisterRead m pSCHED 0x608) s fun t =>
    (match t.out with
      | [.readData w] => bits w.toNat 26 16 == s.fld R.SCHED_TRACE_STAT_ENTRIES && bits w.toNat 15 0 == s.fld R.SCHED_TRACE_STAT_LOST
      | _ => false) = true) ∧
  (∀ (h n : Nat) (mmode : Bool), (Master.hart h mmode).holds rightTrace = mmode ∧
    (Master.lcp n).holds rightTrace = n.testBit rightTrace ∧ (Master.hspi n).holds rightTrace = n.testBit rightTrace)

/-! ## Side link (14) -/

/-- R375, R378, R386: a write of SIDE_TX_GO — the six sending rows share it: a busy slot is left alone, a KIND that
is no kind has no defined effect, a payload too long ends TOO_LONG, a stateless frame that may be sent is queued,
and a LINK or TERMINATE slot waits at its open link. R372, R378, R381–R383, R389: the region's first choice, the
discovery channel of each second, the start of a queued frame with its next FC, the end of an unacknowledged one
after RETRIES repeats, and the deadline of a slot. Model's choices it rests on: assumption log, entries 12 and 35. -/
def Obligations.SideSending : Prop :=
  (∀ (c : Instr) (m : Master) (k : Nat) (s : State), c ∈ [Instr.sideSendData m k, .sideSendConnect m k,
    .sideSendLink m k,
      .sideSendTerminate m k, .sideSendBeacon m k, .sideSendWake m k, .sideRxReturn m k] → s.variant = .v16N →
    Completes c s fun t => Unchanged s t) ∧
  (∀ (c : Instr) (m : Master) (k : Nat) (s : State), c ∈ [Instr.sideSendData m k, .sideSendConnect m k,
    .sideSendLink m k,
      .sideSendTerminate m k, .sideSendBeacon m k, .sideSendWake m k] → s.Ok → s.variant ≠ .v16N →
        m.holds rightConfig = true → k < 16 →
    s.fld (R.SIDE_TX_BUSY k) = 1 → Completes c s fun t =>
    t.fld R.SIDE_TX_GO_SLOT = k ∧ t.side = s.side ∧ RegsOnly s t ∧
      Untouched [R.SIDE_TX_GO_SLOT, R.PG_LOCK_ARMED pSIDE] s t) ∧
  (∀ (c : Instr) (m : Master) (k : Nat) (s : State), c ∈ [Instr.sideSendData m k, .sideSendConnect m k,
    .sideSendLink m k,
      .sideSendTerminate m k, .sideSendBeacon m k, .sideSendWake m k] → s.Ok → s.variant ≠ .v16N →
        m.holds rightConfig = true → k < 16 →
    s.fld (R.SIDE_TX_BUSY k) = 0 → 5 < s.fld (R.SIDE_TX_KIND k) → exec c s = .fault (.unpredictable 375)) ∧
  (∀ (c : Instr) (m : Master) (k : Nat) (s : State), c ∈ [Instr.sideSendData m k, .sideSendConnect m k,
    .sideSendLink m k,
      .sideSendTerminate m k, .sideSendBeacon m k, .sideSendWake m k] → s.Ok → s.variant ≠ .v16N →
        m.holds rightConfig = true → k < 16 →
    s.fld (R.SIDE_TX_BUSY k) = 0 → s.fld (R.SIDE_TX_KIND k) ≤ 5 →
    kindMax (s.fld (R.SIDE_TX_KIND k)) < s.fld (R.SIDE_TX_LEN k) → Completes c s fun t =>
    t.fld (R.SIDE_TX_RESULT k) = resTooLong ∧ t.fld (R.SIDE_TX_BUSY k) = 0 ∧ t.side.queue = s.side.queue ∧
      t.mem = s.mem ∧
    (s.side.events.length < 16 → t.side.events = s.side.events ++ [(5, k, s.now)] ∧ t.irqSet pSIDE 0)) ∧
  (∀ (c : Instr) (m : Master) (k : Nat) (s : State), c ∈ [Instr.sideSendData m k, .sideSendConnect m k,
    .sideSendBeacon m k,
      .sideSendWake m k] → s.Ok → m.holds rightConfig = true → k < 16 → s.fld (R.SIDE_TX_BUSY k) = 0 →
    s.fld (R.SIDE_TX_KIND k) ∈ [0, 1, 4, 5] → s.fld (R.SIDE_TX_LEN k) ≤ kindMax (s.fld (R.SIDE_TX_KIND k)) →
    s.radioOn = true → s.keyLoaded (s.fld (R.SIDE_TX_KEY k)) = true →
    s.bit R.SIDE_KEYSTAT_EXHAUSTED (s.fld (R.SIDE_TX_KEY k)) = false → Completes c s fun t =>
    t.fld (R.SIDE_TX_BUSY k) = 1 ∧ t.fld (R.SIDE_TX_RESULT k) = 0 ∧ t.mem = s.mem ∧
    t.side = { s.side with queue := s.side.queue ++ [s.slotFrame k (s.fld (R.SIDE_TX_KIND k))] } ∧
    Untouched [R.SIDE_TX_GO_SLOT, R.SIDE_TX_BUSY k, R.SIDE_TX_RESULT k, R.PG_LOCK_ARMED pSIDE] s t) ∧
  (∀ (c : Instr) (m : Master) (k : Nat) (x : SideLink) (s : State), c ∈ [Instr.sideSendLink m k,
    .sideSendTerminate m k] →
    s.Ok → m.holds rightConfig = true → k < 16 → s.fld (R.SIDE_TX_BUSY k) = 0 → s.fld (R.SIDE_TX_KIND k) ∈ [2, 3] →
    s.fld (R.SIDE_TX_LEN k) ≤ kindMax (s.fld (R.SIDE_TX_KIND k)) → s.link (s.fld (R.SIDE_TX_LINK k)) = some x →
    s.radioOn = true → s.keyLoaded x.key = true → s.bit R.SIDE_KEYSTAT_EXHAUSTED x.key = false →
      Completes c s fun t =>
    t.fld (R.SIDE_TX_BUSY k) = 1 ∧ t.fld (R.SIDE_TX_RESULT k) = 0 ∧ t.mem = s.mem ∧
    t.link (s.fld (R.SIDE_TX_LINK k)) = some (if s.fld (R.SIDE_TX_KIND k) = 2 then { x with queue := x.queue ++ [k] }
      else { x with term := some k }) ∧
    Untouched [R.SIDE_TX_GO_SLOT, R.SIDE_TX_BUSY k, R.SIDE_TX_RESULT k, R.PG_LOCK_ARMED pSIDE] s t) ∧
  (∀ (m : Master) (v : Word) (s : State), s.Ok → m.holds rightSecure = true →
    Completes (.radioRegionSet m v) s fun t =>
    (if s.variant ≠ .v16N ∧ s.fld R.SYS_STRAP_REGION = 3 ∧ s.region = 0 ∧ (v.toNat % 4 = 1 ∨ v.toNat % 4 = 2) then
      t.region = v.toNat % 4 ∧ t.irqSet pSIDEPHY 2 else t.region = s.region) ∧ RegsOnly s t ∧
    Untouched [R.SYS_RADIO_ACTIVE, R.PG_IRQ_RAW_BIT pSIDEPHY 2, R.PG_LOCK_ARMED pSYS] s t) ∧
  (∀ s : State, s.Ok → Completes .discoverySecond s fun t =>
    if s.radioOn = false then Unchanged s t
    else (∀ c ∈ s.discChannel.toList, t.shows R.SIDEPHY_STAT_CHANNEL c) ∧ RegsOnly s t ∧
      Untouched [R.SIDEPHY_STAT_CHANNEL] s t) ∧
  (∀ (m : Master) (s : State), s.Ok → s.variant ≠ .v16N → m.mayRead pSIDE 0x058 = true →
    Completes (.latchingRegisterRead m pSIDE 0x058) s fun t =>
    (match t.out with
      | [.readData w] => bits w.toNat 31 31 == b2n (s.discTime.2.2 ≠ 0) && bits w.toNat 30 29 == s.discTime.2.2
      | _ => false) = true) ∧
  (∀ (x y : SideTx) (rest : List SideTx) (ch : Nat) (s : State), s.Ok → s.radioOn = true →
    s.channelsOk s.discList = true →
    s.side.cur = none → s.side.queue = x :: rest → y = (if x.type = 1 then { x with payload := s.beaconPayload } else
      x) →
    s.discChannel = some ch → s.fitsSecond y = true → x.fc = none → (∀ k ∈ x.slot.toList, k < 16) →
    s.mayRadiate ch x.cls (s.ppduTime (psduLen y.payload.length)) = true → s.txCounter x.key + 1 < 0xFFFFFFFF →
    Completes (.sideTxStart .clean) s fun t =>
    t.side.queue = rest ∧ t.txCounter x.key = s.txCounter x.key + 1 ∧ Counted s t R.SIDEPHY_CNT_TX_N 1 ∧
    t.shows R.SIDEPHY_STAT_CHANNEL ch ∧ t.out.length = 1 ∧
    (if x.ackReq then t.side.cur = some { y with
        fc := some (s.txCounter x.key + 1), sent := x.sent + 1, awaiting := true, backoff := false, waited := false }
     else t.side.cur = none ∧ ∀ k ∈ x.slot.toList, t.fld (R.SIDE_TX_RESULT k) = resDone ∧
       t.fld (R.SIDE_TX_BUSY k) = 0) ∧
    SameOutside s.mem.mram t.mem.mram (0xA000 + 4 * x.key) 4) ∧
  (∀ (x y : SideTx) (rest : List SideTx) (ch : Nat) (s : State), s.Ok → s.radioOn = true →
    s.channelsOk s.discList = true →
    s.side.cur = none → s.side.queue = x :: rest → y = (if x.type = 1 then { x with payload := s.beaconPayload } else
      x) →
    s.discChannel = some ch → s.fitsSecond y = true → x.waited = false →
    s.mayRadiate ch x.cls (s.ppduTime (psduLen y.payload.length)) = false → Completes (.sideTxStart .clean) s fun t =>
    t.side.queue = rest ∧ t.side.cur = some { y with waited := true, awaiting := false, backoff := false } ∧
      t.mem = s.mem ∧
    t.out = [] ∧ (if s.region = 2 then Counted s t R.SIDEPHY_CNT_DWELL_N 1 else
      Counted s t R.SIDEPHY_CNT_BUDGET_N 1)) ∧
  (∀ (x y : SideTx) (rest : List SideTx) (ch : Nat) (s : State), s.Ok → s.radioOn = true →
    s.channelsOk s.discList = true →
    s.side.cur = none → s.side.queue = x :: rest → y = (if x.type = 1 then { x with payload := s.beaconPayload } else
      x) →
    s.discChannel = some ch → s.discTime.2.2 ≠ 0 →
    1000000 < s.discTime.2.1 + s.ppduTime (psduLen y.payload.length) +
      (if x.ackReq then 1200 + s.octetTime (s.fld R.SIDEPHY_CFG_PRE_LEN + 2) else 0) + 2000 →
    Completes (.sideTxStart .clean) s fun t =>
    t = { s with out := [], side := { s.side with queue := rest, cur := some { y with awaiting := false, backoff := false } } }) ∧
  (∀ s : State, s.Ok → s.radioOn = true → Completes (.sideTxStart .uncorrectable) s fun t =>
    t.hasFence pSIDE noUnit = true ∧ t.side = s.side ∧ t.mem = s.mem) ∧
  (∀ (e : Ecc) (s : State), s.radioOn = false → Completes (.sideTxStart e) s fun t => Unchanged s t) ∧
  (∀ (x : SideTx) (s : State), s.Ok → s.side.cur = some x → x.awaiting = true → (∀ k ∈ x.slot.toList, k < 16) →
    Completes .sideAckTimeout s fun t =>
    if x.sent ≤ s.fld R.SIDE_RETRY_RETRIES then
      t = { s with out := [], side := { s.side with cur := some { x with awaiting := false, backoff := true } } }
    else t.side.cur = none ∧ t.mem = s.mem ∧ ∀ k ∈ x.slot.toList, t.fld (R.SIDE_TX_RESULT k) = resNoAck ∧
      t.fld (R.SIDE_TX_BUSY k) = 0 ∧ Counted s t R.SIDE_CNT_NOACK_N 1) ∧
  (∀ s : State, (∀ x ∈ s.side.cur.toList, x.awaiting = false) → Completes .sideAckTimeout s fun t => Unchanged s t) ∧
  (∀ (x : SideTx) (ch fc : Nat) (s : State), s.Ok → s.radioOn = true → s.side.cur = some x → x.backoff = true →
    x.fc = some fc → x.ackReq = true → x.type ≠ 1 → s.fitsSecond x = true → s.discChannel = some ch →
    s.mayRadiate ch x.cls (s.ppduTime (psduLen x.payload.length)) = true → Completes .sideRetryBackoff s fun t =>
    t.side.cur = some { x with sent := x.sent + 1, awaiting := true, backoff := false, waited := false } ∧
      t.mem = s.mem ∧
    Counted s t R.SIDEPHY_CNT_TX_N 1 ∧ t.out.length = 1) ∧
  (∀ s : State, s.radioOn = false → Completes .sideRetryBackoff s fun t => Unchanged s t) ∧
  (∀ (k : Nat) (s : State), s.Ok → k < 16 → Completes (.sideDeadlineExpiry k) s fun t =>
    if s.fld (R.SIDE_TX_BUSY k) = 0 ∨ s.fld (R.SIDE_TX_DEADLINE_MS k) = 0 then Unchanged s t
    else t.fld (R.SIDE_TX_BUSY k) = 0 ∧ t.fld (R.SIDE_TX_RESULT k) = resExpired ∧ Counted s t R.SIDE_CNT_EXPIRED_N 1 ∧
      (∀ x ∈ t.side.queue, x.slot ≠ some k) ∧ t.mem = s.mem) ∧
  (∀ s : State, s.Ok → Completes .sideBeaconTimer s fun t =>
    let key := if s.fld R.SIDE_CFG_NET_ID = 0xFFFF then 0 else 1
    if s.radioOn = true ∧ s.fld R.SIDE_BEACON_PERIOD_S ≠ 0 ∧ s.keyLoaded key = true then
      t = { s with out := [], side := { s.side with queue := s.side.queue ++
        [{ slot := none, type := 1, ackReq := false, dst := 0xFFFF, key := key, cls := 1, payload := s.beaconPayload }] } }
    else Unchanged s t)

/-- R379, R380, R388, R394: reception. A frame refused is counted by its code and shown in SIDE_LAST except for
FILTER and REPLAY; FC above the last accepted is delivered, equal is a duplicate, below is a replay; a full FIFO of
entries refuses; firmware pops events and returns entries. R381, R384–R387: links. A CONNECT whose fields hold is
acknowledged and its ACK opens the link; each anchor counts an event and hops; a valid peer frame re-anchors; a
supervision timeout or a TERMINATE closes the link. Model's choices it rests on: assumption log, entries 12 and 35. -/
def Obligations.SideReceiving : Prop :=
  (∀ (src code : Nat) (s : State), s.Ok → Completes (.sideFrameRefused src code) s fun t =>
    if s.radioOn = true ∧ 1 ≤ code ∧ code ≤ 8 then
      Counted s t (sideCounter code) 1 ∧ RegsOnly s t ∧
      (if code = 3 ∨ code = 6 then Untouched [sideCounter code] s t
       else t.shows R.SIDE_LAST_SRC src ∧ t.shows R.SIDE_LAST_CODE code)
    else Unchanged s t) ∧
  (∀ (f : SideFrame) (ack : Bool) (s : State), s.Ok → s.radioOn = true → 1 ≤ f.payload.length →
    f.payload.length ≤ 103 →
    (ack = true → f.dst ≠ 0xFFFF) → s.sideFilter f = none → Completes (.sideDataReceive f ack) s fun t =>
    let last := s.rxCounter f.src f.key
    if f.fc < last then Counted s t R.SIDE_CNT_REPLAY_N 1 ∧ RegsOnly s t ∧ Untouched [R.SIDE_CNT_REPLAY_N] s t
    else if f.fc = last then Counted s t R.SIDE_CNT_DUP_N 1 ∧ t.mem = s.mem ∧ Untouched [R.SIDE_CNT_DUP_N] s t ∧
      t.side.ackDue = (if ack then some (f.net, f.src, f.key, f.fc) else s.side.ackDue)
    else (s.freeEntry = none → Counted s t R.SIDE_CNT_RX_FULL_N 1 ∧ t.mem = s.mem) ∧
      ∀ e ∈ s.freeEntry.toList, t.fld (R.SIDE_RX_FULL e) = 1 ∧ t.fld (R.SIDE_RX_TYPE e) = 2 ∧
        t.shows (R.SIDE_RX_SRC e) f.src ∧
        t.shows (R.SIDE_RX_FC e) f.fc ∧ t.shows (R.SIDE_RX_LEN e) f.payload.length ∧ t.irqSet pSIDE 1 ∧
        (s.side.events.length < 16 → t.side.events = s.side.events ++
          [(1, e, s.side.t0 + 1000 * (f.start + s.octetTime (s.fld R.SIDEPHY_CFG_PRE_LEN + 2)))]) ∧
        Counted s t R.SIDE_CNT_RX_OK_N 1 ∧ t.rxCounter f.src f.key = f.fc % 2 ^ 32 ∧
        t.side.ackDue = (if ack then some (f.net, f.src, f.key, f.fc) else s.side.ackDue)) ∧
  (∀ (f : SideFrame) (ack : Bool) (code : Nat) (s : State), s.Ok → s.radioOn = true → 1 ≤ f.payload.length →
    f.payload.length ≤ 103 → (ack = true → f.dst ≠ 0xFFFF) → s.sideFilter f = some code →
    Completes (.sideDataReceive f ack) s fun t => Counted s t (sideCounter code) 1 ∧ RegsOnly s t) ∧
  (∀ (f : SideFrame) (e : Nat) (s : State), s.Ok → s.radioOn = true → f.payload.length = 13 → f.dst = 0xFFFF →
    (f.payload.getD 0 0).toNat < 8 → s.sideFilter f = none → s.rxCounter f.src f.key < f.fc → s.freeEntry = some e →
      Completes (.sideBeaconReceive f) s fun t =>
    t.fld (R.SIDE_RX_FULL e) = 1 ∧ t.fld (R.SIDE_RX_TYPE e) = 1 ∧ Counted s t R.SIDE_CNT_RX_OK_N 1 ∧
    t.side.adopted = (if bitSet (beAt f.payload 0 1) 0 = true then some (beAt f.payload 3 6, beAt f.payload 9 4,
      f.start)
      else s.side.adopted)) ∧
  (∀ (f : SideFrame) (s : State), s.Ok → s.radioOn = true → f.payload.length ≠ 13 ∨ f.dst ≠ 0xFFFF ∨
    8 ≤ (f.payload.getD 0 0).toNat →
    Completes (.sideBeaconReceive f) s fun t =>
    Counted s t R.SIDE_CNT_FORMAT_N 1 ∧ t.shows R.SIDE_LAST_SRC f.src ∧ t.fld R.SIDE_LAST_CODE = 2 ∧ RegsOnly s t) ∧
  (∀ (f : SideFrame) (x : SideTx) (s : State), s.Ok → s.radioOn = true → f.payload = [] → s.sideFilter f = none →
    s.rxCounter f.src f.key < f.fc → s.side.cur = some x → x.awaiting = true → f.src = x.dst → x.fc = some f.acked →
    x.type ≠ 4 → (∀ k ∈ x.slot.toList, k < 16) → Completes (.sideAckReceive f) s fun t =>
    t.side.cur = none ∧ Counted s t R.SIDE_CNT_RX_OK_N 1 ∧ t.rxCounter f.src f.key = f.fc % 2 ^ 32 ∧
    ∀ k ∈ x.slot.toList, t.fld (R.SIDE_TX_RESULT k) = resDone ∧ t.fld (R.SIDE_TX_BUSY k) = 0) ∧
  (∀ (kind index at0 : Nat) (rest : List (Nat × Nat × Nat)) (m : Master) (s : State), s.Ok →
    m.holds rightRead = true →
    s.side.events = (kind, index, at0) :: rest → Completes (.sideEvtPop m) s fun t =>
    t.side = { s.side with events := rest } ∧ t.fld R.SIDE_EVT_VALID = 1 ∧ t.shows R.SIDE_EVT_KIND kind ∧
    t.shows R.SIDE_EVT_INDEX index ∧ t.out = [.readData (BitVec.ofNat 32 (t.fld R.SIDE_EVT))] ∧ t.mem = s.mem) ∧
  (∀ (m : Master) (s : State), s.Ok → m.holds rightRead = true → s.side.events = [] →
    Completes (.sideEvtPop m) s fun t =>
    t.out = [.readData 0] ∧ RegsOnly s t ∧ Untouched [R.SIDE_EVT] s t) ∧
  (∀ (m : Master) (e : Nat) (s : State), s.Ok → s.variant ≠ .v16N → e < 8 → m.holds rightConfig = true →
    Completes (.sideRxReturn m e) s fun t =>
    t.fld (R.SIDE_RX_FULL e) = 0 ∧ RegsOnly s t ∧ Untouched [R.SIDE_RX_FULL e, R.PG_LOCK_ARMED pSIDE] s t) ∧
  (∀ s : State, s.Ok → Completes .sidephyPllUnlock s fun t => t.hasFence pSIDEPHY noUnit = true ∧ FenceOnly s t) ∧
  (∀ s : State, s.Ok → Completes .sideCounterStoreFail s fun t => t.hasFence pSIDE noUnit = true ∧ FenceOnly s t) ∧
  (∀ (f : SideFrame) (s : State), s.Ok → s.radioOn = true → f.payload.length = 30 → s.sideFilter f = none →
    s.rxCounter f.src f.key < f.fc → Completes (.sideConnectReceive f) s fun t =>
    if (List.range 8).any (fun l => (s.link l).isNone) = true ∧ s.connectOk f.payload = true then
      t.side.ackDue = some (f.net, f.src, f.key, f.fc) ∧ t.side.connect = some (f.src, f.key, f.net,
        connectInfo f.payload) ∧
      Counted s t R.SIDE_CNT_RX_OK_N 1 ∧ t.rxCounter f.src f.key = f.fc % 2 ^ 32
    else Counted s t R.SIDE_CNT_LINKERR_N 1 ∧ t.side = s.side ∧ t.mem = s.mem) ∧
  (∀ (net dst key fc ch k n src : Nat) (i : ConnectInfo) (s : State), s.Ok → s.radioOn = true →
    s.side.ackDue = some (net, dst, key, fc) → s.discChannel = some ch →
      s.mayRadiate ch 0 (s.ppduTime (psduLen 4)) = true →
    s.txCounter key + 1 < 0xFFFFFFFF → s.side.connect = some (src, k, n, i) → src = dst →
    s.side.links = List.replicate 8 none → Completes .sideAckSend s fun t =>
    t.side.ackDue = none ∧ t.side.connect = none ∧ t.link 0 = some ⟨false, src, k, n, i, 0, false, 0, fc, none,
      [], none⟩ ∧
    t.fld (R.SIDE_LINK_STAT_UP 0) = 1 ∧ t.shows (R.SIDE_LINK_STAT_PEER 0) src ∧ t.bit R.SIDE_STATUS_LINKS 0 = true ∧
    Counted s t R.SIDEPHY_CNT_TX_N 1 ∧ t.txCounter key = s.txCounter key + 1) ∧
  (∀ s : State, s.side.ackDue = none → Completes .sideAckSend s fun t => Unchanged s t) ∧
  (∀ (l : Nat) (x : SideLink) (s : State), s.Ok → l < 8 → s.link l = some x → s.radioOn = true → x.central = false →
    Completes (.sideLinkAnchor l) s fun t =>
    let missed := if x.k = 0 ∨ x.heard = true then 0 else x.missed + 1
    t.link l = some { x with k := x.k + 1, heard := false, missed := missed } ∧
      t.shows (R.SIDE_LINK_STAT_EVENT l) x.k ∧
    t.shows (R.SIDE_LINK_TIME_MISSED l) missed ∧
    t.fld (R.SIDE_LINK_TIME_WIDEN_US l) = min 0xFFFF (s.widen x.info (missed + 1)) ∧
    (x.k = 0 → s.side.events.length < 16 → t.side.events = s.side.events ++ [(3, l, s.now)]) ∧
      t.shows R.SIDEPHY_STAT_CHANNEL (x.info.channel s.nch x.k) ∧
    t.mem = s.mem ∧ t.out = []) ∧
  (∀ (l : Nat) (x : SideLink) (s : State), s.Ok → l < 8 → s.link l = some x → s.radioOn = true → x.central = true →
    x.out = none → x.queue = [] → x.term = none → s.txCounter x.key + 1 < 0xFFFFFFFF →
    s.mayRadiate (x.info.channel s.nch x.k) 0 (s.ppduTime (psduLen 6)) = true →
      Completes (.sideLinkAnchor l) s fun t =>
    let missed := if x.k = 0 ∨ x.heard = true then 0 else x.missed + 1
    t.link l = some { x with k := x.k + 1, heard := false, missed := missed } ∧
      t.shows (R.SIDE_LINK_STAT_EVENT l) x.k ∧
    t.fld (R.SIDE_LINK_TIME_WIDEN_US l) = 0 ∧ t.shows R.SIDEPHY_STAT_CHANNEL (x.info.channel s.nch x.k) ∧
      t.out.length = 1 ∧
    Counted s t R.SIDEPHY_CNT_TX_N 1 ∧ t.txCounter x.key = s.txCounter x.key + 1) ∧
  (∀ (l : Nat) (s : State), s.link l = none ∨ s.radioOn = false →
    Completes (.sideLinkAnchor l) s fun t => Unchanged s t) ∧
  (∀ (l : Nat) (x : SideLink) (s : State), s.Ok → l < 8 → s.link l = some x → s.radioOn = true → x.central = false →
    x.heard = true → x.out = none → x.queue = [] → x.term = none →
    s.mayRadiate (x.info.channel s.nch (x.k - 1)) 0 (s.ppduTime (psduLen 6)) = true →
      s.txCounter x.key + 1 < 0xFFFFFFFF →
    Completes (.sideLinkReply l) s fun t =>
    t.out.length = 1 ∧ Counted s t R.SIDEPHY_CNT_TX_N 1 ∧ t.txCounter x.key = s.txCounter x.key + 1 ∧
      t.side.links = s.side.links) ∧
  (∀ (l : Nat) (s : State), s.radioOn = false → Completes (.sideLinkReply l) s fun t => Unchanged s t) ∧
  (∀ (l : Nat) (x : SideLink) (s : State), s.Ok → l < 8 → s.link l = some x → (∀ k ∈ x.queue, k < 16) →
    Completes (.sideLinkSupervisionTimeout l) s fun t =>
    t.link l = none ∧ t.fld (R.SIDE_LINK_STAT_UP l) = 0 ∧ t.bit R.SIDE_STATUS_LINKS l = false ∧
    Counted s t R.SIDE_CNT_LINK_LOST_N 1 ∧ t.irqSet pSIDE 2 ∧ t.mem = s.mem ∧
    ∀ k ∈ x.queue, t.fld (R.SIDE_TX_RESULT k) = resLinkLost ∧ t.fld (R.SIDE_TX_BUSY k) = 0) ∧
  (∀ (l : Nat) (s : State), s.link l = none → Completes (.sideLinkSupervisionTimeout l) s fun t => Unchanged s t) ∧
  (∀ (f : SideFrame) (l : Nat) (x : SideLink) (s : State), s.Ok → l < 8 → s.radioOn = true → f.payload = [] →
    s.sideFilter f = none → s.rxCounter f.src f.key < f.fc → s.linkFor f = some (l, x) → s.link l = some x →
      x.out = none →
    Completes (.sideLinkReceive f) s fun t =>
    t.link l = some { x with heard := true, missed := 0, ackFc := f.fc } ∧ t.fld (R.SIDE_LINK_TIME_MISSED l) = 0 ∧
    Counted s t R.SIDE_CNT_RX_OK_N 1 ∧ t.rxCounter f.src f.key = f.fc % 2 ^ 32) ∧
  (∀ (f : SideFrame) (l : Nat) (x : SideLink) (s : State), s.Ok → l < 8 → s.radioOn = true → f.payload = [] →
    s.sideFilter f = none → s.rxCounter f.src f.key < f.fc → s.linkFor f = some (l, x) → s.link l = some x →
    Completes (.sideTerminateReceive f) s fun t =>
    t.link l = none ∧ t.fld (R.SIDE_LINK_STAT_UP l) = 0 ∧ Counted s t R.SIDE_CNT_LINK_LOST_N 1)

/-! ## Anchor, boot and update (15, 16) -/

/-- R412: a GO before READY or while a command runs is ignored and counted, whichever command it asks; the request
words take what is written. The response is written whole when the command ends. R400, R403, R415, R423: what
refuses a command before its own checks. A command of M is refused with POLICY from any master but a hart in M-mode;
in DECOMMISSIONED all but six are; the fences refuse with FENCED or ENTROPY; a format that no command has is refused
with FORMAT. A refused request changes nothing (R397). Model's choices it rests on: assumption log, entry 13. -/
def Obligations.AnchorGates : Prop :=
  (∀ (m : Master) (tag : Nat) (p : List Byte) (f : AnchorFate) (active : Bool) (s : State), s.Ok →
    m.holds rightSecure = true →
    s.fld R.ANCHOR_STATUS_BUSY = 1 ∨ s.fld R.ANCHOR_STATUS_READY = 0 →
    ∀ c ∈ [Instr.getInfo m tag p f, .random m tag p f, .keyGen m tag p f, .keyImport m tag p f, .keyDestroy m tag p f,
      .keyPush m tag p f, .partyPromote m tag p f, .derive m tag p f, .cipher m tag p f, .hash m tag p f,
        .hmac m tag p f,
      .sign m tag p f, .verify m tag p f, .lcpAgree m tag p f, .lcpSign m tag p f, .meterSign m tag p f,
        .attest m tag p f,
      .getCert m tag p f, .lifecycle m tag p f, .fuse m tag p f, .tamper m tag p f active, .tableSeal m tag p f,
      .tableCheck m tag p f], Completes c s fun t =>
      Counted s t R.ANCHOR_CNT_REFUSED_N 1 ∧ RegsOnly s t ∧ t.out = [] ∧
      Untouched (R.PG_LOCK_ARMED pANCHOR :: R.ANCHOR_CNT_REFUSED_N :: (List.range 64).map R.ANCHOR_MBOX_REQ) s t) ∧
  (∀ s : State, s.anchor.resp = none → Completes .anchorCommandDone s fun t => Unchanged s t) ∧
  (∀ (resp : List Byte) (s : State), s.Ok → s.anchor.resp = some (resp, false) → resp.length ≤ 256 →
    Completes .anchorCommandDone s fun t =>
    let status := leAt resp 2 2
    t.pageBytes pANCHOR 0x200 64 = resp ++ List.replicate (256 - resp.length) 0 ∧
    t.fld R.ANCHOR_STATUS_BUSY = 0 ∧ t.fld R.ANCHOR_MBOX_CTRL_BUSY = 0 ∧ t.fld R.ANCHOR_MBOX_CTRL_DONE = 1 ∧
    t.fld R.ANCHOR_MBOX_CTRL_STATUS = status ∧ Counted s t R.ANCHOR_CNT_CMD_N 1 ∧
    Counted s t R.ANCHOR_CNT_REFUSED_N (if status = 0 then 0 else 1) ∧ t.irqSet pANCHOR 0 ∧
      t.anchor = { s.anchor with resp := none } ∧
    t.mem = s.mem ∧ t.fences = s.fences) ∧
  (∀ (resp : List Byte) (s : State), s.Ok → s.anchor.resp = some (resp, true) → s.anchorFenced causeEcc = false →
    Completes .anchorCommandDone s fun t => t.hasFence pANCHOR noUnit = true ∧ t.fld R.ANCHOR_STATUS_BUSY = 0) ∧
  (∀ (m : Master) (tag : Nat) (p : List Byte) (f : AnchorFate) (active : Bool) (s : State), s.Ok → AnchorIdle s →
    m.holds rightSecure = true → m.isMachine = false → p.length ≤ 248 → f ≠ .eccFails →
    ∀ c ∈ [(3, Instr.keyGen m tag p f), (4, .keyImport m tag p f), (5, .keyDestroy m tag p f), (7,
      .partyPromote m tag p f),
      (0x13, .lifecycle m tag p f), (0x14, .fuse m tag p f), (0x15, .tamper m tag p f active), (0x16,
        .tableSeal m tag p f)],
      Completes c.2 s fun t => AnchorAnswers t c.1 tag 3 [] ∧ t.anchor = { s.anchor with resp := t.anchor.resp } ∧
        t.mem = s.mem ∧
        Untouched mboxFlds s t) ∧
  (∀ (m : Master) (tag : Nat) (p : List Byte) (f : AnchorFate) (s : State), s.Ok → AnchorIdle s →
    m.holds rightSecure = true →
    s.anchor.lifecycle = 3 → p.length ≤ 248 → f ≠ .eccFails →
    ∀ c ∈ [(6, Instr.keyPush m tag p f), (8, .derive m tag p f), (9, .cipher m tag p f), (0xB, .hmac m tag p f),
      (0xC, .sign m tag p f), (0xE, .lcpAgree m tag p f), (0xF, .lcpSign m tag p f), (0x10, .meterSign m tag p f),
      (0x17, .tableCheck m tag p f), (3, .keyGen m tag p f), (0x16, .tableSeal m tag p f)],
      Completes c.2 s fun t => AnchorAnswers t c.1 tag 3 [] ∧ t.anchor = { s.anchor with resp := t.anchor.resp } ∧
        t.mem = s.mem) ∧
  (∀ (m : Master) (tag : Nat) (p : List Byte) (f : AnchorFate) (s : State), s.Ok → s.fld R.ANCHOR_STATUS_READY = 1 →
    s.fld R.ANCHOR_STATUS_BUSY = 0 → m.holds rightSecure = true → s.anchorFenced causeSelftest = true →
      p.length ≤ 248 →
    f ≠ .eccFails →
    ∀ c ∈ [(2, Instr.random m tag p f), (6, .keyPush m tag p f), (8, .derive m tag p f), (9, .cipher m tag p f),
      (0xA, .hash m tag p f), (0xB, .hmac m tag p f), (0xC, .sign m tag p f), (0xD, .verify m tag p f),
      (0xE, .lcpAgree m tag p f), (0xF, .lcpSign m tag p f), (0x10, .meterSign m tag p f), (0x11, .attest m tag p f),
      (0x12, .getCert m tag p f), (0x17, .tableCheck m tag p f)], Completes c.2 s fun t =>
        AnchorAnswers t c.1 tag 0xD [] ∧ t.anchor = { s.anchor with resp := t.anchor.resp }) ∧
  (∀ (m : Master) (tag : Nat) (p : List Byte) (f : AnchorFate) (s : State), s.Ok → s.fld R.ANCHOR_STATUS_READY = 1 →
    s.fld R.ANCHOR_STATUS_BUSY = 0 → m.isMachine = true → s.anchorFenced causeEntropy = true →
    s.anchorFenced causeSelftest = false → s.anchorFenced causeKeystore = false → p.length ≤ 248 →
    f ≠ .eccFails →
    ∀ c ∈ [(2, Instr.random m tag p f), (3, .keyGen m tag p f), (0xE, .lcpAgree m tag p f)],
      Completes c.2 s fun t => AnchorAnswers t c.1 tag 0xC [] ∧ t.anchor = { s.anchor with resp := t.anchor.resp }) ∧
  (∀ s : State, s.Ok → Completes .entropyHealthFail s fun t =>
    t.fld R.ANCHOR_STATUS_ENT_OK = 0 ∧ t.hasFence pANCHOR noUnit = true ∧ t.irqSet pANCHOR 2 ∧ FenceOnly s t ∧
    (s.hasFence pANCHOR noUnit = false → t.anchorFenced causeEntropy = true))

/-- R399, R401, R402, R405–R410, R415: GET_INFO and RANDOM; the generation, import and destruction of a key; pushes
and PARTY_PROMOTE; and derivation into the cache of 8 entries, of which the least recently used is replaced. Model's
choices it rests on: assumption log, entries 3, 5 and 13. -/
def Obligations.AnchorKeys : Prop :=
  (∀ (m : Master) (tag : Nat) (s : State), s.Ok → AnchorIdle s → m.holds rightSecure = true →
    Completes (.getInfo m tag [] .runs) s fun t =>
    AnchorAnswers t 1 tag 0 (leBytes 1 s.anchor.lifecycle ++ leBytes 1 s.anchor.level ++ [0, 0] ++
      leBytes 16 Config.unitId ++
      (List.range 19).flatMap fun n => leBytes 1 (if n = 0 then Config.hukType else (s.keySlot n).type) ++
        leBytes 1 (s.keySlot n).origin ++ leBytes 2 (s.keySlot n).attr ++ leBytes 4 (s.keySlot n).kver) ∧
    t.mem = s.mem ∧ t.anchor = { s.anchor with resp := t.anchor.resp } ∧ Untouched mboxFlds s t) ∧
  (∀ (m : Master) (tag n : Nat) (s : State), s.Ok → AnchorIdle s → m.holds rightSecure = true →
    s.anchor.lifecycle ≤ 3 → n ≤ 244 →
    Completes (.random m tag (leBytes 2 n) .runs) s fun t =>
    AnchorAnswers t 2 tag 0 (s.secret n) ∧ (s.secret n).length = n ∧ t.free = s.free + 1 ∧ Untouched mboxFlds s t) ∧
  (∀ (h tag n type attr : Nat) (s : State), s.Ok → AnchorIdle s → s.anchor.lifecycle ≠ 3 →
    1 ≤ type → type ≤ 5 → attr < 64 → (n = 2 ∧ type = 4) ∨ (11 ≤ n ∧ n ≤ 18) →
    Completes (.keyGen (.hart h true) tag (leBytes 1 n ++ leBytes 1 type ++ leBytes 2 attr) .runs) s fun t =>
    let key := s.secret (keyLen type)
    AnchorAnswers t 3 tag 0 (leBytes 4 (t.keySlot n).kver ++ if 4 ≤ type then t.slotPub n else []) ∧
    (n < s.anchor.slots.length → type = 4 ∨ type = 5 → t.slotPub n = Config.ecPublic type key) ∧
    t.anchor.slots = s.anchor.slots.set n ⟨type, 1, attr / 2 * 2 + 1,
      ((s.keySlot n).kver + 1) % 2 ^ 32, false, key, s.created⟩ ∧
    t.mem = s.mem ∧ Untouched mboxFlds s t) ∧
  (∀ (m : Master) (tag n type attr : Nat) (key : List Byte) (s : State), s.Ok → AnchorIdle s → m.isMachine = true →
    s.anchor.lifecycle ≠ 3 → 1 ≤ type → type ≤ 3 → attr < 64 → key.length = keyLen type → (3 ≤ n ∧ n ≤ 4 ∧ type = 1) ∨
      (11 ≤ n ∧ n ≤ 18 ∧ s.anchor.lifecycle = 1) →
    Completes (.keyImport m tag (leBytes 1 n ++ leBytes 1 type ++ leBytes 2 attr ++ key) .runs) s fun t =>
    AnchorAnswers t 4 tag 0 (leBytes 4 (t.keySlot n).kver) ∧
    t.anchor.slots = s.anchor.slots.set n ⟨type, 2, attr / 2 * 2 + 1,
      ((s.keySlot n).kver + 1) % 2 ^ 32, false, key, s.created⟩ ∧
    t.mem = s.mem ∧ t.party = s.party ∧ Untouched mboxFlds s t) ∧
  (∀ (m : Master) (tag k attr : Nat) (key : List Byte) (s : State), s.Ok → AnchorIdle s → m.isMachine = true →
    s.anchor.lifecycle ≠ 3 → k < 4 → attr < 64 → key.length = 16 →
    Completes (.keyImport m tag (leBytes 1 (5 + k) ++ [1] ++ leBytes 2 attr ++ key) .runs) s fun t =>
    AnchorAnswers t 4 tag 0 (leBytes 4 (t.keySlot (5 + k)).kver) ∧ t.anchor.slots = s.anchor.slots.set (5 + k)
      ⟨1, 2, attr / 2 * 2 + 1, ((s.keySlot (5 + k)).kver + 1) % 2 ^ 32, false, key, s.created⟩ ∧
    (18 < s.anchor.slots.length → t.slotKey (5 + k) = key ∧
      t.side.keys = s.side.keys.set k (some key) ∧ t.bit R.ANCHOR_PORTS_SIDE k = true ∧
        t.bit R.SIDE_KEYSTAT_LOADED k = true) ∧
    t.bit R.SIDE_KEYSTAT_EXHAUSTED k = false ∧ t.txCounter k = 0) ∧
  (∀ (m : Master) (tag st : Nat) (p : List Byte) (s : State), s.Ok → AnchorIdle s → m.isMachine = true →
    s.anchor.lifecycle ≠ 3 →
    (p, st) ∈ [([0, 1, 0, 0], 3), ([9, 4, 0, 0], 3), ([2, 1, 0, 0], 2), ([19, 1, 0, 0], 2), ([11, 6, 0, 0], 1), ([11,
      1, 0], 1)] →
    Completes (.keyGen m tag p .runs) s fun t => AnchorAnswers t 3 tag st [] ∧ t.anchor.slots = s.anchor.slots ∧
      t.mem = s.mem) ∧
  (∀ (m : Master) (tag n : Nat) (s : State), s.Ok → AnchorIdle s → m.isMachine = true → s.anchor.lifecycle ≠ 3 →
    n ∈ [2, 3, 4, 11, 12, 13, 14, 15, 16, 17, 18] → Completes (.keyDestroy m tag (leBytes 1 n) .runs) s fun t =>
    AnchorAnswers t 5 tag 0 [] ∧ t.anchor.slots = s.anchor.slots.set n { kver := (s.keySlot n).kver } ∧
      t.mem = s.mem ∧
    Untouched mboxFlds s t) ∧
  (∀ (m : Master) (tag : Nat) (s : State), s.Ok → AnchorIdle s → m.holds rightSecure = true → s.anchor.lifecycle ≠ 3 →
    Completes (.keyPush m tag [3] .runs) s fun t =>
    AnchorAnswers t 6 tag 0 [] ∧
      t.party = { s.party with keyCur := if s.slotFull 3 = true then some (s.keySlot 3).key else none } ∧
    t.fld R.ANCHOR_PORTS_PARTY_CURRENT = b2n (s.slotFull 3) ∧ t.mem = s.mem ∧
    Untouched (R.ANCHOR_PORTS_PARTY_CURRENT :: mboxFlds) s t) ∧
  (∀ (m : Master) (tag : Nat) (s : State), s.Ok → AnchorIdle s → m.isMachine = true → s.anchor.lifecycle ≠ 3 →
    Completes (.partyPromote m tag [] .runs) s fun t =>
    if s.slotFull 4 = true then
      AnchorAnswers t 7 tag 0 (leBytes 4 ((s.keySlot 3).kver + 1)) ∧ t.anchor.slots = (s.anchor.slots.set 3
        { s.keySlot 4 with kver := ((s.keySlot 3).kver + 1) % 2 ^ 32 }).set 4 { kver := (s.keySlot 4).kver } ∧
      t.party = { s.party with keyCur := some (s.keySlot 4).key, keyOther := none } ∧
        t.fld R.ANCHOR_PORTS_PARTY_CURRENT = 1 ∧
      t.fld R.ANCHOR_PORTS_PARTY_OTHER = 0 ∧ t.mem = s.mem
    else AnchorAnswers t 7 tag 4 [] ∧ t.party = s.party ∧ t.anchor.slots = s.anchor.slots) ∧
  (∀ (m : Master) (tag use h : Nat) (label context : List Byte) (s : State), s.Ok → AnchorIdle s →
    m.holds rightSecure = true →
    s.anchor.lifecycle ≠ 3 → use < 256 → h < 256 → 1 ≤ label.length → label.length ≤ 64 → 1 ≤ context.length →
      context.length ≤ 64 →
    Completes (.derive m tag (leBytes 2 h ++ leBytes 1 use ++ leBytes 1 label.length ++ leBytes 1 context.length ++
      [0, 0, 0] ++
      label ++ context) .runs) s fun t =>
    let parentKey := if h = 0 then Config.huk else (s.keySlot h).key
    let granted := use &&& (if h = 0 then 0x3C else (s.keySlot h).attr) &&& 0x3C
    t.anchor.slots = s.anchor.slots ∧ t.mem = s.mem ∧
    (h = 0 → label.take 3 ≠ [0x46, 0x57, 0x3A] → AnchorAnswers t 8 tag 7 []) ∧
    (18 < h → AnchorAnswers t 8 tag 2 []) ∧ (1 ≤ h → h ≤ 10 → AnchorAnswers t 8 tag 3 []) ∧
    (11 ≤ h → h ≤ 18 → s.slotFull h = false → AnchorAnswers t 8 tag 4 []) ∧
    ((h = 0 ∧ label.take 3 = [0x46, 0x57, 0x3A]) ∨ (11 ≤ h ∧ h ≤ 18 ∧ s.slotFull h = true ∧
      bitSet (s.keySlot h).attr 5 = true) →
      s.anchor.cache = List.replicate 8 none →
      t.anchor.cache = (List.replicate 8 none).set 0 (some ⟨h, label, context, granted, 1,
        Config.hmac256 parentKey ([0, 0, 0, 1] ++ label ++ [0] ++ context ++ [0, 0, 1, 0])⟩) ∧
      AnchorAnswers t 8 tag 0 (leBytes 2 ((s.anchor.gens.getD 0 0 % 255 + 1) * 256))))

/-- R413, R415, R417, R419, R420: the cipher, digest and signature commands, whose ranges lie in shared SRAM. What
an algorithm computes is that of its standard, which the model leaves open. Model's choices it rests on: assumption
log, entries 5 and 13. -/
def Obligations.AnchorAlgorithms : Prop :=
  (∀ (m : Master) (tag alg a n : Nat) (s : State), s.Ok → AnchorIdle s → m.holds rightSecure = true → alg = 1 ∨
    alg = 2 →
    a < 2 ^ 32 → n < 2 ^ 32 → Completes (.hash m tag (leBytes 1 alg ++ [0, 0, 0] ++ leBytes 4 a ++
      leBytes 4 n) .runs) s fun t =>
    let data := memRead s.mem.sram (a - 0x10000000) n
    t.mem = s.mem ∧ t.anchor = { s.anchor with resp := t.anchor.resp } ∧ Untouched mboxFlds s t ∧
    (if n ≠ 0 ∧ (a < 0x10000000 ∨ 0x10400000 < a + n) then AnchorAnswers t 0xA tag 8 []
     else AnchorAnswers t 0xA tag 0 (if alg = 1 then Config.sha256 data else Config.sha384 data))) ∧
  (∀ (m : Master) (tag h a n : Nat) (s : State), s.Ok → AnchorIdle s → m.holds rightSecure = true →
    s.anchor.lifecycle ≠ 3 →
    11 ≤ h → h ≤ 18 → a < 2 ^ 32 → n < 2 ^ 32 →
    Completes (.hmac m tag (leBytes 2 h ++ [0, 0] ++ leBytes 4 a ++ leBytes 4 n) .runs) s fun t =>
    t.mem = s.mem ∧ t.anchor = { s.anchor with resp := t.anchor.resp } ∧ Untouched mboxFlds s t ∧
    (if s.slotFull h = false then AnchorAnswers t 0xB tag 4 []
     else if (s.keySlot h).type ≠ 2 ∧ (s.keySlot h).type ≠ 3 then AnchorAnswers t 0xB tag 2 []
     else if bitSet (s.keySlot h).attr 4 = false then AnchorAnswers t 0xB tag 3 []
     else if n ≠ 0 ∧ (a < 0x10000000 ∨ 0x10400000 < a + n) then AnchorAnswers t 0xB tag 8 []
     else AnchorAnswers t 0xB tag 0 (Config.hmac256 (s.keySlot h).key (memRead s.mem.sram (a - 0x10000000) n)))) ∧
  (∀ (m : Master) (tag h mode tagLen src dst aadLen len : Nat) (iv : List Byte) (s : State), s.Ok → AnchorIdle s →
    m.holds rightSecure = true → s.anchor.lifecycle ≠ 3 → 11 ≤ h → h ≤ 18 → mode ∈ [1, 3] →
      iv.length = (if mode = 1 then 12 else 13) →
    1 ≤ tagLen → tagLen ≤ 16 → (s.keySlot h).type = 1 ∨ (s.keySlot h).type = 2 → bitSet (s.keySlot h).attr 3 = true →
    0x10000000 ≤ src → src + aadLen + len ≤ 0x10400000 → 0x10000000 ≤ dst → dst + len ≤ 0x10400000 →
    s.mem.sramBad = [] → Completes (.cipher m tag (leBytes 2 h ++ leBytes 1 mode ++ leBytes 1 tagLen ++
      leBytes 4 src ++ leBytes 4 dst ++
      leBytes 4 aadLen ++ leBytes 4 len ++ iv) .runs) s fun t =>
    let aad := memRead s.mem.sram (src - 0x10000000) aadLen
    let data := memRead s.mem.sram (src + aadLen - 0x10000000) len
    AnchorAnswers t 9 tag 0 ((Config.cipherTag mode (s.keySlot h).key iv aad data).take tagLen) ∧
    memRead t.mem.sram (dst - 0x10000000) len = Config.cipherData mode (s.keySlot h).key iv aad data ∧
    SameOutside s.mem.sram t.mem.sram (dst - 0x10000000) len ∧ t.mem = { s.mem with sram := t.mem.sram } ∧
    t.anchor = { s.anchor with resp := t.anchor.resp } ∧ Untouched mboxFlds s t) ∧
  (∀ (m : Master) (tag h mode src dst aadLen len : Nat) (iv : List Byte) (s : State), s.Ok → AnchorIdle s →
    m.holds rightSecure = true → s.anchor.lifecycle ≠ 3 → 11 ≤ h → h ≤ 18 → mode ∈ [2, 4] →
      iv.length = (if mode = 2 then 12 else 13) →
    (s.keySlot h).type = 1 ∨ (s.keySlot h).type = 2 → bitSet (s.keySlot h).attr 3 = true →
    0x10000000 ≤ src → src + aadLen + len + 16 ≤ 0x10400000 → 0x10000000 ≤ dst → dst + len ≤ 0x10400000 →
    memRead s.mem.sram (src + aadLen + len - 0x10000000) 16 ≠ Config.cipherTag mode (s.keySlot h).key iv
      (memRead s.mem.sram (src - 0x10000000) aadLen) (memRead s.mem.sram (src + aadLen - 0x10000000) len) →
    Completes (.cipher m tag (leBytes 2 h ++ leBytes 1 mode ++ [16] ++ leBytes 4 src ++ leBytes 4 dst ++
      leBytes 4 aadLen ++ leBytes 4 len ++ iv) .runs) s fun t =>
    AnchorAnswers t 9 tag 9 [] ∧ t.mem = s.mem ∧ t.anchor = { s.anchor with resp := t.anchor.resp }) ∧
  (∀ (m : Master) (tag h : Nat) (digest : List Byte) (s : State), s.Ok → AnchorIdle s → m.holds rightSecure = true →
    s.anchor.lifecycle ≠ 3 → 11 ≤ h → h ≤ 18 → (s.keySlot h).type = 4 → digest.length = 32 →
    Completes (.sign m tag (leBytes 2 h ++ digest) .runs) s fun t =>
    t.mem = s.mem ∧ t.anchor = { s.anchor with resp := t.anchor.resp } ∧ Untouched mboxFlds s t ∧
    (if bitSet (s.keySlot h).attr 2 = true then
      AnchorAnswers t 0xC tag 0 (Config.ecSign 4 (s.keySlot h).key digest (s.secret 32)) ∧ t.free = s.free + 1
     else AnchorAnswers t 0xC tag 3 [])) ∧
  (∀ (m : Master) (tag : Nat) (pub digest sig : List Byte) (s : State), s.Ok → AnchorIdle s →
    m.holds rightSecure = true →
    pub.length = 64 → digest.length = 32 → sig.length = 64 → Completes (.verify m tag ([0xFF, 4] ++ pub ++ digest ++
      sig) .runs) s fun t =>
    t.mem = s.mem ∧ t.anchor = { s.anchor with resp := t.anchor.resp } ∧ Untouched mboxFlds s t ∧
    AnchorAnswers t 0xD tag (if Config.ecValid 4 pub = false then 0xF else
      if Config.ecVerify 4 pub digest sig = true then 0 else 0xA) []) ∧
  (∀ (m : Master) (tag : Nat) (digest sig : List Byte) (s : State), s.Ok → AnchorIdle s → m.holds rightSecure = true →
    digest.length = 32 → sig.length = 64 → Completes (.verify m tag ([0x0A, 4] ++ digest ++ sig) .runs) s fun t =>
    t.mem = s.mem ∧ (if (s.keySlot 10).type = 0 then AnchorAnswers t 0xD tag 4 [] else (s.keySlot 10).type = 4 →
      (s.keySlot 10).key.length = 64 →
      AnchorAnswers t 0xD tag (if Config.ecVerify 4 (s.keySlot 10).key digest sig = true then 0 else 0xA) [])) ∧
  (∀ (m : Master) (tag session : Nat) (nonce eph : List Byte) (s : State), s.Ok → AnchorIdle s →
    m.holds rightSecure = true →
    s.anchor.lifecycle ≠ 3 → session < 2 ^ 32 → nonce.length = 16 → eph.length = 64 →
    Completes (.lcpAgree m tag (leBytes 4 session ++ nonce ++ eph) .runs) s fun t =>
    t.mem = s.mem ∧ t.anchor.slots = s.anchor.slots ∧ t.anchor.cache = s.anchor.cache ∧ Untouched mboxFlds s t ∧
    (Config.ecValid 4 eph = false → AnchorAnswers t 0xE tag 0xF [] ∧ t.anchor.sessions = s.anchor.sessions) ∧
    (Config.ecValid 4 eph = true → s.anchor.sessions.length ≤ 14 → (∀ e ∈ s.anchor.sessions, e.2.1 ≠ session) →
      let nonceM := s.drawn.secret 16
      let keys := Config.hmac256 (Config.ecdh (s.secret 32) eph) ([0, 0, 0, 1, 0x4C, 0x43, 0x50, 0x31, 0x20, 0x6B,
        0x65, 0x79, 0x73, 0] ++
        nonce ++ nonceM ++ beBytes 4 session ++ [0, 0, 1, 0])
      ∃ h1 ∈ [t.anchor.sessions.getD s.anchor.sessions.length (0, 0, [])],
        ∃ h2 ∈ [t.anchor.sessions.getD (s.anchor.sessions.length + 1) (0, 0, [])],
        t.anchor.sessions = s.anchor.sessions ++ [h1, h2] ∧ h1.2 = (session, keys.take 16) ∧
          h2.2 = (session, keys.drop 16) ∧
        h1.1 ≠ h2.1 ∧ 256 ≤ h1.1 ∧ 256 ≤ h2.1 ∧
        AnchorAnswers t 0xE tag 0 (nonceM ++ Config.ecPublic 4 (s.secret 32) ++ leBytes 2 h1.1 ++ leBytes 2 h2.1))) ∧
  (∀ (m : Master) (tag : Nat) (msg : List Byte) (s : State), s.Ok → AnchorIdle s → m.holds rightSecure = true →
    s.anchor.lifecycle ≠ 3 → 8 ≤ msg.length → msg.length ≤ 232 → Completes (.lcpSign m tag msg .runs) s fun t =>
    t.mem = s.mem ∧ t.anchor = { s.anchor with resp := t.anchor.resp } ∧ Untouched mboxFlds s t ∧
    (if msg.take 4 = [0x4C, 0x43, 1, 2] then
      AnchorAnswers t 0xF tag 0 (Config.ecSign 4 Config.identKey (Config.sha256 msg) (s.secret 32)) ∧
        t.free = s.free + 1
     else AnchorAnswers t 0xF tag 3 [])) ∧
  (∀ (m : Master) (tag seq : Nat) (s : State), s.Ok → AnchorIdle s → m.holds rightSecure = true →
    s.anchor.lifecycle ≠ 3 → s.slotFull 2 = true → seq < 2 ^ 32 →
      Completes (.meterSign m tag (leBytes 4 seq) .runs) s fun t =>
    t.mem = s.mem ∧ t.anchor = { s.anchor with resp := t.anchor.resp } ∧ Untouched mboxFlds s t ∧
    (if s.fld R.METER_ACC_STMT_CTRL_DONE = 1 ∧ s.fld R.METER_ACC_STMT_SEQ_SEQ = seq then
      AnchorAnswers t 0x10 tag 0 (Config.ecSign 4 (s.keySlot 2).key (Config.sha256 (s.pageBytes pMETERACC 0x400 117)) (s.secret 32))
     else AnchorAnswers t 0x10 tag 0xB [])) ∧
  (∀ (m : Master) (tag n : Nat) (nonce : List Byte) (s : State), s.Ok → AnchorIdle s → m.holds rightSecure = true →
    1 ≤ n → n ≤ 18 → nonce.length = 32 → Completes (.attest m tag (leBytes 1 n ++ [0, 0, 0] ++
      nonce) .runs) s fun t =>
    let st := s.attestation n nonce
    AnchorAnswers t 0x11 tag 0 (st ++ Config.ecSign 4 Config.identKey (Config.sha256 st) (s.secret 32)) ∧
    st.take 8 = [0x31, 0x53, 0x54, 0x41, 1] ++ leBytes 1 n ++ leBytes 1 (s.keySlot n).type ++
      leBytes 1 (s.keySlot n).origin ∧
    (s.upd.version.length = 6 → st.length = 180 ∧ (st.drop 48).take 32 = nonce) ∧
      (st.drop 16).take 16 = leBytes 16 Config.unitId ∧
    t.mem = s.mem ∧ t.anchor = { s.anchor with resp := t.anchor.resp } ∧ Untouched mboxFlds s t) ∧
  (∀ (m : Master) (tag off : Nat) (s : State), s.Ok → AnchorIdle s → m.holds rightSecure = true → off < 65536 →
    Completes (.getCert m tag (leBytes 2 off) .runs) s fun t =>
    AnchorAnswers t 0x12 tag 0 (leBytes 2 Config.identCert.length ++ (Config.identCert.drop off).take 240) ∧
    t.mem = s.mem ∧ t.anchor = { s.anchor with resp := t.anchor.resp } ∧ Untouched mboxFlds s t)

/-- R403, R415, R418, R421, R422: the lifecycle, which only moves forward; the fuses; the tamper level and latch;
and the sealing and check of the principal table. Model's choices it rests on: assumption log, entries 5 and 13. -/
def Obligations.AnchorPolicies : Prop :=
  (∀ (m : Master) (tag target : Nat) (s : State), s.Ok → AnchorIdle s → m.isMachine = true → s.anchor.lifecycle ≠ 3 →
    target < 256 →
    Completes (.lifecycle m tag (leBytes 1 target ++ [0, 0xA1, 0x5E]) .runs) s fun t =>
    (if target ≤ s.anchor.lifecycle ∨ 3 < target then
      AnchorAnswers t 0x13 tag 3 [] ∧ t.anchor = { s.anchor with resp := t.anchor.resp } ∧ t.mem = s.mem
     else AnchorAnswers t 0x13 tag 0 [] ∧ t.anchor.lifecycle = target ∧ t.fld R.ANCHOR_STATUS_LIFECYCLE = target ∧
      (target = 2 → t.anchor.slots = s.anchor.slots ∧ t.mem = s.mem) ∧
      (target = 3 → (∀ n ∈ [2, 3, 4, 5, 6, 7, 8, 11, 12, 13, 14, 15, 16, 17, 18], t.slotFull n = false) ∧
        (∀ n ∈ [1, 9, 10], t.keySlot n = s.keySlot n)))) ∧
  (∀ (m : Master) (tag : Nat) (pub : List Byte) (s : State), s.Ok → AnchorIdle s → m.isMachine = true →
    s.anchor.lifecycle ≠ 3 →
    pub.length = 64 → Completes (.fuse m tag ([1, 0, 0, 0] ++ pub) .runs) s fun t =>
    t.mem = s.mem ∧ Untouched mboxFlds s t ∧
    (if (s.keySlot 10).type ≠ 0 then AnchorAnswers t 0x14 tag 3 [] ∧ t.anchor.slots = s.anchor.slots
     else if Config.ecValid 4 pub = false then AnchorAnswers t 0x14 tag 0xF [] ∧ t.anchor.slots = s.anchor.slots
     else AnchorAnswers t 0x14 tag 0 [] ∧ t.anchor.slots = s.anchor.slots.set 10 ⟨4, 3, 1, 1, false, pub,
       s.created⟩)) ∧
  (∀ (m : Master) (tag : Nat) (s : State), s.Ok → AnchorIdle s → m.isMachine = true → s.anchor.lifecycle ≠ 3 →
    Completes (.fuse m tag [2, 0, 0, 0] .runs) s fun t =>
    t.mem = s.mem ∧ t.anchor.slots = s.anchor.slots ∧
    (if (s.keySlot 10).type = 0 ∨ s.anchor.img0Revoked = true then
      AnchorAnswers t 0x14 tag 3 [] ∧ t.anchor.img0Revoked = s.anchor.img0Revoked
     else AnchorAnswers t 0x14 tag 0 [] ∧ t.anchor.img0Revoked = true)) ∧
  (∀ (m : Master) (tag level : Nat) (active : Bool) (s : State), s.Ok → AnchorIdle s → m.isMachine = true →
    s.anchor.lifecycle ≠ 3 →
    level ≤ 3 → Completes (.tamper m tag ([1] ++ leBytes 1 level) .runs active) s fun t =>
    t.mem = s.mem ∧ t.anchor.slots = s.anchor.slots ∧
    (if s.anchor.lifecycle ≠ 1 ∧ level < s.anchor.level then AnchorAnswers t 0x15 tag 3 [] ∧
      t.anchor.level = s.anchor.level
     else AnchorAnswers t 0x15 tag 0 [] ∧ t.anchor.level = level ∧ t.fld R.ANCHOR_STATUS_TAMPER_LEVEL = level)) ∧
  (∀ (m : Master) (tag : Nat) (active : Bool) (s : State), s.Ok → AnchorIdle s → m.isMachine = true →
    s.anchor.lifecycle ≠ 3 →
    Completes (.tamper m tag [2, 0] .runs active) s fun t =>
    t.anchor.level = s.anchor.level ∧ (if active = true then AnchorAnswers t 0x15 tag 3 [] ∧ Untouched mboxFlds s t
     else AnchorAnswers t 0x15 tag 0 [] ∧ t.fld R.ANCHOR_TAMPER_STAT_LATCHED = 0 ∧
       t.fld R.ANCHOR_TAMPER_TIME_SEC = 0)) ∧
  (∀ (m : Master) (tag a n : Nat) (s : State), s.Ok → AnchorIdle s → m.isMachine = true → s.anchor.lifecycle = 1 →
    a < 2 ^ 32 → n < 2 ^ 32 → s.mem.sramBad = [] → Completes (.tableSeal m tag (leBytes 4 a ++
      leBytes 4 n) .runs) s fun t =>
    let table := memRead s.mem.sram (a - 0x10000000) n
    if n ≠ 0 ∧ (a < 0x10000000 ∨ 0x10400000 < a + n) then AnchorAnswers t 0x16 tag 8 [] ∧ t.mem = s.mem
    else if tableOk table = false then AnchorAnswers t 0x16 tag 1 [] ∧ t.mem = s.mem
    else if leAt table 8 4 ≤ s.anchor.serial then AnchorAnswers t 0x16 tag 0x10 [] ∧ t.mem = s.mem
    else AnchorAnswers t 0x16 tag 0 [] ∧ t.anchor.serial = leAt table 8 4 ∧
      memRead t.mem.sram (a - 0x10000000 + n - 32) 32 = tableMac table ∧
      SameOutside s.mem.sram t.mem.sram (a - 0x10000000 + n - 32) 32) ∧
  (∀ (m : Master) (tag a n : Nat) (s : State), s.Ok → AnchorIdle s → m.holds rightSecure = true →
    s.anchor.lifecycle ≠ 3 →
    a < 2 ^ 32 → n < 2 ^ 32 → Completes (.tableCheck m tag (leBytes 4 a ++ leBytes 4 n) .runs) s fun t =>
    let table := memRead s.mem.sram (a - 0x10000000) n
    t.mem = s.mem ∧ t.anchor = { s.anchor with resp := t.anchor.resp } ∧ Untouched mboxFlds s t ∧
    (if n ≠ 0 ∧ (a < 0x10000000 ∨ 0x10400000 < a + n) then AnchorAnswers t 0x17 tag 8 []
     else if tableOk table = false then AnchorAnswers t 0x17 tag 1 []
     else if table.drop (n - 32) ≠ tableMac table then AnchorAnswers t 0x17 tag 9 []
     else if leAt table 8 4 < s.anchor.serial then AnchorAnswers t 0x17 tag 0x10 []
     else AnchorAnswers t 0x17 tag 0 (leBytes 2 (leAt table 6 2) ++ leBytes 4 (leAt table 8 4))))

/-- R428, R429, R432: the boot flow waits for Anchor; the slot it chooses is tried once it is checked, a trial slot
with an attempt more; a slot that fails is FAILED and the next choice waits for its own check. R429, R433, R438,
R439: a confirmation ends the trial and outside one changes nothing; the request of base camp; the activation latch
armed and disarmed; and the ACTIVATE that only the acting summit sends. Model's choices it rests on: assumption log,
entries 14 and 36. -/
def Obligations.BootAndTrial : Prop :=
  (∀ (recOk : Bool) (s : State), s.upd.bootFlow = false ∨ s.fld R.ANCHOR_STATUS_READY = 0 →
    Completes (.bootImageChecked recOk) s fun t =>
    Unchanged s t) ∧
  (∀ (recOk : Bool) (s : State), s.Ok → s.upd.bootFlow = true → s.fld R.ANCHOR_STATUS_READY = 1 →
    s.upd.booting = none →
    s.fld R.SYS_STRAP_RECOVERY = 1 ∨ s.upd.baseReq = true ∨ s.bootCopyInForce = none →
      Completes (.bootImageChecked recOk) s fun t =>
    t.upd.booting = none ∧ t.upd.bootFlow = false ∧
    t.fld R.UPD_STATE_REASON = (if s.fld R.SYS_STRAP_RECOVERY = 1 then 3 else if s.upd.baseReq = true then 4 else 5) ∧
    (s.bootCheck 2 = true → t.fld R.UPD_STATE_BOOTED = 2) ∧
    (s.bootCheck 2 = false → t.fld R.UPD_STATE_BOOTED = 3 ∧ ∀ h ∈ t.harts, h.wfi = true) ∧
    t.mem.mram = s.mem.mram ∧ t.mem.nor = s.mem.nor ∧ (s.fld R.SYS_STRAP_RECOVERY = 0 → t.upd.baseReq = false)) ∧
  (∀ (x : Nat) (s : State), s.Ok → s.upd.bootFlow = true → s.fld R.ANCHOR_STATUS_READY = 1 → s.upd.booting = some x →
    x < 2 →
    s.recState x = 3 → Completes (.bootImageChecked true) s fun t =>
    (s.bootCheck x = true → t.fld R.UPD_STATE_BOOTED = x ∧ t.fld R.UPD_HEALTH_RUN = 0 ∧ t.upd.booting = none ∧
      t.upd.bootFlow = false ∧
      t.mem.mram = s.mem.mram ∧
      ∀ h ∈ t.harts, h.pc = 0x51000200 + 0x2000000 * x + leAt (s.norRead (0x1000000 + 0x2000000 * x) 512) 44 4 ∧
        h.wfi = false) ∧
    (s.bootCheck x = false → s.recState (1 - x) = 3 → t.upd.booting = some (1 - x) ∧ t.upd.bootFlow = true ∧
      t.harts = s.harts ∧
      t.fld R.UPD_STATE_REASON = 2 ∧ BootUpdated s t ∧
      ((t.bootCopy (bootTarget s)).getD (9 + x) 0).toNat = 4 ∧ leAt (t.bootCopy (bootTarget s)) 8 1 = 1 - x ∧
      leAt (t.bootCopy (bootTarget s)) 32 1 = 2) ∧
    (s.bootCheck x = false → s.recState (1 - x) ≠ 3 → t.upd.booting = some 2 ∧ t.fld R.UPD_STATE_REASON = 5 ∧
      leAt (t.bootCopy (bootTarget s)) 32 1 = 3)) ∧
  (∀ (x : Nat) (s : State), s.Ok → s.upd.bootFlow = true → s.fld R.ANCHOR_STATUS_READY = 1 → s.upd.booting = none →
    s.fld R.SYS_STRAP_RECOVERY = 0 → s.upd.baseReq = false → s.bootCopyInForce ≠ none → x = s.recActive % 2 →
      s.recState x = 2 →
    s.bootCheck x = false → s.recAttempts < s.recMax → s.recState (1 - x) = 3 →
      Completes (.bootImageChecked true) s fun t =>
    t.upd.booting = some (1 - x) ∧ t.fld R.UPD_STATE_REASON = 2 ∧ t.upd.bootFlow = true) ∧
  (∀ (s : State), s.Ok → s.fld R.UPD_HEALTH_RUN = 1 → Completes .updHealthHalf s fun t =>
    if s.inBivouac = true then Unchanged s t
    else t.shows R.UPD_HEALTH_REMAIN_S (s.recHealth / 2) ∧ t.irqSet pUPD 2 ∧ t.fld R.UPD_HEALTH_RUN = 1 ∧
      t.mem = s.mem ∧
      Untouched [R.UPD_HEALTH_REMAIN_S, R.PG_IRQ_RAW_BIT pUPD 2] s t) ∧
  (∀ s : State, s.fld R.UPD_HEALTH_RUN = 0 → Completes .updHealthHalf s fun t => Unchanged s t) ∧
  (∀ (m : Master) (v : Word) (s : State), s.Ok → m.holds rightSecure = true →
    Completes (.updConfirm m v true) s fun t =>
    if s.isArmed pUPD = true ∧ v.getLsbD 0 = true ∧ s.fld R.UPD_HEALTH_RUN = 1 then
      t.fld R.UPD_HEALTH_RUN = 0 ∧ BootUpdated s t ∧ leAt (t.bootCopy (bootTarget s)) (9 +
        s.fld R.UPD_STATE_BOOTED % 2) 1 = 3 ∧
      leAt (t.bootCopy (bootTarget s)) 11 1 = 0 ∧ leAt (t.bootCopy (bootTarget s)) 8 1 = s.recActive ∧
      leAt (t.bootCopy (bootTarget s)) (10 - s.fld R.UPD_STATE_BOOTED % 2) 1 = s.recState (1 - s.fld R.UPD_STATE_BOOTED % 2)
    else t.mem = s.mem ∧ t.upd = s.upd ∧ Untouched [R.PG_LOCK_ARMED pUPD] s t) ∧
  (∀ (m : Master) (v : Word) (s : State), s.Ok → m.holds rightSecure = true → Completes (.updBootreq m v) s fun t =>
    t.upd = { s.upd with baseReq := s.upd.baseReq || (s.isArmed pUPD && v.getLsbD 0) } ∧ t.mem = s.mem ∧
    t.fld (R.PG_LOCK_ARMED pUPD) = 0 ∧ Untouched [R.PG_LOCK_ARMED pUPD] s t) ∧
  (∀ (m : Master) (s : State), s.Ok → m.holds rightSecure = true →
    s.wide R.UPD_ACT_VER_LO_MINOR_PATCH R.UPD_ACT_VER_HI_MAJOR ≠ 0 → Completes (.updActArm m) s fun t =>
    t.fld R.PARTY_ACT_STAT_ARMED = 1 ∧ t.fld R.PARTY_ACT_LO_N_LO = s.fld R.UPD_ACT_LO_N_LO ∧
    t.fld R.PARTY_ACT_HI_N_HI = s.fld R.UPD_ACT_HI_N_HI ∧ t.mem = s.mem ∧ t.out = []) ∧
  (∀ (m : Master) (s : State), s.Ok → m.holds rightSecure = true → Completes (.updActDisarm m) s fun t =>
    t.fld R.PARTY_ACT_STAT_ARMED = 0 ∧ t.irqSet pUPD 1 ∧ t.mem = s.mem ∧ t.upd = s.upd ∧
    Untouched [R.PG_LOCK_ARMED pUPD, R.PARTY_ACT_STAT_ARMED, R.PG_IRQ_RAW_BIT pUPD 1] s t) ∧
  (∀ (m : Master) (t0 : Timing) (s : State), s.Ok → m.holds rightSecure = true → s.checkTiming = some t0 →
    Completes (.updPactSend m) s fun t =>
    let frame := s.wide R.UPD_PACT_LO_N_LO R.UPD_PACT_HI_N_HI
    if s.role ≠ roleSummit then t.fld R.UPD_PACT_CTRL_RESULT = 1 ∧ t.out = [] ∧
      Untouched [R.PG_LOCK_ARMED pUPD, R.UPD_PACT_CTRL_RESULT] s t
    else if frame * t0.den < s.nowFrame * t0.den + 2 * t0.num then
      t.fld R.UPD_PACT_CTRL_RESULT = 2 ∧ t.out = [] ∧ Untouched [R.PG_LOCK_ARMED pUPD, R.UPD_PACT_CTRL_RESULT] s t
    else t.fld R.UPD_PACT_CTRL_RESULT = 0 ∧
      (if s.wide R.UPD_PACT_VER_LO_MINOR_PATCH R.UPD_PACT_VER_HI_MAJOR = 0 then t.fld R.PARTY_ACT_STAT_ARMED = 0
       else t.shows R.PARTY_ACT_LO_N_LO frame ∧ t.shows R.PARTY_ACT_HI_N_HI (frame / 2 ^ 32) ∧
         t.fld R.PARTY_ACT_STAT_ARMED = 1))

/-- R434: the three steps of a transfer by firmware, its ends and its break; a step that another precedes is refused
with ORDER, and any while one runs with BUSY. R424: the FLASH commands — refused with their RESULT before they touch
the device, ignored while one runs —, and what an erase, a program and a verification leave of the NOR. Model's
choices it rests on: assumption log, entries 14 and 36. -/
def Obligations.UpdateAndFlash : Prop :=
  (∀ (m : Master) (recOk : Bool) (s : State), s.Ok → m.holds rightSecure = true → s.upd.op ≠ 0 →
    ∀ c ∈ [Instr.updCheckHdr m, .updCheckBody m, .updProgram m recOk], Completes c s fun t =>
      t.fld R.UPD_LAST_CODE = 0x0B ∧ Counted s t R.UPD_CNT_REFUSED_N 1 ∧ RegsOnly s t ∧
      Untouched [R.PG_LOCK_ARMED pUPD, R.UPD_LAST_CODE, R.UPD_CNT_REFUSED_N] s t) ∧
  (∀ (m : Master) (s : State), s.Ok → m.holds rightSecure = true → s.upd.op = 0 →
    Completes (.updCheckHdr m) s fun t =>
    t.upd = { s.upd with op := 1 } ∧ t.fld R.UPD_CTRL_BUSY = 1 ∧ t.fld R.UPD_LAST_STEP = 1 ∧
      t.fld R.UPD_PROGRESS_BYTES = 0 ∧
    t.mem = s.mem ∧ t.out = [] ∧
    Untouched [R.PG_LOCK_ARMED pUPD, R.UPD_CTRL_BUSY, R.UPD_LAST_STEP, R.UPD_PROGRESS_BYTES] s t) ∧
  (∀ (m : Master) (s : State), s.Ok → m.holds rightSecure = true → s.upd.op = 0 →
    Completes (.updCheckBody m) s fun t =>
    t.mem = s.mem ∧ (if s.fld R.UPD_STATE_XFER = 1 then t.upd.op = 2 ∧ t.fld R.UPD_CTRL_BUSY = 1 ∧
      t.fld R.UPD_LAST_STEP = 2
      else t.upd = s.upd ∧ t.fld R.UPD_LAST_CODE = 8 ∧ t.fld R.UPD_LAST_STEP = 2 ∧ Counted s t R.UPD_CNT_REFUSED_N 1 ∧
        t.irqSet pUPD 0)) ∧
  (∀ (m : Master) (s : State), s.Ok → m.holds rightSecure = true → s.upd.op = 0 →
    Completes (.updProgram m true) s fun t =>
    if s.fld R.UPD_STATE_XFER = 1 ∧ s.upd.bodyOk = true then
      t.upd = { s.upd with op := 3 } ∧ t.fld R.UPD_CTRL_BUSY = 1 ∧ t.fld R.UPD_LAST_STEP = 3 ∧ BootUpdated s t ∧
        t.mem.nor = s.mem.nor ∧
      (s.fld R.UPD_STATE_TARGET < 2 → leAt (t.bootCopy (bootTarget s)) (9 + s.fld R.UPD_STATE_TARGET) 1 = 0)
    else t.upd = s.upd ∧ t.mem = s.mem ∧ t.fld R.UPD_LAST_CODE = 8 ∧ Counted s t R.UPD_CNT_REFUSED_N 1) ∧
  (∀ (m : Master) (s : State), s.Ok → m.holds rightSecure = true → Completes (.updAbort m) s fun t =>
    if s.upd.op = 3 then t.upd = { s.upd with op := 0 } ∧ t.fld R.UPD_CTRL_BUSY = 0 ∧ t.irqSet pUPD 0 ∧
      t.mem.mram = s.mem.mram
    else t.upd = s.upd ∧ t.mem = s.mem ∧ Untouched [R.PG_LOCK_ARMED pUPD] s t) ∧
  (∀ (dev recOk : Bool) (s : State), s.upd.op = 0 → Completes (.updOperationDone dev recOk) s fun t =>
    Unchanged s t) ∧
  (∀ (dev recOk : Bool) (s : State), s.Ok → s.upd.op = 1 → Completes (.updOperationDone dev recOk) s fun t =>
    let code := s.stagedCode none
    t.fld R.UPD_LAST_CODE = code ∧ t.fld R.UPD_LAST_STEP = 1 ∧ t.fld R.UPD_CTRL_BUSY = 0 ∧ t.upd.op = 0 ∧
      t.irqSet pUPD 0 ∧
    t.mem.store = s.mem.store ∧ t.mem.nor = s.mem.nor ∧
    (code = 0 → t.fld R.UPD_STATE_XFER = 1 ∧ t.shows R.UPD_STATE_TARGET (s.targetSlot.getD 3) ∧
      t.upd.bodyLen = leNat (s.storeRead (imgHdrAddr + 40) 4) ∧ t.upd.bodyOk = false) ∧
    (code ≠ 0 → t.fld R.UPD_STATE_XFER = s.fld R.UPD_STATE_XFER ∧ Counted s t R.UPD_CNT_REFUSED_N 1)) ∧
  (∀ (dev recOk : Bool) (s : State), s.Ok → s.upd.op = 2 → Completes (.updOperationDone dev recOk) s fun t =>
    t.fld R.UPD_LAST_STEP = 2 ∧ t.fld R.UPD_CTRL_BUSY = 0 ∧ t.upd.op = 0 ∧ t.irqSet pUPD 0 ∧ t.mem.nor = s.mem.nor ∧
    (if s.stagedBodyOk = true then t.upd.bodyOk = true ∧ t.fld R.UPD_LAST_CODE = 0 ∧
      t.shows R.UPD_PROGRESS_BYTES s.upd.bodyLen ∧
      t.fld R.UPD_STATE_XFER = s.fld R.UPD_STATE_XFER
     else t.fld R.UPD_LAST_CODE = 9 ∧ t.fld R.UPD_STATE_XFER = 0 ∧ t.upd.bodyOk = false)) ∧
  (∀ (x a : Nat) (s : State), s.Ok → s.upd.op = 3 → x = s.fld R.UPD_STATE_TARGET → x < 2 →
    s.storeRangeBad imgHdrAddr (512 + s.upd.bodyLen) = false → s.upd.bodyLen ≤ 33553920 →
      Completes (.updOperationDone true true) s fun t =>
    t.fld R.UPD_LAST_CODE = 0 ∧ t.fld R.UPD_LAST_STEP = 6 ∧ t.fld R.UPD_STATE_XFER = 0 ∧ t.upd.op = 0 ∧
      BootUpdated s t ∧
    leAt (t.bootCopy (bootTarget s)) (9 + x) 1 = 1 ∧ Counted s t R.FLASH_CNT_ERASE_N 128 ∧
    t.norGet a = (if a < 0x1000000 + 0x2000000 * x ∨ 0x3000000 + 0x2000000 * x ≤ a then s.norGet a
      else if a < 0x1000200 + 0x2000000 * x + s.upd.bodyLen then memGet s.mem.store (imgHdrAddr + (a - (0x1000000 +
        0x2000000 * x)))
      else 0xFF)) ∧
  (∀ (recOk : Bool) (s : State), s.Ok → s.upd.op = 3 → Completes (.updOperationDone false recOk) s fun t =>
    t.fld R.UPD_LAST_CODE = 0x0A ∧ t.fld R.UPD_LAST_STEP = 5 ∧ t.fld R.UPD_CTRL_BUSY = 0 ∧ t.upd.op = 0 ∧
      t.mem.mram = s.mem.mram) ∧
  (∀ (m : Master) (v : Word) (s : State), s.Ok → m.holds rightSecure = true → s.fld R.FLASH_CTRL_GO = 1 →
    ∀ c ∈ [Instr.flashErase m v, .flashProgram m v, .flashVerify m v], Completes c s fun t =>
      t.upd = s.upd ∧ t.mem = s.mem ∧ Untouched [R.PG_LOCK_ARMED pFLASH] s t) ∧
  (∀ (m : Master) (v : Word) (s : State), s.Ok → m.holds rightSecure = true → s.fld R.FLASH_CTRL_GO = 0 →
    s.fld R.UPD_HEALTH_RUN = 0 →
    ∀ c ∈ [(1, Instr.flashErase m v), (2, .flashProgram m v), (3, .flashVerify m v)], Completes c.2 s fun t =>
      let r := flashCheck c.1 (s.fld R.FLASH_ADDR_ADDR) (s.fld R.FLASH_LEN_BYTES) (s.fld R.FLASH_SRC_ADDR) (v.getLsbD 30) s.storeSize
      t.fld R.FLASH_CTRL_OP = c.1 ∧ t.mem = s.mem ∧ t.out = [] ∧
      (if r = 0 then t.fld R.FLASH_CTRL_GO = 1 ∧
        t.upd = { s.upd with flash := some (c.1, s.fld R.FLASH_ADDR_ADDR, s.fld R.FLASH_LEN_BYTES, v.getLsbD 30, s.fld R.FLASH_SRC_ADDR) }
       else t.upd = s.upd ∧ t.fld R.FLASH_CTRL_GO = 0 ∧ t.fld R.FLASH_CTRL_RESULT = r ∧
         Counted s t R.FLASH_CNT_ERR_N 1 ∧ t.irqSet pFLASH 1)) ∧
  (∀ (m : Master) (v : Word) (s : State), m.holds rightSecure = true → s.fld R.FLASH_CTRL_GO = 0 →
    s.fld R.FLASH_LEN_BYTES ≠ 0 →
    s.fld R.FLASH_ADDR_ADDR < 0x5000000 → s.fld R.FLASH_ADDR_ADDR % 0x40000 = 0 →
      s.fld R.FLASH_LEN_BYTES ≤ 0x1000000 →
    Completes (.flashErase m v) s fun t => t.fld R.FLASH_CTRL_RESULT = 1 ∧ t.mem = s.mem ∧ t.upd = s.upd) ∧
  (∀ (dev : Bool) (s : State), s.upd.flash = none → Completes (.flashDone dev) s fun t => Unchanged s t) ∧
  (∀ (addr len src a : Nat) (store : Bool) (s : State), s.Ok → s.upd.flash = some (1, addr, len, store, src) →
    0 < len → 0x1000000 ≤ addr →
    Completes (.flashDone true) s fun t =>
    let n := (len + 0x3FFFF) / 0x40000
    t.norGet a = (if addr ≤ a ∧ a < addr + n * 0x40000 then 0xFF else s.norGet a) ∧ t.upd.flash = none ∧
      t.fld R.FLASH_CTRL_GO = 0 ∧
    t.fld R.FLASH_CTRL_RESULT = 0 ∧ Counted s t R.FLASH_CNT_ERASE_N n ∧ t.irqSet pFLASH 0 ∧
      t.mem = { s.mem with nor := t.mem.nor }) ∧
  (∀ (addr len src a : Nat) (s : State), s.Ok → s.upd.flash = some (2, addr, len, false, src) → 0 < len →
    0x1000000 ≤ addr →
    s.mem.sramBad = [] → Completes (.flashDone true) s fun t =>
    t.norGet a = (if addr ≤ a ∧ a < addr + len then s.norGet a &&& memGet s.mem.sram (src - 0x10000000 +
      (a - addr)) else s.norGet a) ∧
    t.upd.flash = none ∧ t.fld R.FLASH_CTRL_RESULT = 0 ∧ t.mem = { s.mem with nor := t.mem.nor }) ∧
  (∀ (addr len src : Nat) (s : State), s.Ok → s.upd.flash = some (3, addr, len, false, src) → 0 < len →
    s.mem.sramBad = [] →
    Completes (.flashDone true) s fun t =>
    t.mem = s.mem ∧ t.upd.flash = none ∧ t.fld R.FLASH_CTRL_GO = 0 ∧
    t.fld R.FLASH_CTRL_RESULT = (if s.norRead addr len = memRead s.mem.sram (src - 0x10000000) len then 0 else 4) ∧
    Untouched [R.FLASH_CTRL_GO, R.FLASH_CTRL_RESULT, R.FLASH_CNT_ERR_N, R.PG_IRQ_RAW_BIT pFLASH 0] s t)

/-! ## Resets and power (02, 17, 18) -/

/-- R442–R445, R355, R356, R421, R433: the sources of a SYSTEM and of a WARM reset and what each enters in the
record; a request held for its delay, replaced, cancelled or turned away; and a reset of equal or lower rank,
absorbed. Model's choices it rests on: assumption log, entry 37. -/
def Obligations.ResetSources : Prop :=
  (∀ (m : Master) (v : Word) (s : State), s.Ok → m.holds rightReset = true → s.isArmed pRST = false →
    ∀ c ∈ [Instr.resetRequest m v, .resetRequestCancel m v], Completes c s fun t =>
      RegsOnly s t ∧ Untouched [R.PG_LOCK_ARMED pRST] s t) ∧
  (∀ (m : Master) (v : Word) (s : State), s.Ok → m.holds rightReset = true → s.isArmed pRST = true →
    v.getLsbD 31 = true →
    (v.toNat / 2 ^ 28 % 4 = 1 ∧ v.toNat / 2 ^ 16 % 256 ∉ [0x12, 0x13, 0x16]) ∨
      (v.toNat / 2 ^ 28 % 4 = 2 ∧ v.toNat / 2 ^ 16 % 256 ∉ [0x20, 0x21]) →
    exec (.resetRequest m v) s = .fault (.unpredictable 443)) ∧
  (∀ (m : Master) (v : Word) (s : State), s.Ok → m.holds rightReset = true → s.isArmed pRST = true →
    v.getLsbD 31 = false ∨ v.toNat / 2 ^ 28 % 4 = 0 ∨ v.toNat / 2 ^ 28 % 4 = 3 →
    ∀ c ∈ [Instr.resetRequest m v, .resetRequestCancel m v], Completes c s fun t =>
      t.fld R.RST_REQ_STAT_PENDING = (if v.getLsbD 30 then 0 else s.fld R.RST_REQ_STAT_PENDING) ∧ t.rst = s.rst ∧
        RegsOnly s t ∧
      Untouched [R.PG_LOCK_ARMED pRST, R.RST_REQ_STAT_PENDING] s t) ∧
  (∀ (m : Master) (v : Word) (s : State), s.Ok → m.holds rightReset = true → s.isArmed pRST = true →
    v.getLsbD 31 = true →
    (v.toNat / 2 ^ 28 % 4 = 1 ∧ v.toNat / 2 ^ 16 % 256 ∈ [0x12, 0x13, 0x16]) ∨
      (v.toNat / 2 ^ 28 % 4 = 2 ∧ v.toNat / 2 ^ 16 % 256 ∈ [0x20, 0x21]) →
    ∀ c ∈ [Instr.resetRequest m v, .resetRequestCancel m v], Completes c s fun t =>
      t.fld R.RST_REQ_STAT_PENDING = 1 ∧ t.fld R.RST_REQ_STAT_SCOPE = v.toNat / 2 ^ 28 % 4 ∧
      t.shows R.RST_REQ_STAT_REMAIN_MS (v.toNat / 256 % 256) ∧
      t.rst = { s.rst with reqSource := v.toNat / 2 ^ 16 % 256, reqDetail := v.toNat % 256, reqNs := 0 } ∧
        t.mem = s.mem ∧ t.pins = s.pins ∧
      Untouched [R.PG_LOCK_ARMED pRST, R.RST_REQ_STAT_PENDING, R.RST_REQ_STAT_SCOPE, R.RST_REQ_STAT_REMAIN_MS] s t) ∧
  (∀ s : State, s.Ok → s.fld R.RST_REQ_STAT_PENDING = 0 → Completes .resetRequestDelayExpiry s fun t =>
    Unchanged s t) ∧
  (∀ s : State, s.Ok → s.fld R.RST_REQ_STAT_PENDING = 1 → s.fld R.RST_REQ_STAT_SCOPE = 2 → s.rst.waiting = none →
    s.rst.pfFlush = false →
    s.pwr.target = none → Completes .resetRequestDelayExpiry s fun t =>
    t.fld R.RST_REQ_STAT_PENDING = 0 ∧
    (s.rst.phase = .none → WarmReset s t s.rst.reqSource s.rst.reqDetail) ∧
    (s.rst.phase ≠ .none → t.rst = s.rst ∧ Counted s t R.RST_CNT_ABSORBED_N 1 ∧ t.irqSet pRST 3)) ∧
  (∀ s : State, s.Ok → s.fld R.RST_REQ_STAT_PENDING = 1 → s.fld R.RST_REQ_STAT_SCOPE = 1 → s.rst.waiting = none →
    s.rst.phase = .none ∨ s.rst.phase = .warm → Completes .resetRequestDelayExpiry s fun t =>
    (s.meter.running = false → SystemReset s t s.rst.reqSource s.rst.reqDetail) ∧
    (s.meter.running = true → s.rst.pfWarn = false →
      t.rst = { s.rst with waiting := some (s.rst.reqSource, s.rst.reqDetail) } ∧ t.fld R.RST_REQ_STAT_PENDING = 0) ∧
    (s.meter.running = true → s.rst.pfWarn = true → s.pfRuns = true →
      t.rst = { s.rst with waiting := some (s.rst.reqSource, s.rst.reqDetail) } ∧ t.meter = s.meter) ∧
    (s.meter.running = true → s.rst.pfWarn = true → s.pfRuns = false →
      SystemReset s t s.rst.reqSource s.rst.reqDetail)) ∧
  (∀ s : State, s.Ok → Completes .resetPinLow s fun t =>
    if s.pins.resetDriven = true ∨ s.power = 4 then Unchanged s t
    else if s.rst.phase = .cold ∨
      s.rst.phase = .system then t = { s with out := [], pins := { s.pins with resetLow := true } }
    else SystemReset s t 0x10 0 ∧ t.pins.resetLow = true) ∧
  (∀ s : State, s.Ok → Completes .wdtSysExpiry s fun t =>
    if s.fld R.WDT_SYS_CFG_EN = 1 ∧ s.power ≤ 1 ∧ s.rst.phase ≠ .cold ∧
      s.rst.phase ≠ .system then SystemReset s t 0x11 0
    else Unchanged s t) ∧
  (∀ s : State, s.Ok → Completes .wdtSysHalf s fun t =>
    if s.fld R.WDT_SYS_CFG_EN = 1 ∧ s.power ≤ 1 ∧ s.rst.phase ≠ .cold ∧ s.rst.phase ≠ .system then
      t.fld R.WDT_SYS_STAT_WARNED = 1 ∧ t.shows R.WDT_SYS_STAT_REMAIN_MS (s.fld R.WDT_SYS_CFG_TIMEOUT_MS / 2) ∧
        t.irqSet pWDT 0 ∧
      t = { s with regs := t.regs, out := [], posts := t.posts, rst := { s.rst with wdtNs := 0 } } ∧
      Untouched [R.WDT_SYS_STAT_WARNED, R.WDT_SYS_STAT_REMAIN_MS, R.PG_IRQ_RAW_BIT pWDT 0] s t
    else Unchanged s t) ∧
  (∀ (m : Master) (v : Word) (s : State), s.Ok → m.holds rightSecure = true → Completes (.wdtSysKick m v) s fun t =>
    t.wdt.armed = (v == 0xA5F0#32) ∧
      t = { s with regs := t.regs, out := t.out, posts := t.posts, wdt := t.wdt, rst := t.rst } ∧
    (if v = 0x5A0F#32 ∧ s.wdt.armed = true then
      t.shows R.WDT_SYS_STAT_REMAIN_MS (s.fld R.WDT_SYS_CFG_TIMEOUT_MS) ∧ t.fld R.WDT_SYS_STAT_WARNED = 0 ∧
      t.rst = { s.rst with wdtNs := 0 } ∧ Untouched [R.PG_LOCK_ARMED pWDT, R.WDT_SYS_STAT_REMAIN_MS,
        R.WDT_SYS_STAT_WARNED] s t
    else t.rst = s.rst ∧ Untouched [R.PG_LOCK_ARMED pWDT] s t)) ∧
  (∀ (h : Nat) (mmode : Bool) (v : Word) (s : State), s.Ok → h < 8 → (Master.hart h mmode).holds rightSecure = true →
    Completes (.wdtCoreKick (.hart h mmode) v) s fun t =>
    (t.hart h).wdtExpired = ((s.hart h).wdtExpired && v.toNat != 0x4B00 + h) ∧
    (∀ k ∈ List.range 8, k ≠ h → t.hart k = s.hart k) ∧ t.mem = s.mem ∧ Untouched [R.PG_LOCK_ARMED pWDT] s t) ∧
  (∀ (r : Nat) (w : Word) (s : State), s.Ok → (Master.lcp r).holds rightSecure = true →
    Completes (.wdtCoreKick (.lcp r) w) s fun t => t.harts = s.harts ∧ t.mem = s.mem ∧
      Untouched [R.PG_LOCK_ARMED pWDT] s t) ∧
  (∀ (h : Nat) (s : State), s.Ok → h < 8 → s.fld (R.WDT_CORE_CFG_EN.nth h) = 1 →
    s.power ≤ 1 ∨ (s.power = 2 ∧ s.fld R.PWR_STATE_CP_AWAKE = 1) → s.rst.phase = .none →
    (s.hart h).wdtExpired = false ∨ s.fld R.WDT_CORE_CFG_ACTION = 0 → Completes (.wdtCoreExpiry h) s fun t =>
    t.fld (R.WDT_CORE_STAT_EXPIRED.nth h) = 1 ∧ t.harts = s.harts.set h { s.hart h with wdtExpired := true } ∧
      t.irqSet pWDT 1 ∧ t.rst = s.rst ∧ t.mem = s.mem ∧
    (∀ k ∈ List.range 8, k ≠ h → t.hart k = s.hart k) ∧
    Untouched [R.WDT_CORE_STAT_EXPIRED.nth h, R.PG_IRQ_RAW_BIT pWDT 1] s t) ∧
  (∀ (h : Nat) (s : State), s.Ok → h < 8 → s.fld (R.WDT_CORE_CFG_EN.nth h) = 1 →
    s.power ≤ 1 ∨ (s.power = 2 ∧ s.fld R.PWR_STATE_CP_AWAKE = 1) → s.rst.phase = .none →
    (s.hart h).wdtExpired = true → s.fld R.WDT_CORE_CFG_ACTION = 1 → s.rst.waiting = none → s.rst.pfFlush = false →
      s.pwr.target = none →
    Completes (.wdtCoreExpiry h) s fun t => WarmReset s t 0x24 h) ∧
  (∀ s : State, s.Ok → s.rst.phase = .none → s.rst.waiting = none → s.rst.pfFlush = false → s.pwr.target = none →
    Completes .updHealthExpiry s fun t =>
    if s.fld R.UPD_HEALTH_RUN = 1 ∧ s.power ≠ 2 then WarmReset s t 0x23 0 else Unchanged s t) ∧
  (∀ (source : Nat) (s : State), s.Ok → source < 4 → Completes (.tamperEvent source true) s fun t =>
    t.anchor = { s.anchor with owed := true } ∧ t.fld (R.ANCHOR_TAMPER_STAT_SOURCE.nth source) = 1 ∧
    t.fld R.ANCHOR_TAMPER_STAT_LATCHED = 1 ∧ t.fld R.ANCHOR_TAMPER_STAT_UNPOWERED = 1 ∧
    t.fld R.ANCHOR_TAMPER_TIME_SEC = (if s.fld R.ANCHOR_TAMPER_STAT_LATCHED = 1 then s.fld R.ANCHOR_TAMPER_TIME_SEC else s.rtcSecs % 2 ^ 32) ∧
    t.mem = s.mem ∧ t.pins = s.pins ∧ t.rst = s.rst) ∧
  (∀ (source : Nat) (s : State), s.Ok → source < 4 → s.anchor.level = 0 →
    Completes (.tamperEvent source false) s fun t =>
    t.anchor = s.anchor ∧ t.rst = s.rst ∧ t.irqSet pANCHOR 1 ∧ t.fld (R.ANCHOR_TAMPER_STAT_SOURCE.nth source) = 1 ∧
    t.fld R.ANCHOR_TAMPER_STAT_LATCHED = 1) ∧
  (∀ (source : Nat) (s : State), s.Ok → source < 4 → 1 ≤ s.anchor.level → s.rst.phase = .none ∨ s.rst.phase = .warm →
    Completes (.tamperEvent source false) s fun t =>
    t.rst = { phase := .system } ∧ t.fld R.RST_LAST_CAUSE = 0x15 ∧ t.fld R.RST_LAST_SCOPE = 2 ∧
    t.fld R.RST_LAST_DETAIL = t.fld R.ANCHOR_TAMPER_STAT_SOURCE ∧ t.fld (R.ANCHOR_TAMPER_STAT_SOURCE.nth source) = 1 ∧
    t.fld R.ANCHOR_TAMPER_STAT_LATCHED = 1 ∧ t.pins.resetDriven = true ∧ t.pins.rstOutHigh = false)

/-- R58, R59, R442, R446, R447, R450, R451, R456: the supply's events, the drive of RESET_N and of RST_OUT_N, and
the release of a COLD, SYSTEM or WARM reset. Model's choices it rests on: assumption log, entries 17 and 37. -/
def Obligations.SupplyAndRelease : Prop :=
  (∀ (samples : List Nat) (s : State), s.Ok → s.rst.phase = .cold → s.pins.v3p3 = false → samples.length = 16 →
    Completes (.powerOn samples) s fun t =>
    let sorted := sortUp id (samples.map fun v => min 255 v)
    let adc := (sorted.getD 7 0 + sorted.getD 8 0) / 2
    t.pins = { s.pins with v3p3 := true, v1p8 := true, vioMv := t.pins.vioMv } ∧ Supplied s t ∧
      t.shows R.SYS_STRAP_ADC adc ∧ t.shows R.SYS_STRAP_WINDOW (adc / 16) ∧
    t.mem = s.mem ∧ t.rst = s.rst ∧
    Untouched [R.SYS_STRAP_ADC, R.SYS_STRAP_WINDOW, R.SYS_STRAP_REGION, R.SYS_STRAP_POSITION,
      R.SYS_STRAP_RECOVERY] s t) ∧
  (∀ (samples : List Nat) (s : State), s.Ok → s.power = 4 → s.rst.phase = .none → s.pins.v3p3 = false →
    samples.length = 16 → Completes (.powerOn samples) s fun t => Supplied s t ∧
      t.rst = { phase := .cold, cause := (0x01, 0) } ∧
      t.mem.ret = [] ∧ t.mem.mram = s.mem.mram) ∧
  (∀ (samples : List Nat) (s : State), s.Ok → s.pins.v3p3 = true ∨ (s.rst.phase ≠ .cold ∧ (s.power ≠ 4 ∨
    s.rst.phase ≠ .none)) →
    Completes (.powerOn samples) s fun t => Unchanged s t) ∧
  (∀ s : State, s.Ok → Completes .brownout s fun t =>
    if s.power = 4 ∧ s.rst.phase = .none then Unchanged s t
    else t.pins.v3p3 = false ∧ t.pins.v1p8 = false ∧ t.pins.vioMv = (s.pins.vioTie.map fun _ => 0) ∧
      t.pins.resetDriven = true ∧
      (if s.rst.phase = .cold then Counted s t R.RST_CNT_ABSORBED_N 1 ∧ t.irqSet pRST 3 ∧ t.mem = s.mem ∧
        t.rst = { s.rst with driveEnded := false }
       else ColdReset s t 0x02)) ∧
  (∀ s : State, s.Ok → s.power ≤ 2 → s.rst.phase = .none ∨ s.rst.phase = .warm → s.pwr.target = none →
    Completes .pfWarnRaised s fun t =>
    t.rst.pfWarn = true ∧ t.rst.phase = s.rst.phase ∧ t.fld R.CAIRN_CTRL_FREEZE = 0 ∧ t.pins = s.pins ∧
      t.mem.store = s.mem.store ∧ t.commit = s.commit) ∧
  (∀ s : State, s.Ok → 2 < s.power ∨ s.rst.phase = .cold ∨ s.rst.phase = .system →
    Completes .pfWarnRaised s fun t => Unchanged s t) ∧
  (∀ s : State, s.Ok → Completes .pfWarnReleased s fun t =>
    t = { s with out := [], rst := { s.rst with pfWarn := false }, meter := { s.meter with pfRepeat := false } }) ∧
  (∀ s : State, s.Ok → Completes .resetDriveEnd s fun t =>
    if s.pins.resetDriven = true ∧ (s.rst.phase = .system ∨ (s.rst.phase = .cold ∧ s.pins.v3p3 = true ∧
      s.pins.v1p8 = true)) then
      t = { s with out := [], pins := { s.pins with resetDriven := false }, rst := { s.rst with driveEnded := true } }
    else Unchanged s t) ∧
  (∀ (m : Master) (v : Word) (s : State), s.Ok → m.holds rightReset = true → Completes (.rstOutWrite m v) s fun t =>
    t.fld R.RST_OUT_RELEASE = (if v.getLsbD 0 then 1 else 0) ∧ t.mem = s.mem ∧
    (v.getLsbD 0 = false → t.pins = { s.pins with rstOutHigh := false } ∧ t.rst = { s.rst with outMinDone := false } ∧
      t.fld R.RST_OUT_PENDING = 0) ∧
    (v.getLsbD 0 = true → t.rst = s.rst ∧
      t.pins = { s.pins with rstOutHigh := s.pins.rstOutHigh || s.rst.outMinDone } ∧
      (s.pins.rstOutHigh = false → t.fld R.RST_OUT_PENDING = (if s.rst.outMinDone then 0 else 1))) ∧
    Untouched [R.PG_LOCK_ARMED pRST, R.RST_OUT_RELEASE, R.RST_OUT_PENDING] s t) ∧
  (∀ s : State, s.Ok → Completes .rstOutMinExpiry s fun t =>
    t.rst = { s.rst with outMinDone := true } ∧ t.mem = s.mem ∧ Untouched [R.RST_OUT_PENDING] s t ∧
      t.fld R.RST_OUT_PENDING = 0 ∧
    t.pins = { s.pins with rstOutHigh := s.pins.rstOutHigh || s.fld R.RST_OUT_PENDING == 1 }) ∧
  (∀ (late : List Nat) (recOk : Bool) (s : State), s.Ok → s.rst.phase = .none ∨ s.rst.phase = .warm ∨
    s.rst.driveEnded = false ∨
      (s.rst.phase = .cold ∧ (s.pins.v3p3 = false ∨ s.pins.v1p8 = false)) →
        Completes (.resetRelease late recOk) s fun t => Unchanged s t) ∧
  (∀ (late : List Nat) (recOk : Bool) (s : State), s.Ok → (s.rst.phase = .cold ∧ s.pins.v3p3 = true ∧
    s.pins.v1p8 = true) ∨ s.rst.phase = .system →
    s.rst.driveEnded = true → Completes (.resetRelease late recOk) s fun t =>
    t.rst.phase = .none ∧ t.rst.driveEnded = false ∧ (∀ p ∈ s.rst.down, p ∉ late → p ∉ t.rst.down) ∧
    (∀ p ∈ late, p ∈ s.rst.down → p ∈ t.rst.down) ∧ t.mem.sram = [] ∧ t.mem.tcm = [] ∧ t.mem.nor = s.mem.nor ∧
    t.codeWrites = [] ∧
    t.upd.bootFlow = true ∧ (∀ h ∈ List.range 8, (t.hart h).held = false ∧ (t.hart h).wfi = (h != 0)) ∧
    t.pins.rstOutHigh = s.pins.rstOutHigh ∧ t.pins.resetLow = false) ∧
  (∀ (late : List Nat) (recOk : Bool) (s : State), s.Ok → s.rst.phase = .cold → s.pins.v3p3 = true →
    s.pins.v1p8 = true →
    s.rst.driveEnded = true → s.rst.cause = (0x01, 0) →
    pCAIRN ∈ late → Completes (.resetRelease late recOk) s fun t =>
    ResetNoted { s with mem := { s.mem with ret := [] } } t 1 0x01 0 s.rtcSecs 0 (if s.rtcValid then 2 else 0)) ∧
  (∀ (recOk : Bool) (s : State), s.Ok → s.rst.phase ≠ .warm →
    Completes (.warmResetRelease recOk) s fun t => Unchanged s t) ∧
  (∀ (recOk : Bool) (s : State), s.Ok → s.rst.phase = .warm → s.upd.actDue = false →
    Completes (.warmResetRelease recOk) s fun t =>
    t.rst.phase = .none ∧ (∀ p ∈ controlPages, p ∉ t.rst.down) ∧ t.mem.sram = [] ∧ t.mem.tcm = [] ∧
      t.mem.store = s.mem.store ∧
    t.mem.nor = s.mem.nor ∧ t.upd.bootFlow = true ∧ t.anchor.warmStart = true ∧
    (∀ h ∈ List.range 8, (t.hart h).held = false ∧ (t.hart h).wfi = (h != 0)) ∧ t.ptp = s.ptp ∧ t.commit = s.commit ∧
    t.strands = s.strands ∧ t.rails = s.rails ∧ t.party = s.party ∧ t.pins = s.pins) ∧
  (∀ (recOk : Bool) (s : State), s.Ok → s.fld R.PARTY_ACT_STAT_ARMED = 0 →
    Completes (.activationDue recOk) s fun t => Unchanged s t) ∧
  (∀ (recOk : Bool) (s : State), s.Ok → s.fld R.PARTY_ACT_STAT_ARMED = 1 → s.gridRuns = true → 2 ≤ s.power →
    Completes (.activationDue recOk) s fun t =>
    t.fld R.PARTY_ACT_STAT_ARMED = 0 ∧ Counted s t R.UPD_CNT_ACT_MISSED_N 1 ∧ t.irqSet pUPD 3 ∧
      t.mem.mram = s.mem.mram ∧ t.rst = s.rst)

/-- R421, R449, R452–R455, R462, R534: BLOCK resets from the request through idle or the timeout to the release;
clock sources that are ready, late or lost; and the end of a start of Anchor. Model's choices it rests on:
assumption log, entry 37. -/
def Obligations.BlockResetsAndClocks : Prop :=
  (∀ (m : Master) (page : Nat) (s : State), s.Ok → m.holds (pageRight page) = true → page ∈ blockIgnored →
    s.pageAbsent page = false →
    Completes (.blockResetRequest m page) s fun t =>
    t.fld R.RST_BLK_LAST_VALID = 1 ∧ t.fld R.RST_BLK_LAST_IGNORED = 1 ∧ t.fld R.RST_BLK_LAST_PAGE = page ∧
    t.fld R.RST_BLK_LAST_FORCED = 0 ∧ t.rst = s.rst ∧ RegsOnly s t ∧
    Untouched [R.PG_LOCK_ARMED page, R.RST_BLK_LAST_VALID, R.RST_BLK_LAST_IGNORED, R.RST_BLK_LAST_PAGE,
      R.RST_BLK_LAST_FORCED,
      R.RST_BLK_LAST_IDLE_US] s t) ∧
  (∀ (m : Master) (page : Nat) (s : State), s.Ok → m.holds (pageRight page) = true → page ∉ blockIgnored →
    pageAssigned page = true →
    s.pageAbsent page = false → Completes (.blockResetRequest m page) s fun t =>
    (page ≠ pMETERACC → t.mem = s.mem) ∧
    (if page ∈ s.rst.down then t.rst = s.rst ∧ Counted s t R.RST_CNT_ABSORBED_N 1 ∧ t.irqSet pRST 3
     else t.fld R.RST_BLK_LAST_VALID = 1 ∧ t.fld R.RST_BLK_LAST_PAGE = page ∧ t.fld R.RST_BLK_LAST_IGNORED = 0 ∧
       t.rst = { s.rst with block := s.rst.block ++ [(page, 0, false)], down := s.rst.down ++ [page] } ∧
       t.fld (R.PG_CTRL_BRST_REQ page) = 1)) ∧
  (∀ (g k : Nat) (m : Master) (s : State), s.Ok → g < 4 → k < 12 → m.holds (pageRight (pSTR g)) = true →
    pSTR g ∉ s.rst.down →
    Completes (.blockResetRequest m (pSTR g)) s fun t => 12 * g + k ∉ t.pins.driving) ∧
  (∀ (page us : Nat) (s : State), s.Ok → page < 128 → (page, 0, false) ∉ s.rst.block ∨ s.pageBusy page = true →
    Completes (.blockIdleReached page us) s fun t => Unchanged s t) ∧
  (∀ (page us : Nat) (s : State), s.Ok → page ∈ displayPages ∨ page ∈ controlPages ∨ page = pMRAM → page ≠ pANCHOR →
    page ≠ pUPD → page ≠ pSCHED →
    page ∉ blockIgnored → (page, 0, false) ∈ s.rst.block → s.pageBusy page = false →
      Completes (.blockIdleReached page us) s fun t =>
    (page, 1, false) ∈ t.rst.block ∧ (page, 0, false) ∉ t.rst.block ∧ t.fld (R.PG_CTRL_BRST_REQ page) = 1 ∧
    t.fld R.RST_BLK_LAST_IDLE_US = min us 65535 ∧
    AtReset (fun g => g.page ≠ page || g.ofMeter) [R.PG_CTRL_BRST_REQ page, R.BELAY_STATUS_LEAD] t ∧
    Kept (fun g => g.page = page && g.ofMeter) [] s t ∧ t.fld R.BELAY_STATUS_LEAD = s.fld R.BELAY_STATUS_LEAD ∧
    (∀ f ∈ t.fences, f.page ≠ page) ∧ t.mem.store = s.mem.store ∧ t.mem.nor = s.mem.nor ∧
    (page ≠ pMETERAC → page ≠ pMETERDC → t.mem.mram = s.mem.mram)) ∧
  (∀ (page : Nat) (s : State), s.Ok → page < 128 → (page, 0, false) ∉ s.rst.block →
    Completes (.blockResetTimeout page) s fun t => Unchanged s t) ∧
  (∀ (page : Nat) (s : State), s.Ok → page ∈ displayPages ∨ page ∈ controlPages → page ≠ pANCHOR → page ≠ pUPD →
    page ≠ pSCHED →
    page ∉ blockIgnored → (page, 0, false) ∈ s.rst.block → Completes (.blockResetTimeout page) s fun t =>
    (page, 1, true) ∈ t.rst.block ∧ (page, 0, false) ∉ t.rst.block ∧ t.fld (R.PG_CTRL_BRST_REQ page) = 1 ∧
    t.fld R.RST_BLK_LAST_FORCED = 1 ∧ Counted s t R.RST_CNT_FORCED_N 1 ∧ t.irqSet pRST 1 ∧
    AtReset (fun g => g.page ≠ page || g.ofMeter) [R.PG_CTRL_BRST_REQ page, R.BELAY_STATUS_LEAD] t ∧
    Kept (fun g => g.page = page && g.ofMeter) [] s t ∧ t.fld R.BELAY_STATUS_LEAD = s.fld R.BELAY_STATUS_LEAD) ∧
  (∀ (page us : Nat) (s : State), s.Ok → page = pANCHOR ∨ page = pUPD ∨ page = pSCHED →
    (page, 0, false) ∈ s.rst.block → s.pageBusy page = false →
    Completes (.blockIdleReached page us) s fun t =>
    (page, 1, false) ∈ t.rst.block ∧ t.fld (R.PG_CTRL_BRST_REQ page) = 1 ∧ (page = pANCHOR →
      t.anchor = s.anchor.kept) ∧
    (page = pUPD → t.upd.op = 0) ∧ (page = pSCHED → t.sched = {})) ∧
  (∀ (page : Nat) (forced : Bool) (s : State), s.Ok → page = pI2C 0 ∨ page = pUART ∨ page = pGPIO ∨ page = pFAN ∨
    page = pTEMP ∨ page = pMRAM →
    s.rst.block = [(page, 1, forced)] → page ∉ s.rst.expired → (∀ f ∈ s.fences, f.page ≠ page) →
    Completes (.blockResetRelease page) s fun t =>
    t.rst = { s.rst with block := [], down := s.rst.down.filter (· ≠ page), lost := s.rst.lost.filter (· ≠ page)
                         expired := s.rst.expired.filter (· ≠ page) } ∧ t.fld (R.PG_CTRL_BRST_REQ page) = 0 ∧
    Counted s t R.RST_CNT_BLOCK_N 1 ∧ t.irqSet pRST 0 ∧ t.mem = s.mem ∧
    (if forced then ⟨page, noUnit, causeIdleTimeout⟩ ∈ t.fences else t.fences = s.fences)) ∧
  (∀ (p : Port) (s : State), s.Ok → (∀ f ∈ s.fences, f.page ≠ pNET p) → s.rst.block = [(pNET p, 1, false)] →
    pNET p ∉ s.rst.expired →
    s.rst.phase = .none → Completes (.blockResetRelease (pNET p)) s fun t =>
    t.rst.block = [] ∧ pNET p ∉ t.rst.down ∧ t.fld (R.PG_CTRL_BRST_REQ (pNET p)) = 0 ∧
      (∀ f ∈ t.fences, f.page ≠ pNET p) ∧
    (t.portEn p = true → t.cageEmpty p = false → (t.net p).acquiring = true) ∧
    Counted s t R.RST_CNT_BLOCK_N 1) ∧
  (∀ (page : Nat) (s : State), s.Ok → (∀ b ∈ s.rst.block, b.1 ≠ page ∨ b.2.1 ≠ 1) ∨ page ∈ s.rst.expired →
    Completes (.blockResetRelease page) s fun t => Unchanged s t) ∧
  (∀ (k : Nat) (s : State), s.Ok → k < 9 → Completes (.clockReady [k] []) s fun t =>
    t.fld (R.CLK_STAT_RUN.nth k) = 1 ∧ t.fld (R.CLK_STAT_READY.nth k) = 1 ∧ RegsOnly s t ∧
    Untouched [R.CLK_STAT_RUN.nth k, R.CLK_STAT_READY.nth k] s t) ∧
  (∀ (page : Nat) (s : State), s.Ok → page ∈ s.rst.down → page ∉ s.rst.expired → page ≠ pANCHOR → page ≠ pCAIRN →
    page ≠ pMETERACC → s.rst.block = [] → s.rst.phase = .none → Completes (.clockReady [] [page]) s fun t =>
    t.rst = { s.rst with down := s.rst.down.filter (· ≠ page), lost := s.rst.lost.filter (· ≠ page)
                         expired := s.rst.expired.filter (· ≠ page) } ∧
                           t.fld ((R.RST_HELD_HELD (page / 32)).nth (page % 32)) = 0 ∧ t.mem = s.mem) ∧
  (∀ (page : Nat) (s : State), s.Ok → page ∈ s.rst.expired → Completes (.clockReady [] [page]) s fun t =>
    t = { s with out := [], rst := { s.rst with lost := s.rst.lost.filter (· ≠ page) } }) ∧
  (∀ (k page : Nat) (s : State), s.Ok → k < 9 → page ∈ s.rst.down → page < 128 → (∀ f ∈ s.fences, f.page ≠ page) →
    Completes (.clockTimeout (some k) [page]) s fun t =>
    t.fld (R.CLK_FAIL_TIMEOUT.nth k) = 1 ∧ t.irqSet pCLK 0 ∧ t.irqSet pRST 2 ∧
      ⟨page, noUnit, causeClkTimeout⟩ ∈ t.fences ∧
    t.fld ((R.RST_HELD_HELD (page / 32)).nth (page % 32)) = 1 ∧
    t.rst = { s.rst with expired := page :: s.rst.expired.filter (· ≠ page) } ∧ t.mem.store = s.mem.store) ∧
  (∀ (k page : Nat) (s : State), s.Ok → k < 9 → page < 128 → pageAssigned page = true →
    (∀ f ∈ s.fences, f.page ≠ page) →
    Completes (.clockLoss k [page]) s fun t =>
    if s.bit R.CLK_STAT_READY k then
      t.fld (R.CLK_FAIL_LOSS.nth k) = 1 ∧ t.fld (R.CLK_STAT_READY.nth k) = 0 ∧ Counted s t R.CLK_CNT_LOSS_N 1 ∧
        t.irqSet pCLK 1 ∧
      ⟨page, noUnit, causeClkTimeout⟩ ∈ t.fences ∧ page ∈ t.rst.lost ∧ t.rst = { s.rst with lost := t.rst.lost } ∧
        t.mem.store = s.mem.store
    else Unchanged s t) ∧
  (∀ (entropy selftest header : Bool) (damaged : List Nat) (s : State), s.Ok → s.fld R.ANCHOR_STATUS_READY = 1 ∨
    pANCHOR ∈ s.rst.down →
    Completes (.anchorReady entropy selftest header damaged) s fun t => Unchanged s t) ∧
  (∀ s : State, s.Ok → s.fld R.ANCHOR_STATUS_READY = 0 → pANCHOR ∉ s.rst.down → s.anchor.owed = false →
    Completes (.anchorReady true true true []) s fun t =>
    t.fld R.ANCHOR_STATUS_READY = 1 ∧ t.anchor = s.anchor ∧ t.rst = s.rst ∧ t.fences = s.fences ∧ t.mem = s.mem) ∧
  (∀ s : State, s.Ok → s.fld R.ANCHOR_STATUS_READY = 0 → pANCHOR ∉ s.rst.down → s.anchor.owed = true →
    1 ≤ s.anchor.level →
    s.rst.phase = .none → Completes (.anchorReady true true true []) s fun t =>
    t.anchor.owed = false ∧ t.rst = { phase := .system } ∧ t.fld R.RST_LAST_CAUSE = 0x15 ∧
      t.fld R.ANCHOR_STATUS_READY = 0)

/-- R461, R463: REST entered and left by the harts' interrupts; the request of a power state, refused as INVALID or
while another runs, and its handshake, that ends with the acceptance of every page, the refusal of one or the
timeout. Model's choices it rests on: assumption log, entry 38. -/
def Obligations.PowerHandshake : Prop :=
  (∀ s : State, s.Ok → Completes .restEnter s fun t =>
    if s.power = 0 ∧ s.rst.phase = .none ∧ s.fld R.PWR_CFG_REST_EN = 1 ∧ s.anyWakes = false ∧
      (s.hart 0).held = false then
      t.power = 1 ∧ t.fld R.PWR_STATE_LAST = 0 ∧ (∀ h ∈ t.harts, h.wfi = true) ∧ t.irqSet pPWR 0 ∧ t.mem = s.mem ∧
        t.pins = s.pins ∧
      Untouched [R.PWR_STATE_STATE, R.PWR_STATE_LAST, R.PG_IRQ_RAW_BIT pPWR 0] s t
    else Unchanged s t) ∧
  (∀ s : State, s.Ok → Completes .restExit s fun t =>
    if s.power = 1 ∧ s.anyWakes = true then
      t.power = 0 ∧ t.fld R.PWR_STATE_LAST = 1 ∧ t.irqSet pPWR 0 ∧ t.mem = s.mem ∧ t.pins = s.pins ∧
      Untouched [R.PWR_STATE_STATE, R.PWR_STATE_LAST, R.PG_IRQ_RAW_BIT pPWR 0] s t
    else Unchanged s t) ∧
  (∀ (m : Master) (v : Word) (s : State), s.Ok → m.holds rightReset = true → s.isArmed pPWR = false ∨
    v.getLsbD 31 = false →
    Completes (.powerStateRequest m v) s fun t => t.pwr = s.pwr ∧ t.mem = s.mem ∧
      Untouched [R.PG_LOCK_ARMED pPWR] s t) ∧
  (∀ (m : Master) (v : Word) (s : State), s.Ok → m.holds rightReset = true → s.isArmed pPWR = true →
    v.getLsbD 31 = true →
    s.fld R.PWR_RESULT_BUSY = 1 → Completes (.powerStateRequest m v) s fun t =>
    t.pwr = s.pwr ∧ Counted s t R.PWR_CNT_REFUSED_N 1 ∧ RegsOnly s t ∧
      Untouched [R.PG_LOCK_ARMED pPWR, R.PWR_CNT_REFUSED_N] s t) ∧
  (∀ (m : Master) (v : Word) (s : State), s.Ok → m.holds rightReset = true → s.isArmed pPWR = true →
    v.getLsbD 31 = true →
    s.fld R.PWR_RESULT_BUSY = 0 → Completes (.powerStateRequest m v) s fun t =>
    let target := v.toNat % 8
    let may := (s.power ≤ 1 ∧ (target = 2 ∨ target = 3 ∨ target = 4)) ∨
      (s.power = 2 ∧ s.fld R.PWR_STATE_CP_AWAKE = 1 ∧ (target = 0 ∨ target = 2 ∨ target = 3 ∨ target = 4))
    t.power = s.power ∧ t.mem.store = s.mem.store ∧
    (¬ may → t.pwr = s.pwr ∧ t.fld R.PWR_RESULT_RESULT = 4 ∧ Counted s t R.PWR_CNT_REFUSED_N 1 ∧ t.mem = s.mem) ∧
    (may → target ≠ 0 → t.pwr.target = some target ∧ t.pwr.step = 1 ∧ t.pwr.force = v.getLsbD 30 ∧
      t.fld R.PWR_RESULT_BUSY = 1) ∧
    (may → target = 0 → t.pwr.target = some 0 ∧ t.pwr.step = 0 ∧ t.pwr.stage = 1 ∧ t.fld R.PWR_RESULT_BUSY = 1 ∧
      t.mem = s.mem)) ∧
  (∀ (target : Nat) (s : State), s.Ok → s.pwr.target = some target → s.pwr.step = 1 →
    Completes .powerHandshakeAccepted s fun t =>
    if s.pwrDelays target = true ∨ (s.pwrRefuses target s.pwr.force).isSome = true then Unchanged s t
    else t.pwr = { s.pwr with step := 2 } ∧ t.fld R.PWR_RESULT_AP = 1 ∧ t.mem = s.mem ∧
      (target = 3 ∨ target = 4 → t.fld R.RST_REQ_STAT_PENDING = 0) ∧
      Untouched [R.PWR_RESULT_AP, R.PWR_RESULT_PAGE, R.RST_REQ_STAT_PENDING] s t) ∧
  (∀ (target : Nat) (s : State), s.Ok → s.pwr.target = some target → s.pwr.step = 1 →
    Completes .powerHandshakeRefused s fun t =>
    let deep := target = 3 ∨ target = 4
    let page := if s.upd.op ≠ 0 then 0x44 else if s.fld R.FLASH_CTRL_GO = 1 then 0x45
      else if s.pwr.force = true ∨ (s.power = 2 ∧ target = 2) then 0 else if deep ∧ s.role ≠ 0 then 0x39
      else if s.fld R.BELAY_STATUS_RESYNC_BUSY = 1 ∨ (deep ∧ s.isLead = true ∧
        s.fld R.BELAY_STATUS_PARTNER_SEEN = 0) then 0x38 else 0
    if page = 0 then Unchanged s t
    else t.pwr = { s.pwr with target := none, step := 0 } ∧ t.fld R.PWR_RESULT_RESULT = 1 ∧
      t.fld R.PWR_RESULT_PAGE = page ∧
      t.fld R.PWR_RESULT_BUSY = 0 ∧ Counted s t R.PWR_CNT_REFUSED_N 1 ∧ t.irqSet pPWR 1 ∧ t.power = s.power ∧
        t.mem = s.mem) ∧
  (∀ s : State, s.Ok → Completes .powerHandshakeTimeout s fun t =>
    if s.pwr.target ≠ none ∧ s.pwr.step = 1 then
      t.pwr = { s.pwr with target := none, step := 0 } ∧ t.fld R.PWR_RESULT_RESULT = 2 ∧ t.fld R.PWR_RESULT_BUSY = 0 ∧
      Counted s t R.PWR_CNT_REFUSED_N 1 ∧ t.irqSet pPWR 1 ∧ t.power = s.power ∧ t.mem = s.mem
    else Unchanged s t)

/-- R465, R466, R470–R478: the steps of an entry to a power state, wake events, the DORMANT listener, and the four
stages of a return. Model's choices it rests on: assumption log, entry 38. -/
def Obligations.PowerEntryAndReturn : Prop :=
  (∀ s : State, s.Ok → s.pwr.target = none ∨ s.pwr.step < 2 ∨ s.pwr.stage ≠ 0 →
    Completes .powerEntryStep s fun t => Unchanged s t) ∧
  (∀ (target : Nat) (s : State), s.Ok → target ∈ [2, 3, 4] → s.pwr.target = some target → s.pwr.stage = 0 →
    s.power ≤ 1 → 2 ≤ s.pwr.step →
    s.pwr.step < 9 → Completes .powerEntryStep s fun t =>
    let k := s.pwr.step + 1
    t.pwr = { s.pwr with step := k, wasLead := t.pwr.wasLead } ∧ t.power = s.power ∧ t.mem.store = s.mem.store ∧
      t.mem.ret = s.mem.ret ∧
    t.mem.sram = s.mem.sram ∧
    (k = 3 → target ≠ 2 → s.isLead = true → t.pins.leadLow = false ∧ t.pwr.wasLead = true) ∧
    (k = 4 → t.pins.driving = []) ∧
    (k = 5 → target ≠ 2 → t.meter.running = false) ∧
    (k = 6 → t.pins.railEn = [] ∧ t.pins.railTrim = []) ∧
    (k = 7 → t.fld R.PWR_RESULT_AP = 2) ∧ (k = 8 → t.fld R.PWR_RESULT_AP = 3) ∧
    (k = 9 → target = 2 → t.storeCtl = { s.storeCtl with selfRefresh := true }) ∧
    (k = 9 → target ≠ 4 → ∀ b ∈ List.range 4,
      t.fld (R.PWR_RETSIG_CRC b) = crc32 (memRead s.mem.ret (2048 * b) 2048) % 2 ^ 32)) ∧
  (∀ s : State, s.Ok → s.pwr.target = some 2 → s.pwr.stage = 0 → s.power = 2 → s.pwr.step = 2 →
    Completes .powerEntryStep s fun t =>
    t.pwr = { s.pwr with step := 7 } ∧ t.fld R.PWR_RESULT_AP = 2 ∧ t.pins = s.pins ∧ t.mem = s.mem) ∧
  (∀ (target : Nat) (s : State), s.Ok → target ∈ [2, 3, 4] → s.pwr.target = some target → s.pwr.stage = 0 →
    s.pwr.step = 9 →
    Completes .powerEntryStep s fun t =>
    t.power = target ∧ t.pwr.target = none ∧ t.fld R.PWR_RESULT_AP = 4 ∧ t.fld R.PWR_RESULT_RESULT = 0 ∧
      t.fld R.PWR_RESULT_BUSY = 0 ∧
    t.fld R.PWR_STATE_CP_AWAKE = 0 ∧ (s.power ≠ target → t.fld R.PWR_STATE_LAST = s.power) ∧
      Counted s t R.PWR_CNT_ENTRY_N 1 ∧
    t.irqSet pPWR 0 ∧ t.mem.ret = s.mem.ret ∧ t.mem.store = s.mem.store ∧
    (target = 2 → t.harts = s.harts ∧ t.ptp = s.ptp ∧ t.pins = s.pins) ∧
    (target ≠ 2 → (∀ h ∈ t.harts, h.held = true) ∧ t.ptp = {} ∧ t.fld R.PARTY_ACT_STAT_ARMED = 0 ∧
      t.fld R.PARTY_ROLE_ROLE = 0 ∧
      t.pins.leadLow = false ∧ t.pins.v1p8 = false ∧ t.pins.v3p3 = (target == 3) ∧
        t.pins.rstOutHigh = s.pins.rstOutHigh ∧
      t.pins.pps = false)) ∧
  (∀ (source : Nat) (s : State), s.Ok → s.pwr.target = none → source < 7 →
    ¬ ((source = 0 ∨ source = 6) ∧ 2 ≤ s.power ∧ s.power ≤ 4) → ¬ (source = 1 ∧ s.power = 3) →
    ¬ ((source = 2 ∨ source = 3) ∧ (s.power = 2 ∨ s.power = 3)) → ¬ ((source = 4 ∨ source = 5) ∧ s.power = 2) →
    Completes (.wakeEvent source []) s fun t => Unchanged s t) ∧
  (∀ (source : Nat) (s : State), s.Ok → s.pwr.target = none → source = 0 ∨ source = 2 ∨ source = 3 → s.power = 2 ∨
    s.power = 3 →
    s.bit R.PWR_WAKE_EN_EN source = false → Completes (.wakeEvent source []) s fun t =>
    t.fld (R.PWR_WAKE_STAT_SEEN.nth source) = 1 ∧ RegsOnly s t ∧ Untouched [R.PWR_WAKE_STAT_SEEN.nth source] s t) ∧
  (∀ (source : Nat) (s : State), s.Ok → s.pwr.target = none → s.pwr.stage = 0 → s.pwr.resume = false → s.power = 3 →
    (source ≤ 3 ∧ s.bit R.PWR_WAKE_EN_EN source = true) ∨ source = 6 → Completes (.wakeEvent source []) s fun t =>
    t.fld (R.PWR_WAKE_STAT_SEEN.nth source) = 1 ∧ t.fld R.PWR_WAKE_STAT_FIRST = source ∧
    t.pwr = { s.pwr with stage := 1, retry := false, resume := false } ∧ t.power = 3 ∧ t.mem = s.mem ∧
    Untouched [R.PWR_WAKE_STAT_SEEN.nth source, R.PWR_WAKE_STAT_FIRST] s t) ∧
  (∀ (source : Nat) (s : State), s.Ok → s.pwr.target = none → s.pwr.stage = 0 → s.pwr.resume = false → s.power = 2 →
    s.pwr.frame = none →
    (source ∈ [0, 2, 3, 4, 5] ∧ s.bit R.PWR_WAKE_EN_EN source = true) ∨ source = 6 → s.fld R.PWR_STATE_CP_AWAKE = 0 →
    (∀ b ∈ List.range 4, s.fld (R.PWR_RETSIG_CRC b) = crc32 (memRead s.mem.ret (2048 * b) 2048)) →
      Completes (.wakeEvent source []) s fun t =>
    t.fld (R.PWR_WAKE_STAT_SEEN.nth source) = 1 ∧ t.fld R.PWR_WAKE_STAT_FIRST = source ∧
      t.fld R.PWR_STATE_CP_AWAKE = 1 ∧
    t.power = 2 ∧ t.mem = s.mem ∧ t.pwr = s.pwr ∧ t.pins = s.pins) ∧
  (∀ (b source : Nat) (s : State), s.Ok → s.pwr.target = none → s.pwr.stage = 0 → s.pwr.resume = false → s.power = 2 →
    s.pwr.frame = none →
    b < 3 → source = 6 → s.fld R.PWR_STATE_CP_AWAKE = 0 → Completes (.wakeEvent source [b]) s fun t =>
    (∀ a ∈ List.range 2048, memGet t.mem.ret (2048 * b + a) = 0) ∧ t.fld (R.AON_RETSTAT_LOST_BANK.nth b) = 1 ∧
      t.irqSet pPWR 2) ∧
  (∀ s : State, s.Ok → s.power ≤ 1 → s.pwr.target = some 3 → s.pwr.stage = 0 → s.pwr.step = 3 →
    s.pwr.wasLead = false →
    Completes (.wakeEvent 6 []) s fun t =>
    t.pwr.target = none ∧ t.pwr.step = 0 ∧ t.power = s.power ∧ t.fld R.PWR_RESULT_RESULT = 3 ∧
      t.fld R.PWR_RESULT_BUSY = 0 ∧
    Counted s t R.PWR_CNT_ABANDON_N 1 ∧ t.irqSet pPWR 1 ∧ t.mem = s.mem) ∧
  (∀ s : State, s.Ok → Completes .dormantListenWindow s fun t =>
    if s.power = 3 ∧
      s.fld R.PWR_DORM_RADIO_LISTEN_MS ≠ 0 then t = { s with out := [], pwr := { s.pwr with listening := true } }
    else Unchanged s t) ∧
  (∀ (f : SideFrame) (s : State), s.Ok → s.power = 3 → s.listenerOn = false →
    Completes (.sideWakeReceive f) s fun t => Unchanged s t) ∧
  (∀ (f : SideFrame) (s : State), s.Ok → s.power = 3 → s.listenerOn = true → f.payload = [] → f.dst = 0xFFFF →
    Completes (.sideWakeReceive f) s fun t => t.pwr = s.pwr ∧ t.side.ackDue = s.side.ackDue ∧ t.mem = s.mem) ∧
  (∀ (f : SideFrame) (s : State), s.Ok → s.power = 3 → s.listenerOn = true → f.payload = [] → f.dst ≠ 0xFFFF →
    s.sideFilter f = none → f.key < 2 →
    s.rxCounter f.src f.key < f.fc → f.fc < 2 ^ 32 → s.pwr.target = none → s.pwr.stage = 0 → s.pwr.resume = false →
    s.bit R.PWR_WAKE_EN_EN 1 = true → Completes (.sideWakeReceive f) s fun t =>
    t.pwr = { s.pwr with stage := 1, retry := false, resume := false } ∧
      t.side.ackDue = some (f.net, f.src, f.key, f.fc) ∧
    Counted s t R.SIDE_CNT_RX_OK_N 1 ∧ t.fld R.PWR_WAKE_STAT_FIRST = 1) ∧
  (∀ (f : SideFrame) (s : State), s.Ok → s.power ≠ 3 → s.radioOn = false →
    Completes (.sideWakeReceive f) s fun t => Unchanged s t) ∧
  (∀ (f : SideFrame) (s : State), s.Ok → s.power ≠ 3 → s.radioOn = true → f.payload = [] → s.sideFilter f = none →
    s.rxCounter f.src f.key < f.fc → f.fc < 2 ^ 32 → Completes (.sideWakeReceive f) s fun t =>
    Counted s t R.SIDE_CNT_RX_OK_N 1 ∧ t.side.ackDue = some (f.net, f.src, f.key, f.fc) ∧ t.pwr = s.pwr) ∧
  (∀ s : State, s.Ok → (∀ f ∈ s.fences, f.page ≠ pPWR) → Completes .returnRegulatorTimeout s fun t =>
    if s.pwr.stage = 1 ∧ s.pwr.retry = false then
      t.pwr = { s.pwr with retry := true } ∧ ⟨pPWR, noUnit, 0x0100⟩ ∈ t.fences ∧ t.irqSet pPWR 3 ∧ t.power = s.power ∧
        t.mem = s.mem
    else Unchanged s t) ∧
  (∀ s : State, s.Ok → Completes .regulatorStageRetry s fun t =>
    if s.pwr.stage = 1 then t = { s with out := [], pwr := { s.pwr with retry := false } } else Unchanged s t) ∧
  (∀ (us : Nat) (recOk : Bool) (s : State), s.Ok → s.pwr.stage = 1 → s.pwr.retry = false →
    Completes (.returnStageDone us [] recOk) s fun t =>
    t.pwr = { s.pwr with stage := 2 } ∧ t.fld R.PWR_STAGE_A_REG_US = min us 65535 ∧ t.mem = s.mem ∧
    (2 < s.power → t.pins.v1p8 = true ∧ t.pins.v3p3 = true) ∧ Untouched [R.PWR_STAGE_A_REG_US] s t) ∧
  (∀ (us : Nat) (recOk : Bool) (s : State), s.Ok → s.pwr.stage = 2 →
    Completes (.returnStageDone us [] recOk) s fun t =>
    t.pwr = { s.pwr with stage := 3 } ∧ t.fld R.PWR_STAGE_A_OSC_US = min us 65535 ∧ t.mem = s.mem ∧ t.pins = s.pins ∧
    (s.power = 2 → t.storeCtl = { s.storeCtl with selfRefresh := false } ∧ t.fld R.STORE_STATUS_WAKE_SCRUB = 1)) ∧
  (∀ (ms : Nat) (recOk : Bool) (s : State), s.Ok → s.pwr.stage = 3 → s.power ≤ 2 →
    Completes (.returnStageDone ms [] recOk) s fun t =>
    if s.fld R.STORE_STATUS_WAKE_SCRUB = 1 ∧ s.storeCtl.unusable = false then Unchanged s t
    else t.pwr = { s.pwr with stage := 4 } ∧ t.fld R.PWR_STAGE_B_MEM_MS = min ms 65535 ∧ t.mem = s.mem) ∧
  (∀ (ms : Nat) (recOk : Bool) (s : State), s.Ok → s.pwr.stage = 3 → s.power = 4 →
    Completes (.returnStageDone ms [] recOk) s fun t =>
    t.pwr = { stage := 4 } ∧ t.fld R.PWR_STAGE_B_MEM_MS = min ms 65535 ∧
    t.mem = { mram := s.mem.mram, mramBad := s.mem.mramBad, nor := s.mem.nor, bk := s.mem.bk } ∧
    t.power = 4 ∧ t.commit = {} ∧ t.party = {} ∧ t.rtc = s.rtc ∧ t.fences = []) ∧
  (∀ (ms : Nat) (recOk : Bool) (s : State), s.Ok → s.pwr.stage = 3 → s.power = 3 →
    (∀ b ∈ List.range 4, s.fld (R.PWR_RETSIG_CRC b) = crc32 (memRead s.mem.ret (2048 * b) 2048)) →
    Completes (.returnStageDone ms [] recOk) s fun t =>
    t.pwr = { stage := 4 } ∧
    t.mem = { ret := s.mem.ret, mram := s.mem.mram, mramBad := s.mem.mramBad, nor := s.mem.nor, bk := s.mem.bk } ∧
    t.power = 3 ∧ t.commit = {} ∧ t.party = {} ∧ t.rtc = s.rtc) ∧
  (∀ (us : Nat) (recOk : Bool) (s : State), s.Ok → s.pwr.stage = 4 → s.power = 2 → s.timing = none →
    Completes (.returnStageDone us [] recOk) s fun t =>
    t.power = 0 ∧ t.fld R.PWR_STATE_LAST = 2 ∧ t.pwr.stage = 0 ∧ t.pwr.resume = false ∧ t.fld R.PWR_RESULT_BUSY = 0 ∧
      t.irqSet pPWR 0) ∧
  (∀ (us n : Nat) (recOk : Bool) (s : State), s.Ok → s.pwr.stage = 4 → s.power = 2 →
    (s.timing.map fun x => x.cur s.ptp.ns) = some n →
    Completes (.returnStageDone us [] recOk) s fun t =>
    t.power = 2 ∧ t.pwr = { s.pwr with stage := 0, resume := true } ∧ t.fld R.PWR_STAGE_B_LOGIC_US = min us 65535) ∧
  (∀ (us : Nat) (recOk : Bool) (s : State), s.Ok → s.pwr.stage = 4 → s.power = 3 ∨ s.power = 4 →
    s.rst.down = [0x08, 0x20] →
    Completes (.returnStageDone us [] recOk) s fun t =>
    t.power = 0 ∧ t.fld R.PWR_STATE_LAST = s.power ∧ t.pwr = {} ∧ t.rst.down = [] ∧ t.irqSet pPWR 0 ∧
      t.mem.sram = [] ∧ t.mem.tcm = [] ∧
    t.upd.bootFlow = true ∧ (∀ h ∈ List.range 8, (t.hart h).held = false ∧ (t.hart h).wfi = (h != 0)) ∧
      t.mem.ret = s.mem.ret)

/-! ## Calendar clock and cairn (19, 20) -/

/-- R488: a set takes effect at once or waits for the PTP second; it cancels what is pending; a summer-time command
waits for the second boundary, is discarded while VALID is 0, and is not carried out where its result would leave
the range. Model's choices it rests on: assumption log, entries 6 and 39. -/
def Obligations.RtcSetsAndSummerTime : Prop :=
  (∀ (m : Master) (v : Word) (s : State), s.Ok → m.holds rightLive = true → v.getLsbD 31 = false →
    Completes (.rtcSet m v) s fun t =>
    t.rtc = s.rtc ∧ t.mem = s.mem ∧ t.out = [] ∧ Untouched [R.PG_LOCK_ARMED pRTC, R.RTC_SET_CTRL_AT_PTP] s t) ∧
  (∀ (m : Master) (v : Word) (s : State), m.holds rightLive = true → v.getLsbD 31 = true →
    rtcMax < s.wide R.RTC_SET_LO_S_LO R.RTC_SET_HI_S_HI →
    exec (.rtcSet m v) s = .fault (.unpredictable 488)) ∧
  (∀ (m : Master) (v : Word) (s : State), s.Ok → m.holds rightLive = true → v.getLsbD 31 = true →
    s.wide R.RTC_SET_LO_S_LO R.RTC_SET_HI_S_HI ≤ rtcMax → Completes (.rtcSet m v) s fun t =>
    let new := s.wide R.RTC_SET_LO_S_LO R.RTC_SET_HI_S_HI
    t.rtc.dst = none ∧ t.fld R.RTC_DST_PENDING = 0 ∧
    (v.getLsbD 0 = true → t.rtc.setTo = some new ∧ t.fld R.RTC_SET_CTRL_PENDING = 1 ∧ t.rtcS = s.rtcS ∧
      t.rtcValid = s.rtcValid ∧ t.mem = s.mem) ∧
    (v.getLsbD 0 = false → t.rtcS = new ∧ t.rtcValid = true ∧ t.fld R.RTC_SUBSEC_COUNT = 0 ∧
      t.fld R.AON_BKSTAT_OSC_FAIL = 0 ∧
      t.rtc.setTo = none ∧ t.fld R.RTC_SET_CTRL_PENDING = 0 ∧
      (s.rtcValid = false ∨ s.rtcS + 1 < new ∨ new + 1 < s.rtcS → t.irqSet pRTC 1))) ∧
  (∀ (v : Nat) (s : State), s.Ok → s.rtc.setTo = some v → v ≤ rtcMax → Completes .rtcSetAtPtpApply s fun t =>
    t.rtcS = v ∧ t.rtcValid = true ∧ t.fld R.RTC_SUBSEC_COUNT = 0 ∧ t.fld R.AON_BKSTAT_OSC_FAIL = 0 ∧
      t.rtc.setTo = none ∧
    t.fld R.RTC_SET_CTRL_PENDING = 0) ∧
  (∀ s : State, s.rtc.setTo = none → Completes .rtcSetAtPtpApply s fun t => Unchanged s t) ∧
  (∀ (m : Master) (clear : Bool) (s : State), s.Ok → m.holds rightLive = true →
    ∀ c ∈ [(true, Instr.rtcDstAdd m clear), (false, .rtcDstSub m clear)], Completes c.2 s fun t =>
      t.rtc = { s.rtc with dst := if s.rtcValid then some c.1 else s.rtc.dst } ∧ t.mem = s.mem ∧ t.rtcS = s.rtcS ∧
      t.fld R.RTC_DST_PENDING = (if s.rtcValid = true then 1 else s.fld R.RTC_DST_PENDING) ∧
      t.fld R.RTC_DST_OUT_OF_RANGE = (if clear then 0 else s.fld R.RTC_DST_OUT_OF_RANGE) ∧
      Untouched [R.PG_LOCK_ARMED pRTC, R.RTC_DST_PENDING, R.RTC_DST_OUT_OF_RANGE] s t) ∧
  (∀ (add : Bool) (s : State), s.Ok → s.rtcRuns = true → s.rtc.dst = some add → s.rtcS < rtcMax →
    Completes .rtcDstApply s fun t =>
    let a := s.rtcS
    t.rtc.dst = none ∧ t.fld R.RTC_DST_PENDING = 0 ∧ t.fld R.RTC_SUBSEC_COUNT = 0 ∧
    (if (add = true ∧ a + 3601 ≤ rtcMax) ∨ (add = false ∧ 3600 ≤ a + 1) then
      t.rtcS = (if add then a + 1 + 3600 else a + 1 - 3600) ∧ t.fld R.RTC_DST_DST = b2n add ∧ t.irqSet pRTC 3 ∧
        t.irqSet pRTC 1 ∧
      t.fld R.RTC_DST_OUT_OF_RANGE = s.fld R.RTC_DST_OUT_OF_RANGE
     else t.rtcS = a + 1 ∧ t.fld R.RTC_DST_OUT_OF_RANGE = 1 ∧ t.fld R.RTC_DST_DST = s.fld R.RTC_DST_DST)) ∧
  (∀ s : State, s.rtcRuns = false ∨ s.rtc.dst = none → Completes .rtcDstApply s fun t => Unchanged s t)

/-- R484, R490, R491: an alarm fires when counting reaches its target, and what an adjustment from a to b does to
each alarm; the end of the range, at which the clock stops. R479, R480, R482, R483, R486, R487: the discipline of
the trim; the switch of the backup supply, and what its loss clears; the failure of the crystal; and the measured
battery. Model's choices it rests on: assumption log, entries 6 and 39. -/
def Obligations.RtcAlarmsAndBackup : Prop :=
  (∀ (k : Nat) (s : State), s.Ok → k < 4 → s.rtcRuns = true → s.almArmed k = true → s.rtcS < s.almT k →
    s.almT k ≤ rtcMax →
    Completes (.rtcAlarmFire k) s fun t =>
    let p := s.fld (R.RTC_ALM_CTRL_PERIOD_S k)
    t.rtcS = s.almT k ∧ t.bit R.RTC_ALM_STAT_FIRED k = true ∧ t.irqSet pRTC 0 ∧
      t.fld R.RTC_ALM_STAT_SKIPPED = s.fld R.RTC_ALM_STAT_SKIPPED ∧
    (p = 0 → t.fld (R.RTC_ALM_CTRL_DONE k) = 1 ∧ t.almT k = s.almT k) ∧ (p ≠ 0 → t.almArmed k = true ∧
      t.almT k = s.almT k + p) ∧ t.mem = s.mem) ∧
  (∀ (k : Nat) (s : State), s.rtcRuns = false ∨ s.almArmed k = false ∨ s.almT k ≤ s.rtcS ∨ rtcMax < s.almT k →
    Completes (.rtcAlarmFire k) s fun t => Unchanged s t) ∧
  (∀ (m : Master) (k a b : Nat) (s : State), s.Ok → k < 4 → m.holds rightLive = true →
    a = (if s.rtcValid then s.rtcS else 0) →
    b = s.wide R.RTC_SET_LO_S_LO R.RTC_SET_HI_S_HI → b ≤ rtcMax → Completes (.rtcSet m 0x80000000#32) s fun t =>
    let al := s.almT k
    let p := s.fld (R.RTC_ALM_CTRL_PERIOD_S k)
    (a < al → al < b → s.almArmed k = true → t.bit R.RTC_ALM_STAT_FIRED k = true ∧
      t.bit R.RTC_ALM_STAT_SKIPPED k = true ∧
      t.irqSet pRTC 0 ∧ (p = 0 → t.fld (R.RTC_ALM_CTRL_DONE k) = 1) ∧
      (p ≠ 0 → b < t.almT k ∧ t.almT k ≤ b + p ∧ (t.almT k - al) % p = 0)) ∧
    (a < b → al = b → s.almArmed k = true → t.bit R.RTC_ALM_STAT_FIRED k = true ∧
      t.bit R.RTC_ALM_STAT_SKIPPED k = s.bit R.RTC_ALM_STAT_SKIPPED k ∧ (p ≠ 0 → t.almT k = b + p)) ∧
    (b < a → s.fld (R.RTC_ALM_CTRL_REARM_BACK k) = 1 → p = 0 → s.fld (R.RTC_ALM_CTRL_DONE k) = 1 → b < al → al ≤ a →
      t.fld (R.RTC_ALM_CTRL_DONE k) = 0 ∧ t.almT k = al) ∧
    (b < a → s.fld (R.RTC_ALM_CTRL_REARM_BACK k) = 1 → p ≠ 0 → b ≤ al → b ≤ t.almT k ∧ t.almT k < b + p ∧
      (al - t.almT k) % p = 0 ∧ t.almT k ≤ al) ∧
    (b < a → s.fld (R.RTC_ALM_CTRL_REARM_BACK k) = 0 → t.almT k = al ∧
      t.fld (R.RTC_ALM_CTRL_DONE k) = s.fld (R.RTC_ALM_CTRL_DONE k))) ∧
  (∀ s : State, s.Ok → Completes .rtcEndOfRange s fun t =>
    if s.rtcRuns = true then t.rtcS = 6311433599 ∧ t.fld R.RTC_SEC_HI_END = 1 ∧ t.rtcValid = true ∧
      t.rtcRuns = false ∧
      t.fld R.RTC_SUBSEC_COUNT = 0 ∧ t.mem = s.mem
    else Unchanged s t) ∧
  (∀ (tStart tEnd : Nat) (locked : Bool) (s : State), s.Ok → Completes (.rtcTrimWindow tStart tEnd locked) s fun t =>
    let tm : Int := (((tEnd : Int) - tStart - 32000000000) * 1048576 + 16000000000).fdiv 32000000000
    let old : Int := toSigned 10 (s.fld R.RTC_TRIM_T)
    let new : Int := min 511 (max (-511) (old + (tm - old).fdiv (2 ^ s.fld R.RTC_DISC_SHIFT)))
    t.rtc.cycle = 0 ∧ t.rtc.trim = t.trimT ∧ t.mem = s.mem ∧ t.rtcS = s.rtcS ∧
    (s.fld R.RTC_DISC_EN = 0 → t.fld R.RTC_TRIM_T = s.fld R.RTC_TRIM_T ∧ Untouched [] s t) ∧
    (s.fld R.RTC_DISC_EN = 1 → locked = true → -511 ≤ tm → tm ≤ 511 → t.trimT = new ∧
      Untouched [R.RTC_TRIM_T, R.RTC_DISC_STAT_TM] s t) ∧
    (s.fld R.RTC_DISC_EN = 1 → locked = false ∨ tm < -511 ∨ 511 < tm → t.trimT = old ∧ t.irqSet pRTC 2 ∧
      t.fld R.RTC_DISC_STAT_REJECTED = min (s.fld R.RTC_DISC_STAT_REJECTED + 1) 15)) ∧
  (∀ (toVbat : Bool) (s : State), s.Ok → Completes (.backupSwitchover toVbat) s fun t =>
    t.rtc = { s.rtc with onVbat := toVbat } ∧ t.mem = s.mem ∧ t.rtcS = s.rtcS ∧ t.out = [] ∧
    t.fld R.AON_BKSTAT_ON_VBAT = (if toVbat then 1 else s.fld R.AON_BKSTAT_ON_VBAT) ∧
      Untouched [R.AON_BKSTAT_ON_VBAT] s t) ∧
  (∀ (k : Nat) (s : State), s.Ok → k < 4 → Completes .backupSupplyLost s fun t =>
    t.fld R.AON_BKSTAT_LOST = 1 ∧ t.rtcValid = false ∧ t.rtcS = 0 ∧ t.fld R.RTC_SUBSEC_COUNT = 0 ∧
      t.fld R.RTC_TRIM_T = 0 ∧
    t.fld R.RTC_DISC_EN = 0 ∧ t.fld R.RTC_DISC_SHIFT = 2 ∧ t.fld R.RTC_DST = 0 ∧ t.almT k = 0 ∧
      t.fld (R.RTC_ALM_CTRL k) = 0 ∧
    t.fld R.RTC_ALM_STAT_FIRED = 0 ∧ t.mem.bk = [] ∧ t.fld R.ANCHOR_TAMPER_STAT_LATCHED = 0 ∧
      t.fld R.ANCHOR_TAMPER_STAT_UNPOWERED = 0 ∧
    t.fld R.ANCHOR_TAMPER_STAT_SOURCE = 0 ∧ t.fld R.ANCHOR_TAMPER_TIME_SEC = 0 ∧ t.fld R.AON_BKSTAT_BO_VALID = 0 ∧
    t.fld R.AON_BO_SEC_SEC = 0 ∧ t.fld R.AON_BKSTAT_OSC_FAIL = 0 ∧ t.fld R.AON_BKSTAT_ON_VBAT = 0 ∧
    t.rtc.dst = none ∧ t.rtc.setTo = none ∧ t.mem.sram = s.mem.sram ∧ t.mem.store = s.mem.store ∧
    t.fld R.ANCHOR_TAMPER_STAT_COUNT = s.fld R.ANCHOR_TAMPER_STAT_COUNT) ∧
  (∀ (k : Nat) (s : State), s.Ok → k < 4 → Completes .rtcOscFail s fun t =>
    t.fld R.AON_BKSTAT_OSC_FAIL = 1 ∧ t.rtcValid = false ∧ t.rtcS = 0 ∧ t.fld R.RTC_SUBSEC_COUNT = 0 ∧
      t.irqSet pAON 2 ∧
    t.mem.bk = s.mem.bk ∧ t.almT k = s.almT k ∧ t.fld R.RTC_TRIM_T = s.fld R.RTC_TRIM_T ∧
    t.fld R.AON_BKSTAT_LOST = s.fld R.AON_BKSTAT_LOST) ∧
  (∀ (mv : Nat) (s : State), s.Ok → Completes (.vbatMeasure mv) s fun t =>
    t.shows R.AON_VBAT_MV mv ∧ t.mem = s.mem ∧
    (if mv < 2400 then t.fld R.AON_BKSTAT_VBAT_LOW = 1 ∧ t.irqSet pAON 1 ∧
      Untouched [R.AON_VBAT_MV, R.AON_BKSTAT_VBAT_LOW, R.PG_IRQ_RAW_BIT pAON 1] s t
     else Untouched [R.AON_VBAT_MV] s t))

/-- R495, R496, R500–R503: an interval's end, the occurrences the cairn takes from its queue, and the samples of its
metrics. R503, R504, R506–R508, R510, R511: the writer moves the next closed record to the ring at CAIRN_HEAD; a
record that repeats the last of its key adds to that record's count; the third failed read-back fences the cairn;
the flush ends when no closed record is left; freeze and thaw; reading by the cursor; and the scan of a release.
Model's choices it rests on: assumption log, entry 40. -/
def Obligations.CairnRecords : Prop :=
  (∀ s : State, s.Ok → Completes .cairnIntervalEnd s fun t =>
    if s.retLocked = true ∨ s.cairn.up = false then Unchanged s t
    else t.irqSet pCAIRN 0 ∧ t.cairn.flushing = true ∧ t.openSlots = [] ∧
      t.cairn.metrics = s.cairn.metrics.map (fun m => { prev := m.prev }) ∧
      t.mem = { s.mem with ret := t.mem.ret, mram := t.mem.mram, mramBad := t.mem.mramBad }) ∧
  (∀ (o : Occurrence) (rest : List Occurrence) (j : Nat) (s : State), s.Ok → s.cairn.up = true → s.retLocked = false →
    s.occQueue = o :: rest → 0x8000 ≤ o.code → j ∈ s.openSlots →
    s.openSlots.find? (fun i => recKey (s.stageRec i) = o.key) = some j → Completes .cairnOccurrence s fun t =>
    t.occQueue = rest ∧ recField (t.stageRec j) 32 4 = (recField (s.stageRec j) 32 4 + 1) % 2 ^ 32 ∧
    recField (t.stageRec j) 36 4 = max (recField (s.stageRec j) 36 4) o.detail % 2 ^ 32 ∧
    recField (t.stageRec j) 40 4 = o.detail % 2 ^ 32 ∧ recField (t.stageRec j) 20 4 = s.rtcSecs ∧
    SameOutside s.mem.ret t.mem.ret (0x1800 + 64 * j) 64 ∧ t.mem = { s.mem with ret := t.mem.ret } ∧
      Untouched [] s t) ∧
  (∀ (o : Occurrence) (rest : List Occurrence) (j : Nat) (s : State), s.Ok → s.cairn.up = true → s.retLocked = false →
    s.occQueue = o :: rest → 0x8000 ≤ o.code → o.code < 0x10000 → s.freeSlot = some j →
    s.openSlots.find? (fun i => recKey (s.stageRec i) = o.key) = none → Completes .cairnOccurrence s fun t =>
    t.occQueue = rest ∧ recKind (t.stageRec j) = recCondition ∧ recKey (t.stageRec j) = o.key ∧
    bitSet (recFlags (t.stageRec j)) flagOpen = true ∧ recField (t.stageRec j) 32 4 = 1 ∧
    recField (t.stageRec j) 40 4 = o.detail % 2 ^ 32 ∧ t.cairn.formed = s.cairn.formed + 1 ∧
    SameOutside s.mem.ret t.mem.ret (0x1800 + 64 * j) 64 ∧ t.mem = { s.mem with ret := t.mem.ret } ∧
      Untouched [] s t) ∧
  (∀ s : State, s.cairn.up = false ∨ s.retLocked = true ∨ s.occQueue = [] → Completes .cairnOccurrence s fun t =>
    Unchanged s t) ∧
  (∀ (m : Master) (v : Word) (s : State), s.Ok → m.holds rightLive = true → s.occQueue.length < 16 →
    Completes (.cairnRaise m v) s fun t =>
    t.shows R.CAIRN_RAISE_CTRL_UNIT v.toNat ∧ t.mem = s.mem ∧ t.cairn = s.cairn ∧
    t.occQueue = s.occQueue ++ (if v.getLsbD 31 = true then
      [⟨0xFF, s.fld R.CAIRN_RAISE_CODE_CODE, t.fld R.CAIRN_RAISE_CTRL_UNIT,
        s.fld R.CAIRN_RAISE_DETAIL_DETAIL⟩] else []) ∧
    Untouched [R.CAIRN_RAISE_CTRL_UNIT, R.PG_LOCK_ARMED pCAIRN] s t) ∧
  (∀ (k : Nat) (s : State), (32 ≤ k ∨ s.cairn.up = false ∨ s.fld (R.CAIRN_MET_CFG_EN k) = 0 ∨ s.retLocked = true) →
    Completes (.cairnMetricSample k) s fun t => Unchanged s t) ∧
  (∀ (k : Nat) (s : State), k < 32 → s.cairn.up = true → s.fld (R.CAIRN_MET_CFG_EN k) = 1 → s.retLocked = false →
    s.fld (R.CAIRN_MET_SRC_ADDR k) % 4 ≠ 0 → exec (.cairnMetricSample k) s = .fault (.unpredictable 500)) ∧
  (∀ (k : Nat) (s : State), s.Ok → k < 32 → s.cairn.up = true → s.fld (R.CAIRN_MET_CFG_EN k) = 1 →
    s.retLocked = false →
    s.fld (R.CAIRN_MET_SRC_ADDR k) % 4 = 0 → 0x40000000 ≤ s.fld (R.CAIRN_MET_SRC_ADDR k) →
    metricSource ((s.fld (R.CAIRN_MET_SRC_ADDR k) - 0x40000000) / 0x1000) (s.fld (R.CAIRN_MET_SRC_ADDR k) % 0x1000) = true →
    s.fld (R.CAIRN_MET_CFG_DELTA k) = 0 → s.fld (R.CAIRN_MET_CFG_SIGNED k) = 0 → s.fld (R.CAIRN_MET_CFG_WIDTH k) ≠ 0 →
    Completes (.cairnMetricSample k) s fun t =>
    let word := ({ s with out := [] } : State).regWord .block ((s.fld (R.CAIRN_MET_SRC_ADDR k) - 0x40000000) / 0x1000)
      (s.fld (R.CAIRN_MET_SRC_ADDR k) % 0x1000)
    let raw := word.toNat / 2 ^ s.fld (R.CAIRN_MET_CFG_SHIFT k) % 2 ^ s.fld (R.CAIRN_MET_CFG_WIDTH k)
    t.cairn = { s.cairn with metrics := s.cairn.metrics.set k ((s.cairn.metrics.getD k {}).take raw
      (s.fld (R.CAIRN_MET_LO_LO k)) (s.fld (R.CAIRN_MET_STEP_STEP k))) } ∧
    t.occQueue = s.occQueue ∧ t.mem = s.mem ∧ Untouched [] s t) ∧
  (∀ (j : Nat) (s : State), s.Ok → s.writerRuns = true → s.cairn.flushing = true → s.nextClosed = some j →
    recKind (s.stageRec j) ≤ 4 → s.repeatOf (s.candidate j) = none → Completes (.cairnRecordWrite true) s fun t =>
    t.shows R.CAIRN_HEAD_INDEX (s.fld R.CAIRN_HEAD_INDEX + 1) ∧
      t.shows R.CAIRN_NEXT_SEQ_SEQ (s.fld R.CAIRN_NEXT_SEQ_SEQ + 1) ∧
    Counted s t R.CAIRN_CNT_WRITTEN_N 1 ∧ recKind (t.stageRec j) = 0 ∧ t.cairn.lostBefore = false ∧
    recSeq (t.ringRec (s.fld R.CAIRN_HEAD_INDEX)) = s.fld R.CAIRN_NEXT_SEQ_SEQ ∧
    recValid (t.ringRec (s.fld R.CAIRN_HEAD_INDEX)) = true ∧
    SameOutside s.mem.mram t.mem.mram (0x80000 + 64 * s.fld R.CAIRN_HEAD_INDEX) 64 ∧
    SameOutside s.mem.ret t.mem.ret (0x1800 + 64 * j) 64 ∧
    Untouched [R.CAIRN_HEAD_INDEX, R.CAIRN_NEXT_SEQ_SEQ, R.CAIRN_CNT_WRITTEN_N, R.CAIRN_OLDEST_INDEX] s t) ∧
  (∀ (i j : Nat) (s : State), s.Ok → s.writerRuns = true → s.cairn.flushing = true → s.nextClosed = some j →
    s.repeatOf (s.candidate j) = some i → Completes (.cairnRecordWrite true) s fun t =>
    Counted s t R.CAIRN_CNT_REPEAT_N 1 ∧ recKind (t.stageRec j) = 0 ∧
    recField (t.ringRec i) 56 4 = min (recField (s.ringRec i) 56 4 + 1) (2 ^ 32 - 1) ∧
    SameOutside s.mem.mram t.mem.mram (0x80000 + 64 * i + 56) 8 ∧ Untouched [R.CAIRN_CNT_REPEAT_N] s t) ∧
  (∀ (j : Nat) (s : State), s.Ok → s.writerRuns = true → s.cairn.flushing = true → s.nextClosed = some j →
    Completes (.cairnRecordWrite false) s fun t =>
    (s.cairn.tries < 2 → t.cairn.tries = s.cairn.tries + 1 ∧ t.fences = s.fences ∧ t.mem.ret = s.mem.ret ∧
      Untouched [] s t) ∧
    (2 ≤ s.cairn.tries → t.hasFence pCAIRN noUnit = true ∧ t.cairn.tries = 0 ∧ t.mem.ret = s.mem.ret)) ∧
  (∀ (ok : Bool) (s : State), s.writerRuns = false ∨ s.cairn.flushing = false ∨ s.nextClosed = none →
    Completes (.cairnRecordWrite ok) s fun t => Unchanged s t) ∧
  (∀ s : State, s.Ok → s.rst.pfFlush = false → Completes .cairnFlushDone s fun t =>
    if s.cairn.flushing = true ∧ s.nextClosed = none then
      t.cairn = { s.cairn with flushing := false } ∧ t.fld R.CAIRN_CTRL_FLUSH = 0 ∧ t.irqSet pCAIRN 3 ∧
        t.mem = s.mem ∧
      Untouched [R.CAIRN_CTRL_FLUSH, R.PG_IRQ_RAW_BIT pCAIRN 3] s t
    else Unchanged s t) ∧
  (∀ (m : Master) (v : Word) (s : State), s.Ok → m.holds rightLive = true →
    Completes (.cairnFlushRequest m v) s fun t =>
    t.fld R.CAIRN_CTRL_FLUSH = 1 ∧ t.cairn.flushing = true ∧ t.openSlots = [] ∧ t.occQueue = s.occQueue ∧
    t.fld R.CAIRN_CTRL_FREEZE = b2n (v.getLsbD 0) ∧ t.fld R.CAIRN_CTRL_AUTOINC = b2n (v.getLsbD 2)) ∧
  (∀ (m : Master) (v : Word) (s : State), s.Ok → m.holds rightLive = true → Completes (.cairnFreeze m v) s fun t =>
    t.fld R.CAIRN_CTRL_FREEZE = b2n (v.getLsbD 0) ∧ t.fld R.CAIRN_CTRL_AUTOINC = b2n (v.getLsbD 2) ∧ t.mem = s.mem ∧
    (t.cairn.flushing = (s.cairn.flushing || (s.flag R.CAIRN_CTRL_FREEZE && !v.getLsbD 0))) ∧
    Untouched [R.CAIRN_CTRL_FREEZE, R.CAIRN_CTRL_AUTOINC, R.PG_LOCK_ARMED pCAIRN] s t) ∧
  (∀ s : State, s.Ok → Completes .cairnThaw s fun t =>
    if s.fld R.CAIRN_CTRL_FREEZE = 0 then Unchanged s t
    else t.fld R.CAIRN_CTRL_FREEZE = 0 ∧ t.fld R.CAIRN_STATUS_THAWED = 1 ∧ t.cairn.flushing = true ∧
      t.irqSet pCAIRN 2 ∧
      t.mem = s.mem ∧ Untouched [R.CAIRN_CTRL_FREEZE, R.CAIRN_STATUS_THAWED, R.PG_IRQ_RAW_BIT pCAIRN 2] s t) ∧
  (∀ (m : Master) (v : Word) (s : State), s.Ok → m.holds rightLive = true →
    Completes (.cairnCursorLoad m v) s fun t =>
    t.fld R.CAIRN_CURSOR_INDEX = v.toNat % 8192 ∧ t.mem = s.mem ∧
    (∀ w ∈ List.range 16, t.fld (R.CAIRN_WIN_BYTES w) = recField (s.ringRec (v.toNat % 8192)) (4 * w) 4)) ∧
  (∀ (m : Master) (s : State), s.Ok → m.holds rightRead = true → Completes (.cairnWinAdvance m) s fun t =>
    t.out = [.readData (BitVec.ofNat 32 (s.fld (R.CAIRN_WIN_BYTES 15)))] ∧ t.mem = s.mem ∧
    (s.fld R.CAIRN_CTRL_AUTOINC = 0 → Untouched [] s t) ∧
    (s.fld R.CAIRN_CTRL_AUTOINC = 1 → t.fld R.CAIRN_CURSOR_INDEX = (s.fld R.CAIRN_CURSOR_INDEX + 1) % 8192)) ∧
  (∀ s : State, s.Ok → Completes .cairnReleaseScan s fun t =>
    if s.fld R.CAIRN_STATUS_SCANNING = 0 then Unchanged s t
    else t.cairn.up = true ∧ t.fld R.CAIRN_STATUS_SCANNING = 0 ∧ t.occQueue = [] ∧ t.occDropped = 0)
end

