-- ==== Sys2Proof/Laws/Maps.lean ====
section
/-! SUPPORT. The laws of sparse maps and byte memories: a read after a write, other keys, and the canonical form, which
every operation keeps. -/
set_option linter.all false
set_option Elab.async false
namespace Sys2Proof.Machine

/-- A key below all keys of a map reads as the default. -/
theorem mapGet_of_above {α : Type} (d : α) (k : Nat) :
    ∀ m : List (Nat × α), mapAbove k m = true → mapGet d m k = d
  | [], _ => rfl
  | (a, v) :: t, h => by
    simp only [mapAbove, Bool.and_eq_true, decide_eq_true_eq] at h
    simp [mapGet, Nat.ne_of_lt h.1, h.1]

theorem mapAbove_of_lt {α : Type} {j k : Nat} (hjk : j < k) :
    ∀ m : List (Nat × α), mapAbove k m = true → mapAbove j m = true
  | [], _ => rfl
  | (a, v) :: t, h => by
    simp only [mapAbove, Bool.and_eq_true, decide_eq_true_eq] at h ⊢
    exact ⟨Nat.lt_trans hjk h.1, mapAbove_of_lt hjk t h.2⟩

/-! ## mapIns -/

@[simp] theorem mapGet_mapIns_self {α : Type} (d : α) (k : Nat) (v : α) :
    ∀ m : List (Nat × α), mapGet d (mapIns k v m) k = v
  | [] => by simp [mapIns, mapGet]
  | (a, w) :: t => by
    unfold mapIns
    split
    · simp [mapGet]
    · split
      · simp [mapGet]
      · rename_i h1 h2
        simp [mapGet, h1, h2, mapGet_mapIns_self d k v t]

theorem mapGet_mapIns_ne {α : Type} (d : α) {j k : Nat} (v : α) (h : j ≠ k) :
    ∀ m : List (Nat × α), mapGet d (mapIns k v m) j = mapGet d m j
  | [] => by simp [mapIns, mapGet, h]
  | (a, w) :: t => by
    unfold mapIns
    split
    · rename_i h1
      subst h1
      simp [mapGet, h]
    · split
      · rename_i h1 h2
        by_cases hj : j < k
        · have h3 : j < a := Nat.lt_trans hj h2
          simp [mapGet, h, hj, h3, Nat.ne_of_lt h3]
        · simp [mapGet, h, hj]
      · simp [mapGet, mapGet_mapIns_ne d v h t]

theorem mapAbove_mapIns {α : Type} {j k : Nat} (v : α) (h : j < k) :
    ∀ m : List (Nat × α), mapAbove j m = true → mapAbove j (mapIns k v m) = true
  | [], _ => by simp [mapIns, mapAbove, h]
  | (a, w) :: t, hm => by
    simp only [mapAbove, Bool.and_eq_true, decide_eq_true_eq] at hm
    unfold mapIns
    split
    · simp [mapAbove, h, hm.2]
    · split
      · simp [mapAbove, h, hm.1, hm.2]
      · simp [mapAbove, hm.1, mapAbove_mapIns v h t hm.2]

theorem mapWf_mapIns {α : Type} [DecidableEq α] (d : Nat → α) (k : Nat) (v : α) (hv : v ≠ d k) :
    ∀ m : List (Nat × α), mapWf d m = true → mapWf d (mapIns k v m) = true
  | [], _ => by simp [mapIns, mapWf, mapAbove, hv]
  | (a, w) :: t, hm => by
    simp only [mapWf, Bool.and_eq_true, decide_eq_true_eq] at hm
    obtain ⟨⟨hw, ha⟩, ht⟩ := hm
    unfold mapIns
    split
    · rename_i h1
      subst h1
      simp [mapWf, hv, ha, ht]
    · split
      · rename_i h1 h2
        simp [mapWf, mapAbove, hv, h2, mapAbove_of_lt h2 t ha, hw, ha, ht]
      · rename_i h1 h2
        have h3 : a < k := Nat.lt_of_le_of_ne (Nat.le_of_not_lt h2) (fun h => h1 h.symm)
        simp [mapWf, hw, mapAbove_mapIns v h3 t ha, mapWf_mapIns d k v hv t ht]

/-! ## mapDel -/

theorem mapAbove_mapDel {α : Type} {j k : Nat} :
    ∀ m : List (Nat × α), mapAbove j m = true → mapAbove j (mapDel k m) = true
  | [], _ => rfl
  | (a, w) :: t, hm => by
    simp only [mapAbove, Bool.and_eq_true, decide_eq_true_eq] at hm
    unfold mapDel
    split
    · exact hm.2
    · split
      · simp [mapAbove, hm.1, hm.2]
      · simp [mapAbove, hm.1, mapAbove_mapDel t hm.2]

theorem mapWf_mapDel {α : Type} [DecidableEq α] (d : Nat → α) (k : Nat) :
    ∀ m : List (Nat × α), mapWf d m = true → mapWf d (mapDel k m) = true
  | [], _ => rfl
  | (a, w) :: t, hm => by
    simp only [mapWf, Bool.and_eq_true, decide_eq_true_eq] at hm
    unfold mapDel
    split
    · exact hm.2
    · split
      · simp [mapWf, hm.1.1, hm.1.2, hm.2]
      · simp [mapWf, hm.1.1, mapAbove_mapDel t hm.1.2, mapWf_mapDel d k t hm.2]

theorem mapGet_mapDel_self {α : Type} [DecidableEq α] (f : Nat → α) (d : α) (k : Nat) :
    ∀ m : List (Nat × α), mapWf f m = true → mapGet d (mapDel k m) k = d
  | [], _ => rfl
  | (a, w) :: t, hm => by
    simp only [mapWf, Bool.and_eq_true, decide_eq_true_eq] at hm
    unfold mapDel
    split
    · rename_i h1
      subst h1
      exact mapGet_of_above d _ t hm.1.2
    · split
      · rename_i h1 h2
        simp [mapGet, h1, h2]
      · rename_i h1 h2
        simp [mapGet, h1, h2, mapGet_mapDel_self f d k t hm.2]

theorem mapGet_mapDel_ne {α : Type} [DecidableEq α] (f : Nat → α) (d : α) {j k : Nat} (h : j ≠ k) :
    ∀ m : List (Nat × α), mapWf f m = true → mapGet d (mapDel k m) j = mapGet d m j
  | [], _ => rfl
  | (a, w) :: t, hm => by
    simp only [mapWf, Bool.and_eq_true, decide_eq_true_eq] at hm
    unfold mapDel
    split
    · rename_i h1
      subst h1
      by_cases hj : j < k
      · simp [mapGet, h, hj, mapGet_of_above d j t (mapAbove_of_lt hj t hm.1.2)]
      · simp [mapGet, h, hj]
    · split
      · rfl
      · simp [mapGet, mapGet_mapDel_ne f d h t hm.2]

/-! ## mapPut -/

/-- A read after a write of the same key. -/
theorem mapGet_mapPut_self {α : Type} [DecidableEq α] (f : Nat → α) (m : List (Nat × α)) (k : Nat) (v : α)
    (hm : mapWf f m = true) : mapGet (f k) (mapPut (f k) m k v) k = v := by
  unfold mapPut
  split
  · rename_i h
    rw [h]
    exact mapGet_mapDel_self f (f k) k m hm
  · simp

/-- A write leaves every other key as it was. -/
theorem mapGet_mapPut_ne {α : Type} [DecidableEq α] (f : Nat → α) (d e : α) (m : List (Nat × α)) {j k : Nat} (v : α)
    (hm : mapWf f m = true) (h : j ≠ k) : mapGet d (mapPut e m k v) j = mapGet d m j := by
  unfold mapPut
  split
  · exact mapGet_mapDel_ne f d h m hm
  · exact mapGet_mapIns_ne d v h m

/-- A write keeps the canonical form. -/
theorem mapWf_mapPut {α : Type} [DecidableEq α] (f : Nat → α) (m : List (Nat × α)) (k : Nat) (v : α)
    (hm : mapWf f m = true) : mapWf f (mapPut (f k) m k v) = true := by
  unfold mapPut
  split
  · exact mapWf_mapDel f k m hm
  · rename_i h
    exact mapWf_mapIns f k v h m hm

theorem mapAbove_filter {α : Type} {k : Nat} (p : Nat × α → Bool) :
    ∀ m : List (Nat × α), mapAbove k m = true → mapAbove k (m.filter p) = true
  | [], _ => rfl
  | (a, w) :: t, hm => by
    simp only [mapAbove, Bool.and_eq_true, decide_eq_true_eq] at hm
    by_cases hp : p (a, w) = true
    · simp [List.filter, hp, mapAbove, hm.1, mapAbove_filter p t hm.2]
    · simp [List.filter, hp, mapAbove_filter p t hm.2]

/-- Leaving entries out keeps the canonical form. -/
theorem mapWf_filter {α : Type} [DecidableEq α] (f : Nat → α) (p : Nat × α → Bool) :
    ∀ m : List (Nat × α), mapWf f m = true → mapWf f (m.filter p) = true
  | [], _ => rfl
  | (a, w) :: t, hm => by
    simp only [mapWf, Bool.and_eq_true, decide_eq_true_eq] at hm
    by_cases hp : p (a, w) = true
    · simp [List.filter, hp, mapWf, hm.1.1, mapAbove_filter p t hm.1.2, mapWf_filter f p t hm.2]
    · simp [List.filter, hp, mapWf_filter f p t hm.2]

theorem mapGet_of_above' {α : Type} (d : α) {k a : Nat} (h : k < a) :
    ∀ m : List (Nat × α), mapAbove a m = true → mapGet d m k = d :=
  fun m hm => mapGet_of_above d k m (mapAbove_of_lt h m hm)

/-- Leaving entries out leaves every key that the filter keeps. -/
theorem mapGet_filter_kept {α : Type} [DecidableEq α] (f : Nat → α) (p : Nat × α → Bool) :
    ∀ (m : List (Nat × α)) (k : Nat), mapWf f m = true → (∀ v, p (k, v) = true) → mapGet (f k) (m.filter p) k = mapGet (f k) m k
  | [], _, _, _ => rfl
  | (a, w) :: t, k, hm, hp => by
    simp only [mapWf, Bool.and_eq_true, decide_eq_true_eq] at hm
    by_cases hk : p (a, w) = true
    · simp only [List.filter, hk, mapGet, mapGet_filter_kept f p t k hm.2 hp]
    · have hak : k ≠ a := fun e => hk (e ▸ hp w)
      simp only [List.filter, hk, mapGet]
      rw [if_neg hak, mapGet_filter_kept f p t k hm.2 hp]
      split
      · exact mapGet_of_above' (f k) ‹_› t hm.1.2
      · rfl

/-! ## Byte memories -/

@[simp] theorem memWf_nil : memWf [] = true := rfl

@[simp] theorem memGet_memPut_self (m : Bytes) (a : Nat) (b : Byte) (h : memWf m = true) :
    memGet (memPut m a b) a = b := mapGet_mapPut_self (fun _ => memDefault) m a b h

theorem memGet_memPut_ne (m : Bytes) {a c : Nat} (b : Byte) (h : memWf m = true) (hne : c ≠ a) :
    memGet (memPut m a b) c = memGet m c := mapGet_mapPut_ne (fun _ => memDefault) memDefault memDefault m b h hne

@[simp] theorem memWf_memPut (m : Bytes) (a : Nat) (b : Byte) (h : memWf m = true) : memWf (memPut m a b) = true :=
  mapWf_mapPut (fun _ => memDefault) m a b h

@[simp] theorem memWf_memWrite : ∀ (bs : List Byte) (m : Bytes) (a : Nat), memWf m = true → memWf (memWrite m a bs) = true
  | [], _, _, h => h
  | b :: bs, m, a, h => memWf_memWrite bs (memPut m a b) (a + 1) (memWf_memPut m a b h)

@[simp] theorem memWf_filter (m : Bytes) (p : Nat × Byte → Bool) (h : memWf m = true) : memWf (m.filter p) = true :=
  mapWf_filter (fun _ => memDefault) p m h

@[simp] theorem memWf_memClear (m : Bytes) (a n : Nat) (h : memWf m = true) : memWf (memClear m a n) = true :=
  memWf_filter m _ h

/-- A write of bytes leaves every address outside them as it was. -/
theorem memGet_memWrite_out : ∀ (bs : List Byte) (m : Bytes) (a c : Nat), memWf m = true → (c < a ∨ a + bs.length ≤ c) →
    memGet (memWrite m a bs) c = memGet m c
  | [], _, _, _, _, _ => rfl
  | b :: bs, m, a, c, h, hc => by
    simp only [List.length_cons] at hc
    unfold memWrite
    rw [memGet_memWrite_out bs (memPut m a b) (a + 1) c (memWf_memPut m a b h) (by omega)]
    exact memGet_memPut_ne m b h (by omega)

/-- Bytes written are read back. -/
theorem memRead_memWrite : ∀ (bs : List Byte) (m : Bytes) (a : Nat), memWf m = true →
    memRead (memWrite m a bs) a bs.length = bs
  | [], _, _, _ => rfl
  | b :: bs, m, a, h => by
    have h1 := memWf_memPut m a b h
    simp only [List.length_cons, memRead, memWrite]
    rw [memGet_memWrite_out bs (memPut m a b) (a + 1) a h1 (by omega), memGet_memPut_self m a b h,
      memRead_memWrite bs (memPut m a b) (a + 1) h1]

/-- A range reads the same where every byte of it does. -/
theorem memRead_congr : ∀ (n : Nat) (m l : Bytes) (a : Nat), (∀ c, a ≤ c → c < a + n → memGet m c = memGet l c) →
    memRead m a n = memRead l a n
  | 0, _, _, _, _ => rfl
  | n + 1, m, l, a, h => by
    simp only [memRead]
    rw [h a (Nat.le_refl a) (by omega), memRead_congr n m l (a + 1) (fun c h1 h2 => h c (by omega) (by omega))]

/-- A map is above a key when every key listed is. -/
theorem mapAbove_iff {α : Type} (k : Nat) : ∀ m : List (Nat × α), mapAbove k m = true ↔ ∀ e ∈ m, k < e.1
  | [] => by simp [mapAbove]
  | (a, v) :: t => by simp [mapAbove, mapAbove_iff k t]

end Sys2Proof.Machine
end

