-- ==== Sys2Proof/Laws/Regs.lean ====
section
/-! SUPPORT. The laws of registers and their fields: a read after a write, other fields, other registers. -/
set_option linter.all false
set_option Elab.async false
namespace Sys2Proof.Machine

/-! ## Bits of a number -/

theorem bits_insertBits_self (w v : Nat) {hi lo : Nat} (h : lo ≤ hi) :
    bits (insertBits w hi lo v) hi lo = v % 2 ^ (hi + 1 - lo) := by
  have e : 2 ^ (hi + 1) = 2 ^ lo * 2 ^ (hi + 1 - lo) := by
    rw [← Nat.pow_add]
    congr 1
    omega
  unfold bits insertBits
  rw [e]
  have hp : 0 < 2 ^ lo := Nat.two_pow_pos lo
  have hn : 0 < 2 ^ (hi + 1 - lo) := Nat.two_pow_pos _
  have ha : w % 2 ^ lo < 2 ^ lo := Nat.mod_lt _ hp
  have hb : v % 2 ^ (hi + 1 - lo) < 2 ^ (hi + 1 - lo) := Nat.mod_lt _ hn
  generalize w % 2 ^ lo = a at *
  generalize v % 2 ^ (hi + 1 - lo) = b at *
  generalize w / (2 ^ lo * 2 ^ (hi + 1 - lo)) = c at *
  generalize 2 ^ lo = p at *
  generalize 2 ^ (hi + 1 - lo) = n at *
  have e2 : a + b * p + c * (p * n) = a + p * (b + c * n) := by
    rw [Nat.mul_add, Nat.mul_comm p b, Nat.mul_left_comm p c n, Nat.add_assoc]
  rw [e2, Nat.add_mul_div_left a _ hp, Nat.div_eq_of_lt ha, Nat.zero_add, Nat.add_mul_mod_self_right, Nat.mod_eq_of_lt hb]

theorem bits_mod (x : Nat) {hi lo m : Nat} (h : hi + 1 ≤ m) (hl : lo ≤ hi) : bits (x % 2 ^ m) hi lo = bits x hi lo := by
  unfold bits
  have e : 2 ^ m = 2 ^ lo * 2 ^ (m - lo) := by
    rw [← Nat.pow_add]
    congr 1
    omega
  rw [e, Nat.mod_mul_right_div_self]
  exact Nat.mod_mod_of_dvd _ (Nat.pow_dvd_pow 2 (by omega))

theorem bits_div (x : Nat) {hi lo m : Nat} (h : m ≤ lo) (hl : lo ≤ hi) :
    bits (x / 2 ^ m) (hi - m) (lo - m) = bits x hi lo := by
  unfold bits
  rw [Nat.div_div_eq_div_mul, ← Nat.pow_add, Nat.add_sub_cancel' h]
  congr 2
  omega

theorem insertBits_low (w v : Nat) {hi lo : Nat} (h : lo ≤ hi) : insertBits w hi lo v % 2 ^ lo = w % 2 ^ lo := by
  have e : 2 ^ (hi + 1) = 2 ^ lo * 2 ^ (hi + 1 - lo) := by
    rw [← Nat.pow_add]
    congr 1
    omega
  unfold insertBits
  rw [e]
  generalize w / (2 ^ lo * 2 ^ (hi + 1 - lo)) = c
  generalize v % 2 ^ (hi + 1 - lo) = b
  generalize 2 ^ (hi + 1 - lo) = n
  have e2 : w % 2 ^ lo + b * 2 ^ lo + c * (2 ^ lo * n) = w % 2 ^ lo + 2 ^ lo * (b + c * n) := by
    rw [Nat.mul_add, Nat.mul_comm _ b, Nat.mul_left_comm _ c n, Nat.add_assoc]
  rw [e2, Nat.add_mul_mod_self_left, Nat.mod_mod]

theorem insertBits_high (w v : Nat) {hi lo : Nat} (h : lo ≤ hi) : insertBits w hi lo v / 2 ^ (hi + 1) = w / 2 ^ (hi + 1) := by
  have e : 2 ^ (hi + 1) = 2 ^ lo * 2 ^ (hi + 1 - lo) := by
    rw [← Nat.pow_add]
    congr 1
    omega
  have hp : 0 < 2 ^ lo := Nat.two_pow_pos lo
  have hn : 0 < 2 ^ (hi + 1 - lo) := Nat.two_pow_pos _
  have ha : w % 2 ^ lo < 2 ^ lo := Nat.mod_lt _ hp
  have hb : v % 2 ^ (hi + 1 - lo) < 2 ^ (hi + 1 - lo) := Nat.mod_lt _ hn
  have hs : w % 2 ^ lo + v % 2 ^ (hi + 1 - lo) * 2 ^ lo < 2 ^ (hi + 1) := by
    rw [e]
    calc w % 2 ^ lo + v % 2 ^ (hi + 1 - lo) * 2 ^ lo < 2 ^ lo + v % 2 ^ (hi + 1 - lo) * 2 ^ lo := by omega
      _ = 2 ^ lo * (v % 2 ^ (hi + 1 - lo) + 1) := by
        rw [Nat.mul_add, Nat.mul_one, Nat.mul_comm (2 ^ lo) (v % _), Nat.add_comm]
      _ ≤ 2 ^ lo * 2 ^ (hi + 1 - lo) := Nat.mul_le_mul_left _ hb
  unfold insertBits
  rw [Nat.add_mul_div_right _ _ (Nat.two_pow_pos _), Nat.div_eq_of_lt hs, Nat.zero_add]

theorem insertBits_lt (w v : Nat) {hi lo : Nat} (h : lo ≤ hi) (hhi : hi < 32) (hw : w < 2 ^ 32) :
    insertBits w hi lo v < 2 ^ 32 := by
  have e : 2 ^ 32 = 2 ^ (hi + 1) * 2 ^ (31 - hi) := by
    rw [← Nat.pow_add]
    congr 1
    omega
  have hc : insertBits w hi lo v / 2 ^ (hi + 1) < 2 ^ (31 - hi) := by
    rw [insertBits_high w v h]
    exact Nat.div_lt_of_lt_mul (by rw [← e]; exact hw)
  rw [e, Nat.mul_comm]
  exact (Nat.div_lt_iff_lt_mul (Nat.two_pow_pos _)).mp hc

/-- Bits beside the inserted ones stay. -/
theorem bits_insertBits_other (w v : Nat) {hi lo hi' lo' : Nat} (h : lo ≤ hi) (h' : lo' ≤ hi')
    (hd : hi' < lo ∨ hi < lo') : bits (insertBits w hi lo v) hi' lo' = bits w hi' lo' := by
  cases hd with
  | inl hd => rw [← bits_mod (insertBits w hi lo v) (m := lo) hd h', insertBits_low w v h, bits_mod w hd h']
  | inr hd =>
    have hm : hi + 1 ≤ lo' := hd
    rw [← bits_div (insertBits w hi lo v) hm h', insertBits_high w v h, bits_div w hm h']

/-! ## Registers -/

@[simp] theorem reg_setReg_self (s : State) (p o : Nat) (w : Word) (h : s.regsWf = true) : (s.setReg p o w).reg p o = w :=
  mapGet_mapPut_self regReset s.regs (regKey p o) w h

theorem reg_setReg_ne (s : State) {p o q r : Nat} (w : Word) (h : s.regsWf = true) (hk : regKey q r ≠ regKey p o) :
    (s.setReg p o w).reg q r = s.reg q r :=
  mapGet_mapPut_ne regReset _ _ s.regs w h hk

@[simp] theorem regsWf_setReg (s : State) (p o : Nat) (w : Word) (h : s.regsWf = true) : (s.setReg p o w).regsWf = true :=
  mapWf_mapPut regReset s.regs (regKey p o) w h

@[simp] theorem regsWf_setFld (s : State) (f : Fld) (v : Nat) (h : s.regsWf = true) : (s.setFld f v).regsWf = true :=
  regsWf_setReg s _ _ _ h

/-- A field reads back what was written, cut to its width. -/
theorem fld_setFld_self (s : State) (f : Fld) (v : Nat) (h : s.regsWf = true) (hf : f.ok = true) :
    (s.setFld f v).fld f = v % 2 ^ (f.hi + 1 - f.lo) := by
  simp only [Fld.ok, Bool.and_eq_true, decide_eq_true_eq] at hf
  unfold State.fld State.setFld
  rw [reg_setReg_self _ _ _ _ h, BitVec.toNat_ofNat,
    Nat.mod_eq_of_lt (insertBits_lt _ _ hf.1 hf.2 (s.reg f.page f.off).isLt), bits_insertBits_self _ _ hf.1]

/-- A write of a field leaves every field apart from it. -/
theorem fld_setFld_other (s : State) {f g : Fld} (v : Nat) (h : s.regsWf = true) (hf : f.ok = true) (hg : g.ok = true)
    (ha : f.apart g = true) : (s.setFld f v).fld g = s.fld g := by
  simp only [Fld.ok, Bool.and_eq_true, decide_eq_true_eq] at hf hg
  by_cases hk : regKey g.page g.off = regKey f.page f.off
  · have hr : ∀ u : State, u.reg g.page g.off = u.reg f.page f.off := fun u => by
      unfold State.reg
      rw [hk]
    simp only [Fld.apart, Bool.or_eq_true, decide_eq_true_eq, hk, ne_eq, not_true_eq_false, false_or] at ha
    unfold State.fld
    rw [hr, hr]
    unfold State.setFld
    rw [reg_setReg_self _ _ _ _ h, BitVec.toNat_ofNat,
      Nat.mod_eq_of_lt (insertBits_lt _ _ hf.1 hf.2 (s.reg f.page f.off).isLt),
      bits_insertBits_other _ _ hf.1 hg.1 ha]
  · unfold State.fld State.setFld
    rw [reg_setReg_ne s _ h hk]

/-- A write of a field leaves every other register. -/
theorem reg_setFld_ne (s : State) (f : Fld) (v : Nat) {q r : Nat} (h : s.regsWf = true)
    (hk : regKey q r ≠ regKey f.page f.off) : (s.setFld f v).reg q r = s.reg q r :=
  reg_setReg_ne s _ h hk

/-- Registers of two pages have two keys. -/
theorem regKey_page {p o q r : Nat} (h : q ≠ p) : regKey q r ≠ regKey p o := by
  unfold regKey
  omega

/-- Keys of registers are equal only where page and offset are. -/
theorem regKey_ne {p o q r : Nat} (ho : o < 0x1000) (hr : r < 0x1000) (h : q ≠ p ∨ r ≠ o) : regKey q r ≠ regKey p o := by
  unfold regKey
  omega

end Sys2Proof.Machine
end

