-- ==== Sys2Proof/Laws/State.lean ====
section
/-! SUPPORT. What the elementary updates of the state leave as it was, a lemma for each field: a write of a register
touches the register file alone, an answer the list of answers, a draw the counter of free values. -/
set_option linter.all false
set_option Elab.async false
namespace Sys2Proof.Machine

/-! ## setReg -/

@[simp] theorem State.setReg_variant (s : State) (p o : Nat) (w : Word) : (s.setReg p o w).variant = s.variant := rfl
@[simp] theorem State.setReg_latches (s : State) (p o : Nat) (w : Word) : (s.setReg p o w).latches = s.latches := rfl
@[simp] theorem State.setReg_fences (s : State) (p o : Nat) (w : Word) : (s.setReg p o w).fences = s.fences := rfl
@[simp] theorem State.setReg_returning (s : State) (p o : Nat) (w : Word) : (s.setReg p o w).returning = s.returning := rfl
@[simp] theorem State.setReg_free (s : State) (p o : Nat) (w : Word) : (s.setReg p o w).free = s.free := rfl
@[simp] theorem State.setReg_out (s : State) (p o : Nat) (w : Word) : (s.setReg p o w).out = s.out := rfl
@[simp] theorem State.setReg_mem (s : State) (p o : Nat) (w : Word) : (s.setReg p o w).mem = s.mem := rfl
@[simp] theorem State.setReg_pins (s : State) (p o : Nat) (w : Word) : (s.setReg p o w).pins = s.pins := rfl
@[simp] theorem State.setReg_ptp (s : State) (p o : Nat) (w : Word) : (s.setReg p o w).ptp = s.ptp := rfl
@[simp] theorem State.setReg_commit (s : State) (p o : Nat) (w : Word) : (s.setReg p o w).commit = s.commit := rfl
@[simp] theorem State.setReg_party (s : State) (p o : Nat) (w : Word) : (s.setReg p o w).party = s.party := rfl
@[simp] theorem State.setReg_gov (s : State) (p o : Nat) (w : Word) : (s.setReg p o w).gov = s.gov := rfl
@[simp] theorem State.setReg_netA (s : State) (p o : Nat) (w : Word) : (s.setReg p o w).netA = s.netA := rfl
@[simp] theorem State.setReg_netB (s : State) (p o : Nat) (w : Word) : (s.setReg p o w).netB = s.netB := rfl
@[simp] theorem State.setReg_ingest (s : State) (p o : Nat) (w : Word) : (s.setReg p o w).ingest = s.ingest := rfl
@[simp] theorem State.setReg_storeCtl (s : State) (p o : Nat) (w : Word) : (s.setReg p o w).storeCtl = s.storeCtl := rfl
@[simp] theorem State.setReg_reservations (s : State) (p o : Nat) (w : Word) : (s.setReg p o w).reservations = s.reservations := rfl
@[simp] theorem State.setReg_codeWrites (s : State) (p o : Nat) (w : Word) : (s.setReg p o w).codeWrites = s.codeWrites := rfl
@[simp] theorem State.setReg_strands (s : State) (p o : Nat) (w : Word) : (s.setReg p o w).strands = s.strands := rfl
@[simp] theorem State.setReg_abortSeen (s : State) (p o : Nat) (w : Word) : (s.setReg p o w).abortSeen = s.abortSeen := rfl
@[simp] theorem State.setReg_presentedSlot (s : State) (p o : Nat) (w : Word) : (s.setReg p o w).presentedSlot = s.presentedSlot := rfl
@[simp] theorem State.setReg_rails (s : State) (p o : Nat) (w : Word) : (s.setReg p o w).rails = s.rails := rfl
@[simp] theorem State.setReg_telem (s : State) (p o : Nat) (w : Word) : (s.setReg p o w).telem = s.telem := rfl
@[simp] theorem State.setReg_railOverlap (s : State) (p o : Nat) (w : Word) : (s.setReg p o w).railOverlap = s.railOverlap := rfl
@[simp] theorem State.setReg_meter (s : State) (p o : Nat) (w : Word) : (s.setReg p o w).meter = s.meter := rfl
@[simp] theorem State.setReg_belay (s : State) (p o : Nat) (w : Word) : (s.setReg p o w).belay = s.belay := rfl
@[simp] theorem State.setReg_posts (s : State) (p o : Nat) (w : Word) : (s.setReg p o w).posts = s.posts := rfl
@[simp] theorem State.setReg_harts (s : State) (p o : Nat) (w : Word) : (s.setReg p o w).harts = s.harts := rfl
@[simp] theorem State.setReg_sched (s : State) (p o : Nat) (w : Word) : (s.setReg p o w).sched = s.sched := rfl
@[simp] theorem State.setReg_router (s : State) (p o : Nat) (w : Word) : (s.setReg p o w).router = s.router := rfl
@[simp] theorem State.setReg_wdt (s : State) (p o : Nat) (w : Word) : (s.setReg p o w).wdt = s.wdt := rfl
@[simp] theorem State.setReg_lcp (s : State) (p o : Nat) (w : Word) : (s.setReg p o w).lcp = s.lcp := rfl
@[simp] theorem State.setReg_hspi (s : State) (p o : Nat) (w : Word) : (s.setReg p o w).hspi = s.hspi := rfl
@[simp] theorem State.setReg_uart (s : State) (p o : Nat) (w : Word) : (s.setReg p o w).uart = s.uart := rfl
@[simp] theorem State.setReg_side (s : State) (p o : Nat) (w : Word) : (s.setReg p o w).side = s.side := rfl
@[simp] theorem State.setReg_airtime (s : State) (p o : Nat) (w : Word) : (s.setReg p o w).airtime = s.airtime := rfl
@[simp] theorem State.setReg_anchor (s : State) (p o : Nat) (w : Word) : (s.setReg p o w).anchor = s.anchor := rfl
@[simp] theorem State.setReg_upd (s : State) (p o : Nat) (w : Word) : (s.setReg p o w).upd = s.upd := rfl
@[simp] theorem State.setReg_rst (s : State) (p o : Nat) (w : Word) : (s.setReg p o w).rst = s.rst := rfl
@[simp] theorem State.setReg_clk (s : State) (p o : Nat) (w : Word) : (s.setReg p o w).clk = s.clk := rfl
@[simp] theorem State.setReg_pwr (s : State) (p o : Nat) (w : Word) : (s.setReg p o w).pwr = s.pwr := rfl
@[simp] theorem State.setReg_rtc (s : State) (p o : Nat) (w : Word) : (s.setReg p o w).rtc = s.rtc := rfl
@[simp] theorem State.setReg_occQueue (s : State) (p o : Nat) (w : Word) : (s.setReg p o w).occQueue = s.occQueue := rfl
@[simp] theorem State.setReg_occDropped (s : State) (p o : Nat) (w : Word) : (s.setReg p o w).occDropped = s.occDropped := rfl
@[simp] theorem State.setReg_cairn (s : State) (p o : Nat) (w : Word) : (s.setReg p o w).cairn = s.cairn := rfl
@[simp] theorem State.setReg_pending (s : State) (p o : Nat) (w : Word) : (s.setReg p o w).pending = s.pending := rfl

/-! ## setFld -/

@[simp] theorem State.setFld_variant (s : State) (f : Fld) (v : Nat) : (s.setFld f v).variant = s.variant := State.setReg_variant s _ _ _
@[simp] theorem State.setFld_latches (s : State) (f : Fld) (v : Nat) : (s.setFld f v).latches = s.latches := State.setReg_latches s _ _ _
@[simp] theorem State.setFld_fences (s : State) (f : Fld) (v : Nat) : (s.setFld f v).fences = s.fences := State.setReg_fences s _ _ _
@[simp] theorem State.setFld_returning (s : State) (f : Fld) (v : Nat) : (s.setFld f v).returning = s.returning := State.setReg_returning s _ _ _
@[simp] theorem State.setFld_free (s : State) (f : Fld) (v : Nat) : (s.setFld f v).free = s.free := State.setReg_free s _ _ _
@[simp] theorem State.setFld_out (s : State) (f : Fld) (v : Nat) : (s.setFld f v).out = s.out := State.setReg_out s _ _ _
@[simp] theorem State.setFld_mem (s : State) (f : Fld) (v : Nat) : (s.setFld f v).mem = s.mem := State.setReg_mem s _ _ _
@[simp] theorem State.setFld_pins (s : State) (f : Fld) (v : Nat) : (s.setFld f v).pins = s.pins := State.setReg_pins s _ _ _
@[simp] theorem State.setFld_ptp (s : State) (f : Fld) (v : Nat) : (s.setFld f v).ptp = s.ptp := State.setReg_ptp s _ _ _
@[simp] theorem State.setFld_commit (s : State) (f : Fld) (v : Nat) : (s.setFld f v).commit = s.commit := State.setReg_commit s _ _ _
@[simp] theorem State.setFld_party (s : State) (f : Fld) (v : Nat) : (s.setFld f v).party = s.party := State.setReg_party s _ _ _
@[simp] theorem State.setFld_gov (s : State) (f : Fld) (v : Nat) : (s.setFld f v).gov = s.gov := State.setReg_gov s _ _ _
@[simp] theorem State.setFld_netA (s : State) (f : Fld) (v : Nat) : (s.setFld f v).netA = s.netA := State.setReg_netA s _ _ _
@[simp] theorem State.setFld_netB (s : State) (f : Fld) (v : Nat) : (s.setFld f v).netB = s.netB := State.setReg_netB s _ _ _
@[simp] theorem State.setFld_ingest (s : State) (f : Fld) (v : Nat) : (s.setFld f v).ingest = s.ingest := State.setReg_ingest s _ _ _
@[simp] theorem State.setFld_storeCtl (s : State) (f : Fld) (v : Nat) : (s.setFld f v).storeCtl = s.storeCtl := State.setReg_storeCtl s _ _ _
@[simp] theorem State.setFld_reservations (s : State) (f : Fld) (v : Nat) : (s.setFld f v).reservations = s.reservations := State.setReg_reservations s _ _ _
@[simp] theorem State.setFld_codeWrites (s : State) (f : Fld) (v : Nat) : (s.setFld f v).codeWrites = s.codeWrites := State.setReg_codeWrites s _ _ _
@[simp] theorem State.setFld_strands (s : State) (f : Fld) (v : Nat) : (s.setFld f v).strands = s.strands := State.setReg_strands s _ _ _
@[simp] theorem State.setFld_abortSeen (s : State) (f : Fld) (v : Nat) : (s.setFld f v).abortSeen = s.abortSeen := State.setReg_abortSeen s _ _ _
@[simp] theorem State.setFld_presentedSlot (s : State) (f : Fld) (v : Nat) : (s.setFld f v).presentedSlot = s.presentedSlot := State.setReg_presentedSlot s _ _ _
@[simp] theorem State.setFld_rails (s : State) (f : Fld) (v : Nat) : (s.setFld f v).rails = s.rails := State.setReg_rails s _ _ _
@[simp] theorem State.setFld_telem (s : State) (f : Fld) (v : Nat) : (s.setFld f v).telem = s.telem := State.setReg_telem s _ _ _
@[simp] theorem State.setFld_railOverlap (s : State) (f : Fld) (v : Nat) : (s.setFld f v).railOverlap = s.railOverlap := State.setReg_railOverlap s _ _ _
@[simp] theorem State.setFld_meter (s : State) (f : Fld) (v : Nat) : (s.setFld f v).meter = s.meter := State.setReg_meter s _ _ _
@[simp] theorem State.setFld_belay (s : State) (f : Fld) (v : Nat) : (s.setFld f v).belay = s.belay := State.setReg_belay s _ _ _
@[simp] theorem State.setFld_posts (s : State) (f : Fld) (v : Nat) : (s.setFld f v).posts = s.posts := State.setReg_posts s _ _ _
@[simp] theorem State.setFld_harts (s : State) (f : Fld) (v : Nat) : (s.setFld f v).harts = s.harts := State.setReg_harts s _ _ _
@[simp] theorem State.setFld_sched (s : State) (f : Fld) (v : Nat) : (s.setFld f v).sched = s.sched := State.setReg_sched s _ _ _
@[simp] theorem State.setFld_router (s : State) (f : Fld) (v : Nat) : (s.setFld f v).router = s.router := State.setReg_router s _ _ _
@[simp] theorem State.setFld_wdt (s : State) (f : Fld) (v : Nat) : (s.setFld f v).wdt = s.wdt := State.setReg_wdt s _ _ _
@[simp] theorem State.setFld_lcp (s : State) (f : Fld) (v : Nat) : (s.setFld f v).lcp = s.lcp := State.setReg_lcp s _ _ _
@[simp] theorem State.setFld_hspi (s : State) (f : Fld) (v : Nat) : (s.setFld f v).hspi = s.hspi := State.setReg_hspi s _ _ _
@[simp] theorem State.setFld_uart (s : State) (f : Fld) (v : Nat) : (s.setFld f v).uart = s.uart := State.setReg_uart s _ _ _
@[simp] theorem State.setFld_side (s : State) (f : Fld) (v : Nat) : (s.setFld f v).side = s.side := State.setReg_side s _ _ _
@[simp] theorem State.setFld_airtime (s : State) (f : Fld) (v : Nat) : (s.setFld f v).airtime = s.airtime := State.setReg_airtime s _ _ _
@[simp] theorem State.setFld_anchor (s : State) (f : Fld) (v : Nat) : (s.setFld f v).anchor = s.anchor := State.setReg_anchor s _ _ _
@[simp] theorem State.setFld_upd (s : State) (f : Fld) (v : Nat) : (s.setFld f v).upd = s.upd := State.setReg_upd s _ _ _
@[simp] theorem State.setFld_rst (s : State) (f : Fld) (v : Nat) : (s.setFld f v).rst = s.rst := State.setReg_rst s _ _ _
@[simp] theorem State.setFld_clk (s : State) (f : Fld) (v : Nat) : (s.setFld f v).clk = s.clk := State.setReg_clk s _ _ _
@[simp] theorem State.setFld_pwr (s : State) (f : Fld) (v : Nat) : (s.setFld f v).pwr = s.pwr := State.setReg_pwr s _ _ _
@[simp] theorem State.setFld_rtc (s : State) (f : Fld) (v : Nat) : (s.setFld f v).rtc = s.rtc := State.setReg_rtc s _ _ _
@[simp] theorem State.setFld_occQueue (s : State) (f : Fld) (v : Nat) : (s.setFld f v).occQueue = s.occQueue := State.setReg_occQueue s _ _ _
@[simp] theorem State.setFld_occDropped (s : State) (f : Fld) (v : Nat) : (s.setFld f v).occDropped = s.occDropped := State.setReg_occDropped s _ _ _
@[simp] theorem State.setFld_cairn (s : State) (f : Fld) (v : Nat) : (s.setFld f v).cairn = s.cairn := State.setReg_cairn s _ _ _
@[simp] theorem State.setFld_pending (s : State) (f : Fld) (v : Nat) : (s.setFld f v).pending = s.pending := State.setReg_pending s _ _ _

/-! ## setFlag -/

@[simp] theorem State.setFlag_variant (s : State) (f : Fld) (c : Bool) : (s.setFlag f c).variant = s.variant := State.setFld_variant s f _
@[simp] theorem State.setFlag_latches (s : State) (f : Fld) (c : Bool) : (s.setFlag f c).latches = s.latches := State.setFld_latches s f _
@[simp] theorem State.setFlag_fences (s : State) (f : Fld) (c : Bool) : (s.setFlag f c).fences = s.fences := State.setFld_fences s f _
@[simp] theorem State.setFlag_returning (s : State) (f : Fld) (c : Bool) : (s.setFlag f c).returning = s.returning := State.setFld_returning s f _
@[simp] theorem State.setFlag_free (s : State) (f : Fld) (c : Bool) : (s.setFlag f c).free = s.free := State.setFld_free s f _
@[simp] theorem State.setFlag_out (s : State) (f : Fld) (c : Bool) : (s.setFlag f c).out = s.out := State.setFld_out s f _
@[simp] theorem State.setFlag_mem (s : State) (f : Fld) (c : Bool) : (s.setFlag f c).mem = s.mem := State.setFld_mem s f _
@[simp] theorem State.setFlag_pins (s : State) (f : Fld) (c : Bool) : (s.setFlag f c).pins = s.pins := State.setFld_pins s f _
@[simp] theorem State.setFlag_ptp (s : State) (f : Fld) (c : Bool) : (s.setFlag f c).ptp = s.ptp := State.setFld_ptp s f _
@[simp] theorem State.setFlag_commit (s : State) (f : Fld) (c : Bool) : (s.setFlag f c).commit = s.commit := State.setFld_commit s f _
@[simp] theorem State.setFlag_party (s : State) (f : Fld) (c : Bool) : (s.setFlag f c).party = s.party := State.setFld_party s f _
@[simp] theorem State.setFlag_gov (s : State) (f : Fld) (c : Bool) : (s.setFlag f c).gov = s.gov := State.setFld_gov s f _
@[simp] theorem State.setFlag_netA (s : State) (f : Fld) (c : Bool) : (s.setFlag f c).netA = s.netA := State.setFld_netA s f _
@[simp] theorem State.setFlag_netB (s : State) (f : Fld) (c : Bool) : (s.setFlag f c).netB = s.netB := State.setFld_netB s f _
@[simp] theorem State.setFlag_ingest (s : State) (f : Fld) (c : Bool) : (s.setFlag f c).ingest = s.ingest := State.setFld_ingest s f _
@[simp] theorem State.setFlag_storeCtl (s : State) (f : Fld) (c : Bool) : (s.setFlag f c).storeCtl = s.storeCtl := State.setFld_storeCtl s f _
@[simp] theorem State.setFlag_reservations (s : State) (f : Fld) (c : Bool) : (s.setFlag f c).reservations = s.reservations := State.setFld_reservations s f _
@[simp] theorem State.setFlag_codeWrites (s : State) (f : Fld) (c : Bool) : (s.setFlag f c).codeWrites = s.codeWrites := State.setFld_codeWrites s f _
@[simp] theorem State.setFlag_strands (s : State) (f : Fld) (c : Bool) : (s.setFlag f c).strands = s.strands := State.setFld_strands s f _
@[simp] theorem State.setFlag_abortSeen (s : State) (f : Fld) (c : Bool) : (s.setFlag f c).abortSeen = s.abortSeen := State.setFld_abortSeen s f _
@[simp] theorem State.setFlag_presentedSlot (s : State) (f : Fld) (c : Bool) : (s.setFlag f c).presentedSlot = s.presentedSlot := State.setFld_presentedSlot s f _
@[simp] theorem State.setFlag_rails (s : State) (f : Fld) (c : Bool) : (s.setFlag f c).rails = s.rails := State.setFld_rails s f _
@[simp] theorem State.setFlag_telem (s : State) (f : Fld) (c : Bool) : (s.setFlag f c).telem = s.telem := State.setFld_telem s f _
@[simp] theorem State.setFlag_railOverlap (s : State) (f : Fld) (c : Bool) : (s.setFlag f c).railOverlap = s.railOverlap := State.setFld_railOverlap s f _
@[simp] theorem State.setFlag_meter (s : State) (f : Fld) (c : Bool) : (s.setFlag f c).meter = s.meter := State.setFld_meter s f _
@[simp] theorem State.setFlag_belay (s : State) (f : Fld) (c : Bool) : (s.setFlag f c).belay = s.belay := State.setFld_belay s f _
@[simp] theorem State.setFlag_posts (s : State) (f : Fld) (c : Bool) : (s.setFlag f c).posts = s.posts := State.setFld_posts s f _
@[simp] theorem State.setFlag_harts (s : State) (f : Fld) (c : Bool) : (s.setFlag f c).harts = s.harts := State.setFld_harts s f _
@[simp] theorem State.setFlag_sched (s : State) (f : Fld) (c : Bool) : (s.setFlag f c).sched = s.sched := State.setFld_sched s f _
@[simp] theorem State.setFlag_router (s : State) (f : Fld) (c : Bool) : (s.setFlag f c).router = s.router := State.setFld_router s f _
@[simp] theorem State.setFlag_wdt (s : State) (f : Fld) (c : Bool) : (s.setFlag f c).wdt = s.wdt := State.setFld_wdt s f _
@[simp] theorem State.setFlag_lcp (s : State) (f : Fld) (c : Bool) : (s.setFlag f c).lcp = s.lcp := State.setFld_lcp s f _
@[simp] theorem State.setFlag_hspi (s : State) (f : Fld) (c : Bool) : (s.setFlag f c).hspi = s.hspi := State.setFld_hspi s f _
@[simp] theorem State.setFlag_uart (s : State) (f : Fld) (c : Bool) : (s.setFlag f c).uart = s.uart := State.setFld_uart s f _
@[simp] theorem State.setFlag_side (s : State) (f : Fld) (c : Bool) : (s.setFlag f c).side = s.side := State.setFld_side s f _
@[simp] theorem State.setFlag_airtime (s : State) (f : Fld) (c : Bool) : (s.setFlag f c).airtime = s.airtime := State.setFld_airtime s f _
@[simp] theorem State.setFlag_anchor (s : State) (f : Fld) (c : Bool) : (s.setFlag f c).anchor = s.anchor := State.setFld_anchor s f _
@[simp] theorem State.setFlag_upd (s : State) (f : Fld) (c : Bool) : (s.setFlag f c).upd = s.upd := State.setFld_upd s f _
@[simp] theorem State.setFlag_rst (s : State) (f : Fld) (c : Bool) : (s.setFlag f c).rst = s.rst := State.setFld_rst s f _
@[simp] theorem State.setFlag_clk (s : State) (f : Fld) (c : Bool) : (s.setFlag f c).clk = s.clk := State.setFld_clk s f _
@[simp] theorem State.setFlag_pwr (s : State) (f : Fld) (c : Bool) : (s.setFlag f c).pwr = s.pwr := State.setFld_pwr s f _
@[simp] theorem State.setFlag_rtc (s : State) (f : Fld) (c : Bool) : (s.setFlag f c).rtc = s.rtc := State.setFld_rtc s f _
@[simp] theorem State.setFlag_occQueue (s : State) (f : Fld) (c : Bool) : (s.setFlag f c).occQueue = s.occQueue := State.setFld_occQueue s f _
@[simp] theorem State.setFlag_occDropped (s : State) (f : Fld) (c : Bool) : (s.setFlag f c).occDropped = s.occDropped := State.setFld_occDropped s f _
@[simp] theorem State.setFlag_cairn (s : State) (f : Fld) (c : Bool) : (s.setFlag f c).cairn = s.cairn := State.setFld_cairn s f _
@[simp] theorem State.setFlag_pending (s : State) (f : Fld) (c : Bool) : (s.setFlag f c).pending = s.pending := State.setFld_pending s f _

/-! ## setBit -/

@[simp] theorem State.setBit_variant (s : State) (f : Fld) (k : Nat) (c : Bool) : (s.setBit f k c).variant = s.variant := State.setFld_variant s f _
@[simp] theorem State.setBit_latches (s : State) (f : Fld) (k : Nat) (c : Bool) : (s.setBit f k c).latches = s.latches := State.setFld_latches s f _
@[simp] theorem State.setBit_fences (s : State) (f : Fld) (k : Nat) (c : Bool) : (s.setBit f k c).fences = s.fences := State.setFld_fences s f _
@[simp] theorem State.setBit_returning (s : State) (f : Fld) (k : Nat) (c : Bool) : (s.setBit f k c).returning = s.returning := State.setFld_returning s f _
@[simp] theorem State.setBit_free (s : State) (f : Fld) (k : Nat) (c : Bool) : (s.setBit f k c).free = s.free := State.setFld_free s f _
@[simp] theorem State.setBit_out (s : State) (f : Fld) (k : Nat) (c : Bool) : (s.setBit f k c).out = s.out := State.setFld_out s f _
@[simp] theorem State.setBit_mem (s : State) (f : Fld) (k : Nat) (c : Bool) : (s.setBit f k c).mem = s.mem := State.setFld_mem s f _
@[simp] theorem State.setBit_pins (s : State) (f : Fld) (k : Nat) (c : Bool) : (s.setBit f k c).pins = s.pins := State.setFld_pins s f _
@[simp] theorem State.setBit_ptp (s : State) (f : Fld) (k : Nat) (c : Bool) : (s.setBit f k c).ptp = s.ptp := State.setFld_ptp s f _
@[simp] theorem State.setBit_commit (s : State) (f : Fld) (k : Nat) (c : Bool) : (s.setBit f k c).commit = s.commit := State.setFld_commit s f _
@[simp] theorem State.setBit_party (s : State) (f : Fld) (k : Nat) (c : Bool) : (s.setBit f k c).party = s.party := State.setFld_party s f _
@[simp] theorem State.setBit_gov (s : State) (f : Fld) (k : Nat) (c : Bool) : (s.setBit f k c).gov = s.gov := State.setFld_gov s f _
@[simp] theorem State.setBit_netA (s : State) (f : Fld) (k : Nat) (c : Bool) : (s.setBit f k c).netA = s.netA := State.setFld_netA s f _
@[simp] theorem State.setBit_netB (s : State) (f : Fld) (k : Nat) (c : Bool) : (s.setBit f k c).netB = s.netB := State.setFld_netB s f _
@[simp] theorem State.setBit_ingest (s : State) (f : Fld) (k : Nat) (c : Bool) : (s.setBit f k c).ingest = s.ingest := State.setFld_ingest s f _
@[simp] theorem State.setBit_storeCtl (s : State) (f : Fld) (k : Nat) (c : Bool) : (s.setBit f k c).storeCtl = s.storeCtl := State.setFld_storeCtl s f _
@[simp] theorem State.setBit_reservations (s : State) (f : Fld) (k : Nat) (c : Bool) : (s.setBit f k c).reservations = s.reservations := State.setFld_reservations s f _
@[simp] theorem State.setBit_codeWrites (s : State) (f : Fld) (k : Nat) (c : Bool) : (s.setBit f k c).codeWrites = s.codeWrites := State.setFld_codeWrites s f _
@[simp] theorem State.setBit_strands (s : State) (f : Fld) (k : Nat) (c : Bool) : (s.setBit f k c).strands = s.strands := State.setFld_strands s f _
@[simp] theorem State.setBit_abortSeen (s : State) (f : Fld) (k : Nat) (c : Bool) : (s.setBit f k c).abortSeen = s.abortSeen := State.setFld_abortSeen s f _
@[simp] theorem State.setBit_presentedSlot (s : State) (f : Fld) (k : Nat) (c : Bool) : (s.setBit f k c).presentedSlot = s.presentedSlot := State.setFld_presentedSlot s f _
@[simp] theorem State.setBit_rails (s : State) (f : Fld) (k : Nat) (c : Bool) : (s.setBit f k c).rails = s.rails := State.setFld_rails s f _
@[simp] theorem State.setBit_telem (s : State) (f : Fld) (k : Nat) (c : Bool) : (s.setBit f k c).telem = s.telem := State.setFld_telem s f _
@[simp] theorem State.setBit_railOverlap (s : State) (f : Fld) (k : Nat) (c : Bool) : (s.setBit f k c).railOverlap = s.railOverlap := State.setFld_railOverlap s f _
@[simp] theorem State.setBit_meter (s : State) (f : Fld) (k : Nat) (c : Bool) : (s.setBit f k c).meter = s.meter := State.setFld_meter s f _
@[simp] theorem State.setBit_belay (s : State) (f : Fld) (k : Nat) (c : Bool) : (s.setBit f k c).belay = s.belay := State.setFld_belay s f _
@[simp] theorem State.setBit_posts (s : State) (f : Fld) (k : Nat) (c : Bool) : (s.setBit f k c).posts = s.posts := State.setFld_posts s f _
@[simp] theorem State.setBit_harts (s : State) (f : Fld) (k : Nat) (c : Bool) : (s.setBit f k c).harts = s.harts := State.setFld_harts s f _
@[simp] theorem State.setBit_sched (s : State) (f : Fld) (k : Nat) (c : Bool) : (s.setBit f k c).sched = s.sched := State.setFld_sched s f _
@[simp] theorem State.setBit_router (s : State) (f : Fld) (k : Nat) (c : Bool) : (s.setBit f k c).router = s.router := State.setFld_router s f _
@[simp] theorem State.setBit_wdt (s : State) (f : Fld) (k : Nat) (c : Bool) : (s.setBit f k c).wdt = s.wdt := State.setFld_wdt s f _
@[simp] theorem State.setBit_lcp (s : State) (f : Fld) (k : Nat) (c : Bool) : (s.setBit f k c).lcp = s.lcp := State.setFld_lcp s f _
@[simp] theorem State.setBit_hspi (s : State) (f : Fld) (k : Nat) (c : Bool) : (s.setBit f k c).hspi = s.hspi := State.setFld_hspi s f _
@[simp] theorem State.setBit_uart (s : State) (f : Fld) (k : Nat) (c : Bool) : (s.setBit f k c).uart = s.uart := State.setFld_uart s f _
@[simp] theorem State.setBit_side (s : State) (f : Fld) (k : Nat) (c : Bool) : (s.setBit f k c).side = s.side := State.setFld_side s f _
@[simp] theorem State.setBit_airtime (s : State) (f : Fld) (k : Nat) (c : Bool) : (s.setBit f k c).airtime = s.airtime := State.setFld_airtime s f _
@[simp] theorem State.setBit_anchor (s : State) (f : Fld) (k : Nat) (c : Bool) : (s.setBit f k c).anchor = s.anchor := State.setFld_anchor s f _
@[simp] theorem State.setBit_upd (s : State) (f : Fld) (k : Nat) (c : Bool) : (s.setBit f k c).upd = s.upd := State.setFld_upd s f _
@[simp] theorem State.setBit_rst (s : State) (f : Fld) (k : Nat) (c : Bool) : (s.setBit f k c).rst = s.rst := State.setFld_rst s f _
@[simp] theorem State.setBit_clk (s : State) (f : Fld) (k : Nat) (c : Bool) : (s.setBit f k c).clk = s.clk := State.setFld_clk s f _
@[simp] theorem State.setBit_pwr (s : State) (f : Fld) (k : Nat) (c : Bool) : (s.setBit f k c).pwr = s.pwr := State.setFld_pwr s f _
@[simp] theorem State.setBit_rtc (s : State) (f : Fld) (k : Nat) (c : Bool) : (s.setBit f k c).rtc = s.rtc := State.setFld_rtc s f _
@[simp] theorem State.setBit_occQueue (s : State) (f : Fld) (k : Nat) (c : Bool) : (s.setBit f k c).occQueue = s.occQueue := State.setFld_occQueue s f _
@[simp] theorem State.setBit_occDropped (s : State) (f : Fld) (k : Nat) (c : Bool) : (s.setBit f k c).occDropped = s.occDropped := State.setFld_occDropped s f _
@[simp] theorem State.setBit_cairn (s : State) (f : Fld) (k : Nat) (c : Bool) : (s.setBit f k c).cairn = s.cairn := State.setFld_cairn s f _
@[simp] theorem State.setBit_pending (s : State) (f : Fld) (k : Nat) (c : Bool) : (s.setBit f k c).pending = s.pending := State.setFld_pending s f _

/-! ## add -/

@[simp] theorem State.add_variant (s : State) (f : Fld) (n : Nat) : (s.add f n).variant = s.variant := State.setFld_variant s f _
@[simp] theorem State.add_latches (s : State) (f : Fld) (n : Nat) : (s.add f n).latches = s.latches := State.setFld_latches s f _
@[simp] theorem State.add_fences (s : State) (f : Fld) (n : Nat) : (s.add f n).fences = s.fences := State.setFld_fences s f _
@[simp] theorem State.add_returning (s : State) (f : Fld) (n : Nat) : (s.add f n).returning = s.returning := State.setFld_returning s f _
@[simp] theorem State.add_free (s : State) (f : Fld) (n : Nat) : (s.add f n).free = s.free := State.setFld_free s f _
@[simp] theorem State.add_out (s : State) (f : Fld) (n : Nat) : (s.add f n).out = s.out := State.setFld_out s f _
@[simp] theorem State.add_mem (s : State) (f : Fld) (n : Nat) : (s.add f n).mem = s.mem := State.setFld_mem s f _
@[simp] theorem State.add_pins (s : State) (f : Fld) (n : Nat) : (s.add f n).pins = s.pins := State.setFld_pins s f _
@[simp] theorem State.add_ptp (s : State) (f : Fld) (n : Nat) : (s.add f n).ptp = s.ptp := State.setFld_ptp s f _
@[simp] theorem State.add_commit (s : State) (f : Fld) (n : Nat) : (s.add f n).commit = s.commit := State.setFld_commit s f _
@[simp] theorem State.add_party (s : State) (f : Fld) (n : Nat) : (s.add f n).party = s.party := State.setFld_party s f _
@[simp] theorem State.add_gov (s : State) (f : Fld) (n : Nat) : (s.add f n).gov = s.gov := State.setFld_gov s f _
@[simp] theorem State.add_netA (s : State) (f : Fld) (n : Nat) : (s.add f n).netA = s.netA := State.setFld_netA s f _
@[simp] theorem State.add_netB (s : State) (f : Fld) (n : Nat) : (s.add f n).netB = s.netB := State.setFld_netB s f _
@[simp] theorem State.add_ingest (s : State) (f : Fld) (n : Nat) : (s.add f n).ingest = s.ingest := State.setFld_ingest s f _
@[simp] theorem State.add_storeCtl (s : State) (f : Fld) (n : Nat) : (s.add f n).storeCtl = s.storeCtl := State.setFld_storeCtl s f _
@[simp] theorem State.add_reservations (s : State) (f : Fld) (n : Nat) : (s.add f n).reservations = s.reservations := State.setFld_reservations s f _
@[simp] theorem State.add_codeWrites (s : State) (f : Fld) (n : Nat) : (s.add f n).codeWrites = s.codeWrites := State.setFld_codeWrites s f _
@[simp] theorem State.add_strands (s : State) (f : Fld) (n : Nat) : (s.add f n).strands = s.strands := State.setFld_strands s f _
@[simp] theorem State.add_abortSeen (s : State) (f : Fld) (n : Nat) : (s.add f n).abortSeen = s.abortSeen := State.setFld_abortSeen s f _
@[simp] theorem State.add_presentedSlot (s : State) (f : Fld) (n : Nat) : (s.add f n).presentedSlot = s.presentedSlot := State.setFld_presentedSlot s f _
@[simp] theorem State.add_rails (s : State) (f : Fld) (n : Nat) : (s.add f n).rails = s.rails := State.setFld_rails s f _
@[simp] theorem State.add_telem (s : State) (f : Fld) (n : Nat) : (s.add f n).telem = s.telem := State.setFld_telem s f _
@[simp] theorem State.add_railOverlap (s : State) (f : Fld) (n : Nat) : (s.add f n).railOverlap = s.railOverlap := State.setFld_railOverlap s f _
@[simp] theorem State.add_meter (s : State) (f : Fld) (n : Nat) : (s.add f n).meter = s.meter := State.setFld_meter s f _
@[simp] theorem State.add_belay (s : State) (f : Fld) (n : Nat) : (s.add f n).belay = s.belay := State.setFld_belay s f _
@[simp] theorem State.add_posts (s : State) (f : Fld) (n : Nat) : (s.add f n).posts = s.posts := State.setFld_posts s f _
@[simp] theorem State.add_harts (s : State) (f : Fld) (n : Nat) : (s.add f n).harts = s.harts := State.setFld_harts s f _
@[simp] theorem State.add_sched (s : State) (f : Fld) (n : Nat) : (s.add f n).sched = s.sched := State.setFld_sched s f _
@[simp] theorem State.add_router (s : State) (f : Fld) (n : Nat) : (s.add f n).router = s.router := State.setFld_router s f _
@[simp] theorem State.add_wdt (s : State) (f : Fld) (n : Nat) : (s.add f n).wdt = s.wdt := State.setFld_wdt s f _
@[simp] theorem State.add_lcp (s : State) (f : Fld) (n : Nat) : (s.add f n).lcp = s.lcp := State.setFld_lcp s f _
@[simp] theorem State.add_hspi (s : State) (f : Fld) (n : Nat) : (s.add f n).hspi = s.hspi := State.setFld_hspi s f _
@[simp] theorem State.add_uart (s : State) (f : Fld) (n : Nat) : (s.add f n).uart = s.uart := State.setFld_uart s f _
@[simp] theorem State.add_side (s : State) (f : Fld) (n : Nat) : (s.add f n).side = s.side := State.setFld_side s f _
@[simp] theorem State.add_airtime (s : State) (f : Fld) (n : Nat) : (s.add f n).airtime = s.airtime := State.setFld_airtime s f _
@[simp] theorem State.add_anchor (s : State) (f : Fld) (n : Nat) : (s.add f n).anchor = s.anchor := State.setFld_anchor s f _
@[simp] theorem State.add_upd (s : State) (f : Fld) (n : Nat) : (s.add f n).upd = s.upd := State.setFld_upd s f _
@[simp] theorem State.add_rst (s : State) (f : Fld) (n : Nat) : (s.add f n).rst = s.rst := State.setFld_rst s f _
@[simp] theorem State.add_clk (s : State) (f : Fld) (n : Nat) : (s.add f n).clk = s.clk := State.setFld_clk s f _
@[simp] theorem State.add_pwr (s : State) (f : Fld) (n : Nat) : (s.add f n).pwr = s.pwr := State.setFld_pwr s f _
@[simp] theorem State.add_rtc (s : State) (f : Fld) (n : Nat) : (s.add f n).rtc = s.rtc := State.setFld_rtc s f _
@[simp] theorem State.add_occQueue (s : State) (f : Fld) (n : Nat) : (s.add f n).occQueue = s.occQueue := State.setFld_occQueue s f _
@[simp] theorem State.add_occDropped (s : State) (f : Fld) (n : Nat) : (s.add f n).occDropped = s.occDropped := State.setFld_occDropped s f _
@[simp] theorem State.add_cairn (s : State) (f : Fld) (n : Nat) : (s.add f n).cairn = s.cairn := State.setFld_cairn s f _
@[simp] theorem State.add_pending (s : State) (f : Fld) (n : Nat) : (s.add f n).pending = s.pending := State.setFld_pending s f _

/-! ## inc -/

@[simp] theorem State.inc_variant (s : State) (f : Fld) : (s.inc f).variant = s.variant := State.add_variant s f 1
@[simp] theorem State.inc_latches (s : State) (f : Fld) : (s.inc f).latches = s.latches := State.add_latches s f 1
@[simp] theorem State.inc_fences (s : State) (f : Fld) : (s.inc f).fences = s.fences := State.add_fences s f 1
@[simp] theorem State.inc_returning (s : State) (f : Fld) : (s.inc f).returning = s.returning := State.add_returning s f 1
@[simp] theorem State.inc_free (s : State) (f : Fld) : (s.inc f).free = s.free := State.add_free s f 1
@[simp] theorem State.inc_out (s : State) (f : Fld) : (s.inc f).out = s.out := State.add_out s f 1
@[simp] theorem State.inc_mem (s : State) (f : Fld) : (s.inc f).mem = s.mem := State.add_mem s f 1
@[simp] theorem State.inc_pins (s : State) (f : Fld) : (s.inc f).pins = s.pins := State.add_pins s f 1
@[simp] theorem State.inc_ptp (s : State) (f : Fld) : (s.inc f).ptp = s.ptp := State.add_ptp s f 1
@[simp] theorem State.inc_commit (s : State) (f : Fld) : (s.inc f).commit = s.commit := State.add_commit s f 1
@[simp] theorem State.inc_party (s : State) (f : Fld) : (s.inc f).party = s.party := State.add_party s f 1
@[simp] theorem State.inc_gov (s : State) (f : Fld) : (s.inc f).gov = s.gov := State.add_gov s f 1
@[simp] theorem State.inc_netA (s : State) (f : Fld) : (s.inc f).netA = s.netA := State.add_netA s f 1
@[simp] theorem State.inc_netB (s : State) (f : Fld) : (s.inc f).netB = s.netB := State.add_netB s f 1
@[simp] theorem State.inc_ingest (s : State) (f : Fld) : (s.inc f).ingest = s.ingest := State.add_ingest s f 1
@[simp] theorem State.inc_storeCtl (s : State) (f : Fld) : (s.inc f).storeCtl = s.storeCtl := State.add_storeCtl s f 1
@[simp] theorem State.inc_reservations (s : State) (f : Fld) : (s.inc f).reservations = s.reservations := State.add_reservations s f 1
@[simp] theorem State.inc_codeWrites (s : State) (f : Fld) : (s.inc f).codeWrites = s.codeWrites := State.add_codeWrites s f 1
@[simp] theorem State.inc_strands (s : State) (f : Fld) : (s.inc f).strands = s.strands := State.add_strands s f 1
@[simp] theorem State.inc_abortSeen (s : State) (f : Fld) : (s.inc f).abortSeen = s.abortSeen := State.add_abortSeen s f 1
@[simp] theorem State.inc_presentedSlot (s : State) (f : Fld) : (s.inc f).presentedSlot = s.presentedSlot := State.add_presentedSlot s f 1
@[simp] theorem State.inc_rails (s : State) (f : Fld) : (s.inc f).rails = s.rails := State.add_rails s f 1
@[simp] theorem State.inc_telem (s : State) (f : Fld) : (s.inc f).telem = s.telem := State.add_telem s f 1
@[simp] theorem State.inc_railOverlap (s : State) (f : Fld) : (s.inc f).railOverlap = s.railOverlap := State.add_railOverlap s f 1
@[simp] theorem State.inc_meter (s : State) (f : Fld) : (s.inc f).meter = s.meter := State.add_meter s f 1
@[simp] theorem State.inc_belay (s : State) (f : Fld) : (s.inc f).belay = s.belay := State.add_belay s f 1
@[simp] theorem State.inc_posts (s : State) (f : Fld) : (s.inc f).posts = s.posts := State.add_posts s f 1
@[simp] theorem State.inc_harts (s : State) (f : Fld) : (s.inc f).harts = s.harts := State.add_harts s f 1
@[simp] theorem State.inc_sched (s : State) (f : Fld) : (s.inc f).sched = s.sched := State.add_sched s f 1
@[simp] theorem State.inc_router (s : State) (f : Fld) : (s.inc f).router = s.router := State.add_router s f 1
@[simp] theorem State.inc_wdt (s : State) (f : Fld) : (s.inc f).wdt = s.wdt := State.add_wdt s f 1
@[simp] theorem State.inc_lcp (s : State) (f : Fld) : (s.inc f).lcp = s.lcp := State.add_lcp s f 1
@[simp] theorem State.inc_hspi (s : State) (f : Fld) : (s.inc f).hspi = s.hspi := State.add_hspi s f 1
@[simp] theorem State.inc_uart (s : State) (f : Fld) : (s.inc f).uart = s.uart := State.add_uart s f 1
@[simp] theorem State.inc_side (s : State) (f : Fld) : (s.inc f).side = s.side := State.add_side s f 1
@[simp] theorem State.inc_airtime (s : State) (f : Fld) : (s.inc f).airtime = s.airtime := State.add_airtime s f 1
@[simp] theorem State.inc_anchor (s : State) (f : Fld) : (s.inc f).anchor = s.anchor := State.add_anchor s f 1
@[simp] theorem State.inc_upd (s : State) (f : Fld) : (s.inc f).upd = s.upd := State.add_upd s f 1
@[simp] theorem State.inc_rst (s : State) (f : Fld) : (s.inc f).rst = s.rst := State.add_rst s f 1
@[simp] theorem State.inc_clk (s : State) (f : Fld) : (s.inc f).clk = s.clk := State.add_clk s f 1
@[simp] theorem State.inc_pwr (s : State) (f : Fld) : (s.inc f).pwr = s.pwr := State.add_pwr s f 1
@[simp] theorem State.inc_rtc (s : State) (f : Fld) : (s.inc f).rtc = s.rtc := State.add_rtc s f 1
@[simp] theorem State.inc_occQueue (s : State) (f : Fld) : (s.inc f).occQueue = s.occQueue := State.add_occQueue s f 1
@[simp] theorem State.inc_occDropped (s : State) (f : Fld) : (s.inc f).occDropped = s.occDropped := State.add_occDropped s f 1
@[simp] theorem State.inc_cairn (s : State) (f : Fld) : (s.inc f).cairn = s.cairn := State.add_cairn s f 1
@[simp] theorem State.inc_pending (s : State) (f : Fld) : (s.inc f).pending = s.pending := State.add_pending s f 1

/-! ## satInc -/

@[simp] theorem State.satInc_variant (s : State) (f : Fld) : (s.satInc f).variant = s.variant := State.setFld_variant s f _
@[simp] theorem State.satInc_latches (s : State) (f : Fld) : (s.satInc f).latches = s.latches := State.setFld_latches s f _
@[simp] theorem State.satInc_fences (s : State) (f : Fld) : (s.satInc f).fences = s.fences := State.setFld_fences s f _
@[simp] theorem State.satInc_returning (s : State) (f : Fld) : (s.satInc f).returning = s.returning := State.setFld_returning s f _
@[simp] theorem State.satInc_free (s : State) (f : Fld) : (s.satInc f).free = s.free := State.setFld_free s f _
@[simp] theorem State.satInc_out (s : State) (f : Fld) : (s.satInc f).out = s.out := State.setFld_out s f _
@[simp] theorem State.satInc_mem (s : State) (f : Fld) : (s.satInc f).mem = s.mem := State.setFld_mem s f _
@[simp] theorem State.satInc_pins (s : State) (f : Fld) : (s.satInc f).pins = s.pins := State.setFld_pins s f _
@[simp] theorem State.satInc_ptp (s : State) (f : Fld) : (s.satInc f).ptp = s.ptp := State.setFld_ptp s f _
@[simp] theorem State.satInc_commit (s : State) (f : Fld) : (s.satInc f).commit = s.commit := State.setFld_commit s f _
@[simp] theorem State.satInc_party (s : State) (f : Fld) : (s.satInc f).party = s.party := State.setFld_party s f _
@[simp] theorem State.satInc_gov (s : State) (f : Fld) : (s.satInc f).gov = s.gov := State.setFld_gov s f _
@[simp] theorem State.satInc_netA (s : State) (f : Fld) : (s.satInc f).netA = s.netA := State.setFld_netA s f _
@[simp] theorem State.satInc_netB (s : State) (f : Fld) : (s.satInc f).netB = s.netB := State.setFld_netB s f _
@[simp] theorem State.satInc_ingest (s : State) (f : Fld) : (s.satInc f).ingest = s.ingest := State.setFld_ingest s f _
@[simp] theorem State.satInc_storeCtl (s : State) (f : Fld) : (s.satInc f).storeCtl = s.storeCtl := State.setFld_storeCtl s f _
@[simp] theorem State.satInc_reservations (s : State) (f : Fld) : (s.satInc f).reservations = s.reservations := State.setFld_reservations s f _
@[simp] theorem State.satInc_codeWrites (s : State) (f : Fld) : (s.satInc f).codeWrites = s.codeWrites := State.setFld_codeWrites s f _
@[simp] theorem State.satInc_strands (s : State) (f : Fld) : (s.satInc f).strands = s.strands := State.setFld_strands s f _
@[simp] theorem State.satInc_abortSeen (s : State) (f : Fld) : (s.satInc f).abortSeen = s.abortSeen := State.setFld_abortSeen s f _
@[simp] theorem State.satInc_presentedSlot (s : State) (f : Fld) : (s.satInc f).presentedSlot = s.presentedSlot := State.setFld_presentedSlot s f _
@[simp] theorem State.satInc_rails (s : State) (f : Fld) : (s.satInc f).rails = s.rails := State.setFld_rails s f _
@[simp] theorem State.satInc_telem (s : State) (f : Fld) : (s.satInc f).telem = s.telem := State.setFld_telem s f _
@[simp] theorem State.satInc_railOverlap (s : State) (f : Fld) : (s.satInc f).railOverlap = s.railOverlap := State.setFld_railOverlap s f _
@[simp] theorem State.satInc_meter (s : State) (f : Fld) : (s.satInc f).meter = s.meter := State.setFld_meter s f _
@[simp] theorem State.satInc_belay (s : State) (f : Fld) : (s.satInc f).belay = s.belay := State.setFld_belay s f _
@[simp] theorem State.satInc_posts (s : State) (f : Fld) : (s.satInc f).posts = s.posts := State.setFld_posts s f _
@[simp] theorem State.satInc_harts (s : State) (f : Fld) : (s.satInc f).harts = s.harts := State.setFld_harts s f _
@[simp] theorem State.satInc_sched (s : State) (f : Fld) : (s.satInc f).sched = s.sched := State.setFld_sched s f _
@[simp] theorem State.satInc_router (s : State) (f : Fld) : (s.satInc f).router = s.router := State.setFld_router s f _
@[simp] theorem State.satInc_wdt (s : State) (f : Fld) : (s.satInc f).wdt = s.wdt := State.setFld_wdt s f _
@[simp] theorem State.satInc_lcp (s : State) (f : Fld) : (s.satInc f).lcp = s.lcp := State.setFld_lcp s f _
@[simp] theorem State.satInc_hspi (s : State) (f : Fld) : (s.satInc f).hspi = s.hspi := State.setFld_hspi s f _
@[simp] theorem State.satInc_uart (s : State) (f : Fld) : (s.satInc f).uart = s.uart := State.setFld_uart s f _
@[simp] theorem State.satInc_side (s : State) (f : Fld) : (s.satInc f).side = s.side := State.setFld_side s f _
@[simp] theorem State.satInc_airtime (s : State) (f : Fld) : (s.satInc f).airtime = s.airtime := State.setFld_airtime s f _
@[simp] theorem State.satInc_anchor (s : State) (f : Fld) : (s.satInc f).anchor = s.anchor := State.setFld_anchor s f _
@[simp] theorem State.satInc_upd (s : State) (f : Fld) : (s.satInc f).upd = s.upd := State.setFld_upd s f _
@[simp] theorem State.satInc_rst (s : State) (f : Fld) : (s.satInc f).rst = s.rst := State.setFld_rst s f _
@[simp] theorem State.satInc_clk (s : State) (f : Fld) : (s.satInc f).clk = s.clk := State.setFld_clk s f _
@[simp] theorem State.satInc_pwr (s : State) (f : Fld) : (s.satInc f).pwr = s.pwr := State.setFld_pwr s f _
@[simp] theorem State.satInc_rtc (s : State) (f : Fld) : (s.satInc f).rtc = s.rtc := State.setFld_rtc s f _
@[simp] theorem State.satInc_occQueue (s : State) (f : Fld) : (s.satInc f).occQueue = s.occQueue := State.setFld_occQueue s f _
@[simp] theorem State.satInc_occDropped (s : State) (f : Fld) : (s.satInc f).occDropped = s.occDropped := State.setFld_occDropped s f _
@[simp] theorem State.satInc_cairn (s : State) (f : Fld) : (s.satInc f).cairn = s.cairn := State.setFld_cairn s f _
@[simp] theorem State.satInc_pending (s : State) (f : Fld) : (s.satInc f).pending = s.pending := State.setFld_pending s f _

/-! ## maxFld -/

@[simp] theorem State.maxFld_variant (s : State) (f : Fld) (v : Nat) : (s.maxFld f v).variant = s.variant := State.setFld_variant s f _
@[simp] theorem State.maxFld_latches (s : State) (f : Fld) (v : Nat) : (s.maxFld f v).latches = s.latches := State.setFld_latches s f _
@[simp] theorem State.maxFld_fences (s : State) (f : Fld) (v : Nat) : (s.maxFld f v).fences = s.fences := State.setFld_fences s f _
@[simp] theorem State.maxFld_returning (s : State) (f : Fld) (v : Nat) : (s.maxFld f v).returning = s.returning := State.setFld_returning s f _
@[simp] theorem State.maxFld_free (s : State) (f : Fld) (v : Nat) : (s.maxFld f v).free = s.free := State.setFld_free s f _
@[simp] theorem State.maxFld_out (s : State) (f : Fld) (v : Nat) : (s.maxFld f v).out = s.out := State.setFld_out s f _
@[simp] theorem State.maxFld_mem (s : State) (f : Fld) (v : Nat) : (s.maxFld f v).mem = s.mem := State.setFld_mem s f _
@[simp] theorem State.maxFld_pins (s : State) (f : Fld) (v : Nat) : (s.maxFld f v).pins = s.pins := State.setFld_pins s f _
@[simp] theorem State.maxFld_ptp (s : State) (f : Fld) (v : Nat) : (s.maxFld f v).ptp = s.ptp := State.setFld_ptp s f _
@[simp] theorem State.maxFld_commit (s : State) (f : Fld) (v : Nat) : (s.maxFld f v).commit = s.commit := State.setFld_commit s f _
@[simp] theorem State.maxFld_party (s : State) (f : Fld) (v : Nat) : (s.maxFld f v).party = s.party := State.setFld_party s f _
@[simp] theorem State.maxFld_gov (s : State) (f : Fld) (v : Nat) : (s.maxFld f v).gov = s.gov := State.setFld_gov s f _
@[simp] theorem State.maxFld_netA (s : State) (f : Fld) (v : Nat) : (s.maxFld f v).netA = s.netA := State.setFld_netA s f _
@[simp] theorem State.maxFld_netB (s : State) (f : Fld) (v : Nat) : (s.maxFld f v).netB = s.netB := State.setFld_netB s f _
@[simp] theorem State.maxFld_ingest (s : State) (f : Fld) (v : Nat) : (s.maxFld f v).ingest = s.ingest := State.setFld_ingest s f _
@[simp] theorem State.maxFld_storeCtl (s : State) (f : Fld) (v : Nat) : (s.maxFld f v).storeCtl = s.storeCtl := State.setFld_storeCtl s f _
@[simp] theorem State.maxFld_reservations (s : State) (f : Fld) (v : Nat) : (s.maxFld f v).reservations = s.reservations := State.setFld_reservations s f _
@[simp] theorem State.maxFld_codeWrites (s : State) (f : Fld) (v : Nat) : (s.maxFld f v).codeWrites = s.codeWrites := State.setFld_codeWrites s f _
@[simp] theorem State.maxFld_strands (s : State) (f : Fld) (v : Nat) : (s.maxFld f v).strands = s.strands := State.setFld_strands s f _
@[simp] theorem State.maxFld_abortSeen (s : State) (f : Fld) (v : Nat) : (s.maxFld f v).abortSeen = s.abortSeen := State.setFld_abortSeen s f _
@[simp] theorem State.maxFld_presentedSlot (s : State) (f : Fld) (v : Nat) : (s.maxFld f v).presentedSlot = s.presentedSlot := State.setFld_presentedSlot s f _
@[simp] theorem State.maxFld_rails (s : State) (f : Fld) (v : Nat) : (s.maxFld f v).rails = s.rails := State.setFld_rails s f _
@[simp] theorem State.maxFld_telem (s : State) (f : Fld) (v : Nat) : (s.maxFld f v).telem = s.telem := State.setFld_telem s f _
@[simp] theorem State.maxFld_railOverlap (s : State) (f : Fld) (v : Nat) : (s.maxFld f v).railOverlap = s.railOverlap := State.setFld_railOverlap s f _
@[simp] theorem State.maxFld_meter (s : State) (f : Fld) (v : Nat) : (s.maxFld f v).meter = s.meter := State.setFld_meter s f _
@[simp] theorem State.maxFld_belay (s : State) (f : Fld) (v : Nat) : (s.maxFld f v).belay = s.belay := State.setFld_belay s f _
@[simp] theorem State.maxFld_posts (s : State) (f : Fld) (v : Nat) : (s.maxFld f v).posts = s.posts := State.setFld_posts s f _
@[simp] theorem State.maxFld_harts (s : State) (f : Fld) (v : Nat) : (s.maxFld f v).harts = s.harts := State.setFld_harts s f _
@[simp] theorem State.maxFld_sched (s : State) (f : Fld) (v : Nat) : (s.maxFld f v).sched = s.sched := State.setFld_sched s f _
@[simp] theorem State.maxFld_router (s : State) (f : Fld) (v : Nat) : (s.maxFld f v).router = s.router := State.setFld_router s f _
@[simp] theorem State.maxFld_wdt (s : State) (f : Fld) (v : Nat) : (s.maxFld f v).wdt = s.wdt := State.setFld_wdt s f _
@[simp] theorem State.maxFld_lcp (s : State) (f : Fld) (v : Nat) : (s.maxFld f v).lcp = s.lcp := State.setFld_lcp s f _
@[simp] theorem State.maxFld_hspi (s : State) (f : Fld) (v : Nat) : (s.maxFld f v).hspi = s.hspi := State.setFld_hspi s f _
@[simp] theorem State.maxFld_uart (s : State) (f : Fld) (v : Nat) : (s.maxFld f v).uart = s.uart := State.setFld_uart s f _
@[simp] theorem State.maxFld_side (s : State) (f : Fld) (v : Nat) : (s.maxFld f v).side = s.side := State.setFld_side s f _
@[simp] theorem State.maxFld_airtime (s : State) (f : Fld) (v : Nat) : (s.maxFld f v).airtime = s.airtime := State.setFld_airtime s f _
@[simp] theorem State.maxFld_anchor (s : State) (f : Fld) (v : Nat) : (s.maxFld f v).anchor = s.anchor := State.setFld_anchor s f _
@[simp] theorem State.maxFld_upd (s : State) (f : Fld) (v : Nat) : (s.maxFld f v).upd = s.upd := State.setFld_upd s f _
@[simp] theorem State.maxFld_rst (s : State) (f : Fld) (v : Nat) : (s.maxFld f v).rst = s.rst := State.setFld_rst s f _
@[simp] theorem State.maxFld_clk (s : State) (f : Fld) (v : Nat) : (s.maxFld f v).clk = s.clk := State.setFld_clk s f _
@[simp] theorem State.maxFld_pwr (s : State) (f : Fld) (v : Nat) : (s.maxFld f v).pwr = s.pwr := State.setFld_pwr s f _
@[simp] theorem State.maxFld_rtc (s : State) (f : Fld) (v : Nat) : (s.maxFld f v).rtc = s.rtc := State.setFld_rtc s f _
@[simp] theorem State.maxFld_occQueue (s : State) (f : Fld) (v : Nat) : (s.maxFld f v).occQueue = s.occQueue := State.setFld_occQueue s f _
@[simp] theorem State.maxFld_occDropped (s : State) (f : Fld) (v : Nat) : (s.maxFld f v).occDropped = s.occDropped := State.setFld_occDropped s f _
@[simp] theorem State.maxFld_cairn (s : State) (f : Fld) (v : Nat) : (s.maxFld f v).cairn = s.cairn := State.setFld_cairn s f _
@[simp] theorem State.maxFld_pending (s : State) (f : Fld) (v : Nat) : (s.maxFld f v).pending = s.pending := State.setFld_pending s f _

/-! ## setFrame -/

@[simp] theorem State.setFrame_variant (s : State) (l h : Fld) (n : Nat) : (s.setFrame l h n).variant = s.variant := (State.setFld_variant _ h _).trans (State.setFld_variant s l n)
@[simp] theorem State.setFrame_latches (s : State) (l h : Fld) (n : Nat) : (s.setFrame l h n).latches = s.latches := (State.setFld_latches _ h _).trans (State.setFld_latches s l n)
@[simp] theorem State.setFrame_fences (s : State) (l h : Fld) (n : Nat) : (s.setFrame l h n).fences = s.fences := (State.setFld_fences _ h _).trans (State.setFld_fences s l n)
@[simp] theorem State.setFrame_returning (s : State) (l h : Fld) (n : Nat) : (s.setFrame l h n).returning = s.returning := (State.setFld_returning _ h _).trans (State.setFld_returning s l n)
@[simp] theorem State.setFrame_free (s : State) (l h : Fld) (n : Nat) : (s.setFrame l h n).free = s.free := (State.setFld_free _ h _).trans (State.setFld_free s l n)
@[simp] theorem State.setFrame_out (s : State) (l h : Fld) (n : Nat) : (s.setFrame l h n).out = s.out := (State.setFld_out _ h _).trans (State.setFld_out s l n)
@[simp] theorem State.setFrame_mem (s : State) (l h : Fld) (n : Nat) : (s.setFrame l h n).mem = s.mem := (State.setFld_mem _ h _).trans (State.setFld_mem s l n)
@[simp] theorem State.setFrame_pins (s : State) (l h : Fld) (n : Nat) : (s.setFrame l h n).pins = s.pins := (State.setFld_pins _ h _).trans (State.setFld_pins s l n)
@[simp] theorem State.setFrame_ptp (s : State) (l h : Fld) (n : Nat) : (s.setFrame l h n).ptp = s.ptp := (State.setFld_ptp _ h _).trans (State.setFld_ptp s l n)
@[simp] theorem State.setFrame_commit (s : State) (l h : Fld) (n : Nat) : (s.setFrame l h n).commit = s.commit := (State.setFld_commit _ h _).trans (State.setFld_commit s l n)
@[simp] theorem State.setFrame_party (s : State) (l h : Fld) (n : Nat) : (s.setFrame l h n).party = s.party := (State.setFld_party _ h _).trans (State.setFld_party s l n)
@[simp] theorem State.setFrame_gov (s : State) (l h : Fld) (n : Nat) : (s.setFrame l h n).gov = s.gov := (State.setFld_gov _ h _).trans (State.setFld_gov s l n)
@[simp] theorem State.setFrame_netA (s : State) (l h : Fld) (n : Nat) : (s.setFrame l h n).netA = s.netA := (State.setFld_netA _ h _).trans (State.setFld_netA s l n)
@[simp] theorem State.setFrame_netB (s : State) (l h : Fld) (n : Nat) : (s.setFrame l h n).netB = s.netB := (State.setFld_netB _ h _).trans (State.setFld_netB s l n)
@[simp] theorem State.setFrame_ingest (s : State) (l h : Fld) (n : Nat) : (s.setFrame l h n).ingest = s.ingest := (State.setFld_ingest _ h _).trans (State.setFld_ingest s l n)
@[simp] theorem State.setFrame_storeCtl (s : State) (l h : Fld) (n : Nat) : (s.setFrame l h n).storeCtl = s.storeCtl := (State.setFld_storeCtl _ h _).trans (State.setFld_storeCtl s l n)
@[simp] theorem State.setFrame_reservations (s : State) (l h : Fld) (n : Nat) : (s.setFrame l h n).reservations = s.reservations := (State.setFld_reservations _ h _).trans (State.setFld_reservations s l n)
@[simp] theorem State.setFrame_codeWrites (s : State) (l h : Fld) (n : Nat) : (s.setFrame l h n).codeWrites = s.codeWrites := (State.setFld_codeWrites _ h _).trans (State.setFld_codeWrites s l n)
@[simp] theorem State.setFrame_strands (s : State) (l h : Fld) (n : Nat) : (s.setFrame l h n).strands = s.strands := (State.setFld_strands _ h _).trans (State.setFld_strands s l n)
@[simp] theorem State.setFrame_abortSeen (s : State) (l h : Fld) (n : Nat) : (s.setFrame l h n).abortSeen = s.abortSeen := (State.setFld_abortSeen _ h _).trans (State.setFld_abortSeen s l n)
@[simp] theorem State.setFrame_presentedSlot (s : State) (l h : Fld) (n : Nat) : (s.setFrame l h n).presentedSlot = s.presentedSlot := (State.setFld_presentedSlot _ h _).trans (State.setFld_presentedSlot s l n)
@[simp] theorem State.setFrame_rails (s : State) (l h : Fld) (n : Nat) : (s.setFrame l h n).rails = s.rails := (State.setFld_rails _ h _).trans (State.setFld_rails s l n)
@[simp] theorem State.setFrame_telem (s : State) (l h : Fld) (n : Nat) : (s.setFrame l h n).telem = s.telem := (State.setFld_telem _ h _).trans (State.setFld_telem s l n)
@[simp] theorem State.setFrame_railOverlap (s : State) (l h : Fld) (n : Nat) : (s.setFrame l h n).railOverlap = s.railOverlap := (State.setFld_railOverlap _ h _).trans (State.setFld_railOverlap s l n)
@[simp] theorem State.setFrame_meter (s : State) (l h : Fld) (n : Nat) : (s.setFrame l h n).meter = s.meter := (State.setFld_meter _ h _).trans (State.setFld_meter s l n)
@[simp] theorem State.setFrame_belay (s : State) (l h : Fld) (n : Nat) : (s.setFrame l h n).belay = s.belay := (State.setFld_belay _ h _).trans (State.setFld_belay s l n)
@[simp] theorem State.setFrame_posts (s : State) (l h : Fld) (n : Nat) : (s.setFrame l h n).posts = s.posts := (State.setFld_posts _ h _).trans (State.setFld_posts s l n)
@[simp] theorem State.setFrame_harts (s : State) (l h : Fld) (n : Nat) : (s.setFrame l h n).harts = s.harts := (State.setFld_harts _ h _).trans (State.setFld_harts s l n)
@[simp] theorem State.setFrame_sched (s : State) (l h : Fld) (n : Nat) : (s.setFrame l h n).sched = s.sched := (State.setFld_sched _ h _).trans (State.setFld_sched s l n)
@[simp] theorem State.setFrame_router (s : State) (l h : Fld) (n : Nat) : (s.setFrame l h n).router = s.router := (State.setFld_router _ h _).trans (State.setFld_router s l n)
@[simp] theorem State.setFrame_wdt (s : State) (l h : Fld) (n : Nat) : (s.setFrame l h n).wdt = s.wdt := (State.setFld_wdt _ h _).trans (State.setFld_wdt s l n)
@[simp] theorem State.setFrame_lcp (s : State) (l h : Fld) (n : Nat) : (s.setFrame l h n).lcp = s.lcp := (State.setFld_lcp _ h _).trans (State.setFld_lcp s l n)
@[simp] theorem State.setFrame_hspi (s : State) (l h : Fld) (n : Nat) : (s.setFrame l h n).hspi = s.hspi := (State.setFld_hspi _ h _).trans (State.setFld_hspi s l n)
@[simp] theorem State.setFrame_uart (s : State) (l h : Fld) (n : Nat) : (s.setFrame l h n).uart = s.uart := (State.setFld_uart _ h _).trans (State.setFld_uart s l n)
@[simp] theorem State.setFrame_side (s : State) (l h : Fld) (n : Nat) : (s.setFrame l h n).side = s.side := (State.setFld_side _ h _).trans (State.setFld_side s l n)
@[simp] theorem State.setFrame_airtime (s : State) (l h : Fld) (n : Nat) : (s.setFrame l h n).airtime = s.airtime := (State.setFld_airtime _ h _).trans (State.setFld_airtime s l n)
@[simp] theorem State.setFrame_anchor (s : State) (l h : Fld) (n : Nat) : (s.setFrame l h n).anchor = s.anchor := (State.setFld_anchor _ h _).trans (State.setFld_anchor s l n)
@[simp] theorem State.setFrame_upd (s : State) (l h : Fld) (n : Nat) : (s.setFrame l h n).upd = s.upd := (State.setFld_upd _ h _).trans (State.setFld_upd s l n)
@[simp] theorem State.setFrame_rst (s : State) (l h : Fld) (n : Nat) : (s.setFrame l h n).rst = s.rst := (State.setFld_rst _ h _).trans (State.setFld_rst s l n)
@[simp] theorem State.setFrame_clk (s : State) (l h : Fld) (n : Nat) : (s.setFrame l h n).clk = s.clk := (State.setFld_clk _ h _).trans (State.setFld_clk s l n)
@[simp] theorem State.setFrame_pwr (s : State) (l h : Fld) (n : Nat) : (s.setFrame l h n).pwr = s.pwr := (State.setFld_pwr _ h _).trans (State.setFld_pwr s l n)
@[simp] theorem State.setFrame_rtc (s : State) (l h : Fld) (n : Nat) : (s.setFrame l h n).rtc = s.rtc := (State.setFld_rtc _ h _).trans (State.setFld_rtc s l n)
@[simp] theorem State.setFrame_occQueue (s : State) (l h : Fld) (n : Nat) : (s.setFrame l h n).occQueue = s.occQueue := (State.setFld_occQueue _ h _).trans (State.setFld_occQueue s l n)
@[simp] theorem State.setFrame_occDropped (s : State) (l h : Fld) (n : Nat) : (s.setFrame l h n).occDropped = s.occDropped := (State.setFld_occDropped _ h _).trans (State.setFld_occDropped s l n)
@[simp] theorem State.setFrame_cairn (s : State) (l h : Fld) (n : Nat) : (s.setFrame l h n).cairn = s.cairn := (State.setFld_cairn _ h _).trans (State.setFld_cairn s l n)
@[simp] theorem State.setFrame_pending (s : State) (l h : Fld) (n : Nat) : (s.setFrame l h n).pending = s.pending := (State.setFld_pending _ h _).trans (State.setFld_pending s l n)

/-! ## clearPage -/

@[simp] theorem State.clearPage_variant (s : State) (p : Nat) : (s.clearPage p).variant = s.variant := rfl
@[simp] theorem State.clearPage_fences (s : State) (p : Nat) : (s.clearPage p).fences = s.fences := rfl
@[simp] theorem State.clearPage_returning (s : State) (p : Nat) : (s.clearPage p).returning = s.returning := rfl
@[simp] theorem State.clearPage_free (s : State) (p : Nat) : (s.clearPage p).free = s.free := rfl
@[simp] theorem State.clearPage_out (s : State) (p : Nat) : (s.clearPage p).out = s.out := rfl
@[simp] theorem State.clearPage_mem (s : State) (p : Nat) : (s.clearPage p).mem = s.mem := rfl
@[simp] theorem State.clearPage_pins (s : State) (p : Nat) : (s.clearPage p).pins = s.pins := rfl
@[simp] theorem State.clearPage_ptp (s : State) (p : Nat) : (s.clearPage p).ptp = s.ptp := rfl
@[simp] theorem State.clearPage_commit (s : State) (p : Nat) : (s.clearPage p).commit = s.commit := rfl
@[simp] theorem State.clearPage_party (s : State) (p : Nat) : (s.clearPage p).party = s.party := rfl
@[simp] theorem State.clearPage_gov (s : State) (p : Nat) : (s.clearPage p).gov = s.gov := rfl
@[simp] theorem State.clearPage_netA (s : State) (p : Nat) : (s.clearPage p).netA = s.netA := rfl
@[simp] theorem State.clearPage_netB (s : State) (p : Nat) : (s.clearPage p).netB = s.netB := rfl
@[simp] theorem State.clearPage_ingest (s : State) (p : Nat) : (s.clearPage p).ingest = s.ingest := rfl
@[simp] theorem State.clearPage_storeCtl (s : State) (p : Nat) : (s.clearPage p).storeCtl = s.storeCtl := rfl
@[simp] theorem State.clearPage_reservations (s : State) (p : Nat) : (s.clearPage p).reservations = s.reservations := rfl
@[simp] theorem State.clearPage_codeWrites (s : State) (p : Nat) : (s.clearPage p).codeWrites = s.codeWrites := rfl
@[simp] theorem State.clearPage_strands (s : State) (p : Nat) : (s.clearPage p).strands = s.strands := rfl
@[simp] theorem State.clearPage_abortSeen (s : State) (p : Nat) : (s.clearPage p).abortSeen = s.abortSeen := rfl
@[simp] theorem State.clearPage_presentedSlot (s : State) (p : Nat) : (s.clearPage p).presentedSlot = s.presentedSlot := rfl
@[simp] theorem State.clearPage_rails (s : State) (p : Nat) : (s.clearPage p).rails = s.rails := rfl
@[simp] theorem State.clearPage_telem (s : State) (p : Nat) : (s.clearPage p).telem = s.telem := rfl
@[simp] theorem State.clearPage_railOverlap (s : State) (p : Nat) : (s.clearPage p).railOverlap = s.railOverlap := rfl
@[simp] theorem State.clearPage_meter (s : State) (p : Nat) : (s.clearPage p).meter = s.meter := rfl
@[simp] theorem State.clearPage_belay (s : State) (p : Nat) : (s.clearPage p).belay = s.belay := rfl
@[simp] theorem State.clearPage_posts (s : State) (p : Nat) : (s.clearPage p).posts = s.posts := rfl
@[simp] theorem State.clearPage_harts (s : State) (p : Nat) : (s.clearPage p).harts = s.harts := rfl
@[simp] theorem State.clearPage_sched (s : State) (p : Nat) : (s.clearPage p).sched = s.sched := rfl
@[simp] theorem State.clearPage_router (s : State) (p : Nat) : (s.clearPage p).router = s.router := rfl
@[simp] theorem State.clearPage_wdt (s : State) (p : Nat) : (s.clearPage p).wdt = s.wdt := rfl
@[simp] theorem State.clearPage_lcp (s : State) (p : Nat) : (s.clearPage p).lcp = s.lcp := rfl
@[simp] theorem State.clearPage_hspi (s : State) (p : Nat) : (s.clearPage p).hspi = s.hspi := rfl
@[simp] theorem State.clearPage_uart (s : State) (p : Nat) : (s.clearPage p).uart = s.uart := rfl
@[simp] theorem State.clearPage_side (s : State) (p : Nat) : (s.clearPage p).side = s.side := rfl
@[simp] theorem State.clearPage_airtime (s : State) (p : Nat) : (s.clearPage p).airtime = s.airtime := rfl
@[simp] theorem State.clearPage_anchor (s : State) (p : Nat) : (s.clearPage p).anchor = s.anchor := rfl
@[simp] theorem State.clearPage_upd (s : State) (p : Nat) : (s.clearPage p).upd = s.upd := rfl
@[simp] theorem State.clearPage_rst (s : State) (p : Nat) : (s.clearPage p).rst = s.rst := rfl
@[simp] theorem State.clearPage_clk (s : State) (p : Nat) : (s.clearPage p).clk = s.clk := rfl
@[simp] theorem State.clearPage_pwr (s : State) (p : Nat) : (s.clearPage p).pwr = s.pwr := rfl
@[simp] theorem State.clearPage_rtc (s : State) (p : Nat) : (s.clearPage p).rtc = s.rtc := rfl
@[simp] theorem State.clearPage_occQueue (s : State) (p : Nat) : (s.clearPage p).occQueue = s.occQueue := rfl
@[simp] theorem State.clearPage_occDropped (s : State) (p : Nat) : (s.clearPage p).occDropped = s.occDropped := rfl
@[simp] theorem State.clearPage_cairn (s : State) (p : Nat) : (s.clearPage p).cairn = s.cairn := rfl
@[simp] theorem State.clearPage_pending (s : State) (p : Nat) : (s.clearPage p).pending = s.pending := rfl

/-! ## emit -/

@[simp] theorem State.emit_variant (s : State) (o : Output) : (s.emit o).variant = s.variant := rfl
@[simp] theorem State.emit_regs (s : State) (o : Output) : (s.emit o).regs = s.regs := rfl
@[simp] theorem State.emit_latches (s : State) (o : Output) : (s.emit o).latches = s.latches := rfl
@[simp] theorem State.emit_fences (s : State) (o : Output) : (s.emit o).fences = s.fences := rfl
@[simp] theorem State.emit_returning (s : State) (o : Output) : (s.emit o).returning = s.returning := rfl
@[simp] theorem State.emit_free (s : State) (o : Output) : (s.emit o).free = s.free := rfl
@[simp] theorem State.emit_mem (s : State) (o : Output) : (s.emit o).mem = s.mem := rfl
@[simp] theorem State.emit_pins (s : State) (o : Output) : (s.emit o).pins = s.pins := rfl
@[simp] theorem State.emit_ptp (s : State) (o : Output) : (s.emit o).ptp = s.ptp := rfl
@[simp] theorem State.emit_commit (s : State) (o : Output) : (s.emit o).commit = s.commit := rfl
@[simp] theorem State.emit_party (s : State) (o : Output) : (s.emit o).party = s.party := rfl
@[simp] theorem State.emit_gov (s : State) (o : Output) : (s.emit o).gov = s.gov := rfl
@[simp] theorem State.emit_netA (s : State) (o : Output) : (s.emit o).netA = s.netA := rfl
@[simp] theorem State.emit_netB (s : State) (o : Output) : (s.emit o).netB = s.netB := rfl
@[simp] theorem State.emit_ingest (s : State) (o : Output) : (s.emit o).ingest = s.ingest := rfl
@[simp] theorem State.emit_storeCtl (s : State) (o : Output) : (s.emit o).storeCtl = s.storeCtl := rfl
@[simp] theorem State.emit_reservations (s : State) (o : Output) : (s.emit o).reservations = s.reservations := rfl
@[simp] theorem State.emit_codeWrites (s : State) (o : Output) : (s.emit o).codeWrites = s.codeWrites := rfl
@[simp] theorem State.emit_strands (s : State) (o : Output) : (s.emit o).strands = s.strands := rfl
@[simp] theorem State.emit_abortSeen (s : State) (o : Output) : (s.emit o).abortSeen = s.abortSeen := rfl
@[simp] theorem State.emit_presentedSlot (s : State) (o : Output) : (s.emit o).presentedSlot = s.presentedSlot := rfl
@[simp] theorem State.emit_rails (s : State) (o : Output) : (s.emit o).rails = s.rails := rfl
@[simp] theorem State.emit_telem (s : State) (o : Output) : (s.emit o).telem = s.telem := rfl
@[simp] theorem State.emit_railOverlap (s : State) (o : Output) : (s.emit o).railOverlap = s.railOverlap := rfl
@[simp] theorem State.emit_meter (s : State) (o : Output) : (s.emit o).meter = s.meter := rfl
@[simp] theorem State.emit_belay (s : State) (o : Output) : (s.emit o).belay = s.belay := rfl
@[simp] theorem State.emit_posts (s : State) (o : Output) : (s.emit o).posts = s.posts := rfl
@[simp] theorem State.emit_harts (s : State) (o : Output) : (s.emit o).harts = s.harts := rfl
@[simp] theorem State.emit_sched (s : State) (o : Output) : (s.emit o).sched = s.sched := rfl
@[simp] theorem State.emit_router (s : State) (o : Output) : (s.emit o).router = s.router := rfl
@[simp] theorem State.emit_wdt (s : State) (o : Output) : (s.emit o).wdt = s.wdt := rfl
@[simp] theorem State.emit_lcp (s : State) (o : Output) : (s.emit o).lcp = s.lcp := rfl
@[simp] theorem State.emit_hspi (s : State) (o : Output) : (s.emit o).hspi = s.hspi := rfl
@[simp] theorem State.emit_uart (s : State) (o : Output) : (s.emit o).uart = s.uart := rfl
@[simp] theorem State.emit_side (s : State) (o : Output) : (s.emit o).side = s.side := rfl
@[simp] theorem State.emit_airtime (s : State) (o : Output) : (s.emit o).airtime = s.airtime := rfl
@[simp] theorem State.emit_anchor (s : State) (o : Output) : (s.emit o).anchor = s.anchor := rfl
@[simp] theorem State.emit_upd (s : State) (o : Output) : (s.emit o).upd = s.upd := rfl
@[simp] theorem State.emit_rst (s : State) (o : Output) : (s.emit o).rst = s.rst := rfl
@[simp] theorem State.emit_clk (s : State) (o : Output) : (s.emit o).clk = s.clk := rfl
@[simp] theorem State.emit_pwr (s : State) (o : Output) : (s.emit o).pwr = s.pwr := rfl
@[simp] theorem State.emit_rtc (s : State) (o : Output) : (s.emit o).rtc = s.rtc := rfl
@[simp] theorem State.emit_occQueue (s : State) (o : Output) : (s.emit o).occQueue = s.occQueue := rfl
@[simp] theorem State.emit_occDropped (s : State) (o : Output) : (s.emit o).occDropped = s.occDropped := rfl
@[simp] theorem State.emit_cairn (s : State) (o : Output) : (s.emit o).cairn = s.cairn := rfl
@[simp] theorem State.emit_pending (s : State) (o : Output) : (s.emit o).pending = s.pending := rfl

/-! ## begin -/

@[simp] theorem State.begin_variant (s : State) : (s.begin).variant = s.variant := rfl
@[simp] theorem State.begin_regs (s : State) : (s.begin).regs = s.regs := rfl
@[simp] theorem State.begin_latches (s : State) : (s.begin).latches = s.latches := rfl
@[simp] theorem State.begin_fences (s : State) : (s.begin).fences = s.fences := rfl
@[simp] theorem State.begin_returning (s : State) : (s.begin).returning = s.returning := rfl
@[simp] theorem State.begin_free (s : State) : (s.begin).free = s.free := rfl
@[simp] theorem State.begin_mem (s : State) : (s.begin).mem = s.mem := rfl
@[simp] theorem State.begin_pins (s : State) : (s.begin).pins = s.pins := rfl
@[simp] theorem State.begin_ptp (s : State) : (s.begin).ptp = s.ptp := rfl
@[simp] theorem State.begin_commit (s : State) : (s.begin).commit = s.commit := rfl
@[simp] theorem State.begin_party (s : State) : (s.begin).party = s.party := rfl
@[simp] theorem State.begin_gov (s : State) : (s.begin).gov = s.gov := rfl
@[simp] theorem State.begin_netA (s : State) : (s.begin).netA = s.netA := rfl
@[simp] theorem State.begin_netB (s : State) : (s.begin).netB = s.netB := rfl
@[simp] theorem State.begin_ingest (s : State) : (s.begin).ingest = s.ingest := rfl
@[simp] theorem State.begin_storeCtl (s : State) : (s.begin).storeCtl = s.storeCtl := rfl
@[simp] theorem State.begin_reservations (s : State) : (s.begin).reservations = s.reservations := rfl
@[simp] theorem State.begin_codeWrites (s : State) : (s.begin).codeWrites = s.codeWrites := rfl
@[simp] theorem State.begin_strands (s : State) : (s.begin).strands = s.strands := rfl
@[simp] theorem State.begin_abortSeen (s : State) : (s.begin).abortSeen = s.abortSeen := rfl
@[simp] theorem State.begin_presentedSlot (s : State) : (s.begin).presentedSlot = s.presentedSlot := rfl
@[simp] theorem State.begin_rails (s : State) : (s.begin).rails = s.rails := rfl
@[simp] theorem State.begin_telem (s : State) : (s.begin).telem = s.telem := rfl
@[simp] theorem State.begin_railOverlap (s : State) : (s.begin).railOverlap = s.railOverlap := rfl
@[simp] theorem State.begin_meter (s : State) : (s.begin).meter = s.meter := rfl
@[simp] theorem State.begin_belay (s : State) : (s.begin).belay = s.belay := rfl
@[simp] theorem State.begin_posts (s : State) : (s.begin).posts = s.posts := rfl
@[simp] theorem State.begin_harts (s : State) : (s.begin).harts = s.harts := rfl
@[simp] theorem State.begin_sched (s : State) : (s.begin).sched = s.sched := rfl
@[simp] theorem State.begin_router (s : State) : (s.begin).router = s.router := rfl
@[simp] theorem State.begin_wdt (s : State) : (s.begin).wdt = s.wdt := rfl
@[simp] theorem State.begin_lcp (s : State) : (s.begin).lcp = s.lcp := rfl
@[simp] theorem State.begin_hspi (s : State) : (s.begin).hspi = s.hspi := rfl
@[simp] theorem State.begin_uart (s : State) : (s.begin).uart = s.uart := rfl
@[simp] theorem State.begin_side (s : State) : (s.begin).side = s.side := rfl
@[simp] theorem State.begin_airtime (s : State) : (s.begin).airtime = s.airtime := rfl
@[simp] theorem State.begin_anchor (s : State) : (s.begin).anchor = s.anchor := rfl
@[simp] theorem State.begin_upd (s : State) : (s.begin).upd = s.upd := rfl
@[simp] theorem State.begin_rst (s : State) : (s.begin).rst = s.rst := rfl
@[simp] theorem State.begin_clk (s : State) : (s.begin).clk = s.clk := rfl
@[simp] theorem State.begin_pwr (s : State) : (s.begin).pwr = s.pwr := rfl
@[simp] theorem State.begin_rtc (s : State) : (s.begin).rtc = s.rtc := rfl
@[simp] theorem State.begin_occQueue (s : State) : (s.begin).occQueue = s.occQueue := rfl
@[simp] theorem State.begin_occDropped (s : State) : (s.begin).occDropped = s.occDropped := rfl
@[simp] theorem State.begin_cairn (s : State) : (s.begin).cairn = s.cairn := rfl
@[simp] theorem State.begin_pending (s : State) : (s.begin).pending = s.pending := rfl

/-! ## drawn -/

@[simp] theorem State.drawn_variant (s : State) : (s.drawn).variant = s.variant := rfl
@[simp] theorem State.drawn_regs (s : State) : (s.drawn).regs = s.regs := rfl
@[simp] theorem State.drawn_latches (s : State) : (s.drawn).latches = s.latches := rfl
@[simp] theorem State.drawn_fences (s : State) : (s.drawn).fences = s.fences := rfl
@[simp] theorem State.drawn_returning (s : State) : (s.drawn).returning = s.returning := rfl
@[simp] theorem State.drawn_out (s : State) : (s.drawn).out = s.out := rfl
@[simp] theorem State.drawn_mem (s : State) : (s.drawn).mem = s.mem := rfl
@[simp] theorem State.drawn_pins (s : State) : (s.drawn).pins = s.pins := rfl
@[simp] theorem State.drawn_ptp (s : State) : (s.drawn).ptp = s.ptp := rfl
@[simp] theorem State.drawn_commit (s : State) : (s.drawn).commit = s.commit := rfl
@[simp] theorem State.drawn_party (s : State) : (s.drawn).party = s.party := rfl
@[simp] theorem State.drawn_gov (s : State) : (s.drawn).gov = s.gov := rfl
@[simp] theorem State.drawn_netA (s : State) : (s.drawn).netA = s.netA := rfl
@[simp] theorem State.drawn_netB (s : State) : (s.drawn).netB = s.netB := rfl
@[simp] theorem State.drawn_ingest (s : State) : (s.drawn).ingest = s.ingest := rfl
@[simp] theorem State.drawn_storeCtl (s : State) : (s.drawn).storeCtl = s.storeCtl := rfl
@[simp] theorem State.drawn_reservations (s : State) : (s.drawn).reservations = s.reservations := rfl
@[simp] theorem State.drawn_codeWrites (s : State) : (s.drawn).codeWrites = s.codeWrites := rfl
@[simp] theorem State.drawn_strands (s : State) : (s.drawn).strands = s.strands := rfl
@[simp] theorem State.drawn_abortSeen (s : State) : (s.drawn).abortSeen = s.abortSeen := rfl
@[simp] theorem State.drawn_presentedSlot (s : State) : (s.drawn).presentedSlot = s.presentedSlot := rfl
@[simp] theorem State.drawn_rails (s : State) : (s.drawn).rails = s.rails := rfl
@[simp] theorem State.drawn_telem (s : State) : (s.drawn).telem = s.telem := rfl
@[simp] theorem State.drawn_railOverlap (s : State) : (s.drawn).railOverlap = s.railOverlap := rfl
@[simp] theorem State.drawn_meter (s : State) : (s.drawn).meter = s.meter := rfl
@[simp] theorem State.drawn_belay (s : State) : (s.drawn).belay = s.belay := rfl
@[simp] theorem State.drawn_posts (s : State) : (s.drawn).posts = s.posts := rfl
@[simp] theorem State.drawn_harts (s : State) : (s.drawn).harts = s.harts := rfl
@[simp] theorem State.drawn_sched (s : State) : (s.drawn).sched = s.sched := rfl
@[simp] theorem State.drawn_router (s : State) : (s.drawn).router = s.router := rfl
@[simp] theorem State.drawn_wdt (s : State) : (s.drawn).wdt = s.wdt := rfl
@[simp] theorem State.drawn_lcp (s : State) : (s.drawn).lcp = s.lcp := rfl
@[simp] theorem State.drawn_hspi (s : State) : (s.drawn).hspi = s.hspi := rfl
@[simp] theorem State.drawn_uart (s : State) : (s.drawn).uart = s.uart := rfl
@[simp] theorem State.drawn_side (s : State) : (s.drawn).side = s.side := rfl
@[simp] theorem State.drawn_airtime (s : State) : (s.drawn).airtime = s.airtime := rfl
@[simp] theorem State.drawn_anchor (s : State) : (s.drawn).anchor = s.anchor := rfl
@[simp] theorem State.drawn_upd (s : State) : (s.drawn).upd = s.upd := rfl
@[simp] theorem State.drawn_rst (s : State) : (s.drawn).rst = s.rst := rfl
@[simp] theorem State.drawn_clk (s : State) : (s.drawn).clk = s.clk := rfl
@[simp] theorem State.drawn_pwr (s : State) : (s.drawn).pwr = s.pwr := rfl
@[simp] theorem State.drawn_rtc (s : State) : (s.drawn).rtc = s.rtc := rfl
@[simp] theorem State.drawn_occQueue (s : State) : (s.drawn).occQueue = s.occQueue := rfl
@[simp] theorem State.drawn_occDropped (s : State) : (s.drawn).occDropped = s.occDropped := rfl
@[simp] theorem State.drawn_cairn (s : State) : (s.drawn).cairn = s.cairn := rfl
@[simp] theorem State.drawn_pending (s : State) : (s.drawn).pending = s.pending := rfl

/-! ## setFlds -/

@[simp] theorem State.setFlds_variant : ∀ (l : List (Fld × Nat)) (s : State), (s.setFlds l).variant = s.variant
  | [], _ => rfl
  | (g, v) :: t, s => State.setFlds_variant t (s.setFld g v)
@[simp] theorem State.setFlds_latches : ∀ (l : List (Fld × Nat)) (s : State), (s.setFlds l).latches = s.latches
  | [], _ => rfl
  | (g, v) :: t, s => State.setFlds_latches t (s.setFld g v)
@[simp] theorem State.setFlds_fences : ∀ (l : List (Fld × Nat)) (s : State), (s.setFlds l).fences = s.fences
  | [], _ => rfl
  | (g, v) :: t, s => State.setFlds_fences t (s.setFld g v)
@[simp] theorem State.setFlds_returning : ∀ (l : List (Fld × Nat)) (s : State), (s.setFlds l).returning = s.returning
  | [], _ => rfl
  | (g, v) :: t, s => State.setFlds_returning t (s.setFld g v)
@[simp] theorem State.setFlds_free : ∀ (l : List (Fld × Nat)) (s : State), (s.setFlds l).free = s.free
  | [], _ => rfl
  | (g, v) :: t, s => State.setFlds_free t (s.setFld g v)
@[simp] theorem State.setFlds_out : ∀ (l : List (Fld × Nat)) (s : State), (s.setFlds l).out = s.out
  | [], _ => rfl
  | (g, v) :: t, s => State.setFlds_out t (s.setFld g v)
@[simp] theorem State.setFlds_mem : ∀ (l : List (Fld × Nat)) (s : State), (s.setFlds l).mem = s.mem
  | [], _ => rfl
  | (g, v) :: t, s => State.setFlds_mem t (s.setFld g v)
@[simp] theorem State.setFlds_pins : ∀ (l : List (Fld × Nat)) (s : State), (s.setFlds l).pins = s.pins
  | [], _ => rfl
  | (g, v) :: t, s => State.setFlds_pins t (s.setFld g v)
@[simp] theorem State.setFlds_ptp : ∀ (l : List (Fld × Nat)) (s : State), (s.setFlds l).ptp = s.ptp
  | [], _ => rfl
  | (g, v) :: t, s => State.setFlds_ptp t (s.setFld g v)
@[simp] theorem State.setFlds_commit : ∀ (l : List (Fld × Nat)) (s : State), (s.setFlds l).commit = s.commit
  | [], _ => rfl
  | (g, v) :: t, s => State.setFlds_commit t (s.setFld g v)
@[simp] theorem State.setFlds_party : ∀ (l : List (Fld × Nat)) (s : State), (s.setFlds l).party = s.party
  | [], _ => rfl
  | (g, v) :: t, s => State.setFlds_party t (s.setFld g v)
@[simp] theorem State.setFlds_gov : ∀ (l : List (Fld × Nat)) (s : State), (s.setFlds l).gov = s.gov
  | [], _ => rfl
  | (g, v) :: t, s => State.setFlds_gov t (s.setFld g v)
@[simp] theorem State.setFlds_netA : ∀ (l : List (Fld × Nat)) (s : State), (s.setFlds l).netA = s.netA
  | [], _ => rfl
  | (g, v) :: t, s => State.setFlds_netA t (s.setFld g v)
@[simp] theorem State.setFlds_netB : ∀ (l : List (Fld × Nat)) (s : State), (s.setFlds l).netB = s.netB
  | [], _ => rfl
  | (g, v) :: t, s => State.setFlds_netB t (s.setFld g v)
@[simp] theorem State.setFlds_ingest : ∀ (l : List (Fld × Nat)) (s : State), (s.setFlds l).ingest = s.ingest
  | [], _ => rfl
  | (g, v) :: t, s => State.setFlds_ingest t (s.setFld g v)
@[simp] theorem State.setFlds_storeCtl : ∀ (l : List (Fld × Nat)) (s : State), (s.setFlds l).storeCtl = s.storeCtl
  | [], _ => rfl
  | (g, v) :: t, s => State.setFlds_storeCtl t (s.setFld g v)
@[simp] theorem State.setFlds_reservations : ∀ (l : List (Fld × Nat)) (s : State), (s.setFlds l).reservations = s.reservations
  | [], _ => rfl
  | (g, v) :: t, s => State.setFlds_reservations t (s.setFld g v)
@[simp] theorem State.setFlds_codeWrites : ∀ (l : List (Fld × Nat)) (s : State), (s.setFlds l).codeWrites = s.codeWrites
  | [], _ => rfl
  | (g, v) :: t, s => State.setFlds_codeWrites t (s.setFld g v)
@[simp] theorem State.setFlds_strands : ∀ (l : List (Fld × Nat)) (s : State), (s.setFlds l).strands = s.strands
  | [], _ => rfl
  | (g, v) :: t, s => State.setFlds_strands t (s.setFld g v)
@[simp] theorem State.setFlds_abortSeen : ∀ (l : List (Fld × Nat)) (s : State), (s.setFlds l).abortSeen = s.abortSeen
  | [], _ => rfl
  | (g, v) :: t, s => State.setFlds_abortSeen t (s.setFld g v)
@[simp] theorem State.setFlds_presentedSlot : ∀ (l : List (Fld × Nat)) (s : State), (s.setFlds l).presentedSlot = s.presentedSlot
  | [], _ => rfl
  | (g, v) :: t, s => State.setFlds_presentedSlot t (s.setFld g v)
@[simp] theorem State.setFlds_rails : ∀ (l : List (Fld × Nat)) (s : State), (s.setFlds l).rails = s.rails
  | [], _ => rfl
  | (g, v) :: t, s => State.setFlds_rails t (s.setFld g v)
@[simp] theorem State.setFlds_telem : ∀ (l : List (Fld × Nat)) (s : State), (s.setFlds l).telem = s.telem
  | [], _ => rfl
  | (g, v) :: t, s => State.setFlds_telem t (s.setFld g v)
@[simp] theorem State.setFlds_railOverlap : ∀ (l : List (Fld × Nat)) (s : State), (s.setFlds l).railOverlap = s.railOverlap
  | [], _ => rfl
  | (g, v) :: t, s => State.setFlds_railOverlap t (s.setFld g v)
@[simp] theorem State.setFlds_meter : ∀ (l : List (Fld × Nat)) (s : State), (s.setFlds l).meter = s.meter
  | [], _ => rfl
  | (g, v) :: t, s => State.setFlds_meter t (s.setFld g v)
@[simp] theorem State.setFlds_belay : ∀ (l : List (Fld × Nat)) (s : State), (s.setFlds l).belay = s.belay
  | [], _ => rfl
  | (g, v) :: t, s => State.setFlds_belay t (s.setFld g v)
@[simp] theorem State.setFlds_posts : ∀ (l : List (Fld × Nat)) (s : State), (s.setFlds l).posts = s.posts
  | [], _ => rfl
  | (g, v) :: t, s => State.setFlds_posts t (s.setFld g v)
@[simp] theorem State.setFlds_harts : ∀ (l : List (Fld × Nat)) (s : State), (s.setFlds l).harts = s.harts
  | [], _ => rfl
  | (g, v) :: t, s => State.setFlds_harts t (s.setFld g v)
@[simp] theorem State.setFlds_sched : ∀ (l : List (Fld × Nat)) (s : State), (s.setFlds l).sched = s.sched
  | [], _ => rfl
  | (g, v) :: t, s => State.setFlds_sched t (s.setFld g v)
@[simp] theorem State.setFlds_router : ∀ (l : List (Fld × Nat)) (s : State), (s.setFlds l).router = s.router
  | [], _ => rfl
  | (g, v) :: t, s => State.setFlds_router t (s.setFld g v)
@[simp] theorem State.setFlds_wdt : ∀ (l : List (Fld × Nat)) (s : State), (s.setFlds l).wdt = s.wdt
  | [], _ => rfl
  | (g, v) :: t, s => State.setFlds_wdt t (s.setFld g v)
@[simp] theorem State.setFlds_lcp : ∀ (l : List (Fld × Nat)) (s : State), (s.setFlds l).lcp = s.lcp
  | [], _ => rfl
  | (g, v) :: t, s => State.setFlds_lcp t (s.setFld g v)
@[simp] theorem State.setFlds_hspi : ∀ (l : List (Fld × Nat)) (s : State), (s.setFlds l).hspi = s.hspi
  | [], _ => rfl
  | (g, v) :: t, s => State.setFlds_hspi t (s.setFld g v)
@[simp] theorem State.setFlds_uart : ∀ (l : List (Fld × Nat)) (s : State), (s.setFlds l).uart = s.uart
  | [], _ => rfl
  | (g, v) :: t, s => State.setFlds_uart t (s.setFld g v)
@[simp] theorem State.setFlds_side : ∀ (l : List (Fld × Nat)) (s : State), (s.setFlds l).side = s.side
  | [], _ => rfl
  | (g, v) :: t, s => State.setFlds_side t (s.setFld g v)
@[simp] theorem State.setFlds_airtime : ∀ (l : List (Fld × Nat)) (s : State), (s.setFlds l).airtime = s.airtime
  | [], _ => rfl
  | (g, v) :: t, s => State.setFlds_airtime t (s.setFld g v)
@[simp] theorem State.setFlds_anchor : ∀ (l : List (Fld × Nat)) (s : State), (s.setFlds l).anchor = s.anchor
  | [], _ => rfl
  | (g, v) :: t, s => State.setFlds_anchor t (s.setFld g v)
@[simp] theorem State.setFlds_upd : ∀ (l : List (Fld × Nat)) (s : State), (s.setFlds l).upd = s.upd
  | [], _ => rfl
  | (g, v) :: t, s => State.setFlds_upd t (s.setFld g v)
@[simp] theorem State.setFlds_rst : ∀ (l : List (Fld × Nat)) (s : State), (s.setFlds l).rst = s.rst
  | [], _ => rfl
  | (g, v) :: t, s => State.setFlds_rst t (s.setFld g v)
@[simp] theorem State.setFlds_clk : ∀ (l : List (Fld × Nat)) (s : State), (s.setFlds l).clk = s.clk
  | [], _ => rfl
  | (g, v) :: t, s => State.setFlds_clk t (s.setFld g v)
@[simp] theorem State.setFlds_pwr : ∀ (l : List (Fld × Nat)) (s : State), (s.setFlds l).pwr = s.pwr
  | [], _ => rfl
  | (g, v) :: t, s => State.setFlds_pwr t (s.setFld g v)
@[simp] theorem State.setFlds_rtc : ∀ (l : List (Fld × Nat)) (s : State), (s.setFlds l).rtc = s.rtc
  | [], _ => rfl
  | (g, v) :: t, s => State.setFlds_rtc t (s.setFld g v)
@[simp] theorem State.setFlds_occQueue : ∀ (l : List (Fld × Nat)) (s : State), (s.setFlds l).occQueue = s.occQueue
  | [], _ => rfl
  | (g, v) :: t, s => State.setFlds_occQueue t (s.setFld g v)
@[simp] theorem State.setFlds_occDropped : ∀ (l : List (Fld × Nat)) (s : State), (s.setFlds l).occDropped = s.occDropped
  | [], _ => rfl
  | (g, v) :: t, s => State.setFlds_occDropped t (s.setFld g v)
@[simp] theorem State.setFlds_cairn : ∀ (l : List (Fld × Nat)) (s : State), (s.setFlds l).cairn = s.cairn
  | [], _ => rfl
  | (g, v) :: t, s => State.setFlds_cairn t (s.setFld g v)
@[simp] theorem State.setFlds_pending : ∀ (l : List (Fld × Nat)) (s : State), (s.setFlds l).pending = s.pending
  | [], _ => rfl
  | (g, v) :: t, s => State.setFlds_pending t (s.setFld g v)

@[simp] theorem State.emit_out (s : State) (o : Output) : (s.emit o).out = s.out ++ [o] := rfl
@[simp] theorem State.begin_out (s : State) : s.begin.out = [] := rfl
@[simp] theorem State.drawn_free (s : State) : s.drawn.free = s.free + 1 := rfl

end Sys2Proof.Machine
end

