-- ==== Sys2Proof/Laws/Fields.lean ====
section
/-! SUPPORT. Fields of the register file through chains of updates, and what interrupt events, cairn occurrences and
fences leave as it was. `fld_eq` and `reg_eq` turn a read of a state into a read of its register file; the lemmas
`regs_…` give the file after an update, and `regFld_…` and `regWord_…` read it. -/
set_option linter.all false
set_option Elab.async false
namespace Sys2Proof.Machine

/-- The word a register file holds for a register. -/
def regWord (r : List (Nat × Word)) (p o : Nat) : Word := mapGet (regReset (regKey p o)) r (regKey p o)

/-- A field of a register file. -/
def regFld (r : List (Nat × Word)) (f : Fld) : Nat := bits (regWord r f.page f.off).toNat f.hi f.lo

/-- A register file with a word put into a register. -/
def wordPut (r : List (Nat × Word)) (p o : Nat) (w : Word) : List (Nat × Word) := mapPut (regReset (regKey p o)) r (regKey p o) w

/-- A register file with a field set. -/
def regPut (r : List (Nat × Word)) (f : Fld) (v : Nat) : List (Nat × Word) :=
  wordPut r f.page f.off (BitVec.ofNat 32 (insertBits (regWord r f.page f.off).toNat f.hi f.lo v))

/-- A register file with a list of fields set. -/
def regPuts (r : List (Nat × Word)) : List (Fld × Nat) → List (Nat × Word)
  | [] => r
  | (f, v) :: t => regPuts (regPut r f v) t

/-- The register file is in canonical form. -/
def regsOk (r : List (Nat × Word)) : Bool := mapWf regReset r

theorem reg_eq (s : State) (p o : Nat) : s.reg p o = regWord s.regs p o := rfl
theorem fld_eq (s : State) (f : Fld) : s.fld f = regFld s.regs f := rfl
theorem flag_eq (s : State) (f : Fld) : s.flag f = decide (regFld s.regs f ≠ 0) := rfl
theorem bit_eq (s : State) (f : Fld) (k : Nat) : s.bit f k = bitSet (regFld s.regs f) k := rfl
theorem regsWf_eq (s : State) : s.regsWf = regsOk s.regs := rfl
theorem State.Ok.regs {s : State} (h : s.Ok) : regsOk s.regs = true := h.1
theorem State.Ok.mems {s : State} (h : s.Ok) : s.mem.wf = true := h.2

@[simp] theorem regs_setReg (s : State) (p o : Nat) (w : Word) : (s.setReg p o w).regs = wordPut s.regs p o w := rfl
@[simp] theorem regs_setFld (s : State) (f : Fld) (v : Nat) : (s.setFld f v).regs = regPut s.regs f v := rfl
@[simp] theorem regs_setFlag (s : State) (f : Fld) (b : Bool) : (s.setFlag f b).regs = regPut s.regs f (b2n b) := rfl
@[simp] theorem regs_setBit (s : State) (f : Fld) (k : Nat) (b : Bool) :
    (s.setBit f k b).regs = regPut s.regs f (insertBits (regFld s.regs f) k k (b2n b)) := rfl
@[simp] theorem regs_add (s : State) (f : Fld) (n : Nat) : (s.add f n).regs = regPut s.regs f (regFld s.regs f + n) := rfl
@[simp] theorem regs_inc (s : State) (f : Fld) : (s.inc f).regs = regPut s.regs f (regFld s.regs f + 1) := rfl
@[simp] theorem regs_satInc (s : State) (f : Fld) :
    (s.satInc f).regs = regPut s.regs f (min (regFld s.regs f + 1) (2 ^ (f.hi + 1 - f.lo) - 1)) := rfl
@[simp] theorem regs_maxFld (s : State) (f : Fld) (v : Nat) :
    (s.maxFld f v).regs = regPut s.regs f (min (max (regFld s.regs f) v) (2 ^ (f.hi + 1 - f.lo) - 1)) := rfl
@[simp] theorem regs_setFrame (s : State) (lo hi : Fld) (n : Nat) :
    (s.setFrame lo hi n).regs = regPut (regPut s.regs lo n) hi (n / 2 ^ 32) := rfl
@[simp] theorem regs_setFlds : ∀ (l : List (Fld × Nat)) (s : State), (s.setFlds l).regs = regPuts s.regs l
  | [], _ => rfl
  | (f, v) :: t, s => regs_setFlds t (s.setFld f v)
@[simp] theorem regPuts_nil (r : List (Nat × Word)) : regPuts r [] = r := rfl
@[simp] theorem regPuts_cons (r : List (Nat × Word)) (f : Fld) (v : Nat) (t : List (Fld × Nat)) :
    regPuts r ((f, v) :: t) = regPuts (regPut r f v) t := rfl

@[simp] theorem regsOk_wordPut {r : List (Nat × Word)} (p o : Nat) (w : Word) (h : regsOk r = true) :
    regsOk (wordPut r p o w) = true := mapWf_mapPut regReset r (regKey p o) w h

@[simp] theorem regsOk_regPut {r : List (Nat × Word)} (f : Fld) (v : Nat) (h : regsOk r = true) :
    regsOk (regPut r f v) = true := regsOk_wordPut _ _ _ h

theorem regWord_wordPut_self {r : List (Nat × Word)} (p o : Nat) (w : Word) (h : regsOk r = true) :
    regWord (wordPut r p o w) p o = w := mapGet_mapPut_self regReset r (regKey p o) w h

theorem regWord_wordPut_ne {r : List (Nat × Word)} {p o q i : Nat} (w : Word) (h : regsOk r = true)
    (hk : regKey q i ≠ regKey p o) : regWord (wordPut r p o w) q i = regWord r q i :=
  mapGet_mapPut_ne regReset _ _ r w h hk

/-- A field reads back what was put into it, cut to its width. -/
theorem regFld_regPut_self {r : List (Nat × Word)} (f : Fld) (v : Nat) (h : regsOk r = true) (hf : f.ok = true) :
    regFld (regPut r f v) f = v % 2 ^ (f.hi + 1 - f.lo) :=
  fld_setFld_self { regs := r } f v h hf

/-- A put leaves every field apart from it. -/
theorem regFld_regPut_other {r : List (Nat × Word)} {f g : Fld} (v : Nat) (h : regsOk r = true) (hf : f.ok = true)
    (hg : g.ok = true) (ha : f.apart g = true) : regFld (regPut r f v) g = regFld r g :=
  fld_setFld_other { regs := r } v h hf hg ha

/-- A put leaves every other register. -/
theorem regWord_regPut_ne {r : List (Nat × Word)} (f : Fld) (v : Nat) {q i : Nat} (h : regsOk r = true)
    (hk : regKey q i ≠ regKey f.page f.off) : regWord (regPut r f v) q i = regWord r q i :=
  regWord_wordPut_ne _ h hk

/-- A put leaves the registers of every other page. -/
theorem regWord_regPut_page {r : List (Nat × Word)} (f : Fld) (v : Nat) {q i : Nat} (h : regsOk r = true)
    (hq : q ≠ f.page) : regWord (regPut r f v) q i = regWord r q i :=
  regWord_regPut_ne f v h (regKey_page hq)

/-! ## Interrupt events, occurrences and fences -/

/-- The register file after event `k` of a page. -/
theorem regs_irq (s : State) (p k : Nat) :
    (s.irq p k).regs = if s.pageAbsent p then s.regs else regPut s.regs (R.PG_IRQ_RAW_BIT p k) 1 := by
  unfold State.irq
  split
  · rfl
  · unfold State.noteEdge
    split <;> rfl

/-- Every page but those of the radio is present in every variant. -/
theorem pageAbsent_of_ne (s : State) {p : Nat} (h : p ≠ 0x3C) (k : p ≠ 0x3D) : s.pageAbsent p = false := by
  simp [State.pageAbsent, pSIDE, pSIDEPHY, h, k]

theorem regs_irq_of_ne (s : State) {p : Nat} (k : Nat) (h : p ≠ 0x3C) (h2 : p ≠ 0x3D) :
    (s.irq p k).regs = regPut s.regs (R.PG_IRQ_RAW_BIT p k) 1 := by
  rw [regs_irq, pageAbsent_of_ne s h h2]
  rfl

@[simp] theorem regs_emit (s : State) (o : Output) : (s.emit o).regs = s.regs := rfl
@[simp] theorem regs_begin (s : State) : s.begin.regs = s.regs := rfl
@[simp] theorem regs_drawn (s : State) : s.drawn.regs = s.regs := rfl

theorem regsOk_irq (s : State) (p k : Nat) (h : regsOk s.regs = true) : regsOk (s.irq p k).regs = true := by
  rw [regs_irq]
  split
  · exact h
  · exact regsOk_regPut _ _ h

/-- An occurrence touches no register outside the cairn's page. -/
theorem regWord_occur (s : State) (c : Occurrence) {q i : Nat} (h : regsOk s.regs = true)
    (hq : q ≠ pCAIRN) : regWord (s.occur c).regs q i = regWord s.regs q i := by
  unfold State.occur
  split
  · rfl
  · split
    · unfold State.cairnLoss
      rw [regs_irq_of_ne _ _ (by decide) (by decide), regs_inc]
      refine (regWord_regPut_page (R.PG_IRQ_RAW_BIT pCAIRN 1) _ (regsOk_regPut _ _ h) hq).trans ?_
      exact regWord_regPut_page R.CAIRN_CNT_LOST_N _ h hq
    · rfl

theorem regsOk_occur (s : State) (c : Occurrence) (h : regsOk s.regs = true) : regsOk (s.occur c).regs = true := by
  unfold State.occur
  split
  · exact h
  · split
    · unfold State.cairnLoss
      exact regsOk_irq _ _ _ (by rw [regs_inc]; exact regsOk_regPut _ _ h)
    · exact h

/-- A field outside the cairn's page is as it was. -/
theorem regFld_occur (s : State) (c : Occurrence) {f : Fld} (h : regsOk s.regs = true) (hf : f.off < 0x1000)
    (hq : f.page ≠ pCAIRN) : regFld (s.occur c).regs f = regFld s.regs f := by
  unfold regFld
  rw [regWord_occur s c h hq]

theorem regFld_record (s : State) (p k u d : Nat) {f : Fld} (h : regsOk s.regs = true) (hf : f.off < 0x1000)
    (hq : f.page ≠ pCAIRN) : regFld (s.record p k u d).regs f = regFld s.regs f := regFld_occur s _ h hf hq

theorem regWord_record (s : State) (p k u d : Nat) {q i : Nat} (h : regsOk s.regs = true)
    (hq : q ≠ pCAIRN) : regWord (s.record p k u d).regs q i = regWord s.regs q i := regWord_occur s _ h hq

theorem regsOk_record (s : State) (p k u d : Nat) (h : regsOk s.regs = true) : regsOk (s.record p k u d).regs = true :=
  regsOk_occur s _ h

theorem regFld_recordOpen (s : State) (p : Nat) {f : Fld} (h : regsOk s.regs = true) (hf : f.off < 0x1000)
    (hq : f.page ≠ pCAIRN) : regFld (s.recordOpen p).regs f = regFld s.regs f := regFld_occur s _ h hf hq

theorem regWord_recordOpen (s : State) (p : Nat) {q i : Nat} (h : regsOk s.regs = true)
    (hq : q ≠ pCAIRN) : regWord (s.recordOpen p).regs q i = regWord s.regs q i := regWord_occur s _ h hq

/-- A fence touches no register outside its page and the cairn's. -/
theorem regWord_fence (s : State) (p u c d : Nat) {q i : Nat} (h : regsOk s.regs = true)
    (hp : q ≠ p) (hq : q ≠ pCAIRN) : regWord (s.fence p u c d).regs q i = regWord s.regs q i := by
  unfold State.fence
  split
  · exact regWord_occur _ _ h hq
  · simp only []
    split
    · exact regWord_occur _ _ h hq
    · refine (regWord_occur _ _ (regsOk_regPut _ _ (regsOk_regPut _ _ h)) hq).trans ?_
      refine (regWord_regPut_page (R.PG_FENCE_CAUSE p) _ (regsOk_regPut _ _ h) hp).trans ?_
      exact regWord_regPut_page (R.PG_FENCE_ACTIVE p) _ h hp

theorem regsOk_fence (s : State) (p u c d : Nat) (h : regsOk s.regs = true) : regsOk (s.fence p u c d).regs = true := by
  unfold State.fence
  split
  · exact regsOk_occur _ _ h
  · simp only []
    split
    · exact regsOk_occur _ _ h
    · exact regsOk_occur _ _ (regsOk_regPut _ _ (regsOk_regPut _ _ h))

/-- A fence leaves every field of its page but ACTIVE and CAUSE, and those of every other page but the cairn's. -/
theorem regFld_fence (s : State) (p u c d : Nat) {f : Fld} (h : regsOk s.regs = true) (hf : f.off < 0x1000)
    (hq : f.page ≠ pCAIRN) (hn : f.page ≠ p ∨ f.off ≠ 0x018) : regFld (s.fence p u c d).regs f = regFld s.regs f := by
  have hk : regKey f.page f.off ≠ regKey p 0x018 := regKey_ne (Nat.le_of_ble_eq_true rfl) hf hn
  unfold State.fence
  split
  · exact regFld_occur _ _ h hf hq
  · simp only []
    split
    · exact regFld_occur _ _ h hf hq
    · refine (regFld_occur _ _ (regsOk_regPut _ _ (regsOk_regPut _ _ h)) hf hq).trans ?_
      refine congrArg (fun w : Word => bits w.toNat f.hi f.lo) ?_
      exact (regWord_regPut_ne (R.PG_FENCE_CAUSE p) _ (regsOk_regPut _ _ h) hk).trans
        (regWord_regPut_ne (R.PG_FENCE_ACTIVE p) _ h hk)

/-- After a new fence its page shows ACTIVE. -/
theorem fence_active (s : State) (p u c d : Nat) (h : regsOk s.regs = true) (hp : p ≠ pCAIRN)
    (hn : s.hasFence p u = false) : regFld (s.fence p u c d).regs (R.PG_FENCE_ACTIVE p) = 1 := by
  have ok : (R.PG_FENCE_ACTIVE p).ok = true := rfl
  have ho : (R.PG_FENCE_ACTIVE p).off < 0x1000 := Nat.le_of_ble_eq_true rfl
  unfold State.fence
  simp only [hn, Bool.false_eq_true, if_false]
  split
  · rename_i hf
    refine (regFld_occur { s with fences := s.fences ++ [Fence.mk p u c] } _ h ho hp).trans ?_
    have : regFld s.regs (R.PG_FENCE_ACTIVE p) < 2 := by
      exact Nat.mod_lt _ (by show 0 < 2 ^ 1; decide)
    have hf2 : regFld s.regs (R.PG_FENCE_ACTIVE p) ≠ 0 := of_decide_eq_true hf
    show regFld s.regs (R.PG_FENCE_ACTIVE p) = 1
    omega
  · refine (regFld_occur _ _ (regsOk_regPut _ _ (regsOk_regPut _ _ h)) ho hp).trans ?_
    refine (regFld_regPut_other (f := R.PG_FENCE_CAUSE p) (g := R.PG_FENCE_ACTIVE p) c (regsOk_regPut _ _ h) rfl ok (by
      simp [Fld.apart, R.PG_FENCE_CAUSE, R.PG_FENCE_ACTIVE])).trans ?_
    exact regFld_regPut_self _ _ h ok

/-- After the first fence of a page CAUSE is its cause. -/
theorem fence_cause (s : State) (p u c d : Nat) (h : regsOk s.regs = true) (hp : p ≠ pCAIRN)
    (hn : s.hasFence p u = false) (ha : s.fld (R.PG_FENCE_ACTIVE p) = 0) :
    regFld (s.fence p u c d).regs (R.PG_FENCE_CAUSE p) = c % 2 ^ 16 := by
  unfold State.fence
  have hfl : ({ s with fences := s.fences ++ [Fence.mk p u c] }).flag (R.PG_FENCE_ACTIVE p) = false := by
    simpa [flag_eq, fld_eq] using ha
  simp only [hn, Bool.false_eq_true, if_false, hfl]
  refine (regFld_occur _ _ (regsOk_regPut _ _ (regsOk_regPut _ _ h)) (Nat.le_of_ble_eq_true rfl) hp).trans ?_
  exact regFld_regPut_self (R.PG_FENCE_CAUSE p) c (regsOk_regPut _ _ h) rfl

/-! ## What these operations leave as it was -/

theorem State.setFld_eq (s : State) (f : Fld) (v : Nat) : ∃ r, s.setFld f v = { s with regs := r } := ⟨_, rfl⟩

theorem State.inc_eq (s : State) (f : Fld) : ∃ r, s.inc f = { s with regs := r } := ⟨_, rfl⟩

theorem State.irq_eq (s : State) (p k : Nat) : ∃ r ps, s.irq p k = { s with regs := r, posts := ps } := by
  unfold State.irq
  split
  · exact ⟨s.regs, s.posts, rfl⟩
  · obtain ⟨r, e⟩ := State.setFld_eq s (R.PG_IRQ_RAW_BIT p k) 1
    rw [e]
    unfold State.noteEdge
    split
    · exact ⟨_, _, rfl⟩
    · exact ⟨_, s.posts, rfl⟩

theorem State.occur_eq (s : State) (c : Occurrence) : ∃ r ps ca q d,
    s.occur c = { s with regs := r, posts := ps, cairn := ca, occQueue := q, occDropped := d } := by
  unfold State.occur
  split
  · exact ⟨s.regs, s.posts, s.cairn, _, s.occDropped, rfl⟩
  · split
    · unfold State.cairnLoss
      obtain ⟨r0, e⟩ := State.inc_eq { s with cairn := { s.cairn with lostBefore := true } } R.CAIRN_CNT_LOST_N
      rw [e]
      obtain ⟨r, ps, h⟩ := State.irq_eq { s with cairn := { s.cairn with lostBefore := true }, regs := r0 } pCAIRN 1
      exact ⟨r, ps, _, s.occQueue, s.occDropped, h⟩
    · exact ⟨s.regs, s.posts, s.cairn, s.occQueue, _, rfl⟩

theorem State.fence_eq (s : State) (p u c d : Nat) : ∃ r ps ca q n fs,
    s.fence p u c d = { s with regs := r, posts := ps, cairn := ca, occQueue := q, occDropped := n, fences := fs } := by
  unfold State.fence
  split
  · obtain ⟨r, ps, ca, q, n, h⟩ := State.occur_eq s ⟨p, c, u, d % 2 ^ 32⟩
    exact ⟨r, ps, ca, q, n, s.fences, h⟩
  · simp only []
    split
    · obtain ⟨r, ps, ca, q, n, h⟩ := State.occur_eq { s with fences := s.fences ++ [Fence.mk p u c] } ⟨p, c, u, d % 2 ^ 32⟩
      exact ⟨r, ps, ca, q, n, _, h⟩
    · obtain ⟨r1, e1⟩ := State.setFld_eq { s with fences := s.fences ++ [Fence.mk p u c] } (R.PG_FENCE_ACTIVE p) 1
      rw [e1]
      obtain ⟨r2, e2⟩ := State.setFld_eq { s with fences := s.fences ++ [Fence.mk p u c], regs := r1 } (R.PG_FENCE_CAUSE p) c
      rw [e2]
      obtain ⟨r, ps, ca, q, n, h⟩ := State.occur_eq { s with fences := s.fences ++ [Fence.mk p u c], regs := r2 } ⟨p, c, u, d % 2 ^ 32⟩
      exact ⟨r, ps, ca, q, n, _, h⟩

@[simp] theorem State.irq_variant (s : State) (p k : Nat) : (s.irq p k).variant = s.variant :=
  by
  obtain ⟨_, _, h⟩ := State.irq_eq s p k
  rw [h]
@[simp] theorem State.irq_latches (s : State) (p k : Nat) : (s.irq p k).latches = s.latches :=
  by
  obtain ⟨_, _, h⟩ := State.irq_eq s p k
  rw [h]
@[simp] theorem State.irq_fences (s : State) (p k : Nat) : (s.irq p k).fences = s.fences :=
  by
  obtain ⟨_, _, h⟩ := State.irq_eq s p k
  rw [h]
@[simp] theorem State.irq_returning (s : State) (p k : Nat) : (s.irq p k).returning = s.returning :=
  by
  obtain ⟨_, _, h⟩ := State.irq_eq s p k
  rw [h]
@[simp] theorem State.irq_free (s : State) (p k : Nat) : (s.irq p k).free = s.free :=
  by
  obtain ⟨_, _, h⟩ := State.irq_eq s p k
  rw [h]
@[simp] theorem State.irq_out (s : State) (p k : Nat) : (s.irq p k).out = s.out :=
  by
  obtain ⟨_, _, h⟩ := State.irq_eq s p k
  rw [h]
@[simp] theorem State.irq_mem (s : State) (p k : Nat) : (s.irq p k).mem = s.mem :=
  by
  obtain ⟨_, _, h⟩ := State.irq_eq s p k
  rw [h]
@[simp] theorem State.irq_pins (s : State) (p k : Nat) : (s.irq p k).pins = s.pins :=
  by
  obtain ⟨_, _, h⟩ := State.irq_eq s p k
  rw [h]
@[simp] theorem State.irq_ptp (s : State) (p k : Nat) : (s.irq p k).ptp = s.ptp :=
  by
  obtain ⟨_, _, h⟩ := State.irq_eq s p k
  rw [h]
@[simp] theorem State.irq_commit (s : State) (p k : Nat) : (s.irq p k).commit = s.commit :=
  by
  obtain ⟨_, _, h⟩ := State.irq_eq s p k
  rw [h]
@[simp] theorem State.irq_party (s : State) (p k : Nat) : (s.irq p k).party = s.party :=
  by
  obtain ⟨_, _, h⟩ := State.irq_eq s p k
  rw [h]
@[simp] theorem State.irq_gov (s : State) (p k : Nat) : (s.irq p k).gov = s.gov :=
  by
  obtain ⟨_, _, h⟩ := State.irq_eq s p k
  rw [h]
@[simp] theorem State.irq_netA (s : State) (p k : Nat) : (s.irq p k).netA = s.netA :=
  by
  obtain ⟨_, _, h⟩ := State.irq_eq s p k
  rw [h]
@[simp] theorem State.irq_netB (s : State) (p k : Nat) : (s.irq p k).netB = s.netB :=
  by
  obtain ⟨_, _, h⟩ := State.irq_eq s p k
  rw [h]
@[simp] theorem State.irq_ingest (s : State) (p k : Nat) : (s.irq p k).ingest = s.ingest :=
  by
  obtain ⟨_, _, h⟩ := State.irq_eq s p k
  rw [h]
@[simp] theorem State.irq_storeCtl (s : State) (p k : Nat) : (s.irq p k).storeCtl = s.storeCtl :=
  by
  obtain ⟨_, _, h⟩ := State.irq_eq s p k
  rw [h]
@[simp] theorem State.irq_reservations (s : State) (p k : Nat) : (s.irq p k).reservations = s.reservations :=
  by
  obtain ⟨_, _, h⟩ := State.irq_eq s p k
  rw [h]
@[simp] theorem State.irq_strands (s : State) (p k : Nat) : (s.irq p k).strands = s.strands :=
  by
  obtain ⟨_, _, h⟩ := State.irq_eq s p k
  rw [h]
@[simp] theorem State.irq_abortSeen (s : State) (p k : Nat) : (s.irq p k).abortSeen = s.abortSeen :=
  by
  obtain ⟨_, _, h⟩ := State.irq_eq s p k
  rw [h]
@[simp] theorem State.irq_presentedSlot (s : State) (p k : Nat) : (s.irq p k).presentedSlot = s.presentedSlot :=
  by
  obtain ⟨_, _, h⟩ := State.irq_eq s p k
  rw [h]
@[simp] theorem State.irq_rails (s : State) (p k : Nat) : (s.irq p k).rails = s.rails :=
  by
  obtain ⟨_, _, h⟩ := State.irq_eq s p k
  rw [h]
@[simp] theorem State.irq_telem (s : State) (p k : Nat) : (s.irq p k).telem = s.telem :=
  by
  obtain ⟨_, _, h⟩ := State.irq_eq s p k
  rw [h]
@[simp] theorem State.irq_railOverlap (s : State) (p k : Nat) : (s.irq p k).railOverlap = s.railOverlap :=
  by
  obtain ⟨_, _, h⟩ := State.irq_eq s p k
  rw [h]
@[simp] theorem State.irq_meter (s : State) (p k : Nat) : (s.irq p k).meter = s.meter :=
  by
  obtain ⟨_, _, h⟩ := State.irq_eq s p k
  rw [h]
@[simp] theorem State.irq_belay (s : State) (p k : Nat) : (s.irq p k).belay = s.belay :=
  by
  obtain ⟨_, _, h⟩ := State.irq_eq s p k
  rw [h]
@[simp] theorem State.irq_harts (s : State) (p k : Nat) : (s.irq p k).harts = s.harts :=
  by
  obtain ⟨_, _, h⟩ := State.irq_eq s p k
  rw [h]
@[simp] theorem State.irq_sched (s : State) (p k : Nat) : (s.irq p k).sched = s.sched :=
  by
  obtain ⟨_, _, h⟩ := State.irq_eq s p k
  rw [h]
@[simp] theorem State.irq_router (s : State) (p k : Nat) : (s.irq p k).router = s.router :=
  by
  obtain ⟨_, _, h⟩ := State.irq_eq s p k
  rw [h]
@[simp] theorem State.irq_wdt (s : State) (p k : Nat) : (s.irq p k).wdt = s.wdt :=
  by
  obtain ⟨_, _, h⟩ := State.irq_eq s p k
  rw [h]
@[simp] theorem State.irq_lcp (s : State) (p k : Nat) : (s.irq p k).lcp = s.lcp :=
  by
  obtain ⟨_, _, h⟩ := State.irq_eq s p k
  rw [h]
@[simp] theorem State.irq_hspi (s : State) (p k : Nat) : (s.irq p k).hspi = s.hspi :=
  by
  obtain ⟨_, _, h⟩ := State.irq_eq s p k
  rw [h]
@[simp] theorem State.irq_uart (s : State) (p k : Nat) : (s.irq p k).uart = s.uart :=
  by
  obtain ⟨_, _, h⟩ := State.irq_eq s p k
  rw [h]
@[simp] theorem State.irq_side (s : State) (p k : Nat) : (s.irq p k).side = s.side :=
  by
  obtain ⟨_, _, h⟩ := State.irq_eq s p k
  rw [h]
@[simp] theorem State.irq_airtime (s : State) (p k : Nat) : (s.irq p k).airtime = s.airtime :=
  by
  obtain ⟨_, _, h⟩ := State.irq_eq s p k
  rw [h]
@[simp] theorem State.irq_anchor (s : State) (p k : Nat) : (s.irq p k).anchor = s.anchor :=
  by
  obtain ⟨_, _, h⟩ := State.irq_eq s p k
  rw [h]
@[simp] theorem State.irq_upd (s : State) (p k : Nat) : (s.irq p k).upd = s.upd :=
  by
  obtain ⟨_, _, h⟩ := State.irq_eq s p k
  rw [h]
@[simp] theorem State.irq_rst (s : State) (p k : Nat) : (s.irq p k).rst = s.rst :=
  by
  obtain ⟨_, _, h⟩ := State.irq_eq s p k
  rw [h]
@[simp] theorem State.irq_clk (s : State) (p k : Nat) : (s.irq p k).clk = s.clk :=
  by
  obtain ⟨_, _, h⟩ := State.irq_eq s p k
  rw [h]
@[simp] theorem State.irq_pwr (s : State) (p k : Nat) : (s.irq p k).pwr = s.pwr :=
  by
  obtain ⟨_, _, h⟩ := State.irq_eq s p k
  rw [h]
@[simp] theorem State.irq_rtc (s : State) (p k : Nat) : (s.irq p k).rtc = s.rtc :=
  by
  obtain ⟨_, _, h⟩ := State.irq_eq s p k
  rw [h]
@[simp] theorem State.irq_occQueue (s : State) (p k : Nat) : (s.irq p k).occQueue = s.occQueue :=
  by
  obtain ⟨_, _, h⟩ := State.irq_eq s p k
  rw [h]
@[simp] theorem State.irq_occDropped (s : State) (p k : Nat) : (s.irq p k).occDropped = s.occDropped :=
  by
  obtain ⟨_, _, h⟩ := State.irq_eq s p k
  rw [h]
@[simp] theorem State.irq_cairn (s : State) (p k : Nat) : (s.irq p k).cairn = s.cairn :=
  by
  obtain ⟨_, _, h⟩ := State.irq_eq s p k
  rw [h]
@[simp] theorem State.irq_pending (s : State) (p k : Nat) : (s.irq p k).pending = s.pending :=
  by
  obtain ⟨_, _, h⟩ := State.irq_eq s p k
  rw [h]

@[simp] theorem State.occur_variant (s : State) (x : Occurrence) : (s.occur x).variant = s.variant :=
  by
  obtain ⟨_, _, _, _, _, h⟩ := State.occur_eq s x
  rw [h]
@[simp] theorem State.occur_latches (s : State) (x : Occurrence) : (s.occur x).latches = s.latches :=
  by
  obtain ⟨_, _, _, _, _, h⟩ := State.occur_eq s x
  rw [h]
@[simp] theorem State.occur_fences (s : State) (x : Occurrence) : (s.occur x).fences = s.fences :=
  by
  obtain ⟨_, _, _, _, _, h⟩ := State.occur_eq s x
  rw [h]
@[simp] theorem State.occur_returning (s : State) (x : Occurrence) : (s.occur x).returning = s.returning :=
  by
  obtain ⟨_, _, _, _, _, h⟩ := State.occur_eq s x
  rw [h]
@[simp] theorem State.occur_free (s : State) (x : Occurrence) : (s.occur x).free = s.free :=
  by
  obtain ⟨_, _, _, _, _, h⟩ := State.occur_eq s x
  rw [h]
@[simp] theorem State.occur_out (s : State) (x : Occurrence) : (s.occur x).out = s.out :=
  by
  obtain ⟨_, _, _, _, _, h⟩ := State.occur_eq s x
  rw [h]
@[simp] theorem State.occur_mem (s : State) (x : Occurrence) : (s.occur x).mem = s.mem :=
  by
  obtain ⟨_, _, _, _, _, h⟩ := State.occur_eq s x
  rw [h]
@[simp] theorem State.occur_pins (s : State) (x : Occurrence) : (s.occur x).pins = s.pins :=
  by
  obtain ⟨_, _, _, _, _, h⟩ := State.occur_eq s x
  rw [h]
@[simp] theorem State.occur_ptp (s : State) (x : Occurrence) : (s.occur x).ptp = s.ptp :=
  by
  obtain ⟨_, _, _, _, _, h⟩ := State.occur_eq s x
  rw [h]
@[simp] theorem State.occur_commit (s : State) (x : Occurrence) : (s.occur x).commit = s.commit :=
  by
  obtain ⟨_, _, _, _, _, h⟩ := State.occur_eq s x
  rw [h]
@[simp] theorem State.occur_party (s : State) (x : Occurrence) : (s.occur x).party = s.party :=
  by
  obtain ⟨_, _, _, _, _, h⟩ := State.occur_eq s x
  rw [h]
@[simp] theorem State.occur_gov (s : State) (x : Occurrence) : (s.occur x).gov = s.gov :=
  by
  obtain ⟨_, _, _, _, _, h⟩ := State.occur_eq s x
  rw [h]
@[simp] theorem State.occur_netA (s : State) (x : Occurrence) : (s.occur x).netA = s.netA :=
  by
  obtain ⟨_, _, _, _, _, h⟩ := State.occur_eq s x
  rw [h]
@[simp] theorem State.occur_netB (s : State) (x : Occurrence) : (s.occur x).netB = s.netB :=
  by
  obtain ⟨_, _, _, _, _, h⟩ := State.occur_eq s x
  rw [h]
@[simp] theorem State.occur_ingest (s : State) (x : Occurrence) : (s.occur x).ingest = s.ingest :=
  by
  obtain ⟨_, _, _, _, _, h⟩ := State.occur_eq s x
  rw [h]
@[simp] theorem State.occur_storeCtl (s : State) (x : Occurrence) : (s.occur x).storeCtl = s.storeCtl :=
  by
  obtain ⟨_, _, _, _, _, h⟩ := State.occur_eq s x
  rw [h]
@[simp] theorem State.occur_reservations (s : State) (x : Occurrence) : (s.occur x).reservations = s.reservations :=
  by
  obtain ⟨_, _, _, _, _, h⟩ := State.occur_eq s x
  rw [h]
@[simp] theorem State.occur_strands (s : State) (x : Occurrence) : (s.occur x).strands = s.strands :=
  by
  obtain ⟨_, _, _, _, _, h⟩ := State.occur_eq s x
  rw [h]
@[simp] theorem State.occur_abortSeen (s : State) (x : Occurrence) : (s.occur x).abortSeen = s.abortSeen :=
  by
  obtain ⟨_, _, _, _, _, h⟩ := State.occur_eq s x
  rw [h]
@[simp] theorem State.occur_presentedSlot (s : State) (x : Occurrence) : (s.occur x).presentedSlot = s.presentedSlot :=
  by
  obtain ⟨_, _, _, _, _, h⟩ := State.occur_eq s x
  rw [h]
@[simp] theorem State.occur_rails (s : State) (x : Occurrence) : (s.occur x).rails = s.rails :=
  by
  obtain ⟨_, _, _, _, _, h⟩ := State.occur_eq s x
  rw [h]
@[simp] theorem State.occur_telem (s : State) (x : Occurrence) : (s.occur x).telem = s.telem :=
  by
  obtain ⟨_, _, _, _, _, h⟩ := State.occur_eq s x
  rw [h]
@[simp] theorem State.occur_railOverlap (s : State) (x : Occurrence) : (s.occur x).railOverlap = s.railOverlap :=
  by
  obtain ⟨_, _, _, _, _, h⟩ := State.occur_eq s x
  rw [h]
@[simp] theorem State.occur_meter (s : State) (x : Occurrence) : (s.occur x).meter = s.meter :=
  by
  obtain ⟨_, _, _, _, _, h⟩ := State.occur_eq s x
  rw [h]
@[simp] theorem State.occur_belay (s : State) (x : Occurrence) : (s.occur x).belay = s.belay :=
  by
  obtain ⟨_, _, _, _, _, h⟩ := State.occur_eq s x
  rw [h]
@[simp] theorem State.occur_harts (s : State) (x : Occurrence) : (s.occur x).harts = s.harts :=
  by
  obtain ⟨_, _, _, _, _, h⟩ := State.occur_eq s x
  rw [h]
@[simp] theorem State.occur_sched (s : State) (x : Occurrence) : (s.occur x).sched = s.sched :=
  by
  obtain ⟨_, _, _, _, _, h⟩ := State.occur_eq s x
  rw [h]
@[simp] theorem State.occur_router (s : State) (x : Occurrence) : (s.occur x).router = s.router :=
  by
  obtain ⟨_, _, _, _, _, h⟩ := State.occur_eq s x
  rw [h]
@[simp] theorem State.occur_wdt (s : State) (x : Occurrence) : (s.occur x).wdt = s.wdt :=
  by
  obtain ⟨_, _, _, _, _, h⟩ := State.occur_eq s x
  rw [h]
@[simp] theorem State.occur_lcp (s : State) (x : Occurrence) : (s.occur x).lcp = s.lcp :=
  by
  obtain ⟨_, _, _, _, _, h⟩ := State.occur_eq s x
  rw [h]
@[simp] theorem State.occur_hspi (s : State) (x : Occurrence) : (s.occur x).hspi = s.hspi :=
  by
  obtain ⟨_, _, _, _, _, h⟩ := State.occur_eq s x
  rw [h]
@[simp] theorem State.occur_uart (s : State) (x : Occurrence) : (s.occur x).uart = s.uart :=
  by
  obtain ⟨_, _, _, _, _, h⟩ := State.occur_eq s x
  rw [h]
@[simp] theorem State.occur_side (s : State) (x : Occurrence) : (s.occur x).side = s.side :=
  by
  obtain ⟨_, _, _, _, _, h⟩ := State.occur_eq s x
  rw [h]
@[simp] theorem State.occur_airtime (s : State) (x : Occurrence) : (s.occur x).airtime = s.airtime :=
  by
  obtain ⟨_, _, _, _, _, h⟩ := State.occur_eq s x
  rw [h]
@[simp] theorem State.occur_anchor (s : State) (x : Occurrence) : (s.occur x).anchor = s.anchor :=
  by
  obtain ⟨_, _, _, _, _, h⟩ := State.occur_eq s x
  rw [h]
@[simp] theorem State.occur_upd (s : State) (x : Occurrence) : (s.occur x).upd = s.upd :=
  by
  obtain ⟨_, _, _, _, _, h⟩ := State.occur_eq s x
  rw [h]
@[simp] theorem State.occur_rst (s : State) (x : Occurrence) : (s.occur x).rst = s.rst :=
  by
  obtain ⟨_, _, _, _, _, h⟩ := State.occur_eq s x
  rw [h]
@[simp] theorem State.occur_clk (s : State) (x : Occurrence) : (s.occur x).clk = s.clk :=
  by
  obtain ⟨_, _, _, _, _, h⟩ := State.occur_eq s x
  rw [h]
@[simp] theorem State.occur_pwr (s : State) (x : Occurrence) : (s.occur x).pwr = s.pwr :=
  by
  obtain ⟨_, _, _, _, _, h⟩ := State.occur_eq s x
  rw [h]
@[simp] theorem State.occur_rtc (s : State) (x : Occurrence) : (s.occur x).rtc = s.rtc :=
  by
  obtain ⟨_, _, _, _, _, h⟩ := State.occur_eq s x
  rw [h]
@[simp] theorem State.occur_pending (s : State) (x : Occurrence) : (s.occur x).pending = s.pending :=
  by
  obtain ⟨_, _, _, _, _, h⟩ := State.occur_eq s x
  rw [h]

@[simp] theorem State.record_variant (s : State) (p k u d : Nat) : (s.record p k u d).variant = s.variant :=
  State.occur_variant _ _
@[simp] theorem State.record_latches (s : State) (p k u d : Nat) : (s.record p k u d).latches = s.latches :=
  State.occur_latches _ _
@[simp] theorem State.record_fences (s : State) (p k u d : Nat) : (s.record p k u d).fences = s.fences :=
  State.occur_fences _ _
@[simp] theorem State.record_returning (s : State) (p k u d : Nat) : (s.record p k u d).returning = s.returning :=
  State.occur_returning _ _
@[simp] theorem State.record_free (s : State) (p k u d : Nat) : (s.record p k u d).free = s.free :=
  State.occur_free _ _
@[simp] theorem State.record_out (s : State) (p k u d : Nat) : (s.record p k u d).out = s.out :=
  State.occur_out _ _
@[simp] theorem State.record_mem (s : State) (p k u d : Nat) : (s.record p k u d).mem = s.mem :=
  State.occur_mem _ _
@[simp] theorem State.record_pins (s : State) (p k u d : Nat) : (s.record p k u d).pins = s.pins :=
  State.occur_pins _ _
@[simp] theorem State.record_ptp (s : State) (p k u d : Nat) : (s.record p k u d).ptp = s.ptp :=
  State.occur_ptp _ _
@[simp] theorem State.record_commit (s : State) (p k u d : Nat) : (s.record p k u d).commit = s.commit :=
  State.occur_commit _ _
@[simp] theorem State.record_party (s : State) (p k u d : Nat) : (s.record p k u d).party = s.party :=
  State.occur_party _ _
@[simp] theorem State.record_gov (s : State) (p k u d : Nat) : (s.record p k u d).gov = s.gov :=
  State.occur_gov _ _
@[simp] theorem State.record_netA (s : State) (p k u d : Nat) : (s.record p k u d).netA = s.netA :=
  State.occur_netA _ _
@[simp] theorem State.record_netB (s : State) (p k u d : Nat) : (s.record p k u d).netB = s.netB :=
  State.occur_netB _ _
@[simp] theorem State.record_ingest (s : State) (p k u d : Nat) : (s.record p k u d).ingest = s.ingest :=
  State.occur_ingest _ _
@[simp] theorem State.record_storeCtl (s : State) (p k u d : Nat) : (s.record p k u d).storeCtl = s.storeCtl :=
  State.occur_storeCtl _ _
@[simp] theorem State.record_reservations (s : State) (p k u d : Nat) : (s.record p k u d).reservations = s.reservations :=
  State.occur_reservations _ _
@[simp] theorem State.record_strands (s : State) (p k u d : Nat) : (s.record p k u d).strands = s.strands :=
  State.occur_strands _ _
@[simp] theorem State.record_abortSeen (s : State) (p k u d : Nat) : (s.record p k u d).abortSeen = s.abortSeen :=
  State.occur_abortSeen _ _
@[simp] theorem State.record_presentedSlot (s : State) (p k u d : Nat) : (s.record p k u d).presentedSlot = s.presentedSlot :=
  State.occur_presentedSlot _ _
@[simp] theorem State.record_rails (s : State) (p k u d : Nat) : (s.record p k u d).rails = s.rails :=
  State.occur_rails _ _
@[simp] theorem State.record_telem (s : State) (p k u d : Nat) : (s.record p k u d).telem = s.telem :=
  State.occur_telem _ _
@[simp] theorem State.record_railOverlap (s : State) (p k u d : Nat) : (s.record p k u d).railOverlap = s.railOverlap :=
  State.occur_railOverlap _ _
@[simp] theorem State.record_meter (s : State) (p k u d : Nat) : (s.record p k u d).meter = s.meter :=
  State.occur_meter _ _
@[simp] theorem State.record_belay (s : State) (p k u d : Nat) : (s.record p k u d).belay = s.belay :=
  State.occur_belay _ _
@[simp] theorem State.record_harts (s : State) (p k u d : Nat) : (s.record p k u d).harts = s.harts :=
  State.occur_harts _ _
@[simp] theorem State.record_sched (s : State) (p k u d : Nat) : (s.record p k u d).sched = s.sched :=
  State.occur_sched _ _
@[simp] theorem State.record_router (s : State) (p k u d : Nat) : (s.record p k u d).router = s.router :=
  State.occur_router _ _
@[simp] theorem State.record_wdt (s : State) (p k u d : Nat) : (s.record p k u d).wdt = s.wdt :=
  State.occur_wdt _ _
@[simp] theorem State.record_lcp (s : State) (p k u d : Nat) : (s.record p k u d).lcp = s.lcp :=
  State.occur_lcp _ _
@[simp] theorem State.record_hspi (s : State) (p k u d : Nat) : (s.record p k u d).hspi = s.hspi :=
  State.occur_hspi _ _
@[simp] theorem State.record_uart (s : State) (p k u d : Nat) : (s.record p k u d).uart = s.uart :=
  State.occur_uart _ _
@[simp] theorem State.record_side (s : State) (p k u d : Nat) : (s.record p k u d).side = s.side :=
  State.occur_side _ _
@[simp] theorem State.record_airtime (s : State) (p k u d : Nat) : (s.record p k u d).airtime = s.airtime :=
  State.occur_airtime _ _
@[simp] theorem State.record_anchor (s : State) (p k u d : Nat) : (s.record p k u d).anchor = s.anchor :=
  State.occur_anchor _ _
@[simp] theorem State.record_upd (s : State) (p k u d : Nat) : (s.record p k u d).upd = s.upd :=
  State.occur_upd _ _
@[simp] theorem State.record_rst (s : State) (p k u d : Nat) : (s.record p k u d).rst = s.rst :=
  State.occur_rst _ _
@[simp] theorem State.record_clk (s : State) (p k u d : Nat) : (s.record p k u d).clk = s.clk :=
  State.occur_clk _ _
@[simp] theorem State.record_pwr (s : State) (p k u d : Nat) : (s.record p k u d).pwr = s.pwr :=
  State.occur_pwr _ _
@[simp] theorem State.record_rtc (s : State) (p k u d : Nat) : (s.record p k u d).rtc = s.rtc :=
  State.occur_rtc _ _
@[simp] theorem State.record_pending (s : State) (p k u d : Nat) : (s.record p k u d).pending = s.pending :=
  State.occur_pending _ _

@[simp] theorem State.event_variant (s : State) (p k u d : Nat) : (s.event p k u d).variant = s.variant :=
  (State.occur_variant _ _).trans (State.irq_variant s p k)
@[simp] theorem State.event_latches (s : State) (p k u d : Nat) : (s.event p k u d).latches = s.latches :=
  (State.occur_latches _ _).trans (State.irq_latches s p k)
@[simp] theorem State.event_fences (s : State) (p k u d : Nat) : (s.event p k u d).fences = s.fences :=
  (State.occur_fences _ _).trans (State.irq_fences s p k)
@[simp] theorem State.event_returning (s : State) (p k u d : Nat) : (s.event p k u d).returning = s.returning :=
  (State.occur_returning _ _).trans (State.irq_returning s p k)
@[simp] theorem State.event_free (s : State) (p k u d : Nat) : (s.event p k u d).free = s.free :=
  (State.occur_free _ _).trans (State.irq_free s p k)
@[simp] theorem State.event_out (s : State) (p k u d : Nat) : (s.event p k u d).out = s.out :=
  (State.occur_out _ _).trans (State.irq_out s p k)
@[simp] theorem State.event_mem (s : State) (p k u d : Nat) : (s.event p k u d).mem = s.mem :=
  (State.occur_mem _ _).trans (State.irq_mem s p k)
@[simp] theorem State.event_pins (s : State) (p k u d : Nat) : (s.event p k u d).pins = s.pins :=
  (State.occur_pins _ _).trans (State.irq_pins s p k)
@[simp] theorem State.event_ptp (s : State) (p k u d : Nat) : (s.event p k u d).ptp = s.ptp :=
  (State.occur_ptp _ _).trans (State.irq_ptp s p k)
@[simp] theorem State.event_commit (s : State) (p k u d : Nat) : (s.event p k u d).commit = s.commit :=
  (State.occur_commit _ _).trans (State.irq_commit s p k)
@[simp] theorem State.event_party (s : State) (p k u d : Nat) : (s.event p k u d).party = s.party :=
  (State.occur_party _ _).trans (State.irq_party s p k)
@[simp] theorem State.event_gov (s : State) (p k u d : Nat) : (s.event p k u d).gov = s.gov :=
  (State.occur_gov _ _).trans (State.irq_gov s p k)
@[simp] theorem State.event_netA (s : State) (p k u d : Nat) : (s.event p k u d).netA = s.netA :=
  (State.occur_netA _ _).trans (State.irq_netA s p k)
@[simp] theorem State.event_netB (s : State) (p k u d : Nat) : (s.event p k u d).netB = s.netB :=
  (State.occur_netB _ _).trans (State.irq_netB s p k)
@[simp] theorem State.event_ingest (s : State) (p k u d : Nat) : (s.event p k u d).ingest = s.ingest :=
  (State.occur_ingest _ _).trans (State.irq_ingest s p k)
@[simp] theorem State.event_storeCtl (s : State) (p k u d : Nat) : (s.event p k u d).storeCtl = s.storeCtl :=
  (State.occur_storeCtl _ _).trans (State.irq_storeCtl s p k)
@[simp] theorem State.event_reservations (s : State) (p k u d : Nat) : (s.event p k u d).reservations = s.reservations :=
  (State.occur_reservations _ _).trans (State.irq_reservations s p k)
@[simp] theorem State.event_strands (s : State) (p k u d : Nat) : (s.event p k u d).strands = s.strands :=
  (State.occur_strands _ _).trans (State.irq_strands s p k)
@[simp] theorem State.event_abortSeen (s : State) (p k u d : Nat) : (s.event p k u d).abortSeen = s.abortSeen :=
  (State.occur_abortSeen _ _).trans (State.irq_abortSeen s p k)
@[simp] theorem State.event_presentedSlot (s : State) (p k u d : Nat) : (s.event p k u d).presentedSlot = s.presentedSlot :=
  (State.occur_presentedSlot _ _).trans (State.irq_presentedSlot s p k)
@[simp] theorem State.event_rails (s : State) (p k u d : Nat) : (s.event p k u d).rails = s.rails :=
  (State.occur_rails _ _).trans (State.irq_rails s p k)
@[simp] theorem State.event_telem (s : State) (p k u d : Nat) : (s.event p k u d).telem = s.telem :=
  (State.occur_telem _ _).trans (State.irq_telem s p k)
@[simp] theorem State.event_railOverlap (s : State) (p k u d : Nat) : (s.event p k u d).railOverlap = s.railOverlap :=
  (State.occur_railOverlap _ _).trans (State.irq_railOverlap s p k)
@[simp] theorem State.event_meter (s : State) (p k u d : Nat) : (s.event p k u d).meter = s.meter :=
  (State.occur_meter _ _).trans (State.irq_meter s p k)
@[simp] theorem State.event_belay (s : State) (p k u d : Nat) : (s.event p k u d).belay = s.belay :=
  (State.occur_belay _ _).trans (State.irq_belay s p k)
@[simp] theorem State.event_harts (s : State) (p k u d : Nat) : (s.event p k u d).harts = s.harts :=
  (State.occur_harts _ _).trans (State.irq_harts s p k)
@[simp] theorem State.event_sched (s : State) (p k u d : Nat) : (s.event p k u d).sched = s.sched :=
  (State.occur_sched _ _).trans (State.irq_sched s p k)
@[simp] theorem State.event_router (s : State) (p k u d : Nat) : (s.event p k u d).router = s.router :=
  (State.occur_router _ _).trans (State.irq_router s p k)
@[simp] theorem State.event_wdt (s : State) (p k u d : Nat) : (s.event p k u d).wdt = s.wdt :=
  (State.occur_wdt _ _).trans (State.irq_wdt s p k)
@[simp] theorem State.event_lcp (s : State) (p k u d : Nat) : (s.event p k u d).lcp = s.lcp :=
  (State.occur_lcp _ _).trans (State.irq_lcp s p k)
@[simp] theorem State.event_hspi (s : State) (p k u d : Nat) : (s.event p k u d).hspi = s.hspi :=
  (State.occur_hspi _ _).trans (State.irq_hspi s p k)
@[simp] theorem State.event_uart (s : State) (p k u d : Nat) : (s.event p k u d).uart = s.uart :=
  (State.occur_uart _ _).trans (State.irq_uart s p k)
@[simp] theorem State.event_side (s : State) (p k u d : Nat) : (s.event p k u d).side = s.side :=
  (State.occur_side _ _).trans (State.irq_side s p k)
@[simp] theorem State.event_airtime (s : State) (p k u d : Nat) : (s.event p k u d).airtime = s.airtime :=
  (State.occur_airtime _ _).trans (State.irq_airtime s p k)
@[simp] theorem State.event_anchor (s : State) (p k u d : Nat) : (s.event p k u d).anchor = s.anchor :=
  (State.occur_anchor _ _).trans (State.irq_anchor s p k)
@[simp] theorem State.event_upd (s : State) (p k u d : Nat) : (s.event p k u d).upd = s.upd :=
  (State.occur_upd _ _).trans (State.irq_upd s p k)
@[simp] theorem State.event_rst (s : State) (p k u d : Nat) : (s.event p k u d).rst = s.rst :=
  (State.occur_rst _ _).trans (State.irq_rst s p k)
@[simp] theorem State.event_clk (s : State) (p k u d : Nat) : (s.event p k u d).clk = s.clk :=
  (State.occur_clk _ _).trans (State.irq_clk s p k)
@[simp] theorem State.event_pwr (s : State) (p k u d : Nat) : (s.event p k u d).pwr = s.pwr :=
  (State.occur_pwr _ _).trans (State.irq_pwr s p k)
@[simp] theorem State.event_rtc (s : State) (p k u d : Nat) : (s.event p k u d).rtc = s.rtc :=
  (State.occur_rtc _ _).trans (State.irq_rtc s p k)
@[simp] theorem State.event_pending (s : State) (p k u d : Nat) : (s.event p k u d).pending = s.pending :=
  (State.occur_pending _ _).trans (State.irq_pending s p k)

@[simp] theorem State.recordOpen_variant (s : State) (p : Nat) : (s.recordOpen p).variant = s.variant :=
  State.occur_variant _ _
@[simp] theorem State.recordOpen_latches (s : State) (p : Nat) : (s.recordOpen p).latches = s.latches :=
  State.occur_latches _ _
@[simp] theorem State.recordOpen_fences (s : State) (p : Nat) : (s.recordOpen p).fences = s.fences :=
  State.occur_fences _ _
@[simp] theorem State.recordOpen_returning (s : State) (p : Nat) : (s.recordOpen p).returning = s.returning :=
  State.occur_returning _ _
@[simp] theorem State.recordOpen_out (s : State) (p : Nat) : (s.recordOpen p).out = s.out :=
  State.occur_out _ _
@[simp] theorem State.recordOpen_mem (s : State) (p : Nat) : (s.recordOpen p).mem = s.mem :=
  State.occur_mem _ _
@[simp] theorem State.recordOpen_pins (s : State) (p : Nat) : (s.recordOpen p).pins = s.pins :=
  State.occur_pins _ _
@[simp] theorem State.recordOpen_ptp (s : State) (p : Nat) : (s.recordOpen p).ptp = s.ptp :=
  State.occur_ptp _ _
@[simp] theorem State.recordOpen_commit (s : State) (p : Nat) : (s.recordOpen p).commit = s.commit :=
  State.occur_commit _ _
@[simp] theorem State.recordOpen_party (s : State) (p : Nat) : (s.recordOpen p).party = s.party :=
  State.occur_party _ _
@[simp] theorem State.recordOpen_gov (s : State) (p : Nat) : (s.recordOpen p).gov = s.gov :=
  State.occur_gov _ _
@[simp] theorem State.recordOpen_netA (s : State) (p : Nat) : (s.recordOpen p).netA = s.netA :=
  State.occur_netA _ _
@[simp] theorem State.recordOpen_netB (s : State) (p : Nat) : (s.recordOpen p).netB = s.netB :=
  State.occur_netB _ _
@[simp] theorem State.recordOpen_ingest (s : State) (p : Nat) : (s.recordOpen p).ingest = s.ingest :=
  State.occur_ingest _ _
@[simp] theorem State.recordOpen_storeCtl (s : State) (p : Nat) : (s.recordOpen p).storeCtl = s.storeCtl :=
  State.occur_storeCtl _ _
@[simp] theorem State.recordOpen_reservations (s : State) (p : Nat) : (s.recordOpen p).reservations = s.reservations :=
  State.occur_reservations _ _
@[simp] theorem State.recordOpen_strands (s : State) (p : Nat) : (s.recordOpen p).strands = s.strands :=
  State.occur_strands _ _
@[simp] theorem State.recordOpen_abortSeen (s : State) (p : Nat) : (s.recordOpen p).abortSeen = s.abortSeen :=
  State.occur_abortSeen _ _
@[simp] theorem State.recordOpen_presentedSlot (s : State) (p : Nat) : (s.recordOpen p).presentedSlot = s.presentedSlot :=
  State.occur_presentedSlot _ _
@[simp] theorem State.recordOpen_rails (s : State) (p : Nat) : (s.recordOpen p).rails = s.rails :=
  State.occur_rails _ _
@[simp] theorem State.recordOpen_telem (s : State) (p : Nat) : (s.recordOpen p).telem = s.telem :=
  State.occur_telem _ _
@[simp] theorem State.recordOpen_railOverlap (s : State) (p : Nat) : (s.recordOpen p).railOverlap = s.railOverlap :=
  State.occur_railOverlap _ _
@[simp] theorem State.recordOpen_meter (s : State) (p : Nat) : (s.recordOpen p).meter = s.meter :=
  State.occur_meter _ _
@[simp] theorem State.recordOpen_belay (s : State) (p : Nat) : (s.recordOpen p).belay = s.belay :=
  State.occur_belay _ _
@[simp] theorem State.recordOpen_harts (s : State) (p : Nat) : (s.recordOpen p).harts = s.harts :=
  State.occur_harts _ _
@[simp] theorem State.recordOpen_sched (s : State) (p : Nat) : (s.recordOpen p).sched = s.sched :=
  State.occur_sched _ _
@[simp] theorem State.recordOpen_router (s : State) (p : Nat) : (s.recordOpen p).router = s.router :=
  State.occur_router _ _
@[simp] theorem State.recordOpen_wdt (s : State) (p : Nat) : (s.recordOpen p).wdt = s.wdt :=
  State.occur_wdt _ _
@[simp] theorem State.recordOpen_lcp (s : State) (p : Nat) : (s.recordOpen p).lcp = s.lcp :=
  State.occur_lcp _ _
@[simp] theorem State.recordOpen_hspi (s : State) (p : Nat) : (s.recordOpen p).hspi = s.hspi :=
  State.occur_hspi _ _
@[simp] theorem State.recordOpen_uart (s : State) (p : Nat) : (s.recordOpen p).uart = s.uart :=
  State.occur_uart _ _
@[simp] theorem State.recordOpen_side (s : State) (p : Nat) : (s.recordOpen p).side = s.side :=
  State.occur_side _ _
@[simp] theorem State.recordOpen_airtime (s : State) (p : Nat) : (s.recordOpen p).airtime = s.airtime :=
  State.occur_airtime _ _
@[simp] theorem State.recordOpen_anchor (s : State) (p : Nat) : (s.recordOpen p).anchor = s.anchor :=
  State.occur_anchor _ _
@[simp] theorem State.recordOpen_upd (s : State) (p : Nat) : (s.recordOpen p).upd = s.upd :=
  State.occur_upd _ _
@[simp] theorem State.recordOpen_rst (s : State) (p : Nat) : (s.recordOpen p).rst = s.rst :=
  State.occur_rst _ _
@[simp] theorem State.recordOpen_clk (s : State) (p : Nat) : (s.recordOpen p).clk = s.clk :=
  State.occur_clk _ _
@[simp] theorem State.recordOpen_pwr (s : State) (p : Nat) : (s.recordOpen p).pwr = s.pwr :=
  State.occur_pwr _ _
@[simp] theorem State.recordOpen_rtc (s : State) (p : Nat) : (s.recordOpen p).rtc = s.rtc :=
  State.occur_rtc _ _
@[simp] theorem State.recordOpen_pending (s : State) (p : Nat) : (s.recordOpen p).pending = s.pending :=
  State.occur_pending _ _

@[simp] theorem State.fence_variant (s : State) (p u c d : Nat) : (s.fence p u c d).variant = s.variant :=
  by
  obtain ⟨_, _, _, _, _, _, h⟩ := State.fence_eq s p u c d
  rw [h]
@[simp] theorem State.fence_latches (s : State) (p u c d : Nat) : (s.fence p u c d).latches = s.latches :=
  by
  obtain ⟨_, _, _, _, _, _, h⟩ := State.fence_eq s p u c d
  rw [h]
@[simp] theorem State.fence_returning (s : State) (p u c d : Nat) : (s.fence p u c d).returning = s.returning :=
  by
  obtain ⟨_, _, _, _, _, _, h⟩ := State.fence_eq s p u c d
  rw [h]
@[simp] theorem State.fence_free (s : State) (p u c d : Nat) : (s.fence p u c d).free = s.free :=
  by
  obtain ⟨_, _, _, _, _, _, h⟩ := State.fence_eq s p u c d
  rw [h]
@[simp] theorem State.fence_out (s : State) (p u c d : Nat) : (s.fence p u c d).out = s.out :=
  by
  obtain ⟨_, _, _, _, _, _, h⟩ := State.fence_eq s p u c d
  rw [h]
@[simp] theorem State.fence_mem (s : State) (p u c d : Nat) : (s.fence p u c d).mem = s.mem :=
  by
  obtain ⟨_, _, _, _, _, _, h⟩ := State.fence_eq s p u c d
  rw [h]
@[simp] theorem State.fence_pins (s : State) (p u c d : Nat) : (s.fence p u c d).pins = s.pins :=
  by
  obtain ⟨_, _, _, _, _, _, h⟩ := State.fence_eq s p u c d
  rw [h]
@[simp] theorem State.fence_ptp (s : State) (p u c d : Nat) : (s.fence p u c d).ptp = s.ptp :=
  by
  obtain ⟨_, _, _, _, _, _, h⟩ := State.fence_eq s p u c d
  rw [h]
@[simp] theorem State.fence_commit (s : State) (p u c d : Nat) : (s.fence p u c d).commit = s.commit :=
  by
  obtain ⟨_, _, _, _, _, _, h⟩ := State.fence_eq s p u c d
  rw [h]
@[simp] theorem State.fence_party (s : State) (p u c d : Nat) : (s.fence p u c d).party = s.party :=
  by
  obtain ⟨_, _, _, _, _, _, h⟩ := State.fence_eq s p u c d
  rw [h]
@[simp] theorem State.fence_gov (s : State) (p u c d : Nat) : (s.fence p u c d).gov = s.gov :=
  by
  obtain ⟨_, _, _, _, _, _, h⟩ := State.fence_eq s p u c d
  rw [h]
@[simp] theorem State.fence_netA (s : State) (p u c d : Nat) : (s.fence p u c d).netA = s.netA :=
  by
  obtain ⟨_, _, _, _, _, _, h⟩ := State.fence_eq s p u c d
  rw [h]
@[simp] theorem State.fence_netB (s : State) (p u c d : Nat) : (s.fence p u c d).netB = s.netB :=
  by
  obtain ⟨_, _, _, _, _, _, h⟩ := State.fence_eq s p u c d
  rw [h]
@[simp] theorem State.fence_ingest (s : State) (p u c d : Nat) : (s.fence p u c d).ingest = s.ingest :=
  by
  obtain ⟨_, _, _, _, _, _, h⟩ := State.fence_eq s p u c d
  rw [h]
@[simp] theorem State.fence_storeCtl (s : State) (p u c d : Nat) : (s.fence p u c d).storeCtl = s.storeCtl :=
  by
  obtain ⟨_, _, _, _, _, _, h⟩ := State.fence_eq s p u c d
  rw [h]
@[simp] theorem State.fence_reservations (s : State) (p u c d : Nat) : (s.fence p u c d).reservations = s.reservations :=
  by
  obtain ⟨_, _, _, _, _, _, h⟩ := State.fence_eq s p u c d
  rw [h]
@[simp] theorem State.fence_strands (s : State) (p u c d : Nat) : (s.fence p u c d).strands = s.strands :=
  by
  obtain ⟨_, _, _, _, _, _, h⟩ := State.fence_eq s p u c d
  rw [h]
@[simp] theorem State.fence_abortSeen (s : State) (p u c d : Nat) : (s.fence p u c d).abortSeen = s.abortSeen :=
  by
  obtain ⟨_, _, _, _, _, _, h⟩ := State.fence_eq s p u c d
  rw [h]
@[simp] theorem State.fence_presentedSlot (s : State) (p u c d : Nat) : (s.fence p u c d).presentedSlot = s.presentedSlot :=
  by
  obtain ⟨_, _, _, _, _, _, h⟩ := State.fence_eq s p u c d
  rw [h]
@[simp] theorem State.fence_rails (s : State) (p u c d : Nat) : (s.fence p u c d).rails = s.rails :=
  by
  obtain ⟨_, _, _, _, _, _, h⟩ := State.fence_eq s p u c d
  rw [h]
@[simp] theorem State.fence_telem (s : State) (p u c d : Nat) : (s.fence p u c d).telem = s.telem :=
  by
  obtain ⟨_, _, _, _, _, _, h⟩ := State.fence_eq s p u c d
  rw [h]
@[simp] theorem State.fence_railOverlap (s : State) (p u c d : Nat) : (s.fence p u c d).railOverlap = s.railOverlap :=
  by
  obtain ⟨_, _, _, _, _, _, h⟩ := State.fence_eq s p u c d
  rw [h]
@[simp] theorem State.fence_meter (s : State) (p u c d : Nat) : (s.fence p u c d).meter = s.meter :=
  by
  obtain ⟨_, _, _, _, _, _, h⟩ := State.fence_eq s p u c d
  rw [h]
@[simp] theorem State.fence_belay (s : State) (p u c d : Nat) : (s.fence p u c d).belay = s.belay :=
  by
  obtain ⟨_, _, _, _, _, _, h⟩ := State.fence_eq s p u c d
  rw [h]
@[simp] theorem State.fence_harts (s : State) (p u c d : Nat) : (s.fence p u c d).harts = s.harts :=
  by
  obtain ⟨_, _, _, _, _, _, h⟩ := State.fence_eq s p u c d
  rw [h]
@[simp] theorem State.fence_sched (s : State) (p u c d : Nat) : (s.fence p u c d).sched = s.sched :=
  by
  obtain ⟨_, _, _, _, _, _, h⟩ := State.fence_eq s p u c d
  rw [h]
@[simp] theorem State.fence_router (s : State) (p u c d : Nat) : (s.fence p u c d).router = s.router :=
  by
  obtain ⟨_, _, _, _, _, _, h⟩ := State.fence_eq s p u c d
  rw [h]
@[simp] theorem State.fence_wdt (s : State) (p u c d : Nat) : (s.fence p u c d).wdt = s.wdt :=
  by
  obtain ⟨_, _, _, _, _, _, h⟩ := State.fence_eq s p u c d
  rw [h]
@[simp] theorem State.fence_lcp (s : State) (p u c d : Nat) : (s.fence p u c d).lcp = s.lcp :=
  by
  obtain ⟨_, _, _, _, _, _, h⟩ := State.fence_eq s p u c d
  rw [h]
@[simp] theorem State.fence_hspi (s : State) (p u c d : Nat) : (s.fence p u c d).hspi = s.hspi :=
  by
  obtain ⟨_, _, _, _, _, _, h⟩ := State.fence_eq s p u c d
  rw [h]
@[simp] theorem State.fence_uart (s : State) (p u c d : Nat) : (s.fence p u c d).uart = s.uart :=
  by
  obtain ⟨_, _, _, _, _, _, h⟩ := State.fence_eq s p u c d
  rw [h]
@[simp] theorem State.fence_side (s : State) (p u c d : Nat) : (s.fence p u c d).side = s.side :=
  by
  obtain ⟨_, _, _, _, _, _, h⟩ := State.fence_eq s p u c d
  rw [h]
@[simp] theorem State.fence_airtime (s : State) (p u c d : Nat) : (s.fence p u c d).airtime = s.airtime :=
  by
  obtain ⟨_, _, _, _, _, _, h⟩ := State.fence_eq s p u c d
  rw [h]
@[simp] theorem State.fence_anchor (s : State) (p u c d : Nat) : (s.fence p u c d).anchor = s.anchor :=
  by
  obtain ⟨_, _, _, _, _, _, h⟩ := State.fence_eq s p u c d
  rw [h]
@[simp] theorem State.fence_upd (s : State) (p u c d : Nat) : (s.fence p u c d).upd = s.upd :=
  by
  obtain ⟨_, _, _, _, _, _, h⟩ := State.fence_eq s p u c d
  rw [h]
@[simp] theorem State.fence_rst (s : State) (p u c d : Nat) : (s.fence p u c d).rst = s.rst :=
  by
  obtain ⟨_, _, _, _, _, _, h⟩ := State.fence_eq s p u c d
  rw [h]
@[simp] theorem State.fence_clk (s : State) (p u c d : Nat) : (s.fence p u c d).clk = s.clk :=
  by
  obtain ⟨_, _, _, _, _, _, h⟩ := State.fence_eq s p u c d
  rw [h]
@[simp] theorem State.fence_pwr (s : State) (p u c d : Nat) : (s.fence p u c d).pwr = s.pwr :=
  by
  obtain ⟨_, _, _, _, _, _, h⟩ := State.fence_eq s p u c d
  rw [h]
@[simp] theorem State.fence_rtc (s : State) (p u c d : Nat) : (s.fence p u c d).rtc = s.rtc :=
  by
  obtain ⟨_, _, _, _, _, _, h⟩ := State.fence_eq s p u c d
  rw [h]
@[simp] theorem State.fence_pending (s : State) (p u c d : Nat) : (s.fence p u c d).pending = s.pending :=
  by
  obtain ⟨_, _, _, _, _, _, h⟩ := State.fence_eq s p u c d
  rw [h]

@[simp] theorem State.fenceBlock_variant (s : State) (p c : Nat) : (s.fenceBlock p c).variant = s.variant :=
  State.fence_variant _ _ _ _ _
@[simp] theorem State.fenceBlock_latches (s : State) (p c : Nat) : (s.fenceBlock p c).latches = s.latches :=
  State.fence_latches _ _ _ _ _
@[simp] theorem State.fenceBlock_returning (s : State) (p c : Nat) : (s.fenceBlock p c).returning = s.returning :=
  State.fence_returning _ _ _ _ _
@[simp] theorem State.fenceBlock_free (s : State) (p c : Nat) : (s.fenceBlock p c).free = s.free :=
  State.fence_free _ _ _ _ _
@[simp] theorem State.fenceBlock_out (s : State) (p c : Nat) : (s.fenceBlock p c).out = s.out :=
  State.fence_out _ _ _ _ _
@[simp] theorem State.fenceBlock_mem (s : State) (p c : Nat) : (s.fenceBlock p c).mem = s.mem :=
  State.fence_mem _ _ _ _ _
@[simp] theorem State.fenceBlock_pins (s : State) (p c : Nat) : (s.fenceBlock p c).pins = s.pins :=
  State.fence_pins _ _ _ _ _
@[simp] theorem State.fenceBlock_ptp (s : State) (p c : Nat) : (s.fenceBlock p c).ptp = s.ptp :=
  State.fence_ptp _ _ _ _ _
@[simp] theorem State.fenceBlock_commit (s : State) (p c : Nat) : (s.fenceBlock p c).commit = s.commit :=
  State.fence_commit _ _ _ _ _
@[simp] theorem State.fenceBlock_party (s : State) (p c : Nat) : (s.fenceBlock p c).party = s.party :=
  State.fence_party _ _ _ _ _
@[simp] theorem State.fenceBlock_gov (s : State) (p c : Nat) : (s.fenceBlock p c).gov = s.gov :=
  State.fence_gov _ _ _ _ _
@[simp] theorem State.fenceBlock_netA (s : State) (p c : Nat) : (s.fenceBlock p c).netA = s.netA :=
  State.fence_netA _ _ _ _ _
@[simp] theorem State.fenceBlock_netB (s : State) (p c : Nat) : (s.fenceBlock p c).netB = s.netB :=
  State.fence_netB _ _ _ _ _
@[simp] theorem State.fenceBlock_ingest (s : State) (p c : Nat) : (s.fenceBlock p c).ingest = s.ingest :=
  State.fence_ingest _ _ _ _ _
@[simp] theorem State.fenceBlock_storeCtl (s : State) (p c : Nat) : (s.fenceBlock p c).storeCtl = s.storeCtl :=
  State.fence_storeCtl _ _ _ _ _
@[simp] theorem State.fenceBlock_reservations (s : State) (p c : Nat) : (s.fenceBlock p c).reservations = s.reservations :=
  State.fence_reservations _ _ _ _ _
@[simp] theorem State.fenceBlock_strands (s : State) (p c : Nat) : (s.fenceBlock p c).strands = s.strands :=
  State.fence_strands _ _ _ _ _
@[simp] theorem State.fenceBlock_abortSeen (s : State) (p c : Nat) : (s.fenceBlock p c).abortSeen = s.abortSeen :=
  State.fence_abortSeen _ _ _ _ _
@[simp] theorem State.fenceBlock_presentedSlot (s : State) (p c : Nat) : (s.fenceBlock p c).presentedSlot = s.presentedSlot :=
  State.fence_presentedSlot _ _ _ _ _
@[simp] theorem State.fenceBlock_rails (s : State) (p c : Nat) : (s.fenceBlock p c).rails = s.rails :=
  State.fence_rails _ _ _ _ _
@[simp] theorem State.fenceBlock_telem (s : State) (p c : Nat) : (s.fenceBlock p c).telem = s.telem :=
  State.fence_telem _ _ _ _ _
@[simp] theorem State.fenceBlock_railOverlap (s : State) (p c : Nat) : (s.fenceBlock p c).railOverlap = s.railOverlap :=
  State.fence_railOverlap _ _ _ _ _
@[simp] theorem State.fenceBlock_meter (s : State) (p c : Nat) : (s.fenceBlock p c).meter = s.meter :=
  State.fence_meter _ _ _ _ _
@[simp] theorem State.fenceBlock_belay (s : State) (p c : Nat) : (s.fenceBlock p c).belay = s.belay :=
  State.fence_belay _ _ _ _ _
@[simp] theorem State.fenceBlock_harts (s : State) (p c : Nat) : (s.fenceBlock p c).harts = s.harts :=
  State.fence_harts _ _ _ _ _
@[simp] theorem State.fenceBlock_sched (s : State) (p c : Nat) : (s.fenceBlock p c).sched = s.sched :=
  State.fence_sched _ _ _ _ _
@[simp] theorem State.fenceBlock_router (s : State) (p c : Nat) : (s.fenceBlock p c).router = s.router :=
  State.fence_router _ _ _ _ _
@[simp] theorem State.fenceBlock_wdt (s : State) (p c : Nat) : (s.fenceBlock p c).wdt = s.wdt :=
  State.fence_wdt _ _ _ _ _
@[simp] theorem State.fenceBlock_lcp (s : State) (p c : Nat) : (s.fenceBlock p c).lcp = s.lcp :=
  State.fence_lcp _ _ _ _ _
@[simp] theorem State.fenceBlock_hspi (s : State) (p c : Nat) : (s.fenceBlock p c).hspi = s.hspi :=
  State.fence_hspi _ _ _ _ _
@[simp] theorem State.fenceBlock_uart (s : State) (p c : Nat) : (s.fenceBlock p c).uart = s.uart :=
  State.fence_uart _ _ _ _ _
@[simp] theorem State.fenceBlock_side (s : State) (p c : Nat) : (s.fenceBlock p c).side = s.side :=
  State.fence_side _ _ _ _ _
@[simp] theorem State.fenceBlock_airtime (s : State) (p c : Nat) : (s.fenceBlock p c).airtime = s.airtime :=
  State.fence_airtime _ _ _ _ _
@[simp] theorem State.fenceBlock_anchor (s : State) (p c : Nat) : (s.fenceBlock p c).anchor = s.anchor :=
  State.fence_anchor _ _ _ _ _
@[simp] theorem State.fenceBlock_upd (s : State) (p c : Nat) : (s.fenceBlock p c).upd = s.upd :=
  State.fence_upd _ _ _ _ _
@[simp] theorem State.fenceBlock_rst (s : State) (p c : Nat) : (s.fenceBlock p c).rst = s.rst :=
  State.fence_rst _ _ _ _ _
@[simp] theorem State.fenceBlock_clk (s : State) (p c : Nat) : (s.fenceBlock p c).clk = s.clk :=
  State.fence_clk _ _ _ _ _
@[simp] theorem State.fenceBlock_pwr (s : State) (p c : Nat) : (s.fenceBlock p c).pwr = s.pwr :=
  State.fence_pwr _ _ _ _ _
@[simp] theorem State.fenceBlock_rtc (s : State) (p c : Nat) : (s.fenceBlock p c).rtc = s.rtc :=
  State.fence_rtc _ _ _ _ _
@[simp] theorem State.fenceBlock_pending (s : State) (p c : Nat) : (s.fenceBlock p c).pending = s.pending :=
  State.fence_pending _ _ _ _ _

/-- The fence is in force. -/
theorem fence_hasFence (s : State) (p u c d : Nat) : (s.fence p u c d).hasFence p u = true := by
  unfold State.fence
  split
  · rename_i h
    unfold State.hasFence at *
    rw [State.occur_fences]
    exact h
  · unfold State.hasFence
    simp only []
    split <;> simp [State.occur_fences]

/-! ## Frames -/

/-- An occurrence leaves every field apart from the two that a loss changes. -/
theorem regFld_occur_apart (s : State) (c : Occurrence) {g : Fld} (h : regsOk s.regs = true) (hg : g.ok = true)
    (h1 : R.CAIRN_CNT_LOST_N.apart g = true) (h2 : (R.PG_IRQ_RAW_BIT pCAIRN 1).apart g = true) :
    regFld (s.occur c).regs g = regFld s.regs g := by
  unfold State.occur
  split
  · rfl
  · split
    · unfold State.cairnLoss
      rw [regs_irq_of_ne _ _ (by decide) (by decide), regs_inc]
      refine (regFld_regPut_other 1 (regsOk_regPut _ _ h) rfl hg h2).trans ?_
      exact regFld_regPut_other _ h rfl hg h1
    · rfl

theorem regFld_record_apart (s : State) (p k u d : Nat) {g : Fld} (h : regsOk s.regs = true) (hg : g.ok = true)
    (h1 : R.CAIRN_CNT_LOST_N.apart g = true) (h2 : (R.PG_IRQ_RAW_BIT pCAIRN 1).apart g = true) :
    regFld (s.record p k u d).regs g = regFld s.regs g := regFld_occur_apart s _ h hg h1 h2

theorem regFld_recordOpen_apart (s : State) (p : Nat) {g : Fld} (h : regsOk s.regs = true) (hg : g.ok = true)
    (h1 : R.CAIRN_CNT_LOST_N.apart g = true) (h2 : (R.PG_IRQ_RAW_BIT pCAIRN 1).apart g = true) :
    regFld (s.recordOpen p).regs g = regFld s.regs g := regFld_occur_apart s _ h hg h1 h2

/-- A fence leaves every field apart from ACTIVE and CAUSE of its page and the two that a loss changes. -/
theorem regFld_fence_apart (s : State) (p u c d : Nat) {g : Fld} (h : regsOk s.regs = true) (hg : g.ok = true)
    (h1 : R.CAIRN_CNT_LOST_N.apart g = true) (h2 : (R.PG_IRQ_RAW_BIT pCAIRN 1).apart g = true)
    (ha : (R.PG_FENCE_ACTIVE p).apart g = true) (hc : (R.PG_FENCE_CAUSE p).apart g = true) :
    regFld (s.fence p u c d).regs g = regFld s.regs g := by
  unfold State.fence
  split
  · exact regFld_occur_apart _ _ h hg h1 h2
  · simp only []
    split
    · exact regFld_occur_apart { s with fences := s.fences ++ [Fence.mk p u c] } _ h hg h1 h2
    · refine (regFld_occur_apart _ _ (regsOk_regPut _ _ (regsOk_regPut _ _ h)) hg h1 h2).trans ?_
      refine (regFld_regPut_other (f := R.PG_FENCE_CAUSE p) c (regsOk_regPut _ _ h) rfl hg hc).trans ?_
      exact regFld_regPut_other (f := R.PG_FENCE_ACTIVE p) 1 h rfl hg ha

/-- A state is known by its parts. -/
theorem State.eq_parts {t : State} {x_variant} {x_regs} {x_latches} {x_fences} {x_returning} {x_free} {x_out} {x_mem} {x_pins} {x_ptp} {x_commit} {x_party} {x_gov} {x_netA} {x_netB} {x_ingest} {x_storeCtl} {x_reservations} {x_codeWrites} {x_strands} {x_abortSeen} {x_presentedSlot} {x_rails} {x_telem} {x_railOverlap} {x_meter} {x_belay} {x_posts} {x_harts} {x_sched} {x_router} {x_wdt} {x_lcp} {x_hspi} {x_uart} {x_side} {x_airtime} {x_anchor} {x_upd} {x_rst} {x_clk} {x_pwr} {x_rtc} {x_occQueue} {x_occDropped} {x_cairn} {x_pending}
    (h_variant : t.variant = x_variant) (h_regs : t.regs = x_regs) (h_latches : t.latches = x_latches) (h_fences : t.fences = x_fences) (h_returning : t.returning = x_returning) (h_free : t.free = x_free) (h_out : t.out = x_out) (h_mem : t.mem = x_mem) (h_pins : t.pins = x_pins) (h_ptp : t.ptp = x_ptp) (h_commit : t.commit = x_commit) (h_party : t.party = x_party) (h_gov : t.gov = x_gov) (h_netA : t.netA = x_netA) (h_netB : t.netB = x_netB) (h_ingest : t.ingest = x_ingest) (h_storeCtl : t.storeCtl = x_storeCtl) (h_reservations : t.reservations = x_reservations) (h_codeWrites : t.codeWrites = x_codeWrites) (h_strands : t.strands = x_strands) (h_abortSeen : t.abortSeen = x_abortSeen) (h_presentedSlot : t.presentedSlot = x_presentedSlot) (h_rails : t.rails = x_rails) (h_telem : t.telem = x_telem) (h_railOverlap : t.railOverlap = x_railOverlap) (h_meter : t.meter = x_meter) (h_belay : t.belay = x_belay) (h_posts : t.posts = x_posts) (h_harts : t.harts = x_harts) (h_sched : t.sched = x_sched) (h_router : t.router = x_router) (h_wdt : t.wdt = x_wdt) (h_lcp : t.lcp = x_lcp) (h_hspi : t.hspi = x_hspi) (h_uart : t.uart = x_uart) (h_side : t.side = x_side) (h_airtime : t.airtime = x_airtime) (h_anchor : t.anchor = x_anchor) (h_upd : t.upd = x_upd) (h_rst : t.rst = x_rst) (h_clk : t.clk = x_clk) (h_pwr : t.pwr = x_pwr) (h_rtc : t.rtc = x_rtc) (h_occQueue : t.occQueue = x_occQueue) (h_occDropped : t.occDropped = x_occDropped) (h_cairn : t.cairn = x_cairn) (h_pending : t.pending = x_pending) :
    t = State.mk x_variant x_regs x_latches x_fences x_returning x_free x_out x_mem x_pins x_ptp x_commit x_party x_gov x_netA x_netB x_ingest x_storeCtl x_reservations x_codeWrites x_strands x_abortSeen x_presentedSlot x_rails x_telem x_railOverlap x_meter x_belay x_posts x_harts x_sched x_router x_wdt x_lcp x_hspi x_uart x_side x_airtime x_anchor x_upd x_rst x_clk x_pwr x_rtc x_occQueue x_occDropped x_cairn x_pending := by
  subst_vars
  rfl

end Sys2Proof.Machine
end

