-- ==== Sys2Proof/Laws/Away.lean ====
section
/-! SUPPORT. What an operation stays away from: the registers of the pages `K` names, and the memories `M` names. The
lemmas of the operations stand in Laws/Away*.lean, one for each, with the pages and memories each may touch. -/
set_option linter.all false
set_option Elab.async false
namespace Sys2Proof.Machine

/-- From `b` to `t` the registers of the pages `K` and the memories `M` are as they were; for registers this is claimed
where the register file of `b` is in canonical form, and that of `t` then is. -/
def Away (K : Nat → Prop) (M : Part → Prop) (b t : State) : Prop :=
  (regsOk b.regs = true → regsOk t.regs = true ∧ ∀ q o, K q → regWord t.regs q o = regWord b.regs q o) ∧
    ∀ p, M p → t.mem.part p = b.mem.part p

/-- `Away` of a state given by its register file and memories. -/
def Away2 (K : Nat → Prop) (M : Part → Prop) (b : State) (r : List (Nat × Word)) (m : Mems) : Prop :=
  (regsOk b.regs = true → regsOk r = true ∧ ∀ q o, K q → regWord r q o = regWord b.regs q o) ∧
    ∀ p, M p → m.part p = b.mem.part p

/-- A next state, if the outcome is one, stayed away. -/
def ResAway (K : Nat → Prop) (M : Part → Prop) (b : State) (r : Res) : Prop := ∀ t, r = .next t → Away K M b t

/-- An outcome there may be stayed away. -/
def OptAway (K : Nat → Prop) (M : Part → Prop) (b : State) (o : Option Res) : Prop := ∀ r, o = some r → ResAway K M b r

theorem Away.refl {K : Nat → Prop} {M : Part → Prop} (b : State) : Away K M b b :=
  ⟨fun h => ⟨h, fun _ _ _ => rfl⟩, fun _ _ => rfl⟩

/-- Fewer pages touched. -/
theorem Away.pages {K : Nat → Prop} {L L' : List Nat} (h : ∀ n ∈ L, ¬K n) (hs : ∀ n ∈ L', n ∈ L) : ∀ n ∈ L', ¬K n :=
  fun n hn => h n (hs n hn)

theorem Away.all {K : Nat → Prop} {L' : List Nat} (h : ∀ n, ¬K n) : ∀ n ∈ L', ¬K n := fun n _ => h n

/-- A page of the strand groups. -/
theorem Away.str {K : Nat → Prop} {L : List Nat} (h : ∀ n ∈ L, ¬K n) (hs : ∀ n ∈ [0x28, 0x29, 0x2A, 0x2B], n ∈ L) (g : Nat) :
    ∀ n ∈ [0x28 + g % 4], ¬K n := by
  intro n hn
  have e := List.mem_singleton.mp hn
  refine h n (hs n ?_)
  simp only [List.mem_cons, List.not_mem_nil, or_false]
  omega

/-- A page of the ports. -/
theorem Away.net {K : Nat → Prop} {L : List Nat} (h : ∀ n ∈ L, ¬K n) (hs : ∀ n ∈ [0x10, 0x11], n ∈ L) (x : Nat) :
    ∀ n ∈ [0x10 + x % 2], ¬K n := by
  intro n hn
  have e := List.mem_singleton.mp hn
  refine h n (hs n ?_)
  simp only [List.mem_cons, List.not_mem_nil, or_false]
  omega

theorem Away.port {K : Nat → Prop} {L : List Nat} (h : ∀ n ∈ L, ¬K n) (hs : ∀ n ∈ [0x10, 0x11], n ∈ L) (p : Port) :
    ∀ n ∈ [pNET p], ¬K n := by
  intro n hn
  have e := List.mem_singleton.mp hn
  refine h n (hs n ?_)
  cases p <;> simp [e, pNET]

/-- A page of the I2C buses. -/
theorem Away.bus {K : Nat → Prop} {L : List Nat} (h : ∀ n ∈ L, ¬K n) (hs : ∀ n ∈ [0x4A, 0x4B], n ∈ L) (x : Nat) :
    ∀ n ∈ [0x4A + x % 2], ¬K n := by
  intro n hn
  have e := List.mem_singleton.mp hn
  refine h n (hs n ?_)
  simp only [List.mem_cons, List.not_mem_nil, or_false]
  omega

/-- One page, then the others. -/
theorem Away.cons {K : Nat → Prop} {a : Nat} {l : List Nat} (h : ∀ n ∈ [a], ¬K n) (k : ∀ n ∈ l, ¬K n) :
    ∀ n ∈ a :: l, ¬K n := by
  intro n hn
  cases hn with
  | head => exact h a List.mem_cons_self
  | tail _ hn => exact k n hn

/-- The pages of fields to set. -/
theorem Away.flds {K : Nat → Prop} {l : List (Fld × Nat)} (h : ∀ n ∈ l.map (fun e => e.1.page), ¬K n) :
    ∀ e ∈ l, ¬K e.1.page := fun e he => h _ (List.mem_map_of_mem he)

/-- The pages of fields to load. -/
theorem Away.loads {K : Nat → Prop} {l : List (Nat × Fld)} (h : ∀ n ∈ l.map (fun e => e.2.page), ¬K n) :
    ∀ e ∈ l, ¬K e.2.page := fun e he => h _ (List.mem_map_of_mem he)

/-- The pages of fields to clear. -/
theorem Away.clrs {K : Nat → Prop} {L : List Nat} {l : List Fld} (h : ∀ n ∈ L, ¬K n) (hs : ∀ f ∈ l, f.page ∈ L) :
    ∀ f ∈ l, ¬K f.page := fun f hf => h _ (hs f hf)

/-- Fewer memories touched. -/
theorem Away.parts {M : Part → Prop} {L L' : List Part} (h : ∀ p ∈ L, ¬M p) (hs : ∀ p ∈ L', p ∈ L) : ∀ p ∈ L', ¬M p :=
  fun p hp => h p (hs p hp)

theorem Away.mk_iff {K : Nat → Prop} {M : Part → Prop} {b : State} {v : Variant} {r : List (Nat × Word)} {x2 : List (Nat × Word)} {x3 : List Fence} {x4 : List (Nat × Nat)} {x5 :
    Nat} {x6 : List Output} {m : Mems} {x8 : Pins} {x9 : PtpS} {x10 : CommitS} {x11 : PartyS} {x12 : GovS} {x13 :
    PortS} {x14 : PortS} {x15 : IngestS} {x16 : StoreCtl} {x17 : List (Nat × Reservation)} {x17b : List CodeWrite} {x18 : List StrandS}
    {x19 : Bool} {x20 : Option Nat} {x21 : List RailS} {x22 : TelemS} {x23 : Bool} {x24 : MeterS} {x25 : BelayS}
    {x26 : List Nat} {x27 : List HartS} {x28 : SchedS} {x29 : IrqS} {x30 : WdtS} {x31 : LcpS} {x32 : HspiS} {x33 :
    UartS} {x34 : SideS} {x35 : List (Nat × Nat × Nat)} {x36 : AnchorS} {x37 : UpdS} {x38 : RstS} {x39 : ClkS}
    {x40 : PwrS} {x41 : RtcS} {x42 : List Occurrence} {x43 : Nat} {x44 : CairnS} {p : List Instr} :
    Away K M b (State.mk v r x2 x3 x4 x5 x6 m x8 x9 x10 x11 x12 x13 x14 x15 x16 x17 x17b x18 x19 x20 x21 x22 x23 x24 x25 x26 x27
    x28 x29 x30 x31 x32 x33 x34 x35 x36 x37 x38 x39 x40 x41 x42 x43 x44 p) = Away2 K M b r m := rfl

theorem Away.four {K : Nat → Prop} {M : Part → Prop} {b t : State} (h : Away K M b t) : Away2 K M b t.regs t.mem := h

theorem Away.fourMem {K : Nat → Prop} {M : Part → Prop} {b t : State} {m : Mems} (h : Away K M b t)
    (hm : ∀ p, M p → m.part p = t.mem.part p) : Away2 K M b t.regs m :=
  ⟨h.1, fun p hp => (hm p hp).trans (h.2 p hp)⟩

/-- A change of all registers. -/
theorem Away.fourRegs {K : Nat → Prop} {M : Part → Prop} {b t : State} {r : List (Nat × Word)} (h : Away K M b t)
    (hK : ∀ n, ¬K n) (hr : regsOk t.regs = true → regsOk r = true) : Away2 K M b r t.mem :=
  ⟨fun x => ⟨hr (h.1 x).1, fun q _ hq => absurd hq (hK q)⟩, h.2⟩

theorem Away.ite {K : Nat → Prop} {M : Part → Prop} {b t u : State} {c : Prop} [Decidable c] (ht : c → Away K M b t)
    (hu : ¬c → Away K M b u) : Away K M b (if c then t else u) := by
  split
  · exact ht ‹_›
  · exact hu ‹_›

theorem ResAway.ite {K : Nat → Prop} {M : Part → Prop} {b : State} {t u : Res} {c : Prop} [Decidable c]
    (ht : c → ResAway K M b t) (hu : ¬c → ResAway K M b u) : ResAway K M b (if c then t else u) := by
  split
  · exact ht ‹_›
  · exact hu ‹_›

theorem OptAway.ite {K : Nat → Prop} {M : Part → Prop} {b : State} {t u : Option Res} {c : Prop} [Decidable c]
    (ht : c → OptAway K M b t) (hu : ¬c → OptAway K M b u) : OptAway K M b (if c then t else u) := by
  split
  · exact ht ‹_›
  · exact hu ‹_›

theorem Away.foldl {α : Type} {K : Nat → Prop} {M : Part → Prop} {b : State} (f : State → α → State)
    (h : ∀ t a, Away K M b t → Away K M b (f t a)) :
    ∀ (l : List α) (t : State), Away K M b t → Away K M b (l.foldl f t)
  | [], _, k => k
  | a :: l, t, k => Away.foldl f h l (f t a) (h t a k)

theorem Away.foldr {α : Type} {K : Nat → Prop} {M : Part → Prop} {b : State} (f : α → State → State)
    (h : ∀ a t, Away K M b t → Away K M b (f a t)) :
    ∀ (l : List α) (t : State), Away K M b t → Away K M b (l.foldr f t)
  | [], _, k => k
  | a :: l, t, k => h a (l.foldr f t) (Away.foldr f h l t k)

/-- A fold whose state is the first part of what it carries. -/
theorem Away.foldlFst {α β : Type} {K : Nat → Prop} {M : Part → Prop} {b : State} (f : State × β → α → State × β)
    (h : ∀ t a, Away K M b t.1 → Away K M b (f t a).1) :
    ∀ (l : List α) (t : State × β), Away K M b t.1 → Away K M b (l.foldl f t).1
  | [], _, k => k
  | a :: l, t, k => Away.foldlFst f h l (f t a) (h t a k)

theorem ResAway.next {K : Nat → Prop} {M : Part → Prop} {b t : State} (h : Away K M b t) : ResAway K M b (.next t) :=
  fun u e => by
    cases e
    exact h

theorem ResAway.fault {K : Nat → Prop} {M : Part → Prop} {b : State} (f : Fault) : ResAway K M b (.fault f) :=
  fun u e => by cases e

theorem ResAway.refused {K : Nat → Prop} {M : Part → Prop} {b : State} (f : Refusal) : ResAway K M b (.refused f) :=
  fun u e => by cases e

theorem OptAway.some {K : Nat → Prop} {M : Part → Prop} {b : State} {r : Res} (h : ResAway K M b r) :
    OptAway K M b (some r) := fun u e => by
  cases e
  exact h

theorem OptAway.none {K : Nat → Prop} {M : Part → Prop} {b : State} : OptAway K M b none := fun u e => by cases e

theorem OptAway.orElse {K : Nat → Prop} {M : Part → Prop} {b : State} {o : Option Res} {f : Unit → Option Res}
    (h : OptAway K M b o) (k : OptAway K M b (f ())) : OptAway K M b (o.orElse f) := by
  cases o with
  | none => exact k
  | some r => exact h

/-! ## The elementary updates -/

theorem State.setReg_away {K : Nat → Prop} {M : Part → Prop} {base : State} (s : State) (page off : Nat) (w : Word)
    (hK : ∀ n ∈ [page], ¬K n) (hk : Away K M base s) : Away K M base (s.setReg page off w) :=
  ⟨fun x => ⟨regsOk_wordPut _ _ _ (hk.1 x).1, fun q o hq => by
    have hne : q ≠ page := by
      intro e
      subst e
      exact hK q (List.mem_singleton.mpr rfl) hq
    rw [regs_setReg, regWord_wordPut_ne w (hk.1 x).1 (regKey_page hne)]
    exact (hk.1 x).2 q o hq⟩, hk.2⟩

theorem State.clearPage_away {K : Nat → Prop} {M : Part → Prop} {base : State} (s : State) (page : Nat)
    (hK : ∀ n ∈ [page], ¬K n) (hk : Away K M base s) : Away K M base (s.clearPage page) := by
  have hn : ¬K page := hK page (List.mem_singleton.mpr rfl)
  refine ⟨fun x => ⟨mapWf_filter regReset _ _ (hk.1 x).1, fun q o hq => ?_⟩, hk.2⟩
  refine (mapGet_filter_kept regReset _ s.regs (regKey q o) (hk.1 x).1 ?_).trans ((hk.1 x).2 q o hq)
  intro v
  have hne : q ≠ page := fun e => hn (e ▸ hq)
  have : regKey q o / 0x1000 = q := by
    unfold regKey
    omega
  simp [this, hne]

end Sys2Proof.Machine
end

