-- ==== Sys2Proof/Laws/AwayOps.lean ====
section
/-! SUPPORT. What the operations of Machine/Ops.lean stay away from (Laws/Away.lean). -/
set_option linter.all false
set_option Elab.async false

namespace Sys2Proof.Machine

theorem State.setFld_away {K : Nat → Prop} {M : Part → Prop} {base : State} (s : State) (f : Fld) (v : Nat)
    (hK : ∀ n ∈ [f.page], ¬K n) (hk : Away K M base s) : Away K M base (s.setFld f v) :=
  State.setReg_away s _ _ _ hK hk

theorem State.setFlag_away {K : Nat → Prop} {M : Part → Prop} {base : State} (s : State) (f : Fld) (c : Bool)
    (hK : ∀ n ∈ [f.page], ¬K n) (hk : Away K M base s) : Away K M base (s.setFlag f c) :=
  State.setFld_away s f _ hK hk

theorem State.setBit_away {K : Nat → Prop} {M : Part → Prop} {base : State} (s : State) (f : Fld) (k : Nat) (c : Bool)
    (hK : ∀ n ∈ [f.page], ¬K n) (hk : Away K M base s) : Away K M base (s.setBit f k c) :=
  State.setFld_away s f _ hK hk

theorem State.add_away {K : Nat → Prop} {M : Part → Prop} {base : State} (s : State) (f : Fld) (n : Nat)
    (hK : ∀ n ∈ [f.page], ¬K n) (hk : Away K M base s) : Away K M base (s.add f n) :=
  State.setFld_away s f _ hK hk

theorem State.inc_away {K : Nat → Prop} {M : Part → Prop} {base : State} (s : State) (f : Fld)
    (hK : ∀ n ∈ [f.page], ¬K n) (hk : Away K M base s) : Away K M base (s.inc f) :=
  State.setFld_away s f _ hK hk

theorem State.satInc_away {K : Nat → Prop} {M : Part → Prop} {base : State} (s : State) (f : Fld)
    (hK : ∀ n ∈ [f.page], ¬K n) (hk : Away K M base s) : Away K M base (s.satInc f) :=
  State.setFld_away s f _ hK hk

theorem State.maxFld_away {K : Nat → Prop} {M : Part → Prop} {base : State} (s : State) (f : Fld) (v : Nat)
    (hK : ∀ n ∈ [f.page], ¬K n) (hk : Away K M base s) : Away K M base (s.maxFld f v) :=
  State.setFld_away s f _ hK hk

theorem State.setFlds_away {K : Nat → Prop} {M : Part → Prop} {base : State} :
    ∀ (l : List (Fld × Nat)) (s : State), (∀ e ∈ l, ¬K e.1.page) → Away K M base s → Away K M base (s.setFlds l)
  | [], _, _, hk => hk
  | (f, v) :: t, s, hK, hk =>
    State.setFlds_away t (s.setFld f v) (fun e he => hK e (List.mem_cons_of_mem _ he))
      (State.setFld_away s f v (fun n hn => List.mem_singleton.mp hn ▸ hK (f, v) List.mem_cons_self) hk)

theorem State.clearFlds_away {K : Nat → Prop} {M : Part → Prop} {base : State} :
    ∀ (l : List Fld) (s : State), (∀ f ∈ l, ¬K f.page) → Away K M base s → Away K M base (s.clearFlds l)
  | [], _, _, hk => hk
  | f :: t, s, hK, hk =>
    State.clearFlds_away t (s.setFld f 0) (fun e he => hK e (List.mem_cons_of_mem _ he))
      (State.setFld_away s f 0 (fun n hn => List.mem_singleton.mp hn ▸ hK f List.mem_cons_self) hk)

theorem State.setFrame_away {K : Nat → Prop} {M : Part → Prop} {base : State} (s : State) (lo hi : Fld) (n : Nat)
    (hK : ∀ n ∈ [lo.page], ¬K n) (hK2 : ∀ n ∈ [hi.page], ¬K n) (hk : Away K M base s) :
    Away K M base (s.setFrame lo hi n) :=
  State.setFld_away _ hi _ hK2 (State.setFld_away s lo _ hK hk)

theorem State.emit_away {K : Nat → Prop} {M : Part → Prop} {base : State} (s : State) (o : Output) (hk : Away K M base s) :
    Away K M base (State.emit s o) := by
  unfold State.emit
  try dsimp only
  repeat' (first
    | with_reducible assumption | with_reducible apply Away.four | simp only [Away.mk_iff] | split | intro _)

theorem State.begin_away {K : Nat → Prop} {M : Part → Prop} {base : State} (s : State) (hk : Away K M base s) :
    Away K M base (State.begin s) := by
  unfold State.begin
  try dsimp only
  repeat' (first
    | with_reducible assumption | with_reducible apply Away.four | simp only [Away.mk_iff] | split | intro _)

theorem State.drawn_away {K : Nat → Prop} {M : Part → Prop} {base : State} (s : State) (hk : Away K M base s) :
    Away K M base (State.drawn s) := by
  unfold State.drawn
  try dsimp only
  repeat' (first
    | with_reducible assumption | with_reducible apply Away.four | simp only [Away.mk_iff] | split | intro _)

theorem State.noteEdge_away {K : Nat → Prop} {M : Part → Prop} {base : State} (s : State) (line : Nat) (was : Bool) (hk : Away K M base s) :
    Away K M base (State.noteEdge s line was) := by
  unfold State.noteEdge
  try dsimp only
  repeat' (first
    | with_reducible assumption | with_reducible apply Away.ite | with_reducible apply Away.four
    | simp only [Away.mk_iff] | split | intro _)

theorem State.irq_away {K : Nat → Prop} {M : Part → Prop} {base : State} (s : State) (page k : Nat) (hK : ∀ n ∈ [page], ¬K n) (hk : Away K M base s) :
    Away K M base (State.irq s page k) := by
  unfold State.irq
  repeat' (first
    | with_reducible assumption | with_reducible apply State.setFld_away | with_reducible apply State.noteEdge_away
    | with_reducible apply Away.ite | simp only [Away.mk_iff] | (refine Away.pages hK ?_; decide)
    | (refine Away.pages hK ?_; simp [R.PG_IRQ_RAW_BIT]; done) | split | intro _)

theorem State.cairnLoss_away {K : Nat → Prop} {M : Part → Prop} {base : State} (s : State) (hK : ∀ n ∈ [0x06], ¬K n) (hk : Away K M base s) :
    Away K M base (State.cairnLoss s) := by
  unfold State.cairnLoss
  try dsimp only
  repeat' (first
    | with_reducible assumption | with_reducible apply State.inc_away | with_reducible apply State.irq_away
    | with_reducible apply Away.four | simp only [Away.mk_iff] | (refine Away.pages hK ?_; decide)
    | (refine Away.pages hK ?_; simp; done) | split | intro _)

theorem State.occur_away {K : Nat → Prop} {M : Part → Prop} {base : State} (s : State) (o : Occurrence) (hK : ∀ n ∈ [0x06], ¬K n) (hk : Away K M base s) :
    Away K M base (State.occur s o) := by
  unfold State.occur
  try dsimp only
  repeat' (first
    | with_reducible assumption | with_reducible apply State.cairnLoss_away | with_reducible apply Away.ite
    | with_reducible apply Away.four | simp only [Away.mk_iff] | (refine Away.pages hK ?_; decide)
    | (refine Away.pages hK ?_; simp; done) | split | intro _)

theorem State.record_away {K : Nat → Prop} {M : Part → Prop} {base : State} (s : State) (page k unit detail : Nat) (hK : ∀ n ∈ [0x06], ¬K n) (hk : Away K M base s) :
    Away K M base (State.record s page k unit detail) := by
  unfold State.record
  repeat' (first
    | with_reducible assumption | with_reducible apply State.occur_away | simp only [Away.mk_iff]
    | (refine Away.pages hK ?_; decide) | (refine Away.pages hK ?_; simp; done) | split | intro _)

theorem State.event_away {K : Nat → Prop} {M : Part → Prop} {base : State} (s : State) (page k unit detail : Nat) (hK : ∀ n ∈ [0x06, page], ¬K n) (hk : Away K M base s) :
    Away K M base (State.event s page k unit detail) := by
  have hKc : ∀ n ∈ [0x06], ¬K n := Away.pages hK (by
    intro n hn; simp only [List.mem_cons, List.not_mem_nil, or_false] at hn ⊢; omega)
  unfold State.event
  repeat' (first
    | with_reducible assumption | with_reducible apply State.irq_away | with_reducible apply State.record_away
    | simp only [Away.mk_iff] | (refine Away.pages hKc ?_; decide) | refine Away.cons (a := _) (l := _ :: _) ?_ ?_
    | (refine Away.pages hK ?_; simp; done) | split | intro _)

theorem State.recordOpen_away {K : Nat → Prop} {M : Part → Prop} {base : State} (s : State) (page : Nat) (hK : ∀ n ∈ [0x06], ¬K n) (hk : Away K M base s) :
    Away K M base (State.recordOpen s page) := by
  unfold State.recordOpen
  repeat' (first
    | with_reducible assumption | with_reducible apply State.occur_away | with_reducible apply State.drawn_away
    | simp only [Away.mk_iff] | (refine Away.pages hK ?_; decide) | (refine Away.pages hK ?_; simp; done) | split
    | intro _)

theorem State.fence_away {K : Nat → Prop} {M : Part → Prop} {base : State} (s : State) (page unit cause detail : Nat) (hK : ∀ n ∈ [0x06, page], ¬K n) (hk : Away K M base s) :
    Away K M base (State.fence s page unit cause detail) := by
  have hKc : ∀ n ∈ [0x06], ¬K n := Away.pages hK (by
    intro n hn; simp only [List.mem_cons, List.not_mem_nil, or_false] at hn ⊢; omega)
  unfold State.fence
  try dsimp only
  repeat' (first
    | with_reducible assumption | with_reducible apply State.occur_away | with_reducible apply State.setFld_away
    | with_reducible apply Away.ite | with_reducible apply Away.four | simp only [Away.mk_iff]
    | (refine Away.pages hKc ?_; decide) | refine Away.cons (a := _) (l := _ :: _) ?_ ?_
    | (refine Away.pages hK ?_; simp [R.PG_FENCE_ACTIVE, R.PG_FENCE_CAUSE]; done) | split | intro _)

theorem State.fenceBlock_away {K : Nat → Prop} {M : Part → Prop} {base : State} (s : State) (page cause : Nat) (hK : ∀ n ∈ [0x06, page], ¬K n) (hk : Away K M base s) :
    Away K M base (State.fenceBlock s page cause) := by
  have hKc : ∀ n ∈ [0x06], ¬K n := Away.pages hK (by
    intro n hn; simp only [List.mem_cons, List.not_mem_nil, or_false] at hn ⊢; omega)
  unfold State.fenceBlock
  repeat' (first
    | with_reducible assumption | with_reducible apply State.fence_away | simp only [Away.mk_iff]
    | (refine Away.pages hKc ?_; decide) | refine Away.cons (a := _) (l := _ :: _) ?_ ?_
    | (refine Away.pages hK ?_; simp; done) | split | intro _)

theorem State.releaseFences_away {K : Nat → Prop} {M : Part → Prop} {base : State} (s : State) (page : Nat) (gone : Fence → Bool) (hK : ∀ n ∈ [page], ¬K n) (hk : Away K M base s) :
    Away K M base (State.releaseFences s page gone) := by
  unfold State.releaseFences
  try dsimp only
  repeat' (first
    | with_reducible assumption | with_reducible apply State.setFld_away | with_reducible apply Away.ite
    | with_reducible apply Away.four | simp only [Away.mk_iff] | (refine Away.pages hK ?_; decide)
    | (refine Away.pages hK ?_; simp [R.PG_FENCE_ACTIVE, R.PG_FENCE_CAUSE]; done) | split | intro _)

theorem State.wroteCode_away {K : Nat → Prop} {M : Part → Prop} {base : State} (s : State) (a n : Nat) (hk : Away K M base s) :
    Away K M base (State.wroteCode s a n) := by
  unfold State.wroteCode
  try dsimp only
  repeat' (first
    | with_reducible assumption | with_reducible apply Away.ite | with_reducible apply Away.four
    | simp only [Away.mk_iff] | split | intro _)

theorem State.fenceI_away {K : Nat → Prop} {M : Part → Prop} {base : State} (s : State) (h : Nat) (hk : Away K M base s) :
    Away K M base (State.fenceI s h) := by
  unfold State.fenceI
  try dsimp only
  repeat' (first
    | with_reducible assumption | with_reducible apply Away.four | simp only [Away.mk_iff] | split | intro _)

theorem State.breakReservations_away {K : Nat → Prop} {M : Part → Prop} {base : State} (s : State) (h : Option Nat) (a n : Nat) (hk : Away K M base s) :
    Away K M base (State.breakReservations s h a n) := by
  unfold State.breakReservations
  try dsimp only
  repeat' (first
    | with_reducible assumption | with_reducible apply Away.four | simp only [Away.mk_iff] | split | intro _)

theorem State.sramWrite_away {K : Nat → Prop} {M : Part → Prop} {base : State} (s : State) (h : Option Nat) (a : Nat) (bs : List Byte) (hM : ∀ p ∈ [.sram], ¬M p) (hk : Away K M base s) :
    Away K M base (State.sramWrite s h a bs) := by
  unfold State.sramWrite
  try dsimp only
  repeat' (first
    | with_reducible assumption | with_reducible apply State.breakReservations_away
    | with_reducible apply State.wroteCode_away | with_reducible apply Away.ite | with_reducible apply Away.foldl
    | with_reducible apply Away.foldlFst | with_reducible apply Away.four | with_reducible apply Away.fourMem
    | simp only [Away.mk_iff]
    | (intro (p : Part) hp; cases p <;> first | exact absurd hp (hM _ (by decide)) | (simp only [Mems.part, State.drawn_mem]; done))
    | (refine Away.parts hM ?_; decide) | split | intro _)

theorem State.atTime_away {K : Nat → Prop} {M : Part → Prop} {base : State} (s : State) (ns : Nat) (hk : Away K M base s) :
    Away K M base (State.atTime s ns) := by
  unfold State.atTime
  try dsimp only
  repeat' (first
    | with_reducible assumption | with_reducible apply Away.ite | with_reducible apply Away.four
    | simp only [Away.mk_iff] | split | intro _)

end Sys2Proof.Machine
end

