-- ==== Sys2Proof/Laws/AwayAccess.lean ====
section
/-! SUPPORT. What the operations of Machine/Access.lean stay away from (Laws/Away.lean). -/
set_option linter.all false
set_option Elab.async false

namespace Sys2Proof.Machine

theorem State.disarm_away {K : Nat → Prop} {M : Part → Prop} {base : State} (s : State) (page : Nat) (hK : ∀ n ∈ [page], ¬K n) (hk : Away K M base s) :
    Away K M base (State.disarm s page) := by
  unfold State.disarm
  try dsimp only
  repeat' (first
    | with_reducible assumption | with_reducible apply State.setFld_away | with_reducible apply Away.ite
    | with_reducible apply Away.four | simp only [Away.mk_iff] | (refine Away.pages hK ?_; decide)
    | (refine Away.pages hK ?_; simp [R.PG_LOCK_ARMED]; done) | split | intro _)

theorem State.asWrite_away {K : Nat → Prop} {M : Part → Prop} {base : State} (s : State) (m : Master) (page right : Nat) (k : State → Res) (hK : ∀ n ∈ [page], ¬K n) (hk : Away K M base s)
    (hk : ∀ (x0 : State), Away K M base x0 → ResAway K M base (k x0)) :
    ResAway K M base (State.asWrite s m page right k) := by
  unfold State.asWrite
  repeat' (first
    | with_reducible assumption | with_reducible apply hk | with_reducible apply State.disarm_away
    | with_reducible apply State.emit_away | with_reducible apply Away.ite | with_reducible apply ResAway.ite
    | with_reducible apply ResAway.next | with_reducible apply ResAway.refused | simp only [Away.mk_iff]
    | (refine Away.pages hK ?_; decide) | (refine Away.pages hK ?_; simp; done) | split | intro _)

theorem State.asArmed_away {K : Nat → Prop} {M : Part → Prop} {base : State} (s : State) (m : Master) (page right : Nat) (k : State → Res) (hK : ∀ n ∈ [page], ¬K n) (hk : Away K M base s)
    (hk : ∀ (x0 : State), Away K M base x0 → ResAway K M base (k x0)) :
    ResAway K M base (State.asArmed s m page right k) := by
  unfold State.asArmed
  try dsimp only
  repeat' (first
    | with_reducible assumption | with_reducible apply hk | with_reducible apply State.asWrite_away
    | with_reducible apply Away.ite | with_reducible apply ResAway.ite | with_reducible apply ResAway.next
    | simp only [Away.mk_iff] | (refine Away.pages hK ?_; decide) | (refine Away.pages hK ?_; simp; done) | split
    | intro _)

theorem State.dropLead_away {K : Nat → Prop} {M : Part → Prop} {base : State} (s : State) (cause : Nat) (hK : ∀ n ∈ [0x38], ¬K n) (hk : Away K M base s) :
    Away K M base (State.dropLead s cause) := by
  unfold State.dropLead
  try dsimp only
  repeat' (first
    | with_reducible assumption | with_reducible apply State.irq_away | with_reducible apply Away.ite
    | with_reducible apply Away.four | with_reducible apply State.setFlds_away | with_reducible apply Away.flds
    | with_reducible apply State.setFld_away | simp only [List.map_cons, List.map_nil] | simp only [Away.mk_iff]
    | (refine Away.pages hK ?_; decide) | (refine Away.pages hK ?_; simp; done) | split | intro _)

end Sys2Proof.Machine
end

