-- ==== Sys2Proof/Laws/AwayStore.lean ====
section
/-! SUPPORT. What the operations of Machine/Store.lean stay away from (Laws/Away.lean). -/
set_option linter.all false
set_option Elab.async false

namespace Sys2Proof.Machine

theorem State.coreTrap_away {K : Nat → Prop} {M : Part → Prop} {base : State} (s : State) (h cause tval : Nat) (hk : Away K M base s) :
    Away K M base (State.coreTrap s h cause tval) := by
  unfold State.coreTrap
  try dsimp only
  repeat' (first
    | with_reducible assumption | with_reducible apply State.emit_away | with_reducible apply Away.four
    | simp only [Away.mk_iff] | split | intro _)

theorem State.endStalled_away {K : Nat → Prop} {M : Part → Prop} {base : State} (s : State) (hk : Away K M base s) :
    Away K M base (State.endStalled s) := by
  unfold State.endStalled
  try dsimp only
  repeat' (first
    | with_reducible assumption | with_reducible apply State.coreTrap_away | with_reducible apply Away.foldl
    | with_reducible apply Away.foldlFst | with_reducible apply Away.four | simp only [Away.mk_iff] | split
    | intro _)

theorem State.makeUnusable_away {K : Nat → Prop} {M : Part → Prop} {base : State} (s : State) (cause : Nat) (hK : ∀ n ∈ [0x06, 0x18, 0x38], ¬K n) (hk : Away K M base s) :
    Away K M base (State.makeUnusable s cause) := by
  unfold State.makeUnusable
  try dsimp only
  repeat' (first
    | with_reducible assumption | with_reducible apply State.fenceBlock_away
    | with_reducible apply State.dropLead_away | with_reducible apply State.endStalled_away
    | with_reducible apply Away.ite | with_reducible apply Away.four | simp only [Away.mk_iff]
    | (refine Away.pages hK ?_; decide) | (refine Away.pages hK ?_; simp; done) | split | intro _)

theorem State.startRepair_away {K : Nat → Prop} {M : Part → Prop} {base : State} (s : State) (granule : Nat) (hK : ∀ n ∈ [0x06, 0x18, 0x38], ¬K n) (hk : Away K M base s) :
    Away K M base (State.startRepair s granule) := by
  unfold State.startRepair
  try dsimp only
  repeat' (first
    | with_reducible assumption | with_reducible apply State.makeUnusable_away | with_reducible apply Away.ite
    | with_reducible apply Away.four | simp only [Away.mk_iff] | (refine Away.pages hK ?_; decide)
    | (refine Away.pages hK ?_; simp; done) | split | intro _)

theorem State.recordUe_away {K : Nat → Prop} {M : Part → Prop} {base : State} (s : State) (a region master : Nat) (hK : ∀ n ∈ [0x06, 0x18], ¬K n) (hk : Away K M base s) :
    Away K M base (State.recordUe s a region master) := by
  unfold State.recordUe
  repeat' (first
    | with_reducible assumption | with_reducible apply State.inc_away | with_reducible apply State.event_away
    | with_reducible apply State.setFlds_away | with_reducible apply Away.flds
    | with_reducible apply State.setFld_away | simp only [List.map_cons, List.map_nil] | simp only [Away.mk_iff]
    | (refine Away.pages hK ?_; decide) | (refine Away.pages hK ?_; simp; done) | split | intro _)

theorem State.logStoreUe_away {K : Nat → Prop} {M : Part → Prop} {base : State} (s : State) (a master : Nat) (hK : ∀ n ∈ [0x06, 0x18, 0x38], ¬K n) (hk : Away K M base s) :
    Away K M base (State.logStoreUe s a master) := by
  unfold State.logStoreUe
  try dsimp only
  repeat' (first
    | with_reducible assumption | with_reducible apply State.recordUe_away
    | with_reducible apply State.startRepair_away | with_reducible apply Away.ite | simp only [Away.mk_iff]
    | (refine Away.pages hK ?_; decide) | (refine Away.pages hK ?_; simp; done) | split | intro _)

theorem State.logStoreCe_away {K : Nat → Prop} {M : Part → Prop} {base : State} (s : State) (a : Nat) (hK : ∀ n ∈ [0x18], ¬K n) (hk : Away K M base s) :
    Away K M base (State.logStoreCe s a) := by
  unfold State.logStoreCe
  repeat' (first
    | with_reducible assumption | with_reducible apply State.inc_away | with_reducible apply State.irq_away
    | with_reducible apply State.setFlds_away | with_reducible apply Away.flds
    | with_reducible apply State.setFld_away | simp only [List.map_cons, List.map_nil] | simp only [Away.mk_iff]
    | (refine Away.pages hK ?_; decide) | (refine Away.pages hK ?_; simp; done) | split | intro _)

theorem State.poisonStore_away {K : Nat → Prop} {M : Part → Prop} {base : State} (s : State) (a : Nat) (hM : ∀ p ∈ [.store], ¬M p) (hk : Away K M base s) :
    Away K M base (State.poisonStore s a) := by
  unfold State.poisonStore
  try dsimp only
  repeat' (first
    | with_reducible assumption | with_reducible apply Away.ite | with_reducible apply Away.four
    | with_reducible apply Away.fourMem | simp only [Away.mk_iff]
    | (intro (p : Part) hp; cases p <;> first | exact absurd hp (hM _ (by decide)) | (simp only [Mems.part, State.drawn_mem]; done))
    | (refine Away.parts hM ?_; decide) | split | intro _)

theorem State.weakenStore_away {K : Nat → Prop} {M : Part → Prop} {base : State} (s : State) (a : Nat) (hk : Away K M base s) :
    Away K M base (State.weakenStore s a) := by
  unfold State.weakenStore
  try dsimp only
  repeat' (first
    | with_reducible assumption | with_reducible apply Away.ite | with_reducible apply Away.four
    | with_reducible apply Away.fourMem | simp only [Away.mk_iff]
    | (intro (p : Part) hp; cases p <;> first | exact absurd hp (hM _ (by decide)) | (simp only [Mems.part, State.drawn_mem]; done))
    | split | intro _)

theorem State.storeEcc_away {K : Nat → Prop} {M : Part → Prop} {base : State} (s : State) (a : Nat) (e : Ecc) (hM : ∀ p ∈ [.store], ¬M p) (hk : Away K M base s) :
    Away K M base (State.storeEcc s a e) := by
  unfold State.storeEcc
  try dsimp only
  repeat' (first
    | with_reducible assumption | with_reducible apply State.weakenStore_away
    | with_reducible apply State.poisonStore_away | simp only [Away.mk_iff] | (refine Away.parts hM ?_; decide)
    | split | intro _)

theorem State.readWords_away {K : Nat → Prop} {M : Part → Prop} {base : State} (s : State) (a n master : Nat) (hK : ∀ n ∈ [0x06, 0x18, 0x38], ¬K n) (hk : Away K M base s) :
    Away K M base (State.readWords s a n master) := by
  unfold State.readWords
  try dsimp only
  repeat' (first
    | with_reducible assumption | with_reducible apply State.logStoreCe_away
    | with_reducible apply State.logStoreUe_away | with_reducible apply Away.foldl
    | with_reducible apply Away.foldlFst | with_reducible apply Away.four | with_reducible apply Away.fourMem
    | simp only [Away.mk_iff]
    | (intro (p : Part) hp; cases p <;> first | exact absurd hp (hM _ (by decide)) | (simp only [Mems.part, State.drawn_mem]; done))
    | (refine Away.pages hK ?_; decide) | (refine Away.pages hK ?_; simp; done) | split | intro _)

theorem State.storeWrite_away {K : Nat → Prop} {M : Part → Prop} {base : State} (s : State) (a : Nat) (bs : List Byte) (hM : ∀ p ∈ [.store], ¬M p) (hk : Away K M base s) :
    Away K M base (State.storeWrite s a bs) := by
  unfold State.storeWrite
  try dsimp only
  repeat' (first
    | with_reducible assumption | with_reducible apply Away.ite | with_reducible apply Away.foldl
    | with_reducible apply Away.foldlFst | with_reducible apply Away.four | with_reducible apply Away.fourMem
    | simp only [Away.mk_iff]
    | (intro (p : Part) hp; cases p <;> first | exact absurd hp (hM _ (by decide)) | (simp only [Mems.part, State.drawn_mem]; done))
    | (refine Away.parts hM ?_; decide) | split | intro _)

theorem State.arbTraffic_away {K : Nat → Prop} {M : Part → Prop} {base : State} (s : State) (master : Nat) (hK : ∀ n ∈ [0x19], ¬K n) (hk : Away K M base s) :
    Away K M base (State.arbTraffic s master) := by
  unfold State.arbTraffic
  try dsimp only
  repeat' (first
    | with_reducible assumption | with_reducible apply State.add_away | with_reducible apply State.drawn_away
    | with_reducible apply State.maxFld_away | simp only [Away.mk_iff] | (refine Away.pages hK ?_; decide)
    | (refine Away.pages hK ?_; simp [R.ARB_GRANTS_N, R.ARB_LAT_MAX_NS]; done) | split | intro _)

theorem State.blockReads_away {K : Nat → Prop} {M : Part → Prop} {base : State} (s : State) (a n master : Nat) (hK : ∀ n ∈ [0x06, 0x18, 0x19, 0x38], ¬K n) (hk : Away K M base s) :
    Away K M base (State.blockReads s a n master) := by
  unfold State.blockReads
  repeat' (first
    | with_reducible assumption | with_reducible apply State.readWords_away
    | with_reducible apply State.arbTraffic_away | with_reducible apply Away.ite | simp only [Away.mk_iff]
    | (refine Away.pages hK ?_; decide) | (refine Away.pages hK ?_; simp; done) | split | intro _)

theorem State.blockWrite_away {K : Nat → Prop} {M : Part → Prop} {base : State} (s : State) (a : Nat) (bs : List Byte) (master : Nat) (hK : ∀ n ∈ [0x06, 0x18, 0x19, 0x38], ¬K n) (hM : ∀ p ∈ [.store], ¬M p) (hk : Away K M base s) :
    Away K M base (State.blockWrite s a bs master) := by
  unfold State.blockWrite
  try dsimp only
  repeat' (first
    | with_reducible assumption | with_reducible apply State.readWords_away
    | with_reducible apply State.storeWrite_away | with_reducible apply State.arbTraffic_away
    | with_reducible apply Away.ite | simp only [Away.mk_iff] | (refine Away.pages hK ?_; decide)
    | (refine Away.pages hK ?_; simp; done) | (refine Away.parts hM ?_; decide) | split | intro _)

theorem State.showBufs_away {K : Nat → Prop} {M : Part → Prop} {base : State} (s : State) (hK : ∀ n ∈ [0x18], ¬K n) (hk : Away K M base s) :
    Away K M base (State.showBufs s) := by
  unfold State.showBufs
  try dsimp only
  repeat' (first
    | with_reducible assumption | with_reducible apply Away.foldl | with_reducible apply Away.foldlFst
    | with_reducible apply State.setFlds_away | with_reducible apply Away.flds
    | with_reducible apply State.setFld_away | simp only [List.map_cons, List.map_nil] | simp only [Away.mk_iff]
    | (refine Away.pages hK ?_; decide) | (refine Away.pages hK ?_; simp; done) | split | intro _)

theorem State.allocBuf_away {K : Nat → Prop} {M : Part → Prop} {base : State} (s : State) (f : Nat) (keep : Nat → Bool) (hK : ∀ n ∈ [0x18, 0x19], ¬K n) (hM : ∀ p ∈ [.store], ¬M p)
    (hk : Away K M base s) : Away K M base (State.allocBuf s f keep) := by
  unfold State.allocBuf
  split
  · dsimp only
    refine State.showBufs_away _ (Away.pages hK (by decide)) (State.arbTraffic_away _ _ (Away.pages hK (by decide)) ?_)
    · simp only [Away.mk_iff]
      refine Away.fourMem hk fun p hp => ?_
      cases p <;> first | exact absurd hp (hM _ (by decide)) | rfl
  · exact hk

theorem State.freeBuf_away {K : Nat → Prop} {M : Part → Prop} {base : State} (s : State) (f : Nat) (hK : ∀ n ∈ [0x18], ¬K n) (hk : Away K M base s) :
    Away K M base (State.freeBuf s f) := by
  unfold State.freeBuf
  try dsimp only
  repeat' (first
    | with_reducible assumption | with_reducible apply State.showBufs_away | with_reducible apply Away.ite
    | with_reducible apply Away.four | simp only [Away.mk_iff] | (refine Away.pages hK ?_; decide)
    | (refine Away.pages hK ?_; simp; done) | split | intro _)

theorem State.dropRepeat_away {K : Nat → Prop} {M : Part → Prop} {base : State} (s : State) (hK : ∀ n ∈ [0x18], ¬K n) (hk : Away K M base s) :
    Away K M base (State.dropRepeat s) := by
  unfold State.dropRepeat
  try dsimp only
  repeat' (first
    | with_reducible assumption | with_reducible apply State.freeBuf_away | with_reducible apply Away.four
    | simp only [Away.mk_iff] | (refine Away.pages hK ?_; decide) | (refine Away.pages hK ?_; simp; done) | split
    | intro _)

theorem State.makeRepeat_away {K : Nat → Prop} {M : Part → Prop} {base : State} (s : State) (f : Nat) (hK : ∀ n ∈ [0x18], ¬K n) (hk : Away K M base s) :
    Away K M base (State.makeRepeat s f) := by
  unfold State.makeRepeat
  try dsimp only
  repeat' (first
    | with_reducible assumption | with_reducible apply State.showBufs_away | with_reducible apply Away.ite
    | with_reducible apply Away.four | simp only [Away.mk_iff] | (refine Away.pages hK ?_; decide)
    | (refine Away.pages hK ?_; simp; done) | split | intro _)

theorem State.serveStore_away {K : Nat → Prop} {M : Part → Prop} {base : State} (s : State) (h addr a : Nat) (op : CoreOp) (hK : ∀ n ∈ [0x06, 0x18, 0x19, 0x38], ¬K n) (hM : ∀ p ∈ [.store], ¬M p) (hk : Away K M base s) :
    Away K M base (State.serveStore s h addr a op) := by
  unfold State.serveStore
  try dsimp only
  repeat' (first
    | with_reducible assumption | with_reducible apply State.blockReads_away
    | with_reducible apply State.coreTrap_away | with_reducible apply State.storeWrite_away
    | with_reducible apply State.wroteCode_away | with_reducible apply State.emit_away
    | with_reducible apply Away.ite | simp only [Away.mk_iff] | (refine Away.pages hK ?_; decide)
    | (refine Away.pages hK ?_; simp; done) | (refine Away.parts hM ?_; decide) | split | intro _)

theorem State.windowAccess_away {K : Nat → Prop} {M : Part → Prop} {base : State} (s : State) (h addr : Nat) (op : CoreOp) (e : Ecc) (hK : ∀ n ∈ [0x06, 0x18, 0x19, 0x38], ¬K n) (hM : ∀ p ∈ [.store], ¬M p) (hk : Away K M base s) :
    Away K M base (State.windowAccess s h addr op e) := by
  unfold State.windowAccess
  try dsimp only
  repeat' (first
    | with_reducible assumption | with_reducible apply State.coreTrap_away
    | with_reducible apply State.storeEcc_away | with_reducible apply State.serveStore_away
    | with_reducible apply Away.ite | with_reducible apply Away.four | simp only [Away.mk_iff]
    | (refine Away.pages hK ?_; decide) | (refine Away.pages hK ?_; simp; done) | (refine Away.parts hM ?_; decide)
    | split | intro _)

theorem execStoreInitDone_away {K : Nat → Prop} {M : Part → Prop} {base : State} (bad : List Nat) (s : State) (hK : ∀ n ∈ [0x06, 0x18, 0x19, 0x38], ¬K n) (hM : ∀ p ∈ [.store], ¬M p) (hk : Away K M base s) :
    ResAway K M base (execStoreInitDone bad s) := by
  unfold execStoreInitDone
  try dsimp only
  repeat' (first
    | with_reducible assumption | with_reducible apply State.begin_away | with_reducible apply State.recordUe_away
    | with_reducible apply State.makeUnusable_away | with_reducible apply State.add_away
    | with_reducible apply State.irq_away | with_reducible apply State.setFlag_away
    | with_reducible apply State.blockWrite_away | with_reducible apply State.windowAccess_away
    | with_reducible apply Away.ite | with_reducible apply ResAway.ite | with_reducible apply ResAway.next
    | with_reducible apply Away.foldl | with_reducible apply Away.foldlFst | with_reducible apply Away.four
    | with_reducible apply Away.fourMem | with_reducible apply State.setFlds_away | with_reducible apply Away.flds
    | with_reducible apply State.setFld_away | simp only [List.map_cons, List.map_nil] | simp only [Away.mk_iff]
    | (intro (p : Part) hp; cases p <;> first | exact absurd hp (hM _ (by decide)) | (simp only [Mems.part, State.drawn_mem]; done))
    | (refine Away.pages hK ?_; decide) | (refine Away.pages hK ?_; simp; done) | (refine Away.parts hM ?_; decide)
    | split | intro _)

theorem execStoreRepairDone_away {K : Nat → Prop} {M : Part → Prop} {base : State} (granule : Nat) (s : State) (hK : ∀ n ∈ [0x18], ¬K n) (hk : Away K M base s) :
    ResAway K M base (execStoreRepairDone granule s) := by
  unfold execStoreRepairDone
  try dsimp only
  repeat' (first
    | with_reducible assumption | with_reducible apply State.begin_away | with_reducible apply State.logStoreCe_away
    | with_reducible apply State.setFld_away | with_reducible apply State.inc_away
    | with_reducible apply State.irq_away | with_reducible apply Away.ite | with_reducible apply ResAway.ite
    | with_reducible apply ResAway.next | with_reducible apply Away.foldl | with_reducible apply Away.foldlFst
    | with_reducible apply Away.four | with_reducible apply Away.fourMem | simp only [Away.mk_iff]
    | (intro (p : Part) hp; cases p <;> first | exact absurd hp (hM _ (by decide)) | (simp only [Mems.part, State.drawn_mem]; done))
    | (refine Away.pages hK ?_; decide) | (refine Away.pages hK ?_; simp; done) | split | intro _)

theorem execPatrolRead_away {K : Nat → Prop} {M : Part → Prop} {base : State} (e : Ecc) (word : Nat) (s : State) (hK : ∀ n ∈ [0x06, 0x18, 0x19, 0x38], ¬K n) (hM : ∀ p ∈ [.store], ¬M p) (hk : Away K M base s) :
    ResAway K M base (execPatrolRead e word s) := by
  unfold execPatrolRead
  try dsimp only
  repeat' (first
    | with_reducible assumption | with_reducible apply State.begin_away | with_reducible apply State.storeEcc_away
    | with_reducible apply State.blockReads_away | with_reducible apply State.setFld_away
    | with_reducible apply State.inc_away | with_reducible apply Away.ite | with_reducible apply ResAway.ite
    | with_reducible apply ResAway.next | with_reducible apply Away.four | simp only [Away.mk_iff]
    | (refine Away.pages hK ?_; decide) | (refine Away.pages hK ?_; simp; done) | (refine Away.parts hM ?_; decide)
    | split | intro _)

theorem execStoreUnusable_away {K : Nat → Prop} {M : Part → Prop} {base : State} (c : StoreCause) (s : State) (hK : ∀ n ∈ [0x06, 0x18, 0x38], ¬K n) (hk : Away K M base s) :
    ResAway K M base (execStoreUnusable c s) := by
  unfold execStoreUnusable
  try dsimp only
  repeat' (first
    | with_reducible assumption | with_reducible apply State.begin_away
    | with_reducible apply State.makeUnusable_away | with_reducible apply ResAway.next | simp only [Away.mk_iff]
    | (refine Away.pages hK ?_; decide) | (refine Away.pages hK ?_; simp; done) | split | intro _)

theorem State.loadWords_away {K : Nat → Prop} {M : Part → Prop} {base : State} (sec : List Byte) :
    ∀ (l : List (Nat × Fld)) (s : State), (∀ e ∈ l, ¬K e.2.page) → Away K M base s → Away K M base (s.loadWords sec l)
  | [], _, _, h => h
  | (o, f) :: t, s, hK, h =>
    State.loadWords_away sec t _ (fun e he => hK e (List.mem_cons_of_mem _ he))
      (State.setFld_away s f _ (fun n hn => List.mem_singleton.mp hn ▸ hK (o, f) List.mem_cons_self) h)

theorem State.deriveScree_away {K : Nat → Prop} {M : Part → Prop} {base : State} (s : State) (hK : ∀ n ∈ [0x24], ¬K n) (hk : Away K M base s) :
    Away K M base (State.deriveScree s) := by
  unfold State.deriveScree
  try dsimp only
  repeat' (first
    | with_reducible assumption | with_reducible apply Away.ite | with_reducible apply State.setFlds_away
    | with_reducible apply Away.flds | with_reducible apply State.setFld_away
    | simp only [List.map_cons, List.map_nil] | simp only [Away.mk_iff] | (refine Away.pages hK ?_; decide)
    | (refine Away.pages hK ?_; simp; done) | split | intro _)

end Sys2Proof.Machine
end

