-- ==== Sys2Proof/Laws/AwayGen.lean ====
section
/-! SUPPORT. What the operations of Machine/Gen.lean stay away from (Laws/Away.lean). -/
set_option linter.all false
set_option Elab.async false

namespace Sys2Proof.Machine

theorem State.setSlot_away {K : Nat → Prop} {M : Part → Prop} {base : State} (s : State) (k : Nat) (g : GenSlot) (hk : Away K M base s) :
    Away K M base (State.setSlot s k g) := by
  unfold State.setSlot
  try dsimp only
  repeat' (first
    | with_reducible assumption | with_reducible apply Away.four | simp only [Away.mk_iff] | split | intro _)

theorem State.setSlotState_away {K : Nat → Prop} {M : Part → Prop} {base : State} (s : State) (k st : Nat) (hK : ∀ n ∈ [0x13], ¬K n) (hk : Away K M base s) :
    Away K M base (State.setSlotState s k st) := by
  unfold State.setSlotState
  repeat' (first
    | with_reducible assumption | with_reducible apply State.setFld_away | with_reducible apply Away.four
    | simp only [Away.mk_iff] | (refine Away.pages hK ?_; decide)
    | (refine Away.pages hK ?_; simp [R.COMMIT_SLOT_STATE]; done) | split | intro _)

theorem State.readsSec_away {K : Nat → Prop} {M : Part → Prop} {base : State} (s : State) (master a page kind : Nat) (hK : ∀ n ∈ [0x06, 0x18, 0x19, 0x38], ¬K n) (hk : Away K M base s) :
    Away K M base (State.readsSec s master a page kind) := by
  unfold State.readsSec
  try dsimp only
  repeat' (first
    | with_reducible assumption | with_reducible apply State.blockReads_away | with_reducible apply Away.ite
    | simp only [Away.mk_iff] | (refine Away.pages hK ?_; decide) | (refine Away.pages hK ?_; simp; done) | split
    | intro _)

theorem State.loadRange_away {K : Nat → Prop} {M : Part → Prop} {base : State} (page : Nat) (hK : ∀ n ∈ [page], ¬K n) :
    ∀ (n off : Nat) (l : List Byte) (s : State), l.length ≤ n → Away K M base s → Away K M base (s.loadRange page off l)
  | n + 4, off, b0 :: b1 :: b2 :: b3 :: t, s, hn, h => by
    unfold State.loadRange
    exact State.loadRange_away page hK n (off + 4) t _ (by simpa using hn) (State.setReg_away s page off _ hK h)
  | _, _, [], _, _, h => h
  | _, _, [_], _, _, h => h
  | _, _, [_, _], _, _, h => h
  | _, _, [_, _, _], _, _, h => h
  | 0, _, _ :: _ :: _ :: _ :: _, _, hn, _ => absurd hn (by simp only [List.length_cons]; omega)
  | 1, _, _ :: _ :: _ :: _ :: _, _, hn, _ => absurd hn (by simp only [List.length_cons]; omega)
  | 2, _, _ :: _ :: _ :: _ :: _, _, hn, _ => absurd hn (by simp only [List.length_cons]; omega)
  | 3, _, _ :: _ :: _ :: _ :: _, _, hn, _ => absurd hn (by simp only [List.length_cons]; omega)

theorem State.loadRange_away' {K : Nat → Prop} {M : Part → Prop} {base : State} (s : State) (page off : Nat) (l : List Byte)
    (hK : ∀ n ∈ [page], ¬K n) (hk : Away K M base s) :
    Away K M base (s.loadRange page off l) := State.loadRange_away page hK l.length off l s (Nat.le_refl _) hk

theorem State.takeSection_away {K : Nat → Prop} {M : Part → Prop} {base : State} (s : State) (a page : Nat) (load : State → List Byte → State) (hK : ∀ n ∈ [0x06, 0x18, 0x19, 0x38, page], ¬K n) (hk : Away K M base s)
    (hload : ∀ (x0 : State) (x1 : List Byte), Away K M base x0 → Away K M base (load x0 x1)) :
    Away K M base (State.takeSection s a page load) := by
  have hKc : ∀ n ∈ [0x06, 0x18, 0x19, 0x38], ¬K n := Away.pages hK (by
    intro n hn; simp only [List.mem_cons, List.not_mem_nil, or_false] at hn ⊢; omega)
  unfold State.takeSection
  try dsimp only
  repeat' (first
    | with_reducible assumption | with_reducible apply hload | with_reducible apply State.readsSec_away
    | with_reducible apply State.fenceBlock_away | simp only [Away.mk_iff] | (refine Away.pages hKc ?_; decide)
    | refine Away.cons (a := _) (l := _ :: _) ?_ ?_ | (refine Away.pages hK ?_; simp; done) | split | intro _)

theorem State.showParty_away {K : Nat → Prop} {M : Part → Prop} {base : State} (s : State) (hK : ∀ n ∈ [0x38, 0x39], ¬K n) (hk : Away K M base s) :
    Away K M base (State.showParty s) := by
  unfold State.showParty
  try dsimp only
  repeat' (first
    | with_reducible assumption | with_reducible apply Away.ite | with_reducible apply State.setFlds_away
    | with_reducible apply Away.flds | with_reducible apply State.setFld_away
    | simp only [List.map_cons, List.map_nil] | simp only [Away.mk_iff] | (refine Away.pages hK ?_; decide)
    | (refine Away.pages hK ?_; simp; done) | split | intro _)

theorem State.takePtp_away {K : Nat → Prop} {M : Part → Prop} {base : State} (s : State) (p : List Byte) (hK : ∀ n ∈ [0x12], ¬K n) (hk : Away K M base s) :
    Away K M base (State.takePtp s p) := by
  unfold State.takePtp
  repeat' (first
    | with_reducible assumption | with_reducible apply State.setFlds_away | with_reducible apply Away.flds
    | with_reducible apply State.setFld_away | simp only [List.map_cons, List.map_nil] | simp only [Away.mk_iff]
    | (refine Away.pages hK ?_; decide) | (refine Away.pages hK ?_; simp; done) | split | intro _)

end Sys2Proof.Machine
end

