-- ==== Sys2Proof/Laws/AwayPtp.lean ====
section
/-! SUPPORT. What the operations of Machine/Ptp.lean stay away from (Laws/Away.lean). -/
set_option linter.all false
set_option Elab.async false

namespace Sys2Proof.Machine

theorem State.setRate_away {K : Nat → Prop} {M : Part → Prop} {base : State} (s : State) (r : Int) (hK : ∀ n ∈ [0x12], ¬K n) (hk : Away K M base s) :
    Away K M base (State.setRate s r) := by
  unfold State.setRate
  try dsimp only
  repeat' (first
    | with_reducible assumption | with_reducible apply State.setFld_away | with_reducible apply Away.four
    | simp only [Away.mk_iff] | (refine Away.pages hK ?_; decide) | (refine Away.pages hK ?_; simp; done) | split
    | intro _)

theorem State.setPtpState_away {K : Nat → Prop} {M : Part → Prop} {base : State} (s : State) (st : Nat) (hK : ∀ n ∈ [0x12], ¬K n) (hk : Away K M base s) :
    Away K M base (State.setPtpState s st) := by
  unfold State.setPtpState
  try dsimp only
  repeat' (first
    | with_reducible assumption | with_reducible apply State.setFld_away | with_reducible apply State.setRate_away
    | with_reducible apply State.irq_away | with_reducible apply Away.ite | with_reducible apply Away.four
    | simp only [Away.mk_iff] | (refine Away.pages hK ?_; decide) | (refine Away.pages hK ?_; simp; done) | split
    | intro _)

theorem State.applyStep_away {K : Nat → Prop} {M : Part → Prop} {base : State} (s : State) (step : Int) (hK : ∀ n ∈ [0x06, 0x12], ¬K n) (hk : Away K M base s) :
    Away K M base (State.applyStep s step) := by
  unfold State.applyStep
  try dsimp only
  repeat' (first
    | with_reducible assumption | with_reducible apply State.setFld_away | with_reducible apply State.event_away
    | with_reducible apply Away.four | simp only [Away.mk_iff] | (refine Away.pages hK ?_; decide)
    | (refine Away.pages hK ?_; simp; done) | split | intro _)

theorem State.forgetFrames_away {K : Nat → Prop} {M : Part → Prop} {base : State} (s : State) (hk : Away K M base s) :
    Away K M base (State.forgetFrames s) := by
  unfold State.forgetFrames
  try dsimp only
  repeat' (first
    | with_reducible assumption | with_reducible apply Away.four | simp only [Away.mk_iff] | split | intro _)

theorem State.requestStep_away {K : Nat → Prop} {M : Part → Prop} {base : State} (s : State) (step : Int) (hK : ∀ n ∈ [0x06, 0x12], ¬K n) (hk : Away K M base s) :
    Away K M base (State.requestStep s step) := by
  unfold State.requestStep
  try dsimp only
  repeat' (first
    | with_reducible assumption | with_reducible apply State.applyStep_away
    | with_reducible apply State.forgetFrames_away | with_reducible apply Away.ite | with_reducible apply Away.four
    | simp only [Away.mk_iff] | (refine Away.pages hK ?_; decide) | (refine Away.pages hK ?_; simp; done) | split
    | intro _)

theorem State.sampleState_away {K : Nat → Prop} {M : Part → Prop} {base : State} (s : State) (o : Int) (hK : ∀ n ∈ [0x12], ¬K n) (hk : Away K M base s) :
    Away K M base (State.sampleState s o) := by
  unfold State.sampleState
  try dsimp only
  repeat' (first
    | with_reducible assumption | with_reducible apply State.setFld_away
    | with_reducible apply State.setPtpState_away | with_reducible apply Away.ite | simp only [Away.mk_iff]
    | (refine Away.pages hK ?_; decide) | (refine Away.pages hK ?_; simp; done) | split | intro _)

theorem State.servo_away {K : Nat → Prop} {M : Part → Prop} {base : State} (s : State) (o : Int) (hK : ∀ n ∈ [0x12], ¬K n) (hk : Away K M base s) :
    Away K M base (State.servo s o) := by
  unfold State.servo
  try dsimp only
  repeat' (first
    | with_reducible assumption | with_reducible apply State.setRate_away | with_reducible apply State.setFld_away
    | with_reducible apply Away.ite | with_reducible apply Away.four | simp only [Away.mk_iff]
    | (refine Away.pages hK ?_; decide) | (refine Away.pages hK ?_; simp; done) | split | intro _)

theorem State.syncDone_away {K : Nat → Prop} {M : Part → Prop} {base : State} (s : State) (t1 t2 : Nat) (corr : Int) (hk : Away K M base s) :
    Away K M base (State.syncDone s t1 t2 corr) := by
  unfold State.syncDone
  try dsimp only
  repeat' (first
    | with_reducible assumption | with_reducible apply Away.four | simp only [Away.mk_iff] | split | intro _)

theorem State.offsetSample_away {K : Nat → Prop} {M : Part → Prop} {base : State} (s : State) (t1 t2 : Nat) (corr : Int) (d : Option Int) (hK : ∀ n ∈ [0x06, 0x12], ¬K n) (hk : Away K M base s) :
    Away K M base (State.offsetSample s t1 t2 corr d) := by
  unfold State.offsetSample
  try dsimp only
  repeat' (first
    | with_reducible assumption | with_reducible apply State.syncDone_away | with_reducible apply State.setFld_away
    | with_reducible apply State.inc_away | with_reducible apply State.sampleState_away
    | with_reducible apply State.requestStep_away | with_reducible apply State.servo_away
    | with_reducible apply Away.ite | with_reducible apply Away.four | simp only [Away.mk_iff]
    | (refine Away.pages hK ?_; decide) | (refine Away.pages hK ?_; simp; done) | split | intro _)

theorem State.noteActive_away {K : Nat → Prop} {M : Part → Prop} {base : State} (s : State) (p : Port) (hK : ∀ n ∈ [0x12], ¬K n) (hk : Away K M base s) :
    Away K M base (State.noteActive s p) := by
  unfold State.noteActive
  try dsimp only
  repeat' (first
    | with_reducible assumption | with_reducible apply State.setFld_away | with_reducible apply Away.four
    | simp only [Away.mk_iff] | (refine Away.pages hK ?_; decide) | (refine Away.pages hK ?_; simp; done) | split
    | intro _)

theorem execPtpSyncReceive_away {K : Nat → Prop} {M : Part → Prop} {base : State} (m : PtpSync) (s : State) (hK : ∀ n ∈ [0x06, 0x12], ¬K n) (hk : Away K M base s) :
    ResAway K M base (execPtpSyncReceive m s) := by
  unfold execPtpSyncReceive
  try dsimp only
  repeat' (first
    | with_reducible assumption | with_reducible apply State.begin_away | with_reducible apply State.noteActive_away
    | with_reducible apply State.offsetSample_away | with_reducible apply Away.ite
    | with_reducible apply ResAway.ite | with_reducible apply ResAway.next | with_reducible apply Away.four
    | simp only [Away.mk_iff] | (refine Away.pages hK ?_; decide) | (refine Away.pages hK ?_; simp; done) | split
    | intro _)

theorem State.pairDelayReq_away {K : Nat → Prop} {M : Part → Prop} {base : State} (s : State) (t1 t2 : Nat) (corr : Int) (hk : Away K M base s) :
    Away K M base (State.pairDelayReq s t1 t2 corr) := by
  unfold State.pairDelayReq
  try dsimp only
  repeat' (first
    | with_reducible assumption | with_reducible apply Away.ite | with_reducible apply Away.four
    | simp only [Away.mk_iff] | split | intro _)

theorem execPtpFollowUpReceive_away {K : Nat → Prop} {M : Part → Prop} {base : State} (port : Port) (source seq t1 : Nat) (corr : Int) (s : State) (hK : ∀ n ∈ [0x06, 0x12], ¬K n) (hk : Away K M base s) :
    ResAway K M base (execPtpFollowUpReceive port source seq t1 corr s) := by
  unfold execPtpFollowUpReceive
  try dsimp only
  repeat' (first
    | with_reducible assumption | with_reducible apply State.begin_away
    | with_reducible apply State.pairDelayReq_away | with_reducible apply State.offsetSample_away
    | with_reducible apply Away.ite | with_reducible apply ResAway.ite | with_reducible apply ResAway.next
    | simp only [Away.mk_iff] | (refine Away.pages hK ?_; decide) | (refine Away.pages hK ?_; simp; done) | split
    | intro _)

theorem execPtpDelayReqTimer_away {K : Nat → Prop} {M : Part → Prop} {base : State} (t3 : Nat) (s : State) (hk : Away K M base s) :
    ResAway K M base (execPtpDelayReqTimer t3 s) := by
  unfold execPtpDelayReqTimer
  try dsimp only
  repeat' (first
    | with_reducible assumption | with_reducible apply State.begin_away | with_reducible apply State.emit_away
    | with_reducible apply ResAway.next | with_reducible apply Away.four | simp only [Away.mk_iff] | split | intro _)

theorem execPtpDelayRespReceive_away {K : Nat → Prop} {M : Part → Prop} {base : State} (port : Port) (source seq t4 : Nat) (corr logInterval : Int) (s : State) (hK : ∀ n ∈ [0x12], ¬K n) (hk : Away K M base s) :
    ResAway K M base (execPtpDelayRespReceive port source seq t4 corr logInterval s) := by
  unfold execPtpDelayRespReceive
  try dsimp only
  repeat' (first
    | with_reducible assumption | with_reducible apply State.begin_away | with_reducible apply State.setFld_away
    | with_reducible apply Away.ite | with_reducible apply ResAway.ite | with_reducible apply ResAway.next
    | with_reducible apply Away.four | simp only [Away.mk_iff] | (refine Away.pages hK ?_; decide)
    | (refine Away.pages hK ?_; simp; done) | split | intro _)

theorem State.newMasterId_away {K : Nat → Prop} {M : Part → Prop} {base : State} (s : State) (clock : Nat) (hK : ∀ n ∈ [0x12], ¬K n) (hk : Away K M base s) :
    Away K M base (State.newMasterId s clock) := by
  unfold State.newMasterId
  repeat' (first
    | with_reducible assumption | with_reducible apply State.setFld_away | with_reducible apply State.irq_away
    | with_reducible apply Away.ite | simp only [Away.mk_iff] | (refine Away.pages hK ?_; decide)
    | (refine Away.pages hK ?_; simp; done) | split | intro _)

theorem State.selectForeign_away {K : Nat → Prop} {M : Part → Prop} {base : State} (s : State) (m : PtpAnnounce) (hK : ∀ n ∈ [0x12], ¬K n) (hk : Away K M base s) :
    Away K M base (State.selectForeign s m) := by
  unfold State.selectForeign
  try dsimp only
  repeat' (first
    | with_reducible assumption | with_reducible apply State.newMasterId_away
    | with_reducible apply State.setPtpState_away | with_reducible apply Away.ite | with_reducible apply Away.four
    | simp only [Away.mk_iff] | (refine Away.pages hK ?_; decide) | (refine Away.pages hK ?_; simp; done) | split
    | intro _)

theorem State.selectOwn_away {K : Nat → Prop} {M : Part → Prop} {base : State} (s : State) (hK : ∀ n ∈ [0x12], ¬K n) (hk : Away K M base s) :
    Away K M base (State.selectOwn s) := by
  unfold State.selectOwn
  try dsimp only
  repeat' (first
    | with_reducible assumption | with_reducible apply State.newMasterId_away
    | with_reducible apply State.setPtpState_away | with_reducible apply Away.ite | with_reducible apply Away.four
    | simp only [Away.mk_iff] | (refine Away.pages hK ?_; decide) | (refine Away.pages hK ?_; simp; done) | split
    | intro _)

theorem State.bmca_away {K : Nat → Prop} {M : Part → Prop} {base : State} (s : State) (hK : ∀ n ∈ [0x12], ¬K n) (hk : Away K M base s) :
    Away K M base (State.bmca s) := by
  unfold State.bmca
  try dsimp only
  repeat' (first
    | with_reducible assumption | with_reducible apply State.selectOwn_away
    | with_reducible apply State.selectForeign_away | with_reducible apply Away.ite | simp only [Away.mk_iff]
    | (refine Away.pages hK ?_; decide) | (refine Away.pages hK ?_; simp; done) | split | intro _)

theorem execPtpAnnounceReceive_away {K : Nat → Prop} {M : Part → Prop} {base : State} (a : PtpAnnounce) (s : State) (hK : ∀ n ∈ [0x12], ¬K n) (hk : Away K M base s) :
    ResAway K M base (execPtpAnnounceReceive a s) := by
  unfold execPtpAnnounceReceive
  try dsimp only
  repeat' (first
    | with_reducible assumption | with_reducible apply State.begin_away | with_reducible apply State.bmca_away
    | with_reducible apply Away.ite | with_reducible apply ResAway.ite | with_reducible apply ResAway.next
    | with_reducible apply Away.four | simp only [Away.mk_iff] | (refine Away.pages hK ?_; decide)
    | (refine Away.pages hK ?_; simp; done) | split | intro _)

theorem execPtpMessageRefused_away {K : Nat → Prop} {M : Part → Prop} {base : State} (k : PtpRefused) (s : State) (hK : ∀ n ∈ [0x12], ¬K n) (hk : Away K M base s) :
    ResAway K M base (execPtpMessageRefused k s) := by
  unfold execPtpMessageRefused
  try dsimp only
  repeat' (first
    | with_reducible assumption | with_reducible apply State.begin_away | with_reducible apply State.inc_away
    | with_reducible apply ResAway.next | simp only [Away.mk_iff] | (refine Away.pages hK ?_; decide)
    | (refine Away.pages hK ?_; simp; done) | split | intro _)

theorem execAnnounceReceiptTimeout_away {K : Nat → Prop} {M : Part → Prop} {base : State} (p : Port) (s : State) (hK : ∀ n ∈ [0x12], ¬K n) (hk : Away K M base s) :
    ResAway K M base (execAnnounceReceiptTimeout p s) := by
  unfold execAnnounceReceiptTimeout
  try dsimp only
  repeat' (first
    | with_reducible assumption | with_reducible apply State.begin_away | with_reducible apply State.bmca_away
    | with_reducible apply Away.ite | with_reducible apply ResAway.ite | with_reducible apply ResAway.next
    | with_reducible apply Away.four | simp only [Away.mk_iff] | (refine Away.pages hK ?_; decide)
    | (refine Away.pages hK ?_; simp; done) | split | intro _)

theorem execGmSyncSend_away {K : Nat → Prop} {M : Part → Prop} {base : State} (announce : Bool) (s : State) (hk : Away K M base s) :
    ResAway K M base (execGmSyncSend announce s) := by
  unfold execGmSyncSend
  try dsimp only
  repeat' (first
    | with_reducible assumption | with_reducible apply State.begin_away | with_reducible apply State.emit_away
    | with_reducible apply Away.ite | with_reducible apply ResAway.ite | with_reducible apply ResAway.next
    | with_reducible apply Away.four | simp only [Away.mk_iff] | split | intro _)

theorem execGmDelayReqReceive_away {K : Nat → Prop} {M : Part → Prop} {base : State} (p : Port) (source seq t4 : Nat) (s : State) (hk : Away K M base s) :
    ResAway K M base (execGmDelayReqReceive p source seq t4 s) := by
  unfold execGmDelayReqReceive
  try dsimp only
  repeat' (first
    | with_reducible assumption | with_reducible apply State.begin_away | with_reducible apply State.emit_away
    | with_reducible apply Away.ite | with_reducible apply ResAway.ite | with_reducible apply ResAway.next
    | simp only [Away.mk_iff] | split | intro _)

theorem execPtpSampleLoss_away {K : Nat → Prop} {M : Part → Prop} {base : State} (s : State) (hK : ∀ n ∈ [0x12], ¬K n) (hk : Away K M base s) :
    ResAway K M base (execPtpSampleLoss s) := by
  unfold execPtpSampleLoss
  try dsimp only
  repeat' (first
    | with_reducible assumption | with_reducible apply State.begin_away | with_reducible apply State.setFld_away
    | with_reducible apply State.setPtpState_away | with_reducible apply Away.ite | with_reducible apply ResAway.ite
    | with_reducible apply ResAway.next | simp only [Away.mk_iff] | (refine Away.pages hK ?_; decide)
    | (refine Away.pages hK ?_; simp; done) | split | intro _)

theorem execHoldover60s_away {K : Nat → Prop} {M : Part → Prop} {base : State} (s : State) (hK : ∀ n ∈ [0x12], ¬K n) (hk : Away K M base s) :
    ResAway K M base (execHoldover60s s) := by
  unfold execHoldover60s
  try dsimp only
  repeat' (first
    | with_reducible assumption | with_reducible apply State.begin_away | with_reducible apply State.setFld_away
    | with_reducible apply State.irq_away | with_reducible apply Away.ite | with_reducible apply ResAway.ite
    | with_reducible apply ResAway.next | with_reducible apply Away.four | simp only [Away.mk_iff]
    | (refine Away.pages hK ?_; decide) | (refine Away.pages hK ?_; simp; done) | split | intro _)

theorem execPpsPulse_away {K : Nat → Prop} {M : Part → Prop} {base : State} (s : State) (hk : Away K M base s) :
    ResAway K M base (execPpsPulse s) := by
  unfold execPpsPulse
  try dsimp only
  repeat' (first
    | with_reducible assumption | with_reducible apply State.begin_away | with_reducible apply Away.ite
    | with_reducible apply ResAway.ite | with_reducible apply ResAway.next | with_reducible apply Away.four
    | simp only [Away.mk_iff] | split | intro _)

theorem execPpsFall_away {K : Nat → Prop} {M : Part → Prop} {base : State} (s : State) (hk : Away K M base s) :
    ResAway K M base (execPpsFall s) := by
  unfold execPpsFall
  try dsimp only
  repeat' (first
    | with_reducible assumption | with_reducible apply State.begin_away | with_reducible apply ResAway.next
    | with_reducible apply Away.four | simp only [Away.mk_iff] | split | intro _)

end Sys2Proof.Machine
end

