-- ==== Sys2Proof/Laws/AwayNet.lean ====
section
/-! SUPPORT. What the operations of Machine/Net.lean stay away from (Laws/Away.lean). -/
set_option linter.all false
set_option Elab.async false

namespace Sys2Proof.Machine

theorem State.setNet_away {K : Nat → Prop} {M : Part → Prop} {base : State} (s : State) (p : Port) (n : PortS) (hk : Away K M base s) :
    Away K M base (State.setNet s p n) := by
  unfold State.setNet
  try dsimp only
  repeat' (first
    | with_reducible assumption | with_reducible apply Away.four | simp only [Away.mk_iff] | split | intro _)

theorem State.setAbs_away {K : Nat → Prop} {M : Part → Prop} {base : State} (s : State) (p : Port) (v : Bool) (hk : Away K M base s) :
    Away K M base (State.setAbs s p v) := by
  unfold State.setAbs
  try dsimp only
  repeat' (first
    | with_reducible assumption | with_reducible apply Away.four | simp only [Away.mk_iff] | split | intro _)

theorem State.setLos_away {K : Nat → Prop} {M : Part → Prop} {base : State} (s : State) (p : Port) (v : Bool) (hk : Away K M base s) :
    Away K M base (State.setLos s p v) := by
  unfold State.setLos
  try dsimp only
  repeat' (first
    | with_reducible assumption | with_reducible apply Away.four | simp only [Away.mk_iff] | split | intro _)

theorem State.setTxflt_away {K : Nat → Prop} {M : Part → Prop} {base : State} (s : State) (p : Port) (v : Bool) (hk : Away K M base s) :
    Away K M base (State.setTxflt s p v) := by
  unfold State.setTxflt
  try dsimp only
  repeat' (first
    | with_reducible assumption | with_reducible apply Away.four | simp only [Away.mk_iff] | split | intro _)

theorem State.dropLink_away {K : Nat → Prop} {M : Part → Prop} {base : State} (s : State) (p : Port) (hK : ∀ n ∈ [0x10, 0x11], ¬K n) (hk : Away K M base s) :
    Away K M base (State.dropLink s p) := by
  unfold State.dropLink
  try dsimp only
  repeat' (first
    | with_reducible assumption | with_reducible apply State.setNet_away | with_reducible apply State.inc_away
    | with_reducible apply State.irq_away | with_reducible apply Away.ite | with_reducible apply Away.four
    | with_reducible apply State.setFlds_away | with_reducible apply Away.flds
    | with_reducible apply State.setFld_away | simp only [List.map_cons, List.map_nil] | simp only [Away.mk_iff]
    | (refine Away.pages hK ?_; decide) | (refine Away.net hK ?_ _; decide) | (refine Away.port hK ?_ _; decide)
    | refine Away.cons (a := _) (l := _ :: _) ?_ ?_
    | (refine Away.pages hK ?_; simp [R.NET_LINK_UP, R.NET_LINK_SPEED_ACT, R.NET_LINK_FEC_ACT, R.NET_CNT_LINK_DOWN_N]; done)
    | split | intro _)

theorem State.startAcquire_away {K : Nat → Prop} {M : Part → Prop} {base : State} (s : State) (p : Port) (hK : ∀ n ∈ [0x10, 0x11], ¬K n) (hk : Away K M base s) :
    Away K M base (State.startAcquire s p) := by
  unfold State.startAcquire
  try dsimp only
  repeat' (first
    | with_reducible assumption | with_reducible apply State.setNet_away | with_reducible apply State.setFld_away
    | with_reducible apply Away.ite | with_reducible apply Away.four | simp only [Away.mk_iff]
    | (refine Away.pages hK ?_; decide) | (refine Away.net hK ?_ _; decide) | (refine Away.port hK ?_ _; decide)
    | refine Away.cons (a := _) (l := _ :: _) ?_ ?_
    | (refine Away.pages hK ?_; simp [R.NET_CFG_SPEED, R.NET_LINK_TX_OFF]; done) | split | intro _)

theorem State.stopPort_away {K : Nat → Prop} {M : Part → Prop} {base : State} (s : State) (p : Port) (hK : ∀ n ∈ [0x10, 0x11], ¬K n) (hk : Away K M base s) :
    Away K M base (State.stopPort s p) := by
  unfold State.stopPort
  try dsimp only
  repeat' (first
    | with_reducible assumption | with_reducible apply State.dropLink_away | with_reducible apply State.setNet_away
    | with_reducible apply State.setFld_away | with_reducible apply Away.four | simp only [Away.mk_iff]
    | (refine Away.pages hK ?_; decide) | (refine Away.net hK ?_ _; decide) | (refine Away.port hK ?_ _; decide)
    | refine Away.cons (a := _) (l := _ :: _) ?_ ?_ | (refine Away.pages hK ?_; simp [R.NET_LINK_TX_OFF]; done)
    | split | intro _)

theorem execSfpInsert_away {K : Nat → Prop} {M : Part → Prop} {base : State} (p : Port) (s : State) (hK : ∀ n ∈ [0x10, 0x11], ¬K n) (hk : Away K M base s) :
    ResAway K M base (execSfpInsert p s) := by
  unfold execSfpInsert
  try dsimp only
  repeat' (first
    | with_reducible assumption | with_reducible apply State.begin_away | with_reducible apply State.setAbs_away
    | with_reducible apply State.stopPort_away | with_reducible apply State.irq_away | with_reducible apply Away.ite
    | with_reducible apply ResAway.ite | with_reducible apply ResAway.next | simp only [Away.mk_iff]
    | (refine Away.pages hK ?_; decide) | (refine Away.net hK ?_ _; decide) | (refine Away.port hK ?_ _; decide)
    | refine Away.cons (a := _) (l := _ :: _) ?_ ?_ | (refine Away.pages hK ?_; simp; done) | split | intro _)

theorem execSfpRemove_away {K : Nat → Prop} {M : Part → Prop} {base : State} (p : Port) (s : State) (hK : ∀ n ∈ [0x10, 0x11], ¬K n) (hk : Away K M base s) :
    ResAway K M base (execSfpRemove p s) := by
  unfold execSfpRemove
  try dsimp only
  repeat' (first
    | with_reducible assumption | with_reducible apply State.begin_away | with_reducible apply State.setAbs_away
    | with_reducible apply State.stopPort_away | with_reducible apply State.irq_away | with_reducible apply Away.ite
    | with_reducible apply ResAway.ite | with_reducible apply ResAway.next | simp only [Away.mk_iff]
    | (refine Away.pages hK ?_; decide) | (refine Away.net hK ?_ _; decide) | (refine Away.port hK ?_ _; decide)
    | refine Away.cons (a := _) (l := _ :: _) ?_ ?_ | (refine Away.pages hK ?_; simp; done) | split | intro _)

theorem execLinkTxdisTimer_away {K : Nat → Prop} {M : Part → Prop} {base : State} (p : Port) (s : State) (hK : ∀ n ∈ [0x10, 0x11], ¬K n) (hk : Away K M base s) :
    ResAway K M base (execLinkTxdisTimer p s) := by
  unfold execLinkTxdisTimer
  try dsimp only
  repeat' (first
    | with_reducible assumption | with_reducible apply State.begin_away
    | with_reducible apply State.startAcquire_away | with_reducible apply Away.ite
    | with_reducible apply ResAway.ite | with_reducible apply ResAway.next | simp only [Away.mk_iff]
    | (refine Away.pages hK ?_; decide) | (refine Away.net hK ?_ _; decide) | (refine Away.port hK ?_ _; decide)
    | refine Away.cons (a := _) (l := _ :: _) ?_ ?_ | (refine Away.pages hK ?_; simp; done) | split | intro _)

theorem execLinkSpeedAlternate_away {K : Nat → Prop} {M : Part → Prop} {base : State} (p : Port) (s : State) (hk : Away K M base s) :
    ResAway K M base (execLinkSpeedAlternate p s) := by
  unfold execLinkSpeedAlternate
  try dsimp only
  repeat' (first
    | with_reducible assumption | with_reducible apply State.begin_away | with_reducible apply State.setNet_away
    | with_reducible apply Away.ite | with_reducible apply ResAway.ite | with_reducible apply ResAway.next
    | with_reducible apply Away.four | simp only [Away.mk_iff] | split | intro _)

theorem execLinkDown_away {K : Nat → Prop} {M : Part → Prop} {base : State} (p : Port) (los : Bool) (s : State) (hK : ∀ n ∈ [0x10, 0x11], ¬K n) (hk : Away K M base s) :
    ResAway K M base (execLinkDown p los s) := by
  unfold execLinkDown
  try dsimp only
  repeat' (first
    | with_reducible assumption | with_reducible apply State.begin_away | with_reducible apply State.setLos_away
    | with_reducible apply State.dropLink_away | with_reducible apply State.setNet_away
    | with_reducible apply Away.ite | with_reducible apply ResAway.ite | with_reducible apply ResAway.next
    | with_reducible apply Away.four | simp only [Away.mk_iff] | (refine Away.pages hK ?_; decide)
    | (refine Away.net hK ?_ _; decide) | (refine Away.port hK ?_ _; decide)
    | refine Away.cons (a := _) (l := _ :: _) ?_ ?_ | (refine Away.pages hK ?_; simp [R.NET_CFG_SPEED]; done)
    | split | intro _)

theorem execTxFault_away {K : Nat → Prop} {M : Part → Prop} {base : State} (p : Port) (s : State) (hK : ∀ n ∈ [0x06, 0x10, 0x11], ¬K n) (hk : Away K M base s) :
    ResAway K M base (execTxFault p s) := by
  unfold execTxFault
  try dsimp only
  repeat' (first
    | with_reducible assumption | with_reducible apply State.begin_away | with_reducible apply State.setTxflt_away
    | with_reducible apply State.setNet_away | with_reducible apply State.irq_away
    | with_reducible apply State.stopPort_away | with_reducible apply State.fence_away
    | with_reducible apply State.setFld_away | with_reducible apply Away.ite | with_reducible apply ResAway.ite
    | with_reducible apply ResAway.next | with_reducible apply Away.four | simp only [Away.mk_iff]
    | (refine Away.pages hK ?_; decide) | (refine Away.net hK ?_ _; decide) | (refine Away.port hK ?_ _; decide)
    | refine Away.cons (a := _) (l := _ :: _) ?_ ?_ | (refine Away.pages hK ?_; simp [R.NET_LINK_TX_OFF]; done)
    | split | intro _)

theorem execTxFaultRetry_away {K : Nat → Prop} {M : Part → Prop} {base : State} (p : Port) (level : Bool) (s : State) (hK : ∀ n ∈ [0x10, 0x11], ¬K n) (hk : Away K M base s) :
    ResAway K M base (execTxFaultRetry p level s) := by
  unfold execTxFaultRetry
  try dsimp only
  repeat' (first
    | with_reducible assumption | with_reducible apply State.begin_away | with_reducible apply State.setTxflt_away
    | with_reducible apply State.setNet_away | with_reducible apply State.setFld_away
    | with_reducible apply Away.ite | with_reducible apply ResAway.ite | with_reducible apply ResAway.next
    | with_reducible apply ResAway.fault | with_reducible apply Away.four | simp only [Away.mk_iff]
    | (refine Away.pages hK ?_; decide) | (refine Away.net hK ?_ _; decide) | (refine Away.port hK ?_ _; decide)
    | refine Away.cons (a := _) (l := _ :: _) ?_ ?_ | (refine Away.pages hK ?_; simp [R.NET_LINK_TX_OFF]; done)
    | split | intro _)

theorem State.dropFrame_away {K : Nat → Prop} {M : Part → Prop} {base : State} (s : State) (p : Port) (hK : ∀ n ∈ [0x10, 0x11], ¬K n) (hk : Away K M base s) :
    Away K M base (State.dropFrame s p) := by
  unfold State.dropFrame
  repeat' (first
    | with_reducible assumption | with_reducible apply State.inc_away | with_reducible apply State.irq_away
    | simp only [Away.mk_iff] | (refine Away.pages hK ?_; decide) | (refine Away.net hK ?_ _; decide)
    | (refine Away.port hK ?_ _; decide) | refine Away.cons (a := _) (l := _ :: _) ?_ ?_
    | (refine Away.pages hK ?_; simp [R.NET_CNT_FW_DROP_N]; done) | split | intro _)

theorem State.ringWrite_away {K : Nat → Prop} {M : Part → Prop} {base : State} (s : State) (p : Port) (bytes : List Byte) (hK : ∀ n ∈ [0x10, 0x11, 0x49], ¬K n) (hM : ∀ p ∈ [.sram], ¬M p) (hk : Away K M base s) :
    Away K M base (State.ringWrite s p bytes) := by
  unfold State.ringWrite
  try dsimp only
  repeat' (first
    | with_reducible assumption | with_reducible apply State.dropFrame_away | with_reducible apply State.irq_away
    | with_reducible apply State.sramWrite_away | with_reducible apply State.setFld_away
    | with_reducible apply Away.ite | with_reducible apply Away.four | simp only [Away.mk_iff]
    | (refine Away.pages hK ?_; decide) | (refine Away.net hK ?_ _; decide) | (refine Away.port hK ?_ _; decide)
    | refine Away.cons (a := _) (l := _ :: _) ?_ ?_ | (refine Away.pages hK ?_; simp; done)
    | (refine Away.parts hM ?_; decide) | split | intro _)

theorem execNetFrameReceive_away {K : Nat → Prop} {M : Part → Prop} {base : State} (f : NetFrame) (s : State) (hK : ∀ n ∈ [0x10, 0x11, 0x49], ¬K n) (hM : ∀ p ∈ [.sram], ¬M p) (hk : Away K M base s) :
    ResAway K M base (execNetFrameReceive f s) := by
  unfold execNetFrameReceive
  try dsimp only
  repeat' (first
    | with_reducible assumption | with_reducible apply State.begin_away | with_reducible apply State.inc_away
    | with_reducible apply State.emit_away | with_reducible apply State.ringWrite_away
    | with_reducible apply Away.ite | with_reducible apply ResAway.ite | with_reducible apply ResAway.next
    | simp only [Away.mk_iff] | (refine Away.pages hK ?_; decide) | (refine Away.net hK ?_ _; decide)
    | (refine Away.port hK ?_ _; decide) | refine Away.cons (a := _) (l := _ :: _) ?_ ?_
    | (refine Away.pages hK ?_; simp [R.NET_CNT_RX_ERR_N, R.NET_CNT_RX_OK_N, R.NET_CNT_FILTER_N, R.LCP_CFG_EN]; done)
    | (refine Away.parts hM ?_; decide) | split | intro _)

theorem State.sendIgmp_away {K : Nat → Prop} {M : Part → Prop} {base : State} (s : State) (p : Port) (rs : List IgmpRecord) (hK : ∀ n ∈ [0x10, 0x11], ¬K n) (hk : Away K M base s) :
    Away K M base (State.sendIgmp s p rs) := by
  unfold State.sendIgmp
  try dsimp only
  repeat' (first
    | with_reducible assumption | with_reducible apply State.emit_away | with_reducible apply State.inc_away
    | with_reducible apply Away.ite | with_reducible apply Away.foldl | with_reducible apply Away.foldlFst
    | simp only [Away.mk_iff] | (refine Away.pages hK ?_; decide) | (refine Away.net hK ?_ _; decide)
    | (refine Away.port hK ?_ _; decide) | refine Away.cons (a := _) (l := _ :: _) ?_ ?_
    | (refine Away.pages hK ?_; simp [R.NET_CNT_IGMP_TX_N]; done) | split | intro _)

theorem State.reportChange_away {K : Nat → Prop} {M : Part → Prop} {base : State} (s : State) (p : Port) (rs : List IgmpRecord) (hK : ∀ n ∈ [0x10, 0x11], ¬K n) (hk : Away K M base s) :
    Away K M base (State.reportChange s p rs) := by
  unfold State.reportChange
  try dsimp only
  repeat' (first
    | with_reducible assumption | with_reducible apply State.setNet_away | with_reducible apply State.sendIgmp_away
    | with_reducible apply Away.ite | with_reducible apply Away.four | simp only [Away.mk_iff]
    | (refine Away.pages hK ?_; decide) | (refine Away.net hK ?_ _; decide) | (refine Away.port hK ?_ _; decide)
    | refine Away.cons (a := _) (l := _ :: _) ?_ ?_ | (refine Away.pages hK ?_; simp; done) | split | intro _)

theorem State.reportAll_away {K : Nat → Prop} {M : Part → Prop} {base : State} (s : State) (p : Port) (hK : ∀ n ∈ [0x10, 0x11], ¬K n) (hk : Away K M base s) :
    Away K M base (State.reportAll s p) := by
  unfold State.reportAll
  repeat' (first
    | with_reducible assumption | with_reducible apply State.reportChange_away | simp only [Away.mk_iff]
    | (refine Away.pages hK ?_; decide) | (refine Away.net hK ?_ _; decide) | (refine Away.port hK ?_ _; decide)
    | refine Away.cons (a := _) (l := _ :: _) ?_ ?_ | (refine Away.pages hK ?_; simp; done) | split | intro _)

theorem State.rejoin_away {K : Nat → Prop} {M : Part → Prop} {base : State} (s : State) (before : State) (p : Port) (hK : ∀ n ∈ [0x10, 0x11], ¬K n) (hk : Away K M base s) :
    Away K M base (State.rejoin s before p) := by
  unfold State.rejoin
  repeat' (first
    | with_reducible assumption | with_reducible apply State.setFld_away
    | with_reducible apply State.reportChange_away | simp only [Away.mk_iff] | (refine Away.pages hK ?_; decide)
    | (refine Away.net hK ?_ _; decide) | (refine Away.port hK ?_ _; decide)
    | refine Away.cons (a := _) (l := _ :: _) ?_ ?_ | (refine Away.pages hK ?_; simp [R.NET_LINK_GROUPS]; done)
    | split | intro _)

theorem State.rejoinBoth_away {K : Nat → Prop} {M : Part → Prop} {base : State} (s : State) (before : State) (hK : ∀ n ∈ [0x10, 0x11], ¬K n) (hk : Away K M base s) :
    Away K M base (State.rejoinBoth s before) := by
  unfold State.rejoinBoth
  repeat' (first
    | with_reducible assumption | with_reducible apply State.rejoin_away | simp only [Away.mk_iff]
    | (refine Away.pages hK ?_; decide) | (refine Away.net hK ?_ _; decide) | (refine Away.port hK ?_ _; decide)
    | refine Away.cons (a := _) (l := _ :: _) ?_ ?_ | (refine Away.pages hK ?_; simp; done) | split | intro _)

theorem State.igmpModeNow_away {K : Nat → Prop} {M : Part → Prop} {base : State} (s : State) (p : Port) (hk : Away K M base s) :
    Away K M base (State.igmpModeNow s p) := by
  unfold State.igmpModeNow
  try dsimp only
  repeat' (first
    | with_reducible assumption | with_reducible apply State.setNet_away | with_reducible apply Away.ite
    | with_reducible apply Away.four | simp only [Away.mk_iff] | split | intro _)

theorem execIgmpQueryReceive_away {K : Nat → Prop} {M : Part → Prop} {base : State} (p : Port) (q : IgmpQuery) (s : State) (hk : Away K M base s) :
    ResAway K M base (execIgmpQueryReceive p q s) := by
  unfold execIgmpQueryReceive
  try dsimp only
  repeat' (first
    | with_reducible assumption | with_reducible apply State.begin_away | with_reducible apply State.setNet_away
    | with_reducible apply State.igmpModeNow_away | with_reducible apply Away.ite | with_reducible apply ResAway.ite
    | with_reducible apply ResAway.next | with_reducible apply Away.four | simp only [Away.mk_iff] | split | intro _)

theorem execIgmpReportTimer_away {K : Nat → Prop} {M : Part → Prop} {base : State} (p : Port) (s : State) (hK : ∀ n ∈ [0x10, 0x11], ¬K n) (hk : Away K M base s) :
    ResAway K M base (execIgmpReportTimer p s) := by
  unfold execIgmpReportTimer
  try dsimp only
  repeat' (first
    | with_reducible assumption | with_reducible apply State.begin_away
    | with_reducible apply State.igmpModeNow_away | with_reducible apply State.setNet_away
    | with_reducible apply State.sendIgmp_away | with_reducible apply Away.ite | with_reducible apply ResAway.ite
    | with_reducible apply ResAway.next | with_reducible apply Away.four | simp only [Away.mk_iff]
    | (refine Away.pages hK ?_; decide) | (refine Away.net hK ?_ _; decide) | (refine Away.port hK ?_ _; decide)
    | refine Away.cons (a := _) (l := _ :: _) ?_ ?_ | (refine Away.pages hK ?_; simp; done) | split | intro _)

theorem execLinkUp_away {K : Nat → Prop} {M : Part → Prop} {base : State} (p : Port) (fecAligned : Bool) (s : State) (hK : ∀ n ∈ [0x10, 0x11], ¬K n) (hk : Away K M base s) :
    ResAway K M base (execLinkUp p fecAligned s) := by
  unfold execLinkUp
  try dsimp only
  repeat' (first
    | with_reducible assumption | with_reducible apply State.begin_away | with_reducible apply State.setLos_away
    | with_reducible apply State.irq_away | with_reducible apply State.reportAll_away
    | with_reducible apply Away.ite | with_reducible apply ResAway.ite | with_reducible apply ResAway.next
    | with_reducible apply State.setFlds_away | with_reducible apply Away.flds
    | with_reducible apply State.setFld_away | simp only [List.map_cons, List.map_nil] | simp only [Away.mk_iff]
    | (refine Away.pages hK ?_; decide) | (refine Away.net hK ?_ _; decide) | (refine Away.port hK ?_ _; decide)
    | refine Away.cons (a := _) (l := _ :: _) ?_ ?_
    | (refine Away.pages hK ?_; simp [R.NET_CFG_FEC, R.NET_LINK_UP, R.NET_LINK_SPEED_ACT, R.NET_LINK_FEC_ACT]; done)
    | split | intro _)

end Sys2Proof.Machine
end

