-- ==== Sys2Proof/Laws/AwayPixel.lean ====
section
/-! SUPPORT. What the operations of Machine/Pixel.lean stay away from (Laws/Away.lean). -/
set_option linter.all false
set_option Elab.async false

namespace Sys2Proof.Machine

end Sys2Proof.Machine
end

