-- ==== Sys2Proof/Laws/AwayIngest.lean ====
section
/-! SUPPORT. What the operations of Machine/Ingest.lean stay away from (Laws/Away.lean). -/
set_option linter.all false
set_option Elab.async false

namespace Sys2Proof.Machine

theorem State.setWin_away {K : Nat → Prop} {M : Part → Prop} {base : State} (s : State) (k : Nat) (w : StreamWin) (hk : Away K M base s) :
    Away K M base (State.setWin s k w) := by
  unfold State.setWin
  try dsimp only
  repeat' (first
    | with_reducible assumption | with_reducible apply Away.four | simp only [Away.mk_iff] | split | intro _)

theorem State.writePixel_away {K : Nat → Prop} {M : Part → Prop} {base : State} (s : State) (sec : List Byte) (buf k x y : Nat) (codes : Nat × Nat × Nat) (hM : ∀ p ∈ [.store], ¬M p) (hk : Away K M base s) :
    Away K M base (State.writePixel s sec buf k x y codes) := by
  unfold State.writePixel
  try dsimp only
  repeat' (first
    | with_reducible assumption | with_reducible apply State.storeWrite_away | with_reducible apply Away.ite
    | with_reducible apply Away.foldl | with_reducible apply Away.foldlFst | simp only [Away.mk_iff]
    | (refine Away.parts hM ?_; decide) | split | intro _)

theorem State.writeRun_away {K : Nat → Prop} {M : Part → Prop} {base : State} (sec : List Byte) (buf k : Nat) (hM : ∀ p ∈ [.store], ¬M p) :
    ∀ (l : List (Nat × Nat × Nat)) (x y : Nat) (s : State), Away K M base s → Away K M base (s.writeRun sec buf k x y l)
  | [], _, _, _, h => h
  | p :: ps, x, y, s, h => State.writeRun_away sec buf k (Away.parts hM (by decide)) ps (x + 1) y _ (State.writePixel_away s sec buf k x y p (Away.parts hM (by decide)) h)

theorem State.notePixels_away {K : Nat → Prop} {M : Part → Prop} {base : State} (s : State) (f buf : Nat) (px : List Nat) (hk : Away K M base s) :
    Away K M base (State.notePixels s f buf px) := by
  unfold State.notePixels
  try dsimp only
  repeat' (first
    | with_reducible assumption | with_reducible apply Away.ite | with_reducible apply Away.four
    | simp only [Away.mk_iff] | split | intro _)

theorem State.writeSrds_away {K : Nat → Prop} {M : Part → Prop} {base : State} (sec : List Byte) (f buf k : Nat) (hM : ∀ p ∈ [.store], ¬M p) :
    ∀ (l : List Srd) (data : List Byte) (s : State), Away K M base s → Away K M base (s.writeSrds sec f buf k data l)
  | [], _, _, h => h
  | r :: rs, data, s, h =>
    State.writeSrds_away sec f buf k (Away.parts hM (by decide)) rs (data.drop r.len) _
      (State.notePixels_away _ f buf _ (State.writeRun_away sec buf k (Away.parts hM (by decide)) _ r.off r.row s h))

theorem State.refusePacket_away {K : Nat → Prop} {M : Part → Prop} {base : State} (s : State) (k : Nat) (p : Port) (code : Nat) (hK : ∀ n ∈ [0x14], ¬K n) (hk : Away K M base s) :
    Away K M base (State.refusePacket s k p code) := by
  unfold State.refusePacket
  repeat' (first
    | with_reducible assumption | with_reducible apply State.inc_away | with_reducible apply State.irq_away
    | with_reducible apply State.setFlds_away | with_reducible apply Away.flds
    | with_reducible apply State.setFld_away | simp only [List.map_cons, List.map_nil] | simp only [Away.mk_iff]
    | (refine Away.pages hK ?_; decide)
    | (refine Away.pages hK ?_; simp [R.INGEST_ST_REFUSED_N, R.INGEST_BAD_LAST_CODE, R.INGEST_BAD_LAST_STREAM, R.INGEST_BAD_LAST_PORT]; done)
    | split | intro _)

theorem State.pairCopy_away {K : Nat → Prop} {M : Part → Prop} {base : State} (s : State) (k : Nat) (a : Accepted) (p : MediaPacket) (hK : ∀ n ∈ [0x14], ¬K n) (hk : Away K M base s) :
    Away K M base (State.pairCopy s k a p) := by
  unfold State.pairCopy
  try dsimp only
  repeat' (first
    | with_reducible assumption | with_reducible apply State.setWin_away | with_reducible apply State.maxFld_away
    | with_reducible apply State.satInc_away | with_reducible apply State.irq_away | with_reducible apply Away.ite
    | with_reducible apply Away.four | simp only [Away.mk_iff] | (refine Away.pages hK ?_; decide)
    | (refine Away.pages hK ?_; simp [R.INGEST_ST_SKEW_MAX_US, R.INGEST_ST_SKEW_OVER]; done) | split | intro _)

theorem State.mismatch_away {K : Nat → Prop} {M : Part → Prop} {base : State} (s : State) (k f : Nat) (hK : ∀ n ∈ [0x06, 0x14], ¬K n) (hk : Away K M base s) :
    Away K M base (State.mismatch s k f) := by
  unfold State.mismatch
  try dsimp only
  repeat' (first
    | with_reducible assumption | with_reducible apply State.inc_away | with_reducible apply State.event_away
    | with_reducible apply State.setWin_away | with_reducible apply Away.ite | with_reducible apply Away.four
    | simp only [Away.mk_iff] | (refine Away.pages hK ?_; decide)
    | (refine Away.pages hK ?_; simp [R.INGEST_ST_MISMATCH_N]; done) | split | intro _)

theorem State.duplicate_away {K : Nat → Prop} {M : Part → Prop} {base : State} (s : State) (k : Nat) (a : Accepted) (p : MediaPacket) (hK : ∀ n ∈ [0x06, 0x14], ¬K n) (hk : Away K M base s) :
    Away K M base (State.duplicate s k a p) := by
  unfold State.duplicate
  try dsimp only
  repeat' (first
    | with_reducible assumption | with_reducible apply State.inc_away | with_reducible apply State.pairCopy_away
    | with_reducible apply State.mismatch_away | with_reducible apply Away.ite | simp only [Away.mk_iff]
    | (refine Away.pages hK ?_; decide) | (refine Away.pages hK ?_; simp [R.INGEST_ST_DUP_N]; done) | split
    | intro _)

theorem State.openFrame_away {K : Nat → Prop} {M : Part → Prop} {base : State} (s : State) (sec : List Byte) (f : Nat) (hK : ∀ n ∈ [0x18, 0x19], ¬K n) (hM : ∀ p ∈ [.store], ¬M p) (hk : Away K M base s) :
    Away K M base (State.openFrame s sec f) := by
  unfold State.openFrame
  repeat' (first
    | with_reducible assumption | with_reducible apply State.allocBuf_away | with_reducible apply Away.ite
    | simp only [Away.mk_iff] | (refine Away.pages hK ?_; decide) | (refine Away.pages hK ?_; simp; done)
    | (refine Away.parts hM ?_; decide) | split | intro _)

theorem State.writePacket_away {K : Nat → Prop} {M : Part → Prop} {base : State} (s : State) (sec : List Byte) (k f : Nat) (p : MediaPacket) (hK : ∀ n ∈ [0x19], ¬K n) (hM : ∀ p ∈ [.store], ¬M p) (hk : Away K M base s) :
    Away K M base (State.writePacket s sec k f p) := by
  unfold State.writePacket
  try dsimp only
  repeat' (first
    | with_reducible assumption | with_reducible apply State.writeSrds_away
    | with_reducible apply State.arbTraffic_away | with_reducible apply Away.ite | simp only [Away.mk_iff]
    | (refine Away.pages hK ?_; decide) | (refine Away.pages hK ?_; simp [R.INGEST_ST_CFG_FORMAT]; done)
    | (refine Away.parts hM ?_; decide) | split | intro _)

theorem State.acceptPacket_away {K : Nat → Prop} {M : Part → Prop} {base : State} (s : State) (sec : List Byte) (k f num epoch : Nat) (p : MediaPacket) (hK : ∀ n ∈ [0x14, 0x18, 0x19], ¬K n) (hM : ∀ p ∈ [.store], ¬M p) (hk : Away K M base s) :
    Away K M base (State.acceptPacket s sec k f num epoch p) := by
  unfold State.acceptPacket
  try dsimp only
  repeat' (first
    | with_reducible assumption | with_reducible apply State.openFrame_away | with_reducible apply State.setWin_away
    | with_reducible apply State.inc_away | with_reducible apply State.writePacket_away | simp only [Away.mk_iff]
    | (refine Away.pages hK ?_; decide) | (refine Away.pages hK ?_; simp [R.INGEST_ST_PKTS_N]; done)
    | (refine Away.parts hM ?_; decide) | split | intro _)

theorem State.preferA_away {K : Nat → Prop} {M : Part → Prop} {base : State} (s : State) (sec : List Byte) (k f : Nat) (b : Accepted) (p : MediaPacket) (hK : ∀ n ∈ [0x06, 0x14, 0x18, 0x19], ¬K n) (hM : ∀ p ∈ [.store], ¬M p) (hk : Away K M base s) :
    Away K M base (State.preferA s sec k f b p) := by
  unfold State.preferA
  try dsimp only
  repeat' (first
    | with_reducible assumption | with_reducible apply State.inc_away | with_reducible apply State.setWin_away
    | with_reducible apply State.maxFld_away | with_reducible apply State.openFrame_away
    | with_reducible apply State.writePacket_away | with_reducible apply State.mismatch_away
    | with_reducible apply Away.ite | with_reducible apply Away.four | simp only [Away.mk_iff]
    | (refine Away.pages hK ?_; decide)
    | (refine Away.pages hK ?_; simp [R.INGEST_ST_DUP_N, R.INGEST_ST_SKEW_MAX_US]; done)
    | (refine Away.parts hM ?_; decide) | split | intro _)

theorem State.mergePacket_away {K : Nat → Prop} {M : Part → Prop} {base : State} (s : State) (t : Timing) (sec : List Byte) (k f epoch : Nat) (p : MediaPacket) (hK : ∀ n ∈ [0x06, 0x14, 0x18, 0x19], ¬K n) (hM : ∀ p ∈ [.store], ¬M p) (hk : Away K M base s) :
    Away K M base (State.mergePacket s t sec k f epoch p) := by
  unfold State.mergePacket
  try dsimp only
  repeat' (first
    | with_reducible assumption | with_reducible apply State.refusePacket_away | with_reducible apply State.inc_away
    | with_reducible apply State.preferA_away | with_reducible apply State.duplicate_away
    | with_reducible apply State.acceptPacket_away | with_reducible apply Away.ite | simp only [Away.mk_iff]
    | (refine Away.pages hK ?_; decide)
    | (refine Away.pages hK ?_; simp [R.INGEST_ST_LATE_N, R.INGEST_ST_CFG_FORMAT]; done)
    | (refine Away.parts hM ?_; decide) | split | intro _)

theorem State.ingestEcc_away {K : Nat → Prop} {M : Part → Prop} {base : State} (s : State) (e : Ecc) (hK : ∀ n ∈ [0x06, 0x14], ¬K n) (hk : Away K M base s) :
    Away K M base (State.ingestEcc s e) := by
  unfold State.ingestEcc
  repeat' (first
    | with_reducible assumption | with_reducible apply State.fenceBlock_away | with_reducible apply Away.ite
    | simp only [Away.mk_iff] | (refine Away.pages hK ?_; decide) | (refine Away.pages hK ?_; simp; done) | split
    | intro _)

theorem State.mediaPacket_away {K : Nat → Prop} {M : Part → Prop} {base : State} (s : State) (p : MediaPacket) (hK : ∀ n ∈ [0x06, 0x14, 0x18, 0x19], ¬K n) (hM : ∀ p ∈ [.store], ¬M p) (hk : Away K M base s) :
    Away K M base (State.mediaPacket s p).1 := by
  unfold State.mediaPacket
  try dsimp only
  repeat' (first
    | with_reducible assumption | with_reducible apply State.ingestEcc_away
    | with_reducible apply State.refusePacket_away | with_reducible apply State.mergePacket_away
    | with_reducible apply Away.ite | simp only [Away.mk_iff] | (refine Away.pages hK ?_; decide)
    | (refine Away.pages hK ?_; simp; done) | (refine Away.parts hM ?_; decide) | split | intro _)

theorem State.writeRows_away {K : Nat → Prop} {M : Part → Prop} {base : State} (sec : List Byte) (f buf k w : Nat) (hM : ∀ p ∈ [.store], ¬M p) :
    ∀ (n y : Nat) (ps : List (Nat × Nat × Nat)) (s : State), Away K M base s → Away K M base (s.writeRows sec f buf k w y n ps)
  | 0, _, _, _, h => h
  | n + 1, y, ps, s, h =>
    State.writeRows_away sec f buf k w (Away.parts hM (by decide)) n (y + 1) (ps.drop w) _
      (State.notePixels_away _ f buf _ (State.writeRun_away sec buf k (Away.parts hM (by decide)) (ps.take w) 0 y s h))

theorem State.decodeError_away {K : Nat → Prop} {M : Part → Prop} {base : State} (s : State) (k f slice code : Nat) (hK : ∀ n ∈ [0x15], ¬K n) (hk : Away K M base s) :
    Away K M base (State.decodeError s k f slice code) := by
  unfold State.decodeError
  try dsimp only
  repeat' (first
    | with_reducible assumption | with_reducible apply State.setWin_away | with_reducible apply State.inc_away
    | with_reducible apply Away.four | with_reducible apply State.setFlds_away | with_reducible apply Away.flds
    | with_reducible apply State.setFld_away | simp only [List.map_cons, List.map_nil] | simp only [Away.mk_iff]
    | (refine Away.pages hK ?_; decide) | (refine Away.pages hK ?_; simp; done) | split | intro _)

theorem State.sliceDecoded_away {K : Nat → Prop} {M : Part → Prop} {base : State} (s : State) (sec : List Byte) (k f row rows us : Nat) (ps : List (Nat × Nat × Nat)) (hK : ∀ n ∈ [0x15, 0x19], ¬K n) (hM : ∀ p ∈ [.store], ¬M p) (hk : Away K M base s) :
    Away K M base (State.sliceDecoded s sec k f row rows us ps) := by
  unfold State.sliceDecoded
  try dsimp only
  repeat' (first
    | with_reducible assumption | with_reducible apply State.writeRows_away
    | with_reducible apply State.arbTraffic_away | with_reducible apply State.setWin_away
    | with_reducible apply State.inc_away | with_reducible apply State.maxFld_away | with_reducible apply Away.ite
    | with_reducible apply Away.four | simp only [Away.mk_iff] | (refine Away.pages hK ?_; decide)
    | (refine Away.pages hK ?_; simp [R.INGEST_ST_RASTER_W, R.XSDEC_CNT_FRAMES_N, R.XSDEC_PEAK_US_US]; done)
    | (refine Away.parts hM ?_; decide) | split | intro _)

theorem State.xsdecSlice_away {K : Nat → Prop} {M : Part → Prop} {base : State} (s : State) (k f slice row rows last us : Nat) (h : Option JxsHeader) (ecc : Ecc) (r : SliceResult) (hK : ∀ n ∈ [0x06, 0x15, 0x19], ¬K n) (hM : ∀ p ∈ [.store], ¬M p) (hk : Away K M base s) :
    Away K M base (State.xsdecSlice s k f slice row rows last us h ecc r) := by
  unfold State.xsdecSlice
  try dsimp only
  repeat' (first
    | with_reducible assumption | with_reducible apply State.fenceBlock_away
    | with_reducible apply State.decodeError_away | with_reducible apply State.irq_away
    | with_reducible apply State.sliceDecoded_away | with_reducible apply Away.ite | simp only [Away.mk_iff]
    | (refine Away.pages hK ?_; decide) | (refine Away.pages hK ?_; simp [R.INGEST_ST_CFG_FORMAT]; done)
    | (refine Away.parts hM ?_; decide) | split | intro _)

theorem State.overrun_away {K : Nat → Prop} {M : Part → Prop} {base : State} (s : State) (sec : List Byte) (f k : Nat) (hK : ∀ n ∈ [0x15], ¬K n) (hk : Away K M base s) :
    Away K M base (State.overrun s sec f k) := by
  unfold State.overrun
  try dsimp only
  repeat' (first
    | with_reducible assumption | with_reducible apply State.drawn_away
    | with_reducible apply State.decodeError_away | with_reducible apply State.irq_away
    | with_reducible apply Away.ite | simp only [Away.mk_iff] | (refine Away.pages hK ?_; decide)
    | (refine Away.pages hK ?_; simp [R.INGEST_ST_CFG_FORMAT]; done) | split | intro _)

theorem State.dropKept_away {K : Nat → Prop} {M : Part → Prop} {base : State} (s : State) (lp f : Nat) (hk : Away K M base s) :
    Away K M base (State.dropKept s lp f) := by
  unfold State.dropKept
  try dsimp only
  repeat' (first
    | with_reducible assumption | with_reducible apply Away.ite | with_reducible apply Away.four
    | simp only [Away.mk_iff] | split | intro _)

theorem State.closeFrame_away {K : Nat → Prop} {M : Part → Prop} {base : State} (s : State) (t : Timing) (f : Nat) (hK : ∀ n ∈ [0x10, 0x11, 0x14, 0x15, 0x18], ¬K n) (hk : Away K M base s) :
    Away K M base (State.closeFrame s t f) := by
  unfold State.closeFrame
  try dsimp only
  repeat' (first
    | with_reducible assumption | with_reducible apply State.overrun_away | with_reducible apply State.inc_away
    | with_reducible apply State.setFld_away | with_reducible apply State.irq_away
    | with_reducible apply State.freeBuf_away | with_reducible apply State.dropKept_away
    | with_reducible apply State.rejoinBoth_away | with_reducible apply Away.ite | with_reducible apply Away.foldl
    | with_reducible apply Away.foldlFst | with_reducible apply Away.four | with_reducible apply State.setFlds_away
    | with_reducible apply Away.flds | with_reducible apply State.setFld_away
    | simp only [List.map_cons, List.map_nil] | simp only [Away.mk_iff] | (refine Away.pages hK ?_; decide)
    | (refine Away.net hK ?_ _; decide) | (refine Away.port hK ?_ _; decide)
    | refine Away.cons (a := _) (l := _ :: _) ?_ ?_
    | (refine Away.pages hK ?_; simp [R.INGEST_ST_FRAMES_OK_N, R.INGEST_ST_FRAMES_INC_N, R.INGEST_FRAME_STAT_VALID, R.INGEST_FRAME_STAT_INC, R.INGEST_FRAME_STAT_COMPLETE, R.INGEST_MISS_N]; done)
    | split | intro _)

end Sys2Proof.Machine
end

