-- ==== Sys2Proof/Laws/AwayGov.lean ====
section
/-! SUPPORT. What the operations of Machine/Gov.lean stay away from (Laws/Away.lean). -/
set_option linter.all false
set_option Elab.async false

namespace Sys2Proof.Machine

theorem State.noteLut_away {K : Nat → Prop} {M : Part → Prop} {base : State} (s : State) (a : Nat) (hK : ∀ n ∈ [0x06, 0x18, 0x19, 0x20, 0x38], ¬K n) (hk : Away K M base s) :
    Away K M base (State.noteLut s a) := by
  unfold State.noteLut
  try dsimp only
  repeat' (first
    | with_reducible assumption | with_reducible apply State.inc_away | with_reducible apply State.event_away
    | with_reducible apply State.blockReads_away | with_reducible apply Away.foldl
    | with_reducible apply Away.foldlFst | simp only [Away.mk_iff] | (refine Away.pages hK ?_; decide)
    | (refine Away.pages hK ?_; simp; done) | split | intro _)

theorem State.readsBank_away {K : Nat → Prop} {M : Part → Prop} {base : State} (s : State) (a : Nat) (hK : ∀ n ∈ [0x06, 0x18, 0x19, 0x20, 0x38], ¬K n) (hk : Away K M base s) :
    Away K M base (State.readsBank s a) := by
  unfold State.readsBank
  try dsimp only
  repeat' (first
    | with_reducible assumption | with_reducible apply State.readsSec_away | with_reducible apply State.noteLut_away
    | with_reducible apply State.blockReads_away | simp only [Away.mk_iff] | (refine Away.pages hK ?_; decide)
    | (refine Away.pages hK ?_; simp; done) | split | intro _)

theorem State.loadBank_away {K : Nat → Prop} {M : Part → Prop} {base : State} (s : State) (k : Nat) (hK : ∀ n ∈ [0x06, 0x18, 0x19, 0x20, 0x23, 0x38], ¬K n) (hk : Away K M base s) :
    Away K M base (State.loadBank s k) := by
  unfold State.loadBank
  try dsimp only
  repeat' (first
    | with_reducible assumption | with_reducible apply State.readsBank_away
    | with_reducible apply State.fenceBlock_away | with_reducible apply Away.four | simp only [Away.mk_iff]
    | (refine Away.pages hK ?_; decide) | (refine Away.pages hK ?_; simp; done) | split | intro _)

theorem State.startSurvey_away {K : Nat → Prop} {M : Part → Prop} {base : State} (s : State) (k : Nat) (hK : ∀ n ∈ [0x23], ¬K n) (hk : Away K M base s) :
    Away K M base (State.startSurvey s k) := by
  unfold State.startSurvey
  try dsimp only
  repeat' (first
    | with_reducible assumption | with_reducible apply Away.four | with_reducible apply State.setFlds_away
    | with_reducible apply Away.flds | with_reducible apply State.setFld_away
    | simp only [List.map_cons, List.map_nil] | simp only [Away.mk_iff] | (refine Away.pages hK ?_; decide)
    | (refine Away.pages hK ?_; simp; done) | split | intro _)

theorem State.evalUnder_away {K : Nat → Prop} {M : Part → Prop} {base : State} (s : State) (b : Bank) (src : PixelSource) (pixels : List Nat) (from' : GovSums) (hK : ∀ n ∈ [0x06, 0x18, 0x19, 0x23, 0x38], ¬K n) (hk : Away K M base s) :
    Away K M base (State.evalUnder s b src pixels from').1 := by
  unfold State.evalUnder
  try dsimp only
  repeat' (first
    | with_reducible assumption | with_reducible apply State.readWords_away
    | with_reducible apply State.arbTraffic_away | with_reducible apply State.add_away
    | with_reducible apply State.irq_away | with_reducible apply State.fenceBlock_away
    | with_reducible apply Away.ite | with_reducible apply Away.foldl | with_reducible apply Away.foldlFst
    | with_reducible apply Away.foldr | simp only [Away.mk_iff] | (refine Away.pages hK ?_; decide)
    | (refine Away.pages hK ?_; simp; done) | split | intro _)

theorem State.evalAll_away {K : Nat → Prop} {M : Part → Prop} {base : State} (src : Bank → PixelSource) (pixels : Bank → List Nat) (sums : List GovSums) (hK : ∀ n ∈ [0x06, 0x18, 0x19, 0x23, 0x38], ¬K n) :
    ∀ (l : List Bank) (s : State), Away K M base s → Away K M base (s.evalAll src pixels sums l).1
  | [], _, h => h
  | b :: bs, s, h => State.evalAll_away src pixels sums (Away.pages hK (by decide)) bs _ (State.evalUnder_away s b (src b) (pixels b) _ (Away.pages hK (by decide)) h)

theorem State.evalFrame_away {K : Nat → Prop} {M : Part → Prop} {base : State} (s : State) (x : FrameFigures) (hK : ∀ n ∈ [0x06, 0x18, 0x19, 0x23, 0x38], ¬K n) (hk : Away K M base s) :
    Away K M base (State.evalFrame s x) := by
  unfold State.evalFrame
  try dsimp only
  repeat' (first
    | with_reducible assumption | with_reducible apply State.evalAll_away | with_reducible apply State.setFld_away
    | with_reducible apply Away.foldl | with_reducible apply Away.foldlFst | with_reducible apply Away.four
    | simp only [Away.mk_iff] | (refine Away.pages hK ?_; decide)
    | (refine Away.pages hK ?_; simp [R.GOV_RAIL_PRED_UW]; done) | split | intro _)

theorem State.finishFigures_away {K : Nat → Prop} {M : Part → Prop} {base : State} (s : State) (f : Nat) (hK : ∀ n ∈ [0x06, 0x18, 0x19, 0x23, 0x38], ¬K n) (hk : Away K M base s) :
    Away K M base (State.finishFigures s f) := by
  unfold State.finishFigures
  try dsimp only
  repeat' (first
    | with_reducible assumption | with_reducible apply State.evalFrame_away | with_reducible apply Away.ite
    | with_reducible apply Away.four | simp only [Away.mk_iff] | (refine Away.pages hK ?_; decide)
    | (refine Away.pages hK ?_; simp; done) | split | intro _)

theorem State.startScree_away {K : Nat → Prop} {M : Part → Prop} {base : State} (s : State) (n : Nat) (hK : ∀ n ∈ [0x23], ¬K n) (hk : Away K M base s) :
    Away K M base (State.startScree s n) := by
  unfold State.startScree
  try dsimp only
  repeat' (first
    | with_reducible assumption | with_reducible apply State.setFld_away | with_reducible apply Away.ite
    | with_reducible apply Away.four | simp only [Away.mk_iff] | (refine Away.pages hK ?_; decide)
    | (refine Away.pages hK ?_; simp; done) | split | intro _)

theorem State.screeIdle_away {K : Nat → Prop} {M : Part → Prop} {base : State} (s : State) (hK : ∀ n ∈ [0x23], ¬K n) (hk : Away K M base s) :
    Away K M base (State.screeIdle s) := by
  unfold State.screeIdle
  repeat' (first
    | with_reducible assumption | with_reducible apply State.setFlag_away | simp only [Away.mk_iff]
    | (refine Away.pages hK ?_; decide) | (refine Away.pages hK ?_; simp; done) | split | intro _)

theorem State.screeEvalDone_away {K : Nat → Prop} {M : Part → Prop} {base : State} (s : State) (n : Nat) (hK : ∀ n ∈ [0x06, 0x18, 0x19, 0x23, 0x38], ¬K n) (hk : Away K M base s) :
    Away K M base (State.screeEvalDone s n) := by
  unfold State.screeEvalDone
  try dsimp only
  repeat' (first
    | with_reducible assumption | with_reducible apply State.evalAll_away
    | with_reducible apply State.screeIdle_away | with_reducible apply Away.ite | with_reducible apply Away.four
    | simp only [Away.mk_iff] | (refine Away.pages hK ?_; decide) | (refine Away.pages hK ?_; simp; done) | split
    | intro _)

theorem State.surveyDone_away {K : Nat → Prop} {M : Part → Prop} {base : State} (s : State) (hK : ∀ n ∈ [0x06, 0x18, 0x19, 0x23, 0x38], ¬K n) (hk : Away K M base s) :
    Away K M base (State.surveyDone s) := by
  unfold State.surveyDone
  try dsimp only
  repeat' (first
    | with_reducible assumption | with_reducible apply State.evalUnder_away
    | with_reducible apply State.screeIdle_away | with_reducible apply State.irq_away
    | with_reducible apply Away.ite | with_reducible apply Away.foldl | with_reducible apply Away.foldlFst
    | with_reducible apply Away.four | with_reducible apply State.setFlds_away | with_reducible apply Away.flds
    | with_reducible apply State.setFld_away | simp only [List.map_cons, List.map_nil] | simp only [Away.mk_iff]
    | (refine Away.pages hK ?_; decide) | (refine Away.pages hK ?_; simp; done) | split | intro _)

theorem State.takeGovPart_away {K : Nat → Prop} {M : Part → Prop} {base : State} (s : State) (p : List Byte) (hK : ∀ n ∈ [0x23], ¬K n) (hk : Away K M base s) :
    Away K M base (State.takeGovPart s p) := by
  unfold State.takeGovPart
  repeat' (first
    | with_reducible assumption | with_reducible apply State.setFlds_away | with_reducible apply Away.flds
    | with_reducible apply State.setFld_away | simp only [List.map_cons, List.map_nil] | simp only [Away.mk_iff]
    | (refine Away.pages hK ?_; decide) | (refine Away.pages hK ?_; simp; done) | split | intro _)

theorem State.showChoice_away {K : Nat → Prop} {M : Part → Prop} {base : State} (s : State) (c : GainChoice) (hK : ∀ n ∈ [0x23], ¬K n) (hk : Away K M base s) :
    Away K M base (State.showChoice s c) := by
  unfold State.showChoice
  repeat' (first
    | with_reducible assumption | with_reducible apply State.setFlds_away | with_reducible apply Away.flds
    | with_reducible apply State.setFld_away | simp only [List.map_cons, List.map_nil] | simp only [Away.mk_iff]
    | (refine Away.pages hK ?_; decide) | (refine Away.pages hK ?_; simp; done) | split | intro _)

theorem State.addEnergy_away {K : Nat → Prop} {M : Part → Prop} {base : State} (s : State) (r uw : Nat) (t : Timing) (hk : Away K M base s) :
    Away K M base (State.addEnergy s r uw t) := by
  unfold State.addEnergy
  try dsimp only
  repeat' (first
    | with_reducible assumption | with_reducible apply Away.four | simp only [Away.mk_iff] | split | intro _)

theorem State.energyAdd_away {K : Nat → Prop} {M : Part → Prop} {base : State} (s : State) (t : Timing) (silent : List Nat) (hk : Away K M base s) :
    Away K M base (State.energyAdd s t silent) := by
  unfold State.energyAdd
  try dsimp only
  repeat' (first
    | with_reducible assumption | with_reducible apply State.addEnergy_away | with_reducible apply Away.ite
    | with_reducible apply Away.foldl | with_reducible apply Away.foldlFst | simp only [Away.mk_iff] | split
    | intro _)

theorem State.govSnapshot_away {K : Nat → Prop} {M : Part → Prop} {base : State} (s : State) (n : Nat) (hK : ∀ n ∈ [0x23], ¬K n) (hk : Away K M base s) :
    Away K M base (State.govSnapshot s n) := by
  unfold State.govSnapshot
  try dsimp only
  repeat' (first
    | with_reducible assumption | with_reducible apply State.setFrame_away | with_reducible apply State.irq_away
    | with_reducible apply Away.ite | with_reducible apply Away.foldl | with_reducible apply Away.foldlFst
    | with_reducible apply State.setFlds_away | with_reducible apply Away.flds
    | with_reducible apply State.setFld_away | simp only [List.map_cons, List.map_nil] | simp only [Away.mk_iff]
    | (refine Away.pages hK ?_; decide)
    | (refine Away.pages hK ?_; simp [R.GOV_SNAP_CTRL_REQ, R.GOV_EPRED_LO_E_LO, R.GOV_EPRED_HI_E_HI, R.GOV_SNAP_FRAME_LO_N_LO, R.GOV_SNAP_FRAME_HI_N_HI, R.GOV_SNAP_CTRL_DONE]; done)
    | split | intro _)

theorem State.armSnapshot_away {K : Nat → Prop} {M : Part → Prop} {base : State} (s : State) (hK : ∀ n ∈ [0x23], ¬K n) (hk : Away K M base s) :
    Away K M base (State.armSnapshot s) := by
  unfold State.armSnapshot
  repeat' (first
    | with_reducible assumption | with_reducible apply Away.ite | with_reducible apply State.setFlds_away
    | with_reducible apply Away.flds | with_reducible apply State.setFld_away
    | simp only [List.map_cons, List.map_nil] | simp only [Away.mk_iff] | (refine Away.pages hK ?_; decide)
    | (refine Away.pages hK ?_; simp; done) | split | intro _)

end Sys2Proof.Machine
end

