-- ==== Sys2Proof/Laws/AwayParty.lean ====
section
/-! SUPPORT. What the operations of Machine/Party.lean stay away from (Laws/Away.lean). -/
set_option linter.all false
set_option Elab.async false

namespace Sys2Proof.Machine

theorem State.sendParty_away {K : Nat → Prop} {M : Part → Prop} {base : State} (s : State) (m : List Byte) (hk : Away K M base s) :
    Away K M base (State.sendParty s m) := by
  unfold State.sendParty
  try dsimp only
  repeat' (first
    | with_reducible assumption | with_reducible apply State.emit_away | with_reducible apply Away.ite
    | with_reducible apply Away.foldl | with_reducible apply Away.foldlFst | simp only [Away.mk_iff] | split
    | intro _)

theorem State.refuseParty_away {K : Nat → Prop} {M : Part → Prop} {base : State} (s : State) (code ty sender : Nat) (hK : ∀ n ∈ [0x39], ¬K n) (hk : Away K M base s) :
    Away K M base (State.refuseParty s code ty sender) := by
  unfold State.refuseParty
  repeat' (first
    | with_reducible assumption | with_reducible apply State.inc_away | with_reducible apply State.irq_away
    | with_reducible apply State.setFlds_away | with_reducible apply Away.flds
    | with_reducible apply State.setFld_away | simp only [List.map_cons, List.map_nil] | simp only [Away.mk_iff]
    | (refine Away.pages hK ?_; decide) | (refine Away.pages hK ?_; simp; done) | split | intro _)

theorem State.markSeen_away {K : Nat → Prop} {M : Part → Prop} {base : State} (s : State) (m : List Byte) (hk : Away K M base s) :
    Away K M base (State.markSeen s m) := by
  unfold State.markSeen
  try dsimp only
  repeat' (first
    | with_reducible assumption | with_reducible apply Away.four | simp only [Away.mk_iff] | split | intro _)

theorem State.slotsChanged_away {K : Nat → Prop} {M : Part → Prop} {base : State} (s : State) (before : State) (hK : ∀ n ∈ [0x10, 0x11, 0x38, 0x39], ¬K n) (hk : Away K M base s) :
    Away K M base (State.slotsChanged s before) := by
  unfold State.slotsChanged
  repeat' (first
    | with_reducible assumption | with_reducible apply State.showParty_away
    | with_reducible apply State.rejoinBoth_away | simp only [Away.mk_iff] | (refine Away.pages hK ?_; decide)
    | (refine Away.net hK ?_ _; decide) | (refine Away.port hK ?_ _; decide)
    | refine Away.cons (a := _) (l := _ :: _) ?_ ?_ | (refine Away.pages hK ?_; simp; done) | split | intro _)

theorem State.makeReady_away {K : Nat → Prop} {M : Part → Prop} {base : State} (s : State) (k : Nat) (hK : ∀ n ∈ [0x06, 0x10, 0x11, 0x13, 0x18, 0x19, 0x20, 0x23, 0x38, 0x39], ¬K n) (hk : Away K M base s) :
    Away K M base (State.makeReady s k) := by
  unfold State.makeReady
  try dsimp only
  repeat' (first
    | with_reducible assumption | with_reducible apply State.setSlotState_away
    | with_reducible apply State.loadBank_away | with_reducible apply State.startSurvey_away
    | with_reducible apply State.slotsChanged_away | with_reducible apply Away.ite | simp only [Away.mk_iff]
    | (refine Away.pages hK ?_; decide) | (refine Away.net hK ?_ _; decide) | (refine Away.port hK ?_ _; decide)
    | refine Away.cons (a := _) (l := _ :: _) ?_ ?_ | (refine Away.pages hK ?_; simp; done) | split | intro _)

theorem State.matchAnnounce_away {K : Nat → Prop} {M : Part → Prop} {base : State} (s : State) (hK : ∀ n ∈ [0x06, 0x10, 0x11, 0x13, 0x18, 0x19, 0x20, 0x23, 0x38, 0x39], ¬K n) (hk : Away K M base s) :
    Away K M base (State.matchAnnounce s) := by
  unfold State.matchAnnounce
  try dsimp only
  repeat' (first
    | with_reducible assumption | with_reducible apply State.withdraw_away
    | with_reducible apply State.makeReady_away | with_reducible apply Away.ite | simp only [Away.mk_iff]
    | (refine Away.pages hK ?_; decide) | (refine Away.net hK ?_ _; decide) | (refine Away.port hK ?_ _; decide)
    | refine Away.cons (a := _) (l := _ :: _) ?_ ?_ | (refine Away.pages hK ?_; simp; done) | split | intro _)

theorem State.withdraw_away {K : Nat → Prop} {M : Part → Prop} {base : State} (s : State) (gen : Nat) (hK : ∀ n ∈ [0x10, 0x11, 0x13, 0x38, 0x39], ¬K n) (hk : Away K M base s) :
    Away K M base (State.withdraw s gen) := by
  unfold State.withdraw
  try dsimp only
  repeat' (first
    | with_reducible assumption | with_reducible apply State.setSlotState_away
    | with_reducible apply State.slotsChanged_away | with_reducible apply Away.ite | with_reducible apply Away.four
    | simp only [Away.mk_iff] | (refine Away.pages hK ?_; decide) | (refine Away.net hK ?_ _; decide)
    | (refine Away.port hK ?_ _; decide) | refine Away.cons (a := _) (l := _ :: _) ?_ ?_
    | (refine Away.pages hK ?_; simp; done) | split | intro _)

theorem State.takeAnnounce_away {K : Nat → Prop} {M : Part → Prop} {base : State} (s : State) (a : Announce) (hK : ∀ n ∈ [0x06, 0x10, 0x11, 0x13, 0x18, 0x19, 0x20, 0x23, 0x38, 0x39], ¬K n) (hk : Away K M base s) :
    Away K M base (State.takeAnnounce s a) := by
  unfold State.takeAnnounce
  try dsimp only
  repeat' (first
    | with_reducible assumption | with_reducible apply State.withdraw_away
    | with_reducible apply State.matchAnnounce_away | with_reducible apply Away.ite | with_reducible apply Away.four
    | simp only [Away.mk_iff] | (refine Away.pages hK ?_; decide) | (refine Away.net hK ?_ _; decide)
    | (refine Away.port hK ?_ _; decide) | refine Away.cons (a := _) (l := _ :: _) ?_ ?_
    | (refine Away.pages hK ?_; simp; done) | split | intro _)

theorem State.markLagging_away {K : Nat → Prop} {M : Part → Prop} {base : State} (s : State) (n : Nat) (counted : List Have) (hK : ∀ n ∈ [0x39], ¬K n) (hk : Away K M base s) :
    Away K M base (State.markLagging s n counted) := by
  unfold State.markLagging
  try dsimp only
  repeat' (first
    | with_reducible assumption | with_reducible apply State.irq_away | with_reducible apply Away.ite
    | with_reducible apply Away.four | simp only [Away.mk_iff] | (refine Away.pages hK ?_; decide)
    | (refine Away.pages hK ?_; simp; done) | split | intro _)

theorem State.holdCommit_away {K : Nat → Prop} {M : Part → Prop} {base : State} (s : State) (c : Commit) (hk : Away K M base s) :
    Away K M base (State.holdCommit s c) := by
  unfold State.holdCommit
  try dsimp only
  repeat' (first
    | with_reducible assumption | with_reducible apply Away.ite | with_reducible apply Away.four
    | simp only [Away.mk_iff] | split | intro _)

theorem State.transmitCommit_away {K : Nat → Prop} {M : Part → Prop} {base : State} (s2 : State) (q : QuorumClose) (c : Commit) (before : Nat) (hk : Away K M base s2) :
    Away K M base (State.transmitCommit s2 q c before) := by
  unfold State.transmitCommit
  try dsimp only
  repeat' (first
    | with_reducible assumption | with_reducible apply State.sendParty_away
    | with_reducible apply State.holdCommit_away | with_reducible apply Away.ite | with_reducible apply Away.four
    | simp only [Away.mk_iff] | split | intro _)

theorem State.sendCommit_away {K : Nat → Prop} {M : Part → Prop} {base : State} (s : State) (q : QuorumClose) (hK : ∀ n ∈ [0x23], ¬K n) (hk : Away K M base s) :
    Away K M base (State.sendCommit s q) := by
  unfold State.sendCommit
  try dsimp only
  repeat' (first
    | with_reducible assumption | with_reducible apply State.showChoice_away
    | with_reducible apply State.transmitCommit_away | with_reducible apply Away.four | simp only [Away.mk_iff]
    | (refine Away.pages hK ?_; decide) | (refine Away.pages hK ?_; simp; done) | split | intro _)

theorem State.closeOne_away {K : Nat → Prop} {M : Part → Prop} {base : State} (s : State) (n : Nat) (hK : ∀ n ∈ [0x23, 0x39], ¬K n) (hk : Away K M base s) :
    Away K M base (State.closeOne s n) := by
  unfold State.closeOne
  try dsimp only
  repeat' (first
    | with_reducible assumption | with_reducible apply State.markLagging_away
    | with_reducible apply State.sendCommit_away | with_reducible apply Away.ite | with_reducible apply Away.four
    | with_reducible apply State.setFlds_away | with_reducible apply Away.flds
    | with_reducible apply State.setFld_away | simp only [List.map_cons, List.map_nil] | simp only [Away.mk_iff]
    | (refine Away.pages hK ?_; decide) | (refine Away.pages hK ?_; simp; done) | split | intro _)

theorem State.closeQuorum_away {K : Nat → Prop} {M : Part → Prop} {base : State} (s : State) (n : Nat) (hK : ∀ n ∈ [0x23, 0x39], ¬K n) (hk : Away K M base s) :
    Away K M base (State.closeQuorum s n) := by
  unfold State.closeQuorum
  try dsimp only
  repeat' (first
    | with_reducible assumption | with_reducible apply State.closeOne_away | with_reducible apply Away.ite
    | with_reducible apply Away.foldl | with_reducible apply Away.foldlFst | simp only [Away.mk_iff]
    | (refine Away.pages hK ?_; decide) | (refine Away.pages hK ?_; simp; done) | split | intro _)

theorem State.closeEarly_away {K : Nat → Prop} {M : Part → Prop} {base : State} (s : State) (n : Nat) (hK : ∀ n ∈ [0x23, 0x39], ¬K n) (hk : Away K M base s) :
    Away K M base (State.closeEarly s n) := by
  unfold State.closeEarly
  repeat' (first
    | with_reducible assumption | with_reducible apply State.closeQuorum_away | with_reducible apply Away.ite
    | simp only [Away.mk_iff] | (refine Away.pages hK ?_; decide) | (refine Away.pages hK ?_; simp; done) | split
    | intro _)

theorem State.holdHave_away {K : Nat → Prop} {M : Part → Prop} {base : State} (s : State) (h : Have) (hK : ∀ n ∈ [0x23, 0x39], ¬K n) (hk : Away K M base s) :
    Away K M base (State.holdHave s h) := by
  unfold State.holdHave
  try dsimp only
  repeat' (first
    | with_reducible assumption | with_reducible apply State.irq_away | with_reducible apply State.inc_away
    | with_reducible apply State.closeEarly_away | with_reducible apply Away.ite | with_reducible apply Away.four
    | simp only [Away.mk_iff] | (refine Away.pages hK ?_; decide) | (refine Away.pages hK ?_; simp; done) | split
    | intro _)

theorem State.sendHave_away {K : Nat → Prop} {M : Part → Prop} {base : State} (s : State) (n : Nat) (hK : ∀ n ∈ [0x10, 0x11, 0x14, 0x15, 0x18, 0x23, 0x39], ¬K n) (hk : Away K M base s) :
    Away K M base (State.sendHave s n) := by
  unfold State.sendHave
  try dsimp only
  repeat' (first
    | with_reducible assumption | with_reducible apply State.dropKept_away
    | with_reducible apply State.rejoinBoth_away | with_reducible apply State.closeFrame_away
    | with_reducible apply State.inc_away | with_reducible apply State.irq_away
    | with_reducible apply State.sendParty_away | with_reducible apply State.holdHave_away
    | with_reducible apply Away.ite | with_reducible apply Away.four | with_reducible apply State.setFlds_away
    | with_reducible apply Away.flds | with_reducible apply State.setFld_away
    | simp only [List.map_cons, List.map_nil] | simp only [Away.mk_iff] | (refine Away.pages hK ?_; decide)
    | (refine Away.net hK ?_ _; decide) | (refine Away.port hK ?_ _; decide)
    | refine Away.cons (a := _) (l := _ :: _) ?_ ?_ | (refine Away.pages hK ?_; simp; done) | split | intro _)

theorem State.haveEarly_away {K : Nat → Prop} {M : Part → Prop} {base : State} (s : State) (f : Nat) (hK : ∀ n ∈ [0x10, 0x11, 0x14, 0x15, 0x18, 0x23, 0x39], ¬K n) (hk : Away K M base s) :
    Away K M base (State.haveEarly s f) := by
  unfold State.haveEarly
  try dsimp only
  repeat' (first
    | with_reducible assumption | with_reducible apply State.sendHave_away | with_reducible apply Away.ite
    | simp only [Away.mk_iff] | (refine Away.pages hK ?_; decide) | (refine Away.net hK ?_ _; decide)
    | (refine Away.port hK ?_ _; decide) | refine Away.cons (a := _) (l := _ :: _) ?_ ?_
    | (refine Away.pages hK ?_; simp; done) | split | intro _)

theorem State.acceptHave_away {K : Nat → Prop} {M : Part → Prop} {base : State} (s : State) (m : List Byte) (hK : ∀ n ∈ [0x23, 0x39], ¬K n) (hk : Away K M base s) :
    Away K M base (State.acceptHave s m) := by
  unfold State.acceptHave
  try dsimp only
  repeat' (first
    | with_reducible assumption | with_reducible apply State.holdHave_away | simp only [Away.mk_iff]
    | (refine Away.pages hK ?_; decide) | (refine Away.pages hK ?_; simp; done) | split | intro _)

theorem State.standDown_away {K : Nat → Prop} {M : Part → Prop} {base : State} (s : State) (c : Commit) (hK : ∀ n ∈ [0x39], ¬K n) (hk : Away K M base s) :
    Away K M base (State.standDown s c) := by
  unfold State.standDown
  try dsimp only
  repeat' (first
    | with_reducible assumption | with_reducible apply State.setFld_away | with_reducible apply State.inc_away
    | with_reducible apply State.irq_away | with_reducible apply Away.ite | with_reducible apply Away.four
    | simp only [Away.mk_iff] | (refine Away.pages hK ?_; decide) | (refine Away.pages hK ?_; simp; done) | split
    | intro _)

theorem State.acceptCommit_away {K : Nat → Prop} {M : Part → Prop} {base : State} (s : State) (m : List Byte) (hK : ∀ n ∈ [0x13, 0x39], ¬K n) (hk : Away K M base s) :
    Away K M base (State.acceptCommit s m) := by
  unfold State.acceptCommit
  try dsimp only
  repeat' (first
    | with_reducible assumption | with_reducible apply State.markSeen_away | with_reducible apply State.inc_away
    | with_reducible apply State.irq_away | with_reducible apply State.holdCommit_away
    | with_reducible apply State.standDown_away | with_reducible apply State.refuseParty_away
    | with_reducible apply Away.ite | with_reducible apply Away.four | simp only [Away.mk_iff]
    | (refine Away.pages hK ?_; decide) | (refine Away.pages hK ?_; simp; done) | split | intro _)

theorem State.acceptAnnounce_away {K : Nat → Prop} {M : Part → Prop} {base : State} (s : State) (port : Port) (m : List Byte) (hK : ∀ n ∈ [0x06, 0x10, 0x11, 0x13, 0x18, 0x19, 0x20, 0x23, 0x38, 0x39, 0x49], ¬K n) (hM : ∀ p ∈ [.sram], ¬M p) (hk : Away K M base s) :
    Away K M base (State.acceptAnnounce s port m) := by
  unfold State.acceptAnnounce
  try dsimp only
  repeat' (first
    | with_reducible assumption | with_reducible apply State.refuseParty_away
    | with_reducible apply State.markSeen_away | with_reducible apply State.takeAnnounce_away
    | with_reducible apply State.emit_away | with_reducible apply State.ringWrite_away
    | with_reducible apply Away.ite | simp only [Away.mk_iff] | (refine Away.pages hK ?_; decide)
    | (refine Away.net hK ?_ _; decide) | (refine Away.port hK ?_ _; decide)
    | refine Away.cons (a := _) (l := _ :: _) ?_ ?_ | (refine Away.pages hK ?_; simp; done)
    | (refine Away.parts hM ?_; decide) | split | intro _)

theorem State.armActivation_away {K : Nat → Prop} {M : Part → Prop} {base : State} (s : State) (frame version source : Nat) (hK : ∀ n ∈ [0x39, 0x44], ¬K n) (hk : Away K M base s) :
    Away K M base (State.armActivation s frame version source) := by
  unfold State.armActivation
  try dsimp only
  repeat' (first
    | with_reducible assumption | with_reducible apply State.setFld_away | with_reducible apply State.setFrame_away
    | with_reducible apply State.irq_away | with_reducible apply Away.ite | with_reducible apply State.setFlds_away
    | with_reducible apply Away.flds | with_reducible apply State.setFld_away
    | simp only [List.map_cons, List.map_nil] | simp only [Away.mk_iff] | (refine Away.pages hK ?_; decide)
    | (refine Away.pages hK ?_; simp; done) | split | intro _)

theorem State.acceptActivate_away {K : Nat → Prop} {M : Part → Prop} {base : State} (s : State) (port : Port) (m : List Byte) (hK : ∀ n ∈ [0x10, 0x11, 0x39, 0x44, 0x49], ¬K n) (hM : ∀ p ∈ [.sram], ¬M p) (hk : Away K M base s) :
    Away K M base (State.acceptActivate s port m) := by
  unfold State.acceptActivate
  repeat' (first
    | with_reducible assumption | with_reducible apply State.refuseParty_away
    | with_reducible apply State.markSeen_away | with_reducible apply State.armActivation_away
    | with_reducible apply State.emit_away | with_reducible apply State.ringWrite_away
    | with_reducible apply Away.ite | simp only [Away.mk_iff] | (refine Away.pages hK ?_; decide)
    | (refine Away.net hK ?_ _; decide) | (refine Away.port hK ?_ _; decide)
    | refine Away.cons (a := _) (l := _ :: _) ?_ ?_ | (refine Away.pages hK ?_; simp; done)
    | (refine Away.parts hM ?_; decide) | split | intro _)

theorem State.partyReceive_away {K : Nat → Prop} {M : Part → Prop} {base : State} (s : State) (port : Port) (m : List Byte) (hK : ∀ n ∈ [0x06, 0x10, 0x11, 0x13, 0x18, 0x19, 0x20, 0x23, 0x38, 0x39, 0x44, 0x49], ¬K n) (hM : ∀ p ∈ [.sram], ¬M p) (hk : Away K M base s) :
    Away K M base (State.partyReceive s port m) := by
  unfold State.partyReceive
  repeat' (first
    | with_reducible assumption | with_reducible apply State.refuseParty_away
    | with_reducible apply State.markSeen_away | with_reducible apply State.acceptHave_away
    | with_reducible apply State.acceptCommit_away | with_reducible apply State.acceptAnnounce_away
    | with_reducible apply State.acceptActivate_away | with_reducible apply Away.ite | simp only [Away.mk_iff]
    | (refine Away.pages hK ?_; decide) | (refine Away.net hK ?_ _; decide) | (refine Away.port hK ?_ _; decide)
    | refine Away.cons (a := _) (l := _ :: _) ?_ ?_ | (refine Away.pages hK ?_; simp; done)
    | (refine Away.parts hM ?_; decide) | split | intro _)

theorem execHaveReceive_away {K : Nat → Prop} {M : Part → Prop} {base : State} (port : Port) (m : List Byte) (s : State) (hK : ∀ n ∈ [0x06, 0x10, 0x11, 0x13, 0x18, 0x19, 0x20, 0x23, 0x38, 0x39, 0x44, 0x49], ¬K n) (hM : ∀ p ∈ [.sram], ¬M p) (hk : Away K M base s) :
    ResAway K M base (execHaveReceive port m s) := by
  unfold execHaveReceive
  repeat' (first
    | with_reducible assumption | with_reducible apply State.begin_away
    | with_reducible apply State.partyReceive_away | with_reducible apply ResAway.next | simp only [Away.mk_iff]
    | (refine Away.pages hK ?_; decide) | (refine Away.net hK ?_ _; decide) | (refine Away.port hK ?_ _; decide)
    | refine Away.cons (a := _) (l := _ :: _) ?_ ?_ | (refine Away.pages hK ?_; simp; done)
    | (refine Away.parts hM ?_; decide) | split | intro _)

theorem execCommitReceive_away {K : Nat → Prop} {M : Part → Prop} {base : State} (port : Port) (m : List Byte) (s : State) (hK : ∀ n ∈ [0x06, 0x10, 0x11, 0x13, 0x18, 0x19, 0x20, 0x23, 0x38, 0x39, 0x44, 0x49], ¬K n) (hM : ∀ p ∈ [.sram], ¬M p) (hk : Away K M base s) :
    ResAway K M base (execCommitReceive port m s) := by
  unfold execCommitReceive
  repeat' (first
    | with_reducible assumption | with_reducible apply State.begin_away
    | with_reducible apply State.partyReceive_away | with_reducible apply ResAway.next | simp only [Away.mk_iff]
    | (refine Away.pages hK ?_; decide) | (refine Away.net hK ?_ _; decide) | (refine Away.port hK ?_ _; decide)
    | refine Away.cons (a := _) (l := _ :: _) ?_ ?_ | (refine Away.pages hK ?_; simp; done)
    | (refine Away.parts hM ?_; decide) | split | intro _)

theorem execGenAnnounceReceive_away {K : Nat → Prop} {M : Part → Prop} {base : State} (port : Port) (m : List Byte) (s : State) (hK : ∀ n ∈ [0x06, 0x10, 0x11, 0x13, 0x18, 0x19, 0x20, 0x23, 0x38, 0x39, 0x44, 0x49], ¬K n) (hM : ∀ p ∈ [.sram], ¬M p) (hk : Away K M base s) :
    ResAway K M base (execGenAnnounceReceive port m s) := by
  unfold execGenAnnounceReceive
  repeat' (first
    | with_reducible assumption | with_reducible apply State.begin_away
    | with_reducible apply State.partyReceive_away | with_reducible apply ResAway.next | simp only [Away.mk_iff]
    | (refine Away.pages hK ?_; decide) | (refine Away.net hK ?_ _; decide) | (refine Away.port hK ?_ _; decide)
    | refine Away.cons (a := _) (l := _ :: _) ?_ ?_ | (refine Away.pages hK ?_; simp; done)
    | (refine Away.parts hM ?_; decide) | split | intro _)

theorem execActivateReceive_away {K : Nat → Prop} {M : Part → Prop} {base : State} (port : Port) (m : List Byte) (s : State) (hK : ∀ n ∈ [0x06, 0x10, 0x11, 0x13, 0x18, 0x19, 0x20, 0x23, 0x38, 0x39, 0x44, 0x49], ¬K n) (hM : ∀ p ∈ [.sram], ¬M p) (hk : Away K M base s) :
    ResAway K M base (execActivateReceive port m s) := by
  unfold execActivateReceive
  repeat' (first
    | with_reducible assumption | with_reducible apply State.begin_away
    | with_reducible apply State.partyReceive_away | with_reducible apply ResAway.next | simp only [Away.mk_iff]
    | (refine Away.pages hK ?_; decide) | (refine Away.net hK ?_ _; decide) | (refine Away.port hK ?_ _; decide)
    | refine Away.cons (a := _) (l := _ :: _) ?_ ?_ | (refine Away.pages hK ?_; simp; done)
    | (refine Away.parts hM ?_; decide) | split | intro _)

theorem execMediaPacketReceive_away {K : Nat → Prop} {M : Part → Prop} {base : State} (p : MediaPacket) (s : State) (hK : ∀ n ∈ [0x06, 0x10, 0x11, 0x14, 0x15, 0x18, 0x19, 0x23, 0x39], ¬K n) (hM : ∀ p ∈ [.store], ¬M p) (hk : Away K M base s) :
    ResAway K M base (execMediaPacketReceive p s) := by
  unfold execMediaPacketReceive
  try dsimp only
  repeat' (first
    | with_reducible assumption | with_reducible apply State.begin_away | with_reducible apply State.atTime_away
    | with_reducible apply State.mediaPacket_away | with_reducible apply State.haveEarly_away
    | with_reducible apply Away.ite | with_reducible apply ResAway.ite | with_reducible apply ResAway.next
    | simp only [Away.mk_iff] | (refine Away.pages hK ?_; decide) | (refine Away.net hK ?_ _; decide)
    | (refine Away.port hK ?_ _; decide) | refine Away.cons (a := _) (l := _ :: _) ?_ ?_
    | (refine Away.pages hK ?_; simp; done) | (refine Away.parts hM ?_; decide) | split | intro _)

theorem execXsdecSliceDecode_away {K : Nat → Prop} {M : Part → Prop} {base : State} (k f slice row rows last us : Nat) (d : SliceDecode) (s : State) (hK : ∀ n ∈ [0x06, 0x10, 0x11, 0x14, 0x15, 0x18, 0x19, 0x23, 0x39], ¬K n) (hM : ∀ p ∈ [.store], ¬M p) (hk : Away K M base s) :
    ResAway K M base (execXsdecSliceDecode k f slice row rows last us d s) := by
  unfold execXsdecSliceDecode
  try dsimp only
  repeat' (first
    | with_reducible assumption | with_reducible apply State.begin_away | with_reducible apply State.xsdecSlice_away
    | with_reducible apply State.haveEarly_away | with_reducible apply Away.ite | with_reducible apply ResAway.ite
    | with_reducible apply ResAway.next | simp only [Away.mk_iff] | (refine Away.pages hK ?_; decide)
    | (refine Away.net hK ?_ _; decide) | (refine Away.port hK ?_ _; decide)
    | refine Away.cons (a := _) (l := _ :: _) ?_ ?_ | (refine Away.pages hK ?_; simp; done)
    | (refine Away.parts hM ?_; decide) | split | intro _)

theorem execGovFiguresFinal_away {K : Nat → Prop} {M : Part → Prop} {base : State} (f : Nat) (s : State) (hK : ∀ n ∈ [0x06, 0x10, 0x11, 0x14, 0x15, 0x18, 0x19, 0x23, 0x38, 0x39], ¬K n) (hk : Away K M base s) :
    ResAway K M base (execGovFiguresFinal f s) := by
  unfold execGovFiguresFinal
  try dsimp only
  repeat' (first
    | with_reducible assumption | with_reducible apply State.begin_away
    | with_reducible apply State.finishFigures_away | with_reducible apply State.haveEarly_away
    | with_reducible apply Away.ite | with_reducible apply ResAway.ite | with_reducible apply ResAway.next
    | simp only [Away.mk_iff] | (refine Away.pages hK ?_; decide) | (refine Away.net hK ?_ _; decide)
    | (refine Away.port hK ?_ _; decide) | refine Away.cons (a := _) (l := _ :: _) ?_ ?_
    | (refine Away.pages hK ?_; simp; done) | split | intro _)

theorem execScreeEvalDone_away {K : Nat → Prop} {M : Part → Prop} {base : State} (n : Nat) (s : State) (hK : ∀ n ∈ [0x06, 0x10, 0x11, 0x14, 0x15, 0x18, 0x19, 0x23, 0x38, 0x39], ¬K n) (hk : Away K M base s) :
    ResAway K M base (execScreeEvalDone n s) := by
  unfold execScreeEvalDone
  try dsimp only
  repeat' (first
    | with_reducible assumption | with_reducible apply State.begin_away
    | with_reducible apply State.screeEvalDone_away | with_reducible apply State.haveEarly_away
    | with_reducible apply Away.ite | with_reducible apply ResAway.ite | with_reducible apply ResAway.next
    | simp only [Away.mk_iff] | (refine Away.pages hK ?_; decide) | (refine Away.net hK ?_ _; decide)
    | (refine Away.port hK ?_ _; decide) | refine Away.cons (a := _) (l := _ :: _) ?_ ?_
    | (refine Away.pages hK ?_; simp; done) | split | intro _)

theorem execGovSurveyDone_away {K : Nat → Prop} {M : Part → Prop} {base : State} (s : State) (hK : ∀ n ∈ [0x06, 0x18, 0x19, 0x23, 0x38], ¬K n) (hk : Away K M base s) :
    ResAway K M base (execGovSurveyDone s) := by
  unfold execGovSurveyDone
  try dsimp only
  repeat' (first
    | with_reducible assumption | with_reducible apply State.begin_away | with_reducible apply State.surveyDone_away
    | with_reducible apply Away.ite | with_reducible apply ResAway.ite | with_reducible apply ResAway.next
    | simp only [Away.mk_iff] | (refine Away.pages hK ?_; decide) | (refine Away.pages hK ?_; simp; done) | split
    | intro _)

theorem execGovSnapRequest_away {K : Nat → Prop} {M : Part → Prop} {base : State} (m : Master) (s : State) (hK : ∀ n ∈ [0x23], ¬K n) (hk : Away K M base s) :
    ResAway K M base (execGovSnapRequest m s) := by
  unfold execGovSnapRequest
  try dsimp only
  repeat' (first
    | with_reducible assumption | with_reducible apply State.begin_away | with_reducible apply State.asWrite_away
    | with_reducible apply State.armSnapshot_away | with_reducible apply ResAway.next | simp only [Away.mk_iff]
    | (refine Away.pages hK ?_; decide) | (refine Away.pages hK ?_; simp; done) | split | intro _)

theorem execHaveSendDeadline_away {K : Nat → Prop} {M : Part → Prop} {base : State} (due : HaveDue) (s : State) (hK : ∀ n ∈ [0x06, 0x10, 0x11, 0x14, 0x15, 0x18, 0x23, 0x39], ¬K n) (hk : Away K M base s) :
    ResAway K M base (execHaveSendDeadline due s) := by
  unfold execHaveSendDeadline
  try dsimp only
  repeat' (first
    | with_reducible assumption | with_reducible apply State.begin_away | with_reducible apply State.atTime_away
    | with_reducible apply State.fenceBlock_away | with_reducible apply State.sendHave_away
    | with_reducible apply Away.ite | with_reducible apply ResAway.ite | with_reducible apply ResAway.next
    | simp only [Away.mk_iff] | (refine Away.pages hK ?_; decide) | (refine Away.net hK ?_ _; decide)
    | (refine Away.port hK ?_ _; decide) | refine Away.cons (a := _) (l := _ :: _) ?_ ?_
    | (refine Away.pages hK ?_; simp; done) | split | intro _)

theorem execQuorumCloseAtC_away {K : Nat → Prop} {M : Part → Prop} {base : State} (n : Nat) (s : State) (hK : ∀ n ∈ [0x23, 0x39], ¬K n) (hk : Away K M base s) :
    ResAway K M base (execQuorumCloseAtC n s) := by
  unfold execQuorumCloseAtC
  try dsimp only
  repeat' (first
    | with_reducible assumption | with_reducible apply State.begin_away | with_reducible apply State.atTime_away
    | with_reducible apply State.closeQuorum_away | with_reducible apply Away.ite | with_reducible apply ResAway.ite
    | with_reducible apply ResAway.next | simp only [Away.mk_iff] | (refine Away.pages hK ?_; decide)
    | (refine Away.pages hK ?_; simp; done) | split | intro _)

theorem State.annResult_away {K : Nat → Prop} {M : Part → Prop} {base : State} (s : State) (r : Nat) (hK : ∀ n ∈ [0x13], ¬K n) (hk : Away K M base s) :
    Away K M base (State.annResult s r) := by
  unfold State.annResult
  repeat' (first
    | with_reducible assumption | with_reducible apply State.irq_away | with_reducible apply State.setFlds_away
    | with_reducible apply Away.flds | with_reducible apply State.setFld_away
    | simp only [List.map_cons, List.map_nil] | simp only [Away.mk_iff] | (refine Away.pages hK ?_; decide)
    | (refine Away.pages hK ?_; simp; done) | split | intro _)

theorem State.sendAnnounce_away {K : Nat → Prop} {M : Part → Prop} {base : State} (s : State) (a : Announce) (hK : ∀ n ∈ [0x06, 0x10, 0x11, 0x13, 0x18, 0x19, 0x20, 0x23, 0x38, 0x39], ¬K n) (hk : Away K M base s) :
    Away K M base (State.sendAnnounce s a) := by
  unfold State.sendAnnounce
  try dsimp only
  repeat' (first
    | with_reducible assumption | with_reducible apply State.withdraw_away
    | with_reducible apply State.sendParty_away | with_reducible apply State.takeAnnounce_away
    | with_reducible apply State.annResult_away | simp only [Away.mk_iff] | (refine Away.pages hK ?_; decide)
    | (refine Away.net hK ?_ _; decide) | (refine Away.port hK ?_ _; decide)
    | refine Away.cons (a := _) (l := _ :: _) ?_ ?_ | (refine Away.pages hK ?_; simp; done) | split | intro _)

theorem State.announceSend_away {K : Nat → Prop} {M : Part → Prop} {base : State} (s : State) (hK : ∀ n ∈ [0x06, 0x10, 0x11, 0x13, 0x18, 0x19, 0x20, 0x23, 0x38, 0x39], ¬K n) (hk : Away K M base s) :
    Away K M base (State.announceSend s) := by
  unfold State.announceSend
  try dsimp only
  repeat' (first
    | with_reducible assumption | with_reducible apply State.annResult_away
    | with_reducible apply State.sendAnnounce_away | with_reducible apply Away.ite | simp only [Away.mk_iff]
    | (refine Away.pages hK ?_; decide) | (refine Away.net hK ?_ _; decide) | (refine Away.port hK ?_ _; decide)
    | refine Away.cons (a := _) (l := _ :: _) ?_ ?_ | (refine Away.pages hK ?_; simp; done) | split | intro _)

theorem execGenAnnounceSend_away {K : Nat → Prop} {M : Part → Prop} {base : State} (m : Master) (s : State) (hK : ∀ n ∈ [0x06, 0x10, 0x11, 0x13, 0x18, 0x19, 0x20, 0x23, 0x38, 0x39], ¬K n) (hk : Away K M base s) :
    ResAway K M base (execGenAnnounceSend m s) := by
  unfold execGenAnnounceSend
  try dsimp only
  repeat' (first
    | with_reducible assumption | with_reducible apply State.begin_away | with_reducible apply State.asWrite_away
    | with_reducible apply State.announceSend_away | with_reducible apply ResAway.next | simp only [Away.mk_iff]
    | (refine Away.pages hK ?_; decide) | (refine Away.net hK ?_ _; decide) | (refine Away.port hK ?_ _; decide)
    | refine Away.cons (a := _) (l := _ :: _) ?_ ?_ | (refine Away.pages hK ?_; simp; done) | split | intro _)

theorem State.stageDone_away {K : Nat → Prop} {M : Part → Prop} {base : State} (s : State) (hK : ∀ n ∈ [0x06, 0x10, 0x11, 0x13, 0x18, 0x19, 0x20, 0x23, 0x38, 0x39], ¬K n) (hk : Away K M base s) :
    Away K M base (State.stageDone s) := by
  unfold State.stageDone
  try dsimp only
  repeat' (first
    | with_reducible assumption | with_reducible apply State.readsSec_away | with_reducible apply State.setSlot_away
    | with_reducible apply State.slotsChanged_away | with_reducible apply State.matchAnnounce_away
    | with_reducible apply State.irq_away | with_reducible apply Away.four | with_reducible apply State.setFlds_away
    | with_reducible apply Away.flds | with_reducible apply State.setFld_away
    | simp only [List.map_cons, List.map_nil] | simp only [Away.mk_iff] | (refine Away.pages hK ?_; decide)
    | (refine Away.net hK ?_ _; decide) | (refine Away.port hK ?_ _; decide)
    | refine Away.cons (a := _) (l := _ :: _) ?_ ?_
    | (refine Away.pages hK ?_; simp [R.COMMIT_SLOT_STATE, R.COMMIT_SLOT_GEN, R.COMMIT_STAGE_CTRL_GO]; done) | split
    | intro _)

theorem execGenStageDone_away {K : Nat → Prop} {M : Part → Prop} {base : State} (s : State) (hK : ∀ n ∈ [0x06, 0x10, 0x11, 0x13, 0x18, 0x19, 0x20, 0x23, 0x38, 0x39], ¬K n) (hk : Away K M base s) :
    ResAway K M base (execGenStageDone s) := by
  unfold execGenStageDone
  try dsimp only
  repeat' (first
    | with_reducible assumption | with_reducible apply State.begin_away | with_reducible apply State.stageDone_away
    | with_reducible apply Away.ite | with_reducible apply ResAway.ite | with_reducible apply ResAway.next
    | simp only [Away.mk_iff] | (refine Away.pages hK ?_; decide) | (refine Away.net hK ?_ _; decide)
    | (refine Away.port hK ?_ _; decide) | refine Away.cons (a := _) (l := _ :: _) ?_ ?_
    | (refine Away.pages hK ?_; simp; done) | split | intro _)

end Sys2Proof.Machine
end

