-- ==== Sys2Proof/Laws/AwayTelem.lean ====
section
/-! SUPPORT. What the operations of Machine/Telem.lean stay away from (Laws/Away.lean). -/
set_option linter.all false
set_option Elab.async false

namespace Sys2Proof.Machine

theorem State.showTelem_away {K : Nat → Prop} {M : Part → Prop} {base : State} (s : State) (hK : ∀ n ∈ [0x31], ¬K n) (hk : Away K M base s) :
    Away K M base (State.showTelem s) := by
  unfold State.showTelem
  repeat' (first
    | with_reducible assumption | with_reducible apply State.setFlds_away | with_reducible apply Away.flds
    | with_reducible apply State.setFld_away | simp only [List.map_cons, List.map_nil] | simp only [Away.mk_iff]
    | (refine Away.pages hK ?_; decide) | (refine Away.pages hK ?_; simp; done) | split | intro _)

theorem State.popWord_away {K : Nat → Prop} {M : Part → Prop} {base : State} (s : State) (hK : ∀ n ∈ [0x31], ¬K n) (hk : Away K M base s) :
    Away K M base (State.popWord s) := by
  unfold State.popWord
  try dsimp only
  repeat' (first
    | with_reducible assumption | with_reducible apply State.showTelem_away | with_reducible apply State.emit_away
    | with_reducible apply Away.ite | with_reducible apply Away.four | simp only [Away.mk_iff]
    | (refine Away.pages hK ?_; decide) | (refine Away.pages hK ?_; simp; done) | split | intro _)

theorem State.releasePop_away {K : Nat → Prop} {M : Part → Prop} {base : State} (s : State) (hK : ∀ n ∈ [0x31], ¬K n) (hk : Away K M base s) :
    Away K M base (State.releasePop s) := by
  unfold State.releasePop
  try dsimp only
  repeat' (first
    | with_reducible assumption | with_reducible apply State.showTelem_away | with_reducible apply State.emit_away
    | with_reducible apply Away.ite | with_reducible apply Away.four | simp only [Away.mk_iff]
    | (refine Away.pages hK ?_; decide) | (refine Away.pages hK ?_; simp; done) | split | intro _)

theorem State.swapBanks_away {K : Nat → Prop} {M : Part → Prop} {base : State} (s : State) (hK : ∀ n ∈ [0x31], ¬K n) (hk : Away K M base s) :
    Away K M base (State.swapBanks s) := by
  unfold State.swapBanks
  try dsimp only
  repeat' (first
    | with_reducible assumption | with_reducible apply State.inc_away | with_reducible apply State.irq_away
    | with_reducible apply State.showTelem_away | with_reducible apply State.popWord_away
    | with_reducible apply Away.ite | with_reducible apply Away.four | simp only [Away.mk_iff]
    | (refine Away.pages hK ?_; decide) | (refine Away.pages hK ?_; simp; done) | split | intro _)

theorem State.telemItem_away {K : Nat → Prop} {M : Part → Prop} {base : State} (s : State) (cls src : Nat) (words : List Nat) (e : Ecc) (hK : ∀ n ∈ [0x06, 0x31], ¬K n) (hk : Away K M base s) :
    Away K M base (State.telemItem s cls src words e) := by
  unfold State.telemItem
  try dsimp only
  repeat' (first
    | with_reducible assumption | with_reducible apply State.fence_away | with_reducible apply State.setBit_away
    | with_reducible apply State.inc_away | with_reducible apply State.setFld_away
    | with_reducible apply State.irq_away | with_reducible apply State.swapBanks_away
    | with_reducible apply State.showTelem_away | with_reducible apply Away.ite | with_reducible apply Away.four
    | simp only [Away.mk_iff] | (refine Away.pages hK ?_; decide) | (refine Away.pages hK ?_; simp; done) | split
    | intro _)

theorem State.prefetch_away {K : Nat → Prop} {M : Part → Prop} {base : State} (s : State) (e : Ecc) (hK : ∀ n ∈ [0x31], ¬K n) (hk : Away K M base s) :
    Away K M base (State.prefetch s e) := by
  unfold State.prefetch
  try dsimp only
  repeat' (first
    | with_reducible assumption | with_reducible apply State.inc_away | with_reducible apply State.irq_away
    | with_reducible apply State.showTelem_away | with_reducible apply Away.ite | with_reducible apply Away.four
    | simp only [Away.mk_iff] | (refine Away.pages hK ?_; decide) | (refine Away.pages hK ?_; simp; done) | split
    | intro _)

theorem execTelemBankSwap_away {K : Nat → Prop} {M : Part → Prop} {base : State} (s : State) (hK : ∀ n ∈ [0x31], ¬K n) (hk : Away K M base s) :
    ResAway K M base (execTelemBankSwap s) := by
  unfold execTelemBankSwap
  try dsimp only
  repeat' (first
    | with_reducible assumption | with_reducible apply State.begin_away | with_reducible apply State.swapBanks_away
    | with_reducible apply Away.ite | with_reducible apply ResAway.ite | with_reducible apply ResAway.next
    | simp only [Away.mk_iff] | (refine Away.pages hK ?_; decide) | (refine Away.pages hK ?_; simp; done) | split
    | intro _)

theorem execTelemPop_away {K : Nat → Prop} {M : Part → Prop} {base : State} (m : Master) (e : Ecc) (s : State) (hK : ∀ n ∈ [0x31], ¬K n) (hk : Away K M base s) :
    ResAway K M base (execTelemPop m e s) := by
  unfold execTelemPop
  try dsimp only
  repeat' (first
    | with_reducible assumption | with_reducible apply State.begin_away | with_reducible apply State.prefetch_away
    | with_reducible apply State.emit_away | with_reducible apply State.popWord_away
    | with_reducible apply State.showTelem_away | with_reducible apply Away.ite | with_reducible apply ResAway.ite
    | with_reducible apply ResAway.next | with_reducible apply ResAway.fault | with_reducible apply ResAway.refused
    | with_reducible apply Away.four | simp only [Away.mk_iff] | (refine Away.pages hK ?_; decide)
    | (refine Away.pages hK ?_; simp; done) | split | intro _)

theorem execTelemRelease_away {K : Nat → Prop} {M : Part → Prop} {base : State} (m : Master) (s : State) (hK : ∀ n ∈ [0x31], ¬K n) (hk : Away K M base s) :
    ResAway K M base (execTelemRelease m s) := by
  unfold execTelemRelease
  try dsimp only
  repeat' (first
    | with_reducible assumption | with_reducible apply State.begin_away | with_reducible apply State.asWrite_away
    | with_reducible apply State.releasePop_away | with_reducible apply ResAway.next | simp only [Away.mk_iff]
    | (refine Away.pages hK ?_; decide) | (refine Away.pages hK ?_; simp; done) | split | intro _)

theorem execTelemFlushRequest_away {K : Nat → Prop} {M : Part → Prop} {base : State} (m : Master) (s : State) (hK : ∀ n ∈ [0x31], ¬K n) (hk : Away K M base s) :
    ResAway K M base (execTelemFlushRequest m s) := by
  unfold execTelemFlushRequest
  try dsimp only
  repeat' (first
    | with_reducible assumption | with_reducible apply State.begin_away | with_reducible apply State.asWrite_away
    | with_reducible apply ResAway.next | with_reducible apply State.setFlds_away | with_reducible apply Away.flds
    | with_reducible apply State.setFld_away | simp only [List.map_cons, List.map_nil] | simp only [Away.mk_iff]
    | (refine Away.pages hK ?_; decide) | (refine Away.pages hK ?_; simp; done) | split | intro _)

theorem execTelemFlushDone_away {K : Nat → Prop} {M : Part → Prop} {base : State} (s : State) (hK : ∀ n ∈ [0x31], ¬K n) (hk : Away K M base s) :
    ResAway K M base (execTelemFlushDone s) := by
  unfold execTelemFlushDone
  try dsimp only
  repeat' (first
    | with_reducible assumption | with_reducible apply State.begin_away | with_reducible apply State.add_away
    | with_reducible apply State.irq_away | with_reducible apply State.showTelem_away
    | with_reducible apply Away.ite | with_reducible apply ResAway.ite | with_reducible apply ResAway.next
    | with_reducible apply Away.four | with_reducible apply State.setFlds_away | with_reducible apply Away.flds
    | with_reducible apply State.setFld_away | simp only [List.map_cons, List.map_nil] | simp only [Away.mk_iff]
    | (refine Away.pages hK ?_; decide) | (refine Away.pages hK ?_; simp; done) | split | intro _)

theorem State.telemWarm_away {K : Nat → Prop} {M : Part → Prop} {base : State} (s : State) (hK : ∀ n ∈ [0x31], ¬K n) (hk : Away K M base s) :
    Away K M base (State.telemWarm s) := by
  unfold State.telemWarm
  try dsimp only
  repeat' (first
    | with_reducible assumption | with_reducible apply State.releasePop_away | with_reducible apply State.inc_away
    | with_reducible apply State.showTelem_away | with_reducible apply Away.ite | with_reducible apply Away.four
    | simp only [Away.mk_iff] | (refine Away.pages hK ?_; decide) | (refine Away.pages hK ?_; simp; done) | split
    | intro _)

end Sys2Proof.Machine
end

