-- ==== Sys2Proof/Laws/AwayRail.lean ====
section
/-! SUPPORT. What the operations of Machine/Rail.lean stay away from (Laws/Away.lean). -/
set_option linter.all false
set_option Elab.async false

namespace Sys2Proof.Machine

theorem State.setRail_away {K : Nat → Prop} {M : Part → Prop} {base : State} (s : State) (r : Nat) (x : RailS) (hk : Away K M base s) :
    Away K M base (State.setRail s r x) := by
  unfold State.setRail
  try dsimp only
  repeat' (first
    | with_reducible assumption | with_reducible apply Away.four | simp only [Away.mk_iff] | split | intro _)

theorem State.showRail_away {K : Nat → Prop} {M : Part → Prop} {base : State} (s : State) (r : Nat) (hK : ∀ n ∈ [0x30], ¬K n) (hk : Away K M base s) :
    Away K M base (State.showRail s r) := by
  unfold State.showRail
  repeat' (first
    | with_reducible assumption | with_reducible apply State.setBit_away | with_reducible apply State.setFlds_away
    | with_reducible apply Away.flds | with_reducible apply State.setFld_away
    | simp only [List.map_cons, List.map_nil] | simp only [Away.mk_iff] | (refine Away.pages hK ?_; decide)
    | (refine Away.pages hK ?_; simp [R.RAIL_STATE_CAUSE, R.RAIL_STATE_STATE, R.RAIL_STATUS_FENCED]; done) | split
    | intro _)

theorem State.showRails_away {K : Nat → Prop} {M : Part → Prop} {base : State} (s : State) (hK : ∀ n ∈ [0x30], ¬K n) (hk : Away K M base s) :
    Away K M base (State.showRails s) := by
  unfold State.showRails
  repeat' (first
    | with_reducible assumption | with_reducible apply State.showRail_away | with_reducible apply Away.foldl
    | with_reducible apply Away.foldlFst | simp only [Away.mk_iff] | (refine Away.pages hK ?_; decide)
    | (refine Away.pages hK ?_; simp; done) | split | intro _)

theorem State.driveEn_away {K : Nat → Prop} {M : Part → Prop} {base : State} (s : State) (r : Nat) (high : Bool) (hk : Away K M base s) :
    Away K M base (State.driveEn s r high) := by
  unfold State.driveEn
  try dsimp only
  repeat' (first
    | with_reducible assumption | with_reducible apply Away.ite | with_reducible apply Away.four
    | simp only [Away.mk_iff] | split | intro _)

theorem State.driveTrim_away {K : Nat → Prop} {M : Part → Prop} {base : State} (s : State) (r : Nat) (on : Bool) (hk : Away K M base s) :
    Away K M base (State.driveTrim s r on) := by
  unfold State.driveTrim
  try dsimp only
  repeat' (first
    | with_reducible assumption | with_reducible apply Away.ite | with_reducible apply Away.four
    | simp only [Away.mk_iff] | split | intro _)

theorem State.releaseRails_away {K : Nat → Prop} {M : Part → Prop} {base : State} (s : State) (hk : Away K M base s) :
    Away K M base (State.releaseRails s) := by
  unfold State.releaseRails
  try dsimp only
  repeat' (first
    | with_reducible assumption | with_reducible apply Away.four | simp only [Away.mk_iff] | split | intro _)

theorem State.fenceRail_away {K : Nat → Prop} {M : Part → Prop} {base : State} (s : State) (r cause : Nat) (hK : ∀ n ∈ [0x06, 0x30], ¬K n) (hk : Away K M base s) :
    Away K M base (State.fenceRail s r cause) := by
  unfold State.fenceRail
  try dsimp only
  repeat' (first
    | with_reducible assumption | with_reducible apply State.fence_away | with_reducible apply State.irq_away
    | with_reducible apply State.setRail_away | with_reducible apply State.showRail_away
    | with_reducible apply Away.ite | with_reducible apply Away.four | simp only [Away.mk_iff]
    | (refine Away.pages hK ?_; decide) | (refine Away.pages hK ?_; simp; done) | split | intro _)

theorem State.startRail_away {K : Nat → Prop} {M : Part → Prop} {base : State} (s : State) (r : Nat) (hK : ∀ n ∈ [0x30], ¬K n) (hk : Away K M base s) :
    Away K M base (State.startRail s r) := by
  unfold State.startRail
  try dsimp only
  repeat' (first
    | with_reducible assumption | with_reducible apply State.setRail_away | with_reducible apply State.written_away
    | with_reducible apply State.setBit_away | with_reducible apply State.driveEn_away
    | with_reducible apply State.driveTrim_away | with_reducible apply State.showRail_away
    | with_reducible apply Away.ite | with_reducible apply Away.four | with_reducible apply State.setFlds_away
    | with_reducible apply Away.flds | with_reducible apply State.setFld_away
    | simp only [List.map_cons, List.map_nil] | simp only [Away.mk_iff] | (refine Away.pages hK ?_; decide)
    | (refine Away.pages hK ?_; simp [R.RAIL_WIN_LOW_CODE, R.RAIL_OUT_TARGET, R.RAIL_OUT_OUTPUT, R.RAIL_STATUS_NODATA]; done)
    | split | intro _)

theorem State.pmbRefused_away {K : Nat → Prop} {M : Part → Prop} {base : State} (s : State) (r : Nat) (hK : ∀ n ∈ [0x06, 0x30], ¬K n) (hk : Away K M base s) :
    Away K M base (State.pmbRefused s r) := by
  unfold State.pmbRefused
  try dsimp only
  repeat' (first
    | with_reducible assumption | with_reducible apply State.inc_away | with_reducible apply State.setRail_away
    | with_reducible apply State.fenceRail_away | with_reducible apply Away.ite | with_reducible apply Away.four
    | simp only [Away.mk_iff] | (refine Away.pages hK ?_; decide) | (refine Away.pages hK ?_; simp; done) | split
    | intro _)

theorem State.pmbOk_away {K : Nat → Prop} {M : Part → Prop} {base : State} (s : State) (r : Nat) (hk : Away K M base s) :
    Away K M base (State.pmbOk s r) := by
  unfold State.pmbOk
  try dsimp only
  repeat' (first
    | with_reducible assumption | with_reducible apply State.setRail_away | with_reducible apply Away.four
    | simp only [Away.mk_iff] | split | intro _)

theorem State.startEnable_away {K : Nat → Prop} {M : Part → Prop} {base : State} (s : State) (r : Nat) (voutMode : Option Nat) (ok : Bool) (hK : ∀ n ∈ [0x06, 0x30], ¬K n) (hk : Away K M base s) :
    Away K M base (State.startEnable s r voutMode ok) := by
  unfold State.startEnable
  try dsimp only
  repeat' (first
    | with_reducible assumption | with_reducible apply State.driveEn_away | with_reducible apply State.setRail_away
    | with_reducible apply State.showRail_away | with_reducible apply State.pmbRefused_away
    | with_reducible apply State.pmbOk_away | with_reducible apply State.fenceRail_away
    | with_reducible apply State.written_away | with_reducible apply State.emit_away | with_reducible apply Away.ite
    | with_reducible apply Away.four | simp only [Away.mk_iff] | (refine Away.pages hK ?_; decide)
    | (refine Away.pages hK ?_; simp [R.RAIL_OUT_OUTPUT]; done) | split | intro _)

theorem execRailStartEnable_away {K : Nat → Prop} {M : Part → Prop} {base : State} (r : Nat) (voutMode : Option Nat) (ok : Bool) (s : State) (hK : ∀ n ∈ [0x06, 0x30], ¬K n) (hk : Away K M base s) :
    ResAway K M base (execRailStartEnable r voutMode ok s) := by
  unfold execRailStartEnable
  repeat' (first
    | with_reducible assumption | with_reducible apply State.begin_away
    | with_reducible apply State.startEnable_away | with_reducible apply ResAway.next | simp only [Away.mk_iff]
    | (refine Away.pages hK ?_; decide) | (refine Away.pages hK ?_; simp; done) | split | intro _)

theorem State.railRuns_away {K : Nat → Prop} {M : Part → Prop} {base : State} (s : State) (r : Nat) (hK : ∀ n ∈ [0x30], ¬K n) (hk : Away K M base s) :
    Away K M base (State.railRuns s r) := by
  unfold State.railRuns
  try dsimp only
  repeat' (first
    | with_reducible assumption | with_reducible apply State.setRail_away | with_reducible apply State.showRail_away
    | with_reducible apply Away.four | simp only [Away.mk_iff] | (refine Away.pages hK ?_; decide)
    | (refine Away.pages hK ?_; simp; done) | split | intro _)

theorem execRailStartTarget_away {K : Nat → Prop} {M : Part → Prop} {base : State} (r : Nat) (s : State) (hK : ∀ n ∈ [0x30], ¬K n) (hk : Away K M base s) :
    ResAway K M base (execRailStartTarget r s) := by
  unfold execRailStartTarget
  try dsimp only
  repeat' (first
    | with_reducible assumption | with_reducible apply State.begin_away | with_reducible apply State.setRail_away
    | with_reducible apply State.setFld_away | with_reducible apply State.railRuns_away
    | with_reducible apply State.showRail_away | with_reducible apply Away.ite | with_reducible apply ResAway.ite
    | with_reducible apply ResAway.next | with_reducible apply Away.four | simp only [Away.mk_iff]
    | (refine Away.pages hK ?_; decide)
    | (refine Away.pages hK ?_; simp [R.RAIL_CODES_SAFE_CODE, R.RAIL_START_START_CODE, R.RAIL_OUT_TARGET, R.RAIL_OUT_OUTPUT]; done)
    | split | intro _)

theorem State.rampRail_away {K : Nat → Prop} {M : Part → Prop} {base : State} (s : State) (r : Nat) (hK : ∀ n ∈ [0x30], ¬K n) (hk : Away K M base s) :
    Away K M base (State.rampRail s r) := by
  unfold State.rampRail
  try dsimp only
  repeat' (first
    | with_reducible assumption | with_reducible apply State.setRail_away | with_reducible apply State.setFld_away
    | with_reducible apply State.railRuns_away | with_reducible apply Away.ite | with_reducible apply Away.four
    | simp only [Away.mk_iff] | (refine Away.pages hK ?_; decide)
    | (refine Away.pages hK ?_; simp [R.RAIL_OUT_TARGET, R.RAIL_CODES_SAFE_CODE, R.RAIL_OUT_OUTPUT, R.RAIL_RAMP_RAMP]; done)
    | split | intro _)

theorem execRailRampTick_away {K : Nat → Prop} {M : Part → Prop} {base : State} (s : State) (hK : ∀ n ∈ [0x30], ¬K n) (hk : Away K M base s) :
    ResAway K M base (execRailRampTick s) := by
  unfold execRailRampTick
  try dsimp only
  repeat' (first
    | with_reducible assumption | with_reducible apply State.begin_away | with_reducible apply State.rampRail_away
    | with_reducible apply Away.ite | with_reducible apply ResAway.ite | with_reducible apply ResAway.next
    | with_reducible apply Away.foldl | with_reducible apply Away.foldlFst | simp only [Away.mk_iff]
    | (refine Away.pages hK ?_; decide) | (refine Away.pages hK ?_; simp; done) | split | intro _)

theorem execPmbusVoutWrite_away {K : Nat → Prop} {M : Part → Prop} {base : State} (r : Nat) (ok : Bool) (s : State) (hK : ∀ n ∈ [0x06, 0x30], ¬K n) (hk : Away K M base s) :
    ResAway K M base (execPmbusVoutWrite r ok s) := by
  unfold execPmbusVoutWrite
  try dsimp only
  repeat' (first
    | with_reducible assumption | with_reducible apply State.begin_away | with_reducible apply State.written_away
    | with_reducible apply State.pmbOk_away | with_reducible apply State.setRail_away
    | with_reducible apply State.emit_away | with_reducible apply State.pmbRefused_away
    | with_reducible apply Away.ite | with_reducible apply ResAway.ite | with_reducible apply ResAway.next
    | with_reducible apply Away.four | simp only [Away.mk_iff] | (refine Away.pages hK ?_; decide)
    | (refine Away.pages hK ?_; simp [R.RAIL_OUT_OUTPUT, R.RAIL_RAMP_RAMP]; done) | split | intro _)

theorem State.countFigure_away {K : Nat → Prop} {M : Part → Prop} {base : State} (s : State) (r h : Nat) (hK : ∀ n ∈ [0x30], ¬K n) (hk : Away K M base s) :
    Away K M base (State.countFigure s r h) := by
  unfold State.countFigure
  try dsimp only
  repeat' (first
    | with_reducible assumption | with_reducible apply State.setRail_away | with_reducible apply State.setFld_away
    | with_reducible apply State.inc_away | with_reducible apply State.irq_away | with_reducible apply Away.ite
    | with_reducible apply Away.four | simp only [Away.mk_iff] | (refine Away.pages hK ?_; decide)
    | (refine Away.pages hK ?_; simp [R.RAIL_HEAD_FLOOR_MV, R.RAIL_OUT_TARGET, R.RAIL_WIN_HIGH_CODE, R.RAIL_STEP_FAST_STEP, R.RAIL_CNT_FLOOR_N]; done)
    | split | intro _)

theorem State.countReport_away {K : Nat → Prop} {M : Part → Prop} {base : State} (s : State) (strand status : Nat) (heads : List Nat) (hK : ∀ n ∈ [0x30], ¬K n) (hk : Away K M base s) :
    Away K M base (State.countReport s strand status heads) := by
  unfold State.countReport
  try dsimp only
  repeat' (first
    | with_reducible assumption | with_reducible apply State.inc_away | with_reducible apply State.countFigure_away
    | with_reducible apply Away.ite | with_reducible apply Away.foldl | with_reducible apply Away.foldlFst
    | simp only [Away.mk_iff] | (refine Away.pages hK ?_; decide)
    | (refine Away.pages hK ?_; simp [R.STR_CFG_EN, R.RAIL_CTRL_USE_OPEN, R.RAIL_CNT_EXCL_N]; done) | split
    | intro _)

theorem State.loopPeriod_away {K : Nat → Prop} {M : Part → Prop} {base : State} (s : State) (r : Nat) (e : Ecc) (hK : ∀ n ∈ [0x06, 0x30, 0x31], ¬K n) (hk : Away K M base s) :
    Away K M base (State.loopPeriod s r e) := by
  unfold State.loopPeriod
  try dsimp only
  repeat' (first
    | with_reducible assumption | with_reducible apply State.setBit_away | with_reducible apply State.irq_away
    | with_reducible apply State.telemItem_away | with_reducible apply State.setRail_away
    | with_reducible apply State.showRail_away | with_reducible apply Away.ite | with_reducible apply Away.four
    | with_reducible apply State.setFlds_away | with_reducible apply Away.flds
    | with_reducible apply State.setFld_away | simp only [List.map_cons, List.map_nil] | simp only [Away.mk_iff]
    | (refine Away.pages hK ?_; decide)
    | (refine Away.pages hK ?_; simp [R.RAIL_STATUS_NODATA, R.RAIL_CTRL_STALE, R.RAIL_CODES_NODATA_CODE, R.RAIL_OUT_TARGET, R.RAIL_HMIN_REPORTS, R.RAIL_HMIN_HMIN, R.RAIL_OUT_OUTPUT]; done)
    | split | intro _)

theorem execRailLoopPeriod_away {K : Nat → Prop} {M : Part → Prop} {base : State} (r : Nat) (e : Ecc) (s : State) (hK : ∀ n ∈ [0x06, 0x30, 0x31], ¬K n) (hk : Away K M base s) :
    ResAway K M base (execRailLoopPeriod r e s) := by
  unfold execRailLoopPeriod
  try dsimp only
  repeat' (first
    | with_reducible assumption | with_reducible apply State.begin_away | with_reducible apply State.loopPeriod_away
    | with_reducible apply Away.ite | with_reducible apply ResAway.ite | with_reducible apply ResAway.next
    | simp only [Away.mk_iff] | (refine Away.pages hK ?_; decide) | (refine Away.pages hK ?_; simp; done) | split
    | intro _)

theorem State.readStatus_away {K : Nat → Prop} {M : Part → Prop} {base : State} (s : State) (r : Nat) (v : Option Nat) (hK : ∀ n ∈ [0x06, 0x30], ¬K n)
    (hk : Away K M base s) : Away K M base (s.readStatus r v) := by
  cases v with
  | none => exact State.pmbRefused_away s r (Away.pages hK (by decide)) hk
  | some w =>
    have h1 := State.setFld_away _ (R.RAIL_VOUT_STATUS_WORD r) w (Away.pages hK (by simp [R.RAIL_VOUT_STATUS_WORD]))
      (State.setRail_away _ r { (s.pmbOk r).rail r with statusOk := true } (State.pmbOk_away s r hk))
    unfold State.readStatus
    dsimp only
    split
    · exact State.fenceRail_away _ _ _ (Away.pages hK (by decide)) h1
    · exact h1

theorem State.statusItem_away {K : Nat → Prop} {M : Part → Prop} {base : State} (s : State) (r : Nat) (e : Ecc) (hK : ∀ n ∈ [0x06, 0x31], ¬K n) (hk : Away K M base s) :
    Away K M base (State.statusItem s r e) := by
  unfold State.statusItem
  try dsimp only
  repeat' (first
    | with_reducible assumption | with_reducible apply State.telemItem_away
    | with_reducible apply State.written_away | simp only [Away.mk_iff] | (refine Away.pages hK ?_; decide)
    | (refine Away.pages hK ?_; simp [R.RAIL_VOUT_STATUS_WORD, R.RAIL_VOUT_READ_VOUT]; done) | split | intro _)

theorem State.noteStatus_away {K : Nat → Prop} {M : Part → Prop} {base : State} (s : State) (r : Nat) (status : Option Nat) (due : Bool) (e : Ecc) (hK : ∀ n ∈ [0x06, 0x31], ¬K n) (hk : Away K M base s) :
    Away K M base (State.noteStatus s r status due e) := by
  unfold State.noteStatus
  try dsimp only
  repeat' (first
    | with_reducible assumption | with_reducible apply State.setRail_away
    | with_reducible apply State.statusItem_away | with_reducible apply Away.ite | with_reducible apply Away.four
    | simp only [Away.mk_iff] | (refine Away.pages hK ?_; decide) | (refine Away.pages hK ?_; simp; done) | split
    | intro _)

theorem State.statusPoll_away {K : Nat → Prop} {M : Part → Prop} {base : State} (s : State) (r : Nat) (status vout : Option Nat) (e : Ecc) (hK : ∀ n ∈ [0x06, 0x30, 0x31], ¬K n) (hk : Away K M base s) :
    Away K M base (State.statusPoll s r status vout e) := by
  unfold State.statusPoll
  try dsimp only
  repeat' (first
    | with_reducible assumption | with_reducible apply State.readStatus_away
    | with_reducible apply State.pmbRefused_away | with_reducible apply State.pmbOk_away
    | with_reducible apply State.setFld_away | with_reducible apply State.setRail_away
    | with_reducible apply State.noteStatus_away | with_reducible apply Away.four | simp only [Away.mk_iff]
    | (refine Away.pages hK ?_; decide) | (refine Away.pages hK ?_; simp [R.RAIL_VOUT_READ_VOUT]; done) | split
    | intro _)

theorem execPmbusStatusPoll_away {K : Nat → Prop} {M : Part → Prop} {base : State} (r : Nat) (status vout : Option Nat) (e : Ecc) (s : State) (hK : ∀ n ∈ [0x06, 0x30, 0x31], ¬K n) (hk : Away K M base s) :
    ResAway K M base (execPmbusStatusPoll r status vout e s) := by
  unfold execPmbusStatusPoll
  try dsimp only
  repeat' (first
    | with_reducible assumption | with_reducible apply State.begin_away | with_reducible apply State.statusPoll_away
    | with_reducible apply Away.ite | with_reducible apply ResAway.ite | with_reducible apply ResAway.next
    | simp only [Away.mk_iff] | (refine Away.pages hK ?_; decide) | (refine Away.pages hK ?_; simp; done) | split
    | intro _)

theorem execPmbAlert_away {K : Nat → Prop} {M : Part → Prop} {base : State} (reads : AlertReads) (s : State) (hK : ∀ n ∈ [0x06, 0x30, 0x31], ¬K n) (hk : Away K M base s) :
    ResAway K M base (execPmbAlert reads s) := by
  unfold execPmbAlert
  try dsimp only
  repeat' (first
    | with_reducible assumption | with_reducible apply State.begin_away | with_reducible apply State.irq_away
    | with_reducible apply State.readStatus_away | with_reducible apply State.noteStatus_away
    | with_reducible apply Away.ite | with_reducible apply ResAway.ite | with_reducible apply ResAway.next
    | with_reducible apply Away.foldl | with_reducible apply Away.foldlFst | with_reducible apply Away.four
    | simp only [Away.mk_iff] | (refine Away.pages hK ?_; decide) | (refine Away.pages hK ?_; simp; done) | split
    | intro _)

theorem execPmbusFwBus_away {K : Nat → Prop} {M : Part → Prop} {base : State} (m : Master) (v : Bool) (s : State) (hK : ∀ n ∈ [0x30], ¬K n) (hk : Away K M base s) :
    ResAway K M base (execPmbusFwBus m v s) := by
  unfold execPmbusFwBus
  try dsimp only
  repeat' (first
    | with_reducible assumption | with_reducible apply State.begin_away | with_reducible apply State.asWrite_away
    | with_reducible apply State.setFlag_away | with_reducible apply ResAway.next | simp only [Away.mk_iff]
    | (refine Away.pages hK ?_; decide) | (refine Away.pages hK ?_; simp; done) | split | intro _)

theorem execTrimFault_away {K : Nat → Prop} {M : Part → Prop} {base : State} (r : Nat) (s : State) (hK : ∀ n ∈ [0x06, 0x30], ¬K n) (hk : Away K M base s) :
    ResAway K M base (execTrimFault r s) := by
  unfold execTrimFault
  try dsimp only
  repeat' (first
    | with_reducible assumption | with_reducible apply State.begin_away | with_reducible apply State.fenceRail_away
    | with_reducible apply Away.ite | with_reducible apply ResAway.ite | with_reducible apply ResAway.next
    | simp only [Away.mk_iff] | (refine Away.pages hK ?_; decide) | (refine Away.pages hK ?_; simp; done) | split
    | intro _)

theorem execRailHoldExpiry_away {K : Nat → Prop} {M : Part → Prop} {base : State} (r : Nat) (s : State) (hK : ∀ n ∈ [0x30], ¬K n) (hk : Away K M base s) :
    ResAway K M base (execRailHoldExpiry r s) := by
  unfold execRailHoldExpiry
  try dsimp only
  repeat' (first
    | with_reducible assumption | with_reducible apply State.begin_away | with_reducible apply State.setRail_away
    | with_reducible apply State.driveEn_away | with_reducible apply State.showRail_away
    | with_reducible apply State.setFld_away | with_reducible apply Away.ite | with_reducible apply ResAway.ite
    | with_reducible apply ResAway.next | with_reducible apply Away.four | simp only [Away.mk_iff]
    | (refine Away.pages hK ?_; decide)
    | (refine Away.pages hK ?_; simp [R.RAIL_OUT_TARGET, R.RAIL_CODES_SAFE_CODE]; done) | split | intro _)

theorem State.railsReleased_away {K : Nat → Prop} {M : Part → Prop} {base : State} (s : State) (hK : ∀ n ∈ [0x30], ¬K n) (hk : Away K M base s) :
    Away K M base (State.railsReleased s) := by
  unfold State.railsReleased
  try dsimp only
  repeat' (first
    | with_reducible assumption | with_reducible apply State.setRail_away
    | with_reducible apply State.showRails_away | with_reducible apply Away.ite | with_reducible apply Away.foldl
    | with_reducible apply Away.foldlFst | with_reducible apply Away.four | simp only [Away.mk_iff]
    | (refine Away.pages hK ?_; decide) | (refine Away.pages hK ?_; simp; done) | split | intro _)

theorem State.resumeRails_away {K : Nat → Prop} {M : Part → Prop} {base : State} (s : State) (hK : ∀ n ∈ [0x30], ¬K n) (hk : Away K M base s) :
    Away K M base (State.resumeRails s) := by
  unfold State.resumeRails
  try dsimp only
  repeat' (first
    | with_reducible assumption | with_reducible apply State.setRail_away | with_reducible apply State.setFld_away
    | with_reducible apply State.railRuns_away | with_reducible apply State.startRail_away
    | with_reducible apply Away.ite | with_reducible apply Away.foldl | with_reducible apply Away.foldlFst
    | with_reducible apply Away.four | simp only [Away.mk_iff] | (refine Away.pages hK ?_; decide)
    | (refine Away.pages hK ?_; simp [R.RAIL_START_START_CODE, R.RAIL_OUT_OUTPUT, R.RAIL_OUT_TARGET]; done) | split
    | intro _)

theorem State.railsReturn_away {K : Nat → Prop} {M : Part → Prop} {base : State} (s : State) (hk : Away K M base s) :
    Away K M base (State.railsReturn s) := by
  unfold State.railsReturn
  try dsimp only
  repeat' (first
    | with_reducible assumption | with_reducible apply Away.four | simp only [Away.mk_iff] | split | intro _)

theorem State.switchRail_away {K : Nat → Prop} {M : Part → Prop} {base : State} (s before : State) (had : Bool) (r : Nat) (hK : ∀ n ∈ [0x30], ¬K n) (hk : Away K M base s) :
    Away K M base (State.switchRail s before had r) := by
  unfold State.switchRail
  try dsimp only
  repeat' (first
    | with_reducible assumption | with_reducible apply State.driveEn_away | with_reducible apply State.setRail_away
    | with_reducible apply State.showRail_away | with_reducible apply State.releaseFences_away
    | with_reducible apply State.startRail_away | with_reducible apply State.setFld_away
    | with_reducible apply Away.ite | with_reducible apply Away.four | simp only [Away.mk_iff]
    | (refine Away.pages hK ?_; decide)
    | (refine Away.pages hK ?_; simp [R.RAIL_CTRL_PMB_ADDR, R.RAIL_WIN_LOW_CODE, R.RAIL_WIN_HIGH_CODE, R.RAIL_OUT_TARGET, R.RAIL_START_START_CODE]; done)
    | split | intro _)

theorem execRailStopHoldEnd_away {K : Nat → Prop} {M : Part → Prop} {base : State} (r : Nat) (restart : Bool) (s : State) (hK : ∀ n ∈ [0x30], ¬K n) (hk : Away K M base s) :
    ResAway K M base (execRailStopHoldEnd r restart s) := by
  unfold execRailStopHoldEnd
  try dsimp only
  repeat' (first
    | with_reducible assumption | with_reducible apply State.begin_away
    | with_reducible apply State.releaseFences_away | with_reducible apply State.startRail_away
    | with_reducible apply State.driveTrim_away | with_reducible apply State.setRail_away
    | with_reducible apply State.showRail_away | with_reducible apply Away.ite | with_reducible apply ResAway.ite
    | with_reducible apply ResAway.next | with_reducible apply Away.four | simp only [Away.mk_iff]
    | (refine Away.pages hK ?_; decide) | (refine Away.pages hK ?_; simp; done) | split | intro _)

theorem State.takeRails_away {K : Nat → Prop} {M : Part → Prop} {base : State} (s : State) (hK : ∀ n ∈ [0x30], ¬K n) (hk : Away K M base s) :
    Away K M base (State.takeRails s) := by
  unfold State.takeRails
  try dsimp only
  repeat' (first
    | with_reducible assumption | with_reducible apply State.fresh_away | with_reducible apply State.driveTrim_away
    | with_reducible apply State.driveEn_away | with_reducible apply State.showRail_away
    | with_reducible apply State.startRail_away | with_reducible apply Away.ite | with_reducible apply Away.foldl
    | with_reducible apply Away.foldlFst | simp only [Away.mk_iff] | (refine Away.pages hK ?_; decide)
    | (refine Away.pages hK ?_; simp; done) | split | intro _)

theorem State.claimRails_away {K : Nat → Prop} {M : Part → Prop} {base : State} (s : State) (hK : ∀ n ∈ [0x30], ¬K n) (hk : Away K M base s) :
    Away K M base (State.claimRails s) := by
  unfold State.claimRails
  repeat' (first
    | with_reducible assumption | with_reducible apply State.startRail_away | with_reducible apply Away.foldl
    | with_reducible apply Away.foldlFst | simp only [Away.mk_iff] | (refine Away.pages hK ?_; decide)
    | (refine Away.pages hK ?_; simp; done) | split | intro _)

theorem State.giveRails_away {K : Nat → Prop} {M : Part → Prop} {base : State} (s : State) (hK : ∀ n ∈ [0x30], ¬K n) (hk : Away K M base s) :
    Away K M base (State.giveRails s) := by
  unfold State.giveRails
  try dsimp only
  repeat' (first
    | with_reducible assumption | with_reducible apply State.showRails_away | with_reducible apply Away.four
    | simp only [Away.mk_iff] | (refine Away.pages hK ?_; decide) | (refine Away.pages hK ?_; simp; done) | split
    | intro _)

theorem execHandoverEnableDrop_away {K : Nat → Prop} {M : Part → Prop} {base : State} (s : State) (hk : Away K M base s) :
    ResAway K M base (execHandoverEnableDrop s) := by
  unfold execHandoverEnableDrop
  try dsimp only
  repeat' (first
    | with_reducible assumption | with_reducible apply State.begin_away
    | with_reducible apply State.releaseRails_away | with_reducible apply Away.ite
    | with_reducible apply ResAway.ite | with_reducible apply ResAway.next | with_reducible apply Away.four
    | simp only [Away.mk_iff] | split | intro _)

end Sys2Proof.Machine
end

