-- ==== Sys2Proof/Laws/AwayMeter.lean ====
section
/-! SUPPORT. What the operations of Machine/Meter.lean stay away from (Laws/Away.lean). -/
set_option linter.all false
set_option Elab.async false

namespace Sys2Proof.Machine

theorem State.showAcc_away {K : Nat → Prop} {M : Part → Prop} {base : State} (s : State) (a : Nat) (hK : ∀ n ∈ [0x36], ¬K n) (hk : Away K M base s) :
    Away K M base (State.showAcc s a) := by
  unfold State.showAcc
  try dsimp only
  repeat' (first
    | with_reducible assumption | with_reducible apply State.setFlds_away | with_reducible apply Away.flds
    | with_reducible apply State.setFld_away | simp only [List.map_cons, List.map_nil] | simp only [Away.mk_iff]
    | (refine Away.pages hK ?_; decide)
    | (refine Away.pages hK ?_; simp [R.METER_ACC_A_LO_E_LO, R.METER_ACC_A_HI_E_HI, R.METER_ACC_A_VIEW_MWH, R.METER_ACC_A_WRAP_WRAP, R.METER_ACC_A_DISP_MWH]; done)
    | split | intro _)

theorem State.addAcc_away {K : Nat → Prop} {M : Part → Prop} {base : State} (s : State) (a w : Nat) (hK : ∀ n ∈ [0x36], ¬K n) (hk : Away K M base s) :
    Away K M base (State.addAcc s a w) := by
  unfold State.addAcc
  try dsimp only
  repeat' (first
    | with_reducible assumption | with_reducible apply State.showAcc_away | with_reducible apply Away.four
    | simp only [Away.mk_iff] | (refine Away.pages hK ?_; decide) | (refine Away.pages hK ?_; simp; done) | split
    | intro _)

theorem State.addSigned_away {K : Nat → Prop} {M : Part → Prop} {base : State} (s : State) (imp exp : Nat) (w : Int) (hK : ∀ n ∈ [0x36], ¬K n) (hk : Away K M base s) :
    Away K M base (State.addSigned s imp exp w) := by
  unfold State.addSigned
  repeat' (first
    | with_reducible assumption | with_reducible apply State.addAcc_away | with_reducible apply Away.ite
    | simp only [Away.mk_iff] | (refine Away.pages hK ?_; decide) | (refine Away.pages hK ?_; simp; done) | split
    | intro _)

theorem State.addDisp_away {K : Nat → Prop} {M : Part → Prop} {base : State} (s : State) (a w : Nat) (hK : ∀ n ∈ [0x36], ¬K n) (hk : Away K M base s) :
    Away K M base (State.addDisp s a w) := by
  unfold State.addDisp
  try dsimp only
  repeat' (first
    | with_reducible assumption | with_reducible apply State.showAcc_away | with_reducible apply Away.four
    | simp only [Away.mk_iff] | (refine Away.pages hK ?_; decide) | (refine Away.pages hK ?_; simp; done) | split
    | intro _)

theorem State.addDisps_away {K : Nat → Prop} {M : Part → Prop} {base : State} (s : State) (w : Nat) (as : List Nat) (hK : ∀ n ∈ [0x36], ¬K n) (hk : Away K M base s) :
    Away K M base (State.addDisps s w as) := by
  unfold State.addDisps
  try dsimp only
  repeat' (first
    | with_reducible assumption | with_reducible apply State.addDisp_away | with_reducible apply Away.foldl
    | with_reducible apply Away.foldlFst | simp only [Away.mk_iff] | (refine Away.pages hK ?_; decide)
    | (refine Away.pages hK ?_; simp; done) | split | intro _)

theorem State.mramWrite_away {K : Nat → Prop} {M : Part → Prop} {base : State} (s : State) (a : Nat) (bs : List Byte) (hM : ∀ p ∈ [.mram], ¬M p) (hk : Away K M base s) :
    Away K M base (State.mramWrite s a bs) := by
  unfold State.mramWrite
  try dsimp only
  repeat' (first
    | with_reducible assumption | with_reducible apply Away.four | with_reducible apply Away.fourMem
    | simp only [Away.mk_iff]
    | (intro (p : Part) hp; cases p <;> first | exact absurd hp (hM _ (by decide)) | (simp only [Mems.part, State.drawn_mem]; done))
    | (refine Away.parts hM ?_; decide) | split | intro _)

theorem State.capture_away {K : Nat → Prop} {M : Part → Prop} {base : State} (s : State) (reason : Nat) (hK : ∀ n ∈ [0x36], ¬K n) (hM : ∀ p ∈ [.mram], ¬M p) (hk : Away K M base s) :
    Away K M base (State.capture s reason) := by
  unfold State.capture
  try dsimp only
  repeat' (first
    | with_reducible assumption | with_reducible apply State.mramWrite_away | with_reducible apply State.setFld_away
    | with_reducible apply Away.ite | with_reducible apply Away.four | simp only [Away.mk_iff]
    | (refine Away.pages hK ?_; decide) | (refine Away.pages hK ?_; simp; done) | (refine Away.parts hM ?_; decide)
    | split | intro _)

theorem State.writePeak_away {K : Nat → Prop} {M : Part → Prop} {base : State} (s : State) (e : Nat) (hM : ∀ p ∈ [.mram], ¬M p) (hk : Away K M base s) :
    Away K M base (State.writePeak s e) := by
  unfold State.writePeak
  try dsimp only
  repeat' (first
    | with_reducible assumption | with_reducible apply State.mramWrite_away | simp only [Away.mk_iff]
    | (refine Away.parts hM ?_; decide) | split | intro _)

theorem State.notePeak_away {K : Nat → Prop} {M : Part → Prop} {base : State} (s : State) (e v i vMax iMax : Nat) (hM : ∀ p ∈ [.mram], ¬M p) (hk : Away K M base s) :
    Away K M base (State.notePeak s e v i vMax iMax) := by
  unfold State.notePeak
  try dsimp only
  repeat' (first
    | with_reducible assumption | with_reducible apply State.writePeak_away | with_reducible apply Away.ite
    | with_reducible apply Away.four | simp only [Away.mk_iff] | (refine Away.parts hM ?_; decide) | split | intro _)

theorem State.closeAc_away {K : Nat → Prop} {M : Part → Prop} {base : State} (s : State) (hK : ∀ n ∈ [0x34, 0x36], ¬K n) (hk : Away K M base s) :
    Away K M base (State.closeAc s) := by
  unfold State.closeAc
  try dsimp only
  repeat' (first
    | with_reducible assumption | with_reducible apply State.setFld_away | with_reducible apply State.addSigned_away
    | with_reducible apply State.addAcc_away | with_reducible apply State.addDisps_away
    | with_reducible apply State.settle_away | with_reducible apply State.inc_away
    | with_reducible apply State.irq_away | with_reducible apply Away.ite | with_reducible apply Away.foldl
    | with_reducible apply Away.foldlFst | with_reducible apply Away.four | with_reducible apply State.setFlds_away
    | with_reducible apply Away.flds | with_reducible apply State.setFld_away
    | simp only [List.map_cons, List.map_nil] | simp only [Away.mk_iff] | (refine Away.pages hK ?_; decide)
    | (refine Away.pages hK ?_; simp [R.METER_AC_VFS_VFS_MV, R.METER_AC_IFS_IFS_MA, R.METER_AC_VRMS_MV, R.METER_AC_P_MW, R.METER_AC_S_MW, R.METER_AC_PF_PF, R.METER_AC_IRMS_MA, R.METER_AC_FREQ_MHZ, R.METER_ACC_STATUS_INVALID, R.METER_AC_STATUS_VALID, R.METER_AC_STATUS_CLIPPED, R.METER_AC_STATUS_SETTLING, R.METER_AC_CNT_WIN_N]; done)
    | split | intro _)

theorem State.closeDc_away {K : Nat → Prop} {M : Part → Prop} {base : State} (s : State) (hK : ∀ n ∈ [0x35, 0x36], ¬K n) (hk : Away K M base s) :
    Away K M base (State.closeDc s) := by
  unfold State.closeDc
  try dsimp only
  repeat' (first
    | with_reducible assumption | with_reducible apply State.addSigned_away
    | with_reducible apply State.addDisps_away | with_reducible apply State.setFld_away
    | with_reducible apply State.settle_away | with_reducible apply State.inc_away
    | with_reducible apply State.irq_away | with_reducible apply Away.ite | with_reducible apply Away.foldl
    | with_reducible apply Away.foldlFst | with_reducible apply Away.four | with_reducible apply State.setFlds_away
    | with_reducible apply Away.flds | with_reducible apply State.setFld_away
    | simp only [List.map_cons, List.map_nil] | simp only [Away.mk_iff] | (refine Away.pages hK ?_; decide)
    | (refine Away.pages hK ?_; simp [R.METER_DC_IFS_IFS_MA, R.METER_DC_I_MA, R.METER_DC_V_MV, R.METER_DC_P_MW, R.METER_ACC_STATUS_INVALID, R.METER_DC_STATUS_VALID, R.METER_DC_SETTLE_CLIPPED, R.METER_DC_SETTLE_SETTLING, R.METER_DC_CNT_WIN_N]; done)
    | split | intro _)

theorem State.closeWindows_away {K : Nat → Prop} {M : Part → Prop} {base : State} (s : State) (hK : ∀ n ∈ [0x34, 0x35, 0x36], ¬K n) (hk : Away K M base s) :
    Away K M base (State.closeWindows s) := by
  unfold State.closeWindows
  repeat' (first
    | with_reducible assumption | with_reducible apply State.closeAc_away | with_reducible apply State.closeDc_away
    | simp only [Away.mk_iff] | (refine Away.pages hK ?_; decide) | (refine Away.pages hK ?_; simp; done) | split
    | intro _)

theorem State.saveDue_away {K : Nat → Prop} {M : Part → Prop} {base : State} (s : State) (reason : Nat) (hK : ∀ n ∈ [0x34, 0x35, 0x36], ¬K n) (hM : ∀ p ∈ [.mram], ¬M p) (hk : Away K M base s) :
    Away K M base (State.saveDue s reason) := by
  unfold State.saveDue
  try dsimp only
  repeat' (first
    | with_reducible assumption | with_reducible apply State.capture_away
    | with_reducible apply State.closeWindows_away | with_reducible apply Away.ite | with_reducible apply Away.four
    | simp only [Away.mk_iff] | (refine Away.pages hK ?_; decide) | (refine Away.pages hK ?_; simp; done)
    | (refine Away.parts hM ?_; decide) | split | intro _)

theorem State.meterStops_away {K : Nat → Prop} {M : Part → Prop} {base : State} (s : State) (hK : ∀ n ∈ [0x34, 0x35, 0x36], ¬K n) (hM : ∀ p ∈ [.mram], ¬M p) (hk : Away K M base s) :
    Away K M base (State.meterStops s) := by
  unfold State.meterStops
  try dsimp only
  repeat' (first
    | with_reducible assumption | with_reducible apply State.saveDue_away | with_reducible apply Away.ite
    | with_reducible apply Away.four | simp only [Away.mk_iff] | (refine Away.pages hK ?_; decide)
    | (refine Away.pages hK ?_; simp; done) | (refine Away.parts hM ?_; decide) | split | intro _)

theorem State.closeWithSave_away {K : Nat → Prop} {M : Part → Prop} {base : State} (s : State) (hK : ∀ n ∈ [0x34, 0x35, 0x36], ¬K n) (hM : ∀ p ∈ [.mram], ¬M p) (hk : Away K M base s) :
    Away K M base (State.closeWithSave s) := by
  unfold State.closeWithSave
  try dsimp only
  repeat' (first
    | with_reducible assumption | with_reducible apply State.closeWindows_away
    | with_reducible apply State.saveDue_away | with_reducible apply Away.ite | simp only [Away.mk_iff]
    | (refine Away.pages hK ?_; decide) | (refine Away.pages hK ?_; simp; done) | (refine Away.parts hM ?_; decide)
    | split | intro _)

theorem execMeterWindowClose_away {K : Nat → Prop} {M : Part → Prop} {base : State} (s : State) (hK : ∀ n ∈ [0x34, 0x35, 0x36], ¬K n) (hM : ∀ p ∈ [.mram], ¬M p) (hk : Away K M base s) :
    ResAway K M base (execMeterWindowClose s) := by
  unfold execMeterWindowClose
  try dsimp only
  repeat' (first
    | with_reducible assumption | with_reducible apply State.begin_away | with_reducible apply State.meterStops_away
    | with_reducible apply State.closeWithSave_away | with_reducible apply Away.ite
    | with_reducible apply ResAway.ite | with_reducible apply ResAway.next | simp only [Away.mk_iff]
    | (refine Away.pages hK ?_; decide) | (refine Away.pages hK ?_; simp; done) | (refine Away.parts hM ?_; decide)
    | split | intro _)

theorem State.saveDone_away {K : Nat → Prop} {M : Part → Prop} {base : State} (s : State) (ok : Bool) (hK : ∀ n ∈ [0x06, 0x34, 0x35, 0x36], ¬K n) (hM : ∀ p ∈ [.mram], ¬M p) (hk : Away K M base s) :
    Away K M base (State.saveDone s ok) := by
  unfold State.saveDone
  try dsimp only
  repeat' (first
    | with_reducible assumption | with_reducible apply State.setFld_away | with_reducible apply State.mramWrite_away
    | with_reducible apply State.record_away | with_reducible apply State.inc_away
    | with_reducible apply State.irq_away | with_reducible apply State.writePeak_away
    | with_reducible apply State.event_away | with_reducible apply State.closeWindows_away
    | with_reducible apply State.capture_away | with_reducible apply Away.ite | with_reducible apply Away.foldl
    | with_reducible apply Away.foldlFst | with_reducible apply Away.four | simp only [Away.mk_iff]
    | (refine Away.pages hK ?_; decide) | (refine Away.pages hK ?_; simp; done) | (refine Away.parts hM ?_; decide)
    | split | intro _)

theorem State.abandonSave_away {K : Nat → Prop} {M : Part → Prop} {base : State} (s : State) (hK : ∀ n ∈ [0x36], ¬K n) (hk : Away K M base s) :
    Away K M base (State.abandonSave s) := by
  unfold State.abandonSave
  try dsimp only
  repeat' (first
    | with_reducible assumption | with_reducible apply State.setFld_away | with_reducible apply Away.four
    | simp only [Away.mk_iff] | (refine Away.pages hK ?_; decide) | (refine Away.pages hK ?_; simp; done) | split
    | intro _)

theorem State.pfSave_away {K : Nat → Prop} {M : Part → Prop} {base : State} (s : State) (hK : ∀ n ∈ [0x34, 0x35, 0x36], ¬K n) (hM : ∀ p ∈ [.mram], ¬M p) (hk : Away K M base s) :
    Away K M base (State.pfSave s) := by
  unfold State.pfSave
  try dsimp only
  repeat' (first
    | with_reducible assumption | with_reducible apply State.capture_away
    | with_reducible apply State.closeWindows_away | with_reducible apply Away.ite | with_reducible apply Away.four
    | simp only [Away.mk_iff] | (refine Away.pages hK ?_; decide) | (refine Away.pages hK ?_; simp; done)
    | (refine Away.parts hM ?_; decide) | split | intro _)

theorem execMeterPfRepeatEnd_away {K : Nat → Prop} {M : Part → Prop} {base : State} (s : State) (hk : Away K M base s) :
    ResAway K M base (execMeterPfRepeatEnd s) := by
  unfold execMeterPfRepeatEnd
  try dsimp only
  repeat' (first
    | with_reducible assumption | with_reducible apply State.begin_away | with_reducible apply ResAway.next
    | with_reducible apply Away.four | simp only [Away.mk_iff] | split | intro _)

theorem State.acSample_away {K : Nat → Prop} {M : Part → Prop} {base : State} (s : State) (codes : List Int) (hK : ∀ n ∈ [0x34], ¬K n) (hM : ∀ p ∈ [.mram], ¬M p) (hk : Away K M base s) :
    Away K M base (State.acSample s codes) := by
  unfold State.acSample
  try dsimp only
  repeat' (first
    | with_reducible assumption | with_reducible apply State.notePeak_away | with_reducible apply State.add_away
    | with_reducible apply State.irq_away | with_reducible apply Away.ite | with_reducible apply Away.foldl
    | with_reducible apply Away.foldlFst | with_reducible apply Away.four | simp only [Away.mk_iff]
    | (refine Away.pages hK ?_; decide)
    | (refine Away.pages hK ?_; simp [R.METER_AC_VGAIN_VGAIN, R.METER_AC_CNT_CLIP_N]; done)
    | (refine Away.parts hM ?_; decide) | split | intro _)

theorem State.rollWindow_away {K : Nat → Prop} {M : Part → Prop} {base : State} (s : State) (full : Bool) (hK : ∀ n ∈ [0x34, 0x35, 0x36], ¬K n) (hM : ∀ p ∈ [.mram], ¬M p) (hk : Away K M base s) :
    Away K M base (State.rollWindow s full) := by
  unfold State.rollWindow
  repeat' (first
    | with_reducible assumption | with_reducible apply State.closeWithSave_away | with_reducible apply Away.ite
    | simp only [Away.mk_iff] | (refine Away.pages hK ?_; decide) | (refine Away.pages hK ?_; simp; done)
    | (refine Away.parts hM ?_; decide) | split | intro _)

theorem execMeterAcSample_away {K : Nat → Prop} {M : Part → Prop} {base : State} (codes : List Int) (s : State) (hK : ∀ n ∈ [0x34, 0x35, 0x36], ¬K n) (hM : ∀ p ∈ [.mram], ¬M p) (hk : Away K M base s) :
    ResAway K M base (execMeterAcSample codes s) := by
  unfold execMeterAcSample
  try dsimp only
  repeat' (first
    | with_reducible assumption | with_reducible apply State.begin_away | with_reducible apply State.meterStops_away
    | with_reducible apply State.rollWindow_away | with_reducible apply State.acSample_away
    | with_reducible apply Away.ite | with_reducible apply ResAway.ite | with_reducible apply ResAway.next
    | simp only [Away.mk_iff] | (refine Away.pages hK ?_; decide) | (refine Away.pages hK ?_; simp; done)
    | (refine Away.parts hM ?_; decide) | split | intro _)

theorem State.overCheck_away {K : Nat → Prop} {M : Part → Prop} {base : State} (s : State) (k mv : Nat) (hK : ∀ n ∈ [0x06, 0x30], ¬K n) (hk : Away K M base s) :
    Away K M base (State.overCheck s k mv) := by
  unfold State.overCheck
  try dsimp only
  repeat' (first
    | with_reducible assumption | with_reducible apply State.fenceRail_away | with_reducible apply Away.ite
    | with_reducible apply Away.four | simp only [Away.mk_iff] | (refine Away.pages hK ?_; decide)
    | (refine Away.pages hK ?_; simp [R.RAIL_GAIN_OV_MV]; done) | split | intro _)

theorem State.dcSample_away {K : Nat → Prop} {M : Part → Prop} {base : State} (s : State) (shunts : List Int) (rails : List Nat) (hK : ∀ n ∈ [0x06, 0x30, 0x35], ¬K n) (hM : ∀ p ∈ [.mram], ¬M p) (hk : Away K M base s) :
    Away K M base (State.dcSample s shunts rails) := by
  unfold State.dcSample
  try dsimp only
  repeat' (first
    | with_reducible assumption | with_reducible apply State.notePeak_away
    | with_reducible apply State.overCheck_away | with_reducible apply State.add_away
    | with_reducible apply State.irq_away | with_reducible apply Away.ite | with_reducible apply Away.foldl
    | with_reducible apply Away.foldlFst | with_reducible apply Away.four | simp only [Away.mk_iff]
    | (refine Away.pages hK ?_; decide)
    | (refine Away.pages hK ?_; simp [R.METER_DC_OFF_OFFSET, R.METER_DC_VGAIN_VGAIN, R.METER_DC_CNT_CLIP_N]; done)
    | (refine Away.parts hM ?_; decide) | split | intro _)

theorem execMeterDcSample_away {K : Nat → Prop} {M : Part → Prop} {base : State} (shunts : List Int) (rails : List Nat) (s : State) (hK : ∀ n ∈ [0x06, 0x30, 0x34, 0x35, 0x36], ¬K n) (hM : ∀ p ∈ [.mram], ¬M p) (hk : Away K M base s) :
    ResAway K M base (execMeterDcSample shunts rails s) := by
  unfold execMeterDcSample
  try dsimp only
  repeat' (first
    | with_reducible assumption | with_reducible apply State.begin_away | with_reducible apply State.meterStops_away
    | with_reducible apply State.rollWindow_away | with_reducible apply State.dcSample_away
    | with_reducible apply Away.ite | with_reducible apply ResAway.ite | with_reducible apply ResAway.next
    | simp only [Away.mk_iff] | (refine Away.pages hK ?_; decide) | (refine Away.pages hK ?_; simp; done)
    | (refine Away.parts hM ?_; decide) | split | intro _)

theorem State.addBounds_away {K : Nat → Prop} {M : Part → Prop} {base : State} (s : State) (seq tn td : Nat) (hK : ∀ n ∈ [0x36], ¬K n) (hk : Away K M base s) :
    Away K M base (State.addBounds s seq tn td) := by
  unfold State.addBounds
  try dsimp only
  repeat' (first
    | with_reducible assumption | with_reducible apply State.addDisps_away | with_reducible apply Away.foldl
    | with_reducible apply Away.foldlFst | with_reducible apply Away.four | simp only [Away.mk_iff]
    | (refine Away.pages hK ?_; decide) | (refine Away.pages hK ?_; simp; done) | split | intro _)

theorem State.settleAc_away {K : Nat → Prop} {M : Part → Prop} {base : State} (s : State) (chs : List Nat) (hK : ∀ n ∈ [0x34], ¬K n) (hk : Away K M base s) :
    Away K M base (State.settleAc s chs) := by
  unfold State.settleAc
  try dsimp only
  repeat' (first
    | with_reducible assumption | with_reducible apply State.setFld_away | with_reducible apply Away.ite
    | with_reducible apply Away.foldl | with_reducible apply Away.foldlFst | with_reducible apply Away.four
    | simp only [Away.mk_iff] | (refine Away.pages hK ?_; decide) | (refine Away.pages hK ?_; simp; done) | split
    | intro _)

theorem State.settleDc_away {K : Nat → Prop} {M : Part → Prop} {base : State} (s : State) (ks : List Nat) (hK : ∀ n ∈ [0x35], ¬K n) (hk : Away K M base s) :
    Away K M base (State.settleDc s ks) := by
  unfold State.settleDc
  try dsimp only
  repeat' (first
    | with_reducible assumption | with_reducible apply State.setFld_away | with_reducible apply Away.ite
    | with_reducible apply Away.foldl | with_reducible apply Away.foldlFst | with_reducible apply Away.four
    | simp only [Away.mk_iff] | (refine Away.pages hK ?_; decide) | (refine Away.pages hK ?_; simp; done) | split
    | intro _)

theorem State.restartEmpty_away {K : Nat → Prop} {M : Part → Prop} {base : State} (s : State) (hK : ∀ n ∈ [0x06, 0x34, 0x35, 0x36], ¬K n) (hk : Away K M base s) :
    Away K M base (State.restartEmpty s) := by
  have h1 : Away K M base { s with regs := s.regs.filter fun (e : Nat × Word) => !isMeterSection e.1 } := by
    refine ⟨fun x => ⟨mapWf_filter regReset _ _ (hk.1 x).1, fun q o hq => ?_⟩, hk.2⟩
    refine (mapGet_filter_kept regReset _ s.regs (regKey q o) (hk.1 x).1 ?_).trans ((hk.1 x).2 q o hq)
    intro v
    have a1 : q ≠ 0x34 := fun e => hK 0x34 (by decide) (e ▸ hq)
    have a2 : q ≠ 0x35 := fun e => hK 0x35 (by decide) (e ▸ hq)
    have a3 : q ≠ 0x36 := fun e => hK 0x36 (by decide) (e ▸ hq)
    have : regKey q o / 0x1000 = q := by
      unfold regKey
      omega
    simp only [isMeterSection, Bool.not_eq_true', Bool.or_eq_false_iff, Bool.and_eq_false_iff, decide_eq_false_iff_not]
    omega
  unfold State.restartEmpty
  dsimp only
  refine State.recordOpen_away _ _ (Away.pages hK (by decide)) (State.setFlds_away _ _ ?_ ?_)
  · intro e he
    refine hK 0x36 (by decide) |> fun h => ?_
    simp only [List.mem_cons, List.not_mem_nil, or_false] at he
    rcases he with rfl | rfl | rfl <;> exact h
  · exact Away.foldl _ (fun t a h => State.showAcc_away t a (Away.pages hK (by decide)) h) _ _ h1

theorem State.loadSave_away {K : Nat → Prop} {M : Part → Prop} {base : State} (s : State) (k : Nat) (r : List Byte) (hK : ∀ n ∈ [0x34, 0x35, 0x36], ¬K n) (hk : Away K M base s) :
    Away K M base (State.loadSave s k r) := by
  unfold State.loadSave
  try dsimp only
  repeat' (first
    | with_reducible assumption | with_reducible apply State.loadRange_away'
    | with_reducible apply State.showAcc_away | with_reducible apply Away.foldl | with_reducible apply Away.foldlFst
    | with_reducible apply Away.four | with_reducible apply State.setFlds_away | with_reducible apply Away.flds
    | with_reducible apply State.setFld_away | simp only [List.map_cons, List.map_nil] | simp only [Away.mk_iff]
    | (refine Away.pages hK ?_; decide) | (refine Away.pages hK ?_; simp; done) | split | intro _)

theorem State.boundRestart_away {K : Nat → Prop} {M : Part → Prop} {base : State} (s : State) (r : List Byte) (hK : ∀ n ∈ [0x06, 0x36], ¬K n) (hk : Away K M base s) :
    Away K M base (State.boundRestart s r) := by
  unfold State.boundRestart
  try dsimp only
  repeat' (first
    | with_reducible assumption | with_reducible apply State.addBounds_away | with_reducible apply State.setFld_away
    | with_reducible apply State.event_away | with_reducible apply State.recordOpen_away
    | with_reducible apply Away.ite | simp only [Away.mk_iff] | (refine Away.pages hK ?_; decide)
    | (refine Away.pages hK ?_; simp; done) | split | intro _)

theorem State.settleFor_away {K : Nat → Prop} {M : Part → Prop} {base : State} (s before : State) (whole : Bool) (hK : ∀ n ∈ [0x34, 0x35], ¬K n) (hk : Away K M base s) :
    Away K M base (State.settleFor s before whole) := by
  unfold State.settleFor
  try dsimp only
  repeat' (first
    | with_reducible assumption | with_reducible apply State.settleAc_away
    | with_reducible apply State.settleDc_away | with_reducible apply Away.four | simp only [Away.mk_iff]
    | (refine Away.pages hK ?_; decide) | (refine Away.pages hK ?_; simp; done) | split | intro _)

theorem State.meterRestart_away {K : Nat → Prop} {M : Part → Prop} {base : State} (s : State) (whole : Bool) (hK : ∀ n ∈ [0x06, 0x34, 0x35, 0x36], ¬K n) (hM : ∀ p ∈ [.mram], ¬M p) (hk : Away K M base s) :
    Away K M base (State.meterRestart s whole) := by
  unfold State.meterRestart
  try dsimp only
  repeat' (first
    | with_reducible assumption | with_reducible apply State.restartEmpty_away
    | with_reducible apply State.loadSave_away | with_reducible apply State.boundRestart_away
    | with_reducible apply State.settleFor_away | with_reducible apply State.capture_away
    | with_reducible apply Away.four | simp only [Away.mk_iff] | (refine Away.pages hK ?_; decide)
    | (refine Away.pages hK ?_; simp; done) | (refine Away.parts hM ?_; decide) | split | intro _)

theorem State.stmtRequest_away {K : Nat → Prop} {M : Part → Prop} {base : State} (s : State) (hK : ∀ n ∈ [0x34, 0x35, 0x36], ¬K n) (hM : ∀ p ∈ [.mram], ¬M p) (hk : Away K M base s) :
    Away K M base (State.stmtRequest s) := by
  unfold State.stmtRequest
  try dsimp only
  repeat' (first
    | with_reducible assumption | with_reducible apply State.closeWithSave_away | with_reducible apply Away.ite
    | with_reducible apply Away.four | with_reducible apply State.setFlds_away | with_reducible apply Away.flds
    | with_reducible apply State.setFld_away | simp only [List.map_cons, List.map_nil] | simp only [Away.mk_iff]
    | (refine Away.pages hK ?_; decide) | (refine Away.pages hK ?_; simp; done) | (refine Away.parts hM ?_; decide)
    | split | intro _)

theorem execMeterStmtRequest_away {K : Nat → Prop} {M : Part → Prop} {base : State} (m : Master) (s : State) (hK : ∀ n ∈ [0x34, 0x35, 0x36], ¬K n) (hM : ∀ p ∈ [.mram], ¬M p) (hk : Away K M base s) :
    ResAway K M base (execMeterStmtRequest m s) := by
  unfold execMeterStmtRequest
  try dsimp only
  repeat' (first
    | with_reducible assumption | with_reducible apply State.begin_away | with_reducible apply State.asWrite_away
    | with_reducible apply State.stmtRequest_away | with_reducible apply ResAway.next | simp only [Away.mk_iff]
    | (refine Away.pages hK ?_; decide) | (refine Away.pages hK ?_; simp; done) | (refine Away.parts hM ?_; decide)
    | split | intro _)

theorem execMeterStmtReady_away {K : Nat → Prop} {M : Part → Prop} {base : State} (s : State) (hK : ∀ n ∈ [0x36], ¬K n) (hk : Away K M base s) :
    ResAway K M base (execMeterStmtReady s) := by
  unfold execMeterStmtReady
  try dsimp only
  repeat' (first
    | with_reducible assumption | with_reducible apply State.begin_away | with_reducible apply State.loadRange_away'
    | with_reducible apply State.inc_away | with_reducible apply State.irq_away | with_reducible apply ResAway.next
    | with_reducible apply Away.four | with_reducible apply State.setFlds_away | with_reducible apply Away.flds
    | with_reducible apply State.setFld_away | simp only [List.map_cons, List.map_nil] | simp only [Away.mk_iff]
    | (refine Away.pages hK ?_; decide) | (refine Away.pages hK ?_; simp; done) | split | intro _)

theorem execMeterDispClear_away {K : Nat → Prop} {M : Part → Prop} {base : State} (m : Master) (v : Word) (s : State) (hK : ∀ n ∈ [0x06, 0x36], ¬K n) (hk : Away K M base s) :
    ResAway K M base (execMeterDispClear m v s) := by
  unfold execMeterDispClear
  try dsimp only
  repeat' (first
    | with_reducible assumption | with_reducible apply State.begin_away | with_reducible apply State.asArmed_away
    | with_reducible apply State.showAcc_away | with_reducible apply State.recordOpen_away
    | with_reducible apply Away.ite | with_reducible apply ResAway.ite | with_reducible apply ResAway.next
    | with_reducible apply Away.foldl | with_reducible apply Away.foldlFst | with_reducible apply Away.four
    | with_reducible apply State.setFlds_away | with_reducible apply Away.flds
    | with_reducible apply State.setFld_away | simp only [List.map_cons, List.map_nil] | simp only [Away.mk_iff]
    | (refine Away.pages hK ?_; decide) | (refine Away.pages hK ?_; simp; done) | split | intro _)

theorem State.fenceMeter_away {K : Nat → Prop} {M : Part → Prop} {base : State} (s : State) (page cause ch : Nat) (hK : ∀ n ∈ [0x06, 0x34, 0x35, page], ¬K n) (hk : Away K M base s) :
    Away K M base (State.fenceMeter s page cause ch) := by
  have hKc : ∀ n ∈ [0x06, 0x34, 0x35], ¬K n := Away.pages hK (by
    intro n hn; simp only [List.mem_cons, List.not_mem_nil, or_false] at hn ⊢; omega)
  unfold State.fenceMeter
  try dsimp only
  repeat' (first
    | with_reducible assumption | with_reducible apply State.fence_away | with_reducible apply State.irq_away
    | with_reducible apply State.setBit_away | with_reducible apply Away.ite | with_reducible apply Away.four
    | simp only [Away.mk_iff] | (refine Away.pages hKc ?_; decide) | refine Away.cons (a := _) (l := _ :: _) ?_ ?_
    | (refine Away.pages hK ?_; simp; done) | split | intro _)

theorem State.restoreGroup_away {K : Nat → Prop} {M : Part → Prop} {base : State} (s : State) (a : Nat) (hK : ∀ n ∈ [0x36], ¬K n) (hk : Away K M base s) :
    Away K M base (State.restoreGroup s a) := by
  unfold State.restoreGroup
  try dsimp only
  repeat' (first
    | with_reducible assumption | with_reducible apply State.addDisps_away | with_reducible apply State.setFld_away
    | with_reducible apply Away.ite | with_reducible apply Away.foldl | with_reducible apply Away.foldlFst
    | with_reducible apply Away.four | simp only [Away.mk_iff] | (refine Away.pages hK ?_; decide)
    | (refine Away.pages hK ?_; simp; done) | split | intro _)

theorem execMeterChannelFault_away {K : Nat → Prop} {M : Part → Prop} {base : State} (page : Nat) (f : MeterFault) (s : State) (hK : ∀ n ∈ [0x06, 0x34, 0x35, 0x36, page], ¬K n) (hk : Away K M base s) :
    ResAway K M base (execMeterChannelFault page f s) := by
  have hKc : ∀ n ∈ [0x06, 0x34, 0x35, 0x36], ¬K n := Away.pages hK (by
    intro n hn; simp only [List.mem_cons, List.not_mem_nil, or_false] at hn ⊢; omega)
  unfold execMeterChannelFault
  try dsimp only
  repeat' (first
    | with_reducible assumption | with_reducible apply State.begin_away | with_reducible apply State.fenceBlock_away
    | with_reducible apply State.restoreGroup_away | with_reducible apply State.fenceMeter_away
    | with_reducible apply Away.ite | with_reducible apply ResAway.ite | with_reducible apply ResAway.next
    | with_reducible apply Away.foldl | with_reducible apply Away.foldlFst | with_reducible apply Away.four
    | simp only [Away.mk_iff] | (refine Away.pages hKc ?_; decide) | refine Away.cons (a := _) (l := _ :: _) ?_ ?_
    | (refine Away.pages hK ?_; simp; done) | split | intro _)

theorem State.meterBoundary_away {K : Nat → Prop} {M : Part → Prop} {base : State} (s : State) (hK : ∀ n ∈ [0x34, 0x35], ¬K n) (hk : Away K M base s) :
    Away K M base (State.meterBoundary s) := by
  unfold State.meterBoundary
  try dsimp only
  repeat' (first
    | with_reducible assumption | with_reducible apply State.setBit_away | with_reducible apply State.settleAc_away
    | with_reducible apply State.settleDc_away | with_reducible apply Away.ite | with_reducible apply Away.foldl
    | with_reducible apply Away.foldlFst | simp only [Away.mk_iff] | (refine Away.pages hK ?_; decide)
    | (refine Away.pages hK ?_; simp; done) | split | intro _)

theorem State.meterSwitch_away {K : Nat → Prop} {M : Part → Prop} {base : State} (s before : State) (hK : ∀ n ∈ [0x34, 0x35, 0x36], ¬K n) (hM : ∀ p ∈ [.mram], ¬M p) (hk : Away K M base s) :
    Away K M base (State.meterSwitch s before) := by
  unfold State.meterSwitch
  repeat' (first
    | with_reducible assumption | with_reducible apply State.settleFor_away
    | with_reducible apply State.saveDue_away | with_reducible apply Away.ite | simp only [Away.mk_iff]
    | (refine Away.pages hK ?_; decide) | (refine Away.pages hK ?_; simp; done) | (refine Away.parts hM ?_; decide)
    | split | intro _)

theorem State.meterFrontReset_away {K : Nat → Prop} {M : Part → Prop} {base : State} (s : State) (page : Nat) (hK : ∀ n ∈ [0x34, 0x35], ¬K n) (hk : Away K M base s) :
    Away K M base (State.meterFrontReset s page) := by
  unfold State.meterFrontReset
  try dsimp only
  repeat' (first
    | with_reducible assumption | with_reducible apply State.settleAc_away
    | with_reducible apply State.settleDc_away | with_reducible apply Away.ite | with_reducible apply Away.four
    | simp only [Away.mk_iff] | (refine Away.pages hK ?_; decide) | (refine Away.pages hK ?_; simp; done) | split
    | intro _)

theorem State.meterSnapshot_away {K : Nat → Prop} {M : Part → Prop} {base : State} (s : State) (hK : ∀ n ∈ [0x35], ¬K n) (hk : Away K M base s) :
    Away K M base (State.meterSnapshot s) := by
  unfold State.meterSnapshot
  try dsimp only
  repeat' (first
    | with_reducible assumption | with_reducible apply Away.ite | with_reducible apply Away.foldl
    | with_reducible apply Away.foldlFst | with_reducible apply Away.four | with_reducible apply State.setFlds_away
    | with_reducible apply Away.flds | with_reducible apply State.setFld_away
    | simp only [List.map_cons, List.map_nil] | simp only [Away.mk_iff] | (refine Away.pages hK ?_; decide)
    | (refine Away.pages hK ?_; simp [R.METER_DC_IFS_IFS_MA, R.METER_DC_SNAP_LO_E_LO, R.METER_DC_SNAP_HI_E_HI, R.METER_DC_SNAP_STAT_INVALID, R.METER_DC_SNAP_STAT_UNSAVED]; done)
    | split | intro _)

end Sys2Proof.Machine
end

