-- ==== Sys2Proof/Laws/AwayCairn.lean ====
section
/-! SUPPORT. What the operations of Machine/Cairn.lean stay away from (Laws/Away.lean). -/
set_option linter.all false
set_option Elab.async false

namespace Sys2Proof.Machine

theorem State.putStage_away {K : Nat → Prop} {M : Part → Prop} {base : State} (s : State) (j : Nat) (r : List Byte) (hM : ∀ p ∈ [.ret], ¬M p) (hk : Away K M base s) :
    Away K M base (State.putStage s j r) := by
  unfold State.putStage
  try dsimp only
  repeat' (first
    | with_reducible assumption | with_reducible apply Away.four | with_reducible apply Away.fourMem
    | simp only [Away.mk_iff]
    | (intro (p : Part) hp; cases p <;> first | exact absurd hp (hM _ (by decide)) | (simp only [Mems.part, State.drawn_mem]; done))
    | (refine Away.parts hM ?_; decide) | split | intro _)

theorem State.freeStage_away {K : Nat → Prop} {M : Part → Prop} {base : State} (s : State) (j : Nat) (hM : ∀ p ∈ [.ret], ¬M p) (hk : Away K M base s) :
    Away K M base (State.freeStage s j) := by
  unfold State.freeStage
  try dsimp only
  repeat' (first
    | with_reducible assumption | with_reducible apply Away.four | with_reducible apply Away.fourMem
    | simp only [Away.mk_iff]
    | (intro (p : Part) hp; cases p <;> first | exact absurd hp (hM _ (by decide)) | (simp only [Mems.part, State.drawn_mem]; done))
    | (refine Away.parts hM ?_; decide) | split | intro _)

theorem State.closeCondition_away {K : Nat → Prop} {M : Part → Prop} {base : State} (s : State) (time : Nat) (forced : Bool) (j : Nat) (hM : ∀ p ∈ [.ret], ¬M p) (hk : Away K M base s) :
    Away K M base (State.closeCondition s time forced j) := by
  unfold State.closeCondition
  try dsimp only
  repeat' (first
    | with_reducible assumption | with_reducible apply State.putStage_away | simp only [Away.mk_iff]
    | (refine Away.parts hM ?_; decide) | split | intro _)

theorem State.closeConditions_away {K : Nat → Prop} {M : Part → Prop} {base : State} (s : State) (time : Nat) (forced : Bool) (hM : ∀ p ∈ [.ret], ¬M p) (hk : Away K M base s) :
    Away K M base (State.closeConditions s time forced) := by
  unfold State.closeConditions
  try dsimp only
  repeat' (first
    | with_reducible assumption | with_reducible apply State.closeCondition_away | with_reducible apply Away.foldl
    | with_reducible apply Away.foldlFst | simp only [Away.mk_iff] | (refine Away.parts hM ?_; decide) | split
    | intro _)

theorem State.flush_away {K : Nat → Prop} {M : Part → Prop} {base : State} (s : State) (hk : Away K M base s) :
    Away K M base (State.flush s) := by
  unfold State.flush
  try dsimp only
  repeat' (first
    | with_reducible assumption | with_reducible apply Away.four | simp only [Away.mk_iff] | split | intro _)

theorem State.urgentFlush_away {K : Nat → Prop} {M : Part → Prop} {base : State} (s : State) (hM : ∀ p ∈ [.ret], ¬M p) (hk : Away K M base s) :
    Away K M base (State.urgentFlush s) := by
  unfold State.urgentFlush
  repeat' (first
    | with_reducible assumption | with_reducible apply State.closeConditions_away
    | with_reducible apply State.flush_away | simp only [Away.mk_iff] | (refine Away.parts hM ?_; decide) | split
    | intro _)

theorem State.noteKey_away {K : Nat → Prop} {M : Part → Prop} {base : State} (s : State) (k : CairnKey) (i : Nat) (hk : Away K M base s) :
    Away K M base (State.noteKey s k i) := by
  unfold State.noteKey
  try dsimp only
  repeat' (first
    | with_reducible assumption | with_reducible apply Away.four | simp only [Away.mk_iff] | split | intro _)

theorem State.absorbRepeat_away {K : Nat → Prop} {M : Part → Prop} {base : State} (s : State) (j i : Nat) (c : List Byte) (hK : ∀ n ∈ [0x06], ¬K n) (hM : ∀ p ∈ [.mram, .ret], ¬M p) (hk : Away K M base s) :
    Away K M base (State.absorbRepeat s j i c) := by
  unfold State.absorbRepeat
  try dsimp only
  repeat' (first
    | with_reducible assumption | with_reducible apply State.mramWrite_away
    | with_reducible apply State.freeStage_away | with_reducible apply State.inc_away | simp only [Away.mk_iff]
    | (refine Away.pages hK ?_; decide) | (refine Away.pages hK ?_; simp; done) | (refine Away.parts hM ?_; decide)
    | split | intro _)

theorem State.writeRing_away {K : Nat → Prop} {M : Part → Prop} {base : State} (s : State) (j : Nat) (c : List Byte) (hK : ∀ n ∈ [0x06], ¬K n) (hM : ∀ p ∈ [.mram, .ret], ¬M p) (hk : Away K M base s) :
    Away K M base (State.writeRing s j c) := by
  unfold State.writeRing
  try dsimp only
  repeat' (first
    | with_reducible assumption | with_reducible apply State.mramWrite_away
    | with_reducible apply State.freeStage_away | with_reducible apply State.inc_away
    | with_reducible apply State.noteKey_away | with_reducible apply State.setFld_away
    | with_reducible apply Away.ite | with_reducible apply Away.four | with_reducible apply State.setFlds_away
    | with_reducible apply Away.flds | with_reducible apply State.setFld_away
    | simp only [List.map_cons, List.map_nil] | simp only [Away.mk_iff] | (refine Away.pages hK ?_; decide)
    | (refine Away.pages hK ?_; simp; done) | (refine Away.parts hM ?_; decide) | split | intro _)

theorem State.writeSlot_away {K : Nat → Prop} {M : Part → Prop} {base : State} (s : State) (j : Nat) (hK : ∀ n ∈ [0x06], ¬K n) (hM : ∀ p ∈ [.mram, .ret], ¬M p) (hk : Away K M base s) :
    Away K M base (State.writeSlot s j) := by
  unfold State.writeSlot
  try dsimp only
  repeat' (first
    | with_reducible assumption | with_reducible apply State.absorbRepeat_away
    | with_reducible apply State.writeRing_away | with_reducible apply Away.four | simp only [Away.mk_iff]
    | (refine Away.pages hK ?_; decide) | (refine Away.pages hK ?_; simp; done) | (refine Away.parts hM ?_; decide)
    | split | intro _)

theorem State.writeFails_away {K : Nat → Prop} {M : Part → Prop} {base : State} (s : State) (j : Nat) (hK : ∀ n ∈ [0x06], ¬K n) (hM : ∀ p ∈ [.mram], ¬M p) (hk : Away K M base s) :
    Away K M base (State.writeFails s j) := by
  unfold State.writeFails
  try dsimp only
  repeat' (first
    | with_reducible assumption | with_reducible apply State.mramWrite_away | with_reducible apply State.drawn_away
    | with_reducible apply State.fenceBlock_away | with_reducible apply Away.ite | with_reducible apply Away.four
    | simp only [Away.mk_iff] | (refine Away.pages hK ?_; decide) | (refine Away.pages hK ?_; simp; done)
    | (refine Away.parts hM ?_; decide) | split | intro _)

theorem State.stageAt_away {K : Nat → Prop} {M : Part → Prop} {base : State} (s : State) (j : Nat) (r : List Byte) (hM : ∀ p ∈ [.ret], ¬M p) (hk : Away K M base s) :
    Away K M base (State.stageAt s j r) := by
  unfold State.stageAt
  try dsimp only
  repeat' (first
    | with_reducible assumption | with_reducible apply State.putStage_away | with_reducible apply Away.four
    | simp only [Away.mk_iff] | (refine Away.parts hM ?_; decide) | split | intro _)

theorem State.form_away {K : Nat → Prop} {M : Part → Prop} {base : State} (s : State) (kind flags id time : Nat) (body : List Byte) (hK : ∀ n ∈ [0x06], ¬K n) (hM : ∀ p ∈ [.mram, .ret], ¬M p) (hk : Away K M base s) :
    Away K M base (State.form s kind flags id time body) := by
  unfold State.form
  try dsimp only
  repeat' (first
    | with_reducible assumption | with_reducible apply State.stageAt_away
    | with_reducible apply State.urgentFlush_away | with_reducible apply State.writeSlot_away
    | with_reducible apply State.cairnLoss_away | with_reducible apply Away.ite | simp only [Away.mk_iff]
    | (refine Away.pages hK ?_; decide) | (refine Away.pages hK ?_; simp; done) | (refine Away.parts hM ?_; decide)
    | split | intro _)

theorem State.intervalEnd_away {K : Nat → Prop} {M : Part → Prop} {base : State} (s : State) (time : Nat) (part : Bool) (hK : ∀ n ∈ [0x06], ¬K n) (hM : ∀ p ∈ [.mram, .ret], ¬M p) (hk : Away K M base s) :
    Away K M base (State.intervalEnd s time part) := by
  unfold State.intervalEnd
  try dsimp only
  repeat' (first
    | with_reducible assumption | with_reducible apply State.form_away | with_reducible apply State.fresh_away
    | with_reducible apply State.closeConditions_away | with_reducible apply State.flush_away
    | with_reducible apply State.irq_away | with_reducible apply Away.ite | with_reducible apply Away.foldl
    | with_reducible apply Away.foldlFst | with_reducible apply Away.four | simp only [Away.mk_iff]
    | (refine Away.pages hK ?_; decide) | (refine Away.pages hK ?_; simp [R.CAIRN_MET_CFG_EN]; done)
    | (refine Away.parts hM ?_; decide) | split | intro _)

theorem execCairnIntervalEnd_away {K : Nat → Prop} {M : Part → Prop} {base : State} (s : State) (hK : ∀ n ∈ [0x06], ¬K n) (hM : ∀ p ∈ [.mram, .ret], ¬M p) (hk : Away K M base s) :
    ResAway K M base (execCairnIntervalEnd s) := by
  unfold execCairnIntervalEnd
  try dsimp only
  repeat' (first
    | with_reducible assumption | with_reducible apply State.begin_away
    | with_reducible apply State.intervalEnd_away | with_reducible apply Away.ite | with_reducible apply ResAway.ite
    | with_reducible apply ResAway.next | simp only [Away.mk_iff] | (refine Away.pages hK ?_; decide)
    | (refine Away.pages hK ?_; simp; done) | (refine Away.parts hM ?_; decide) | split | intro _)

theorem State.cairnOld_away {K : Nat → Prop} {M : Part → Prop} {base : State} (s : State) (old : Nat) (step : Bool) (hK : ∀ n ∈ [0x06], ¬K n) (hM : ∀ p ∈ [.mram, .ret], ¬M p) (hk : Away K M base s) :
    Away K M base (State.cairnOld s old step) := by
  unfold State.cairnOld
  try dsimp only
  repeat' (first
    | with_reducible assumption | with_reducible apply State.intervalEnd_away
    | with_reducible apply State.urgentFlush_away | with_reducible apply Away.ite | simp only [Away.mk_iff]
    | (refine Away.pages hK ?_; decide) | (refine Away.pages hK ?_; simp; done) | (refine Away.parts hM ?_; decide)
    | split | intro _)

theorem State.cairnStep_away {K : Nat → Prop} {M : Part → Prop} {base : State} (s : State) (old new cause : Nat) (hK : ∀ n ∈ [0x06], ¬K n) (hM : ∀ p ∈ [.mram, .ret], ¬M p) (hk : Away K M base s) :
    Away K M base (State.cairnStep s old new cause) := by
  unfold State.cairnStep
  repeat' (first
    | with_reducible assumption | with_reducible apply State.form_away | with_reducible apply Away.ite
    | simp only [Away.mk_iff] | (refine Away.pages hK ?_; decide) | (refine Away.pages hK ?_; simp; done)
    | (refine Away.parts hM ?_; decide) | split | intro _)

theorem State.absorb_away {K : Nat → Prop} {M : Part → Prop} {base : State} (s : State) (j : Nat) (o : Occurrence) (hM : ∀ p ∈ [.ret], ¬M p) (hk : Away K M base s) :
    Away K M base (State.absorb s j o) := by
  unfold State.absorb
  try dsimp only
  repeat' (first
    | with_reducible assumption | with_reducible apply State.putStage_away | simp only [Away.mk_iff]
    | (refine Away.parts hM ?_; decide) | split | intro _)

theorem State.takeOccurrence_away {K : Nat → Prop} {M : Part → Prop} {base : State} (s : State) (hK : ∀ n ∈ [0x06], ¬K n) (hM : ∀ p ∈ [.mram, .ret], ¬M p) (hk : Away K M base s) :
    Away K M base (State.takeOccurrence s) := by
  unfold State.takeOccurrence
  try dsimp only
  repeat' (first
    | with_reducible assumption | with_reducible apply State.absorb_away | with_reducible apply State.form_away
    | with_reducible apply State.urgentFlush_away | with_reducible apply Away.ite | with_reducible apply Away.four
    | simp only [Away.mk_iff] | (refine Away.pages hK ?_; decide) | (refine Away.pages hK ?_; simp; done)
    | (refine Away.parts hM ?_; decide) | split | intro _)

theorem execCairnOccurrence_away {K : Nat → Prop} {M : Part → Prop} {base : State} (s : State) (hK : ∀ n ∈ [0x06], ¬K n) (hM : ∀ p ∈ [.mram, .ret], ¬M p) (hk : Away K M base s) :
    ResAway K M base (execCairnOccurrence s) := by
  unfold execCairnOccurrence
  try dsimp only
  repeat' (first
    | with_reducible assumption | with_reducible apply State.begin_away
    | with_reducible apply State.takeOccurrence_away | with_reducible apply Away.ite
    | with_reducible apply ResAway.ite | with_reducible apply ResAway.next | simp only [Away.mk_iff]
    | (refine Away.pages hK ?_; decide) | (refine Away.pages hK ?_; simp; done) | (refine Away.parts hM ?_; decide)
    | split | intro _)

theorem execCairnRaise_away {K : Nat → Prop} {M : Part → Prop} {base : State} (m : Master) (value : Word) (s : State) (hK : ∀ n ∈ [0x06], ¬K n) (hk : Away K M base s) :
    ResAway K M base (execCairnRaise m value s) := by
  unfold execCairnRaise
  try dsimp only
  repeat' (first
    | with_reducible assumption | with_reducible apply State.begin_away | with_reducible apply State.asWrite_away
    | with_reducible apply State.setFld_away | with_reducible apply State.occur_away | with_reducible apply Away.ite
    | with_reducible apply ResAway.ite | with_reducible apply ResAway.next | simp only [Away.mk_iff]
    | (refine Away.pages hK ?_; decide) | (refine Away.pages hK ?_; simp; done) | split | intro _)

theorem execCairnRecordWrite_away {K : Nat → Prop} {M : Part → Prop} {base : State} (ok : Bool) (s : State) (hK : ∀ n ∈ [0x06], ¬K n) (hM : ∀ p ∈ [.mram, .ret], ¬M p) (hk : Away K M base s) :
    ResAway K M base (execCairnRecordWrite ok s) := by
  unfold execCairnRecordWrite
  try dsimp only
  repeat' (first
    | with_reducible assumption | with_reducible apply State.begin_away | with_reducible apply State.writeSlot_away
    | with_reducible apply State.writeFails_away | with_reducible apply Away.ite | with_reducible apply ResAway.ite
    | with_reducible apply ResAway.next | simp only [Away.mk_iff] | (refine Away.pages hK ?_; decide)
    | (refine Away.pages hK ?_; simp; done) | (refine Away.parts hM ?_; decide) | split | intro _)

theorem execCairnFlushDone_away {K : Nat → Prop} {M : Part → Prop} {base : State} (s : State) (hK : ∀ n ∈ [0x06, 0x34, 0x35, 0x36], ¬K n) (hM : ∀ p ∈ [.mram], ¬M p) (hk : Away K M base s) :
    ResAway K M base (execCairnFlushDone s) := by
  unfold execCairnFlushDone
  try dsimp only
  repeat' (first
    | with_reducible assumption | with_reducible apply State.begin_away | with_reducible apply State.setFld_away
    | with_reducible apply State.irq_away | with_reducible apply State.pfSave_away | with_reducible apply Away.ite
    | with_reducible apply ResAway.ite | with_reducible apply ResAway.next | with_reducible apply Away.four
    | simp only [Away.mk_iff] | (refine Away.pages hK ?_; decide) | (refine Away.pages hK ?_; simp; done)
    | (refine Away.parts hM ?_; decide) | split | intro _)

theorem State.unfreeze_away {K : Nat → Prop} {M : Part → Prop} {base : State} (s : State) (hK : ∀ n ∈ [0x06], ¬K n) (hk : Away K M base s) :
    Away K M base (State.unfreeze s) := by
  unfold State.unfreeze
  repeat' (first
    | with_reducible assumption | with_reducible apply State.setFld_away | with_reducible apply State.flush_away
    | with_reducible apply Away.ite | simp only [Away.mk_iff] | (refine Away.pages hK ?_; decide)
    | (refine Away.pages hK ?_; simp; done) | split | intro _)

theorem State.cairnCtrl_away {K : Nat → Prop} {M : Part → Prop} {base : State} (s : State) (value : Word) (hK : ∀ n ∈ [0x06], ¬K n) (hM : ∀ p ∈ [.ret], ¬M p) (hk : Away K M base s) :
    Away K M base (State.cairnCtrl s value) := by
  unfold State.cairnCtrl
  try dsimp only
  repeat' (first
    | with_reducible assumption | with_reducible apply State.setFlag_away | with_reducible apply State.setFld_away
    | with_reducible apply State.unfreeze_away | with_reducible apply State.urgentFlush_away
    | with_reducible apply Away.ite | simp only [Away.mk_iff] | (refine Away.pages hK ?_; decide)
    | (refine Away.pages hK ?_; simp; done) | (refine Away.parts hM ?_; decide) | split | intro _)

theorem execCairnFlushRequest_away {K : Nat → Prop} {M : Part → Prop} {base : State} (m : Master) (value : Word) (s : State) (hK : ∀ n ∈ [0x06], ¬K n) (hM : ∀ p ∈ [.ret], ¬M p) (hk : Away K M base s) :
    ResAway K M base (execCairnFlushRequest m value s) := by
  unfold execCairnFlushRequest
  try dsimp only
  repeat' (first
    | with_reducible assumption | with_reducible apply State.begin_away | with_reducible apply State.asWrite_away
    | with_reducible apply State.cairnCtrl_away | with_reducible apply ResAway.next | simp only [Away.mk_iff]
    | (refine Away.pages hK ?_; decide) | (refine Away.pages hK ?_; simp; done) | (refine Away.parts hM ?_; decide)
    | split | intro _)

theorem execCairnFreeze_away {K : Nat → Prop} {M : Part → Prop} {base : State} (m : Master) (value : Word) (s : State) (hK : ∀ n ∈ [0x06], ¬K n) (hM : ∀ p ∈ [.ret], ¬M p) (hk : Away K M base s) :
    ResAway K M base (execCairnFreeze m value s) := by
  unfold execCairnFreeze
  try dsimp only
  repeat' (first
    | with_reducible assumption | with_reducible apply State.begin_away | with_reducible apply State.asWrite_away
    | with_reducible apply State.cairnCtrl_away | with_reducible apply ResAway.next | simp only [Away.mk_iff]
    | (refine Away.pages hK ?_; decide) | (refine Away.pages hK ?_; simp; done) | (refine Away.parts hM ?_; decide)
    | split | intro _)

theorem execCairnThaw_away {K : Nat → Prop} {M : Part → Prop} {base : State} (s : State) (hK : ∀ n ∈ [0x06], ¬K n) (hk : Away K M base s) :
    ResAway K M base (execCairnThaw s) := by
  unfold execCairnThaw
  try dsimp only
  repeat' (first
    | with_reducible assumption | with_reducible apply State.begin_away | with_reducible apply State.unfreeze_away
    | with_reducible apply State.setFld_away | with_reducible apply State.irq_away | with_reducible apply Away.ite
    | with_reducible apply ResAway.ite | with_reducible apply ResAway.next | simp only [Away.mk_iff]
    | (refine Away.pages hK ?_; decide) | (refine Away.pages hK ?_; simp; done) | split | intro _)

theorem State.loadWindow_away {K : Nat → Prop} {M : Part → Prop} {base : State} (s : State) (i : Nat) (hK : ∀ n ∈ [0x06], ¬K n) (hk : Away K M base s) :
    Away K M base (State.loadWindow s i) := by
  unfold State.loadWindow
  try dsimp only
  repeat' (first
    | with_reducible assumption | with_reducible apply State.setFld_away | with_reducible apply Away.foldl
    | with_reducible apply Away.foldlFst | simp only [Away.mk_iff] | (refine Away.pages hK ?_; decide)
    | (refine Away.pages hK ?_; simp [R.CAIRN_WIN_BYTES, R.CAIRN_CURSOR_INDEX]; done) | split | intro _)

theorem execCairnCursorLoad_away {K : Nat → Prop} {M : Part → Prop} {base : State} (m : Master) (value : Word) (s : State) (hK : ∀ n ∈ [0x06], ¬K n) (hk : Away K M base s) :
    ResAway K M base (execCairnCursorLoad m value s) := by
  unfold execCairnCursorLoad
  try dsimp only
  repeat' (first
    | with_reducible assumption | with_reducible apply State.begin_away | with_reducible apply State.asWrite_away
    | with_reducible apply State.loadWindow_away | with_reducible apply ResAway.next | simp only [Away.mk_iff]
    | (refine Away.pages hK ?_; decide) | (refine Away.pages hK ?_; simp; done) | split | intro _)

theorem execCairnWinAdvance_away {K : Nat → Prop} {M : Part → Prop} {base : State} (m : Master) (s : State) (hK : ∀ n ∈ [0x06], ¬K n) (hk : Away K M base s) :
    ResAway K M base (execCairnWinAdvance m s) := by
  unfold execCairnWinAdvance
  try dsimp only
  repeat' (first
    | with_reducible assumption | with_reducible apply State.begin_away | with_reducible apply State.emit_away
    | with_reducible apply State.loadWindow_away | with_reducible apply Away.ite | with_reducible apply ResAway.ite
    | with_reducible apply ResAway.next | with_reducible apply ResAway.refused | simp only [Away.mk_iff]
    | (refine Away.pages hK ?_; decide)
    | (refine Away.pages hK ?_; simp [R.CAIRN_WIN_BYTES, R.CAIRN_CTRL_AUTOINC, R.CAIRN_CURSOR_INDEX]; done) | split
    | intro _)

theorem State.scanRing_away {K : Nat → Prop} {M : Part → Prop} {base : State} (s : State) (hK : ∀ n ∈ [0x06], ¬K n) (hk : Away K M base s) :
    Away K M base (State.scanRing s) := by
  unfold State.scanRing
  try dsimp only
  repeat' (first
    | with_reducible assumption | with_reducible apply Away.ite | with_reducible apply Away.foldl
    | with_reducible apply Away.foldlFst | with_reducible apply Away.four | with_reducible apply State.setFlds_away
    | with_reducible apply Away.flds | with_reducible apply State.setFld_away
    | simp only [List.map_cons, List.map_nil] | simp only [Away.mk_iff] | (refine Away.pages hK ?_; decide)
    | (refine Away.pages hK ?_; simp; done) | split | intro _)

theorem State.writeStaged_away {K : Nat → Prop} {M : Part → Prop} {base : State} (hK : ∀ n ∈ [0x06], ¬K n) (hM : ∀ p ∈ [.mram, .ret], ¬M p) :
    ∀ (n : Nat) (s : State), Away K M base s → Away K M base (s.writeStaged n)
  | 0, _, h => h
  | n + 1, s, h => by
    unfold State.writeStaged
    split
    · exact h
    · dsimp only
      apply State.writeStaged_away (Away.pages hK (by decide)) (Away.parts hM (by decide)) n
      split
      · exact State.cairnLoss_away _ (Away.pages hK (by decide)) (State.freeStage_away _ _ (Away.parts hM (by decide)) h)
      · apply State.writeSlot_away _ _ (Away.pages hK (by decide)) (Away.parts hM (by decide))
        split
        · exact State.putStage_away _ _ _ (Away.parts hM (by decide)) h
        · exact h

theorem State.writeResets_away {K : Nat → Prop} {M : Part → Prop} {base : State} (s : State) (hK : ∀ n ∈ [0x06], ¬K n) (hM : ∀ p ∈ [.mram, .ret], ¬M p) (hk : Away K M base s) :
    Away K M base (State.writeResets s) := by
  unfold State.writeResets
  try dsimp only
  repeat' (first
    | with_reducible assumption | with_reducible apply State.fresh_away | with_reducible apply State.form_away
    | with_reducible apply State.writeSlot_away | with_reducible apply Away.foldl
    | with_reducible apply Away.foldlFst | with_reducible apply Away.four | simp only [Away.mk_iff]
    | (refine Away.pages hK ?_; decide) | (refine Away.pages hK ?_; simp; done) | (refine Away.parts hM ?_; decide)
    | split | intro _)

theorem State.takeQueue_away {K : Nat → Prop} {M : Part → Prop} {base : State} (hK : ∀ n ∈ [0x06], ¬K n) (hM : ∀ p ∈ [.mram, .ret], ¬M p) :
    ∀ (n : Nat) (s : State), Away K M base s → Away K M base (s.takeQueue n)
  | 0, _, h => h
  | n + 1, s, h => State.takeQueue_away (Away.pages hK (by decide)) (Away.parts hM (by decide)) n _ (State.takeOccurrence_away s (Away.pages hK (by decide)) (Away.parts hM (by decide)) h)

theorem State.cairnStart_away {K : Nat → Prop} {M : Part → Prop} {base : State} (s : State) (hK : ∀ n ∈ [0x06], ¬K n) (hk : Away K M base s) :
    Away K M base (State.cairnStart s) := by
  unfold State.cairnStart
  try dsimp only
  repeat' (first
    | with_reducible assumption | with_reducible apply State.setFld_away | with_reducible apply Away.four
    | simp only [Away.mk_iff] | (refine Away.pages hK ?_; decide) | (refine Away.pages hK ?_; simp; done) | split
    | intro _)

theorem execCairnReleaseScan_away {K : Nat → Prop} {M : Part → Prop} {base : State} (s : State) (hK : ∀ n ∈ [0x06], ¬K n) (hM : ∀ p ∈ [.mram, .ret], ¬M p) (hk : Away K M base s) :
    ResAway K M base (execCairnReleaseScan s) := by
  unfold execCairnReleaseScan
  try dsimp only
  repeat' (first
    | with_reducible assumption | with_reducible apply State.begin_away | with_reducible apply State.scanRing_away
    | with_reducible apply State.add_away | with_reducible apply State.irq_away
    | with_reducible apply State.setFld_away | with_reducible apply State.cairnLoss_away
    | with_reducible apply State.writeStaged_away | with_reducible apply State.writeResets_away
    | with_reducible apply State.takeQueue_away | with_reducible apply Away.ite | with_reducible apply ResAway.ite
    | with_reducible apply ResAway.next | with_reducible apply Away.four | simp only [Away.mk_iff]
    | (refine Away.pages hK ?_; decide) | (refine Away.pages hK ?_; simp; done) | (refine Away.parts hM ?_; decide)
    | split | intro _)

end Sys2Proof.Machine
end

