-- ==== Sys2Proof/Laws/AwaySide.lean ====
section
/-! SUPPORT. What the operations of Machine/Side.lean stay away from (Laws/Away.lean). -/
set_option linter.all false
set_option Elab.async false

namespace Sys2Proof.Machine

theorem State.setSide_away {K : Nat → Prop} {M : Part → Prop} {base : State} (s : State) (x : SideS) (hk : Away K M base s) :
    Away K M base (State.setSide s x) := by
  unfold State.setSide
  try dsimp only
  repeat' (first
    | with_reducible assumption | with_reducible apply Away.four | simp only [Away.mk_iff] | split | intro _)

theorem execRadioRegionSet_away {K : Nat → Prop} {M : Part → Prop} {base : State} (m : Master) (value : Word) (s : State) (hK : ∀ n ∈ [0x00, 0x3D], ¬K n) (hk : Away K M base s) :
    ResAway K M base (execRadioRegionSet m value s) := by
  unfold execRadioRegionSet
  try dsimp only
  repeat' (first
    | with_reducible assumption | with_reducible apply State.begin_away | with_reducible apply State.asWrite_away
    | with_reducible apply State.setFld_away | with_reducible apply State.irq_away | with_reducible apply Away.ite
    | with_reducible apply ResAway.ite | with_reducible apply ResAway.next | simp only [Away.mk_iff]
    | (refine Away.pages hK ?_; decide) | (refine Away.pages hK ?_; simp; done) | split | intro _)

theorem State.noteWait_away {K : Nat → Prop} {M : Part → Prop} {base : State} (s : State) (hK : ∀ n ∈ [0x3D], ¬K n) (hk : Away K M base s) :
    Away K M base (State.noteWait s) := by
  unfold State.noteWait
  repeat' (first
    | with_reducible assumption | with_reducible apply State.inc_away | with_reducible apply State.irq_away
    | with_reducible apply Away.ite | simp only [Away.mk_iff] | (refine Away.pages hK ?_; decide)
    | (refine Away.pages hK ?_; simp; done) | split | intro _)

theorem State.radiate_away {K : Nat → Prop} {M : Part → Prop} {base : State} (s : State) (c used : Nat) (psdu : List Byte) (hK : ∀ n ∈ [0x3D], ¬K n) (hk : Away K M base s) :
    Away K M base (State.radiate s c used psdu) := by
  unfold State.radiate
  try dsimp only
  repeat' (first
    | with_reducible assumption | with_reducible apply State.inc_away | with_reducible apply State.setFld_away
    | with_reducible apply State.emit_away | with_reducible apply Away.ite | with_reducible apply Away.four
    | simp only [Away.mk_iff] | (refine Away.pages hK ?_; decide) | (refine Away.pages hK ?_; simp; done) | split
    | intro _)

theorem execDiscoverySecond_away {K : Nat → Prop} {M : Part → Prop} {base : State} (s : State) (hK : ∀ n ∈ [0x3D], ¬K n) (hk : Away K M base s) :
    ResAway K M base (execDiscoverySecond s) := by
  unfold execDiscoverySecond
  try dsimp only
  repeat' (first
    | with_reducible assumption | with_reducible apply State.begin_away | with_reducible apply State.setFld_away
    | with_reducible apply Away.ite | with_reducible apply ResAway.ite | with_reducible apply ResAway.next
    | simp only [Away.mk_iff] | (refine Away.pages hK ?_; decide) | (refine Away.pages hK ?_; simp; done) | split
    | intro _)

theorem State.takeFc_away {K : Nat → Prop} {M : Part → Prop} {base : State} (s : State) (k : Nat) (hK : ∀ n ∈ [0x3C], ¬K n) (hM : ∀ p ∈ [.mram], ¬M p) (hk : Away K M base s) :
    Away K M base (State.takeFc s k).1 := by
  unfold State.takeFc
  try dsimp only
  repeat' (first
    | with_reducible assumption | with_reducible apply State.setBit_away | with_reducible apply State.irq_away
    | with_reducible apply State.mramWrite_away | with_reducible apply Away.ite | simp only [Away.mk_iff]
    | (refine Away.pages hK ?_; decide) | (refine Away.pages hK ?_; simp; done) | (refine Away.parts hM ?_; decide)
    | split | intro _)

theorem State.sideEventAt_away {K : Nat → Prop} {M : Part → Prop} {base : State} (s : State) (kind index at0 : Nat) (hK : ∀ n ∈ [0x3C], ¬K n) (hk : Away K M base s) :
    Away K M base (State.sideEventAt s kind index at0) := by
  unfold State.sideEventAt
  try dsimp only
  repeat' (first
    | with_reducible assumption | with_reducible apply State.setSide_away | with_reducible apply State.irq_away
    | with_reducible apply State.inc_away | with_reducible apply Away.ite | with_reducible apply Away.four
    | simp only [Away.mk_iff] | (refine Away.pages hK ?_; decide) | (refine Away.pages hK ?_; simp; done) | split
    | intro _)

theorem State.sideEvent_away {K : Nat → Prop} {M : Part → Prop} {base : State} (s : State) (kind index : Nat) (hK : ∀ n ∈ [0x3C], ¬K n) (hk : Away K M base s) :
    Away K M base (State.sideEvent s kind index) := by
  unfold State.sideEvent
  repeat' (first
    | with_reducible assumption | with_reducible apply State.sideEventAt_away | simp only [Away.mk_iff]
    | (refine Away.pages hK ?_; decide) | (refine Away.pages hK ?_; simp; done) | split | intro _)

theorem State.endSlot_away {K : Nat → Prop} {M : Part → Prop} {base : State} (s : State) (slot : Option Nat) (res : Nat) (hK : ∀ n ∈ [0x3C], ¬K n) (hk : Away K M base s) :
    Away K M base (State.endSlot s slot res) := by
  unfold State.endSlot
  try dsimp only
  repeat' (first
    | with_reducible assumption | with_reducible apply State.inc_away | with_reducible apply State.sideEvent_away
    | with_reducible apply Away.ite | with_reducible apply State.setFlds_away | with_reducible apply Away.flds
    | with_reducible apply State.setFld_away | simp only [List.map_cons, List.map_nil] | simp only [Away.mk_iff]
    | (refine Away.pages hK ?_; decide)
    | (refine Away.pages hK ?_; simp [R.SIDE_TX_BUSY, R.SIDE_TX_RESULT, R.SIDE_CNT_NOACK_N, R.SIDE_CNT_EXPIRED_N]; done)
    | split | intro _)

theorem State.setLink_away {K : Nat → Prop} {M : Part → Prop} {base : State} (s : State) (l : Nat) (x : Option SideLink) (hk : Away K M base s) :
    Away K M base (State.setLink s l x) := by
  unfold State.setLink
  try dsimp only
  repeat' (first
    | with_reducible assumption | with_reducible apply State.setSide_away | with_reducible apply Away.four
    | simp only [Away.mk_iff] | split | intro _)

theorem State.sideGo_away {K : Nat → Prop} {M : Part → Prop} {base : State} (s : State) (m : Master) (t : Nat) (hK : ∀ n ∈ [0x3C], ¬K n) (hk : Away K M base s) :
    ResAway K M base (State.sideGo s m t) := by
  unfold State.sideGo
  try dsimp only
  repeat' (first
    | with_reducible assumption | with_reducible apply State.asWrite_away | with_reducible apply State.setFld_away
    | with_reducible apply State.endSlot_away | with_reducible apply State.setLink_away
    | with_reducible apply State.setSide_away | with_reducible apply Away.ite | with_reducible apply ResAway.ite
    | with_reducible apply ResAway.next | with_reducible apply ResAway.fault | with_reducible apply Away.four
    | with_reducible apply State.setFlds_away | with_reducible apply Away.flds
    | with_reducible apply State.setFld_away | simp only [List.map_cons, List.map_nil] | simp only [Away.mk_iff]
    | (refine Away.pages hK ?_; decide)
    | (refine Away.pages hK ?_; simp [R.SIDE_TX_GO_SLOT, R.SIDE_TX_KIND, R.SIDE_TX_KEY, R.SIDE_TX_LINK, R.SIDE_TX_BUSY, R.SIDE_TX_RESULT, R.SIDE_TX_LEN, R.SIDE_KEYSTAT_EXHAUSTED]; done)
    | split | intro _)

theorem execSideSendData_away {K : Nat → Prop} {M : Part → Prop} {base : State} (m : Master) (t : Nat) (s : State) (hK : ∀ n ∈ [0x3C], ¬K n) (hk : Away K M base s) :
    ResAway K M base (execSideSendData m t s) := by
  unfold execSideSendData
  repeat' (first
    | with_reducible assumption | with_reducible apply State.begin_away | with_reducible apply State.sideGo_away
    | with_reducible apply ResAway.next | simp only [Away.mk_iff] | (refine Away.pages hK ?_; decide)
    | (refine Away.pages hK ?_; simp; done) | split | intro _)

theorem execSideSendConnect_away {K : Nat → Prop} {M : Part → Prop} {base : State} (m : Master) (t : Nat) (s : State) (hK : ∀ n ∈ [0x3C], ¬K n) (hk : Away K M base s) :
    ResAway K M base (execSideSendConnect m t s) := by
  unfold execSideSendConnect
  repeat' (first
    | with_reducible assumption | with_reducible apply State.begin_away | with_reducible apply State.sideGo_away
    | with_reducible apply ResAway.next | simp only [Away.mk_iff] | (refine Away.pages hK ?_; decide)
    | (refine Away.pages hK ?_; simp; done) | split | intro _)

theorem execSideSendLink_away {K : Nat → Prop} {M : Part → Prop} {base : State} (m : Master) (t : Nat) (s : State) (hK : ∀ n ∈ [0x3C], ¬K n) (hk : Away K M base s) :
    ResAway K M base (execSideSendLink m t s) := by
  unfold execSideSendLink
  repeat' (first
    | with_reducible assumption | with_reducible apply State.begin_away | with_reducible apply State.sideGo_away
    | with_reducible apply ResAway.next | simp only [Away.mk_iff] | (refine Away.pages hK ?_; decide)
    | (refine Away.pages hK ?_; simp; done) | split | intro _)

theorem execSideSendTerminate_away {K : Nat → Prop} {M : Part → Prop} {base : State} (m : Master) (t : Nat) (s : State) (hK : ∀ n ∈ [0x3C], ¬K n) (hk : Away K M base s) :
    ResAway K M base (execSideSendTerminate m t s) := by
  unfold execSideSendTerminate
  repeat' (first
    | with_reducible assumption | with_reducible apply State.begin_away | with_reducible apply State.sideGo_away
    | with_reducible apply ResAway.next | simp only [Away.mk_iff] | (refine Away.pages hK ?_; decide)
    | (refine Away.pages hK ?_; simp; done) | split | intro _)

theorem execSideSendBeacon_away {K : Nat → Prop} {M : Part → Prop} {base : State} (m : Master) (t : Nat) (s : State) (hK : ∀ n ∈ [0x3C], ¬K n) (hk : Away K M base s) :
    ResAway K M base (execSideSendBeacon m t s) := by
  unfold execSideSendBeacon
  repeat' (first
    | with_reducible assumption | with_reducible apply State.begin_away | with_reducible apply State.sideGo_away
    | with_reducible apply ResAway.next | simp only [Away.mk_iff] | (refine Away.pages hK ?_; decide)
    | (refine Away.pages hK ?_; simp; done) | split | intro _)

theorem execSideSendWake_away {K : Nat → Prop} {M : Part → Prop} {base : State} (m : Master) (t : Nat) (s : State) (hK : ∀ n ∈ [0x3C], ¬K n) (hk : Away K M base s) :
    ResAway K M base (execSideSendWake m t s) := by
  unfold execSideSendWake
  repeat' (first
    | with_reducible assumption | with_reducible apply State.begin_away | with_reducible apply State.sideGo_away
    | with_reducible apply ResAway.next | simp only [Away.mk_iff] | (refine Away.pages hK ?_; decide)
    | (refine Away.pages hK ?_; simp; done) | split | intro _)

theorem State.sendCur_away {K : Nat → Prop} {M : Part → Prop} {base : State} (s : State) (y : SideTx) (hK : ∀ n ∈ [0x3C, 0x3D], ¬K n) (hM : ∀ p ∈ [.mram], ¬M p) (hk : Away K M base s) :
    Away K M base (State.sendCur s y) := by
  unfold State.sendCur
  try dsimp only
  repeat' (first
    | with_reducible assumption | with_reducible apply State.setSide_away | with_reducible apply State.noteWait_away
    | with_reducible apply State.takeFc_away | with_reducible apply State.endSlot_away
    | with_reducible apply State.radiate_away | with_reducible apply State.sideEvent_away
    | with_reducible apply Away.ite | with_reducible apply Away.four | simp only [Away.mk_iff]
    | (refine Away.pages hK ?_; decide) | (refine Away.pages hK ?_; simp; done) | (refine Away.parts hM ?_; decide)
    | split | intro _)

theorem execSideTxStart_away {K : Nat → Prop} {M : Part → Prop} {base : State} (ecc : Ecc) (s : State) (hK : ∀ n ∈ [0x06, 0x3C, 0x3D], ¬K n) (hM : ∀ p ∈ [.mram], ¬M p) (hk : Away K M base s) :
    ResAway K M base (execSideTxStart ecc s) := by
  unfold execSideTxStart
  try dsimp only
  repeat' (first
    | with_reducible assumption | with_reducible apply State.begin_away | with_reducible apply State.fenceBlock_away
    | with_reducible apply State.sendCur_away | with_reducible apply State.setSide_away
    | with_reducible apply Away.ite | with_reducible apply ResAway.ite | with_reducible apply ResAway.next
    | with_reducible apply ResAway.fault | with_reducible apply Away.four | simp only [Away.mk_iff]
    | (refine Away.pages hK ?_; decide) | (refine Away.pages hK ?_; simp; done) | (refine Away.parts hM ?_; decide)
    | split | intro _)

theorem execSideAckTimeout_away {K : Nat → Prop} {M : Part → Prop} {base : State} (s : State) (hK : ∀ n ∈ [0x3C], ¬K n) (hk : Away K M base s) :
    ResAway K M base (execSideAckTimeout s) := by
  unfold execSideAckTimeout
  try dsimp only
  repeat' (first
    | with_reducible assumption | with_reducible apply State.begin_away | with_reducible apply State.setSide_away
    | with_reducible apply State.endSlot_away | with_reducible apply Away.ite | with_reducible apply ResAway.ite
    | with_reducible apply ResAway.next | with_reducible apply Away.four | simp only [Away.mk_iff]
    | (refine Away.pages hK ?_; decide) | (refine Away.pages hK ?_; simp; done) | split | intro _)

theorem execSideRetryBackoff_away {K : Nat → Prop} {M : Part → Prop} {base : State} (s : State) (hK : ∀ n ∈ [0x3C, 0x3D], ¬K n) (hM : ∀ p ∈ [.mram], ¬M p) (hk : Away K M base s) :
    ResAway K M base (execSideRetryBackoff s) := by
  unfold execSideRetryBackoff
  try dsimp only
  repeat' (first
    | with_reducible assumption | with_reducible apply State.begin_away | with_reducible apply State.sendCur_away
    | with_reducible apply Away.ite | with_reducible apply ResAway.ite | with_reducible apply ResAway.next
    | with_reducible apply Away.four | simp only [Away.mk_iff] | (refine Away.pages hK ?_; decide)
    | (refine Away.pages hK ?_; simp; done) | (refine Away.parts hM ?_; decide) | split | intro _)

theorem execSideDeadlineExpiry_away {K : Nat → Prop} {M : Part → Prop} {base : State} (t : Nat) (s : State) (hK : ∀ n ∈ [0x3C], ¬K n) (hk : Away K M base s) :
    ResAway K M base (execSideDeadlineExpiry t s) := by
  unfold execSideDeadlineExpiry
  try dsimp only
  repeat' (first
    | with_reducible assumption | with_reducible apply State.begin_away | with_reducible apply State.setSide_away
    | with_reducible apply State.endSlot_away | with_reducible apply Away.ite | with_reducible apply ResAway.ite
    | with_reducible apply ResAway.next | with_reducible apply Away.four | simp only [Away.mk_iff]
    | (refine Away.pages hK ?_; decide)
    | (refine Away.pages hK ?_; simp [R.SIDE_TX_BUSY, R.SIDE_TX_DEADLINE_MS]; done) | split | intro _)

theorem execSideBeaconTimer_away {K : Nat → Prop} {M : Part → Prop} {base : State} (s : State) (hk : Away K M base s) :
    ResAway K M base (execSideBeaconTimer s) := by
  unfold execSideBeaconTimer
  try dsimp only
  repeat' (first
    | with_reducible assumption | with_reducible apply State.begin_away | with_reducible apply State.setSide_away
    | with_reducible apply Away.ite | with_reducible apply ResAway.ite | with_reducible apply ResAway.next
    | with_reducible apply Away.four | simp only [Away.mk_iff] | split | intro _)

theorem State.openLink_away {K : Nat → Prop} {M : Part → Prop} {base : State} (s : State) (central : Bool) (peer key net fc : Nat) (i : ConnectInfo) (hK : ∀ n ∈ [0x3C], ¬K n) (hk : Away K M base s) :
    Away K M base (State.openLink s central peer key net fc i) := by
  unfold State.openLink
  try dsimp only
  repeat' (first
    | with_reducible assumption | with_reducible apply State.setLink_away | with_reducible apply State.setBit_away
    | with_reducible apply State.setFlds_away | with_reducible apply Away.flds
    | with_reducible apply State.setFld_away | simp only [List.map_cons, List.map_nil] | simp only [Away.mk_iff]
    | (refine Away.pages hK ?_; decide)
    | (refine Away.pages hK ?_; simp [R.SIDE_LINK_STAT_UP, R.SIDE_LINK_STAT_CENTRAL, R.SIDE_LINK_STAT_PEER, R.SIDE_LINK_STAT_EVENT, R.SIDE_LINK_TIME_MISSED, R.SIDE_LINK_TIME_WIDEN_US, R.SIDE_STATUS_LINKS]; done)
    | split | intro _)

theorem State.closeLink_away {K : Nat → Prop} {M : Part → Prop} {base : State} (s : State) (l : Nat) (hK : ∀ n ∈ [0x3C], ¬K n) (hk : Away K M base s) :
    Away K M base (State.closeLink s l) := by
  unfold State.closeLink
  try dsimp only
  repeat' (first
    | with_reducible assumption | with_reducible apply State.endSlot_away | with_reducible apply State.setLink_away
    | with_reducible apply State.setFld_away | with_reducible apply State.setBit_away
    | with_reducible apply State.inc_away | with_reducible apply State.irq_away
    | with_reducible apply State.sideEvent_away | with_reducible apply Away.foldl
    | with_reducible apply Away.foldlFst | simp only [Away.mk_iff] | (refine Away.pages hK ?_; decide)
    | (refine Away.pages hK ?_; simp [R.SIDE_LINK_STAT_UP, R.SIDE_STATUS_LINKS, R.SIDE_CNT_LINK_LOST_N]; done)
    | split | intro _)

theorem State.sendLink_away {K : Nat → Prop} {M : Part → Prop} {base : State} (s : State) (l : Nat) (x : SideLink) (hK : ∀ n ∈ [0x3C, 0x3D], ¬K n) (hM : ∀ p ∈ [.mram], ¬M p) (hk : Away K M base s) :
    Away K M base (State.sendLink s l x) := by
  unfold State.sendLink
  try dsimp only
  repeat' (first
    | with_reducible assumption | with_reducible apply State.noteWait_away | with_reducible apply State.takeFc_away
    | with_reducible apply State.radiate_away | with_reducible apply State.sideEvent_away
    | with_reducible apply State.endSlot_away | with_reducible apply State.setLink_away
    | with_reducible apply State.closeLink_away | with_reducible apply Away.ite | with_reducible apply Away.four
    | simp only [Away.mk_iff] | (refine Away.pages hK ?_; decide)
    | (refine Away.pages hK ?_; simp [R.SIDE_TX_LEN, R.SIDE_TX_DST]; done) | (refine Away.parts hM ?_; decide)
    | split | intro _)

theorem State.closeAll_away {K : Nat → Prop} {M : Part → Prop} {base : State} (s : State) (hK : ∀ n ∈ [0x3C, 0x3D], ¬K n) (hM : ∀ p ∈ [.mram], ¬M p) (hk : Away K M base s) :
    Away K M base (State.closeAll s) := by
  unfold State.closeAll
  try dsimp only
  repeat' (first
    | with_reducible assumption | with_reducible apply State.takeFc_away | with_reducible apply State.closeLink_away
    | with_reducible apply State.radiate_away | with_reducible apply Away.ite | with_reducible apply Away.foldl
    | with_reducible apply Away.foldlFst | simp only [Away.mk_iff] | (refine Away.pages hK ?_; decide)
    | (refine Away.pages hK ?_; simp; done) | (refine Away.parts hM ?_; decide) | split | intro _)

theorem execSideLinkAnchor_away {K : Nat → Prop} {M : Part → Prop} {base : State} (l : Nat) (s : State) (hK : ∀ n ∈ [0x3C, 0x3D], ¬K n) (hM : ∀ p ∈ [.mram], ¬M p) (hk : Away K M base s) :
    ResAway K M base (execSideLinkAnchor l s) := by
  unfold execSideLinkAnchor
  try dsimp only
  repeat' (first
    | with_reducible assumption | with_reducible apply State.begin_away | with_reducible apply State.setLink_away
    | with_reducible apply State.sideEvent_away | with_reducible apply State.sendLink_away
    | with_reducible apply Away.ite | with_reducible apply ResAway.ite | with_reducible apply ResAway.next
    | with_reducible apply Away.four | with_reducible apply State.setFlds_away | with_reducible apply Away.flds
    | with_reducible apply State.setFld_away | simp only [List.map_cons, List.map_nil] | simp only [Away.mk_iff]
    | (refine Away.pages hK ?_; decide)
    | (refine Away.pages hK ?_; simp [R.SIDE_LINK_STAT_EVENT, R.SIDE_LINK_TIME_MISSED, R.SIDE_LINK_TIME_WIDEN_US, R.SIDEPHY_STAT_CHANNEL]; done)
    | (refine Away.parts hM ?_; decide) | split | intro _)

theorem execSideLinkReply_away {K : Nat → Prop} {M : Part → Prop} {base : State} (l : Nat) (s : State) (hK : ∀ n ∈ [0x3C, 0x3D], ¬K n) (hM : ∀ p ∈ [.mram], ¬M p) (hk : Away K M base s) :
    ResAway K M base (execSideLinkReply l s) := by
  unfold execSideLinkReply
  try dsimp only
  repeat' (first
    | with_reducible assumption | with_reducible apply State.begin_away | with_reducible apply State.sendLink_away
    | with_reducible apply Away.ite | with_reducible apply ResAway.ite | with_reducible apply ResAway.next
    | simp only [Away.mk_iff] | (refine Away.pages hK ?_; decide) | (refine Away.pages hK ?_; simp; done)
    | (refine Away.parts hM ?_; decide) | split | intro _)

theorem execSideLinkSupervisionTimeout_away {K : Nat → Prop} {M : Part → Prop} {base : State} (l : Nat) (s : State) (hK : ∀ n ∈ [0x3C], ¬K n) (hk : Away K M base s) :
    ResAway K M base (execSideLinkSupervisionTimeout l s) := by
  unfold execSideLinkSupervisionTimeout
  repeat' (first
    | with_reducible assumption | with_reducible apply State.begin_away | with_reducible apply State.closeLink_away
    | with_reducible apply ResAway.next | simp only [Away.mk_iff] | (refine Away.pages hK ?_; decide)
    | (refine Away.pages hK ?_; simp; done) | split | intro _)

theorem State.sideRefuse_away {K : Nat → Prop} {M : Part → Prop} {base : State} (s : State) (src code : Nat) (hK : ∀ n ∈ [0x3C], ¬K n) (hk : Away K M base s) :
    Away K M base (State.sideRefuse s src code) := by
  unfold State.sideRefuse
  try dsimp only
  repeat' (first
    | with_reducible assumption | with_reducible apply State.inc_away | with_reducible apply Away.ite
    | with_reducible apply State.setFlds_away | with_reducible apply Away.flds
    | with_reducible apply State.setFld_away | simp only [List.map_cons, List.map_nil] | simp only [Away.mk_iff]
    | (refine Away.pages hK ?_; decide) | (refine Away.pages hK ?_; simp; done)
    | (refine Away.pages hK ?_; unfold sideCounter; split <;> decide) | split | intro _)

theorem execSideFrameRefused_away {K : Nat → Prop} {M : Part → Prop} {base : State} (src code : Nat) (s : State) (hK : ∀ n ∈ [0x3C], ¬K n) (hk : Away K M base s) :
    ResAway K M base (execSideFrameRefused src code s) := by
  unfold execSideFrameRefused
  try dsimp only
  repeat' (first
    | with_reducible assumption | with_reducible apply State.begin_away | with_reducible apply State.sideRefuse_away
    | with_reducible apply Away.ite | with_reducible apply ResAway.ite | with_reducible apply ResAway.next
    | simp only [Away.mk_iff] | (refine Away.pages hK ?_; decide) | (refine Away.pages hK ?_; simp; done) | split
    | intro _)

theorem State.sideAccept_away {K : Nat → Prop} {M : Part → Prop} {base : State} (s : State) (f : SideFrame) (hK : ∀ n ∈ [0x3C, 0x3D], ¬K n) (hM : ∀ p ∈ [.mram], ¬M p) (hk : Away K M base s) :
    Away K M base (State.sideAccept s f) := by
  unfold State.sideAccept
  repeat' (first
    | with_reducible assumption | with_reducible apply State.mramWrite_away | with_reducible apply State.inc_away
    | with_reducible apply State.setFld_away | simp only [Away.mk_iff] | (refine Away.pages hK ?_; decide)
    | (refine Away.pages hK ?_; simp; done) | (refine Away.parts hM ?_; decide) | split | intro _)

theorem State.sideDeliver_away {K : Nat → Prop} {M : Part → Prop} {base : State} (s : State) (e type : Nat) (link : Option Nat) (f : SideFrame) (hK : ∀ n ∈ [0x3C], ¬K n) (hk : Away K M base s) :
    Away K M base (State.sideDeliver s e type link f) := by
  unfold State.sideDeliver
  try dsimp only
  repeat' (first
    | with_reducible assumption | with_reducible apply State.setFld_away | with_reducible apply State.irq_away
    | with_reducible apply State.sideEventAt_away | with_reducible apply Away.foldl
    | with_reducible apply Away.foldlFst | with_reducible apply State.setFlds_away | with_reducible apply Away.flds
    | with_reducible apply State.setFld_away | simp only [List.map_cons, List.map_nil] | simp only [Away.mk_iff]
    | (refine Away.pages hK ?_; decide)
    | (refine Away.pages hK ?_; simp [R.SIDE_RX_FULL, R.SIDE_RX_TYPE, R.SIDE_RX_KEY, R.SIDE_RX_VIA_LINK, R.SIDE_RX_LINK, R.SIDE_RX_LEN, R.SIDE_RX_RSSI, R.SIDE_RX_SRC, R.SIDE_RX_DST, R.SIDE_RX_FC, R.SIDE_RX_NET_ID, R.SIDE_RX_NEXT_ENTRY, R.SIDE_RX_PAYLOAD, R.SIDEPHY_CFG_PRE_LEN]; done)
    | split | intro _)

theorem State.owesAck_away {K : Nat → Prop} {M : Part → Prop} {base : State} (s : State) (f : SideFrame) (hk : Away K M base s) :
    Away K M base (State.owesAck s f) := by
  unfold State.owesAck
  try dsimp only
  repeat' (first
    | with_reducible assumption | with_reducible apply State.setSide_away | with_reducible apply Away.four
    | simp only [Away.mk_iff] | split | intro _)

theorem State.sideReceive_away {K : Nat → Prop} {M : Part → Prop} {base : State} (s : State) (f : SideFrame) (sizeOk : Bool) (fresh again : State → State) (hK : ∀ n ∈ [0x3C], ¬K n) (hk : Away K M base s)
    (hfresh : ∀ (x0 : State), Away K M base x0 → Away K M base (fresh x0))
    (hagain : ∀ (x0 : State), Away K M base x0 → Away K M base (again x0)) :
    ResAway K M base (State.sideReceive s f sizeOk fresh again) := by
  unfold State.sideReceive
  try dsimp only
  repeat' (first
    | with_reducible assumption | with_reducible apply hfresh | with_reducible apply hagain
    | with_reducible apply State.sideRefuse_away | with_reducible apply State.fresh_away
    | with_reducible apply State.inc_away | with_reducible apply Away.ite | with_reducible apply ResAway.ite
    | with_reducible apply ResAway.next | simp only [Away.mk_iff] | (refine Away.pages hK ?_; decide)
    | (refine Away.pages hK ?_; simp; done) | split | intro _)

theorem execSideDataReceive_away {K : Nat → Prop} {M : Part → Prop} {base : State} (f : SideFrame) (ackReq : Bool) (s : State) (hK : ∀ n ∈ [0x3C, 0x3D], ¬K n) (hM : ∀ p ∈ [.mram], ¬M p) (hk : Away K M base s) :
    ResAway K M base (execSideDataReceive f ackReq s) := by
  unfold execSideDataReceive
  try dsimp only
  repeat' (first
    | with_reducible assumption | with_reducible apply State.begin_away
    | with_reducible apply State.sideReceive_away | with_reducible apply State.sideRefuse_away
    | with_reducible apply State.sideAccept_away | with_reducible apply State.sideDeliver_away
    | with_reducible apply State.owesAck_away | with_reducible apply Away.ite | with_reducible apply ResAway.ite
    | with_reducible apply ResAway.next | simp only [Away.mk_iff] | (refine Away.pages hK ?_; decide)
    | (refine Away.pages hK ?_; simp; done) | (refine Away.parts hM ?_; decide) | split | intro _)

theorem execSideBeaconReceive_away {K : Nat → Prop} {M : Part → Prop} {base : State} (f : SideFrame) (s : State) (hK : ∀ n ∈ [0x3C, 0x3D], ¬K n) (hM : ∀ p ∈ [.mram], ¬M p) (hk : Away K M base s) :
    ResAway K M base (execSideBeaconReceive f s) := by
  unfold execSideBeaconReceive
  try dsimp only
  repeat' (first
    | with_reducible assumption | with_reducible apply State.begin_away
    | with_reducible apply State.sideReceive_away | with_reducible apply State.sideRefuse_away
    | with_reducible apply State.sideAccept_away | with_reducible apply State.sideDeliver_away
    | with_reducible apply State.setSide_away | with_reducible apply Away.ite | with_reducible apply ResAway.ite
    | with_reducible apply ResAway.next | with_reducible apply Away.four | simp only [Away.mk_iff]
    | (refine Away.pages hK ?_; decide) | (refine Away.pages hK ?_; simp; done) | (refine Away.parts hM ?_; decide)
    | split | intro _)

theorem State.sideAcked_away {K : Nat → Prop} {M : Part → Prop} {base : State} (s : State) (f : SideFrame) (hK : ∀ n ∈ [0x3C], ¬K n) (hk : Away K M base s) :
    Away K M base (State.sideAcked s f) := by
  unfold State.sideAcked
  try dsimp only
  repeat' (first
    | with_reducible assumption | with_reducible apply State.setSide_away | with_reducible apply State.endSlot_away
    | with_reducible apply State.openLink_away | with_reducible apply Away.ite | with_reducible apply Away.four
    | simp only [Away.mk_iff] | (refine Away.pages hK ?_; decide) | (refine Away.pages hK ?_; simp; done) | split
    | intro _)

theorem execSideAckReceive_away {K : Nat → Prop} {M : Part → Prop} {base : State} (f : SideFrame) (s : State) (hK : ∀ n ∈ [0x3C, 0x3D], ¬K n) (hM : ∀ p ∈ [.mram], ¬M p) (hk : Away K M base s) :
    ResAway K M base (execSideAckReceive f s) := by
  unfold execSideAckReceive
  try dsimp only
  repeat' (first
    | with_reducible assumption | with_reducible apply State.begin_away
    | with_reducible apply State.sideReceive_away | with_reducible apply State.sideAccept_away
    | with_reducible apply State.sideAcked_away | with_reducible apply ResAway.next | simp only [Away.mk_iff]
    | (refine Away.pages hK ?_; decide) | (refine Away.pages hK ?_; simp; done) | (refine Away.parts hM ?_; decide)
    | split | intro _)

theorem execSideConnectReceive_away {K : Nat → Prop} {M : Part → Prop} {base : State} (f : SideFrame) (s : State) (hK : ∀ n ∈ [0x3C, 0x3D], ¬K n) (hM : ∀ p ∈ [.mram], ¬M p) (hk : Away K M base s) :
    ResAway K M base (execSideConnectReceive f s) := by
  unfold execSideConnectReceive
  try dsimp only
  repeat' (first
    | with_reducible assumption | with_reducible apply State.begin_away
    | with_reducible apply State.sideReceive_away | with_reducible apply State.sideAccept_away
    | with_reducible apply State.owesAck_away | with_reducible apply State.setSide_away
    | with_reducible apply State.sideRefuse_away | with_reducible apply Away.ite | with_reducible apply ResAway.ite
    | with_reducible apply ResAway.next | with_reducible apply Away.four | simp only [Away.mk_iff]
    | (refine Away.pages hK ?_; decide) | (refine Away.pages hK ?_; simp; done) | (refine Away.parts hM ?_; decide)
    | split | intro _)

theorem execSideAckSend_away {K : Nat → Prop} {M : Part → Prop} {base : State} (s : State) (hK : ∀ n ∈ [0x3C, 0x3D], ¬K n) (hM : ∀ p ∈ [.mram], ¬M p) (hk : Away K M base s) :
    ResAway K M base (execSideAckSend s) := by
  unfold execSideAckSend
  try dsimp only
  repeat' (first
    | with_reducible assumption | with_reducible apply State.begin_away | with_reducible apply State.setSide_away
    | with_reducible apply State.inc_away | with_reducible apply State.takeFc_away
    | with_reducible apply State.radiate_away | with_reducible apply State.sideEvent_away
    | with_reducible apply State.openLink_away | with_reducible apply Away.ite | with_reducible apply ResAway.ite
    | with_reducible apply ResAway.next | with_reducible apply Away.four | simp only [Away.mk_iff]
    | (refine Away.pages hK ?_; decide) | (refine Away.pages hK ?_; simp; done) | (refine Away.parts hM ?_; decide)
    | split | intro _)

theorem State.heardOn_away {K : Nat → Prop} {M : Part → Prop} {base : State} (s : State) (l : Nat) (x : SideLink) (f : SideFrame) (hK : ∀ n ∈ [0x3C], ¬K n) (hk : Away K M base s) :
    Away K M base (State.heardOn s l x f) := by
  unfold State.heardOn
  try dsimp only
  repeat' (first
    | with_reducible assumption | with_reducible apply State.setLink_away | with_reducible apply State.endSlot_away
    | with_reducible apply Away.ite | with_reducible apply Away.four | with_reducible apply State.setFlds_away
    | with_reducible apply Away.flds | with_reducible apply State.setFld_away
    | simp only [List.map_cons, List.map_nil] | simp only [Away.mk_iff] | (refine Away.pages hK ?_; decide)
    | (refine Away.pages hK ?_; simp [R.SIDE_LINK_TIME_MISSED, R.SIDE_LINK_TIME_WIDEN_US]; done) | split | intro _)

theorem execSideLinkReceive_away {K : Nat → Prop} {M : Part → Prop} {base : State} (f : SideFrame) (s : State) (hK : ∀ n ∈ [0x3C, 0x3D], ¬K n) (hM : ∀ p ∈ [.mram], ¬M p) (hk : Away K M base s) :
    ResAway K M base (execSideLinkReceive f s) := by
  unfold execSideLinkReceive
  try dsimp only
  repeat' (first
    | with_reducible assumption | with_reducible apply State.begin_away
    | with_reducible apply State.sideReceive_away | with_reducible apply State.sideRefuse_away
    | with_reducible apply State.sideAccept_away | with_reducible apply State.heardOn_away
    | with_reducible apply State.sideDeliver_away | with_reducible apply Away.ite | with_reducible apply ResAway.ite
    | with_reducible apply ResAway.next | simp only [Away.mk_iff] | (refine Away.pages hK ?_; decide)
    | (refine Away.pages hK ?_; simp; done) | (refine Away.parts hM ?_; decide) | split | intro _)

theorem execSideTerminateReceive_away {K : Nat → Prop} {M : Part → Prop} {base : State} (f : SideFrame) (s : State) (hK : ∀ n ∈ [0x3C, 0x3D], ¬K n) (hM : ∀ p ∈ [.mram], ¬M p) (hk : Away K M base s) :
    ResAway K M base (execSideTerminateReceive f s) := by
  unfold execSideTerminateReceive
  try dsimp only
  repeat' (first
    | with_reducible assumption | with_reducible apply State.begin_away
    | with_reducible apply State.sideReceive_away | with_reducible apply State.sideRefuse_away
    | with_reducible apply State.sideAccept_away | with_reducible apply State.heardOn_away
    | with_reducible apply State.closeLink_away | with_reducible apply ResAway.next | simp only [Away.mk_iff]
    | (refine Away.pages hK ?_; decide) | (refine Away.pages hK ?_; simp; done) | (refine Away.parts hM ?_; decide)
    | split | intro _)

theorem State.wakeFrame_away {K : Nat → Prop} {M : Part → Prop} {base : State} (s : State) (f : SideFrame) (hK : ∀ n ∈ [0x3C, 0x3D], ¬K n) (hM : ∀ p ∈ [.mram], ¬M p) (hk : Away K M base s) :
    ResAway K M base (State.wakeFrame s f) := by
  unfold State.wakeFrame
  try dsimp only
  repeat' (first
    | with_reducible assumption | with_reducible apply State.sideReceive_away
    | with_reducible apply State.sideAccept_away | with_reducible apply State.owesAck_away
    | with_reducible apply ResAway.next | simp only [Away.mk_iff] | (refine Away.pages hK ?_; decide)
    | (refine Away.pages hK ?_; simp; done) | (refine Away.parts hM ?_; decide) | split | intro _)

theorem execSideEvtPop_away {K : Nat → Prop} {M : Part → Prop} {base : State} (m : Master) (s : State) (hK : ∀ n ∈ [0x3C], ¬K n) (hk : Away K M base s) :
    ResAway K M base (execSideEvtPop m s) := by
  unfold execSideEvtPop
  try dsimp only
  repeat' (first
    | with_reducible assumption | with_reducible apply State.begin_away | with_reducible apply State.emit_away
    | with_reducible apply State.setFld_away | with_reducible apply State.setSide_away
    | with_reducible apply Away.ite | with_reducible apply ResAway.ite | with_reducible apply ResAway.next
    | with_reducible apply ResAway.refused | with_reducible apply Away.four
    | with_reducible apply State.setFlds_away | with_reducible apply Away.flds
    | with_reducible apply State.setFld_away | simp only [List.map_cons, List.map_nil] | simp only [Away.mk_iff]
    | (refine Away.pages hK ?_; decide) | (refine Away.pages hK ?_; simp; done) | split | intro _)

theorem execSideRxReturn_away {K : Nat → Prop} {M : Part → Prop} {base : State} (m : Master) (e : Nat) (s : State) (hK : ∀ n ∈ [0x3C], ¬K n) (hk : Away K M base s) :
    ResAway K M base (execSideRxReturn m e s) := by
  unfold execSideRxReturn
  try dsimp only
  repeat' (first
    | with_reducible assumption | with_reducible apply State.begin_away | with_reducible apply State.asWrite_away
    | with_reducible apply State.setFld_away | with_reducible apply Away.ite | with_reducible apply ResAway.ite
    | with_reducible apply ResAway.next | simp only [Away.mk_iff] | (refine Away.pages hK ?_; decide)
    | (refine Away.pages hK ?_; simp [R.SIDE_RX_FULL]; done) | split | intro _)

theorem execSidephyPllUnlock_away {K : Nat → Prop} {M : Part → Prop} {base : State} (s : State) (hK : ∀ n ∈ [0x06, 0x3D], ¬K n) (hk : Away K M base s) :
    ResAway K M base (execSidephyPllUnlock s) := by
  unfold execSidephyPllUnlock
  repeat' (first
    | with_reducible assumption | with_reducible apply State.begin_away | with_reducible apply State.fenceBlock_away
    | with_reducible apply ResAway.next | simp only [Away.mk_iff] | (refine Away.pages hK ?_; decide)
    | (refine Away.pages hK ?_; simp; done) | split | intro _)

theorem execSideCounterStoreFail_away {K : Nat → Prop} {M : Part → Prop} {base : State} (s : State) (hK : ∀ n ∈ [0x06, 0x3C], ¬K n) (hk : Away K M base s) :
    ResAway K M base (execSideCounterStoreFail s) := by
  unfold execSideCounterStoreFail
  repeat' (first
    | with_reducible assumption | with_reducible apply State.begin_away | with_reducible apply State.fenceBlock_away
    | with_reducible apply ResAway.next | simp only [Away.mk_iff] | (refine Away.pages hK ?_; decide)
    | (refine Away.pages hK ?_; simp; done) | split | intro _)

theorem State.sideEmpty_away {K : Nat → Prop} {M : Part → Prop} {base : State} (s : State) (hK : ∀ n ∈ [0x3C], ¬K n) (hk : Away K M base s) :
    Away K M base (State.sideEmpty s) := by
  unfold State.sideEmpty
  try dsimp only
  repeat' (first
    | with_reducible assumption | with_reducible apply State.closeLink_away | with_reducible apply State.setFld_away
    | with_reducible apply State.setSide_away | with_reducible apply Away.foldl | with_reducible apply Away.foldlFst
    | with_reducible apply Away.four | with_reducible apply State.setFlds_away | with_reducible apply Away.flds
    | with_reducible apply State.setFld_away | simp only [List.map_cons, List.map_nil] | simp only [Away.mk_iff]
    | (refine Away.pages hK ?_; decide)
    | (refine Away.pages hK ?_; simp [R.SIDE_TX_BUSY, R.SIDE_TX_RESULT, R.SIDE_RX_FULL]; done) | split | intro _)

theorem State.sideKeyReplaced_away {K : Nat → Prop} {M : Part → Prop} {base : State} (s : State) (k : Nat) (hK : ∀ n ∈ [0x3C], ¬K n) (hM : ∀ p ∈ [.mram], ¬M p) (hk : Away K M base s) :
    Away K M base (State.sideKeyReplaced s k) := by
  unfold State.sideKeyReplaced
  try dsimp only
  repeat' (first
    | with_reducible assumption | with_reducible apply State.mramWrite_away | with_reducible apply State.setBit_away
    | with_reducible apply Away.four | with_reducible apply Away.fourMem | simp only [Away.mk_iff]
    | (intro (p : Part) hp; cases p <;> first | exact absurd hp (hM _ (by decide)) | (simp only [Mems.part, State.drawn_mem]; done))
    | (refine Away.pages hK ?_; decide) | (refine Away.pages hK ?_; simp; done) | (refine Away.parts hM ?_; decide)
    | split | intro _)

theorem State.sidePush_away {K : Nat → Prop} {M : Part → Prop} {base : State} (s : State) (k : Nat) (key : Option (List Byte)) (hK : ∀ n ∈ [0x3C], ¬K n) (hk : Away K M base s) :
    Away K M base (State.sidePush s k key) := by
  unfold State.sidePush
  try dsimp only
  repeat' (first
    | with_reducible assumption | with_reducible apply State.setSide_away | with_reducible apply State.setBit_away
    | with_reducible apply Away.four | simp only [Away.mk_iff] | (refine Away.pages hK ?_; decide)
    | (refine Away.pages hK ?_; simp; done) | split | intro _)

end Sys2Proof.Machine
end

