-- ==== Sys2Proof/Laws/AwayAnchor.lean ====
section
/-! SUPPORT. What the operations of Machine/Anchor.lean stay away from (Laws/Away.lean). -/
set_option linter.all false
set_option Elab.async false

namespace Sys2Proof.Machine

theorem State.setAnchor_away {K : Nat → Prop} {M : Part → Prop} {base : State} (s : State) (x : AnchorS) (hk : Away K M base s) :
    Away K M base (State.setAnchor s x) := by
  unfold State.setAnchor
  try dsimp only
  repeat' (first
    | with_reducible assumption | with_reducible apply Away.four | simp only [Away.mk_iff] | split | intro _)

theorem State.setKeySlot_away {K : Nat → Prop} {M : Part → Prop} {base : State} (s : State) (n : Nat) (x : AnchorSlot) (hk : Away K M base s) :
    Away K M base (State.setKeySlot s n x) := by
  unfold State.setKeySlot
  try dsimp only
  repeat' (first
    | with_reducible assumption | with_reducible apply State.setAnchor_away | with_reducible apply Away.four
    | simp only [Away.mk_iff] | split | intro _)

theorem State.pushSlot_away {K : Nat → Prop} {M : Part → Prop} {base : State} (s : State) (n : Nat) (hK : ∀ n ∈ [0x3C, 0x40], ¬K n) (hk : Away K M base s) :
    Away K M base (State.pushSlot s n) := by
  unfold State.pushSlot
  try dsimp only
  repeat' (first
    | with_reducible assumption | with_reducible apply State.setFlag_away | with_reducible apply State.sidePush_away
    | with_reducible apply State.setFld_away | with_reducible apply Away.ite | with_reducible apply Away.four
    | simp only [Away.mk_iff] | (refine Away.pages hK ?_; decide) | (refine Away.pages hK ?_; simp; done) | split
    | intro _)

theorem State.slotChanged_away {K : Nat → Prop} {M : Part → Prop} {base : State} (s : State) (n : Nat) (hK : ∀ n ∈ [0x3C, 0x40], ¬K n) (hM : ∀ p ∈ [.mram], ¬M p) (hk : Away K M base s) :
    Away K M base (State.slotChanged s n) := by
  unfold State.slotChanged
  repeat' (first
    | with_reducible assumption | with_reducible apply State.sideKeyReplaced_away
    | with_reducible apply State.pushSlot_away | with_reducible apply Away.ite | simp only [Away.mk_iff]
    | (refine Away.pages hK ?_; decide) | (refine Away.pages hK ?_; simp; done) | (refine Away.parts hM ?_; decide)
    | split | intro _)

theorem State.replaceKey_away {K : Nat → Prop} {M : Part → Prop} {base : State} (s : State) (n type origin attr : Nat) (key : List Byte) (hK : ∀ n ∈ [0x3C, 0x40], ¬K n) (hM : ∀ p ∈ [.mram], ¬M p) (hk : Away K M base s) :
    Away K M base (State.replaceKey s n type origin attr key) := by
  unfold State.replaceKey
  repeat' (first
    | with_reducible assumption | with_reducible apply State.setKeySlot_away
    | with_reducible apply State.slotChanged_away | simp only [Away.mk_iff] | (refine Away.pages hK ?_; decide)
    | (refine Away.pages hK ?_; simp; done) | (refine Away.parts hM ?_; decide) | split | intro _)

theorem State.destroyKey_away {K : Nat → Prop} {M : Part → Prop} {base : State} (s : State) (n : Nat) (hK : ∀ n ∈ [0x3C, 0x40], ¬K n) (hM : ∀ p ∈ [.mram], ¬M p) (hk : Away K M base s) :
    Away K M base (State.destroyKey s n) := by
  unfold State.destroyKey
  repeat' (first
    | with_reducible assumption | with_reducible apply State.setKeySlot_away
    | with_reducible apply State.slotChanged_away | simp only [Away.mk_iff] | (refine Away.pages hK ?_; decide)
    | (refine Away.pages hK ?_; simp; done) | (refine Away.parts hM ?_; decide) | split | intro _)

theorem State.deny_away {K : Nat → Prop} {M : Part → Prop} {base : State} (s : State) (st : Nat) (hk : Away K M base s) :
    Away K M base (State.deny s st).1 := by
  unfold State.deny
  repeat' (first
    | with_reducible assumption | simp only [Away.mk_iff] | split | intro _)

theorem State.mbGetInfo_away {K : Nat → Prop} {M : Part → Prop} {base : State} (s : State) (p : List Byte) (hk : Away K M base s) :
    Away K M base (State.mbGetInfo s p).1 := by
  unfold State.mbGetInfo
  try dsimp only
  repeat' (first
    | with_reducible assumption | with_reducible apply State.deny_away | with_reducible apply Away.ite
    | simp only [Away.mk_iff] | split | intro _)

theorem State.mbRandom_away {K : Nat → Prop} {M : Part → Prop} {base : State} (s : State) (p : List Byte) (hk : Away K M base s) :
    Away K M base (State.mbRandom s p).1 := by
  unfold State.mbRandom
  repeat' (first
    | with_reducible assumption | with_reducible apply State.deny_away | with_reducible apply State.drawn_away
    | with_reducible apply Away.ite | simp only [Away.mk_iff] | split | intro _)

theorem State.mbKeyGen_away {K : Nat → Prop} {M : Part → Prop} {base : State} (s : State) (p : List Byte) (hK : ∀ n ∈ [0x3C, 0x40], ¬K n) (hM : ∀ p ∈ [.mram], ¬M p) (hk : Away K M base s) :
    Away K M base (State.mbKeyGen s p).1 := by
  unfold State.mbKeyGen
  try dsimp only
  repeat' (first
    | with_reducible assumption | with_reducible apply State.deny_away | with_reducible apply State.replaceKey_away
    | with_reducible apply State.drawn_away | with_reducible apply Away.ite | simp only [Away.mk_iff]
    | (refine Away.pages hK ?_; decide) | (refine Away.pages hK ?_; simp; done) | (refine Away.parts hM ?_; decide)
    | split | intro _)

theorem State.mbKeyImport_away {K : Nat → Prop} {M : Part → Prop} {base : State} (s : State) (p : List Byte) (hK : ∀ n ∈ [0x3C, 0x40], ¬K n) (hM : ∀ p ∈ [.mram], ¬M p) (hk : Away K M base s) :
    Away K M base (State.mbKeyImport s p).1 := by
  unfold State.mbKeyImport
  try dsimp only
  repeat' (first
    | with_reducible assumption | with_reducible apply State.deny_away | with_reducible apply State.replaceKey_away
    | with_reducible apply Away.ite | simp only [Away.mk_iff] | (refine Away.pages hK ?_; decide)
    | (refine Away.pages hK ?_; simp; done) | (refine Away.parts hM ?_; decide) | split | intro _)

theorem State.mbKeyDestroy_away {K : Nat → Prop} {M : Part → Prop} {base : State} (s : State) (p : List Byte) (hK : ∀ n ∈ [0x3C, 0x40], ¬K n) (hM : ∀ p ∈ [.mram], ¬M p) (hk : Away K M base s) :
    Away K M base (State.mbKeyDestroy s p).1 := by
  unfold State.mbKeyDestroy
  try dsimp only
  repeat' (first
    | with_reducible assumption | with_reducible apply State.deny_away | with_reducible apply State.destroyKey_away
    | with_reducible apply Away.ite | simp only [Away.mk_iff] | (refine Away.pages hK ?_; decide)
    | (refine Away.pages hK ?_; simp; done) | (refine Away.parts hM ?_; decide) | split | intro _)

theorem State.mbKeyPush_away {K : Nat → Prop} {M : Part → Prop} {base : State} (s : State) (p : List Byte) (hK : ∀ n ∈ [0x3C, 0x40], ¬K n) (hk : Away K M base s) :
    Away K M base (State.mbKeyPush s p).1 := by
  unfold State.mbKeyPush
  try dsimp only
  repeat' (first
    | with_reducible assumption | with_reducible apply State.deny_away | with_reducible apply State.pushSlot_away
    | with_reducible apply Away.ite | simp only [Away.mk_iff] | (refine Away.pages hK ?_; decide)
    | (refine Away.pages hK ?_; simp; done) | split | intro _)

theorem State.mbPartyPromote_away {K : Nat → Prop} {M : Part → Prop} {base : State} (s : State) (p : List Byte) (hK : ∀ n ∈ [0x3C, 0x40], ¬K n) (hk : Away K M base s) :
    Away K M base (State.mbPartyPromote s p).1 := by
  unfold State.mbPartyPromote
  try dsimp only
  repeat' (first
    | with_reducible assumption | with_reducible apply State.deny_away | with_reducible apply State.setKeySlot_away
    | with_reducible apply State.pushSlot_away | with_reducible apply Away.ite | with_reducible apply Away.four
    | simp only [Away.mk_iff] | (refine Away.pages hK ?_; decide) | (refine Away.pages hK ?_; simp; done) | split
    | intro _)

theorem State.touch_away {K : Nat → Prop} {M : Part → Prop} {base : State} (s : State) (i : Nat) (hk : Away K M base s) :
    Away K M base (State.touch s i) := by
  unfold State.touch
  try dsimp only
  repeat' (first
    | with_reducible assumption | with_reducible apply State.setAnchor_away | with_reducible apply Away.four
    | simp only [Away.mk_iff] | split | intro _)

theorem State.cacheKey_away {K : Nat → Prop} {M : Part → Prop} {base : State} (s : State) (d : DerivedKey) (hk : Away K M base s) :
    Away K M base (State.cacheKey s d).1 := by
  unfold State.cacheKey
  try dsimp only
  repeat' (first
    | with_reducible assumption | with_reducible apply State.setAnchor_away | with_reducible apply State.touch_away
    | with_reducible apply Away.four | simp only [Away.mk_iff] | split | intro _)

theorem State.mbDerive_away {K : Nat → Prop} {M : Part → Prop} {base : State} (s : State) (p : List Byte) (hk : Away K M base s) :
    Away K M base (State.mbDerive s p).1 := by
  unfold State.mbDerive
  try dsimp only
  repeat' (first
    | with_reducible assumption | with_reducible apply State.deny_away | with_reducible apply State.touch_away
    | with_reducible apply State.cacheKey_away | with_reducible apply Away.ite | simp only [Away.mk_iff] | split
    | intro _)

theorem State.mbCipher_away {K : Nat → Prop} {M : Part → Prop} {base : State} (s : State) (p : List Byte) (hM : ∀ p ∈ [.sram], ¬M p) (hk : Away K M base s) :
    Away K M base (State.mbCipher s p).1 := by
  unfold State.mbCipher
  try dsimp only
  repeat' (first
    | with_reducible assumption | with_reducible apply State.deny_away | with_reducible apply State.sramWrite_away
    | with_reducible apply Away.ite | simp only [Away.mk_iff] | (refine Away.parts hM ?_; decide) | split | intro _)

theorem State.mbHash_away {K : Nat → Prop} {M : Part → Prop} {base : State} (s : State) (p : List Byte) (hk : Away K M base s) :
    Away K M base (State.mbHash s p).1 := by
  unfold State.mbHash
  try dsimp only
  repeat' (first
    | with_reducible assumption | with_reducible apply State.deny_away | with_reducible apply Away.ite
    | simp only [Away.mk_iff] | split | intro _)

theorem State.mbHmac_away {K : Nat → Prop} {M : Part → Prop} {base : State} (s : State) (p : List Byte) (hk : Away K M base s) :
    Away K M base (State.mbHmac s p).1 := by
  unfold State.mbHmac
  try dsimp only
  repeat' (first
    | with_reducible assumption | with_reducible apply State.deny_away | with_reducible apply Away.ite
    | simp only [Away.mk_iff] | split | intro _)

theorem State.mbSign_away {K : Nat → Prop} {M : Part → Prop} {base : State} (s : State) (p : List Byte) (hk : Away K M base s) :
    Away K M base (State.mbSign s p).1 := by
  unfold State.mbSign
  try dsimp only
  repeat' (first
    | with_reducible assumption | with_reducible apply State.deny_away | with_reducible apply State.drawn_away
    | with_reducible apply Away.ite | simp only [Away.mk_iff] | split | intro _)

theorem State.mbVerify_away {K : Nat → Prop} {M : Part → Prop} {base : State} (s : State) (p : List Byte) (hk : Away K M base s) :
    Away K M base (State.mbVerify s p).1 := by
  unfold State.mbVerify
  try dsimp only
  repeat' (first
    | with_reducible assumption | with_reducible apply State.deny_away | with_reducible apply Away.ite
    | simp only [Away.mk_iff] | split | intro _)

theorem State.mbLcpAgree_away {K : Nat → Prop} {M : Part → Prop} {base : State} (s : State) (p : List Byte) (hk : Away K M base s) :
    Away K M base (State.mbLcpAgree s p).1 := by
  unfold State.mbLcpAgree
  try dsimp only
  repeat' (first
    | with_reducible assumption | with_reducible apply State.deny_away | with_reducible apply State.drawn_away
    | with_reducible apply State.setAnchor_away | with_reducible apply Away.ite | with_reducible apply Away.four
    | simp only [Away.mk_iff] | split | intro _)

theorem State.mbLcpSign_away {K : Nat → Prop} {M : Part → Prop} {base : State} (s : State) (p : List Byte) (hk : Away K M base s) :
    Away K M base (State.mbLcpSign s p).1 := by
  unfold State.mbLcpSign
  repeat' (first
    | with_reducible assumption | with_reducible apply State.deny_away | with_reducible apply State.drawn_away
    | with_reducible apply Away.ite | simp only [Away.mk_iff] | split | intro _)

theorem State.mbMeterSign_away {K : Nat → Prop} {M : Part → Prop} {base : State} (s : State) (p : List Byte) (hk : Away K M base s) :
    Away K M base (State.mbMeterSign s p).1 := by
  unfold State.mbMeterSign
  try dsimp only
  repeat' (first
    | with_reducible assumption | with_reducible apply State.deny_away | with_reducible apply State.drawn_away
    | with_reducible apply Away.ite | simp only [Away.mk_iff] | split | intro _)

theorem State.mbAttest_away {K : Nat → Prop} {M : Part → Prop} {base : State} (s : State) (p : List Byte) (hk : Away K M base s) :
    Away K M base (State.mbAttest s p).1 := by
  unfold State.mbAttest
  try dsimp only
  repeat' (first
    | with_reducible assumption | with_reducible apply State.deny_away | with_reducible apply State.drawn_away
    | with_reducible apply Away.ite | simp only [Away.mk_iff] | split | intro _)

theorem State.mbGetCert_away {K : Nat → Prop} {M : Part → Prop} {base : State} (s : State) (p : List Byte) (hk : Away K M base s) :
    Away K M base (State.mbGetCert s p).1 := by
  unfold State.mbGetCert
  repeat' (first
    | with_reducible assumption | with_reducible apply State.deny_away | with_reducible apply Away.ite
    | simp only [Away.mk_iff] | split | intro _)

theorem State.mbLifecycle_away {K : Nat → Prop} {M : Part → Prop} {base : State} (s : State) (p : List Byte) (hK : ∀ n ∈ [0x3C, 0x40], ¬K n) (hM : ∀ p ∈ [.mram], ¬M p) (hk : Away K M base s) :
    Away K M base (State.mbLifecycle s p).1 := by
  unfold State.mbLifecycle
  try dsimp only
  repeat' (first
    | with_reducible assumption | with_reducible apply State.deny_away | with_reducible apply State.setAnchor_away
    | with_reducible apply State.setFld_away | with_reducible apply State.destroyKey_away
    | with_reducible apply Away.ite | with_reducible apply Away.foldl | with_reducible apply Away.foldlFst
    | with_reducible apply Away.four | simp only [Away.mk_iff] | (refine Away.pages hK ?_; decide)
    | (refine Away.pages hK ?_; simp; done) | (refine Away.parts hM ?_; decide) | split | intro _)

theorem State.mbFuse_away {K : Nat → Prop} {M : Part → Prop} {base : State} (s : State) (p : List Byte) (hk : Away K M base s) :
    Away K M base (State.mbFuse s p).1 := by
  unfold State.mbFuse
  try dsimp only
  repeat' (first
    | with_reducible assumption | with_reducible apply State.deny_away | with_reducible apply State.setKeySlot_away
    | with_reducible apply State.setAnchor_away | with_reducible apply Away.ite | with_reducible apply Away.four
    | simp only [Away.mk_iff] | split | intro _)

theorem State.mbTamper_away {K : Nat → Prop} {M : Part → Prop} {base : State} (s : State) (p : List Byte) (active : Bool) (hK : ∀ n ∈ [0x40], ¬K n) (hk : Away K M base s) :
    Away K M base (State.mbTamper s p active).1 := by
  unfold State.mbTamper
  try dsimp only
  repeat' (first
    | with_reducible assumption | with_reducible apply State.deny_away | with_reducible apply State.setAnchor_away
    | with_reducible apply State.setFld_away | with_reducible apply Away.ite | with_reducible apply Away.four
    | with_reducible apply State.setFlds_away | with_reducible apply Away.flds
    | with_reducible apply State.setFld_away | simp only [List.map_cons, List.map_nil] | simp only [Away.mk_iff]
    | (refine Away.pages hK ?_; decide) | (refine Away.pages hK ?_; simp; done) | split | intro _)

theorem State.mbTableSeal_away {K : Nat → Prop} {M : Part → Prop} {base : State} (s : State) (p : List Byte) (hM : ∀ p ∈ [.sram], ¬M p) (hk : Away K M base s) :
    Away K M base (State.mbTableSeal s p).1 := by
  unfold State.mbTableSeal
  try dsimp only
  repeat' (first
    | with_reducible assumption | with_reducible apply State.deny_away | with_reducible apply State.sramWrite_away
    | with_reducible apply State.setAnchor_away | with_reducible apply Away.ite | with_reducible apply Away.four
    | simp only [Away.mk_iff] | (refine Away.parts hM ?_; decide) | split | intro _)

theorem State.mbTableCheck_away {K : Nat → Prop} {M : Part → Prop} {base : State} (s : State) (p : List Byte) (hk : Away K M base s) :
    Away K M base (State.mbTableCheck s p).1 := by
  unfold State.mbTableCheck
  try dsimp only
  repeat' (first
    | with_reducible assumption | with_reducible apply State.deny_away | with_reducible apply Away.ite
    | simp only [Away.mk_iff] | split | intro _)

theorem State.mboxCommand_away {K : Nat → Prop} {M : Part → Prop} {base : State} (s : State) (cmd : Nat) (p : List Byte) (active : Bool) (hK : ∀ n ∈ [0x3C, 0x40], ¬K n) (hM : ∀ p ∈ [.mram, .sram], ¬M p) (hk : Away K M base s) :
    Away K M base (State.mboxCommand s cmd p active).1 := by
  unfold State.mboxCommand
  try dsimp only
  repeat' (first
    | with_reducible assumption | with_reducible apply State.mbGetInfo_away
    | with_reducible apply State.mbRandom_away | with_reducible apply State.mbKeyGen_away
    | with_reducible apply State.mbKeyImport_away | with_reducible apply State.mbKeyDestroy_away
    | with_reducible apply State.mbKeyPush_away | with_reducible apply State.mbPartyPromote_away
    | with_reducible apply State.mbDerive_away | with_reducible apply State.mbCipher_away
    | with_reducible apply State.mbHash_away | with_reducible apply State.mbHmac_away
    | with_reducible apply State.mbSign_away | with_reducible apply State.mbVerify_away
    | with_reducible apply State.mbLcpAgree_away | with_reducible apply State.mbLcpSign_away
    | with_reducible apply State.mbMeterSign_away | with_reducible apply State.mbAttest_away
    | with_reducible apply State.mbGetCert_away | with_reducible apply State.mbLifecycle_away
    | with_reducible apply State.mbFuse_away | with_reducible apply State.mbTamper_away
    | with_reducible apply State.mbTableSeal_away | with_reducible apply State.mbTableCheck_away
    | with_reducible apply State.deny_away | simp only [Away.mk_iff] | (refine Away.pages hK ?_; decide)
    | (refine Away.pages hK ?_; simp; done) | (refine Away.parts hM ?_; decide) | split | intro _)

theorem State.mboxGo_away {K : Nat → Prop} {M : Part → Prop} {base : State} (s : State) (m : Master) (req : List Byte) (fate : AnchorFate) (active : Bool) (hK : ∀ n ∈ [0x3C, 0x40], ¬K n) (hM : ∀ p ∈ [.mram, .sram], ¬M p) (hk : Away K M base s) :
    Away K M base (State.mboxGo s m req fate active) := by
  unfold State.mboxGo
  try dsimp only
  repeat' (first
    | with_reducible assumption | with_reducible apply State.inc_away | with_reducible apply State.deny_away
    | with_reducible apply State.mboxCommand_away | with_reducible apply State.setAnchor_away
    | with_reducible apply Away.ite | with_reducible apply Away.four | with_reducible apply State.setFlds_away
    | with_reducible apply Away.flds | with_reducible apply State.setFld_away
    | simp only [List.map_cons, List.map_nil] | simp only [Away.mk_iff] | (refine Away.pages hK ?_; decide)
    | (refine Away.pages hK ?_; simp; done) | (refine Away.parts hM ?_; decide) | split | intro _)

theorem State.putWords_away {K : Nat → Prop} {M : Part → Prop} {base : State} (s : State) (page off words : Nat) (bs : List Byte) (hK : ∀ n ∈ [page], ¬K n) (hk : Away K M base s) :
    Away K M base (State.putWords s page off words bs) := by
  unfold State.putWords
  try dsimp only
  repeat' (first
    | with_reducible assumption | with_reducible apply State.setReg_away | with_reducible apply Away.foldl
    | with_reducible apply Away.foldlFst | simp only [Away.mk_iff] | (refine Away.pages hK ?_; decide)
    | (refine Away.pages hK ?_; simp; done) | split | intro _)

theorem State.mailbox_away {K : Nat → Prop} {M : Part → Prop} {base : State} (s : State) (m : Master) (cmd tag : Nat) (p : List Byte) (fate : AnchorFate) (active : Bool) (hK : ∀ n ∈ [0x3C, 0x40], ¬K n) (hM : ∀ p ∈ [.mram, .sram], ¬M p) (hk : Away K M base s) :
    ResAway K M base (State.mailbox s m cmd tag p fate active) := by
  unfold State.mailbox
  try dsimp only
  repeat' (first
    | with_reducible assumption | with_reducible apply State.begin_away | with_reducible apply State.asWrite_away
    | with_reducible apply State.putWords_away | with_reducible apply State.mboxGo_away
    | with_reducible apply ResAway.next | simp only [Away.mk_iff] | (refine Away.pages hK ?_; decide)
    | (refine Away.pages hK ?_; simp; done) | (refine Away.parts hM ?_; decide) | split | intro _)

theorem execGetInfo_away {K : Nat → Prop} {M : Part → Prop} {base : State} (m : Master) (tag : Nat) (p : List Byte) (f : AnchorFate) (s : State) (hK : ∀ n ∈ [0x3C, 0x40], ¬K n) (hM : ∀ p ∈ [.mram, .sram], ¬M p) (hk : Away K M base s) :
    ResAway K M base (execGetInfo m tag p f s) := by
  unfold execGetInfo
  repeat' (first
    | with_reducible assumption | with_reducible apply State.mailbox_away | with_reducible apply ResAway.next
    | simp only [Away.mk_iff] | (refine Away.pages hK ?_; decide) | (refine Away.pages hK ?_; simp; done)
    | (refine Away.parts hM ?_; decide) | split | intro _)

theorem execRandom_away {K : Nat → Prop} {M : Part → Prop} {base : State} (m : Master) (tag : Nat) (p : List Byte) (f : AnchorFate) (s : State) (hK : ∀ n ∈ [0x3C, 0x40], ¬K n) (hM : ∀ p ∈ [.mram, .sram], ¬M p) (hk : Away K M base s) :
    ResAway K M base (execRandom m tag p f s) := by
  unfold execRandom
  repeat' (first
    | with_reducible assumption | with_reducible apply State.mailbox_away | with_reducible apply ResAway.next
    | simp only [Away.mk_iff] | (refine Away.pages hK ?_; decide) | (refine Away.pages hK ?_; simp; done)
    | (refine Away.parts hM ?_; decide) | split | intro _)

theorem execKeyGen_away {K : Nat → Prop} {M : Part → Prop} {base : State} (m : Master) (tag : Nat) (p : List Byte) (f : AnchorFate) (s : State) (hK : ∀ n ∈ [0x3C, 0x40], ¬K n) (hM : ∀ p ∈ [.mram, .sram], ¬M p) (hk : Away K M base s) :
    ResAway K M base (execKeyGen m tag p f s) := by
  unfold execKeyGen
  repeat' (first
    | with_reducible assumption | with_reducible apply State.mailbox_away | with_reducible apply ResAway.next
    | simp only [Away.mk_iff] | (refine Away.pages hK ?_; decide) | (refine Away.pages hK ?_; simp; done)
    | (refine Away.parts hM ?_; decide) | split | intro _)

theorem execKeyImport_away {K : Nat → Prop} {M : Part → Prop} {base : State} (m : Master) (tag : Nat) (p : List Byte) (f : AnchorFate) (s : State) (hK : ∀ n ∈ [0x3C, 0x40], ¬K n) (hM : ∀ p ∈ [.mram, .sram], ¬M p) (hk : Away K M base s) :
    ResAway K M base (execKeyImport m tag p f s) := by
  unfold execKeyImport
  repeat' (first
    | with_reducible assumption | with_reducible apply State.mailbox_away | with_reducible apply ResAway.next
    | simp only [Away.mk_iff] | (refine Away.pages hK ?_; decide) | (refine Away.pages hK ?_; simp; done)
    | (refine Away.parts hM ?_; decide) | split | intro _)

theorem execKeyDestroy_away {K : Nat → Prop} {M : Part → Prop} {base : State} (m : Master) (tag : Nat) (p : List Byte) (f : AnchorFate) (s : State) (hK : ∀ n ∈ [0x3C, 0x40], ¬K n) (hM : ∀ p ∈ [.mram, .sram], ¬M p) (hk : Away K M base s) :
    ResAway K M base (execKeyDestroy m tag p f s) := by
  unfold execKeyDestroy
  repeat' (first
    | with_reducible assumption | with_reducible apply State.mailbox_away | with_reducible apply ResAway.next
    | simp only [Away.mk_iff] | (refine Away.pages hK ?_; decide) | (refine Away.pages hK ?_; simp; done)
    | (refine Away.parts hM ?_; decide) | split | intro _)

theorem execKeyPush_away {K : Nat → Prop} {M : Part → Prop} {base : State} (m : Master) (tag : Nat) (p : List Byte) (f : AnchorFate) (s : State) (hK : ∀ n ∈ [0x3C, 0x40], ¬K n) (hM : ∀ p ∈ [.mram, .sram], ¬M p) (hk : Away K M base s) :
    ResAway K M base (execKeyPush m tag p f s) := by
  unfold execKeyPush
  repeat' (first
    | with_reducible assumption | with_reducible apply State.mailbox_away | with_reducible apply ResAway.next
    | simp only [Away.mk_iff] | (refine Away.pages hK ?_; decide) | (refine Away.pages hK ?_; simp; done)
    | (refine Away.parts hM ?_; decide) | split | intro _)

theorem execPartyPromote_away {K : Nat → Prop} {M : Part → Prop} {base : State} (m : Master) (tag : Nat) (p : List Byte) (f : AnchorFate) (s : State) (hK : ∀ n ∈ [0x3C, 0x40], ¬K n) (hM : ∀ p ∈ [.mram, .sram], ¬M p) (hk : Away K M base s) :
    ResAway K M base (execPartyPromote m tag p f s) := by
  unfold execPartyPromote
  repeat' (first
    | with_reducible assumption | with_reducible apply State.mailbox_away | with_reducible apply ResAway.next
    | simp only [Away.mk_iff] | (refine Away.pages hK ?_; decide) | (refine Away.pages hK ?_; simp; done)
    | (refine Away.parts hM ?_; decide) | split | intro _)

theorem execDerive_away {K : Nat → Prop} {M : Part → Prop} {base : State} (m : Master) (tag : Nat) (p : List Byte) (f : AnchorFate) (s : State) (hK : ∀ n ∈ [0x3C, 0x40], ¬K n) (hM : ∀ p ∈ [.mram, .sram], ¬M p) (hk : Away K M base s) :
    ResAway K M base (execDerive m tag p f s) := by
  unfold execDerive
  repeat' (first
    | with_reducible assumption | with_reducible apply State.mailbox_away | with_reducible apply ResAway.next
    | simp only [Away.mk_iff] | (refine Away.pages hK ?_; decide) | (refine Away.pages hK ?_; simp; done)
    | (refine Away.parts hM ?_; decide) | split | intro _)

theorem execCipher_away {K : Nat → Prop} {M : Part → Prop} {base : State} (m : Master) (tag : Nat) (p : List Byte) (f : AnchorFate) (s : State) (hK : ∀ n ∈ [0x3C, 0x40], ¬K n) (hM : ∀ p ∈ [.mram, .sram], ¬M p) (hk : Away K M base s) :
    ResAway K M base (execCipher m tag p f s) := by
  unfold execCipher
  repeat' (first
    | with_reducible assumption | with_reducible apply State.mailbox_away | with_reducible apply ResAway.next
    | simp only [Away.mk_iff] | (refine Away.pages hK ?_; decide) | (refine Away.pages hK ?_; simp; done)
    | (refine Away.parts hM ?_; decide) | split | intro _)

theorem execHash_away {K : Nat → Prop} {M : Part → Prop} {base : State} (m : Master) (tag : Nat) (p : List Byte) (f : AnchorFate) (s : State) (hK : ∀ n ∈ [0x3C, 0x40], ¬K n) (hM : ∀ p ∈ [.mram, .sram], ¬M p) (hk : Away K M base s) :
    ResAway K M base (execHash m tag p f s) := by
  unfold execHash
  repeat' (first
    | with_reducible assumption | with_reducible apply State.mailbox_away | with_reducible apply ResAway.next
    | simp only [Away.mk_iff] | (refine Away.pages hK ?_; decide) | (refine Away.pages hK ?_; simp; done)
    | (refine Away.parts hM ?_; decide) | split | intro _)

theorem execHmac_away {K : Nat → Prop} {M : Part → Prop} {base : State} (m : Master) (tag : Nat) (p : List Byte) (f : AnchorFate) (s : State) (hK : ∀ n ∈ [0x3C, 0x40], ¬K n) (hM : ∀ p ∈ [.mram, .sram], ¬M p) (hk : Away K M base s) :
    ResAway K M base (execHmac m tag p f s) := by
  unfold execHmac
  repeat' (first
    | with_reducible assumption | with_reducible apply State.mailbox_away | with_reducible apply ResAway.next
    | simp only [Away.mk_iff] | (refine Away.pages hK ?_; decide) | (refine Away.pages hK ?_; simp; done)
    | (refine Away.parts hM ?_; decide) | split | intro _)

theorem execSign_away {K : Nat → Prop} {M : Part → Prop} {base : State} (m : Master) (tag : Nat) (p : List Byte) (f : AnchorFate) (s : State) (hK : ∀ n ∈ [0x3C, 0x40], ¬K n) (hM : ∀ p ∈ [.mram, .sram], ¬M p) (hk : Away K M base s) :
    ResAway K M base (execSign m tag p f s) := by
  unfold execSign
  repeat' (first
    | with_reducible assumption | with_reducible apply State.mailbox_away | with_reducible apply ResAway.next
    | simp only [Away.mk_iff] | (refine Away.pages hK ?_; decide) | (refine Away.pages hK ?_; simp; done)
    | (refine Away.parts hM ?_; decide) | split | intro _)

theorem execVerify_away {K : Nat → Prop} {M : Part → Prop} {base : State} (m : Master) (tag : Nat) (p : List Byte) (f : AnchorFate) (s : State) (hK : ∀ n ∈ [0x3C, 0x40], ¬K n) (hM : ∀ p ∈ [.mram, .sram], ¬M p) (hk : Away K M base s) :
    ResAway K M base (execVerify m tag p f s) := by
  unfold execVerify
  repeat' (first
    | with_reducible assumption | with_reducible apply State.mailbox_away | with_reducible apply ResAway.next
    | simp only [Away.mk_iff] | (refine Away.pages hK ?_; decide) | (refine Away.pages hK ?_; simp; done)
    | (refine Away.parts hM ?_; decide) | split | intro _)

theorem execLcpAgree_away {K : Nat → Prop} {M : Part → Prop} {base : State} (m : Master) (tag : Nat) (p : List Byte) (f : AnchorFate) (s : State) (hK : ∀ n ∈ [0x3C, 0x40], ¬K n) (hM : ∀ p ∈ [.mram, .sram], ¬M p) (hk : Away K M base s) :
    ResAway K M base (execLcpAgree m tag p f s) := by
  unfold execLcpAgree
  repeat' (first
    | with_reducible assumption | with_reducible apply State.mailbox_away | with_reducible apply ResAway.next
    | simp only [Away.mk_iff] | (refine Away.pages hK ?_; decide) | (refine Away.pages hK ?_; simp; done)
    | (refine Away.parts hM ?_; decide) | split | intro _)

theorem execLcpSign_away {K : Nat → Prop} {M : Part → Prop} {base : State} (m : Master) (tag : Nat) (p : List Byte) (f : AnchorFate) (s : State) (hK : ∀ n ∈ [0x3C, 0x40], ¬K n) (hM : ∀ p ∈ [.mram, .sram], ¬M p) (hk : Away K M base s) :
    ResAway K M base (execLcpSign m tag p f s) := by
  unfold execLcpSign
  repeat' (first
    | with_reducible assumption | with_reducible apply State.mailbox_away | with_reducible apply ResAway.next
    | simp only [Away.mk_iff] | (refine Away.pages hK ?_; decide) | (refine Away.pages hK ?_; simp; done)
    | (refine Away.parts hM ?_; decide) | split | intro _)

theorem execMeterSign_away {K : Nat → Prop} {M : Part → Prop} {base : State} (m : Master) (tag : Nat) (p : List Byte) (f : AnchorFate) (s : State) (hK : ∀ n ∈ [0x3C, 0x40], ¬K n) (hM : ∀ p ∈ [.mram, .sram], ¬M p) (hk : Away K M base s) :
    ResAway K M base (execMeterSign m tag p f s) := by
  unfold execMeterSign
  repeat' (first
    | with_reducible assumption | with_reducible apply State.mailbox_away | with_reducible apply ResAway.next
    | simp only [Away.mk_iff] | (refine Away.pages hK ?_; decide) | (refine Away.pages hK ?_; simp; done)
    | (refine Away.parts hM ?_; decide) | split | intro _)

theorem execAttest_away {K : Nat → Prop} {M : Part → Prop} {base : State} (m : Master) (tag : Nat) (p : List Byte) (f : AnchorFate) (s : State) (hK : ∀ n ∈ [0x3C, 0x40], ¬K n) (hM : ∀ p ∈ [.mram, .sram], ¬M p) (hk : Away K M base s) :
    ResAway K M base (execAttest m tag p f s) := by
  unfold execAttest
  repeat' (first
    | with_reducible assumption | with_reducible apply State.mailbox_away | with_reducible apply ResAway.next
    | simp only [Away.mk_iff] | (refine Away.pages hK ?_; decide) | (refine Away.pages hK ?_; simp; done)
    | (refine Away.parts hM ?_; decide) | split | intro _)

theorem execGetCert_away {K : Nat → Prop} {M : Part → Prop} {base : State} (m : Master) (tag : Nat) (p : List Byte) (f : AnchorFate) (s : State) (hK : ∀ n ∈ [0x3C, 0x40], ¬K n) (hM : ∀ p ∈ [.mram, .sram], ¬M p) (hk : Away K M base s) :
    ResAway K M base (execGetCert m tag p f s) := by
  unfold execGetCert
  repeat' (first
    | with_reducible assumption | with_reducible apply State.mailbox_away | with_reducible apply ResAway.next
    | simp only [Away.mk_iff] | (refine Away.pages hK ?_; decide) | (refine Away.pages hK ?_; simp; done)
    | (refine Away.parts hM ?_; decide) | split | intro _)

theorem execLifecycle_away {K : Nat → Prop} {M : Part → Prop} {base : State} (m : Master) (tag : Nat) (p : List Byte) (f : AnchorFate) (s : State) (hK : ∀ n ∈ [0x3C, 0x40], ¬K n) (hM : ∀ p ∈ [.mram, .sram], ¬M p) (hk : Away K M base s) :
    ResAway K M base (execLifecycle m tag p f s) := by
  unfold execLifecycle
  repeat' (first
    | with_reducible assumption | with_reducible apply State.mailbox_away | with_reducible apply ResAway.next
    | simp only [Away.mk_iff] | (refine Away.pages hK ?_; decide) | (refine Away.pages hK ?_; simp; done)
    | (refine Away.parts hM ?_; decide) | split | intro _)

theorem execFuse_away {K : Nat → Prop} {M : Part → Prop} {base : State} (m : Master) (tag : Nat) (p : List Byte) (f : AnchorFate) (s : State) (hK : ∀ n ∈ [0x3C, 0x40], ¬K n) (hM : ∀ p ∈ [.mram, .sram], ¬M p) (hk : Away K M base s) :
    ResAway K M base (execFuse m tag p f s) := by
  unfold execFuse
  repeat' (first
    | with_reducible assumption | with_reducible apply State.mailbox_away | with_reducible apply ResAway.next
    | simp only [Away.mk_iff] | (refine Away.pages hK ?_; decide) | (refine Away.pages hK ?_; simp; done)
    | (refine Away.parts hM ?_; decide) | split | intro _)

theorem execTamper_away {K : Nat → Prop} {M : Part → Prop} {base : State} (m : Master) (tag : Nat) (p : List Byte) (f : AnchorFate) (active : Bool) (s : State) (hK : ∀ n ∈ [0x3C, 0x40], ¬K n) (hM : ∀ p ∈ [.mram, .sram], ¬M p) (hk : Away K M base s) :
    ResAway K M base (execTamper m tag p f active s) := by
  unfold execTamper
  repeat' (first
    | with_reducible assumption | with_reducible apply State.mailbox_away | with_reducible apply ResAway.next
    | simp only [Away.mk_iff] | (refine Away.pages hK ?_; decide) | (refine Away.pages hK ?_; simp; done)
    | (refine Away.parts hM ?_; decide) | split | intro _)

theorem execTableSeal_away {K : Nat → Prop} {M : Part → Prop} {base : State} (m : Master) (tag : Nat) (p : List Byte) (f : AnchorFate) (s : State) (hK : ∀ n ∈ [0x3C, 0x40], ¬K n) (hM : ∀ p ∈ [.mram, .sram], ¬M p) (hk : Away K M base s) :
    ResAway K M base (execTableSeal m tag p f s) := by
  unfold execTableSeal
  repeat' (first
    | with_reducible assumption | with_reducible apply State.mailbox_away | with_reducible apply ResAway.next
    | simp only [Away.mk_iff] | (refine Away.pages hK ?_; decide) | (refine Away.pages hK ?_; simp; done)
    | (refine Away.parts hM ?_; decide) | split | intro _)

theorem execTableCheck_away {K : Nat → Prop} {M : Part → Prop} {base : State} (m : Master) (tag : Nat) (p : List Byte) (f : AnchorFate) (s : State) (hK : ∀ n ∈ [0x3C, 0x40], ¬K n) (hM : ∀ p ∈ [.mram, .sram], ¬M p) (hk : Away K M base s) :
    ResAway K M base (execTableCheck m tag p f s) := by
  unfold execTableCheck
  repeat' (first
    | with_reducible assumption | with_reducible apply State.mailbox_away | with_reducible apply ResAway.next
    | simp only [Away.mk_iff] | (refine Away.pages hK ?_; decide) | (refine Away.pages hK ?_; simp; done)
    | (refine Away.parts hM ?_; decide) | split | intro _)

theorem execAnchorCommandDone_away {K : Nat → Prop} {M : Part → Prop} {base : State} (s : State) (hK : ∀ n ∈ [0x06, 0x40], ¬K n) (hk : Away K M base s) :
    ResAway K M base (execAnchorCommandDone s) := by
  unfold execAnchorCommandDone
  try dsimp only
  repeat' (first
    | with_reducible assumption | with_reducible apply State.begin_away | with_reducible apply State.setAnchor_away
    | with_reducible apply State.putWords_away | with_reducible apply State.inc_away
    | with_reducible apply State.irq_away | with_reducible apply State.fenceBlock_away
    | with_reducible apply Away.ite | with_reducible apply ResAway.ite | with_reducible apply ResAway.next
    | with_reducible apply Away.four | with_reducible apply State.setFlds_away | with_reducible apply Away.flds
    | with_reducible apply State.setFld_away | simp only [List.map_cons, List.map_nil] | simp only [Away.mk_iff]
    | (refine Away.pages hK ?_; decide) | (refine Away.pages hK ?_; simp; done) | split | intro _)

theorem execEntropyHealthFail_away {K : Nat → Prop} {M : Part → Prop} {base : State} (s : State) (hK : ∀ n ∈ [0x06, 0x40], ¬K n) (hk : Away K M base s) :
    ResAway K M base (execEntropyHealthFail s) := by
  unfold execEntropyHealthFail
  repeat' (first
    | with_reducible assumption | with_reducible apply State.begin_away | with_reducible apply State.setFld_away
    | with_reducible apply State.fenceBlock_away | with_reducible apply State.irq_away
    | with_reducible apply ResAway.next | simp only [Away.mk_iff] | (refine Away.pages hK ?_; decide)
    | (refine Away.pages hK ?_; simp; done) | split | intro _)

theorem State.anchorStart_away {K : Nat → Prop} {M : Part → Prop} {base : State} (s : State) (warm : Bool) (hK : ∀ n ∈ [0x40], ¬K n) (hk : Away K M base s) :
    Away K M base (State.anchorStart s warm) := by
  unfold State.anchorStart
  try dsimp only
  repeat' (first
    | with_reducible assumption | with_reducible apply State.setAnchor_away
    | with_reducible apply State.setFlds_away | with_reducible apply Away.flds
    | with_reducible apply State.setFld_away | simp only [List.map_cons, List.map_nil] | simp only [Away.mk_iff]
    | (refine Away.pages hK ?_; decide) | (refine Away.pages hK ?_; simp; done) | split | intro _)

theorem State.anchorTests_away {K : Nat → Prop} {M : Part → Prop} {base : State} (s : State) (entropy selftest header : Bool) (damaged : List Nat) (hK : ∀ n ∈ [0x06, 0x40], ¬K n) (hk : Away K M base s) :
    Away K M base (State.anchorTests s entropy selftest header damaged) := by
  unfold State.anchorTests
  try dsimp only
  repeat' (first
    | with_reducible assumption | with_reducible apply State.fenceBlock_away | with_reducible apply State.irq_away
    | with_reducible apply State.setKeySlot_away | with_reducible apply State.recordOpen_away
    | with_reducible apply Away.ite | with_reducible apply Away.foldl | with_reducible apply Away.foldlFst
    | with_reducible apply State.setFlds_away | with_reducible apply Away.flds
    | with_reducible apply State.setFld_away | simp only [List.map_cons, List.map_nil] | simp only [Away.mk_iff]
    | (refine Away.pages hK ?_; decide) | (refine Away.pages hK ?_; simp; done) | split | intro _)

theorem State.autoPush_away {K : Nat → Prop} {M : Part → Prop} {base : State} (s : State) (hK : ∀ n ∈ [0x3C, 0x40], ¬K n) (hk : Away K M base s) :
    Away K M base (State.autoPush s) := by
  unfold State.autoPush
  try dsimp only
  repeat' (first
    | with_reducible assumption | with_reducible apply State.pushSlot_away | with_reducible apply Away.ite
    | with_reducible apply Away.foldl | with_reducible apply Away.foldlFst | simp only [Away.mk_iff]
    | (refine Away.pages hK ?_; decide) | (refine Away.pages hK ?_; simp; done) | split | intro _)

theorem State.tamperDestroys_away {K : Nat → Prop} {M : Part → Prop} {base : State} (s : State) (hK : ∀ n ∈ [0x3C, 0x40], ¬K n) (hM : ∀ p ∈ [.mram], ¬M p) (hk : Away K M base s) :
    Away K M base (State.tamperDestroys s) := by
  unfold State.tamperDestroys
  try dsimp only
  repeat' (first
    | with_reducible assumption | with_reducible apply State.setAnchor_away
    | with_reducible apply State.destroyKey_away | with_reducible apply State.pushSlot_away
    | with_reducible apply Away.ite | with_reducible apply Away.foldl | with_reducible apply Away.foldlFst
    | with_reducible apply Away.four | simp only [Away.mk_iff] | (refine Away.pages hK ?_; decide)
    | (refine Away.pages hK ?_; simp; done) | (refine Away.parts hM ?_; decide) | split | intro _)

end Sys2Proof.Machine
end

