-- ==== Sys2Proof/Laws/AwayPipe.lean ====
section
/-! SUPPORT. What the operations of Machine/Pipe.lean stay away from (Laws/Away.lean). -/
set_option linter.all false
set_option Elab.async false

namespace Sys2Proof.Machine

theorem State.noteRecord_away {K : Nat → Prop} {M : Part → Prop} {base : State} (s : State) (i : Nat) (hK : ∀ n ∈ [0x06, 0x21], ¬K n) (hk : Away K M base s) :
    Away K M base (State.noteRecord s i) := by
  unfold State.noteRecord
  repeat' (first
    | with_reducible assumption | with_reducible apply State.inc_away | with_reducible apply State.irq_away
    | with_reducible apply State.fenceBlock_away | with_reducible apply State.setFlds_away
    | with_reducible apply Away.flds | with_reducible apply State.setFld_away
    | simp only [List.map_cons, List.map_nil] | simp only [Away.mk_iff] | (refine Away.pages hK ?_; decide)
    | (refine Away.pages hK ?_; simp; done) | split | intro _)

theorem State.noteEntry_away {K : Nat → Prop} {M : Part → Prop} {base : State} (s : State) (e : Rendered) (hK : ∀ n ∈ [0x06, 0x18, 0x20, 0x21, 0x24, 0x38], ¬K n) (hk : Away K M base s) :
    Away K M base (State.noteEntry s e) := by
  unfold State.noteEntry
  try dsimp only
  repeat' (first
    | with_reducible assumption | with_reducible apply State.readWords_away | with_reducible apply State.record_away
    | with_reducible apply State.noteRecord_away | with_reducible apply State.add_away
    | with_reducible apply State.inc_away | with_reducible apply State.irq_away | with_reducible apply Away.ite
    | with_reducible apply Away.foldl | with_reducible apply Away.foldlFst | simp only [Away.mk_iff]
    | (refine Away.pages hK ?_; decide) | (refine Away.pages hK ?_; simp; done) | split | intro _)

theorem State.stageLane_away {K : Nat → Prop} {M : Part → Prop} {base : State} (s : State) (areas : List Nat) (n : Nat) (strands : List (List Rendered)) (hK : ∀ n ∈ [0x06, 0x18, 0x19, 0x38], ¬K n) (hM : ∀ p ∈ [.store], ¬M p) (hk : Away K M base s) :
    Away K M base (State.stageLane s areas n strands) := by
  unfold State.stageLane
  try dsimp only
  repeat' (first
    | with_reducible assumption | with_reducible apply State.blockWrite_away | with_reducible apply Away.foldl
    | with_reducible apply Away.foldlFst | simp only [Away.mk_iff] | (refine Away.pages hK ?_; decide)
    | (refine Away.pages hK ?_; simp; done) | (refine Away.parts hM ?_; decide) | split | intro _)

theorem State.crcLane_away {K : Nat → Prop} {M : Part → Prop} {base : State} (s : State) (n lane : Nat) (strands : List (List Rendered)) (hK : ∀ n ∈ [0x28, 0x29, 0x2A, 0x2B], ¬K n) (hk : Away K M base s) :
    Away K M base (State.crcLane s n lane strands) := by
  unfold State.crcLane
  try dsimp only
  repeat' (first
    | with_reducible assumption | with_reducible apply State.setFld_away | with_reducible apply Away.four
    | simp only [Away.mk_iff] | (refine Away.pages hK ?_; decide) | (refine Away.str hK ?_ _; decide)
    | refine Away.cons (a := _) (l := _ :: _) ?_ ?_ | (refine Away.pages hK ?_; simp [R.STR_PAYLOAD_CRC_CRC]; done)
    | split | intro _)

theorem State.fenceBank_away {K : Nat → Prop} {M : Part → Prop} {base : State} (s : State) (b : Bank) (hK : ∀ n, ¬K n) (hk : Away K M base s) :
    Away K M base (State.fenceBank s b) := by
  unfold State.fenceBank
  try dsimp only
  repeat' (first
    | with_reducible assumption | with_reducible apply State.fenceBlock_away | with_reducible apply Away.ite
    | with_reducible apply Away.foldl | with_reducible apply Away.foldlFst | simp only [Away.mk_iff] | exact hK
    | exact fun _ _ => hK _ | split | intro _)

theorem State.startBurst_away {K : Nat → Prop} {M : Part → Prop} {base : State} (s : State) (c : FrameCase) (hK : ∀ n, ¬K n) (hM : ∀ p ∈ [.store], ¬M p) (hk : Away K M base s) :
    Away K M base (State.startBurst s c) := by
  unfold State.startBurst
  try dsimp only
  repeat' (first
    | with_reducible assumption | with_reducible apply State.fenceBank_away
    | with_reducible apply State.stageLane_away | with_reducible apply State.crcLane_away
    | with_reducible apply State.noteEntry_away | with_reducible apply State.record_away
    | with_reducible apply State.clearFlds_away | with_reducible apply State.setFld_away
    | with_reducible apply State.arbTraffic_away | with_reducible apply State.inc_away
    | with_reducible apply Away.ite | with_reducible apply Away.foldl | with_reducible apply Away.foldlFst
    | with_reducible apply Away.four | simp only [Away.mk_iff] | exact hK | exact fun _ _ => hK _
    | (refine Away.parts hM ?_; decide) | split | intro _)

theorem State.endBurst_away {K : Nat → Prop} {M : Part → Prop} {base : State} (s : State) (b : Burst) (ns : Nat) (hK : ∀ n ∈ [0x18, 0x20, 0x21], ¬K n) (hk : Away K M base s) :
    Away K M base (State.endBurst s b ns) := by
  unfold State.endBurst
  try dsimp only
  repeat' (first
    | with_reducible assumption | with_reducible apply State.drawn_away | with_reducible apply State.maxFld_away
    | with_reducible apply State.inc_away | with_reducible apply State.irq_away
    | with_reducible apply State.setFld_away | with_reducible apply State.makeRepeat_away
    | with_reducible apply Away.ite | with_reducible apply Away.foldl | with_reducible apply Away.foldlFst
    | with_reducible apply Away.four | with_reducible apply State.setFlds_away | with_reducible apply Away.flds
    | with_reducible apply State.setFld_away | simp only [List.map_cons, List.map_nil] | simp only [Away.mk_iff]
    | (refine Away.pages hK ?_; decide)
    | (refine Away.pages hK ?_; simp [R.PIPE_STATUS_BURST, R.PIPE_STATUS_SOURCE, R.PIPE_STATUS_GEN, R.PIPE_LAST_GAIN_G, R.PIPE_LAST_GAIN_GOV, R.PIPE_BURST_NS_NS, R.CAL_FALLBACK_N, R.PIPE_BURST_MAX_NS_NS, R.PIPE_CNT_FRAMES_N, R.PIPE_LANE_ENTRIES_E]; done)
    | split | intro _)

end Sys2Proof.Machine
end

