-- ==== Sys2Proof/Laws/AwayStrand.lean ====
section
/-! SUPPORT. What the operations of Machine/Strand.lean stay away from (Laws/Away.lean). -/
set_option linter.all false
set_option Elab.async false

namespace Sys2Proof.Machine

theorem State.setStrand_away {K : Nat → Prop} {M : Part → Prop} {base : State} (s : State) (k : Nat) (x : StrandS) (hk : Away K M base s) :
    Away K M base (State.setStrand s k x) := by
  unfold State.setStrand
  try dsimp only
  repeat' (first
    | with_reducible assumption | with_reducible apply Away.four | simp only [Away.mk_iff] | split | intro _)

theorem State.drivePort_away {K : Nat → Prop} {M : Part → Prop} {base : State} (s : State) (k : Nat) (on : Bool) (hK : ∀ n ∈ [0x2C], ¬K n) (hk : Away K M base s) :
    Away K M base (State.drivePort s k on) := by
  unfold State.drivePort
  try dsimp only
  repeat' (first
    | with_reducible assumption | with_reducible apply State.setFld_away | with_reducible apply Away.ite
    | with_reducible apply Away.four | simp only [Away.mk_iff] | (refine Away.pages hK ?_; decide)
    | (refine Away.pages hK ?_; simp; done) | split | intro _)

theorem State.slotDrive_away {K : Nat → Prop} {M : Part → Prop} {base : State} (s : State) (k n : Nat) (hK : ∀ n ∈ [0x2C], ¬K n) (hk : Away K M base s) :
    Away K M base (State.slotDrive s k n) := by
  unfold State.slotDrive
  try dsimp only
  repeat' (first
    | with_reducible assumption | with_reducible apply State.setStrand_away
    | with_reducible apply State.drivePort_away | with_reducible apply State.setFld_away
    | with_reducible apply State.inc_away | with_reducible apply State.irq_away | with_reducible apply Away.ite
    | with_reducible apply Away.four | simp only [Away.mk_iff] | (refine Away.pages hK ?_; decide)
    | (refine Away.pages hK ?_; simp; done) | split | intro _)

theorem execStrandSlotDrive_away {K : Nat → Prop} {M : Part → Prop} {base : State} (k n : Nat) (s : State) (hK : ∀ n ∈ [0x2C], ¬K n) (hk : Away K M base s) :
    ResAway K M base (execStrandSlotDrive k n s) := by
  unfold execStrandSlotDrive
  try dsimp only
  repeat' (first
    | with_reducible assumption | with_reducible apply State.begin_away | with_reducible apply State.atTime_away
    | with_reducible apply State.slotDrive_away | with_reducible apply ResAway.next | simp only [Away.mk_iff]
    | (refine Away.pages hK ?_; decide) | (refine Away.pages hK ?_; simp [R.PRESENT_SKEW_SKEW_NS]; done) | split
    | intro _)

theorem State.abortSlot_away {K : Nat → Prop} {M : Part → Prop} {base : State} (s : State) (k : Nat) (hK : ∀ n ∈ [0x2C], ¬K n) (hk : Away K M base s) :
    Away K M base (State.abortSlot s k) := by
  unfold State.abortSlot
  try dsimp only
  repeat' (first
    | with_reducible assumption | with_reducible apply State.setStrand_away | with_reducible apply State.irq_away
    | with_reducible apply Away.ite | with_reducible apply Away.four | simp only [Away.mk_iff]
    | (refine Away.pages hK ?_; decide) | (refine Away.pages hK ?_; simp; done) | split | intro _)

theorem State.beginFrame_away {K : Nat → Prop} {M : Part → Prop} {base : State} (s : State) (k : Nat) (packet : List Byte) (hk : Away K M base s) :
    Away K M base (State.beginFrame s k packet) := by
  unfold State.beginFrame
  try dsimp only
  repeat' (first
    | with_reducible assumption | with_reducible apply State.setStrand_away | with_reducible apply State.emit_away
    | with_reducible apply Away.four | simp only [Away.mk_iff] | split | intro _)

theorem State.frameSend_away {K : Nat → Prop} {M : Part → Prop} {base : State} (s : State) (k : Nat) (hK : ∀ n ∈ [0x06, 0x18, 0x19, 0x2C, 0x38], ¬K n) (hk : Away K M base s) :
    Away K M base (State.frameSend s k) := by
  unfold State.frameSend
  try dsimp only
  repeat' (first
    | with_reducible assumption | with_reducible apply State.abortSlot_away
    | with_reducible apply State.blockReads_away | with_reducible apply State.beginFrame_away
    | with_reducible apply Away.ite | simp only [Away.mk_iff] | (refine Away.pages hK ?_; decide)
    | (refine Away.pages hK ?_; simp [R.STR_FRAMEHDR_SCAN, R.STR_FRAMEHDR_PRE_LEVEL, R.STR_FRAMEHDR_PRE_TIME]; done)
    | split | intro _)

theorem execStrandFrameSend_away {K : Nat → Prop} {M : Part → Prop} {base : State} (k : Nat) (s : State) (hK : ∀ n ∈ [0x06, 0x18, 0x19, 0x2C, 0x38], ¬K n) (hk : Away K M base s) :
    ResAway K M base (execStrandFrameSend k s) := by
  unfold execStrandFrameSend
  repeat' (first
    | with_reducible assumption | with_reducible apply State.begin_away | with_reducible apply State.frameSend_away
    | with_reducible apply ResAway.next | simp only [Away.mk_iff] | (refine Away.pages hK ?_; decide)
    | (refine Away.pages hK ?_; simp; done) | split | intro _)

theorem State.logRing_away {K : Nat → Prop} {M : Part → Prop} {base : State} (s : State) (k n : Nat) (hK : ∀ n ∈ [0x06, 0x18, 0x19, 0x38], ¬K n) (hk : Away K M base s) :
    Away K M base (State.logRing s k n) := by
  unfold State.logRing
  try dsimp only
  repeat' (first
    | with_reducible assumption | with_reducible apply State.blockReads_away | with_reducible apply Away.ite
    | simp only [Away.mk_iff] | (refine Away.pages hK ?_; decide)
    | (refine Away.pages hK ?_; simp [R.STR_RING_EVERY, R.STR_RING_LEN, R.STR_RING_ADDR_ADDR]; done) | split
    | intro _)

theorem State.commandSend_away {K : Nat → Prop} {M : Part → Prop} {base : State} (s : State) (k : Nat) (hK : ∀ n ∈ [0x06, 0x18, 0x19, 0x2C, 0x38], ¬K n) (hk : Away K M base s) :
    Away K M base (State.commandSend s k) := by
  unfold State.commandSend
  try dsimp only
  repeat' (first
    | with_reducible assumption | with_reducible apply State.logRing_away
    | with_reducible apply State.setStrand_away | with_reducible apply State.emit_away
    | with_reducible apply State.drivePort_away | with_reducible apply Away.ite | with_reducible apply Away.four
    | simp only [Away.mk_iff] | (refine Away.pages hK ?_; decide) | (refine Away.pages hK ?_; simp; done) | split
    | intro _)

theorem execStrandCommandSend_away {K : Nat → Prop} {M : Part → Prop} {base : State} (k : Nat) (s : State) (hK : ∀ n ∈ [0x06, 0x18, 0x19, 0x2C, 0x38], ¬K n) (hk : Away K M base s) :
    ResAway K M base (execStrandCommandSend k s) := by
  unfold execStrandCommandSend
  repeat' (first
    | with_reducible assumption | with_reducible apply State.begin_away
    | with_reducible apply State.commandSend_away | with_reducible apply ResAway.next | simp only [Away.mk_iff]
    | (refine Away.pages hK ?_; decide) | (refine Away.pages hK ?_; simp; done) | split | intro _)

theorem State.refuseReturn_away {K : Nat → Prop} {M : Part → Prop} {base : State} (s : State) (k code pos : Nat) (hK : ∀ n ∈ [0x28, 0x29, 0x2A, 0x2B], ¬K n) (hk : Away K M base s) :
    Away K M base (State.refuseReturn s k code pos) := by
  unfold State.refuseReturn
  try dsimp only
  repeat' (first
    | with_reducible assumption | with_reducible apply State.setStrand_away | with_reducible apply State.irq_away
    | with_reducible apply Away.ite | with_reducible apply Away.four | simp only [Away.mk_iff]
    | (refine Away.pages hK ?_; decide) | (refine Away.str hK ?_ _; decide)
    | refine Away.cons (a := _) (l := _ :: _) ?_ ?_ | (refine Away.pages hK ?_; simp; done) | split | intro _)

theorem State.acceptReturn_away {K : Nat → Prop} {M : Part → Prop} {base : State} (s : State) (k : Nat) (r : StrandReport) (e : Ecc) (hK : ∀ n ∈ [0x06, 0x28, 0x29, 0x2A, 0x2B, 0x30, 0x31], ¬K n) (hk : Away K M base s) :
    Away K M base (State.acceptReturn s k r e) := by
  unfold State.acceptReturn
  try dsimp only
  repeat' (first
    | with_reducible assumption | with_reducible apply State.setStrand_away | with_reducible apply State.irq_away
    | with_reducible apply State.countReport_away | with_reducible apply State.telemItem_away
    | with_reducible apply Away.ite | with_reducible apply Away.four | simp only [Away.mk_iff]
    | (refine Away.pages hK ?_; decide) | (refine Away.str hK ?_ _; decide)
    | refine Away.cons (a := _) (l := _ :: _) ?_ ?_ | (refine Away.pages hK ?_; simp; done) | split | intro _)

theorem execReturnReportReceive_away {K : Nat → Prop} {M : Part → Prop} {base : State} (k : Nat) (r : StrandReport) (e : Ecc) (s : State) (hK : ∀ n ∈ [0x06, 0x28, 0x29, 0x2A, 0x2B, 0x30, 0x31], ¬K n) (hk : Away K M base s) :
    ResAway K M base (execReturnReportReceive k r e s) := by
  unfold execReturnReportReceive
  try dsimp only
  repeat' (first
    | with_reducible assumption | with_reducible apply State.begin_away | with_reducible apply State.setStrand_away
    | with_reducible apply State.refuseReturn_away | with_reducible apply State.acceptReturn_away
    | with_reducible apply Away.ite | with_reducible apply ResAway.ite | with_reducible apply ResAway.next
    | with_reducible apply Away.four | simp only [Away.mk_iff] | (refine Away.pages hK ?_; decide)
    | (refine Away.str hK ?_ _; decide) | refine Away.cons (a := _) (l := _ :: _) ?_ ?_
    | (refine Away.pages hK ?_; simp; done) | split | intro _)

theorem execReturnWindowClose_away {K : Nat → Prop} {M : Part → Prop} {base : State} (k : Nat) (s : State) (hK : ∀ n ∈ [0x28, 0x29, 0x2A, 0x2B, 0x2C], ¬K n) (hk : Away K M base s) :
    ResAway K M base (execReturnWindowClose k s) := by
  unfold execReturnWindowClose
  try dsimp only
  repeat' (first
    | with_reducible assumption | with_reducible apply State.begin_away | with_reducible apply State.setStrand_away
    | with_reducible apply State.refuseReturn_away | with_reducible apply State.drivePort_away
    | with_reducible apply Away.ite | with_reducible apply ResAway.ite | with_reducible apply ResAway.next
    | with_reducible apply Away.four | simp only [Away.mk_iff] | (refine Away.pages hK ?_; decide)
    | (refine Away.str hK ?_ _; decide) | refine Away.cons (a := _) (l := _ :: _) ?_ ?_
    | (refine Away.pages hK ?_; simp; done) | split | intro _)

theorem execIdleInsert_away {K : Nat → Prop} {M : Part → Prop} {base : State} (k : Nat) (s : State) (hk : Away K M base s) :
    ResAway K M base (execIdleInsert k s) := by
  unfold execIdleInsert
  try dsimp only
  repeat' (first
    | with_reducible assumption | with_reducible apply State.begin_away | with_reducible apply State.emit_away
    | with_reducible apply Away.ite | with_reducible apply ResAway.ite | with_reducible apply ResAway.next
    | simp only [Away.mk_iff] | split | intro _)

theorem State.presentSend_away {K : Nat → Prop} {M : Part → Prop} {base : State} (s : State) (k : Nat) (hK : ∀ n ∈ [0x2C], ¬K n) (hk : Away K M base s) :
    Away K M base (State.presentSend s k) := by
  unfold State.presentSend
  try dsimp only
  repeat' (first
    | with_reducible assumption | with_reducible apply State.setStrand_away
    | with_reducible apply State.setFrame_away | with_reducible apply State.emit_away
    | with_reducible apply State.inc_away | with_reducible apply Away.ite | with_reducible apply Away.four
    | simp only [Away.mk_iff] | (refine Away.pages hK ?_; decide)
    | (refine Away.pages hK ?_; simp [R.PRESENT_LAST_LO_N_LO, R.PRESENT_LAST_HI_N_HI, R.PRESENT_SKEW_LEAD, R.PRESENT_CNT_PRESENTED_N]; done)
    | split | intro _)

theorem execPresentSend_away {K : Nat → Prop} {M : Part → Prop} {base : State} (k : Nat) (s : State) (hK : ∀ n ∈ [0x2C], ¬K n) (hk : Away K M base s) :
    ResAway K M base (execPresentSend k s) := by
  unfold execPresentSend
  repeat' (first
    | with_reducible assumption | with_reducible apply State.begin_away
    | with_reducible apply State.presentSend_away | with_reducible apply ResAway.next | simp only [Away.mk_iff]
    | (refine Away.pages hK ?_; decide) | (refine Away.pages hK ?_; simp; done) | split | intro _)

theorem execStrandSlotRelease_away {K : Nat → Prop} {M : Part → Prop} {base : State} (k : Nat) (s : State) (hK : ∀ n ∈ [0x2C], ¬K n) (hk : Away K M base s) :
    ResAway K M base (execStrandSlotRelease k s) := by
  unfold execStrandSlotRelease
  try dsimp only
  repeat' (first
    | with_reducible assumption | with_reducible apply State.begin_away | with_reducible apply State.setStrand_away
    | with_reducible apply State.drivePort_away | with_reducible apply ResAway.next | with_reducible apply Away.four
    | simp only [Away.mk_iff] | (refine Away.pages hK ?_; decide) | (refine Away.pages hK ?_; simp; done) | split
    | intro _)

theorem execStrandAbort_away {K : Nat → Prop} {M : Part → Prop} {base : State} (k a : Nat) (s : State) (hK : ∀ n ∈ [0x06, 0x18, 0x2C, 0x38], ¬K n) (hM : ∀ p ∈ [.store], ¬M p) (hk : Away K M base s) :
    ResAway K M base (execStrandAbort k a s) := by
  unfold execStrandAbort
  try dsimp only
  repeat' (first
    | with_reducible assumption | with_reducible apply State.begin_away
    | with_reducible apply State.poisonStore_away | with_reducible apply State.logStoreUe_away
    | with_reducible apply State.abortSlot_away | with_reducible apply Away.ite | with_reducible apply ResAway.ite
    | with_reducible apply ResAway.next | simp only [Away.mk_iff] | (refine Away.pages hK ?_; decide)
    | (refine Away.pages hK ?_; simp; done) | (refine Away.parts hM ?_; decide) | split | intro _)

theorem State.fenceStrand_away {K : Nat → Prop} {M : Part → Prop} {base : State} (s : State) (k cause : Nat) (hK : ∀ n ∈ [0x06, 0x28, 0x29, 0x2A, 0x2B, 0x2C], ¬K n) (hk : Away K M base s) :
    Away K M base (State.fenceStrand s k cause) := by
  unfold State.fenceStrand
  try dsimp only
  repeat' (first
    | with_reducible assumption | with_reducible apply State.drivePort_away
    | with_reducible apply State.setStrand_away | with_reducible apply State.fence_away
    | with_reducible apply State.setBit_away | with_reducible apply State.irq_away | with_reducible apply Away.four
    | simp only [Away.mk_iff] | (refine Away.pages hK ?_; decide) | (refine Away.str hK ?_ _; decide)
    | refine Away.cons (a := _) (l := _ :: _) ?_ ?_ | (refine Away.pages hK ?_; simp [R.STR_STATUS_FENCED]; done)
    | split | intro _)

theorem execStrandContention_away {K : Nat → Prop} {M : Part → Prop} {base : State} (k : Nat) (s : State) (hK : ∀ n ∈ [0x06, 0x28, 0x29, 0x2A, 0x2B, 0x2C], ¬K n) (hk : Away K M base s) :
    ResAway K M base (execStrandContention k s) := by
  unfold execStrandContention
  try dsimp only
  repeat' (first
    | with_reducible assumption | with_reducible apply State.begin_away
    | with_reducible apply State.fenceStrand_away | with_reducible apply Away.ite | with_reducible apply ResAway.ite
    | with_reducible apply ResAway.next | simp only [Away.mk_iff] | (refine Away.pages hK ?_; decide)
    | (refine Away.str hK ?_ _; decide) | refine Away.cons (a := _) (l := _ :: _) ?_ ?_
    | (refine Away.pages hK ?_; simp; done) | split | intro _)

theorem execVioFault_away {K : Nat → Prop} {M : Part → Prop} {base : State} (g mv : Nat) (s : State) (hK : ∀ n ∈ [0x06, 0x28, 0x29, 0x2A, 0x2B, 0x2C], ¬K n) (hk : Away K M base s) :
    ResAway K M base (execVioFault g mv s) := by
  unfold execVioFault
  try dsimp only
  repeat' (first
    | with_reducible assumption | with_reducible apply State.begin_away
    | with_reducible apply State.fenceStrand_away | with_reducible apply Away.ite | with_reducible apply ResAway.ite
    | with_reducible apply ResAway.next | with_reducible apply Away.foldl | with_reducible apply Away.foldlFst
    | with_reducible apply Away.four | simp only [Away.mk_iff] | (refine Away.pages hK ?_; decide)
    | (refine Away.str hK ?_ _; decide) | refine Away.cons (a := _) (l := _ :: _) ?_ ?_
    | (refine Away.pages hK ?_; simp; done) | split | intro _)

theorem State.releaseGroup_away {K : Nat → Prop} {M : Part → Prop} {base : State} (s : State) (g : Nat) (hK : ∀ n ∈ [0x2C], ¬K n) (hk : Away K M base s) :
    Away K M base (State.releaseGroup s g) := by
  unfold State.releaseGroup
  try dsimp only
  repeat' (first
    | with_reducible assumption | with_reducible apply State.setStrand_away
    | with_reducible apply State.drivePort_away | with_reducible apply Away.foldl
    | with_reducible apply Away.foldlFst | with_reducible apply Away.four | simp only [Away.mk_iff]
    | (refine Away.pages hK ?_; decide) | (refine Away.pages hK ?_; simp; done) | split | intro _)

theorem State.releasePorts_away {K : Nat → Prop} {M : Part → Prop} {base : State} (s : State) (hK : ∀ n ∈ [0x2C], ¬K n) (hk : Away K M base s) :
    Away K M base (State.releasePorts s) := by
  unfold State.releasePorts
  repeat' (first
    | with_reducible assumption | with_reducible apply State.releaseGroup_away | with_reducible apply Away.foldl
    | with_reducible apply Away.foldlFst | simp only [Away.mk_iff] | (refine Away.pages hK ?_; decide)
    | (refine Away.pages hK ?_; simp; done) | split | intro _)

theorem State.strandsReleased_away {K : Nat → Prop} {M : Part → Prop} {base : State} (s : State) (g : Nat) (hK : ∀ n ∈ [0x28, 0x29, 0x2A, 0x2B], ¬K n) (hk : Away K M base s) :
    Away K M base (State.strandsReleased s g) := by
  unfold State.strandsReleased
  try dsimp only
  repeat' (first
    | with_reducible assumption | with_reducible apply State.setFld_away | with_reducible apply Away.foldl
    | with_reducible apply Away.foldlFst | simp only [Away.mk_iff] | (refine Away.pages hK ?_; decide)
    | (refine Away.str hK ?_ _; decide) | refine Away.cons (a := _) (l := _ :: _) ?_ ?_
    | (refine Away.pages hK ?_; simp [R.STR_STATUS_FENCED]; done) | split | intro _)

end Sys2Proof.Machine
end

