-- ==== Sys2Proof/Laws/AwayBelay.lean ====
section
/-! SUPPORT. What the operations of Machine/Belay.lean stay away from (Laws/Away.lean). -/
set_option linter.all false
set_option Elab.async false

namespace Sys2Proof.Machine

theorem State.sendBelay_away {K : Nat → Prop} {M : Part → Prop} {base : State} (s : State) (ty flags : Nat) (payload : List Byte) (hk : Away K M base s) :
    Away K M base (State.sendBelay s ty flags payload) := by
  unfold State.sendBelay
  try dsimp only
  repeat' (first
    | with_reducible assumption | with_reducible apply State.emit_away | with_reducible apply Away.ite
    | with_reducible apply Away.four | simp only [Away.mk_iff] | split | intro _)

theorem State.sendNak_away {K : Nat → Prop} {M : Part → Prop} {base : State} (s : State) (hk : Away K M base s) :
    Away K M base (State.sendNak s) := by
  unfold State.sendNak
  repeat' (first
    | with_reducible assumption | with_reducible apply State.sendBelay_away | simp only [Away.mk_iff] | split
    | intro _)

theorem State.dropBelay_away {K : Nat → Prop} {M : Part → Prop} {base : State} (s : State) (hK : ∀ n ∈ [0x38], ¬K n) (hk : Away K M base s) :
    Away K M base (State.dropBelay s) := by
  unfold State.dropBelay
  try dsimp only
  repeat' (first
    | with_reducible assumption | with_reducible apply State.inc_away | with_reducible apply State.sendNak_away
    | with_reducible apply Away.ite | simp only [Away.mk_iff] | (refine Away.pages hK ?_; decide)
    | (refine Away.pages hK ?_; simp; done) | split | intro _)

theorem State.abandonCopy_away {K : Nat → Prop} {M : Part → Prop} {base : State} (s : State) (hK : ∀ n ∈ [0x38], ¬K n) (hk : Away K M base s) :
    Away K M base (State.abandonCopy s) := by
  unfold State.abandonCopy
  try dsimp only
  repeat' (first
    | with_reducible assumption | with_reducible apply State.setFld_away | with_reducible apply Away.four
    | simp only [Away.mk_iff] | (refine Away.pages hK ?_; decide) | (refine Away.pages hK ?_; simp; done) | split
    | intro _)

theorem State.belayEcc_away {K : Nat → Prop} {M : Part → Prop} {base : State} (s : State) (hK : ∀ n ∈ [0x06, 0x38], ¬K n) (hk : Away K M base s) :
    Away K M base (State.belayEcc s) := by
  unfold State.belayEcc
  repeat' (first
    | with_reducible assumption | with_reducible apply State.fenceBlock_away
    | with_reducible apply State.abandonCopy_away | simp only [Away.mk_iff] | (refine Away.pages hK ?_; decide)
    | (refine Away.pages hK ?_; simp; done) | split | intro _)

theorem State.recvBelay_away {K : Nat → Prop} {M : Part → Prop} {base : State} (s : State) (p : BelayPkt) (lenOk : Bool) (k : State → State) (hK : ∀ n ∈ [0x06, 0x38], ¬K n) (hk : Away K M base s)
    (hk : ∀ (x0 : State), Away K M base x0 → Away K M base (k x0)) :
    Away K M base (State.recvBelay s p lenOk k) := by
  unfold State.recvBelay
  try dsimp only
  repeat' (first
    | with_reducible assumption | with_reducible apply hk | with_reducible apply State.belayEcc_away
    | with_reducible apply State.dropBelay_away | with_reducible apply State.sendNak_away
    | with_reducible apply Away.ite | with_reducible apply Away.four | simp only [Away.mk_iff]
    | (refine Away.pages hK ?_; decide) | (refine Away.pages hK ?_; simp; done) | split | intro _)

theorem State.showBelay_away {K : Nat → Prop} {M : Part → Prop} {base : State} (s : State) (hK : ∀ n ∈ [0x38], ¬K n) (hk : Away K M base s) :
    Away K M base (State.showBelay s) := by
  unfold State.showBelay
  repeat' (first
    | with_reducible assumption | with_reducible apply State.setFlds_away | with_reducible apply Away.flds
    | with_reducible apply State.setFld_away | simp only [List.map_cons, List.map_nil] | simp only [Away.mk_iff]
    | (refine Away.pages hK ?_; decide) | (refine Away.pages hK ?_; simp; done) | split | intro _)

theorem State.setSynced_away {K : Nat → Prop} {M : Part → Prop} {base : State} (s : State) (scree : Bool) (hK : ∀ n ∈ [0x38], ¬K n) (hk : Away K M base s) :
    Away K M base (State.setSynced s scree) := by
  unfold State.setSynced
  try dsimp only
  repeat' (first
    | with_reducible assumption | with_reducible apply Away.four | with_reducible apply State.setFlds_away
    | with_reducible apply Away.flds | with_reducible apply State.setFld_away
    | simp only [List.map_cons, List.map_nil] | simp only [Away.mk_iff] | (refine Away.pages hK ?_; decide)
    | (refine Away.pages hK ?_; simp; done) | split | intro _)

theorem State.changeLead_away {K : Nat → Prop} {M : Part → Prop} {base : State} (s : State) (n : Nat) (lead : Bool) (cause : Nat) (hK : ∀ n ∈ [0x38], ¬K n) (hk : Away K M base s) :
    Away K M base (State.changeLead s n lead cause) := by
  unfold State.changeLead
  try dsimp only
  repeat' (first
    | with_reducible assumption | with_reducible apply State.setFrame_away | with_reducible apply State.inc_away
    | with_reducible apply State.abandonCopy_away | with_reducible apply State.setSynced_away
    | with_reducible apply State.irq_away | with_reducible apply Away.ite | with_reducible apply Away.four
    | with_reducible apply State.setFlds_away | with_reducible apply Away.flds
    | with_reducible apply State.setFld_away | simp only [List.map_cons, List.map_nil] | simp only [Away.mk_iff]
    | (refine Away.pages hK ?_; decide) | (refine Away.pages hK ?_; simp; done) | split | intro _)

theorem execLeadClaim_away {K : Nat → Prop} {M : Part → Prop} {base : State} (n : Nat) (s : State) (hK : ∀ n ∈ [0x30, 0x38], ¬K n) (hk : Away K M base s) :
    ResAway K M base (execLeadClaim n s) := by
  unfold execLeadClaim
  try dsimp only
  repeat' (first
    | with_reducible assumption | with_reducible apply State.begin_away | with_reducible apply State.changeLead_away
    | with_reducible apply State.claimRails_away | with_reducible apply State.showRails_away
    | with_reducible apply Away.ite | with_reducible apply ResAway.ite | with_reducible apply ResAway.next
    | simp only [Away.mk_iff] | (refine Away.pages hK ?_; decide) | (refine Away.pages hK ?_; simp; done) | split
    | intro _)

theorem State.maybeYield_away {K : Nat → Prop} {M : Part → Prop} {base : State} (s : State) (n : Nat) (hk : Away K M base s) :
    Away K M base (State.maybeYield s n) := by
  unfold State.maybeYield
  try dsimp only
  repeat' (first
    | with_reducible assumption | with_reducible apply State.sendBelay_away | with_reducible apply Away.ite
    | with_reducible apply Away.four | simp only [Away.mk_iff] | split | intro _)

theorem execYieldReceive_away {K : Nat → Prop} {M : Part → Prop} {base : State} (p : BelayPkt) (s : State) (hK : ∀ n ∈ [0x06, 0x38], ¬K n) (hk : Away K M base s) :
    ResAway K M base (execYieldReceive p s) := by
  unfold execYieldReceive
  try dsimp only
  repeat' (first
    | with_reducible assumption | with_reducible apply State.begin_away | with_reducible apply State.recvBelay_away
    | with_reducible apply State.sendBelay_away | with_reducible apply Away.ite | with_reducible apply ResAway.ite
    | with_reducible apply ResAway.next | with_reducible apply Away.four | simp only [Away.mk_iff]
    | (refine Away.pages hK ?_; decide) | (refine Away.pages hK ?_; simp; done) | split | intro _)

theorem execAcceptReceive_away {K : Nat → Prop} {M : Part → Prop} {base : State} (p : BelayPkt) (s : State) (hK : ∀ n ∈ [0x06, 0x38], ¬K n) (hk : Away K M base s) :
    ResAway K M base (execAcceptReceive p s) := by
  unfold execAcceptReceive
  try dsimp only
  repeat' (first
    | with_reducible assumption | with_reducible apply State.begin_away | with_reducible apply State.recvBelay_away
    | with_reducible apply Away.ite | with_reducible apply ResAway.ite | with_reducible apply ResAway.next
    | with_reducible apply Away.four | simp only [Away.mk_iff] | (refine Away.pages hK ?_; decide)
    | (refine Away.pages hK ?_; simp; done) | split | intro _)

theorem execDeclineReceive_away {K : Nat → Prop} {M : Part → Prop} {base : State} (p : BelayPkt) (s : State) (hK : ∀ n ∈ [0x06, 0x38], ¬K n) (hk : Away K M base s) :
    ResAway K M base (execDeclineReceive p s) := by
  unfold execDeclineReceive
  try dsimp only
  repeat' (first
    | with_reducible assumption | with_reducible apply State.begin_away | with_reducible apply State.recvBelay_away
    | with_reducible apply ResAway.next | simp only [Away.mk_iff] | (refine Away.pages hK ?_; decide)
    | (refine Away.pages hK ?_; simp; done) | split | intro _)

theorem execHandoverAcceptDeadline_away {K : Nat → Prop} {M : Part → Prop} {base : State} (n : Nat) (s : State) (hK : ∀ n ∈ [0x38], ¬K n) (hk : Away K M base s) :
    ResAway K M base (execHandoverAcceptDeadline n s) := by
  unfold execHandoverAcceptDeadline
  try dsimp only
  repeat' (first
    | with_reducible assumption | with_reducible apply State.begin_away | with_reducible apply State.inc_away
    | with_reducible apply Away.ite | with_reducible apply ResAway.ite | with_reducible apply ResAway.next
    | with_reducible apply Away.four | simp only [Away.mk_iff] | (refine Away.pages hK ?_; decide)
    | (refine Away.pages hK ?_; simp; done) | split | intro _)

theorem execHandoverLeadRelease_away {K : Nat → Prop} {M : Part → Prop} {base : State} (n : Nat) (s : State) (hK : ∀ n ∈ [0x06, 0x30, 0x38], ¬K n) (hk : Away K M base s) :
    ResAway K M base (execHandoverLeadRelease n s) := by
  unfold execHandoverLeadRelease
  try dsimp only
  repeat' (first
    | with_reducible assumption | with_reducible apply State.begin_away | with_reducible apply State.changeLead_away
    | with_reducible apply State.record_away | with_reducible apply State.giveRails_away
    | with_reducible apply Away.ite | with_reducible apply ResAway.ite | with_reducible apply ResAway.next
    | with_reducible apply Away.four | simp only [Away.mk_iff] | (refine Away.pages hK ?_; decide)
    | (refine Away.pages hK ?_; simp; done) | split | intro _)

theorem execHandoverNewLeadSample_away {K : Nat → Prop} {M : Part → Prop} {base : State} (n : Nat) (high : Bool) (s : State) (hK : ∀ n ∈ [0x06, 0x30, 0x38], ¬K n) (hk : Away K M base s) :
    ResAway K M base (execHandoverNewLeadSample n high s) := by
  unfold execHandoverNewLeadSample
  try dsimp only
  repeat' (first
    | with_reducible assumption | with_reducible apply State.begin_away | with_reducible apply State.changeLead_away
    | with_reducible apply State.record_away | with_reducible apply State.takeRails_away
    | with_reducible apply State.showRails_away | with_reducible apply State.inc_away
    | with_reducible apply Away.ite | with_reducible apply ResAway.ite | with_reducible apply ResAway.next
    | with_reducible apply Away.four | simp only [Away.mk_iff] | (refine Away.pages hK ?_; decide)
    | (refine Away.pages hK ?_; simp; done) | split | intro _)

theorem State.skipCrc_away {K : Nat → Prop} {M : Part → Prop} {base : State} (s : State) (n : Nat) (hK : ∀ n ∈ [0x38], ¬K n) (hk : Away K M base s) :
    Away K M base (State.skipCrc s n) := by
  unfold State.skipCrc
  try dsimp only
  repeat' (first
    | with_reducible assumption | with_reducible apply State.inc_away | with_reducible apply Away.four
    | simp only [Away.mk_iff] | (refine Away.pages hK ?_; decide) | (refine Away.pages hK ?_; simp; done) | split
    | intro _)

theorem State.compareCrc_away {K : Nat → Prop} {M : Part → Prop} {base : State} (s : State) (n : Nat) (hK : ∀ n ∈ [0x06, 0x38], ¬K n) (hk : Away K M base s) :
    Away K M base (State.compareCrc s n) := by
  unfold State.compareCrc
  try dsimp only
  repeat' (first
    | with_reducible assumption | with_reducible apply State.skipCrc_away | with_reducible apply State.inc_away
    | with_reducible apply State.setFrame_away | with_reducible apply State.setFld_away
    | with_reducible apply State.event_away | with_reducible apply Away.ite | with_reducible apply Away.foldl
    | with_reducible apply Away.foldlFst | with_reducible apply Away.four | simp only [Away.mk_iff]
    | (refine Away.pages hK ?_; decide) | (refine Away.pages hK ?_; simp; done) | split | intro _)

theorem State.sendFrameCrc_away {K : Nat → Prop} {M : Part → Prop} {base : State} (s : State) (n : Nat) (hK : ∀ n ∈ [0x06, 0x38], ¬K n) (hk : Away K M base s) :
    Away K M base (State.sendFrameCrc s n) := by
  unfold State.sendFrameCrc
  try dsimp only
  repeat' (first
    | with_reducible assumption | with_reducible apply State.sendBelay_away
    | with_reducible apply State.compareCrc_away | with_reducible apply Away.ite | with_reducible apply Away.four
    | simp only [Away.mk_iff] | (refine Away.pages hK ?_; decide)
    | (refine Away.pages hK ?_; simp [R.COMMIT_LAST_CASE, R.STR_PAYLOAD_CRC_CRC, R.COMMIT_GEN_CUR_GEN, R.PIPE_STATUS_LANE_FENCED]; done)
    | split | intro _)

theorem execFrameCrcReceive_away {K : Nat → Prop} {M : Part → Prop} {base : State} (p : BelayPkt) (s : State) (hK : ∀ n ∈ [0x06, 0x38], ¬K n) (hk : Away K M base s) :
    ResAway K M base (execFrameCrcReceive p s) := by
  unfold execFrameCrcReceive
  try dsimp only
  repeat' (first
    | with_reducible assumption | with_reducible apply State.begin_away | with_reducible apply State.recvBelay_away
    | with_reducible apply State.compareCrc_away | with_reducible apply ResAway.next
    | with_reducible apply Away.four | simp only [Away.mk_iff] | (refine Away.pages hK ?_; decide)
    | (refine Away.pages hK ?_; simp; done) | split | intro _)

theorem execHeartSend_away {K : Nat → Prop} {M : Part → Prop} {base : State} (s : State) (hK : ∀ n ∈ [0x38], ¬K n) (hk : Away K M base s) :
    ResAway K M base (execHeartSend s) := by
  unfold execHeartSend
  try dsimp only
  repeat' (first
    | with_reducible assumption | with_reducible apply State.begin_away | with_reducible apply State.showBelay_away
    | with_reducible apply State.sendBelay_away | with_reducible apply Away.ite | with_reducible apply ResAway.ite
    | with_reducible apply ResAway.next | simp only [Away.mk_iff] | (refine Away.pages hK ?_; decide)
    | (refine Away.pages hK ?_; simp; done) | split | intro _)

theorem State.adoptRail_away {K : Nat → Prop} {M : Part → Prop} {base : State} (s : State) (b : List Byte) (r : Nat) (hK : ∀ n ∈ [0x30], ¬K n) (hk : Away K M base s) :
    Away K M base (State.adoptRail s b r) := by
  unfold State.adoptRail
  try dsimp only
  repeat' (first
    | with_reducible assumption | with_reducible apply State.setRail_away | with_reducible apply State.setBit_away
    | with_reducible apply State.irq_away | with_reducible apply State.showRail_away | with_reducible apply Away.ite
    | with_reducible apply Away.four | with_reducible apply State.setFlds_away | with_reducible apply Away.flds
    | with_reducible apply State.setFld_away | simp only [List.map_cons, List.map_nil] | simp only [Away.mk_iff]
    | (refine Away.pages hK ?_; decide)
    | (refine Away.pages hK ?_; simp [R.RAIL_OUT_TARGET, R.RAIL_OUT_OUTPUT, R.RAIL_STATUS_NODATA]; done) | split
    | intro _)

theorem execHeartReceive_away {K : Nat → Prop} {M : Part → Prop} {base : State} (p : BelayPkt) (rx : Nat) (s : State) (hK : ∀ n ∈ [0x06, 0x30, 0x38], ¬K n) (hk : Away K M base s) :
    ResAway K M base (execHeartReceive p rx s) := by
  unfold execHeartReceive
  try dsimp only
  repeat' (first
    | with_reducible assumption | with_reducible apply State.begin_away | with_reducible apply State.recvBelay_away
    | with_reducible apply State.setFld_away | with_reducible apply State.irq_away
    | with_reducible apply State.adoptRail_away | with_reducible apply State.abandonCopy_away
    | with_reducible apply State.showBelay_away | with_reducible apply Away.ite | with_reducible apply ResAway.ite
    | with_reducible apply ResAway.next | with_reducible apply Away.foldl | with_reducible apply Away.foldlFst
    | with_reducible apply Away.four | with_reducible apply State.setFlds_away | with_reducible apply Away.flds
    | with_reducible apply State.setFld_away | simp only [List.map_cons, List.map_nil] | simp only [Away.mk_iff]
    | (refine Away.pages hK ?_; decide) | (refine Away.pages hK ?_; simp; done) | split | intro _)

theorem execBelayPacketError_away {K : Nat → Prop} {M : Part → Prop} {base : State} (s : State) (hK : ∀ n ∈ [0x38], ¬K n) (hk : Away K M base s) :
    ResAway K M base (execBelayPacketError s) := by
  unfold execBelayPacketError
  try dsimp only
  repeat' (first
    | with_reducible assumption | with_reducible apply State.begin_away | with_reducible apply State.dropBelay_away
    | with_reducible apply Away.ite | with_reducible apply ResAway.ite | with_reducible apply ResAway.next
    | simp only [Away.mk_iff] | (refine Away.pages hK ?_; decide) | (refine Away.pages hK ?_; simp; done) | split
    | intro _)

theorem execBelayLinkUp_away {K : Nat → Prop} {M : Part → Prop} {base : State} (s : State) (hK : ∀ n ∈ [0x38], ¬K n) (hk : Away K M base s) :
    ResAway K M base (execBelayLinkUp s) := by
  unfold execBelayLinkUp
  try dsimp only
  repeat' (first
    | with_reducible assumption | with_reducible apply State.begin_away | with_reducible apply State.setFld_away
    | with_reducible apply State.irq_away | with_reducible apply Away.ite | with_reducible apply ResAway.ite
    | with_reducible apply ResAway.next | with_reducible apply Away.four | simp only [Away.mk_iff]
    | (refine Away.pages hK ?_; decide) | (refine Away.pages hK ?_; simp; done) | split | intro _)

theorem execBelayLinkDown_away {K : Nat → Prop} {M : Part → Prop} {base : State} (s : State) (hK : ∀ n ∈ [0x38], ¬K n) (hk : Away K M base s) :
    ResAway K M base (execBelayLinkDown s) := by
  unfold execBelayLinkDown
  try dsimp only
  repeat' (first
    | with_reducible assumption | with_reducible apply State.begin_away | with_reducible apply State.setFld_away
    | with_reducible apply State.inc_away | with_reducible apply State.abandonCopy_away
    | with_reducible apply State.irq_away | with_reducible apply State.showBelay_away
    | with_reducible apply Away.ite | with_reducible apply ResAway.ite | with_reducible apply ResAway.next
    | simp only [Away.mk_iff] | (refine Away.pages hK ?_; decide) | (refine Away.pages hK ?_; simp; done) | split
    | intro _)

theorem execPartnerLost_away {K : Nat → Prop} {M : Part → Prop} {base : State} (s : State) (hK : ∀ n ∈ [0x38], ¬K n) (hk : Away K M base s) :
    ResAway K M base (execPartnerLost s) := by
  unfold execPartnerLost
  try dsimp only
  repeat' (first
    | with_reducible assumption | with_reducible apply State.begin_away | with_reducible apply State.setFld_away
    | with_reducible apply State.irq_away | with_reducible apply Away.ite | with_reducible apply ResAway.ite
    | with_reducible apply ResAway.next | simp only [Away.mk_iff] | (refine Away.pages hK ?_; decide)
    | (refine Away.pages hK ?_; simp; done) | split | intro _)

theorem State.clearSynced_away {K : Nat → Prop} {M : Part → Prop} {base : State} (s : State) (hK : ∀ n ∈ [0x38], ¬K n) (hk : Away K M base s) :
    Away K M base (State.clearSynced s) := by
  unfold State.clearSynced
  try dsimp only
  repeat' (first
    | with_reducible assumption | with_reducible apply Away.four | with_reducible apply State.setFlds_away
    | with_reducible apply Away.flds | with_reducible apply State.setFld_away
    | simp only [List.map_cons, List.map_nil] | simp only [Away.mk_iff] | (refine Away.pages hK ?_; decide)
    | (refine Away.pages hK ?_; simp; done) | split | intro _)

theorem execResyncStart_away {K : Nat → Prop} {M : Part → Prop} {base : State} (s : State) (hK : ∀ n ∈ [0x38], ¬K n) (hk : Away K M base s) :
    ResAway K M base (execResyncStart s) := by
  unfold execResyncStart
  try dsimp only
  repeat' (first
    | with_reducible assumption | with_reducible apply State.begin_away
    | with_reducible apply State.clearSynced_away | with_reducible apply State.sendBelay_away
    | with_reducible apply Away.ite | with_reducible apply ResAway.ite | with_reducible apply ResAway.next
    | with_reducible apply Away.four | with_reducible apply State.setFlds_away | with_reducible apply Away.flds
    | with_reducible apply State.setFld_away | simp only [List.map_cons, List.map_nil] | simp only [Away.mk_iff]
    | (refine Away.pages hK ?_; decide) | (refine Away.pages hK ?_; simp; done) | split | intro _)

theorem execResyncReqReceive_away {K : Nat → Prop} {M : Part → Prop} {base : State} (p : BelayPkt) (s : State) (hK : ∀ n ∈ [0x06, 0x38], ¬K n) (hk : Away K M base s) :
    ResAway K M base (execResyncReqReceive p s) := by
  unfold execResyncReqReceive
  try dsimp only
  repeat' (first
    | with_reducible assumption | with_reducible apply State.begin_away | with_reducible apply State.recvBelay_away
    | with_reducible apply State.setFld_away | with_reducible apply Away.ite | with_reducible apply ResAway.ite
    | with_reducible apply ResAway.next | with_reducible apply Away.four | simp only [Away.mk_iff]
    | (refine Away.pages hK ?_; decide) | (refine Away.pages hK ?_; simp; done) | split | intro _)

theorem State.dataSend_away {K : Nat → Prop} {M : Part → Prop} {base : State} (s : State) (hK : ∀ n ∈ [0x06, 0x18, 0x19, 0x38], ¬K n) (hk : Away K M base s) :
    Away K M base (State.dataSend s) := by
  unfold State.dataSend
  try dsimp only
  repeat' (first
    | with_reducible assumption | with_reducible apply State.blockReads_away
    | with_reducible apply State.sendBelay_away | with_reducible apply State.setFld_away
    | with_reducible apply State.fresh_away | with_reducible apply Away.ite | with_reducible apply Away.four
    | simp only [Away.mk_iff] | (refine Away.pages hK ?_; decide) | (refine Away.pages hK ?_; simp; done) | split
    | intro _)

theorem execResyncDataSend_away {K : Nat → Prop} {M : Part → Prop} {base : State} (s : State) (hK : ∀ n ∈ [0x06, 0x18, 0x19, 0x38], ¬K n) (hk : Away K M base s) :
    ResAway K M base (execResyncDataSend s) := by
  unfold execResyncDataSend
  try dsimp only
  repeat' (first
    | with_reducible assumption | with_reducible apply State.begin_away | with_reducible apply State.dataSend_away
    | with_reducible apply Away.ite | with_reducible apply ResAway.ite | with_reducible apply ResAway.next
    | simp only [Away.mk_iff] | (refine Away.pages hK ?_; decide) | (refine Away.pages hK ?_; simp; done) | split
    | intro _)

theorem State.sendInstall_away {K : Nat → Prop} {M : Part → Prop} {base : State} (s : State) (n : Nat) (held : Option Commit) (hK : ∀ n ∈ [0x10, 0x11, 0x13, 0x38, 0x39], ¬K n) (hk : Away K M base s) :
    Away K M base (State.sendInstall s n held) := by
  unfold State.sendInstall
  try dsimp only
  repeat' (first
    | with_reducible assumption | with_reducible apply State.withdraw_away
    | with_reducible apply State.sendBelay_away | with_reducible apply Away.ite | with_reducible apply Away.four
    | simp only [Away.mk_iff] | (refine Away.pages hK ?_; decide) | (refine Away.net hK ?_ _; decide)
    | (refine Away.port hK ?_ _; decide) | refine Away.cons (a := _) (l := _ :: _) ?_ ?_
    | (refine Away.pages hK ?_; simp; done) | split | intro _)

theorem State.resend_away {K : Nat → Prop} {M : Part → Prop} {base : State} (s : State) (a : Nat) (hK : ∀ n ∈ [0x38], ¬K n) (hk : Away K M base s) :
    Away K M base (State.resend s a) := by
  unfold State.resend
  try dsimp only
  repeat' (first
    | with_reducible assumption | with_reducible apply State.setFld_away | with_reducible apply Away.ite
    | with_reducible apply Away.four | simp only [Away.mk_iff] | (refine Away.pages hK ?_; decide)
    | (refine Away.pages hK ?_; simp; done) | split | intro _)

theorem execResyncNakReceive_away {K : Nat → Prop} {M : Part → Prop} {base : State} (p : BelayPkt) (s : State) (hK : ∀ n ∈ [0x06, 0x38], ¬K n) (hk : Away K M base s) :
    ResAway K M base (execResyncNakReceive p s) := by
  unfold execResyncNakReceive
  try dsimp only
  repeat' (first
    | with_reducible assumption | with_reducible apply State.begin_away | with_reducible apply State.recvBelay_away
    | with_reducible apply State.resend_away | with_reducible apply Away.ite | with_reducible apply ResAway.ite
    | with_reducible apply ResAway.next | simp only [Away.mk_iff] | (refine Away.pages hK ?_; decide)
    | (refine Away.pages hK ?_; simp; done) | split | intro _)

theorem State.takeData_away {K : Nat → Prop} {M : Part → Prop} {base : State} (t : State) (a : Nat) (data : List Byte) (scree : Bool) (hK : ∀ n ∈ [0x06, 0x18, 0x19, 0x38], ¬K n) (hM : ∀ p ∈ [.store], ¬M p) (hk : Away K M base t) :
    Away K M base (State.takeData t a data scree) := by
  unfold State.takeData
  try dsimp only
  repeat' (first
    | with_reducible assumption | with_reducible apply State.blockWrite_away
    | with_reducible apply State.setFld_away | with_reducible apply State.irq_away | with_reducible apply Away.ite
    | with_reducible apply Away.four | with_reducible apply State.setFlds_away | with_reducible apply Away.flds
    | with_reducible apply State.setFld_away | simp only [List.map_cons, List.map_nil] | simp only [Away.mk_iff]
    | (refine Away.pages hK ?_; decide) | (refine Away.pages hK ?_; simp; done) | (refine Away.parts hM ?_; decide)
    | split | intro _)

theorem execResyncDataReceive_away {K : Nat → Prop} {M : Part → Prop} {base : State} (p : BelayPkt) (s : State) (hK : ∀ n ∈ [0x06, 0x18, 0x19, 0x38], ¬K n) (hM : ∀ p ∈ [.store], ¬M p) (hk : Away K M base s) :
    ResAway K M base (execResyncDataReceive p s) := by
  unfold execResyncDataReceive
  try dsimp only
  repeat' (first
    | with_reducible assumption | with_reducible apply State.begin_away | with_reducible apply State.recvBelay_away
    | with_reducible apply State.takeData_away | with_reducible apply Away.ite | with_reducible apply ResAway.ite
    | with_reducible apply ResAway.next | simp only [Away.mk_iff] | (refine Away.pages hK ?_; decide)
    | (refine Away.pages hK ?_; simp; done) | (refine Away.parts hM ?_; decide) | split | intro _)

theorem execResyncInstallReceive_away {K : Nat → Prop} {M : Part → Prop} {base : State} (p : BelayPkt) (s : State) (hK : ∀ n ∈ [0x06, 0x38], ¬K n) (hk : Away K M base s) :
    ResAway K M base (execResyncInstallReceive p s) := by
  unfold execResyncInstallReceive
  try dsimp only
  repeat' (first
    | with_reducible assumption | with_reducible apply State.begin_away | with_reducible apply State.recvBelay_away
    | with_reducible apply Away.ite | with_reducible apply ResAway.ite | with_reducible apply ResAway.next
    | with_reducible apply Away.four | simp only [Away.mk_iff] | (refine Away.pages hK ?_; decide)
    | (refine Away.pages hK ?_; simp; done) | split | intro _)

theorem State.installSlots_away {K : Nat → Prop} {M : Part → Prop} {base : State} (s : State) (x : Install) (hK : ∀ n ∈ [0x13, 0x38], ¬K n) (hk : Away K M base s) :
    Away K M base (State.installSlots s x) := by
  unfold State.installSlots
  try dsimp only
  repeat' (first
    | with_reducible assumption | with_reducible apply State.setSlot_away
    | with_reducible apply State.setSynced_away | with_reducible apply State.setFld_away
    | with_reducible apply State.inc_away | with_reducible apply State.irq_away | with_reducible apply Away.ite
    | with_reducible apply Away.foldl | with_reducible apply Away.foldlFst | with_reducible apply Away.four
    | with_reducible apply State.setFlds_away | with_reducible apply Away.flds
    | with_reducible apply State.setFld_away | simp only [List.map_cons, List.map_nil] | simp only [Away.mk_iff]
    | (refine Away.pages hK ?_; decide)
    | (refine Away.pages hK ?_; simp [R.COMMIT_SLOT_STATE, R.COMMIT_SLOT_GEN, R.BELAY_RESYNC_MS_MS, R.BELAY_CNT_RESYNC_N]; done)
    | split | intro _)

theorem State.belayBoundary_away {K : Nat → Prop} {M : Part → Prop} {base : State} (s : State) (hK : ∀ n ∈ [0x38], ¬K n) (hk : Away K M base s) :
    Away K M base (State.belayBoundary s) := by
  unfold State.belayBoundary
  try dsimp only
  repeat' (first
    | with_reducible assumption | with_reducible apply State.clearSynced_away
    | with_reducible apply State.setSynced_away | with_reducible apply Away.ite | with_reducible apply Away.four
    | simp only [Away.mk_iff] | (refine Away.pages hK ?_; decide) | (refine Away.pages hK ?_; simp; done) | split
    | intro _)

theorem State.noteDue_away {K : Nat → Prop} {M : Part → Prop} {base : State} (s : State) (n : Nat) (held : Option Commit) (hk : Away K M base s) :
    Away K M base (State.noteDue s n held) := by
  unfold State.noteDue
  try dsimp only
  repeat' (first
    | with_reducible assumption | with_reducible apply Away.ite | with_reducible apply Away.four
    | simp only [Away.mk_iff] | split | intro _)

theorem State.abortsSeen_away {K : Nat → Prop} {M : Part → Prop} {base : State} (s : State) (hk : Away K M base s) :
    Away K M base (State.abortsSeen s) := by
  unfold State.abortsSeen
  try dsimp only
  repeat' (first
    | with_reducible assumption | with_reducible apply Away.four | simp only [Away.mk_iff] | split | intro _)

theorem State.belayDue_away {K : Nat → Prop} {M : Part → Prop} {base : State} (s : State) (n : Nat) (held : Option Commit) (hK : ∀ n ∈ [0x10, 0x11, 0x13, 0x38, 0x39], ¬K n) (hk : Away K M base s) :
    Away K M base (State.belayDue s n held) := by
  unfold State.belayDue
  repeat' (first
    | with_reducible assumption | with_reducible apply State.noteDue_away
    | with_reducible apply State.showBelay_away | with_reducible apply State.maybeYield_away
    | with_reducible apply State.sendInstall_away | with_reducible apply State.abortsSeen_away
    | simp only [Away.mk_iff] | (refine Away.pages hK ?_; decide) | (refine Away.net hK ?_ _; decide)
    | (refine Away.port hK ?_ _; decide) | refine Away.cons (a := _) (l := _ :: _) ?_ ?_
    | (refine Away.pages hK ?_; simp; done) | split | intro _)

end Sys2Proof.Machine
end

