-- ==== Sys2Proof/Laws/AwaySched.lean ====
section
/-! SUPPORT. What the operations of Machine/Sched.lean stay away from (Laws/Away.lean). -/
set_option linter.all false
set_option Elab.async false

namespace Sys2Proof.Machine

theorem State.setHart_away {K : Nat → Prop} {M : Part → Prop} {base : State} (s : State) (h : Nat) (x : HartS) (hk : Away K M base s) :
    Away K M base (State.setHart s h x) := by
  unfold State.setHart
  try dsimp only
  repeat' (first
    | with_reducible assumption | with_reducible apply Away.four | simp only [Away.mk_iff] | split | intro _)

theorem execIrqClaim_away {K : Nat → Prop} {M : Part → Prop} {base : State} (m : Master) (s : State) (hk : Away K M base s) :
    ResAway K M base (execIrqClaim m s) := by
  unfold execIrqClaim
  try dsimp only
  repeat' (first
    | with_reducible assumption | with_reducible apply State.begin_away | with_reducible apply State.emit_away
    | with_reducible apply State.drawn_away | with_reducible apply Away.ite | with_reducible apply ResAway.ite
    | with_reducible apply ResAway.next | with_reducible apply ResAway.refused | with_reducible apply Away.four
    | simp only [Away.mk_iff] | split | intro _)

theorem execIrqComplete_away {K : Nat → Prop} {M : Part → Prop} {base : State} (m : Master) (v : Word) (s : State) (hK : ∀ n ∈ [0x09], ¬K n) (hk : Away K M base s) :
    ResAway K M base (execIrqComplete m v s) := by
  unfold execIrqComplete
  try dsimp only
  repeat' (first
    | with_reducible assumption | with_reducible apply State.begin_away | with_reducible apply State.asWrite_away
    | with_reducible apply ResAway.next | with_reducible apply Away.four | simp only [Away.mk_iff]
    | (refine Away.pages hK ?_; decide) | (refine Away.pages hK ?_; simp; done) | split | intro _)

theorem execMtimerExpiry_away {K : Nat → Prop} {M : Part → Prop} {base : State} (h : Nat) (s : State) (hk : Away K M base s) :
    ResAway K M base (execMtimerExpiry h s) := by
  unfold execMtimerExpiry
  try dsimp only
  repeat' (first
    | with_reducible assumption | with_reducible apply State.begin_away | with_reducible apply ResAway.next
    | with_reducible apply Away.four | simp only [Away.mk_iff] | split | intro _)

theorem State.showTrace_away {K : Nat → Prop} {M : Part → Prop} {base : State} (s : State) (hK : ∀ n ∈ [0x08], ¬K n) (hk : Away K M base s) :
    Away K M base (State.showTrace s) := by
  unfold State.showTrace
  repeat' (first
    | with_reducible assumption | with_reducible apply State.setFld_away | simp only [Away.mk_iff]
    | (refine Away.pages hK ?_; decide) | (refine Away.pages hK ?_; simp; done) | split | intro _)

theorem State.traceItem_away {K : Nat → Prop} {M : Part → Prop} {base : State} (s : State) (event hart queue eff tag seq : Nat) (hK : ∀ n ∈ [0x06, 0x08], ¬K n) (hk : Away K M base s) :
    Away K M base (State.traceItem s event hart queue eff tag seq) := by
  unfold State.traceItem
  try dsimp only
  repeat' (first
    | with_reducible assumption | with_reducible apply State.event_away | with_reducible apply State.showTrace_away
    | with_reducible apply State.satInc_away | with_reducible apply State.irq_away | with_reducible apply Away.ite
    | with_reducible apply Away.four | simp only [Away.mk_iff] | (refine Away.pages hK ?_; decide)
    | (refine Away.pages hK ?_; simp [R.SCHED_TRACE_WATCH_EN, R.SCHED_TRACE_WATCH_QUEUE, R.SCHED_TRACE_CTRL_RUN, R.SCHED_TRACE_CTRL_WRAP, R.SCHED_TRACE_STAT_LOST]; done)
    | split | intro _)

theorem State.traceOf_away {K : Nat → Prop} {M : Part → Prop} {base : State} (s : State) (event hart : Nat) (i : SchedItem) (hK : ∀ n ∈ [0x06, 0x08], ¬K n) (hk : Away K M base s) :
    Away K M base (State.traceOf s event hart i) := by
  unfold State.traceOf
  repeat' (first
    | with_reducible assumption | with_reducible apply State.traceItem_away | with_reducible apply State.event_away
    | simp only [Away.mk_iff] | (refine Away.pages hK ?_; decide) | (refine Away.pages hK ?_; simp; done) | split
    | intro _)

theorem State.showQueue_away {K : Nat → Prop} {M : Part → Prop} {base : State} (s : State) (q : Nat) (hK : ∀ n ∈ [0x08], ¬K n) (hk : Away K M base s) :
    Away K M base (State.showQueue s q) := by
  unfold State.showQueue
  try dsimp only
  repeat' (first
    | with_reducible assumption | with_reducible apply State.maxFld_away | with_reducible apply State.setFlds_away
    | with_reducible apply Away.flds | with_reducible apply State.setFld_away
    | simp only [List.map_cons, List.map_nil] | simp only [Away.mk_iff] | (refine Away.pages hK ?_; decide)
    | (refine Away.pages hK ?_; simp [R.SCHED_STATUS_ITEMS, R.SCHED_STATUS_FREE, R.SCHED_Q_DEPTH_DEPTH, R.SCHED_Q_DEPTH_MAX]; done)
    | split | intro _)

theorem State.pushItem_away {K : Nat → Prop} {M : Part → Prop} {base : State} (s : State) (h : Nat) (ws : List Nat) (hK : ∀ n ∈ [0x06, 0x08], ¬K n) (hk : Away K M base s) :
    Away K M base (State.pushItem s h ws).1 := by
  unfold State.pushItem
  try dsimp only
  repeat' (first
    | with_reducible assumption | with_reducible apply State.showQueue_away
    | with_reducible apply State.traceOf_away | with_reducible apply State.inc_away
    | with_reducible apply State.irq_away | with_reducible apply State.traceItem_away
    | with_reducible apply State.drawn_away | with_reducible apply Away.ite | with_reducible apply Away.four
    | simp only [Away.mk_iff] | (refine Away.pages hK ?_; decide) | (refine Away.pages hK ?_; simp; done) | split
    | intro _)

theorem execSchedPush_away {K : Nat → Prop} {M : Part → Prop} {base : State} (m : Master) (v : Word) (s : State) (hK : ∀ n ∈ [0x06, 0x08], ¬K n) (hk : Away K M base s) :
    ResAway K M base (execSchedPush m v s) := by
  unfold execSchedPush
  try dsimp only
  repeat' (first
    | with_reducible assumption | with_reducible apply State.begin_away | with_reducible apply State.asWrite_away
    | with_reducible apply State.pushItem_away | with_reducible apply State.setHart_away
    | with_reducible apply Away.ite | with_reducible apply ResAway.ite | with_reducible apply ResAway.next
    | with_reducible apply ResAway.fault | with_reducible apply Away.four | simp only [Away.mk_iff]
    | (refine Away.pages hK ?_; decide) | (refine Away.pages hK ?_; simp; done) | split | intro _)

theorem State.postLine_away {K : Nat → Prop} {M : Part → Prop} {base : State} (s : State) (line : Nat) (first : Bool) (e : Ecc) (hK : ∀ n ∈ [0x00, 0x06, 0x08, 0x09], ¬K n) (hM : ∀ p ∈ [.sram], ¬M p) (hk : Away K M base s) :
    ResAway K M base (State.postLine s line first e) := by
  unfold State.postLine
  try dsimp only
  repeat' (first
    | with_reducible assumption | with_reducible apply State.inc_away | with_reducible apply State.irq_away
    | with_reducible apply State.pushItem_away | with_reducible apply Away.ite | with_reducible apply ResAway.ite
    | with_reducible apply ResAway.next | with_reducible apply ResAway.fault | with_reducible apply Away.four
    | with_reducible apply Away.fourMem | simp only [Away.mk_iff]
    | (intro (p : Part) hp; cases p <;> first | exact absurd hp (hM _ (by decide)) | (simp only [Mems.part, State.drawn_mem]; done))
    | (refine Away.pages hK ?_; decide) | (refine Away.pages hK ?_; simp; done) | (refine Away.parts hM ?_; decide)
    | split | intro _)

theorem execIrqPost_away {K : Nat → Prop} {M : Part → Prop} {base : State} (line : Nat) (e : Ecc) (s : State) (hK : ∀ n ∈ [0x00, 0x06, 0x08, 0x09], ¬K n) (hM : ∀ p ∈ [.sram], ¬M p) (hk : Away K M base s) :
    ResAway K M base (execIrqPost line e s) := by
  unfold execIrqPost
  try dsimp only
  repeat' (first
    | with_reducible assumption | with_reducible apply State.begin_away | with_reducible apply State.postLine_away
    | with_reducible apply Away.ite | with_reducible apply ResAway.ite | with_reducible apply ResAway.next
    | simp only [Away.mk_iff] | (refine Away.pages hK ?_; decide) | (refine Away.pages hK ?_; simp; done)
    | (refine Away.parts hM ?_; decide) | split | intro _)

theorem execIrqPostRetry_away {K : Nat → Prop} {M : Part → Prop} {base : State} (line : Nat) (e : Ecc) (s : State) (hK : ∀ n ∈ [0x00, 0x06, 0x08, 0x09], ¬K n) (hM : ∀ p ∈ [.sram], ¬M p) (hk : Away K M base s) :
    ResAway K M base (execIrqPostRetry line e s) := by
  unfold execIrqPostRetry
  try dsimp only
  repeat' (first
    | with_reducible assumption | with_reducible apply State.begin_away | with_reducible apply State.postLine_away
    | with_reducible apply Away.ite | with_reducible apply ResAway.ite | with_reducible apply ResAway.next
    | simp only [Away.mk_iff] | (refine Away.pages hK ?_; decide) | (refine Away.pages hK ?_; simp; done)
    | (refine Away.parts hM ?_; decide) | split | intro _)

theorem State.unqueue_away {K : Nat → Prop} {M : Part → Prop} {base : State} (s : State) (i : SchedItem) (hk : Away K M base s) :
    Away K M base (State.unqueue s i) := by
  unfold State.unqueue
  try dsimp only
  repeat' (first
    | with_reducible assumption | with_reducible apply Away.four | simp only [Away.mk_iff] | split | intro _)

theorem State.showSlots_away {K : Nat → Prop} {M : Part → Prop} {base : State} (s : State) (h : Nat) (hK : ∀ n ∈ [0x08], ¬K n) (hk : Away K M base s) :
    Away K M base (State.showSlots s h) := by
  unfold State.showSlots
  repeat' (first
    | with_reducible assumption | with_reducible apply State.setFld_away | simp only [Away.mk_iff]
    | (refine Away.pages hK ?_; decide) | (refine Away.pages hK ?_; simp [R.SCHED_CORE_SLOT_USED]; done) | split
    | intro _)

theorem State.fillSlot_away {K : Nat → Prop} {M : Part → Prop} {base : State} (s : State) (h : Nat) (hK : ∀ n ∈ [0x06, 0x08], ¬K n) (hk : Away K M base s) :
    Away K M base (State.fillSlot s h) := by
  unfold State.fillSlot
  try dsimp only
  repeat' (first
    | with_reducible assumption | with_reducible apply State.unqueue_away | with_reducible apply State.setHart_away
    | with_reducible apply State.showQueue_away | with_reducible apply State.showSlots_away
    | with_reducible apply State.traceOf_away | with_reducible apply Away.ite | with_reducible apply Away.four
    | simp only [Away.mk_iff] | (refine Away.pages hK ?_; decide)
    | (refine Away.pages hK ?_; simp [R.SCHED_CORE_CFG_SLOTS]; done) | split | intro _)

theorem State.discardItem_away {K : Nat → Prop} {M : Part → Prop} {base : State} (s : State) (h : Nat) (hK : ∀ n ∈ [0x06, 0x08], ¬K n) (hk : Away K M base s) :
    Away K M base (State.discardItem s h) := by
  unfold State.discardItem
  try dsimp only
  repeat' (first
    | with_reducible assumption | with_reducible apply State.unqueue_away
    | with_reducible apply State.showQueue_away | with_reducible apply State.inc_away
    | with_reducible apply State.event_away | with_reducible apply State.traceOf_away
    | with_reducible apply Away.ite | simp only [Away.mk_iff] | (refine Away.pages hK ?_; decide)
    | (refine Away.pages hK ?_; simp [R.SCHED_CORE_CFG_SLOTS, R.SCHED_CNT_UE_N]; done) | split | intro _)

theorem execSchedDispatch_away {K : Nat → Prop} {M : Part → Prop} {base : State} (h : Nat) (e : Ecc) (s : State) (hK : ∀ n ∈ [0x06, 0x08], ¬K n) (hk : Away K M base s) :
    ResAway K M base (execSchedDispatch h e s) := by
  unfold execSchedDispatch
  try dsimp only
  repeat' (first
    | with_reducible assumption | with_reducible apply State.begin_away
    | with_reducible apply State.discardItem_away | with_reducible apply State.fillSlot_away
    | with_reducible apply ResAway.next | simp only [Away.mk_iff] | (refine Away.pages hK ?_; decide)
    | (refine Away.pages hK ?_; simp; done) | split | intro _)

theorem State.countWait_away {K : Nat → Prop} {M : Part → Prop} {base : State} (s : State) (q w : Nat) (hk : Away K M base s) :
    Away K M base (State.countWait s q w) := by
  unfold State.countWait
  try dsimp only
  repeat' (first
    | with_reducible assumption | with_reducible apply Away.four | simp only [Away.mk_iff] | split | intro _)

theorem execSchedTake_away {K : Nat → Prop} {M : Part → Prop} {base : State} (m : Master) (s : State) (hK : ∀ n ∈ [0x06, 0x08], ¬K n) (hk : Away K M base s) :
    ResAway K M base (execSchedTake m s) := by
  unfold execSchedTake
  try dsimp only
  repeat' (first
    | with_reducible assumption | with_reducible apply State.begin_away | with_reducible apply State.emit_away
    | with_reducible apply State.setHart_away | with_reducible apply State.countWait_away
    | with_reducible apply State.inc_away | with_reducible apply State.showSlots_away
    | with_reducible apply State.showQueue_away | with_reducible apply State.traceOf_away
    | with_reducible apply Away.ite | with_reducible apply ResAway.ite | with_reducible apply ResAway.next
    | with_reducible apply ResAway.refused | with_reducible apply Away.four | simp only [Away.mk_iff]
    | (refine Away.pages hK ?_; decide) | (refine Away.pages hK ?_; simp [R.SCHED_CORE_ITEMS_N]; done) | split
    | intro _)

theorem State.markUrgent_away {K : Nat → Prop} {M : Part → Prop} {base : State} (s : State) (seq : Nat) (hk : Away K M base s) :
    Away K M base (State.markUrgent s seq) := by
  unfold State.markUrgent
  try dsimp only
  repeat' (first
    | with_reducible assumption | with_reducible apply Away.ite | with_reducible apply Away.four
    | simp only [Away.mk_iff] | split | intro _)

theorem execSchedUrgent_away {K : Nat → Prop} {M : Part → Prop} {base : State} (seq : Nat) (s : State) (hK : ∀ n ∈ [0x06, 0x08], ¬K n) (hk : Away K M base s) :
    ResAway K M base (execSchedUrgent seq s) := by
  unfold execSchedUrgent
  try dsimp only
  repeat' (first
    | with_reducible assumption | with_reducible apply State.begin_away | with_reducible apply State.markUrgent_away
    | with_reducible apply State.inc_away | with_reducible apply State.irq_away
    | with_reducible apply State.traceOf_away | with_reducible apply ResAway.next | with_reducible apply Away.four
    | with_reducible apply State.setFlds_away | with_reducible apply Away.flds
    | with_reducible apply State.setFld_away | simp only [List.map_cons, List.map_nil] | simp only [Away.mk_iff]
    | (refine Away.pages hK ?_; decide) | (refine Away.pages hK ?_; simp; done) | split | intro _)

theorem execSchedQflush_away {K : Nat → Prop} {M : Part → Prop} {base : State} (m : Master) (v : Word) (s : State) (hK : ∀ n ∈ [0x06, 0x08], ¬K n) (hk : Away K M base s) :
    ResAway K M base (execSchedQflush m v s) := by
  unfold execSchedQflush
  try dsimp only
  repeat' (first
    | with_reducible assumption | with_reducible apply State.begin_away | with_reducible apply State.asWrite_away
    | with_reducible apply State.setFld_away | with_reducible apply State.traceOf_away
    | with_reducible apply State.add_away | with_reducible apply State.showQueue_away
    | with_reducible apply Away.ite | with_reducible apply ResAway.ite | with_reducible apply ResAway.next
    | with_reducible apply Away.foldl | with_reducible apply Away.foldlFst | with_reducible apply Away.four
    | simp only [Away.mk_iff] | (refine Away.pages hK ?_; decide) | (refine Away.pages hK ?_; simp; done) | split
    | intro _)

theorem execSchedCkptSave_away {K : Nat → Prop} {M : Part → Prop} {base : State} (m : Master) (s : State) (hK : ∀ n ∈ [0x08], ¬K n) (hM : ∀ p ∈ [.ret], ¬M p) (hk : Away K M base s) :
    ResAway K M base (execSchedCkptSave m s) := by
  unfold execSchedCkptSave
  try dsimp only
  repeat' (first
    | with_reducible assumption | with_reducible apply State.begin_away | with_reducible apply State.asWrite_away
    | with_reducible apply State.setFld_away | with_reducible apply ResAway.next | with_reducible apply Away.four
    | with_reducible apply Away.fourMem | simp only [Away.mk_iff]
    | (intro (p : Part) hp; cases p <;> first | exact absurd hp (hM _ (by decide)) | (simp only [Mems.part, State.drawn_mem]; done))
    | (refine Away.pages hK ?_; decide) | (refine Away.pages hK ?_; simp; done) | (refine Away.parts hM ?_; decide)
    | split | intro _)

theorem State.ckptRestore_away {K : Nat → Prop} {M : Part → Prop} {base : State} (s : State) (hK : ∀ n ∈ [0x08], ¬K n) (hk : Away K M base s) :
    Away K M base (State.ckptRestore s) := by
  unfold State.ckptRestore
  try dsimp only
  repeat' (first
    | with_reducible assumption | with_reducible apply State.setReg_away | with_reducible apply State.setFld_away
    | with_reducible apply Away.ite | with_reducible apply Away.foldl | with_reducible apply Away.foldlFst
    | simp only [Away.mk_iff] | (refine Away.pages hK ?_; decide) | (refine Away.pages hK ?_; simp; done) | split
    | intro _)

theorem execSchedCkptRestore_away {K : Nat → Prop} {M : Part → Prop} {base : State} (m : Master) (s : State) (hK : ∀ n ∈ [0x08], ¬K n) (hk : Away K M base s) :
    ResAway K M base (execSchedCkptRestore m s) := by
  unfold execSchedCkptRestore
  try dsimp only
  repeat' (first
    | with_reducible assumption | with_reducible apply State.begin_away | with_reducible apply State.asWrite_away
    | with_reducible apply State.ckptRestore_away | with_reducible apply ResAway.next | simp only [Away.mk_iff]
    | (refine Away.pages hK ?_; decide) | (refine Away.pages hK ?_; simp; done) | split | intro _)

theorem State.popTrace_away {K : Nat → Prop} {M : Part → Prop} {base : State} (s : State) (hK : ∀ n ∈ [0x08], ¬K n) (hk : Away K M base s) :
    Away K M base (State.popTrace s) := by
  unfold State.popTrace
  try dsimp only
  repeat' (first
    | with_reducible assumption | with_reducible apply State.setFld_away | with_reducible apply State.showTrace_away
    | with_reducible apply State.emit_away | with_reducible apply Away.four | simp only [Away.mk_iff]
    | (refine Away.pages hK ?_; decide) | (refine Away.pages hK ?_; simp; done) | split | intro _)

theorem execSchedTraceRead_away {K : Nat → Prop} {M : Part → Prop} {base : State} (m : Master) (s : State) (hK : ∀ n ∈ [0x08], ¬K n) (hk : Away K M base s) :
    ResAway K M base (execSchedTraceRead m s) := by
  unfold execSchedTraceRead
  try dsimp only
  repeat' (first
    | with_reducible assumption | with_reducible apply State.begin_away | with_reducible apply State.popTrace_away
    | with_reducible apply State.emit_away | with_reducible apply Away.ite | with_reducible apply ResAway.ite
    | with_reducible apply ResAway.next | simp only [Away.mk_iff] | (refine Away.pages hK ?_; decide)
    | (refine Away.pages hK ?_; simp; done) | split | intro _)

theorem execSchedTraceClear_away {K : Nat → Prop} {M : Part → Prop} {base : State} (m : Master) (s : State) (hK : ∀ n ∈ [0x08], ¬K n) (hk : Away K M base s) :
    ResAway K M base (execSchedTraceClear m s) := by
  unfold execSchedTraceClear
  try dsimp only
  repeat' (first
    | with_reducible assumption | with_reducible apply State.begin_away | with_reducible apply State.disarm_away
    | with_reducible apply State.setFld_away | with_reducible apply State.showTrace_away
    | with_reducible apply Away.ite | with_reducible apply ResAway.ite | with_reducible apply ResAway.next
    | with_reducible apply Away.four | simp only [Away.mk_iff] | (refine Away.pages hK ?_; decide)
    | (refine Away.pages hK ?_; simp; done) | split | intro _)

theorem execSchedQstateFault_away {K : Nat → Prop} {M : Part → Prop} {base : State} (s : State) (hK : ∀ n ∈ [0x06, 0x08], ¬K n) (hk : Away K M base s) :
    ResAway K M base (execSchedQstateFault s) := by
  unfold execSchedQstateFault
  repeat' (first
    | with_reducible assumption | with_reducible apply State.begin_away | with_reducible apply State.fenceBlock_away
    | with_reducible apply ResAway.next | simp only [Away.mk_iff] | (refine Away.pages hK ?_; decide)
    | (refine Away.pages hK ?_; simp; done) | split | intro _)

end Sys2Proof.Machine
end

