-- ==== Sys2Proof/Laws/AwayUpd.lean ====
section
/-! SUPPORT. What the operations of Machine/Upd.lean stay away from (Laws/Away.lean). -/
set_option linter.all false
set_option Elab.async false

namespace Sys2Proof.Machine

theorem State.norWrite_away {K : Nat → Prop} {M : Part → Prop} {base : State} (s : State) (a : Nat) (bs : List Byte) (hM : ∀ p ∈ [.nor], ¬M p) (hk : Away K M base s) :
    Away K M base (State.norWrite s a bs) := by
  unfold State.norWrite
  try dsimp only
  repeat' (first
    | with_reducible assumption | with_reducible apply State.wroteCode_away | with_reducible apply Away.four
    | with_reducible apply Away.fourMem | simp only [Away.mk_iff]
    | (intro (p : Part) hp; cases p <;> first | exact absurd hp (hM _ (by decide)) | (simp only [Mems.part, State.drawn_mem]; done))
    | (refine Away.parts hM ?_; decide) | split | intro _)

theorem State.norErase_away {K : Nat → Prop} {M : Part → Prop} {base : State} (s : State) (a n : Nat) (hM : ∀ p ∈ [.nor], ¬M p) (hk : Away K M base s) :
    Away K M base (State.norErase s a n) := by
  unfold State.norErase
  repeat' (first
    | with_reducible assumption | with_reducible apply State.norWrite_away | simp only [Away.mk_iff]
    | (refine Away.parts hM ?_; decide) | split | intro _)

theorem State.norSpoil_away {K : Nat → Prop} {M : Part → Prop} {base : State} (s : State) (a n : Nat) (hM : ∀ p ∈ [.nor], ¬M p) (hk : Away K M base s) :
    Away K M base (State.norSpoil s a n) := by
  unfold State.norSpoil
  repeat' (first
    | with_reducible assumption | with_reducible apply State.norWrite_away | with_reducible apply State.drawn_away
    | simp only [Away.mk_iff] | (refine Away.parts hM ?_; decide) | split | intro _)

theorem State.writeBoot_away {K : Nat → Prop} {M : Part → Prop} {base : State} (s : State) (recOk : Bool) (f : List Byte → List Byte) (hK : ∀ n ∈ [0x44], ¬K n) (hM : ∀ p ∈ [.mram], ¬M p) (hk : Away K M base s) :
    Away K M base (State.writeBoot s recOk f) := by
  unfold State.writeBoot
  try dsimp only
  repeat' (first
    | with_reducible assumption | with_reducible apply State.mramWrite_away | with_reducible apply State.setFld_away
    | with_reducible apply Away.ite | simp only [Away.mk_iff] | (refine Away.pages hK ?_; decide)
    | (refine Away.pages hK ?_; simp; done) | (refine Away.parts hM ?_; decide) | split | intro _)

theorem State.bootGo_away {K : Nat → Prop} {M : Part → Prop} {base : State} (s : State) (r why : Nat) (hK : ∀ n ∈ [0x44], ¬K n) (hk : Away K M base s) :
    Away K M base (State.bootGo s r why) := by
  unfold State.bootGo
  try dsimp only
  repeat' (first
    | with_reducible assumption | with_reducible apply State.setFld_away | with_reducible apply Away.four
    | simp only [Away.mk_iff] | (refine Away.pages hK ?_; decide) | (refine Away.pages hK ?_; simp; done) | split
    | intro _)

theorem State.bootFallback_away {K : Nat → Prop} {M : Part → Prop} {base : State} (s : State) (x why : Nat) (recOk : Bool) (hK : ∀ n ∈ [0x44], ¬K n) (hM : ∀ p ∈ [.mram], ¬M p) (hk : Away K M base s) :
    Away K M base (State.bootFallback s x why recOk) := by
  unfold State.bootFallback
  try dsimp only
  repeat' (first
    | with_reducible assumption | with_reducible apply State.writeBoot_away | with_reducible apply State.bootGo_away
    | with_reducible apply Away.ite | simp only [Away.mk_iff] | (refine Away.pages hK ?_; decide)
    | (refine Away.pages hK ?_; simp; done) | (refine Away.parts hM ?_; decide) | split | intro _)

theorem State.bootChoose_away {K : Nat → Prop} {M : Part → Prop} {base : State} (s : State) (recOk : Bool) (hK : ∀ n ∈ [0x44], ¬K n) (hM : ∀ p ∈ [.mram], ¬M p) (hk : Away K M base s) :
    Away K M base (State.bootChoose s recOk) := by
  unfold State.bootChoose
  try dsimp only
  repeat' (first
    | with_reducible assumption | with_reducible apply State.bootGo_away | with_reducible apply State.writeBoot_away
    | with_reducible apply State.bootFallback_away | with_reducible apply Away.ite | with_reducible apply Away.four
    | simp only [Away.mk_iff] | (refine Away.pages hK ?_; decide) | (refine Away.pages hK ?_; simp; done)
    | (refine Away.parts hM ?_; decide) | split | intro _)

theorem State.jumpAll_away {K : Nat → Prop} {M : Part → Prop} {base : State} (s : State) (entry : Nat) (hk : Away K M base s) :
    Away K M base (State.jumpAll s entry) := by
  unfold State.jumpAll
  try dsimp only
  repeat' (first
    | with_reducible assumption | with_reducible apply Away.four | simp only [Away.mk_iff] | split | intro _)

theorem State.bootJump_away {K : Nat → Prop} {M : Part → Prop} {base : State} (s : State) (r : Nat) (hK : ∀ n ∈ [0x44], ¬K n) (hM : ∀ p ∈ [.ret], ¬M p) (hk : Away K M base s) :
    Away K M base (State.bootJump s r) := by
  unfold State.bootJump
  try dsimp only
  repeat' (first
    | with_reducible assumption | with_reducible apply State.jumpAll_away | with_reducible apply State.drawn_away
    | with_reducible apply Away.ite | with_reducible apply Away.four | with_reducible apply Away.fourMem
    | with_reducible apply State.setFlds_away | with_reducible apply Away.flds
    | with_reducible apply State.setFld_away | simp only [List.map_cons, List.map_nil] | simp only [Away.mk_iff]
    | (intro (p : Part) hp; cases p <;> first | exact absurd hp (hM _ (by decide)) | (simp only [Mems.part, State.drawn_mem]; done))
    | (refine Away.pages hK ?_; decide) | (refine Away.pages hK ?_; simp; done) | (refine Away.parts hM ?_; decide)
    | split | intro _)

theorem State.bootNone_away {K : Nat → Prop} {M : Part → Prop} {base : State} (s : State) (hK : ∀ n ∈ [0x44], ¬K n) (hk : Away K M base s) :
    Away K M base (State.bootNone s) := by
  unfold State.bootNone
  try dsimp only
  repeat' (first
    | with_reducible assumption | with_reducible apply State.setFld_away | with_reducible apply Away.four
    | simp only [Away.mk_iff] | (refine Away.pages hK ?_; decide) | (refine Away.pages hK ?_; simp; done) | split
    | intro _)

theorem execBootImageChecked_away {K : Nat → Prop} {M : Part → Prop} {base : State} (recOk : Bool) (s : State) (hK : ∀ n ∈ [0x44], ¬K n) (hM : ∀ p ∈ [.mram, .ret], ¬M p) (hk : Away K M base s) :
    ResAway K M base (execBootImageChecked recOk s) := by
  unfold execBootImageChecked
  try dsimp only
  repeat' (first
    | with_reducible assumption | with_reducible apply State.begin_away | with_reducible apply State.bootChoose_away
    | with_reducible apply State.bootJump_away | with_reducible apply State.bootNone_away
    | with_reducible apply State.bootFallback_away | with_reducible apply Away.ite
    | with_reducible apply ResAway.ite | with_reducible apply ResAway.next | simp only [Away.mk_iff]
    | (refine Away.pages hK ?_; decide) | (refine Away.pages hK ?_; simp; done) | (refine Away.parts hM ?_; decide)
    | split | intro _)

theorem State.updEnd_away {K : Nat → Prop} {M : Part → Prop} {base : State} (s : State) (code step : Nat) (hK : ∀ n ∈ [0x44], ¬K n) (hk : Away K M base s) :
    Away K M base (State.updEnd s code step) := by
  unfold State.updEnd
  try dsimp only
  repeat' (first
    | with_reducible assumption | with_reducible apply State.inc_away | with_reducible apply State.irq_away
    | with_reducible apply Away.ite | with_reducible apply Away.four | with_reducible apply State.setFlds_away
    | with_reducible apply Away.flds | with_reducible apply State.setFld_away
    | simp only [List.map_cons, List.map_nil] | simp only [Away.mk_iff] | (refine Away.pages hK ?_; decide)
    | (refine Away.pages hK ?_; simp; done) | split | intro _)

theorem State.closeTransfer_away {K : Nat → Prop} {M : Part → Prop} {base : State} (s : State) (hK : ∀ n ∈ [0x44], ¬K n) (hk : Away K M base s) :
    Away K M base (State.closeTransfer s) := by
  unfold State.closeTransfer
  try dsimp only
  repeat' (first
    | with_reducible assumption | with_reducible apply State.setFld_away | with_reducible apply Away.four
    | simp only [Away.mk_iff] | (refine Away.pages hK ?_; decide) | (refine Away.pages hK ?_; simp; done) | split
    | intro _)

theorem State.openTransfer_away {K : Nat → Prop} {M : Part → Prop} {base : State} (s : State) (session : Option Nat) (hK : ∀ n ∈ [0x44], ¬K n) (hk : Away K M base s) :
    Away K M base (State.openTransfer s session) := by
  unfold State.openTransfer
  try dsimp only
  repeat' (first
    | with_reducible assumption | with_reducible apply Away.four | with_reducible apply State.setFlds_away
    | with_reducible apply Away.flds | with_reducible apply State.setFld_away
    | simp only [List.map_cons, List.map_nil] | simp only [Away.mk_iff] | (refine Away.pages hK ?_; decide)
    | (refine Away.pages hK ?_; simp; done) | split | intro _)

theorem State.updStart_away {K : Nat → Prop} {M : Part → Prop} {base : State} (s : State) (k : State → State) (hK : ∀ n ∈ [0x44], ¬K n) (hk : Away K M base s)
    (hk : ∀ (x0 : State), Away K M base x0 → Away K M base (k x0)) :
    Away K M base (State.updStart s k) := by
  unfold State.updStart
  repeat' (first
    | with_reducible assumption | with_reducible apply hk | with_reducible apply State.setFld_away
    | with_reducible apply State.inc_away | with_reducible apply Away.ite | simp only [Away.mk_iff]
    | (refine Away.pages hK ?_; decide) | (refine Away.pages hK ?_; simp; done) | split | intro _)

theorem State.updRuns_away {K : Nat → Prop} {M : Part → Prop} {base : State} (s : State) (op step : Nat) (hK : ∀ n ∈ [0x44], ¬K n) (hk : Away K M base s) :
    Away K M base (State.updRuns s op step) := by
  unfold State.updRuns
  try dsimp only
  repeat' (first
    | with_reducible assumption | with_reducible apply Away.four | with_reducible apply State.setFlds_away
    | with_reducible apply Away.flds | with_reducible apply State.setFld_away
    | simp only [List.map_cons, List.map_nil] | simp only [Away.mk_iff] | (refine Away.pages hK ?_; decide)
    | (refine Away.pages hK ?_; simp; done) | split | intro _)

theorem State.checkHdr_away {K : Nat → Prop} {M : Part → Prop} {base : State} (s : State) (hK : ∀ n ∈ [0x44], ¬K n) (hk : Away K M base s) :
    Away K M base (State.checkHdr s) := by
  unfold State.checkHdr
  try dsimp only
  repeat' (first
    | with_reducible assumption | with_reducible apply State.updStart_away | with_reducible apply State.updRuns_away
    | simp only [Away.mk_iff] | (refine Away.pages hK ?_; decide) | (refine Away.pages hK ?_; simp; done) | split
    | intro _)

theorem State.checkBody_away {K : Nat → Prop} {M : Part → Prop} {base : State} (s : State) (hK : ∀ n ∈ [0x44], ¬K n) (hk : Away K M base s) :
    Away K M base (State.checkBody s) := by
  unfold State.checkBody
  try dsimp only
  repeat' (first
    | with_reducible assumption | with_reducible apply State.updStart_away | with_reducible apply State.updRuns_away
    | with_reducible apply State.updEnd_away | with_reducible apply Away.ite | simp only [Away.mk_iff]
    | (refine Away.pages hK ?_; decide) | (refine Away.pages hK ?_; simp; done) | split | intro _)

theorem State.program_away {K : Nat → Prop} {M : Part → Prop} {base : State} (s : State) (recOk : Bool) (hK : ∀ n ∈ [0x44], ¬K n) (hM : ∀ p ∈ [.mram], ¬M p) (hk : Away K M base s) :
    Away K M base (State.program s recOk) := by
  unfold State.program
  try dsimp only
  repeat' (first
    | with_reducible assumption | with_reducible apply State.updStart_away
    | with_reducible apply State.writeBoot_away | with_reducible apply State.updRuns_away
    | with_reducible apply State.updEnd_away | with_reducible apply Away.ite | simp only [Away.mk_iff]
    | (refine Away.pages hK ?_; decide) | (refine Away.pages hK ?_; simp; done) | (refine Away.parts hM ?_; decide)
    | split | intro _)

theorem State.hdrDone_away {K : Nat → Prop} {M : Part → Prop} {base : State} (s : State) (hK : ∀ n ∈ [0x06, 0x18, 0x19, 0x38, 0x44], ¬K n) (hk : Away K M base s) :
    Away K M base (State.hdrDone s) := by
  unfold State.hdrDone
  try dsimp only
  repeat' (first
    | with_reducible assumption | with_reducible apply State.blockReads_away
    | with_reducible apply State.updEnd_away | with_reducible apply State.openTransfer_away
    | with_reducible apply Away.ite | simp only [Away.mk_iff] | (refine Away.pages hK ?_; decide)
    | (refine Away.pages hK ?_; simp; done) | split | intro _)

theorem State.bodyDone_away {K : Nat → Prop} {M : Part → Prop} {base : State} (s : State) (hK : ∀ n ∈ [0x06, 0x18, 0x19, 0x38, 0x44], ¬K n) (hk : Away K M base s) :
    Away K M base (State.bodyDone s) := by
  unfold State.bodyDone
  try dsimp only
  repeat' (first
    | with_reducible assumption | with_reducible apply State.blockReads_away
    | with_reducible apply State.setFld_away | with_reducible apply State.updEnd_away
    | with_reducible apply State.closeTransfer_away | with_reducible apply Away.ite | with_reducible apply Away.four
    | simp only [Away.mk_iff] | (refine Away.pages hK ?_; decide) | (refine Away.pages hK ?_; simp; done) | split
    | intro _)

theorem State.programDone_away {K : Nat → Prop} {M : Part → Prop} {base : State} (s : State) (dev recOk : Bool) (hK : ∀ n ∈ [0x06, 0x18, 0x19, 0x38, 0x44, 0x45], ¬K n) (hM : ∀ p ∈ [.mram, .nor], ¬M p) (hk : Away K M base s) :
    Away K M base (State.programDone s dev recOk) := by
  unfold State.programDone
  try dsimp only
  repeat' (first
    | with_reducible assumption | with_reducible apply State.blockReads_away | with_reducible apply State.add_away
    | with_reducible apply State.norErase_away | with_reducible apply State.norWrite_away
    | with_reducible apply State.writeBoot_away | with_reducible apply State.setFld_away
    | with_reducible apply State.updEnd_away | with_reducible apply State.closeTransfer_away
    | with_reducible apply State.norSpoil_away | with_reducible apply Away.ite | simp only [Away.mk_iff]
    | (refine Away.pages hK ?_; decide) | (refine Away.pages hK ?_; simp; done) | (refine Away.parts hM ?_; decide)
    | split | intro _)

theorem State.updBreak_away {K : Nat → Prop} {M : Part → Prop} {base : State} (s : State) (hK : ∀ n ∈ [0x44], ¬K n) (hM : ∀ p ∈ [.nor], ¬M p) (hk : Away K M base s) :
    Away K M base (State.updBreak s) := by
  unfold State.updBreak
  try dsimp only
  repeat' (first
    | with_reducible assumption | with_reducible apply State.norSpoil_away | with_reducible apply State.setFld_away
    | with_reducible apply Away.ite | with_reducible apply Away.four | simp only [Away.mk_iff]
    | (refine Away.pages hK ?_; decide) | (refine Away.pages hK ?_; simp; done) | (refine Away.parts hM ?_; decide)
    | split | intro _)

theorem execUpdCheckHdr_away {K : Nat → Prop} {M : Part → Prop} {base : State} (m : Master) (s : State) (hK : ∀ n ∈ [0x44], ¬K n) (hk : Away K M base s) :
    ResAway K M base (execUpdCheckHdr m s) := by
  unfold execUpdCheckHdr
  try dsimp only
  repeat' (first
    | with_reducible assumption | with_reducible apply State.begin_away | with_reducible apply State.asWrite_away
    | with_reducible apply State.checkHdr_away | with_reducible apply ResAway.next | simp only [Away.mk_iff]
    | (refine Away.pages hK ?_; decide) | (refine Away.pages hK ?_; simp; done) | split | intro _)

theorem execUpdCheckBody_away {K : Nat → Prop} {M : Part → Prop} {base : State} (m : Master) (s : State) (hK : ∀ n ∈ [0x44], ¬K n) (hk : Away K M base s) :
    ResAway K M base (execUpdCheckBody m s) := by
  unfold execUpdCheckBody
  try dsimp only
  repeat' (first
    | with_reducible assumption | with_reducible apply State.begin_away | with_reducible apply State.asWrite_away
    | with_reducible apply State.checkBody_away | with_reducible apply ResAway.next | simp only [Away.mk_iff]
    | (refine Away.pages hK ?_; decide) | (refine Away.pages hK ?_; simp; done) | split | intro _)

theorem execUpdProgram_away {K : Nat → Prop} {M : Part → Prop} {base : State} (m : Master) (recOk : Bool) (s : State) (hK : ∀ n ∈ [0x44], ¬K n) (hM : ∀ p ∈ [.mram], ¬M p) (hk : Away K M base s) :
    ResAway K M base (execUpdProgram m recOk s) := by
  unfold execUpdProgram
  try dsimp only
  repeat' (first
    | with_reducible assumption | with_reducible apply State.begin_away | with_reducible apply State.asWrite_away
    | with_reducible apply State.program_away | with_reducible apply ResAway.next | simp only [Away.mk_iff]
    | (refine Away.pages hK ?_; decide) | (refine Away.pages hK ?_; simp; done) | (refine Away.parts hM ?_; decide)
    | split | intro _)

theorem State.updAbort_away {K : Nat → Prop} {M : Part → Prop} {base : State} (s : State) (hK : ∀ n ∈ [0x44], ¬K n) (hM : ∀ p ∈ [.nor], ¬M p) (hk : Away K M base s) :
    Away K M base (State.updAbort s) := by
  unfold State.updAbort
  repeat' (first
    | with_reducible assumption | with_reducible apply State.updBreak_away | with_reducible apply State.irq_away
    | with_reducible apply Away.ite | simp only [Away.mk_iff] | (refine Away.pages hK ?_; decide)
    | (refine Away.pages hK ?_; simp; done) | (refine Away.parts hM ?_; decide) | split | intro _)

theorem execUpdAbort_away {K : Nat → Prop} {M : Part → Prop} {base : State} (m : Master) (s : State) (hK : ∀ n ∈ [0x44], ¬K n) (hM : ∀ p ∈ [.nor], ¬M p) (hk : Away K M base s) :
    ResAway K M base (execUpdAbort m s) := by
  unfold execUpdAbort
  try dsimp only
  repeat' (first
    | with_reducible assumption | with_reducible apply State.begin_away | with_reducible apply State.asWrite_away
    | with_reducible apply State.updAbort_away | with_reducible apply ResAway.next | simp only [Away.mk_iff]
    | (refine Away.pages hK ?_; decide) | (refine Away.pages hK ?_; simp; done) | (refine Away.parts hM ?_; decide)
    | split | intro _)

theorem execUpdOperationDone_away {K : Nat → Prop} {M : Part → Prop} {base : State} (dev recOk : Bool) (s : State) (hK : ∀ n ∈ [0x06, 0x18, 0x19, 0x38, 0x44, 0x45], ¬K n) (hM : ∀ p ∈ [.mram, .nor], ¬M p) (hk : Away K M base s) :
    ResAway K M base (execUpdOperationDone dev recOk s) := by
  unfold execUpdOperationDone
  try dsimp only
  repeat' (first
    | with_reducible assumption | with_reducible apply State.begin_away | with_reducible apply State.hdrDone_away
    | with_reducible apply State.bodyDone_away | with_reducible apply State.programDone_away
    | with_reducible apply ResAway.next | simp only [Away.mk_iff] | (refine Away.pages hK ?_; decide)
    | (refine Away.pages hK ?_; simp; done) | (refine Away.parts hM ?_; decide) | split | intro _)

theorem State.confirm_away {K : Nat → Prop} {M : Part → Prop} {base : State} (s : State) (recOk : Bool) (hK : ∀ n ∈ [0x44], ¬K n) (hM : ∀ p ∈ [.mram], ¬M p) (hk : Away K M base s) :
    Away K M base (State.confirm s recOk) := by
  unfold State.confirm
  try dsimp only
  repeat' (first
    | with_reducible assumption | with_reducible apply State.writeBoot_away | with_reducible apply State.setFld_away
    | with_reducible apply Away.ite | simp only [Away.mk_iff] | (refine Away.pages hK ?_; decide)
    | (refine Away.pages hK ?_; simp; done) | (refine Away.parts hM ?_; decide) | split | intro _)

theorem execUpdConfirm_away {K : Nat → Prop} {M : Part → Prop} {base : State} (m : Master) (v : Word) (recOk : Bool) (s : State) (hK : ∀ n ∈ [0x44], ¬K n) (hM : ∀ p ∈ [.mram], ¬M p) (hk : Away K M base s) :
    ResAway K M base (execUpdConfirm m v recOk s) := by
  unfold execUpdConfirm
  try dsimp only
  repeat' (first
    | with_reducible assumption | with_reducible apply State.begin_away | with_reducible apply State.asArmed_away
    | with_reducible apply State.confirm_away | with_reducible apply Away.ite | with_reducible apply ResAway.ite
    | with_reducible apply ResAway.next | simp only [Away.mk_iff] | (refine Away.pages hK ?_; decide)
    | (refine Away.pages hK ?_; simp; done) | (refine Away.parts hM ?_; decide) | split | intro _)

theorem execUpdHealthHalf_away {K : Nat → Prop} {M : Part → Prop} {base : State} (s : State) (hK : ∀ n ∈ [0x44], ¬K n) (hk : Away K M base s) :
    ResAway K M base (execUpdHealthHalf s) := by
  unfold execUpdHealthHalf
  try dsimp only
  repeat' (first
    | with_reducible assumption | with_reducible apply State.begin_away | with_reducible apply State.setFld_away
    | with_reducible apply State.irq_away | with_reducible apply Away.ite | with_reducible apply ResAway.ite
    | with_reducible apply ResAway.next | with_reducible apply Away.four | simp only [Away.mk_iff]
    | (refine Away.pages hK ?_; decide) | (refine Away.pages hK ?_; simp; done) | split | intro _)

theorem execUpdBootreq_away {K : Nat → Prop} {M : Part → Prop} {base : State} (m : Master) (v : Word) (s : State) (hK : ∀ n ∈ [0x44], ¬K n) (hk : Away K M base s) :
    ResAway K M base (execUpdBootreq m v s) := by
  unfold execUpdBootreq
  try dsimp only
  repeat' (first
    | with_reducible assumption | with_reducible apply State.begin_away | with_reducible apply State.asArmed_away
    | with_reducible apply Away.ite | with_reducible apply ResAway.ite | with_reducible apply ResAway.next
    | with_reducible apply Away.four | simp only [Away.mk_iff] | (refine Away.pages hK ?_; decide)
    | (refine Away.pages hK ?_; simp; done) | split | intro _)

theorem State.armLocal_away {K : Nat → Prop} {M : Part → Prop} {base : State} (s : State) (hK : ∀ n ∈ [0x39, 0x44], ¬K n) (hk : Away K M base s) :
    Away K M base (State.armLocal s) := by
  unfold State.armLocal
  repeat' (first
    | with_reducible assumption | with_reducible apply State.armActivation_away | simp only [Away.mk_iff]
    | (refine Away.pages hK ?_; decide) | (refine Away.pages hK ?_; simp; done) | split | intro _)

theorem State.disarmActivation_away {K : Nat → Prop} {M : Part → Prop} {base : State} (s : State) (hK : ∀ n ∈ [0x39, 0x44], ¬K n) (hk : Away K M base s) :
    Away K M base (State.disarmActivation s) := by
  unfold State.disarmActivation
  repeat' (first
    | with_reducible assumption | with_reducible apply State.setFld_away | with_reducible apply State.irq_away
    | simp only [Away.mk_iff] | (refine Away.pages hK ?_; decide) | (refine Away.pages hK ?_; simp; done) | split
    | intro _)

theorem execUpdActArm_away {K : Nat → Prop} {M : Part → Prop} {base : State} (m : Master) (s : State) (hK : ∀ n ∈ [0x39, 0x44], ¬K n) (hk : Away K M base s) :
    ResAway K M base (execUpdActArm m s) := by
  unfold execUpdActArm
  try dsimp only
  repeat' (first
    | with_reducible assumption | with_reducible apply State.begin_away | with_reducible apply State.asWrite_away
    | with_reducible apply State.armLocal_away | with_reducible apply ResAway.next | simp only [Away.mk_iff]
    | (refine Away.pages hK ?_; decide) | (refine Away.pages hK ?_; simp; done) | split | intro _)

theorem execUpdActDisarm_away {K : Nat → Prop} {M : Part → Prop} {base : State} (m : Master) (s : State) (hK : ∀ n ∈ [0x39, 0x44], ¬K n) (hk : Away K M base s) :
    ResAway K M base (execUpdActDisarm m s) := by
  unfold execUpdActDisarm
  try dsimp only
  repeat' (first
    | with_reducible assumption | with_reducible apply State.begin_away | with_reducible apply State.asWrite_away
    | with_reducible apply State.disarmActivation_away | with_reducible apply ResAway.next | simp only [Away.mk_iff]
    | (refine Away.pages hK ?_; decide) | (refine Away.pages hK ?_; simp; done) | split | intro _)

theorem State.sendActivate_away {K : Nat → Prop} {M : Part → Prop} {base : State} (s : State) (frame version : Nat) (hK : ∀ n ∈ [0x39, 0x44], ¬K n) (hk : Away K M base s) :
    Away K M base (State.sendActivate s frame version).1 := by
  unfold State.sendActivate
  try dsimp only
  repeat' (first
    | with_reducible assumption | with_reducible apply State.sendParty_away
    | with_reducible apply State.armActivation_away | with_reducible apply Away.ite | simp only [Away.mk_iff]
    | (refine Away.pages hK ?_; decide) | (refine Away.pages hK ?_; simp; done) | split | intro _)

theorem State.pactSend_away {K : Nat → Prop} {M : Part → Prop} {base : State} (s : State) (hK : ∀ n ∈ [0x39, 0x44], ¬K n) (hk : Away K M base s) :
    Away K M base (State.pactSend s) := by
  unfold State.pactSend
  try dsimp only
  repeat' (first
    | with_reducible assumption | with_reducible apply State.sendActivate_away
    | with_reducible apply State.setFld_away | simp only [Away.mk_iff] | (refine Away.pages hK ?_; decide)
    | (refine Away.pages hK ?_; simp; done) | split | intro _)

theorem execUpdPactSend_away {K : Nat → Prop} {M : Part → Prop} {base : State} (m : Master) (s : State) (hK : ∀ n ∈ [0x39, 0x44], ¬K n) (hk : Away K M base s) :
    ResAway K M base (execUpdPactSend m s) := by
  unfold execUpdPactSend
  try dsimp only
  repeat' (first
    | with_reducible assumption | with_reducible apply State.begin_away | with_reducible apply State.asWrite_away
    | with_reducible apply State.pactSend_away | with_reducible apply ResAway.next | simp only [Away.mk_iff]
    | (refine Away.pages hK ?_; decide) | (refine Away.pages hK ?_; simp; done) | split | intro _)

theorem State.flashEnd_away {K : Nat → Prop} {M : Part → Prop} {base : State} (s : State) (res : Nat) (hK : ∀ n ∈ [0x45], ¬K n) (hk : Away K M base s) :
    Away K M base (State.flashEnd s res) := by
  unfold State.flashEnd
  try dsimp only
  repeat' (first
    | with_reducible assumption | with_reducible apply State.irq_away | with_reducible apply State.inc_away
    | with_reducible apply Away.ite | with_reducible apply Away.four | with_reducible apply State.setFlds_away
    | with_reducible apply Away.flds | with_reducible apply State.setFld_away
    | simp only [List.map_cons, List.map_nil] | simp only [Away.mk_iff] | (refine Away.pages hK ?_; decide)
    | (refine Away.pages hK ?_; simp; done) | split | intro _)

theorem State.flashGo_away {K : Nat → Prop} {M : Part → Prop} {base : State} (s : State) (op : Nat) (v : Word) (hK : ∀ n ∈ [0x45], ¬K n) (hk : Away K M base s) :
    ResAway K M base (State.flashGo s op v) := by
  unfold State.flashGo
  try dsimp only
  repeat' (first
    | with_reducible assumption | with_reducible apply State.setFld_away | with_reducible apply State.inc_away
    | with_reducible apply State.irq_away | with_reducible apply Away.ite | with_reducible apply ResAway.ite
    | with_reducible apply ResAway.next | with_reducible apply ResAway.fault | with_reducible apply Away.four
    | with_reducible apply State.setFlds_away | with_reducible apply Away.flds
    | with_reducible apply State.setFld_away | simp only [List.map_cons, List.map_nil] | simp only [Away.mk_iff]
    | (refine Away.pages hK ?_; decide) | (refine Away.pages hK ?_; simp; done) | split | intro _)

theorem execFlashErase_away {K : Nat → Prop} {M : Part → Prop} {base : State} (m : Master) (v : Word) (s : State) (hK : ∀ n ∈ [0x45], ¬K n) (hk : Away K M base s) :
    ResAway K M base (execFlashErase m v s) := by
  unfold execFlashErase
  try dsimp only
  repeat' (first
    | with_reducible assumption | with_reducible apply State.begin_away | with_reducible apply State.asWrite_away
    | with_reducible apply State.flashGo_away | with_reducible apply ResAway.next | simp only [Away.mk_iff]
    | (refine Away.pages hK ?_; decide) | (refine Away.pages hK ?_; simp; done) | split | intro _)

theorem execFlashProgram_away {K : Nat → Prop} {M : Part → Prop} {base : State} (m : Master) (v : Word) (s : State) (hK : ∀ n ∈ [0x45], ¬K n) (hk : Away K M base s) :
    ResAway K M base (execFlashProgram m v s) := by
  unfold execFlashProgram
  try dsimp only
  repeat' (first
    | with_reducible assumption | with_reducible apply State.begin_away | with_reducible apply State.asWrite_away
    | with_reducible apply State.flashGo_away | with_reducible apply ResAway.next | simp only [Away.mk_iff]
    | (refine Away.pages hK ?_; decide) | (refine Away.pages hK ?_; simp; done) | split | intro _)

theorem execFlashVerify_away {K : Nat → Prop} {M : Part → Prop} {base : State} (m : Master) (v : Word) (s : State) (hK : ∀ n ∈ [0x45], ¬K n) (hk : Away K M base s) :
    ResAway K M base (execFlashVerify m v s) := by
  unfold execFlashVerify
  try dsimp only
  repeat' (first
    | with_reducible assumption | with_reducible apply State.begin_away | with_reducible apply State.asWrite_away
    | with_reducible apply State.flashGo_away | with_reducible apply ResAway.next | simp only [Away.mk_iff]
    | (refine Away.pages hK ?_; decide) | (refine Away.pages hK ?_; simp; done) | split | intro _)

theorem execFlashDone_away {K : Nat → Prop} {M : Part → Prop} {base : State} (dev : Bool) (s : State) (hK : ∀ n ∈ [0x06, 0x18, 0x19, 0x38, 0x45], ¬K n) (hM : ∀ p ∈ [.nor], ¬M p) (hk : Away K M base s) :
    ResAway K M base (execFlashDone dev s) := by
  unfold execFlashDone
  try dsimp only
  repeat' (first
    | with_reducible assumption | with_reducible apply State.begin_away | with_reducible apply State.flashEnd_away
    | with_reducible apply State.blockReads_away | with_reducible apply State.add_away
    | with_reducible apply State.norErase_away | with_reducible apply State.norSpoil_away
    | with_reducible apply State.norWrite_away | with_reducible apply Away.ite | with_reducible apply ResAway.ite
    | with_reducible apply ResAway.next | simp only [Away.mk_iff] | (refine Away.pages hK ?_; decide)
    | (refine Away.pages hK ?_; simp; done) | (refine Away.parts hM ?_; decide) | split | intro _)

theorem State.flashBreak_away {K : Nat → Prop} {M : Part → Prop} {base : State} (s : State) (hK : ∀ n ∈ [0x45], ¬K n) (hM : ∀ p ∈ [.nor], ¬M p) (hk : Away K M base s) :
    Away K M base (State.flashBreak s) := by
  unfold State.flashBreak
  try dsimp only
  repeat' (first
    | with_reducible assumption | with_reducible apply State.norSpoil_away | with_reducible apply State.setFld_away
    | with_reducible apply Away.four | simp only [Away.mk_iff] | (refine Away.pages hK ?_; decide)
    | (refine Away.pages hK ?_; simp; done) | (refine Away.parts hM ?_; decide) | split | intro _)

end Sys2Proof.Machine
end

