-- ==== Sys2Proof/Laws/AwayFrame.lean ====
section
/-! SUPPORT. What the operations of Machine/Frame.lean stay away from (Laws/Away.lean). -/
set_option linter.all false
set_option Elab.async false

namespace Sys2Proof.Machine

theorem State.noteConflict_away {K : Nat → Prop} {M : Part → Prop} {base : State} (s : State) (n : Nat) (hK : ∀ n ∈ [0x39], ¬K n) (hk : Away K M base s) :
    Away K M base (State.noteConflict s n) := by
  unfold State.noteConflict
  try dsimp only
  repeat' (first
    | with_reducible assumption | with_reducible apply State.inc_away | with_reducible apply State.irq_away
    | with_reducible apply Away.ite | simp only [Away.mk_iff] | (refine Away.pages hK ?_; decide)
    | (refine Away.pages hK ?_; simp; done) | split | intro _)

theorem State.followSummit_away {K : Nat → Prop} {M : Part → Prop} {base : State} (s : State) (used : Option Commit) (hK : ∀ n ∈ [0x39], ¬K n) (hk : Away K M base s) :
    Away K M base (State.followSummit s used) := by
  unfold State.followSummit
  try dsimp only
  repeat' (first
    | with_reducible assumption | with_reducible apply State.setFld_away | with_reducible apply State.irq_away
    | with_reducible apply Away.ite | with_reducible apply Away.four | simp only [Away.mk_iff]
    | (refine Away.pages hK ?_; decide) | (refine Away.pages hK ?_; simp; done) | split | intro _)

theorem State.hearOther_away {K : Nat → Prop} {M : Part → Prop} {base : State} (s : State) (n : Nat) (hk : Away K M base s) :
    Away K M base (State.hearOther s n) := by
  unfold State.hearOther
  try dsimp only
  repeat' (first
    | with_reducible assumption | with_reducible apply Away.ite | with_reducible apply Away.four
    | simp only [Away.mk_iff] | split | intro _)

theorem State.sendClosed_away {K : Nat → Prop} {M : Part → Prop} {base : State} (s : State) (n : Nat) (hK : ∀ n ∈ [0x23], ¬K n) (hk : Away K M base s) :
    Away K M base (State.sendClosed s n) := by
  unfold State.sendClosed
  try dsimp only
  repeat' (first
    | with_reducible assumption | with_reducible apply State.sendCommit_away | with_reducible apply Away.foldl
    | with_reducible apply Away.foldlFst | simp only [Away.mk_iff] | (refine Away.pages hK ?_; decide)
    | (refine Away.pages hK ?_; simp; done) | split | intro _)

theorem State.becomeSummit_away {K : Nat → Prop} {M : Part → Prop} {base : State} (s : State) (n : Nat) (hK : ∀ n ∈ [0x23, 0x39], ¬K n) (hk : Away K M base s) :
    Away K M base (State.becomeSummit s n) := by
  unfold State.becomeSummit
  try dsimp only
  repeat' (first
    | with_reducible assumption | with_reducible apply State.setFld_away | with_reducible apply State.irq_away
    | with_reducible apply State.sendClosed_away | with_reducible apply Away.four | simp only [Away.mk_iff]
    | (refine Away.pages hK ?_; decide) | (refine Away.pages hK ?_; simp; done) | split | intro _)

theorem State.standbyWatch_away {K : Nat → Prop} {M : Part → Prop} {base : State} (s : State) (n : Nat) (used : Option Commit) (hK : ∀ n ∈ [0x06, 0x23, 0x39], ¬K n) (hk : Away K M base s) :
    Away K M base (State.standbyWatch s n used) := by
  unfold State.standbyWatch
  try dsimp only
  repeat' (first
    | with_reducible assumption | with_reducible apply State.inc_away | with_reducible apply State.record_away
    | with_reducible apply State.becomeSummit_away | with_reducible apply Away.ite | with_reducible apply Away.four
    | simp only [Away.mk_iff] | (refine Away.pages hK ?_; decide) | (refine Away.pages hK ?_; simp; done) | split
    | intro _)

theorem State.noteSwitch_away {K : Nat → Prop} {M : Part → Prop} {base : State} (s : State) (t : Timing) (n : Nat) (used : Option Commit) (hk : Away K M base s) :
    Away K M base (State.noteSwitch s t n used) := by
  unfold State.noteSwitch
  try dsimp only
  repeat' (first
    | with_reducible assumption | with_reducible apply Away.ite | with_reducible apply Away.four
    | simp only [Away.mk_iff] | split | intro _)

theorem State.noteTorn_away {K : Nat → Prop} {M : Part → Prop} {base : State} (s : State) (torn : Option Nat) (hK : ∀ n ∈ [0x06, 0x13], ¬K n) (hk : Away K M base s) :
    Away K M base (State.noteTorn s torn) := by
  unfold State.noteTorn
  try dsimp only
  repeat' (first
    | with_reducible assumption | with_reducible apply State.inc_away | with_reducible apply State.event_away
    | simp only [Away.mk_iff] | (refine Away.pages hK ?_; decide) | (refine Away.pages hK ?_; simp; done) | split
    | intro _)

theorem State.noteLoss_away {K : Nat → Prop} {M : Part → Prop} {base : State} (s : State) (used : Option Commit) (hK : ∀ n ∈ [0x06, 0x13], ¬K n) (hk : Away K M base s) :
    Away K M base (State.noteLoss s used) := by
  unfold State.noteLoss
  try dsimp only
  repeat' (first
    | with_reducible assumption | with_reducible apply State.satInc_away | with_reducible apply State.inc_away
    | with_reducible apply State.event_away | with_reducible apply State.setFlds_away
    | with_reducible apply Away.flds | with_reducible apply State.setFld_away
    | simp only [List.map_cons, List.map_nil] | simp only [Away.mk_iff] | (refine Away.pages hK ?_; decide)
    | (refine Away.pages hK ?_; simp; done) | split | intro _)

theorem State.noteScree_away {K : Nat → Prop} {M : Part → Prop} {base : State} (s : State) (source : Nat) (hK : ∀ n ∈ [0x24], ¬K n) (hk : Away K M base s) :
    Away K M base (State.noteScree s source) := by
  unfold State.noteScree
  try dsimp only
  repeat' (first
    | with_reducible assumption | with_reducible apply State.irq_away | with_reducible apply Away.ite
    | simp only [Away.mk_iff] | (refine Away.pages hK ?_; decide) | (refine Away.pages hK ?_; simp; done) | split
    | intro _)

theorem State.noteScreeUe_away {K : Nat → Prop} {M : Part → Prop} {base : State} (s before : State) (hK : ∀ n ∈ [0x24], ¬K n) (hk : Away K M base s) :
    Away K M base (State.noteScreeUe s before) := by
  unfold State.noteScreeUe
  repeat' (first
    | with_reducible assumption | with_reducible apply State.irq_away | with_reducible apply Away.ite
    | simp only [Away.mk_iff] | (refine Away.pages hK ?_; decide) | (refine Away.pages hK ?_; simp; done) | split
    | intro _)

theorem State.settle_away {K : Nat → Prop} {M : Part → Prop} {base : State} (s : State) (t : Timing) (n : Nat) (hK : ∀ n, ¬K n) (hM : ∀ p ∈ [.store], ¬M p) (hk : Away K M base s) :
    Away K M base (State.settle s t n) := by
  unfold State.settle
  try dsimp only
  repeat' (first
    | with_reducible assumption | with_reducible apply State.noteConflict_away
    | with_reducible apply State.noteLoss_away | with_reducible apply State.hearOther_away
    | with_reducible apply State.followSummit_away | with_reducible apply State.noteSwitch_away
    | with_reducible apply State.noteScree_away | with_reducible apply State.freeBuf_away
    | with_reducible apply State.startBurst_away | with_reducible apply State.noteScreeUe_away
    | with_reducible apply State.belayDue_away | with_reducible apply State.standbyWatch_away
    | with_reducible apply Away.ite | with_reducible apply Away.four | simp only [Away.mk_iff] | exact hK
    | exact fun _ _ => hK _ | (refine Away.parts hM ?_; decide) | split | intro _)

theorem execCommitDue_away {K : Nat → Prop} {M : Part → Prop} {base : State} (n : Nat) (s : State) (hK : ∀ n, ¬K n) (hM : ∀ p ∈ [.store], ¬M p) (hk : Away K M base s) :
    ResAway K M base (execCommitDue n s) := by
  unfold execCommitDue
  try dsimp only
  repeat' (first
    | with_reducible assumption | with_reducible apply State.begin_away | with_reducible apply State.atTime_away
    | with_reducible apply State.settle_away | with_reducible apply Away.ite | with_reducible apply ResAway.ite
    | with_reducible apply ResAway.next | simp only [Away.mk_iff] | exact hK | exact fun _ _ => hK _
    | (refine Away.parts hM ?_; decide) | split | intro _)

theorem State.takeNet_away {K : Nat → Prop} {M : Part → Prop} {base : State} (s : State) (a : Nat) (p : Port) (hK : ∀ n ∈ [0x06, 0x10, 0x11, 0x18, 0x19, 0x38], ¬K n) (hk : Away K M base s) :
    Away K M base (State.takeNet s a p) := by
  unfold State.takeNet
  try dsimp only
  repeat' (first
    | with_reducible assumption | with_reducible apply State.takeSection_away
    | with_reducible apply State.loadRange_away' | with_reducible apply State.dropLink_away
    | with_reducible apply State.startAcquire_away | with_reducible apply State.stopPort_away
    | with_reducible apply Away.ite | simp only [Away.mk_iff] | (refine Away.pages hK ?_; decide)
    | (refine Away.net hK ?_ _; decide) | (refine Away.port hK ?_ _; decide)
    | refine Away.cons (a := _) (l := _ :: _) ?_ ?_
    | (refine Away.pages hK ?_; simp [R.NET_CFG_SPEED, R.NET_CFG_FEC]; done) | split | intro _)

theorem State.takeStrands_away {K : Nat → Prop} {M : Part → Prop} {base : State} (s : State) (a : Nat) (hK : ∀ n ∈ [0x06, 0x18, 0x19, 0x28, 0x29, 0x2A, 0x2B, 0x2C, 0x38], ¬K n) (hk : Away K M base s) :
    Away K M base (State.takeStrands s a) := by
  unfold State.takeStrands
  try dsimp only
  repeat' (first
    | with_reducible assumption | with_reducible apply State.takeSection_away
    | with_reducible apply State.loadRange_away' | with_reducible apply State.releaseGroup_away
    | with_reducible apply Away.ite | with_reducible apply Away.foldl | with_reducible apply Away.foldlFst
    | simp only [Away.mk_iff] | (refine Away.pages hK ?_; decide) | (refine Away.str hK ?_ _; decide)
    | refine Away.cons (a := _) (l := _ :: _) ?_ ?_ | (refine Away.pages hK ?_; simp; done) | split | intro _)

theorem State.takeRailSection_away {K : Nat → Prop} {M : Part → Prop} {base : State} (s : State) (a : Nat) (hK : ∀ n ∈ [0x06, 0x18, 0x19, 0x30, 0x38], ¬K n) (hk : Away K M base s) :
    Away K M base (State.takeRailSection s a) := by
  unfold State.takeRailSection
  try dsimp only
  repeat' (first
    | with_reducible assumption | with_reducible apply State.takeSection_away
    | with_reducible apply State.loadRange_away' | with_reducible apply State.setFld_away | simp only [Away.mk_iff]
    | (refine Away.pages hK ?_; decide) | (refine Away.pages hK ?_; simp; done) | split | intro _)

theorem State.loadMeter_away {K : Nat → Prop} {M : Part → Prop} {base : State} (s : State) (a : Nat) (hK : ∀ n ∈ [0x06, 0x18, 0x19, 0x34, 0x35, 0x36, 0x38], ¬K n) (hk : Away K M base s) :
    Away K M base (State.loadMeter s a) := by
  unfold State.loadMeter
  try dsimp only
  repeat' (first
    | with_reducible assumption | with_reducible apply State.takeSection_away
    | with_reducible apply State.loadRange_away' | simp only [Away.mk_iff] | (refine Away.pages hK ?_; decide)
    | (refine Away.pages hK ?_; simp; done) | split | intro _)

theorem State.meterSource_away {K : Nat → Prop} {M : Part → Prop} {base : State} (s : State) (a : Nat) (hK : ∀ n ∈ [0x36], ¬K n) (hk : Away K M base s) :
    Away K M base (State.meterSource s a) := by
  unfold State.meterSource
  try dsimp only
  repeat' (first
    | with_reducible assumption | with_reducible apply State.setFld_away | with_reducible apply Away.ite
    | simp only [Away.mk_iff] | (refine Away.pages hK ?_; decide) | (refine Away.pages hK ?_; simp; done) | split
    | intro _)

theorem State.takeMeter_away {K : Nat → Prop} {M : Part → Prop} {base : State} (s : State) (a : Nat) (hK : ∀ n ∈ [0x06, 0x18, 0x19, 0x34, 0x35, 0x36, 0x38], ¬K n) (hM : ∀ p ∈ [.mram], ¬M p) (hk : Away K M base s) :
    Away K M base (State.takeMeter s a) := by
  unfold State.takeMeter
  try dsimp only
  repeat' (first
    | with_reducible assumption | with_reducible apply State.loadMeter_away
    | with_reducible apply State.meterSource_away | with_reducible apply State.closeWindows_away
    | with_reducible apply State.meterSwitch_away | with_reducible apply Away.ite | simp only [Away.mk_iff]
    | (refine Away.pages hK ?_; decide) | (refine Away.pages hK ?_; simp; done) | (refine Away.parts hM ?_; decide)
    | split | intro _)

theorem State.takeBank_away {K : Nat → Prop} {M : Part → Prop} {base : State} (s : State) (b : Bank) (hK : ∀ n ∈ [0x06, 0x20, 0x21, 0x22, 0x23], ¬K n) (hk : Away K M base s) :
    Away K M base (State.takeBank s b) := by
  unfold State.takeBank
  try dsimp only
  repeat' (first
    | with_reducible assumption | with_reducible apply State.loadRange_away'
    | with_reducible apply State.fenceBlock_away | with_reducible apply Away.ite | simp only [Away.mk_iff]
    | (refine Away.pages hK ?_; decide) | (refine Away.pages hK ?_; simp; done) | split | intro _)

theorem State.takeSections_away {K : Nat → Prop} {M : Part → Prop} {base : State} (s : State) (a : Nat) (hK : ∀ n ∈ [0x06, 0x10, 0x11, 0x14, 0x18, 0x19, 0x24, 0x28, 0x29, 0x2A, 0x2B, 0x2C, 0x30, 0x34, 0x35, 0x36, 0x38, 0x39], ¬K n) (hM : ∀ p ∈ [.mram], ¬M p) (hk : Away K M base s) :
    Away K M base (State.takeSections s a) := by
  unfold State.takeSections
  try dsimp only
  repeat' (first
    | with_reducible assumption | with_reducible apply State.takeNet_away
    | with_reducible apply State.takeSection_away | with_reducible apply State.loadRange_away'
    | with_reducible apply State.loadWords_away | with_reducible apply State.setFlag_away
    | with_reducible apply State.deriveScree_away | with_reducible apply State.takeStrands_away
    | with_reducible apply State.takeRailSection_away | with_reducible apply State.takeMeter_away
    | with_reducible apply Away.loads | simp only [List.map_cons, List.map_nil] | simp only [Away.mk_iff]
    | (refine Away.pages hK ?_; decide) | (refine Away.str hK ?_ _; decide) | (refine Away.net hK ?_ _; decide)
    | (refine Away.port hK ?_ _; decide) | refine Away.cons (a := _) (l := _ :: _) ?_ ?_
    | (refine Away.pages hK ?_; simp; done) | (refine Away.parts hM ?_; decide) | split | intro _)

theorem State.screeChanged_away {K : Nat → Prop} {M : Part → Prop} {base : State} (s before : State) (hK : ∀ n ∈ [0x38], ¬K n) (hk : Away K M base s) :
    Away K M base (State.screeChanged s before) := by
  unfold State.screeChanged
  try dsimp only
  repeat' (first
    | with_reducible assumption | with_reducible apply State.setFld_away | with_reducible apply Away.ite
    | with_reducible apply Away.four | simp only [Away.mk_iff] | (refine Away.pages hK ?_; decide)
    | (refine Away.pages hK ?_; simp; done) | split | intro _)

theorem State.takeSlot_away {K : Nat → Prop} {M : Part → Prop} {base : State} (s : State) (t : Timing) (k n : Nat) (hK : ∀ n ∈ [0x06, 0x13, 0x18, 0x19, 0x20, 0x23, 0x38], ¬K n) (hk : Away K M base s) :
    Away K M base (State.takeSlot s t k n) := by
  unfold State.takeSlot
  try dsimp only
  repeat' (first
    | with_reducible assumption | with_reducible apply State.loadBank_away
    | with_reducible apply State.setSlotState_away | with_reducible apply Away.ite | with_reducible apply Away.four
    | with_reducible apply State.setFlds_away | with_reducible apply Away.flds
    | with_reducible apply State.setFld_away | simp only [List.map_cons, List.map_nil] | simp only [Away.mk_iff]
    | (refine Away.pages hK ?_; decide) | (refine Away.pages hK ?_; simp; done) | split | intro _)

theorem State.takeBanks_away {K : Nat → Prop} {M : Part → Prop} {base : State} (s : State) (hK : ∀ n ∈ [0x06, 0x20, 0x21, 0x22, 0x23], ¬K n) (hk : Away K M base s) :
    Away K M base (State.takeBanks s) := by
  unfold State.takeBanks
  try dsimp only
  repeat' (first
    | with_reducible assumption | with_reducible apply State.takeBank_away | simp only [Away.mk_iff]
    | (refine Away.pages hK ?_; decide) | (refine Away.pages hK ?_; simp; done) | split | intro _)

theorem State.takeUnits_away {K : Nat → Prop} {M : Part → Prop} {base : State} (s old : State) (k : Nat) (hK : ∀ n ∈ [0x06, 0x10, 0x11, 0x12, 0x14, 0x18, 0x19, 0x20, 0x21, 0x22, 0x23, 0x24, 0x28, 0x29, 0x2A, 0x2B, 0x2C, 0x30, 0x34, 0x35, 0x36, 0x38, 0x39], ¬K n) (hM : ∀ p ∈ [.mram], ¬M p) (hk : Away K M base s) :
    Away K M base (State.takeUnits s old k) := by
  unfold State.takeUnits
  repeat' (first
    | with_reducible assumption | with_reducible apply State.takeSections_away
    | with_reducible apply State.takeBanks_away | with_reducible apply State.takePtp_away
    | with_reducible apply State.takeGovPart_away | simp only [Away.mk_iff] | (refine Away.pages hK ?_; decide)
    | (refine Away.str hK ?_ _; decide) | (refine Away.net hK ?_ _; decide) | (refine Away.port hK ?_ _; decide)
    | refine Away.cons (a := _) (l := _ :: _) ?_ ?_ | (refine Away.pages hK ?_; simp; done)
    | (refine Away.parts hM ?_; decide) | split | intro _)

theorem State.takeEffect_away {K : Nat → Prop} {M : Part → Prop} {base : State} (s : State) (t : Timing) (k n : Nat) (hK : ∀ n ∈ [0x06, 0x10, 0x11, 0x12, 0x13, 0x14, 0x18, 0x19, 0x20, 0x21, 0x22, 0x23, 0x24, 0x28, 0x29, 0x2A, 0x2B, 0x2C, 0x30, 0x34, 0x35, 0x36, 0x38, 0x39], ¬K n) (hM : ∀ p ∈ [.mram], ¬M p) (hk : Away K M base s) :
    Away K M base (State.takeEffect s t k n) := by
  unfold State.takeEffect
  try dsimp only
  repeat' (first
    | with_reducible assumption | with_reducible apply State.takeSlot_away
    | with_reducible apply State.takeUnits_away | with_reducible apply State.switchRail_away
    | with_reducible apply State.screeChanged_away | with_reducible apply State.slotsChanged_away
    | with_reducible apply State.matchAnnounce_away | with_reducible apply State.irq_away
    | with_reducible apply Away.foldl | with_reducible apply Away.foldlFst | simp only [Away.mk_iff]
    | (refine Away.pages hK ?_; decide) | (refine Away.str hK ?_ _; decide) | (refine Away.net hK ?_ _; decide)
    | (refine Away.port hK ?_ _; decide) | refine Away.cons (a := _) (l := _ :: _) ?_ ?_
    | (refine Away.pages hK ?_; simp; done) | (refine Away.parts hM ?_; decide) | split | intro _)

theorem State.retireOld_away {K : Nat → Prop} {M : Part → Prop} {base : State} (s : State) (hK : ∀ n ∈ [0x10, 0x11, 0x13, 0x38, 0x39], ¬K n) (hk : Away K M base s) :
    Away K M base (State.retireOld s) := by
  unfold State.retireOld
  try dsimp only
  repeat' (first
    | with_reducible assumption | with_reducible apply State.setSlotState_away
    | with_reducible apply State.slotsChanged_away | with_reducible apply Away.ite | with_reducible apply Away.four
    | simp only [Away.mk_iff] | (refine Away.pages hK ?_; decide) | (refine Away.net hK ?_ _; decide)
    | (refine Away.port hK ?_ _; decide) | refine Away.cons (a := _) (l := _ :: _) ?_ ?_
    | (refine Away.pages hK ?_; simp; done) | split | intro _)

theorem State.tornUntil_away {K : Nat → Prop} {M : Part → Prop} {base : State} (s : State) (f : Nat) (hk : Away K M base s) :
    Away K M base (State.tornUntil s f) := by
  unfold State.tornUntil
  try dsimp only
  repeat' (first
    | with_reducible assumption | with_reducible apply Away.four | simp only [Away.mk_iff] | split | intro _)

theorem State.applyInstall_away {K : Nat → Prop} {M : Part → Prop} {base : State} (s : State) (t : Timing) (n : Nat) (hK : ∀ n ∈ [0x06, 0x10, 0x11, 0x12, 0x13, 0x14, 0x18, 0x19, 0x20, 0x21, 0x22, 0x23, 0x24, 0x28, 0x29, 0x2A, 0x2B, 0x2C, 0x30, 0x34, 0x35, 0x36, 0x38, 0x39], ¬K n) (hM : ∀ p ∈ [.mram], ¬M p) (hk : Away K M base s) :
    Away K M base (State.applyInstall s t n) := by
  unfold State.applyInstall
  try dsimp only
  repeat' (first
    | with_reducible assumption | with_reducible apply State.installSlots_away
    | with_reducible apply State.takeEffect_away | with_reducible apply State.tornUntil_away
    | with_reducible apply State.dropRepeat_away | with_reducible apply State.slotsChanged_away
    | with_reducible apply State.makeReady_away | with_reducible apply Away.ite | simp only [Away.mk_iff]
    | (refine Away.pages hK ?_; decide) | (refine Away.str hK ?_ _; decide) | (refine Away.net hK ?_ _; decide)
    | (refine Away.port hK ?_ _; decide) | refine Away.cons (a := _) (l := _ :: _) ?_ ?_
    | (refine Away.pages hK ?_; simp; done) | (refine Away.parts hM ?_; decide) | split | intro _)

theorem State.latchEnergy_away {K : Nat → Prop} {M : Part → Prop} {base : State} (s : State) (t : Timing) (n : Nat) (hK : ∀ n ∈ [0x23, 0x35], ¬K n) (hk : Away K M base s) :
    Away K M base (State.latchEnergy s t n) := by
  unfold State.latchEnergy
  try dsimp only
  repeat' (first
    | with_reducible assumption | with_reducible apply State.energyAdd_away
    | with_reducible apply State.govSnapshot_away | with_reducible apply State.meterSnapshot_away
    | with_reducible apply Away.ite | simp only [Away.mk_iff] | (refine Away.pages hK ?_; decide)
    | (refine Away.pages hK ?_; simp; done) | split | intro _)

theorem State.beginSlot_away {K : Nat → Prop} {M : Part → Prop} {base : State} (s : State) (n : Nat) (hK : ∀ n ∈ [0x06, 0x13, 0x2C], ¬K n) (hk : Away K M base s) :
    Away K M base (State.beginSlot s n) := by
  unfold State.beginSlot
  try dsimp only
  repeat' (first
    | with_reducible assumption | with_reducible apply State.setFld_away | with_reducible apply State.setFrame_away
    | with_reducible apply State.noteTorn_away | with_reducible apply Away.ite | with_reducible apply Away.four
    | with_reducible apply State.setFlds_away | with_reducible apply Away.flds
    | with_reducible apply State.setFld_away | simp only [List.map_cons, List.map_nil] | simp only [Away.mk_iff]
    | (refine Away.pages hK ?_; decide) | (refine Away.pages hK ?_; simp; done) | split | intro _)

theorem State.stepOver_away {K : Nat → Prop} {M : Part → Prop} {base : State} (s : State) (t : Timing) (n : Nat) (hK : ∀ n ∈ [0x06, 0x10, 0x11, 0x12, 0x13, 0x14, 0x18, 0x19, 0x20, 0x21, 0x22, 0x23, 0x24, 0x28, 0x29, 0x2A, 0x2B, 0x2C, 0x30, 0x34, 0x35, 0x36, 0x38, 0x39], ¬K n) (hM : ∀ p ∈ [.mram], ¬M p) (hk : Away K M base s) :
    Away K M base (State.stepOver s t n) := by
  unfold State.stepOver
  try dsimp only
  repeat' (first
    | with_reducible assumption | with_reducible apply State.add_away | with_reducible apply State.freeBuf_away
    | with_reducible apply State.takeEffect_away | with_reducible apply Away.ite | with_reducible apply Away.foldl
    | with_reducible apply Away.foldlFst | with_reducible apply Away.four | simp only [Away.mk_iff]
    | (refine Away.pages hK ?_; decide) | (refine Away.str hK ?_ _; decide) | (refine Away.net hK ?_ _; decide)
    | (refine Away.port hK ?_ _; decide) | refine Away.cons (a := _) (l := _ :: _) ?_ ?_
    | (refine Away.pages hK ?_; simp; done) | (refine Away.parts hM ?_; decide) | split | intro _)

theorem State.stepBack_away {K : Nat → Prop} {M : Part → Prop} {base : State} (s : State) (hK : ∀ n ∈ [0x2C], ¬K n) (hk : Away K M base s) :
    Away K M base (State.stepBack s) := by
  unfold State.stepBack
  try dsimp only
  repeat' (first
    | with_reducible assumption | with_reducible apply State.setFld_away | with_reducible apply Away.four
    | simp only [Away.mk_iff] | (refine Away.pages hK ?_; decide) | (refine Away.pages hK ?_; simp; done) | split
    | intro _)

theorem State.roleBoundary_away {K : Nat → Prop} {M : Part → Prop} {base : State} (s : State) (hK : ∀ n ∈ [0x39], ¬K n) (hk : Away K M base s) :
    Away K M base (State.roleBoundary s) := by
  unfold State.roleBoundary
  try dsimp only
  repeat' (first
    | with_reducible assumption | with_reducible apply State.irq_away | with_reducible apply State.setFld_away
    | with_reducible apply Away.ite | with_reducible apply Away.four | with_reducible apply State.setFlds_away
    | with_reducible apply Away.flds | with_reducible apply State.setFld_away
    | simp only [List.map_cons, List.map_nil] | simp only [Away.mk_iff] | (refine Away.pages hK ?_; decide)
    | (refine Away.pages hK ?_; simp; done) | split | intro _)

theorem State.pruneFigures_away {K : Nat → Prop} {M : Part → Prop} {base : State} (s : State) (n : Nat) (hk : Away K M base s) :
    Away K M base (State.pruneFigures s n) := by
  unfold State.pruneFigures
  try dsimp only
  repeat' (first
    | with_reducible assumption | with_reducible apply Away.four | simp only [Away.mk_iff] | split | intro _)

theorem State.mediaGone_away {K : Nat → Prop} {M : Part → Prop} {base : State} (s : State) (gone : Bool) (hK : ∀ n ∈ [0x10, 0x11], ¬K n) (hk : Away K M base s) :
    Away K M base (State.mediaGone s gone) := by
  unfold State.mediaGone
  try dsimp only
  repeat' (first
    | with_reducible assumption | with_reducible apply State.setNet_away
    | with_reducible apply State.rejoinBoth_away | with_reducible apply Away.foldl
    | with_reducible apply Away.foldlFst | with_reducible apply Away.four | simp only [Away.mk_iff]
    | (refine Away.pages hK ?_; decide) | (refine Away.net hK ?_ _; decide) | (refine Away.port hK ?_ _; decide)
    | refine Away.cons (a := _) (l := _ :: _) ?_ ?_ | (refine Away.pages hK ?_; simp; done) | split | intro _)

theorem State.wdtLeft_away {K : Nat → Prop} {M : Part → Prop} {base : State} (s : State) (ms : Nat) (hK : ∀ n ∈ [0x0A], ¬K n) (hk : Away K M base s) :
    Away K M base (State.wdtLeft s ms) := by
  unfold State.wdtLeft
  try dsimp only
  repeat' (first
    | with_reducible assumption | with_reducible apply State.setFld_away | with_reducible apply Away.four
    | simp only [Away.mk_iff] | (refine Away.pages hK ?_; decide) | (refine Away.pages hK ?_; simp; done) | split
    | intro _)

theorem State.resumeRun_away {K : Nat → Prop} {M : Part → Prop} {base : State} (s : State) (lp n : Nat) (hK : ∀ n ∈ [0x02, 0x0A, 0x10, 0x11], ¬K n) (hk : Away K M base s) :
    Away K M base (State.resumeRun s lp n) := by
  unfold State.resumeRun
  try dsimp only
  repeat' (first
    | with_reducible assumption | with_reducible apply State.wdtLeft_away | with_reducible apply State.irq_away
    | with_reducible apply State.railsReturn_away | with_reducible apply State.mediaGone_away
    | with_reducible apply State.startAcquire_away | with_reducible apply Away.four
    | with_reducible apply State.setFlds_away | with_reducible apply Away.flds
    | with_reducible apply State.setFld_away | simp only [List.map_cons, List.map_nil] | simp only [Away.mk_iff]
    | (refine Away.pages hK ?_; decide) | (refine Away.net hK ?_ _; decide) | (refine Away.port hK ?_ _; decide)
    | refine Away.cons (a := _) (l := _ :: _) ?_ ?_ | (refine Away.pages hK ?_; simp; done) | split | intro _)

theorem State.unitsReturn_away {K : Nat → Prop} {M : Part → Prop} {base : State} (s : State) (hK : ∀ n ∈ [0x31], ¬K n) (hk : Away K M base s) :
    Away K M base (State.unitsReturn s) := by
  unfold State.unitsReturn
  try dsimp only
  repeat' (first
    | with_reducible assumption | with_reducible apply State.setFld_away | with_reducible apply Away.foldl
    | with_reducible apply Away.foldlFst | with_reducible apply Away.four | simp only [Away.mk_iff]
    | (refine Away.pages hK ?_; decide) | (refine Away.pages hK ?_; simp; done) | split | intro _)

theorem State.slotBegins_away {K : Nat → Prop} {M : Part → Prop} {base : State} (s : State) (t : Timing) (n : Nat) (hK : ∀ n ∈ [0x06, 0x10, 0x11, 0x12, 0x13, 0x14, 0x18, 0x19, 0x20, 0x21, 0x22, 0x23, 0x24, 0x28, 0x29, 0x2A, 0x2B, 0x2C, 0x30, 0x34, 0x35, 0x36, 0x38, 0x39], ¬K n) (hM : ∀ p ∈ [.mram], ¬M p) (hk : Away K M base s) :
    Away K M base (State.slotBegins s t n) := by
  unfold State.slotBegins
  try dsimp only
  repeat' (first
    | with_reducible assumption | with_reducible apply State.retireOld_away
    | with_reducible apply State.takeEffect_away | with_reducible apply State.matchAnnounce_away
    | with_reducible apply State.applyInstall_away | with_reducible apply State.applyStep_away
    | with_reducible apply State.stepOver_away | with_reducible apply State.beginSlot_away
    | with_reducible apply State.sendFrameCrc_away | with_reducible apply State.skipCrc_away
    | with_reducible apply Away.ite | with_reducible apply Away.four | simp only [Away.mk_iff]
    | (refine Away.pages hK ?_; decide) | (refine Away.str hK ?_ _; decide) | (refine Away.net hK ?_ _; decide)
    | (refine Away.port hK ?_ _; decide) | refine Away.cons (a := _) (l := _ :: _) ?_ ?_
    | (refine Away.pages hK ?_; simp; done) | (refine Away.parts hM ?_; decide) | split | intro _)

theorem State.boundaryTail_away {K : Nat → Prop} {M : Part → Prop} {base : State} (s : State) (t : Timing) (n : Nat) (hK : ∀ n ∈ [0x23, 0x30, 0x31, 0x34, 0x35, 0x38, 0x39], ¬K n) (hk : Away K M base s) :
    Away K M base (State.boundaryTail s t n) := by
  unfold State.boundaryTail
  try dsimp only
  repeat' (first
    | with_reducible assumption | with_reducible apply State.resumeRails_away
    | with_reducible apply State.unitsReturn_away | with_reducible apply State.meterBoundary_away
    | with_reducible apply State.belayBoundary_away | with_reducible apply State.roleBoundary_away
    | with_reducible apply State.pruneFigures_away | with_reducible apply State.startScree_away
    | with_reducible apply Away.ite | simp only [Away.mk_iff] | (refine Away.pages hK ?_; decide)
    | (refine Away.pages hK ?_; simp; done) | split | intro _)

theorem State.boundary_away {K : Nat → Prop} {M : Part → Prop} {base : State} (s : State) (t : Timing) (n : Nat) (hK : ∀ n ∈ [0x02, 0x06, 0x0A, 0x10, 0x11, 0x12, 0x13, 0x14, 0x18, 0x19, 0x20, 0x21, 0x22, 0x23, 0x24, 0x28, 0x29, 0x2A, 0x2B, 0x2C, 0x30, 0x31, 0x34, 0x35, 0x36, 0x38, 0x39], ¬K n) (hM : ∀ p ∈ [.mram], ¬M p) (hk : Away K M base s) :
    Away K M base (State.boundary s t n) := by
  unfold State.boundary
  try dsimp only
  repeat' (first
    | with_reducible assumption | with_reducible apply State.resumeRun_away
    | with_reducible apply State.latchEnergy_away | with_reducible apply State.applyStep_away
    | with_reducible apply State.stepBack_away | with_reducible apply State.boundaryTail_away
    | with_reducible apply State.slotBegins_away | with_reducible apply Away.ite | simp only [Away.mk_iff]
    | (refine Away.pages hK ?_; decide) | (refine Away.str hK ?_ _; decide) | (refine Away.net hK ?_ _; decide)
    | (refine Away.port hK ?_ _; decide) | refine Away.cons (a := _) (l := _ :: _) ?_ ?_
    | (refine Away.pages hK ?_; simp; done) | (refine Away.parts hM ?_; decide) | split | intro _)

theorem execFrameBoundary_away {K : Nat → Prop} {M : Part → Prop} {base : State} (n : Nat) (s : State) (hK : ∀ n ∈ [0x02, 0x06, 0x0A, 0x10, 0x11, 0x12, 0x13, 0x14, 0x18, 0x19, 0x20, 0x21, 0x22, 0x23, 0x24, 0x28, 0x29, 0x2A, 0x2B, 0x2C, 0x30, 0x31, 0x34, 0x35, 0x36, 0x38, 0x39], ¬K n) (hM : ∀ p ∈ [.mram], ¬M p) (hk : Away K M base s) :
    ResAway K M base (execFrameBoundary n s) := by
  unfold execFrameBoundary
  try dsimp only
  repeat' (first
    | with_reducible assumption | with_reducible apply State.begin_away | with_reducible apply State.atTime_away
    | with_reducible apply State.boundary_away | with_reducible apply Away.ite | with_reducible apply ResAway.ite
    | with_reducible apply ResAway.next | simp only [Away.mk_iff] | (refine Away.pages hK ?_; decide)
    | (refine Away.str hK ?_ _; decide) | (refine Away.net hK ?_ _; decide) | (refine Away.port hK ?_ _; decide)
    | refine Away.cons (a := _) (l := _ :: _) ?_ ?_ | (refine Away.pages hK ?_; simp; done)
    | (refine Away.parts hM ?_; decide) | split | intro _)

theorem execListenEnd_away {K : Nat → Prop} {M : Part → Prop} {base : State} (s : State) (hK : ∀ n ∈ [0x23, 0x39], ¬K n) (hk : Away K M base s) :
    ResAway K M base (execListenEnd s) := by
  unfold execListenEnd
  try dsimp only
  repeat' (first
    | with_reducible assumption | with_reducible apply State.begin_away | with_reducible apply State.setFld_away
    | with_reducible apply State.irq_away | with_reducible apply State.becomeSummit_away
    | with_reducible apply Away.ite | with_reducible apply ResAway.ite | with_reducible apply ResAway.next
    | with_reducible apply Away.four | simp only [Away.mk_iff] | (refine Away.pages hK ?_; decide)
    | (refine Away.pages hK ?_; simp; done) | split | intro _)

theorem execBurstEnd_away {K : Nat → Prop} {M : Part → Prop} {base : State} (s : State) (hK : ∀ n ∈ [0x06, 0x18, 0x20, 0x21, 0x38], ¬K n) (hk : Away K M base s) :
    ResAway K M base (execBurstEnd s) := by
  unfold execBurstEnd
  try dsimp only
  repeat' (first
    | with_reducible assumption | with_reducible apply State.begin_away | with_reducible apply State.endBurst_away
    | with_reducible apply State.sendFrameCrc_away | with_reducible apply ResAway.next | simp only [Away.mk_iff]
    | (refine Away.pages hK ?_; decide) | (refine Away.pages hK ?_; simp; done) | split | intro _)

theorem State.abortGroup_away {K : Nat → Prop} {M : Part → Prop} {base : State} (s : State) (g n : Nat) (hK : ∀ n ∈ [0x2C], ¬K n) (hk : Away K M base s) :
    Away K M base (State.abortGroup s g n) := by
  unfold State.abortGroup
  try dsimp only
  repeat' (first
    | with_reducible assumption | with_reducible apply State.abortSlot_away | with_reducible apply Away.ite
    | with_reducible apply Away.foldl | with_reducible apply Away.foldlFst | simp only [Away.mk_iff]
    | (refine Away.pages hK ?_; decide) | (refine Away.pages hK ?_; simp; done) | split | intro _)

theorem State.stopLane_away {K : Nat → Prop} {M : Part → Prop} {base : State} (s : State) (b : Burst) (g : Nat) (hK : ∀ n ∈ [0x06, 0x20, 0x2C], ¬K n) (hk : Away K M base s) :
    Away K M base (State.stopLane s b g) := by
  unfold State.stopLane
  try dsimp only
  repeat' (first
    | with_reducible assumption | with_reducible apply State.setBit_away | with_reducible apply State.inc_away
    | with_reducible apply State.irq_away | with_reducible apply State.fence_away
    | with_reducible apply State.abortGroup_away | with_reducible apply Away.ite | with_reducible apply Away.four
    | simp only [Away.mk_iff] | (refine Away.pages hK ?_; decide) | (refine Away.pages hK ?_; simp; done) | split
    | intro _)

theorem execLaneResidueMismatch_away {K : Nat → Prop} {M : Part → Prop} {base : State} (g : Nat) (s : State) (hK : ∀ n ∈ [0x06, 0x18, 0x20, 0x21, 0x2C, 0x38], ¬K n) (hk : Away K M base s) :
    ResAway K M base (execLaneResidueMismatch g s) := by
  unfold execLaneResidueMismatch
  try dsimp only
  repeat' (first
    | with_reducible assumption | with_reducible apply State.begin_away | with_reducible apply State.stopLane_away
    | with_reducible apply State.endBurst_away | with_reducible apply State.sendFrameCrc_away
    | with_reducible apply Away.ite | with_reducible apply ResAway.ite | with_reducible apply ResAway.next
    | with_reducible apply Away.four | simp only [Away.mk_iff] | (refine Away.pages hK ?_; decide)
    | (refine Away.pages hK ?_; simp; done) | split | intro _)

end Sys2Proof.Machine
end

