-- ==== Sys2Proof/Laws/AwayPwr.lean ====
section
/-! SUPPORT. What the operations of Machine/Pwr.lean stay away from (Laws/Away.lean). -/
set_option linter.all false
set_option Elab.async false

namespace Sys2Proof.Machine

theorem State.setPwr_away {K : Nat → Prop} {M : Part → Prop} {base : State} (s : State) (x : PwrS) (hk : Away K M base s) :
    Away K M base (State.setPwr s x) := by
  unfold State.setPwr
  try dsimp only
  repeat' (first
    | with_reducible assumption | with_reducible apply Away.four | simp only [Away.mk_iff] | split | intro _)

theorem State.followVio_away {K : Nat → Prop} {M : Part → Prop} {base : State} (s : State) (hk : Away K M base s) :
    Away K M base (State.followVio s) := by
  unfold State.followVio
  try dsimp only
  repeat' (first
    | with_reducible assumption | with_reducible apply Away.ite | with_reducible apply Away.four
    | simp only [Away.mk_iff] | split | intro _)

theorem State.setSupplies_away {K : Nat → Prop} {M : Part → Prop} {base : State} (s : State) (v3p3 v1p8 : Bool) (hk : Away K M base s) :
    Away K M base (State.setSupplies s v3p3 v1p8) := by
  unfold State.setSupplies
  try dsimp only
  repeat' (first
    | with_reducible assumption | with_reducible apply State.followVio_away | with_reducible apply Away.four
    | simp only [Away.mk_iff] | split | intro _)

theorem execRestEnter_away {K : Nat → Prop} {M : Part → Prop} {base : State} (s : State) (hK : ∀ n ∈ [0x02], ¬K n) (hk : Away K M base s) :
    ResAway K M base (execRestEnter s) := by
  unfold execRestEnter
  try dsimp only
  repeat' (first
    | with_reducible assumption | with_reducible apply State.begin_away | with_reducible apply State.irq_away
    | with_reducible apply Away.ite | with_reducible apply ResAway.ite | with_reducible apply ResAway.next
    | with_reducible apply Away.four | with_reducible apply State.setFlds_away | with_reducible apply Away.flds
    | with_reducible apply State.setFld_away | simp only [List.map_cons, List.map_nil] | simp only [Away.mk_iff]
    | (refine Away.pages hK ?_; decide) | (refine Away.pages hK ?_; simp; done) | split | intro _)

theorem execRestExit_away {K : Nat → Prop} {M : Part → Prop} {base : State} (s : State) (hK : ∀ n ∈ [0x02], ¬K n) (hk : Away K M base s) :
    ResAway K M base (execRestExit s) := by
  unfold execRestExit
  try dsimp only
  repeat' (first
    | with_reducible assumption | with_reducible apply State.begin_away | with_reducible apply State.irq_away
    | with_reducible apply Away.ite | with_reducible apply ResAway.ite | with_reducible apply ResAway.next
    | with_reducible apply Away.four | with_reducible apply State.setFlds_away | with_reducible apply Away.flds
    | with_reducible apply State.setFld_away | simp only [List.map_cons, List.map_nil] | simp only [Away.mk_iff]
    | (refine Away.pages hK ?_; decide) | (refine Away.pages hK ?_; simp; done) | split | intro _)

theorem State.pwrEnds_away {K : Nat → Prop} {M : Part → Prop} {base : State} (s : State) (result : Nat) (hK : ∀ n ∈ [0x02], ¬K n) (hk : Away K M base s) :
    Away K M base (State.pwrEnds s result) := by
  unfold State.pwrEnds
  try dsimp only
  repeat' (first
    | with_reducible assumption | with_reducible apply State.setPwr_away | with_reducible apply Away.four
    | with_reducible apply State.setFlds_away | with_reducible apply Away.flds
    | with_reducible apply State.setFld_away | simp only [List.map_cons, List.map_nil] | simp only [Away.mk_iff]
    | (refine Away.pages hK ?_; decide) | (refine Away.pages hK ?_; simp; done) | split | intro _)

theorem State.pwrAsk_away {K : Nat → Prop} {M : Part → Prop} {base : State} (s : State) (t : Nat) (hK : ∀ n ∈ [0x34, 0x35, 0x36], ¬K n) (hM : ∀ p ∈ [.mram, .ret], ¬M p) (hk : Away K M base s) :
    Away K M base (State.pwrAsk s t) := by
  unfold State.pwrAsk
  try dsimp only
  repeat' (first
    | with_reducible assumption | with_reducible apply State.saveDue_away
    | with_reducible apply State.urgentFlush_away | with_reducible apply Away.ite | with_reducible apply Away.four
    | with_reducible apply Away.fourMem | simp only [Away.mk_iff]
    | (intro (p : Part) hp; cases p <;> first | exact absurd hp (hM _ (by decide)) | (simp only [Mems.part, State.drawn_mem]; done))
    | (refine Away.pages hK ?_; decide) | (refine Away.pages hK ?_; simp; done) | (refine Away.parts hM ?_; decide)
    | split | intro _)

theorem State.startReturn_away {K : Nat → Prop} {M : Part → Prop} {base : State} (s : State) (hk : Away K M base s) :
    Away K M base (State.startReturn s) := by
  unfold State.startReturn
  try dsimp only
  repeat' (first
    | with_reducible assumption | with_reducible apply State.setPwr_away | with_reducible apply Away.four
    | simp only [Away.mk_iff] | split | intro _)

theorem execPowerStateRequest_away {K : Nat → Prop} {M : Part → Prop} {base : State} (m : Master) (v : Word) (s : State) (hK : ∀ n ∈ [0x02, 0x34, 0x35, 0x36], ¬K n) (hM : ∀ p ∈ [.mram, .ret], ¬M p) (hk : Away K M base s) :
    ResAway K M base (execPowerStateRequest m v s) := by
  unfold execPowerStateRequest
  try dsimp only
  repeat' (first
    | with_reducible assumption | with_reducible apply State.begin_away | with_reducible apply State.asArmed_away
    | with_reducible apply State.inc_away | with_reducible apply State.setFld_away
    | with_reducible apply State.setPwr_away | with_reducible apply State.startReturn_away
    | with_reducible apply State.pwrAsk_away | with_reducible apply Away.ite | with_reducible apply ResAway.ite
    | with_reducible apply ResAway.next | with_reducible apply Away.four | with_reducible apply State.setFlds_away
    | with_reducible apply Away.flds | with_reducible apply State.setFld_away
    | simp only [List.map_cons, List.map_nil] | simp only [Away.mk_iff] | (refine Away.pages hK ?_; decide)
    | (refine Away.pages hK ?_; simp; done) | (refine Away.parts hM ?_; decide) | split | intro _)

theorem execPowerHandshakeAccepted_away {K : Nat → Prop} {M : Part → Prop} {base : State} (s : State) (hK : ∀ n ∈ [0x01, 0x02], ¬K n) (hk : Away K M base s) :
    ResAway K M base (execPowerHandshakeAccepted s) := by
  unfold execPowerHandshakeAccepted
  try dsimp only
  repeat' (first
    | with_reducible assumption | with_reducible apply State.begin_away | with_reducible apply State.setPwr_away
    | with_reducible apply State.setFld_away | with_reducible apply State.drawn_away | with_reducible apply Away.ite
    | with_reducible apply ResAway.ite | with_reducible apply ResAway.next | with_reducible apply Away.four
    | with_reducible apply State.setFlds_away | with_reducible apply Away.flds
    | with_reducible apply State.setFld_away | simp only [List.map_cons, List.map_nil] | simp only [Away.mk_iff]
    | (refine Away.pages hK ?_; decide) | (refine Away.pages hK ?_; simp; done) | split | intro _)

theorem execPowerHandshakeRefused_away {K : Nat → Prop} {M : Part → Prop} {base : State} (s : State) (hK : ∀ n ∈ [0x02], ¬K n) (hk : Away K M base s) :
    ResAway K M base (execPowerHandshakeRefused s) := by
  unfold execPowerHandshakeRefused
  try dsimp only
  repeat' (first
    | with_reducible assumption | with_reducible apply State.begin_away | with_reducible apply State.pwrEnds_away
    | with_reducible apply State.inc_away | with_reducible apply State.irq_away | with_reducible apply Away.ite
    | with_reducible apply ResAway.ite | with_reducible apply ResAway.next | with_reducible apply State.setFlds_away
    | with_reducible apply Away.flds | with_reducible apply State.setFld_away
    | simp only [List.map_cons, List.map_nil] | simp only [Away.mk_iff] | (refine Away.pages hK ?_; decide)
    | (refine Away.pages hK ?_; simp; done) | split | intro _)

theorem execPowerHandshakeTimeout_away {K : Nat → Prop} {M : Part → Prop} {base : State} (s : State) (hK : ∀ n ∈ [0x02], ¬K n) (hk : Away K M base s) :
    ResAway K M base (execPowerHandshakeTimeout s) := by
  unfold execPowerHandshakeTimeout
  try dsimp only
  repeat' (first
    | with_reducible assumption | with_reducible apply State.begin_away | with_reducible apply State.pwrEnds_away
    | with_reducible apply State.inc_away | with_reducible apply State.irq_away | with_reducible apply Away.ite
    | with_reducible apply ResAway.ite | with_reducible apply ResAway.next | simp only [Away.mk_iff]
    | (refine Away.pages hK ?_; decide) | (refine Away.pages hK ?_; simp; done) | split | intro _)

theorem State.setClocks_away {K : Nat → Prop} {M : Part → Prop} {base : State} (s : State) (mask : Nat) (hK : ∀ n ∈ [0x03], ¬K n) (hk : Away K M base s) :
    Away K M base (State.setClocks s mask) := by
  unfold State.setClocks
  repeat' (first
    | with_reducible assumption | with_reducible apply Away.four | with_reducible apply State.setFlds_away
    | with_reducible apply Away.flds | with_reducible apply State.setFld_away
    | simp only [List.map_cons, List.map_nil] | simp only [Away.mk_iff] | (refine Away.pages hK ?_; decide)
    | (refine Away.pages hK ?_; simp; done) | split | intro _)

theorem State.railsOff_away {K : Nat → Prop} {M : Part → Prop} {base : State} (s : State) (hK : ∀ n ∈ [0x30], ¬K n) (hk : Away K M base s) :
    Away K M base (State.railsOff s) := by
  unfold State.railsOff
  try dsimp only
  repeat' (first
    | with_reducible assumption | with_reducible apply State.releaseRails_away
    | with_reducible apply State.showRails_away | with_reducible apply Away.four | simp only [Away.mk_iff]
    | (refine Away.pages hK ?_; decide) | (refine Away.pages hK ?_; simp; done) | split | intro _)

theorem State.entryStep_away {K : Nat → Prop} {M : Part → Prop} {base : State} (s : State) (t k : Nat) (hK : ∀ n ∈ [0x02, 0x03, 0x10, 0x11, 0x2C, 0x30, 0x38], ¬K n) (hk : Away K M base s) :
    Away K M base (State.entryStep s t k) := by
  unfold State.entryStep
  try dsimp only
  repeat' (first
    | with_reducible assumption | with_reducible apply State.setPwr_away | with_reducible apply State.dropLead_away
    | with_reducible apply State.releaseRails_away | with_reducible apply State.releasePorts_away
    | with_reducible apply State.mediaGone_away | with_reducible apply State.railsOff_away
    | with_reducible apply State.setClocks_away | with_reducible apply State.setFld_away
    | with_reducible apply State.stopPort_away | with_reducible apply Away.ite | with_reducible apply Away.foldl
    | with_reducible apply Away.foldlFst | with_reducible apply Away.four | simp only [Away.mk_iff]
    | (refine Away.pages hK ?_; decide) | (refine Away.net hK ?_ _; decide) | (refine Away.port hK ?_ _; decide)
    | refine Away.cons (a := _) (l := _ :: _) ?_ ?_
    | (refine Away.pages hK ?_; simp [R.PWR_CFG_BIV_PORT, R.PWR_RESULT_AP, R.PWR_RETSIG_CRC]; done) | split
    | intro _)

theorem State.undoPorts_away {K : Nat → Prop} {M : Part → Prop} {base : State} (s : State) (k : Nat) (whole : Bool) (hK : ∀ n ∈ [0x10, 0x11], ¬K n) (hk : Away K M base s) :
    Away K M base (State.undoPorts s k whole) := by
  unfold State.undoPorts
  repeat' (first
    | with_reducible assumption | with_reducible apply State.startAcquire_away | with_reducible apply Away.ite
    | simp only [Away.mk_iff] | (refine Away.pages hK ?_; decide) | (refine Away.net hK ?_ _; decide)
    | (refine Away.port hK ?_ _; decide) | refine Away.cons (a := _) (l := _ :: _) ?_ ?_
    | (refine Away.pages hK ?_; simp; done) | split | intro _)

theorem State.undoSelfRefresh_away {K : Nat → Prop} {M : Part → Prop} {base : State} (s : State) (k : Nat) (hk : Away K M base s) :
    Away K M base (State.undoSelfRefresh s k) := by
  unfold State.undoSelfRefresh
  try dsimp only
  repeat' (first
    | with_reducible assumption | with_reducible apply Away.ite | with_reducible apply Away.four
    | simp only [Away.mk_iff] | split | intro _)

theorem State.undoClocks_away {K : Nat → Prop} {M : Part → Prop} {base : State} (s : State) (k : Nat) (whole : Bool) (hK : ∀ n ∈ [0x03], ¬K n) (hk : Away K M base s) :
    Away K M base (State.undoClocks s k whole) := by
  unfold State.undoClocks
  repeat' (first
    | with_reducible assumption | with_reducible apply State.setClocks_away | with_reducible apply Away.ite
    | simp only [Away.mk_iff] | (refine Away.pages hK ?_; decide) | (refine Away.pages hK ?_; simp; done) | split
    | intro _)

theorem State.undoRails_away {K : Nat → Prop} {M : Part → Prop} {base : State} (s : State) (k : Nat) (whole : Bool) (hk : Away K M base s) :
    Away K M base (State.undoRails s k whole) := by
  unfold State.undoRails
  repeat' (first
    | with_reducible assumption | with_reducible apply State.railsReturn_away | with_reducible apply Away.ite
    | simp only [Away.mk_iff] | split | intro _)

theorem State.undoMeter_away {K : Nat → Prop} {M : Part → Prop} {base : State} (s : State) (hk : Away K M base s) :
    Away K M base (State.undoMeter s) := by
  unfold State.undoMeter
  try dsimp only
  repeat' (first
    | with_reducible assumption | with_reducible apply Away.four | simp only [Away.mk_iff] | split | intro _)

theorem State.undoMedia_away {K : Nat → Prop} {M : Part → Prop} {base : State} (s : State) (k : Nat) (whole : Bool) (hK : ∀ n ∈ [0x10, 0x11], ¬K n) (hk : Away K M base s) :
    Away K M base (State.undoMedia s k whole) := by
  unfold State.undoMedia
  repeat' (first
    | with_reducible assumption | with_reducible apply State.mediaGone_away
    | with_reducible apply State.undoMeter_away | with_reducible apply Away.ite | simp only [Away.mk_iff]
    | (refine Away.pages hK ?_; decide) | (refine Away.net hK ?_ _; decide) | (refine Away.port hK ?_ _; decide)
    | refine Away.cons (a := _) (l := _ :: _) ?_ ?_ | (refine Away.pages hK ?_; simp; done) | split | intro _)

theorem State.undoLead_away {K : Nat → Prop} {M : Part → Prop} {base : State} (s : State) (hK : ∀ n ∈ [0x38], ¬K n) (hk : Away K M base s) :
    Away K M base (State.undoLead s) := by
  unfold State.undoLead
  try dsimp only
  repeat' (first
    | with_reducible assumption | with_reducible apply State.setFld_away | with_reducible apply Away.ite
    | with_reducible apply Away.four | simp only [Away.mk_iff] | (refine Away.pages hK ?_; decide)
    | (refine Away.pages hK ?_; simp; done) | split | intro _)

theorem State.abandonEntry_away {K : Nat → Prop} {M : Part → Prop} {base : State} (s : State) (hK : ∀ n ∈ [0x02, 0x03, 0x10, 0x11, 0x38], ¬K n) (hk : Away K M base s) :
    Away K M base (State.abandonEntry s) := by
  unfold State.abandonEntry
  try dsimp only
  repeat' (first
    | with_reducible assumption | with_reducible apply State.undoPorts_away
    | with_reducible apply State.undoSelfRefresh_away | with_reducible apply State.undoClocks_away
    | with_reducible apply State.undoRails_away | with_reducible apply State.undoMedia_away
    | with_reducible apply State.undoLead_away | with_reducible apply State.pwrEnds_away
    | with_reducible apply State.inc_away | with_reducible apply State.irq_away | with_reducible apply Away.ite
    | simp only [Away.mk_iff] | (refine Away.pages hK ?_; decide) | (refine Away.net hK ?_ _; decide)
    | (refine Away.port hK ?_ _; decide) | refine Away.cons (a := _) (l := _ :: _) ?_ ?_
    | (refine Away.pages hK ?_; simp; done) | split | intro _)

end Sys2Proof.Machine
end

