-- ==== Sys2Proof/Laws/AwayRtc.lean ====
section
/-! SUPPORT. What the operations of Machine/Rtc.lean stay away from (Laws/Away.lean). -/
set_option linter.all false
set_option Elab.async false

namespace Sys2Proof.Machine

theorem State.setS_away {K : Nat → Prop} {M : Part → Prop} {base : State} (s : State) (v : Nat) (hK : ∀ n ∈ [0x05], ¬K n) (hk : Away K M base s) :
    Away K M base (State.setS s v) := by
  unfold State.setS
  repeat' (first
    | with_reducible assumption | with_reducible apply Away.four | with_reducible apply State.setFlds_away
    | with_reducible apply Away.flds | with_reducible apply State.setFld_away
    | simp only [List.map_cons, List.map_nil] | simp only [Away.mk_iff] | (refine Away.pages hK ?_; decide)
    | (refine Away.pages hK ?_; simp; done) | split | intro _)

theorem State.setAlmT_away {K : Nat → Prop} {M : Part → Prop} {base : State} (s : State) (k v : Nat) (hK : ∀ n ∈ [0x05], ¬K n) (hk : Away K M base s) :
    Away K M base (State.setAlmT s k v) := by
  unfold State.setAlmT
  repeat' (first
    | with_reducible assumption | with_reducible apply Away.four | with_reducible apply State.setFlds_away
    | with_reducible apply Away.flds | with_reducible apply State.setFld_away
    | simp only [List.map_cons, List.map_nil] | simp only [Away.mk_iff] | (refine Away.pages hK ?_; decide)
    | (refine Away.pages hK ?_; simp [R.RTC_ALM_LO_T_LO, R.RTC_ALM_HI_T_HI]; done) | split | intro _)

theorem State.almFire_away {K : Nat → Prop} {M : Part → Prop} {base : State} (s : State) (k steps : Nat) (skipped : Bool) (hK : ∀ n ∈ [0x05], ¬K n) (hk : Away K M base s) :
    Away K M base (State.almFire s k steps skipped) := by
  unfold State.almFire
  try dsimp only
  repeat' (first
    | with_reducible assumption | with_reducible apply State.setBit_away | with_reducible apply State.irq_away
    | with_reducible apply State.setFld_away | with_reducible apply State.setAlmT_away
    | with_reducible apply Away.ite | simp only [Away.mk_iff] | (refine Away.pages hK ?_; decide)
    | (refine Away.pages hK ?_; simp [R.RTC_ALM_CTRL_PERIOD_S, R.RTC_ALM_STAT_FIRED, R.RTC_ALM_STAT_SKIPPED, R.RTC_ALM_CTRL_DONE]; done)
    | split | intro _)

theorem State.almAdjust_away {K : Nat → Prop} {M : Part → Prop} {base : State} (s : State) (a b k : Nat) (hK : ∀ n ∈ [0x05], ¬K n) (hk : Away K M base s) :
    Away K M base (State.almAdjust s a b k) := by
  unfold State.almAdjust
  try dsimp only
  repeat' (first
    | with_reducible assumption | with_reducible apply State.almFire_away | with_reducible apply State.setFld_away
    | with_reducible apply State.setAlmT_away | with_reducible apply Away.ite | simp only [Away.mk_iff]
    | (refine Away.pages hK ?_; decide)
    | (refine Away.pages hK ?_; simp [R.RTC_ALM_CTRL_PERIOD_S, R.RTC_ALM_CTRL_REARM_BACK, R.RTC_ALM_CTRL_DONE, R.RTC_ALM_CTRL_EN]; done)
    | split | intro _)

theorem State.countTo_away {K : Nat → Prop} {M : Part → Prop} {base : State} (s : State) (v : Nat) (hK : ∀ n ∈ [0x05], ¬K n) (hk : Away K M base s) :
    Away K M base (State.countTo s v) := by
  unfold State.countTo
  try dsimp only
  repeat' (first
    | with_reducible assumption | with_reducible apply State.setS_away | with_reducible apply State.setFld_away
    | with_reducible apply State.almFire_away | with_reducible apply Away.ite | with_reducible apply Away.foldl
    | with_reducible apply Away.foldlFst | simp only [Away.mk_iff] | (refine Away.pages hK ?_; decide)
    | (refine Away.pages hK ?_; simp; done) | split | intro _)

theorem State.adjust_away {K : Nat → Prop} {M : Part → Prop} {base : State} (s : State) (a old b cause : Nat) (step : Bool) (hK : ∀ n ∈ [0x05, 0x06], ¬K n) (hM : ∀ p ∈ [.mram, .ret], ¬M p) (hk : Away K M base s) :
    Away K M base (State.adjust s a old b cause step) := by
  unfold State.adjust
  try dsimp only
  repeat' (first
    | with_reducible assumption | with_reducible apply State.cairnOld_away | with_reducible apply State.setS_away
    | with_reducible apply State.almAdjust_away | with_reducible apply State.irq_away
    | with_reducible apply State.cairnStep_away | with_reducible apply Away.ite | with_reducible apply Away.foldl
    | with_reducible apply Away.foldlFst | with_reducible apply State.setFlds_away | with_reducible apply Away.flds
    | with_reducible apply State.setFld_away | simp only [List.map_cons, List.map_nil] | simp only [Away.mk_iff]
    | (refine Away.pages hK ?_; decide) | (refine Away.pages hK ?_; simp; done) | (refine Away.parts hM ?_; decide)
    | split | intro _)

theorem State.applySet_away {K : Nat → Prop} {M : Part → Prop} {base : State} (s : State) (v cause : Nat) (hK : ∀ n ∈ [0x04, 0x05, 0x06], ¬K n) (hM : ∀ p ∈ [.mram, .ret], ¬M p) (hk : Away K M base s) :
    Away K M base (State.applySet s v cause) := by
  unfold State.applySet
  try dsimp only
  repeat' (first
    | with_reducible assumption | with_reducible apply State.adjust_away | with_reducible apply State.setFld_away
    | with_reducible apply Away.ite | simp only [Away.mk_iff] | (refine Away.pages hK ?_; decide)
    | (refine Away.pages hK ?_; simp; done) | (refine Away.parts hM ?_; decide) | split | intro _)

theorem execRtcSet_away {K : Nat → Prop} {M : Part → Prop} {base : State} (m : Master) (value : Word) (s : State) (hK : ∀ n ∈ [0x04, 0x05, 0x06], ¬K n) (hM : ∀ p ∈ [.mram, .ret], ¬M p) (hk : Away K M base s) :
    ResAway K M base (execRtcSet m value s) := by
  unfold execRtcSet
  try dsimp only
  repeat' (first
    | with_reducible assumption | with_reducible apply State.begin_away | with_reducible apply State.asWrite_away
    | with_reducible apply State.setFlag_away | with_reducible apply State.setFld_away
    | with_reducible apply State.applySet_away | with_reducible apply Away.ite | with_reducible apply ResAway.ite
    | with_reducible apply ResAway.next | with_reducible apply ResAway.fault | with_reducible apply Away.four
    | with_reducible apply State.setFlds_away | with_reducible apply Away.flds
    | with_reducible apply State.setFld_away | simp only [List.map_cons, List.map_nil] | simp only [Away.mk_iff]
    | (refine Away.pages hK ?_; decide) | (refine Away.pages hK ?_; simp; done) | (refine Away.parts hM ?_; decide)
    | split | intro _)

theorem execRtcSetAtPtpApply_away {K : Nat → Prop} {M : Part → Prop} {base : State} (s : State) (hK : ∀ n ∈ [0x04, 0x05, 0x06], ¬K n) (hM : ∀ p ∈ [.mram, .ret], ¬M p) (hk : Away K M base s) :
    ResAway K M base (execRtcSetAtPtpApply s) := by
  unfold execRtcSetAtPtpApply
  try dsimp only
  repeat' (first
    | with_reducible assumption | with_reducible apply State.begin_away | with_reducible apply State.setFld_away
    | with_reducible apply State.applySet_away | with_reducible apply ResAway.next | with_reducible apply Away.four
    | simp only [Away.mk_iff] | (refine Away.pages hK ?_; decide) | (refine Away.pages hK ?_; simp; done)
    | (refine Away.parts hM ?_; decide) | split | intro _)

theorem State.dstCommand_away {K : Nat → Prop} {M : Part → Prop} {base : State} (s : State) (add clear : Bool) (hK : ∀ n ∈ [0x05], ¬K n) (hk : Away K M base s) :
    Away K M base (State.dstCommand s add clear) := by
  unfold State.dstCommand
  try dsimp only
  repeat' (first
    | with_reducible assumption | with_reducible apply State.setFld_away | with_reducible apply State.add_away
    | with_reducible apply Away.ite | with_reducible apply Away.four | simp only [Away.mk_iff]
    | (refine Away.pages hK ?_; decide) | (refine Away.pages hK ?_; simp; done) | split | intro _)

theorem execRtcDstAdd_away {K : Nat → Prop} {M : Part → Prop} {base : State} (m : Master) (clear : Bool) (s : State) (hK : ∀ n ∈ [0x05], ¬K n) (hk : Away K M base s) :
    ResAway K M base (execRtcDstAdd m clear s) := by
  unfold execRtcDstAdd
  try dsimp only
  repeat' (first
    | with_reducible assumption | with_reducible apply State.begin_away | with_reducible apply State.asWrite_away
    | with_reducible apply State.dstCommand_away | with_reducible apply ResAway.next | simp only [Away.mk_iff]
    | (refine Away.pages hK ?_; decide) | (refine Away.pages hK ?_; simp; done) | split | intro _)

theorem execRtcDstSub_away {K : Nat → Prop} {M : Part → Prop} {base : State} (m : Master) (clear : Bool) (s : State) (hK : ∀ n ∈ [0x05], ¬K n) (hk : Away K M base s) :
    ResAway K M base (execRtcDstSub m clear s) := by
  unfold execRtcDstSub
  try dsimp only
  repeat' (first
    | with_reducible assumption | with_reducible apply State.begin_away | with_reducible apply State.asWrite_away
    | with_reducible apply State.dstCommand_away | with_reducible apply ResAway.next | simp only [Away.mk_iff]
    | (refine Away.pages hK ?_; decide) | (refine Away.pages hK ?_; simp; done) | split | intro _)

theorem State.rtcSecond_away {K : Nat → Prop} {M : Part → Prop} {base : State} (s : State) (hK : ∀ n ∈ [0x05, 0x06], ¬K n) (hM : ∀ p ∈ [.mram, .ret], ¬M p) (hk : Away K M base s) :
    Away K M base (State.rtcSecond s) := by
  unfold State.rtcSecond
  try dsimp only
  repeat' (first
    | with_reducible assumption | with_reducible apply State.countTo_away | with_reducible apply State.add_away
    | with_reducible apply State.setFld_away | with_reducible apply State.setFlag_away
    | with_reducible apply State.adjust_away | with_reducible apply State.irq_away | with_reducible apply Away.ite
    | with_reducible apply Away.four | simp only [Away.mk_iff] | (refine Away.pages hK ?_; decide)
    | (refine Away.pages hK ?_; simp; done) | (refine Away.parts hM ?_; decide) | split | intro _)

theorem execRtcDstApply_away {K : Nat → Prop} {M : Part → Prop} {base : State} (s : State) (hK : ∀ n ∈ [0x05, 0x06], ¬K n) (hM : ∀ p ∈ [.mram, .ret], ¬M p) (hk : Away K M base s) :
    ResAway K M base (execRtcDstApply s) := by
  unfold execRtcDstApply
  try dsimp only
  repeat' (first
    | with_reducible assumption | with_reducible apply State.begin_away | with_reducible apply State.setFld_away
    | with_reducible apply State.rtcSecond_away | with_reducible apply Away.ite | with_reducible apply ResAway.ite
    | with_reducible apply ResAway.next | simp only [Away.mk_iff] | (refine Away.pages hK ?_; decide)
    | (refine Away.pages hK ?_; simp; done) | (refine Away.parts hM ?_; decide) | split | intro _)

theorem execRtcAlarmFire_away {K : Nat → Prop} {M : Part → Prop} {base : State} (k : Nat) (s : State) (hK : ∀ n ∈ [0x05], ¬K n) (hk : Away K M base s) :
    ResAway K M base (execRtcAlarmFire k s) := by
  unfold execRtcAlarmFire
  try dsimp only
  repeat' (first
    | with_reducible assumption | with_reducible apply State.begin_away | with_reducible apply State.setFld_away
    | with_reducible apply State.countTo_away | with_reducible apply Away.ite | with_reducible apply ResAway.ite
    | with_reducible apply ResAway.next | simp only [Away.mk_iff] | (refine Away.pages hK ?_; decide)
    | (refine Away.pages hK ?_; simp; done) | split | intro _)

theorem execRtcEndOfRange_away {K : Nat → Prop} {M : Part → Prop} {base : State} (s : State) (hK : ∀ n ∈ [0x05], ¬K n) (hk : Away K M base s) :
    ResAway K M base (execRtcEndOfRange s) := by
  unfold execRtcEndOfRange
  try dsimp only
  repeat' (first
    | with_reducible assumption | with_reducible apply State.begin_away | with_reducible apply State.setFld_away
    | with_reducible apply State.countTo_away | with_reducible apply Away.ite | with_reducible apply ResAway.ite
    | with_reducible apply ResAway.next | simp only [Away.mk_iff] | (refine Away.pages hK ?_; decide)
    | (refine Away.pages hK ?_; simp; done) | split | intro _)

theorem State.rtcEdge_away {K : Nat → Prop} {M : Part → Prop} {base : State} (s : State) (hK : ∀ n ∈ [0x05, 0x06], ¬K n) (hM : ∀ p ∈ [.mram, .ret], ¬M p) (hk : Away K M base s) :
    Away K M base (State.rtcEdge s) := by
  unfold State.rtcEdge
  try dsimp only
  repeat' (first
    | with_reducible assumption | with_reducible apply State.add_away | with_reducible apply State.setFld_away
    | with_reducible apply State.rtcSecond_away | with_reducible apply Away.ite | with_reducible apply Away.four
    | simp only [Away.mk_iff] | (refine Away.pages hK ?_; decide) | (refine Away.pages hK ?_; simp; done)
    | (refine Away.parts hM ?_; decide) | split | intro _)

theorem execRtcTrimWindow_away {K : Nat → Prop} {M : Part → Prop} {base : State} (tStart tEnd : Nat) (locked : Bool) (s : State) (hK : ∀ n ∈ [0x05], ¬K n) (hk : Away K M base s) :
    ResAway K M base (execRtcTrimWindow tStart tEnd locked s) := by
  unfold execRtcTrimWindow
  try dsimp only
  repeat' (first
    | with_reducible assumption | with_reducible apply State.begin_away | with_reducible apply State.setFld_away
    | with_reducible apply State.satInc_away | with_reducible apply State.irq_away | with_reducible apply Away.ite
    | with_reducible apply ResAway.ite | with_reducible apply ResAway.next | with_reducible apply Away.four
    | simp only [Away.mk_iff] | (refine Away.pages hK ?_; decide) | (refine Away.pages hK ?_; simp; done) | split
    | intro _)

theorem execBackupSwitchover_away {K : Nat → Prop} {M : Part → Prop} {base : State} (toVbat : Bool) (s : State) (hK : ∀ n ∈ [0x04], ¬K n) (hk : Away K M base s) :
    ResAway K M base (execBackupSwitchover toVbat s) := by
  unfold execBackupSwitchover
  try dsimp only
  repeat' (first
    | with_reducible assumption | with_reducible apply State.begin_away | with_reducible apply State.setFld_away
    | with_reducible apply Away.ite | with_reducible apply ResAway.ite | with_reducible apply ResAway.next
    | with_reducible apply Away.four | simp only [Away.mk_iff] | (refine Away.pages hK ?_; decide)
    | (refine Away.pages hK ?_; simp; done) | split | intro _)

theorem State.rtcInvalid_away {K : Nat → Prop} {M : Part → Prop} {base : State} (s : State) (hK : ∀ n ∈ [0x05, 0x06], ¬K n) (hM : ∀ p ∈ [.mram, .ret], ¬M p) (hk : Away K M base s) :
    Away K M base (State.rtcInvalid s) := by
  unfold State.rtcInvalid
  try dsimp only
  repeat' (first
    | with_reducible assumption | with_reducible apply State.intervalEnd_away | with_reducible apply Away.ite
    | with_reducible apply State.setFlds_away | with_reducible apply Away.flds
    | with_reducible apply State.setFld_away | simp only [List.map_cons, List.map_nil] | simp only [Away.mk_iff]
    | (refine Away.pages hK ?_; decide) | (refine Away.pages hK ?_; simp; done) | (refine Away.parts hM ?_; decide)
    | split | intro _)

theorem execBackupSupplyLost_away {K : Nat → Prop} {M : Part → Prop} {base : State} (s : State) (hK : ∀ n ∈ [0x04, 0x05, 0x06, 0x40], ¬K n) (hM : ∀ p ∈ [.bk, .mram, .ret], ¬M p) (hk : Away K M base s) :
    ResAway K M base (execBackupSupplyLost s) := by
  unfold execBackupSupplyLost
  try dsimp only
  repeat' (first
    | with_reducible assumption | with_reducible apply State.begin_away | with_reducible apply State.rtcInvalid_away
    | with_reducible apply State.clearFlds_away | with_reducible apply ResAway.next
    | (refine Away.clrs hK ?_; decide) | with_reducible apply Away.four | with_reducible apply Away.fourMem
    | with_reducible apply State.setFlds_away | with_reducible apply Away.flds
    | with_reducible apply State.setFld_away | simp only [List.map_cons, List.map_nil] | simp only [Away.mk_iff]
    | (intro (p : Part) hp; cases p <;> first | exact absurd hp (hM _ (by decide)) | (simp only [Mems.part, State.drawn_mem]; done))
    | (refine Away.pages hK ?_; decide)
    | (refine Away.pages hK ?_; simp [R.RTC_ALM_LO, R.RTC_ALM_HI, R.RTC_ALM_CTRL, R.RTC_TRIM, R.RTC_DISC, R.RTC_DST, R.RTC_ALM_STAT, R.RTC_SET_CTRL_PENDING, R.ANCHOR_TAMPER_STAT_LATCHED, R.ANCHOR_TAMPER_STAT_UNPOWERED, R.ANCHOR_TAMPER_STAT_SOURCE, R.ANCHOR_TAMPER_TIME_SEC, R.AON_BKSTAT_OSC_FAIL, R.AON_BKSTAT_ON_VBAT, R.AON_BO_SEC_SEC, R.AON_BKSTAT_BO_VALID, R.AON_BKSTAT_LOST]; done)
    | (refine Away.parts hM ?_; decide) | split | intro _)

theorem execRtcOscFail_away {K : Nat → Prop} {M : Part → Prop} {base : State} (s : State) (hK : ∀ n ∈ [0x04, 0x05, 0x06], ¬K n) (hM : ∀ p ∈ [.mram, .ret], ¬M p) (hk : Away K M base s) :
    ResAway K M base (execRtcOscFail s) := by
  unfold execRtcOscFail
  repeat' (first
    | with_reducible assumption | with_reducible apply State.begin_away | with_reducible apply State.setFld_away
    | with_reducible apply State.rtcInvalid_away | with_reducible apply State.irq_away
    | with_reducible apply ResAway.next | simp only [Away.mk_iff] | (refine Away.pages hK ?_; decide)
    | (refine Away.pages hK ?_; simp; done) | (refine Away.parts hM ?_; decide) | split | intro _)

theorem execVbatMeasure_away {K : Nat → Prop} {M : Part → Prop} {base : State} (mv : Nat) (s : State) (hK : ∀ n ∈ [0x04], ¬K n) (hk : Away K M base s) :
    ResAway K M base (execVbatMeasure mv s) := by
  unfold execVbatMeasure
  try dsimp only
  repeat' (first
    | with_reducible assumption | with_reducible apply State.begin_away | with_reducible apply State.setFld_away
    | with_reducible apply State.irq_away | with_reducible apply Away.ite | with_reducible apply ResAway.ite
    | with_reducible apply ResAway.next | simp only [Away.mk_iff] | (refine Away.pages hK ?_; decide)
    | (refine Away.pages hK ?_; simp; done) | split | intro _)

theorem State.latchBrownout_away {K : Nat → Prop} {M : Part → Prop} {base : State} (s : State) (hK : ∀ n ∈ [0x04], ¬K n) (hk : Away K M base s) :
    Away K M base (State.latchBrownout s) := by
  unfold State.latchBrownout
  repeat' (first
    | with_reducible assumption | with_reducible apply Away.ite | with_reducible apply State.setFlds_away
    | with_reducible apply Away.flds | with_reducible apply State.setFld_away
    | simp only [List.map_cons, List.map_nil] | simp only [Away.mk_iff] | (refine Away.pages hK ?_; decide)
    | (refine Away.pages hK ?_; simp; done) | split | intro _)

end Sys2Proof.Machine
end

