-- ==== Sys2Proof/Laws/AwayReset.lean ====
section
/-! SUPPORT. What the operations of Machine/Reset.lean stay away from (Laws/Away.lean). -/
set_option linter.all false
set_option Elab.async false

namespace Sys2Proof.Machine

theorem State.setRst_away {K : Nat → Prop} {M : Part → Prop} {base : State} (s : State) (x : RstS) (hk : Away K M base s) :
    Away K M base (State.setRst s x) := by
  unfold State.setRst
  try dsimp only
  repeat' (first
    | with_reducible assumption | with_reducible apply Away.four | simp only [Away.mk_iff] | split | intro _)

theorem State.putRecord_away {K : Nat → Prop} {M : Part → Prop} {base : State} (s : State) (scope cause detail rtc ns flags : Nat) (hK : ∀ n ∈ [0x01], ¬K n) (hM : ∀ p ∈ [.ret], ¬M p) (hk : Away K M base s) :
    Away K M base (State.putRecord s scope cause detail rtc ns flags) := by
  unfold State.putRecord
  try dsimp only
  repeat' (first
    | with_reducible assumption | with_reducible apply Away.four | with_reducible apply Away.fourMem
    | with_reducible apply State.setFlds_away | with_reducible apply Away.flds
    | with_reducible apply State.setFld_away | simp only [List.map_cons, List.map_nil] | simp only [Away.mk_iff]
    | (intro (p : Part) hp; cases p <;> first | exact absurd hp (hM _ (by decide)) | (simp only [Mems.part, State.drawn_mem]; done))
    | (refine Away.pages hK ?_; decide) | (refine Away.pages hK ?_; simp; done) | (refine Away.parts hM ?_; decide)
    | split | intro _)

theorem State.noteReset_away {K : Nat → Prop} {M : Part → Prop} {base : State} (s : State) (scope cause detail : Nat) (hK : ∀ n ∈ [0x01], ¬K n) (hM : ∀ p ∈ [.ret], ¬M p) (hk : Away K M base s) :
    Away K M base (State.noteReset s scope cause detail) := by
  unfold State.noteReset
  repeat' (first
    | with_reducible assumption | with_reducible apply State.putRecord_away | with_reducible apply Away.four
    | simp only [Away.mk_iff] | (refine Away.pages hK ?_; decide) | (refine Away.pages hK ?_; simp; done)
    | (refine Away.parts hM ?_; decide) | split | intro _)

theorem State.fresh_away {K : Nat → Prop} {M : Part → Prop} {base : State} (s : State) (keep : Nat → Bool) (ret : Bytes) (rst : RstS)
    (hK : ∀ n, ¬K n) (hM : ∀ p ∈ [.bk, .mram, .nor, .ret, .sram, .store, .tcm], ¬M p) (hk : Away K M base s) :
    Away K M base (State.fresh s keep ret rst) := by
  unfold State.fresh
  dsimp only
  apply State.setFlds_away _ _ (fun e _ => hK _)
  simp only [Away.mk_iff]
  refine ⟨fun x => ⟨mapWf_filter _ _ _ (hk.1 x).1, fun q _ hq => absurd hq (hK q)⟩, fun p hp => ?_⟩
  cases p <;> exact absurd hp (hM _ (by decide))

theorem State.strapRegion_away {K : Nat → Prop} {M : Part → Prop} {base : State} (s : State) (hK : ∀ n ∈ [0x00], ¬K n) (hk : Away K M base s) :
    Away K M base (State.strapRegion s) := by
  unfold State.strapRegion
  try dsimp only
  repeat' (first
    | with_reducible assumption | with_reducible apply State.setFld_away | with_reducible apply Away.ite
    | simp only [Away.mk_iff] | (refine Away.pages hK ?_; decide) | (refine Away.pages hK ?_; simp; done) | split
    | intro _)

theorem State.assertCold_away {K : Nat → Prop} {M : Part → Prop} {base : State} (s : State) (cause : Nat) (hK : ∀ n, ¬K n) (hM : ∀ p ∈ [.bk, .mram, .nor, .ret, .sram, .store, .tcm], ¬M p) (hk : Away K M base s) :
    Away K M base (State.assertCold s cause) := by
  unfold State.assertCold
  try dsimp only
  repeat' (first
    | with_reducible assumption | with_reducible apply State.fresh_away | with_reducible apply Away.four
    | with_reducible apply State.setFlds_away | with_reducible apply Away.flds
    | with_reducible apply State.setFld_away | simp only [List.map_cons, List.map_nil] | simp only [Away.mk_iff]
    | exact hK | exact fun _ _ => hK _ | (refine Away.parts hM ?_; decide) | split | intro _)

theorem State.assertSystem_away {K : Nat → Prop} {M : Part → Prop} {base : State} (s : State) (cause detail : Nat) (hK : ∀ n, ¬K n) (hM : ∀ p ∈ [.bk, .mram, .nor, .ret, .sram, .store, .tcm], ¬M p) (hk : Away K M base s) :
    Away K M base (State.assertSystem s cause detail) := by
  unfold State.assertSystem
  try dsimp only
  repeat' (first
    | with_reducible assumption | with_reducible apply State.noteReset_away
    | with_reducible apply State.setSupplies_away | with_reducible apply State.fresh_away
    | with_reducible apply State.inc_away | with_reducible apply State.strapRegion_away | simp only [Away.mk_iff]
    | exact hK | exact fun _ _ => hK _ | (refine Away.parts hM ?_; decide) | split | intro _)

theorem State.wipePage_away {K : Nat → Prop} {M : Part → Prop} {base : State} (s : State) (p : Nat) (hK : ∀ n ∈ [p], ¬K n) (hk : Away K M base s) :
    Away K M base (State.wipePage s p) := by
  unfold State.wipePage
  try dsimp only
  repeat' (first
    | with_reducible assumption | with_reducible apply State.clearPage_away | with_reducible apply Away.four
    | simp only [Away.mk_iff] | (refine Away.pages hK ?_; decide) | (refine Away.pages hK ?_; simp; done) | split
    | intro _)

theorem State.resetControl_away {K : Nat → Prop} {M : Part → Prop} {base : State} (s : State) (p : Nat) (hK : ∀ n ∈ [0x3C, 0x40, 0x44, 0x45, p], ¬K n) (hM : ∀ p ∈ [.nor], ¬M p) (hk : Away K M base s) :
    Away K M base (State.resetControl s p) := by
  have hKc : ∀ n ∈ [0x3C, 0x40, 0x44, 0x45], ¬K n := Away.pages hK (by
    intro n hn; simp only [List.mem_cons, List.not_mem_nil, or_false] at hn ⊢; omega)
  unfold State.resetControl
  try dsimp only
  repeat' (first
    | with_reducible assumption | with_reducible apply State.wipePage_away | with_reducible apply State.setSide_away
    | with_reducible apply State.setReg_away | with_reducible apply State.updBreak_away
    | with_reducible apply State.closeTransfer_away | with_reducible apply State.flashBreak_away
    | with_reducible apply Away.ite | with_reducible apply Away.four | with_reducible apply State.setFlds_away
    | with_reducible apply Away.flds | with_reducible apply State.setFld_away
    | simp only [List.map_cons, List.map_nil] | simp only [Away.mk_iff] | (refine Away.pages hKc ?_; decide)
    | refine Away.cons (a := _) (l := _ :: _) ?_ ?_ | (refine Away.pages hK ?_; simp; done)
    | (refine Away.parts hM ?_; decide) | split | intro _)

theorem State.resetDisplay_away {K : Nat → Prop} {M : Part → Prop} {base : State} (s : State) (p : Nat) (hK : ∀ n, ¬K n) (hM : ∀ p ∈ [.bk, .mram, .nor, .ret, .sram, .store, .tcm], ¬M p) (hk : Away K M base s) :
    Away K M base (State.resetDisplay s p) := by
  unfold State.resetDisplay
  try dsimp only
  repeat' (first
    | with_reducible assumption | with_reducible apply State.wipePage_away
    | with_reducible apply State.releaseGroup_away | with_reducible apply State.fresh_away
    | with_reducible apply State.railsOff_away | with_reducible apply State.closeWithSave_away
    | with_reducible apply State.loadRange_away' | with_reducible apply State.releasePop_away
    | with_reducible apply State.setFld_away | with_reducible apply Away.ite | with_reducible apply Away.four
    | simp only [Away.mk_iff] | exact hK | exact fun _ _ => hK _ | (refine Away.parts hM ?_; decide) | split
    | intro _)

theorem State.assertWarm_away {K : Nat → Prop} {M : Part → Prop} {base : State} (s : State) (cause detail : Nat) (hK : ∀ n, ¬K n) (hM : ∀ p ∈ [.mram, .nor, .ret], ¬M p) (hk : Away K M base s) :
    Away K M base (State.assertWarm s cause detail) := by
  unfold State.assertWarm
  try dsimp only
  repeat' (first
    | with_reducible assumption | with_reducible apply State.abandonEntry_away
    | with_reducible apply State.noteReset_away | with_reducible apply State.inc_away
    | with_reducible apply State.resetControl_away | with_reducible apply State.telemWarm_away
    | with_reducible apply State.pfSave_away | with_reducible apply Away.ite | with_reducible apply Away.foldl
    | with_reducible apply Away.foldlFst | with_reducible apply Away.four | simp only [Away.mk_iff] | exact hK
    | exact fun _ _ => hK _ | (refine Away.parts hM ?_; decide) | split | intro _)

theorem State.absorbReset_away {K : Nat → Prop} {M : Part → Prop} {base : State} (s : State) (hK : ∀ n ∈ [0x01], ¬K n) (hk : Away K M base s) :
    Away K M base (State.absorbReset s) := by
  unfold State.absorbReset
  repeat' (first
    | with_reducible assumption | with_reducible apply State.inc_away | with_reducible apply State.irq_away
    | with_reducible apply Away.four | simp only [Away.mk_iff] | (refine Away.pages hK ?_; decide)
    | (refine Away.pages hK ?_; simp; done) | split | intro _)

theorem State.systemNow_away {K : Nat → Prop} {M : Part → Prop} {base : State} (s : State) (cause detail : Nat) (hK : ∀ n, ¬K n) (hM : ∀ p ∈ [.bk, .mram, .nor, .ret, .sram, .store, .tcm], ¬M p) (hk : Away K M base s) :
    Away K M base (State.systemNow s cause detail) := by
  unfold State.systemNow
  repeat' (first
    | with_reducible assumption | with_reducible apply State.absorbReset_away
    | with_reducible apply State.assertSystem_away | with_reducible apply Away.ite | simp only [Away.mk_iff]
    | exact hK | exact fun _ _ => hK _ | (refine Away.parts hM ?_; decide) | split | intro _)

theorem State.systemSaved_away {K : Nat → Prop} {M : Part → Prop} {base : State} (s : State) (cause detail : Nat) (hK : ∀ n, ¬K n) (hM : ∀ p ∈ [.bk, .mram, .nor, .ret, .sram, .store, .tcm], ¬M p) (hk : Away K M base s) :
    Away K M base (State.systemSaved s cause detail) := by
  unfold State.systemSaved
  try dsimp only
  repeat' (first
    | with_reducible assumption | with_reducible apply State.absorbReset_away
    | with_reducible apply State.assertSystem_away | with_reducible apply State.setRst_away
    | with_reducible apply State.saveDue_away | with_reducible apply Away.ite | with_reducible apply Away.four
    | simp only [Away.mk_iff] | exact hK | exact fun _ _ => hK _ | (refine Away.parts hM ?_; decide) | split
    | intro _)

theorem State.warmNow_away {K : Nat → Prop} {M : Part → Prop} {base : State} (s : State) (cause detail : Nat) (hK : ∀ n, ¬K n) (hM : ∀ p ∈ [.mram, .nor, .ret], ¬M p) (hk : Away K M base s) :
    Away K M base (State.warmNow s cause detail) := by
  unfold State.warmNow
  repeat' (first
    | with_reducible assumption | with_reducible apply State.absorbReset_away
    | with_reducible apply State.assertWarm_away | with_reducible apply Away.ite | simp only [Away.mk_iff]
    | exact hK | exact fun _ _ => hK _ | (refine Away.parts hM ?_; decide) | split | intro _)

theorem execMeterSaveDone_away {K : Nat → Prop} {M : Part → Prop} {base : State} (ok : Bool) (s : State) (hK : ∀ n, ¬K n) (hM : ∀ p ∈ [.bk, .mram, .nor, .ret, .sram, .store, .tcm], ¬M p) (hk : Away K M base s) :
    ResAway K M base (execMeterSaveDone ok s) := by
  unfold execMeterSaveDone
  try dsimp only
  repeat' (first
    | with_reducible assumption | with_reducible apply State.begin_away | with_reducible apply State.saveDone_away
    | with_reducible apply State.setRst_away | with_reducible apply State.assertSystem_away
    | with_reducible apply Away.ite | with_reducible apply ResAway.ite | with_reducible apply ResAway.next
    | with_reducible apply Away.four | simp only [Away.mk_iff] | exact hK | exact fun _ _ => hK _
    | (refine Away.parts hM ?_; decide) | split | intro _)

theorem State.resetReq_away {K : Nat → Prop} {M : Part → Prop} {base : State} (s : State) (v : Word) (hK : ∀ n ∈ [0x01], ¬K n) (hk : Away K M base s) :
    ResAway K M base (State.resetReq s v) := by
  unfold State.resetReq
  try dsimp only
  repeat' (first
    | with_reducible assumption | with_reducible apply State.setRst_away | with_reducible apply Away.ite
    | with_reducible apply ResAway.ite | with_reducible apply ResAway.next | with_reducible apply ResAway.fault
    | with_reducible apply Away.four | with_reducible apply State.setFlds_away | with_reducible apply Away.flds
    | with_reducible apply State.setFld_away | simp only [List.map_cons, List.map_nil] | simp only [Away.mk_iff]
    | (refine Away.pages hK ?_; decide) | (refine Away.pages hK ?_; simp; done) | split | intro _)

theorem execResetRequest_away {K : Nat → Prop} {M : Part → Prop} {base : State} (m : Master) (v : Word) (s : State) (hK : ∀ n ∈ [0x01], ¬K n) (hk : Away K M base s) :
    ResAway K M base (execResetRequest m v s) := by
  unfold execResetRequest
  try dsimp only
  repeat' (first
    | with_reducible assumption | with_reducible apply State.begin_away | with_reducible apply State.asArmed_away
    | with_reducible apply State.resetReq_away | with_reducible apply ResAway.next | with_reducible apply Away.four
    | simp only [Away.mk_iff] | (refine Away.pages hK ?_; decide) | (refine Away.pages hK ?_; simp; done) | split
    | intro _)

theorem execResetRequestCancel_away {K : Nat → Prop} {M : Part → Prop} {base : State} (m : Master) (v : Word) (s : State) (hK : ∀ n ∈ [0x01], ¬K n) (hk : Away K M base s) :
    ResAway K M base (execResetRequestCancel m v s) := by
  unfold execResetRequestCancel
  try dsimp only
  repeat' (first
    | with_reducible assumption | with_reducible apply State.begin_away | with_reducible apply State.asArmed_away
    | with_reducible apply State.resetReq_away | with_reducible apply ResAway.next | with_reducible apply Away.four
    | simp only [Away.mk_iff] | (refine Away.pages hK ?_; decide) | (refine Away.pages hK ?_; simp; done) | split
    | intro _)

theorem execResetRequestDelayExpiry_away {K : Nat → Prop} {M : Part → Prop} {base : State} (s : State) (hK : ∀ n, ¬K n) (hM : ∀ p ∈ [.bk, .mram, .nor, .ret, .sram, .store, .tcm], ¬M p) (hk : Away K M base s) :
    ResAway K M base (execResetRequestDelayExpiry s) := by
  unfold execResetRequestDelayExpiry
  try dsimp only
  repeat' (first
    | with_reducible assumption | with_reducible apply State.begin_away
    | with_reducible apply State.systemSaved_away | with_reducible apply State.warmNow_away
    | with_reducible apply Away.ite | with_reducible apply ResAway.ite | with_reducible apply ResAway.next
    | with_reducible apply Away.four | with_reducible apply State.setFlds_away | with_reducible apply Away.flds
    | with_reducible apply State.setFld_away | simp only [List.map_cons, List.map_nil] | simp only [Away.mk_iff]
    | exact hK | exact fun _ _ => hK _ | (refine Away.parts hM ?_; decide) | split | intro _)

theorem execResetPinLow_away {K : Nat → Prop} {M : Part → Prop} {base : State} (s : State) (hK : ∀ n, ¬K n) (hM : ∀ p ∈ [.bk, .mram, .nor, .ret, .sram, .store, .tcm], ¬M p) (hk : Away K M base s) :
    ResAway K M base (execResetPinLow s) := by
  unfold execResetPinLow
  try dsimp only
  repeat' (first
    | with_reducible assumption | with_reducible apply State.begin_away
    | with_reducible apply State.assertSystem_away | with_reducible apply Away.ite
    | with_reducible apply ResAway.ite | with_reducible apply ResAway.next | with_reducible apply Away.four
    | simp only [Away.mk_iff] | exact hK | exact fun _ _ => hK _ | (refine Away.parts hM ?_; decide) | split
    | intro _)

theorem execResetDriveEnd_away {K : Nat → Prop} {M : Part → Prop} {base : State} (s : State) (hk : Away K M base s) :
    ResAway K M base (execResetDriveEnd s) := by
  unfold execResetDriveEnd
  try dsimp only
  repeat' (first
    | with_reducible assumption | with_reducible apply State.begin_away | with_reducible apply State.setRst_away
    | with_reducible apply Away.ite | with_reducible apply ResAway.ite | with_reducible apply ResAway.next
    | with_reducible apply Away.four | simp only [Away.mk_iff] | split | intro _)

theorem State.raiseOut_away {K : Nat → Prop} {M : Part → Prop} {base : State} (s : State) (hK : ∀ n ∈ [0x01], ¬K n) (hk : Away K M base s) :
    Away K M base (State.raiseOut s) := by
  unfold State.raiseOut
  try dsimp only
  repeat' (first
    | with_reducible assumption | with_reducible apply State.setFld_away | with_reducible apply Away.four
    | simp only [Away.mk_iff] | (refine Away.pages hK ?_; decide) | (refine Away.pages hK ?_; simp; done) | split
    | intro _)

theorem execRstOutWrite_away {K : Nat → Prop} {M : Part → Prop} {base : State} (m : Master) (v : Word) (s : State) (hK : ∀ n ∈ [0x01], ¬K n) (hk : Away K M base s) :
    ResAway K M base (execRstOutWrite m v s) := by
  unfold execRstOutWrite
  try dsimp only
  repeat' (first
    | with_reducible assumption | with_reducible apply State.begin_away | with_reducible apply State.asWrite_away
    | with_reducible apply State.setFlag_away | with_reducible apply State.setRst_away
    | with_reducible apply State.setFld_away | with_reducible apply State.raiseOut_away
    | with_reducible apply Away.ite | with_reducible apply ResAway.ite | with_reducible apply ResAway.next
    | with_reducible apply Away.four | simp only [Away.mk_iff] | (refine Away.pages hK ?_; decide)
    | (refine Away.pages hK ?_; simp; done) | split | intro _)

theorem execRstOutMinExpiry_away {K : Nat → Prop} {M : Part → Prop} {base : State} (s : State) (hK : ∀ n ∈ [0x01], ¬K n) (hk : Away K M base s) :
    ResAway K M base (execRstOutMinExpiry s) := by
  unfold execRstOutMinExpiry
  try dsimp only
  repeat' (first
    | with_reducible assumption | with_reducible apply State.begin_away | with_reducible apply State.setRst_away
    | with_reducible apply State.raiseOut_away | with_reducible apply Away.ite | with_reducible apply ResAway.ite
    | with_reducible apply ResAway.next | with_reducible apply Away.four | simp only [Away.mk_iff]
    | (refine Away.pages hK ?_; decide) | (refine Away.pages hK ?_; simp; done) | split | intro _)

theorem State.startPage_away {K : Nat → Prop} {M : Part → Prop} {base : State} (s : State) (p : Nat) (hK : ∀ n ∈ [0x06, 0x34, 0x35, 0x36, 0x40], ¬K n) (hM : ∀ p ∈ [.mram], ¬M p) (hk : Away K M base s) :
    Away K M base (State.startPage s p) := by
  unfold State.startPage
  try dsimp only
  repeat' (first
    | with_reducible assumption | with_reducible apply State.anchorStart_away
    | with_reducible apply State.cairnStart_away | with_reducible apply State.meterRestart_away
    | with_reducible apply Away.ite | with_reducible apply Away.four | simp only [Away.mk_iff]
    | (refine Away.pages hK ?_; decide) | (refine Away.pages hK ?_; simp; done) | (refine Away.parts hM ?_; decide)
    | split | intro _)

theorem State.releasePage_away {K : Nat → Prop} {M : Part → Prop} {base : State} (s : State) (p : Nat) (hK : ∀ n ∈ [0x01, 0x06, 0x34, 0x35, 0x36, 0x40], ¬K n) (hM : ∀ p ∈ [.mram], ¬M p) (hk : Away K M base s) :
    Away K M base (State.releasePage s p) := by
  unfold State.releasePage
  try dsimp only
  repeat' (first
    | with_reducible assumption | with_reducible apply State.setRst_away | with_reducible apply State.setBit_away
    | with_reducible apply State.startPage_away | with_reducible apply Away.four | simp only [Away.mk_iff]
    | (refine Away.pages hK ?_; decide) | (refine Away.pages hK ?_; simp [R.RST_HELD_HELD]; done)
    | (refine Away.parts hM ?_; decide) | split | intro _)

theorem State.releaseHarts_away {K : Nat → Prop} {M : Part → Prop} {base : State} (s : State) (recOk : Bool) (hK : ∀ n ∈ [0x44], ¬K n) (hM : ∀ p ∈ [.mram, .sram, .tcm], ¬M p) (hk : Away K M base s) :
    Away K M base (State.releaseHarts s recOk) := by
  unfold State.releaseHarts
  try dsimp only
  repeat' (first
    | with_reducible assumption | with_reducible apply State.bootChoose_away | with_reducible apply Away.four
    | with_reducible apply Away.fourMem | simp only [Away.mk_iff]
    | (intro (p : Part) hp; cases p <;> first | exact absurd hp (hM _ (by decide)) | (simp only [Mems.part, State.drawn_mem]; done))
    | (refine Away.pages hK ?_; decide) | (refine Away.pages hK ?_; simp; done) | (refine Away.parts hM ?_; decide)
    | split | intro _)

theorem State.releaseAll_away {K : Nat → Prop} {M : Part → Prop} {base : State} (s : State) (late : List Nat) (recOk : Bool) (hK : ∀ n ∈ [0x01, 0x03, 0x06, 0x34, 0x35, 0x36, 0x40, 0x44], ¬K n) (hM : ∀ p ∈ [.mram, .sram, .tcm], ¬M p) (hk : Away K M base s) :
    Away K M base (State.releaseAll s late recOk) := by
  unfold State.releaseAll
  try dsimp only
  repeat' (first
    | with_reducible assumption | with_reducible apply State.releasePage_away
    | with_reducible apply State.setClocks_away | with_reducible apply State.releaseHarts_away
    | with_reducible apply Away.foldl | with_reducible apply Away.foldlFst | simp only [Away.mk_iff]
    | (refine Away.pages hK ?_; decide) | (refine Away.pages hK ?_; simp; done) | (refine Away.parts hM ?_; decide)
    | split | intro _)

theorem State.foundLost_away {K : Nat → Prop} {M : Part → Prop} {base : State} (s : State) (hK : ∀ n ∈ [0x04, 0x06], ¬K n) (hk : Away K M base s) :
    Away K M base (State.foundLost s) := by
  unfold State.foundLost
  try dsimp only
  repeat' (first
    | with_reducible assumption | with_reducible apply State.event_away | with_reducible apply Away.ite
    | with_reducible apply Away.four | simp only [Away.mk_iff] | (refine Away.pages hK ?_; decide)
    | (refine Away.pages hK ?_; simp; done) | split | intro _)

theorem execResetRelease_away {K : Nat → Prop} {M : Part → Prop} {base : State} (late : List Nat) (recOk : Bool) (s : State) (hK : ∀ n ∈ [0x00, 0x01, 0x03, 0x04, 0x06, 0x34, 0x35, 0x36, 0x40, 0x44], ¬K n) (hM : ∀ p ∈ [.mram, .ret, .sram, .tcm], ¬M p) (hk : Away K M base s) :
    ResAway K M base (execResetRelease late recOk s) := by
  unfold execResetRelease
  try dsimp only
  repeat' (first
    | with_reducible assumption | with_reducible apply State.begin_away | with_reducible apply State.setRst_away
    | with_reducible apply State.putRecord_away | with_reducible apply State.strapRegion_away
    | with_reducible apply State.foundLost_away | with_reducible apply State.releaseAll_away
    | with_reducible apply Away.ite | with_reducible apply ResAway.ite | with_reducible apply ResAway.next
    | with_reducible apply Away.four | with_reducible apply Away.fourMem | simp only [Away.mk_iff]
    | (intro (p : Part) hp; cases p <;> first | exact absurd hp (hM _ (by decide)) | (simp only [Mems.part, State.drawn_mem]; done))
    | (refine Away.pages hK ?_; decide) | (refine Away.pages hK ?_; simp; done) | (refine Away.parts hM ?_; decide)
    | split | intro _)

theorem execWarmResetRelease_away {K : Nat → Prop} {M : Part → Prop} {base : State} (recOk : Bool) (s : State) (hK : ∀ n ∈ [0x01, 0x06, 0x34, 0x35, 0x36, 0x40, 0x44], ¬K n) (hM : ∀ p ∈ [.mram, .sram, .tcm], ¬M p) (hk : Away K M base s) :
    ResAway K M base (execWarmResetRelease recOk s) := by
  unfold execWarmResetRelease
  try dsimp only
  repeat' (first
    | with_reducible assumption | with_reducible apply State.begin_away | with_reducible apply State.setRst_away
    | with_reducible apply State.writeBoot_away | with_reducible apply State.releasePage_away
    | with_reducible apply State.releaseHarts_away | with_reducible apply Away.ite
    | with_reducible apply ResAway.ite | with_reducible apply ResAway.next | with_reducible apply Away.foldl
    | with_reducible apply Away.foldlFst | with_reducible apply Away.four | simp only [Away.mk_iff]
    | (refine Away.pages hK ?_; decide) | (refine Away.pages hK ?_; simp; done) | (refine Away.parts hM ?_; decide)
    | split | intro _)

theorem State.idleBlock_away {K : Nat → Prop} {M : Part → Prop} {base : State} (s : State) (p : Nat) (hK : ∀ n ∈ [0x2C, 0x34, 0x35, 0x36], ¬K n) (hM : ∀ p ∈ [.mram], ¬M p) (hk : Away K M base s) :
    Away K M base (State.idleBlock s p) := by
  unfold State.idleBlock
  repeat' (first
    | with_reducible assumption | with_reducible apply State.releaseGroup_away
    | with_reducible apply State.saveDue_away | with_reducible apply Away.ite | simp only [Away.mk_iff]
    | (refine Away.pages hK ?_; decide) | (refine Away.pages hK ?_; simp; done) | (refine Away.parts hM ?_; decide)
    | split | intro _)

theorem execBlockResetRequest_away {K : Nat → Prop} {M : Part → Prop} {base : State} (m : Master) (page : Nat) (s : State) (hK : ∀ n ∈ [0x01, 0x2C, 0x34, 0x35, 0x36, page], ¬K n) (hM : ∀ p ∈ [.mram], ¬M p) (hk : Away K M base s) :
    ResAway K M base (execBlockResetRequest m page s) := by
  have hKc : ∀ n ∈ [0x01, 0x2C, 0x34, 0x35, 0x36], ¬K n := Away.pages hK (by
    intro n hn; simp only [List.mem_cons, List.not_mem_nil, or_false] at hn ⊢; omega)
  unfold execBlockResetRequest
  try dsimp only
  repeat' (first
    | with_reducible assumption | with_reducible apply State.begin_away | with_reducible apply State.asWrite_away
    | with_reducible apply State.setFld_away | with_reducible apply State.absorbReset_away
    | with_reducible apply State.idleBlock_away | with_reducible apply State.setRst_away
    | with_reducible apply Away.ite | with_reducible apply ResAway.ite | with_reducible apply ResAway.next
    | with_reducible apply Away.four | with_reducible apply State.setFlds_away | with_reducible apply Away.flds
    | with_reducible apply State.setFld_away | simp only [List.map_cons, List.map_nil] | simp only [Away.mk_iff]
    | (refine Away.pages hKc ?_; decide) | refine Away.cons (a := _) (l := _ :: _) ?_ ?_
    | (refine Away.pages hK ?_; simp [R.RST_BLK_LAST_VALID, R.RST_BLK_LAST_FORCED, R.RST_BLK_LAST_IGNORED, R.RST_BLK_LAST_PAGE, R.RST_BLK_LAST_IDLE_US, R.PG_CTRL_BRST_REQ]; done)
    | (refine Away.parts hM ?_; decide) | split | intro _)

theorem State.keepSched_away {K : Nat → Prop} {M : Part → Prop} {base : State} (s before : State) (hK : ∀ n ∈ [0x08], ¬K n) (hk : Away K M base s) :
    Away K M base (State.keepSched s before) := by
  unfold State.keepSched
  try dsimp only
  repeat' (first
    | with_reducible assumption | with_reducible apply State.setReg_away | with_reducible apply Away.foldl
    | with_reducible apply Away.foldlFst | simp only [Away.mk_iff] | (refine Away.pages hK ?_; decide)
    | (refine Away.pages hK ?_; simp; done) | split | intro _)

theorem State.assertBlock_away {K : Nat → Prop} {M : Part → Prop} {base : State} (s : State) (page : Nat) (forced : Bool) (hK : ∀ n, ¬K n) (hM : ∀ p ∈ [.bk, .mram, .nor, .ret, .sram, .store, .tcm], ¬M p) (hk : Away K M base s) :
    Away K M base (State.assertBlock s page forced) := by
  unfold State.assertBlock
  try dsimp only
  repeat' (first
    | with_reducible assumption | with_reducible apply State.resetDisplay_away
    | with_reducible apply State.resetControl_away | with_reducible apply State.keepSched_away
    | with_reducible apply State.setRst_away | with_reducible apply State.setFld_away
    | with_reducible apply Away.ite | with_reducible apply Away.four | simp only [Away.mk_iff] | exact hK
    | exact fun _ _ => hK _ | (refine Away.parts hM ?_; decide) | split | intro _)

theorem execBlockIdleReached_away {K : Nat → Prop} {M : Part → Prop} {base : State} (page us : Nat) (s : State) (hK : ∀ n, ¬K n) (hM : ∀ p ∈ [.bk, .mram, .nor, .ret, .sram, .store, .tcm], ¬M p) (hk : Away K M base s) :
    ResAway K M base (execBlockIdleReached page us s) := by
  unfold execBlockIdleReached
  try dsimp only
  repeat' (first
    | with_reducible assumption | with_reducible apply State.begin_away | with_reducible apply State.setFld_away
    | with_reducible apply State.assertBlock_away | with_reducible apply Away.ite | with_reducible apply ResAway.ite
    | with_reducible apply ResAway.next | simp only [Away.mk_iff] | exact hK | exact fun _ _ => hK _
    | (refine Away.parts hM ?_; decide) | split | intro _)

theorem execBlockResetTimeout_away {K : Nat → Prop} {M : Part → Prop} {base : State} (page : Nat) (s : State) (hK : ∀ n, ¬K n) (hM : ∀ p ∈ [.bk, .mram, .nor, .ret, .sram, .store, .tcm], ¬M p) (hk : Away K M base s) :
    ResAway K M base (execBlockResetTimeout page s) := by
  unfold execBlockResetTimeout
  try dsimp only
  repeat' (first
    | with_reducible assumption | with_reducible apply State.begin_away | with_reducible apply State.inc_away
    | with_reducible apply State.irq_away | with_reducible apply State.assertBlock_away
    | with_reducible apply Away.ite | with_reducible apply ResAway.ite | with_reducible apply ResAway.next
    | with_reducible apply Away.four | with_reducible apply State.setFlds_away | with_reducible apply Away.flds
    | with_reducible apply State.setFld_away | simp only [List.map_cons, List.map_nil] | simp only [Away.mk_iff]
    | exact hK | exact fun _ _ => hK _ | (refine Away.parts hM ?_; decide) | split | intro _)

theorem State.reloadBanks_away {K : Nat → Prop} {M : Part → Prop} {base : State} (s : State) (k p : Nat) (hK : ∀ n ∈ [0x06, 0x18, 0x19, 0x20, 0x21, 0x22, 0x23, 0x38], ¬K n) (hk : Away K M base s) :
    Away K M base (State.reloadBanks s k p) := by
  unfold State.reloadBanks
  try dsimp only
  repeat' (first
    | with_reducible assumption | with_reducible apply State.loadBank_away
    | with_reducible apply State.takeBank_away | with_reducible apply State.takeGovPart_away
    | with_reducible apply Away.ite | with_reducible apply Away.four | simp only [Away.mk_iff]
    | (refine Away.pages hK ?_; decide) | (refine Away.pages hK ?_; simp; done) | split | intro _)

theorem State.reloadSection_away {K : Nat → Prop} {M : Part → Prop} {base : State} (s : State) (a p : Nat) (hK : ∀ n ∈ [0x06, 0x18, 0x19, 0x24, 0x2C, 0x30, 0x38, p], ¬K n) (hk : Away K M base s) :
    Away K M base (State.reloadSection s a p) := by
  have hKc : ∀ n ∈ [0x06, 0x18, 0x19, 0x24, 0x2C, 0x30, 0x38], ¬K n := Away.pages hK (by
    intro n hn; simp only [List.mem_cons, List.not_mem_nil, or_false] at hn ⊢; omega)
  unfold State.reloadSection
  try dsimp only
  repeat' (first
    | with_reducible assumption | with_reducible apply State.takeSection_away
    | with_reducible apply State.loadWords_away | with_reducible apply State.deriveScree_away
    | with_reducible apply State.loadRange_away' | with_reducible apply State.takeRailSection_away
    | with_reducible apply State.railsReturn_away | with_reducible apply Away.ite | with_reducible apply Away.loads
    | simp only [List.map_cons, List.map_nil] | simp only [Away.mk_iff] | (refine Away.pages hKc ?_; decide)
    | refine Away.cons (a := _) (l := _ :: _) ?_ ?_ | (refine Away.pages hK ?_; simp; done) | split | intro _)

theorem State.reloadPage_away {K : Nat → Prop} {M : Part → Prop} {base : State} (s : State) (p : Nat) (hK : ∀ n ∈ [0x06, 0x10, 0x11, 0x12, 0x14, 0x18, 0x19, 0x20, 0x21, 0x22, 0x23, 0x24, 0x2C, 0x30, 0x38, p], ¬K n) (hk : Away K M base s) :
    Away K M base (State.reloadPage s p) := by
  have hKc : ∀ n ∈ [0x06, 0x10, 0x11, 0x12, 0x14, 0x18, 0x19, 0x20, 0x21, 0x22, 0x23, 0x24, 0x2C, 0x30, 0x38], ¬K n := Away.pages hK (by
    intro n hn; simp only [List.mem_cons, List.not_mem_nil, or_false] at hn ⊢; omega)
  unfold State.reloadPage
  try dsimp only
  repeat' (first
    | with_reducible assumption | with_reducible apply State.takeNet_away | with_reducible apply State.takePtp_away
    | with_reducible apply State.takeSection_away | with_reducible apply State.loadRange_away'
    | with_reducible apply State.loadWords_away | with_reducible apply State.reloadBanks_away
    | with_reducible apply State.reloadSection_away | with_reducible apply Away.ite
    | with_reducible apply Away.loads | simp only [List.map_cons, List.map_nil] | with_reducible apply Away.four
    | simp only [Away.mk_iff] | (refine Away.pages hKc ?_; decide) | (refine Away.net hK ?_ _; decide)
    | (refine Away.port hK ?_ _; decide) | refine Away.cons (a := _) (l := _ :: _) ?_ ?_
    | (refine Away.pages hK ?_; simp; done) | split | intro _)

theorem State.blockStart_away {K : Nat → Prop} {M : Part → Prop} {base : State} (s : State) (p : Nat) (hK : ∀ n ∈ [0x10, 0x11, 0x34, 0x35, 0x3C, 0x40, p], ¬K n) (hk : Away K M base s) :
    Away K M base (State.blockStart s p) := by
  have hKc : ∀ n ∈ [0x10, 0x11, 0x34, 0x35, 0x3C, 0x40], ¬K n := Away.pages hK (by
    intro n hn; simp only [List.mem_cons, List.not_mem_nil, or_false] at hn ⊢; omega)
  unfold State.blockStart
  try dsimp only
  repeat' (first
    | with_reducible assumption | with_reducible apply State.startAcquire_away
    | with_reducible apply State.meterFrontReset_away | with_reducible apply State.pushSlot_away
    | with_reducible apply Away.ite | with_reducible apply Away.foldl | with_reducible apply Away.foldlFst
    | simp only [Away.mk_iff] | (refine Away.pages hKc ?_; decide) | (refine Away.net hK ?_ _; decide)
    | (refine Away.port hK ?_ _; decide) | refine Away.cons (a := _) (l := _ :: _) ?_ ?_
    | (refine Away.pages hK ?_; simp; done) | split | intro _)

theorem State.blockRelease_away {K : Nat → Prop} {M : Part → Prop} {base : State} (s : State) (page : Nat) (hK : ∀ n ∈ [0x01, 0x06, 0x10, 0x11, 0x12, 0x14, 0x18, 0x19, 0x20, 0x21, 0x22, 0x23, 0x24, 0x2C, 0x30, 0x34, 0x35, 0x36, 0x38, 0x3C, 0x40, page], ¬K n) (hM : ∀ p ∈ [.mram], ¬M p) (hk : Away K M base s) :
    Away K M base (State.blockRelease s page) := by
  have hKc : ∀ n ∈ [0x01, 0x06, 0x10, 0x11, 0x12, 0x14, 0x18, 0x19, 0x20, 0x21, 0x22, 0x23, 0x24, 0x2C, 0x30, 0x34, 0x35, 0x36, 0x38, 0x3C, 0x40], ¬K n := Away.pages hK (by
    intro n hn; simp only [List.mem_cons, List.not_mem_nil, or_false] at hn ⊢; omega)
  unfold State.blockRelease
  try dsimp only
  repeat' (first
    | with_reducible assumption | with_reducible apply State.setRst_away | with_reducible apply State.setFld_away
    | with_reducible apply State.releasePage_away | with_reducible apply State.reloadPage_away
    | with_reducible apply State.blockStart_away | with_reducible apply State.inc_away
    | with_reducible apply State.irq_away | with_reducible apply State.fenceBlock_away
    | with_reducible apply Away.ite | with_reducible apply Away.four | simp only [Away.mk_iff]
    | (refine Away.pages hKc ?_; decide) | (refine Away.net hK ?_ _; decide) | (refine Away.port hK ?_ _; decide)
    | refine Away.cons (a := _) (l := _ :: _) ?_ ?_
    | (refine Away.pages hK ?_; simp [R.PG_CTRL_BRST_REQ, R.RST_CNT_BLOCK_N]; done)
    | (refine Away.parts hM ?_; decide) | split | intro _)

theorem execBlockResetRelease_away {K : Nat → Prop} {M : Part → Prop} {base : State} (page : Nat) (s : State) (hK : ∀ n ∈ [0x01, 0x06, 0x10, 0x11, 0x12, 0x14, 0x18, 0x19, 0x20, 0x21, 0x22, 0x23, 0x24, 0x2C, 0x30, 0x34, 0x35, 0x36, 0x38, 0x3C, 0x40, page], ¬K n) (hM : ∀ p ∈ [.mram], ¬M p) (hk : Away K M base s) :
    ResAway K M base (execBlockResetRelease page s) := by
  have hKc : ∀ n ∈ [0x01, 0x06, 0x10, 0x11, 0x12, 0x14, 0x18, 0x19, 0x20, 0x21, 0x22, 0x23, 0x24, 0x2C, 0x30, 0x34, 0x35, 0x36, 0x38, 0x3C, 0x40], ¬K n := Away.pages hK (by
    intro n hn; simp only [List.mem_cons, List.not_mem_nil, or_false] at hn ⊢; omega)
  unfold execBlockResetRelease
  try dsimp only
  repeat' (first
    | with_reducible assumption | with_reducible apply State.begin_away
    | with_reducible apply State.blockRelease_away | with_reducible apply Away.ite
    | with_reducible apply ResAway.ite | with_reducible apply ResAway.next | with_reducible apply Away.four
    | simp only [Away.mk_iff] | (refine Away.pages hKc ?_; decide) | (refine Away.net hK ?_ _; decide)
    | (refine Away.port hK ?_ _; decide) | refine Away.cons (a := _) (l := _ :: _) ?_ ?_
    | (refine Away.pages hK ?_; simp; done) | (refine Away.parts hM ?_; decide) | split | intro _)

theorem execClockReady_away {K : Nat → Prop} {M : Part → Prop} {base : State} (sources pages : List Nat) (s : State) (hK : ∀ n, ¬K n) (hM : ∀ p ∈ [.mram], ¬M p) (hk : Away K M base s) :
    ResAway K M base (execClockReady sources pages s) := by
  unfold execClockReady
  try dsimp only
  repeat' (first
    | with_reducible assumption | with_reducible apply State.begin_away | with_reducible apply State.setRst_away
    | with_reducible apply State.setBit_away | with_reducible apply State.blockRelease_away
    | with_reducible apply State.releasePage_away | with_reducible apply Away.ite | with_reducible apply ResAway.ite
    | with_reducible apply ResAway.next | with_reducible apply Away.foldl | with_reducible apply Away.foldlFst
    | with_reducible apply Away.four | simp only [Away.mk_iff] | exact hK | exact fun _ _ => hK _
    | (refine Away.parts hM ?_; decide) | split | intro _)

theorem execClockTimeout_away {K : Nat → Prop} {M : Part → Prop} {base : State} (source : Option Nat) (pages : List Nat) (s : State) (hK : ∀ n, ¬K n) (hk : Away K M base s) :
    ResAway K M base (execClockTimeout source pages s) := by
  unfold execClockTimeout
  try dsimp only
  repeat' (first
    | with_reducible assumption | with_reducible apply State.begin_away | with_reducible apply State.setBit_away
    | with_reducible apply State.irq_away | with_reducible apply State.setRst_away
    | with_reducible apply State.fenceBlock_away | with_reducible apply Away.ite | with_reducible apply ResAway.ite
    | with_reducible apply ResAway.next | with_reducible apply Away.foldl | with_reducible apply Away.foldlFst
    | with_reducible apply Away.four | simp only [Away.mk_iff] | exact hK | exact fun _ _ => hK _ | split | intro _)

theorem execClockLoss_away {K : Nat → Prop} {M : Part → Prop} {base : State} (source : Nat) (pages : List Nat) (s : State) (hK : ∀ n, ¬K n) (hk : Away K M base s) :
    ResAway K M base (execClockLoss source pages s) := by
  unfold execClockLoss
  try dsimp only
  repeat' (first
    | with_reducible assumption | with_reducible apply State.begin_away | with_reducible apply State.setBit_away
    | with_reducible apply State.inc_away | with_reducible apply State.irq_away
    | with_reducible apply State.setRst_away | with_reducible apply State.fenceBlock_away
    | with_reducible apply Away.ite | with_reducible apply ResAway.ite | with_reducible apply ResAway.next
    | with_reducible apply Away.foldl | with_reducible apply Away.foldlFst | with_reducible apply Away.four
    | simp only [Away.mk_iff] | exact hK | exact fun _ _ => hK _ | split | intro _)

theorem execPowerOn_away {K : Nat → Prop} {M : Part → Prop} {base : State} (samples : List Nat) (s : State) (hK : ∀ n, ¬K n) (hM : ∀ p ∈ [.bk, .mram, .nor, .ret, .sram, .store, .tcm], ¬M p) (hk : Away K M base s) :
    ResAway K M base (execPowerOn samples s) := by
  unfold execPowerOn
  try dsimp only
  repeat' (first
    | with_reducible assumption | with_reducible apply State.begin_away | with_reducible apply State.assertCold_away
    | with_reducible apply State.setSupplies_away | with_reducible apply Away.ite | with_reducible apply ResAway.ite
    | with_reducible apply ResAway.next | with_reducible apply State.setFlds_away | with_reducible apply Away.flds
    | with_reducible apply State.setFld_away | simp only [List.map_cons, List.map_nil] | simp only [Away.mk_iff]
    | exact hK | exact fun _ _ => hK _ | (refine Away.parts hM ?_; decide) | split | intro _)

theorem execPfWarnRaised_away {K : Nat → Prop} {M : Part → Prop} {base : State} (s : State) (hK : ∀ n ∈ [0x02, 0x03, 0x06, 0x10, 0x11, 0x34, 0x35, 0x36, 0x38], ¬K n) (hM : ∀ p ∈ [.mram, .ret], ¬M p) (hk : Away K M base s) :
    ResAway K M base (execPfWarnRaised s) := by
  unfold execPfWarnRaised
  try dsimp only
  repeat' (first
    | with_reducible assumption | with_reducible apply State.begin_away
    | with_reducible apply State.abandonEntry_away | with_reducible apply State.abandonSave_away
    | with_reducible apply State.setRst_away | with_reducible apply State.unfreeze_away
    | with_reducible apply State.intervalEnd_away | with_reducible apply State.urgentFlush_away
    | with_reducible apply State.pfSave_away | with_reducible apply Away.ite | with_reducible apply ResAway.ite
    | with_reducible apply ResAway.next | with_reducible apply Away.four | simp only [Away.mk_iff]
    | (refine Away.pages hK ?_; decide) | (refine Away.net hK ?_ _; decide) | (refine Away.port hK ?_ _; decide)
    | refine Away.cons (a := _) (l := _ :: _) ?_ ?_ | (refine Away.pages hK ?_; simp; done)
    | (refine Away.parts hM ?_; decide) | split | intro _)

theorem execPfWarnReleased_away {K : Nat → Prop} {M : Part → Prop} {base : State} (s : State) (hk : Away K M base s) :
    ResAway K M base (execPfWarnReleased s) := by
  unfold execPfWarnReleased
  try dsimp only
  repeat' (first
    | with_reducible assumption | with_reducible apply State.begin_away | with_reducible apply ResAway.next
    | with_reducible apply Away.four | simp only [Away.mk_iff] | split | intro _)

theorem execBrownout_away {K : Nat → Prop} {M : Part → Prop} {base : State} (s : State) (hK : ∀ n, ¬K n) (hM : ∀ p ∈ [.bk, .mram, .nor, .ret, .sram, .store, .tcm], ¬M p) (hk : Away K M base s) :
    ResAway K M base (execBrownout s) := by
  unfold execBrownout
  try dsimp only
  repeat' (first
    | with_reducible assumption | with_reducible apply State.begin_away
    | with_reducible apply State.setSupplies_away | with_reducible apply State.latchBrownout_away
    | with_reducible apply State.absorbReset_away | with_reducible apply State.assertCold_away
    | with_reducible apply Away.ite | with_reducible apply ResAway.ite | with_reducible apply ResAway.next
    | with_reducible apply Away.four | simp only [Away.mk_iff] | exact hK | exact fun _ _ => hK _
    | (refine Away.parts hM ?_; decide) | split | intro _)

theorem State.tamperResponse_away {K : Nat → Prop} {M : Part → Prop} {base : State} (s : State) (hK : ∀ n, ¬K n) (hM : ∀ p ∈ [.bk, .mram, .nor, .ret, .sram, .store, .tcm], ¬M p) (hk : Away K M base s) :
    Away K M base (State.tamperResponse s) := by
  unfold State.tamperResponse
  try dsimp only
  repeat' (first
    | with_reducible assumption | with_reducible apply State.tamperDestroys_away
    | with_reducible apply State.systemNow_away | with_reducible apply Away.ite | simp only [Away.mk_iff] | exact hK
    | exact fun _ _ => hK _ | (refine Away.parts hM ?_; decide) | split | intro _)

theorem execAnchorReady_away {K : Nat → Prop} {M : Part → Prop} {base : State} (entropy selftest header : Bool) (damaged : List Nat) (s : State) (hK : ∀ n, ¬K n) (hM : ∀ p ∈ [.bk, .mram, .nor, .ret, .sram, .store, .tcm], ¬M p) (hk : Away K M base s) :
    ResAway K M base (execAnchorReady entropy selftest header damaged s) := by
  unfold execAnchorReady
  try dsimp only
  repeat' (first
    | with_reducible assumption | with_reducible apply State.begin_away
    | with_reducible apply State.anchorTests_away | with_reducible apply State.setAnchor_away
    | with_reducible apply State.irq_away | with_reducible apply State.record_away
    | with_reducible apply State.tamperResponse_away | with_reducible apply State.setFld_away
    | with_reducible apply State.autoPush_away | with_reducible apply Away.ite | with_reducible apply ResAway.ite
    | with_reducible apply ResAway.next | with_reducible apply Away.four | simp only [Away.mk_iff] | exact hK
    | exact fun _ _ => hK _ | (refine Away.parts hM ?_; decide) | split | intro _)

theorem execTamperEvent_away {K : Nat → Prop} {M : Part → Prop} {base : State} (source : Nat) (unpowered : Bool) (s : State) (hK : ∀ n, ¬K n) (hM : ∀ p ∈ [.bk, .mram, .nor, .ret, .sram, .store, .tcm], ¬M p) (hk : Away K M base s) :
    ResAway K M base (execTamperEvent source unpowered s) := by
  unfold execTamperEvent
  try dsimp only
  repeat' (first
    | with_reducible assumption | with_reducible apply State.begin_away | with_reducible apply State.setFld_away
    | with_reducible apply State.setBit_away | with_reducible apply State.satInc_away
    | with_reducible apply State.setAnchor_away | with_reducible apply State.event_away
    | with_reducible apply State.tamperResponse_away | with_reducible apply Away.ite
    | with_reducible apply ResAway.ite | with_reducible apply ResAway.next | with_reducible apply Away.four
    | with_reducible apply State.setFlds_away | with_reducible apply Away.flds
    | with_reducible apply State.setFld_away | simp only [List.map_cons, List.map_nil] | simp only [Away.mk_iff]
    | exact hK | exact fun _ _ => hK _ | (refine Away.parts hM ?_; decide) | split | intro _)

theorem execUpdHealthExpiry_away {K : Nat → Prop} {M : Part → Prop} {base : State} (s : State) (hK : ∀ n, ¬K n) (hM : ∀ p ∈ [.mram, .nor, .ret], ¬M p) (hk : Away K M base s) :
    ResAway K M base (execUpdHealthExpiry s) := by
  unfold execUpdHealthExpiry
  try dsimp only
  repeat' (first
    | with_reducible assumption | with_reducible apply State.begin_away | with_reducible apply State.warmNow_away
    | with_reducible apply Away.ite | with_reducible apply ResAway.ite | with_reducible apply ResAway.next
    | with_reducible apply State.setFlds_away | with_reducible apply Away.flds
    | with_reducible apply State.setFld_away | simp only [List.map_cons, List.map_nil] | simp only [Away.mk_iff]
    | exact hK | exact fun _ _ => hK _ | (refine Away.parts hM ?_; decide) | split | intro _)

theorem State.reachFrame_away {K : Nat → Prop} {M : Part → Prop} {base : State} (s : State) (frame : Nat) (hk : Away K M base s) :
    Away K M base (State.reachFrame s frame) := by
  unfold State.reachFrame
  try dsimp only
  repeat' (first
    | with_reducible assumption | with_reducible apply State.atTime_away | simp only [Away.mk_iff] | split | intro _)

theorem State.oweActivation_away {K : Nat → Prop} {M : Part → Prop} {base : State} (s : State) (hk : Away K M base s) :
    Away K M base (State.oweActivation s) := by
  unfold State.oweActivation
  try dsimp only
  repeat' (first
    | with_reducible assumption | with_reducible apply Away.four | simp only [Away.mk_iff] | split | intro _)

theorem execActivationDue_away {K : Nat → Prop} {M : Part → Prop} {base : State} (recOk : Bool) (s : State) (hK : ∀ n, ¬K n) (hM : ∀ p ∈ [.mram, .nor, .ret], ¬M p) (hk : Away K M base s) :
    ResAway K M base (execActivationDue recOk s) := by
  unfold execActivationDue
  try dsimp only
  repeat' (first
    | with_reducible assumption | with_reducible apply State.begin_away | with_reducible apply State.reachFrame_away
    | with_reducible apply State.disarmActivation_away | with_reducible apply State.inc_away
    | with_reducible apply State.irq_away | with_reducible apply State.oweActivation_away
    | with_reducible apply State.writeBoot_away | with_reducible apply State.warmNow_away
    | with_reducible apply Away.ite | with_reducible apply ResAway.ite | with_reducible apply ResAway.next
    | simp only [Away.mk_iff] | exact hK | exact fun _ _ => hK _ | (refine Away.parts hM ?_; decide) | split
    | intro _)

theorem execWdtSysKick_away {K : Nat → Prop} {M : Part → Prop} {base : State} (m : Master) (v : Word) (s : State) (hK : ∀ n ∈ [0x0A], ¬K n) (hk : Away K M base s) :
    ResAway K M base (execWdtSysKick m v s) := by
  unfold execWdtSysKick
  try dsimp only
  repeat' (first
    | with_reducible assumption | with_reducible apply State.begin_away | with_reducible apply State.asWrite_away
    | with_reducible apply State.setFld_away | with_reducible apply State.wdtLeft_away
    | with_reducible apply Away.ite | with_reducible apply ResAway.ite | with_reducible apply ResAway.next
    | with_reducible apply Away.four | simp only [Away.mk_iff] | (refine Away.pages hK ?_; decide)
    | (refine Away.pages hK ?_; simp; done) | split | intro _)

theorem execWdtSysHalf_away {K : Nat → Prop} {M : Part → Prop} {base : State} (s : State) (hK : ∀ n ∈ [0x0A], ¬K n) (hk : Away K M base s) :
    ResAway K M base (execWdtSysHalf s) := by
  unfold execWdtSysHalf
  try dsimp only
  repeat' (first
    | with_reducible assumption | with_reducible apply State.begin_away | with_reducible apply State.setFld_away
    | with_reducible apply State.wdtLeft_away | with_reducible apply State.irq_away | with_reducible apply Away.ite
    | with_reducible apply ResAway.ite | with_reducible apply ResAway.next | simp only [Away.mk_iff]
    | (refine Away.pages hK ?_; decide) | (refine Away.pages hK ?_; simp; done) | split | intro _)

theorem execWdtSysExpiry_away {K : Nat → Prop} {M : Part → Prop} {base : State} (s : State) (hK : ∀ n, ¬K n) (hM : ∀ p ∈ [.bk, .mram, .nor, .ret, .sram, .store, .tcm], ¬M p) (hk : Away K M base s) :
    ResAway K M base (execWdtSysExpiry s) := by
  unfold execWdtSysExpiry
  try dsimp only
  repeat' (first
    | with_reducible assumption | with_reducible apply State.begin_away | with_reducible apply State.wdtLeft_away
    | with_reducible apply State.systemNow_away | with_reducible apply Away.ite | with_reducible apply ResAway.ite
    | with_reducible apply ResAway.next | simp only [Away.mk_iff] | exact hK | exact fun _ _ => hK _
    | (refine Away.parts hM ?_; decide) | split | intro _)

theorem execWdtCoreKick_away {K : Nat → Prop} {M : Part → Prop} {base : State} (m : Master) (v : Word) (s : State) (hK : ∀ n ∈ [0x0A], ¬K n) (hk : Away K M base s) :
    ResAway K M base (execWdtCoreKick m v s) := by
  unfold execWdtCoreKick
  try dsimp only
  repeat' (first
    | with_reducible assumption | with_reducible apply State.begin_away | with_reducible apply State.asWrite_away
    | with_reducible apply State.setHart_away | with_reducible apply Away.ite | with_reducible apply ResAway.ite
    | with_reducible apply ResAway.next | with_reducible apply Away.four | simp only [Away.mk_iff]
    | (refine Away.pages hK ?_; decide) | (refine Away.pages hK ?_; simp; done) | split | intro _)

theorem execWdtCoreExpiry_away {K : Nat → Prop} {M : Part → Prop} {base : State} (h : Nat) (s : State) (hK : ∀ n, ¬K n) (hM : ∀ p ∈ [.mram, .nor, .ret], ¬M p) (hk : Away K M base s) :
    ResAway K M base (execWdtCoreExpiry h s) := by
  unfold execWdtCoreExpiry
  try dsimp only
  repeat' (first
    | with_reducible assumption | with_reducible apply State.begin_away | with_reducible apply State.warmNow_away
    | with_reducible apply State.setBit_away | with_reducible apply State.setHart_away
    | with_reducible apply State.irq_away | with_reducible apply Away.ite | with_reducible apply ResAway.ite
    | with_reducible apply ResAway.next | with_reducible apply Away.four | simp only [Away.mk_iff] | exact hK
    | exact fun _ _ => hK _ | (refine Away.parts hM ?_; decide) | split | intro _)

end Sys2Proof.Machine
end

