-- ==== Sys2Proof/Laws/AwayWake.lean ====
section
/-! SUPPORT. What the operations of Machine/Wake.lean stay away from (Laws/Away.lean). -/
set_option linter.all false
set_option Elab.async false

namespace Sys2Proof.Machine

theorem State.goDeep_away {K : Nat → Prop} {M : Part → Prop} {base : State} (s : State) (t : Nat) (hK : ∀ n ∈ [0x12, 0x38, 0x39, 0x3C, 0x3D, 0x44], ¬K n) (hM : ∀ p ∈ [.mram], ¬M p) (hk : Away K M base s) :
    Away K M base (State.goDeep s t) := by
  unfold State.goDeep
  try dsimp only
  repeat' (first
    | with_reducible assumption | with_reducible apply State.closeAll_away
    | with_reducible apply State.dropLead_away | with_reducible apply State.setSide_away
    | with_reducible apply State.setSupplies_away | with_reducible apply Away.ite | with_reducible apply Away.four
    | with_reducible apply State.setFlds_away | with_reducible apply Away.flds
    | with_reducible apply State.setFld_away | simp only [List.map_cons, List.map_nil] | simp only [Away.mk_iff]
    | (refine Away.pages hK ?_; decide) | (refine Away.pages hK ?_; simp; done) | (refine Away.parts hM ?_; decide)
    | split | intro _)

theorem State.ap4_away {K : Nat → Prop} {M : Part → Prop} {base : State} (s : State) (t : Nat) (hK : ∀ n ∈ [0x02, 0x12, 0x38, 0x39, 0x3C, 0x3D, 0x44], ¬K n) (hM : ∀ p ∈ [.mram], ¬M p) (hk : Away K M base s) :
    Away K M base (State.ap4 s t) := by
  unfold State.ap4
  try dsimp only
  repeat' (first
    | with_reducible assumption | with_reducible apply State.goDeep_away | with_reducible apply State.pwrEnds_away
    | with_reducible apply State.setPwr_away | with_reducible apply State.inc_away
    | with_reducible apply State.setFld_away | with_reducible apply State.irq_away | with_reducible apply Away.ite
    | with_reducible apply Away.four | with_reducible apply State.setFlds_away | with_reducible apply Away.flds
    | with_reducible apply State.setFld_away | simp only [List.map_cons, List.map_nil] | simp only [Away.mk_iff]
    | (refine Away.pages hK ?_; decide) | (refine Away.pages hK ?_; simp; done) | (refine Away.parts hM ?_; decide)
    | split | intro _)

theorem execPowerEntryStep_away {K : Nat → Prop} {M : Part → Prop} {base : State} (s : State) (hK : ∀ n ∈ [0x02, 0x03, 0x10, 0x11, 0x12, 0x2C, 0x30, 0x38, 0x39, 0x3C, 0x3D, 0x44], ¬K n) (hM : ∀ p ∈ [.mram], ¬M p) (hk : Away K M base s) :
    ResAway K M base (execPowerEntryStep s) := by
  unfold execPowerEntryStep
  try dsimp only
  repeat' (first
    | with_reducible assumption | with_reducible apply State.begin_away | with_reducible apply State.setPwr_away
    | with_reducible apply State.entryStep_away | with_reducible apply State.ap4_away
    | with_reducible apply Away.ite | with_reducible apply ResAway.ite | with_reducible apply ResAway.next
    | with_reducible apply Away.four | simp only [Away.mk_iff] | (refine Away.pages hK ?_; decide)
    | (refine Away.net hK ?_ _; decide) | (refine Away.port hK ?_ _; decide)
    | refine Away.cons (a := _) (l := _ :: _) ?_ ?_ | (refine Away.pages hK ?_; simp; done)
    | (refine Away.parts hM ?_; decide) | split | intro _)

theorem State.loseBank_away {K : Nat → Prop} {M : Part → Prop} {base : State} (s : State) (b : Nat) (hK : ∀ n ∈ [0x02, 0x04, 0x06], ¬K n) (hM : ∀ p ∈ [.ret], ¬M p) (hk : Away K M base s) :
    Away K M base (State.loseBank s b) := by
  unfold State.loseBank
  try dsimp only
  repeat' (first
    | with_reducible assumption | with_reducible apply State.setBit_away | with_reducible apply State.irq_away
    | with_reducible apply State.record_away | with_reducible apply State.setFld_away
    | with_reducible apply State.cairnLoss_away | with_reducible apply Away.ite | with_reducible apply Away.four
    | with_reducible apply Away.fourMem | simp only [Away.mk_iff]
    | (intro (p : Part) hp; cases p <;> first | exact absurd hp (hM _ (by decide)) | (simp only [Mems.part, State.drawn_mem]; done))
    | (refine Away.pages hK ?_; decide) | (refine Away.pages hK ?_; simp; done) | (refine Away.parts hM ?_; decide)
    | split | intro _)

theorem State.retCheck_away {K : Nat → Prop} {M : Part → Prop} {base : State} (s : State) (decayed : List Nat) (hK : ∀ n ∈ [0x02, 0x04, 0x06], ¬K n) (hM : ∀ p ∈ [.ret], ¬M p) (hk : Away K M base s) :
    Away K M base (State.retCheck s decayed) := by
  unfold State.retCheck
  try dsimp only
  repeat' (first
    | with_reducible assumption | with_reducible apply State.loseBank_away | with_reducible apply Away.ite
    | with_reducible apply Away.foldl | with_reducible apply Away.foldlFst | simp only [Away.mk_iff]
    | (refine Away.pages hK ?_; decide) | (refine Away.pages hK ?_; simp [R.PWR_RETSIG_CRC]; done)
    | (refine Away.parts hM ?_; decide) | split | intro _)

theorem State.wakeControl_away {K : Nat → Prop} {M : Part → Prop} {base : State} (s : State) (decayed : List Nat) (hK : ∀ n ∈ [0x02, 0x03, 0x04, 0x06, 0x10, 0x11, 0x49], ¬K n) (hM : ∀ p ∈ [.ret, .sram], ¬M p) (hk : Away K M base s) :
    Away K M base (State.wakeControl s decayed) := by
  unfold State.wakeControl
  try dsimp only
  repeat' (first
    | with_reducible assumption | with_reducible apply State.retCheck_away | with_reducible apply State.setFld_away
    | with_reducible apply State.setClocks_away | with_reducible apply State.setPwr_away
    | with_reducible apply State.ringWrite_away | with_reducible apply Away.four | simp only [Away.mk_iff]
    | (refine Away.pages hK ?_; decide) | (refine Away.net hK ?_ _; decide) | (refine Away.port hK ?_ _; decide)
    | refine Away.cons (a := _) (l := _ :: _) ?_ ?_ | (refine Away.pages hK ?_; simp; done)
    | (refine Away.parts hM ?_; decide) | split | intro _)

theorem State.wake_away {K : Nat → Prop} {M : Part → Prop} {base : State} (s : State) (source : Nat) (decayed : List Nat) (hK : ∀ n ∈ [0x02, 0x03, 0x04, 0x06, 0x10, 0x11, 0x38, 0x49], ¬K n) (hM : ∀ p ∈ [.ret, .sram], ¬M p) (hk : Away K M base s) :
    Away K M base (State.wake s source decayed) := by
  unfold State.wake
  try dsimp only
  repeat' (first
    | with_reducible assumption | with_reducible apply State.setBit_away
    | with_reducible apply State.abandonEntry_away | with_reducible apply State.setFld_away
    | with_reducible apply State.wakeControl_away | with_reducible apply State.startReturn_away
    | with_reducible apply Away.ite | simp only [Away.mk_iff] | (refine Away.pages hK ?_; decide)
    | (refine Away.net hK ?_ _; decide) | (refine Away.port hK ?_ _; decide)
    | refine Away.cons (a := _) (l := _ :: _) ?_ ?_ | (refine Away.pages hK ?_; simp; done)
    | (refine Away.parts hM ?_; decide) | split | intro _)

theorem execWakeEvent_away {K : Nat → Prop} {M : Part → Prop} {base : State} (source : Nat) (decayed : List Nat) (s : State) (hK : ∀ n ∈ [0x02, 0x03, 0x04, 0x06, 0x10, 0x11, 0x38, 0x49], ¬K n) (hM : ∀ p ∈ [.ret, .sram], ¬M p) (hk : Away K M base s) :
    ResAway K M base (execWakeEvent source decayed s) := by
  unfold execWakeEvent
  repeat' (first
    | with_reducible assumption | with_reducible apply State.begin_away | with_reducible apply State.wake_away
    | with_reducible apply ResAway.next | simp only [Away.mk_iff] | (refine Away.pages hK ?_; decide)
    | (refine Away.net hK ?_ _; decide) | (refine Away.port hK ?_ _; decide)
    | refine Away.cons (a := _) (l := _ :: _) ?_ ?_ | (refine Away.pages hK ?_; simp; done)
    | (refine Away.parts hM ?_; decide) | split | intro _)

theorem execDormantListenWindow_away {K : Nat → Prop} {M : Part → Prop} {base : State} (s : State) (hk : Away K M base s) :
    ResAway K M base (execDormantListenWindow s) := by
  unfold execDormantListenWindow
  try dsimp only
  repeat' (first
    | with_reducible assumption | with_reducible apply State.begin_away | with_reducible apply State.setPwr_away
    | with_reducible apply Away.ite | with_reducible apply ResAway.ite | with_reducible apply ResAway.next
    | with_reducible apply Away.four | simp only [Away.mk_iff] | split | intro _)

theorem State.wakeDormant_away {K : Nat → Prop} {M : Part → Prop} {base : State} (s : State) (f : SideFrame) (hK : ∀ n ∈ [0x02, 0x03, 0x04, 0x06, 0x10, 0x11, 0x38, 0x3C, 0x3D, 0x49], ¬K n) (hM : ∀ p ∈ [.mram, .ret, .sram], ¬M p) (hk : Away K M base s) :
    Away K M base (State.wakeDormant s f) := by
  unfold State.wakeDormant
  try dsimp only
  repeat' (first
    | with_reducible assumption | with_reducible apply State.sideRefuse_away
    | with_reducible apply State.sideAccept_away | with_reducible apply State.owesAck_away
    | with_reducible apply State.wake_away | with_reducible apply State.inc_away | with_reducible apply Away.ite
    | simp only [Away.mk_iff] | (refine Away.pages hK ?_; decide) | (refine Away.net hK ?_ _; decide)
    | (refine Away.port hK ?_ _; decide) | refine Away.cons (a := _) (l := _ :: _) ?_ ?_
    | (refine Away.pages hK ?_; simp; done) | (refine Away.parts hM ?_; decide) | split | intro _)

theorem execSideWakeReceive_away {K : Nat → Prop} {M : Part → Prop} {base : State} (f : SideFrame) (s : State) (hK : ∀ n ∈ [0x02, 0x03, 0x04, 0x06, 0x10, 0x11, 0x38, 0x3C, 0x3D, 0x49], ¬K n) (hM : ∀ p ∈ [.mram, .ret, .sram], ¬M p) (hk : Away K M base s) :
    ResAway K M base (execSideWakeReceive f s) := by
  unfold execSideWakeReceive
  try dsimp only
  repeat' (first
    | with_reducible assumption | with_reducible apply State.begin_away
    | with_reducible apply State.wakeDormant_away | with_reducible apply State.wakeFrame_away
    | with_reducible apply Away.ite | with_reducible apply ResAway.ite | with_reducible apply ResAway.next
    | simp only [Away.mk_iff] | (refine Away.pages hK ?_; decide) | (refine Away.net hK ?_ _; decide)
    | (refine Away.port hK ?_ _; decide) | refine Away.cons (a := _) (l := _ :: _) ?_ ?_
    | (refine Away.pages hK ?_; simp; done) | (refine Away.parts hM ?_; decide) | split | intro _)

theorem execReturnRegulatorTimeout_away {K : Nat → Prop} {M : Part → Prop} {base : State} (s : State) (hK : ∀ n ∈ [0x02, 0x06], ¬K n) (hk : Away K M base s) :
    ResAway K M base (execReturnRegulatorTimeout s) := by
  unfold execReturnRegulatorTimeout
  try dsimp only
  repeat' (first
    | with_reducible assumption | with_reducible apply State.begin_away | with_reducible apply State.setPwr_away
    | with_reducible apply State.fenceBlock_away | with_reducible apply State.irq_away
    | with_reducible apply Away.ite | with_reducible apply ResAway.ite | with_reducible apply ResAway.next
    | with_reducible apply Away.four | simp only [Away.mk_iff] | (refine Away.pages hK ?_; decide)
    | (refine Away.pages hK ?_; simp; done) | split | intro _)

theorem execRegulatorStageRetry_away {K : Nat → Prop} {M : Part → Prop} {base : State} (s : State) (hk : Away K M base s) :
    ResAway K M base (execRegulatorStageRetry s) := by
  unfold execRegulatorStageRetry
  try dsimp only
  repeat' (first
    | with_reducible assumption | with_reducible apply State.begin_away | with_reducible apply State.setPwr_away
    | with_reducible apply Away.ite | with_reducible apply ResAway.ite | with_reducible apply ResAway.next
    | with_reducible apply Away.four | simp only [Away.mk_iff] | split | intro _)

theorem State.returnMemory_away {K : Nat → Prop} {M : Part → Prop} {base : State} (s : State) (decayed : List Nat) (hK : ∀ n, ¬K n) (hM : ∀ p ∈ [.bk, .mram, .nor, .ret, .sram, .store, .tcm], ¬M p) (hk : Away K M base s) :
    Away K M base (State.returnMemory s decayed) := by
  unfold State.returnMemory
  try dsimp only
  repeat' (first
    | with_reducible assumption | with_reducible apply State.fresh_away | with_reducible apply State.retCheck_away
    | with_reducible apply Away.ite | with_reducible apply Away.four | simp only [Away.mk_iff] | exact hK
    | exact fun _ _ => hK _ | (refine Away.parts hM ?_; decide) | split | intro _)

theorem State.wakeDone_away {K : Nat → Prop} {M : Part → Prop} {base : State} (s : State) (recOk : Bool) (hK : ∀ n ∈ [0x01, 0x02, 0x03, 0x06, 0x08, 0x0A, 0x34, 0x35, 0x36, 0x40, 0x44], ¬K n) (hM : ∀ p ∈ [.mram, .sram, .tcm], ¬M p) (hk : Away K M base s) :
    Away K M base (State.wakeDone s recOk) := by
  unfold State.wakeDone
  try dsimp only
  repeat' (first
    | with_reducible assumption | with_reducible apply State.setPwr_away
    | with_reducible apply State.releaseAll_away | with_reducible apply State.wdtLeft_away
    | with_reducible apply State.irq_away | with_reducible apply State.ckptRestore_away
    | with_reducible apply Away.ite | with_reducible apply Away.four | with_reducible apply State.setFlds_away
    | with_reducible apply Away.flds | with_reducible apply State.setFld_away
    | simp only [List.map_cons, List.map_nil] | simp only [Away.mk_iff] | (refine Away.pages hK ?_; decide)
    | (refine Away.pages hK ?_; simp; done) | (refine Away.parts hM ?_; decide) | split | intro _)

theorem State.displayBack_away {K : Nat → Prop} {M : Part → Prop} {base : State} (s : State) (hK : ∀ n ∈ [0x02, 0x06, 0x0A, 0x10, 0x11, 0x12, 0x14, 0x18, 0x19, 0x20, 0x21, 0x22, 0x23, 0x24, 0x2C, 0x30, 0x38], ¬K n) (hk : Away K M base s) :
    Away K M base (State.displayBack s) := by
  unfold State.displayBack
  try dsimp only
  repeat' (first
    | with_reducible assumption | with_reducible apply State.setPwr_away
    | with_reducible apply State.reloadPage_away | with_reducible apply State.resumeRun_away
    | with_reducible apply Away.four | simp only [Away.mk_iff] | (refine Away.pages hK ?_; decide)
    | (refine Away.net hK ?_ _; decide) | (refine Away.port hK ?_ _; decide)
    | refine Away.cons (a := _) (l := _ :: _) ?_ ?_ | (refine Away.pages hK ?_; simp; done) | split | intro _)

theorem execReturnStageDone_away {K : Nat → Prop} {M : Part → Prop} {base : State} (time : Nat) (decayed : List Nat) (recOk : Bool) (s : State) (hK : ∀ n, ¬K n) (hM : ∀ p ∈ [.bk, .mram, .nor, .ret, .sram, .store, .tcm], ¬M p) (hk : Away K M base s) :
    ResAway K M base (execReturnStageDone time decayed recOk s) := by
  unfold execReturnStageDone
  try dsimp only
  repeat' (first
    | with_reducible assumption | with_reducible apply State.begin_away
    | with_reducible apply State.setSupplies_away | with_reducible apply State.setPwr_away
    | with_reducible apply State.setFld_away | with_reducible apply State.setClocks_away
    | with_reducible apply State.returnMemory_away | with_reducible apply State.wakeDone_away
    | with_reducible apply State.displayBack_away | with_reducible apply Away.ite | with_reducible apply ResAway.ite
    | with_reducible apply ResAway.next | with_reducible apply Away.four | simp only [Away.mk_iff] | exact hK
    | exact fun _ _ => hK _ | (refine Away.parts hM ?_; decide) | split | intro _)

end Sys2Proof.Machine
end

