-- ==== Sys2Proof/Laws/AwayView.lean ====
section
/-! SUPPORT. What the operations of Machine/View.lean stay away from (Laws/Away.lean). -/
set_option linter.all false
set_option Elab.async false

namespace Sys2Proof.Machine

theorem State.latch_away {K : Nat → Prop} {M : Part → Prop} {base : State} (s : State) (m : Master) (page off : Nat) (hk : Away K M base s) :
    Away K M base (State.latch s m page off) := by
  unfold State.latch
  try dsimp only
  repeat' (first
    | with_reducible assumption | with_reducible apply Away.foldl | with_reducible apply Away.foldlFst
    | with_reducible apply Away.four | simp only [Away.mk_iff] | split | intro _)

end Sys2Proof.Machine
end

