-- ==== Sys2Proof/Laws/AwayGenCheck.lean ====
section
/-! SUPPORT. What the operations of Machine/GenCheck.lean stay away from (Laws/Away.lean). -/
set_option linter.all false
set_option Elab.async false

namespace Sys2Proof.Machine

theorem State.startStage_away {K : Nat → Prop} {M : Part → Prop} {base : State} (s : State) (slot a : Nat) (hK : ∀ n ∈ [0x13], ¬K n) (hk : Away K M base s) :
    Away K M base (State.startStage s slot a) := by
  unfold State.startStage
  try dsimp only
  repeat' (first
    | with_reducible assumption | with_reducible apply State.setFld_away | with_reducible apply Away.four
    | simp only [Away.mk_iff] | (refine Away.pages hK ?_; decide) | (refine Away.pages hK ?_; simp; done) | split
    | intro _)

theorem State.stageGo_away {K : Nat → Prop} {M : Part → Prop} {base : State} (s : State) (slot : Nat) (hK : ∀ n ∈ [0x13], ¬K n) (hk : Away K M base s) :
    ResAway K M base (State.stageGo s slot) := by
  unfold State.stageGo
  try dsimp only
  repeat' (first
    | with_reducible assumption | with_reducible apply State.startStage_away | with_reducible apply Away.ite
    | with_reducible apply ResAway.ite | with_reducible apply ResAway.next | with_reducible apply ResAway.fault
    | simp only [Away.mk_iff] | (refine Away.pages hK ?_; decide) | (refine Away.pages hK ?_; simp; done) | split
    | intro _)

theorem execGenStageGo_away {K : Nat → Prop} {M : Part → Prop} {base : State} (m : Master) (slot : Nat) (s : State) (hK : ∀ n ∈ [0x13], ¬K n) (hk : Away K M base s) :
    ResAway K M base (execGenStageGo m slot s) := by
  unfold execGenStageGo
  try dsimp only
  repeat' (first
    | with_reducible assumption | with_reducible apply State.begin_away | with_reducible apply State.asWrite_away
    | with_reducible apply State.stageGo_away | with_reducible apply ResAway.next | simp only [Away.mk_iff]
    | (refine Away.pages hK ?_; decide) | (refine Away.pages hK ?_; simp; done) | split | intro _)

end Sys2Proof.Machine
end

