-- ==== Sys2Proof/Laws/AwayPeriph.lean ====
section
/-! SUPPORT. What the operations of Machine/Periph.lean stay away from (Laws/Away.lean). -/
set_option linter.all false
set_option Elab.async false

namespace Sys2Proof.Machine

theorem State.i2cWrite_away {K : Nat → Prop} {M : Part → Prop} {base : State} (s : State) (m : Master) (n : Nat) (v : Word) (hK : ∀ n ∈ [0x4A, 0x4B], ¬K n) (hk : Away K M base s) :
    ResAway K M base (State.i2cWrite s m n v) := by
  unfold State.i2cWrite
  try dsimp only
  repeat' (first
    | with_reducible assumption | with_reducible apply State.asWrite_away | with_reducible apply State.setFld_away
    | with_reducible apply State.emit_away | with_reducible apply Away.ite | with_reducible apply ResAway.ite
    | with_reducible apply ResAway.next | with_reducible apply ResAway.fault
    | with_reducible apply State.setFlds_away | with_reducible apply Away.flds
    | with_reducible apply State.setFld_away | simp only [List.map_cons, List.map_nil] | simp only [Away.mk_iff]
    | (refine Away.pages hK ?_; decide) | (refine Away.bus hK ?_ _; decide)
    | refine Away.cons (a := _) (l := _ :: _) ?_ ?_
    | (refine Away.pages hK ?_; simp [R.I2C_CMD_ADDR, R.I2C_CMD_WR_LEN, R.I2C_CMD_RD_LEN, R.I2C_CMD_GO]; done)
    | split | intro _)

theorem execI2cCommandDone_away {K : Nat → Prop} {M : Part → Prop} {base : State} (n result : Nat) (data : List Byte) (s : State) (hK : ∀ n ∈ [0x4A, 0x4B], ¬K n) (hk : Away K M base s) :
    ResAway K M base (execI2cCommandDone n result data s) := by
  unfold execI2cCommandDone
  try dsimp only
  repeat' (first
    | with_reducible assumption | with_reducible apply State.begin_away | with_reducible apply State.setFld_away
    | with_reducible apply State.irq_away | with_reducible apply Away.ite | with_reducible apply ResAway.ite
    | with_reducible apply ResAway.next | with_reducible apply Away.foldl | with_reducible apply Away.foldlFst
    | with_reducible apply State.setFlds_away | with_reducible apply Away.flds
    | with_reducible apply State.setFld_away | simp only [List.map_cons, List.map_nil] | simp only [Away.mk_iff]
    | (refine Away.pages hK ?_; decide) | (refine Away.bus hK ?_ _; decide)
    | refine Away.cons (a := _) (l := _ :: _) ?_ ?_
    | (refine Away.pages hK ?_; simp [R.I2C_CMD_GO, R.I2C_CMD_RD_LEN, R.I2C_STAT_RESULT, R.I2C_BUF_DATA]; done)
    | split | intro _)

theorem execUartRxByte_away {K : Nat → Prop} {M : Part → Prop} {base : State} (byte : Nat) (s : State) (hK : ∀ n ∈ [0x4C], ¬K n) (hk : Away K M base s) :
    ResAway K M base (execUartRxByte byte s) := by
  unfold execUartRxByte
  try dsimp only
  repeat' (first
    | with_reducible assumption | with_reducible apply State.begin_away | with_reducible apply State.irq_away
    | with_reducible apply State.setFld_away | with_reducible apply Away.ite | with_reducible apply ResAway.ite
    | with_reducible apply ResAway.next | with_reducible apply Away.four | simp only [Away.mk_iff]
    | (refine Away.pages hK ?_; decide) | (refine Away.pages hK ?_; simp; done) | split | intro _)

theorem execUartDataRead_away {K : Nat → Prop} {M : Part → Prop} {base : State} (m : Master) (s : State) (hk : Away K M base s) :
    ResAway K M base (execUartDataRead m s) := by
  unfold execUartDataRead
  try dsimp only
  repeat' (first
    | with_reducible assumption | with_reducible apply State.begin_away | with_reducible apply State.emit_away
    | with_reducible apply State.drawn_away | with_reducible apply Away.ite | with_reducible apply ResAway.ite
    | with_reducible apply ResAway.next | with_reducible apply ResAway.refused | with_reducible apply Away.four
    | simp only [Away.mk_iff] | split | intro _)

theorem State.uartWrite_away {K : Nat → Prop} {M : Part → Prop} {base : State} (s : State) (m : Master) (v : Word) (hK : ∀ n ∈ [0x4C], ¬K n) (hk : Away K M base s) :
    ResAway K M base (State.uartWrite s m v) := by
  unfold State.uartWrite
  try dsimp only
  repeat' (first
    | with_reducible assumption | with_reducible apply State.asWrite_away | with_reducible apply Away.ite
    | with_reducible apply ResAway.ite | with_reducible apply ResAway.next | with_reducible apply Away.four
    | simp only [Away.mk_iff] | (refine Away.pages hK ?_; decide) | (refine Away.pages hK ?_; simp; done) | split
    | intro _)

theorem State.uartTick_away {K : Nat → Prop} {M : Part → Prop} {base : State} (s : State) (hK : ∀ n ∈ [0x4C], ¬K n) (hk : Away K M base s) :
    Away K M base (State.uartTick s) := by
  unfold State.uartTick
  try dsimp only
  repeat' (first
    | with_reducible assumption | with_reducible apply State.emit_away | with_reducible apply State.irq_away
    | with_reducible apply Away.ite | with_reducible apply Away.four | simp only [Away.mk_iff]
    | (refine Away.pages hK ?_; decide) | (refine Away.pages hK ?_; simp; done) | split | intro _)

theorem State.gpioEdges_away {K : Nat → Prop} {M : Part → Prop} {base : State} (s : State) (was : Nat) (hK : ∀ n ∈ [0x4D], ¬K n) (hk : Away K M base s) :
    Away K M base (State.gpioEdges s was) := by
  unfold State.gpioEdges
  try dsimp only
  repeat' (first
    | with_reducible assumption | with_reducible apply State.setBit_away | with_reducible apply State.irq_away
    | with_reducible apply Away.ite | with_reducible apply Away.foldl | with_reducible apply Away.foldlFst
    | simp only [Away.mk_iff] | (refine Away.pages hK ?_; decide) | (refine Away.pages hK ?_; simp; done) | split
    | intro _)

theorem execGpioEdge_away {K : Nat → Prop} {M : Part → Prop} {base : State} (k : Nat) (level : Bool) (s : State) (hK : ∀ n ∈ [0x4D], ¬K n) (hk : Away K M base s) :
    ResAway K M base (execGpioEdge k level s) := by
  unfold execGpioEdge
  try dsimp only
  repeat' (first
    | with_reducible assumption | with_reducible apply State.begin_away | with_reducible apply State.gpioEdges_away
    | with_reducible apply ResAway.next | with_reducible apply Away.four | simp only [Away.mk_iff]
    | (refine Away.pages hK ?_; decide) | (refine Away.pages hK ?_; simp; done) | split | intro _)

theorem execFanBelowMin_away {K : Nat → Prop} {M : Part → Prop} {base : State} (k rpm : Nat) (s : State) (hK : ∀ n ∈ [0x4E], ¬K n) (hk : Away K M base s) :
    ResAway K M base (execFanBelowMin k rpm s) := by
  unfold execFanBelowMin
  try dsimp only
  repeat' (first
    | with_reducible assumption | with_reducible apply State.begin_away | with_reducible apply State.setFld_away
    | with_reducible apply State.irq_away | with_reducible apply Away.ite | with_reducible apply ResAway.ite
    | with_reducible apply ResAway.next | simp only [Away.mk_iff] | (refine Away.pages hK ?_; decide)
    | (refine Away.pages hK ?_; simp [R.FAN_RPM_RPM, R.FAN_MIN_RPM]; done) | split | intro _)

theorem execTempMeasure_away {K : Nat → Prop} {M : Part → Prop} {base : State} (die : Int) (ext : List (Option Int)) (s : State) (hK : ∀ n ∈ [0x4F], ¬K n) (hk : Away K M base s) :
    ResAway K M base (execTempMeasure die ext s) := by
  unfold execTempMeasure
  try dsimp only
  repeat' (first
    | with_reducible assumption | with_reducible apply State.begin_away | with_reducible apply State.setFld_away
    | with_reducible apply State.irq_away | with_reducible apply Away.ite | with_reducible apply ResAway.ite
    | with_reducible apply ResAway.next | with_reducible apply Away.foldl | with_reducible apply Away.foldlFst
    | with_reducible apply State.setFlds_away | with_reducible apply Away.flds
    | with_reducible apply State.setFld_away | simp only [List.map_cons, List.map_nil] | simp only [Away.mk_iff]
    | (refine Away.pages hK ?_; decide)
    | (refine Away.pages hK ?_; simp [R.TEMP_EXT_VALID, R.TEMP_EXT_T, R.TEMP_DIE_T, R.TEMP_ALARM_T]; done) | split
    | intro _)

theorem State.bellChanged_away {K : Nat → Prop} {M : Part → Prop} {base : State} (s : State) (m : Master) (cleared : Bool) (hK : ∀ n ∈ [0x48], ¬K n) (hk : Away K M base s) :
    Away K M base (State.bellChanged s m cleared) := by
  unfold State.bellChanged
  try dsimp only
  repeat' (first
    | with_reducible assumption | with_reducible apply State.irq_away | with_reducible apply Away.ite
    | with_reducible apply Away.four | simp only [Away.mk_iff] | (refine Away.pages hK ?_; decide)
    | (refine Away.pages hK ?_; simp; done) | split | intro _)

theorem State.bellSet_away {K : Nat → Prop} {M : Part → Prop} {base : State} (s : State) (m : Master) (v : Word) (hK : ∀ n ∈ [0x48], ¬K n) (hk : Away K M base s) :
    ResAway K M base (State.bellSet s m v) := by
  unfold State.bellSet
  try dsimp only
  repeat' (first
    | with_reducible assumption | with_reducible apply State.asWrite_away | with_reducible apply State.setFld_away
    | with_reducible apply State.bellChanged_away | with_reducible apply ResAway.next | simp only [Away.mk_iff]
    | (refine Away.pages hK ?_; decide) | (refine Away.pages hK ?_; simp; done) | split | intro _)

theorem State.bellClear_away {K : Nat → Prop} {M : Part → Prop} {base : State} (s : State) (m : Master) (v : Word) (hK : ∀ n ∈ [0x48], ¬K n) (hk : Away K M base s) :
    ResAway K M base (State.bellClear s m v) := by
  unfold State.bellClear
  try dsimp only
  repeat' (first
    | with_reducible assumption | with_reducible apply State.asWrite_away | with_reducible apply State.setFld_away
    | with_reducible apply State.bellChanged_away | with_reducible apply ResAway.next | simp only [Away.mk_iff]
    | (refine Away.pages hK ?_; decide) | (refine Away.pages hK ?_; simp; done) | split | intro _)

theorem State.txWrite_away {K : Nat → Prop} {M : Part → Prop} {base : State} (s : State) (m : Master) (v : Word) (hK : ∀ n ∈ [0x49], ¬K n) (hk : Away K M base s) :
    ResAway K M base (State.txWrite s m v) := by
  unfold State.txWrite
  try dsimp only
  repeat' (first
    | with_reducible assumption | with_reducible apply State.asWrite_away | with_reducible apply State.emit_away
    | with_reducible apply State.irq_away | with_reducible apply Away.ite | with_reducible apply ResAway.ite
    | with_reducible apply ResAway.next | with_reducible apply ResAway.fault
    | with_reducible apply State.setFlds_away | with_reducible apply Away.flds
    | with_reducible apply State.setFld_away | simp only [List.map_cons, List.map_nil] | simp only [Away.mk_iff]
    | (refine Away.pages hK ?_; decide) | (refine Away.pages hK ?_; simp; done) | split | intro _)

end Sys2Proof.Machine
end

