-- ==== Sys2Proof/Laws/AwayBus.lean ====
section
/-! SUPPORT. What the operations of Machine/Bus.lean stay away from (Laws/Away.lean). -/
set_option linter.all false
set_option Elab.async false

namespace Sys2Proof.Machine

theorem State.after_away {K : Nat → Prop} {M : Part → Prop} {base : State} (s : State) (r : Res)
    (hr : ResAway K M base r) : ResAway K M base (s.after r) := by
  cases r with
  | next t =>
    unfold State.after
    apply ResAway.next
    simp only [Away.mk_iff]
    exact Away.four (hr t rfl)
  | fault e => exact ResAway.fault e
  | refused e => exact ResAway.refused e

theorem thenDo_away {K : Nat → Prop} {M : Part → Prop} {base : State} (r : Res) (k : State → Res)
    (hr : ResAway K M base r) (hk : ∀ t, Away K M base t → ResAway K M base (k t)) :
    ResAway K M base (thenDo r k) := by
  cases r with
  | next t => exact hk t (hr t rfl)
  | fault e => exact ResAway.fault e
  | refused e => exact ResAway.refused e

theorem State.clearCounters_away {K : Nat → Prop} {M : Part → Prop} {base : State} (s : State) (page : Nat) (offs : List Nat) (hK : ∀ n ∈ [0x08, page], ¬K n) (hk : Away K M base s) :
    Away K M base (State.clearCounters s page offs) := by
  have hKc : ∀ n ∈ [0x08], ¬K n := Away.pages hK (by
    intro n hn; simp only [List.mem_cons, List.not_mem_nil, or_false] at hn ⊢; omega)
  unfold State.clearCounters
  try dsimp only
  repeat' (first
    | with_reducible assumption | with_reducible apply State.setReg_away | with_reducible apply State.setStrand_away
    | with_reducible apply State.setFld_away | with_reducible apply Away.ite | with_reducible apply Away.foldl
    | with_reducible apply Away.foldlFst | with_reducible apply Away.four | simp only [Away.mk_iff]
    | (refine Away.pages hKc ?_; decide) | refine Away.cons (a := _) (l := _ :: _) ?_ ?_
    | (refine Away.pages hK ?_; simp [R.SCHED_Q_DEPTH_MAX]; done) | split | intro _)

theorem State.cntClr_away {K : Nat → Prop} {M : Part → Prop} {base : State} (s : State) (m : Master) (page off : Nat) (v : Word) (hK : ∀ n ∈ [0x08, page], ¬K n) (hk : Away K M base s) :
    ResAway K M base (State.cntClr s m page off v) := by
  have hKc : ∀ n ∈ [0x08], ¬K n := Away.pages hK (by
    intro n hn; simp only [List.mem_cons, List.not_mem_nil, or_false] at hn ⊢; omega)
  unfold State.cntClr
  try dsimp only
  repeat' (first
    | with_reducible assumption | with_reducible apply State.asArmed_away
    | with_reducible apply State.clearCounters_away | with_reducible apply Away.ite
    | with_reducible apply ResAway.ite | with_reducible apply ResAway.next | simp only [Away.mk_iff]
    | (refine Away.pages hKc ?_; decide) | refine Away.cons (a := _) (l := _ :: _) ?_ ?_
    | (refine Away.pages hK ?_; simp; done) | split | intro _)

theorem State.lockWrite_away {K : Nat → Prop} {M : Part → Prop} {base : State} (s : State) (m : Master) (page : Nat) (v : Word) (hK : ∀ n ∈ [page], ¬K n) (hk : Away K M base s) :
    ResAway K M base (State.lockWrite s m page v) := by
  unfold State.lockWrite
  try dsimp only
  repeat' (first
    | with_reducible assumption | with_reducible apply State.asWrite_away | with_reducible apply State.setFld_away
    | with_reducible apply Away.ite | with_reducible apply ResAway.ite | with_reducible apply ResAway.next
    | simp only [Away.mk_iff] | (refine Away.pages hK ?_; decide)
    | (refine Away.pages hK ?_; simp [R.PG_LOCK_LOCKED, R.PG_LOCK_ARMED]; done) | split | intro _)

theorem State.rawCycle_away {K : Nat → Prop} {M : Part → Prop} {base : State} (s : State) (page mask events : Nat) (hK : ∀ n ∈ [page], ¬K n) (hk : Away K M base s) :
    Away K M base (State.rawCycle s page mask events) := by
  unfold State.rawCycle
  try dsimp only
  repeat' (first
    | with_reducible assumption | with_reducible apply State.noteEdge_away | with_reducible apply State.setFld_away
    | with_reducible apply Away.foldl | with_reducible apply Away.foldlFst | simp only [Away.mk_iff]
    | (refine Away.pages hK ?_; decide) | (refine Away.pages hK ?_; simp [R.PG_IRQ_RAW]; done) | split | intro _)

theorem State.statWrite_away {K : Nat → Prop} {M : Part → Prop} {base : State} (s : State) (m : Master) (page mask events : Nat) (hK : ∀ n ∈ [page], ¬K n) (hk : Away K M base s) :
    ResAway K M base (State.statWrite s m page mask events) := by
  unfold State.statWrite
  repeat' (first
    | with_reducible assumption | with_reducible apply State.disarm_away | with_reducible apply State.rawCycle_away
    | with_reducible apply State.emit_away | with_reducible apply Away.ite | with_reducible apply ResAway.ite
    | with_reducible apply ResAway.next | with_reducible apply ResAway.refused | simp only [Away.mk_iff]
    | (refine Away.pages hK ?_; decide) | (refine Away.pages hK ?_; simp; done) | split | intro _)

theorem State.enWrite_away {K : Nat → Prop} {M : Part → Prop} {base : State} (s : State) (m : Master) (page : Nat) (v : Word) (hK : ∀ n ∈ [page], ¬K n) (hk : Away K M base s) :
    ResAway K M base (State.enWrite s m page v) := by
  unfold State.enWrite
  try dsimp only
  repeat' (first
    | with_reducible assumption | with_reducible apply State.asWrite_away | with_reducible apply State.setFld_away
    | with_reducible apply State.noteEdge_away | with_reducible apply ResAway.next | with_reducible apply Away.foldl
    | with_reducible apply Away.foldlFst | simp only [Away.mk_iff] | (refine Away.pages hK ?_; decide)
    | (refine Away.pages hK ?_; simp [R.PG_IRQ_EN]; done) | split | intro _)

theorem State.idleReq_away {K : Nat → Prop} {M : Part → Prop} {base : State} (s : State) (page : Nat) (hK : ∀ n ∈ [0x2C, 0x34, 0x35, 0x36, page], ¬K n) (hM : ∀ p ∈ [.mram], ¬M p) (hk : Away K M base s) :
    Away K M base (State.idleReq s page) := by
  have hKc : ∀ n ∈ [0x2C, 0x34, 0x35, 0x36], ¬K n := Away.pages hK (by
    intro n hn; simp only [List.mem_cons, List.not_mem_nil, or_false] at hn ⊢; omega)
  unfold State.idleReq
  repeat' (first
    | with_reducible assumption | with_reducible apply State.setFld_away | with_reducible apply State.idleBlock_away
    | with_reducible apply Away.ite | simp only [Away.mk_iff] | (refine Away.pages hKc ?_; decide)
    | refine Away.cons (a := _) (l := _ :: _) ?_ ?_ | (refine Away.pages hK ?_; simp [R.PG_CTRL_IDLE_REQ]; done)
    | (refine Away.parts hM ?_; decide) | split | intro _)

theorem State.ctrlWrite_away {K : Nat → Prop} {M : Part → Prop} {base : State} (s : State) (m : Master) (page : Nat) (v : Word) (hK : ∀ n ∈ [0x01, 0x2C, 0x34, 0x35, 0x36, page], ¬K n) (hM : ∀ p ∈ [.mram], ¬M p) (hk : Away K M base s) :
    ResAway K M base (State.ctrlWrite s m page v) := by
  have hKc : ∀ n ∈ [0x01, 0x2C, 0x34, 0x35, 0x36], ¬K n := Away.pages hK (by
    intro n hn; simp only [List.mem_cons, List.not_mem_nil, or_false] at hn ⊢; omega)
  unfold State.ctrlWrite
  try dsimp only
  repeat' (first
    | with_reducible assumption | with_reducible apply State.asWrite_away | with_reducible apply State.setFlag_away
    | with_reducible apply State.idleReq_away | with_reducible apply State.setFld_away
    | with_reducible apply State.after_away | with_reducible apply execBlockResetRequest_away
    | with_reducible apply Away.ite | with_reducible apply ResAway.ite | with_reducible apply ResAway.next
    | simp only [Away.mk_iff] | (refine Away.pages hKc ?_; decide) | refine Away.cons (a := _) (l := _ :: _) ?_ ?_
    | (refine Away.pages hK ?_; simp [R.PG_CTRL_EN, R.PG_CTRL_IDLE_REQ]; done) | (refine Away.parts hM ?_; decide)
    | split | intro _)

theorem State.pageReleased_away {K : Nat → Prop} {M : Part → Prop} {base : State} (s : State) (page : Nat) (freed : List Fence) (hK : ∀ n ∈ [0x10, 0x11, 0x20, 0x28, 0x29, 0x2A, 0x2B, 0x30, 0x3C, 0x40], ¬K n) (hk : Away K M base s) :
    Away K M base (State.pageReleased s page freed) := by
  unfold State.pageReleased
  try dsimp only
  repeat' (first
    | with_reducible assumption | with_reducible apply State.strandsReleased_away
    | with_reducible apply State.railsReleased_away | with_reducible apply State.setBit_away
    | with_reducible apply State.startAcquire_away | with_reducible apply State.sideEmpty_away
    | with_reducible apply State.setFld_away | with_reducible apply Away.ite | with_reducible apply Away.foldl
    | with_reducible apply Away.foldlFst | with_reducible apply Away.four | simp only [Away.mk_iff]
    | (refine Away.pages hK ?_; decide) | (refine Away.str hK ?_ _; decide) | (refine Away.net hK ?_ _; decide)
    | (refine Away.port hK ?_ _; decide) | refine Away.cons (a := _) (l := _ :: _) ?_ ?_
    | (refine Away.pages hK ?_; simp; done) | split | intro _)

theorem State.askRelease_away {K : Nat → Prop} {M : Part → Prop} {base : State} (s : State) (page : Nat) (hk : Away K M base s) :
    Away K M base (State.askRelease s page) := by
  unfold State.askRelease
  try dsimp only
  repeat' (first
    | with_reducible assumption | with_reducible apply Away.four | simp only [Away.mk_iff] | split | intro _)

theorem State.fenceGone_away {K : Nat → Prop} {M : Part → Prop} {base : State} (s : State) (page : Nat) (present : List Nat) (hK : ∀ n ∈ [0x10, 0x11, 0x20, 0x28, 0x29, 0x2A, 0x2B, 0x30, 0x31, 0x3C, 0x40, page], ¬K n) (hk : Away K M base s) :
    Away K M base (State.fenceGone s page present) := by
  have hKc : ∀ n ∈ [0x10, 0x11, 0x20, 0x28, 0x29, 0x2A, 0x2B, 0x30, 0x31, 0x3C, 0x40], ¬K n := Away.pages hK (by
    intro n hn; simp only [List.mem_cons, List.not_mem_nil, or_false] at hn ⊢; omega)
  unfold State.fenceGone
  try dsimp only
  repeat' (first
    | with_reducible assumption | with_reducible apply State.askRelease_away
    | with_reducible apply State.releaseFences_away | with_reducible apply State.pageReleased_away
    | with_reducible apply State.unitsReturn_away | with_reducible apply Away.ite | with_reducible apply Away.four
    | simp only [Away.mk_iff] | (refine Away.pages hKc ?_; decide) | (refine Away.str hK ?_ _; decide)
    | (refine Away.net hK ?_ _; decide) | (refine Away.port hK ?_ _; decide)
    | refine Away.cons (a := _) (l := _ :: _) ?_ ?_ | (refine Away.pages hK ?_; simp; done) | split | intro _)

theorem State.fenceWrite_away {K : Nat → Prop} {M : Part → Prop} {base : State} (s : State) (m : Master) (page : Nat) (v : Word) (present : List Nat) (hK : ∀ n ∈ [0x10, 0x11, 0x20, 0x28, 0x29, 0x2A, 0x2B, 0x30, 0x31, 0x3C, 0x40, page], ¬K n) (hk : Away K M base s) :
    ResAway K M base (State.fenceWrite s m page v present) := by
  have hKc : ∀ n ∈ [0x10, 0x11, 0x20, 0x28, 0x29, 0x2A, 0x2B, 0x30, 0x31, 0x3C, 0x40], ¬K n := Away.pages hK (by
    intro n hn; simp only [List.mem_cons, List.not_mem_nil, or_false] at hn ⊢; omega)
  unfold State.fenceWrite
  try dsimp only
  repeat' (first
    | with_reducible assumption | with_reducible apply State.asWrite_away
    | with_reducible apply State.fenceGone_away | with_reducible apply Away.ite | with_reducible apply ResAway.ite
    | with_reducible apply ResAway.next | simp only [Away.mk_iff] | (refine Away.pages hKc ?_; decide)
    | (refine Away.str hK ?_ _; decide) | (refine Away.net hK ?_ _; decide) | (refine Away.port hK ?_ _; decide)
    | refine Away.cons (a := _) (l := _ :: _) ?_ ?_ | (refine Away.pages hK ?_; simp; done) | split | intro _)

theorem State.headerWrite_away {K : Nat → Prop} {M : Part → Prop} {base : State} (s : State) (m : Master) (page off : Nat) (v : Word) (hK : ∀ n ∈ [0x01, 0x10, 0x11, 0x20, 0x28, 0x29, 0x2A, 0x2B, 0x2C, 0x30, 0x31, 0x34, 0x35, 0x36, 0x3C, 0x40, page], ¬K n) (hM : ∀ p ∈ [.mram], ¬M p) (hk : Away K M base s) :
    OptAway K M base (State.headerWrite s m page off v) := by
  have hKc : ∀ n ∈ [0x01, 0x10, 0x11, 0x20, 0x28, 0x29, 0x2A, 0x2B, 0x2C, 0x30, 0x31, 0x34, 0x35, 0x36, 0x3C, 0x40], ¬K n := Away.pages hK (by
    intro n hn; simp only [List.mem_cons, List.not_mem_nil, or_false] at hn ⊢; omega)
  unfold State.headerWrite
  repeat' (first
    | with_reducible assumption | with_reducible apply State.ctrlWrite_away
    | with_reducible apply State.enWrite_away | with_reducible apply State.statWrite_away
    | with_reducible apply State.fenceWrite_away | with_reducible apply State.lockWrite_away
    | with_reducible apply Away.ite | with_reducible apply OptAway.ite | with_reducible apply ResAway.next
    | with_reducible apply OptAway.some | with_reducible exact OptAway.none | with_reducible apply OptAway.orElse
    | simp only [Away.mk_iff] | (refine Away.pages hKc ?_; decide) | (refine Away.str hK ?_ _; decide)
    | (refine Away.net hK ?_ _; decide) | (refine Away.port hK ?_ _; decide)
    | refine Away.cons (a := _) (l := _ :: _) ?_ ?_ | (refine Away.pages hK ?_; simp; done)
    | (refine Away.parts hM ?_; decide) | split | intro _)

theorem State.infraWrite_away {K : Nat → Prop} {M : Part → Prop} {base : State} (s : State) (m : Master) (page off : Nat) (v : Word) (hK : ∀ n ∈ [0x00, 0x01, 0x02, 0x04, 0x05, 0x06, 0x0A, 0x34, 0x35, 0x36, 0x3D], ¬K n) (hM : ∀ p ∈ [.mram, .ret], ¬M p) (hk : Away K M base s) :
    OptAway K M base (State.infraWrite s m page off v) := by
  unfold State.infraWrite
  repeat' (first
    | with_reducible assumption | with_reducible apply execRadioRegionSet_away
    | with_reducible apply execResetRequest_away | with_reducible apply execRstOutWrite_away
    | with_reducible apply execPowerStateRequest_away | with_reducible apply execRtcSet_away
    | with_reducible apply execRtcDstAdd_away | with_reducible apply execRtcDstSub_away
    | with_reducible apply execCairnFlushRequest_away | with_reducible apply execCairnFreeze_away
    | with_reducible apply execCairnCursorLoad_away | with_reducible apply execCairnRaise_away
    | with_reducible apply execWdtSysKick_away | with_reducible apply execWdtCoreKick_away
    | with_reducible apply Away.ite | with_reducible apply OptAway.ite | with_reducible apply ResAway.next
    | with_reducible apply OptAway.some | with_reducible exact OptAway.none | with_reducible apply OptAway.orElse
    | simp only [Away.mk_iff] | (refine Away.pages hK ?_; decide) | (refine Away.pages hK ?_; simp; done)
    | (refine Away.parts hM ?_; decide) | split | intro _)

theorem State.ckptWrite_away {K : Nat → Prop} {M : Part → Prop} {base : State} (s : State) (m : Master) (v : Word) (hK : ∀ n ∈ [0x08], ¬K n) (hM : ∀ p ∈ [.ret], ¬M p) (hk : Away K M base s) :
    ResAway K M base (State.ckptWrite s m v) := by
  unfold State.ckptWrite
  try dsimp only
  repeat' (first
    | with_reducible assumption | with_reducible apply State.asWrite_away | with_reducible apply thenDo_away
    | with_reducible apply execSchedCkptSave_away | with_reducible apply execSchedCkptRestore_away
    | with_reducible apply Away.ite | with_reducible apply ResAway.ite | with_reducible apply ResAway.next
    | simp only [Away.mk_iff] | (refine Away.pages hK ?_; decide) | (refine Away.pages hK ?_; simp; done)
    | (refine Away.parts hM ?_; decide) | split | intro _)

theorem State.traceCtrl_away {K : Nat → Prop} {M : Part → Prop} {base : State} (s : State) (m : Master) (v : Word) (hK : ∀ n ∈ [0x08], ¬K n) (hk : Away K M base s) :
    ResAway K M base (State.traceCtrl s m v) := by
  unfold State.traceCtrl
  try dsimp only
  repeat' (first
    | with_reducible assumption | with_reducible apply State.disarm_away
    | with_reducible apply execSchedTraceClear_away | with_reducible apply Away.ite
    | with_reducible apply ResAway.ite | with_reducible apply ResAway.next | with_reducible apply State.setFlds_away
    | with_reducible apply Away.flds | with_reducible apply State.setFld_away
    | simp only [List.map_cons, List.map_nil] | simp only [Away.mk_iff] | (refine Away.pages hK ?_; decide)
    | (refine Away.pages hK ?_; simp; done) | split | intro _)

theorem State.workWrite_away {K : Nat → Prop} {M : Part → Prop} {base : State} (s : State) (m : Master) (page off : Nat) (v : Word) (hK : ∀ n ∈ [0x06, 0x08, 0x09], ¬K n) (hM : ∀ p ∈ [.ret], ¬M p) (hk : Away K M base s) :
    OptAway K M base (State.workWrite s m page off v) := by
  unfold State.workWrite
  try dsimp only
  repeat' (first
    | with_reducible assumption | with_reducible apply State.disarm_away | with_reducible apply execSchedQflush_away
    | with_reducible apply State.ckptWrite_away | with_reducible apply execSchedPush_away
    | with_reducible apply State.setHart_away | with_reducible apply State.traceCtrl_away
    | with_reducible apply execIrqComplete_away | with_reducible apply Away.ite | with_reducible apply OptAway.ite
    | with_reducible apply ResAway.next | with_reducible apply OptAway.some | with_reducible exact OptAway.none
    | with_reducible apply OptAway.orElse | with_reducible apply Away.four | simp only [Away.mk_iff]
    | (refine Away.pages hK ?_; decide) | (refine Away.pages hK ?_; simp; done) | (refine Away.parts hM ?_; decide)
    | split | intro _)

theorem State.displayWrite_away {K : Nat → Prop} {M : Part → Prop} {base : State} (s : State) (m : Master) (page off : Nat) (v : Word) (hK : ∀ n ∈ [0x06, 0x10, 0x11, 0x13, 0x18, 0x19, 0x20, 0x23, 0x30, 0x31, 0x34, 0x35, 0x36, 0x38, 0x39], ¬K n) (hM : ∀ p ∈ [.mram], ¬M p) (hk : Away K M base s) :
    OptAway K M base (State.displayWrite s m page off v) := by
  unfold State.displayWrite
  repeat' (first
    | with_reducible assumption | with_reducible apply execGenStageGo_away
    | with_reducible apply execGenAnnounceSend_away | with_reducible apply execGovSnapRequest_away
    | with_reducible apply execPmbusFwBus_away | with_reducible apply execTelemFlushRequest_away
    | with_reducible apply execTelemRelease_away | with_reducible apply execMeterDispClear_away
    | with_reducible apply execMeterStmtRequest_away | with_reducible apply Away.ite
    | with_reducible apply OptAway.ite | with_reducible apply ResAway.next | with_reducible apply OptAway.some
    | with_reducible exact OptAway.none | with_reducible apply OptAway.orElse | simp only [Away.mk_iff]
    | (refine Away.pages hK ?_; decide) | (refine Away.net hK ?_ _; decide) | (refine Away.port hK ?_ _; decide)
    | refine Away.cons (a := _) (l := _ :: _) ?_ ?_ | (refine Away.pages hK ?_; simp; done)
    | (refine Away.parts hM ?_; decide) | split | intro _)

theorem State.mboxWrite_away {K : Nat → Prop} {M : Part → Prop} {base : State} (s : State) (m : Master) (v : Word) (hK : ∀ n ∈ [0x3C, 0x40], ¬K n) (hM : ∀ p ∈ [.mram, .sram], ¬M p) (hk : Away K M base s) :
    ResAway K M base (State.mboxWrite s m v) := by
  unfold State.mboxWrite
  try dsimp only
  repeat' (first
    | with_reducible assumption | with_reducible apply State.asWrite_away | with_reducible apply State.setFld_away
    | with_reducible apply State.mboxGo_away | with_reducible apply Away.ite | with_reducible apply ResAway.ite
    | with_reducible apply ResAway.next | simp only [Away.mk_iff] | (refine Away.pages hK ?_; decide)
    | (refine Away.pages hK ?_; simp; done) | (refine Away.parts hM ?_; decide) | split | intro _)

theorem State.updCfg_away {K : Nat → Prop} {M : Part → Prop} {base : State} (s : State) (m : Master) (v : Word) (hK : ∀ n ∈ [0x44], ¬K n) (hM : ∀ p ∈ [.mram], ¬M p) (hk : Away K M base s) :
    ResAway K M base (State.updCfg s m v) := by
  unfold State.updCfg
  try dsimp only
  repeat' (first
    | with_reducible assumption | with_reducible apply State.asWrite_away
    | with_reducible apply State.writeBoot_away | with_reducible apply Away.ite | with_reducible apply ResAway.ite
    | with_reducible apply ResAway.next | with_reducible apply ResAway.fault | simp only [Away.mk_iff]
    | (refine Away.pages hK ?_; decide) | (refine Away.pages hK ?_; simp [R.PG_LOCK_LOCKED]; done)
    | (refine Away.parts hM ?_; decide) | split | intro _)

theorem State.updCtrl_away {K : Nat → Prop} {M : Part → Prop} {base : State} (s : State) (m : Master) (v : Word) (hK : ∀ n ∈ [0x44], ¬K n) (hM : ∀ p ∈ [.mram, .nor], ¬M p) (hk : Away K M base s) :
    ResAway K M base (State.updCtrl s m v) := by
  unfold State.updCtrl
  try dsimp only
  repeat' (first
    | with_reducible assumption | with_reducible apply State.asWrite_away | with_reducible apply State.checkHdr_away
    | with_reducible apply State.checkBody_away | with_reducible apply State.program_away
    | with_reducible apply State.updAbort_away | with_reducible apply Away.ite | with_reducible apply ResAway.ite
    | with_reducible apply ResAway.next | simp only [Away.mk_iff] | (refine Away.pages hK ?_; decide)
    | (refine Away.pages hK ?_; simp; done) | (refine Away.parts hM ?_; decide) | split | intro _)

theorem State.actCtrl_away {K : Nat → Prop} {M : Part → Prop} {base : State} (s : State) (m : Master) (v : Word) (hK : ∀ n ∈ [0x39, 0x44], ¬K n) (hk : Away K M base s) :
    ResAway K M base (State.actCtrl s m v) := by
  unfold State.actCtrl
  try dsimp only
  repeat' (first
    | with_reducible assumption | with_reducible apply State.asWrite_away | with_reducible apply State.armLocal_away
    | with_reducible apply State.disarmActivation_away | with_reducible apply Away.ite
    | with_reducible apply ResAway.ite | with_reducible apply ResAway.next | simp only [Away.mk_iff]
    | (refine Away.pages hK ?_; decide) | (refine Away.pages hK ?_; simp; done) | split | intro _)

theorem State.secureWrite_away {K : Nat → Prop} {M : Part → Prop} {base : State} (s : State) (m : Master) (page off : Nat) (v : Word) (hK : ∀ n ∈ [0x39, 0x3C, 0x40, 0x44, 0x45], ¬K n) (hM : ∀ p ∈ [.mram, .nor, .sram], ¬M p) (hk : Away K M base s) :
    OptAway K M base (State.secureWrite s m page off v) := by
  unfold State.secureWrite
  try dsimp only
  repeat' (first
    | with_reducible assumption | with_reducible apply State.mboxWrite_away | with_reducible apply State.updCfg_away
    | with_reducible apply State.updCtrl_away | with_reducible apply execUpdConfirm_away
    | with_reducible apply execUpdBootreq_away | with_reducible apply State.actCtrl_away
    | with_reducible apply execUpdPactSend_away | with_reducible apply State.asWrite_away
    | with_reducible apply State.flashGo_away | with_reducible apply Away.ite | with_reducible apply OptAway.ite
    | with_reducible apply ResAway.next | with_reducible apply ResAway.fault | with_reducible apply OptAway.some
    | with_reducible exact OptAway.none | with_reducible apply OptAway.orElse | simp only [Away.mk_iff]
    | (refine Away.pages hK ?_; decide) | (refine Away.pages hK ?_; simp; done) | (refine Away.parts hM ?_; decide)
    | split | intro _)

theorem State.xaSet_away {K : Nat → Prop} {M : Part → Prop} {base : State} (s : State) (v : Word) (hK : ∀ n ∈ [0x49], ¬K n) (hk : Away K M base s) :
    Away K M base (State.xaSet s v) := by
  unfold State.xaSet
  repeat' (first
    | with_reducible assumption | with_reducible apply State.setFlds_away | with_reducible apply Away.flds
    | with_reducible apply State.setFld_away | simp only [List.map_cons, List.map_nil] | simp only [Away.mk_iff]
    | (refine Away.pages hK ?_; decide) | (refine Away.pages hK ?_; simp; done) | split | intro _)

theorem State.xaFields_away {K : Nat → Prop} {M : Part → Prop} {base : State} (s : State) (m : Master) (v : Word) (hK : ∀ n ∈ [0x49], ¬K n) (hk : Away K M base s) :
    ResAway K M base (State.xaFields s m v) := by
  unfold State.xaFields
  try dsimp only
  repeat' (first
    | with_reducible assumption | with_reducible apply State.asWrite_away | with_reducible apply State.xaSet_away
    | with_reducible apply Away.ite | with_reducible apply ResAway.ite | with_reducible apply ResAway.next
    | with_reducible apply ResAway.fault | simp only [Away.mk_iff] | (refine Away.pages hK ?_; decide)
    | (refine Away.pages hK ?_; simp; done) | split | intro _)

theorem State.portWrite_away {K : Nat → Prop} {M : Part → Prop} {base : State} (s : State) (m : Master) (page off : Nat) (v : Word) (hK : ∀ n ∈ [0x3C, 0x48, 0x49, 0x4A, 0x4B, 0x4C], ¬K n) (hk : Away K M base s) :
    OptAway K M base (State.portWrite s m page off v) := by
  unfold State.portWrite
  repeat' (first
    | with_reducible assumption | with_reducible apply State.sideGo_away | with_reducible apply State.txWrite_away
    | with_reducible apply State.xaFields_away | with_reducible apply State.bellSet_away
    | with_reducible apply State.bellClear_away | with_reducible apply State.i2cWrite_away
    | with_reducible apply State.uartWrite_away | with_reducible apply Away.ite | with_reducible apply OptAway.ite
    | with_reducible apply ResAway.next | with_reducible apply OptAway.some | with_reducible exact OptAway.none
    | with_reducible apply OptAway.orElse | simp only [Away.mk_iff] | (refine Away.pages hK ?_; decide)
    | (refine Away.bus hK ?_ _; decide) | refine Away.cons (a := _) (l := _ :: _) ?_ ?_
    | (refine Away.pages hK ?_; simp; done) | split | intro _)

theorem State.specialWrite_away {K : Nat → Prop} {M : Part → Prop} {base : State} (s : State) (m : Master) (page off : Nat) (v : Word) (hK : ∀ n ∈ [0x00, 0x01, 0x02, 0x04, 0x05, 0x06, 0x08, 0x09, 0x0A, 0x10, 0x11, 0x13, 0x18, 0x19, 0x20, 0x23, 0x28, 0x29, 0x2A, 0x2B, 0x2C, 0x30, 0x31, 0x34, 0x35, 0x36, 0x38, 0x39, 0x3C, 0x3D, 0x40, 0x44, 0x45, 0x48, 0x49, 0x4A, 0x4B, 0x4C, page], ¬K n) (hM : ∀ p ∈ [.mram, .nor, .ret, .sram], ¬M p) (hk : Away K M base s) :
    OptAway K M base (State.specialWrite s m page off v) := by
  have hKc : ∀ n ∈ [0x00, 0x01, 0x02, 0x04, 0x05, 0x06, 0x08, 0x09, 0x0A, 0x10, 0x11, 0x13, 0x18, 0x19, 0x20, 0x23, 0x28, 0x29, 0x2A, 0x2B, 0x2C, 0x30, 0x31, 0x34, 0x35, 0x36, 0x38, 0x39, 0x3C, 0x3D, 0x40, 0x44, 0x45, 0x48, 0x49, 0x4A, 0x4B, 0x4C], ¬K n := Away.pages hK (by
    intro n hn; simp only [List.mem_cons, List.not_mem_nil, or_false] at hn ⊢; omega)
  unfold State.specialWrite
  try dsimp only
  repeat' (first
    | with_reducible assumption | with_reducible apply State.headerWrite_away
    | with_reducible apply State.cntClr_away | with_reducible apply State.infraWrite_away
    | with_reducible apply State.workWrite_away | with_reducible apply State.displayWrite_away
    | with_reducible apply State.secureWrite_away | with_reducible apply State.portWrite_away
    | with_reducible apply Away.ite | with_reducible apply OptAway.ite | with_reducible apply ResAway.next
    | with_reducible apply OptAway.some | with_reducible exact OptAway.none | with_reducible apply OptAway.orElse
    | simp only [Away.mk_iff] | (refine Away.pages hKc ?_; decide) | (refine Away.str hK ?_ _; decide)
    | (refine Away.net hK ?_ _; decide) | (refine Away.port hK ?_ _; decide) | (refine Away.bus hK ?_ _; decide)
    | refine Away.cons (a := _) (l := _ :: _) ?_ ?_ | (refine Away.pages hK ?_; simp; done)
    | (refine Away.parts hM ?_; decide) | split | intro _)

theorem State.written_away {K : Nat → Prop} {M : Part → Prop} {base : State} (s : State) (page off : Nat) (v : Word) (was : Nat) (hK : ∀ n ∈ [0x05, 0x4D], ¬K n) (hk : Away K M base s) :
    Away K M base (State.written s page off v was) := by
  unfold State.written
  try dsimp only
  repeat' (first
    | with_reducible assumption | with_reducible apply State.setFld_away | with_reducible apply State.gpioEdges_away
    | with_reducible apply Away.ite | simp only [Away.mk_iff] | (refine Away.pages hK ?_; decide)
    | (refine Away.pages hK ?_; simp [R.RTC_ALM_CTRL_DONE, R.RTC_DISC_STAT_REJECTED]; done) | split | intro _)

theorem State.plainWrite_away {K : Nat → Prop} {M : Part → Prop} {base : State} (s : State) (m : Master) (page off : Nat) (v : Word) (r : RegSpec) (hK : ∀ n ∈ [0x05, 0x4D, page], ¬K n) (hM : ∀ p ∈ [.bk], ¬M p) (hk : Away K M base s) :
    ResAway K M base (State.plainWrite s m page off v r) := by
  have hKc : ∀ n ∈ [0x05, 0x4D], ¬K n := Away.pages hK (by
    intro n hn; simp only [List.mem_cons, List.not_mem_nil, or_false] at hn ⊢; omega)
  unfold State.plainWrite
  try dsimp only
  repeat' (first
    | with_reducible assumption | with_reducible apply State.disarm_away | with_reducible apply State.emit_away
    | with_reducible apply State.setReg_away | with_reducible apply State.written_away
    | with_reducible apply Away.ite | with_reducible apply ResAway.ite | with_reducible apply ResAway.next
    | with_reducible apply ResAway.fault | with_reducible apply ResAway.refused | with_reducible apply Away.four
    | with_reducible apply Away.fourMem | simp only [Away.mk_iff]
    | (intro (p : Part) hp; cases p <;> first | exact absurd hp (hM _ (by decide)) | (simp only [Mems.part, State.drawn_mem]; done))
    | (refine Away.pages hKc ?_; decide) | refine Away.cons (a := _) (l := _ :: _) ?_ ?_
    | (refine Away.pages hK ?_; simp [R.PG_LOCK_LOCKED]; done) | (refine Away.parts hM ?_; decide) | split | intro _)

theorem State.regWrite_away {K : Nat → Prop} {M : Part → Prop} {base : State} (s : State) (m : Master) (page off : Nat)
    (v : Word) (hK : ∀ n ∈ [0x00, 0x01, 0x02, 0x04, 0x05, 0x06, 0x08, 0x09, 0x0A, 0x10, 0x11, 0x13, 0x18, 0x19, 0x20, 0x23, 0x28, 0x29, 0x2A, 0x2B, 0x2C, 0x30, 0x31, 0x34, 0x35, 0x36, 0x38, 0x39, 0x3C, 0x3D, 0x40, 0x44, 0x45, 0x48, 0x49, 0x4A, 0x4B, 0x4C, 0x4D, page], ¬K n) (hM : ∀ p ∈ [.bk, .mram, .nor, .ret, .sram], ¬M p) (hk : Away K M base s) : ResAway K M base (s.regWrite m page off v) := by
  unfold State.regWrite
  split
  · apply ResAway.next
    split
    · exact State.emit_away _ _ hk
    · exact hk
  · split
    · exact ResAway.next hk
    · split
      · exact ResAway.fault _
      · split
        · exact ResAway.fault _
        · split
          · rename_i res heq
            exact State.after_away s res (State.specialWrite_away s m page off v (Away.pages hK (by
    intro n hn; simp only [List.mem_cons, List.not_mem_nil, or_false] at hn ⊢; omega)) (Away.parts hM (by decide)) hk res heq)
          · exact State.plainWrite_away s m page off v _ (by
              intro n hn
              simp only [List.mem_cons, List.not_mem_nil, or_false] at hn
              rcases hn with rfl | rfl | rfl <;> exact hK _ (by simp)) (Away.parts hM (by decide)) hk

theorem State.busWrite_away {K : Nat → Prop} {M : Part → Prop} {base : State} (s : State) (m : Master) (page off : Nat)
    (v : Word) (hK : ∀ n, ¬K n) (hM : ∀ p ∈ [.bk, .mram, .nor, .ret, .sram], ¬M p) (hk : Away K M base s) : ResAway K M base (s.busWrite m page off v) := by
  have hw := fun p q => State.regWrite_away s m p q v (fun _ _ => hK _) hM hk
  unfold State.busWrite
  cases m with
  | hart h mmode =>
    dsimp only
    split
    · exact ResAway.next (State.coreTrap_away s h _ _ hk)
    · exact hw _ _
  | lcp c =>
    dsimp only
    split
    · exact ResAway.next (State.emit_away _ _ hk)
    · exact hw _ _
  | hspi c =>
    dsimp only
    split
    · exact ResAway.next (State.emit_away _ _ hk)
    · exact hw _ _
  | block =>
    dsimp only
    split
    · exact ResAway.next hk
    · exact hw _ _

theorem State.specialRead_away {K : Nat → Prop} {M : Part → Prop} {base : State} (s : State) (m : Master) (page off : Nat) (hK : ∀ n ∈ [0x06, 0x08, 0x31, 0x3C], ¬K n) (hk : Away K M base s) :
    OptAway K M base (State.specialRead s m page off) := by
  unfold State.specialRead
  repeat' (first
    | with_reducible assumption | with_reducible apply execIrqClaim_away | with_reducible apply execSchedTake_away
    | with_reducible apply execSchedTraceRead_away | with_reducible apply execTelemPop_away
    | with_reducible apply execSideEvtPop_away | with_reducible apply execCairnWinAdvance_away
    | with_reducible apply execUartDataRead_away | with_reducible apply Away.ite | with_reducible apply OptAway.ite
    | with_reducible apply ResAway.next | with_reducible apply OptAway.some | with_reducible exact OptAway.none
    | with_reducible apply OptAway.orElse | simp only [Away.mk_iff] | (refine Away.pages hK ?_; decide)
    | (refine Away.pages hK ?_; simp; done) | split | intro _)

theorem State.plainRead_away {K : Nat → Prop} {M : Part → Prop} {base : State} (s : State) (m : Master) (page off : Nat) (hk : Away K M base s) :
    Away K M base (State.plainRead s m page off) := by
  unfold State.plainRead
  try dsimp only
  repeat' (first
    | with_reducible assumption | with_reducible apply State.latch_away | with_reducible apply State.drawn_away
    | with_reducible apply State.emit_away | with_reducible apply Away.ite | with_reducible apply Away.four
    | simp only [Away.mk_iff] | split | intro _)

theorem State.regRead_away {K : Nat → Prop} {M : Part → Prop} {base : State} (s : State) (m : Master) (page off : Nat) (hK : ∀ n ∈ [0x06, 0x08, 0x31, 0x3C], ¬K n)
    (hk : Away K M base s) : ResAway K M base (s.regRead m page off) := by
  unfold State.regRead
  split
  · exact ResAway.next (State.emit_away _ _ hk)
  · split
    · exact ResAway.next (State.emit_away _ _ hk)
    · split
      · rename_i r heq
        exact State.after_away s r (State.specialRead_away s m page off (Away.pages hK (by decide)) hk r heq)
      · exact ResAway.next (State.plainRead_away s m page off hk)

theorem State.busRead_away {K : Nat → Prop} {M : Part → Prop} {base : State} (s : State) (m : Master) (page off : Nat) (hK : ∀ n ∈ [0x06, 0x08, 0x31, 0x3C], ¬K n) (hk : Away K M base s) :
    ResAway K M base (State.busRead s m page off) := by
  unfold State.busRead
  try dsimp only
  repeat' (first
    | with_reducible assumption | with_reducible apply State.coreTrap_away | with_reducible apply State.regRead_away
    | with_reducible apply State.emit_away | with_reducible apply Away.ite | with_reducible apply ResAway.ite
    | with_reducible apply ResAway.next | with_reducible apply ResAway.refused | simp only [Away.mk_iff]
    | (refine Away.pages hK ?_; decide) | (refine Away.pages hK ?_; simp; done) | split | intro _)

theorem execPgLockWrite_away {K : Nat → Prop} {M : Part → Prop} {base : State} (m : Master) (page : Nat) (v : Word) (s : State) (hK : ∀ n, ¬K n) (hM : ∀ p ∈ [.bk, .mram, .nor, .ret, .sram], ¬M p) (hk : Away K M base s) :
    ResAway K M base (execPgLockWrite m page v s) := by
  unfold execPgLockWrite
  repeat' (first
    | with_reducible assumption | with_reducible apply State.begin_away | with_reducible apply State.busWrite_away
    | with_reducible apply ResAway.next | simp only [Away.mk_iff] | exact hK | exact fun _ _ => hK _
    | (refine Away.parts hM ?_; decide) | split | intro _)

theorem execCounterClear_away {K : Nat → Prop} {M : Part → Prop} {base : State} (m : Master) (page off : Nat) (v : Word) (s : State) (hK : ∀ n, ¬K n) (hM : ∀ p ∈ [.bk, .mram, .nor, .ret, .sram], ¬M p) (hk : Away K M base s) :
    ResAway K M base (execCounterClear m page off v s) := by
  unfold execCounterClear
  repeat' (first
    | with_reducible assumption | with_reducible apply State.begin_away | with_reducible apply State.busWrite_away
    | with_reducible apply ResAway.next | simp only [Away.mk_iff] | exact hK | exact fun _ _ => hK _
    | (refine Away.parts hM ?_; decide) | split | intro _)

theorem execIrqStatClear_away {K : Nat → Prop} {M : Part → Prop} {base : State} (m : Master) (page mask events : Nat) (s : State) (hK : ∀ n, ¬K n) (hM : ∀ p ∈ [.bk, .mram, .nor, .ret, .sram], ¬M p) (hk : Away K M base s) :
    ResAway K M base (execIrqStatClear m page mask events s) := by
  unfold execIrqStatClear
  try dsimp only
  repeat' (first
    | with_reducible assumption | with_reducible apply State.begin_away | with_reducible apply State.busWrite_away
    | with_reducible apply State.statWrite_away | with_reducible apply Away.ite | with_reducible apply ResAway.ite
    | with_reducible apply ResAway.next | simp only [Away.mk_iff] | exact hK | exact fun _ _ => hK _
    | (refine Away.parts hM ?_; decide) | split | intro _)

theorem execFenceClear_away {K : Nat → Prop} {M : Part → Prop} {base : State} (m : Master) (page : Nat) (present : List Nat) (s : State) (hK : ∀ n, ¬K n) (hM : ∀ p ∈ [.bk, .mram, .nor, .ret, .sram], ¬M p) (hk : Away K M base s) :
    ResAway K M base (execFenceClear m page present s) := by
  unfold execFenceClear
  try dsimp only
  repeat' (first
    | with_reducible assumption | with_reducible apply State.begin_away | with_reducible apply State.busWrite_away
    | with_reducible apply State.fenceWrite_away | with_reducible apply Away.ite | with_reducible apply ResAway.ite
    | with_reducible apply ResAway.next | simp only [Away.mk_iff] | exact hK | exact fun _ _ => hK _
    | (refine Away.parts hM ?_; decide) | split | intro _)

theorem execIdleRequest_away {K : Nat → Prop} {M : Part → Prop} {base : State} (m : Master) (page : Nat) (s : State) (hK : ∀ n, ¬K n) (hM : ∀ p ∈ [.bk, .mram, .nor, .ret, .sram], ¬M p) (hk : Away K M base s) :
    ResAway K M base (execIdleRequest m page s) := by
  unfold execIdleRequest
  try dsimp only
  repeat' (first
    | with_reducible assumption | with_reducible apply State.begin_away | with_reducible apply State.busWrite_away
    | with_reducible apply ResAway.next | simp only [Away.mk_iff] | exact hK | exact fun _ _ => hK _
    | (refine Away.parts hM ?_; decide) | split | intro _)

theorem execHostspiBellSet_away {K : Nat → Prop} {M : Part → Prop} {base : State} (m : Master) (v : Word) (s : State) (hK : ∀ n, ¬K n) (hM : ∀ p ∈ [.bk, .mram, .nor, .ret, .sram], ¬M p) (hk : Away K M base s) :
    ResAway K M base (execHostspiBellSet m v s) := by
  unfold execHostspiBellSet
  repeat' (first
    | with_reducible assumption | with_reducible apply State.begin_away | with_reducible apply State.busWrite_away
    | with_reducible apply ResAway.next | simp only [Away.mk_iff] | exact hK | exact fun _ _ => hK _
    | (refine Away.parts hM ?_; decide) | split | intro _)

theorem execHostspiBellClear_away {K : Nat → Prop} {M : Part → Prop} {base : State} (m : Master) (v : Word) (s : State) (hK : ∀ n, ¬K n) (hM : ∀ p ∈ [.bk, .mram, .nor, .ret, .sram], ¬M p) (hk : Away K M base s) :
    ResAway K M base (execHostspiBellClear m v s) := by
  unfold execHostspiBellClear
  repeat' (first
    | with_reducible assumption | with_reducible apply State.begin_away | with_reducible apply State.busWrite_away
    | with_reducible apply ResAway.next | simp only [Away.mk_iff] | exact hK | exact fun _ _ => hK _
    | (refine Away.parts hM ?_; decide) | split | intro _)

theorem execI2cCommand_away {K : Nat → Prop} {M : Part → Prop} {base : State} (m : Master) (n : Nat) (v : Word) (s : State) (hK : ∀ n, ¬K n) (hM : ∀ p ∈ [.bk, .mram, .nor, .ret, .sram], ¬M p) (hk : Away K M base s) :
    ResAway K M base (execI2cCommand m n v s) := by
  unfold execI2cCommand
  repeat' (first
    | with_reducible assumption | with_reducible apply State.begin_away | with_reducible apply State.busWrite_away
    | with_reducible apply ResAway.next | simp only [Away.mk_iff] | exact hK | exact fun _ _ => hK _
    | (refine Away.parts hM ?_; decide) | split | intro _)

theorem execUartTxByte_away {K : Nat → Prop} {M : Part → Prop} {base : State} (m : Master) (v : Word) (s : State) (hK : ∀ n, ¬K n) (hM : ∀ p ∈ [.bk, .mram, .nor, .ret, .sram], ¬M p) (hk : Away K M base s) :
    ResAway K M base (execUartTxByte m v s) := by
  unfold execUartTxByte
  repeat' (first
    | with_reducible assumption | with_reducible apply State.begin_away | with_reducible apply State.busWrite_away
    | with_reducible apply ResAway.next | simp only [Away.mk_iff] | exact hK | exact fun _ _ => hK _
    | (refine Away.parts hM ?_; decide) | split | intro _)

theorem execLcpTxGo_away {K : Nat → Prop} {M : Part → Prop} {base : State} (m : Master) (v : Word) (s : State) (hK : ∀ n, ¬K n) (hM : ∀ p ∈ [.bk, .mram, .nor, .ret, .sram], ¬M p) (hk : Away K M base s) :
    ResAway K M base (execLcpTxGo m v s) := by
  unfold execLcpTxGo
  repeat' (first
    | with_reducible assumption | with_reducible apply State.begin_away | with_reducible apply State.busWrite_away
    | with_reducible apply ResAway.next | simp only [Away.mk_iff] | exact hK | exact fun _ _ => hK _
    | (refine Away.parts hM ?_; decide) | split | intro _)

theorem execLatchingRegisterRead_away {K : Nat → Prop} {M : Part → Prop} {base : State} (m : Master) (page off : Nat) (s : State) (hK : ∀ n ∈ [0x06, 0x08, 0x31, 0x3C], ¬K n) (hk : Away K M base s) :
    ResAway K M base (execLatchingRegisterRead m page off s) := by
  unfold execLatchingRegisterRead
  repeat' (first
    | with_reducible assumption | with_reducible apply State.begin_away | with_reducible apply State.busRead_away
    | with_reducible apply ResAway.next | simp only [Away.mk_iff] | (refine Away.pages hK ?_; decide)
    | (refine Away.pages hK ?_; simp; done) | split | intro _)

theorem State.wakeScrub_away {K : Nat → Prop} {M : Part → Prop} {base : State} (s : State) (hK : ∀ n ∈ [0x06, 0x18, 0x38], ¬K n) (hk : Away K M base s) :
    Away K M base (State.wakeScrub s) := by
  unfold State.wakeScrub
  repeat' (first
    | with_reducible assumption | with_reducible apply State.readWords_away | simp only [Away.mk_iff]
    | (refine Away.pages hK ?_; decide) | (refine Away.pages hK ?_; simp; done) | split | intro _)

theorem execWakeScrubDone_away {K : Nat → Prop} {M : Part → Prop} {base : State} (s : State) (hK : ∀ n ∈ [0x06, 0x18, 0x38], ¬K n) (hk : Away K M base s) :
    ResAway K M base (execWakeScrubDone s) := by
  unfold execWakeScrubDone
  try dsimp only
  repeat' (first
    | with_reducible assumption | with_reducible apply State.begin_away | with_reducible apply State.wakeScrub_away
    | with_reducible apply State.setFld_away | with_reducible apply State.irq_away | with_reducible apply Away.ite
    | with_reducible apply ResAway.ite | with_reducible apply ResAway.next | simp only [Away.mk_iff]
    | (refine Away.pages hK ?_; decide) | (refine Away.pages hK ?_; simp; done) | split | intro _)

theorem execCairnMetricSample_away {K : Nat → Prop} {M : Part → Prop} {base : State} (k : Nat) (s : State) (hk : Away K M base s) :
    ResAway K M base (execCairnMetricSample k s) := by
  unfold execCairnMetricSample
  try dsimp only
  repeat' (first
    | with_reducible assumption | with_reducible apply State.begin_away | with_reducible apply State.drawn_away
    | with_reducible apply Away.ite | with_reducible apply ResAway.ite | with_reducible apply ResAway.next
    | with_reducible apply ResAway.fault | with_reducible apply Away.four | simp only [Away.mk_iff] | split
    | intro _)

end Sys2Proof.Machine
end

