-- ==== Sys2Proof/Laws/AwayLcp.lean ====
section
/-! SUPPORT. What the operations of Machine/Lcp.lean stay away from (Laws/Away.lean). -/
set_option linter.all false
set_option Elab.async false

namespace Sys2Proof.Machine

theorem State.absorbOut_away {K : Nat → Prop} {M : Part → Prop} {base : State} (s t : State)
    (ht : Away K M base t) : Away K M base (s.absorbOut t) := by
  unfold State.absorbOut
  simp only [Away.mk_iff]
  exact Away.four ht

theorem State.readAt_away {K : Nat → Prop} {M : Part → Prop} {base : State} (s : State) (m : Master) (a : Nat) (hK : ∀ n ∈ [0x06, 0x08, 0x31, 0x3C], ¬K n) (hk : Away K M base s) :
    ResAway K M base (State.readAt s m a) := by
  unfold State.readAt
  repeat' (first
    | with_reducible assumption | with_reducible apply State.emit_away | with_reducible apply State.busRead_away
    | with_reducible apply Away.ite | with_reducible apply ResAway.ite | with_reducible apply ResAway.next
    | with_reducible apply ResAway.refused | simp only [Away.mk_iff] | (refine Away.pages hK ?_; decide)
    | (refine Away.pages hK ?_; simp; done) | split | intro _)

theorem State.writeAt_away {K : Nat → Prop} {M : Part → Prop} {base : State} (s : State) (m : Master) (a : Nat) (v : Word) (hK : ∀ n, ¬K n) (hM : ∀ p ∈ [.bk, .mram, .nor, .ret, .sram], ¬M p) (hk : Away K M base s) :
    ResAway K M base (State.writeAt s m a v) := by
  unfold State.writeAt
  repeat' (first
    | with_reducible assumption | with_reducible apply State.emit_away | with_reducible apply State.busWrite_away
    | with_reducible apply Away.ite | with_reducible apply ResAway.ite | with_reducible apply ResAway.next
    | with_reducible apply ResAway.refused | simp only [Away.mk_iff] | exact hK | exact fun _ _ => hK _
    | (refine Away.parts hM ?_; decide) | split | intro _)

theorem State.readRun_away {K : Nat → Prop} {M : Part → Prop} {base : State} (m : Master) (a : Nat) (hK : ∀ n ∈ [0x06, 0x08, 0x31, 0x3C], ¬K n) :
    ∀ (n i : Nat) (s : State) (k : RunOut → Res), Away K M base s →
      (∀ r : RunOut, Away K M base r.1 → ResAway K M base (k r)) → ResAway K M base (State.readRun m a i n s k)
  | 0, _, s, k, h, hk => hk (s, [], none) h
  | n + 1, i, s, k, h, hk => by
    unfold State.readRun
    have h1 := State.readAt_away s.begin m (a + 4 * i) (Away.pages hK (by decide)) (State.begin_away s h)
    split
    · rename_i t heq
      have h2 := State.absorbOut_away s t (h1 t heq)
      split
      · exact hk _ h2
      · exact State.readRun_away m a (Away.pages hK (by decide)) n (i + 1) _ _ h2 (fun r hr => hk _ hr)
    · exact ResAway.fault _
    · exact ResAway.refused _

theorem State.storeWords_away {K : Nat → Prop} {M : Part → Prop} {base : State} (put : State → Nat → Word → Res) (a : Nat)
    (hp : ∀ u b v, Away K M base u → ResAway K M base (put u b v)) :
    ∀ (l : List Word) (i : Nat) (s : State) (k : RunOut → Res), Away K M base s →
      (∀ r : RunOut, Away K M base r.1 → ResAway K M base (k r)) → ResAway K M base (State.storeWords put a i l s k)
  | [], _, s, k, h, hk => hk (s, [], none) h
  | v :: vs, i, s, k, h, hk => by
    unfold State.storeWords
    have h1 := hp s.begin (a + 4 * i) v (State.begin_away s h)
    split
    · rename_i t heq
      have h2 := State.absorbOut_away s t (h1 t heq)
      split
      · exact hk _ h2
      · exact State.storeWords_away put a hp vs (i + 1) _ _ h2 hk
    · exact ResAway.fault _
    · exact ResAway.refused _

theorem State.storeGet_away {K : Nat → Prop} {M : Part → Prop} {base : State} (s : State) (rights a n most page : Nat) (hK : ∀ n ∈ [0x06, 0x18, 0x19, 0x38], ¬K n) (hk : Away K M base s) :
    Away K M base (State.storeGet s rights a n most page).1 := by
  unfold State.storeGet
  try dsimp only
  repeat' (first
    | with_reducible assumption | with_reducible apply State.blockReads_away | with_reducible apply Away.ite
    | simp only [Away.mk_iff] | (refine Away.pages hK ?_; decide) | (refine Away.pages hK ?_; simp; done) | split
    | intro _)

theorem State.storePut_away {K : Nat → Prop} {M : Part → Prop} {base : State} (s : State) (a : Nat) (bs : List Byte) (page : Nat) (hK : ∀ n ∈ [0x06, 0x18, 0x19, 0x38], ¬K n) (hM : ∀ p ∈ [.store], ¬M p) (hk : Away K M base s) :
    Away K M base (State.storePut s a bs page).1 := by
  unfold State.storePut
  try dsimp only
  repeat' (first
    | with_reducible assumption | with_reducible apply State.blockWrite_away
    | with_reducible apply State.wroteCode_away | with_reducible apply State.readWords_away
    | with_reducible apply Away.ite | simp only [Away.mk_iff] | (refine Away.pages hK ?_; decide)
    | (refine Away.pages hK ?_; simp; done) | (refine Away.parts hM ?_; decide) | split | intro _)

theorem State.xaEnd_away {K : Nat → Prop} {M : Part → Prop} {base : State} (s : State) (code index : Nat) (hK : ∀ n ∈ [0x49], ¬K n) (hk : Away K M base s) :
    Away K M base (State.xaEnd s code index) := by
  unfold State.xaEnd
  repeat' (first
    | with_reducible assumption | with_reducible apply State.irq_away | with_reducible apply State.setFlds_away
    | with_reducible apply Away.flds | with_reducible apply State.setFld_away
    | simp only [List.map_cons, List.map_nil] | simp only [Away.mk_iff] | (refine Away.pages hK ?_; decide)
    | (refine Away.pages hK ?_; simp; done) | split | intro _)

theorem State.xaGo_away {K : Nat → Prop} {M : Part → Prop} {base : State} (s : State) (m : Master) (v : Word) (hK : ∀ n, ¬K n) (hM : ∀ p ∈ [.bk, .mram, .nor, .ret, .sram, .store], ¬M p) (hk : Away K M base s) :
    ResAway K M base (State.xaGo s m v) := by
  unfold State.xaGo
  try dsimp only
  repeat' (first
    | with_reducible assumption | with_reducible apply State.asWrite_away | with_reducible apply State.xaSet_away
    | with_reducible apply State.readRun_away | with_reducible apply State.sramWrite_away
    | with_reducible apply State.xaEnd_away | with_reducible apply State.storeWords_away
    | with_reducible apply State.writeAt_away | with_reducible apply State.storeGet_away
    | with_reducible apply State.storePut_away | with_reducible apply Away.ite | with_reducible apply ResAway.ite
    | with_reducible apply ResAway.next | with_reducible apply ResAway.fault | simp only [Away.mk_iff] | exact hK
    | exact fun _ _ => hK _ | (refine Away.parts hM ?_; decide) | split | intro _)

theorem State.masterWrite_away {K : Nat → Prop} {M : Part → Prop} {base : State} (s : State) (m : Master) (page off : Nat) (v : Word) (hK : ∀ n, ¬K n) (hM : ∀ p ∈ [.bk, .mram, .nor, .ret, .sram, .store], ¬M p) (hk : Away K M base s) :
    ResAway K M base (State.masterWrite s m page off v) := by
  unfold State.masterWrite
  repeat' (first
    | with_reducible assumption | with_reducible apply State.after_away | with_reducible apply State.begin_away
    | with_reducible apply State.xaGo_away | with_reducible apply State.busWrite_away
    | with_reducible apply Away.ite | with_reducible apply ResAway.ite | with_reducible apply ResAway.next
    | simp only [Away.mk_iff] | exact hK | exact fun _ _ => hK _ | (refine Away.parts hM ?_; decide) | split
    | intro _)

theorem State.remoteWrite_away {K : Nat → Prop} {M : Part → Prop} {base : State} (m : Master) (s : State) (a : Nat) (v : Word) (hK : ∀ n, ¬K n) (hM : ∀ p ∈ [.bk, .mram, .nor, .ret, .sram, .store], ¬M p) (hk : Away K M base s) :
    ResAway K M base (State.remoteWrite m s a v) := by
  unfold State.remoteWrite
  repeat' (first
    | with_reducible assumption | with_reducible apply State.writeAt_away
    | with_reducible apply State.masterWrite_away | with_reducible apply Away.ite | with_reducible apply ResAway.ite
    | with_reducible apply ResAway.next | simp only [Away.mk_iff] | exact hK | exact fun _ _ => hK _
    | (refine Away.parts hM ?_; decide) | split | intro _)

theorem execRegisterWrite_away {K : Nat → Prop} {M : Part → Prop} {base : State} (m : Master) (page off : Nat) (v : Word) (s : State) (hK : ∀ n, ¬K n) (hM : ∀ p ∈ [.bk, .mram, .nor, .ret, .sram, .store], ¬M p) (hk : Away K M base s) :
    ResAway K M base (execRegisterWrite m page off v s) := by
  unfold execRegisterWrite
  repeat' (first
    | with_reducible assumption | with_reducible apply State.begin_away
    | with_reducible apply State.masterWrite_away | with_reducible apply ResAway.next | simp only [Away.mk_iff]
    | exact hK | exact fun _ _ => hK _ | (refine Away.parts hM ?_; decide) | split | intro _)

theorem State.xaCommand_away {K : Nat → Prop} {M : Part → Prop} {base : State} (s : State) (m : Master) (op : Nat) (v : Word) (hK : ∀ n, ¬K n) (hM : ∀ p ∈ [.bk, .mram, .nor, .ret, .sram, .store], ¬M p) (hk : Away K M base s) :
    ResAway K M base (State.xaCommand s m op v) := by
  unfold State.xaCommand
  repeat' (first
    | with_reducible assumption | with_reducible apply State.begin_away
    | with_reducible apply State.masterWrite_away | with_reducible apply ResAway.next | simp only [Away.mk_iff]
    | exact hK | exact fun _ _ => hK _ | (refine Away.parts hM ?_; decide) | split | intro _)

theorem execLcpXaRegRead_away {K : Nat → Prop} {M : Part → Prop} {base : State} (m : Master) (v : Word) (s : State) (hK : ∀ n, ¬K n) (hM : ∀ p ∈ [.bk, .mram, .nor, .ret, .sram, .store], ¬M p) (hk : Away K M base s) :
    ResAway K M base (execLcpXaRegRead m v s) := by
  unfold execLcpXaRegRead
  repeat' (first
    | with_reducible assumption | with_reducible apply State.xaCommand_away | with_reducible apply ResAway.next
    | simp only [Away.mk_iff] | exact hK | exact fun _ _ => hK _ | (refine Away.parts hM ?_; decide) | split
    | intro _)

theorem execLcpXaRegWrite_away {K : Nat → Prop} {M : Part → Prop} {base : State} (m : Master) (v : Word) (s : State) (hK : ∀ n, ¬K n) (hM : ∀ p ∈ [.bk, .mram, .nor, .ret, .sram, .store], ¬M p) (hk : Away K M base s) :
    ResAway K M base (execLcpXaRegWrite m v s) := by
  unfold execLcpXaRegWrite
  repeat' (first
    | with_reducible assumption | with_reducible apply State.xaCommand_away | with_reducible apply ResAway.next
    | simp only [Away.mk_iff] | exact hK | exact fun _ _ => hK _ | (refine Away.parts hM ?_; decide) | split
    | intro _)

theorem execLcpXaStoreRead_away {K : Nat → Prop} {M : Part → Prop} {base : State} (m : Master) (v : Word) (s : State) (hK : ∀ n, ¬K n) (hM : ∀ p ∈ [.bk, .mram, .nor, .ret, .sram, .store], ¬M p) (hk : Away K M base s) :
    ResAway K M base (execLcpXaStoreRead m v s) := by
  unfold execLcpXaStoreRead
  repeat' (first
    | with_reducible assumption | with_reducible apply State.xaCommand_away | with_reducible apply ResAway.next
    | simp only [Away.mk_iff] | exact hK | exact fun _ _ => hK _ | (refine Away.parts hM ?_; decide) | split
    | intro _)

theorem execLcpXaStoreWrite_away {K : Nat → Prop} {M : Part → Prop} {base : State} (m : Master) (v : Word) (s : State) (hK : ∀ n, ¬K n) (hM : ∀ p ∈ [.bk, .mram, .nor, .ret, .sram, .store], ¬M p) (hk : Away K M base s) :
    ResAway K M base (execLcpXaStoreWrite m v s) := by
  unfold execLcpXaStoreWrite
  repeat' (first
    | with_reducible assumption | with_reducible apply State.xaCommand_away | with_reducible apply ResAway.next
    | simp only [Away.mk_iff] | exact hK | exact fun _ _ => hK _ | (refine Away.parts hM ?_; decide) | split
    | intro _)

theorem State.lcpDrop_away {K : Nat → Prop} {M : Part → Prop} {base : State} (s : State) (k : Nat) (hk : Away K M base s) :
    Away K M base (State.lcpDrop s k) := by
  unfold State.lcpDrop
  try dsimp only
  repeat' (first
    | with_reducible assumption | with_reducible apply Away.four | simp only [Away.mk_iff] | split | intro _)

theorem State.setSession_away {K : Nat → Prop} {M : Part → Prop} {base : State} (s : State) (x : LcpSession) (hk : Away K M base s) :
    Away K M base (State.setSession s x) := by
  unfold State.setSession
  try dsimp only
  repeat' (first
    | with_reducible assumption | with_reducible apply Away.ite | with_reducible apply Away.four
    | simp only [Away.mk_iff] | split | intro _)

theorem State.dropTransfer_away {K : Nat → Prop} {M : Part → Prop} {base : State} (s : State) (id : Nat) (hK : ∀ n ∈ [0x44], ¬K n) (hk : Away K M base s) :
    Away K M base (State.dropTransfer s id) := by
  unfold State.dropTransfer
  repeat' (first
    | with_reducible assumption | with_reducible apply State.closeTransfer_away | with_reducible apply Away.ite
    | simp only [Away.mk_iff] | (refine Away.pages hK ?_; decide) | (refine Away.pages hK ?_; simp; done) | split
    | intro _)

theorem State.closeSession_away {K : Nat → Prop} {M : Part → Prop} {base : State} (s : State) (id : Nat) (hK : ∀ n ∈ [0x44], ¬K n) (hk : Away K M base s) :
    Away K M base (State.closeSession s id) := by
  unfold State.closeSession
  try dsimp only
  repeat' (first
    | with_reducible assumption | with_reducible apply State.dropTransfer_away | with_reducible apply Away.four
    | simp only [Away.mk_iff] | (refine Away.pages hK ?_; decide) | (refine Away.pages hK ?_; simp; done) | split
    | intro _)

theorem State.helloReply_away {K : Nat → Prop} {M : Part → Prop} {base : State} (s : State) (status rights session : Nat) (nonce eph : List Byte) (hk : Away K M base s) :
    Away K M base (State.helloReply s status rights session nonce eph) := by
  unfold State.helloReply
  try dsimp only
  repeat' (first
    | with_reducible assumption | with_reducible apply State.drawn_away | with_reducible apply State.emit_away
    | simp only [Away.mk_iff] | split | intro _)

theorem execLcpHello_away {K : Nat → Prop} {M : Part → Prop} {base : State} (_port : Port) (b : List Byte) (s : State) (hk : Away K M base s) :
    ResAway K M base (execLcpHello _port b s) := by
  unfold execLcpHello
  try dsimp only
  repeat' (first
    | with_reducible assumption | with_reducible apply State.begin_away | with_reducible apply State.lcpDrop_away
    | with_reducible apply State.drawn_away | with_reducible apply State.helloReply_away
    | with_reducible apply State.mbLcpAgree_away | with_reducible apply Away.ite | with_reducible apply ResAway.ite
    | with_reducible apply ResAway.next | with_reducible apply Away.four | simp only [Away.mk_iff] | split | intro _)

theorem execLcpClose_away {K : Nat → Prop} {M : Part → Prop} {base : State} (session seq : Nat) (s : State) (hK : ∀ n ∈ [0x44], ¬K n) (hk : Away K M base s) :
    ResAway K M base (execLcpClose session seq s) := by
  unfold execLcpClose
  try dsimp only
  repeat' (first
    | with_reducible assumption | with_reducible apply State.begin_away | with_reducible apply State.lcpDrop_away
    | with_reducible apply State.closeSession_away | with_reducible apply Away.ite
    | with_reducible apply ResAway.ite | with_reducible apply ResAway.next | simp only [Away.mk_iff]
    | (refine Away.pages hK ?_; decide) | (refine Away.pages hK ?_; simp; done) | split | intro _)

theorem execLcpSessionTimeout_away {K : Nat → Prop} {M : Part → Prop} {base : State} (session : Nat) (s : State) (hK : ∀ n ∈ [0x44], ¬K n) (hk : Away K M base s) :
    ResAway K M base (execLcpSessionTimeout session s) := by
  unfold execLcpSessionTimeout
  repeat' (first
    | with_reducible assumption | with_reducible apply State.begin_away
    | with_reducible apply State.closeSession_away | with_reducible apply ResAway.next | simp only [Away.mk_iff]
    | (refine Away.pages hK ?_; decide) | (refine Away.pages hK ?_; simp; done) | split | intro _)

theorem execLcpDatagramDrop_away {K : Nat → Prop} {M : Part → Prop} {base : State} (code : Nat) (s : State) (hk : Away K M base s) :
    ResAway K M base (execLcpDatagramDrop code s) := by
  unfold execLcpDatagramDrop
  try dsimp only
  repeat' (first
    | with_reducible assumption | with_reducible apply State.begin_away | with_reducible apply State.lcpDrop_away
    | with_reducible apply Away.ite | with_reducible apply ResAway.ite | with_reducible apply ResAway.next
    | simp only [Away.mk_iff] | split | intro _)

theorem State.respond_away {K : Nat → Prop} {M : Part → Prop} {base : State} (s : State) (q : LcpReq) (op status detail : Nat) (data : List Byte) (hK : ∀ n ∈ [0x44], ¬K n) (hk : Away K M base s) :
    Away K M base (State.respond s q op status detail data) := by
  unfold State.respond
  try dsimp only
  repeat' (first
    | with_reducible assumption | with_reducible apply State.setSession_away | with_reducible apply State.emit_away
    | with_reducible apply State.closeSession_away | with_reducible apply Away.ite | with_reducible apply Away.four
    | simp only [Away.mk_iff] | (refine Away.pages hK ?_; decide) | (refine Away.pages hK ?_; simp; done) | split
    | intro _)

theorem State.lcpRequest_away {K : Nat → Prop} {M : Part → Prop} {base : State} (s : State) (q : LcpReq) (op : Nat)
    (run : LcpSession → State → LcpAnswer → Res) (hK : ∀ n ∈ [0x44], ¬K n) (hk : Away K M base s)
    (hr : ∀ (x : LcpSession) (t : State) (k : LcpAnswer), Away K M base t →
      (∀ (u : State) (c d : Nat) (l : List Byte), Away K M base u → ResAway K M base (k u c d l)) →
      ResAway K M base (run x t k)) : ResAway K M base (s.lcpRequest q op run) := by
  unfold State.lcpRequest
  have h0 := State.begin_away s hk
  dsimp only
  split
  · exact ResAway.next h0
  · split
    · exact ResAway.next (State.lcpDrop_away _ _ h0)
    · split
      · exact ResAway.next (State.emit_away _ _ h0)
      · split
        · exact ResAway.next (State.lcpDrop_away _ _ h0)
        · split
          · exact ResAway.next (State.respond_away _ q _ _ _ _ (Away.pages hK (by decide)) (State.setSession_away _ _ h0))
          · exact hr _ _ _ (State.setSession_away _ _ h0)
              (fun u c d l hu => ResAway.next (State.respond_away u q op c d l (Away.pages hK (by decide)) hu))

theorem State.ownerCode_away {K : Nat → Prop} {M : Part → Prop} {base : State} (s : State) (hk : Away K M base s) :
    Away K M base (State.ownerCode s).1 := by
  unfold State.ownerCode
  try dsimp only
  repeat' (first
    | with_reducible assumption | with_reducible apply State.drawn_away | with_reducible apply Away.ite
    | simp only [Away.mk_iff] | split | intro _)

theorem execLcpRead_away {K : Nat → Prop} {M : Part → Prop} {base : State} (q : LcpReq) (addr count : Nat) (s : State) (hK : ∀ n ∈ [0x06, 0x08, 0x31, 0x3C, 0x44], ¬K n) (hk : Away K M base s) :
    ResAway K M base (execLcpRead q addr count s) := by
  unfold execLcpRead
  try dsimp only
  repeat' (first
    | with_reducible assumption
    | with_reducible refine State.lcpRequest_away _ _ _ _ ?_ ?_ (fun x u ka hu hka => ?_) | with_reducible apply hka
    | with_reducible apply State.lcpRequest_away | with_reducible apply State.readRun_away
    | with_reducible apply Away.ite | with_reducible apply ResAway.ite | with_reducible apply ResAway.next
    | simp only [Away.mk_iff] | (refine Away.pages hK ?_; decide) | (refine Away.pages hK ?_; simp; done) | split
    | intro _)

theorem execLcpWrite_away {K : Nat → Prop} {M : Part → Prop} {base : State} (q : LcpReq) (addr : Nat) (words : List Word) (s : State) (hK : ∀ n, ¬K n) (hM : ∀ p ∈ [.bk, .mram, .nor, .ret, .sram, .store], ¬M p) (hk : Away K M base s) :
    ResAway K M base (execLcpWrite q addr words s) := by
  unfold execLcpWrite
  try dsimp only
  repeat' (first
    | with_reducible assumption
    | with_reducible refine State.lcpRequest_away _ _ _ _ ?_ ?_ (fun x u ka hu hka => ?_) | with_reducible apply hka
    | with_reducible apply State.lcpRequest_away | with_reducible apply State.storeWords_away
    | with_reducible apply State.remoteWrite_away | with_reducible apply ResAway.next | simp only [Away.mk_iff]
    | exact hK | exact fun _ _ => hK _ | (refine Away.parts hM ?_; decide) | split | intro _)

theorem execLcpStoreRead_away {K : Nat → Prop} {M : Part → Prop} {base : State} (q : LcpReq) (addr length : Nat) (s : State) (hK : ∀ n ∈ [0x06, 0x18, 0x19, 0x38, 0x44], ¬K n) (hk : Away K M base s) :
    ResAway K M base (execLcpStoreRead q addr length s) := by
  unfold execLcpStoreRead
  try dsimp only
  repeat' (first
    | with_reducible assumption
    | with_reducible refine State.lcpRequest_away _ _ _ _ ?_ ?_ (fun x u ka hu hka => ?_) | with_reducible apply hka
    | with_reducible apply State.lcpRequest_away | with_reducible apply State.storeGet_away
    | with_reducible apply Away.ite | with_reducible apply ResAway.ite | with_reducible apply ResAway.next
    | simp only [Away.mk_iff] | (refine Away.pages hK ?_; decide) | (refine Away.pages hK ?_; simp; done) | split
    | intro _)

theorem execLcpStoreWrite_away {K : Nat → Prop} {M : Part → Prop} {base : State} (q : LcpReq) (addr length : Nat) (data : List Byte) (s : State) (hK : ∀ n ∈ [0x06, 0x18, 0x19, 0x38, 0x44], ¬K n) (hM : ∀ p ∈ [.store], ¬M p) (hk : Away K M base s) :
    ResAway K M base (execLcpStoreWrite q addr length data s) := by
  unfold execLcpStoreWrite
  try dsimp only
  repeat' (first
    | with_reducible assumption
    | with_reducible refine State.lcpRequest_away _ _ _ _ ?_ ?_ (fun x u ka hu hka => ?_) | with_reducible apply hka
    | with_reducible apply State.lcpRequest_away | with_reducible apply State.ownerCode_away
    | with_reducible apply State.storePut_away | with_reducible apply Away.ite | with_reducible apply ResAway.ite
    | with_reducible apply ResAway.next | simp only [Away.mk_iff] | (refine Away.pages hK ?_; decide)
    | (refine Away.pages hK ?_; simp; done) | (refine Away.parts hM ?_; decide) | split | intro _)

theorem execLcpGenStage_away {K : Nat → Prop} {M : Part → Prop} {base : State} (q : LcpReq) (slot addr : Nat) (s : State) (hK : ∀ n ∈ [0x13, 0x44], ¬K n) (hk : Away K M base s) :
    ResAway K M base (execLcpGenStage q slot addr s) := by
  unfold execLcpGenStage
  try dsimp only
  repeat' (first
    | with_reducible assumption
    | with_reducible refine State.lcpRequest_away _ _ _ _ ?_ ?_ (fun x u ka hu hka => ?_) | with_reducible apply hka
    | with_reducible apply State.lcpRequest_away | with_reducible apply State.ownerCode_away
    | with_reducible apply State.disarm_away | with_reducible apply State.setFld_away
    | with_reducible apply State.startStage_away | with_reducible apply Away.ite | with_reducible apply ResAway.ite
    | with_reducible apply ResAway.next | simp only [Away.mk_iff] | (refine Away.pages hK ?_; decide)
    | (refine Away.pages hK ?_; simp; done) | split | intro _)

theorem execLcpCalInstall_away {K : Nat → Prop} {M : Part → Prop} {base : State} (q : LcpReq) (src dst len : Nat) (s : State) (hK : ∀ n ∈ [0x06, 0x18, 0x19, 0x38, 0x44], ¬K n) (hM : ∀ p ∈ [.store], ¬M p) (hk : Away K M base s) :
    ResAway K M base (execLcpCalInstall q src dst len s) := by
  unfold execLcpCalInstall
  try dsimp only
  repeat' (first
    | with_reducible assumption
    | with_reducible refine State.lcpRequest_away _ _ _ _ ?_ ?_ (fun x u ka hu hka => ?_) | with_reducible apply hka
    | with_reducible apply State.lcpRequest_away | with_reducible apply State.ownerCode_away
    | with_reducible apply State.blockReads_away | with_reducible apply State.blockWrite_away
    | with_reducible apply Away.ite | with_reducible apply ResAway.ite | with_reducible apply ResAway.next
    | simp only [Away.mk_iff] | (refine Away.pages hK ?_; decide) | (refine Away.pages hK ?_; simp; done)
    | (refine Away.parts hM ?_; decide) | split | intro _)

theorem execLcpReset_away {K : Nat → Prop} {M : Part → Prop} {base : State} (q : LcpReq) (scope : Nat) (s : State) (hK : ∀ n ∈ [0x01, 0x44], ¬K n) (hk : Away K M base s) :
    ResAway K M base (execLcpReset q scope s) := by
  unfold execLcpReset
  try dsimp only
  repeat' (first
    | with_reducible assumption
    | with_reducible refine State.lcpRequest_away _ _ _ _ ?_ ?_ (fun x u ka hu hka => ?_) | with_reducible apply hka
    | with_reducible apply State.lcpRequest_away | with_reducible apply State.disarm_away
    | with_reducible apply State.setRst_away | with_reducible apply Away.ite | with_reducible apply ResAway.ite
    | with_reducible apply ResAway.next | with_reducible apply Away.four | with_reducible apply State.setFlds_away
    | with_reducible apply Away.flds | with_reducible apply State.setFld_away
    | simp only [List.map_cons, List.map_nil] | simp only [Away.mk_iff] | (refine Away.pages hK ?_; decide)
    | (refine Away.pages hK ?_; simp; done) | split | intro _)

theorem State.claimGranted_away {K : Nat → Prop} {M : Part → Prop} {base : State} (s : State) (segment holder : Nat) (hk : Away K M base s) :
    Away K M base (State.claimGranted s segment holder).1 := by
  unfold State.claimGranted
  try dsimp only
  repeat' (first
    | with_reducible assumption | with_reducible apply State.drawn_away | with_reducible apply Away.ite
    | simp only [Away.mk_iff] | split | intro _)

theorem execLcpOwnClaim_away {K : Nat → Prop} {M : Part → Prop} {base : State} (q : LcpReq) (segment module : Nat) (s : State) (hK : ∀ n ∈ [0x44], ¬K n) (hk : Away K M base s) :
    ResAway K M base (execLcpOwnClaim q segment module s) := by
  unfold execLcpOwnClaim
  try dsimp only
  repeat' (first
    | with_reducible assumption
    | with_reducible refine State.lcpRequest_away _ _ _ _ ?_ ?_ (fun x u ka hu hka => ?_) | with_reducible apply hka
    | with_reducible apply State.lcpRequest_away | with_reducible apply State.claimGranted_away
    | with_reducible apply State.drawn_away | with_reducible apply Away.ite | with_reducible apply ResAway.ite
    | with_reducible apply ResAway.next | with_reducible apply Away.four | simp only [Away.mk_iff]
    | (refine Away.pages hK ?_; decide) | (refine Away.pages hK ?_; simp; done) | split | intro _)

theorem execLcpImgBegin_away {K : Nat → Prop} {M : Part → Prop} {base : State} (q : LcpReq) (header : List Byte) (s : State) (hK : ∀ n ∈ [0x06, 0x18, 0x19, 0x38, 0x44], ¬K n) (hM : ∀ p ∈ [.store], ¬M p) (hk : Away K M base s) :
    ResAway K M base (execLcpImgBegin q header s) := by
  unfold execLcpImgBegin
  try dsimp only
  repeat' (first
    | with_reducible assumption
    | with_reducible refine State.lcpRequest_away _ _ _ _ ?_ ?_ (fun x u ka hu hka => ?_) | with_reducible apply hka
    | with_reducible apply State.lcpRequest_away | with_reducible apply State.blockWrite_away
    | with_reducible apply State.updEnd_away | with_reducible apply State.openTransfer_away
    | with_reducible apply Away.ite | with_reducible apply ResAway.ite | with_reducible apply ResAway.next
    | simp only [Away.mk_iff] | (refine Away.pages hK ?_; decide) | (refine Away.pages hK ?_; simp; done)
    | (refine Away.parts hM ?_; decide) | split | intro _)

theorem execLcpImgData_away {K : Nat → Prop} {M : Part → Prop} {base : State} (q : LcpReq) (offset : Nat) (data : List Byte) (s : State) (hK : ∀ n ∈ [0x06, 0x18, 0x19, 0x38, 0x44], ¬K n) (hM : ∀ p ∈ [.store], ¬M p) (hk : Away K M base s) :
    ResAway K M base (execLcpImgData q offset data s) := by
  unfold execLcpImgData
  try dsimp only
  repeat' (first
    | with_reducible assumption
    | with_reducible refine State.lcpRequest_away _ _ _ _ ?_ ?_ (fun x u ka hu hka => ?_) | with_reducible apply hka
    | with_reducible apply State.lcpRequest_away | with_reducible apply State.storePut_away
    | with_reducible apply Away.ite | with_reducible apply ResAway.ite | with_reducible apply ResAway.next
    | with_reducible apply Away.four | simp only [Away.mk_iff] | (refine Away.pages hK ?_; decide)
    | (refine Away.pages hK ?_; simp; done) | (refine Away.parts hM ?_; decide) | split | intro _)

theorem execLcpImgCommit_away {K : Nat → Prop} {M : Part → Prop} {base : State} (q : LcpReq) (recOk : Bool) (s : State) (hK : ∀ n ∈ [0x06, 0x18, 0x19, 0x38, 0x44], ¬K n) (hM : ∀ p ∈ [.mram], ¬M p) (hk : Away K M base s) :
    ResAway K M base (execLcpImgCommit q recOk s) := by
  unfold execLcpImgCommit
  try dsimp only
  repeat' (first
    | with_reducible assumption
    | with_reducible refine State.lcpRequest_away _ _ _ _ ?_ ?_ (fun x u ka hu hka => ?_) | with_reducible apply hka
    | with_reducible apply State.lcpRequest_away | with_reducible apply State.blockReads_away
    | with_reducible apply State.updEnd_away | with_reducible apply State.closeTransfer_away
    | with_reducible apply State.setFld_away | with_reducible apply State.program_away
    | with_reducible apply Away.ite | with_reducible apply ResAway.ite | with_reducible apply ResAway.next
    | with_reducible apply Away.four | simp only [Away.mk_iff] | (refine Away.pages hK ?_; decide)
    | (refine Away.pages hK ?_; simp; done) | (refine Away.parts hM ?_; decide) | split | intro _)

theorem execLcpImgActivate_away {K : Nat → Prop} {M : Part → Prop} {base : State} (q : LcpReq) (scope version frame : Nat) (s : State) (hK : ∀ n ∈ [0x39, 0x44], ¬K n) (hk : Away K M base s) :
    ResAway K M base (execLcpImgActivate q scope version frame s) := by
  unfold execLcpImgActivate
  try dsimp only
  repeat' (first
    | with_reducible assumption
    | with_reducible refine State.lcpRequest_away _ _ _ _ ?_ ?_ (fun x u ka hu hka => ?_) | with_reducible apply hka
    | with_reducible apply State.lcpRequest_away | with_reducible apply State.armActivation_away
    | with_reducible apply State.sendActivate_away | with_reducible apply Away.ite
    | with_reducible apply ResAway.ite | with_reducible apply ResAway.next | simp only [Away.mk_iff]
    | (refine Away.pages hK ?_; decide) | (refine Away.pages hK ?_; simp; done) | split | intro _)

theorem execImgTransferTimeout_away {K : Nat → Prop} {M : Part → Prop} {base : State} (s : State) (hK : ∀ n ∈ [0x44], ¬K n) (hk : Away K M base s) :
    ResAway K M base (execImgTransferTimeout s) := by
  unfold execImgTransferTimeout
  try dsimp only
  repeat' (first
    | with_reducible assumption | with_reducible apply State.begin_away
    | with_reducible apply State.dropTransfer_away | with_reducible apply ResAway.next | simp only [Away.mk_iff]
    | (refine Away.pages hK ?_; decide) | (refine Away.pages hK ?_; simp; done) | split | intro _)

end Sys2Proof.Machine
end

