-- ==== Sys2Proof/Laws/AwayHspi.lean ====
section
/-! SUPPORT. What the operations of Machine/Hspi.lean stay away from (Laws/Away.lean). -/
set_option linter.all false
set_option Elab.async false

namespace Sys2Proof.Machine

theorem State.hspiEnd_away {K : Nat → Prop} {M : Part → Prop} {base : State} (s : State) (cmd code : Nat) (hK : ∀ n ∈ [0x48], ¬K n) (hk : Away K M base s) :
    Away K M base (State.hspiEnd s cmd code) := by
  unfold State.hspiEnd
  try dsimp only
  repeat' (first
    | with_reducible assumption | with_reducible apply State.inc_away | with_reducible apply State.irq_away
    | with_reducible apply Away.ite | with_reducible apply State.setFlds_away | with_reducible apply Away.flds
    | with_reducible apply State.setFld_away | simp only [List.map_cons, List.map_nil] | simp only [Away.mk_iff]
    | (refine Away.pages hK ?_; decide) | (refine Away.pages hK ?_; simp; done) | split | intro _)

theorem State.hspiRead_away {K : Nat → Prop} {M : Part → Prop} {base : State} (s : State) (cmd n status : Nat) (data : List Byte) (hK : ∀ n ∈ [0x48], ¬K n) (hk : Away K M base s) :
    Away K M base (State.hspiRead s cmd n status data) := by
  unfold State.hspiRead
  try dsimp only
  repeat' (first
    | with_reducible assumption | with_reducible apply State.hspiEnd_away | with_reducible apply State.drawn_away
    | with_reducible apply State.emit_away | simp only [Away.mk_iff] | (refine Away.pages hK ?_; decide)
    | (refine Away.pages hK ?_; simp; done) | split | intro _)

theorem State.hspiWritten_away {K : Nat → Prop} {M : Part → Prop} {base : State} (s : State) (cmd status : Nat) (hK : ∀ n ∈ [0x48], ¬K n) (hk : Away K M base s) :
    Away K M base (State.hspiWritten s cmd status) := by
  unfold State.hspiWritten
  try dsimp only
  repeat' (first
    | with_reducible assumption | with_reducible apply State.hspiEnd_away | with_reducible apply State.irq_away
    | with_reducible apply Away.ite | with_reducible apply Away.four | simp only [Away.mk_iff]
    | (refine Away.pages hK ?_; decide) | (refine Away.pages hK ?_; simp; done) | split | intro _)

theorem execHspiRead_away {K : Nat → Prop} {M : Part → Prop} {base : State} (addr count : Nat) (crcOk : Bool) (s : State) (hK : ∀ n ∈ [0x06, 0x08, 0x31, 0x3C, 0x48], ¬K n) (hk : Away K M base s) :
    ResAway K M base (execHspiRead addr count crcOk s) := by
  unfold execHspiRead
  try dsimp only
  repeat' (first
    | with_reducible assumption | with_reducible apply State.begin_away | with_reducible apply State.hspiEnd_away
    | with_reducible apply State.emit_away | with_reducible apply State.readRun_away
    | with_reducible apply State.hspiRead_away | with_reducible apply Away.ite | with_reducible apply ResAway.ite
    | with_reducible apply ResAway.next | simp only [Away.mk_iff] | (refine Away.pages hK ?_; decide)
    | (refine Away.pages hK ?_; simp; done) | split | intro _)

theorem execHspiWrite_away {K : Nat → Prop} {M : Part → Prop} {base : State} (addr : Nat) (words : List Word) (crcOk : Bool) (s : State) (hK : ∀ n, ¬K n) (hM : ∀ p ∈ [.bk, .mram, .nor, .ret, .sram, .store], ¬M p) (hk : Away K M base s) :
    ResAway K M base (execHspiWrite addr words crcOk s) := by
  unfold execHspiWrite
  try dsimp only
  repeat' (first
    | with_reducible assumption | with_reducible apply State.begin_away | with_reducible apply State.hspiEnd_away
    | with_reducible apply State.storeWords_away | with_reducible apply State.remoteWrite_away
    | with_reducible apply State.hspiWritten_away | with_reducible apply Away.ite | with_reducible apply ResAway.ite
    | with_reducible apply ResAway.next | simp only [Away.mk_iff] | exact hK | exact fun _ _ => hK _
    | (refine Away.parts hM ?_; decide) | split | intro _)

theorem execHspiStoreRead_away {K : Nat → Prop} {M : Part → Prop} {base : State} (addr length : Nat) (crcOk : Bool) (s : State) (hK : ∀ n ∈ [0x06, 0x18, 0x19, 0x38, 0x48], ¬K n) (hk : Away K M base s) :
    ResAway K M base (execHspiStoreRead addr length crcOk s) := by
  unfold execHspiStoreRead
  try dsimp only
  repeat' (first
    | with_reducible assumption | with_reducible apply State.begin_away | with_reducible apply State.hspiEnd_away
    | with_reducible apply State.emit_away | with_reducible apply State.storeGet_away
    | with_reducible apply State.hspiRead_away | with_reducible apply Away.ite | with_reducible apply ResAway.ite
    | with_reducible apply ResAway.next | simp only [Away.mk_iff] | (refine Away.pages hK ?_; decide)
    | (refine Away.pages hK ?_; simp; done) | split | intro _)

theorem execHspiStoreWrite_away {K : Nat → Prop} {M : Part → Prop} {base : State} (addr length : Nat) (data : List Byte) (crcOk : Bool) (s : State) (hK : ∀ n ∈ [0x06, 0x18, 0x19, 0x38, 0x48], ¬K n) (hM : ∀ p ∈ [.store], ¬M p) (hk : Away K M base s) :
    ResAway K M base (execHspiStoreWrite addr length data crcOk s) := by
  unfold execHspiStoreWrite
  try dsimp only
  repeat' (first
    | with_reducible assumption | with_reducible apply State.begin_away | with_reducible apply State.hspiEnd_away
    | with_reducible apply State.hspiWritten_away | with_reducible apply State.storePut_away
    | with_reducible apply Away.ite | with_reducible apply ResAway.ite | with_reducible apply ResAway.next
    | simp only [Away.mk_iff] | (refine Away.pages hK ?_; decide) | (refine Away.pages hK ?_; simp; done)
    | (refine Away.parts hM ?_; decide) | split | intro _)

theorem execHspiStatus_away {K : Nat → Prop} {M : Part → Prop} {base : State} (s : State) (hK : ∀ n ∈ [0x48], ¬K n) (hk : Away K M base s) :
    ResAway K M base (execHspiStatus s) := by
  unfold execHspiStatus
  try dsimp only
  repeat' (first
    | with_reducible assumption | with_reducible apply State.begin_away | with_reducible apply State.hspiEnd_away
    | with_reducible apply State.emit_away | with_reducible apply Away.ite | with_reducible apply ResAway.ite
    | with_reducible apply ResAway.next | simp only [Away.mk_iff] | (refine Away.pages hK ?_; decide)
    | (refine Away.pages hK ?_; simp; done) | split | intro _)

theorem execSysreset_away {K : Nat → Prop} {M : Part → Prop} {base : State} (crcOk : Bool) (s : State) (hK : ∀ n, ¬K n) (hM : ∀ p ∈ [.bk, .mram, .nor, .ret, .sram, .store, .tcm], ¬M p) (hk : Away K M base s) :
    ResAway K M base (execSysreset crcOk s) := by
  unfold execSysreset
  try dsimp only
  repeat' (first
    | with_reducible assumption | with_reducible apply State.begin_away | with_reducible apply State.hspiEnd_away
    | with_reducible apply State.systemSaved_away | with_reducible apply Away.ite | with_reducible apply ResAway.ite
    | with_reducible apply ResAway.next | with_reducible apply Away.four | simp only [Away.mk_iff] | exact hK
    | exact fun _ _ => hK _ | (refine Away.parts hM ?_; decide) | split | intro _)

theorem execHspiTransactionRefused_away {K : Nat → Prop} {M : Part → Prop} {base : State} (cmd : Nat) (s : State) (hK : ∀ n ∈ [0x48], ¬K n) (hk : Away K M base s) :
    ResAway K M base (execHspiTransactionRefused cmd s) := by
  unfold execHspiTransactionRefused
  try dsimp only
  repeat' (first
    | with_reducible assumption | with_reducible apply State.begin_away | with_reducible apply State.hspiEnd_away
    | with_reducible apply Away.ite | with_reducible apply ResAway.ite | with_reducible apply ResAway.next
    | simp only [Away.mk_iff] | (refine Away.pages hK ?_; decide) | (refine Away.pages hK ?_; simp; done) | split
    | intro _)

end Sys2Proof.Machine
end

