-- ==== Sys2Proof/Laws/AwayCoreMem.lean ====
section
/-! SUPPORT. What the operations of Machine/CoreMem.lean stay away from (Laws/Away.lean). -/
set_option linter.all false
set_option Elab.async false

namespace Sys2Proof.Machine

theorem State.coreFaultAt_away {K : Nat → Prop} {M : Part → Prop} {base : State} (s : State) (h addr : Nat) (op : CoreOp) (hk : Away K M base s) :
    ResAway K M base (State.coreFaultAt s h addr op) := by
  unfold State.coreFaultAt
  repeat' (first
    | with_reducible assumption | with_reducible apply State.coreTrap_away | with_reducible apply ResAway.next
    | simp only [Away.mk_iff] | split | intro _)

theorem State.setRamBad_away {K : Nat → Prop} {M : Part → Prop} {base : State} (s : State) (r : RamPlace) (l : List Nat) (hM : ∀ p ∈ [.sram, .tcm], ¬M p) (hk : Away K M base s) :
    Away K M base (State.setRamBad s r l) := by
  unfold State.setRamBad
  try dsimp only
  repeat' (first
    | with_reducible assumption | with_reducible apply Away.ite | with_reducible apply Away.four
    | with_reducible apply Away.fourMem | simp only [Away.mk_iff]
    | (intro (p : Part) hp; cases p <;> first | exact absurd hp (hM _ (by decide)) | (simp only [Mems.part, State.drawn_mem]; done))
    | (refine Away.parts hM ?_; decide) | split | intro _)

theorem State.ramWrite_away {K : Nat → Prop} {M : Part → Prop} {base : State} (s : State) (h : Nat) (r : RamPlace) (bs : List Byte) (hM : ∀ p ∈ [.sram, .tcm], ¬M p) (hk : Away K M base s) :
    Away K M base (State.ramWrite s h r bs) := by
  unfold State.ramWrite
  try dsimp only
  repeat' (first
    | with_reducible assumption | with_reducible apply State.setRamBad_away
    | with_reducible apply State.breakReservations_away | with_reducible apply State.wroteCode_away
    | with_reducible apply Away.ite | with_reducible apply Away.four | with_reducible apply Away.fourMem
    | simp only [Away.mk_iff]
    | (intro (p : Part) hp; cases p <;> first | exact absurd hp (hM _ (by decide)) | (simp only [Mems.part, State.drawn_mem]; done))
    | (refine Away.parts hM ?_; decide) | split | intro _)

theorem State.memUe_away {K : Nat → Prop} {M : Part → Prop} {base : State} (s : State) (h addr : Nat) (r : RamPlace) (fetch : Bool) (hK : ∀ n ∈ [0x00, 0x06], ¬K n) (hk : Away K M base s) :
    Away K M base (State.memUe s h addr r fetch) := by
  unfold State.memUe
  try dsimp only
  repeat' (first
    | with_reducible assumption | with_reducible apply State.inc_away | with_reducible apply State.occur_away
    | with_reducible apply State.drawn_away | with_reducible apply State.setFlds_away
    | with_reducible apply Away.flds | with_reducible apply State.setFld_away
    | simp only [List.map_cons, List.map_nil] | simp only [Away.mk_iff] | (refine Away.pages hK ?_; decide)
    | (refine Away.pages hK ?_; simp; done) | split | intro _)

theorem State.ramEcc_away {K : Nat → Prop} {M : Part → Prop} {base : State} (s : State) (r : RamPlace) (e : Ecc) (hK : ∀ n ∈ [0x00], ¬K n) (hM : ∀ p ∈ [.sram, .tcm], ¬M p) (hk : Away K M base s) :
    Away K M base (State.ramEcc s r e) := by
  unfold State.ramEcc
  try dsimp only
  repeat' (first
    | with_reducible assumption | with_reducible apply State.inc_away | with_reducible apply State.setRamBad_away
    | with_reducible apply Away.ite | simp only [Away.mk_iff] | (refine Away.pages hK ?_; decide)
    | (refine Away.pages hK ?_; simp; done) | (refine Away.parts hM ?_; decide) | split | intro _)

theorem State.unreserve_away {K : Nat → Prop} {M : Part → Prop} {base : State} (s : State) (h : Nat) (hk : Away K M base s) :
    Away K M base (State.unreserve s h) := by
  unfold State.unreserve
  try dsimp only
  repeat' (first
    | with_reducible assumption | with_reducible apply Away.four | simp only [Away.mk_iff] | split | intro _)

theorem State.serveRam_away {K : Nat → Prop} {M : Part → Prop} {base : State} (s : State) (h addr : Nat) (op : CoreOp) (r : RamPlace) (hK : ∀ n ∈ [0x00, 0x06], ¬K n) (hM : ∀ p ∈ [.sram, .tcm], ¬M p) (hk : Away K M base s) :
    Away K M base (State.serveRam s h addr op r) := by
  unfold State.serveRam
  try dsimp only
  repeat' (first
    | with_reducible assumption | with_reducible apply State.unreserve_away | with_reducible apply State.drawn_away
    | with_reducible apply State.emit_away | with_reducible apply State.memUe_away
    | with_reducible apply State.coreTrap_away | with_reducible apply State.ramWrite_away
    | with_reducible apply Away.ite | with_reducible apply Away.four | simp only [Away.mk_iff]
    | (refine Away.pages hK ?_; decide) | (refine Away.pages hK ?_; simp; done) | (refine Away.parts hM ?_; decide)
    | split | intro _)

theorem State.accessRam_away {K : Nat → Prop} {M : Part → Prop} {base : State} (s : State) (h addr : Nat) (op : CoreOp) (e : Ecc) (r : RamPlace) (hK : ∀ n ∈ [0x00, 0x06], ¬K n) (hM : ∀ p ∈ [.sram, .tcm], ¬M p) (hk : Away K M base s) :
    ResAway K M base (State.accessRam s h addr op e r) := by
  unfold State.accessRam
  try dsimp only
  repeat' (first
    | with_reducible assumption | with_reducible apply State.coreTrap_away | with_reducible apply State.ramEcc_away
    | with_reducible apply State.serveRam_away | with_reducible apply Away.ite | with_reducible apply ResAway.ite
    | with_reducible apply ResAway.next | with_reducible apply ResAway.fault | simp only [Away.mk_iff]
    | (refine Away.pages hK ?_; decide) | (refine Away.pages hK ?_; simp; done) | (refine Away.parts hM ?_; decide)
    | split | intro _)

theorem State.accessPlain_away {K : Nat → Prop} {M : Part → Prop} {base : State} (s : State) (h addr : Nat) (op : CoreOp)
    (get : Nat → List Byte) (put : List Byte → Res) (hk : Away K M base s) (hp : ∀ d, ResAway K M base (put d)) :
    ResAway K M base (State.accessPlain s h addr op get put) := by
  unfold State.accessPlain
  split
  · exact ResAway.next (State.coreTrap_away _ _ _ _ hk)
  · split
    · exact ResAway.next (State.coreTrap_away _ _ _ _ hk)
    · split
      · exact hp _
      · exact ResAway.next (State.emit_away _ _ hk)

theorem State.accessRom_away {K : Nat → Prop} {M : Part → Prop} {base : State} (s : State) (h addr : Nat) (op : CoreOp) (get : Nat → List Byte) (hk : Away K M base s) :
    ResAway K M base (State.accessRom s h addr op get) := by
  unfold State.accessRom
  try dsimp only
  repeat' (first
    | with_reducible assumption | with_reducible apply State.accessPlain_away
    | with_reducible apply State.coreTrap_away | with_reducible apply ResAway.next | simp only [Away.mk_iff] | split
    | intro _)

theorem State.accessRetained_away {K : Nat → Prop} {M : Part → Prop} {base : State} (s : State) (h addr : Nat) (op : CoreOp) (hM : ∀ p ∈ [.ret], ¬M p) (hk : Away K M base s) :
    ResAway K M base (State.accessRetained s h addr op) := by
  unfold State.accessRetained
  try dsimp only
  repeat' (first
    | with_reducible assumption | with_reducible apply State.accessPlain_away
    | with_reducible apply State.wroteCode_away | with_reducible apply Away.ite | with_reducible apply ResAway.ite
    | with_reducible apply ResAway.next | with_reducible apply ResAway.fault | with_reducible apply Away.four
    | with_reducible apply Away.fourMem | simp only [Away.mk_iff]
    | (intro (p : Part) hp; cases p <;> first | exact absurd hp (hM _ (by decide)) | (simp only [Mems.part, State.drawn_mem]; done))
    | (refine Away.parts hM ?_; decide) | split | intro _)

theorem State.accessBackup_away {K : Nat → Prop} {M : Part → Prop} {base : State} (s : State) (h addr : Nat) (op : CoreOp) (hM : ∀ p ∈ [.bk], ¬M p) (hk : Away K M base s) :
    ResAway K M base (State.accessBackup s h addr op) := by
  unfold State.accessBackup
  try dsimp only
  repeat' (first
    | with_reducible assumption | with_reducible apply State.accessPlain_away
    | with_reducible apply State.wroteCode_away | with_reducible apply ResAway.next | with_reducible apply Away.four
    | with_reducible apply Away.fourMem | simp only [Away.mk_iff]
    | (intro (p : Part) hp; cases p <;> first | exact absurd hp (hM _ (by decide)) | (simp only [Mems.part, State.drawn_mem]; done))
    | (refine Away.parts hM ?_; decide) | split | intro _)

theorem State.mramUe_away {K : Nat → Prop} {M : Part → Prop} {base : State} (s : State) (a : Nat) (hK : ∀ n ∈ [0x06, 0x46], ¬K n) (hk : Away K M base s) :
    Away K M base (State.mramUe s a) := by
  unfold State.mramUe
  repeat' (first
    | with_reducible assumption | with_reducible apply State.inc_away | with_reducible apply State.event_away
    | with_reducible apply State.setFlds_away | with_reducible apply Away.flds
    | with_reducible apply State.setFld_away | simp only [List.map_cons, List.map_nil] | simp only [Away.mk_iff]
    | (refine Away.pages hK ?_; decide) | (refine Away.pages hK ?_; simp; done) | split | intro _)

theorem State.accessMram_away {K : Nat → Prop} {M : Part → Prop} {base : State} (s : State) (h addr : Nat) (op : CoreOp) (e : Ecc) (hK : ∀ n ∈ [0x06, 0x46], ¬K n) (hM : ∀ p ∈ [.mram], ¬M p) (hk : Away K M base s) :
    ResAway K M base (State.accessMram s h addr op e) := by
  unfold State.accessMram
  try dsimp only
  repeat' (first
    | with_reducible assumption | with_reducible apply State.coreTrap_away | with_reducible apply State.setFld_away
    | with_reducible apply State.coreFaultAt_away | with_reducible apply State.inc_away
    | with_reducible apply State.mramUe_away | with_reducible apply State.wroteCode_away
    | with_reducible apply State.emit_away | with_reducible apply Away.ite | with_reducible apply ResAway.ite
    | with_reducible apply ResAway.next | with_reducible apply Away.four | with_reducible apply Away.fourMem
    | simp only [Away.mk_iff]
    | (intro (p : Part) hp; cases p <;> first | exact absurd hp (hM _ (by decide)) | (simp only [Mems.part, State.drawn_mem]; done))
    | (refine Away.pages hK ?_; decide) | (refine Away.pages hK ?_; simp; done) | (refine Away.parts hM ?_; decide)
    | split | intro _)

theorem State.accessPage_away {K : Nat → Prop} {M : Part → Prop} {base : State} (s : State) (h addr : Nat) (op : CoreOp) (hK : ∀ n, ¬K n) (hM : ∀ p ∈ [.bk, .mram, .nor, .ret, .sram, .store], ¬M p) (hk : Away K M base s) :
    ResAway K M base (State.accessPage s h addr op) := by
  unfold State.accessPage
  try dsimp only
  repeat' (first
    | with_reducible assumption | with_reducible apply State.coreTrap_away
    | with_reducible apply State.coreFaultAt_away | with_reducible apply State.after_away
    | with_reducible apply State.begin_away | with_reducible apply State.busRead_away
    | with_reducible apply State.masterWrite_away | with_reducible apply Away.ite | with_reducible apply ResAway.ite
    | with_reducible apply ResAway.next | simp only [Away.mk_iff] | exact hK | exact fun _ _ => hK _
    | (refine Away.parts hM ?_; decide) | split | intro _)

theorem State.windowStep_away {K : Nat → Prop} {M : Part → Prop} {base : State} (s : State) (h addr : Nat) (op : CoreOp) (e : Ecc) (hK : ∀ n ∈ [0x06, 0x18, 0x19, 0x38], ¬K n) (hM : ∀ p ∈ [.store], ¬M p) (hk : Away K M base s) :
    ResAway K M base (State.windowStep s h addr op e) := by
  unfold State.windowStep
  try dsimp only
  repeat' (first
    | with_reducible assumption | with_reducible apply State.fenceI_away
    | with_reducible apply State.windowAccess_away | with_reducible apply Away.ite
    | with_reducible apply ResAway.ite | with_reducible apply ResAway.next | with_reducible apply ResAway.fault
    | simp only [Away.mk_iff] | (refine Away.pages hK ?_; decide) | (refine Away.pages hK ?_; simp; done)
    | (refine Away.parts hM ?_; decide) | split | intro _)

theorem execStoreWindowAccess_away {K : Nat → Prop} {M : Part → Prop} {base : State} (h addr : Nat) (op : CoreOp) (e : Ecc) (s : State) (hK : ∀ n ∈ [0x06, 0x18, 0x19, 0x38], ¬K n) (hM : ∀ p ∈ [.store], ¬M p) (hk : Away K M base s) :
    ResAway K M base (execStoreWindowAccess h addr op e s) := by
  unfold execStoreWindowAccess
  try dsimp only
  repeat' (first
    | with_reducible assumption | with_reducible apply State.begin_away | with_reducible apply State.fenceI_away
    | with_reducible apply State.windowStep_away | with_reducible apply State.coreFaultAt_away
    | with_reducible apply Away.ite | with_reducible apply ResAway.ite | with_reducible apply ResAway.next
    | simp only [Away.mk_iff] | (refine Away.pages hK ?_; decide) | (refine Away.pages hK ?_; simp; done)
    | (refine Away.parts hM ?_; decide) | split | intro _)

theorem execCoreMemoryAccess_away {K : Nat → Prop} {M : Part → Prop} {base : State} (h addr : Nat) (op : CoreOp) (e : Ecc) (s : State) (hK : ∀ n, ¬K n) (hM : ∀ p ∈ [.bk, .mram, .nor, .ret, .sram, .store, .tcm], ¬M p) (hk : Away K M base s) :
    ResAway K M base (execCoreMemoryAccess h addr op e s) := by
  unfold execCoreMemoryAccess
  try dsimp only
  repeat' (first
    | with_reducible assumption | with_reducible apply State.begin_away | with_reducible apply State.fenceI_away
    | with_reducible apply State.coreFaultAt_away | with_reducible apply State.accessRam_away
    | with_reducible apply State.accessRom_away | with_reducible apply State.accessRetained_away
    | with_reducible apply State.accessBackup_away | with_reducible apply State.accessPage_away
    | with_reducible apply State.accessMram_away | with_reducible apply State.windowStep_away
    | with_reducible apply State.coreTrap_away | with_reducible apply Away.ite | with_reducible apply ResAway.ite
    | with_reducible apply ResAway.next | with_reducible apply ResAway.fault | simp only [Away.mk_iff] | exact hK
    | exact fun _ _ => hK _ | (refine Away.parts hM ?_; decide) | split | intro _)

end Sys2Proof.Machine
end

