-- ==== Sys2Proof/Laws/AwayTick.lean ====
section
/-! SUPPORT. What the operations of Machine/Tick.lean stay away from (Laws/Away.lean). -/
set_option linter.all false
set_option Elab.async false

namespace Sys2Proof.Machine

theorem State.rtcTick_away {K : Nat → Prop} {M : Part → Prop} {base : State} (s : State) (hK : ∀ n ∈ [0x05, 0x06], ¬K n) (hM : ∀ p ∈ [.mram, .ret], ¬M p) (hk : Away K M base s) :
    Away K M base (State.rtcTick s) := by
  unfold State.rtcTick
  try dsimp only
  repeat' (first
    | with_reducible assumption | with_reducible apply State.rtcEdge_away | with_reducible apply Away.ite
    | with_reducible apply Away.four | simp only [Away.mk_iff] | (refine Away.pages hK ?_; decide)
    | (refine Away.pages hK ?_; simp; done) | (refine Away.parts hM ?_; decide) | split | intro _)

theorem State.countTcxo_away {K : Nat → Prop} {M : Part → Prop} {base : State} (s : State) (hk : Away K M base s) :
    Away K M base (State.countTcxo s) := by
  unfold State.countTcxo
  try dsimp only
  repeat' (first
    | with_reducible assumption | with_reducible apply Away.four | simp only [Away.mk_iff] | split | intro _)

theorem State.countHold_away {K : Nat → Prop} {M : Part → Prop} {base : State} (s : State) (hk : Away K M base s) :
    Away K M base (State.countHold s) := by
  unfold State.countHold
  try dsimp only
  repeat' (first
    | with_reducible assumption | with_reducible apply Away.ite | with_reducible apply Away.four
    | simp only [Away.mk_iff] | split | intro _)

theorem State.countFrame_away {K : Nat → Prop} {M : Part → Prop} {base : State} (s : State) (hk : Away K M base s) :
    Away K M base (State.countFrame s) := by
  unfold State.countFrame
  try dsimp only
  repeat' (first
    | with_reducible assumption | with_reducible apply State.countHold_away | with_reducible apply Away.ite
    | with_reducible apply Away.four | simp only [Away.mk_iff] | split | intro _)

theorem State.countLeft_away {K : Nat → Prop} {M : Part → Prop} {base : State} (s : State) (hk : Away K M base s) :
    Away K M base (State.countLeft s) := by
  unfold State.countLeft
  try dsimp only
  repeat' (first
    | with_reducible assumption | with_reducible apply Away.ite | with_reducible apply Away.four
    | simp only [Away.mk_iff] | split | intro _)

theorem State.countMtime_away {K : Nat → Prop} {M : Part → Prop} {base : State} (s : State) (hk : Away K M base s) :
    Away K M base (State.countMtime s) := by
  unfold State.countMtime
  try dsimp only
  repeat' (first
    | with_reducible assumption | with_reducible apply Away.ite | with_reducible apply Away.four
    | simp only [Away.mk_iff] | split | intro _)

theorem State.countUart_away {K : Nat → Prop} {M : Part → Prop} {base : State} (s : State) (hK : ∀ n ∈ [0x4C], ¬K n) (hk : Away K M base s) :
    Away K M base (State.countUart s) := by
  unfold State.countUart
  repeat' (first
    | with_reducible assumption | with_reducible apply State.uartTick_away | with_reducible apply Away.ite
    | simp only [Away.mk_iff] | (refine Away.pages hK ?_; decide) | (refine Away.pages hK ?_; simp; done) | split
    | intro _)

theorem State.tick_away {K : Nat → Prop} {M : Part → Prop} {base : State} (s : State) (hK : ∀ n ∈ [0x05, 0x06, 0x4C], ¬K n) (hM : ∀ p ∈ [.mram, .ret], ¬M p) (hk : Away K M base s) :
    Away K M base (State.tick s) := by
  unfold State.tick
  try dsimp only
  repeat' (first
    | with_reducible assumption | with_reducible apply State.begin_away | with_reducible apply State.rtcTick_away
    | with_reducible apply State.countMtime_away | with_reducible apply State.countUart_away
    | with_reducible apply State.countTcxo_away | with_reducible apply State.countLeft_away
    | with_reducible apply State.countFrame_away | with_reducible apply Away.ite | simp only [Away.mk_iff]
    | (refine Away.pages hK ?_; decide) | (refine Away.pages hK ?_; simp; done) | (refine Away.parts hM ?_; decide)
    | split | intro _)

end Sys2Proof.Machine
end

