-- ==== Sys2Proof/Laws/Begin.lean ====
section
/-! SUPPORT. What is read of a state does not depend on the answers a command starts by dropping. -/
set_option linter.all false
set_option Elab.async false
namespace Sys2Proof.Machine

@[simp] theorem State.begin_reg (s : State) (page off : Nat) : s.begin.reg page off = s.reg page off := rfl
@[simp] theorem State.begin_fld (s : State) (f : Fld) : s.begin.fld f = s.fld f := rfl
@[simp] theorem State.begin_flag (s : State) (f : Fld) : s.begin.flag f = s.flag f := rfl
@[simp] theorem State.begin_bit (s : State) (f : Fld) (k : Nat) : s.begin.bit f k = s.bit f k := rfl
@[simp] theorem State.begin_wide (s : State) (lo hi : Fld) : s.begin.wide lo hi = s.wide lo hi := rfl
@[simp] theorem State.begin_freeBits (s : State) (w : Nat) : s.begin.freeBits w = s.freeBits w := rfl
@[simp] theorem State.begin_pageAbsent (s : State) (page : Nat) : s.begin.pageAbsent page = s.pageAbsent page := rfl
@[simp] theorem State.begin_power (s : State) : s.begin.power = s.power := rfl
@[simp] theorem State.begin_inBivouac (s : State) : s.begin.inBivouac = s.inBivouac := rfl
@[simp] theorem State.begin_cpDown (s : State) : s.begin.cpDown = s.cpDown := rfl
@[simp] theorem State.begin_inRun (s : State) : s.begin.inRun = s.inRun := rfl
@[simp] theorem State.begin_gridRuns (s : State) : s.begin.gridRuns = s.gridRuns := rfl
@[simp] theorem State.begin_isDark (s : State) : s.begin.isDark = s.isDark := rfl
@[simp] theorem State.begin_retLocked (s : State) : s.begin.retLocked = s.retLocked := rfl
@[simp] theorem State.begin_lineHigh (s : State) (line : Nat) : s.begin.lineHigh line = s.lineHigh line := rfl
@[simp] theorem State.begin_linePosts (s : State) (line : Nat) : s.begin.linePosts line = s.linePosts line := rfl
@[simp] theorem State.begin_hasFence (s : State) (page unit : Nat) : s.begin.hasFence page unit = s.hasFence page unit := rfl
@[simp] theorem State.begin_isFenced (s : State) (page unit : Nat) : s.begin.isFenced page unit = s.isFenced page unit := rfl
@[simp] theorem State.begin_pageFenced (s : State) (page : Nat) : s.begin.pageFenced page = s.pageFenced page := rfl
@[simp] theorem State.begin_codeStale (s : State) (h a n : Nat) : s.begin.codeStale h a n = s.codeStale h a n := rfl
@[simp] theorem State.begin_now (s : State) : s.begin.now = s.now := rfl
@[simp] theorem State.begin_recentFaults (s : State) (p : Port) : s.begin.recentFaults p = s.recentFaults p := rfl
@[simp] theorem State.begin_isArmed (s : State) (page : Nat) : s.begin.isArmed page = s.isArmed page := rfl
@[simp] theorem State.begin_storeSize (s : State) : s.begin.storeSize = s.storeSize := rfl
@[simp] theorem State.begin_storeWordBad (s : State) (a : Nat) : s.begin.storeWordBad a = s.storeWordBad a := rfl
@[simp] theorem State.begin_storeRangeBad (s : State) (a n : Nat) : s.begin.storeRangeBad a n = s.storeRangeBad a n := rfl
@[simp] theorem State.begin_firstBad (s : State) (a n : Nat) : s.begin.firstBad a n = s.firstBad a n := rfl
@[simp] theorem State.begin_storeRead (s : State) (a n : Nat) : s.begin.storeRead a n = s.storeRead a n := rfl
@[simp] theorem State.begin_bufOf (s : State) (f : Nat) : s.begin.bufOf f = s.bufOf f := rfl
@[simp] theorem State.begin_windowAddr (s : State) (addr : Nat) : s.begin.windowAddr addr = s.windowAddr addr := rfl
@[simp] theorem State.begin_screeEnd (s : State) : s.begin.screeEnd = s.screeEnd := rfl
@[simp] theorem State.begin_slot (s : State) (k : Nat) : s.begin.slot k = s.slot k := rfl
@[simp] theorem State.begin_slotState (s : State) (k : Nat) : s.begin.slotState k = s.slotState k := rfl
@[simp] theorem State.begin_slotGen (s : State) (k : Nat) : s.begin.slotGen k = s.slotGen k := rfl
@[simp] theorem State.begin_readySlot (s : State) : s.begin.readySlot = s.readySlot := rfl
@[simp] theorem State.begin_readyGen (s : State) : s.begin.readyGen = s.readyGen := rfl
@[simp] theorem State.begin_curSlot (s : State) : s.begin.curSlot = s.curSlot := rfl
@[simp] theorem State.begin_curGen (s : State) : s.begin.curGen = s.curGen := rfl
@[simp] theorem State.begin_lastStaged (s : State) : s.begin.lastStaged = s.lastStaged := rfl
@[simp] theorem State.begin_timingSlot (s : State) : s.begin.timingSlot = s.timingSlot := rfl
@[simp] theorem State.begin_partySlot (s : State) : s.begin.partySlot = s.partySlot := rfl
@[simp] theorem State.begin_secCount (s : State) (a : Nat) : s.begin.secCount a = s.secCount a := rfl
@[simp] theorem State.begin_secFind (s : State) (a page kind : Nat) : s.begin.secFind a page kind = s.secFind a page kind := rfl
@[simp] theorem State.begin_timingOf (s : State) (k : Option Nat) : s.begin.timingOf k = s.timingOf k := rfl
@[simp] theorem State.begin_timing (s : State) : s.begin.timing = s.timing := rfl
@[simp] theorem State.begin_checkTiming (s : State) : s.begin.checkTiming = s.checkTiming := rfl
@[simp] theorem State.begin_partyBytes (s : State) : s.begin.partyBytes = s.partyBytes := rfl
@[simp] theorem State.begin_isMember (s : State) (id : Nat) : s.begin.isMember id = s.isMember id := rfl
@[simp] theorem State.begin_position (s : State) : s.begin.position = s.position := rfl
@[simp] theorem State.begin_ownSegment (s : State) : s.begin.ownSegment = s.ownSegment := rfl
@[simp] theorem State.begin_ownId (s : State) : s.begin.ownId = s.ownId := rfl
@[simp] theorem State.begin_partnerId (s : State) : s.begin.partnerId = s.partnerId := rfl
@[simp] theorem State.begin_summitId (s : State) : s.begin.summitId = s.summitId := rfl
@[simp] theorem State.begin_standbyId (s : State) : s.begin.standbyId = s.standbyId := rfl
@[simp] theorem State.begin_isCandidate (s : State) (id : Nat) : s.begin.isCandidate id = s.isCandidate id := rfl
@[simp] theorem State.begin_partyParam (s : State) (off len : Nat) : s.begin.partyParam off len = s.partyParam off len := rfl
@[simp] theorem State.begin_timedParam (s : State) (off len : Nat) : s.begin.timedParam off len = s.timedParam off len := rfl
@[simp] theorem State.begin_readyIngest (s : State) : s.begin.readyIngest = s.readyIngest := rfl
@[simp] theorem State.begin_readyDiffers (s : State) : s.begin.readyDiffers = s.readyDiffers := rfl
@[simp] theorem State.begin_ptpState (s : State) : s.begin.ptpState = s.ptpState := rfl
@[simp] theorem State.begin_ptpIsLocked (s : State) : s.begin.ptpIsLocked = s.ptpIsLocked := rfl
@[simp] theorem State.begin_timeValid (s : State) : s.begin.timeValid = s.timeValid := rfl
@[simp] theorem State.begin_syncNs (s : State) : s.begin.syncNs = s.syncNs := rfl
@[simp] theorem State.begin_delayNow (s : State) : s.begin.delayNow = s.delayNow := rfl
@[simp] theorem State.begin_ptpListens (s : State) (p : Port) : s.begin.ptpListens p = s.ptpListens p := rfl
@[simp] theorem State.begin_fromMaster (s : State) (p : Port) (source domain : Nat) : s.begin.fromMaster p source domain = s.fromMaster p source domain := rfl
@[simp] theorem State.begin_activePort (s : State) : s.begin.activePort = s.activePort := rfl
@[simp] theorem State.begin_gmRole (s : State) : s.begin.gmRole = s.gmRole := rfl
@[simp] theorem State.begin_ownPrio2 (s : State) : s.begin.ownPrio2 = s.ownPrio2 := rfl
@[simp] theorem State.begin_ownRank (s : State) : s.begin.ownRank = s.ownRank := rfl
@[simp] theorem State.begin_gmPermitted (s : State) : s.begin.gmPermitted = s.gmPermitted := rfl
@[simp] theorem State.begin_announceWindow (s : State) : s.begin.announceWindow = s.announceWindow := rfl
@[simp] theorem State.begin_qualified (s : State) (a : PtpAnnounce) : s.begin.qualified a = s.qualified a := rfl
@[simp] theorem State.begin_allQuiet (s : State) : s.begin.allQuiet = s.allQuiet := rfl
@[simp] theorem State.begin_ppsRuns (s : State) : s.begin.ppsRuns = s.ppsRuns := rfl
@[simp] theorem State.begin_portEn (s : State) (p : Port) : s.begin.portEn p = s.portEn p := rfl
@[simp] theorem State.begin_portReceives (s : State) (p : Port) : s.begin.portReceives p = s.portReceives p := rfl
@[simp] theorem State.begin_partyMatches (s : State) (p : Port) (dst dport : Nat) : s.begin.partyMatches p dst dport = s.partyMatches p dst dport := rfl
@[simp] theorem State.begin_placeFrame (s : State) (t : Timing) (ns ts : Nat) : s.begin.placeFrame t ns ts = s.placeFrame t ns ts := rfl
@[simp] theorem State.begin_mediaMatches (s : State) (f : NetFrame) (dst dport : Nat) : s.begin.mediaMatches f dst dport = s.mediaMatches f dst dport := rfl
@[simp] theorem State.begin_class6 (s : State) (f : NetFrame) : s.begin.class6 f = s.class6 f := rfl
@[simp] theorem State.begin_netClassOf (s : State) (f : NetFrame) : s.begin.netClassOf f = s.netClassOf f := rfl
@[simp] theorem State.begin_agentMode (s : State) (p : Port) : s.begin.agentMode p = s.agentMode p := rfl
@[simp] theorem State.begin_screeWord (s : State) (a i : Nat) : s.begin.screeWord a i = s.screeWord a i := rfl
@[simp] theorem State.begin_screeBad (s : State) (a i : Nat) : s.begin.screeBad a i = s.screeBad a i := rfl
@[simp] theorem State.begin_sourceWord (s : State) (src : PixelSource) (i : Nat) : s.begin.sourceWord src i = s.sourceWord src i := rfl
@[simp] theorem State.begin_badIn (s : State) (a n : Nat) : s.begin.badIn a n = s.badIn a n := rfl
@[simp] theorem State.begin_flawed (s : State) (a n : Nat) : s.begin.flawed a n = s.flawed a n := rfl
@[simp] theorem State.begin_epochOf (s : State) (which k : Nat) (sec : List Byte) : s.begin.epochOf which k sec = s.epochOf which k sec := rfl
@[simp] theorem State.begin_isClosed (s : State) (f : Nat) : s.begin.isClosed f = s.isClosed f := rfl
@[simp] theorem State.begin_loadedGens (s : State) : s.begin.loadedGens = s.loadedGens := rfl
@[simp] theorem State.begin_streamComplete (s : State) (sec : List Byte) (k f : Nat) : s.begin.streamComplete sec k f = s.streamComplete sec k f := rfl
@[simp] theorem State.begin_frameComplete (s : State) (t : Timing) (f : Nat) : s.begin.frameComplete t f = s.frameComplete t f := rfl
@[simp] theorem State.begin_lutWord (s : State) (a n : Nat) : s.begin.lutWord a n = s.lutWord a n := rfl
@[simp] theorem State.begin_worst (s : State) (x : Option FrameFigures) : s.begin.worst x = s.worst x := rfl
@[simp] theorem State.begin_standIn (s : State) (n : Nat) : s.begin.standIn n = s.standIn n := rfl
@[simp] theorem State.begin_haveFigures (s : State) (n : Nat) (complete : Bool) : s.begin.haveFigures n complete = s.haveFigures n complete := rfl
@[simp] theorem State.begin_predictionFinal (s : State) (n : Nat) : s.begin.predictionFinal n = s.predictionFinal n := rfl
@[simp] theorem State.begin_partyFenced (s : State) : s.begin.partyFenced = s.partyFenced := rfl
@[simp] theorem State.begin_buildParty (s : State) (ty frame : Nat) (body : List Byte) : s.begin.buildParty ty frame body = s.buildParty ty frame body := rfl
@[simp] theorem State.begin_role (s : State) : s.begin.role = s.role := rfl
@[simp] theorem State.begin_currentSummit (s : State) : s.begin.currentSummit = s.currentSummit := rfl
@[simp] theorem State.begin_commitSender (s : State) (id : Nat) : s.begin.commitSender id = s.commitSender id := rfl
@[simp] theorem State.begin_summitSender (s : State) (id : Nat) : s.begin.summitSender id = s.summitSender id := rfl
@[simp] theorem State.begin_nowFrame (s : State) : s.begin.nowFrame = s.nowFrame := rfl
@[simp] theorem State.begin_tagOk (s : State) (m : List Byte) : s.begin.tagOk m = s.tagOk m := rfl
@[simp] theorem State.begin_actMatches (s : State) (m : List Byte) : s.begin.actMatches m = s.actMatches m := rfl
@[simp] theorem State.begin_frontCode (s : State) (m : List Byte) : s.begin.frontCode m = s.frontCode m := rfl
@[simp] theorem State.begin_bodyCode (s : State) (m : List Byte) : s.begin.bodyCode m = s.bodyCode m := rfl
@[simp] theorem State.begin_isSeen (s : State) (m : List Byte) : s.begin.isSeen m = s.isSeen m := rfl
@[simp] theorem State.begin_isAhead (s : State) (f : Nat) : s.begin.isAhead f = s.isAhead f := rfl
@[simp] theorem State.begin_readyNamed (s : State) : s.begin.readyNamed = s.readyNamed := rfl
@[simp] theorem State.begin_isLagging (s : State) (id n : Nat) : s.begin.isLagging id n = s.isLagging id n := rfl
@[simp] theorem State.begin_expected (s : State) (n : Nat) : s.begin.expected n = s.expected n := rfl
@[simp] theorem State.begin_isQuorumClosed (s : State) (n : Nat) : s.begin.isQuorumClosed n = s.isQuorumClosed n := rfl
@[simp] theorem State.begin_genBefore (s : State) (n : Nat) : s.begin.genBefore n = s.genBefore n := rfl
@[simp] theorem State.begin_slotOfGen (s : State) (gen : Nat) : s.begin.slotOfGen gen = s.slotOfGen gen := rfl
@[simp] theorem State.begin_allHeld (s : State) (n : Nat) : s.begin.allHeld n = s.allHeld n := rfl
@[simp] theorem State.begin_displayFenced (s : State) : s.begin.displayFenced = s.displayFenced := rfl
@[simp] theorem State.begin_haveReady (s : State) (t : Timing) (n : Nat) : s.begin.haveReady t n = s.haveReady t n := rfl
@[simp] theorem State.begin_readSlot (s : State) (a order : Nat) : s.begin.readSlot a order = s.readSlot a order := rfl
@[simp] theorem State.begin_rail (s : State) (r : Nat) : s.begin.rail r = s.rail r := rfl
@[simp] theorem State.begin_railMode (s : State) (r : Nat) : s.begin.railMode r = s.railMode r := rfl
@[simp] theorem State.begin_railBus (s : State) (r : Nat) : s.begin.railBus r = s.railBus r := rfl
@[simp] theorem State.begin_isLead (s : State) : s.begin.isLead = s.isLead := rfl
@[simp] theorem State.begin_ownsRail (s : State) (r : Nat) : s.begin.ownsRail r = s.ownsRail r := rfl
@[simp] theorem State.begin_railsHeld (s : State) : s.begin.railsHeld = s.railsHeld := rfl
@[simp] theorem State.begin_railFenced (s : State) (r : Nat) : s.begin.railFenced r = s.railFenced r := rfl
@[simp] theorem State.begin_railCause (s : State) (r : Nat) : s.begin.railCause r = s.railCause r := rfl
@[simp] theorem State.begin_railState (s : State) (r : Nat) : s.begin.railState r = s.railState r := rfl
@[simp] theorem State.begin_railStuck (s : State) (r : Nat) : s.begin.railStuck r = s.railStuck r := rfl
@[simp] theorem State.begin_pmbRuns (s : State) (r : Nat) : s.begin.pmbRuns r = s.pmbRuns r := rfl
@[simp] theorem State.begin_railOf (s : State) (strand c : Nat) : s.begin.railOf strand c = s.railOf strand c := rfl
@[simp] theorem State.begin_loopTarget (s : State) (r hmin : Nat) : s.begin.loopTarget r hmin = s.loopTarget r hmin := rfl
@[simp] theorem State.begin_s16 (s : State) (f : Fld) : s.begin.s16 f = s.s16 f := rfl
@[simp] theorem State.begin_acEnabled (s : State) (ch : Nat) : s.begin.acEnabled ch = s.acEnabled ch := rfl
@[simp] theorem State.begin_dcEnabled (s : State) (k : Nat) : s.begin.dcEnabled k = s.dcEnabled k := rfl
@[simp] theorem State.begin_acFenced (s : State) (ch : Nat) : s.begin.acFenced ch = s.acFenced ch := rfl
@[simp] theorem State.begin_dcFenced (s : State) (k : Nat) : s.begin.dcFenced k = s.dcFenced k := rfl
@[simp] theorem State.begin_acOk (s : State) (ch : Nat) : s.begin.acOk ch = s.acOk ch := rfl
@[simp] theorem State.begin_dcOk (s : State) (k : Nat) : s.begin.dcOk k = s.dcOk k := rfl
@[simp] theorem State.begin_phaseEnabled (s : State) (p : Nat) : s.begin.phaseEnabled p = s.phaseEnabled p := rfl
@[simp] theorem State.begin_phaseValid (s : State) (p : Nat) : s.begin.phaseValid p = s.phaseValid p := rfl
@[simp] theorem State.begin_seg8 (s : State) (even odd : Nat → Fld) (j : Nat) : s.begin.seg8 even odd j = s.seg8 even odd j := rfl
@[simp] theorem State.begin_acPh (s : State) (c : Nat) : s.begin.acPh c = s.acPh c := rfl
@[simp] theorem State.begin_acG (s : State) (c : Nat) : s.begin.acG c = s.acG c := rfl
@[simp] theorem State.begin_dcG (s : State) (k : Nat) : s.begin.dcG k = s.dcG k := rfl
@[simp] theorem State.begin_phaseFs (s : State) (p : Nat) : s.begin.phaseFs p = s.phaseFs p := rfl
@[simp] theorem State.begin_dcFs (s : State) (k : Nat) : s.begin.dcFs k = s.dcFs k := rfl
@[simp] theorem State.begin_pageBytes (s : State) (page off words : Nat) : s.begin.pageBytes page off words = s.pageBytes page off words := rfl
@[simp] theorem State.begin_meterFlags (s : State) : s.begin.meterFlags = s.meterFlags := rfl
@[simp] theorem State.begin_saveRecord (s : State) (seq reason : Nat) : s.begin.saveRecord seq reason = s.saveRecord seq reason := rfl
@[simp] theorem State.begin_windowFull (s : State) : s.begin.windowFull = s.windowFull := rfl
@[simp] theorem State.begin_inBlockReset (s : State) (page : Nat) : s.begin.inBlockReset page = s.inBlockReset page := rfl
@[simp] theorem State.begin_savedPeak (s : State) (e seq : Nat) : s.begin.savedPeak e seq = s.savedPeak e seq := rfl
@[simp] theorem State.begin_phaseBound (s : State) (p seq tn td : Nat) : s.begin.phaseBound p seq tn td = s.phaseBound p seq tn td := rfl
@[simp] theorem State.begin_dcBound (s : State) (g seq tn td : Nat) : s.begin.dcBound g seq tn td = s.dcBound g seq tn td := rfl
@[simp] theorem State.begin_statement (s : State) : s.begin.statement = s.statement := rfl
@[simp] theorem State.begin_rtcValid (s : State) : s.begin.rtcValid = s.rtcValid := rfl
@[simp] theorem State.begin_rtcS (s : State) : s.begin.rtcS = s.rtcS := rfl
@[simp] theorem State.begin_rtcSecs (s : State) : s.begin.rtcSecs = s.rtcSecs := rfl
@[simp] theorem State.begin_cairnFrame (s : State) : s.begin.cairnFrame = s.cairnFrame := rfl
@[simp] theorem State.begin_recFlagsNow (s : State) : s.begin.recFlagsNow = s.recFlagsNow := rfl
@[simp] theorem State.begin_stageRec (s : State) (j : Nat) : s.begin.stageRec j = s.stageRec j := rfl
@[simp] theorem State.begin_heldSlots (s : State) : s.begin.heldSlots = s.heldSlots := rfl
@[simp] theorem State.begin_openSlots (s : State) : s.begin.openSlots = s.openSlots := rfl
@[simp] theorem State.begin_freeSlot (s : State) : s.begin.freeSlot = s.freeSlot := rfl
@[simp] theorem State.begin_firstFormed (s : State) (p : List Byte → Bool) : s.begin.firstFormed p = s.firstFormed p := rfl
@[simp] theorem State.begin_nextClosed (s : State) : s.begin.nextClosed = s.nextClosed := rfl
@[simp] theorem State.begin_writerRuns (s : State) : s.begin.writerRuns = s.writerRuns := rfl
@[simp] theorem State.begin_ringRec (s : State) (i : Nat) : s.begin.ringRec i = s.ringRec i := rfl
@[simp] theorem State.begin_ringValid (s : State) (i : Nat) : s.begin.ringValid i = s.ringValid i := rfl
@[simp] theorem State.begin_repeats (s : State) (c : List Byte) (i : Nat) : s.begin.repeats c i = s.repeats c i := rfl
@[simp] theorem State.begin_candidate (s : State) (j : Nat) : s.begin.candidate j = s.candidate j := rfl
@[simp] theorem State.begin_repeatOf (s : State) (c : List Byte) : s.begin.repeatOf c = s.repeatOf c := rfl
@[simp] theorem State.begin_conditionBody (s : State) (o : Occurrence) : s.begin.conditionBody o = s.conditionBody o := rfl
@[simp] theorem State.begin_ringIndexes (s : State) : s.begin.ringIndexes = s.ringIndexes := rfl
@[simp] theorem State.begin_validNewest (s : State) : s.begin.validNewest = s.validNewest := rfl
@[simp] theorem State.begin_resetRec (s : State) (n : Nat) : s.begin.resetRec n = s.resetRec n := rfl
@[simp] theorem State.begin_sideTime (s : State) : s.begin.sideTime = s.sideTime := rfl
@[simp] theorem State.begin_region (s : State) : s.begin.region = s.region := rfl
@[simp] theorem State.begin_phyMode (s : State) : s.begin.phyMode = s.phyMode := rfl
@[simp] theorem State.begin_nch (s : State) : s.begin.nch = s.nch := rfl
@[simp] theorem State.begin_radioOn (s : State) : s.begin.radioOn = s.radioOn := rfl
@[simp] theorem State.begin_listenerOn (s : State) : s.begin.listenerOn = s.listenerOn := rfl
@[simp] theorem State.begin_octetTime (s : State) (octets : Nat) : s.begin.octetTime octets = s.octetTime octets := rfl
@[simp] theorem State.begin_ppduTime (s : State) (len : Nat) : s.begin.ppduTime len = s.ppduTime len := rfl
@[simp] theorem State.begin_subBand (s : State) (c : Nat) : s.begin.subBand c = s.subBand c := rfl
@[simp] theorem State.begin_airSec (s : State) : s.begin.airSec = s.airSec := rfl
@[simp] theorem State.begin_bandUsed (s : State) (k : Nat) : s.begin.bandUsed k = s.bandUsed k := rfl
@[simp] theorem State.begin_dwellUsed (s : State) (c : Nat) : s.begin.dwellUsed c = s.dwellUsed c := rfl
@[simp] theorem State.begin_mayRadiate (s : State) (c cls air : Nat) : s.begin.mayRadiate c cls air = s.mayRadiate c cls air := rfl
@[simp] theorem State.begin_powerLimit (s : State) (c used : Nat) : s.begin.powerLimit c used = s.powerLimit c used := rfl
@[simp] theorem State.begin_discTime (s : State) : s.begin.discTime = s.discTime := rfl
@[simp] theorem State.begin_discList (s : State) : s.begin.discList = s.discList := rfl
@[simp] theorem State.begin_discChannel (s : State) : s.begin.discChannel = s.discChannel := rfl
@[simp] theorem State.begin_channelsOk (s : State) (l : List Nat) : s.begin.channelsOk l = s.channelsOk l := rfl
@[simp] theorem State.begin_txCounter (s : State) (k : Nat) : s.begin.txCounter k = s.txCounter k := rfl
@[simp] theorem State.begin_rxCounter (s : State) (src k : Nat) : s.begin.rxCounter src k = s.rxCounter src k := rfl
@[simp] theorem State.begin_keyLoaded (s : State) (k : Nat) : s.begin.keyLoaded k = s.keyLoaded k := rfl
@[simp] theorem State.begin_psdu (s : State) (type : Nat) (ack : Bool) (net dst key fc : Nat) (fields payload : List Byte) : s.begin.psdu type ack net dst key fc fields payload = s.psdu type ack net dst key fc fields payload := rfl
@[simp] theorem State.begin_slotPayload (s : State) (t n : Nat) : s.begin.slotPayload t n = s.slotPayload t n := rfl
@[simp] theorem State.begin_beaconPayload (s : State) : s.begin.beaconPayload = s.beaconPayload := rfl
@[simp] theorem State.begin_fitsSecond (s : State) (x : SideTx) : s.begin.fitsSecond x = s.fitsSecond x := rfl
@[simp] theorem State.begin_connectOk (s : State) (p : List Byte) : s.begin.connectOk p = s.connectOk p := rfl
@[simp] theorem State.begin_widen (s : State) (i : ConnectInfo) (n : Nat) : s.begin.widen i n = s.widen i n := rfl
@[simp] theorem State.begin_sideFilter (s : State) (f : SideFrame) : s.begin.sideFilter f = s.sideFilter f := rfl
@[simp] theorem State.begin_freeEntry (s : State) : s.begin.freeEntry = s.freeEntry := rfl
@[simp] theorem State.begin_linkOf (s : State) (src : Nat) : s.begin.linkOf src = s.linkOf src := rfl
@[simp] theorem State.begin_anchorFenced (s : State) (cause : Nat) : s.begin.anchorFenced cause = s.anchorFenced cause := rfl
@[simp] theorem State.begin_slotKey (s : State) (n : Nat) : s.begin.slotKey n = s.slotKey n := rfl
@[simp] theorem State.begin_slotPub (s : State) (n : Nat) : s.begin.slotPub n = s.slotPub n := rfl
@[simp] theorem State.begin_slotFull (s : State) (n : Nat) : s.begin.slotFull n = s.slotFull n := rfl
@[simp] theorem State.begin_created (s : State) : s.begin.created = s.created := rfl
@[simp] theorem State.begin_secret (s : State) (n : Nat) : s.begin.secret n = s.secret n := rfl
@[simp] theorem State.begin_sramRead (s : State) (a n : Nat) : s.begin.sramRead a n = s.sramRead a n := rfl
@[simp] theorem State.begin_signWith (s : State) (type : Nat) (key digest : List Byte) : s.begin.signWith type key digest = s.signWith type key digest := rfl
@[simp] theorem State.begin_attestation (s : State) (n : Nat) (nonce : List Byte) : s.begin.attestation n nonce = s.attestation n nonce := rfl
@[simp] theorem State.begin_sealAllowed (s : State) (p body : List Byte) : s.begin.sealAllowed p body = s.sealAllowed p body := rfl
@[simp] theorem State.begin_mboxGate (s : State) (m : Master) (cmd : Nat) : s.begin.mboxGate m cmd = s.mboxGate m cmd := rfl
@[simp] theorem State.begin_mboxRequest (s : State) : s.begin.mboxRequest = s.mboxRequest := rfl
@[simp] theorem State.begin_lanesFenced (s : State) : s.begin.lanesFenced = s.lanesFenced := rfl
@[simp] theorem State.begin_pipeStopped (s : State) : s.begin.pipeStopped = s.pipeStopped := rfl
@[simp] theorem State.begin_burstNs (s : State) (b : Burst) : s.begin.burstNs b = s.burstNs b := rfl
@[simp] theorem State.begin_strand (s : State) (k : Nat) : s.begin.strand k = s.strand k := rfl
@[simp] theorem State.begin_portDrives (s : State) (k : Nat) : s.begin.portDrives k = s.portDrives k := rfl
@[simp] theorem State.begin_strandFenced (s : State) (k : Nat) : s.begin.strandFenced k = s.strandFenced k := rfl
@[simp] theorem State.begin_portReady (s : State) (k : Nat) : s.begin.portReady k = s.portReady k := rfl
@[simp] theorem State.begin_slotRuns (s : State) (k : Nat) : s.begin.slotRuns k = s.slotRuns k := rfl
@[simp] theorem State.begin_caseSlot (s : State) (n : Nat) : s.begin.caseSlot n = s.caseSlot n := rfl
@[simp] theorem State.begin_slotEn (s : State) (k n : Nat) : s.begin.slotEn k n = s.slotEn k n := rfl
@[simp] theorem State.begin_slotShows (s : State) (n : Nat) : s.begin.slotShows n = s.slotShows n := rfl
@[simp] theorem State.begin_maySend (s : State) (k : Nat) : s.begin.maySend k = s.maySend k := rfl
@[simp] theorem State.begin_shareAddr (s : State) (k : Nat) : s.begin.shareAddr k = s.shareAddr k := rfl
@[simp] theorem State.begin_shares (s : State) (k : Nat) : s.begin.shares k = s.shares k := rfl
@[simp] theorem State.begin_payloadAddr (s : State) (k n : Nat) : s.begin.payloadAddr k n = s.payloadAddr k n := rfl
@[simp] theorem State.begin_payloadInvalid (s : State) (k n : Nat) : s.begin.payloadInvalid k n = s.payloadInvalid k n := rfl
@[simp] theorem State.begin_readBeforeFrame (s : State) (k : Nat) : s.begin.readBeforeFrame k = s.readBeforeFrame k := rfl
@[simp] theorem State.begin_linkUp (s : State) : s.begin.linkUp = s.linkUp := rfl
@[simp] theorem State.begin_seqSkips (s : State) (seq : Nat) : s.begin.seqSkips seq = s.seqSkips seq := rfl
@[simp] theorem State.begin_ptpOk (s : State) : s.begin.ptpOk = s.ptpOk := rfl
@[simp] theorem State.begin_triggers (s : State) : s.begin.triggers = s.triggers := rfl
@[simp] theorem State.begin_yieldTriggers (s : State) : s.begin.yieldTriggers = s.yieldTriggers := rfl
@[simp] theorem State.begin_genMatches (s : State) : s.begin.genMatches = s.genMatches := rfl
@[simp] theorem State.begin_isEligible (s : State) : s.begin.isEligible = s.isEligible := rfl
@[simp] theorem State.begin_mayClaim (s : State) (n : Nat) : s.begin.mayClaim n = s.mayClaim n := rfl
@[simp] theorem State.begin_heartRail (s : State) (r : Nat) : s.begin.heartRail r = s.heartRail r := rfl
@[simp] theorem State.begin_heartBytes (s : State) : s.begin.heartBytes = s.heartBytes := rfl
@[simp] theorem State.begin_placeOf (s : State) (a : Nat) : s.begin.placeOf a = s.placeOf a := rfl
@[simp] theorem State.begin_screeBytesDue (s : State) : s.begin.screeBytesDue = s.screeBytesDue := rfl
@[simp] theorem State.begin_descriptorAt (s : State) (gen : Nat) : s.begin.descriptorAt gen = s.descriptorAt gen := rfl
@[simp] theorem State.begin_commitTrigger (s : State) (n : Nat) : s.begin.commitTrigger n = s.commitTrigger n := rfl
@[simp] theorem State.begin_hart (s : State) (h : Nat) : s.begin.hart h = s.hart h := rfl
@[simp] theorem State.begin_linePending (s : State) (h line : Nat) : s.begin.linePending h line = s.linePending h line := rfl
@[simp] theorem State.begin_bestLine (s : State) (h : Nat) : s.begin.bestLine h = s.bestLine h := rfl
@[simp] theorem State.begin_meip (s : State) (h : Nat) : s.begin.meip h = s.meip h := rfl
@[simp] theorem State.begin_mtimeCmp (s : State) (h : Nat) : s.begin.mtimeCmp h = s.mtimeCmp h := rfl
@[simp] theorem State.begin_mtip (s : State) (h : Nat) : s.begin.mtip h = s.mtip h := rfl
@[simp] theorem State.begin_msip (s : State) (h : Nat) : s.begin.msip h = s.msip h := rfl
@[simp] theorem State.begin_workIp (s : State) (h : Nat) : s.begin.workIp h = s.workIp h := rfl
@[simp] theorem State.begin_hartWakes (s : State) (h : Nat) : s.begin.hartWakes h = s.hartWakes h := rfl
@[simp] theorem State.begin_waitUs (s : State) (i : SchedItem) : s.begin.waitUs i = s.waitUs i := rfl
@[simp] theorem State.begin_effPrio (s : State) (i : SchedItem) : s.begin.effPrio i = s.effPrio i := rfl
@[simp] theorem State.begin_isUrgent (s : State) (i : SchedItem) : s.begin.isUrgent i = s.isUrgent i := rfl
@[simp] theorem State.begin_schedFenced (s : State) : s.begin.schedFenced = s.schedFenced := rfl
@[simp] theorem State.begin_queueDepth (s : State) (q : Nat) : s.begin.queueDepth q = s.queueDepth q := rfl
@[simp] theorem State.begin_pushResult (s : State) (q : Nat) : s.begin.pushResult q = s.pushResult q := rfl
@[simp] theorem State.begin_postAddr (s : State) (line : Nat) : s.begin.postAddr line = s.postAddr line := rfl
@[simp] theorem State.begin_serves (s : State) (h q : Nat) : s.begin.serves h q = s.serves h q := rfl
@[simp] theorem State.begin_choose (s : State) (h : Nat) : s.begin.choose h = s.choose h := rfl
@[simp] theorem State.begin_urgentAt (s : State) (i : SchedItem) : s.begin.urgentAt i = s.urgentAt i := rfl
@[simp] theorem State.begin_heldItems (s : State) : s.begin.heldItems = s.heldItems := rfl
@[simp] theorem State.begin_ckptBytes (s : State) : s.begin.ckptBytes = s.ckptBytes := rfl
@[simp] theorem State.begin_norGet (s : State) (a : Nat) : s.begin.norGet a = s.norGet a := rfl
@[simp] theorem State.begin_norRead (s : State) (a n : Nat) : s.begin.norRead a n = s.norRead a n := rfl
@[simp] theorem State.begin_bootCopy (s : State) (k : Nat) : s.begin.bootCopy k = s.bootCopy k := rfl
@[simp] theorem State.begin_bootCopyInForce (s : State) : s.begin.bootCopyInForce = s.bootCopyInForce := rfl
@[simp] theorem State.begin_bootRec (s : State) : s.begin.bootRec = s.bootRec := rfl
@[simp] theorem State.begin_recActive (s : State) : s.begin.recActive = s.recActive := rfl
@[simp] theorem State.begin_recState (s : State) (x : Nat) : s.begin.recState x = s.recState x := rfl
@[simp] theorem State.begin_recAttempts (s : State) : s.begin.recAttempts = s.recAttempts := rfl
@[simp] theorem State.begin_recMax (s : State) : s.begin.recMax = s.recMax := rfl
@[simp] theorem State.begin_recHealth (s : State) : s.begin.recHealth = s.recHealth := rfl
@[simp] theorem State.begin_recVersion (s : State) (x : Nat) : s.begin.recVersion x = s.recVersion x := rfl
@[simp] theorem State.begin_recSchema (s : State) (x : Nat) : s.begin.recSchema x = s.recSchema x := rfl
@[simp] theorem State.begin_sigUnder (s : State) (n : Nat) (h : List Byte) : s.begin.sigUnder n h = s.sigUnder n h := rfl
@[simp] theorem State.begin_imgVerifies (s : State) (basecamp : Bool) (h : List Byte) : s.begin.imgVerifies basecamp h = s.imgVerifies basecamp h := rfl
@[simp] theorem State.begin_imgCode (s : State) (basecamp : Bool) (h : List Byte) : s.begin.imgCode basecamp h = s.imgCode basecamp h := rfl
@[simp] theorem State.begin_bootCheck (s : State) (r : Nat) : s.begin.bootCheck r = s.bootCheck r := rfl
@[simp] theorem State.begin_targetSlot (s : State) : s.begin.targetSlot = s.targetSlot := rfl
@[simp] theorem State.begin_stagedCode (s : State) (session : Option Nat) : s.begin.stagedCode session = s.stagedCode session := rfl
@[simp] theorem State.begin_stagedBodyOk (s : State) : s.begin.stagedBodyOk = s.stagedBodyOk := rfl
@[simp] theorem State.begin_flashBreach (s : State) (op addr len : Nat) : s.begin.flashBreach op addr len = s.flashBreach op addr len := rfl
@[simp] theorem State.begin_flashSource (s : State) (len : Nat) (store : Bool) (src : Nat) : s.begin.flashSource len store src = s.flashSource len store src := rfl
@[simp] theorem State.begin_newestGain (s : State) : s.begin.newestGain = s.newestGain := rfl
@[simp] theorem State.begin_frameSlot (s : State) (used : Option Commit) : s.begin.frameSlot used = s.frameSlot used := rfl
@[simp] theorem State.begin_switches (s : State) (used : Option Commit) : s.begin.switches used = s.switches used := rfl
@[simp] theorem State.begin_ingestDiffers (s : State) (k : Nat) : s.begin.ingestDiffers k = s.ingestDiffers k := rfl
@[simp] theorem State.begin_closedComplete (s : State) (f : Nat) : s.begin.closedComplete f = s.closedComplete f := rfl
@[simp] theorem State.begin_closedMiss (s : State) (f : Nat) : s.begin.closedMiss f = s.closedMiss f := rfl
@[simp] theorem State.begin_repeatCase (s : State) (held absent : Nat) : s.begin.repeatCase held absent = s.repeatCase held absent := rfl
@[simp] theorem State.begin_caseOf (s : State) (n : Nat) (used : Option Commit) : s.begin.caseOf n used = s.caseOf n used := rfl
@[simp] theorem State.begin_isTorn (s : State) (n : Nat) (used : Option Commit) : s.begin.isTorn n used = s.isTorn n used := rfl
@[simp] theorem State.begin_tornExtent (s : State) (n : Nat) (used : Option Commit) : s.begin.tornExtent n used = s.tornExtent n used := rfl
@[simp] theorem State.begin_switchSlot (s : State) (n : Nat) : s.begin.switchSlot n = s.switchSlot n := rfl
@[simp] theorem State.begin_railSilent (s : State) (n r : Nat) : s.begin.railSilent n r = s.railSilent n r := rfl
@[simp] theorem State.begin_presents (s : State) (n : Nat) : s.begin.presents n = s.presents n := rfl
@[simp] theorem State.begin_lastShown (s : State) : s.begin.lastShown = s.lastShown := rfl
@[simp] theorem State.begin_idlePort (s : State) : s.begin.idlePort = s.idlePort := rfl
@[simp] theorem State.begin_sinceDue (s : State) (n : Nat) : s.begin.sinceDue n = s.sinceDue n := rfl
@[simp] theorem State.begin_anyWakes (s : State) : s.begin.anyWakes = s.anyWakes := rfl
@[simp] theorem State.begin_targetOk (s : State) (t : Nat) : s.begin.targetOk t = s.targetOk t := rfl
@[simp] theorem State.begin_controlOnly (s : State) (t : Nat) : s.begin.controlOnly t = s.controlOnly t := rfl
@[simp] theorem State.begin_pwrDelays (s : State) (t : Nat) : s.begin.pwrDelays t = s.pwrDelays t := rfl
@[simp] theorem State.begin_pwrRefuses (s : State) (t : Nat) (force : Bool) : s.begin.pwrRefuses t force = s.pwrRefuses t force := rfl
@[simp] theorem State.begin_bankCrc (s : State) (b : Nat) : s.begin.bankCrc b = s.bankCrc b := rfl
@[simp] theorem State.begin_nextStep (s : State) : s.begin.nextStep = s.nextStep := rfl
@[simp] theorem State.begin_almT (s : State) (k : Nat) : s.begin.almT k = s.almT k := rfl
@[simp] theorem State.begin_almArmed (s : State) (k : Nat) : s.begin.almArmed k = s.almArmed k := rfl
@[simp] theorem State.begin_rtcRuns (s : State) : s.begin.rtcRuns = s.rtcRuns := rfl
@[simp] theorem State.begin_trimT (s : State) : s.begin.trimT = s.trimT := rfl
@[simp] theorem State.begin_calDate (s : State) : s.begin.calDate = s.calDate := rfl
@[simp] theorem State.begin_calTime (s : State) : s.begin.calTime = s.calTime := rfl
@[simp] theorem State.begin_nextResetSeq (s : State) : s.begin.nextResetSeq = s.nextResetSeq := rfl
@[simp] theorem State.begin_resetFlags (s : State) : s.begin.resetFlags = s.resetFlags := rfl
@[simp] theorem State.begin_resetRank (s : State) : s.begin.resetRank = s.resetRank := rfl
@[simp] theorem State.begin_pfRuns (s : State) : s.begin.pfRuns = s.pfRuns := rfl
@[simp] theorem State.begin_resetSaveDue (s : State) : s.begin.resetSaveDue = s.resetSaveDue := rfl
@[simp] theorem State.begin_pageBusy (s : State) (p : Nat) : s.begin.pageBusy p = s.pageBusy p := rfl
@[simp] theorem State.begin_mayActivate (s : State) : s.begin.mayActivate = s.mayActivate := rfl
@[simp] theorem State.begin_wdtRuns (s : State) : s.begin.wdtRuns = s.wdtRuns := rfl
@[simp] theorem State.begin_wakeState (s : State) : s.begin.wakeState = s.wakeState := rfl
@[simp] theorem State.begin_viewHeader (s : State) (page off stored : Nat) : s.begin.viewHeader page off stored = s.viewHeader page off stored := rfl
@[simp] theorem State.begin_viewPtp (s : State) (off stored : Nat) : s.begin.viewPtp off stored = s.viewPtp off stored := rfl
@[simp] theorem State.begin_viewParty (s : State) (off stored : Nat) : s.begin.viewParty off stored = s.viewParty off stored := rfl
@[simp] theorem State.begin_viewNet (s : State) (p : Port) (off stored : Nat) : s.begin.viewNet p off stored = s.viewNet p off stored := rfl
@[simp] theorem State.begin_viewStore (s : State) (off stored : Nat) : s.begin.viewStore off stored = s.viewStore off stored := rfl
@[simp] theorem State.begin_viewStr (s : State) (g off stored : Nat) : s.begin.viewStr g off stored = s.viewStr g off stored := rfl
@[simp] theorem State.begin_viewBelay (s : State) (off stored : Nat) : s.begin.viewBelay off stored = s.viewBelay off stored := rfl
@[simp] theorem State.begin_viewSched (s : State) (m : Master) (off stored : Nat) : s.begin.viewSched m off stored = s.viewSched m off stored := rfl
@[simp] theorem State.begin_viewIrq (s : State) (m : Master) (off stored : Nat) : s.begin.viewIrq m off stored = s.viewIrq m off stored := rfl
@[simp] theorem State.begin_viewUart (s : State) (off stored : Nat) : s.begin.viewUart off stored = s.viewUart off stored := rfl
@[simp] theorem State.begin_viewGpio (s : State) (off stored : Nat) : s.begin.viewGpio off stored = s.viewGpio off stored := rfl
@[simp] theorem State.begin_viewHostspi (s : State) (off stored : Nat) : s.begin.viewHostspi off stored = s.viewHostspi off stored := rfl
@[simp] theorem State.begin_viewSidephy (s : State) (off stored : Nat) : s.begin.viewSidephy off stored = s.viewSidephy off stored := rfl
@[simp] theorem State.begin_viewSide (s : State) (off stored : Nat) : s.begin.viewSide off stored = s.viewSide off stored := rfl
@[simp] theorem State.begin_viewAnchor (s : State) (off stored : Nat) : s.begin.viewAnchor off stored = s.viewAnchor off stored := rfl
@[simp] theorem State.begin_viewUpd (s : State) (off stored : Nat) : s.begin.viewUpd off stored = s.viewUpd off stored := rfl
@[simp] theorem State.begin_viewLeft (s : State) (page off stored : Nat) : s.begin.viewLeft page off stored = s.viewLeft page off stored := rfl
@[simp] theorem State.begin_viewAon (s : State) (off stored : Nat) : s.begin.viewAon off stored = s.viewAon off stored := rfl
@[simp] theorem State.begin_viewRtc (s : State) (off stored : Nat) : s.begin.viewRtc off stored = s.viewRtc off stored := rfl
@[simp] theorem State.begin_viewCairn (s : State) (off stored : Nat) : s.begin.viewCairn off stored = s.viewCairn off stored := rfl
@[simp] theorem State.begin_viewOf (s : State) (m : Master) (page off stored : Nat) : s.begin.viewOf m page off stored = s.viewOf m page off stored := rfl
@[simp] theorem State.begin_openBits (s : State) (m : Master) (page off : Nat) : s.begin.openBits m page off = s.openBits m page off := rfl
@[simp] theorem State.begin_latched (s : State) (page off : Nat) : s.begin.latched page off = s.latched page off := rfl
@[simp] theorem State.begin_openWord (s : State) (page off w : Nat) : s.begin.openWord page off w = s.openWord page off w := rfl
@[simp] theorem State.begin_regWord (s : State) (m : Master) (page off : Nat) : s.begin.regWord m page off = s.regWord m page off := rfl
@[simp] theorem State.begin_bulkIn (s : State) (a n : Nat) : s.begin.bulkIn a n = s.bulkIn a n := rfl
@[simp] theorem State.begin_wordAt (s : State) (a n : Nat) : s.begin.wordAt a n = s.wordAt a n := rfl
@[simp] theorem State.begin_tableAll (s : State) (a n count : Nat) (ok : Nat → Bool) : s.begin.tableAll a n count ok = s.tableAll a n count ok := rfl
@[simp] theorem State.begin_reorderDir (s : State) (pipe : List Byte) (i : Nat) : s.begin.reorderDir pipe i = s.reorderDir pipe i := rfl
@[simp] theorem State.begin_reorderEntries (s : State) (pipe : List Byte) (i : Nat) : s.begin.reorderEntries pipe i = s.reorderEntries pipe i := rfl
@[simp] theorem State.begin_reorderLen (s : State) (pipe : List Byte) : s.begin.reorderLen pipe = s.reorderLen pipe := rfl
@[simp] theorem State.begin_shareSum (s : State) (a blocks : Nat) : s.begin.shareSum a blocks = s.shareSum a blocks := rfl
@[simp] theorem State.begin_areaOf (s : State) (sec : Nat → List Byte) (i : Nat) : s.begin.areaOf sec i = s.areaOf sec i := rfl
@[simp] theorem State.begin_smapAgrees (s : State) (sec : Nat → List Byte) : s.begin.smapAgrees sec = s.smapAgrees sec := rfl
@[simp] theorem State.begin_rawSection (s : State) (a page : Nat) : s.begin.rawSection a page = s.rawSection a page := rfl
@[simp] theorem State.begin_pageEntries (s : State) (a page : Nat) : s.begin.pageEntries a page = s.pageEntries a page := rfl
@[simp] theorem State.begin_slotFree (s : State) (k : Nat) : s.begin.slotFree k = s.slotFree k := rfl
@[simp] theorem State.begin_slotHolding (s : State) (g : Nat) : s.begin.slotHolding g = s.slotHolding g := rfl
@[simp] theorem State.begin_genIdAt (s : State) (a : Nat) : s.begin.genIdAt a = s.genIdAt a := rfl
@[simp] theorem State.begin_i2cBuf (s : State) (n : Nat) : s.begin.i2cBuf n = s.i2cBuf n := rfl
@[simp] theorem State.begin_gpioLevels (s : State) : s.begin.gpioLevels = s.gpioLevels := rfl
@[simp] theorem State.begin_badSection (s : State) (page : Nat) : s.begin.badSection page = s.badSection page := rfl
@[simp] theorem State.begin_badTable (s : State) (page : Nat) : s.begin.badTable page = s.badTable page := rfl
@[simp] theorem State.begin_vioUnsettled (s : State) (g : Nat) : s.begin.vioUnsettled g = s.vioUnsettled g := rfl
@[simp] theorem State.begin_causeHolds (s : State) (f : Fence) : s.begin.causeHolds f = s.causeHolds f := rfl
@[simp] theorem State.begin_stateBreach (s : State) (page off w : Nat) : s.begin.stateBreach page off w = s.stateBreach page off w := rfl
@[simp] theorem State.begin_storeBusy (s : State) : s.begin.storeBusy = s.storeBusy := rfl
@[simp] theorem State.begin_resyncing (s : State) : s.begin.resyncing = s.resyncing := rfl
@[simp] theorem State.begin_slotNow (s : State) (k : Nat) : s.begin.slotNow k = s.slotNow k := rfl
@[simp] theorem State.begin_lcpServes (s : State) : s.begin.lcpServes = s.lcpServes := rfl
@[simp] theorem State.begin_helloEntry (s : State) (b : List Byte) : s.begin.helloEntry b = s.helloEntry b := rfl
@[simp] theorem State.begin_newSession (s : State) : s.begin.newSession = s.newSession := rfl
@[simp] theorem State.begin_leaseOf (s : State) (segment : Nat) : s.begin.leaseOf segment = s.leaseOf segment := rfl
@[simp] theorem State.begin_holdsTransfer (s : State) (id : Nat) : s.begin.holdsTransfer id = s.holdsTransfer id := rfl
@[simp] theorem State.begin_hspiServes (s : State) : s.begin.hspiServes = s.hspiServes := rfl
@[simp] theorem State.begin_hspiRights (s : State) : s.begin.hspiRights = s.hspiRights := rfl
@[simp] theorem State.begin_hspiFill (s : State) (n : Nat) (data : List Byte) : s.begin.hspiFill n data = s.hspiFill n data := rfl
@[simp] theorem State.begin_pmpGrants (s : State) (h addr : Nat) (op : CoreOp) : s.begin.pmpGrants h addr op = s.pmpGrants h addr op := rfl
@[simp] theorem State.begin_ramBad (s : State) (r : RamPlace) : s.begin.ramBad r = s.ramBad r := rfl
@[simp] theorem State.begin_ramRead (s : State) (r : RamPlace) (n : Nat) : s.begin.ramRead r n = s.ramRead r n := rfl
@[simp] theorem State.begin_ramBadWord (s : State) (r : RamPlace) (n : Nat) : s.begin.ramBadWord r n = s.ramBadWord r n := rfl
@[simp] theorem State.begin_reserved (s : State) (h : Nat) (r : RamPlace) : s.begin.reserved h r = s.reserved h r := rfl
@[simp] theorem State.begin_codeAddr (s : State) (h addr n : Nat) : s.begin.codeAddr h addr n = s.codeAddr h addr n := rfl
@[simp] theorem State.begin_fetchStale (s : State) (h addr : Nat) (op : CoreOp) : s.begin.fetchStale h addr op = s.fetchStale h addr op := rfl

end Sys2Proof.Machine
end

