-- ==== Sys2Proof/Laws/Keeps.lean ====
section
/-! SUPPORT. What every command keeps: the ordering code, the queue of waiting commands, and the canonical form of
register file and memories. The lemmas of the operations stand in Laws/Keeps*.lean, one for each. -/
set_option linter.all false
set_option Elab.async false
namespace Sys2Proof.Machine

/-- From `b` to `t` the ordering code and the queue are the same, and the canonical form is not lost. -/
def Keeps (b t : State) : Prop := t.variant = b.variant ∧ t.pending = b.pending ∧ (b.Ok → t.Ok)

/-- A next state, if the outcome is one, keeps what `Keeps` says. -/
def ResKeeps (b : State) (r : Res) : Prop := ∀ t, r = .next t → Keeps b t

theorem Keeps.refl (b : State) : Keeps b b := ⟨rfl, rfl, id⟩

theorem Keeps.trans {a b c : State} (h : Keeps a b) (k : Keeps b c) : Keeps a c :=
  ⟨k.1.trans h.1, k.2.1.trans h.2.1, fun x => k.2.2 (h.2.2 x)⟩

/-- A change of fields other than the four. -/
theorem Keeps.upd {b t u : State} (h : Keeps b t) (hv : u.variant = t.variant) (hp : u.pending = t.pending)
    (hr : u.regs = t.regs) (hm : u.mem = t.mem) : Keeps b u :=
  ⟨hv.trans h.1, hp.trans h.2.1, fun x => by
    have := h.2.2 x
    unfold State.Ok State.regsWf at *
    rw [hr, hm]
    exact this⟩

/-- A change of memories that keeps their form. -/
theorem Keeps.updMem {b t u : State} (h : Keeps b t) (hv : u.variant = t.variant) (hp : u.pending = t.pending)
    (hr : u.regs = t.regs) (hm : t.mem.wf = true → u.mem.wf = true) : Keeps b u :=
  ⟨hv.trans h.1, hp.trans h.2.1, fun x => by
    have := h.2.2 x
    unfold State.Ok State.regsWf at *
    rw [hr]
    exact ⟨this.1, hm this.2⟩⟩

/-- A change of registers that keeps their form. -/
theorem Keeps.updRegs {b t u : State} (h : Keeps b t) (hv : u.variant = t.variant) (hp : u.pending = t.pending)
    (hm : u.mem = t.mem) (hr : t.regsWf = true → u.regsWf = true) : Keeps b u :=
  ⟨hv.trans h.1, hp.trans h.2.1, fun x => by
    have := h.2.2 x
    unfold State.Ok at *
    rw [hm]
    exact ⟨hr this.1, this.2⟩⟩

/-- `Keeps` of a state given by its parts: the four that it speaks of. -/
def Keeps4 (b : State) (v : Variant) (p : List Instr) (r : List (Nat × Word)) (m : Mems) : Prop :=
  v = b.variant ∧ p = b.pending ∧ (b.Ok → mapWf regReset r = true ∧ m.wf = true)

theorem Keeps.mk_iff {b : State} {v : Variant} {r : List (Nat × Word)} {x2 : List (Nat × Word)} {x3 : List Fence} {x4 : List (Nat × Nat)} {x5 :
    Nat} {x6 : List Output} {m : Mems} {x8 : Pins} {x9 : PtpS} {x10 : CommitS} {x11 : PartyS} {x12 : GovS} {x13 :
    PortS} {x14 : PortS} {x15 : IngestS} {x16 : StoreCtl} {x17 : List (Nat × Reservation)} {x17b : List CodeWrite} {x18 : List StrandS}
    {x19 : Bool} {x20 : Option Nat} {x21 : List RailS} {x22 : TelemS} {x23 : Bool} {x24 : MeterS} {x25 : BelayS}
    {x26 : List Nat} {x27 : List HartS} {x28 : SchedS} {x29 : IrqS} {x30 : WdtS} {x31 : LcpS} {x32 : HspiS} {x33 :
    UartS} {x34 : SideS} {x35 : List (Nat × Nat × Nat)} {x36 : AnchorS} {x37 : UpdS} {x38 : RstS} {x39 : ClkS}
    {x40 : PwrS} {x41 : RtcS} {x42 : List Occurrence} {x43 : Nat} {x44 : CairnS} {p : List Instr} :
    Keeps b (State.mk v r x2 x3 x4 x5 x6 m x8 x9 x10 x11 x12 x13 x14 x15 x16 x17 x17b x18 x19 x20 x21 x22 x23 x24 x25 x26 x27
    x28 x29 x30 x31 x32 x33 x34 x35 x36 x37 x38 x39 x40 x41 x42 x43 x44 p) = Keeps4 b v p r m := rfl

theorem Keeps.four {b t : State} (h : Keeps b t) : Keeps4 b t.variant t.pending t.regs t.mem := h

theorem Keeps.fourMem {b t : State} {m : Mems} (h : Keeps b t) (hm : t.mem.wf = true → m.wf = true) :
    Keeps4 b t.variant t.pending t.regs m := ⟨h.1, h.2.1, fun x => ⟨(h.2.2 x).1, hm (h.2.2 x).2⟩⟩

theorem Keeps.fourRegs {b t : State} {r : List (Nat × Word)} (h : Keeps b t)
    (hr : mapWf regReset t.regs = true → mapWf regReset r = true) : Keeps4 b t.variant t.pending r t.mem :=
  ⟨h.1, h.2.1, fun x => ⟨hr (h.2.2 x).1, (h.2.2 x).2⟩⟩

theorem Keeps.ite {b t u : State} {c : Prop} [Decidable c] (ht : c → Keeps b t) (hu : ¬c → Keeps b u) :
    Keeps b (if c then t else u) := by
  split
  · exact ht ‹_›
  · exact hu ‹_›

theorem ResKeeps.ite {b : State} {t u : Res} {c : Prop} [Decidable c] (ht : c → ResKeeps b t) (hu : ¬c → ResKeeps b u) :
    ResKeeps b (if c then t else u) := by
  split
  · exact ht ‹_›
  · exact hu ‹_›

theorem Keeps.foldl {α : Type} {b : State} (f : State → α → State) (h : ∀ t a, Keeps b t → Keeps b (f t a)) :
    ∀ (l : List α) (t : State), Keeps b t → Keeps b (l.foldl f t)
  | [], _, k => k
  | a :: l, t, k => Keeps.foldl f h l (f t a) (h t a k)

theorem Keeps.foldr {α : Type} {b : State} (f : α → State → State) (h : ∀ a t, Keeps b t → Keeps b (f a t)) :
    ∀ (l : List α) (t : State), Keeps b t → Keeps b (l.foldr f t)
  | [], _, k => k
  | a :: l, t, k => h a (l.foldr f t) (Keeps.foldr f h l t k)

/-- A fold whose state is the first part of what it carries. -/
theorem Keeps.foldlFst {α β : Type} {b : State} (f : State × β → α → State × β)
    (h : ∀ t a, Keeps b t.1 → Keeps b (f t a).1) :
    ∀ (l : List α) (t : State × β), Keeps b t.1 → Keeps b (l.foldl f t).1
  | [], _, k => k
  | a :: l, t, k => Keeps.foldlFst f h l (f t a) (h t a k)

theorem ResKeeps.next {b t : State} (h : Keeps b t) : ResKeeps b (.next t) := fun u e => by
  cases e
  exact h

theorem ResKeeps.fault {b : State} (f : Fault) : ResKeeps b (.fault f) := fun u e => by cases e

theorem ResKeeps.refused {b : State} (f : Refusal) : ResKeeps b (.refused f) := fun u e => by cases e

/-- An outcome there may be keeps what `ResKeeps` says. -/
def OptKeeps (b : State) (o : Option Res) : Prop := ∀ r, o = some r → ResKeeps b r

theorem OptKeeps.some {b : State} {r : Res} (h : ResKeeps b r) : OptKeeps b (some r) := fun u e => by
  cases e
  exact h

theorem OptKeeps.none {b : State} : OptKeeps b none := fun u e => by cases e

theorem OptKeeps.ite {b : State} {t u : Option Res} {c : Prop} [Decidable c] (ht : c → OptKeeps b t)
    (hu : ¬c → OptKeeps b u) : OptKeeps b (if c then t else u) := by
  split
  · exact ht ‹_›
  · exact hu ‹_›

theorem OptKeeps.orElse {b : State} {o : Option Res} {f : Unit → Option Res} (h : OptKeeps b o)
    (k : OptKeeps b (f ())) : OptKeeps b (o.orElse f) := by
  cases o with
  | none => exact k
  | some r => exact h

/-- The memories' form, part by part. -/
theorem Mems.wf_iff (m : Mems) : m.wf = true ↔ memWf m.store = true ∧ memWf m.sram = true ∧ memWf m.tcm = true ∧
    memWf m.ret = true ∧ memWf m.mram = true ∧ memWf m.bk = true ∧ mapWf Config.norByte m.nor = true := by
  unfold Mems.wf
  simp only [Bool.and_eq_true, and_assoc]

theorem memWf_foldl {α : Type} (f : Bytes → α → Bytes) (h : ∀ m a, memWf m = true → memWf (f m a) = true) :
    ∀ (l : List α) (m : Bytes), memWf m = true → memWf (l.foldl f m) = true
  | [], _, k => k
  | a :: l, m, k => memWf_foldl f h l (f m a) (h m a k)

end Sys2Proof.Machine
end

