-- ==== Sys2Proof/Laws/KeepsOps.lean ====
section
/-! SUPPORT. What the operations of Machine/Ops.lean keep (Laws/Keeps.lean). -/
set_option linter.all false
set_option Elab.async false

namespace Sys2Proof.Machine

theorem State.setReg_keeps {base : State} (s : State) (page off : Nat) (w : Word) (hk : Keeps base s) :
    Keeps base (State.setReg s page off w) := by
  unfold State.setReg
  try dsimp only
  repeat' (first
    | with_reducible assumption | with_reducible apply Keeps.four | with_reducible apply Keeps.fourRegs
    | simp only [Keeps.mk_iff]
    | (refine fun (hr : mapWf regReset _ = true) => ?_; first | exact mapWf_mapPut _ _ _ _ hr | exact mapWf_filter _ _ _ hr)
    | split | intro _)

theorem State.setFld_keeps {base : State} (s : State) (f : Fld) (v : Nat) (hk : Keeps base s) :
    Keeps base (State.setFld s f v) := by
  unfold State.setFld
  repeat' (first
    | with_reducible assumption | with_reducible apply State.setReg_keeps | with_reducible apply Keeps.four
    | simp only [Keeps.mk_iff] | split | intro _)

theorem State.setFlag_keeps {base : State} (s : State) (f : Fld) (b : Bool) (hk : Keeps base s) :
    Keeps base (State.setFlag s f b) := by
  unfold State.setFlag
  repeat' (first
    | with_reducible assumption | with_reducible apply State.setFld_keeps | with_reducible apply Keeps.four
    | simp only [Keeps.mk_iff] | split | intro _)

theorem State.setBit_keeps {base : State} (s : State) (f : Fld) (k : Nat) (b : Bool) (hk : Keeps base s) :
    Keeps base (State.setBit s f k b) := by
  unfold State.setBit
  try dsimp only
  repeat' (first
    | with_reducible assumption | with_reducible apply State.setFld_keeps | with_reducible apply Keeps.four
    | simp only [Keeps.mk_iff] | split | intro _)

theorem State.add_keeps {base : State} (s : State) (f : Fld) (n : Nat) (hk : Keeps base s) :
    Keeps base (State.add s f n) := by
  unfold State.add
  repeat' (first
    | with_reducible assumption | with_reducible apply State.setFld_keeps | simp only [Keeps.mk_iff] | split
    | intro _)

theorem State.inc_keeps {base : State} (s : State) (f : Fld) (hk : Keeps base s) :
    Keeps base (State.inc s f) := by
  unfold State.inc
  repeat' (first
    | with_reducible assumption | with_reducible apply State.add_keeps | simp only [Keeps.mk_iff] | split | intro _)

theorem State.satInc_keeps {base : State} (s : State) (f : Fld) (hk : Keeps base s) :
    Keeps base (State.satInc s f) := by
  unfold State.satInc
  repeat' (first
    | with_reducible assumption | with_reducible apply State.setFld_keeps | simp only [Keeps.mk_iff] | split
    | intro _)

theorem State.maxFld_keeps {base : State} (s : State) (f : Fld) (v : Nat) (hk : Keeps base s) :
    Keeps base (State.maxFld s f v) := by
  unfold State.maxFld
  repeat' (first
    | with_reducible assumption | with_reducible apply State.setFld_keeps | simp only [Keeps.mk_iff] | split
    | intro _)

theorem State.setFlds_keeps {base : State} : ∀ (l : List (Fld × Nat)) (s : State), Keeps base s → Keeps base (s.setFlds l)
  | [], _, h => h
  | (f, v) :: t, s, h => State.setFlds_keeps t (s.setFld f v) (State.setFld_keeps s f v h)

theorem State.clearFlds_keeps {base : State} (s : State) (fs : List Fld) (hk : Keeps base s) :
    Keeps base (State.clearFlds s fs) := by
  unfold State.clearFlds
  try dsimp only
  repeat' (first
    | with_reducible assumption | with_reducible apply State.setFld_keeps | with_reducible apply Keeps.foldl
    | with_reducible apply Keeps.foldlFst | simp only [Keeps.mk_iff] | split | intro _)

theorem State.setFrame_keeps {base : State} (s : State) (lo hi : Fld) (n : Nat) (hk : Keeps base s) :
    Keeps base (State.setFrame s lo hi n) := by
  unfold State.setFrame
  repeat' (first
    | with_reducible assumption | with_reducible apply State.setFld_keeps | with_reducible apply Keeps.four
    | simp only [Keeps.mk_iff] | split | intro _)

theorem State.clearPage_keeps {base : State} (s : State) (page : Nat) (hk : Keeps base s) :
    Keeps base (State.clearPage s page) := by
  unfold State.clearPage
  try dsimp only
  repeat' (first
    | with_reducible assumption | with_reducible apply Keeps.four | with_reducible apply Keeps.fourRegs
    | simp only [Keeps.mk_iff]
    | (refine fun (hr : mapWf regReset _ = true) => ?_; first | exact mapWf_mapPut _ _ _ _ hr | exact mapWf_filter _ _ _ hr)
    | split | intro _)

theorem State.emit_keeps {base : State} (s : State) (o : Output) (hk : Keeps base s) :
    Keeps base (State.emit s o) := by
  unfold State.emit
  try dsimp only
  repeat' (first
    | with_reducible assumption | with_reducible apply Keeps.four | simp only [Keeps.mk_iff] | split | intro _)

theorem State.begin_keeps {base : State} (s : State) (hk : Keeps base s) :
    Keeps base (State.begin s) := by
  unfold State.begin
  try dsimp only
  repeat' (first
    | with_reducible assumption | with_reducible apply Keeps.four | simp only [Keeps.mk_iff] | split | intro _)

theorem State.drawn_keeps {base : State} (s : State) (hk : Keeps base s) :
    Keeps base (State.drawn s) := by
  unfold State.drawn
  try dsimp only
  repeat' (first
    | with_reducible assumption | with_reducible apply Keeps.four | simp only [Keeps.mk_iff] | split | intro _)

theorem State.noteEdge_keeps {base : State} (s : State) (line : Nat) (was : Bool) (hk : Keeps base s) :
    Keeps base (State.noteEdge s line was) := by
  unfold State.noteEdge
  try dsimp only
  repeat' (first
    | with_reducible assumption | with_reducible apply Keeps.ite | with_reducible apply Keeps.four
    | simp only [Keeps.mk_iff] | split | intro _)

theorem State.irq_keeps {base : State} (s : State) (page k : Nat) (hk : Keeps base s) :
    Keeps base (State.irq s page k) := by
  unfold State.irq
  repeat' (first
    | with_reducible assumption | with_reducible apply State.setFld_keeps
    | with_reducible apply State.noteEdge_keeps | with_reducible apply Keeps.ite | simp only [Keeps.mk_iff] | split
    | intro _)

theorem State.cairnLoss_keeps {base : State} (s : State) (hk : Keeps base s) :
    Keeps base (State.cairnLoss s) := by
  unfold State.cairnLoss
  try dsimp only
  repeat' (first
    | with_reducible assumption | with_reducible apply State.inc_keeps | with_reducible apply State.irq_keeps
    | with_reducible apply Keeps.four | simp only [Keeps.mk_iff] | split | intro _)

theorem State.occur_keeps {base : State} (s : State) (o : Occurrence) (hk : Keeps base s) :
    Keeps base (State.occur s o) := by
  unfold State.occur
  try dsimp only
  repeat' (first
    | with_reducible assumption | with_reducible apply State.cairnLoss_keeps | with_reducible apply Keeps.ite
    | with_reducible apply Keeps.four | simp only [Keeps.mk_iff] | split | intro _)

theorem State.record_keeps {base : State} (s : State) (page k unit detail : Nat) (hk : Keeps base s) :
    Keeps base (State.record s page k unit detail) := by
  unfold State.record
  repeat' (first
    | with_reducible assumption | with_reducible apply State.occur_keeps | simp only [Keeps.mk_iff] | split
    | intro _)

theorem State.event_keeps {base : State} (s : State) (page k unit detail : Nat) (hk : Keeps base s) :
    Keeps base (State.event s page k unit detail) := by
  unfold State.event
  repeat' (first
    | with_reducible assumption | with_reducible apply State.irq_keeps | with_reducible apply State.record_keeps
    | simp only [Keeps.mk_iff] | split | intro _)

theorem State.recordOpen_keeps {base : State} (s : State) (page : Nat) (hk : Keeps base s) :
    Keeps base (State.recordOpen s page) := by
  unfold State.recordOpen
  repeat' (first
    | with_reducible assumption | with_reducible apply State.occur_keeps | with_reducible apply State.drawn_keeps
    | simp only [Keeps.mk_iff] | split | intro _)

theorem State.fence_keeps {base : State} (s : State) (page unit cause detail : Nat) (hk : Keeps base s) :
    Keeps base (State.fence s page unit cause detail) := by
  unfold State.fence
  try dsimp only
  repeat' (first
    | with_reducible assumption | with_reducible apply State.occur_keeps | with_reducible apply State.setFld_keeps
    | with_reducible apply Keeps.ite | with_reducible apply Keeps.four | simp only [Keeps.mk_iff] | split | intro _)

theorem State.fenceBlock_keeps {base : State} (s : State) (page cause : Nat) (hk : Keeps base s) :
    Keeps base (State.fenceBlock s page cause) := by
  unfold State.fenceBlock
  repeat' (first
    | with_reducible assumption | with_reducible apply State.fence_keeps | simp only [Keeps.mk_iff] | split
    | intro _)

theorem State.releaseFences_keeps {base : State} (s : State) (page : Nat) (gone : Fence → Bool) (hk : Keeps base s) :
    Keeps base (State.releaseFences s page gone) := by
  unfold State.releaseFences
  try dsimp only
  repeat' (first
    | with_reducible assumption | with_reducible apply State.setFld_keeps | with_reducible apply Keeps.ite
    | with_reducible apply Keeps.four | simp only [Keeps.mk_iff] | split | intro _)

theorem State.wroteCode_keeps {base : State} (s : State) (a n : Nat) (hk : Keeps base s) :
    Keeps base (State.wroteCode s a n) := by
  unfold State.wroteCode
  try dsimp only
  repeat' (first
    | with_reducible assumption | with_reducible apply Keeps.ite | with_reducible apply Keeps.four
    | simp only [Keeps.mk_iff] | split | intro _)

theorem State.fenceI_keeps {base : State} (s : State) (h : Nat) (hk : Keeps base s) :
    Keeps base (State.fenceI s h) := by
  unfold State.fenceI
  try dsimp only
  repeat' (first
    | with_reducible assumption | with_reducible apply Keeps.four | simp only [Keeps.mk_iff] | split | intro _)

theorem State.breakReservations_keeps {base : State} (s : State) (h : Option Nat) (a n : Nat) (hk : Keeps base s) :
    Keeps base (State.breakReservations s h a n) := by
  unfold State.breakReservations
  try dsimp only
  repeat' (first
    | with_reducible assumption | with_reducible apply Keeps.four | simp only [Keeps.mk_iff] | split | intro _)

theorem State.sramWrite_keeps {base : State} (s : State) (h : Option Nat) (a : Nat) (bs : List Byte)
    (hk : Keeps base s) : Keeps base (s.sramWrite h a bs) := by
  unfold State.sramWrite
  dsimp only
  apply State.wroteCode_keeps
  apply State.breakReservations_keeps
  simp only [Keeps.mk_iff]
  apply Keeps.fourMem hk
  intro hm
  simp only [Mems.wf_iff] at hm ⊢
  refine ⟨hm.1, memWf_foldl _ (fun m e h => ?_) _ _ hm.2.1, hm.2.2⟩
  split
  · exact h
  · exact memWf_memPut _ _ _ h

theorem State.atTime_keeps {base : State} (s : State) (ns : Nat) (hk : Keeps base s) :
    Keeps base (State.atTime s ns) := by
  unfold State.atTime
  try dsimp only
  repeat' (first
    | with_reducible assumption | with_reducible apply Keeps.ite | with_reducible apply Keeps.four
    | simp only [Keeps.mk_iff] | split | intro _)

end Sys2Proof.Machine
end

