-- ==== Sys2Proof/Laws/KeepsAccess.lean ====
section
/-! SUPPORT. What the operations of Machine/Access.lean keep (Laws/Keeps.lean). -/
set_option linter.all false
set_option Elab.async false

namespace Sys2Proof.Machine

theorem State.disarm_keeps {base : State} (s : State) (page : Nat) (hk : Keeps base s) :
    Keeps base (State.disarm s page) := by
  unfold State.disarm
  try dsimp only
  repeat' (first
    | with_reducible assumption | with_reducible apply State.setFld_keeps | with_reducible apply Keeps.ite
    | with_reducible apply Keeps.four | simp only [Keeps.mk_iff] | split | intro _)

theorem State.asWrite_keeps {base : State} (s : State) (m : Master) (page right : Nat) (k : State → Res) (hk : Keeps base s)
    (hk : ∀ (x0 : State), Keeps base x0 → ResKeeps base (k x0)) :
    ResKeeps base (State.asWrite s m page right k) := by
  unfold State.asWrite
  repeat' (first
    | with_reducible assumption | with_reducible apply hk | with_reducible apply State.disarm_keeps
    | with_reducible apply State.emit_keeps | with_reducible apply Keeps.ite | with_reducible apply ResKeeps.ite
    | with_reducible apply ResKeeps.next | with_reducible apply ResKeeps.refused | simp only [Keeps.mk_iff] | split
    | intro _)

theorem State.asArmed_keeps {base : State} (s : State) (m : Master) (page right : Nat) (k : State → Res) (hk : Keeps base s)
    (hk : ∀ (x0 : State), Keeps base x0 → ResKeeps base (k x0)) :
    ResKeeps base (State.asArmed s m page right k) := by
  unfold State.asArmed
  try dsimp only
  repeat' (first
    | with_reducible assumption | with_reducible apply hk | with_reducible apply State.asWrite_keeps
    | with_reducible apply Keeps.ite | with_reducible apply ResKeeps.ite | with_reducible apply ResKeeps.next
    | simp only [Keeps.mk_iff] | split | intro _)

theorem State.dropLead_keeps {base : State} (s : State) (cause : Nat) (hk : Keeps base s) :
    Keeps base (State.dropLead s cause) := by
  unfold State.dropLead
  try dsimp only
  repeat' (first
    | with_reducible assumption | with_reducible apply State.setFlds_keeps | with_reducible apply State.irq_keeps
    | with_reducible apply Keeps.ite | with_reducible apply Keeps.four | simp only [Keeps.mk_iff] | split | intro _)

end Sys2Proof.Machine
end

