-- ==== Sys2Proof/Laws/KeepsStore.lean ====
section
/-! SUPPORT. What the operations of Machine/Store.lean keep (Laws/Keeps.lean). -/
set_option linter.all false
set_option Elab.async false

namespace Sys2Proof.Machine

theorem State.coreTrap_keeps {base : State} (s : State) (h cause tval : Nat) (hk : Keeps base s) :
    Keeps base (State.coreTrap s h cause tval) := by
  unfold State.coreTrap
  try dsimp only
  repeat' (first
    | with_reducible assumption | with_reducible apply State.emit_keeps | with_reducible apply Keeps.four
    | simp only [Keeps.mk_iff] | split | intro _)

theorem State.endStalled_keeps {base : State} (s : State) (hk : Keeps base s) :
    Keeps base (State.endStalled s) := by
  unfold State.endStalled
  try dsimp only
  repeat' (first
    | with_reducible assumption | with_reducible apply State.coreTrap_keeps | with_reducible apply Keeps.foldl
    | with_reducible apply Keeps.foldlFst | with_reducible apply Keeps.four | simp only [Keeps.mk_iff] | split
    | intro _)

theorem State.makeUnusable_keeps {base : State} (s : State) (cause : Nat) (hk : Keeps base s) :
    Keeps base (State.makeUnusable s cause) := by
  unfold State.makeUnusable
  try dsimp only
  repeat' (first
    | with_reducible assumption | with_reducible apply State.fenceBlock_keeps
    | with_reducible apply State.dropLead_keeps | with_reducible apply State.endStalled_keeps
    | with_reducible apply Keeps.ite | with_reducible apply Keeps.four | simp only [Keeps.mk_iff] | split | intro _)

theorem State.startRepair_keeps {base : State} (s : State) (granule : Nat) (hk : Keeps base s) :
    Keeps base (State.startRepair s granule) := by
  unfold State.startRepair
  try dsimp only
  repeat' (first
    | with_reducible assumption | with_reducible apply State.makeUnusable_keeps | with_reducible apply Keeps.ite
    | with_reducible apply Keeps.four | simp only [Keeps.mk_iff] | split | intro _)

theorem State.recordUe_keeps {base : State} (s : State) (a region master : Nat) (hk : Keeps base s) :
    Keeps base (State.recordUe s a region master) := by
  unfold State.recordUe
  repeat' (first
    | with_reducible assumption | with_reducible apply State.inc_keeps | with_reducible apply State.setFlds_keeps
    | with_reducible apply State.event_keeps | simp only [Keeps.mk_iff] | split | intro _)

theorem State.logStoreUe_keeps {base : State} (s : State) (a master : Nat) (hk : Keeps base s) :
    Keeps base (State.logStoreUe s a master) := by
  unfold State.logStoreUe
  try dsimp only
  repeat' (first
    | with_reducible assumption | with_reducible apply State.recordUe_keeps
    | with_reducible apply State.startRepair_keeps | with_reducible apply Keeps.ite | simp only [Keeps.mk_iff]
    | split | intro _)

theorem State.logStoreCe_keeps {base : State} (s : State) (a : Nat) (hk : Keeps base s) :
    Keeps base (State.logStoreCe s a) := by
  unfold State.logStoreCe
  repeat' (first
    | with_reducible assumption | with_reducible apply State.inc_keeps | with_reducible apply State.setFlds_keeps
    | with_reducible apply State.irq_keeps | simp only [Keeps.mk_iff] | split | intro _)

theorem State.poisonStore_keeps {base : State} (s : State) (a : Nat) (hk : Keeps base s) :
    Keeps base (State.poisonStore s a) := by
  unfold State.poisonStore
  try dsimp only
  repeat' (first
    | with_reducible assumption | with_reducible apply Keeps.ite | with_reducible apply Keeps.four
    | with_reducible apply Keeps.fourMem | simp only [Keeps.mk_iff]
    | (refine fun (hm : Mems.wf _ = true) => ?_; simp only [Mems.wf_iff, State.drawn_mem] at hm ⊢; first | (simp only [hm, memWf_filter, memWf_memWrite, memWf_memClear, memWf_memPut, memWf_nil, and_self]; done) | (simp [hm]; done))
    | split | intro _)

theorem State.weakenStore_keeps {base : State} (s : State) (a : Nat) (hk : Keeps base s) :
    Keeps base (State.weakenStore s a) := by
  unfold State.weakenStore
  try dsimp only
  repeat' (first
    | with_reducible assumption | with_reducible apply Keeps.ite | with_reducible apply Keeps.four
    | with_reducible apply Keeps.fourMem | simp only [Keeps.mk_iff]
    | (refine fun (hm : Mems.wf _ = true) => ?_; simp only [Mems.wf_iff, State.drawn_mem] at hm ⊢; first | (simp only [hm, memWf_filter, memWf_memWrite, memWf_memClear, memWf_memPut, memWf_nil, and_self]; done) | (simp [hm]; done))
    | split | intro _)

theorem State.storeEcc_keeps {base : State} (s : State) (a : Nat) (e : Ecc) (hk : Keeps base s) :
    Keeps base (State.storeEcc s a e) := by
  unfold State.storeEcc
  try dsimp only
  repeat' (first
    | with_reducible assumption | with_reducible apply State.weakenStore_keeps
    | with_reducible apply State.poisonStore_keeps | simp only [Keeps.mk_iff] | split | intro _)

theorem State.readWords_keeps {base : State} (s : State) (a n master : Nat) (hk : Keeps base s) :
    Keeps base (State.readWords s a n master) := by
  unfold State.readWords
  try dsimp only
  repeat' (first
    | with_reducible assumption | with_reducible apply State.logStoreCe_keeps
    | with_reducible apply State.logStoreUe_keeps | with_reducible apply Keeps.foldl
    | with_reducible apply Keeps.foldlFst | with_reducible apply Keeps.four | with_reducible apply Keeps.fourMem
    | simp only [Keeps.mk_iff]
    | (refine fun (hm : Mems.wf _ = true) => ?_; simp only [Mems.wf_iff, State.drawn_mem] at hm ⊢; first | (simp only [hm, memWf_filter, memWf_memWrite, memWf_memClear, memWf_memPut, memWf_nil, and_self]; done) | (simp [hm]; done))
    | split | intro _)

theorem State.storeWrite_keeps {base : State} (s : State) (a : Nat) (bs : List Byte)
    (hk : Keeps base s) : Keeps base (s.storeWrite a bs) := by
  unfold State.storeWrite
  simp only [Keeps.mk_iff]
  apply Keeps.fourMem hk
  intro hm
  simp only [Mems.wf_iff] at hm ⊢
  refine ⟨memWf_foldl _ (fun m e h => ?_) _ _ hm.1, hm.2⟩
  split
  · exact h
  · exact memWf_memPut _ _ _ h

theorem State.arbTraffic_keeps {base : State} (s : State) (master : Nat) (hk : Keeps base s) :
    Keeps base (State.arbTraffic s master) := by
  unfold State.arbTraffic
  try dsimp only
  repeat' (first
    | with_reducible assumption | with_reducible apply State.add_keeps | with_reducible apply State.drawn_keeps
    | with_reducible apply State.maxFld_keeps | simp only [Keeps.mk_iff] | split | intro _)

theorem State.blockReads_keeps {base : State} (s : State) (a n master : Nat) (hk : Keeps base s) :
    Keeps base (State.blockReads s a n master) := by
  unfold State.blockReads
  repeat' (first
    | with_reducible assumption | with_reducible apply State.readWords_keeps
    | with_reducible apply State.arbTraffic_keeps | with_reducible apply Keeps.ite | simp only [Keeps.mk_iff]
    | split | intro _)

theorem State.blockWrite_keeps {base : State} (s : State) (a : Nat) (bs : List Byte) (master : Nat) (hk : Keeps base s) :
    Keeps base (State.blockWrite s a bs master) := by
  unfold State.blockWrite
  try dsimp only
  repeat' (first
    | with_reducible assumption | with_reducible apply State.readWords_keeps
    | with_reducible apply State.storeWrite_keeps | with_reducible apply State.arbTraffic_keeps
    | with_reducible apply Keeps.ite | simp only [Keeps.mk_iff] | split | intro _)

theorem State.showBufs_keeps {base : State} (s : State) (hk : Keeps base s) :
    Keeps base (State.showBufs s) := by
  unfold State.showBufs
  try dsimp only
  repeat' (first
    | with_reducible assumption | with_reducible apply State.setFlds_keeps | with_reducible apply Keeps.foldl
    | with_reducible apply Keeps.foldlFst | simp only [Keeps.mk_iff] | split | intro _)

theorem Mems.zeroBuf_wf (m : Mems) (b : Nat) (keep : Nat → Bool) (h : m.wf = true) : (m.zeroBuf b keep).wf = true := by
  unfold Mems.zeroBuf
  dsimp only
  simp only [Mems.wf_iff] at h ⊢
  exact ⟨memWf_filter _ _ h.1, h.2⟩

theorem State.allocBuf_keeps {base : State} (s : State) (f : Nat) (keep : Nat → Bool) (hk : Keeps base s) :
    Keeps base (State.allocBuf s f keep) := by
  unfold State.allocBuf
  split
  · apply State.showBufs_keeps
    apply State.arbTraffic_keeps
    simp only [Keeps.mk_iff]
    exact Keeps.fourMem hk (Mems.zeroBuf_wf _ _ _)
  · exact hk

theorem State.freeBuf_keeps {base : State} (s : State) (f : Nat) (hk : Keeps base s) :
    Keeps base (State.freeBuf s f) := by
  unfold State.freeBuf
  try dsimp only
  repeat' (first
    | with_reducible assumption | with_reducible apply State.showBufs_keeps | with_reducible apply Keeps.ite
    | with_reducible apply Keeps.four | simp only [Keeps.mk_iff] | split | intro _)

theorem State.dropRepeat_keeps {base : State} (s : State) (hk : Keeps base s) :
    Keeps base (State.dropRepeat s) := by
  unfold State.dropRepeat
  try dsimp only
  repeat' (first
    | with_reducible assumption | with_reducible apply State.freeBuf_keeps | with_reducible apply Keeps.four
    | simp only [Keeps.mk_iff] | split | intro _)

theorem State.makeRepeat_keeps {base : State} (s : State) (f : Nat) (hk : Keeps base s) :
    Keeps base (State.makeRepeat s f) := by
  unfold State.makeRepeat
  try dsimp only
  repeat' (first
    | with_reducible assumption | with_reducible apply State.showBufs_keeps | with_reducible apply Keeps.ite
    | with_reducible apply Keeps.four | simp only [Keeps.mk_iff] | split | intro _)

theorem State.serveStore_keeps {base : State} (s : State) (h addr a : Nat) (op : CoreOp) (hk : Keeps base s) :
    Keeps base (State.serveStore s h addr a op) := by
  unfold State.serveStore
  try dsimp only
  repeat' (first
    | with_reducible assumption | with_reducible apply State.blockReads_keeps
    | with_reducible apply State.coreTrap_keeps | with_reducible apply State.storeWrite_keeps
    | with_reducible apply State.wroteCode_keeps | with_reducible apply State.emit_keeps
    | with_reducible apply Keeps.ite | simp only [Keeps.mk_iff] | split | intro _)

theorem State.windowAccess_keeps {base : State} (s : State) (h addr : Nat) (op : CoreOp) (e : Ecc) (hk : Keeps base s) :
    Keeps base (State.windowAccess s h addr op e) := by
  unfold State.windowAccess
  try dsimp only
  repeat' (first
    | with_reducible assumption | with_reducible apply State.coreTrap_keeps
    | with_reducible apply State.storeEcc_keeps | with_reducible apply State.serveStore_keeps
    | with_reducible apply Keeps.ite | with_reducible apply Keeps.four | simp only [Keeps.mk_iff] | split | intro _)

theorem execStoreInitDone_keeps {base : State} (bad : List Nat) (s : State) (hk : Keeps base s) :
    ResKeeps base (execStoreInitDone bad s) := by
  unfold execStoreInitDone
  try dsimp only
  repeat' (first
    | with_reducible assumption | with_reducible apply State.begin_keeps | with_reducible apply State.recordUe_keeps
    | with_reducible apply State.makeUnusable_keeps | with_reducible apply State.setFlds_keeps
    | with_reducible apply State.add_keeps | with_reducible apply State.irq_keeps
    | with_reducible apply State.setFlag_keeps | with_reducible apply State.blockWrite_keeps
    | with_reducible apply State.windowAccess_keeps | with_reducible apply Keeps.ite
    | with_reducible apply ResKeeps.ite | with_reducible apply ResKeeps.next | with_reducible apply Keeps.foldl
    | with_reducible apply Keeps.foldlFst | with_reducible apply Keeps.four | with_reducible apply Keeps.fourMem
    | simp only [Keeps.mk_iff]
    | (refine fun (hm : Mems.wf _ = true) => ?_; simp only [Mems.wf_iff, State.drawn_mem] at hm ⊢; first | (simp only [hm, memWf_filter, memWf_memWrite, memWf_memClear, memWf_memPut, memWf_nil, and_self]; done) | (simp [hm]; done))
    | split | intro _)

theorem execStoreRepairDone_keeps {base : State} (granule : Nat) (s : State) (hk : Keeps base s) :
    ResKeeps base (execStoreRepairDone granule s) := by
  unfold execStoreRepairDone
  try dsimp only
  repeat' (first
    | with_reducible assumption | with_reducible apply State.begin_keeps
    | with_reducible apply State.logStoreCe_keeps | with_reducible apply State.setFld_keeps
    | with_reducible apply State.inc_keeps | with_reducible apply State.irq_keeps | with_reducible apply Keeps.ite
    | with_reducible apply ResKeeps.ite | with_reducible apply ResKeeps.next | with_reducible apply Keeps.foldl
    | with_reducible apply Keeps.foldlFst | with_reducible apply Keeps.four | with_reducible apply Keeps.fourMem
    | simp only [Keeps.mk_iff]
    | (refine fun (hm : Mems.wf _ = true) => ?_; simp only [Mems.wf_iff, State.drawn_mem] at hm ⊢; first | (simp only [hm, memWf_filter, memWf_memWrite, memWf_memClear, memWf_memPut, memWf_nil, and_self]; done) | (simp [hm]; done))
    | split | intro _)

theorem execPatrolRead_keeps {base : State} (e : Ecc) (word : Nat) (s : State) (hk : Keeps base s) :
    ResKeeps base (execPatrolRead e word s) := by
  unfold execPatrolRead
  try dsimp only
  repeat' (first
    | with_reducible assumption | with_reducible apply State.begin_keeps | with_reducible apply State.storeEcc_keeps
    | with_reducible apply State.blockReads_keeps | with_reducible apply State.setFld_keeps
    | with_reducible apply State.inc_keeps | with_reducible apply Keeps.ite | with_reducible apply ResKeeps.ite
    | with_reducible apply ResKeeps.next | with_reducible apply Keeps.four | simp only [Keeps.mk_iff] | split
    | intro _)

theorem execStoreUnusable_keeps {base : State} (c : StoreCause) (s : State) (hk : Keeps base s) :
    ResKeeps base (execStoreUnusable c s) := by
  unfold execStoreUnusable
  try dsimp only
  repeat' (first
    | with_reducible assumption | with_reducible apply State.makeUnusable_keeps
    | with_reducible apply State.begin_keeps | with_reducible apply ResKeeps.next | simp only [Keeps.mk_iff] | split
    | intro _)

theorem State.loadWords_keeps {base : State} (sec : List Byte) :
    ∀ (l : List (Nat × Fld)) (s : State), Keeps base s → Keeps base (s.loadWords sec l)
  | [], _, h => h
  | (o, f) :: t, s, h => State.loadWords_keeps sec t _ (State.setFld_keeps s f _ h)

theorem State.deriveScree_keeps {base : State} (s : State) (hk : Keeps base s) :
    Keeps base (State.deriveScree s) := by
  unfold State.deriveScree
  try dsimp only
  repeat' (first
    | with_reducible assumption | with_reducible apply State.setFlds_keeps | with_reducible apply Keeps.ite
    | simp only [Keeps.mk_iff] | split | intro _)

end Sys2Proof.Machine
end

