-- ==== Sys2Proof/Laws/KeepsGen.lean ====
section
/-! SUPPORT. What the operations of Machine/Gen.lean keep (Laws/Keeps.lean). -/
set_option linter.all false
set_option Elab.async false

namespace Sys2Proof.Machine

theorem State.setSlot_keeps {base : State} (s : State) (k : Nat) (g : GenSlot) (hk : Keeps base s) :
    Keeps base (State.setSlot s k g) := by
  unfold State.setSlot
  try dsimp only
  repeat' (first
    | with_reducible assumption | with_reducible apply Keeps.four | simp only [Keeps.mk_iff] | split | intro _)

theorem State.setSlotState_keeps {base : State} (s : State) (k st : Nat) (hk : Keeps base s) :
    Keeps base (State.setSlotState s k st) := by
  unfold State.setSlotState
  repeat' (first
    | with_reducible assumption | with_reducible apply State.setFld_keeps | with_reducible apply Keeps.four
    | simp only [Keeps.mk_iff] | split | intro _)

theorem State.readsSec_keeps {base : State} (s : State) (master a page kind : Nat) (hk : Keeps base s) :
    Keeps base (State.readsSec s master a page kind) := by
  unfold State.readsSec
  try dsimp only
  repeat' (first
    | with_reducible assumption | with_reducible apply State.blockReads_keeps | with_reducible apply Keeps.ite
    | simp only [Keeps.mk_iff] | split | intro _)

theorem State.loadRange_keeps {base : State} (page : Nat) :
    ∀ (n off : Nat) (l : List Byte) (s : State), l.length ≤ n → Keeps base s → Keeps base (s.loadRange page off l)
  | n + 4, off, b0 :: b1 :: b2 :: b3 :: t, s, hn, h => by
    unfold State.loadRange
    exact State.loadRange_keeps page n (off + 4) t _ (by simpa using hn) (State.setReg_keeps s page off _ h)
  | _, _, [], _, _, h => h
  | _, _, [_], _, _, h => h
  | _, _, [_, _], _, _, h => h
  | _, _, [_, _, _], _, _, h => h
  | 0, _, _ :: _ :: _ :: _ :: _, _, hn, _ => absurd hn (by simp only [List.length_cons]; omega)
  | 1, _, _ :: _ :: _ :: _ :: _, _, hn, _ => absurd hn (by simp only [List.length_cons]; omega)
  | 2, _, _ :: _ :: _ :: _ :: _, _, hn, _ => absurd hn (by simp only [List.length_cons]; omega)
  | 3, _, _ :: _ :: _ :: _ :: _, _, hn, _ => absurd hn (by simp only [List.length_cons]; omega)

theorem State.loadRange_keeps' {base : State} (s : State) (page off : Nat) (l : List Byte) (hk : Keeps base s) :
    Keeps base (s.loadRange page off l) := State.loadRange_keeps page l.length off l s (Nat.le_refl _) hk

theorem State.takeSection_keeps {base : State} (s : State) (a page : Nat) (load : State → List Byte → State) (hk : Keeps base s)
    (hload : ∀ (x0 : State) (x1 : List Byte), Keeps base x0 → Keeps base (load x0 x1)) :
    Keeps base (State.takeSection s a page load) := by
  unfold State.takeSection
  try dsimp only
  repeat' (first
    | with_reducible assumption | with_reducible apply hload | with_reducible apply State.readsSec_keeps
    | with_reducible apply State.fenceBlock_keeps | simp only [Keeps.mk_iff] | split | intro _)

theorem State.showParty_keeps {base : State} (s : State) (hk : Keeps base s) :
    Keeps base (State.showParty s) := by
  unfold State.showParty
  try dsimp only
  repeat' (first
    | with_reducible assumption | with_reducible apply State.setFlds_keeps | with_reducible apply Keeps.ite
    | simp only [Keeps.mk_iff] | split | intro _)

theorem State.takePtp_keeps {base : State} (s : State) (p : List Byte) (hk : Keeps base s) :
    Keeps base (State.takePtp s p) := by
  unfold State.takePtp
  repeat' (first
    | with_reducible assumption | with_reducible apply State.setFlds_keeps | simp only [Keeps.mk_iff] | split
    | intro _)

end Sys2Proof.Machine
end

