-- ==== Sys2Proof/Laws/KeepsPtp.lean ====
section
/-! SUPPORT. What the operations of Machine/Ptp.lean keep (Laws/Keeps.lean). -/
set_option linter.all false
set_option Elab.async false

namespace Sys2Proof.Machine

theorem State.setRate_keeps {base : State} (s : State) (r : Int) (hk : Keeps base s) :
    Keeps base (State.setRate s r) := by
  unfold State.setRate
  try dsimp only
  repeat' (first
    | with_reducible assumption | with_reducible apply State.setFld_keeps | with_reducible apply Keeps.four
    | simp only [Keeps.mk_iff] | split | intro _)

theorem State.setPtpState_keeps {base : State} (s : State) (st : Nat) (hk : Keeps base s) :
    Keeps base (State.setPtpState s st) := by
  unfold State.setPtpState
  try dsimp only
  repeat' (first
    | with_reducible assumption | with_reducible apply State.setFld_keeps | with_reducible apply State.setRate_keeps
    | with_reducible apply State.irq_keeps | with_reducible apply Keeps.ite | with_reducible apply Keeps.four
    | simp only [Keeps.mk_iff] | split | intro _)

theorem State.applyStep_keeps {base : State} (s : State) (step : Int) (hk : Keeps base s) :
    Keeps base (State.applyStep s step) := by
  unfold State.applyStep
  try dsimp only
  repeat' (first
    | with_reducible assumption | with_reducible apply State.setFld_keeps | with_reducible apply State.event_keeps
    | with_reducible apply Keeps.four | simp only [Keeps.mk_iff] | split | intro _)

theorem State.forgetFrames_keeps {base : State} (s : State) (hk : Keeps base s) :
    Keeps base (State.forgetFrames s) := by
  unfold State.forgetFrames
  try dsimp only
  repeat' (first
    | with_reducible assumption | with_reducible apply Keeps.four | simp only [Keeps.mk_iff] | split | intro _)

theorem State.requestStep_keeps {base : State} (s : State) (step : Int) (hk : Keeps base s) :
    Keeps base (State.requestStep s step) := by
  unfold State.requestStep
  try dsimp only
  repeat' (first
    | with_reducible assumption | with_reducible apply State.applyStep_keeps
    | with_reducible apply State.forgetFrames_keeps | with_reducible apply Keeps.ite
    | with_reducible apply Keeps.four | simp only [Keeps.mk_iff] | split | intro _)

theorem State.sampleState_keeps {base : State} (s : State) (o : Int) (hk : Keeps base s) :
    Keeps base (State.sampleState s o) := by
  unfold State.sampleState
  try dsimp only
  repeat' (first
    | with_reducible assumption | with_reducible apply State.setFld_keeps
    | with_reducible apply State.setPtpState_keeps | with_reducible apply Keeps.ite | simp only [Keeps.mk_iff]
    | split | intro _)

theorem State.servo_keeps {base : State} (s : State) (o : Int) (hk : Keeps base s) :
    Keeps base (State.servo s o) := by
  unfold State.servo
  try dsimp only
  repeat' (first
    | with_reducible assumption | with_reducible apply State.setRate_keeps | with_reducible apply State.setFld_keeps
    | with_reducible apply Keeps.ite | with_reducible apply Keeps.four | simp only [Keeps.mk_iff] | split | intro _)

theorem State.syncDone_keeps {base : State} (s : State) (t1 t2 : Nat) (corr : Int) (hk : Keeps base s) :
    Keeps base (State.syncDone s t1 t2 corr) := by
  unfold State.syncDone
  try dsimp only
  repeat' (first
    | with_reducible assumption | with_reducible apply Keeps.four | simp only [Keeps.mk_iff] | split | intro _)

theorem State.offsetSample_keeps {base : State} (s : State) (t1 t2 : Nat) (corr : Int) (d : Option Int) (hk : Keeps base s) :
    Keeps base (State.offsetSample s t1 t2 corr d) := by
  unfold State.offsetSample
  try dsimp only
  repeat' (first
    | with_reducible assumption | with_reducible apply State.syncDone_keeps
    | with_reducible apply State.setFld_keeps | with_reducible apply State.inc_keeps
    | with_reducible apply State.sampleState_keeps | with_reducible apply State.requestStep_keeps
    | with_reducible apply State.servo_keeps | with_reducible apply Keeps.ite | with_reducible apply Keeps.four
    | simp only [Keeps.mk_iff] | split | intro _)

theorem State.noteActive_keeps {base : State} (s : State) (p : Port) (hk : Keeps base s) :
    Keeps base (State.noteActive s p) := by
  unfold State.noteActive
  try dsimp only
  repeat' (first
    | with_reducible assumption | with_reducible apply State.setFld_keeps | with_reducible apply Keeps.four
    | simp only [Keeps.mk_iff] | split | intro _)

theorem execPtpSyncReceive_keeps {base : State} (m : PtpSync) (s : State) (hk : Keeps base s) :
    ResKeeps base (execPtpSyncReceive m s) := by
  unfold execPtpSyncReceive
  try dsimp only
  repeat' (first
    | with_reducible assumption | with_reducible apply State.begin_keeps
    | with_reducible apply State.noteActive_keeps | with_reducible apply State.offsetSample_keeps
    | with_reducible apply Keeps.ite | with_reducible apply ResKeeps.ite | with_reducible apply ResKeeps.next
    | with_reducible apply Keeps.four | simp only [Keeps.mk_iff] | split | intro _)

theorem State.pairDelayReq_keeps {base : State} (s : State) (t1 t2 : Nat) (corr : Int) (hk : Keeps base s) :
    Keeps base (State.pairDelayReq s t1 t2 corr) := by
  unfold State.pairDelayReq
  try dsimp only
  repeat' (first
    | with_reducible assumption | with_reducible apply Keeps.ite | with_reducible apply Keeps.four
    | simp only [Keeps.mk_iff] | split | intro _)

theorem execPtpFollowUpReceive_keeps {base : State} (port : Port) (source seq t1 : Nat) (corr : Int) (s : State) (hk : Keeps base s) :
    ResKeeps base (execPtpFollowUpReceive port source seq t1 corr s) := by
  unfold execPtpFollowUpReceive
  try dsimp only
  repeat' (first
    | with_reducible assumption | with_reducible apply State.begin_keeps
    | with_reducible apply State.pairDelayReq_keeps | with_reducible apply State.offsetSample_keeps
    | with_reducible apply Keeps.ite | with_reducible apply ResKeeps.ite | with_reducible apply ResKeeps.next
    | simp only [Keeps.mk_iff] | split | intro _)

theorem execPtpDelayReqTimer_keeps {base : State} (t3 : Nat) (s : State) (hk : Keeps base s) :
    ResKeeps base (execPtpDelayReqTimer t3 s) := by
  unfold execPtpDelayReqTimer
  try dsimp only
  repeat' (first
    | with_reducible assumption | with_reducible apply State.begin_keeps | with_reducible apply State.emit_keeps
    | with_reducible apply ResKeeps.next | with_reducible apply Keeps.four | simp only [Keeps.mk_iff] | split
    | intro _)

theorem execPtpDelayRespReceive_keeps {base : State} (port : Port) (source seq t4 : Nat) (corr logInterval : Int) (s : State) (hk : Keeps base s) :
    ResKeeps base (execPtpDelayRespReceive port source seq t4 corr logInterval s) := by
  unfold execPtpDelayRespReceive
  try dsimp only
  repeat' (first
    | with_reducible assumption | with_reducible apply State.begin_keeps | with_reducible apply State.setFld_keeps
    | with_reducible apply Keeps.ite | with_reducible apply ResKeeps.ite | with_reducible apply ResKeeps.next
    | with_reducible apply Keeps.four | simp only [Keeps.mk_iff] | split | intro _)

theorem State.newMasterId_keeps {base : State} (s : State) (clock : Nat) (hk : Keeps base s) :
    Keeps base (State.newMasterId s clock) := by
  unfold State.newMasterId
  repeat' (first
    | with_reducible assumption | with_reducible apply State.setFld_keeps | with_reducible apply State.irq_keeps
    | with_reducible apply Keeps.ite | simp only [Keeps.mk_iff] | split | intro _)

theorem State.selectForeign_keeps {base : State} (s : State) (m : PtpAnnounce) (hk : Keeps base s) :
    Keeps base (State.selectForeign s m) := by
  unfold State.selectForeign
  try dsimp only
  repeat' (first
    | with_reducible assumption | with_reducible apply State.newMasterId_keeps
    | with_reducible apply State.setPtpState_keeps | with_reducible apply Keeps.ite
    | with_reducible apply Keeps.four | simp only [Keeps.mk_iff] | split | intro _)

theorem State.selectOwn_keeps {base : State} (s : State) (hk : Keeps base s) :
    Keeps base (State.selectOwn s) := by
  unfold State.selectOwn
  try dsimp only
  repeat' (first
    | with_reducible assumption | with_reducible apply State.newMasterId_keeps
    | with_reducible apply State.setPtpState_keeps | with_reducible apply Keeps.ite
    | with_reducible apply Keeps.four | simp only [Keeps.mk_iff] | split | intro _)

theorem State.bmca_keeps {base : State} (s : State) (hk : Keeps base s) :
    Keeps base (State.bmca s) := by
  unfold State.bmca
  try dsimp only
  repeat' (first
    | with_reducible assumption | with_reducible apply State.selectOwn_keeps
    | with_reducible apply State.selectForeign_keeps | with_reducible apply Keeps.ite | simp only [Keeps.mk_iff]
    | split | intro _)

theorem execPtpAnnounceReceive_keeps {base : State} (a : PtpAnnounce) (s : State) (hk : Keeps base s) :
    ResKeeps base (execPtpAnnounceReceive a s) := by
  unfold execPtpAnnounceReceive
  try dsimp only
  repeat' (first
    | with_reducible assumption | with_reducible apply State.begin_keeps | with_reducible apply State.bmca_keeps
    | with_reducible apply Keeps.ite | with_reducible apply ResKeeps.ite | with_reducible apply ResKeeps.next
    | with_reducible apply Keeps.four | simp only [Keeps.mk_iff] | split | intro _)

theorem execPtpMessageRefused_keeps {base : State} (k : PtpRefused) (s : State) (hk : Keeps base s) :
    ResKeeps base (execPtpMessageRefused k s) := by
  unfold execPtpMessageRefused
  try dsimp only
  repeat' (first
    | with_reducible assumption | with_reducible apply State.begin_keeps | with_reducible apply State.inc_keeps
    | with_reducible apply ResKeeps.next | simp only [Keeps.mk_iff] | split | intro _)

theorem execAnnounceReceiptTimeout_keeps {base : State} (p : Port) (s : State) (hk : Keeps base s) :
    ResKeeps base (execAnnounceReceiptTimeout p s) := by
  unfold execAnnounceReceiptTimeout
  try dsimp only
  repeat' (first
    | with_reducible assumption | with_reducible apply State.begin_keeps | with_reducible apply State.bmca_keeps
    | with_reducible apply Keeps.ite | with_reducible apply ResKeeps.ite | with_reducible apply ResKeeps.next
    | with_reducible apply Keeps.four | simp only [Keeps.mk_iff] | split | intro _)

theorem execGmSyncSend_keeps {base : State} (announce : Bool) (s : State) (hk : Keeps base s) :
    ResKeeps base (execGmSyncSend announce s) := by
  unfold execGmSyncSend
  try dsimp only
  repeat' (first
    | with_reducible assumption | with_reducible apply State.begin_keeps | with_reducible apply State.emit_keeps
    | with_reducible apply Keeps.ite | with_reducible apply ResKeeps.ite | with_reducible apply ResKeeps.next
    | with_reducible apply Keeps.four | simp only [Keeps.mk_iff] | split | intro _)

theorem execGmDelayReqReceive_keeps {base : State} (p : Port) (source seq t4 : Nat) (s : State) (hk : Keeps base s) :
    ResKeeps base (execGmDelayReqReceive p source seq t4 s) := by
  unfold execGmDelayReqReceive
  try dsimp only
  repeat' (first
    | with_reducible assumption | with_reducible apply State.begin_keeps | with_reducible apply State.emit_keeps
    | with_reducible apply Keeps.ite | with_reducible apply ResKeeps.ite | with_reducible apply ResKeeps.next
    | simp only [Keeps.mk_iff] | split | intro _)

theorem execPtpSampleLoss_keeps {base : State} (s : State) (hk : Keeps base s) :
    ResKeeps base (execPtpSampleLoss s) := by
  unfold execPtpSampleLoss
  try dsimp only
  repeat' (first
    | with_reducible assumption | with_reducible apply State.begin_keeps | with_reducible apply State.setFld_keeps
    | with_reducible apply State.setPtpState_keeps | with_reducible apply Keeps.ite
    | with_reducible apply ResKeeps.ite | with_reducible apply ResKeeps.next | simp only [Keeps.mk_iff] | split
    | intro _)

theorem execHoldover60s_keeps {base : State} (s : State) (hk : Keeps base s) :
    ResKeeps base (execHoldover60s s) := by
  unfold execHoldover60s
  try dsimp only
  repeat' (first
    | with_reducible assumption | with_reducible apply State.begin_keeps | with_reducible apply State.setFld_keeps
    | with_reducible apply State.irq_keeps | with_reducible apply Keeps.ite | with_reducible apply ResKeeps.ite
    | with_reducible apply ResKeeps.next | with_reducible apply Keeps.four | simp only [Keeps.mk_iff] | split
    | intro _)

theorem execPpsPulse_keeps {base : State} (s : State) (hk : Keeps base s) :
    ResKeeps base (execPpsPulse s) := by
  unfold execPpsPulse
  try dsimp only
  repeat' (first
    | with_reducible assumption | with_reducible apply State.begin_keeps | with_reducible apply Keeps.ite
    | with_reducible apply ResKeeps.ite | with_reducible apply ResKeeps.next | with_reducible apply Keeps.four
    | simp only [Keeps.mk_iff] | split | intro _)

theorem execPpsFall_keeps {base : State} (s : State) (hk : Keeps base s) :
    ResKeeps base (execPpsFall s) := by
  unfold execPpsFall
  try dsimp only
  repeat' (first
    | with_reducible assumption | with_reducible apply State.begin_keeps | with_reducible apply ResKeeps.next
    | with_reducible apply Keeps.four | simp only [Keeps.mk_iff] | split | intro _)

end Sys2Proof.Machine
end

