-- ==== Sys2Proof/Laws/KeepsNet.lean ====
section
/-! SUPPORT. What the operations of Machine/Net.lean keep (Laws/Keeps.lean). -/
set_option linter.all false
set_option Elab.async false

namespace Sys2Proof.Machine

theorem State.setNet_keeps {base : State} (s : State) (p : Port) (n : PortS) (hk : Keeps base s) :
    Keeps base (State.setNet s p n) := by
  unfold State.setNet
  try dsimp only
  repeat' (first
    | with_reducible assumption | with_reducible apply Keeps.four | simp only [Keeps.mk_iff] | split | intro _)

theorem State.setAbs_keeps {base : State} (s : State) (p : Port) (v : Bool) (hk : Keeps base s) :
    Keeps base (State.setAbs s p v) := by
  unfold State.setAbs
  try dsimp only
  repeat' (first
    | with_reducible assumption | with_reducible apply Keeps.four | simp only [Keeps.mk_iff] | split | intro _)

theorem State.setLos_keeps {base : State} (s : State) (p : Port) (v : Bool) (hk : Keeps base s) :
    Keeps base (State.setLos s p v) := by
  unfold State.setLos
  try dsimp only
  repeat' (first
    | with_reducible assumption | with_reducible apply Keeps.four | simp only [Keeps.mk_iff] | split | intro _)

theorem State.setTxflt_keeps {base : State} (s : State) (p : Port) (v : Bool) (hk : Keeps base s) :
    Keeps base (State.setTxflt s p v) := by
  unfold State.setTxflt
  try dsimp only
  repeat' (first
    | with_reducible assumption | with_reducible apply Keeps.four | simp only [Keeps.mk_iff] | split | intro _)

theorem State.dropLink_keeps {base : State} (s : State) (p : Port) (hk : Keeps base s) :
    Keeps base (State.dropLink s p) := by
  unfold State.dropLink
  try dsimp only
  repeat' (first
    | with_reducible assumption | with_reducible apply State.setNet_keeps | with_reducible apply State.setFlds_keeps
    | with_reducible apply State.inc_keeps | with_reducible apply State.irq_keeps | with_reducible apply Keeps.ite
    | with_reducible apply Keeps.four | simp only [Keeps.mk_iff] | split | intro _)

theorem State.startAcquire_keeps {base : State} (s : State) (p : Port) (hk : Keeps base s) :
    Keeps base (State.startAcquire s p) := by
  unfold State.startAcquire
  try dsimp only
  repeat' (first
    | with_reducible assumption | with_reducible apply State.setNet_keeps | with_reducible apply State.setFld_keeps
    | with_reducible apply Keeps.ite | with_reducible apply Keeps.four | simp only [Keeps.mk_iff] | split | intro _)

theorem State.stopPort_keeps {base : State} (s : State) (p : Port) (hk : Keeps base s) :
    Keeps base (State.stopPort s p) := by
  unfold State.stopPort
  try dsimp only
  repeat' (first
    | with_reducible assumption | with_reducible apply State.dropLink_keeps
    | with_reducible apply State.setNet_keeps | with_reducible apply State.setFld_keeps
    | with_reducible apply Keeps.four | simp only [Keeps.mk_iff] | split | intro _)

theorem execSfpInsert_keeps {base : State} (p : Port) (s : State) (hk : Keeps base s) :
    ResKeeps base (execSfpInsert p s) := by
  unfold execSfpInsert
  try dsimp only
  repeat' (first
    | with_reducible assumption | with_reducible apply State.begin_keeps | with_reducible apply State.setAbs_keeps
    | with_reducible apply State.stopPort_keeps | with_reducible apply State.irq_keeps
    | with_reducible apply Keeps.ite | with_reducible apply ResKeeps.ite | with_reducible apply ResKeeps.next
    | simp only [Keeps.mk_iff] | split | intro _)

theorem execSfpRemove_keeps {base : State} (p : Port) (s : State) (hk : Keeps base s) :
    ResKeeps base (execSfpRemove p s) := by
  unfold execSfpRemove
  try dsimp only
  repeat' (first
    | with_reducible assumption | with_reducible apply State.begin_keeps | with_reducible apply State.setAbs_keeps
    | with_reducible apply State.stopPort_keeps | with_reducible apply State.irq_keeps
    | with_reducible apply Keeps.ite | with_reducible apply ResKeeps.ite | with_reducible apply ResKeeps.next
    | simp only [Keeps.mk_iff] | split | intro _)

theorem execLinkTxdisTimer_keeps {base : State} (p : Port) (s : State) (hk : Keeps base s) :
    ResKeeps base (execLinkTxdisTimer p s) := by
  unfold execLinkTxdisTimer
  try dsimp only
  repeat' (first
    | with_reducible assumption | with_reducible apply State.begin_keeps
    | with_reducible apply State.startAcquire_keeps | with_reducible apply Keeps.ite
    | with_reducible apply ResKeeps.ite | with_reducible apply ResKeeps.next | simp only [Keeps.mk_iff] | split
    | intro _)

theorem execLinkSpeedAlternate_keeps {base : State} (p : Port) (s : State) (hk : Keeps base s) :
    ResKeeps base (execLinkSpeedAlternate p s) := by
  unfold execLinkSpeedAlternate
  try dsimp only
  repeat' (first
    | with_reducible assumption | with_reducible apply State.begin_keeps | with_reducible apply State.setNet_keeps
    | with_reducible apply Keeps.ite | with_reducible apply ResKeeps.ite | with_reducible apply ResKeeps.next
    | with_reducible apply Keeps.four | simp only [Keeps.mk_iff] | split | intro _)

theorem execLinkDown_keeps {base : State} (p : Port) (los : Bool) (s : State) (hk : Keeps base s) :
    ResKeeps base (execLinkDown p los s) := by
  unfold execLinkDown
  try dsimp only
  repeat' (first
    | with_reducible assumption | with_reducible apply State.begin_keeps | with_reducible apply State.setLos_keeps
    | with_reducible apply State.dropLink_keeps | with_reducible apply State.setNet_keeps
    | with_reducible apply Keeps.ite | with_reducible apply ResKeeps.ite | with_reducible apply ResKeeps.next
    | with_reducible apply Keeps.four | simp only [Keeps.mk_iff] | split | intro _)

theorem execTxFault_keeps {base : State} (p : Port) (s : State) (hk : Keeps base s) :
    ResKeeps base (execTxFault p s) := by
  unfold execTxFault
  try dsimp only
  repeat' (first
    | with_reducible assumption | with_reducible apply State.begin_keeps | with_reducible apply State.setTxflt_keeps
    | with_reducible apply State.setNet_keeps | with_reducible apply State.irq_keeps
    | with_reducible apply State.stopPort_keeps | with_reducible apply State.fence_keeps
    | with_reducible apply State.setFld_keeps | with_reducible apply Keeps.ite | with_reducible apply ResKeeps.ite
    | with_reducible apply ResKeeps.next | with_reducible apply Keeps.four | simp only [Keeps.mk_iff] | split
    | intro _)

theorem execTxFaultRetry_keeps {base : State} (p : Port) (level : Bool) (s : State) (hk : Keeps base s) :
    ResKeeps base (execTxFaultRetry p level s) := by
  unfold execTxFaultRetry
  try dsimp only
  repeat' (first
    | with_reducible assumption | with_reducible apply State.begin_keeps | with_reducible apply State.setTxflt_keeps
    | with_reducible apply State.setNet_keeps | with_reducible apply State.setFld_keeps
    | with_reducible apply Keeps.ite | with_reducible apply ResKeeps.ite | with_reducible apply ResKeeps.next
    | with_reducible apply ResKeeps.fault | with_reducible apply Keeps.four | simp only [Keeps.mk_iff] | split
    | intro _)

theorem State.dropFrame_keeps {base : State} (s : State) (p : Port) (hk : Keeps base s) :
    Keeps base (State.dropFrame s p) := by
  unfold State.dropFrame
  repeat' (first
    | with_reducible assumption | with_reducible apply State.inc_keeps | with_reducible apply State.irq_keeps
    | simp only [Keeps.mk_iff] | split | intro _)

theorem State.ringWrite_keeps {base : State} (s : State) (p : Port) (bytes : List Byte) (hk : Keeps base s) :
    Keeps base (State.ringWrite s p bytes) := by
  unfold State.ringWrite
  try dsimp only
  repeat' (first
    | with_reducible assumption | with_reducible apply State.dropFrame_keeps | with_reducible apply State.irq_keeps
    | with_reducible apply State.sramWrite_keeps | with_reducible apply State.setFld_keeps
    | with_reducible apply Keeps.ite | with_reducible apply Keeps.four | simp only [Keeps.mk_iff] | split | intro _)

theorem execNetFrameReceive_keeps {base : State} (f : NetFrame) (s : State) (hk : Keeps base s) :
    ResKeeps base (execNetFrameReceive f s) := by
  unfold execNetFrameReceive
  try dsimp only
  repeat' (first
    | with_reducible assumption | with_reducible apply State.begin_keeps | with_reducible apply State.inc_keeps
    | with_reducible apply State.emit_keeps | with_reducible apply State.ringWrite_keeps
    | with_reducible apply Keeps.ite | with_reducible apply ResKeeps.ite | with_reducible apply ResKeeps.next
    | simp only [Keeps.mk_iff] | split | intro _)

theorem State.sendIgmp_keeps {base : State} (s : State) (p : Port) (rs : List IgmpRecord) (hk : Keeps base s) :
    Keeps base (State.sendIgmp s p rs) := by
  unfold State.sendIgmp
  try dsimp only
  repeat' (first
    | with_reducible assumption | with_reducible apply State.emit_keeps | with_reducible apply State.inc_keeps
    | with_reducible apply Keeps.ite | with_reducible apply Keeps.foldl | with_reducible apply Keeps.foldlFst
    | simp only [Keeps.mk_iff] | split | intro _)

theorem State.reportChange_keeps {base : State} (s : State) (p : Port) (rs : List IgmpRecord) (hk : Keeps base s) :
    Keeps base (State.reportChange s p rs) := by
  unfold State.reportChange
  try dsimp only
  repeat' (first
    | with_reducible assumption | with_reducible apply State.setNet_keeps
    | with_reducible apply State.sendIgmp_keeps | with_reducible apply Keeps.ite | with_reducible apply Keeps.four
    | simp only [Keeps.mk_iff] | split | intro _)

theorem State.reportAll_keeps {base : State} (s : State) (p : Port) (hk : Keeps base s) :
    Keeps base (State.reportAll s p) := by
  unfold State.reportAll
  repeat' (first
    | with_reducible assumption | with_reducible apply State.reportChange_keeps | simp only [Keeps.mk_iff] | split
    | intro _)

theorem State.rejoin_keeps {base : State} (s : State) (before : State) (p : Port) (hk : Keeps base s) :
    Keeps base (State.rejoin s before p) := by
  unfold State.rejoin
  repeat' (first
    | with_reducible assumption | with_reducible apply State.setFld_keeps
    | with_reducible apply State.reportChange_keeps | simp only [Keeps.mk_iff] | split | intro _)

theorem State.rejoinBoth_keeps {base : State} (s : State) (before : State) (hk : Keeps base s) :
    Keeps base (State.rejoinBoth s before) := by
  unfold State.rejoinBoth
  repeat' (first
    | with_reducible assumption | with_reducible apply State.rejoin_keeps | simp only [Keeps.mk_iff] | split
    | intro _)

theorem State.igmpModeNow_keeps {base : State} (s : State) (p : Port) (hk : Keeps base s) :
    Keeps base (State.igmpModeNow s p) := by
  unfold State.igmpModeNow
  try dsimp only
  repeat' (first
    | with_reducible assumption | with_reducible apply State.setNet_keeps | with_reducible apply Keeps.ite
    | with_reducible apply Keeps.four | simp only [Keeps.mk_iff] | split | intro _)

theorem execIgmpQueryReceive_keeps {base : State} (p : Port) (q : IgmpQuery) (s : State) (hk : Keeps base s) :
    ResKeeps base (execIgmpQueryReceive p q s) := by
  unfold execIgmpQueryReceive
  try dsimp only
  repeat' (first
    | with_reducible assumption | with_reducible apply State.begin_keeps | with_reducible apply State.setNet_keeps
    | with_reducible apply State.igmpModeNow_keeps | with_reducible apply Keeps.ite
    | with_reducible apply ResKeeps.ite | with_reducible apply ResKeeps.next | with_reducible apply Keeps.four
    | simp only [Keeps.mk_iff] | split | intro _)

theorem execIgmpReportTimer_keeps {base : State} (p : Port) (s : State) (hk : Keeps base s) :
    ResKeeps base (execIgmpReportTimer p s) := by
  unfold execIgmpReportTimer
  try dsimp only
  repeat' (first
    | with_reducible assumption | with_reducible apply State.begin_keeps
    | with_reducible apply State.igmpModeNow_keeps | with_reducible apply State.setNet_keeps
    | with_reducible apply State.sendIgmp_keeps | with_reducible apply Keeps.ite | with_reducible apply ResKeeps.ite
    | with_reducible apply ResKeeps.next | with_reducible apply Keeps.four | simp only [Keeps.mk_iff] | split
    | intro _)

theorem execLinkUp_keeps {base : State} (p : Port) (fecAligned : Bool) (s : State) (hk : Keeps base s) :
    ResKeeps base (execLinkUp p fecAligned s) := by
  unfold execLinkUp
  try dsimp only
  repeat' (first
    | with_reducible assumption | with_reducible apply State.begin_keeps | with_reducible apply State.setLos_keeps
    | with_reducible apply State.setFlds_keeps | with_reducible apply State.irq_keeps
    | with_reducible apply State.reportAll_keeps | with_reducible apply Keeps.ite
    | with_reducible apply ResKeeps.ite | with_reducible apply ResKeeps.next | simp only [Keeps.mk_iff] | split
    | intro _)

end Sys2Proof.Machine
end

