-- ==== Sys2Proof/Laws/KeepsPixel.lean ====
section
/-! SUPPORT. What the operations of Machine/Pixel.lean keep (Laws/Keeps.lean). -/
set_option linter.all false
set_option Elab.async false

namespace Sys2Proof.Machine

end Sys2Proof.Machine
end

