-- ==== Sys2Proof/Laws/KeepsIngest.lean ====
section
/-! SUPPORT. What the operations of Machine/Ingest.lean keep (Laws/Keeps.lean). -/
set_option linter.all false
set_option Elab.async false

namespace Sys2Proof.Machine

theorem State.setWin_keeps {base : State} (s : State) (k : Nat) (w : StreamWin) (hk : Keeps base s) :
    Keeps base (State.setWin s k w) := by
  unfold State.setWin
  try dsimp only
  repeat' (first
    | with_reducible assumption | with_reducible apply Keeps.four | simp only [Keeps.mk_iff] | split | intro _)

theorem State.writePixel_keeps {base : State} (s : State) (sec : List Byte) (buf k x y : Nat) (codes : Nat × Nat × Nat) (hk : Keeps base s) :
    Keeps base (State.writePixel s sec buf k x y codes) := by
  unfold State.writePixel
  try dsimp only
  repeat' (first
    | with_reducible assumption | with_reducible apply State.storeWrite_keeps | with_reducible apply Keeps.ite
    | with_reducible apply Keeps.foldl | with_reducible apply Keeps.foldlFst | simp only [Keeps.mk_iff] | split
    | intro _)

theorem State.writeRun_keeps {base : State} (sec : List Byte) (buf k : Nat) :
    ∀ (l : List (Nat × Nat × Nat)) (x y : Nat) (s : State), Keeps base s → Keeps base (s.writeRun sec buf k x y l)
  | [], _, _, _, h => h
  | p :: ps, x, y, s, h => State.writeRun_keeps sec buf k ps (x + 1) y _ (State.writePixel_keeps s sec buf k x y p h)

theorem State.notePixels_keeps {base : State} (s : State) (f buf : Nat) (px : List Nat) (hk : Keeps base s) :
    Keeps base (State.notePixels s f buf px) := by
  unfold State.notePixels
  try dsimp only
  repeat' (first
    | with_reducible assumption | with_reducible apply Keeps.ite | with_reducible apply Keeps.four
    | simp only [Keeps.mk_iff] | split | intro _)

theorem State.writeSrds_keeps {base : State} (sec : List Byte) (f buf k : Nat) :
    ∀ (l : List Srd) (data : List Byte) (s : State), Keeps base s → Keeps base (s.writeSrds sec f buf k data l)
  | [], _, _, h => h
  | r :: rs, data, s, h =>
    State.writeSrds_keeps sec f buf k rs (data.drop r.len) _
      (State.notePixels_keeps _ f buf _ (State.writeRun_keeps sec buf k _ r.off r.row s h))

theorem State.refusePacket_keeps {base : State} (s : State) (k : Nat) (p : Port) (code : Nat) (hk : Keeps base s) :
    Keeps base (State.refusePacket s k p code) := by
  unfold State.refusePacket
  repeat' (first
    | with_reducible assumption | with_reducible apply State.inc_keeps | with_reducible apply State.setFlds_keeps
    | with_reducible apply State.irq_keeps | simp only [Keeps.mk_iff] | split | intro _)

theorem State.pairCopy_keeps {base : State} (s : State) (k : Nat) (a : Accepted) (p : MediaPacket) (hk : Keeps base s) :
    Keeps base (State.pairCopy s k a p) := by
  unfold State.pairCopy
  try dsimp only
  repeat' (first
    | with_reducible assumption | with_reducible apply State.setWin_keeps | with_reducible apply State.maxFld_keeps
    | with_reducible apply State.satInc_keeps | with_reducible apply State.irq_keeps
    | with_reducible apply Keeps.ite | with_reducible apply Keeps.four | simp only [Keeps.mk_iff] | split | intro _)

theorem State.mismatch_keeps {base : State} (s : State) (k f : Nat) (hk : Keeps base s) :
    Keeps base (State.mismatch s k f) := by
  unfold State.mismatch
  try dsimp only
  repeat' (first
    | with_reducible assumption | with_reducible apply State.inc_keeps | with_reducible apply State.event_keeps
    | with_reducible apply State.setWin_keeps | with_reducible apply Keeps.ite | with_reducible apply Keeps.four
    | simp only [Keeps.mk_iff] | split | intro _)

theorem State.duplicate_keeps {base : State} (s : State) (k : Nat) (a : Accepted) (p : MediaPacket) (hk : Keeps base s) :
    Keeps base (State.duplicate s k a p) := by
  unfold State.duplicate
  try dsimp only
  repeat' (first
    | with_reducible assumption | with_reducible apply State.inc_keeps | with_reducible apply State.pairCopy_keeps
    | with_reducible apply State.mismatch_keeps | with_reducible apply Keeps.ite | simp only [Keeps.mk_iff] | split
    | intro _)

theorem State.openFrame_keeps {base : State} (s : State) (sec : List Byte) (f : Nat) (hk : Keeps base s) :
    Keeps base (State.openFrame s sec f) := by
  unfold State.openFrame
  repeat' (first
    | with_reducible assumption | with_reducible apply State.allocBuf_keeps | with_reducible apply Keeps.ite
    | simp only [Keeps.mk_iff] | split | intro _)

theorem State.writePacket_keeps {base : State} (s : State) (sec : List Byte) (k f : Nat) (p : MediaPacket) (hk : Keeps base s) :
    Keeps base (State.writePacket s sec k f p) := by
  unfold State.writePacket
  try dsimp only
  repeat' (first
    | with_reducible assumption | with_reducible apply State.writeSrds_keeps
    | with_reducible apply State.arbTraffic_keeps | with_reducible apply Keeps.ite | simp only [Keeps.mk_iff]
    | split | intro _)

theorem State.acceptPacket_keeps {base : State} (s : State) (sec : List Byte) (k f num epoch : Nat) (p : MediaPacket) (hk : Keeps base s) :
    Keeps base (State.acceptPacket s sec k f num epoch p) := by
  unfold State.acceptPacket
  try dsimp only
  repeat' (first
    | with_reducible assumption | with_reducible apply State.openFrame_keeps
    | with_reducible apply State.setWin_keeps | with_reducible apply State.inc_keeps
    | with_reducible apply State.writePacket_keeps | simp only [Keeps.mk_iff] | split | intro _)

theorem State.preferA_keeps {base : State} (s : State) (sec : List Byte) (k f : Nat) (b : Accepted) (p : MediaPacket) (hk : Keeps base s) :
    Keeps base (State.preferA s sec k f b p) := by
  unfold State.preferA
  try dsimp only
  repeat' (first
    | with_reducible assumption | with_reducible apply State.inc_keeps | with_reducible apply State.setWin_keeps
    | with_reducible apply State.maxFld_keeps | with_reducible apply State.openFrame_keeps
    | with_reducible apply State.writePacket_keeps | with_reducible apply State.mismatch_keeps
    | with_reducible apply Keeps.ite | with_reducible apply Keeps.four | simp only [Keeps.mk_iff] | split | intro _)

theorem State.mergePacket_keeps {base : State} (s : State) (t : Timing) (sec : List Byte) (k f epoch : Nat) (p : MediaPacket) (hk : Keeps base s) :
    Keeps base (State.mergePacket s t sec k f epoch p) := by
  unfold State.mergePacket
  try dsimp only
  repeat' (first
    | with_reducible assumption | with_reducible apply State.refusePacket_keeps
    | with_reducible apply State.inc_keeps | with_reducible apply State.preferA_keeps
    | with_reducible apply State.duplicate_keeps | with_reducible apply State.acceptPacket_keeps
    | with_reducible apply Keeps.ite | simp only [Keeps.mk_iff] | split | intro _)

theorem State.ingestEcc_keeps {base : State} (s : State) (e : Ecc) (hk : Keeps base s) :
    Keeps base (State.ingestEcc s e) := by
  unfold State.ingestEcc
  repeat' (first
    | with_reducible assumption | with_reducible apply State.fenceBlock_keeps | with_reducible apply Keeps.ite
    | simp only [Keeps.mk_iff] | split | intro _)

theorem State.mediaPacket_keeps {base : State} (s : State) (p : MediaPacket) (hk : Keeps base s) :
    Keeps base (State.mediaPacket s p).1 := by
  unfold State.mediaPacket
  try dsimp only
  repeat' (first
    | with_reducible assumption | with_reducible apply State.ingestEcc_keeps
    | with_reducible apply State.refusePacket_keeps | with_reducible apply State.mergePacket_keeps
    | with_reducible apply Keeps.ite | simp only [Keeps.mk_iff] | split | intro _)

theorem State.writeRows_keeps {base : State} (sec : List Byte) (f buf k w : Nat) :
    ∀ (n y : Nat) (ps : List (Nat × Nat × Nat)) (s : State), Keeps base s → Keeps base (s.writeRows sec f buf k w y n ps)
  | 0, _, _, _, h => h
  | n + 1, y, ps, s, h =>
    State.writeRows_keeps sec f buf k w n (y + 1) (ps.drop w) _
      (State.notePixels_keeps _ f buf _ (State.writeRun_keeps sec buf k (ps.take w) 0 y s h))

theorem State.decodeError_keeps {base : State} (s : State) (k f slice code : Nat) (hk : Keeps base s) :
    Keeps base (State.decodeError s k f slice code) := by
  unfold State.decodeError
  try dsimp only
  repeat' (first
    | with_reducible assumption | with_reducible apply State.setWin_keeps | with_reducible apply State.inc_keeps
    | with_reducible apply State.setFlds_keeps | with_reducible apply Keeps.four | simp only [Keeps.mk_iff] | split
    | intro _)

theorem State.sliceDecoded_keeps {base : State} (s : State) (sec : List Byte) (k f row rows us : Nat) (ps : List (Nat × Nat × Nat)) (hk : Keeps base s) :
    Keeps base (State.sliceDecoded s sec k f row rows us ps) := by
  unfold State.sliceDecoded
  try dsimp only
  repeat' (first
    | with_reducible assumption | with_reducible apply State.writeRows_keeps
    | with_reducible apply State.arbTraffic_keeps | with_reducible apply State.setWin_keeps
    | with_reducible apply State.inc_keeps | with_reducible apply State.maxFld_keeps
    | with_reducible apply Keeps.ite | with_reducible apply Keeps.four | simp only [Keeps.mk_iff] | split | intro _)

theorem State.xsdecSlice_keeps {base : State} (s : State) (k f slice row rows last us : Nat) (h : Option JxsHeader) (ecc : Ecc) (r : SliceResult) (hk : Keeps base s) :
    Keeps base (State.xsdecSlice s k f slice row rows last us h ecc r) := by
  unfold State.xsdecSlice
  try dsimp only
  repeat' (first
    | with_reducible assumption | with_reducible apply State.fenceBlock_keeps
    | with_reducible apply State.decodeError_keeps | with_reducible apply State.irq_keeps
    | with_reducible apply State.sliceDecoded_keeps | with_reducible apply Keeps.ite | simp only [Keeps.mk_iff]
    | split | intro _)

theorem State.overrun_keeps {base : State} (s : State) (sec : List Byte) (f k : Nat) (hk : Keeps base s) :
    Keeps base (State.overrun s sec f k) := by
  unfold State.overrun
  try dsimp only
  repeat' (first
    | with_reducible assumption | with_reducible apply State.drawn_keeps
    | with_reducible apply State.decodeError_keeps | with_reducible apply State.irq_keeps
    | with_reducible apply Keeps.ite | simp only [Keeps.mk_iff] | split | intro _)

theorem State.dropKept_keeps {base : State} (s : State) (lp f : Nat) (hk : Keeps base s) :
    Keeps base (State.dropKept s lp f) := by
  unfold State.dropKept
  try dsimp only
  repeat' (first
    | with_reducible assumption | with_reducible apply Keeps.ite | with_reducible apply Keeps.four
    | simp only [Keeps.mk_iff] | split | intro _)

theorem State.closeFrame_keeps {base : State} (s : State) (t : Timing) (f : Nat) (hk : Keeps base s) :
    Keeps base (State.closeFrame s t f) := by
  unfold State.closeFrame
  try dsimp only
  repeat' (first
    | with_reducible assumption | with_reducible apply State.overrun_keeps | with_reducible apply State.inc_keeps
    | with_reducible apply State.setFlds_keeps | with_reducible apply State.setFld_keeps
    | with_reducible apply State.irq_keeps | with_reducible apply State.freeBuf_keeps
    | with_reducible apply State.dropKept_keeps | with_reducible apply State.rejoinBoth_keeps
    | with_reducible apply Keeps.ite | with_reducible apply Keeps.foldl | with_reducible apply Keeps.foldlFst
    | with_reducible apply Keeps.four | simp only [Keeps.mk_iff] | split | intro _)

end Sys2Proof.Machine
end

