-- ==== Sys2Proof/Laws/KeepsGov.lean ====
section
/-! SUPPORT. What the operations of Machine/Gov.lean keep (Laws/Keeps.lean). -/
set_option linter.all false
set_option Elab.async false

namespace Sys2Proof.Machine

theorem State.noteLut_keeps {base : State} (s : State) (a : Nat) (hk : Keeps base s) :
    Keeps base (State.noteLut s a) := by
  unfold State.noteLut
  try dsimp only
  repeat' (first
    | with_reducible assumption | with_reducible apply State.inc_keeps | with_reducible apply State.event_keeps
    | with_reducible apply State.blockReads_keeps | with_reducible apply Keeps.foldl
    | with_reducible apply Keeps.foldlFst | simp only [Keeps.mk_iff] | split | intro _)

theorem State.readsBank_keeps {base : State} (s : State) (a : Nat) (hk : Keeps base s) :
    Keeps base (State.readsBank s a) := by
  unfold State.readsBank
  try dsimp only
  repeat' (first
    | with_reducible assumption | with_reducible apply State.readsSec_keeps
    | with_reducible apply State.noteLut_keeps | with_reducible apply State.blockReads_keeps
    | simp only [Keeps.mk_iff] | split | intro _)

theorem State.loadBank_keeps {base : State} (s : State) (k : Nat) (hk : Keeps base s) :
    Keeps base (State.loadBank s k) := by
  unfold State.loadBank
  try dsimp only
  repeat' (first
    | with_reducible assumption | with_reducible apply State.readsBank_keeps
    | with_reducible apply State.fenceBlock_keeps | with_reducible apply Keeps.four | simp only [Keeps.mk_iff]
    | split | intro _)

theorem State.startSurvey_keeps {base : State} (s : State) (k : Nat) (hk : Keeps base s) :
    Keeps base (State.startSurvey s k) := by
  unfold State.startSurvey
  try dsimp only
  repeat' (first
    | with_reducible assumption | with_reducible apply State.setFlds_keeps | with_reducible apply Keeps.four
    | simp only [Keeps.mk_iff] | split | intro _)

theorem State.evalUnder_keeps {base : State} (s : State) (b : Bank) (src : PixelSource) (pixels : List Nat) (from' : GovSums) (hk : Keeps base s) :
    Keeps base (State.evalUnder s b src pixels from').1 := by
  unfold State.evalUnder
  try dsimp only
  repeat' (first
    | with_reducible assumption | with_reducible apply State.readWords_keeps
    | with_reducible apply State.arbTraffic_keeps | with_reducible apply State.add_keeps
    | with_reducible apply State.irq_keeps | with_reducible apply State.fenceBlock_keeps
    | with_reducible apply Keeps.ite | with_reducible apply Keeps.foldl | with_reducible apply Keeps.foldlFst
    | with_reducible apply Keeps.foldr | simp only [Keeps.mk_iff] | split | intro _)

theorem State.evalAll_keeps {base : State} (src : Bank → PixelSource) (pixels : Bank → List Nat) (sums : List GovSums) :
    ∀ (l : List Bank) (s : State), Keeps base s → Keeps base (s.evalAll src pixels sums l).1
  | [], _, h => h
  | b :: bs, s, h => State.evalAll_keeps src pixels sums bs _ (State.evalUnder_keeps s b (src b) (pixels b) _ h)

theorem State.evalFrame_keeps {base : State} (s : State) (x : FrameFigures) (hk : Keeps base s) :
    Keeps base (State.evalFrame s x) := by
  unfold State.evalFrame
  try dsimp only
  repeat' (first
    | with_reducible assumption | with_reducible apply State.evalAll_keeps | with_reducible apply State.setFld_keeps
    | with_reducible apply Keeps.foldl | with_reducible apply Keeps.foldlFst | with_reducible apply Keeps.four
    | simp only [Keeps.mk_iff] | split | intro _)

theorem State.finishFigures_keeps {base : State} (s : State) (f : Nat) (hk : Keeps base s) :
    Keeps base (State.finishFigures s f) := by
  unfold State.finishFigures
  try dsimp only
  repeat' (first
    | with_reducible assumption | with_reducible apply State.evalFrame_keeps | with_reducible apply Keeps.ite
    | with_reducible apply Keeps.four | simp only [Keeps.mk_iff] | split | intro _)

theorem State.startScree_keeps {base : State} (s : State) (n : Nat) (hk : Keeps base s) :
    Keeps base (State.startScree s n) := by
  unfold State.startScree
  try dsimp only
  repeat' (first
    | with_reducible assumption | with_reducible apply State.setFld_keeps | with_reducible apply Keeps.ite
    | with_reducible apply Keeps.four | simp only [Keeps.mk_iff] | split | intro _)

theorem State.screeIdle_keeps {base : State} (s : State) (hk : Keeps base s) :
    Keeps base (State.screeIdle s) := by
  unfold State.screeIdle
  repeat' (first
    | with_reducible assumption | with_reducible apply State.setFlag_keeps | simp only [Keeps.mk_iff] | split
    | intro _)

theorem State.screeEvalDone_keeps {base : State} (s : State) (n : Nat) (hk : Keeps base s) :
    Keeps base (State.screeEvalDone s n) := by
  unfold State.screeEvalDone
  try dsimp only
  repeat' (first
    | with_reducible assumption | with_reducible apply State.evalAll_keeps
    | with_reducible apply State.screeIdle_keeps | with_reducible apply Keeps.ite | with_reducible apply Keeps.four
    | simp only [Keeps.mk_iff] | split | intro _)

theorem State.surveyDone_keeps {base : State} (s : State) (hk : Keeps base s) :
    Keeps base (State.surveyDone s) := by
  unfold State.surveyDone
  try dsimp only
  repeat' (first
    | with_reducible assumption | with_reducible apply State.evalUnder_keeps
    | with_reducible apply State.setFlds_keeps | with_reducible apply State.screeIdle_keeps
    | with_reducible apply State.irq_keeps | with_reducible apply Keeps.ite | with_reducible apply Keeps.foldl
    | with_reducible apply Keeps.foldlFst | with_reducible apply Keeps.four | simp only [Keeps.mk_iff] | split
    | intro _)

theorem State.takeGovPart_keeps {base : State} (s : State) (p : List Byte) (hk : Keeps base s) :
    Keeps base (State.takeGovPart s p) := by
  unfold State.takeGovPart
  repeat' (first
    | with_reducible assumption | with_reducible apply State.setFlds_keeps | simp only [Keeps.mk_iff] | split
    | intro _)

theorem State.showChoice_keeps {base : State} (s : State) (c : GainChoice) (hk : Keeps base s) :
    Keeps base (State.showChoice s c) := by
  unfold State.showChoice
  repeat' (first
    | with_reducible assumption | with_reducible apply State.setFlds_keeps | simp only [Keeps.mk_iff] | split
    | intro _)

theorem State.addEnergy_keeps {base : State} (s : State) (r uw : Nat) (t : Timing) (hk : Keeps base s) :
    Keeps base (State.addEnergy s r uw t) := by
  unfold State.addEnergy
  try dsimp only
  repeat' (first
    | with_reducible assumption | with_reducible apply Keeps.four | simp only [Keeps.mk_iff] | split | intro _)

theorem State.energyAdd_keeps {base : State} (s : State) (t : Timing) (silent : List Nat) (hk : Keeps base s) :
    Keeps base (State.energyAdd s t silent) := by
  unfold State.energyAdd
  try dsimp only
  repeat' (first
    | with_reducible assumption | with_reducible apply State.addEnergy_keeps | with_reducible apply Keeps.ite
    | with_reducible apply Keeps.foldl | with_reducible apply Keeps.foldlFst | simp only [Keeps.mk_iff] | split
    | intro _)

theorem State.govSnapshot_keeps {base : State} (s : State) (n : Nat) (hk : Keeps base s) :
    Keeps base (State.govSnapshot s n) := by
  unfold State.govSnapshot
  try dsimp only
  repeat' (first
    | with_reducible assumption | with_reducible apply State.setFrame_keeps
    | with_reducible apply State.setFlds_keeps | with_reducible apply State.irq_keeps
    | with_reducible apply Keeps.ite | with_reducible apply Keeps.foldl | with_reducible apply Keeps.foldlFst
    | simp only [Keeps.mk_iff] | split | intro _)

theorem State.armSnapshot_keeps {base : State} (s : State) (hk : Keeps base s) :
    Keeps base (State.armSnapshot s) := by
  unfold State.armSnapshot
  repeat' (first
    | with_reducible assumption | with_reducible apply State.setFlds_keeps | with_reducible apply Keeps.ite
    | simp only [Keeps.mk_iff] | split | intro _)

end Sys2Proof.Machine
end

