-- ==== Sys2Proof/Laws/KeepsParty.lean ====
section
/-! SUPPORT. What the operations of Machine/Party.lean keep (Laws/Keeps.lean). -/
set_option linter.all false
set_option Elab.async false

namespace Sys2Proof.Machine

theorem State.sendParty_keeps {base : State} (s : State) (m : List Byte) (hk : Keeps base s) :
    Keeps base (State.sendParty s m) := by
  unfold State.sendParty
  try dsimp only
  repeat' (first
    | with_reducible assumption | with_reducible apply State.emit_keeps | with_reducible apply Keeps.ite
    | with_reducible apply Keeps.foldl | with_reducible apply Keeps.foldlFst | simp only [Keeps.mk_iff] | split
    | intro _)

theorem State.refuseParty_keeps {base : State} (s : State) (code ty sender : Nat) (hk : Keeps base s) :
    Keeps base (State.refuseParty s code ty sender) := by
  unfold State.refuseParty
  repeat' (first
    | with_reducible assumption | with_reducible apply State.inc_keeps | with_reducible apply State.setFlds_keeps
    | with_reducible apply State.irq_keeps | simp only [Keeps.mk_iff] | split | intro _)

theorem State.markSeen_keeps {base : State} (s : State) (m : List Byte) (hk : Keeps base s) :
    Keeps base (State.markSeen s m) := by
  unfold State.markSeen
  try dsimp only
  repeat' (first
    | with_reducible assumption | with_reducible apply Keeps.four | simp only [Keeps.mk_iff] | split | intro _)

theorem State.slotsChanged_keeps {base : State} (s : State) (before : State) (hk : Keeps base s) :
    Keeps base (State.slotsChanged s before) := by
  unfold State.slotsChanged
  repeat' (first
    | with_reducible assumption | with_reducible apply State.showParty_keeps
    | with_reducible apply State.rejoinBoth_keeps | simp only [Keeps.mk_iff] | split | intro _)

theorem State.makeReady_keeps {base : State} (s : State) (k : Nat) (hk : Keeps base s) :
    Keeps base (State.makeReady s k) := by
  unfold State.makeReady
  try dsimp only
  repeat' (first
    | with_reducible assumption | with_reducible apply State.setSlotState_keeps
    | with_reducible apply State.loadBank_keeps | with_reducible apply State.startSurvey_keeps
    | with_reducible apply State.slotsChanged_keeps | with_reducible apply Keeps.ite | simp only [Keeps.mk_iff]
    | split | intro _)

theorem State.matchAnnounce_keeps {base : State} (s : State) (hk : Keeps base s) :
    Keeps base (State.matchAnnounce s) := by
  unfold State.matchAnnounce
  try dsimp only
  repeat' (first
    | with_reducible assumption | with_reducible apply State.withdraw_keeps
    | with_reducible apply State.makeReady_keeps | with_reducible apply Keeps.ite | simp only [Keeps.mk_iff] | split
    | intro _)

theorem State.withdraw_keeps {base : State} (s : State) (gen : Nat) (hk : Keeps base s) :
    Keeps base (State.withdraw s gen) := by
  unfold State.withdraw
  try dsimp only
  repeat' (first
    | with_reducible assumption | with_reducible apply State.setSlotState_keeps
    | with_reducible apply State.slotsChanged_keeps | with_reducible apply Keeps.ite
    | with_reducible apply Keeps.four | simp only [Keeps.mk_iff] | split | intro _)

theorem State.takeAnnounce_keeps {base : State} (s : State) (a : Announce) (hk : Keeps base s) :
    Keeps base (State.takeAnnounce s a) := by
  unfold State.takeAnnounce
  try dsimp only
  repeat' (first
    | with_reducible assumption | with_reducible apply State.withdraw_keeps
    | with_reducible apply State.matchAnnounce_keeps | with_reducible apply Keeps.ite
    | with_reducible apply Keeps.four | simp only [Keeps.mk_iff] | split | intro _)

theorem State.markLagging_keeps {base : State} (s : State) (n : Nat) (counted : List Have) (hk : Keeps base s) :
    Keeps base (State.markLagging s n counted) := by
  unfold State.markLagging
  try dsimp only
  repeat' (first
    | with_reducible assumption | with_reducible apply State.irq_keeps | with_reducible apply Keeps.ite
    | with_reducible apply Keeps.four | simp only [Keeps.mk_iff] | split | intro _)

theorem State.holdCommit_keeps {base : State} (s : State) (c : Commit) (hk : Keeps base s) :
    Keeps base (State.holdCommit s c) := by
  unfold State.holdCommit
  try dsimp only
  repeat' (first
    | with_reducible assumption | with_reducible apply Keeps.ite | with_reducible apply Keeps.four
    | simp only [Keeps.mk_iff] | split | intro _)

theorem State.transmitCommit_keeps {base : State} (s2 : State) (q : QuorumClose) (c : Commit) (before : Nat) (hk : Keeps base s2) :
    Keeps base (State.transmitCommit s2 q c before) := by
  unfold State.transmitCommit
  try dsimp only
  repeat' (first
    | with_reducible assumption | with_reducible apply State.sendParty_keeps
    | with_reducible apply State.holdCommit_keeps | with_reducible apply Keeps.ite | with_reducible apply Keeps.four
    | simp only [Keeps.mk_iff] | split | intro _)

theorem State.sendCommit_keeps {base : State} (s : State) (q : QuorumClose) (hk : Keeps base s) :
    Keeps base (State.sendCommit s q) := by
  unfold State.sendCommit
  try dsimp only
  repeat' (first
    | with_reducible assumption | with_reducible apply State.showChoice_keeps
    | with_reducible apply State.transmitCommit_keeps | with_reducible apply Keeps.four | simp only [Keeps.mk_iff]
    | split | intro _)

theorem State.closeOne_keeps {base : State} (s : State) (n : Nat) (hk : Keeps base s) :
    Keeps base (State.closeOne s n) := by
  unfold State.closeOne
  try dsimp only
  repeat' (first
    | with_reducible assumption | with_reducible apply State.markLagging_keeps
    | with_reducible apply State.setFlds_keeps | with_reducible apply State.sendCommit_keeps
    | with_reducible apply Keeps.ite | with_reducible apply Keeps.four | simp only [Keeps.mk_iff] | split | intro _)

theorem State.closeQuorum_keeps {base : State} (s : State) (n : Nat) (hk : Keeps base s) :
    Keeps base (State.closeQuorum s n) := by
  unfold State.closeQuorum
  try dsimp only
  repeat' (first
    | with_reducible assumption | with_reducible apply State.closeOne_keeps | with_reducible apply Keeps.ite
    | with_reducible apply Keeps.foldl | with_reducible apply Keeps.foldlFst | simp only [Keeps.mk_iff] | split
    | intro _)

theorem State.closeEarly_keeps {base : State} (s : State) (n : Nat) (hk : Keeps base s) :
    Keeps base (State.closeEarly s n) := by
  unfold State.closeEarly
  repeat' (first
    | with_reducible assumption | with_reducible apply State.closeQuorum_keeps | with_reducible apply Keeps.ite
    | simp only [Keeps.mk_iff] | split | intro _)

theorem State.holdHave_keeps {base : State} (s : State) (h : Have) (hk : Keeps base s) :
    Keeps base (State.holdHave s h) := by
  unfold State.holdHave
  try dsimp only
  repeat' (first
    | with_reducible assumption | with_reducible apply State.irq_keeps | with_reducible apply State.inc_keeps
    | with_reducible apply State.closeEarly_keeps | with_reducible apply Keeps.ite | with_reducible apply Keeps.four
    | simp only [Keeps.mk_iff] | split | intro _)

theorem State.sendHave_keeps {base : State} (s : State) (n : Nat) (hk : Keeps base s) :
    Keeps base (State.sendHave s n) := by
  unfold State.sendHave
  try dsimp only
  repeat' (first
    | with_reducible assumption | with_reducible apply State.dropKept_keeps
    | with_reducible apply State.rejoinBoth_keeps | with_reducible apply State.closeFrame_keeps
    | with_reducible apply State.setFlds_keeps | with_reducible apply State.inc_keeps
    | with_reducible apply State.irq_keeps | with_reducible apply State.sendParty_keeps
    | with_reducible apply State.holdHave_keeps | with_reducible apply Keeps.ite | with_reducible apply Keeps.four
    | simp only [Keeps.mk_iff] | split | intro _)

theorem State.haveEarly_keeps {base : State} (s : State) (f : Nat) (hk : Keeps base s) :
    Keeps base (State.haveEarly s f) := by
  unfold State.haveEarly
  try dsimp only
  repeat' (first
    | with_reducible assumption | with_reducible apply State.sendHave_keeps | with_reducible apply Keeps.ite
    | simp only [Keeps.mk_iff] | split | intro _)

theorem State.acceptHave_keeps {base : State} (s : State) (m : List Byte) (hk : Keeps base s) :
    Keeps base (State.acceptHave s m) := by
  unfold State.acceptHave
  try dsimp only
  repeat' (first
    | with_reducible assumption | with_reducible apply State.holdHave_keeps | simp only [Keeps.mk_iff] | split
    | intro _)

theorem State.standDown_keeps {base : State} (s : State) (c : Commit) (hk : Keeps base s) :
    Keeps base (State.standDown s c) := by
  unfold State.standDown
  try dsimp only
  repeat' (first
    | with_reducible assumption | with_reducible apply State.setFld_keeps | with_reducible apply State.inc_keeps
    | with_reducible apply State.irq_keeps | with_reducible apply Keeps.ite | with_reducible apply Keeps.four
    | simp only [Keeps.mk_iff] | split | intro _)

theorem State.acceptCommit_keeps {base : State} (s : State) (m : List Byte) (hk : Keeps base s) :
    Keeps base (State.acceptCommit s m) := by
  unfold State.acceptCommit
  try dsimp only
  repeat' (first
    | with_reducible assumption | with_reducible apply State.markSeen_keeps | with_reducible apply State.inc_keeps
    | with_reducible apply State.irq_keeps | with_reducible apply State.holdCommit_keeps
    | with_reducible apply State.standDown_keeps | with_reducible apply State.refuseParty_keeps
    | with_reducible apply Keeps.ite | with_reducible apply Keeps.four | simp only [Keeps.mk_iff] | split | intro _)

theorem State.acceptAnnounce_keeps {base : State} (s : State) (port : Port) (m : List Byte) (hk : Keeps base s) :
    Keeps base (State.acceptAnnounce s port m) := by
  unfold State.acceptAnnounce
  try dsimp only
  repeat' (first
    | with_reducible assumption | with_reducible apply State.refuseParty_keeps
    | with_reducible apply State.markSeen_keeps | with_reducible apply State.takeAnnounce_keeps
    | with_reducible apply State.emit_keeps | with_reducible apply State.ringWrite_keeps
    | with_reducible apply Keeps.ite | simp only [Keeps.mk_iff] | split | intro _)

theorem State.armActivation_keeps {base : State} (s : State) (frame version source : Nat) (hk : Keeps base s) :
    Keeps base (State.armActivation s frame version source) := by
  unfold State.armActivation
  try dsimp only
  repeat' (first
    | with_reducible assumption | with_reducible apply State.setFld_keeps
    | with_reducible apply State.setFrame_keeps | with_reducible apply State.setFlds_keeps
    | with_reducible apply State.irq_keeps | with_reducible apply Keeps.ite | simp only [Keeps.mk_iff] | split
    | intro _)

theorem State.acceptActivate_keeps {base : State} (s : State) (port : Port) (m : List Byte) (hk : Keeps base s) :
    Keeps base (State.acceptActivate s port m) := by
  unfold State.acceptActivate
  repeat' (first
    | with_reducible assumption | with_reducible apply State.refuseParty_keeps
    | with_reducible apply State.markSeen_keeps | with_reducible apply State.armActivation_keeps
    | with_reducible apply State.emit_keeps | with_reducible apply State.ringWrite_keeps
    | with_reducible apply Keeps.ite | simp only [Keeps.mk_iff] | split | intro _)

theorem State.partyReceive_keeps {base : State} (s : State) (port : Port) (m : List Byte) (hk : Keeps base s) :
    Keeps base (State.partyReceive s port m) := by
  unfold State.partyReceive
  repeat' (first
    | with_reducible assumption | with_reducible apply State.refuseParty_keeps
    | with_reducible apply State.markSeen_keeps | with_reducible apply State.acceptHave_keeps
    | with_reducible apply State.acceptCommit_keeps | with_reducible apply State.acceptAnnounce_keeps
    | with_reducible apply State.acceptActivate_keeps | with_reducible apply Keeps.ite | simp only [Keeps.mk_iff]
    | split | intro _)

theorem execHaveReceive_keeps {base : State} (port : Port) (m : List Byte) (s : State) (hk : Keeps base s) :
    ResKeeps base (execHaveReceive port m s) := by
  unfold execHaveReceive
  repeat' (first
    | with_reducible assumption | with_reducible apply State.begin_keeps
    | with_reducible apply State.partyReceive_keeps | with_reducible apply ResKeeps.next | simp only [Keeps.mk_iff]
    | split | intro _)

theorem execCommitReceive_keeps {base : State} (port : Port) (m : List Byte) (s : State) (hk : Keeps base s) :
    ResKeeps base (execCommitReceive port m s) := by
  unfold execCommitReceive
  repeat' (first
    | with_reducible assumption | with_reducible apply State.begin_keeps
    | with_reducible apply State.partyReceive_keeps | with_reducible apply ResKeeps.next | simp only [Keeps.mk_iff]
    | split | intro _)

theorem execGenAnnounceReceive_keeps {base : State} (port : Port) (m : List Byte) (s : State) (hk : Keeps base s) :
    ResKeeps base (execGenAnnounceReceive port m s) := by
  unfold execGenAnnounceReceive
  repeat' (first
    | with_reducible assumption | with_reducible apply State.begin_keeps
    | with_reducible apply State.partyReceive_keeps | with_reducible apply ResKeeps.next | simp only [Keeps.mk_iff]
    | split | intro _)

theorem execActivateReceive_keeps {base : State} (port : Port) (m : List Byte) (s : State) (hk : Keeps base s) :
    ResKeeps base (execActivateReceive port m s) := by
  unfold execActivateReceive
  repeat' (first
    | with_reducible assumption | with_reducible apply State.begin_keeps
    | with_reducible apply State.partyReceive_keeps | with_reducible apply ResKeeps.next | simp only [Keeps.mk_iff]
    | split | intro _)

theorem execMediaPacketReceive_keeps {base : State} (p : MediaPacket) (s : State) (hk : Keeps base s) :
    ResKeeps base (execMediaPacketReceive p s) := by
  unfold execMediaPacketReceive
  try dsimp only
  repeat' (first
    | with_reducible assumption | with_reducible apply State.begin_keeps | with_reducible apply State.atTime_keeps
    | with_reducible apply State.mediaPacket_keeps | with_reducible apply State.haveEarly_keeps
    | with_reducible apply Keeps.ite | with_reducible apply ResKeeps.ite | with_reducible apply ResKeeps.next
    | simp only [Keeps.mk_iff] | split | intro _)

theorem execXsdecSliceDecode_keeps {base : State} (k f slice row rows last us : Nat) (d : SliceDecode) (s : State) (hk : Keeps base s) :
    ResKeeps base (execXsdecSliceDecode k f slice row rows last us d s) := by
  unfold execXsdecSliceDecode
  try dsimp only
  repeat' (first
    | with_reducible assumption | with_reducible apply State.begin_keeps
    | with_reducible apply State.xsdecSlice_keeps | with_reducible apply State.haveEarly_keeps
    | with_reducible apply Keeps.ite | with_reducible apply ResKeeps.ite | with_reducible apply ResKeeps.next
    | simp only [Keeps.mk_iff] | split | intro _)

theorem execGovFiguresFinal_keeps {base : State} (f : Nat) (s : State) (hk : Keeps base s) :
    ResKeeps base (execGovFiguresFinal f s) := by
  unfold execGovFiguresFinal
  try dsimp only
  repeat' (first
    | with_reducible assumption | with_reducible apply State.begin_keeps
    | with_reducible apply State.finishFigures_keeps | with_reducible apply State.haveEarly_keeps
    | with_reducible apply Keeps.ite | with_reducible apply ResKeeps.ite | with_reducible apply ResKeeps.next
    | simp only [Keeps.mk_iff] | split | intro _)

theorem execScreeEvalDone_keeps {base : State} (n : Nat) (s : State) (hk : Keeps base s) :
    ResKeeps base (execScreeEvalDone n s) := by
  unfold execScreeEvalDone
  try dsimp only
  repeat' (first
    | with_reducible assumption | with_reducible apply State.begin_keeps
    | with_reducible apply State.screeEvalDone_keeps | with_reducible apply State.haveEarly_keeps
    | with_reducible apply Keeps.ite | with_reducible apply ResKeeps.ite | with_reducible apply ResKeeps.next
    | simp only [Keeps.mk_iff] | split | intro _)

theorem execGovSurveyDone_keeps {base : State} (s : State) (hk : Keeps base s) :
    ResKeeps base (execGovSurveyDone s) := by
  unfold execGovSurveyDone
  try dsimp only
  repeat' (first
    | with_reducible assumption | with_reducible apply State.begin_keeps
    | with_reducible apply State.surveyDone_keeps | with_reducible apply Keeps.ite
    | with_reducible apply ResKeeps.ite | with_reducible apply ResKeeps.next | simp only [Keeps.mk_iff] | split
    | intro _)

theorem execGovSnapRequest_keeps {base : State} (m : Master) (s : State) (hk : Keeps base s) :
    ResKeeps base (execGovSnapRequest m s) := by
  unfold execGovSnapRequest
  try dsimp only
  repeat' (first
    | with_reducible assumption | with_reducible apply State.begin_keeps | with_reducible apply State.asWrite_keeps
    | with_reducible apply State.armSnapshot_keeps | with_reducible apply ResKeeps.next | simp only [Keeps.mk_iff]
    | split | intro _)

theorem execHaveSendDeadline_keeps {base : State} (due : HaveDue) (s : State) (hk : Keeps base s) :
    ResKeeps base (execHaveSendDeadline due s) := by
  unfold execHaveSendDeadline
  try dsimp only
  repeat' (first
    | with_reducible assumption | with_reducible apply State.begin_keeps | with_reducible apply State.atTime_keeps
    | with_reducible apply State.fenceBlock_keeps | with_reducible apply State.sendHave_keeps
    | with_reducible apply Keeps.ite | with_reducible apply ResKeeps.ite | with_reducible apply ResKeeps.next
    | simp only [Keeps.mk_iff] | split | intro _)

theorem execQuorumCloseAtC_keeps {base : State} (n : Nat) (s : State) (hk : Keeps base s) :
    ResKeeps base (execQuorumCloseAtC n s) := by
  unfold execQuorumCloseAtC
  try dsimp only
  repeat' (first
    | with_reducible assumption | with_reducible apply State.begin_keeps | with_reducible apply State.atTime_keeps
    | with_reducible apply State.closeQuorum_keeps | with_reducible apply Keeps.ite
    | with_reducible apply ResKeeps.ite | with_reducible apply ResKeeps.next | simp only [Keeps.mk_iff] | split
    | intro _)

theorem State.annResult_keeps {base : State} (s : State) (r : Nat) (hk : Keeps base s) :
    Keeps base (State.annResult s r) := by
  unfold State.annResult
  repeat' (first
    | with_reducible assumption | with_reducible apply State.setFlds_keeps | with_reducible apply State.irq_keeps
    | simp only [Keeps.mk_iff] | split | intro _)

theorem State.sendAnnounce_keeps {base : State} (s : State) (a : Announce) (hk : Keeps base s) :
    Keeps base (State.sendAnnounce s a) := by
  unfold State.sendAnnounce
  try dsimp only
  repeat' (first
    | with_reducible assumption | with_reducible apply State.withdraw_keeps
    | with_reducible apply State.sendParty_keeps | with_reducible apply State.takeAnnounce_keeps
    | with_reducible apply State.annResult_keeps | simp only [Keeps.mk_iff] | split | intro _)

theorem State.announceSend_keeps {base : State} (s : State) (hk : Keeps base s) :
    Keeps base (State.announceSend s) := by
  unfold State.announceSend
  try dsimp only
  repeat' (first
    | with_reducible assumption | with_reducible apply State.annResult_keeps
    | with_reducible apply State.sendAnnounce_keeps | with_reducible apply Keeps.ite | simp only [Keeps.mk_iff]
    | split | intro _)

theorem execGenAnnounceSend_keeps {base : State} (m : Master) (s : State) (hk : Keeps base s) :
    ResKeeps base (execGenAnnounceSend m s) := by
  unfold execGenAnnounceSend
  try dsimp only
  repeat' (first
    | with_reducible assumption | with_reducible apply State.begin_keeps | with_reducible apply State.asWrite_keeps
    | with_reducible apply State.announceSend_keeps | with_reducible apply ResKeeps.next | simp only [Keeps.mk_iff]
    | split | intro _)

theorem State.stageDone_keeps {base : State} (s : State) (hk : Keeps base s) :
    Keeps base (State.stageDone s) := by
  unfold State.stageDone
  try dsimp only
  repeat' (first
    | with_reducible assumption | with_reducible apply State.readsSec_keeps
    | with_reducible apply State.setSlot_keeps | with_reducible apply State.setFlds_keeps
    | with_reducible apply State.slotsChanged_keeps | with_reducible apply State.matchAnnounce_keeps
    | with_reducible apply State.irq_keeps | with_reducible apply Keeps.four | simp only [Keeps.mk_iff] | split
    | intro _)

theorem execGenStageDone_keeps {base : State} (s : State) (hk : Keeps base s) :
    ResKeeps base (execGenStageDone s) := by
  unfold execGenStageDone
  try dsimp only
  repeat' (first
    | with_reducible assumption | with_reducible apply State.begin_keeps
    | with_reducible apply State.stageDone_keeps | with_reducible apply Keeps.ite
    | with_reducible apply ResKeeps.ite | with_reducible apply ResKeeps.next | simp only [Keeps.mk_iff] | split
    | intro _)

end Sys2Proof.Machine
end

