-- ==== Sys2Proof/Laws/KeepsTelem.lean ====
section
/-! SUPPORT. What the operations of Machine/Telem.lean keep (Laws/Keeps.lean). -/
set_option linter.all false
set_option Elab.async false

namespace Sys2Proof.Machine

theorem State.showTelem_keeps {base : State} (s : State) (hk : Keeps base s) :
    Keeps base (State.showTelem s) := by
  unfold State.showTelem
  repeat' (first
    | with_reducible assumption | with_reducible apply State.setFlds_keeps | simp only [Keeps.mk_iff] | split
    | intro _)

theorem State.popWord_keeps {base : State} (s : State) (hk : Keeps base s) :
    Keeps base (State.popWord s) := by
  unfold State.popWord
  try dsimp only
  repeat' (first
    | with_reducible assumption | with_reducible apply State.showTelem_keeps | with_reducible apply State.emit_keeps
    | with_reducible apply Keeps.ite | with_reducible apply Keeps.four | simp only [Keeps.mk_iff] | split | intro _)

theorem State.releasePop_keeps {base : State} (s : State) (hk : Keeps base s) :
    Keeps base (State.releasePop s) := by
  unfold State.releasePop
  try dsimp only
  repeat' (first
    | with_reducible assumption | with_reducible apply State.showTelem_keeps | with_reducible apply State.emit_keeps
    | with_reducible apply Keeps.ite | with_reducible apply Keeps.four | simp only [Keeps.mk_iff] | split | intro _)

theorem State.swapBanks_keeps {base : State} (s : State) (hk : Keeps base s) :
    Keeps base (State.swapBanks s) := by
  unfold State.swapBanks
  try dsimp only
  repeat' (first
    | with_reducible assumption | with_reducible apply State.inc_keeps | with_reducible apply State.irq_keeps
    | with_reducible apply State.showTelem_keeps | with_reducible apply State.popWord_keeps
    | with_reducible apply Keeps.ite | with_reducible apply Keeps.four | simp only [Keeps.mk_iff] | split | intro _)

theorem State.telemItem_keeps {base : State} (s : State) (cls src : Nat) (words : List Nat) (e : Ecc) (hk : Keeps base s) :
    Keeps base (State.telemItem s cls src words e) := by
  unfold State.telemItem
  try dsimp only
  repeat' (first
    | with_reducible assumption | with_reducible apply State.fence_keeps | with_reducible apply State.setBit_keeps
    | with_reducible apply State.inc_keeps | with_reducible apply State.setFld_keeps
    | with_reducible apply State.irq_keeps | with_reducible apply State.swapBanks_keeps
    | with_reducible apply State.showTelem_keeps | with_reducible apply Keeps.ite | with_reducible apply Keeps.four
    | simp only [Keeps.mk_iff] | split | intro _)

theorem State.prefetch_keeps {base : State} (s : State) (e : Ecc) (hk : Keeps base s) :
    Keeps base (State.prefetch s e) := by
  unfold State.prefetch
  try dsimp only
  repeat' (first
    | with_reducible assumption | with_reducible apply State.inc_keeps | with_reducible apply State.irq_keeps
    | with_reducible apply State.showTelem_keeps | with_reducible apply Keeps.ite | with_reducible apply Keeps.four
    | simp only [Keeps.mk_iff] | split | intro _)

theorem execTelemBankSwap_keeps {base : State} (s : State) (hk : Keeps base s) :
    ResKeeps base (execTelemBankSwap s) := by
  unfold execTelemBankSwap
  try dsimp only
  repeat' (first
    | with_reducible assumption | with_reducible apply State.begin_keeps
    | with_reducible apply State.swapBanks_keeps | with_reducible apply Keeps.ite
    | with_reducible apply ResKeeps.ite | with_reducible apply ResKeeps.next | simp only [Keeps.mk_iff] | split
    | intro _)

theorem execTelemPop_keeps {base : State} (m : Master) (e : Ecc) (s : State) (hk : Keeps base s) :
    ResKeeps base (execTelemPop m e s) := by
  unfold execTelemPop
  try dsimp only
  repeat' (first
    | with_reducible assumption | with_reducible apply State.begin_keeps | with_reducible apply State.prefetch_keeps
    | with_reducible apply State.emit_keeps | with_reducible apply State.popWord_keeps
    | with_reducible apply State.showTelem_keeps | with_reducible apply Keeps.ite
    | with_reducible apply ResKeeps.ite | with_reducible apply ResKeeps.next | with_reducible apply ResKeeps.fault
    | with_reducible apply ResKeeps.refused | with_reducible apply Keeps.four | simp only [Keeps.mk_iff] | split
    | intro _)

theorem execTelemRelease_keeps {base : State} (m : Master) (s : State) (hk : Keeps base s) :
    ResKeeps base (execTelemRelease m s) := by
  unfold execTelemRelease
  try dsimp only
  repeat' (first
    | with_reducible assumption | with_reducible apply State.begin_keeps | with_reducible apply State.asWrite_keeps
    | with_reducible apply State.releasePop_keeps | with_reducible apply ResKeeps.next | simp only [Keeps.mk_iff]
    | split | intro _)

theorem execTelemFlushRequest_keeps {base : State} (m : Master) (s : State) (hk : Keeps base s) :
    ResKeeps base (execTelemFlushRequest m s) := by
  unfold execTelemFlushRequest
  try dsimp only
  repeat' (first
    | with_reducible assumption | with_reducible apply State.begin_keeps | with_reducible apply State.asWrite_keeps
    | with_reducible apply State.setFlds_keeps | with_reducible apply ResKeeps.next | simp only [Keeps.mk_iff]
    | split | intro _)

theorem execTelemFlushDone_keeps {base : State} (s : State) (hk : Keeps base s) :
    ResKeeps base (execTelemFlushDone s) := by
  unfold execTelemFlushDone
  try dsimp only
  repeat' (first
    | with_reducible assumption | with_reducible apply State.begin_keeps | with_reducible apply State.add_keeps
    | with_reducible apply State.setFlds_keeps | with_reducible apply State.irq_keeps
    | with_reducible apply State.showTelem_keeps | with_reducible apply Keeps.ite
    | with_reducible apply ResKeeps.ite | with_reducible apply ResKeeps.next | with_reducible apply Keeps.four
    | simp only [Keeps.mk_iff] | split | intro _)

theorem State.telemWarm_keeps {base : State} (s : State) (hk : Keeps base s) :
    Keeps base (State.telemWarm s) := by
  unfold State.telemWarm
  try dsimp only
  repeat' (first
    | with_reducible assumption | with_reducible apply State.releasePop_keeps | with_reducible apply State.inc_keeps
    | with_reducible apply State.showTelem_keeps | with_reducible apply Keeps.ite | with_reducible apply Keeps.four
    | simp only [Keeps.mk_iff] | split | intro _)

end Sys2Proof.Machine
end

