-- ==== Sys2Proof/Laws/KeepsRail.lean ====
section
/-! SUPPORT. What the operations of Machine/Rail.lean keep (Laws/Keeps.lean). -/
set_option linter.all false
set_option Elab.async false

namespace Sys2Proof.Machine

theorem State.setRail_keeps {base : State} (s : State) (r : Nat) (x : RailS) (hk : Keeps base s) :
    Keeps base (State.setRail s r x) := by
  unfold State.setRail
  try dsimp only
  repeat' (first
    | with_reducible assumption | with_reducible apply Keeps.four | simp only [Keeps.mk_iff] | split | intro _)

theorem State.showRail_keeps {base : State} (s : State) (r : Nat) (hk : Keeps base s) :
    Keeps base (State.showRail s r) := by
  unfold State.showRail
  repeat' (first
    | with_reducible assumption | with_reducible apply State.setFlds_keeps | with_reducible apply State.setBit_keeps
    | simp only [Keeps.mk_iff] | split | intro _)

theorem State.showRails_keeps {base : State} (s : State) (hk : Keeps base s) :
    Keeps base (State.showRails s) := by
  unfold State.showRails
  repeat' (first
    | with_reducible assumption | with_reducible apply State.showRail_keeps | with_reducible apply Keeps.foldl
    | with_reducible apply Keeps.foldlFst | simp only [Keeps.mk_iff] | split | intro _)

theorem State.driveEn_keeps {base : State} (s : State) (r : Nat) (high : Bool) (hk : Keeps base s) :
    Keeps base (State.driveEn s r high) := by
  unfold State.driveEn
  try dsimp only
  repeat' (first
    | with_reducible assumption | with_reducible apply Keeps.ite | with_reducible apply Keeps.four
    | simp only [Keeps.mk_iff] | split | intro _)

theorem State.driveTrim_keeps {base : State} (s : State) (r : Nat) (on : Bool) (hk : Keeps base s) :
    Keeps base (State.driveTrim s r on) := by
  unfold State.driveTrim
  try dsimp only
  repeat' (first
    | with_reducible assumption | with_reducible apply Keeps.ite | with_reducible apply Keeps.four
    | simp only [Keeps.mk_iff] | split | intro _)

theorem State.releaseRails_keeps {base : State} (s : State) (hk : Keeps base s) :
    Keeps base (State.releaseRails s) := by
  unfold State.releaseRails
  try dsimp only
  repeat' (first
    | with_reducible assumption | with_reducible apply Keeps.four | simp only [Keeps.mk_iff] | split | intro _)

theorem State.fenceRail_keeps {base : State} (s : State) (r cause : Nat) (hk : Keeps base s) :
    Keeps base (State.fenceRail s r cause) := by
  unfold State.fenceRail
  try dsimp only
  repeat' (first
    | with_reducible assumption | with_reducible apply State.fence_keeps | with_reducible apply State.irq_keeps
    | with_reducible apply State.setRail_keeps | with_reducible apply State.showRail_keeps
    | with_reducible apply Keeps.ite | with_reducible apply Keeps.four | simp only [Keeps.mk_iff] | split | intro _)

theorem State.startRail_keeps {base : State} (s : State) (r : Nat) (hk : Keeps base s) :
    Keeps base (State.startRail s r) := by
  unfold State.startRail
  try dsimp only
  repeat' (first
    | with_reducible assumption | with_reducible apply State.setRail_keeps
    | with_reducible apply State.written_keeps | with_reducible apply State.setFlds_keeps
    | with_reducible apply State.setBit_keeps | with_reducible apply State.driveEn_keeps
    | with_reducible apply State.driveTrim_keeps | with_reducible apply State.showRail_keeps
    | with_reducible apply Keeps.ite | with_reducible apply Keeps.four | simp only [Keeps.mk_iff] | split | intro _)

theorem State.pmbRefused_keeps {base : State} (s : State) (r : Nat) (hk : Keeps base s) :
    Keeps base (State.pmbRefused s r) := by
  unfold State.pmbRefused
  try dsimp only
  repeat' (first
    | with_reducible assumption | with_reducible apply State.inc_keeps | with_reducible apply State.setRail_keeps
    | with_reducible apply State.fenceRail_keeps | with_reducible apply Keeps.ite | with_reducible apply Keeps.four
    | simp only [Keeps.mk_iff] | split | intro _)

theorem State.pmbOk_keeps {base : State} (s : State) (r : Nat) (hk : Keeps base s) :
    Keeps base (State.pmbOk s r) := by
  unfold State.pmbOk
  try dsimp only
  repeat' (first
    | with_reducible assumption | with_reducible apply State.setRail_keeps | with_reducible apply Keeps.four
    | simp only [Keeps.mk_iff] | split | intro _)

theorem State.startEnable_keeps {base : State} (s : State) (r : Nat) (voutMode : Option Nat) (ok : Bool) (hk : Keeps base s) :
    Keeps base (State.startEnable s r voutMode ok) := by
  unfold State.startEnable
  try dsimp only
  repeat' (first
    | with_reducible assumption | with_reducible apply State.driveEn_keeps
    | with_reducible apply State.setRail_keeps | with_reducible apply State.showRail_keeps
    | with_reducible apply State.pmbRefused_keeps | with_reducible apply State.pmbOk_keeps
    | with_reducible apply State.fenceRail_keeps | with_reducible apply State.written_keeps
    | with_reducible apply State.emit_keeps | with_reducible apply Keeps.ite | with_reducible apply Keeps.four
    | simp only [Keeps.mk_iff] | split | intro _)

theorem execRailStartEnable_keeps {base : State} (r : Nat) (voutMode : Option Nat) (ok : Bool) (s : State) (hk : Keeps base s) :
    ResKeeps base (execRailStartEnable r voutMode ok s) := by
  unfold execRailStartEnable
  repeat' (first
    | with_reducible assumption | with_reducible apply State.begin_keeps
    | with_reducible apply State.startEnable_keeps | with_reducible apply ResKeeps.next | simp only [Keeps.mk_iff]
    | split | intro _)

theorem State.railRuns_keeps {base : State} (s : State) (r : Nat) (hk : Keeps base s) :
    Keeps base (State.railRuns s r) := by
  unfold State.railRuns
  try dsimp only
  repeat' (first
    | with_reducible assumption | with_reducible apply State.setRail_keeps
    | with_reducible apply State.showRail_keeps | with_reducible apply Keeps.four | simp only [Keeps.mk_iff] | split
    | intro _)

theorem execRailStartTarget_keeps {base : State} (r : Nat) (s : State) (hk : Keeps base s) :
    ResKeeps base (execRailStartTarget r s) := by
  unfold execRailStartTarget
  try dsimp only
  repeat' (first
    | with_reducible assumption | with_reducible apply State.begin_keeps | with_reducible apply State.setRail_keeps
    | with_reducible apply State.setFld_keeps | with_reducible apply State.railRuns_keeps
    | with_reducible apply State.showRail_keeps | with_reducible apply Keeps.ite | with_reducible apply ResKeeps.ite
    | with_reducible apply ResKeeps.next | with_reducible apply Keeps.four | simp only [Keeps.mk_iff] | split
    | intro _)

theorem State.rampRail_keeps {base : State} (s : State) (r : Nat) (hk : Keeps base s) :
    Keeps base (State.rampRail s r) := by
  unfold State.rampRail
  try dsimp only
  repeat' (first
    | with_reducible assumption | with_reducible apply State.setRail_keeps | with_reducible apply State.setFld_keeps
    | with_reducible apply State.railRuns_keeps | with_reducible apply Keeps.ite | with_reducible apply Keeps.four
    | simp only [Keeps.mk_iff] | split | intro _)

theorem execRailRampTick_keeps {base : State} (s : State) (hk : Keeps base s) :
    ResKeeps base (execRailRampTick s) := by
  unfold execRailRampTick
  try dsimp only
  repeat' (first
    | with_reducible assumption | with_reducible apply State.begin_keeps | with_reducible apply State.rampRail_keeps
    | with_reducible apply Keeps.ite | with_reducible apply ResKeeps.ite | with_reducible apply ResKeeps.next
    | with_reducible apply Keeps.foldl | with_reducible apply Keeps.foldlFst | simp only [Keeps.mk_iff] | split
    | intro _)

theorem execPmbusVoutWrite_keeps {base : State} (r : Nat) (ok : Bool) (s : State) (hk : Keeps base s) :
    ResKeeps base (execPmbusVoutWrite r ok s) := by
  unfold execPmbusVoutWrite
  try dsimp only
  repeat' (first
    | with_reducible assumption | with_reducible apply State.begin_keeps | with_reducible apply State.written_keeps
    | with_reducible apply State.pmbOk_keeps | with_reducible apply State.setRail_keeps
    | with_reducible apply State.emit_keeps | with_reducible apply State.pmbRefused_keeps
    | with_reducible apply Keeps.ite | with_reducible apply ResKeeps.ite | with_reducible apply ResKeeps.next
    | with_reducible apply Keeps.four | simp only [Keeps.mk_iff] | split | intro _)

theorem State.countFigure_keeps {base : State} (s : State) (r h : Nat) (hk : Keeps base s) :
    Keeps base (State.countFigure s r h) := by
  unfold State.countFigure
  try dsimp only
  repeat' (first
    | with_reducible assumption | with_reducible apply State.setRail_keeps | with_reducible apply State.setFld_keeps
    | with_reducible apply State.inc_keeps | with_reducible apply State.irq_keeps | with_reducible apply Keeps.ite
    | with_reducible apply Keeps.four | simp only [Keeps.mk_iff] | split | intro _)

theorem State.countReport_keeps {base : State} (s : State) (strand status : Nat) (heads : List Nat) (hk : Keeps base s) :
    Keeps base (State.countReport s strand status heads) := by
  unfold State.countReport
  try dsimp only
  repeat' (first
    | with_reducible assumption | with_reducible apply State.inc_keeps
    | with_reducible apply State.countFigure_keeps | with_reducible apply Keeps.ite
    | with_reducible apply Keeps.foldl | with_reducible apply Keeps.foldlFst | simp only [Keeps.mk_iff] | split
    | intro _)

theorem State.loopPeriod_keeps {base : State} (s : State) (r : Nat) (e : Ecc) (hk : Keeps base s) :
    Keeps base (State.loopPeriod s r e) := by
  unfold State.loopPeriod
  try dsimp only
  repeat' (first
    | with_reducible assumption | with_reducible apply State.setFlds_keeps | with_reducible apply State.setBit_keeps
    | with_reducible apply State.irq_keeps | with_reducible apply State.telemItem_keeps
    | with_reducible apply State.setRail_keeps | with_reducible apply State.showRail_keeps
    | with_reducible apply Keeps.ite | with_reducible apply Keeps.four | simp only [Keeps.mk_iff] | split | intro _)

theorem execRailLoopPeriod_keeps {base : State} (r : Nat) (e : Ecc) (s : State) (hk : Keeps base s) :
    ResKeeps base (execRailLoopPeriod r e s) := by
  unfold execRailLoopPeriod
  try dsimp only
  repeat' (first
    | with_reducible assumption | with_reducible apply State.begin_keeps
    | with_reducible apply State.loopPeriod_keeps | with_reducible apply Keeps.ite
    | with_reducible apply ResKeeps.ite | with_reducible apply ResKeeps.next | simp only [Keeps.mk_iff] | split
    | intro _)

theorem State.readStatus_keeps {base : State} (s : State) (r : Nat) (v : Option Nat) (hk : Keeps base s) :
    Keeps base (s.readStatus r v) := by
  cases v with
  | none => exact State.pmbRefused_keeps s r hk
  | some w =>
    have h1 := State.setFld_keeps _ (R.RAIL_VOUT_STATUS_WORD r) w
      (State.setRail_keeps _ r { (s.pmbOk r).rail r with statusOk := true } (State.pmbOk_keeps s r hk))
    unfold State.readStatus
    dsimp only
    split
    · exact State.fenceRail_keeps _ _ _ h1
    · exact h1

theorem State.statusItem_keeps {base : State} (s : State) (r : Nat) (e : Ecc) (hk : Keeps base s) :
    Keeps base (State.statusItem s r e) := by
  unfold State.statusItem
  try dsimp only
  repeat' (first
    | with_reducible assumption | with_reducible apply State.telemItem_keeps
    | with_reducible apply State.written_keeps | simp only [Keeps.mk_iff] | split | intro _)

theorem State.noteStatus_keeps {base : State} (s : State) (r : Nat) (status : Option Nat) (due : Bool) (e : Ecc) (hk : Keeps base s) :
    Keeps base (State.noteStatus s r status due e) := by
  unfold State.noteStatus
  try dsimp only
  repeat' (first
    | with_reducible assumption | with_reducible apply State.setRail_keeps
    | with_reducible apply State.statusItem_keeps | with_reducible apply Keeps.ite | with_reducible apply Keeps.four
    | simp only [Keeps.mk_iff] | split | intro _)

theorem State.statusPoll_keeps {base : State} (s : State) (r : Nat) (status vout : Option Nat) (e : Ecc) (hk : Keeps base s) :
    Keeps base (State.statusPoll s r status vout e) := by
  unfold State.statusPoll
  try dsimp only
  repeat' (first
    | with_reducible assumption | with_reducible apply State.readStatus_keeps
    | with_reducible apply State.pmbRefused_keeps | with_reducible apply State.pmbOk_keeps
    | with_reducible apply State.setFld_keeps | with_reducible apply State.setRail_keeps
    | with_reducible apply State.noteStatus_keeps | with_reducible apply Keeps.four | simp only [Keeps.mk_iff]
    | split | intro _)

theorem execPmbusStatusPoll_keeps {base : State} (r : Nat) (status vout : Option Nat) (e : Ecc) (s : State) (hk : Keeps base s) :
    ResKeeps base (execPmbusStatusPoll r status vout e s) := by
  unfold execPmbusStatusPoll
  try dsimp only
  repeat' (first
    | with_reducible assumption | with_reducible apply State.begin_keeps
    | with_reducible apply State.statusPoll_keeps | with_reducible apply Keeps.ite
    | with_reducible apply ResKeeps.ite | with_reducible apply ResKeeps.next | simp only [Keeps.mk_iff] | split
    | intro _)

theorem execPmbAlert_keeps {base : State} (reads : AlertReads) (s : State) (hk : Keeps base s) :
    ResKeeps base (execPmbAlert reads s) := by
  unfold execPmbAlert
  try dsimp only
  repeat' (first
    | with_reducible assumption | with_reducible apply State.begin_keeps | with_reducible apply State.irq_keeps
    | with_reducible apply State.readStatus_keeps | with_reducible apply State.noteStatus_keeps
    | with_reducible apply Keeps.ite | with_reducible apply ResKeeps.ite | with_reducible apply ResKeeps.next
    | with_reducible apply Keeps.foldl | with_reducible apply Keeps.foldlFst | with_reducible apply Keeps.four
    | simp only [Keeps.mk_iff] | split | intro _)

theorem execPmbusFwBus_keeps {base : State} (m : Master) (v : Bool) (s : State) (hk : Keeps base s) :
    ResKeeps base (execPmbusFwBus m v s) := by
  unfold execPmbusFwBus
  try dsimp only
  repeat' (first
    | with_reducible assumption | with_reducible apply State.begin_keeps | with_reducible apply State.asWrite_keeps
    | with_reducible apply State.setFlag_keeps | with_reducible apply ResKeeps.next | simp only [Keeps.mk_iff]
    | split | intro _)

theorem execTrimFault_keeps {base : State} (r : Nat) (s : State) (hk : Keeps base s) :
    ResKeeps base (execTrimFault r s) := by
  unfold execTrimFault
  try dsimp only
  repeat' (first
    | with_reducible assumption | with_reducible apply State.begin_keeps
    | with_reducible apply State.fenceRail_keeps | with_reducible apply Keeps.ite
    | with_reducible apply ResKeeps.ite | with_reducible apply ResKeeps.next | simp only [Keeps.mk_iff] | split
    | intro _)

theorem execRailHoldExpiry_keeps {base : State} (r : Nat) (s : State) (hk : Keeps base s) :
    ResKeeps base (execRailHoldExpiry r s) := by
  unfold execRailHoldExpiry
  try dsimp only
  repeat' (first
    | with_reducible assumption | with_reducible apply State.begin_keeps | with_reducible apply State.setRail_keeps
    | with_reducible apply State.driveEn_keeps | with_reducible apply State.showRail_keeps
    | with_reducible apply State.setFld_keeps | with_reducible apply Keeps.ite | with_reducible apply ResKeeps.ite
    | with_reducible apply ResKeeps.next | with_reducible apply Keeps.four | simp only [Keeps.mk_iff] | split
    | intro _)

theorem State.railsReleased_keeps {base : State} (s : State) (hk : Keeps base s) :
    Keeps base (State.railsReleased s) := by
  unfold State.railsReleased
  try dsimp only
  repeat' (first
    | with_reducible assumption | with_reducible apply State.setRail_keeps
    | with_reducible apply State.showRails_keeps | with_reducible apply Keeps.ite | with_reducible apply Keeps.foldl
    | with_reducible apply Keeps.foldlFst | with_reducible apply Keeps.four | simp only [Keeps.mk_iff] | split
    | intro _)

theorem State.resumeRails_keeps {base : State} (s : State) (hk : Keeps base s) :
    Keeps base (State.resumeRails s) := by
  unfold State.resumeRails
  try dsimp only
  repeat' (first
    | with_reducible assumption | with_reducible apply State.setRail_keeps | with_reducible apply State.setFld_keeps
    | with_reducible apply State.railRuns_keeps | with_reducible apply State.startRail_keeps
    | with_reducible apply Keeps.ite | with_reducible apply Keeps.foldl | with_reducible apply Keeps.foldlFst
    | with_reducible apply Keeps.four | simp only [Keeps.mk_iff] | split | intro _)

theorem State.railsReturn_keeps {base : State} (s : State) (hk : Keeps base s) :
    Keeps base (State.railsReturn s) := by
  unfold State.railsReturn
  try dsimp only
  repeat' (first
    | with_reducible assumption | with_reducible apply Keeps.four | simp only [Keeps.mk_iff] | split | intro _)

theorem State.switchRail_keeps {base : State} (s before : State) (had : Bool) (r : Nat) (hk : Keeps base s) :
    Keeps base (State.switchRail s before had r) := by
  unfold State.switchRail
  try dsimp only
  repeat' (first
    | with_reducible assumption | with_reducible apply State.driveEn_keeps
    | with_reducible apply State.setRail_keeps | with_reducible apply State.showRail_keeps
    | with_reducible apply State.releaseFences_keeps | with_reducible apply State.startRail_keeps
    | with_reducible apply State.setFld_keeps | with_reducible apply Keeps.ite | with_reducible apply Keeps.four
    | simp only [Keeps.mk_iff] | split | intro _)

theorem execRailStopHoldEnd_keeps {base : State} (r : Nat) (restart : Bool) (s : State) (hk : Keeps base s) :
    ResKeeps base (execRailStopHoldEnd r restart s) := by
  unfold execRailStopHoldEnd
  try dsimp only
  repeat' (first
    | with_reducible assumption | with_reducible apply State.begin_keeps
    | with_reducible apply State.releaseFences_keeps | with_reducible apply State.startRail_keeps
    | with_reducible apply State.driveTrim_keeps | with_reducible apply State.setRail_keeps
    | with_reducible apply State.showRail_keeps | with_reducible apply Keeps.ite | with_reducible apply ResKeeps.ite
    | with_reducible apply ResKeeps.next | with_reducible apply Keeps.four | simp only [Keeps.mk_iff] | split
    | intro _)

theorem State.takeRails_keeps {base : State} (s : State) (hk : Keeps base s) :
    Keeps base (State.takeRails s) := by
  unfold State.takeRails
  try dsimp only
  repeat' (first
    | with_reducible assumption | with_reducible apply State.fresh_keeps
    | with_reducible apply State.driveTrim_keeps | with_reducible apply State.driveEn_keeps
    | with_reducible apply State.showRail_keeps | with_reducible apply State.startRail_keeps
    | with_reducible apply Keeps.ite | with_reducible apply Keeps.foldl | with_reducible apply Keeps.foldlFst
    | simp only [Keeps.mk_iff] | split | intro _)

theorem State.claimRails_keeps {base : State} (s : State) (hk : Keeps base s) :
    Keeps base (State.claimRails s) := by
  unfold State.claimRails
  repeat' (first
    | with_reducible assumption | with_reducible apply State.startRail_keeps | with_reducible apply Keeps.foldl
    | with_reducible apply Keeps.foldlFst | simp only [Keeps.mk_iff] | split | intro _)

theorem State.giveRails_keeps {base : State} (s : State) (hk : Keeps base s) :
    Keeps base (State.giveRails s) := by
  unfold State.giveRails
  try dsimp only
  repeat' (first
    | with_reducible assumption | with_reducible apply State.showRails_keeps | with_reducible apply Keeps.four
    | simp only [Keeps.mk_iff] | split | intro _)

theorem execHandoverEnableDrop_keeps {base : State} (s : State) (hk : Keeps base s) :
    ResKeeps base (execHandoverEnableDrop s) := by
  unfold execHandoverEnableDrop
  try dsimp only
  repeat' (first
    | with_reducible assumption | with_reducible apply State.begin_keeps
    | with_reducible apply State.releaseRails_keeps | with_reducible apply Keeps.ite
    | with_reducible apply ResKeeps.ite | with_reducible apply ResKeeps.next | with_reducible apply Keeps.four
    | simp only [Keeps.mk_iff] | split | intro _)

end Sys2Proof.Machine
end

