-- ==== Sys2Proof/Laws/KeepsMeter.lean ====
section
/-! SUPPORT. What the operations of Machine/Meter.lean keep (Laws/Keeps.lean). -/
set_option linter.all false
set_option Elab.async false

namespace Sys2Proof.Machine

theorem State.showAcc_keeps {base : State} (s : State) (a : Nat) (hk : Keeps base s) :
    Keeps base (State.showAcc s a) := by
  unfold State.showAcc
  try dsimp only
  repeat' (first
    | with_reducible assumption | with_reducible apply State.setFlds_keeps | simp only [Keeps.mk_iff] | split
    | intro _)

theorem State.addAcc_keeps {base : State} (s : State) (a w : Nat) (hk : Keeps base s) :
    Keeps base (State.addAcc s a w) := by
  unfold State.addAcc
  try dsimp only
  repeat' (first
    | with_reducible assumption | with_reducible apply State.showAcc_keeps | with_reducible apply Keeps.four
    | simp only [Keeps.mk_iff] | split | intro _)

theorem State.addSigned_keeps {base : State} (s : State) (imp exp : Nat) (w : Int) (hk : Keeps base s) :
    Keeps base (State.addSigned s imp exp w) := by
  unfold State.addSigned
  repeat' (first
    | with_reducible assumption | with_reducible apply State.addAcc_keeps | with_reducible apply Keeps.ite
    | simp only [Keeps.mk_iff] | split | intro _)

theorem State.addDisp_keeps {base : State} (s : State) (a w : Nat) (hk : Keeps base s) :
    Keeps base (State.addDisp s a w) := by
  unfold State.addDisp
  try dsimp only
  repeat' (first
    | with_reducible assumption | with_reducible apply State.showAcc_keeps | with_reducible apply Keeps.four
    | simp only [Keeps.mk_iff] | split | intro _)

theorem State.addDisps_keeps {base : State} (s : State) (w : Nat) (as : List Nat) (hk : Keeps base s) :
    Keeps base (State.addDisps s w as) := by
  unfold State.addDisps
  try dsimp only
  repeat' (first
    | with_reducible assumption | with_reducible apply State.addDisp_keeps | with_reducible apply Keeps.foldl
    | with_reducible apply Keeps.foldlFst | simp only [Keeps.mk_iff] | split | intro _)

theorem State.mramWrite_keeps {base : State} (s : State) (a : Nat) (bs : List Byte) (hk : Keeps base s) :
    Keeps base (State.mramWrite s a bs) := by
  unfold State.mramWrite
  try dsimp only
  repeat' (first
    | with_reducible assumption | with_reducible apply Keeps.four | with_reducible apply Keeps.fourMem
    | simp only [Keeps.mk_iff]
    | (refine fun (hm : Mems.wf _ = true) => ?_; simp only [Mems.wf_iff, State.drawn_mem] at hm ⊢; first | (simp only [hm, memWf_filter, memWf_memWrite, memWf_memClear, memWf_memPut, memWf_nil, and_self]; done) | (simp [hm]; done))
    | split | intro _)

theorem State.capture_keeps {base : State} (s : State) (reason : Nat) (hk : Keeps base s) :
    Keeps base (State.capture s reason) := by
  unfold State.capture
  try dsimp only
  repeat' (first
    | with_reducible assumption | with_reducible apply State.mramWrite_keeps
    | with_reducible apply State.setFld_keeps | with_reducible apply Keeps.ite | with_reducible apply Keeps.four
    | simp only [Keeps.mk_iff] | split | intro _)

theorem State.writePeak_keeps {base : State} (s : State) (e : Nat) (hk : Keeps base s) :
    Keeps base (State.writePeak s e) := by
  unfold State.writePeak
  try dsimp only
  repeat' (first
    | with_reducible assumption | with_reducible apply State.mramWrite_keeps | simp only [Keeps.mk_iff] | split
    | intro _)

theorem State.notePeak_keeps {base : State} (s : State) (e v i vMax iMax : Nat) (hk : Keeps base s) :
    Keeps base (State.notePeak s e v i vMax iMax) := by
  unfold State.notePeak
  try dsimp only
  repeat' (first
    | with_reducible assumption | with_reducible apply State.writePeak_keeps | with_reducible apply Keeps.ite
    | with_reducible apply Keeps.four | simp only [Keeps.mk_iff] | split | intro _)

theorem State.closeAc_keeps {base : State} (s : State) (hk : Keeps base s) :
    Keeps base (State.closeAc s) := by
  unfold State.closeAc
  try dsimp only
  repeat' (first
    | with_reducible assumption | with_reducible apply State.setFlds_keeps | with_reducible apply State.setFld_keeps
    | with_reducible apply State.addSigned_keeps | with_reducible apply State.addAcc_keeps
    | with_reducible apply State.addDisps_keeps | with_reducible apply State.settle_keeps
    | with_reducible apply State.inc_keeps | with_reducible apply State.irq_keeps | with_reducible apply Keeps.ite
    | with_reducible apply Keeps.foldl | with_reducible apply Keeps.foldlFst | with_reducible apply Keeps.four
    | simp only [Keeps.mk_iff] | split | intro _)

theorem State.closeDc_keeps {base : State} (s : State) (hk : Keeps base s) :
    Keeps base (State.closeDc s) := by
  unfold State.closeDc
  try dsimp only
  repeat' (first
    | with_reducible assumption | with_reducible apply State.setFlds_keeps
    | with_reducible apply State.addSigned_keeps | with_reducible apply State.addDisps_keeps
    | with_reducible apply State.setFld_keeps | with_reducible apply State.settle_keeps
    | with_reducible apply State.inc_keeps | with_reducible apply State.irq_keeps | with_reducible apply Keeps.ite
    | with_reducible apply Keeps.foldl | with_reducible apply Keeps.foldlFst | with_reducible apply Keeps.four
    | simp only [Keeps.mk_iff] | split | intro _)

theorem State.closeWindows_keeps {base : State} (s : State) (hk : Keeps base s) :
    Keeps base (State.closeWindows s) := by
  unfold State.closeWindows
  repeat' (first
    | with_reducible assumption | with_reducible apply State.closeDc_keeps
    | with_reducible apply State.closeAc_keeps | simp only [Keeps.mk_iff] | split | intro _)

theorem State.saveDue_keeps {base : State} (s : State) (reason : Nat) (hk : Keeps base s) :
    Keeps base (State.saveDue s reason) := by
  unfold State.saveDue
  try dsimp only
  repeat' (first
    | with_reducible assumption | with_reducible apply State.capture_keeps
    | with_reducible apply State.closeWindows_keeps | with_reducible apply Keeps.ite
    | with_reducible apply Keeps.four | simp only [Keeps.mk_iff] | split | intro _)

theorem State.meterStops_keeps {base : State} (s : State) (hk : Keeps base s) :
    Keeps base (State.meterStops s) := by
  unfold State.meterStops
  try dsimp only
  repeat' (first
    | with_reducible assumption | with_reducible apply State.saveDue_keeps | with_reducible apply Keeps.ite
    | with_reducible apply Keeps.four | simp only [Keeps.mk_iff] | split | intro _)

theorem State.closeWithSave_keeps {base : State} (s : State) (hk : Keeps base s) :
    Keeps base (State.closeWithSave s) := by
  unfold State.closeWithSave
  try dsimp only
  repeat' (first
    | with_reducible assumption | with_reducible apply State.closeWindows_keeps
    | with_reducible apply State.saveDue_keeps | with_reducible apply Keeps.ite | simp only [Keeps.mk_iff] | split
    | intro _)

theorem execMeterWindowClose_keeps {base : State} (s : State) (hk : Keeps base s) :
    ResKeeps base (execMeterWindowClose s) := by
  unfold execMeterWindowClose
  try dsimp only
  repeat' (first
    | with_reducible assumption | with_reducible apply State.begin_keeps
    | with_reducible apply State.meterStops_keeps | with_reducible apply State.closeWithSave_keeps
    | with_reducible apply Keeps.ite | with_reducible apply ResKeeps.ite | with_reducible apply ResKeeps.next
    | simp only [Keeps.mk_iff] | split | intro _)

theorem State.saveDone_keeps {base : State} (s : State) (ok : Bool) (hk : Keeps base s) :
    Keeps base (State.saveDone s ok) := by
  unfold State.saveDone
  try dsimp only
  repeat' (first
    | with_reducible assumption | with_reducible apply State.setFld_keeps
    | with_reducible apply State.mramWrite_keeps | with_reducible apply State.record_keeps
    | with_reducible apply State.inc_keeps | with_reducible apply State.irq_keeps
    | with_reducible apply State.writePeak_keeps | with_reducible apply State.event_keeps
    | with_reducible apply State.capture_keeps | with_reducible apply State.closeWindows_keeps
    | with_reducible apply Keeps.ite | with_reducible apply Keeps.foldl | with_reducible apply Keeps.foldlFst
    | with_reducible apply Keeps.four | simp only [Keeps.mk_iff] | split | intro _)

theorem State.abandonSave_keeps {base : State} (s : State) (hk : Keeps base s) :
    Keeps base (State.abandonSave s) := by
  unfold State.abandonSave
  try dsimp only
  repeat' (first
    | with_reducible assumption | with_reducible apply State.setFld_keeps | with_reducible apply Keeps.four
    | simp only [Keeps.mk_iff] | split | intro _)

theorem State.pfSave_keeps {base : State} (s : State) (hk : Keeps base s) :
    Keeps base (State.pfSave s) := by
  unfold State.pfSave
  try dsimp only
  repeat' (first
    | with_reducible assumption | with_reducible apply State.capture_keeps
    | with_reducible apply State.closeWindows_keeps | with_reducible apply Keeps.ite
    | with_reducible apply Keeps.four | simp only [Keeps.mk_iff] | split | intro _)

theorem execMeterPfRepeatEnd_keeps {base : State} (s : State) (hk : Keeps base s) :
    ResKeeps base (execMeterPfRepeatEnd s) := by
  unfold execMeterPfRepeatEnd
  try dsimp only
  repeat' (first
    | with_reducible assumption | with_reducible apply State.begin_keeps | with_reducible apply ResKeeps.next
    | with_reducible apply Keeps.four | simp only [Keeps.mk_iff] | split | intro _)

theorem State.acSample_keeps {base : State} (s : State) (codes : List Int) (hk : Keeps base s) :
    Keeps base (State.acSample s codes) := by
  unfold State.acSample
  try dsimp only
  repeat' (first
    | with_reducible assumption | with_reducible apply State.notePeak_keeps | with_reducible apply State.add_keeps
    | with_reducible apply State.irq_keeps | with_reducible apply Keeps.ite | with_reducible apply Keeps.foldl
    | with_reducible apply Keeps.foldlFst | with_reducible apply Keeps.four | simp only [Keeps.mk_iff] | split
    | intro _)

theorem State.rollWindow_keeps {base : State} (s : State) (full : Bool) (hk : Keeps base s) :
    Keeps base (State.rollWindow s full) := by
  unfold State.rollWindow
  repeat' (first
    | with_reducible assumption | with_reducible apply State.closeWithSave_keeps | with_reducible apply Keeps.ite
    | simp only [Keeps.mk_iff] | split | intro _)

theorem execMeterAcSample_keeps {base : State} (codes : List Int) (s : State) (hk : Keeps base s) :
    ResKeeps base (execMeterAcSample codes s) := by
  unfold execMeterAcSample
  try dsimp only
  repeat' (first
    | with_reducible assumption | with_reducible apply State.begin_keeps
    | with_reducible apply State.meterStops_keeps | with_reducible apply State.rollWindow_keeps
    | with_reducible apply State.acSample_keeps | with_reducible apply Keeps.ite | with_reducible apply ResKeeps.ite
    | with_reducible apply ResKeeps.next | simp only [Keeps.mk_iff] | split | intro _)

theorem State.overCheck_keeps {base : State} (s : State) (k mv : Nat) (hk : Keeps base s) :
    Keeps base (State.overCheck s k mv) := by
  unfold State.overCheck
  try dsimp only
  repeat' (first
    | with_reducible assumption | with_reducible apply State.fenceRail_keeps | with_reducible apply Keeps.ite
    | with_reducible apply Keeps.four | simp only [Keeps.mk_iff] | split | intro _)

theorem State.dcSample_keeps {base : State} (s : State) (shunts : List Int) (rails : List Nat) (hk : Keeps base s) :
    Keeps base (State.dcSample s shunts rails) := by
  unfold State.dcSample
  try dsimp only
  repeat' (first
    | with_reducible assumption | with_reducible apply State.notePeak_keeps
    | with_reducible apply State.overCheck_keeps | with_reducible apply State.add_keeps
    | with_reducible apply State.irq_keeps | with_reducible apply Keeps.ite | with_reducible apply Keeps.foldl
    | with_reducible apply Keeps.foldlFst | with_reducible apply Keeps.four | simp only [Keeps.mk_iff] | split
    | intro _)

theorem execMeterDcSample_keeps {base : State} (shunts : List Int) (rails : List Nat) (s : State) (hk : Keeps base s) :
    ResKeeps base (execMeterDcSample shunts rails s) := by
  unfold execMeterDcSample
  try dsimp only
  repeat' (first
    | with_reducible assumption | with_reducible apply State.begin_keeps
    | with_reducible apply State.meterStops_keeps | with_reducible apply State.rollWindow_keeps
    | with_reducible apply State.dcSample_keeps | with_reducible apply Keeps.ite | with_reducible apply ResKeeps.ite
    | with_reducible apply ResKeeps.next | simp only [Keeps.mk_iff] | split | intro _)

theorem State.addBounds_keeps {base : State} (s : State) (seq tn td : Nat) (hk : Keeps base s) :
    Keeps base (State.addBounds s seq tn td) := by
  unfold State.addBounds
  try dsimp only
  repeat' (first
    | with_reducible assumption | with_reducible apply State.addDisps_keeps | with_reducible apply Keeps.foldl
    | with_reducible apply Keeps.foldlFst | with_reducible apply Keeps.four | simp only [Keeps.mk_iff] | split
    | intro _)

theorem State.settleAc_keeps {base : State} (s : State) (chs : List Nat) (hk : Keeps base s) :
    Keeps base (State.settleAc s chs) := by
  unfold State.settleAc
  try dsimp only
  repeat' (first
    | with_reducible assumption | with_reducible apply State.setFld_keeps | with_reducible apply Keeps.ite
    | with_reducible apply Keeps.foldl | with_reducible apply Keeps.foldlFst | with_reducible apply Keeps.four
    | simp only [Keeps.mk_iff] | split | intro _)

theorem State.settleDc_keeps {base : State} (s : State) (ks : List Nat) (hk : Keeps base s) :
    Keeps base (State.settleDc s ks) := by
  unfold State.settleDc
  try dsimp only
  repeat' (first
    | with_reducible assumption | with_reducible apply State.setFld_keeps | with_reducible apply Keeps.ite
    | with_reducible apply Keeps.foldl | with_reducible apply Keeps.foldlFst | with_reducible apply Keeps.four
    | simp only [Keeps.mk_iff] | split | intro _)

theorem State.restartEmpty_keeps {base : State} (s : State) (hk : Keeps base s) :
    Keeps base (State.restartEmpty s) := by
  unfold State.restartEmpty
  try dsimp only
  repeat' (first
    | with_reducible assumption | with_reducible apply State.showAcc_keeps
    | with_reducible apply State.setFlds_keeps | with_reducible apply State.recordOpen_keeps
    | with_reducible apply Keeps.foldl | with_reducible apply Keeps.foldlFst | with_reducible apply Keeps.four
    | with_reducible apply Keeps.fourRegs | simp only [Keeps.mk_iff]
    | (refine fun (hr : mapWf regReset _ = true) => ?_; first | exact mapWf_mapPut _ _ _ _ hr | exact mapWf_filter _ _ _ hr)
    | split | intro _)

theorem State.loadSave_keeps {base : State} (s : State) (k : Nat) (r : List Byte) (hk : Keeps base s) :
    Keeps base (State.loadSave s k r) := by
  unfold State.loadSave
  try dsimp only
  repeat' (first
    | with_reducible assumption | with_reducible apply State.loadRange_keeps'
    | with_reducible apply State.showAcc_keeps | with_reducible apply State.setFlds_keeps
    | with_reducible apply Keeps.foldl | with_reducible apply Keeps.foldlFst | with_reducible apply Keeps.four
    | simp only [Keeps.mk_iff] | split | intro _)

theorem State.boundRestart_keeps {base : State} (s : State) (r : List Byte) (hk : Keeps base s) :
    Keeps base (State.boundRestart s r) := by
  unfold State.boundRestart
  try dsimp only
  repeat' (first
    | with_reducible assumption | with_reducible apply State.addBounds_keeps
    | with_reducible apply State.setFld_keeps | with_reducible apply State.event_keeps
    | with_reducible apply State.recordOpen_keeps | with_reducible apply Keeps.ite | simp only [Keeps.mk_iff]
    | split | intro _)

theorem State.settleFor_keeps {base : State} (s before : State) (whole : Bool) (hk : Keeps base s) :
    Keeps base (State.settleFor s before whole) := by
  unfold State.settleFor
  try dsimp only
  repeat' (first
    | with_reducible assumption | with_reducible apply State.settleAc_keeps
    | with_reducible apply State.settleDc_keeps | with_reducible apply Keeps.four | simp only [Keeps.mk_iff] | split
    | intro _)

theorem State.meterRestart_keeps {base : State} (s : State) (whole : Bool) (hk : Keeps base s) :
    Keeps base (State.meterRestart s whole) := by
  unfold State.meterRestart
  try dsimp only
  repeat' (first
    | with_reducible assumption | with_reducible apply State.restartEmpty_keeps
    | with_reducible apply State.loadSave_keeps | with_reducible apply State.boundRestart_keeps
    | with_reducible apply State.settleFor_keeps | with_reducible apply State.capture_keeps
    | with_reducible apply Keeps.four | simp only [Keeps.mk_iff] | split | intro _)

theorem State.stmtRequest_keeps {base : State} (s : State) (hk : Keeps base s) :
    Keeps base (State.stmtRequest s) := by
  unfold State.stmtRequest
  try dsimp only
  repeat' (first
    | with_reducible assumption | with_reducible apply State.setFlds_keeps
    | with_reducible apply State.closeWithSave_keeps | with_reducible apply Keeps.ite
    | with_reducible apply Keeps.four | simp only [Keeps.mk_iff] | split | intro _)

theorem execMeterStmtRequest_keeps {base : State} (m : Master) (s : State) (hk : Keeps base s) :
    ResKeeps base (execMeterStmtRequest m s) := by
  unfold execMeterStmtRequest
  try dsimp only
  repeat' (first
    | with_reducible assumption | with_reducible apply State.begin_keeps | with_reducible apply State.asWrite_keeps
    | with_reducible apply State.stmtRequest_keeps | with_reducible apply ResKeeps.next | simp only [Keeps.mk_iff]
    | split | intro _)

theorem execMeterStmtReady_keeps {base : State} (s : State) (hk : Keeps base s) :
    ResKeeps base (execMeterStmtReady s) := by
  unfold execMeterStmtReady
  try dsimp only
  repeat' (first
    | with_reducible assumption | with_reducible apply State.begin_keeps
    | with_reducible apply State.loadRange_keeps' | with_reducible apply State.inc_keeps
    | with_reducible apply State.setFlds_keeps | with_reducible apply State.irq_keeps
    | with_reducible apply ResKeeps.next | with_reducible apply Keeps.four | simp only [Keeps.mk_iff] | split
    | intro _)

theorem execMeterDispClear_keeps {base : State} (m : Master) (v : Word) (s : State) (hk : Keeps base s) :
    ResKeeps base (execMeterDispClear m v s) := by
  unfold execMeterDispClear
  try dsimp only
  repeat' (first
    | with_reducible assumption | with_reducible apply State.begin_keeps | with_reducible apply State.asArmed_keeps
    | with_reducible apply State.showAcc_keeps | with_reducible apply State.setFlds_keeps
    | with_reducible apply State.recordOpen_keeps | with_reducible apply Keeps.ite
    | with_reducible apply ResKeeps.ite | with_reducible apply ResKeeps.next | with_reducible apply Keeps.foldl
    | with_reducible apply Keeps.foldlFst | with_reducible apply Keeps.four | simp only [Keeps.mk_iff] | split
    | intro _)

theorem State.fenceMeter_keeps {base : State} (s : State) (page cause ch : Nat) (hk : Keeps base s) :
    Keeps base (State.fenceMeter s page cause ch) := by
  unfold State.fenceMeter
  try dsimp only
  repeat' (first
    | with_reducible assumption | with_reducible apply State.fence_keeps | with_reducible apply State.irq_keeps
    | with_reducible apply State.setBit_keeps | with_reducible apply Keeps.ite | with_reducible apply Keeps.four
    | simp only [Keeps.mk_iff] | split | intro _)

theorem State.restoreGroup_keeps {base : State} (s : State) (a : Nat) (hk : Keeps base s) :
    Keeps base (State.restoreGroup s a) := by
  unfold State.restoreGroup
  try dsimp only
  repeat' (first
    | with_reducible assumption | with_reducible apply State.addDisps_keeps
    | with_reducible apply State.setFld_keeps | with_reducible apply Keeps.ite | with_reducible apply Keeps.foldl
    | with_reducible apply Keeps.foldlFst | with_reducible apply Keeps.four | simp only [Keeps.mk_iff] | split
    | intro _)

theorem execMeterChannelFault_keeps {base : State} (page : Nat) (f : MeterFault) (s : State) (hk : Keeps base s) :
    ResKeeps base (execMeterChannelFault page f s) := by
  unfold execMeterChannelFault
  try dsimp only
  repeat' (first
    | with_reducible assumption | with_reducible apply State.begin_keeps
    | with_reducible apply State.fenceBlock_keeps | with_reducible apply State.restoreGroup_keeps
    | with_reducible apply State.fenceMeter_keeps | with_reducible apply Keeps.ite
    | with_reducible apply ResKeeps.ite | with_reducible apply ResKeeps.next | with_reducible apply Keeps.foldl
    | with_reducible apply Keeps.foldlFst | with_reducible apply Keeps.four | simp only [Keeps.mk_iff] | split
    | intro _)

theorem State.meterBoundary_keeps {base : State} (s : State) (hk : Keeps base s) :
    Keeps base (State.meterBoundary s) := by
  unfold State.meterBoundary
  try dsimp only
  repeat' (first
    | with_reducible assumption | with_reducible apply State.setBit_keeps
    | with_reducible apply State.settleAc_keeps | with_reducible apply State.settleDc_keeps
    | with_reducible apply Keeps.ite | with_reducible apply Keeps.foldl | with_reducible apply Keeps.foldlFst
    | simp only [Keeps.mk_iff] | split | intro _)

theorem State.meterSwitch_keeps {base : State} (s before : State) (hk : Keeps base s) :
    Keeps base (State.meterSwitch s before) := by
  unfold State.meterSwitch
  repeat' (first
    | with_reducible assumption | with_reducible apply State.settleFor_keeps
    | with_reducible apply State.saveDue_keeps | with_reducible apply Keeps.ite | simp only [Keeps.mk_iff] | split
    | intro _)

theorem State.meterFrontReset_keeps {base : State} (s : State) (page : Nat) (hk : Keeps base s) :
    Keeps base (State.meterFrontReset s page) := by
  unfold State.meterFrontReset
  try dsimp only
  repeat' (first
    | with_reducible assumption | with_reducible apply State.settleAc_keeps
    | with_reducible apply State.settleDc_keeps | with_reducible apply Keeps.ite | with_reducible apply Keeps.four
    | simp only [Keeps.mk_iff] | split | intro _)

theorem State.meterSnapshot_keeps {base : State} (s : State) (hk : Keeps base s) :
    Keeps base (State.meterSnapshot s) := by
  unfold State.meterSnapshot
  try dsimp only
  repeat' (first
    | with_reducible assumption | with_reducible apply State.setFlds_keeps | with_reducible apply Keeps.ite
    | with_reducible apply Keeps.foldl | with_reducible apply Keeps.foldlFst | with_reducible apply Keeps.four
    | simp only [Keeps.mk_iff] | split | intro _)

end Sys2Proof.Machine
end

