-- ==== Sys2Proof/Laws/KeepsCairn.lean ====
section
/-! SUPPORT. What the operations of Machine/Cairn.lean keep (Laws/Keeps.lean). -/
set_option linter.all false
set_option Elab.async false

namespace Sys2Proof.Machine

theorem State.putStage_keeps {base : State} (s : State) (j : Nat) (r : List Byte) (hk : Keeps base s) :
    Keeps base (State.putStage s j r) := by
  unfold State.putStage
  try dsimp only
  repeat' (first
    | with_reducible assumption | with_reducible apply Keeps.four | with_reducible apply Keeps.fourMem
    | simp only [Keeps.mk_iff]
    | (refine fun (hm : Mems.wf _ = true) => ?_; simp only [Mems.wf_iff, State.drawn_mem] at hm ⊢; first | (simp only [hm, memWf_filter, memWf_memWrite, memWf_memClear, memWf_memPut, memWf_nil, and_self]; done) | (simp [hm]; done))
    | split | intro _)

theorem State.freeStage_keeps {base : State} (s : State) (j : Nat) (hk : Keeps base s) :
    Keeps base (State.freeStage s j) := by
  unfold State.freeStage
  try dsimp only
  repeat' (first
    | with_reducible assumption | with_reducible apply Keeps.four | with_reducible apply Keeps.fourMem
    | simp only [Keeps.mk_iff]
    | (refine fun (hm : Mems.wf _ = true) => ?_; simp only [Mems.wf_iff, State.drawn_mem] at hm ⊢; first | (simp only [hm, memWf_filter, memWf_memWrite, memWf_memClear, memWf_memPut, memWf_nil, and_self]; done) | (simp [hm]; done))
    | split | intro _)

theorem State.closeCondition_keeps {base : State} (s : State) (time : Nat) (forced : Bool) (j : Nat) (hk : Keeps base s) :
    Keeps base (State.closeCondition s time forced j) := by
  unfold State.closeCondition
  try dsimp only
  repeat' (first
    | with_reducible assumption | with_reducible apply State.putStage_keeps | simp only [Keeps.mk_iff] | split
    | intro _)

theorem State.closeConditions_keeps {base : State} (s : State) (time : Nat) (forced : Bool) (hk : Keeps base s) :
    Keeps base (State.closeConditions s time forced) := by
  unfold State.closeConditions
  try dsimp only
  repeat' (first
    | with_reducible assumption | with_reducible apply State.closeCondition_keeps | with_reducible apply Keeps.foldl
    | with_reducible apply Keeps.foldlFst | simp only [Keeps.mk_iff] | split | intro _)

theorem State.flush_keeps {base : State} (s : State) (hk : Keeps base s) :
    Keeps base (State.flush s) := by
  unfold State.flush
  try dsimp only
  repeat' (first
    | with_reducible assumption | with_reducible apply Keeps.four | simp only [Keeps.mk_iff] | split | intro _)

theorem State.urgentFlush_keeps {base : State} (s : State) (hk : Keeps base s) :
    Keeps base (State.urgentFlush s) := by
  unfold State.urgentFlush
  repeat' (first
    | with_reducible assumption | with_reducible apply State.closeConditions_keeps
    | with_reducible apply State.flush_keeps | simp only [Keeps.mk_iff] | split | intro _)

theorem State.noteKey_keeps {base : State} (s : State) (k : CairnKey) (i : Nat) (hk : Keeps base s) :
    Keeps base (State.noteKey s k i) := by
  unfold State.noteKey
  try dsimp only
  repeat' (first
    | with_reducible assumption | with_reducible apply Keeps.four | simp only [Keeps.mk_iff] | split | intro _)

theorem State.absorbRepeat_keeps {base : State} (s : State) (j i : Nat) (c : List Byte) (hk : Keeps base s) :
    Keeps base (State.absorbRepeat s j i c) := by
  unfold State.absorbRepeat
  try dsimp only
  repeat' (first
    | with_reducible assumption | with_reducible apply State.mramWrite_keeps
    | with_reducible apply State.freeStage_keeps | with_reducible apply State.inc_keeps | simp only [Keeps.mk_iff]
    | split | intro _)

theorem State.writeRing_keeps {base : State} (s : State) (j : Nat) (c : List Byte) (hk : Keeps base s) :
    Keeps base (State.writeRing s j c) := by
  unfold State.writeRing
  try dsimp only
  repeat' (first
    | with_reducible assumption | with_reducible apply State.mramWrite_keeps
    | with_reducible apply State.freeStage_keeps | with_reducible apply State.setFlds_keeps
    | with_reducible apply State.inc_keeps | with_reducible apply State.noteKey_keeps
    | with_reducible apply State.setFld_keeps | with_reducible apply Keeps.ite | with_reducible apply Keeps.four
    | simp only [Keeps.mk_iff] | split | intro _)

theorem State.writeSlot_keeps {base : State} (s : State) (j : Nat) (hk : Keeps base s) :
    Keeps base (State.writeSlot s j) := by
  unfold State.writeSlot
  try dsimp only
  repeat' (first
    | with_reducible assumption | with_reducible apply State.absorbRepeat_keeps
    | with_reducible apply State.writeRing_keeps | with_reducible apply Keeps.four | simp only [Keeps.mk_iff]
    | split | intro _)

theorem State.writeFails_keeps {base : State} (s : State) (j : Nat) (hk : Keeps base s) :
    Keeps base (State.writeFails s j) := by
  unfold State.writeFails
  try dsimp only
  repeat' (first
    | with_reducible assumption | with_reducible apply State.mramWrite_keeps
    | with_reducible apply State.drawn_keeps | with_reducible apply State.fenceBlock_keeps
    | with_reducible apply Keeps.ite | with_reducible apply Keeps.four | simp only [Keeps.mk_iff] | split | intro _)

theorem State.stageAt_keeps {base : State} (s : State) (j : Nat) (r : List Byte) (hk : Keeps base s) :
    Keeps base (State.stageAt s j r) := by
  unfold State.stageAt
  try dsimp only
  repeat' (first
    | with_reducible assumption | with_reducible apply State.putStage_keeps | with_reducible apply Keeps.four
    | simp only [Keeps.mk_iff] | split | intro _)

theorem State.form_keeps {base : State} (s : State) (kind flags id time : Nat) (body : List Byte) (hk : Keeps base s) :
    Keeps base (State.form s kind flags id time body) := by
  unfold State.form
  try dsimp only
  repeat' (first
    | with_reducible assumption | with_reducible apply State.stageAt_keeps
    | with_reducible apply State.urgentFlush_keeps | with_reducible apply State.writeSlot_keeps
    | with_reducible apply State.cairnLoss_keeps | with_reducible apply Keeps.ite | simp only [Keeps.mk_iff] | split
    | intro _)

theorem State.intervalEnd_keeps {base : State} (s : State) (time : Nat) (part : Bool) (hk : Keeps base s) :
    Keeps base (State.intervalEnd s time part) := by
  unfold State.intervalEnd
  try dsimp only
  repeat' (first
    | with_reducible assumption | with_reducible apply State.form_keeps | with_reducible apply State.fresh_keeps
    | with_reducible apply State.closeConditions_keeps | with_reducible apply State.flush_keeps
    | with_reducible apply State.irq_keeps | with_reducible apply Keeps.ite | with_reducible apply Keeps.foldl
    | with_reducible apply Keeps.foldlFst | with_reducible apply Keeps.four | simp only [Keeps.mk_iff] | split
    | intro _)

theorem execCairnIntervalEnd_keeps {base : State} (s : State) (hk : Keeps base s) :
    ResKeeps base (execCairnIntervalEnd s) := by
  unfold execCairnIntervalEnd
  try dsimp only
  repeat' (first
    | with_reducible assumption | with_reducible apply State.begin_keeps
    | with_reducible apply State.intervalEnd_keeps | with_reducible apply Keeps.ite
    | with_reducible apply ResKeeps.ite | with_reducible apply ResKeeps.next | simp only [Keeps.mk_iff] | split
    | intro _)

theorem State.cairnOld_keeps {base : State} (s : State) (old : Nat) (step : Bool) (hk : Keeps base s) :
    Keeps base (State.cairnOld s old step) := by
  unfold State.cairnOld
  try dsimp only
  repeat' (first
    | with_reducible assumption | with_reducible apply State.intervalEnd_keeps
    | with_reducible apply State.urgentFlush_keeps | with_reducible apply Keeps.ite | simp only [Keeps.mk_iff]
    | split | intro _)

theorem State.cairnStep_keeps {base : State} (s : State) (old new cause : Nat) (hk : Keeps base s) :
    Keeps base (State.cairnStep s old new cause) := by
  unfold State.cairnStep
  repeat' (first
    | with_reducible assumption | with_reducible apply State.form_keeps | with_reducible apply Keeps.ite
    | simp only [Keeps.mk_iff] | split | intro _)

theorem State.absorb_keeps {base : State} (s : State) (j : Nat) (o : Occurrence) (hk : Keeps base s) :
    Keeps base (State.absorb s j o) := by
  unfold State.absorb
  try dsimp only
  repeat' (first
    | with_reducible assumption | with_reducible apply State.putStage_keeps | simp only [Keeps.mk_iff] | split
    | intro _)

theorem State.takeOccurrence_keeps {base : State} (s : State) (hk : Keeps base s) :
    Keeps base (State.takeOccurrence s) := by
  unfold State.takeOccurrence
  try dsimp only
  repeat' (first
    | with_reducible assumption | with_reducible apply State.absorb_keeps | with_reducible apply State.form_keeps
    | with_reducible apply State.urgentFlush_keeps | with_reducible apply Keeps.ite
    | with_reducible apply Keeps.four | simp only [Keeps.mk_iff] | split | intro _)

theorem execCairnOccurrence_keeps {base : State} (s : State) (hk : Keeps base s) :
    ResKeeps base (execCairnOccurrence s) := by
  unfold execCairnOccurrence
  try dsimp only
  repeat' (first
    | with_reducible assumption | with_reducible apply State.begin_keeps
    | with_reducible apply State.takeOccurrence_keeps | with_reducible apply Keeps.ite
    | with_reducible apply ResKeeps.ite | with_reducible apply ResKeeps.next | simp only [Keeps.mk_iff] | split
    | intro _)

theorem execCairnRaise_keeps {base : State} (m : Master) (value : Word) (s : State) (hk : Keeps base s) :
    ResKeeps base (execCairnRaise m value s) := by
  unfold execCairnRaise
  try dsimp only
  repeat' (first
    | with_reducible assumption | with_reducible apply State.begin_keeps | with_reducible apply State.asWrite_keeps
    | with_reducible apply State.setFld_keeps | with_reducible apply State.occur_keeps
    | with_reducible apply Keeps.ite | with_reducible apply ResKeeps.ite | with_reducible apply ResKeeps.next
    | simp only [Keeps.mk_iff] | split | intro _)

theorem execCairnRecordWrite_keeps {base : State} (ok : Bool) (s : State) (hk : Keeps base s) :
    ResKeeps base (execCairnRecordWrite ok s) := by
  unfold execCairnRecordWrite
  try dsimp only
  repeat' (first
    | with_reducible assumption | with_reducible apply State.begin_keeps
    | with_reducible apply State.writeSlot_keeps | with_reducible apply State.writeFails_keeps
    | with_reducible apply Keeps.ite | with_reducible apply ResKeeps.ite | with_reducible apply ResKeeps.next
    | simp only [Keeps.mk_iff] | split | intro _)

theorem execCairnFlushDone_keeps {base : State} (s : State) (hk : Keeps base s) :
    ResKeeps base (execCairnFlushDone s) := by
  unfold execCairnFlushDone
  try dsimp only
  repeat' (first
    | with_reducible assumption | with_reducible apply State.begin_keeps | with_reducible apply State.setFld_keeps
    | with_reducible apply State.irq_keeps | with_reducible apply State.pfSave_keeps
    | with_reducible apply Keeps.ite | with_reducible apply ResKeeps.ite | with_reducible apply ResKeeps.next
    | with_reducible apply Keeps.four | simp only [Keeps.mk_iff] | split | intro _)

theorem State.unfreeze_keeps {base : State} (s : State) (hk : Keeps base s) :
    Keeps base (State.unfreeze s) := by
  unfold State.unfreeze
  repeat' (first
    | with_reducible assumption | with_reducible apply State.setFld_keeps | with_reducible apply State.flush_keeps
    | with_reducible apply Keeps.ite | simp only [Keeps.mk_iff] | split | intro _)

theorem State.cairnCtrl_keeps {base : State} (s : State) (value : Word) (hk : Keeps base s) :
    Keeps base (State.cairnCtrl s value) := by
  unfold State.cairnCtrl
  try dsimp only
  repeat' (first
    | with_reducible assumption | with_reducible apply State.setFlag_keeps | with_reducible apply State.setFld_keeps
    | with_reducible apply State.unfreeze_keeps | with_reducible apply State.urgentFlush_keeps
    | with_reducible apply Keeps.ite | simp only [Keeps.mk_iff] | split | intro _)

theorem execCairnFlushRequest_keeps {base : State} (m : Master) (value : Word) (s : State) (hk : Keeps base s) :
    ResKeeps base (execCairnFlushRequest m value s) := by
  unfold execCairnFlushRequest
  try dsimp only
  repeat' (first
    | with_reducible assumption | with_reducible apply State.begin_keeps | with_reducible apply State.asWrite_keeps
    | with_reducible apply State.cairnCtrl_keeps | with_reducible apply ResKeeps.next | simp only [Keeps.mk_iff]
    | split | intro _)

theorem execCairnFreeze_keeps {base : State} (m : Master) (value : Word) (s : State) (hk : Keeps base s) :
    ResKeeps base (execCairnFreeze m value s) := by
  unfold execCairnFreeze
  try dsimp only
  repeat' (first
    | with_reducible assumption | with_reducible apply State.begin_keeps | with_reducible apply State.asWrite_keeps
    | with_reducible apply State.cairnCtrl_keeps | with_reducible apply ResKeeps.next | simp only [Keeps.mk_iff]
    | split | intro _)

theorem execCairnThaw_keeps {base : State} (s : State) (hk : Keeps base s) :
    ResKeeps base (execCairnThaw s) := by
  unfold execCairnThaw
  try dsimp only
  repeat' (first
    | with_reducible assumption | with_reducible apply State.begin_keeps | with_reducible apply State.unfreeze_keeps
    | with_reducible apply State.setFld_keeps | with_reducible apply State.irq_keeps
    | with_reducible apply Keeps.ite | with_reducible apply ResKeeps.ite | with_reducible apply ResKeeps.next
    | simp only [Keeps.mk_iff] | split | intro _)

theorem State.loadWindow_keeps {base : State} (s : State) (i : Nat) (hk : Keeps base s) :
    Keeps base (State.loadWindow s i) := by
  unfold State.loadWindow
  try dsimp only
  repeat' (first
    | with_reducible assumption | with_reducible apply State.setFld_keeps | with_reducible apply Keeps.foldl
    | with_reducible apply Keeps.foldlFst | simp only [Keeps.mk_iff] | split | intro _)

theorem execCairnCursorLoad_keeps {base : State} (m : Master) (value : Word) (s : State) (hk : Keeps base s) :
    ResKeeps base (execCairnCursorLoad m value s) := by
  unfold execCairnCursorLoad
  try dsimp only
  repeat' (first
    | with_reducible assumption | with_reducible apply State.begin_keeps | with_reducible apply State.asWrite_keeps
    | with_reducible apply State.loadWindow_keeps | with_reducible apply ResKeeps.next | simp only [Keeps.mk_iff]
    | split | intro _)

theorem execCairnWinAdvance_keeps {base : State} (m : Master) (s : State) (hk : Keeps base s) :
    ResKeeps base (execCairnWinAdvance m s) := by
  unfold execCairnWinAdvance
  try dsimp only
  repeat' (first
    | with_reducible assumption | with_reducible apply State.begin_keeps | with_reducible apply State.emit_keeps
    | with_reducible apply State.loadWindow_keeps | with_reducible apply Keeps.ite
    | with_reducible apply ResKeeps.ite | with_reducible apply ResKeeps.next | with_reducible apply ResKeeps.refused
    | simp only [Keeps.mk_iff] | split | intro _)

theorem State.scanRing_keeps {base : State} (s : State) (hk : Keeps base s) :
    Keeps base (State.scanRing s) := by
  unfold State.scanRing
  try dsimp only
  repeat' (first
    | with_reducible assumption | with_reducible apply State.setFlds_keeps | with_reducible apply Keeps.ite
    | with_reducible apply Keeps.foldl | with_reducible apply Keeps.foldlFst | with_reducible apply Keeps.four
    | simp only [Keeps.mk_iff] | split | intro _)

theorem State.writeStaged_keeps {base : State} : ∀ (n : Nat) (s : State), Keeps base s → Keeps base (s.writeStaged n)
  | 0, _, h => h
  | n + 1, s, h => by
    unfold State.writeStaged
    split
    · exact h
    · dsimp only
      apply State.writeStaged_keeps n
      split
      · exact State.cairnLoss_keeps _ (State.freeStage_keeps _ _ h)
      · apply State.writeSlot_keeps
        split
        · exact State.putStage_keeps _ _ _ h
        · exact h

theorem State.writeResets_keeps {base : State} (s : State) (hk : Keeps base s) :
    Keeps base (State.writeResets s) := by
  unfold State.writeResets
  try dsimp only
  repeat' (first
    | with_reducible assumption | with_reducible apply State.fresh_keeps | with_reducible apply State.form_keeps
    | with_reducible apply State.writeSlot_keeps | with_reducible apply Keeps.foldl
    | with_reducible apply Keeps.foldlFst | with_reducible apply Keeps.four | simp only [Keeps.mk_iff] | split
    | intro _)

theorem State.takeQueue_keeps {base : State} : ∀ (n : Nat) (s : State), Keeps base s → Keeps base (s.takeQueue n)
  | 0, _, h => h
  | n + 1, s, h => State.takeQueue_keeps n _ (State.takeOccurrence_keeps s h)

theorem State.cairnStart_keeps {base : State} (s : State) (hk : Keeps base s) :
    Keeps base (State.cairnStart s) := by
  unfold State.cairnStart
  try dsimp only
  repeat' (first
    | with_reducible assumption | with_reducible apply State.setFld_keeps | with_reducible apply Keeps.four
    | simp only [Keeps.mk_iff] | split | intro _)

theorem execCairnReleaseScan_keeps {base : State} (s : State) (hk : Keeps base s) :
    ResKeeps base (execCairnReleaseScan s) := by
  unfold execCairnReleaseScan
  try dsimp only
  repeat' (first
    | with_reducible assumption | with_reducible apply State.begin_keeps | with_reducible apply State.scanRing_keeps
    | with_reducible apply State.add_keeps | with_reducible apply State.irq_keeps
    | with_reducible apply State.setFld_keeps | with_reducible apply State.cairnLoss_keeps
    | with_reducible apply State.writeStaged_keeps | with_reducible apply State.writeResets_keeps
    | with_reducible apply State.takeQueue_keeps | with_reducible apply Keeps.ite
    | with_reducible apply ResKeeps.ite | with_reducible apply ResKeeps.next | with_reducible apply Keeps.four
    | simp only [Keeps.mk_iff] | split | intro _)

end Sys2Proof.Machine
end

