-- ==== Sys2Proof/Laws/KeepsSide.lean ====
section
/-! SUPPORT. What the operations of Machine/Side.lean keep (Laws/Keeps.lean). -/
set_option linter.all false
set_option Elab.async false

namespace Sys2Proof.Machine

theorem State.setSide_keeps {base : State} (s : State) (x : SideS) (hk : Keeps base s) :
    Keeps base (State.setSide s x) := by
  unfold State.setSide
  try dsimp only
  repeat' (first
    | with_reducible assumption | with_reducible apply Keeps.four | simp only [Keeps.mk_iff] | split | intro _)

theorem execRadioRegionSet_keeps {base : State} (m : Master) (value : Word) (s : State) (hk : Keeps base s) :
    ResKeeps base (execRadioRegionSet m value s) := by
  unfold execRadioRegionSet
  try dsimp only
  repeat' (first
    | with_reducible assumption | with_reducible apply State.begin_keeps | with_reducible apply State.asWrite_keeps
    | with_reducible apply State.setFld_keeps | with_reducible apply State.irq_keeps
    | with_reducible apply Keeps.ite | with_reducible apply ResKeeps.ite | with_reducible apply ResKeeps.next
    | simp only [Keeps.mk_iff] | split | intro _)

theorem State.noteWait_keeps {base : State} (s : State) (hk : Keeps base s) :
    Keeps base (State.noteWait s) := by
  unfold State.noteWait
  repeat' (first
    | with_reducible assumption | with_reducible apply State.inc_keeps | with_reducible apply State.irq_keeps
    | with_reducible apply Keeps.ite | simp only [Keeps.mk_iff] | split | intro _)

theorem State.radiate_keeps {base : State} (s : State) (c used : Nat) (psdu : List Byte) (hk : Keeps base s) :
    Keeps base (State.radiate s c used psdu) := by
  unfold State.radiate
  try dsimp only
  repeat' (first
    | with_reducible assumption | with_reducible apply State.inc_keeps | with_reducible apply State.setFld_keeps
    | with_reducible apply State.emit_keeps | with_reducible apply Keeps.ite | with_reducible apply Keeps.four
    | simp only [Keeps.mk_iff] | split | intro _)

theorem execDiscoverySecond_keeps {base : State} (s : State) (hk : Keeps base s) :
    ResKeeps base (execDiscoverySecond s) := by
  unfold execDiscoverySecond
  try dsimp only
  repeat' (first
    | with_reducible assumption | with_reducible apply State.begin_keeps | with_reducible apply State.setFld_keeps
    | with_reducible apply Keeps.ite | with_reducible apply ResKeeps.ite | with_reducible apply ResKeeps.next
    | simp only [Keeps.mk_iff] | split | intro _)

theorem State.takeFc_keeps {base : State} (s : State) (k : Nat) (hk : Keeps base s) :
    Keeps base (State.takeFc s k).1 := by
  unfold State.takeFc
  try dsimp only
  repeat' (first
    | with_reducible assumption | with_reducible apply State.setBit_keeps | with_reducible apply State.irq_keeps
    | with_reducible apply State.mramWrite_keeps | with_reducible apply Keeps.ite | simp only [Keeps.mk_iff] | split
    | intro _)

theorem State.sideEventAt_keeps {base : State} (s : State) (kind index at0 : Nat) (hk : Keeps base s) :
    Keeps base (State.sideEventAt s kind index at0) := by
  unfold State.sideEventAt
  try dsimp only
  repeat' (first
    | with_reducible assumption | with_reducible apply State.setSide_keeps | with_reducible apply State.irq_keeps
    | with_reducible apply State.inc_keeps | with_reducible apply Keeps.ite | with_reducible apply Keeps.four
    | simp only [Keeps.mk_iff] | split | intro _)

theorem State.sideEvent_keeps {base : State} (s : State) (kind index : Nat) (hk : Keeps base s) :
    Keeps base (State.sideEvent s kind index) := by
  unfold State.sideEvent
  repeat' (first
    | with_reducible assumption | with_reducible apply State.sideEventAt_keeps | simp only [Keeps.mk_iff] | split
    | intro _)

theorem State.endSlot_keeps {base : State} (s : State) (slot : Option Nat) (res : Nat) (hk : Keeps base s) :
    Keeps base (State.endSlot s slot res) := by
  unfold State.endSlot
  try dsimp only
  repeat' (first
    | with_reducible assumption | with_reducible apply State.setFlds_keeps | with_reducible apply State.inc_keeps
    | with_reducible apply State.sideEvent_keeps | with_reducible apply Keeps.ite | simp only [Keeps.mk_iff] | split
    | intro _)

theorem State.setLink_keeps {base : State} (s : State) (l : Nat) (x : Option SideLink) (hk : Keeps base s) :
    Keeps base (State.setLink s l x) := by
  unfold State.setLink
  try dsimp only
  repeat' (first
    | with_reducible assumption | with_reducible apply State.setSide_keeps | with_reducible apply Keeps.four
    | simp only [Keeps.mk_iff] | split | intro _)

theorem State.sideGo_keeps {base : State} (s : State) (m : Master) (t : Nat) (hk : Keeps base s) :
    ResKeeps base (State.sideGo s m t) := by
  unfold State.sideGo
  try dsimp only
  repeat' (first
    | with_reducible assumption | with_reducible apply State.asWrite_keeps | with_reducible apply State.setFld_keeps
    | with_reducible apply State.setFlds_keeps | with_reducible apply State.endSlot_keeps
    | with_reducible apply State.setLink_keeps | with_reducible apply State.setSide_keeps
    | with_reducible apply Keeps.ite | with_reducible apply ResKeeps.ite | with_reducible apply ResKeeps.next
    | with_reducible apply ResKeeps.fault | with_reducible apply Keeps.four | simp only [Keeps.mk_iff] | split
    | intro _)

theorem execSideSendData_keeps {base : State} (m : Master) (t : Nat) (s : State) (hk : Keeps base s) :
    ResKeeps base (execSideSendData m t s) := by
  unfold execSideSendData
  repeat' (first
    | with_reducible assumption | with_reducible apply State.sideGo_keeps | with_reducible apply State.begin_keeps
    | with_reducible apply ResKeeps.next | simp only [Keeps.mk_iff] | split | intro _)

theorem execSideSendConnect_keeps {base : State} (m : Master) (t : Nat) (s : State) (hk : Keeps base s) :
    ResKeeps base (execSideSendConnect m t s) := by
  unfold execSideSendConnect
  repeat' (first
    | with_reducible assumption | with_reducible apply State.sideGo_keeps | with_reducible apply State.begin_keeps
    | with_reducible apply ResKeeps.next | simp only [Keeps.mk_iff] | split | intro _)

theorem execSideSendLink_keeps {base : State} (m : Master) (t : Nat) (s : State) (hk : Keeps base s) :
    ResKeeps base (execSideSendLink m t s) := by
  unfold execSideSendLink
  repeat' (first
    | with_reducible assumption | with_reducible apply State.sideGo_keeps | with_reducible apply State.begin_keeps
    | with_reducible apply ResKeeps.next | simp only [Keeps.mk_iff] | split | intro _)

theorem execSideSendTerminate_keeps {base : State} (m : Master) (t : Nat) (s : State) (hk : Keeps base s) :
    ResKeeps base (execSideSendTerminate m t s) := by
  unfold execSideSendTerminate
  repeat' (first
    | with_reducible assumption | with_reducible apply State.sideGo_keeps | with_reducible apply State.begin_keeps
    | with_reducible apply ResKeeps.next | simp only [Keeps.mk_iff] | split | intro _)

theorem execSideSendBeacon_keeps {base : State} (m : Master) (t : Nat) (s : State) (hk : Keeps base s) :
    ResKeeps base (execSideSendBeacon m t s) := by
  unfold execSideSendBeacon
  repeat' (first
    | with_reducible assumption | with_reducible apply State.sideGo_keeps | with_reducible apply State.begin_keeps
    | with_reducible apply ResKeeps.next | simp only [Keeps.mk_iff] | split | intro _)

theorem execSideSendWake_keeps {base : State} (m : Master) (t : Nat) (s : State) (hk : Keeps base s) :
    ResKeeps base (execSideSendWake m t s) := by
  unfold execSideSendWake
  repeat' (first
    | with_reducible assumption | with_reducible apply State.sideGo_keeps | with_reducible apply State.begin_keeps
    | with_reducible apply ResKeeps.next | simp only [Keeps.mk_iff] | split | intro _)

theorem State.sendCur_keeps {base : State} (s : State) (y : SideTx) (hk : Keeps base s) :
    Keeps base (State.sendCur s y) := by
  unfold State.sendCur
  try dsimp only
  repeat' (first
    | with_reducible assumption | with_reducible apply State.setSide_keeps
    | with_reducible apply State.noteWait_keeps | with_reducible apply State.takeFc_keeps
    | with_reducible apply State.endSlot_keeps | with_reducible apply State.radiate_keeps
    | with_reducible apply State.sideEvent_keeps | with_reducible apply Keeps.ite | with_reducible apply Keeps.four
    | simp only [Keeps.mk_iff] | split | intro _)

theorem execSideTxStart_keeps {base : State} (ecc : Ecc) (s : State) (hk : Keeps base s) :
    ResKeeps base (execSideTxStart ecc s) := by
  unfold execSideTxStart
  try dsimp only
  repeat' (first
    | with_reducible assumption | with_reducible apply State.begin_keeps
    | with_reducible apply State.fenceBlock_keeps | with_reducible apply State.sendCur_keeps
    | with_reducible apply State.setSide_keeps | with_reducible apply Keeps.ite | with_reducible apply ResKeeps.ite
    | with_reducible apply ResKeeps.next | with_reducible apply ResKeeps.fault | with_reducible apply Keeps.four
    | simp only [Keeps.mk_iff] | split | intro _)

theorem execSideAckTimeout_keeps {base : State} (s : State) (hk : Keeps base s) :
    ResKeeps base (execSideAckTimeout s) := by
  unfold execSideAckTimeout
  try dsimp only
  repeat' (first
    | with_reducible assumption | with_reducible apply State.begin_keeps | with_reducible apply State.setSide_keeps
    | with_reducible apply State.endSlot_keeps | with_reducible apply Keeps.ite | with_reducible apply ResKeeps.ite
    | with_reducible apply ResKeeps.next | with_reducible apply Keeps.four | simp only [Keeps.mk_iff] | split
    | intro _)

theorem execSideRetryBackoff_keeps {base : State} (s : State) (hk : Keeps base s) :
    ResKeeps base (execSideRetryBackoff s) := by
  unfold execSideRetryBackoff
  try dsimp only
  repeat' (first
    | with_reducible assumption | with_reducible apply State.begin_keeps | with_reducible apply State.sendCur_keeps
    | with_reducible apply Keeps.ite | with_reducible apply ResKeeps.ite | with_reducible apply ResKeeps.next
    | with_reducible apply Keeps.four | simp only [Keeps.mk_iff] | split | intro _)

theorem execSideDeadlineExpiry_keeps {base : State} (t : Nat) (s : State) (hk : Keeps base s) :
    ResKeeps base (execSideDeadlineExpiry t s) := by
  unfold execSideDeadlineExpiry
  try dsimp only
  repeat' (first
    | with_reducible assumption | with_reducible apply State.begin_keeps | with_reducible apply State.setSide_keeps
    | with_reducible apply State.endSlot_keeps | with_reducible apply Keeps.ite | with_reducible apply ResKeeps.ite
    | with_reducible apply ResKeeps.next | with_reducible apply Keeps.four | simp only [Keeps.mk_iff] | split
    | intro _)

theorem execSideBeaconTimer_keeps {base : State} (s : State) (hk : Keeps base s) :
    ResKeeps base (execSideBeaconTimer s) := by
  unfold execSideBeaconTimer
  try dsimp only
  repeat' (first
    | with_reducible assumption | with_reducible apply State.begin_keeps | with_reducible apply State.setSide_keeps
    | with_reducible apply Keeps.ite | with_reducible apply ResKeeps.ite | with_reducible apply ResKeeps.next
    | with_reducible apply Keeps.four | simp only [Keeps.mk_iff] | split | intro _)

theorem State.openLink_keeps {base : State} (s : State) (central : Bool) (peer key net fc : Nat) (i : ConnectInfo) (hk : Keeps base s) :
    Keeps base (State.openLink s central peer key net fc i) := by
  unfold State.openLink
  try dsimp only
  repeat' (first
    | with_reducible assumption | with_reducible apply State.setLink_keeps
    | with_reducible apply State.setFlds_keeps | with_reducible apply State.setBit_keeps | simp only [Keeps.mk_iff]
    | split | intro _)

theorem State.closeLink_keeps {base : State} (s : State) (l : Nat) (hk : Keeps base s) :
    Keeps base (State.closeLink s l) := by
  unfold State.closeLink
  try dsimp only
  repeat' (first
    | with_reducible assumption | with_reducible apply State.endSlot_keeps
    | with_reducible apply State.setLink_keeps | with_reducible apply State.setFld_keeps
    | with_reducible apply State.setBit_keeps | with_reducible apply State.inc_keeps
    | with_reducible apply State.irq_keeps | with_reducible apply State.sideEvent_keeps
    | with_reducible apply Keeps.foldl | with_reducible apply Keeps.foldlFst | simp only [Keeps.mk_iff] | split
    | intro _)

theorem State.sendLink_keeps {base : State} (s : State) (l : Nat) (x : SideLink) (hk : Keeps base s) :
    Keeps base (State.sendLink s l x) := by
  unfold State.sendLink
  try dsimp only
  repeat' (first
    | with_reducible assumption | with_reducible apply State.noteWait_keeps
    | with_reducible apply State.takeFc_keeps | with_reducible apply State.radiate_keeps
    | with_reducible apply State.sideEvent_keeps | with_reducible apply State.endSlot_keeps
    | with_reducible apply State.setLink_keeps | with_reducible apply State.closeLink_keeps
    | with_reducible apply Keeps.ite | with_reducible apply Keeps.four | simp only [Keeps.mk_iff] | split | intro _)

theorem State.closeAll_keeps {base : State} (s : State) (hk : Keeps base s) :
    Keeps base (State.closeAll s) := by
  unfold State.closeAll
  try dsimp only
  repeat' (first
    | with_reducible assumption | with_reducible apply State.takeFc_keeps
    | with_reducible apply State.closeLink_keeps | with_reducible apply State.radiate_keeps
    | with_reducible apply Keeps.ite | with_reducible apply Keeps.foldl | with_reducible apply Keeps.foldlFst
    | simp only [Keeps.mk_iff] | split | intro _)

theorem execSideLinkAnchor_keeps {base : State} (l : Nat) (s : State) (hk : Keeps base s) :
    ResKeeps base (execSideLinkAnchor l s) := by
  unfold execSideLinkAnchor
  try dsimp only
  repeat' (first
    | with_reducible assumption | with_reducible apply State.begin_keeps | with_reducible apply State.setLink_keeps
    | with_reducible apply State.setFlds_keeps | with_reducible apply State.sideEvent_keeps
    | with_reducible apply State.sendLink_keeps | with_reducible apply Keeps.ite | with_reducible apply ResKeeps.ite
    | with_reducible apply ResKeeps.next | with_reducible apply Keeps.four | simp only [Keeps.mk_iff] | split
    | intro _)

theorem execSideLinkReply_keeps {base : State} (l : Nat) (s : State) (hk : Keeps base s) :
    ResKeeps base (execSideLinkReply l s) := by
  unfold execSideLinkReply
  try dsimp only
  repeat' (first
    | with_reducible assumption | with_reducible apply State.begin_keeps | with_reducible apply State.sendLink_keeps
    | with_reducible apply Keeps.ite | with_reducible apply ResKeeps.ite | with_reducible apply ResKeeps.next
    | simp only [Keeps.mk_iff] | split | intro _)

theorem execSideLinkSupervisionTimeout_keeps {base : State} (l : Nat) (s : State) (hk : Keeps base s) :
    ResKeeps base (execSideLinkSupervisionTimeout l s) := by
  unfold execSideLinkSupervisionTimeout
  repeat' (first
    | with_reducible assumption | with_reducible apply State.closeLink_keeps
    | with_reducible apply State.begin_keeps | with_reducible apply ResKeeps.next | simp only [Keeps.mk_iff] | split
    | intro _)

theorem State.sideRefuse_keeps {base : State} (s : State) (src code : Nat) (hk : Keeps base s) :
    Keeps base (State.sideRefuse s src code) := by
  unfold State.sideRefuse
  try dsimp only
  repeat' (first
    | with_reducible assumption | with_reducible apply State.inc_keeps | with_reducible apply State.setFlds_keeps
    | with_reducible apply Keeps.ite | simp only [Keeps.mk_iff] | split | intro _)

theorem execSideFrameRefused_keeps {base : State} (src code : Nat) (s : State) (hk : Keeps base s) :
    ResKeeps base (execSideFrameRefused src code s) := by
  unfold execSideFrameRefused
  try dsimp only
  repeat' (first
    | with_reducible assumption | with_reducible apply State.begin_keeps
    | with_reducible apply State.sideRefuse_keeps | with_reducible apply Keeps.ite
    | with_reducible apply ResKeeps.ite | with_reducible apply ResKeeps.next | simp only [Keeps.mk_iff] | split
    | intro _)

theorem State.sideAccept_keeps {base : State} (s : State) (f : SideFrame) (hk : Keeps base s) :
    Keeps base (State.sideAccept s f) := by
  unfold State.sideAccept
  repeat' (first
    | with_reducible assumption | with_reducible apply State.mramWrite_keeps | with_reducible apply State.inc_keeps
    | with_reducible apply State.setFld_keeps | simp only [Keeps.mk_iff] | split | intro _)

theorem State.sideDeliver_keeps {base : State} (s : State) (e type : Nat) (link : Option Nat) (f : SideFrame) (hk : Keeps base s) :
    Keeps base (State.sideDeliver s e type link f) := by
  unfold State.sideDeliver
  try dsimp only
  repeat' (first
    | with_reducible assumption | with_reducible apply State.setFlds_keeps | with_reducible apply State.setFld_keeps
    | with_reducible apply State.irq_keeps | with_reducible apply State.sideEventAt_keeps
    | with_reducible apply Keeps.foldl | with_reducible apply Keeps.foldlFst | simp only [Keeps.mk_iff] | split
    | intro _)

theorem State.owesAck_keeps {base : State} (s : State) (f : SideFrame) (hk : Keeps base s) :
    Keeps base (State.owesAck s f) := by
  unfold State.owesAck
  try dsimp only
  repeat' (first
    | with_reducible assumption | with_reducible apply State.setSide_keeps | with_reducible apply Keeps.four
    | simp only [Keeps.mk_iff] | split | intro _)

theorem State.sideReceive_keeps {base : State} (s : State) (f : SideFrame) (sizeOk : Bool) (fresh again : State → State) (hk : Keeps base s)
    (hfresh : ∀ (x0 : State), Keeps base x0 → Keeps base (fresh x0))
    (hagain : ∀ (x0 : State), Keeps base x0 → Keeps base (again x0)) :
    ResKeeps base (State.sideReceive s f sizeOk fresh again) := by
  unfold State.sideReceive
  try dsimp only
  repeat' (first
    | with_reducible assumption | with_reducible apply hfresh | with_reducible apply hagain
    | with_reducible apply State.sideRefuse_keeps | with_reducible apply State.fresh_keeps
    | with_reducible apply State.inc_keeps | with_reducible apply Keeps.ite | with_reducible apply ResKeeps.ite
    | with_reducible apply ResKeeps.next | simp only [Keeps.mk_iff] | split | intro _)

theorem execSideDataReceive_keeps {base : State} (f : SideFrame) (ackReq : Bool) (s : State) (hk : Keeps base s) :
    ResKeeps base (execSideDataReceive f ackReq s) := by
  unfold execSideDataReceive
  try dsimp only
  repeat' (first
    | with_reducible assumption | with_reducible apply State.sideReceive_keeps
    | with_reducible apply State.begin_keeps | with_reducible apply State.sideRefuse_keeps
    | with_reducible apply State.sideAccept_keeps | with_reducible apply State.sideDeliver_keeps
    | with_reducible apply State.owesAck_keeps | with_reducible apply Keeps.ite | with_reducible apply ResKeeps.ite
    | with_reducible apply ResKeeps.next | simp only [Keeps.mk_iff] | split | intro _)

theorem execSideBeaconReceive_keeps {base : State} (f : SideFrame) (s : State) (hk : Keeps base s) :
    ResKeeps base (execSideBeaconReceive f s) := by
  unfold execSideBeaconReceive
  try dsimp only
  repeat' (first
    | with_reducible assumption | with_reducible apply State.sideReceive_keeps
    | with_reducible apply State.begin_keeps | with_reducible apply State.sideRefuse_keeps
    | with_reducible apply State.sideAccept_keeps | with_reducible apply State.sideDeliver_keeps
    | with_reducible apply State.setSide_keeps | with_reducible apply Keeps.ite | with_reducible apply ResKeeps.ite
    | with_reducible apply ResKeeps.next | with_reducible apply Keeps.four | simp only [Keeps.mk_iff] | split
    | intro _)

theorem State.sideAcked_keeps {base : State} (s : State) (f : SideFrame) (hk : Keeps base s) :
    Keeps base (State.sideAcked s f) := by
  unfold State.sideAcked
  try dsimp only
  repeat' (first
    | with_reducible assumption | with_reducible apply State.setSide_keeps
    | with_reducible apply State.endSlot_keeps | with_reducible apply State.openLink_keeps
    | with_reducible apply Keeps.ite | with_reducible apply Keeps.four | simp only [Keeps.mk_iff] | split | intro _)

theorem execSideAckReceive_keeps {base : State} (f : SideFrame) (s : State) (hk : Keeps base s) :
    ResKeeps base (execSideAckReceive f s) := by
  unfold execSideAckReceive
  try dsimp only
  repeat' (first
    | with_reducible assumption | with_reducible apply State.sideReceive_keeps
    | with_reducible apply State.begin_keeps | with_reducible apply State.sideAccept_keeps
    | with_reducible apply State.sideAcked_keeps | with_reducible apply ResKeeps.next | simp only [Keeps.mk_iff]
    | split | intro _)

theorem execSideConnectReceive_keeps {base : State} (f : SideFrame) (s : State) (hk : Keeps base s) :
    ResKeeps base (execSideConnectReceive f s) := by
  unfold execSideConnectReceive
  try dsimp only
  repeat' (first
    | with_reducible assumption | with_reducible apply State.sideReceive_keeps
    | with_reducible apply State.begin_keeps | with_reducible apply State.sideAccept_keeps
    | with_reducible apply State.owesAck_keeps | with_reducible apply State.setSide_keeps
    | with_reducible apply State.sideRefuse_keeps | with_reducible apply Keeps.ite
    | with_reducible apply ResKeeps.ite | with_reducible apply ResKeeps.next | with_reducible apply Keeps.four
    | simp only [Keeps.mk_iff] | split | intro _)

theorem execSideAckSend_keeps {base : State} (s : State) (hk : Keeps base s) :
    ResKeeps base (execSideAckSend s) := by
  unfold execSideAckSend
  try dsimp only
  repeat' (first
    | with_reducible assumption | with_reducible apply State.begin_keeps | with_reducible apply State.setSide_keeps
    | with_reducible apply State.inc_keeps | with_reducible apply State.takeFc_keeps
    | with_reducible apply State.radiate_keeps | with_reducible apply State.sideEvent_keeps
    | with_reducible apply State.openLink_keeps | with_reducible apply Keeps.ite | with_reducible apply ResKeeps.ite
    | with_reducible apply ResKeeps.next | with_reducible apply Keeps.four | simp only [Keeps.mk_iff] | split
    | intro _)

theorem State.heardOn_keeps {base : State} (s : State) (l : Nat) (x : SideLink) (f : SideFrame) (hk : Keeps base s) :
    Keeps base (State.heardOn s l x f) := by
  unfold State.heardOn
  try dsimp only
  repeat' (first
    | with_reducible assumption | with_reducible apply State.setFlds_keeps
    | with_reducible apply State.setLink_keeps | with_reducible apply State.endSlot_keeps
    | with_reducible apply Keeps.ite | with_reducible apply Keeps.four | simp only [Keeps.mk_iff] | split | intro _)

theorem execSideLinkReceive_keeps {base : State} (f : SideFrame) (s : State) (hk : Keeps base s) :
    ResKeeps base (execSideLinkReceive f s) := by
  unfold execSideLinkReceive
  try dsimp only
  repeat' (first
    | with_reducible assumption | with_reducible apply State.begin_keeps
    | with_reducible apply State.sideReceive_keeps | with_reducible apply State.sideRefuse_keeps
    | with_reducible apply State.sideAccept_keeps | with_reducible apply State.heardOn_keeps
    | with_reducible apply State.sideDeliver_keeps | with_reducible apply Keeps.ite
    | with_reducible apply ResKeeps.ite | with_reducible apply ResKeeps.next | simp only [Keeps.mk_iff] | split
    | intro _)

theorem execSideTerminateReceive_keeps {base : State} (f : SideFrame) (s : State) (hk : Keeps base s) :
    ResKeeps base (execSideTerminateReceive f s) := by
  unfold execSideTerminateReceive
  try dsimp only
  repeat' (first
    | with_reducible assumption | with_reducible apply State.sideReceive_keeps
    | with_reducible apply State.begin_keeps | with_reducible apply State.sideRefuse_keeps
    | with_reducible apply State.sideAccept_keeps | with_reducible apply State.heardOn_keeps
    | with_reducible apply State.closeLink_keeps | with_reducible apply ResKeeps.next | simp only [Keeps.mk_iff]
    | split | intro _)

theorem State.wakeFrame_keeps {base : State} (s : State) (f : SideFrame) (hk : Keeps base s) :
    ResKeeps base (State.wakeFrame s f) := by
  unfold State.wakeFrame
  try dsimp only
  repeat' (first
    | with_reducible assumption | with_reducible apply State.sideReceive_keeps
    | with_reducible apply State.sideAccept_keeps | with_reducible apply State.owesAck_keeps
    | with_reducible apply ResKeeps.next | simp only [Keeps.mk_iff] | split | intro _)

theorem execSideEvtPop_keeps {base : State} (m : Master) (s : State) (hk : Keeps base s) :
    ResKeeps base (execSideEvtPop m s) := by
  unfold execSideEvtPop
  try dsimp only
  repeat' (first
    | with_reducible assumption | with_reducible apply State.begin_keeps | with_reducible apply State.emit_keeps
    | with_reducible apply State.setFld_keeps | with_reducible apply State.setSide_keeps
    | with_reducible apply State.setFlds_keeps | with_reducible apply Keeps.ite | with_reducible apply ResKeeps.ite
    | with_reducible apply ResKeeps.next | with_reducible apply ResKeeps.refused | with_reducible apply Keeps.four
    | simp only [Keeps.mk_iff] | split | intro _)

theorem execSideRxReturn_keeps {base : State} (m : Master) (e : Nat) (s : State) (hk : Keeps base s) :
    ResKeeps base (execSideRxReturn m e s) := by
  unfold execSideRxReturn
  try dsimp only
  repeat' (first
    | with_reducible assumption | with_reducible apply State.begin_keeps | with_reducible apply State.asWrite_keeps
    | with_reducible apply State.setFld_keeps | with_reducible apply Keeps.ite | with_reducible apply ResKeeps.ite
    | with_reducible apply ResKeeps.next | simp only [Keeps.mk_iff] | split | intro _)

theorem execSidephyPllUnlock_keeps {base : State} (s : State) (hk : Keeps base s) :
    ResKeeps base (execSidephyPllUnlock s) := by
  unfold execSidephyPllUnlock
  repeat' (first
    | with_reducible assumption | with_reducible apply State.fenceBlock_keeps
    | with_reducible apply State.begin_keeps | with_reducible apply ResKeeps.next | simp only [Keeps.mk_iff] | split
    | intro _)

theorem execSideCounterStoreFail_keeps {base : State} (s : State) (hk : Keeps base s) :
    ResKeeps base (execSideCounterStoreFail s) := by
  unfold execSideCounterStoreFail
  repeat' (first
    | with_reducible assumption | with_reducible apply State.fenceBlock_keeps
    | with_reducible apply State.begin_keeps | with_reducible apply ResKeeps.next | simp only [Keeps.mk_iff] | split
    | intro _)

theorem State.sideEmpty_keeps {base : State} (s : State) (hk : Keeps base s) :
    Keeps base (State.sideEmpty s) := by
  unfold State.sideEmpty
  try dsimp only
  repeat' (first
    | with_reducible assumption | with_reducible apply State.closeLink_keeps
    | with_reducible apply State.setFlds_keeps | with_reducible apply State.setFld_keeps
    | with_reducible apply State.setSide_keeps | with_reducible apply Keeps.foldl
    | with_reducible apply Keeps.foldlFst | with_reducible apply Keeps.four | simp only [Keeps.mk_iff] | split
    | intro _)

theorem State.sideKeyReplaced_keeps {base : State} (s : State) (k : Nat) (hk : Keeps base s) :
    Keeps base (State.sideKeyReplaced s k) := by
  unfold State.sideKeyReplaced
  try dsimp only
  repeat' (first
    | with_reducible assumption | with_reducible apply State.mramWrite_keeps
    | with_reducible apply State.setBit_keeps | with_reducible apply Keeps.four | with_reducible apply Keeps.fourMem
    | simp only [Keeps.mk_iff]
    | (refine fun (hm : Mems.wf _ = true) => ?_; simp only [Mems.wf_iff, State.drawn_mem] at hm ⊢; first | (simp only [hm, memWf_filter, memWf_memWrite, memWf_memClear, memWf_memPut, memWf_nil, and_self]; done) | (simp [hm]; done))
    | split | intro _)

theorem State.sidePush_keeps {base : State} (s : State) (k : Nat) (key : Option (List Byte)) (hk : Keeps base s) :
    Keeps base (State.sidePush s k key) := by
  unfold State.sidePush
  try dsimp only
  repeat' (first
    | with_reducible assumption | with_reducible apply State.setSide_keeps | with_reducible apply State.setBit_keeps
    | with_reducible apply Keeps.four | simp only [Keeps.mk_iff] | split | intro _)

end Sys2Proof.Machine
end

