-- ==== Sys2Proof/Laws/KeepsAnchor.lean ====
section
/-! SUPPORT. What the operations of Machine/Anchor.lean keep (Laws/Keeps.lean). -/
set_option linter.all false
set_option Elab.async false

namespace Sys2Proof.Machine

theorem State.setAnchor_keeps {base : State} (s : State) (x : AnchorS) (hk : Keeps base s) :
    Keeps base (State.setAnchor s x) := by
  unfold State.setAnchor
  try dsimp only
  repeat' (first
    | with_reducible assumption | with_reducible apply Keeps.four | simp only [Keeps.mk_iff] | split | intro _)

theorem State.setKeySlot_keeps {base : State} (s : State) (n : Nat) (x : AnchorSlot) (hk : Keeps base s) :
    Keeps base (State.setKeySlot s n x) := by
  unfold State.setKeySlot
  try dsimp only
  repeat' (first
    | with_reducible assumption | with_reducible apply State.setAnchor_keeps | with_reducible apply Keeps.four
    | simp only [Keeps.mk_iff] | split | intro _)

theorem State.pushSlot_keeps {base : State} (s : State) (n : Nat) (hk : Keeps base s) :
    Keeps base (State.pushSlot s n) := by
  unfold State.pushSlot
  try dsimp only
  repeat' (first
    | with_reducible assumption | with_reducible apply State.setFlag_keeps
    | with_reducible apply State.sidePush_keeps | with_reducible apply State.setFld_keeps
    | with_reducible apply Keeps.ite | with_reducible apply Keeps.four | simp only [Keeps.mk_iff] | split | intro _)

theorem State.slotChanged_keeps {base : State} (s : State) (n : Nat) (hk : Keeps base s) :
    Keeps base (State.slotChanged s n) := by
  unfold State.slotChanged
  repeat' (first
    | with_reducible assumption | with_reducible apply State.sideKeyReplaced_keeps
    | with_reducible apply State.pushSlot_keeps | with_reducible apply Keeps.ite | simp only [Keeps.mk_iff] | split
    | intro _)

theorem State.replaceKey_keeps {base : State} (s : State) (n type origin attr : Nat) (key : List Byte) (hk : Keeps base s) :
    Keeps base (State.replaceKey s n type origin attr key) := by
  unfold State.replaceKey
  repeat' (first
    | with_reducible assumption | with_reducible apply State.setKeySlot_keeps
    | with_reducible apply State.slotChanged_keeps | simp only [Keeps.mk_iff] | split | intro _)

theorem State.destroyKey_keeps {base : State} (s : State) (n : Nat) (hk : Keeps base s) :
    Keeps base (State.destroyKey s n) := by
  unfold State.destroyKey
  repeat' (first
    | with_reducible assumption | with_reducible apply State.setKeySlot_keeps
    | with_reducible apply State.slotChanged_keeps | simp only [Keeps.mk_iff] | split | intro _)

theorem State.deny_keeps {base : State} (s : State) (st : Nat) (hk : Keeps base s) :
    Keeps base (State.deny s st).1 := by
  unfold State.deny
  repeat' (first
    | with_reducible assumption | simp only [Keeps.mk_iff] | split | intro _)

theorem State.mbGetInfo_keeps {base : State} (s : State) (p : List Byte) (hk : Keeps base s) :
    Keeps base (State.mbGetInfo s p).1 := by
  unfold State.mbGetInfo
  try dsimp only
  repeat' (first
    | with_reducible assumption | with_reducible apply State.deny_keeps | with_reducible apply Keeps.ite
    | simp only [Keeps.mk_iff] | split | intro _)

theorem State.mbRandom_keeps {base : State} (s : State) (p : List Byte) (hk : Keeps base s) :
    Keeps base (State.mbRandom s p).1 := by
  unfold State.mbRandom
  repeat' (first
    | with_reducible assumption | with_reducible apply State.deny_keeps | with_reducible apply State.drawn_keeps
    | with_reducible apply Keeps.ite | simp only [Keeps.mk_iff] | split | intro _)

theorem State.mbKeyGen_keeps {base : State} (s : State) (p : List Byte) (hk : Keeps base s) :
    Keeps base (State.mbKeyGen s p).1 := by
  unfold State.mbKeyGen
  try dsimp only
  repeat' (first
    | with_reducible assumption | with_reducible apply State.deny_keeps | with_reducible apply State.drawn_keeps
    | with_reducible apply State.replaceKey_keeps | with_reducible apply Keeps.ite | simp only [Keeps.mk_iff]
    | split | intro _)

theorem State.mbKeyImport_keeps {base : State} (s : State) (p : List Byte) (hk : Keeps base s) :
    Keeps base (State.mbKeyImport s p).1 := by
  unfold State.mbKeyImport
  try dsimp only
  repeat' (first
    | with_reducible assumption | with_reducible apply State.deny_keeps
    | with_reducible apply State.replaceKey_keeps | with_reducible apply Keeps.ite | simp only [Keeps.mk_iff]
    | split | intro _)

theorem State.mbKeyDestroy_keeps {base : State} (s : State) (p : List Byte) (hk : Keeps base s) :
    Keeps base (State.mbKeyDestroy s p).1 := by
  unfold State.mbKeyDestroy
  try dsimp only
  repeat' (first
    | with_reducible assumption | with_reducible apply State.deny_keeps
    | with_reducible apply State.destroyKey_keeps | with_reducible apply Keeps.ite | simp only [Keeps.mk_iff]
    | split | intro _)

theorem State.mbKeyPush_keeps {base : State} (s : State) (p : List Byte) (hk : Keeps base s) :
    Keeps base (State.mbKeyPush s p).1 := by
  unfold State.mbKeyPush
  try dsimp only
  repeat' (first
    | with_reducible assumption | with_reducible apply State.deny_keeps | with_reducible apply State.pushSlot_keeps
    | with_reducible apply Keeps.ite | simp only [Keeps.mk_iff] | split | intro _)

theorem State.mbPartyPromote_keeps {base : State} (s : State) (p : List Byte) (hk : Keeps base s) :
    Keeps base (State.mbPartyPromote s p).1 := by
  unfold State.mbPartyPromote
  try dsimp only
  repeat' (first
    | with_reducible assumption | with_reducible apply State.deny_keeps
    | with_reducible apply State.setKeySlot_keeps | with_reducible apply State.pushSlot_keeps
    | with_reducible apply Keeps.ite | with_reducible apply Keeps.four | simp only [Keeps.mk_iff] | split | intro _)

theorem State.touch_keeps {base : State} (s : State) (i : Nat) (hk : Keeps base s) :
    Keeps base (State.touch s i) := by
  unfold State.touch
  try dsimp only
  repeat' (first
    | with_reducible assumption | with_reducible apply State.setAnchor_keeps | with_reducible apply Keeps.four
    | simp only [Keeps.mk_iff] | split | intro _)

theorem State.cacheKey_keeps {base : State} (s : State) (d : DerivedKey) (hk : Keeps base s) :
    Keeps base (State.cacheKey s d).1 := by
  unfold State.cacheKey
  try dsimp only
  repeat' (first
    | with_reducible assumption | with_reducible apply State.setAnchor_keeps
    | with_reducible apply State.touch_keeps | with_reducible apply Keeps.four | simp only [Keeps.mk_iff] | split
    | intro _)

theorem State.mbDerive_keeps {base : State} (s : State) (p : List Byte) (hk : Keeps base s) :
    Keeps base (State.mbDerive s p).1 := by
  unfold State.mbDerive
  try dsimp only
  repeat' (first
    | with_reducible assumption | with_reducible apply State.deny_keeps | with_reducible apply State.touch_keeps
    | with_reducible apply State.cacheKey_keeps | with_reducible apply Keeps.ite | simp only [Keeps.mk_iff] | split
    | intro _)

theorem State.mbCipher_keeps {base : State} (s : State) (p : List Byte) (hk : Keeps base s) :
    Keeps base (State.mbCipher s p).1 := by
  unfold State.mbCipher
  try dsimp only
  repeat' (first
    | with_reducible assumption | with_reducible apply State.deny_keeps | with_reducible apply State.sramWrite_keeps
    | with_reducible apply Keeps.ite | simp only [Keeps.mk_iff] | split | intro _)

theorem State.mbHash_keeps {base : State} (s : State) (p : List Byte) (hk : Keeps base s) :
    Keeps base (State.mbHash s p).1 := by
  unfold State.mbHash
  try dsimp only
  repeat' (first
    | with_reducible assumption | with_reducible apply State.deny_keeps | with_reducible apply Keeps.ite
    | simp only [Keeps.mk_iff] | split | intro _)

theorem State.mbHmac_keeps {base : State} (s : State) (p : List Byte) (hk : Keeps base s) :
    Keeps base (State.mbHmac s p).1 := by
  unfold State.mbHmac
  try dsimp only
  repeat' (first
    | with_reducible assumption | with_reducible apply State.deny_keeps | with_reducible apply Keeps.ite
    | simp only [Keeps.mk_iff] | split | intro _)

theorem State.mbSign_keeps {base : State} (s : State) (p : List Byte) (hk : Keeps base s) :
    Keeps base (State.mbSign s p).1 := by
  unfold State.mbSign
  try dsimp only
  repeat' (first
    | with_reducible assumption | with_reducible apply State.deny_keeps | with_reducible apply State.drawn_keeps
    | with_reducible apply Keeps.ite | simp only [Keeps.mk_iff] | split | intro _)

theorem State.mbVerify_keeps {base : State} (s : State) (p : List Byte) (hk : Keeps base s) :
    Keeps base (State.mbVerify s p).1 := by
  unfold State.mbVerify
  try dsimp only
  repeat' (first
    | with_reducible assumption | with_reducible apply State.deny_keeps | with_reducible apply Keeps.ite
    | simp only [Keeps.mk_iff] | split | intro _)

theorem State.mbLcpAgree_keeps {base : State} (s : State) (p : List Byte) (hk : Keeps base s) :
    Keeps base (State.mbLcpAgree s p).1 := by
  unfold State.mbLcpAgree
  try dsimp only
  repeat' (first
    | with_reducible assumption | with_reducible apply State.deny_keeps | with_reducible apply State.drawn_keeps
    | with_reducible apply State.setAnchor_keeps | with_reducible apply Keeps.ite | with_reducible apply Keeps.four
    | simp only [Keeps.mk_iff] | split | intro _)

theorem State.mbLcpSign_keeps {base : State} (s : State) (p : List Byte) (hk : Keeps base s) :
    Keeps base (State.mbLcpSign s p).1 := by
  unfold State.mbLcpSign
  repeat' (first
    | with_reducible assumption | with_reducible apply State.deny_keeps | with_reducible apply State.drawn_keeps
    | with_reducible apply Keeps.ite | simp only [Keeps.mk_iff] | split | intro _)

theorem State.mbMeterSign_keeps {base : State} (s : State) (p : List Byte) (hk : Keeps base s) :
    Keeps base (State.mbMeterSign s p).1 := by
  unfold State.mbMeterSign
  try dsimp only
  repeat' (first
    | with_reducible assumption | with_reducible apply State.deny_keeps | with_reducible apply State.drawn_keeps
    | with_reducible apply Keeps.ite | simp only [Keeps.mk_iff] | split | intro _)

theorem State.mbAttest_keeps {base : State} (s : State) (p : List Byte) (hk : Keeps base s) :
    Keeps base (State.mbAttest s p).1 := by
  unfold State.mbAttest
  try dsimp only
  repeat' (first
    | with_reducible assumption | with_reducible apply State.deny_keeps | with_reducible apply State.drawn_keeps
    | with_reducible apply Keeps.ite | simp only [Keeps.mk_iff] | split | intro _)

theorem State.mbGetCert_keeps {base : State} (s : State) (p : List Byte) (hk : Keeps base s) :
    Keeps base (State.mbGetCert s p).1 := by
  unfold State.mbGetCert
  repeat' (first
    | with_reducible assumption | with_reducible apply State.deny_keeps | with_reducible apply Keeps.ite
    | simp only [Keeps.mk_iff] | split | intro _)

theorem State.mbLifecycle_keeps {base : State} (s : State) (p : List Byte) (hk : Keeps base s) :
    Keeps base (State.mbLifecycle s p).1 := by
  unfold State.mbLifecycle
  try dsimp only
  repeat' (first
    | with_reducible assumption | with_reducible apply State.deny_keeps | with_reducible apply State.setAnchor_keeps
    | with_reducible apply State.setFld_keeps | with_reducible apply State.destroyKey_keeps
    | with_reducible apply Keeps.ite | with_reducible apply Keeps.foldl | with_reducible apply Keeps.foldlFst
    | with_reducible apply Keeps.four | simp only [Keeps.mk_iff] | split | intro _)

theorem State.mbFuse_keeps {base : State} (s : State) (p : List Byte) (hk : Keeps base s) :
    Keeps base (State.mbFuse s p).1 := by
  unfold State.mbFuse
  try dsimp only
  repeat' (first
    | with_reducible assumption | with_reducible apply State.deny_keeps
    | with_reducible apply State.setKeySlot_keeps | with_reducible apply State.setAnchor_keeps
    | with_reducible apply Keeps.ite | with_reducible apply Keeps.four | simp only [Keeps.mk_iff] | split | intro _)

theorem State.mbTamper_keeps {base : State} (s : State) (p : List Byte) (active : Bool) (hk : Keeps base s) :
    Keeps base (State.mbTamper s p active).1 := by
  unfold State.mbTamper
  try dsimp only
  repeat' (first
    | with_reducible assumption | with_reducible apply State.deny_keeps | with_reducible apply State.setAnchor_keeps
    | with_reducible apply State.setFld_keeps | with_reducible apply State.setFlds_keeps
    | with_reducible apply Keeps.ite | with_reducible apply Keeps.four | simp only [Keeps.mk_iff] | split | intro _)

theorem State.mbTableSeal_keeps {base : State} (s : State) (p : List Byte) (hk : Keeps base s) :
    Keeps base (State.mbTableSeal s p).1 := by
  unfold State.mbTableSeal
  try dsimp only
  repeat' (first
    | with_reducible assumption | with_reducible apply State.deny_keeps | with_reducible apply State.sramWrite_keeps
    | with_reducible apply State.setAnchor_keeps | with_reducible apply Keeps.ite | with_reducible apply Keeps.four
    | simp only [Keeps.mk_iff] | split | intro _)

theorem State.mbTableCheck_keeps {base : State} (s : State) (p : List Byte) (hk : Keeps base s) :
    Keeps base (State.mbTableCheck s p).1 := by
  unfold State.mbTableCheck
  try dsimp only
  repeat' (first
    | with_reducible assumption | with_reducible apply State.deny_keeps | with_reducible apply Keeps.ite
    | simp only [Keeps.mk_iff] | split | intro _)

theorem State.mboxCommand_keeps {base : State} (s : State) (cmd : Nat) (p : List Byte) (active : Bool) (hk : Keeps base s) :
    Keeps base (State.mboxCommand s cmd p active).1 := by
  unfold State.mboxCommand
  try dsimp only
  repeat' (first
    | with_reducible assumption | with_reducible apply State.mbGetInfo_keeps
    | with_reducible apply State.mbRandom_keeps | with_reducible apply State.mbKeyGen_keeps
    | with_reducible apply State.mbKeyImport_keeps | with_reducible apply State.mbKeyDestroy_keeps
    | with_reducible apply State.mbKeyPush_keeps | with_reducible apply State.mbPartyPromote_keeps
    | with_reducible apply State.mbDerive_keeps | with_reducible apply State.mbCipher_keeps
    | with_reducible apply State.mbHash_keeps | with_reducible apply State.mbHmac_keeps
    | with_reducible apply State.mbSign_keeps | with_reducible apply State.mbVerify_keeps
    | with_reducible apply State.mbLcpAgree_keeps | with_reducible apply State.mbLcpSign_keeps
    | with_reducible apply State.mbMeterSign_keeps | with_reducible apply State.mbAttest_keeps
    | with_reducible apply State.mbGetCert_keeps | with_reducible apply State.mbLifecycle_keeps
    | with_reducible apply State.mbFuse_keeps | with_reducible apply State.mbTamper_keeps
    | with_reducible apply State.mbTableSeal_keeps | with_reducible apply State.mbTableCheck_keeps
    | with_reducible apply State.deny_keeps | simp only [Keeps.mk_iff] | split | intro _)

theorem State.mboxGo_keeps {base : State} (s : State) (m : Master) (req : List Byte) (fate : AnchorFate) (active : Bool) (hk : Keeps base s) :
    Keeps base (State.mboxGo s m req fate active) := by
  unfold State.mboxGo
  try dsimp only
  repeat' (first
    | with_reducible assumption | with_reducible apply State.inc_keeps | with_reducible apply State.setFlds_keeps
    | with_reducible apply State.deny_keeps | with_reducible apply State.mboxCommand_keeps
    | with_reducible apply State.setAnchor_keeps | with_reducible apply Keeps.ite | with_reducible apply Keeps.four
    | simp only [Keeps.mk_iff] | split | intro _)

theorem State.putWords_keeps {base : State} (s : State) (page off words : Nat) (bs : List Byte) (hk : Keeps base s) :
    Keeps base (State.putWords s page off words bs) := by
  unfold State.putWords
  try dsimp only
  repeat' (first
    | with_reducible assumption | with_reducible apply State.setReg_keeps | with_reducible apply Keeps.foldl
    | with_reducible apply Keeps.foldlFst | simp only [Keeps.mk_iff] | split | intro _)

theorem State.mailbox_keeps {base : State} (s : State) (m : Master) (cmd tag : Nat) (p : List Byte) (fate : AnchorFate) (active : Bool) (hk : Keeps base s) :
    ResKeeps base (State.mailbox s m cmd tag p fate active) := by
  unfold State.mailbox
  try dsimp only
  repeat' (first
    | with_reducible assumption | with_reducible apply State.begin_keeps | with_reducible apply State.asWrite_keeps
    | with_reducible apply State.putWords_keeps | with_reducible apply State.mboxGo_keeps
    | with_reducible apply ResKeeps.next | simp only [Keeps.mk_iff] | split | intro _)

theorem execGetInfo_keeps {base : State} (m : Master) (tag : Nat) (p : List Byte) (f : AnchorFate) (s : State) (hk : Keeps base s) :
    ResKeeps base (execGetInfo m tag p f s) := by
  unfold execGetInfo
  repeat' (first
    | with_reducible assumption | with_reducible apply State.mailbox_keeps | with_reducible apply ResKeeps.next
    | simp only [Keeps.mk_iff] | split | intro _)

theorem execRandom_keeps {base : State} (m : Master) (tag : Nat) (p : List Byte) (f : AnchorFate) (s : State) (hk : Keeps base s) :
    ResKeeps base (execRandom m tag p f s) := by
  unfold execRandom
  repeat' (first
    | with_reducible assumption | with_reducible apply State.mailbox_keeps | with_reducible apply ResKeeps.next
    | simp only [Keeps.mk_iff] | split | intro _)

theorem execKeyGen_keeps {base : State} (m : Master) (tag : Nat) (p : List Byte) (f : AnchorFate) (s : State) (hk : Keeps base s) :
    ResKeeps base (execKeyGen m tag p f s) := by
  unfold execKeyGen
  repeat' (first
    | with_reducible assumption | with_reducible apply State.mailbox_keeps | with_reducible apply ResKeeps.next
    | simp only [Keeps.mk_iff] | split | intro _)

theorem execKeyImport_keeps {base : State} (m : Master) (tag : Nat) (p : List Byte) (f : AnchorFate) (s : State) (hk : Keeps base s) :
    ResKeeps base (execKeyImport m tag p f s) := by
  unfold execKeyImport
  repeat' (first
    | with_reducible assumption | with_reducible apply State.mailbox_keeps | with_reducible apply ResKeeps.next
    | simp only [Keeps.mk_iff] | split | intro _)

theorem execKeyDestroy_keeps {base : State} (m : Master) (tag : Nat) (p : List Byte) (f : AnchorFate) (s : State) (hk : Keeps base s) :
    ResKeeps base (execKeyDestroy m tag p f s) := by
  unfold execKeyDestroy
  repeat' (first
    | with_reducible assumption | with_reducible apply State.mailbox_keeps | with_reducible apply ResKeeps.next
    | simp only [Keeps.mk_iff] | split | intro _)

theorem execKeyPush_keeps {base : State} (m : Master) (tag : Nat) (p : List Byte) (f : AnchorFate) (s : State) (hk : Keeps base s) :
    ResKeeps base (execKeyPush m tag p f s) := by
  unfold execKeyPush
  repeat' (first
    | with_reducible assumption | with_reducible apply State.mailbox_keeps | with_reducible apply ResKeeps.next
    | simp only [Keeps.mk_iff] | split | intro _)

theorem execPartyPromote_keeps {base : State} (m : Master) (tag : Nat) (p : List Byte) (f : AnchorFate) (s : State) (hk : Keeps base s) :
    ResKeeps base (execPartyPromote m tag p f s) := by
  unfold execPartyPromote
  repeat' (first
    | with_reducible assumption | with_reducible apply State.mailbox_keeps | with_reducible apply ResKeeps.next
    | simp only [Keeps.mk_iff] | split | intro _)

theorem execDerive_keeps {base : State} (m : Master) (tag : Nat) (p : List Byte) (f : AnchorFate) (s : State) (hk : Keeps base s) :
    ResKeeps base (execDerive m tag p f s) := by
  unfold execDerive
  repeat' (first
    | with_reducible assumption | with_reducible apply State.mailbox_keeps | with_reducible apply ResKeeps.next
    | simp only [Keeps.mk_iff] | split | intro _)

theorem execCipher_keeps {base : State} (m : Master) (tag : Nat) (p : List Byte) (f : AnchorFate) (s : State) (hk : Keeps base s) :
    ResKeeps base (execCipher m tag p f s) := by
  unfold execCipher
  repeat' (first
    | with_reducible assumption | with_reducible apply State.mailbox_keeps | with_reducible apply ResKeeps.next
    | simp only [Keeps.mk_iff] | split | intro _)

theorem execHash_keeps {base : State} (m : Master) (tag : Nat) (p : List Byte) (f : AnchorFate) (s : State) (hk : Keeps base s) :
    ResKeeps base (execHash m tag p f s) := by
  unfold execHash
  repeat' (first
    | with_reducible assumption | with_reducible apply State.mailbox_keeps | with_reducible apply ResKeeps.next
    | simp only [Keeps.mk_iff] | split | intro _)

theorem execHmac_keeps {base : State} (m : Master) (tag : Nat) (p : List Byte) (f : AnchorFate) (s : State) (hk : Keeps base s) :
    ResKeeps base (execHmac m tag p f s) := by
  unfold execHmac
  repeat' (first
    | with_reducible assumption | with_reducible apply State.mailbox_keeps | with_reducible apply ResKeeps.next
    | simp only [Keeps.mk_iff] | split | intro _)

theorem execSign_keeps {base : State} (m : Master) (tag : Nat) (p : List Byte) (f : AnchorFate) (s : State) (hk : Keeps base s) :
    ResKeeps base (execSign m tag p f s) := by
  unfold execSign
  repeat' (first
    | with_reducible assumption | with_reducible apply State.mailbox_keeps | with_reducible apply ResKeeps.next
    | simp only [Keeps.mk_iff] | split | intro _)

theorem execVerify_keeps {base : State} (m : Master) (tag : Nat) (p : List Byte) (f : AnchorFate) (s : State) (hk : Keeps base s) :
    ResKeeps base (execVerify m tag p f s) := by
  unfold execVerify
  repeat' (first
    | with_reducible assumption | with_reducible apply State.mailbox_keeps | with_reducible apply ResKeeps.next
    | simp only [Keeps.mk_iff] | split | intro _)

theorem execLcpAgree_keeps {base : State} (m : Master) (tag : Nat) (p : List Byte) (f : AnchorFate) (s : State) (hk : Keeps base s) :
    ResKeeps base (execLcpAgree m tag p f s) := by
  unfold execLcpAgree
  repeat' (first
    | with_reducible assumption | with_reducible apply State.mailbox_keeps | with_reducible apply ResKeeps.next
    | simp only [Keeps.mk_iff] | split | intro _)

theorem execLcpSign_keeps {base : State} (m : Master) (tag : Nat) (p : List Byte) (f : AnchorFate) (s : State) (hk : Keeps base s) :
    ResKeeps base (execLcpSign m tag p f s) := by
  unfold execLcpSign
  repeat' (first
    | with_reducible assumption | with_reducible apply State.mailbox_keeps | with_reducible apply ResKeeps.next
    | simp only [Keeps.mk_iff] | split | intro _)

theorem execMeterSign_keeps {base : State} (m : Master) (tag : Nat) (p : List Byte) (f : AnchorFate) (s : State) (hk : Keeps base s) :
    ResKeeps base (execMeterSign m tag p f s) := by
  unfold execMeterSign
  repeat' (first
    | with_reducible assumption | with_reducible apply State.mailbox_keeps | with_reducible apply ResKeeps.next
    | simp only [Keeps.mk_iff] | split | intro _)

theorem execAttest_keeps {base : State} (m : Master) (tag : Nat) (p : List Byte) (f : AnchorFate) (s : State) (hk : Keeps base s) :
    ResKeeps base (execAttest m tag p f s) := by
  unfold execAttest
  repeat' (first
    | with_reducible assumption | with_reducible apply State.mailbox_keeps | with_reducible apply ResKeeps.next
    | simp only [Keeps.mk_iff] | split | intro _)

theorem execGetCert_keeps {base : State} (m : Master) (tag : Nat) (p : List Byte) (f : AnchorFate) (s : State) (hk : Keeps base s) :
    ResKeeps base (execGetCert m tag p f s) := by
  unfold execGetCert
  repeat' (first
    | with_reducible assumption | with_reducible apply State.mailbox_keeps | with_reducible apply ResKeeps.next
    | simp only [Keeps.mk_iff] | split | intro _)

theorem execLifecycle_keeps {base : State} (m : Master) (tag : Nat) (p : List Byte) (f : AnchorFate) (s : State) (hk : Keeps base s) :
    ResKeeps base (execLifecycle m tag p f s) := by
  unfold execLifecycle
  repeat' (first
    | with_reducible assumption | with_reducible apply State.mailbox_keeps | with_reducible apply ResKeeps.next
    | simp only [Keeps.mk_iff] | split | intro _)

theorem execFuse_keeps {base : State} (m : Master) (tag : Nat) (p : List Byte) (f : AnchorFate) (s : State) (hk : Keeps base s) :
    ResKeeps base (execFuse m tag p f s) := by
  unfold execFuse
  repeat' (first
    | with_reducible assumption | with_reducible apply State.mailbox_keeps | with_reducible apply ResKeeps.next
    | simp only [Keeps.mk_iff] | split | intro _)

theorem execTamper_keeps {base : State} (m : Master) (tag : Nat) (p : List Byte) (f : AnchorFate) (active : Bool) (s : State) (hk : Keeps base s) :
    ResKeeps base (execTamper m tag p f active s) := by
  unfold execTamper
  repeat' (first
    | with_reducible assumption | with_reducible apply State.mailbox_keeps | with_reducible apply ResKeeps.next
    | simp only [Keeps.mk_iff] | split | intro _)

theorem execTableSeal_keeps {base : State} (m : Master) (tag : Nat) (p : List Byte) (f : AnchorFate) (s : State) (hk : Keeps base s) :
    ResKeeps base (execTableSeal m tag p f s) := by
  unfold execTableSeal
  repeat' (first
    | with_reducible assumption | with_reducible apply State.mailbox_keeps | with_reducible apply ResKeeps.next
    | simp only [Keeps.mk_iff] | split | intro _)

theorem execTableCheck_keeps {base : State} (m : Master) (tag : Nat) (p : List Byte) (f : AnchorFate) (s : State) (hk : Keeps base s) :
    ResKeeps base (execTableCheck m tag p f s) := by
  unfold execTableCheck
  repeat' (first
    | with_reducible assumption | with_reducible apply State.mailbox_keeps | with_reducible apply ResKeeps.next
    | simp only [Keeps.mk_iff] | split | intro _)

theorem execAnchorCommandDone_keeps {base : State} (s : State) (hk : Keeps base s) :
    ResKeeps base (execAnchorCommandDone s) := by
  unfold execAnchorCommandDone
  try dsimp only
  repeat' (first
    | with_reducible assumption | with_reducible apply State.begin_keeps
    | with_reducible apply State.setAnchor_keeps | with_reducible apply State.putWords_keeps
    | with_reducible apply State.setFlds_keeps | with_reducible apply State.inc_keeps
    | with_reducible apply State.irq_keeps | with_reducible apply State.fenceBlock_keeps
    | with_reducible apply Keeps.ite | with_reducible apply ResKeeps.ite | with_reducible apply ResKeeps.next
    | with_reducible apply Keeps.four | simp only [Keeps.mk_iff] | split | intro _)

theorem execEntropyHealthFail_keeps {base : State} (s : State) (hk : Keeps base s) :
    ResKeeps base (execEntropyHealthFail s) := by
  unfold execEntropyHealthFail
  repeat' (first
    | with_reducible assumption | with_reducible apply State.setFld_keeps | with_reducible apply State.begin_keeps
    | with_reducible apply State.fenceBlock_keeps | with_reducible apply State.irq_keeps
    | with_reducible apply ResKeeps.next | simp only [Keeps.mk_iff] | split | intro _)

theorem State.anchorStart_keeps {base : State} (s : State) (warm : Bool) (hk : Keeps base s) :
    Keeps base (State.anchorStart s warm) := by
  unfold State.anchorStart
  try dsimp only
  repeat' (first
    | with_reducible assumption | with_reducible apply State.setAnchor_keeps
    | with_reducible apply State.setFlds_keeps | simp only [Keeps.mk_iff] | split | intro _)

theorem State.anchorTests_keeps {base : State} (s : State) (entropy selftest header : Bool) (damaged : List Nat) (hk : Keeps base s) :
    Keeps base (State.anchorTests s entropy selftest header damaged) := by
  unfold State.anchorTests
  try dsimp only
  repeat' (first
    | with_reducible assumption | with_reducible apply State.setFlds_keeps
    | with_reducible apply State.fenceBlock_keeps | with_reducible apply State.irq_keeps
    | with_reducible apply State.setKeySlot_keeps | with_reducible apply State.recordOpen_keeps
    | with_reducible apply Keeps.ite | with_reducible apply Keeps.foldl | with_reducible apply Keeps.foldlFst
    | simp only [Keeps.mk_iff] | split | intro _)

theorem State.autoPush_keeps {base : State} (s : State) (hk : Keeps base s) :
    Keeps base (State.autoPush s) := by
  unfold State.autoPush
  try dsimp only
  repeat' (first
    | with_reducible assumption | with_reducible apply State.pushSlot_keeps | with_reducible apply Keeps.ite
    | with_reducible apply Keeps.foldl | with_reducible apply Keeps.foldlFst | simp only [Keeps.mk_iff] | split
    | intro _)

theorem State.tamperDestroys_keeps {base : State} (s : State) (hk : Keeps base s) :
    Keeps base (State.tamperDestroys s) := by
  unfold State.tamperDestroys
  try dsimp only
  repeat' (first
    | with_reducible assumption | with_reducible apply State.setAnchor_keeps
    | with_reducible apply State.destroyKey_keeps | with_reducible apply State.pushSlot_keeps
    | with_reducible apply Keeps.ite | with_reducible apply Keeps.foldl | with_reducible apply Keeps.foldlFst
    | with_reducible apply Keeps.four | simp only [Keeps.mk_iff] | split | intro _)

end Sys2Proof.Machine
end

