-- ==== Sys2Proof/Laws/KeepsPipe.lean ====
section
/-! SUPPORT. What the operations of Machine/Pipe.lean keep (Laws/Keeps.lean). -/
set_option linter.all false
set_option Elab.async false

namespace Sys2Proof.Machine

theorem State.noteRecord_keeps {base : State} (s : State) (i : Nat) (hk : Keeps base s) :
    Keeps base (State.noteRecord s i) := by
  unfold State.noteRecord
  repeat' (first
    | with_reducible assumption | with_reducible apply State.inc_keeps | with_reducible apply State.setFlds_keeps
    | with_reducible apply State.irq_keeps | with_reducible apply State.fenceBlock_keeps | simp only [Keeps.mk_iff]
    | split | intro _)

theorem State.noteEntry_keeps {base : State} (s : State) (e : Rendered) (hk : Keeps base s) :
    Keeps base (State.noteEntry s e) := by
  unfold State.noteEntry
  try dsimp only
  repeat' (first
    | with_reducible assumption | with_reducible apply State.readWords_keeps
    | with_reducible apply State.record_keeps | with_reducible apply State.noteRecord_keeps
    | with_reducible apply State.add_keeps | with_reducible apply State.inc_keeps
    | with_reducible apply State.irq_keeps | with_reducible apply Keeps.ite | with_reducible apply Keeps.foldl
    | with_reducible apply Keeps.foldlFst | simp only [Keeps.mk_iff] | split | intro _)

theorem State.stageLane_keeps {base : State} (s : State) (areas : List Nat) (n : Nat) (strands : List (List Rendered)) (hk : Keeps base s) :
    Keeps base (State.stageLane s areas n strands) := by
  unfold State.stageLane
  try dsimp only
  repeat' (first
    | with_reducible assumption | with_reducible apply State.blockWrite_keeps | with_reducible apply Keeps.foldl
    | with_reducible apply Keeps.foldlFst | simp only [Keeps.mk_iff] | split | intro _)

theorem State.crcLane_keeps {base : State} (s : State) (n lane : Nat) (strands : List (List Rendered)) (hk : Keeps base s) :
    Keeps base (State.crcLane s n lane strands) := by
  unfold State.crcLane
  try dsimp only
  repeat' (first
    | with_reducible assumption | with_reducible apply State.setFld_keeps | with_reducible apply Keeps.four
    | simp only [Keeps.mk_iff] | split | intro _)

theorem State.fenceBank_keeps {base : State} (s : State) (b : Bank) (hk : Keeps base s) :
    Keeps base (State.fenceBank s b) := by
  unfold State.fenceBank
  try dsimp only
  repeat' (first
    | with_reducible assumption | with_reducible apply State.fenceBlock_keeps | with_reducible apply Keeps.ite
    | with_reducible apply Keeps.foldl | with_reducible apply Keeps.foldlFst | simp only [Keeps.mk_iff] | split
    | intro _)

theorem State.startBurst_keeps {base : State} (s : State) (c : FrameCase) (hk : Keeps base s) :
    Keeps base (State.startBurst s c) := by
  unfold State.startBurst
  try dsimp only
  repeat' (first
    | with_reducible assumption | with_reducible apply State.fenceBank_keeps
    | with_reducible apply State.stageLane_keeps | with_reducible apply State.crcLane_keeps
    | with_reducible apply State.noteEntry_keeps | with_reducible apply State.record_keeps
    | with_reducible apply State.clearFlds_keeps | with_reducible apply State.setFld_keeps
    | with_reducible apply State.arbTraffic_keeps | with_reducible apply State.inc_keeps
    | with_reducible apply Keeps.ite | with_reducible apply Keeps.foldl | with_reducible apply Keeps.foldlFst
    | with_reducible apply Keeps.four | simp only [Keeps.mk_iff] | split | intro _)

theorem State.endBurst_keeps {base : State} (s : State) (b : Burst) (ns : Nat) (hk : Keeps base s) :
    Keeps base (State.endBurst s b ns) := by
  unfold State.endBurst
  try dsimp only
  repeat' (first
    | with_reducible assumption | with_reducible apply State.setFlds_keeps | with_reducible apply State.drawn_keeps
    | with_reducible apply State.maxFld_keeps | with_reducible apply State.inc_keeps
    | with_reducible apply State.irq_keeps | with_reducible apply State.setFld_keeps
    | with_reducible apply State.makeRepeat_keeps | with_reducible apply Keeps.ite
    | with_reducible apply Keeps.foldl | with_reducible apply Keeps.foldlFst | with_reducible apply Keeps.four
    | simp only [Keeps.mk_iff] | split | intro _)

end Sys2Proof.Machine
end

