-- ==== Sys2Proof/Laws/KeepsStrand.lean ====
section
/-! SUPPORT. What the operations of Machine/Strand.lean keep (Laws/Keeps.lean). -/
set_option linter.all false
set_option Elab.async false

namespace Sys2Proof.Machine

theorem State.setStrand_keeps {base : State} (s : State) (k : Nat) (x : StrandS) (hk : Keeps base s) :
    Keeps base (State.setStrand s k x) := by
  unfold State.setStrand
  try dsimp only
  repeat' (first
    | with_reducible assumption | with_reducible apply Keeps.four | simp only [Keeps.mk_iff] | split | intro _)

theorem State.drivePort_keeps {base : State} (s : State) (k : Nat) (on : Bool) (hk : Keeps base s) :
    Keeps base (State.drivePort s k on) := by
  unfold State.drivePort
  try dsimp only
  repeat' (first
    | with_reducible assumption | with_reducible apply State.setFld_keeps | with_reducible apply Keeps.ite
    | with_reducible apply Keeps.four | simp only [Keeps.mk_iff] | split | intro _)

theorem State.slotDrive_keeps {base : State} (s : State) (k n : Nat) (hk : Keeps base s) :
    Keeps base (State.slotDrive s k n) := by
  unfold State.slotDrive
  try dsimp only
  repeat' (first
    | with_reducible assumption | with_reducible apply State.setStrand_keeps
    | with_reducible apply State.drivePort_keeps | with_reducible apply State.setFld_keeps
    | with_reducible apply State.inc_keeps | with_reducible apply State.irq_keeps | with_reducible apply Keeps.ite
    | with_reducible apply Keeps.four | simp only [Keeps.mk_iff] | split | intro _)

theorem execStrandSlotDrive_keeps {base : State} (k n : Nat) (s : State) (hk : Keeps base s) :
    ResKeeps base (execStrandSlotDrive k n s) := by
  unfold execStrandSlotDrive
  try dsimp only
  repeat' (first
    | with_reducible assumption | with_reducible apply State.begin_keeps | with_reducible apply State.atTime_keeps
    | with_reducible apply State.slotDrive_keeps | with_reducible apply ResKeeps.next | simp only [Keeps.mk_iff]
    | split | intro _)

theorem State.abortSlot_keeps {base : State} (s : State) (k : Nat) (hk : Keeps base s) :
    Keeps base (State.abortSlot s k) := by
  unfold State.abortSlot
  try dsimp only
  repeat' (first
    | with_reducible assumption | with_reducible apply State.setStrand_keeps | with_reducible apply State.irq_keeps
    | with_reducible apply Keeps.ite | with_reducible apply Keeps.four | simp only [Keeps.mk_iff] | split | intro _)

theorem State.beginFrame_keeps {base : State} (s : State) (k : Nat) (packet : List Byte) (hk : Keeps base s) :
    Keeps base (State.beginFrame s k packet) := by
  unfold State.beginFrame
  try dsimp only
  repeat' (first
    | with_reducible assumption | with_reducible apply State.setStrand_keeps | with_reducible apply State.emit_keeps
    | with_reducible apply Keeps.four | simp only [Keeps.mk_iff] | split | intro _)

theorem State.frameSend_keeps {base : State} (s : State) (k : Nat) (hk : Keeps base s) :
    Keeps base (State.frameSend s k) := by
  unfold State.frameSend
  try dsimp only
  repeat' (first
    | with_reducible assumption | with_reducible apply State.abortSlot_keeps
    | with_reducible apply State.blockReads_keeps | with_reducible apply State.beginFrame_keeps
    | with_reducible apply Keeps.ite | simp only [Keeps.mk_iff] | split | intro _)

theorem execStrandFrameSend_keeps {base : State} (k : Nat) (s : State) (hk : Keeps base s) :
    ResKeeps base (execStrandFrameSend k s) := by
  unfold execStrandFrameSend
  repeat' (first
    | with_reducible assumption | with_reducible apply State.begin_keeps
    | with_reducible apply State.frameSend_keeps | with_reducible apply ResKeeps.next | simp only [Keeps.mk_iff]
    | split | intro _)

theorem State.logRing_keeps {base : State} (s : State) (k n : Nat) (hk : Keeps base s) :
    Keeps base (State.logRing s k n) := by
  unfold State.logRing
  try dsimp only
  repeat' (first
    | with_reducible assumption | with_reducible apply State.blockReads_keeps | with_reducible apply Keeps.ite
    | simp only [Keeps.mk_iff] | split | intro _)

theorem State.commandSend_keeps {base : State} (s : State) (k : Nat) (hk : Keeps base s) :
    Keeps base (State.commandSend s k) := by
  unfold State.commandSend
  try dsimp only
  repeat' (first
    | with_reducible assumption | with_reducible apply State.logRing_keeps
    | with_reducible apply State.setStrand_keeps | with_reducible apply State.emit_keeps
    | with_reducible apply State.drivePort_keeps | with_reducible apply Keeps.ite | with_reducible apply Keeps.four
    | simp only [Keeps.mk_iff] | split | intro _)

theorem execStrandCommandSend_keeps {base : State} (k : Nat) (s : State) (hk : Keeps base s) :
    ResKeeps base (execStrandCommandSend k s) := by
  unfold execStrandCommandSend
  repeat' (first
    | with_reducible assumption | with_reducible apply State.begin_keeps
    | with_reducible apply State.commandSend_keeps | with_reducible apply ResKeeps.next | simp only [Keeps.mk_iff]
    | split | intro _)

theorem State.refuseReturn_keeps {base : State} (s : State) (k code pos : Nat) (hk : Keeps base s) :
    Keeps base (State.refuseReturn s k code pos) := by
  unfold State.refuseReturn
  try dsimp only
  repeat' (first
    | with_reducible assumption | with_reducible apply State.setStrand_keeps | with_reducible apply State.irq_keeps
    | with_reducible apply Keeps.ite | with_reducible apply Keeps.four | simp only [Keeps.mk_iff] | split | intro _)

theorem State.acceptReturn_keeps {base : State} (s : State) (k : Nat) (r : StrandReport) (e : Ecc) (hk : Keeps base s) :
    Keeps base (State.acceptReturn s k r e) := by
  unfold State.acceptReturn
  try dsimp only
  repeat' (first
    | with_reducible assumption | with_reducible apply State.setStrand_keeps | with_reducible apply State.irq_keeps
    | with_reducible apply State.countReport_keeps | with_reducible apply State.telemItem_keeps
    | with_reducible apply Keeps.ite | with_reducible apply Keeps.four | simp only [Keeps.mk_iff] | split | intro _)

theorem execReturnReportReceive_keeps {base : State} (k : Nat) (r : StrandReport) (e : Ecc) (s : State) (hk : Keeps base s) :
    ResKeeps base (execReturnReportReceive k r e s) := by
  unfold execReturnReportReceive
  try dsimp only
  repeat' (first
    | with_reducible assumption | with_reducible apply State.begin_keeps
    | with_reducible apply State.setStrand_keeps | with_reducible apply State.refuseReturn_keeps
    | with_reducible apply State.acceptReturn_keeps | with_reducible apply Keeps.ite
    | with_reducible apply ResKeeps.ite | with_reducible apply ResKeeps.next | with_reducible apply Keeps.four
    | simp only [Keeps.mk_iff] | split | intro _)

theorem execReturnWindowClose_keeps {base : State} (k : Nat) (s : State) (hk : Keeps base s) :
    ResKeeps base (execReturnWindowClose k s) := by
  unfold execReturnWindowClose
  try dsimp only
  repeat' (first
    | with_reducible assumption | with_reducible apply State.begin_keeps
    | with_reducible apply State.setStrand_keeps | with_reducible apply State.refuseReturn_keeps
    | with_reducible apply State.drivePort_keeps | with_reducible apply Keeps.ite
    | with_reducible apply ResKeeps.ite | with_reducible apply ResKeeps.next | with_reducible apply Keeps.four
    | simp only [Keeps.mk_iff] | split | intro _)

theorem execIdleInsert_keeps {base : State} (k : Nat) (s : State) (hk : Keeps base s) :
    ResKeeps base (execIdleInsert k s) := by
  unfold execIdleInsert
  try dsimp only
  repeat' (first
    | with_reducible assumption | with_reducible apply State.begin_keeps | with_reducible apply State.emit_keeps
    | with_reducible apply Keeps.ite | with_reducible apply ResKeeps.ite | with_reducible apply ResKeeps.next
    | simp only [Keeps.mk_iff] | split | intro _)

theorem State.presentSend_keeps {base : State} (s : State) (k : Nat) (hk : Keeps base s) :
    Keeps base (State.presentSend s k) := by
  unfold State.presentSend
  try dsimp only
  repeat' (first
    | with_reducible assumption | with_reducible apply State.setStrand_keeps
    | with_reducible apply State.setFrame_keeps | with_reducible apply State.emit_keeps
    | with_reducible apply State.inc_keeps | with_reducible apply Keeps.ite | with_reducible apply Keeps.four
    | simp only [Keeps.mk_iff] | split | intro _)

theorem execPresentSend_keeps {base : State} (k : Nat) (s : State) (hk : Keeps base s) :
    ResKeeps base (execPresentSend k s) := by
  unfold execPresentSend
  repeat' (first
    | with_reducible assumption | with_reducible apply State.begin_keeps
    | with_reducible apply State.presentSend_keeps | with_reducible apply ResKeeps.next | simp only [Keeps.mk_iff]
    | split | intro _)

theorem execStrandSlotRelease_keeps {base : State} (k : Nat) (s : State) (hk : Keeps base s) :
    ResKeeps base (execStrandSlotRelease k s) := by
  unfold execStrandSlotRelease
  try dsimp only
  repeat' (first
    | with_reducible assumption | with_reducible apply State.begin_keeps
    | with_reducible apply State.setStrand_keeps | with_reducible apply State.drivePort_keeps
    | with_reducible apply ResKeeps.next | with_reducible apply Keeps.four | simp only [Keeps.mk_iff] | split
    | intro _)

theorem execStrandAbort_keeps {base : State} (k a : Nat) (s : State) (hk : Keeps base s) :
    ResKeeps base (execStrandAbort k a s) := by
  unfold execStrandAbort
  try dsimp only
  repeat' (first
    | with_reducible assumption | with_reducible apply State.begin_keeps
    | with_reducible apply State.poisonStore_keeps | with_reducible apply State.logStoreUe_keeps
    | with_reducible apply State.abortSlot_keeps | with_reducible apply Keeps.ite
    | with_reducible apply ResKeeps.ite | with_reducible apply ResKeeps.next | simp only [Keeps.mk_iff] | split
    | intro _)

theorem State.fenceStrand_keeps {base : State} (s : State) (k cause : Nat) (hk : Keeps base s) :
    Keeps base (State.fenceStrand s k cause) := by
  unfold State.fenceStrand
  try dsimp only
  repeat' (first
    | with_reducible assumption | with_reducible apply State.drivePort_keeps
    | with_reducible apply State.setStrand_keeps | with_reducible apply State.fence_keeps
    | with_reducible apply State.setBit_keeps | with_reducible apply State.irq_keeps
    | with_reducible apply Keeps.four | simp only [Keeps.mk_iff] | split | intro _)

theorem execStrandContention_keeps {base : State} (k : Nat) (s : State) (hk : Keeps base s) :
    ResKeeps base (execStrandContention k s) := by
  unfold execStrandContention
  try dsimp only
  repeat' (first
    | with_reducible assumption | with_reducible apply State.begin_keeps
    | with_reducible apply State.fenceStrand_keeps | with_reducible apply Keeps.ite
    | with_reducible apply ResKeeps.ite | with_reducible apply ResKeeps.next | simp only [Keeps.mk_iff] | split
    | intro _)

theorem execVioFault_keeps {base : State} (g mv : Nat) (s : State) (hk : Keeps base s) :
    ResKeeps base (execVioFault g mv s) := by
  unfold execVioFault
  try dsimp only
  repeat' (first
    | with_reducible assumption | with_reducible apply State.begin_keeps
    | with_reducible apply State.fenceStrand_keeps | with_reducible apply Keeps.ite
    | with_reducible apply ResKeeps.ite | with_reducible apply ResKeeps.next | with_reducible apply Keeps.foldl
    | with_reducible apply Keeps.foldlFst | with_reducible apply Keeps.four | simp only [Keeps.mk_iff] | split
    | intro _)

theorem State.releaseGroup_keeps {base : State} (s : State) (g : Nat) (hk : Keeps base s) :
    Keeps base (State.releaseGroup s g) := by
  unfold State.releaseGroup
  try dsimp only
  repeat' (first
    | with_reducible assumption | with_reducible apply State.setStrand_keeps
    | with_reducible apply State.drivePort_keeps | with_reducible apply Keeps.foldl
    | with_reducible apply Keeps.foldlFst | with_reducible apply Keeps.four | simp only [Keeps.mk_iff] | split
    | intro _)

theorem State.releasePorts_keeps {base : State} (s : State) (hk : Keeps base s) :
    Keeps base (State.releasePorts s) := by
  unfold State.releasePorts
  repeat' (first
    | with_reducible assumption | with_reducible apply State.releaseGroup_keeps | with_reducible apply Keeps.foldl
    | with_reducible apply Keeps.foldlFst | simp only [Keeps.mk_iff] | split | intro _)

theorem State.strandsReleased_keeps {base : State} (s : State) (g : Nat) (hk : Keeps base s) :
    Keeps base (State.strandsReleased s g) := by
  unfold State.strandsReleased
  try dsimp only
  repeat' (first
    | with_reducible assumption | with_reducible apply State.setFld_keeps | with_reducible apply Keeps.foldl
    | with_reducible apply Keeps.foldlFst | simp only [Keeps.mk_iff] | split | intro _)

end Sys2Proof.Machine
end

