-- ==== Sys2Proof/Laws/KeepsBelay.lean ====
section
/-! SUPPORT. What the operations of Machine/Belay.lean keep (Laws/Keeps.lean). -/
set_option linter.all false
set_option Elab.async false

namespace Sys2Proof.Machine

theorem State.sendBelay_keeps {base : State} (s : State) (ty flags : Nat) (payload : List Byte) (hk : Keeps base s) :
    Keeps base (State.sendBelay s ty flags payload) := by
  unfold State.sendBelay
  try dsimp only
  repeat' (first
    | with_reducible assumption | with_reducible apply State.emit_keeps | with_reducible apply Keeps.ite
    | with_reducible apply Keeps.four | simp only [Keeps.mk_iff] | split | intro _)

theorem State.sendNak_keeps {base : State} (s : State) (hk : Keeps base s) :
    Keeps base (State.sendNak s) := by
  unfold State.sendNak
  repeat' (first
    | with_reducible assumption | with_reducible apply State.sendBelay_keeps | simp only [Keeps.mk_iff] | split
    | intro _)

theorem State.dropBelay_keeps {base : State} (s : State) (hk : Keeps base s) :
    Keeps base (State.dropBelay s) := by
  unfold State.dropBelay
  try dsimp only
  repeat' (first
    | with_reducible assumption | with_reducible apply State.inc_keeps | with_reducible apply State.sendNak_keeps
    | with_reducible apply Keeps.ite | simp only [Keeps.mk_iff] | split | intro _)

theorem State.abandonCopy_keeps {base : State} (s : State) (hk : Keeps base s) :
    Keeps base (State.abandonCopy s) := by
  unfold State.abandonCopy
  try dsimp only
  repeat' (first
    | with_reducible assumption | with_reducible apply State.setFld_keeps | with_reducible apply Keeps.four
    | simp only [Keeps.mk_iff] | split | intro _)

theorem State.belayEcc_keeps {base : State} (s : State) (hk : Keeps base s) :
    Keeps base (State.belayEcc s) := by
  unfold State.belayEcc
  repeat' (first
    | with_reducible assumption | with_reducible apply State.fenceBlock_keeps
    | with_reducible apply State.abandonCopy_keeps | simp only [Keeps.mk_iff] | split | intro _)

theorem State.recvBelay_keeps {base : State} (s : State) (p : BelayPkt) (lenOk : Bool) (k : State → State) (hk : Keeps base s)
    (hk : ∀ (x0 : State), Keeps base x0 → Keeps base (k x0)) :
    Keeps base (State.recvBelay s p lenOk k) := by
  unfold State.recvBelay
  try dsimp only
  repeat' (first
    | with_reducible assumption | with_reducible apply hk | with_reducible apply State.belayEcc_keeps
    | with_reducible apply State.dropBelay_keeps | with_reducible apply State.sendNak_keeps
    | with_reducible apply Keeps.ite | with_reducible apply Keeps.four | simp only [Keeps.mk_iff] | split | intro _)

theorem State.showBelay_keeps {base : State} (s : State) (hk : Keeps base s) :
    Keeps base (State.showBelay s) := by
  unfold State.showBelay
  repeat' (first
    | with_reducible assumption | with_reducible apply State.setFlds_keeps | simp only [Keeps.mk_iff] | split
    | intro _)

theorem State.setSynced_keeps {base : State} (s : State) (scree : Bool) (hk : Keeps base s) :
    Keeps base (State.setSynced s scree) := by
  unfold State.setSynced
  try dsimp only
  repeat' (first
    | with_reducible assumption | with_reducible apply State.setFlds_keeps | with_reducible apply Keeps.four
    | simp only [Keeps.mk_iff] | split | intro _)

theorem State.changeLead_keeps {base : State} (s : State) (n : Nat) (lead : Bool) (cause : Nat) (hk : Keeps base s) :
    Keeps base (State.changeLead s n lead cause) := by
  unfold State.changeLead
  try dsimp only
  repeat' (first
    | with_reducible assumption | with_reducible apply State.setFrame_keeps
    | with_reducible apply State.setFlds_keeps | with_reducible apply State.inc_keeps
    | with_reducible apply State.setSynced_keeps | with_reducible apply State.abandonCopy_keeps
    | with_reducible apply State.irq_keeps | with_reducible apply Keeps.ite | with_reducible apply Keeps.four
    | simp only [Keeps.mk_iff] | split | intro _)

theorem execLeadClaim_keeps {base : State} (n : Nat) (s : State) (hk : Keeps base s) :
    ResKeeps base (execLeadClaim n s) := by
  unfold execLeadClaim
  try dsimp only
  repeat' (first
    | with_reducible assumption | with_reducible apply State.begin_keeps
    | with_reducible apply State.changeLead_keeps | with_reducible apply State.claimRails_keeps
    | with_reducible apply State.showRails_keeps | with_reducible apply Keeps.ite
    | with_reducible apply ResKeeps.ite | with_reducible apply ResKeeps.next | simp only [Keeps.mk_iff] | split
    | intro _)

theorem State.maybeYield_keeps {base : State} (s : State) (n : Nat) (hk : Keeps base s) :
    Keeps base (State.maybeYield s n) := by
  unfold State.maybeYield
  try dsimp only
  repeat' (first
    | with_reducible assumption | with_reducible apply State.sendBelay_keeps | with_reducible apply Keeps.ite
    | with_reducible apply Keeps.four | simp only [Keeps.mk_iff] | split | intro _)

theorem execYieldReceive_keeps {base : State} (p : BelayPkt) (s : State) (hk : Keeps base s) :
    ResKeeps base (execYieldReceive p s) := by
  unfold execYieldReceive
  try dsimp only
  repeat' (first
    | with_reducible assumption | with_reducible apply State.begin_keeps
    | with_reducible apply State.recvBelay_keeps | with_reducible apply State.sendBelay_keeps
    | with_reducible apply Keeps.ite | with_reducible apply ResKeeps.ite | with_reducible apply ResKeeps.next
    | with_reducible apply Keeps.four | simp only [Keeps.mk_iff] | split | intro _)

theorem execAcceptReceive_keeps {base : State} (p : BelayPkt) (s : State) (hk : Keeps base s) :
    ResKeeps base (execAcceptReceive p s) := by
  unfold execAcceptReceive
  try dsimp only
  repeat' (first
    | with_reducible assumption | with_reducible apply State.begin_keeps
    | with_reducible apply State.recvBelay_keeps | with_reducible apply Keeps.ite
    | with_reducible apply ResKeeps.ite | with_reducible apply ResKeeps.next | with_reducible apply Keeps.four
    | simp only [Keeps.mk_iff] | split | intro _)

theorem execDeclineReceive_keeps {base : State} (p : BelayPkt) (s : State) (hk : Keeps base s) :
    ResKeeps base (execDeclineReceive p s) := by
  unfold execDeclineReceive
  try dsimp only
  repeat' (first
    | with_reducible assumption | with_reducible apply State.begin_keeps
    | with_reducible apply State.recvBelay_keeps | with_reducible apply ResKeeps.next | simp only [Keeps.mk_iff]
    | split | intro _)

theorem execHandoverAcceptDeadline_keeps {base : State} (n : Nat) (s : State) (hk : Keeps base s) :
    ResKeeps base (execHandoverAcceptDeadline n s) := by
  unfold execHandoverAcceptDeadline
  try dsimp only
  repeat' (first
    | with_reducible assumption | with_reducible apply State.begin_keeps | with_reducible apply State.inc_keeps
    | with_reducible apply Keeps.ite | with_reducible apply ResKeeps.ite | with_reducible apply ResKeeps.next
    | with_reducible apply Keeps.four | simp only [Keeps.mk_iff] | split | intro _)

theorem execHandoverLeadRelease_keeps {base : State} (n : Nat) (s : State) (hk : Keeps base s) :
    ResKeeps base (execHandoverLeadRelease n s) := by
  unfold execHandoverLeadRelease
  try dsimp only
  repeat' (first
    | with_reducible assumption | with_reducible apply State.begin_keeps
    | with_reducible apply State.changeLead_keeps | with_reducible apply State.record_keeps
    | with_reducible apply State.giveRails_keeps | with_reducible apply Keeps.ite
    | with_reducible apply ResKeeps.ite | with_reducible apply ResKeeps.next | with_reducible apply Keeps.four
    | simp only [Keeps.mk_iff] | split | intro _)

theorem execHandoverNewLeadSample_keeps {base : State} (n : Nat) (high : Bool) (s : State) (hk : Keeps base s) :
    ResKeeps base (execHandoverNewLeadSample n high s) := by
  unfold execHandoverNewLeadSample
  try dsimp only
  repeat' (first
    | with_reducible assumption | with_reducible apply State.begin_keeps
    | with_reducible apply State.changeLead_keeps | with_reducible apply State.record_keeps
    | with_reducible apply State.takeRails_keeps | with_reducible apply State.showRails_keeps
    | with_reducible apply State.inc_keeps | with_reducible apply Keeps.ite | with_reducible apply ResKeeps.ite
    | with_reducible apply ResKeeps.next | with_reducible apply Keeps.four | simp only [Keeps.mk_iff] | split
    | intro _)

theorem State.skipCrc_keeps {base : State} (s : State) (n : Nat) (hk : Keeps base s) :
    Keeps base (State.skipCrc s n) := by
  unfold State.skipCrc
  try dsimp only
  repeat' (first
    | with_reducible assumption | with_reducible apply State.inc_keeps | with_reducible apply Keeps.four
    | simp only [Keeps.mk_iff] | split | intro _)

theorem State.compareCrc_keeps {base : State} (s : State) (n : Nat) (hk : Keeps base s) :
    Keeps base (State.compareCrc s n) := by
  unfold State.compareCrc
  try dsimp only
  repeat' (first
    | with_reducible assumption | with_reducible apply State.skipCrc_keeps | with_reducible apply State.inc_keeps
    | with_reducible apply State.setFrame_keeps | with_reducible apply State.setFld_keeps
    | with_reducible apply State.event_keeps | with_reducible apply Keeps.ite | with_reducible apply Keeps.foldl
    | with_reducible apply Keeps.foldlFst | with_reducible apply Keeps.four | simp only [Keeps.mk_iff] | split
    | intro _)

theorem State.sendFrameCrc_keeps {base : State} (s : State) (n : Nat) (hk : Keeps base s) :
    Keeps base (State.sendFrameCrc s n) := by
  unfold State.sendFrameCrc
  try dsimp only
  repeat' (first
    | with_reducible assumption | with_reducible apply State.sendBelay_keeps
    | with_reducible apply State.compareCrc_keeps | with_reducible apply Keeps.ite | with_reducible apply Keeps.four
    | simp only [Keeps.mk_iff] | split | intro _)

theorem execFrameCrcReceive_keeps {base : State} (p : BelayPkt) (s : State) (hk : Keeps base s) :
    ResKeeps base (execFrameCrcReceive p s) := by
  unfold execFrameCrcReceive
  try dsimp only
  repeat' (first
    | with_reducible assumption | with_reducible apply State.begin_keeps
    | with_reducible apply State.recvBelay_keeps | with_reducible apply State.compareCrc_keeps
    | with_reducible apply ResKeeps.next | with_reducible apply Keeps.four | simp only [Keeps.mk_iff] | split
    | intro _)

theorem execHeartSend_keeps {base : State} (s : State) (hk : Keeps base s) :
    ResKeeps base (execHeartSend s) := by
  unfold execHeartSend
  try dsimp only
  repeat' (first
    | with_reducible assumption | with_reducible apply State.begin_keeps
    | with_reducible apply State.showBelay_keeps | with_reducible apply State.sendBelay_keeps
    | with_reducible apply Keeps.ite | with_reducible apply ResKeeps.ite | with_reducible apply ResKeeps.next
    | simp only [Keeps.mk_iff] | split | intro _)

theorem State.adoptRail_keeps {base : State} (s : State) (b : List Byte) (r : Nat) (hk : Keeps base s) :
    Keeps base (State.adoptRail s b r) := by
  unfold State.adoptRail
  try dsimp only
  repeat' (first
    | with_reducible assumption | with_reducible apply State.setRail_keeps
    | with_reducible apply State.setFlds_keeps | with_reducible apply State.setBit_keeps
    | with_reducible apply State.irq_keeps | with_reducible apply State.showRail_keeps
    | with_reducible apply Keeps.ite | with_reducible apply Keeps.four | simp only [Keeps.mk_iff] | split | intro _)

theorem execHeartReceive_keeps {base : State} (p : BelayPkt) (rx : Nat) (s : State) (hk : Keeps base s) :
    ResKeeps base (execHeartReceive p rx s) := by
  unfold execHeartReceive
  try dsimp only
  repeat' (first
    | with_reducible assumption | with_reducible apply State.begin_keeps
    | with_reducible apply State.recvBelay_keeps | with_reducible apply State.setFld_keeps
    | with_reducible apply State.setFlds_keeps | with_reducible apply State.irq_keeps
    | with_reducible apply State.adoptRail_keeps | with_reducible apply State.abandonCopy_keeps
    | with_reducible apply State.showBelay_keeps | with_reducible apply Keeps.ite
    | with_reducible apply ResKeeps.ite | with_reducible apply ResKeeps.next | with_reducible apply Keeps.foldl
    | with_reducible apply Keeps.foldlFst | with_reducible apply Keeps.four | simp only [Keeps.mk_iff] | split
    | intro _)

theorem execBelayPacketError_keeps {base : State} (s : State) (hk : Keeps base s) :
    ResKeeps base (execBelayPacketError s) := by
  unfold execBelayPacketError
  try dsimp only
  repeat' (first
    | with_reducible assumption | with_reducible apply State.begin_keeps
    | with_reducible apply State.dropBelay_keeps | with_reducible apply Keeps.ite
    | with_reducible apply ResKeeps.ite | with_reducible apply ResKeeps.next | simp only [Keeps.mk_iff] | split
    | intro _)

theorem execBelayLinkUp_keeps {base : State} (s : State) (hk : Keeps base s) :
    ResKeeps base (execBelayLinkUp s) := by
  unfold execBelayLinkUp
  try dsimp only
  repeat' (first
    | with_reducible assumption | with_reducible apply State.begin_keeps | with_reducible apply State.setFld_keeps
    | with_reducible apply State.irq_keeps | with_reducible apply Keeps.ite | with_reducible apply ResKeeps.ite
    | with_reducible apply ResKeeps.next | with_reducible apply Keeps.four | simp only [Keeps.mk_iff] | split
    | intro _)

theorem execBelayLinkDown_keeps {base : State} (s : State) (hk : Keeps base s) :
    ResKeeps base (execBelayLinkDown s) := by
  unfold execBelayLinkDown
  try dsimp only
  repeat' (first
    | with_reducible assumption | with_reducible apply State.begin_keeps | with_reducible apply State.setFld_keeps
    | with_reducible apply State.inc_keeps | with_reducible apply State.abandonCopy_keeps
    | with_reducible apply State.irq_keeps | with_reducible apply State.showBelay_keeps
    | with_reducible apply Keeps.ite | with_reducible apply ResKeeps.ite | with_reducible apply ResKeeps.next
    | simp only [Keeps.mk_iff] | split | intro _)

theorem execPartnerLost_keeps {base : State} (s : State) (hk : Keeps base s) :
    ResKeeps base (execPartnerLost s) := by
  unfold execPartnerLost
  try dsimp only
  repeat' (first
    | with_reducible assumption | with_reducible apply State.begin_keeps | with_reducible apply State.setFld_keeps
    | with_reducible apply State.irq_keeps | with_reducible apply Keeps.ite | with_reducible apply ResKeeps.ite
    | with_reducible apply ResKeeps.next | simp only [Keeps.mk_iff] | split | intro _)

theorem State.clearSynced_keeps {base : State} (s : State) (hk : Keeps base s) :
    Keeps base (State.clearSynced s) := by
  unfold State.clearSynced
  try dsimp only
  repeat' (first
    | with_reducible assumption | with_reducible apply State.setFlds_keeps | with_reducible apply Keeps.four
    | simp only [Keeps.mk_iff] | split | intro _)

theorem execResyncStart_keeps {base : State} (s : State) (hk : Keeps base s) :
    ResKeeps base (execResyncStart s) := by
  unfold execResyncStart
  try dsimp only
  repeat' (first
    | with_reducible assumption | with_reducible apply State.begin_keeps
    | with_reducible apply State.clearSynced_keeps | with_reducible apply State.setFlds_keeps
    | with_reducible apply State.sendBelay_keeps | with_reducible apply Keeps.ite
    | with_reducible apply ResKeeps.ite | with_reducible apply ResKeeps.next | with_reducible apply Keeps.four
    | simp only [Keeps.mk_iff] | split | intro _)

theorem execResyncReqReceive_keeps {base : State} (p : BelayPkt) (s : State) (hk : Keeps base s) :
    ResKeeps base (execResyncReqReceive p s) := by
  unfold execResyncReqReceive
  try dsimp only
  repeat' (first
    | with_reducible assumption | with_reducible apply State.begin_keeps
    | with_reducible apply State.recvBelay_keeps | with_reducible apply State.setFld_keeps
    | with_reducible apply Keeps.ite | with_reducible apply ResKeeps.ite | with_reducible apply ResKeeps.next
    | with_reducible apply Keeps.four | simp only [Keeps.mk_iff] | split | intro _)

theorem State.dataSend_keeps {base : State} (s : State) (hk : Keeps base s) :
    Keeps base (State.dataSend s) := by
  unfold State.dataSend
  try dsimp only
  repeat' (first
    | with_reducible assumption | with_reducible apply State.blockReads_keeps
    | with_reducible apply State.sendBelay_keeps | with_reducible apply State.setFld_keeps
    | with_reducible apply State.fresh_keeps | with_reducible apply Keeps.ite | with_reducible apply Keeps.four
    | simp only [Keeps.mk_iff] | split | intro _)

theorem execResyncDataSend_keeps {base : State} (s : State) (hk : Keeps base s) :
    ResKeeps base (execResyncDataSend s) := by
  unfold execResyncDataSend
  try dsimp only
  repeat' (first
    | with_reducible assumption | with_reducible apply State.begin_keeps | with_reducible apply State.dataSend_keeps
    | with_reducible apply Keeps.ite | with_reducible apply ResKeeps.ite | with_reducible apply ResKeeps.next
    | simp only [Keeps.mk_iff] | split | intro _)

theorem State.sendInstall_keeps {base : State} (s : State) (n : Nat) (held : Option Commit) (hk : Keeps base s) :
    Keeps base (State.sendInstall s n held) := by
  unfold State.sendInstall
  try dsimp only
  repeat' (first
    | with_reducible assumption | with_reducible apply State.withdraw_keeps
    | with_reducible apply State.sendBelay_keeps | with_reducible apply Keeps.ite | with_reducible apply Keeps.four
    | simp only [Keeps.mk_iff] | split | intro _)

theorem State.resend_keeps {base : State} (s : State) (a : Nat) (hk : Keeps base s) :
    Keeps base (State.resend s a) := by
  unfold State.resend
  try dsimp only
  repeat' (first
    | with_reducible assumption | with_reducible apply State.setFld_keeps | with_reducible apply Keeps.ite
    | with_reducible apply Keeps.four | simp only [Keeps.mk_iff] | split | intro _)

theorem execResyncNakReceive_keeps {base : State} (p : BelayPkt) (s : State) (hk : Keeps base s) :
    ResKeeps base (execResyncNakReceive p s) := by
  unfold execResyncNakReceive
  try dsimp only
  repeat' (first
    | with_reducible assumption | with_reducible apply State.begin_keeps
    | with_reducible apply State.recvBelay_keeps | with_reducible apply State.resend_keeps
    | with_reducible apply Keeps.ite | with_reducible apply ResKeeps.ite | with_reducible apply ResKeeps.next
    | simp only [Keeps.mk_iff] | split | intro _)

theorem State.takeData_keeps {base : State} (t : State) (a : Nat) (data : List Byte) (scree : Bool) (hk : Keeps base t) :
    Keeps base (State.takeData t a data scree) := by
  unfold State.takeData
  try dsimp only
  repeat' (first
    | with_reducible assumption | with_reducible apply State.blockWrite_keeps
    | with_reducible apply State.setFld_keeps | with_reducible apply State.setFlds_keeps
    | with_reducible apply State.irq_keeps | with_reducible apply Keeps.ite | with_reducible apply Keeps.four
    | simp only [Keeps.mk_iff] | split | intro _)

theorem execResyncDataReceive_keeps {base : State} (p : BelayPkt) (s : State) (hk : Keeps base s) :
    ResKeeps base (execResyncDataReceive p s) := by
  unfold execResyncDataReceive
  try dsimp only
  repeat' (first
    | with_reducible assumption | with_reducible apply State.begin_keeps
    | with_reducible apply State.recvBelay_keeps | with_reducible apply State.takeData_keeps
    | with_reducible apply Keeps.ite | with_reducible apply ResKeeps.ite | with_reducible apply ResKeeps.next
    | simp only [Keeps.mk_iff] | split | intro _)

theorem execResyncInstallReceive_keeps {base : State} (p : BelayPkt) (s : State) (hk : Keeps base s) :
    ResKeeps base (execResyncInstallReceive p s) := by
  unfold execResyncInstallReceive
  try dsimp only
  repeat' (first
    | with_reducible assumption | with_reducible apply State.begin_keeps
    | with_reducible apply State.recvBelay_keeps | with_reducible apply Keeps.ite
    | with_reducible apply ResKeeps.ite | with_reducible apply ResKeeps.next | with_reducible apply Keeps.four
    | simp only [Keeps.mk_iff] | split | intro _)

theorem State.installSlots_keeps {base : State} (s : State) (x : Install) (hk : Keeps base s) :
    Keeps base (State.installSlots s x) := by
  unfold State.installSlots
  try dsimp only
  repeat' (first
    | with_reducible assumption | with_reducible apply State.setSlot_keeps
    | with_reducible apply State.setFlds_keeps | with_reducible apply State.setSynced_keeps
    | with_reducible apply State.setFld_keeps | with_reducible apply State.inc_keeps
    | with_reducible apply State.irq_keeps | with_reducible apply Keeps.ite | with_reducible apply Keeps.foldl
    | with_reducible apply Keeps.foldlFst | with_reducible apply Keeps.four | simp only [Keeps.mk_iff] | split
    | intro _)

theorem State.belayBoundary_keeps {base : State} (s : State) (hk : Keeps base s) :
    Keeps base (State.belayBoundary s) := by
  unfold State.belayBoundary
  try dsimp only
  repeat' (first
    | with_reducible assumption | with_reducible apply State.clearSynced_keeps
    | with_reducible apply State.setSynced_keeps | with_reducible apply Keeps.ite | with_reducible apply Keeps.four
    | simp only [Keeps.mk_iff] | split | intro _)

theorem State.noteDue_keeps {base : State} (s : State) (n : Nat) (held : Option Commit) (hk : Keeps base s) :
    Keeps base (State.noteDue s n held) := by
  unfold State.noteDue
  try dsimp only
  repeat' (first
    | with_reducible assumption | with_reducible apply Keeps.ite | with_reducible apply Keeps.four
    | simp only [Keeps.mk_iff] | split | intro _)

theorem State.abortsSeen_keeps {base : State} (s : State) (hk : Keeps base s) :
    Keeps base (State.abortsSeen s) := by
  unfold State.abortsSeen
  try dsimp only
  repeat' (first
    | with_reducible assumption | with_reducible apply Keeps.four | simp only [Keeps.mk_iff] | split | intro _)

theorem State.belayDue_keeps {base : State} (s : State) (n : Nat) (held : Option Commit) (hk : Keeps base s) :
    Keeps base (State.belayDue s n held) := by
  unfold State.belayDue
  repeat' (first
    | with_reducible assumption | with_reducible apply State.noteDue_keeps
    | with_reducible apply State.showBelay_keeps | with_reducible apply State.maybeYield_keeps
    | with_reducible apply State.sendInstall_keeps | with_reducible apply State.abortsSeen_keeps
    | simp only [Keeps.mk_iff] | split | intro _)

end Sys2Proof.Machine
end

