-- ==== Sys2Proof/Laws/KeepsSched.lean ====
section
/-! SUPPORT. What the operations of Machine/Sched.lean keep (Laws/Keeps.lean). -/
set_option linter.all false
set_option Elab.async false

namespace Sys2Proof.Machine

theorem State.setHart_keeps {base : State} (s : State) (h : Nat) (x : HartS) (hk : Keeps base s) :
    Keeps base (State.setHart s h x) := by
  unfold State.setHart
  try dsimp only
  repeat' (first
    | with_reducible assumption | with_reducible apply Keeps.four | simp only [Keeps.mk_iff] | split | intro _)

theorem execIrqClaim_keeps {base : State} (m : Master) (s : State) (hk : Keeps base s) :
    ResKeeps base (execIrqClaim m s) := by
  unfold execIrqClaim
  try dsimp only
  repeat' (first
    | with_reducible assumption | with_reducible apply State.begin_keeps | with_reducible apply State.emit_keeps
    | with_reducible apply State.drawn_keeps | with_reducible apply Keeps.ite | with_reducible apply ResKeeps.ite
    | with_reducible apply ResKeeps.next | with_reducible apply ResKeeps.refused | with_reducible apply Keeps.four
    | simp only [Keeps.mk_iff] | split | intro _)

theorem execIrqComplete_keeps {base : State} (m : Master) (v : Word) (s : State) (hk : Keeps base s) :
    ResKeeps base (execIrqComplete m v s) := by
  unfold execIrqComplete
  try dsimp only
  repeat' (first
    | with_reducible assumption | with_reducible apply State.begin_keeps | with_reducible apply State.asWrite_keeps
    | with_reducible apply ResKeeps.next | with_reducible apply Keeps.four | simp only [Keeps.mk_iff] | split
    | intro _)

theorem execMtimerExpiry_keeps {base : State} (h : Nat) (s : State) (hk : Keeps base s) :
    ResKeeps base (execMtimerExpiry h s) := by
  unfold execMtimerExpiry
  try dsimp only
  repeat' (first
    | with_reducible assumption | with_reducible apply State.begin_keeps | with_reducible apply ResKeeps.next
    | with_reducible apply Keeps.four | simp only [Keeps.mk_iff] | split | intro _)

theorem State.showTrace_keeps {base : State} (s : State) (hk : Keeps base s) :
    Keeps base (State.showTrace s) := by
  unfold State.showTrace
  repeat' (first
    | with_reducible assumption | with_reducible apply State.setFld_keeps | simp only [Keeps.mk_iff] | split
    | intro _)

theorem State.traceItem_keeps {base : State} (s : State) (event hart queue eff tag seq : Nat) (hk : Keeps base s) :
    Keeps base (State.traceItem s event hart queue eff tag seq) := by
  unfold State.traceItem
  try dsimp only
  repeat' (first
    | with_reducible assumption | with_reducible apply State.event_keeps
    | with_reducible apply State.showTrace_keeps | with_reducible apply State.satInc_keeps
    | with_reducible apply State.irq_keeps | with_reducible apply Keeps.ite | with_reducible apply Keeps.four
    | simp only [Keeps.mk_iff] | split | intro _)

theorem State.traceOf_keeps {base : State} (s : State) (event hart : Nat) (i : SchedItem) (hk : Keeps base s) :
    Keeps base (State.traceOf s event hart i) := by
  unfold State.traceOf
  repeat' (first
    | with_reducible assumption | with_reducible apply State.traceItem_keeps
    | with_reducible apply State.event_keeps | simp only [Keeps.mk_iff] | split | intro _)

theorem State.showQueue_keeps {base : State} (s : State) (q : Nat) (hk : Keeps base s) :
    Keeps base (State.showQueue s q) := by
  unfold State.showQueue
  try dsimp only
  repeat' (first
    | with_reducible assumption | with_reducible apply State.setFlds_keeps | with_reducible apply State.maxFld_keeps
    | simp only [Keeps.mk_iff] | split | intro _)

theorem State.pushItem_keeps {base : State} (s : State) (h : Nat) (ws : List Nat) (hk : Keeps base s) :
    Keeps base (State.pushItem s h ws).1 := by
  unfold State.pushItem
  try dsimp only
  repeat' (first
    | with_reducible assumption | with_reducible apply State.showQueue_keeps
    | with_reducible apply State.traceOf_keeps | with_reducible apply State.inc_keeps
    | with_reducible apply State.irq_keeps | with_reducible apply State.traceItem_keeps
    | with_reducible apply State.drawn_keeps | with_reducible apply Keeps.ite | with_reducible apply Keeps.four
    | simp only [Keeps.mk_iff] | split | intro _)

theorem execSchedPush_keeps {base : State} (m : Master) (v : Word) (s : State) (hk : Keeps base s) :
    ResKeeps base (execSchedPush m v s) := by
  unfold execSchedPush
  try dsimp only
  repeat' (first
    | with_reducible assumption | with_reducible apply State.begin_keeps | with_reducible apply State.asWrite_keeps
    | with_reducible apply State.pushItem_keeps | with_reducible apply State.setHart_keeps
    | with_reducible apply Keeps.ite | with_reducible apply ResKeeps.ite | with_reducible apply ResKeeps.next
    | with_reducible apply ResKeeps.fault | with_reducible apply Keeps.four | simp only [Keeps.mk_iff] | split
    | intro _)

theorem State.postLine_keeps {base : State} (s : State) (line : Nat) (first : Bool) (e : Ecc) (hk : Keeps base s) :
    ResKeeps base (State.postLine s line first e) := by
  unfold State.postLine
  try dsimp only
  repeat' (first
    | with_reducible assumption | with_reducible apply State.inc_keeps | with_reducible apply State.irq_keeps
    | with_reducible apply State.pushItem_keeps | with_reducible apply Keeps.ite | with_reducible apply ResKeeps.ite
    | with_reducible apply ResKeeps.next | with_reducible apply ResKeeps.fault | with_reducible apply Keeps.four
    | with_reducible apply Keeps.fourMem | simp only [Keeps.mk_iff]
    | (refine fun (hm : Mems.wf _ = true) => ?_; simp only [Mems.wf_iff, State.drawn_mem] at hm ⊢; first | (simp only [hm, memWf_filter, memWf_memWrite, memWf_memClear, memWf_memPut, memWf_nil, and_self]; done) | (simp [hm]; done))
    | split | intro _)

theorem execIrqPost_keeps {base : State} (line : Nat) (e : Ecc) (s : State) (hk : Keeps base s) :
    ResKeeps base (execIrqPost line e s) := by
  unfold execIrqPost
  try dsimp only
  repeat' (first
    | with_reducible assumption | with_reducible apply State.begin_keeps | with_reducible apply State.postLine_keeps
    | with_reducible apply Keeps.ite | with_reducible apply ResKeeps.ite | with_reducible apply ResKeeps.next
    | simp only [Keeps.mk_iff] | split | intro _)

theorem execIrqPostRetry_keeps {base : State} (line : Nat) (e : Ecc) (s : State) (hk : Keeps base s) :
    ResKeeps base (execIrqPostRetry line e s) := by
  unfold execIrqPostRetry
  try dsimp only
  repeat' (first
    | with_reducible assumption | with_reducible apply State.begin_keeps | with_reducible apply State.postLine_keeps
    | with_reducible apply Keeps.ite | with_reducible apply ResKeeps.ite | with_reducible apply ResKeeps.next
    | simp only [Keeps.mk_iff] | split | intro _)

theorem State.unqueue_keeps {base : State} (s : State) (i : SchedItem) (hk : Keeps base s) :
    Keeps base (State.unqueue s i) := by
  unfold State.unqueue
  try dsimp only
  repeat' (first
    | with_reducible assumption | with_reducible apply Keeps.four | simp only [Keeps.mk_iff] | split | intro _)

theorem State.showSlots_keeps {base : State} (s : State) (h : Nat) (hk : Keeps base s) :
    Keeps base (State.showSlots s h) := by
  unfold State.showSlots
  repeat' (first
    | with_reducible assumption | with_reducible apply State.setFld_keeps | simp only [Keeps.mk_iff] | split
    | intro _)

theorem State.fillSlot_keeps {base : State} (s : State) (h : Nat) (hk : Keeps base s) :
    Keeps base (State.fillSlot s h) := by
  unfold State.fillSlot
  try dsimp only
  repeat' (first
    | with_reducible assumption | with_reducible apply State.unqueue_keeps
    | with_reducible apply State.setHart_keeps | with_reducible apply State.showQueue_keeps
    | with_reducible apply State.showSlots_keeps | with_reducible apply State.traceOf_keeps
    | with_reducible apply Keeps.ite | with_reducible apply Keeps.four | simp only [Keeps.mk_iff] | split | intro _)

theorem State.discardItem_keeps {base : State} (s : State) (h : Nat) (hk : Keeps base s) :
    Keeps base (State.discardItem s h) := by
  unfold State.discardItem
  try dsimp only
  repeat' (first
    | with_reducible assumption | with_reducible apply State.unqueue_keeps
    | with_reducible apply State.showQueue_keeps | with_reducible apply State.inc_keeps
    | with_reducible apply State.event_keeps | with_reducible apply State.traceOf_keeps
    | with_reducible apply Keeps.ite | simp only [Keeps.mk_iff] | split | intro _)

theorem execSchedDispatch_keeps {base : State} (h : Nat) (e : Ecc) (s : State) (hk : Keeps base s) :
    ResKeeps base (execSchedDispatch h e s) := by
  unfold execSchedDispatch
  try dsimp only
  repeat' (first
    | with_reducible assumption | with_reducible apply State.begin_keeps
    | with_reducible apply State.discardItem_keeps | with_reducible apply State.fillSlot_keeps
    | with_reducible apply ResKeeps.next | simp only [Keeps.mk_iff] | split | intro _)

theorem State.countWait_keeps {base : State} (s : State) (q w : Nat) (hk : Keeps base s) :
    Keeps base (State.countWait s q w) := by
  unfold State.countWait
  try dsimp only
  repeat' (first
    | with_reducible assumption | with_reducible apply Keeps.four | simp only [Keeps.mk_iff] | split | intro _)

theorem execSchedTake_keeps {base : State} (m : Master) (s : State) (hk : Keeps base s) :
    ResKeeps base (execSchedTake m s) := by
  unfold execSchedTake
  try dsimp only
  repeat' (first
    | with_reducible assumption | with_reducible apply State.begin_keeps | with_reducible apply State.emit_keeps
    | with_reducible apply State.setHart_keeps | with_reducible apply State.countWait_keeps
    | with_reducible apply State.inc_keeps | with_reducible apply State.showSlots_keeps
    | with_reducible apply State.showQueue_keeps | with_reducible apply State.traceOf_keeps
    | with_reducible apply Keeps.ite | with_reducible apply ResKeeps.ite | with_reducible apply ResKeeps.next
    | with_reducible apply ResKeeps.refused | with_reducible apply Keeps.four | simp only [Keeps.mk_iff] | split
    | intro _)

theorem State.markUrgent_keeps {base : State} (s : State) (seq : Nat) (hk : Keeps base s) :
    Keeps base (State.markUrgent s seq) := by
  unfold State.markUrgent
  try dsimp only
  repeat' (first
    | with_reducible assumption | with_reducible apply Keeps.ite | with_reducible apply Keeps.four
    | simp only [Keeps.mk_iff] | split | intro _)

theorem execSchedUrgent_keeps {base : State} (seq : Nat) (s : State) (hk : Keeps base s) :
    ResKeeps base (execSchedUrgent seq s) := by
  unfold execSchedUrgent
  try dsimp only
  repeat' (first
    | with_reducible assumption | with_reducible apply State.begin_keeps
    | with_reducible apply State.markUrgent_keeps | with_reducible apply State.setFlds_keeps
    | with_reducible apply State.inc_keeps | with_reducible apply State.irq_keeps
    | with_reducible apply State.traceOf_keeps | with_reducible apply ResKeeps.next
    | with_reducible apply Keeps.four | simp only [Keeps.mk_iff] | split | intro _)

theorem execSchedQflush_keeps {base : State} (m : Master) (v : Word) (s : State) (hk : Keeps base s) :
    ResKeeps base (execSchedQflush m v s) := by
  unfold execSchedQflush
  try dsimp only
  repeat' (first
    | with_reducible assumption | with_reducible apply State.begin_keeps | with_reducible apply State.asWrite_keeps
    | with_reducible apply State.setFld_keeps | with_reducible apply State.traceOf_keeps
    | with_reducible apply State.add_keeps | with_reducible apply State.showQueue_keeps
    | with_reducible apply Keeps.ite | with_reducible apply ResKeeps.ite | with_reducible apply ResKeeps.next
    | with_reducible apply Keeps.foldl | with_reducible apply Keeps.foldlFst | with_reducible apply Keeps.four
    | simp only [Keeps.mk_iff] | split | intro _)

theorem execSchedCkptSave_keeps {base : State} (m : Master) (s : State) (hk : Keeps base s) :
    ResKeeps base (execSchedCkptSave m s) := by
  unfold execSchedCkptSave
  try dsimp only
  repeat' (first
    | with_reducible assumption | with_reducible apply State.begin_keeps | with_reducible apply State.asWrite_keeps
    | with_reducible apply State.setFld_keeps | with_reducible apply ResKeeps.next | with_reducible apply Keeps.four
    | with_reducible apply Keeps.fourMem | simp only [Keeps.mk_iff]
    | (refine fun (hm : Mems.wf _ = true) => ?_; simp only [Mems.wf_iff, State.drawn_mem] at hm ⊢; first | (simp only [hm, memWf_filter, memWf_memWrite, memWf_memClear, memWf_memPut, memWf_nil, and_self]; done) | (simp [hm]; done))
    | split | intro _)

theorem State.ckptRestore_keeps {base : State} (s : State) (hk : Keeps base s) :
    Keeps base (State.ckptRestore s) := by
  unfold State.ckptRestore
  try dsimp only
  repeat' (first
    | with_reducible assumption | with_reducible apply State.setReg_keeps | with_reducible apply State.setFld_keeps
    | with_reducible apply Keeps.ite | with_reducible apply Keeps.foldl | with_reducible apply Keeps.foldlFst
    | simp only [Keeps.mk_iff] | split | intro _)

theorem execSchedCkptRestore_keeps {base : State} (m : Master) (s : State) (hk : Keeps base s) :
    ResKeeps base (execSchedCkptRestore m s) := by
  unfold execSchedCkptRestore
  try dsimp only
  repeat' (first
    | with_reducible assumption | with_reducible apply State.begin_keeps | with_reducible apply State.asWrite_keeps
    | with_reducible apply State.ckptRestore_keeps | with_reducible apply ResKeeps.next | simp only [Keeps.mk_iff]
    | split | intro _)

theorem State.popTrace_keeps {base : State} (s : State) (hk : Keeps base s) :
    Keeps base (State.popTrace s) := by
  unfold State.popTrace
  try dsimp only
  repeat' (first
    | with_reducible assumption | with_reducible apply State.setFld_keeps
    | with_reducible apply State.showTrace_keeps | with_reducible apply State.emit_keeps
    | with_reducible apply Keeps.four | simp only [Keeps.mk_iff] | split | intro _)

theorem execSchedTraceRead_keeps {base : State} (m : Master) (s : State) (hk : Keeps base s) :
    ResKeeps base (execSchedTraceRead m s) := by
  unfold execSchedTraceRead
  try dsimp only
  repeat' (first
    | with_reducible assumption | with_reducible apply State.begin_keeps | with_reducible apply State.popTrace_keeps
    | with_reducible apply State.emit_keeps | with_reducible apply Keeps.ite | with_reducible apply ResKeeps.ite
    | with_reducible apply ResKeeps.next | simp only [Keeps.mk_iff] | split | intro _)

theorem execSchedTraceClear_keeps {base : State} (m : Master) (s : State) (hk : Keeps base s) :
    ResKeeps base (execSchedTraceClear m s) := by
  unfold execSchedTraceClear
  try dsimp only
  repeat' (first
    | with_reducible assumption | with_reducible apply State.begin_keeps | with_reducible apply State.disarm_keeps
    | with_reducible apply State.setFld_keeps | with_reducible apply State.showTrace_keeps
    | with_reducible apply Keeps.ite | with_reducible apply ResKeeps.ite | with_reducible apply ResKeeps.next
    | with_reducible apply Keeps.four | simp only [Keeps.mk_iff] | split | intro _)

theorem execSchedQstateFault_keeps {base : State} (s : State) (hk : Keeps base s) :
    ResKeeps base (execSchedQstateFault s) := by
  unfold execSchedQstateFault
  repeat' (first
    | with_reducible assumption | with_reducible apply State.begin_keeps
    | with_reducible apply State.fenceBlock_keeps | with_reducible apply ResKeeps.next | simp only [Keeps.mk_iff]
    | split | intro _)

end Sys2Proof.Machine
end

