-- ==== Sys2Proof/Laws/KeepsUpd.lean ====
section
/-! SUPPORT. What the operations of Machine/Upd.lean keep (Laws/Keeps.lean). -/
set_option linter.all false
set_option Elab.async false

namespace Sys2Proof.Machine

theorem norPuts_wf : ∀ (bs : List Byte) (m : Bytes) (a : Nat), mapWf Config.norByte m = true →
    mapWf Config.norByte (norPuts m a bs) = true
  | [], _, _, h => h
  | b :: bs, m, a, h => norPuts_wf bs _ (a + 1) (mapWf_mapPut Config.norByte m a b h)

theorem State.norWrite_keeps {base : State} (s : State) (a : Nat) (bs : List Byte) (hk : Keeps base s) :
    Keeps base (State.norWrite s a bs) := by
  unfold State.norWrite
  apply State.wroteCode_keeps
  simp only [Keeps.mk_iff]
  apply Keeps.fourMem hk
  intro hm
  simp only [Mems.wf_iff] at hm ⊢
  exact ⟨hm.1, hm.2.1, hm.2.2.1, hm.2.2.2.1, hm.2.2.2.2.1, hm.2.2.2.2.2.1, norPuts_wf bs _ a hm.2.2.2.2.2.2⟩

theorem State.norErase_keeps {base : State} (s : State) (a n : Nat) (hk : Keeps base s) :
    Keeps base (State.norErase s a n) := by
  unfold State.norErase
  repeat' (first
    | with_reducible assumption | with_reducible apply State.norWrite_keeps | simp only [Keeps.mk_iff] | split
    | intro _)

theorem State.norSpoil_keeps {base : State} (s : State) (a n : Nat) (hk : Keeps base s) :
    Keeps base (State.norSpoil s a n) := by
  unfold State.norSpoil
  repeat' (first
    | with_reducible assumption | with_reducible apply State.norWrite_keeps | with_reducible apply State.drawn_keeps
    | simp only [Keeps.mk_iff] | split | intro _)

theorem State.writeBoot_keeps {base : State} (s : State) (recOk : Bool) (f : List Byte → List Byte) (hk : Keeps base s) :
    Keeps base (State.writeBoot s recOk f) := by
  unfold State.writeBoot
  try dsimp only
  repeat' (first
    | with_reducible assumption | with_reducible apply State.mramWrite_keeps
    | with_reducible apply State.setFld_keeps | with_reducible apply Keeps.ite | simp only [Keeps.mk_iff] | split
    | intro _)

theorem State.bootGo_keeps {base : State} (s : State) (r why : Nat) (hk : Keeps base s) :
    Keeps base (State.bootGo s r why) := by
  unfold State.bootGo
  try dsimp only
  repeat' (first
    | with_reducible assumption | with_reducible apply State.setFld_keeps | with_reducible apply Keeps.four
    | simp only [Keeps.mk_iff] | split | intro _)

theorem State.bootFallback_keeps {base : State} (s : State) (x why : Nat) (recOk : Bool) (hk : Keeps base s) :
    Keeps base (State.bootFallback s x why recOk) := by
  unfold State.bootFallback
  try dsimp only
  repeat' (first
    | with_reducible assumption | with_reducible apply State.writeBoot_keeps
    | with_reducible apply State.bootGo_keeps | with_reducible apply Keeps.ite | simp only [Keeps.mk_iff] | split
    | intro _)

theorem State.bootChoose_keeps {base : State} (s : State) (recOk : Bool) (hk : Keeps base s) :
    Keeps base (State.bootChoose s recOk) := by
  unfold State.bootChoose
  try dsimp only
  repeat' (first
    | with_reducible assumption | with_reducible apply State.bootGo_keeps
    | with_reducible apply State.writeBoot_keeps | with_reducible apply State.bootFallback_keeps
    | with_reducible apply Keeps.ite | with_reducible apply Keeps.four | simp only [Keeps.mk_iff] | split | intro _)

theorem State.jumpAll_keeps {base : State} (s : State) (entry : Nat) (hk : Keeps base s) :
    Keeps base (State.jumpAll s entry) := by
  unfold State.jumpAll
  try dsimp only
  repeat' (first
    | with_reducible assumption | with_reducible apply Keeps.four | simp only [Keeps.mk_iff] | split | intro _)

theorem State.bootJump_keeps {base : State} (s : State) (r : Nat) (hk : Keeps base s) :
    Keeps base (State.bootJump s r) := by
  unfold State.bootJump
  try dsimp only
  repeat' (first
    | with_reducible assumption | with_reducible apply State.jumpAll_keeps
    | with_reducible apply State.setFlds_keeps | with_reducible apply State.drawn_keeps
    | with_reducible apply Keeps.ite | with_reducible apply Keeps.four | with_reducible apply Keeps.fourMem
    | simp only [Keeps.mk_iff]
    | (refine fun (hm : Mems.wf _ = true) => ?_; simp only [Mems.wf_iff, State.drawn_mem] at hm ⊢; first | (simp only [hm, memWf_filter, memWf_memWrite, memWf_memClear, memWf_memPut, memWf_nil, and_self]; done) | (simp [hm]; done))
    | split | intro _)

theorem State.bootNone_keeps {base : State} (s : State) (hk : Keeps base s) :
    Keeps base (State.bootNone s) := by
  unfold State.bootNone
  try dsimp only
  repeat' (first
    | with_reducible assumption | with_reducible apply State.setFld_keeps | with_reducible apply Keeps.four
    | simp only [Keeps.mk_iff] | split | intro _)

theorem execBootImageChecked_keeps {base : State} (recOk : Bool) (s : State) (hk : Keeps base s) :
    ResKeeps base (execBootImageChecked recOk s) := by
  unfold execBootImageChecked
  try dsimp only
  repeat' (first
    | with_reducible assumption | with_reducible apply State.begin_keeps
    | with_reducible apply State.bootChoose_keeps | with_reducible apply State.bootJump_keeps
    | with_reducible apply State.bootNone_keeps | with_reducible apply State.bootFallback_keeps
    | with_reducible apply Keeps.ite | with_reducible apply ResKeeps.ite | with_reducible apply ResKeeps.next
    | simp only [Keeps.mk_iff] | split | intro _)

theorem State.updEnd_keeps {base : State} (s : State) (code step : Nat) (hk : Keeps base s) :
    Keeps base (State.updEnd s code step) := by
  unfold State.updEnd
  try dsimp only
  repeat' (first
    | with_reducible assumption | with_reducible apply State.setFlds_keeps | with_reducible apply State.inc_keeps
    | with_reducible apply State.irq_keeps | with_reducible apply Keeps.ite | with_reducible apply Keeps.four
    | simp only [Keeps.mk_iff] | split | intro _)

theorem State.closeTransfer_keeps {base : State} (s : State) (hk : Keeps base s) :
    Keeps base (State.closeTransfer s) := by
  unfold State.closeTransfer
  try dsimp only
  repeat' (first
    | with_reducible assumption | with_reducible apply State.setFld_keeps | with_reducible apply Keeps.four
    | simp only [Keeps.mk_iff] | split | intro _)

theorem State.openTransfer_keeps {base : State} (s : State) (session : Option Nat) (hk : Keeps base s) :
    Keeps base (State.openTransfer s session) := by
  unfold State.openTransfer
  try dsimp only
  repeat' (first
    | with_reducible assumption | with_reducible apply State.setFlds_keeps | with_reducible apply Keeps.four
    | simp only [Keeps.mk_iff] | split | intro _)

theorem State.updStart_keeps {base : State} (s : State) (k : State → State) (hk : Keeps base s)
    (hk : ∀ (x0 : State), Keeps base x0 → Keeps base (k x0)) :
    Keeps base (State.updStart s k) := by
  unfold State.updStart
  repeat' (first
    | with_reducible assumption | with_reducible apply hk | with_reducible apply State.setFld_keeps
    | with_reducible apply State.inc_keeps | with_reducible apply Keeps.ite | simp only [Keeps.mk_iff] | split
    | intro _)

theorem State.updRuns_keeps {base : State} (s : State) (op step : Nat) (hk : Keeps base s) :
    Keeps base (State.updRuns s op step) := by
  unfold State.updRuns
  try dsimp only
  repeat' (first
    | with_reducible assumption | with_reducible apply State.setFlds_keeps | with_reducible apply Keeps.four
    | simp only [Keeps.mk_iff] | split | intro _)

theorem State.checkHdr_keeps {base : State} (s : State) (hk : Keeps base s) :
    Keeps base (State.checkHdr s) := by
  unfold State.checkHdr
  try dsimp only
  repeat' (first
    | with_reducible assumption | with_reducible apply State.updStart_keeps
    | with_reducible apply State.updRuns_keeps | simp only [Keeps.mk_iff] | split | intro _)

theorem State.checkBody_keeps {base : State} (s : State) (hk : Keeps base s) :
    Keeps base (State.checkBody s) := by
  unfold State.checkBody
  try dsimp only
  repeat' (first
    | with_reducible assumption | with_reducible apply State.updStart_keeps
    | with_reducible apply State.updRuns_keeps | with_reducible apply State.updEnd_keeps
    | with_reducible apply Keeps.ite | simp only [Keeps.mk_iff] | split | intro _)

theorem State.program_keeps {base : State} (s : State) (recOk : Bool) (hk : Keeps base s) :
    Keeps base (State.program s recOk) := by
  unfold State.program
  try dsimp only
  repeat' (first
    | with_reducible assumption | with_reducible apply State.updStart_keeps
    | with_reducible apply State.writeBoot_keeps | with_reducible apply State.updRuns_keeps
    | with_reducible apply State.updEnd_keeps | with_reducible apply Keeps.ite | simp only [Keeps.mk_iff] | split
    | intro _)

theorem State.hdrDone_keeps {base : State} (s : State) (hk : Keeps base s) :
    Keeps base (State.hdrDone s) := by
  unfold State.hdrDone
  try dsimp only
  repeat' (first
    | with_reducible assumption | with_reducible apply State.blockReads_keeps
    | with_reducible apply State.updEnd_keeps | with_reducible apply State.openTransfer_keeps
    | with_reducible apply Keeps.ite | simp only [Keeps.mk_iff] | split | intro _)

theorem State.bodyDone_keeps {base : State} (s : State) (hk : Keeps base s) :
    Keeps base (State.bodyDone s) := by
  unfold State.bodyDone
  try dsimp only
  repeat' (first
    | with_reducible assumption | with_reducible apply State.blockReads_keeps
    | with_reducible apply State.setFld_keeps | with_reducible apply State.updEnd_keeps
    | with_reducible apply State.closeTransfer_keeps | with_reducible apply Keeps.ite
    | with_reducible apply Keeps.four | simp only [Keeps.mk_iff] | split | intro _)

theorem State.programDone_keeps {base : State} (s : State) (dev recOk : Bool) (hk : Keeps base s) :
    Keeps base (State.programDone s dev recOk) := by
  unfold State.programDone
  try dsimp only
  repeat' (first
    | with_reducible assumption | with_reducible apply State.blockReads_keeps | with_reducible apply State.add_keeps
    | with_reducible apply State.norErase_keeps | with_reducible apply State.norWrite_keeps
    | with_reducible apply State.writeBoot_keeps | with_reducible apply State.setFld_keeps
    | with_reducible apply State.updEnd_keeps | with_reducible apply State.closeTransfer_keeps
    | with_reducible apply State.norSpoil_keeps | with_reducible apply Keeps.ite | simp only [Keeps.mk_iff] | split
    | intro _)

theorem State.updBreak_keeps {base : State} (s : State) (hk : Keeps base s) :
    Keeps base (State.updBreak s) := by
  unfold State.updBreak
  try dsimp only
  repeat' (first
    | with_reducible assumption | with_reducible apply State.norSpoil_keeps
    | with_reducible apply State.setFld_keeps | with_reducible apply Keeps.ite | with_reducible apply Keeps.four
    | simp only [Keeps.mk_iff] | split | intro _)

theorem execUpdCheckHdr_keeps {base : State} (m : Master) (s : State) (hk : Keeps base s) :
    ResKeeps base (execUpdCheckHdr m s) := by
  unfold execUpdCheckHdr
  try dsimp only
  repeat' (first
    | with_reducible assumption | with_reducible apply State.begin_keeps | with_reducible apply State.asWrite_keeps
    | with_reducible apply State.checkHdr_keeps | with_reducible apply ResKeeps.next | simp only [Keeps.mk_iff]
    | split | intro _)

theorem execUpdCheckBody_keeps {base : State} (m : Master) (s : State) (hk : Keeps base s) :
    ResKeeps base (execUpdCheckBody m s) := by
  unfold execUpdCheckBody
  try dsimp only
  repeat' (first
    | with_reducible assumption | with_reducible apply State.begin_keeps | with_reducible apply State.asWrite_keeps
    | with_reducible apply State.checkBody_keeps | with_reducible apply ResKeeps.next | simp only [Keeps.mk_iff]
    | split | intro _)

theorem execUpdProgram_keeps {base : State} (m : Master) (recOk : Bool) (s : State) (hk : Keeps base s) :
    ResKeeps base (execUpdProgram m recOk s) := by
  unfold execUpdProgram
  try dsimp only
  repeat' (first
    | with_reducible assumption | with_reducible apply State.begin_keeps | with_reducible apply State.asWrite_keeps
    | with_reducible apply State.program_keeps | with_reducible apply ResKeeps.next | simp only [Keeps.mk_iff]
    | split | intro _)

theorem State.updAbort_keeps {base : State} (s : State) (hk : Keeps base s) :
    Keeps base (State.updAbort s) := by
  unfold State.updAbort
  repeat' (first
    | with_reducible assumption | with_reducible apply State.updBreak_keeps | with_reducible apply State.irq_keeps
    | with_reducible apply Keeps.ite | simp only [Keeps.mk_iff] | split | intro _)

theorem execUpdAbort_keeps {base : State} (m : Master) (s : State) (hk : Keeps base s) :
    ResKeeps base (execUpdAbort m s) := by
  unfold execUpdAbort
  try dsimp only
  repeat' (first
    | with_reducible assumption | with_reducible apply State.begin_keeps | with_reducible apply State.asWrite_keeps
    | with_reducible apply State.updAbort_keeps | with_reducible apply ResKeeps.next | simp only [Keeps.mk_iff]
    | split | intro _)

theorem execUpdOperationDone_keeps {base : State} (dev recOk : Bool) (s : State) (hk : Keeps base s) :
    ResKeeps base (execUpdOperationDone dev recOk s) := by
  unfold execUpdOperationDone
  try dsimp only
  repeat' (first
    | with_reducible assumption | with_reducible apply State.begin_keeps | with_reducible apply State.hdrDone_keeps
    | with_reducible apply State.bodyDone_keeps | with_reducible apply State.programDone_keeps
    | with_reducible apply ResKeeps.next | simp only [Keeps.mk_iff] | split | intro _)

theorem State.confirm_keeps {base : State} (s : State) (recOk : Bool) (hk : Keeps base s) :
    Keeps base (State.confirm s recOk) := by
  unfold State.confirm
  try dsimp only
  repeat' (first
    | with_reducible assumption | with_reducible apply State.writeBoot_keeps
    | with_reducible apply State.setFld_keeps | with_reducible apply Keeps.ite | simp only [Keeps.mk_iff] | split
    | intro _)

theorem execUpdConfirm_keeps {base : State} (m : Master) (v : Word) (recOk : Bool) (s : State) (hk : Keeps base s) :
    ResKeeps base (execUpdConfirm m v recOk s) := by
  unfold execUpdConfirm
  try dsimp only
  repeat' (first
    | with_reducible assumption | with_reducible apply State.begin_keeps | with_reducible apply State.asArmed_keeps
    | with_reducible apply State.confirm_keeps | with_reducible apply Keeps.ite | with_reducible apply ResKeeps.ite
    | with_reducible apply ResKeeps.next | simp only [Keeps.mk_iff] | split | intro _)

theorem execUpdHealthHalf_keeps {base : State} (s : State) (hk : Keeps base s) :
    ResKeeps base (execUpdHealthHalf s) := by
  unfold execUpdHealthHalf
  try dsimp only
  repeat' (first
    | with_reducible assumption | with_reducible apply State.begin_keeps | with_reducible apply State.setFld_keeps
    | with_reducible apply State.irq_keeps | with_reducible apply Keeps.ite | with_reducible apply ResKeeps.ite
    | with_reducible apply ResKeeps.next | with_reducible apply Keeps.four | simp only [Keeps.mk_iff] | split
    | intro _)

theorem execUpdBootreq_keeps {base : State} (m : Master) (v : Word) (s : State) (hk : Keeps base s) :
    ResKeeps base (execUpdBootreq m v s) := by
  unfold execUpdBootreq
  try dsimp only
  repeat' (first
    | with_reducible assumption | with_reducible apply State.begin_keeps | with_reducible apply State.asArmed_keeps
    | with_reducible apply Keeps.ite | with_reducible apply ResKeeps.ite | with_reducible apply ResKeeps.next
    | with_reducible apply Keeps.four | simp only [Keeps.mk_iff] | split | intro _)

theorem State.armLocal_keeps {base : State} (s : State) (hk : Keeps base s) :
    Keeps base (State.armLocal s) := by
  unfold State.armLocal
  repeat' (first
    | with_reducible assumption | with_reducible apply State.armActivation_keeps | simp only [Keeps.mk_iff] | split
    | intro _)

theorem State.disarmActivation_keeps {base : State} (s : State) (hk : Keeps base s) :
    Keeps base (State.disarmActivation s) := by
  unfold State.disarmActivation
  repeat' (first
    | with_reducible assumption | with_reducible apply State.setFld_keeps | with_reducible apply State.irq_keeps
    | simp only [Keeps.mk_iff] | split | intro _)

theorem execUpdActArm_keeps {base : State} (m : Master) (s : State) (hk : Keeps base s) :
    ResKeeps base (execUpdActArm m s) := by
  unfold execUpdActArm
  try dsimp only
  repeat' (first
    | with_reducible assumption | with_reducible apply State.begin_keeps | with_reducible apply State.asWrite_keeps
    | with_reducible apply State.armLocal_keeps | with_reducible apply ResKeeps.next | simp only [Keeps.mk_iff]
    | split | intro _)

theorem execUpdActDisarm_keeps {base : State} (m : Master) (s : State) (hk : Keeps base s) :
    ResKeeps base (execUpdActDisarm m s) := by
  unfold execUpdActDisarm
  try dsimp only
  repeat' (first
    | with_reducible assumption | with_reducible apply State.begin_keeps | with_reducible apply State.asWrite_keeps
    | with_reducible apply State.disarmActivation_keeps | with_reducible apply ResKeeps.next
    | simp only [Keeps.mk_iff] | split | intro _)

theorem State.sendActivate_keeps {base : State} (s : State) (frame version : Nat) (hk : Keeps base s) :
    Keeps base (State.sendActivate s frame version).1 := by
  unfold State.sendActivate
  try dsimp only
  repeat' (first
    | with_reducible assumption | with_reducible apply State.sendParty_keeps
    | with_reducible apply State.armActivation_keeps | with_reducible apply Keeps.ite | simp only [Keeps.mk_iff]
    | split | intro _)

theorem State.pactSend_keeps {base : State} (s : State) (hk : Keeps base s) :
    Keeps base (State.pactSend s) := by
  unfold State.pactSend
  try dsimp only
  repeat' (first
    | with_reducible assumption | with_reducible apply State.sendActivate_keeps
    | with_reducible apply State.setFld_keeps | simp only [Keeps.mk_iff] | split | intro _)

theorem execUpdPactSend_keeps {base : State} (m : Master) (s : State) (hk : Keeps base s) :
    ResKeeps base (execUpdPactSend m s) := by
  unfold execUpdPactSend
  try dsimp only
  repeat' (first
    | with_reducible assumption | with_reducible apply State.begin_keeps | with_reducible apply State.asWrite_keeps
    | with_reducible apply State.pactSend_keeps | with_reducible apply ResKeeps.next | simp only [Keeps.mk_iff]
    | split | intro _)

theorem State.flashEnd_keeps {base : State} (s : State) (res : Nat) (hk : Keeps base s) :
    Keeps base (State.flashEnd s res) := by
  unfold State.flashEnd
  try dsimp only
  repeat' (first
    | with_reducible assumption | with_reducible apply State.setFlds_keeps | with_reducible apply State.irq_keeps
    | with_reducible apply State.inc_keeps | with_reducible apply Keeps.ite | with_reducible apply Keeps.four
    | simp only [Keeps.mk_iff] | split | intro _)

theorem State.flashGo_keeps {base : State} (s : State) (op : Nat) (v : Word) (hk : Keeps base s) :
    ResKeeps base (State.flashGo s op v) := by
  unfold State.flashGo
  try dsimp only
  repeat' (first
    | with_reducible assumption | with_reducible apply State.setFlds_keeps | with_reducible apply State.setFld_keeps
    | with_reducible apply State.inc_keeps | with_reducible apply State.irq_keeps | with_reducible apply Keeps.ite
    | with_reducible apply ResKeeps.ite | with_reducible apply ResKeeps.next | with_reducible apply ResKeeps.fault
    | with_reducible apply Keeps.four | simp only [Keeps.mk_iff] | split | intro _)

theorem execFlashErase_keeps {base : State} (m : Master) (v : Word) (s : State) (hk : Keeps base s) :
    ResKeeps base (execFlashErase m v s) := by
  unfold execFlashErase
  try dsimp only
  repeat' (first
    | with_reducible assumption | with_reducible apply State.begin_keeps | with_reducible apply State.asWrite_keeps
    | with_reducible apply State.flashGo_keeps | with_reducible apply ResKeeps.next | simp only [Keeps.mk_iff]
    | split | intro _)

theorem execFlashProgram_keeps {base : State} (m : Master) (v : Word) (s : State) (hk : Keeps base s) :
    ResKeeps base (execFlashProgram m v s) := by
  unfold execFlashProgram
  try dsimp only
  repeat' (first
    | with_reducible assumption | with_reducible apply State.begin_keeps | with_reducible apply State.asWrite_keeps
    | with_reducible apply State.flashGo_keeps | with_reducible apply ResKeeps.next | simp only [Keeps.mk_iff]
    | split | intro _)

theorem execFlashVerify_keeps {base : State} (m : Master) (v : Word) (s : State) (hk : Keeps base s) :
    ResKeeps base (execFlashVerify m v s) := by
  unfold execFlashVerify
  try dsimp only
  repeat' (first
    | with_reducible assumption | with_reducible apply State.begin_keeps | with_reducible apply State.asWrite_keeps
    | with_reducible apply State.flashGo_keeps | with_reducible apply ResKeeps.next | simp only [Keeps.mk_iff]
    | split | intro _)

theorem execFlashDone_keeps {base : State} (dev : Bool) (s : State) (hk : Keeps base s) :
    ResKeeps base (execFlashDone dev s) := by
  unfold execFlashDone
  try dsimp only
  repeat' (first
    | with_reducible assumption | with_reducible apply State.begin_keeps | with_reducible apply State.flashEnd_keeps
    | with_reducible apply State.blockReads_keeps | with_reducible apply State.add_keeps
    | with_reducible apply State.norErase_keeps | with_reducible apply State.norSpoil_keeps
    | with_reducible apply State.norWrite_keeps | with_reducible apply Keeps.ite | with_reducible apply ResKeeps.ite
    | with_reducible apply ResKeeps.next | simp only [Keeps.mk_iff] | split | intro _)

theorem State.flashBreak_keeps {base : State} (s : State) (hk : Keeps base s) :
    Keeps base (State.flashBreak s) := by
  unfold State.flashBreak
  try dsimp only
  repeat' (first
    | with_reducible assumption | with_reducible apply State.norSpoil_keeps
    | with_reducible apply State.setFld_keeps | with_reducible apply Keeps.four | simp only [Keeps.mk_iff] | split
    | intro _)

end Sys2Proof.Machine
end

