-- ==== Sys2Proof/Laws/KeepsFrame.lean ====
section
/-! SUPPORT. What the operations of Machine/Frame.lean keep (Laws/Keeps.lean). -/
set_option linter.all false
set_option Elab.async false

namespace Sys2Proof.Machine

theorem State.noteConflict_keeps {base : State} (s : State) (n : Nat) (hk : Keeps base s) :
    Keeps base (State.noteConflict s n) := by
  unfold State.noteConflict
  try dsimp only
  repeat' (first
    | with_reducible assumption | with_reducible apply State.inc_keeps | with_reducible apply State.irq_keeps
    | with_reducible apply Keeps.ite | simp only [Keeps.mk_iff] | split | intro _)

theorem State.followSummit_keeps {base : State} (s : State) (used : Option Commit) (hk : Keeps base s) :
    Keeps base (State.followSummit s used) := by
  unfold State.followSummit
  try dsimp only
  repeat' (first
    | with_reducible assumption | with_reducible apply State.setFld_keeps | with_reducible apply State.irq_keeps
    | with_reducible apply Keeps.ite | with_reducible apply Keeps.four | simp only [Keeps.mk_iff] | split | intro _)

theorem State.hearOther_keeps {base : State} (s : State) (n : Nat) (hk : Keeps base s) :
    Keeps base (State.hearOther s n) := by
  unfold State.hearOther
  try dsimp only
  repeat' (first
    | with_reducible assumption | with_reducible apply Keeps.ite | with_reducible apply Keeps.four
    | simp only [Keeps.mk_iff] | split | intro _)

theorem State.sendClosed_keeps {base : State} (s : State) (n : Nat) (hk : Keeps base s) :
    Keeps base (State.sendClosed s n) := by
  unfold State.sendClosed
  try dsimp only
  repeat' (first
    | with_reducible assumption | with_reducible apply State.sendCommit_keeps | with_reducible apply Keeps.foldl
    | with_reducible apply Keeps.foldlFst | simp only [Keeps.mk_iff] | split | intro _)

theorem State.becomeSummit_keeps {base : State} (s : State) (n : Nat) (hk : Keeps base s) :
    Keeps base (State.becomeSummit s n) := by
  unfold State.becomeSummit
  try dsimp only
  repeat' (first
    | with_reducible assumption | with_reducible apply State.setFld_keeps | with_reducible apply State.irq_keeps
    | with_reducible apply State.sendClosed_keeps | with_reducible apply Keeps.four | simp only [Keeps.mk_iff]
    | split | intro _)

theorem State.standbyWatch_keeps {base : State} (s : State) (n : Nat) (used : Option Commit) (hk : Keeps base s) :
    Keeps base (State.standbyWatch s n used) := by
  unfold State.standbyWatch
  try dsimp only
  repeat' (first
    | with_reducible assumption | with_reducible apply State.inc_keeps | with_reducible apply State.record_keeps
    | with_reducible apply State.becomeSummit_keeps | with_reducible apply Keeps.ite
    | with_reducible apply Keeps.four | simp only [Keeps.mk_iff] | split | intro _)

theorem State.noteSwitch_keeps {base : State} (s : State) (t : Timing) (n : Nat) (used : Option Commit) (hk : Keeps base s) :
    Keeps base (State.noteSwitch s t n used) := by
  unfold State.noteSwitch
  try dsimp only
  repeat' (first
    | with_reducible assumption | with_reducible apply Keeps.ite | with_reducible apply Keeps.four
    | simp only [Keeps.mk_iff] | split | intro _)

theorem State.noteTorn_keeps {base : State} (s : State) (torn : Option Nat) (hk : Keeps base s) :
    Keeps base (State.noteTorn s torn) := by
  unfold State.noteTorn
  try dsimp only
  repeat' (first
    | with_reducible assumption | with_reducible apply State.inc_keeps | with_reducible apply State.event_keeps
    | simp only [Keeps.mk_iff] | split | intro _)

theorem State.noteLoss_keeps {base : State} (s : State) (used : Option Commit) (hk : Keeps base s) :
    Keeps base (State.noteLoss s used) := by
  unfold State.noteLoss
  try dsimp only
  repeat' (first
    | with_reducible assumption | with_reducible apply State.setFlds_keeps | with_reducible apply State.satInc_keeps
    | with_reducible apply State.inc_keeps | with_reducible apply State.event_keeps | simp only [Keeps.mk_iff]
    | split | intro _)

theorem State.noteScree_keeps {base : State} (s : State) (source : Nat) (hk : Keeps base s) :
    Keeps base (State.noteScree s source) := by
  unfold State.noteScree
  try dsimp only
  repeat' (first
    | with_reducible assumption | with_reducible apply State.irq_keeps | with_reducible apply Keeps.ite
    | simp only [Keeps.mk_iff] | split | intro _)

theorem State.noteScreeUe_keeps {base : State} (s before : State) (hk : Keeps base s) :
    Keeps base (State.noteScreeUe s before) := by
  unfold State.noteScreeUe
  repeat' (first
    | with_reducible assumption | with_reducible apply State.irq_keeps | with_reducible apply Keeps.ite
    | simp only [Keeps.mk_iff] | split | intro _)

theorem State.settle_keeps {base : State} (s : State) (t : Timing) (n : Nat) (hk : Keeps base s) :
    Keeps base (State.settle s t n) := by
  unfold State.settle
  try dsimp only
  repeat' (first
    | with_reducible assumption | with_reducible apply State.noteConflict_keeps
    | with_reducible apply State.noteLoss_keeps | with_reducible apply State.hearOther_keeps
    | with_reducible apply State.followSummit_keeps | with_reducible apply State.noteSwitch_keeps
    | with_reducible apply State.noteScree_keeps | with_reducible apply State.freeBuf_keeps
    | with_reducible apply State.startBurst_keeps | with_reducible apply State.noteScreeUe_keeps
    | with_reducible apply State.belayDue_keeps | with_reducible apply State.standbyWatch_keeps
    | with_reducible apply Keeps.ite | with_reducible apply Keeps.four | simp only [Keeps.mk_iff] | split | intro _)

theorem execCommitDue_keeps {base : State} (n : Nat) (s : State) (hk : Keeps base s) :
    ResKeeps base (execCommitDue n s) := by
  unfold execCommitDue
  try dsimp only
  repeat' (first
    | with_reducible assumption | with_reducible apply State.begin_keeps | with_reducible apply State.atTime_keeps
    | with_reducible apply State.settle_keeps | with_reducible apply Keeps.ite | with_reducible apply ResKeeps.ite
    | with_reducible apply ResKeeps.next | simp only [Keeps.mk_iff] | split | intro _)

theorem State.takeNet_keeps {base : State} (s : State) (a : Nat) (p : Port) (hk : Keeps base s) :
    Keeps base (State.takeNet s a p) := by
  unfold State.takeNet
  try dsimp only
  repeat' (first
    | with_reducible assumption | with_reducible apply State.takeSection_keeps
    | with_reducible apply State.loadRange_keeps' | with_reducible apply State.dropLink_keeps
    | with_reducible apply State.startAcquire_keeps | with_reducible apply State.stopPort_keeps
    | with_reducible apply Keeps.ite | simp only [Keeps.mk_iff] | split | intro _)

theorem State.takeStrands_keeps {base : State} (s : State) (a : Nat) (hk : Keeps base s) :
    Keeps base (State.takeStrands s a) := by
  unfold State.takeStrands
  try dsimp only
  repeat' (first
    | with_reducible assumption | with_reducible apply State.takeSection_keeps
    | with_reducible apply State.loadRange_keeps' | with_reducible apply State.releaseGroup_keeps
    | with_reducible apply Keeps.ite | with_reducible apply Keeps.foldl | with_reducible apply Keeps.foldlFst
    | simp only [Keeps.mk_iff] | split | intro _)

theorem State.takeRailSection_keeps {base : State} (s : State) (a : Nat) (hk : Keeps base s) :
    Keeps base (State.takeRailSection s a) := by
  unfold State.takeRailSection
  try dsimp only
  repeat' (first
    | with_reducible assumption | with_reducible apply State.takeSection_keeps
    | with_reducible apply State.loadRange_keeps' | with_reducible apply State.setFld_keeps
    | simp only [Keeps.mk_iff] | split | intro _)

theorem State.loadMeter_keeps {base : State} (s : State) (a : Nat) (hk : Keeps base s) :
    Keeps base (State.loadMeter s a) := by
  unfold State.loadMeter
  try dsimp only
  repeat' (first
    | with_reducible assumption | with_reducible apply State.takeSection_keeps
    | with_reducible apply State.loadRange_keeps' | simp only [Keeps.mk_iff] | split | intro _)

theorem State.meterSource_keeps {base : State} (s : State) (a : Nat) (hk : Keeps base s) :
    Keeps base (State.meterSource s a) := by
  unfold State.meterSource
  try dsimp only
  repeat' (first
    | with_reducible assumption | with_reducible apply State.setFld_keeps | with_reducible apply Keeps.ite
    | simp only [Keeps.mk_iff] | split | intro _)

theorem State.takeMeter_keeps {base : State} (s : State) (a : Nat) (hk : Keeps base s) :
    Keeps base (State.takeMeter s a) := by
  unfold State.takeMeter
  try dsimp only
  repeat' (first
    | with_reducible assumption | with_reducible apply State.loadMeter_keeps
    | with_reducible apply State.meterSource_keeps | with_reducible apply State.closeWindows_keeps
    | with_reducible apply State.meterSwitch_keeps | with_reducible apply Keeps.ite | simp only [Keeps.mk_iff]
    | split | intro _)

theorem State.takeBank_keeps {base : State} (s : State) (b : Bank) (hk : Keeps base s) :
    Keeps base (State.takeBank s b) := by
  unfold State.takeBank
  try dsimp only
  repeat' (first
    | with_reducible assumption | with_reducible apply State.loadRange_keeps'
    | with_reducible apply State.fenceBlock_keeps | with_reducible apply Keeps.ite | simp only [Keeps.mk_iff]
    | split | intro _)

theorem State.takeSections_keeps {base : State} (s : State) (a : Nat) (hk : Keeps base s) :
    Keeps base (State.takeSections s a) := by
  unfold State.takeSections
  try dsimp only
  repeat' (first
    | with_reducible assumption | with_reducible apply State.takeNet_keeps
    | with_reducible apply State.takeSection_keeps | with_reducible apply State.loadRange_keeps'
    | with_reducible apply State.loadWords_keeps | with_reducible apply State.setFlag_keeps
    | with_reducible apply State.deriveScree_keeps | with_reducible apply State.takeStrands_keeps
    | with_reducible apply State.takeRailSection_keeps | with_reducible apply State.takeMeter_keeps
    | simp only [Keeps.mk_iff] | split | intro _)

theorem State.screeChanged_keeps {base : State} (s before : State) (hk : Keeps base s) :
    Keeps base (State.screeChanged s before) := by
  unfold State.screeChanged
  try dsimp only
  repeat' (first
    | with_reducible assumption | with_reducible apply State.setFld_keeps | with_reducible apply Keeps.ite
    | with_reducible apply Keeps.four | simp only [Keeps.mk_iff] | split | intro _)

theorem State.takeSlot_keeps {base : State} (s : State) (t : Timing) (k n : Nat) (hk : Keeps base s) :
    Keeps base (State.takeSlot s t k n) := by
  unfold State.takeSlot
  try dsimp only
  repeat' (first
    | with_reducible assumption | with_reducible apply State.loadBank_keeps
    | with_reducible apply State.setSlotState_keeps | with_reducible apply State.setFlds_keeps
    | with_reducible apply Keeps.ite | with_reducible apply Keeps.four | simp only [Keeps.mk_iff] | split | intro _)

theorem State.takeBanks_keeps {base : State} (s : State) (hk : Keeps base s) :
    Keeps base (State.takeBanks s) := by
  unfold State.takeBanks
  try dsimp only
  repeat' (first
    | with_reducible assumption | with_reducible apply State.takeBank_keeps | simp only [Keeps.mk_iff] | split
    | intro _)

theorem State.takeUnits_keeps {base : State} (s old : State) (k : Nat) (hk : Keeps base s) :
    Keeps base (State.takeUnits s old k) := by
  unfold State.takeUnits
  repeat' (first
    | with_reducible assumption | with_reducible apply State.takeSections_keeps
    | with_reducible apply State.takeBanks_keeps | with_reducible apply State.takePtp_keeps
    | with_reducible apply State.takeGovPart_keeps | simp only [Keeps.mk_iff] | split | intro _)

theorem State.takeEffect_keeps {base : State} (s : State) (t : Timing) (k n : Nat) (hk : Keeps base s) :
    Keeps base (State.takeEffect s t k n) := by
  unfold State.takeEffect
  try dsimp only
  repeat' (first
    | with_reducible assumption | with_reducible apply State.takeSlot_keeps
    | with_reducible apply State.takeUnits_keeps | with_reducible apply State.switchRail_keeps
    | with_reducible apply State.screeChanged_keeps | with_reducible apply State.slotsChanged_keeps
    | with_reducible apply State.matchAnnounce_keeps | with_reducible apply State.irq_keeps
    | with_reducible apply Keeps.foldl | with_reducible apply Keeps.foldlFst | simp only [Keeps.mk_iff] | split
    | intro _)

theorem State.retireOld_keeps {base : State} (s : State) (hk : Keeps base s) :
    Keeps base (State.retireOld s) := by
  unfold State.retireOld
  try dsimp only
  repeat' (first
    | with_reducible assumption | with_reducible apply State.setSlotState_keeps
    | with_reducible apply State.slotsChanged_keeps | with_reducible apply Keeps.ite
    | with_reducible apply Keeps.four | simp only [Keeps.mk_iff] | split | intro _)

theorem State.tornUntil_keeps {base : State} (s : State) (f : Nat) (hk : Keeps base s) :
    Keeps base (State.tornUntil s f) := by
  unfold State.tornUntil
  try dsimp only
  repeat' (first
    | with_reducible assumption | with_reducible apply Keeps.four | simp only [Keeps.mk_iff] | split | intro _)

theorem State.applyInstall_keeps {base : State} (s : State) (t : Timing) (n : Nat) (hk : Keeps base s) :
    Keeps base (State.applyInstall s t n) := by
  unfold State.applyInstall
  try dsimp only
  repeat' (first
    | with_reducible assumption | with_reducible apply State.installSlots_keeps
    | with_reducible apply State.takeEffect_keeps | with_reducible apply State.tornUntil_keeps
    | with_reducible apply State.dropRepeat_keeps | with_reducible apply State.slotsChanged_keeps
    | with_reducible apply State.makeReady_keeps | with_reducible apply Keeps.ite | simp only [Keeps.mk_iff] | split
    | intro _)

theorem State.latchEnergy_keeps {base : State} (s : State) (t : Timing) (n : Nat) (hk : Keeps base s) :
    Keeps base (State.latchEnergy s t n) := by
  unfold State.latchEnergy
  try dsimp only
  repeat' (first
    | with_reducible assumption | with_reducible apply State.energyAdd_keeps
    | with_reducible apply State.govSnapshot_keeps | with_reducible apply State.meterSnapshot_keeps
    | with_reducible apply Keeps.ite | simp only [Keeps.mk_iff] | split | intro _)

theorem State.beginSlot_keeps {base : State} (s : State) (n : Nat) (hk : Keeps base s) :
    Keeps base (State.beginSlot s n) := by
  unfold State.beginSlot
  try dsimp only
  repeat' (first
    | with_reducible assumption | with_reducible apply State.setFld_keeps
    | with_reducible apply State.setFrame_keeps | with_reducible apply State.setFlds_keeps
    | with_reducible apply State.noteTorn_keeps | with_reducible apply Keeps.ite | with_reducible apply Keeps.four
    | simp only [Keeps.mk_iff] | split | intro _)

theorem State.stepOver_keeps {base : State} (s : State) (t : Timing) (n : Nat) (hk : Keeps base s) :
    Keeps base (State.stepOver s t n) := by
  unfold State.stepOver
  try dsimp only
  repeat' (first
    | with_reducible assumption | with_reducible apply State.add_keeps | with_reducible apply State.freeBuf_keeps
    | with_reducible apply State.takeEffect_keeps | with_reducible apply Keeps.ite
    | with_reducible apply Keeps.foldl | with_reducible apply Keeps.foldlFst | with_reducible apply Keeps.four
    | simp only [Keeps.mk_iff] | split | intro _)

theorem State.stepBack_keeps {base : State} (s : State) (hk : Keeps base s) :
    Keeps base (State.stepBack s) := by
  unfold State.stepBack
  try dsimp only
  repeat' (first
    | with_reducible assumption | with_reducible apply State.setFld_keeps | with_reducible apply Keeps.four
    | simp only [Keeps.mk_iff] | split | intro _)

theorem State.roleBoundary_keeps {base : State} (s : State) (hk : Keeps base s) :
    Keeps base (State.roleBoundary s) := by
  unfold State.roleBoundary
  try dsimp only
  repeat' (first
    | with_reducible assumption | with_reducible apply State.setFlds_keeps | with_reducible apply State.irq_keeps
    | with_reducible apply State.setFld_keeps | with_reducible apply Keeps.ite | with_reducible apply Keeps.four
    | simp only [Keeps.mk_iff] | split | intro _)

theorem State.pruneFigures_keeps {base : State} (s : State) (n : Nat) (hk : Keeps base s) :
    Keeps base (State.pruneFigures s n) := by
  unfold State.pruneFigures
  try dsimp only
  repeat' (first
    | with_reducible assumption | with_reducible apply Keeps.four | simp only [Keeps.mk_iff] | split | intro _)

theorem State.mediaGone_keeps {base : State} (s : State) (gone : Bool) (hk : Keeps base s) :
    Keeps base (State.mediaGone s gone) := by
  unfold State.mediaGone
  try dsimp only
  repeat' (first
    | with_reducible assumption | with_reducible apply State.setNet_keeps
    | with_reducible apply State.rejoinBoth_keeps | with_reducible apply Keeps.foldl
    | with_reducible apply Keeps.foldlFst | with_reducible apply Keeps.four | simp only [Keeps.mk_iff] | split
    | intro _)

theorem State.wdtLeft_keeps {base : State} (s : State) (ms : Nat) (hk : Keeps base s) :
    Keeps base (State.wdtLeft s ms) := by
  unfold State.wdtLeft
  try dsimp only
  repeat' (first
    | with_reducible assumption | with_reducible apply State.setFld_keeps | with_reducible apply Keeps.four
    | simp only [Keeps.mk_iff] | split | intro _)

theorem State.resumeRun_keeps {base : State} (s : State) (lp n : Nat) (hk : Keeps base s) :
    Keeps base (State.resumeRun s lp n) := by
  unfold State.resumeRun
  try dsimp only
  repeat' (first
    | with_reducible assumption | with_reducible apply State.setFlds_keeps
    | with_reducible apply State.wdtLeft_keeps | with_reducible apply State.irq_keeps
    | with_reducible apply State.railsReturn_keeps | with_reducible apply State.mediaGone_keeps
    | with_reducible apply State.startAcquire_keeps | with_reducible apply Keeps.four | simp only [Keeps.mk_iff]
    | split | intro _)

theorem State.unitsReturn_keeps {base : State} (s : State) (hk : Keeps base s) :
    Keeps base (State.unitsReturn s) := by
  unfold State.unitsReturn
  try dsimp only
  repeat' (first
    | with_reducible assumption | with_reducible apply State.setFld_keeps | with_reducible apply Keeps.foldl
    | with_reducible apply Keeps.foldlFst | with_reducible apply Keeps.four | simp only [Keeps.mk_iff] | split
    | intro _)

theorem State.slotBegins_keeps {base : State} (s : State) (t : Timing) (n : Nat) (hk : Keeps base s) :
    Keeps base (State.slotBegins s t n) := by
  unfold State.slotBegins
  try dsimp only
  repeat' (first
    | with_reducible assumption | with_reducible apply State.retireOld_keeps
    | with_reducible apply State.takeEffect_keeps | with_reducible apply State.matchAnnounce_keeps
    | with_reducible apply State.applyInstall_keeps | with_reducible apply State.applyStep_keeps
    | with_reducible apply State.stepOver_keeps | with_reducible apply State.beginSlot_keeps
    | with_reducible apply State.sendFrameCrc_keeps | with_reducible apply State.skipCrc_keeps
    | with_reducible apply Keeps.ite | with_reducible apply Keeps.four | simp only [Keeps.mk_iff] | split | intro _)

theorem State.boundaryTail_keeps {base : State} (s : State) (t : Timing) (n : Nat) (hk : Keeps base s) :
    Keeps base (State.boundaryTail s t n) := by
  unfold State.boundaryTail
  try dsimp only
  repeat' (first
    | with_reducible assumption | with_reducible apply State.resumeRails_keeps
    | with_reducible apply State.unitsReturn_keeps | with_reducible apply State.meterBoundary_keeps
    | with_reducible apply State.belayBoundary_keeps | with_reducible apply State.roleBoundary_keeps
    | with_reducible apply State.pruneFigures_keeps | with_reducible apply State.startScree_keeps
    | with_reducible apply Keeps.ite | simp only [Keeps.mk_iff] | split | intro _)

theorem State.boundary_keeps {base : State} (s : State) (t : Timing) (n : Nat) (hk : Keeps base s) :
    Keeps base (State.boundary s t n) := by
  unfold State.boundary
  try dsimp only
  repeat' (first
    | with_reducible assumption | with_reducible apply State.resumeRun_keeps
    | with_reducible apply State.latchEnergy_keeps | with_reducible apply State.applyStep_keeps
    | with_reducible apply State.stepBack_keeps | with_reducible apply State.boundaryTail_keeps
    | with_reducible apply State.slotBegins_keeps | with_reducible apply Keeps.ite | simp only [Keeps.mk_iff]
    | split | intro _)

theorem execFrameBoundary_keeps {base : State} (n : Nat) (s : State) (hk : Keeps base s) :
    ResKeeps base (execFrameBoundary n s) := by
  unfold execFrameBoundary
  try dsimp only
  repeat' (first
    | with_reducible assumption | with_reducible apply State.begin_keeps | with_reducible apply State.atTime_keeps
    | with_reducible apply State.boundary_keeps | with_reducible apply Keeps.ite | with_reducible apply ResKeeps.ite
    | with_reducible apply ResKeeps.next | simp only [Keeps.mk_iff] | split | intro _)

theorem execListenEnd_keeps {base : State} (s : State) (hk : Keeps base s) :
    ResKeeps base (execListenEnd s) := by
  unfold execListenEnd
  try dsimp only
  repeat' (first
    | with_reducible assumption | with_reducible apply State.begin_keeps | with_reducible apply State.setFld_keeps
    | with_reducible apply State.irq_keeps | with_reducible apply State.becomeSummit_keeps
    | with_reducible apply Keeps.ite | with_reducible apply ResKeeps.ite | with_reducible apply ResKeeps.next
    | with_reducible apply Keeps.four | simp only [Keeps.mk_iff] | split | intro _)

theorem execBurstEnd_keeps {base : State} (s : State) (hk : Keeps base s) :
    ResKeeps base (execBurstEnd s) := by
  unfold execBurstEnd
  try dsimp only
  repeat' (first
    | with_reducible assumption | with_reducible apply State.begin_keeps | with_reducible apply State.endBurst_keeps
    | with_reducible apply State.sendFrameCrc_keeps | with_reducible apply ResKeeps.next | simp only [Keeps.mk_iff]
    | split | intro _)

theorem State.abortGroup_keeps {base : State} (s : State) (g n : Nat) (hk : Keeps base s) :
    Keeps base (State.abortGroup s g n) := by
  unfold State.abortGroup
  try dsimp only
  repeat' (first
    | with_reducible assumption | with_reducible apply State.abortSlot_keeps | with_reducible apply Keeps.ite
    | with_reducible apply Keeps.foldl | with_reducible apply Keeps.foldlFst | simp only [Keeps.mk_iff] | split
    | intro _)

theorem State.stopLane_keeps {base : State} (s : State) (b : Burst) (g : Nat) (hk : Keeps base s) :
    Keeps base (State.stopLane s b g) := by
  unfold State.stopLane
  try dsimp only
  repeat' (first
    | with_reducible assumption | with_reducible apply State.setBit_keeps | with_reducible apply State.inc_keeps
    | with_reducible apply State.irq_keeps | with_reducible apply State.fence_keeps
    | with_reducible apply State.abortGroup_keeps | with_reducible apply Keeps.ite | with_reducible apply Keeps.four
    | simp only [Keeps.mk_iff] | split | intro _)

theorem execLaneResidueMismatch_keeps {base : State} (g : Nat) (s : State) (hk : Keeps base s) :
    ResKeeps base (execLaneResidueMismatch g s) := by
  unfold execLaneResidueMismatch
  try dsimp only
  repeat' (first
    | with_reducible assumption | with_reducible apply State.begin_keeps | with_reducible apply State.stopLane_keeps
    | with_reducible apply State.endBurst_keeps | with_reducible apply State.sendFrameCrc_keeps
    | with_reducible apply Keeps.ite | with_reducible apply ResKeeps.ite | with_reducible apply ResKeeps.next
    | with_reducible apply Keeps.four | simp only [Keeps.mk_iff] | split | intro _)

end Sys2Proof.Machine
end

