-- ==== Sys2Proof/Laws/KeepsPwr.lean ====
section
/-! SUPPORT. What the operations of Machine/Pwr.lean keep (Laws/Keeps.lean). -/
set_option linter.all false
set_option Elab.async false

namespace Sys2Proof.Machine

theorem State.setPwr_keeps {base : State} (s : State) (x : PwrS) (hk : Keeps base s) :
    Keeps base (State.setPwr s x) := by
  unfold State.setPwr
  try dsimp only
  repeat' (first
    | with_reducible assumption | with_reducible apply Keeps.four | simp only [Keeps.mk_iff] | split | intro _)

theorem State.followVio_keeps {base : State} (s : State) (hk : Keeps base s) :
    Keeps base (State.followVio s) := by
  unfold State.followVio
  try dsimp only
  repeat' (first
    | with_reducible assumption | with_reducible apply Keeps.ite | with_reducible apply Keeps.four
    | simp only [Keeps.mk_iff] | split | intro _)

theorem State.setSupplies_keeps {base : State} (s : State) (v3p3 v1p8 : Bool) (hk : Keeps base s) :
    Keeps base (State.setSupplies s v3p3 v1p8) := by
  unfold State.setSupplies
  try dsimp only
  repeat' (first
    | with_reducible assumption | with_reducible apply State.followVio_keeps | with_reducible apply Keeps.four
    | simp only [Keeps.mk_iff] | split | intro _)

theorem execRestEnter_keeps {base : State} (s : State) (hk : Keeps base s) :
    ResKeeps base (execRestEnter s) := by
  unfold execRestEnter
  try dsimp only
  repeat' (first
    | with_reducible assumption | with_reducible apply State.begin_keeps | with_reducible apply State.setFlds_keeps
    | with_reducible apply State.irq_keeps | with_reducible apply Keeps.ite | with_reducible apply ResKeeps.ite
    | with_reducible apply ResKeeps.next | with_reducible apply Keeps.four | simp only [Keeps.mk_iff] | split
    | intro _)

theorem execRestExit_keeps {base : State} (s : State) (hk : Keeps base s) :
    ResKeeps base (execRestExit s) := by
  unfold execRestExit
  try dsimp only
  repeat' (first
    | with_reducible assumption | with_reducible apply State.begin_keeps | with_reducible apply State.setFlds_keeps
    | with_reducible apply State.irq_keeps | with_reducible apply Keeps.ite | with_reducible apply ResKeeps.ite
    | with_reducible apply ResKeeps.next | with_reducible apply Keeps.four | simp only [Keeps.mk_iff] | split
    | intro _)

theorem State.pwrEnds_keeps {base : State} (s : State) (result : Nat) (hk : Keeps base s) :
    Keeps base (State.pwrEnds s result) := by
  unfold State.pwrEnds
  try dsimp only
  repeat' (first
    | with_reducible assumption | with_reducible apply State.setPwr_keeps | with_reducible apply State.setFlds_keeps
    | with_reducible apply Keeps.four | simp only [Keeps.mk_iff] | split | intro _)

theorem State.pwrAsk_keeps {base : State} (s : State) (t : Nat) (hk : Keeps base s) :
    Keeps base (State.pwrAsk s t) := by
  unfold State.pwrAsk
  try dsimp only
  repeat' (first
    | with_reducible assumption | with_reducible apply State.saveDue_keeps
    | with_reducible apply State.urgentFlush_keeps | with_reducible apply Keeps.ite
    | with_reducible apply Keeps.four | with_reducible apply Keeps.fourMem | simp only [Keeps.mk_iff]
    | (refine fun (hm : Mems.wf _ = true) => ?_; simp only [Mems.wf_iff, State.drawn_mem] at hm ⊢; first | (simp only [hm, memWf_filter, memWf_memWrite, memWf_memClear, memWf_memPut, memWf_nil, and_self]; done) | (simp [hm]; done))
    | split | intro _)

theorem State.startReturn_keeps {base : State} (s : State) (hk : Keeps base s) :
    Keeps base (State.startReturn s) := by
  unfold State.startReturn
  try dsimp only
  repeat' (first
    | with_reducible assumption | with_reducible apply State.setPwr_keeps | with_reducible apply Keeps.four
    | simp only [Keeps.mk_iff] | split | intro _)

theorem execPowerStateRequest_keeps {base : State} (m : Master) (v : Word) (s : State) (hk : Keeps base s) :
    ResKeeps base (execPowerStateRequest m v s) := by
  unfold execPowerStateRequest
  try dsimp only
  repeat' (first
    | with_reducible assumption | with_reducible apply State.begin_keeps | with_reducible apply State.asArmed_keeps
    | with_reducible apply State.inc_keeps | with_reducible apply State.setFld_keeps
    | with_reducible apply State.setPwr_keeps | with_reducible apply State.setFlds_keeps
    | with_reducible apply State.startReturn_keeps | with_reducible apply State.pwrAsk_keeps
    | with_reducible apply Keeps.ite | with_reducible apply ResKeeps.ite | with_reducible apply ResKeeps.next
    | with_reducible apply Keeps.four | simp only [Keeps.mk_iff] | split | intro _)

theorem execPowerHandshakeAccepted_keeps {base : State} (s : State) (hk : Keeps base s) :
    ResKeeps base (execPowerHandshakeAccepted s) := by
  unfold execPowerHandshakeAccepted
  try dsimp only
  repeat' (first
    | with_reducible assumption | with_reducible apply State.begin_keeps | with_reducible apply State.setPwr_keeps
    | with_reducible apply State.setFlds_keeps | with_reducible apply State.setFld_keeps
    | with_reducible apply State.drawn_keeps | with_reducible apply Keeps.ite | with_reducible apply ResKeeps.ite
    | with_reducible apply ResKeeps.next | with_reducible apply Keeps.four | simp only [Keeps.mk_iff] | split
    | intro _)

theorem execPowerHandshakeRefused_keeps {base : State} (s : State) (hk : Keeps base s) :
    ResKeeps base (execPowerHandshakeRefused s) := by
  unfold execPowerHandshakeRefused
  try dsimp only
  repeat' (first
    | with_reducible assumption | with_reducible apply State.begin_keeps | with_reducible apply State.pwrEnds_keeps
    | with_reducible apply State.setFlds_keeps | with_reducible apply State.inc_keeps
    | with_reducible apply State.irq_keeps | with_reducible apply Keeps.ite | with_reducible apply ResKeeps.ite
    | with_reducible apply ResKeeps.next | simp only [Keeps.mk_iff] | split | intro _)

theorem execPowerHandshakeTimeout_keeps {base : State} (s : State) (hk : Keeps base s) :
    ResKeeps base (execPowerHandshakeTimeout s) := by
  unfold execPowerHandshakeTimeout
  try dsimp only
  repeat' (first
    | with_reducible assumption | with_reducible apply State.begin_keeps | with_reducible apply State.pwrEnds_keeps
    | with_reducible apply State.inc_keeps | with_reducible apply State.irq_keeps | with_reducible apply Keeps.ite
    | with_reducible apply ResKeeps.ite | with_reducible apply ResKeeps.next | simp only [Keeps.mk_iff] | split
    | intro _)

theorem State.setClocks_keeps {base : State} (s : State) (mask : Nat) (hk : Keeps base s) :
    Keeps base (State.setClocks s mask) := by
  unfold State.setClocks
  repeat' (first
    | with_reducible assumption | with_reducible apply State.setFlds_keeps | with_reducible apply Keeps.four
    | simp only [Keeps.mk_iff] | split | intro _)

theorem State.railsOff_keeps {base : State} (s : State) (hk : Keeps base s) :
    Keeps base (State.railsOff s) := by
  unfold State.railsOff
  try dsimp only
  repeat' (first
    | with_reducible assumption | with_reducible apply State.releaseRails_keeps
    | with_reducible apply State.showRails_keeps | with_reducible apply Keeps.four | simp only [Keeps.mk_iff]
    | split | intro _)

theorem State.entryStep_keeps {base : State} (s : State) (t k : Nat) (hk : Keeps base s) :
    Keeps base (State.entryStep s t k) := by
  unfold State.entryStep
  try dsimp only
  repeat' (first
    | with_reducible assumption | with_reducible apply State.setPwr_keeps
    | with_reducible apply State.dropLead_keeps | with_reducible apply State.releaseRails_keeps
    | with_reducible apply State.releasePorts_keeps | with_reducible apply State.mediaGone_keeps
    | with_reducible apply State.railsOff_keeps | with_reducible apply State.setClocks_keeps
    | with_reducible apply State.setFld_keeps | with_reducible apply State.stopPort_keeps
    | with_reducible apply Keeps.ite | with_reducible apply Keeps.foldl | with_reducible apply Keeps.foldlFst
    | with_reducible apply Keeps.four | simp only [Keeps.mk_iff] | split | intro _)

theorem State.undoPorts_keeps {base : State} (s : State) (k : Nat) (whole : Bool) (hk : Keeps base s) :
    Keeps base (State.undoPorts s k whole) := by
  unfold State.undoPorts
  repeat' (first
    | with_reducible assumption | with_reducible apply State.startAcquire_keeps | with_reducible apply Keeps.ite
    | simp only [Keeps.mk_iff] | split | intro _)

theorem State.undoSelfRefresh_keeps {base : State} (s : State) (k : Nat) (hk : Keeps base s) :
    Keeps base (State.undoSelfRefresh s k) := by
  unfold State.undoSelfRefresh
  try dsimp only
  repeat' (first
    | with_reducible assumption | with_reducible apply Keeps.ite | with_reducible apply Keeps.four
    | simp only [Keeps.mk_iff] | split | intro _)

theorem State.undoClocks_keeps {base : State} (s : State) (k : Nat) (whole : Bool) (hk : Keeps base s) :
    Keeps base (State.undoClocks s k whole) := by
  unfold State.undoClocks
  repeat' (first
    | with_reducible assumption | with_reducible apply State.setClocks_keeps | with_reducible apply Keeps.ite
    | simp only [Keeps.mk_iff] | split | intro _)

theorem State.undoRails_keeps {base : State} (s : State) (k : Nat) (whole : Bool) (hk : Keeps base s) :
    Keeps base (State.undoRails s k whole) := by
  unfold State.undoRails
  repeat' (first
    | with_reducible assumption | with_reducible apply State.railsReturn_keeps | with_reducible apply Keeps.ite
    | simp only [Keeps.mk_iff] | split | intro _)

theorem State.undoMeter_keeps {base : State} (s : State) (hk : Keeps base s) :
    Keeps base (State.undoMeter s) := by
  unfold State.undoMeter
  try dsimp only
  repeat' (first
    | with_reducible assumption | with_reducible apply Keeps.four | simp only [Keeps.mk_iff] | split | intro _)

theorem State.undoMedia_keeps {base : State} (s : State) (k : Nat) (whole : Bool) (hk : Keeps base s) :
    Keeps base (State.undoMedia s k whole) := by
  unfold State.undoMedia
  repeat' (first
    | with_reducible assumption | with_reducible apply State.mediaGone_keeps
    | with_reducible apply State.undoMeter_keeps | with_reducible apply Keeps.ite | simp only [Keeps.mk_iff] | split
    | intro _)

theorem State.undoLead_keeps {base : State} (s : State) (hk : Keeps base s) :
    Keeps base (State.undoLead s) := by
  unfold State.undoLead
  try dsimp only
  repeat' (first
    | with_reducible assumption | with_reducible apply State.setFld_keeps | with_reducible apply Keeps.ite
    | with_reducible apply Keeps.four | simp only [Keeps.mk_iff] | split | intro _)

theorem State.abandonEntry_keeps {base : State} (s : State) (hk : Keeps base s) :
    Keeps base (State.abandonEntry s) := by
  unfold State.abandonEntry
  try dsimp only
  repeat' (first
    | with_reducible assumption | with_reducible apply State.undoPorts_keeps
    | with_reducible apply State.undoSelfRefresh_keeps | with_reducible apply State.undoClocks_keeps
    | with_reducible apply State.undoRails_keeps | with_reducible apply State.undoMedia_keeps
    | with_reducible apply State.undoLead_keeps | with_reducible apply State.pwrEnds_keeps
    | with_reducible apply State.inc_keeps | with_reducible apply State.irq_keeps | with_reducible apply Keeps.ite
    | simp only [Keeps.mk_iff] | split | intro _)

end Sys2Proof.Machine
end

