-- ==== Sys2Proof/Laws/KeepsRtc.lean ====
section
/-! SUPPORT. What the operations of Machine/Rtc.lean keep (Laws/Keeps.lean). -/
set_option linter.all false
set_option Elab.async false

namespace Sys2Proof.Machine

theorem State.setS_keeps {base : State} (s : State) (v : Nat) (hk : Keeps base s) :
    Keeps base (State.setS s v) := by
  unfold State.setS
  repeat' (first
    | with_reducible assumption | with_reducible apply State.setFlds_keeps | with_reducible apply Keeps.four
    | simp only [Keeps.mk_iff] | split | intro _)

theorem State.setAlmT_keeps {base : State} (s : State) (k v : Nat) (hk : Keeps base s) :
    Keeps base (State.setAlmT s k v) := by
  unfold State.setAlmT
  repeat' (first
    | with_reducible assumption | with_reducible apply State.setFlds_keeps | with_reducible apply Keeps.four
    | simp only [Keeps.mk_iff] | split | intro _)

theorem State.almFire_keeps {base : State} (s : State) (k steps : Nat) (skipped : Bool) (hk : Keeps base s) :
    Keeps base (State.almFire s k steps skipped) := by
  unfold State.almFire
  try dsimp only
  repeat' (first
    | with_reducible assumption | with_reducible apply State.setBit_keeps | with_reducible apply State.irq_keeps
    | with_reducible apply State.setFld_keeps | with_reducible apply State.setAlmT_keeps
    | with_reducible apply Keeps.ite | simp only [Keeps.mk_iff] | split | intro _)

theorem State.almAdjust_keeps {base : State} (s : State) (a b k : Nat) (hk : Keeps base s) :
    Keeps base (State.almAdjust s a b k) := by
  unfold State.almAdjust
  try dsimp only
  repeat' (first
    | with_reducible assumption | with_reducible apply State.almFire_keeps | with_reducible apply State.setFld_keeps
    | with_reducible apply State.setAlmT_keeps | with_reducible apply Keeps.ite | simp only [Keeps.mk_iff] | split
    | intro _)

theorem State.countTo_keeps {base : State} (s : State) (v : Nat) (hk : Keeps base s) :
    Keeps base (State.countTo s v) := by
  unfold State.countTo
  try dsimp only
  repeat' (first
    | with_reducible assumption | with_reducible apply State.setS_keeps | with_reducible apply State.setFld_keeps
    | with_reducible apply State.almFire_keeps | with_reducible apply Keeps.ite | with_reducible apply Keeps.foldl
    | with_reducible apply Keeps.foldlFst | simp only [Keeps.mk_iff] | split | intro _)

theorem State.adjust_keeps {base : State} (s : State) (a old b cause : Nat) (step : Bool) (hk : Keeps base s) :
    Keeps base (State.adjust s a old b cause step) := by
  unfold State.adjust
  try dsimp only
  repeat' (first
    | with_reducible assumption | with_reducible apply State.cairnOld_keeps | with_reducible apply State.setS_keeps
    | with_reducible apply State.setFlds_keeps | with_reducible apply State.almAdjust_keeps
    | with_reducible apply State.irq_keeps | with_reducible apply State.cairnStep_keeps
    | with_reducible apply Keeps.ite | with_reducible apply Keeps.foldl | with_reducible apply Keeps.foldlFst
    | simp only [Keeps.mk_iff] | split | intro _)

theorem State.applySet_keeps {base : State} (s : State) (v cause : Nat) (hk : Keeps base s) :
    Keeps base (State.applySet s v cause) := by
  unfold State.applySet
  try dsimp only
  repeat' (first
    | with_reducible assumption | with_reducible apply State.adjust_keeps | with_reducible apply State.setFld_keeps
    | with_reducible apply Keeps.ite | simp only [Keeps.mk_iff] | split | intro _)

theorem execRtcSet_keeps {base : State} (m : Master) (value : Word) (s : State) (hk : Keeps base s) :
    ResKeeps base (execRtcSet m value s) := by
  unfold execRtcSet
  try dsimp only
  repeat' (first
    | with_reducible assumption | with_reducible apply State.begin_keeps | with_reducible apply State.asWrite_keeps
    | with_reducible apply State.setFlag_keeps | with_reducible apply State.setFlds_keeps
    | with_reducible apply State.setFld_keeps | with_reducible apply State.applySet_keeps
    | with_reducible apply Keeps.ite | with_reducible apply ResKeeps.ite | with_reducible apply ResKeeps.next
    | with_reducible apply ResKeeps.fault | with_reducible apply Keeps.four | simp only [Keeps.mk_iff] | split
    | intro _)

theorem execRtcSetAtPtpApply_keeps {base : State} (s : State) (hk : Keeps base s) :
    ResKeeps base (execRtcSetAtPtpApply s) := by
  unfold execRtcSetAtPtpApply
  try dsimp only
  repeat' (first
    | with_reducible assumption | with_reducible apply State.begin_keeps | with_reducible apply State.setFld_keeps
    | with_reducible apply State.applySet_keeps | with_reducible apply ResKeeps.next
    | with_reducible apply Keeps.four | simp only [Keeps.mk_iff] | split | intro _)

theorem State.dstCommand_keeps {base : State} (s : State) (add clear : Bool) (hk : Keeps base s) :
    Keeps base (State.dstCommand s add clear) := by
  unfold State.dstCommand
  try dsimp only
  repeat' (first
    | with_reducible assumption | with_reducible apply State.setFld_keeps | with_reducible apply State.add_keeps
    | with_reducible apply Keeps.ite | with_reducible apply Keeps.four | simp only [Keeps.mk_iff] | split | intro _)

theorem execRtcDstAdd_keeps {base : State} (m : Master) (clear : Bool) (s : State) (hk : Keeps base s) :
    ResKeeps base (execRtcDstAdd m clear s) := by
  unfold execRtcDstAdd
  try dsimp only
  repeat' (first
    | with_reducible assumption | with_reducible apply State.begin_keeps | with_reducible apply State.asWrite_keeps
    | with_reducible apply State.dstCommand_keeps | with_reducible apply ResKeeps.next | simp only [Keeps.mk_iff]
    | split | intro _)

theorem execRtcDstSub_keeps {base : State} (m : Master) (clear : Bool) (s : State) (hk : Keeps base s) :
    ResKeeps base (execRtcDstSub m clear s) := by
  unfold execRtcDstSub
  try dsimp only
  repeat' (first
    | with_reducible assumption | with_reducible apply State.begin_keeps | with_reducible apply State.asWrite_keeps
    | with_reducible apply State.dstCommand_keeps | with_reducible apply ResKeeps.next | simp only [Keeps.mk_iff]
    | split | intro _)

theorem State.rtcSecond_keeps {base : State} (s : State) (hk : Keeps base s) :
    Keeps base (State.rtcSecond s) := by
  unfold State.rtcSecond
  try dsimp only
  repeat' (first
    | with_reducible assumption | with_reducible apply State.countTo_keeps | with_reducible apply State.add_keeps
    | with_reducible apply State.setFld_keeps | with_reducible apply State.setFlag_keeps
    | with_reducible apply State.adjust_keeps | with_reducible apply State.irq_keeps
    | with_reducible apply Keeps.ite | with_reducible apply Keeps.four | simp only [Keeps.mk_iff] | split | intro _)

theorem execRtcDstApply_keeps {base : State} (s : State) (hk : Keeps base s) :
    ResKeeps base (execRtcDstApply s) := by
  unfold execRtcDstApply
  try dsimp only
  repeat' (first
    | with_reducible assumption | with_reducible apply State.begin_keeps | with_reducible apply State.setFld_keeps
    | with_reducible apply State.rtcSecond_keeps | with_reducible apply Keeps.ite
    | with_reducible apply ResKeeps.ite | with_reducible apply ResKeeps.next | simp only [Keeps.mk_iff] | split
    | intro _)

theorem execRtcAlarmFire_keeps {base : State} (k : Nat) (s : State) (hk : Keeps base s) :
    ResKeeps base (execRtcAlarmFire k s) := by
  unfold execRtcAlarmFire
  try dsimp only
  repeat' (first
    | with_reducible assumption | with_reducible apply State.begin_keeps | with_reducible apply State.setFld_keeps
    | with_reducible apply State.countTo_keeps | with_reducible apply Keeps.ite | with_reducible apply ResKeeps.ite
    | with_reducible apply ResKeeps.next | simp only [Keeps.mk_iff] | split | intro _)

theorem execRtcEndOfRange_keeps {base : State} (s : State) (hk : Keeps base s) :
    ResKeeps base (execRtcEndOfRange s) := by
  unfold execRtcEndOfRange
  try dsimp only
  repeat' (first
    | with_reducible assumption | with_reducible apply State.begin_keeps | with_reducible apply State.setFld_keeps
    | with_reducible apply State.countTo_keeps | with_reducible apply Keeps.ite | with_reducible apply ResKeeps.ite
    | with_reducible apply ResKeeps.next | simp only [Keeps.mk_iff] | split | intro _)

theorem State.rtcEdge_keeps {base : State} (s : State) (hk : Keeps base s) :
    Keeps base (State.rtcEdge s) := by
  unfold State.rtcEdge
  try dsimp only
  repeat' (first
    | with_reducible assumption | with_reducible apply State.add_keeps | with_reducible apply State.setFld_keeps
    | with_reducible apply State.rtcSecond_keeps | with_reducible apply Keeps.ite | with_reducible apply Keeps.four
    | simp only [Keeps.mk_iff] | split | intro _)

theorem execRtcTrimWindow_keeps {base : State} (tStart tEnd : Nat) (locked : Bool) (s : State) (hk : Keeps base s) :
    ResKeeps base (execRtcTrimWindow tStart tEnd locked s) := by
  unfold execRtcTrimWindow
  try dsimp only
  repeat' (first
    | with_reducible assumption | with_reducible apply State.begin_keeps | with_reducible apply State.setFld_keeps
    | with_reducible apply State.satInc_keeps | with_reducible apply State.irq_keeps
    | with_reducible apply Keeps.ite | with_reducible apply ResKeeps.ite | with_reducible apply ResKeeps.next
    | with_reducible apply Keeps.four | simp only [Keeps.mk_iff] | split | intro _)

theorem execBackupSwitchover_keeps {base : State} (toVbat : Bool) (s : State) (hk : Keeps base s) :
    ResKeeps base (execBackupSwitchover toVbat s) := by
  unfold execBackupSwitchover
  try dsimp only
  repeat' (first
    | with_reducible assumption | with_reducible apply State.begin_keeps | with_reducible apply State.setFld_keeps
    | with_reducible apply Keeps.ite | with_reducible apply ResKeeps.ite | with_reducible apply ResKeeps.next
    | with_reducible apply Keeps.four | simp only [Keeps.mk_iff] | split | intro _)

theorem State.rtcInvalid_keeps {base : State} (s : State) (hk : Keeps base s) :
    Keeps base (State.rtcInvalid s) := by
  unfold State.rtcInvalid
  try dsimp only
  repeat' (first
    | with_reducible assumption | with_reducible apply State.intervalEnd_keeps
    | with_reducible apply State.setFlds_keeps | with_reducible apply Keeps.ite | simp only [Keeps.mk_iff] | split
    | intro _)

theorem execBackupSupplyLost_keeps {base : State} (s : State) (hk : Keeps base s) :
    ResKeeps base (execBackupSupplyLost s) := by
  unfold execBackupSupplyLost
  try dsimp only
  repeat' (first
    | with_reducible assumption | with_reducible apply State.rtcInvalid_keeps
    | with_reducible apply State.begin_keeps | with_reducible apply State.clearFlds_keeps
    | with_reducible apply State.setFlds_keeps | with_reducible apply ResKeeps.next
    | with_reducible apply Keeps.four | with_reducible apply Keeps.fourMem | simp only [Keeps.mk_iff]
    | (refine fun (hm : Mems.wf _ = true) => ?_; simp only [Mems.wf_iff, State.drawn_mem] at hm ⊢; first | (simp only [hm, memWf_filter, memWf_memWrite, memWf_memClear, memWf_memPut, memWf_nil, and_self]; done) | (simp [hm]; done))
    | split | intro _)

theorem execRtcOscFail_keeps {base : State} (s : State) (hk : Keeps base s) :
    ResKeeps base (execRtcOscFail s) := by
  unfold execRtcOscFail
  repeat' (first
    | with_reducible assumption | with_reducible apply State.rtcInvalid_keeps
    | with_reducible apply State.setFld_keeps | with_reducible apply State.begin_keeps
    | with_reducible apply State.irq_keeps | with_reducible apply ResKeeps.next | simp only [Keeps.mk_iff] | split
    | intro _)

theorem execVbatMeasure_keeps {base : State} (mv : Nat) (s : State) (hk : Keeps base s) :
    ResKeeps base (execVbatMeasure mv s) := by
  unfold execVbatMeasure
  try dsimp only
  repeat' (first
    | with_reducible assumption | with_reducible apply State.setFld_keeps | with_reducible apply State.begin_keeps
    | with_reducible apply State.irq_keeps | with_reducible apply Keeps.ite | with_reducible apply ResKeeps.ite
    | with_reducible apply ResKeeps.next | simp only [Keeps.mk_iff] | split | intro _)

theorem State.latchBrownout_keeps {base : State} (s : State) (hk : Keeps base s) :
    Keeps base (State.latchBrownout s) := by
  unfold State.latchBrownout
  repeat' (first
    | with_reducible assumption | with_reducible apply State.setFlds_keeps | with_reducible apply Keeps.ite
    | simp only [Keeps.mk_iff] | split | intro _)

end Sys2Proof.Machine
end

