-- ==== Sys2Proof/Laws/KeepsReset.lean ====
section
/-! SUPPORT. What the operations of Machine/Reset.lean keep (Laws/Keeps.lean). -/
set_option linter.all false
set_option Elab.async false

namespace Sys2Proof.Machine

theorem State.setRst_keeps {base : State} (s : State) (x : RstS) (hk : Keeps base s) :
    Keeps base (State.setRst s x) := by
  unfold State.setRst
  try dsimp only
  repeat' (first
    | with_reducible assumption | with_reducible apply Keeps.four | simp only [Keeps.mk_iff] | split | intro _)

theorem State.putRecord_keeps {base : State} (s : State) (scope cause detail rtc ns flags : Nat) (hk : Keeps base s) :
    Keeps base (State.putRecord s scope cause detail rtc ns flags) := by
  unfold State.putRecord
  try dsimp only
  repeat' (first
    | with_reducible assumption | with_reducible apply State.setFlds_keeps | with_reducible apply Keeps.four
    | with_reducible apply Keeps.fourMem | simp only [Keeps.mk_iff]
    | (refine fun (hm : Mems.wf _ = true) => ?_; simp only [Mems.wf_iff, State.drawn_mem] at hm ⊢; first | (simp only [hm, memWf_filter, memWf_memWrite, memWf_memClear, memWf_memPut, memWf_nil, and_self]; done) | (simp [hm]; done))
    | split | intro _)

theorem State.noteReset_keeps {base : State} (s : State) (scope cause detail : Nat) (hk : Keeps base s) :
    Keeps base (State.noteReset s scope cause detail) := by
  unfold State.noteReset
  repeat' (first
    | with_reducible assumption | with_reducible apply State.putRecord_keeps | with_reducible apply Keeps.four
    | simp only [Keeps.mk_iff] | split | intro _)

theorem State.fresh_keeps {base : State} (s : State) (keep : Nat → Bool) (ret : Bytes) (rst : RstS) (hk : Keeps base s)
    (hr : base.Ok → memWf ret = true) : Keeps base (State.fresh s keep ret rst) := by
  unfold State.fresh
  dsimp only
  apply State.setFlds_keeps
  simp only [Keeps.mk_iff]
  refine ⟨hk.1, hk.2.1, fun ho => ?_⟩
  have h := hk.2.2 ho
  have hm := (Mems.wf_iff s.mem).mp h.2
  exact ⟨mapWf_filter _ _ _ h.1, (Mems.wf_iff _).mpr ⟨rfl, rfl, rfl, hr ho, hm.2.2.2.2.1, hm.2.2.2.2.2.1, hm.2.2.2.2.2.2⟩⟩

theorem State.strapRegion_keeps {base : State} (s : State) (hk : Keeps base s) :
    Keeps base (State.strapRegion s) := by
  unfold State.strapRegion
  try dsimp only
  repeat' (first
    | with_reducible assumption | with_reducible apply State.setFld_keeps | with_reducible apply Keeps.ite
    | simp only [Keeps.mk_iff] | split | intro _)

theorem State.assertCold_keeps {base : State} (s : State) (cause : Nat) (hk : Keeps base s) :
    Keeps base (State.assertCold s cause) := by
  unfold State.assertCold
  dsimp only
  apply State.setFlds_keeps
  simp only [Keeps.mk_iff]
  exact Keeps.four (State.fresh_keeps s _ _ _ hk (fun _ => rfl))

theorem State.assertSystem_keeps {base : State} (s : State) (cause detail : Nat) (hk : Keeps base s) :
    Keeps base (State.assertSystem s cause detail) := by
  have h1 := State.setSupplies_keeps _ true true (State.noteReset_keeps s 2 cause detail hk)
  exact State.strapRegion_keeps _ (State.inc_keeps _ _ (State.fresh_keeps _ _ _ _ h1 (fun ho =>
    ((Mems.wf_iff _).mp (h1.2.2 ho).2).2.2.2.1)))

theorem State.wipePage_keeps {base : State} (s : State) (p : Nat) (hk : Keeps base s) :
    Keeps base (State.wipePage s p) := by
  unfold State.wipePage
  try dsimp only
  repeat' (first
    | with_reducible assumption | with_reducible apply State.clearPage_keeps | with_reducible apply Keeps.four
    | simp only [Keeps.mk_iff] | split | intro _)

theorem State.resetControl_keeps {base : State} (s : State) (p : Nat) (hk : Keeps base s) :
    Keeps base (State.resetControl s p) := by
  unfold State.resetControl
  try dsimp only
  repeat' (first
    | with_reducible assumption | with_reducible apply State.wipePage_keeps
    | with_reducible apply State.setSide_keeps | with_reducible apply State.setReg_keeps
    | with_reducible apply State.setFlds_keeps | with_reducible apply State.updBreak_keeps
    | with_reducible apply State.closeTransfer_keeps | with_reducible apply State.flashBreak_keeps
    | with_reducible apply Keeps.ite | with_reducible apply Keeps.four | simp only [Keeps.mk_iff] | split | intro _)

theorem State.resetDisplay_keeps {base : State} (s : State) (p : Nat) (hk : Keeps base s) :
    Keeps base (State.resetDisplay s p) := by
  unfold State.resetDisplay
  try dsimp only
  repeat' (first
    | with_reducible assumption | with_reducible apply State.wipePage_keeps
    | with_reducible apply State.releaseGroup_keeps | with_reducible apply State.fresh_keeps
    | with_reducible apply State.railsOff_keeps | with_reducible apply State.closeWithSave_keeps
    | with_reducible apply State.loadRange_keeps' | with_reducible apply State.releasePop_keeps
    | with_reducible apply State.setFld_keeps | with_reducible apply Keeps.ite | with_reducible apply Keeps.four
    | simp only [Keeps.mk_iff] | split | intro _)

theorem State.assertWarm_keeps {base : State} (s : State) (cause detail : Nat) (hk : Keeps base s) :
    Keeps base (State.assertWarm s cause detail) := by
  unfold State.assertWarm
  try dsimp only
  repeat' (first
    | with_reducible assumption | with_reducible apply State.abandonEntry_keeps
    | with_reducible apply State.noteReset_keeps | with_reducible apply State.inc_keeps
    | with_reducible apply State.resetControl_keeps | with_reducible apply State.telemWarm_keeps
    | with_reducible apply State.pfSave_keeps | with_reducible apply Keeps.ite | with_reducible apply Keeps.foldl
    | with_reducible apply Keeps.foldlFst | with_reducible apply Keeps.four | simp only [Keeps.mk_iff] | split
    | intro _)

theorem State.absorbReset_keeps {base : State} (s : State) (hk : Keeps base s) :
    Keeps base (State.absorbReset s) := by
  unfold State.absorbReset
  repeat' (first
    | with_reducible assumption | with_reducible apply State.inc_keeps | with_reducible apply State.irq_keeps
    | with_reducible apply Keeps.four | simp only [Keeps.mk_iff] | split | intro _)

theorem State.systemNow_keeps {base : State} (s : State) (cause detail : Nat) (hk : Keeps base s) :
    Keeps base (State.systemNow s cause detail) := by
  unfold State.systemNow
  repeat' (first
    | with_reducible assumption | with_reducible apply State.absorbReset_keeps
    | with_reducible apply State.assertSystem_keeps | with_reducible apply Keeps.ite | simp only [Keeps.mk_iff]
    | split | intro _)

theorem State.systemSaved_keeps {base : State} (s : State) (cause detail : Nat) (hk : Keeps base s) :
    Keeps base (State.systemSaved s cause detail) := by
  unfold State.systemSaved
  try dsimp only
  repeat' (first
    | with_reducible assumption | with_reducible apply State.absorbReset_keeps
    | with_reducible apply State.assertSystem_keeps | with_reducible apply State.setRst_keeps
    | with_reducible apply State.saveDue_keeps | with_reducible apply Keeps.ite | with_reducible apply Keeps.four
    | simp only [Keeps.mk_iff] | split | intro _)

theorem State.warmNow_keeps {base : State} (s : State) (cause detail : Nat) (hk : Keeps base s) :
    Keeps base (State.warmNow s cause detail) := by
  unfold State.warmNow
  repeat' (first
    | with_reducible assumption | with_reducible apply State.absorbReset_keeps
    | with_reducible apply State.assertWarm_keeps | with_reducible apply Keeps.ite | simp only [Keeps.mk_iff]
    | split | intro _)

theorem execMeterSaveDone_keeps {base : State} (ok : Bool) (s : State) (hk : Keeps base s) :
    ResKeeps base (execMeterSaveDone ok s) := by
  unfold execMeterSaveDone
  try dsimp only
  repeat' (first
    | with_reducible assumption | with_reducible apply State.begin_keeps | with_reducible apply State.saveDone_keeps
    | with_reducible apply State.setRst_keeps | with_reducible apply State.assertSystem_keeps
    | with_reducible apply Keeps.ite | with_reducible apply ResKeeps.ite | with_reducible apply ResKeeps.next
    | with_reducible apply Keeps.four | simp only [Keeps.mk_iff] | split | intro _)

theorem State.resetReq_keeps {base : State} (s : State) (v : Word) (hk : Keeps base s) :
    ResKeeps base (State.resetReq s v) := by
  unfold State.resetReq
  try dsimp only
  repeat' (first
    | with_reducible assumption | with_reducible apply State.setFlds_keeps | with_reducible apply State.setRst_keeps
    | with_reducible apply Keeps.ite | with_reducible apply ResKeeps.ite | with_reducible apply ResKeeps.next
    | with_reducible apply ResKeeps.fault | with_reducible apply Keeps.four | simp only [Keeps.mk_iff] | split
    | intro _)

theorem execResetRequest_keeps {base : State} (m : Master) (v : Word) (s : State) (hk : Keeps base s) :
    ResKeeps base (execResetRequest m v s) := by
  unfold execResetRequest
  try dsimp only
  repeat' (first
    | with_reducible assumption | with_reducible apply State.begin_keeps | with_reducible apply State.asArmed_keeps
    | with_reducible apply State.resetReq_keeps | with_reducible apply ResKeeps.next
    | with_reducible apply Keeps.four | simp only [Keeps.mk_iff] | split | intro _)

theorem execResetRequestCancel_keeps {base : State} (m : Master) (v : Word) (s : State) (hk : Keeps base s) :
    ResKeeps base (execResetRequestCancel m v s) := by
  unfold execResetRequestCancel
  try dsimp only
  repeat' (first
    | with_reducible assumption | with_reducible apply State.begin_keeps | with_reducible apply State.asArmed_keeps
    | with_reducible apply State.resetReq_keeps | with_reducible apply ResKeeps.next
    | with_reducible apply Keeps.four | simp only [Keeps.mk_iff] | split | intro _)

theorem execResetRequestDelayExpiry_keeps {base : State} (s : State) (hk : Keeps base s) :
    ResKeeps base (execResetRequestDelayExpiry s) := by
  unfold execResetRequestDelayExpiry
  try dsimp only
  repeat' (first
    | with_reducible assumption | with_reducible apply State.begin_keeps | with_reducible apply State.setFlds_keeps
    | with_reducible apply State.systemSaved_keeps | with_reducible apply State.warmNow_keeps
    | with_reducible apply Keeps.ite | with_reducible apply ResKeeps.ite | with_reducible apply ResKeeps.next
    | with_reducible apply Keeps.four | simp only [Keeps.mk_iff] | split | intro _)

theorem execResetPinLow_keeps {base : State} (s : State) (hk : Keeps base s) :
    ResKeeps base (execResetPinLow s) := by
  unfold execResetPinLow
  try dsimp only
  repeat' (first
    | with_reducible assumption | with_reducible apply State.begin_keeps
    | with_reducible apply State.assertSystem_keeps | with_reducible apply Keeps.ite
    | with_reducible apply ResKeeps.ite | with_reducible apply ResKeeps.next | with_reducible apply Keeps.four
    | simp only [Keeps.mk_iff] | split | intro _)

theorem execResetDriveEnd_keeps {base : State} (s : State) (hk : Keeps base s) :
    ResKeeps base (execResetDriveEnd s) := by
  unfold execResetDriveEnd
  try dsimp only
  repeat' (first
    | with_reducible assumption | with_reducible apply State.begin_keeps | with_reducible apply State.setRst_keeps
    | with_reducible apply Keeps.ite | with_reducible apply ResKeeps.ite | with_reducible apply ResKeeps.next
    | with_reducible apply Keeps.four | simp only [Keeps.mk_iff] | split | intro _)

theorem State.raiseOut_keeps {base : State} (s : State) (hk : Keeps base s) :
    Keeps base (State.raiseOut s) := by
  unfold State.raiseOut
  try dsimp only
  repeat' (first
    | with_reducible assumption | with_reducible apply State.setFld_keeps | with_reducible apply Keeps.four
    | simp only [Keeps.mk_iff] | split | intro _)

theorem execRstOutWrite_keeps {base : State} (m : Master) (v : Word) (s : State) (hk : Keeps base s) :
    ResKeeps base (execRstOutWrite m v s) := by
  unfold execRstOutWrite
  try dsimp only
  repeat' (first
    | with_reducible assumption | with_reducible apply State.begin_keeps | with_reducible apply State.asWrite_keeps
    | with_reducible apply State.setFlag_keeps | with_reducible apply State.setRst_keeps
    | with_reducible apply State.setFld_keeps | with_reducible apply State.raiseOut_keeps
    | with_reducible apply Keeps.ite | with_reducible apply ResKeeps.ite | with_reducible apply ResKeeps.next
    | with_reducible apply Keeps.four | simp only [Keeps.mk_iff] | split | intro _)

theorem execRstOutMinExpiry_keeps {base : State} (s : State) (hk : Keeps base s) :
    ResKeeps base (execRstOutMinExpiry s) := by
  unfold execRstOutMinExpiry
  try dsimp only
  repeat' (first
    | with_reducible assumption | with_reducible apply State.begin_keeps | with_reducible apply State.setRst_keeps
    | with_reducible apply State.raiseOut_keeps | with_reducible apply Keeps.ite | with_reducible apply ResKeeps.ite
    | with_reducible apply ResKeeps.next | with_reducible apply Keeps.four | simp only [Keeps.mk_iff] | split
    | intro _)

theorem State.startPage_keeps {base : State} (s : State) (p : Nat) (hk : Keeps base s) :
    Keeps base (State.startPage s p) := by
  unfold State.startPage
  try dsimp only
  repeat' (first
    | with_reducible assumption | with_reducible apply State.anchorStart_keeps
    | with_reducible apply State.cairnStart_keeps | with_reducible apply State.meterRestart_keeps
    | with_reducible apply Keeps.ite | with_reducible apply Keeps.four | simp only [Keeps.mk_iff] | split | intro _)

theorem State.releasePage_keeps {base : State} (s : State) (p : Nat) (hk : Keeps base s) :
    Keeps base (State.releasePage s p) := by
  unfold State.releasePage
  try dsimp only
  repeat' (first
    | with_reducible assumption | with_reducible apply State.setRst_keeps | with_reducible apply State.setBit_keeps
    | with_reducible apply State.startPage_keeps | with_reducible apply Keeps.four | simp only [Keeps.mk_iff]
    | split | intro _)

theorem State.releaseHarts_keeps {base : State} (s : State) (recOk : Bool) (hk : Keeps base s) :
    Keeps base (State.releaseHarts s recOk) := by
  unfold State.releaseHarts
  try dsimp only
  repeat' (first
    | with_reducible assumption | with_reducible apply State.bootChoose_keeps | with_reducible apply Keeps.four
    | with_reducible apply Keeps.fourMem | simp only [Keeps.mk_iff]
    | (refine fun (hm : Mems.wf _ = true) => ?_; simp only [Mems.wf_iff, State.drawn_mem] at hm ⊢; first | (simp only [hm, memWf_filter, memWf_memWrite, memWf_memClear, memWf_memPut, memWf_nil, and_self]; done) | (simp [hm]; done))
    | split | intro _)

theorem State.releaseAll_keeps {base : State} (s : State) (late : List Nat) (recOk : Bool) (hk : Keeps base s) :
    Keeps base (State.releaseAll s late recOk) := by
  unfold State.releaseAll
  try dsimp only
  repeat' (first
    | with_reducible assumption | with_reducible apply State.releasePage_keeps
    | with_reducible apply State.setClocks_keeps | with_reducible apply State.releaseHarts_keeps
    | with_reducible apply Keeps.foldl | with_reducible apply Keeps.foldlFst | simp only [Keeps.mk_iff] | split
    | intro _)

theorem State.foundLost_keeps {base : State} (s : State) (hk : Keeps base s) :
    Keeps base (State.foundLost s) := by
  unfold State.foundLost
  try dsimp only
  repeat' (first
    | with_reducible assumption | with_reducible apply State.event_keeps | with_reducible apply Keeps.ite
    | with_reducible apply Keeps.four | simp only [Keeps.mk_iff] | split | intro _)

theorem execResetRelease_keeps {base : State} (late : List Nat) (recOk : Bool) (s : State) (hk : Keeps base s) :
    ResKeeps base (execResetRelease late recOk s) := by
  unfold execResetRelease
  try dsimp only
  repeat' (first
    | with_reducible assumption | with_reducible apply State.begin_keeps | with_reducible apply State.setRst_keeps
    | with_reducible apply State.putRecord_keeps | with_reducible apply State.strapRegion_keeps
    | with_reducible apply State.foundLost_keeps | with_reducible apply State.releaseAll_keeps
    | with_reducible apply Keeps.ite | with_reducible apply ResKeeps.ite | with_reducible apply ResKeeps.next
    | with_reducible apply Keeps.four | with_reducible apply Keeps.fourMem | simp only [Keeps.mk_iff]
    | (refine fun (hm : Mems.wf _ = true) => ?_; simp only [Mems.wf_iff, State.drawn_mem] at hm ⊢; first | (simp only [hm, memWf_filter, memWf_memWrite, memWf_memClear, memWf_memPut, memWf_nil, and_self]; done) | (simp [hm]; done))
    | split | intro _)

theorem execWarmResetRelease_keeps {base : State} (recOk : Bool) (s : State) (hk : Keeps base s) :
    ResKeeps base (execWarmResetRelease recOk s) := by
  unfold execWarmResetRelease
  try dsimp only
  repeat' (first
    | with_reducible assumption | with_reducible apply State.begin_keeps | with_reducible apply State.setRst_keeps
    | with_reducible apply State.writeBoot_keeps | with_reducible apply State.releasePage_keeps
    | with_reducible apply State.releaseHarts_keeps | with_reducible apply Keeps.ite
    | with_reducible apply ResKeeps.ite | with_reducible apply ResKeeps.next | with_reducible apply Keeps.foldl
    | with_reducible apply Keeps.foldlFst | with_reducible apply Keeps.four | simp only [Keeps.mk_iff] | split
    | intro _)

theorem State.idleBlock_keeps {base : State} (s : State) (p : Nat) (hk : Keeps base s) :
    Keeps base (State.idleBlock s p) := by
  unfold State.idleBlock
  repeat' (first
    | with_reducible assumption | with_reducible apply State.releaseGroup_keeps
    | with_reducible apply State.saveDue_keeps | with_reducible apply Keeps.ite | simp only [Keeps.mk_iff] | split
    | intro _)

theorem execBlockResetRequest_keeps {base : State} (m : Master) (page : Nat) (s : State) (hk : Keeps base s) :
    ResKeeps base (execBlockResetRequest m page s) := by
  unfold execBlockResetRequest
  try dsimp only
  repeat' (first
    | with_reducible assumption | with_reducible apply State.begin_keeps | with_reducible apply State.asWrite_keeps
    | with_reducible apply State.setFlds_keeps | with_reducible apply State.setFld_keeps
    | with_reducible apply State.absorbReset_keeps | with_reducible apply State.idleBlock_keeps
    | with_reducible apply State.setRst_keeps | with_reducible apply Keeps.ite | with_reducible apply ResKeeps.ite
    | with_reducible apply ResKeeps.next | with_reducible apply Keeps.four | simp only [Keeps.mk_iff] | split
    | intro _)

theorem State.keepSched_keeps {base : State} (s before : State) (hk : Keeps base s) :
    Keeps base (State.keepSched s before) := by
  unfold State.keepSched
  try dsimp only
  repeat' (first
    | with_reducible assumption | with_reducible apply State.setReg_keeps | with_reducible apply Keeps.foldl
    | with_reducible apply Keeps.foldlFst | simp only [Keeps.mk_iff] | split | intro _)

theorem State.assertBlock_keeps {base : State} (s : State) (page : Nat) (forced : Bool) (hk : Keeps base s) :
    Keeps base (State.assertBlock s page forced) := by
  unfold State.assertBlock
  try dsimp only
  repeat' (first
    | with_reducible assumption | with_reducible apply State.resetDisplay_keeps
    | with_reducible apply State.resetControl_keeps | with_reducible apply State.keepSched_keeps
    | with_reducible apply State.setRst_keeps | with_reducible apply State.setFld_keeps
    | with_reducible apply Keeps.ite | with_reducible apply Keeps.four | simp only [Keeps.mk_iff] | split | intro _)

theorem execBlockIdleReached_keeps {base : State} (page us : Nat) (s : State) (hk : Keeps base s) :
    ResKeeps base (execBlockIdleReached page us s) := by
  unfold execBlockIdleReached
  try dsimp only
  repeat' (first
    | with_reducible assumption | with_reducible apply State.begin_keeps | with_reducible apply State.setFld_keeps
    | with_reducible apply State.assertBlock_keeps | with_reducible apply Keeps.ite
    | with_reducible apply ResKeeps.ite | with_reducible apply ResKeeps.next | simp only [Keeps.mk_iff] | split
    | intro _)

theorem execBlockResetTimeout_keeps {base : State} (page : Nat) (s : State) (hk : Keeps base s) :
    ResKeeps base (execBlockResetTimeout page s) := by
  unfold execBlockResetTimeout
  try dsimp only
  repeat' (first
    | with_reducible assumption | with_reducible apply State.begin_keeps | with_reducible apply State.setFlds_keeps
    | with_reducible apply State.inc_keeps | with_reducible apply State.irq_keeps
    | with_reducible apply State.assertBlock_keeps | with_reducible apply Keeps.ite
    | with_reducible apply ResKeeps.ite | with_reducible apply ResKeeps.next | with_reducible apply Keeps.four
    | simp only [Keeps.mk_iff] | split | intro _)

theorem State.reloadBanks_keeps {base : State} (s : State) (k p : Nat) (hk : Keeps base s) :
    Keeps base (State.reloadBanks s k p) := by
  unfold State.reloadBanks
  try dsimp only
  repeat' (first
    | with_reducible assumption | with_reducible apply State.loadBank_keeps
    | with_reducible apply State.takeBank_keeps | with_reducible apply State.takeGovPart_keeps
    | with_reducible apply Keeps.ite | with_reducible apply Keeps.four | simp only [Keeps.mk_iff] | split | intro _)

theorem State.reloadSection_keeps {base : State} (s : State) (a p : Nat) (hk : Keeps base s) :
    Keeps base (State.reloadSection s a p) := by
  unfold State.reloadSection
  try dsimp only
  repeat' (first
    | with_reducible assumption | with_reducible apply State.takeSection_keeps
    | with_reducible apply State.loadWords_keeps | with_reducible apply State.deriveScree_keeps
    | with_reducible apply State.loadRange_keeps' | with_reducible apply State.takeRailSection_keeps
    | with_reducible apply State.railsReturn_keeps | with_reducible apply Keeps.ite | simp only [Keeps.mk_iff]
    | split | intro _)

theorem State.reloadPage_keeps {base : State} (s : State) (p : Nat) (hk : Keeps base s) :
    Keeps base (State.reloadPage s p) := by
  unfold State.reloadPage
  try dsimp only
  repeat' (first
    | with_reducible assumption | with_reducible apply State.takeNet_keeps
    | with_reducible apply State.takePtp_keeps | with_reducible apply State.takeSection_keeps
    | with_reducible apply State.loadRange_keeps' | with_reducible apply State.loadWords_keeps
    | with_reducible apply State.reloadBanks_keeps | with_reducible apply State.reloadSection_keeps
    | with_reducible apply Keeps.ite | with_reducible apply Keeps.four | simp only [Keeps.mk_iff] | split | intro _)

theorem State.blockStart_keeps {base : State} (s : State) (p : Nat) (hk : Keeps base s) :
    Keeps base (State.blockStart s p) := by
  unfold State.blockStart
  try dsimp only
  repeat' (first
    | with_reducible assumption | with_reducible apply State.startAcquire_keeps
    | with_reducible apply State.meterFrontReset_keeps | with_reducible apply State.pushSlot_keeps
    | with_reducible apply Keeps.ite | with_reducible apply Keeps.foldl | with_reducible apply Keeps.foldlFst
    | simp only [Keeps.mk_iff] | split | intro _)

theorem State.blockRelease_keeps {base : State} (s : State) (page : Nat) (hk : Keeps base s) :
    Keeps base (State.blockRelease s page) := by
  unfold State.blockRelease
  try dsimp only
  repeat' (first
    | with_reducible assumption | with_reducible apply State.setRst_keeps | with_reducible apply State.setFld_keeps
    | with_reducible apply State.releasePage_keeps | with_reducible apply State.reloadPage_keeps
    | with_reducible apply State.blockStart_keeps | with_reducible apply State.inc_keeps
    | with_reducible apply State.irq_keeps | with_reducible apply State.fenceBlock_keeps
    | with_reducible apply Keeps.ite | with_reducible apply Keeps.four | simp only [Keeps.mk_iff] | split | intro _)

theorem execBlockResetRelease_keeps {base : State} (page : Nat) (s : State) (hk : Keeps base s) :
    ResKeeps base (execBlockResetRelease page s) := by
  unfold execBlockResetRelease
  try dsimp only
  repeat' (first
    | with_reducible assumption | with_reducible apply State.begin_keeps
    | with_reducible apply State.blockRelease_keeps | with_reducible apply Keeps.ite
    | with_reducible apply ResKeeps.ite | with_reducible apply ResKeeps.next | with_reducible apply Keeps.four
    | simp only [Keeps.mk_iff] | split | intro _)

theorem execClockReady_keeps {base : State} (sources pages : List Nat) (s : State) (hk : Keeps base s) :
    ResKeeps base (execClockReady sources pages s) := by
  unfold execClockReady
  try dsimp only
  repeat' (first
    | with_reducible assumption | with_reducible apply State.begin_keeps | with_reducible apply State.setRst_keeps
    | with_reducible apply State.setBit_keeps | with_reducible apply State.blockRelease_keeps
    | with_reducible apply State.releasePage_keeps | with_reducible apply Keeps.ite
    | with_reducible apply ResKeeps.ite | with_reducible apply ResKeeps.next | with_reducible apply Keeps.foldl
    | with_reducible apply Keeps.foldlFst | with_reducible apply Keeps.four | simp only [Keeps.mk_iff] | split
    | intro _)

theorem execClockTimeout_keeps {base : State} (source : Option Nat) (pages : List Nat) (s : State) (hk : Keeps base s) :
    ResKeeps base (execClockTimeout source pages s) := by
  unfold execClockTimeout
  try dsimp only
  repeat' (first
    | with_reducible assumption | with_reducible apply State.begin_keeps | with_reducible apply State.setBit_keeps
    | with_reducible apply State.irq_keeps | with_reducible apply State.setRst_keeps
    | with_reducible apply State.fenceBlock_keeps | with_reducible apply Keeps.ite
    | with_reducible apply ResKeeps.ite | with_reducible apply ResKeeps.next | with_reducible apply Keeps.foldl
    | with_reducible apply Keeps.foldlFst | with_reducible apply Keeps.four | simp only [Keeps.mk_iff] | split
    | intro _)

theorem execClockLoss_keeps {base : State} (source : Nat) (pages : List Nat) (s : State) (hk : Keeps base s) :
    ResKeeps base (execClockLoss source pages s) := by
  unfold execClockLoss
  try dsimp only
  repeat' (first
    | with_reducible assumption | with_reducible apply State.begin_keeps | with_reducible apply State.setBit_keeps
    | with_reducible apply State.inc_keeps | with_reducible apply State.irq_keeps
    | with_reducible apply State.setRst_keeps | with_reducible apply State.fenceBlock_keeps
    | with_reducible apply Keeps.ite | with_reducible apply ResKeeps.ite | with_reducible apply ResKeeps.next
    | with_reducible apply Keeps.foldl | with_reducible apply Keeps.foldlFst | with_reducible apply Keeps.four
    | simp only [Keeps.mk_iff] | split | intro _)

theorem execPowerOn_keeps {base : State} (samples : List Nat) (s : State) (hk : Keeps base s) :
    ResKeeps base (execPowerOn samples s) := by
  unfold execPowerOn
  try dsimp only
  repeat' (first
    | with_reducible assumption | with_reducible apply State.begin_keeps
    | with_reducible apply State.assertCold_keeps | with_reducible apply State.setSupplies_keeps
    | with_reducible apply State.setFlds_keeps | with_reducible apply Keeps.ite | with_reducible apply ResKeeps.ite
    | with_reducible apply ResKeeps.next | simp only [Keeps.mk_iff] | split | intro _)

theorem execPfWarnRaised_keeps {base : State} (s : State) (hk : Keeps base s) :
    ResKeeps base (execPfWarnRaised s) := by
  unfold execPfWarnRaised
  try dsimp only
  repeat' (first
    | with_reducible assumption | with_reducible apply State.begin_keeps
    | with_reducible apply State.abandonEntry_keeps | with_reducible apply State.abandonSave_keeps
    | with_reducible apply State.setRst_keeps | with_reducible apply State.unfreeze_keeps
    | with_reducible apply State.intervalEnd_keeps | with_reducible apply State.urgentFlush_keeps
    | with_reducible apply State.pfSave_keeps | with_reducible apply Keeps.ite | with_reducible apply ResKeeps.ite
    | with_reducible apply ResKeeps.next | with_reducible apply Keeps.four | simp only [Keeps.mk_iff] | split
    | intro _)

theorem execPfWarnReleased_keeps {base : State} (s : State) (hk : Keeps base s) :
    ResKeeps base (execPfWarnReleased s) := by
  unfold execPfWarnReleased
  try dsimp only
  repeat' (first
    | with_reducible assumption | with_reducible apply State.begin_keeps | with_reducible apply ResKeeps.next
    | with_reducible apply Keeps.four | simp only [Keeps.mk_iff] | split | intro _)

theorem execBrownout_keeps {base : State} (s : State) (hk : Keeps base s) :
    ResKeeps base (execBrownout s) := by
  unfold execBrownout
  try dsimp only
  repeat' (first
    | with_reducible assumption | with_reducible apply State.begin_keeps
    | with_reducible apply State.setSupplies_keeps | with_reducible apply State.latchBrownout_keeps
    | with_reducible apply State.absorbReset_keeps | with_reducible apply State.assertCold_keeps
    | with_reducible apply Keeps.ite | with_reducible apply ResKeeps.ite | with_reducible apply ResKeeps.next
    | with_reducible apply Keeps.four | simp only [Keeps.mk_iff] | split | intro _)

theorem State.tamperResponse_keeps {base : State} (s : State) (hk : Keeps base s) :
    Keeps base (State.tamperResponse s) := by
  unfold State.tamperResponse
  try dsimp only
  repeat' (first
    | with_reducible assumption | with_reducible apply State.tamperDestroys_keeps
    | with_reducible apply State.systemNow_keeps | with_reducible apply Keeps.ite | simp only [Keeps.mk_iff] | split
    | intro _)

theorem execAnchorReady_keeps {base : State} (entropy selftest header : Bool) (damaged : List Nat) (s : State) (hk : Keeps base s) :
    ResKeeps base (execAnchorReady entropy selftest header damaged s) := by
  unfold execAnchorReady
  try dsimp only
  repeat' (first
    | with_reducible assumption | with_reducible apply State.begin_keeps
    | with_reducible apply State.anchorTests_keeps | with_reducible apply State.setAnchor_keeps
    | with_reducible apply State.irq_keeps | with_reducible apply State.record_keeps
    | with_reducible apply State.tamperResponse_keeps | with_reducible apply State.setFld_keeps
    | with_reducible apply State.autoPush_keeps | with_reducible apply Keeps.ite | with_reducible apply ResKeeps.ite
    | with_reducible apply ResKeeps.next | with_reducible apply Keeps.four | simp only [Keeps.mk_iff] | split
    | intro _)

theorem execTamperEvent_keeps {base : State} (source : Nat) (unpowered : Bool) (s : State) (hk : Keeps base s) :
    ResKeeps base (execTamperEvent source unpowered s) := by
  unfold execTamperEvent
  try dsimp only
  repeat' (first
    | with_reducible assumption | with_reducible apply State.begin_keeps | with_reducible apply State.setFld_keeps
    | with_reducible apply State.setBit_keeps | with_reducible apply State.setFlds_keeps
    | with_reducible apply State.satInc_keeps | with_reducible apply State.setAnchor_keeps
    | with_reducible apply State.event_keeps | with_reducible apply State.tamperResponse_keeps
    | with_reducible apply Keeps.ite | with_reducible apply ResKeeps.ite | with_reducible apply ResKeeps.next
    | with_reducible apply Keeps.four | simp only [Keeps.mk_iff] | split | intro _)

theorem execUpdHealthExpiry_keeps {base : State} (s : State) (hk : Keeps base s) :
    ResKeeps base (execUpdHealthExpiry s) := by
  unfold execUpdHealthExpiry
  try dsimp only
  repeat' (first
    | with_reducible assumption | with_reducible apply State.begin_keeps | with_reducible apply State.setFlds_keeps
    | with_reducible apply State.warmNow_keeps | with_reducible apply Keeps.ite | with_reducible apply ResKeeps.ite
    | with_reducible apply ResKeeps.next | simp only [Keeps.mk_iff] | split | intro _)

theorem State.reachFrame_keeps {base : State} (s : State) (frame : Nat) (hk : Keeps base s) :
    Keeps base (State.reachFrame s frame) := by
  unfold State.reachFrame
  try dsimp only
  repeat' (first
    | with_reducible assumption | with_reducible apply State.atTime_keeps | simp only [Keeps.mk_iff] | split
    | intro _)

theorem State.oweActivation_keeps {base : State} (s : State) (hk : Keeps base s) :
    Keeps base (State.oweActivation s) := by
  unfold State.oweActivation
  try dsimp only
  repeat' (first
    | with_reducible assumption | with_reducible apply Keeps.four | simp only [Keeps.mk_iff] | split | intro _)

theorem execActivationDue_keeps {base : State} (recOk : Bool) (s : State) (hk : Keeps base s) :
    ResKeeps base (execActivationDue recOk s) := by
  unfold execActivationDue
  try dsimp only
  repeat' (first
    | with_reducible assumption | with_reducible apply State.begin_keeps
    | with_reducible apply State.reachFrame_keeps | with_reducible apply State.disarmActivation_keeps
    | with_reducible apply State.inc_keeps | with_reducible apply State.irq_keeps
    | with_reducible apply State.oweActivation_keeps | with_reducible apply State.writeBoot_keeps
    | with_reducible apply State.warmNow_keeps | with_reducible apply Keeps.ite | with_reducible apply ResKeeps.ite
    | with_reducible apply ResKeeps.next | simp only [Keeps.mk_iff] | split | intro _)

theorem execWdtSysKick_keeps {base : State} (m : Master) (v : Word) (s : State) (hk : Keeps base s) :
    ResKeeps base (execWdtSysKick m v s) := by
  unfold execWdtSysKick
  try dsimp only
  repeat' (first
    | with_reducible assumption | with_reducible apply State.begin_keeps | with_reducible apply State.asWrite_keeps
    | with_reducible apply State.setFld_keeps | with_reducible apply State.wdtLeft_keeps
    | with_reducible apply Keeps.ite | with_reducible apply ResKeeps.ite | with_reducible apply ResKeeps.next
    | with_reducible apply Keeps.four | simp only [Keeps.mk_iff] | split | intro _)

theorem execWdtSysHalf_keeps {base : State} (s : State) (hk : Keeps base s) :
    ResKeeps base (execWdtSysHalf s) := by
  unfold execWdtSysHalf
  try dsimp only
  repeat' (first
    | with_reducible assumption | with_reducible apply State.begin_keeps | with_reducible apply State.setFld_keeps
    | with_reducible apply State.wdtLeft_keeps | with_reducible apply State.irq_keeps
    | with_reducible apply Keeps.ite | with_reducible apply ResKeeps.ite | with_reducible apply ResKeeps.next
    | simp only [Keeps.mk_iff] | split | intro _)

theorem execWdtSysExpiry_keeps {base : State} (s : State) (hk : Keeps base s) :
    ResKeeps base (execWdtSysExpiry s) := by
  unfold execWdtSysExpiry
  try dsimp only
  repeat' (first
    | with_reducible assumption | with_reducible apply State.begin_keeps | with_reducible apply State.wdtLeft_keeps
    | with_reducible apply State.systemNow_keeps | with_reducible apply Keeps.ite
    | with_reducible apply ResKeeps.ite | with_reducible apply ResKeeps.next | simp only [Keeps.mk_iff] | split
    | intro _)

theorem execWdtCoreKick_keeps {base : State} (m : Master) (v : Word) (s : State) (hk : Keeps base s) :
    ResKeeps base (execWdtCoreKick m v s) := by
  unfold execWdtCoreKick
  try dsimp only
  repeat' (first
    | with_reducible assumption | with_reducible apply State.begin_keeps | with_reducible apply State.asWrite_keeps
    | with_reducible apply State.setHart_keeps | with_reducible apply Keeps.ite | with_reducible apply ResKeeps.ite
    | with_reducible apply ResKeeps.next | with_reducible apply Keeps.four | simp only [Keeps.mk_iff] | split
    | intro _)

theorem execWdtCoreExpiry_keeps {base : State} (h : Nat) (s : State) (hk : Keeps base s) :
    ResKeeps base (execWdtCoreExpiry h s) := by
  unfold execWdtCoreExpiry
  try dsimp only
  repeat' (first
    | with_reducible assumption | with_reducible apply State.begin_keeps | with_reducible apply State.warmNow_keeps
    | with_reducible apply State.setBit_keeps | with_reducible apply State.setHart_keeps
    | with_reducible apply State.irq_keeps | with_reducible apply Keeps.ite | with_reducible apply ResKeeps.ite
    | with_reducible apply ResKeeps.next | with_reducible apply Keeps.four | simp only [Keeps.mk_iff] | split
    | intro _)

end Sys2Proof.Machine
end

