-- ==== Sys2Proof/Laws/KeepsWake.lean ====
section
/-! SUPPORT. What the operations of Machine/Wake.lean keep (Laws/Keeps.lean). -/
set_option linter.all false
set_option Elab.async false

namespace Sys2Proof.Machine

theorem State.goDeep_keeps {base : State} (s : State) (t : Nat) (hk : Keeps base s) :
    Keeps base (State.goDeep s t) := by
  unfold State.goDeep
  try dsimp only
  repeat' (first
    | with_reducible assumption | with_reducible apply State.closeAll_keeps
    | with_reducible apply State.dropLead_keeps | with_reducible apply State.setSide_keeps
    | with_reducible apply State.setSupplies_keeps | with_reducible apply State.setFlds_keeps
    | with_reducible apply Keeps.ite | with_reducible apply Keeps.four | simp only [Keeps.mk_iff] | split | intro _)

theorem State.ap4_keeps {base : State} (s : State) (t : Nat) (hk : Keeps base s) :
    Keeps base (State.ap4 s t) := by
  unfold State.ap4
  try dsimp only
  repeat' (first
    | with_reducible assumption | with_reducible apply State.goDeep_keeps | with_reducible apply State.pwrEnds_keeps
    | with_reducible apply State.setFlds_keeps | with_reducible apply State.setPwr_keeps
    | with_reducible apply State.inc_keeps | with_reducible apply State.setFld_keeps
    | with_reducible apply State.irq_keeps | with_reducible apply Keeps.ite | with_reducible apply Keeps.four
    | simp only [Keeps.mk_iff] | split | intro _)

theorem execPowerEntryStep_keeps {base : State} (s : State) (hk : Keeps base s) :
    ResKeeps base (execPowerEntryStep s) := by
  unfold execPowerEntryStep
  try dsimp only
  repeat' (first
    | with_reducible assumption | with_reducible apply State.begin_keeps | with_reducible apply State.setPwr_keeps
    | with_reducible apply State.entryStep_keeps | with_reducible apply State.ap4_keeps
    | with_reducible apply Keeps.ite | with_reducible apply ResKeeps.ite | with_reducible apply ResKeeps.next
    | with_reducible apply Keeps.four | simp only [Keeps.mk_iff] | split | intro _)

theorem State.loseBank_keeps {base : State} (s : State) (b : Nat) (hk : Keeps base s) :
    Keeps base (State.loseBank s b) := by
  unfold State.loseBank
  try dsimp only
  repeat' (first
    | with_reducible assumption | with_reducible apply State.setBit_keeps | with_reducible apply State.irq_keeps
    | with_reducible apply State.record_keeps | with_reducible apply State.setFld_keeps
    | with_reducible apply State.cairnLoss_keeps | with_reducible apply Keeps.ite | with_reducible apply Keeps.four
    | with_reducible apply Keeps.fourMem | simp only [Keeps.mk_iff]
    | (refine fun (hm : Mems.wf _ = true) => ?_; simp only [Mems.wf_iff, State.drawn_mem] at hm ⊢; first | (simp only [hm, memWf_filter, memWf_memWrite, memWf_memClear, memWf_memPut, memWf_nil, and_self]; done) | (simp [hm]; done))
    | split | intro _)

theorem State.retCheck_keeps {base : State} (s : State) (decayed : List Nat) (hk : Keeps base s) :
    Keeps base (State.retCheck s decayed) := by
  unfold State.retCheck
  try dsimp only
  repeat' (first
    | with_reducible assumption | with_reducible apply State.loseBank_keeps | with_reducible apply Keeps.ite
    | with_reducible apply Keeps.foldl | with_reducible apply Keeps.foldlFst | simp only [Keeps.mk_iff] | split
    | intro _)

theorem State.wakeControl_keeps {base : State} (s : State) (decayed : List Nat) (hk : Keeps base s) :
    Keeps base (State.wakeControl s decayed) := by
  unfold State.wakeControl
  try dsimp only
  repeat' (first
    | with_reducible assumption | with_reducible apply State.retCheck_keeps
    | with_reducible apply State.setFld_keeps | with_reducible apply State.setClocks_keeps
    | with_reducible apply State.setPwr_keeps | with_reducible apply State.ringWrite_keeps
    | with_reducible apply Keeps.four | simp only [Keeps.mk_iff] | split | intro _)

theorem State.wake_keeps {base : State} (s : State) (source : Nat) (decayed : List Nat) (hk : Keeps base s) :
    Keeps base (State.wake s source decayed) := by
  unfold State.wake
  try dsimp only
  repeat' (first
    | with_reducible assumption | with_reducible apply State.setBit_keeps
    | with_reducible apply State.abandonEntry_keeps | with_reducible apply State.setFld_keeps
    | with_reducible apply State.wakeControl_keeps | with_reducible apply State.startReturn_keeps
    | with_reducible apply Keeps.ite | simp only [Keeps.mk_iff] | split | intro _)

theorem execWakeEvent_keeps {base : State} (source : Nat) (decayed : List Nat) (s : State) (hk : Keeps base s) :
    ResKeeps base (execWakeEvent source decayed s) := by
  unfold execWakeEvent
  repeat' (first
    | with_reducible assumption | with_reducible apply State.wake_keeps | with_reducible apply State.begin_keeps
    | with_reducible apply ResKeeps.next | simp only [Keeps.mk_iff] | split | intro _)

theorem execDormantListenWindow_keeps {base : State} (s : State) (hk : Keeps base s) :
    ResKeeps base (execDormantListenWindow s) := by
  unfold execDormantListenWindow
  try dsimp only
  repeat' (first
    | with_reducible assumption | with_reducible apply State.begin_keeps | with_reducible apply State.setPwr_keeps
    | with_reducible apply Keeps.ite | with_reducible apply ResKeeps.ite | with_reducible apply ResKeeps.next
    | with_reducible apply Keeps.four | simp only [Keeps.mk_iff] | split | intro _)

theorem State.wakeDormant_keeps {base : State} (s : State) (f : SideFrame) (hk : Keeps base s) :
    Keeps base (State.wakeDormant s f) := by
  unfold State.wakeDormant
  try dsimp only
  repeat' (first
    | with_reducible assumption | with_reducible apply State.sideRefuse_keeps
    | with_reducible apply State.sideAccept_keeps | with_reducible apply State.owesAck_keeps
    | with_reducible apply State.wake_keeps | with_reducible apply State.inc_keeps | with_reducible apply Keeps.ite
    | simp only [Keeps.mk_iff] | split | intro _)

theorem execSideWakeReceive_keeps {base : State} (f : SideFrame) (s : State) (hk : Keeps base s) :
    ResKeeps base (execSideWakeReceive f s) := by
  unfold execSideWakeReceive
  try dsimp only
  repeat' (first
    | with_reducible assumption | with_reducible apply State.begin_keeps
    | with_reducible apply State.wakeDormant_keeps | with_reducible apply State.wakeFrame_keeps
    | with_reducible apply Keeps.ite | with_reducible apply ResKeeps.ite | with_reducible apply ResKeeps.next
    | simp only [Keeps.mk_iff] | split | intro _)

theorem execReturnRegulatorTimeout_keeps {base : State} (s : State) (hk : Keeps base s) :
    ResKeeps base (execReturnRegulatorTimeout s) := by
  unfold execReturnRegulatorTimeout
  try dsimp only
  repeat' (first
    | with_reducible assumption | with_reducible apply State.begin_keeps | with_reducible apply State.setPwr_keeps
    | with_reducible apply State.fenceBlock_keeps | with_reducible apply State.irq_keeps
    | with_reducible apply Keeps.ite | with_reducible apply ResKeeps.ite | with_reducible apply ResKeeps.next
    | with_reducible apply Keeps.four | simp only [Keeps.mk_iff] | split | intro _)

theorem execRegulatorStageRetry_keeps {base : State} (s : State) (hk : Keeps base s) :
    ResKeeps base (execRegulatorStageRetry s) := by
  unfold execRegulatorStageRetry
  try dsimp only
  repeat' (first
    | with_reducible assumption | with_reducible apply State.begin_keeps | with_reducible apply State.setPwr_keeps
    | with_reducible apply Keeps.ite | with_reducible apply ResKeeps.ite | with_reducible apply ResKeeps.next
    | with_reducible apply Keeps.four | simp only [Keeps.mk_iff] | split | intro _)

theorem State.returnMemory_keeps {base : State} (s : State) (decayed : List Nat) (hk : Keeps base s) :
    Keeps base (State.returnMemory s decayed) := by
  unfold State.returnMemory
  try dsimp only
  repeat' (first
    | with_reducible assumption | with_reducible apply State.fresh_keeps | with_reducible apply State.retCheck_keeps
    | with_reducible apply Keeps.ite | with_reducible apply Keeps.four | simp only [Keeps.mk_iff] | split | intro _)
  all_goals first | exact memWf_nil | exact ((Mems.wf_iff _).mp (hk.2.2 ‹base.Ok›).2).2.2.2.1

theorem State.wakeDone_keeps {base : State} (s : State) (recOk : Bool) (hk : Keeps base s) :
    Keeps base (State.wakeDone s recOk) := by
  unfold State.wakeDone
  try dsimp only
  repeat' (first
    | with_reducible assumption | with_reducible apply State.setPwr_keeps | with_reducible apply State.setFlds_keeps
    | with_reducible apply State.releaseAll_keeps | with_reducible apply State.wdtLeft_keeps
    | with_reducible apply State.irq_keeps | with_reducible apply State.ckptRestore_keeps
    | with_reducible apply Keeps.ite | with_reducible apply Keeps.four | simp only [Keeps.mk_iff] | split | intro _)

theorem State.displayBack_keeps {base : State} (s : State) (hk : Keeps base s) :
    Keeps base (State.displayBack s) := by
  unfold State.displayBack
  try dsimp only
  repeat' (first
    | with_reducible assumption | with_reducible apply State.setPwr_keeps
    | with_reducible apply State.reloadPage_keeps | with_reducible apply State.resumeRun_keeps
    | with_reducible apply Keeps.four | simp only [Keeps.mk_iff] | split | intro _)

theorem execReturnStageDone_keeps {base : State} (time : Nat) (decayed : List Nat) (recOk : Bool) (s : State) (hk : Keeps base s) :
    ResKeeps base (execReturnStageDone time decayed recOk s) := by
  unfold execReturnStageDone
  try dsimp only
  repeat' (first
    | with_reducible assumption | with_reducible apply State.begin_keeps
    | with_reducible apply State.setSupplies_keeps | with_reducible apply State.setPwr_keeps
    | with_reducible apply State.setFld_keeps | with_reducible apply State.setClocks_keeps
    | with_reducible apply State.returnMemory_keeps | with_reducible apply State.wakeDone_keeps
    | with_reducible apply State.displayBack_keeps | with_reducible apply Keeps.ite
    | with_reducible apply ResKeeps.ite | with_reducible apply ResKeeps.next | with_reducible apply Keeps.four
    | simp only [Keeps.mk_iff] | split | intro _)

end Sys2Proof.Machine
end

