-- ==== Sys2Proof/Laws/KeepsView.lean ====
section
/-! SUPPORT. What the operations of Machine/View.lean keep (Laws/Keeps.lean). -/
set_option linter.all false
set_option Elab.async false

namespace Sys2Proof.Machine

theorem State.latch_keeps {base : State} (s : State) (m : Master) (page off : Nat) (hk : Keeps base s) :
    Keeps base (State.latch s m page off) := by
  unfold State.latch
  try dsimp only
  repeat' (first
    | with_reducible assumption | with_reducible apply Keeps.foldl | with_reducible apply Keeps.foldlFst
    | with_reducible apply Keeps.four | simp only [Keeps.mk_iff] | split | intro _)

end Sys2Proof.Machine
end

