-- ==== Sys2Proof/Laws/KeepsGenCheck.lean ====
section
/-! SUPPORT. What the operations of Machine/GenCheck.lean keep (Laws/Keeps.lean). -/
set_option linter.all false
set_option Elab.async false

namespace Sys2Proof.Machine

theorem State.startStage_keeps {base : State} (s : State) (slot a : Nat) (hk : Keeps base s) :
    Keeps base (State.startStage s slot a) := by
  unfold State.startStage
  try dsimp only
  repeat' (first
    | with_reducible assumption | with_reducible apply State.setFld_keeps | with_reducible apply Keeps.four
    | simp only [Keeps.mk_iff] | split | intro _)

theorem State.stageGo_keeps {base : State} (s : State) (slot : Nat) (hk : Keeps base s) :
    ResKeeps base (State.stageGo s slot) := by
  unfold State.stageGo
  try dsimp only
  repeat' (first
    | with_reducible assumption | with_reducible apply State.startStage_keeps | with_reducible apply Keeps.ite
    | with_reducible apply ResKeeps.ite | with_reducible apply ResKeeps.next | with_reducible apply ResKeeps.fault
    | simp only [Keeps.mk_iff] | split | intro _)

theorem execGenStageGo_keeps {base : State} (m : Master) (slot : Nat) (s : State) (hk : Keeps base s) :
    ResKeeps base (execGenStageGo m slot s) := by
  unfold execGenStageGo
  try dsimp only
  repeat' (first
    | with_reducible assumption | with_reducible apply State.begin_keeps | with_reducible apply State.asWrite_keeps
    | with_reducible apply State.stageGo_keeps | with_reducible apply ResKeeps.next | simp only [Keeps.mk_iff]
    | split | intro _)

end Sys2Proof.Machine
end

