-- ==== Sys2Proof/Laws/KeepsPeriph.lean ====
section
/-! SUPPORT. What the operations of Machine/Periph.lean keep (Laws/Keeps.lean). -/
set_option linter.all false
set_option Elab.async false

namespace Sys2Proof.Machine

theorem State.i2cWrite_keeps {base : State} (s : State) (m : Master) (n : Nat) (v : Word) (hk : Keeps base s) :
    ResKeeps base (State.i2cWrite s m n v) := by
  unfold State.i2cWrite
  try dsimp only
  repeat' (first
    | with_reducible assumption | with_reducible apply State.asWrite_keeps
    | with_reducible apply State.setFlds_keeps | with_reducible apply State.setFld_keeps
    | with_reducible apply State.emit_keeps | with_reducible apply Keeps.ite | with_reducible apply ResKeeps.ite
    | with_reducible apply ResKeeps.next | with_reducible apply ResKeeps.fault | simp only [Keeps.mk_iff] | split
    | intro _)

theorem execI2cCommandDone_keeps {base : State} (n result : Nat) (data : List Byte) (s : State) (hk : Keeps base s) :
    ResKeeps base (execI2cCommandDone n result data s) := by
  unfold execI2cCommandDone
  try dsimp only
  repeat' (first
    | with_reducible assumption | with_reducible apply State.begin_keeps | with_reducible apply State.setFlds_keeps
    | with_reducible apply State.setFld_keeps | with_reducible apply State.irq_keeps
    | with_reducible apply Keeps.ite | with_reducible apply ResKeeps.ite | with_reducible apply ResKeeps.next
    | with_reducible apply Keeps.foldl | with_reducible apply Keeps.foldlFst | simp only [Keeps.mk_iff] | split
    | intro _)

theorem execUartRxByte_keeps {base : State} (byte : Nat) (s : State) (hk : Keeps base s) :
    ResKeeps base (execUartRxByte byte s) := by
  unfold execUartRxByte
  try dsimp only
  repeat' (first
    | with_reducible assumption | with_reducible apply State.begin_keeps | with_reducible apply State.irq_keeps
    | with_reducible apply State.setFld_keeps | with_reducible apply Keeps.ite | with_reducible apply ResKeeps.ite
    | with_reducible apply ResKeeps.next | with_reducible apply Keeps.four | simp only [Keeps.mk_iff] | split
    | intro _)

theorem execUartDataRead_keeps {base : State} (m : Master) (s : State) (hk : Keeps base s) :
    ResKeeps base (execUartDataRead m s) := by
  unfold execUartDataRead
  try dsimp only
  repeat' (first
    | with_reducible assumption | with_reducible apply State.begin_keeps | with_reducible apply State.emit_keeps
    | with_reducible apply State.drawn_keeps | with_reducible apply Keeps.ite | with_reducible apply ResKeeps.ite
    | with_reducible apply ResKeeps.next | with_reducible apply ResKeeps.refused | with_reducible apply Keeps.four
    | simp only [Keeps.mk_iff] | split | intro _)

theorem State.uartWrite_keeps {base : State} (s : State) (m : Master) (v : Word) (hk : Keeps base s) :
    ResKeeps base (State.uartWrite s m v) := by
  unfold State.uartWrite
  try dsimp only
  repeat' (first
    | with_reducible assumption | with_reducible apply State.asWrite_keeps | with_reducible apply Keeps.ite
    | with_reducible apply ResKeeps.ite | with_reducible apply ResKeeps.next | with_reducible apply Keeps.four
    | simp only [Keeps.mk_iff] | split | intro _)

theorem State.uartTick_keeps {base : State} (s : State) (hk : Keeps base s) :
    Keeps base (State.uartTick s) := by
  unfold State.uartTick
  try dsimp only
  repeat' (first
    | with_reducible assumption | with_reducible apply State.emit_keeps | with_reducible apply State.irq_keeps
    | with_reducible apply Keeps.ite | with_reducible apply Keeps.four | simp only [Keeps.mk_iff] | split | intro _)

theorem State.gpioEdges_keeps {base : State} (s : State) (was : Nat) (hk : Keeps base s) :
    Keeps base (State.gpioEdges s was) := by
  unfold State.gpioEdges
  try dsimp only
  repeat' (first
    | with_reducible assumption | with_reducible apply State.setBit_keeps | with_reducible apply State.irq_keeps
    | with_reducible apply Keeps.ite | with_reducible apply Keeps.foldl | with_reducible apply Keeps.foldlFst
    | simp only [Keeps.mk_iff] | split | intro _)

theorem execGpioEdge_keeps {base : State} (k : Nat) (level : Bool) (s : State) (hk : Keeps base s) :
    ResKeeps base (execGpioEdge k level s) := by
  unfold execGpioEdge
  try dsimp only
  repeat' (first
    | with_reducible assumption | with_reducible apply State.begin_keeps
    | with_reducible apply State.gpioEdges_keeps | with_reducible apply ResKeeps.next
    | with_reducible apply Keeps.four | simp only [Keeps.mk_iff] | split | intro _)

theorem execFanBelowMin_keeps {base : State} (k rpm : Nat) (s : State) (hk : Keeps base s) :
    ResKeeps base (execFanBelowMin k rpm s) := by
  unfold execFanBelowMin
  try dsimp only
  repeat' (first
    | with_reducible assumption | with_reducible apply State.begin_keeps | with_reducible apply State.setFld_keeps
    | with_reducible apply State.irq_keeps | with_reducible apply Keeps.ite | with_reducible apply ResKeeps.ite
    | with_reducible apply ResKeeps.next | simp only [Keeps.mk_iff] | split | intro _)

theorem execTempMeasure_keeps {base : State} (die : Int) (ext : List (Option Int)) (s : State) (hk : Keeps base s) :
    ResKeeps base (execTempMeasure die ext s) := by
  unfold execTempMeasure
  try dsimp only
  repeat' (first
    | with_reducible assumption | with_reducible apply State.begin_keeps | with_reducible apply State.setFlds_keeps
    | with_reducible apply State.setFld_keeps | with_reducible apply State.irq_keeps
    | with_reducible apply Keeps.ite | with_reducible apply ResKeeps.ite | with_reducible apply ResKeeps.next
    | with_reducible apply Keeps.foldl | with_reducible apply Keeps.foldlFst | simp only [Keeps.mk_iff] | split
    | intro _)

theorem State.bellChanged_keeps {base : State} (s : State) (m : Master) (cleared : Bool) (hk : Keeps base s) :
    Keeps base (State.bellChanged s m cleared) := by
  unfold State.bellChanged
  try dsimp only
  repeat' (first
    | with_reducible assumption | with_reducible apply State.irq_keeps | with_reducible apply Keeps.ite
    | with_reducible apply Keeps.four | simp only [Keeps.mk_iff] | split | intro _)

theorem State.bellSet_keeps {base : State} (s : State) (m : Master) (v : Word) (hk : Keeps base s) :
    ResKeeps base (State.bellSet s m v) := by
  unfold State.bellSet
  try dsimp only
  repeat' (first
    | with_reducible assumption | with_reducible apply State.asWrite_keeps | with_reducible apply State.setFld_keeps
    | with_reducible apply State.bellChanged_keeps | with_reducible apply ResKeeps.next | simp only [Keeps.mk_iff]
    | split | intro _)

theorem State.bellClear_keeps {base : State} (s : State) (m : Master) (v : Word) (hk : Keeps base s) :
    ResKeeps base (State.bellClear s m v) := by
  unfold State.bellClear
  try dsimp only
  repeat' (first
    | with_reducible assumption | with_reducible apply State.asWrite_keeps | with_reducible apply State.setFld_keeps
    | with_reducible apply State.bellChanged_keeps | with_reducible apply ResKeeps.next | simp only [Keeps.mk_iff]
    | split | intro _)

theorem State.txWrite_keeps {base : State} (s : State) (m : Master) (v : Word) (hk : Keeps base s) :
    ResKeeps base (State.txWrite s m v) := by
  unfold State.txWrite
  try dsimp only
  repeat' (first
    | with_reducible assumption | with_reducible apply State.asWrite_keeps
    | with_reducible apply State.setFlds_keeps | with_reducible apply State.emit_keeps
    | with_reducible apply State.irq_keeps | with_reducible apply Keeps.ite | with_reducible apply ResKeeps.ite
    | with_reducible apply ResKeeps.next | with_reducible apply ResKeeps.fault | simp only [Keeps.mk_iff] | split
    | intro _)

end Sys2Proof.Machine
end

