-- ==== Sys2Proof/Laws/KeepsBus.lean ====
section
/-! SUPPORT. What the operations of Machine/Bus.lean keep (Laws/Keeps.lean). -/
set_option linter.all false
set_option Elab.async false

namespace Sys2Proof.Machine

theorem State.after_keeps {base : State} (s : State) (r : Res) (hr : ResKeeps base r) : ResKeeps base (s.after r) := by
  cases r with
  | next t =>
    unfold State.after
    apply ResKeeps.next
    simp only [Keeps.mk_iff]
    exact Keeps.four (hr t rfl)
  | fault e => exact ResKeeps.fault e
  | refused e => exact ResKeeps.refused e

theorem thenDo_keeps {base : State} (r : Res) (k : State → Res) (hr : ResKeeps base r)
    (hk : ∀ t, Keeps base t → ResKeeps base (k t)) : ResKeeps base (thenDo r k) := by
  cases r with
  | next t => exact hk t (hr t rfl)
  | fault e => exact ResKeeps.fault e
  | refused e => exact ResKeeps.refused e

theorem State.clearCounters_keeps {base : State} (s : State) (page : Nat) (offs : List Nat) (hk : Keeps base s) :
    Keeps base (State.clearCounters s page offs) := by
  unfold State.clearCounters
  try dsimp only
  repeat' (first
    | with_reducible assumption | with_reducible apply State.setReg_keeps
    | with_reducible apply State.setStrand_keeps | with_reducible apply State.setFld_keeps
    | with_reducible apply Keeps.ite | with_reducible apply Keeps.foldl | with_reducible apply Keeps.foldlFst
    | with_reducible apply Keeps.four | simp only [Keeps.mk_iff] | split | intro _)

theorem State.cntClr_keeps {base : State} (s : State) (m : Master) (page off : Nat) (v : Word) (hk : Keeps base s) :
    ResKeeps base (State.cntClr s m page off v) := by
  unfold State.cntClr
  try dsimp only
  repeat' (first
    | with_reducible assumption | with_reducible apply State.asArmed_keeps
    | with_reducible apply State.clearCounters_keeps | with_reducible apply Keeps.ite
    | with_reducible apply ResKeeps.ite | with_reducible apply ResKeeps.next | simp only [Keeps.mk_iff] | split
    | intro _)

theorem State.lockWrite_keeps {base : State} (s : State) (m : Master) (page : Nat) (v : Word) (hk : Keeps base s) :
    ResKeeps base (State.lockWrite s m page v) := by
  unfold State.lockWrite
  try dsimp only
  repeat' (first
    | with_reducible assumption | with_reducible apply State.asWrite_keeps | with_reducible apply State.setFld_keeps
    | with_reducible apply Keeps.ite | with_reducible apply ResKeeps.ite | with_reducible apply ResKeeps.next
    | simp only [Keeps.mk_iff] | split | intro _)

theorem State.rawCycle_keeps {base : State} (s : State) (page mask events : Nat) (hk : Keeps base s) :
    Keeps base (State.rawCycle s page mask events) := by
  unfold State.rawCycle
  try dsimp only
  repeat' (first
    | with_reducible assumption | with_reducible apply State.noteEdge_keeps
    | with_reducible apply State.setFld_keeps | with_reducible apply Keeps.foldl
    | with_reducible apply Keeps.foldlFst | simp only [Keeps.mk_iff] | split | intro _)

theorem State.statWrite_keeps {base : State} (s : State) (m : Master) (page mask events : Nat) (hk : Keeps base s) :
    ResKeeps base (State.statWrite s m page mask events) := by
  unfold State.statWrite
  repeat' (first
    | with_reducible assumption | with_reducible apply State.disarm_keeps
    | with_reducible apply State.rawCycle_keeps | with_reducible apply State.emit_keeps
    | with_reducible apply Keeps.ite | with_reducible apply ResKeeps.ite | with_reducible apply ResKeeps.next
    | with_reducible apply ResKeeps.refused | simp only [Keeps.mk_iff] | split | intro _)

theorem State.enWrite_keeps {base : State} (s : State) (m : Master) (page : Nat) (v : Word) (hk : Keeps base s) :
    ResKeeps base (State.enWrite s m page v) := by
  unfold State.enWrite
  try dsimp only
  repeat' (first
    | with_reducible assumption | with_reducible apply State.asWrite_keeps | with_reducible apply State.setFld_keeps
    | with_reducible apply State.noteEdge_keeps | with_reducible apply ResKeeps.next
    | with_reducible apply Keeps.foldl | with_reducible apply Keeps.foldlFst | simp only [Keeps.mk_iff] | split
    | intro _)

theorem State.idleReq_keeps {base : State} (s : State) (page : Nat) (hk : Keeps base s) :
    Keeps base (State.idleReq s page) := by
  unfold State.idleReq
  repeat' (first
    | with_reducible assumption | with_reducible apply State.setFld_keeps
    | with_reducible apply State.idleBlock_keeps | with_reducible apply Keeps.ite | simp only [Keeps.mk_iff] | split
    | intro _)

theorem State.ctrlWrite_keeps {base : State} (s : State) (m : Master) (page : Nat) (v : Word) (hk : Keeps base s) :
    ResKeeps base (State.ctrlWrite s m page v) := by
  unfold State.ctrlWrite
  try dsimp only
  repeat' (first
    | with_reducible assumption | with_reducible apply State.asWrite_keeps
    | with_reducible apply State.setFlag_keeps | with_reducible apply State.idleReq_keeps
    | with_reducible apply State.setFld_keeps | with_reducible apply State.after_keeps
    | with_reducible apply execBlockResetRequest_keeps | with_reducible apply Keeps.ite
    | with_reducible apply ResKeeps.ite | with_reducible apply ResKeeps.next | simp only [Keeps.mk_iff] | split
    | intro _)

theorem State.pageReleased_keeps {base : State} (s : State) (page : Nat) (freed : List Fence) (hk : Keeps base s) :
    Keeps base (State.pageReleased s page freed) := by
  unfold State.pageReleased
  try dsimp only
  repeat' (first
    | with_reducible assumption | with_reducible apply State.strandsReleased_keeps
    | with_reducible apply State.railsReleased_keeps | with_reducible apply State.setBit_keeps
    | with_reducible apply State.startAcquire_keeps | with_reducible apply State.sideEmpty_keeps
    | with_reducible apply State.setFld_keeps | with_reducible apply Keeps.ite | with_reducible apply Keeps.foldl
    | with_reducible apply Keeps.foldlFst | with_reducible apply Keeps.four | simp only [Keeps.mk_iff] | split
    | intro _)

theorem State.askRelease_keeps {base : State} (s : State) (page : Nat) (hk : Keeps base s) :
    Keeps base (State.askRelease s page) := by
  unfold State.askRelease
  try dsimp only
  repeat' (first
    | with_reducible assumption | with_reducible apply Keeps.four | simp only [Keeps.mk_iff] | split | intro _)

theorem State.fenceGone_keeps {base : State} (s : State) (page : Nat) (present : List Nat) (hk : Keeps base s) :
    Keeps base (State.fenceGone s page present) := by
  unfold State.fenceGone
  try dsimp only
  repeat' (first
    | with_reducible assumption | with_reducible apply State.askRelease_keeps
    | with_reducible apply State.releaseFences_keeps | with_reducible apply State.pageReleased_keeps
    | with_reducible apply State.unitsReturn_keeps | with_reducible apply Keeps.ite
    | with_reducible apply Keeps.four | simp only [Keeps.mk_iff] | split | intro _)

theorem State.fenceWrite_keeps {base : State} (s : State) (m : Master) (page : Nat) (v : Word) (present : List Nat) (hk : Keeps base s) :
    ResKeeps base (State.fenceWrite s m page v present) := by
  unfold State.fenceWrite
  try dsimp only
  repeat' (first
    | with_reducible assumption | with_reducible apply State.asWrite_keeps
    | with_reducible apply State.fenceGone_keeps | with_reducible apply Keeps.ite
    | with_reducible apply ResKeeps.ite | with_reducible apply ResKeeps.next | simp only [Keeps.mk_iff] | split
    | intro _)

theorem State.headerWrite_keeps {base : State} (s : State) (m : Master) (page off : Nat) (v : Word) (hk : Keeps base s) :
    OptKeeps base (State.headerWrite s m page off v) := by
  unfold State.headerWrite
  repeat' (first
    | with_reducible assumption | with_reducible apply State.ctrlWrite_keeps
    | with_reducible apply State.enWrite_keeps | with_reducible apply State.statWrite_keeps
    | with_reducible apply State.fenceWrite_keeps | with_reducible apply State.lockWrite_keeps
    | with_reducible apply Keeps.ite | with_reducible apply OptKeeps.ite | with_reducible apply ResKeeps.next
    | with_reducible apply OptKeeps.some | with_reducible exact OptKeeps.none | with_reducible apply OptKeeps.orElse
    | simp only [Keeps.mk_iff] | split | intro _)

theorem State.infraWrite_keeps {base : State} (s : State) (m : Master) (page off : Nat) (v : Word) (hk : Keeps base s) :
    OptKeeps base (State.infraWrite s m page off v) := by
  unfold State.infraWrite
  repeat' (first
    | with_reducible assumption | with_reducible apply execRadioRegionSet_keeps
    | with_reducible apply execResetRequest_keeps | with_reducible apply execRstOutWrite_keeps
    | with_reducible apply execPowerStateRequest_keeps | with_reducible apply execRtcSet_keeps
    | with_reducible apply execRtcDstAdd_keeps | with_reducible apply execRtcDstSub_keeps
    | with_reducible apply execCairnFlushRequest_keeps | with_reducible apply execCairnFreeze_keeps
    | with_reducible apply execCairnCursorLoad_keeps | with_reducible apply execCairnRaise_keeps
    | with_reducible apply execWdtSysKick_keeps | with_reducible apply execWdtCoreKick_keeps
    | with_reducible apply Keeps.ite | with_reducible apply OptKeeps.ite | with_reducible apply ResKeeps.next
    | with_reducible apply OptKeeps.some | with_reducible exact OptKeeps.none | with_reducible apply OptKeeps.orElse
    | simp only [Keeps.mk_iff] | split | intro _)

theorem State.ckptWrite_keeps {base : State} (s : State) (m : Master) (v : Word) (hk : Keeps base s) :
    ResKeeps base (State.ckptWrite s m v) := by
  unfold State.ckptWrite
  try dsimp only
  repeat' (first
    | with_reducible assumption | with_reducible apply State.asWrite_keeps | with_reducible apply thenDo_keeps
    | with_reducible apply execSchedCkptSave_keeps | with_reducible apply execSchedCkptRestore_keeps
    | with_reducible apply Keeps.ite | with_reducible apply ResKeeps.ite | with_reducible apply ResKeeps.next
    | simp only [Keeps.mk_iff] | split | intro _)

theorem State.traceCtrl_keeps {base : State} (s : State) (m : Master) (v : Word) (hk : Keeps base s) :
    ResKeeps base (State.traceCtrl s m v) := by
  unfold State.traceCtrl
  try dsimp only
  repeat' (first
    | with_reducible assumption | with_reducible apply State.disarm_keeps | with_reducible apply State.setFlds_keeps
    | with_reducible apply execSchedTraceClear_keeps | with_reducible apply Keeps.ite
    | with_reducible apply ResKeeps.ite | with_reducible apply ResKeeps.next | simp only [Keeps.mk_iff] | split
    | intro _)

theorem State.workWrite_keeps {base : State} (s : State) (m : Master) (page off : Nat) (v : Word) (hk : Keeps base s) :
    OptKeeps base (State.workWrite s m page off v) := by
  unfold State.workWrite
  try dsimp only
  repeat' (first
    | with_reducible assumption | with_reducible apply State.disarm_keeps
    | with_reducible apply execSchedQflush_keeps | with_reducible apply State.ckptWrite_keeps
    | with_reducible apply execSchedPush_keeps | with_reducible apply State.setHart_keeps
    | with_reducible apply State.traceCtrl_keeps | with_reducible apply execIrqComplete_keeps
    | with_reducible apply Keeps.ite | with_reducible apply OptKeeps.ite | with_reducible apply ResKeeps.next
    | with_reducible apply OptKeeps.some | with_reducible exact OptKeeps.none | with_reducible apply OptKeeps.orElse
    | with_reducible apply Keeps.four | simp only [Keeps.mk_iff] | split | intro _)

theorem State.displayWrite_keeps {base : State} (s : State) (m : Master) (page off : Nat) (v : Word) (hk : Keeps base s) :
    OptKeeps base (State.displayWrite s m page off v) := by
  unfold State.displayWrite
  repeat' (first
    | with_reducible assumption | with_reducible apply execGenStageGo_keeps
    | with_reducible apply execGenAnnounceSend_keeps | with_reducible apply execGovSnapRequest_keeps
    | with_reducible apply execPmbusFwBus_keeps | with_reducible apply execTelemFlushRequest_keeps
    | with_reducible apply execTelemRelease_keeps | with_reducible apply execMeterDispClear_keeps
    | with_reducible apply execMeterStmtRequest_keeps | with_reducible apply Keeps.ite
    | with_reducible apply OptKeeps.ite | with_reducible apply ResKeeps.next | with_reducible apply OptKeeps.some
    | with_reducible exact OptKeeps.none | with_reducible apply OptKeeps.orElse | simp only [Keeps.mk_iff] | split
    | intro _)

theorem State.mboxWrite_keeps {base : State} (s : State) (m : Master) (v : Word) (hk : Keeps base s) :
    ResKeeps base (State.mboxWrite s m v) := by
  unfold State.mboxWrite
  try dsimp only
  repeat' (first
    | with_reducible assumption | with_reducible apply State.asWrite_keeps | with_reducible apply State.setFld_keeps
    | with_reducible apply State.mboxGo_keeps | with_reducible apply Keeps.ite | with_reducible apply ResKeeps.ite
    | with_reducible apply ResKeeps.next | simp only [Keeps.mk_iff] | split | intro _)

theorem State.updCfg_keeps {base : State} (s : State) (m : Master) (v : Word) (hk : Keeps base s) :
    ResKeeps base (State.updCfg s m v) := by
  unfold State.updCfg
  try dsimp only
  repeat' (first
    | with_reducible assumption | with_reducible apply State.asWrite_keeps
    | with_reducible apply State.writeBoot_keeps | with_reducible apply Keeps.ite
    | with_reducible apply ResKeeps.ite | with_reducible apply ResKeeps.next | with_reducible apply ResKeeps.fault
    | simp only [Keeps.mk_iff] | split | intro _)

theorem State.updCtrl_keeps {base : State} (s : State) (m : Master) (v : Word) (hk : Keeps base s) :
    ResKeeps base (State.updCtrl s m v) := by
  unfold State.updCtrl
  try dsimp only
  repeat' (first
    | with_reducible assumption | with_reducible apply State.asWrite_keeps
    | with_reducible apply State.checkHdr_keeps | with_reducible apply State.checkBody_keeps
    | with_reducible apply State.program_keeps | with_reducible apply State.updAbort_keeps
    | with_reducible apply Keeps.ite | with_reducible apply ResKeeps.ite | with_reducible apply ResKeeps.next
    | simp only [Keeps.mk_iff] | split | intro _)

theorem State.actCtrl_keeps {base : State} (s : State) (m : Master) (v : Word) (hk : Keeps base s) :
    ResKeeps base (State.actCtrl s m v) := by
  unfold State.actCtrl
  try dsimp only
  repeat' (first
    | with_reducible assumption | with_reducible apply State.asWrite_keeps
    | with_reducible apply State.armLocal_keeps | with_reducible apply State.disarmActivation_keeps
    | with_reducible apply Keeps.ite | with_reducible apply ResKeeps.ite | with_reducible apply ResKeeps.next
    | simp only [Keeps.mk_iff] | split | intro _)

theorem State.secureWrite_keeps {base : State} (s : State) (m : Master) (page off : Nat) (v : Word) (hk : Keeps base s) :
    OptKeeps base (State.secureWrite s m page off v) := by
  unfold State.secureWrite
  try dsimp only
  repeat' (first
    | with_reducible assumption | with_reducible apply State.mboxWrite_keeps
    | with_reducible apply State.updCfg_keeps | with_reducible apply State.updCtrl_keeps
    | with_reducible apply execUpdConfirm_keeps | with_reducible apply execUpdBootreq_keeps
    | with_reducible apply State.actCtrl_keeps | with_reducible apply execUpdPactSend_keeps
    | with_reducible apply State.asWrite_keeps | with_reducible apply State.flashGo_keeps
    | with_reducible apply Keeps.ite | with_reducible apply OptKeeps.ite | with_reducible apply ResKeeps.next
    | with_reducible apply ResKeeps.fault | with_reducible apply OptKeeps.some | with_reducible exact OptKeeps.none
    | with_reducible apply OptKeeps.orElse | simp only [Keeps.mk_iff] | split | intro _)

theorem State.xaSet_keeps {base : State} (s : State) (v : Word) (hk : Keeps base s) :
    Keeps base (State.xaSet s v) := by
  unfold State.xaSet
  repeat' (first
    | with_reducible assumption | with_reducible apply State.setFlds_keeps | simp only [Keeps.mk_iff] | split
    | intro _)

theorem State.xaFields_keeps {base : State} (s : State) (m : Master) (v : Word) (hk : Keeps base s) :
    ResKeeps base (State.xaFields s m v) := by
  unfold State.xaFields
  try dsimp only
  repeat' (first
    | with_reducible assumption | with_reducible apply State.asWrite_keeps | with_reducible apply State.xaSet_keeps
    | with_reducible apply Keeps.ite | with_reducible apply ResKeeps.ite | with_reducible apply ResKeeps.next
    | with_reducible apply ResKeeps.fault | simp only [Keeps.mk_iff] | split | intro _)

theorem State.portWrite_keeps {base : State} (s : State) (m : Master) (page off : Nat) (v : Word) (hk : Keeps base s) :
    OptKeeps base (State.portWrite s m page off v) := by
  unfold State.portWrite
  repeat' (first
    | with_reducible assumption | with_reducible apply State.sideGo_keeps | with_reducible apply State.txWrite_keeps
    | with_reducible apply State.xaFields_keeps | with_reducible apply State.bellSet_keeps
    | with_reducible apply State.bellClear_keeps | with_reducible apply State.i2cWrite_keeps
    | with_reducible apply State.uartWrite_keeps | with_reducible apply Keeps.ite
    | with_reducible apply OptKeeps.ite | with_reducible apply ResKeeps.next | with_reducible apply OptKeeps.some
    | with_reducible exact OptKeeps.none | with_reducible apply OptKeeps.orElse | simp only [Keeps.mk_iff] | split
    | intro _)

theorem State.specialWrite_keeps {base : State} (s : State) (m : Master) (page off : Nat) (v : Word) (hk : Keeps base s) :
    OptKeeps base (State.specialWrite s m page off v) := by
  unfold State.specialWrite
  try dsimp only
  repeat' (first
    | with_reducible assumption | with_reducible apply State.headerWrite_keeps
    | with_reducible apply State.cntClr_keeps | with_reducible apply State.infraWrite_keeps
    | with_reducible apply State.workWrite_keeps | with_reducible apply State.displayWrite_keeps
    | with_reducible apply State.secureWrite_keeps | with_reducible apply State.portWrite_keeps
    | with_reducible apply Keeps.ite | with_reducible apply OptKeeps.ite | with_reducible apply ResKeeps.next
    | with_reducible apply OptKeeps.some | with_reducible exact OptKeeps.none | with_reducible apply OptKeeps.orElse
    | simp only [Keeps.mk_iff] | split | intro _)

theorem State.written_keeps {base : State} (s : State) (page off : Nat) (v : Word) (was : Nat) (hk : Keeps base s) :
    Keeps base (State.written s page off v was) := by
  unfold State.written
  try dsimp only
  repeat' (first
    | with_reducible assumption | with_reducible apply State.setFld_keeps
    | with_reducible apply State.gpioEdges_keeps | with_reducible apply Keeps.ite | simp only [Keeps.mk_iff] | split
    | intro _)

theorem State.plainWrite_keeps {base : State} (s : State) (m : Master) (page off : Nat) (v : Word) (r : RegSpec) (hk : Keeps base s) :
    ResKeeps base (State.plainWrite s m page off v r) := by
  unfold State.plainWrite
  try dsimp only
  repeat' (first
    | with_reducible assumption | with_reducible apply State.disarm_keeps | with_reducible apply State.emit_keeps
    | with_reducible apply State.setReg_keeps | with_reducible apply State.written_keeps
    | with_reducible apply Keeps.ite | with_reducible apply ResKeeps.ite | with_reducible apply ResKeeps.next
    | with_reducible apply ResKeeps.fault | with_reducible apply ResKeeps.refused | with_reducible apply Keeps.four
    | with_reducible apply Keeps.fourMem | simp only [Keeps.mk_iff]
    | (refine fun (hm : Mems.wf _ = true) => ?_; simp only [Mems.wf_iff, State.drawn_mem] at hm ⊢; first | (simp only [hm, memWf_filter, memWf_memWrite, memWf_memClear, memWf_memPut, memWf_nil, and_self]; done) | (simp [hm]; done))
    | split | intro _)

theorem State.regWrite_keeps {base : State} (s : State) (m : Master) (page off : Nat) (v : Word) (hk : Keeps base s) :
    ResKeeps base (s.regWrite m page off v) := by
  unfold State.regWrite
  split
  · apply ResKeeps.next
    split
    · exact State.emit_keeps _ _ hk
    · exact hk
  · split
    · exact ResKeeps.next hk
    · split
      · exact ResKeeps.fault _
      · split
        · exact ResKeeps.fault _
        · split
          · rename_i res heq
            exact State.after_keeps s res (State.specialWrite_keeps s m page off v hk res heq)
          · exact State.plainWrite_keeps s m page off v _ hk

theorem State.busWrite_keeps {base : State} (s : State) (m : Master) (page off : Nat) (v : Word) (hk : Keeps base s) :
    ResKeeps base (State.busWrite s m page off v) := by
  unfold State.busWrite
  try dsimp only
  repeat' (first
    | with_reducible assumption | with_reducible apply State.coreTrap_keeps
    | with_reducible apply State.regWrite_keeps | with_reducible apply State.emit_keeps
    | with_reducible apply Keeps.ite | with_reducible apply ResKeeps.ite | with_reducible apply ResKeeps.next
    | with_reducible apply ResKeeps.refused | simp only [Keeps.mk_iff] | split | intro _)

theorem State.specialRead_keeps {base : State} (s : State) (m : Master) (page off : Nat) (hk : Keeps base s) :
    OptKeeps base (State.specialRead s m page off) := by
  unfold State.specialRead
  repeat' (first
    | with_reducible assumption | with_reducible apply execIrqClaim_keeps | with_reducible apply execSchedTake_keeps
    | with_reducible apply execSchedTraceRead_keeps | with_reducible apply execTelemPop_keeps
    | with_reducible apply execSideEvtPop_keeps | with_reducible apply execCairnWinAdvance_keeps
    | with_reducible apply execUartDataRead_keeps | with_reducible apply Keeps.ite
    | with_reducible apply OptKeeps.ite | with_reducible apply ResKeeps.next | with_reducible apply OptKeeps.some
    | with_reducible exact OptKeeps.none | with_reducible apply OptKeeps.orElse | simp only [Keeps.mk_iff] | split
    | intro _)

theorem State.plainRead_keeps {base : State} (s : State) (m : Master) (page off : Nat) (hk : Keeps base s) :
    Keeps base (State.plainRead s m page off) := by
  unfold State.plainRead
  try dsimp only
  repeat' (first
    | with_reducible assumption | with_reducible apply State.latch_keeps | with_reducible apply State.drawn_keeps
    | with_reducible apply State.emit_keeps | with_reducible apply Keeps.ite | with_reducible apply Keeps.four
    | simp only [Keeps.mk_iff] | split | intro _)

theorem State.regRead_keeps {base : State} (s : State) (m : Master) (page off : Nat) (hk : Keeps base s) :
    ResKeeps base (s.regRead m page off) := by
  unfold State.regRead
  split
  · exact ResKeeps.next (State.emit_keeps _ _ hk)
  · split
    · exact ResKeeps.next (State.emit_keeps _ _ hk)
    · split
      · rename_i r heq
        exact State.after_keeps s r (State.specialRead_keeps s m page off hk r heq)
      · exact ResKeeps.next (State.plainRead_keeps s m page off hk)

theorem State.busRead_keeps {base : State} (s : State) (m : Master) (page off : Nat) (hk : Keeps base s) :
    ResKeeps base (State.busRead s m page off) := by
  unfold State.busRead
  try dsimp only
  repeat' (first
    | with_reducible assumption | with_reducible apply State.coreTrap_keeps
    | with_reducible apply State.regRead_keeps | with_reducible apply State.emit_keeps
    | with_reducible apply Keeps.ite | with_reducible apply ResKeeps.ite | with_reducible apply ResKeeps.next
    | with_reducible apply ResKeeps.refused | simp only [Keeps.mk_iff] | split | intro _)

theorem execPgLockWrite_keeps {base : State} (m : Master) (page : Nat) (v : Word) (s : State) (hk : Keeps base s) :
    ResKeeps base (execPgLockWrite m page v s) := by
  unfold execPgLockWrite
  repeat' (first
    | with_reducible assumption | with_reducible apply State.busWrite_keeps | with_reducible apply State.begin_keeps
    | with_reducible apply ResKeeps.next | simp only [Keeps.mk_iff] | split | intro _)

theorem execCounterClear_keeps {base : State} (m : Master) (page off : Nat) (v : Word) (s : State) (hk : Keeps base s) :
    ResKeeps base (execCounterClear m page off v s) := by
  unfold execCounterClear
  repeat' (first
    | with_reducible assumption | with_reducible apply State.busWrite_keeps | with_reducible apply State.begin_keeps
    | with_reducible apply ResKeeps.next | simp only [Keeps.mk_iff] | split | intro _)

theorem execIrqStatClear_keeps {base : State} (m : Master) (page mask events : Nat) (s : State) (hk : Keeps base s) :
    ResKeeps base (execIrqStatClear m page mask events s) := by
  unfold execIrqStatClear
  try dsimp only
  repeat' (first
    | with_reducible assumption | with_reducible apply State.begin_keeps | with_reducible apply State.busWrite_keeps
    | with_reducible apply State.statWrite_keeps | with_reducible apply Keeps.ite
    | with_reducible apply ResKeeps.ite | with_reducible apply ResKeeps.next | simp only [Keeps.mk_iff] | split
    | intro _)

theorem execFenceClear_keeps {base : State} (m : Master) (page : Nat) (present : List Nat) (s : State) (hk : Keeps base s) :
    ResKeeps base (execFenceClear m page present s) := by
  unfold execFenceClear
  try dsimp only
  repeat' (first
    | with_reducible assumption | with_reducible apply State.begin_keeps | with_reducible apply State.busWrite_keeps
    | with_reducible apply State.fenceWrite_keeps | with_reducible apply Keeps.ite
    | with_reducible apply ResKeeps.ite | with_reducible apply ResKeeps.next | simp only [Keeps.mk_iff] | split
    | intro _)

theorem execIdleRequest_keeps {base : State} (m : Master) (page : Nat) (s : State) (hk : Keeps base s) :
    ResKeeps base (execIdleRequest m page s) := by
  unfold execIdleRequest
  try dsimp only
  repeat' (first
    | with_reducible assumption | with_reducible apply State.begin_keeps | with_reducible apply State.busWrite_keeps
    | with_reducible apply ResKeeps.next | simp only [Keeps.mk_iff] | split | intro _)

theorem execHostspiBellSet_keeps {base : State} (m : Master) (v : Word) (s : State) (hk : Keeps base s) :
    ResKeeps base (execHostspiBellSet m v s) := by
  unfold execHostspiBellSet
  repeat' (first
    | with_reducible assumption | with_reducible apply State.busWrite_keeps | with_reducible apply State.begin_keeps
    | with_reducible apply ResKeeps.next | simp only [Keeps.mk_iff] | split | intro _)

theorem execHostspiBellClear_keeps {base : State} (m : Master) (v : Word) (s : State) (hk : Keeps base s) :
    ResKeeps base (execHostspiBellClear m v s) := by
  unfold execHostspiBellClear
  repeat' (first
    | with_reducible assumption | with_reducible apply State.busWrite_keeps | with_reducible apply State.begin_keeps
    | with_reducible apply ResKeeps.next | simp only [Keeps.mk_iff] | split | intro _)

theorem execI2cCommand_keeps {base : State} (m : Master) (n : Nat) (v : Word) (s : State) (hk : Keeps base s) :
    ResKeeps base (execI2cCommand m n v s) := by
  unfold execI2cCommand
  repeat' (first
    | with_reducible assumption | with_reducible apply State.busWrite_keeps | with_reducible apply State.begin_keeps
    | with_reducible apply ResKeeps.next | simp only [Keeps.mk_iff] | split | intro _)

theorem execUartTxByte_keeps {base : State} (m : Master) (v : Word) (s : State) (hk : Keeps base s) :
    ResKeeps base (execUartTxByte m v s) := by
  unfold execUartTxByte
  repeat' (first
    | with_reducible assumption | with_reducible apply State.busWrite_keeps | with_reducible apply State.begin_keeps
    | with_reducible apply ResKeeps.next | simp only [Keeps.mk_iff] | split | intro _)

theorem execLcpTxGo_keeps {base : State} (m : Master) (v : Word) (s : State) (hk : Keeps base s) :
    ResKeeps base (execLcpTxGo m v s) := by
  unfold execLcpTxGo
  repeat' (first
    | with_reducible assumption | with_reducible apply State.busWrite_keeps | with_reducible apply State.begin_keeps
    | with_reducible apply ResKeeps.next | simp only [Keeps.mk_iff] | split | intro _)

theorem execLatchingRegisterRead_keeps {base : State} (m : Master) (page off : Nat) (s : State) (hk : Keeps base s) :
    ResKeeps base (execLatchingRegisterRead m page off s) := by
  unfold execLatchingRegisterRead
  repeat' (first
    | with_reducible assumption | with_reducible apply State.busRead_keeps | with_reducible apply State.begin_keeps
    | with_reducible apply ResKeeps.next | simp only [Keeps.mk_iff] | split | intro _)

theorem State.wakeScrub_keeps {base : State} (s : State) (hk : Keeps base s) :
    Keeps base (State.wakeScrub s) := by
  unfold State.wakeScrub
  repeat' (first
    | with_reducible assumption | with_reducible apply State.readWords_keeps | simp only [Keeps.mk_iff] | split
    | intro _)

theorem execWakeScrubDone_keeps {base : State} (s : State) (hk : Keeps base s) :
    ResKeeps base (execWakeScrubDone s) := by
  unfold execWakeScrubDone
  try dsimp only
  repeat' (first
    | with_reducible assumption | with_reducible apply State.begin_keeps
    | with_reducible apply State.wakeScrub_keeps | with_reducible apply State.setFld_keeps
    | with_reducible apply State.irq_keeps | with_reducible apply Keeps.ite | with_reducible apply ResKeeps.ite
    | with_reducible apply ResKeeps.next | simp only [Keeps.mk_iff] | split | intro _)

theorem execCairnMetricSample_keeps {base : State} (k : Nat) (s : State) (hk : Keeps base s) :
    ResKeeps base (execCairnMetricSample k s) := by
  unfold execCairnMetricSample
  try dsimp only
  repeat' (first
    | with_reducible assumption | with_reducible apply State.begin_keeps | with_reducible apply State.drawn_keeps
    | with_reducible apply Keeps.ite | with_reducible apply ResKeeps.ite | with_reducible apply ResKeeps.next
    | with_reducible apply ResKeeps.fault | with_reducible apply Keeps.four | simp only [Keeps.mk_iff] | split
    | intro _)

end Sys2Proof.Machine
end

