-- ==== Sys2Proof/Laws/KeepsLcp.lean ====
section
/-! SUPPORT. What the operations of Machine/Lcp.lean keep (Laws/Keeps.lean). -/
set_option linter.all false
set_option Elab.async false

namespace Sys2Proof.Machine

theorem State.absorbOut_keeps {base : State} (s t : State) (ht : Keeps base t) : Keeps base (s.absorbOut t) := by
  unfold State.absorbOut
  simp only [Keeps.mk_iff]
  exact Keeps.four ht

theorem State.readAt_keeps {base : State} (s : State) (m : Master) (a : Nat) (hk : Keeps base s) :
    ResKeeps base (State.readAt s m a) := by
  unfold State.readAt
  repeat' (first
    | with_reducible assumption | with_reducible apply State.emit_keeps | with_reducible apply State.busRead_keeps
    | with_reducible apply Keeps.ite | with_reducible apply ResKeeps.ite | with_reducible apply ResKeeps.next
    | with_reducible apply ResKeeps.refused | simp only [Keeps.mk_iff] | split | intro _)

theorem State.writeAt_keeps {base : State} (s : State) (m : Master) (a : Nat) (v : Word) (hk : Keeps base s) :
    ResKeeps base (State.writeAt s m a v) := by
  unfold State.writeAt
  repeat' (first
    | with_reducible assumption | with_reducible apply State.emit_keeps | with_reducible apply State.busWrite_keeps
    | with_reducible apply Keeps.ite | with_reducible apply ResKeeps.ite | with_reducible apply ResKeeps.next
    | with_reducible apply ResKeeps.refused | simp only [Keeps.mk_iff] | split | intro _)

theorem State.readRun_keeps {base : State} (m : Master) (a : Nat) :
    ∀ (n i : Nat) (s : State) (k : RunOut → Res), Keeps base s → (∀ r : RunOut, Keeps base r.1 → ResKeeps base (k r)) →
      ResKeeps base (State.readRun m a i n s k)
  | 0, _, s, k, h, hk => hk (s, [], none) h
  | n + 1, i, s, k, h, hk => by
    unfold State.readRun
    have h1 := State.readAt_keeps s.begin m (a + 4 * i) (State.begin_keeps s h)
    split
    · rename_i t heq
      have h2 := State.absorbOut_keeps s t (h1 t heq)
      split
      · exact hk _ h2
      · exact State.readRun_keeps m a n (i + 1) _ _ h2 (fun r hr => hk _ hr)
    · exact ResKeeps.fault _
    · exact ResKeeps.refused _

theorem State.storeWords_keeps {base : State} (put : State → Nat → Word → Res) (a : Nat)
    (hp : ∀ u b v, Keeps base u → ResKeeps base (put u b v)) :
    ∀ (l : List Word) (i : Nat) (s : State) (k : RunOut → Res), Keeps base s →
      (∀ r : RunOut, Keeps base r.1 → ResKeeps base (k r)) → ResKeeps base (State.storeWords put a i l s k)
  | [], _, s, k, h, hk => hk (s, [], none) h
  | v :: vs, i, s, k, h, hk => by
    unfold State.storeWords
    have h1 := hp s.begin (a + 4 * i) v (State.begin_keeps s h)
    split
    · rename_i t heq
      have h2 := State.absorbOut_keeps s t (h1 t heq)
      split
      · exact hk _ h2
      · exact State.storeWords_keeps put a hp vs (i + 1) _ _ h2 hk
    · exact ResKeeps.fault _
    · exact ResKeeps.refused _

theorem State.storeGet_keeps {base : State} (s : State) (rights a n most page : Nat) (hk : Keeps base s) :
    Keeps base (State.storeGet s rights a n most page).1 := by
  unfold State.storeGet
  try dsimp only
  repeat' (first
    | with_reducible assumption | with_reducible apply State.blockReads_keeps | with_reducible apply Keeps.ite
    | simp only [Keeps.mk_iff] | split | intro _)

theorem State.storePut_keeps {base : State} (s : State) (a : Nat) (bs : List Byte) (page : Nat) (hk : Keeps base s) :
    Keeps base (State.storePut s a bs page).1 := by
  unfold State.storePut
  try dsimp only
  repeat' (first
    | with_reducible assumption | with_reducible apply State.blockWrite_keeps
    | with_reducible apply State.wroteCode_keeps | with_reducible apply State.readWords_keeps
    | with_reducible apply Keeps.ite | simp only [Keeps.mk_iff] | split | intro _)

theorem State.xaEnd_keeps {base : State} (s : State) (code index : Nat) (hk : Keeps base s) :
    Keeps base (State.xaEnd s code index) := by
  unfold State.xaEnd
  repeat' (first
    | with_reducible assumption | with_reducible apply State.setFlds_keeps | with_reducible apply State.irq_keeps
    | simp only [Keeps.mk_iff] | split | intro _)

theorem State.xaGo_keeps {base : State} (s : State) (m : Master) (v : Word) (hk : Keeps base s) :
    ResKeeps base (State.xaGo s m v) := by
  unfold State.xaGo
  try dsimp only
  repeat' (first
    | with_reducible assumption | with_reducible apply State.asWrite_keeps | with_reducible apply State.xaSet_keeps
    | with_reducible apply State.readRun_keeps | with_reducible apply State.sramWrite_keeps
    | with_reducible apply State.xaEnd_keeps | with_reducible apply State.storeWords_keeps
    | with_reducible apply State.writeAt_keeps | with_reducible apply State.storeGet_keeps
    | with_reducible apply State.storePut_keeps | with_reducible apply Keeps.ite | with_reducible apply ResKeeps.ite
    | with_reducible apply ResKeeps.next | with_reducible apply ResKeeps.fault | simp only [Keeps.mk_iff] | split
    | intro _)

theorem State.masterWrite_keeps {base : State} (s : State) (m : Master) (page off : Nat) (v : Word) (hk : Keeps base s) :
    ResKeeps base (State.masterWrite s m page off v) := by
  unfold State.masterWrite
  repeat' (first
    | with_reducible assumption | with_reducible apply State.after_keeps | with_reducible apply State.xaGo_keeps
    | with_reducible apply State.begin_keeps | with_reducible apply State.busWrite_keeps
    | with_reducible apply Keeps.ite | with_reducible apply ResKeeps.ite | with_reducible apply ResKeeps.next
    | simp only [Keeps.mk_iff] | split | intro _)

theorem State.remoteWrite_keeps {base : State} (m : Master) (s : State) (a : Nat) (v : Word) (hk : Keeps base s) :
    ResKeeps base (State.remoteWrite m s a v) := by
  unfold State.remoteWrite
  repeat' (first
    | with_reducible assumption | with_reducible apply State.writeAt_keeps
    | with_reducible apply State.masterWrite_keeps | with_reducible apply Keeps.ite
    | with_reducible apply ResKeeps.ite | with_reducible apply ResKeeps.next | simp only [Keeps.mk_iff] | split
    | intro _)

theorem execRegisterWrite_keeps {base : State} (m : Master) (page off : Nat) (v : Word) (s : State) (hk : Keeps base s) :
    ResKeeps base (execRegisterWrite m page off v s) := by
  unfold execRegisterWrite
  repeat' (first
    | with_reducible assumption | with_reducible apply State.masterWrite_keeps
    | with_reducible apply State.begin_keeps | with_reducible apply ResKeeps.next | simp only [Keeps.mk_iff] | split
    | intro _)

theorem State.xaCommand_keeps {base : State} (s : State) (m : Master) (op : Nat) (v : Word) (hk : Keeps base s) :
    ResKeeps base (State.xaCommand s m op v) := by
  unfold State.xaCommand
  repeat' (first
    | with_reducible assumption | with_reducible apply State.masterWrite_keeps
    | with_reducible apply State.begin_keeps | with_reducible apply ResKeeps.next | simp only [Keeps.mk_iff] | split
    | intro _)

theorem execLcpXaRegRead_keeps {base : State} (m : Master) (v : Word) (s : State) (hk : Keeps base s) :
    ResKeeps base (execLcpXaRegRead m v s) := by
  unfold execLcpXaRegRead
  repeat' (first
    | with_reducible assumption | with_reducible apply State.xaCommand_keeps | with_reducible apply ResKeeps.next
    | simp only [Keeps.mk_iff] | split | intro _)

theorem execLcpXaRegWrite_keeps {base : State} (m : Master) (v : Word) (s : State) (hk : Keeps base s) :
    ResKeeps base (execLcpXaRegWrite m v s) := by
  unfold execLcpXaRegWrite
  repeat' (first
    | with_reducible assumption | with_reducible apply State.xaCommand_keeps | with_reducible apply ResKeeps.next
    | simp only [Keeps.mk_iff] | split | intro _)

theorem execLcpXaStoreRead_keeps {base : State} (m : Master) (v : Word) (s : State) (hk : Keeps base s) :
    ResKeeps base (execLcpXaStoreRead m v s) := by
  unfold execLcpXaStoreRead
  repeat' (first
    | with_reducible assumption | with_reducible apply State.xaCommand_keeps | with_reducible apply ResKeeps.next
    | simp only [Keeps.mk_iff] | split | intro _)

theorem execLcpXaStoreWrite_keeps {base : State} (m : Master) (v : Word) (s : State) (hk : Keeps base s) :
    ResKeeps base (execLcpXaStoreWrite m v s) := by
  unfold execLcpXaStoreWrite
  repeat' (first
    | with_reducible assumption | with_reducible apply State.xaCommand_keeps | with_reducible apply ResKeeps.next
    | simp only [Keeps.mk_iff] | split | intro _)

theorem State.lcpDrop_keeps {base : State} (s : State) (k : Nat) (hk : Keeps base s) :
    Keeps base (State.lcpDrop s k) := by
  unfold State.lcpDrop
  try dsimp only
  repeat' (first
    | with_reducible assumption | with_reducible apply Keeps.four | simp only [Keeps.mk_iff] | split | intro _)

theorem State.setSession_keeps {base : State} (s : State) (x : LcpSession) (hk : Keeps base s) :
    Keeps base (State.setSession s x) := by
  unfold State.setSession
  try dsimp only
  repeat' (first
    | with_reducible assumption | with_reducible apply Keeps.ite | with_reducible apply Keeps.four
    | simp only [Keeps.mk_iff] | split | intro _)

theorem State.dropTransfer_keeps {base : State} (s : State) (id : Nat) (hk : Keeps base s) :
    Keeps base (State.dropTransfer s id) := by
  unfold State.dropTransfer
  repeat' (first
    | with_reducible assumption | with_reducible apply State.closeTransfer_keeps | with_reducible apply Keeps.ite
    | simp only [Keeps.mk_iff] | split | intro _)

theorem State.closeSession_keeps {base : State} (s : State) (id : Nat) (hk : Keeps base s) :
    Keeps base (State.closeSession s id) := by
  unfold State.closeSession
  try dsimp only
  repeat' (first
    | with_reducible assumption | with_reducible apply State.dropTransfer_keeps | with_reducible apply Keeps.four
    | simp only [Keeps.mk_iff] | split | intro _)

theorem State.helloReply_keeps {base : State} (s : State) (status rights session : Nat) (nonce eph : List Byte) (hk : Keeps base s) :
    Keeps base (State.helloReply s status rights session nonce eph) := by
  unfold State.helloReply
  try dsimp only
  repeat' (first
    | with_reducible assumption | with_reducible apply State.drawn_keeps | with_reducible apply State.emit_keeps
    | simp only [Keeps.mk_iff] | split | intro _)

theorem execLcpHello_keeps {base : State} (_port : Port) (b : List Byte) (s : State) (hk : Keeps base s) :
    ResKeeps base (execLcpHello _port b s) := by
  unfold execLcpHello
  try dsimp only
  repeat' (first
    | with_reducible assumption | with_reducible apply State.begin_keeps | with_reducible apply State.lcpDrop_keeps
    | with_reducible apply State.drawn_keeps | with_reducible apply State.helloReply_keeps
    | with_reducible apply State.mbLcpAgree_keeps | with_reducible apply Keeps.ite
    | with_reducible apply ResKeeps.ite | with_reducible apply ResKeeps.next | with_reducible apply Keeps.four
    | simp only [Keeps.mk_iff] | split | intro _)

theorem execLcpClose_keeps {base : State} (session seq : Nat) (s : State) (hk : Keeps base s) :
    ResKeeps base (execLcpClose session seq s) := by
  unfold execLcpClose
  try dsimp only
  repeat' (first
    | with_reducible assumption | with_reducible apply State.begin_keeps | with_reducible apply State.lcpDrop_keeps
    | with_reducible apply State.closeSession_keeps | with_reducible apply Keeps.ite
    | with_reducible apply ResKeeps.ite | with_reducible apply ResKeeps.next | simp only [Keeps.mk_iff] | split
    | intro _)

theorem execLcpSessionTimeout_keeps {base : State} (session : Nat) (s : State) (hk : Keeps base s) :
    ResKeeps base (execLcpSessionTimeout session s) := by
  unfold execLcpSessionTimeout
  repeat' (first
    | with_reducible assumption | with_reducible apply State.begin_keeps
    | with_reducible apply State.closeSession_keeps | with_reducible apply ResKeeps.next | simp only [Keeps.mk_iff]
    | split | intro _)

theorem execLcpDatagramDrop_keeps {base : State} (code : Nat) (s : State) (hk : Keeps base s) :
    ResKeeps base (execLcpDatagramDrop code s) := by
  unfold execLcpDatagramDrop
  try dsimp only
  repeat' (first
    | with_reducible assumption | with_reducible apply State.begin_keeps | with_reducible apply State.lcpDrop_keeps
    | with_reducible apply Keeps.ite | with_reducible apply ResKeeps.ite | with_reducible apply ResKeeps.next
    | simp only [Keeps.mk_iff] | split | intro _)

theorem State.respond_keeps {base : State} (s : State) (q : LcpReq) (op status detail : Nat) (data : List Byte) (hk : Keeps base s) :
    Keeps base (State.respond s q op status detail data) := by
  unfold State.respond
  try dsimp only
  repeat' (first
    | with_reducible assumption | with_reducible apply State.setSession_keeps
    | with_reducible apply State.emit_keeps | with_reducible apply State.closeSession_keeps
    | with_reducible apply Keeps.ite | with_reducible apply Keeps.four | simp only [Keeps.mk_iff] | split | intro _)

theorem State.lcpRequest_keeps {base : State} (s : State) (q : LcpReq) (op : Nat)
    (run : LcpSession → State → LcpAnswer → Res) (hk : Keeps base s)
    (hr : ∀ (x : LcpSession) (t : State) (k : LcpAnswer), Keeps base t →
      (∀ (u : State) (c d : Nat) (l : List Byte), Keeps base u → ResKeeps base (k u c d l)) → ResKeeps base (run x t k)) :
    ResKeeps base (s.lcpRequest q op run) := by
  unfold State.lcpRequest
  have h0 := State.begin_keeps s hk
  dsimp only
  split
  · exact ResKeeps.next h0
  · split
    · exact ResKeeps.next (State.lcpDrop_keeps _ _ h0)
    · split
      · exact ResKeeps.next (State.emit_keeps _ _ h0)
      · split
        · exact ResKeeps.next (State.lcpDrop_keeps _ _ h0)
        · split
          · exact ResKeeps.next (State.respond_keeps _ q _ _ _ _ (State.setSession_keeps _ _ h0))
          · exact hr _ _ _ (State.setSession_keeps _ _ h0)
              (fun u c d l hu => ResKeeps.next (State.respond_keeps u q op c d l hu))

theorem State.ownerCode_keeps {base : State} (s : State) (hk : Keeps base s) :
    Keeps base (State.ownerCode s).1 := by
  unfold State.ownerCode
  try dsimp only
  repeat' (first
    | with_reducible assumption | with_reducible apply State.drawn_keeps | with_reducible apply Keeps.ite
    | simp only [Keeps.mk_iff] | split | intro _)

theorem execLcpRead_keeps {base : State} (q : LcpReq) (addr count : Nat) (s : State) (hk : Keeps base s) :
    ResKeeps base (execLcpRead q addr count s) := by
  unfold execLcpRead
  try dsimp only
  repeat' (first
    | with_reducible assumption | with_reducible refine State.lcpRequest_keeps _ _ _ _ ?_ (fun x u ka hu hka => ?_)
    | with_reducible apply hka | with_reducible apply State.lcpRequest_keeps
    | with_reducible apply State.readRun_keeps | with_reducible apply Keeps.ite | with_reducible apply ResKeeps.ite
    | with_reducible apply ResKeeps.next | simp only [Keeps.mk_iff] | split | intro _)

theorem execLcpWrite_keeps {base : State} (q : LcpReq) (addr : Nat) (words : List Word) (s : State) (hk : Keeps base s) :
    ResKeeps base (execLcpWrite q addr words s) := by
  unfold execLcpWrite
  try dsimp only
  repeat' (first
    | with_reducible assumption | with_reducible refine State.lcpRequest_keeps _ _ _ _ ?_ (fun x u ka hu hka => ?_)
    | with_reducible apply hka | with_reducible apply State.lcpRequest_keeps
    | with_reducible apply State.storeWords_keeps | with_reducible apply State.remoteWrite_keeps
    | with_reducible apply ResKeeps.next | simp only [Keeps.mk_iff] | split | intro _)

theorem execLcpStoreRead_keeps {base : State} (q : LcpReq) (addr length : Nat) (s : State) (hk : Keeps base s) :
    ResKeeps base (execLcpStoreRead q addr length s) := by
  unfold execLcpStoreRead
  try dsimp only
  repeat' (first
    | with_reducible assumption | with_reducible refine State.lcpRequest_keeps _ _ _ _ ?_ (fun x u ka hu hka => ?_)
    | with_reducible apply hka | with_reducible apply State.lcpRequest_keeps
    | with_reducible apply State.storeGet_keeps | with_reducible apply Keeps.ite | with_reducible apply ResKeeps.ite
    | with_reducible apply ResKeeps.next | simp only [Keeps.mk_iff] | split | intro _)

theorem execLcpStoreWrite_keeps {base : State} (q : LcpReq) (addr length : Nat) (data : List Byte) (s : State) (hk : Keeps base s) :
    ResKeeps base (execLcpStoreWrite q addr length data s) := by
  unfold execLcpStoreWrite
  try dsimp only
  repeat' (first
    | with_reducible assumption | with_reducible refine State.lcpRequest_keeps _ _ _ _ ?_ (fun x u ka hu hka => ?_)
    | with_reducible apply hka | with_reducible apply State.lcpRequest_keeps
    | with_reducible apply State.ownerCode_keeps | with_reducible apply State.storePut_keeps
    | with_reducible apply Keeps.ite | with_reducible apply ResKeeps.ite | with_reducible apply ResKeeps.next
    | simp only [Keeps.mk_iff] | split | intro _)

theorem execLcpGenStage_keeps {base : State} (q : LcpReq) (slot addr : Nat) (s : State) (hk : Keeps base s) :
    ResKeeps base (execLcpGenStage q slot addr s) := by
  unfold execLcpGenStage
  try dsimp only
  repeat' (first
    | with_reducible assumption | with_reducible refine State.lcpRequest_keeps _ _ _ _ ?_ (fun x u ka hu hka => ?_)
    | with_reducible apply hka | with_reducible apply State.lcpRequest_keeps
    | with_reducible apply State.ownerCode_keeps | with_reducible apply State.disarm_keeps
    | with_reducible apply State.setFld_keeps | with_reducible apply State.startStage_keeps
    | with_reducible apply Keeps.ite | with_reducible apply ResKeeps.ite | with_reducible apply ResKeeps.next
    | simp only [Keeps.mk_iff] | split | intro _)

theorem execLcpCalInstall_keeps {base : State} (q : LcpReq) (src dst len : Nat) (s : State) (hk : Keeps base s) :
    ResKeeps base (execLcpCalInstall q src dst len s) := by
  unfold execLcpCalInstall
  try dsimp only
  repeat' (first
    | with_reducible assumption | with_reducible refine State.lcpRequest_keeps _ _ _ _ ?_ (fun x u ka hu hka => ?_)
    | with_reducible apply hka | with_reducible apply State.lcpRequest_keeps
    | with_reducible apply State.ownerCode_keeps | with_reducible apply State.blockReads_keeps
    | with_reducible apply State.blockWrite_keeps | with_reducible apply Keeps.ite
    | with_reducible apply ResKeeps.ite | with_reducible apply ResKeeps.next | simp only [Keeps.mk_iff] | split
    | intro _)

theorem execLcpReset_keeps {base : State} (q : LcpReq) (scope : Nat) (s : State) (hk : Keeps base s) :
    ResKeeps base (execLcpReset q scope s) := by
  unfold execLcpReset
  try dsimp only
  repeat' (first
    | with_reducible assumption | with_reducible refine State.lcpRequest_keeps _ _ _ _ ?_ (fun x u ka hu hka => ?_)
    | with_reducible apply hka | with_reducible apply State.lcpRequest_keeps
    | with_reducible apply State.disarm_keeps | with_reducible apply State.setRst_keeps
    | with_reducible apply State.setFlds_keeps | with_reducible apply Keeps.ite | with_reducible apply ResKeeps.ite
    | with_reducible apply ResKeeps.next | with_reducible apply Keeps.four | simp only [Keeps.mk_iff] | split
    | intro _)

theorem State.claimGranted_keeps {base : State} (s : State) (segment holder : Nat) (hk : Keeps base s) :
    Keeps base (State.claimGranted s segment holder).1 := by
  unfold State.claimGranted
  try dsimp only
  repeat' (first
    | with_reducible assumption | with_reducible apply State.drawn_keeps | with_reducible apply Keeps.ite
    | simp only [Keeps.mk_iff] | split | intro _)

theorem execLcpOwnClaim_keeps {base : State} (q : LcpReq) (segment module : Nat) (s : State) (hk : Keeps base s) :
    ResKeeps base (execLcpOwnClaim q segment module s) := by
  unfold execLcpOwnClaim
  try dsimp only
  repeat' (first
    | with_reducible assumption | with_reducible refine State.lcpRequest_keeps _ _ _ _ ?_ (fun x u ka hu hka => ?_)
    | with_reducible apply hka | with_reducible apply State.lcpRequest_keeps
    | with_reducible apply State.claimGranted_keeps | with_reducible apply State.drawn_keeps
    | with_reducible apply Keeps.ite | with_reducible apply ResKeeps.ite | with_reducible apply ResKeeps.next
    | with_reducible apply Keeps.four | simp only [Keeps.mk_iff] | split | intro _)

theorem execLcpImgBegin_keeps {base : State} (q : LcpReq) (header : List Byte) (s : State) (hk : Keeps base s) :
    ResKeeps base (execLcpImgBegin q header s) := by
  unfold execLcpImgBegin
  try dsimp only
  repeat' (first
    | with_reducible assumption | with_reducible refine State.lcpRequest_keeps _ _ _ _ ?_ (fun x u ka hu hka => ?_)
    | with_reducible apply hka | with_reducible apply State.lcpRequest_keeps
    | with_reducible apply State.blockWrite_keeps | with_reducible apply State.updEnd_keeps
    | with_reducible apply State.openTransfer_keeps | with_reducible apply Keeps.ite
    | with_reducible apply ResKeeps.ite | with_reducible apply ResKeeps.next | simp only [Keeps.mk_iff] | split
    | intro _)

theorem execLcpImgData_keeps {base : State} (q : LcpReq) (offset : Nat) (data : List Byte) (s : State) (hk : Keeps base s) :
    ResKeeps base (execLcpImgData q offset data s) := by
  unfold execLcpImgData
  try dsimp only
  repeat' (first
    | with_reducible assumption | with_reducible refine State.lcpRequest_keeps _ _ _ _ ?_ (fun x u ka hu hka => ?_)
    | with_reducible apply hka | with_reducible apply State.lcpRequest_keeps
    | with_reducible apply State.storePut_keeps | with_reducible apply Keeps.ite | with_reducible apply ResKeeps.ite
    | with_reducible apply ResKeeps.next | with_reducible apply Keeps.four | simp only [Keeps.mk_iff] | split
    | intro _)

theorem execLcpImgCommit_keeps {base : State} (q : LcpReq) (recOk : Bool) (s : State) (hk : Keeps base s) :
    ResKeeps base (execLcpImgCommit q recOk s) := by
  unfold execLcpImgCommit
  try dsimp only
  repeat' (first
    | with_reducible assumption | with_reducible refine State.lcpRequest_keeps _ _ _ _ ?_ (fun x u ka hu hka => ?_)
    | with_reducible apply hka | with_reducible apply State.lcpRequest_keeps
    | with_reducible apply State.blockReads_keeps | with_reducible apply State.updEnd_keeps
    | with_reducible apply State.closeTransfer_keeps | with_reducible apply State.setFld_keeps
    | with_reducible apply State.program_keeps | with_reducible apply Keeps.ite | with_reducible apply ResKeeps.ite
    | with_reducible apply ResKeeps.next | with_reducible apply Keeps.four | simp only [Keeps.mk_iff] | split
    | intro _)

theorem execLcpImgActivate_keeps {base : State} (q : LcpReq) (scope version frame : Nat) (s : State) (hk : Keeps base s) :
    ResKeeps base (execLcpImgActivate q scope version frame s) := by
  unfold execLcpImgActivate
  try dsimp only
  repeat' (first
    | with_reducible assumption | with_reducible refine State.lcpRequest_keeps _ _ _ _ ?_ (fun x u ka hu hka => ?_)
    | with_reducible apply hka | with_reducible apply State.lcpRequest_keeps
    | with_reducible apply State.armActivation_keeps | with_reducible apply State.sendActivate_keeps
    | with_reducible apply Keeps.ite | with_reducible apply ResKeeps.ite | with_reducible apply ResKeeps.next
    | simp only [Keeps.mk_iff] | split | intro _)

theorem execImgTransferTimeout_keeps {base : State} (s : State) (hk : Keeps base s) :
    ResKeeps base (execImgTransferTimeout s) := by
  unfold execImgTransferTimeout
  try dsimp only
  repeat' (first
    | with_reducible assumption | with_reducible apply State.begin_keeps
    | with_reducible apply State.dropTransfer_keeps | with_reducible apply ResKeeps.next | simp only [Keeps.mk_iff]
    | split | intro _)

end Sys2Proof.Machine
end

