-- ==== Sys2Proof/Laws/KeepsHspi.lean ====
section
/-! SUPPORT. What the operations of Machine/Hspi.lean keep (Laws/Keeps.lean). -/
set_option linter.all false
set_option Elab.async false

namespace Sys2Proof.Machine

theorem State.hspiEnd_keeps {base : State} (s : State) (cmd code : Nat) (hk : Keeps base s) :
    Keeps base (State.hspiEnd s cmd code) := by
  unfold State.hspiEnd
  try dsimp only
  repeat' (first
    | with_reducible assumption | with_reducible apply State.setFlds_keeps | with_reducible apply State.inc_keeps
    | with_reducible apply State.irq_keeps | with_reducible apply Keeps.ite | simp only [Keeps.mk_iff] | split
    | intro _)

theorem State.hspiRead_keeps {base : State} (s : State) (cmd n status : Nat) (data : List Byte) (hk : Keeps base s) :
    Keeps base (State.hspiRead s cmd n status data) := by
  unfold State.hspiRead
  try dsimp only
  repeat' (first
    | with_reducible assumption | with_reducible apply State.hspiEnd_keeps | with_reducible apply State.drawn_keeps
    | with_reducible apply State.emit_keeps | simp only [Keeps.mk_iff] | split | intro _)

theorem State.hspiWritten_keeps {base : State} (s : State) (cmd status : Nat) (hk : Keeps base s) :
    Keeps base (State.hspiWritten s cmd status) := by
  unfold State.hspiWritten
  try dsimp only
  repeat' (first
    | with_reducible assumption | with_reducible apply State.hspiEnd_keeps | with_reducible apply State.irq_keeps
    | with_reducible apply Keeps.ite | with_reducible apply Keeps.four | simp only [Keeps.mk_iff] | split | intro _)

theorem execHspiRead_keeps {base : State} (addr count : Nat) (crcOk : Bool) (s : State) (hk : Keeps base s) :
    ResKeeps base (execHspiRead addr count crcOk s) := by
  unfold execHspiRead
  try dsimp only
  repeat' (first
    | with_reducible assumption | with_reducible apply State.begin_keeps | with_reducible apply State.hspiEnd_keeps
    | with_reducible apply State.emit_keeps | with_reducible apply State.readRun_keeps
    | with_reducible apply State.hspiRead_keeps | with_reducible apply Keeps.ite | with_reducible apply ResKeeps.ite
    | with_reducible apply ResKeeps.next | simp only [Keeps.mk_iff] | split | intro _)

theorem execHspiWrite_keeps {base : State} (addr : Nat) (words : List Word) (crcOk : Bool) (s : State) (hk : Keeps base s) :
    ResKeeps base (execHspiWrite addr words crcOk s) := by
  unfold execHspiWrite
  try dsimp only
  repeat' (first
    | with_reducible assumption | with_reducible apply State.begin_keeps | with_reducible apply State.hspiEnd_keeps
    | with_reducible apply State.storeWords_keeps | with_reducible apply State.remoteWrite_keeps
    | with_reducible apply State.hspiWritten_keeps | with_reducible apply Keeps.ite
    | with_reducible apply ResKeeps.ite | with_reducible apply ResKeeps.next | simp only [Keeps.mk_iff] | split
    | intro _)

theorem execHspiStoreRead_keeps {base : State} (addr length : Nat) (crcOk : Bool) (s : State) (hk : Keeps base s) :
    ResKeeps base (execHspiStoreRead addr length crcOk s) := by
  unfold execHspiStoreRead
  try dsimp only
  repeat' (first
    | with_reducible assumption | with_reducible apply State.begin_keeps | with_reducible apply State.hspiEnd_keeps
    | with_reducible apply State.emit_keeps | with_reducible apply State.storeGet_keeps
    | with_reducible apply State.hspiRead_keeps | with_reducible apply Keeps.ite | with_reducible apply ResKeeps.ite
    | with_reducible apply ResKeeps.next | simp only [Keeps.mk_iff] | split | intro _)

theorem execHspiStoreWrite_keeps {base : State} (addr length : Nat) (data : List Byte) (crcOk : Bool) (s : State) (hk : Keeps base s) :
    ResKeeps base (execHspiStoreWrite addr length data crcOk s) := by
  unfold execHspiStoreWrite
  try dsimp only
  repeat' (first
    | with_reducible assumption | with_reducible apply State.begin_keeps | with_reducible apply State.hspiEnd_keeps
    | with_reducible apply State.hspiWritten_keeps | with_reducible apply State.storePut_keeps
    | with_reducible apply Keeps.ite | with_reducible apply ResKeeps.ite | with_reducible apply ResKeeps.next
    | simp only [Keeps.mk_iff] | split | intro _)

theorem execHspiStatus_keeps {base : State} (s : State) (hk : Keeps base s) :
    ResKeeps base (execHspiStatus s) := by
  unfold execHspiStatus
  try dsimp only
  repeat' (first
    | with_reducible assumption | with_reducible apply State.begin_keeps | with_reducible apply State.hspiEnd_keeps
    | with_reducible apply State.emit_keeps | with_reducible apply Keeps.ite | with_reducible apply ResKeeps.ite
    | with_reducible apply ResKeeps.next | simp only [Keeps.mk_iff] | split | intro _)

theorem execSysreset_keeps {base : State} (crcOk : Bool) (s : State) (hk : Keeps base s) :
    ResKeeps base (execSysreset crcOk s) := by
  unfold execSysreset
  try dsimp only
  repeat' (first
    | with_reducible assumption | with_reducible apply State.begin_keeps | with_reducible apply State.hspiEnd_keeps
    | with_reducible apply State.systemSaved_keeps | with_reducible apply Keeps.ite
    | with_reducible apply ResKeeps.ite | with_reducible apply ResKeeps.next | with_reducible apply Keeps.four
    | simp only [Keeps.mk_iff] | split | intro _)

theorem execHspiTransactionRefused_keeps {base : State} (cmd : Nat) (s : State) (hk : Keeps base s) :
    ResKeeps base (execHspiTransactionRefused cmd s) := by
  unfold execHspiTransactionRefused
  try dsimp only
  repeat' (first
    | with_reducible assumption | with_reducible apply State.begin_keeps | with_reducible apply State.hspiEnd_keeps
    | with_reducible apply Keeps.ite | with_reducible apply ResKeeps.ite | with_reducible apply ResKeeps.next
    | simp only [Keeps.mk_iff] | split | intro _)

end Sys2Proof.Machine
end

