-- ==== Sys2Proof/Laws/KeepsCoreMem.lean ====
section
/-! SUPPORT. What the operations of Machine/CoreMem.lean keep (Laws/Keeps.lean). -/
set_option linter.all false
set_option Elab.async false

namespace Sys2Proof.Machine

theorem State.coreFaultAt_keeps {base : State} (s : State) (h addr : Nat) (op : CoreOp) (hk : Keeps base s) :
    ResKeeps base (State.coreFaultAt s h addr op) := by
  unfold State.coreFaultAt
  repeat' (first
    | with_reducible assumption | with_reducible apply State.coreTrap_keeps | with_reducible apply ResKeeps.next
    | simp only [Keeps.mk_iff] | split | intro _)

theorem State.setRamBad_keeps {base : State} (s : State) (r : RamPlace) (l : List Nat) (hk : Keeps base s) :
    Keeps base (State.setRamBad s r l) := by
  unfold State.setRamBad
  try dsimp only
  repeat' (first
    | with_reducible assumption | with_reducible apply Keeps.ite | with_reducible apply Keeps.four
    | with_reducible apply Keeps.fourMem | simp only [Keeps.mk_iff]
    | (refine fun (hm : Mems.wf _ = true) => ?_; simp only [Mems.wf_iff, State.drawn_mem] at hm ⊢; first | (simp only [hm, memWf_filter, memWf_memWrite, memWf_memClear, memWf_memPut, memWf_nil, and_self]; done) | (simp [hm]; done))
    | split | intro _)

theorem State.ramWrite_keeps {base : State} (s : State) (h : Nat) (r : RamPlace) (bs : List Byte) (hk : Keeps base s) :
    Keeps base (State.ramWrite s h r bs) := by
  unfold State.ramWrite
  try dsimp only
  repeat' (first
    | with_reducible assumption | with_reducible apply State.setRamBad_keeps
    | with_reducible apply State.breakReservations_keeps | with_reducible apply State.wroteCode_keeps
    | with_reducible apply Keeps.ite | with_reducible apply Keeps.four | with_reducible apply Keeps.fourMem
    | simp only [Keeps.mk_iff]
    | (refine fun (hm : Mems.wf _ = true) => ?_; simp only [Mems.wf_iff, State.drawn_mem] at hm ⊢; first | (simp only [hm, memWf_filter, memWf_memWrite, memWf_memClear, memWf_memPut, memWf_nil, and_self]; done) | (simp [hm]; done))
    | split | intro _)

theorem State.memUe_keeps {base : State} (s : State) (h addr : Nat) (r : RamPlace) (fetch : Bool) (hk : Keeps base s) :
    Keeps base (State.memUe s h addr r fetch) := by
  unfold State.memUe
  try dsimp only
  repeat' (first
    | with_reducible assumption | with_reducible apply State.inc_keeps | with_reducible apply State.setFlds_keeps
    | with_reducible apply State.occur_keeps | with_reducible apply State.drawn_keeps | simp only [Keeps.mk_iff]
    | split | intro _)

theorem State.ramEcc_keeps {base : State} (s : State) (r : RamPlace) (e : Ecc) (hk : Keeps base s) :
    Keeps base (State.ramEcc s r e) := by
  unfold State.ramEcc
  try dsimp only
  repeat' (first
    | with_reducible assumption | with_reducible apply State.inc_keeps | with_reducible apply State.setRamBad_keeps
    | with_reducible apply Keeps.ite | simp only [Keeps.mk_iff] | split | intro _)

theorem State.unreserve_keeps {base : State} (s : State) (h : Nat) (hk : Keeps base s) :
    Keeps base (State.unreserve s h) := by
  unfold State.unreserve
  try dsimp only
  repeat' (first
    | with_reducible assumption | with_reducible apply Keeps.four | simp only [Keeps.mk_iff] | split | intro _)

theorem State.serveRam_keeps {base : State} (s : State) (h addr : Nat) (op : CoreOp) (r : RamPlace) (hk : Keeps base s) :
    Keeps base (State.serveRam s h addr op r) := by
  unfold State.serveRam
  try dsimp only
  repeat' (first
    | with_reducible assumption | with_reducible apply State.unreserve_keeps
    | with_reducible apply State.drawn_keeps | with_reducible apply State.emit_keeps
    | with_reducible apply State.memUe_keeps | with_reducible apply State.coreTrap_keeps
    | with_reducible apply State.ramWrite_keeps | with_reducible apply Keeps.ite | with_reducible apply Keeps.four
    | simp only [Keeps.mk_iff] | split | intro _)

theorem State.accessRam_keeps {base : State} (s : State) (h addr : Nat) (op : CoreOp) (e : Ecc) (r : RamPlace) (hk : Keeps base s) :
    ResKeeps base (State.accessRam s h addr op e r) := by
  unfold State.accessRam
  try dsimp only
  repeat' (first
    | with_reducible assumption | with_reducible apply State.coreTrap_keeps
    | with_reducible apply State.ramEcc_keeps | with_reducible apply State.serveRam_keeps
    | with_reducible apply Keeps.ite | with_reducible apply ResKeeps.ite | with_reducible apply ResKeeps.next
    | with_reducible apply ResKeeps.fault | simp only [Keeps.mk_iff] | split | intro _)

theorem State.accessPlain_keeps {base : State} (s : State) (h addr : Nat) (op : CoreOp) (get : Nat → List Byte)
    (put : List Byte → Res) (hk : Keeps base s) (hp : ∀ d, ResKeeps base (put d)) :
    ResKeeps base (State.accessPlain s h addr op get put) := by
  unfold State.accessPlain
  split
  · exact ResKeeps.next (State.coreTrap_keeps _ _ _ _ hk)
  · split
    · exact ResKeeps.next (State.coreTrap_keeps _ _ _ _ hk)
    · split
      · exact hp _
      · exact ResKeeps.next (State.emit_keeps _ _ hk)

theorem State.accessRom_keeps {base : State} (s : State) (h addr : Nat) (op : CoreOp) (get : Nat → List Byte) (hk : Keeps base s) :
    ResKeeps base (State.accessRom s h addr op get) := by
  unfold State.accessRom
  try dsimp only
  repeat' (first
    | with_reducible assumption | with_reducible apply State.accessPlain_keeps
    | with_reducible apply State.coreTrap_keeps | with_reducible apply ResKeeps.next | simp only [Keeps.mk_iff]
    | split | intro _)

theorem State.accessRetained_keeps {base : State} (s : State) (h addr : Nat) (op : CoreOp) (hk : Keeps base s) :
    ResKeeps base (State.accessRetained s h addr op) := by
  unfold State.accessRetained
  try dsimp only
  repeat' (first
    | with_reducible assumption | with_reducible apply State.accessPlain_keeps
    | with_reducible apply State.wroteCode_keeps | with_reducible apply Keeps.ite
    | with_reducible apply ResKeeps.ite | with_reducible apply ResKeeps.next | with_reducible apply ResKeeps.fault
    | with_reducible apply Keeps.four | with_reducible apply Keeps.fourMem | simp only [Keeps.mk_iff]
    | (refine fun (hm : Mems.wf _ = true) => ?_; simp only [Mems.wf_iff, State.drawn_mem] at hm ⊢; first | (simp only [hm, memWf_filter, memWf_memWrite, memWf_memClear, memWf_memPut, memWf_nil, and_self]; done) | (simp [hm]; done))
    | split | intro _)

theorem State.accessBackup_keeps {base : State} (s : State) (h addr : Nat) (op : CoreOp) (hk : Keeps base s) :
    ResKeeps base (State.accessBackup s h addr op) := by
  unfold State.accessBackup
  try dsimp only
  repeat' (first
    | with_reducible assumption | with_reducible apply State.accessPlain_keeps
    | with_reducible apply State.wroteCode_keeps | with_reducible apply ResKeeps.next
    | with_reducible apply Keeps.four | with_reducible apply Keeps.fourMem | simp only [Keeps.mk_iff]
    | (refine fun (hm : Mems.wf _ = true) => ?_; simp only [Mems.wf_iff, State.drawn_mem] at hm ⊢; first | (simp only [hm, memWf_filter, memWf_memWrite, memWf_memClear, memWf_memPut, memWf_nil, and_self]; done) | (simp [hm]; done))
    | split | intro _)

theorem State.mramUe_keeps {base : State} (s : State) (a : Nat) (hk : Keeps base s) :
    Keeps base (State.mramUe s a) := by
  unfold State.mramUe
  repeat' (first
    | with_reducible assumption | with_reducible apply State.inc_keeps | with_reducible apply State.setFlds_keeps
    | with_reducible apply State.event_keeps | simp only [Keeps.mk_iff] | split | intro _)

theorem State.accessMram_keeps {base : State} (s : State) (h addr : Nat) (op : CoreOp) (e : Ecc) (hk : Keeps base s) :
    ResKeeps base (State.accessMram s h addr op e) := by
  unfold State.accessMram
  try dsimp only
  repeat' (first
    | with_reducible assumption | with_reducible apply State.coreTrap_keeps
    | with_reducible apply State.setFld_keeps | with_reducible apply State.coreFaultAt_keeps
    | with_reducible apply State.inc_keeps | with_reducible apply State.mramUe_keeps
    | with_reducible apply State.wroteCode_keeps | with_reducible apply State.emit_keeps
    | with_reducible apply Keeps.ite | with_reducible apply ResKeeps.ite | with_reducible apply ResKeeps.next
    | with_reducible apply Keeps.four | with_reducible apply Keeps.fourMem | simp only [Keeps.mk_iff]
    | (refine fun (hm : Mems.wf _ = true) => ?_; simp only [Mems.wf_iff, State.drawn_mem] at hm ⊢; first | (simp only [hm, memWf_filter, memWf_memWrite, memWf_memClear, memWf_memPut, memWf_nil, and_self]; done) | (simp [hm]; done))
    | split | intro _)

theorem State.accessPage_keeps {base : State} (s : State) (h addr : Nat) (op : CoreOp) (hk : Keeps base s) :
    ResKeeps base (State.accessPage s h addr op) := by
  unfold State.accessPage
  try dsimp only
  repeat' (first
    | with_reducible assumption | with_reducible apply State.coreTrap_keeps
    | with_reducible apply State.coreFaultAt_keeps | with_reducible apply State.after_keeps
    | with_reducible apply State.busRead_keeps | with_reducible apply State.begin_keeps
    | with_reducible apply State.masterWrite_keeps | with_reducible apply Keeps.ite
    | with_reducible apply ResKeeps.ite | with_reducible apply ResKeeps.next | simp only [Keeps.mk_iff] | split
    | intro _)

theorem State.windowStep_keeps {base : State} (s : State) (h addr : Nat) (op : CoreOp) (e : Ecc) (hk : Keeps base s) :
    ResKeeps base (State.windowStep s h addr op e) := by
  unfold State.windowStep
  try dsimp only
  repeat' (first
    | with_reducible assumption | with_reducible apply State.fenceI_keeps
    | with_reducible apply State.windowAccess_keeps | with_reducible apply Keeps.ite
    | with_reducible apply ResKeeps.ite | with_reducible apply ResKeeps.next | with_reducible apply ResKeeps.fault
    | simp only [Keeps.mk_iff] | split | intro _)

theorem execStoreWindowAccess_keeps {base : State} (h addr : Nat) (op : CoreOp) (e : Ecc) (s : State) (hk : Keeps base s) :
    ResKeeps base (execStoreWindowAccess h addr op e s) := by
  unfold execStoreWindowAccess
  try dsimp only
  repeat' (first
    | with_reducible assumption | with_reducible apply State.begin_keeps | with_reducible apply State.fenceI_keeps
    | with_reducible apply State.windowStep_keeps | with_reducible apply State.coreFaultAt_keeps
    | with_reducible apply Keeps.ite | with_reducible apply ResKeeps.ite | with_reducible apply ResKeeps.next
    | simp only [Keeps.mk_iff] | split | intro _)

theorem execCoreMemoryAccess_keeps {base : State} (h addr : Nat) (op : CoreOp) (e : Ecc) (s : State) (hk : Keeps base s) :
    ResKeeps base (execCoreMemoryAccess h addr op e s) := by
  unfold execCoreMemoryAccess
  try dsimp only
  repeat' (first
    | with_reducible assumption | with_reducible apply State.begin_keeps | with_reducible apply State.fenceI_keeps
    | with_reducible apply State.coreFaultAt_keeps | with_reducible apply State.accessRam_keeps
    | with_reducible apply State.accessRom_keeps | with_reducible apply State.accessRetained_keeps
    | with_reducible apply State.accessBackup_keeps | with_reducible apply State.accessPage_keeps
    | with_reducible apply State.accessMram_keeps | with_reducible apply State.windowStep_keeps
    | with_reducible apply State.coreTrap_keeps | with_reducible apply Keeps.ite | with_reducible apply ResKeeps.ite
    | with_reducible apply ResKeeps.next | with_reducible apply ResKeeps.fault | simp only [Keeps.mk_iff] | split
    | intro _)

end Sys2Proof.Machine
end

