-- ==== Sys2Proof/Laws/KeepsTick.lean ====
section
/-! SUPPORT. What the operations of Machine/Tick.lean keep (Laws/Keeps.lean). -/
set_option linter.all false
set_option Elab.async false

namespace Sys2Proof.Machine

theorem State.rtcTick_keeps {base : State} (s : State) (hk : Keeps base s) :
    Keeps base (State.rtcTick s) := by
  unfold State.rtcTick
  try dsimp only
  repeat' (first
    | with_reducible assumption | with_reducible apply State.rtcEdge_keeps | with_reducible apply Keeps.ite
    | with_reducible apply Keeps.four | simp only [Keeps.mk_iff] | split | intro _)

theorem State.countTcxo_keeps {base : State} (s : State) (hk : Keeps base s) :
    Keeps base (State.countTcxo s) := by
  unfold State.countTcxo
  try dsimp only
  repeat' (first
    | with_reducible assumption | with_reducible apply Keeps.four | simp only [Keeps.mk_iff] | split | intro _)

theorem State.countHold_keeps {base : State} (s : State) (hk : Keeps base s) :
    Keeps base (State.countHold s) := by
  unfold State.countHold
  try dsimp only
  repeat' (first
    | with_reducible assumption | with_reducible apply Keeps.ite | with_reducible apply Keeps.four
    | simp only [Keeps.mk_iff] | split | intro _)

theorem State.countFrame_keeps {base : State} (s : State) (hk : Keeps base s) :
    Keeps base (State.countFrame s) := by
  unfold State.countFrame
  try dsimp only
  repeat' (first
    | with_reducible assumption | with_reducible apply State.countHold_keeps | with_reducible apply Keeps.ite
    | with_reducible apply Keeps.four | simp only [Keeps.mk_iff] | split | intro _)

theorem State.countLeft_keeps {base : State} (s : State) (hk : Keeps base s) :
    Keeps base (State.countLeft s) := by
  unfold State.countLeft
  try dsimp only
  repeat' (first
    | with_reducible assumption | with_reducible apply Keeps.ite | with_reducible apply Keeps.four
    | simp only [Keeps.mk_iff] | split | intro _)

theorem State.countMtime_keeps {base : State} (s : State) (hk : Keeps base s) :
    Keeps base (State.countMtime s) := by
  unfold State.countMtime
  try dsimp only
  repeat' (first
    | with_reducible assumption | with_reducible apply Keeps.ite | with_reducible apply Keeps.four
    | simp only [Keeps.mk_iff] | split | intro _)

theorem State.countUart_keeps {base : State} (s : State) (hk : Keeps base s) :
    Keeps base (State.countUart s) := by
  unfold State.countUart
  repeat' (first
    | with_reducible assumption | with_reducible apply State.uartTick_keeps | with_reducible apply Keeps.ite
    | simp only [Keeps.mk_iff] | split | intro _)

theorem State.tick_keeps {base : State} (s : State) (hk : Keeps base s) :
    Keeps base (State.tick s) := by
  unfold State.tick
  try dsimp only
  repeat' (first
    | with_reducible assumption | with_reducible apply State.rtcTick_keeps | with_reducible apply State.begin_keeps
    | with_reducible apply State.countFrame_keeps | with_reducible apply State.countMtime_keeps
    | with_reducible apply State.countLeft_keeps | with_reducible apply State.countUart_keeps
    | with_reducible apply State.countTcxo_keeps | with_reducible apply Keeps.ite | simp only [Keeps.mk_iff] | split
    | intro _)

end Sys2Proof.Machine
end

