-- ==== Sys2Proof/WellFormed.lean ====
section
/-! DEFINITION. Which commands the world can send: operand ranges of pages, offsets, strands, rails, harts and the like.
The meanings are total and do not rest on it. -/
namespace Sys2Proof.Machine

/-- A master that exists: eight harts (R328), six rights (R358). -/
def okMaster : Master → Bool
  | .hart h _ => h < 8
  | .lcp r => r < 64
  | .hspi r => r < 64
  | .block => true

/-- One of the 80 pages (R6, R333). -/
def okPage (p : Nat) : Bool := p < 0x50
/-- An offset within a page. -/
def okOffset (o : Nat) : Bool := o < 0x1000
/-- One of the 48 strands (R210). -/
def okStrand (s : Nat) : Bool := s < 48
/-- One of the four groups of strands (R210). -/
def okGroup (g : Nat) : Bool := g < 4
/-- One of the 12 rails (R243). -/
def okRail (r : Nat) : Bool := r < 12
/-- One of the eight harts. -/
def okHart (h : Nat) : Bool := h < 8
/-- One of the 320 interrupt lines (R338). -/
def okLine (l : Nat) : Bool := l < 320

/-- An access a hart can make: fetches of 2 or 4 bytes, loads and stores of 1, 2 or 4, atomics of 4 (R328). -/
def CoreOp.wf : CoreOp → Bool
  | .fetch n => n = 2 || n = 4
  | .load n => n = 1 || n = 2 || n = 4
  | .store d => d.length = 1 || d.length = 2 || d.length = 4
  | .loadReserved => true
  | .storeConditional d => d.length = 4
  | .amo _ _ => true
  | .fenceI => true

end Sys2Proof.Machine

namespace Sys2Proof

open Machine

/-- The command's operands are in range. -/
def Instr.wf (i : Instr) : Bool := match i with
  | .registerWrite m page off _ => okMaster m && okPage page && okOffset off
  | .pgLockWrite m page _ => okMaster m && okPage page
  | .counterClear m page off _ => okMaster m && okPage page && okOffset off
  | .irqStatClear m page mask events => okMaster m && okPage page && mask < 16 && events < 16
  | .fenceClear m page _ => okMaster m && okPage page
  | .idleRequest m page => okMaster m && okPage page
  | .ptpSyncReceive _ => true
  | .ptpFollowUpReceive _ _ _ _ _ => true
  | .ptpDelayReqTimer _ => true
  | .ptpDelayRespReceive _ _ _ _ _ _ => true
  | .ptpAnnounceReceive _ => true
  | .ptpMessageRefused _ => true
  | .announceReceiptTimeout _ => true
  | .gmSyncSend _ => true
  | .gmDelayReqReceive _ _ _ _ => true
  | .ptpSampleLoss => true
  | .holdover60s => true
  | .ppsPulse => true
  | .ppsFall => true
  | .frameBoundary _ => true
  | .commitDue _ => true
  | .haveSendDeadline _ => true
  | .haveReceive _ _ => true
  | .quorumCloseAtC _ => true
  | .commitReceive _ _ => true
  | .listenEnd => true
  | .genAnnounceReceive _ _ => true
  | .genAnnounceSend m => okMaster m
  | .genStageGo m slot => okMaster m && slot < 4
  | .genStageDone => true
  | .activateReceive _ _ => true
  | .sfpInsert _ => true
  | .sfpRemove _ => true
  | .linkTxdisTimer _ => true
  | .linkSpeedAlternate _ => true
  | .linkUp _ _ => true
  | .linkDown _ _ => true
  | .txFault _ => true
  | .txFaultRetry _ _ => true
  | .netFrameReceive _ => true
  | .igmpQueryReceive _ _ => true
  | .igmpReportTimer _ => true
  | .mediaPacketReceive _ => true
  | .xsdecSliceDecode k _ _ _ _ _ _ _ => k < 8
  | .storeInitDone bad => bad.all fun w => w < 0x70000000
  | .storeWindowAccess h addr op _ => okHart h && addr < 2 ^ 32 && op.wf
  | .storeRepairDone _ => true
  | .patrolRead _ word => word < 0x70000000
  | .wakeScrubDone => true
  | .storeUnusable _ => true
  | .burstEnd => true
  | .laneResidueMismatch g => okGroup g
  | .govFiguresFinal _ => true
  | .screeEvalDone _ => true
  | .govSurveyDone => true
  | .govSnapRequest m => okMaster m
  | .strandSlotDrive strand _ => okStrand strand
  | .strandFrameSend strand => okStrand strand
  | .strandCommandSend strand => okStrand strand
  | .returnReportReceive strand _ _ => okStrand strand
  | .returnWindowClose strand => okStrand strand
  | .idleInsert strand => okStrand strand
  | .presentSend strand => okStrand strand
  | .strandSlotRelease strand => okStrand strand
  | .strandAbort strand _ => okStrand strand
  | .strandContention strand => okStrand strand
  | .vioFault g _ => okGroup g
  | .railRampTick => true
  | .pmbusVoutWrite r _ => okRail r
  | .railStartEnable r _ _ => okRail r
  | .railStartTarget r => okRail r
  | .railLoopPeriod r _ => okRail r
  | .pmbusStatusPoll r _ _ _ => okRail r
  | .pmbAlert reads => reads.words.all fun x => okRail x.1
  | .pmbusFwBus m _ => okMaster m
  | .trimFault r => okRail r
  | .railHoldExpiry r => okRail r
  | .handoverEnableDrop => true
  | .railStopHoldEnd r _ => okRail r
  | .telemBankSwap => true
  | .telemPop m _ => okMaster m
  | .telemRelease m => okMaster m
  | .telemFlushRequest m => okMaster m
  | .telemFlushDone => true
  | .meterAcSample codes => codes.length = 7
  | .meterDcSample shunts rails => shunts.length = 12 && rails.length = 12
  | .meterWindowClose => true
  | .meterSaveDone _ => true
  | .meterPfRepeatEnd => true
  | .meterStmtRequest m => okMaster m
  | .meterStmtReady => true
  | .meterDispClear m _ => okMaster m
  | .meterChannelFault page _ => [pMETERAC, pMETERDC, pMETERACC].contains page
  | .leadClaim _ => true
  | .yieldReceive _ => true
  | .acceptReceive _ => true
  | .declineReceive _ => true
  | .handoverAcceptDeadline _ => true
  | .handoverLeadRelease _ => true
  | .handoverNewLeadSample _ _ => true
  | .frameCrcReceive _ => true
  | .heartSend => true
  | .heartReceive _ _ => true
  | .belayPacketError => true
  | .belayLinkUp => true
  | .belayLinkDown => true
  | .partnerLost => true
  | .resyncStart => true
  | .resyncReqReceive _ => true
  | .resyncDataReceive _ => true
  | .resyncNakReceive _ => true
  | .resyncInstallReceive _ => true
  | .resyncDataSend => true
  | .irqClaim m => okMaster m
  | .irqComplete m _ => okMaster m
  | .irqPost line _ => okLine line
  | .irqPostRetry line _ => okLine line
  | .mtimerExpiry h => okHart h
  | .schedPush m _ => okMaster m
  | .schedDispatch h _ => okHart h
  | .schedTake m => okMaster m
  | .schedUrgent _ => true
  | .schedQflush m _ => okMaster m
  | .schedCkptSave m => okMaster m
  | .schedCkptRestore m => okMaster m
  | .schedTraceRead m => okMaster m
  | .schedTraceClear m => okMaster m
  | .schedQstateFault => true
  | .wdtSysKick m _ => okMaster m
  | .wdtSysHalf => true
  | .wdtSysExpiry => true
  | .wdtCoreKick m _ => okMaster m
  | .wdtCoreExpiry h => okHart h
  | .lcpHello _ _ => true
  | .lcpClose _ _ => true
  | .lcpSessionTimeout _ => true
  | .lcpDatagramDrop code => [0x0101, 0x0102, 0x0104].contains code
  | .lcpRead _ addr count => addr < 2 ^ 32 && count < 2 ^ 16
  | .lcpWrite _ addr words => addr < 2 ^ 32 && words.length ≤ 256
  | .lcpStoreRead _ addr length => addr < 2 ^ 40 && length < 2 ^ 16
  | .lcpStoreWrite _ addr length data => addr < 2 ^ 40 && length < 2 ^ 16 && data.length ≤ 1024
  | .lcpGenStage _ slot addr => slot < 256 && addr < 2 ^ 32
  | .lcpCalInstall _ _ _ _ => true
  | .lcpReset _ _ => true
  | .lcpOwnClaim _ segment module => segment < 2 ^ 16 && module < 2 ^ 16
  | .lcpImgBegin _ _ => true
  | .lcpImgData _ _ _ => true
  | .lcpImgCommit _ _ => true
  | .lcpImgActivate _ _ _ _ => true
  | .imgTransferTimeout => true
  | .lcpXaRegRead m _ => okMaster m
  | .lcpXaRegWrite m _ => okMaster m
  | .lcpXaStoreRead m _ => okMaster m
  | .lcpXaStoreWrite m _ => okMaster m
  | .lcpTxGo m _ => okMaster m
  | .hspiRead addr count _ => addr < 2 ^ 32 && 1 ≤ count && count ≤ 256
  | .hspiWrite addr words _ => addr < 2 ^ 32 && 1 ≤ words.length && words.length ≤ 256
  | .hspiStoreRead addr length _ => addr < 2 ^ 40 && length < 2 ^ 16
  | .hspiStoreWrite addr length _ _ => addr < 2 ^ 40 && length < 2 ^ 16
  | .hspiStatus => true
  | .sysreset _ => true
  | .hostspiBellSet m _ => okMaster m
  | .hostspiBellClear m _ => okMaster m
  | .i2cCommand m n _ => okMaster m && n < 2
  | .i2cCommandDone n result _ => n < 2 && result < 4
  | .uartRxByte byte => byte < 256
  | .uartDataRead m => okMaster m
  | .uartTxByte m _ => okMaster m
  | .gpioEdge k _ => k < 16
  | .fanBelowMin k _ => k < 4
  | .tempMeasure _ ext => ext.length = 4
  | .hspiTransactionRefused cmd => cmd < 256
  | .latchingRegisterRead m page off => okMaster m && okPage page && okOffset off
  | .coreMemoryAccess h addr op _ => okHart h && addr < 2 ^ 32 && op.wf
  | .radioRegionSet m _ => okMaster m
  | .sideSendData m t => okMaster m && t < 16
  | .sideSendConnect m t => okMaster m && t < 16
  | .sideSendLink m t => okMaster m && t < 16
  | .sideSendTerminate m t => okMaster m && t < 16
  | .sideSendBeacon m t => okMaster m && t < 16
  | .sideSendWake m t => okMaster m && t < 16
  | .sideTxStart _ => true
  | .sideAckSend => true
  | .sideAckTimeout => true
  | .sideRetryBackoff => true
  | .sideDeadlineExpiry t => t < 16
  | .sideBeaconTimer => true
  | .discoverySecond => true
  | .sideBeaconReceive _ => true
  | .sideDataReceive _ _ => true
  | .sideAckReceive _ => true
  | .sideConnectReceive _ => true
  | .sideLinkReceive _ => true
  | .sideTerminateReceive _ => true
  | .sideWakeReceive _ => true
  | .sideFrameRefused _ _ => true
  | .sideLinkAnchor l => l < 8
  | .sideLinkReply l => l < 8
  | .sideLinkSupervisionTimeout l => l < 8
  | .sideEvtPop m => okMaster m
  | .sideRxReturn m e => okMaster m && e < 8
  | .sidephyPllUnlock => true
  | .sideCounterStoreFail => true
  | .anchorReady _ _ _ _ => true
  | .anchorCommandDone => true
  | .getInfo m _ _ _ => okMaster m
  | .random m _ _ _ => okMaster m
  | .keyGen m _ _ _ => okMaster m
  | .keyImport m _ _ _ => okMaster m
  | .keyDestroy m _ _ _ => okMaster m
  | .keyPush m _ _ _ => okMaster m
  | .partyPromote m _ _ _ => okMaster m
  | .derive m _ _ _ => okMaster m
  | .cipher m _ _ _ => okMaster m
  | .hash m _ _ _ => okMaster m
  | .hmac m _ _ _ => okMaster m
  | .sign m _ _ _ => okMaster m
  | .verify m _ _ _ => okMaster m
  | .lcpAgree m _ _ _ => okMaster m
  | .lcpSign m _ _ _ => okMaster m
  | .meterSign m _ _ _ => okMaster m
  | .attest m _ _ _ => okMaster m
  | .getCert m _ _ _ => okMaster m
  | .lifecycle m _ _ _ => okMaster m
  | .fuse m _ _ _ => okMaster m
  | .tamper m _ _ _ _ => okMaster m
  | .tableSeal m _ _ _ => okMaster m
  | .tableCheck m _ _ _ => okMaster m
  | .entropyHealthFail => true
  | .tamperEvent source _ => source < 4
  | .bootImageChecked _ => true
  | .updCheckHdr m => okMaster m
  | .updCheckBody m => okMaster m
  | .updProgram m _ => okMaster m
  | .updAbort m => okMaster m
  | .updOperationDone _ _ => true
  | .updConfirm m _ _ => okMaster m
  | .updHealthHalf => true
  | .updHealthExpiry => true
  | .updBootreq m _ => okMaster m
  | .updActArm m => okMaster m
  | .updActDisarm m => okMaster m
  | .activationDue _ => true
  | .updPactSend m => okMaster m
  | .flashErase m _ => okMaster m
  | .flashProgram m _ => okMaster m
  | .flashVerify m _ => okMaster m
  | .flashDone _ => true
  | .blockResetRequest m page => okMaster m && okPage page
  | .blockIdleReached page _ => okPage page
  | .blockResetTimeout page => okPage page
  | .blockResetRelease page => okPage page
  | .powerOn samples => samples.length = 16
  | .pfWarnRaised => true
  | .pfWarnReleased => true
  | .brownout => true
  | .resetPinLow => true
  | .resetDriveEnd => true
  | .resetRelease _ _ => true
  | .warmResetRelease _ => true
  | .resetRequest m _ => okMaster m
  | .resetRequestCancel m _ => okMaster m
  | .resetRequestDelayExpiry => true
  | .rstOutWrite m _ => okMaster m
  | .rstOutMinExpiry => true
  | .clockReady _ _ => true
  | .clockTimeout _ _ => true
  | .clockLoss source _ => source < 9
  | .powerStateRequest m _ => okMaster m
  | .powerHandshakeAccepted => true
  | .powerHandshakeRefused => true
  | .powerHandshakeTimeout => true
  | .powerEntryStep => true
  | .restEnter => true
  | .restExit => true
  | .wakeEvent source _ => source < 7
  | .returnStageDone _ _ _ => true
  | .returnRegulatorTimeout => true
  | .dormantListenWindow => true
  | .regulatorStageRetry => true
  | .backupSwitchover _ => true
  | .backupSupplyLost => true
  | .rtcOscFail => true
  | .vbatMeasure _ => true
  | .rtcTrimWindow _ _ _ => true
  | .rtcSet m _ => okMaster m
  | .rtcSetAtPtpApply => true
  | .rtcDstAdd m _ => okMaster m
  | .rtcDstSub m _ => okMaster m
  | .rtcDstApply => true
  | .rtcAlarmFire _ => true
  | .rtcEndOfRange => true
  | .cairnMetricSample _ => true
  | .cairnIntervalEnd => true
  | .cairnOccurrence => true
  | .cairnRaise m _ => okMaster m
  | .cairnRecordWrite _ => true
  | .cairnFlushRequest m _ => okMaster m
  | .cairnFlushDone => true
  | .cairnCursorLoad m _ => okMaster m
  | .cairnWinAdvance m => okMaster m
  | .cairnFreeze m _ => okMaster m
  | .cairnThaw => true
  | .cairnReleaseScan => true

end Sys2Proof
end

