-- ==== Sys2Proof/Tests/Slice0.lean ====
section
/-! SUPPORT. Tests: ill-formed commands that WellFormed refuses, values of the spec's own examples, and, for each clause of
the statements that has hypotheses, a concrete state and operands that meet them. A witness wit_<statement>_<k> is for clause
k of the statement. -/
set_option linter.all false
set_option Elab.async false
set_option maxRecDepth 100000
namespace Sys2Proof.Tests
open Sys2Proof Sys2Proof.Machine

/-! ## States of the tests -/

def up (s : State) : State := { s with rst := { s.rst with down := [], phase := .none } }
def S (l : List (Fld × Nat)) : State := up (State.reset.setFlds l)
def N (l : List (Fld × Nat)) : State := S l
def sec (n : Nat) (l : List (Nat × Nat × Nat)) : List Byte := l.foldl (fun bs (o, len, v) => bs.take o ++ leBytes len v ++ bs.drop (o + len)) (List.replicate n 0)
def secR (n : Nat) (l : List (Fld × Nat)) : List Byte := l.foldl (fun bs (f, v) => let o := f.off - 0x40; let w := leAt bs o 4; bs.take o ++ leBytes 4 (w + v * 2 ^ f.lo) ++ bs.drop (o + 4)) (List.replicate n 0)
def partySec : List Byte := sec 256 [(0,4,60),(4,4,1),(8,1,4),(9,1,3),(10,1,10),(12,2,2000),(14,2,3000),(16,2,1000),(18,2,0x8000),(20,2,1),(22,2,2),(28,2,3),
  (96,2,77),(98,2,101),(100,2,102),(102,2,5000),(104,4,0xEF000001),(108,4,0xEF000002),(112,4,0xEF000003),(116,4,0xEF000004),(120,1,8),(121,1,3),
  (128,2,101),(130,2,1),(144,2,102),(146,2,1),(148,1,8),(160,2,103),(162,2,2)]
def ingestSec : List Byte := secR 0x400 [(R.INGEST_SEG_W, 8),(R.INGEST_SEG_H, 4),(R.INGEST_CFG_RTP_TOL, 100),(R.INGEST_ST_CFG_EN 0,1),(R.INGEST_ST_CFG_PATHS 0,3),(R.INGEST_ST_CFG_PT 0,96),
  (R.INGEST_ST_GRP_A_ADDR 0,0xEF010101),(R.INGEST_ST_GRP_B_ADDR 0,0xEF010101),(R.INGEST_ST_UDP_PORT_A 0,6000),(R.INGEST_ST_UDP_PORT_B 0,6000),(R.INGEST_ST_RASTER_W 0,8),(R.INGEST_ST_RASTER_H 0,4),(R.INGEST_ST_CFG_DEPTH 0,1)]
def slot0 : GenSlot := { digest := [1], sound := true, party := partySec, segment := some 1, ingest := some ingestSec, order := 1 }
def slot1 : GenSlot := { slot0 with digest := [2], order := 2 }
/-- The registers of a module that runs. -/
def runRegs : List (Nat × Word) :=
  [(0x10050, 0x801), (0x11050, 0x801), (0x13058, 0x30005), (0x1305C, 0x10006), (0x18044, 0xE000000),
   (0x3804C, 0x80000066), (0x39040, 0x3C), (0x39044, 0x1), (0x39048, 0x7D00A34), (0x3904C, 0x3E80BB8),
   (0x39050, 0x20001), (0x39054, 0x8000), (0x39080, 0x4D), (0x39084, 0x660065), (0x39088, 0x13880308),
   (0x3908C, 0xEF000001), (0x39090, 0xEF000002), (0x39094, 0xEF000003), (0x39098, 0xEF000004), (0x3909C, 0x80010065),
   (0x390A0, 0x3), (0x390A4, 0x650002), (0x40040, 0x1010000)]

/-- A module that runs generation 5, of slot 0, as member 101. -/
def Run (l : List (Fld × Nat)) : State :=
  ({ up State.reset with
    regs := runRegs, commit := { slots := [slot0, slot1, {}, {}], cur := some 0, staged := 2, dueDone := some 59999 }
    ptp := { ns := 1000000000000 }, party := { keyCur := some (List.replicate 16 1) }, ingest := { cur := some ingestSec } } : State).setFlds l

def pmsg (ty sender frame : Nat) (body : List Byte) : List Byte :=
  let m := beBytes 2 0x4C50 ++ [1, BitVec.ofNat 8 ty] ++ beBytes 2 77 ++ beBytes 2 sender ++ beBytes 6 frame ++ beBytes 2 (partyLen ty) ++ body
  m ++ partyTag (List.replicate 16 1) m

/-! ## Ill-formed commands -/

theorem test_wf_okMaster_m : ∀ i ∈ ([
    .registerWrite (.hart 8 true) 0 0 0#32, .pgLockWrite (.hart 8 true) 0 0#32,
    .counterClear (.hart 8 true) 0 0 0#32, .irqStatClear (.hart 8 true) 0 0 0, .fenceClear (.hart 8 true) 0 [],
    .idleRequest (.hart 8 true) 0, .genAnnounceSend (.hart 8 true), .genStageGo (.hart 8 true) 0,
    .govSnapRequest (.hart 8 true), .pmbusFwBus (.hart 8 true) true, .telemPop (.hart 8 true) .clean,
    .telemRelease (.hart 8 true), .telemFlushRequest (.hart 8 true), .meterStmtRequest (.hart 8 true),
    .meterDispClear (.hart 8 true) 0#32, .irqClaim (.hart 8 true), .irqComplete (.hart 8 true) 0#32,
    .schedPush (.hart 8 true) 0#32, .schedTake (.hart 8 true), .schedQflush (.hart 8 true) 0#32,
    .schedCkptSave (.hart 8 true), .schedCkptRestore (.hart 8 true), .schedTraceRead (.hart 8 true),
    .schedTraceClear (.hart 8 true), .wdtSysKick (.hart 8 true) 0#32, .wdtCoreKick (.hart 8 true) 0#32,
    .lcpXaRegRead (.hart 8 true) 0#32, .lcpXaRegWrite (.hart 8 true) 0#32, .lcpXaStoreRead (.hart 8 true) 0#32,
    .lcpXaStoreWrite (.hart 8 true) 0#32, .lcpTxGo (.hart 8 true) 0#32, .hostspiBellSet (.hart 8 true) 0#32,
    .hostspiBellClear (.hart 8 true) 0#32, .i2cCommand (.hart 8 true) 0 0#32, .uartDataRead (.hart 8 true),
    .uartTxByte (.hart 8 true) 0#32, .latchingRegisterRead (.hart 8 true) 0 0, .radioRegionSet (.hart 8 true) 0#32,
    .sideSendData (.hart 8 true) 0, .sideSendConnect (.hart 8 true) 0, .sideSendLink (.hart 8 true) 0,
    .sideSendTerminate (.hart 8 true) 0, .sideSendBeacon (.hart 8 true) 0, .sideSendWake (.hart 8 true) 0,
    .sideEvtPop (.hart 8 true), .sideRxReturn (.hart 8 true) 0, .getInfo (.hart 8 true) 0 [] .runs,
    .random (.hart 8 true) 0 [] .runs, .keyGen (.hart 8 true) 0 [] .runs, .keyImport (.hart 8 true) 0 [] .runs,
    .keyDestroy (.hart 8 true) 0 [] .runs, .keyPush (.hart 8 true) 0 [] .runs,
    .partyPromote (.hart 8 true) 0 [] .runs, .derive (.hart 8 true) 0 [] .runs, .cipher (.hart 8 true) 0 [] .runs,
    .hash (.hart 8 true) 0 [] .runs, .hmac (.hart 8 true) 0 [] .runs, .sign (.hart 8 true) 0 [] .runs,
    .verify (.hart 8 true) 0 [] .runs, .lcpAgree (.hart 8 true) 0 [] .runs, .lcpSign (.hart 8 true) 0 [] .runs,
    .meterSign (.hart 8 true) 0 [] .runs, .attest (.hart 8 true) 0 [] .runs, .getCert (.hart 8 true) 0 [] .runs,
    .lifecycle (.hart 8 true) 0 [] .runs, .fuse (.hart 8 true) 0 [] .runs, .tamper (.hart 8 true) 0 [] .runs true,
    .tableSeal (.hart 8 true) 0 [] .runs, .tableCheck (.hart 8 true) 0 [] .runs, .updCheckHdr (.hart 8 true),
    .updCheckBody (.hart 8 true), .updProgram (.hart 8 true) true, .updAbort (.hart 8 true),
    .updConfirm (.hart 8 true) 0#32 true, .updBootreq (.hart 8 true) 0#32, .updActArm (.hart 8 true),
    .updActDisarm (.hart 8 true), .updPactSend (.hart 8 true), .flashErase (.hart 8 true) 0#32,
    .flashProgram (.hart 8 true) 0#32, .flashVerify (.hart 8 true) 0#32, .blockResetRequest (.hart 8 true) 0,
    .resetRequest (.hart 8 true) 0#32, .resetRequestCancel (.hart 8 true) 0#32, .rstOutWrite (.hart 8 true) 0#32,
    .powerStateRequest (.hart 8 true) 0#32, .rtcSet (.hart 8 true) 0#32, .rtcDstAdd (.hart 8 true) true,
    .rtcDstSub (.hart 8 true) true, .cairnRaise (.hart 8 true) 0#32, .cairnFlushRequest (.hart 8 true) 0#32,
    .cairnCursorLoad (.hart 8 true) 0#32, .cairnWinAdvance (.hart 8 true), .cairnFreeze (.hart 8 true) 0#32] : List Instr),
    i.wf = false := by decide +kernel

theorem test_wf_okPage_page : ∀ i ∈ ([
    .registerWrite (.hart 0 true) 80 0 0#32, .pgLockWrite (.hart 0 true) 80 0#32,
    .counterClear (.hart 0 true) 80 0 0#32, .irqStatClear (.hart 0 true) 80 0 0, .fenceClear (.hart 0 true) 80 [],
    .idleRequest (.hart 0 true) 80, .latchingRegisterRead (.hart 0 true) 80 0, .blockResetRequest (.hart 0 true) 80,
    .blockIdleReached 80 0, .blockResetTimeout 80, .blockResetRelease 80] : List Instr),
    i.wf = false := by decide +kernel

theorem test_wf_okOffset_off : ∀ i ∈ ([
    .registerWrite (.hart 0 true) 0 4096 0#32, .counterClear (.hart 0 true) 0 4096 0#32,
    .latchingRegisterRead (.hart 0 true) 0 4096] : List Instr),
    i.wf = false := by decide +kernel

theorem test_wf_mask_lt_16 : ∀ i ∈ ([
    .irqStatClear (.hart 0 true) 0 16 0] : List Instr),
    i.wf = false := by decide +kernel

theorem test_wf_events_lt_16 : ∀ i ∈ ([
    .irqStatClear (.hart 0 true) 0 0 16] : List Instr),
    i.wf = false := by decide +kernel

theorem test_wf_slot_lt_4 : ∀ i ∈ ([
    .genStageGo (.hart 0 true) 4] : List Instr),
    i.wf = false := by decide +kernel

theorem test_wf_k_lt_8 : ∀ i ∈ ([
    .xsdecSliceDecode 8 0 0 0 0 0 0 ⟨none, .clean, .marker⟩] : List Instr),
    i.wf = false := by decide +kernel

theorem test_wf_bad_all_fun_w_eq_w_lt_0x70000000 : ∀ i ∈ ([
    .storeInitDone [0x70000000]] : List Instr),
    i.wf = false := by decide +kernel

theorem test_wf_okHart_h : ∀ i ∈ ([
    .storeWindowAccess 8 0 (.load 4) .clean, .mtimerExpiry 8, .schedDispatch 8 .clean, .wdtCoreExpiry 8,
    .coreMemoryAccess 8 0 (.load 4) .clean] : List Instr),
    i.wf = false := by decide +kernel

theorem test_wf_addr_lt_2_32 : ∀ i ∈ ([
    .storeWindowAccess 0 (2 ^ 32) (.load 4) .clean, .lcpRead ⟨1, 1, 1, none⟩ (2 ^ 32) 0,
    .lcpWrite ⟨1, 1, 1, none⟩ (2 ^ 32) [], .lcpGenStage ⟨1, 1, 1, none⟩ 0 (2 ^ 32), .hspiRead (2 ^ 32) 1 true,
    .hspiWrite (2 ^ 32) [0#32] true, .coreMemoryAccess 0 (2 ^ 32) (.load 4) .clean] : List Instr),
    i.wf = false := by decide +kernel

theorem test_wf_op_wf : ∀ i ∈ ([
    .storeWindowAccess 0 0 (.load 3) .clean, .coreMemoryAccess 0 0 (.load 3) .clean] : List Instr),
    i.wf = false := by decide +kernel

theorem test_wf_word_lt_0x70000000 : ∀ i ∈ ([
    .patrolRead .clean 0x70000000] : List Instr),
    i.wf = false := by decide +kernel

theorem test_wf_okGroup_g : ∀ i ∈ ([
    .laneResidueMismatch 4, .vioFault 4 0] : List Instr),
    i.wf = false := by decide +kernel

theorem test_wf_okStrand_strand : ∀ i ∈ ([
    .strandSlotDrive 48 0, .strandFrameSend 48, .strandCommandSend 48,
    .returnReportReceive 48 ⟨0, 0, 0, [], false, 0⟩ .clean, .returnWindowClose 48, .idleInsert 48, .presentSend 48,
    .strandSlotRelease 48, .strandAbort 48 0, .strandContention 48] : List Instr),
    i.wf = false := by decide +kernel

theorem test_wf_okRail_r : ∀ i ∈ ([
    .pmbusVoutWrite 12 true, .railStartEnable 12 none true, .railStartTarget 12, .railLoopPeriod 12 .clean,
    .pmbusStatusPoll 12 none none .clean, .trimFault 12, .railHoldExpiry 12, .railStopHoldEnd 12 true] : List Instr),
    i.wf = false := by decide +kernel

theorem test_wf_reads_words_all_fun_x_eq_okRail_x_1 : ∀ i ∈ ([
    .pmbAlert ⟨[(12, none)], .clean⟩] : List Instr),
    i.wf = false := by decide +kernel

theorem test_wf_codes_length_eq_7 : ∀ i ∈ ([
    .meterAcSample []] : List Instr),
    i.wf = false := by decide +kernel

theorem test_wf_shunts_length_eq_12 : ∀ i ∈ ([
    .meterDcSample [] (List.replicate 12 0)] : List Instr),
    i.wf = false := by decide +kernel

theorem test_wf_rails_length_eq_12 : ∀ i ∈ ([
    .meterDcSample (List.replicate 12 0) []] : List Instr),
    i.wf = false := by decide +kernel

theorem test_wf_pMETERAC_pMETERDC_pMETERACC_contains_page : ∀ i ∈ ([
    .meterChannelFault 0 .reference] : List Instr),
    i.wf = false := by decide +kernel

theorem test_wf_okLine_line : ∀ i ∈ ([
    .irqPost 320 .clean, .irqPostRetry 320 .clean] : List Instr),
    i.wf = false := by decide +kernel

theorem test_wf_0x0101_0x0102_0x0104_contains_code : ∀ i ∈ ([
    .lcpDatagramDrop 0] : List Instr),
    i.wf = false := by decide +kernel

theorem test_wf_count_lt_2_16 : ∀ i ∈ ([
    .lcpRead ⟨1, 1, 1, none⟩ 0 (2 ^ 16)] : List Instr),
    i.wf = false := by decide +kernel

theorem test_wf_words_length_le_256 : ∀ i ∈ ([
    .lcpWrite ⟨1, 1, 1, none⟩ 0 (List.replicate 257 0), .hspiWrite 0 (List.replicate 257 0) true] : List Instr),
    i.wf = false := by decide +kernel

theorem test_wf_addr_lt_2_40 : ∀ i ∈ ([
    .lcpStoreRead ⟨1, 1, 1, none⟩ (2 ^ 40) 0, .lcpStoreWrite ⟨1, 1, 1, none⟩ (2 ^ 40) 0 [],
    .hspiStoreRead (2 ^ 40) 0 true, .hspiStoreWrite (2 ^ 40) 0 [] true] : List Instr),
    i.wf = false := by decide +kernel

theorem test_wf_length_lt_2_16 : ∀ i ∈ ([
    .lcpStoreRead ⟨1, 1, 1, none⟩ 0 (2 ^ 16), .lcpStoreWrite ⟨1, 1, 1, none⟩ 0 (2 ^ 16) [],
    .hspiStoreRead 0 (2 ^ 16) true, .hspiStoreWrite 0 (2 ^ 16) [] true] : List Instr),
    i.wf = false := by decide +kernel

theorem test_wf_data_length_le_1024 : ∀ i ∈ ([
    .lcpStoreWrite ⟨1, 1, 1, none⟩ 0 0 (List.replicate 1025 0)] : List Instr),
    i.wf = false := by decide +kernel

theorem test_wf_slot_lt_256 : ∀ i ∈ ([
    .lcpGenStage ⟨1, 1, 1, none⟩ 256 0] : List Instr),
    i.wf = false := by decide +kernel

theorem test_wf_segment_lt_2_16 : ∀ i ∈ ([
    .lcpOwnClaim ⟨1, 1, 1, none⟩ (2 ^ 16) 0] : List Instr),
    i.wf = false := by decide +kernel

theorem test_wf_module_lt_2_16 : ∀ i ∈ ([
    .lcpOwnClaim ⟨1, 1, 1, none⟩ 0 (2 ^ 16)] : List Instr),
    i.wf = false := by decide +kernel

theorem test_wf_1_le_count : ∀ i ∈ ([
    .hspiRead 0 0 true] : List Instr),
    i.wf = false := by decide +kernel

theorem test_wf_count_le_256 : ∀ i ∈ ([
    .hspiRead 0 257 true] : List Instr),
    i.wf = false := by decide +kernel

theorem test_wf_1_le_words_length : ∀ i ∈ ([
    .hspiWrite 0 [] true] : List Instr),
    i.wf = false := by decide +kernel

theorem test_wf_n_lt_2 : ∀ i ∈ ([
    .i2cCommand (.hart 0 true) 2 0#32, .i2cCommandDone 2 0 []] : List Instr),
    i.wf = false := by decide +kernel

theorem test_wf_result_lt_4 : ∀ i ∈ ([
    .i2cCommandDone 0 4 []] : List Instr),
    i.wf = false := by decide +kernel

theorem test_wf_byte_lt_256 : ∀ i ∈ ([
    .uartRxByte 256] : List Instr),
    i.wf = false := by decide +kernel

theorem test_wf_k_lt_16 : ∀ i ∈ ([
    .gpioEdge 16 true] : List Instr),
    i.wf = false := by decide +kernel

theorem test_wf_k_lt_4 : ∀ i ∈ ([
    .fanBelowMin 4 0] : List Instr),
    i.wf = false := by decide +kernel

theorem test_wf_ext_length_eq_4 : ∀ i ∈ ([
    .tempMeasure 0 []] : List Instr),
    i.wf = false := by decide +kernel

theorem test_wf_cmd_lt_256 : ∀ i ∈ ([
    .hspiTransactionRefused 256] : List Instr),
    i.wf = false := by decide +kernel

theorem test_wf_t_lt_16 : ∀ i ∈ ([
    .sideSendData (.hart 0 true) 16, .sideSendConnect (.hart 0 true) 16, .sideSendLink (.hart 0 true) 16,
    .sideSendTerminate (.hart 0 true) 16, .sideSendBeacon (.hart 0 true) 16, .sideSendWake (.hart 0 true) 16,
    .sideDeadlineExpiry 16] : List Instr),
    i.wf = false := by decide +kernel

theorem test_wf_l_lt_8 : ∀ i ∈ ([
    .sideLinkAnchor 8, .sideLinkReply 8, .sideLinkSupervisionTimeout 8] : List Instr),
    i.wf = false := by decide +kernel

theorem test_wf_e_lt_8 : ∀ i ∈ ([
    .sideRxReturn (.hart 0 true) 8] : List Instr),
    i.wf = false := by decide +kernel

theorem test_wf_source_lt_4 : ∀ i ∈ ([
    .tamperEvent 4 true] : List Instr),
    i.wf = false := by decide +kernel

theorem test_wf_samples_length_eq_16 : ∀ i ∈ ([
    .powerOn []] : List Instr),
    i.wf = false := by decide +kernel

theorem test_wf_source_lt_9 : ∀ i ∈ ([
    .clockLoss 9 []] : List Instr),
    i.wf = false := by decide +kernel

theorem test_wf_source_lt_7 : ∀ i ∈ ([
    .wakeEvent 7 []] : List Instr),
    i.wf = false := by decide +kernel

/-! ## Values of the spec's examples -/

/-- R216: the check value of "123456789". -/
theorem test_crc16 : crc16 (bytesBits [0x31, 0x32, 0x33, 0x34, 0x35, 0x36, 0x37, 0x38, 0x39]) = 0x29B1 := by decide +kernel

/-- The example of 03_frame_time.md under R82: 60000/1001 fps. -/
theorem test_frame_instants : (⟨60000, 1001, 2, 1500, 3000, 2000⟩ : Timing).m 210000000000 = 3503500000 * 10 ^ 9 ∧
    (⟨60000, 1001, 2, 1500, 3000, 2000⟩ : Timing).m 210000000001 = 3503500000 * 10 ^ 9 + 16683333 := by decide +kernel

/-- The example of 05_central_store.md under R147. -/
theorem test_scree_stride : screeStride 1024 768 = 3538944 := by decide +kernel

/-- The example of 06_pixel_pipeline.md: matrix, gain and dither of segment pixel (100, 5). -/
theorem test_pixel_matrix :
    let m : List Int := [7628, 340, -71, 101, 7255, 247, -37, 170, 7804]
    [0, 1, 2].map (matrixRow m [352476, 145829, 27629]) = [334022, 134328, 27755] := by decide +kernel

theorem test_pixel_gain : gain15 29491 28672 = 25805 ∧
    [334022, 134328, 27755].map (fun y => gain15 y 25805) = [263044, 105784, 21857] := by decide +kernel

theorem test_pixel_dither : [0, 1, 2].map (dithT 3 0 1124 773 200000000000) = [8, 3, 10] := by decide +kernel

/-- The example of 07_governor.md: two segments whose figures give the sums of the example's table. -/
theorem test_governor_choice :
    let p := sec 256 [(64, 4, 250000000), (68, 4, 6400000), (76, 2, 5000), (80, 2, 0x8000), (84, 2, 0x0100), (28, 2, 2),
      (128, 2, 27), (130, 2, 27), (144, 2, 9), (146, 2, 9)]
    let have27 : Have := ⟨27, 100, true, false, 0, 0, 243600000, 0, 0x7A00, 4600⟩
    let have9 : Have := ⟨9, 100, true, false, 0, 0, 5200000, 0, 0x8000, 4000⟩
    chooseGain p 0 0x7400 [have27, have9] = ⟨248800000, 0x7D53, 0x8000, 0x7A00, 0x7A00, 0x7500⟩ := by decide +kernel

/-- The example of 02_lands_supplies.md under R70: 255 kΩ give window 11, EU, position A, normal boot. -/
theorem test_strap : ∃ t, exec (.powerOn (List.replicate 16 183)) State.reset = .next t ∧
    t.fld R.SYS_STRAP_WINDOW = 11 ∧ t.fld R.SYS_STRAP_REGION = 1 ∧ t.fld R.SYS_STRAP_POSITION = 0 ∧
    t.fld R.SYS_STRAP_RECOVERY = 0 := ⟨_, rfl, by decide +kernel⟩

/-- The example of 14_side_link.md under R387: 50 ppm at each end, 4 s and 1 s after the central was last heard. -/
theorem test_widening : let s := S [(R.SIDEPHY_SCA_PPM, 50)]
    s.widen ⟨1000, 6000, 0, 1, 0, 50, 1⟩ 4 = 432 ∧ s.widen ⟨1000, 6000, 0, 1, 0, 50, 1⟩ 1 = 132 := by decide +kernel

/-- The example of 19_rtc_backup.md under R487: a crystal 12.5 ppm slow. -/
theorem test_trim_measure : trimMeasure 0 32000400000 = 13 := by decide +kernel

/-- The example of 19_rtc_backup.md under R491. -/
def facade (secs alarm0 : Nat) (add : Bool) : State :=
  let s := S [(R.RTC_SEC_LO_S_LO, secs), (R.RTC_SEC_HI_VALID, 1), (R.RTC_ALM_LO_T_LO 0, alarm0),
    (R.RTC_ALM_CTRL_EN 0, 1), (R.RTC_ALM_CTRL_PERIOD_S 0, 86400), (R.RTC_ALM_CTRL_REARM_BACK 0, 1),
    (R.RTC_ALM_LO_T_LO 1, 796618800), (R.RTC_ALM_CTRL_EN 1, 1)]
  { s with rtc := { s.rtc with dst := some add } }

theorem test_summer_time_add : ∃ t, exec .rtcDstApply (facade 796615199 796617000 true) = .next t ∧
    t.rtcS = 796618800 ∧ t.fld R.RTC_ALM_STAT_FIRED = 3 ∧ t.fld R.RTC_ALM_STAT_SKIPPED = 1 ∧
    t.almT 0 = 796703400 := ⟨_, rfl, by decide +kernel⟩

theorem test_summer_time_sub : ∃ t, exec .rtcDstApply (facade 814762799 814847400 false) = .next t ∧
    t.rtcS = 814759200 ∧ t.almT 0 = 814761000 ∧ t.fld R.RTC_ALM_STAT_FIRED = 0 := ⟨_, rfl, by decide +kernel⟩

/-- A step takes the command at the front, and leaves the others waiting. -/
theorem test_queue_order : ∃ t, step { State.reset with pending := [.ppsFall, .ppsPulse] } = .next t ∧
    t.pending = [.ppsPulse] := ⟨_, rfl, by decide +kernel⟩

namespace Net

def A (l : List (Fld × Nat)) (abs : Bool) (f : PortS → PortS := id) : State := let s := N (l ++ [(R.NET_CFG_VID 0,5)]); { s with pins := {s.pins with absA := abs}, netA := f s.netA }
def fr (k : NetKind) (d : MacDest := .own) : NetFrame := ⟨.a, 0, 0, true, 100, some 5, false, d, k, [1,2,3]⟩

theorem wit_NetLinkLifecycle_1 : ∃ (p : Port) (s : State),
    s.Ok :=
  ⟨.a, (A [(R.NET_LINK_UP 0, 1)] true), by unfold State.Ok; decide +kernel⟩

theorem wit_NetLinkLifecycle_2 : ∃ (p : Port) (s : State),
    s.Ok :=
  ⟨.a, (A [(R.NET_LINK_UP 0, 1)] false), by unfold State.Ok; decide +kernel⟩

theorem wit_NetLinkLifecycle_3 : ∃ (p : Port) (s : State),
    s.Ok :=
  ⟨.a, (A [(R.NET_CFG_PORT_EN 0, 1)] false), by unfold State.Ok; decide +kernel⟩

theorem wit_NetLinkLifecycle_5 : ∃ (p : Port) (aligned : Bool) (s : State),
    s.Ok :=
  ⟨.a, true,
    (A [(R.NET_CFG_SPEED 0, 0),(R.NET_LINK_UP 0, 0)] false fun n => {n with acquiring := true, trying := 1}),
    by unfold State.Ok; decide +kernel⟩

theorem wit_NetLinkLifecycle_6 : ∃ (p : Port) (los : Bool) (s : State),
    s.Ok :=
  ⟨.a, true,
    (A [(R.NET_CFG_SPEED 0, 0),(R.NET_LINK_UP 0, 1)] false fun n => {n with acquiring := true, trying := 2}),
    by unfold State.Ok; decide +kernel⟩

theorem wit_NetTransmitFault_1 : ∃ (p : Port) (s : State),
    s.Ok :=
  ⟨.a, (A [(R.NET_LINK_TX_OFF 0, 1)] false), by unfold State.Ok; decide +kernel⟩

theorem wit_NetTransmitFault_2 : ∃ (p : Port) (level : Bool) (s : State),
    s.Ok :=
  ⟨.a, true, (A [(R.NET_LINK_TX_OFF 0, 1)] false fun n => {n with faultRelease := true}),
    by unfold State.Ok; decide +kernel⟩

theorem wit_NetFrameClassified_1 : ∃ (f : NetFrame) (s : State),
    s.Ok ∧ s.portReceives f.port = false :=
  ⟨(fr .other), (A [(R.NET_LINK_UP 0, 0)] false), by unfold State.Ok; decide +kernel⟩

theorem wit_NetFrameClassified_2 : ∃ (f : NetFrame) (s : State),
    s.Ok ∧ s.portReceives f.port = true ∧ ((f.fcsOk = false ∨ f.size < 64 ∨ 9216 < f.size)) :=
  ⟨{fr .other with size := 63}, (A [(R.NET_LINK_UP 0, 1)] false), by unfold State.Ok; decide +kernel⟩

theorem wit_NetFrameClassified_3 : ∃ (f : NetFrame) (s : State),
    s.Ok ∧ s.portReceives f.port = true ∧ f.fcsOk = true ∧ 64 ≤ f.size ∧ f.size ≤ 9216 ∧ f.macControl = true :=
  ⟨{fr .other with size := 64, macControl := true}, (A [(R.NET_LINK_UP 0, 1)] false),
    by unfold State.Ok; decide +kernel⟩

theorem wit_NetFrameClassified_4 : ∃ (f : NetFrame) (s : State),
    s.Ok ∧ s.portReceives f.port = true ∧ f.fcsOk = true ∧ 64 ≤ f.size ∧ f.size ≤ 9216 ∧ f.macControl = false :=
  ⟨(fr .other), (A [(R.NET_LINK_UP 0, 1),(R.LCP_CFG_EN,0)] false), by unfold State.Ok; decide +kernel⟩

theorem wit_NetIgmp_1 : ∃ (p : Port) (q : IgmpQuery) (s : State),
    s.Ok :=
  ⟨.a, ⟨2, 0⟩, (A [(R.NET_LINK_UP 0, 1)] false), by unfold State.Ok; decide +kernel⟩

theorem wit_NetIgmp_2 : ∃ (p : Port) (s : State),
    s.Ok :=
  ⟨.a, (A [(R.NET_LINK_UP 0, 0)] false), by unfold State.Ok; decide +kernel⟩

end Net

namespace Store

def W (l : List (Fld × Nat)) (f : StoreCtl → StoreCtl := id) (m : Mems → Mems := id) : State := let s := N ([(R.SYS_WIN_BASE_MB 0, 0x70),(R.SYS_WIN_EN 0,1), (R.STORE_STATUS_INIT_DONE,1),(R.STORE_STATUS_SPARES_LEFT,10)] ++ l); { s with storeCtl := f s.storeCtl, mem := m {s.mem with store := [(0x7000000+3, 9),(0x7000000+16, 7)]}, reservations := [(2, ⟨5,0⟩),(3,⟨5,0⟩)] }

theorem wit_StoreWindowAccesses_1 : ∃ (h addr a : Nat) (d : List Byte) (e : Ecc) (s : State),
    s.pmpGrants h addr (.store d) = true ∧ s.windowAddr addr = some a ∧ CoreOp.aligned (.store d) addr = true ∧
    s.storeCtl.unusable = false ∧ ((storeRegion a = 2 ∨ storeRegion a = 3)) :=
  ⟨0, 0x80000000, 0x1C000000, [1], .clean, (W [(R.SYS_WIN_BASE_MB 0, 0x1C0)]), by decide +kernel⟩

theorem wit_StoreWindowAccesses_2 : ∃ (h addr a n : Nat) (e : Ecc) (s : State),
    s.Ok ∧ s.pmpGrants h addr (.load n) = true ∧ s.windowAddr addr = some a ∧ CoreOp.aligned (.load n) addr = true ∧
    0 < n ∧ s.storeCtl.unusable = false ∧ s.fld R.STORE_STATUS_INIT_DONE = 1 ∧ s.firstBad a n = none ∧
    e ≠ .uncorrectable :=
  ⟨2, 0x80000000, 0x7000000, 4, .clean, (W []), by unfold State.Ok; decide +kernel⟩

theorem wit_StoreWindowAccesses_3 : ∃ (h addr a : Nat) (d : List Byte) (s : State),
    s.Ok ∧ s.pmpGrants h addr (.store d) = true ∧ s.windowAddr addr = some a ∧
    s.windowBreach addr (.store d) = false ∧ CoreOp.aligned (.store d) addr = true ∧ s.storeCtl.unusable = false ∧
    s.fld R.STORE_STATUS_INIT_DONE = 1 ∧ s.firstBad a d.length = none ∧ wordsIn s.mem.storeWeak a d.length = [] :=
  ⟨2, 0x80000000, 0x7000000, [1,2,3,0], (W []), by unfold State.Ok; decide +kernel⟩

theorem wit_StoreWindowAccesses_4 : ∃ (h addr a n w : Nat) (s : State),
    s.Ok ∧ s.pmpGrants h addr (.load n) = true ∧ s.windowAddr addr = some a ∧ CoreOp.aligned (.load n) addr = true ∧
    s.storeCtl.unusable = false ∧ s.fld R.STORE_STATUS_INIT_DONE = 1 ∧ s.firstBad a n = some w ∧
    wordsIn s.mem.storeBad a n = [w] ∧ wordsIn s.mem.storeWeak a n = [] ∧ s.storeCtl.stalled = [] :=
  ⟨2, 0x80000000, 0x7000000, 4, 0xE00000, (W [] id fun m => {m with storeBad := [0xE00000]}),
    by unfold State.Ok; decide +kernel⟩

theorem wit_StoreWindowAccesses_5 : ∃ (h addr : Nat) (op : CoreOp) (e : Ecc) (s : State),
    s.pmpGrants h addr op = true ∧ op.isAtomic = true :=
  ⟨2, 0x80000000, .loadReserved, .clean, (W []), by decide +kernel⟩

theorem wit_StoreWindowAccesses_6 : ∃ (h addr : Nat) (op : CoreOp) (e : Ecc) (s : State),
    s.pmpGrants h addr op = true ∧ op.isAtomic = false ∧ op.aligned addr = false ∧ s.windowBreach addr op = false ∧
    s.fetchStale h addr op = false :=
  ⟨2, 0x80000001, (.load 2), .clean, (W []), by decide +kernel⟩

theorem wit_StoreWindowAccesses_7 : ∃ (h addr : Nat) (op : CoreOp) (e : Ecc) (s : State),
    s.pmpGrants h addr op = true ∧ op.isAtomic = false ∧ op ≠ .fenceI ∧ op.aligned addr = true ∧
    s.fetchStale h addr op = false ∧ s.windowAddr addr = none :=
  ⟨2, 0x80000000, (.load 2), .clean, (W [(R.SYS_WIN_EN 0,0)]), by decide +kernel⟩

theorem wit_StoreWindowAccesses_8 : ∃ (h addr a : Nat) (op : CoreOp) (e : Ecc) (s : State),
    s.pmpGrants h addr op = true ∧ op.isAtomic = false ∧ op ≠ .fenceI ∧ op.aligned addr = true ∧
    s.fetchStale h addr op = false ∧ s.windowAddr addr = some a ∧ s.windowBreach addr op = false ∧
    s.storeCtl.unusable = false ∧ s.fld R.STORE_STATUS_INIT_DONE = 0 :=
  ⟨2, 0x80000000, 0x7000000, (.load 2), .clean, (W [(R.STORE_STATUS_INIT_DONE,0)]), by decide +kernel⟩

theorem wit_StoreWindowAccesses_9 : ∃ (h addr : Nat) (op : CoreOp) (e : Ecc) (s : State),
    s.pmpGrants h addr op = false ∧ op ≠ .fenceI :=
  ⟨2, 0x80000000, (.load 2), .clean, { W [] with harts := [{},{},{ ({} : HartS) with mmode := false}] },
    by decide +kernel⟩

theorem wit_StoreController_1 : ∃ (bad : List Nat) (s : State),
    s.Ok ∧ s.storeCtl.stalled = [] ∧ s.storeCtl.waiting = [] :=
  ⟨[3,4], (W [(R.STORE_STATUS_INIT_DONE,0)]), by unfold State.Ok; decide +kernel⟩

theorem wit_StoreController_2 : ∃ (granule : Nat) (s : State),
    s.Ok :=
  ⟨3, (W [] (fun c => {c with repairing := [3,4]}) fun m => {m with storeBad := [3*8192+5, 4]}),
    by unfold State.Ok; decide +kernel⟩

theorem wit_StoreController_3 : ∃ (e : Ecc) (word : Nat) (s : State),
    s.Ok :=
  ⟨.corrected, 0xE00000, (W [] (fun c => {c with patrolLine := 0x7000000/64})), by unfold State.Ok; decide +kernel⟩

theorem wit_StoreController_4 : ∃ (c : StoreCause) (s : State),
    s.Ok :=
  ⟨.training, (W [(R.BELAY_STATUS_LEAD,1)]), by unfold State.Ok; decide +kernel⟩

end Store

namespace Party

def R0 := Run []
def hv (fr : Nat) := pmsg 1 103 fr ([0,1,0,5,0,0,0,0] ++ List.replicate 16 0)
def cm (g fr : Nat) := pmsg 2 101 fr ([0,0] ++ beBytes 2 g ++ beBytes 2 0x4000 ++ List.replicate 10 0)
def ga (g : Nat) (d : List Byte) := pmsg 3 101 60000 (beBytes 2 g ++ [0,0] ++ List.replicate 12 0 ++ d ++ List.replicate (32 - d.length) 0)
def ac (v fr : Nat) := pmsg 4 101 60000 (beBytes 6 v ++ [0,0] ++ beBytes 6 fr ++ [0,0] ++ beBytes 6 ((fr+4)/60) ++ beBytes 4 (((fr+4) % 60) * 1000000000/60) ++ List.replicate 14 0)
def mp (f : MediaPacket → MediaPacket := id) : MediaPacket := f ⟨.a, .clean, 1000000000000, 0xEF010101, 6000, 1, 5, true, false, 0, true, 2, false, false, 0, false, 96, 5, (59998 * 1500) % 2^32, 1, []⟩
def tm : Timing := Timing.ofParty partySec
def rawp : List Byte := beBytes 2 0 ++ beBytes 2 9 ++ beBytes 2 1 ++ beBytes 2 4 ++ List.replicate 9 9
def ijxs : List Byte := secR 0x400 [(R.INGEST_ST_CFG_EN 0,1),(R.INGEST_ST_CFG_FORMAT 0,1),(R.INGEST_RECT_CFG_EN 0,1)]
def RJ : State := let s := R0; let w : StreamWin := ((({} : StreamWin).under (descBytes ijxs 0) 1).accept ⟨7, 59999, true, .a, 0, 0, false⟩).accept ⟨8, 60000, true, .a, 0, 0, false⟩ ; { s with ingest := { s.ingest with cur := some ijxs } }.setWin 0 w
def FX : FrameFigures := { frame := 60000, loaded := [5], figures := [], final := false, todo := [1,2] }
def bk : Bank := { slot := 0, gen := 5, pipe := [], cal := [], dith := [], gov := [], party := partySec, segW := 8, segH := 4, screeBase := some 0, lut := [], dir := [], areas := [], bad := [] }

theorem wit_PartyMessageChecks_1 : ∃ (c : Instr) (port : Port) (m : List Byte) (s : State),
    s.Ok ∧
    c ∈ [Instr.haveReceive port m, .commitReceive port m, .genAnnounceReceive port m, .activateReceive port m] :=
  ⟨(.haveReceive .a (hv 59996)), .a, (hv 59996), R0, ⟨by unfold State.Ok; decide +kernel, .head _⟩⟩

theorem wit_PartyMessageEffects_1 : ∃ (port : Port) (m : List Byte) (s : State),
    s.Ok :=
  ⟨.a, (hv 59996), { R0 with party := { R0.party with closes := [⟨59996, [], 0, true⟩], closed := [59996] } },
    by unfold State.Ok; decide +kernel⟩

theorem wit_PartyMessageEffects_2 : ∃ (port : Port) (m : List Byte) (s : State),
    s.Ok :=
  ⟨.a, (cm 5 60000), R0, by unfold State.Ok; decide +kernel⟩

theorem wit_PartyMessageEffects_3 : ∃ (port : Port) (m : List Byte) (s : State),
    s.Ok :=
  ⟨.a, (ga 6 [2]), R0, by unfold State.Ok; decide +kernel⟩

theorem wit_PartyMessageEffects_4 : ∃ (port : Port) (m : List Byte) (s : State),
    s.Ok :=
  ⟨.a, (ac 7 60060), R0, by unfold State.Ok; decide +kernel⟩

theorem wit_MediaPackets_1 : ∃ (p : MediaPacket) (s : State),
    s.inRun = false :=
  ⟨(mp), (Run [(R.PWR_STATE_STATE, 2)]), by decide +kernel⟩

theorem wit_MediaPackets_2 : ∃ (p : MediaPacket) (u : Timing) (f k which : Nat) (sec : List Byte) (s : State),
    s.Ok ∧ s.inRun = true ∧ s.portReceives p.port = true ∧ s.isFenced pINGEST noUnit = false ∧ s.timing = some u ∧
    s.placeFrame u p.time p.ts = some f ∧ s.secFor u.lPresent f = (some sec, which) ∧
    descOf sec p.port p.dst p.dport = some k ∧ p.ecc ≠ .uncorrectable ∧ (s.win k).epoch ≤ s.epochOf which k sec ∧
    headerCode sec k p ≠ 0 :=
  ⟨(mp fun p => {p with pt := 97}), tm, 59998, 0, 1, ingestSec, R0, by unfold State.Ok; decide +kernel⟩

theorem wit_MediaPackets_3 : ∃ (p : MediaPacket) (u : Timing) (f k which : Nat) (sec : List Byte) (s : State),
    s.Ok ∧ s.inRun = true ∧ s.portReceives p.port = true ∧ s.isFenced pINGEST noUnit = false ∧ s.timing = some u ∧
    s.placeFrame u p.time p.ts = some f ∧ s.secFor u.lPresent f = (some sec, which) ∧
    descOf sec p.port p.dst p.dport = some k ∧ p.ecc ≠ .uncorrectable ∧ (s.win k).epoch ≤ s.epochOf which k sec ∧
    headerCode sec k p = 0 ∧ u.p (f - u.lPresent) ≤ p.time + 100000 ∧ s.isClosed f = true :=
  ⟨(mp), tm, 59998, 0, 1, ingestSec, { R0 with ingest := { R0.ingest with closed := [⟨59998, true, 0⟩] } },
    by unfold State.Ok; decide +kernel⟩

theorem wit_MediaPackets_4 : ∃ (p : MediaPacket) (u : Timing) (f k which num : Nat) (w : StreamWin) (sec : List Byte) (s : State),
    s.Ok ∧ s.inRun = true ∧ s.portReceives p.port = true ∧ s.isFenced pINGEST noUnit = false ∧ s.timing = some u ∧
    s.placeFrame u p.time p.ts = some f ∧ s.secFor u.lPresent f = (some sec, which) ∧
    descOf sec p.port p.dst p.dport = some k ∧ p.ecc ≠ .uncorrectable ∧ (s.win k).epoch ≤ s.epochOf which k sec ∧
    headerCode sec k p = 0 ∧ u.p (f - u.lPresent) ≤ p.time + 100000 ∧ s.isClosed f = false ∧
    secFld sec (R.INGEST_ST_CFG_FORMAT k) = 0 ∧ rawOk sec k p.payload = true ∧
    w = (s.win k).under (descBytes sec k) (s.epochOf which k sec) ∧
    num = w.unwrap (beAt p.payload 0 2 * 65536 + p.seq) ∧ w.below num = false ∧ w.find num = none :=
  ⟨(mp fun p => {p with payload := rawp, ts := (60000 * 1500) % 2^32}), tm, 60000, 0, 1, (2^32 + 5),
    (({} : StreamWin).under (descBytes ingestSec 0) 1), ingestSec, R0, by unfold State.Ok; decide +kernel⟩

theorem wit_MediaPackets_5 : ∃ (p : MediaPacket) (u : Timing) (f k which : Nat) (sec : List Byte) (s : State),
    s.Ok ∧ s.inRun = true ∧ s.portReceives p.port = true ∧ s.isFenced pINGEST noUnit = false ∧ s.timing = some u ∧
    s.placeFrame u p.time p.ts = some f ∧ s.secFor u.lPresent f = (some sec, which) ∧
    descOf sec p.port p.dst p.dport = some k ∧ p.ecc = .uncorrectable ∧ (s.win k).epoch ≤ s.epochOf which k sec :=
  ⟨(mp fun p => {p with ecc := .uncorrectable}), tm, 59998, 0, 1, ingestSec, R0, by unfold State.Ok; decide +kernel⟩

theorem wit_DecoderAndGovernor_1 : ∃ (k f slice row rows last us : Nat) (h : Option JxsHeader) (e : Ecc) (r : SliceResult) (s : State),
    s.inRun = false :=
  ⟨0, 5, 0, 0, 1, 1, 1, none, .clean, .marker, (Run [(R.PWR_STATE_STATE, 2)]), by decide +kernel⟩

theorem wit_DecoderAndGovernor_2 : ∃ (k f slice row rows last us : Nat) (h : Option JxsHeader) (e : Ecc) (r : SliceResult) (u : Timing) (sec : List Byte) (a : Nat) (s : State),
    s.Ok ∧ s.inRun = true ∧ s.timing = some u ∧ (s.secFor u.lPresent f).1 = some sec ∧
    s.isFenced pXSDEC noUnit = false ∧ s.isClosed f = false ∧ f ∉ (s.win k).stopped ∧
    (s.win k).desc = descBytes sec k ∧ secFld sec (R.INGEST_ST_CFG_FORMAT k) = 1 ∧ (s.win k).first f = some a ∧
    (s.win k).covers f a ((s.win k).unwrap last) = true ∧ k ∈ usedStreams sec ∧ k < s.ingest.wins.length ∧
    e ≠ .uncorrectable ∧ sliceCode sec k h r ≠ 0 :=
  ⟨0, 60000, 2, 0, 1, 1, 1, none, .clean, .entropy, tm, ijxs, 8, RJ, by unfold State.Ok; decide +kernel⟩

theorem wit_DecoderAndGovernor_3 : ∃ (f : Nat) (s : State),
    s.inRun = false :=
  ⟨5, (Run [(R.PWR_STATE_STATE, 2)]), by decide +kernel⟩

theorem wit_DecoderAndGovernor_4 : ∃ (f : Nat) (x : FrameFigures) (s : State),
    s.Ok ∧ s.inRun = true ∧ s.isFenced pGOV noUnit = false ∧ s.gov.frames = [x] ∧ x.frame = f ∧ x.final = false ∧
    s.isClosed f = true :=
  ⟨60000, FX,
    { R0 with gov := { R0.gov with frames := [FX] }, storeCtl := { R0.storeCtl with bufs := [(3, 60000)] }, ingest := { R0.ingest with closed := [⟨60000, true, 0⟩] } },
    by unfold State.Ok; decide +kernel⟩

theorem wit_DecoderAndGovernor_5 : ∃ (n : Nat) (gens : List Nat) (s : State),
    s.Ok ∧ s.inRun = true ∧ s.isFenced pGOV noUnit = false ∧ s.storeCtl.unusable = false ∧
    s.gov.evaluating = some (n, gens) ∧ s.isClosed n = true :=
  ⟨60000, [5],
    { R0 with gov := { R0.gov with evaluating := some (60000, [5]) }, ingest := { R0.ingest with closed := [⟨60000, true, 0⟩] } },
    by unfold State.Ok; decide +kernel⟩

theorem wit_DecoderAndGovernor_6 : ∃ (n : Nat) (s : State),
    s.isClosed n = true ∧ s.gov.evaluating = none :=
  ⟨60000, { R0 with ingest := { R0.ingest with closed := [⟨60000, true, 0⟩] } }, by decide +kernel⟩

theorem wit_DecoderAndGovernor_7 : ∃ (n : Nat) (s : State),
    s.inRun = false :=
  ⟨5, (Run [(R.PWR_STATE_STATE, 2)]), by decide +kernel⟩

theorem wit_DecoderAndGovernor_8 : ∃ (b : Bank) (s : State),
    s.Ok ∧ s.inRun = true ∧ s.isFenced pGOV noUnit = false ∧ s.gov.surveyBank = some b ∧ s.gov.evaluating = none ∧
    s.storeCtl.unusable = false :=
  ⟨bk,
    { R0 with gov := { R0.gov with survey := some 0, surveyBank := some bk }, commit := { R0.commit with bank := some bk } },
    by unfold State.Ok; decide +kernel⟩

theorem wit_DecoderAndGovernor_9 : ∃ (s : State),
    s.gov.surveyBank = none :=
  ⟨R0, by decide +kernel⟩

theorem wit_DecoderAndGovernor_10 : ∃ (m : Master) (s : State),
    s.Ok ∧ m.holds rightLive = true ∧ s.fld R.GOV_SNAP_CTRL_REQ = 0 :=
  ⟨(.hart 0 false), (Run [(R.GOV_SNAP_CTRL_REQ, 0)]), by unfold State.Ok; decide +kernel⟩

theorem wit_HaveAndQuorum_1 : ∃ (n : Nat) (e : Ecc) (u : Timing) (s : State),
    s.Ok ∧ s.timing = some u ∧ s.isClosed n = false ∧ s.gridRuns = true :=
  ⟨59999, .clean, tm, R0, by unfold State.Ok; decide +kernel⟩

theorem wit_HaveAndQuorum_2 : ∃ (n : Nat) (e : Ecc) (u : Timing) (s : State),
    s.timing = some u ∧ s.isClosed n = true ∧ e ≠ .uncorrectable :=
  ⟨59999, .clean, tm, { R0 with ingest := { R0.ingest with closed := [⟨59999, true, 0⟩] } }, by decide +kernel⟩

theorem wit_HaveAndQuorum_3 : ∃ (n : Nat) (e : Ecc) (s : State),
    s.timing = none :=
  ⟨59999, .clean, (S []), by decide +kernel⟩

theorem wit_HaveAndQuorum_4 : ∃ (n : Nat) (u : Timing) (s : State),
    s.Ok ∧ s.timing = some u ∧ s.gridRuns = true ∧ s.isQuorumClosed n = false ∧ s.role ≠ roleNone ∧
    s.partyFenced = false ∧ ((∀ h ∈ s.party.haves, h.frame ≤ n)) :=
  ⟨59999, tm, R0, by unfold State.Ok; decide +kernel⟩

theorem wit_HaveAndQuorum_5 : ∃ (n : Nat) (u : Timing) (s : State),
    s.timing = some u ∧ s.gridRuns = true ∧
    ((s.role = roleNone ∨ (s.isQuorumClosed n = true ∧ ∀ h ∈ s.party.haves, h.frame ≤ n))) :=
  ⟨59999, tm, (Run [(R.PARTY_ROLE_ROLE, 0)]), by decide +kernel⟩

theorem wit_AnnounceAndStaging_1 : ∃ (m : Master) (s : State),
    s.Ok ∧ m.holds rightConfig = true ∧ s.role ≠ roleSummit :=
  ⟨.block, (Run [(R.PARTY_ROLE_ROLE, 0)]), by unfold State.Ok; decide +kernel⟩

theorem wit_AnnounceAndStaging_2 : ∃ (m : Master) (k : Nat) (s : State),
    s.Ok ∧ m.holds rightConfig = true ∧ s.role = roleSummit ∧
    ((List.range 4).find? (fun j => s.slotGen j = s.fld R.COMMIT_ANN_GEN_GEN && (s.slot j).sound && (s.slotState j = slotStaged || s.slotState j = slotReady)) = some k) ∧
    s.fld R.COMMIT_ANN_GEN_WITHDRAW = 0 ∧ ((s.readySlot = none ∨ s.readySlot = some k)) :=
  ⟨.block, 1, (Run [(R.COMMIT_ANN_GEN_GEN, 6),(R.COMMIT_ANN_GEN_WITHDRAW,0)]), by unfold State.Ok; decide +kernel⟩

theorem wit_AnnounceAndStaging_3 : ∃ (k a : Nat) (s : State),
    s.Ok ∧ s.storeCtl.selfRefresh = false ∧ s.storeCtl.unusable = false ∧ s.fld R.STORE_STATUS_INIT_DONE = 1 ∧
    s.commit.staging = some (k, a) ∧ k < 4 ∧ s.firstBad a (memLE s.mem.store (a + 8) 4) = none ∧
    s.commit.announce = none :=
  ⟨2, 0x1000,
    { Run [(R.STORE_STATUS_INIT_DONE, 1)] with commit := { R0.commit with staging := some (2, 0x1000) } },
    by unfold State.Ok; decide +kernel⟩

theorem wit_AnnounceAndStaging_4 : ∃ (s : State),
    (s.commit.staging = none ∨ s.storeCtl.selfRefresh = true ∨ s.storeCtl.unusable = true ∨ s.fld R.STORE_STATUS_INIT_DONE = 0) :=
  ⟨R0, by decide +kernel⟩

end Party

namespace Wake

def P (p : PwrS → PwrS := id) (l : List (Fld × Nat) := []) (g : State → State := id) : State := let s := Run ([(R.PWR_CFG_REST_EN,1),(R.PWR_RESULT_BUSY,0),(R.FLASH_CTRL_GO,0),(R.BELAY_STATUS_RESYNC_BUSY,0),(R.STORE_STATUS_INIT_DONE,1),(R.STORE_STATUS_WAKE_SCRUB,0),(R.COMMIT_STAGE_CTRL_GO,0),(R.COMMIT_ANN_CTRL_BUSY,0),(R.ANCHOR_STATUS_BUSY,0)] ++ l); g { s with pwr := p s.pwr, harts := s.harts.map fun h => {h with held := false, thresh := 0}, router := {mtime := 0} }
def st (n : Nat) : List (Fld × Nat) := [(R.PWR_STATE_STATE, n)]
def E (t k : Nat) : PwrS → PwrS := fun p => {p with target := some t, step := k}
def drv (s : State) : State := { s with pins := {s.pins with driving := [0,5,13,30], railEn := [1,2], railTrim := [3], leadLow := true, rstOutHigh := true, pps := true}, meter := {s.meter with running := true}}
def ldl : List (Fld × Nat) := [(R.BELAY_STATUS_LEAD,1)]
def sigs (s : State) : State := s.setFlds ((List.range 4).map fun b => (R.PWR_RETSIG_CRC b, 4058561182))
def nos (l : List (Fld × Nat)) : List (Fld × Nat) := [(R.PWR_STATE_CP_AWAKE,0),(R.PWR_WAKE_EN_EN,0)] ++ l
def rad : List (Fld × Nat) := [(R.PTP_STATE_STATE,0),(R.PG_FENCE_ACTIVE pSIDE,0),(R.SYS_RADIO_ACTIVE,1),(R.SIDEPHY_CFG_EN,1),(R.SIDE_CFG_EN,1),(R.SIDEPHY_CFG_MODE,0),(R.SIDE_CFG_NET_ID,9),(R.SIDE_CFG_ADDR,44),(R.SIDE_KEYSTAT_EXHAUSTED,0),(R.SIDE_KEYSTAT_LOADED,15)]
def keyed (s : State) : State := { s with side := {s.side with keys := List.replicate 4 (some (List.replicate 16 3))} }
def fr : SideFrame := ⟨9, 44, 70, 1, 33, 3, 12, 0, [], 200, 777⟩
def noCommit (s : State) : State := { s with commit := {s.commit with cur := none, slots := List.replicate 4 {}} }
def ndown (l : List Nat) (s : State) : State := { s with rst := {s.rst with down := l}}
def stg (s : State) : State := { s with commit := {s.commit with staging := some (2, 64)}}
def descStore : Bytes := memWrite [] 64 (sec 176 [(0,4,0x47454E31),(4,2,9),(6,1,1),(8,4,176),(12,2,1),(16,4,80),(20,4,96),(64,1,0xFF),(65,1,1),(68,4,80),(72,4,96),(76,4,1)])
def desc (s : State) : State := { s with mem := {s.mem with store := descStore}}

/-- The CRC of a bank of zeros. -/
theorem crc_zeros : crc32 (List.replicate 2048 0) = 4058561182 := by decide +kernel

/-- Banks of zeros under their signatures. -/
theorem bankCrcs (s : State) (hm : s.mem.ret = []) (hc : ∀ b ∈ List.range 4, s.fld (R.PWR_RETSIG_CRC b) = 4058561182) :
    ∀ b ∈ List.range 4, s.fld (R.PWR_RETSIG_CRC b) = crc32 (memRead s.mem.ret (2048 * b) 2048) := by
  intro b hb
  have h : ∀ b ∈ List.range 4, memRead [] (2048 * b) 2048 = List.replicate 2048 0 := by decide +kernel
  rw [hc b hb, hm, h b hb, crc_zeros]

theorem wit_PowerEntryAndReturn_1 : ∃ (s : State),
    s.Ok ∧ (s.pwr.target = none ∨ s.pwr.step < 2 ∨ s.pwr.stage ≠ 0) :=
  ⟨(P), by unfold State.Ok; decide +kernel⟩

theorem wit_PowerEntryAndReturn_2 : ∃ (target : Nat) (s : State),
    s.Ok ∧ target ∈ [2, 3, 4] ∧ s.pwr.target = some target ∧ s.pwr.stage = 0 ∧ s.power ≤ 1 ∧ 2 ≤ s.pwr.step ∧
    s.pwr.step < 9 :=
  ⟨2, (P (E 2 2) ldl drv), by unfold State.Ok; decide +kernel⟩

theorem wit_PowerEntryAndReturn_3 : ∃ (s : State),
    s.Ok ∧ s.pwr.target = some 2 ∧ s.pwr.stage = 0 ∧ s.power = 2 ∧ s.pwr.step = 2 :=
  ⟨(P (E 2 2) (st 2) drv), by unfold State.Ok; decide +kernel⟩

theorem wit_PowerEntryAndReturn_4 : ∃ (target : Nat) (s : State),
    s.Ok ∧ target ∈ [2, 3, 4] ∧ s.pwr.target = some target ∧ s.pwr.stage = 0 ∧ s.pwr.step = 9 :=
  ⟨2, (P (E 2 9) (st 0) drv), by unfold State.Ok; decide +kernel⟩

theorem wit_PowerEntryAndReturn_5 : ∃ (source : Nat) (s : State),
    s.Ok ∧ s.pwr.target = none ∧ source < 7 ∧ (¬ ((source = 0 ∨ source = 6) ∧ 2 ≤ s.power ∧ s.power ≤ 4)) ∧
    (¬ (source = 1 ∧ s.power = 3)) ∧ (¬ ((source = 2 ∨ source = 3) ∧ (s.power = 2 ∨ s.power = 3))) ∧
    (¬ ((source = 4 ∨ source = 5) ∧ s.power = 2)) :=
  ⟨1, (P id (st 2)), by unfold State.Ok; decide +kernel⟩

theorem wit_PowerEntryAndReturn_6 : ∃ (source : Nat) (s : State),
    s.Ok ∧ s.pwr.target = none ∧ (source = 0 ∨ source = 2 ∨ source = 3) ∧ (s.power = 2 ∨ s.power = 3) ∧
    s.bit R.PWR_WAKE_EN_EN source = false :=
  ⟨0, (P id (nos (st 2))), by unfold State.Ok; decide +kernel⟩

theorem wit_PowerEntryAndReturn_7 : ∃ (source : Nat) (s : State),
    s.Ok ∧ s.pwr.target = none ∧ s.pwr.stage = 0 ∧ s.pwr.resume = false ∧ s.power = 3 ∧
    ((source ≤ 3 ∧ s.bit R.PWR_WAKE_EN_EN source = true) ∨ source = 6) :=
  ⟨6, (P id (nos (st 3))), by unfold State.Ok; decide +kernel⟩

theorem wit_PowerEntryAndReturn_8 : ∃ (source : Nat) (s : State),
    s.Ok ∧ s.pwr.target = none ∧ s.pwr.stage = 0 ∧ s.pwr.resume = false ∧ s.power = 2 ∧ s.pwr.frame = none ∧
    ((source ∈ [0, 2, 3, 4, 5] ∧ s.bit R.PWR_WAKE_EN_EN source = true) ∨ source = 6) ∧
    s.fld R.PWR_STATE_CP_AWAKE = 0 ∧
    ((∀ b ∈ List.range 4, s.fld (R.PWR_RETSIG_CRC b) = crc32 (memRead s.mem.ret (2048 * b) 2048))) :=
  ⟨6, (P id (nos (st 2)) sigs),
    by unfold State.Ok; decide +kernel, by decide +kernel, by decide +kernel, by decide +kernel, by decide +kernel,
    by decide +kernel, by decide +kernel, by decide +kernel, bankCrcs _ (by decide +kernel) (by decide +kernel)⟩

theorem wit_PowerEntryAndReturn_9 : ∃ (b source : Nat) (s : State),
    s.Ok ∧ s.pwr.target = none ∧ s.pwr.stage = 0 ∧ s.pwr.resume = false ∧ s.power = 2 ∧ s.pwr.frame = none ∧ b < 3 ∧
    source = 6 ∧ s.fld R.PWR_STATE_CP_AWAKE = 0 :=
  ⟨1, 6, (P id (nos (st 2))), by unfold State.Ok; decide +kernel⟩

theorem wit_PowerEntryAndReturn_10 : ∃ (s : State),
    s.Ok ∧ s.power ≤ 1 ∧ s.pwr.target = some 3 ∧ s.pwr.stage = 0 ∧ s.pwr.step = 3 ∧ s.pwr.wasLead = false :=
  ⟨(P (E 3 3) (st 0)), by unfold State.Ok; decide +kernel⟩

theorem wit_PowerEntryAndReturn_11 : ∃ (s : State),
    s.Ok :=
  ⟨(P (E 3 3) (st 3)), by unfold State.Ok; decide +kernel⟩

theorem wit_PowerEntryAndReturn_12 : ∃ (f : SideFrame) (s : State),
    s.Ok ∧ s.power = 3 ∧ s.listenerOn = false :=
  ⟨fr, (P id (st 3)), by unfold State.Ok; decide +kernel⟩

theorem wit_PowerEntryAndReturn_13 : ∃ (f : SideFrame) (s : State),
    s.Ok ∧ s.power = 3 ∧ s.listenerOn = true ∧ f.payload = [] ∧ f.dst = 0xFFFF :=
  ⟨{fr with dst := 0xFFFF}, (P (fun p => {p with listening := true}) (st 3 ++ rad) keyed),
    by unfold State.Ok; decide +kernel⟩

theorem wit_PowerEntryAndReturn_14 : ∃ (f : SideFrame) (s : State),
    s.Ok ∧ s.power = 3 ∧ s.listenerOn = true ∧ f.payload = [] ∧ f.dst ≠ 0xFFFF ∧ s.sideFilter f = none ∧ f.key < 2 ∧
    s.rxCounter f.src f.key < f.fc ∧ f.fc < 2 ^ 32 ∧ s.pwr.target = none ∧ s.pwr.stage = 0 ∧ s.pwr.resume = false ∧
    s.bit R.PWR_WAKE_EN_EN 1 = true :=
  ⟨fr, (P (fun p => {p with listening := true}) (st 3 ++ rad ++ [(R.PWR_WAKE_EN_EN.nth 1, 1)]) keyed),
    by unfold State.Ok; decide +kernel⟩

theorem wit_PowerEntryAndReturn_15 : ∃ (f : SideFrame) (s : State),
    s.Ok ∧ s.power ≠ 3 ∧ s.radioOn = false :=
  ⟨fr, (P id (st 0 ++ [(R.SIDE_CFG_EN,0)])), by unfold State.Ok; decide +kernel⟩

theorem wit_PowerEntryAndReturn_16 : ∃ (f : SideFrame) (s : State),
    s.Ok ∧ s.power ≠ 3 ∧ s.radioOn = true ∧ f.payload = [] ∧ s.sideFilter f = none ∧
    s.rxCounter f.src f.key < f.fc ∧ f.fc < 2 ^ 32 :=
  ⟨fr, (P id (st 0 ++ rad) keyed), by unfold State.Ok; decide +kernel⟩

theorem wit_PowerEntryAndReturn_17 : ∃ (s : State),
    s.Ok ∧ ((∀ f ∈ s.fences, f.page ≠ pPWR)) :=
  ⟨(P), by unfold State.Ok; decide +kernel⟩

theorem wit_PowerEntryAndReturn_18 : ∃ (s : State),
    s.Ok :=
  ⟨(P), by unfold State.Ok; decide +kernel⟩

theorem wit_PowerEntryAndReturn_19 : ∃ (us : Nat) (recOk : Bool) (s : State),
    s.Ok ∧ s.pwr.stage = 1 ∧ s.pwr.retry = false :=
  ⟨700, true, (P (fun p => {p with stage := 1}) (st 3)), by unfold State.Ok; decide +kernel⟩

theorem wit_PowerEntryAndReturn_20 : ∃ (us : Nat) (recOk : Bool) (s : State),
    s.Ok ∧ s.pwr.stage = 2 :=
  ⟨700, true, (P (fun p => {p with stage := 2}) (st 2)), by unfold State.Ok; decide +kernel⟩

theorem wit_PowerEntryAndReturn_21 : ∃ (ms : Nat) (recOk : Bool) (s : State),
    s.Ok ∧ s.pwr.stage = 3 ∧ s.power ≤ 2 :=
  ⟨700, true, (P (fun p => {p with stage := 3}) (st 2)), by unfold State.Ok; decide +kernel⟩

theorem wit_PowerEntryAndReturn_22 : ∃ (ms : Nat) (recOk : Bool) (s : State),
    s.Ok ∧ s.pwr.stage = 3 ∧ s.power = 4 :=
  ⟨700, true, (P (fun p => {p with stage := 3}) (st 4) drv), by unfold State.Ok; decide +kernel⟩

theorem wit_PowerEntryAndReturn_23 : ∃ (ms : Nat) (recOk : Bool) (s : State),
    s.Ok ∧ s.pwr.stage = 3 ∧ s.power = 3 ∧
    ((∀ b ∈ List.range 4, s.fld (R.PWR_RETSIG_CRC b) = crc32 (memRead s.mem.ret (2048 * b) 2048))) :=
  ⟨700, true, (P (fun p => {p with stage := 3}) (st 3) (sigs ∘ drv)),
    by unfold State.Ok; decide +kernel, by decide +kernel, by decide +kernel,
    bankCrcs _ (by decide +kernel) (by decide +kernel)⟩

theorem wit_PowerEntryAndReturn_24 : ∃ (us : Nat) (recOk : Bool) (s : State),
    s.Ok ∧ s.pwr.stage = 4 ∧ s.power = 2 ∧ s.timing = none :=
  ⟨700, true, (P (fun p => {p with stage := 4}) (st 2) (noCommit ∘ drv)), by unfold State.Ok; decide +kernel⟩

theorem wit_PowerEntryAndReturn_25 : ∃ (us n : Nat) (recOk : Bool) (s : State),
    s.Ok ∧ s.pwr.stage = 4 ∧ s.power = 2 ∧ ((s.timing.map fun x => x.cur s.ptp.ns) = some n) :=
  ⟨700, 59996, true, (P (fun p => {p with stage := 4}) (st 2) drv), by unfold State.Ok; decide +kernel⟩

theorem wit_PowerEntryAndReturn_26 : ∃ (us : Nat) (recOk : Bool) (s : State),
    s.Ok ∧ s.pwr.stage = 4 ∧ (s.power = 3 ∨ s.power = 4) ∧ s.rst.down = [0x08, 0x20] :=
  ⟨700, true, (P (fun p => {p with stage := 4}) (st 3) (ndown [8,0x20] ∘ drv)), by unfold State.Ok; decide +kernel⟩

theorem wit_GenerationStaging_1 : ∃ (m : Master) (slot : Nat) (s : State),
    s.Ok ∧ m.holds rightConfig = true ∧ slot < 4 ∧ s.commit.staging ≠ none :=
  ⟨.block, 1, (P id [] stg), by unfold State.Ok; decide +kernel⟩

theorem wit_GenerationStaging_2 : ∃ (m : Master) (slot : Nat) (s : State),
    s.Ok ∧ m.holds rightConfig = true ∧ slot < 4 ∧ s.commit.staging = none ∧ s.fld R.BELAY_STATUS_RESYNC_BUSY = 1 ∧
    s.fld R.BELAY_STATUS_LEAD = 0 :=
  ⟨.block, 2, (P id [(R.BELAY_STATUS_RESYNC_BUSY,1),(R.BELAY_STATUS_LEAD,0)]), by unfold State.Ok; decide +kernel⟩

theorem wit_GenerationStaging_3 : ∃ (m : Master) (slot : Nat) (s : State),
    s.Ok ∧ m.holds rightConfig = true ∧ slot < 4 ∧ s.commit.staging = none ∧ s.fld R.BELAY_STATUS_RESYNC_BUSY = 0 ∧
    (s.slotState slot ≠ 0 ∧ s.slotState slot ≠ 4) :=
  ⟨.block, 0, (P id []), by unfold State.Ok; decide +kernel⟩

theorem wit_GenerationStaging_4 : ∃ (m : Master) (slot : Nat) (s : State),
    s.Ok ∧ m.holds rightConfig = true ∧ slot < 4 ∧ s.commit.staging = none ∧ s.fld R.BELAY_STATUS_RESYNC_BUSY = 0 ∧
    (s.slotState slot = 0 ∨ s.slotState slot = 4) ∧
    (s.slotHolding (s.genIdAt (64 * s.fld R.COMMIT_STAGE_ADDR_ADDR))).isSome = false ∧
    (s.fwBreach (64 * s.fld R.COMMIT_STAGE_ADDR_ADDR)).isSome = false :=
  ⟨.block, 2, (P id [(R.COMMIT_STAGE_ADDR_ADDR, 1)] desc), by unfold State.Ok; decide +kernel⟩

theorem wit_StagingRuns_1 : ∃ (m : Master) (slot : Nat) (s : State),
    s.Ok ∧ m.holds rightConfig = true ∧ slot < 4 ∧ s.commit.staging = none ∧
    ((s.fld R.BELAY_STATUS_RESYNC_BUSY = 0 ∨ s.fld R.BELAY_STATUS_LEAD = 1)) ∧
    ((s.slotState slot = slotEmpty ∨ s.slotState slot = slotRetired)) ∧
    s.slotHolding (s.genIdAt (64 * s.fld R.COMMIT_STAGE_ADDR_ADDR)) = none ∧
    s.fwBreach (64 * s.fld R.COMMIT_STAGE_ADDR_ADDR) = none :=
  ⟨.block, 2, (P id [(R.COMMIT_STAGE_ADDR_ADDR, 1)] desc), by unfold State.Ok; decide +kernel⟩

end Wake

namespace Frame

def C (f : CommitS → CommitS := id) (l : List (Fld × Nat) := []) : State := let s := Run l; { s with commit := f { s.commit with dueDone := some 59999 } }
def cm (st gen snd : Nat) (fr : Nat := 60000) : Commit := ⟨snd, fr, st, gen, 1234⟩
def rp (s : State) : State := { s with storeCtl := { s.storeCtl with repeatFrame := some 59990 } }
def T0 : Timing := (C).timing.getD ⟨1,1,1,1,1,1⟩
def fc0 (k : Nat) (src : Nat) (slot : Nat := 0) (torn : Option Nat := none) : FrameCase := ⟨60000, k, some slot, 777, src, none, torn, 60000, 5 + slot⟩

theorem wit_FrameCommitDue_1 : ∃ (n : Nat) (s : State),
    (s.timing = none ∨ s.gridRuns = false ∨ (s.commit.dueDone.any fun d => n ≤ d) = true ∨ (s.ptp.skipTo.any fun f => n < f) = true) :=
  ⟨60000, (N []), by decide +kernel⟩

theorem wit_FrameCommitDue_2 : ∃ (n : Nat) (t0 : Timing) (s : State),
    s.Ok ∧ s.timing = some t0 ∧ s.gridRuns = true ∧ ((s.commit.dueDone.any fun d => n ≤ d) = false) ∧
    ((s.ptp.skipTo.any fun f => n < f) = false) ∧ s.usedCommit n = none :=
  ⟨60000, T0, (C), by unfold State.Ok; decide +kernel⟩

theorem wit_FrameCommitDue_3 : ∃ (n : Nat) (t0 : Timing) (c : Commit) (s : State),
    s.Ok ∧ s.timing = some t0 ∧ s.gridRuns = true ∧ ((s.commit.dueDone.any fun d => n ≤ d) = false) ∧
    ((s.ptp.skipTo.any fun f => n < f) = false) ∧ s.usedCommit n = some c ∧ c.status ≤ 2 :=
  ⟨60000, T0, (cm 0 5 101), (C fun c => {c with held := [cm 0 5 102, cm 0 5 101]}),
    by unfold State.Ok; decide +kernel⟩

theorem wit_FrameCommitDue_4 : ∃ (n : Nat) (c : Commit) (s : State),
    s.usedCommit n = some c ∧ s.timing = none :=
  ⟨60000, (cm 0 5 101), {(N []) with commit := {(N []).commit with held := [cm 0 5 102, cm 0 5 101]}},
    by decide +kernel⟩

theorem wit_FrameBoundaryEffects_1 : ∃ (n : Nat) (s : State),
    (s.timing = none ∨ s.gridRuns = false) :=
  ⟨60000, (N []), by decide +kernel⟩

theorem wit_FrameBoundaryEffects_2 : ∃ (n k : Nat) (t0 : Timing) (c : FrameCase) (s : State),
    s.Ok ∧ s.timing = some t0 ∧ s.gridRuns = true ∧ s.pwr.resume = false ∧ s.inBivouac = false ∧
    s.belay.install = none ∧ s.ptp.step = none ∧ s.ptp.skipTo = none ∧ s.isAhead n = true ∧
    s.storeCtl.unusable = false ∧ s.inRun = true ∧ s.commit.cases = [c] ∧ c.frame = n ∧ c.source ≠ 3 ∧
    c.slot = some k ∧ k < 4 ∧ s.commit.cur ≠ none ∧ c.gain < 65536 ∧ c.kase < 8 ∧ s.commit.old = none :=
  ⟨60000, 0, T0, (fc0 0 0), (C fun c => {c with cases := [fc0 0 0]}), by unfold State.Ok; decide +kernel⟩

theorem wit_FrameBoundaryEffects_3 : ∃ (n : Nat) (t0 : Timing) (s : State),
    s.Ok ∧ s.timing = some t0 ∧ s.gridRuns = true ∧ s.pwr.resume = false ∧ s.inBivouac = false ∧
    s.belay.install = none ∧ s.ptp.step = none ∧ s.isAhead n = true ∧ s.commit.cases = [] ∧ s.usedCommit n = none :=
  ⟨60000, T0, (C), by unfold State.Ok; decide +kernel⟩

theorem wit_FrameBoundaryEffects_4 : ∃ (n : Nat) (t0 : Timing) (s : State),
    s.Ok ∧ s.timing = some t0 ∧ s.gridRuns = true ∧ s.pwr.resume = false ∧ s.ptp.step = none ∧ s.isAhead n = false :=
  ⟨60000, T0, (C fun c => {c with passed := some 60000}), by unfold State.Ok; decide +kernel⟩

theorem wit_FrameBoundaryEffects_5 : ∃ (n : Nat) (t0 : Timing) (d : Int) (s : State),
    s.Ok ∧ s.timing = some t0 ∧ s.gridRuns = true ∧ s.pwr.resume = false ∧ s.ptp.step = some d ∧ d < 0 :=
  ⟨60000, T0, (-100000), (let s := C; {s with ptp := {s.ptp with step := some (-100000)}}),
    by unfold State.Ok; decide +kernel⟩

theorem wit_FrameRolesAndBursts_1 : ∃ (s : State),
    (s.role ≠ roleListening ∨ s.fld R.PARTY_ROLE_LISTEN ≠ 0) :=
  ⟨(C), by decide +kernel⟩

theorem wit_FrameRolesAndBursts_2 : ∃ (s : State),
    s.Ok ∧ s.role = roleListening ∧ s.fld R.PARTY_ROLE_LISTEN = 0 :=
  ⟨(C id [(R.PARTY_ROLE_ROLE,roleListening),(R.PARTY_ROLE_LISTEN,0)]), by unfold State.Ok; decide +kernel⟩

theorem wit_FrameRolesAndBursts_3 : ∃ (s : State),
    s.commit.burst = none :=
  ⟨(C), by decide +kernel⟩

theorem wit_FrameRolesAndBursts_4 : ∃ (b : Burst) (s : State),
    s.Ok ∧ s.commit.burst = some b :=
  ⟨⟨60000, 5, 0, 1, 1, [5,7,3,9], [], 0, []⟩,
    (C fun c => {c with burst := some ⟨60000, 5, 0, 1, 1, [5,7,3,9], [], 0, []⟩}),
    by unfold State.Ok; decide +kernel⟩

end Frame

namespace Ptp

def an : PtpAnnounce := ⟨.a, 7, 3, 9, 128, 6, 0x20, 100, 128, 0⟩
def sy (two : Bool) : PtpSync := ⟨.a, 7, 3, 55, two, 1000, 20, 1500⟩
def B (l : List (Fld × Nat)) (f : PtpS → PtpS := id) : State := let s := N ([(R.PTP_CFG_DOMAIN, 3), (R.PTP_CFG_PORT_MODE, 0)] ++ l); { s with ptp := f { s.ptp with master := some an, d := 100 } }

theorem wit_PtpOffsetSamples_1 : ∃ (m : PtpSync) (s : State),
    s.Ok ∧ s.fromMaster m.port m.source m.domain = true ∧ m.twoStep = true :=
  ⟨(sy true), (B []), by unfold State.Ok; decide +kernel⟩

theorem wit_PtpOffsetSamples_2 : ∃ (m : PtpSync) (s : State),
    s.Ok ∧ s.fromMaster m.port m.source m.domain = true ∧ m.twoStep = false ∧ s.ptp.exchanged = false :=
  ⟨(sy false), (B []), by unfold State.Ok; decide +kernel⟩

theorem wit_PtpOffsetSamples_3 : ∃ (m : PtpSync) (s : State),
    s.Ok ∧ s.fromMaster m.port m.source m.domain = true ∧ m.twoStep = false ∧ s.ptp.exchanged = true :=
  ⟨(sy false), (B [] fun p => {p with exchanged := true}), by unfold State.Ok; decide +kernel⟩

theorem wit_PtpOffsetSamples_4 : ∃ (m : PtpSync) (s : State),
    s.fromMaster m.port m.source m.domain = false :=
  ⟨(sy true), (B [(R.PTP_CFG_DOMAIN, 4)]), by decide +kernel⟩

theorem wit_PtpOffsetSamples_5 : ∃ (m : PtpSync) (p : Port) (source seq t1 : Nat) (corr d : Int) (s : State),
    s.Ok ∧ s.ptp.awaiting = some m ∧ m.port = p ∧ m.source = source ∧ m.seq = seq ∧ s.ptp.awaitD = some d :=
  ⟨(sy true), .a, 7, 55, 900, 5, 77,
    (B [] fun p => {p with exchanged := true, awaiting := some (sy true), awaitD := some 77}),
    by unfold State.Ok; decide +kernel⟩

theorem wit_PtpOffsetSamples_6 : ∃ (m : PtpSync) (p : Port) (source seq t1 : Nat) (corr : Int) (s : State),
    s.ptp.awaiting = some m ∧ m.port = p ∧ m.source = source ∧ m.seq = seq ∧ s.ptp.awaitD = none :=
  ⟨(sy true), .a, 7, 55, 900, 5,
    (B [] fun p => {p with exchanged := true, awaiting := some (sy true), awaitD := none, delayReq := some ⟨9, 4000, none, true⟩}),
    by decide +kernel⟩

theorem wit_PtpOffsetSamples_7 : ∃ (m : PtpSync) (p : Port) (source seq t1 : Nat) (corr : Int) (s : State),
    s.ptp.awaiting = some m ∧ ((m.port ≠ p ∨ m.source ≠ source ∨ m.seq ≠ seq)) :=
  ⟨(sy true), .a, 7, 56, 900, 5,
    (B [] fun p => {p with exchanged := true, awaiting := some (sy true), awaitD := some 77}), by decide +kernel⟩

theorem wit_PtpServoLaw_1 : ∃ (m : PtpSync) (s : State),
    s.Ok ∧ s.fromMaster m.port m.source m.domain = true ∧ m.twoStep = false ∧ s.ptp.exchanged = true ∧
    ((m.t2 : Int) - m.t1 - m.corr - s.ptp.d).natAbs ≤ s.fld R.PTP_STEP_THRESH_NS :=
  ⟨(sy false),
    (B [(R.PTP_STEP_THRESH_NS, 100000), (R.PTP_SERVO_CTRL_EN, 1), (R.PTP_STATE_STATE, 2)] fun p => {p with exchanged := true}),
    by unfold State.Ok; decide +kernel⟩

theorem wit_PtpDelayAndGrandmaster_1 : ∃ (t3 : Nat) (m : PtpAnnounce) (s : State),
    s.ptp.master = some m :=
  ⟨4000, an, (B [] fun p => {p with lastSync := some (10,20,3)}), by decide +kernel⟩

theorem wit_PtpDelayAndGrandmaster_2 : ∃ (t3 : Nat) (s : State),
    s.ptp.master = none :=
  ⟨4000, (S []), by decide +kernel⟩

theorem wit_PtpDelayAndGrandmaster_3 : ∃ (p : Port) (source seq t4 : Nat) (corr log : Int) (q : DelayReq) (t1 t2 : Nat) (c1 : Int) (s : State),
    s.Ok ∧ s.ptp.delayReq = some q ∧ s.fromMaster p source (s.fld R.PTP_CFG_DOMAIN) = true ∧ q.seq = seq ∧
    q.pair = some (t1, t2, c1) :=
  ⟨.a, 7, 9, 8000, 2, 1, ⟨9, 4000, some (1000, 1500, 20), false⟩, 1000, 1500, 20,
    (B [] fun p => {p with delayReq := some ⟨9, 4000, some (1000, 1500, 20), false⟩}),
    by unfold State.Ok; decide +kernel⟩

theorem wit_PtpDelayAndGrandmaster_4 : ∃ (p : Port) (source seq t4 : Nat) (corr log : Int) (q : DelayReq) (s : State),
    s.ptp.delayReq = some q ∧ s.fromMaster p source (s.fld R.PTP_CFG_DOMAIN) = true ∧ q.seq = seq ∧ q.pair = none :=
  ⟨.a, 7, 9, 8000, 2, 1, ⟨9, 4000, none, true⟩, (B [] fun p => {p with delayReq := some ⟨9, 4000, none, true⟩}),
    by decide +kernel⟩

theorem wit_PtpDelayAndGrandmaster_5 : ∃ (p : Port) (source seq t4 : Nat) (corr log : Int) (s : State),
    ((∀ q ∈ s.ptp.delayReq, s.fromMaster p source (s.fld R.PTP_CFG_DOMAIN) = false ∨ q.seq ≠ seq)) :=
  ⟨.a, 7, 9, 8000, 2, 1, (B []), by decide +kernel⟩

theorem wit_PtpDelayAndGrandmaster_6 : ∃ (p : Port) (source seq t4 : Nat) (s : State),
    s.ptpState = ptpGrandmaster ∧ s.ptpListens p = true :=
  ⟨.a, 7, 9, 8000, (B [(R.PTP_STATE_STATE, 4)]), by decide +kernel⟩

theorem wit_PtpDelayAndGrandmaster_7 : ∃ (p : Port) (source seq t4 : Nat) (s : State),
    s.ptpState ≠ ptpGrandmaster :=
  ⟨.a, 7, 9, 8000, (B [(R.PTP_STATE_STATE, 3)]), by decide +kernel⟩

theorem wit_PtpDelayAndGrandmaster_8 : ∃ (announce : Bool) (s : State),
    s.ptpState = ptpGrandmaster :=
  ⟨true, (B [(R.PTP_STATE_STATE, 4)]), by decide +kernel⟩

theorem wit_PtpDelayAndGrandmaster_9 : ∃ (announce : Bool) (s : State),
    s.ptpState ≠ ptpGrandmaster :=
  ⟨false, (B [(R.PTP_STATE_STATE, 1), (R.PTP_CFG_PORT_MODE, 2)]), by decide +kernel⟩

theorem wit_PtpBestMaster_1 : ∃ (a : PtpAnnounce) (s : State),
    s.Ok ∧ s.ptpListens a.port = true ∧ a.domain = s.fld R.PTP_CFG_DOMAIN :=
  ⟨an, (B []), by unfold State.Ok; decide +kernel⟩

theorem wit_PtpBestMaster_2 : ∃ (a : PtpAnnounce) (s : State),
    s.ptpListens a.port = false :=
  ⟨an, (B [(R.PTP_CFG_PORT_MODE, 2)]), by decide +kernel⟩

theorem wit_PtpBestMaster_4 : ∃ (p : Port) (s : State),
    s.Ok ∧ ((∀ b ∈ s.ptp.foreign, b.port = p)) ∧ s.gmPermitted = true ∧
    ((p = .a ∨ s.ptpListens .a = false ∨ s.ptp.quietA = true)) ∧
    ((p = .b ∨ s.ptpListens .b = false ∨ s.ptp.quietB = true)) :=
  ⟨.a, (B [(R.PTP_CFG_GM_EN, 1),(R.PARTY_ROLE_ROLE, 2)] fun p => {p with foreign := [an], quietB := true}),
    by unfold State.Ok; decide +kernel⟩

theorem wit_PtpBestMaster_5 : ∃ (k : PtpRefused) (s : State),
    s.Ok :=
  ⟨.peerDelay, (B []), by unfold State.Ok; decide +kernel⟩

theorem wit_PtpHoldoverAndPps_1 : ∃ (s : State),
    s.Ok ∧ s.ptpState = ptpLocked :=
  ⟨(B [(R.PTP_STATE_STATE, 2),(R.PTP_SERVO_CTRL_EN, 1)]), by unfold State.Ok; decide +kernel⟩

theorem wit_PtpHoldoverAndPps_2 : ∃ (s : State),
    s.Ok ∧ s.ptpState = ptpAcquiring :=
  ⟨(B [(R.PTP_STATE_STATE, 1),(R.PTP_SERVO_CTRL_EN, 1)]), by unfold State.Ok; decide +kernel⟩

theorem wit_PtpHoldoverAndPps_3 : ∃ (s : State),
    s.ptpState ≠ ptpLocked ∧ s.ptpState ≠ ptpAcquiring :=
  ⟨(B [(R.PTP_STATE_STATE, 0)]), by decide +kernel⟩

theorem wit_PtpHoldoverAndPps_4 : ∃ (s : State),
    s.Ok ∧ s.ptpState = ptpHoldover :=
  ⟨(B [(R.PTP_STATE_STATE, 3)]), by unfold State.Ok; decide +kernel⟩

theorem wit_PtpHoldoverAndPps_5 : ∃ (s : State),
    s.ptpState ≠ ptpHoldover :=
  ⟨(B [(R.PTP_STATE_STATE, 2)]), by decide +kernel⟩

end Ptp

namespace Meter

def MM (l : List (Fld × Nat)) (f : MeterS → MeterS := id) : State := let s := N ([(R.METER_ACC_CFG_SAVE_PERIOD,60),(R.METER_AC_CFG_VEN,7),(R.METER_AC_CFG_IEN,15),(R.METER_AC_STATUS_FENCED,0),(R.METER_DC_CFG_EN,0xFFF),(R.METER_DC_STATUS_FENCED,0)] ++ l); { s with meter := f {s.meter with running := true} }

theorem wit_MeterWindowsAndSamples_1 : ∃ (p : Nat) (s : State),
    s.Ok ∧ p < 3 ∧ s.meter.running = true ∧ s.storeCtl.unusable = false ∧ 3200 ≤ s.meter.acN ∧
    s.meter.since < s.fld R.METER_ACC_CFG_SAVE_PERIOD * 16000 :=
  ⟨1,
    (MM [] fun m => {m with acN := 3200, dcN := 30, acSums := List.replicate 4 {sp := 5000000, svv := 10^18, sii := 10^16}}),
    by unfold State.Ok; decide +kernel⟩

theorem wit_MeterWindowsAndSamples_2 : ∃ (s : State),
    (s.meter.running = false ∨ s.storeCtl.unusable = false ∧ s.meter.acN < 3200) :=
  ⟨(S []), by decide +kernel⟩

theorem wit_MeterWindowsAndSamples_4 : ∃ (codes : List Int) (s : State),
    s.Ok :=
  ⟨[8388607, 5, 6, 7, 8, 9, 10], (MM []), by unfold State.Ok; decide +kernel⟩

theorem wit_MeterWindowsAndSamples_5 : ∃ (shunts : List Int) (rails : List Nat) (s : State),
    s.Ok :=
  ⟨[131071, 6, 7], [40000, 60000, 5], (MM []), by unfold State.Ok; decide +kernel⟩

theorem wit_MeterSavesAndStatements_1 : ∃ (run : SaveRun) (s : State),
    s.Ok ∧ s.meter.save = some run ∧ s.meter.pfRepeat = false ∧ s.meter.waiting = [] ∧ s.rst.waiting = none :=
  ⟨⟨1, 1, 77, List.replicate 1480 5⟩, (MM [] fun m => {m with save := some ⟨1, 1, 77, List.replicate 1480 5⟩}),
    by unfold State.Ok; decide +kernel⟩

theorem wit_MeterSavesAndStatements_2 : ∃ (run : SaveRun) (s : State),
    s.Ok ∧ s.meter.save = some run ∧ s.meter.pfRepeat = false ∧ s.meter.waiting = [] ∧ s.rst.waiting = none :=
  ⟨⟨1, 1, 77, List.replicate 1480 5⟩, (MM [] fun m => {m with save := some ⟨1, 1, 77, List.replicate 1480 5⟩}),
    by unfold State.Ok; decide +kernel⟩

theorem wit_MeterSavesAndStatements_3 : ∃ (ok : Bool) (s : State),
    s.meter.save = none :=
  ⟨true, (MM []), by decide +kernel⟩

theorem wit_MeterSavesAndStatements_4 : ∃ (m : Master) (s : State),
    s.Ok ∧ m.holds rightLive = true ∧ s.fld R.METER_ACC_STMT_CTRL_REQ = 0 :=
  ⟨.block, (MM [(R.METER_ACC_STMT_CTRL_REQ,0)] fun m => {m with acN := 5}), by unfold State.Ok; decide +kernel⟩

theorem wit_MeterSavesAndStatements_5 : ∃ (m : Master) (s : State),
    s.Ok ∧ m.holds rightLive = true ∧ s.fld R.METER_ACC_STMT_CTRL_REQ = 1 :=
  ⟨.block, (MM [(R.METER_ACC_STMT_CTRL_REQ,1)]), by unfold State.Ok; decide +kernel⟩

theorem wit_MeterSavesAndStatements_6 : ∃ (b : List Byte) (s : State),
    s.Ok ∧ s.meter.stmt = some b ∧ b.length = 512 :=
  ⟨((List.range 512).map fun i => BitVec.ofNat 8 (i*7)),
    (MM [] fun m => {m with stmt := some ((List.range 512).map fun i => BitVec.ofNat 8 (i*7))}),
    by unfold State.Ok; decide +kernel⟩

theorem wit_MeterSavesAndStatements_7 : ∃ (s : State),
    s.meter.stmt = none :=
  ⟨(MM []), by decide +kernel⟩

theorem wit_MeterSavesAndStatements_8 : ∃ (m : Master) (v : Word) (s : State),
    s.Ok ∧ m.holds rightSecure = true ∧ s.isArmed pMETERACC = true ∧ v.toNat % 2 = 1 :=
  ⟨.block, 1, (MM [(R.PG_LOCK_ARMED pMETERACC,1)]), by unfold State.Ok; decide +kernel⟩

theorem wit_MeterSavesAndStatements_9 : ∃ (m : Master) (v : Word) (s : State),
    s.Ok ∧ m.holds rightSecure = true ∧ (s.isArmed pMETERACC = false ∨ v.toNat % 2 = 0) :=
  ⟨.block, 1, (MM [(R.PG_LOCK_ARMED pMETERACC,0)]), by unfold State.Ok; decide +kernel⟩

theorem wit_MeterSavesAndStatements_10 : ∃ (ch : Nat) (s : State),
    s.Ok ∧ ch < 7 :=
  ⟨6, (MM []), by unfold State.Ok; decide +kernel⟩

theorem wit_MeterSavesAndStatements_11 : ∃ (k : Nat) (s : State),
    s.Ok ∧ k < 12 :=
  ⟨11, (MM []), by unfold State.Ok; decide +kernel⟩

theorem wit_MeterSavesAndStatements_12 : ∃ (k : Nat) (s : State),
    s.Ok ∧ k < 12 :=
  ⟨11, (MM []), by unfold State.Ok; decide +kernel⟩

end Meter

namespace Rail

def T (f : TelemS → TelemS) : State := let s := N []; { s with telem := f s.telem }
def L (l : List (Fld × Nat)) (f : RailS → RailS := id) (p : Pins → Pins := id) (r : Nat := 3): State := let s := N ([(R.PWR_STATE_STATE,0),(R.BELAY_STATUS_LEAD,1),(R.RAIL_CFG_FW_BUS,0),(R.RAIL_CTRL_IF 3,1),(R.RAIL_CTRL_MODE 3,2),(R.RAIL_GAIN_UV_PER_CODE 3,100),(R.TELEM_CFG_SRC_EN,15)] ++ l); { s with rails := s.rails.set r (f {}), pins := p s.pins }
def fe (s : State) (c : Nat) : State := { s with fences := [⟨pRAIL, 3, c⟩] }

theorem wit_TelemetryQueue_1 : ∃ (s : State),
    s.Ok :=
  ⟨(T fun t => {t with fill := [[1,2],[3]]}), by unfold State.Ok; decide +kernel⟩

theorem wit_TelemetryQueue_2 : ∃ (m : Master) (h : Nat) (e : Ecc) (s : State),
    m.holds rightRead = true ∧ s.telem.stalled = some h :=
  ⟨.block, 2, .clean, (T fun t => {t with stalled := some 2}), by decide +kernel⟩

theorem wit_TelemetryQueue_3 : ∃ (m : Master) (item : List Word) (rest : List (List Word)) (e : Ecc) (s : State),
    s.Ok ∧ m.holds rightRead = true ∧ s.telem.stalled = none ∧ s.telem.drain = item :: rest ∧ e ≠ .uncorrectable :=
  ⟨(.hart 1 false), [1,2], [[3]], .corrected, (T fun t => {t with drain := [[1,2],[3]]}),
    by unfold State.Ok; decide +kernel⟩

theorem wit_TelemetryQueue_4 : ∃ (m : Master) (item : List Word) (rest : List (List Word)) (s : State),
    s.Ok ∧ m.holds rightRead = true ∧ s.telem.stalled = none ∧ s.telem.drain = item :: rest ∧ s.telem.popped = 0 ∧
    rest ≠ [] :=
  ⟨(.hart 1 false), [1,2], [[3]], (T fun t => {t with drain := [[1,2],[3]]}), by unfold State.Ok; decide +kernel⟩

theorem wit_TelemetryQueue_5 : ∃ (h : Nat) (mmode : Bool) (e : Ecc) (s : State),
    s.Ok ∧ s.telem.stalled = none ∧ s.telem.drain = [] :=
  ⟨1, false, .clean, (T id), by unfold State.Ok; decide +kernel⟩

theorem wit_TelemetryQueue_6 : ∃ (m : Master) (n : Nat) (e : Ecc) (s : State),
    m ∈ [Master.lcp n, .hspi n, .block] ∧ m.holds rightRead = true ∧ s.telem.stalled = none ∧ s.telem.drain = [] :=
  ⟨(.lcp 1), 1, .clean, (T id), by decide +kernel⟩

theorem wit_TelemetryQueue_7 : ∃ (m : Master) (s : State),
    s.Ok ∧ m.holds rightLive = true :=
  ⟨.block, (T id), by unfold State.Ok; decide +kernel⟩

theorem wit_TelemetryQueue_8 : ∃ (m : Master) (s : State),
    s.Ok ∧ m.holds rightLive = true :=
  ⟨.block, (T id), by unfold State.Ok; decide +kernel⟩

theorem wit_TelemetryQueue_9 : ∃ (s : State),
    s.Ok :=
  ⟨(T id), by unfold State.Ok; decide +kernel⟩

theorem wit_RailStartAndRamp_1 : ∃ (r : Nat) (v : Option Nat) (ok : Bool) (s : State),
    ((s.rail r).stage ≠ 1 ∨ s.railsHeld = true ∨ s.railStuck r = true ∨ (s.ownsRail r = true ∧ s.railBus r = true ∧ s.pmbRuns r = false)) :=
  ⟨3, none, true, (L []), by decide +kernel⟩

theorem wit_RailStartAndRamp_2 : ∃ (r : Nat) (v : Option Nat) (ok : Bool) (s : State),
    s.Ok ∧ r < 12 ∧ (s.rail r).stage = 1 ∧ s.railsHeld = false ∧ s.railStuck r = false ∧
    (s.ownsRail r = false ∨ s.railBus r = false) :=
  ⟨3, none, true, (L [(R.RAIL_CTRL_IF 3,0)] fun r => {r with stage := 1}), by unfold State.Ok; decide +kernel⟩

theorem wit_RailStartAndRamp_3 : ∃ (r v : Nat) (ok : Bool) (s : State),
    s.Ok ∧ r < 12 ∧ (s.rail r).stage = 1 ∧ s.railsHeld = false ∧ s.railStuck r = false ∧ s.pmbRuns r = true :=
  ⟨3, 0x20, true, (L [] fun r => {r with stage := 1}), by unfold State.Ok; decide +kernel⟩

theorem wit_RailStartAndRamp_4 : ∃ (r : Nat) (ok : Bool) (s : State),
    s.Ok ∧ r < 12 ∧ (s.rail r).stage = 1 ∧ s.railsHeld = false ∧ s.railStuck r = false ∧ s.pmbRuns r = true :=
  ⟨3, false, (L [] fun r => {r with stage := 1, refused := 2}), by unfold State.Ok; decide +kernel⟩

theorem wit_RailStartAndRamp_5 : ∃ (r : Nat) (s : State),
    s.Ok ∧ r < 12 :=
  ⟨3, (L [] fun r => {r with stage := 2}), by unfold State.Ok; decide +kernel⟩

theorem wit_RailStartAndRamp_6 : ∃ (r : Nat) (s : State),
    s.Ok ∧ r < 12 :=
  ⟨3,
    (L [(R.RAIL_OUT_OUTPUT 3, 700),(R.RAIL_OUT_TARGET 3, 600),(R.RAIL_RAMP_RAMP 3, 5)] fun r => {r with stage := 3}),
    by unfold State.Ok; decide +kernel⟩

theorem wit_RailStartAndRamp_7 : ∃ (r : Nat) (again restart : Bool) (s : State),
    s.Ok ∧ r < 12 ∧ (s.rail r).stopping = some again :=
  ⟨3, true, true, (L [] fun r => {r with stopping := some true, stage := 4}), by unfold State.Ok; decide +kernel⟩

theorem wit_RailStartAndRamp_8 : ∃ (r : Nat) (restart : Bool) (s : State),
    (s.rail r).stopping = none :=
  ⟨3, false, (L []), by decide +kernel⟩

theorem wit_RailPmbus_1 : ∃ (r : Nat) (ok : Bool) (s : State),
    s.Ok ∧ r < 12 :=
  ⟨3, true, (L [] fun r => {r with stage := 2}), by unfold State.Ok; decide +kernel⟩

theorem wit_RailPmbus_2 : ∃ (r w v : Nat) (s : State),
    s.Ok ∧ r < 12 ∧ s.pmbRuns r = true :=
  ⟨3, 0x20, 77, (L [] id fun p => {p with railEn := [3]}), by unfold State.Ok; decide +kernel⟩

theorem wit_RailPmbus_3 : ∃ (r : Nat) (status vout : Option Nat) (e : Ecc) (s : State),
    s.pmbRuns r = false :=
  ⟨3, none, none, .clean, (L [(R.RAIL_CTRL_IF 3,0)]), by decide +kernel⟩

theorem wit_RailPmbus_4 : ∃ (r w : Nat) (e : Ecc) (s : State),
    s.Ok ∧ r < 12 :=
  ⟨3, 0x10, .clean, (L [] id fun p => {p with railEn := [3]}), by unfold State.Ok; decide +kernel⟩

theorem wit_RailPmbus_5 : ∃ (m : Master) (v : Bool) (s : State),
    s.Ok ∧ m.holds rightConfig = true :=
  ⟨.block, true, (L []), by unfold State.Ok; decide +kernel⟩

theorem wit_RailLoopAndFaults_1 : ∃ (r : Nat) (e : Ecc) (s : State),
    s.Ok ∧ r < 12 :=
  ⟨3, .clean,
    (L [(R.RAIL_HEAD_TARGET_MV 3, 500),(R.RAIL_LOOP_DEADBAND_MV 3, 5),(R.RAIL_OUT_TARGET 3, 400)] fun r => {r with stage := 4, reports := 3, hmin := 450}),
    by unfold State.Ok; decide +kernel⟩

theorem wit_RailLoopAndFaults_2 : ∃ (r : Nat) (s : State),
    s.Ok ∧ r < 12 :=
  ⟨3, (L [(R.RAIL_CTRL_IF 3,0)] id fun p => {p with railTrim := [3]}), by unfold State.Ok; decide +kernel⟩

theorem wit_RailLoopAndFaults_3 : ∃ (r : Nat) (s : State),
    s.Ok ∧ r < 12 :=
  ⟨3, (fe (L [] fun r => {r with holding := true, stage := 4}) 0x100), by unfold State.Ok; decide +kernel⟩

theorem wit_PmbusFaultFence_1 : ∃ (r w : Nat) (vout : Option Nat) (e : Ecc) (s : State),
    s.Ok ∧ r < 12 ∧ s.pmbRuns r = true ∧ r ∈ s.pins.railEn ∧
    (bitSet w 5 = true ∨ bitSet w 4 = true ∨ bitSet w 2 = true) :=
  ⟨3, 0x20, (some 77), .clean, (L [] id fun p => {p with railEn := [3]}), by unfold State.Ok; decide +kernel⟩

theorem wit_PmbusFaultFence_2 : ∃ (r w : Nat) (e : Ecc) (s : State),
    s.Ok ∧ r < 12 ∧ s.pmbRuns r = true ∧ r ∈ s.pins.railEn ∧
    (bitSet w 5 = true ∨ bitSet w 4 = true ∨ bitSet w 2 = true) :=
  ⟨3, 0x04, .uncorrectable, (L [] id fun p => {p with railEn := [3]}), by unfold State.Ok; decide +kernel⟩

end Rail

namespace Strand

def cmd0 : StrandCmd := ⟨3, 0, 2, 0, false⟩
def st (f : StrandS → StrandS) (l : List (Fld × Nat) := []) (k : Nat := 15) (lead : Nat := 1): State := let s := Run ([(R.STR_CFG_EN 1, 0xFFF),(R.BELAY_STATUS_LEAD,lead),(R.STR_RING_LEN 1,0),(R.STR_CHAIN_DRIVERS 1 3, 4),(R.STR_CHAIN_BLOCKS 1 3, 2),(R.STR_FRAMEHDR_SCAN 1, 3),(R.PRESENT_SKEW_LEAD 15, 40)] ++ l); { s with strands := s.strands.set k (f (s.strand k)), pins := {s.pins with driving := [k, 3]}, mem := {s.mem with store := memWrite [] (s.shareAddr k) [2,0,1,0]}, commit := {s.commit with slotFrame := some 60000}}
def act (x : StrandS) : StrandS := { x with slot := some 60000, mine := true }
def rep (pos : Nat) : StrandReport := let d : List Byte := [5,0,1,0,2,0,3,4,5,6,7]; ⟨pos, 3, 0, d, false, crc16 (bytesBits ([BitVec.ofNat 8 pos, 3, 0] ++ d))⟩
def win (x : StrandS) : StrandS := { act x with framed := true, cmd := some cmd0, window := true }
def secS : State := let s := st id; let b : List Byte := [0,0,0xFF,0]; { s with mem := { s.mem with store := memWrite (memWrite [] 12 [1, 0]) 64 ([BitVec.ofNat 8 (pSTR 1), 1, 0, 0] ++ leBytes 4 80 ++ leBytes 4 4 ++ leBytes 4 (crc32 b) ++ b) }, commit := { s.commit with slots := [slot0, { slot1 with addr := 0 }, {}, {}], cases := [⟨60001, 0, some 1, 777, 0, none, none, 60001, 6⟩] } }

theorem wit_StrandSlots_1 : ∃ (k n : Nat) (t0 : Timing) (s : State),
    s.Ok ∧ k < 48 ∧ s.timing = some t0 ∧ s.slotEn k n = true ∧ s.portReady k = true ∧ (s.strand k).slot ≠ some n :=
  ⟨15, 60000, ((st id).timing.getD ⟨1,1,1,1,1,1⟩), (st id), by unfold State.Ok; decide +kernel⟩

theorem wit_StrandSlots_2 : ∃ (k n : Nat) (t0 : Timing) (s : State),
    s.timing = some t0 ∧ (s.slotEn k n = false ∨ s.portReady k = false ∨ (s.strand k).slot = some n) :=
  ⟨14, 60001, ((st id).timing.getD ⟨1,1,1,1,1,1⟩), (st id [(R.STR_CFG_EN 1, 0)]), by decide +kernel⟩

theorem wit_StrandSlots_3 : ∃ (k n j : Nat) (b : List Byte) (s : State),
    k < 48 ∧ s.isAhead n = true ∧ s.caseSlot n = some j ∧ some j ≠ s.commit.cur ∧
    (s.secRead (s.slot j).addr (pSTR (k / 12)) 1).bytes? = some b :=
  ⟨15, 60001, 1, [0,0,0xFF,0], secS, by decide +kernel⟩

theorem wit_StrandSlots_4 : ∃ (k n : Nat) (s : State),
    s.isAhead n = false :=
  ⟨15, 60000, (let s := st id; {s with commit := {s.commit with passed := some 60000}}), by decide +kernel⟩

theorem wit_StrandSlots_5 : ∃ (k n : Nat) (s : State),
    s.timing = none :=
  ⟨14, 60001, (N []), by decide +kernel⟩

theorem wit_StrandSlots_6 : ∃ (k : Nat) (s : State),
    s.Ok :=
  ⟨15, (st id), by unfold State.Ok; decide +kernel⟩

theorem wit_StrandPackets_1 : ∃ (k n : Nat) (s : State),
    s.Ok ∧ k < 48 ∧ (s.strand k).slot = some n ∧ s.maySend k = true ∧ (s.strand k).idleOnly = false ∧
    (s.strand k).framed = false ∧ s.payloadInvalid k n = false ∧
    s.storeRangeBad (s.shareAddr k) (2 * (s.shares k).length) = false ∧
    s.firstBad (s.payloadAddr k n) (2 * (s.shares k).sum) = none :=
  ⟨15, 60000, (st act), by unfold State.Ok; decide +kernel⟩

theorem wit_StrandPackets_2 : ∃ (k n : Nat) (s : State),
    s.Ok ∧ k < 48 ∧ (s.strand k).slot = some n ∧ s.maySend k = true ∧ (s.strand k).idleOnly = false ∧
    (s.strand k).framed = false ∧ s.payloadInvalid k n = false ∧
    ((s.storeRangeBad (s.shareAddr k) (2 * (s.shares k).length) = true ∨ (s.firstBad (s.payloadAddr k n) (2 * (s.shares k).sum)).isSome = true)) :=
  ⟨15, 60000, (let s := st act; {s with mem := {s.mem with storeBad := [(s.shareAddr 15)/8]}}),
    by unfold State.Ok; decide +kernel⟩

theorem wit_StrandPackets_3 : ∃ (k n : Nat) (s : State),
    s.Ok ∧ (s.strand k).slot = some n ∧ s.maySend k = true ∧ (s.strand k).idleOnly = false ∧
    (s.strand k).framed = false ∧ s.payloadInvalid k n = true :=
  ⟨15, 60000, (let s := st act; {s with commit := {s.commit with payload := [(60000,[1])]}}),
    by unfold State.Ok; decide +kernel⟩

theorem wit_StrandPackets_4 : ∃ (k n : Nat) (c : StrandCmd) (s : State),
    s.Ok ∧ (s.strand k).slot = some n ∧ s.maySend k = true ∧ (s.strand k).idleOnly = false ∧
    (s.strand k).framed = true ∧ (s.strand k).commanded = false ∧ (s.strand k).presented = false ∧
    s.slotCommand k n = some c :=
  ⟨15, 60000, ⟨3,0,60000 % 5,0,false⟩, (st fun x => {act x with framed := true}),
    by unfold State.Ok; decide +kernel⟩

theorem wit_StrandPackets_5 : ∃ (k n : Nat) (c : StrandCmd) (s : State),
    (s.strand k).slot = some n ∧ (s.strand k).mine = false ∧ (s.strand k).idleOnly = false ∧
    (s.strand k).aborted = false ∧ (s.strand k).commanded = false ∧ (s.strand k).presented = false ∧
    s.slotCommand k n = some c :=
  ⟨15, 60000, ⟨3,0,60000 % 5,0,false⟩, (st fun x => {act x with mine := false}), by decide +kernel⟩

theorem wit_StrandPackets_6 : ∃ (k : Nat) (s : State),
    ((s.strand k).commanded = true ∨ (s.strand k).presented = true) :=
  ⟨15, (st fun x => {act x with commanded := true}), by decide +kernel⟩

theorem wit_StrandPackets_7 : ∃ (k n : Nat) (s : State),
    (s.strand k).slot = some n ∧ s.maySend k = true ∧ (s.strand k).idleOnly = false ∧ (s.strand k).framed = true ∧
    s.fld (R.STR_RING_LEN (k / 12)) = 0 ∧ s.fld (R.STR_CHAIN_DRIVERS (k / 12) (k % 12)) < 256 :=
  ⟨15, 60000, (st fun x => {act x with framed := true}), by decide +kernel⟩

theorem wit_StrandPackets_9 : ∃ (k n : Nat) (s : State),
    s.Ok ∧ k < 48 ∧ (s.strand k).slot = some n ∧ s.maySend k = true ∧ (s.strand k).idleOnly = false ∧
    (s.strand k).framed = true ∧ (s.strand k).presented = false :=
  ⟨15, 60000, (st fun x => {act x with framed := true}), by unfold State.Ok; decide +kernel⟩

theorem wit_StrandPackets_10 : ∃ (k : Nat) (s : State),
    (s.maySend k = false ∨ (s.strand k).presented = true) :=
  ⟨15, (st id), by decide +kernel⟩

theorem wit_StrandReturns_1 : ∃ (k : Nat) (r : StrandReport) (e : Ecc) (s : State),
    ((s.strand k).window = false ∨ (s.strand k).cmd = none) :=
  ⟨15, (rep 2), .clean, (st act), by decide +kernel⟩

theorem wit_StrandReturns_2 : ∃ (k : Nat) (c : StrandCmd) (r : StrandReport) (e : Ecc) (s : State),
    s.Ok ∧ k < 48 ∧ (s.strand k).window = true ∧ (s.strand k).cmd = some c ∧ r.code c ≠ 0 :=
  ⟨15, cmd0, (rep 3), .clean, (st win), by unfold State.Ok; decide +kernel⟩

theorem wit_StrandReturns_3 : ∃ (k : Nat) (c : StrandCmd) (r : StrandReport) (e : Ecc) (s : State),
    (s.strand k).window = true ∧ (s.strand k).cmd = some c :=
  ⟨15, cmd0, (rep 3), .clean, (st win), by decide +kernel⟩

theorem wit_StrandReturns_4 : ∃ (k : Nat) (c : StrandCmd) (r : StrandReport) (e : Ecc) (s : State),
    s.Ok ∧ k < 48 ∧ (s.strand k).window = true ∧ (s.strand k).cmd = some c ∧ r.code c = 0 ∧ r.kind = 3 :=
  ⟨15, cmd0, (rep 2), .clean, (st win), by unfold State.Ok; decide +kernel⟩

theorem wit_StrandReturns_5 : ∃ (k : Nat) (s : State),
    s.Ok ∧ k < 48 :=
  ⟨15, (st win), by unfold State.Ok; decide +kernel⟩

theorem wit_StrandFaults_1 : ∃ (k a n : Nat) (s : State),
    s.Ok ∧ k < 48 ∧ (s.strand k).slot = some n ∧ s.maySend k = true ∧ (s.strand k).idleOnly = false :=
  ⟨15, 0x34000100, 60000, (st act), by unfold State.Ok; decide +kernel⟩

theorem wit_StrandFaults_2 : ∃ (k a : Nat) (s : State),
    s.maySend k = false :=
  ⟨15, 0x34000100, (st id), by decide +kernel⟩

theorem wit_StrandFaults_3 : ∃ (k : Nat) (s : State),
    s.Ok ∧ k < 48 :=
  ⟨15, (st act), by unfold State.Ok; decide +kernel⟩

theorem wit_StrandFaults_4 : ∃ (g k mv : Nat) (s : State),
    s.Ok ∧ g < 4 ∧ k < 12 :=
  ⟨1, 3, 2500, (st act), by unfold State.Ok; decide +kernel⟩

theorem wit_StrandFaults_5 : ∃ (g : Nat) (b : Burst) (s : State),
    s.Ok ∧ g < 4 ∧ s.commit.burst = some b ∧ g ∉ b.stopped :=
  ⟨2, ⟨60000, 5, 0, 1, 1, [0,0,0,0], [1], 0, []⟩,
    (let s := st id; {s with commit := {s.commit with burst := some ⟨60000, 5, 0, 1, 1, [0,0,0,0], [1], 0, []⟩, payload := [(60000,[1])]}}),
    by unfold State.Ok; decide +kernel⟩

theorem wit_StrandFaults_6 : ∃ (g : Nat) (s : State),
    (s.commit.burst = none ∨ 4 ≤ g ∨ (s.commit.burst.any fun b => b.stopped.contains g) = true) :=
  ⟨2, (st id), by decide +kernel⟩

end Strand

namespace Reset

def Q (l : List (Fld × Nat)) (f : State → State := id) : State := f (Run ([(R.PWR_CFG_REST_EN,1),(R.PWR_RESULT_BUSY,0),(R.FLASH_CTRL_GO,0),(R.BELAY_STATUS_RESYNC_BUSY,0),(R.STORE_STATUS_INIT_DONE,1),(R.STORE_STATUS_WAKE_SCRUB,0),(R.ANCHOR_STATUS_BUSY,0),(R.PARTY_ACT_STAT_ARMED,0),(R.RST_REQ_STAT_PENDING,0)] ++ l))
def ph (p : ResetPhase) (s : State) : State := { s with rst := { s.rst with phase := p } }
def arm : List (Fld × Nat) := [(R.PG_LOCK_ARMED pRST,1)]
def mrun (s : State) : State := { s with meter := { s.meter with running := true } }
def lvl (n : Nat) (s : State) : State := { s with anchor := { s.anchor with level := n } }
def undrive (s : State) : State := { s with pins := {s.pins with resetDriven := false }}
def kickd (s : State) : State := { s with wdt := {s.wdt with armed := true}}
def cexp (s : State) : State := { s with harts := s.harts.map fun h => {h with wdtExpired := true}}
def ended (s : State) : State := { s with rst := {s.rst with driveEnded := true}}
def dn (s : State) : State := { s with rst := {s.rst with down := [0x06,0x08,0x10,0x14]}}
def noisy (s : State) : State := { s with mem := { s.mem with sram := [(4,1#8)], ret := [(3,5#8),(40,1#8)], store := [(9,9#8)] }, strands := s.strands.drop 1 ++ [{}] }
def on (s : State) : State := { s with pins := {s.pins with v3p3 := true, v1p8 := true}}
def blk (l : List (Nat × Nat × Bool)) (s : State) : State := { s with rst := {s.rst with block := l, down := l.map (·.1)}}
def fen (p : Nat) (s : State) : State := { s with fences := [⟨p, noUnit, 0x100⟩]}
def lead (s : State) : State := { s with pins := {s.pins with driving := [0,5,13,30]}}
def owed (s : State) : State := { s with anchor := {s.anchor with owed := true}}

theorem wit_ResetSources_1 : ∃ (m : Master) (v : Word) (s : State),
    s.Ok ∧ m.holds rightReset = true ∧ s.isArmed pRST = false :=
  ⟨.block, 0xA0120000#32, (Q []), by unfold State.Ok; decide +kernel⟩

theorem wit_ResetSources_2 : ∃ (m : Master) (v : Word) (s : State),
    s.Ok ∧ m.holds rightReset = true ∧ s.isArmed pRST = true ∧ v.getLsbD 31 = true ∧
    ((v.toNat / 2 ^ 28 % 4 = 1 ∧ v.toNat / 2 ^ 16 % 256 ∉ [0x12, 0x13, 0x16]) ∨ (v.toNat / 2 ^ 28 % 4 = 2 ∧ v.toNat / 2 ^ 16 % 256 ∉ [0x20, 0x21])) :=
  ⟨.block, 0x90200000#32, (Q arm), by unfold State.Ok; decide +kernel⟩

theorem wit_ResetSources_3 : ∃ (m : Master) (v : Word) (s : State),
    s.Ok ∧ m.holds rightReset = true ∧ s.isArmed pRST = true ∧
    (v.getLsbD 31 = false ∨ v.toNat / 2 ^ 28 % 4 = 0 ∨ v.toNat / 2 ^ 28 % 4 = 3) :=
  ⟨.block, 0xC0120000#32, (Q (arm ++ [(R.RST_REQ_STAT_PENDING,1)])), by unfold State.Ok; decide +kernel⟩

theorem wit_ResetSources_4 : ∃ (m : Master) (v : Word) (s : State),
    s.Ok ∧ m.holds rightReset = true ∧ s.isArmed pRST = true ∧ v.getLsbD 31 = true ∧
    ((v.toNat / 2 ^ 28 % 4 = 1 ∧ v.toNat / 2 ^ 16 % 256 ∈ [0x12, 0x13, 0x16]) ∨ (v.toNat / 2 ^ 28 % 4 = 2 ∧ v.toNat / 2 ^ 16 % 256 ∈ [0x20, 0x21])) :=
  ⟨.block, 0x90120A05#32, (Q arm), by unfold State.Ok; decide +kernel⟩

theorem wit_ResetSources_5 : ∃ (s : State),
    s.Ok ∧ s.fld R.RST_REQ_STAT_PENDING = 0 :=
  ⟨(Q []), by unfold State.Ok; decide +kernel⟩

theorem wit_ResetSources_6 : ∃ (s : State),
    s.Ok ∧ s.fld R.RST_REQ_STAT_PENDING = 1 ∧ s.fld R.RST_REQ_STAT_SCOPE = 2 ∧ s.rst.waiting = none ∧
    s.rst.pfFlush = false ∧ s.pwr.target = none :=
  ⟨(Q [(R.RST_REQ_STAT_PENDING,1),(R.RST_REQ_STAT_SCOPE,2)] noisy), by unfold State.Ok; decide +kernel⟩

theorem wit_ResetSources_7 : ∃ (s : State),
    s.Ok ∧ s.fld R.RST_REQ_STAT_PENDING = 1 ∧ s.fld R.RST_REQ_STAT_SCOPE = 1 ∧ s.rst.waiting = none ∧
    (s.rst.phase = .none ∨ s.rst.phase = .warm) :=
  ⟨(Q [(R.RST_REQ_STAT_PENDING,1),(R.RST_REQ_STAT_SCOPE,1)] noisy), by unfold State.Ok; decide +kernel⟩

theorem wit_ResetSources_8 : ∃ (s : State),
    s.Ok :=
  ⟨(Q [] noisy), by unfold State.Ok; decide +kernel⟩

theorem wit_ResetSources_9 : ∃ (s : State),
    s.Ok :=
  ⟨(Q [(R.WDT_SYS_CFG_EN,1)] noisy), by unfold State.Ok; decide +kernel⟩

theorem wit_ResetSources_10 : ∃ (s : State),
    s.Ok :=
  ⟨(Q [(R.WDT_SYS_CFG_EN,1)]), by unfold State.Ok; decide +kernel⟩

theorem wit_ResetSources_11 : ∃ (m : Master) (v : Word) (s : State),
    s.Ok ∧ m.holds rightSecure = true :=
  ⟨.block, 0xA5F0#32, (Q []), by unfold State.Ok; decide +kernel⟩

theorem wit_ResetSources_12 : ∃ (h : Nat) (mmode : Bool) (v : Word) (s : State),
    s.Ok ∧ h < 8 ∧ (Master.hart h mmode).holds rightSecure = true :=
  ⟨3, true, 0x4B03#32, (Q [] cexp), by unfold State.Ok; decide +kernel⟩

theorem wit_ResetSources_13 : ∃ (r : Nat) (w : Word) (s : State),
    s.Ok ∧ (Master.lcp r).holds rightSecure = true :=
  ⟨255, 0x4B00#32, (Q [] cexp), by unfold State.Ok; decide +kernel⟩

theorem wit_ResetSources_14 : ∃ (h : Nat) (s : State),
    s.Ok ∧ h < 8 ∧ s.fld (R.WDT_CORE_CFG_EN.nth h) = 1 ∧
    (s.power ≤ 1 ∨ (s.power = 2 ∧ s.fld R.PWR_STATE_CP_AWAKE = 1)) ∧ s.rst.phase = .none ∧
    ((s.hart h).wdtExpired = false ∨ s.fld R.WDT_CORE_CFG_ACTION = 0) :=
  ⟨3, (Q [(R.WDT_CORE_CFG_EN.nth 3,1)]), by unfold State.Ok; decide +kernel⟩

theorem wit_ResetSources_15 : ∃ (h : Nat) (s : State),
    s.Ok ∧ h < 8 ∧ s.fld (R.WDT_CORE_CFG_EN.nth h) = 1 ∧
    (s.power ≤ 1 ∨ (s.power = 2 ∧ s.fld R.PWR_STATE_CP_AWAKE = 1)) ∧ s.rst.phase = .none ∧
    (s.hart h).wdtExpired = true ∧ s.fld R.WDT_CORE_CFG_ACTION = 1 ∧ s.rst.waiting = none ∧ s.rst.pfFlush = false ∧
    s.pwr.target = none :=
  ⟨3, (Q [(R.WDT_CORE_CFG_EN.nth 3,1),(R.WDT_CORE_CFG_ACTION,1)] cexp), by unfold State.Ok; decide +kernel⟩

theorem wit_ResetSources_16 : ∃ (s : State),
    s.Ok ∧ s.rst.phase = .none ∧ s.rst.waiting = none ∧ s.rst.pfFlush = false ∧ s.pwr.target = none :=
  ⟨(Q [(R.UPD_HEALTH_RUN,1)]), by unfold State.Ok; decide +kernel⟩

theorem wit_ResetSources_17 : ∃ (source : Nat) (s : State),
    s.Ok ∧ source < 4 :=
  ⟨2, (Q []), by unfold State.Ok; decide +kernel⟩

theorem wit_ResetSources_18 : ∃ (source : Nat) (s : State),
    s.Ok ∧ source < 4 ∧ s.anchor.level = 0 :=
  ⟨1, (Q [] (lvl 0)), by unfold State.Ok; decide +kernel⟩

theorem wit_ResetSources_19 : ∃ (source : Nat) (s : State),
    s.Ok ∧ source < 4 ∧ 1 ≤ s.anchor.level ∧ (s.rst.phase = .none ∨ s.rst.phase = .warm) :=
  ⟨1, (Q [] (lvl 3)), by unfold State.Ok; decide +kernel⟩

theorem wit_SupplyAndRelease_1 : ∃ (samples : List Nat) (s : State),
    s.Ok ∧ s.rst.phase = .cold ∧ s.pins.v3p3 = false ∧ samples.length = 16 :=
  ⟨((List.range 16).map fun k => 20 * k), (Q [] (ph .cold)), by unfold State.Ok; decide +kernel⟩

theorem wit_SupplyAndRelease_2 : ∃ (samples : List Nat) (s : State),
    s.Ok ∧ s.power = 4 ∧ s.rst.phase = .none ∧ s.pins.v3p3 = false ∧ samples.length = 16 :=
  ⟨((List.range 16).map fun k => 20 * k), (Q [(R.PWR_STATE_STATE,4)]), by unfold State.Ok; decide +kernel⟩

theorem wit_SupplyAndRelease_3 : ∃ (samples : List Nat) (s : State),
    s.Ok ∧ (s.pins.v3p3 = true ∨ (s.rst.phase ≠ .cold ∧ (s.power ≠ 4 ∨ s.rst.phase ≠ .none))) :=
  ⟨((List.range 16).map fun k => 20 * k), (Q [(R.PWR_STATE_STATE,0)]), by unfold State.Ok; decide +kernel⟩

theorem wit_SupplyAndRelease_4 : ∃ (s : State),
    s.Ok :=
  ⟨(Q [(R.PWR_STATE_STATE,0)]), by unfold State.Ok; decide +kernel⟩

theorem wit_SupplyAndRelease_5 : ∃ (s : State),
    s.Ok ∧ s.power ≤ 2 ∧ (s.rst.phase = .none ∨ s.rst.phase = .warm) ∧ s.pwr.target = none :=
  ⟨(Q [(R.PWR_STATE_STATE,0)]), by unfold State.Ok; decide +kernel⟩

theorem wit_SupplyAndRelease_6 : ∃ (s : State),
    s.Ok ∧ (2 < s.power ∨ s.rst.phase = .cold ∨ s.rst.phase = .system) :=
  ⟨(Q [(R.PWR_STATE_STATE,3)] mrun), by unfold State.Ok; decide +kernel⟩

theorem wit_SupplyAndRelease_7 : ∃ (s : State),
    s.Ok :=
  ⟨(Q [(R.PWR_STATE_STATE,3)] mrun), by unfold State.Ok; decide +kernel⟩

theorem wit_SupplyAndRelease_8 : ∃ (s : State),
    s.Ok :=
  ⟨(Q [] (ph .cold)), by unfold State.Ok; decide +kernel⟩

theorem wit_SupplyAndRelease_9 : ∃ (m : Master) (v : Word) (s : State),
    s.Ok ∧ m.holds rightReset = true :=
  ⟨.block, 1#32, (Q []), by unfold State.Ok; decide +kernel⟩

theorem wit_SupplyAndRelease_10 : ∃ (s : State),
    s.Ok :=
  ⟨(Q []), by unfold State.Ok; decide +kernel⟩

theorem wit_SupplyAndRelease_11 : ∃ (late : List Nat) (recOk : Bool) (s : State),
    s.Ok ∧
    (s.rst.phase = .none ∨ s.rst.phase = .warm ∨ s.rst.driveEnded = false ∨ (s.rst.phase = .cold ∧ (s.pins.v3p3 = false ∨ s.pins.v1p8 = false))) :=
  ⟨[], true, (Q []), by unfold State.Ok; decide +kernel⟩

theorem wit_SupplyAndRelease_12 : ∃ (late : List Nat) (recOk : Bool) (s : State),
    s.Ok ∧ ((s.rst.phase = .cold ∧ s.pins.v3p3 = true ∧ s.pins.v1p8 = true) ∨ s.rst.phase = .system) ∧
    s.rst.driveEnded = true :=
  ⟨[], true, (Q [] (on ∘ ended ∘ dn ∘ ph .cold ∘ noisy)), by unfold State.Ok; decide +kernel⟩

theorem wit_SupplyAndRelease_13 : ∃ (late : List Nat) (recOk : Bool) (s : State),
    s.Ok ∧ s.rst.phase = .cold ∧ s.pins.v3p3 = true ∧ s.pins.v1p8 = true ∧ s.rst.driveEnded = true ∧
    s.rst.cause = (0x01, 0) ∧ pCAIRN ∈ late :=
  ⟨[6], true, (Q [] (on ∘ ended ∘ dn ∘ ph .cold ∘ noisy)), by unfold State.Ok; decide +kernel⟩

theorem wit_SupplyAndRelease_14 : ∃ (recOk : Bool) (s : State),
    s.Ok ∧ s.rst.phase ≠ .warm :=
  ⟨true, (Q []), by unfold State.Ok; decide +kernel⟩

theorem wit_SupplyAndRelease_15 : ∃ (recOk : Bool) (s : State),
    s.Ok ∧ s.rst.phase = .warm ∧ s.upd.actDue = false :=
  ⟨true, (Q [] (dn ∘ ph .warm ∘ noisy)), by unfold State.Ok; decide +kernel⟩

theorem wit_SupplyAndRelease_16 : ∃ (recOk : Bool) (s : State),
    s.Ok ∧ s.fld R.PARTY_ACT_STAT_ARMED = 0 :=
  ⟨true, (Q []), by unfold State.Ok; decide +kernel⟩

theorem wit_SupplyAndRelease_17 : ∃ (recOk : Bool) (s : State),
    s.Ok ∧ s.fld R.PARTY_ACT_STAT_ARMED = 1 ∧ s.gridRuns = true ∧ 2 ≤ s.power :=
  ⟨true, (Q [(R.PARTY_ACT_STAT_ARMED,1),(R.PWR_STATE_STATE,2)]), by unfold State.Ok; decide +kernel⟩

theorem wit_BlockResetsAndClocks_1 : ∃ (m : Master) (page : Nat) (s : State),
    s.Ok ∧ m.holds (pageRight page) = true ∧ page ∈ blockIgnored ∧ s.pageAbsent page = false :=
  ⟨.block, 0x05, (Q []), by unfold State.Ok; decide +kernel⟩

theorem wit_BlockResetsAndClocks_2 : ∃ (m : Master) (page : Nat) (s : State),
    s.Ok ∧ m.holds (pageRight page) = true ∧ page ∉ blockIgnored ∧ pageAssigned page = true ∧
    s.pageAbsent page = false :=
  ⟨.block, 0x20, (Q []), by unfold State.Ok; decide +kernel⟩

theorem wit_BlockResetsAndClocks_3 : ∃ (g k : Nat) (m : Master) (s : State),
    s.Ok ∧ g < 4 ∧ k < 12 ∧ m.holds (pageRight (pSTR g)) = true ∧ pSTR g ∉ s.rst.down :=
  ⟨0, 5, .block, (Q [] lead), by unfold State.Ok; decide +kernel⟩

theorem wit_BlockResetsAndClocks_4 : ∃ (page us : Nat) (s : State),
    s.Ok ∧ page < 128 ∧ ((page, 0, false) ∉ s.rst.block ∨ s.pageBusy page = true) :=
  ⟨0x20, 7, (Q []), by unfold State.Ok; decide +kernel⟩

theorem wit_BlockResetsAndClocks_5 : ∃ (page us : Nat) (s : State),
    s.Ok ∧ (page ∈ displayPages ∨ page ∈ controlPages ∨ page = pMRAM) ∧ page ≠ pANCHOR ∧ page ≠ pUPD ∧
    page ≠ pSCHED ∧ page ∉ blockIgnored ∧ (page, 0, false) ∈ s.rst.block ∧ s.pageBusy page = false :=
  ⟨0x10, 70000, (Q [] (fen 0x10 ∘ blk [(0x10,0,false)])), by unfold State.Ok; decide +kernel⟩

theorem wit_BlockResetsAndClocks_6 : ∃ (page : Nat) (s : State),
    s.Ok ∧ page < 128 ∧ (page, 0, false) ∉ s.rst.block :=
  ⟨0x20, (Q []), by unfold State.Ok; decide +kernel⟩

theorem wit_BlockResetsAndClocks_7 : ∃ (page : Nat) (s : State),
    s.Ok ∧ (page ∈ displayPages ∨ page ∈ controlPages) ∧ page ≠ pANCHOR ∧ page ≠ pUPD ∧ page ≠ pSCHED ∧
    page ∉ blockIgnored ∧ (page, 0, false) ∈ s.rst.block :=
  ⟨0x10, (Q [] (fen 0x10 ∘ blk [(0x10,0,false)])), by unfold State.Ok; decide +kernel⟩

theorem wit_BlockResetsAndClocks_8 : ∃ (page us : Nat) (s : State),
    s.Ok ∧ (page = pANCHOR ∨ page = pUPD ∨ page = pSCHED) ∧ (page, 0, false) ∈ s.rst.block ∧ s.pageBusy page = false :=
  ⟨0x40, 3, (Q [] (blk [(0x40,0,false)])), by unfold State.Ok; decide +kernel⟩

theorem wit_BlockResetsAndClocks_9 : ∃ (page : Nat) (forced : Bool) (s : State),
    s.Ok ∧ (page = pI2C 0 ∨ page = pUART ∨ page = pGPIO ∨ page = pFAN ∨ page = pTEMP ∨ page = pMRAM) ∧
    s.rst.block = [(page, 1, forced)] ∧ page ∉ s.rst.expired ∧ ((∀ f ∈ s.fences, f.page ≠ page)) :=
  ⟨pUART, true, (Q [] (blk [(pUART,1,true)])), by unfold State.Ok; decide +kernel⟩

theorem wit_BlockResetsAndClocks_10 : ∃ (p : Port) (s : State),
    s.Ok ∧ ((∀ f ∈ s.fences, f.page ≠ pNET p)) ∧ s.rst.block = [(pNET p, 1, false)] ∧ pNET p ∉ s.rst.expired ∧
    s.rst.phase = .none :=
  ⟨.a, (Q [] (blk [(0x10,1,false)])), by unfold State.Ok; decide +kernel⟩

theorem wit_BlockResetsAndClocks_11 : ∃ (page : Nat) (s : State),
    s.Ok ∧ ((∀ b ∈ s.rst.block, b.1 ≠ page ∨ b.2.1 ≠ 1) ∨ page ∈ s.rst.expired) :=
  ⟨0x11, (Q [] (blk [(0x10,1,false),(0x11,0,true)])), by unfold State.Ok; decide +kernel⟩

theorem wit_BlockResetsAndClocks_12 : ∃ (k : Nat) (s : State),
    s.Ok ∧ k < 9 :=
  ⟨8, (Q []), by unfold State.Ok; decide +kernel⟩

theorem wit_BlockResetsAndClocks_13 : ∃ (page : Nat) (s : State),
    s.Ok ∧ page ∈ s.rst.down ∧ page ∉ s.rst.expired ∧ page ≠ pANCHOR ∧ page ≠ pCAIRN ∧ page ≠ pMETERACC ∧
    s.rst.block = [] ∧ s.rst.phase = .none :=
  ⟨0x20, (Q [] dn |> fun s => {s with rst := {s.rst with down := [0x20,0x21]}}), by unfold State.Ok; decide +kernel⟩

theorem wit_BlockResetsAndClocks_14 : ∃ (page : Nat) (s : State),
    s.Ok ∧ page ∈ s.rst.expired :=
  ⟨0x21, (Q [] dn |> fun s => {s with rst := {s.rst with down := [0x20,0x21], lost := [0x21], expired := [0x21]}}),
    by unfold State.Ok; decide +kernel⟩

theorem wit_BlockResetsAndClocks_15 : ∃ (k page : Nat) (s : State),
    s.Ok ∧ k < 9 ∧ page ∈ s.rst.down ∧ page < 128 ∧ ((∀ f ∈ s.fences, f.page ≠ page)) :=
  ⟨3, 0x21, (Q [] dn |> fun s => {s with rst := {s.rst with down := [0x38,0x21]}}),
    by unfold State.Ok; decide +kernel⟩

theorem wit_BlockResetsAndClocks_16 : ∃ (k page : Nat) (s : State),
    s.Ok ∧ k < 9 ∧ page < 128 ∧ pageAssigned page = true ∧ ((∀ f ∈ s.fences, f.page ≠ page)) :=
  ⟨3, 0x21, (Q [(R.CLK_STAT_READY.nth 3,1)]), by unfold State.Ok; decide +kernel⟩

theorem wit_BlockResetsAndClocks_17 : ∃ (entropy selftest header : Bool) (damaged : List Nat) (s : State),
    s.Ok ∧ (s.fld R.ANCHOR_STATUS_READY = 1 ∨ pANCHOR ∈ s.rst.down) :=
  ⟨true, true, true, [], (Q [(R.ANCHOR_STATUS_READY,1)]), by unfold State.Ok; decide +kernel⟩

theorem wit_BlockResetsAndClocks_18 : ∃ (s : State),
    s.Ok ∧ s.fld R.ANCHOR_STATUS_READY = 0 ∧ pANCHOR ∉ s.rst.down ∧ s.anchor.owed = false :=
  ⟨(Q [(R.ANCHOR_STATUS_READY,0)]), by unfold State.Ok; decide +kernel⟩

theorem wit_BlockResetsAndClocks_19 : ∃ (s : State),
    s.Ok ∧ s.fld R.ANCHOR_STATUS_READY = 0 ∧ pANCHOR ∉ s.rst.down ∧ s.anchor.owed = true ∧ 1 ≤ s.anchor.level ∧
    s.rst.phase = .none :=
  ⟨(Q [(R.ANCHOR_STATUS_READY,0)] (owed ∘ lvl 2)), by unfold State.Ok; decide +kernel⟩

end Reset

namespace Pwr

def P (p : PwrS → PwrS := id) (l : List (Fld × Nat) := []) : State := let s := Run ([(R.PWR_CFG_REST_EN,1),(R.PWR_RESULT_BUSY,0),(R.FLASH_CTRL_GO,0),(R.BELAY_STATUS_RESYNC_BUSY,0),(R.STORE_STATUS_INIT_DONE,1),(R.STORE_STATUS_WAKE_SCRUB,0),(R.COMMIT_STAGE_CTRL_GO,0),(R.COMMIT_ANN_CTRL_BUSY,0),(R.ANCHOR_STATUS_BUSY,0)] ++ l); { s with pwr := p s.pwr, harts := s.harts.map fun h => {h with held := false, thresh := 0}, router := {mtime := 0} }
def noInt : List (Fld × Nat) := (List.range 8).flatMap fun h => [(R.IRQ_MTIMECMP_LO_C_LO h, 100)]

theorem wit_PowerHandshake_1 : ∃ (s : State),
    s.Ok :=
  ⟨(P id (noInt ++ [(R.IRQ_MSIP_MSIP,0)])), by unfold State.Ok; decide +kernel⟩

theorem wit_PowerHandshake_2 : ∃ (s : State),
    s.Ok :=
  ⟨(P id (noInt ++ [(R.IRQ_MSIP_MSIP,1),(R.PWR_STATE_STATE,1)])), by unfold State.Ok; decide +kernel⟩

theorem wit_PowerHandshake_3 : ∃ (m : Master) (v : Word) (s : State),
    s.Ok ∧ m.holds rightReset = true ∧ (s.isArmed pPWR = false ∨ v.getLsbD 31 = false) :=
  ⟨.block, 0x80000002#32, (P), by unfold State.Ok; decide +kernel⟩

theorem wit_PowerHandshake_4 : ∃ (m : Master) (v : Word) (s : State),
    s.Ok ∧ m.holds rightReset = true ∧ s.isArmed pPWR = true ∧ v.getLsbD 31 = true ∧ s.fld R.PWR_RESULT_BUSY = 1 :=
  ⟨.block, 0x80000002#32, (P id [(R.PWR_RESULT_BUSY,1),(R.PG_LOCK_ARMED pPWR,1)]),
    by unfold State.Ok; decide +kernel⟩

theorem wit_PowerHandshake_5 : ∃ (m : Master) (v : Word) (s : State),
    s.Ok ∧ m.holds rightReset = true ∧ s.isArmed pPWR = true ∧ v.getLsbD 31 = true ∧ s.fld R.PWR_RESULT_BUSY = 0 :=
  ⟨.block, 0x80000002#32, (P id [(R.PG_LOCK_ARMED pPWR,1)]), by unfold State.Ok; decide +kernel⟩

theorem wit_PowerHandshake_6 : ∃ (target : Nat) (s : State),
    s.Ok ∧ s.pwr.target = some target ∧ s.pwr.step = 1 :=
  ⟨3, (P fun p => {p with target := some 3, step := 1, force := true}), by unfold State.Ok; decide +kernel⟩

theorem wit_PowerHandshake_7 : ∃ (target : Nat) (s : State),
    s.Ok ∧ s.pwr.target = some target ∧ s.pwr.step = 1 :=
  ⟨3, (P fun p => {p with target := some 3, step := 1}), by unfold State.Ok; decide +kernel⟩

theorem wit_PowerHandshake_8 : ∃ (s : State),
    s.Ok :=
  ⟨(P (fun p => {p with target := some 2, step := 1})), by unfold State.Ok; decide +kernel⟩

end Pwr

namespace Hspi

def Q (l : List (Fld × Nat)) (g : State → State := id) : State := g (Run ([(R.PWR_RESULT_BUSY,0),(R.FLASH_CTRL_GO,0),(R.STORE_STATUS_INIT_DONE,1),(R.STORE_STATUS_WAKE_SCRUB,0),(R.COMMIT_STAGE_CTRL_GO,0),(R.ANCHOR_STATUS_BUSY,0),(R.HOSTSPI_CFG_RIGHTS,63)] ++ l))
def rt (n : Nat) : List (Fld × Nat) := [(R.HOSTSPI_CFG_RIGHTS,n)]
def mrun (s : State) : State := { s with meter := { s.meter with running := true } }
def stf (s : State) : State := { s with mem := {s.mem with store := memWrite [] 0x1000 [1,2,3,4,5,6,7,8,9], sram := memWrite [] 0x100 [9,8,7,0x86,5,4,3,2], tcm := memWrite [] 0x60104 [1,2,3,4], ret := memWrite [] 0x804 [7,7], bk := memWrite [] 4 [9], mram := memWrite [] 0x20000 [1,1,1,1], nor := []}, router := {s.router with mtime := 100}, harts := List.replicate 8 {mmode := true} }
def res (l : List (Nat × Reservation)) (s : State) : State := { s with reservations := l }
def cw (l : List CodeWrite) (s : State) : State := { s with codeWrites := l }
def um (s : State) : State := { s with harts := List.replicate 8 {mmode := false} }

theorem wit_HostSpi_1 : ∃ (addr n cmd : Nat) (ok : Bool) (ws : List Word) (data : List Byte) (s : State),
    s.Ok ∧ s.hspiServes = false :=
  ⟨1, 2, 3, true, [], [], (Q [(R.PWR_STATE_STATE,3)]), by unfold State.Ok; decide +kernel⟩

theorem wit_HostSpi_2 : ∃ (addr n : Nat) (ws : List Word) (data : List Byte) (s : State),
    s.Ok ∧ s.hspiServes = true ∧ data.length = n :=
  ⟨1, 0, [], [], (Q []), by unfold State.Ok; decide +kernel⟩

theorem wit_HostSpi_3 : ∃ (s : State),
    s.Ok ∧ s.hspiServes = true ∧ s.hspiRights.testBit 0 = true ∧ s.latches = [] :=
  ⟨(Q [] fun s => {s with ptp := {s.ptp with ns := 123456789123456789123}}), by unfold State.Ok; decide +kernel⟩

theorem wit_HostSpi_4 : ∃ (addr n : Nat) (s : State),
    s.Ok ∧ s.hspiServes = true ∧ 0 < n ∧ addr % 4 = 0 ∧ (addr < 0x40000000 ∨ 0x40050000 ≤ addr) :=
  ⟨0x40051000, 5, (Q []), by unfold State.Ok; decide +kernel⟩

theorem wit_HostSpi_5 : ∃ (v : Word) (s : State),
    s.Ok ∧ s.hspiServes = true ∧ v.toNat < 65536 :=
  ⟨0x1234#32, (Q []), by unfold State.Ok; decide +kernel⟩

theorem wit_HostSpi_6 : ∃ (addr n : Nat) (s : State),
    s.Ok ∧ s.hspiServes = true ∧ n % 8 = 0 ∧ 0 < n ∧ n ≤ 4096 ∧ s.hspiRights.testBit 0 = true ∧
    addr + n ≤ s.storeSize ∧ s.storeCtl.unusable = false ∧ s.fld R.STORE_STATUS_INIT_DONE = 1 ∧ s.mem.storeBad = [] :=
  ⟨0x1000, 16, (Q [] stf), by unfold State.Ok; decide +kernel⟩

theorem wit_HostSpi_7 : ∃ (addr n : Nat) (ok : Bool) (data : List Byte) (s : State),
    s.Ok ∧ s.hspiServes = true ∧ data.length ≠ n :=
  ⟨1, 2, true, [3], (Q []), by unfold State.Ok; decide +kernel⟩

theorem wit_HostSpi_8 : ∃ (addr n : Nat) (data : List Byte) (s : State),
    s.Ok ∧ s.hspiServes = true ∧ data.length = n ∧ n % 8 = 0 ∧ 0 < n ∧ n ≤ 4096 ∧ addr % 8 = 0 ∧ 0x38000000 ≤ addr ∧
    addr + n ≤ 0x48000000 ∧ addr + n ≤ s.storeSize ∧ s.storeCtl.unusable = false ∧
    s.fld R.STORE_STATUS_INIT_DONE = 1 :=
  ⟨0x38001000, 8, [1,2,3,4,5,6,7,8], (Q [] stf), by unfold State.Ok; decide +kernel⟩

theorem wit_HostSpi_9 : ∃ (s : State),
    s.Ok ∧ s.hspiServes = true :=
  ⟨(Q []), by unfold State.Ok; decide +kernel⟩

theorem wit_HostSpi_10 : ∃ (s : State),
    s.Ok ∧ s.hspiServes = true ∧ s.rst.waiting = none ∧ (s.rst.phase = .none ∨ s.rst.phase = .warm) :=
  ⟨(Q []), by unfold State.Ok; decide +kernel⟩

theorem wit_HostSpi_11 : ∃ (cmd : Nat) (s : State),
    s.Ok ∧ s.hspiServes = true ∧ cmd < 256 :=
  ⟨0x77, (Q [] mrun), by unfold State.Ok; decide +kernel⟩

theorem wit_CoreMemory_1 : ∃ (h addr n : Nat) (s : State),
    s.Ok ∧ h < 8 ∧ n ∈ [1, 2, 4] ∧ addr % n = 0 ∧ 0x10000000 ≤ addr ∧ addr + n ≤ 0x10400000 ∧ s.mem.sramBad = [] ∧
    s.pmpGrants h addr (.load n) = true :=
  ⟨3, 0x10000102, 2, (Q [] stf), by unfold State.Ok; decide +kernel⟩

theorem wit_CoreMemory_2 : ∃ (h addr : Nat) (d : List Byte) (s : State),
    s.Ok ∧ h < 8 ∧ d.length ∈ [1, 2, 4] ∧ addr % d.length = 0 ∧ 0x10000000 ≤ addr ∧ addr + d.length ≤ 0x10400000 ∧
    s.mem.sramBad = [] ∧ s.pmpGrants h addr (.store d) = true :=
  ⟨3, 0x10000104, [1,2,3,4], (Q [] (res [(1,⟨0x400004,90⟩),(3,⟨0x400004,90⟩),(2,⟨0x400005,90⟩)] ∘ stf)),
    by unfold State.Ok; decide +kernel⟩

theorem wit_CoreMemory_3 : ∃ (h addr : Nat) (s : State),
    s.Ok ∧ h < 8 ∧ addr % 4 = 0 ∧ 0x20000000 ≤ addr ∧ addr + 4 ≤ 0x20020000 ∧ s.mem.tcmBad = [] ∧
    s.pmpGrants h (addr + 0x01000000 + 0x20000 * h) (.load 4) = true ∧ s.pmpGrants h addr (.load 4) = true :=
  ⟨3, 0x20000104, (Q [] stf), by unfold State.Ok; decide +kernel⟩

theorem wit_CoreMemory_4 : ∃ (h addr : Nat) (d : List Byte) (s : State),
    s.Ok ∧ h < 8 ∧ d.length = 4 ∧ addr % 4 = 0 ∧ 0x20000000 ≤ addr ∧ addr + 4 ≤ 0x20020000 ∧
    s.pmpGrants h addr (.store d) = true :=
  ⟨3, 0x20000104, [8,8,8,8], (Q [] stf), by unfold State.Ok; decide +kernel⟩

theorem wit_CoreMemory_5 : ∃ (h addr : Nat) (s : State),
    s.Ok ∧ h < 8 ∧ addr % 4 = 0 ∧ 0x10000000 ≤ addr ∧ addr + 4 ≤ 0x10400000 ∧ s.mem.sramBad = [] ∧
    s.pmpGrants h addr .loadReserved = true :=
  ⟨3, 0x10000104, (Q [] stf), by unfold State.Ok; decide +kernel⟩

theorem wit_CoreMemory_6 : ∃ (h addr since : Nat) (d : List Byte) (s : State),
    s.Ok ∧ h < 8 ∧ d.length = 4 ∧ addr % 4 = 0 ∧ 0x10000000 ≤ addr ∧ addr + 4 ≤ 0x10400000 ∧ s.mem.sramBad = [] ∧
    s.reservations = [(h, ⟨addr / 64, since⟩)] ∧ s.pmpGrants h addr (.storeConditional d) = true :=
  ⟨3, 0x10000104, 90, [1,2,3,4], (Q [] (res [(3,⟨0x400004,90⟩)] ∘ stf)), by unfold State.Ok; decide +kernel⟩

theorem wit_CoreMemory_7 : ∃ (h addr : Nat) (d : List Byte) (s : State),
    s.Ok ∧ h < 8 ∧ d.length = 4 ∧ addr % 4 = 0 ∧ 0x10000000 ≤ addr ∧ addr + 4 ≤ 0x10400000 ∧
    ((∀ r ∈ s.reservations, r.1 ≠ h)) ∧ s.pmpGrants h addr (.storeConditional d) = true :=
  ⟨3, 0x10000104, [1,2,3,4], (Q [] stf), by unfold State.Ok; decide +kernel⟩

theorem wit_CoreMemory_8 : ∃ (h addr : Nat) (v : Word) (s : State),
    s.Ok ∧ h < 8 ∧ addr % 4 = 0 ∧ 0x10000000 ≤ addr ∧ addr + 4 ≤ 0x10400000 ∧ s.mem.sramBad = [] :=
  ⟨3, 0x10000100, 0x12345678#32, (Q [] stf), by unfold State.Ok; decide +kernel⟩

theorem wit_CoreMemory_9 : ∃ (h addr : Nat) (s : State),
    s.Ok ∧ h < 8 ∧ addr % 4 ≠ 0 ∧ 0x10000000 ≤ addr ∧ addr + 4 ≤ 0x10400000 ∧ s.pmpGrants h addr (.load 4) = true :=
  ⟨3, 0x10000102, (Q [] stf), by unfold State.Ok; decide +kernel⟩

theorem wit_CoreMemory_10 : ∃ (h addr : Nat) (d : List Byte) (s : State),
    s.Ok ∧ h < 8 ∧ d.length = 4 ∧ addr % 4 ≠ 0 ∧ 0x10000000 ≤ addr ∧ addr + 4 ≤ 0x10400000 ∧
    s.pmpGrants h addr (.store d) = true :=
  ⟨3, 0x10000102, [1,2,3,4], (Q [] (res [(1,⟨0x400004,90⟩),(3,⟨0x400004,90⟩)] ∘ stf)),
    by unfold State.Ok; decide +kernel⟩

theorem wit_CoreMemory_11 : ∃ (h addr : Nat) (s : State),
    s.Ok ∧ h < 8 ∧ addr % 8 = 0 ∧ 0x10000000 ≤ addr ∧ addr + 8 ≤ 0x10400000 ∧ s.pmpGrants h addr (.load 4) = true :=
  ⟨3, 0x10000108, (Q [] stf), by unfold State.Ok; decide +kernel⟩

theorem wit_CoreMemory_12 : ∃ (h addr : Nat) (s : State),
    s.Ok ∧ h < 8 ∧ addr % 4 = 0 ∧ 0x10000000 ≤ addr ∧ addr + 4 ≤ 0x10400000 ∧ s.mem.sramBad = [] ∧
    s.pmpGrants h addr (.load 4) = true :=
  ⟨3, 0x10000104, (Q [] stf), by unfold State.Ok; decide +kernel⟩

theorem wit_CoreMemory_13 : ∃ (h o addr : Nat) (s : State),
    s.Ok ∧ h < 8 ∧ o < 8 ∧ o ≠ h ∧ addr % 4 = 0 ∧ 0x21000000 + 0x20000 * o ≤ addr ∧
    addr + 4 ≤ 0x21000000 + 0x20000 * (o + 1) ∧ s.pmpGrants h addr .loadReserved = true :=
  ⟨3, 4, 0x21080004, (Q [] stf), by unfold State.Ok; decide +kernel⟩

theorem wit_CoreMemory_14 : ∃ (h o addr : Nat) (s : State),
    s.Ok ∧ h < 8 ∧ o < 8 ∧ o ≠ h ∧ addr % 4 = 0 ∧ 0x21000000 + 0x20000 * o ≤ addr ∧
    addr + 4 ≤ 0x21000000 + 0x20000 * (o + 1) ∧ s.fetchStale h addr (.fetch 4) = false ∧
    s.pmpGrants h addr (.fetch 4) = true :=
  ⟨3, 4, 0x21080004, (Q [] stf), by unfold State.Ok; decide +kernel⟩

theorem wit_CoreMemory_15 : ∃ (h addr : Nat) (s : State),
    s.Ok ∧ h < 8 ∧ addr % 4 = 0 ∧ 0x18000000 ≤ addr ∧ addr + 4 ≤ 0x18002000 ∧ s.pmpGrants h addr (.load 4) = true :=
  ⟨3, 0x18000804, (Q [] stf), by unfold State.Ok; decide +kernel⟩

theorem wit_CoreMemory_16 : ∃ (h addr : Nat) (d : List Byte) (s : State),
    s.Ok ∧ h < 8 ∧ d.length = 4 ∧ addr % 4 = 0 ∧ 0x18000800 ≤ addr ∧ addr + 4 ≤ 0x18001000 ∧ s.retLocked = false ∧
    s.pmpGrants h addr (.store d) = true :=
  ⟨3, 0x18000804, [1,2,3,4], (Q [] stf), by unfold State.Ok; decide +kernel⟩

theorem wit_CoreMemory_17 : ∃ (h addr : Nat) (d : List Byte) (s : State),
    s.Ok ∧ h < 8 ∧ d.length = 4 ∧ addr % 4 = 0 ∧ 0x18000000 ≤ addr ∧ addr < 0x18000800 ∧
    s.pmpGrants h addr (.store d) = true :=
  ⟨3, 0x180007FC, [1,2,3,4], (Q [] stf), by unfold State.Ok; decide +kernel⟩

theorem wit_CoreMemory_18 : ∃ (h addr : Nat) (d : List Byte) (s : State),
    s.Ok ∧ h < 8 ∧ d.length = 4 ∧ addr % 4 = 0 ∧ 0x1C000000 ≤ addr ∧ addr + 4 ≤ 0x1C000040 ∧
    s.pmpGrants h addr (.store d) = true :=
  ⟨3, 0x1C000004, [1,2,3,4], (Q [] stf), by unfold State.Ok; decide +kernel⟩

theorem wit_CoreMemory_19 : ∃ (h addr : Nat) (d : List Byte) (s : State),
    s.Ok ∧ h < 8 ∧ d.length = 4 ∧ addr % 4 = 0 ∧ addr + 4 ≤ 0x10000 :=
  ⟨3, 0x4, [1,2,3,4], (Q [] stf), by unfold State.Ok; decide +kernel⟩

theorem wit_CoreMemory_20 : ∃ (h addr : Nat) (s : State),
    s.Ok ∧ h < 8 ∧ addr % 4 = 0 ∧ 0x50000000 ≤ addr ∧ addr + 4 ≤ 0x60000000 ∧
    s.fetchStale h addr (.fetch 4) = false ∧ s.pmpGrants h addr (.fetch 4) = true :=
  ⟨3, 0x50000104, (Q [] stf), by unfold State.Ok; decide +kernel⟩

theorem wit_CoreMemory_21 : ∃ (h addr : Nat) (s : State),
    s.Ok ∧ h < 8 ∧ addr % 4 = 0 ∧ 0x60000000 ≤ addr ∧ addr + 4 ≤ 0x60100000 ∧ s.mem.mramBad = [] ∧
    s.pmpGrants h addr (.load 4) = true :=
  ⟨3, 0x6000D000, (Q [] stf), by unfold State.Ok; decide +kernel⟩

theorem wit_CoreMemory_22 : ∃ (h addr : Nat) (d : List Byte) (s : State),
    s.Ok ∧ h < 8 ∧ d.length = 4 ∧ addr % 4 = 0 ∧ 0x60000000 ≤ addr ∧ addr + 4 ≤ 0x60100000 ∧ s.mem.mramBad = [] ∧
    s.pmpGrants h addr (.store d) = true :=
  ⟨3, 0x60020000, [1,2,3,4], (Q [] stf), by unfold State.Ok; decide +kernel⟩

theorem wit_CoreMemory_23 : ∃ (h addr : Nat) (s : State),
    s.Ok ∧ h < 8 ∧
    ((0x10000 ≤ addr ∧ addr + 4 ≤ 0x10000000) ∨ (0x10400000 ≤ addr ∧ addr + 4 ≤ 0x18000000) ∨ (0x40050000 ≤ addr ∧ addr + 4 ≤ 0x50000000) ∨ (0x60100000 ≤ addr ∧ addr + 4 ≤ 0x80000000) ∨ 0xC0000000 ≤ addr) :=
  ⟨3, 0x10400000, (Q [] stf), by unfold State.Ok; decide +kernel⟩

theorem wit_CoreMemory_24 : ∃ (h : Nat) (s : State),
    s.Ok ∧ h < 8 ∧ (s.hart h).mmode = true ∧ s.latches = [] ∧ s.pmpGrants h 0x40012068 (.load 4) = true :=
  ⟨3, (Q [] stf), by unfold State.Ok; decide +kernel⟩

theorem wit_CoreMemory_25 : ∃ (h n : Nat) (s : State),
    s.Ok ∧ h < 8 ∧ n ∈ [1, 2] :=
  ⟨3, 1, (Q [] stf), by unfold State.Ok; decide +kernel⟩

theorem wit_CoreMemory_26 : ∃ (h addr : Nat) (op : CoreOp) (e : Ecc) (s : State),
    s.Ok ∧ h < 8 ∧ op ≠ .fenceI ∧ s.pmpGrants h addr op = false :=
  ⟨3, 0x10000104, (.load 4), .clean, (Q [] (um ∘ stf)), by unfold State.Ok; decide +kernel⟩

theorem wit_CoreMemory_27 : ∃ (h addr : Nat) (op : CoreOp) (e : Ecc) (s : State),
    s.Ok ∧ h < 8 ∧ s.pmpGrants h addr op = true ∧ s.fetchStale h addr op = true :=
  ⟨3, 0x10000104, (.fetch 4), .clean, (Q [] (cw [⟨0x10000100, 8, [1,3]⟩] ∘ stf)),
    by unfold State.Ok; decide +kernel⟩

theorem wit_CoreMemory_28 : ∃ (h addr : Nat) (e : Ecc) (s : State),
    s.Ok ∧ h < 8 :=
  ⟨3, 0, .clean, (Q [] (cw [⟨0x10000100, 8, [1,3]⟩, ⟨0x10000200, 8, [3]⟩] ∘ stf)),
    by unfold State.Ok; decide +kernel⟩

end Hspi

namespace Belay

def B (f : BelayS → BelayS := id) (l : List (Fld × Nat) := []) (lead : Nat := 1): State := let s := Run ([(R.BELAY_STATUS_LEAD,lead),(R.BELAY_STATUS_LINK_UP,1),(R.BELAY_STATUS_SYNCED,1),(R.BELAY_STATUS_SCREE_SYNCED,1),(R.BELAY_CFG_CRC_CMP,1)] ++ l); { s with belay := f s.belay }
def pk (n : Nat) (v : List Byte) : BelayPkt := { seq := 8, flags := 0, payload := fixLen n v }
def fcp : BelayPkt := pk 32 (beBytes 6 60000 ++ beBytes 2 5 ++ [1, 2, 0, 0] ++ beBytes 4 11 ++ beBytes 4 12 ++ beBytes 4 13 ++ beBytes 4 14)
def fco (k : Nat) (c : Nat) : FrameCrc := ⟨60000, 5, k, 0, [11, 99, 13, c]⟩
def hb (st : Nat) (echo : Nat) : List Byte := [BitVec.ofNat 8 st, 3, 0, 102] ++ List.replicate 12 0 ++ timeBytes 1000000000000 ++ timeBytes echo ++ timeBytes (echo + 500) ++ [0,0] ++ (List.range 120).map (BitVec.ofNat 8 ·)
def hh : Heart := { lead := true, genValid := true }

theorem wit_BelayHandover_1 : ∃ (n : Nat) (s : State),
    s.Ok :=
  ⟨7, (B id [] 0), by unfold State.Ok; decide +kernel⟩

theorem wit_BelayHandover_2 : ∃ (p : BelayPkt) (fn : Nat) (s : State),
    s.Ok ∧ s.arrives p = true ∧ p.payload.length = 8 ∧ fn = beAt p.payload 0 6 :=
  ⟨(pk 8 (beBytes 6 70000)), 70000, (B), by unfold State.Ok; decide +kernel⟩

theorem wit_BelayHandover_3 : ∃ (p : BelayPkt) (fn tr : Nat) (s : State),
    s.arrives p = true ∧ p.payload.length = 8 ∧ s.belay.yielded = some (fn, tr) :=
  ⟨(pk 8 (beBytes 6 700000)), 700000, 0x24, (B fun b => {b with yielded := some (700000, 0x24)}), by decide +kernel⟩

theorem wit_BelayHandover_4 : ∃ (p : BelayPkt) (s : State),
    s.arrives p = true ∧ p.payload.length = 8 :=
  ⟨(pk 8 (beBytes 6 700001)), (B fun b => {b with yielded := some (700000, 0x24)}), by decide +kernel⟩

theorem wit_BelayHandover_5 : ∃ (n fn tr : Nat) (s : State),
    s.Ok ∧ s.belay.yielded = some (fn, tr) :=
  ⟨7, 7, 3, (B fun b => {b with yielded := some (7, 3)}), by unfold State.Ok; decide +kernel⟩

theorem wit_BelayHandover_6 : ∃ (n fn cause : Nat) (s : State),
    s.Ok ∧ s.isLead = true ∧ s.belay.release = some (fn, cause) ∧ cause < 256 :=
  ⟨7, 7, 3, (B fun b => {b with release := some (7, 3)}), by unfold State.Ok; decide +kernel⟩

theorem wit_BelayHandover_7 : ∃ (n fn cause : Nat) (high : Bool) (s : State),
    s.Ok ∧ s.isLead = false ∧ s.belay.takeover = some (fn, cause) ∧ cause < 256 :=
  ⟨7, 7, 3, true, (B (fun b => {b with takeover := some (7, 3)}) [] 0), by unfold State.Ok; decide +kernel⟩

theorem wit_BelayLink_1 : ∃ (p : BelayPkt) (rx : Nat) (s : State),
    s.linkUp = false :=
  ⟨(pk 8 []), 5, (B id [(R.BELAY_STATUS_LINK_UP,0)]), by decide +kernel⟩

theorem wit_BelayLink_2 : ∃ (p : BelayPkt) (rx : Nat) (s : State),
    s.Ok ∧ s.linkUp = true ∧ p.ecc ≠ .uncorrectable ∧ p.payload.length = 9 :=
  ⟨(pk 9 []), 5, (B), by unfold State.Ok; decide +kernel⟩

theorem wit_BelayLink_3 : ∃ (p : BelayPkt) (rx : Nat) (s : State),
    s.Ok ∧ s.linkUp = true ∧ p.ecc = .uncorrectable :=
  ⟨{pk 9 [] with ecc := .uncorrectable}, 5, (B (fun b => {b with copying := true})),
    by unfold State.Ok; decide +kernel⟩

theorem wit_BelayLink_4 : ∃ (p : BelayPkt) (f : FrameCrc) (s : State),
    s.Ok ∧ s.arrives p = true ∧ p.payload.length = 32 ∧ f.frame = beAt p.payload 0 6 ∧ s.belay.compared = [] ∧
    s.belay.own = [f] :=
  ⟨fcp, (fco 1 14), (B fun b => {b with own := [fco 1 14]}), by unfold State.Ok; decide +kernel⟩

theorem wit_BelayLink_5 : ∃ (s : State),
    s.Ok ∧ s.linkUp = true ∧ s.gridRuns = true :=
  ⟨(B), by unfold State.Ok; decide +kernel⟩

theorem wit_BelayLink_6 : ∃ (p : BelayPkt) (rx : Nat) (s : State),
    s.Ok ∧ s.arrives p = true ∧ p.payload.length = 192 ∧ s.isLead = true ∧ s.belay.copying = false :=
  ⟨(pk 192 (hb 3 0)), 1000000000100, (B), by unfold State.Ok; decide +kernel⟩

theorem wit_BelayLink_7 : ∃ (p : BelayPkt) (rx r : Nat) (s : State),
    s.Ok ∧ r < 12 ∧ s.arrives p = true ∧ p.payload.length = 192 ∧ s.isLead = false ∧
    bitSet (beAt p.payload 0 1) 0 = true ∧ s.railMode r ≠ 0 :=
  ⟨(pk 192 (hb 1 999999000000)), 1000000009100, 3, (B id [(R.RAIL_CTRL_MODE 3,2)] 0),
    by unfold State.Ok; decide +kernel⟩

theorem wit_BelayLink_8 : ∃ (s : State),
    s.Ok :=
  ⟨(B), by unfold State.Ok; decide +kernel⟩

theorem wit_BelayLink_9 : ∃ (s : State),
    s.Ok :=
  ⟨(B), by unfold State.Ok; decide +kernel⟩

theorem wit_BelayLink_10 : ∃ (s : State),
    s.Ok :=
  ⟨(B), by unfold State.Ok; decide +kernel⟩

theorem wit_BelayLink_11 : ∃ (s : State),
    s.Ok :=
  ⟨(B id [(R.BELAY_STATUS_PARTNER_SEEN,1)]), by unfold State.Ok; decide +kernel⟩

theorem wit_BelayResync_1 : ∃ (h : Heart) (s : State),
    s.Ok ∧ s.belay.heart = some h :=
  ⟨hh, (B (fun b => {b with heart := some hh, differs := 2}) [] 0), by unfold State.Ok; decide +kernel⟩

theorem wit_BelayResync_2 : ∃ (p : BelayPkt) (s : State),
    s.Ok ∧ s.arrives p = true ∧ p.payload.length = 8 :=
  ⟨(pk 8 []), (B), by unfold State.Ok; decide +kernel⟩

theorem wit_BelayResync_3 : ∃ (s : State),
    (s.isLead = false ∨ s.linkUp = false ∨ s.fld R.BELAY_STATUS_RESYNC_BUSY = 0) :=
  ⟨(B id [] 0), by decide +kernel⟩

theorem wit_BelayResync_4 : ∃ (r : CopyRange) (rest : List CopyRange) (s : State),
    s.Ok ∧ s.isLead = true ∧ s.linkUp = true ∧ s.fld R.BELAY_STATUS_RESYNC_BUSY = 1 ∧ s.belay.ranges = r :: rest ∧
    s.belay.pos = (0, 0) ∧ 256 < r.len ∧ s.storeRangeBad r.addr 256 = false :=
  ⟨⟨0x1000, 600, false⟩, [],
    (let s := B (fun b => {b with ranges := [⟨0x1000, 600, false⟩]}) [(R.BELAY_STATUS_RESYNC_BUSY,1)]; {s with mem := {s.mem with store := memWrite [] 0x1010 [1,2,3]}}),
    by unfold State.Ok; decide +kernel⟩

theorem wit_BelayResync_5 : ∃ (a n : Nat) (s : State),
    s.Ok ∧ s.isLead = true ∧ s.linkUp = true ∧ s.fld R.BELAY_STATUS_RESYNC_BUSY = 1 ∧
    s.belay.ranges = [⟨a, n, true⟩] ∧ s.belay.pos = (0, 0) ∧ 0 < n ∧ n ≤ 256 ∧ s.storeRangeBad a n = false :=
  ⟨0x1000, 200, (B (fun b => {b with ranges := [⟨0x1000, 200, true⟩]}) [(R.BELAY_STATUS_RESYNC_BUSY,1)]),
    by unfold State.Ok; decide +kernel⟩

theorem wit_BelayResync_6 : ∃ (pre : List CopyRange) (a n : Nat) (s : State),
    s.Ok ∧ s.isLead = true ∧ s.linkUp = true ∧ s.fld R.BELAY_STATUS_RESYNC_BUSY = 1 ∧
    s.belay.ranges = pre ++ [⟨a, n, false⟩] ∧ s.belay.pos = (pre.length, 0) ∧ 0 < n ∧ n ≤ 256 ∧
    s.storeRangeBad a n = false ∧ ((∀ x ∈ s.copyRanges, x ∈ s.belay.ranges)) :=
  ⟨[], 0, 200,
    (B (fun b => {b with ranges := [⟨0, 200, false⟩]}) [(R.BELAY_STATUS_RESYNC_BUSY,1),(R.COMMIT_SLOT_STATE 0,0),(R.COMMIT_SLOT_STATE 1,0)]),
    by unfold State.Ok; decide +kernel⟩

theorem wit_BelayResync_7 : ∃ (p : BelayPkt) (r : CopyRange) (s : State),
    s.Ok ∧ s.arrives p = true ∧ p.payload.length = 8 ∧ s.belay.ranges = [r] ∧ r.addr ≤ beAt p.payload 0 5 ∧
    beAt p.payload 0 5 < r.addr + r.len :=
  ⟨(pk 8 (beBytes 5 0x1100)), ⟨0x1000, 600, true⟩, (B (fun b => {b with ranges := [⟨0x1000, 600, true⟩]})),
    by unfold State.Ok; decide +kernel⟩

theorem wit_BelayResync_8 : ∃ (p : BelayPkt) (a : Nat) (data : List Byte) (s : State),
    s.Ok ∧ s.arrives p = true ∧ s.belay.copying = true ∧ s.storeCtl.unusable = false ∧
    p.payload = beBytes 5 a ++ [0, 0, 0] ++ data ∧ a < 2 ^ 34 ∧ a % 8 = 0 ∧ 8 ≤ data.length ∧ data.length ≤ 256 ∧
    data.length % 8 = 0 ∧ a + data.length ≤ 0x4_0000_0000 :=
  ⟨(pk 16 (beBytes 5 0x1100 ++ [0,0,0,1,2,3,4,5,6,7,8])), 0x1100, [1,2,3,4,5,6,7,8],
    (B (fun b => {b with copying := true, bytes := 3000})), by unfold State.Ok; decide +kernel⟩

theorem wit_BelayResync_9 : ∃ (p : BelayPkt) (q : Nat) (s : State),
    s.Ok ∧ s.linkUp = true ∧ p.ecc ≠ .uncorrectable ∧ s.belay.copying = true ∧ s.storeCtl.unusable = false ∧
    p.payload.length = 16 ∧ s.belay.rxSeq = some q ∧ p.seq ≠ (q + 1) % 2 ^ 32 :=
  ⟨(pk 16 (beBytes 5 0x1100 ++ [0,0,0,1,2,3,4,5,6,7,8])), 3,
    (B (fun b => {b with copying := true, bytes := 3000, rxSeq := some 3})), by unfold State.Ok; decide +kernel⟩

theorem wit_BelayResync_10 : ∃ (p : BelayPkt) (s : State),
    s.arrives p = true ∧ p.payload.length = 72 :=
  ⟨(pk 72 ((List.range 72).map (BitVec.ofNat 8 ·))),
    (B (fun b => {b with copying := true, bytes := 3000, rxSeq := some 7})), by decide +kernel⟩

end Belay

namespace Sched

def it (q p : Nat) (acc : Nat := 0) (seq : Nat := 1) : SchedItem := ⟨[0x100, q + 256 * p, 1,2,3,4,5,6], acc, seq, false⟩
def lines : List (Fld × Nat) := [(R.PG_IRQ_RAW 8, 5),(R.PG_IRQ_EN 8, 15),(R.IRQ_ROUTE_HARTS 32, 2),(R.IRQ_ROUTE_PRIO 32, 3),(R.IRQ_ROUTE_HARTS 34, 2),(R.IRQ_ROUTE_PRIO 34, 2)]
def qs : List (Fld × Nat) := [(R.SCHED_Q_CFG_EN 3, 1),(R.SCHED_Q_CFG_CAP 3, 2),(R.SCHED_Q_TIME_URGENT_US 3, 10),(R.SCHED_Q_TIME_AGE_STEP_US 3, 4),(R.SCHED_Q_CFG_EN 4, 1),(R.SCHED_Q_CFG_CAP 4, 100),(R.SCHED_CORE_CFG_SLOTS 1, 2),(R.SCHED_CORE_QM_LO_QM 1, 0x18),(R.SCHED_TRACE_CTRL_RUN, 0)]
def Q (l : List (Fld × Nat)) (is : List SchedItem := []) (f : HartS → HartS := id) : State := let s := N (qs ++ l); { s with sched := { s.sched with items := is, seq := 7 }, harts := s.harts.set 1 (f (s.hart 1)), router := { s.router with mtime := 1000 } }
def pst (s : State) (line : Nat) (ws : List Nat) : State := let s := s.setFlds [(R.IRQ_POST_BASE_ADDR, 0x10001000)]; { s with posts := [5, line], mem := { s.mem with sram := memWrite [] (0x1000 + 32 * line) (ws.flatMap (leBytes 4)) } }
def pfill (x : HartS) : HartS := { x with push := [0x100, 3, 1, 2, 3, 4, 5, 6] }

theorem wit_IrqClaims_1 : ∃ (h h' l : Nat) (mmode : Bool) (s : State),
    s.bestLine h = some l :=
  ⟨1, 3, 34, true, (N lines), by decide +kernel⟩

theorem wit_IrqClaims_2 : ∃ (h : Nat) (mmode : Bool) (s : State),
    s.bestLine h = none :=
  ⟨3, true, (N lines), by decide +kernel⟩

theorem wit_IrqClaims_3 : ∃ (h l : Nat) (s : State),
    s.bestLine h = some l :=
  ⟨1, 34, (N lines), by decide +kernel⟩

theorem wit_IrqClaims_4 : ∃ (m : Master) (v : Word) (s : State),
    m.holds rightSecure = true ∧ s.Ok :=
  ⟨(.hart 1 true), 34#32, { (N lines) with router := { claims := [(34,1),(32,2),(34,2)] } },
    by unfold State.Ok; decide +kernel⟩

theorem wit_SchedItems_1 : ∃ (h : Nat) (mmode : Bool) (v : Word) (s : State),
    descriptorOk ((s.hart h).push.set 7 v.toNat) = false :=
  ⟨1, true, 0#32, (Q []), by decide +kernel⟩

theorem wit_SchedItems_2 : ∃ (h : Nat) (mmode : Bool) (v : Word) (s : State),
    s.Ok ∧ s.fld R.SCHED_TRACE_CTRL_RUN = 0 ∧ descriptorOk ((s.hart h).push.set 7 v.toNat) = true :=
  ⟨1, true, 9#32, (Q [] [] pfill), by unfold State.Ok; decide +kernel⟩

theorem wit_SchedItems_3 : ∃ (i : SchedItem) (us : Nat) (s : State),
    s.Ok ∧ ((s.heldItems.find? fun j => j.seq = i.seq && !j.urgent) = some i) ∧ s.urgentAt i = some us :=
  ⟨(it 3 1), 10, (Q [] [it 3 1]), by unfold State.Ok; decide +kernel⟩

theorem wit_SchedItems_4 : ∃ (seq : Nat) (s : State),
    ((∀ i ∈ s.heldItems, i.seq = seq → i.urgent = true)) :=
  ⟨44, (Q [] [it 3 3]), by decide +kernel⟩

theorem wit_SchedRouterAndDispatch_1 : ∃ (line : Nat) (e : Ecc) (s : State),
    s.posts.contains line = false :=
  ⟨33, .clean, (Q []), by decide +kernel⟩

theorem wit_SchedRouterAndDispatch_2 : ∃ (line : Nat) (e : Ecc) (s : State),
    s.router.deferred.contains line = false :=
  ⟨33, .clean, (Q []), by decide +kernel⟩

theorem wit_SchedRouterAndDispatch_3 : ∃ (line : Nat) (s : State),
    s.Ok ∧ s.posts.contains line = true :=
  ⟨33, (pst (Q []) 33 [0x100, 3,0,0,0,0,0,0]), by unfold State.Ok; decide +kernel⟩

theorem wit_SchedRouterAndDispatch_4 : ∃ (line : Nat) (e : Ecc) (s : State),
    s.Ok ∧ s.posts.contains line = true ∧ e ≠ .uncorrectable ∧ s.mem.sramBad = [] ∧
    s.fld R.SCHED_TRACE_CTRL_RUN = 0 ∧
    (descriptorOk ((List.range 8).map fun i => memLE s.mem.sram (s.postAddr line + 4 * i) 4) = true) :=
  ⟨33, .corrected, (pst (Q []) 33 [0x100, 3,0,0,0,0,0,0]), by unfold State.Ok; decide +kernel⟩

theorem wit_SchedRouterAndDispatch_5 : ∃ (line : Nat) (e : Ecc) (s : State),
    s.Ok ∧ s.router.deferred.contains line = true ∧ e ≠ .uncorrectable ∧ s.mem.sramBad = [] ∧
    s.fld R.SCHED_TRACE_CTRL_RUN = 0 ∧
    (descriptorOk ((List.range 8).map fun i => memLE s.mem.sram (s.postAddr line + 4 * i) 4) = true) :=
  ⟨33, .clean, {(pst (Q []) 33 [0x100, 3,0,0,0,0,0,0]) with router := {deferred := [33]}},
    by unfold State.Ok; decide +kernel⟩

theorem wit_SchedRouterAndDispatch_6 : ∃ (h : Nat) (e : Ecc) (s : State),
    (s.schedFenced = true ∨ s.fld (R.SCHED_CORE_CFG_SLOTS h) ≤ (s.hart h).slots.length ∨ s.choose h = none) :=
  ⟨1, .clean, (Q []), by decide +kernel⟩

theorem wit_SchedRouterAndDispatch_7 : ∃ (h : Nat) (i : SchedItem) (e : Ecc) (s : State),
    s.Ok ∧ s.schedFenced = false ∧ e ≠ .uncorrectable ∧ (s.hart h).slots.length < s.fld (R.SCHED_CORE_CFG_SLOTS h) ∧
    s.choose h = some i :=
  ⟨1, (it 3 0 0 2), .clean, (Q [] [it 4 4 0 1, it 3 0 0 2]), by unfold State.Ok; decide +kernel⟩

theorem wit_SchedRouterAndDispatch_8 : ∃ (h : Nat) (i : SchedItem) (s : State),
    s.choose h = some i :=
  ⟨1, (it 3 0 0 2), (Q [] [it 4 4 0 1, it 3 0 0 2]), by decide +kernel⟩

theorem wit_SchedRouterAndDispatch_9 : ∃ (h : Nat) (i : SchedItem) (s : State),
    s.Ok ∧ s.schedFenced = false ∧ s.sched.items = [i] ∧
    (s.hart h).slots.length < s.fld (R.SCHED_CORE_CFG_SLOTS h) ∧ s.choose h = some i :=
  ⟨1, (it 4 4 900 3), (Q [] [it 4 4 900 3]), by unfold State.Ok; decide +kernel⟩

theorem wit_SchedRouterAndDispatch_10 : ∃ (s : State),
    s.Ok :=
  ⟨(Q []), by unfold State.Ok; decide +kernel⟩

theorem wit_SchedCheckpointAndTrace_1 : ∃ (m : Master) (s : State),
    s.Ok ∧ m.holds rightSecure = true :=
  ⟨.block, (Q []), by unfold State.Ok; decide +kernel⟩

theorem wit_SchedCheckpointAndTrace_2 : ∃ (m : Master) (s : State),
    s.Ok ∧ m.holds rightSecure = true ∧
    (leNat (memRead s.mem.ret 0x1000 4) ≠ 0x53434B31 ∨ crc32 (memRead s.mem.ret 0x1000 612) ≠ leNat (memRead s.mem.ret 0x1264 4)) :=
  ⟨.block, (Q []), by unfold State.Ok; decide +kernel⟩

theorem wit_SchedCheckpointAndTrace_3 : ∃ (m : Master) (s : State),
    s.Ok ∧ m.holds rightSecure = true ∧ s.mem.ret = memWrite [] 0x1000 s.ckptBytes :=
  ⟨.block, (let s := Q []; {s with mem := {s.mem with ret := memWrite [] 0x1000 s.ckptBytes}}),
    by unfold State.Ok; decide +kernel⟩

theorem wit_SchedCheckpointAndTrace_4 : ∃ (m : Master) (s : State),
    m.holds rightTrace = false :=
  ⟨(.lcp 1), (Q []), by decide +kernel⟩

theorem wit_SchedCheckpointAndTrace_5 : ∃ (m : Master) (s : State),
    s.Ok ∧ m.holds rightTrace = true ∧ s.sched.trace.length ≤ 1024 :=
  ⟨.block, (let s := Q []; {s with sched := {s.sched with trace := [0x123456789ABC, 5]}}),
    by unfold State.Ok; decide +kernel⟩

theorem wit_SchedCheckpointAndTrace_6 : ∃ (m : Master) (s : State),
    s.Ok :=
  ⟨.block, (let s := Q []; {s with sched := {s.sched with trace := [0x123456789ABC, 5]}}),
    by unfold State.Ok; decide +kernel⟩

theorem wit_TakeSlotZero_1 : ∃ (h : Nat) (mmode : Bool) (s : State),
    (s.hart h).slots = [] :=
  ⟨1, true, (Q []), by decide +kernel⟩

theorem wit_TakeSlotZero_2 : ∃ (m : Master) (n : Nat) (s : State),
    m ∈ [Master.lcp n, .hspi n] ∧ m.holds rightRead = true :=
  ⟨(.lcp 1), 1, (Q [] [] fun x => {x with slots := [it 3 1]}), by decide +kernel⟩

theorem wit_TakeSlotZero_3 : ∃ (h : Nat) (mmode : Bool) (i : SchedItem) (rest : List SchedItem) (s : State),
    s.Ok ∧ h < 8 ∧ (s.hart h).slots = i :: rest :=
  ⟨1, false, (it 3 1), [it 4 2], (Q [] [] fun x => {x with slots := [it 3 1, it 4 2]}),
    by unfold State.Ok; decide +kernel⟩

theorem wit_QueueFlush_1 : ∃ (m : Master) (v : Word) (s : State),
    s.Ok ∧ m.holds rightSecure = true :=
  ⟨.block, 3#32, (Q [] [it 3 3, it 4 4]), by unfold State.Ok; decide +kernel⟩

theorem wit_TraceNeedsPrivilege_1 : ∃ (m : Master) (s : State),
    m.holds rightTrace = false :=
  ⟨(.hart 2 false), (Q []), by decide +kernel⟩

theorem wit_TraceNeedsPrivilege_2 : ∃ (m : Master) (s : State),
    s.Ok ∧ m.holds rightTrace = false :=
  ⟨(.hart 2 false), (Q []), by unfold State.Ok; decide +kernel⟩

theorem wit_TraceNeedsPrivilege_3 : ∃ (m : Master) (off : Nat) (v : Word) (s : State),
    s.Ok ∧ m.holds rightTrace = false ∧ m.holds rightSecure = true ∧ off ∈ [0x600, 0x604, 0x610] ∧
    ((off = 0x600 → v &&& 0x3FFFFFFE#32 = 0)) ∧ ((off = 0x604 → v &&& 0x40404040#32 = 0)) :=
  ⟨(.hart 2 false), 0x604, 0x80000001#32, (Q [(R.PG_LOCK_ARMED 8,1)]), by unfold State.Ok; decide +kernel⟩

theorem wit_TraceNeedsPrivilege_4 : ∃ (m : Master) (off : Nat) (s : State),
    s.Ok ∧ m.holds rightTrace = false ∧ m.mayRead pSCHED off = true ∧ off ∈ [0x600, 0x604, 0x610] :=
  ⟨(.hart 2 false), 0x600, (Q []), by unfold State.Ok; decide +kernel⟩

theorem wit_TraceNeedsPrivilege_5 : ∃ (m : Master) (s : State),
    s.Ok ∧ m.mayRead pSCHED 0x608 = true :=
  ⟨(.lcp 1), (Q [(R.SCHED_TRACE_STAT_ENTRIES,12),(R.SCHED_TRACE_STAT_LOST,77)]), by unfold State.Ok; decide +kernel⟩

end Sched

namespace Lcp

def gParty : List Byte := sec 144 [(0,4,60),(4,4,1),(8,1,4),(9,1,3),(10,1,10),(12,2,2000),(14,2,3000),(16,2,1000),(18,2,0x8000),(20,2,1),(24,4,2),(28,2,1), (32,1,0),(33,1,0),(34,1,3),(36,1,0),(40,4,1000), (96,2,77),(98,2,101),(100,2,0xFFFF),(102,2,5000),(104,4,0xEF000001),(108,4,0xEF000002),(112,4,0xEF000003),(116,4,0xEF000004),(120,1,8),(121,1,3), (128,2,101),(130,2,1)]
def gSecs : List (Nat × List Byte) := (0xFF, gParty) :: sectionLayout.map fun x => (x.1, if x.1 = 0x24 then leBytes 4 0x2200000 else if x.1 = 0x36 then leBytes 4 5 else if x.1 = 0x39 then leBytes 4 1 else if x.1 = 0x20 then sec x.2.1 [(8,4,0x10000),(12,4,0x18000)] else List.replicate x.2.1 0)
def gDesc (id : Nat) : List Byte := let n := gSecs.length; let base := 64 + 16 * n; let offs := (gSecs.foldl (fun (acc : List Nat × Nat) x => (acc.1 ++ [acc.2], acc.2 + x.2.length)) ([], base)); let hdr := sec 64 [(0,4,0x47454E31),(4,2,id),(6,1,1),(8,4,offs.2),(12,2,n),(16,4,base),(20,4,144)]; hdr ++ ((gSecs.zip offs.1).flatMap fun x => leBytes 1 x.1.1 ++ [1,0,0] ++ leBytes 4 x.2 ++ leBytes 4 x.1.2.length ++ leBytes 4 (crc32 x.1.2)) ++ gSecs.flatMap (·.2)
def gState (s : State) : State := ({ s with mem := {s.mem with store := memWrite [] 128 (gDesc 9)}, commit := {s.commit with cur := some 0, slots := [{digest := [1], sound := true, party := gParty, segment := some 1, ingest := some ingestSec, order := 1}, {}, {}, {}]}, lcp := {s.lcp with leases := [(1,101,4,10^15)]} } : State).showParty
def x0 : LcpSession := { id := 0xA11, entry := 3, rights := 63, keys := [], seen := [5,6], tx := 2, done := [(5,1,[1,2]),(6,2,[3])] }
def xr (n : Nat) : LcpSession := { x0 with rights := n }
def q7 : LcpReq := ⟨0xA11, 7, 0x77, none⟩
def qn (n : Nat) : LcpReq := ⟨0xA11, n, 0x77, none⟩
def Q (l : List (Fld × Nat)) (g : State → State := id) : State := let s := Run ([(R.PWR_RESULT_BUSY,0),(R.FLASH_CTRL_GO,0),(R.BELAY_STATUS_RESYNC_BUSY,0),(R.STORE_STATUS_INIT_DONE,1),(R.STORE_STATUS_WAKE_SCRUB,0),(R.COMMIT_STAGE_CTRL_GO,0),(R.ANCHOR_STATUS_BUSY,0),(R.UPD_STATE_XFER,0)] ++ l); g { s with lcp := {s.lcp with sessions := [x0, {x0 with id := 9, done := []}] } }
def wr (n : Nat) (s : State) : State := { s with lcp := {s.lcp with sessions := [xr n, {x0 with id := 9, done := []}] } }
def cpd (s : State) : State := { s with rst := {s.rst with cpDown := true}}
def hello : List Byte := beBytes 2 0x4C43 ++ [1, 1] ++ beBytes 4 0 ++ beBytes 4 1 ++ beBytes 2 168 ++ beBytes 2 0 ++ List.replicate 152 7
def full (s : State) : State := { s with lcp := {s.lcp with sessions := (List.range 8).map fun i => {x0 with id := i + 1}}}
def xf (s : State) : State := ({ s with upd := {s.upd with session := some 0xA11, bodyLen := 1000, next := 16, op := 0}}).setFld R.UPD_STATE_XFER 1
def xf2 (s : State) : State := let t := xf s; { t with upd := {t.upd with bodyLen := 16}}
def op3 (s : State) : State := { s with upd := {s.upd with op := 3}}
def smt (l : List (Nat × Nat × Nat × Nat)) (s : State) : State := { s with lcp := {s.lcp with leases := l}}
def stf (s : State) : State := { s with mem := {s.mem with store := memWrite [] 0x1000 [1,2,3,4,5,6,7,8,9], sram := memWrite [] 0x100 [9,8,7,6,5,4,3,2]} }
def sbad (s : State) : State := { s with mem := {s.mem with storeBad := [0x202, 0x204]} }
def calFile : List Byte := let body := List.replicate 24 0#8; let h := sec 124 [(0,4,0x4C41434C),(4,2,1),(6,2,128),(8,2,1),(10,2,1),(12,4,1),(16,2,24),(20,4,24),(24,4,crc32 body)]; h ++ leBytes 4 (crc32 h) ++ body
def calf (s : State) : State := { s with mem := {s.mem with store := memWrite [] 0x38000000 calFile} }
def own (s : State) : State := (smt [(1, 101, 4, 10^15)] s)
def raw (a n : Nat) : List (Fld × Nat) := [(R.LCP_XA_BUF_ADDR, 0x10000100),(R.LCP_XA_ADDR_LO_A_LO, a),(R.LCP_XA_ADDR_HI_A_HI, 0),(R.SYS_MEM_UE_N,n)]

theorem wit_RegisterWrites_1 : ∃ (m : Master) (page off : Nat) (v : Word) (r : RegSpec) (s : State),
    s.Ok ∧ pageAssigned page = true ∧ s.pageAbsent page = false ∧ off < 4096 ∧ off % 4 = 0 ∧
    findReg page off = some r ∧ v.toNat &&& notBits r.known = 0 ∧ (s.specialWrite m page off v).isSome = false ∧
    (page = pGPIO ∨ page = pTEMP ∨ page = pFAN ∨ page = pPARTY ∨ page = pBELAY) ∧ m.mayWrite page off = true :=
  ⟨.block, 0x4D, 0x040, 0xA5A5#32, ((findReg 0x4D 0x040).getD ⟨0,0,0,0,0,0,0,0,0,0⟩), (Q []),
    by unfold State.Ok; decide +kernel⟩

theorem wit_RegisterWrites_2 : ∃ (m : Master) (page off : Nat) (v : Word) (s : State),
    s.Ok ∧ pageAssigned page = true ∧ s.pageAbsent page = false ∧ off < 4096 ∧ off % 4 = 0 ∧
    (findReg page off).isSome = false :=
  ⟨.block, 0x4D, 0xFF0, 0xA5A5#32, (Q []), by unfold State.Ok; decide +kernel⟩

theorem wit_RegisterWrites_3 : ∃ (h : Nat) (mmode : Bool) (page off : Nat) (v : Word) (s : State),
    s.Ok ∧ page < 80 ∧ off < 4096 ∧ off % 4 ≠ 0 ∧ h < 8 :=
  ⟨3, true, 0x4D, 0xFF1, 0xA5A5#32, (Q []), by unfold State.Ok; decide +kernel⟩

theorem wit_RegisterWrites_4 : ∃ (rights page off : Nat) (v : Word) (s : State),
    s.Ok ∧ page < 80 ∧ off < 4096 ∧ off % 4 ≠ 0 :=
  ⟨3, 0x4D, 0xFF1, 0xA5A5#32, (Q []), by unfold State.Ok; decide +kernel⟩

theorem wit_RegisterWrites_5 : ∃ (rights page off : Nat) (v : Word) (s : State),
    s.Ok ∧ pageAssigned page = false ∧ off < 4096 ∧ off % 4 = 0 :=
  ⟨3, 0x47, 0xFF0, 0xA5A5#32, (Q []), by unfold State.Ok; decide +kernel⟩

theorem wit_RegisterWrites_6 : ∃ (h page off : Nat) (v : Word) (s : State),
    s.Ok ∧ pageAssigned page = false ∧ page < 80 ∧ off < 4096 ∧ off % 4 = 0 ∧ h < 8 :=
  ⟨3, 0x47, 0xFF0, 0xA5A5#32, (Q []), by unfold State.Ok; decide +kernel⟩

theorem wit_RegisterWrites_7 : ∃ (rights : Nat) (v : Word) (s : State),
    s.Ok ∧ (Master.lcp rights).holds rightLive = false ∧ v.toNat < 65536 :=
  ⟨4, 0xA5A5#32, (Q []), by unfold State.Ok; decide +kernel⟩

theorem wit_RegisterWrites_8 : ∃ (m : Master) (v : Word) (s : State),
    s.Ok ∧ m.holds rightSecure = true ∧ v.toNat < 4096 ∧ v.toNat % 4 = 0 ∧ v &&& 0x7FE000#32 = 0 ∧
    0x10000000 ≤ s.fld R.LCP_XA_BUF_ADDR ∧ s.fld R.LCP_XA_BUF_ADDR + v.toNat ≤ 0x10400000 ∧
    s.fld R.LCP_XA_ADDR_LO_A_LO % 4 ≠ 0 :=
  ⟨.block, 16#32, (Q (raw 0x40012069 0)), by unfold State.Ok; decide +kernel⟩

theorem wit_RegisterWrites_9 : ∃ (m : Master) (s : State),
    s.Ok ∧ m.holds rightSecure = true ∧ 0x10000000 ≤ s.fld R.LCP_XA_BUF_ADDR ∧
    s.fld R.LCP_XA_BUF_ADDR + 4 ≤ 0x10400000 ∧ s.fld R.LCP_XA_ADDR_LO_A_LO = 0x40012068 ∧ s.latches = [] :=
  ⟨.block, (Q (raw 0x40012068 0) stf), by unfold State.Ok; decide +kernel⟩

theorem wit_RegisterWrites_10 : ∃ (m : Master) (v : Nat) (s : State),
    s.Ok ∧ m.holds rightSecure = true ∧ 0x10000000 ≤ s.fld R.LCP_XA_BUF_ADDR ∧
    s.fld R.LCP_XA_BUF_ADDR + 4 ≤ 0x10400000 ∧ s.fld R.LCP_XA_ADDR_LO_A_LO = 0x4004D044 ∧ v < 65536 ∧
    memRead s.mem.sram (s.fld R.LCP_XA_BUF_ADDR - 0x10000000) 4 = leBytes 4 v :=
  ⟨.block, 0x0609, (Q (raw 0x4004D044 0) fun s => {s with mem := {s.mem with sram := memWrite [] 0x100 [9,6]}}),
    by unfold State.Ok; decide +kernel⟩

theorem wit_RegisterWrites_11 : ∃ (m : Master) (n : Nat) (s : State),
    s.Ok ∧ m.holds rightSecure = true ∧ n ≤ 4096 ∧ n % 8 = 0 ∧ 0x10000000 ≤ s.fld R.LCP_XA_BUF_ADDR ∧
    s.fld R.LCP_XA_BUF_ADDR + n ≤ 0x10400000 ∧ s.fld R.LCP_XA_ADDR_HI_A_HI = 0 ∧ s.storeCtl.unusable = false ∧
    s.fld R.STORE_STATUS_INIT_DONE = 1 ∧ s.mem.storeBad = [] ∧ s.fld R.LCP_XA_ADDR_LO_A_LO + n ≤ s.storeSize :=
  ⟨.block, 16, (Q (raw 0x1000 0) stf), by unfold State.Ok; decide +kernel⟩

theorem wit_RegisterWrites_12 : ∃ (m : Master) (n : Nat) (s : State),
    s.Ok ∧ m.holds rightSecure = true ∧ n ≤ 4096 ∧ n % 8 = 0 ∧ 0 < n ∧ 0x10000000 ≤ s.fld R.LCP_XA_BUF_ADDR ∧
    s.fld R.LCP_XA_BUF_ADDR + n ≤ 0x10400000 ∧ s.fld R.LCP_XA_ADDR_HI_A_HI = 0 ∧ s.storeCtl.unusable = false ∧
    s.fld R.STORE_STATUS_INIT_DONE = 1 ∧ s.mem.storeBad = [] ∧ 0x38000000 ≤ s.fld R.LCP_XA_ADDR_LO_A_LO ∧
    s.fld R.LCP_XA_ADDR_LO_A_LO + n ≤ 0x48000000 ∧ s.fld R.LCP_XA_ADDR_LO_A_LO + n ≤ s.storeSize :=
  ⟨.block, 8, (Q (raw 0x38001000 0) stf), by unfold State.Ok; decide +kernel⟩

theorem wit_RegisterWrites_13 : ∃ (m : Master) (v : Word) (s : State),
    s.Ok ∧ m.holds rightSecure = true ∧ v &&& 0x7FE000#32 = 0 ∧ 4096 < v.toNat % 2 ^ 13 :=
  ⟨.block, 0x1001#32, (Q (raw 0x38001000 0) stf), by unfold State.Ok; decide +kernel⟩

theorem wit_LcpSessions_1 : ∃ (q : LcpReq) (p : Port) (a b d : Nat) (bs : List Byte) (ws : List Word) (r : Bool) (s : State),
    s.Ok ∧ s.lcpServes = false :=
  ⟨q7, .a, 1, 2, 3, [1], [], true, (Q [] cpd), by unfold State.Ok; decide +kernel⟩

theorem wit_LcpSessions_2 : ∃ (q : LcpReq) (a b d : Nat) (bs : List Byte) (ws : List Word) (r : Bool) (s : State),
    s.Ok ∧ s.lcpServes = true ∧ s.session q.session = none :=
  ⟨⟨1,1,1,none⟩, 1, 2, 3, [1], [], true, (Q []), by unfold State.Ok; decide +kernel⟩

theorem wit_LcpSessions_3 : ∃ (q : LcpReq) (a b d n : Nat) (body bs : List Byte) (x : LcpSession) (ws : List Word) (r : Bool) (s : State),
    s.Ok ∧ s.lcpServes = true ∧ s.session q.session = some x ∧
    ((x.done.find? fun e => e.1 == q.seq) = some (q.seq, n, body)) :=
  ⟨(qn 6), 1, 2, 3, 2, [3], [1], x0, [], true, (Q []), by unfold State.Ok; decide +kernel⟩

theorem wit_LcpSessions_4 : ∃ (q : LcpReq) (a b d : Nat) (bs : List Byte) (x : LcpSession) (ws : List Word) (r : Bool) (s : State),
    s.Ok ∧ s.lcpServes = true ∧ s.session q.session = some x ∧ ((∀ e ∈ x.done, e.1 ≠ q.seq)) ∧
    (q.seq ∈ x.seen ∨ (∃ y ∈ x.seen, q.seq + 63 < y)) :=
  ⟨(qn 100), 1, 2, 3, [1], {x0 with seen := [100,200]}, [], true,
    (Q [] fun s => {s with lcp := {s.lcp with sessions := [{x0 with seen := [100,200]}]}}),
    by unfold State.Ok; decide +kernel⟩

theorem wit_LcpSessions_5 : ∃ (q : LcpReq) (a b d op : Nat) (bs : List Byte) (x : LcpSession) (ws : List Word) (r : Bool) (s : State),
    s.Ok ∧ ReqAccepted s q x ∧ q.malformed = some op :=
  ⟨{q7 with malformed := some 0x42}, 1, 2, 3, 0x42, [1], x0, [], true, (Q []),
    by unfold State.Ok ReqAccepted; decide +kernel⟩

theorem wit_LcpSessions_6 : ∃ (p : Port) (b : List Byte) (s : State),
    s.Ok ∧ s.lcpServes = true ∧ helloOk b = false :=
  ⟨.a, [1,2], (Q []), by unfold State.Ok; decide +kernel⟩

theorem wit_LcpSessions_7 : ∃ (p : Port) (b : List Byte) (s : State),
    s.Ok ∧ s.lcpServes = true ∧ helloOk b = true ∧ s.lcp.sessions.length < 8 :=
  ⟨.a, hello, (Q []), by unfold State.Ok; decide +kernel⟩

theorem wit_LcpSessions_8 : ∃ (p : Port) (b : List Byte) (s : State),
    s.Ok ∧ s.lcpServes = true ∧ helloOk b = true ∧ 8 ≤ s.lcp.sessions.length :=
  ⟨.b, hello, (Q [] full), by unfold State.Ok; decide +kernel⟩

theorem wit_LcpSessions_9 : ∃ (session seq : Nat) (s : State),
    s.Ok ∧ s.lcpServes = true :=
  ⟨0xA11, 7, (Q [] xf), by unfold State.Ok; decide +kernel⟩

theorem wit_LcpSessions_10 : ∃ (session : Nat) (s : State),
    s.Ok :=
  ⟨0xA11, (Q []), by unfold State.Ok; decide +kernel⟩

theorem wit_LcpSessions_11 : ∃ (code : Nat) (s : State),
    s.Ok ∧ s.lcpServes = true ∧ code ∈ [0x0101, 0x0102, 0x0104] :=
  ⟨0x104, (Q [] xf), by unfold State.Ok; decide +kernel⟩

theorem wit_LcpSessions_12 : ∃ (s : State),
    s.Ok :=
  ⟨(Q [] xf), by unfold State.Ok; decide +kernel⟩

theorem wit_LcpRequests_1 : ∃ (q : LcpReq) (x : LcpSession) (addr count : Nat) (s : State),
    s.Ok ∧ Executes s q x ∧ 256 < count :=
  ⟨q7, x0, 0x40012068, 257, (Q []), by unfold State.Ok Executes ReqAccepted; decide +kernel⟩

theorem wit_LcpRequests_2 : ∃ (q : LcpReq) (x : LcpSession) (addr : Nat) (s : State),
    s.Ok ∧ Executes s q x :=
  ⟨q7, x0, 0x2068, (Q []), by unfold State.Ok Executes ReqAccepted; decide +kernel⟩

theorem wit_LcpRequests_3 : ∃ (q : LcpReq) (x : LcpSession) (s : State),
    s.Ok ∧ Executes s q x ∧ x.rights.testBit 0 = true ∧ s.latches = [] :=
  ⟨q7, x0, (Q [] fun s => {s with ptp := {s.ptp with ns := 123456789123456789123}}),
    by unfold State.Ok Executes ReqAccepted; decide +kernel⟩

theorem wit_LcpRequests_4 : ∃ (q : LcpReq) (x : LcpSession) (addr count : Nat) (s : State),
    s.Ok ∧ Executes s q x ∧ 0 < count ∧ count ≤ 256 ∧ addr % 4 ≠ 0 :=
  ⟨q7, x0, 0x2062, 256, (Q []), by unfold State.Ok Executes ReqAccepted; decide +kernel⟩

theorem wit_LcpRequests_5 : ∃ (q : LcpReq) (x : LcpSession) (addr count : Nat) (s : State),
    s.Ok ∧ Executes s q x ∧ 0 < count ∧ count ≤ 256 ∧ addr % 4 = 0 ∧ (addr < 0x40000000 ∨ 0x40050000 ≤ addr) :=
  ⟨q7, x0, 0x2060, 2, (Q []), by unfold State.Ok Executes ReqAccepted; decide +kernel⟩

theorem wit_LcpRequests_6 : ∃ (q : LcpReq) (x : LcpSession) (addr count : Nat) (s : State),
    s.Ok ∧ Executes s q x ∧ 0 < count ∧ count ≤ 256 ∧ addr % 4 = 0 ∧ 0x40000000 ≤ addr ∧
    pageAssigned ((addr - 0x40000000) / 0x1000) = true ∧ x.rights.testBit 0 = false :=
  ⟨q7, (xr 2), 0x40012068, 2, (Q [] (wr 2)), by unfold State.Ok Executes ReqAccepted; decide +kernel⟩

theorem wit_LcpRequests_7 : ∃ (q : LcpReq) (x : LcpSession) (addr : Nat) (s : State),
    s.Ok ∧ Executes s q x :=
  ⟨q7, (xr 2), 0x40012068, (Q [] (wr 2)), by unfold State.Ok Executes ReqAccepted; decide +kernel⟩

theorem wit_LcpRequests_8 : ∃ (q : LcpReq) (x : LcpSession) (v : Word) (s : State),
    s.Ok ∧ Executes s q x ∧ v.toNat < 65536 ∧ x.rights.testBit 1 = true :=
  ⟨q7, x0, 0xA5A5#32, (Q []), by unfold State.Ok Executes ReqAccepted; decide +kernel⟩

theorem wit_LcpRequests_9 : ∃ (q : LcpReq) (x : LcpSession) (s : State),
    s.Ok ∧ Executes s q x ∧ x.rights.testBit 1 = true ∧ x.rights.testBit 5 = false :=
  ⟨q7, (xr 2), (Q [] (wr 2)), by unfold State.Ok Executes ReqAccepted; decide +kernel⟩

theorem wit_LcpRequests_10 : ∃ (q : LcpReq) (x : LcpSession) (v : Word) (ws : List Word) (s : State),
    s.Ok ∧ Executes s q x ∧ x.rights.testBit 1 = false ∧ v.toNat < 65536 :=
  ⟨q7, (xr 4), 5#32, [3], (Q [] (wr 4)), by unfold State.Ok Executes ReqAccepted; decide +kernel⟩

theorem wit_LcpRequests_11 : ∃ (q : LcpReq) (x : LcpSession) (addr n : Nat) (s : State),
    s.Ok ∧ Executes s q x :=
  ⟨q7, x0, 0x1000, 16, (Q [] stf), by unfold State.Ok Executes ReqAccepted; decide +kernel⟩

theorem wit_LcpRequests_12 : ∃ (q : LcpReq) (x : LcpSession) (addr n : Nat) (data : List Byte) (s : State),
    s.Ok ∧ Executes s q x ∧ data.length ≠ n :=
  ⟨q7, x0, 0x1000, 16, [1], (Q []), by unfold State.Ok Executes ReqAccepted; decide +kernel⟩

theorem wit_LcpRequests_13 : ∃ (q : LcpReq) (x : LcpSession) (addr n : Nat) (data : List Byte) (s : State),
    s.Ok ∧ Executes s q x ∧ data.length = n ∧ (n % 8 ≠ 0 ∨ 1024 < n) :=
  ⟨q7, x0, 0x1000, 1, [1], (Q []), by unfold State.Ok Executes ReqAccepted; decide +kernel⟩

theorem wit_LcpRequests_14 : ∃ (q : LcpReq) (x : LcpSession) (addr n : Nat) (data : List Byte) (s : State),
    s.Ok ∧ Executes s q x ∧ data.length = n ∧ n % 8 = 0 ∧ 0 < n ∧ n ≤ 1024 ∧ addr % 8 = 0 ∧ 0x1C000000 ≤ addr ∧
    addr + n ≤ 0x48000000 ∧ addr + n ≤ s.storeSize :=
  ⟨q7, x0, 0x38001000, 8, [1,2,3,4,5,6,7,8], (Q [] stf), by unfold State.Ok Executes ReqAccepted; decide +kernel⟩

theorem wit_LcpRequests_15 : ∃ (q : LcpReq) (x : LcpSession) (addr n : Nat) (data : List Byte) (s : State),
    s.Ok ∧ Executes s q x ∧ data.length = n ∧ n % 8 = 0 ∧ 0 < n ∧ n ≤ 1024 ∧ addr + n ≤ 0x1C000000 ∧
    addr + n ≤ s.storeSize ∧ x.rights.testBit 2 = true ∧ s.storeCtl.unusable = false ∧
    s.fld R.STORE_STATUS_INIT_DONE = 1 ∧ s.resyncing = false :=
  ⟨q7, x0, 0x5000, 8, [1,2,3,4,5,6,7,8], (Q [] (own ∘ stf)),
    by unfold State.Ok Executes ReqAccepted; decide +kernel⟩

theorem wit_LcpRequests_16 : ∃ (q : LcpReq) (x : LcpSession) (slot addr : Nat) (s : State),
    s.Ok ∧ Executes s q x :=
  ⟨q7, x0, 4, 8, (Q [] own), by unfold State.Ok Executes ReqAccepted; decide +kernel⟩

theorem wit_LcpRequests_17 : ∃ (q : LcpReq) (x : LcpSession) (src dst len : Nat) (s : State),
    s.Ok ∧ Executes s q x :=
  ⟨q7, x0, 0xE00000, 0x200000, 152, (Q [] (own ∘ calf)), by unfold State.Ok Executes ReqAccepted; decide +kernel⟩

theorem wit_LcpRequests_18 : ∃ (q : LcpReq) (x : LcpSession) (scope : Nat) (s : State),
    s.Ok ∧ Executes s q x :=
  ⟨q7, x0, 1, (Q []), by unfold State.Ok Executes ReqAccepted; decide +kernel⟩

theorem wit_LcpRequests_19 : ∃ (q : LcpReq) (x : LcpSession) (segment module : Nat) (s : State),
    s.Ok ∧ Executes s q x :=
  ⟨q7, x0, 5, 77, (Q [] (smt [(5, 77, 4, 10^15)])), by unfold State.Ok Executes ReqAccepted; decide +kernel⟩

theorem wit_LcpImages_1 : ∃ (q : LcpReq) (x : LcpSession) (header : List Byte) (s : State),
    s.Ok ∧ Executes s q x ∧ x.tx + 1 < 0xFFFFFFFF :=
  ⟨q7, x0, [1], (Q []), by unfold State.Ok Executes ReqAccepted; decide +kernel⟩

theorem wit_LcpImages_2 : ∃ (q : LcpReq) (x : LcpSession) (offset : Nat) (data : List Byte) (s : State),
    s.Ok ∧ Executes s q x ∧ x.tx + 1 < 0xFFFFFFFF :=
  ⟨q7, x0, 16, [1,2,3,4,5,6,7,8], (Q []), by unfold State.Ok Executes ReqAccepted; decide +kernel⟩

theorem wit_LcpImages_3 : ∃ (q : LcpReq) (x : LcpSession) (s : State),
    s.Ok ∧ Executes s q x ∧ x.tx + 1 < 0xFFFFFFFF :=
  ⟨q7, x0, (Q []), by unfold State.Ok Executes ReqAccepted; decide +kernel⟩

theorem wit_LcpImages_4 : ∃ (q : LcpReq) (x : LcpSession) (scope version frame : Nat) (s : State),
    s.Ok ∧ Executes s q x ∧ x.tx + 1 < 0xFFFFFFFF ∧ version < 2 ^ 48 ∧ frame < 2 ^ 48 :=
  ⟨q7, x0, 0, 0, 100, (Q []), by unfold State.Ok Executes ReqAccepted; decide +kernel⟩

end Lcp

namespace Side

def key : List Byte := List.replicate 16 3
def Q (l : List (Fld × Nat)) (f : SideS → SideS := id) : State := let s := N ([(R.PWR_STATE_STATE,0),(R.PTP_STATE_STATE,0),(R.PG_FENCE_ACTIVE pSIDE,0),(R.SYS_RADIO_ACTIVE,1),(R.SIDEPHY_CFG_EN,1),(R.SIDE_CFG_EN,1),(R.SIDEPHY_CFG_MODE,0),(R.SIDE_CFG_NET_ID,9),(R.SIDE_CFG_ADDR,44),(R.SIDE_KEYSTAT_EXHAUSTED,0),
 (R.SIDEPHY_SB_RANGE_LO_KHZ 0,0),(R.SIDEPHY_SB_RANGE_HI_KHZ 0,6000),(R.SIDEPHY_SB_LIMIT_DUTY 0,500),(R.SIDEPHY_SB_LIMIT_RESERVE 0,10),(R.SIDEPHY_DMAP_CH 0,6),(R.SIDEPHY_DMAP_CH 1,0),(R.SIDEPHY_DMAP_CH 2,0),(R.SIDEPHY_DMAP_CH 3,0),(R.SIDEPHY_DMAP_CH 4,0),(R.SIDE_RETRY_RETRIES,2),(R.SIDEPHY_CFG_PRE_LEN,8),(R.SIDE_BEACON_PERIOD_S,3)] ++ l); { s with side := f { s.side with keys := [some key, some key, none, none] } }
def x0 : SideTx := { slot := some 3, type := 2, ackReq := true, dst := 70, key := 1, cls := 0, payload := [1,2,3] }
def ci : ConnectInfo := ⟨100, 1000, 10, 5, 3, 20, 0xFF⟩
def cp : List Byte := beBytes 2 100 ++ beBytes 2 1000 ++ beBytes 2 10 ++ [5,3,20,0] ++ leBytes 20 0xFF
def lk : SideLink := ⟨false, 70, 1, 9, ci, 4, true, 2, 5, none, [], none⟩
def SL (x : SideLink) : SideS → SideS := fun d => {d with links := [none, none, some x, none, none, none, none, none]}
def fr : SideFrame := ⟨9, 44, 70, 1, 33, 3, 12, 0, [], 200, 777⟩

theorem wit_SideSendGo_1 : ∃ (c : Instr) (m : Master) (k : Nat) (s : State),
    c ∈ [Instr.sideSendData m k, .sideSendConnect m k, .sideSendLink m k, .sideSendTerminate m k, .sideSendBeacon m k, .sideSendWake m k, .sideRxReturn m k] ∧
    s.variant = .v16N :=
  ⟨(.sideSendData .block 3), .block, 3, {(Q [(R.SIDE_TX_BUSY 3, 1)]) with variant := .v16N}, by decide +kernel⟩

theorem wit_SideSendGo_2 : ∃ (c : Instr) (m : Master) (k : Nat) (s : State),
    c ∈ [Instr.sideSendData m k, .sideSendConnect m k, .sideSendLink m k, .sideSendTerminate m k, .sideSendBeacon m k, .sideSendWake m k] ∧
    s.Ok ∧ s.variant ≠ .v16N ∧ m.holds rightConfig = true ∧ k < 16 ∧ s.fld (R.SIDE_TX_BUSY k) = 1 :=
  ⟨(.sideSendData .block 3), .block, 3, (Q [(R.SIDE_TX_BUSY 3, 1)]), by unfold State.Ok; decide +kernel⟩

theorem wit_SideSendGo_3 : ∃ (c : Instr) (m : Master) (k : Nat) (s : State),
    c ∈ [Instr.sideSendData m k, .sideSendConnect m k, .sideSendLink m k, .sideSendTerminate m k, .sideSendBeacon m k, .sideSendWake m k] ∧
    s.Ok ∧ s.variant ≠ .v16N ∧ m.holds rightConfig = true ∧ k < 16 ∧ s.fld (R.SIDE_TX_BUSY k) = 0 ∧
    5 < s.fld (R.SIDE_TX_KIND k) :=
  ⟨(.sideSendWake .block 3), .block, 3, (Q [(R.SIDE_TX_BUSY 3, 0),(R.SIDE_TX_KIND 3, 7)]),
    by unfold State.Ok; decide +kernel⟩

theorem wit_SideSendGo_4 : ∃ (c : Instr) (m : Master) (k : Nat) (s : State),
    c ∈ [Instr.sideSendData m k, .sideSendConnect m k, .sideSendLink m k, .sideSendTerminate m k, .sideSendBeacon m k, .sideSendWake m k] ∧
    s.Ok ∧ s.variant ≠ .v16N ∧ m.holds rightConfig = true ∧ k < 16 ∧ s.fld (R.SIDE_TX_BUSY k) = 0 ∧
    s.fld (R.SIDE_TX_KIND k) ≤ 5 ∧ kindMax (s.fld (R.SIDE_TX_KIND k)) < s.fld (R.SIDE_TX_LEN k) :=
  ⟨(.sideSendLink .block 3), .block, 3, (Q [(R.SIDE_TX_BUSY 3, 0),(R.SIDE_TX_KIND 3, 1),(R.SIDE_TX_LEN 3, 31)]),
    by unfold State.Ok; decide +kernel⟩

theorem wit_SideSendGo_5 : ∃ (c : Instr) (m : Master) (k : Nat) (s : State),
    c ∈ [Instr.sideSendData m k, .sideSendConnect m k, .sideSendBeacon m k, .sideSendWake m k] ∧ s.Ok ∧
    m.holds rightConfig = true ∧ k < 16 ∧ s.fld (R.SIDE_TX_BUSY k) = 0 ∧ s.fld (R.SIDE_TX_KIND k) ∈ [0, 1, 4, 5] ∧
    s.fld (R.SIDE_TX_LEN k) ≤ kindMax (s.fld (R.SIDE_TX_KIND k)) ∧ s.radioOn = true ∧
    s.keyLoaded (s.fld (R.SIDE_TX_KEY k)) = true ∧ s.bit R.SIDE_KEYSTAT_EXHAUSTED (s.fld (R.SIDE_TX_KEY k)) = false :=
  ⟨(.sideSendBeacon .block 3), .block, 3,
    (Q [(R.SIDE_TX_BUSY 3, 0),(R.SIDE_TX_KIND 3, 1),(R.SIDE_TX_LEN 3, 30),(R.SIDE_TX_KEY 3,1)]),
    by unfold State.Ok; decide +kernel⟩

theorem wit_SideSendGo_6 : ∃ (c : Instr) (m : Master) (k : Nat) (x : SideLink) (s : State),
    c ∈ [Instr.sideSendLink m k, .sideSendTerminate m k] ∧ s.Ok ∧ m.holds rightConfig = true ∧ k < 16 ∧
    s.fld (R.SIDE_TX_BUSY k) = 0 ∧ s.fld (R.SIDE_TX_KIND k) ∈ [2, 3] ∧
    s.fld (R.SIDE_TX_LEN k) ≤ kindMax (s.fld (R.SIDE_TX_KIND k)) ∧ s.link (s.fld (R.SIDE_TX_LINK k)) = some x ∧
    s.radioOn = true ∧ s.keyLoaded x.key = true ∧ s.bit R.SIDE_KEYSTAT_EXHAUSTED x.key = false :=
  ⟨(.sideSendLink .block 3), .block, 3, lk,
    (Q [(R.SIDE_TX_BUSY 3, 0),(R.SIDE_TX_KIND 3, 2),(R.SIDE_TX_LEN 3, 0),(R.SIDE_TX_LINK 3,2)] (SL lk)),
    by unfold State.Ok; decide +kernel⟩

theorem wit_SideTransmission_1 : ∃ (m : Master) (v : Word) (s : State),
    s.Ok ∧ m.holds rightSecure = true :=
  ⟨.block, 2, (N [(R.SYS_STRAP_REGION,3),(R.SYS_RADIO_ACTIVE,0)]), by unfold State.Ok; decide +kernel⟩

theorem wit_SideTransmission_2 : ∃ (s : State),
    s.Ok :=
  ⟨(Q []), by unfold State.Ok; decide +kernel⟩

theorem wit_SideTransmission_3 : ∃ (m : Master) (s : State),
    s.Ok ∧ s.variant ≠ .v16N ∧ m.mayRead pSIDE 0x058 = true :=
  ⟨.block, (Q []), by unfold State.Ok; decide +kernel⟩

theorem wit_SideTransmission_4 : ∃ (x y : SideTx) (rest : List SideTx) (ch : Nat) (s : State),
    s.Ok ∧ s.radioOn = true ∧ s.channelsOk s.discList = true ∧ s.side.cur = none ∧ s.side.queue = x :: rest ∧
    (y = (if x.type = 1 then { x with payload := s.beaconPayload } else x)) ∧ s.discChannel = some ch ∧
    s.fitsSecond y = true ∧ x.fc = none ∧ ((∀ k ∈ x.slot.toList, k < 16)) ∧
    s.mayRadiate ch x.cls (s.ppduTime (psduLen y.payload.length)) = true ∧ s.txCounter x.key + 1 < 0xFFFFFFFF :=
  ⟨x0, x0, [x0], 2, (Q [(R.SIDEPHY_DISC_BASE,1),(R.SIDEPHY_DISC_HOP,0)] fun d => {d with queue := [x0,x0]}),
    by unfold State.Ok; decide +kernel⟩

theorem wit_SideTransmission_5 : ∃ (x y : SideTx) (rest : List SideTx) (ch : Nat) (s : State),
    s.Ok ∧ s.radioOn = true ∧ s.channelsOk s.discList = true ∧ s.side.cur = none ∧ s.side.queue = x :: rest ∧
    (y = (if x.type = 1 then { x with payload := s.beaconPayload } else x)) ∧ s.discChannel = some ch ∧
    s.fitsSecond y = true ∧ x.waited = false ∧ s.mayRadiate ch x.cls (s.ppduTime (psduLen y.payload.length)) = false :=
  ⟨x0, x0, [x0], 2,
    (Q [(R.SIDEPHY_DISC_BASE,1),(R.SIDEPHY_DISC_HOP,0),(R.SIDEPHY_SB_LIMIT_DUTY 0,0)] fun d => {d with queue := [x0,x0]}),
    by unfold State.Ok; decide +kernel⟩

theorem wit_SideTransmission_6 : ∃ (x y : SideTx) (rest : List SideTx) (ch : Nat) (s : State),
    s.Ok ∧ s.radioOn = true ∧ s.channelsOk s.discList = true ∧ s.side.cur = none ∧ s.side.queue = x :: rest ∧
    (y = (if x.type = 1 then { x with payload := s.beaconPayload } else x)) ∧ s.discChannel = some ch ∧
    s.discTime.2.2 ≠ 0 ∧
    (1000000 < s.discTime.2.1 + s.ppduTime (psduLen y.payload.length) + (if x.ackReq then 1200 + s.octetTime (s.fld R.SIDEPHY_CFG_PRE_LEN + 2) else 0) + 2000) :=
  ⟨x0, x0, [x0], 2,
    (let s := Q [(R.SIDEPHY_DISC_BASE,1),(R.SIDEPHY_DISC_HOP,0),(R.PTP_STATE_STATE,4)] fun d => {d with queue := [x0,x0]}; {s with ptp := {s.ptp with ns := 5999000000}}),
    by unfold State.Ok; decide +kernel⟩

theorem wit_SideTransmission_7 : ∃ (s : State),
    s.Ok ∧ s.radioOn = true :=
  ⟨(Q []), by unfold State.Ok; decide +kernel⟩

theorem wit_SideTransmission_8 : ∃ (e : Ecc) (s : State),
    s.radioOn = false :=
  ⟨.clean, (Q [(R.SIDE_CFG_EN,0)]), by decide +kernel⟩

theorem wit_SideTransmission_9 : ∃ (x : SideTx) (s : State),
    s.Ok ∧ s.side.cur = some x ∧ x.awaiting = true ∧ ((∀ k ∈ x.slot.toList, k < 16)) :=
  ⟨{x0 with awaiting := true, sent := 2},
    (Q [] fun d => {d with cur := some {x0 with awaiting := true, sent := 2}}), by unfold State.Ok; decide +kernel⟩

theorem wit_SideTransmission_10 : ∃ (s : State),
    ((∀ x ∈ s.side.cur.toList, x.awaiting = false)) :=
  ⟨(Q [] fun d => {d with cur := some x0}), by decide +kernel⟩

theorem wit_SideTransmission_11 : ∃ (x : SideTx) (ch fc : Nat) (s : State),
    s.Ok ∧ s.radioOn = true ∧ s.side.cur = some x ∧ x.backoff = true ∧ x.fc = some fc ∧ x.ackReq = true ∧
    x.type ≠ 1 ∧ s.fitsSecond x = true ∧ s.discChannel = some ch ∧
    s.mayRadiate ch x.cls (s.ppduTime (psduLen x.payload.length)) = true :=
  ⟨{x0 with backoff := true, sent := 3, fc := some 9}, 2, 9,
    (Q [(R.SIDEPHY_DISC_BASE,1),(R.SIDEPHY_DISC_HOP,0)] fun d => {d with cur := some {x0 with backoff := true, sent := 3, fc := some 9}}),
    by unfold State.Ok; decide +kernel⟩

theorem wit_SideTransmission_12 : ∃ (s : State),
    s.radioOn = false :=
  ⟨(Q [(R.SIDE_CFG_EN,0)]), by decide +kernel⟩

theorem wit_SideTransmission_13 : ∃ (k : Nat) (s : State),
    s.Ok ∧ k < 16 :=
  ⟨3, (Q [(R.SIDE_TX_BUSY 3, 1),(R.SIDE_TX_DEADLINE_MS 3, 1)] fun d => {d with queue := [x0]}),
    by unfold State.Ok; decide +kernel⟩

theorem wit_SideTransmission_14 : ∃ (s : State),
    s.Ok :=
  ⟨(Q []), by unfold State.Ok; decide +kernel⟩

theorem wit_SideReception_1 : ∃ (src code : Nat) (s : State),
    s.Ok :=
  ⟨5, 6, (Q []), by unfold State.Ok; decide +kernel⟩

theorem wit_SideReception_2 : ∃ (f : SideFrame) (ack : Bool) (s : State),
    s.Ok ∧ s.radioOn = true ∧ 1 ≤ f.payload.length ∧ f.payload.length ≤ 103 ∧ ((ack = true → f.dst ≠ 0xFFFF)) ∧
    s.sideFilter f = none :=
  ⟨{fr with payload := [1,2,3,4,5]}, true, (Q [(R.SIDE_RX_FULL 3,0),(R.SIDE_RX_NEXT_ENTRY,3)]),
    by unfold State.Ok; decide +kernel⟩

theorem wit_SideReception_3 : ∃ (f : SideFrame) (ack : Bool) (code : Nat) (s : State),
    s.Ok ∧ s.radioOn = true ∧ 1 ≤ f.payload.length ∧ f.payload.length ≤ 103 ∧ ((ack = true → f.dst ≠ 0xFFFF)) ∧
    s.sideFilter f = some code :=
  ⟨{fr with payload := [1,2,3,4,5], dst := 7}, true, 3, (Q []), by unfold State.Ok; decide +kernel⟩

theorem wit_SideReception_4 : ∃ (f : SideFrame) (e : Nat) (s : State),
    s.Ok ∧ s.radioOn = true ∧ f.payload.length = 13 ∧ f.dst = 0xFFFF ∧ (f.payload.getD 0 0).toNat < 8 ∧
    s.sideFilter f = none ∧ s.rxCounter f.src f.key < f.fc ∧ s.freeEntry = some e :=
  ⟨{fr with payload := [1,0,0,0,0,0,0,0,9,0,0,0,8], dst := 0xFFFF}, 3,
    (Q [(R.SIDE_RX_FULL 3,0),(R.SIDE_RX_NEXT_ENTRY,3)]), by unfold State.Ok; decide +kernel⟩

theorem wit_SideReception_5 : ∃ (f : SideFrame) (s : State),
    s.Ok ∧ s.radioOn = true ∧ (f.payload.length ≠ 13 ∨ f.dst ≠ 0xFFFF ∨ 8 ≤ (f.payload.getD 0 0).toNat) :=
  ⟨{fr with payload := [9,0,0,0,0,0,0,0,9,0,0,0,8], dst := 0xFFFF}, (Q []), by unfold State.Ok; decide +kernel⟩

theorem wit_SideReception_6 : ∃ (f : SideFrame) (x : SideTx) (s : State),
    s.Ok ∧ s.radioOn = true ∧ f.payload = [] ∧ s.sideFilter f = none ∧ s.rxCounter f.src f.key < f.fc ∧
    s.side.cur = some x ∧ x.awaiting = true ∧ f.src = x.dst ∧ x.fc = some f.acked ∧ x.type ≠ 4 ∧
    ((∀ k ∈ x.slot.toList, k < 16)) :=
  ⟨fr, {x0 with awaiting := true, fc := some 12},
    (Q [] fun d => {d with cur := some {x0 with awaiting := true, fc := some 12}}),
    by unfold State.Ok; decide +kernel⟩

theorem wit_SideReception_7 : ∃ (kind index at0 : Nat) (rest : List (Nat × Nat × Nat)) (m : Master) (s : State),
    s.Ok ∧ m.holds rightRead = true ∧ s.side.events = (kind, index, at0) :: rest :=
  ⟨5, 17, 0, [], .block, (Q [] fun d => {d with events := [(5,17,0)]}), by unfold State.Ok; decide +kernel⟩

theorem wit_SideReception_8 : ∃ (m : Master) (s : State),
    s.Ok ∧ m.holds rightRead = true ∧ s.side.events = [] :=
  ⟨.block, (Q []), by unfold State.Ok; decide +kernel⟩

theorem wit_SideReception_9 : ∃ (m : Master) (e : Nat) (s : State),
    s.Ok ∧ s.variant ≠ .v16N ∧ e < 8 ∧ m.holds rightConfig = true :=
  ⟨.block, 3, (Q []), by unfold State.Ok; decide +kernel⟩

theorem wit_SideReception_10 : ∃ (s : State),
    s.Ok :=
  ⟨(Q []), by unfold State.Ok; decide +kernel⟩

theorem wit_SideReception_11 : ∃ (s : State),
    s.Ok :=
  ⟨(Q []), by unfold State.Ok; decide +kernel⟩

theorem wit_SideLinks_1 : ∃ (f : SideFrame) (s : State),
    s.Ok ∧ s.radioOn = true ∧ f.payload.length = 30 ∧ s.sideFilter f = none ∧ s.rxCounter f.src f.key < f.fc :=
  ⟨{fr with payload := cp}, (Q []), by unfold State.Ok; decide +kernel⟩

theorem wit_SideLinks_2 : ∃ (net dst key fc ch k n src : Nat) (i : ConnectInfo) (s : State),
    s.Ok ∧ s.radioOn = true ∧ s.side.ackDue = some (net, dst, key, fc) ∧ s.discChannel = some ch ∧
    s.mayRadiate ch 0 (s.ppduTime (psduLen 4)) = true ∧ s.txCounter key + 1 < 0xFFFFFFFF ∧
    s.side.connect = some (src, k, n, i) ∧ src = dst ∧ s.side.links = List.replicate 8 none :=
  ⟨9, 70, 1, 33, 2, 1, 9, 70, ci,
    (Q [(R.SIDEPHY_DISC_BASE,1),(R.SIDEPHY_DISC_HOP,0)] fun d => {d with ackDue := some (9,70,1,33), connect := some (70,1,9,ci)}),
    by unfold State.Ok; decide +kernel⟩

theorem wit_SideLinks_3 : ∃ (s : State),
    s.side.ackDue = none :=
  ⟨(Q []), by decide +kernel⟩

theorem wit_SideLinks_4 : ∃ (l : Nat) (x : SideLink) (s : State),
    s.Ok ∧ l < 8 ∧ s.link l = some x ∧ s.radioOn = true ∧ x.central = false :=
  ⟨2, lk, (Q [] (SL lk)), by unfold State.Ok; decide +kernel⟩

theorem wit_SideLinks_5 : ∃ (l : Nat) (x : SideLink) (s : State),
    s.Ok ∧ l < 8 ∧ s.link l = some x ∧ s.radioOn = true ∧ x.central = true ∧ x.out = none ∧ x.queue = [] ∧
    x.term = none ∧ s.txCounter x.key + 1 < 0xFFFFFFFF ∧
    s.mayRadiate (x.info.channel s.nch x.k) 0 (s.ppduTime (psduLen 6)) = true :=
  ⟨2, {lk with central := true}, (Q [] (SL {lk with central := true})), by unfold State.Ok; decide +kernel⟩

theorem wit_SideLinks_6 : ∃ (l : Nat) (s : State),
    (s.link l = none ∨ s.radioOn = false) :=
  ⟨1, (Q []), by decide +kernel⟩

theorem wit_SideLinks_7 : ∃ (l : Nat) (x : SideLink) (s : State),
    s.Ok ∧ l < 8 ∧ s.link l = some x ∧ s.radioOn = true ∧ x.central = false ∧ x.heard = true ∧ x.out = none ∧
    x.queue = [] ∧ x.term = none ∧ s.mayRadiate (x.info.channel s.nch (x.k - 1)) 0 (s.ppduTime (psduLen 6)) = true ∧
    s.txCounter x.key + 1 < 0xFFFFFFFF :=
  ⟨2, lk, (Q [] (SL lk)), by unfold State.Ok; decide +kernel⟩

theorem wit_SideLinks_8 : ∃ (l : Nat) (s : State),
    s.radioOn = false :=
  ⟨2, (Q [(R.SIDE_CFG_EN,0)]), by decide +kernel⟩

theorem wit_SideLinks_9 : ∃ (l : Nat) (x : SideLink) (s : State),
    s.Ok ∧ l < 8 ∧ s.link l = some x ∧ ((∀ k ∈ x.queue, k < 16)) :=
  ⟨2, {lk with queue := [4]}, (Q [] (SL {lk with queue := [4]})), by unfold State.Ok; decide +kernel⟩

theorem wit_SideLinks_10 : ∃ (l : Nat) (s : State),
    s.link l = none :=
  ⟨2, (Q []), by decide +kernel⟩

theorem wit_SideLinks_11 : ∃ (f : SideFrame) (l : Nat) (x : SideLink) (s : State),
    s.Ok ∧ l < 8 ∧ s.radioOn = true ∧ f.payload = [] ∧ s.sideFilter f = none ∧ s.rxCounter f.src f.key < f.fc ∧
    s.linkFor f = some (l, x) ∧ s.link l = some x ∧ x.out = none :=
  ⟨fr, 2, lk, (Q [] (SL lk)), by unfold State.Ok; decide +kernel⟩

theorem wit_SideLinks_12 : ∃ (f : SideFrame) (l : Nat) (x : SideLink) (s : State),
    s.Ok ∧ l < 8 ∧ s.radioOn = true ∧ f.payload = [] ∧ s.sideFilter f = none ∧ s.rxCounter f.src f.key < f.fc ∧
    s.linkFor f = some (l, x) ∧ s.link l = some x :=
  ⟨fr, 2, lk, (Q [] (SL lk)), by unfold State.Ok; decide +kernel⟩

end Side

namespace Upd

def recB (a b act : Nat) (att : Nat := 1) (seq : Nat := 7) : List Byte := sealRecord (recPut (recPut (putState 1 b (putState 0 a freshRecord)) 8 [BitVec.ofNat 8 act, BitVec.ofNat 8 a, BitVec.ofNat 8 b, BitVec.ofNat 8 att]) 4 (leBytes 4 seq))
def U (f : UpdS → UpdS := id) (l : List (Fld × Nat) := []) (r : List Byte := recB 3 3 0) : State := let s := Run ([(R.ANCHOR_STATUS_READY,1),(R.SYS_STRAP_RECOVERY,0),(R.UPD_HEALTH_RUN,0),(R.FLASH_CTRL_GO,0)] ++ l); { s with upd := f s.upd, mem := { s.mem with mram := memWrite [] 0x10080 r } }

theorem wit_BootChoice_1 : ∃ (recOk : Bool) (s : State),
    (s.upd.bootFlow = false ∨ s.fld R.ANCHOR_STATUS_READY = 0) :=
  ⟨true, (U), by decide +kernel⟩

theorem wit_BootChoice_2 : ∃ (recOk : Bool) (s : State),
    s.Ok ∧ s.upd.bootFlow = true ∧ s.fld R.ANCHOR_STATUS_READY = 1 ∧ s.upd.booting = none ∧
    (s.fld R.SYS_STRAP_RECOVERY = 1 ∨ s.upd.baseReq = true ∨ s.bootCopyInForce = none) :=
  ⟨true, (U (fun u => {u with bootFlow := true}) [(R.SYS_STRAP_RECOVERY,1)]), by unfold State.Ok; decide +kernel⟩

theorem wit_BootChoice_3 : ∃ (x : Nat) (s : State),
    s.Ok ∧ s.upd.bootFlow = true ∧ s.fld R.ANCHOR_STATUS_READY = 1 ∧ s.upd.booting = some x ∧ x < 2 ∧
    s.recState x = 3 :=
  ⟨0, (U (fun u => {u with bootFlow := true, booting := some 0})), by unfold State.Ok; decide +kernel⟩

/-- Anchor fenced after its self-test. -/
def shut (s : State) : State := { s with fences := [⟨pANCHOR, noUnit, causeSelftest⟩] }

/-- An image that Anchor cannot verify does not check out. -/
theorem bootCheck_shut (s : State) (r : Nat) (h : (s.mboxGate .block 0x0D).isNone = false) : s.bootCheck r = false := by
  have h1 : ∀ n b, s.sigUnder n b = false := fun n b => by simp [State.sigUnder, h]
  have h2 : ∀ b x, s.imgVerifies b x = false := fun b x => by simp [State.imgVerifies, h1]
  have h3 : ∀ b x, s.imgCode b x ≠ 0 := fun b x => by
    unfold State.imgCode
    simp only [h2]
    repeat' split
    all_goals simp_all
  simp [State.bootCheck, h3]

theorem wit_BootChoice_4 : ∃ (x : Nat) (s : State),
    s.Ok ∧ s.upd.bootFlow = true ∧ s.fld R.ANCHOR_STATUS_READY = 1 ∧ s.upd.booting = none ∧
    s.fld R.SYS_STRAP_RECOVERY = 0 ∧ s.upd.baseReq = false ∧ s.bootCopyInForce ≠ none ∧ x = s.recActive % 2 ∧
    s.recState x = 2 ∧ s.bootCheck x = false ∧ s.recAttempts < s.recMax ∧ s.recState (1 - x) = 3 :=
  ⟨1, (shut (U (fun u => {u with bootFlow := true}) [] (recB 3 2 1))),
    by unfold State.Ok; decide +kernel, by decide +kernel, by decide +kernel, by decide +kernel, by decide +kernel, by decide +kernel, by decide +kernel, by decide +kernel, by decide +kernel, bootCheck_shut _ _ (by decide +kernel), by decide +kernel, by decide +kernel⟩

theorem wit_BootChoice_5 : ∃ (s : State),
    s.Ok ∧ s.fld R.UPD_HEALTH_RUN = 1 :=
  ⟨(U id [(R.UPD_HEALTH_RUN,1)]), by unfold State.Ok; decide +kernel⟩

theorem wit_BootChoice_6 : ∃ (s : State),
    s.fld R.UPD_HEALTH_RUN = 0 :=
  ⟨(U), by decide +kernel⟩

theorem wit_UpdTransfer_1 : ∃ (m : Master) (recOk : Bool) (s : State),
    s.Ok ∧ m.holds rightSecure = true ∧ s.upd.op ≠ 0 :=
  ⟨.block, true, (U fun u => {u with op := 3}), by unfold State.Ok; decide +kernel⟩

theorem wit_UpdTransfer_2 : ∃ (m : Master) (s : State),
    s.Ok ∧ m.holds rightSecure = true ∧ s.upd.op = 0 :=
  ⟨.block, (U), by unfold State.Ok; decide +kernel⟩

theorem wit_UpdTransfer_3 : ∃ (m : Master) (s : State),
    s.Ok ∧ m.holds rightSecure = true ∧ s.upd.op = 0 :=
  ⟨.block, (U), by unfold State.Ok; decide +kernel⟩

theorem wit_UpdTransfer_4 : ∃ (m : Master) (s : State),
    s.Ok ∧ m.holds rightSecure = true ∧ s.upd.op = 0 :=
  ⟨.block, (U id [(R.UPD_STATE_XFER,1)]), by unfold State.Ok; decide +kernel⟩

theorem wit_UpdTransfer_5 : ∃ (m : Master) (s : State),
    s.Ok ∧ m.holds rightSecure = true :=
  ⟨.block, (U), by unfold State.Ok; decide +kernel⟩

theorem wit_UpdTransfer_6 : ∃ (dev recOk : Bool) (s : State),
    s.upd.op = 0 :=
  ⟨true, true, (U), by decide +kernel⟩

theorem wit_UpdTransfer_7 : ∃ (dev recOk : Bool) (s : State),
    s.Ok ∧ s.upd.op = 1 :=
  ⟨true, true, (U fun u => {u with op := 1}), by unfold State.Ok; decide +kernel⟩

theorem wit_UpdTransfer_8 : ∃ (dev recOk : Bool) (s : State),
    s.Ok ∧ s.upd.op = 2 :=
  ⟨true, true, (U (fun u => {u with op := 2, bodyLen := 40}) [(R.UPD_STATE_XFER,1)]),
    by unfold State.Ok; decide +kernel⟩

theorem wit_UpdTransfer_9 : ∃ (x a : Nat) (s : State),
    s.Ok ∧ s.upd.op = 3 ∧ x = s.fld R.UPD_STATE_TARGET ∧ x < 2 ∧
    s.storeRangeBad imgHdrAddr (512 + s.upd.bodyLen) = false ∧ s.upd.bodyLen ≤ 33553920 :=
  ⟨1, 0, (U (fun u => {u with op := 3, bodyLen := 40}) [(R.UPD_STATE_XFER,1),(R.UPD_STATE_TARGET,1)]),
    by unfold State.Ok; decide +kernel⟩

theorem wit_UpdTransfer_10 : ∃ (recOk : Bool) (s : State),
    s.Ok ∧ s.upd.op = 3 :=
  ⟨true, (U fun u => {u with op := 3}), by unfold State.Ok; decide +kernel⟩

theorem wit_UpdTrialAndActivation_1 : ∃ (m : Master) (v : Word) (s : State),
    s.Ok ∧ m.holds rightSecure = true :=
  ⟨.block, 1#32, (U id [(R.UPD_HEALTH_RUN,1),(R.PG_LOCK_ARMED pUPD,1),(R.UPD_STATE_BOOTED,1)] (recB 3 2 1)),
    by unfold State.Ok; decide +kernel⟩

theorem wit_UpdTrialAndActivation_2 : ∃ (m : Master) (v : Word) (s : State),
    s.Ok ∧ m.holds rightSecure = true :=
  ⟨.block, 1#32, (U id [(R.PG_LOCK_ARMED pUPD,1)]), by unfold State.Ok; decide +kernel⟩

theorem wit_UpdTrialAndActivation_3 : ∃ (m : Master) (s : State),
    s.Ok ∧ m.holds rightSecure = true ∧ s.wide R.UPD_ACT_VER_LO_MINOR_PATCH R.UPD_ACT_VER_HI_MAJOR ≠ 0 :=
  ⟨.block, (U id [(R.UPD_ACT_VER_HI_MAJOR,4)]), by unfold State.Ok; decide +kernel⟩

theorem wit_UpdTrialAndActivation_4 : ∃ (m : Master) (s : State),
    s.Ok ∧ m.holds rightSecure = true :=
  ⟨.block, (U id [(R.UPD_ACT_VER_HI_MAJOR,4)]), by unfold State.Ok; decide +kernel⟩

theorem wit_UpdTrialAndActivation_5 : ∃ (m : Master) (t0 : Timing) (s : State),
    s.Ok ∧ m.holds rightSecure = true ∧ s.checkTiming = some t0 :=
  ⟨.block, ((U).checkTiming.getD ⟨1,1,1,1,1,1⟩), (U), by unfold State.Ok; decide +kernel⟩

theorem wit_FlashCommands_1 : ∃ (m : Master) (v : Word) (s : State),
    s.Ok ∧ m.holds rightSecure = true ∧ s.fld R.FLASH_CTRL_GO = 1 :=
  ⟨.block, 0#32, (U id [(R.FLASH_CTRL_GO,1)]), by unfold State.Ok; decide +kernel⟩

theorem wit_FlashCommands_2 : ∃ (m : Master) (v : Word) (s : State),
    s.Ok ∧ m.holds rightSecure = true ∧ s.fld R.FLASH_CTRL_GO = 0 ∧ s.fld R.UPD_HEALTH_RUN = 0 :=
  ⟨.block, 0#32, (U id [(R.FLASH_ADDR_ADDR,0x5000000),(R.FLASH_LEN_BYTES,0x40000),(R.FLASH_SRC_ADDR,0x10000000)]),
    by unfold State.Ok; decide +kernel⟩

theorem wit_FlashCommands_3 : ∃ (m : Master) (v : Word) (s : State),
    m.holds rightSecure = true ∧ s.fld R.FLASH_CTRL_GO = 0 ∧ s.fld R.FLASH_LEN_BYTES ≠ 0 ∧
    s.fld R.FLASH_ADDR_ADDR < 0x5000000 ∧ s.fld R.FLASH_ADDR_ADDR % 0x40000 = 0 ∧
    s.fld R.FLASH_LEN_BYTES ≤ 0x1000000 :=
  ⟨.block, 0#32, (U id [(R.FLASH_ADDR_ADDR,0x1000000),(R.FLASH_LEN_BYTES,0x40000),(R.FLASH_SRC_ADDR,0x10000000)]),
    by decide +kernel⟩

theorem wit_FlashCommands_4 : ∃ (dev : Bool) (s : State),
    s.upd.flash = none :=
  ⟨true, (U), by decide +kernel⟩

theorem wit_FlashCommands_5 : ∃ (addr len src a : Nat) (store : Bool) (s : State),
    s.Ok ∧ s.upd.flash = some (1, addr, len, store, src) ∧ 0 < len ∧ 0x1000000 ≤ addr :=
  ⟨0x1000000, 1, 0, 0, false, (U fun u => {u with flash := some (1,0x1000000,1,false,0)}),
    by unfold State.Ok; decide +kernel⟩

theorem wit_FlashCommands_6 : ∃ (addr len src a : Nat) (s : State),
    s.Ok ∧ s.upd.flash = some (2, addr, len, false, src) ∧ 0 < len ∧ 0x1000000 ≤ addr ∧ s.mem.sramBad = [] :=
  ⟨0x5000010, 16, 0x10000000, 0x5000011,
    (let s := U (fun u => {u with flash := some (2,0x5000010,16,false,0x10000000)}); {s with mem := {s.mem with sram := memWrite [] 0 [1,2,3,4,5,6]}}),
    by unfold State.Ok; decide +kernel⟩

theorem wit_FlashCommands_7 : ∃ (addr len src : Nat) (s : State),
    s.Ok ∧ s.upd.flash = some (3, addr, len, false, src) ∧ 0 < len ∧ s.mem.sramBad = [] :=
  ⟨0x5000010, 16, 0x10000000,
    (let s := U (fun u => {u with flash := some (3,0x5000010,16,false,0x10000000)}); {s with mem := {s.mem with sram := memWrite [] 0 [1,2,3,4,5,6]}}),
    by unfold State.Ok; decide +kernel⟩

end Upd

namespace Rtc

def K (sec : Nat) (l : List (Fld × Nat) := []) (f : RtcS → RtcS := id) (valid : Nat := 1): State := let s := N ([(R.RTC_SEC_LO_S_LO, sec),(R.RTC_SEC_HI_S_HI, sec / 2^32),(R.RTC_SEC_HI_VALID,valid),(R.RTC_SEC_HI_END,0),(R.AON_BKSTAT_OSC_FAIL,0)] ++ l); { s with rtc := f s.rtc }
def stv (b : Nat) : List (Fld × Nat) := [(R.RTC_SET_LO_S_LO, b),(R.RTC_SET_HI_S_HI, b / 2^32)]
def al (k t p : Nat) (en dn rb : Nat) : List (Fld × Nat) := [(R.RTC_ALM_LO_T_LO k, t),(R.RTC_ALM_HI_T_HI k, t/2^32),(R.RTC_ALM_CTRL_PERIOD_S k, p),(R.RTC_ALM_CTRL_EN k, en),(R.RTC_ALM_CTRL_DONE k, dn),(R.RTC_ALM_CTRL_REARM_BACK k, rb)]

theorem wit_RtcSetsAndSummerTime_1 : ∃ (m : Master) (v : Word) (s : State),
    s.Ok ∧ m.holds rightLive = true ∧ v.getLsbD 31 = false :=
  ⟨.block, 1#32, (K 100), by unfold State.Ok; decide +kernel⟩

theorem wit_RtcSetsAndSummerTime_2 : ∃ (m : Master) (v : Word) (s : State),
    m.holds rightLive = true ∧ v.getLsbD 31 = true ∧ rtcMax < s.wide R.RTC_SET_LO_S_LO R.RTC_SET_HI_S_HI :=
  ⟨.block, 0x80000001#32, (K 100 (stv 6311433600)), by decide +kernel⟩

theorem wit_RtcSetsAndSummerTime_3 : ∃ (m : Master) (v : Word) (s : State),
    s.Ok ∧ m.holds rightLive = true ∧ v.getLsbD 31 = true ∧ s.wide R.RTC_SET_LO_S_LO R.RTC_SET_HI_S_HI ≤ rtcMax :=
  ⟨.block, 0x80000001#32, (K 100 (stv 6311433599)), by unfold State.Ok; decide +kernel⟩

theorem wit_RtcSetsAndSummerTime_4 : ∃ (v : Nat) (s : State),
    s.Ok ∧ s.rtc.setTo = some v ∧ v ≤ rtcMax :=
  ⟨796615199, (K 100 [] fun r => {r with setTo := some 796615199}), by unfold State.Ok; decide +kernel⟩

theorem wit_RtcSetsAndSummerTime_5 : ∃ (s : State),
    s.rtc.setTo = none :=
  ⟨(K 100), by decide +kernel⟩

theorem wit_RtcSetsAndSummerTime_6 : ∃ (m : Master) (clear : Bool) (s : State),
    s.Ok ∧ m.holds rightLive = true :=
  ⟨.block, true, (K 100), by unfold State.Ok; decide +kernel⟩

theorem wit_RtcSetsAndSummerTime_7 : ∃ (add : Bool) (s : State),
    s.Ok ∧ s.rtcRuns = true ∧ s.rtc.dst = some add ∧ s.rtcS < rtcMax :=
  ⟨true, (K 796615199 [] fun r => {r with dst := some true}), by unfold State.Ok; decide +kernel⟩

theorem wit_RtcSetsAndSummerTime_8 : ∃ (s : State),
    (s.rtcRuns = false ∨ s.rtc.dst = none) :=
  ⟨(K 796615199), by decide +kernel⟩

theorem wit_RtcAlarms_1 : ∃ (k : Nat) (s : State),
    s.Ok ∧ k < 4 ∧ s.rtcRuns = true ∧ s.almArmed k = true ∧ s.rtcS < s.almT k ∧ s.almT k ≤ rtcMax :=
  ⟨2, (K 100 (al 2 200 0 1 0 0)), by unfold State.Ok; decide +kernel⟩

theorem wit_RtcAlarms_2 : ∃ (k : Nat) (s : State),
    (s.rtcRuns = false ∨ s.almArmed k = false ∨ s.almT k ≤ s.rtcS ∨ rtcMax < s.almT k) :=
  ⟨2, (K 100 (al 2 100 30 1 0 0)), by decide +kernel⟩

theorem wit_RtcAlarms_3 : ∃ (m : Master) (k a b : Nat) (s : State),
    s.Ok ∧ k < 4 ∧ m.holds rightLive = true ∧ (a = (if s.rtcValid then s.rtcS else 0)) ∧
    b = s.wide R.RTC_SET_LO_S_LO R.RTC_SET_HI_S_HI ∧ b ≤ rtcMax :=
  ⟨.block, 2, 100, 400, (K 100 (stv 400 ++ al 2 200 30 1 0 0)), by unfold State.Ok; decide +kernel⟩

theorem wit_RtcAlarms_4 : ∃ (s : State),
    s.Ok :=
  ⟨(K 100), by unfold State.Ok; decide +kernel⟩

theorem wit_RtcTrimAndBackup_1 : ∃ (tStart tEnd : Nat) (locked : Bool) (s : State),
    s.Ok :=
  ⟨7, 32000400007, true, (K 100 [(R.RTC_DISC_EN,1),(R.RTC_DISC_SHIFT,2),(R.RTC_TRIM_T,5)]),
    by unfold State.Ok; decide +kernel⟩

theorem wit_RtcTrimAndBackup_2 : ∃ (toVbat : Bool) (s : State),
    s.Ok :=
  ⟨true, (K 100), by unfold State.Ok; decide +kernel⟩

theorem wit_RtcTrimAndBackup_3 : ∃ (k : Nat) (s : State),
    s.Ok ∧ k < 4 :=
  ⟨3, (K 100 (al 3 4 5 1 1 1)), by unfold State.Ok; decide +kernel⟩

theorem wit_RtcTrimAndBackup_4 : ∃ (k : Nat) (s : State),
    s.Ok ∧ k < 4 :=
  ⟨3, (K 100 (al 3 4 5 1 1 1)), by unfold State.Ok; decide +kernel⟩

theorem wit_RtcTrimAndBackup_5 : ∃ (mv : Nat) (s : State),
    s.Ok :=
  ⟨2399, (K 100), by unfold State.Ok; decide +kernel⟩

end Rtc

namespace Cairn

def oc : Occurrence := ⟨0x10, 0x8002, 3, 55⟩
def C (l : List (Fld × Nat)) (f : CairnS → CairnS := id) (q : List Occurrence := []) : State := let s := N ([(R.PWR_STATE_STATE,0),(R.CAIRN_CTRL_FREEZE,0),(R.CAIRN_HEAD_INDEX,100),(R.CAIRN_OLDEST_INDEX,100),(R.PG_FENCE_ACTIVE pCAIRN,0)] ++ l); { s with cairn := f {s.cairn with up := true}, occQueue := q }
def Copen : State := (match (C [] id [oc]).takeOccurrence with | t => { t with occQueue := [oc], out := [] })
def Cclosed : State := { (Copen.closeConditions 5 false) with cairn := {Copen.cairn with flushing := true}, occQueue := [] }
def Cwritten : State := match Cclosed.nextClosed with | some j => (Cclosed.writeSlot j) | none => Cclosed
def record (seq : Byte) (crc : List Byte) : List Byte := [2, 0, 2, 0x80, seq, 0, 0, 0, 5, 0, 0, 0, 0x10, 3] ++ List.replicate 18 0 ++ [1, 0, 0, 0, 0x37, 0, 0, 0, 0x37, 0, 0, 0] ++ List.replicate 8 0 ++ crc ++ List.replicate 8 0
def Crep : State := let s := C [(R.CAIRN_HEAD_INDEX,101)] fun c => {c with keys := [(⟨2, 0x8002, 0x10, 3⟩, 100)], flushing := true}; { s with mem := {s.mem with ret := memWrite [] 0x1800 (record 2 [0x6b, 0x72, 0xd9, 5]), mram := memWrite [] 0x81900 (record 0 [0xd3, 0xab, 0xba, 0x7e])} }

theorem wit_CairnIntervalsAndOccurrences_1 : ∃ (s : State),
    s.Ok :=
  ⟨Copen, by unfold State.Ok; decide +kernel⟩

theorem wit_CairnIntervalsAndOccurrences_2 : ∃ (o : Occurrence) (rest : List Occurrence) (j : Nat) (s : State),
    s.Ok ∧ s.cairn.up = true ∧ s.retLocked = false ∧ s.occQueue = o :: rest ∧ 0x8000 ≤ o.code ∧ j ∈ s.openSlots ∧
    (s.openSlots.find? (fun i => recKey (s.stageRec i) = o.key) = some j) :=
  ⟨oc, [], 0, Copen, by unfold State.Ok; decide +kernel⟩

theorem wit_CairnIntervalsAndOccurrences_3 : ∃ (o : Occurrence) (rest : List Occurrence) (j : Nat) (s : State),
    s.Ok ∧ s.cairn.up = true ∧ s.retLocked = false ∧ s.occQueue = o :: rest ∧ 0x8000 ≤ o.code ∧ o.code < 0x10000 ∧
    s.freeSlot = some j ∧ (s.openSlots.find? (fun i => recKey (s.stageRec i) = o.key) = none) :=
  ⟨oc, [oc], 0, (C [] id [oc,oc]), by unfold State.Ok; decide +kernel⟩

theorem wit_CairnIntervalsAndOccurrences_4 : ∃ (s : State),
    (s.cairn.up = false ∨ s.retLocked = true ∨ s.occQueue = []) :=
  ⟨(C []), by decide +kernel⟩

theorem wit_CairnIntervalsAndOccurrences_5 : ∃ (m : Master) (v : Word) (s : State),
    s.Ok ∧ m.holds rightLive = true ∧ s.occQueue.length < 16 :=
  ⟨.block, 0x80000033, (C [] id [oc]), by unfold State.Ok; decide +kernel⟩

theorem wit_CairnIntervalsAndOccurrences_6 : ∃ (k : Nat) (s : State),
    ((32 ≤ k ∨ s.cairn.up = false ∨ s.fld (R.CAIRN_MET_CFG_EN k) = 0 ∨ s.retLocked = true)) :=
  ⟨3, (C [(R.CAIRN_MET_CFG_EN 3,0)]), by decide +kernel⟩

theorem wit_CairnIntervalsAndOccurrences_7 : ∃ (k : Nat) (s : State),
    k < 32 ∧ s.cairn.up = true ∧ s.fld (R.CAIRN_MET_CFG_EN k) = 1 ∧ s.retLocked = false ∧
    s.fld (R.CAIRN_MET_SRC_ADDR k) % 4 ≠ 0 :=
  ⟨3, (C [(R.CAIRN_MET_CFG_EN 3,1),(R.CAIRN_MET_SRC_ADDR 3, 0x40000001)]), by decide +kernel⟩

theorem wit_CairnIntervalsAndOccurrences_8 : ∃ (k : Nat) (s : State),
    s.Ok ∧ k < 32 ∧ s.cairn.up = true ∧ s.fld (R.CAIRN_MET_CFG_EN k) = 1 ∧ s.retLocked = false ∧
    s.fld (R.CAIRN_MET_SRC_ADDR k) % 4 = 0 ∧ 0x40000000 ≤ s.fld (R.CAIRN_MET_SRC_ADDR k) ∧
    metricSource ((s.fld (R.CAIRN_MET_SRC_ADDR k) - 0x40000000) / 0x1000) (s.fld (R.CAIRN_MET_SRC_ADDR k) % 0x1000) = true ∧
    s.fld (R.CAIRN_MET_CFG_DELTA k) = 0 ∧ s.fld (R.CAIRN_MET_CFG_SIGNED k) = 0 ∧ s.fld (R.CAIRN_MET_CFG_WIDTH k) ≠ 0 :=
  ⟨3,
    (C [(R.CAIRN_MET_CFG_EN 3,1),(R.CAIRN_MET_SRC_ADDR 3, 0x4000604C),(R.CAIRN_MET_CFG_DELTA 3,0),(R.CAIRN_MET_CFG_SIGNED 3,0),(R.CAIRN_MET_CFG_WIDTH 3,8)]),
    by unfold State.Ok; decide +kernel⟩

theorem wit_CairnWriterAndReader_1 : ∃ (j : Nat) (s : State),
    s.Ok ∧ s.writerRuns = true ∧ s.cairn.flushing = true ∧ s.nextClosed = some j ∧ recKind (s.stageRec j) ≤ 4 ∧
    s.repeatOf (s.candidate j) = none :=
  ⟨0, Cclosed, by unfold State.Ok; decide +kernel⟩

theorem wit_CairnWriterAndReader_2 : ∃ (i j : Nat) (s : State),
    s.Ok ∧ s.writerRuns = true ∧ s.cairn.flushing = true ∧ s.nextClosed = some j ∧
    s.repeatOf (s.candidate j) = some i :=
  ⟨100, 0, Crep, by unfold State.Ok; decide +kernel⟩

theorem wit_CairnWriterAndReader_3 : ∃ (j : Nat) (s : State),
    s.Ok ∧ s.writerRuns = true ∧ s.cairn.flushing = true ∧ s.nextClosed = some j :=
  ⟨0, Cclosed, by unfold State.Ok; decide +kernel⟩

theorem wit_CairnWriterAndReader_4 : ∃ (ok : Bool) (s : State),
    (s.writerRuns = false ∨ s.cairn.flushing = false ∨ s.nextClosed = none) :=
  ⟨true, (C []), by decide +kernel⟩

theorem wit_CairnWriterAndReader_5 : ∃ (s : State),
    s.Ok ∧ s.rst.pfFlush = false :=
  ⟨(C [] fun c => {c with flushing := true}), by unfold State.Ok; decide +kernel⟩

theorem wit_CairnWriterAndReader_6 : ∃ (m : Master) (v : Word) (s : State),
    s.Ok ∧ m.holds rightLive = true :=
  ⟨.block, 5, Copen, by unfold State.Ok; decide +kernel⟩

theorem wit_CairnWriterAndReader_7 : ∃ (m : Master) (v : Word) (s : State),
    s.Ok ∧ m.holds rightLive = true :=
  ⟨.block, 1, Copen, by unfold State.Ok; decide +kernel⟩

theorem wit_CairnWriterAndReader_8 : ∃ (s : State),
    s.Ok :=
  ⟨(C [(R.CAIRN_CTRL_FREEZE,1)]), by unfold State.Ok; decide +kernel⟩

theorem wit_CairnWriterAndReader_9 : ∃ (m : Master) (v : Word) (s : State),
    s.Ok ∧ m.holds rightLive = true :=
  ⟨.block, 100, Cwritten, by unfold State.Ok; decide +kernel⟩

theorem wit_CairnWriterAndReader_10 : ∃ (m : Master) (s : State),
    s.Ok ∧ m.holds rightRead = true :=
  ⟨.block, (C [(R.CAIRN_CTRL_AUTOINC,1),(R.CAIRN_CURSOR_INDEX,8191)]), by unfold State.Ok; decide +kernel⟩

theorem wit_CairnWriterAndReader_11 : ∃ (s : State),
    s.Ok :=
  ⟨(C [(R.CAIRN_STATUS_SCANNING,1)] id [oc]), by unfold State.Ok; decide +kernel⟩

end Cairn

namespace Bus

def Q (l : List (Fld × Nat)) (g : State → State := id) : State := g (Run ([(R.PG_LOCK_LOCKED 0x10, 0)] ++ l))
def AR (p : Nat) : List (Fld × Nat) := [(R.PG_LOCK_ARMED p, 1)]
def fnc (s : State) : State := { (s.setFld (R.PG_FENCE_ACTIVE 0x28) 1).setFld (R.PG_FENCE_CAUSE 0x28) 0x102 with fences := [⟨0x28,3,0x102⟩,⟨0x28,4,0x103⟩,⟨0x20,1,4⟩] }
def drv (s : State) : State := { s with pins := {s.pins with driving := [0,5,13,30], gpio := 6}}
def ur (n : Nat) (s : State) : State := { s with uart := {s.uart with rx := (List.range n).map (· + 60), tx := (List.range n)}}
def sr (s : State) : State := { s with mem := {s.mem with sram := [(5,7#8)]}}

theorem wit_PageHeader_1 : ∃ (rights page : Nat) (v : Word) (s : State),
    s.Ok ∧ pageAssigned page = true ∧ s.pageAbsent page = false ∧
    (Master.lcp rights).holds (pageRight page) = false ∧ v &&& 0xFFFC#32 = 0 :=
  ⟨3, 0x48, 0#32, (Q []), by unfold State.Ok; decide +kernel⟩

theorem wit_PageHeader_2 : ∃ (m : Master) (page : Nat) (v : Word) (s : State),
    s.Ok ∧ pageAssigned page = true ∧ s.pageAbsent page = false ∧ v &&& 0xFFFC#32 ≠ 0 :=
  ⟨.block, 0x28, 0x5A280006#32, (Q []), by unfold State.Ok; decide +kernel⟩

theorem wit_PageHeader_3 : ∃ (m : Master) (page off : Nat) (v : Word) (s : State),
    s.Ok ∧ (clearTable page off).isSome = true ∧ s.pageAbsent page = false ∧ m.holds (pageRight page) = true ∧
    s.isArmed page = true ∧ v = 1 :=
  ⟨.block, 0x12, 0x080, 1#32, (Q (AR 0x12)), by unfold State.Ok; decide +kernel⟩

theorem wit_PageHeader_4 : ∃ (m : Master) (page mask events : Nat) (s : State),
    s.Ok ∧ pageAssigned page = true ∧ s.pageAbsent page = false ∧ m.holds (pageRight page) = true :=
  ⟨.block, 0x20, 0xF, 0x2, (Q [(R.PG_IRQ_RAW 0x20, 15)]), by unfold State.Ok; decide +kernel⟩

theorem wit_PageHeader_5 : ∃ (rights page mask events : Nat) (s : State),
    s.Ok ∧ pageAssigned page = true ∧ s.pageAbsent page = false ∧ (Master.lcp rights).holds (pageRight page) = false :=
  ⟨1, 0x20, 0xF, 0x2, (Q [(R.PG_IRQ_RAW 0x20, 13)]), by unfold State.Ok; decide +kernel⟩

theorem wit_PageHeader_6 : ∃ (m : Master) (page : Nat) (present : List Nat) (s : State),
    s.Ok ∧ pageAssigned page = true ∧ s.pageAbsent page = false ∧ m.holds (pageRight page) = true :=
  ⟨.block, 0x28, [4], (Q [] fnc), by unfold State.Ok; decide +kernel⟩

theorem wit_PageHeader_7 : ∃ (m : Master) (page : Nat) (s : State),
    s.Ok ∧ pageAssigned page = true ∧ s.pageAbsent page = false ∧ m.holds (pageRight page) = true ∧ page ≠ pMETERACC :=
  ⟨.block, 0x29, (Q [] drv), by unfold State.Ok; decide +kernel⟩

theorem wit_PageHeader_8 : ∃ (m : Master) (s : State),
    s.Ok ∧ m.holds rightRead = true ∧ s.latches = [] :=
  ⟨.block, (Q [] fun s => {s with ptp := {s.ptp with ns := 123456789123456789123}}),
    by unfold State.Ok; decide +kernel⟩

theorem wit_PageHeader_9 : ∃ (rights page off : Nat) (s : State),
    s.Ok ∧ pageAssigned page = true ∧ off < 4096 ∧ off % 4 = 0 ∧ (Master.hspi rights).holds rightRead = false :=
  ⟨2, 0x12, 0x068, (Q []), by unfold State.Ok; decide +kernel⟩

theorem wit_PageHeader_10 : ∃ (s : State),
    s.Ok :=
  ⟨(Q [(R.STORE_STATUS_WAKE_SCRUB,1)]), by unfold State.Ok; decide +kernel⟩

theorem wit_Peripherals_1 : ∃ (m : Master) (n : Nat) (v : Word) (s : State),
    s.Ok ∧ n < 2 ∧ m.holds rightLive = true ∧ v &&& 0x7F80E0E0#32 = 0 ∧ v.toNat / 2 ^ 8 % 32 ≤ 16 ∧
    v.toNat % 32 ≤ 16 :=
  ⟨.block, 0, 0x80550503#32, (Q [(R.I2C_CMD_GO 0, 0)]), by unfold State.Ok; decide +kernel⟩

theorem wit_Peripherals_2 : ∃ (m : Master) (n : Nat) (v : Word) (s : State),
    s.Ok ∧ n < 2 ∧ m.holds rightLive = true ∧ v &&& 0x7F80E0E0#32 = 0 ∧
    (16 < v.toNat / 2 ^ 8 % 32 ∨ 16 < v.toNat % 32) :=
  ⟨.block, 1, 0x00551110#32, (Q []), by unfold State.Ok; decide +kernel⟩

theorem wit_Peripherals_3 : ∃ (n result : Nat) (data : List Byte) (s : State),
    s.Ok ∧ n < 2 ∧ result < 4 :=
  ⟨1, 0, [1,2,3,4,5], (Q [(R.I2C_CMD_GO 1, 1),(R.I2C_CMD_RD_LEN 1, 4)]), by unfold State.Ok; decide +kernel⟩

theorem wit_Peripherals_4 : ∃ (byte : Nat) (s : State),
    s.Ok ∧ byte < 256 :=
  ⟨77, (Q [(R.UART_CFG_EN, 1)] (ur 3)), by unfold State.Ok; decide +kernel⟩

theorem wit_Peripherals_5 : ∃ (m : Master) (s : State),
    s.Ok ∧ m.holds rightRead = true :=
  ⟨.block, (Q [(R.UART_CFG_EN, 0)] (ur 3)), by unfold State.Ok; decide +kernel⟩

theorem wit_Peripherals_6 : ∃ (m : Master) (v : Word) (s : State),
    s.Ok ∧ m.holds rightLive = true ∧ v.toNat < 512 :=
  ⟨.block, 0x134#32, (Q [(R.UART_CFG_EN, 0)] (ur 3)), by unfold State.Ok; decide +kernel⟩

theorem wit_Peripherals_7 : ∃ (k : Nat) (level : Bool) (s : State),
    s.Ok ∧ k < 16 ∧ s.bit R.GPIO_OE_OE k = false :=
  ⟨2, false, (Q [(R.GPIO_OE_OE,0),(R.GPIO_FALL_EN,4)] drv), by unfold State.Ok; decide +kernel⟩

theorem wit_Peripherals_8 : ∃ (k rpm : Nat) (s : State),
    s.Ok ∧ k < 4 :=
  ⟨1, 100, (Q [(R.FAN_MIN_RPM,200)]), by unfold State.Ok; decide +kernel⟩

theorem wit_Peripherals_9 : ∃ (die a c : Int) (s : State),
    s.Ok :=
  ⟨(-5), 30, 1, (Q [(R.TEMP_ALARM_T,25)]), by unfold State.Ok; decide +kernel⟩

theorem wit_Peripherals_10 : ∃ (m : Master) (v : Word) (s : State),
    s.Ok ∧ m.holds rightSecure = true :=
  ⟨.block, 0x81#32, (Q [(R.HOSTSPI_BELL_BELL,2)]), by unfold State.Ok; decide +kernel⟩

theorem wit_Peripherals_11 : ∃ (rights : Nat) (v : Word) (s : State),
    s.Ok ∧ (Master.hspi rights).holds rightSecure = true :=
  ⟨63, 0x83#32, (Q [(R.HOSTSPI_BELL_BELL,2)]), by unfold State.Ok; decide +kernel⟩

theorem wit_Peripherals_12 : ∃ (m : Master) (v : Word) (s : State),
    s.Ok ∧ m.holds rightSecure = true ∧ v &&& 0x7FFEC000#32 = 0 ∧
    (v.getLsbD 31 = false ∨ (0x10000000 ≤ s.fld R.LCP_TX_ADDR_ADDR ∧ s.fld R.LCP_TX_ADDR_ADDR + v.toNat % 2 ^ 14 ≤ 0x10400000)) :=
  ⟨.block, 0x80010004#32, (Q [(R.LCP_TX_ADDR_ADDR,0x10000004)] sr), by unfold State.Ok; decide +kernel⟩

theorem wit_Peripherals_13 : ∃ (m : Master) (v : Word) (s : State),
    s.Ok ∧ m.holds rightSecure = true ∧ v &&& 0x7FFEC000#32 = 0 ∧ v.getLsbD 31 = true ∧ v.toNat % 2 ^ 14 ≠ 0 ∧
    s.fld R.LCP_TX_ADDR_ADDR < 0x10000000 :=
  ⟨.block, 0x80010004#32, (Q [(R.LCP_TX_ADDR_ADDR,0x0FFFFFFF)] sr), by unfold State.Ok; decide +kernel⟩

theorem wit_LockKeyed_1 : ∃ (m : Master) (page : Nat) (v : Word) (s : State),
    s.Ok ∧ pageAssigned page = true ∧ s.pageAbsent page = false ∧ m.holds (pageRight page) = true ∧
    v &&& 0xFFFC#32 = 0 :=
  ⟨.block, 0x20, 0x5A200000#32, (Q [(R.PG_LOCK_ARMED 0x20,1)]), by unfold State.Ok; decide +kernel⟩

theorem wit_LockKeyed_2 : ∃ (m : Master) (page off : Nat) (v : Word) (s : State),
    s.Ok ∧ (clearTable page off).isSome = true ∧ s.pageAbsent page = false ∧ m.holds (pageRight page) = true ∧
    ((s.isArmed page = false ∧ v = 1) ∨ v = 0) :=
  ⟨.block, 0x38, 0x084, 1#32, (Q []), by unfold State.Ok; decide +kernel⟩

theorem wit_EventWins_1 : ∃ (page k : Nat) (s : State),
    k < 4 :=
  ⟨0x10, 2, (Q []), by decide +kernel⟩

theorem wit_EventWins_2 : ∃ (rights page : Nat) (v : Word) (s : State),
    s.Ok ∧ pageAssigned page = false :=
  ⟨63, 0x47, 0#32, (Q []), by unfold State.Ok; decide +kernel⟩

end Bus

namespace Anchor

def A (f : AnchorS → AnchorS := id) (l : List (Fld × Nat) := []) : State := let s := N ([(R.ANCHOR_STATUS_READY, 1),(R.ANCHOR_STATUS_BUSY, 0),(R.ANCHOR_MBOX_CTRL_BUSY, 0)] ++ l); { s with anchor := f s.anchor, free := 5 }
def ks (n : Nat) (x : AnchorSlot) (a : AnchorS) : AnchorS := { a with slots := a.slots.set n x }
def aes : AnchorSlot := ⟨1, 2, 63, 7, false, List.replicate 16 0xA5, (0,0)⟩
def hm : AnchorSlot := ⟨3, 2, 63, 7, false, List.replicate 32 0xA5, (0,0)⟩
def ec : AnchorSlot := ⟨4, 1, 63, 7, false, List.replicate 32 0xA5, (0,0)⟩
def ec64 : AnchorSlot := ⟨4, 1, 63, 7, false, List.replicate 64 0xA5, (0,0)⟩
def sr (s : State) : State := { s with mem := { s.mem with sram := memWrite [] 0x100 ((List.range 60).map fun i => BitVec.ofNat 8 (i*7)) } }
def tbl (s : State) (ser : Nat) : State := { s with mem := { s.mem with sram := memWrite [] 0x200 (leBytes 4 0x4C505431 ++ leBytes 2 1 ++ leBytes 2 1 ++ leBytes 4 ser) } }
def fen (s : State) (c : Nat) : State := { s with fences := [⟨pANCHOR, 0xFF, c⟩] }

theorem wit_AnchorMailbox_1 : ∃ (m : Master) (tag : Nat) (p : List Byte) (f : AnchorFate) (active : Bool) (s : State),
    s.Ok ∧ m.holds rightSecure = true ∧ (s.fld R.ANCHOR_STATUS_BUSY = 1 ∨ s.fld R.ANCHOR_STATUS_READY = 0) :=
  ⟨.block, 77, [1,2,3,4,5], .runs, true, (A id [(R.ANCHOR_STATUS_BUSY,1)]), by unfold State.Ok; decide +kernel⟩

theorem wit_AnchorMailbox_2 : ∃ (s : State),
    s.anchor.resp = none :=
  ⟨(A), by decide +kernel⟩

theorem wit_AnchorMailbox_3 : ∃ (resp : List Byte) (s : State),
    s.Ok ∧ s.anchor.resp = some (resp, false) ∧ resp.length ≤ 256 :=
  ⟨[3,0,5,0,1,2,3,4,1,0,0,0,7], (A fun a => {a with resp := some ([3,0,5,0,1,2,3,4,1,0,0,0,7], false)}),
    by unfold State.Ok; decide +kernel⟩

theorem wit_AnchorMailbox_4 : ∃ (resp : List Byte) (s : State),
    s.Ok ∧ s.anchor.resp = some (resp, true) ∧ s.anchorFenced causeEcc = false :=
  ⟨[3,0,0,0,1,2,3,4,1,0,0,0,7], (A fun a => {a with resp := some ([3,0,0,0,1,2,3,4,1,0,0,0,7], true)}),
    by unfold State.Ok; decide +kernel⟩

theorem wit_AnchorGates_1 : ∃ (m : Master) (tag : Nat) (p : List Byte) (f : AnchorFate) (active : Bool) (s : State),
    s.Ok ∧ AnchorIdle s ∧ m.holds rightSecure = true ∧ m.isMachine = false ∧ p.length ≤ 248 ∧ f ≠ .eccFails :=
  ⟨(.lcp 63), 0x12345678, [1,2,3,4,5], .runs, true, (A), by unfold State.Ok AnchorIdle; decide +kernel⟩

theorem wit_AnchorGates_2 : ∃ (m : Master) (tag : Nat) (p : List Byte) (f : AnchorFate) (s : State),
    s.Ok ∧ AnchorIdle s ∧ m.holds rightSecure = true ∧ s.anchor.lifecycle = 3 ∧ p.length ≤ 248 ∧ f ≠ .eccFails :=
  ⟨(.lcp 63), 0x12345678, [1,2,3,4,5], .runs, (A fun a => {a with lifecycle := 3}),
    by unfold State.Ok AnchorIdle; decide +kernel⟩

theorem wit_AnchorGates_3 : ∃ (m : Master) (tag : Nat) (p : List Byte) (f : AnchorFate) (s : State),
    s.Ok ∧ s.fld R.ANCHOR_STATUS_READY = 1 ∧ s.fld R.ANCHOR_STATUS_BUSY = 0 ∧ m.holds rightSecure = true ∧
    s.anchorFenced causeSelftest = true ∧ p.length ≤ 248 ∧ f ≠ .eccFails :=
  ⟨.block, 0x12345678, [1,2,3,4,5], .runs, (fen (A) 0x100), by unfold State.Ok; decide +kernel⟩

theorem wit_AnchorGates_4 : ∃ (m : Master) (tag : Nat) (p : List Byte) (f : AnchorFate) (s : State),
    s.Ok ∧ s.fld R.ANCHOR_STATUS_READY = 1 ∧ s.fld R.ANCHOR_STATUS_BUSY = 0 ∧ m.isMachine = true ∧
    s.anchorFenced causeEntropy = true ∧ s.anchorFenced causeSelftest = false ∧
    s.anchorFenced causeKeystore = false ∧ p.length ≤ 248 ∧ f ≠ .eccFails :=
  ⟨(.hart 1 true), 0x12345678, [1,2,3,4,5], .storeFails, (fen (A) 0x101), by unfold State.Ok; decide +kernel⟩

theorem wit_AnchorGates_5 : ∃ (s : State),
    s.Ok :=
  ⟨(A), by unfold State.Ok; decide +kernel⟩

theorem wit_AnchorKeys_1 : ∃ (m : Master) (tag : Nat) (s : State),
    s.Ok ∧ AnchorIdle s ∧ m.holds rightSecure = true :=
  ⟨(.lcp 63), 9, (A (ks 4 aes)), by unfold State.Ok AnchorIdle; decide +kernel⟩

theorem wit_AnchorKeys_2 : ∃ (m : Master) (tag n : Nat) (s : State),
    s.Ok ∧ AnchorIdle s ∧ m.holds rightSecure = true ∧ s.anchor.lifecycle ≤ 3 ∧ n ≤ 244 :=
  ⟨(.lcp 63), 9, 33, (A (ks 4 aes)), by unfold State.Ok AnchorIdle; decide +kernel⟩

theorem wit_AnchorKeys_3 : ∃ (h tag n type attr : Nat) (s : State),
    s.Ok ∧ AnchorIdle s ∧ s.anchor.lifecycle ≠ 3 ∧ 1 ≤ type ∧ type ≤ 5 ∧ attr < 64 ∧
    ((n = 2 ∧ type = 4) ∨ (11 ≤ n ∧ n ≤ 18)) :=
  ⟨2, 9, 12, 4, 5, (A (ks 12 aes)), by unfold State.Ok AnchorIdle; decide +kernel⟩

theorem wit_AnchorKeys_4 : ∃ (m : Master) (tag n type attr : Nat) (key : List Byte) (s : State),
    s.Ok ∧ AnchorIdle s ∧ m.isMachine = true ∧ s.anchor.lifecycle ≠ 3 ∧ 1 ≤ type ∧ type ≤ 3 ∧ attr < 64 ∧
    key.length = keyLen type ∧ ((3 ≤ n ∧ n ≤ 4 ∧ type = 1) ∨ (11 ≤ n ∧ n ≤ 18 ∧ s.anchor.lifecycle = 1)) :=
  ⟨.block, 9, 3, 1, 7, (List.replicate 16 1), (A (ks 3 aes)), by unfold State.Ok AnchorIdle; decide +kernel⟩

theorem wit_AnchorKeys_5 : ∃ (m : Master) (tag k attr : Nat) (key : List Byte) (s : State),
    s.Ok ∧ AnchorIdle s ∧ m.isMachine = true ∧ s.anchor.lifecycle ≠ 3 ∧ k < 4 ∧ attr < 64 ∧ key.length = 16 :=
  ⟨.block, 9, 2, 7, (List.replicate 16 1), (A (ks 7 aes) [(R.SIDE_KEYSTAT_EXHAUSTED,15)]),
    by unfold State.Ok AnchorIdle; decide +kernel⟩

theorem wit_AnchorKeys_6 : ∃ (m : Master) (tag st : Nat) (p : List Byte) (s : State),
    s.Ok ∧ AnchorIdle s ∧ m.isMachine = true ∧ s.anchor.lifecycle ≠ 3 ∧
    (p, st) ∈ [([0, 1, 0, 0], 3), ([9, 4, 0, 0], 3), ([2, 1, 0, 0], 2), ([19, 1, 0, 0], 2), ([11, 6, 0, 0], 1), ([11, 1, 0], 1)] :=
  ⟨.block, 9, 3, [0,1,0,0], (A (ks 7 aes)), by unfold State.Ok AnchorIdle; decide +kernel⟩

theorem wit_AnchorKeys_7 : ∃ (m : Master) (tag n : Nat) (s : State),
    s.Ok ∧ AnchorIdle s ∧ m.isMachine = true ∧ s.anchor.lifecycle ≠ 3 ∧
    n ∈ [2, 3, 4, 11, 12, 13, 14, 15, 16, 17, 18] :=
  ⟨.block, 9, 12, (A (ks 12 aes)), by unfold State.Ok AnchorIdle; decide +kernel⟩

theorem wit_AnchorKeys_8 : ∃ (m : Master) (tag : Nat) (s : State),
    s.Ok ∧ AnchorIdle s ∧ m.holds rightSecure = true ∧ s.anchor.lifecycle ≠ 3 :=
  ⟨(.lcp 63), 9, (A (ks 3 aes)), by unfold State.Ok AnchorIdle; decide +kernel⟩

theorem wit_AnchorKeys_9 : ∃ (m : Master) (tag : Nat) (s : State),
    s.Ok ∧ AnchorIdle s ∧ m.isMachine = true ∧ s.anchor.lifecycle ≠ 3 :=
  ⟨.block, 9, (A (ks 4 aes)), by unfold State.Ok AnchorIdle; decide +kernel⟩

theorem wit_AnchorKeys_10 : ∃ (m : Master) (tag use h : Nat) (label context : List Byte) (s : State),
    s.Ok ∧ AnchorIdle s ∧ m.holds rightSecure = true ∧ s.anchor.lifecycle ≠ 3 ∧ use < 256 ∧ h < 256 ∧
    1 ≤ label.length ∧ label.length ≤ 64 ∧ 1 ≤ context.length ∧ context.length ≤ 64 :=
  ⟨.block, 9, 0x34, 0, [0x46,0x57,0x3A,1], [5], (A), by unfold State.Ok AnchorIdle; decide +kernel⟩

theorem wit_AnchorAlgorithms_1 : ∃ (m : Master) (tag alg a n : Nat) (s : State),
    s.Ok ∧ AnchorIdle s ∧ m.holds rightSecure = true ∧ (alg = 1 ∨ alg = 2) ∧ a < 2 ^ 32 ∧ n < 2 ^ 32 :=
  ⟨.block, 9, 1, 0x10000110, 9, (sr (A)), by unfold State.Ok AnchorIdle; decide +kernel⟩

theorem wit_AnchorAlgorithms_2 : ∃ (m : Master) (tag h a n : Nat) (s : State),
    s.Ok ∧ AnchorIdle s ∧ m.holds rightSecure = true ∧ s.anchor.lifecycle ≠ 3 ∧ 11 ≤ h ∧ h ≤ 18 ∧ a < 2 ^ 32 ∧
    n < 2 ^ 32 :=
  ⟨.block, 9, 12, 0x10000110, 9, (sr (A)), by unfold State.Ok AnchorIdle; decide +kernel⟩

theorem wit_AnchorAlgorithms_3 : ∃ (m : Master) (tag h mode tagLen src dst aadLen len : Nat) (iv : List Byte) (s : State),
    s.Ok ∧ AnchorIdle s ∧ m.holds rightSecure = true ∧ s.anchor.lifecycle ≠ 3 ∧ 11 ≤ h ∧ h ≤ 18 ∧ mode ∈ [1, 3] ∧
    (iv.length = (if mode = 1 then 12 else 13)) ∧ 1 ≤ tagLen ∧ tagLen ≤ 16 ∧
    ((s.keySlot h).type = 1 ∨ (s.keySlot h).type = 2) ∧ bitSet (s.keySlot h).attr 3 = true ∧ 0x10000000 ≤ src ∧
    src + aadLen + len ≤ 0x10400000 ∧ 0x10000000 ≤ dst ∧ dst + len ≤ 0x10400000 ∧ s.mem.sramBad = [] :=
  ⟨.block, 9, 12, 1, 8, 0x10000110, 0x10000200, 5, 9, (List.replicate 12 3), (sr (A (ks 12 aes))),
    by unfold State.Ok AnchorIdle; decide +kernel⟩

/-- The SRAM of the witness, with tag bytes `b` behind the data. -/
def tagged (b : Byte) : State :=
  let s : State := (sr (A (ks 12 aes)))
  { s with mem := { s.mem with sram := memWrite s.mem.sram 286 (List.replicate 16 b) } }

theorem wit_AnchorAlgorithms_4 : ∃ (m : Master) (tag h mode src dst aadLen len : Nat) (iv : List Byte) (s : State),
    s.Ok ∧ AnchorIdle s ∧ m.holds rightSecure = true ∧ s.anchor.lifecycle ≠ 3 ∧ 11 ≤ h ∧ h ≤ 18 ∧ mode ∈ [2, 4] ∧
    (iv.length = (if mode = 2 then 12 else 13)) ∧ ((s.keySlot h).type = 1 ∨ (s.keySlot h).type = 2) ∧
    bitSet (s.keySlot h).attr 3 = true ∧ 0x10000000 ≤ src ∧ src + aadLen + len + 16 ≤ 0x10400000 ∧
    0x10000000 ≤ dst ∧ dst + len ≤ 0x10400000 ∧
    memRead s.mem.sram (src + aadLen + len - 0x10000000) 16 ≠ Config.cipherTag mode (s.keySlot h).key iv (memRead s.mem.sram (src - 0x10000000) aadLen) (memRead s.mem.sram (src + aadLen - 0x10000000) len) := by
  have key : ∀ b, b = 1#8 ∨ b = 2#8 → Config.cipherTag 4 ((tagged b).keySlot 12).key (List.replicate 13 3)
      (memRead (tagged b).mem.sram 272 5) (memRead (tagged b).mem.sram 277 9) =
      Config.cipherTag 4 (aes.key) (List.replicate 13 3) (memRead (tagged 1#8).mem.sram 272 5)
        (memRead (tagged 1#8).mem.sram 277 9) := by
    rintro b (rfl | rfl)
    · rfl
    · have e1 : memRead (tagged 2#8).mem.sram 272 5 = memRead (tagged 1#8).mem.sram 272 5 := by decide +kernel
      have e2 : memRead (tagged 2#8).mem.sram 277 9 = memRead (tagged 1#8).mem.sram 277 9 := by decide +kernel
      rw [e1, e2]; rfl
  by_cases h : Config.cipherTag 4 (aes.key) (List.replicate 13 3) (memRead (tagged 1#8).mem.sram 272 5)
      (memRead (tagged 1#8).mem.sram 277 9) = List.replicate 16 1#8
  · refine ⟨.block, 9, 12, 4, 0x10000110, 0x10000110, 5, 9, (List.replicate 13 3), tagged 2#8, by unfold State.Ok; decide +kernel, by unfold AnchorIdle; decide +kernel, by decide +kernel, by decide +kernel, by decide +kernel, by decide +kernel, by decide +kernel, by decide +kernel, by decide +kernel, by decide +kernel, by decide +kernel, by decide +kernel, by decide +kernel, by decide +kernel, fun e => ?_⟩
    rw [show memRead (tagged 2#8).mem.sram (0x10000110 + 5 + 9 - 0x10000000) 16 = List.replicate 16 2#8 by decide +kernel] at e
    exact absurd (e.trans ((key _ (Or.inr rfl)).trans h)) (by decide)
  · refine ⟨.block, 9, 12, 4, 0x10000110, 0x10000110, 5, 9, (List.replicate 13 3), tagged 1#8, by unfold State.Ok; decide +kernel, by unfold AnchorIdle; decide +kernel, by decide +kernel, by decide +kernel, by decide +kernel, by decide +kernel, by decide +kernel, by decide +kernel, by decide +kernel, by decide +kernel, by decide +kernel, by decide +kernel, by decide +kernel, by decide +kernel, fun e => h ?_⟩
    rw [show memRead (tagged 1#8).mem.sram (0x10000110 + 5 + 9 - 0x10000000) 16 = List.replicate 16 1#8 by decide +kernel] at e
    exact ((key _ (Or.inl rfl)).symm.trans e.symm)

theorem wit_AnchorAlgorithms_5 : ∃ (m : Master) (tag h : Nat) (digest : List Byte) (s : State),
    s.Ok ∧ AnchorIdle s ∧ m.holds rightSecure = true ∧ s.anchor.lifecycle ≠ 3 ∧ 11 ≤ h ∧ h ≤ 18 ∧
    (s.keySlot h).type = 4 ∧ digest.length = 32 :=
  ⟨.block, 9, 12, (List.replicate 32 3), (A (ks 12 ec)), by unfold State.Ok AnchorIdle; decide +kernel⟩

theorem wit_AnchorAlgorithms_6 : ∃ (m : Master) (tag : Nat) (pub digest sig : List Byte) (s : State),
    s.Ok ∧ AnchorIdle s ∧ m.holds rightSecure = true ∧ pub.length = 64 ∧ digest.length = 32 ∧ sig.length = 64 :=
  ⟨.block, 9, (List.replicate 64 3), (List.replicate 32 3), (List.replicate 64 4), (A (ks 12 ec)),
    by unfold State.Ok AnchorIdle; decide +kernel⟩

theorem wit_AnchorAlgorithms_7 : ∃ (m : Master) (tag : Nat) (digest sig : List Byte) (s : State),
    s.Ok ∧ AnchorIdle s ∧ m.holds rightSecure = true ∧ digest.length = 32 ∧ sig.length = 64 :=
  ⟨.block, 9, (List.replicate 32 3), (List.replicate 64 4), (A (ks 10 ec64)),
    by unfold State.Ok AnchorIdle; decide +kernel⟩

theorem wit_AnchorAlgorithms_8 : ∃ (m : Master) (tag session : Nat) (nonce eph : List Byte) (s : State),
    s.Ok ∧ AnchorIdle s ∧ m.holds rightSecure = true ∧ s.anchor.lifecycle ≠ 3 ∧ session < 2 ^ 32 ∧
    nonce.length = 16 ∧ eph.length = 64 :=
  ⟨.block, 9, 7, (List.replicate 16 3), (List.replicate 64 4), (A), by unfold State.Ok AnchorIdle; decide +kernel⟩

theorem wit_AnchorAlgorithms_9 : ∃ (m : Master) (tag : Nat) (msg : List Byte) (s : State),
    s.Ok ∧ AnchorIdle s ∧ m.holds rightSecure = true ∧ s.anchor.lifecycle ≠ 3 ∧ 8 ≤ msg.length ∧ msg.length ≤ 232 :=
  ⟨.block, 9, [0x4C,0x43,1,2,5,6,7,8], (A), by unfold State.Ok AnchorIdle; decide +kernel⟩

theorem wit_AnchorAlgorithms_10 : ∃ (m : Master) (tag seq : Nat) (s : State),
    s.Ok ∧ AnchorIdle s ∧ m.holds rightSecure = true ∧ s.anchor.lifecycle ≠ 3 ∧ s.slotFull 2 = true ∧ seq < 2 ^ 32 :=
  ⟨.block, 9, 7, (A (ks 2 ec)), by unfold State.Ok AnchorIdle; decide +kernel⟩

theorem wit_AnchorAlgorithms_11 : ∃ (m : Master) (tag n : Nat) (nonce : List Byte) (s : State),
    s.Ok ∧ AnchorIdle s ∧ m.holds rightSecure = true ∧ 1 ≤ n ∧ n ≤ 18 ∧ nonce.length = 32 :=
  ⟨.block, 9, 3, (List.replicate 32 8), (A (ks 3 aes)), by unfold State.Ok AnchorIdle; decide +kernel⟩

theorem wit_AnchorAlgorithms_12 : ∃ (m : Master) (tag off : Nat) (s : State),
    s.Ok ∧ AnchorIdle s ∧ m.holds rightSecure = true ∧ off < 65536 :=
  ⟨.block, 9, 5, (A), by unfold State.Ok AnchorIdle; decide +kernel⟩

theorem wit_AnchorPolicies_1 : ∃ (m : Master) (tag target : Nat) (s : State),
    s.Ok ∧ AnchorIdle s ∧ m.isMachine = true ∧ s.anchor.lifecycle ≠ 3 ∧ target < 256 :=
  ⟨.block, 9, 1, (A (ks 12 aes)), by unfold State.Ok AnchorIdle; decide +kernel⟩

theorem wit_AnchorPolicies_2 : ∃ (m : Master) (tag : Nat) (pub : List Byte) (s : State),
    s.Ok ∧ AnchorIdle s ∧ m.isMachine = true ∧ s.anchor.lifecycle ≠ 3 ∧ pub.length = 64 :=
  ⟨.block, 9, (List.replicate 64 8), (A), by unfold State.Ok AnchorIdle; decide +kernel⟩

theorem wit_AnchorPolicies_3 : ∃ (m : Master) (tag : Nat) (s : State),
    s.Ok ∧ AnchorIdle s ∧ m.isMachine = true ∧ s.anchor.lifecycle ≠ 3 :=
  ⟨.block, 9, (A), by unfold State.Ok AnchorIdle; decide +kernel⟩

theorem wit_AnchorPolicies_4 : ∃ (m : Master) (tag level : Nat) (active : Bool) (s : State),
    s.Ok ∧ AnchorIdle s ∧ m.isMachine = true ∧ s.anchor.lifecycle ≠ 3 ∧ level ≤ 3 :=
  ⟨.block, 9, 3, true, (A), by unfold State.Ok AnchorIdle; decide +kernel⟩

theorem wit_AnchorPolicies_5 : ∃ (m : Master) (tag : Nat) (active : Bool) (s : State),
    s.Ok ∧ AnchorIdle s ∧ m.isMachine = true ∧ s.anchor.lifecycle ≠ 3 :=
  ⟨.block, 9, true, (A), by unfold State.Ok AnchorIdle; decide +kernel⟩

theorem wit_AnchorPolicies_6 : ∃ (m : Master) (tag a n : Nat) (s : State),
    s.Ok ∧ AnchorIdle s ∧ m.isMachine = true ∧ s.anchor.lifecycle = 1 ∧ a < 2 ^ 32 ∧ n < 2 ^ 32 ∧ s.mem.sramBad = [] :=
  ⟨.block, 9, 0x10000200, 128, (tbl (A) 5), by unfold State.Ok AnchorIdle; decide +kernel⟩

theorem wit_AnchorPolicies_7 : ∃ (m : Master) (tag a n : Nat) (s : State),
    s.Ok ∧ AnchorIdle s ∧ m.holds rightSecure = true ∧ s.anchor.lifecycle ≠ 3 ∧ a < 2 ^ 32 ∧ n < 2 ^ 32 :=
  ⟨.block, 9, 0x10000200, 128, (tbl (A) 5), by unfold State.Ok AnchorIdle; decide +kernel⟩

end Anchor

end Sys2Proof.Tests
end

section
/-! The write path of PG_LOCK (R14, R359), and why O8 fails: a write of PG_LOCK on page WDT is also a write between the
two writes of a watchdog kick (R355), so it ends a kick that has begun, and that is no register. -/
namespace Sys2Proof.Machine

/-! ## From the bus to PG_LOCK -/

/-- Every assigned page lies below the end of the register window (R333). -/
theorem lt_of_pageAssigned {page : Nat} (h : pageAssigned page = true) : page < 0x50 := by
  obtain ⟨regs, hl⟩ := Option.isSome_iff_exists.mp h
  have hm : (page, regs) ∈ pageTable := by
    obtain ⟨l₁, l₂, he, -⟩ := List.lookup_eq_some_iff.mp hl
    simp [he]
  have all : ∀ e ∈ pageTable, e.1 < 0x50 := by decide
  exact all _ hm

/-- An aligned write within an assigned page reaches that page, whoever makes it. -/
theorem State.busWrite_of_assigned (s : State) (m : Master) {page off : Nat} (v : Word)
    (hp : pageAssigned page = true) (ho : off < 0x1000) (ha : off % 4 = 0) :
    s.busWrite m page off v = s.regWrite m page off v := by
  have hlt := lt_of_pageAssigned hp
  have hmod : (page * 0x1000 + off) % 4 = 0 := by omega
  have hin : ¬ 0x50000 ≤ page * 0x1000 + off := by omega
  have hpage : (page * 0x1000 + off) / 0x1000 = page := by omega
  have hoff : (page * 0x1000 + off) % 0x1000 = off := by omega
  cases m <;> simp [State.busWrite, hmod, hin, hpage, hoff]

/-- PG_LOCK stands in the header of every assigned page. -/
theorem findReg_pgLock {page : Nat} (hp : pageAssigned page = true) :
    findReg page 0x01C = some ⟨0x01C, 0, 1, 0x1, 0, 0, 0, 0, 0xFFFF0000, 0x2⟩ := by
  unfold findReg
  rw [if_pos hp]
  rfl

/-- A write of PG_LOCK of a present page: its reserved bits must be 0 (R9), and then it is `lockWrite`. -/
theorem State.regWrite_pgLock (s : State) (m : Master) {page : Nat} (v : Word) (hp : pageAssigned page = true)
    (ha : s.pageAbsent page = false) : s.regWrite m page 0x01C v =
      if Nat.land v.toNat 0xFFFC ≠ 0 then .fault (.unpredictable 9) else s.after (s.lockWrite m page v) := by
  unfold State.regWrite
  simp only [hp, ha, findReg_pgLock hp, Bool.not_true, Bool.false_eq_true, if_false]
  rfl

/-- PG_LOCK_WRITE on a present page. -/
theorem exec_pgLockWrite (s : State) (m : Master) {page : Nat} (v : Word) (hp : pageAssigned page = true)
    (ha : s.pageAbsent page = false) : exec (.pgLockWrite m page v) s =
      if Nat.land v.toNat 0xFFFC ≠ 0 then .fault (.unpredictable 9)
      else s.begin.after (s.begin.lockWrite m page v) :=
  (State.busWrite_of_assigned s.begin m v hp (by decide) (by decide)).trans (State.regWrite_pgLock s.begin m v hp ha)

/-! ## A write of PG_LOCK and a kick that has begun -/

/-- Accepted by right, a write of WDT's PG_LOCK ends a kick sequence, with whatever key (R355). -/
theorem State.lockWrite_wdt_armed {s t : State} {m : Master} {v : Word} (hm : m.holds (pageRight pWDT) = true)
    (h : s.lockWrite m pWDT v = .next t) : t.wdt.armed = false := by
  have hd : (s.disarm pWDT).wdt.armed = false := rfl
  unfold State.lockWrite State.asWrite at h
  rw [if_pos hm] at h
  split at h
  · cases h
    exact hd
  · split at h <;> cases h <;> exact hd

/-- Answers put before those of an outcome leave the watchdogs as the outcome has them. -/
theorem State.after_next_wdt {s t : State} {r : Res} (h : s.after r = .next t) :
    ∃ u, r = .next u ∧ t.wdt = u.wdt := by
  cases r with
  | next u =>
    cases h
    exact ⟨u, rfl, rfl⟩
  | fault e => cases h
  | refused e => cases h

/-- After PG_LOCK_WRITE on page WDT by a master with the right, no kick sequence is under way. -/
theorem exec_pgLockWrite_wdt_armed {s t : State} {m : Master} {v : Word} (hm : m.holds (pageRight pWDT) = true)
    (h : exec (.pgLockWrite m pWDT v) s = .next t) : t.wdt.armed = false := by
  rw [exec_pgLockWrite s m v rfl (pageAbsent_of_ne s (by decide) (by decide))] at h
  split at h
  · cases h
  · obtain ⟨u, hu, hw⟩ := State.after_next_wdt h
    rw [hw]
    exact State.lockWrite_wdt_armed hm hu

/-- A command that touches registers alone leaves the kick sequence where it was. -/
theorem RegsOnly.wdt {s t : State} (h : RegsOnly s t) : t.wdt = s.wdt := by
  unfold RegsOnly at h
  exact (congrArg State.wdt h :)

/-! ## The counterexample -/

/-- A module out of reset, before any write. -/
def outOfReset : State := { State.reset with rst := { State.reset.rst with down := [], phase := .none } }

/-- The same module after hart 0 has made the first write of a watchdog kick. -/
def kickBegun : State := { outOfReset with wdt := { armed := true } }

/-- No arm is set and no kick has begun, so there is nothing for a write to consume. -/
theorem outOfReset_disarm : outOfReset.begin.disarm pWDT = outOfReset := by
  decide

/-- The model reaches `kickBegun`: it is what the first write of a kick leaves. -/
theorem exec_wdtSysKick_outOfReset : exec (.wdtSysKick (.hart 0 true) 0xA5F0#32) outOfReset = .next kickBegun := by
  show execWdtSysKick (.hart 0 true) 0xA5F0#32 outOfReset = _
  simp [execWdtSysKick, State.asWrite, Master.holds, outOfReset_disarm, kickBegun]

theorem kickBegun_ok : kickBegun.Ok := by
  unfold State.Ok
  decide

/-- Refutes O8: hart 0, in M-mode, begins a watchdog kick and then writes PG_LOCK of page WDT with a wrong key. By R355
the kick is broken, so the write changes more than registers, which the first clause's `RegsOnly` denies. -/
theorem not_lockKeyed : ¬ Obligations.LockKeyed := by
  unfold Obligations.LockKeyed
  rintro ⟨hlock, -⟩
  obtain ⟨t, ht, -, -, hregs, -⟩ := hlock (.hart 0 true) pWDT 0#32 kickBegun kickBegun_ok rfl rfl rfl rfl
  have broken : t.wdt.armed = false := exec_pgLockWrite_wdt_armed rfl ht
  have kept : t.wdt.armed = true := congrArg WdtS.armed hregs.wdt
  exact absurd (broken.symm.trans kept) (by decide)

end Sys2Proof.Machine
end

section
/-! A fault of a PMBus rail fences it (R257, R259), and the rest of the same command keeps that fence and its cause: each
later fence joins behind those already in force, and PG_FENCE keeps a unit's first cause (R12). -/
namespace Sys2Proof.Machine

/-! ## The fences of a state and the operations of a rail -/

@[simp] theorem State.setRail_fences (s : State) (r : Nat) (x : RailS) : (s.setRail r x).fences = s.fences := rfl
@[simp] theorem State.setRail_pins (s : State) (r : Nat) (x : RailS) : (s.setRail r x).pins = s.pins := rfl
@[simp] theorem State.pmbOk_fences (s : State) (r : Nat) : (s.pmbOk r).fences = s.fences := rfl
@[simp] theorem State.pmbOk_pins (s : State) (r : Nat) : (s.pmbOk r).pins = s.pins := rfl

@[simp] theorem State.showRail_fences (s : State) (r : Nat) : (s.showRail r).fences = s.fences := by
  unfold State.showRail
  rw [State.setBit_fences, State.setFlds_fences]

@[simp] theorem State.showTelem_fences (s : State) : s.showTelem.fences = s.fences := State.setFlds_fences _ _

@[simp] theorem State.popWord_fences (s : State) : s.popWord.fences = s.fences := by
  unfold State.popWord
  split
  · rfl
  · rw [State.emit_fences, State.showTelem_fences]

@[simp] theorem State.swapBanks_fences (s : State) : s.swapBanks.fences = s.fences := by
  unfold State.swapBanks
  dsimp only
  split
  · simp only [State.showTelem_fences, State.popWord_fences, State.irq_fences, State.inc_fences]
  · simp only [State.showTelem_fences, State.irq_fences, State.inc_fences]

/-- A fence that is not yet in force goes behind those that are. -/
theorem State.fence_fences (s : State) (p u c d : Nat) :
    (s.fence p u c d).fences = if s.hasFence p u then s.fences else s.fences ++ [⟨p, u, c⟩] := by
  unfold State.fence
  by_cases h : s.hasFence p u = true
  · simp [h]
  · simp only [h, Bool.false_eq_true, if_false, State.occur_fences]
    split <;> simp

@[simp] theorem State.fenceRail_fences (s : State) (r c : Nat) :
    (s.fenceRail r c).fences = (s.fence pRAIL r c 0).fences := by
  unfold State.fenceRail
  split
  · rfl
  · rw [State.showRail_fences, State.setRail_fences, State.irq_fences]

/-! ## Fences join behind those in force -/

theorem State.prefix_fence {l : List Fence} {s : State} (h : l <+: s.fences) (p u c d : Nat) :
    l <+: (s.fence p u c d).fences := by
  rw [State.fence_fences]
  split
  · exact h
  · exact h.trans (List.prefix_append _ _)

theorem State.prefix_pmbRefused {l : List Fence} {s : State} (h : l <+: s.fences) (r : Nat) :
    l <+: (s.pmbRefused r).fences := by
  unfold State.pmbRefused
  dsimp only
  split
  · rwa [State.setRail_fences, State.inc_fences]
  · rw [State.fenceRail_fences]
    refine State.prefix_fence ?_ _ _ _ _
    rwa [State.setRail_fences, State.setRail_fences, State.inc_fences]

/-- The state in which a source forms its item: an uncorrectable buffer has fenced the source (R268). -/
def State.telemSource (s : State) (cls : Nat) : Ecc → State
  | .uncorrectable => (s.fence pTELEM cls causeEcc 0).setBit R.TELEM_SRC_FENCED_SRC cls true
  | _ => s

theorem State.prefix_telemSource {l : List Fence} {s : State} (h : l <+: s.fences) (cls : Nat) (e : Ecc) :
    l <+: (s.telemSource cls e).fences := by
  cases e with
  | uncorrectable =>
    show l <+: ((s.fence pTELEM cls causeEcc 0).setBit R.TELEM_SRC_FENCED_SRC cls true).fences
    rw [State.setBit_fences]
    exact State.prefix_fence h _ _ _ _
  | _ => exact h

/-- An item goes into the fill bank, or it is dropped where both banks are taken (R262, R263). -/
def State.enqueueItem (s : State) (item : TelemItem) : State :=
  let full := decide (4096 < bankWords s.telem.fill + item.length)
  if full && s.telem.drain ≠ [] then ((s.inc R.TELEM_CNT_DROP_N).setFld R.TELEM_STATUS_OVF 1).irq pTELEM 1
  else
    let s1 := if full then s.swapBanks else s
    (({ s1 with telem := { s1.telem with fill := s1.telem.fill ++ [item] } }).inc R.TELEM_CNT_ITEMS_N).showTelem

@[simp] theorem State.enqueueItem_fences (s : State) (item : TelemItem) : (s.enqueueItem item).fences = s.fences := by
  unfold State.enqueueItem
  dsimp only
  split
  · rw [State.irq_fences, State.setFld_fences, State.inc_fences]
  · rw [State.showTelem_fences, State.inc_fences]
    split
    · exact State.swapBanks_fences s
    · rfl

theorem State.telemItem_eq (s : State) (cls src : Nat) (words : List Nat) (e : Ecc) :
    s.telemItem cls src words e =
      if !s.bit R.TELEM_CFG_SRC_EN cls then s
      else if (s.telemSource cls e).bit R.TELEM_SRC_FENCED_SRC cls then
        (s.telemSource cls e).inc R.TELEM_CNT_DROP_N
      else (s.telemSource cls e).enqueueItem
        (telemHeader (cls + 1) words.length src :: words.map (BitVec.ofNat 32)) := by
  cases e <;> rfl

theorem State.prefix_telemItem {l : List Fence} {s : State} (h : l <+: s.fences) (cls src : Nat) (words : List Nat)
    (e : Ecc) : l <+: (s.telemItem cls src words e).fences := by
  have source := State.prefix_telemSource h cls e
  rw [State.telemItem_eq]
  split
  · exact h
  · split
    · rwa [State.inc_fences]
    · rwa [State.enqueueItem_fences]

theorem State.prefix_noteStatus {l : List Fence} {s : State} (h : l <+: s.fences) (r : Nat) (status : Option Nat)
    (due : Bool) (e : Ecc) : l <+: (s.noteStatus r status due e).fences := by
  unfold State.noteStatus
  dsimp only
  split
  · unfold State.statusItem
    refine State.prefix_telemItem ?_ _ _ _ _
    exact h
  · exact h

/-- What a poll does after its STATUS_WORD read adds fences behind those that the read left. -/
theorem State.prefix_statusPoll (s : State) (r : Nat) (status vout : Option Nat) (e : Ecc) :
    (s.readStatus r status).fences <+: (s.statusPoll r status vout e).fences := by
  unfold State.statusPoll
  generalize s.readStatus r status = t
  dsimp only
  refine State.prefix_noteStatus ?_ _ _ _ _
  rw [State.setRail_fences]
  cases vout with
  | none => exact State.prefix_pmbRefused List.prefix_rfl r
  | some v => exact List.prefix_rfl

/-! ## The fence of a rail -/

/-- The rail's fence, where one is in force. -/
def State.railFence (s : State) (r : Nat) : Option Fence := s.fences.find? fun f => f.page = pRAIL && f.unit = r

theorem State.railFenced_iff (s : State) (r : Nat) : s.railFenced r = true ↔ ∃ f, s.railFence r = some f := by
  rw [← Option.isSome_iff_exists]
  simp [State.railFenced, State.hasFence, State.railFence]

theorem State.railCause_of_railFence {s : State} {r : Nat} {f : Fence} (h : s.railFence r = some f) :
    s.railCause r = f.cause := by
  show ((s.railFence r).map (·.cause)).getD 0 = f.cause
  rw [h]
  rfl

/-- A fence of the rail that has just joined is the rail's fence. -/
theorem State.railFence_of_append {s t : State} {r c : Nat} (h : s.railFenced r = false)
    (ht : t.fences = s.fences ++ [⟨pRAIL, r, c⟩]) : t.railFence r = some ⟨pRAIL, r, c⟩ := by
  have hnone : s.fences.find? (fun f => f.page = pRAIL && f.unit = r) = none := by
    simpa [State.railFenced, State.hasFence] using h
  rw [State.railFence, ht, List.find?_append, hnone]
  simp

/-- The rail is fenced in `t`, and where it was not in `s`, PMB_FAULT is the cause (R257). -/
def FaultFenced (r : Nat) (s t : State) : Prop :=
  t.railFenced r = true ∧ (s.railFenced r = false → t.railCause r = causePmbFault)

/-- Fences that join later leave the rail fenced, and its cause as it is. -/
theorem FaultFenced.of_prefix {r : Nat} {s t u : State} (h : FaultFenced r s t) (hp : t.fences <+: u.fences) :
    FaultFenced r s u := by
  obtain ⟨hfenced, hcause⟩ := h
  obtain ⟨f, hf⟩ := (t.railFenced_iff r).mp hfenced
  have hu : u.railFence r = some f := hp.find?_eq_some hf
  refine ⟨(u.railFenced_iff r).mpr ⟨f, hu⟩, fun hn => ?_⟩
  rw [State.railCause_of_railFence hu, ← State.railCause_of_railFence hf, hcause hn]

theorem State.railFenced_congr {s t : State} (h : t.fences = s.fences) (r : Nat) : t.railFenced r = s.railFenced r := by
  simp only [State.railFenced, State.hasFence, h]

/-- A rail fences itself with PMB_FAULT, in a state with the fences of `s`. -/
theorem State.fenceRail_faultFenced {s t : State} (ht : t.fences = s.fences) (r : Nat) :
    FaultFenced r s (t.fenceRail r causePmbFault) := by
  refine ⟨?_, fun hn => ?_⟩
  · rw [State.railFenced_congr (State.fenceRail_fences t r causePmbFault)]
    exact fence_hasFence t pRAIL r causePmbFault 0
  · have hnew : t.hasFence pRAIL r = false := (State.railFenced_congr ht r).trans hn
    have hadd : (t.fenceRail r causePmbFault).fences = s.fences ++ [⟨pRAIL, r, causePmbFault⟩] := by
      rw [State.fenceRail_fences, State.fence_fences, hnew, ht]
      rfl
    exact State.railCause_of_railFence (State.railFence_of_append hn hadd)

/-- A valid STATUS_WORD is stored (R256). -/
def State.storeStatus (s : State) (r w : Nat) : State :=
  ((s.pmbOk r).setRail r { (s.pmbOk r).rail r with statusOk := true }).setFld (R.RAIL_VOUT_STATUS_WORD r) w

theorem State.storeStatus_fences (s : State) (r w : Nat) : (s.storeStatus r w).fences = s.fences := by
  rw [State.storeStatus, State.setFld_fences, State.setRail_fences, State.pmbOk_fences]

theorem State.storeStatus_pins (s : State) (r w : Nat) : (s.storeStatus r w).pins = s.pins := by
  rw [State.storeStatus, State.setFld_pins, State.setRail_pins, State.pmbOk_pins]

/-- A fault that begins while RAIL_ENr is high fences the rail (R257). -/
theorem State.readStatus_some (s : State) (r w : Nat) :
    s.readStatus r (some w) =
      if (s.storeStatus r w).pins.railEn.contains r && (statusFault w &&
          (!s.railFenced r || !statusFault (s.fld (R.RAIL_VOUT_STATUS_WORD r)))) then
        (s.storeStatus r w).fenceRail r causePmbFault
      else s.storeStatus r w := by
  unfold State.readStatus State.storeStatus
  dsimp only

/-- R257: a STATUS_WORD with a fault bit, read while RAIL_ENr is high. A rail that is fenced already stays so. -/
theorem State.readStatus_faultFenced {s : State} {r w : Nat} (hen : r ∈ s.pins.railEn) (hw : statusFault w = true) :
    FaultFenced r s (s.readStatus r (some w)) := by
  have stored := s.storeStatus_fences r w
  rw [State.readStatus_some, State.storeStatus_pins, List.contains_iff_mem.mpr hen, hw]
  generalize s.storeStatus r w = t at stored ⊢
  cases hf : s.railFenced r with
  | false =>
    rw [if_pos (by simp)]
    exact State.fenceRail_faultFenced stored r
  | true =>
    split
    · exact State.fenceRail_faultFenced stored r
    · exact ⟨(State.railFenced_congr stored r).trans hf, fun hn => absurd (hf.symm.trans hn) (by decide)⟩

theorem statusFault_iff (w : Nat) :
    statusFault w = true ↔ bitSet w 5 = true ∨ bitSet w 4 = true ∨ bitSet w 2 = true := by
  simp [statusFault, or_assoc]

/-! ## The commands that read STATUS_WORD -/

/-- A poll of a rail the module transacts for. -/
theorem exec_pmbusStatusPoll_of_runs {s : State} {r : Nat} (status vout : Option Nat) (e : Ecc)
    (h : s.pmbRuns r = true) :
    exec (.pmbusStatusPoll r status vout e) s = .next (s.begin.statusPoll r status vout e) := by
  show (.next (if s.pmbRuns r then _ else _) : Res) = _
  rw [if_pos h]

/-- The state in which an alert's reads begin (R255): PMB_ALERT_N is low and its event is raised. -/
def State.alerted (s : State) : State := ({ s.begin with pins := { s.pins with pmbAlert := true } }).irq pRAIL 3

theorem State.alerted_fences (s : State) : s.alerted.fences = s.fences := State.irq_fences _ _ _

theorem State.alerted_railEn (s : State) : s.alerted.pins.railEn = s.pins.railEn := by
  rw [State.alerted, State.irq_pins]

/-- The alert's event changes no field apart from its own bit. -/
theorem State.alerted_fld {s : State} {f : Fld} (hs : s.Ok) (hf : f.ok = true)
    (ha : (R.PG_IRQ_RAW_BIT pRAIL 3).apart f = true) : s.alerted.fld f = s.fld f := by
  rw [fld_eq, State.alerted, regs_irq_of_ne _ _ (by decide) (by decide)]
  exact regFld_regPut_other 1 hs.regs rfl hf ha

theorem State.alerted_flag {s : State} {f : Fld} (hs : s.Ok) (hf : f.ok = true)
    (ha : (R.PG_IRQ_RAW_BIT pRAIL 3).apart f = true) : s.alerted.flag f = s.flag f := by
  rw [State.flag, State.alerted_fld hs hf ha]
  rfl

/-- The event bits of page RAIL lie in another register than the control words of its twelve rails. -/
theorem irqRaw_apart_railCtrl {r : Nat} (hr : r < 12) :
    (R.PG_IRQ_RAW_BIT pRAIL 3).apart (R.RAIL_CTRL_IF r) = true ∧
      (R.PG_IRQ_RAW_BIT pRAIL 3).apart (R.RAIL_CTRL_MODE r) = true := by
  have hk : regKey pRAIL 0x00C ≠ regKey pRAIL (0x080 + 0x20 * r) :=
    regKey_ne (by omega) (by omega) (.inr (by omega))
  constructor <;> exact Bool.or_eq_true_iff.mpr (.inl (Bool.or_eq_true_iff.mpr (.inl (decide_eq_true hk))))

/-- An alert does not change for which rails the module transacts. -/
theorem State.alerted_pmbRuns {s : State} (hs : s.Ok) {r : Nat} (hr : r < 12) : s.alerted.pmbRuns r = s.pmbRuns r := by
  obtain ⟨apartIf, apartMode⟩ := irqRaw_apart_railCtrl hr
  have bus : s.alerted.railBus r = s.railBus r := State.alerted_flag hs rfl apartIf
  have mode : s.alerted.railMode r = s.railMode r := State.alerted_fld hs rfl apartMode
  have fwBus : s.alerted.flag R.RAIL_CFG_FW_BUS = s.flag R.RAIL_CFG_FW_BUS := State.alerted_flag hs rfl (by decide)
  have power : s.alerted.power = s.power := State.alerted_fld hs rfl (by decide)
  have lead : s.alerted.isLead = s.isLead := State.alerted_flag hs rfl (by decide)
  have partner : s.alerted.flag R.BELAY_PARTNER_VALID = s.flag R.BELAY_PARTNER_VALID :=
    State.alerted_flag hs rfl (by decide)
  have store : s.alerted.storeCtl = s.storeCtl := State.irq_storeCtl _ _ _
  have rst : s.alerted.rst = s.rst := State.irq_rst _ _ _
  have pwr : s.alerted.pwr = s.pwr := State.irq_pwr _ _ _
  have owns : s.alerted.ownsRail r = s.ownsRail r := by
    simp only [State.ownsRail, lead, store, partner, State.alerted_railEn]
  have grid : s.alerted.gridRuns = s.gridRuns := by
    simp only [State.gridRuns, power, rst, pwr]
  simp only [State.pmbRuns, owns, bus, mode, fwBus, grid, State.inBivouac, power]

/-- An alert that reads one rail the module transacts for. -/
theorem exec_pmbAlert_of_runs {s : State} {r : Nat} (status : Option Nat) (e : Ecc)
    (h : s.alerted.pmbRuns r = true) :
    exec (.pmbAlert ⟨[(r, status)], e⟩) s = .next ((s.alerted.readStatus r status).noteStatus r status false e) := by
  show (.next (if s.alerted.pmbRuns r then
    (s.alerted.readStatus r status).noteStatus r status false e else s.alerted) : Res) = _
  rw [if_pos h]

/-- Settles O34: the STATUS_WORD read fences the rail, and what a poll or an alert does after it only adds fences behind
that one. -/
theorem pmbusFaultFence : Obligations.PmbusFaultFence := by
  unfold Obligations.PmbusFaultFence
  constructor
  · intro r w vout e s _ _ hruns hen hbits
    have read : FaultFenced r s (s.begin.readStatus r (some w)) :=
      State.readStatus_faultFenced (s := s.begin) hen ((statusFault_iff w).mpr hbits)
    exact ⟨_, exec_pmbusStatusPoll_of_runs _ _ _ hruns, read.of_prefix (State.prefix_statusPoll _ _ _ _ _)⟩
  · intro r w e s hs hr hruns hen hbits
    have runs : s.alerted.pmbRuns r = true := (State.alerted_pmbRuns hs hr).trans hruns
    have read : FaultFenced r s.alerted (s.alerted.readStatus r (some w)) :=
      State.readStatus_faultFenced (s.alerted_railEn ▸ hen) ((statusFault_iff w).mpr hbits)
    obtain ⟨hfenced, hcause⟩ := read.of_prefix (State.prefix_noteStatus List.prefix_rfl r (some w) false e)
    have before : s.alerted.railFenced r = s.railFenced r := State.railFenced_congr s.alerted_fences r
    exact ⟨_, exec_pmbAlert_of_runs _ _ runs, hfenced, fun hn => hcause (before.trans hn)⟩

end Sys2Proof.Machine
end

section
/-! What the scheduler's commands have in common: which register fields they write, and what a trace entry (R351) and the
depth registers (R350) leave as it was. -/
namespace Sys2Proof.Machine

/-! ## Which fields a command writes -/

/-- From a canonical register file on, no field but those of `fs` changes, and the file stays canonical. -/
def WritesOnly (fs : List Fld) (s t : State) : Prop :=
  regsOk s.regs = true → regsOk t.regs = true ∧ Untouched fs s t

namespace WritesOnly

variable {fs gs : List Fld} {f g : Fld} {s t u : State}

theorem of_regs_eq (h : t.regs = s.regs) : WritesOnly fs s t := fun hs =>
  ⟨by rwa [h], fun g _ _ => by rw [fld_eq, fld_eq, h]⟩

theorem trans (hst : WritesOnly fs s t) (htu : WritesOnly fs t u) : WritesOnly fs s u := by
  intro hs
  obtain ⟨ht, keepT⟩ := hst hs
  obtain ⟨hu, keepU⟩ := htu ht
  exact ⟨hu, fun g hg ha => (keepU g hg ha).trans (keepT g hg ha)⟩

theorem mono (h : WritesOnly fs s t) (hsub : fs ⊆ gs) : WritesOnly gs s t := fun hs =>
  ⟨(h hs).1, fun g hg ha => (h hs).2 g hg fun f hf => ha f (hsub hf)⟩

/-- A field that is none of those written reads as before. -/
theorem fld (h : WritesOnly fs s t) (hs : regsOk s.regs = true) (hg : g.ok = true) (ha : ∀ f ∈ fs, f.apart g = true) :
    t.fld g = s.fld g := (h hs).2 g hg ha

theorem setFld (h : WritesOnly fs s t) (hm : f ∈ fs) (hf : f.ok = true) (v : Nat) : WritesOnly fs s (t.setFld f v) :=
  h.trans fun ht => ⟨regsOk_regPut f v ht, fun _ hg ha => regFld_regPut_other v ht hf hg (ha f hm)⟩

/-- An event writes its bit of PG_IRQ_RAW (R11); every variant has the scheduler's page. -/
theorem irqSched (h : WritesOnly fs s t) {k : Nat} (hm : R.PG_IRQ_RAW_BIT pSCHED k ∈ fs) (hk : k < 32) :
    WritesOnly fs s (t.irq pSCHED k) := by
  have ok : (R.PG_IRQ_RAW_BIT pSCHED k).ok = true := by simp [Fld.ok, R.PG_IRQ_RAW_BIT, hk]
  refine (h.setFld hm ok 1).trans (of_regs_eq ?_)
  rw [regs_irq_of_ne t k (by decide) (by decide), regs_setFld]

end WritesOnly

/-- Fields of registers at different offsets are apart. -/
theorem Fld.apart_of_off_ne {f g : Fld} (hf : f.off < 0x1000) (hg : g.off < 0x1000) (h : f.off ≠ g.off) :
    f.apart g = true := by
  have key : regKey f.page f.off ≠ regKey g.page g.off := regKey_ne hg hf (.inr h)
  simp [Fld.apart, key]

/-- A field at an offset where none of the list stands is apart from all of them. -/
theorem apart_all_of_off_ne {fs : List Fld} {g : Fld} (hg : g.off < 0x1000)
    (h : ∀ f ∈ fs, f.off < 0x1000 ∧ f.off ≠ g.off) : ∀ f ∈ fs, f.apart g = true := fun f hf =>
  Fld.apart_of_off_ne (h f hf).1 hg (h f hf).2

/-- Outside WDT, which has a kick sequence to break (R355), a write takes the arm of its page and no more. -/
theorem State.disarm_of_ne (s : State) {p : Nat} (hp : p ≠ pWDT) : s.disarm p = s.setFld (R.PG_LOCK_ARMED p) 0 := by
  rw [State.disarm, if_neg hp]
  rfl

theorem State.disarmSched (s : State) : s.disarm pSCHED = s.setFld (R.PG_LOCK_ARMED pSCHED) 0 :=
  s.disarm_of_ne (by decide)

/-! ## A trace entry (R351) -/

/-- The fields that an event of the trace can change. -/
def traceFlds : List Fld := [R.SCHED_TRACE_STAT_ENTRIES, R.SCHED_TRACE_STAT_LOST, R.PG_IRQ_RAW_BIT pSCHED 3]

/-- All that differs is the trace: its ring, its fields, and lines that its interrupt makes wait to post. -/
structure Traced (s t : State) : Prop where
  rest : t = { s with regs := t.regs, posts := t.posts, sched := { s.sched with trace := t.sched.trace } }
  flds : WritesOnly traceFlds s t

namespace Traced

variable {s t u : State}

theorem refl (s : State) : Traced s s := ⟨rfl, .of_regs_eq rfl⟩

theorem trans (hst : Traced s t) (htu : Traced t u) : Traced s u := by
  refine ⟨?_, hst.flds.trans htu.flds⟩
  rw [htu.rest, hst.rest]

theorem out (h : Traced s t) : t.out = s.out := by rw [h.rest]
theorem mem (h : Traced s t) : t.mem = s.mem := by rw [h.rest]
theorem harts (h : Traced s t) : t.harts = s.harts := by rw [h.rest]
theorem items (h : Traced s t) : t.sched.items = s.sched.items := by rw [h.rest]
theorem hist (h : Traced s t) : t.sched.hist = s.sched.hist := by rw [h.rest]

end Traced

/-- An entry in the ring. -/
theorem State.holdTrace_traced (s : State) (es : List Nat) :
    Traced s { s with sched := { s.sched with trace := es } } :=
  ⟨rfl, .of_regs_eq rfl⟩

theorem State.setFld_traced (s : State) {f : Fld} (hm : f ∈ traceFlds) (hf : f.ok = true) (v : Nat) :
    Traced s (s.setFld f v) :=
  ⟨rfl, WritesOnly.setFld (.of_regs_eq rfl) hm hf v⟩

theorem State.irqTrace_traced (s : State) : Traced s (s.irq pSCHED 3) := by
  constructor
  · obtain ⟨r, ps, e⟩ := s.irq_eq pSCHED 3
    rw [e]
  · exact WritesOnly.irqSched (.of_regs_eq rfl) (by simp [traceFlds]) (by decide)

theorem State.traceItem_traced (s : State) (event hart queue eff tag seq : Nat) :
    Traced s (s.traceItem event hart queue eff tag seq) := by
  unfold State.traceItem
  dsimp only
  split
  · exact .refl s
  · split
    · exact (s.holdTrace_traced _).trans (State.setFld_traced _ (by simp [traceFlds]) rfl _)
    · split
      · exact s.holdTrace_traced _
      · exact (s.setFld_traced (by simp [traceFlds]) rfl _).trans (State.irqTrace_traced _)

theorem State.traceOf_traced (s : State) (event hart : Nat) (i : SchedItem) : Traced s (s.traceOf event hart i) :=
  State.traceItem_traced _ _ _ _ _ _ _

/-- The events of a list of items, one after another. -/
theorem State.foldl_traceOf_traced (event hart : Nat) : ∀ (is : List SchedItem) (s : State),
    Traced s (is.foldl (fun (u : State) i => u.traceOf event hart i) s)
  | [], s => .refl s
  | i :: is, s => (s.traceOf_traced event hart i).trans (foldl_traceOf_traced event hart is _)

/-! ## The depth registers (R350) -/

/-- The fields that follow the queues. -/
def queueFlds (q : Nat) : List Fld :=
  [R.SCHED_STATUS_ITEMS, R.SCHED_STATUS_FREE, R.SCHED_Q_DEPTH_DEPTH q, R.SCHED_Q_DEPTH_MAX q]

theorem State.showQueue_eq (s : State) (q : Nat) : ∃ free top, s.showQueue q =
    (((s.setFld R.SCHED_STATUS_ITEMS s.sched.items.length).setFld R.SCHED_STATUS_FREE free).setFld
      (R.SCHED_Q_DEPTH_DEPTH q) (s.queueDepth q)).setFld (R.SCHED_Q_DEPTH_MAX q) top := ⟨_, _, rfl⟩

@[simp] theorem State.showQueue_out (s : State) (q : Nat) : (s.showQueue q).out = s.out := by
  simp [State.showQueue]
@[simp] theorem State.showQueue_mem (s : State) (q : Nat) : (s.showQueue q).mem = s.mem := by
  simp [State.showQueue]
@[simp] theorem State.showQueue_harts (s : State) (q : Nat) : (s.showQueue q).harts = s.harts := by
  simp [State.showQueue]
@[simp] theorem State.showQueue_sched (s : State) (q : Nat) : (s.showQueue q).sched = s.sched := by
  simp [State.showQueue]

theorem State.showQueue_writesOnly (s : State) (q : Nat) : WritesOnly (queueFlds q) s (s.showQueue q) := by
  obtain ⟨free, top, e⟩ := s.showQueue_eq q
  rw [e]
  have start : WritesOnly (queueFlds q) s s := .of_regs_eq rfl
  exact (((start.setFld (by simp [queueFlds]) rfl _).setFld (by simp [queueFlds]) rfl free).setFld
    (by simp [queueFlds]) rfl _).setFld (by simp [queueFlds]) rfl top

/-- SCHED_Q_DEPTH.DEPTH shows the items of the queue. -/
theorem State.showQueue_depth (s : State) (q : Nat) (hs : regsOk s.regs = true) :
    (s.showQueue q).shows (R.SCHED_Q_DEPTH_DEPTH q) (s.queueDepth q) := by
  obtain ⟨free, top, e⟩ := s.showQueue_eq q
  have beside : (R.SCHED_Q_DEPTH_MAX q).apart (R.SCHED_Q_DEPTH_DEPTH q) = true := by
    simp [Fld.apart, R.SCHED_Q_DEPTH_MAX, R.SCHED_Q_DEPTH_DEPTH]
  have ok := regsOk_regPut R.SCHED_STATUS_FREE free (regsOk_regPut R.SCHED_STATUS_ITEMS s.sched.items.length hs)
  rw [e, State.shows, fld_eq]
  simp only [regs_setFld]
  rw [regFld_regPut_other _ (regsOk_regPut _ _ ok) rfl rfl beside, regFld_regPut_self _ _ ok rfl]

/-- An item's queue is one of the 64. -/
theorem SchedItem.queue_lt (i : SchedItem) : i.queue < 64 := Nat.mod_lt _ (by decide)

end Sys2Proof.Machine
end

section
/-! SCHED_TAKE (R347). -/
namespace Sys2Proof.Machine

/-- PMP lets a hart read, in M-mode or U-mode (R332, R358). -/
theorem Master.hart_holds_read (h : Nat) (mmode : Bool) : (Master.hart h mmode).holds rightRead = true := by
  simp [Master.holds, rightRead, rightTrace]

/-- The hart has taken `i`: `rest` stays in its slots, SCHED_CUR holds the rest of the descriptor, and the wait and the
hart's items are counted. -/
def State.takeItem (s : State) (h : Nat) (i : SchedItem) (rest : List SchedItem) : State :=
  ((s.setHart h { s.hart h with slots := rest, cur := i.words.drop 1 }).countWait i.queue (s.waitUs i)).inc
    (R.SCHED_CORE_ITEMS_N h)

/-- What follows the taken item: the slots in use, the depth of its queue, and the trace. -/
def State.showTaken (s : State) (h : Nat) (i : SchedItem) : State :=
  ((s.showSlots h).showQueue i.queue).traceOf 3 h i

theorem exec_schedTake_hart_nil {s : State} {h : Nat} (mmode : Bool) (he : (s.hart h).slots = []) :
    exec (.schedTake (.hart h mmode)) s = .next { s with out := [.readData 0] } := by
  show execSchedTake (.hart h mmode) s = _
  have slots : (s.begin.hart h).slots = [] := he
  simp only [execSchedTake, Master.hart_holds_read, Bool.not_true, Bool.false_eq_true, if_false, slots]
  rfl

/-- A remote principal takes nothing. -/
theorem exec_schedTake_remote (s : State) {m : Master} (hm : m.isRemote = true) (hr : m.holds rightRead = true) :
    exec (.schedTake m) s = .next { s with out := [.readData 0] } := by
  show execSchedTake m s = _
  cases m with
  | hart h mmode => cases hm
  | block => cases hm
  | lcp r => simp only [execSchedTake, hr, Bool.not_true, Bool.false_eq_true, if_false]; rfl
  | hspi r => simp only [execSchedTake, hr, Bool.not_true, Bool.false_eq_true, if_false]; rfl

theorem exec_schedTake_hart_cons {s : State} {h : Nat} (mmode : Bool) {i : SchedItem} {rest : List SchedItem}
    (he : (s.hart h).slots = i :: rest) : exec (.schedTake (.hart h mmode)) s =
      .next (((s.begin.takeItem h i rest).showTaken h i).emit (.readData (BitVec.ofNat 32 (i.words.getD 0 0)))) := by
  show execSchedTake (.hart h mmode) s = _
  have slots : (s.begin.hart h).slots = i :: rest := he
  simp only [execSchedTake, Master.hart_holds_read, Bool.not_true, Bool.false_eq_true, if_false, slots, State.takeItem,
    State.showTaken]

/-- A bin that counts is not 0 afterwards, so the sparse map lists it. -/
theorem State.countWait_hist (s : State) (q w : Nat) :
    mapGet 0 (s.countWait q w).sched.hist (q * 16 + histBin w) =
      min (mapGet 0 s.sched.hist (q * 16 + histBin w) + 1) (2 ^ 32 - 1) := by
  have counted : min (mapGet 0 s.sched.hist (q * 16 + histBin w) + 1) (2 ^ 32 - 1) ≠ 0 := by omega
  simp only [State.countWait, mapPut, if_neg counted, mapGet_mapIns_self]

@[simp] theorem State.countWait_out (s : State) (q w : Nat) : (s.countWait q w).out = s.out := by rw [State.countWait]
@[simp] theorem State.countWait_mem (s : State) (q w : Nat) : (s.countWait q w).mem = s.mem := by rw [State.countWait]
@[simp] theorem State.countWait_harts (s : State) (q w : Nat) : (s.countWait q w).harts = s.harts := by
  rw [State.countWait]
@[simp] theorem State.countWait_items (s : State) (q w : Nat) : (s.countWait q w).sched.items = s.sched.items := by
  rw [State.countWait]

@[simp] theorem State.emit_fld (s : State) (o : Output) (f : Fld) : (s.emit o).fld f = s.fld f := rfl

/-- What a taken item leaves of the state that the statement of SCHED_TAKE speaks of. -/
theorem State.takeItem_parts (s : State) (h : Nat) (i : SchedItem) (rest : List SchedItem) :
    (s.takeItem h i rest).out = s.out ∧ (s.takeItem h i rest).mem = s.mem ∧
      (s.takeItem h i rest).harts = s.harts.set h { s.hart h with slots := rest, cur := i.words.drop 1 } ∧
      (s.takeItem h i rest).sched.items = s.sched.items := by
  simp [State.takeItem, State.setHart]

theorem State.takeItem_hist (s : State) (h : Nat) (i : SchedItem) (rest : List SchedItem) :
    mapGet 0 (s.takeItem h i rest).sched.hist (i.queue * 16 + histBin (s.waitUs i)) =
      min (mapGet 0 s.sched.hist (i.queue * 16 + histBin (s.waitUs i)) + 1) (2 ^ 32 - 1) := by
  rw [State.takeItem, State.inc_sched, State.countWait_hist, State.setHart]

theorem State.takeItem_counted (s : State) (h : Nat) (i : SchedItem) (rest : List SchedItem)
    (hs : regsOk s.regs = true) : Counted s (s.takeItem h i rest) (R.SCHED_CORE_ITEMS_N h) 1 := by
  rw [Counted, State.takeItem, fld_eq, regs_inc]
  exact regFld_regPut_self _ _ hs rfl

theorem State.takeItem_regsOk (s : State) (h : Nat) (i : SchedItem) (rest : List SchedItem)
    (hs : regsOk s.regs = true) : regsOk (s.takeItem h i rest).regs = true :=
  regsOk_regPut (R.SCHED_CORE_ITEMS_N h) _ hs

/-- The fields that follow the taken item. -/
def takenFlds (h q : Nat) : List Fld := R.SCHED_CORE_SLOT_USED h :: queueFlds q ++ traceFlds

theorem State.showTaken_writesOnly (s : State) (h : Nat) (i : SchedItem) :
    WritesOnly (takenFlds h i.queue) s (s.showTaken h i) := by
  have slots : WritesOnly [R.SCHED_CORE_SLOT_USED h] s (s.showSlots h) :=
    WritesOnly.setFld (.of_regs_eq rfl) (List.mem_singleton_self _) rfl _
  have depth := (s.showSlots h).showQueue_writesOnly i.queue
  have trace := (((s.showSlots h).showQueue i.queue).traceOf_traced 3 h i).flds
  exact ((slots.mono (by simp [takenFlds])).trans (depth.mono (by simp [takenFlds]))).trans
    (trace.mono (by simp [takenFlds]))

theorem State.showTaken_parts (s : State) (h : Nat) (i : SchedItem) : (s.showTaken h i).out = s.out ∧
    (s.showTaken h i).mem = s.mem ∧ (s.showTaken h i).harts = s.harts ∧
    (s.showTaken h i).sched.items = s.sched.items ∧ (s.showTaken h i).sched.hist = s.sched.hist := by
  have traced := ((s.showSlots h).showQueue i.queue).traceOf_traced 3 h i
  rw [State.showTaken, traced.out, traced.mem, traced.harts, traced.items, traced.hist]
  simp [State.showSlots]

/-- The counter of the hart's items is none of the fields that follow it. -/
theorem takenFlds_apart_items {h q : Nat} (hh : h < 8) (hq : q < 64) :
    ∀ f ∈ takenFlds h q, f.apart (R.SCHED_CORE_ITEMS_N h) = true := by
  refine apart_all_of_off_ne ?_ ?_
  · simp only [R.SCHED_CORE_ITEMS_N]
    omega
  · simp [takenFlds, queueFlds, traceFlds, R.SCHED_CORE_SLOT_USED, R.SCHED_STATUS_ITEMS, R.SCHED_STATUS_FREE,
      R.SCHED_Q_DEPTH_DEPTH, R.SCHED_Q_DEPTH_MAX, R.SCHED_TRACE_STAT_ENTRIES, R.SCHED_TRACE_STAT_LOST,
      R.PG_IRQ_RAW_BIT, R.SCHED_CORE_ITEMS_N]
    omega

/-- Settles O42: the three cases of the read; after the item is taken, what follows the slots, the depth and the trace
leaves the hart, the queued items, the histogram and the counter as taking left them. -/
theorem takeSlotZero : Obligations.TakeSlotZero := by
  unfold Obligations.TakeSlotZero
  refine ⟨fun h mmode s he => ⟨_, exec_schedTake_hart_nil mmode he, rfl⟩, fun m n s hm hr => ?_,
    fun h mmode i rest s hs hh he => ⟨_, exec_schedTake_hart_cons mmode he, ?_⟩⟩
  · have remote : m.isRemote = true := by
      rcases List.mem_cons.mp hm with rfl | hm
      · rfl
      · rw [List.mem_singleton.mp hm]
        rfl
    exact ⟨_, exec_schedTake_remote s remote hr, rfl⟩
  · obtain ⟨takenOut, takenMem, takenHarts, takenItems⟩ := s.begin.takeItem_parts h i rest
    have takenHist := s.begin.takeItem_hist h i rest
    have counted := s.begin.takeItem_counted h i rest hs.regs
    have ok := s.begin.takeItem_regsOk h i rest hs.regs
    rw [Counted, State.begin_fld] at counted
    rw [State.begin_sched, State.begin_waitUs] at takenHist
    obtain ⟨out, mem, harts, items, hist⟩ := (s.begin.takeItem h i rest).showTaken_parts h i
    have kept := (State.showTaken_writesOnly _ h i).fld ok rfl (takenFlds_apart_items hh i.queue_lt)
    refine ⟨?_, ?_, ?_, ?_, ?_, ?_⟩
    · rw [State.emit_out, out, takenOut, State.begin_out, List.nil_append]
    · rw [State.emit_mem, mem, takenMem, State.begin_mem]
    · rw [State.emit_harts, harts, takenHarts, State.begin_harts, State.begin_hart]
    · rw [State.emit_sched, items, takenItems, State.begin_sched]
    · rw [Counted, State.emit_fld, kept, counted]
    · rw [State.emit_sched, hist, takenHist]

end Sys2Proof.Machine
end

section
/-! SCHED_QFLUSH (R349), and the push that follows one (R345). -/
namespace Sys2Proof.Machine

/-- The write before its GO: QUEUE names the queue. -/
def State.selectFlush (s : State) (q : Nat) : State := (s.disarm pSCHED).setFld R.SCHED_QFLUSH_QUEUE q

/-- The items of a queue leave it and are counted. -/
def State.dropQueue (s : State) (q : Nat) : State :=
  State.add { s with sched := { s.sched with items := s.sched.items.filter fun i => i.queue ≠ q } }
    R.SCHED_CNT_FLUSHED_N (s.queueDepth q)

/-- GO: the items of a queue are discarded, counted and traced. -/
def State.flushQueue (s : State) (q : Nat) : State :=
  (s.sched.items.filter fun i => i.queue = q).foldl (fun (u : State) i => u.traceOf 5 0 i)
    ((s.dropQueue q).showQueue q)

theorem exec_schedQflush (s : State) {m : Master} (v : Word) (hm : m.holds rightSecure = true) :
    exec (.schedQflush m v) s = .next (if bitSet v.toNat 31 then
      (s.begin.selectFlush (bits v.toNat 5 0)).flushQueue (bits v.toNat 5 0)
      else s.begin.selectFlush (bits v.toNat 5 0)) := by
  show execSchedQflush m v s = _
  rw [execSchedQflush, State.asWrite, if_pos hm]
  cases bitSet v.toNat 31 <;> rfl

theorem State.selectFlush_eq (s : State) (q : Nat) :
    s.selectFlush q = (s.setFld (R.PG_LOCK_ARMED pSCHED) 0).setFld R.SCHED_QFLUSH_QUEUE q := by
  rw [State.selectFlush, State.disarmSched]

theorem State.selectFlush_parts (s : State) (q : Nat) : (s.selectFlush q).out = s.out ∧
    (s.selectFlush q).mem = s.mem ∧ (s.selectFlush q).harts = s.harts ∧ (s.selectFlush q).sched = s.sched := by
  simp [State.selectFlush_eq]

theorem State.selectFlush_writesOnly (s : State) (q : Nat) :
    WritesOnly [R.SCHED_QFLUSH_QUEUE, R.PG_LOCK_ARMED pSCHED] s (s.selectFlush q) := by
  have start : WritesOnly [R.SCHED_QFLUSH_QUEUE, R.PG_LOCK_ARMED pSCHED] s s := .of_regs_eq rfl
  rw [State.selectFlush_eq]
  exact (start.setFld (by simp) rfl 0).setFld (by simp) rfl q

theorem State.selectFlush_queue (s : State) {q : Nat} (hq : q < 64) (hs : regsOk s.regs = true) :
    (s.selectFlush q).fld R.SCHED_QFLUSH_QUEUE = q := by
  rw [State.selectFlush_eq, fld_eq, regs_setFld, regs_setFld, regFld_regPut_self _ _ (regsOk_regPut _ _ hs) rfl]
  exact Nat.mod_eq_of_lt hq

theorem State.dropQueue_writesOnly (s : State) (q : Nat) : WritesOnly [R.SCHED_CNT_FLUSHED_N] s (s.dropQueue q) :=
  WritesOnly.setFld (.of_regs_eq rfl) (List.mem_singleton_self _) rfl _

/-- Nothing of the queue is left. -/
theorem State.dropQueue_queueDepth (s : State) (q : Nat) : (s.dropQueue q).queueDepth q = 0 := by
  simp [State.queueDepth, State.dropQueue]

theorem State.dropQueue_counted (s : State) (q : Nat) (hs : regsOk s.regs = true) :
    Counted s (s.dropQueue q) R.SCHED_CNT_FLUSHED_N (s.queueDepth q) := by
  rw [Counted, State.dropQueue, fld_eq, regs_add, regFld_regPut_self _ _ hs rfl, fld_eq]

theorem State.flushQueue_traced (s : State) (q : Nat) : Traced ((s.dropQueue q).showQueue q) (s.flushQueue q) :=
  State.foldl_traceOf_traced _ _ _ _

/-- What follows the items' leaving: the depth of the queue, and the trace. -/
theorem State.flushQueue_writesOnly (s : State) (q : Nat) :
    WritesOnly (queueFlds q ++ traceFlds) (s.dropQueue q) (s.flushQueue q) :=
  ((State.showQueue_writesOnly _ q).mono (by simp)).trans ((s.flushQueue_traced q).flds.mono (by simp))

theorem State.flushQueue_parts (s : State) (q : Nat) : (s.flushQueue q).out = s.out ∧
    (s.flushQueue q).mem = s.mem ∧ (s.flushQueue q).harts = s.harts ∧
    (s.flushQueue q).sched.items = s.sched.items.filter fun i => i.queue ≠ q := by
  have traced := s.flushQueue_traced q
  rw [traced.out, traced.mem, traced.harts, traced.items]
  simp [State.dropQueue]

theorem queueDepth_apart_trace {q : Nat} (hq : q < 64) :
    ∀ f ∈ traceFlds, f.apart (R.SCHED_Q_DEPTH_DEPTH q) = true := by
  refine apart_all_of_off_ne ?_ ?_
  · simp only [R.SCHED_Q_DEPTH_DEPTH]
    omega
  · simp [traceFlds, R.SCHED_TRACE_STAT_ENTRIES, R.SCHED_TRACE_STAT_LOST, R.PG_IRQ_RAW_BIT, R.SCHED_Q_DEPTH_DEPTH]
    omega

theorem State.flushQueue_depth (s : State) {q : Nat} (hq : q < 64) (hs : regsOk s.regs = true) :
    (s.flushQueue q).fld (R.SCHED_Q_DEPTH_DEPTH q) = 0 := by
  have ok := (s.dropQueue_writesOnly q hs).1
  have shown := (s.dropQueue q).showQueue_depth q ok
  have later := (s.flushQueue_traced q).flds.fld ((s.dropQueue q).showQueue_writesOnly q ok).1 rfl
    (queueDepth_apart_trace hq)
  rw [later, shown, s.dropQueue_queueDepth, Nat.zero_mod]

/-- The registers of the flush stand beside those that follow the queues and the trace. -/
theorem flush_apart {q : Nat} (hq : q < 64) {g : Fld} (hg : g = R.SCHED_CNT_FLUSHED_N ∨ g = R.SCHED_QFLUSH_QUEUE) :
    ∀ f ∈ queueFlds q ++ traceFlds, f.apart g = true := by
  rcases hg with rfl | rfl <;> refine apart_all_of_off_ne (by decide) ?_ <;>
  · simp [queueFlds, traceFlds, R.SCHED_STATUS_ITEMS, R.SCHED_STATUS_FREE,
      R.SCHED_Q_DEPTH_DEPTH, R.SCHED_Q_DEPTH_MAX, R.SCHED_TRACE_STAT_ENTRIES, R.SCHED_TRACE_STAT_LOST,
      R.PG_IRQ_RAW_BIT, R.SCHED_CNT_FLUSHED_N, R.SCHED_QFLUSH_QUEUE]
    omega

theorem State.flushQueue_counted (s : State) {q : Nat} (hq : q < 64) (hs : regsOk s.regs = true) :
    Counted s (s.flushQueue q) R.SCHED_CNT_FLUSHED_N (s.queueDepth q) := by
  have later := (s.flushQueue_writesOnly q).fld (s.dropQueue_writesOnly q hs).1 rfl (flush_apart hq (.inl rfl))
  rw [Counted, later, s.dropQueue_counted q hs]

theorem State.flushQueue_queue (s : State) {q : Nat} (hq : q < 64) (hs : regsOk s.regs = true) :
    (s.flushQueue q).fld R.SCHED_QFLUSH_QUEUE = s.fld R.SCHED_QFLUSH_QUEUE := by
  have dropped := (s.dropQueue_writesOnly q).fld hs (g := R.SCHED_QFLUSH_QUEUE) rfl (by decide)
  rw [(s.flushQueue_writesOnly q).fld (s.dropQueue_writesOnly q hs).1 rfl (flush_apart hq (.inr rfl)), dropped]

/-! ## A push after the flush -/

/-- A push adds its item behind those queued, or none. -/
theorem State.pushItem_items (s : State) (h : Nat) (ws : List Nat) :
    (s.pushItem h ws).1.sched.items = s.sched.items ∨
      ∃ i : SchedItem, (s.pushItem h ws).1.sched.items = s.sched.items ++ [i] ∧ i.words = ws := by
  unfold State.pushItem
  dsimp only
  split
  · refine .inr ⟨⟨ws, s.router.mtime, s.sched.seq + 1, false⟩, ?_, rfl⟩
    rw [(State.traceOf_traced _ _ _ _).items, State.showQueue_sched]
  · refine .inl ?_
    rw [State.drawn_sched, (State.traceItem_traced _ _ _ _ _ _ _).items, State.irq_sched, State.inc_sched]

@[simp] theorem State.setHart_sched (s : State) (h : Nat) (x : HartS) : (s.setHart h x).sched = s.sched := rfl

@[simp] theorem State.setFld_hart (s : State) (f : Fld) (v h : Nat) : (s.setFld f v).hart h = s.hart h := rfl

theorem exec_schedPush_hart_items {s t : State} {h : Nat} {mmode : Bool} {v : Word}
    (he : exec (.schedPush (.hart h mmode) v) s = .next t) : t.sched.items = s.sched.items ∨
      ∃ i : SchedItem, t.sched.items = s.sched.items ++ [i] ∧ i.words = (s.hart h).push.set 7 v.toNat := by
  change execSchedPush (.hart h mmode) v s = .next t at he
  have right : (Master.hart h mmode).holds rightSecure = true := by simp [Master.holds, rightSecure, rightTrace]
  rw [execSchedPush, State.asWrite, if_pos right, State.disarmSched] at he
  simp only [State.setFld_hart, State.begin_hart] at he
  cases allowed : descriptorOk ((s.hart h).push.set 7 v.toNat) with
  | false =>
    simp only [allowed, Bool.not_false, if_true] at he
    cases he
  | true =>
    simp only [allowed, Bool.not_true, Bool.false_eq_true, if_false] at he
    injection he with pushed
    rw [← pushed, State.setHart_sched]
    have items := State.pushItem_items (s.begin.setFld (R.PG_LOCK_ARMED pSCHED) 0) h
      ((s.hart h).push.set 7 v.toNat)
    rw [State.setFld_sched, State.begin_sched] at items
    exact items

/-! ## The statement -/

/-- Settles O43: QUEUE is written first; GO takes what is queued then, so that a later push finds the flush done and adds
its item behind what is left. -/
theorem queueFlush : Obligations.QueueFlush := by
  unfold Obligations.QueueFlush
  refine ⟨fun m v s hs hm => ⟨_, exec_schedQflush s v hm, ?_⟩, fun m v u h mmode s t _ x hx =>
    exec_schedPush_hart_items hx⟩
  have hq : bits v.toNat 5 0 < 64 := Nat.mod_lt _ (by decide)
  dsimp only
  generalize bits v.toNat 5 0 = q at hq ⊢
  obtain ⟨out, mem, harts, sched⟩ := s.begin.selectFlush_parts q
  have written := s.begin.selectFlush_writesOnly q
  have ok := (written hs.regs).1
  have queue := s.begin.selectFlush_queue hq hs.regs
  cases hgo : bitSet v.toNat 31 with
  | false =>
    rw [if_neg (by decide), queue, out, mem, harts, sched]
    exact ⟨rfl, rfl, rfl, rfl, fun _ => ⟨rfl, (written hs.regs).2⟩, fun go => by cases go⟩
  | true =>
    obtain ⟨flushOut, flushMem, flushHarts, items⟩ := (s.begin.selectFlush q).flushQueue_parts q
    rw [if_pos rfl, State.flushQueue_queue _ hq ok, queue, flushOut, out, flushMem, mem, flushHarts, harts, items,
      sched, State.flushQueue_depth _ hq ok]
    refine ⟨rfl, rfl, rfl, rfl, fun stay => (by cases stay), fun _ => ⟨rfl, rfl, ?_⟩⟩
    have counted := State.flushQueue_counted (s.begin.selectFlush q) hq ok
    rw [Counted, State.queueDepth, sched, written.fld hs.regs rfl (by decide)] at counted
    exact counted

end Sys2Proof.Machine
end

section
/-! The trace registers without trace privilege (R352), and why O44 fails: a latched word reads before the privilege is
asked for. -/
namespace Sys2Proof.Machine

/-! ## A read of SCHED_TRACE_HI (R351, R352) -/

/-- An aligned read within an assigned page reaches that page, whoever makes it. -/
theorem State.busRead_of_assigned (s : State) (m : Master) {page off : Nat} (hp : pageAssigned page = true)
    (ho : off < 0x1000) (ha : off % 4 = 0) : s.busRead m page off = s.regRead m page off := by
  have hlt := lt_of_pageAssigned hp
  have hmod : (page * 0x1000 + off) % 4 = 0 := by omega
  have hin : ¬ 0x50000 ≤ page * 0x1000 + off := by omega
  have hpage : (page * 0x1000 + off) / 0x1000 = page := by omega
  have hoff : (page * 0x1000 + off) % 0x1000 = off := by omega
  cases m <;> simp [State.busRead, hmod, hin, hpage, hoff]

/-- SCHED_TRACE_HI is no register whose read is a command, and latches no other. -/
theorem exec_latchingRegisterRead_traceHi (s : State) {m : Master} (hm : m.mayRead pSCHED 0x610 = true) :
    exec (.latchingRegisterRead m pSCHED 0x610) s =
      .next (s.begin.drawn.emit (.readData (s.begin.regWord m pSCHED 0x610))) := by
  have special : s.begin.specialRead m pSCHED 0x610 = none := rfl
  have assigned : pageAssigned pSCHED = true := by decide
  have plain : s.begin.plainRead m pSCHED 0x610 =
      s.begin.drawn.emit (.readData (s.begin.regWord m pSCHED 0x610)) := rfl
  refine (s.begin.busRead_of_assigned m assigned (by decide) (by decide)).trans ?_
  rw [State.regRead, assigned, hm, special, plain]
  rfl

/-- All 32 bits of SCHED_TRACE_HI are read-only, so a latched word reads whole, whoever reads it. -/
theorem State.regWord_traceHi_of_latched {s : State} (m : Master) {w : Word} (h : s.latched pSCHED 0x610 = some w) :
    s.regWord m pSCHED 0x610 = w := by
  have spec : findReg pSCHED 0x610 = some ⟨0x610, 0, 1, 0, 0, 0, 0, 0, 0, 0xFFFFFFFF⟩ := by decide
  have closed : s.openBits m pSCHED 0x610 = 0 := rfl
  have whole : Nat.land w.toNat (2 ^ 32 - 1) = w.toNat := by
    rw [show Nat.land w.toNat (2 ^ 32 - 1) = w.toNat % 2 ^ 32 from Nat.and_two_pow_sub_one_eq_mod _ _]
    exact Nat.mod_eq_of_lt w.isLt
  have drop : ∀ n, Nat.land n 0 = 0 := Nat.and_zero
  have keep : ∀ n, Nat.lor n 0 = n := Nat.or_zero
  simp only [State.regWord, spec, h, closed]
  show BitVec.ofNat 32 (Nat.lor (Nat.land w.toNat (2 ^ 32 - 1)) (Nat.land (s.freeBits 32) 0)) = w
  rw [whole, drop, keep, BitVec.ofNat_toNat, BitVec.setWidth_eq]

/-! ## The counterexample -/

/-- A module out of reset, with a word latched for SCHED_TRACE_HI. -/
def traceHiLatched : State := { outOfReset with latches := [(regKey pSCHED 0x610, 1#32)] }

theorem traceHiLatched_ok : traceHiLatched.Ok := by
  unfold State.Ok
  decide

/-- Refutes O44, in its clause that reads return 0: a read gives a register's latched word before it asks who reads, so a
U-mode hart, which has no trace privilege, reads the word that `traceHiLatched` holds for SCHED_TRACE_HI. No command
latches a register of page SCHED (`latchTable`), but the clause speaks of every state whose memories and register file
are in canonical form, and that says nothing of what is latched. -/
theorem not_traceNeedsPrivilege : ¬ Obligations.TraceNeedsPrivilege := by
  unfold Obligations.TraceNeedsPrivilege
  rintro ⟨-, -, -, hread, -⟩
  have mayRead : (Master.hart 0 false).mayRead pSCHED 0x610 = true := rfl
  obtain ⟨t, ht, hout, -⟩ := hread (.hart 0 false) 0x610 traceHiLatched traceHiLatched_ok rfl mayRead (by decide)
  have latched : traceHiLatched.begin.latched pSCHED 0x610 = some 1#32 := rfl
  rw [exec_latchingRegisterRead_traceHi _ mayRead, State.regWord_traceHi_of_latched _ latched] at ht
  cases ht
  exact absurd hout (by decide)

end Sys2Proof.Machine
end
